-- ==== Sys2Proof/Word.lean ====
section
/-! DEFINITION. The word and byte types of the SV8 and the abbreviations every other file uses. -/

namespace Sys2Proof

/-- A 64-bit register, control-space entry or memory word. -/
abbrev Word := BitVec 64

/-- One byte of device memory or payload. -/
abbrev Byte := BitVec 8

/-- An instruction word (R47). -/
abbrev InsnWord := BitVec 32

/-- The content of one 4 KiB block or payload, byte 0 first; a byte past the end of the list is zero. -/
abbrev Block := List Byte

/-- A 16-bit status (R8, R88). -/
abbrev Status := BitVec 16

/-- A general register number, 0 to 31 (R47). -/
abbrev Reg := BitVec 5

end Sys2Proof
end

