-- ==== Sys2Proof/Syntax.lean ====
section
/-! DEFINITION. The commands of the SV8: one constructor of `Instr` for each row of the opcode table, with the
operands the row's rule gives it. The first group are Ortur instructions, issued by a thread; the rest are the
datagrams, frames, register writes, timers and pin events that the manual's other rules describe. -/

namespace Sys2Proof

/-- A hardware thread: slate and thread index 4e + k within the slate (R19). -/
structure Thread where
  slate : Nat
  idx   : Nat
  deriving DecidableEq, Repr

/-- R form (R47): the three register fields and the minor field. -/
structure RForm where
  t     : Thread
  d     : Reg
  a     : Reg
  b     : Reg
  minor : BitVec 11
  deriving DecidableEq, Repr

/-- R form of an instruction whose minor field is wholly its operation code (ALU and atomic groups). -/
structure R3 where
  t : Thread
  d : Reg
  a : Reg
  b : Reg
  deriving DecidableEq, Repr

/-- I form (R47). -/
structure IForm where
  t   : Thread
  d   : Reg
  a   : Reg
  imm : BitVec 16
  deriving DecidableEq, Repr

/-- An immediate of the I form, or of the X form with its reserved bits [9:0] (R47, R48). -/
inductive Imm where
  | short (v : BitVec 16)
  | long (z : BitVec 10) (v : BitVec 32)
  deriving DecidableEq, Repr

/-- The second operand of ADD, AND, OR, XOR and CMP: a register or an immediate (R55). -/
inductive Src where
  | reg (b : Reg)
  | imm (i : Imm)
  deriving DecidableEq, Repr

/-- The count of a shift: a register or imm16 with [15:6] reserved (R55). -/
inductive Count where
  | reg (b : Reg)
  | imm (v : BitVec 16)
  deriving DecidableEq, Repr

/-- ADD, AND, OR, XOR, CMP in any of their forms. -/
structure AluForm where
  t   : Thread
  d   : Reg
  a   : Reg
  src : Src
  deriving DecidableEq, Repr

/-- SHL, SHR, SAR in either form. -/
structure ShiftForm where
  t   : Thread
  d   : Reg
  a   : Reg
  cnt : Count
  deriving DecidableEq, Repr

/-- B, Bcc and CALL in I or X form (R57). -/
structure BranchForm where
  t   : Thread
  d   : Reg
  a   : Reg
  off : Imm
  deriving DecidableEq, Repr

/-- One member of the handle group (R62), whose minor[10:8] selects the operation. -/
structure HForm where
  t   : Thread
  d   : Reg
  a   : Reg
  b   : Reg
  low : BitVec 8
  deriving DecidableEq, Repr

/-- A received UDP datagram: its encapsulation (R104) and the header fields of R106. `port` is the slate whose port it came in
by, `mac` its Ethernet source, `source` the IP source address and UDP source port as one number, `dest` its IP destination and
`udpPort` its UDP destination port; `fragment` says that its packet is a fragment, and `sum` whether its UDP checksum verifies,
none where it is zero. `payload` and `tag` are the bytes after the header: a sealed datagram's payload is the ciphertext. -/
structure Datagram where
  port     : Nat
  cls      : Nat
  ipv4     : Bool
  mac      : BitVec 48
  source   : Nat
  dest     : Nat
  udpPort  : Nat
  fragment : Bool
  sum      : Option Bool
  ver      : BitVec 4
  type     : BitVec 4
  flags    : BitVec 8
  length   : BitVec 16
  dstUa   : BitVec 16
  srcUa   : BitVec 16
  host    : BitVec 32
  hqTag   : BitVec 32
  nonce   : Word
  keyId   : BitVec 32
  slot    : BitVec 16
  status  : BitVec 16
  offset  : Word
  check   : Word
  payload : Block
  tag     : Block
  deriving DecidableEq, Repr

/-- A frame arriving at a switch core (R223 to R237): its ingress port, its class marking, its size, whether its
check passed, the TB of its start of frame, and the fields the lookup uses. `copies` is the slate mask of a multicast frame, 0 for unicast; `home` is the slate
where it was looked up and `entry` the port it entered there, and at a fabric port `path` the hops it still has and `lane` its lane
(R226, R227). -/
structure FrameIn where
  slate   : Nat
  sof     : Nat
  home    : Nat
  entry   : Nat
  path    : List (Nat × Nat)
  lane    : Nat
  port    : Nat
  sub     : Nat
  pcp     : Nat
  dscp    : Nat
  bytes   : Nat
  checkOk : Bool
  exempt  : Bool
  kind    : Nat
  ident   : Nat
  dst     : Nat
  dstPort : Nat
  dstSub  : Nat
  copies  : Nat
  deriving DecidableEq, Repr

/-- A heartbeat received from the partner (R287). -/
structure Heartbeat where
  bay    : Nat
  role   : Nat
  flags  : BitVec 8
  slates : Nat
  bootId : Word
  epoch  : Nat
  tb     : Word
  deriving DecidableEq, Repr

/-- A drive found on a port: what R179 checks, what R219 reads, and what FORMAT and SANITIZE ask of a member (R97, R165). `zs`
is the zone capacity in strips, 0 where it is no multiple of 128 KiB, and `zoneLbas` the zone size in LBAs; `zoneRes` the smaller
of the Maximum Open and Maximum Active Resources; bit a of `sanCap` says that the sanitize action a of R97 is supported, and
`lowPs` is the deepest non-operational power state it reports (R98), 0 for none. -/
structure Drive where
  conforms : Bool
  zoned    : Bool
  nguid    : Nat
  strips   : Nat
  speed    : Nat
  width    : Nat
  zs       : Nat
  zoneLbas : Nat
  zoneRes  : Nat
  sanCap   : Nat
  lowPs    : Nat
  deriving DecidableEq, Repr

/-- A Sync at the time receiver, with its Follow_Up where the transmitter is two-step (R129): its domain and transport, whether its
sender is the best time transmitter announced on the port, and the PTP time it gives for this instant. -/
structure PtpMessage where
  domain    : Nat
  transport : Nat
  best      : Bool
  time      : Word
  deriving DecidableEq, Repr

/-- A write of an injection entry, and a real hit of a detector of the same space in the same CLK_M cycle (R326, R327): its source
and detail words. -/
structure Injection where
  value : Word
  real  : Option (Nat × List Word)
  deriving DecidableEq, Repr

/-- A SANITIZE call: its job, and whether the entropy source works (R339). -/
structure SanitizeCall where
  job   : Nat
  rngOk : Bool
  deriving DecidableEq, Repr

/-- A reservation key as it stands on a witness (R289). -/
structure ResvKey where
  epoch : Nat
  bay   : Nat
  lease : Bool
  excl  : Bool
  renew : Nat
  deriving DecidableEq, Repr

/-- What one witness shows in a poll: whether it answers, and the other bay's key on it. -/
structure WitnessView where
  member : Nat
  key    : Option ResvKey
  deriving DecidableEq, Repr

/-- One witness's answers to a renewal round or an acquisition. -/
inductive WitnessAnswer where
  | success
  | conflict
  | failed (nvmeStatus : Nat)
  deriving DecidableEq, Repr

/-- A received HELLO body (R303). -/
structure HelloBody where
  enum    : BitVec 16
  bay     : Nat
  hasPos  : Bool
  head    : Bool
  ua      : BitVec 16
  mac     : Nat
  deriving DecidableEq, Repr

/-- SHELF_POS of CENSUS and ASSIGN: a position and its valid bit (R303). -/
structure ShelfPos where
  pos   : BitVec 6
  valid : Bool
  deriving DecidableEq, Repr

/-- A CENSUS frame body (R303, R305). -/
structure CensusBody where
  enum      : BitVec 16
  chain     : BitVec 10
  prev      : BitVec 10
  claim     : Word
  shelves   : Nat
  sameShelf : Bool
  shelfPos  : ShelfPos
  deriving DecidableEq, Repr

/-- A TALLY frame body. -/
structure TallyBody where
  enum    : BitVec 16
  chain   : BitVec 10
  claim   : Word
  shelves : Nat
  deriving DecidableEq, Repr

/-- An ASSIGN frame body. -/
structure AssignBody where
  enum      : BitVec 16
  chain     : BitVec 10
  taken     : Word
  sameShelf : Bool
  shelfPos  : ShelfPos
  deriving DecidableEq, Repr

/-- One thermal diode reading in degrees Celsius: slate junction or HBM stack (R368). -/
structure Diode where
  slate : Nat
  hbm   : Bool
  temp  : Int
  deriving DecidableEq, Repr

/-- The supply and pin levels the sequencer samples for a start (R364, R365): millivolts, and for how many
nanoseconds LM_N has been low. -/
structure StartPins where
  feedA    : Nat
  feedB    : Nat
  lmLowNs  : Nat
  pcycHigh : Bool
  deriving DecidableEq, Repr

/-- What the boot ROM finds in one flash bank (R341, R342): the header checks against fuses are the model's. -/
structure BankImage where
  rootMatches : Bool
  stepping    : BitVec 16
  secVersion  : Nat
  fits        : Bool
  testImage   : Bool
  sigOk       : Bool
  release     : Nat
  measure     : Block
  deriving DecidableEq, Repr

/-- What the module reads as it leaves reset: the two banks and the preferred one as the flash left the factory (R341),
the slots whose stored image is damaged (R355), and BAY_SEL (R286). -/
structure BootIn where
  bankA    : BankImage
  bankB    : BankImage
  preferB  : Bool
  badSlots : List Nat
  bayHigh  : Bool
  deriving DecidableEq, Repr

/-- One readable journal copy at recovery (R201): the owner, the holder it is read from (by its place in the list of R191), the
last SEQ it holds beyond what it has acknowledged, and the SEQ numbers of lines whose CRC or ECC fails (R187). -/
structure JournalCopy where
  owner  : Nat
  holder : Nat
  upTo   : Nat
  torn   : List Nat
  deriving DecidableEq, Repr

/-- How a SECURE operation ends, as far as the block's surroundings decide it: whether the signature it checks verifies
(R344, R356), whether the entropy source passes its health test (R339), and whether the boot flash takes a write. -/
structure SecureOutcome where
  sigOk   : Bool
  rngOk   : Bool
  flashOk : Bool
  deriving DecidableEq, Repr

/-- What PROGRAM_INSTALL's checks find beyond the image itself: whether the signature verifies (R100), and whether the
boot flash takes the image (R355). -/
structure ProgImage where
  sigOk   : Bool
  flashOk : Bool
  deriving DecidableEq, Repr

/-- What an NVMe completion carries (R66): the status field DW3[31:17], DW0, and the data moved from the member in 4 KiB
pieces, `none` for a grain of a read that the member cannot return. -/
structure NvmeResult where
  statusField : Nat
  dw0         : Nat
  data        : List (Option Block)
  deriving DecidableEq, Repr

/-- The commands of the SV8, one constructor per row of the opcode table, in the table's order. -/
inductive Instr where
  -- Ortur instructions (R55 to R77)
  | add (o : AluForm)
  | sub (o : R3)
  | mul (o : R3)
  | mulh (o : R3)
  | mulhu (o : R3)
  | and (o : AluForm)
  | or (o : AluForm)
  | xor (o : AluForm)
  | shl (o : ShiftForm)
  | shr (o : ShiftForm)
  | sar (o : ShiftForm)
  | cmp (o : AluForm)
  | b (o : BranchForm)
  | bcc (o : BranchForm)
  | call (o : BranchForm)
  | ret (o : RForm)
  | ldb (o : IForm)
  | ldh (o : IForm)
  | ldw (o : IForm)
  | ldd (o : IForm)
  | stb (o : IForm)
  | sth (o : IForm)
  | stw (o : IForm)
  | std (o : IForm)
  | ldx (o : RForm)
  | stx (o : RForm)
  | aadd (o : R3)
  | acas (o : R3)
  | bget (o : RForm)
  | bput (o : RForm)
  | hsub (o : HForm)
  | hlen (o : HForm)
  | hnew (o : HForm)
  | recv (o : RForm)
  | send (o : RForm)
  | dsub (o : RForm)
  | crd (o : RForm)
  | dwait (o : RForm)
  | capp (o : RForm)
  | mget (o : RForm)
  | mset (o : RForm)
  | haz (o : RForm)
  | hrel (o : RForm)
  | shka (o : RForm)
  | shks (o : RForm)
  | evw (o : RForm)
  | evs (o : IForm)
  | cget (o : RForm)
  | cset (o : RForm)
  | cswap (o : RForm)
  | pmc (o : RForm)
  | gets (o : IForm)
  | yield (o : RForm)
  | done (o : RForm)
  | fail (o : RForm)
  | trap (o : IForm)
  -- jobs, threads and events (R22 to R40)
  | budgetExhausted (t : Thread)
  | jobResume (job : Nat)
  | threadTakeWork (slate : Nat)
  | commandDispatch (hq : Nat) (tag : Nat)
  | jobEnded (job : Nat)
  | hkTrapRestart (slate n : Nat)
  | hkRestart (slate n : Nat) (v : Word)
  | evwEventReturn (slate n : Nat)
  | evwTimeout (job : Nat)
  | eventLaunch (slate event : Nat)
  -- BIRL datagrams and host queues
  | command (d : Datagram)
  | dataIn (d : Datagram)
  | abort (d : Datagram)
  | queueResetAbort (d : Datagram)
  | contextFetchDone (hq : Nat)
  | parkPauseRelease (slate : Nat)
  | inboundBufferAlloc (slate : Nat)
  | rmaRead (d : Datagram)
  | rmaWrite (d : Datagram)
  | rmaAadd (d : Datagram)
  | rmaAcas (d : Datagram)
  | rmaAcas128 (d : Datagram)
  | rmaCopy (d : Datagram)
  | rmaCopyWr (d : Datagram)
  | copyChunkAnswer (slate copy chunk : Nat) (status : Status)
  | copyChunkResend (slate copy chunk : Nat)
  | copyChunkTimeout (slate copy chunk : Nat)
  -- network ports and time
  | readyRepeat
  | portTrained (slate sub : Nat)
  | pauseTimeout
  | pfcPauseRx (slate cls : Nat) (on : Bool)
  | linkDown (slate sub : Nat)
  | portReconfigure (slate : Nat) (v : Word)
  | ptpSync (slate : Nat) (sync : PtpMessage)
  | ptpLoss
  -- switch core, scheduler and fabric
  | frameArrival (f : FrameIn)
  | outputSelect (slate port sub : Nat)
  | wheelSlot (slate port sub : Nat)
  | gateTakeover (slate : Nat)
  | glInstall (slate : Nat) (v : Word)
  | glDisable (slate : Nat) (v : Word)
  | queueCreditReset (slate port cls : Nat) (v : Word)
  | policerReset (slate cls : Nat) (v : Word)
  | peerPauseExpiry (slate cls : Nat)
  | fabricLinkError (slate link : Nat)
  | fabricLinkDown (slate link : Nat)
  | multicastDone (slate frame : Nat)
  | lookupWaitRelease (slate frame : Nat)
  | swb (slate : Nat) (v : Word)
  | swbDone (slate : Nat)
  -- courses and the journal
  | fillWindowExpiry (ordinal : Nat)
  | leadHandover (kind : Nat)
  | coursePour (ordinal : Nat)
  | stripWriteDone (ordinal pos : Nat)
  | stripWriteFail (ordinal pos : Nat)
  | courseDurable (ordinal : Nat)
  | courseRelease (ordinal : Nat)
  | holderAck (owner holder seq : Nat)
  | holderTimeout (owner holder : Nat)
  | logLineFree (owner : Nat)
  | leafWriteback (volume leaf : Nat)
  | resync (trusted : Bool)
  -- members
  | memberLinkLoss (m : Nat)
  | cstsPoll (m : Nat) (cfs : Bool)
  | cmdTimeout (m cmd : Nat)
  | abortGraceExpiry (m cmd : Nat)
  | readyMaxExpiry (m : Nat)
  | nvmeCompletion (m cmd : Nat) (r : NvmeResult)
  | driveInsert (m : Nat) (d : Drive)
  | holdOut (m : Nat) (v : Word)
  | rebuildStart (m : Nat)
  | rebuildCourse (slate share ordinal : Nat)
  | copyBackStrip (m : Nat)
  | memberQuorum
  | quorumWaitExpiry
  | quorumForce (slate : Nat) (v : Word)
  | lostClr (slate : Nat) (v : Word)
  -- partner and lease
  | heartbeatSend (slate : Nat)
  | heartbeatRx (slate : Nat) (h : Heartbeat)
  | partnerLost
  | renewalRound
  | roundComplete (answers : List (Nat × WitnessAnswer))
  | leaseExpiry
  | witnessPoll (views : List WitnessView) (answers : List (Nat × WitnessAnswer))
  | acquireRetry (views : List WitnessView) (answers : List (Nat × WitnessAnswer))
  | leaseRelease (v : Word)
  | degRelRelease
  | witnessChange (v : Word)
  | exclRound
  -- batten chain
  | helloSend
  | hello (up : Bool) (h : HelloBody)
  | chainPartnerTimeout (up : Bool)
  | change
  | enumStart
  | enumPeriodic
  | census (c : CensusBody)
  | tally (c : TallyBody)
  | assign (c : AssignBody)
  | chainAssign (v : Word)
  | enumNow (v : Word)
  -- faults
  | detectorOccurrence (slate space src : Nat) (detail : List Word)
  | injFire (slate space : Nat) (inj : Injection)
  | coreSilent
  | faultPulseEnd
  | faultHold (v : Word)
  | shadowClose (shadow : Nat) (ready : Bool)
  -- caches
  | scDisable (slate : Nat) (v : Word)
  | scDrainDone (slate : Nat)
  | scEnable (slate : Nat) (v : Word)
  | engineCacheInvalidate (slate : Nat) (v : Word)
  | wayRestore (slate : Nat) (v : Word)
  | hbmScrub (slate : Nat)
  -- performance and supply
  | counterSelect (slate k : Nat) (v : Word)
  | ovfClr (slate k : Nat) (v : Word)
  | counterDump (slate : Nat)
  | ringConsume (slate : Nat) (sample : Bool) (v : Word)
  | sampleSelect (t : Thread) (insn : InsnWord)
  | switchPeakClr (slate : Nat) (v : Word)
  | supplyPeakClr (v : Word)
  | supplyMeasure (vinA vinB iin pin : Nat)
  -- register operations of keys, queues, windows and the secure mailbox
  | keyWrite (slate : Nat) (v : Word)
  | keyLoad (slate : Nat) (v : Word)
  | keyInvalidate (slate : Nat) (v : Word)
  | queueRegister (slate : Nat) (v : Word)
  | queueDestroy (slate : Nat) (v : Word)
  | queueReset (slate : Nat) (v : Word)
  | windowDefine (slate : Nat) (v : Word)
  | windowReuse (slate : Nat) (v : Word)
  | windowDestroy (slate : Nat) (v : Word)
  | attest (v : Word)
  | cert (v : Word)
  | enrol (v : Word)
  | provision (v : Word)
  | fwStage (v : Word)
  | fwCommit (v : Word)
  | secureOpComplete (o : SecureOutcome)
  -- standard library programs, each run by the job named
  | read (job : Nat)
  | write (job : Nat)
  | atomicWrite (job : Nat)
  | compareAndWrite (job : Nat)
  | deallocate (job : Nat)
  | flush (job : Nat)
  | volumeCreate (job : Nat)
  | volumeDelete (job : Nat)
  | volumeResize (job : Nat)
  | volumeInfo (job : Nat)
  | volumeCutover (volume : Nat)
  | sanitize (call : SanitizeCall)
  | format (job : Nat)
  | adminStatus (job : Nat)
  | powerState (job : Nat)
  | psEntryDone
  | programInstall (job : Nat) (img : ProgImage)
  | programRemove (job : Nat)
  | programInfo (job : Nat)
  | programCutover
  | ctlGet (job : Nat)
  | ctlSet (job : Nat)
  | ctlSwap (job : Nat)
  -- power, recovery and the remaining timed events
  | powerStart (p : StartPins)
  | resetExit (b : BootIn)
  | replayDone (copies : List JournalCopy)
  | perstRelease (m : Nat)
  | pcycAssert (lowUs : Nat)
  | offTimeExpiry
  | lastMateBreak
  | supplyCollapse (feedA feedB : Nat)
  | thermalPoll (diodes : List Diode)
  | vcoLockLoss
  | vcoLossTimeout
  | rotHorizonExpiry (slate : Nat) (entry : Nat)
  | windowAvailExpiry (slate index : Nat)
  | gateListEntry (slate : Nat)
  | fabricLinkTrained (slate link : Nat)
  | partnerLaneError (slate : Nat)
  | controllerReady (m : Nat)
  | prsntDeassert (m : Nat)
  | psExitDone
  | relDrainExpiry
  | counterWrap (slate k : Nat)
  | pauseRefresh (slate : Nat)
  deriving DecidableEq, Repr

end Sys2Proof
end

