-- ==== Sys2Proof/Decode.lean ====
section
/-! DEFINITION. What a word spells by the opcode table's bits, which the table gives to no row; and the encoding of Ortur
instruction words: the decoder, total on any words, and the encoder (R47, R48, R54 to R77). -/

namespace Sys2Proof

/-- The command a word of `nbits` bits spells by the opcode table. Every row of the table has an empty list of
fields, so no word spells a command.
DESIGN CHOICE (log entry 2). -/
def decodeTableWord (_nbits _w : Nat) : Option Instr := none

/-! ### The fields of an instruction word (R47, R48) -/

/-- The major opcode. -/
def fMajor (w : InsnWord) : BitVec 6 := w.extractLsb' 26 6
/-- Field d. -/
def fD (w : InsnWord) : Reg := w.extractLsb' 21 5
/-- Field a. -/
def fA (w : InsnWord) : Reg := w.extractLsb' 16 5
/-- Field b of the R form. -/
def fB (w : InsnWord) : Reg := w.extractLsb' 11 5
/-- The minor field of the R form. -/
def fMinor (w : InsnWord) : BitVec 11 := w.extractLsb' 0 11
/-- imm16 of the I form. -/
def fImm (w : InsnWord) : BitVec 16 := w.extractLsb' 0 16
/-- The inner major opcode of the X form. -/
def fInner (w : InsnWord) : BitVec 6 := w.extractLsb' 10 6
/-- The reserved bits of the X form's first word. -/
def fZero (w : InsnWord) : BitVec 10 := w.extractLsb' 0 10

/-- The R form of a word. -/
def rForm (t : Thread) (w : InsnWord) : RForm := { t := t, d := fD w, a := fA w, b := fB w, minor := fMinor w }
/-- The registers of an R form whose minor field is its operation code. -/
def r3Form (t : Thread) (w : InsnWord) : R3 := { t := t, d := fD w, a := fA w, b := fB w }
/-- The I form of a word. -/
def iForm (t : Thread) (w : InsnWord) : IForm := { t := t, d := fD w, a := fA w, imm := fImm w }
/-- An ALU operation on two registers. -/
def aluR (t : Thread) (w : InsnWord) : AluForm := { t := t, d := fD w, a := fA w, src := .reg (fB w) }
/-- An ALU operation with an immediate. -/
def aluI (t : Thread) (w : InsnWord) (i : Imm) : AluForm := { t := t, d := fD w, a := fA w, src := .imm i }
/-- A shift by a register. -/
def shiftR (t : Thread) (w : InsnWord) : ShiftForm := { t := t, d := fD w, a := fA w, cnt := .reg (fB w) }
/-- A shift by an immediate. -/
def shiftI (t : Thread) (w : InsnWord) : ShiftForm := { t := t, d := fD w, a := fA w, cnt := .imm (fImm w) }
/-- A branch. -/
def branchForm (t : Thread) (w : InsnWord) (i : Imm) : BranchForm := { t := t, d := fD w, a := fA w, off := i }
/-- A member of the handle group. -/
def hForm (t : Thread) (w : InsnWord) : HForm := { t := t, d := fD w, a := fA w, b := fB w, low := w.extractLsb' 0 8 }

/-! ### The decoder (R48, R54, R55, R60, R62) -/

/-- The ALU group, by minor code (R55). -/
def decodeAlu (t : Thread) (w : InsnWord) : Option Instr :=
  match (fMinor w).toNat with
  | 0x00 => some (.add (aluR t w))
  | 0x01 => some (.sub (r3Form t w))
  | 0x02 => some (.mul (r3Form t w))
  | 0x03 => some (.mulh (r3Form t w))
  | 0x04 => some (.mulhu (r3Form t w))
  | 0x08 => some (.and (aluR t w))
  | 0x09 => some (.or (aluR t w))
  | 0x0A => some (.xor (aluR t w))
  | 0x0C => some (.shl (shiftR t w))
  | 0x0D => some (.shr (shiftR t w))
  | 0x0E => some (.sar (shiftR t w))
  | 0x10 => some (.cmp (aluR t w))
  | _ => none

/-- The instructions that have an immediate of 16 or 32 bits, by major or inner major opcode (R48, R54). -/
def decodeImm (t : Thread) (m : Nat) (w : InsnWord) (i : Imm) : Option Instr :=
  match m with
  | 0x01 => some (.add (aluI t w i))
  | 0x02 => some (.and (aluI t w i))
  | 0x03 => some (.or (aluI t w i))
  | 0x04 => some (.xor (aluI t w i))
  | 0x05 => some (.cmp (aluI t w i))
  | 0x10 => some (.b (branchForm t w i))
  | 0x11 => some (.bcc (branchForm t w i))
  | 0x12 => some (.call (branchForm t w i))
  | _ => none

/-- The atomic group, by minor code (R60). -/
def decodeAtomic (t : Thread) (w : InsnWord) : Option Instr :=
  match (fMinor w).toNat with
  | 0x000 => some (.aadd (r3Form t w))
  | 0x001 => some (.acas (r3Form t w))
  | _ => none

/-- The handle group, by minor[10:8] (R62). -/
def decodeHandle (t : Thread) (w : InsnWord) : Option Instr :=
  match (fMinor w).toNat / 256 with
  | 0 => some (.hsub (hForm t w))
  | 1 => some (.hlen (hForm t w))
  | 2 => some (.hnew (hForm t w))
  | _ => none

/-- The instructions of the one-word forms, by major opcode (R54). -/
def decodeMajor (t : Thread) (m : Nat) (w : InsnWord) : Option Instr :=
  match m with
  | 0x00 => decodeAlu t w
  | 0x06 => some (.shl (shiftI t w))
  | 0x07 => some (.shr (shiftI t w))
  | 0x08 => some (.sar (shiftI t w))
  | 0x13 => some (.ret (rForm t w))
  | 0x14 => some (.ldb (iForm t w))
  | 0x15 => some (.ldh (iForm t w))
  | 0x16 => some (.ldw (iForm t w))
  | 0x17 => some (.ldd (iForm t w))
  | 0x18 => some (.stb (iForm t w))
  | 0x19 => some (.sth (iForm t w))
  | 0x1A => some (.stw (iForm t w))
  | 0x1B => some (.std (iForm t w))
  | 0x1C => some (.ldx (rForm t w))
  | 0x1D => some (.stx (rForm t w))
  | 0x1E => decodeAtomic t w
  | 0x20 => some (.bget (rForm t w))
  | 0x21 => some (.bput (rForm t w))
  | 0x22 => decodeHandle t w
  | 0x23 => some (.recv (rForm t w))
  | 0x24 => some (.send (rForm t w))
  | 0x25 => some (.dsub (rForm t w))
  | 0x26 => some (.dwait (rForm t w))
  | 0x27 => some (.crd (rForm t w))
  | 0x28 => some (.capp (rForm t w))
  | 0x29 => some (.mget (rForm t w))
  | 0x2A => some (.mset (rForm t w))
  | 0x2B => some (.haz (rForm t w))
  | 0x2C => some (.hrel (rForm t w))
  | 0x2D => some (.shka (rForm t w))
  | 0x2E => some (.shks (rForm t w))
  | 0x2F => some (.evw (rForm t w))
  | 0x30 => some (.evs (iForm t w))
  | 0x31 => some (.cget (rForm t w))
  | 0x32 => some (.cset (rForm t w))
  | 0x33 => some (.cswap (rForm t w))
  | 0x34 => some (.pmc (rForm t w))
  | 0x35 => some (.gets (iForm t w))
  | 0x36 => some (.yield (rForm t w))
  | 0x37 => some (.done (rForm t w))
  | 0x38 => some (.fail (rForm t w))
  | 0x39 => some (.trap (iForm t w))
  | _ => none

/-- The instruction that word `w`, with `x` the word after it, spells on a thread: `none` where the major opcode, the minor
code or the inner major opcode is undefined (R48, R50 step 3). Reserved fields are carried on, for R50 step 4.
DEDUCED (log entry 30). -/
def decodeInsn (t : Thread) (w x : InsnWord) : Option Instr :=
  let m := (fMajor w).toNat
  if m = 0x3F then decodeImm t (fInner w).toNat w (.long (fZero w) x)
  else match decodeImm t m w (.short (fImm w)) with
    | some i => some i
    | none => decodeMajor t m w

/-! ### The encoder -/

/-- An R-form word. -/
def wordR (m : BitVec 6) (d a b : Reg) (minor : BitVec 11) : InsnWord := m ++ d ++ a ++ b ++ minor

/-- An I-form word. -/
def wordI (m : BitVec 6) (d a : Reg) (imm : BitVec 16) : InsnWord := m ++ d ++ a ++ imm

/-- The first word of an X form. -/
def wordX (m : BitVec 6) (d a : Reg) (z : BitVec 10) : InsnWord := (0x3F#6) ++ d ++ a ++ m ++ z

/-- An instruction with an immediate: its word, and the extension word of the X form. -/
def encImm (m : BitVec 6) (d a : Reg) (i : Imm) : InsnWord × Option InsnWord :=
  match i with
  | .short v => (wordI m d a v, none)
  | .long z v => (wordX m d a z, some v)

/-- An ALU operation: minor code `n` with a register, major opcode `m` with an immediate. -/
def encAlu (m : BitVec 6) (n : BitVec 11) (o : AluForm) : InsnWord × Option InsnWord :=
  match o.src with
  | .reg b => (wordR 0 o.d o.a b n, none)
  | .imm i => encImm m o.d o.a i

/-- A shift. -/
def encShift (m : BitVec 6) (n : BitVec 11) (o : ShiftForm) : InsnWord × Option InsnWord :=
  match o.cnt with
  | .reg b => (wordR 0 o.d o.a b n, none)
  | .imm v => (wordI m o.d o.a v, none)

/-- An R form. -/
def encR (m : BitVec 6) (o : RForm) : InsnWord × Option InsnWord := (wordR m o.d o.a o.b o.minor, none)

/-- An R form whose minor field is its operation code. -/
def encR3 (m : BitVec 6) (n : BitVec 11) (o : R3) : InsnWord × Option InsnWord := (wordR m o.d o.a o.b n, none)

/-- An I form. -/
def encI (m : BitVec 6) (o : IForm) : InsnWord × Option InsnWord := (wordI m o.d o.a o.imm, none)

/-- A member of the handle group. -/
def encH (n : BitVec 3) (o : HForm) : InsnWord × Option InsnWord := (wordR 0x22 o.d o.a o.b (n ++ o.low), none)

/-- The words of an Ortur instruction; a command that is none has no words. -/
def encodeInsn (i : Instr) : Option (InsnWord × Option InsnWord) :=
  match i with
  | .add o => some (encAlu 0x01 0x00 o)
  | .sub o => some (encR3 0x00 0x01 o)
  | .mul o => some (encR3 0x00 0x02 o)
  | .mulh o => some (encR3 0x00 0x03 o)
  | .mulhu o => some (encR3 0x00 0x04 o)
  | .and o => some (encAlu 0x02 0x08 o)
  | .or o => some (encAlu 0x03 0x09 o)
  | .xor o => some (encAlu 0x04 0x0A o)
  | .shl o => some (encShift 0x06 0x0C o)
  | .shr o => some (encShift 0x07 0x0D o)
  | .sar o => some (encShift 0x08 0x0E o)
  | .cmp o => some (encAlu 0x05 0x10 o)
  | .b o => some (encImm 0x10 o.d o.a o.off)
  | .bcc o => some (encImm 0x11 o.d o.a o.off)
  | .call o => some (encImm 0x12 o.d o.a o.off)
  | .ret o => some (encR 0x13 o)
  | .ldx o => some (encR 0x1C o)
  | .stx o => some (encR 0x1D o)
  | .bget o => some (encR 0x20 o)
  | .bput o => some (encR 0x21 o)
  | .recv o => some (encR 0x23 o)
  | .send o => some (encR 0x24 o)
  | .dsub o => some (encR 0x25 o)
  | .dwait o => some (encR 0x26 o)
  | .crd o => some (encR 0x27 o)
  | .capp o => some (encR 0x28 o)
  | .mget o => some (encR 0x29 o)
  | .mset o => some (encR 0x2A o)
  | .haz o => some (encR 0x2B o)
  | .hrel o => some (encR 0x2C o)
  | .shka o => some (encR 0x2D o)
  | .shks o => some (encR 0x2E o)
  | .evw o => some (encR 0x2F o)
  | .cget o => some (encR 0x31 o)
  | .cset o => some (encR 0x32 o)
  | .cswap o => some (encR 0x33 o)
  | .pmc o => some (encR 0x34 o)
  | .yield o => some (encR 0x36 o)
  | .done o => some (encR 0x37 o)
  | .fail o => some (encR 0x38 o)
  | .ldb o => some (encI 0x14 o)
  | .ldh o => some (encI 0x15 o)
  | .ldw o => some (encI 0x16 o)
  | .ldd o => some (encI 0x17 o)
  | .stb o => some (encI 0x18 o)
  | .sth o => some (encI 0x19 o)
  | .stw o => some (encI 0x1A o)
  | .std o => some (encI 0x1B o)
  | .evs o => some (encI 0x30 o)
  | .gets o => some (encI 0x35 o)
  | .trap o => some (encI 0x39 o)
  | .aadd o => some (encR3 0x1E 0x000 o)
  | .acas o => some (encR3 0x1E 0x001 o)
  | .hsub o => some (encH 0 o)
  | .hlen o => some (encH 1 o)
  | .hnew o => some (encH 2 o)
  | _ => none

/-- The thread an Ortur instruction is issued on. -/
def insnThread (i : Instr) : Option Thread :=
  match i with
  | .add o => some o.t
  | .sub o => some o.t
  | .mul o => some o.t
  | .mulh o => some o.t
  | .mulhu o => some o.t
  | .and o => some o.t
  | .or o => some o.t
  | .xor o => some o.t
  | .shl o => some o.t
  | .shr o => some o.t
  | .sar o => some o.t
  | .cmp o => some o.t
  | .b o => some o.t
  | .bcc o => some o.t
  | .call o => some o.t
  | .ret o => some o.t
  | .ldx o => some o.t
  | .stx o => some o.t
  | .bget o => some o.t
  | .bput o => some o.t
  | .recv o => some o.t
  | .send o => some o.t
  | .dsub o => some o.t
  | .dwait o => some o.t
  | .crd o => some o.t
  | .capp o => some o.t
  | .mget o => some o.t
  | .mset o => some o.t
  | .haz o => some o.t
  | .hrel o => some o.t
  | .shka o => some o.t
  | .shks o => some o.t
  | .evw o => some o.t
  | .cget o => some o.t
  | .cset o => some o.t
  | .cswap o => some o.t
  | .pmc o => some o.t
  | .yield o => some o.t
  | .done o => some o.t
  | .fail o => some o.t
  | .ldb o => some o.t
  | .ldh o => some o.t
  | .ldw o => some o.t
  | .ldd o => some o.t
  | .stb o => some o.t
  | .sth o => some o.t
  | .stw o => some o.t
  | .std o => some o.t
  | .evs o => some o.t
  | .gets o => some o.t
  | .trap o => some o.t
  | .aadd o => some o.t
  | .acas o => some o.t
  | .hsub o => some o.t
  | .hlen o => some o.t
  | .hnew o => some o.t
  | _ => none

end Sys2Proof
end

