-- ==== Sys2Proof/Machine/Tab.lean ====
section
/-! DEFINITION. A sparse table: a list of (key, value) pairs sorted by key, with no key twice. Every set of like
things in the state (registers, bytes of memory, queues, courses, control-space entries) is held in one. -/

namespace Sys2Proof

/-- Values by number, in rising key order. -/
abbrev Tab (α : Type) := List (Nat × α)

namespace Machine

/-- The value held under a key. -/
def tabGet {α : Type} : Tab α → Nat → Option α
  | [], _ => none
  | (k, v) :: r, x => if x = k then some v else tabGet r x

/-- Put a value under a key, replacing what was there. -/
def tabPut {α : Type} : Tab α → Nat → α → Tab α
  | [], x, a => [(x, a)]
  | (k, v) :: r, x, a =>
    if x < k then (x, a) :: (k, v) :: r
    else if x = k then (x, a) :: r
    else (k, v) :: tabPut r x a

/-- Remove a key. -/
def tabDel {α : Type} (t : Tab α) (x : Nat) : Tab α := t.filter fun p => !(p.1 == x)

/-- The value under a key, or a default. -/
def tabGetD {α : Type} (t : Tab α) (x : Nat) (d : α) : α := (tabGet t x).getD d

/-- Change the value under a key; a key that is absent stays absent. -/
def tabMod {α : Type} (t : Tab α) (x : Nat) (f : α → α) : Tab α :=
  match tabGet t x with
  | none => t
  | some a => tabPut t x (f a)

/-- Change the value under a key, starting from a default where it is absent. -/
def tabModD {α : Type} (t : Tab α) (x : Nat) (d : α) (f : α → α) : Tab α :=
  tabPut t x (f (tabGetD t x d))

/-- Put a value in a table whose absent keys read as `d`: that value removes the key, so that equal contents are
equal tables. -/
def tabSet {α : Type} [DecidableEq α] (d : α) (t : Tab α) (x : Nat) (a : α) : Tab α :=
  if a = d then tabDel t x else tabPut t x a

/-- Whether a key is held. -/
def tabHas {α : Type} (t : Tab α) (x : Nat) : Bool := (tabGet t x).isSome

/-- The keys in rising order. -/
def tabKeys {α : Type} (t : Tab α) : List Nat := t.map (·.1)

/-- The values in rising key order. -/
def tabVals {α : Type} (t : Tab α) : List α := t.map (·.2)

/-- Keys strictly rise. -/
def tabRising {α : Type} : Tab α → Bool
  | [] => true
  | [_] => true
  | (k, _) :: (k', v') :: r => decide (k < k') && tabRising ((k', v') :: r)

/-- The canonical form of a table whose absent keys read as `d` : rising keys, and no key holding `d`. -/
def tabWf {α : Type} [DecidableEq α] (d : α) (t : Tab α) : Bool :=
  tabRising t && t.all fun p => !(decide (p.2 = d))

/-- The least number from `k` on that is no key of the table, looking at most `fuel` places. -/
def tabFree {α : Type} (t : Tab α) : Nat → Nat → Option Nat
  | _, 0 => none
  | k, fuel + 1 => if tabHas t k then tabFree t (k + 1) fuel else some k

end Machine
end Sys2Proof
end

