-- ==== Sys2Proof/Machine/State.lean ====
section
/-! DEFINITION. The state of the SV8: every register, queue, buffer, counter, mode and pin the manual gives it, as plain
data, and the machine after a power cycle before any recovery step (R6). -/

namespace Sys2Proof.Machine

/-! ### Ortur jobs, threads and programs (R19 to R46) -/

/-- What a handle derives from (R62): the inbound buffer, the outbound buffer, or any other. -/
inductive Origin where
  | h1
  | h2
  | other
  deriving DecidableEq, Repr

/-- A handle (R29). -/
structure Handle where
  buf    : Nat
  off    : Nat
  len    : Nat
  rw     : Bool
  origin : Origin
  deriving DecidableEq, Repr

/-- A payload buffer of a slate's pool: its length, its bytes (absent bytes are zero), and, for an inbound buffer,
the byte ranges [lo, hi) that have arrived (R61, R120). -/
structure Buffer where
  slate   : Nat
  len     : Nat
  data    : Tab Byte
  inbound : Bool
  arrived : List (Nat × Nat)
  deriving DecidableEq, Repr

/-- Where a job came from (R23, R37, R40). -/
inductive JobKind where
  | command
  | launched
  | housekeeping (n : Nat)
  deriving DecidableEq, Repr

/-- Where a job stands (R25). ENDED jobs are no longer held. -/
inductive Phase where
  | waitingThread
  | running (thread : Nat)
  | suspended
  | ending
  deriving DecidableEq, Repr

/-- The arguments of an append that waits for its payload (R67). -/
structure AppendArgs where
  volume : Nat
  lba    : Nat
  count  : Nat
  buf    : Nat
  off    : Nat
  atomic : Bool
  deriving DecidableEq, Repr

/-- The condition a class W instruction waits for (R21, R25). -/
inductive Wait where
  | none
  | payload (buf lo hi : Nat)
  | ticket (n : Nat)
  | appendPayload (a : AppendArgs)
  | courses
  | record (owner seq : Nat)
  | hazard (id : Nat)
  | event (deadline : Option Nat)
  | yielded
  | reads
  | mapGet (volume lba : Nat)
  | mapSet (volume lba : Nat) (entry : Word)
  | mapReads (volume lba count : Nat)
  | volumeJobs (volume : Nat)
  | powerEntry
  deriving DecidableEq, Repr

/-- One `DSUB` or `CRD` outstanding under a ticket (R64 to R66): its buffer, the first physical grain number and count of a
`CRD`, and the result once it can be collected. -/
structure Ticket where
  crd    : Bool
  member : Nat
  opcode : Nat
  buf    : Option Handle
  first  : Nat
  count  : Nat
  result : Option Word
  deriving DecidableEq, Repr

/-- A response: payload status, ORIG, the four result words and the AOUT flag (R118). -/
structure Resp where
  status : Status
  orig   : Status
  words  : List Word
  aout   : Bool
  deriving DecidableEq, Repr

/-- How a job ended (R36): the response it leaves, and whether it trapped. -/
structure JobEnd where
  resp : Resp
  trap : Bool
  deriving DecidableEq, Repr

/-- What a job does when it next gets a thread: it resumes at its PC, or, running a library program, goes on after the
wait: it ends with a response, or with its TB in result word 0; reads its extent now that the leaves are in the map cache, to
send it or to compare it in a buffer; sends the blocks it has read; compares those it has read into a buffer; deallocates its
extent; fixes the TB of a deletion or shrink; or fixes the TB of a program's cut-over (R92, R95, R100, R101). `lost` counts the
grains that could not be asked for. -/
inductive OnWake where
  | resume
  | finish (status : Status) (words : List Word)
  | finishTb
  | readMapped
  | compareMapped (buf : Nat)
  | sendBlocks (lost : Nat)
  | compare (buf lost : Nat)
  | deallocMapped
  | cutVolume (volume : Nat)
  | cutProgram
  deriving DecidableEq, Repr

/-- A job (R23 to R25): who it serves, its registers, handles, flags, PC, budget and scratch, and its outstanding
work. Registers, handles and scratch bytes that are not listed are zero or null.
DEDUCED (log entry 26). -/
structure Job where
  kind       : JobKind
  slate      : Nat
  hq         : Nat
  tag        : Nat
  nonce      : Word
  cls        : Nat
  slot       : Nat
  prog       : Nat
  keep       : Bool
  g          : Tab Word
  h          : Tab Handle
  z          : Bool
  n          : Bool
  c          : Bool
  v          : Bool
  pc         : Nat
  budget     : Nat
  jid        : Word
  scr        : Tab Byte
  phase      : Phase
  wait       : Wait
  dst        : Reg
  readyTb    : Nat
  tickets    : Tab Ticket
  outBuf     : Option Nat
  hnew       : Nat
  buffers    : List Nat
  executed   : Nat
  suspends   : Nat
  detached   : Bool
  ended      : Option JobEnd
  onWake     : OnWake
  result     : Option Status
  deriving DecidableEq, Repr

/-- One version of an installed program (R44, R45, R99): its manifest, its words, the word numbers that are
extension words (R49) and its measurement (R346). -/
structure Program where
  slot     : Nat
  keep     : Bool
  key      : Nat
  budget   : Nat
  version  : Nat
  words    : List InsnWord
  extWords : List Nat
  measure  : Block
  deriving DecidableEq, Repr

/-- An installation or removal that has not yet taken effect, and its effective TB once fixed (R45). -/
structure Cutover where
  slot : Nat
  prog : Option Nat
  tb   : Option Nat
  deriving DecidableEq, Repr

/-- A pending occurrence of an event (R38): its TB, and the MODE and TARGET of its subscription group, and for MODE 2 the L_SLOT
of the launch entry, as they stood when it occurred: a later change applies to the next occurrence (R46). -/
structure Occurrence where
  tb     : Nat
  mode   : Nat
  target : Nat
  slot   : Nat
  deriving DecidableEq, Repr

/-! ### Transport, host queues and hazards (R104 to R154) -/

/-- A datagram the unit sends (R104 to R107): its slate and class, header fields and payload, and where it goes. `dest` is
the IP address and UDP port it is sent to, as one number, and `source` those it is sent from; `srcMac` is the Ethernet address of
its sub-port, and `mac` the Ethernet destination of an answer, none where the gateway routes it; `dscp` is the DSCP it is marked
with (R125); `sealed` is the ciphertext and tag when it is sealed (R113).
DESIGN CHOICE (log entry 107). -/
structure OutDatagram where
  slate   : Nat
  cls     : Nat
  dscp    : Nat
  ipv4    : Bool
  srcMac  : BitVec 48
  mac     : Option (BitVec 48)
  gateway : Nat
  source  : Nat
  dest    : Nat
  type    : BitVec 4
  flags   : BitVec 8
  dstUa   : BitVec 16
  srcUa   : BitVec 16
  host    : BitVec 32
  hqTag   : BitVec 32
  nonce   : Word
  keyId   : BitVec 32
  slot    : BitVec 16
  status  : Status
  offset  : Word
  check   : Word
  payload : Block
  sealed  : Block
  deriving DecidableEq, Repr

/-- One entry of the key table (R111). -/
structure KeyEntry where
  mode    : BitVec 2
  window  : Bool
  persist : Bool
  gen     : BitVec 8
  bind    : Nat
  rights  : BitVec 32
  lo      : Word
  hi      : Word
  check   : Word
  aes     : List Word
  salt    : BitVec 32
  deriving DecidableEq, Repr

/-- The staged key material that no read returns (R131). -/
structure KeyStage where
  check : Word
  aes   : List Word
  deriving DecidableEq, Repr

/-- The types of datagram an initiator sends, as the park queue holds them. -/
inductive DgKind where
  | command
  | data
  | abort
  | queueReset
  deriving DecidableEq, Repr

/-- A datagram in a park queue or held for one (R136, R137), with the rights captured as it passed R108 and the TB of
its start of frame (R23). -/
structure Parked where
  hq     : Nat
  kind   : DgKind
  dg     : Datagram
  rights : Word
  tb     : Word
  deriving DecidableEq, Repr

/-- The states of a tag (R142). -/
inductive TagState where
  | empty
  | held
  | active
  | committed
  | done
  deriving DecidableEq, Repr

/-- An admitted command: its capsule (R138) and what the ingress captured (R23). -/
structure Cmd where
  slot    : Nat
  capsule : Block
  args    : List Word
  inLen   : Nat
  outLen  : Nat
  rights  : Word
  srcUa   : BitVec 16
  host    : BitVec 32
  keyId   : BitVec 32
  cls     : Nat
  ipv4    : Bool
  mac     : BitVec 48
  source  : Nat
  tb      : Word
  buf     : Option Nat
  deriving DecidableEq, Repr

/-- A tag's word and record (R135). -/
structure Tag where
  st      : TagState
  last    : Option Word
  bar     : Option Word
  latched : Bool
  resp    : Option Resp
  outcome : Option Resp
  job     : Option Nat
  cmd     : Option Cmd
  deriving DecidableEq, Repr

/-- The last pause frame a port sent (R126, R130): its TB, the classes it pauses and the quanta it carries. -/
structure PauseFrame where
  tb      : Nat
  classes : Nat
  quanta  : Nat
  deriving DecidableEq, Repr

/-- The return address of a queue (R135): address and port, IP version. -/
structure RetAddr where
  source : Nat
  ipv4   : Bool
  port   : Nat
  deriving DecidableEq, Repr

/-- A host queue's context (R135). `resetMask` and `resetTb` are the summary's result words, and `resetOut` the nonce and outcome of
each tag the last reset named (R152). -/
structure Queue where
  host       : BitVec 32
  key        : Nat
  pin        : Bool
  persist    : Bool
  armed      : Bool
  resetNonce : Word
  resetMask  : Word
  resetTb    : Word
  resetOut   : Tab (Word × Resp)
  resident   : Bool
  lastTb     : Nat
  ret        : Option RetAddr
  tags       : Tab Tag
  deriving DecidableEq, Repr

/-- An extent hazard entry (R139, R144). `pos` is the nonce position and `seq` the order of arrival behind it
(R145). `id` is 0 to 7 for an extra entry and 0xFE for the extent of dispatch (R69). -/
structure Hazard where
  hq     : Nat
  tag    : Nat
  job    : Option Nat
  id     : Nat
  pos    : Nat
  seq    : Nat
  volume : Nat
  lba    : Nat
  count  : Nat
  modify : Bool
  deriving DecidableEq, Repr

/-- One event destination's forwarding record (R128). -/
structure EvFwd where
  seq  : Word
  last : Option Nat
  deriving DecidableEq, Repr

/-! ### Courses, map and journal (R155 to R205) -/

/-- The pool layout (R155, R163 to R166). `cap` is C, the strips of the smallest member when it was made (R164). -/
structure Layout where
  cap      : Nat
  d        : Nat
  s        : Nat
  members  : List Nat
  zoned    : Bool
  aMax     : Nat
  zs       : Nat
  bands    : Nat
  runBands : Nat
  rows     : List (List Nat)
  deriving DecidableEq, Repr

/-- What a course carries (R169). -/
inductive CourseKind where
  | data
  | reclaim
  | map
  deriving DecidableEq, Repr

/-- What one grain of a course is (R158, R160, R172, R197): a host block, a block relocated from a physical grain
number, a map grain of a level (0 a leaf), the summary of a course, a log grain of one owner, or padding. -/
inductive GrainKind where
  | host
  | reloc (old : Nat)
  | node (level : Nat)
  | summary (ordinal : Nat)
  | log (owner : Nat)
  | padding
  deriving DecidableEq, Repr

/-- One grain of a course. `lba` is the number of a map grain within its level; `seqs` are the records of a log grain, or of a
map grain the UCN up to which its updates are in it. -/
structure Grain where
  kind   : GrainKind
  volume : Nat
  lba    : Nat
  data   : Block
  job    : Option Nat
  dead   : Bool
  seqs   : List Nat
  deriving DecidableEq, Repr

/-- The states of a course (R169 to R175). `released` is held only in a zoned pool, until the run is reset. -/
inductive CourseState where
  | opened
  | sealed
  | pouring
  | durable
  | retired
  | released
  deriving DecidableEq, Repr

/-- One strip of a pouring course: where it is written, whether its write has been issued (R167), and whether it has completed
with FUA. -/
structure Strip where
  member : Nat
  slot   : Nat
  issued : Bool
  done   : Bool
  zeroes : Bool
  deriving DecidableEq, Repr

/-- A course (R155, R169 to R175). `sealTb` is the TB of its seal. `lostPos` are the positions whose strip its own slot does not
hold, because the member was gone when it was written or has been since (R209, R219); `rebuilding` says that its rebuild has
begun (R212), and `moved` that reclaim has sent every live grain of it on (R177).
DEDUCED (log entry 120). -/
structure Course where
  kind     : CourseKind
  slate    : Nat
  st       : CourseState
  t0       : Nat
  window   : Nat
  grains   : List Grain
  recSeq   : Option Nat
  swept    : Bool
  strips   : Tab Strip
  comSeq   : Option Nat
  ucn      : Option Nat
  live     : Nat
  holdJobs : List Nat
  stalled  : Bool
  reclaim  : Bool
  spareSeq : List Nat
  sealTb   : Nat
  lostPos  : List Nat
  rebuilding : Bool
  moved    : Bool
  deriving DecidableEq, Repr

/-- Grains waiting for a lead course (R169): the slate they come from and the TB they came at; atomic ones enter one course
together (R176), and once the first of the others are in a course the rest follow before any other append (R170). -/
structure PendingAppend where
  slate   : Nat
  tb      : Nat
  started : Bool
  grains  : List Grain
  atomic  : Bool
  deriving DecidableEq, Repr

/-- One of the three leads (R169): the slate that holds it, the open course if any, whether its course has sealed and
the lead is to pass to another slate, and the appends that wait. -/
structure Lead where
  slate    : Nat
  ordinal  : Option Nat
  handover : Bool
  waiting  : List PendingAppend
  deriving DecidableEq, Repr

/-- A pending deletion or shrink (R95): the size that remains and the size before, the job that asked, the jobs that held an
extent in the part cut off when it did, and the effective TB once fixed. -/
structure VolCut where
  size : Nat
  was  : Nat
  job  : Nat
  hold : List Nat
  tb   : Option Nat
  deriving DecidableEq, Repr

/-- A volume (R95): its size as the map changes applied so far have it. -/
structure Volume where
  size : Nat
  cut  : Option VolCut
  deriving DecidableEq, Repr

/-- A map grain (R160, R162, R197): whether a leaf is cached, the UCN of each pending update, the TB of the oldest, the UCN up to
which a copy on its way holds the updates, the UCN up to which the copy on flash holds them, and the pointer its parent holds.
DEDUCED (log entry 72). -/
structure Leaf where
  cached  : Bool
  pending : List Nat
  oldest  : Nat
  writing : Option Nat
  flushed : Nat
  ptr     : Word
  deriving DecidableEq, Repr

/-- A course of the flash-log directory (R197): the updates its log grains hold that are not yet written back, as map grain and
UCN; the highest UCN its log grains hold; and its place in the order in which courses entered the directory. -/
structure DirCourse where
  updates : List (Nat × Nat)
  top     : Nat
  order   : Nat
  deriving DecidableEq, Repr

/-- What the member table records of a member (R206). -/
inductive Recorded where
  | inService (nguid : Nat)
  | failed (index : Option Nat)
  | notInPool
  deriving DecidableEq, Repr

/-- The long-running administrative operation (R96, R97): what ADMIN_STATUS reports of it, its arguments, and how far it
has come: the step HK_ADMIN is at, the SEQ of slate 0's record it waits for, and the members still to be sanitized. -/
structure AdminOp where
  op      : Nat
  state   : Nat
  ident   : Word
  final   : Status
  failed  : Nat
  volume  : Nat
  action  : Nat
  pattern : Nat
  passes  : Nat
  d       : Nat
  s       : Nat
  stage   : Nat
  seq     : Nat
  todo    : List Nat
  deriving DecidableEq, Repr

/-- A change to a unit table (R188, R190): the new value of the entry. -/
inductive TableItem where
  | address (chain : Nat) (pos : Option Nat)
  | epoch (e : Nat)
  | layout (l : Option Layout)
  | volume (v : Nat) (size : Option Nat)
  | root (v : Nat) (ptr : Word)
  | manifest (slot : Nat) (prog : Option Nat)
  | measure (slot : Nat) (m : Block)
  | key (index : Nat) (k : Option KeyEntry)
  | queue (hq : Nat) (host : BitVec 32) (key : Nat) (pin : Bool) (present : Bool)
  | ways (slate : Nat) (masks : Tab Nat)
  | progress (a : AdminOp)
  | holders (owner : Nat) (hs : List Nat)
  | member (m : Nat) (r : Recorded) (tb : Nat)
  | witnesses (mask : Nat)
  | domain (en : Bool) (pre6 : Word)
  | flashDir (ordinal : Nat) (present : Bool)
  | auth (op keyNo : Nat) (pub : Block)
  | wrap (bay key : Nat)
  deriving DecidableEq, Repr

/-- One extent of a MAPX record (R188). -/
structure MapExtent where
  lba    : Nat
  volume : Nat
  grain  : Nat
  count  : Nat
  deriving DecidableEq, Repr

/-- One relocation of a RELOC record (R188). -/
structure Reloc where
  lba    : Nat
  volume : Nat
  grain  : Nat
  old    : Nat
  deriving DecidableEq, Repr

/-- How an MSET record is applied (R158, R215): exactly as written; as a deallocation, whose GEN is derived when it is applied; or
setting LOST, only if the entry still names the grain. -/
inductive MsetHow where
  | exact
  | dealloc
  | lost
  deriving DecidableEq, Repr

/-- The record types of the journal (R188). -/
inductive RecBody where
  | course (ordinal : Nat) (kind : CourseKind) (members : List Nat) (tb : Nat)
  | mapx (es : List MapExtent)
  | reloc (rs : List Reloc)
  | mset (lba volume : Nat) (entry : Word) (ucn : Nat) (how : MsetHow)
  | commit (ordinal first count ucn tb : Nat)
  | release (ordinal count : Nat)
  | table (t : TableItem)
  deriving DecidableEq, Repr

/-- A journal record and its mirroring (R187, R192): the places of the R191 list that must hold it, those that have
acknowledged it, and for each that it was sent to, when it is late (HOLDER_TIMEOUT as it stood then). -/
structure Rec where
  seq       : Nat
  body      : RecBody
  grp       : Bool
  need      : List Nat
  acks      : List Nat
  due       : Tab Nat
  confirmed : Bool
  packed    : Bool
  trimmed   : Bool
  deriving DecidableEq, Repr

/-- A record that waits for its ring line (R196); `draws` says that it takes a UCN when it is written (R195). -/
structure RecReq where
  body  : RecBody
  grp   : Bool
  draws : Bool
  deriving DecidableEq, Repr

/-- One owner's journal (R187 to R196). -/
structure Owner where
  seq     : Nat
  trim    : Nat
  holders : List Nat
  recs    : List Rec
  waiting : List RecReq
  deriving DecidableEq, Repr

/-! ### Members (R179 to R222) -/

/-- What an outstanding NVMe command serves: a `DSUB` ticket, a read of columns of a strip for a read of grains, a strip write
of a pour, of a rebuild or of copy-back, or an operation of the unit itself. -/
inductive DrvUse where
  | ticket (job ticket : Nat)
  | read (id pos col count : Nat)
  | strip (ordinal pos : Nat)
  | spareWrite (ordinal pos : Nat)
  | copyWrite (slot : Nat)
  | power
  | sanitize
  | internal
  deriving DecidableEq, Repr

/-- What a read of grains is for: a `CRD` ticket, a map grain, relocation by reclaim, rebuild, or copy-back of a slot. -/
inductive ReadUse where
  | crd (job ticket : Nat)
  | node (volume level index : Nat)
  | reclaim
  | rebuild
  | copyBack (m slot : Nat)
  deriving DecidableEq, Repr

/-- A read of grains of one course (R210, R214): each as 32 times its position plus its column. `want` is what is asked for,
`got` what members have returned, `bad` what they could not return, and `left` the reads outstanding. -/
structure GrainRead where
  slate   : Nat
  ordinal : Nat
  want    : List Nat
  got     : List Nat
  bad     : List Nat
  left    : Nat
  use     : ReadUse
  deriving DecidableEq, Repr

/-- An outstanding NVMe command of a member (R181), with its FUA bit and its queue pair (R180): 0 the admin pair, 1 to 8 an I/O
pair, none while every I/O pair is full. -/
structure DrvCmd where
  opcode  : Nat
  admin   : Bool
  fua     : Bool
  queue   : Option Nat
  sqe     : Block
  lba     : Nat
  use     : DrvUse
  tb      : Nat
  timeout : Nat
  grace   : Nat
  readyMx : Nat
  aborted : Option Nat
  deriving DecidableEq, Repr

/-- A member and its drive port (R179 to R184, R219, R371). `goneAt` is the TB of a failure found during recovery, whose record
is written at the end of replay (R206, R211). `lowPs` is the deepest non-operational power state the drive reports, 0 for none, and
`lowPower` says that it is in it (R98). `hostId` is the NVMe Host Identifier set on its controller (R289). -/
structure Member where
  present  : Bool
  conforms : Bool
  link     : Bool
  speed    : Nat
  width    : Nat
  mstate   : Nat
  zoned    : Bool
  strips   : Nat
  zs       : Nat
  zoneLbas : Nat
  zoneRes  : Nat
  sanCap   : Nat
  nguid    : Nat
  recorded : Recorded
  recConf  : Bool
  goneAt   : Option Nat
  cmds     : Tab DrvCmd
  resetAt  : Option Nat
  perst    : Bool
  lowPs    : Nat
  lowPower : Bool
  hostId   : Option (BitVec 128)
  resv     : Option ResvKey
  deriving DecidableEq, Repr

/-- A spare-map entry (R208); `stale` says that its destination has failed since (R209). -/
structure SpareEntry where
  member : Nat
  slot   : Nat
  valid  : Bool
  stale  : Bool
  deriving DecidableEq, Repr

/-- A lost range (R217). -/
structure LostRange where
  volume : Nat
  lba    : Nat
  count  : Nat
  deriving DecidableEq, Repr

/-- A copy-back under way (R220): the spare map, the slot being copied, and the slot up to which it has passed. -/
structure CopyBack where
  index : Nat
  busy  : Option Nat
  done  : Nat
  deriving DecidableEq, Repr

/-! ### Switch core and scheduler (R223 to R258) -/

/-- A frame in a switch-core buffer (R223 to R238): where it is and what it is charged to, the copies still to leave
this slate, the links still ahead with its lane, its lookup (flow key, slate, TVER), and what it carries. `waiting` is
the wait of R229 and R238, `stalled` a hand-over the internal block still holds (R231), `entry` the port by which it entered
its first slate, `head` how many of its cells are headroom (R234), `group` the multicast it belongs to. -/
structure Frame where
  slate   : Nat
  inPort  : Nat
  cls     : Nat
  bytes   : Nat
  outs    : List (Nat × Nat)
  path    : List (Nat × Nat)
  lane    : Nat
  key     : Word
  dst     : Nat
  dstPort : Nat
  dstSub  : Nat
  home    : Nat
  tver    : Nat
  entry   : Nat
  head    : Nat
  waiting : Bool
  stalled : Bool
  mask    : Nat
  group   : Option Nat
  dgram   : Option OutDatagram
  job     : Option Nat
  deriving DecidableEq, Repr

/-- A multicast under way (R237): the block's slate, the copies not yet accepted or discarded, the result mask. -/
structure Mcast where
  slate  : Nat
  left   : Nat
  result : Nat
  deriving DecidableEq, Repr

/-- One class queue of an output (R242 to R250). Credit is in 1/800 byte. -/
structure OutQueue where
  frames   : List Nat
  headF    : Option Nat
  flast    : Nat
  credit   : Int
  creditTb : Nat
  slotTb   : Option Nat
  deriving DecidableEq, Repr

/-- One output or sub-port (R242 to R248): V, when it is free in picoseconds of TB, and the class of the frame sent last. -/
structure OutPort where
  v      : Nat
  freeAt : Nat
  cur    : Option Nat
  queues : Tab OutQueue
  deriving DecidableEq, Repr

/-- An installed gate list (R251). -/
structure GateList where
  entries : List (BitVec 8 × Nat)
  cycle   : Nat
  start   : Nat
  deriving DecidableEq, Repr

/-- The gates of a slate's network output (R251 to R254). -/
structure Gates where
  oper  : Option GateList
  pend  : Option GateList
  entry : Nat
  deriving DecidableEq, Repr

/-- A policer's bucket, in 1/800 byte (R256). -/
structure Policer where
  tokens   : Nat
  tLast    : Nat
  lastDrop : Option Nat
  deriving DecidableEq, Repr

/-- A peer's pause of one class (R126, R235). -/
structure PeerPause where
  since  : Nat
  raised : Bool
  deriving DecidableEq, Repr

/-- A fabric link's training (R230): the TB of the error that started a retrain. -/
structure LinkState where
  up       : Bool
  retrain  : Option Nat
  deriving DecidableEq, Repr

/-! ### Remote memory (R259 to R272) -/

/-- A window (R259, R260). -/
structure Window where
  base  : Nat
  pages : Nat
  gen   : BitVec 8
  since : Nat
  deriving DecidableEq, Repr

/-- An entry of the recent-operation table (R265, R266). -/
structure RotEntry where
  srcUa   : BitVec 16
  host    : BitVec 32
  window  : Nat
  nonce   : Word
  gen     : BitVec 8
  done    : Option (Status × Block)
  arrival : Nat
  horizon : Nat
  deriving DecidableEq, Repr

/-- A chunk of a copy (R269): its place in the range, its bytes, its nonce, when it was first and last sent, the bay it
goes to and whether the other bay has been tried (R312), and whether it has been acknowledged. -/
structure Chunk where
  off    : Nat
  data   : Block
  nonce  : Word
  first  : Nat
  last   : Nat
  bay    : Nat
  moved  : Bool
  acked  : Bool
  deriving DecidableEq, Repr

/-- A running copy (R268 to R270). -/
structure Copy where
  request : Datagram
  window  : Nat
  rotIdx  : Nat
  srcOff  : Nat
  len     : Nat
  dstUa   : BitVec 16
  dstWin  : Nat
  dstKey  : BitVec 32
  dstOff  : Nat
  check   : Word
  next    : Nat
  chunks  : Tab Chunk
  deriving DecidableEq, Repr

/-! ### Caches (R273 to R282) -/

/-- A valid slate-cache line: its line number, whether it is dirty, and its presence vector (R276). -/
structure Line where
  line     : Nat
  dirty    : Bool
  presence : BitVec 8
  deriving DecidableEq, Repr

/-! ### Partner, chain, faults, counters, trust and power -/

/-- A renewal round under way (R290). -/
structure Round where
  issue : Nat
  excl  : Bool
  deriving DecidableEq, Repr

/-- What the module has seen of one witness (R295). -/
structure WitnessSeen where
  key   : Option ResvKey
  tSeen : Nat
  excl  : Bool
  deriving DecidableEq, Repr

/-- Why a release was started, and until when it drains (R292). -/
structure Draining where
  until_ : Nat
  deriving DecidableEq, Repr

/-- The partner link and the lease (R286 to R300). `pBoot` is the BOOT_ID of the partner's last heartbeat, `hbOut` the last
heartbeat sent on each of slates 0 and 1. -/
structure Lease where
  bay       : Nat
  role      : Nat
  excl      : Bool
  up        : Bool
  lastHb    : Nat
  clash     : Bool
  pRole     : Nat
  pFlags    : BitVec 8
  pSlates   : Nat
  pEpoch    : Nat
  degSince  : Option Nat
  epoch     : Nat
  renew     : Nat
  leaseEnd  : Nat
  lastRound : Option Nat
  round     : Option Round
  wPend     : Option Nat
  seen      : Tab WitnessSeen
  excluded  : Bool
  retryAt   : Option Nat
  draining  : Option Draining
  released  : Bool
  resynced  : Bool
  needExcl  : List Nat
  lapsed    : Bool
  pBoot     : Word
  hbOut     : Tab Heartbeat
  deriving DecidableEq, Repr

/-- A batten-chain frame sent on the UP (`up` true) or DN port (R303).
DESIGN CHOICE (log entry 105). -/
inductive ChainFrame where
  | hello (h : HelloBody)
  | census (c : CensusBody)
  | tally (c : TallyBody)
  | assign (c : AssignBody)
  | change
  deriving DecidableEq, Repr

/-- The batten chain (R301 to R314): the bypass, the partner each port sees and the TB of its last HELLO, the chain number
and position in force with the number the position was recorded under, a number the head is to assign, what the running
enumeration has made of this module, the unit address, and the frames sent. -/
structure Chain where
  bypass   : Bool
  upMac    : Option Nat
  upAt     : Nat
  dnMac    : Option Nat
  dnAt     : Nat
  helloAt  : Option Nat
  chain    : Nat
  chainNew : Option Nat
  prev     : Nat
  pos      : Option Nat
  posChain : Nat
  enum     : BitVec 16
  claimed  : Bool
  follows  : Bool
  lastEnum : Nat
  enumDue  : Bool
  ua       : BitVec 16
  uaValid  : Bool
  sentUp   : List ChainFrame
  sentDn   : List ChainFrame
  deriving DecidableEq, Repr

/-- What a reset shadow watches (R324). -/
inductive ShadowKind where
  | fabric (link : Nat)
  | partner
  | network (sub : Nat)
  deriving DecidableEq, Repr

/-- An open reset shadow (R324, R325): the detectors held off and hit are re-evaluated when it closes. -/
structure Shadow where
  kind   : ShadowKind
  slate  : Nat
  opened : Nat
  limit  : Nat
  deriving DecidableEq, Repr

/-- The fault pin and the class 4 latch (R321 to R323, R342). -/
structure FaultPin where
  pulse    : Option Nat
  romHold  : Bool
  shadows  : Tab Shadow
  heldOff  : List (Nat × Nat × Nat)
  deriving DecidableEq, Repr

/-- A tagged instruction (R336, R337): its thread and job, what is known at issue, and whether it has suspended. -/
structure SampleTag where
  thread : Nat
  job    : Nat
  word   : InsnWord
  tb     : Nat
  pc     : Nat
  addr   : Word
  susp   : Bool
  deriving DecidableEq, Repr

/-- A slate's sampling state (R336, R337): the LFSR, the count since the last selection, the tagged instructions and the
next SEQ. -/
structure Sampling where
  lfsr  : BitVec 16
  count : Nat
  tags  : List SampleTag
  seq   : Nat
  deriving DecidableEq, Repr

/-- The lifecycle stage fuse (R339). -/
inductive Stage where
  | test
  | production
  | scrapped
  deriving DecidableEq, Repr

/-- A SECURE operation under way: its code, the input it copied (R348), and the SEQ of slate 0's record it waits for. -/
structure SecureOp where
  op    : Nat
  input : Block
  wait  : Option Nat
  deriving DecidableEq, Repr

/-- Fuses, keys, boot choice and the secure mailbox (R339 to R357). `flashA`, `flashB` and `preferB` are what FW_STAGE has
written to the boot flash; where it has written nothing, the flash is as RESET_EXIT finds it. `dataKey` counts the data keys
drawn.
DESIGN CHOICE (log entry 19). -/
structure Secure where
  stage      : Stage
  fwMin      : Nat
  ownerEpoch : Nat
  custKeys   : Tab Block
  serial     : Nat
  fwSec      : Nat
  fwRelease  : Nat
  bankB      : Bool
  fallback   : Bool
  testImg    : Bool
  fwMeasure  : Block
  flashA     : Option BankImage
  flashB     : Option BankImage
  preferB    : Option Bool
  bootstrap  : Bool
  dataKey    : Nat
  op         : Option SecureOp
  status     : Status
  len        : Nat
  deriving DecidableEq, Repr

/-- The power phase (R364, R365, R373): regulators off, on with the module in reset, or running. -/
inductive Power where
  | off
  | inReset
  | running
  deriving DecidableEq, Repr

/-- The sequencer and the supply (R198, R205, R364 to R371).
DESIGN CHOICE (log entries 27, 104). -/
structure Module where
  power    : Power
  offTime  : Bool
  trip     : Bool
  therm    : Bool
  vcoLost  : Bool
  vinA     : Nat
  vinB     : Nat
  iin      : Nat
  pin      : Nat
  pinMax   : Nat
  feed     : Nat
  feedChg  : BitVec 16
  deriving DecidableEq, Repr

/-- The power state of R98 and R153: the present one, and the one being entered with the job that asked. -/
structure PowerSt where
  now     : Nat
  target  : Option (Nat × Nat)
  exiting : Bool
  deriving DecidableEq, Repr

/-- READY and the start-up of the network ports (R126, R127). -/
structure ReadyState where
  bootId    : Word
  sentTb    : Option Word
  left      : Nat
  lastTb    : Nat
  trained   : Option Nat
  timedOut  : Bool
  sources   : List (Nat × Nat × Bool)
  payload   : Block
  deriving DecidableEq, Repr

/-- Unit records that a power cycle keeps, as the journal's UNIT and QTAB areas hold them (R186, R190): the values last written
in place, with the SEQ of the record that last wrote each line in `seqs`. -/
structure Durable where
  chain   : Nat
  pos     : Option Nat
  epoch   : Nat
  wMask   : Nat
  domEn   : Bool
  prefix6 : Word
  keys    : Tab KeyEntry
  queues  : Tab (BitVec 32 × Nat × Bool)
  ways    : Tab Nat
  holders : Tab (List Nat)
  manifests : Tab Nat
  measures  : Tab Block
  roots   : Tab Word
  wraps   : Tab Nat
  members : Tab Recorded
  admin   : AdminOp
  seqs    : Tab Nat
  deriving DecidableEq, Repr

/-- The state of the SV8. -/
structure State where
  /-- Slates in the variant: 2, 4 or 8 (R1, R2). -/
  n         : Nat
  /-- TB of each slate (R14). -/
  tb        : Tab Word
  /-- Control-space entries that differ from their reset values, keyed slate * 2^17 + space * 2^12 + entry (R79). -/
  ctl       : Tab Word
  /-- Slates lost until the next power cycle, with their substitutes (R319), and those lost in the session before the last
  reset (R201), with 8 where the partner had left the holder sets. -/
  lost      : Tab Nat
  lastLost  : List Nat
  /-- Arbitration pointers by arbiter number (R42). -/
  ptrs      : Tab Nat
  jobs      : Tab Job
  nextJob   : Nat
  buffers   : Tab Buffer
  nextBuf   : Nat
  /-- The job on each thread, keyed slate * 192 + thread (R19). -/
  threads   : Tab Nat
  /-- TB at which a trapped housekeeping program restarts, keyed slate * 8 + n (R37). -/
  hkRestart : Tab Nat
  dispatchQ : Tab (List Nat)
  resumeQ   : Tab (List Nat)
  /-- Program versions, and the version each slot holds (R44, R45). -/
  progs     : Tab Program
  nextProg  : Nat
  slots     : Tab Nat
  cutover   : Option Cutover
  /-- The occurrence pending for each event, keyed slate * 2^11 + event (R38, R40). -/
  evPend    : Tab Occurrence
  /-- HBM bytes by MEM address, zero where not listed (R28), and poisoned 8-byte words (R281). -/
  hbm       : Tab Byte
  poison    : List Nat
  keys      : Tab KeyEntry
  keySeq    : Tab Nat
  stage     : Tab KeyStage
  queues    : Tab Queue
  hazards   : List Hazard
  /-- Entries of commands that have been dispatched, held or released since (R145). -/
  hazPast   : List Hazard
  hazSeq    : Nat
  /-- Second-chance reference bits of resident contexts (R136). -/
  ctxRef    : List Nat
  park      : Tab (List Parked)
  heldDg    : Tab (List Parked)
  bufWait   : Tab (List Parked)
  fetching  : List Nat
  evFwd     : Tab EvFwd
  ready     : ReadyState
  /-- Classes each port pauses: at start-up, for the park queue, for the buffer (R126, R137, R234), keyed by slate. -/
  pauseBoot : Tab Nat
  pausePark : Tab Nat
  pauseBuf  : Tab Nat
  pauseAt   : Tab PauseFrame
  peerPause : Tab PeerPause
  ptpSync   : Option Nat
  /-- The correction TB still has to slew, the nanoseconds since it last slewed by one, and whether the single step of R14
  has been made. -/
  slew      : Int
  slewPhase : Nat
  tbStepped : Bool
  /-- Datagrams that have left the network ports, oldest first. -/
  wire      : List OutDatagram
  layout    : Option Layout
  volumes   : Tab Volume
  map       : Tab Word
  /-- The map grains, leaves and interior ones, of volumes and spare maps (R160, R208). -/
  leaves    : Tab Leaf
  courses   : Tab Course
  /-- Discarded courses whose contents wait for an ordinal to be poured again (R173). -/
  repourWait : List Course
  leads     : Tab Lead
  lastOrd   : Nat
  /-- The slates whose course engine reclaims, and the unit's pours and reclaim pours since host appends began to wait (R177). -/
  reclaiming : List Nat
  pours     : Nat
  poursRecl : Nat
  /-- The slates whose WRITE_RESERVE the free share is below (R178). -/
  spaceLow  : List Nat
  /-- The flash-log directory (R197). -/
  flashDir  : Tab DirCourse
  /-- The pool's media: each 4 KiB column of each strip slot of each member (R155, R164). -/
  media     : Tab Block
  owners    : Tab Owner
  /-- The owners whose copies the STANDIN and TWIN areas of each slate hold as stand-in (R194), and the QTAB copies given up: eight
  times the owner plus the holder's place in the list of R191. -/
  standin   : Tab Nat
  standin2  : Tab Nat
  qtabGone  : List Nat
  ucn       : Nat
  ucnDone   : Nat
  durable   : Durable
  members   : Tab Member
  nextCmd   : Nat
  /-- Reads of grains under way (R210). -/
  reads     : Tab GrainRead
  nextRead  : Nat
  /-- The spare maps (R208), and the destinations chosen whose records are not yet applied. -/
  spare     : Tab SpareEntry
  spareResv : Tab SpareEntry
  /-- The write pointer of each spare zone of a zoned pool (R207), and spare slots of members on their way to be free, with the jobs
  that hold them (R175, R220). -/
  spareWp   : Tab Nat
  spareHeld : List (Nat × Nat × List Nat)
  rebuildQ  : Tab (List Nat)
  lostRange : Tab (List LostRange)
  copyBack  : Tab CopyBack
  quorum    : Bool
  qShort    : Bool
  drvTrain  : Option Nat
  /-- The step of R200 that recovery has reached, and the TB of leaving reset. -/
  recovery  : Nat
  resetTb   : Nat
  frames    : Tab Frame
  /-- Multicasts under way and the result masks handed back (R237). -/
  mcast     : Tab Mcast
  mcResult  : Tab Nat
  /-- FLOW_SEED and the enabled links of each slate before its last lookup change (R238). -/
  oldLookup : Tab (Nat × Nat)
  nextFrame : Nat
  outs      : Tab OutPort
  gates     : Tab Gates
  policers  : Tab Policer
  links     : Tab LinkState
  barrier   : Tab Nat
  windows   : Tab Window
  availAt   : Tab Nat
  rot       : Tab (Tab RotEntry)
  copies    : Tab (Tab Copy)
  scLines   : Tab Line
  victim    : Tab (List Line)
  scLfsr    : Tab (BitVec 32)
  dcLines   : Tab Nat
  dcTree    : Tab (BitVec 8)
  /-- The lines of the engine instruction caches and their trees (R273, R274). -/
  icLines   : Tab Nat
  icTree    : Tab (BitVec 8)
  wayErrs   : Tab Nat
  lease     : Lease
  chain     : Chain
  pin       : FaultPin
  /-- What each state source presented in the last cycle, keyed slate * 32 + source (R329). -/
  lastCount : Tab Bool
  sampling  : Tab Sampling
  dumpSeq   : Tab Nat
  secure    : Secure
  admin     : AdminOp
  power     : PowerSt
  mod       : Module
  /-- Counter of the free values taken so far (the model's own field, not the manual's). -/
  fresh     : Nat
  /-- Commands waiting, first in first out. -/
  pending   : List Instr
  deriving DecidableEq, Repr

/-- Why a step stops with a fault. -/
inductive Fault where
  /-- Raised by every command that names a slate at or above the variant's slate count (R2), or by an event that
  names a drive port, host queue, course owner or unit part on such a slate: no such agent exists, so no such event
  can occur. Safe: the machine stops where the hardware has nothing that could act. -/
  | noSuchSlate
  deriving DecidableEq, Repr

/-- Why a command is refused. -/
inductive Refusal where
  /-- Raised by an arm of `exec` whose command has no meaning yet. Safe: it stops. -/
  | notModelled (mnemonic : String)
  deriving DecidableEq, Repr

namespace State

/-- An absent member (R184 reset values). -/
def noMember : Member :=
  { present := false, conforms := false, link := false, speed := 0, width := 0, mstate := 0, zoned := false,
    strips := 0, zs := 0, zoneLbas := 0, zoneRes := 0, sanCap := 0, nguid := 0, recorded := .notInPool, recConf := true, goneAt := none,
    cmds := [], resetAt := none, perst := true, lowPs := 0, lowPower := false, hostId := none,
    resv := none }

/-- The lease block at reset (R300).
DESIGN CHOICE (log entry 28). -/
def leaseReset : Lease :=
  { bay := 0, role := 0, excl := false, up := false, lastHb := 0, clash := false, pRole := 0, pFlags := 0,
    pSlates := 0, pEpoch := 0, degSince := none, epoch := 0, renew := 0, leaseEnd := 0, lastRound := none,
    round := none, wPend := none, seen := [], excluded := false, retryAt := none, draining := none,
    released := false, resynced := false, needExcl := [], lapsed := false, pBoot := 0, hbOut := [] }

/-- The batten chain at reset (R302, R309, R314). -/
def chainReset : Chain :=
  { bypass := true, upMac := none, upAt := 0, dnMac := none, dnAt := 0, helloAt := none, chain := 0x3FF,
    chainNew := none, prev := 0x3FF, pos := none, posChain := 0x3FF, enum := 0, claimed := false, follows := false, lastEnum := 0,
    enumDue := false, ua := 0, uaValid := false, sentUp := [], sentDn := [] }

/-- No administrative operation (R96). -/
def adminReset : AdminOp :=
  { op := 0, state := 0, ident := 0, final := 0, failed := 0, volume := 0, action := 0, pattern := 0, passes := 0, d := 0, s := 0,
    stage := 0, seq := 0, todo := [] }

/-- The machine right after a power cycle and before any recovery step (R6): the rails are up, the module is about to
leave reset (R373), and every field stands at its Reset-column value; J fields read zero.
DESIGN CHOICE (log entries 1, 20). -/
def reset : State :=
  { n := 8
    tb := []
    ctl := []
    lost := []
    lastLost := []
    ptrs := []
    jobs := []
    nextJob := 0
    buffers := []
    nextBuf := 0
    threads := []
    hkRestart := []
    dispatchQ := []
    resumeQ := []
    progs := []
    nextProg := 0
    slots := []
    cutover := none
    evPend := []
    hbm := []
    poison := []
    keys := []
    keySeq := []
    stage := []
    queues := []
    hazards := []
    hazPast := []
    hazSeq := 0
    ctxRef := []
    park := []
    heldDg := []
    bufWait := []
    fetching := []
    evFwd := []
    ready :=
      { bootId := 0, sentTb := none, left := 0, lastTb := 0, trained := none, timedOut := false, sources := []
        payload := [] }
    pauseBoot := []
    pausePark := []
    pauseBuf := []
    pauseAt := []
    peerPause := []
    ptpSync := none
    slew := 0
    slewPhase := 0
    tbStepped := false
    wire := []
    layout := none
    volumes := []
    map := []
    leaves := []
    courses := []
    repourWait := []
    leads := []
    lastOrd := 0
    reclaiming := []
    pours := 0
    poursRecl := 0
    spaceLow := []
    flashDir := []
    media := []
    owners := []
    standin := []
    standin2 := []
    qtabGone := []
    ucn := 0
    ucnDone := 0
    durable := { chain := 0x3FF, pos := none, epoch := 0, wMask := 0, domEn := false, prefix6 := 0, keys := [],
                 queues := [], ways := [], holders := [], manifests := [], measures := [], roots := [], wraps := [], members := [], admin := adminReset,
                 seqs := [] }
    members := []
    nextCmd := 0
    reads := []
    nextRead := 0
    spare := []
    spareResv := []
    spareWp := []
    spareHeld := []
    rebuildQ := []
    lostRange := []
    copyBack := []
    quorum := false
    qShort := false
    drvTrain := none
    recovery := 0
    resetTb := 0
    frames := []
    mcast := []
    mcResult := []
    oldLookup := []
    nextFrame := 0
    outs := []
    gates := []
    policers := []
    links := []
    barrier := []
    windows := []
    availAt := []
    rot := []
    copies := []
    scLines := []
    victim := []
    scLfsr := []
    dcLines := []
    dcTree := []
    icLines := []
    icTree := []
    wayErrs := []
    lease := leaseReset
    chain := chainReset
    pin := { pulse := none, romHold := false, shadows := [], heldOff := [] }
    lastCount := []
    sampling := []
    dumpSeq := []
    secure := { stage := .test, fwMin := 0, ownerEpoch := 0, custKeys := [], serial := 0, fwSec := 0, fwRelease := 0, bankB := false,
                fallback := false, testImg := false, fwMeasure := [], flashA := none, flashB := none, preferB := none,
                bootstrap := false,
                dataKey := 0, op := none, status := 0, len := 0 }
    admin := adminReset
    power := { now := 0, target := none, exiting := false }
    mod := { power := .inReset, offTime := false, trip := false, therm := false, vcoLost := false,
             vinA := 0, vinB := 0, iin := 0, pin := 0, pinMax := 0, feed := 0, feedChg := 0 }
    fresh := 0
    pending := [] }

end State
end Sys2Proof.Machine
end

