-- ==== Sys2Proof/Machine/Operands.lean ====
section
/-! DEFINITION. Operand forms of the Ortur instructions: registers, immediates, register pairs, handles, returned statuses
(R47, R48, R51, R53, R55). -/

namespace Sys2Proof.Machine

/-- Read a general register; g0 reads zero (R51). -/
def rd (j : Job) (r : Reg) : Word := if r = 0 then 0 else tabGetD j.g r.toNat 0

/-- Write a general register; a write to g0 is discarded (R51). -/
def wr (j : Job) (r : Reg) (v : Word) : Job := if r = 0 then j else { j with g := tabSet 0 j.g r.toNat v }

/-- The second register of the pair gD:gD+1 (R51). -/
def pairReg (d : Reg) : Reg := d + 1

/-- A register pair needs an even d (R51). -/
def pairOk (d : Reg) : Bool := d.toNat % 2 == 0

/-- Sign extension of an immediate in either form (R48, R55). -/
def sextImm : Imm → Word
  | .short v => v.signExtend 64
  | .long _ v => v.signExtend 64

/-- Zero extension of an immediate in either form (R48, R55). -/
def zextImm : Imm → Word
  | .short v => v.setWidth 64
  | .long _ v => v.setWidth 64

/-- Whether the reserved bits of an immediate's form are zero: bits [9:0] of an X form (R47).
DEDUCED (log entry 31). -/
def immOk : Imm → Bool
  | .short _ => true
  | .long z _ => z == 0

/-- Words an instruction with this immediate occupies (R49). -/
def immLen : Imm → Nat
  | .short _ => 1
  | .long _ _ => 2

/-- Words an instruction with this second operand occupies. -/
def srcLen : Src → Nat
  | .reg _ => 1
  | .imm i => immLen i

/-- Whether the reserved bits of a second operand are zero. -/
def srcOk : Src → Bool
  | .reg _ => true
  | .imm i => immOk i

/-- The second operand of ADD and CMP: the immediate is sign-extended (R55). -/
def srcSext (j : Job) : Src → Word
  | .reg b => rd j b
  | .imm i => sextImm i

/-- The second operand of AND, OR and XOR: the immediate is zero-extended (R55). -/
def srcZext (j : Job) : Src → Word
  | .reg b => rd j b
  | .imm i => zextImm i

/-- The count of a shift: gB[5:0], or imm16[5:0] (R55). -/
def countVal (j : Job) : Count → Nat
  | .reg b => (rd j b).toNat % 64
  | .imm v => v.toNat % 64

/-- imm16[15:6] of an immediate shift is reserved (R55). -/
def countOk : Count → Bool
  | .reg _ => true
  | .imm v => v.toNat / 64 == 0

/-- A handle of a job; a null handle is absent (R29). -/
def handleOf (j : Job) (n : Nat) : Option Handle := tabGet j.h (n % 8)

/-- Write a handle. -/
def setHandle (j : Job) (n : Nat) (h : Option Handle) : Job :=
  match h with
  | some h => { j with h := tabPut j.h (n % 8) h }
  | none => { j with h := tabDel j.h (n % 8) }

/-- Return a status with other content above it: gD[15:0] is the status and Z says whether it is OK (R53). -/
def retWith (j : Job) (d : Reg) (st : Status) (above : Nat) : Job :=
  { wr j d (BitVec.ofNat 64 (st.toNat + above * 65536)) with z := st == 0 }

/-- Return a status (R53). -/
def ret (j : Job) (d : Reg) (st : Status) : Job := retWith j d st 0

/-- The bytes of an access size code: 1, 2, 4 or 8 (R59). -/
def sizeOf2 (code : Nat) : Nat := 2 ^ (code % 4)

/-! ### Status codes (R88) -/

namespace St

def ok : Status := 0x0000
def illegalOpcode : Status := 0x0101
def illegalField : Status := 0x0102
def outOfRange : Status := 0x0103
def rights : Status := 0x0104
def keyStale : Status := 0x0105
def bounds : Status := 0x0106
def noProgram : Status := 0x0107
def compareFail : Status := 0x0108
def duplicate : Status := 0x0201
def sealFail : Status := 0x0202
def mediaUnrecovered : Status := 0x0301
def grainsLost : Status := 0x0302
def memberGone : Status := 0x0303
def busyRetry : Status := 0x0401
def noContext : Status := 0x0402
def budget : Status := 0x0403
def notServing : Status := 0x0404
def noSpace : Status := 0x0405
def aborted : Status := 0x0501
def abortFoundComplete : Status := 0x0502
def abortCommitted : Status := 0x0503
def signatureBad : Status := 0x0601
def notAttested : Status := 0x0602

end St

end Sys2Proof.Machine
end

