-- ==== Sys2Proof/Machine/Flags.lean ====
section
/-! DEFINITION. The flags of the arithmetic instructions and the branch conditions (R52, R55, R56). -/

namespace Sys2Proof.Machine

/-- Bit 63. -/
def topBit (x : Word) : Bool := x.msb

/-- Set the four flags from a result, a carry and an overflow (R55: z and n come from the result). -/
def setFlags (j : Job) (r : Word) (c v : Bool) : Job := { j with z := r == 0, n := topBit r, c := c, v := v }

/-- Carry of an addition: out of bit 63. -/
def addC (a b : Word) : Bool := 2 ^ 64 ≤ a.toNat + b.toNat

/-- Overflow of an addition. -/
def addV (a b : Word) : Bool := topBit a == topBit b && topBit (a + b) != topBit a

/-- Carry of a subtraction: set means no borrow. -/
def subC (a b : Word) : Bool := b.toNat ≤ a.toNat

/-- Overflow of a subtraction. -/
def subV (a b : Word) : Bool := topBit a != topBit b && topBit (a - b) != topBit a

/-- Carry of a multiplication: the unsigned product does not fit. -/
def mulC (a b : Word) : Bool := 2 ^ 64 ≤ a.toNat * b.toNat

/-- Overflow of a multiplication: the signed product does not fit. -/
def mulV (a b : Word) : Bool :=
  a.toInt * b.toInt < -(2 ^ 63 : Int) || (2 ^ 63 : Int) ≤ a.toInt * b.toInt

/-- High half of the signed product. -/
def mulHi (a b : Word) : Word := BitVec.ofInt 64 (a.toInt * b.toInt / 2 ^ 64)

/-- High half of the unsigned product. -/
def mulHiU (a b : Word) : Word := BitVec.ofNat 64 (a.toNat * b.toNat / 2 ^ 64)

/-- Carry of a left shift by `n`: the last bit shifted out. -/
def shlC (a : Word) (n : Nat) : Bool := n != 0 && a.getLsbD (64 - n)

/-- Carry of a right shift by `n`: the last bit shifted out. -/
def shrC (a : Word) (n : Nat) : Bool := n != 0 && a.getLsbD (n - 1)

/-- The flags as GETS selector 2 shows them (R76). -/
def flagWord (j : Job) : Word := BitVec.ofNat 64 (j.z.toNat + 2 * j.n.toNat + 4 * j.c.toNat + 8 * j.v.toNat)

/-- Whether a condition code is taken (R56). Codes 0x0E and above name no condition. -/
def condTaken (j : Job) (code : Reg) : Bool :=
  match code.toNat with
  | 0x00 => j.z
  | 0x01 => !j.z
  | 0x02 => j.c
  | 0x03 => !j.c
  | 0x04 => j.n
  | 0x05 => !j.n
  | 0x06 => j.v
  | 0x07 => !j.v
  | 0x08 => j.c && !j.z
  | 0x09 => !j.c || j.z
  | 0x0A => j.n == j.v
  | 0x0B => j.n != j.v
  | 0x0C => !j.z && j.n == j.v
  | 0x0D => j.z || j.n != j.v
  | _ => false

/-- Codes 0x0E to 0x1F are illegal field values (R56). -/
def condOk (code : Reg) : Bool := decide (code.toNat < 0x0E)

end Sys2Proof.Machine
end

