-- ==== Sys2Proof/Machine/EventTable.lean ====
section
/-! DEFINITION. The event numbers of the unit and the class of each fault detector, from the event tables of the
chapters (R38, R84, R315). -/

namespace Sys2Proof.Machine

/-- The number of source `k` of space `p` (R38, R84). -/
def eventNo (p k : Nat) : Nat := p * 64 + k

namespace Ev

def JOB_TRAP : Nat := 0x80
def HK_TRAP : Nat := 0x81
def LAUNCH_FAIL : Nat := 0x82
def STORE_CHANGE : Nat := 0x83
def STORE_CORR : Nat := 0x84
def STORE_UNCORR : Nat := 0x85
def SOFT_K (i : Nat) : Nat := 0xA0 + i
def SOFT_J (i : Nat) : Nat := 0xB0 + i
def LINK_DOWN : Nat := 0xC0
def FEC_UNCORR : Nat := 0xC1
def PTP_LOSS : Nat := 0xC2
def PTP_OFFSET : Nat := 0xC3
def PAUSE_TIMEOUT : Nat := 0xC4
def LINK_UP : Nat := 0xE0
def PTP_LOCK : Nat := 0xE1
def CHECK_FAIL : Nat := 0x140
def SEAL_FAIL : Nat := 0x141
def ROT_FULL : Nat := 0x142
def KEYTAB_UNCORR : Nat := 0x143
def KEY_SPENT : Nat := 0x144
def PARK_FULL : Nat := 0x180
def CTX_UNCORR : Nat := 0x181
def HAZ_LATE : Nat := 0x182
def QUEUE_RESET : Nat := 0x1A0
def TUNDISH_CORR : Nat := 0x240
def TUNDISH_FATAL : Nat := 0x241
def POUR_STALL : Nat := 0x242
def SPACE_LOW : Nat := 0x243
def REPOUR : Nat := 0x244
def RUN_CLOSED : Nat := 0x260
def MEMBER_LOST (i : Nat) : Nat := 0x2C0 + i
def MEDIA_ERR : Nat := 0x2C6
def CMD_TIMEOUT : Nat := 0x2C7
def LINK_DEGRADED : Nat := 0x2C8
def PROXY : Nat := 0x2C9
def MEMBER_ADDED (i : Nat) : Nat := 0x2E0 + i
def MRAM_CORR : Nat := 0x280
def MRAM_UNCORR : Nat := 0x281
def HOLDER_LOST : Nat := 0x282
def HOLDERS_SHORT : Nat := 0x283
def LOG_FULL : Nat := 0x284
def JOURNAL_LOST : Nat := 0x285
def REPLAY_DONE : Nat := 0x2A0
def GRAINS_LOST : Nat := 0x245
def SPARE_SHORT : Nat := 0x246
def QUORUM_SHORT : Nat := 0x247
def REBUILD_DONE : Nat := 0x261
def COPYBACK_DONE : Nat := 0x262
def CELL_CORR : Nat := 0x100
def CELL_UNCORR : Nat := 0x101
def HDRM_OVF : Nat := 0x102
def PEER_PAUSE : Nat := 0x103
def SWB_DONE : Nat := 0x120
def FLINK_RETRY : Nat := 0x440
def FLINK_DOWN : Nat := 0x441
def SLATE_UNREACH : Nat := 0x442
def FLINK_UP : Nat := 0x460
def STATE_CORR : Nat := 0x1C0
def STATE_ERR : Nat := 0x1C1
def POLICE_DROP : Nat := 0x1C2
def GL_TAKEOVER : Nat := 0x1E0
def GL_ROLLED : Nat := 0x1E1
def RMA_POISON : Nat := 0x200
def ROT_UNCORR : Nat := 0x201
def COPY_FAIL : Nat := 0x202
def WIN_REUSED : Nat := 0x220
def HBM_CORR : Nat := 0x300
def HBM_UNCORR : Nat := 0x301
def CACHE_CORR : Nat := 0x302
def WAY_DISABLED : Nat := 0x303
def POISON_CONSUMED : Nat := 0x304
def HBM_FAIL : Nat := 0x305
def SC_BYPASSED : Nat := 0x320
def PARTNER_LOST : Nat := 0x340
def WITNESS_LOST : Nat := 0x341
def ROUND_FAIL : Nat := 0x342
def LAPSED : Nat := 0x343
def EXCLUDED : Nat := 0x344
def BAY_CLASH : Nat := 0x345
def TAKEOVER : Nat := 0x360
def RELEASED : Nat := 0x361
def PARTNER_UP : Nat := 0x362
def UA_CHANGED : Nat := 0x20
def FRAME_BAD : Nat := 0x480
def CHAIN_BREAK : Nat := 0x481
def CHAIN_FULL : Nat := 0x482
def POS_CONFLICT : Nat := 0x483
def ENUM_DONE : Nat := 0x4A0
def PIN_SHORT : Nat := 0x380
def SLATE_LOST : Nat := 0x3A0
def C4_LATCHED : Nat := 0x3A1
def DUMP_LOST : Nat := 0x3C0
def SAMPLE_LOST : Nat := 0x3C1
def RING_OVERLAP : Nat := 0x3C2
def CNT_WRAP : Nat := 0x3E0
def RING_HALF : Nat := 0x3E1
def SRING_HALF : Nat := 0x3E2
def RNG_FAIL : Nat := 0x400
def PROG_MISMATCH : Nat := 0x401
def FLASH_ERR : Nat := 0x402
def SIG_REJECT : Nat := 0x403
def PARTNER_UNTRUSTED : Nat := 0x404
def BOOT_FALLBACK : Nat := 0x420
def SOP_DONE : Nat := 0x421
def LC_CHANGED : Nat := 0x422

end Ev

/-- The class of a detector, by its event number; `none` where the space defines no such detector (R84, R315). -/
def detClass (e : Nat) : Option Nat :=
  match e with
  | 0x82 | 0x83 | 0xC0 | 0xC2 | 0xC3 | 0xC4 | 0x140 | 0x141 | 0x142 | 0x144 | 0x180 | 0x182 | 0x242 | 0x243 | 0x244 | 0x2C7 | 0x2C8 | 0x2C9 | 0x283 | 0x284 | 0x246 | 0x247 | 0x102 | 0x103 | 0x1C2 | 0x202 | 0x340 | 0x343 | 0x344 | 0x345 | 0x481 | 0x482 | 0x483 | 0x3C0 | 0x3C1 | 0x3C2 | 0x403 | 0x404 => some 0
  | 0x84 | 0xC1 | 0x240 | 0x2C0 | 0x2C1 | 0x2C2 | 0x2C3 | 0x2C4 | 0x2C5 | 0x2C6 | 0x280 | 0x281 | 0x282 | 0x100 | 0x101 | 0x440 | 0x441 | 0x1C0 | 0x1C1 | 0x300 | 0x302 | 0x303 | 0x341 | 0x342 | 0x480 | 0x380 => some 1
  | 0x80 | 0x81 | 0x85 | 0x143 | 0x181 | 0x245 | 0x200 | 0x201 | 0x301 | 0x304 | 0x400 | 0x401 | 0x402 => some 2
  | 0x442 | 0x305 => some 3
  | 0x241 | 0x285 => some 4
  | _ => none

end Sys2Proof.Machine
end

