-- ==== Sys2Proof/Config.lean ====
section
/-! DEFINITION. What an implementation fixes and what the manual leaves open. Each constant here has no body, so no
proof can see its value: a claim that mentions one holds whatever it is. -/

namespace Sys2Proof.Config

/-- A free value: where the manual gives a result no value, the step applies this to the counter `State.fresh` and
advances the counter, so each use is a new value.
DESIGN CHOICE (log entry 7). -/
opaque freeWord : Nat → Word

/-- The lowest MAC address fused into a slate (R130, PORT:0x002). -/
opaque macBase : Nat → BitVec 48

/-- The package identity fused at manufacture (R357, SECURE:0x000).
DESIGN CHOICE (log entry 18). -/
opaque deviceId : Word

/-- The fused root digest, eight bytes to an entry (R357, SECURE:0x003 to 0x006). -/
opaque rootDigest : Nat → Word

/-- The link-local IPv6 address that a MAC address gives (R130).
DESIGN CHOICE (log entry 16). -/
opaque linkLocal : BitVec 48 → Nat

/-- The NVMe Host Identifier that a MAC address and a bay give, whose derivation the manual leaves open (R289).
DESIGN CHOICE (log entry 132). -/
opaque hostId : BitVec 48 → Nat → BitVec 128

/-- The check value of the bootstrap key, fused at wafer test (R339, R354). -/
opaque claimCheck : Word

/-- The words of library slot `slot` in firmware release `release` (R90, R341).
DESIGN CHOICE (log entry 21). -/
opaque libWords : (release slot : Nat) → List InsnWord

/-- The BUDGET of library slot `slot` in firmware release `release` (R90). -/
opaque libBudget : (release slot : Nat) → Nat

/-- The VERSION of library slot `slot` in firmware release `release` (R90). -/
opaque libVersion : (release slot : Nat) → Nat

/-- The revision digest of the boot ROM (R347). -/
opaque romDigest : Block

/-- The attestation public key of the package (R350). -/
opaque attPublic : Block

/-- The attestation signature over a byte string (R349). -/
opaque attSign : Block → Block

/-- The ML-KEM-1024 encapsulation key of the boot with a BOOT_ID (R342).
DESIGN CHOICE (log entry 17). -/
opaque kemKey : Word → Block

/-- The shared secret a ciphertext gives under the ML-KEM key of the boot with a BOOT_ID (R351). -/
opaque kemDecaps : Word → Block → Block

/-- The root signature of the device certificate (R350). -/
opaque certSign : Block

/-- What a block that a destroyed data key encrypted reads as under data key number `n` (R352, R353).
DESIGN CHOICE (log entry 24). -/
opaque staleBlock : (n column : Nat) → Block

/-- The number of a unit table, by the model's number of its kind (R187 TAB).
DESIGN CHOICE (log entry 121). -/
opaque tableNo : Nat → Nat

/-- The image of an entry of a unit table: the table, the entry and what it holds, as numbers (R188). -/
opaque tableImage : (table index : Nat) → List Nat → Block

/-- The 4 KiB of a summary grain: the volume and LBA of each grain index (R172).
DESIGN CHOICE (log entry 66). -/
opaque summaryImage : List (Nat × Nat) → Block

/-- The byte of the program store at which the image of a program version stands, which sets the instruction-cache sets of its words
(R273).
DESIGN CHOICE (log entry 89). -/
opaque storeBase : Nat → Nat

/-- Row `row` of the layout table for D data strips over a list of members of a unit with `n` slates, whose construction is
Damwyn's own (R163). -/
opaque layoutRow : (n d : Nat) → (members : List Nat) → (row : Nat) → List Nat

/-- V_ON in millivolts, within the limits of R366. -/
opaque vOn : Nat

/-- The falling input lockout in millivolts, within the limits of R366. -/
opaque lockout : Nat

/-- t_PCYC in microseconds, within the limits of R364. -/
opaque tPcyc : Nat

end Sys2Proof.Config
end

