-- ==== Sys2Proof/Machine/Fields.lean ====
section
/-! DEFINITION. The field maps of the control spaces (R46, R84, R130, R131, R154, R183, R184, R204, R205, R221, R222,
R240, R241, R258, R272, R285, R300, R313, R314, R328, R338, R357): where each field stands, its access type and its
reset value. -/

namespace Sys2Proof.Machine

/-- Where a field stands: space, entry, lowest bit and width. -/
structure Fld where
  sp : Nat
  e  : Nat
  lo : Nat
  w  : Nat
  deriving DecidableEq, Repr

/-- Access types of R5; a bit in no field is reserved. -/
inductive Acc where
  | rw
  | r
  | rs
  | w1c
  | wo
  deriving DecidableEq, Repr

/-- A row of a field map. -/
structure FieldDef where
  f   : Fld
  acc : Acc
  rst : Nat
  deriving DecidableEq, Repr

/-- Whether the variant's switch cores work in MODE 1, static limits (R240). -/
def swMode (n : Nat) : Bool := n == 8

/-- Arrangement of the fabric (R12, R241). -/
def fabArr (n : Nat) : Nat := if n = 2 then 0 else if n = 4 then 1 else 2

/-- Row of a slate (R12). -/
def fabRow (n sl : Nat) : Nat := if n = 2 then 0 else if n = 4 then sl / 2 % 2 else sl / 4 % 2

/-- Column of a slate (R12). -/
def fabCol (n sl : Nat) : Nat := if n = 2 then sl % 2 else if n = 4 then sl % 2 else sl % 4

/-- The twin of a slate: its index XOR 1 (R12). -/
def twinOf (sl : Nat) : Nat := sl ^^^ 1

/-- Direction of link `l`: 0 west, 1 east, 2 across rows, 3 to the twin (R12, R241). On the SV8-4 links 0 and 1 join
the twin and 2 and 3 cross rows; on the SV8-8 the links stand west, east, across, twin. -/
def linkDir (n l : Nat) : Nat :=
  if n = 2 then 3 else if n = 4 then (if l < 2 then 3 else 2) else l

/-- Slate at the far end of link `l` (R12, R241). -/
def linkNeigh (n sl l : Nat) : Nat :=
  match linkDir n l with
  | 0 => sl / 4 * 4 + (sl + 3) % 4
  | 1 => sl / 4 * 4 + (sl + 1) % 4
  | 2 => if n = 4 then sl ^^^ 2 else sl ^^^ 4
  | _ => twinOf sl

/-- Whether link `l` joins columns 3 and 0 (R227, R241). -/
def linkWrap (n sl l : Nat) : Bool :=
  n == 8 && ((l == 0 && fabCol n sl == 0) || (l == 1 && fabCol n sl == 3))

/-- The classes with a policer (R258). -/
def polClass (c : Nat) : Bool := c == 1 || c == 2 || c == 3 || c == 7

/-- STCFG reset limits in cells, per class (R233). -/
def stLimNet (c : Nat) : Nat := match c with | 7 => 512 | 3 => 16384 | 2 => 8192 | 1 => 4096 | _ => 0
/-- STCFG reset limits of INT ports. -/
def stLimInt (c : Nat) : Nat := match c with | 7 => 256 | 6 => 1024 | 4 => 4096 | 3 => 4096 | 5 => 2048 | 2 => 2048 | 1 => 2048 | _ => 0
/-- STCFG reset limits of DRV ports. -/
def stLimDrv (c : Nat) : Nat := match c with | 7 => 256 | 4 => 2048 | 3 => 2048 | 1 => 1024 | _ => 0
/-- STCFG reset limits of FAB ports. -/
def stLimFab (c : Nat) : Nat :=
  match c with | 7 => 256 | 6 => 1024 | 5 => 2048 | 4 => 8192 | 3 => 8192 | 2 => 4096 | 1 => 4096 | _ => 0

/-- Kinds of switch-core port (R223): 0 NET, 1 INT, 2 DRV, 3 FAB. -/
def portKind (p : Nat) : Nat := if p = 0 then 0 else if p < 4 then 1 else if p < 10 then 2 else if p < 14 then 3 else 1

/-- QCFG reset values (R258) for queue 8p + c. -/
def qPriv (i : Nat) : Bool := i % 8 == 7 || (i % 8 == 6 && i / 8 != 0)
/-- QCFG reset weight. -/
def qWeight (i : Nat) : Nat := match i % 8 with | 5 => 64 | 4 => 64 | 3 => 128 | 2 => 32 | _ => 16
/-- QCFG reset IDLE_SLOPE. -/
def qSlope (i : Nat) : Nat :=
  match i % 8, portKind (i / 8) with
  | 7, 0 => 4000 | 7, 3 => 10000 | 7, _ => 6400
  | 6, 0 => 0 | 6, 3 => 50000 | 6, _ => 32000
  | _, _ => 0
/-- QCFG reset HI_CREDIT. -/
def qHi (i : Nat) : Nat := if qPriv i then 256 else 0

/-! ### Field constants -/

namespace F

/-- Common fault quad: STAT (R84). -/
def STAT_REAL (sp : Nat) : Fld := ⟨sp, 0xF00, 0, 32⟩
def STAT_INJ (sp : Nat) : Fld := ⟨sp, 0xF00, 32, 32⟩
def MASK (sp : Nat) : Fld := ⟨sp, 0xF01, 0, 32⟩
def INJ_SRC (sp : Nat) : Fld := ⟨sp, 0xF02, 0, 5⟩
def INJ_FIRE (sp : Nat) : Fld := ⟨sp, 0xF02, 5, 1⟩
def INJ_COUNT (sp : Nat) : Fld := ⟨sp, 0xF02, 16, 16⟩
def F_SRC (sp : Nat) : Fld := ⟨sp, 0xF03, 0, 5⟩
def F_VALID (sp : Nat) : Fld := ⟨sp, 0xF03, 5, 1⟩
def F_INJ (sp : Nat) : Fld := ⟨sp, 0xF03, 6, 1⟩
def F_MORE (sp : Nat) : Fld := ⟨sp, 0xF03, 7, 1⟩
def F_TB (sp : Nat) : Fld := ⟨sp, 0xF03, 16, 48⟩
def DETAIL (sp i : Nat) : Fld := ⟨sp, 0xF04 + i, 0, 64⟩

/-! ENGINE -/
def ENGINE.ENGINES : Fld := ⟨0x02, 0x0, 0, 8⟩
def ENGINE.THREADS : Fld := ⟨0x02, 0x0, 8, 8⟩
def ENGINE.HK_THREADS : Fld := ⟨0x02, 0x0, 16, 8⟩
def ENGINE.STORE_KIB : Fld := ⟨0x02, 0x0, 24, 16⟩
def ENGINE.SLOTS : Fld := ⟨0x02, 0x0, 40, 11⟩
def ENGINE.DEF_BUDGET : Fld := ⟨0x02, 0x1, 0, 21⟩
def ENGINE.HEAP_BASE : Fld := ⟨0x02, 0x2, 0, 16⟩
def ENGINE.HEAP_LIMIT : Fld := ⟨0x02, 0x2, 16, 16⟩
def ENGINE.HK_SLOT (i : Nat) : Fld := ⟨0x02, 0x10 + i, 0, 10⟩
def ENGINE.HK_EN (i : Nat) : Fld := ⟨0x02, 0x10 + i, 16, 1⟩
def ENGINE.HK_RESTART (i : Nat) : Fld := ⟨0x02, 0x10 + i, 17, 1⟩
def ENGINE.HK_STATE (i : Nat) : Fld := ⟨0x02, 0x10 + i, 18, 2⟩
def ENGINE.HK_TRAPS (i : Nat) : Fld := ⟨0x02, 0x10 + i, 32, 16⟩
def ENGINE.THREADS_BUSY : Fld := ⟨0x02, 0x20, 0, 8⟩
def ENGINE.JOBS_SUSP : Fld := ⟨0x02, 0x20, 8, 17⟩
def ENGINE.RESUME_Q : Fld := ⟨0x02, 0x20, 25, 17⟩
def ENGINE.DISPATCH_Q : Fld := ⟨0x02, 0x20, 42, 17⟩
def ENGINE.EV_MERGED : Fld := ⟨0x02, 0x21, 0, 32⟩
def ENGINE.LAUNCH_BUSY : Fld := ⟨0x02, 0x21, 32, 9⟩
def ENGINE.L_SLOT (i : Nat) : Fld := ⟨0x02, 0x30 + i, 0, 10⟩
def ENGINE.L_EN (i : Nat) : Fld := ⟨0x02, 0x30 + i, 10, 1⟩
def ENGINE.INSTALLED (i : Nat) : Fld := ⟨0x02, 0x400 + i, 0, 1⟩
def ENGINE.PRIV (i : Nat) : Fld := ⟨0x02, 0x400 + i, 1, 1⟩
def ENGINE.OLD_LIVE (i : Nat) : Fld := ⟨0x02, 0x400 + i, 2, 1⟩
def ENGINE.BUDGET (i : Nat) : Fld := ⟨0x02, 0x400 + i, 8, 21⟩
def ENGINE.LENGTH (i : Nat) : Fld := ⟨0x02, 0x400 + i, 32, 20⟩
def ENGINE.VERSION (i : Nat) : Fld := ⟨0x02, 0x400 + i, 52, 12⟩
def ENGINE.TARGET (i : Nat) (j : Nat) : Fld := ⟨0x02, 0x800 + i, 16 * j, 8⟩
def ENGINE.MODE (i : Nat) (j : Nat) : Fld := ⟨0x02, 0x800 + i, 16 * j + 8, 2⟩
def ENGINE.FWD (i : Nat) (j : Nat) : Fld := ⟨0x02, 0x800 + i, 16 * j + 10, 1⟩
def ENGINE.PEND (i : Nat) (j : Nat) : Fld := ⟨0x02, 0x800 + i, 16 * j + 11, 1⟩
/-! PORT -/
def PORT.BREAKOUT : Fld := ⟨0x03, 0x0, 0, 2⟩
def PORT.MTU : Fld := ⟨0x03, 0x0, 2, 14⟩
def PORT.IPV4_EN : Fld := ⟨0x03, 0x0, 16, 1⟩
def PORT.ADMIN_UP : Fld := ⟨0x03, 0x0, 17, 1⟩
def PORT.LINK_UP : Fld := ⟨0x03, 0x1, 0, 8⟩
def PORT.PAUSED_BY_PEER : Fld := ⟨0x03, 0x1, 8, 8⟩
def PORT.PAUSING : Fld := ⟨0x03, 0x1, 16, 8⟩
def PORT.MAC_BASE : Fld := ⟨0x03, 0x2, 0, 48⟩
def PORT.IP6_HI : Fld := ⟨0x03, 0x10, 0, 64⟩
def PORT.IP6_LO : Fld := ⟨0x03, 0x11, 0, 64⟩
def PORT.IP4 : Fld := ⟨0x03, 0x12, 0, 32⟩
def PORT.PREFIX4 : Fld := ⟨0x03, 0x12, 32, 6⟩
def PORT.PREFIX6 : Fld := ⟨0x03, 0x12, 38, 8⟩
def PORT.GW6_HI : Fld := ⟨0x03, 0x13, 0, 64⟩
def PORT.GW6_LO : Fld := ⟨0x03, 0x14, 0, 64⟩
def PORT.GW4 : Fld := ⟨0x03, 0x15, 0, 32⟩
def PORT.PFC_EN : Fld := ⟨0x03, 0x20, 0, 8⟩
def PORT.PRIO_SRC : Fld := ⟨0x03, 0x20, 8, 1⟩
def PORT.PAUSE_QUANTA : Fld := ⟨0x03, 0x20, 9, 16⟩
def PORT.CLASS (i : Nat) (j : Nat) : Fld := ⟨0x03, 0x30 + i, 4 * j, 3⟩
def PORT.DSCP (j : Nat) : Fld := ⟨0x03, 0x34, 6 * j, 6⟩
def PORT.PTP_RX : Fld := ⟨0x03, 0x40, 0, 1⟩
def PORT.PTP_DOMAIN : Fld := ⟨0x03, 0x40, 8, 8⟩
def PORT.PTP_TRANSPORT : Fld := ⟨0x03, 0x40, 16, 2⟩
def PORT.DELAY_MECH : Fld := ⟨0x03, 0x40, 18, 1⟩
def PORT.OFFSET_LIMIT : Fld := ⟨0x03, 0x40, 32, 16⟩
def PORT.LOCKED : Fld := ⟨0x03, 0x41, 0, 1⟩
def PORT.STEPPED : Fld := ⟨0x03, 0x41, 1, 1⟩
def PORT.OFFSET : Fld := ⟨0x03, 0x41, 32, 32⟩
/-! XPORT -/
def XPORT.UDP_PORT : Fld := ⟨0x05, 0x0, 0, 16⟩
def XPORT.READY_MC : Fld := ⟨0x05, 0x0, 16, 1⟩
def XPORT.PAUSE_MAX : Fld := ⟨0x05, 0x0, 17, 7⟩
def XPORT.READY_REPEAT : Fld := ⟨0x05, 0x0, 24, 4⟩
def XPORT.DUP_HORIZON : Fld := ⟨0x05, 0x10, 0, 16⟩
def XPORT.ROT_USED : Fld := ⟨0x05, 0x10, 16, 16⟩
def XPORT.MALFORMED : Fld := ⟨0x05, 0x20, 0, 16⟩
def XPORT.CHECK_FAIL : Fld := ⟨0x05, 0x20, 16, 16⟩
def XPORT.SEAL_FAIL : Fld := ⟨0x05, 0x20, 32, 16⟩
def XPORT.MODE_FAIL : Fld := ⟨0x05, 0x20, 48, 16⟩
def XPORT.DUP_SERVED : Fld := ⟨0x05, 0x21, 0, 16⟩
def XPORT.DUP_DISCARD : Fld := ⟨0x05, 0x21, 16, 16⟩
def XPORT.CLASS_DROP : Fld := ⟨0x05, 0x21, 32, 16⟩
def XPORT.EV_DROPPED : Fld := ⟨0x05, 0x21, 48, 16⟩
def XPORT.GRP6_HI : Fld := ⟨0x05, 0x30, 0, 64⟩
def XPORT.GRP6_LO : Fld := ⟨0x05, 0x31, 0, 64⟩
def XPORT.GRP4 : Fld := ⟨0x05, 0x32, 0, 32⟩
def XPORT.K_INDEX : Fld := ⟨0x05, 0x100, 0, 16⟩
def XPORT.K_OP : Fld := ⟨0x05, 0x100, 16, 2⟩
def XPORT.VALID : Fld := ⟨0x05, 0x101, 0, 1⟩
def XPORT.MODE : Fld := ⟨0x05, 0x101, 1, 2⟩
def XPORT.KIND : Fld := ⟨0x05, 0x101, 3, 1⟩
def XPORT.PERSIST : Fld := ⟨0x05, 0x101, 4, 1⟩
def XPORT.GEN : Fld := ⟨0x05, 0x101, 8, 8⟩
def XPORT.BIND : Fld := ⟨0x05, 0x101, 16, 20⟩
def XPORT.RIGHTS : Fld := ⟨0x05, 0x102, 0, 32⟩
def XPORT.LO : Fld := ⟨0x05, 0x103, 0, 64⟩
def XPORT.HI : Fld := ⟨0x05, 0x104, 0, 64⟩
def XPORT.KCHECK : Fld := ⟨0x05, 0x105, 0, 64⟩
def XPORT.KAES (i : Nat) : Fld := ⟨0x05, 0x106 + i, 0, 64⟩
def XPORT.SALT : Fld := ⟨0x05, 0x10A, 0, 32⟩
def XPORT.EV_HQ (i : Nat) : Fld := ⟨0x05, 0x200 + i, 0, 20⟩
def XPORT.EV_EN (i : Nat) : Fld := ⟨0x05, 0x200 + i, 20, 1⟩
def XPORT.EV_GAP (i : Nat) : Fld := ⟨0x05, 0x200 + i, 32, 16⟩
/-! HQ -/
def HQ.INDEXES : Fld := ⟨0x06, 0x0, 0, 18⟩
def HQ.RESIDENT_MAX : Fld := ⟨0x06, 0x0, 18, 16⟩
def HQ.PARK_SIZE : Fld := ⟨0x06, 0x0, 34, 13⟩
def HQ.REGISTERED : Fld := ⟨0x06, 0x1, 0, 18⟩
def HQ.RESIDENT : Fld := ⟨0x06, 0x1, 18, 15⟩
def HQ.IN_FLIGHT : Fld := ⟨0x06, 0x1, 33, 17⟩
def HQ.PARK_USED : Fld := ⟨0x06, 0x1, 50, 13⟩
def HQ.PINNED : Fld := ⟨0x06, 0x2, 0, 11⟩
def HQ.PARK_LOW : Fld := ⟨0x06, 0x2, 11, 12⟩
def HQ.TAG_BUSY : Fld := ⟨0x06, 0x3, 0, 16⟩
def HQ.HAZ_LATE : Fld := ⟨0x06, 0x3, 16, 16⟩
def HQ.CAPSULE_BAD : Fld := ⟨0x06, 0x3, 32, 16⟩
def HQ.PARK_FULLS : Fld := ⟨0x06, 0x3, 48, 16⟩
def HQ.FETCHES : Fld := ⟨0x06, 0x4, 0, 32⟩
def HQ.SPILLS : Fld := ⟨0x06, 0x4, 32, 32⟩
def HQ.N_ABORTED : Fld := ⟨0x06, 0x5, 0, 16⟩
def HQ.N_COMMITTED : Fld := ⟨0x06, 0x5, 16, 16⟩
def HQ.N_FOUND : Fld := ⟨0x06, 0x5, 32, 16⟩
def HQ.N_RESETS : Fld := ⟨0x06, 0x5, 48, 16⟩
def HQ.Q_INDEX : Fld := ⟨0x06, 0x100, 0, 17⟩
def HQ.Q_OP : Fld := ⟨0x06, 0x100, 17, 2⟩
def HQ.Q_HOST : Fld := ⟨0x06, 0x101, 0, 32⟩
def HQ.Q_KEY : Fld := ⟨0x06, 0x101, 32, 16⟩
def HQ.Q_PIN : Fld := ⟨0x06, 0x101, 48, 1⟩
def HQ.Q_PERSIST : Fld := ⟨0x06, 0x101, 49, 1⟩
def HQ.V_REG : Fld := ⟨0x06, 0x102, 0, 1⟩
def HQ.V_RESIDENT : Fld := ⟨0x06, 0x102, 1, 1⟩
def HQ.V_PIN : Fld := ⟨0x06, 0x102, 2, 1⟩
def HQ.V_PERSIST : Fld := ⟨0x06, 0x102, 3, 1⟩
def HQ.V_ARMED : Fld := ⟨0x06, 0x102, 4, 1⟩
def HQ.V_HOST : Fld := ⟨0x06, 0x102, 8, 32⟩
def HQ.V_KEY : Fld := ⟨0x06, 0x102, 40, 16⟩
def HQ.BUSY_MASK : Fld := ⟨0x06, 0x103, 0, 32⟩
def HQ.EMPTY_MASK : Fld := ⟨0x06, 0x103, 32, 32⟩
def HQ.RESET_NONCE : Fld := ⟨0x06, 0x104, 0, 64⟩
/-! STRIPE -/
def STRIPE.D : Fld := ⟨0x09, 0x0, 0, 5⟩
def STRIPE.S : Fld := ⟨0x09, 0x0, 5, 3⟩
def STRIPE.N : Fld := ⟨0x09, 0x0, 8, 6⟩
def STRIPE.ZONED : Fld := ⟨0x09, 0x0, 14, 1⟩
def STRIPE.A_MAX : Fld := ⟨0x09, 0x0, 16, 13⟩
def STRIPE.ZS : Fld := ⟨0x09, 0x0, 32, 32⟩
def STRIPE.BANDS : Fld := ⟨0x09, 0x1, 0, 32⟩
def STRIPE.RUN_BANDS : Fld := ⟨0x09, 0x1, 32, 32⟩
def STRIPE.FREE : Fld := ⟨0x09, 0x2, 0, 40⟩
def STRIPE.FILL_WINDOW : Fld := ⟨0x09, 0x3, 0, 8⟩
def STRIPE.WRITE_RESERVE : Fld := ⟨0x09, 0x4, 0, 8⟩
def STRIPE.RECL_START : Fld := ⟨0x09, 0x4, 8, 8⟩
def STRIPE.RECL_STOP : Fld := ⟨0x09, 0x4, 16, 8⟩
def STRIPE.RECL_LIVE_MAX : Fld := ⟨0x09, 0x4, 24, 7⟩
def STRIPE.RECL_SHARE : Fld := ⟨0x09, 0x4, 31, 7⟩
def STRIPE.RECL_EN : Fld := ⟨0x09, 0x4, 38, 1⟩
def STRIPE.MAPC_GIB : Fld := ⟨0x09, 0x5, 0, 5⟩
def STRIPE.DESC_USED : Fld := ⟨0x09, 0x6, 0, 7⟩
def STRIPE.STRIPS_USED : Fld := ⟨0x09, 0x6, 7, 9⟩
def STRIPE.LEAD_DATA : Fld := ⟨0x09, 0x6, 16, 3⟩
def STRIPE.LEAD_RECL : Fld := ⟨0x09, 0x6, 19, 3⟩
def STRIPE.LEAD_MAP : Fld := ⟨0x09, 0x6, 22, 3⟩
def STRIPE.GRAINS_IN : Fld := ⟨0x09, 0x7, 0, 32⟩
def STRIPE.GRAINS_PAD : Fld := ⟨0x09, 0x7, 32, 32⟩
def STRIPE.POURED : Fld := ⟨0x09, 0x8, 0, 32⟩
def STRIPE.REPOURS : Fld := ⟨0x09, 0x8, 32, 16⟩
def STRIPE.RELOCATED : Fld := ⟨0x09, 0x9, 0, 48⟩
def STRIPE.ROW : Fld := ⟨0x09, 0x20, 0, 12⟩
def STRIPE.POS (i : Nat) (j : Nat) : Fld := ⟨0x09, 0x21 + i, 8 * j, 8⟩
/-! DRIVE -/
def DRIVE.PRESENT (i : Nat) : Fld := ⟨0x0B, 0x0 + i, 0, 1⟩
def DRIVE.LINK (i : Nat) : Fld := ⟨0x0B, 0x0 + i, 1, 1⟩
def DRIVE.SPEED (i : Nat) : Fld := ⟨0x0B, 0x0 + i, 2, 3⟩
def DRIVE.WIDTH (i : Nat) : Fld := ⟨0x0B, 0x0 + i, 5, 3⟩
def DRIVE.MSTATE (i : Nat) : Fld := ⟨0x0B, 0x0 + i, 8, 3⟩
def DRIVE.ZONED (i : Nat) : Fld := ⟨0x0B, 0x0 + i, 11, 1⟩
def DRIVE.PROXIED (i : Nat) : Fld := ⟨0x0B, 0x0 + i, 12, 1⟩
def DRIVE.MEMBER (i : Nat) : Fld := ⟨0x0B, 0x0 + i, 16, 6⟩
def DRIVE.CAP_STRIPS (i : Nat) : Fld := ⟨0x0B, 0x8 + i, 0, 40⟩
def DRIVE.HOLD_OUT (i : Nat) : Fld := ⟨0x0B, 0x10 + i, 0, 1⟩
def DRIVE.CMD_TIMEOUT : Fld := ⟨0x0B, 0x18, 0, 16⟩
def DRIVE.ABORT_GRACE : Fld := ⟨0x0B, 0x18, 16, 10⟩
def DRIVE.READY_MAX : Fld := ⟨0x0B, 0x18, 26, 16⟩
def DRIVE.MEDIA_ERRS (i : Nat) : Fld := ⟨0x0B, 0x20 + i, 0, 16⟩
def DRIVE.TIMEOUTS (i : Nat) : Fld := ⟨0x0B, 0x20 + i, 16, 16⟩
def DRIVE.RESETS (i : Nat) : Fld := ⟨0x0B, 0x20 + i, 32, 16⟩
def DRIVE.WRITE_ERRS (i : Nat) : Fld := ⟨0x0B, 0x20 + i, 48, 16⟩
/-! JOURNAL -/
def JOURNAL.MRAM_KIB : Fld := ⟨0x0A, 0x0, 0, 16⟩
def JOURNAL.LOG_LINES : Fld := ⟨0x0A, 0x0, 16, 16⟩
def JOURNAL.TWIN_OK : Fld := ⟨0x0A, 0x1, 0, 1⟩
def JOURNAL.PARTNER_OK : Fld := ⟨0x0A, 0x1, 1, 1⟩
def JOURNAL.SI1 : Fld := ⟨0x0A, 0x1, 2, 1⟩
def JOURNAL.SI2 : Fld := ⟨0x0A, 0x1, 3, 1⟩
def JOURNAL.SHORT : Fld := ⟨0x0A, 0x1, 4, 1⟩
def JOURNAL.SI_FOR : Fld := ⟨0x0A, 0x1, 8, 3⟩
def JOURNAL.SI_VALID : Fld := ⟨0x0A, 0x1, 11, 1⟩
def JOURNAL.SI2_FOR : Fld := ⟨0x0A, 0x1, 12, 3⟩
def JOURNAL.SI2_VALID : Fld := ⟨0x0A, 0x1, 15, 1⟩
def JOURNAL.SEQ : Fld := ⟨0x0A, 0x2, 0, 64⟩
def JOURNAL.LOG_USED : Fld := ⟨0x0A, 0x3, 0, 16⟩
def JOURNAL.UCN : Fld := ⟨0x0A, 0x4, 0, 64⟩
def JOURNAL.FLOG_COURSES : Fld := ⟨0x0A, 0x5, 0, 16⟩
def JOURNAL.LEAVES_PENDING : Fld := ⟨0x0A, 0x5, 16, 32⟩
def JOURNAL.LEAF_BATCH : Fld := ⟨0x0A, 0x6, 0, 8⟩
def JOURNAL.LEAF_AGE : Fld := ⟨0x0A, 0x6, 8, 16⟩
def JOURNAL.FLOG_GIB : Fld := ⟨0x0A, 0x6, 24, 7⟩
def JOURNAL.HOLDER_TIMEOUT : Fld := ⟨0x0A, 0x6, 32, 10⟩
def JOURNAL.RECORDS : Fld := ⟨0x0A, 0x7, 0, 32⟩
def JOURNAL.HOLDER_SWITCHES : Fld := ⟨0x0A, 0x7, 32, 16⟩
def JOURNAL.LOG_STALLS : Fld := ⟨0x0A, 0x7, 48, 16⟩
def JOURNAL.REPLAY_MS : Fld := ⟨0x0A, 0x8, 0, 16⟩
def JOURNAL.DISCARDED : Fld := ⟨0x0A, 0x8, 16, 16⟩
def JOURNAL.USED_TWIN : Fld := ⟨0x0A, 0x8, 32, 1⟩
def JOURNAL.USED_PARTNER : Fld := ⟨0x0A, 0x8, 33, 1⟩
/-! SUPPLY -/
def SUPPLY.VIN_A : Fld := ⟨0x01, 0x0, 0, 16⟩
def SUPPLY.VIN_B : Fld := ⟨0x01, 0x0, 16, 16⟩
def SUPPLY.IIN : Fld := ⟨0x01, 0x0, 32, 16⟩
def SUPPLY.PIN : Fld := ⟨0x01, 0x0, 48, 16⟩
def SUPPLY.FEED : Fld := ⟨0x01, 0x1, 0, 2⟩
def SUPPLY.FEED_CHANGES : Fld := ⟨0x01, 0x1, 16, 16⟩
def SUPPLY.PIN_MAX : Fld := ⟨0x01, 0x2, 0, 16⟩
def SUPPLY.PEAK_CLR : Fld := ⟨0x01, 0x2, 16, 1⟩
/-! STRIPE -/
def STRIPE.RB_SHARE : Fld := ⟨0x09, 0x30, 0, 7⟩
def STRIPE.RB_SHARE2 : Fld := ⟨0x09, 0x30, 7, 7⟩
def STRIPE.RB_EN : Fld := ⟨0x09, 0x30, 14, 1⟩
def STRIPE.QUORUM_WAIT : Fld := ⟨0x09, 0x30, 15, 16⟩
def STRIPE.QUORUM_FORCE : Fld := ⟨0x09, 0x30, 31, 1⟩
def STRIPE.RB_STATE : Fld := ⟨0x09, 0x31, 0, 2⟩
def STRIPE.RB_LEFT : Fld := ⟨0x09, 0x31, 2, 40⟩
def STRIPE.FAILED : Fld := ⟨0x09, 0x32, 0, 48⟩
def STRIPE.MAPS_USED : Fld := ⟨0x09, 0x32, 48, 4⟩
def STRIPE.DOUBLE : Fld := ⟨0x09, 0x33, 0, 40⟩
def STRIPE.SPARE_FREE : Fld := ⟨0x09, 0x34, 0, 40⟩
def STRIPE.REBUILT : Fld := ⟨0x09, 0x35, 0, 32⟩
def STRIPE.SECTORS : Fld := ⟨0x09, 0x35, 32, 16⟩
def STRIPE.COLS_LOST : Fld := ⟨0x09, 0x35, 48, 16⟩
def STRIPE.LOST_INDEX : Fld := ⟨0x09, 0x40, 0, 12⟩
def STRIPE.LOST_USED : Fld := ⟨0x09, 0x41, 0, 13⟩
def STRIPE.LOST_OVF : Fld := ⟨0x09, 0x41, 13, 1⟩
def STRIPE.LOST_CLR : Fld := ⟨0x09, 0x41, 14, 1⟩
def STRIPE.LOST_LBA : Fld := ⟨0x09, 0x42, 0, 64⟩
def STRIPE.LOST_VOL : Fld := ⟨0x09, 0x43, 0, 12⟩
def STRIPE.LOST_COUNT : Fld := ⟨0x09, 0x43, 16, 32⟩
/-! DRIVE -/
def DRIVE.COPY_LEFT (i : Nat) : Fld := ⟨0x0B, 0x28 + i, 0, 40⟩
def DRIVE.FIDX (i : Nat) : Fld := ⟨0x0B, 0x28 + i, 40, 2⟩
def DRIVE.FIDX_VALID (i : Nat) : Fld := ⟨0x0B, 0x28 + i, 42, 1⟩
/-! SWITCH -/
def SWITCH.CELLS : Fld := ⟨0x04, 0x0, 0, 19⟩
def SWITCH.CELL_BYTES : Fld := ⟨0x04, 0x0, 19, 8⟩
def SWITCH.PORTS : Fld := ⟨0x04, 0x0, 27, 4⟩
def SWITCH.MODE : Fld := ⟨0x04, 0x0, 31, 1⟩
def SWITCH.FLOW_SEED : Fld := ⟨0x04, 0x1, 0, 16⟩
def SWITCH.HDRM : Fld := ⟨0x04, 0x1, 16, 9⟩
def SWITCH.PEER_PAUSE_MAX : Fld := ⟨0x04, 0x1, 25, 12⟩
def SWITCH.SWB : Fld := ⟨0x04, 0x2, 0, 1⟩
def SWITCH.SWB_PEND : Fld := ⟨0x04, 0x2, 1, 1⟩
def SWITCH.TVER : Fld := ⟨0x04, 0x2, 16, 16⟩
def SWITCH.USED : Fld := ⟨0x04, 0x3, 0, 19⟩
def SWITCH.PEAK : Fld := ⟨0x04, 0x3, 19, 19⟩
def SWITCH.PEAK_CLR : Fld := ⟨0x04, 0x3, 38, 1⟩
def SWITCH.HDRM_DROPS : Fld := ⟨0x04, 0x5, 0, 16⟩
def SWITCH.LINKDOWN_DROPS : Fld := ⟨0x04, 0x5, 16, 16⟩
def SWITCH.PEER_PAUSE_DROPS : Fld := ⟨0x04, 0x5, 32, 16⟩
def SWITCH.LOST_DEST_DROPS : Fld := ⟨0x04, 0x5, 48, 16⟩
def SWITCH.MC_DISCARDS : Fld := ⟨0x04, 0x6, 0, 16⟩
def SWITCH.CELL_RESENDS : Fld := ⟨0x04, 0x6, 16, 16⟩
def SWITCH.MIN (i : Nat) : Fld := ⟨0x04, 0x10 + i, 0, 12⟩
def SWITCH.ALPHA (i : Nat) : Fld := ⟨0x04, 0x10 + i, 12, 4⟩
def SWITCH.LIM_NET (i : Nat) : Fld := ⟨0x04, 0x20 + i, 0, 12⟩
def SWITCH.LIM_INT (i : Nat) : Fld := ⟨0x04, 0x20 + i, 12, 12⟩
def SWITCH.LIM_DRV (i : Nat) : Fld := ⟨0x04, 0x20 + i, 24, 12⟩
def SWITCH.LIM_FAB (i : Nat) : Fld := ⟨0x04, 0x20 + i, 36, 12⟩
def SWITCH.P_USED (i : Nat) : Fld := ⟨0x04, 0x30 + i, 0, 19⟩
/-! FABRIC -/
def FABRIC.LINKS : Fld := ⟨0x11, 0x0, 0, 3⟩
def FABRIC.ARR : Fld := ⟨0x11, 0x0, 3, 2⟩
def FABRIC.ROW : Fld := ⟨0x11, 0x0, 5, 1⟩
def FABRIC.COL : Fld := ⟨0x11, 0x0, 6, 2⟩
def FABRIC.UP (i : Nat) : Fld := ⟨0x11, 0x1 + i, 0, 1⟩
def FABRIC.EN (i : Nat) : Fld := ⟨0x11, 0x1 + i, 1, 1⟩
def FABRIC.NEIGH (i : Nat) : Fld := ⟨0x11, 0x1 + i, 2, 3⟩
def FABRIC.DIR (i : Nat) : Fld := ⟨0x11, 0x1 + i, 5, 2⟩
def FABRIC.WRAP (i : Nat) : Fld := ⟨0x11, 0x1 + i, 7, 1⟩
def FABRIC.RETRIES (i : Nat) : Fld := ⟨0x11, 0x1 + i, 8, 16⟩
def FABRIC.DOWNS (i : Nat) : Fld := ⟨0x11, 0x1 + i, 24, 16⟩
def FABRIC.REACH : Fld := ⟨0x11, 0x10, 0, 8⟩
/-! SCHED -/
def SCHED.WHEEL_SLOTS : Fld := ⟨0x07, 0x0, 0, 12⟩
def SCHED.SLOT_NS : Fld := ⟨0x07, 0x0, 12, 8⟩
def SCHED.GL_MAX : Fld := ⟨0x07, 0x0, 20, 7⟩
def SCHED.PRIV (i : Nat) : Fld := ⟨0x07, 0x100 + i, 0, 1⟩
def SCHED.CR_FULL (i : Nat) : Fld := ⟨0x07, 0x100 + i, 1, 1⟩
def SCHED.WEIGHT (i : Nat) : Fld := ⟨0x07, 0x100 + i, 2, 8⟩
def SCHED.IDLE_SLOPE (i : Nat) : Fld := ⟨0x07, 0x100 + i, 10, 20⟩
def SCHED.HI_CREDIT (i : Nat) : Fld := ⟨0x07, 0x100 + i, 30, 16⟩
def SCHED.CREDIT (i : Nat) : Fld := ⟨0x07, 0x180 + i, 0, 32⟩
def SCHED.Q_CELLS (i : Nat) : Fld := ⟨0x07, 0x180 + i, 32, 19⟩
def SCHED.OPEN (i : Nat) : Fld := ⟨0x07, 0x200 + i, 0, 8⟩
def SCHED.DURATION (i : Nat) : Fld := ⟨0x07, 0x200 + i, 8, 24⟩
def SCHED.GL_LEN : Fld := ⟨0x07, 0x240, 0, 7⟩
def SCHED.GL_EN : Fld := ⟨0x07, 0x240, 7, 1⟩
def SCHED.GL_INSTALL : Fld := ⟨0x07, 0x240, 8, 1⟩
def SCHED.GL_PEND : Fld := ⟨0x07, 0x240, 9, 1⟩
def SCHED.GL_ACTIVE : Fld := ⟨0x07, 0x240, 10, 1⟩
def SCHED.BASE : Fld := ⟨0x07, 0x241, 0, 64⟩
def SCHED.CYCLE : Fld := ⟨0x07, 0x242, 0, 32⟩
def SCHED.GL_START : Fld := ⟨0x07, 0x243, 0, 64⟩
def SCHED.POL_EN (i : Nat) : Fld := ⟨0x07, 0x300 + i, 0, 1⟩
def SCHED.POL_FULL (i : Nat) : Fld := ⟨0x07, 0x300 + i, 1, 1⟩
def SCHED.RATE (i : Nat) : Fld := ⟨0x07, 0x300 + i, 2, 20⟩
def SCHED.BURST (i : Nat) : Fld := ⟨0x07, 0x300 + i, 22, 16⟩
def SCHED.POL_DROPS (i : Nat) : Fld := ⟨0x07, 0x308 + i, 0, 32⟩
def SCHED.POL_PASSED (i : Nat) : Fld := ⟨0x07, 0x308 + i, 32, 32⟩
/-! RMA -/
def RMA.WINDOWS : Fld := ⟨0x08, 0x0, 0, 14⟩
def RMA.OPS_MAX : Fld := ⟨0x08, 0x0, 14, 16⟩
def RMA.ROT_SIZE : Fld := ⟨0x08, 0x0, 30, 16⟩
def RMA.COPY_MAX : Fld := ⟨0x08, 0x0, 46, 9⟩
def RMA.WIN_DEFINED : Fld := ⟨0x08, 0x1, 0, 14⟩
def RMA.OPS_USED : Fld := ⟨0x08, 0x1, 14, 16⟩
def RMA.COPIES : Fld := ⟨0x08, 0x1, 30, 9⟩
def RMA.OPS_DONE : Fld := ⟨0x08, 0x2, 0, 16⟩
def RMA.DUP_RESENT : Fld := ⟨0x08, 0x2, 16, 16⟩
def RMA.STALE : Fld := ⟨0x08, 0x2, 32, 16⟩
def RMA.BUSY_SENT : Fld := ⟨0x08, 0x2, 48, 16⟩
def RMA.W_INDEX : Fld := ⟨0x08, 0x100, 0, 13⟩
def RMA.W_OP : Fld := ⟨0x08, 0x100, 13, 2⟩
def RMA.W_BASE : Fld := ⟨0x08, 0x101, 0, 24⟩
def RMA.W_PAGES : Fld := ⟨0x08, 0x101, 24, 21⟩
def RMA.W_GEN0 : Fld := ⟨0x08, 0x101, 45, 8⟩
def RMA.W_DEF : Fld := ⟨0x08, 0x102, 0, 1⟩
def RMA.W_AVAIL : Fld := ⟨0x08, 0x102, 1, 1⟩
def RMA.W_GEN : Fld := ⟨0x08, 0x102, 2, 8⟩
def RMA.W_OPS : Fld := ⟨0x08, 0x102, 10, 16⟩
def RMA.P_BASE : Fld := ⟨0x08, 0x103, 0, 24⟩
def RMA.P_PAGES : Fld := ⟨0x08, 0x103, 24, 21⟩
/-! MEM -/
def MEM.HBM_GIB : Fld := ⟨0x0C, 0x0, 0, 8⟩
def MEM.LINE_BYTES : Fld := ⟨0x0C, 0x0, 8, 8⟩
def MEM.SC_WAYS : Fld := ⟨0x0C, 0x0, 16, 5⟩
def MEM.SC_MIB : Fld := ⟨0x0C, 0x0, 21, 11⟩
def MEM.VB_LINES : Fld := ⟨0x0C, 0x0, 32, 9⟩
def MEM.SC_EN : Fld := ⟨0x0C, 0x1, 0, 1⟩
def MEM.SC_STATE : Fld := ⟨0x0C, 0x1, 1, 2⟩
def MEM.DC_EN : Fld := ⟨0x0C, 0x1, 3, 1⟩
def MEM.IC_EN : Fld := ⟨0x0C, 0x1, 4, 1⟩
def MEM.WAY_THRESH : Fld := ⟨0x0C, 0x1, 5, 8⟩
def MEM.SCRUB_HOURS : Fld := ⟨0x0C, 0x1, 13, 8⟩
def MEM.SC_WAY_DIS : Fld := ⟨0x0C, 0x2, 0, 16⟩
def MEM.WAY_RESTORE : Fld := ⟨0x0C, 0x2, 16, 1⟩
def MEM.HBM_CORR : Fld := ⟨0x0C, 0x3, 0, 32⟩
def MEM.HBM_UNCORR : Fld := ⟨0x0C, 0x3, 32, 16⟩
def MEM.CONSUMED : Fld := ⟨0x0C, 0x3, 48, 16⟩
def MEM.DC_WAY_DIS (i : Nat) : Fld := ⟨0x0C, 0x10 + i, 0, 8⟩
def MEM.IC_WAY_DIS (i : Nat) : Fld := ⟨0x0C, 0x10 + i, 8, 4⟩
def MEM.DC_BYPASS (i : Nat) : Fld := ⟨0x0C, 0x10 + i, 12, 1⟩
def MEM.IC_BYPASS (i : Nat) : Fld := ⟨0x0C, 0x10 + i, 13, 1⟩
/-! LEASE -/
def LEASE.BAY : Fld := ⟨0x0D, 0x0, 0, 1⟩
def LEASE.ROLE : Fld := ⟨0x0D, 0x0, 1, 2⟩
def LEASE.EXCL : Fld := ⟨0x0D, 0x0, 3, 1⟩
def LEASE.PARTNER_UP : Fld := ⟨0x0D, 0x0, 4, 1⟩
def LEASE.P_ROLE : Fld := ⟨0x0D, 0x0, 5, 2⟩
def LEASE.EPOCH : Fld := ⟨0x0D, 0x1, 0, 48⟩
def LEASE.LEASE_MS : Fld := ⟨0x0D, 0x2, 0, 8⟩
def LEASE.RENEW_MS : Fld := ⟨0x0D, 0x2, 8, 8⟩
def LEASE.GUARD_MS : Fld := ⟨0x0D, 0x2, 16, 8⟩
def LEASE.POLL_MS : Fld := ⟨0x0D, 0x2, 24, 8⟩
def LEASE.W_MASK : Fld := ⟨0x0D, 0x3, 0, 48⟩
def LEASE.W_AUTO : Fld := ⟨0x0D, 0x3, 48, 1⟩
def LEASE.W_PEND : Fld := ⟨0x0D, 0x3, 49, 1⟩
def LEASE.HB_MISS : Fld := ⟨0x0D, 0x4, 0, 7⟩
def LEASE.DEG_REL : Fld := ⟨0x0D, 0x4, 7, 1⟩
def LEASE.REL_DRAIN : Fld := ⟨0x0D, 0x4, 8, 10⟩
def LEASE.RELEASE : Fld := ⟨0x0D, 0x4, 18, 1⟩
def LEASE.LAST_RENEW : Fld := ⟨0x0D, 0x5, 0, 48⟩
def LEASE.W_HELD : Fld := ⟨0x0D, 0x5, 48, 3⟩
def LEASE.RENEWALS : Fld := ⟨0x0D, 0x6, 0, 16⟩
def LEASE.ROUNDS_FAILED : Fld := ⟨0x0D, 0x6, 16, 16⟩
def LEASE.TAKEOVERS : Fld := ⟨0x0D, 0x6, 32, 8⟩
def LEASE.RELEASES : Fld := ⟨0x0D, 0x6, 40, 8⟩
def LEASE.LAPSES : Fld := ⟨0x0D, 0x6, 48, 8⟩
/-! UNIT -/
def UNIT.VAR_SLATES : Fld := ⟨0x00, 0x0, 0, 4⟩
def UNIT.STEPPING : Fld := ⟨0x00, 0x0, 16, 16⟩
def UNIT.SERVING : Fld := ⟨0x00, 0x0, 32, 4⟩
def UNIT.UA : Fld := ⟨0x00, 0x1, 0, 16⟩
def UNIT.UA_VALID : Fld := ⟨0x00, 0x1, 16, 1⟩
def UNIT.ASSIGNED : Fld := ⟨0x00, 0x1, 17, 1⟩
def UNIT.DOM_EN : Fld := ⟨0x00, 0x2, 0, 1⟩
def UNIT.DOM_PREFIX : Fld := ⟨0x00, 0x3, 0, 64⟩
def UNIT.BOOT_ID : Fld := ⟨0x00, 0x4, 0, 64⟩
/-! CHAIN -/
def CHAIN.CHAIN_NEW : Fld := ⟨0x12, 0x0, 0, 10⟩
def CHAIN.CHAIN_ASSIGN : Fld := ⟨0x12, 0x0, 10, 1⟩
def CHAIN.ENUM_NOW : Fld := ⟨0x12, 0x0, 11, 1⟩
def CHAIN.UP_PARTNER : Fld := ⟨0x12, 0x1, 0, 1⟩
def CHAIN.DN_PARTNER : Fld := ⟨0x12, 0x1, 1, 1⟩
def CHAIN.HEAD : Fld := ⟨0x12, 0x1, 2, 1⟩
def CHAIN.FOLLOWS : Fld := ⟨0x12, 0x1, 3, 1⟩
def CHAIN.ENUM : Fld := ⟨0x12, 0x1, 16, 16⟩
def CHAIN.SHELVES : Fld := ⟨0x12, 0x1, 32, 7⟩
def CHAIN.TAKEN : Fld := ⟨0x12, 0x2, 0, 64⟩
def CHAIN.FRAMES_BAD : Fld := ⟨0x12, 0x3, 0, 16⟩
def CHAIN.ENUMS : Fld := ⟨0x12, 0x3, 16, 16⟩
def CHAIN.PORT_CHANGES : Fld := ⟨0x12, 0x3, 32, 16⟩
/-! FPIN -/
def FPIN.PULSE_CLASS : Fld := ⟨0x0E, 0x0, 0, 3⟩
def FPIN.PULSE_US : Fld := ⟨0x0E, 0x0, 3, 14⟩
def FPIN.HOLD : Fld := ⟨0x0E, 0x0, 17, 1⟩
def FPIN.ASSERTED : Fld := ⟨0x0E, 0x0, 18, 1⟩
def FPIN.C4 : Fld := ⟨0x0E, 0x1, 0, 1⟩
def FPIN.C4_INJ : Fld := ⟨0x0E, 0x1, 1, 1⟩
def FPIN.C4_SLATE : Fld := ⟨0x0E, 0x1, 2, 3⟩
def FPIN.C4_EVENT : Fld := ⟨0x0E, 0x1, 5, 11⟩
def FPIN.C4_TB : Fld := ⟨0x0E, 0x1, 16, 48⟩
def FPIN.C1_COUNT : Fld := ⟨0x0E, 0x2, 0, 16⟩
def FPIN.C2_COUNT : Fld := ⟨0x0E, 0x2, 16, 16⟩
def FPIN.C3_COUNT : Fld := ⟨0x0E, 0x2, 32, 16⟩
def FPIN.PULSES : Fld := ⟨0x0E, 0x2, 48, 16⟩
def FPIN.SHADOWED : Fld := ⟨0x0E, 0x3, 0, 32⟩
def FPIN.SHADOWS : Fld := ⟨0x0E, 0x3, 32, 16⟩
def FPIN.SH_OPEN : Fld := ⟨0x0E, 0x3, 48, 1⟩
def FPIN.LOST : Fld := ⟨0x0E, 0x4, 0, 8⟩
def FPIN.SUBST : Fld := ⟨0x0E, 0x4, 8, 24⟩
/-! PERF -/
def PERF.COUNTERS : Fld := ⟨0x0F, 0x0, 0, 5⟩
def PERF.CNT_BITS : Fld := ⟨0x0F, 0x0, 5, 6⟩
def PERF.SOURCES : Fld := ⟨0x0F, 0x0, 11, 8⟩
def PERF.SRC (i : Nat) : Fld := ⟨0x0F, 0x10 + i, 0, 8⟩
def PERF.MODE (i : Nat) : Fld := ⟨0x0F, 0x10 + i, 8, 1⟩
def PERF.EN (i : Nat) : Fld := ⟨0x0F, 0x10 + i, 9, 1⟩
def PERF.OVF_CLR (i : Nat) : Fld := ⟨0x0F, 0x10 + i, 10, 1⟩
def PERF.VALUE (i : Nat) : Fld := ⟨0x0F, 0x20 + i, 0, 48⟩
def PERF.OVF (i : Nat) : Fld := ⟨0x0F, 0x20 + i, 48, 1⟩
def PERF.RBASE : Fld := ⟨0x0F, 0x30, 0, 24⟩
def PERF.RLEN_LOG2 : Fld := ⟨0x0F, 0x30, 24, 5⟩
def PERF.DUMP_US : Fld := ⟨0x0F, 0x30, 29, 20⟩
def PERF.DUMP_EN : Fld := ⟨0x0F, 0x30, 49, 1⟩
def PERF.RING_OWN : Fld := ⟨0x0F, 0x30, 50, 1⟩
def PERF.SBASE : Fld := ⟨0x0F, 0x32, 0, 24⟩
def PERF.SLEN_LOG2 : Fld := ⟨0x0F, 0x32, 24, 5⟩
def PERF.SAMP_EN : Fld := ⟨0x0F, 0x32, 29, 1⟩
def PERF.SAMP_HK : Fld := ⟨0x0F, 0x32, 30, 1⟩
def PERF.S_OWN : Fld := ⟨0x0F, 0x32, 31, 1⟩
def PERF.PERIOD : Fld := ⟨0x0F, 0x32, 32, 24⟩
def PERF.WP : Fld := ⟨0x0F, 0x31, 0, 32⟩
def PERF.SWP : Fld := ⟨0x0F, 0x33, 0, 32⟩
def PERF.RP : Fld := ⟨0x0F, 0x31, 32, 32⟩
def PERF.SRP : Fld := ⟨0x0F, 0x33, 32, 32⟩
def PERF.DUMPS_LOST : Fld := ⟨0x0F, 0x34, 0, 16⟩
def PERF.SAMPLES_LOST : Fld := ⟨0x0F, 0x34, 16, 16⟩
def PERF.SAMPLES_SKIPPED : Fld := ⟨0x0F, 0x34, 32, 16⟩
def PERF.DUMPS_SKIPPED : Fld := ⟨0x0F, 0x34, 48, 16⟩
/-! SECURE -/
def SECURE.DEVICE_ID : Fld := ⟨0x10, 0x0, 0, 64⟩
def SECURE.LC : Fld := ⟨0x10, 0x1, 0, 3⟩
def SECURE.OWNER_EPOCH : Fld := ⟨0x10, 0x1, 4, 4⟩
def SECURE.FW_MIN : Fld := ⟨0x10, 0x1, 8, 6⟩
def SECURE.FW_SEC : Fld := ⟨0x10, 0x1, 14, 6⟩
def SECURE.BANK : Fld := ⟨0x10, 0x1, 20, 1⟩
def SECURE.FALLBACK : Fld := ⟨0x10, 0x1, 21, 1⟩
def SECURE.TEST_IMG : Fld := ⟨0x10, 0x1, 22, 1⟩
def SECURE.KEYS : Fld := ⟨0x10, 0x1, 23, 4⟩
def SECURE.BOOTSTRAP : Fld := ⟨0x10, 0x1, 27, 1⟩
def SECURE.KEY_SERIAL : Fld := ⟨0x10, 0x2, 0, 32⟩
def SECURE.ROOT_DIGEST (i : Nat) : Fld := ⟨0x10, 0x3 + i, 0, 64⟩
def SECURE.SBUF_ADDR : Fld := ⟨0x10, 0x10, 0, 64⟩
def SECURE.SBUF_LEN : Fld := ⟨0x10, 0x11, 0, 24⟩
def SECURE.S_OP : Fld := ⟨0x10, 0x12, 0, 3⟩
def SECURE.S_BUSY : Fld := ⟨0x10, 0x12, 3, 1⟩
def SECURE.S_STATUS : Fld := ⟨0x10, 0x12, 16, 16⟩
def SECURE.S_LEN : Fld := ⟨0x10, 0x12, 32, 24⟩
def SECURE.MR (i : Nat) : Fld := ⟨0x10, 0x20 + i, 0, 64⟩

end F

/-! ### Field maps -/

/-- The fields of an entry of the ENGINE space, but for the fault quad. -/
def fieldsEngine (_n _sl e : Nat) : List FieldDef :=
  if e = 0x0 then
     [⟨F.ENGINE.ENGINES, .r, 48⟩,
      ⟨F.ENGINE.THREADS, .r, 4⟩,
      ⟨F.ENGINE.HK_THREADS, .r, 8⟩,
      ⟨F.ENGINE.STORE_KIB, .r, 4096⟩,
      ⟨F.ENGINE.SLOTS, .r, 1024⟩]
  else if e = 0x1 then
     [⟨F.ENGINE.DEF_BUDGET, .rw, 32768⟩]
  else if e = 0x2 then
     [⟨F.ENGINE.HEAP_BASE, .rw, 16384⟩,
      ⟨F.ENGINE.HEAP_LIMIT, .rw, 23552⟩]
  else if 0x10 ≤ e ∧ e < 0x18 then
     [⟨F.ENGINE.HK_SLOT (e - 0x10), .rw, 0xF8 + (e - 0x10)⟩,
      ⟨F.ENGINE.HK_EN (e - 0x10), .rw, 1⟩,
      ⟨F.ENGINE.HK_RESTART (e - 0x10), .wo, 0⟩,
      ⟨F.ENGINE.HK_STATE (e - 0x10), .r, 0⟩,
      ⟨F.ENGINE.HK_TRAPS (e - 0x10), .rs, 0⟩]
  else if e = 0x20 then
     [⟨F.ENGINE.THREADS_BUSY, .r, 0⟩,
      ⟨F.ENGINE.JOBS_SUSP, .r, 0⟩,
      ⟨F.ENGINE.RESUME_Q, .r, 0⟩,
      ⟨F.ENGINE.DISPATCH_Q, .r, 0⟩]
  else if e = 0x21 then
     [⟨F.ENGINE.EV_MERGED, .r, 0⟩,
      ⟨F.ENGINE.LAUNCH_BUSY, .r, 0⟩]
  else if 0x30 ≤ e ∧ e < 0x40 then
     [⟨F.ENGINE.L_SLOT (e - 0x30), .rw, 0⟩,
      ⟨F.ENGINE.L_EN (e - 0x30), .rw, 0⟩]
  else if 0x400 ≤ e ∧ e < 0x800 then
     [⟨F.ENGINE.INSTALLED (e - 0x400), .r, 0⟩,
      ⟨F.ENGINE.PRIV (e - 0x400), .r, 0⟩,
      ⟨F.ENGINE.OLD_LIVE (e - 0x400), .r, 0⟩,
      ⟨F.ENGINE.BUDGET (e - 0x400), .r, 0⟩,
      ⟨F.ENGINE.LENGTH (e - 0x400), .r, 0⟩,
      ⟨F.ENGINE.VERSION (e - 0x400), .r, 0⟩]
  else if 0x800 ≤ e ∧ e < 0xA00 then
     ((List.range 4).map fun j => ⟨F.ENGINE.TARGET (e - 0x800) j, .rw, 0⟩) ++ ((List.range 4).map fun j => ⟨F.ENGINE.MODE (e - 0x800) j, .rw, 0⟩) ++ ((List.range 4).map fun j => ⟨F.ENGINE.FWD (e - 0x800) j, .rw, 0⟩) ++ ((List.range 4).map fun j => ⟨F.ENGINE.PEND (e - 0x800) j, .w1c, 0⟩)
  else []

/-- The fields of an entry of the PORT space, but for the fault quad. -/
def fieldsPort (_n sl e : Nat) : List FieldDef :=
  if e = 0x0 then
     [⟨F.PORT.BREAKOUT, .rw, 0⟩,
      ⟨F.PORT.MTU, .rw, 9216⟩,
      ⟨F.PORT.IPV4_EN, .rw, 0⟩,
      ⟨F.PORT.ADMIN_UP, .rw, 1⟩]
  else if e = 0x1 then
     [⟨F.PORT.LINK_UP, .r, 0⟩,
      ⟨F.PORT.PAUSED_BY_PEER, .r, 0⟩,
      ⟨F.PORT.PAUSING, .r, 0⟩]
  else if e = 0x2 then
     [⟨F.PORT.MAC_BASE, .r, (Config.macBase sl).toNat⟩]
  else if e = 0x10 then
     [⟨F.PORT.IP6_HI, .rw, 0⟩]
  else if e = 0x11 then
     [⟨F.PORT.IP6_LO, .rw, 0⟩]
  else if e = 0x12 then
     [⟨F.PORT.IP4, .rw, 0⟩,
      ⟨F.PORT.PREFIX4, .rw, 0⟩,
      ⟨F.PORT.PREFIX6, .rw, 64⟩]
  else if e = 0x13 then
     [⟨F.PORT.GW6_HI, .rw, 0⟩]
  else if e = 0x14 then
     [⟨F.PORT.GW6_LO, .rw, 0⟩]
  else if e = 0x15 then
     [⟨F.PORT.GW4, .rw, 0⟩]
  else if e = 0x20 then
     [⟨F.PORT.PFC_EN, .rw, 142⟩,
      ⟨F.PORT.PRIO_SRC, .rw, 0⟩,
      ⟨F.PORT.PAUSE_QUANTA, .rw, 65535⟩]
  else if 0x30 ≤ e ∧ e < 0x34 then
     ((List.range 16).map fun j => ⟨F.PORT.CLASS (e - 0x30) j, .rw, (16 * (e - 0x30) + j) / 8⟩)
  else if e = 0x34 then
     ((List.range 8).map fun j => ⟨F.PORT.DSCP j, .rw, 8 * j⟩)
  else if e = 0x40 then
     [⟨F.PORT.PTP_RX, .rw, (if sl = 0 then 1 else 0)⟩,
      ⟨F.PORT.PTP_DOMAIN, .rw, 0⟩,
      ⟨F.PORT.PTP_TRANSPORT, .rw, 0⟩,
      ⟨F.PORT.DELAY_MECH, .rw, 0⟩,
      ⟨F.PORT.OFFSET_LIMIT, .rw, 1000⟩]
  else if e = 0x41 then
     [⟨F.PORT.LOCKED, .r, 0⟩,
      ⟨F.PORT.STEPPED, .r, 0⟩,
      ⟨F.PORT.OFFSET, .r, 0⟩]
  else []

/-- The fields of an entry of the XPORT space, but for the fault quad. -/
def fieldsXport (_n _sl e : Nat) : List FieldDef :=
  if e = 0x0 then
     [⟨F.XPORT.UDP_PORT, .rw, 6910⟩,
      ⟨F.XPORT.READY_MC, .rw, 1⟩,
      ⟨F.XPORT.PAUSE_MAX, .rw, 20⟩,
      ⟨F.XPORT.READY_REPEAT, .rw, 3⟩]
  else if e = 0x10 then
     [⟨F.XPORT.DUP_HORIZON, .rw, 500⟩,
      ⟨F.XPORT.ROT_USED, .r, 0⟩]
  else if e = 0x20 then
     [⟨F.XPORT.MALFORMED, .r, 0⟩,
      ⟨F.XPORT.CHECK_FAIL, .r, 0⟩,
      ⟨F.XPORT.SEAL_FAIL, .r, 0⟩,
      ⟨F.XPORT.MODE_FAIL, .r, 0⟩]
  else if e = 0x21 then
     [⟨F.XPORT.DUP_SERVED, .r, 0⟩,
      ⟨F.XPORT.DUP_DISCARD, .r, 0⟩,
      ⟨F.XPORT.CLASS_DROP, .r, 0⟩,
      ⟨F.XPORT.EV_DROPPED, .r, 0⟩]
  else if e = 0x30 then
     [⟨F.XPORT.GRP6_HI, .rw, 18376093854555176960⟩]
  else if e = 0x31 then
     [⟨F.XPORT.GRP6_LO, .rw, 6910⟩]
  else if e = 0x32 then
     [⟨F.XPORT.GRP4, .rw, 4026473214⟩]
  else if e = 0x100 then
     [⟨F.XPORT.K_INDEX, .rw, 0⟩,
      ⟨F.XPORT.K_OP, .wo, 0⟩]
  else if e = 0x101 then
     [⟨F.XPORT.VALID, .rw, 0⟩,
      ⟨F.XPORT.MODE, .rw, 0⟩,
      ⟨F.XPORT.KIND, .rw, 0⟩,
      ⟨F.XPORT.PERSIST, .rw, 0⟩,
      ⟨F.XPORT.GEN, .rw, 0⟩,
      ⟨F.XPORT.BIND, .rw, 0⟩]
  else if e = 0x102 then
     [⟨F.XPORT.RIGHTS, .rw, 0⟩]
  else if e = 0x103 then
     [⟨F.XPORT.LO, .rw, 0⟩]
  else if e = 0x104 then
     [⟨F.XPORT.HI, .rw, 0⟩]
  else if e = 0x105 then
     [⟨F.XPORT.KCHECK, .wo, 0⟩]
  else if 0x106 ≤ e ∧ e < 0x10A then
     [⟨F.XPORT.KAES (e - 0x106), .wo, 0⟩]
  else if e = 0x10A then
     [⟨F.XPORT.SALT, .rw, 0⟩]
  else if 0x200 ≤ e ∧ e < 0x210 then
     [⟨F.XPORT.EV_HQ (e - 0x200), .rw, 0⟩,
      ⟨F.XPORT.EV_EN (e - 0x200), .rw, 0⟩,
      ⟨F.XPORT.EV_GAP (e - 0x200), .rw, 10⟩]
  else []

/-- The fields of an entry of the HQ space, but for the fault quad. -/
def fieldsHq (_n _sl e : Nat) : List FieldDef :=
  if e = 0x0 then
     [⟨F.HQ.INDEXES, .r, 131072⟩,
      ⟨F.HQ.RESIDENT_MAX, .r, 24576⟩,
      ⟨F.HQ.PARK_SIZE, .r, 4096⟩]
  else if e = 0x1 then
     [⟨F.HQ.REGISTERED, .r, 0⟩,
      ⟨F.HQ.RESIDENT, .r, 0⟩,
      ⟨F.HQ.IN_FLIGHT, .r, 0⟩,
      ⟨F.HQ.PARK_USED, .r, 0⟩]
  else if e = 0x2 then
     [⟨F.HQ.PINNED, .r, 0⟩,
      ⟨F.HQ.PARK_LOW, .rw, 3840⟩]
  else if e = 0x3 then
     [⟨F.HQ.TAG_BUSY, .r, 0⟩,
      ⟨F.HQ.HAZ_LATE, .r, 0⟩,
      ⟨F.HQ.CAPSULE_BAD, .r, 0⟩,
      ⟨F.HQ.PARK_FULLS, .r, 0⟩]
  else if e = 0x4 then
     [⟨F.HQ.FETCHES, .r, 0⟩,
      ⟨F.HQ.SPILLS, .r, 0⟩]
  else if e = 0x5 then
     [⟨F.HQ.N_ABORTED, .r, 0⟩,
      ⟨F.HQ.N_COMMITTED, .r, 0⟩,
      ⟨F.HQ.N_FOUND, .r, 0⟩,
      ⟨F.HQ.N_RESETS, .r, 0⟩]
  else if e = 0x100 then
     [⟨F.HQ.Q_INDEX, .rw, 0⟩,
      ⟨F.HQ.Q_OP, .wo, 0⟩]
  else if e = 0x101 then
     [⟨F.HQ.Q_HOST, .rw, 0⟩,
      ⟨F.HQ.Q_KEY, .rw, 0⟩,
      ⟨F.HQ.Q_PIN, .rw, 0⟩,
      ⟨F.HQ.Q_PERSIST, .rw, 0⟩]
  else if e = 0x102 then
     [⟨F.HQ.V_REG, .r, 0⟩,
      ⟨F.HQ.V_RESIDENT, .r, 0⟩,
      ⟨F.HQ.V_PIN, .r, 0⟩,
      ⟨F.HQ.V_PERSIST, .r, 0⟩,
      ⟨F.HQ.V_ARMED, .r, 0⟩,
      ⟨F.HQ.V_HOST, .r, 0⟩,
      ⟨F.HQ.V_KEY, .r, 0⟩]
  else if e = 0x103 then
     [⟨F.HQ.BUSY_MASK, .r, 0⟩,
      ⟨F.HQ.EMPTY_MASK, .r, 0⟩]
  else if e = 0x104 then
     [⟨F.HQ.RESET_NONCE, .r, 0⟩]
  else []

/-- The fields of an entry of the STRIPE space, but for the fault quad. -/
def fieldsStripe (_n _sl e : Nat) : List FieldDef :=
  if e = 0x0 then
     [⟨F.STRIPE.D, .r, 0⟩,
      ⟨F.STRIPE.S, .r, 0⟩,
      ⟨F.STRIPE.N, .r, 0⟩,
      ⟨F.STRIPE.ZONED, .r, 0⟩,
      ⟨F.STRIPE.A_MAX, .r, 0⟩,
      ⟨F.STRIPE.ZS, .r, 0⟩]
  else if e = 0x1 then
     [⟨F.STRIPE.BANDS, .r, 0⟩,
      ⟨F.STRIPE.RUN_BANDS, .r, 0⟩]
  else if e = 0x2 then
     [⟨F.STRIPE.FREE, .r, 0⟩]
  else if e = 0x3 then
     [⟨F.STRIPE.FILL_WINDOW, .rw, 8⟩]
  else if e = 0x4 then
     [⟨F.STRIPE.WRITE_RESERVE, .rw, 20⟩,
      ⟨F.STRIPE.RECL_START, .rw, 60⟩,
      ⟨F.STRIPE.RECL_STOP, .rw, 100⟩,
      ⟨F.STRIPE.RECL_LIVE_MAX, .rw, 75⟩,
      ⟨F.STRIPE.RECL_SHARE, .rw, 20⟩,
      ⟨F.STRIPE.RECL_EN, .rw, 1⟩]
  else if e = 0x5 then
     [⟨F.STRIPE.MAPC_GIB, .rw, 16⟩]
  else if e = 0x6 then
     [⟨F.STRIPE.DESC_USED, .r, 0⟩,
      ⟨F.STRIPE.STRIPS_USED, .r, 0⟩,
      ⟨F.STRIPE.LEAD_DATA, .r, 0⟩,
      ⟨F.STRIPE.LEAD_RECL, .r, 0⟩,
      ⟨F.STRIPE.LEAD_MAP, .r, 0⟩]
  else if e = 0x7 then
     [⟨F.STRIPE.GRAINS_IN, .r, 0⟩,
      ⟨F.STRIPE.GRAINS_PAD, .r, 0⟩]
  else if e = 0x8 then
     [⟨F.STRIPE.POURED, .r, 0⟩,
      ⟨F.STRIPE.REPOURS, .r, 0⟩]
  else if e = 0x9 then
     [⟨F.STRIPE.RELOCATED, .r, 0⟩]
  else if e = 0x20 then
     [⟨F.STRIPE.ROW, .rw, 0⟩]
  else if 0x21 ≤ e ∧ e < 0x24 then
     ((List.range 8).map fun j => ⟨F.STRIPE.POS (e - 0x21) j, .r, 0⟩)
  else if e = 0x30 then
     [⟨F.STRIPE.RB_SHARE, .rw, 25⟩,
      ⟨F.STRIPE.RB_SHARE2, .rw, 50⟩,
      ⟨F.STRIPE.RB_EN, .rw, 1⟩,
      ⟨F.STRIPE.QUORUM_WAIT, .rw, 5000⟩,
      ⟨F.STRIPE.QUORUM_FORCE, .wo, 0⟩]
  else if e = 0x31 then
     [⟨F.STRIPE.RB_STATE, .r, 0⟩,
      ⟨F.STRIPE.RB_LEFT, .r, 0⟩]
  else if e = 0x32 then
     [⟨F.STRIPE.FAILED, .r, 0⟩,
      ⟨F.STRIPE.MAPS_USED, .r, 0⟩]
  else if e = 0x33 then
     [⟨F.STRIPE.DOUBLE, .r, 0⟩]
  else if e = 0x34 then
     [⟨F.STRIPE.SPARE_FREE, .r, 0⟩]
  else if e = 0x35 then
     [⟨F.STRIPE.REBUILT, .r, 0⟩,
      ⟨F.STRIPE.SECTORS, .r, 0⟩,
      ⟨F.STRIPE.COLS_LOST, .r, 0⟩]
  else if e = 0x40 then
     [⟨F.STRIPE.LOST_INDEX, .rw, 0⟩]
  else if e = 0x41 then
     [⟨F.STRIPE.LOST_USED, .r, 0⟩,
      ⟨F.STRIPE.LOST_OVF, .rs, 0⟩,
      ⟨F.STRIPE.LOST_CLR, .wo, 0⟩]
  else if e = 0x42 then
     [⟨F.STRIPE.LOST_LBA, .r, 0⟩]
  else if e = 0x43 then
     [⟨F.STRIPE.LOST_VOL, .r, 0⟩,
      ⟨F.STRIPE.LOST_COUNT, .r, 0⟩]
  else []

/-- The fields of an entry of the DRIVE space, but for the fault quad. -/
def fieldsDrive (_n sl e : Nat) : List FieldDef :=
  if e < 0x6 then
     [⟨F.DRIVE.PRESENT e, .r, 0⟩,
      ⟨F.DRIVE.LINK e, .r, 0⟩,
      ⟨F.DRIVE.SPEED e, .r, 0⟩,
      ⟨F.DRIVE.WIDTH e, .r, 0⟩,
      ⟨F.DRIVE.MSTATE e, .r, 0⟩,
      ⟨F.DRIVE.ZONED e, .r, 0⟩,
      ⟨F.DRIVE.PROXIED e, .r, 0⟩,
      ⟨F.DRIVE.MEMBER e, .r, 6 * sl + e⟩]
  else if 0x8 ≤ e ∧ e < 0xE then
     [⟨F.DRIVE.CAP_STRIPS (e - 0x8), .r, 0⟩]
  else if 0x10 ≤ e ∧ e < 0x16 then
     [⟨F.DRIVE.HOLD_OUT (e - 0x10), .rw, 0⟩]
  else if e = 0x18 then
     [⟨F.DRIVE.CMD_TIMEOUT, .rw, 500⟩,
      ⟨F.DRIVE.ABORT_GRACE, .rw, 100⟩,
      ⟨F.DRIVE.READY_MAX, .rw, 10000⟩]
  else if 0x20 ≤ e ∧ e < 0x26 then
     [⟨F.DRIVE.MEDIA_ERRS (e - 0x20), .r, 0⟩,
      ⟨F.DRIVE.TIMEOUTS (e - 0x20), .r, 0⟩,
      ⟨F.DRIVE.RESETS (e - 0x20), .r, 0⟩,
      ⟨F.DRIVE.WRITE_ERRS (e - 0x20), .r, 0⟩]
  else if 0x28 ≤ e ∧ e < 0x2E then
     [⟨F.DRIVE.COPY_LEFT (e - 0x28), .r, 0⟩,
      ⟨F.DRIVE.FIDX (e - 0x28), .r, 0⟩,
      ⟨F.DRIVE.FIDX_VALID (e - 0x28), .r, 0⟩]
  else []

/-- The fields of an entry of the JOURNAL space, but for the fault quad. -/
def fieldsJournal (_n _sl e : Nat) : List FieldDef :=
  if e = 0x0 then
     [⟨F.JOURNAL.MRAM_KIB, .r, 16384⟩,
      ⟨F.JOURNAL.LOG_LINES, .r, 32768⟩]
  else if e = 0x1 then
     [⟨F.JOURNAL.TWIN_OK, .r, 0⟩,
      ⟨F.JOURNAL.PARTNER_OK, .r, 0⟩,
      ⟨F.JOURNAL.SI1, .r, 0⟩,
      ⟨F.JOURNAL.SI2, .r, 0⟩,
      ⟨F.JOURNAL.SHORT, .r, 0⟩,
      ⟨F.JOURNAL.SI_FOR, .r, 0⟩,
      ⟨F.JOURNAL.SI_VALID, .r, 0⟩,
      ⟨F.JOURNAL.SI2_FOR, .r, 0⟩,
      ⟨F.JOURNAL.SI2_VALID, .r, 0⟩]
  else if e = 0x2 then
     [⟨F.JOURNAL.SEQ, .r, 0⟩]
  else if e = 0x3 then
     [⟨F.JOURNAL.LOG_USED, .r, 0⟩]
  else if e = 0x4 then
     [⟨F.JOURNAL.UCN, .r, 0⟩]
  else if e = 0x5 then
     [⟨F.JOURNAL.FLOG_COURSES, .r, 0⟩,
      ⟨F.JOURNAL.LEAVES_PENDING, .r, 0⟩]
  else if e = 0x6 then
     [⟨F.JOURNAL.LEAF_BATCH, .rw, 24⟩,
      ⟨F.JOURNAL.LEAF_AGE, .rw, 2000⟩,
      ⟨F.JOURNAL.FLOG_GIB, .rw, 16⟩,
      ⟨F.JOURNAL.HOLDER_TIMEOUT, .rw, 20⟩]
  else if e = 0x7 then
     [⟨F.JOURNAL.RECORDS, .r, 0⟩,
      ⟨F.JOURNAL.HOLDER_SWITCHES, .r, 0⟩,
      ⟨F.JOURNAL.LOG_STALLS, .r, 0⟩]
  else if e = 0x8 then
     [⟨F.JOURNAL.REPLAY_MS, .r, 0⟩,
      ⟨F.JOURNAL.DISCARDED, .r, 0⟩,
      ⟨F.JOURNAL.USED_TWIN, .r, 0⟩,
      ⟨F.JOURNAL.USED_PARTNER, .r, 0⟩]
  else []

/-- The fields of an entry of the SUPPLY space, but for the fault quad. -/
def fieldsSupply (_n _sl e : Nat) : List FieldDef :=
  if e = 0x0 then
     [⟨F.SUPPLY.VIN_A, .r, 0⟩,
      ⟨F.SUPPLY.VIN_B, .r, 0⟩,
      ⟨F.SUPPLY.IIN, .r, 0⟩,
      ⟨F.SUPPLY.PIN, .r, 0⟩]
  else if e = 0x1 then
     [⟨F.SUPPLY.FEED, .r, 0⟩,
      ⟨F.SUPPLY.FEED_CHANGES, .r, 0⟩]
  else if e = 0x2 then
     [⟨F.SUPPLY.PIN_MAX, .r, 0⟩,
      ⟨F.SUPPLY.PEAK_CLR, .wo, 0⟩]
  else []

/-- The fields of an entry of the SWITCH space, but for the fault quad. -/
def fieldsSwitch (n sl e : Nat) : List FieldDef :=
  if e = 0x0 then
     [⟨F.SWITCH.CELLS, .r, 262144⟩,
      ⟨F.SWITCH.CELL_BYTES, .r, 128⟩,
      ⟨F.SWITCH.PORTS, .r, (if sl < 2 then 15 else 14)⟩,
      ⟨F.SWITCH.MODE, .r, (swMode n).toNat⟩]
  else if e = 0x1 then
     [⟨F.SWITCH.FLOW_SEED, .rw, 0⟩,
      ⟨F.SWITCH.HDRM, .rw, 192⟩,
      ⟨F.SWITCH.PEER_PAUSE_MAX, .rw, 200⟩]
  else if e = 0x2 then
     [⟨F.SWITCH.SWB, .wo, 0⟩,
      ⟨F.SWITCH.SWB_PEND, .r, 0⟩,
      ⟨F.SWITCH.TVER, .r, 0⟩]
  else if e = 0x3 then
     [⟨F.SWITCH.USED, .r, 0⟩,
      ⟨F.SWITCH.PEAK, .r, 0⟩,
      ⟨F.SWITCH.PEAK_CLR, .wo, 0⟩]
  else if e = 0x5 then
     [⟨F.SWITCH.HDRM_DROPS, .r, 0⟩,
      ⟨F.SWITCH.LINKDOWN_DROPS, .r, 0⟩,
      ⟨F.SWITCH.PEER_PAUSE_DROPS, .r, 0⟩,
      ⟨F.SWITCH.LOST_DEST_DROPS, .r, 0⟩]
  else if e = 0x6 then
     [⟨F.SWITCH.MC_DISCARDS, .r, 0⟩,
      ⟨F.SWITCH.CELL_RESENDS, .r, 0⟩]
  else if 0x10 ≤ e ∧ e < 0x18 ∧ (1 ≤ (e - 0x10) && !(swMode n)) then
     [⟨F.SWITCH.MIN (e - 0x10), .rw, 32⟩,
      ⟨F.SWITCH.ALPHA (e - 0x10), .rw, 8⟩]
  else if 0x20 ≤ e ∧ e < 0x28 ∧ (1 ≤ (e - 0x20) && swMode n) then
     [⟨F.SWITCH.LIM_NET (e - 0x20), .rw, stLimNet (e - 0x20) / 16⟩,
      ⟨F.SWITCH.LIM_INT (e - 0x20), .rw, stLimInt (e - 0x20) / 16⟩,
      ⟨F.SWITCH.LIM_DRV (e - 0x20), .rw, stLimDrv (e - 0x20) / 16⟩,
      ⟨F.SWITCH.LIM_FAB (e - 0x20), .rw, stLimFab (e - 0x20) / 16⟩]
  else if 0x30 ≤ e ∧ e < 0x3F then
     [⟨F.SWITCH.P_USED (e - 0x30), .r, 0⟩]
  else []

/-- The fields of an entry of the FABRIC space, but for the fault quad. -/
def fieldsFabric (n sl e : Nat) : List FieldDef :=
  if e = 0x0 then
     [⟨F.FABRIC.LINKS, .r, 4⟩,
      ⟨F.FABRIC.ARR, .r, fabArr n⟩,
      ⟨F.FABRIC.ROW, .r, fabRow n sl⟩,
      ⟨F.FABRIC.COL, .r, fabCol n sl⟩]
  else if 0x1 ≤ e ∧ e < 0x5 then
     [⟨F.FABRIC.UP (e - 0x1), .r, 0⟩,
      ⟨F.FABRIC.EN (e - 0x1), .rw, 1⟩,
      ⟨F.FABRIC.NEIGH (e - 0x1), .r, linkNeigh n sl (e - 0x1)⟩,
      ⟨F.FABRIC.DIR (e - 0x1), .r, linkDir n (e - 0x1)⟩,
      ⟨F.FABRIC.WRAP (e - 0x1), .r, (linkWrap n sl (e - 0x1)).toNat⟩,
      ⟨F.FABRIC.RETRIES (e - 0x1), .r, 0⟩,
      ⟨F.FABRIC.DOWNS (e - 0x1), .r, 0⟩]
  else if e = 0x10 then
     [⟨F.FABRIC.REACH, .r, 0⟩]
  else []

/-- The fields of an entry of the SCHED space, but for the fault quad. -/
def fieldsSched (_n _sl e : Nat) : List FieldDef :=
  if e = 0x0 then
     [⟨F.SCHED.WHEEL_SLOTS, .r, 2048⟩,
      ⟨F.SCHED.SLOT_NS, .r, 8⟩,
      ⟨F.SCHED.GL_MAX, .r, 64⟩]
  else if 0x100 ≤ e ∧ e < 0x178 ∧ (1 ≤ (e - 0x100) % 8) then
     [⟨F.SCHED.PRIV (e - 0x100), .rw, (qPriv (e - 0x100)).toNat⟩,
      ⟨F.SCHED.CR_FULL (e - 0x100), .rw, 0⟩,
      ⟨F.SCHED.WEIGHT (e - 0x100), .rw, qWeight (e - 0x100)⟩,
      ⟨F.SCHED.IDLE_SLOPE (e - 0x100), .rw, qSlope (e - 0x100)⟩,
      ⟨F.SCHED.HI_CREDIT (e - 0x100), .rw, qHi (e - 0x100)⟩]
  else if 0x180 ≤ e ∧ e < 0x1F8 ∧ (1 ≤ (e - 0x180) % 8) then
     [⟨F.SCHED.CREDIT (e - 0x180), .r, 0⟩,
      ⟨F.SCHED.Q_CELLS (e - 0x180), .r, 0⟩]
  else if 0x200 ≤ e ∧ e < 0x240 then
     [⟨F.SCHED.OPEN (e - 0x200), .rw, 255⟩,
      ⟨F.SCHED.DURATION (e - 0x200), .rw, 0⟩]
  else if e = 0x240 then
     [⟨F.SCHED.GL_LEN, .rw, 1⟩,
      ⟨F.SCHED.GL_EN, .rw, 0⟩,
      ⟨F.SCHED.GL_INSTALL, .wo, 0⟩,
      ⟨F.SCHED.GL_PEND, .r, 0⟩,
      ⟨F.SCHED.GL_ACTIVE, .r, 0⟩]
  else if e = 0x241 then
     [⟨F.SCHED.BASE, .rw, 0⟩]
  else if e = 0x242 then
     [⟨F.SCHED.CYCLE, .rw, 1000000⟩]
  else if e = 0x243 then
     [⟨F.SCHED.GL_START, .r, 0⟩]
  else if 0x300 ≤ e ∧ e < 0x308 ∧ (polClass (e - 0x300)) then
     [⟨F.SCHED.POL_EN (e - 0x300), .rw, 0⟩,
      ⟨F.SCHED.POL_FULL (e - 0x300), .rw, 0⟩,
      ⟨F.SCHED.RATE (e - 0x300), .rw, 80000⟩,
      ⟨F.SCHED.BURST (e - 0x300), .rw, 2048⟩]
  else if 0x308 ≤ e ∧ e < 0x310 ∧ (polClass (e - 0x308)) then
     [⟨F.SCHED.POL_DROPS (e - 0x308), .r, 0⟩,
      ⟨F.SCHED.POL_PASSED (e - 0x308), .r, 0⟩]
  else []

/-- The fields of an entry of the RMA space, but for the fault quad. -/
def fieldsRma (_n _sl e : Nat) : List FieldDef :=
  if e = 0x0 then
     [⟨F.RMA.WINDOWS, .r, 8192⟩,
      ⟨F.RMA.OPS_MAX, .r, 32768⟩,
      ⟨F.RMA.ROT_SIZE, .r, 32768⟩,
      ⟨F.RMA.COPY_MAX, .r, 256⟩]
  else if e = 0x1 then
     [⟨F.RMA.WIN_DEFINED, .r, 0⟩,
      ⟨F.RMA.OPS_USED, .r, 0⟩,
      ⟨F.RMA.COPIES, .r, 0⟩]
  else if e = 0x2 then
     [⟨F.RMA.OPS_DONE, .r, 0⟩,
      ⟨F.RMA.DUP_RESENT, .r, 0⟩,
      ⟨F.RMA.STALE, .r, 0⟩,
      ⟨F.RMA.BUSY_SENT, .r, 0⟩]
  else if e = 0x100 then
     [⟨F.RMA.W_INDEX, .rw, 0⟩,
      ⟨F.RMA.W_OP, .wo, 0⟩]
  else if e = 0x101 then
     [⟨F.RMA.W_BASE, .rw, 0⟩,
      ⟨F.RMA.W_PAGES, .rw, 0⟩,
      ⟨F.RMA.W_GEN0, .rw, 0⟩]
  else if e = 0x102 then
     [⟨F.RMA.W_DEF, .r, 0⟩,
      ⟨F.RMA.W_AVAIL, .r, 1⟩,
      ⟨F.RMA.W_GEN, .r, 0⟩,
      ⟨F.RMA.W_OPS, .r, 0⟩]
  else if e = 0x103 then
     [⟨F.RMA.P_BASE, .r, 0⟩,
      ⟨F.RMA.P_PAGES, .r, 0⟩]
  else []

/-- The fields of an entry of the MEM space, but for the fault quad. -/
def fieldsMem (_n _sl e : Nat) : List FieldDef :=
  if e = 0x0 then
     [⟨F.MEM.HBM_GIB, .r, 24⟩,
      ⟨F.MEM.LINE_BYTES, .r, 64⟩,
      ⟨F.MEM.SC_WAYS, .r, 16⟩,
      ⟨F.MEM.SC_MIB, .r, 32⟩,
      ⟨F.MEM.VB_LINES, .r, 256⟩]
  else if e = 0x1 then
     [⟨F.MEM.SC_EN, .rw, 1⟩,
      ⟨F.MEM.SC_STATE, .r, 1⟩,
      ⟨F.MEM.DC_EN, .rw, 1⟩,
      ⟨F.MEM.IC_EN, .rw, 1⟩,
      ⟨F.MEM.WAY_THRESH, .rw, 16⟩,
      ⟨F.MEM.SCRUB_HOURS, .rw, 24⟩]
  else if e = 0x2 then
     [⟨F.MEM.SC_WAY_DIS, .r, 0⟩,
      ⟨F.MEM.WAY_RESTORE, .wo, 0⟩]
  else if e = 0x3 then
     [⟨F.MEM.HBM_CORR, .r, 0⟩,
      ⟨F.MEM.HBM_UNCORR, .r, 0⟩,
      ⟨F.MEM.CONSUMED, .r, 0⟩]
  else if 0x10 ≤ e ∧ e < 0x40 then
     [⟨F.MEM.DC_WAY_DIS (e - 0x10), .r, 0⟩,
      ⟨F.MEM.IC_WAY_DIS (e - 0x10), .r, 0⟩,
      ⟨F.MEM.DC_BYPASS (e - 0x10), .r, 0⟩,
      ⟨F.MEM.IC_BYPASS (e - 0x10), .r, 0⟩]
  else []

/-- The fields of an entry of the LEASE space, but for the fault quad. -/
def fieldsLease (_n _sl e : Nat) : List FieldDef :=
  if e = 0x0 then
     [⟨F.LEASE.BAY, .r, 0⟩,
      ⟨F.LEASE.ROLE, .r, 0⟩,
      ⟨F.LEASE.EXCL, .r, 0⟩,
      ⟨F.LEASE.PARTNER_UP, .r, 0⟩,
      ⟨F.LEASE.P_ROLE, .r, 0⟩]
  else if e = 0x1 then
     [⟨F.LEASE.EPOCH, .r, 0⟩]
  else if e = 0x2 then
     [⟨F.LEASE.LEASE_MS, .r, 200⟩,
      ⟨F.LEASE.RENEW_MS, .r, 50⟩,
      ⟨F.LEASE.GUARD_MS, .r, 50⟩,
      ⟨F.LEASE.POLL_MS, .r, 10⟩]
  else if e = 0x3 then
     [⟨F.LEASE.W_MASK, .rw, 0⟩,
      ⟨F.LEASE.W_AUTO, .rw, 1⟩,
      ⟨F.LEASE.W_PEND, .r, 0⟩]
  else if e = 0x4 then
     [⟨F.LEASE.HB_MISS, .rw, 5⟩,
      ⟨F.LEASE.DEG_REL, .rw, 0⟩,
      ⟨F.LEASE.REL_DRAIN, .rw, 100⟩,
      ⟨F.LEASE.RELEASE, .wo, 0⟩]
  else if e = 0x5 then
     [⟨F.LEASE.LAST_RENEW, .r, 0⟩,
      ⟨F.LEASE.W_HELD, .r, 0⟩]
  else if e = 0x6 then
     [⟨F.LEASE.RENEWALS, .r, 0⟩,
      ⟨F.LEASE.ROUNDS_FAILED, .r, 0⟩,
      ⟨F.LEASE.TAKEOVERS, .r, 0⟩,
      ⟨F.LEASE.RELEASES, .r, 0⟩,
      ⟨F.LEASE.LAPSES, .r, 0⟩]
  else []

/-- The fields of an entry of the UNIT space, but for the fault quad. -/
def fieldsUnit (n _sl e : Nat) : List FieldDef :=
  if e = 0x0 then
     [⟨F.UNIT.VAR_SLATES, .r, n⟩,
      ⟨F.UNIT.STEPPING, .r, 0xB0⟩,
      ⟨F.UNIT.SERVING, .r, 0⟩]
  else if e = 0x1 then
     [⟨F.UNIT.UA, .r, 0⟩,
      ⟨F.UNIT.UA_VALID, .r, 0⟩,
      ⟨F.UNIT.ASSIGNED, .r, 0⟩]
  else if e = 0x2 then
     [⟨F.UNIT.DOM_EN, .rw, 0⟩]
  else if e = 0x3 then
     [⟨F.UNIT.DOM_PREFIX, .rw, 0⟩]
  else if e = 0x4 then
     [⟨F.UNIT.BOOT_ID, .r, 0⟩]
  else []

/-- The fields of an entry of the CHAIN space, but for the fault quad. -/
def fieldsChain (_n _sl e : Nat) : List FieldDef :=
  if e = 0x0 then
     [⟨F.CHAIN.CHAIN_NEW, .rw, 1023⟩,
      ⟨F.CHAIN.CHAIN_ASSIGN, .wo, 0⟩,
      ⟨F.CHAIN.ENUM_NOW, .wo, 0⟩]
  else if e = 0x1 then
     [⟨F.CHAIN.UP_PARTNER, .r, 0⟩,
      ⟨F.CHAIN.DN_PARTNER, .r, 0⟩,
      ⟨F.CHAIN.HEAD, .r, 0⟩,
      ⟨F.CHAIN.FOLLOWS, .r, 0⟩,
      ⟨F.CHAIN.ENUM, .r, 0⟩,
      ⟨F.CHAIN.SHELVES, .r, 0⟩]
  else if e = 0x2 then
     [⟨F.CHAIN.TAKEN, .r, 0⟩]
  else if e = 0x3 then
     [⟨F.CHAIN.FRAMES_BAD, .r, 0⟩,
      ⟨F.CHAIN.ENUMS, .r, 0⟩,
      ⟨F.CHAIN.PORT_CHANGES, .r, 0⟩]
  else []

/-- The fields of an entry of the FPIN space, but for the fault quad. -/
def fieldsFpin (_n _sl e : Nat) : List FieldDef :=
  if e = 0x0 then
     [⟨F.FPIN.PULSE_CLASS, .rw, 3⟩,
      ⟨F.FPIN.PULSE_US, .rw, 1000⟩,
      ⟨F.FPIN.HOLD, .rw, 0⟩,
      ⟨F.FPIN.ASSERTED, .r, 0⟩]
  else if e = 0x1 then
     [⟨F.FPIN.C4, .rs, 0⟩,
      ⟨F.FPIN.C4_INJ, .r, 0⟩,
      ⟨F.FPIN.C4_SLATE, .r, 0⟩,
      ⟨F.FPIN.C4_EVENT, .r, 0⟩,
      ⟨F.FPIN.C4_TB, .r, 0⟩]
  else if e = 0x2 then
     [⟨F.FPIN.C1_COUNT, .r, 0⟩,
      ⟨F.FPIN.C2_COUNT, .r, 0⟩,
      ⟨F.FPIN.C3_COUNT, .r, 0⟩,
      ⟨F.FPIN.PULSES, .r, 0⟩]
  else if e = 0x3 then
     [⟨F.FPIN.SHADOWED, .r, 0⟩,
      ⟨F.FPIN.SHADOWS, .r, 0⟩,
      ⟨F.FPIN.SH_OPEN, .r, 0⟩]
  else if e = 0x4 then
     [⟨F.FPIN.LOST, .rs, 0⟩,
      ⟨F.FPIN.SUBST, .r, 0⟩]
  else []

/-- The fields of an entry of the PERF space, but for the fault quad. -/
def fieldsPerf (_n _sl e : Nat) : List FieldDef :=
  if e = 0x0 then
     [⟨F.PERF.COUNTERS, .r, 16⟩,
      ⟨F.PERF.CNT_BITS, .r, 48⟩,
      ⟨F.PERF.SOURCES, .r, 24⟩]
  else if 0x10 ≤ e ∧ e < 0x20 then
     [⟨F.PERF.SRC (e - 0x10), .rw, 0⟩,
      ⟨F.PERF.MODE (e - 0x10), .rw, 0⟩,
      ⟨F.PERF.EN (e - 0x10), .rw, 0⟩,
      ⟨F.PERF.OVF_CLR (e - 0x10), .wo, 0⟩]
  else if 0x20 ≤ e ∧ e < 0x30 then
     [⟨F.PERF.VALUE (e - 0x20), .r, 0⟩,
      ⟨F.PERF.OVF (e - 0x20), .rs, 0⟩]
  else if e = 0x30 then
     [⟨F.PERF.RBASE, .rw, 0⟩,
      ⟨F.PERF.RLEN_LOG2, .rw, 4⟩,
      ⟨F.PERF.DUMP_US, .rw, 1000⟩,
      ⟨F.PERF.DUMP_EN, .rw, 0⟩,
      ⟨F.PERF.RING_OWN, .rw, 0⟩]
  else if e = 0x31 then
     [⟨F.PERF.WP, .r, 0⟩,
      ⟨F.PERF.RP, .rw, 0⟩]
  else if e = 0x32 then
     [⟨F.PERF.SBASE, .rw, 0⟩,
      ⟨F.PERF.SLEN_LOG2, .rw, 4⟩,
      ⟨F.PERF.SAMP_EN, .rw, 0⟩,
      ⟨F.PERF.SAMP_HK, .rw, 0⟩,
      ⟨F.PERF.S_OWN, .rw, 0⟩,
      ⟨F.PERF.PERIOD, .rw, 65536⟩]
  else if e = 0x33 then
     [⟨F.PERF.SWP, .r, 0⟩,
      ⟨F.PERF.SRP, .rw, 0⟩]
  else if e = 0x34 then
     [⟨F.PERF.DUMPS_LOST, .r, 0⟩,
      ⟨F.PERF.SAMPLES_LOST, .r, 0⟩,
      ⟨F.PERF.SAMPLES_SKIPPED, .r, 0⟩,
      ⟨F.PERF.DUMPS_SKIPPED, .r, 0⟩]
  else []

/-- The fields of an entry of the SECURE space, but for the fault quad. -/
def fieldsSecure (_n _sl e : Nat) : List FieldDef :=
  if e = 0x0 then
     [⟨F.SECURE.DEVICE_ID, .r, Config.deviceId.toNat⟩]
  else if e = 0x1 then
     [⟨F.SECURE.LC, .r, 0⟩,
      ⟨F.SECURE.OWNER_EPOCH, .r, 0⟩,
      ⟨F.SECURE.FW_MIN, .r, 0⟩,
      ⟨F.SECURE.FW_SEC, .r, 0⟩,
      ⟨F.SECURE.BANK, .r, 0⟩,
      ⟨F.SECURE.FALLBACK, .r, 0⟩,
      ⟨F.SECURE.TEST_IMG, .r, 0⟩,
      ⟨F.SECURE.KEYS, .r, 0⟩,
      ⟨F.SECURE.BOOTSTRAP, .r, 0⟩]
  else if e = 0x2 then
     [⟨F.SECURE.KEY_SERIAL, .r, 0⟩]
  else if 0x3 ≤ e ∧ e < 0x7 then
     [⟨F.SECURE.ROOT_DIGEST (e - 0x3), .r, (Config.rootDigest (e - 0x3)).toNat⟩]
  else if e = 0x10 then
     [⟨F.SECURE.SBUF_ADDR, .rw, 0⟩]
  else if e = 0x11 then
     [⟨F.SECURE.SBUF_LEN, .rw, 0⟩]
  else if e = 0x12 then
     [⟨F.SECURE.S_OP, .wo, 0⟩,
      ⟨F.SECURE.S_BUSY, .r, 0⟩,
      ⟨F.SECURE.S_STATUS, .r, 0⟩,
      ⟨F.SECURE.S_LEN, .r, 0⟩]
  else if 0x20 ≤ e ∧ e < 0x48 then
     [⟨F.SECURE.MR (e - 0x20), .r, 0⟩]
  else []

/-- Fields of the common fault quad (R84). -/
def fieldsQuad (sp e : Nat) : List FieldDef :=
  if e = 0xF00 then [⟨F.STAT_REAL sp, .w1c, 0⟩, ⟨F.STAT_INJ sp, .w1c, 0⟩]
  else if e = 0xF01 then [⟨F.MASK sp, .rw, 0⟩]
  else if e = 0xF02 then [⟨F.INJ_SRC sp, .rw, 0⟩, ⟨F.INJ_FIRE sp, .wo, 0⟩, ⟨F.INJ_COUNT sp, .r, 0⟩]
  else if e = 0xF03 then
    [⟨F.F_SRC sp, .r, 0⟩, ⟨F.F_VALID sp, .w1c, 0⟩, ⟨F.F_INJ sp, .r, 0⟩, ⟨F.F_MORE sp, .r, 0⟩, ⟨F.F_TB sp, .r, 0⟩]
  else if 0xF04 ≤ e ∧ e < 0xF08 then [⟨F.DETAIL sp (e - 0xF04), .r, 0⟩]
  else []

/-- Spaces whose entries, but for the fault quad, are held on slate 0 only (R205, R300, R313, R314, R328, R357). -/
def slate0Only (sp e : Nat) : Bool :=
  sp == 0x00 || sp == 0x01 || sp == 0x0D || sp == 0x10 || sp == 0x12 || (sp == 0x0E && decide (e < 2))

/-- The fields of entry `e` of space `sp` on slate `sl` of a variant with `n` slates; none for a reserved entry
(R79). -/
def fieldMap (n sl sp e : Nat) : List FieldDef :=
  if 0xF00 ≤ e then fieldsQuad sp e
  else if slate0Only sp e && sl != 0 then []
  else match sp with
    | 0x00 => fieldsUnit n sl e
    | 0x01 => fieldsSupply n sl e
    | 0x02 => fieldsEngine n sl e
    | 0x03 => fieldsPort n sl e
    | 0x04 => fieldsSwitch n sl e
    | 0x05 => fieldsXport n sl e
    | 0x06 => fieldsHq n sl e
    | 0x07 => fieldsSched n sl e
    | 0x08 => fieldsRma n sl e
    | 0x09 => fieldsStripe n sl e
    | 0x0A => fieldsJournal n sl e
    | 0x0B => fieldsDrive n sl e
    | 0x0C => fieldsMem n sl e
    | 0x0D => fieldsLease n sl e
    | 0x0E => fieldsFpin n sl e
    | 0x0F => fieldsPerf n sl e
    | 0x10 => fieldsSecure n sl e
    | 0x11 => fieldsFabric n sl e
    | 0x12 => fieldsChain n sl e
    | _ => []

end Sys2Proof.Machine
end

