-- ==== Sys2Proof/Machine/Ops.lean ====
section
/-! DEFINITION. The operations every block shares: bit fields, bytes, TB, control-space fields, device memory, and the
form of a meaning. -/

namespace Sys2Proof.Machine

/-! ### Outcomes -/

/-- The outcome of a command. -/
abbrev Out := Host.Outcome State Fault Refusal

/-- Whether slate `sl` acts: the module has left reset, its VCO is locked and the slate is not lost (R319, R320 step 1, R370,
R373). -/
def serving (s : State) (sl : Nat) : Bool :=
  s.mod.power == .running && !s.mod.vcoLost && sl < s.n && !tabHas s.lost sl

/-- The form of a meaning that belongs to slate `sl`. There is no such agent beyond the variant's slates; a slate that
is lost, or a module in reset or without power, does nothing.
DESIGN CHOICE (log entry 5). DEDUCED (log entry 6). -/
def onSlate (sl : Nat) (s : State) (f : State → State) : Out :=
  if s.n ≤ sl then .fault .noSuchSlate
  else if serving s sl then .next (f s) else .next s

/-- The form of a meaning that belongs to the unit: slate 0 acts for it (R9, R10). -/
def onUnit (s : State) (f : State → State) : Out := onSlate 0 s f

/-- The slates that serve, in rising order (R319). -/
def servingSlates (s : State) : List Nat := (List.range s.n).filter (serving s)

/-! ### Bits and bytes -/

/-- `w` bits of `x` from bit `lo` on. -/
def bits (x : Word) (lo w : Nat) : Nat := x.toNat / 2 ^ lo % 2 ^ w

/-- `x` with the `w` bits from `lo` on replaced by the low bits of `v`. -/
def setBits (x : Word) (lo w v : Nat) : Word :=
  BitVec.ofNat 64 (x.toNat % 2 ^ lo + v % 2 ^ w * 2 ^ lo + x.toNat / 2 ^ (lo + w) * 2 ^ (lo + w))

/-- Bit `k` of a number. -/
def bitOf (x k : Nat) : Bool := x / 2 ^ k % 2 == 1

/-- A mask with the bits of a list of positions. -/
def maskOf (l : List Nat) : Nat := l.eraseDups.foldl (fun a k => a + 2 ^ k) 0

/-- The positions below `n` of the bits that are 1. -/
def bitList (x n : Nat) : List Nat := (List.range n).filter (bitOf x)

/-- `x / d`, rounded up. -/
def ceilDiv (x d : Nat) : Nat := (x + d - 1) / d

/-- Little-endian bytes of a number (R4). -/
def leBytes : Nat → Nat → List Byte
  | 0, _ => []
  | k + 1, x => BitVec.ofNat 8 x :: leBytes k (x / 256)

/-- The number little-endian bytes spell (R4). -/
def leNat : List Byte → Nat
  | [] => 0
  | b :: r => b.toNat + 256 * leNat r

/-- Big-endian bytes of a number. -/
def beBytes (k x : Nat) : List Byte := (leBytes k x).reverse

/-- The number big-endian bytes spell. -/
def beNat (l : List Byte) : Nat := leNat l.reverse

/-- Byte `i` of a block; a byte past the end is zero. -/
def byteAt (b : Block) (i : Nat) : Byte := b.getD i 0

/-- `len` bytes of a block from `off` on, zeros past its end. -/
def blockSlice (b : Block) (off len : Nat) : Block := (List.range len).map fun i => byteAt b (off + i)

/-- A block without its trailing zero bytes, so that equal contents are equal lists. -/
def blockTrim (b : Block) : Block := (b.reverse.dropWhile (· == 0)).reverse

/-- The bytes of a sparse table of bytes from `off` on. -/
def bytesOf (t : Tab Byte) (off len : Nat) : Block := (List.range len).map fun i => tabGetD t (off + i) 0

/-- A sparse table of bytes with `b` written from `off` on. -/
def bytesPut (t : Tab Byte) (off : Nat) : Block → Tab Byte
  | [] => t
  | x :: r => bytesPut (tabSet 0 t off x) (off + 1) r

/-! ### Time -/

/-- TB of a slate in nanoseconds (R14). -/
def now (s : State) (sl : Nat) : Nat := (tabGetD s.tb sl 0).toNat

/-- Nanoseconds in a microsecond. -/
def us : Nat := 1000
/-- Nanoseconds in a millisecond. -/
def ms : Nat := 1000000

/-! ### Free values -/

/-- The next free value. -/
def freeVal (s : State) : Word := Config.freeWord s.fresh

/-- The state with one more free value taken. -/
def takeFree (s : State) : State := { s with fresh := s.fresh + 1 }

/-! ### Control-space storage -/

/-- The key of an entry in `State.ctl`. -/
def ctlKey (sl sp e : Nat) : Nat := sl * 2 ^ 17 + sp * 2 ^ 12 + e

/-- The reset value of an entry (R6): its fields' reset values, zero elsewhere. -/
def resetWord (n sl sp e : Nat) : Word :=
  (fieldMap n sl sp e).foldl (fun w d => setBits w d.f.lo d.f.w d.rst) 0

/-- An entry as stored. -/
def rawEntry (s : State) (sl sp e : Nat) : Word :=
  tabGetD s.ctl (ctlKey sl sp e) (resetWord s.n sl sp e)

/-- Store an entry; a reset value is not listed. -/
def putEntry (s : State) (sl sp e : Nat) (v : Word) : State :=
  { s with ctl := tabSet (resetWord s.n sl sp e) s.ctl (ctlKey sl sp e) v }

/-- A stored field of slate `sl`. -/
def getF (s : State) (sl : Nat) (f : Fld) : Nat := bits (rawEntry s sl f.sp f.e) f.lo f.w

/-- Write a stored field of slate `sl`; the value wraps at the field's width. -/
def setF (s : State) (sl : Nat) (f : Fld) (v : Nat) : State :=
  putEntry s sl f.sp f.e (setBits (rawEntry s sl f.sp f.e) f.lo f.w v)

/-- Whether a one-bit field is 1. -/
def isF (s : State) (sl : Nat) (f : Fld) : Bool := getF s sl f == 1

/-- Advance a counter that wraps. -/
def bump (s : State) (sl : Nat) (f : Fld) (k : Nat := 1) : State := setF s sl f (getF s sl f + k)

/-- Advance a counter that saturates. -/
def bumpSat (s : State) (sl : Nat) (f : Fld) (k : Nat := 1) : State :=
  setF s sl f (min (2 ^ f.w - 1) (getF s sl f + k))

/-- Apply a change on every slate of a list, in order. -/
def forSlates (l : List Nat) (f : State → Nat → State) (s : State) : State := l.foldl f s

/-! ### Device memory (R16, R28) -/

/-- The home slate a MEM address names. -/
def memHome (a : Nat) : Nat := a / 2 ^ 37 % 8

/-- The offset in the home slate's stack. -/
def memOff (a : Nat) : Nat := a % 2 ^ 37

/-- The MEM address of an offset in a slate's stack. -/
def memAddr (sl off : Nat) : Nat := sl * 2 ^ 37 + off

/-- The size of a stack: 24 GiB. -/
def stackBytes : Nat := 0x600000000

/-- The start of the device region (R28). -/
def deviceBase : Nat := 0x5C0000000

/-- Bytes of HBM (R28: zero until written).
DEDUCED (log entry 25). -/
def hbmRead (s : State) (a len : Nat) : Block := bytesOf s.hbm a len

/-- Write bytes of HBM. A whole poisoned word written over is poisoned no longer (R281). -/
def hbmWrite (s : State) (a : Nat) (b : Block) : State :=
  { s with
    hbm := bytesPut s.hbm a b
    poison := s.poison.filter fun p => !(a ≤ p && p + 8 ≤ a + b.length) }

/-- Whether a range touches a poisoned 8-byte word (R281). -/
def poisoned (s : State) (a len : Nat) : Bool := s.poison.any fun p => p < a + len && a < p + 8

/-! ### Lists of things in the state -/

/-- The number of entries of a table that satisfy a test. -/
def tabCount {α : Type} (t : Tab α) (p : α → Bool) : Nat := (t.filter fun x => p x.2).length

/-- The keys of a table whose values satisfy a test. -/
def keysWhere {α : Type} (t : Tab α) (p : α → Bool) : List Nat := (t.filter fun x => p x.2).map (·.1)

/-- Change every value of a table. -/
def tabMapV {α : Type} (t : Tab α) (f : Nat → α → α) : Tab α := t.map fun p => (p.1, f p.1 p.2)

/-- The first requester at or after a rotating-priority pointer, among indices below `n` (R42). -/
def rotPick (ptr n : Nat) (req : Nat → Bool) : Option Nat :=
  ((List.range n).map fun i => (ptr + i) % n).find? req

end Sys2Proof.Machine
end

