-- ==== Sys2Proof/Machine/Gcm.lean ====
section
/-! DEFINITION. AES-256-GCM with a 96-bit IV and a 128-bit tag, as NIST SP 800-38D and FIPS 197 define it (R113). -/

namespace Sys2Proof.Machine

/-! ### AES-256 -/

/-- The S-box, sixteen bytes to a number, the first byte highest. -/
def aesSboxRows : List Nat :=
  [0x637C777BF26B6FC53001672BFED7AB76, 0xCA82C97DFA5947F0ADD4A2AF9CA472C0, 0xB7FD9326363FF7CC34A5E5F171D83115,
   0x04C723C31896059A071280E2EB27B275, 0x09832C1A1B6E5AA0523BD6B329E32F84, 0x53D100ED20FCB15B6ACBBE394A4C58CF,
   0xD0EFAAFB434D338545F9027F503C9FA8, 0x51A3408F929D38F5BCB6DA2110FFF3D2] ++
  [0xCD0C13EC5F974417C4A77E3D645D1973, 0x60814FDC222A908846EEB814DE5E0BDB, 0xE0323A0A4906245CC2D3AC629195E479,
   0xE7C8376D8DD54EA96C56F4EA657AAE08, 0xBA78252E1CA6B4C6E8DD741F4BBD8B8A, 0x703EB5664803F60E613557B986C11D9E,
   0xE1F8981169D98E949B1E87E9CE5528DF, 0x8CA1890DBFE6426841992D0FB054BB16]

/-- The S-box of a byte. -/
def aesSub (b : Byte) : Byte :=
  BitVec.ofNat 8 (aesSboxRows.getD (b.toNat / 16) 0 / 256 ^ (15 - b.toNat % 16))

/-- Multiplication by x in the field of AES. -/
def aesTimes2 (b : Byte) : Byte := if b.getLsbD 7 then (b <<< 1) ^^^ 0x1B else b <<< 1

/-- Byte-wise exclusive or of two strings, as long as the first. -/
def xorBytes : Block → Block → Block
  | a :: l, b :: r => (a ^^^ b) :: xorBytes l r
  | l, _ => l

/-- The round constant of every eighth key word. -/
def aesRcon (i : Nat) : Byte := 1 <<< (i / 8 - 1)

/-- Key words of four bytes, the last first: `k` more words after the eight of the key. -/
def aesExpand : Nat → List Block → List Block
  | 0, w => w
  | k + 1, w =>
    let w := aesExpand k w
    let t := w.headD []
    let t := match k % 8 with
      | 0 => match t.map aesSub with
        | a :: b :: c :: d :: _ => [b ^^^ aesRcon (k + 8), c, d, a]
        | l => l
      | 4 => t.map aesSub
      | _ => t
    xorBytes t (w.getD 7 []) :: w

/-- The fifteen round keys of a 32-byte key. -/
def aesKeys (key : Block) : List Block :=
  let w := (aesExpand 52 ((List.range 8).map fun i => blockSlice key (28 - 4 * i) 4)).reverse
  (List.range 15).map fun r => (List.range 4).flatMap fun i => w.getD (4 * r + i) []

/-- Move row r of the sixteen-byte state left by r columns. -/
def aesShiftRows (x : Block) : Block := (List.range 16).map fun i => x.getD ((i + 4 * (i % 4)) % 16) 0

/-- Mix the four bytes of each column. -/
def aesMixColumns : Block → Block
  | a :: b :: c :: d :: l =>
    let t := a ^^^ b ^^^ c ^^^ d
    (a ^^^ t ^^^ aesTimes2 (a ^^^ b)) :: (b ^^^ t ^^^ aesTimes2 (b ^^^ c)) :: (c ^^^ t ^^^ aesTimes2 (c ^^^ d)) ::
      (d ^^^ t ^^^ aesTimes2 (d ^^^ a)) :: aesMixColumns l
  | l => l

/-- The rounds that follow the first key addition. -/
def aesRounds : List Block → Block → Block
  | [], x => x
  | [k], x => xorBytes (aesShiftRows (x.map aesSub)) k
  | k :: l, x => aesRounds l (xorBytes (aesMixColumns (aesShiftRows (x.map aesSub))) k)

/-- One block under a key schedule. -/
def aesBlock (keys : List Block) (x : Block) : Block :=
  match keys with
  | [] => x
  | k :: l => aesRounds l (xorBytes x k)

/-! ### GHASH and the counter -/

/-- The product of two blocks in GHASH's field, whose first bit is the highest: `n` bits of `x` are left. -/
def ghashMul : Nat → Nat → Nat → Nat → Nat
  | 0, _, _, z => z
  | n + 1, x, v, z =>
    ghashMul n x (if v % 2 = 1 then v / 2 ^^^ 0xE1 * 2 ^ 120 else v / 2) (if x.testBit n then z ^^^ v else z)

/-- Fold the sixteen-byte blocks of a string into a hash, the last one filled with zeros. -/
def ghash (h : Nat) (y : Nat) (x : Block) : Nat :=
  (List.range ((x.length + 15) / 16)).foldl (fun y i => ghashMul 128 (y ^^^ beNat (blockSlice x (16 * i) 16)) h 0) y

/-- The key stream of `n` blocks from counter `c` on. -/
def gcmStream (keys : List Block) (iv : Block) : Nat → Nat → Block
  | 0, _ => []
  | n + 1, c => aesBlock keys (iv ++ beBytes 4 c) ++ gcmStream keys iv n (c + 1)

/-- Encrypt or decrypt a string. -/
def gcmCrypt (keys : List Block) (iv x : Block) : Block := xorBytes x (gcmStream keys iv ((x.length + 15) / 16) 2)

/-- The tag of a ciphertext and its additional authenticated data. -/
def gcmTag (keys : List Block) (iv aad c : Block) : Block :=
  let h := beNat (aesBlock keys (List.replicate 16 0))
  let y := ghash h (ghash h (ghash h 0 aad) c) (beBytes 8 (8 * aad.length) ++ beBytes 8 (8 * c.length))
  xorBytes (beBytes 16 y) (aesBlock keys (iv ++ beBytes 4 1))

/-- The 32 key bytes of a key-table entry: KAES words whose first byte is in [63:56] (R131). -/
def aesKeyBytes (words : List Word) : Block := (List.range 4).flatMap fun i => beBytes 8 (words.getD i 0).toNat

/-- Seal a payload: the ciphertext, then the tag (R113). -/
def gcmSeal (words : List Word) (iv aad p : Block) : Block :=
  let keys := aesKeys (aesKeyBytes words)
  let c := gcmCrypt keys iv p
  c ++ gcmTag keys iv aad c

/-- Whether a tag authenticates a ciphertext (R113). -/
def gcmAuthentic (words : List Word) (iv aad c tag : Block) : Bool := gcmTag (aesKeys (aesKeyBytes words)) iv aad c == tag

/-- The plaintext of a ciphertext (R113). -/
def gcmOpen (words : List Word) (iv c : Block) : Block := gcmCrypt (aesKeys (aesKeyBytes words)) iv c

end Sys2Proof.Machine
end

