-- ==== Sys2Proof/Machine/Switch.lean ====
section
/-! DEFINITION. The switch core and the scheduler of a slate's outputs: paths, buffer accounting, queues, tags, credits and
gates (R223 to R256). The commands that use them are in SwitchCmds.lean. -/

namespace Sys2Proof.Machine

/-! ### Fabric paths (R12, R226 to R230) -/

/-- The key of a fabric link in `State.links`. -/
def linkKey (sl l : Nat) : Nat := sl * 4 + l

/-- A link's training state. -/
def linkOf (s : State) (sl l : Nat) : LinkState := tabGetD s.links (linkKey sl l) { up := false, retrain := none }

/-- The number the far end gives a link: west meets east, and across and twin links keep their number.
DEDUCED (log entry 81). -/
def peerLink (n l : Nat) : Nat := if n = 8 then (if l = 0 then 1 else if l = 1 then 0 else l) else l

/-- Whether both ends of a link have been trained and neither end's slate is lost (R230, R320 step 1). -/
def linkUp (s : State) (sl l : Nat) : Bool :=
  (linkOf s sl l).up && serving s sl && serving s (linkNeigh s.n sl l)

/-- Whether a link may be chosen for a new path: up, and EN 1 (R230, R241). -/
def linkUsable (s : State) (sl l : Nat) : Bool := linkUp s sl l && isF s sl (F.FABRIC.EN l)

/-- The links of `a` that reach `b` in one hop, in ascending number, among those that `ok` admits. -/
def hopLinks (n a b : Nat) (ok : Nat → Nat → Bool) : List Nat :=
  (List.range 4).filter fun l => linkNeigh n a l == b && ok a l

/-- The slates a frame visits after `a` on its way to `b` under R226, with flow hash `h`. -/
def regularHops (n a b h : Nat) : List Nat :=
  if a = b then []
  else if n = 2 then [b]
  else if n = 4 then
    let x := if fabRow n a = fabRow n b then a else a ^^^ 2
    (if x = a then [] else [x]) ++ (if x = b then [] else [b])
  else
    let x := if fabRow n a = fabRow n b then a else a ^^^ 4
    let row := x / 4 * 4
    let col (k : Nat) := row + (x + k) % 4
    (if x = a then [] else [x]) ++
      (match (b + 4 - x % 4) % 4 with
       | 0 => []
       | 1 => [col 1]
       | 3 => [col 3]
       | _ => if h % 2 = 0 then [col 1, col 2] else [col 3, col 2])

/-- Choose a link for each hop: link (H >> 1) mod p of the p links admitted (R226). `none` where a hop has none. -/
def linksFor (n h : Nat) (ok : Nat → Nat → Bool) : Nat → List Nat → Option (List (Nat × Nat))
  | _, [] => some []
  | a, b :: r =>
    let ls := hopLinks n a b ok
    match ls[(h / 2) % ls.length]?, linksFor n h ok b r with
    | some l, some rest => some ((a, l) :: rest)
    | _, _ => none

/-- Neighbours in the order in which ties of R230 are broken: by H[0] (east first when it is 0, west first when it is
1), then by the lower slate number. -/
def tieOrder (n a h : Nat) (ok : Nat → Nat → Bool) : List Nat :=
  let ns := ((List.range n).filter fun b => b != a && !(hopLinks n a b ok).isEmpty)
  let first := linkNeigh n a (if h % 2 = 0 then 1 else 0)
  if n = 8 then ns.filter (· == first) ++ ns.filter (· != first) else ns

/-- The shortest path of exactly `k` hops, trying neighbours in tie order. -/
def shortestHops (n b h : Nat) (ok : Nat → Nat → Bool) : Nat → Nat → Option (List Nat)
  | 0, a => if a = b then some [] else none
  | k + 1, a => (tieOrder n a h ok).findSome? fun x => (shortestHops n b h ok k x).map (x :: ·)

/-- A path from `a` to `b` and its starting lane: the form of R226 on lane 0, or, where the links left admit none, the
shortest remaining path on lane 1 (R230). -/
def pathFor (n a b h : Nat) (ok : Nat → Nat → Bool) : Option (List (Nat × Nat) × Nat) :=
  match linksFor n h ok a (regularHops n a b h) with
  | some p => some (p, 0)
  | none =>
    match ((List.range n).findSome? fun k => shortestHops n b h ok k a) with
    | some hops => (linksFor n h ok a hops).map fun p => (p, 1)
    | none => none

/-- The path of a new frame from slate `a` (R226, R230). -/
def pathOf (s : State) (a b h : Nat) : Option (List (Nat × Nat) × Nat) := pathFor s.n a b h (linkUsable s)

/-- Whether slate `b` can be reached from `a` over up, enabled links (R241 FSTAT). -/
def reachable (s : State) (a b : Nat) : Bool := (pathOf s a b 0).isSome

/-- The flow key of R228. -/
def flowKey (cls src dst kind ident : Nat) : Word :=
  BitVec.ofNat 64 (cls % 8 + src % 8 * 8 + dst % 8 * 64 + kind % 8 * 512 + ident % 2 ^ 20 * 4096)

/-- The flow hash H of R228. -/
def flowHash (k : Word) (seed : Nat) : Nat := (bits k 0 16) ^^^ (bits k 16 16) ^^^ seed

/-! ### Buffer accounting (R231 to R234) -/

/-- The classes a port carries (R225, R232, R233): classes 4, 5 and 6 never reach a network output, and 2, 5 and 6 no drive. -/
def carries (p c : Nat) : Bool :=
  match portKind p with
  | 0 => stLimNet c != 0
  | 1 => stLimInt c != 0
  | 2 => stLimDrv c != 0
  | _ => stLimFab c != 0

/-- The cells a frame of so many bytes occupies, with its internal header (R223). -/
def cellsOf (bytes : Nat) : Nat := ceilDiv (bytes + 16) 128

/-- The cells charged to an ingress port and class of a slate (R231). -/
def cellsUsed (s : State) (sl p c : Nat) : Nat :=
  s.frames.foldl (fun a x => let f := x.2
    if f.slate = sl ∧ f.inPort = p ∧ f.cls = c ∧ !f.stalled then a + cellsOf f.bytes else a) 0

/-- The cells charged to an ingress port, all classes. -/
def portCells (s : State) (sl p : Nat) : Nat :=
  s.frames.foldl (fun a x => let f := x.2
    if f.slate = sl ∧ f.inPort = p ∧ !f.stalled then a + cellsOf f.bytes else a) 0

/-- The cells of a slate in use. -/
def slateCells (s : State) (sl : Nat) : Nat :=
  s.frames.foldl (fun a x => let f := x.2
    if f.slate = sl ∧ !f.stalled then a + cellsOf f.bytes else a) 0

/-- The port and class pairs guaranteed MIN cells (R232). -/
def minPairs (c : Nat) : Nat :=
  match c with | 7 => 15 | 6 => 8 | 5 => 8 | 4 => 14 | 3 => 15 | 2 => 9 | 1 => 15 | _ => 0

/-- MIN of a class in cells. -/
def minCells (s : State) (sl c : Nat) : Nat := 16 * getF s sl (F.SWITCH.MIN c)

/-- The shared pool of MODE 0: the buffer less every guarantee and the headroom of the four lossless classes. -/
def sharedPool (s : State) (sl : Nat) : Nat :=
  262144 - 4 * 16 * getF s sl F.SWITCH.HDRM -
    (List.range 8).foldl (fun a c => a + minPairs c * minCells s sl c) 0

/-- The cells that a class's frames hold of the headroom of the network port (R234). -/
def headCells (s : State) (sl c : Nat) : Nat :=
  s.frames.foldl (fun a x => let f := x.2
    if f.slate = sl ∧ f.inPort = 0 ∧ f.cls = c ∧ !f.stalled then a + f.head else a) 0

/-- The cells charged to an ingress port and class that are not headroom. -/
def ownCells (s : State) (sl p c : Nat) : Nat := cellsUsed s sl p c - if p = 0 then headCells s sl c else 0

/-- Shared cells still free in MODE 0. -/
def sharedFree (s : State) (sl : Nat) : Nat :=
  sharedPool s sl - (List.range 15).foldl (fun a p =>
    (List.range 8).foldl (fun a c => a + (ownCells s sl p c - minCells s sl c)) a) 0

/-- The limit of an ingress port and class in cells: fixed in MODE 1 (R233); in MODE 0 its MIN and the shared use that
ALPHA / 8 of the shared cells still free allows (R232). -/
def ingressLimit (s : State) (sl p c : Nat) : Nat :=
  if swMode s.n then
    16 * getF s sl (match portKind p with
      | 0 => F.SWITCH.LIM_NET c | 1 => F.SWITCH.LIM_INT c | 2 => F.SWITCH.LIM_DRV c | _ => F.SWITCH.LIM_FAB c)
  else minCells s sl c + ceilDiv (getF s sl (F.SWITCH.ALPHA c) * sharedFree s sl) 8

/-- How many cells a port and class may take before they stand at their limit. In MODE 0 each shared cell taken leaves one fewer
free, and is allowed while the shared use is below ALPHA / 8 of those (R232, R233). -/
def cellRoom (s : State) (sl p c : Nat) : Nat :=
  let u := ownCells s sl p c
  if swMode s.n then ingressLimit s sl p c - u
  else
    let m := minCells s sl c
    let a := getF s sl (F.SWITCH.ALPHA c)
    (m - u) + ceilDiv (a * sharedFree s sl - 8 * (u - m)) (8 + a)

/-- Whether a port and class have room for a frame of so many cells (R231). -/
def fits (s : State) (sl p c cells : Nat) : Bool := decide (cells ≤ cellRoom s sl p c)

/-- The cells of a fabric port and class that the frames of one lane hold. -/
def laneCells (s : State) (sl p c lane : Nat) : Nat :=
  s.frames.foldl (fun a x => let f := x.2
    if f.slate = sl ∧ f.inPort = p ∧ f.cls = c ∧ f.lane = lane then a + cellsOf f.bytes else a) 0

/-- Whether a fabric port gives credit for a frame of a lane (R227, R231): it keeps room for one largest frame, 73 cells, for
a lane that holds none.
DESIGN CHOICE (log entry 80). -/
def laneCredit (s : State) (sl p c lane cells : Nat) : Bool :=
  let keep := if laneCells s sl p c (1 - lane) = 0 ∧ 146 ≤ ingressLimit s sl p c then 73 else 0
  fits s sl p c (cells + keep)

/-- The lossless classes at a network port (R124, R234). -/
def lossless (c : Nat) : Bool := c == 7 || c == 3 || c == 2 || c == 1

/-- Assert or release the pause of each lossless class for the buffer (R234): asserted when the use reaches the limit,
released when it falls below 7/8 of it. -/
def updatePause (s : State) (sl : Nat) : State :=
  let old := tabGetD s.pauseBuf sl 0
  let m := maskOf ((List.range 8).filter fun c => lossless c &&
    (let u := cellsUsed s sl 0 c; let l := ingressLimit s sl 0 c
     if bitOf old c then decide (7 * l ≤ 8 * u) else decide (l ≤ u)))
  { s with pauseBuf := tabSet 0 s.pauseBuf sl m }

/-- What follows a frame's admission to a slate's buffer: PEAK is kept at the highest use, and the pauses follow the use and the
limits (R234, R240). -/
def updatePeak (s : State) (sl : Nat) : State :=
  updatePause (setF s sl F.SWITCH.PEAK (max (getF s sl F.SWITCH.PEAK) (slateCells s sl))) sl

/-! ### Outputs (R242 to R250) -/

/-- The key of an output or network sub-port in `State.outs`. -/
def outKey (sl p sub : Nat) : Nat := (sl * 16 + p) * 8 + sub

/-- An idle output. -/
def outIdle : OutPort := { v := 0, freeAt := 0, cur := none, queues := [] }

/-- An empty queue. -/
def queueIdle : OutQueue := { frames := [], headF := none, flast := 0, credit := 0, creditTb := 0, slotTb := none }

/-- An output of a slate. -/
def outOf (s : State) (sl p sub : Nat) : OutPort := tabGetD s.outs (outKey sl p sub) outIdle

/-- Store an output. -/
def putOut (s : State) (sl p sub : Nat) (o : OutPort) : State := { s with outs := tabPut s.outs (outKey sl p sub) o }

/-- A queue of an output. -/
def queueOf (o : OutPort) (c : Nat) : OutQueue := tabGetD o.queues c queueIdle

/-- Store a queue of an output. -/
def putQueue (o : OutPort) (c : Nat) (q : OutQueue) : OutPort := { o with queues := tabPut o.queues c q }

/-- Output rate PR in units of 10 Mbit/s (R243). -/
def rateOf (s : State) (sl p : Nat) : Nat :=
  match portKind p with
  | 0 => 80000 / 2 ^ getF s sl F.PORT.BREAKOUT
  | 3 => 200000
  | _ => 128000

/-- The length L of a frame at an output, in bytes (R243). -/
def wireLen (p bytes : Nat) : Nat := if p = 0 then bytes + 20 else 128 * cellsOf bytes

/-- Transmission time L * 8 / PR, in picoseconds (R243). -/
def txPs (s : State) (sl p bytes : Nat) : Nat := wireLen p bytes * 800000 / rateOf s sl p

/-- The queue number of the SCHED settings: 8p + c. -/
def qn (p c : Nat) : Nat := 8 * p + c

/-- Whether a queue is privileged. -/
def isPriv (s : State) (sl p c : Nat) : Bool := isF s sl (F.SCHED.PRIV (qn p c))

/-- The end of the open run of class `c` that holds TB `t`, walking at most `k` entries from offset `off` into entry
list `es`; `none` where no closed entry is met. -/
def openWalk (es : List (BitVec 8 × Nat)) (c : Nat) : Nat → Nat → Nat → Nat → Option Nat
  | 0, _, _, _ => none
  | k + 1, i, off, t =>
    match es[i % es.length]? with
    | none => none
    | some (m, d) => if bitOf m.toNat c then openWalk es c k (i + 1) 0 (t + (d - off)) else some t

/-- The entry of a list that offset `off` of its cycle falls in, and the offset within it. -/
def entryAt : List (BitVec 8 × Nat) → Nat → Nat → Nat × Nat
  | [], i, off => (i, off)
  | (_, d) :: r, i, off => if off < d then (i, off) else entryAt r (i + 1) (off - d)

/-- The end of the window of class `c` that holds TB `t` under a list: `some t` where the class is closed at `t`, `none`
where it stays open (R251). -/
def windowEnd (g : GateList) (c t : Nat) : Option Nat :=
  let (i, off) := entryAt g.entries 0 ((t - g.start) % g.cycle)
  openWalk g.entries c (g.entries.length + 1) i off t

/-- The gates of a slate. -/
def gatesOf (s : State) (sl : Nat) : Gates := tabGetD s.gates sl { oper := none, pend := none, entry := 0 }

/-- Whether the gate of class `c` is open at every instant from TB `t` for `ps` picoseconds, by the list in force at
each instant (R252, R254). -/
def gateOpen (s : State) (sl p c t ps : Nat) : Bool :=
  if p ≠ 0 then true
  else
    let g := gatesOf s sl
    let fits (l : Option GateList) (a e : Nat) : Bool :=
      match l with
      | none => true
      | some l => match windowEnd l c a with
        | none => true
        | some w => decide (a < w) && decide (e ≤ w * 1000)
    let e := t * 1000 + ps
    match g.pend with
    | some l =>
      if l.start ≤ t then fits (some l) t e
      else if l.start * 1000 < e then fits g.oper t (l.start * 1000) && fits (some l) l.start e
      else fits g.oper t e
    | none => fits g.oper t e

/-- Whether a class's gate is open at TB `t`. -/
def gateAt (s : State) (sl p c t : Nat) : Bool := gateOpen s sl p c t 1

/-- The TB at which an output's frame of a class ends, 0 where none has been sent. -/
def sendEnd (o : OutPort) (c : Nat) : Nat := if o.cur = some c then ceilDiv o.freeAt 1000 else 0

/-- A queue of an output with its credit brought to TB `t` (R247), `open_` the state of its gate since the last time. A queue holds its
frame while that is sent; once it holds none, a credit above zero falls back to zero.
DEDUCED (log entry 83). -/
def accrue (s : State) (sl p c t : Nat) (open_ : Bool) (o : OutPort) : OutQueue :=
  let q := queueOf o c
  if !isPriv s sl p c || !open_ then { q with creditTb := t }
  else
    let is : Int := getF s sl (F.SCHED.IDLE_SLOPE (qn p c))
    let hi : Int := 64 * 800 * (getF s sl (F.SCHED.HI_CREDIT (qn p c)) : Int)
    let holds := !q.frames.isEmpty || decide (t < sendEnd o c)
    let t1 := if holds then t else max q.creditTb (min t (sendEnd o c))
    let held := max q.credit (min hi (q.credit + is * ((t1 - q.creditTb : Nat) : Int)))
    let cr := if holds then held else if held < 0 then min 0 (held + is * ((t - t1 : Nat) : Int)) else 0
    { q with credit := cr, creditTb := t }

/-- The calendar-wheel slot of a queue with negative credit at TB `t` (R248): the first slot at or after the zero
crossing, or the last slot of the horizon. -/
def wheelSlotOf (s : State) (sl p c t : Nat) (q : OutQueue) : Option Nat :=
  let is := getF s sl (F.SCHED.IDLE_SLOPE (qn p c))
  if !isPriv s sl p c || q.frames.isEmpty || 0 ≤ q.credit then none
  else
    let cross := if is = 0 then t + 16384 + 1 else t + ceilDiv q.credit.natAbs is
    let slot := ceilDiv cross 8 * 8
    some (if t + 16384 ≤ slot then t / 8 * 8 + 16376 else slot)

/-- The frame at the head of a queue. -/
def headFrame (s : State) (q : OutQueue) : Option Frame :=
  match q.frames with
  | [] => none
  | i :: _ => tabGet s.frames i

/-- Give the head of an ordinary queue its tags when it has none (R245). -/
def tagHead (s : State) (sl p c : Nat) (o : OutPort) : OutPort :=
  let q := queueOf o c
  if isPriv s sl p c || q.headF.isSome then o
  else match headFrame s q with
    | none => o
    | some f =>
      let ahead (a b : Nat) : Bool := 2 ^ 31 ≤ (a + 2 ^ 32 - b) % 2 ^ 32
      let st := if ahead o.v q.flast then q.flast else o.v
      let fin := (st + ceilDiv (cellsOf f.bytes * 4096) (max 1 (getF s sl (F.SCHED.WEIGHT (qn p c))))) % 2 ^ 32
      putQueue o c { q with headF := some fin, flast := fin }

/-- When no ordinary queue of an output holds a frame, and none is being sent, V and every F_last go to zero (R246). -/
def restTags (s : State) (sl p : Nat) (o : OutPort) : OutPort :=
  if decide (o.freeAt ≤ now s sl * 1000) && (List.range 8).all fun c => isPriv s sl p c || (queueOf o c).frames.isEmpty then
    { o with v := 0, queues := tabMapV o.queues fun c q => if isPriv s sl p c then q else { q with flast := 0 } }
  else o

/-- Whether a frame carries an abort outcome (R151). -/
def isOutcome (s : State) (id : Nat) : Bool :=
  match (tabGet s.frames id).bind (·.dgram) with | some d => d.flags.getLsbD 1 | none => false

/-- Join the queue of its class at an output (R242): an abort outcome ahead of every other datagram, in its turn among outcomes
(R151). -/
def joinQueue (s : State) (sl p sub c id : Nat) : State :=
  let t := now s sl
  let o := restTags s sl p (outOf s sl p sub)
  let q := accrue s sl p c t (gateAt s sl p c t) o
  let l :=
    if p = 0 ∧ isOutcome s id then q.frames.takeWhile (isOutcome s) ++ id :: q.frames.dropWhile (isOutcome s)
    else q.frames ++ [id]
  let q := { q with frames := l, headF := if l.head? = q.frames.head? then q.headF else none }
  let q := { q with slotTb := match q.slotTb with | some x => some x | none => wheelSlotOf s sl p c t q }
  putOut s sl p sub (tagHead s sl p c (putQueue o c q))

/-- The output a frame leaves slate `sl` by: the link of its next hop, or its destination port. -/
def nextOut (f : Frame) : Nat × Nat :=
  match f.path with
  | (_, l) :: _ => (10 + l, 0)
  | [] => (f.dstPort, f.dstSub)

/-- Count one copy of a multicast as accepted by slate `sl` (`ok`) or discarded (R237). -/
def settleCopy (s : State) (g : Option Nat) (sl : Nat) (ok : Bool) : State :=
  match g with
  | none => s
  | some g =>
    match tabGet s.mcast g with
    | none => s
    | some m =>
      let m := { m with left := m.left - 1, result := if ok then m.result ||| 2 ^ sl else m.result }
      { s with mcast := tabPut s.mcast g m }

/-- Why a frame may not be queued at an output (R235): a network sub-port whose link is down, or whose peer has paused the
class for longer than PEER_PAUSE_MAX. The field counts the discard. -/
def netBlocked (s : State) (sl : Nat) (o : Nat × Nat) (c : Nat) : Option Fld :=
  if o.1 ≠ 0 then none
  else if !bitOf (getF s sl F.PORT.LINK_UP) o.2 then some F.SWITCH.LINKDOWN_DROPS
  else match tabGet s.peerPause (sl * 8 + c) with
    | some p => if p.raised then some F.SWITCH.PEER_PAUSE_DROPS else none
    | none => none

/-- Put a complete frame in the queues of its outputs, unless it waits (R242, R238); a copy that R235 discards is taken
off it. -/
def queueFrame (s : State) (id : Nat) : State :=
  match tabGet s.frames id with
  | none => s
  | some f =>
    if f.waiting || f.stalled then s
    else
      let bad := f.outs.filter fun o => (netBlocked s f.slate o f.cls).isSome
      let good := f.outs.filter fun o => (netBlocked s f.slate o f.cls).isNone
      let s := bad.foldl (fun s o =>
        let cnt := if f.mask ≠ 0 then F.SWITCH.MC_DISCARDS else (netBlocked s f.slate o f.cls).getD F.SWITCH.LINKDOWN_DROPS
        settleCopy (bump s f.slate cnt) f.group f.slate false) s
      if good.isEmpty then { s with frames := tabDel s.frames id }
      else
        let s := { s with frames := tabPut s.frames id { f with outs := good } }
        good.foldl (fun s o => joinQueue s f.slate o.1 o.2 f.cls id) s

/-- Whether an older frame of a class to a slate, looked up on `home` under another TVER, remains (R238). -/
def olderFrames (s : State) (home c dst tv : Nat) : Bool :=
  s.frames.any fun x => x.2.home == home && x.2.cls == c && x.2.dst == dst && x.2.tver != tv && !x.2.stalled

/-- Whether an earlier frame of a flow, before frame `id`, waits or has another way to go than `path`, so that a frame sent by that
path could overtake it (R229, R230). -/
def flowAhead (s : State) (id home : Nat) (key : Word) (path : List (Nat × Nat)) : Bool :=
  s.frames.any fun x => decide (x.1 < id) && x.2.home == home && x.2.key == key && !x.2.stalled && x.2.mask == 0 &&
    (x.2.waiting || !x.2.path.isSuffixOf path)

/-- The path a flow of this slate had before the last lookup change (R238). -/
def oldPath (s : State) (a b : Nat) (k : Word) : Option (List (Nat × Nat) × Nat) :=
  match tabGet s.oldLookup a with
  | none => pathOf s a b (flowHash k (getF s a F.SWITCH.FLOW_SEED))
  | some (seed, en) =>
    pathFor s.n a b (flowHash k seed) fun x l => if x = a then linkUp s x l && bitOf en l else linkUsable s x l

/-- Look a unicast frame up at the slate it enters (R226, R229, R236, R238): its path, its lane and whether it waits. `none`
where no path reaches the destination. -/
def lookup (s : State) (f : Frame) : Option Frame :=
  let h := flowHash f.key (getF s f.slate F.SWITCH.FLOW_SEED)
  match pathOf s f.slate f.dst h with
  | none => none
  | some (p, lane) =>
    let tv := getF s f.slate F.SWITCH.TVER
    let moved := match oldPath s f.slate f.dst f.key with
      | some (p', _) => decide (p' ≠ p)
      | none => false
    let f := { f with path := p, lane := lane, home := f.slate, tver := tv }
    some { f with
      outs := [nextOut f]
      waiting := (moved && olderFrames s f.slate f.cls f.dst tv) || flowAhead s s.nextFrame f.slate f.key p }

/-- Add a frame record under the next number. -/
def addFrame (s : State) (f : Frame) : State × Nat :=
  ({ s with frames := tabPut s.frames s.nextFrame f, nextFrame := s.nextFrame + 1 }, s.nextFrame)

/-- Put a frame in the buffer of the slate it is at. -/
def bufferFrame (s : State) (f : Frame) : State :=
  let (s, id) := addFrame s f
  updatePeak (queueFrame s id) f.slate

/-! ### Multicast trees (R237) -/

/-- The slates to which a multicast goes on from slate `x`, entered from `src` (the ingress slate), each with the slates its
copy serves. `mask` holds the slates still to be served beyond `x`. -/
def mcastHops (n src x mask : Nat) : List (Nat × Nat) :=
  let some_ (b m : Nat) : List (Nat × Nat) := if m = 0 then [] else [(b, m)]
  if n = 2 then some_ (twinOf x) (mask &&& 2 ^ twinOf x)
  else if n = 4 then
    let other := maskOf ((List.range 4).filter fun y => fabRow 4 y != fabRow 4 x)
    (if x = src then some_ (x ^^^ 2) (mask &&& other) else []) ++
      (if fabCol 4 x = fabCol 4 src then some_ (twinOf x) (mask &&& 2 ^ twinOf x) else [])
  else
    let row := x / 4 * 4
    let other := maskOf ((List.range 8).filter fun y => y / 4 != x / 4)
    let e := row + src % 4
    let at_ (k : Nat) := row + (e + k) % 4
    let d := (x + 4 - e % 4) % 4
    (if x = src then some_ (x ^^^ 4) (mask &&& other) else []) ++
      (if d = 0 then some_ (at_ 1) (mask &&& maskOf [at_ 1, at_ 2]) ++ some_ (at_ 3) (mask &&& maskOf [at_ 3])
       else if d = 1 then some_ (at_ 2) (mask &&& maskOf [at_ 2]) else [])

/-- The link a frame takes to a neighbour: (H >> 1) mod p of the p that may be chosen (R226). -/
def linkTo (s : State) (f : Frame) (b : Nat) : Option Nat :=
  let ls := hopLinks s.n f.slate b (linkUsable s)
  ls[flowHash f.key (getF s f.home F.SWITCH.FLOW_SEED) / 2 % ls.length]?

/-- A copy for one slate that cannot follow the tree takes a path of its own (R230); one for a lost slate, or that no path is left for,
is discarded (R235, R237). -/
def mcastAlone (s : State) (f : Frame) (x : Nat) : State :=
  match pathOf s f.slate x (flowHash f.key (getF s f.slate F.SWITCH.FLOW_SEED)) with
  | none => settleCopy (bump s f.slate F.SWITCH.MC_DISCARDS) f.group x false
  | some (p, lane) =>
    let f := { f with mask := 2 ^ x, dst := x, path := p, lane := max f.lane lane }
    bufferFrame s { f with outs := [nextOut f] }

/-- Put a multicast frame that has just entered a slate in its queues: a local copy if its bit is set, and a copy on a link of each
branch of the tree; the slates of a branch that no link reaches get copies of their own (R230, R237). -/
def mcastArrive (s : State) (f : Frame) : State :=
  let hops := mcastHops s.n f.home f.slate f.mask
  let outs := hops.filterMap fun p => (linkTo s f p.1).map fun l => (10 + l, 0)
  let cut := hops.filter fun p => (linkTo s f p.1).isNone
  let loc := if bitOf f.mask f.slate then [(f.dstPort, f.dstSub)] else []
  let s := if (loc ++ outs).isEmpty then s else bufferFrame s { f with outs := loc ++ outs }
  cut.foldl (fun s p => (bitList p.2 8).foldl (fun s x => mcastAlone s f x) s) s

/-- Send one frame to a set of slates (R237). -/
def sendMulticast (s : State) (f : Frame) : State :=
  let g := s.nextFrame
  let m := maskOf (bitList f.mask s.n)
  let mc : Mcast := { slate := f.slate, left := (bitList m 8).length, result := 0 }
  let s := { s with mcast := tabPut s.mcast g mc, nextFrame := s.nextFrame + 1 }
  mcastArrive s { f with mask := m, group := some g, home := f.slate, tver := getF s f.slate F.SWITCH.TVER }

/-! ### Entering the buffer (R226, R231) -/

/-- A complete frame enters the buffer: a multicast frame takes its tree (R237), a unicast frame its path (R226); one for a lost
slate is discarded (R235). -/
def enterFrame (s : State) (f : Frame) : State :=
  if f.mask ≠ 0 then sendMulticast s f
  else if tabHas s.lost f.dst then bump s f.slate F.SWITCH.LOST_DEST_DROPS
  else match lookup s f with
    | none => bump s f.slate F.SWITCH.LOST_DEST_DROPS
    | some f => bufferFrame s f

/-- Whether an internal block's frame, number `id`, must stay in its block (R231): its port and class have no room for it, or an
earlier frame of them stays. Nothing goes before an abort outcome (R151). -/
def mustStall (s : State) (id : Nat) (f : Frame) : Bool :=
  !fits s f.slate f.inPort f.cls (cellsOf f.bytes) ||
    (!(match f.dgram with | some d => d.flags.getLsbD 1 | none => false) &&
      s.frames.any fun x => decide (x.1 < id) && x.2.stalled && x.2.slate == f.slate && x.2.inPort == f.inPort &&
        x.2.cls == f.cls)

/-- Admit a frame from an internal block: it stalls with its block while the port and class are at their limit (R231). -/
def admitInternal (s : State) (f : Frame) : State :=
  if mustStall s s.nextFrame f then (addFrame s { f with stalled := true }).1 else enterFrame s f

/-- Hand over the frames that internal blocks of a slate still hold, abort outcomes first and then in order, where their port and
class have room again (R151, R231).
DEDUCED (log entry 41). -/
def unstall (s : State) (sl : Nat) : State :=
  let l := keysWhere s.frames fun f => f.slate == sl && f.stalled
  (l.filter (isOutcome s) ++ l.filter fun id => !isOutcome s id).foldl (fun s id =>
    match tabGet s.frames id with
    | none => s
    | some f =>
      if mustStall s id f then s
      else enterFrame { s with frames := tabDel s.frames id } { f with stalled := false }) s

/-- Free a frame whose last copy has left the slate (R231, R237). -/
def freeFrame (s : State) (id : Nat) : State :=
  match tabGet s.frames id with
  | none => s
  | some f => updatePause (unstall { s with frames := tabDel s.frames id } f.slate) f.slate

/-- Take one copy off a frame; the frame is freed with its last (R237). -/
def dropCopy (s : State) (id : Nat) (o : Nat × Nat) : State :=
  match tabGet s.frames id with
  | none => s
  | some f =>
    match f.outs.erase o with
    | [] => freeFrame s id
    | r => { s with frames := tabPut s.frames id { f with outs := r } }

/-- Remove a frame from one queue. -/
def unqueue (s : State) (sl p sub c id : Nat) : State :=
  let o := outOf s sl p sub
  let q := queueOf o c
  let q' := { q with frames := q.frames.filter (· != id),
                     headF := if q.frames.head? = some id then none else q.headF }
  putOut s sl p sub (restTags s sl p (tagHead s sl p c (putQueue o c q')))

/-- Whether a frame is a multicast that still follows its tree. -/
def isTree (f : Frame) : Bool := f.mask != 0 && f.path.isEmpty

/-- The slates that the branch of a multicast's tree behind an output serves. -/
def branchMask (s : State) (f : Frame) (o : Nat × Nat) : Nat :=
  if portKind o.1 = 3 then
    (((mcastHops s.n f.home f.slate f.mask).find? fun h => h.1 == linkNeigh s.n f.slate (o.1 - 10)).map (·.2)).getD 0
  else 2 ^ f.slate

/-- Every copy that a frame still stands for is settled as discarded (R237). -/
def settleFrame (s : State) (f : Frame) : State :=
  if isTree f then
    f.outs.foldl (fun s o => (bitList (branchMask s f o) 8).foldl (fun s x => settleCopy s f.group x false) s) s
  else settleCopy s f.group f.dst false

/-- Discard a frame from every queue it stands in (R235). -/
def discardFrame (s : State) (id : Nat) : State :=
  match tabGet s.frames id with
  | none => s
  | some f =>
    let s := f.outs.foldl (fun s o => unqueue s f.slate o.1 o.2 f.cls id) s
    freeFrame (settleFrame s f) id

end Sys2Proof.Machine
end

