-- ==== Sys2Proof/Machine/Transport.lean ====
section
/-! DEFINITION. Sending a BIRL datagram: its header, its seal and its way to a network output (R104 to R107, R113, R114). -/

namespace Sys2Proof.Machine

/-! ### Datagram types (R107) -/

/-- COMMAND. -/
def tyCommand : BitVec 4 := 1
/-- DATA. -/
def tyData : BitVec 4 := 2
/-- RESPONSE. -/
def tyResponse : BitVec 4 := 3
/-- RMA_REQ. -/
def tyRmaReq : BitVec 4 := 4
/-- RMA_RESP. -/
def tyRmaResp : BitVec 4 := 5
/-- ABORT. -/
def tyAbort : BitVec 4 := 6
/-- EVENT. -/
def tyEvent : BitVec 4 := 7
/-- BUSY. -/
def tyBusy : BitVec 4 := 8
/-- READY. -/
def tyReady : BitVec 4 := 9

/-- The unit's own address; 0xFFFF while it has none (R106, R310). -/
def ownUa (s : State) : BitVec 16 := s.chain.ua

/-- The slate field of an HQ or window number: bits [19:17] (R11). -/
def hqSlate (q : Nat) : Nat := q / 2 ^ 17 % 8

/-- The index of an HQ or window number within its slate. -/
def hqIndex (q : Nat) : Nat := q % 2 ^ 17

/-- The 48 header bytes of a datagram (R106), every field in network byte order. -/
def headerBytes (d : OutDatagram) : Block :=
  [BitVec.ofNat 8 (0x10 + d.type.toNat), d.flags] ++ beBytes 2 d.payload.length ++ beBytes 2 d.dstUa.toNat ++
    beBytes 2 d.srcUa.toNat ++ beBytes 4 d.host.toNat ++ beBytes 4 d.hqTag.toNat ++ beBytes 8 d.nonce.toNat ++
    beBytes 4 d.keyId.toNat ++ beBytes 2 d.slot.toNat ++ beBytes 2 d.status.toNat ++ beBytes 8 d.offset.toNat ++
    beBytes 8 d.check.toNat

/-- The 48 header bytes of a received datagram as it was sent (R106). -/
def rxHeader (d : Datagram) : Block :=
  [BitVec.ofNat 8 (d.ver.toNat * 16 + d.type.toNat), d.flags] ++ beBytes 2 d.length.toNat ++ beBytes 2 d.dstUa.toNat ++
    beBytes 2 d.srcUa.toNat ++ beBytes 4 d.host.toNat ++ beBytes 4 d.hqTag.toNat ++ beBytes 8 d.nonce.toNat ++
    beBytes 4 d.keyId.toNat ++ beBytes 2 d.slot.toNat ++ beBytes 2 d.status.toNat ++ beBytes 8 d.offset.toNat ++
    beBytes 8 d.check.toNat

/-- The UDP payload of a datagram as it leaves: the header, then the payload or its ciphertext and tag (R104, R113). -/
def wireBytes (d : OutDatagram) : Block := headerBytes d ++ (if d.flags.toNat % 2 = 1 then d.sealed else d.payload)

/-- The key of a key-table entry of a slate (R111). -/
def keyKey (sl idx : Nat) : Nat := sl * 65536 + idx

/-- A key-table entry of a slate. -/
def keyOf (s : State) (sl idx : Nat) : Option KeyEntry := if idx = 0 then none else tabGet s.keys (keyKey sl idx)

/-- The key index of a KEY_ID (R106). -/
def keyIndex (k : BitVec 32) : Nat := k.toNat / 65536

/-- The KEY_ID of an index and generation (R106). -/
def keyIdOf (idx gen : Nat) : BitVec 32 := BitVec.ofNat 32 (idx * 65536 + gen % 256 * 256)

/-- Whether an entry seals: MODE SEAL or BOTH (R111). -/
def keySeals (k : KeyEntry) : Bool := k.mode == 1 || k.mode == 2

/-- The IV of a datagram under a key (R113): `dir` holds the direction bit and the slate bits, 0 from an initiator; then the
sequence. -/
def sealIv (k : KeyEntry) (dir sequence : Nat) : Block :=
  beBytes 4 (k.salt.toNat % 2 ^ 28 + dir * 2 ^ 28) ++ beBytes 8 sequence

/-- The direction and slate bits of what a slate sends (R113). -/
def txDir (sl : Nat) : Nat := 8 + sl % 8

/-- The additional authenticated data of a header (R113). -/
def sealAad (k : KeyEntry) (header : Block) : Block :=
  header ++ (if k.mode = 2 then beBytes 8 k.check.toNat else [])

/-- Step 7 of R108 for a sealed datagram: its sequence is below 2^48 and its tag authenticates it (R113, R114). -/
def authentic (k : KeyEntry) (d : Datagram) : Bool :=
  decide (d.check.toNat < 2 ^ 48) &&
    gcmAuthentic k.aes (sealIv k 0 d.check.toNat) (sealAad k (rxHeader d)) d.payload d.tag

/-- A datagram decrypted under its key (R108 step 7, R113). -/
def opened (k : KeyEntry) (d : Datagram) : Datagram :=
  if keySeals k then { d with payload := gcmOpen k.aes (sealIv k 0 d.check.toNat) d.payload } else d

/-- The largest payload of one datagram, P_MAX (R105). -/
def pMax (s : State) (sl : Nat) (ipv4 sealed : Bool) : Nat :=
  min 8192 ((getF s sl F.PORT.MTU - (if ipv4 then 20 else 40) - 8 - 48 - (if sealed then 16 else 0)) / 64 * 64)

/-- The bytes of the Ethernet frame of a datagram, with its 802.1Q tag and FCS (R223, R243). -/
def frameBytes (d : OutDatagram) : Nat :=
  d.payload.length + 48 + 8 + (if d.ipv4 then 20 else 40) + 22 + (if d.flags.toNat % 2 = 1 then 16 else 0)

/-- A datagram with nothing in it, to fill in. -/
def blankDgram (sl cls : Nat) (type : BitVec 4) : OutDatagram :=
  { slate := sl, cls := cls, dscp := 0, ipv4 := false, srcMac := 0, mac := none, gateway := 0, source := 0, dest := 0, type := type, flags := 0, dstUa := 0xFFFF, srcUa := 0,
    host := 0, hqTag := 0, nonce := 0, keyId := 0, slot := 0, status := 0, offset := 0, check := 0, payload := [],
    sealed := [] }

/-- The sub-port a datagram of a slate leaves by: the lowest that has link.
DEDUCED (log entry 47). -/
def sendSub (s : State) (sl : Nat) : Nat := ((List.range 8).find? (bitOf (getF s sl F.PORT.LINK_UP))).getD 0

/-- The switch-core frame that carries a datagram from the transport block to the network output of its slate. -/
def dgramFrame (s : State) (d : OutDatagram) (job : Option Nat) : Frame :=
  { slate := d.slate, inPort := 2, cls := d.cls, bytes := frameBytes d, outs := [], path := [], lane := 0,
    key := if d.type = tyEvent ∨ d.type = tyReady then flowKey d.cls d.slate d.slate 5 0
      else flowKey d.cls d.slate d.slate 0 (d.hqTag.toNat / 4096)
    dst := d.slate, dstPort := 0, dstSub := sendSub s d.slate,
    home := d.slate, tver := getF s d.slate F.SWITCH.TVER, entry := 2, head := 0, waiting := false, stalled := false, mask := 0,
    group := none, dgram := some d, job := job }

/-- An IP address and the unit's UDP port on a slate, as one number (R104). -/
def withPort (s : State) (sl ip : Nat) : Nat := ip * 2 ^ 16 + getF s sl F.XPORT.UDP_PORT

/-- The IPv6 address of a slate: the global one, or the link-local one where it has none (R130). -/
def slateIp6 (s : State) (sl : Nat) : Nat :=
  let a := getF s sl F.PORT.IP6_HI * 2 ^ 64 + getF s sl F.PORT.IP6_LO
  if a = 0 then Config.linkLocal (Config.macBase sl) else a

/-- The domain address of a slate of the unit with an address and bay (R311). -/
def domainIp (s : State) (ua : BitVec 16) (bay sl : Nat) : Nat :=
  s.durable.prefix6.toNat * 2 ^ 64 + ua.toNat * 2 ^ 16 + bay * 2 ^ 8 + sl

/-- Whether a network port answers to an IP address (R130, R311). -/
def answersTo (s : State) (sl : Nat) (ipv4 : Bool) (a : Nat) : Bool :=
  if ipv4 then a == getF s sl F.PORT.IP4
  else a == slateIp6 s sl || (s.durable.domEn && s.chain.uaValid && a == domainIp s (ownUa s) s.lease.bay sl) ||
    a == Config.linkLocal (Config.macBase sl)

/-- What the encapsulation of a datagram holds (R104, R125, R130): the unit's address, the addresses and UDP port of its slate and
sub-port, the DSCP of its class, and the gateway of its IP version where it is no answer. -/
def encapsulate (s : State) (d : OutDatagram) : OutDatagram :=
  let sl := d.slate
  { d with
    srcUa := ownUa s
    dscp := getF s sl (F.PORT.DSCP d.cls)
    srcMac := Config.macBase sl + BitVec.ofNat 48 (sendSub s sl)
    source := withPort s sl (if d.ipv4 then getF s sl F.PORT.IP4 else slateIp6 s sl)
    gateway :=
      if d.mac.isSome then 0
      else if d.ipv4 then getF s sl F.PORT.GW4
      else getF s sl F.PORT.GW6_HI * 2 ^ 64 + getF s sl F.PORT.GW6_LO }

/-- Send a datagram under its KEY_ID (R107, R113, R114, R123): sealed with the next sequence of the key on the sending
slate, or unsealed with the check value it carries. Nothing is sent under a key whose sequence is spent; the answer
says whether this datagram spent it. -/
def sendRaw (s : State) (d : OutDatagram) (job : Option Nat) : State × Bool :=
  let d := encapsulate s d
  match keyOf s d.slate (keyIndex d.keyId) with
  | none => (admitInternal s (dgramFrame s d job), false)
  | some k =>
    if keySeals k then
      let kk := keyKey d.slate (keyIndex d.keyId)
      let sequence := tabGetD s.keySeq kk 0
      if 2 ^ 48 ≤ sequence then (s, false)
      else
        let d := { d with flags := d.flags ||| 1, check := BitVec.ofNat 64 sequence }
        let d := { d with sealed := gcmSeal k.aes (sealIv k (txDir d.slate) sequence) (sealAad k (headerBytes d)) d.payload }
        let s := { s with keySeq := tabPut s.keySeq kk (sequence + 1) }
        (admitInternal s (dgramFrame s d job), sequence + 1 == 2 ^ 48)
    else (admitInternal s (dgramFrame s d job), false)

end Sys2Proof.Machine
end

