-- ==== Sys2Proof/Machine/Events.lean ====
section
/-! DEFINITION. Detectors, the fault quad, events and their forwarding to hosts (R38, R84 to R87, R128, R315 to R317, R323
to R326). -/

namespace Sys2Proof.Machine

/-! ### FIRST (R86) -/

/-- Offer an occurrence to FIRST; the answer says whether FIRST captured it.
DEDUCED (log entry 44). -/
def offerFirst (s : State) (sl sp k : Nat) (inj : Bool) (detail : List Word) : State × Bool :=
  let held := isF s sl (F.F_VALID sp)
  let take := !held || (!inj && isF s sl (F.F_INJ sp))
  if take then
    let s := setF s sl (F.F_SRC sp) k
    let s := setF s sl (F.F_VALID sp) 1
    let s := setF s sl (F.F_INJ sp) inj.toNat
    let s := setF s sl (F.F_MORE sp) held.toNat
    let s := setF s sl (F.F_TB sp) (now s sl)
    ((List.range 4).foldl (fun s i => setF s sl (F.DETAIL sp i) (detail.getD i 0).toNat) s, true)
  else (setF s sl (F.F_MORE sp) 1, false)

/-- Clear a capture (R84 F_VALID). -/
def clearFirst (s : State) (sl sp : Nat) : State :=
  let s := putEntry s sl sp 0xF03 0
  (List.range 4).foldl (fun s i => setF s sl (F.DETAIL sp i) 0) s

/-! ### Events (R38, R128) -/

/-- PEND of an event's subscription group. -/
def fPend (e : Nat) : Fld := F.ENGINE.PEND (e / 4) (e % 4)
/-- MODE of an event's subscription group. -/
def fMode (e : Nat) : Fld := F.ENGINE.MODE (e / 4) (e % 4)
/-- TARGET of an event's subscription group. -/
def fTarget (e : Nat) : Fld := F.ENGINE.TARGET (e / 4) (e % 4)
/-- FWD of an event's subscription group. -/
def fFwd (e : Nat) : Fld := F.ENGINE.FWD (e / 4) (e % 4)

/-- The key of an event in `State.evPend`. -/
def evKey (sl e : Nat) : Nat := sl * 2048 + e

/-- The occurrence pending for an event. -/
def occOf (s : State) (sl e : Nat) : Option Occurrence := tabGet s.evPend (evKey sl e)

/-- An occurrence of an event as its subscription group and the launch entry it names now stand (R38, R46).
DEDUCED (log entry 116). -/
def occurrence (s : State) (sl e : Nat) : Occurrence :=
  let k := getF s sl (fTarget e)
  { tb := now s sl, mode := getF s sl (fMode e), target := k, slot := getF s sl (F.ENGINE.L_SLOT (k % 16)) }

/-- Act on the subscription group of an event: merge with a pending occurrence, or set PEND and keep the
occurrence (R38). What MODE then starts is done by EVW (R39) and by a launch (R40), which look at the pending occurrence. The
answer says whether the occurrence merged. -/
def pendEvent (s : State) (sl e : Nat) : State × Bool :=
  if isF s sl (fPend e) then (bump s sl F.ENGINE.EV_MERGED, true)
  else ({ setF s sl (fPend e) 1 with evPend := tabPut s.evPend (evKey sl e) (occurrence s sl e) }, false)

/-- The payload of an EVENT (R128). -/
def eventPayload (s : State) (sl e : Nat) (inj merged captured : Bool) : Block :=
  beBytes 2 e ++ beBytes 1 sl ++ beBytes 1 ((detClass e).getD 0) ++ beBytes 1 (inj.toNat + 2 * merged.toNat) ++
    beBytes 3 0 ++ beBytes 8 (now s sl) ++
    (if captured then (List.range 4).flatMap fun i => beBytes 8 (getF s sl (F.DETAIL (e / 64) i))
     else beBytes 32 0)

/-- The forwarding record of destination `i` of a slate. -/
def fwdOf (s : State) (sl i : Nat) : EvFwd := tabGetD s.evFwd (sl * 16 + i) { seq := 0, last := none }

/-- Offer an occurrence to one enabled destination (R128). The sequence is consumed whether the EVENT is sent or counted
in EV_DROPPED.
The answer names the sending slate where the EVENT spent the key (R114).
DEDUCED (log entry 49). -/
def forwardOne (s : State) (sl i : Nat) (payload : Block) : State × Option Nat :=
  if !isF s sl (F.XPORT.EV_EN i) then (s, none)
  else
    let r := fwdOf s sl i
    let t := now s sl
    let hq := getF s sl (F.XPORT.EV_HQ i)
    let gap := getF s sl (F.XPORT.EV_GAP i) * us
    let near := match r.last with | some l => decide (t < l + gap) | none => false
    let drop := { bump s sl F.XPORT.EV_DROPPED with evFwd := tabPut s.evFwd (sl * 16 + i) { r with seq := r.seq + 1 } }
    match tabGet s.queues hq with
    | none => (drop, none)
    | some q =>
      match q.ret with
      | none => (drop, none)
      | some a =>
        if near then (drop, none)
        else
          let k := keyOf s (hqSlate hq) q.key
          let seals := match k with | some k => keySeals k | none => false
          let d := { blankDgram (hqSlate hq) 7 tyEvent with
            ipv4 := a.ipv4, dest := a.source, host := q.host,
            hqTag := BitVec.ofNat 32 (hq * 4096),
            keyId := if seals then keyIdOf q.key (match k with | some k => k.gen.toNat | none => 0) else 0,
            offset := r.seq, payload := payload }
          let s := { s with evFwd := tabPut s.evFwd (sl * 16 + i) { seq := r.seq + 1, last := some t } }
          let (s, spent) := sendRaw s d none
          (s, if spent then some (hqSlate hq) else none)

/-- Forward an occurrence to every enabled destination of the slate that raised it (R128); the answer lists the slates on which an
EVENT spent a key. -/
def forward (s : State) (sl e : Nat) (inj merged captured : Bool) : State × List Nat :=
  (List.range 16).foldl (fun p i =>
    let (s, x) := forwardOne p.1 sl i (eventPayload p.1 sl e inj merged captured)
    (s, p.2 ++ x.toList)) (s, [])

/-- An event occurs on a slate (R38), and the slates on which an EVENT spent a key. -/
def occur (s : State) (sl e : Nat) (inj captured : Bool) : State × List Nat :=
  let (s, merged) := pendEvent s sl e
  if isF s sl (fFwd e) then forward s sl e inj merged captured else (s, [])

/-! ### Detectors (R84, R316, R317, R323) -/

/-- A pin request: it starts or restarts the pulse on slate 0 (R323). -/
def pinRequest (s : State) : State :=
  bump { s with pin := { s.pin with pulse := some (now s 0 + getF s 0 F.FPIN.PULSE_US * us) } } 0 F.FPIN.PULSES

/-- Whether a detector is masked (R84, R317): only classes 0 to 2 can be. -/
def masked (s : State) (sl sp k : Nat) : Bool := bitOf (getF s sl (F.MASK sp)) k

/-- Record an occurrence of detector `k` of space `sp` on slate `sl` (R316): STAT; unless masked, the event and FIRST and
the pin request its class calls for; and FCNT for a real one. The answer lists the slates on which an EVENT spent a key. -/
def recordHit (s : State) (sl sp k : Nat) (inj : Bool) (detail : List Word) : State × List Nat :=
  let e := eventNo sp k
  let c := (detClass e).getD 0
  let f := if inj then F.STAT_INJ sp else F.STAT_REAL sp
  let s := setF s sl f (getF s sl f ||| 2 ^ k)
  let s := if inj then s
    else if c = 1 then bump s sl F.FPIN.C1_COUNT
    else if c = 2 then bump s sl F.FPIN.C2_COUNT
    else if c = 3 then bump s sl F.FPIN.C3_COUNT else s
  if masked s sl sp k then (s, [])
  else
    let (s, cap) := offerFirst s sl sp k inj detail
    let (s, l) := occur s sl e inj cap
    (if 1 ≤ c ∧ c ≤ 3 ∧ getF s 0 F.FPIN.PULSE_CLASS ≤ c then pinRequest s else s, l)

/-- Report the keys that EVENTs have spent (R114): KEY_SPENT may itself be forwarded. A key is spent once, so the number of keys
bounds the reports. -/
def reportSpent : Nat → State → List Nat → State
  | 0, s, _ => s
  | _ + 1, s, [] => s
  | n + 1, s, sl :: r =>
    let x := recordHit s sl (Ev.KEY_SPENT / 64) (Ev.KEY_SPENT % 64) false []
    reportSpent n x.1 (r ++ x.2)

/-- An event occurs on a slate (R38). -/
def raiseWith (s : State) (sl e : Nat) (inj captured : Bool) : State :=
  let (s, l) := occur s sl e inj captured
  reportSpent s.keys.length s l

/-- An event whose source is no fault occurs. -/
def raise (s : State) (sl e : Nat) : State := raiseWith s sl e false false

/-! ### Reset shadows (R324, R325) -/

/-- Whether an open shadow of this kind holds off detector event `e` on slate `sl`; `arg` is the port, link or sub-port
the hit is at. -/
def shadowCovers (n : Nat) (sh : Shadow) (sl e arg : Nat) : Bool :=
  match sh.kind with
  | .fabric l =>
    let peer := linkNeigh n sh.slate l
    let pl := peerLink n l
    (e == Ev.CELL_UNCORR && ((sl == sh.slate && arg == 10 + l) || (sl == peer && arg == 10 + pl))) ||
      (e == Ev.FLINK_RETRY && sl == peer && arg == pl)
  | .partner => e == Ev.CELL_UNCORR && sl == sh.slate && arg == 14
  | .network k =>
    (e == Ev.HDRM_OVF || e == Ev.PEER_PAUSE) && sl == sh.slate && arg == 0 ||
      (e == Ev.FEC_UNCORR && sl == sh.slate && arg == k)

/-- Whether any open shadow holds a hit off (R325). -/
def heldOff (s : State) (sl e arg : Nat) : Bool := s.pin.shadows.any fun p => shadowCovers s.n p.2 sl e arg

/-- Open a reset shadow on a slate (R324). -/
def openShadow (s : State) (kind : ShadowKind) (sl limitUs : Nat) : State :=
  let t := now s sl
  let sh : Shadow := { kind := kind, slate := sl, opened := t, limit := t + limitUs * us }
  let id := (tabFree s.pin.shadows 0 4096).getD 4096
  bump { s with pin := { s.pin with shadows := tabPut s.pin.shadows id sh } } sl F.FPIN.SHADOWS

/-! ### Hits (R84, R325) -/

/-- Record an occurrence of a detector and what its EVENTs spent. -/
def recordDet (s : State) (sl sp k : Nat) (inj : Bool) (detail : List Word) : State :=
  let (s, l) := recordHit s sl sp k inj detail
  reportSpent s.keys.length s l

/-- A detector is hit for a real cause at port, link or sub-port `arg`: counted in SHADOWED while a shadow holds it off
(R325), recorded otherwise. -/
def detectAt (s : State) (sl e arg : Nat) (detail : List Word) : State :=
  if heldOff s sl e arg then
    let s := bump s sl F.FPIN.SHADOWED
    { s with pin := { s.pin with heldOff := s.pin.heldOff ++ [(sl, e, arg)] } }
  else recordDet s sl (e / 64) (e % 64) false detail

/-- A detector is hit for a real cause. -/
def detect (s : State) (sl e : Nat) (detail : List Word) : State := detectAt s sl e 0xFFFF detail

/-! ### Performance counters (R329 to R331) -/

/-- Counter sources (R331). -/
def srcInstrJob : Nat := 0x01
def srcInstrHk : Nat := 0x02
def srcStallM : Nat := 0x03
def srcDispatch : Nat := 0x04
def srcSuspend : Nat := 0x05
def srcDcMiss : Nat := 0x06
def srcIcMiss : Nat := 0x07
def srcScAccess : Nat := 0x08
def srcScMiss : Nat := 0x09
def srcHbmLines : Nat := 0x0A
def srcFabCells : Nat := 0x0B
def srcNetRx : Nat := 0x0C
def srcNetTx : Nat := 0x0D
def srcCmdAdmit : Nat := 0x0E
def srcCmdResp : Nat := 0x0F
def srcGrains : Nat := 0x10
def srcStrips : Nat := 0x11
def srcDrvCmds : Nat := 0x12

/-- Add to counter `k` of a slate; passing 2^48 - 1 wraps it, sets OVF and raises CNT_WRAP (R329). -/
def addCounter (s : State) (sl k inc : Nat) : State :=
  let v := getF s sl (F.PERF.VALUE k) + inc
  let s := setF s sl (F.PERF.VALUE k) v
  if 2 ^ 48 ≤ v then raise (setF s sl (F.PERF.OVF k) 1) sl Ev.CNT_WRAP else s

/-- A source presents `v` in one cycle (R329): level counters add it, edge counters add 1 for an episode.
DEDUCED (log entry 52). -/
def countSrc (s : State) (sl src v : Nat) : State :=
  if v = 0 then s
  else (List.range 16).foldl (fun s k =>
    if isF s sl (F.PERF.EN k) && getF s sl (F.PERF.SRC k) == src then
      addCounter s sl k (if isF s sl (F.PERF.MODE k) then 1 else v)
    else s) s

/-- Send a datagram (R107); a key whose sequence it spent is reported (R114). -/
def send (s : State) (d : OutDatagram) (job : Option Nat) : State :=
  let (s, spent) := sendRaw s d job
  if spent then detect s d.slate Ev.KEY_SPENT [] else s

end Sys2Proof.Machine
end

