-- ==== Sys2Proof/Machine/Cache.lean ====
section
/-! DEFINITION. The slate cache, its victim buffer and the engine data caches (R273 to R282). The caches are coherent, so
the bytes themselves are held once, in `State.hbm`; here are the lines each cache holds, their dirtiness, presence and
replacement state. -/

namespace Sys2Proof.Machine

/-- The slate-cache set of a line number (R273). -/
def scSet (x : Nat) : Nat := (x % 32768) ^^^ (x / 32768 % 32768)

/-- The key of a slate-cache way. -/
def scKey (sl set way : Nat) : Nat := (sl * 32768 + set) * 16 + way

/-- The line in a slate-cache way. -/
def scLine (s : State) (sl set way : Nat) : Option Line := tabGet s.scLines (scKey sl set way)

/-- Whether slate-cache way `w` is enabled. -/
def scWayOn (s : State) (sl w : Nat) : Bool := !bitOf (getF s sl F.MEM.SC_WAY_DIS) w

/-- The way that holds a line. -/
def scFind (s : State) (sl x : Nat) : Option Nat :=
  (List.range 16).find? fun w => match scLine s sl (scSet x) w with
    | some l => l.line == x
    | none => false

/-- The key of an engine of the unit. -/
def engKey (sl e : Nat) : Nat := sl * 48 + e

/-- The engine-cache set of a MEM address (R273). -/
def dcSet (a : Nat) : Nat := a / 64 % 128

/-- The key of an engine data-cache way. -/
def dcKey (eng set way : Nat) : Nat := (eng * 128 + set) * 8 + way

/-- Whether data-cache way `w` of an engine is enabled. -/
def dcWayOn (s : State) (sl e w : Nat) : Bool := !bitOf (getF s sl (F.MEM.DC_WAY_DIS e)) w

/-- Whether an engine's data cache is in use (R280, R282). -/
def dcOn (s : State) (sl e : Nat) : Bool := isF s sl F.MEM.DC_EN && !isF s sl (F.MEM.DC_BYPASS e)

/-- The data-cache way of an engine that holds the line of an address. -/
def dcFind (s : State) (sl e a : Nat) : Option Nat :=
  (List.range 8).find? fun w => tabGet s.dcLines (dcKey (engKey sl e) (dcSet a) w) == some (a / 64)

/-- The way a tree of seven bits points to (R274): bit 0 selects the lower half. Nodes are numbered 0 for the root, then
1 and 2, then 3 to 6. -/
def treeVictim (t : BitVec 8) : Nat :=
  let b0 := (bitOf t.toNat 0).toNat
  let b1 := (bitOf t.toNat (1 + b0)).toNat
  let b2 := (bitOf t.toNat (3 + 2 * b0 + b1)).toNat
  4 * b0 + 2 * b1 + b2

/-- Point every node on the path to a way away from it (R274). -/
def treeTouch (t : BitVec 8) (w : Nat) : BitVec 8 :=
  let h := w / 4
  let q := w / 2 % 2
  let l := w % 2
  let put (x : Nat) (k b : Nat) : Nat := x - (x / 2 ^ k % 2) * 2 ^ k + b * 2 ^ k
  BitVec.ofNat 8 (put (put (put t.toNat 0 (1 - h)) (1 + h) (1 - q)) (3 + 2 * h + q) (1 - l))

/-- Mark a data-cache way as used. -/
def dcTouch (s : State) (sl e set w : Nat) : State :=
  let k := engKey sl e * 128 + set
  { s with dcTree := tabSet 0 s.dcTree k (treeTouch (tabGetD s.dcTree k 0) w) }

/-- The way a fill of a data-cache set uses (R274). -/
def dcVictim (s : State) (sl e set : Nat) : Nat :=
  let k := engKey sl e
  match (List.range 8).find? fun w => dcWayOn s sl e w && !tabHas s.dcLines (dcKey k set w) with
  | some w => w
  | none =>
    let v := treeVictim (tabGetD s.dcTree (k * 128 + set) 0)
    ((List.range 8).map fun i => (v + i) % 8).find? (dcWayOn s sl e) |>.getD v

/-- Invalidate a line in every engine data cache of the slates of a mask, other than the writer's engine (R276). -/
def snoop (s : State) (mask line : Nat) (but : Option Nat) : State :=
  { s with dcLines := s.dcLines.filter fun p =>
      !(p.2 == line && bitOf mask (p.1 / 1024 / 48) && !(but == some (p.1 / 1024))) }

/-- The presence vector of a line as a fill finds it: the slates whose engine caches may already hold the line, because
they took it from the victim buffer or past a cache that was not allocating (R276). -/
def presenceOf (s : State) (line : Nat) : BitVec 8 :=
  (s.dcLines.filter fun p => p.2 == line).foldl (fun m p => m ||| BitVec.ofNat 8 (2 ^ (p.1 / 1024 / 48))) 0

/-- A line of the victim buffer drains to HBM, oldest first (R273). -/
def victimDrain (s : State) (sl : Nat) : State :=
  match tabGetD s.victim sl [] with
  | [] => s
  | _ :: r =>
    let s := countSrc s sl srcHbmLines 1
    { s with victim := if r.isEmpty then tabDel s.victim sl else tabPut s.victim sl r }

/-- Put an evicted dirty line in the victim buffer; a full buffer drains its oldest line first (R273, R278). -/
def toVictim (s : State) (sl : Nat) (l : Line) : State :=
  let s := if 256 ≤ (tabGetD s.victim sl []).length then victimDrain s sl else s
  { s with victim := tabPut s.victim sl (tabGetD s.victim sl [] ++ [l]) }

/-- Evict a slate-cache way (R276): invalidate the line's engine copies, and buffer it if dirty. -/
def scEvict (s : State) (sl set way : Nat) : State :=
  match scLine s sl set way with
  | none => s
  | some l =>
    let s := snoop s l.presence.toNat (sl * 2 ^ 31 + l.line) none
    let s := { s with scLines := tabDel s.scLines (scKey sl set way) }
    if l.dirty then toVictim s sl l else s

/-- The next LFSR state (R275). -/
def lfsrNext (x : BitVec 32) : BitVec 32 :=
  let b (k : Nat) := (bitOf x.toNat k).toNat
  BitVec.ofNat 32 (x.toNat * 2 + (b 31 + b 21 + b 1 + b 0) % 2)

/-- The LFSR of a slate cache, 1 + slate index after reset (R275). -/
def lfsrOf (s : State) (sl : Nat) : BitVec 32 := tabGetD s.scLfsr sl (BitVec.ofNat 32 (1 + sl))

/-- Make room for a fill in a set: the way to use, evicting where every enabled way is valid (R275). -/
def scRoom (s : State) (sl set : Nat) : State × Nat :=
  match (List.range 16).find? fun w => scWayOn s sl w && (scLine s sl set w).isNone with
  | some w => (s, w)
  | none =>
    let x := lfsrNext (lfsrOf s sl)
    let c := x.toNat % 16
    let w := (((List.range 16).map fun i => (c + i) % 16).find? (scWayOn s sl)).getD c
    (scEvict { s with scLfsr := tabPut s.scLfsr sl x } sl set w, w)

/-- SC_STATE of a slate (R280): 0 DISABLED, 1 ENABLED, 2 DRAINING, 3 BYPASSED. -/
def scState (s : State) (sl : Nat) : Nat := getF s sl F.MEM.SC_STATE

/-- A read or write of line `x` arrives at its home slate `sl` (R276 to R280). `from_` is the slate and engine whose
data cache will hold the line, if any; `but` is the writer's engine, which is not snooped. No frame
of class 5 is made for it.
DEDUCED (log entry 89). DESIGN CHOICE (log entry 130). -/
def homeAccess (s : State) (sl x : Nat) (write : Bool) (from_ : Option Nat) (but : Option Nat) : State :=
  let line := sl * 2 ^ 31 + x
  let pres : BitVec 8 := match from_ with | some k => BitVec.ofNat 8 (2 ^ (k / 48)) | none => 0
  let set := scSet x
  if scState s sl = 0 ∨ scState s sl = 3 then
    let s := countSrc s sl srcHbmLines 1
    if write then snoop s 0xFF line but else s
  else
    let s := countSrc s sl srcScAccess 1
    match scFind s sl x with
    | some w =>
      match scLine s sl set w with
      | none => s
      | some l =>
        let keep : BitVec 8 := match but with | some k => BitVec.ofNat 8 (2 ^ (k / 48)) &&& l.presence | none => 0
        let s := if write then snoop s l.presence.toNat line but else s
        let l := { l with dirty := l.dirty || write, presence := (if write then keep else l.presence) ||| pres }
        { s with scLines := tabPut s.scLines (scKey sl set w) l }
    | none =>
      if (tabGetD s.victim sl []).any (·.line == x) then if write then snoop s 0xFF line but else s
      else
      let s := countSrc (countSrc s sl srcScMiss 1) sl srcHbmLines 1
      if scState s sl = 2 then if write then snoop s 0xFF line but else s
      else
        let s := if write then snoop s 0xFF line but else s
        let (s, w) := scRoom s sl set
        { s with scLines := tabPut s.scLines (scKey sl set w)
                              { line := x, dirty := write, presence := presenceOf s line ||| pres } }

/-- A thread's read of the line at a MEM address, through its engine's data cache (R273, R276). -/
def engineRead (s : State) (sl e a : Nat) : State :=
  let home := memHome a
  let x := memOff a / 64
  let set := dcSet a
  if dcOn s sl e then
    match dcFind s sl e a with
    | some w => dcTouch s sl e set w
    | none =>
      let s := homeAccess (countSrc s sl srcDcMiss 1) home x false (some (engKey sl e)) none
      let w := dcVictim s sl e set
      dcTouch { s with dcLines := tabPut s.dcLines (dcKey (engKey sl e) set w) (a / 64) } sl e set w
  else homeAccess s home x false none none

/-- A thread's write of the line at a MEM address: write-through, no allocation in the engine cache (R273, R276). -/
def engineWrite (s : State) (sl e a : Nat) : State :=
  let s := match (if dcOn s sl e then dcFind s sl e a else none) with
    | some w => dcTouch s sl e (dcSet a) w
    | none => s
  homeAccess s (memHome a) (memOff a / 64) true none (some (engKey sl e))

/-- An atomic at the home slate: no engine cache holds it, and every copy is invalidated (R273, R276). -/
def atomicAccess (s : State) (a : Nat) : State := homeAccess s (memHome a) (memOff a / 64) true none none

/-! ### The engine instruction caches (R273, R274, R280) -/

/-- The key of an instruction-cache way. -/
def icKey (eng set way : Nat) : Nat := (eng * 128 + set) * 4 + way

/-- Whether an engine's instruction cache is in use (R280, R282). -/
def icOn (s : State) (sl e : Nat) : Bool := isF s sl F.MEM.IC_EN && !isF s sl (F.MEM.IC_BYPASS e)

/-- Whether instruction-cache way `w` of an engine is enabled. -/
def icWayOn (s : State) (sl e w : Nat) : Bool := !bitOf (getF s sl (F.MEM.IC_WAY_DIS e)) w

/-- The line of the program store that holds word `w` of a program version. -/
def icLine (prog w : Nat) : Nat := (Config.storeBase prog + 4 * w) / 64

/-- What an instruction-cache way holds of that line: the line, with the version it belongs to (R280). -/
def icTag (prog w : Nat) : Nat := prog * 2 ^ 32 + icLine prog w

/-- The instruction-cache way of an engine that holds a word of a program version. -/
def icFind (s : State) (sl e prog w : Nat) : Option Nat :=
  (List.range 4).find? fun x => tabGet s.icLines (icKey (engKey sl e) (icLine prog w % 128) x) == some (icTag prog w)

/-- The way a tree of three bits points to (R274): nodes 0 for the root, then 1 and 2. -/
def icTreeVictim (t : BitVec 8) : Nat :=
  let b0 := (bitOf t.toNat 0).toNat
  2 * b0 + (bitOf t.toNat (1 + b0)).toNat

/-- Point both nodes on the path to a way away from it (R274). -/
def icTreeTouch (t : BitVec 8) (w : Nat) : BitVec 8 :=
  let put (x : Nat) (k b : Nat) : Nat := x - (x / 2 ^ k % 2) * 2 ^ k + b * 2 ^ k
  BitVec.ofNat 8 (put (put t.toNat 0 (1 - w / 2)) (1 + w / 2) (1 - w % 2))

/-- The way a fill of an instruction-cache set uses (R274). -/
def icVictim (s : State) (sl e set : Nat) : Nat :=
  let k := engKey sl e
  match (List.range 4).find? fun w => icWayOn s sl e w && !tabHas s.icLines (icKey k set w) with
  | some w => w
  | none =>
    let v := icTreeVictim (tabGetD s.icTree (k * 128 + set) 0)
    ((List.range 4).map fun i => (v + i) % 4).find? (icWayOn s sl e) |>.getD v

/-- Count an instruction-cache miss, if there was one (R331). -/
def countIcMiss (s : State) (sl : Nat) (miss : Bool) : State :=
  (List.range 16).foldl (fun s k =>
    if isF s sl (F.PERF.EN k) && getF s sl (F.PERF.SRC k) == srcIcMiss && miss then addCounter s sl k 1 else s) s

/-- An engine fetches a word of a program through its instruction cache (R273, R274); `look` says that the fetch is not served by
the line just fetched. -/
def icFetch (s : State) (sl e prog w : Nat) (look : Bool) : State :=
  if !icOn s sl e then s
  else
    let set := icLine prog w % 128
    let hit := icFind s sl e prog w
    let way := hit.getD (icVictim s sl e set)
    let k := engKey sl e * 128 + set
    { countIcMiss s sl (look && hit.isNone) with
      icLines := if look then tabPut s.icLines (icKey (engKey sl e) set way) (icTag prog w) else s.icLines
      icTree := if look then tabSet 0 s.icTree k (icTreeTouch (tabGetD s.icTree k 0) way) else s.icTree }

/-- Invalidate the engine instruction caches of a slate (R280). -/
def icFlush (s : State) (sl : Nat) : State :=
  { s with icLines := s.icLines.filter fun p => !(p.1 / 512 / 48 == sl) }

/-! ### Invalidation -/

/-- Drop every line of an engine's data cache. -/
def dcFlushEngine (s : State) (sl e : Nat) : State :=
  { s with dcLines := s.dcLines.filter fun p => !(p.1 / 1024 == engKey sl e) }

/-- Invalidate the engine data caches of a slate (R280). -/
def dcFlush (s : State) (sl : Nat) : State :=
  { s with dcLines := s.dcLines.filter fun p => !(p.1 / 1024 / 48 == sl) }

/-- Evict every valid line of one slate-cache way (R282). -/
def scFlushWay (s : State) (sl w : Nat) : State :=
  (s.scLines.filter fun p => p.1 / 524288 == sl && p.1 % 16 == w).foldl
    (fun s p => scEvict s sl (p.1 / 16 % 32768) w) s

/-- The sweep of R280: every valid line is invalidated on the slates of its presence vector and in the slate cache, and
a dirty one moves to the victim buffer. -/
def scSweep (s : State) (sl : Nat) : State :=
  (s.scLines.filter fun p => p.1 / 524288 == sl).foldl
    (fun s p => scEvict s sl (p.1 / 16 % 32768) (p.1 % 16)) s

/-- A poisoned word is consumed by something on slate `sl` (R283). -/
def consumePoison (s : State) (sl a slot thread : Nat) : State :=
  let s := bump s sl F.MEM.CONSUMED
  detect s sl Ev.POISON_CONSUMED [BitVec.ofNat 64 (a / 8 * 8), BitVec.ofNat 64 (slot % 1024 + thread % 256 * 1024)]

end Sys2Proof.Machine
end

