-- ==== Sys2Proof/Machine/Perf.lean ====
section
/-! DEFINITION. The counter and sample rings and instruction sampling (R333 to R337). The commands are in PerfCmds.lean. -/

namespace Sys2Proof.Machine

/-- Write bytes through a home's slate cache (R276). -/
def homeWrite (s : State) (a : Nat) (b : Block) : State :=
  let first := memOff a / 64
  let lines := if b.isEmpty then 0 else (memOff a + b.length - 1) / 64 + 1 - first
  (List.range lines).foldl (fun s i => homeAccess s (memHome a) (first + i) true none none) (hbmWrite s a b)

/-- The fields that make a ring: base, log2 length, WP and RP. -/
structure Ring where
  base : Fld
  lenF : Fld
  wp   : Fld
  rp   : Fld
  size : Nat

/-- The counter ring (R333). -/
def counterRing : Ring := { base := F.PERF.RBASE, lenF := F.PERF.RLEN_LOG2, wp := F.PERF.WP, rp := F.PERF.RP, size := 192 }

/-- The sample ring (R337). -/
def sampleRing : Ring := { base := F.PERF.SBASE, lenF := F.PERF.SLEN_LOG2, wp := F.PERF.SWP, rp := F.PERF.SRP, size := 64 }

/-- The records a ring holds. -/
def ringLen (s : State) (sl : Nat) (r : Ring) : Nat := 2 ^ getF s sl r.lenF

/-- Records written and not yet consumed (R334). -/
def ringFill (s : State) (sl : Nat) (r : Ring) : Nat := (getF s sl r.wp + 2 ^ 32 - getF s sl r.rp) % 2 ^ 32

/-- Whether a ring overlaps the JOB heap as it stands (R333). -/
def ringInHeap (s : State) (sl : Nat) (r : Ring) : Bool :=
  let lo := getF s sl r.base * 4096
  let hi := lo + ringLen s sl r * r.size
  decide (lo < getF s sl F.ENGINE.HEAP_LIMIT * 2 ^ 20) && decide (getF s sl F.ENGINE.HEAP_BASE * 2 ^ 20 < hi)

/-- Write one record at WP, advance WP and raise the half-full event when the fill reaches half (R334, R335).
DEDUCED (log entry 135). -/
def ringPut (s : State) (sl : Nat) (r : Ring) (half : Nat) (b : Block) : State :=
  let at_ := memAddr sl (getF s sl r.base * 4096 + getF s sl r.wp % ringLen s sl r * r.size)
  let s := bump (homeWrite s at_ b) sl r.wp
  if ringFill s sl r * 2 = ringLen s sl r then raise s sl half else s

/-- The sampling state of a slate (R336): the LFSR is seeded with 0xACE1 + slate index. -/
def samplingOf (s : State) (sl : Nat) : Sampling :=
  tabGetD s.sampling sl { lfsr := BitVec.ofNat 16 (0xACE1 + sl), count := 0, tags := [], seq := 0 }

/-- Store a slate's sampling state. -/
def putSampling (s : State) (sl : Nat) (x : Sampling) : State := { s with sampling := tabPut s.sampling sl x }

/-- The next LFSR state: taps at bits 15, 13, 12 and 10 (R336). -/
def sampleLfsr (x : BitVec 16) : BitVec 16 :=
  let b (k : Nat) := (bitOf x.toNat k).toNat
  BitVec.ofNat 16 (x.toNat * 2 + (b 15 + b 13 + b 12 + b 10) % 2)

/-- The threshold of the next selection: PERIOD - s[5:0] (R336). -/
def sampleThreshold (s : State) (sl : Nat) : Nat :=
  getF s sl F.PERF.PERIOD - (samplingOf s sl).lfsr.toNat % 64

/-- Count one instruction that begins execution (R331, R336). -/
def countInsn (s : State) (sl : Nat) (hk : Bool) : State :=
  let s := countSrc s sl (if hk then srcInstrHk else srcInstrJob) 1
  if isF s sl F.PERF.SAMP_EN && (!hk || isF s sl F.PERF.SAMP_HK) then
    let x := samplingOf s sl
    putSampling s sl { x with count := x.count + 1 }
  else s

/-- The latency class of an instruction by its major opcode and minor field (R21): 0 for 1, 1 for 4, 2 for M, 3 for W. -/
def latencyClass (w : InsnWord) : Nat :=
  let m := w.toNat / 2 ^ 26
  let m := if m = 0x3F then w.toNat / 2 ^ 10 % 64 else m
  if m = 0x00 then (if 2 ≤ w.toNat % 2048 ∧ w.toNat % 2048 ≤ 4 then 1 else 0)
  else if m = 0x22 then (if w.toNat / 256 % 8 = 2 then 2 else 0)
  else if [0x14, 0x15, 0x16, 0x17, 0x18, 0x19, 0x1A, 0x1B, 0x1C, 0x1D, 0x1E, 0x20, 0x21, 0x24, 0x25, 0x27, 0x2D, 0x2E,
           0x31, 0x32, 0x33, 0x34].contains m then 2
  else if [0x23, 0x26, 0x28, 0x29, 0x2A, 0x2B, 0x2F, 0x36].contains m then 3
  else 0

/-- Whether an instruction returns a status under R53, by its major opcode. -/
def returnsStatus (w : InsnWord) : Bool :=
  [0x25, 0x26, 0x27, 0x28, 0x29, 0x2A, 0x2B, 0x31, 0x32, 0x33].contains (w.toNat / 2 ^ 26)

/-- The CLK_E cycles a thread stands stalled in class M on an instruction (R331); how many is a free value, taken only while a counter
of the slate counts them.
DESIGN CHOICE (log entry 51). -/
def countStall (s : State) (sl : Nat) (w : InsnWord) : State :=
  if latencyClass w = 2 ∧ (List.range 16).any (fun k => isF s sl (F.PERF.EN k) && getF s sl (F.PERF.SRC k) == srcStallM) then
    countSrc (takeFree s) sl srcStallM ((freeVal s).toNat % 2 ^ 32)
  else s

/-- The latency of a tagged instruction in CLK_E cycles (R21, R337): 1 for class 1, DONE, FAIL and TRAP, and 4 for class 4; `x` otherwise,
a free value.
DESIGN CHOICE (log entry 9). -/
def sampleLatency (w : InsnWord) (x : Nat) : Nat :=
  match latencyClass w with
  | 0 => 1
  | 1 => 4
  | _ => x % 2 ^ 32

/-- A sample record (R337). -/
def sampleRecord (t : SampleTag) (slot : Nat) (keep hk : Bool) (outcome : Nat) (latency status seq : Nat) (jid : Word) :
    Block :=
  let m := t.word.toNat / 2 ^ 26
  leBytes 8 t.tb ++
    leBytes 8 (slot % 1024 + t.thread % 256 * 2 ^ 10 + t.pc % 2 ^ 20 * 2 ^ 18 + keep.toNat * 2 ^ 38 + hk.toNat * 2 ^ 39 +
      m * 2 ^ 40 + latencyClass t.word * 2 ^ 46 + outcome * 2 ^ 48 + t.susp.toNat * 2 ^ 50) ++
    leBytes 4 latency ++ leBytes 2 status ++ leBytes 2 0 ++ leBytes 8 jid.toNat ++ leBytes 8 t.addr.toNat ++
    leBytes 8 seq ++ leBytes 16 0

/-- Write the record of a tagged instruction of a job that has completed (0), trapped (1) or been stopped (2), and drop
the tag (R337). -/
def settleSample (s : State) (sl job outcome status : Nat) (slot : Nat) (keep hk : Bool) (jid : Word) : State :=
  let x := samplingOf s sl
  match x.tags.find? fun t => t.job == job with
  | none => s
  | some t =>
    let b := sampleRecord t slot keep hk outcome (sampleLatency t.word (freeVal s).toNat) status x.seq jid
    let s := putSampling (takeFree s) sl { x with tags := x.tags.erase t, seq := x.seq + 1 }
    if ringInHeap s sl sampleRing then detect s sl Ev.RING_OVERLAP [BitVec.ofNat 64 x.seq]
    else if ringFill s sl sampleRing = ringLen s sl sampleRing then
      detect (bump s sl F.PERF.SAMPLES_LOST) sl Ev.SAMPLE_LOST [BitVec.ofNat 64 x.seq]
    else ringPut s sl sampleRing Ev.SRING_HALF b

end Sys2Proof.Machine
end

