-- ==== Sys2Proof/Machine/Jobs.lean ====
section
/-! DEFINITION. Jobs, threads and programs: what an instruction issues on, and how a job suspends, traps and ends (R19 to R37,
R49, R50). -/

namespace Sys2Proof.Machine

/-! ### Threads and jobs -/

/-- The key of a thread in `State.threads`. -/
def threadKey (t : Thread) : Nat := t.slate * 192 + t.idx

/-- The thread of housekeeping thread `n` (R19). -/
def hkThread (sl n : Nat) : Thread := { slate := sl, idx := 163 + 4 * n }

/-- Whether a thread index is a housekeeping thread (R19). -/
def isHkIdx (i : Nat) : Bool := decide (163 ≤ i) && i % 4 == 3

/-- The job on a thread. -/
def jobOn (s : State) (t : Thread) : Option Nat := tabGet s.threads (threadKey t)

/-- A job by its number. -/
def jobOf (s : State) (id : Nat) : Option Job := tabGet s.jobs id

/-- Store a job. -/
def putJob (s : State) (id : Nat) (j : Job) : State := { s with jobs := tabPut s.jobs id j }

/-- Change a job. -/
def modJob (s : State) (id : Nat) (f : Job → Job) : State := { s with jobs := tabMod s.jobs id f }

/-- Whether a job is a housekeeping program's (R24). -/
def isHk (j : Job) : Bool := match j.kind with | .housekeeping _ => true | _ => false

/-- Whether a job came from a command (R24). -/
def isCmd (j : Job) : Bool := match j.kind with | .command => true | _ => false

/-- The thread a job runs on. -/
def threadOf (j : Job) : Nat := match j.phase with | .running t => t | _ => 0

/-- The engine a job runs on. -/
def engineOf (j : Job) : Nat := threadOf j / 4

/-- JID (R24). -/
def jidOf (kind : JobKind) (hq tag : Nat) (keep : Bool) (host : Nat) : Word :=
  match kind with
  | .command => BitVec.ofNat 64 (hq + tag * 2 ^ 20 + keep.toNat * 2 ^ 25 + host * 2 ^ 32)
  | .launched => BitVec.ofNat 64 (keep.toNat * 2 ^ 25 + 2 ^ 26)
  | .housekeeping _ => BitVec.ofNat 64 (keep.toNat * 2 ^ 25 + 2 ^ 26 + 2 ^ 27)

/-- A job with fresh state (R23): every register, handle and flag zero or null, PC 0 and clear scratch. -/
def freshJob (kind : JobKind) (sl slot prog : Nat) (keep : Bool) (budget : Nat) : Job :=
  { kind := kind, slate := sl, hq := 0, tag := 0, nonce := 0, cls := 7, slot := slot, prog := prog, keep := keep,
    g := [], h := [], z := false, n := false, c := false, v := false, pc := 0, budget := budget,
    jid := jidOf kind 0 0 keep 0, scr := [], phase := .waitingThread, wait := .none, dst := 0, readyTb := 0,
    tickets := [], outBuf := none, hnew := 0, buffers := [], executed := 0, suspends := 0, detached := false,
    ended := none, onWake := .resume, result := none }

/-! ### Programs (R44, R45) -/

/-- The program version a slot holds. -/
def slotProg (s : State) (slot : Nat) : Option (Nat × Program) :=
  match tabGet s.slots slot with
  | none => none
  | some v => (tabGet s.progs v).map fun p => (v, p)

/-- The budget a job of a program starts with (R23). -/
def startBudget (s : State) (sl : Nat) (p : Program) : Nat :=
  if p.budget = 0 then getF s sl F.ENGINE.DEF_BUDGET else p.budget

/-- The length in words of the program a job runs. -/
def progLen (s : State) (j : Job) : Nat := match tabGet s.progs j.prog with | some p => p.words.length | none => 0

/-- Whether a word number is an extension word of the program a job runs (R49). -/
def isExtWord (s : State) (j : Job) (w : Nat) : Bool :=
  match tabGet s.progs j.prog with | some p => p.extWords.contains w | none => false

/-- Slots 0x0F8 to 0x0FF hold the housekeeping programs (R103). -/
def isHkSlot (slot : Nat) : Bool := decide (0xF8 ≤ slot) && decide (slot ≤ 0xFF)

/-! ### Buffers (R29, R61, R63) -/

/-- A payload buffer. -/
def bufOf (s : State) (b : Nat) : Option Buffer := tabGet s.buffers b

/-- Add a buffer to a slate's pool. -/
def newBuffer (s : State) (b : Buffer) : State × Nat :=
  ({ s with buffers := tabPut s.buffers s.nextBuf b, nextBuf := s.nextBuf + 1 }, s.nextBuf)

/-- Bytes of a buffer; a byte that has not arrived, or was never written, reads zero. -/
def bufRead (s : State) (b off len : Nat) : Block :=
  match bufOf s b with | some x => bytesOf x.data off len | none => List.replicate len 0

/-- Write bytes of a buffer. -/
def bufWrite (s : State) (b off : Nat) (d : Block) : State :=
  { s with buffers := tabMod s.buffers b fun x => { x with data := bytesPut x.data off d } }

/-- Whether one range of a list covers [lo, hi). -/
def covers (l : List (Nat × Nat)) (lo hi : Nat) : Bool := decide (hi ≤ lo) || l.any fun r => r.1 ≤ lo && hi ≤ r.2

/-- Add a range to a sorted list of disjoint ranges, joining those it touches. -/
def addRange : List (Nat × Nat) → Nat → Nat → List (Nat × Nat)
  | [], lo, hi => [(lo, hi)]
  | (a, b) :: r, lo, hi =>
    if b < lo then (a, b) :: addRange r lo hi
    else if hi < a then (lo, hi) :: (a, b) :: r
    else addRange r (min a lo) (max b hi)

/-- Whether bytes [lo, hi) of a buffer have arrived; a buffer that is not inbound always has (R63). -/
def arrived (s : State) (b lo hi : Nat) : Bool :=
  match bufOf s b with
  | none => true
  | some x => !x.inbound || covers x.arrived lo hi

/-- A handle's bytes. -/
def handleRead (s : State) (h : Handle) (off len : Nat) : Block := bufRead s h.buf (h.off + off) len

/-! ### The end of a job (R33 to R36) -/

/-- End a job (R35): a job thread is freed at once; a housekeeping thread waits in place. -/
def endJob (s : State) (id : Nat) (resp : Resp) (trap : Bool) : State :=
  match jobOf s id with
  | none => s
  | some j =>
    let threads := match j.phase with
      | .running t => if isHk j then s.threads else tabDel s.threads (j.slate * 192 + t)
      | _ => s.threads
    let q (m : Tab (List Nat)) : Tab (List Nat) := tabMod m j.slate (·.filter (· != id))
    let j := { j with phase := if isHk j then j.phase else .ending, wait := .none,
                      ended := some { resp := resp, trap := trap } }
    { putJob s id j with threads := threads, dispatchQ := q s.dispatchQ, resumeQ := q s.resumeQ }

/-- A response with a status and result words. -/
def respOf (st : Status) (words : List Word) : Resp := { status := st, orig := 0, words := words, aout := false }

/-- Result words 0 to 3 of a job: g1 to g4 (R36). -/
def resultWords (j : Job) : List Word := [rd j 1, rd j 2, rd j 3, rd j 4]

/-- FIRST detail of JOB_TRAP and HK_TRAP (R87). -/
def trapDetail (slot thread pc : Nat) (st : Status) (tb : Nat) : List Word :=
  [BitVec.ofNat 64 (slot % 2 ^ 10 + thread % 2 ^ 8 * 2 ^ 10 + pc % 2 ^ 20 * 2 ^ 18 + st.toNat * 2 ^ 38),
   BitVec.ofNat 64 tb]

/-- A housekeeping program has trapped: with HK_EN 1 it restarts 1 ms after its trap (R37).
DESIGN CHOICE (log entry 117). -/
def hkTrapped (s : State) (sl n : Nat) : State :=
  if isF s sl (F.ENGINE.HK_EN n) then { s with hkRestart := tabPut s.hkRestart (sl * 8 + n) (now s sl + ms) } else s

/-- A job traps with a status (R34): it is captured, its event raised, and it ends with result words of zero. A
housekeeping trap counts in HK_TRAPS, and its restart is timed from it (R37). -/
def trapJob (s : State) (id : Nat) (st : Status) : State :=
  match jobOf s id with
  | none => s
  | some j =>
    let d := trapDetail j.slot (threadOf j) j.pc st (now s j.slate)
    let s := match j.kind with
      | .housekeeping n => hkTrapped (detect (bumpSat s j.slate (F.ENGINE.HK_TRAPS n)) j.slate Ev.HK_TRAP d) j.slate n
      | _ => detect s j.slate Ev.JOB_TRAP d
    endJob s id (respOf st [0, 0, 0, 0]) true

/-- A job consumes a poisoned word, or reaches a lost home (R283, R284): it ends with MEDIA_UNRECOVERED, captured as for
a trap.
DEDUCED (log entry 37). -/
def poisonJob (s : State) (id a : Nat) : State :=
  match jobOf s id with
  | none => s
  | some j => trapJob (consumePoison s j.slate a j.slot (threadOf j)) id St.mediaUnrecovered

/-- A job's MEM access or handle access reaches a lost slate's home (R284). -/
def lostHomeJob (s : State) (id : Nat) : State := trapJob s id St.mediaUnrecovered

/-! ### Issue (R20, R33, R42, R50) -/

/-- The arbiter numbers of `State.ptrs` (R42): free-thread choice, atomic unit and control-space port of a slate, then
engine issue and event choice. -/
def ptrThread (sl : Nat) : Nat := sl * 8
/-- The atomic unit's arbiter. -/
def ptrAtomic (sl : Nat) : Nat := sl * 8 + 1
/-- The control-space port's arbiter. -/
def ptrCtl (sl : Nat) : Nat := sl * 8 + 2
/-- The issue arbiter of an engine. -/
def ptrIssue (sl e : Nat) : Nat := 64 + sl * 48 + e
/-- The event arbiter of a housekeeping thread. -/
def ptrEvent (sl n : Nat) : Nat := 512 + sl * 8 + n

/-- A grant to index `w` of `n` moves the pointer one past the winner (R42).
DEDUCED (log entry 34). -/
def granted (s : State) (p w n : Nat) : State := { s with ptrs := tabSet 0 s.ptrs p ((w + 1) % n) }

/-- The job's instruction begins execution: BUDGET falls on a job thread, and the instruction counts (R33, R50, R75). -/
def beginInsn (s : State) (id : Nat) (j : Job) : State :=
  countInsn (putJob s id { j with budget := if isHk j then j.budget else j.budget - 1, executed := j.executed + 1 })
    j.slate (isHk j)

/-- What an instruction leaves of its sample tag (R337): the record is written once it has completed or trapped; a tag
whose job waits is kept. -/
def sampleAfter (s : State) (id : Nat) : State :=
  match jobOf s id with
  | none => s
  | some j =>
    let x := samplingOf s j.slate
    match x.tags.find? fun t => t.job == id with
    | none => s
    | some t =>
      match j.ended with
      | some e => settleSample s j.slate id e.trap.toNat (if e.trap then e.resp.status.toNat else 0) j.slot j.keep (isHk j) j.jid
      | none =>
        if j.wait == .none then
          let d : Reg := BitVec.ofNat 5 (t.word.toNat / 2 ^ 21)
          settleSample s j.slate id 0 (if returnsStatus t.word then (rd j d).toNat % 65536 else 0) j.slot j.keep
            (isHk j) j.jid
        else
          let t' := { t with susp := t.susp || j.phase == .suspended }
          putSampling s j.slate { x with tags := x.tags.map fun y => if y = t then t' else y }

/-- A job on a thread that may issue: it runs, waits for nothing and has not ended. -/
def canIssue (j : Job) : Bool := j.ended.isNone && j.wait == .none

/-- Word `w` of the program a job runs. -/
def progWord (s : State) (j : Job) (w : Nat) : Option InsnWord := (tabGet s.progs j.prog).bind (·.words[w]?)

/-- Whether the PC lies outside the program, or at an X-form first word that is its last word (R50 step 2). -/
def pcBad (s : State) (j : Job) (len : Nat) : Bool :=
  let x := match progWord s j j.pc with | some w => fMajor w == 0x3F | none => false
  decide (progLen s j ≤ j.pc) || ((len == 2 || x) && decide (j.pc + 1 = progLen s j))

/-- Whether the word at a job's PC has an undefined major opcode, minor code or inner major opcode (R48, R50 step 3).
DESIGN CHOICE (log entry 30). -/
def opcodeBad (s : State) (t : Thread) (j : Job) : Bool :=
  match progWord s j j.pc with
  | some w => (decodeInsn t w ((progWord s j (j.pc + 1)).getD 0)).isNone
  | none => false

/-- The engine fetches the words of an instruction through its instruction cache (R273), looking a line up once; one of class M stalls
its thread. -/
def fetchWords (s : State) (t : Thread) (j : Job) (len : Nat) : State :=
  let e := t.idx / 4
  let s := icFetch s t.slate e j.prog j.pc true
  let s := if len = 1 then s
    else icFetch s t.slate e j.prog (j.pc + 1) (icLine j.prog (j.pc + 1) != icLine j.prog j.pc)
  match progWord s j j.pc with
  | some w => countStall s t.slate w
  | none => s

/-- Issue an instruction on a thread with the checks of R50: budget, PC, opcode, reserved and illegal field values (`legal`),
and privilege (`keepOnly`). `body` makes the operand checks and has the effect. A thread with no job, or whose job
waits or has ended, issues nothing.
DESIGN CHOICE (log entry 29). -/
def issue (t : Thread) (s : State) (len : Nat) (legal keepOnly : Bool) (body : State → Nat → Job → State) : State :=
  match jobOn s t with
  | none => s
  | some id =>
    match jobOf s id with
    | none => s
    | some j =>
      if !canIssue j then s
      else
        let s := granted s (ptrIssue t.slate (t.idx / 4)) (t.idx % 4) 4
        if !isHk j && j.budget == 0 then
          trapJob s id St.budget
        else
          let s := beginInsn s id j
          match jobOf s id with
          | none => s
          | some j =>
            if pcBad s j len then sampleAfter (trapJob s id St.outOfRange) id
            else
              let s := fetchWords s t j len
              if opcodeBad s t j then sampleAfter (trapJob s id St.illegalOpcode) id
              else if !legal then sampleAfter (trapJob s id St.illegalField) id
              else if keepOnly && !j.keep then sampleAfter (trapJob s id St.rights) id
              else sampleAfter (body s id j) id

/-- The instruction completes: the job as changed, and its PC at the next instruction (R49). -/
def finish (s : State) (id : Nat) (j : Job) (len : Nat) : State := putJob s id { j with pc := j.pc + len }

/-- The form of an instruction's meaning (R19): the thread must be one its slate has. -/
def onThread (t : Thread) (s : State) (f : State → State) : Out := onSlate t.slate s f

/-! ### Waiting (R25, R26) -/

/-- A class W instruction finds its condition unmet (R25): a job leaves its thread for its frame; a housekeeping program
keeps its thread (R37). `j` is the job as the instruction leaves it, at the following instruction. -/
def suspendJob (s : State) (id : Nat) (j : Job) (w : Wait) (dst : Reg) : State :=
  let j := { j with pc := j.pc + 1, wait := w, dst := dst }
  if isHk j then putJob s id j
  else
    let s := { s with threads := tabDel s.threads (j.slate * 192 + threadOf j) }
    countSrc (putJob s id { j with phase := .suspended, suspends := j.suspends + 1 }) j.slate srcSuspend 1

/-- Put a job at the tail of its slate's resume queue, ready at this TB (R26). -/
def toResume (s : State) (id : Nat) : State :=
  match jobOf s id with
  | none => s
  | some j =>
    let s := { s with resumeQ := tabModD s.resumeQ j.slate [] (· ++ [id]) }
    putJob s id { j with phase := .waitingThread, readyTb := now s j.slate }

/-- Put a job at the tail of its slate's dispatch queue. -/
def toDispatch (s : State) (id : Nat) : State :=
  match jobOf s id with
  | none => s
  | some j =>
    let s := { s with dispatchQ := tabModD s.dispatchQ j.slate [] (· ++ [id]) }
    putJob s id { j with phase := .waitingThread, readyTb := now s j.slate }

/-- Add a job record under the next number. -/
def addJob (s : State) (j : Job) : State × Nat :=
  ({ s with jobs := tabPut s.jobs s.nextJob j, nextJob := s.nextJob + 1 }, s.nextJob)

/-- Jobs of a slate in a state. -/
def jobCount (s : State) (sl : Nat) (p : Job → Bool) : Nat := tabCount s.jobs fun j => j.slate == sl && p j

/-- HK_CHAIN (slot 0x0FE) starts on slate 0: the chain bypass opens, and a module that sees no partner on UP is head
(R302, R304). -/
def openBypass (s : State) (sl slot : Nat) : State :=
  if sl = 0 ∧ slot = 0xFE ∧ s.chain.bypass then { s with chain := { s.chain with bypass := false, enumDue := true } }
  else s

/-- Start housekeeping thread `n` of a slate from word 0 with fresh state (R37); with no KEEP program in HK_SLOT the
thread is idle and HK_TRAP is raised with status NO_PROGRAM. -/
def hkStart (s : State) (sl n : Nat) : State :=
  let slot := getF s sl (F.ENGINE.HK_SLOT n)
  let s := { s with hkRestart := tabDel s.hkRestart (sl * 8 + n) }
  match slotProg s slot with
  | some (v, p) =>
    if p.keep then
      let j := { freshJob (.housekeeping n) sl slot v true 0 with phase := .running (163 + 4 * n) }
      let (s, id) := addJob s j
      openBypass { s with threads := tabPut s.threads (threadKey (hkThread sl n)) id } sl slot
    else detect s sl Ev.HK_TRAP (trapDetail slot (163 + 4 * n) 0 St.noProgram (now s sl))
  | none => detect s sl Ev.HK_TRAP (trapDetail slot (163 + 4 * n) 0 St.noProgram (now s sl))

end Sys2Proof.Machine
end

