-- ==== Sys2Proof/Machine/Alu.lean ====
section
/-! DEFINITION. Arithmetic, logic and shifts (R55). -/

namespace Sys2Proof.Machine

/-- An ALU instruction: `op` gives the job with its register and flags written. -/
def aluInsn (t : Thread) (len : Nat) (legal : Bool) (op : Job → Job) (s : State) : Out :=
  onThread t s fun s => issue t s len legal false fun s id j => finish s id (op j) len

/-- A logic result: Z and N from it, C and V cleared. -/
def logicResult (j : Job) (d : Reg) (r : Word) : Job := wr (setFlags j r false false) d r

/-- ADD (R55). -/
def execAdd (o : AluForm) (s : State) : Out :=
  aluInsn o.t (srcLen o.src) (srcOk o.src) (fun j =>
    let a := rd j o.a; let b := srcSext j o.src
    wr (setFlags j (a + b) (addC a b) (addV a b)) o.d (a + b)) s

/-- SUB (R55). -/
def execSub (o : R3) (s : State) : Out :=
  aluInsn o.t 1 true (fun j =>
    let a := rd j o.a; let b := rd j o.b
    wr (setFlags j (a - b) (subC a b) (subV a b)) o.d (a - b)) s

/-- MUL (R55). -/
def execMul (o : R3) (s : State) : Out :=
  aluInsn o.t 1 true (fun j =>
    let a := rd j o.a; let b := rd j o.b
    wr (setFlags j (a * b) (mulC a b) (mulV a b)) o.d (a * b)) s

/-- MULH (R55). -/
def execMulh (o : R3) (s : State) : Out :=
  aluInsn o.t 1 true (fun j => logicResult j o.d (mulHi (rd j o.a) (rd j o.b))) s

/-- MULHU (R55). -/
def execMulhu (o : R3) (s : State) : Out :=
  aluInsn o.t 1 true (fun j => logicResult j o.d (mulHiU (rd j o.a) (rd j o.b))) s

/-- AND (R55). -/
def execAnd (o : AluForm) (s : State) : Out :=
  aluInsn o.t (srcLen o.src) (srcOk o.src) (fun j => logicResult j o.d (rd j o.a &&& srcZext j o.src)) s

/-- OR (R55). -/
def execOr (o : AluForm) (s : State) : Out :=
  aluInsn o.t (srcLen o.src) (srcOk o.src) (fun j => logicResult j o.d (rd j o.a ||| srcZext j o.src)) s

/-- XOR (R55). -/
def execXor (o : AluForm) (s : State) : Out :=
  aluInsn o.t (srcLen o.src) (srcOk o.src) (fun j => logicResult j o.d (rd j o.a ^^^ srcZext j o.src)) s

/-- SHL (R55). -/
def execShl (o : ShiftForm) (s : State) : Out :=
  aluInsn o.t 1 (countOk o.cnt) (fun j =>
    let a := rd j o.a; let n := countVal j o.cnt
    wr (setFlags j (a <<< n) (shlC a n) false) o.d (a <<< n)) s

/-- SHR (R55). -/
def execShr (o : ShiftForm) (s : State) : Out :=
  aluInsn o.t 1 (countOk o.cnt) (fun j =>
    let a := rd j o.a; let n := countVal j o.cnt
    wr (setFlags j (a >>> n) (shrC a n) false) o.d (a >>> n)) s

/-- SAR (R55). -/
def execSar (o : ShiftForm) (s : State) : Out :=
  aluInsn o.t 1 (countOk o.cnt) (fun j =>
    let a := rd j o.a; let n := countVal j o.cnt
    wr (setFlags j (a.sshiftRight n) (shrC a n) false) o.d (a.sshiftRight n)) s

/-- CMP: flags from gA - b, no register; field d is reserved (R55). -/
def execCmp (o : AluForm) (s : State) : Out :=
  aluInsn o.t (srcLen o.src) (srcOk o.src && o.d == 0) (fun j =>
    let a := rd j o.a; let b := srcSext j o.src
    setFlags j (a - b) (subC a b) (subV a b)) s

end Sys2Proof.Machine
end

