-- ==== Sys2Proof/Machine/Branch.lean ====
section
/-! DEFINITION. Branches, calls and return (R56, R57). -/

namespace Sys2Proof.Machine

/-- A branch target: the PC and a sign-extended offset in instruction words, modulo 2^64 (R57). -/
def branchTarget (j : Job) (off : Imm) : Nat := (BitVec.ofNat 64 j.pc + sextImm off).toNat

/-- Whether control may transfer to a word: inside the program and no extension word (R49, R57). -/
def targetOk (s : State) (j : Job) (w : Nat) : Bool := decide (w < progLen s j) && !isExtWord s j w

/-- Transfer control to a word, or trap with OUT_OF_RANGE. -/
def jumpTo (s : State) (id : Nat) (j : Job) (w : Nat) : State :=
  if targetOk s j w then putJob s id { j with pc := w } else trapJob s id St.outOfRange

/-- B: d and a are reserved (R57). -/
def execB (o : BranchForm) (s : State) : Out :=
  onThread o.t s fun s => issue o.t s (immLen o.off) (immOk o.off && o.d == 0 && o.a == 0) false
    fun s id j => jumpTo s id j (branchTarget j o.off)

/-- Bcc: d is the condition, a is reserved; the target is checked only when taken (R56, R57). -/
def execBcc (o : BranchForm) (s : State) : Out :=
  onThread o.t s fun s => issue o.t s (immLen o.off) (immOk o.off && o.a == 0 && condOk o.d) false
    fun s id j => if condTaken j o.d then jumpTo s id j (branchTarget j o.off) else finish s id j (immLen o.off)

/-- CALL: g31 gets the next instruction's address; d and a are reserved (R57). -/
def execCall (o : BranchForm) (s : State) : Out :=
  onThread o.t s fun s => issue o.t s (immLen o.off) (immOk o.off && o.d == 0 && o.a == 0) false
    fun s id j =>
      let w := branchTarget j o.off
      if targetOk s j w then
        putJob s id { wr j 31 (BitVec.ofNat 64 (j.pc + immLen o.off)) with pc := w }
      else trapJob s id St.outOfRange

/-- RET: every field is reserved (R57). -/
def execRet (o : RForm) (s : State) : Out :=
  onThread o.t s fun s => issue o.t s 1 (o.d == 0 && o.a == 0 && o.b == 0 && o.minor == 0) false
    fun s id j => jumpTo s id j (rd j 31).toNat

end Sys2Proof.Machine
end

