-- ==== Sys2Proof/Machine/Keccak.lean ====
section
/-! DEFINITION. The Keccak permutation and SHAKE256 (FIPS 202), which R70 names for SHKA and SHKS and R346, R347 for
measurements. -/

namespace Sys2Proof.Machine

/-- One step of the round-constant generator: x^8 + x^6 + x^5 + x^4 + 1. -/
def rcStep (r : Nat) : Nat := let t := r * 2; if 256 ≤ t then (t ^^^ 0x171) else t

/-- The state of the generator after `k` steps. -/
def rcAfter : Nat → Nat
  | 0 => 1
  | k + 1 => rcStep (rcAfter k)

/-- The round constant of a round: bit 2^j - 1 holds output bit j + 7 * round. -/
def roundConst (round : Nat) : Word :=
  (List.range 7).foldl (fun w j =>
    if rcAfter ((j + 7 * round) % 255) % 2 = 1 then w ^^^ BitVec.ofNat 64 (2 ^ (2 ^ j - 1)) else w) 0

/-- Rotation offsets of lane (x, y), by index x + 5y. -/
def rhoOffsets : List Nat :=
  [0, 1, 62, 28, 27, 36, 44, 6, 55, 20, 3, 10, 43, 25, 39, 41, 45, 15, 21, 8, 18, 2, 61, 56, 14]

/-- A lane of a state. -/
def lane (a : List Word) (x y : Nat) : Word := a.getD (x % 5 + 5 * (y % 5)) 0

/-- One round of Keccak-f[1600]. -/
def keccakRound (a : List Word) (round : Nat) : List Word :=
  let c := (List.range 5).map fun x => lane a x 0 ^^^ lane a x 1 ^^^ lane a x 2 ^^^ lane a x 3 ^^^ lane a x 4
  let d := (List.range 5).map fun x => c.getD ((x + 4) % 5) 0 ^^^ (c.getD ((x + 1) % 5) 0).rotateLeft 1
  let th := (List.range 25).map fun i => a.getD i 0 ^^^ d.getD (i % 5) 0
  let b := (List.range 25).map fun i =>
    -- position (X, Y) of pi holds the lane at x = X + 3Y, y = X, rotated
    let x := (i % 5 + 3 * (i / 5)) % 5
    let y := i % 5
    (th.getD (x + 5 * y) 0).rotateLeft (rhoOffsets.getD (x + 5 * y) 0)
  let ch := (List.range 25).map fun i =>
    let x := i % 5; let y := i / 5
    lane b x y ^^^ ((~~~ lane b (x + 1) y) &&& lane b (x + 2) y)
  ch.set 0 (ch.getD 0 0 ^^^ roundConst round)

/-- Keccak-f[1600] on 25 lanes. -/
def keccakF (a : List Word) : List Word := (List.range 24).foldl keccakRound a

/-- XOR a byte into a state at a byte position. -/
def xorByte (a : List Word) (pos : Nat) (b : Byte) : List Word :=
  a.set (pos / 8) (a.getD (pos / 8) 0 ^^^ ((b.setWidth 64) <<< (8 * (pos % 8))))

/-- The SHAKE256 rate in bytes. -/
def shakeRate : Nat := 136

/-- Absorb bytes from position `pos` on; a full rate permutes. -/
def absorb (a : List Word) (pos : Nat) : List Byte → List Word × Nat
  | [] => (a, pos)
  | b :: r =>
    let a := xorByte a pos b
    if pos + 1 = shakeRate then absorb (keccakF a) 0 r else absorb a (pos + 1) r

/-- Pad after absorbing: 0x1F at the position and 0x80 at byte 135, then permute (R70). -/
def padShake (a : List Word) (pos : Nat) : List Word := keccakF (xorByte (xorByte a pos 0x1F) 135 0x80)

/-- Byte `pos` of a state. -/
def stateByte (a : List Word) (pos : Nat) : Byte := ((a.getD (pos / 8) 0) >>> (8 * (pos % 8))).setWidth 8

/-- The state and position after the output byte at `pos`: when the position reaches the rate, the state is permuted and the
position is 0 (R70). -/
def squeezed (a : List Word) (pos : Nat) : List Word × Nat :=
  if pos + 1 = shakeRate then (keccakF a, 0) else (a, pos + 1)

/-- `len` output bytes from position `pos` on, and the state and position they leave (R70). -/
def squeeze (a : List Word) (pos : Nat) : Nat → List Byte × List Word × Nat
  | 0 => ([], a, pos)
  | k + 1 =>
    let p := squeezed a pos
    let r := squeeze p.1 p.2 k
    (stateByte a pos :: r.1, r.2)

/-- SHAKE256 of a byte string, `len` bytes of output. -/
def shake256 (m : List Byte) (len : Nat) : List Byte :=
  let (a, pos) := absorb (List.replicate 25 0) 0 m
  (squeeze (padShake a pos) 0 len).1

end Sys2Proof.Machine
end

