-- ==== Sys2Proof/Machine/BufInsns.lean ====
section
/-! DEFINITION. Buffer and handle instructions, payload receive, and hashing (R61 to R63, R70). -/

namespace Sys2Proof.Machine

/-! ### BGET and BPUT (R61) -/

/-- The operand checks of R61 in order. -/
def bufCheck (h : Option Handle) (a size : Nat) (write : Bool) : Option Status :=
  match h with
  | none => some St.illegalField
  | some h =>
    if h.len < a + size then some St.bounds
    else if write && !h.rw then some St.rights
    else if (h.off + a) % size ≠ 0 then some St.illegalField
    else none

/-- The handle number of a BUF access stands in minor[4:2] (R61). -/
def bufHandleNo (m : BitVec 11) : Nat := m.toNat / 4 % 8

/-- Whether minor[10:5] and b are zero (R61). -/
def bufLegal (o : RForm) : Bool := o.minor.toNat / 32 == 0 && o.b == 0

/-- BGET (R61): bytes that have not arrived read as zero. -/
def execBget (o : RForm) (s : State) : Out :=
  onThread o.t s fun s => issue o.t s 1 (bufLegal o) false fun s id j =>
    let size := sizeOf2 o.minor.toNat
    let a := (rd j o.a).toNat
    let h := handleOf j (bufHandleNo o.minor)
    match bufCheck h a size false, h with
    | some st, _ => trapJob s id st
    | none, none => s
    | none, some h => finish s id (wr j o.d (BitVec.ofNat 64 (leNat (handleRead s h a size)))) 1

/-- BPUT (R61). The transport reads a SEND's bytes as the SEND queues them, so none is ever unread. -/
def execBput (o : RForm) (s : State) : Out :=
  onThread o.t s fun s => issue o.t s 1 (bufLegal o) false fun s id j =>
    let size := sizeOf2 o.minor.toNat
    let a := (rd j o.a).toNat
    let h := handleOf j (bufHandleNo o.minor)
    match bufCheck h a size true, h with
    | some st, _ => trapJob s id st
    | none, none => s
    | none, some h => finish (bufWrite s h.buf (h.off + a) (leBytes size (rd j o.d).toNat)) id j 1

/-! ### Handles (R62) -/

/-- HSUB (R62). -/
def execHsub (o : HForm) (s : State) : Out :=
  onThread o.t s fun s => issue o.t s 1 (o.d.toNat / 8 == 0 && o.low.toNat / 16 == 0) false fun s id j =>
    let a := (rd j o.a).toNat
    let b := (rd j o.b).toNat
    match handleOf j o.low.toNat with
    | none => trapJob s id St.illegalField
    | some h =>
      if h.len < a + b then trapJob s id St.bounds
      else
        let h' := { h with off := h.off + a, len := b, rw := h.rw && !bitOf o.low.toNat 3 }
        finish s id (setHandle j o.d.toNat (some h')) 1

/-- HLEN (R62). -/
def execHlen (o : HForm) (s : State) : Out :=
  onThread o.t s fun s => issue o.t s 1 (o.a == 0 && o.b == 0 && o.low.toNat / 8 == 0) false fun s id j =>
    let len := match handleOf j o.low.toNat with | some h => h.len | none => 0
    finish s id (wr j o.d (BitVec.ofNat 64 len)) 1

/-- Whether a slate's pool can supply a buffer. The manual gives the pool no size, so whether it can is a free value.
DESIGN CHOICE (log entry 10). -/
def poolSupplies (s : State) : Bool := (freeVal s).getLsbD 0

/-- HNEW (R62): a zeroed read-write buffer, or Z = 0 and a null handle. -/
def execHnew (o : HForm) (s : State) : Out :=
  onThread o.t s fun s => issue o.t s 1 (o.d.toNat / 8 == 0 && o.b == 0 && o.low == 0) false fun s id j =>
    let a := (rd j o.a).toNat
    if a = 0 ∨ 8388608 < a then trapJob s id St.outOfRange
    else if 16777216 < j.hnew + a then finish s id { setHandle j o.d.toNat none with z := false } 1
    else if !poolSupplies s then
      finish (takeFree s) id { setHandle j o.d.toNat none with z := false } 1
    else
      let (s, b) := newBuffer (takeFree s)
        { slate := j.slate, len := a, data := [], inbound := false, arrived := [] }
      let h : Handle := { buf := b, off := 0, len := a, rw := true, origin := .other }
      finish s id { setHandle j o.d.toNat (some h) with z := true, hnew := j.hnew + a, buffers := j.buffers ++ [b] } 1

/-! ### RECV (R63) -/

/-- RECV: waits until the bytes have arrived; a buffer whose origin is not h1 has them (R63). -/
def execRecv (o : RForm) (s : State) : Out :=
  onThread o.t s fun s => issue o.t s 1 (o.d == 0 && o.b == 0 && o.minor.toNat / 8 == 0) false fun s id j =>
    let a := (rd j o.a).toNat
    match handleOf j o.minor.toNat with
    | none => trapJob s id St.illegalField
    | some h =>
      if h.len < a then trapJob s id St.bounds
      else if h.origin ≠ .h1 ∨ arrived s h.buf h.off (h.off + a) then finish s id j 1
      else suspendJob s id j (.payload h.buf h.off (h.off + a)) 0

/-! ### Hashing (R70) -/

/-- The SCR address of the Keccak state. -/
def kecBase : Nat := 0xF00
/-- The SCR address of the control word. -/
def kecCtl : Nat := 0xFC8

/-- The Keccak state held in scratch: lane i at 0xF00 + 8i, little-endian. -/
def kecLanes (scr : Tab Byte) : List Word :=
  (List.range 25).map fun i => BitVec.ofNat 64 (leNat (bytesOf scr (kecBase + 8 * i) 8))

/-- Write the Keccak state and control word back to scratch. -/
def kecPut (scr : Tab Byte) (a : List Word) (pos : Nat) (squeezing : Bool) : Tab Byte :=
  let scr := bytesPut scr kecBase (a.flatMap fun w => leBytes 8 w.toNat)
  bytesPut scr kecCtl (leBytes 8 (pos % 256 + squeezing.toNat * 256))

/-- Position of the control word: bits [7:0]. A position that reaches 136 is reset (R70); the manual gives no meaning to one at
or beyond the rate that a program has stored; it is a free value.
DESIGN CHOICE (log entry 11). -/
def kecPos (s : State) (scr : Tab Byte) : Nat :=
  let p := leNat (bytesOf scr kecCtl 1)
  if p < shakeRate then p else (freeVal s).toNat % shakeRate

/-- SQUEEZING of the control word: bit 8. -/
def kecSqueezing (scr : Tab Byte) : Bool := (tabGetD scr (kecCtl + 1) 0).getLsbD 0

/-- SHKA: absorb bytes of a handle, or of scratch with SCR set (R70). -/
def execShka (o : RForm) (s : State) : Out :=
  let m := o.minor.toNat
  let fromScr := bitOf m 4
  onThread o.t s fun s => issue o.t s 1 (o.d == 0 && m / 32 == 0 && (!fromScr || m % 8 == 0)) false fun s id j =>
    let a := (rd j o.a).toNat
    let b := (rd j o.b).toNat
    let go (d : Block) : State :=
      let clear := bitOf m 3 || kecSqueezing j.scr
      let scr := if clear then bytesPut j.scr kecBase (List.replicate 208 0) else j.scr
      let (l, pos) := absorb (kecLanes scr) (kecPos s scr) d
      finish (takeFree s) id { j with scr := kecPut scr l pos false } 1
    if fromScr then
      if 0xF00 < a + b then trapJob s id St.outOfRange else go (bytesOf j.scr a b)
    else match handleOf j m with
      | none => trapJob s id St.illegalField
      | some h => if h.len < a + b then trapJob s id St.bounds else go (handleRead s h a b)

/-- SHKS: the next 8 output bytes (R70). -/
def execShks (o : RForm) (s : State) : Out :=
  onThread o.t s fun s => issue o.t s 1 (o.a == 0 && o.b == 0 && o.minor == 0) false fun s id j =>
    let l := kecLanes j.scr
    let pos := kecPos s j.scr
    let (l, pos) := if kecSqueezing j.scr then (l, pos) else (padShake l pos, 0)
    let (out, l, pos) := squeeze l pos 8
    finish (takeFree s) id { wr j o.d (BitVec.ofNat 64 (leNat out)) with scr := kecPut j.scr l pos true } 1

end Sys2Proof.Machine
end

