-- ==== Sys2Proof/Machine/Hq.lean ====
section
/-! DEFINITION. Host queues: contexts, tags, hazards, answers, the commit mark and the abort of one instance (R118 to R121,
R132 to R150). -/

namespace Sys2Proof.Machine

/-! ### Queues and tags -/

/-- A tag that has never been used (R119). -/
def tagEmpty : Tag :=
  { st := .empty, last := none, bar := none, latched := false, resp := none, outcome := none, job := none, cmd := none }

/-- A registered queue. -/
def queueAt (s : State) (q : Nat) : Option Queue := tabGet s.queues q

/-- A tag of a queue. -/
def tagAt (q : Queue) (t : Nat) : Tag := tabGetD q.tags t tagEmpty

/-- Change a queue. -/
def modQueue (s : State) (q : Nat) (f : Queue → Queue) : State := { s with queues := tabMod s.queues q f }

/-- Change a tag of a queue: one atomic update of its tag word (R135). -/
def modTag (s : State) (q t : Nat) (f : Tag → Tag) : State :=
  modQueue s q fun x => { x with tags := tabModD x.tags t tagEmpty f }

/-- Whether a tag is HELD, ACTIVE or COMMITTED. -/
def tagBusy (t : Tag) : Bool := t.st == .held || t.st == .active || t.st == .committed

/-- The HQ_TAG field of a queue and tag (R106). -/
def hqTagOf (q t : Nat) : BitVec 32 := BitVec.ofNat 32 (q * 4096 + t)

/-- Commands in flight on a slate (R141): those whose tag is HELD, ACTIVE or COMMITTED. -/
def inFlight (s : State) (sl : Nat) : Nat :=
  s.queues.foldl (fun a p => if hqSlate p.1 = sl then a + tabCount p.2.tags tagBusy else a) 0

/-- Registered queues of a slate that satisfy a test. -/
def queueCount (s : State) (sl : Nat) (p : Queue → Bool) : Nat :=
  (s.queues.filter fun x => hqSlate x.1 == sl && p x.2).length

/-! ### Answers (R104, R107, R118) -/

/-- Where an answer goes, from the datagram it answers; no Ethernet address where it answers none (R104). -/
structure ReplyTo where
  cls    : Nat
  ipv4   : Bool
  mac    : Option (BitVec 48)
  source : Nat
  ua     : BitVec 16
  host   : BitVec 32
  keyId  : BitVec 32
  slot   : BitVec 16

/-- The reply address of a received datagram. -/
def replyTo (d : Datagram) : ReplyTo :=
  { cls := d.cls, ipv4 := d.ipv4, mac := some d.mac, source := d.source, ua := d.srcUa, host := d.host, keyId := d.keyId, slot := d.slot }

/-- The reply address of an admitted command. -/
def cmdReply (c : Cmd) : ReplyTo :=
  { cls := c.cls, ipv4 := c.ipv4, mac := some c.mac, source := c.source, ua := c.srcUa, host := c.host, keyId := c.keyId,
    slot := BitVec.ofNat 16 c.slot }

/-- A datagram from slate `sl` to a reply address. -/
def answer (sl : Nat) (r : ReplyTo) (type : BitVec 4) : OutDatagram :=
  { blankDgram sl r.cls type with ipv4 := r.ipv4, mac := r.mac, dest := r.source, dstUa := r.ua, host := r.host, keyId := r.keyId }

/-- The RESPONSE payload (R118). -/
def respPayload (r : Resp) : Block :=
  beBytes 2 r.status.toNat ++ beBytes 2 r.orig.toNat ++ beBytes 4 0 ++
    (List.range 4).flatMap fun i => beBytes 8 (r.words.getD i 0).toNat

/-- Send a RESPONSE from the owning slate's port (R11, R118): header STATUS is DUPLICATE when it is served again, and an
abort outcome goes ahead of its class (R151, `joinQueue`). -/
def sendResp (s : State) (q t : Nat) (nonce : Word) (r : Resp) (rt : ReplyTo) (dup : Bool) (job : Option Nat) : State :=
  let sl := hqSlate q
  let d := { answer sl rt tyResponse with
    flags := if r.aout then 2 else 0, hqTag := hqTagOf q t, nonce := nonce, slot := rt.slot,
    status := if dup then St.duplicate else r.status, payload := respPayload r }
  send s d job

/-- Send a BUSY (R110). -/
def sendBusy (s : State) (sl : Nat) (d : Datagram) (st : Status) (retry : Nat) : State :=
  send s { answer sl (replyTo d) tyBusy with
    hqTag := d.hqTag, nonce := d.nonce, slot := d.slot, status := st, offset := BitVec.ofNat 64 retry } none

/-! ### Contexts and the park queue (R135 to R137) -/

/-- Park-queue entries of a slate: parked datagrams and COMMANDs that wait for a buffer. -/
def parkUsed (s : State) (sl : Nat) : Nat := (tabGetD s.park sl []).length + (tabGetD s.bufWait sl []).length

/-- The key of what one owning slate pauses at one port. -/
def pauseKey (owner port : Nat) : Nat := owner * 8 + port

/-- The fetches under way: the first 256 of those asked for (R136). -/
def underWay (s : State) (sl : Nat) : List Nat := (s.fetching.filter fun q => hqSlate q == sl).take 256

/-- Ask for a fetch; one with an ABORT parked is started ahead of every other that is not under way (R136). -/
def startFetch (s : State) (hq : Nat) (abort : Bool) : State :=
  let run := underWay s (hqSlate hq)
  if run.contains hq || (!abort && s.fetching.contains hq) then s
  else
    let wait := s.fetching.filter fun q => !run.contains q && q != hq
    { s with fetching := run ++ if abort then hq :: wait else wait ++ [hq] }

/-- Whether a parked datagram is an ABORT. -/
def isAbort (k : DgKind) : Bool := match k with | .abort => true | .queueReset => true | _ => false

/-- Whether the context of a queue is resident. -/
def isResident (s : State) (hq : Nat) : Bool := match queueAt s hq with | some q => q.resident | none => false

/-- Whether datagrams of a queue wait in its slate's park queue, for their context, for a buffer, or behind a COMMAND that waits for
one. -/
def parkedFor (s : State) (hq : Nat) : Bool :=
  let l := fun (t : Tab (List Parked)) => (tabGetD t (hqSlate hq) []).any fun p => p.hq == hq
  l s.park || l s.bufWait

/-- Put a datagram in a slate's park queue, which has room: for its context, or, where that is resident, for a buffer. Becoming full
raises PARK_FULL (R137). -/
def parkNow (s : State) (sl : Nat) (p : Parked) : State :=
  let s :=
    if isResident s p.hq then { s with bufWait := tabModD s.bufWait sl [] (· ++ [p]) }
    else startFetch { s with park := tabModD s.park sl [] (· ++ [p]) } p.hq (isAbort p.kind)
  if parkUsed s sl = 4096 then detect (bump s sl F.HQ.PARK_FULLS) sl Ev.PARK_FULL [] else s

/-- Park a datagram; one that finds the queue full is held at its ingress port, whose class pauses (R137). -/
def parkDatagram (s : State) (sl : Nat) (p : Parked) : State :=
  if parkUsed s sl < 4096 then parkNow s sl p
  else
    let k := pauseKey sl p.dg.port
    { s with heldDg := tabModD s.heldDg sl [] (· ++ [p])
             pausePark := tabPut s.pausePark k (tabGetD s.pausePark k 0 ||| 2 ^ p.dg.cls) }

/-- Contexts a sweep may not choose (R136): pinned, with a datagram parked, or with a fetch under way. -/
def unspillable (s : State) (hq : Nat) (q : Queue) : Bool := q.pin || s.fetching.contains hq || parkedFor s hq

/-- The pointer of a slate's second-chance sweep. -/
def ptrSweep (sl : Nat) : Nat := 2048 + sl

/-- The sweep of R136 over a slate's resident contexts from its pointer on: a context with its reference bit set loses the
bit and is passed over.
DESIGN CHOICE (log entry 54). -/
def sweepVictim (sl : Nat) : Nat → State → List Nat → State × Option Nat
  | 0, s, _ => (s, none)
  | n + 1, s, l =>
    match l with
    | [] => (s, none)
    | hq :: r =>
      match tabGet s.queues hq with
      | none => sweepVictim sl n s r
      | some q =>
        if unspillable s hq q then sweepVictim sl n s r
        else if s.ctxRef.contains hq then sweepVictim sl n { s with ctxRef := s.ctxRef.filter (· != hq) } (r ++ [hq])
        else ({ s with ptrs := tabSet 0 s.ptrs (ptrSweep sl) (hq + 1) }, some hq)

/-- Resident contexts of a slate in sweep order. -/
def residents (s : State) (sl : Nat) : List Nat :=
  let l := keysWhere (s.queues.filter fun p => hqSlate p.1 == sl) (·.resident)
  let p := tabGetD s.ptrs (ptrSweep sl) 0
  l.filter (p ≤ ·) ++ l.filter (· < p)

/-- Make room for one more resident context, evicting a victim from a full store (R136). -/
def makeResidentRoom (s : State) (sl : Nat) : State :=
  let l := residents s sl
  if l.length < 24576 then s
  else match sweepVictim sl (2 * l.length + 1) s l with
    | (s, none) => s
    | (s, some hq) => bump (modQueue s hq fun q => { q with resident := false }) sl F.HQ.SPILLS

/-- A new context (R133, R135). -/
def newQueue (s : State) (hq : Nat) (host : BitVec 32) (key : Nat) (pin persist : Bool) : Queue :=
  { host := host, key := key, pin := pin, persist := persist, armed := false, resetNonce := 0, resetMask := 0, resetTb := 0,
    resetOut := [], resident := true, lastTb := now s (hqSlate hq), ret := none, tags := [] }

/-- Create a context, with room made for it (R132, R133). -/
def addQueue (s : State) (hq : Nat) (host : BitVec 32) (key : Nat) (pin persist : Bool) : State :=
  let s := makeResidentRoom s (hqSlate hq)
  { s with queues := tabPut s.queues hq (newQueue s hq host key pin persist) }

/-- Remove a context and its tag records. Datagrams of the queue that wait are answered NO_CONTEXT (R133). -/
def removeQueue (s : State) (hq : Nat) : State :=
  let sl := hqSlate hq
  let mine (t : Tab (List Parked)) : List Parked := (tabGetD t sl []).filter fun p => p.hq == hq
  let rest (t : Tab (List Parked)) : Tab (List Parked) := tabMod t sl (·.filter fun p => p.hq != hq)
  let l := mine s.park ++ mine s.bufWait ++ mine s.heldDg
  let s := { s with
    queues := tabDel s.queues hq, park := rest s.park, bufWait := rest s.bufWait, heldDg := rest s.heldDg
    fetching := s.fetching.filter (· != hq), ctxRef := s.ctxRef.filter (· != hq)
    hazPast := s.hazPast.filter fun h => h.hq != hq }
  l.foldl (fun s p => sendBusy s sl p.dg St.noContext 0) s

/-! ### Hazards (R139, R144 to R146) -/

/-- Whether two entries of one HQ conflict (R144). -/
def conflict (a b : Hazard) : Bool :=
  a.hq == b.hq && a.volume == b.volume && decide (a.lba < b.lba + b.count) && decide (b.lba < a.lba + a.count) &&
    (a.modify || b.modify)

/-- Hazard order: nonce position, then order of late arrival (R144, R145). -/
def hazBefore (a b : Hazard) : Bool := decide (a.pos < b.pos) || (a.pos == b.pos && decide (a.seq < b.seq))

/-- Whether an earlier conflicting entry of another command remains (R144). -/
def hazBlocked (s : State) (h : Hazard) : Bool :=
  s.hazards.any fun x => conflict x h && hazBefore x h && x.tag != h.tag

/-- The extent a command occupies (R139): volume, first LBA, count and whether it modifies. -/
def cmdExtent (slot : Nat) (capsule : Block) (args : List Word) : Option (Nat × Nat × Nat × Bool) :=
  let fl := (byteAt capsule 1).toNat
  let use := decide (slot ≤ 4) || (decide (0x100 ≤ slot) && bitOf fl 0)
  let modify := if slot ≤ 4 then decide (slot ≠ 0) else bitOf fl 1
  let w1 := args.getD 1 0
  let count := bits w1 16 12
  let clean := w1.toNat == bits w1 0 12 + count * 65536
  if use && clean && decide (1 ≤ count) && decide (count ≤ 2048) then
    some (bits w1 0 12, (args.getD 0 0).toNat, count, modify)
  else none

/-- The entries of a command that are released with it. -/
def dropHazards (s : State) (p : Hazard → Bool) : State := { s with hazards := s.hazards.filter fun h => !p h }

/-- Release every entry of an instance (R146). -/
def releaseTag (s : State) (q t : Nat) (nonce : Nat) : State :=
  dropHazards s fun h => h.hq == q && h.tag == t && (h.pos == nonce || h.job.isNone)

/-- Release every entry a job holds (R146). -/
def releaseJob (s : State) (id : Nat) : State := dropHazards s fun h => h.job == some id

/-! ### Commit actions (R148) -/

/-- A commit action of a job asks its tag word: the new state, and whether the action takes effect. A launched or
housekeeping job has no tag; nor has a command past its commit point whose context is lost (CTX_UNCORR), which completes.
DEDUCED (log entry 36). -/
def askCommit (s : State) (id : Nat) : State × Bool :=
  match jobOf s id with
  | none => (s, false)
  | some j =>
    if !isCmd j then (s, true)
    else if j.detached then (s, false)
    else match queueAt s j.hq with
      | none => (s, true)
      | some q =>
        let t := tagAt q j.tag
        if t.st = .committed ∨ t.job ≠ some id then (s, true)
        else if t.latched then (s, false)
        else (modTag s j.hq j.tag fun t => { t with st := .committed }, true)

/-! ### Responses recorded (R36, R142, R147) -/

/-- The number of the bootstrap queue, on slate 0 (R354). -/
def bootQueue : Nat := 0x1FFFF

/-- The bootstrap queue is destroyed once its key has been invalidated and none of its tags is busy (R354). -/
def dropBootstrap (s : State) : State :=
  match queueAt s bootQueue with
  | some q =>
    if !s.secure.bootstrap && q.key == 0xFFFF && !q.persist && (keyOf s 0 0xFFFF).isNone && q.tags.all fun t => !tagBusy t.2 then
      removeQueue s bootQueue
    else s
  | none => s

/-- Record a command's completion in its tag and send it. -/
def recordResp (s : State) (q t : Nat) (nonce : Word) (r : Resp) (c : Cmd) (job : Option Nat) : State :=
  let s := modTag s q t fun t => { t with st := .done, resp := some r, job := none }
  dropBootstrap (countSrc (sendResp s q t nonce r (cmdReply c) false job) (hqSlate q) srcCmdResp 1)

/-- An abort outcome with no result words (R118). -/
def outcomeOf (st : Status) : Resp := { status := st, orig := 0, words := [0, 0, 0, 0], aout := true }

/-- The outcome ABORT_FOUND_COMPLETE with the completion's status and result words (R118, R142). -/
def foundComplete (r : Option Resp) : Resp :=
  match r with
  | some r => { status := St.abortFoundComplete, orig := r.status, words := r.words, aout := true }
  | none => { status := St.abortFoundComplete, orig := 0, words := [0, 0, 0, 0], aout := true }

/-! ### Stopping a job (R150) -/

/-- Drop the DATA frames of a job that have not left (R150). -/
def dropData (s : State) (id : Nat) : State :=
  (keysWhere s.frames fun f => f.job == some id &&
    (match f.dgram with | some d => d.type == tyData | none => false)).foldl discardFrame s

/-- Stop and detach a job (R150): it keeps its frame until its outstanding work is done, and records nothing. -/
def stopJob (s : State) (id : Nat) : State :=
  match jobOf s id with
  | none => s
  | some j =>
    let s := settleSample s j.slate id 2 0 j.slot j.keep (isHk j) j.jid
    let s := modJob s id fun j => { j with detached := true }
    let s := match j.ended with
      | some _ => s
      | none => endJob s id (outcomeOf St.aborted) false
    releaseJob (dropData s id) id

/-- Free the buffers of an instance that never became a job. -/
def freeBufs (s : State) (l : List Nat) : State := { s with buffers := l.foldl tabDel s.buffers }

/-! ### One abort (R142) -/

/-- Latch an abort with n = L on a tag that is not EMPTY: the state, and the outcome it sends. Counted in ABORTCNT. -/
def abortTag (s : State) (q t : Nat) (tg : Tag) : State × Resp :=
  let sl := hqSlate q
  match tg.st with
  | .held =>
    let s := releaseTag s q t (tg.last.getD 0).toNat
    let s := freeBufs s (match tg.cmd with | some c => c.buf.toList | none => [])
    let r := outcomeOf St.aborted
    (bump (modTag s q t fun t => { t with st := .done, latched := true, resp := some r, outcome := some r, job := none })
      sl F.HQ.N_ABORTED, r)
  | .active =>
    let s := match tg.job with | some id => stopJob s id | none => s
    let r := outcomeOf St.aborted
    (bump (modTag s q t fun t => { t with st := .done, latched := true, resp := some r, outcome := some r, job := none })
      sl F.HQ.N_ABORTED, r)
  | .committed =>
    let r := tg.outcome.getD (outcomeOf St.abortCommitted)
    let s := if tg.outcome.isSome then s else bump s sl F.HQ.N_COMMITTED
    (modTag s q t fun t => { t with latched := true, outcome := some r }, r)
  | _ =>
    let r := tg.outcome.getD (foundComplete tg.resp)
    let s := if tg.outcome.isSome then s else bump s sl F.HQ.N_FOUND
    (modTag s q t fun t => { t with outcome := some r }, r)

/-- The nonce floor of a queue: the highest of RESET_NONCE and every L and BAR its tags have recorded (R133, R152). -/
def nonceFloor (q : Queue) : Nat :=
  (tabVals q.tags).foldl (fun a t => max a (max (t.last.getD 0).toNat (t.bar.getD 0).toNat)) q.resetNonce.toNat

/-- Where the outcomes of a reset go: to the ABORT's sender, or for Q_OP 3 to the queue's return address under the
queue's bound key, each in the class of its instance (R107, R133). -/
def resetReply (s : State) (hq : Nat) (q : Queue) (tg : Tag) (rt : Option ReplyTo) : Option ReplyTo :=
  match rt with
  | some r => some r
  | none => q.ret.map fun a =>
    { cls := match tg.cmd with | some c => c.cls | none => 3
      ipv4 := a.ipv4, mac := none, source := a.source, ua := 0xFFFF, host := q.host
      keyId := keyIdOf q.key (match keyOf s (hqSlate hq) q.key with | some k => k.gen.toNat | none => 0)
      slot := match tg.cmd with | some c => BitVec.ofNat 16 c.slot | none => 0 }

/-- The per-tag outcomes of a reset, in ascending tag number: the state, and the nonce and outcome of each tag named. One recorded
already is sent again as DUPLICATE (R142). -/
def resetTags (s : State) (hq : Nat) (rt : Option ReplyTo) : State × Tab (Word × Resp) :=
  (List.range 32).foldl (fun (p : State × Tab (Word × Resp)) t =>
    let (s, l) := p
    match queueAt s hq with
    | none => (s, l)
    | some q =>
      let tg := tagAt q t
      if tg.st = .empty then (s, l)
      else
        let n := tg.last.getD 0
        let (s, r) := abortTag s hq t tg
        let s := match resetReply s hq q tg rt with
          | some rt => sendResp s hq t n r rt tg.outcome.isSome none
          | none => s
        (s, tabPut l t (n, r))) (s, [])

/-- The mask of the tags a reset named (R152). -/
def resetMaskOf (l : Tab (Word × Resp)) : Word := BitVec.ofNat 64 (l.foldl (fun a p => a + 2 ^ p.1) 0)

/-- A queue reset takes effect (R152): per-tag outcomes, RESET_NONCE, arming, the event and, for an ABORT with QUEUE, the
summary. -/
def resetQueue (s : State) (hq : Nat) (nonce : Word) (rt : Option ReplyTo) : State :=
  let sl := hqSlate hq
  let t := now s sl
  let (s, l) := resetTags s hq rt
  let m := resetMaskOf l
  let s := modQueue s hq fun q =>
    { q with resetNonce := nonce, armed := true, resetMask := m, resetTb := BitVec.ofNat 64 t, resetOut := l }
  let s := bump s sl F.HQ.N_RESETS
  let s := match rt with
    | some rt =>
      sendResp s hq 0 nonce
        { status := St.ok, orig := 0, words := [m, BitVec.ofNat 64 t, 0, 0], aout := true } rt false none
    | none => s
  raise s sl Ev.QUEUE_RESET

/-! ### Dispatch (R22, R23) -/

/-- Whether the unit has stopped all but class 7 work: class 4 latched, or the lease stop of R291 (R321). -/
def unitStopped (s : State) : Bool := isF s 0 F.FPIN.C4 || s.lease.lapsed

/-- The administrative right (R112). -/
def adminRight (rights : Word) : Bool := rights.getLsbD 0

/-- The checks of R22 in order: the status that ends the command, if any fails. -/
def dispatchCheck (s : State) (c : Cmd) : Option Status :=
  match slotProg s c.slot with
  | none => some St.noProgram
  | some (_, p) =>
    if isHkSlot c.slot then some St.rights
    else if p.keep && !adminRight c.rights then some St.rights
    else none

/-- A buffer for an outbound payload, and h2. -/
def outBuffer (s : State) (sl len : Nat) : State × Option Nat :=
  if len = 0 then (s, none)
  else
    let (s, b) := newBuffer s { slate := sl, len := len, data := [], inbound := false, arrived := [] }
    (s, some b)

/-- Make the job of a dispatched command (R23) and put it in the dispatch queue. -/
def dispatchJob (s : State) (hq tag : Nat) (nonce : Word) (c : Cmd) (v : Nat) (p : Program) : State × Nat :=
  let sl := hqSlate hq
  let (s, hcap) := newBuffer s
    { slate := sl, len := c.capsule.length, data := bytesPut [] 0 c.capsule, inbound := false, arrived := [] }
  let (s, out) := outBuffer s sl c.outLen
  let regs : List (Nat × Word) :=
    (List.range 8).map (fun i => (i + 1, c.args.getD i 0)) ++
      [(9, BitVec.ofNat 64 c.inLen), (10, c.rights), (11, c.tb), (12, BitVec.ofNat 64 c.slot), (13, nonce),
       (14, c.srcUa.setWidth 64)]
  let h0 : Handle := { buf := hcap, off := 0, len := c.capsule.length, rw := false, origin := .other }
  let h1 : Tab Handle := match c.buf with
    | some b => if c.inLen = 0 then [] else [(1, { buf := b, off := 0, len := c.inLen, rw := false, origin := .h1 })]
    | none => []
  let h2 : Tab Handle := match out with
    | some b => [(2, { buf := b, off := 0, len := c.outLen, rw := true, origin := .h2 })]
    | none => []
  let j := { freshJob .command sl c.slot v p.keep (startBudget s sl p) with
    hq := hq, tag := tag, nonce := nonce, cls := c.cls,
    g := regs.foldl (fun g r => tabSet 0 g r.1 r.2) [], h := (0, h0) :: (h1 ++ h2), outBuf := out,
    jid := jidOf .command hq tag p.keep c.host.toNat,
    buffers := hcap :: (c.buf.toList ++ out.toList) }
  let (s, id) := addJob s j
  let s := modTag s hq tag fun t => { t with st := .active, job := some id }
  let mine := fun (h : Hazard) => h.hq == hq && h.tag == tag && h.job.isNone
  let s := { s with hazards := s.hazards.map fun h => if mine h then { h with job := some id } else h
                    hazPast := s.hazPast ++ s.hazards.filter mine }
  (countSrc (toDispatch s id) sl srcDispatch 1, id)

/-- Whether the power state lets a command be dispatched (R98, R153): none on class 7 while the unit is in PS2. -/
def psHolds (s : State) (c : Cmd) : Bool := s.power.now == 2 && c.cls == 7

/-- Whether a command is answered NOT_SERVING without dispatch: class 3 from the start of entry to PS2 (R153). -/
def psRefuses (s : State) (c : Cmd) : Bool :=
  c.cls != 7 && (s.power.now == 2 || (match s.power.target with | some p => p.1 == 2 | none => false))

/-- A HELD command is dispatched when no earlier conflicting entry remains (R142, R144). -/
def tryDispatch (s : State) (hq tag : Nat) : State :=
  match queueAt s hq with
  | none => s
  | some q =>
    let t := tagAt q tag
    match t.st, t.cmd with
    | .held, some c =>
      let mine := s.hazards.filter fun h => h.hq == hq && h.tag == tag && h.job.isNone
      if mine.any (hazBlocked s) || psHolds s c || (unitStopped s && c.cls != 7) then s
      else
        let nonce := t.last.getD 0
        match dispatchCheck s c with
        | some st =>
          freeBufs (recordResp (releaseTag s hq tag nonce.toNat) hq tag nonce (respOf st [0, 0, 0, 0]) c none) c.buf.toList
        | none =>
          match slotProg s c.slot with
          | none => s
          | some (v, p) => (dispatchJob s hq tag nonce c v p).1
    | _, _ => s

end Sys2Proof.Machine
end

