-- ==== Sys2Proof/Machine/Gf.lean ====
section
/-! DEFINITION. The arithmetic of P and Q: GF(2^8) with the polynomial 0x11D and generator 2, over blocks of bytes
(R168). -/

namespace Sys2Proof.Machine

/-- Multiply by the generator. -/
def gfDouble (x : Nat) : Nat := if x < 128 then 2 * x else (2 * x % 256) ^^^ 0x1D

/-- Multiply in GF(2^8), over the bits of the second factor from the highest. -/
def gfMulN : Nat → Nat → Nat → Nat
  | 0, _, _ => 0
  | k + 1, a, b => (if bitOf b 0 then a else 0) ^^^ gfMulN k (gfDouble a) (b / 2)

/-- Multiply in GF(2^8). -/
def gfMul (a b : Nat) : Nat := gfMulN 8 a b

/-- The power g^k of the generator. -/
def gfPow : Nat → Nat
  | 0 => 1
  | k + 1 => gfDouble (gfPow k)

/-- The inverse of a nonzero element: its power 254. -/
def gfInv (a : Nat) : Nat := (List.range 254).foldl (fun x _ => gfMul x a) 1

/-- Add two blocks byte by byte; a block shorter than the other counts as padded with zeros. -/
def blockXor : Block → Block → Block
  | [], b => b
  | a, [] => a
  | x :: a, y :: b => (x ^^^ y) :: blockXor a b

/-- Multiply every byte of a block by a constant. -/
def blockMul (c : Nat) (b : Block) : Block := b.map fun x => BitVec.ofNat 8 (gfMul c x.toNat)

/-- P of the data blocks of one column (R168). -/
def parityP (ds : List Block) : Block := ds.foldl blockXor []

/-- Q of the data blocks of one column, the first with weight g^0 (R168). -/
def parityQ : List Block → Block
  | [] => []
  | d :: r => blockXor d (blockMul 2 (parityQ r))

/-- Rebuild one column of a course from what can be read of it: positions 0 to D - 1 are data, then P and Q; at most two
may be absent (R168). The answer is the D data blocks. -/
def rebuildColumn (d : Nat) (col : List (Option Block)) : Option (List Block) :=
  let at_ (i : Nat) : Option Block := (col[i]?).join
  let miss := (List.range (d + 2)).filter fun i => (at_ i).isNone
  let data := (List.range d).map fun i => (at_ i).getD []
  let p' := blockXor ((at_ d).getD []) (parityP data)
  let q' := blockXor ((at_ (d + 1)).getD []) (parityQ data)
  match miss.filter (· < d), miss.length with
  | [], k => if k ≤ 2 then some data else none
  | [a], 1 => some (data.set a p')
  | [a], 2 =>
    if (at_ d).isSome then some (data.set a p')
    else some (data.set a (blockMul (gfInv (gfPow a)) q'))
  | [a, b], 2 =>
    let da := blockMul (gfInv (gfPow a ^^^ gfPow b)) (blockXor q' (blockMul (gfPow b) p'))
    some ((data.set a da).set b (blockXor p' da))
  | _, _ => none

end Sys2Proof.Machine
end

