-- ==== Sys2Proof/Machine/Map.lean ====
section
/-! DEFINITION. The pool layout, placement of strips, the block map and reading of grains (R155 to R166, R207 to R210). -/

namespace Sys2Proof.Machine

/-! ### Course numbers and grains (R155, R156) -/

/-- Data grains of a course. -/
def dataGrains (l : Layout) : Nat := 32 * l.d

/-- The physical grain number of grain `i` of ordinal `k` (R156). -/
def pgnOf (l : Layout) (k i : Nat) : Nat :=
  if l.d ≤ 16 then k * 512 + i
  else if i < 512 then 2 * k * 512 + i else (2 * k + 1) * 512 + (i - 512)

/-- The ordinal and grain index a physical grain number names (R156). -/
def grainOf (l : Layout) (p : Nat) : Nat × Nat :=
  if l.d ≤ 16 then (p / 512, p % 512) else (p / 512 / 2, p / 512 % 2 * 512 + p % 512)

/-- Ordinals of the pool: 1 to 4096 B - 1 (R164). -/
def ordinals (l : Layout) : Nat := 4096 * l.bands - 1

/-- The row of the layout table for an ordinal (R156). -/
def rowOf (l : Layout) (k : Nat) : List Nat := l.rows.getD (k % 4096) []

/-- The rows below row `r` that hold member `m`. -/
def rankOf (l : Layout) (r m : Nat) : Nat := ((l.rows.take r).filter fun x => x.contains m).length

/-- The slot of member `m` for ordinal `k` (R164, R166). In a zoned pool the slot counts strips from zone 0 on. -/
def slotOf (l : Layout) (k m : Nat) : Nat :=
  let b := k / 4096
  let rank := rankOf l (k % 4096) m
  if l.zoned then
    let t := b % l.runBands * l.aMax + rank
    (8 * (b / l.runBands) + t % 8) * l.zs + t / 8
  else b * l.aMax + rank

/-- The member and slot of a position of a course by the layout table (R164, R166). -/
def place (l : Layout) (k pos : Nat) : Nat × Nat :=
  let m := (rowOf l k).getD pos 0
  (m, slotOf l k m)

/-- The ordinal whose strip a slot of a member holds by the layout table (R164, R166): the inverse of `slotOf`. -/
def ordinalAt (l : Layout) (m slot : Nat) : Option Nat :=
  let zone := slot / max 1 l.zs
  let t := if l.zoned then slot % max 1 l.zs * 8 + zone % 8 else slot
  let b := if l.zoned then zone / 8 * l.runBands + t / max 1 l.aMax else slot / max 1 l.aMax
  let rows := (List.range 4096).filter fun r => (l.rows.getD r []).contains m
  (rows[t % max 1 l.aMax]?).map fun r => 4096 * b + r

/-- The lowest position at which an ordinal's row lists a member. -/
def posIn (l : Layout) (k m : Nat) : Option Nat := (rowOf l k).findIdx? (· == m)

/-- The run of an ordinal in a zoned pool (R166). -/
def runOf (l : Layout) (k : Nat) : Nat := k / 4096 / max 1 l.runBands

/-- The ordinals of one run. -/
def runSize (l : Layout) : Nat := 4096 * max 1 l.runBands

/-- Whether a run holds a course: it is free when all its zones are empty on every member (R167). -/
def runBusy (s : State) (l : Layout) (r : Nat) : Bool := s.courses.any fun c => runOf l c.1 == r

/-- The free runs of a zoned pool other than the current one, in rising order (R167). -/
def freeRuns (s : State) (l : Layout) : List Nat :=
  (List.range (l.bands / max 1 l.runBands)).filter fun r => !runBusy s l r && r != runOf l s.lastOrd

/-- The ordinals left in the current run of a zoned pool; a closed run has none (R167). -/
def runLeft (l : Layout) (last : Nat) : Nat := (runOf l last + 1) * runSize l - last - 1

/-- Released ordinals available for allocation (R183 FREE); ordinal 0 is never one (R156). -/
def freeOrdinals (s : State) : Nat :=
  match s.layout with
  | none => 0
  | some l =>
    if l.zoned then
      runLeft l s.lastOrd + (freeRuns s l).foldl (fun a r => a + runSize l - if r = 0 then 1 else 0) 0
    else ordinals l - s.courses.length

/-- The first slot of a member's spare area (R164, R166). -/
def spareBase (l : Layout) : Nat :=
  if l.zoned then 8 * (l.bands / max 1 l.runBands) * l.zs else l.bands * l.aMax

/-! ### Members (R15, R182, R184) -/

/-- The slate that does slate `x`'s share of the unit's work: its substitute once it is lost, and that one's in turn (R320 steps 6
and 7). -/
def actsFor (s : State) (x : Nat) : Nat := let y := tabGetD s.lost x x; tabGetD s.lost y y

/-- The slate whose port a member is on. -/
def memberSlate (m : Nat) : Nat := m / 6

/-- A member. -/
def memberOf (s : State) (m : Nat) : Member := tabGetD s.members m State.noMember

/-- Store a member. -/
def putMember (s : State) (m : Nat) (x : Member) : State := { s with members := tabPut s.members m x }

/-- Whether a partner in the standby role can be reached (R182). -/
def standbyServes (s : State) : Bool := s.lease.up && s.lease.pRole == 2

/-- Whether a member is in service (R184 MSTATE 2). -/
def inService (s : State) (m : Nat) : Bool := (memberOf s m).mstate == 2

/-- Whether there is a path to a member: its slate's ports, or the partner's once the slate is lost (R182). -/
def hasPath (s : State) (m : Nat) : Bool :=
  serving s (memberSlate m) || (tabHas s.lost (memberSlate m) && standbyServes s)

/-- The failure index recorded for a member (R206). -/
def failIndex (s : State) (m : Nat) : Option Nat :=
  match (memberOf s m).recorded with
  | .failed j => j
  | _ => none

/-- Whether a member is recorded failed. -/
def recordedFailed (s : State) (m : Nat) : Bool :=
  match (memberOf s m).recorded with
  | .failed _ => true
  | _ => false

/-- The first LBA of a strip slot of a member: in a zoned pool the slots of a zone start at the zone's first LBA (R164, R166). -/
def slotLba (s : State) (m slot : Nat) : Nat :=
  match s.layout with
  | some l => if l.zoned then slot / max 1 l.zs * (memberOf s m).zoneLbas + slot % max 1 l.zs * 32 else slot * 32
  | none => slot * 32

/-- The strip slot and column of an LBA of a member's namespace; `none` in a part of a zone beyond its capacity. -/
def lbaSlot (s : State) (m lba : Nat) : Option (Nat × Nat) :=
  match s.layout with
  | some l =>
    if l.zoned then
      let z := max 1 (memberOf s m).zoneLbas
      if lba % z / 32 < l.zs then some (lba / z * l.zs + lba % z / 32, lba % 32) else none
    else some (lba / 32, lba % 32)
  | none => some (lba / 32, lba % 32)

/-- A course. -/
def courseOf (s : State) (k : Nat) : Option Course := tabGet s.courses k

/-- Change a course. -/
def modCourse (s : State) (k : Nat) (f : Course → Course) : State := { s with courses := tabMod s.courses k f }

/-- The key of a spare-map entry. -/
def spareKey (j slot : Nat) : Nat := j * 2 ^ 40 + slot

/-- A spare-map entry (R208). -/
def spareOf (s : State) (j slot : Nat) : Option SpareEntry := tabGet s.spare (spareKey j slot)

/-- Whether the own slot of a strip does not hold it. -/
def posLost (s : State) (k pos : Nat) : Bool := match courseOf s k with | some c => c.lostPos.contains pos | none => false

/-- Where a strip can be read: its own slot, or, where that does not hold it, its spare destination; `none` while it is missing
(R208 to R210, R219, R220). -/
def stripAt (s : State) (l : Layout) (k pos : Nat) : Option (Nat × Nat) :=
  let (m, slot) := place l k pos
  if !posLost s k pos then (if inService s m then some (m, slot) else none)
  else match (failIndex s m).bind fun j => spareOf s j slot with
    | none => none
    | some e => if e.valid && !e.stale && inService s e.member then some (e.member, e.slot) else none

/-- Whether a strip can be read now. -/
def stripReadable (s : State) (l : Layout) (k pos : Nat) : Bool :=
  match stripAt s l k pos with
  | some (m, _) => hasPath s m
  | none => false

/-- The key of a 4 KiB column of a strip slot in `State.media`.
DESIGN CHOICE (log entry 67). -/
def mediaKey (m slot col : Nat) : Nat := (m * 2 ^ 40 + slot) * 32 + col

/-- A column as it stands on a member. -/
def mediaRead (s : State) (m slot col : Nat) : Block := tabGetD s.media (mediaKey m slot col) []

/-- Write a column of a strip slot. -/
def mediaWrite (s : State) (m slot col : Nat) (b : Block) : State :=
  { s with media := tabSet [] s.media (mediaKey m slot col) (blockTrim b) }

/-- Column `c` of every strip of a course, `none` where it cannot be read. `bad` names positions whose member returned
an unrecovered read. -/
def columnOf (s : State) (l : Layout) (k c : Nat) (bad : List Nat) : List (Option Block) :=
  (List.range (l.d + 2)).map fun pos =>
    match stripAt s l k pos with
    | none => none
    | some (m, slot) => if hasPath s m && !bad.contains pos then some (mediaRead s m slot c) else none

/-- Read a data grain of a course, reconstructing it if need be (R168, R210). -/
def readGrain (s : State) (l : Layout) (k i : Nat) (bad : List Nat) : Option Block :=
  let col := columnOf s l k (i % 32) bad
  match (col[i / 32]?).join with
  | some b => some b
  | none => (rebuildColumn l.d col).map fun ds => ds.getD (i / 32) []

/-- Whether a grain can be had from a column: read or rebuilt; not now, because more than two of its strips are missing counting
those of members without a path (R182); or not at all. -/
inductive Served where
  | ok
  | unserved
  | lost
  deriving DecidableEq, Repr

/-- Whether a column of a course can be rebuilt; `bad` names positions that could not be read in it (R182, R210, R215). -/
def columnServed (s : State) (l : Layout) (k : Nat) (bad : List Nat) : Served :=
  let can := (List.range (l.d + 2)).filter fun p => stripReadable s l k p && !bad.contains p
  let none_ := (List.range (l.d + 2)).filter fun p => (stripAt s l k p).isSome && !stripReadable s l k p
  if l.d ≤ can.length then .ok else if l.d ≤ can.length + none_.length then .unserved else .lost

/-- Whether one strip of a column can be had. -/
def stripServed (s : State) (l : Layout) (k pos : Nat) (bad : List Nat) : Served :=
  if stripReadable s l k pos && !bad.contains pos then .ok else columnServed s l k bad

/-! ### Map entries (R157, R158) -/

/-- The physical grain number of an entry. -/
def entryPgn (e : Word) : Nat := bits e 0 48
/-- GEN of an entry. -/
def entryGen (e : Word) : Nat := bits e 48 8
/-- LOST of an entry. -/
def entryLost (e : Word) : Bool := e.getLsbD 56

/-- Whether an entry is deallocated. -/
def deallocated (e : Word) : Bool := entryPgn e == 0 && !entryLost e

/-- An entry from its fields. -/
def mkEntry (pgn gen : Nat) (lost : Bool) : Word :=
  BitVec.ofNat 64 (pgn % 2 ^ 48 + gen % 256 * 2 ^ 48 + lost.toNat * 2 ^ 56)

/-- The key of an entry in `State.map`. -/
def mapKey (v lba : Nat) : Nat := v * 2 ^ 64 + lba

/-- The map entry of an LBA; entries not listed are zero (R157). -/
def mapEntry (s : State) (v lba : Nat) : Word := tabGetD s.map (mapKey v lba) 0

/-- Write an entry. -/
def putMap (s : State) (v lba : Nat) (e : Word) : State := { s with map := tabSet 0 s.map (mapKey v lba) e }

/-- The home slate of the map grain of level `j` that covers an LBA (R161). -/
def mapHome (n v lba j : Nat) : Nat := (lba / 2 ^ (9 + 9 * j) + 2 * v) % n

/-- The size of a volume in blocks; `none` where it is not defined. -/
def volSize (s : State) (v : Nat) : Option Nat := (tabGet s.volumes v).map (·.size)

/-- The size of a volume as a program on slate `sl` finds it: a deletion or shrink is seen from its effective TB on, once its record
has taken effect (R95, R185). -/
def openSize (s : State) (sl v : Nat) : Option Nat :=
  match tabGet s.volumes v with
  | none => none
  | some x => match x.cut with
    | none => some x.size
    | some c => match c.tb with
      | none => some x.size
      | some t => if now s sl < t ∨ x.size ≠ c.size then some c.was else if c.size = 0 then none else some c.size

/-- Whether a program on slate `sl` finds an extent within a defined volume. -/
def extentDefined (s : State) (sl v lba k : Nat) : Bool :=
  match openSize s sl v with | some z => decide (lba + k ≤ z) | none => false

/-- Whether an LBA is defined. -/
def lbaDefined (s : State) (v lba : Nat) : Bool := match volSize s v with | some z => decide (lba < z) | none => false

/-! ### Map grains (R160 to R162, R197, R208) -/

/-- The levels of the map of a volume of `size` blocks: the smallest L with 512^L at least its size (R160). -/
def mapLevels (size : Nat) : Nat := ((List.range 6).find? fun l => decide (size ≤ 512 ^ l)).getD 6

/-- The entries of a map: the blocks of a volume, or for v = 0x1000 + j the slots of a member that spare map j covers (R208). -/
def mapSize (s : State) (v : Nat) : Nat :=
  if 0x1000 ≤ v then (match s.layout with | some l => spareBase l | none => 0) else (volSize s v).getD 0

/-- The level of the root map grain of a map of this size. -/
def rootLevel (size : Nat) : Nat := mapLevels size - 1

/-- The key of map grain `i` of level `j` of a map. -/
def nodeKey (v j i : Nat) : Nat := v * 2 ^ 60 + j * 2 ^ 56 + i

/-- The map a map grain belongs to. -/
def nodeVol (k : Nat) : Nat := k / 2 ^ 60
/-- The level of a map grain. -/
def nodeLevel (k : Nat) : Nat := k / 2 ^ 56 % 16
/-- The number of a map grain within its level. -/
def nodeIndex (k : Nat) : Nat := k % 2 ^ 56

/-- The key of a leaf map grain. -/
def leafKey (v leaf : Nat) : Nat := nodeKey v 0 leaf

/-- A map grain as first met: nothing of it on flash, nothing pending. -/
def leafNew : Leaf := { cached := false, pending := [], oldest := 0, writing := none, flushed := 0, ptr := 0 }

/-- A map grain. -/
def nodeOf (s : State) (v j i : Nat) : Leaf := tabGetD s.leaves (nodeKey v j i) leafNew

/-- A leaf map grain. -/
def leafOf (s : State) (v leaf : Nat) : Leaf := nodeOf s v 0 leaf

/-- Change a map grain. -/
def modNode (s : State) (v j i : Nat) (f : Leaf → Leaf) : State :=
  { s with leaves := tabModD s.leaves (nodeKey v j i) leafNew f }

/-- The home slate of map grain `i` of level `j` (R161). -/
def nodeHome (n v i : Nat) : Nat := (i + 2 * v) % n

/-- Whether a map grain is in the map cache: every interior one is, for as long as its volume is defined (R162); a leaf that was
never written back is made from nothing. -/
def nodeCached (s : State) (v j i : Nat) : Bool :=
  let x := nodeOf s v j i
  decide (0 < j) || x.cached || entryPgn x.ptr == 0

/-- Note in the map cache a leaf that is there. -/
def noteCached (s : State) (v leaf : Nat) : State := modNode s v 0 leaf fun x => { x with cached := true }

/-- One more pending update on a map grain, by the change of this UCN (R197). -/
def pendNode (s : State) (v j i u : Nat) : State :=
  let t := now s (nodeHome s.n v i)
  modNode s v j i fun x => { x with
    cached := x.cached || entryPgn x.ptr == 0
    pending := x.pending ++ [u], oldest := if x.pending.isEmpty then t else x.oldest }

/-- One more pending update on the leaf of an LBA (R197). -/
def pendLeaf (s : State) (v lba u : Nat) : State := pendNode s v 0 (lba / 512) u

/-- The pending updates of a map grain that no copy on its way holds. -/
def newUpdates (x : Leaf) : List Nat :=
  match x.writing with
  | none => x.pending
  | some m => x.pending.filter fun u => decide (m < u)

/-- Whether the leaf of an LBA can be had: it is in the map cache, or its map course can be read or rebuilt (R68, R162). -/
def leafServed (s : State) (v lba : Nat) : Served :=
  let x := leafOf s v (lba / 512)
  if nodeCached s v 0 (lba / 512) then .ok
  else match s.layout with
    | none => .ok
    | some l => let (k, i) := grainOf l (entryPgn x.ptr); stripServed s l k (i / 32) []

/-! ### Live grains (R175, R177) -/

/-- A course whose live count has reached zero becomes RETIRED and keeps the jobs then in existence (R175). -/
def retireIfDead (s : State) (k : Nat) : State :=
  match courseOf s k with
  | some c => if c.st = .durable ∧ c.live = 0 then
      modCourse s k fun c => { c with st := .retired, holdJobs := tabKeys s.jobs } else s
  | none => s

/-- A grain is named by no entry any longer, or by one more. -/
def grainLive (s : State) (pgn : Nat) (up : Bool) : State :=
  match s.layout with
  | none => s
  | some l =>
    if pgn = 0 then s
    else
      let k := (grainOf l pgn).1
      retireIfDead (modCourse s k fun c => { c with live := if up then c.live + 1 else c.live - 1 }) k

/-- Change the entry of an LBA by the change of UCN `u`, with the live counts of the grains concerned (R158, R177). -/
def changeEntry (s : State) (v lba : Nat) (e : Word) (u : Nat) : State :=
  let old := entryPgn (mapEntry s v lba)
  let s := putMap (pendLeaf s v lba u) v lba e
  if old = entryPgn e then s else grainLive (grainLive s (entryPgn e) true) old false

/-- A host write's update of an entry (R158). An LBA that is not defined drops it (R95). -/
def applyHost (s : State) (v lba pgn u : Nat) : State :=
  if lbaDefined s v lba then
    changeEntry s v lba (mkEntry pgn (entryGen (mapEntry s v lba) + 1) false) u
  else s

/-- A relocation of an entry: applied only if the entry still holds the old grain (R158). -/
def applyReloc (s : State) (v lba pgn old u : Nat) : State :=
  let e := mapEntry s v lba
  if lbaDefined s v lba && entryPgn e == old then changeEntry s v lba (mkEntry pgn (entryGen e) (entryLost e)) u
  else s

/-- The spare-map entry a word spells (R208). A destination that has failed while the record was on its way is stale (R209). -/
def wordSpare (s : State) (key : Nat) (x : Word) : SpareEntry :=
  let m := bits x 40 6
  let slot := bits x 0 40
  let gone (e : Option SpareEntry) : Bool := match e with | some e => e.stale && e.member == m && e.slot == slot | none => false
  { member := m, slot := slot, valid := x.getLsbD 46, stale := gone (tabGet s.spare key) || gone (tabGet s.spareResv key) }

/-- The entry of a strip that copy-back has written to its own slot is zeroed (R220): reads use that slot from now on, and the
spare slot is free once every job now in existence has ended. -/
def copiedBack (s : State) (m slot : Nat) (e : SpareEntry) : State :=
  let k := s.layout.bind fun l => (ordinalAt l m slot).bind fun k => (posIn l k m).map fun p => (k, p)
  let s := match k with
    | some (k, p) => modCourse s k fun c => { c with lostPos := c.lostPos.filter (· != p) }
    | none => s
  { s with
    copyBack := tabMod s.copyBack m fun cb => { cb with busy := none, done := slot + 1 }
    spareHeld := s.spareHeld ++ [(e.member, e.slot, tabKeys s.jobs)] }

/-- An MSET record takes effect on spare map j = v - 0x1000 (R208). -/
def applySpare (s : State) (v slot : Nat) (x : Word) (u : Nat) : State :=
  let key := spareKey (v - 0x1000) slot
  let s := pendLeaf s v slot u
  if x = 0 then
    let copied := s.copyBack.find? fun c => c.2.index == v - 0x1000 && c.2.busy == some slot
    let s' := { s with spare := tabDel s.spare key }
    match copied, tabGet s.spare key with
    | some c, some e => copiedBack s' c.1 slot e
    | _, _ => s'
  else { s with spare := tabPut s.spare key (wordSpare s key x), spareResv := tabDel s.spareResv key }

/-- An MSET record of UCN `u` takes effect: on a spare map for volume 0x1000 + j, else on the entry of an LBA, where it is defined:
as written; as a deallocation with GEN advanced; or setting LOST where the entry still names the grain (R95, R158, R208, R215). -/
def applyMset (s : State) (v lba : Nat) (x : Word) (how : MsetHow) (u : Nat) : State :=
  let e := mapEntry s v lba
  if 0x1000 ≤ v then applySpare s v lba x u
  else if !lbaDefined s v lba then s
  else match how with
    | .exact => changeEntry s v lba x u
    | .dealloc => changeEntry s v lba (mkEntry 0 (entryGen e + 1) false) u
    | .lost => if entryPgn e = entryPgn x then changeEntry s v lba (mkEntry (entryPgn e) (entryGen e) true) u else s

/-- A spare-map entry as a word (R208). -/
def spareWord (e : SpareEntry) : Word :=
  BitVec.ofNat 64 (e.slot % 2 ^ 40 + e.member % 64 * 2 ^ 40 + (if e.valid then 2 ^ 46 else 2 ^ 47))

end Sys2Proof.Machine
end

