-- ==== Sys2Proof/Machine/Journal.lean ====
section
/-! DEFINITION. The journal: its lines, its owners and holders, and what a confirmed record does (R185 to R197). -/

namespace Sys2Proof.Machine

/-! ### Journal lines (R187, R188) -/

/-- One bit of CRC-32C, reflected. -/
def crcStep (c : Nat) : Nat := if c % 2 = 1 then c / 2 ^^^ 0x82F63B78 else c / 2

/-- CRC-32C (Castagnoli) of a block. -/
def crc32c (b : Block) : Nat :=
  (b.foldl (fun c x => (List.range 8).foldl (fun c _ => crcStep c) (c ^^^ x.toNat)) 0xFFFFFFFF) ^^^ 0xFFFFFFFF

/-- The number of a course kind in a COURSE record. -/
def kindNo : CourseKind → Nat
  | .data => 0
  | .reclaim => 1
  | .map => 2

/-- The TYPE of a record. -/
def recType : RecBody → Nat
  | .course .. => 1
  | .mapx .. => 2
  | .reloc .. => 3
  | .mset .. => 4
  | .commit .. => 5
  | .release .. => 6
  | .table .. => 7

/-- One extent of a MAPX body. -/
def extentBytes (e : MapExtent) : Block :=
  leBytes 8 e.lba ++ leBytes 4 (e.volume % 4096 + e.grain % 1024 * 2 ^ 12 + e.count % 1024 * 2 ^ 22)

/-- One relocation of a RELOC body. -/
def relocBytes (r : Reloc) : Block :=
  leBytes 8 r.lba ++ leBytes 4 (r.volume % 4096 + r.grain % 1024 * 2 ^ 12) ++ leBytes 6 r.old

/-- What an entry of the key table holds, as numbers. -/
def keyNumbers (k : KeyEntry) : List Nat :=
  [k.mode.toNat, k.window.toNat, k.persist.toNat, k.gen.toNat, k.bind, k.rights.toNat, k.lo.toNat, k.hi.toNat, k.check.toNat,
    k.salt.toNat] ++ k.aes.map (·.toNat)

/-- What a layout holds, as numbers. -/
def layoutNumbers (l : Layout) : List Nat :=
  [l.cap, l.d, l.s, l.zoned.toNat, l.aMax, l.zs, l.bands, l.runBands] ++ l.members ++ l.rows.flatten

/-- The table and entry of a change to a unit table, and what the entry then holds, as numbers (R186 to R188). The manual gives
tables and their images no numbers; those here name them within the model.
DESIGN CHOICE (log entry 121). -/
def itemNumbers : TableItem → Nat × Nat × List Nat
  | .address c p => (0, 0, [c] ++ p.toList)
  | .epoch e => (1, 0, [e])
  | .layout l => (2, 0, l.toList.flatMap layoutNumbers)
  | .volume v z => (3, v, z.toList)
  | .root v p => (4, v, [p.toNat])
  | .manifest slot p => (5, slot, p.toList)
  | .measure slot m => (6, slot, m.map (·.toNat))
  | .key i k => (7, i, k.toList.flatMap keyNumbers)
  | .queue hq h k p present => (8, hq, [h.toNat, k, p.toNat, present.toNat])
  | .ways sl ms => (9, sl, ms.flatMap fun x => [x.1, x.2])
  | .progress a => (10, 0, [a.op, a.state, a.ident.toNat, a.final.toNat, a.failed, a.volume, a.action, a.pattern, a.passes, a.d,
      a.s, a.stage, a.seq] ++ a.todo)
  | .holders o hs => (11, o, hs)
  | .member m (.inService g) tb => (12, m, [1, g, tb])
  | .member m (.failed j) tb => (12, m, [2, tb] ++ j.toList)
  | .member m .notInPool tb => (12, m, [0, tb])
  | .witnesses w => (13, 0, [w])
  | .domain en p => (14, 0, [en.toNat, p.toNat])
  | .flashDir k present => (15, k, [present.toNat])
  | .auth op keyNo pub => (16, keyNo, [op] ++ pub.map (·.toNat))
  | .wrap bay key => (17, bay, [key])

/-- The line of the UNIT or QTAB area that a change writes, as one number. -/
def itemKey (t : TableItem) : Nat := (itemNumbers t).1 * 2 ^ 64 + (itemNumbers t).2.1

/-- The BODY of a record, without trailing zeros. -/
def recBody : RecBody → Block
  | .course k kind ms tb =>
    leBytes 5 k ++ [BitVec.ofNat 8 (kindNo kind)] ++ (List.range 24).map (fun i => BitVec.ofNat 8 (ms.getD i 0xFF)) ++
      leBytes 8 tb
  | .mapx es => es.flatMap extentBytes
  | .reloc rs => rs.flatMap relocBytes
  | .mset lba v e ucn _ => leBytes 8 lba ++ leBytes 2 v ++ leBytes 8 e.toNat ++ leBytes 8 ucn
  | .commit k first count ucn tb =>
    leBytes 5 k ++ leBytes 3 0 ++ leBytes 8 first ++ leBytes 4 count ++ leBytes 8 ucn ++ leBytes 8 tb
  | .release k count => leBytes 5 k ++ leBytes 3 0 ++ leBytes 4 count
  | .table t => let (a, i, x) := itemNumbers t; (Config.tableImage a i x).take 40

/-- TAB and IDX of a record: zero unless it is a TABLE record. -/
def recTab : RecBody → Block
  | .table t => leBytes 2 (Config.tableNo (itemNumbers t).1) ++ leBytes 4 (itemNumbers t).2.1
  | _ => leBytes 6 0

/-- The holder mask of FLAGS[7:4]: twin, partner, first and second stand-in. -/
def holderMask (hs : List Nat) : Nat := maskOf ((hs.filter fun p => 2 ≤ p).map (· + 2))

/-- The 64 bytes of a journal line (R187). -/
def lineBytes (o : Nat) (r : Rec) : Block :=
  let b := leBytes 8 r.seq ++ [BitVec.ofNat 8 (recType r.body), BitVec.ofNat 8 (o + r.grp.toNat * 8 + holderMask r.need)] ++
    recTab r.body ++ blockSlice (recBody r.body) 0 44
  b ++ leBytes 4 (crc32c b)

/-! ### Owners and holders (R191 to R194) -/

/-- An owner with nothing written. -/
def ownerNew : Owner := { seq := 0, trim := 1, holders := [], recs := [], waiting := [] }

/-- An owner's journal. -/
def ownerOf (s : State) (o : Nat) : Owner := tabGetD s.owners o ownerNew

/-- Store an owner's journal. -/
def putOwner (s : State) (o : Nat) (w : Owner) : State := { s with owners := tabPut s.owners o w }

/-- The slate that is holder `p` of owner `o`, by its place in the list of R191. -/
def holderSlate (n o p : Nat) : Nat :=
  match p with
  | 2 => o ^^^ 1
  | 4 => o ^^^ (n / 2)
  | 5 => (o ^^^ (n / 2)) ^^^ 1
  | _ => o

/-- Whether every copy an area holds of a lost owner has been packed and resolved (R194). -/
def lostDone (s : State) (o : Nat) : Bool :=
  (ownerOf s o).recs.isEmpty && (s.courses.all fun c => c.2.slate != o || c.2.st == .durable || c.2.st == .retired || c.2.st == .released)

/-- Whether an area of a slate can take owner `o`'s copies, by the owner whose copies it holds: it is empty, holds them already, or
holds those of a lost owner that are packed and resolved (R194). -/
def areaOpen (s : State) (held : Option Nat) (o : Nat) : Bool :=
  match held with
  | none => true
  | some q => q == o || !serving s q && lostDone s q

/-- Whether slate `x` has an area for owner `o`'s copies as stand-in (R194): its STANDIN area, or, where that holds a live owner's
copies, its TWIN area once the twin is lost and its copies are packed. -/
def areaFree (s : State) (x o : Nat) : Bool :=
  match tabGet s.standin x with
  | none => true
  | some q =>
    if areaOpen s (some q) o then true
    else serving s q && !serving s (x ^^^ 1) && lostDone s (x ^^^ 1) && areaOpen s (tabGet s.standin2 x) o

/-- Slate `x` takes owner `o`'s copies as stand-in; the QTAB copy of the lost owner whose area that was is given up (R194). -/
def takeArea (s : State) (o x : Nat) : State :=
  let gaveUp (q : Option Nat) : List Nat := match q with
    | some q => if q = o then [] else ([4, 5].filter fun p => holderSlate s.n q p == x).map (8 * q + ·)
    | none => []
  if tabGet s.standin x = some o ∨ tabGet s.standin2 x = some o then s
  else if areaOpen s (tabGet s.standin x) o then
    { s with qtabGone := s.qtabGone ++ gaveUp (tabGet s.standin x), standin := tabPut s.standin x o }
  else
    { s with qtabGone := s.qtabGone ++ gaveUp (tabGet s.standin2 x) ++ [8 * (x ^^^ 1) + 2], standin2 := tabPut s.standin2 x o }

/-- The areas follow an owner's holder set: its stand-ins take their area, and a slate that is none any longer frees it. -/
def takeAreas (s : State) (o : Nat) (hs : List Nat) : State :=
  let xs := (hs.filter fun p => 4 ≤ p).map (holderSlate s.n o)
  let keep := fun (t : Tab Nat) => t.filter fun p => p.2 != o || xs.contains p.1
  xs.foldl (fun s x => takeArea s o x) { s with standin := keep s.standin, standin2 := keep s.standin2 }

/-- Whether a holder of the list of R191 is live for an owner. The partner stays one until a renewal round with EXCL has
succeeded (R293). -/
def holderLive (s : State) (o p : Nat) : Bool :=
  match p with
  | 1 => serving s o
  | 2 => serving s (o ^^^ 1)
  | 3 => standbyServes s && s.lease.resynced || s.lease.needExcl.contains o && (ownerOf s o).holders.contains 3
  | _ => decide (4 ≤ s.n) && serving s (holderSlate s.n o p) && areaFree s (holderSlate s.n o p) o

/-- The first three live holders of R191. -/
def selectHolders (s : State) (o : Nat) : List Nat := ([1, 2, 3, 4, 5].filter (holderLive s o)).take 3

/-- Whether an owner has fewer than three holders (R193). -/
def ownerShort (s : State) (o : Nat) : Bool := decide ((ownerOf s o).holders.length < 3)

/-- Whether some owner runs short (R193). -/
def anyShort (s : State) : Bool := (servingSlates s).any (ownerShort s)

/-! ### Writing records (R192, R196) -/

/-- The SEQ the next record of an owner takes, those that wait for their ring line included. -/
def nextSeq (s : State) (o : Nat) : Nat := let w := ownerOf s o; w.seq + w.waiting.length + 1

/-- Draw a unit commit number (R195). -/
def drawUcn (s : State) : State × Nat := ({ s with ucn := s.ucn + 1 }, s.ucn + 1)

/-- A record with its UCN. -/
def withUcn (u : Nat) : RecBody → RecBody
  | .mset lba v e _ how => .mset lba v e u how
  | .commit k first count _ tb => .commit k first count u tb
  | b => b

/-- The course of a COMMIT takes its UCN. -/
def noteUcn (s : State) (u : Nat) : RecBody → State
  | .commit k _ _ _ _ => if k = 0 then s else modCourse s k fun c => { c with ucn := some u }
  | _ => s

/-- Whether holder `p` may take records of owner `o` yet: a new holder only once the holder set that names it is confirmed
(R192). Owner 0's own new holder takes its records in SEQ order with the holder-set record among them. -/
def holderOpen (s : State) (o p : Nat) : Bool :=
  o == 0 || (match tabGet s.durable.holders o with | some hs => hs.contains p | none => true)

/-- When a record sent now is late (R192, R204). -/
def lateTb (s : State) (o : Nat) : Nat := now s o + getF s o F.JOURNAL.HOLDER_TIMEOUT * us

/-- Send a record to those of some holders that it has not been sent to. -/
def sendRec (s : State) (o : Nat) (hs : List Nat) (r : Rec) : Rec :=
  if r.confirmed then r
  else { r with due := hs.foldl (fun t p => if tabHas t p || p == 1 then t else tabPut t p (lateTb s o)) r.due }

/-- Write one record in its ring line, SEQ s at line s mod 32768, with the UCN drawn just before, and send it to the other
holders (R187, R192, R195). -/
def putRec (s : State) (o : Nat) (x : RecReq) : State :=
  let (s, b) := if x.draws then let (s, u) := drawUcn s; (noteUcn s u x.body, withUcn u x.body) else (s, x.body)
  let w := ownerOf s o
  let r : Rec := { seq := w.seq + 1, body := b, grp := x.grp, need := w.holders, acks := [1], due := [],
                   confirmed := false, packed := false, trimmed := false }
  let r := sendRec s o (w.holders.filter (holderOpen s o)) r
  bump (putOwner s o { w with seq := w.seq + 1, recs := w.recs ++ [r] }) o F.JOURNAL.RECORDS

/-- Whether the ring line of the next record is occupied (R196): lines from the trim point to the last SEQ written. -/
def lineBusy (w : Owner) : Bool := decide (32768 ≤ w.seq + 1 - w.trim)

/-- Make a record of an owner: written at once, or waiting for its ring line, which raises LOG_FULL (R196). -/
def addReq (s : State) (o : Nat) (x : RecReq) : State :=
  let w := ownerOf s o
  if w.waiting.isEmpty && !lineBusy w then putRec s o x
  else detect (bump (putOwner s o { w with waiting := w.waiting ++ [x] }) o F.JOURNAL.LOG_STALLS) o Ev.LOG_FULL []

/-- Make a record that stands alone and draws no UCN. -/
def addRec (s : State) (o : Nat) (b : RecBody) : State := addReq s o { body := b, grp := false, draws := false }

/-- Make a group (R189): its records, then the COMMIT of course `k`, 0 for none; the answer is the SEQ of the COMMIT. -/
def addGroup (s : State) (o k : Nat) (bs : List RecBody) (draws : Bool) : State × Nat :=
  let first := nextSeq s o
  let s := bs.foldl (fun s b => addReq s o { body := b, grp := true, draws := false }) s
  (addReq s o { body := .commit k first (bs.length + 1) 0 (now s o), grp := true, draws := draws }, first + bs.length)

/-- A change to one entry of a table: a TABLE record of an owner; the answer is its SEQ (R186, R190). -/
def addTableAt (s : State) (o : Nat) (t : TableItem) : State × Nat := (addRec s o (.table t), nextSeq s o)

/-- A change to one unit table: a TABLE record of slate 0 (R190). -/
def addTable (s : State) (t : TableItem) : State × Nat := addTableAt s 0 t

/-- A change of the volume or member table: a group of TABLE records whose COMMIT carries a UCN; the answer is the SEQ of
the COMMIT (R189, R195). -/
def addTableGroup (s : State) (ts : List TableItem) : State × Nat := addGroup s 0 0 (ts.map .table) true

/-- A group of TABLE records that changes neither the volume nor the member table (R188, R189). -/
def addPlainGroup (s : State) (ts : List TableItem) : State × Nat := addGroup s 0 0 (ts.map .table) false

/-- An MSET record of owner `o` (R188, R195); the answer is its SEQ. -/
def addMset (s : State) (o v lba : Nat) (x : Word) (how : MsetHow := .exact) : State × Nat :=
  (addReq s o { body := .mset lba v x 0 how, grp := false, draws := true }, nextSeq s o)

/-- Whether a record is confirmed (R192); one the trim point has passed was. -/
def recConfirmed (s : State) (o q : Nat) : Bool :=
  let w := ownerOf s o
  decide (q < w.trim) || w.recs.any fun r => r.seq == q && r.confirmed

/-- The UCN a record carries; 0 for none. -/
def recUcn : RecBody → Nat
  | .mset _ _ _ u _ => u
  | .commit _ _ _ u _ => u
  | _ => 0

/-- A record is confirmed and its turn in UCN order is past, or it needs none (R195). -/
def recSettled (s : State) (o q : Nat) : Bool :=
  recConfirmed s o q && (ownerOf s o).recs.all fun r => r.seq != q || decide (recUcn r.body ≤ s.ucnDone)

/-! ### Trimming (R196) -/

/-- Move an owner's trim point past its trimmed records. -/
def retrim (s : State) (o : Nat) : State :=
  let w := ownerOf s o
  let recs := w.recs.dropWhile (·.trimmed)
  let trim := match recs with | r :: _ => r.seq | [] => w.seq + 1
  putOwner s o { w with recs := recs, trim := trim }

/-- Trim the records of an owner that satisfy a test. -/
def trimRecs (s : State) (o : Nat) (p : Rec → Bool) : State :=
  let w := ownerOf s o
  retrim (putOwner s o { w with recs := w.recs.map fun r => if p r then { r with trimmed := true } else r }) o

/-! ### What a confirmed record does (R189, R190, R195) -/

/-- Every entry of a volume at or above an LBA becomes undefined, and its grain is dead; so are the map grains that go with them
(R95, R160). -/
def cutEntries (s : State) (v size : Nat) : State :=
  let out (k : Nat) : Bool := nodeVol k == v &&
    (decide (size ≤ nodeIndex k * 512 ^ (nodeLevel k + 1)) || decide (rootLevel size < nodeLevel k))
  let gone := s.map.filter fun p => p.1 / 2 ^ 64 == v && size ≤ p.1 % 2 ^ 64
  let dead := s.leaves.filter fun p => out p.1
  let s := { s with
    map := s.map.filter fun p => !(p.1 / 2 ^ 64 == v && size ≤ p.1 % 2 ^ 64)
    leaves := s.leaves.filter fun p => !out p.1
    flashDir := tabMapV s.flashDir fun _ d => { d with updates := d.updates.filter fun u => !out u.1 } }
  let s := gone.foldl (fun s p => grainLive s (entryPgn p.2) false) s
  dead.foldl (fun s p => grainLive s (entryPgn p.2.ptr) false) s

/-- A map that has grown by levels: the pointer to the former root is a change of the map grains above it (R160). -/
def raiseRoot (s : State) (v old new u : Nat) : State :=
  if entryPgn (nodeOf s v (rootLevel old) 0).ptr = 0 then s
  else (List.range (rootLevel new - rootLevel old)).foldl (fun s i => pendNode s v (rootLevel old + 1 + i) 0 u) s

/-- The volume table takes a new size, or loses a volume, by the change of UCN `u` (R95). A map change that comes later finds the
volume so. What a deletion or shrink cuts off stays to be read until VOLUME_CUTOVER at its effective TB. -/
def applyVolume (s : State) (v : Nat) (size : Option Nat) (u : Nat) : State :=
  let cut := match tabGet s.volumes v with | some x => x.cut.isSome | none => false
  match size with
  | none => if cut then { s with volumes := tabMod s.volumes v fun x => { x with size := 0 } }
            else cutEntries { s with volumes := tabDel s.volumes v } v 0
  | some z =>
    let old := tabGetD s.volumes v { size := z, cut := none }
    let s := { s with volumes := tabPut s.volumes v { old with size := z } }
    if z < old.size then (if cut then s else cutEntries s v z)
    else raiseRoot (cutEntries s v old.size) v old.size z u

/-- A new holder set is in force: what is unconfirmed goes to the new holder now (R192). -/
def applyHolders (s : State) (o : Nat) (hs : List Nat) : State :=
  let w := ownerOf s o
  { putOwner s o { w with recs := w.recs.map (sendRec s o hs) } with
    durable := { s.durable with holders := tabPut s.durable.holders o hs } }

/-- Whether a key is a persistent command key with the ADMIN right (R354). -/
def adminKey (k : KeyEntry) : Bool := k.persist && !k.window && adminRight (k.rights.setWidth 64)

/-- A slate's key-table entry `i` (slate * 2^16 + index) is written or invalidated and its sequence starts again
(R111, R114). A persistent command key with ADMIN ends the bootstrap key (R354). -/
def setKey (s : State) (i : Nat) (k : Option KeyEntry) : State :=
  let keys := match k with | some k => tabPut s.keys i k | none => tabDel s.keys i
  let s := { s with keys := keys, keySeq := tabDel s.keySeq i }
  match k with
  | some k =>
    if adminKey k && s.secure.bootstrap then
      let s := { s with keys := s.keys.filter fun p => p.1 % 65536 != 0xFFFF, secure := { s.secure with bootstrap := false } }
      dropBootstrap s
    else s
  | none => s

/-- A confirmed record of a persistent command key: the entry takes effect on the slate that wrote it, and the unit record
of its index follows it (R115, R190). -/
def applyKey (s : State) (i : Nat) (k : Option KeyEntry) : State :=
  let x := i % 65536
  let keep := match k with | some k => if k.persist then tabPut s.durable.keys x k else tabDel s.durable.keys x
                           | none => tabDel s.durable.keys x
  setKey { s with durable := { s.durable with keys := keep } } i k

/-- The lifecycle state of R340: 1 TEST, 2 UNOWNED, 3 OWNED, 4 SCRAPPED. -/
def lifecycle (s : State) : Nat :=
  match s.secure.stage with
  | .test => 1
  | .scrapped => 4
  | .production => if s.secure.custKeys.isEmpty then 2 else 3

/-- A confirmed authorisation record takes effect (R345): 1 ENROL, 2 REMOVE, 3 RELEASE, 4 SCRAP, 5 ADVANCE. Keys, KEY_SERIAL
and the lifecycle state change together; the fuses are burned; RELEASE, SCRAP and ADVANCE draw a new data key (R353). -/
def applyAuth (s : State) (op keyNo : Nat) (pub : Block) : State :=
  let old := lifecycle s
  let x := s.secure
  let x := { x with serial := (x.serial + 1) % 2 ^ 32 }
  let x := match op with
    | 1 => { x with custKeys := tabPut x.custKeys keyNo pub }
    | 2 => { x with custKeys := tabDel x.custKeys keyNo }
    | 3 => { x with custKeys := [], ownerEpoch := min 15 (x.ownerEpoch + 1), dataKey := x.dataKey + 1 }
    | 4 => { x with stage := .scrapped, dataKey := x.dataKey + 1 }
    | _ => { x with custKeys := [], stage := .production, dataKey := x.dataKey + 1 }
  let s := { s with secure := x }
  if lifecycle s = old then s else raise s 0 Ev.LC_CHANGED

/-- A persistent queue registration, or its removal, is recorded (R133, R134). A registration takes effect with it (R185); before
replay is complete REPLAY_DONE restores it. -/
def applyQueue (s : State) (hq : Nat) (host : BitVec 32) (key : Nat) (pin present : Bool) : State :=
  let t := s.durable.queues
  let s := { s with durable := { s.durable with queues := if present then tabPut t hq (host, key, pin) else tabDel t hq } }
  if present && !tabHas s.queues hq && serving s (hqSlate hq) && decide (8 ≤ s.recovery) then addQueue s hq host key pin true else s

/-- The way masks of a slate as its unit record holds them (R282): the slate cache's under 64 sl, engine e's two under
64 sl + 1 + e. -/
def wayMasks (s : State) (sl : Nat) : Tab Nat :=
  (List.range 48).foldl (fun t e => tabSet 0 t (64 * sl + 1 + e) (bits (rawEntry s sl 0x0C (0x10 + e)) 0 12))
    (tabSet 0 [] (64 * sl) (getF s sl F.MEM.SC_WAY_DIS))

/-- A slot's manifest is written: its entry of the directory follows, and so does the slot itself, unless its change waits for a
cut-over TB (R45, R185). -/
def applyManifest (s : State) (slot : Nat) (p : Option Nat) : State :=
  let put (t : Tab Nat) : Tab Nat := match p with | some v => tabPut t slot v | none => tabDel t slot
  let waits := match s.cutover with | some c => c.slot == slot | none => false
  { s with durable := { s.durable with manifests := put s.durable.manifests }, slots := if waits then s.slots else put s.slots }

/-- The progress record of the administrative operation is written (R96): during recovery it is what HK_ADMIN resumes from. -/
def applyProgress (s : State) (a : AdminOp) : State :=
  let a := { a with stage := max 1 a.stage }
  { s with durable := { s.durable with admin := a },
           admin := if s.recovery < 8 then a else { s.admin with stage := max 1 s.admin.stage } }

/-- A confirmed TABLE record is written in place, and the change it makes takes effect (R185, R190). -/
def applyTable (s : State) (t : TableItem) (u : Nat) : State :=
  match t with
  | .address c p => { s with durable := { s.durable with chain := c, pos := p } }
  | .epoch e => { s with durable := { s.durable with epoch := e } }
  | .layout l => { s with layout := l }
  | .volume v z => applyVolume s v z u
  | .root v p => { s with durable := { s.durable with roots := tabSet 0 s.durable.roots v p } }
  | .manifest slot p => applyManifest s slot p
  | .measure slot m => { s with durable := { s.durable with measures := tabSet [] s.durable.measures slot m } }
  | .key i k => applyKey s i k
  | .queue hq h k p present => applyQueue s hq h k p present
  | .ways sl ms => { s with durable := { s.durable with
      ways := ms.foldl (fun t x => tabPut t x.1 x.2) (s.durable.ways.filter fun x => x.1 / 64 != sl) } }
  | .progress a => applyProgress s a
  | .holders o hs => applyHolders s o hs
  | .member m r _ =>
    { putMember s m { memberOf s m with recorded := r, recConf := true } with
      durable := { s.durable with members := tabPut s.durable.members m r } }
  | .witnesses w =>
    { s with durable := { s.durable with wMask := w }
             lease := { s.lease with wPend := if s.lease.wPend = some w then none else s.lease.wPend } }
  | .domain en p => { s with durable := { s.durable with domEn := en, prefix6 := p } }
  | .flashDir _ _ => s
  | .auth op keyNo pub => applyAuth s op keyNo pub
  | .wrap bay key => { s with durable := { s.durable with wraps := tabPut s.durable.wraps bay key } }

/-- Write a TABLE record in place where its SEQ exceeds that of the record that last wrote the line (R190). -/
def writeTable (s : State) (seq : Nat) (t : TableItem) (u : Nat) : State :=
  if seq ≤ tabGetD s.durable.seqs (itemKey t) 0 then s
  else
    let s := applyTable s t u
    { s with durable := { s.durable with seqs := tabPut s.durable.seqs (itemKey t) seq } }

/-- The TABLE records of a group, from its first SEQ to its COMMIT. -/
def groupTables (s : State) (first count : Nat) : List (Nat × TableItem) :=
  (ownerOf s 0).recs.filterMap fun r =>
    match r.body with
    | .table t => if first ≤ r.seq ∧ r.seq < first + count then some (r.seq, t) else none
    | _ => none

/-- A group of TABLE records takes effect, in SEQ order, and is trimmed; so is its COMMIT, unless it carries a UCN. -/
def applyGroup (s : State) (first count u : Nat) : State :=
  let s := (groupTables s first count).foldl (fun s x => writeTable s x.1 x.2 u) s
  trimRecs s 0 fun r => decide (first ≤ r.seq) && decide (r.seq < first + count) &&
    (match r.body with | .table _ => true | _ => decide (u = 0))

/-- Write the confirmed TABLE records of an owner that stand outside the UCN order in place, in SEQ order (R190, R195). -/
def applyTables (s : State) (o : Nat) : State :=
  (ownerOf s o).recs.foldl (fun s r =>
    if r.trimmed || !r.confirmed then s
    else match r.body with
      | .table t => if r.grp then s else trimRecs (writeTable s r.seq t 0) o fun x => x.seq == r.seq
      | .commit 0 first count 0 _ => applyGroup s first count 0
      | _ => s) s

/-- The confirmed record that carries a UCN, if there is one. -/
def ucnRec (s : State) (u : Nat) : Option RecBody :=
  s.owners.findSome? fun p => (p.2.recs.find? fun r => recUcn r.body == u && r.confirmed).map (·.body)

/-- Apply the MSET records and table groups whose turn it is in UCN order, as far as they are confirmed (R195). A
course's turn waits for COURSE_DURABLE.
DEDUCED (log entry 71). -/
def drainUcn : Nat → State → State
  | 0, s => s
  | k + 1, s =>
    match ucnRec s (s.ucnDone + 1) with
    | some (.mset lba v x u how) => drainUcn k { applyMset s v lba x how u with ucnDone := s.ucnDone + 1 }
    | some (.commit 0 first count u _) => drainUcn k { applyGroup s first count u with ucnDone := s.ucnDone + 1 }
    | _ => s

/-- The number of records untrimmed on all owners, a bound for `drainUcn`. -/
def recTotal (s : State) : Nat := s.owners.foldl (fun a p => a + p.2.recs.length) 0

/-- What the confirmation of a record does at once. -/
def confirmRec (s : State) (o : Nat) (r : Rec) : State :=
  let s := match r.body with
    | .table t => if r.grp then s else trimRecs (writeTable s r.seq t 0) o fun x => x.seq == r.seq
    | .commit 0 first count 0 _ => applyGroup s first count 0
    | _ => s
  drainUcn (recTotal s) s

/-! ### Holder sets (R192, R193) -/

/-- Install an owner's new holder set: the unit record, and what the records still unconfirmed now need; those of owner 0 go to
its new holder at once. -/
def installHolders (s : State) (o : Nat) (hs : List Nat) : State :=
  let w := ownerOf s o
  let s := takeAreas s o hs
  let s := putOwner s o { w with holders := hs, recs := w.recs.map fun r =>
    if r.confirmed then r else sendRec s o (if o = 0 then hs else []) { r with need := hs } }
  let s := bump s o F.JOURNAL.HOLDER_SWITCHES
  let s := if hs.length < 3 ∧ ¬ w.holders.length < 3 then detect s o Ev.HOLDERS_SHORT [] else s
  (addTable s (.holders o hs)).1

/-- Recompute the holder set of an owner. -/
def refreshHolders (s : State) (o : Nat) : State :=
  let hs := selectHolders s o
  if hs = (ownerOf s o).holders then s else installHolders s o hs

/-- Report that a holder left an owner's set (R192). -/
def holderLost (s : State) (o p : Nat) : State :=
  detect s o Ev.HOLDER_LOST [BitVec.ofNat 64 (o + p * 16)]

/-- The partner leaves the holder set of every owner (R192): HOLDER_LOST for each, and the sets change only once a renewal
round with EXCL has succeeded (R293). -/
def partnerLeaves (s : State) : State :=
  let os := (servingSlates s).filter fun o => (ownerOf s o).holders.contains 3
  if os.isEmpty || !s.lease.needExcl.isEmpty then s
  else os.foldl (fun s o => holderLost s o 3) { s with lease := { s.lease with needExcl := os, resynced := false } }

end Sys2Proof.Machine
end

