-- ==== Sys2Proof/Machine/Course.lean ====
section
/-! DEFINITION. Drive commands, leads, the life of a course, spare placement, and a member declared gone (R169 to R182, R206 to
R209). The commands are in CourseCmds.lean and MemberCmds.lean. -/

namespace Sys2Proof.Machine

/-! ### Drive commands (R180, R181) -/

/-- The slate that acts for a member's drive port: its own, or slate 0 for the proxied ports of a lost slate (R182). -/
def portSlate (s : State) (m : Nat) : Nat := if serving s (memberSlate m) then memberSlate m else 0

/-- Commands outstanding in a queue pair of a member. -/
def queueLoad (x : Member) (q : Nat) : Nat := tabCount x.cmds fun c => c.queue == some q

/-- The I/O queue pair with the fewest commands outstanding; none while all eight hold 1 024 (R180). -/
def ioQueue (x : Member) : Option Nat :=
  let q := (List.range 7).foldl (fun b i => if queueLoad x (i + 2) < queueLoad x b then i + 2 else b) 1
  if queueLoad x q < 1024 then some q else none

/-- Submit an NVMe command to a member (R180): it is outstanding under the timeouts then set (R184), in the admin queue pair or
the I/O pair with the fewest outstanding. `sqe` is the submission entry as the member gets it but for what the unit puts in its
place (R64). None is issued once class 4 has latched (R321). -/
def issueCmd (s : State) (m opcode lba : Nat) (use : DrvUse) (admin : Bool := false) (sqe : Block := []) (fua : Bool := false) :
    State :=
  let sl := portSlate s m
  let x := memberOf s m
  let c : DrvCmd :=
    { opcode := opcode, admin := admin, fua := fua, queue := if admin then some 0 else ioQueue x, sqe := sqe, lba := lba
      use := use, tb := now s sl, timeout := getF s sl F.DRIVE.CMD_TIMEOUT * ms, grace := getF s sl F.DRIVE.ABORT_GRACE * ms
      readyMx := getF s sl F.DRIVE.READY_MAX * ms, aborted := none }
  if isF s 0 F.FPIN.C4 then s
  else
    let s := { putMember s m { x with cmds := tabPut x.cmds s.nextCmd c } with nextCmd := s.nextCmd + 1 }
    countSrc s sl srcDrvCmds 1

/-- Commands that wait for a queue pair take the room there now is. -/
def refillQueues (s : State) (m : Nat) : State :=
  (keysWhere (memberOf s m).cmds fun c => c.queue.isNone).foldl (fun s id =>
    let x := memberOf s m
    match ioQueue x with
    | none => s
    | some q => putMember s m { x with cmds := tabMod x.cmds id fun c =>
        { c with queue := some q, tb := now s (portSlate s m) } }) s

/-- Remove outstanding commands of a member. -/
def dropCmds (s : State) (m : Nat) (p : DrvCmd → Bool) : State :=
  let x := memberOf s m
  refillQueues (putMember s m { x with cmds := x.cmds.filter fun c => !p c.2 }) m

/-- An outstanding command of a member has completed. -/
def endCmd (s : State) (m cmd : Nat) : State :=
  let x := memberOf s m
  refillQueues (putMember s m { x with cmds := tabDel x.cmds cmd }) m

/-- The submission entry of an NVMe Zone Management Send of one zone: its first LBA and its action, 0x02 finish and 0x04 reset.
PRESUMED (log entry 122). -/
def zoneSqe (lba act : Nat) : Block :=
  [0x79] ++ List.replicate 3 0 ++ leBytes 4 1 ++ List.replicate 32 0 ++ leBytes 8 lba ++ List.replicate 4 0 ++ leBytes 4 act ++
    List.replicate 8 0

/-- Issue an NVMe Zone Management Send for a zone of a member (R167, R175, R207). -/
def zoneSend (s : State) (m zone act : Nat) : State :=
  let lba := zone * (memberOf s m).zoneLbas
  if inService s m && hasPath s m then issueCmd s m 0x79 lba .internal false (zoneSqe lba act) else s

/-- The submission entry of the NVMe Set Features command that sets a power state.
PRESUMED (log entry 122). -/
def powerSqe (ps : Nat) : Block := [9] ++ List.replicate 39 0 ++ leBytes 4 2 ++ leBytes 4 ps ++ List.replicate 16 0

/-- Send the members to the deepest non-operational power state each reports, or back to operation (R98). -/
def powerMembers (s : State) (deep : Bool) : State :=
  ((tabKeys s.members).filter fun m => inService s m && hasPath s m && decide (0 < (memberOf s m).lowPs)).foldl (fun s m =>
    issueCmd s m 9 0 .power true (powerSqe (if deep then (memberOf s m).lowPs else 0))) s

/-- Whether some member has not come to the power state it was sent to. -/
def powerBusy (s : State) : Bool := s.members.any fun m => m.2.cmds.any fun c => c.2.use == .power

/-- The FIRST detail of the DRIVE detectors (R184). -/
def driveDetail (m status opcode lba : Nat) : List Word :=
  [BitVec.ofNat 64 (m % 64 + status % 2 ^ 15 * 64 + opcode % 256 * 2 ^ 21), BitVec.ofNat 64 lba]

/-! ### Tickets (R64 to R66) -/

/-- The data transfer direction an NVMe opcode's low bits give: 1 to the member, 2 from it. -/
def nvmeDir (opcode : Nat) : Nat := opcode % 4

/-- Change a ticket of a job. -/
def modTicket (s : State) (job t : Nat) (f : Ticket → Ticket) : State :=
  modJob s job fun j => { j with tickets := tabMod j.tickets t f }

/-- The `DWAIT` result word (R66). -/
def ticketWord (st : Status) (nvme dw0 : Nat) : Word :=
  BitVec.ofNat 64 (st.toNat + nvme % 2 ^ 15 * 2 ^ 16 + dw0 % 2 ^ 32 * 2 ^ 32)

/-- A `CRD` whose reads have all returned: every grain that came, or that can be rebuilt, is in the buffer; the rest are zero.
Those lost are counted; without one, a grain that has no path for now leaves NOT_SERVING (R65, R66, R182). -/
def finishCrd (s : State) (r : GrainRead) (job t : Nat) : State :=
  match jobOf s job, s.layout with
  | some j, some l =>
    match tabGet j.tickets t with
    | none => s
    | some tk =>
      let (k, i0) := grainOf l tk.first
      let badIn (i : Nat) : List Nat := (r.bad.filter fun b => b % 32 == i % 32).map (· / 32)
      let got := (List.range tk.count).map fun x => (x, readGrain s l k (i0 + x) (badIn (i0 + x)))
      let none_ := (got.filter fun p => p.2.isNone).map fun p => stripServed s l k ((i0 + p.1) / 32) (badIn (i0 + p.1))
      let s := match tk.buf with
        | some h => got.foldl (fun s p => bufWrite s h.buf (h.off + p.1 * 4096) (blockSlice (p.2.getD []) 0 4096)) s
        | none => s
      let lost := (none_.filter (· == .lost)).length
      let st := if none_.isEmpty then St.ok else if lost = 0 then St.notServing else St.grainsLost
      modTicket s job t fun x => { x with result := some (ticketWord st 0 lost) }
  | _, _ => s

/-! ### Reads of grains (R210, R214) -/

/-- The consecutive runs of a rising list, each as its first number and how many. -/
def runsOf (l : List Nat) : List (Nat × Nat) :=
  (l.foldl (fun (acc : List (Nat × Nat)) x => match acc with
    | (a, n) :: r => if a + n = x then (a, n + 1) :: r else (x, 1) :: acc
    | [] => [(x, 1)]) []).reverse

/-- The positions whose column `c` a read of grains needs next: those asked for that can be read, and where one of them cannot, D
of the strips that can, data and P before Q (R210). -/
def columnNeeds (s : State) (l : Layout) (r : GrainRead) (c : Nat) : List Nat :=
  let bad := (r.bad.filter fun b => b % 32 == c).map (· / 32)
  let ok (p : Nat) : Bool := stripReadable s l r.ordinal p && !bad.contains p
  let asked := (r.want.filter fun x => x % 32 == c).map (· / 32)
  let src := (List.range (l.d + 2)).filter ok
  let rest := if (asked.any fun p => !ok p) && decide (l.d ≤ src.length) then src.take l.d else []
  (asked.filter ok ++ rest).filter fun p => !r.got.contains (32 * p + c)

/-- Change a read of grains. -/
def modRead (s : State) (id : Nat) (f : GrainRead → GrainRead) : State := { s with reads := tabMod s.reads id f }

/-- Submit the member reads a read of grains needs next: one for each run of columns of a strip. -/
def issueReads (s : State) (id : Nat) : State :=
  match tabGet s.reads id, s.layout with
  | some r, some l =>
    let needs := (List.range 32).map (columnNeeds s l r)
    (List.range (l.d + 2)).foldl (fun s p =>
      (runsOf ((List.range 32).filter fun c => (needs.getD c []).contains p)).foldl (fun s x =>
        match stripAt s l r.ordinal p with
        | some (m, slot) =>
          modRead (issueCmd s m 2 (slotLba s m slot + x.1) (.read id p x.1 x.2)) id fun r => { r with left := r.left + 1 }
        | none => s) s) s
  | _, _ => s

/-- The jobs that wait for a leaf end their wait with a status. -/
def failWaits (s : State) (v leaf : Nat) (st : Status) : State :=
  { s with jobs := tabMapV s.jobs fun _ j =>
      let hit := match j.wait with
        | .mapGet w lba => w == v && lba / 512 == leaf
        | .mapSet w lba _ => w == v && lba / 512 == leaf
        | _ => false
      if hit then { j with result := some st } else j }

/-- A leaf has come from its map course into the map cache, or cannot be had (R68, R162, R182). -/
def finishNode (s : State) (r : GrainRead) (v j i : Nat) : State :=
  match s.layout, r.want with
  | some l, w :: _ =>
    match stripServed s l r.ordinal (w / 32) ((r.bad.filter fun b => b % 32 == w % 32).map (· / 32)) with
    | .ok => modNode s v j i fun x => { x with cached := true }
    | .unserved => if j = 0 then failWaits s v i St.notServing else s
    | .lost => if j = 0 then failWaits s v i St.grainsLost else s
  | _, _ => s

/-- A read of grains with no member read outstanding: it reads on where a strip could not be read; else a `CRD` or the fetch of
a leaf ends. What reclaim, rebuild and copy-back do with theirs is in Rebuild.lean. -/
def advanceRead (s : State) (id : Nat) : State :=
  match tabGet s.reads id with
  | none => s
  | some r =>
    if r.left ≠ 0 then s
    else
      let s := issueReads s id
      if (match tabGet s.reads id with | some r => r.left != 0 | none => false) then s
      else match r.use with
        | .crd job t => finishCrd { s with reads := tabDel s.reads id } r job t
        | .node v j i => finishNode { s with reads := tabDel s.reads id } r v j i
        | _ => s

/-- Start a read of grains of a course for slate `sl` (R210). -/
def startRead (s : State) (sl k : Nat) (want : List Nat) (use : ReadUse) : State :=
  let r : GrainRead := { slate := sl, ordinal := k, want := want, got := [], bad := [], left := 0, use := use }
  advanceRead { s with reads := tabPut s.reads s.nextRead r, nextRead := s.nextRead + 1 } s.nextRead

/-- A member read has returned the columns of a strip but for those in `bad`; `sector` says that these are unreadable sectors, for
which the course is reclaimed first (R214 steps 3 and 6). -/
def readReturn (s : State) (id pos col count : Nat) (bad : List Nat) (sector : Bool) : State :=
  match tabGet s.reads id with
  | none => s
  | some r =>
    let cols := (List.range count).map (col + ·)
    let got := (cols.filter fun c => !bad.contains c).map (32 * pos + ·)
    let s := modRead s id fun r => { r with left := r.left - 1, got := r.got ++ got, bad := r.bad ++ bad.map (32 * pos + ·) }
    let s := if sector && !bad.isEmpty then modCourse s r.ordinal fun c => { c with reclaim := true } else s
    advanceRead s id

/-- Bring the leaf of an LBA into the map cache: a leaf that is not there is read from its map course (R68, R162). -/
def needLeaf (s : State) (v lba : Nat) : State :=
  let i := lba / 512
  if nodeCached s v 0 i then noteCached s v i
  else if s.reads.any fun p => p.2.use == .node v 0 i then s
  else match s.layout with
    | none => s
    | some l =>
      let (k, g) := grainOf l (entryPgn (leafOf s v i).ptr)
      startRead s (nodeHome s.n v i) k [g] (.node v 0 i)

/-- Whether a leaf's read is under way. -/
def leafFetching (s : State) (v lba : Nat) : Bool := s.reads.any fun p => p.2.use == .node v 0 (lba / 512)

/-! ### Leads (R169) -/

/-- The lead of a kind: 0 data, 1 reclaim, 2 map. -/
def leadOf (s : State) (i : Nat) : Lead := tabGetD s.leads i { slate := 0, ordinal := none, handover := false, waiting := [] }

/-- Store a lead. -/
def putLead (s : State) (i : Nat) (x : Lead) : State := { s with leads := tabPut s.leads i x }

/-- The kind of the courses of a lead. -/
def leadKind (i : Nat) : CourseKind := if i = 0 then .data else if i = 1 then .reclaim else .map

/-- Whether a course occupies its tundish (R169). -/
def inTundish (c : Course) : Bool := c.st == .opened || c.st == .sealed || c.st == .pouring

/-- Course descriptors in use on a slate (R169, R183 DESC_USED); a discarded course that waits to be poured again holds its own. -/
def descUsed (s : State) (sl : Nat) : Nat :=
  (tabCount s.courses fun c => c.slate == sl && inTundish c) + (s.repourWait.filter fun c => c.slate == sl).length

/-- Whether a slate has a free descriptor and D + 2 free strip buffers (R169). -/
def hasRoom (s : State) (l : Layout) (sl : Nat) : Bool :=
  serving s sl && decide (descUsed s sl < 64) && decide ((descUsed s sl + 1) * (l.d + 2) ≤ 384)

/-- Raise SPACE_LOW on each slate whose reserve the free share has newly fallen below (R178). -/
def updateSpace (s : State) : State :=
  match s.layout with
  | none => s
  | some l =>
    let low (sl : Nat) : Bool := decide (freeOrdinals s * 1000 < getF s sl F.STRIPE.WRITE_RESERVE * ordinals l)
    let now_ := (servingSlates s).filter low
    let new := now_.filter fun sl => !s.spaceLow.contains sl
    new.foldl (fun s sl => detect s sl Ev.SPACE_LOW []) { s with spaceLow := now_ }

/-- The ordinal the next course takes: the next free one above the last assigned, wrapping; in a zoned pool the next of
the run, or the first of the lowest-numbered free run (R167, R169). -/
def nextOrdinal (s : State) (l : Layout) : Option Nat :=
  let total := 4096 * l.bands
  if l.zoned then
    let k := s.lastOrd + 1
    if k < total ∧ runOf l k = runOf l s.lastOrd ∧ ¬ tabHas s.courses k then some k
    else (freeRuns s l).head?.map fun r => max 1 (r * runSize l)
  else
    ((List.range (s.courses.length + 2)).map fun i => (s.lastOrd + 1 + i) % total).find? fun k =>
      k != 0 && !tabHas s.courses k

/-- Erase a strip slot: nothing is read from it again. -/
def eraseSlots (s : State) (p : Nat → Nat → Bool) : State :=
  { s with media := s.media.filter fun x => !p (x.1 / 32 / 2 ^ 40) (x.1 / 32 % 2 ^ 40) }

/-- A run of a zoned pool whose every ordinal has been released, and that allocation has left, is released as a whole: its zones
are reset on every member (R175). -/
def resetRun (s : State) (l : Layout) (r : Nat) : State :=
  let s := l.members.foldl (fun s m => (List.range 8).foldl (fun s z => zoneSend s m (8 * r + z) 4) s) s
  let s := eraseSlots s fun m slot => l.members.contains m && slot / max 1 l.zs / 8 == r
  { s with courses := s.courses.filter fun c => runOf l c.1 != r }

/-- Close a run of a zoned pool in which a course was discarded (R167, R202): its zones are finished, RUN_CLOSED is raised, and
where it is the current one allocation goes on in the next free run.
DEDUCED (log entry 113). -/
def closeRun (s : State) (l : Layout) (run : Nat) : State :=
  let s := l.members.foldl (fun s m => (List.range 8).foldl (fun s z => zoneSend s m (8 * run + z) 2) s) s
  let s := if runOf l s.lastOrd = run then { s with lastOrd := (run + 1) * runSize l - 1 } else s
  raise s 0 Ev.RUN_CLOSED

/-- Close the runs of discarded courses, each once. -/
def closeRuns (s : State) (l : Layout) (ks : List Nat) : State :=
  if l.zoned then (ks.map (runOf l)).eraseDups.foldl (fun s r => closeRun s l r) s else s

/-- Release every run that can be (R175). -/
def resetRuns (s : State) (l : Layout) : State :=
  if !l.zoned then s
  else
    let rs := ((tabKeys s.courses).map (runOf l)).eraseDups
    (rs.filter fun r => r != runOf l s.lastOrd && s.courses.all fun c => runOf l c.1 != r || c.2.st == .released).foldl
      (fun s r => resetRun s l r) s

/-- A course that has just entered OPEN (R169, R171). -/
def courseNew (kind : CourseKind) (sl t0 window : Nat) : Course :=
  { kind := kind, slate := sl, st := .opened, t0 := t0, window := window, grains := [], recSeq := none, swept := false,
    strips := [], comSeq := none, ucn := none, live := 0, holdJobs := [], stalled := false, reclaim := false,
    spareSeq := [], sealTb := 0, lostPos := [], rebuilding := false, moved := false }

/-- Put a course under the next free ordinal, which is then the last assigned; a run that allocation has left may be released. -/
def placeCourse (s : State) (l : Layout) (c : Course) : Option (State × Nat) :=
  (nextOrdinal s l).map fun k => (updateSpace (resetRuns { s with courses := tabPut s.courses k c, lastOrd := k } l), k)

/-- The open course of a lead, opening one where it has none: `none` while the tundish has no room or no ordinal is free
(R169). -/
def ensureCourse (s : State) (l : Layout) (i : Nat) : Option (State × Nat) :=
  let ld := leadOf s i
  match ld.ordinal with
  | some k => some (s, k)
  | none =>
    if ld.handover || !hasRoom s l ld.slate then none
    else
      let c := courseNew (leadKind i) ld.slate (now s ld.slate) (getF s ld.slate F.STRIPE.FILL_WINDOW * us)
      (placeCourse s l c).map fun x => (putLead x.1 i { leadOf x.1 i with ordinal := some x.2 }, x.2)

/-! ### Spare placement (R207, R208) -/

/-- The arbiter of spare placement, one for the unit (R207). -/
def ptrSpare : Nat := 1024

/-- The spare slots of a member that are taken: named by a spare map or chosen for one, or freed by copy-back and still held by
jobs (R175, R220). -/
def spareUsed (s : State) (m : Nat) : List Nat :=
  ((s.spare ++ s.spareResv).filter fun p => p.2.member == m).map (·.2.slot) ++
    (s.spareHeld.filter fun x => x.1 == m && x.2.2.any (tabHas s.jobs)).map (·.2.1)

/-- The spare zones of a member of a zoned pool: those beyond the runs (R166). -/
def spareZones (s : State) (l : Layout) (m : Nat) : List Nat :=
  (List.range ((memberOf s m).strips / max 1 l.zs)).filter fun z => spareBase l ≤ z * l.zs

/-- The key of a spare zone's write pointer. -/
def wpKey (m zone : Nat) : Nat := m * 2 ^ 32 + zone

/-- The slots of a spare zone that have been used since it was reset. -/
def spareWpOf (s : State) (m zone : Nat) : Nat := tabGetD s.spareWp (wpKey m zone) 0

/-- Free spare slots of a member (R207, R221 SPARE_FREE): in a zoned pool those above the write pointers. -/
def spareFree (s : State) (l : Layout) (m : Nat) : Nat :=
  if l.zoned then (spareZones s l m).foldl (fun a z => a + (l.zs - spareWpOf s m z)) 0
  else (memberOf s m).strips - spareBase l - (spareUsed s m).length

/-- The lowest free spare slot of a member; in a zoned pool, the one at the write pointer of the first zone with room (R207). -/
def lowestSpare (s : State) (l : Layout) (m : Nat) : Option Nat :=
  if l.zoned then
    ((spareZones s l m).find? fun z => decide (spareWpOf s m z < l.zs)).map fun z => z * l.zs + spareWpOf s m z
  else
    let used := spareUsed s m
    ((List.range ((memberOf s m).strips - spareBase l)).map (spareBase l + ·)).find? fun x => !used.contains x

/-- Take a spare slot: in a zoned pool its zone's write pointer passes it. -/
def takeSpare (s : State) (l : Layout) (m slot : Nat) : State :=
  if l.zoned then { s with spareWp := tabPut s.spareWp (wpKey m (slot / max 1 l.zs)) (slot % max 1 l.zs + 1) } else s

/-- A spare zone of which every slot has been freed is reset, and can be used again (R207). -/
def resetSpareZones (s : State) (l : Layout) (m : Nat) : State :=
  if !l.zoned then s
  else
    let used := (spareUsed s m).map (· / max 1 l.zs)
    ((spareZones s l m).filter fun z => spareWpOf s m z != 0 && !used.contains z).foldl (fun s z =>
      zoneSend { s with spareWp := tabDel s.spareWp (wpKey m z) } m z 4) s

/-- The spare destination chosen for a strip, its record applied or not. -/
def spareDest (s : State) (j slot : Nat) : Option SpareEntry :=
  match tabGet s.spareResv (spareKey j slot) with
  | some e => some e
  | none => spareOf s j slot

/-- Whether a strip of a course is written to its own slot: its member is in service. In a zoned pool a strip of the current run
stays on spare until copy-back of the member has passed that run (R172, R220). -/
def ownDest (s : State) (l : Layout) (k m : Nat) : Bool :=
  inService s m && hasPath s m && match tabGet s.copyBack m with
    | some cb => !l.zoned || runOf l k != runOf l s.lastOrd || decide (8 * (runOf l k + 1) * l.zs ≤ cb.done)
    | none => true

/-- Where each position of a course would be written now, without new spare placements: its own slot, or a spare destination
already given (R172, R207, R220). -/
def destOf (s : State) (l : Layout) (k pos : Nat) : Option (Nat × Nat) :=
  let (m, slot) := place l k pos
  if ownDest s l k m then some (m, slot)
  else match (failIndex s m).bind fun j => spareDest s j slot with
    | some e => if !e.stale && inService s e.member && hasPath s e.member then some (e.member, e.slot) else none
    | none => none

/-- Choose a spare destination for a position of a course (R207): the state with the tie pointer moved, and the member. -/
def chooseSpare (s : State) (l : Layout) (k : Nat) : State × Option Nat :=
  let row := rowOf l k
  let dests := (List.range (l.d + 2)).filterMap fun p => (destOf s l k p).map (·.1)
  let lim := ceilDiv (l.d + 2) s.n
  let s := (tabKeys s.members).foldl (fun s m => resetSpareZones s l m) s
  let cand := (tabKeys s.members).filter fun m => inService s m && hasPath s m && !row.contains m && !dests.contains m &&
    (lowestSpare s l m).isSome
  let near := cand.filter fun m => decide ((dests.filter fun x => memberSlate x == memberSlate m).length + 1 ≤ lim)
  let pool := if near.isEmpty then cand else near
  let best := pool.foldl (fun a m => max a (spareFree s l m)) 0
  let top := pool.filter fun m => spareFree s l m == best
  match rotPick (tabGetD s.ptrs ptrSpare 0) 48 top.contains with
  | none => (s, none)
  | some m => (granted s ptrSpare m 48, some m)

/-- Give a missing position of a course a spare destination (R207, R208): it is reserved, and a record on slate `sl` sets the entry
with ALLOC. `none` where it has no spare placement. -/
def allocSpare (s : State) (l : Layout) (sl k pos : Nat) : State × Option Nat :=
  let (m, slot) := place l k pos
  let x := memberOf s m
  match failIndex s m with
  | none => (s, none)
  | some j =>
    if !x.recConf then (s, none)
    else match chooseSpare s l k with
      | (s, none) => (s, none)
      | (s, some d) => match lowestSpare s l d with
        | none => (s, none)
        | some t =>
          let e : SpareEntry := { member := d, slot := t, valid := false, stale := false }
          let s := takeSpare { s with spareResv := tabPut s.spareResv (spareKey j slot) e } l d t
          let (s, q) := addMset s sl (0x1000 + j) slot (spareWord e)
          (s, some q)

/-- Place every position of a course: the SEQ numbers of the ALLOC records to wait for, and whether every position has a
destination. -/
def placeAll (s : State) (l : Layout) (sl k : Nat) : State × List Nat × Bool :=
  (List.range (l.d + 2)).foldl (fun (p : State × List Nat × Bool) pos =>
    let (s, qs, ok) := p
    match destOf s l k pos with
    | some _ => (s, qs, ok)
    | none => match allocSpare s l sl k pos with
      | (s, some q) => (s, qs ++ [q], ok)
      | (s, none) => (s, qs, false)) (s, [], true)

/-! ### Grains and strips of a course (R155, R168, R172) -/

/-- A padding grain. -/
def padGrain : Grain := { kind := .padding, volume := 0, lba := 0, data := [], job := none, dead := true, seqs := [] }

/-- Whether a grain is padding. -/
def isPad (g : Grain) : Bool := match g.kind with | .padding => true | _ => false

/-- The grains of data strip `i`. -/
def stripGrains (c : Course) (i : Nat) : List Grain := (c.grains.drop (32 * i)).take 32

/-- Column `x` of every data strip. -/
def dataColumn (l : Layout) (c : Course) (x : Nat) : List Block :=
  (List.range l.d).map fun i => ((c.grains[32 * i + x]?).map (·.data)).getD []

/-- The 32 columns of a position: data, P or Q. -/
def stripData (l : Layout) (c : Course) (pos : Nat) : List Block :=
  (List.range 32).map fun x =>
    let col := dataColumn l c x
    if pos < l.d then col.getD pos [] else if pos = l.d then parityP col else parityQ col

/-- Write a strip's contents on a member. -/
def writeStrip (s : State) (m slot : Nat) (cols : List Block) : State :=
  (List.range 32).foldl (fun s x => mediaWrite s m slot x (cols.getD x [])) s

/-! ### Seal and pour (R171 to R174) -/

/-- A sealed course takes its destinations and, once every ALLOC record is settled, writes its COURSE record; without a
destination it waits and POUR_STALL is raised (R174, R192, R208).
DEDUCED (log entry 74). -/
def advanceSeal (s : State) (k : Nat) : State :=
  match courseOf s k, s.layout with
  | some c, some l =>
    if c.st ≠ .sealed ∨ c.recSeq.isSome then s
    else
      let (s, qs, ok) := placeAll s l c.slate k
      let s := modCourse s k fun c => { c with spareSeq := c.spareSeq ++ qs, stalled := c.stalled && !ok }
      if !ok then
        if c.stalled then s
        else
          let short := (List.range (l.d + 2)).any fun p => (destOf s l k p).isNone && (failIndex s (place l k p).1).isSome
          let s := modCourse s k fun c => { c with stalled := true }
          let s := if short then detect s c.slate Ev.SPARE_SHORT [BitVec.ofNat 64 k] else s
          detect s c.slate Ev.POUR_STALL [BitVec.ofNat 64 k]
      else if (c.spareSeq ++ qs).all (recSettled s c.slate) then
        let strips : Tab Strip := (List.range (l.d + 2)).filterMap fun p => (destOf s l k p).map fun (m, t) =>
          (p, { member := m, slot := t, issued := false, done := false
                zeroes := decide (p < l.d) && (stripGrains c p).all isPad })
        let lost := (strips.filter fun p => p.2.member != (place l k p.1).1).map (·.1)
        let q := nextSeq s c.slate
        let s := modCourse s k fun c => { c with strips := strips, recSeq := some q, spareSeq := [], lostPos := lost }
        addRec s c.slate (.course k c.kind (tabVals strips |>.map (·.member)) c.sealTb)
      else s
  | _, _ => s

/-- Seal a course (R171, R172): every unfilled index becomes padding; the lead that held it is to pass on. -/
def sealCourse (s : State) (k : Nat) : State :=
  match courseOf s k, s.layout with
  | some c, some l =>
    if c.st ≠ .opened then s
    else
      let pad := dataGrains l - c.grains.length
      let s := modCourse s k fun c =>
        { c with st := .sealed, sealTb := now s c.slate, grains := c.grains ++ List.replicate pad padGrain }
      let s := bump s c.slate F.STRIPE.GRAINS_PAD pad
      let s := { s with leads := tabMapV s.leads fun _ ld =>
        if ld.ordinal = some k then { ld with ordinal := none, handover := true } else ld }
      advanceSeal s k
  | _, _ => s

/-- Put one grain in a course: the leaf of its LBA is brought into the map cache (R162). -/
def addGrain (s : State) (k : Nat) (g : Grain) : State :=
  let s := modCourse s k fun c => { c with grains := c.grains ++ [g] }
  let sl := match courseOf s k with | some c => c.slate | none => 0
  match g.kind with
  | .host => needLeaf (bump s sl F.STRIPE.GRAINS_IN) g.volume g.lba
  | .reloc _ => needLeaf s g.volume g.lba
  | _ => s

/-- The arbiter of a lead over slate index (R169). -/
def ptrLead (i : Nat) : Nat := 1025 + i

/-- The waiting append a lead takes next: one whose grains have begun to enter it, else the one that came first; those that came
in one cycle are taken by the rotating-priority rule over their slates (R42, R169, R170). -/
def nextAppend (s : State) (i : Nat) (w : List PendingAppend) : Option (PendingAppend × List PendingAppend) :=
  let first := (w.map (·.tb)).foldl min ((w.map (·.tb)).headD 0)
  let isNext (sl : Nat) (p : PendingAppend) : Bool := p.tb == first && p.slate == sl
  let sl := rotPick (tabGetD s.ptrs (ptrLead i) 0) 8 fun sl => w.any (isNext sl)
  let at_ := match w.findIdx? (·.started) with
    | some x => some x
    | none => sl.bind fun sl => w.findIdx? (isNext sl)
  at_.bind fun x => (w[x]?).map fun p => (p, w.eraseIdx x)

/-- Feed a lead's waiting appends into its open course, sealing it when its window has ended, when it fills, or when it lacks room
for an atomic append (R170, R171, R176).
DEDUCED (log entry 69). -/
def feedLead : Nat → State → Layout → Nat → State
  | 0, s, _, _ => s
  | n + 1, s, l, i =>
    match nextAppend s i (leadOf s i).waiting with
    | none => s
    | some (p, rest) =>
      match ensureCourse s l i with
      | none => s
      | some (s, k) =>
        let c := (courseOf s k).getD (courseNew .data 0 0 0)
        let free := dataGrains l - c.grains.length
        if c.t0 + c.window ≤ now s c.slate ∨ (p.atomic ∧ free < p.grains.length) then sealCourse s k
        else
          let x := min free p.grains.length
          let s := (p.grains.take x).foldl (fun s g => addGrain s k g) (granted s (ptrLead i) p.slate 8)
          let rest := if x = p.grains.length then rest else { p with grains := p.grains.drop x, started := true } :: rest
          let s := putLead s i { leadOf s i with waiting := rest }
          if x = free then sealCourse s k else feedLead n s l i

/-- Append grains that come from a slate to a lead (R169). -/
def appendTo (s : State) (i sl : Nat) (grains : List Grain) (atomic : Bool) : State :=
  match s.layout with
  | none => s
  | some l =>
    if grains.isEmpty then s
    else
      let ld := leadOf s i
      let p : PendingAppend := { slate := sl, tb := now s sl, started := false, grains := grains, atomic := atomic }
      let s := putLead s i { ld with waiting := ld.waiting ++ [p] }
      feedLead ((leadOf s i).waiting.length + 1) s l i

/-- The lead passes to the next slate with room, from the one after its holder on, wrapping (R169). -/
def passLead (s : State) (i : Nat) : State :=
  match s.layout with
  | none => s
  | some l =>
    let ld := leadOf s i
    if !ld.handover then feedLead (ld.waiting.length + 1) s l i
    else match ((List.range s.n).map fun x => (ld.slate + 1 + x) % s.n).find? (hasRoom s l) with
      | none => s
      | some sl => feedLead (ld.waiting.length + 1) (putLead s i { ld with slate := sl, handover := false }) l i

/-- The commit sweep (R148): each command with grains in the course is asked once; the grains of one whose abort came
first are dead. -/
def sweepCourse (s : State) (k : Nat) : State :=
  match courseOf s k with
  | none => s
  | some c =>
    if c.swept then s
    else
      let jobs := (c.grains.filterMap (·.job)).eraseDups
      let (s, dead) := jobs.foldl (fun (p : State × List Nat) id =>
        let (s, ok) := askCommit p.1 id
        (s, if ok then p.2 else id :: p.2)) (s, [])
      modCourse s k fun c => { c with swept := true, grains := c.grains.map fun g =>
        match g.job with | some id => if dead.contains id then { g with dead := true } else g | none => g }

/-- A summary grain of a data course, the first or, with D from 17 on, the second of its two (R172): the volume and LBA of each
grain index of its course number, zero for padding. The manual gives the fields no layout within it.
DESIGN CHOICE (log entry 66). -/
def summaryGrain (k second : Nat) (grains : List Grain) : Grain :=
  let named := ((grains.drop (512 * second)).take 512).map fun g => if isPad g then (0, 0) else (g.volume, g.lba)
  { kind := .summary k, volume := 0, lba := second, data := blockTrim ((Config.summaryImage named).take 4096), job := none
    dead := false, seqs := [] }

/-- In a zoned pool, whether every lower slot of a strip's zone that a course in flight has there is written (R167). -/
def zoneReady (s : State) (l : Layout) (k : Nat) (t : Strip) : Bool :=
  !l.zoned || s.courses.all fun c =>
    !(decide (c.1 < k) && inTundish c.2) ||
      (List.range (l.d + 2)).all fun p =>
        let (m, slot) := place l c.1 p
        !(m == t.member && slot / max 1 l.zs == t.slot / max 1 l.zs && decide (slot < t.slot)) ||
          (match tabGet c.2.strips p with | some x => x.done || x.member != m | none => false)

/-- Issue the strip writes of a pouring course that can be (R167, R172): a Write, or a Write Zeroes for a strip of padding, with
FUA. -/
def issueStrips (s : State) (k : Nat) : State :=
  match courseOf s k, s.layout with
  | some c, some l =>
    if c.st ≠ .pouring then s
    else (c.strips.filter fun p => !p.2.issued && zoneReady s l k p.2).foldl (fun s p =>
      let s := modCourse s k fun c => { c with strips := tabMod c.strips p.1 fun t => { t with issued := true } }
      countSrc (issueCmd s p.2.member (if p.2.zeroes then 8 else 1) (slotLba s p.2.member p.2.slot) (.strip k p.1) false [] true)
        c.slate srcStrips 1) s
  | _, _ => s

/-- Whether host appends wait for a lead (R177). -/
def hostWaits (s : State) : Bool := !(leadOf s 0).waiting.isEmpty

/-- Whether a course may pour beside the host appends that wait: reclaim courses take at most RECL_SHARE percent of the unit's
pours meanwhile, counted since appends began to wait (R177).
DESIGN CHOICE (log entry 123). -/
def sharePours (s : State) (c : Course) : Bool :=
  c.kind != .reclaim || !hostWaits s ||
    decide ((s.poursRecl + 1) * 100 ≤ getF s c.slate F.STRIPE.RECL_SHARE * (s.pours + 1))

/-- Count a pour for RECL_SHARE. -/
def countPour (s : State) (c : Course) : State :=
  if hostWaits s then { s with pours := s.pours + 1, poursRecl := s.poursRecl + if c.kind = .reclaim then 1 else 0 }
  else { s with pours := 0, poursRecl := 0 }

/-- Pour a sealed course whose COURSE record is confirmed (R172), while its owner has three holders (R193): the sweep, then a
strip write with FUA to every destination, and its summary grains to the map lead. A destination that has gone meanwhile sends
it back to placement. -/
def pourCourse (s : State) (k : Nat) : State :=
  match courseOf s k, s.layout with
  | some c, some l =>
    match c.recSeq with
    | none => s
    | some q =>
      if c.st ≠ .sealed ∨ !recConfirmed s c.slate q ∨ ownerShort s c.slate ∨ !sharePours s c then s
      else if c.strips.any fun p => !(inService s p.2.member && hasPath s p.2.member) then
        let s := trimRecs s c.slate fun r => r.seq == q
        advanceSeal (modCourse s k fun c => { c with strips := [], recSeq := none, lostPos := [] }) k
      else
        let s := countPour (sweepCourse s k) c
        let s := modCourse s k fun c => { c with st := .pouring }
        let s := issueStrips (bump s c.slate F.STRIPE.POURED) k
        match c.kind with
        | .data => appendTo s 2 c.slate ((List.range (if l.d ≤ 16 then 1 else 2)).map fun i => summaryGrain k i c.grains) false
        | _ => s
  | _, _ => s

/-! ### Commit (R168, R188, R189, R195) -/

/-- The extents of a course's live host grains, consecutive grains of consecutive LBAs of one volume joined (R188). -/
def extentsOf : List (Nat × Grain) → List MapExtent → List MapExtent
  | [], acc => acc
  | (i, g) :: r, acc =>
    match g.kind, acc.getLast? with
    | .host, some e =>
      if !g.dead && e.volume == g.volume && e.lba + e.count == g.lba && e.grain + e.count == i && decide (e.count < 1023) then
        extentsOf r (acc.dropLast ++ [{ e with count := e.count + 1 }])
      else extentsOf r (if g.dead then acc else acc ++ [{ lba := g.lba, volume := g.volume, grain := i, count := 1 }])
    | .host, none => extentsOf r (if g.dead then acc else [{ lba := g.lba, volume := g.volume, grain := i, count := 1 }])
    | _, _ => extentsOf r acc

/-- Cut a list in groups of at most `k`. -/
def chunks {α : Type} (k : Nat) : Nat → List α → List (List α)
  | 0, _ => []
  | n + 1, l => if l.isEmpty then [] else l.take k :: chunks k n (l.drop k)

/-- The grains of a course with their indexes. -/
def indexed (c : Course) : List (Nat × Grain) := (List.range c.grains.length).zip c.grains

/-- The map-update records of a course, without its COMMIT. -/
def mapRecords (c : Course) : List RecBody :=
  let es := extentsOf (indexed c) []
  let rs : List Reloc := (indexed c).filterMap fun p => match p.2.kind with
    | .reloc old => if p.2.dead then none else some { lba := p.2.lba, volume := p.2.volume, grain := p.1, old := old }
    | _ => none
  (chunks 3 es.length es).map .mapx ++ (chunks 2 rs.length rs).map .reloc

/-- Whether a course changes map entries, the pointers to map grains included (R195, R197). -/
def changesMap (c : Course) : Bool :=
  c.grains.any fun g => !g.dead && (match g.kind with | .host => true | .reloc _ => true | .node _ => true | _ => false)

/-- Write the group that makes a poured course durable once confirmed (R189). -/
def commitCourse (s : State) (k : Nat) : State :=
  match courseOf s k with
  | none => s
  | some c =>
    let (s, q) := addGroup s c.slate k (mapRecords c) (changesMap c)
    modCourse s k fun c => { c with comSeq := some q }

/-- Every strip of a pouring course has completed: its spare entries are set VALID, and once those records are settled its commit
group is written (R189, R208). -/
def advancePour (s : State) (k : Nat) : State :=
  match courseOf s k with
  | none => s
  | some c =>
    if c.st ≠ .pouring ∨ c.comSeq.isSome ∨ !(c.strips.all fun p => p.2.done) then s
    else if c.spareSeq.all (recSettled s c.slate) then commitCourse s k
    else s

/-- Set the spare-map entry of a written strip VALID (R208): the record, and its SEQ. -/
def validSpare (s : State) (l : Layout) (sl k pos : Nat) : State × List Nat :=
  let (m, slot) := place l k pos
  match failIndex s m with
  | none => (s, [])
  | some j => match spareOf s j slot with
    | none => (s, [])
    | some e =>
      if e.valid then (s, [])
      else let (s, q) := addMset s sl (0x1000 + j) slot (spareWord { e with valid := true }); (s, [q])

/-- A strip write has completed with FUA (R172): in a zoned pool the next write of its zone can follow (R167). -/
def stripDone (s : State) (k pos : Nat) : State :=
  match courseOf s k, s.layout with
  | some c, some l =>
    match tabGet c.strips pos with
    | none => s
    | some t =>
      if c.st ≠ .pouring ∨ t.done ∨ !t.issued then s
      else
        let s := dropCmds s t.member fun x => x.use == .strip k pos
        let s := writeStrip s t.member t.slot (stripData l c pos)
        let (s, qs) := if t.member = (place l k pos).1 then (s, []) else validSpare s l c.slate k pos
        let s := modCourse s k fun c =>
          { c with strips := tabMod c.strips pos fun t => { t with done := true }, spareSeq := c.spareSeq ++ qs }
        let s := if l.zoned then (keysWhere s.courses fun c => c.st == .pouring).foldl issueStrips s else s
        advancePour s k
  | _, _ => s

/-! ### Discard (R173) and a member gone (R181, R206) -/

/-- The discarded courses that wait are poured again as far as ordinals are free (R173). -/
def repourWaiting (s : State) : State :=
  match s.layout with
  | none => s
  | some l => s.repourWait.foldl (fun s c => match placeCourse { s with repourWait := s.repourWait.drop 1 } l c with
    | none => s
    | some (s, k) => advanceSeal s k) s

/-- Discard a pouring course and pour its contents again as a new course, once an ordinal is free for it (R173). -/
def repour (s : State) (k : Nat) : State :=
  match courseOf s k, s.layout with
  | some c, some l =>
    if c.st ≠ .pouring then s
    else
      let s := c.strips.foldl (fun s p => dropCmds s p.2.member fun x => x.use == .strip k p.1) s
      let s := modCourse s k fun c =>
        { c with st := .retired, grains := [], live := 0, holdJobs := tabKeys s.jobs, comSeq := none, ucn := none }
      let s := match c.recSeq with | some q => trimRecs s c.slate fun r => r.seq == q | none => s
      let s := detect (bump s c.slate F.STRIPE.REPOURS) c.slate Ev.REPOUR []
      let c' := { courseNew c.kind c.slate c.t0 c.window with
        st := .sealed, grains := c.grains, swept := true, sealTb := c.sealTb }
      match placeCourse s l c' with
      | none => { s with repourWait := s.repourWait ++ [c'] }
      | some (s, k') => advanceSeal s k'
  | _, _ => s

/-- The lowest failure index not in use (R206). -/
def freeFailIndex (s : State) : Option Nat :=
  (List.range 4).find? fun j => !(s.members.any fun p => decide (p.2.recorded = .failed (some j)))

/-- What becomes of one outstanding command of a member declared gone (R181). The status field and DW0 of a command that has no
completion entry are free values.
DESIGN CHOICE (log entry 124). -/
def goneCmd (s : State) (c : DrvCmd) : State :=
  match c.use with
  | .ticket job t =>
    let x := freeVal s
    modTicket (takeFree s) job t fun k => { k with result := some (ticketWord St.memberGone (bits x 0 15) (bits x 32 32)) }
  | .read id pos col count => readReturn s id pos col count ((List.range count).map (col + ·)) false
  | .strip k _ => repour s k
  | _ => s

/-- What a member gone held is missing (R206, R209): the strips in its own slots, and the spare placements that name it; copy-back
to it ends. -/
def loseStrips (s : State) (l : Layout) (m : Nat) : State :=
  let mark := fun (_ : Nat) (e : SpareEntry) => if e.member = m then { e with stale := true } else e
  { s with
    courses := tabMapV s.courses fun k c =>
      if c.st = .opened ∨ c.st = .sealed then c
      else match posIn l k m with
        | some p => if c.lostPos.contains p then c else { c with lostPos := c.lostPos ++ [p] }
        | none => c
    spare := tabMapV s.spare mark
    spareResv := tabMapV s.spareResv mark
    copyBack := tabDel s.copyBack m }

/-- A member that was in service is gone: what it held is missing, and pouring courses with a strip on it are poured again, unless
recovery has still to resolve them (R173, R202, R211). -/
def memberLost (s : State) (m : Nat) : State :=
  match s.layout with
  | none => s
  | some l =>
    let s := loseStrips s l m
    if s.recovery < 8 then s
    else (keysWhere s.courses fun c => c.st == .pouring && c.comSeq.isNone && c.strips.any fun p => p.2.member == m).foldl repour s

/-- Record a member as failed (R206): a group of the member table with the TB; a member that no failure index is left for is
recorded without one. -/
def writeFailure (s : State) (m tb : Nat) : State :=
  let r : Recorded := .failed (freeFailIndex s)
  (addTableGroup (putMember s m { memberOf s m with recorded := r, recConf := false, goneAt := none }) [.member m r tb]).1

/-- A member declared gone is recorded as failed; during recovery its record waits for the end of replay (R206, R211). -/
def recordFailure (s : State) (m : Nat) : State :=
  if s.recovery < 8 then putMember s m { memberOf s m with goneAt := some (now s 0) } else writeFailure s m (now s 0)

/-- A member is declared gone (R181): every outstanding command completes, and where it was in service MEMBER_LOST is raised and
it is recorded failed (R206). `state` is the MSTATE it then shows: 3 gone, 4 held out. -/
def declareGone (s : State) (m state : Nat) (status opcode lba : Nat) : State :=
  let x := memberOf s m
  let shows := if x.mstate = 2 ∨ state = 4 ∨ x.mstate = 3 ∨ x.mstate = 4 then state else if x.link then x.mstate else 0
  let s := putMember s m { x with mstate := shows, cmds := [], resetAt := none, lowPower := false }
  let s :=
    if x.mstate ≠ 2 then s
    else
      let s := match x.recorded with
        | .inService _ => recordFailure s m
        | _ => s
      memberLost (detect s (portSlate s m) (Ev.MEMBER_LOST (m % 6)) (driveDetail m status opcode lba)) m
  (tabVals x.cmds).foldl goneCmd s

end Sys2Proof.Machine
end

