-- ==== Sys2Proof/Machine/CourseCmds.lean ====
section
/-! DEFINITION. The commands of courses and the journal (R167, R169 to R175, R192 to R197, R298). -/

namespace Sys2Proof.Machine

/-! ### What confirmation lets go on -/

/-- Courses of an owner that wait for a record go on (R172, R208). -/
def advanceAll (s : State) (o : Nat) : State :=
  (keysWhere s.courses fun c => c.slate == o && inTundish c).foldl (fun s k => advancePour (advanceSeal s k) k) s

/-- Whether a record is a map record, which the flash log holds before it is trimmed (R196). -/
def isMapRec : RecBody → Bool
  | .mapx _ => true
  | .reloc _ => true
  | .mset .. => true
  | .commit .. => true
  | .release .. => true
  | _ => false

/-- The UCN of the group a record belongs to, once its COMMIT is confirmed; of a record that stands alone, its own (R189, R195). -/
def groupUcn (w : Owner) (r : Rec) : Option Nat :=
  if !r.grp then some (recUcn r.body)
  else (w.recs.find? fun c => c.confirmed && match c.body with
    | .commit _ first count _ _ => decide (first ≤ r.seq) && decide (r.seq < first + count)
    | _ => false).map fun c => recUcn c.body

/-- Records of an owner that can be packed: confirmed map records whose turn in UCN order is past (R195, R197). -/
def packable (s : State) (o : Nat) : List Rec :=
  let w := ownerOf s o
  w.recs.filter fun r => r.confirmed && !r.packed && !r.trimmed && isMapRec r.body &&
    (match groupUcn w r with | some u => decide (u ≤ s.ucnDone) | none => false)

/-- Pack records of an owner into a log grain for the map lead. -/
def packRecs (s : State) (o : Nat) (l : List Rec) : State :=
  let qs := l.map (·.seq)
  let g : Grain := { kind := .log o, volume := 0, lba := 0, data := l.flatMap (lineBytes o), job := none, dead := false,
                     seqs := qs }
  let w := ownerOf s o
  let s := putOwner s o { w with recs := w.recs.map fun r => if qs.contains r.seq then { r with packed := true } else r }
  appendTo s 2 (actsFor s o) [g] false

/-- HK_JOURNAL packs an owner's records 64 lines at a time (R197).
DEDUCED (log entry 73). -/
def packLog (s : State) (o : Nat) : State :=
  let l := (packable s o).take 64
  if l.length < 64 then s else packRecs s o l

/-- What follows a confirmed record of an owner. -/
def afterConfirm (s : State) (o : Nat) : State := packLog (advanceAll s o) o

/-! ### DURABLE (R159, R195, R197) -/

/-- The map grain that points to a map grain. -/
def parentKey (v j i : Nat) : Nat := nodeKey v (j + 1) (i / 512)

/-- The map grains whose entries or pointers a record changes; a map course's COMMIT changes those that point to its map grains. -/
def recNodes (s : State) : RecBody → List Nat
  | .mapx es => es.flatMap fun e =>
      (List.range ((e.lba + e.count - 1) / 512 - e.lba / 512 + 1)).map fun i => leafKey e.volume (e.lba / 512 + i)
  | .reloc rs => rs.map fun r => leafKey r.volume (r.lba / 512)
  | .mset lba v _ _ _ => [leafKey v (lba / 512)]
  | .commit k _ _ _ _ => match courseOf s k with
    | some c => c.grains.filterMap fun g => match g.kind with
      | .node j => some (parentKey g.volume j g.lba)
      | _ => none
    | none => []
  | _ => []

/-- The updates that records of an owner hold, as map grain and UCN. -/
def recUpdates (s : State) (o : Nat) (l : List Rec) : List (Nat × Nat) :=
  (l.flatMap fun r => match groupUcn (ownerOf s o) r with
    | some u => (recNodes s r.body).map fun k => (k, u)
    | none => []).eraseDups

/-- Whether an update is not yet written back. -/
def updateOpen (s : State) (x : Nat × Nat) : Bool :=
  match tabGet s.leaves x.1 with | some y => y.pending.contains x.2 | none => false

/-- A log grain is on flash: its records are trimmed and its course enters the flash-log directory with the updates that are still
pending (R196, R197). -/
def logDurable (s : State) (k o : Nat) (seqs : List Nat) : State :=
  let ups := recUpdates s o ((ownerOf s o).recs.filter fun r => seqs.contains r.seq)
  let s := trimRecs s o fun r => seqs.contains r.seq
  let s := modCourse s k fun c => { c with live := c.live + 1 }
  let last := s.flashDir.foldl (fun a d => max a d.2.order) 0
  let add (d : DirCourse) : DirCourse := { d with
    updates := (d.updates ++ ups.filter (updateOpen s)).eraseDups, top := ups.foldl (fun a u => max a u.2) d.top }
  let s := { s with flashDir := tabModD s.flashDir k { updates := [], top := 0, order := last + 1 } add }
  (addTable s (.flashDir k true)).1

/-- A directory course with nothing left to write back leaves the directory, by a unit record, and its log grains die (R190,
R197). -/
def pruneDir (s : State) : State :=
  let done := keysWhere s.flashDir fun d => d.updates.isEmpty
  done.foldl (fun s k =>
    let s := (addTable { s with flashDir := tabDel s.flashDir k } (.flashDir k false)).1
    let logs := match courseOf s k with
      | some c => (c.grains.filter fun g => match g.kind with | .log _ => true | _ => false).length
      | none => 0
    retireIfDead (modCourse s k fun c => { c with live := c.live - logs }) k) s

/-- The map grain above one, or the root pointer, changes with it (R160, R197): the change of UCN `u` is pending there, and a root
pointer is a unit record of the volume table. -/
def pointTo (s : State) (v j i u : Nat) : State :=
  if j < rootLevel (mapSize s v) then pendNode s v (j + 1) (i / 512) u
  else (addTableGroup s [.root v (nodeOf s v j i).ptr]).1

/-- A map grain is on flash with its updates up to UCN `mark`, by the course of UCN `u`: what points to it changes, and the grain
it was in before dies (R160, R197). A copy older than the one on flash, or of a map that is gone, is dead. -/
def nodeDurable (s : State) (v j i pgn mark u : Nat) : State :=
  let x := nodeOf s v j i
  if mapSize s v ≤ i * 512 ^ (j + 1) ∨ mark < x.flushed then s
  else
    let old := entryPgn x.ptr
    let s := modNode s v j i fun x => { x with
      ptr := mkEntry pgn (entryGen x.ptr + 1) false, flushed := mark
      pending := x.pending.filter fun u => decide (mark < u)
      writing := if x.writing = some mark then none else x.writing }
    let s := pointTo (grainLive (grainLive s pgn true) old false) v j i u
    let written (y : Nat × Nat) : Bool := y.1 == nodeKey v j i && decide (y.2 ≤ mark)
    pruneDir { s with flashDir := tabMapV s.flashDir fun _ d => { d with updates := d.updates.filter fun y => !written y } }

/-- The update of one grain of a course of UCN `u` that becomes DURABLE (R158, R159). -/
def grainDurable (s : State) (l : Layout) (k i u : Nat) (g : Grain) : State :=
  if g.dead then s
  else
    let p := pgnOf l k i
    match g.kind with
    | .host => applyHost s g.volume g.lba p u
    | .reloc old =>
      let s' := applyReloc s g.volume g.lba p old u
      if entryPgn (mapEntry s' g.volume g.lba) = p then
        bump s' (match courseOf s k with | some c => c.slate | none => 0) F.STRIPE.RELOCATED else s'
    | .node j => nodeDurable s g.volume j g.lba p (g.seqs.headD 0) u
    | .summary _ => modCourse s k fun c => { c with live := c.live + 1 }
    | .log o => logDurable s k o g.seqs
    | .padding => s

/-- The positions of a course that are missing (R209, R210). -/
def missingOf (s : State) (l : Layout) (k : Nat) : List Nat :=
  (List.range (l.d + 2)).filter fun p => (stripAt s l k p).isNone

/-- Put a DURABLE course with a missing strip in the rebuild queue of its share (R211). -/
def queueCourse (s : State) (l : Layout) (k : Nat) : State :=
  if (missingOf s l k).isEmpty || (tabGetD s.rebuildQ (k % s.n) []).contains k then s
  else { s with rebuildQ := tabModD s.rebuildQ (k % s.n) [] (· ++ [k]) }

/-- A course becomes DURABLE (R172, R195): its updates are applied in ascending grain index, its COURSE record is trimmed
and its tundish space is free. One that has lost a strip meanwhile waits for rebuild (R211). -/
def makeDurable (s : State) (k : Nat) : State :=
  match courseOf s k, s.layout with
  | some c, some l =>
    let s := (indexed c).foldl (fun s p => grainDurable s l k p.1 (c.ucn.getD 0) p.2) s
    let s := modCourse s k fun c => { c with st := .durable, spareSeq := [], grains := c.grains.map fun g => { g with data := [] } }
    let s := match c.recSeq with | some q => trimRecs s c.slate fun r => r.seq == q | none => s
    let s := match c.ucn with | some u => { s with ucnDone := u } | none => s
    queueCourse (pruneDir (drainUcn (recTotal s) (retireIfDead s k))) l k
  | _, _ => s

/-- Whether a course's turn has come: its COMMIT is confirmed and every lower UCN is past (R195). -/
def durableDue (s : State) (c : Course) : Bool :=
  c.st == .pouring &&
    (match c.comSeq with | some q => recConfirmed s c.slate q | none => false) &&
    (match c.ucn with | some u => decide (u = s.ucnDone + 1) | none => true)

/-- The owners that run short take the holders there now are: an area of a lost owner may have become free (R194). -/
def fillHolders (s : State) : State := ((servingSlates s).filter (ownerShort s)).foldl refreshHolders s

/-- COURSE_DURABLE (R195). -/
def execCourseDurable (ordinal : Nat) (s : State) : Out :=
  onUnit s fun s => match courseOf s ordinal with
    | some c => if durableDue s c then fillHolders ((servingSlates s).foldl packLog (makeDurable s ordinal)) else s
    | none => s

/-! ### Fill window, lead, pour and strips (R169 to R173) -/

/-- FILL_WINDOW_EXPIRY (R171): the window is [t0, t0 + FILL_WINDOW). -/
def execFillWindowExpiry (ordinal : Nat) (s : State) : Out :=
  onUnit s fun s => match courseOf s ordinal with
    | some c => if c.st = .opened ∧ c.t0 + c.window ≤ now s c.slate then sealCourse s ordinal else s
    | none => s

/-- LEAD_HANDOVER (R169): `kind` 0 is the data lead, 1 the reclaim lead, 2 the map lead. -/
def execLeadHandover (kind : Nat) (s : State) : Out := onUnit s fun s => if kind < 3 then passLead s kind else s

/-- COURSE_POUR (R172, R174). -/
def execCoursePour (ordinal : Nat) (s : State) : Out := onUnit s fun s => pourCourse (advanceSeal s ordinal) ordinal

/-- STRIP_WRITE_DONE (R172): a write that its zone's order still holds back has not been issued and cannot complete. -/
def execStripWriteDone (ordinal pos : Nat) (s : State) : Out := onUnit s fun s => stripDone s ordinal pos

/-- A strip write of the unit's own has failed with an NVMe status: it is counted, and the member is marked failed (R173, R184,
R206). -/
def writeFailed (s : State) (m status opcode lba : Nat) : State :=
  let ps := portSlate s m
  declareGone (bump s ps (F.DRIVE.WRITE_ERRS (m % 6))) m 3 status opcode lba

/-- A strip write of a pouring course fails: the course is poured again, and the member is marked failed (R173). -/
def stripFail (s : State) (k pos status : Nat) : State :=
  match courseOf s k with
  | none => s
  | some c => match tabGet c.strips pos with
    | none => s
    | some t =>
      if c.st ≠ .pouring ∨ t.done ∨ !t.issued then s
      else writeFailed (repour s k) t.member status (if t.zeroes then 8 else 1) (slotLba s t.member t.slot)

/-- STRIP_WRITE_FAIL (R173). -/
def execStripWriteFail (ordinal pos : Nat) (s : State) : Out := onUnit s fun s => stripFail s ordinal pos 0

/-! ### Release (R167, R175, R208) -/

/-- The summary grains of a released course die. -/
def dropSummaries (s : State) (k : Nat) : State :=
  (keysWhere s.courses fun c => c.grains.any fun g => decide (g.kind = .summary k) && !g.dead).foldl (fun s x =>
    let n := match courseOf s x with
      | some c => (c.grains.filter fun g => decide (g.kind = .summary k) && !g.dead).length
      | none => 0
    let s := modCourse s x fun c => { c with
      live := if c.st = .durable then c.live - n else c.live
      grains := c.grains.map fun g => if g.kind = .summary k then { g with dead := true } else g }
    retireIfDead s x) s

/-- Free the spare slots of a course: their entries are zeroed by MSET records (R208). -/
def freeSpares (s : State) (l : Layout) (sl k : Nat) : State :=
  (List.range (l.d + 2)).foldl (fun s p =>
    let (m, slot) := place l k p
    match failIndex s m with
    | none => s
    | some j => if (spareDest s j slot).isSome then (addMset s sl (0x1000 + j) slot 0).1 else s) s

/-- Release a retired course (R175): its strips are deallocated in a conventional pool; a zoned run is reset as a whole
once every ordinal in it is released and allocation has left it. -/
def releaseCourse (s : State) (k : Nat) : State :=
  match courseOf s k, s.layout with
  | some c, some l =>
    let o := actsFor s c.slate
    let s := addRec s o (.release k 1)
    let s := (List.range (l.d + 2)).foldl (fun s p =>
      match stripAt s l k p with
      | some (m, slot) =>
        if l.zoned then s else eraseSlots (issueCmd s m 9 (slotLba s m slot) .internal) fun x y => x == m && y == slot
      | none => s) s
    let s := freeSpares (dropSummaries s k) l o k
    let s := if l.zoned then resetRuns (modCourse s k fun c => { c with st := .released }) l
      else { s with courses := tabDel s.courses k }
    repourWaiting (updateSpace s)
  | _, _ => s

/-- Whether a course is being rebuilt: it is not released until its spare writes are complete (R211). -/
def inRebuild (s : State) (k : Nat) (c : Course) : Bool :=
  c.rebuilding && (s.reads.any fun r => r.2.ordinal == k && r.2.use == .rebuild) || !c.spareSeq.isEmpty ||
    s.members.any fun m => m.2.cmds.any fun x => match x.2.use with | .spareWrite o _ => o == k | _ => false

/-- COURSE_RELEASE (R175, R211): every job of the time of the retirement has ended, and every housekeeping program has since
returned from `EVW` or been restarted. -/
def execCourseRelease (ordinal : Nat) (s : State) : Out :=
  onUnit s fun s => match courseOf s ordinal with
    | some c => if c.st = .retired ∧ !inRebuild s ordinal c ∧ c.holdJobs.all (fun j => !tabHas s.jobs j) then
        releaseCourse s ordinal else s
    | none => s

/-! ### Journal commands (R192, R196, R197) -/

/-- Whether a partner lane pair is retraining: HOLDER_LOST for the partner is held off on every owner (R324). -/
def partnerShadow (s : State) : Bool := s.pin.shadows.any fun p => p.2.kind == .partner

/-- HOLDER_TIMEOUT (R192): a holder has left a record unacknowledged for HOLDER_TIMEOUT and leaves the holder set; the
partner leaves every owner's set, once a renewal round with EXCL has succeeded (R293). A hit held off by a shadow is only
counted (R325). -/
def execHolderTimeout (owner holder : Nat) (s : State) : Out :=
  onSlate owner s fun s =>
    let w := ownerOf s owner
    let late := w.recs.any fun r => !r.confirmed && r.need.contains holder && !r.acks.contains holder &&
      (match tabGet r.due holder with | some t => decide (t ≤ now s owner) | none => false)
    if holder = 1 ∨ !w.holders.contains holder ∨ !late then s
    else if holder = 3 ∧ partnerShadow s then bump s owner F.FPIN.SHADOWED
    else if holder = 3 then partnerLeaves s
    else
      let s := holderLost s owner holder
      installHolders s owner (([1, 2, 3, 4, 5].filter fun p => p != holder && holderLive s owner p).take 3)

/-- Write the records of an owner that wait, as far as their ring lines are free (R196). -/
def writeWaiting : Nat → State → Nat → State
  | 0, s, _ => s
  | k + 1, s, o =>
    let w := ownerOf s o
    match w.waiting with
    | [] => s
    | x :: r =>
      if lineBusy w then s else writeWaiting k (putRec (putOwner s o { w with waiting := r }) o x) o

/-- LOG_LINE_FREE (R196). -/
def execLogLineFree (owner : Nat) (s : State) : Out :=
  onSlate owner s fun s => writeWaiting (ownerOf s owner).waiting.length s owner

/-- Entry `x` of map grain `i` of level `j`: a map entry, a spare-map entry, or the pointer to a child (R157, R160, R208). -/
def nodeEntry (s : State) (v j i x : Nat) : Word :=
  if 0 < j then (nodeOf s v (j - 1) (i * 512 + x)).ptr
  else if 0x1000 ≤ v then (match spareOf s (v - 0x1000) (i * 512 + x) with | some e => spareWord e | none => 0)
  else mapEntry s v (i * 512 + x)

/-- The 4 KiB of a map grain: its 512 entries, little-endian (R4, R160). -/
def nodeBytes (s : State) (v j i : Nat) : Block := (List.range 512).flatMap fun x => leBytes 8 (nodeEntry s v j i x).toNat

/-- Append a map grain to the map lead as it stands (R197). -/
def writeBack (s : State) (v j i : Nat) : State :=
  let x := nodeOf s v j i
  let mark := x.pending.foldl max x.flushed
  let g : Grain := { kind := .node j, volume := v, lba := i, data := blockTrim (nodeBytes s v j i), job := none, dead := false,
                     seqs := [mark] }
  appendTo (modNode s v j i fun x => { x with writing := some mark }) 2 (actsFor s (nodeHome s.n v i)) [g] false

/-- The oldest course of the flash-log directory, once the courses of the directory fill slate 0's FLOG_GIB (R197). -/
def flogOldest (s : State) : Option DirCourse :=
  match s.layout with
  | none => none
  | some l =>
    if getF s 0 F.JOURNAL.FLOG_GIB * 2 ^ 30 ≤ s.flashDir.length * (dataGrains l * 4096) then
      (tabVals s.flashDir).foldl (fun (b : Option DirCourse) d =>
        match b with
        | none => some d
        | some m => if d.order < m.order then some d else some m) none
    else none

/-- Whether a map grain is to be written back because the flash log is full: the oldest course of its directory holds updates of
it (R197). -/
def flogDue (s : State) (key : Nat) : Bool :=
  match flogOldest s with
  | some d => d.updates.any fun u => u.1 == key
  | none => false

/-- Whether a map grain is to be written back: it has LEAF_BATCH pending updates, its oldest is LEAF_AGE old, or the oldest course
of a full flash log holds updates of it (R197). The manual gives an interior map grain no threshold of its own; it follows those
of a leaf.
DEDUCED (log entry 72). -/
def nodeDue (s : State) (v j i : Nat) : Bool :=
  let x := nodeOf s v j i
  let h := actsFor s (nodeHome s.n v i)
  let new := (newUpdates x).length
  decide (0 < new) && (decide (getF s h F.JOURNAL.LEAF_BATCH ≤ new) ||
    decide (x.oldest + getF s h F.JOURNAL.LEAF_AGE * ms ≤ now s h) || flogDue s (nodeKey v j i))

/-- LEAF_WRITEBACK (R197): the leaf, and each map grain above it, that is to be written back. -/
def execLeafWriteback (volume leaf : Nat) (s : State) : Out :=
  onUnit s fun s => (List.range (rootLevel (mapSize s volume) + 1)).foldl (fun s j =>
    let i := leaf / 512 ^ j
    if nodeDue s volume j i then writeBack s volume j i else s) s

/-- RESYNC (R298, R353): the active records the standby's wrap of the data key and copies its journal areas into it; slate 0 then
writes holder sets that include the partner. A standby whose certificate, report, lifecycle state or MR3 does not stand the check is not
resynchronised, and PARTNER_UNTRUSTED is raised. -/
def execResync (trusted : Bool) (s : State) : Out :=
  onUnit s fun s =>
    if s.lease.role = 1 ∧ standbyServes s ∧ !s.lease.resynced then
      if !trusted then detect s 0 Ev.PARTNER_UNTRUSTED [] else
      let copied (r : Rec) : Rec := if r.acks.contains 3 then r else { r with acks := r.acks ++ [3] }
      let s := { s with
        lease := { s.lease with resynced := true, needExcl := [] }
        owners := tabMapV s.owners fun _ w => { w with recs := w.recs.map copied } }
      (servingSlates s).foldl refreshHolders (addTable s (.wrap (1 - s.lease.bay) s.secure.dataKey)).1
    else s

end Sys2Proof.Machine
end

