-- ==== Sys2Proof/Machine/Ingress.lean ====
section
/-! DEFINITION. Received datagrams: the ingress checks, host-queue admission, inbound DATA, ABORT, and contexts and parking
(R107 to R112, R119, R120, R132 to R152). -/

namespace Sys2Proof.Machine

/-! ### Ingress checks (R108) -/

/-- The size of the IP packet that carries a datagram. -/
def packetBytes (d : Datagram) : Nat :=
  (if d.ipv4 then 20 else 40) + 8 + 48 + d.payload.length + (if d.flags.getLsbD 0 then 16 else 0)

/-- The encapsulation of R104: no fragment, a UDP checksum that verifies, or on IPv4 a zero one, and a UDP payload of exactly
48 + LENGTH bytes and the tag. -/
def encapOk (d : Datagram) : Bool :=
  !d.fragment && (match d.sum with | some b => b | none => d.ipv4) && d.length.toNat == d.payload.length &&
    d.tag.length == (if d.flags.getLsbD 0 then 16 else 0)

/-- What every type's header must satisfy (R104 to R107): encapsulation, version, type, flag bits, zero fields and size.
`queueOk` admits FLAGS.QUEUE; `cmd` says that HQ_TAG names a command. -/
def headerOk (s : State) (d : Datagram) (type : BitVec 4) (queueOk cmd : Bool) : Bool :=
  encapOk d && d.ver == 1 && d.type == type && d.flags.toNat / 8 == 0 && !d.flags.getLsbD 1 && (queueOk || !d.flags.getLsbD 2) &&
    decide (d.payload.length ≤ 8192) && decide (packetBytes d ≤ getF s d.port F.PORT.MTU) &&
    (!d.ipv4 || isF s d.port F.PORT.IPV4_EN) && d.keyId.toNat % 256 == 0 && d.slot.toNat / 1024 == 0 &&
    (!cmd || d.hqTag.toNat / 32 % 128 == 0) && d.status == 0

/-- Whether a class carries commands (R124). -/
def cmdClass (c : Nat) : Bool := c == 7 || c == 3

/-- Whether a class carries remote memory (R124). -/
def rmaClass (c : Nat) : Bool := c == 2 || c == 1

/-- Whether the unit serves classes 3, 2 and 1 (R126, R291, R292, R310, R321). -/
def servesIo (s : State) : Bool :=
  s.ready.sentTb.isSome && !unitStopped s && s.chain.chain != 0x3FF && s.lease.role == 1 &&
    s.lease.draining.isNone

/-- The FIRST detail of CHECK_FAIL and SEAL_FAIL (R131). -/
def keyDetail (d : Datagram) : List Word :=
  [BitVec.ofNat 64 (d.keyId.toNat + d.host.toNat * 2 ^ 32),
   BitVec.ofNat 64 (d.hqTag.toNat + (d.ver.toNat * 16 + d.type.toNat) * 2 ^ 32)]

/-- HQ or window number of a datagram (R106). -/
def dgNumber (d : Datagram) : Nat := d.hqTag.toNat / 4096

/-- What the type of a datagram asks of the checks of R108; `bound` and `right` judge the datagram decrypted. -/
structure Check where
  form   : Bool
  window : Bool
  host   : Option (BitVec 32)
  bound  : Datagram → KeyEntry → Bool
  right  : Datagram → KeyEntry → Bool
  always : Bool
  busy   : Bool

/-- Steps 8 to 12 of R108, once the key is proved and the datagram decrypted; `pass` goes on with it. -/
def ingressGranted (s : State) (d : Datagram) (c : Check) (k : KeyEntry) (pass : State → State) : State :=
  let refuse (st : Status) : State := sendBusy s d.port d st 0
  if d.keyId.toNat / 256 % 256 ≠ k.gen.toNat then refuse St.keyStale
  else if k.window != c.window || k.bind != dgNumber d ||
      (match c.host with | some h => h != d.host | none => false) then refuse St.rights
  else if !c.bound d k then refuse St.bounds
  else if !c.right d k then refuse St.rights
  else if d.cls ≠ 7 && !c.always && !servesIo s then (if c.busy then refuse St.notServing else s)
  else pass s

/-- The checks of R108 in order, of a datagram addressed to the port and its UDP port (R104, R130).
DESIGN CHOICE (log entry 45). -/
def ingress (s : State) (d : Datagram) (c : Check) (pass : State → Datagram → KeyEntry → State) : State :=
  let sl := d.port
  if d.udpPort ≠ getF s sl F.XPORT.UDP_PORT ∨ answersTo s sl d.ipv4 d.dest = false then s
  else if !c.form then bump s sl F.XPORT.MALFORMED
  else if !s.chain.uaValid || d.dstUa != ownUa s then s
  else if !(if c.window then rmaClass d.cls else cmdClass d.cls) then bump s sl F.XPORT.CLASS_DROP
  else match keyOf s sl (keyIndex d.keyId) with
    | none => s
    | some k =>
      if d.flags.getLsbD 0 != keySeals k then bump s sl F.XPORT.MODE_FAIL
      else if k.mode = 0 ∧ d.check ≠ k.check then
        detect (bump s sl F.XPORT.CHECK_FAIL) sl Ev.CHECK_FAIL (keyDetail d)
      else if keySeals k && !authentic k d then
        detect (bump s sl F.XPORT.SEAL_FAIL) sl Ev.SEAL_FAIL (keyDetail d)
      else ingressGranted s (opened k d) c k fun s => pass s (opened k d) k

/-- Remember the sender of a class 7 datagram for READY, up to 256 per slate (R127). -/
def noteSource (s : State) (d : Datagram) : State :=
  let x := (d.port, d.source, d.ipv4)
  if d.cls = 7 && !s.ready.sources.contains x && decide ((s.ready.sources.filter fun y => y.1 == d.port).length < 256) then
    { s with ready := { s.ready with sources := s.ready.sources ++ [x] } }
  else s

/-! ### Admission (R119, R138 to R145) -/

/-- An argument word of a capsule. -/
def capArg (b : Block) (i : Nat) : Word := BitVec.ofNat 64 (beNat (blockSlice b (16 + 8 * i) 8))
/-- IN_LEN of a capsule. -/
def capIn (b : Block) : Nat := beNat (blockSlice b 4 4)
/-- OUT_LEN of a capsule. -/
def capOut (b : Block) : Nat := beNat (blockSlice b 8 4)

/-- The capsule check of R141 step 6. -/
def capsuleOk (b : Block) : Bool :=
  byteAt b 0 == 1 && (byteAt b 1).toNat / 4 == 0 && beNat (blockSlice b 2 2) == 0 && beNat (blockSlice b 12 4) == 0 &&
    beNat (blockSlice b 80 48) == 0 && decide (capIn b ≤ 8388608) && decide (capOut b ≤ 8388608)

/-- The command a datagram carries (R23, R138). -/
def cmdFrom (d : Datagram) (rights tb : Word) : Cmd :=
  { slot := d.slot.toNat, capsule := d.payload, args := (List.range 8).map (capArg d.payload), inLen := capIn d.payload,
    outLen := capOut d.payload, rights := rights, srcUa := d.srcUa, host := d.host, keyId := d.keyId, cls := d.cls,
    ipv4 := d.ipv4, mac := d.mac, source := d.source, tb := tb, buf := none }

/-- Begin a new instance on a tag (R142): what the tag cached of the last one is dropped. -/
def beginTag (s : State) (hq t : Nat) (nonce : Word) (st : TagState) (c : Cmd) : State :=
  modTag s hq t fun x =>
    { x with st := st, last := some nonce, latched := false, resp := none, outcome := none, job := none, cmd := some c }

/-- The hazard entry of an admitted command (R139, R145): a command that arrives after a conflicting one with a higher
nonce has been dispatched, whether or not that has ended, is ordered behind it.
DEDUCED (log entry 128). -/
def addHazard (s : State) (hq t : Nat) (nonce : Word) (c : Cmd) : State :=
  match cmdExtent c.slot c.capsule c.args with
  | none => s
  | some (v, lba, count, modify) =>
    let h : Hazard := { hq := hq, tag := t, job := none, id := 0xFE, pos := nonce.toNat, seq := 0, volume := v,
                        lba := lba, count := count, modify := modify }
    let later := s.hazPast.filter fun x => conflict x h && decide (nonce.toNat < x.pos)
    if later.isEmpty then { s with hazards := s.hazards ++ [h] }
    else
      let sl := hqSlate hq
      let pos := later.foldl (fun a x => max a x.pos) 0
      let s := { s with hazards := s.hazards ++ [{ h with pos := pos, seq := s.hazSeq + 1 }], hazSeq := s.hazSeq + 1 }
      detect (bump s sl F.HQ.HAZ_LATE) sl Ev.HAZ_LATE [BitVec.ofNat 64 (hq % 2 ^ 20 + t * 2 ^ 20), nonce]

/-- A command enters HELD with its inbound buffer (R141 step 7). A class 7 command admitted in PS2 starts the exit to PS0
(R153). -/
def holdCommand (s : State) (hq t : Nat) (nonce : Word) (c : Cmd) : State :=
  let sl := hqSlate hq
  let (s, b) := if c.inLen = 0 then (s, none)
    else
      let (s, b) := newBuffer s { slate := sl, len := c.inLen, data := [], inbound := true, arrived := [] }
      (s, some b)
  let c := { c with buf := b }
  let s := beginTag s hq t nonce .held c
  let s := countSrc (addHazard s hq t nonce c) sl srcCmdAdmit 1
  if s.power.now = 2 ∧ c.cls = 7 ∧ !s.power.exiting then powerMembers { s with power := { s.power with exiting := true } } false
  else s

/-- Whether the slate's pool can supply a command's inbound buffer; the manual gives the pool no size, so it is a free
value. -/
def inboundSupplied (s : State) (c : Cmd) : Bool := c.inLen == 0 || (freeVal s).getLsbD 0

/-- A COMMAND that has passed R108 is judged at its owning slate, its context resident (R119, R141 steps 2 to 7);
`supplied` says that the pool supplies its inbound buffer. -/
def admitCommand (s : State) (p : Parked) (supplied : Bool) : State :=
  let hq := p.hq
  let d := p.dg
  match queueAt s hq with
  | none => s
  | some q =>
    let sl := hqSlate hq
    let t := d.hqTag.toNat % 32
    let tg := tagAt q t
    let n := d.nonce
    let dup : State := bump s sl F.XPORT.DUP_DISCARD
    if !q.armed then bump s sl F.HQ.TAG_BUSY
    else if n.toNat ≤ q.resetNonce.toNat then dup
    else if (match tg.bar with | some b => decide (n.toNat ≤ b.toNat) | none => false) then dup
    else if (match tg.last with | some l => decide (n.toNat < l.toNat) | none => false) then dup
    else if tg.last = some n then
      match tagBusy tg, tg.resp with
      | false, some r => sendResp (bump s sl F.XPORT.DUP_SERVED) hq t n r (replyTo d) true none
      | _, _ => dup
    else if tagBusy tg then bump s sl F.HQ.TAG_BUSY
    else if 65536 ≤ inFlight s sl then sendBusy s d.port d St.busyRetry 10
    else
      let c := cmdFrom d p.rights p.tb
      if !capsuleOk d.payload then
        recordResp (bump (beginTag s hq t n .done c) sl F.HQ.CAPSULE_BAD) hq t n (respOf St.illegalField [0, 0, 0, 0]) c none
      else if psRefuses s c then
        recordResp (beginTag s hq t n .done c) hq t n (respOf St.notServing [0, 0, 0, 0]) c none
      else if supplied || inboundSupplied s c then
        holdCommand (if supplied || c.inLen == 0 then s else takeFree s) hq t n c
      else parkDatagram (takeFree s) sl p

/-! ### DATA (R120) -/

/-- Write the bytes of a range that have not arrived before (R120). -/
def fillBuffer (s : State) (b off : Nat) (d : Block) : State :=
  match bufOf s b with
  | none => s
  | some x =>
    let new := ((List.range d.length).zip d).filter fun p => !covers x.arrived (off + p.1) (off + p.1 + 1)
    let data := new.foldl (fun t p => tabSet 0 t (off + p.1) p.2) x.data
    { s with buffers := tabPut s.buffers b { x with data := data, arrived := addRange x.arrived off (off + d.length) } }

/-- Inbound DATA at its owning slate (R120). -/
def acceptData (s : State) (hq : Nat) (d : Datagram) : State :=
  match queueAt s hq with
  | none => s
  | some q =>
    let sl := hqSlate hq
    let tg := tagAt q (d.hqTag.toNat % 32)
    let drop : State := bump s sl F.XPORT.DUP_DISCARD
    match tagBusy tg && tg.last == some d.nonce, tg.cmd with
    | true, some c =>
      let off := d.offset.toNat
      let len := d.payload.length
      if c.inLen < off + len ∨ ((off % 64 ≠ 0 ∨ len % 64 ≠ 0) ∧ off + len ≠ c.inLen) then drop
      else match c.buf with
        | none => drop
        | some b => match bufOf s b with
          | none => drop
          | some x => if covers x.arrived off (off + len) then drop else fillBuffer s b off d.payload
    | _, _ => drop

/-! ### ABORT (R142, R152) -/

/-- An ABORT of one instance at its owning slate (R142). A nonce above L and below BAR is barred already and discarded as
stale.
DEDUCED (log entry 53). -/
def abortOne (s : State) (hq : Nat) (d : Datagram) : State :=
  match queueAt s hq with
  | none => s
  | some q =>
    let sl := hqSlate hq
    let t := d.hqTag.toNat % 32
    let tg := tagAt q t
    let n := d.nonce
    if tg.last = some n then
      let (s, r) := abortTag s hq t tg
      sendResp s hq t n r (replyTo d) tg.outcome.isSome none
    else if tg.bar = some n then sendResp s hq t n (outcomeOf St.aborted) (replyTo d) true none
    else if (match tg.last with | some l => decide (l.toNat < n.toNat) | none => true) &&
        (match tg.bar with | some b => decide (b.toNat < n.toNat) | none => true) then
      let s := modTag s hq t fun x => { x with bar := some n }
      sendResp (bump s sl F.HQ.N_ABORTED) hq t n (outcomeOf St.aborted) (replyTo d) false none
    else bump s sl F.XPORT.DUP_DISCARD

/-- Send the outcomes of the last reset again, then the summary, all as DUPLICATE (R152).
DEDUCED (log entry 127). -/
def repeatReset (s : State) (hq : Nat) (q : Queue) (rt : ReplyTo) : State :=
  let s := q.resetOut.foldl (fun s p => sendResp s hq p.1 p.2.1 p.2.2 rt true none) s
  sendResp s hq 0 q.resetNonce
    { status := St.ok, orig := 0, words := [q.resetMask, q.resetTb, 0, 0], aout := true } rt true none

/-- An ABORT with QUEUE at its owning slate (R152). -/
def abortQueue (s : State) (hq : Nat) (d : Datagram) : State :=
  match queueAt s hq with
  | none => s
  | some q =>
    let n := d.nonce
    if n = q.resetNonce then repeatReset s hq q (replyTo d)
    else if nonceFloor q < n.toNat then resetQueue s hq n (some (replyTo d))
    else bump s (hqSlate hq) F.XPORT.DUP_DISCARD

/-! ### Hand-over to the owning slate (R11, R133, R136) -/

/-- The rights a command carries: those of its key, none under a key of mode SEAL (R23, R112). -/
def keyRights (k : KeyEntry) : Word := if k.mode = 1 then 0 else k.rights.setWidth 64

/-- Process a datagram whose context is resident and that no other goes before. -/
def processDg (s : State) (p : Parked) : State :=
  let s := if s.ctxRef.contains p.hq then s else { s with ctxRef := p.hq :: s.ctxRef }
  let s := modQueue s p.hq fun q => { q with lastTb := now s (hqSlate p.hq) }
  match p.kind with
  | .command => admitCommand s p false
  | .data => acceptData s p.hq p.dg
  | .abort => abortOne s p.hq p.dg
  | .queueReset => abortQueue s p.hq p.dg

/-- Whether a datagram may be processed: its context is resident and, unless it is an ABORT, no other of its queue waits (R137).
DESIGN CHOICE (log entry 55). -/
def goesOn (s : State) (p : Parked) : Bool := isResident s p.hq && (isAbort p.kind || !parkedFor s p.hq)

/-- Process datagrams in order, each that must still wait going back to the park queue (R137). -/
def processAll (s : State) (sl : Nat) (l : List Parked) : State :=
  l.foldl (fun s p => if goesOn s p then processDg s p else parkDatagram s sl p) s

/-- Take up held datagrams as entries come free (R137). -/
def refillPark : Nat → State → Nat → State
  | 0, s, _ => s
  | n + 1, s, sl =>
    match tabGetD s.heldDg sl [] with
    | [] => s
    | p :: r =>
      if parkUsed s sl < 4096 then refillPark n (processAll { s with heldDg := tabPut s.heldDg sl r } sl [p]) sl else s

/-- Take up every held datagram there is room for. -/
def refill (s : State) (sl : Nat) : State := refillPark (tabGetD s.heldDg sl []).length s sl

/-- Hand a datagram that passed R108 to its owning slate: NO_CONTEXT where the queue is not registered (R133), the park
queue where the context is spilled or others of its HQ wait (R136, R137). -/
def handOver (s : State) (kind : DgKind) (d : Datagram) (k : KeyEntry) : State :=
  let hq := dgNumber d
  let sl := hqSlate hq
  let s := noteSource s d
  if !serving s sl then sendBusy s d.port d St.noContext 0
  else match queueAt s hq with
    | none => sendBusy s sl d St.noContext 0
    | some q =>
      let s := modQueue s hq fun q => { q with ret := some { source := d.source, ipv4 := d.ipv4, port := d.port } }
      let p : Parked := { hq := hq, kind := kind, dg := d, rights := keyRights k, tb := BitVec.ofNat 64 (now s d.port) }
      if goesOn s p && !(tabGetD s.heldDg sl []).any fun x => x.hq == hq then processDg s p
      else parkDatagram s sl p

/-- The host number a queue was registered with, for step 9 of R108; a queue that is not registered is judged later. -/
def queueHost (s : State) (d : Datagram) : Option (BitVec 32) := (queueAt s (dgNumber d)).map (·.host)

/-! ### The commands -/

/-- COMMAND (R108, R141). Class 7 takes KEEP programs only, and none before the manifests are restored. -/
def execCommand (d : Datagram) (s : State) : Out :=
  onSlate d.port s fun s =>
    let c : Check :=
      { window := false, host := queueHost s d, always := false, busy := true
        form := headerOk s d tyCommand false true && d.offset == 0 && decide (128 ≤ d.payload.length) &&
          decide (d.payload.length ≤ 1152)
        bound := fun _ k => decide (k.lo.toNat ≤ d.slot.toNat) && decide (d.slot.toNat ≤ k.hi.toNat)
        right := fun _ _ => true }
    ingress s d c fun s d k =>
      let job := match slotProg s d.slot.toNat with | some (_, p) => !p.keep | none => false
      if d.cls = 7 && decide (s.recovery < 2) then s
      else if d.cls = 7 && job then sendBusy s d.port d St.rights 0
      else handOver s .command d k

/-- DATA_IN (R108, R120). -/
def execDataIn (d : Datagram) (s : State) : Out :=
  onSlate d.port s fun s =>
    let c : Check :=
      { window := false, host := queueHost s d, always := false, busy := false
        form := headerOk s d tyData false true && d.slot == 0, bound := fun _ _ => true, right := fun _ _ => true }
    ingress s d c fun s d k => handOver s .data d k

/-- ABORT (R108, R142). -/
def execAbort (d : Datagram) (s : State) : Out :=
  onSlate d.port s fun s =>
    let c : Check :=
      { window := false, host := queueHost s d, always := false, busy := false
        form := headerOk s d tyAbort false true && d.slot == 0 && d.offset == 0 && d.payload.isEmpty
        bound := fun _ _ => true, right := fun _ _ => true }
    ingress s d c fun s d k => handOver s .abort d k

/-- QUEUE_RESET_ABORT (R108, R152): an ABORT with FLAGS.QUEUE, whose HQ_TAG[4:0] must be zero. -/
def execQueueResetAbort (d : Datagram) (s : State) : Out :=
  onSlate d.port s fun s =>
    let c : Check :=
      { window := false, host := queueHost s d, always := false, busy := false
        form := headerOk s d tyAbort true true && d.flags.getLsbD 2 && d.hqTag.toNat % 32 == 0 && d.slot == 0 && d.offset == 0 &&
          d.payload.isEmpty
        bound := fun _ _ => true, right := fun _ _ => true }
    ingress s d c fun s d k => handOver s .queueReset d k

/-- CONTEXT_FETCH_DONE (R136, R137): the context is resident, and its parked datagrams are processed in arrival order. A
victim is evicted from a full store first. -/
def execContextFetchDone (hq : Nat) (s : State) : Out :=
  onSlate (hqSlate hq) s fun s =>
    let sl := hqSlate hq
    if !(underWay s sl).contains hq then s
    else
      let s := makeResidentRoom s sl
      let s := bump { s with fetching := s.fetching.filter (· != hq) } sl F.HQ.FETCHES
      let s := modQueue s hq fun q => { q with resident := true }
      let l := tabGetD s.park sl []
      let s := { s with park := tabPut s.park sl (l.filter fun p => p.hq != hq) }
      refill (processAll s sl (l.filter fun p => p.hq == hq)) sl

/-- PARK_PAUSE_RELEASE (R137): released once the park queue is below PARK_LOW and every held datagram is parked. -/
def execParkPauseRelease (slate : Nat) (s : State) : Out :=
  onSlate slate s fun s =>
    if (tabGetD s.heldDg slate []).isEmpty && decide (parkUsed s slate < getF s slate F.HQ.PARK_LOW) then
      { s with pausePark := s.pausePark.filter fun p => p.1 / 8 != slate }
    else s

/-- INBOUND_BUFFER_ALLOC (R137): the pool supplies the buffer of the first COMMAND that waits for one, and it is judged
again from step 2 of R141 as it stands now; then those of its queue that wait behind it.
DEDUCED (log entry 55). -/
def execInboundBufferAlloc (slate : Nat) (s : State) : Out :=
  onSlate slate s fun s => match tabGetD s.bufWait slate [] with
    | [] => s
    | p :: r =>
      let (mine, rest) := r.partition fun x => x.hq == p.hq
      let s := admitCommand { s with bufWait := tabPut s.bufWait slate rest } p true
      refill (processAll s slate mine) slate

end Sys2Proof.Machine
end

