-- ==== Sys2Proof/Machine/Rma.lean ====
section
/-! DEFINITION. Remote memory windows: window operations, RMA_REQ at the home slate, the recent-operation table and
unit-to-unit copy (R259 to R272). -/

namespace Sys2Proof.Machine

/-! ### Windows (R259, R260) -/

/-- The window number of an index of a slate. -/
def winNo (sl i : Nat) : Nat := sl * 2 ^ 17 + i

/-- A defined window. -/
def windowOf (s : State) (w : Nat) : Option Window := tabGet s.windows w

/-- DUP_HORIZON of a slate in nanoseconds. -/
def dupHorizon (s : State) (sl : Nat) : Nat := getF s sl F.XPORT.DUP_HORIZON * ms

/-- Whether an index may be defined: no destroy within DUP_HORIZON (R260). -/
def winAvail (s : State) (sl i : Nat) : Bool :=
  match tabGet s.availAt (winNo sl i) with | some t => decide (t ≤ now s sl) | none => true

/-- Whether W_BASE and W_PAGES place a window within R259. -/
def winPlaced (base pages : Nat) : Bool :=
  decide (1 ≤ pages) && decide (0x400000000 ≤ base * 4096) && decide (base * 4096 + pages * 4096 ≤ deviceBase)

/-- Whether a W_OP is legal (R260); 0 does nothing. -/
def winOpLegal (s : State) (sl i op : Nat) : Bool :=
  let w := windowOf s (winNo sl i)
  match op with
  | 0 => true
  | 1 => w.isNone && decide (i < 8192) && winAvail s sl i && winPlaced (getF s sl F.RMA.W_BASE) (getF s sl F.RMA.W_PAGES)
  | 2 => (match w with | some w => decide (w.since + dupHorizon s sl / 128 ≤ now s sl) | none => false)
  | _ => w.isSome

/-- The recent-operation table of a slate. -/
def rotOf (s : State) (sl : Nat) : Tab RotEntry := tabGetD s.rot sl []

/-- Store a slate's recent-operation table. -/
def putRot (s : State) (sl : Nat) (t : Tab RotEntry) : State := { s with rot := tabPut s.rot sl t }

/-- Drop a window's entries from the table of its home (R260). -/
def rotDropWindow (s : State) (w : Nat) : State :=
  putRot s (hqSlate w) ((rotOf s (hqSlate w)).filter fun p => p.2.window != w)

/-- Whether an entry is to be freed by its horizon (R266). -/
def rotDue (s : State) (sl : Nat) (e : RotEntry) : Bool := e.done.isSome && decide (e.arrival + e.horizon ≤ now s sl)

/-- Free the entries whose horizon has passed (R266). -/
def rotTrim (s : State) (sl : Nat) : State := putRot s sl ((rotOf s sl).filter fun p => !rotDue s sl p.2)

/-- Copies running on a slate. -/
def copiesOf (s : State) (sl : Nat) : Tab Copy := tabGetD s.copies sl []

/-- Operation slots in use: between commands only copies run (R263). -/
def opsUsed (s : State) (sl : Nat) : Nat := (copiesOf s sl).length

/-! ### Answers (R262) -/

/-- OP of an RMA_REQ (R261). -/
def rmaOp (d : Datagram) : Nat := d.hqTag.toNat / 256 % 16

/-- ONCE of an RMA_REQ (R261). -/
def rmaOnce (d : Datagram) : Bool := d.hqTag.getLsbD 7

/-- How many bytes follow the result header (R261). -/
def rmaResultLen (op : Nat) : Nat := match op with | 3 => 8 | 4 => 16 | 5 => 24 | 6 => 8 | _ => 0

/-- Send an RMA_RESP from the home slate (R262): a result served from the table carries DUPLICATE in its header. -/
def rmaRespond (s : State) (home : Nat) (d : Datagram) (st : Status) (result : Block) (dup : Bool) : State :=
  send s { answer home (replyTo d) tyRmaResp with
    hqTag := d.hqTag, nonce := d.nonce, offset := d.offset, status := if dup then St.duplicate else st,
    payload := beBytes 2 st.toNat ++ List.replicate 6 0 ++ result } none

/-- End an operation: its table entry, if it has one, is done, and its RMA_RESP leaves. -/
def rmaEnd (s : State) (home : Nat) (d : Datagram) (ent : Option Nat) (st : Status) (result : Block) : State :=
  let s := match ent with
    | some i => putRot s home (tabMod (rotOf s home) i fun e => { e with done := some (st, result) })
    | none => s
  rmaRespond s home d st result false

/-- End an operation that failed: its result is zero and as long as the table gives, none for a READ (R262). -/
def rmaFail (s : State) (home : Nat) (d : Datagram) (ent : Option Nat) (st : Status) : State :=
  rmaEnd s home d ent st (List.replicate (rmaResultLen (rmaOp d)) 0)

/-- An operation meets poisoned memory (R264, R283). -/
def rmaPoison (s : State) (home : Nat) (d : Datagram) (a : Nat) : State :=
  let s := consumePoison s home a 0 0
  detect s home Ev.RMA_POISON [BitVec.ofNat 64 (dgNumber d), d.offset]

/-- Read the lines of a range through a home's slate cache. -/
def homeRead (s : State) (a len : Nat) : State :=
  let first := memOff a / 64
  let lines := if len = 0 then 0 else (memOff a + len - 1) / 64 + 1 - first
  (List.range lines).foldl (fun s i => homeAccess s (memHome a) (first + i) false none none) s

/-- Whether a write of [a, a + len) covers only part of a poisoned word.
DEDUCED (log entry 87). -/
def partPoison (s : State) (a len : Nat) : Bool :=
  s.poison.any fun p => p < a + len && a < p + 8 && !(a ≤ p && p + 8 ≤ a + len)

/-! ### Unit-to-unit copy (R268 to R270) -/

/-- A copy of a slate. -/
def copyOf (s : State) (sl id : Nat) : Option Copy := tabGet (copiesOf s sl) id

/-- Store a copy. -/
def putCopy (s : State) (sl id : Nat) (c : Copy) : State := { s with copies := tabPut s.copies sl (tabPut (copiesOf s sl) id c) }

/-- The bytes from the start of the range whose chunks were all acknowledged (R270). -/
def copyDone (c : Copy) : Nat :=
  c.chunks.foldl (fun a p => if p.2.acked && p.2.off == a then a + p.2.data.length else a) 0

/-- A copy ends (R270).
DEDUCED (log entry 86). -/
def copyEnd (s : State) (sl id : Nat) (c : Copy) (st : Status) : State :=
  let n := copyDone c
  let s := { s with copies := tabPut s.copies sl (tabDel (copiesOf s sl) id) }
  let s := bump s sl F.RMA.OPS_DONE
  let s := rmaEnd s sl c.request (some c.rotIdx) st (beBytes 8 n)
  if st = St.ok then s
  else detect s sl Ev.COPY_FAIL
    [BitVec.ofNat 64 (st.toNat + c.dstUa.toNat * 2 ^ 16), BitVec.ofNat 64 n]

/-- The domain address and port of a destination window's home (R104, R311, R312), as one number. -/
def rmaDest (s : State) (sl : Nat) (c : Copy) (bay : Nat) : Nat := withPort s sl (domainIp s c.dstUa bay (hqSlate c.dstWin))

/-- Send a chunk as a COPY_WR on class 1 (R269). The destination's key is not this unit's: nothing is sealed. -/
def chunkSend (s : State) (sl : Nat) (c : Copy) (k : Chunk) : State :=
  let d : OutDatagram := { blankDgram sl 1 tyRmaReq with
    dest := rmaDest s sl c k.bay, dstUa := c.dstUa
    hqTag := BitVec.ofNat 32 (c.dstWin * 4096 + 7 * 256), nonce := k.nonce, keyId := c.dstKey
    offset := BitVec.ofNat 64 (c.dstOff + k.off), check := c.check, payload := k.data }
  admitInternal s (dgramFrame s (encapsulate s d) none)

/-- Chunks this slate first sent at the present TB (R269). -/
def chunksNow (s : State) (sl : Nat) : Nat :=
  (copiesOf s sl).foldl (fun a p => a + tabCount p.2.chunks fun k => k.first == now s sl) 0

/-- The checks a COPY_WR to this unit itself meets, in the order of R108 and R263: the status of the first that fails. -/
def localCheck (s : State) (sl : Nat) (c : Copy) (off len : Nat) : Option Status :=
  match keyOf s sl (keyIndex c.dstKey) with
  | none => some St.notServing
  | some k =>
    if k.mode ≠ 0 ∨ c.check ≠ k.check then some St.notServing
    else if c.dstKey.toNat / 256 % 256 ≠ k.gen.toNat then some St.keyStale
    else if !k.window || k.bind != c.dstWin then some St.rights
    else if !(decide (k.lo.toNat ≤ off) && decide (off + len ≤ k.hi.toNat)) then some St.bounds
    else if !k.rights.getLsbD 4 then some St.rights
    else if !servesIo s then some St.notServing
    else if !serving s (hqSlate c.dstWin) then some St.noContext
    else match windowOf s c.dstWin with
      | none => some St.noContext
      | some w =>
        if w.gen.toNat ≠ k.gen.toNat then some St.keyStale
        else if w.pages * 4096 < off + len then some St.outOfRange
        else none

/-- Write one chunk of a copy to this unit itself (R269); the status its acknowledgement carries. -/
def localChunk (s : State) (sl : Nat) (c : Copy) (k : Chunk) : State × Status :=
  let off := c.dstOff + k.off
  match localCheck s sl c off k.data.length, windowOf s c.dstWin with
  | some st, _ => (s, st)
  | none, none => (s, St.noContext)
  | none, some w =>
    let home := hqSlate c.dstWin
    let a := memAddr home (w.base + off)
    if partPoison s a k.data.length then
      let s := consumePoison s home a 0 0
      (detect s home Ev.RMA_POISON [BitVec.ofNat 64 c.dstWin, BitVec.ofNat 64 off], St.mediaUnrecovered)
    else (homeWrite s a k.data, St.ok)

/-- Issue the chunks a copy may send now (R269): up to 64 outstanding, and no more than 16 nonces in one nanosecond. A
copy to the unit itself writes each chunk at once. The copy ends when its last chunk is acknowledged.
DEDUCED (log entry 88). -/
def copyIssue : Nat → State → Nat → Nat → State
  | 0, s, _, _ => s
  | n + 1, s, sl, id =>
    match copyOf s sl id with
    | none => s
    | some c =>
      if c.len ≤ c.next then
        if c.chunks.all fun p => p.2.acked then copyEnd s sl id c St.ok else s
      else
        let own := c.dstUa == ownUa s
        let q := chunksNow s sl
        if !own && (decide (64 ≤ tabCount c.chunks fun k => !k.acked) || decide (16 ≤ q)) then s
        else match windowOf s c.window with
          | none => copyEnd s sl id c St.keyStale
          | some w =>
            let len := min (pMax s sl false false) (c.len - c.next)
            let a := memAddr sl (w.base + c.srcOff + c.next)
            let s := homeRead s a len
            if poisoned s a len then copyEnd (rmaPoison s sl c.request a) sl id c St.mediaUnrecovered
            else
              let t := now s sl
              let k : Chunk := { off := c.next, data := hbmRead s a len, nonce := BitVec.ofNat 64 (t * 16 + q),
                                 first := t, last := t, bay := 0, moved := false, acked := false }
              if own then
                let (s, st) := localChunk s sl c k
                let c' := { c with next := c.next + max 1 len,
                                   chunks := tabPut c.chunks c.chunks.length { k with acked := st == St.ok } }
                let s := putCopy s sl id c'
                if st = St.ok then copyIssue n s sl id else copyEnd s sl id c' st
              else
                let c' := { c with next := c.next + max 1 len, chunks := tabPut c.chunks c.chunks.length k }
                copyIssue n (chunkSend (putCopy s sl id c') sl c' k) sl id

/-- Let every copy of a slate send what it may. -/
def copiesIssue (s : State) (sl : Nat) : State :=
  (copiesOf s sl).foldl (fun s p => copyIssue (p.2.len + 1) s sl p.1) s

/-- Start a COPY (R268, R269). -/
def copyStart (s : State) (home : Nat) (d : Datagram) (ent : Nat) : State :=
  let b := d.payload
  let c : Copy :=
    { request := d, window := dgNumber d, rotIdx := ent, srcOff := d.offset.toNat, len := beNat (blockSlice b 12 4)
      dstUa := BitVec.ofNat 16 (beNat (blockSlice b 0 2)), dstWin := beNat (blockSlice b 4 4)
      dstKey := BitVec.ofNat 32 (beNat (blockSlice b 8 4)), dstOff := beNat (blockSlice b 16 8)
      check := BitVec.ofNat 64 (beNat (blockSlice b 24 8)), next := 0, chunks := [] }
  match tabFree (copiesOf s home) 0 256 with
  | none => s
  | some id => copyIssue (c.len + 1) (putCopy s home id c) home id

/-- Stop the copies that read from a window: each ends with KEY_STALE (R260, R270). -/
def stopCopies (s : State) (w : Nat) : State :=
  let sl := hqSlate w
  (copiesOf s sl).foldl (fun s p => if p.2.window = w then copyEnd s sl p.1 p.2 St.keyStale else s) s

/-! ### Window operations (R260) -/

/-- Reuse a window, whatever the interval (R260, R272 ROT_UNCORR). -/
def reuseWindow (s : State) (w : Nat) : State :=
  match windowOf s w with
  | none => s
  | some x =>
    let s := stopCopies s w
    let g := x.gen + 1
    let s := { s with
      windows := tabPut s.windows w { x with gen := g, since := now s (hqSlate w) }
      keys := tabMapV s.keys fun _ k => if k.window && k.bind == w then { k with gen := g } else k }
    raise (rotDropWindow s w) (hqSlate w) Ev.WIN_REUSED

/-- A legal W_OP takes effect on the window of an index (R260). -/
def winOp (s : State) (sl i op : Nat) : State :=
  let w := winNo sl i
  match op with
  | 1 =>
    let x : Window := { base := getF s sl F.RMA.W_BASE * 4096, pages := getF s sl F.RMA.W_PAGES,
                        gen := BitVec.ofNat 8 (getF s sl F.RMA.W_GEN0), since := now s sl }
    { s with windows := tabPut s.windows w x, availAt := tabDel s.availAt w }
  | 2 => reuseWindow s w
  | 3 =>
    let s := rotDropWindow (stopCopies s w) w
    { s with windows := tabDel s.windows w, availAt := tabPut s.availAt w (now s sl + dupHorizon s sl) }
  | _ => s

/-! ### RMA_REQ (R261 to R266) -/

/-- The length of the range an operation covers (R261); an undefined OP has none. -/
def rmaLen (d : Datagram) : Nat :=
  match rmaOp d with
  | 1 => beNat (blockSlice d.payload 0 4)
  | 2 => d.payload.length
  | 3 => 8
  | 4 => 8
  | 5 => 16
  | 6 => beNat (blockSlice d.payload 12 4)
  | 7 => d.payload.length
  | _ => 0

/-- The bit of the right an operation needs (R112, R261). -/
def rmaRight (op : Nat) : Option Nat :=
  match op with | 1 => some 0 | 2 => some 1 | 3 => some 2 | 4 => some 2 | 5 => some 2 | 6 => some 3 | 7 => some 4 | _ => none

/-- Whether an operation enters the recent-operation table (R265). -/
def rmaEnters (d : Datagram) : Bool :=
  let op := rmaOp d
  decide (3 ≤ op) && decide (op ≤ 7) || op == 2 && rmaOnce d

/-- Step 6 of R263: a defined OP, its payload length, alignment, and reserved bits zero. -/
def rmaForm (s : State) (d : Datagram) (home : Nat) : Bool :=
  let b := d.payload
  let op := rmaOp d
  let sealed := d.flags.getLsbD 0
  let off := d.offset.toNat
  d.hqTag.toNat % 128 == 0 && (!rmaOnce d || op == 2) &&
    match op with
    | 1 => b.length == 8 && decide (1 ≤ rmaLen d) && decide (rmaLen d + 8 ≤ pMax s home d.ipv4 sealed) &&
        beNat (blockSlice b 4 4) == 0
    | 3 => b.length == 8 && off % 8 == 0
    | 4 => b.length == 16 && off % 8 == 0
    | 5 => b.length == 32 && off % 16 == 0
    | 6 => b.length == 32 && decide (1 ≤ rmaLen d) && decide (rmaLen d ≤ 16777216) && beNat (blockSlice b 2 2) == 0 &&
        decide (beNat (blockSlice b 4 4) < 2 ^ 20) && beNat (blockSlice b 11 1) == 0
    | 2 => decide (1 ≤ b.length) && decide (b.length ≤ pMax s d.port d.ipv4 sealed)
    | 7 => decide (1 ≤ b.length) && decide (b.length ≤ pMax s d.port d.ipv4 sealed)
    | _ => false

/-- The entry of an operation in its home's table (R122, R265). -/
def rotFind (s : State) (home : Nat) (d : Datagram) : Option (Nat × RotEntry) :=
  (rotOf s home).find? fun p =>
    p.2.srcUa == d.srcUa && p.2.host == d.host && p.2.window == dgNumber d && p.2.nonce == d.nonce &&
      p.2.gen.toNat == d.keyId.toNat / 256 % 256

/-- The retry time of a full table (R110): until the earliest done entry is freed, in whole µs, and never below 10. -/
def rotRetry (s : State) (home : Nat) : Nat :=
  let l := (tabVals (rotOf s home)).filter fun e => e.done.isSome
  match l.map fun e => ceilDiv (e.arrival + e.horizon - now s home) us with
  | [] => 10
  | x :: r => max 10 (r.foldl min x)

/-- The write of a WRITE or COPY_WR (R264). -/
def rmaWriteAt (s : State) (home : Nat) (d : Datagram) (ent : Option Nat) (a : Nat) : State :=
  if partPoison s a d.payload.length then rmaFail (rmaPoison s home d a) home d ent St.mediaUnrecovered
  else rmaEnd (homeWrite s a d.payload) home d ent St.ok []

/-- An atomic of `n` bytes at the home's atomic unit (R264, R43): the operand and memory as numbers, `f` the new value if
it writes. -/
def rmaAtomic (s : State) (home : Nat) (d : Datagram) (ent : Option Nat) (a n : Nat) (cas : Bool)
    (f : Nat → Option Nat) : State :=
  let s := atomicAccess (granted s (ptrAtomic home) home 8) a
  if poisoned s a n then rmaFail (rmaPoison s home d a) home d ent St.mediaUnrecovered
  else
    let old := leNat (hbmRead s a n)
    let (s, wrote) := match f old with
      | some v => (hbmWrite s a (leBytes n v), 1)
      | none => (s, 0)
    rmaEnd s home d ent St.ok (beBytes n old ++ if cas then beBytes 8 wrote else [])

/-- Step 8 of R263: the operation executes at its MEM address. -/
def rmaRun (s : State) (home : Nat) (d : Datagram) (ent : Option Nat) (w : Window) : State :=
  let a := memAddr home (w.base + d.offset.toNat)
  let b := d.payload
  let arg (i n : Nat) : Nat := beNat (blockSlice b i n)
  let cas (n : Nat) (old : Nat) : Option Nat := if old = arg 0 n then some (arg n n) else none
  match rmaOp d with
  | 6 => match ent with
    | some i => copyStart s home d i
    | none => s
  | op =>
    let s := bump s home F.RMA.OPS_DONE
    match op with
    | 1 =>
      let s := homeRead s a (rmaLen d)
      if poisoned s a (rmaLen d) then rmaFail (rmaPoison s home d a) home d ent St.mediaUnrecovered
      else rmaEnd s home d ent St.ok (hbmRead s a (rmaLen d))
    | 3 => rmaAtomic s home d ent a 8 false fun old => some (old + arg 0 8)
    | 4 => rmaAtomic s home d ent a 8 true (cas 8)
    | 5 => rmaAtomic s home d ent a 16 true (cas 16)
    | _ => rmaWriteAt s home d ent a

/-- Steps 3 to 8 of R263, in a window under its own generation. -/
def rmaAdmitted (s : State) (home : Nat) (d : Datagram) (w : Window) : State :=
  let s := rotTrim s home
  match rotFind s home d with
  | some (_, e) =>
    match e.done with
    | none => s
    | some (st, r) => rmaRespond (bump s home F.RMA.DUP_RESENT) home d st r true
  | none =>
    let full := decide (32768 ≤ (rotOf s home).length)
    if 32768 ≤ opsUsed s home then sendBusy (bump s home F.RMA.BUSY_SENT) home d St.busyRetry 10
    else if rmaEnters d && full then
      let s := detect (bump s home F.RMA.BUSY_SENT) home Ev.ROT_FULL []
      sendBusy s home d St.busyRetry (rotRetry s home)
    else if rmaOp d == 6 && decide (256 ≤ (copiesOf s home).length) then sendBusy s home d St.busyRetry 10
    else
      let i := (tabFree (rotOf s home) 0 32768).getD 0
      let e : RotEntry :=
        { srcUa := d.srcUa, host := d.host, window := dgNumber d, nonce := d.nonce
          gen := BitVec.ofNat 8 (d.keyId.toNat / 256), done := none, arrival := now s home, horizon := dupHorizon s home }
      let s := if rmaEnters d then putRot s home (tabPut (rotOf s home) i e) else s
      let ent := if rmaEnters d then some i else none
      if !rmaForm s d home then rmaFail s home d ent St.illegalField
      else if w.pages * 4096 < d.offset.toNat + rmaLen d then rmaFail s home d ent St.outOfRange
      else rmaRun s home d ent w

/-- An RMA_REQ that has passed R108 at its window's home slate (R263). -/
def rmaHome (s : State) (d : Datagram) : State :=
  let w := dgNumber d
  let home := hqSlate w
  if !serving s home then sendBusy s d.port d St.noContext 0
  else match windowOf s w with
    | none => sendBusy (bump s home F.RMA.BUSY_SENT) home d St.noContext 0
    | some x =>
      if d.keyId.toNat / 256 % 256 ≠ x.gen.toNat then sendBusy (bump s home F.RMA.STALE) home d St.keyStale 0
      else rmaAdmitted s home d x

/-- An RMA_REQ at its ingress port (R108). -/
def rmaRequest (d : Datagram) (s : State) : State :=
  let c : Check :=
    { window := true, host := none, always := false, busy := true
      form := headerOk s d tyRmaReq false false && d.slot == 0
      bound := fun d k => decide (k.lo.toNat ≤ d.offset.toNat) && decide (d.offset.toNat + rmaLen d ≤ k.hi.toNat)
      right := fun d k => k.mode != 1 && match rmaRight (rmaOp d) with | some b => k.rights.getLsbD b | none => true }
  ingress s d c fun s d _ => rmaHome s d

/-- RMA_READ (R261, OP 1).
DEDUCED (log entry 46). -/
def execRmaRead (d : Datagram) (s : State) : Out := onSlate d.port s (rmaRequest d)
/-- RMA_WRITE (R261, OP 2). -/
def execRmaWrite (d : Datagram) (s : State) : Out := onSlate d.port s (rmaRequest d)
/-- RMA_AADD (R261, OP 3). -/
def execRmaAadd (d : Datagram) (s : State) : Out := onSlate d.port s (rmaRequest d)
/-- RMA_ACAS (R261, OP 4). -/
def execRmaAcas (d : Datagram) (s : State) : Out := onSlate d.port s (rmaRequest d)
/-- RMA_ACAS128 (R261, OP 5). -/
def execRmaAcas128 (d : Datagram) (s : State) : Out := onSlate d.port s (rmaRequest d)
/-- RMA_COPY (R261, OP 6; R268 to R270). -/
def execRmaCopy (d : Datagram) (s : State) : Out := onSlate d.port s (rmaRequest d)
/-- RMA_COPY_WR (R261, OP 7). -/
def execRmaCopyWr (d : Datagram) (s : State) : Out := onSlate d.port s (rmaRequest d)

/-! ### Chunks and expiries -/

/-- Act on an unacknowledged chunk of a running copy. -/
def withChunk (s : State) (sl copy chunk : Nat) (f : Copy → Chunk → State) : State :=
  match copyOf s sl copy with
  | none => s
  | some c => match tabGet c.chunks chunk with
    | none => s
    | some k => if k.acked then s else f c k

/-- COPY_CHUNK_ANSWER (R269, R270, R312): OK acknowledges the chunk; NOT_SERVING from the first bay tries the other; any
other status ends the copy with it. -/
def execCopyChunkAnswer (slate copy chunk : Nat) (status : Status) (s : State) : Out :=
  onSlate slate s fun s => withChunk s slate copy chunk fun c k =>
    if status = St.ok then
      let s := putCopy s slate copy { c with chunks := tabPut c.chunks chunk { k with acked := true } }
      copyIssue (c.len + 1) s slate copy
    else if status = St.notServing ∧ k.moved = false then
      let k := { k with bay := 1 - k.bay, moved := true, last := now s slate }
      chunkSend (putCopy s slate copy { c with chunks := tabPut c.chunks chunk k }) slate c k
    else copyEnd s slate copy c status

/-- COPY_CHUNK_RESEND (R269): every 1 ms until its answer comes, for no more than 400 ms. -/
def execCopyChunkResend (slate copy chunk : Nat) (s : State) : Out :=
  onSlate slate s fun s => withChunk s slate copy chunk fun c k =>
    let t := now s slate
    if k.last + ms ≤ t ∧ t < k.first + 400 * ms then
      let k := { k with last := t }
      chunkSend (putCopy s slate copy { c with chunks := tabPut c.chunks chunk k }) slate c k
    else s

/-- COPY_CHUNK_TIMEOUT (R270): no answer after 400 ms. -/
def execCopyChunkTimeout (slate copy chunk : Nat) (s : State) : Out :=
  onSlate slate s fun s => withChunk s slate copy chunk fun c k =>
    if k.first + 400 * ms ≤ now s slate then copyEnd s slate copy c St.notServing else s

/-- ROT_HORIZON_EXPIRY (R266): a done entry is freed once DUP_HORIZON has passed since its operation's first arrival. -/
def execRotHorizonExpiry (slate entry : Nat) (s : State) : Out :=
  onSlate slate s fun s => match tabGet (rotOf s slate) entry with
    | some e => if rotDue s slate e then putRot s slate (tabDel (rotOf s slate) entry) else s
    | none => s

/-- WINDOW_AVAIL_EXPIRY (R260): W_AVAIL is 1 again once DUP_HORIZON has passed since the destroy. -/
def execWindowAvailExpiry (slate index : Nat) (s : State) : Out :=
  onSlate slate s fun s => match tabGet s.availAt (winNo slate index) with
    | some t => if t ≤ now s slate then { s with availAt := tabDel s.availAt (winNo slate index) } else s
    | none => s

end Sys2Proof.Machine
end

