-- ==== Sys2Proof/Machine/Restart.lean ====
section
/-! DEFINITION. What a reset leaves: the state after a power cycle or a unit restart, up to recovery step 2 (R6, R200 steps 1
and 2, R291). -/

namespace Sys2Proof.Machine

/-! ### What survives (R6, R185, R186, R200) -/

/-- A member after a reset: the drive is attached as before, nothing is outstanding, and its port starts again. A power
cycle takes its link down and asserts PERST (R371). -/
def memberReset (power : Bool) (x : Member) : Member :=
  { x with
    link := x.link && !power
    speed := if power then 0 else x.speed
    width := if power then 0 else x.width
    mstate := if x.present then 1 else 0
    goneAt := none
    cmds := []
    resetAt := none
    perst := x.perst || power
    lowPower := false }

/-- A course after a reset: what its records and strips say; the tundish is empty (R199). -/
def courseReset (c : Course) : Course :=
  { c with
    grains := c.grains.map fun g => { g with data := [] }
    holdJobs := [], stalled := false, rebuilding := false, moved := false
    spareSeq := if c.st = .durable || c.st = .retired then [] else c.spareSeq }

/-- The slates lost in the session that a reset ends, with 8 where the partner had left the holder sets; a session that never
served adds to those of the one before (R201). -/
def lostIn (s : State) : List Nat :=
  ((if s.recovery < 8 then s.lastLost else []) ++ tabKeys s.lost ++ if s.lease.needExcl.isEmpty then [] else [8]).eraseDups

/-- The program versions that a manifest names, in its table or in a record (R200). -/
def namedProgs (s : State) : List Nat :=
  tabVals s.durable.manifests ++ s.owners.flatMap fun o => o.2.recs.filterMap fun r => match r.body with
    | .table (.manifest _ p) => p
    | _ => none

/-- The lease block after a reset. -/
def leaseAfter (s : State) (power : Bool) : Lease :=
  { State.leaseReset with
    bay := s.lease.bay
    epoch := s.durable.epoch
    clash := s.lease.clash && !power
    released := s.lease.released && !power
    lapsed := s.lease.lapsed && !power }

/-- Fuses, journalled and boot-time facts of the secure block after a unit restart; a power cycle boots afresh. -/
def secureAfter (s : State) : Secure := { s.secure with op := none, status := 0, len := 0, bootstrap := false }

/-- The supply and sequencer after a reset: the counters of SUPPLY start again. -/
def modAfter (s : State) : Module :=
  { s.mod with vinA := 0, vinB := 0, iin := 0, pin := 0, pinMax := 0, feed := 0, feedChg := 0 }

/-- The entries a unit restart leaves as they are: LEASE:0x006 (R291), and FPIN:0x001, the class 4 latch (R322). -/
def keptEntries (s : State) : Tab Word := s.ctl.filter fun p => p.1 == ctlKey 0 0x0D 6 || p.1 == ctlKey 0 0x0E 1

/-- The STAT bits of the class 4 detectors, TUNDISH_FATAL and JOURNAL_LOST, hold to the next power cycle (R85). -/
def keepStat (old s : State) (sl : Nat) : State :=
  [(0x09, 0x2), (0x0A, 0x20)].foldl (fun s p =>
    setF (setF s sl (F.STAT_REAL p.1) (getF old sl (F.STAT_REAL p.1) &&& p.2)) sl (F.STAT_INJ p.1)
      (getF old sl (F.STAT_INJ p.1) &&& p.2)) s

/-- Apply a slate's recorded way masks (R282). -/
def applyWays (s : State) (sl : Nat) : State :=
  let s := setF s sl F.MEM.SC_WAY_DIS (tabGetD s.durable.ways (64 * sl) 0)
  (List.range 48).foldl (fun s e =>
    match tabGet s.durable.ways (64 * sl + 1 + e) with
    | none => s
    | some m => setF (setF s sl (F.MEM.DC_WAY_DIS e) m) sl (F.MEM.IC_WAY_DIS e) (m / 256)) s

/-- The state after a reset and before recovery step 2: flash, MRAM, fuses and attached drives as they were; every block
at its Reset column. `power` says that power was lost. -/
def afterReset (s : State) (power : Bool) : State :=
  { State.reset with
    n := s.n
    tb := if power then [] else s.tb
    tbStepped := s.tbStepped && !power
    wayErrs := if power then [] else s.wayErrs
    ctl := if power then [] else keptEntries s
    lost := if power then [] else s.lost
    lastLost := lostIn s
    progs := s.progs.filter fun p => (namedProgs s).contains p.1
    nextProg := s.nextProg
    slots := s.durable.manifests
    wire := s.wire
    layout := s.layout
    volumes := s.volumes
    map := s.map
    leaves := tabMapV s.leaves fun _ x => { x with cached := false, pending := [], writing := none }
    courses := tabMapV s.courses fun _ c => courseReset c
    lastOrd := s.lastOrd
    flashDir := s.flashDir
    media := s.media
    owners := tabMapV s.owners fun _ w => { w with waiting := [] }
    standin := s.standin
    standin2 := s.standin2
    qtabGone := s.qtabGone
    ucn := s.ucn
    ucnDone := s.ucnDone
    durable := s.durable
    members := tabMapV s.members fun _ x => memberReset power x
    nextCmd := s.nextCmd
    spare := s.spare
    spareWp := s.spareWp
    resetTb := if power then 0 else now s 0
    nextJob := s.nextJob
    nextBuf := s.nextBuf
    nextFrame := s.nextFrame
    ready := { State.reset.ready with bootId := if power then 0 else freeVal s }
    lease := leaseAfter s power
    chain := { State.chainReset with sentUp := s.chain.sentUp, sentDn := s.chain.sentDn }
    secure := secureAfter s
    nextRead := s.nextRead
    admin := s.durable.admin
    mod := modAfter s
    fresh := s.fresh + 1
    pending := s.pending }

/-- Start the housekeeping threads whose HK_EN is 1 (R37). -/
def hkBoot (s : State) : State :=
  forSlates (servingSlates s) (fun s sl =>
    (List.range 8).foldl (fun s n => if isF s sl (F.ENGINE.HK_EN n) then hkStart s sl n else s) s) s

/-- Change the chain block. -/
def modChain (s : State) (f : Chain → Chain) : State := { s with chain := f s.chain }

/-- The unit address of a chain number and position: 0xFFC0 plus the position while the number is 0x3FF (R301, R310). -/
def uaOf (chain : Nat) (pos : Option Nat) : BitVec 16 :=
  match pos with
  | some p => BitVec.ofNat 16 (chain * 64 + p)
  | none => 0

/-- The recorded chain number and position come into force (R308): the previous number is kept as PREV. -/
def applyAddress (s : State) : State :=
  let d := s.durable
  modChain s fun c => { c with
    prev := if c.chain = d.chain then c.prev else c.chain
    chainNew := if c.chainNew = some d.chain then none else c.chainNew
    chain := d.chain, pos := d.pos, posChain := d.chain, ua := uaOf d.chain d.pos, uaValid := d.pos.isSome }

/-- An owner that has never had a holder set takes the first three live holders of R191. -/
def firstHolders (s : State) (o : Nat) : State :=
  if (ownerOf s o).holders ≠ [] then s
  else
    let hs := selectHolders s o
    let s := takeAreas s o hs
    let s := { putOwner s o { ownerOf s o with holders := hs } with
      durable := { s.durable with holders := tabPut s.durable.holders o hs } }
    if hs.length < 3 then detect s o Ev.HOLDERS_SHORT [] else s

/-- The bootstrap key (R354): the check value CLAIM_CHECK, mode KEY, RIGHTS 0x1, slots 0x000 to 0x0FF, bound to queue
0x1_FFFF of slate 0. -/
def bootKey : KeyEntry :=
  { mode := 0, window := false, persist := false, gen := 0, bind := bootQueue, rights := 1, lo := 0, hi := 0xFF,
    check := Config.claimCheck, aes := [], salt := 0 }

/-- Step 2 creates the bootstrap key on every slate and its queue on slate 0, where no persistent command key has the ADMIN
right and key index 0xFFFF and the queue are free (R354). -/
def makeBootstrap (s : State) : State :=
  if s.secure.stage == .scrapped || (tabVals s.durable.keys).any adminKey || tabHas s.durable.keys 0xFFFF ||
      tabHas s.durable.queues bootQueue then s
  else
    { addQueue s bootQueue 0 0xFFFF false false with
      keys := (List.range s.n).foldl (fun t x => tabPut t (keyKey x 0xFFFF) bootKey) s.keys
      secure := { s.secure with bootstrap := true } }

/-- Step 2 first (R200): every confirmed TABLE record is written in place again, and the manifests are restored. -/
def restoreTables (s : State) : State :=
  let s := (List.range s.n).foldl applyTables s
  { s with slots := s.durable.manifests }

/-- Recovery step 2 then (R200): the way masks, the recorded address (R308), the bootstrap key, the housekeeping programs; class 7
is served. -/
def recoverStep2 (s : State) : State :=
  let s := forSlates (servingSlates s) (fun s sl => firstHolders (applyWays s sl) sl) s
  hkBoot { makeBootstrap (applyAddress s) with recovery := 2 }

/-- A unit restart (R291). -/
def unitRestart (s : State) : State :=
  recoverStep2 (restoreTables (forSlates (List.range s.n) (keepStat s) (afterReset s false)))

end Sys2Proof.Machine
end

