-- ==== Sys2Proof/Machine/Ports.lean ====
section
/-! DEFINITION. READY, the start-up pause, sub-port links and PTP (R126, R127, R129, R130). -/

namespace Sys2Proof.Machine

/-! ### READY (R127) -/

/-- The READY payload (R127). -/
def readyPayload (s : State) (tb : Nat) : Block :=
  beBytes 8 s.ready.bootId.toNat ++ beBytes 8 tb ++ beBytes 1 (servingSlates s).length ++ beBytes 1 s.n ++
    beBytes 2 (getF s 0 F.UNIT.STEPPING) ++ beBytes 4 (s.lease.epoch % 2 ^ 32) ++ beBytes 8 0

/-- An IPv6 or IPv4 group address with the BIRL port, as one number (R104, R127). -/
def groupDest (s : State) (sl : Nat) (ipv4 : Bool) : Nat :=
  withPort s sl (if ipv4 then getF s sl F.XPORT.GRP4 else getF s sl F.XPORT.GRP6_HI * 2 ^ 64 + getF s sl F.XPORT.GRP6_LO)

/-- Send the READY in force from one port whose link is up: to the groups, to the senders noted, and to the enabled event
destinations under their queues' keys (R127). -/
def readyFrom (s : State) (sl : Nat) : State :=
  if getF s sl F.PORT.LINK_UP = 0 then s
  else
    let base := { blankDgram sl 7 tyReady with payload := s.ready.payload }
    let mc := isF s sl F.XPORT.READY_MC
    let s := if mc then send s { base with dest := groupDest s sl false } none else s
    let s := if mc && isF s sl F.PORT.IPV4_EN then send s { base with ipv4 := true, dest := groupDest s sl true } none else s
    let s := (s.ready.sources.filter fun x => x.1 == sl).foldl (fun s x =>
      send s { base with ipv4 := x.2.2, dest := x.2.1 } none) s
    (List.range 16).foldl (fun s i =>
      if !isF s sl (F.XPORT.EV_EN i) then s
      else match tabGet s.queues (getF s sl (F.XPORT.EV_HQ i)) with
        | none => s
        | some q => match q.ret with
          | none => s
          | some a =>
            let k := keyOf s sl q.key
            let seals := match k with | some k => keySeals k | none => false
            send s { base with
              ipv4 := a.ipv4, dest := a.source, host := q.host
              keyId := if seals then keyIdOf q.key (match k with | some k => k.gen.toNat | none => 0) else 0 } none) s

/-- Send one READY from every serving slate's port. -/
def readyAll (s : State) : State := forSlates (servingSlates s) readyFrom s

/-- Start a READY: the first of the boot fixes the TB that every later one carries; it repeats READY_REPEAT times
(R127, R308). -/
def startReady (s : State) : State :=
  let t := now s 0
  let tb := match s.ready.sentTb with | some x => x.toNat | none => t
  let s := { s with ready := { s.ready with
    sentTb := some (BitVec.ofNat 64 tb), left := getF s 0 F.XPORT.READY_REPEAT, lastTb := t
    payload := readyPayload s tb } }
  readyAll s

/-- The unit sends READY once replay, the member quorum and the lease are complete, and releases the start-up pause on
every port in the same cycle (R126). -/
def tryReady (s : State) : State :=
  if s.ready.sentTb.isNone && decide (8 ≤ s.recovery) && s.quorum && s.lease.role == 1 && s.chain.chain != 0x3FF &&
      !isF s 0 F.FPIN.C4 then
    startReady { s with pauseBoot := [] }
  else s

/-- READY_REPEAT (R127): at 1 s intervals. -/
def execReadyRepeat (s : State) : Out :=
  onUnit s fun s =>
    if 0 < s.ready.left ∧ s.ready.lastTb + 1000 * ms ≤ now s 0 then
      readyAll { s with ready := { s.ready with left := s.ready.left - 1, lastTb := now s 0 } }
    else s

/-! ### Start-up pause (R126) -/

/-- The start-up pause of classes 3, 2 and 1. -/
def bootClasses : Nat := 0xE

/-- The classes a port is pausing: at start-up, for the park queues and for the buffer, where PFC is enabled (R126, R130,
R137, R234). -/
def pausing (s : State) (sl : Nat) : Nat :=
  let park := s.pausePark.foldl (fun a p => if p.1 % 8 = sl then a ||| p.2 else a) 0
  (tabGetD s.pauseBoot sl 0 ||| park ||| tabGetD s.pauseBuf sl 0) &&& getF s sl F.PORT.PFC_EN

/-- A port sends a pause frame with PAUSE_QUANTA for the classes it pauses (R126, R130). -/
def sendPause (s : State) (sl : Nat) : State :=
  let f : PauseFrame := { tb := now s sl, classes := pausing s sl, quanta := getF s sl F.PORT.PAUSE_QUANTA }
  { s with pauseAt := tabPut s.pauseAt sl f }

/-- PORT_TRAINED (R126, R130): the sub-port has link. Until READY or PAUSE_MAX, and while the unit has a chain number, the
port pauses classes 3, 2 and 1. -/
def execPortTrained (slate sub : Nat) (s : State) : Out :=
  onSlate slate s fun s =>
    if !isF s slate F.PORT.ADMIN_UP || decide (2 ^ getF s slate F.PORT.BREAKOUT ≤ sub) ||
        bitOf (getF s slate F.PORT.LINK_UP) sub then s
    else
      let s := setF s slate F.PORT.LINK_UP (getF s slate F.PORT.LINK_UP + 2 ^ sub)
      let s := match s.ready.trained with
        | some _ => s
        | none => { s with ready := { s.ready with trained := some (now s 0) } }
      let s := if s.ready.sentTb.isNone && !s.ready.timedOut && s.chain.chain != 0x3FF then
          sendPause { s with pauseBoot := tabPut s.pauseBoot slate bootClasses } slate
        else s
      raise s slate Ev.LINK_UP

/-- PAUSE_TIMEOUT (R126): PAUSE_MAX after the first port trained without READY; every port releases its pause. PAUSE_MAX is
slate 0's. DESIGN CHOICE (log entry 126). -/
def execPauseTimeout (s : State) : Out :=
  onUnit s fun s => match s.ready.trained with
    | none => s
    | some t =>
      if s.ready.sentTb.isNone && !s.ready.timedOut && decide (t + getF s 0 F.XPORT.PAUSE_MAX * 100 * ms ≤ now s 0) then
        detect { s with pauseBoot := [], ready := { s.ready with timedOut := true } } 0 Ev.PAUSE_TIMEOUT []
      else s

/-- PAUSE_REFRESH (R126): the pause in force is sent again, for another PAUSE_QUANTA, before the quanta of the last one expire. -/
def execPauseRefresh (slate : Nat) (s : State) : Out :=
  onSlate slate s fun s =>
    if pausing s slate = 0 then s else sendPause s slate

/-- PFC_PAUSE_RX (R126): the link partner pauses a class, or ends its pause; honoured on enabled classes. -/
def execPfcPauseRx (slate cls : Nat) (on : Bool) (s : State) : Out :=
  onSlate slate s fun s =>
    let k := slate * 8 + cls
    if !on then { s with peerPause := tabDel s.peerPause k }
    else if !bitOf (getF s slate F.PORT.PFC_EN) cls || tabHas s.peerPause k then s
    else { s with peerPause := tabPut s.peerPause k { since := now s slate, raised := false } }

/-! ### Loss of a sub-port (R130, R235, R324) -/

/-- Discard every frame queued at a network sub-port that satisfies a test, counting unicast frames in `cnt` and multicast
copies in MC_DISCARDS (R235, R237). -/
def flushNet (s : State) (sl sub : Nat) (cnt : Fld) (p : Frame → Bool) : State :=
  (keysWhere s.frames fun f => f.slate == sl && f.outs.contains (0, sub) && !f.waiting && !f.stalled && p f).foldl
    (fun s id => match tabGet s.frames id with
      | none => s
      | some f =>
        let s := unqueue s sl 0 sub f.cls id
        let s := bump s sl (if f.mask ≠ 0 then F.SWITCH.MC_DISCARDS else cnt)
        dropCopy (settleCopy s f.group sl false) id (0, sub)) s

/-- A sub-port loses link: LINK_DOWN, its reset shadow, and the frames queued to it (R130, R235, R324). -/
def subDown (s : State) (sl sub : Nat) : State :=
  let up := getF s sl F.PORT.LINK_UP
  if !bitOf up sub then s
  else
    let s := setF s sl F.PORT.LINK_UP (up - 2 ^ sub)
    let s := openShadow s (.network sub) sl 20
    let s := if up = 2 ^ sub then { s with peerPause := s.peerPause.filter fun p => p.1 / 8 != sl } else s
    detect (flushNet s sl sub F.SWITCH.LINKDOWN_DROPS fun _ => true) sl Ev.LINK_DOWN []

/-- LINK_DOWN. -/
def execLinkDown (slate sub : Nat) (s : State) : Out := onSlate slate s fun s => subDown s slate sub

/-- Take a slate's whole network port down (R130, R320 step 1). -/
def portDown (s : State) (sl : Nat) : State := (List.range 8).foldl (fun s k => subDown s sl k) s

/-! ### PTP (R14, R129) -/

/-- The slate whose port is the time receiver: a serving slate whose PTP_RX is 1 (R129). -/
def ptpSlate (s : State) : Option Nat := (servingSlates s).find? fun sl => isF s sl F.PORT.PTP_RX

/-- A signed 32-bit value, saturating. -/
def sat32 (x : Int) : Nat := ((max (-2 ^ 31) (min (2 ^ 31 - 1) x)) % 2 ^ 32).toNat

/-- Whether a Sync is one the time receiver follows (R129): in its domain, by its transport, and from the best time transmitter
announced on its port. -/
def ptpFollows (s : State) (sl : Nat) (x : PtpMessage) : Bool :=
  ptpSlate s == some sl && getF s sl F.PORT.PTP_DOMAIN == x.domain && getF s sl F.PORT.PTP_TRANSPORT == x.transport && x.best

/-- PTP_SYNC (R14, R129): a Sync, with its Follow_Up where the transmitter is two-step, gives the time receiver the PTP time of
this instant, the path delay of DELAY_MECH's mechanism taken off. The first lock steps every TB forward to it once; from then on TB
only slews.
DEDUCED (log entry 50). -/
def execPtpSync (slate : Nat) (sync : PtpMessage) (s : State) : Out :=
  onSlate slate s fun s =>
    if ptpFollows s slate sync = false then s
    else
      let t := now s slate
      let off : Int := (t : Int) - (sync.time.toNat : Int)
      let locked := isF s slate F.PORT.LOCKED
      let s := setF s slate F.PORT.OFFSET (sat32 off)
      let s := setF s slate F.PORT.LOCKED 1
      let s := if !s.tbStepped then
          let d := sync.time.toNat - t
          let s := { s with tbStepped := true, slew := if off < 0 then 0 else -off
                            tb := (List.range s.n).foldl (fun tb x => tabPut tb x (BitVec.ofNat 64 (now s x + d))) s.tb }
          setF s slate F.PORT.STEPPED 1
        else
          let s := { s with slew := -off }
          if getF s slate F.PORT.OFFSET_LIMIT < off.natAbs then detect s slate Ev.PTP_OFFSET [] else s
      let s := { s with ptpSync := some (now s slate) }
      if locked then s else raise s slate Ev.PTP_LOCK

/-- TB holds over on the reference (R129). -/
def holdOver (s : State) (sl : Nat) : State :=
  setF { s with slew := 0, slewPhase := 0, ptpSync := none } sl F.PORT.LOCKED 0

/-- PTP_LOSS (R129): no Sync for 3 s; TB holds over on the reference. -/
def execPtpLoss (s : State) : Out :=
  onUnit s fun s => match ptpSlate s, s.ptpSync with
    | some sl, some t =>
      if isF s sl F.PORT.LOCKED && decide (t + 3000 * ms ≤ now s sl) then
        detect (holdOver s sl) sl Ev.PTP_LOSS []
      else s
    | _, _ => s

end Sys2Proof.Machine
end

