-- ==== Sys2Proof/Machine/ChainFrames.lean ====
section
/-! DEFINITION. Batten-chain frames sent, the unit address, and the change of address (R302 to R310). -/

namespace Sys2Proof.Machine

/-- Whether this module is head of its segment: its UP port sees no partner (R304). -/
def chainHead (s : State) : Bool := !s.chain.bypass && s.chain.upMac.isNone

/-! ### Frames as bytes (R301, R303) -/

/-- One bit of FCS-16, least significant bit first. PRESUMED (log entry 133). -/
def fcsStep (c : Nat) : Nat := if c % 2 = 1 then c / 2 ^^^ 0x8408 else c / 2

/-- The frame check sequence FCS-16 of a frame's bytes (R301). -/
def fcs16 (b : Block) : Nat :=
  (b.foldl (fun c x => (List.range 8).foldl (fun c _ => fcsStep c) (c ^^^ x.toNat)) 0xFFFF) ^^^ 0xFFFF

/-- SAME_SHELF and SHELF_POS as they stand in CENSUS and ASSIGN. -/
def shelfBytes (same : Bool) (p : ShelfPos) : Block :=
  [BitVec.ofNat 8 same.toNat, BitVec.ofNat 8 (p.pos.toNat + p.valid.toNat * 64)]

/-- TYPE, ENUM and body of a frame, in network byte order (R303). -/
def chainBody : ChainFrame → Block
  | .hello h => 1 :: beBytes 2 h.enum.toNat ++ [BitVec.ofNat 8 h.bay, BitVec.ofNat 8 (h.hasPos.toNat + h.head.toNat * 2)] ++
      beBytes 2 h.ua.toNat ++ beBytes 6 h.mac
  | .census c => 2 :: beBytes 2 c.enum.toNat ++ beBytes 2 c.chain.toNat ++ beBytes 2 c.prev.toNat ++ beBytes 8 c.claim.toNat ++
      beBytes 1 c.shelves ++ shelfBytes c.sameShelf c.shelfPos
  | .tally t => 3 :: beBytes 2 t.enum.toNat ++ beBytes 2 t.chain.toNat ++ beBytes 8 t.claim.toNat ++ beBytes 1 t.shelves
  | .assign a => 4 :: beBytes 2 a.enum.toNat ++ beBytes 2 a.chain.toNat ++ beBytes 8 a.taken.toNat ++ shelfBytes a.sameShelf a.shelfPos
  | .change => [5, 0, 0]

/-- A frame as its port sends it, before HDLC's flags and zero-bit insertion (R301). -/
def chainBytes (f : ChainFrame) : Block := chainBody f ++ leBytes 2 (fcs16 (chainBody f))

/-! ### Sending -/

/-- The form of a meaning for a frame that arrives on the UP port (`up`) or on DN: while the bypass joins the ports, also of a module
without power or in reset, the frame leaves by the other port unchanged (R302). -/
def onChain (up : Bool) (f : ChainFrame) (s : State) (act : State → State) : Out :=
  if s.chain.bypass then
    .next (modChain s fun c => if up then { c with sentDn := c.sentDn ++ [f] } else { c with sentUp := c.sentUp ++ [f] })
  else onUnit s act

/-- Send a frame upstream, if UP sees a partner. -/
def sendUp (s : State) (f : ChainFrame) : State :=
  if s.chain.upMac.isSome then modChain s fun c => { c with sentUp := c.sentUp ++ [f] } else s

/-- Send a frame downstream, if DN sees a partner. -/
def sendDn (s : State) (f : ChainFrame) : State :=
  if s.chain.dnMac.isSome then modChain s fun c => { c with sentDn := c.sentDn ++ [f] } else s

/-- Send CHANGE towards the head; at the head itself an enumeration falls due (R304). -/
def chainChange (s : State) : State :=
  if s.chain.bypass then s
  else if chainHead s then modChain s fun c => { c with enumDue := true }
  else sendUp s .change

/-- A new record of the address is confirmed (R308): UA_CHANGED, and READY again if it has been sent. -/
def changeAddress (s : State) : State :=
  if s.chain.chain = s.durable.chain ∧ s.chain.pos = s.durable.pos then s
  else
    let old := s.chain
    let s := applyAddress s
    if s.chain.uaValid && (s.chain.ua != old.ua || !old.uaValid) then
      let s := raise s 0 Ev.UA_CHANGED
      if s.ready.sentTb.isSome then startReady s else s
    else s

end Sys2Proof.Machine
end

