-- ==== Sys2Proof/Machine/Lease.lean ====
section
/-! DEFINITION. The partner link, the control lease and its witnesses (R286 to R300). -/

namespace Sys2Proof.Machine

/-! ### Keys and witnesses (R288, R289) -/

/-- Change the lease block. -/
def modLease (s : State) (f : Lease → Lease) : State := { s with lease := f s.lease }

/-- This module's reservation key with the given LEASE, EXCL and RENEW (R289). -/
def ownKey (s : State) (lease excl : Bool) (renew : Nat) : ResvKey :=
  { epoch := s.lease.epoch, bay := s.lease.bay, lease := lease, excl := excl, renew := renew % 8192 }

/-- The witnesses of a mask. -/
def witnesses (mask : Nat) : List Nat := bitList mask 48

/-- Whether more than half of a witness set is in a list. -/
def majority (mask : Nat) (l : List Nat) : Bool :=
  let w := witnesses mask
  decide (w.length < 2 * (w.filter l.contains).length)

/-- Put this module's key on members. -/
def registerOn (s : State) (ms : List Nat) (k : Option ResvKey) : State :=
  ms.foldl (fun s m => putMember s m { memberOf s m with resv := k }) s

/-- The order in which FORMAT picks witnesses: member 6 (k mod n) + k / n (R288). -/
def witnessOrder (n : Nat) : List Nat := (List.range (6 * n)).map fun k => 6 * (k % n) + k / n

/-- Whether a witness mask is legal (R288). -/
def witnessMaskOk (s : State) (mask : Nat) : Bool :=
  let w := witnesses mask
  decide (mask < 2 ^ 48) && (w.length == 3 || w.length == 5 || w.length == 7) && w.all (inService s)

/-- HK_LEASE replaces a witness declared gone, while W_AUTO is 1, by the next member in FORMAT order that is no witness
(R288). -/
def witnessAuto (s : State) : State :=
  let w := witnesses s.durable.wMask
  match w.find? fun m => !inService s m with
  | none => s
  | some m =>
    if s.lease.role ≠ 1 || s.lease.wPend.isSome || !isF s 0 F.LEASE.W_AUTO then s
    else match (witnessOrder s.n).find? fun x => inService s x && !w.contains x with
      | none => s
      | some x => modLease s fun l => { l with wPend := some (maskOf (x :: w.filter (· != m))) }

/-! ### Stopping (R291, R292) -/

/-- The active stops serving and restarts; LAPSES counts it (R291).
DEDUCED (log entry 92). -/
def lapse (s : State) : State :=
  let s := bump s 0 F.LEASE.LAPSES
  unitRestart (modLease s fun l => { l with lapsed := true })

/-- Unregister on every member and show RELEASE in the heartbeats (R292). -/
def unregister (s : State) : State :=
  let s := registerOn s (tabKeys s.members) none
  raise (bump (modLease s fun l => { l with released := true, draining := none, role := 0 }) 0 F.LEASE.RELEASES) 0 Ev.RELEASED

/-- A release whose drain is over: the module stops, unregisters and restarts (R292). -/
def finishRelease (s : State) : State := unitRestart (unregister s)

/-- Whether class 3 jobs still run, for REL_DRAIN (R292). -/
def jobsRunning (s : State) : Bool := s.jobs.any fun p => isCmd p.2 && p.2.cls != 7 && p.2.ended.isNone

/-- Start a release: classes 3, 2 and 1 are refused, and the jobs already running have REL_DRAIN ms to end (R292). -/
def startRelease (s : State) : State :=
  if s.lease.draining.isSome then s
  else modLease s fun l => { l with draining := some { until_ := now s 0 + getF s 0 F.LEASE.REL_DRAIN * ms } }

/-! ### Heartbeats (R287) -/

/-- The heartbeat a module sends (R287). -/
def heartbeat (s : State) (sl : Nat) : Heartbeat :=
  let l := s.lease
  let c4 := isF s 0 F.FPIN.C4
  { bay := l.bay, role := l.role
    flags := BitVec.ofNat 8 (c4.toNat + l.excl.toNat * 2 + (decide (8 ≤ s.recovery)).toNat * 4 + l.released.toNat * 8)
    slates := (servingSlates s).length, bootId := s.ready.bootId, epoch := l.epoch, tb := BitVec.ofNat 64 (now s sl) }

/-- HEARTBEAT_SEND (R287): each of slates 0 and 1 every 1 ms. -/
def execHeartbeatSend (slate : Nat) (s : State) : Out :=
  onSlate slate s fun s =>
    let due := match tabGet s.lease.hbOut slate with
      | some h => decide (h.tb.toNat + ms ≤ now s slate)
      | none => true
    if slate < 2 && due then modLease s fun l => { l with hbOut := tabPut l.hbOut slate (heartbeat s slate) } else s

/-- The 32 bytes of a heartbeat (R287). -/
def heartbeatBytes (h : Heartbeat) : Block :=
  [1, BitVec.ofNat 8 h.bay, BitVec.ofNat 8 h.role, h.flags, BitVec.ofNat 8 h.slates, 0, 0, 0] ++
    beBytes 8 h.bootId.toNat ++ beBytes 8 (h.epoch % 2 ^ 48) ++ beBytes 8 h.tb.toNat

/-- Whether a heartbeat shows the healthier standby of DEG_REL (R292). -/
def healthier (s : State) (h : Heartbeat) : Bool :=
  h.role == 2 && h.flags.getLsbD 2 && decide ((servingSlates s).length < h.slates)

/-- HEARTBEAT_RX (R287): a heartbeat with this module's own bay is a clash, and the link then counts as down until a power
cycle. A bay 1 module that took part in the chain as a shelf of its own sends CHANGE as the link comes up (R306). A partner that has restarted must be resynchronised (R298), and the members of a lost slate are
reached through one that now serves as standby (R182). -/
def execHeartbeatRx (slate : Nat) (h : Heartbeat) (s : State) : Out :=
  onSlate slate s fun s =>
    let t := now s 0
    let l := s.lease
    if 2 ≤ slate || l.clash then s
    else if h.bay = l.bay then raise (modLease s fun l => { l with clash := true, up := false }) 0 Ev.BAY_CLASH
    else
      let anew := l.pBoot != 0 && h.bootId != l.pBoot
      let s := if l.up then s else raise s 0 Ev.PARTNER_UP
      let s := if !l.up && l.bay == 1 && !s.chain.follows then chainChange s else s
      let s := modLease s fun l => { l with
        up := true, lastHb := t, pRole := h.role, pFlags := h.flags, pSlates := h.slates, pEpoch := h.epoch
        pBoot := h.bootId
        degSince := if healthier s h then some (l.degSince.getD t) else none }
      let s := if anew && l.role == 1 then partnerLeaves (modLease s fun l => { l with resynced := false }) else s
      if h.role == 2 && !(l.up && l.pRole == 2) && !s.lost.isEmpty then detect s 0 Ev.PROXY [] else s

/-- PARTNER_LOST (R287): no heartbeat for HB_MISS ms; no role changes. -/
def execPartnerLost (s : State) : Out :=
  onUnit s fun s =>
    if s.lease.up && decide (s.lease.lastHb + getF s 0 F.LEASE.HB_MISS * ms ≤ now s 0) then
      raise (modLease s fun l => { l with up := false, degSince := none }) 0 Ev.PARTNER_LOST
    else s

/-! ### Holding the lease (R290, R291, R293) -/

/-- Whether every holder set includes a resynchronised partner, so that the next round clears EXCL (R298). -/
def partnerHeld (s : State) : Bool :=
  s.lease.resynced && (servingSlates s).all fun o => (ownerOf s o).holders.contains 3

/-- RENEWAL_ROUND (R290): HK_LEASE on the active issues a round every 50 ms. -/
def execRenewalRound (s : State) : Out :=
  onUnit s fun s =>
    let due := match s.lease.lastRound with | some t => decide (t + 50 * ms ≤ now s 0) | none => true
    if s.lease.role == 1 && s.lease.round.isNone && due then
      modLease (witnessAuto s) fun l => { l with
        lastRound := some (now s 0), round := some { issue := now s 0, excl := l.excl && !partnerHeld s } }
    else s

/-- EXCL_ROUND (R293): an extra round with EXCL set, before the partner leaves the holder sets. -/
def execExclRound (s : State) : Out :=
  onUnit s fun s =>
    if s.lease.role = 1 ∧ s.lease.round.isNone ∧ s.lease.needExcl ≠ [] then
      modLease s fun l => { l with round := some { issue := now s 0, excl := true } }
    else s

/-- The NVMe status field a witness's answer carries: Reservation Conflict is 083h. -/
def answerStatus : Option WitnessAnswer → Nat
  | some .success => 0
  | some .conflict => 0x83
  | some (.failed st) => st
  | none => 0

/-- A witness's answer in a list. -/
def answerOf (l : List (Nat × WitnessAnswer)) (m : Nat) : Option WitnessAnswer := (l.find? fun p => p.1 == m).map (·.2)

/-- Write the holder sets without the partner, once EXCL is on a majority (R293). -/
def excludePartner (s : State) : State :=
  let os := s.lease.needExcl
  os.foldl (fun s o =>
    installHolders s o (([1, 2, 4, 5].filter (holderLive s o)).take 3)) (modLease s fun l => { l with needExcl := [] })

/-- A successful round (R288, R290, R293). -/
def roundWon (s : State) (r : Round) (won : List Nat) : State :=
  let l := s.lease
  let renew := (l.renew + 1) % 8192
  let s := registerOn s won (some (ownKey s true r.excl renew))
  let s := modLease s fun l => { l with
    round := none, renew := renew, leaseEnd := r.issue + 200 * ms, excl := r.excl }
  let s := bump s 0 F.LEASE.RENEWALS
  let s := setF (setF s 0 F.LEASE.LAST_RENEW r.issue) 0 F.LEASE.W_HELD won.length
  let s := if r.excl && !l.needExcl.isEmpty then excludePartner s else s
  match l.wPend with
  | none => s
  | some m =>
    if (ownerOf s 0).recs.any fun x => decide (x.body = .table (.witnesses m)) then s else (addTable s (.witnesses m)).1

/-- ROUND_COMPLETE (R290, R291): the answers to the round under way. A majority of successes within 50 ms of the issue
renews; conflicts from a majority depose.
DEDUCED (log entry 93). -/
def execRoundComplete (answers : List (Nat × WitnessAnswer)) (s : State) : Out :=
  onUnit s fun s => match s.lease.round with
    | none => s
    | some r =>
      let old := s.durable.wMask
      let new := s.lease.wPend
      let set_ := witnesses (old ||| new.getD 0)
      let inTime := decide (now s 0 < r.issue + 50 * ms)
      let won := set_.filter fun m => inTime && answerOf answers m == some .success
      let conf := set_.filter fun m => answerOf answers m == some .conflict
      let s := (set_.filter fun m => !won.contains m).foldl (fun s m =>
        detect s 0 Ev.WITNESS_LOST [BitVec.ofNat 64 (m + answerStatus (answerOf answers m) % 2 ^ 15 * 64)]) s
      if majority old won && (match new with | some w => majority w won | none => true) then roundWon s r won
      else
        let s := detect (bump (modLease s fun l => { l with round := none }) 0 F.LEASE.ROUNDS_FAILED) 0 Ev.ROUND_FAIL
          [BitVec.ofNat 64 won.length]
        if majority old conf then lapse s else s

/-- LEASE_EXPIRY (R291): TB has reached the end of the lease. -/
def execLeaseExpiry (s : State) : Out :=
  onUnit s fun s => if s.lease.role = 1 ∧ s.lease.leaseEnd ≤ now s 0 then lapse s else s

/-! ### Release (R292) -/

/-- DEG_REL_RELEASE (R292): for 1 s the partner has shown ROLE 2, REPLAY_DONE and more slates serving. -/
def execDegRelRelease (s : State) : Out :=
  onUnit s fun s => match s.lease.degSince with
    | none => s
    | some t =>
      if s.lease.role = 1 ∧ isF s 0 F.LEASE.DEG_REL ∧ s.lease.up ∧ t + 1000 * ms ≤ now s 0 then startRelease s else s

/-- REL_DRAIN_EXPIRY (R292): the drain is over when every job that was running has ended, or after REL_DRAIN ms. -/
def execRelDrainExpiry (s : State) : Out :=
  onUnit s fun s => match s.lease.draining with
    | none => s
    | some d => if d.until_ ≤ now s 0 ∨ !jobsRunning s then finishRelease s else s

/-! ### Acquiring (R294 to R296) -/

/-- Note what each witness shows of the other bay (R295). -/
def noteViews (s : State) (views : List WitnessView) : State :=
  let w := witnesses s.durable.wMask
  (views.filter fun v => w.contains v.member).foldl (fun s v =>
    let key := match v.key with | some k => if k.bay = s.lease.bay then none else some k | none => none
    let old := tabGet s.lease.seen v.member
    let same := match old with | some x => decide (x.key = key) | none => false
    let x : WitnessSeen := { key := key, tSeen := if same then (match old with | some x => x.tSeen | none => 0) else now s 0
                             excl := match key with | some k => k.excl | none => false }
    modLease s fun l => { l with seen := tabPut l.seen v.member x }) s

/-- The witnesses whose last poll satisfies a test. -/
def seenWhere (s : State) (p : WitnessSeen → Bool) : List Nat :=
  (witnesses s.durable.wMask).filter fun m => match tabGet s.lease.seen m with | some x => p x | none => false

/-- The lease key a majority of witnesses show, if there is one. -/
def holderKey (s : State) : Option ResvKey :=
  (tabVals s.lease.seen).findSome? fun x => match x.key with
    | some k => if k.lease && majority s.durable.wMask (seenWhere s fun y => decide (y.key = some k)) then some k else none
    | none => none

/-- Whether the module is eligible to acquire the lease (R295). -/
def eligible (s : State) : Bool :=
  let l := s.lease
  let noLease := seenWhere s fun x => match x.key with | some k => !k.lease | none => true
  let stale := match holderKey s with
    | some k => majority s.durable.wMask (seenWhere s fun x => decide (x.key = some k) && decide (x.tSeen + 250 * ms ≤ now s 0))
    | none => false
  s.quorum && decide (2 ≤ s.recovery) && s.chain.chain != 0x3FF && !l.excluded &&
    (l.up && l.pFlags.getLsbD 3 || majority s.durable.wMask noLease || stale)

/-- The highest epoch a module has seen (R296). -/
def highEpoch (s : State) : Nat :=
  (tabVals s.lease.seen).foldl (fun a x => match x.key with | some k => max a k.epoch | none => a)
    (max s.lease.epoch (max s.durable.epoch s.lease.pEpoch))

/-- The standby finds EXCL in the active's key on some witness (R294). -/
def checkExcluded (s : State) : State :=
  if (tabVals s.lease.seen).any (·.excl) && !s.lease.excluded then
    raise (modLease s fun l => { l with excluded := true, retryAt := none }) 0 Ev.EXCLUDED
  else s

/-- Acquire the lease (R296 steps 2 to 5): `answers` are the witnesses' answers to Preempt and Abort with Replace. -/
def acquire (s : State) (answers : List (Nat × WitnessAnswer)) : State :=
  let won := (witnesses s.durable.wMask).filter fun m => answerOf answers m == some .success
  let epoch := highEpoch s + 1
  let excl := !(s.lease.up && s.lease.resynced)
  let key : ResvKey := { epoch := epoch, bay := s.lease.bay, lease := true, excl := excl, renew := 0 }
  let s := registerOn s won (some key)
  if majority s.durable.wMask won then
    let t := now s 0
    let s := modLease s fun l => { l with
      role := 1, epoch := epoch, renew := 0, excl := excl, leaseEnd := t + 200 * ms, lastRound := some t, retryAt := none
      released := false }
    let s := registerOn s (tabKeys s.members) (some key)
    tryReady (raise (bump s 0 F.LEASE.TAKEOVERS) 0 Ev.TAKEOVER)
  else
    modLease s fun l => { l with retryAt := some (now s 0 + (if l.bay = 0 then 10 else 30) * ms) }

/-- The module sees another hold the lease: it becomes standby and registers on every member with LEASE 0 and the holder's
epoch (R296). -/
def standBy (s : State) (k : ResvKey) : State :=
  let s := modLease s fun l => { l with role := 2, epoch := k.epoch, released := false }
  registerOn s (tabKeys s.members) (some (ownKey s false false 0))

/-- One poll: what the witnesses show, then EXCL, acquisition or standby (R294 to R296). -/
def pollWitnesses (s : State) (views : List WitnessView) (answers : List (Nat × WitnessAnswer)) : State :=
  let s := noteViews s views
  let s := if s.lease.role = 2 then checkExcluded s else s
  if eligible s then
    let s := checkExcluded s
    if s.lease.excluded then s else acquire s answers
  else if s.lease.role = 0 && s.quorum && s.chain.chain != 0x3FF then
    match holderKey s with
    | some k => standBy s k
    | none => s
  else s

/-- WITNESS_POLL (R295): every POLL_MS, a module with ROLE 0 or 2 reads each witness. -/
def execWitnessPoll (views : List WitnessView) (answers : List (Nat × WitnessAnswer)) (s : State) : Out :=
  onUnit s fun s =>
    if (s.lease.role == 0 || s.lease.role == 2) && s.lease.retryAt.isNone then pollWitnesses s views answers else s

/-- ACQUIRE_RETRY (R296): 10 ms in bay 0 or 30 ms in bay 1 after an acquisition that failed. -/
def execAcquireRetry (views : List WitnessView) (answers : List (Nat × WitnessAnswer)) (s : State) : Out :=
  onUnit s fun s => match s.lease.retryAt with
    | none => s
    | some t =>
      if t ≤ now s 0 ∧ s.lease.role ≠ 1 ∧ s.lease.role ≠ 3 then
        pollWitnesses (modLease s fun l => { l with retryAt := none }) views answers
      else s

end Sys2Proof.Machine
end

