-- ==== Sys2Proof/Machine/Chain.lean ====
section
/-! DEFINITION. The batten chain: HELLO, the three passes of an enumeration, and the record of the address (R303 to R310);
and HOLDER_ACK, which confirms the records. -/

namespace Sys2Proof.Machine

/-- HOLDER_ACK (R192): holder `holder` (2 to 5 in the list of R191) acknowledges an owner's records in SEQ order. No record is
confirmed once class 4 has latched (R321). -/
def execHolderAck (owner holder seq : Nat) (s : State) : Out :=
  onSlate owner s fun s =>
    let w := ownerOf s owner
    match w.recs.find? fun r => r.seq == seq with
    | none => s
    | some r =>
      let earlier := w.recs.all fun x => !(decide (x.seq < seq) && !x.confirmed && x.need.contains holder) ||
        x.acks.contains holder
      if isF s 0 F.FPIN.C4 || !r.need.contains holder || r.acks.contains holder || !earlier || !holderOpen s owner holder then s
      else
        let r := { r with acks := holder :: r.acks }
        let done := r.need.length == 3 && r.need.all r.acks.contains
        let r := { r with confirmed := done }
        let s := putOwner s owner { w with recs := w.recs.map fun x => if x.seq = seq then r else x }
        if done then changeAddress (afterConfirm (confirmRec s owner r) owner) else s

/-! ### The address taken (R305, R308, R309) -/

/-- The address last recorded, confirmed or not. -/
def lastAddress (s : State) : Nat × Option Nat :=
  (ownerOf s 0).recs.foldl (fun a r => match r.body with | .table (.address c p) => if r.trimmed then a else (c, p) | _ => a)
    (s.durable.chain, s.durable.pos)

/-- Take a chain number and position (R308): recorded by a module with ROLE 1 or without a partner that is up; a standby has
them from the active's record. -/
def takeAddress (s : State) (chain : Nat) (pos : Option Nat) : State :=
  if lastAddress s = (chain, pos) then s
  else if s.lease.role = 1 ∨ !s.lease.up then (addTable s (.address chain pos)).1
  else changeAddress { s with durable := { s.durable with chain := chain, pos := pos } }

/-- The FIRST detail of CHAIN_BREAK and POS_CONFLICT: the recorded position and chain number (R314). -/
def posDetail (s : State) : List Word := [BitVec.ofNat 64 (s.chain.pos.getD 0 + s.chain.posChain * 64)]

/-- Whether this module follows its partner: bay 1, SAME_SHELF, and the partner link up (R306). -/
def followsPartner (s : State) (same : Bool) : Bool := s.lease.bay == 1 && same && s.lease.up

/-- Whether a frame of an enumeration is to be acted on: its ENUM is the latest seen or later, in 16-bit serial order
(R304). -/
def enumNew (s : State) (e : BitVec 16) : Bool := !s.chain.bypass && decide ((e - s.chain.enum).toNat < 2 ^ 15)

/-- Note the ENUM of a frame acted on; a later one than the latest seen begins an enumeration with nothing claimed. -/
def noteEnum (s : State) (e : BitVec 16) : State :=
  if e = s.chain.enum then s
  else modChain s fun c => { c with enum := e, claimed := false, follows := false }

/-- SHELF_POS with valid clear. -/
def noShelfPos : ShelfPos := { pos := 0, valid := false }

/-- SHELF_POS for a position held or not. -/
def shelfPosOf (pos : Option Nat) : ShelfPos :=
  match pos with
  | some p => { pos := BitVec.ofNat 6 p, valid := true }
  | none => noShelfPos

/-- This module's claim in a census (R305): its recorded position, when the number it was recorded under is CHAIN or PREV
and the position's bit is clear; a bit already set displaces it. -/
def censusClaim (s : State) (c : CensusBody) : State × CensusBody :=
  let own := s.chain.chain
  let chain := if c.chain = 0x3FF then BitVec.ofNat 10 own else c.chain
  let c := { c with chain := chain, sameShelf := s.lease.bay == 0, shelfPos := noShelfPos,
                    shelves := c.shelves + (s.lease.bay == 0).toNat }
  match s.chain.pos with
  | none => (s, c)
  | some p =>
    if s.chain.posChain ≠ chain.toNat ∧ s.chain.posChain ≠ c.prev.toNat then (s, c)
    else if c.claim.getLsbD p then (detect s 0 Ev.POS_CONFLICT (posDetail s), c)
    else
      let c := { c with claim := BitVec.ofNat 64 (c.claim.toNat + 2 ^ p) }
      (modChain s fun x => { x with claimed := true },
        { c with shelfPos := if s.lease.bay = 0 then shelfPosOf (some p) else noShelfPos })

/-- The lowest position free in a mask; on a chain without a number, below 63 (R305). -/
def lowestFree (chain : Nat) (mask : Word) : Option Nat :=
  (List.range (if chain = 0x3FF then 63 else 64)).find? fun p => !mask.getLsbD p

/-- This module's place in the assign pass (R305): a module that claimed keeps its position; any other takes the lowest free
one, or none, which raises CHAIN_FULL. The answer is the frame it sends on. -/
def assignSelf (s : State) (a : AssignBody) : State × AssignBody :=
  let chain := a.chain.toNat
  let keep := s.chain.claimed
  let pos := if keep then s.chain.pos else lowestFree chain a.taken
  let taken := match pos with
    | some p => if a.taken.getLsbD p then a.taken else BitVec.ofNat 64 (a.taken.toNat + 2 ^ p)
    | none => a.taken
  let s := if pos.isNone then detect s 0 Ev.CHAIN_FULL [] else s
  (takeAddress s chain pos,
    { a with taken := taken, sameShelf := s.lease.bay == 0,
             shelfPos := if s.lease.bay = 0 then shelfPosOf pos else noShelfPos })

/-- The end of the assign pass on this module: the TAKEN mask, ENUM_DONE, and the frame sent on (R305, R314). -/
def assignDone (s : State) (a : AssignBody) : State :=
  let s := setF s 0 F.CHAIN.TAKEN a.taken.toNat
  sendDn (raise s 0 Ev.ENUM_DONE) (.assign a)

/-- The head takes the tally: it sends ASSIGN with the final CHAIN and TAKEN equal to the tallied CLAIM (R305). -/
def headTally (s : State) (t : TallyBody) : State :=
  let s := setF s 0 F.CHAIN.SHELVES t.shelves
  let (s, a) := assignSelf s
    { enum := t.enum, chain := t.chain, taken := t.claim, sameShelf := false, shelfPos := noShelfPos }
  assignDone s a

/-- What follows a module's part in the census, which ENUMS counts: the frame goes on from DN, or, with no partner there, comes back as
TALLY (R305). -/
def censusOn (s : State) (c : CensusBody) : State :=
  let s := bump s 0 F.CHAIN.ENUMS
  if s.chain.dnMac.isSome then sendDn s (.census c)
  else
    let t : TallyBody := { enum := c.enum, chain := c.chain, claim := c.claim, shelves := c.shelves }
    if chainHead s then headTally s t else sendUp s (.tally t)

/-- The head starts an enumeration (R304, R305, R309): a new ENUM, and CENSUS with the number it is to carry, PREV, and its
own claim. A head that holds a recorded position other than 0 raises CHAIN_BREAK (R307). -/
def startEnum (s : State) : State :=
  let c := s.chain
  let e := c.enum + 1
  let s := modChain (noteEnum s e) fun c => { c with lastEnum := now s 0, enumDue := false }
  let s := match c.pos with
    | some p => if p = 0 then s else detect s 0 Ev.CHAIN_BREAK (posDetail s)
    | none => s
  let (s, f) := censusClaim s
    { enum := e, chain := BitVec.ofNat 10 (c.chainNew.getD c.chain)
      prev := BitVec.ofNat 10 (if c.chainNew.isSome then c.chain else c.prev)
      claim := 0, shelves := 0, sameShelf := false, shelfPos := noShelfPos }
  censusOn s f

/-! ### The commands -/

/-- The HELLO this module sends (R303); `mac` is MAC_BASE of slate 0. -/
def ownHello (s : State) : HelloBody :=
  { enum := s.chain.enum, bay := s.lease.bay, hasPos := s.chain.pos.isSome, head := chainHead s, ua := s.chain.ua,
    mac := (Config.macBase 0).toNat }

/-- HELLO_SEND (R303): every 1 ms on both ports, once the bypass is open. -/
def execHelloSend (s : State) : Out :=
  onUnit s fun s =>
    let due := match s.chain.helloAt with | some t => decide (t + ms ≤ now s 0) | none => true
    if s.chain.bypass || !due then s
    else
      let h := ChainFrame.hello (ownHello s)
      modChain s fun c => { c with helloAt := some (now s 0), sentUp := c.sentUp ++ [h], sentDn := c.sentDn ++ [h] }

/-- HELLO (R303, R304): the port sees its partner. A gained partner, or a changed MAC_BASE, which is a loss and a gain,
sends CHANGE; its ENUM may be the latest this module has seen.
DEDUCED (log entry 94). -/
def execHello (up : Bool) (h : HelloBody) (s : State) : Out :=
  onChain up (.hello h) s fun s =>
    let t := now s 0
    let old := if up then s.chain.upMac else s.chain.dnMac
    let s := modChain s fun c =>
      let c := if decide (0 < (h.enum - c.enum).toNat) && decide ((h.enum - c.enum).toNat < 2 ^ 15) then
        { c with enum := h.enum, claimed := false } else c
      if up then { c with upMac := some h.mac, upAt := t, enumDue := false } else { c with dnMac := some h.mac, dnAt := t }
    if old = some h.mac then s
    else chainChange (bump s 0 F.CHAIN.PORT_CHANGES (if old.isSome then 2 else 1))

/-- CHAIN_PARTNER_TIMEOUT (R303, R304): 5 ms without a valid HELLO. A module whose UP loses its partner becomes head. -/
def execChainPartnerTimeout (up : Bool) (s : State) : Out :=
  onUnit s fun s =>
    let c := s.chain
    let at_ := if up then c.upAt else c.dnAt
    let seen := if up then c.upMac.isSome else c.dnMac.isSome
    if c.bypass || !seen || decide (now s 0 < at_ + 5 * ms) then s
    else
      let s := modChain s fun c => if up then { c with upMac := none } else { c with dnMac := none }
      chainChange (bump s 0 F.CHAIN.PORT_CHANGES)

/-- CHANGE (R303, R304): relayed upstream; at the head an enumeration falls due. -/
def execChange (s : State) : Out := onChain false .change s chainChange

/-- ENUM_START (R304): the head starts the enumeration that is due. -/
def execEnumStart (s : State) : Out :=
  onUnit s fun s => if chainHead s && s.chain.enumDue then startEnum s else s

/-- ENUM_PERIODIC (R304): 10 s after its last enumeration the head enumerates again. -/
def execEnumPeriodic (s : State) : Out :=
  onUnit s fun s =>
    if chainHead s && decide (s.chain.lastEnum + 10000 * ms ≤ now s 0) then startEnum s else s

/-- CENSUS (R305, R306, R309). -/
def execCensus (c : CensusBody) (s : State) : Out :=
  onChain true (.census c) s fun s =>
    if !enumNew s c.enum then s
    else
      let s := noteEnum s c.enum
      if followsPartner s c.sameShelf then
        let s := modChain s fun x => { x with follows := true, claimed := false }
        censusOn s { c with sameShelf := false, shelfPos := noShelfPos }
      else
        let (s, c) := censusClaim (modChain s fun x => { x with follows := false, claimed := false }) c
        censusOn s c

/-- TALLY (R305): relayed upstream unchanged; the head ends the census and assigns. -/
def execTally (c : TallyBody) (s : State) : Out :=
  onChain false (.tally c) s fun s =>
    if !enumNew s c.enum then s
    else
      let s := noteEnum s c.enum
      if chainHead s then headTally s c else sendUp s (.tally c)

/-- ASSIGN (R305, R306, R309). -/
def execAssign (c : AssignBody) (s : State) : Out :=
  onChain true (.assign c) s fun s =>
    if !enumNew s c.enum then s
    else
      let s := noteEnum s c.enum
      if followsPartner s c.sameShelf then
        let s := modChain s fun x => { x with follows := true }
        let s := takeAddress s c.chain.toNat (if c.shelfPos.valid then some c.shelfPos.pos.toNat else none)
        assignDone s { c with sameShelf := false, shelfPos := noShelfPos }
      else
        let (s, a) := assignSelf (modChain s fun x => { x with follows := false }) c
        assignDone s a

/-- CHAIN_ASSIGN written at the head: it carries CHAIN_NEW from the next enumeration on, with its old number as PREV
(R309). -/
def chainAssignOp (s : State) : State :=
  startEnum (modChain s fun c => { c with chainNew := some (getF s 0 F.CHAIN.CHAIN_NEW) })

end Sys2Proof.Machine
end

