-- ==== Sys2Proof/Machine/PoolInsns.lean ====
section
/-! DEFINITION. Instructions of payload, drives, courses, map and hazards (R63 to R69). -/

namespace Sys2Proof.Machine

/-! ### SEND (R63, R105, R121) -/

/-- The command a job runs for, while its tag still holds it. -/
def cmdOf (s : State) (j : Job) : Option Cmd := (queueAt s j.hq).bind fun q => (tagAt q j.tag).cmd

/-- Send a range of the outbound buffer as DATA datagrams of P_MAX, the last one excepted (R105, R121). -/
def sendData : Nat → State → Nat → Job → Cmd → Nat → Block → State
  | 0, s, _, _, _, _, _ => s
  | k + 1, s, id, j, c, off, b =>
    if b.isEmpty then s
    else
      let sl := j.slate
      let seals := match keyOf s sl (keyIndex c.keyId) with | some x => keySeals x | none => false
      let p := max 64 (pMax s sl c.ipv4 seals)
      let d := { answer sl (cmdReply c) tyData with
        hqTag := hqTagOf j.hq j.tag, nonce := j.nonce, offset := BitVec.ofNat 64 off, payload := b.take p }
      sendData k (send s d (some id)) id j c (off + p) (b.drop p)

/-- SEND (R63): hands bytes of a handle of origin h2 to the transport. -/
def execSend (o : RForm) (s : State) : Out :=
  onThread o.t s fun s => issue o.t s 1 (o.d == 0 && o.minor.toNat / 8 == 0) false fun s id j =>
    let a := (rd j o.a).toNat
    let n := (rd j o.b).toNat
    match handleOf j o.minor.toNat with
    | none => trapJob s id St.illegalField
    | some h =>
      if h.origin ≠ .h2 then trapJob s id St.illegalField
      else if h.len < a + n then trapJob s id St.bounds
      else
        let s := match cmdOf s j with
          | some c => sendData (n + 1) s id j c (h.off + a) (handleRead s h a n)
          | none => s
        finish s id j 1

/-! ### Drive commands (R64 to R66) -/

/-- Whether an NVMe opcode is Write, Read or Compare, whose NLB counts blocks (R64). -/
def nlbOp (opcode : Nat) : Bool := opcode == 1 || opcode == 2 || opcode == 5

/-- Whether a member is absent or failed (R64); one that is initialising or out of the pool is neither.
DESIGN CHOICE (log entry 119). -/
def memberGone (s : State) (m : Nat) : Bool :=
  let x := memberOf s m
  x.mstate == 0 || x.mstate == 3 || x.mstate == 4 || !hasPath s m

/-- A ticket for a command just submitted.
DESIGN CHOICE (log entry 32). -/
def newTicket (crd : Bool) (m opcode : Nat) (buf : Option Handle) (first count : Nat) : Ticket :=
  { crd := crd, member := m, opcode := opcode, buf := buf, first := first, count := count, result := none }

/-- The submission image as the member gets it: the command identifier, PSDT and data pointer are the unit's own and are
shown as zero; at JOB the namespace is the pool namespace, 1 (R64, R179). -/
def sqeImage (b : Block) (keep : Bool) : Block :=
  let b := (List.range 64).map fun i =>
    if i = 1 then byteAt b 1 &&& 0x3F else if i = 2 ∨ i = 3 ∨ 24 ≤ i ∧ i < 40 then 0 else byteAt b i
  if keep then b else b.take 4 ++ leBytes 4 1 ++ b.drop 8

/-- DSUB (R64). -/
def execDsub (o : RForm) (s : State) : Out :=
  let m := o.minor.toNat
  let nodata := bitOf m 3
  let admin := bitOf m 4
  onThread o.t s fun s => issue o.t s 1 (m / 32 == 0) false fun s id j =>
    let a := (rd j o.a).toNat
    let b := (rd j o.b).toNat
    let sqe := bytesOf j.scr a 64
    let op := (byteAt sqe 0).toNat
    let h := handleOf j m
    if admin && !j.keep then trapJob s id St.rights
    else if 0xFC0 < a ∨ a % 64 ≠ 0 then trapJob s id St.outOfRange
    else if !j.keep && (op != 2 || nodata) then trapJob s id St.rights
    else if !nodata && h.isNone then trapJob s id St.illegalField
    else if !nodata && nvmeDir op == 2 && (match h with | some h => !h.rw | none => false) then trapJob s id St.rights
    else if 64 ≤ b then finish s id (ret j o.d St.illegalField) 1
    else if 6 * s.n ≤ b then finish s id (ret j o.d St.outOfRange) 1
    else if memberGone s b then finish s id (ret j o.d St.memberGone) 1
    else if nlbOp op && !nodata &&
        (match h with | some h => decide ((leNat (blockSlice sqe 48 2) + 1) * 4096 ≠ h.len) | none => false) then
      finish s id (ret j o.d St.illegalField) 1
    else match tabFree j.tickets 0 64 with
      | none => finish s id (ret j o.d St.busyRetry) 1
      | some t =>
        let (s, ok) := if op = 2 && !admin then (s, true) else askCommit s id
        if !ok then s
        else
          let tk := newTicket false b op (if nodata then none else h) 0 0
          let j := retWith { j with tickets := tabPut j.tickets t tk } o.d St.ok t
          let s := issueCmd s b op (leNat (blockSlice sqe 40 8)) (.ticket id t) admin (sqeImage sqe j.keep)
            (op == 1 && bitOf (leNat (blockSlice sqe 48 4)) 30)
          finish s id j 1

/-- Start the reads of a `CRD` under ticket `t`: its grains, or what they are rebuilt from (R65, R210). -/
def crdReads (s : State) (l : Layout) (sl id t first count : Nat) : State :=
  let (k, i0) := grainOf l first
  startRead s sl k ((List.range count).map (i0 + ·)) (.crd id t)

/-- Whether a run of grains lies in the data grains of one course that is DURABLE (R65).
DEDUCED (log entry 109). -/
def grainsDurable (s : State) (first count : Nat) : Bool :=
  match s.layout with
  | none => false
  | some l =>
    let (k, i) := grainOf l first
    decide (i + count ≤ dataGrains l) && (match courseOf s k with | some c => c.st == .durable | none => false)

/-- CRD (R65). -/
def execCrd (o : RForm) (s : State) : Out :=
  onThread o.t s fun s => issue o.t s 1 (o.minor.toNat / 8 == 0) false fun s id j =>
    let a := (rd j o.a).toNat
    let b := (rd j o.b).toNat
    match handleOf j o.minor.toNat with
    | none => trapJob s id St.illegalField
    | some h =>
      let count := b % 1024
      if !h.rw then trapJob s id St.rights
      else if h.len < count * 4096 then trapJob s id St.bounds
      else if 2 ^ 48 ≤ a ∨ 1024 ≤ b then finish s id (ret j o.d St.illegalField) 1
      else
        if count = 0 || !grainsDurable s a count then finish s id (ret j o.d St.outOfRange) 1
        else match tabFree j.tickets 0 64, s.layout with
          | some t, some l =>
            let tk := newTicket true 0 2 (some h) a count
            crdReads (finish s id (retWith { j with tickets := tabPut j.tickets t tk } o.d St.ok t) 1) l j.slate id t a count
          | _, _ => finish s id (ret j o.d St.busyRetry) 1

/-- What `DWAIT` leaves once its command is complete: the result word, Z by its status, and the ticket freed (R66). -/
def collect (j : Job) (d : Reg) (t : Nat) (w : Word) : Job :=
  { wr { j with tickets := tabDel j.tickets t } d w with z := w.toNat % 65536 == 0 }

/-- DWAIT (R66). -/
def execDwait (o : RForm) (s : State) : Out :=
  onThread o.t s fun s => issue o.t s 1 (o.b == 0 && o.minor == 0) false fun s id j =>
    let a := (rd j o.a).toNat
    let t := a / 65536 % 64
    match tabGet j.tickets t with
    | none => finish s id (ret j o.d St.illegalField) 1
    | some tk =>
      if a ≠ t * 65536 then finish s id (ret j o.d St.illegalField) 1
      else match tk.result with
        | some w => finish s id (collect j o.d t w) 1
        | none => suspendJob s id j (.ticket t) o.d

/-! ### CAPP (R67) -/

/-- Whether a unit table operation keeps block programs from being served (R97). -/
def courseWaits (s : State) : Bool := s.courses.any fun c => c.2.st == .sealed && c.2.stalled

/-- Whether the free share is below a slate's write reserve (R178). -/
def belowReserve (s : State) (sl : Nat) : Bool :=
  match s.layout with
  | none => false
  | some l => decide (freeOrdinals s * 1000 < getF s sl F.STRIPE.WRITE_RESERVE * ordinals l)

/-- Whether appends at JOB are refused NOT_SERVING (R174, R193). -/
def appendsStopped (s : State) : Bool := courseWaits s || anyShort s

/-- The grains of an append, their data read from the handle (R67, R170). -/
def appendGrains (s : State) (job : Nat) (a : AppendArgs) : List Grain :=
  (List.range a.count).map fun i =>
    { kind := .host, volume := a.volume, lba := a.lba + i, data := blockTrim (bufRead s a.buf (a.off + i * 4096) 4096),
      job := some job, dead := false, seqs := [] }

/-- Append for a job (R67): GRAINS counts them for the job's slate (R331). -/
def doAppend (s : State) (id : Nat) (sl : Nat) (a : AppendArgs) : State :=
  appendTo (countSrc s sl srcGrains a.count) 0 sl (appendGrains s id a) a.atomic

/-- Whether every grain of a job's appends is in a course that has become DURABLE (R67). -/
def appendsDone (s : State) (id : Nat) : Bool :=
  !(s.leads.any fun p => p.2.waiting.any fun w => w.grains.any fun g => g.job == some id) &&
    !(s.repourWait.any fun c => c.grains.any fun g => g.job == some id) &&
    !(s.courses.any fun c => inTundish c.2 && c.2.grains.any fun g => g.job == some id)

/-- Whether so many grains fit one course of the current layout (R67). -/
def fitsCourse (s : State) (k : Nat) : Bool := match s.layout with | some l => decide (k ≤ dataGrains l) | none => false

/-- CAPP (R67). -/
def execCapp (o : RForm) (s : State) : Out :=
  let m := o.minor.toNat
  onThread o.t s fun s => issue o.t s 1 (m / 16 == 0) false fun s id j =>
    let lba := (rd j o.a).toNat
    let b := (rd j o.b).toNat
    let k := b / 65536 % 4096
    let v := b % 4096
    let fin (st : Status) : State := finish s id (ret j o.d st) 1
    match handleOf j m with
    | none => trapJob s id St.illegalField
    | some h =>
      if h.len < k * 4096 then trapJob s id St.bounds
      else if b ≠ v + k * 65536 then fin St.illegalField
      else if k = 0 || !extentDefined s j.slate v lba k then fin St.outOfRange
      else if bitOf m 3 && !fitsCourse s k then fin St.outOfRange
      else if !j.keep && appendsStopped s then fin St.notServing
      else if !j.keep && belowReserve s j.slate then fin St.noSpace
      else
        let a : AppendArgs := { volume := v, lba := lba, count := k, buf := h.buf, off := h.off, atomic := bitOf m 3 }
        if h.origin ≠ .h1 ∨ arrived s h.buf h.off (h.off + k * 4096) then
          suspendJob (doAppend s id j.slate a) id j .courses o.d
        else suspendJob s id j (.appendPayload a) o.d

/-! ### MGET and MSET (R68) -/

/-- The map entry of an `MGET` whose leaf is in the map cache (R68). -/
def mgetNow (s : State) (j : Job) (d : Reg) (v lba : Nat) : Job := ret (wr j (pairReg d) (mapEntry s v lba)) d St.ok

/-- MGET (R68): a leaf that is not in the map cache is fetched from its map course, and the job waits for it. Where it cannot be
had, gD+1 is as it was.
DESIGN CHOICE (log entry 35). -/
def execMget (o : RForm) (s : State) : Out :=
  onThread o.t s fun s => issue o.t s 1 (o.minor == 0 && pairOk o.d) false fun s id j =>
    let lba := (rd j o.a).toNat
    let b := (rd j o.b).toNat
    if 4096 ≤ b then finish s id (ret j o.d St.illegalField) 1
    else if !extentDefined s j.slate b lba 1 then finish s id (ret j o.d St.outOfRange) 1
    else if nodeCached s b 0 (lba / 512) then finish (noteCached s b (lba / 512)) id (mgetNow s j o.d b lba) 1
    else needLeaf (suspendJob s id j (.mapGet b lba) o.d) b lba

/-- How an `MSET` of a job is applied (R158). -/
def msetHow (j : Job) : MsetHow := if j.keep then .exact else .dealloc

/-- The leaf of an `MSET` is in the map cache: its record is the commit action (R148), and the job waits until it is settled. -/
def msetNow (s : State) (id : Nat) (v lba : Nat) (x : Word) : State :=
  match jobOf s id with
  | none => s
  | some j =>
    let (s, ok) := askCommit s id
    if !ok then s
    else
      let (s, q) := addMset (noteCached s v (lba / 512)) j.slate v lba x (msetHow j)
      modJob s id fun j => { j with wait := .record j.slate q }

/-- MSET (R68): a leaf that is not in the map cache is fetched first; the record is made, and the instruction returns once it is
confirmed on three holders and its turn in UCN order is past (R185, R195).
DEDUCED (log entry 110). -/
def execMset (o : RForm) (s : State) : Out :=
  onThread o.t s fun s => issue o.t s 1 (o.minor == 0 && pairOk o.d) false fun s id j =>
    let lba := (rd j o.a).toNat
    let b := (rd j o.b).toNat
    let x := rd j (pairReg o.d)
    if 4096 ≤ b then finish s id (ret j o.d St.illegalField) 1
    else if !extentDefined s j.slate b lba 1 then finish s id (ret j o.d St.outOfRange) 1
    else if !j.keep && x ≠ 0 then trapJob s id St.rights
    else
      let s' := suspendJob s id j (.mapSet b lba x) o.d
      if nodeCached s b 0 (lba / 512) then msetNow s' id b lba x else needLeaf s' b lba

/-! ### HAZ and HREL (R69, R144) -/

/-- The extra hazard entries a job holds. -/
def extraHaz (s : State) (id : Nat) : List Hazard := s.hazards.filter fun h => h.job == some id && h.id < 8

/-- The first identifier below 8 the job does not hold. -/
def freeHazId (s : State) (id : Nat) : Option Nat :=
  (List.range 8).find? fun i => !(extraHaz s id).any fun h => h.id == i

/-- HAZ (R69): a modifying entry at the job's own place in the hazard order of its HQ. -/
def execHaz (o : RForm) (s : State) : Out :=
  onThread o.t s fun s => issue o.t s 1 (o.minor == 0) false fun s id j =>
    let b := (rd j o.b).toNat
    let v := b % 4096
    let k := b / 65536 % 4096
    if b ≠ v + k * 65536 ∨ !isCmd j then finish s id (ret j o.d St.illegalField) 1
    else if k = 0 ∨ 2048 < k then finish s id (ret j o.d St.outOfRange) 1
    else match freeHazId s id with
      | none => finish s id (ret j o.d St.busyRetry) 1
      | some i =>
        let base := s.hazards.find? fun h => h.job == some id && h.id == 0xFE
        let h : Hazard := { hq := j.hq, tag := j.tag, job := some id, id := i,
                            pos := (match base with | some x => x.pos | none => j.nonce.toNat)
                            seq := (match base with | some x => x.seq | none => 0)
                            volume := v, lba := (rd j o.a).toNat, count := k, modify := true }
        let s := { s with hazards := s.hazards ++ [h], hazPast := s.hazPast ++ [h] }
        if hazBlocked s h then suspendJob s id j (.hazard i) o.d else finish s id (retWith j o.d St.ok i) 1

/-- HREL (R69): gA[23:16] names an extra entry, 0xFE the extent of dispatch, 0xFF every entry; the manual gives gA's other
bits no meaning.
DESIGN CHOICE (log entry 33). -/
def execHrel (o : RForm) (s : State) : Out :=
  onThread o.t s fun s => issue o.t s 1 (o.d == 0 && o.b == 0 && o.minor == 0) false fun s id j =>
    let x := (rd j o.a).toNat / 65536 % 256
    finish (dropHazards s fun h => h.job == some id && (x == 0xFF || h.id == x)) id j 1

end Sys2Proof.Machine
end

