-- ==== Sys2Proof/Machine/LibOps.lean ====
section
/-! DEFINITION. What the standard library's programs share: how one ends and waits, the checks of the block programs, and what a
program goes on with when its wait is over (R90 to R95, R100, R101). -/

namespace Sys2Proof.Machine

/-! ### Ending and waiting (R36, R90) -/

/-- Four result words; those not named are zero (R90). -/
def words4 (l : List Word) : List Word := [l.getD 0 0, l.getD 1 0, l.getD 2 0, l.getD 3 0]

/-- A library program ends with a status and its result words. -/
def endLib (s : State) (id : Nat) (st : Status) (words : List Word) : State := endJob s id (respOf st (words4 words)) false

/-- A library program waits, and goes on as `w` says once the wait is over. -/
def waitLib (s : State) (id : Nat) (j : Job) (wait : Wait) (w : OnWake) : State :=
  suspendJob s id { j with onWake := w } wait 0

/-- A library program asks for its commit point and makes a change to the volume or member table as one group; it ends once
the record is settled (R95, R148, R195). -/
def commitTables (s : State) (id : Nat) (j : Job) (ts : List TableItem) (w : OnWake) : State :=
  let (s, ok) := askCommit s id
  if !ok then s
  else
    let (s, q) := addTableGroup s ts
    waitLib s id j (.record 0 q) w

/-- An effective TB: 2 µs to 1 ms after now, which value of these the manual leaves open (R45, R95).
DESIGN CHOICE (log entry 15). -/
def effectiveTb (s : State) (sl : Nat) : State × Nat := (takeFree s, now s sl + 2000 + (freeVal s).toNat % 998001)

/-! ### The block programs' checks (R91, R92) -/

/-- The extent a block program's arguments name; `none` where argument word 1 has a bit outside its layout (R91). -/
structure BlockArgs where
  lba    : Nat
  volume : Nat
  count  : Nat

/-- The arguments of a block program. -/
def blockArgs (j : Job) : Option BlockArgs :=
  let v := bits (rd j 2) 0 12
  let k := bits (rd j 2) 16 12
  if (rd j 2).toNat = v + k * 65536 then some { lba := (rd j 1).toNat, volume := v, count := k } else none

/-- The length of the outbound payload: that of h2. -/
def outLen (j : Job) : Nat := match tabGet j.h 2 with | some h => h.len | none => 0

/-- Whether an administrative operation keeps a volume from being served (R97). -/
def adminStops (s : State) (volume : Nat) : Bool :=
  s.admin.state == 1 && (s.admin.op == 1 || s.admin.op == 3 || (s.admin.op == 2 && s.admin.volume == volume))

/-- Whether programs that need the pool are served: READY has been sent, and the unit has not stopped (R126, R321). -/
def poolServed (s : State) : Bool := s.ready.sentTb.isSome && !unitStopped s

/-- The checks of R92 in order, for a program with this count limit whose payloads are `inb` and `outb` times the extent's
bytes; `appends` says that it appends.
DEDUCED (log entry 61). -/
def blockCheck (s : State) (j : Job) (limit inb outb : Nat) (appends : Bool) : Option Status :=
  match blockArgs j with
  | none => some St.illegalField
  | some a =>
    if a.count = 0 || decide (limit < a.count) || !extentDefined s j.slate a.volume a.lba a.count then some St.outOfRange
    else if (rd j 9).toNat ≠ inb * a.count * 4096 ∨ outLen j ≠ outb * a.count * 4096 then some St.illegalField
    else if adminStops s a.volume || !poolServed s || (appends && appendsStopped s) then some St.notServing
    else if appends && belowReserve s j.slate then some St.noSpace
    else none

/-! ### Reading an extent (R92, R215) -/

/-- Consecutive blocks of an extent in consecutive grains of one course: the first block, the first grain, how many. -/
structure GrainRun where
  at_   : Nat
  first : Nat
  count : Nat

/-- Add the grain of block `i` to the runs found so far, the last one first. -/
def addRun (l : Layout) (runs : List GrainRun) (i p : Nat) : List GrainRun :=
  match runs with
  | r :: rest =>
    if r.at_ + r.count = i ∧ r.first + r.count = p ∧ (grainOf l r.first).1 = (grainOf l p).1 then
      { r with count := r.count + 1 } :: rest
    else { at_ := i, first := p, count := 1 } :: runs
  | [] => [{ at_ := i, first := p, count := 1 }]

/-- The runs of an extent, and how many of its blocks are lost or have a map entry that cannot be had; a deallocated block
has no grain. -/
def extentRuns (s : State) (l : Layout) (v lba count : Nat) : List GrainRun × Nat :=
  (List.range count).foldl (fun (p : List GrainRun × Nat) i =>
    let e := mapEntry s v (lba + i)
    if !nodeCached s v 0 ((lba + i) / 512) || entryLost e then (p.1, p.2 + 1)
    else if deallocated e then p
    else (addRun l p.1 i (entryPgn e), p.2)) ([], 0)

/-- Read one run into a buffer as `CRD` does, under ticket `t`. -/
def readRun (s : State) (l : Layout) (sl id : Nat) (h : Handle) (t : Nat) (r : GrainRun) : State :=
  let h := { h with off := h.off + r.at_ * 4096, len := r.count * 4096 }
  let s := modJob s id fun j => { j with tickets := tabPut j.tickets t (newTicket true 0 2 (some h) r.first r.count) }
  crdReads s l sl id t r.first r.count

/-- One LBA of each leaf of an extent. -/
def extentLeaves (lba count : Nat) : List Nat :=
  (List.range ((lba + count - 1) / 512 - lba / 512 + 1)).map fun i => (lba / 512 + i) * 512

/-- Bring the leaves of an extent into the map cache (R162). -/
def fetchLeaves (s : State) (a : BlockArgs) : State := (extentLeaves a.lba a.count).foldl (fun s x => needLeaf s a.volume x) s

/-- Whether the read of a leaf of an extent is under way. -/
def leavesFetching (s : State) (v lba count : Nat) : Bool := (extentLeaves lba count).any (leafFetching s v)

/-- Whether a leaf of an extent cannot be had only for want of a path to its strips (R182). -/
def leavesUnserved (s : State) (a : BlockArgs) : Bool := (extentLeaves a.lba a.count).any fun x => leafServed s a.volume x == .unserved

/-- Read an extent into a buffer: the reads outstanding are the job's tickets; the answer is how many blocks are lost
already.
DEDUCED (log entry 58). -/
def readExtent (s : State) (sl id : Nat) (a : BlockArgs) (h : Handle) : State × Nat :=
  match s.layout with
  | none => (s, 0)
  | some l =>
    let (runs, lost) := extentRuns s l a.volume a.lba a.count
    (((List.range runs.length).zip runs.reverse).foldl (fun s p => readRun s l sl id h p.1 p.2) s, lost)

/-- Whether every read a job has outstanding has returned. -/
def readsDone (j : Job) : Bool := j.tickets.all fun t => t.2.result.isSome

/-- What a job's finished reads say: how many grains were lost, and whether a member had no path (R66, R182). -/
def readsResult (j : Job) : Nat × Bool :=
  (tabVals j.tickets).foldl (fun p t => match t.result with
    | some w => (p.1 + bits w 32 32, p.2 || decide (bits w 0 16 = St.notServing.toNat))
    | none => p) (0, false)

/-! ### Appending (R92, R176) -/

/-- Append an extent's blocks from the inbound payload, `skip` bytes into it, as `CAPP` does; the program ends once they are
durable. -/
def libAppend (s : State) (id : Nat) (j : Job) (a : BlockArgs) (skip : Nat) (atomic : Bool) : State :=
  match tabGet j.h 1 with
  | none => s
  | some h =>
    let x : AppendArgs := { volume := a.volume, lba := a.lba, count := a.count, buf := h.buf, off := h.off + skip, atomic := atomic }
    if arrived s h.buf x.off (x.off + a.count * 4096) then
      waitLib (doAppend s id j.slate x) id j .courses (.finish St.ok [])
    else waitLib s id j (.appendPayload x) (.finish St.ok [])

/-! ### Going on after a wait -/

/-- READ has its blocks: they go to the host (R92). -/
def sendBlocks (s : State) (id : Nat) (j : Job) (lost : Nat) : State :=
  let (n, noPath) := readsResult j
  if noPath then endLib s id St.notServing []
  else
    let s := match tabGet j.h 2, cmdOf s j with
      | some h, some c => sendData (h.len + 1) s id j c h.off (handleRead s h 0 h.len)
      | _, _ => s
    endLib s id (if lost + n = 0 then St.ok else St.grainsLost) [BitVec.ofNat 64 (lost + n)]

/-- The offset of the first byte in which two blocks differ. -/
def firstDiff (a b : Block) : Option Nat := (List.range a.length).find? fun i => byteAt a i != byteAt b i

/-- COMPARE_AND_WRITE has the extent's data in a buffer: it compares, and writes (R92). -/
def compareBlocks (s : State) (id : Nat) (j : Job) (buf lost : Nat) : State :=
  match blockArgs j, tabGet j.h 1 with
  | some a, some h =>
    let (n, noPath) := readsResult j
    if noPath then endLib s id St.notServing []
    else if 0 < lost + n then endLib s id St.grainsLost [BitVec.ofNat 64 (lost + n)]
    else match firstDiff (handleRead s h 0 (a.count * 4096)) (bufRead s buf 0 (a.count * 4096)) with
      | some i => endLib s id St.compareFail [BitVec.ofNat 64 i]
      | none =>
        if appendsStopped s then endLib s id St.notServing []
        else if belowReserve s j.slate then endLib s id St.noSpace []
        else libAppend s id { j with tickets := [] } a (a.count * 4096) true
  | _, _ => s

/-- READ has the leaves of its extent in the map cache: it reads the blocks, and sends them once they have come (R92). -/
def readMapped (s : State) (id : Nat) (j : Job) : State :=
  match blockArgs j, tabGet j.h 2 with
  | some a, some h =>
    if leavesUnserved s a then endLib s id St.notServing []
    else
      let (s, lost) := readExtent s j.slate id a h
      match jobOf s id with
      | none => s
      | some j => if readsDone j then sendBlocks s id j lost else waitLib s id j .reads (.sendBlocks lost)
  | _, _ => s

/-- COMPARE_AND_WRITE has the leaves of its extent in the map cache: it reads the blocks into its buffer, and compares (R92). -/
def compareMapped (s : State) (id : Nat) (j : Job) (b : Nat) : State :=
  match blockArgs j with
  | some a =>
    if leavesUnserved s a then endLib s id St.notServing []
    else
      let (s, lost) := readExtent s j.slate id a { buf := b, off := 0, len := a.count * 4096, rw := true, origin := .other }
      match jobOf s id with
      | none => s
      | some j => if readsDone j then compareBlocks s id j b lost else waitLib s id j .reads (.compare b lost)
  | none => s

/-- DEALLOCATE has the leaves of its extent in the map cache: each entry takes the deallocated value by an `MSET` at JOB, which is
its commit point; it ends once the last record is settled (R92, R148).
DEDUCED (log entry 60). -/
def deallocMapped (s : State) (id : Nat) (j : Job) : State :=
  match blockArgs j with
  | none => s
  | some a =>
    if leavesUnserved s a then endLib s id St.notServing []
    else
      let (s, ok) := askCommit s id
      if !ok then s
      else
        let (s, q) := (List.range a.count).foldl (fun (p : State × Nat) i =>
          addMset p.1 j.slate a.volume (a.lba + i) 0 .dealloc) (s, 0)
        waitLib s id j (.record j.slate q) (.finish St.ok [])

/-- A block program goes on once no leaf of its extent is being fetched: at once, or after a wait. -/
def whenMapped (s : State) (id : Nat) (j : Job) (w : OnWake) (go : State → Nat → Job → State) : State :=
  match blockArgs j with
  | none => s
  | some a =>
    let s := fetchLeaves s a
    if leavesFetching s a.volume a.lba a.count then waitLib s id j (.mapReads a.volume a.lba a.count) w else go s id j

/-- Every job that held an extent in the part cut off has ended: the effective TB is fixed and the change recorded (R95). -/
def fixCut (s : State) (id : Nat) (j : Job) (v : Nat) : State :=
  match (tabGet s.volumes v).bind (·.cut) with
  | none => s
  | some c =>
    let (s, tb) := effectiveTb s j.slate
    let item : TableItem := .volume v (if c.size = 0 then none else some c.size)
    let (s, ok) := askCommit s id
    if !ok then s
    else
      let s := { s with volumes := tabMod s.volumes v fun x => { x with cut := some { c with tb := some tb } } }
      let (s, q) := addTableGroup s [item]
      waitLib s id j (.record 0 q) (.finish St.ok [BitVec.ofNat 64 tb])

/-- The manifest record is confirmed and the image is on every slate: the effective TB is fixed and returned (R45). -/
def fixCutover (s : State) (id : Nat) (j : Job) : State :=
  match s.cutover with
  | none => s
  | some c =>
    let (s, tb) := effectiveTb s j.slate
    endLib { s with cutover := some { c with tb := some tb } } id St.ok [BitVec.ofNat 64 tb]

/-- A job that has just got a thread goes on. -/
def goOn (s : State) (id : Nat) : State :=
  match jobOf s id with
  | none => s
  | some j =>
    let w := j.onWake
    let j := { j with onWake := .resume }
    let s := putJob s id j
    match w with
    | .resume => s
    | .finish st words => endLib s id st words
    | .finishTb => endLib s id St.ok [BitVec.ofNat 64 (now s j.slate)]
    | .readMapped => readMapped s id j
    | .compareMapped b => compareMapped s id j b
    | .deallocMapped => deallocMapped s id j
    | .sendBlocks lost => sendBlocks s id j lost
    | .compare buf lost => compareBlocks s id j buf lost
    | .cutVolume v => fixCut s id j v
    | .cutProgram => fixCutover s id j

end Sys2Proof.Machine
end

