-- ==== Sys2Proof/Machine/SysInsns.lean ====
section
/-! DEFINITION. Events, counters, state and job control: EVW, EVS, PMC, GETS, YIELD, DONE, FAIL, TRAP (R71, R72, R75 to
R77). CGET, CSET and CSWAP are in CtlInsns.lean. -/

namespace Sys2Proof.Machine

/-! ### Events (R39, R71, R72) -/

/-- The value `EVW` returns on expiry. -/
def evwExpired : Word := BitVec.allOnes 64

/-- The event a housekeeping thread's `EVW` would return: pending, routed to it, chosen by its own pointer (R39). -/
def evwPick (s : State) (sl n : Nat) : Option Nat :=
  rotPick (tabGetD s.ptrs (ptrEvent sl n) 0) 2048 fun e =>
    isF s sl (fPend e) && (match occOf s sl e with | some o => o.mode == 1 && o.target == n | none => false)

/-- A housekeeping program has returned from `EVW`: nothing retired or freed before is held for it any longer (R175). -/
def releaseHold (s : State) (id : Nat) : State :=
  { s with
    courses := tabMapV s.courses fun _ c => { c with holdJobs := c.holdJobs.filter (· != id) }
    spareHeld := s.spareHeld.map fun x => (x.1, x.2.1, x.2.2.filter (· != id)) }

/-- `EVW` returns an event: its PEND clears, and the housekeeping program has returned from `EVW` (R39, R175). -/
def evwReturn (s : State) (sl n e id : Nat) : State :=
  let s := granted s (ptrEvent sl n) e 2048
  let s := setF s sl (fPend e) 0
  releaseHold { s with evPend := tabDel s.evPend (evKey sl e) } id

/-- EVW (R71). -/
def execEvw (o : RForm) (s : State) : Out :=
  onThread o.t s fun s => issue o.t s 1 (o.b == 0 && o.minor == 0) true fun s id j =>
    let t := (rd j o.a).toNat
    let deadline := if t = 0 then none else some (now s j.slate + t)
    match j.kind with
    | .housekeeping n =>
      match evwPick s j.slate n with
      | some e => finish (evwReturn s j.slate n e id) id (wr j o.d (BitVec.ofNat 64 e)) 1
      | none => suspendJob s id j (.event deadline) o.d
    | _ =>
      if t = 0 then finish s id (wr j o.d evwExpired) 1
      else suspendJob s id j (.event deadline) o.d

/-- EVS (R41, R72): sources 0x20 to 0x2F for KEEP only, 0x30 to 0x3F for both. -/
def execEvs (o : IForm) (s : State) : Out :=
  let src := o.imm.toNat % 64
  onThread o.t s fun s => issue o.t s 1 (o.d == 0 && o.a == 0 && o.imm.toNat / 64 == 0) false fun s id j =>
    if j.keep && decide (src < 0x20) then trapJob s id St.illegalField
    else if !j.keep && decide (src < 0x30) then trapJob s id St.rights
    else finish (raise s j.slate (eventNo 2 src)) id j 1

/-! ### PMC and GETS (R75, R76, R332) -/

/-- A slate counter as `PMC` returns it: VALUE in [47:0], OVF in [48] (R332). -/
def pmcCounter (s : State) (sl k : Nat) : Word :=
  BitVec.ofNat 64 (getF s sl (F.PERF.VALUE k) + getF s sl (F.PERF.OVF k) * 2 ^ 48)

/-- PMC (R75): the counts of CLK_E cycles are free values.
DESIGN CHOICE (log entry 8). -/
def execPmc (o : RForm) (s : State) : Out :=
  onThread o.t s fun s => issue o.t s 1 (o.b == 0 && o.minor == 0) false fun s id j =>
    let a := (rd j o.a).toNat
    let out (v : Word) : State := finish s id (wr j o.d v) 1
    if 65536 ≤ a then out 0
    else if a = 0 then out (BitVec.ofNat 64 j.executed)
    else if a = 1 ∨ a = 2 then finish (takeFree s) id (wr j o.d (freeVal s)) 1
    else if a = 3 then out (BitVec.ofNat 64 j.suspends)
    else if 0x1000 ≤ a ∧ a ≤ 0x100F then
      if j.keep then out (pmcCounter s j.slate (a - 0x1000)) else trapJob s id St.rights
    else out 0

/-- The value of a `GETS` selector (R76). -/
def getsValue (s : State) (j : Job) (sel : Nat) : Word :=
  match sel with
  | 0 => j.jid
  | 1 => if isHk j then 0 else BitVec.ofNat 64 j.budget
  | 2 => flagWord j
  | 3 => BitVec.ofNat 64 j.slate
  | 4 => BitVec.ofNat 64 (threadOf j)
  | 5 => BitVec.ofNat 64 (now s j.slate)
  | _ => BitVec.ofNat 64 s.n

/-- GETS (R76): selectors above 6 are illegal field values. -/
def execGets (o : IForm) (s : State) : Out :=
  onThread o.t s fun s => issue o.t s 1 (o.a == 0 && decide (o.imm.toNat ≤ 6)) false fun s id j =>
    finish s id (wr j o.d (getsValue s j o.imm.toNat)) 1

/-! ### Job control (R36, R77) -/

/-- YIELD: the job joins the tail of the resume queue; on a housekeeping thread it completes at once. -/
def execYield (o : RForm) (s : State) : Out :=
  onThread o.t s fun s => issue o.t s 1 (o.d == 0 && o.a == 0 && o.b == 0 && o.minor == 0) false fun s id j =>
    if isHk j then finish s id j 1
    else toResume (suspendJob s id j .none 0) id

/-- DONE: the status is gA[15:0] and the result words are g1 to g4. -/
def execDone (o : RForm) (s : State) : Out :=
  onThread o.t s fun s => issue o.t s 1 (o.d == 0 && o.b == 0 && o.minor == 0) false fun s id j =>
    endJob s id (respOf ((rd j o.a).setWidth 16) (resultWords j)) false

/-- FAIL: as DONE, a status of 0 replaced by ILLEGAL_FIELD. -/
def execFail (o : RForm) (s : State) : Out :=
  onThread o.t s fun s => issue o.t s 1 (o.d == 0 && o.b == 0 && o.minor == 0) false fun s id j =>
    let st : Status := (rd j o.a).setWidth 16
    endJob s id (respOf (if st = 0 then St.illegalField else st) (resultWords j)) false

/-- TRAP: traps with imm16, 0 giving ILLEGAL_FIELD. -/
def execTrap (o : IForm) (s : State) : Out :=
  onThread o.t s fun s => issue o.t s 1 (o.d == 0 && o.a == 0) false fun s id _ =>
    trapJob s id (if o.imm = 0 then St.illegalField else o.imm)

end Sys2Proof.Machine
end

