-- ==== Sys2Proof/Machine/JobCmds.lean ====
section
/-! DEFINITION. The commands of jobs, threads and events (R22, R25, R26, R33, R35 to R40). -/

namespace Sys2Proof.Machine

/-! ### Resumption (R25) -/

/-- A wait is over: the job as its instruction completes it. A job that keeps its thread goes on in place; another joins
the resume queue (R25, R26, R37). -/
def wake (s : State) (id : Nat) (j : Job) : State :=
  let s := sampleAfter (putJob s id { j with wait := .none }) id
  match j.phase with
  | .suspended => toResume s id
  | _ => s

/-- The completion a suspended job waits for, if it has come (R25). -/
def resumeJob (s : State) (id : Nat) (j : Job) : State :=
  match j.wait with
  | .payload b lo hi => if arrived s b lo hi then wake s id j else s
  | .ticket t =>
    match (tabGet j.tickets t).bind (·.result) with
    | some w => wake s id (collect j j.dst t w)
    | none => s
  | .appendPayload a =>
    if arrived s a.buf a.off (a.off + a.count * 4096) then doAppend (putJob s id { j with wait := .courses }) id j.slate a
    else s
  | .courses => if appendsDone s id then wake s id { ret j j.dst (j.result.getD St.ok) with result := none } else s
  | .record o q =>
    if recSettled s o q then wake s id (if j.phase = .suspended ∨ isHk j then ret j j.dst St.ok else j) else s
  | .hazard i =>
    if (extraHaz s id).any fun h => h.id == i && hazBlocked s h then s else wake s id (retWith j j.dst St.ok i)
  | .reads => if readsDone j then wake s id j else s
  | .mapGet v lba =>
    match j.result with
    | some st => wake s id { ret j j.dst st with result := none }
    | none => if nodeCached s v 0 (lba / 512) then wake s id (mgetNow s j j.dst v lba) else needLeaf s v lba
  | .mapSet v lba x =>
    match j.result with
    | some st => wake s id { ret j j.dst st with result := none }
    | none => if nodeCached s v 0 (lba / 512) then msetNow s id v lba x else needLeaf s v lba
  | .mapReads v lba count => if leavesFetching s v lba count then s else wake s id j
  | .volumeJobs v =>
    match (tabGet s.volumes v).bind (·.cut) with
    | some c => if c.hold.all fun x => !tabHas s.jobs x then wake s id j else s
    | none => wake s id j
  | _ => s

/-- JOB_RESUME (R25). -/
def execJobResume (job : Nat) (s : State) : Out :=
  onUnit s fun s => match jobOf s job with
    | some j => if j.ended.isSome || !serving s j.slate then s else resumeJob s job j
    | none => s

/-! ### Threads (R26, R42) -/

/-- Whether a job thread is free. -/
def threadFree (s : State) (sl i : Nat) : Bool := !isHkIdx i && !tabHas s.threads (sl * 192 + i)

/-- Put a job on a thread; a library program goes on there after its wait. -/
def placeJob (s : State) (id : Nat) (j : Job) (t : Nat) : State :=
  let s := { s with threads := tabPut s.threads (j.slate * 192 + t) id }
  goOn (putJob s id { j with phase := .running t }) id

/-- THREAD_TAKE_WORK (R26): the head of the resume queue, else of the dispatch queue, on the thread the rotating pointer
gives. In PS2 job threads are stopped (R98). -/
def execThreadTakeWork (slate : Nat) (s : State) : Out :=
  onSlate slate s fun s =>
    if s.power.now = 2 then s
    else
      let rq := tabGetD s.resumeQ slate []
      let dq := tabGetD s.dispatchQ slate []
      match rotPick (tabGetD s.ptrs (ptrThread slate) 0) 192 (threadFree s slate), rq, dq with
      | some t, id :: r, _ =>
        let s := granted { s with resumeQ := tabPut s.resumeQ slate r } (ptrThread slate) t 192
        (match jobOf s id with | some j => placeJob s id j t | none => s)
      | some t, [], id :: r =>
        let s := granted { s with dispatchQ := tabPut s.dispatchQ slate r } (ptrThread slate) t 192
        (match jobOf s id with | some j => placeJob s id j t | none => s)
      | _, _, _ => s

/-- COMMAND_DISPATCH (R22, R142, R144). -/
def execCommandDispatch (hq tag : Nat) (s : State) : Out := onSlate (hqSlate hq) s fun s => tryDispatch s hq tag

/-- BUDGET_EXHAUSTED (R33): an instruction due to issue on a job thread with BUDGET at zero does not execute, and the job
ends. -/
def execBudgetExhausted (t : Thread) (s : State) : Out :=
  onThread t s fun s => match jobOn s t with
    | none => s
    | some id => match jobOf s id with
      | none => s
      | some j =>
        if canIssue j && !isHk j && j.budget == 0 then
          trapJob (granted s (ptrIssue t.slate (t.idx / 4)) (t.idx % 4) 4) id St.budget
        else s

/-! ### The end of a job (R35 to R37) -/

/-- Whether a job's outstanding work is done (R35): drive commands, appends and transfers. -/
def workDone (s : State) (id : Nat) (j : Job) : Bool :=
  (j.tickets.all fun t => t.2.result.isSome) && appendsDone s id && (s.frames.all fun f => f.2.job != some id)

/-- Drop a job's frame, buffers and hazard entries (R29, R146). -/
def freeJob (s : State) (id : Nat) (j : Job) : State :=
  let s := releaseJob s id
  { freeBufs s j.buffers with jobs := tabDel s.jobs id }

/-- A housekeeping program's work is done: its thread is free, idle or with a restart still to come (R37). -/
def hkEnded (s : State) (j : Job) (n : Nat) : State :=
  { s with threads := tabDel s.threads (threadKey (hkThread j.slate n)) }

/-- A command job reaches ENDED: its RESPONSE is recorded and sent (R36, R147), unless it is detached (R150)
or its context was lost (R154). The tag of a spilled context is fetched first (R136). -/
def jobEnded (s : State) (id : Nat) (j : Job) (e : JobEnd) : State :=
  match j.kind with
  | .housekeeping n => hkEnded (freeJob s id j) j n
  | .launched => freeJob s id j
  | .command =>
    if j.detached then freeJob s id j
    else match queueAt s j.hq with
      | none => freeJob s id j
      | some q =>
        if !q.resident then
          startFetch s j.hq false
        else match (tagAt q j.tag).job == some id, (tagAt q j.tag).cmd with
          | true, some c => recordResp (freeJob s id j) j.hq j.tag j.nonce e.resp c none
          | _, _ => freeJob s id j

/-- JOB_ENDED (R35). -/
def execJobEnded (job : Nat) (s : State) : Out :=
  onUnit s fun s => match jobOf s job with
    | some j => match j.ended with
      | some e => if workDone s job j && serving s j.slate then jobEnded s job j e else s
      | none => s
    | none => s

/-- HK_TRAP_RESTART (R37): the program restarts 1 ms after its trap if HK_EN is 1, else the thread becomes idle. -/
def execHkTrapRestart (slate n : Nat) (s : State) : Out :=
  onSlate slate s fun s => match tabGet s.hkRestart (slate * 8 + n) with
    | none => s
    | some t =>
      if now s slate < t || tabHas s.threads (threadKey (hkThread slate n)) then s
      else if isF s slate (F.ENGINE.HK_EN n) then hkStart s slate n
      else { s with hkRestart := tabDel s.hkRestart (slate * 8 + n) }

/-- Housekeeping program `n` is stopped and its thread restarted or made idle, with HK_EN as it now stands (R37). Work it
has outstanding is waited for first (R35). -/
def hkRestartNow (s : State) (sl n : Nat) : State :=
  let s := setF s sl (F.ENGINE.HK_TRAPS n) 0
  let key := threadKey (hkThread sl n)
  match tabGet s.threads key with
  | none =>
    let s := { s with hkRestart := tabDel s.hkRestart (sl * 8 + n) }
    if isF s sl (F.ENGINE.HK_EN n) then hkStart s sl n else s
  | some id => match jobOf s id with
    | none => { s with threads := tabDel s.threads key }
    | some j =>
      let s := settleSample s sl id 2 0 j.slot j.keep true j.jid
      let en := isF s sl (F.ENGINE.HK_EN n)
      if workDone s id j then
        let s := freeJob { s with threads := tabDel s.threads key, hkRestart := tabDel s.hkRestart (sl * 8 + n) } id j
        if en then hkStart s sl n else s
      else
        let s := endJob s id (respOf 0 [0, 0, 0, 0]) false
        { s with hkRestart := if en then tabPut s.hkRestart (sl * 8 + n) (now s sl) else tabDel s.hkRestart (sl * 8 + n) }

/-! ### Events (R38 to R40, R71) -/

/-- EVW_EVENT_RETURN (R39). -/
def execEvwEventReturn (slate n : Nat) (s : State) : Out :=
  onSlate slate s fun s => match jobOn s (hkThread slate n) with
    | none => s
    | some id => match jobOf s id with
      | none => s
      | some j => match j.wait, evwPick s slate n with
        | .event _, some e =>
          if j.ended.isSome then s
          else wake (evwReturn s slate n e id) id (wr j j.dst (BitVec.ofNat 64 e))
        | _, _ => s

/-- EVW_TIMEOUT (R39, R71): an event pending in the same cycle is returned in place of the timeout. -/
def execEvwTimeout (job : Nat) (s : State) : Out :=
  onUnit s fun s => match jobOf s job with
    | none => s
    | some j => match j.wait with
      | .event (some t) =>
        if j.ended.isSome || decide (now s j.slate < t) || !serving s j.slate then s
        else match j.kind with
          | .housekeeping n => match evwPick s j.slate n with
            | some e => wake (evwReturn s j.slate n e job) job (wr j j.dst (BitVec.ofNat 64 e))
            | none =>
              wake (releaseHold s job) job (wr j j.dst evwExpired)
          | _ => wake s job (wr j j.dst evwExpired)
      | _ => s

/-- Launch frames in use on a slate (R40). -/
def launchBusy (s : State) (sl : Nat) : Nat := jobCount s sl fun j => j.kind == .launched

/-- Whether a launch waits for an event: PEND is 1 and the occurrence was routed to a launch entry (R38, R40). -/
def launchDue (s : State) (slate event : Nat) : Bool :=
  isF s slate (fPend event) && (match occOf s slate event with | some o => o.mode == 2 | none => false)

/-- The launch of a pending occurrence takes its frame, or is abandoned (R40). -/
def launch (s : State) (slate event : Nat) (o : Occurrence) : State :=
  let en := isF s slate (F.ENGINE.L_EN (o.target % 16))
  let s := setF s slate (fPend event) 0
  let s := { s with evPend := tabDel s.evPend (evKey slate event) }
  let fail : State := if event = Ev.LAUNCH_FAIL then s else detect s slate Ev.LAUNCH_FAIL []
  if !en || isHkSlot o.slot then fail
  else match slotProg s o.slot with
    | none => fail
    | some (v, p) =>
      let j := { freshJob .launched slate o.slot v p.keep (startBudget s slate p) with
        g := tabSet 0 (tabSet 0 [] 1 (BitVec.ofNat 64 event)) 11 (BitVec.ofNat 64 o.tb) }
      let (s, id) := addJob s j
      countSrc (toDispatch s id) slate srcDispatch 1

/-- EVENT_LAUNCH (R40). -/
def execEventLaunch (slate event : Nat) (s : State) : Out :=
  onSlate slate s fun s => match occOf s slate event with
    | some o => if !launchDue s slate event || decide (256 ≤ launchBusy s slate) then s else launch s slate event o
    | none => s

end Sys2Proof.Machine
end

