-- ==== Sys2Proof/Machine/Faults.lean ====
section
/-! DEFINITION. Frames around a down link, the loss of a slate, the unit stop, and what each detector's occurrence does beyond its
record (R230, R282, R315 to R325). -/

namespace Sys2Proof.Machine

/-! ### Frames around down links (R230, R235) -/

/-- Give a unicast frame whose path uses a down link a new path from the slate before that link; a frame that no path is
left for is discarded (R230, R235). -/
def repathFrame (s : State) (id : Nat) : State :=
  match tabGet s.frames id with
  | none => s
  | some f =>
    let up (h : Nat × Nat) : Bool := linkUp s h.1 h.2
    if f.path.all up then s
    else
      let pre := f.path.takeWhile up
      let a := match f.path.dropWhile up with | (x, _) :: _ => x | [] => f.slate
      match pathOf s a f.dst (flowHash f.key (getF s a F.SWITCH.FLOW_SEED)) with
      | none => discardFrame (bump s f.slate (if f.mask ≠ 0 then F.SWITCH.MC_DISCARDS else F.SWITCH.LOST_DEST_DROPS)) id
      | some (p, lane) =>
        if !pre.isEmpty then { s with frames := tabPut s.frames id { f with path := pre ++ p, lane := max f.lane lane } }
        else
          let s := f.outs.foldl (fun s o => unqueue s f.slate o.1 o.2 f.cls id) s
          let f := { f with path := p, lane := max f.lane lane }
          queueFrame { s with frames := tabPut s.frames id { f with outs := [nextOut f] } } id

/-- A multicast copy toward a link that is down takes another link to that neighbour; where there is none, each of its slates gets a
copy of its own (R230, R237). -/
def repathMcast (s : State) (id : Nat) : State :=
  match tabGet s.frames id with
  | none => s
  | some f =>
    (f.outs.filter fun o => 10 ≤ o.1 && o.1 ≤ 13 && !linkUp s f.slate (o.1 - 10)).foldl (fun s o =>
      let b := linkNeigh s.n f.slate (o.1 - 10)
      let m := branchMask s f o
      let s := unqueue s f.slate o.1 o.2 f.cls id
      match linkTo s f b with
      | some l =>
        let outs := fun (g : Frame) => { g with outs := g.outs.map fun x => if x = o then (10 + l, 0) else x }
        joinQueue { s with frames := tabMod s.frames id outs } f.slate (10 + l) 0 f.cls id
      | none => dropCopy ((bitList m 8).foldl (fun s x => mcastAlone s f x) s) id o) s

/-- Re-path every frame after a link or slate has gone. -/
def repathAll (s : State) : State :=
  (tabKeys s.frames).foldl (fun s id => match tabGet s.frames id with
    | none => s
    | some f => if isTree f then repathMcast s id else repathFrame s id) s

/-- Declare a fabric link down at both its ends (R230). -/
def linkDead (s : State) (sl l : Nat) : State :=
  let p := linkNeigh s.n sl l
  let dead : LinkState := { up := false, retrain := none }
  { s with links := tabPut (tabPut s.links (linkKey sl l) dead) (linkKey p (peerLink s.n l)) dead }

/-- The first detail word of FLINK_DOWN (R241). -/
def linkDetail (s : State) (sl l : Nat) : List Word := [BitVec.ofNat 64 (l + 16 * linkNeigh s.n sl l)]

/-- Declare a fabric link down, counted and reported at each end that serves (R230, R241). -/
def linkDown (s : State) (sl l : Nat) : State :=
  let hit (s : State) (a k : Nat) : State :=
    if serving s a then detect (bump s a (F.FABRIC.DOWNS k)) a Ev.FLINK_DOWN (linkDetail s a k) else s
  if !(linkOf s sl l).up then s
  else hit (hit (linkDead s sl l) sl l) (linkNeigh s.n sl l) (peerLink s.n l)

/-! ### The unit stop (R321) -/

/-- Latch class 4 (R321): the capture, the pin, the event.
DEDUCED (log entry 95). -/
def latchC4 (s : State) (sl e : Nat) (inj : Bool) : State :=
  if isF s 0 F.FPIN.C4 then s
  else
    let s := setF s 0 F.FPIN.C4 1
    let s := setF s 0 F.FPIN.C4_INJ inj.toNat
    let s := setF s 0 F.FPIN.C4_SLATE sl
    let s := setF s 0 F.FPIN.C4_EVENT e
    let s := setF s 0 F.FPIN.C4_TB (now s 0)
    raise s 0 Ev.C4_LATCHED

/-- A class 4 occurrence (R321): the data path stops, the lease is released with no drain, and the unit counts as one that
has not sent READY and has passed PAUSE_MAX. -/
def unitStop (s : State) (sl e : Nat) (inj : Bool) : State :=
  if isF s 0 F.FPIN.C4 then s
  else
    let s := latchC4 s sl e inj
    let s := if s.lease.role = 1 then unregister s else s
    { modLease s (fun l => { l with role := 3, round := none, draining := none, retryAt := none }) with
      pauseBoot := []
      ready := { s.ready with left := 0, timedOut := true } }

/-! ### Loss of a slate (R10, R319, R320) -/

/-- The substitute of a slate: the first serving slate in the list of R319. -/
def substitute (s : State) (x : Nat) : Option Nat :=
  [x ^^^ 1, x ^^^ (s.n / 2), (x ^^^ (s.n / 2)) ^^^ 1].find? fun y => y != x && serving s y

/-- Everything a slate held that goes with it (R320 steps 1 and 3): its jobs and threads, its queues' commands, its copies,
its frames and caches, and the HBM of its home (R284). -/
def dropSlate (s : State) (x : Nat) : State :=
  let mine (t : Tab Nat) (d : Nat) : Tab Nat := t.filter fun p => p.1 / d != x
  let s := (keysWhere s.frames fun f => f.slate == x).foldl (fun s id => match tabGet s.frames id with
    | none => s
    | some f => { settleFrame s f with frames := tabDel s.frames id }) s
  let gone := keysWhere s.frames fun f => f.dst == x && f.group.isNone
  let s := gone.foldl (fun s id => match tabGet s.frames id with
    | none => s
    | some f => discardFrame (bump s f.slate F.SWITCH.LOST_DEST_DROPS) id) s
  { s with
    jobs := s.jobs.filter fun p => p.2.slate != x
    threads := mine s.threads 192
    hazards := s.hazards.filter fun h => hqSlate h.hq != x
    hazPast := s.hazPast.filter fun h => hqSlate h.hq != x
    fetching := s.fetching.filter fun q => hqSlate q != x
    ctxRef := s.ctxRef.filter fun q => hqSlate q != x
    queues := s.queues.filter fun p => hqSlate p.1 != x
    windows := s.windows.filter fun p => hqSlate p.1 != x
    copies := tabDel s.copies x
    dispatchQ := tabDel s.dispatchQ x
    resumeQ := tabDel s.resumeQ x
    park := tabDel s.park x
    heldDg := tabDel s.heldDg x
    bufWait := tabDel s.bufWait x
    pausePark := s.pausePark.filter fun p => p.1 / 8 != x && p.1 % 8 != x
    hbm := s.hbm.filter fun p => memHome p.1 != x
    poison := s.poison.filter fun a => memHome a != x
    scLines := s.scLines.filter fun p => p.1 / 524288 != x
    victim := tabDel s.victim x
    dcLines := s.dcLines.filter fun p => p.1 / 1024 / 48 != x && p.2 / 2 ^ 31 != x
    icLines := s.icLines.filter fun p => p.1 / 512 / 48 != x }

/-- The holders other than the owner itself that acknowledged a record and survive. -/
def survives (s : State) (o : Nat) (r : Rec) : Bool :=
  r.acks.any fun p => p == 3 && standbyServes s || p != 1 && p != 3 && serving s (holderSlate s.n o p)

/-- The journal of a lost owner as its surviving copies hold it: every record on any of them stands (R320 step 4). -/
def lostOwner (s : State) (x : Nat) : State :=
  let w := ownerOf s x
  let kept := w.recs.takeWhile fun r => r.confirmed || survives s x r
  let recs := kept.map fun r => { r with confirmed := true }
  let closed (r : Rec) : Bool := recs.any fun c => match c.body with
    | .commit _ first count _ _ => decide (first ≤ r.seq) && decide (r.seq < first + count)
    | _ => false
  let s := putOwner s x { w with
    recs := recs, waiting := [], seq := match recs.getLast? with | some r => r.seq | none => w.trim - 1 }
  let s := (kept.filter fun r => !r.confirmed).foldl (fun s r => confirmRec s x r) s
  trimRecs s x fun r => r.grp && !closed r

/-- Put the grains of a discarded course of a lost slate back where they came from (R320 step 4): those of jobs on other
slates, each job's together, and what the map lead had been given by slate `y` now, are appended again. -/
def reappend (s : State) (y : Nat) (c : Course) : State :=
  let host := c.grains.filter fun g => !g.dead && (match g.kind with | .host => true | _ => false)
  let rest := c.grains.filter fun g => !g.dead &&
    (match g.kind with | .node _ => true | .summary _ => true | .log _ => true | _ => false)
  let s := (host.filterMap (·.job)).eraseDups.foldl (fun s id => match jobOf s id with
    | some j => appendTo s 0 j.slate (host.filter fun g => g.job == some id) true
    | none => s) s
  appendTo s 2 y rest false

/-- Whether a course of a lost slate is DURABLE by its COMMIT on a surviving copy (R202). -/
def lostCommitted (s : State) (x : Nat) (c : Course) : Bool := match c.comSeq with | some q => recConfirmed s x q | none => false

/-- Whether a course of a lost slate has a COURSE record on a surviving copy (R202). -/
def lostRecorded (s : State) (x : Nat) (c : Course) : Bool := match c.recSeq with | some q => recConfirmed s x q | none => false

/-- Resolve one course that a lost slate's tundish held (R320 step 4, R202); the COURSE record of one that is discarded is
trimmed (R196). -/
def resolveLost (s : State) (x y k : Nat) : State :=
  match courseOf s k with
  | none => s
  | some c =>
    if lostCommitted s x c then s
    else
      let s := c.strips.foldl (fun s p => dropCmds s p.2.member fun d => d.use == .strip k p.1) s
      let s := if lostRecorded s x c then
          modCourse s k fun c => { c with
            st := .retired, slate := y, grains := [], live := 0, holdJobs := tabKeys s.jobs, comSeq := none, ucn := none }
        else { s with courses := tabDel s.courses k }
      let s := match c.recSeq with | some q => trimRecs s x fun r => r.seq == q | none => s
      reappend s y c

/-- Resolve every course that a lost slate's tundish held; in a zoned pool the run of one that is discarded after its COURSE record
is closed (R167, R202). -/
def resolveTundish (s : State) (x y : Nat) : State :=
  let held := s.courses.filter fun p => p.2.slate == x && inTundish p.2
  let closing := (held.filter fun p => lostRecorded s x p.2 && !lostCommitted s x p.2).map (·.1)
  let s := match s.layout with | some l => closeRuns s l closing | none => s
  let again := s.repourWait.filter fun c => c.slate == x
  let s := { s with repourWait := s.repourWait.filter fun c => c.slate != x }
  again.foldl (fun s c => reappend s y c) (held.foldl (fun s p => resolveLost s x y p.1) s)

/-- Skip the UCNs that a lost slate drew and no surviving copy holds, so that the order of R195 can go on. -/
def skipUcn (s : State) (x : Nat) (drawn : List Nat) : State :=
  let held := (ownerOf s x).recs.map fun r => recUcn r.body
  let gone := drawn.filter fun u => u != 0 && !held.contains u
  (List.range (gone.length + 1)).foldl (fun s _ =>
    if gone.contains (s.ucnDone + 1) then drainUcn (recTotal s) { s with ucnDone := s.ucnDone + 1 } else s) s

/-- Pack every record of a lost owner that can be (R320 step 6). -/
def packLost : Nat → State → Nat → State
  | 0, s, _ => s
  | n + 1, s, x =>
    let l := (packable s x).take 64
    if l.isEmpty then s else packLost n (packRecs s x l) x

/-- The substitute becomes the home of every map grain homed on the lost slate (R320 step 6): it reads the interior ones at once,
and a leaf at its first access. -/
def takeNodes (s : State) (x y : Nat) : State :=
  let mine (k : Nat) : Bool := nodeHome s.n (nodeVol k) (nodeIndex k) == x
  let s := { s with leaves := tabMapV s.leaves fun k n => if mine k then { n with cached := false } else n }
  match s.layout with
  | none => s
  | some l => (s.leaves.filter fun p => mine p.1 && decide (0 < nodeLevel p.1) && entryPgn p.2.ptr != 0).foldl (fun s p =>
      let (k, g) := grainOf l (entryPgn p.2.ptr)
      startRead s y k [g] (.node (nodeVol p.1) (nodeLevel p.1) (nodeIndex p.1))) s

/-- Slate `x` is lost (R320): `y` is its substitute. Its drive ports drive PERST_N low (R371).
DEDUCED (log entry 98). -/
def loseSlate (s : State) (x y : Nat) : State :=
  let s := portDown (if ptpSlate s = some x then holdOver s x else s) x
  let owners := (servingSlates s).filter fun o => o != x
  let held := owners.filterMap fun o =>
    (((ownerOf s o).holders.filter fun p => p != 1 && p != 3 && holderSlate s.n o p == x).head?).map fun p => (o, p)
  let drawn := ((ownerOf s x).recs.map fun r => recUcn r.body) ++ s.courses.filterMap fun p => if p.2.slate = x then p.2.ucn else none
  let off := fun (m : Nat) (d : Member) => if memberSlate m = x then { d with perst := true } else d
  let s := (List.range 4).foldl (fun s l => linkDown s x l) { s with lost := tabPut s.lost x y, members := tabMapV s.members off }
  let s := forSlates (servingSlates s) (fun s sl => raise s sl Ev.SLATE_LOST) s
  let s := repathAll (dropSlate s x)
  let s := lostOwner s x
  let take := fun (_ : Nat) (ld : Lead) =>
    if ld.slate = x then { ld with slate := y, ordinal := none, handover := true } else ld
  let s := { s with leads := tabMapV s.leads take }
  let s := { s with reads := tabMapV s.reads fun _ r => if r.slate = x then { r with slate := y } else r }
  let s := resolveTundish s x y
  let s := held.foldl (fun s p => holderLost s p.1 p.2) s
  let s := forSlates (servingSlates s) refreshHolders s
  let s := takeNodes s x y
  let s := packLost (ownerOf s x).recs.length (skipUcn s x drawn) x
  if standbyServes s then detect s 0 Ev.PROXY [] else s

/-- Slates are lost in turn: each that no path from slate 0 reaches once another is lost raises SLATE_UNREACH and is lost as well
(R230). -/
def loseSlates : Nat → State → Nat → Nat → State
  | 0, s, _, _ => s
  | k + 1, s, x, y =>
    let s := loseSlate s x y
    match (servingSlates s).find? fun b => b != 0 && (pathOf s 0 b 0).isNone with
    | none => s
    | some b =>
      let s := detect s 0 Ev.SLATE_UNREACH [BitVec.ofNat 64 b]
      match substitute s b with
      | none => unitStop s 0 Ev.SLATE_UNREACH false
      | some z => loseSlates k s b z

/-- A class 3 occurrence (R10, R319): without a substitute, and for slate 0, it is class 4. -/
def slateLost (s : State) (x sl e : Nat) (inj : Bool) : State :=
  if s.n ≤ x || tabHas s.lost x then s
  else if x = 0 then unitStop s sl e inj
  else match substitute s x with
    | none => unitStop s sl e inj
    | some y => loseSlates 8 s x y

/-- The slate a class 3 detector names (R319). -/
def lostBy (sl e : Nat) (detail : List Word) : Nat :=
  if e = Ev.SLATE_UNREACH then (detail.headD 0).toNat % 8 else sl

/-- A detector is hit for a real cause, with the unit reaction of its class (R315). -/
def detectFull (s : State) (sl e arg : Nat) (detail : List Word) : State :=
  let s := detectAt s sl e arg detail
  match detClass e with
  | some 3 => slateLost s (lostBy sl e detail) sl e false
  | some 4 => unitStop s sl e false
  | _ => s

/-- Report every slate that the links left do not reach from slate `sl` (R230). -/
def checkReach (s : State) (sl : Nat) : State :=
  ((servingSlates s).filter fun b => b != sl && (pathOf s sl b 0).isNone).foldl (fun s b =>
    if serving s b then detectFull s sl Ev.SLATE_UNREACH 0xFFFF [BitVec.ofNat 64 b] else s) s

end Sys2Proof.Machine
end

