-- ==== Sys2Proof/Machine/Secure.lean ====
section
/-! DEFINITION. The secure block: program images and measurements, the measurement log, the operations of the secure
mailbox, and the destruction of the data key (R339 to R357). -/

namespace Sys2Proof.Machine

/-! ### Program images and measurements (R90, R99, R346) -/

/-- The bytes of a program image before its signature (R99, R355). -/
def imageBytes (p : Program) : Block :=
  leBytes 4 1 ++ leBytes 2 p.slot ++ leBytes 1 p.keep.toNat ++ leBytes 1 p.key ++ leBytes 4 p.budget ++
    leBytes 4 p.words.length ++ leBytes 2 p.version ++ leBytes 46 0 ++ p.words.flatMap fun w => leBytes 4 w.toNat

/-- The measurement of a program: SHAKE256 over its image (R346). -/
def measured (p : Program) : Program := { p with measure := shake256 (imageBytes p) 64 }

/-- The slots of the standard library, with whether each is at KEEP (R92, R95, R96, R98 to R103). -/
def librarySlots : List (Nat × Bool) :=
  [(0x000, false), (0x001, false), (0x002, false), (0x003, false), (0x004, false), (0x005, false), (0x010, true),
   (0x011, true), (0x012, true), (0x013, true), (0x020, true), (0x021, true), (0x022, true), (0x028, true), (0x030, true),
   (0x031, true), (0x032, true), (0x040, true), (0x041, true), (0x042, true), (0x0F8, true), (0x0F9, true), (0x0FA, true),
   (0x0FB, true), (0x0FC, true), (0x0FD, true), (0x0FE, true), (0x0FF, true)]

/-- The library program of a slot in a firmware release: its length, budget, version and words are those of the image in
the firmware body, which the manual does not list (R90). -/
def libraryProgram (release slot : Nat) (keep : Bool) : Program :=
  measured
    { slot := slot, keep := keep, key := 0, budget := Config.libBudget release slot
      version := Config.libVersion release slot % 2 ^ 12, words := Config.libWords release slot, extWords := [], measure := [] }

/-! ### The measurement log (R347) -/

/-- One 80-byte log entry. -/
def logEntry (kind index version priv key : Nat) (value : Block) : Block :=
  leBytes 1 kind ++ leBytes 1 0 ++ leBytes 2 index ++ leBytes 2 version ++ leBytes 1 priv ++ leBytes 1 key ++ leBytes 8 0 ++
    blockSlice value 0 64

/-- The programs the slots hold, in slot order. -/
def installedPrograms (s : State) : List Program := s.slots.filterMap fun p => tabGet s.progs p.2

/-- The entries of one kind, in index order. -/
def logKind (s : State) (kind : Nat) : List Block :=
  let x := s.secure
  match kind with
  | 0 => [logEntry 0 0 0 0 0 Config.romDigest]
  | 1 => [logEntry 1 0 x.fwSec 0 0 x.fwMeasure]
  | 2 => [logEntry 2 0 0 0 0 (leBytes 1 (lifecycle s) ++ leBytes 1 x.ownerEpoch ++ leBytes 1 x.fwMin ++
            leBytes 1 (x.bankB.toNat + 2 * x.fallback.toNat) ++ leBytes 4 0 ++ leBytes 8 Config.deviceId.toNat)]
  | 3 => x.custKeys.map fun p => logEntry 3 p.1 0 0 0 p.2
  | _ => (installedPrograms s).map fun p => logEntry 4 p.slot p.version p.keep.toNat p.key p.measure

/-- Measurement register k: SHAKE256 over the log entries of kind k. -/
def measReg (s : State) (k : Nat) : Block := shake256 (logKind s k).flatten 64

/-- The whole log. -/
def measLog (s : State) : List Block := (List.range 5).flatMap (logKind s)

/-! ### The data key (R352, R353) -/

/-- The JOB heap of every slate reads as zeros. -/
def zeroHeaps (s : State) : State :=
  let inHeap (a : Nat) : Bool :=
    let sl := memHome a
    decide (getF s sl F.ENGINE.HEAP_BASE * 2 ^ 20 ≤ memOff a) && decide (memOff a < getF s sl F.ENGINE.HEAP_LIMIT * 2 ^ 20)
  { s with hbm := s.hbm.filter fun p => !inHeap p.1 }

/-- The wraps of a new data key: for this module's bay, and for that of a partner that has been resynchronised (R353). -/
def wrapItems (s : State) : List TableItem :=
  (s.lease.bay :: if s.lease.resynced then [1 - s.lease.bay] else []).map fun b => .wrap b (s.secure.dataKey + 1)

/-- The data key before the one now held is destroyed, its wraps having been overwritten: what stands on the members no longer
decrypts (R352), the map cache is dropped and the JOB heaps are zeroed (R353).
DEDUCED (log entry 24). -/
def dropDataKey (s : State) : State :=
  let n := s.secure.dataKey - 1
  zeroHeaps { s with
    media := tabMapV s.media fun k _ => Config.staleBlock n k
    leaves := tabMapV s.leaves fun _ x => { x with cached := false } }

/-! ### Secure operations (R343 to R351, R356) -/

/-- The mailbox: address and length. -/
def mailbox (s : State) : Nat × Nat := (getF s 0 F.SECURE.SBUF_ADDR, getF s 0 F.SECURE.SBUF_LEN)

/-- The bytes of the input an operation copies; a longer mailbox is not all copied.
DEDUCED (log entry 100). -/
def inputLen (op : Nat) (b : Nat → Nat) : Nat :=
  match op with
  | 1 => 32
  | 3 => if b 6 = 0 then 96 else 29888
  | 4 => 1600
  | 5 => 128 + b 8 + 256 * b 9 + 65536 * b 10 + 16777216 * b 11 + 29792
  | _ => 0

/-- Whether the mailbox lies where S_OP demands (R357). -/
def mailboxOk (s : State) : Bool :=
  let (a, l) := mailbox s
  decide (memHome a = 0) && decide (a < deviceBase) && decide (1 ≤ l) && decide (a + l ≤ deviceBase)

/-- Writing S_OP 1 to 6 starts an operation, which first copies its input (R348). -/
def secureStart (s : State) (op : Nat) : State :=
  let (a, l) := mailbox s
  let n := inputLen op fun i => (hbmRead s (a + i) 1).headD 0 |>.toNat
  let input := if l < n then [] else hbmRead s a n
  { s with secure := { s.secure with op := some { op := op, input := input, wait := none } } }

/-- An operation ends (R348): status and length, S_BUSY clears, SOP_DONE. -/
def secureEnd (s : State) (st : Status) (len : Nat) : State :=
  raise { s with secure := { s.secure with op := none, status := st, len := len } } 0 Ev.SOP_DONE

/-- An operation writes its output, or reports the length it needs (R348). -/
def secureOutput (s : State) (b : Block) : State :=
  let (a, l) := mailbox s
  if l < b.length then secureEnd s St.outOfRange b.length
  else secureEnd (homeWrite s a b) St.ok b.length

/-- A signature refused: SIG_REJECT with S_OP and AUTH (R357). -/
def sigReject (s : State) (op auth : Nat) : State :=
  detect s 0 Ev.SIG_REJECT [BitVec.ofNat 64 (op + auth * 256)]

/-- The attestation report over a challenge (R349). -/
def attestReport (s : State) (challenge : Block) : Block :=
  let x := s.secure
  let log := measLog s
  let b := leBytes 4 1 ++ leBytes 1 (lifecycle s) ++ leBytes 1 x.ownerEpoch ++ leBytes 1 x.fwMin ++
    leBytes 1 (x.fallback.toNat + 2 * x.testImg.toNat) ++ leBytes 8 Config.deviceId.toNat ++
    leBytes 8 s.ready.bootId.toNat ++ leBytes 8 (now s 0) ++ leBytes 2 (ownUa s).toNat ++ leBytes 1 s.lease.bay ++
    leBytes 1 s.lease.role ++ leBytes 4 log.length ++ leBytes 8 0 ++ blockSlice challenge 0 32 ++
    (List.range 5).flatMap (measReg s) ++ blockSlice Config.attPublic 0 64 ++
    blockSlice (Config.kemKey s.ready.bootId) 0 1568 ++ log.flatten
  b ++ blockSlice (Config.attSign b) 0 49856

/-- The device certificate (R350). -/
def deviceCert : Block :=
  leBytes 4 1 ++ leBytes 4 0 ++ leBytes 8 Config.deviceId.toNat ++ blockSlice Config.attPublic 0 64 ++ leBytes 2 0x00B0 ++
    leBytes 46 0 ++ blockSlice Config.certSign 0 29792

/-- A little-endian field of an input. -/
def inField (b : Block) (off len : Nat) : Nat := leNat (blockSlice b off len)

/-- Whether bytes of an input are all zero. -/
def zeroAt (b : Block) (off len : Nat) : Bool := (blockSlice b off len).all (· == 0)

/-- The format of an authorisation record (R343, R344 step 1). -/
def authForm (b : Block) : Bool :=
  let op := inField b 4 1
  let key := inField b 5 1
  let auth := inField b 6 1
  !b.isEmpty && inField b 0 4 == 2 && decide (1 ≤ op) && decide (op ≤ 5) &&
    (if op ≤ 2 then decide (1 ≤ key) && decide (key ≤ 4) else key == 0) && (decide (auth ≤ 4) || auth == 0x80) &&
    zeroAt b 7 1 && zeroAt b 20 12 && (op == 1 || zeroAt b 32 64)

/-- Whether AUTH is accepted for OP in a lifecycle state (R343). -/
def authAccepted (lc op key auth : Nat) : Bool :=
  let customer := decide (1 ≤ auth) && decide (auth ≤ 4)
  match op, lc with
  | 1, 1 => auth == 0 || customer
  | 1, 2 => auth == 0
  | 1, 3 => customer
  | 2, 1 => customer
  | 2, 3 => customer && auth != key
  | 3, 3 => customer || auth == 0x80
  | 4, 1 => auth == 0
  | 4, 2 => auth == 0
  | 4, 3 => customer
  | 5, 1 => auth == 0x80
  | _, _ => false

/-- Whether an OP can apply (R344 step 5). -/
def authApplies (s : State) (op key : Nat) : Bool :=
  let keys := s.secure.custKeys
  match op with
  | 1 => !tabHas keys key
  | 2 => tabHas keys key && decide (1 < keys.length)
  | 3 => s.volumes.isEmpty && decide (s.secure.ownerEpoch < 15)
  | _ => true

/-- ENROL's checks in order (R344): the status of the first that fails. RELEASE, SCRAP and ADVANCE draw a data key, and
return BUSY_RETRY while the entropy source fails (R339). -/
def authCheck (s : State) (b : Block) (o : SecureOutcome) : Option Status :=
  let op := inField b 4 1
  let key := inField b 5 1
  let auth := inField b 6 1
  if !authForm b then some St.illegalField
  else if inField b 8 8 ≠ Config.deviceId.toNat ∨ inField b 16 4 ≠ s.secure.serial then some St.rights
  else if !authAccepted (lifecycle s) op key auth then some St.rights
  else if decide (1 ≤ auth) && decide (auth ≤ 4) && !tabHas s.secure.custKeys auth || auth != 0 && !o.sigOk then
    some St.signatureBad
  else if !authApplies s op key then some St.illegalField
  else if decide (3 ≤ op) && !o.rngOk then some St.busyRetry
  else none

/-- ENROL (R344, R345): the change is one journal group, and the operation ends once it is confirmed. -/
def secureEnrol (s : State) (x : SecureOp) (o : SecureOutcome) : State :=
  let op := inField x.input 4 1
  match x.wait with
  | none =>
    match authCheck s x.input o with
    | some st =>
      let s := if st = St.signatureBad then sigReject s 3 (inField x.input 6 1) else s
      secureEnd s st 0
    | none =>
      let (s, q) := addPlainGroup s
        (.auth op (inField x.input 5 1) (blockSlice x.input 32 64) :: if op ≤ 2 then [] else wrapItems s)
      { s with secure := { s.secure with op := some { x with wait := some q } } }
  | some q =>
    if !recConfirmed s 0 q then s
    else
      let s := if op ≤ 2 then s else dropDataKey s
      let s := secureEnd s St.ok 0
      if op = 4 then unitStop s 0 Ev.LC_CHANGED false else s

/-- PROVISION (R351): the key material goes to the key staging of every slate present. -/
def secureProvision (s : State) (b : Block) : State :=
  let boot := blockSlice b 8 8
  let ss := Config.kemDecaps s.ready.bootId (blockSlice b 16 1568)
  let k := shake256 (ss ++ boot ++ blockSlice b 4 2) 52
  let index := inField b 4 2
  if s.secure.stage = .test ∨ !b.isEmpty && leNat boot != s.ready.bootId.toNat then secureEnd s St.notAttested 0
  else if b.isEmpty || inField b 0 4 != 1 || index == 0 || !zeroAt b 6 2 || blockSlice k 36 16 != blockSlice b 1584 16 then
    secureEnd s St.illegalField 0
  else
    let aes := (List.range 4).map fun i => BitVec.ofNat 64 (beNat (blockSlice k (8 * i) 8))
    let s := forSlates (servingSlates s) (fun s sl =>
      let s := setF s sl F.XPORT.K_INDEX index
      let s := setF s sl F.XPORT.SALT (leNat (blockSlice k 32 4))
      { s with stage := tabModD s.stage sl { check := 0, aes := [] } fun x => { x with aes := aes } }) s
    secureEnd s St.ok 0

/-- Whether a firmware image passes R342 step 2. -/
def bankChecks (s : State) (i : BankImage) : Bool :=
  i.rootMatches && i.stepping == 0x00B0 && decide (s.secure.fwMin ≤ i.secVersion) && i.fits &&
    (!i.testImage || s.secure.stage == .test)

/-- The header of a firmware image in the mailbox (R341). -/
def imageOf (b : Block) (sigOk : Bool) : BankImage :=
  let root := (List.range 4).flatMap fun i => beBytes 8 (Config.rootDigest i).toNat
  { rootMatches := shake256 (blockSlice b 16 64) 32 == root
    stepping := BitVec.ofNat 16 (inField b 14 2), secVersion := inField b 12 1
    fits := decide (b.length ≤ 12 * 2 ^ 20), testImage := inField b 13 1 == 1, sigOk := sigOk
    release := inField b 4 4, measure := shake256 (b.take (b.length - 29792)) 64 }

/-- FW_STAGE (R356): the checks of R342 on the mailbox's image, then the bank that is not running, then BANKSEL. -/
def secureStage (s : State) (b : Block) (o : SecureOutcome) : State :=
  let i := imageOf b o.sigOk
  if b.isEmpty || inField b 0 4 != 3 || decide (63 < i.secVersion) || decide (1 < inField b 13 1) || !zeroAt b 112 16 ||
      !bankChecks s i then
    secureEnd s St.illegalField 0
  else if !o.sigOk then secureEnd (sigReject s 5 0) St.signatureBad 0
  else if !o.flashOk then secureEnd (detect s 0 Ev.FLASH_ERR []) St.illegalField 0
  else
    let x := s.secure
    let x := if x.bankB then { x with flashA := some i, preferB := some false }
      else { x with flashB := some i, preferB := some true }
    secureEnd { s with secure := x } St.ok 0

/-- FW_COMMIT (R356). -/
def secureCommit (s : State) : State :=
  if s.secure.fallback then secureEnd s St.illegalField 0
  else secureEnd { s with secure := { s.secure with fwMin := max s.secure.fwMin s.secure.fwSec } } St.ok 0

/-- SECURE_OP_COMPLETE (R348): the operation under way does its work and ends; an authorisation record accepted ends once
its journal group is confirmed. -/
def execSecureOpComplete (o : SecureOutcome) (s : State) : Out :=
  onUnit s fun s =>
    match s.secure.op with
    | none => s
    | some x => match x.op with
      | 1 => secureOutput s (attestReport s x.input)
      | 2 => secureOutput s deviceCert
      | 3 => secureEnrol s x o
      | 4 => secureProvision s x.input
      | 5 => secureStage s x.input o
      | _ => secureCommit s

end Sys2Proof.Machine
end

