-- ==== Sys2Proof/Machine/Power.lean ====
section
/-! DEFINITION. The power sequencer, reset and boot (R198, R199, R341, R342, R354, R355, R364 to R373). -/

namespace Sys2Proof.Machine

/-! ### Loading the program store (R342, R355) -/

/-- A slot's manifest with its measurement, which are recorded as one group (R189). -/
def manifestTables (slot : Nat) (p : Option Nat) (m : Block) : List TableItem := [.manifest slot p, .measure slot m]

/-- A slot whose stored image fails its measurement is left empty, and its manifest is removed by a unit record (R355). -/
def emptySlot (s : State) (slot : Nat) : State :=
  if !tabHas s.slots slot then s
  else
    let s := (addPlainGroup { s with slots := tabDel s.slots slot } (manifestTables slot none [])).1
    detect s 0 Ev.PROG_MISMATCH [BitVec.ofNat 64 slot]

/-- A program enters a slot, and its manifest is recorded. -/
def putProgram (s : State) (slot : Nat) (p : Program) : State :=
  let v := s.nextProg
  (addPlainGroup { s with progs := tabPut s.progs v p, nextProg := v + 1, slots := tabPut s.slots slot v }
    (manifestTables slot (some v) p.measure)).1

/-- The library of the running firmware: a program whose VERSION exceeds that of its slot's manifest is installed in its
place, and one whose slot has no manifest is installed (R355). -/
def loadLibrary (s : State) (skip : List Nat) : State :=
  librarySlots.foldl (fun s x =>
    let p := libraryProgram s.secure.fwRelease x.1 x.2
    if skip.contains x.1 then s
    else match slotProg s x.1 with
      | none => putProgram s x.1 p
      | some (_, old) => if old.version < p.version then putProgram s x.1 p else s) s

/-- Load the program store at step 2 (R355); `bad` are the slots whose image in PROG fails its measurement. A library slot
is then loaded from the firmware body, where that is the version its manifest names. -/
def loadStore (s : State) (bad : List Nat) : State :=
  let lost := bad.filter fun slot =>
    match slotProg s slot with
    | none => false
    | some (_, p) => match librarySlots.find? fun x => x.1 == slot with
      | some x => decide ((libraryProgram s.secure.fwRelease x.1 x.2).measure ≠ p.measure)
      | none => true
  loadLibrary (lost.foldl emptySlot s) lost

/-! ### Boot (R342) -/

/-- The bank the boot ROM runs: the preferred one, else the other, which sets FALLBACK; none where both fail (R342). The
answer tells whether it is BANK_B. -/
def bootBank (s : State) (b : BootIn) : Option (Bool × BankImage × Bool) :=
  let a := s.secure.flashA.getD b.bankA
  let z := s.secure.flashB.getD b.bankB
  let ok (i : BankImage) : Bool := bankChecks s i && i.sigOk
  let pb := s.secure.preferB.getD b.preferB
  let p := if pb then z else a
  let o := if pb then a else z
  if ok p then some (pb, p, false) else if ok o then some (!pb, o, true) else none

/-- The module leaves reset and boots (R342, R373). A SCRAPPED part, or one with no good bank, holds FAULT_N in its boot ROM
until a power cycle.
DESIGN CHOICE (log entry 12). DEDUCED (log entries 96, 99). -/
def bootUp (s : State) (b : BootIn) : State :=
  if s.secure.stage = .scrapped then { s with pin := { s.pin with romHold := true } }
  else match bootBank s b with
    | none => { s with pin := { s.pin with romHold := true } }
    | some (bank, i, fallback) =>
      let id := freeVal s
      let s := takeFree s
      let s := { s with
        mod := { s.mod with power := .running }
        lease := { s.lease with bay := b.bayHigh.toNat }
        ready := { s.ready with bootId := id }
        secure := { s.secure with
          bankB := bank, fallback := fallback, testImg := i.testImage, fwSec := i.secVersion
          fwRelease := i.release, fwMeasure := i.measure } }
      let s := forSlates (servingSlates s) (fun s sl => firstHolders s sl) s
      let s := recoverStep2 (loadStore (restoreTables s) b.badSlots)
      if fallback then raise s 0 Ev.BOOT_FALLBACK else s

/-- RESET_EXIT (R342, R373): rails in range, the reference stable and the VCO locked. -/
def execResetExit (b : BootIn) (s : State) : Out :=
  .next (if s.mod.power = .inReset ∧ !s.pin.romHold then bootUp s b else s)

/-! ### The sequencer (R364 to R370) -/

/-- Every regulator off: the state of a loss of supply (R199), and t_OFF begins (R364). -/
def powerOff (s : State) : State :=
  if s.mod.power = .off then s
  else
    let s := afterReset s true
    { s with mod := { s.mod with power := .off, offTime := true, vcoLost := false, therm := s.mod.trip } }

/-- The rising threshold of the carrying feed, in millivolts (R366).
DESIGN CHOICE (log entry 23). -/
def vOn : Nat := min 39500 (max 37000 Config.vOn)

/-- The falling input lockout, in millivolts (R366). -/
def lockout : Nat := min 36000 (max 32000 Config.lockout)

/-- t_PCYC in microseconds (R364). -/
def tPcyc : Nat := min 200000 (max 180000 Config.tPcyc)

/-- POWER_START (R365): the start condition holds, and the sequencer starts the regulators. -/
def execPowerStart (p : StartPins) (s : State) : Out :=
  .next (
    if s.mod.power = .off ∧ 50 * ms ≤ p.lmLowNs ∧ vOn < max p.feedA p.feedB ∧ p.pcycHigh ∧ !s.mod.trip ∧ !s.mod.offTime then
      { s with mod := { s.mod with power := .inReset } }
    else s)

/-- PCYC_ASSERT (R364, R368): PCYC_N has been low for so many microseconds. A low period of t_PCYC turns every regulator off
and clears a latched thermal trip. -/
def execPcycAssert (lowUs : Nat) (s : State) : Out :=
  .next (
    if lowUs < tPcyc then s
    else
      let s := powerOff s
      { s with mod := { s.mod with trip := false, therm := false } })

/-- OFF_TIME_EXPIRY (R364): t_OFF has passed since the regulators turned off. -/
def execOffTimeExpiry (s : State) : Out :=
  .next (if s.mod.power = .off then { s with mod := { s.mod with offTime := false } } else s)

/-- LAST_MATE_BREAK (R365): LM_N goes high. -/
def execLastMateBreak (s : State) : Out := .next (powerOff s)

/-- SUPPLY_COLLAPSE (R198, R199, R368): the feeds in millivolts. The carrying feed below the lockout turns the regulators
off; the removal of both feeds clears a latched trip.
DEDUCED (log entry 102). -/
def execSupplyCollapse (feedA feedB : Nat) (s : State) : Out :=
  .next (
    let s := if max feedA feedB < lockout then powerOff s else s
    if feedA = 0 ∧ feedB = 0 then { s with mod := { s.mod with trip := false, therm := false } } else s)

/-- The warning threshold of a diode in degrees Celsius (R368). -/
def warnAt (d : Diode) : Int := if d.hbm then 90 else 100

/-- The trip threshold of a diode (R368). -/
def tripAt (d : Diode) : Int := if d.hbm then 105 else 115

/-- THERMAL_POLL (R368): a warning asserts THERM_N until every diode is 5 degrees below its warning; a trip turns the
regulators off and is latched. -/
def execThermalPoll (diodes : List Diode) (s : State) : Out :=
  .next (
    let l := diodes.filter fun d => d.slate < s.n
    if s.mod.power = .off then s
    else if l.any fun d => decide (tripAt d ≤ d.temp) then
      let s := powerOff { s with mod := { s.mod with trip := true } }
      { s with mod := { s.mod with therm := true } }
    else if s.mod.power = .inReset then s
    else if l.any fun d => decide (warnAt d ≤ d.temp) then { s with mod := { s.mod with therm := true } }
    else if l.all fun d => decide (d.temp ≤ warnAt d - 5) then { s with mod := { s.mod with therm := false } }
    else s)

/-- VCO_LOCK_LOSS (R370): no clock reaches the logic, and it stops.
DEDUCED (log entry 101). -/
def execVcoLockLoss (s : State) : Out :=
  .next (if s.mod.power = .running then { s with mod := { s.mod with vcoLost := true } } else s)

/-- VCO_LOSS_TIMEOUT (R370): the lock has been lost for 1 ms; the restart counts as a power cycle. -/
def execVcoLossTimeout (s : State) : Out := .next (if s.mod.vcoLost then powerOff s else s)

end Sys2Proof.Machine
end

