-- ==== Sys2Proof/Machine/QueueOps.lean ====
section
/-! DEFINITION. Registering, destroying and resetting a host queue by its control entries (R133, R134), and the loss of a
context (CTX_UNCORR). -/

namespace Sys2Proof.Machine

/-- The HQ number of index `i` on slate `sl` (R132). -/
def hqNo (sl i : Nat) : Nat := sl * 2 ^ 17 + i

/-- A journal record a `CSET` waits for: its owner and SEQ. -/
abbrev RecRef := Option (Nat × Nat)

/-- Whether the registration of a queue waits for its record: its number is then taken.
DEDUCED (log entry 136). -/
def queueDue (s : State) (hq : Nat) : Bool :=
  let w := ownerOf s (hqSlate hq)
  let mine (b : RecBody) : Bool := match b with
    | .table (.queue h _ _ _ true) => h == hq
    | _ => false
  (w.recs.any fun r => !r.confirmed && mine r.body) || w.waiting.any fun x => mine x.body

/-- Whether the staged Q_OP may act (R133). -/
def queueOpLegal (s : State) (sl i op : Nat) : Bool :=
  let hq := hqNo sl i
  let key := getF s sl F.HQ.Q_KEY
  match op with
  | 1 =>
    !tabHas s.queues hq && !queueDue s hq &&
      (match keyOf s sl key with
       | some k => !k.window && k.bind == hq && (!isF s sl F.HQ.Q_PERSIST || k.persist)
       | none => false) &&
      (!isF s sl F.HQ.Q_PIN || decide (queueCount s sl (·.pin) < 1024))
  | 2 => match queueAt s hq with
    | some q => q.tags.all fun t => !tagBusy t.2
    | none => false
  | 3 => tabHas s.queues hq
  | _ => true

/-- Run a legal Q_OP. A persistent registration or its removal is also a record of the slate's QTAB, for which the `CSET` waits
(R134, R186). The registration takes effect with the record (R185); the removal at the write, so that nothing is owed when it
takes effect (R133).
DEDUCED (log entry 136). -/
def queueOp (s : State) (sl i op : Nat) : State × RecRef :=
  let hq := hqNo sl i
  let host : BitVec 32 := BitVec.ofNat 32 (getF s sl F.HQ.Q_HOST)
  let key := getF s sl F.HQ.Q_KEY
  let pin := isF s sl F.HQ.Q_PIN
  let write (s : State) (present : Bool) : State × RecRef :=
    let (s, r) := addTableAt s sl (.queue hq host key pin present)
    (s, some (sl, r))
  match op with
  | 1 =>
    if isF s sl F.HQ.Q_PERSIST then write s true else (addQueue s hq host key pin false, none)
  | 2 => match queueAt s hq with
    | none => (s, none)
    | some q =>
      let s := refill (removeQueue s hq) sl
      if q.persist then write s false else (s, none)
  | 3 => match queueAt s hq with
    | none => (s, none)
    | some q => (dropBootstrap (resetQueue s hq (BitVec.ofNat 64 (nonceFloor q)) none), none)
  | _ => (s, none)

/-- One tag of a context that is lost: a command past its commit point completes with no response sent; any other is
stopped with no effect. -/
def dropTag (s : State) (hq t : Nat) (tg : Tag) : State :=
  match tg.st with
  | .held =>
    freeBufs (releaseTag s hq t (tg.last.getD 0).toNat) (match tg.cmd with | some c => c.buf.toList | none => [])
  | .active => match tg.job with | some id => stopJob s id | none => s
  | _ => s

/-- CTX_UNCORR: the queue is removed as by destroy, without outcomes; a persistent registration is deleted. -/
def loseContext (s : State) (hq : Nat) : State :=
  match queueAt s hq with
  | none => s
  | some q =>
    let s := q.tags.foldl (fun s p => dropTag s hq p.1 p.2) s
    let s := refill (removeQueue s hq) (hqSlate hq)
    if q.persist then (addTableAt s (hqSlate hq) (.queue hq q.host q.key q.pin false)).1 else s

end Sys2Proof.Machine
end

