-- ==== Sys2Proof/Machine/SwitchCmds.lean ====
section
/-! DEFINITION. The commands of the switch core, the scheduler and the fabric links (R124, R125, R223 to R256, R324). -/

namespace Sys2Proof.Machine

/-! ### Arrival (R125, R224, R231, R234, R256) -/

/-- The class of a frame at the network port (R125). -/
def netClass (s : State) (f : FrameIn) : Nat :=
  if isF s f.slate F.PORT.PRIO_SRC then getF s f.slate (F.PORT.CLASS (f.dscp / 16 % 4) (f.dscp % 16)) else f.pcp % 8

/-- The record of a frame that has arrived. -/
def arrivedFrame (s : State) (f : FrameIn) (cls : Nat) : Frame :=
  { slate := f.slate, inPort := f.port, cls := cls, bytes := f.bytes, outs := [], path := [], lane := 0,
    key := flowKey cls f.home f.dst f.kind f.ident, dst := f.dst, dstPort := f.dstPort, dstSub := f.dstSub,
    home := f.home, tver := getF s f.home F.SWITCH.TVER, entry := f.entry, head := 0, waiting := false, stalled := false, mask := f.copies,
    group := none, dgram := none, job := none }

/-- A policer of a slate and class. -/
def policerOf (s : State) (sl c : Nat) : Policer := tabGetD s.policers (sl * 8 + c) { tokens := 0, tLast := 0, lastDrop := none }

/-- Judge a frame that started at TB `t` at the policer of its class (R256): the state, and whether it is accepted. Tokens are held to 1/800 byte,
the amount one unit of RATE adds in a nanosecond. -/
def police (s : State) (sl c bytes t : Nat) : State × Bool :=
  if !polClass c || !isF s sl (F.SCHED.POL_EN c) then (s, true)
  else
    let p := policerOf s sl c
    let depth := getF s sl (F.SCHED.BURST c) * 64 * 800
    let tokens := min depth (p.tokens + getF s sl (F.SCHED.RATE c) * (t - p.tLast))
    let put (s : State) (p : Policer) : State := { s with policers := tabPut s.policers (sl * 8 + c) p }
    if bytes * 800 ≤ tokens then
      (bump (put s { p with tokens := tokens - bytes * 800, tLast := t }) sl (F.SCHED.POL_PASSED c), true)
    else
      let s := bump (put s { tokens := tokens, tLast := t, lastDrop := some t }) sl (F.SCHED.POL_DROPS c)
      let quiet := match p.lastDrop with | some x => decide (x + ms ≤ t) | none => true
      (if quiet then detect s sl Ev.POLICE_DROP [BitVec.ofNat 64 (c + bytes % 2 ^ 15 * 8)] else s, false)

/-- The first detail word of CELL_UNCORR, HDRM_OVF and PEER_PAUSE: port and class (R240). -/
def portClass (p c : Nat) : List Word := [BitVec.ofNat 64 (p % 16 + c % 8 * 16)]

/-- The classes that a kind of traffic travels in (R225, R228). -/
def kindTravels (kind c : Nat) : Bool :=
  match kind with
  | 0 => lossless c
  | 1 => c == 5 || c == 2
  | 2 => c == 4 || c == 1
  | 3 => c == 6
  | 4 => c == 7 || c == 4 || c == 3 || c == 1
  | _ => c == 7

/-- Whether a frame is one that R225 lets its port carry in its class, and leave by its destination port. -/
def frameFits (f : FrameIn) (c : Nat) : Bool :=
  carries f.port c && kindTravels f.kind c && carries f.dstPort c && (f.port != 0 || f.kind == 0)

/-- Whether a list of hops leads from one slate to another (R226). -/
def leadsTo (n : Nat) : Nat → Nat → List (Nat × Nat) → Bool
  | a, b, [] => a == b
  | a, b, (x, l) :: r => x == a && decide (l < 4) && leadsTo n (linkNeigh n a l) b r

/-- A frame arrives at the network port: the FCS check, policing, the classes the port carries, the headroom. -/
def netArrival (s : State) (f : FrameIn) : State :=
  let sl := f.slate
  let c := netClass s f
  let s := countSrc s sl srcNetRx 1
  if !f.checkOk then detectAt s sl Ev.FEC_UNCORR f.sub []
  else
    let (s, pass) := if f.exempt then (s, true) else police s sl c f.bytes f.sof
    if !pass then s
    else if !lossless c then bump s sl F.XPORT.CLASS_DROP
    else if !frameFits f c then s
    else
      let head := cellsOf f.bytes - cellRoom s sl 0 c
      if 16 * getF s sl F.SWITCH.HDRM < headCells s sl c + head then
        detectAt (bump s sl F.SWITCH.HDRM_DROPS) sl Ev.HDRM_OVF 0 (portClass 0 c)
      else enterFrame s { arrivedFrame s f c with head := head }

/-- A frame arrives at a fabric port with its path or, for a multicast, its tree (R224, R226): a failed check is corrected by
link-level retry. One whose path uses a down link is given a new one (R230). -/
def fabricArrival (s : State) (f : FrameIn) : State :=
  let sl := f.slate
  let c := f.pcp % 8
  let l := f.port - 10
  let x := arrivedFrame s f c
  if !linkUp s sl l || !frameFits f c then s
  else if !f.checkOk then detectAt (bump s sl (F.FABRIC.RETRIES l)) sl Ev.FLINK_RETRY l []
  else if !laneCredit s sl f.port c f.lane (cellsOf f.bytes) then s
  else if f.copies ≠ 0 then mcastArrive s x
  else if tabHas s.lost f.dst then bump s sl F.SWITCH.LOST_DEST_DROPS
  else if !leadsTo s.n sl f.dst f.path then s
  else
    let x := { x with path := f.path, lane := f.lane }
    repathFrame (bufferFrame s { x with outs := [nextOut x] }) s.nextFrame

/-- FRAME_ARRIVAL (R224): a frame completes at an ingress port. An internal block that meets its limit keeps the frame
(R231). A frame that crosses a fabric link arrives by OUTPUT_SELECT (`crossLink`); the row is one that the model does not hold.
DESIGN CHOICE (log entry 45). -/
def execFrameArrival (f : FrameIn) (s : State) : Out :=
  onSlate f.slate s fun s =>
    if 9238 < f.bytes || 14 < f.port || decide (s.n ≤ f.dst) then s
    else if f.port = 0 then
      if bitOf (getF s f.slate F.PORT.LINK_UP) f.sub then netArrival s f else s
    else if portKind f.port = 3 then fabricArrival s f
    else if !frameFits f (f.pcp % 8) || (f.port = 14 && 2 ≤ f.slate) then s
    else admitInternal s (arrivedFrame s f (f.pcp % 8))

/-! ### Selection (R244 to R248) -/

/-- The lane a frame has once it has crossed a link (R227). -/
def laneAfter (s : State) (sl l : Nat) (f : Frame) : Nat := if linkWrap s.n sl l then 1 else f.lane

/-- Whether a frame may leave by an output at all: a network peer that pauses the class, a link that retrains, or a
neighbour that withholds credit on its lane holds it back (R126, R230, R231). -/
def outputReady (s : State) (sl p c : Nat) (f : Frame) : Bool :=
  if p = 0 then !tabHas s.peerPause (sl * 8 + c)
  else if portKind p = 3 then
    let l := p - 10
    let x := linkNeigh s.n sl l
    let pl := peerLink s.n l
    linkUp s sl l && (linkOf s sl l).retrain.isNone && (linkOf s x pl).retrain.isNone &&
      laneCredit s x (10 + pl) c (laneAfter s sl l f) (cellsOf f.bytes)
  else true

/-- Whether the head frame of a class may start at TB `t` (R244). -/
def mayStart (s : State) (sl p c t : Nat) (o : OutPort) : Bool :=
  match headFrame s (queueOf o c) with
  | none => false
  | some f => outputReady s sl p c f && gateOpen s sl p c t (txPs s sl p f.bytes)

/-- The class an output serves next (R244): the highest privileged class with credit whose wheel slot, if it waits for one,
has been reached; else the ordinary class with the earliest tag. The flag says whether it is privileged. -/
def selectClass (s : State) (sl p t : Nat) (o : OutPort) : Option (Nat × Bool) :=
  let classes := [7, 6, 5, 4, 3, 2, 1]
  let q (c : Nat) := queueOf o c
  match classes.find? fun c => isPriv s sl p c && mayStart s sl p c t o && decide (0 ≤ (q c).credit) && (q c).slotTb.isNone with
  | some c => some (c, true)
  | none =>
    let tag (c : Nat) : Nat := ((q c).headF).getD 0
    let earlier (a b : Nat) : Bool := decide (2 ^ 31 ≤ (a + 2 ^ 32 - b) % 2 ^ 32)
    let best := classes.foldl (fun (b : Option Nat) c =>
      if !isPriv s sl p c && mayStart s sl p c t o then
        match b with
        | none => some c
        | some x => if earlier (tag c) (tag x) then some c else some x
      else b) none
    best.map fun c => (c, false)

/-- Charge the start of a frame to its queue and output (R245, R247), and take it off its queue. -/
def startFrame (s : State) (sl p sub c t : Nat) (priv : Bool) (f : Frame) : State :=
  let o := outOf s sl p sub
  let q := queueOf o c
  let len : Int := 800 * wireLen p f.bytes
  let q' := { q with frames := q.frames.drop 1, headF := none, credit := if priv then q.credit - len else q.credit }
  let q' := { q' with slotTb := wheelSlotOf s sl p c t q' }
  let o := { putQueue o c q' with
    v := if priv then o.v else (q.headF).getD o.v
    freeAt := t * 1000 + txPs s sl p f.bytes
    cur := some c }
  putOut s sl p sub (tagHead s sl p c o)

/-- A unicast frame crosses a fabric link to the next slate: it is charged there, and its cells here are freed (R227,
R231).
DEDUCED (log entry 79). -/
def crossLink (s : State) (id l : Nat) (f : Frame) : State :=
  let x := linkNeigh s.n f.slate l
  let f' := { f with
    slate := x
    inPort := 10 + peerLink s.n l
    path := f.path.drop 1
    head := 0
    lane := laneAfter s f.slate l f }
  let s := { s with frames := tabPut s.frames id { f' with outs := [nextOut f'] } }
  updatePeak (queueFrame (updatePause (unstall s f.slate) f.slate) id) x

/-- A frame's transmission at an output: to the wire, to the next slate, or to its block (R11, R237).
DESIGN CHOICE (log entry 48). -/
def leaveBy (s : State) (sl p sub id : Nat) (f : Frame) : State :=
  if portKind p = 3 then
    let s := countSrc s sl srcFabCells (cellsOf f.bytes)
    let l := p - 10
    if isTree f then
      let x := linkNeigh s.n sl l
      let s := mcastArrive s { f with
        slate := x, inPort := 10 + peerLink s.n l, head := 0, lane := laneAfter s sl l f, mask := branchMask s f (p, sub) }
      dropCopy s id (p, sub)
    else crossLink s id l f
  else
    let s := if p = 0 then countSrc s sl srcNetTx 1 else s
    let s := match f.dgram with
      | some d => { s with wire := s.wire ++ [d] }
      | none => s
    dropCopy (settleCopy s f.group sl true) id (p, sub)

/-- OUTPUT_SELECT (R244): a free output chooses its next frame, which starts. -/
def execOutputSelect (slate port sub : Nat) (s : State) : Out :=
  onSlate slate s fun s =>
    let t := now s slate
    let o := outOf s slate port sub
    if t * 1000 < o.freeAt || 14 < port || 7 < sub then s
    else
      let o := (List.range 8).foldl (fun o c =>
        if isPriv s slate port c then putQueue o c (accrue s slate port c t (gateAt s slate port c t) o) else o) (restTags s slate port o)
      let s := putOut s slate port sub o
      match selectClass s slate port t o with
      | none => s
      | some (c, priv) =>
        match (queueOf o c).frames with
        | [] => s
        | id :: _ => match tabGet s.frames id with
          | none => s
          | some f => leaveBy (startFrame s slate port sub c t priv f) slate port sub id f

/-- WHEEL_SLOT (R248): each privileged queue whose slot is reached is tested; one whose credit is still negative is entered
again. -/
def execWheelSlot (slate port sub : Nat) (s : State) : Out :=
  onSlate slate s fun s =>
    let t := now s slate
    let o := outOf s slate port sub
    let o' := (List.range 8).foldl (fun o c =>
      let q := queueOf o c
      match q.slotTb with
      | none => o
      | some x =>
        if t < x then o
        else
          let q := accrue s slate port c t (gateAt s slate port c t) o
          putQueue o c { q with slotTb := wheelSlotOf s slate port c t q }) o
    putOut s slate port sub o'

/-! ### Gates (R251, R254) -/

/-- Bring the credits of every privileged queue of a slate's network output to TB `t`, with the gates as the list in force
has held them (R247). -/
def accrueNet (s : State) (sl t : Nat) : State :=
  let g := gatesOf s sl
  let isOpen (c : Nat) : Bool := match g.oper with
    | none => true
    | some l => match l.entries[g.entry]? with
      | some (m, _) => bitOf m.toNat c
      | none => true
  (List.range 8).foldl (fun s sub =>
    if tabHas s.outs (outKey sl 0 sub) then
      let o := outOf s sl 0 sub
      putOut s sl 0 sub ((List.range 8).foldl (fun o c => putQueue o c (accrue s sl 0 c t (isOpen c) o)) o)
    else s) s

/-- GATE_TAKEOVER (R254): at T the pending list begins its entry 0. -/
def execGateTakeover (slate : Nat) (s : State) : Out :=
  onSlate slate s fun s =>
    let g := gatesOf s slate
    match g.pend with
    | none => s
    | some l =>
      if now s slate < l.start then s
      else
        let s := accrueNet s slate (now s slate)
        raise { s with gates := tabPut s.gates slate { oper := some l, pend := none, entry := 0 } } slate Ev.GL_TAKEOVER

/-- GATE_LIST_ENTRY (R251): TB has passed into another entry of the operating list. -/
def execGateListEntry (slate : Nat) (s : State) : Out :=
  onSlate slate s fun s =>
    let g := gatesOf s slate
    match g.oper with
    | none => s
    | some l =>
      let e := (entryAt l.entries 0 ((now s slate - l.start) % l.cycle)).1
      if e = g.entry then s
      else
        let s := accrueNet s slate (now s slate)
        { s with gates := tabPut s.gates slate { g with entry := e } }

/-! ### Peer pause (R235) -/

/-- A peer pause that has lasted longer than PEER_PAUSE_MAX: frames of the class to the port are discarded while it
lasts. -/
def peerPauseOver (s : State) (sl c : Nat) : State :=
  match tabGet s.peerPause (sl * 8 + c) with
  | none => s
  | some p =>
    let limit := getF s sl F.SWITCH.PEER_PAUSE_MAX
    if p.raised || limit = 0 || decide (now s sl < p.since + limit * ms) then s
    else if heldOff s sl Ev.PEER_PAUSE 0 then detectAt s sl Ev.PEER_PAUSE 0 (portClass 0 c)
    else
      let s := { s with peerPause := tabPut s.peerPause (sl * 8 + c) { p with raised := true } }
      let s := (List.range 8).foldl (fun s k => flushNet s sl k F.SWITCH.PEER_PAUSE_DROPS fun f => f.cls == c) s
      detectAt s sl Ev.PEER_PAUSE 0 (portClass 0 c)

/-- PEER_PAUSE_EXPIRY (R235). -/
def execPeerPauseExpiry (slate cls : Nat) (s : State) : Out := onSlate slate s fun s => peerPauseOver s slate cls

/-! ### Multicast and lookup changes (R237 to R239) -/

/-- MULTICAST_DONE (R237): every copy has been accepted or discarded, and the block receives the result mask. -/
def execMulticastDone (slate frame : Nat) (s : State) : Out :=
  onSlate slate s fun s => match tabGet s.mcast frame with
    | none => s
    | some m =>
      if m.slate ≠ slate || m.left ≠ 0 then s
      else { s with mcast := tabDel s.mcast frame, mcResult := tabPut s.mcResult frame m.result }

/-- LOOKUP_WAIT_RELEASE (R229, R238): the frame leaves its ingress buffer once the older frames of its class, and those of its flow that
it could overtake, are gone. -/
def execLookupWaitRelease (slate frame : Nat) (s : State) : Out :=
  onSlate slate s fun s => match tabGet s.frames frame with
    | none => s
    | some f =>
      if f.slate ≠ slate || !f.waiting || olderFrames s f.home f.cls f.dst f.tver ||
          flowAhead s frame f.home f.key f.path then s
      else queueFrame { s with frames := tabPut s.frames frame { f with waiting := false } } frame

/-- Whether a frame looked up on slate `sl` under a TVER below `b` is still in the package (R239). TVER wraps. -/
def barrierHeld (s : State) (sl b : Nat) : Bool :=
  s.frames.any fun x => x.2.home == sl && !x.2.stalled &&
    (let d := (b + 2 ^ 16 - x.2.tver) % 2 ^ 16; d != 0 && decide (d < 2 ^ 15))

/-- SWB_DONE (R239). -/
def execSwbDone (slate : Nat) (s : State) : Out :=
  onSlate slate s fun s => match tabGet s.barrier slate with
    | none => s
    | some b =>
      if barrierHeld s slate b then s
      else raise { s with barrier := tabDel s.barrier slate } slate Ev.SWB_DONE

/-! ### Fabric links (R230, R241) and partner lanes (R324) -/

/-- FABRIC_LINK_ERROR (R230, R324): a link error starts a retrain and opens its reset shadow. The
retrain restores no field.
DEDUCED (log entries 82, 118). -/
def execFabricLinkError (slate link : Nat) (s : State) : Out :=
  onSlate slate s fun s =>
    let k := linkKey slate link
    if 3 < link || !linkUp s slate link || (linkOf s slate link).retrain.isSome then s
    else
      let s := { s with links := tabPut s.links k { up := true, retrain := some (now s slate) } }
      openShadow s (.fabric link) slate 10

/-- A link is declared down at both ends and its frames are re-pathed; a slate that is left with no path is lost (R230). -/
def linkFails (s : State) (sl l : Nat) : State := checkReach (repathAll (linkDown s sl l)) sl

/-- FABRIC_LINK_DOWN (R230): a link has not retrained within 10 µs of its error, or its peer is lost. -/
def execFabricLinkDown (slate link : Nat) (s : State) : Out :=
  onSlate slate s fun s =>
    if 3 < link then s
    else
      let x := linkOf s slate link
      let late := match x.retrain with | some t => decide (t + 10 * us ≤ now s slate) | none => false
      if x.up && (late || tabHas s.lost (linkNeigh s.n slate link)) then linkFails s slate link else s

/-- FABRIC_LINK_TRAINED (R241): a link trains, at both its ends. One that retrains in time was never down. -/
def execFabricLinkTrained (slate link : Nat) (s : State) : Out :=
  onSlate slate s fun s =>
    let x := linkNeigh s.n slate link
    let pl := peerLink s.n link
    if 3 < link || !serving s x then s
    else
      let was := (linkOf s slate link).up
      let good : LinkState := { up := true, retrain := none }
      let s := { s with links := tabPut (tabPut s.links (linkKey slate link) good) (linkKey x pl) good }
      if was then s else raise (raise s slate Ev.FLINK_UP) x Ev.FLINK_UP

/-- PARTNER_LANE_ERROR (R324): a lane error starts a retrain of the lane pair of slate 0 or 1 and opens its reset shadow. -/
def execPartnerLaneError (slate : Nat) (s : State) : Out :=
  onSlate slate s fun s => if 1 < slate then s else openShadow s .partner slate 20

end Sys2Proof.Machine
end

