-- ==== Sys2Proof/Machine/FaultCmds.lean ====
section
/-! DEFINITION. What each detector's occurrence does beyond its record, injected occurrences, the FAULT_N pin and reset shadows
(R84 to R87, R281, R282, R315 to R327). -/

namespace Sys2Proof.Machine

/-! ### Cache ways (R282) -/

/-- The corrected-error count of a way, in `State.wayErrs`: cache 0 slate, 1 data, 2 instruction. -/
def wayKey (sl cache eng way : Nat) : Nat := ((sl * 4 + cache) * 64 + eng) * 16 + way

/-- The mask field that disables the ways of a cache. -/
def wayMaskFld (cache eng : Nat) : Fld :=
  if cache = 0 then F.MEM.SC_WAY_DIS else if cache = 1 then F.MEM.DC_WAY_DIS eng else F.MEM.IC_WAY_DIS eng

/-- The ways of a cache (R273). -/
def wayCount (cache : Nat) : Nat := if cache = 0 then 16 else if cache = 1 then 8 else 4

/-- The enabled ways of a cache. -/
def waysOn (s : State) (sl cache eng : Nat) : Nat :=
  wayCount cache - (bitList (getF s sl (wayMaskFld cache eng)) (wayCount cache)).length

/-- Evict the lines of a way before it leaves service. -/
def evictWay (s : State) (sl cache eng way : Nat) : State :=
  if cache = 0 then scFlushWay s sl way
  else if cache = 1 then
    { s with dcLines := s.dcLines.filter fun p => !(p.1 / 1024 == engKey sl eng && p.1 % 8 == way) }
  else
    { s with icLines := s.icLines.filter fun p => !(p.1 / 512 == engKey sl eng && p.1 % 4 == way) }

/-- A cache left with too few ways: the slate cache drains toward BYPASSED, an engine cache is bypassed. -/
def bypassCache (s : State) (sl cache eng : Nat) : State :=
  let n := waysOn s sl cache eng
  if cache = 0 then
    if n < 8 && scState s sl == 1 then scSweep (setF s sl F.MEM.SC_STATE 2) sl else s
  else if 2 ≤ n then s
  else if cache = 1 then dcFlushEngine (setF s sl (F.MEM.DC_BYPASS eng) 1) sl eng
  else
    let s := setF s sl (F.MEM.IC_BYPASS eng) 1
    { s with icLines := s.icLines.filter fun p => !(p.1 / 512 == engKey sl eng) }

/-- Take a way out of service (R282): its lines leave, the mask becomes a unit record, WAY_DISABLED is raised. -/
def disableWay (s : State) (sl cache eng way : Nat) : State :=
  let m := getF s sl (wayMaskFld cache eng)
  if bitOf m way then s
  else
    let s := setF (evictWay s sl cache eng way) sl (wayMaskFld cache eng) (m + 2 ^ way)
    let s := (addTable s (.ways sl (wayMasks s sl))).1
    let s := detect s sl Ev.WAY_DISABLED [BitVec.ofNat 64 (cache % 4 + eng % 64 * 4 + way % 16 * 256)]
    bypassCache s sl cache eng

/-- A corrected error of a way is counted, and disables the way at WAY_THRESH, or at once for an uncorrectable tag. -/
def wayError (s : State) (sl cache eng way : Nat) (tag : Bool) : State :=
  if 3 ≤ cache || wayCount cache ≤ way || 48 ≤ eng then s
  else
    let k := wayKey sl cache eng way
    let n := tabGetD s.wayErrs k 0 + 1
    let s := { s with wayErrs := tabPut s.wayErrs k n }
    if tag || decide (getF s sl F.MEM.WAY_THRESH ≤ n) then disableWay s sl cache eng way else s

/-! ### Reactions of each detector (R318) -/

/-- The number of FIRST detail words a detector's chapter defines. -/
def detWords (e : Nat) : Nat :=
  if e = Ev.JOB_TRAP || e = Ev.HK_TRAP then 4
  else if e = Ev.CHECK_FAIL || e = Ev.SEAL_FAIL || e = Ev.HAZ_LATE || e / 64 = 0x0B || e = Ev.GRAINS_LOST ||
      e = Ev.RMA_POISON || e = Ev.COPY_FAIL || e = Ev.POISON_CONSUMED then 2
  else if [Ev.STORE_UNCORR, Ev.CTX_UNCORR, Ev.TUNDISH_CORR, Ev.TUNDISH_FATAL, Ev.POUR_STALL, Ev.HOLDER_LOST,
      Ev.JOURNAL_LOST, Ev.SPARE_SHORT, Ev.QUORUM_SHORT, Ev.CELL_UNCORR, Ev.HDRM_OVF, Ev.PEER_PAUSE, Ev.FLINK_DOWN,
      Ev.SLATE_UNREACH, Ev.STATE_ERR, Ev.POLICE_DROP, Ev.ROT_UNCORR, Ev.HBM_CORR, Ev.HBM_UNCORR, Ev.WAY_DISABLED,
      Ev.WITNESS_LOST, Ev.ROUND_FAIL, Ev.CHAIN_BREAK, Ev.POS_CONFLICT, Ev.DUMP_LOST, Ev.SAMPLE_LOST, Ev.RING_OVERLAP,
      Ev.PROG_MISMATCH, Ev.SIG_REJECT].contains e then 1
  else 0

/-- Where a held-off detector's hit is: the port, link or sub-port its shadow names (R324). -/
def detArg (e : Nat) (d : List Word) : Nat :=
  let x := (d.headD 0).toNat
  if e = Ev.CELL_UNCORR || e = Ev.HDRM_OVF || e = Ev.PEER_PAUSE then x % 16
  else if e = Ev.FLINK_RETRY || e = Ev.FEC_UNCORR then x
  else 0xFFFF

/-- CELL_UNCORR (R235): the frame is discarded; the block that sent an internal frame sends it again, to the slates still to be served
where it is a multicast.
DEDUCED (log entry 79). -/
def cellUncorr (s : State) (sl id : Nat) : State :=
  let s := bump s sl F.SWITCH.CELL_RESENDS
  match tabGet s.frames id with
  | none => s
  | some f =>
    if f.slate ≠ sl then s
    else if f.entry = 0 then discardFrame s id
    else
      let m := if isTree f then f.outs.foldl (fun a o => a ||| branchMask s f o) 0 else f.mask
      let s := f.outs.foldl (fun s o => unqueue s sl o.1 o.2 f.cls id) s
      let g := { f with
        slate := f.home, inPort := f.entry, outs := [], path := [], lane := 0, head := 0, waiting := false, mask := m }
      let s := freeFrame s id
      if m = 0 then admitInternal s g else mcastArrive s g

/-- An uncorrectable error in an output's scheduling state: its tags as for an idle output, its credits zero (R258). -/
def stateErr (s : State) (sl p sub : Nat) : State :=
  if !tabHas s.outs (outKey sl p sub) then s
  else
    let o := outOf s sl p sub
    let reset (_ : Nat) (q : OutQueue) : OutQueue :=
      { q with headF := none, flast := 0, credit := 0, creditTb := now s sl, slotTb := none }
    let o := { o with v := 0, queues := tabMapV o.queues reset }
    putOut s sl p sub ((List.range 8).foldl (fun o c => tagHead s sl p c o) o)

/-- The words of an HBM range that an uncorrectable error poisons (R281). -/
def poisonWords (s : State) (sl a n : Nat) : State :=
  let ws := (List.range (max 1 n)).map fun i => a / 8 * 8 + 8 * i
  let ws := ws.filter fun w => memHome w == sl && memOff w < stackBytes && !s.poison.contains w
  bump { s with poison := s.poison ++ ws } sl F.MEM.HBM_UNCORR ws.length

/-- What an occurrence of a detector does to the block it is in, beside its record (R318). The words of `d` past the FIRST
detail name what was hit where the detail does not. -/
def react (s : State) (sl e : Nat) (d : List Word) : State :=
  let x := (d.headD 0).toNat
  let extra (i : Nat) : Nat := (d.getD (detWords e + i) 0).toNat
  if e = Ev.STORE_UNCORR then
    match jobOf s (extra 0) with
    | some j => if 2 ≤ d.length && j.ended.isNone then trapJob s (extra 0) St.illegalOpcode else s
    | none => s
  else if e = Ev.FRAME_BAD then bump s 0 F.CHAIN.FRAMES_BAD
  else if e = Ev.KEYTAB_UNCORR then { s with keys := tabDel s.keys (keyKey sl (extra 0)) }
  else if e = Ev.CTX_UNCORR then if hqSlate x = sl then loseContext s (x % 2 ^ 20) else s
  else if e = Ev.ROT_UNCORR then if hqSlate x = sl then reuseWindow s (x % 2 ^ 20) else s
  else if e = Ev.CELL_UNCORR then cellUncorr s sl (extra 0)
  else if e = Ev.STATE_ERR then stateErr s sl (x % 16) (x / 16 % 8)
  else if e = Ev.HBM_CORR then bump s sl F.MEM.HBM_CORR
  else if e = Ev.HBM_UNCORR then poisonWords s sl x (extra 0)
  else if e = Ev.CACHE_CORR then wayError s sl (extra 0) (extra 1) (extra 2) (extra 3 != 0)
  else if e = Ev.FLINK_RETRY then bump s sl (F.FABRIC.RETRIES (extra 0))
  else s

/-- A detector is hit for a real cause (R316 to R320): the record and the unit's reaction, then the block's, masked or not. A hit that
a shadow holds off starts no reaction (R325). -/
def realHit (s : State) (sl e : Nat) (detail : List Word) : State :=
  if heldOff s sl e (detArg e detail) then detectAt s sl e (detArg e detail) []
  else react (detectFull s sl e (detArg e detail) (detail.take (detWords e))) sl e detail

/-- Whether a space defines detector `src` (R84). -/
def isDetector (space src : Nat) : Bool := (detClass (eventNo space src)).isSome && decide (src < 32) && decide (space < 19)

/-- DETECTOR_OCCURRENCE (R316).
DESIGN CHOICE (log entry 43). -/
def execDetectorOccurrence (slate space src : Nat) (detail : List Word) (s : State) : Out :=
  onSlate slate s fun s => if isDetector space src then realHit s slate (eventNo space src) detail else s

/-! ### Injection (R84, R326, R327) -/

/-- Fire an injected occurrence: recorded and reported as a real one; no block reaction in classes 0 to 2, the full
reaction in classes 3 and 4 (R326). -/
def injectDet (s : State) (sl sp k : Nat) : State :=
  let e := eventNo sp k
  let s := recordDet s sl sp k true []
  match detClass e with
  | some 3 => slateLost s sl sl e true
  | some 4 => unitStop s sl e true
  | _ => s

/-- An injection of detector `k` coincides with a real hit of detector `src` of the same space (R86, R327). On one detector they are one
occurrence, the real one, with both bits in STAT; on two, each is recorded, and FIRST takes the real one where it is not masked. A
hit that a shadow holds off leaves the injection alone (R325). -/
def coincide (s : State) (sl sp k src : Nat) (detail : List Word) : State :=
  let e := eventNo sp src
  if heldOff s sl e (detArg e detail) then injectDet (realHit s sl e detail) sl sp k
  else if src = k then realHit (setF s sl (F.STAT_INJ sp) (getF s sl (F.STAT_INJ sp) ||| 2 ^ k)) sl e detail
  else
    let s := realHit s sl e detail
    let more := getF s sl (F.F_MORE sp)
    let t := injectDet s sl sp k
    if masked s sl sp src then t else setF t sl (F.F_MORE sp) more

/-! ### The FAULT_N pin (R321, R323) -/

/-- CORE_SILENT (R321): slate 0's core has given its pin logic no sign of life for 100 µs. No release is sent. -/
def execCoreSilent (s : State) : Out := onUnit s fun s => latchC4 s 0 0x7FF false

/-- FAULT_PULSE_END (R323): PULSE_US has passed since the latest pin request. -/
def execFaultPulseEnd (s : State) : Out :=
  onUnit s fun s => match s.pin.pulse with
    | some t => if t ≤ now s 0 then { s with pin := { s.pin with pulse := none } } else s
    | none => s

/-- Whether `FAULT_N` is driven low (R321, R323, R342). -/
def pinAsserted (s : State) : Bool :=
  s.pin.romHold || (s.mod.power == .running && (s.pin.pulse.isSome || isF s 0 F.FPIN.HOLD || isF s 0 F.FPIN.C4))

/-! ### Reset shadows (R324, R325) -/

/-- What is evaluated afresh once no shadow holds it off: a peer pause that lasts, and the partner holder's timeout, which
starts from zero. -/
def reEvaluate (s : State) (sh : Shadow) : State :=
  match sh.kind with
  | .network _ => (List.range 8).foldl (fun s c => if heldOff s sh.slate Ev.PEER_PAUSE 0 then s else peerPauseOver s sh.slate c) s
  | .partner =>
    if partnerShadow s then s
    else
      let restart (o : Nat) (r : Rec) : Rec :=
        if !r.confirmed && r.need.contains 3 && !r.acks.contains 3 then { r with due := tabPut r.due 3 (lateTb s o) } else r
      { s with owners := tabMapV s.owners fun o w => { w with recs := w.recs.map (restart o) } }
  | .fabric _ => s

/-- SHADOW_CLOSE (R324, R325): the reset block is ready, or the shadow's maximum has passed.
DEDUCED (log entry 97). -/
def execShadowClose (shadow : Nat) (ready : Bool) (s : State) : Out :=
  onUnit s fun s => match tabGet s.pin.shadows shadow with
    | none => s
    | some sh =>
      if ready || decide (sh.limit ≤ now s sh.slate) then
        let s := { s with pin := { s.pin with
          shadows := tabDel s.pin.shadows shadow
          heldOff := s.pin.heldOff.filter fun h => !shadowCovers s.n sh h.1 h.2.1 h.2.2 } }
        reEvaluate s sh
      else s

end Sys2Proof.Machine
end

