-- ==== Sys2Proof/Machine/Rebuild.lean ====
section
/-! DEFINITION. Rebuild, lost grains, copy-back and reclaim (R177, R209 to R217, R220). -/

namespace Sys2Proof.Machine

/-! ### Sorting -/

/-- Insert into a list that `le` orders. -/
def insertBy {α : Type} (le : α → α → Bool) (x : α) : List α → List α
  | [] => [x]
  | y :: r => if le x y then x :: y :: r else y :: insertBy le x r

/-- Sort by insertion. -/
def sortBy {α : Type} (le : α → α → Bool) (l : List α) : List α := l.foldr (insertBy le) []

/-! ### Which courses wait (R211, R212) -/

/-- The rebuild order of a share: a course already being rebuilt; then map courses with two missing strips, other courses with
two, map courses with one, other courses with one, each in ascending ordinal; those that wait for a spare slot come last (R207,
R212). -/
def rebuildOrder (s : State) (l : Layout) (x : Nat) : List Nat :=
  let q := sortBy (fun a b => decide (a ≤ b)) (tabGetD s.rebuildQ x [])
  let is (p : Course → Bool) (k : Nat) : Bool := match courseOf s k with | some c => p c | none => false
  let waits := is fun c => c.stalled
  let isMap := is fun c => c.kind == .map
  let two (k : Nat) : Bool := decide (2 ≤ (missingOf s l k).length)
  let on := q.filter (is fun c => c.rebuilding && !c.stalled)
  let rest := q.filter fun k => !on.contains k && !waits k
  on ++ (rest.filter fun k => two k && isMap k) ++ (rest.filter fun k => two k && !isMap k) ++
    (rest.filter fun k => !two k && isMap k) ++ (rest.filter fun k => !two k && !isMap k) ++ q.filter waits

/-- Put every DURABLE course with a missing strip in the rebuild queue of its share (R211). -/
def queueRebuild (s : State) (l : Layout) : State :=
  (keysWhere s.courses fun c => c.st == .durable).foldl (fun s k => queueCourse s l k) s

/-- REBUILD_START (R211): the failure record is confirmed. -/
def execRebuildStart (m : Nat) (s : State) : Out :=
  onSlate (memberSlate m) s fun s => match s.layout with
    | some l => if recordedFailed s m && (memberOf s m).recConf then queueRebuild s l else s
    | none => s

/-! ### Lost grains (R215 to R217) -/

/-- Merge an LBA into a rising list of ranges of one course; LBAs of two leaves have their entries on two slates and are two
ranges. -/
def mergeLost (v lba : Nat) : List LostRange → List LostRange
  | [] => [{ volume := v, lba := lba, count := 1 }]
  | r :: rest =>
    if r.volume = v ∧ r.lba + r.count = lba ∧ r.lba / 512 = lba / 512 then { r with count := r.count + 1 } :: rest
    else r :: mergeLost v lba rest

/-- The ranges of a course's lost LBAs, adjacent ones merged. -/
def lostRangesOf (l : List (Nat × Nat)) : List LostRange :=
  (sortBy (fun a b => decide (a.1 < b.1) || (a.1 == b.1 && decide (a.2 ≤ b.2))) l.eraseDups).foldl
    (fun rs p => mergeLost p.1 p.2 rs) []

/-- List a range on the slate its entries are homed on, and raise GRAINS_LOST there (R215, R217).
DEDUCED (log entry 76). -/
def listLost (s : State) (r : LostRange) : State :=
  let h := actsFor s (mapHome s.n r.volume r.lba 0)
  let old := tabGetD s.lostRange h []
  let s := if old.length < 4096 then { s with lostRange := tabPut s.lostRange h (old ++ [r]) } else setF s h F.STRIPE.LOST_OVF 1
  detect s h Ev.GRAINS_LOST [BitVec.ofNat 64 (r.volume + r.count * 2 ^ 16), BitVec.ofNat 64 r.lba]

/-- Set LOST on an entry that names a lost grain, by a KEEP `MSET` at its home, made only if the entry still names it then
(R215). -/
def markLost (s : State) (v lba pgn : Nat) : State × Bool :=
  let e := mapEntry s v lba
  if lbaDefined s v lba && entryPgn e == pgn && !entryLost e then
    ((addMset s (actsFor s (mapHome s.n v lba 0)) v lba (mkEntry pgn (entryGen e) true) .lost).1, true)
  else (s, false)

/-- Replace a lost leaf that is not cached by one whose 512 entries are LOST (R216): the LBAs lost. -/
def loseLeaf (s : State) (v leaf : Nat) : State × List (Nat × Nat) :=
  let lbas := (List.range 512).map (leaf * 512 + ·)
  (lbas.foldl (fun s lba =>
    let e := mapEntry s v lba
    changeEntry s v lba (mkEntry (entryPgn e) (entryGen e) true) s.ucnDone) (noteCached s v leaf), lbas.map fun x => (v, x))

/-- Every map grain with pending updates is written back at once (R216, a lost log grain). -/
def writeBackAll (s : State) : State :=
  (s.leaves.filter fun p => !(newUpdates p.2).isEmpty).foldl (fun s p => writeBack s (nodeVol p.1) (nodeLevel p.1) (nodeIndex p.1)) s

/-- The grains of a course as a walk of the volume maps finds them: those that an entry names (R216). -/
def walkedGrains (s : State) (l : Layout) (k : Nat) : List Grain :=
  match courseOf s k with
  | none => []
  | some c => c.grains.mapIdx fun i g => if !isPad g && entryPgn (mapEntry s g.volume g.lba) == pgnOf l k i then g else padGrain

/-- Append a course's summary grain afresh in place of the one at grain `i` of map course `k`, which dies. -/
def moveSummary (s : State) (l : Layout) (k i o second : Nat) : State :=
  let s := appendTo s 2 (actsFor s (k % s.n)) [summaryGrain o second (walkedGrains s l o)] false
  let kill (c : Course) : Course :=
    { c with live := c.live - 1, grains := c.grains.mapIdx fun x g => if x = i then { g with dead := true } else g }
  retireIfDead (modCourse s k kill) k

/-- What becomes of one data grain on a missing strip of a lost column (R215, R216): the LBAs it loses. A map grain that is in the
map cache is written afresh from there.
DEDUCED (log entry 114). -/
def loseGrain (s : State) (l : Layout) (k i : Nat) (g : Grain) : State × List (Nat × Nat) :=
  let pgn := pgnOf l k i
  let host : State × List (Nat × Nat) :=
    let (s, hit) := markLost s g.volume g.lba pgn
    (s, if hit then [(g.volume, g.lba)] else [])
  if g.dead then (s, [])
  else match g.kind with
    | .host => host
    | .reloc _ => host
    | .node j =>
      let x := nodeOf s g.volume j g.lba
      if entryPgn x.ptr ≠ pgn then (s, [])
      else if nodeCached s g.volume j g.lba then (writeBack s g.volume j g.lba, [])
      else
        let (s, ls) := loseLeaf s g.volume g.lba
        (writeBack s g.volume 0 g.lba, ls)
    | .summary o => (moveSummary s l k i o g.lba, [])
    | .log _ => (writeBackAll s, [])
    | .padding => (s, [])

/-! ### Rebuilding a course (R214) -/

/-- All D + 2 positions of a column, reconstructed, or `none` where three or more are missing. -/
def fullColumn (s : State) (l : Layout) (k c : Nat) (bad : List Nat) : Option (List Block) :=
  (rebuildColumn l.d (columnOf s l k c bad)).map fun ds => ds ++ [parityP ds, parityQ ds]

/-- The positions of a column that the members named in `bad` (position, column) could not return. -/
def badAt (bad : List (Nat × Nat)) (c : Nat) : List Nat := (bad.filter fun p => p.2 == c).map (·.1)

/-- The grains of the columns that cannot be reconstructed are lost (R215). -/
def loseColumns (s : State) (l : Layout) (k : Nat) (cols : List (Nat × List Nat)) : State :=
  let grains := match courseOf s k with | some c => c.grains | none => []
  let (s, ls) := cols.foldl (fun (p : State × List (Nat × Nat)) cm =>
    (cm.2.filter (· < l.d)).foldl (fun (p : State × List (Nat × Nat)) pos =>
      let i := 32 * pos + cm.1
      let (s, ls) := loseGrain p.1 l k i (grains.getD i padGrain)
      (s, p.2 ++ ls)) p) (s, [])
  (lostRangesOf ls).foldl listLost s

/-- Whether a strip that a member's own slot is to hold still stands elsewhere or is missing. -/
def stripsAway (s : State) (l : Layout) (m : Nat) : Bool :=
  s.courses.any fun c => (c.2.st == .durable || c.2.st == .pouring) &&
    (match posIn l c.1 m with | some p => c.2.lostPos.contains p | none => false)

/-- A member's record returns to in service (R219, R220): a group of the member table. -/
def backInService (s : State) (m : Nat) : State :=
  let r : Recorded := .inService (memberOf s m).nguid
  (addTableGroup (putMember s m { memberOf s m with recorded := r, recConf := false }) [.member m r (now s 0)]).1

/-- A replacement with no failure index is back in service once every course that names it has been rebuilt (R219). -/
def settleReplaced (s : State) (l : Layout) : State :=
  (tabKeys s.members).foldl (fun s m =>
    let x := memberOf s m
    if x.recorded = .failed none ∧ x.mstate = 2 ∧ !stripsAway s l m then backInService s m else s) s

/-- Leave the queue of a share; the slate that empties its queue raises REBUILD_DONE (R221). -/
def leaveRebuild (s : State) (l : Layout) (sl k : Nat) : State :=
  let x := k % s.n
  let q := (tabGetD s.rebuildQ x []).filter (· != k)
  let s := { s with rebuildQ := if q.isEmpty then tabDel s.rebuildQ x else tabPut s.rebuildQ x q }
  let s := settleReplaced (modCourse s k fun c => { c with rebuilding := false, stalled := false, spareSeq := [] }) l
  if q.isEmpty then raise s sl Ev.REBUILD_DONE else s

/-- Allocate a spare destination for every missing strip that has none (R214 step 1). A course that finds none for a strip whose
failure record is confirmed waits, and SPARE_SHORT is raised (R207). -/
def allocMissing (s : State) (l : Layout) (sl k : Nat) : State :=
  (missingOf s l k).foldl (fun s p =>
    match destOf s l k p with
    | some _ => s
    | none => match allocSpare s l sl k p with
      | (s, some q) => modCourse s k fun c => { c with spareSeq := c.spareSeq ++ [q] }
      | (s, none) =>
        let waits := match courseOf s k with | some c => c.stalled | none => false
        if waits || !(memberOf s (place l k p).1).recConf then s
        else detect (modCourse s k fun c => { c with stalled := true }) sl Ev.SPARE_SHORT [BitVec.ofNat 64 k]) s

/-- The reads of a rebuild are done: the missing strips that have a destination are written there with FUA, columns that cannot be
rebuilt as zeros, and their grains are lost (R214 steps 4 to 6, R215). What a write leaves on its member stands from the moment
it is issued: nothing reads it before its entry is VALID. -/
def writeMissing (s : State) (l : Layout) (sl k : Nat) (bad : List (Nat × Nat)) : State :=
  let miss := missingOf s l k
  let full := (List.range 32).map fun c => (c, fullColumn s l k c (badAt bad c))
  let gone := (full.filter fun p => p.2.isNone).map fun p => (p.1, miss ++ badAt bad p.1)
  let s := miss.foldl (fun s p => match destOf s l k p with
    | none => s
    | some (m, slot) =>
      let s := issueCmd s m 1 (slotLba s m slot) (.spareWrite k p) false [] true
      writeStrip s m slot (full.map fun c => ((c.2).getD []).getD p [])) s
  let s := bump (loseColumns s l k gone) sl F.STRIPE.COLS_LOST gone.length
  modCourse s k fun c => { c with reclaim := c.reclaim || !gone.isEmpty }

/-- What a read of grains could not have, as position and column. -/
def badOf (r : GrainRead) : List (Nat × Nat) := r.bad.map fun b => (b / 32, b % 32)

/-- Whether a column of a course cannot be rebuilt only for want of paths (R182). -/
def anyUnserved (s : State) (l : Layout) (k : Nat) (bad : List (Nat × Nat)) : Bool :=
  (List.range 32).any fun c => columnServed s l k (badAt bad c) == .unserved

/-- The reads of a course's rebuild that are under way. -/
def rebuildRead (s : State) (k : Nat) : Option (Nat × GrainRead) :=
  s.reads.find? fun r => r.2.use == .rebuild && r.2.ordinal == k

/-- A read of a rebuild goes on, or has all it can have and the strips are written. A course that lacks only paths waits. -/
def stepRebuild (s : State) (l : Layout) (id : Nat) : State :=
  let s := advanceRead s id
  match tabGet s.reads id with
  | none => s
  | some r =>
    if r.left ≠ 0 then s
    else
      let s := { s with reads := tabDel s.reads id }
      if anyUnserved s l r.ordinal (badOf r) then modCourse s r.ordinal fun c => { c with stalled := true }
      else writeMissing s l r.slate r.ordinal (badOf r)

/-- A rebuilt strip is on its destination (R214 step 5): its own slot holds it, or its entry is set VALID. -/
def spareWritten (s : State) (m k pos : Nat) : State :=
  match s.layout with
  | none => s
  | some l =>
    let sl := actsFor s (k % s.n)
    let s := bump s sl F.STRIPE.REBUILT
    if m = (place l k pos).1 then modCourse s k fun c => { c with lostPos := c.lostPos.filter (· != pos) }
    else
      let (s, qs) := validSpare s l sl k pos
      modCourse s k fun c => { c with spareSeq := c.spareSeq ++ qs }

/-- Whether strip writes of a course's rebuild are outstanding. -/
def spareWriting (s : State) (k : Nat) : Bool :=
  s.members.any fun m => m.2.cmds.any fun x => match x.2.use with | .spareWrite o _ => o == k | _ => false

/-- REBUILD_COURSE (R214): slate `slate` goes on with the rebuild of a course of slate `share`'s share, its own or that of a slate it
stands in for (R320 step 7): destinations are allocated, then the surviving strips are read, then the missing ones are written, and the
course leaves the queue once its entries are VALID.
DEDUCED (log entry 125). -/
def execRebuildCourse (slate share ordinal : Nat) (s : State) : Out :=
  onSlate slate s fun s => match s.layout, courseOf s ordinal with
    | some l, some c =>
      if ordinal % s.n ≠ share || actsFor s share ≠ slate || !isF s slate F.STRIPE.RB_EN ||
        !(tabGetD s.rebuildQ share []).contains ordinal || isF s 0 F.FPIN.C4 then s
      else if spareWriting s ordinal || !(c.spareSeq.all (recSettled s slate)) then s
      else if c.st ≠ .durable || (missingOf s l ordinal).isEmpty then leaveRebuild s l slate ordinal
      else if !c.stalled && (rebuildOrder s l share).head? != some ordinal then s
      else
        let s := modCourse s ordinal fun c => { c with rebuilding := true, spareSeq := [] }
        match rebuildRead s ordinal with
        | some (id, _) => stepRebuild s l id
        | none =>
          let s := allocMissing s l slate ordinal
          let placed := (missingOf s l ordinal).filter fun p => (destOf s l ordinal p).isSome
          let wait := match courseOf s ordinal with | some c => !c.spareSeq.isEmpty | none => true
          if wait || placed.isEmpty then s
          else
            let s := modCourse s ordinal fun c => { c with stalled := false }
            startRead s slate ordinal (placed.flatMap fun p => (List.range 32).map (32 * p + ·)) .rebuild
    | _, _ => s

/-! ### Copy-back (R220) -/

/-- The slots of spare map `j` that are still placed, in ascending order. -/
def spareSlots (s : State) (j : Nat) : List Nat :=
  (s.spare.filter fun p => p.1 / 2 ^ 40 == j).map fun p => p.1 % 2 ^ 40

/-- Copy-back of a member begins (R219, R220): in a zoned pool its zones are reset first. -/
def startCopyBack (s : State) (m j : Nat) : State :=
  let s := { s with copyBack := tabPut s.copyBack m { index := j, busy := none, done := 0 } }
  match s.layout with
  | some l => if l.zoned then issueCmd s m 0x79 0 .internal false (zoneSqe 0 0x104) else s
  | none => s

/-- Copy-back ends once spare map `j` is empty and the member's own slots hold every strip of theirs (R220). -/
def finishCopyBack (s : State) (l : Layout) (m : Nat) (cb : CopyBack) : State :=
  if !(spareSlots s cb.index).isEmpty || (s.spareResv.any fun p => p.1 / 2 ^ 40 == cb.index) || stripsAway s l m then s
  else raise (backInService { s with copyBack := tabDel s.copyBack m } m) (actsFor s (memberSlate m)) Ev.COPYBACK_DONE

/-- In a zoned pool every slot of a zone of the replacement below the next strip is written with Write Zeroes (R220). -/
def skipSlots (s : State) (l : Layout) (m slot done : Nat) : State :=
  if !l.zoned then s
  else
    let first := max done (slot / max 1 l.zs * l.zs)
    (List.range (slot - first)).foldl (fun s i => issueCmd s m 8 (slotLba s m (first + i)) .internal false [] true) s

/-- The strip of a copy-back has been read (R220 step 2): it is written with FUA to its slot of the replacement; columns that cannot
be had are zero, and their grains lost (R215). -/
def writeCopy (s : State) (l : Layout) (m slot k pos : Nat) (bad : List (Nat × Nat)) : State :=
  let cols := (List.range 32).map fun c =>
    match stripAt s l k pos with
    | some (x, y) => if hasPath s x && !(badAt bad c).contains pos then some (mediaRead s x y c)
                     else (fullColumn s l k c (badAt bad c)).map (·.getD pos [])
    | none => (fullColumn s l k c (badAt bad c)).map (·.getD pos [])
  let gone := ((List.range 32).filter fun c => (cols.getD c none).isNone).map fun c => (c, pos :: missingOf s l k ++ badAt bad c)
  let done := match tabGet s.copyBack m with | some cb => cb.done | none => 0
  let s := skipSlots s l m slot done
  let s := issueCmd s m 1 (slotLba s m slot) (.copyWrite slot) false [] true
  loseColumns (writeStrip s m slot (cols.map (·.getD []))) l k gone

/-- A read of a copy-back goes on, or has all it can have and the strip is written. -/
def stepCopyBack (s : State) (l : Layout) (id m slot : Nat) : State :=
  let s := advanceRead s id
  match tabGet s.reads id with
  | none => s
  | some r =>
    if r.left ≠ 0 then s
    else
      let s := { s with reads := tabDel s.reads id }
      match posIn l r.ordinal m with
      | none => s
      | some pos =>
        if anyUnserved s l r.ordinal (badOf r) then
          { s with copyBack := tabMod s.copyBack m fun cb => { cb with busy := none } }
        else writeCopy s l m slot r.ordinal pos (badOf r)

/-- A strip has been copied to the replacement: its entry is zeroed (R220 step 3). -/
def copyWritten (s : State) (m slot : Nat) : State :=
  match tabGet s.copyBack m with
  | none => s
  | some cb =>
    let sl := actsFor s (memberSlate m)
    bump (addMset s sl (0x1000 + cb.index) slot 0).1 sl F.STRIPE.REBUILT

/-- COPY_BACK_STRIP (R220): the lowest slot of the spare map whose strip stands on its destination is copied to the replacement,
one at a time; a released course has no entry. -/
def execCopyBackStrip (m : Nat) (s : State) : Out :=
  onSlate (memberSlate m) s fun s => match s.layout, tabGet s.copyBack m with
    | some l, some cb =>
      if !inService s m || !isF s (memberSlate m) F.STRIPE.RB_EN || isF s 0 F.FPIN.C4 then s
      else match cb.busy with
        | some slot => match s.reads.find? fun r => r.2.use == .copyBack m slot with
          | some r => stepCopyBack s l r.1 m slot
          | none => s
        | none =>
          let ready (slot : Nat) : Bool := match spareOf s cb.index slot with | some e => e.valid && !e.stale | none => false
          match (spareSlots s cb.index).find? ready with
          | none => finishCopyBack s l m cb
          | some slot =>
            let s := { s with copyBack := tabPut s.copyBack m { cb with busy := some slot } }
            match (ordinalAt l m slot).bind fun k => (posIn l k m).map fun p => (k, p) with
            | none => s
            | some (k, p) =>
              startRead s (memberSlate m) k ((List.range 32).map (32 * p + ·)) (.copyBack m slot)
    | _, _ => s

/-! ### Reclaim (R177) -/

/-- Whether a victim's grains are already on their way. -/
def underReclaim (s : State) (k : Nat) (c : Course) : Bool :=
  c.moved || s.reads.any fun r => r.2.use == .reclaim && r.2.ordinal == k

/-- Whether a course carries block data. -/
def carriesData (c : Course) : Bool := c.kind == .data || c.kind == .reclaim

/-- The slate whose course engine reclaims a course: in a conventional pool the share of rebuild, k mod n, and in a zoned pool one
slate for a run.
DESIGN CHOICE (log entry 70). -/
def reclaimSlate (s : State) (l : Layout) (k : Nat) : Nat := actsFor s ((if l.zoned then runOf l k else k) % s.n)

/-- The victim of a slate's reclaim (R177, R214 step 6): a damaged course ahead of every other; in a conventional pool the data
course with the fewest live grains, in a zoned pool a course of the full run with the lowest live fraction. -/
def victimOf (s : State) (l : Layout) (x : Nat) (on : Bool) : Option Nat :=
  let free (p : Nat × Course) : Bool := p.2.st == .durable && !underReclaim s p.1 p.2 && reclaimSlate s l p.1 == x
  match s.courses.find? fun p => p.2.reclaim && free p with
  | some p => some p.1
  | none =>
    if !on then none
    else
      let lim := getF s x F.STRIPE.RECL_LIVE_MAX
      let ok (p : Nat × Course) : Bool := free p && carriesData p.2 && decide (p.2.live * 100 ≤ lim * dataGrains l)
      let full (r : Nat) : Bool := runOf l s.lastOrd != r &&
        s.courses.all fun p => runOf l p.1 != r || p.2.st == .durable || p.2.st == .retired || p.2.st == .released
      let runLive (r : Nat) : Nat := s.courses.foldl (fun a p => if runOf l p.1 = r then a + p.2.live else a) 0
      let runLow (k : Nat) : Bool := full (runOf l k) && decide (runLive (runOf l k) * 100 ≤ lim * dataGrains l * runSize l)
      let cand := s.courses.filter fun p => if l.zoned then free p && runLow p.1 else ok p
      let weight (p : Nat × Course) : Nat := if l.zoned then runLive (runOf l p.1) else p.2.live
      (cand.foldl (fun (b : Option (Nat × Course)) p => match b with
        | none => some p
        | some q => if weight p < weight q then some p else b) none).map (·.1)

/-- Whether a grain of a course is live: the entry of its LBA, or the pointer to it, still names it (R177). -/
def grainNamed (s : State) (l : Layout) (k i : Nat) (g : Grain) : Bool :=
  let pgn := pgnOf l k i
  let block := lbaDefined s g.volume g.lba && entryPgn (mapEntry s g.volume g.lba) == pgn && !entryLost (mapEntry s g.volume g.lba)
  !g.dead && match g.kind with
    | .host => block
    | .reloc _ => block
    | .node j => entryPgn (nodeOf s g.volume j g.lba).ptr == pgn
    | .summary _ => true
    | .log _ => true
    | .padding => false

/-- Whether relocation of a live grain reads it: a block, or a leaf that is not in the map cache. -/
def grainRead (s : State) (g : Grain) : Bool :=
  match g.kind with
  | .host => true
  | .reloc _ => true
  | .node j => !nodeCached s g.volume j g.lba
  | _ => false

/-- One live grain of a course being relocated, where it could be had (R158, R177): a block goes to the reclaim lead, a map grain is
written anew to the map lead. What is lost is lost (R215, R219); the answer tells whether it has been dealt with. -/
def relocateGrain (s : State) (l : Layout) (sl k i : Nat) (g : Grain) (bad : List Nat) : State × List (Nat × Nat) × Bool :=
  let pgn := pgnOf l k i
  let lost : State × List (Nat × Nat) × Bool := match stripServed s l k (i / 32) bad with
    | .unserved => (s, [], false)
    | _ => let (s, ls) := loseGrain s l k i g; (s, ls, true)
  let block : State × List (Nat × Nat) × Bool := match readGrain s l k i bad with
    | some b => (appendTo s 1 sl [{ g with kind := .reloc pgn, data := b, job := none, seqs := [] }] false, [], true)
    | none => lost
  match g.kind with
  | .host => block
  | .reloc _ => block
  | .node j =>
    if nodeCached s g.volume j g.lba then (writeBack s g.volume j g.lba, [], true)
    else match readGrain s l k i bad with
      | some _ => (writeBack (noteCached s g.volume g.lba) g.volume j g.lba, [], true)
      | none => lost
  | .summary o => (moveSummary s l k i o g.lba, [], true)
  | .log _ => (writeBackAll s, [], true)
  | .padding => (s, [], true)

/-- Relocate what is live in a victim, its reads done (R158, R177). -/
def relocate (s : State) (l : Layout) (sl k : Nat) (bad : List Nat) : State :=
  match courseOf s k with
  | none => s
  | some c =>
    let (s, ls, all) := (indexed c).foldl (fun (p : State × List (Nat × Nat) × Bool) ig =>
      if !grainNamed p.1 l k ig.1 ig.2 then p
      else
        let r := relocateGrain p.1 l sl k ig.1 ig.2 ((bad.filter fun b => b % 32 == ig.1 % 32).map (· / 32))
        (r.1, p.2.1 ++ r.2.1, p.2.2 && r.2.2)) (s, [], true)
    let s := modCourse s k fun c => { c with reclaim := false, moved := all }
    (lostRangesOf ls).foldl listLost s

/-- A victim's live grains are read, then relocated (R177). -/
def startReclaim (s : State) (l : Layout) (sl k : Nat) : State :=
  match courseOf s k with
  | none => s
  | some c =>
    let want := ((indexed c).filter fun ig => grainNamed s l k ig.1 ig.2 && grainRead s ig.2).map (·.1)
    if want.isEmpty then relocate s l sl k [] else startRead s sl k want .reclaim

/-- A read of reclaim goes on, or has all it can have and the victim is relocated. -/
def stepReclaim (s : State) (l : Layout) (id : Nat) : State :=
  let s := advanceRead s id
  match tabGet s.reads id with
  | none => s
  | some r => if r.left ≠ 0 then s else relocate { s with reads := tabDel s.reads id } l r.slate r.ordinal r.bad

/-- The next decision of a slate's course engine (R177, R183): reclaim starts below its RECL_START and stops above its RECL_STOP,
and takes one victim at a time.
DEDUCED (log entry 70). -/
def reclaimSlateStep (s : State) (l : Layout) (x : Nat) : State :=
  let free := freeOrdinals s * 1000
  let was := s.reclaiming.contains x
  let on := isF s x F.STRIPE.RECL_EN &&
    (if was then decide (free ≤ getF s x F.STRIPE.RECL_STOP * ordinals l) else decide (free < getF s x F.STRIPE.RECL_START * ordinals l))
  let rest := s.reclaiming.filter (· != x)
  let s := { s with reclaiming := if on then (if was then s.reclaiming else rest ++ [x]) else rest }
  match s.reads.find? fun r => r.2.use == .reclaim && r.2.slate == x with
  | some r => if r.2.left = 0 then stepReclaim s l r.1 else s
  | none => match victimOf s l x on with
    | some k => startReclaim s l x k
    | none => s

/-- What the course engines do for reclaim whatever is commanded. -/
def reclaimStep (s : State) : State :=
  match s.layout with
  | none => s
  | some l =>
    if s.recovery < 8 || isF s 0 F.FPIN.C4 || s.lease.role != 1 then s
    else (servingSlates s).foldl (fun s x => reclaimSlateStep s l x) s

end Sys2Proof.Machine
end

