-- ==== Sys2Proof/Machine/MemberCmds.lean ====
section
/-! DEFINITION. The commands of drive ports and members: timeouts, completions, insertion, hold-out and the recovery quorum
(R66, R173, R179 to R182, R184, R206, R218, R219, R371). -/

namespace Sys2Proof.Machine

/-- The form of a meaning that belongs to a member's drive port: its slate must exist, and there must be a path to it, by its
own slate or by the partner (R182). -/
def onMember (m : Nat) (s : State) (f : State → State) : Out :=
  if s.n ≤ memberSlate m then .fault .noSuchSlate
  else onUnit s fun s => if hasPath s m then f s else s

/-! ### Loss and timeouts (R181) -/

/-- MEMBER_LINK_LOSS. -/
def execMemberLinkLoss (m : Nat) (s : State) : Out :=
  onMember m s fun s =>
    let x := memberOf s m
    if !x.link then s
    else declareGone (putMember s m { x with link := false, speed := 0, width := 0 }) m 3 0 0 0

/-- CSTS_POLL: the port reads CSTS; CFS set declares the member gone. -/
def execCstsPoll (m : Nat) (cfs : Bool) (s : State) : Out :=
  onMember m s fun s => if cfs && (memberOf s m).link && inService s m then declareGone s m 3 0 0 0 else s

/-- An outstanding command of a member. -/
def cmdAt (s : State) (m cmd : Nat) : Option DrvCmd := tabGet (memberOf s m).cmds cmd

/-- The submission entry of NVMe Abort for a command of a queue pair.
PRESUMED (log entry 122). -/
def abortSqe (q cmd : Nat) : Block := [8] ++ List.replicate 39 0 ++ leBytes 4 (q + cmd % 65536 * 65536) ++ List.replicate 20 0

/-- CMD_TIMEOUT: the port sends NVMe Abort for the command. A command that waits for a queue pair has not been submitted, and a
Sanitize that runs in the background inside its member stands under no timeout. -/
def execCmdTimeout (m cmd : Nat) (s : State) : Out :=
  onMember m s fun s => match cmdAt s m cmd with
    | none => s
    | some c =>
      let sl := portSlate s m
      if c.use == .sanitize || c.aborted.isSome || c.queue.isNone || decide (now s sl < c.tb + c.timeout) then s
      else
        let x := memberOf s m
        let s := putMember s m { x with cmds := tabPut x.cmds cmd { c with aborted := some (now s sl) } }
        let s := issueCmd s m 8 0 .internal true (abortSqe (c.queue.getD 0) cmd)
        detect (bump s sl (F.DRIVE.TIMEOUTS (m % 6))) sl Ev.CMD_TIMEOUT (driveDetail m 0 c.opcode c.lba)

/-- ABORT_GRACE_EXPIRY: the aborted command has not completed, and the port resets the controller. -/
def execAbortGraceExpiry (m cmd : Nat) (s : State) : Out :=
  onMember m s fun s => match cmdAt s m cmd with
    | none => s
    | some c => match c.aborted with
      | none => s
      | some t =>
        let x := memberOf s m
        if x.resetAt.isSome || decide (now s (portSlate s m) < t + c.grace) then s
        else putMember s m { x with resetAt := some (now s (portSlate s m)) }

/-- READY_MAX as it stood for the commands that led to a controller reset (R184). -/
def readyLimit (s : State) (m : Nat) : Nat :=
  match (memberOf s m).cmds.find? fun c => c.2.aborted.isSome with
  | some c => c.2.readyMx
  | none => getF s (portSlate s m) F.DRIVE.READY_MAX * ms

/-- READY_MAX_EXPIRY: the controller is not ready in time, and the member is declared gone. -/
def execReadyMaxExpiry (m : Nat) (s : State) : Out :=
  onMember m s fun s => match (memberOf s m).resetAt with
    | none => s
    | some t => if t + readyLimit s m ≤ now s (portSlate s m) then declareGone s m 3 0 0 0 else s

/-! ### Completions (R66, R173, R210, R214) -/

/-- The NVMe status of an Unrecovered Read Error, in DW3[31:17] less its retry, more and do-not-retry bits. PRESUMED: NVM
Express Base Specification, status code type 2h, status code 81h. -/
def unrecovered (status : Nat) : Bool := status % 2 ^ 11 == 0x281

/-- A read error is counted and reported (R184). -/
def mediaError (s : State) (m status opcode lba : Nat) : State :=
  let sl := portSlate s m
  detect (bump s sl (F.DRIVE.MEDIA_ERRS (m % 6))) sl Ev.MEDIA_ERR (driveDetail m status opcode lba)

/-- The logical block `lba` of a member's namespace as it stands. -/
def lbaRead (s : State) (m lba : Nat) : Block := match lbaSlot s m lba with | some (t, c) => mediaRead s m t c | none => []

/-- Write one logical block of a member. -/
def lbaWrite (s : State) (m lba : Nat) (b : Block) : State :=
  match lbaSlot s m lba with | some (t, c) => mediaWrite s m t c b | none => s

/-- What a `DSUB` command that succeeds moves (R64): a read fills the handle, a Write or Write Zeroes changes the member, and any
other command that moves data from the member fills the handle's whole length with the bytes of its completion. -/
def moveData (s : State) (m : Nat) (c : DrvCmd) (h : Option Handle) (r : NvmeResult) : State :=
  let nlb := leNat (blockSlice c.sqe 48 2) + 1
  if c.admin || !(c.opcode == 1 || c.opcode == 2 || c.opcode == 8) then
    match h with
    | some h => if nvmeDir c.opcode = 2 then bufWrite s h.buf h.off (blockSlice (r.data.flatMap (·.getD [])) 0 h.len) else s
    | none => s
  else if c.opcode = 2 then
    match h with
    | none => s
    | some h => (List.range nlb).foldl (fun s i => bufWrite s h.buf (h.off + i * 4096) (blockSlice (lbaRead s m (c.lba + i)) 0 4096)) s
  else if c.opcode = 1 then
    match h with
    | none => s
    | some h => (List.range nlb).foldl (fun s i => lbaWrite s m (c.lba + i) (handleRead s h (i * 4096) 4096)) s
  else if c.opcode = 8 then (List.range nlb).foldl (fun s i => lbaWrite s m (c.lba + i) []) s
  else s

/-- A `DSUB` command completes: its ticket becomes collectable (R66). -/
def ticketDone (s : State) (m : Nat) (c : DrvCmd) (job t : Nat) (r : NvmeResult) : State :=
  let st := r.statusField % 2 ^ 15
  let lost := st == 0 && c.opcode == 2 && !c.admin && r.data.any Option.isNone
  let st := if lost then 0x281 else st
  let h := ((jobOf s job).bind fun j => tabGet j.tickets t).bind (·.buf)
  let s := if st = 0 then moveData s m c h r else s
  let s := if unrecovered st then mediaError s m st c.opcode c.lba else s
  let code := if st = 0 then St.ok else if unrecovered st then St.mediaUnrecovered else St.illegalField
  modTicket s job t fun x => { x with result := some (ticketWord code st r.dw0) }

/-- A read of grains with no member read outstanding goes on with what it is for (R177, R214, R220). -/
def continueRead (s : State) (id : Nat) : State :=
  match tabGet s.reads id, s.layout with
  | some r, some l =>
    if r.left ≠ 0 then s
    else match r.use with
      | .reclaim => stepReclaim s l id
      | .rebuild => stepRebuild s l id
      | .copyBack m slot => stepCopyBack s l id m slot
      | _ => s
  | _, _ => s

/-- A member read of columns of a strip completes: those the member could not return are read from other strips, and where they
are unreadable sectors MEDIA_ERR is raised, and their course is reclaimed first (R210, R214 steps 3 and 6). -/
def columnsDone (s : State) (m : Nat) (c : DrvCmd) (id pos col count : Nat) (r : NvmeResult) : State :=
  let st := r.statusField % 2 ^ 15
  let bad := ((List.range count).filter fun i => st != 0 || (r.data.getD i (some [])).isNone).map (col + ·)
  let sector := !bad.isEmpty && (st == 0 || unrecovered st)
  let s := if sector then mediaError s m (if st = 0 then 0x281 else st) c.opcode c.lba else s
  let s := match tabGet s.reads id with
    | some x => if sector && x.use == .rebuild then bump s x.slate F.STRIPE.SECTORS bad.length else s
    | none => s
  continueRead (readReturn s id pos col count bad sector) id

/-- The administrative operation's progress record is written (R96). -/
def recordAdmin (s : State) : State := (addTable s (.progress s.admin)).1

/-- A member has finished its Sanitize, which the progress record then says, or has failed it and is marked failed (R97). -/
def sanitizeDone (s : State) (m : Nat) (ok : Bool) : State :=
  if ok then recordAdmin { s with admin := { s.admin with todo := s.admin.todo.filter (· != m) } }
  else declareGone s m 3 0 0x84 0

/-- NVME_COMPLETION (R66): a member completes a command.
DEDUCED (log entry 68). -/
def execNvmeCompletion (m cmd : Nat) (r : NvmeResult) (s : State) : Out :=
  onMember m s fun s => match cmdAt s m cmd with
    | none => s
    | some c =>
      let st := r.statusField % 2 ^ 15
      let ok := st == 0
      if c.queue.isNone then s
      else
        let s := endCmd s m cmd
        match c.use with
        | .strip k pos => if ok then stripDone s k pos else stripFail s k pos st
        | .ticket job t => ticketDone s m c job t r
        | .read id pos col count => columnsDone s m c id pos col count r
        | .spareWrite k pos => if ok then spareWritten s m k pos else writeFailed s m st c.opcode c.lba
        | .copyWrite slot => if ok then copyWritten s m slot else writeFailed s m st c.opcode c.lba
        | .power => if ok then putMember s m { memberOf s m with lowPower := leNat (blockSlice c.sqe 44 4) % 32 != 0 } else s
        | .sanitize => sanitizeDone s m ok
        | .internal => s

/-- An NVMe status that is an error and no Unrecovered Read Error; which one is a free value. -/
def errorStatus (s : State) : Nat :=
  let x := 1 + (freeVal s).toNat % 32767
  if unrecovered x then x + 1 else x

/-- A command that a controller reset completes with an error, whose status the manual does not give (R181).
DESIGN CHOICE (log entry 13). -/
def resetCmd (s : State) (m : Nat) (c : DrvCmd) : State :=
  let st := errorStatus s
  match c.use with
  | .ticket job t => modTicket (takeFree s) job t fun x => { x with result := some (ticketWord St.illegalField st 0) }
  | .read id pos col count => continueRead (readReturn s id pos col count ((List.range count).map (col + ·)) false) id
  | .strip k pos => stripFail (takeFree s) k pos st
  | .spareWrite _ _ => writeFailed (takeFree s) m st c.opcode c.lba
  | .copyWrite _ => writeFailed (takeFree s) m st c.opcode c.lba
  | .power => s
  | .sanitize => s
  | .internal => s

/-- CONTROLLER_READY (R181): the reset succeeds; every outstanding command completes with an error. -/
def execControllerReady (m : Nat) (s : State) : Out :=
  onMember m s fun s =>
    let x := memberOf s m
    if x.resetAt.isNone then s
    else
      let s := putMember s m { x with resetAt := none, cmds := [] }
      let s := bump s (portSlate s m) (F.DRIVE.RESETS (m % 6))
      (tabVals x.cmds).foldl (fun s c => resetCmd s m c) s

/-! ### Insertion (R179, R184, R219, R371) -/

/-- A replacement enters service (R219): nothing of what the member's number stands for is on it. -/
def seatReplacement (s : State) (m : Nat) : State :=
  let s := { putMember s m { memberOf s m with mstate := 2 } with media := s.media.filter fun p => p.1 / 32 / 2 ^ 40 != m }
  match s.layout with | some l => loseStrips s l m | none => s

/-- The member takes its place by the member table's record of its number (R219). A drive of another NGUID, or one offered
outside recovery, where the table records the member in service has no row of its own and stays out of the pool; one offered in
place of a member whose failure waits for its record waits too (R206).
DEDUCED (log entry 75). -/
def seatMember (s : State) (m : Nat) : State :=
  let x := memberOf s m
  let cap := match s.layout with | some l => l.cap | none => 0
  let put (k : Nat) : State := putMember s m { x with mstate := k }
  if !x.conforms then put 5
  else match x.recorded with
    | .inService g => if x.goneAt.isSome then put 1 else if g = x.nguid ∧ s.recovery < 8 then put 2 else put 5
    | .failed j =>
      if x.strips < cap then put 5
      else match j with
        | some j => startCopyBack (seatReplacement s m) m j
        | none => match s.layout with
          | some l => settleReplaced (queueRebuild (seatReplacement s m) l) l
          | none => seatReplacement s m
    | .notInPool => put 5

/-- The port sets the Host Identifier of a new drive's controller, and a module that holds or stands by for the lease registers its
current key there (R289, R296).
DEDUCED (log entry 132). -/
def registerMember (s : State) (m : Nat) : State :=
  let x := memberOf s m
  let l := s.lease
  putMember s m { x with
    hostId := some (Config.hostId (Config.macBase 0) l.bay)
    resv := if l.role = 1 ∨ l.role = 2 then some (ownKey s (l.role == 1) l.excl (if l.role = 1 then l.renew else 0)) else x.resv }

/-- DRIVE_INSERT (R179, R219): a drive trains on a port whose PERST_N is released. -/
def execDriveInsert (m : Nat) (d : Drive) (s : State) : Out :=
  onMember m s fun s =>
    let x := memberOf s m
    let sl := portSlate s m
    if x.perst || x.link then s
    else
      let s := putMember s m { x with
        present := true, conforms := d.conforms, link := true, speed := d.speed, width := d.width, zoned := d.zoned
        strips := d.strips, zs := d.zs, zoneLbas := d.zoneLbas, lowPs := d.lowPs, zoneRes := d.zoneRes, sanCap := d.sanCap, nguid := d.nguid, mstate := 1 }
      let s := registerMember s m
      let s := { s with drvTrain := match s.drvTrain with | some t => some t | none => some (now s 0) }
      let s := if d.speed < 6 || d.width < 4 then detect s sl Ev.LINK_DEGRADED [] else s
      let s := if d.conforms then raise s sl (Ev.MEMBER_ADDED (m % 6)) else s
      if isF s (memberSlate m) (F.DRIVE.HOLD_OUT (m % 6)) then putMember s m { memberOf s m with mstate := 4 }
      else seatMember s m

/-- HOLD_OUT written (R184): 1 declares the member gone, 0 offers the drive again as an inserted member. -/
def holdOutOp (s : State) (m : Nat) (on : Bool) : State :=
  let x := memberOf s m
  if on then declareGone s m 4 0 0 0
  else if x.mstate ≠ 4 then s
  else if x.link then
    let s := if x.conforms then raise s (memberSlate m) (Ev.MEMBER_ADDED (m % 6)) else s
    seatMember s m
  else putMember s m { x with mstate := 0 }

/-- PERST_RELEASE (R371): the port's reference clock, which runs from the end of reset, has run for 100 µs and the drive is
present. -/
def execPerstRelease (m : Nat) (s : State) : Out :=
  onMember m s fun s =>
    let x := memberOf s m
    if x.perst && serving s (memberSlate m) && decide (s.resetTb + 100 * us ≤ now s 0) then putMember s m { x with present := true, perst := false } else s

/-- PRSNT_DEASSERT (R371): the drive leaves its port, which drives PERST_N low again; its link goes down (R181). -/
def execPrsntDeassert (m : Nat) (s : State) : Out :=
  onMember m s fun s =>
    let x := memberOf s m
    if !x.present then s
    else
      let s := putMember s m { x with link := false, speed := 0, width := 0 }
      let s := declareGone s m 3 0 0 0
      let x := memberOf s m
      putMember s m { x with present := false, conforms := false, perst := true, hostId := none, resv := none }

/-! ### The recovery quorum (R218) -/

/-- Members recorded in service that are not in service. -/
def missingMembers (s : State) : List Nat :=
  (s.members.filter fun p => (match p.2.recorded with | .inService _ => true | _ => false) && p.2.mstate != 2).map (·.1)

/-- Whether recovery waits for the member quorum: step 3 of R200. -/
def atQuorum (s : State) : Bool := s.recovery == 2 && !s.quorum

/-- The quorum is reached: the members still missing are declared gone. Their failure records are written once replay has
finished (R206, R211). -/
def reachQuorum (s : State) : State :=
  let s := (missingMembers s).foldl (fun s m =>
    let x := memberOf s m
    let s := recordFailure (putMember s m { x with mstate := if x.mstate = 5 then 5 else 3 }) m
    let s := match s.layout with | some l => loseStrips s l m | none => s
    detect s (portSlate s m) (Ev.MEMBER_LOST (m % 6)) (driveDetail m 0 0 0)) s
  { s with quorum := true, qShort := false }

/-- MEMBER_QUORUM: every recorded member is in service. -/
def execMemberQuorum (s : State) : Out :=
  onUnit s fun s => if atQuorum s && (missingMembers s).isEmpty then reachQuorum s else s

/-- QUORUM_WAIT_EXPIRY: QUORUM_WAIT has passed since the first drive port finished training. -/
def execQuorumWaitExpiry (s : State) : Out :=
  onUnit s fun s => match s.drvTrain with
    | none => s
    | some t =>
      if !atQuorum s || decide (now s 0 < t + getF s 0 F.STRIPE.QUORUM_WAIT * ms) then s
      else
        let miss := missingMembers s
        if miss.length ≤ 2 then reachQuorum s
        else if s.qShort then s
        else detect { s with qShort := true } 0 Ev.QUORUM_SHORT [BitVec.ofNat 64 (maskOf miss)]

end Sys2Proof.Machine
end

