-- ==== Sys2Proof/Machine/Recovery.lean ====
section
/-! DEFINITION. Replay: the merge of the journal copies, the courses resolved and the map records applied (R200 to R203). -/

namespace Sys2Proof.Machine

/-! ### Merging the copies (R201) -/

/-- Whether a copy can be read: its slate serves, or the partner answers (R200 step 5, R201). -/
def copyReadable (s : State) (c : JournalCopy) : Bool :=
  if c.holder = 3 then s.lease.up else serving s (holderSlate s.n c.owner c.holder)

/-- The copies of an owner that can be read.
DEDUCED (log entry 78). -/
def copiesFor (s : State) (copies : List JournalCopy) (o : Nat) : List JournalCopy :=
  copies.filter fun c => c.owner == o && copyReadable s c

/-- Whether the area of a copy still holds an owner's records: a stand-in's may have been given to another owner (R194). -/
def areaHolds (s : State) (o p : Nat) : Bool :=
  let x := holderSlate s.n o p
  match p with
  | 2 => (tabGet s.standin2 x).isNone
  | 4 => tabGet s.standin x == some o || tabGet s.standin2 x == some o
  | 5 => tabGet s.standin x == some o || tabGet s.standin2 x == some o
  | _ => true

/-- Whether a copy has a line for a record: the holder acknowledged it, or had it on its way and wrote it all the same. -/
def copySent (s : State) (c : JournalCopy) (r : Rec) : Bool :=
  areaHolds s c.owner c.holder &&
    (r.acks.contains c.holder || (decide (r.seq ≤ c.upTo) && (c.holder == 1 || tabHas r.due c.holder)))

/-- Whether a copy holds a record: a line whose CRC or ECC fails is as never written (R187). -/
def copyHolds (s : State) (c : JournalCopy) (r : Rec) : Bool := copySent s c r && !c.torn.contains r.seq

/-- The longest prefix of an owner's records with no SEQ missing from every copy. -/
def journalPrefix (s : State) (w : Owner) (cs : List JournalCopy) : List Rec :=
  w.recs.takeWhile fun r => r.trimmed || cs.any fun c => copyHolds s c r

/-- An owner's last holder set: as the unit records have it, those in slate 0's prefix of the log among them (R201). -/
def lastHolders (s : State) (copies : List JournalCopy) (o : Nat) : Option (List Nat) :=
  (journalPrefix s (ownerOf s 0) (copiesFor s copies 0)).foldl (fun hs r => match r.body with
    | .table (.holders x h) => if x = o then some h else hs
    | _ => hs) (tabGet s.durable.holders o)

/-- Whether a holder was live to the end of the session: its slate was not lost, and the partner had not left the holder sets. -/
def liveToEnd (s : State) (o p : Nat) : Bool :=
  if p = 3 then !s.lastLost.contains 8 else !s.lastLost.contains (holderSlate s.n o p)

/-- Whether the prefix of an owner is proved complete: a member of its last holder set is readable and was live to the end
of the session. An owner that never had a holder set has written nothing. -/
def prefixProved (s : State) (copies : List JournalCopy) (o : Nat) : Bool :=
  match lastHolders s copies o with
  | none => true
  | some hs => hs.isEmpty || (copiesFor s copies o).any fun c => liveToEnd s o c.holder && hs.contains c.holder

/-- Whether a record of the prefix is found in the copies of one holder alone. -/
def foundAlone (s : State) (p : List Rec) (cs : List JournalCopy) (holder : Nat) : Bool :=
  p.any fun r => cs.any (fun c => c.holder == holder && copyHolds s c r) &&
    !cs.any fun c => c.holder != holder && copyHolds s c r

/-- A line inside the prefix that failed on one copy is rewritten from another, and MRAM_UNCORR is raised on its slate (R204). -/
def reportTorn (s : State) (p : List Rec) (cs : List JournalCopy) : State :=
  (cs.filter fun c => c.holder != 3 && p.any fun r => copySent s c r && c.torn.contains r.seq).foldl (fun s c =>
    detect s (holderSlate s.n c.owner c.holder) Ev.MRAM_UNCORR []) s

/-- An owner's journal after the merge: the prefix stands confirmed, its records wait to be packed, and SEQ resumes above the
highest found. -/
def mergeOwner (s : State) (copies : List JournalCopy) (o : Nat) : State :=
  let w := ownerOf s o
  let cs := copiesFor s copies o
  let p := journalPrefix s w cs
  let found := w.recs.filter fun r => cs.any fun c => copyHolds s c r
  let high := (p ++ found).foldl (fun a r => max a r.seq) (w.trim - 1)
  let alone (holder : Nat) : Bool := foundAlone s p cs holder
  let s := reportTorn s p cs
  let s := if alone 2 then setF s (o ^^^ 1) F.JOURNAL.USED_TWIN 1 else s
  let s := if alone 3 then setF s o F.JOURNAL.USED_PARTNER 1 else s
  retrim (putOwner s o { w with
    seq := high, recs := p.map fun r => { r with confirmed := true, packed := false }, waiting := [] }) o

/-! ### Resolving courses (R167, R202) -/

/-- Whether an owner's journal holds a course's COMMIT. -/
def committed (s : State) (k : Nat) (c : Course) : Bool :=
  (ownerOf s c.slate).recs.any fun r => match r.body with | .commit ord _ _ _ _ => ord == k && k != 0 | _ => false

/-- Whether an owner's journal holds a course's COURSE record. -/
def courseRecorded (s : State) (k : Nat) (c : Course) : Bool :=
  (ownerOf s c.slate).recs.any fun r => match r.body with | .course ord _ _ _ => ord == k | _ => false

/-- A course with a COURSE record and no COMMIT is discarded (R202); one with neither leaves its ordinal free. -/
def discardCourse (s : State) (k : Nat) (c : Course) : State :=
  if !courseRecorded s k c then { s with courses := tabDel s.courses k }
  else
    let s := modCourse s k fun c =>
      { c with st := .retired, grains := [], live := 0, holdJobs := [], comSeq := none, ucn := none }
    let s := match c.recSeq with | some q => trimRecs s c.slate fun r => r.seq == q | none => s
    bumpSat s c.slate F.JOURNAL.DISCARDED

/-- Resolve every course that had not become DURABLE; one whose COMMIT carries no UCN becomes DURABLE at once. In a zoned pool the
run of a discarded course is closed. -/
def resolveCourses (s : State) : State :=
  let gone := s.courses.filter fun p => inTundish p.2 && courseRecorded s p.1 p.2 && !committed s p.1 p.2
  let open_ := s.courses.filter fun p => inTundish p.2
  let s := match s.layout with
    | some l => closeRuns s l (gone.map (·.1))
    | none => s
  open_.foldl (fun s p =>
    if !committed s p.1 p.2 then discardCourse s p.1 p.2
    else if p.2.ucn.isNone then makeDurable s p.1
    else modCourse s p.1 fun c => { c with st := .pouring }) s

/-! ### Applying records (R190, R195, R203) -/

/-- Records of a group whose COMMIT is not in the prefix mean nothing, and are trimmed (R189, R196). -/
def dropOpenGroups (s : State) (o : Nat) : State :=
  let w := ownerOf s o
  let closed (r : Rec) : Bool := w.recs.any fun c => match c.body with
    | .commit _ first count _ _ => decide (first ≤ r.seq) && decide (r.seq < first + count)
    | _ => false
  trimRecs s o fun r => r.grp && !closed r

/-- The records that carry a UCN, in rising order. -/
def ucnRecords (s : State) : List (Nat × RecBody) :=
  sortBy (fun a b => decide (a.1 ≤ b.1))
    ((s.owners.flatMap fun p => p.2.recs.filterMap fun r => if recUcn r.body = 0 then none else some (recUcn r.body, r.body)))

/-- Apply the record of one UCN, if its turn has not passed. -/
def applyUcn (s : State) (x : Nat × RecBody) : State :=
  if x.1 ≤ s.ucnDone then s
  else match x.2 with
    | .mset lba v w u how => { applyMset s v lba w how u with ucnDone := x.1 }
    | .commit 0 first count u _ => { applyGroup s first count u with ucnDone := x.1 }
    | .commit k _ _ _ _ => { makeDurable { s with ucnDone := x.1 - 1 } k with ucnDone := x.1 }
    | _ => s

/-- The highest UCN found: in the records, and in the courses of the flash log (R200 step 7). -/
def highUcn (s : State) : Nat :=
  s.flashDir.foldl (fun a d => max a d.2.top) ((ucnRecords s).foldl (fun a x => max a x.1) 0)

/-- Apply every record in UCN order; a UCN that no copy holds belongs to nothing that was confirmed. -/
def applyRecords (s : State) : State :=
  let high := highUcn s
  let s := (ucnRecords s).foldl applyUcn s
  { s with ucn := high, ucnDone := high }

/-- The index of pending updates per map grain, in UCN order, from the log grains of the directory's courses and the map records
still untrimmed (R203). -/
def indexUpdates (s : State) : State :=
  let ups := (s.flashDir.flatMap fun d => d.2.updates) ++ s.owners.flatMap fun o => recUpdates s o.1 o.2.recs
  let new := ups.eraseDups.filter fun x => match tabGet s.leaves x.1 with | some y => decide (y.flushed < x.2) | none => true
  let s := { s with leaves := tabMapV s.leaves fun _ x => { x with cached := false, pending := [], writing := none, flushed := 0 } }
  (sortBy (fun a b => decide (a.2 ≤ b.2)) new).foldl (fun s x => pendNode s (nodeVol x.1) (nodeLevel x.1) (nodeIndex x.1) x.2) s

/-- A deletion or shrink whose record had taken effect is over with the session, and any other never happened (R95). -/
def settleCuts (s : State) : State :=
  (tabKeys s.volumes).foldl (fun s v => match tabGet s.volumes v with
    | some x => match x.cut with
      | some c =>
        let s := { s with volumes := tabMod s.volumes v fun x => { x with cut := none } }
        if x.size ≠ c.size then s
        else cutEntries (if x.size = 0 then { s with volumes := tabDel s.volumes v } else s) v x.size
      | none => s
    | none => s) s

/-! ### The end of replay (R200, R208, R211) -/

/-- A member whose table record was never confirmed is as the member table has it. -/
def revertMember (s : State) (m : Nat) : State :=
  let x := memberOf s m
  if x.recConf then s
  else putMember s m { x with recorded := tabGetD s.durable.members m .notInPool, recConf := true }

/-- Whether a readable copy of the QTAB of a queue's slate is left (R194). -/
def qtabReadable (s : State) (copies : List JournalCopy) (hq : Nat) : Bool :=
  let o := hqSlate hq
  (copiesFor s copies o).any fun c => !s.qtabGone.contains (8 * o + c.holder)

/-- Persistent keys and queue registrations are restored, the queues unarmed (R115, R134, R194, R200 step 7). -/
def restoreKeys (s : State) (copies : List JournalCopy) : State :=
  let s := (List.range s.n).foldl (fun s x =>
    s.durable.keys.foldl (fun s p => setKey s (keyKey x p.1) (some p.2)) s) s
  let s := { s with durable := { s.durable with queues := s.durable.queues.filter fun p => qtabReadable s copies p.1 } }
  (s.durable.queues.filter fun p => serving s (hqSlate p.1)).foldl
    (fun s p => addQueue s p.1 p.2.1 p.2.2.1 p.2.2.2 true) s

/-- The owner whose prefix no holder proves, if there is one (R201). -/
def unproved (s : State) (copies : List JournalCopy) : Option Nat :=
  (List.range s.n).find? fun o => !prefixProved s copies o

/-- The failures found during recovery are recorded, and a drive offered meanwhile in place of one takes its place (R206, R211,
R219). -/
def recordFailures (s : State) : State :=
  (missingMembers s).foldl (fun s m =>
    let x := memberOf s m
    let s := writeFailure s m (x.goneAt.getD (now s 0))
    if x.goneAt.isSome ∧ x.link ∧ x.mstate = 1 then seatMember s m else s) s

/-- The stand-in areas and QTAB copies after recovery: only a lost owner's copies are held as they were (R194). -/
def settleAreas (s : State) : State :=
  let keep := fun (t : Tab Nat) => t.filter fun p => tabHas s.lost p.2
  { s with standin := keep s.standin, standin2 := keep s.standin2, qtabGone := s.qtabGone.filter fun x => tabHas s.lost (x / 8) }

/-- The merge and what follows from it: steps 5 to 7 of R200. Slate 0's unit records outside the UCN order are applied before any
map change (R195). -/
def mergeJournal (s : State) (copies : List JournalCopy) : State :=
  let s := (List.range s.n).foldl (fun s o => mergeOwner s copies o) (settleCuts s)
  let s := (List.range s.n).foldl (fun s o => dropOpenGroups (applyTables s o) o) s
  let s := applyRecords (resolveCourses s)
  let s := indexUpdates { s with spare := s.spare.filter fun p => p.2.valid }
  restoreKeys ((tabKeys s.members).foldl revertMember (changeAddress s)) copies

/-- Steps 5 to 8 of R200. -/
def replay (s : State) (copies : List JournalCopy) : State :=
  let s := mergeJournal s copies
  let s := match s.layout with | some l => updateSpace (queueRebuild s l) | none => s
  let s := recordFailures { settleAreas s with recovery := 8 }
  let s := (servingSlates s).foldl refreshHolders s
  let s := (tabKeys s.lost).foldl (fun s x => packLost (ownerOf s x).recs.length s x) s
  let s := if s.durable.epoch = s.lease.epoch then s else (addTable s (.epoch s.lease.epoch)).1
  let took := min 65535 ((now s 0 - s.resetTb) / ms)
  let s := forSlates (servingSlates s) (fun s sl => setF s sl F.JOURNAL.REPLAY_MS took) s
  let lapsed := s.lease.lapsed
  let s := raise { s with lease := { s.lease with lapsed := false } } 0 Ev.REPLAY_DONE
  tryReady (if lapsed then raise s 0 Ev.LAPSED else s)

/-- REPLAY_DONE (R200 to R203): once the unit holds the lease, `copies` are the journal copies it can read.
DEDUCED (log entry 77). -/
def execReplayDone (copies : List JournalCopy) (s : State) : Out :=
  onUnit s fun s =>
    if s.recovery ≠ 2 || !s.quorum || s.lease.role != 1 || isF s 0 F.FPIN.C4 then s
    else match unproved s copies with
      | some o => detectFull s 0 Ev.JOURNAL_LOST 0xFFFF [BitVec.ofNat 64 o]
      | none => replay s copies

end Sys2Proof.Machine
end

