-- ==== Sys2Proof/Machine/CtlRead.lean ====
section
/-! DEFINITION. Reading the control spaces (R79, R80): the stored fields, and the fields that show a block's own state. -/

namespace Sys2Proof.Machine

/-- Fields with the values they show. -/
abbrev Shown := List (Fld × Nat)

/-! ### ENGINE (R46) -/

/-- HK_STATE of a housekeeping thread: 0 idle, 1 running, 2 in `EVW`, 3 restart pending. -/
def hkState (s : State) (sl n : Nat) : Nat :=
  match jobOn s (hkThread sl n) with
  | some id => match jobOf s id with
    | some j => (match j.wait with | .event _ => 2 | _ => 1)
    | none => 1
  | none => if tabHas s.hkRestart (sl * 8 + n) then 3 else 0

/-- Jobs of a slate held by job threads. -/
def threadsBusy (s : State) (sl : Nat) : Nat :=
  jobCount s sl fun j => !isHk j && (match j.phase with | .running _ => true | _ => false)

/-- Whether a replaced or removed version of a slot still has jobs (R45). -/
def oldLive (s : State) (slot : Nat) : Bool :=
  s.jobs.any fun p => p.2.slot == slot && tabGet s.slots slot != some p.2.prog

/-- What ENGINE:0x400 + s shows of a slot. -/
def shownSlot (s : State) (slot : Nat) : Shown :=
  (match slotProg s slot with
   | none => []
   | some (_, p) =>
     [(F.ENGINE.INSTALLED slot, 1), (F.ENGINE.PRIV slot, p.keep.toNat), (F.ENGINE.BUDGET slot, p.budget),
      (F.ENGINE.LENGTH slot, p.words.length), (F.ENGINE.VERSION slot, p.version)]) ++
    [(F.ENGINE.OLD_LIVE slot, (oldLive s slot).toNat)]

/-- The live fields of the ENGINE space. -/
def shownEngine (s : State) (sl e : Nat) : Shown :=
  if 0x10 ≤ e ∧ e < 0x18 then [(F.ENGINE.HK_STATE (e - 0x10), hkState s sl (e - 0x10))]
  else if e = 0x20 then
    [(F.ENGINE.THREADS_BUSY, threadsBusy s sl), (F.ENGINE.JOBS_SUSP, jobCount s sl fun j => j.phase == .suspended),
     (F.ENGINE.RESUME_Q, (tabGetD s.resumeQ sl []).length), (F.ENGINE.DISPATCH_Q, (tabGetD s.dispatchQ sl []).length)]
  else if e = 0x21 then [(F.ENGINE.LAUNCH_BUSY, launchBusy s sl)]
  else if 0x400 ≤ e ∧ e < 0x800 then shownSlot s (e - 0x400)
  else []

/-! ### PORT, XPORT, HQ (R130, R131, R154) -/

/-- The classes the link partner pauses. -/
def pausedByPeer (s : State) (sl : Nat) : Nat := maskOf ((List.range 8).filter fun c => tabHas s.peerPause (sl * 8 + c))

/-- The live fields of the PORT space. -/
def shownPort (s : State) (sl e : Nat) : Shown :=
  if e = 1 then [(F.PORT.PAUSED_BY_PEER, pausedByPeer s sl), (F.PORT.PAUSING, pausing s sl)] else []

/-- The live fields of the XPORT space. -/
def shownXport (s : State) (sl e : Nat) : Shown := if e = 0x10 then [(F.XPORT.ROT_USED, (rotOf s sl).length)] else []

/-- The live fields of the HQ space. -/
def shownHq (s : State) (sl e : Nat) : Shown :=
  let q := queueAt s (hqNo sl (getF s sl F.HQ.Q_INDEX))
  if e = 1 then
    [(F.HQ.REGISTERED, queueCount s sl fun _ => true), (F.HQ.RESIDENT, queueCount s sl (·.resident)),
     (F.HQ.IN_FLIGHT, inFlight s sl), (F.HQ.PARK_USED, parkUsed s sl)]
  else if e = 2 then [(F.HQ.PINNED, queueCount s sl (·.pin))]
  else match q with
    | none => []
    | some q =>
      if e = 0x102 then
        [(F.HQ.V_REG, 1), (F.HQ.V_RESIDENT, q.resident.toNat), (F.HQ.V_PIN, q.pin.toNat), (F.HQ.V_PERSIST, q.persist.toNat),
         (F.HQ.V_ARMED, q.armed.toNat), (F.HQ.V_HOST, q.host.toNat), (F.HQ.V_KEY, q.key)]
      else if e = 0x103 then
        let mask (p : Tag → Bool) : Nat := maskOf ((List.range 32).filter fun t => p (tagAt q t))
        [(F.HQ.BUSY_MASK, mask tagBusy), (F.HQ.EMPTY_MASK, mask fun t => t.st == .empty)]
      else if e = 0x104 then [(F.HQ.RESET_NONCE, q.resetNonce.toNat)]
      else []

/-! ### STRIPE, DRIVE, JOURNAL, SUPPLY (R183, R184, R204, R205, R221, R222) -/

/-- The courses a slate has still to rebuild: those of its share, and of the shares it stands in for (R211, R320 step 7). -/
def shareQueue (s : State) (sl : Nat) : List Nat :=
  ((List.range s.n).filter fun x => actsFor s x == sl).flatMap fun x => tabGetD s.rebuildQ x []

/-- Whether a course in rebuild has a missing strip that has a destination, or can be given one (R207, R219). -/
def canRebuild (s : State) (l : Layout) (k : Nat) : Bool :=
  (missingOf s l k).any fun p => (destOf s l k p).isSome || (failIndex s (place l k p).1).isSome && (chooseSpare s l k).2.isSome

/-- RB_STATE of a slate: 0 idle, 1 rebuilding, 2 copy-back, 3 waiting for spare slots. -/
def rebuildState (s : State) (l : Layout) (sl : Nat) : Nat :=
  let q := shareQueue s sl
  if !q.isEmpty then (if q.any (canRebuild s l) then 1 else 3)
  else if s.copyBack.any fun p => memberSlate p.1 == sl then 2 else 0

/-- The free spare slots on a slate's members. -/
def spareFreeOn (s : State) (l : Layout) (sl : Nat) : Nat :=
  (List.range 6).foldl (fun a p => if inService s (6 * sl + p) then a + spareFree s l (6 * sl + p) else a) 0

/-- The live fields of the STRIPE space. -/
def shownStripe (s : State) (sl e : Nat) : Shown :=
  let lost := tabGetD s.lostRange sl []
  let lead (i : Nat) : Nat := (leadOf s i).slate
  let common : Shown :=
    if e = 0x06 then
      let d := match s.layout with | some l => l.d + 2 | none => 0
      [(F.STRIPE.DESC_USED, descUsed s sl), (F.STRIPE.STRIPS_USED, descUsed s sl * d), (F.STRIPE.LEAD_DATA, lead 0),
       (F.STRIPE.LEAD_RECL, lead 1), (F.STRIPE.LEAD_MAP, lead 2)]
    else if e = 0x32 then
      [(F.STRIPE.FAILED, maskOf (keysWhere s.members fun x => match x.recorded with | .failed _ => true | _ => false)),
       (F.STRIPE.MAPS_USED, maskOf ((tabVals s.members).filterMap fun x => match x.recorded with | .failed j => j | _ => none))]
    else if e = 0x41 then [(F.STRIPE.LOST_USED, lost.length)]
    else if e = 0x42 ∨ e = 0x43 then
      match lost[getF s sl F.STRIPE.LOST_INDEX]? with
      | some r => if e = 0x42 then [(F.STRIPE.LOST_LBA, r.lba)]
        else [(F.STRIPE.LOST_VOL, r.volume), (F.STRIPE.LOST_COUNT, r.count)]
      | none => []
    else []
  match s.layout with
  | none => common
  | some l =>
    if e = 0 then
      [(F.STRIPE.D, l.d), (F.STRIPE.S, l.s), (F.STRIPE.N, l.members.length), (F.STRIPE.ZONED, l.zoned.toNat),
       (F.STRIPE.A_MAX, l.aMax), (F.STRIPE.ZS, if l.zoned then l.zs else 0)]
    else if e = 1 then [(F.STRIPE.BANDS, l.bands), (F.STRIPE.RUN_BANDS, if l.zoned then l.runBands else 0)]
    else if e = 2 then [(F.STRIPE.FREE, freeOrdinals s)]
    else if 0x21 ≤ e ∧ e < 0x24 then
      let row := l.rows.getD (getF s sl F.STRIPE.ROW) []
      (List.range 8).map fun j => (F.STRIPE.POS (e - 0x21) j, row.getD (8 * (e - 0x21) + j) 0xFF)
    else if e = 0x31 then
      [(F.STRIPE.RB_STATE, rebuildState s l sl), (F.STRIPE.RB_LEFT, (shareQueue s sl).length)]
    else if e = 0x33 then
      [(F.STRIPE.DOUBLE, ((shareQueue s sl).filter fun k => decide (2 ≤ (missingOf s l k).length)).length)]
    else if e = 0x34 then [(F.STRIPE.SPARE_FREE, if s.recovery < 8 then 0 else spareFreeOn s l sl)]
    else common

/-- Whether port p of a lost slate is reached through the partner, which slate 0's copy of DSTAT shows (R182, R184). -/
def portProxied (s : State) (p : Nat) : Bool :=
  standbyServes s && (tabKeys s.lost).any fun x => (memberOf s (6 * x + p)).present

/-- The live fields of the DRIVE space. -/
def shownDrive (s : State) (sl e : Nat) : Shown :=
  let m := 6 * sl + e % 8
  let x := memberOf s m
  if 6 ≤ e % 8 then []
  else if e < 6 then
    [(F.DRIVE.PRESENT e, x.present.toNat), (F.DRIVE.LINK e, x.link.toNat), (F.DRIVE.SPEED e, x.speed),
     (F.DRIVE.WIDTH e, x.width), (F.DRIVE.MSTATE e, x.mstate), (F.DRIVE.ZONED e, x.zoned.toNat),
     (F.DRIVE.PROXIED e, (sl == 0 && portProxied s e).toNat)]
  else if e / 8 = 1 then [(F.DRIVE.CAP_STRIPS (e % 8), x.strips)]
  else if e / 8 = 5 then
    match tabGet s.copyBack m with
    | some c => [(F.DRIVE.COPY_LEFT (e % 8), (spareSlots s c.index).length), (F.DRIVE.FIDX (e % 8), c.index), (F.DRIVE.FIDX_VALID (e % 8), 1)]
    | none => []
  else []

/-- The live fields of the JOURNAL space. -/
def shownJournal (s : State) (sl e : Nat) : Shown :=
  let w := ownerOf s sl
  if e = 1 then
    let area (t : Tab Nat) : Option Nat := if s.mod.power = .running then tabGet t sl else none
    [(F.JOURNAL.TWIN_OK, (w.holders.contains 2).toNat), (F.JOURNAL.PARTNER_OK, (w.holders.contains 3).toNat),
     (F.JOURNAL.SI1, (w.holders.contains 4).toNat), (F.JOURNAL.SI2, (w.holders.contains 5).toNat),
     (F.JOURNAL.SHORT, (!w.holders.isEmpty && ownerShort s sl).toNat), (F.JOURNAL.SI_FOR, (area s.standin).getD 0),
     (F.JOURNAL.SI_VALID, (area s.standin).isSome.toNat), (F.JOURNAL.SI2_FOR, (area s.standin2).getD 0),
     (F.JOURNAL.SI2_VALID, (area s.standin2).isSome.toNat)]
  else if e = 2 then [(F.JOURNAL.SEQ, w.seq)]
  else if e = 3 then [(F.JOURNAL.LOG_USED, w.seq + 1 - w.trim)]
  else if e = 4 then [(F.JOURNAL.UCN, if sl = 0 then s.ucn else 0)]
  else if e = 5 then
    [(F.JOURNAL.FLOG_COURSES, s.flashDir.length),
     (F.JOURNAL.LEAVES_PENDING, (s.leaves.filter fun p =>
       !p.2.pending.isEmpty && nodeLevel p.1 == 0 && actsFor s (nodeHome s.n (nodeVol p.1) (nodeIndex p.1)) == sl).length)]
  else []

/-- The live fields of the SUPPLY space. -/
def shownSupply (s : State) (e : Nat) : Shown :=
  let m := s.mod
  match e with
  | 0 => [(F.SUPPLY.VIN_A, m.vinA), (F.SUPPLY.VIN_B, m.vinB), (F.SUPPLY.IIN, m.iin), (F.SUPPLY.PIN, m.pin)]
  | 1 => [(F.SUPPLY.FEED, m.feed), (F.SUPPLY.FEED_CHANGES, m.feedChg.toNat)]
  | 2 => [(F.SUPPLY.PIN_MAX, m.pinMax)]
  | _ => []

/-! ### SWITCH, FABRIC, SCHED, RMA (R240, R241, R258, R272) -/

/-- The live fields of the SWITCH space. -/
def shownSwitch (s : State) (sl e : Nat) : Shown :=
  if e = 2 then [(F.SWITCH.SWB_PEND, (tabHas s.barrier sl).toNat)]
  else if e = 3 then [(F.SWITCH.USED, slateCells s sl)]
  else if 0x30 ≤ e ∧ e < 0x3F then
    [(F.SWITCH.P_USED (e - 0x30), if e = 0x3E ∧ 2 ≤ sl then 0 else portCells s sl (e - 0x30))]
  else []

/-- The live fields of the FABRIC space. -/
def shownFabric (s : State) (sl e : Nat) : Shown :=
  if 1 ≤ e ∧ e < 5 then [(F.FABRIC.UP (e - 1), (linkUp s sl (e - 1)).toNat)]
  else if e = 0x10 ∧ s.mod.power = .running then [(F.FABRIC.REACH, maskOf ((List.range s.n).filter (reachable s sl)))]
  else []

/-- The credit of a queue in whole bytes as of now, as a signed 32-bit value (R258). -/
def shownCredit (s : State) (sl p c : Nat) : Nat :=
  let o := outOf s sl p 0
  let g := gatesOf s sl
  let open_ := p != 0 || (match g.oper with
    | none => true
    | some l => (match l.entries[g.entry]? with | some (m, _) => bitOf m.toNat c | none => true))
  sat32 ((accrue s sl p c (now s sl) open_ o).credit / 800)

/-- The cells queued in a class queue, all sub-ports at port 0 (R258). -/
def shownQueued (s : State) (sl p c : Nat) : Nat :=
  (List.range (if p = 0 then 8 else 1)).foldl (fun a sub =>
    (queueOf (outOf s sl p sub) c).frames.foldl (fun a id =>
      match tabGet s.frames id with | some f => a + cellsOf f.bytes | none => a) a) 0

/-- The live fields of the SCHED space. -/
def shownSched (s : State) (sl e : Nat) : Shown :=
  if 0x180 ≤ e ∧ e < 0x180 + 120 then
    let i := e - 0x180
    if i % 8 = 0 then []
    else [(F.SCHED.CREDIT i, shownCredit s sl (i / 8) (i % 8)), (F.SCHED.Q_CELLS i, shownQueued s sl (i / 8) (i % 8))]
  else if e = 0x240 then
    [(F.SCHED.GL_PEND, (gatesOf s sl).pend.isSome.toNat), (F.SCHED.GL_ACTIVE, (gatesOf s sl).oper.isSome.toNat)]
  else []

/-- The live fields of the RMA space. -/
def shownRma (s : State) (sl e : Nat) : Shown :=
  let i := getF s sl F.RMA.W_INDEX
  let w := windowOf s (winNo sl i)
  if e = 1 then
    [(F.RMA.WIN_DEFINED, (s.windows.filter fun p => hqSlate p.1 == sl).length), (F.RMA.OPS_USED, opsUsed s sl),
     (F.RMA.COPIES, (copiesOf s sl).length)]
  else if e = 0x102 then
    [(F.RMA.W_DEF, w.isSome.toNat), (F.RMA.W_AVAIL, (winAvail s sl i).toNat),
     (F.RMA.W_GEN, match w with | some w => w.gen.toNat | none => 0),
     (F.RMA.W_OPS, ((copiesOf s sl).filter fun p => p.2.window == winNo sl i).length)]
  else if e = 0x103 then
    match w with
    | some w => [(F.RMA.P_BASE, w.base / 4096), (F.RMA.P_PAGES, w.pages)]
    | none => []
  else []

/-! ### LEASE, UNIT, CHAIN, FPIN, SECURE (R300, R313, R314, R328, R357) -/

/-- W_MASK as it reads: the last value written (R5), that of a pending change included (R288). -/
def shownWitnesses (s : State) : Nat := s.lease.wPend.getD s.durable.wMask

/-- The live fields of the LEASE space. -/
def shownLease (s : State) (e : Nat) : Shown :=
  let l := s.lease
  match e with
  | 0 => [(F.LEASE.BAY, l.bay), (F.LEASE.ROLE, l.role), (F.LEASE.EXCL, l.excl.toNat), (F.LEASE.PARTNER_UP, l.up.toNat),
          (F.LEASE.P_ROLE, l.pRole)]
  | 1 => [(F.LEASE.EPOCH, l.epoch)]
  | 3 => [(F.LEASE.W_MASK, shownWitnesses s), (F.LEASE.W_PEND, l.wPend.isSome.toNat)]
  | _ => []

/-- The live fields of the UNIT space. -/
def shownUnit (s : State) (e : Nat) : Shown :=
  match e with
  | 0 => [(F.UNIT.SERVING, (servingSlates s).length)]
  | 1 => [(F.UNIT.UA, s.chain.ua.toNat), (F.UNIT.UA_VALID, s.chain.uaValid.toNat),
          (F.UNIT.ASSIGNED, (s.chain.chain != 0x3FF).toNat)]
  | 2 => [(F.UNIT.DOM_EN, s.durable.domEn.toNat)]
  | 3 => [(F.UNIT.DOM_PREFIX, s.durable.prefix6.toNat)]
  | 4 => [(F.UNIT.BOOT_ID, s.ready.bootId.toNat)]
  | _ => []

/-- The live fields of the CHAIN space. -/
def shownChain (s : State) (e : Nat) : Shown :=
  let c := s.chain
  match e with
  | 1 => [(F.CHAIN.UP_PARTNER, c.upMac.isSome.toNat), (F.CHAIN.DN_PARTNER, c.dnMac.isSome.toNat),
          (F.CHAIN.HEAD, (chainHead s).toNat), (F.CHAIN.FOLLOWS, c.follows.toNat), (F.CHAIN.ENUM, c.enum.toNat)]
  | _ => []

/-- The live fields of the FPIN space. -/
def shownFpin (s : State) (sl e : Nat) : Shown :=
  match e with
  | 0 => [(F.FPIN.ASSERTED, (pinAsserted s).toNat)]
  | 3 => [(F.FPIN.SH_OPEN, (s.pin.shadows.any fun p => p.2.slate == sl).toNat)]
  | 4 => (F.FPIN.LOST, maskOf (tabKeys s.lost)) :: s.lost.map fun p => (⟨0x0E, 4, 8 + 3 * p.1, 3⟩, p.2)
  | _ => []

/-- The live fields of the SECURE space. -/
def shownSecure (s : State) (e : Nat) : Shown :=
  let x := s.secure
  if e = 1 then
    [(F.SECURE.LC, lifecycle s), (F.SECURE.OWNER_EPOCH, x.ownerEpoch), (F.SECURE.FW_MIN, x.fwMin), (F.SECURE.FW_SEC, x.fwSec),
     (F.SECURE.BANK, x.bankB.toNat), (F.SECURE.FALLBACK, x.fallback.toNat), (F.SECURE.TEST_IMG, x.testImg.toNat),
     (F.SECURE.KEYS, maskOf ((tabKeys x.custKeys).map (· - 1))), (F.SECURE.BOOTSTRAP, x.bootstrap.toNat)]
  else if e = 2 then [(F.SECURE.KEY_SERIAL, x.serial)]
  else if e = 0x12 then
    [(F.SECURE.S_BUSY, x.op.isSome.toNat), (F.SECURE.S_STATUS, x.status.toNat), (F.SECURE.S_LEN, x.len)]
  else if 0x20 ≤ e ∧ e < 0x48 then
    [(F.SECURE.MR (e - 0x20), beNat (blockSlice (measReg s ((e - 0x20) / 8)) (8 * ((e - 0x20) % 8)) 8))]
  else []

/-! ### Reading an entry -/

/-- The live fields of an entry. In a module that has not left reset every field reads as its Reset column gives it (R6).
DEDUCED (log entry 115). -/
def shown (s : State) (sl sp e : Nat) : Shown :=
  if 0xF00 ≤ e ∨ slate0Only sp e ∧ sl ≠ 0 ∨ s.mod.power ≠ .running then []
  else match sp with
    | 0x00 => shownUnit s e
    | 0x01 => shownSupply s e
    | 0x02 => shownEngine s sl e
    | 0x03 => shownPort s sl e
    | 0x04 => shownSwitch s sl e
    | 0x05 => shownXport s sl e
    | 0x06 => shownHq s sl e
    | 0x07 => shownSched s sl e
    | 0x08 => shownRma s sl e
    | 0x09 => shownStripe s sl e
    | 0x0A => shownJournal s sl e
    | 0x0B => shownDrive s sl e
    | 0x0D => shownLease s e
    | 0x0E => shownFpin s sl e
    | 0x10 => shownSecure s e
    | 0x11 => shownFabric s sl e
    | 0x12 => shownChain s e
    | _ => []

/-- Whether an entry's field is marked J (R6): it reads as zero until replay completes.
DEDUCED (log entry 42). -/
def journalled (sp e lo : Nat) : Bool :=
  match sp with
  | 0x00 => e == 1 || e == 2 || e == 3
  | 0x02 => decide (0x400 ≤ e) && decide (e < 0x800) && lo != 2
  | 0x09 => e == 0 || e == 1 || e == 2 || e == 0x21 || e == 0x22 || e == 0x23 || e == 0x32
  | 0x0A => decide (2 ≤ e) && decide (e ≤ 5)
  | 0x0C => e == 2 && lo == 0 || decide (0x10 ≤ e) && decide (e < 0x40) && decide (lo < 12)
  | 0x0D => e == 1 || e == 3 && lo == 0
  | 0x10 => e == 1 && lo == 23 || e == 2
  | _ => false

/-- An entry as `CGET` returns it (R80). -/
def readEntry (s : State) (sl sp e : Nat) : Word :=
  let w := (shown s sl sp e).foldl (fun w p => setBits w p.1.lo p.1.w p.2) (rawEntry s sl sp e)
  if s.recovery < 8 then
    (fieldMap s.n sl sp e).foldl (fun w d => if d.f.w ≠ 0 ∧ journalled sp e d.f.lo then setBits w d.f.lo d.f.w 0 else w) w
  else w

end Sys2Proof.Machine
end

