-- ==== Sys2Proof/Machine/CtlLegal.lean ====
section
/-! DEFINITION. What a `CSET` may write (R5, R79, R81 step 2): the rules each map states, field by field. `x` is the state as
it would stand with the entry holding the value, so that a field of the same entry is taken at its new value and any
other entry at its current one. -/

namespace Sys2Proof.Machine

/-- A field of a value to be written. -/
def fv (v : Word) (f : Fld) : Nat := bits v f.lo f.w

/-- Whether a one-bit field of a value is 1. -/
def isV (v : Word) (f : Fld) : Bool := fv v f == 1

/-- `lo ≤ x ≤ hi`. -/
def within (lo x hi : Nat) : Bool := decide (lo ≤ x) && decide (x ≤ hi)

/-- Whether every bit outside the fields of the entry is zero (R5 RSV); a reserved entry has no field (R79). -/
def rsvZero (n sl sp e : Nat) (v : Word) : Bool :=
  ((fieldMap n sl sp e).foldl (fun w d => setBits w d.f.lo d.f.w 0) v) == 0

/-- Whether a field has another value than it had. -/
def changed (old s : State) (sl : Nat) (f : Fld) : Bool := getF old sl f != getF s sl f

/-! ### Fault quad (R84, R326) -/

/-- Whether MASK masks only defined detectors of class 0 to 2. -/
def maskLegal (sp m : Nat) : Bool :=
  (bitList m 32).all fun k => match detClass (eventNo sp k) with
    | some c => decide (c ≤ 2)
    | none => false

/-- Whether a detector may be injected: defined, and class 4 only in TEST; class 3 on slate 0 counts as class 4. -/
def injLegal (s : State) (sl sp k : Nat) : Bool :=
  match detClass (eventNo sp k) with
  | none => false
  | some c => !(c == 4 || c == 3 && sl == 0) || lifecycle s == 1

/-- The quad of any space. -/
def legalQuad (s : State) (sl sp e : Nat) (v : Word) : Bool :=
  if e = 0xF01 then maskLegal sp (fv v (F.MASK sp))
  else if e = 0xF02 then !isV v (F.INJ_FIRE sp) || injLegal s sl sp (fv v (F.INJ_SRC sp))
  else true

/-! ### ENGINE (R46) -/

/-- Whether a slot holds a KEEP program. -/
def keepSlot (s : State) (slot : Nat) : Bool := match slotProg s slot with | some (_, p) => p.keep | none => false

/-- The ENGINE space. -/
def legalEngine (x : State) (sl e : Nat) : Bool :=
  if e = 1 then within 1 (getF x sl F.ENGINE.DEF_BUDGET) 1048576
  else if e = 2 then
    let b := getF x sl F.ENGINE.HEAP_BASE
    let l := getF x sl F.ENGINE.HEAP_LIMIT
    decide (getF x sl F.STRIPE.MAPC_GIB * 1024 ≤ b) && decide (b < l) && decide (l ≤ 23552)
  else if 0x10 ≤ e ∧ e < 0x18 then keepSlot x (getF x sl (F.ENGINE.HK_SLOT (e - 0x10)))
  else if 0x30 ≤ e ∧ e < 0x40 then
    !isF x sl (F.ENGINE.L_EN (e - 0x30)) || (slotProg x (getF x sl (F.ENGINE.L_SLOT (e - 0x30)))).isSome
  else if 0x800 ≤ e ∧ e < 0xA00 then
    (List.range 4).all fun j =>
      let m := getF x sl (F.ENGINE.MODE (e - 0x800) j)
      let t := getF x sl (F.ENGINE.TARGET (e - 0x800) j)
      m == 0 || m == 1 && decide (t ≤ 7) || m == 2 && decide (t ≤ 15)
  else true

/-! ### SCHED (R249, R253, R258) -/

/-- R249: the privileged queues of an output together take at most 75 % of PR. -/
def slopesFit (x : State) (sl p : Nat) : Bool :=
  let sum := (List.range 8).foldl (fun a c =>
    if carries p c && isF x sl (F.SCHED.PRIV (qn p c)) then a + getF x sl (F.SCHED.IDLE_SLOPE (qn p c)) else a) 0
  decide (4 * sum ≤ 3 * rateOf x sl p)

/-- QCFG of queue 8p + c. -/
def legalQueue (x : State) (sl i : Nat) : Bool :=
  let is := getF x sl (F.SCHED.IDLE_SLOPE i)
  let priv := isF x sl (F.SCHED.PRIV i)
  getF x sl (F.SCHED.WEIGHT i) != 0 && decide (is ≤ rateOf x sl (i / 8)) &&
    (!priv || is != 0 && getF x sl (F.SCHED.HI_CREDIT i) != 0) && slopesFit x sl (i / 8)

/-- The staged gate list. -/
def stagedGates (x : State) (sl : Nat) : List (BitVec 8 × Nat) :=
  (List.range (getF x sl F.SCHED.GL_LEN)).map fun i =>
    (BitVec.ofNat 8 (getF x sl (F.SCHED.OPEN i)), getF x sl (F.SCHED.DURATION i))

/-- The time a class stays open from entry `i` of a list on, looking at `k` entries at most. -/
def openRun (es : List (BitVec 8 × Nat)) (c : Nat) : Nat → Nat → Nat
  | 0, _ => 0
  | k + 1, i => match es[i % es.length]? with
    | some (m, d) => if bitOf m.toNat c then d + openRun es c k (i + 1) else 0
    | none => 0

/-- The longest transmission time of a frame at the network output, in ns (R253). -/
def maxFrameNs (x : State) (sl : Nat) : Nat := ceilDiv ((getF x sl F.PORT.MTU + 42) * 800) (rateOf x sl 0)

/-- Whether every window of a class that a list opens but does not hold open is long enough (R253).
DEDUCED (log entry 85). -/
def windowsFit (es : List (BitVec 8 × Nat)) (least c : Nat) : Bool :=
  let isOpen (i : Nat) : Bool := match es[i % es.length]? with | some (m, _) => bitOf m.toNat c | none => false
  es.all (fun e => bitOf e.1.toNat c) ||
    (List.range es.length).all fun i =>
      !(isOpen i && !isOpen (i + es.length - 1)) || decide (least ≤ openRun es c es.length i)

/-- Whether the staged list may be installed (R253). -/
def gatesLegal (x : State) (sl : Nat) : Bool :=
  let es := stagedGates x sl
  isF x sl F.SCHED.GL_EN && within 1 (getF x sl F.SCHED.GL_LEN) 64 && es.all (fun e => e.2 != 0) &&
    es.foldl (fun a e => a + e.2) 0 == getF x sl F.SCHED.CYCLE && es.any (fun e => bitOf e.1.toNat 7) &&
    (List.range 8).all fun c => c == 0 || windowsFit es (maxFrameNs x sl) c

/-- Whether the lists that operate or are pending still meet R253 with the frame time as it now is (R255). -/
def gatesStand (x : State) (sl : Nat) : Bool :=
  let g := gatesOf x sl
  (g.oper.toList ++ g.pend.toList).all fun l =>
    (List.range 8).all fun c => c == 0 || windowsFit l.entries (maxFrameNs x sl) c

/-- The SCHED space.
DESIGN CHOICE (log entry 40). -/
def legalSched (x : State) (sl e : Nat) (v : Word) : Bool :=
  if 0x100 ≤ e ∧ e < 0x178 ∧ e % 8 ≠ 0 then legalQueue x sl (e - 0x100)
  else if e = 0x240 then
    within 1 (getF x sl F.SCHED.GL_LEN) 64 && (!isV v F.SCHED.GL_INSTALL || gatesLegal x sl)
  else if e = 0x242 then getF x sl F.SCHED.CYCLE != 0
  else if 0x300 ≤ e ∧ e < 0x308 ∧ polClass (e - 0x300) then
    within 1 (getF x sl (F.SCHED.RATE (e - 0x300))) 80000 &&
      decide (getF x sl F.PORT.MTU + 22 ≤ getF x sl (F.SCHED.BURST (e - 0x300)) * 64)
  else true

/-! ### PORT (R130) -/

/-- The PORT space. -/
def legalPort (s x : State) (sl e : Nat) : Bool :=
  if e = 0 then within 1280 (getF x sl F.PORT.MTU) 9216 &&
    (getF x sl F.PORT.BREAKOUT == getF s sl F.PORT.BREAKOUT || slopesFit x sl 0) &&
    (!(changed s x sl F.PORT.BREAKOUT || changed s x sl F.PORT.MTU) || gatesStand x sl)
  else if e = 0x12 then decide (getF x sl F.PORT.PREFIX4 ≤ 32) && decide (getF x sl F.PORT.PREFIX6 ≤ 128)
  else if e = 0x20 then
    (getF x sl F.PORT.PFC_EN &&& 0x71) == 0 && getF x sl F.PORT.PAUSE_QUANTA != 0
  else if e = 0x40 then
    let t := getF x sl F.PORT.PTP_TRANSPORT
    (!isF x sl F.PORT.PTP_RX || (servingSlates s).all fun o => o == sl || !isF s o F.PORT.PTP_RX) && t != 3 &&
      (t != 1 || isF x sl F.PORT.IPV4_EN) && getF x sl F.PORT.OFFSET_LIMIT != 0
  else true

/-! ### XPORT (R112, R115, R131) -/

/-- Whether the staged key entry may be written (R131).
DEDUCED (log entry 112). -/
def keyLegal (x : State) (sl : Nat) : Bool :=
  let window := isF x sl F.XPORT.KIND
  let mode := getF x sl F.XPORT.MODE
  let rights := getF x sl F.XPORT.RIGHTS
  let lo := getF x sl F.XPORT.LO
  let hi := getF x sl F.XPORT.HI
  isF x sl F.XPORT.VALID && mode != 3 && (!isF x sl F.XPORT.PERSIST || !window && mode == 0) &&
    (if window then decide (rights < 32) else rights / 2 % 2 ^ 15 == 0 && decide (lo < 1024) && decide (hi < 1024)) &&
    decide (lo ≤ hi) && decide (hqSlate (getF x sl F.XPORT.BIND) < x.n)

/-- The XPORT space. -/
def legalXport (x : State) (sl e : Nat) (v : Word) : Bool :=
  if e = 0 then getF x sl F.XPORT.UDP_PORT != 0 && within 10 (getF x sl F.XPORT.PAUSE_MAX) 100
  else if e = 0x10 then within 500 (getF x sl F.XPORT.DUP_HORIZON) 2000
  else if e = 0x100 then
    let op := fv v F.XPORT.K_OP
    op == 0 || getF x sl F.XPORT.K_INDEX != 0 && (op != 1 || keyLegal x sl)
  else if e = 0x101 then getF x sl F.XPORT.MODE != 3
  else if 0x200 ≤ e ∧ e < 0x210 then decide (hqSlate (getF x sl (F.XPORT.EV_HQ (e - 0x200))) < x.n)
  else true

/-! ### HQ, RMA (R133, R154, R260, R272) -/

/-- The HQ space. -/
def legalHq (x : State) (sl e : Nat) (v : Word) : Bool :=
  if e = 2 then within 1024 (getF x sl F.HQ.PARK_LOW) 4032
  else if e = 0x100 then queueOpLegal x sl (getF x sl F.HQ.Q_INDEX) (fv v F.HQ.Q_OP)
  else true

/-- The RMA space. -/
def legalRma (x : State) (sl e : Nat) (v : Word) : Bool :=
  if e = 0x100 then winOpLegal x sl (getF x sl F.RMA.W_INDEX) (fv v F.RMA.W_OP) else true

/-! ### STRIPE, DRIVE, JOURNAL (R160 to R162, R183, R184, R204, R221) -/

/-- The interior map grains homed on a slate (R160 to R162). -/
def interiorGrains (s : State) (sl : Nat) : Nat :=
  s.volumes.foldl (fun a p =>
    (List.range (mapLevels p.2.size)).foldl (fun a j =>
      if j = 0 then a
      else
        let cnt := ceilDiv p.2.size (512 ^ (j + 1))
        a + (cnt + s.n - 1 - (sl + (s.n - 2 * p.1 % s.n)) % s.n) / s.n) a) 0

/-- The STRIPE space.
DESIGN CHOICE (log entry 103). -/
def legalStripe (s x : State) (sl e : Nat) (v : Word) : Bool :=
  if e = 3 then within 2 (getF x sl F.STRIPE.FILL_WINDOW) 200
  else if e = 4 then
    let r := getF x sl F.STRIPE.WRITE_RESERVE
    let a := getF x sl F.STRIPE.RECL_START
    let z := getF x sl F.STRIPE.RECL_STOP
    within 5 r 100 && decide (r < a) && decide (a < z) && decide (z ≤ 250) &&
      within 1 (getF x sl F.STRIPE.RECL_LIVE_MAX) 99 && within 1 (getF x sl F.STRIPE.RECL_SHARE) 100
  else if e = 5 then
    let g := getF x sl F.STRIPE.MAPC_GIB
    within 1 g 16 && decide (g * 1024 ≤ getF x sl F.ENGINE.HEAP_BASE) && decide (interiorGrains s sl * 4096 ≤ g * 2 ^ 30)
  else if e = 0x30 then
    let a := getF x sl F.STRIPE.RB_SHARE
    let b := getF x sl F.STRIPE.RB_SHARE2
    decide (1 ≤ a) && decide (a ≤ b) && decide (b ≤ 100) && within 100 (getF x sl F.STRIPE.QUORUM_WAIT) 60000 &&
      (!isV v F.STRIPE.QUORUM_FORCE || s.qShort && atQuorum s)
  else true

/-- The DRIVE space. -/
def legalDrive (x : State) (sl e : Nat) : Bool :=
  if e = 0x18 then
    within 10 (getF x sl F.DRIVE.CMD_TIMEOUT) 30000 && within 10 (getF x sl F.DRIVE.ABORT_GRACE) 1000 &&
      within 1000 (getF x sl F.DRIVE.READY_MAX) 60000
  else true

/-- The JOURNAL space. -/
def legalJournal (x : State) (sl e : Nat) : Bool :=
  if e = 6 then
    within 1 (getF x sl F.JOURNAL.LEAF_BATCH) 255 && within 100 (getF x sl F.JOURNAL.LEAF_AGE) 60000 &&
      within 1 (getF x sl F.JOURNAL.FLOG_GIB) 64 && within 10 (getF x sl F.JOURNAL.HOLDER_TIMEOUT) 1000
  else true

/-! ### SWITCH, FABRIC (R232, R233, R240, R241) -/

/-- The cells that STCFG and the headroom take in MODE 1 (R233). -/
def staticCells (x : State) (sl : Nat) : Nat :=
  (List.range 8).foldl (fun a c => a + 16 * (getF x sl (F.SWITCH.LIM_NET c) + 4 * getF x sl (F.SWITCH.LIM_INT c) +
    6 * getF x sl (F.SWITCH.LIM_DRV c) + 4 * getF x sl (F.SWITCH.LIM_FAB c))) (4 * 16 * getF x sl F.SWITCH.HDRM)

/-- R232 in MODE 0, R233 in MODE 1. -/
def cellsFit (x : State) (sl : Nat) : Bool :=
  if swMode x.n then decide (staticCells x sl ≤ 262144) else decide (16384 ≤ sharedPool x sl)

/-- The SWITCH space. -/
def legalSwitch (x : State) (sl e : Nat) : Bool :=
  if e = 1 then
    let p := getF x sl F.SWITCH.PEER_PAUSE_MAX
    within 64 (getF x sl F.SWITCH.HDRM) 511 && cellsFit x sl && (p == 0 || within 10 p 2000)
  else if 0x10 ≤ e ∧ e < 0x18 then swMode x.n || e == 0x10 || getF x sl (F.SWITCH.ALPHA (e - 0x10)) != 0 && cellsFit x sl
  else if 0x20 ≤ e ∧ e < 0x28 then
    let c := e - 0x20
    !swMode x.n || c == 0 || cellsFit x sl &&
      (stLimNet c == 0 || getF x sl (F.SWITCH.LIM_NET c) != 0) && (stLimInt c == 0 || getF x sl (F.SWITCH.LIM_INT c) != 0) &&
      (stLimDrv c == 0 || getF x sl (F.SWITCH.LIM_DRV c) != 0) && (stLimFab c == 0 || getF x sl (F.SWITCH.LIM_FAB c) != 0)
  else true

/-- Whether enabled links between serving slates lead from one slate to another. -/
def enabledPath (x : State) (a b : Nat) : Bool :=
  (pathFor x.n a b 0 fun y l => isF x y (F.FABRIC.EN l) && serving x y && serving x (linkNeigh x.n y l)).isSome

/-- The FABRIC space: the last enabled link toward a slate stays enabled. -/
def legalFabric (s x : State) (sl e : Nat) : Bool :=
  if 1 ≤ e ∧ e < 5 then
    isF x sl (F.FABRIC.EN (e - 1)) || (servingSlates s).all fun b => b == sl || !enabledPath s sl b || enabledPath x sl b
  else true

/-! ### MEM, LEASE, UNIT, CHAIN, FPIN, PERF, SECURE (R280, R285, R288, R300, R313, R314, R328, R335, R338, R357) -/

/-- The MEM space. -/
def legalMem (s x : State) (sl e : Nat) : Bool :=
  if e = 1 then
    getF x sl F.MEM.WAY_THRESH != 0 && within 1 (getF x sl F.MEM.SCRUB_HOURS) 168 &&
      !(isF x sl F.MEM.SC_EN && scState s sl == 3)
  else true

/-- The LEASE space. -/
def legalLease (s : State) (e : Nat) (v : Word) : Bool :=
  if e = 3 then
    let m := fv v F.LEASE.W_MASK
    m == shownWitnesses s || s.lease.role == 1 && witnessMaskOk s m && s.lease.wPend.isNone
  else if e = 4 then
    within 3 (fv v F.LEASE.HB_MISS) 100 && decide (fv v F.LEASE.REL_DRAIN ≤ 1000) &&
      (!isV v F.LEASE.RELEASE || s.lease.role == 1 && s.lease.up && s.lease.pRole == 2 && !s.lease.excl)
  else true

/-- The UNIT space. -/
def legalUnit (s : State) (e : Nat) (v : Word) : Bool :=
  if e = 3 then v != 0 || !s.durable.domEn else true

/-- The CHAIN space. -/
def legalChain (s : State) (e : Nat) (v : Word) : Bool :=
  if e = 0 then
    (!isV v F.CHAIN.CHAIN_ASSIGN || chainHead s && fv v F.CHAIN.CHAIN_NEW != 0x3FF) &&
      (!isV v F.CHAIN.ENUM_NOW || chainHead s)
  else true

/-- The FPIN space. -/
def legalFpin (e : Nat) (v : Word) : Bool :=
  if e = 0 then within 1 (fv v F.FPIN.PULSE_CLASS) 4 && within 10 (fv v F.FPIN.PULSE_US) 10000 else true

/-- Whether a ring is placed as R333 demands and stays where it is while its enable is 1. -/
def ringLegal (s x : State) (sl : Nat) (r : Ring) (on : Bool) : Bool :=
  let n := getF x sl r.lenF
  let a := getF x sl r.base * 4096
  within 4 n 20 && decide (getF x sl F.STRIPE.MAPC_GIB * 2 ^ 30 ≤ a) && decide (a + 2 ^ n * r.size ≤ deviceBase) &&
    (!on || getF x sl r.base == getF s sl r.base && n == getF s sl r.lenF)

/-- Whether a new RP lies between the old RP and WP in serial order (R335). -/
def rpLegal (s x : State) (sl : Nat) (r : Ring) : Bool :=
  let old := getF s sl r.rp
  decide ((getF x sl r.rp + 2 ^ 32 - old) % 2 ^ 32 ≤ (getF s sl r.wp + 2 ^ 32 - old) % 2 ^ 32)

/-- The PERF space. -/
def legalPerf (s x : State) (sl e : Nat) : Bool :=
  if 0x10 ≤ e ∧ e < 0x20 then decide (getF x sl (F.PERF.SRC (e - 0x10)) < 0x18)
  else if e = 0x30 then ringLegal s x sl counterRing (isF x sl F.PERF.DUMP_EN) && within 10 (getF x sl F.PERF.DUMP_US) 1000000
  else if e = 0x31 then rpLegal s x sl counterRing
  else if e = 0x32 then ringLegal s x sl sampleRing (isF x sl F.PERF.SAMP_EN) && decide (1024 ≤ getF x sl F.PERF.PERIOD)
  else if e = 0x33 then rpLegal s x sl sampleRing
  else true

/-- The SECURE space. -/
def legalSecure (s : State) (e : Nat) (v : Word) : Bool :=
  if e = 0x12 then
    let op := fv v F.SECURE.S_OP
    op == 0 || op != 7 && s.secure.op.isNone && mailboxOk s
  else true

/-! ### All spaces -/

/-- Whether a `CSET` of `v` is legal (R81 step 2). -/
def legal (s : State) (sl sp e : Nat) (v : Word) : Bool :=
  let x := putEntry s sl sp e v
  rsvZero s.n sl sp e v &&
    if (fieldMap s.n sl sp e).isEmpty then true
    else if 0xF00 ≤ e then legalQuad s sl sp e v
    else match sp with
      | 0x00 => legalUnit s e v
      | 0x02 => legalEngine x sl e
      | 0x03 => legalPort s x sl e
      | 0x04 => legalSwitch x sl e
      | 0x05 => legalXport x sl e v
      | 0x06 => legalHq x sl e v
      | 0x07 => legalSched x sl e v
      | 0x08 => legalRma x sl e v
      | 0x09 => legalStripe s x sl e v
      | 0x0A => legalJournal x sl e
      | 0x0B => legalDrive x sl e
      | 0x0C => legalMem s x sl e
      | 0x0D => legalLease s e v
      | 0x0E => legalFpin e v
      | 0x0F => legalPerf s x sl e
      | 0x10 => legalSecure s e v
      | 0x11 => legalFabric s x sl e
      | 0x12 => legalChain s e v
      | _ => true

end Sys2Proof.Machine
end

