-- ==== Sys2Proof/Machine/CtlWrite.lean ====
section
/-! DEFINITION. What a legal `CSET` does (R81 steps 4 and 5): the stored fields, then what a change or a WO field sets off, as each
map states. -/

namespace Sys2Proof.Machine

/-! ### Stored fields -/

/-- The bits of an RW1C field that a write of 1 clears: those of class 4 detectors in STAT hold (R85). -/
def clearable (sp : Nat) (f : Fld) : Nat :=
  if f.e = 0xF00 then maskOf ((List.range 32).filter fun k => detClass (eventNo sp k) != some 4) else 2 ^ f.w - 1

/-- Give the RW fields of an entry their values and clear the RW1C bits written as 1. -/
def storeFields (s : State) (sl sp e : Nat) (v : Word) : State :=
  (fieldMap s.n sl sp e).foldl (fun s d => match d.acc with
    | .rw => setF s sl d.f (fv v d.f)
    | .w1c => setF s sl d.f (getF s sl d.f &&& (2 ^ d.f.w - 1 - (fv v d.f &&& clearable sp d.f)))
    | _ => s) s

/-! ### Fault quad (R84, R85) -/

/-- INJ_FIRE: the injected occurrence, counted. -/
def fireInjection (s : State) (sl sp : Nat) : State :=
  injectDet (bumpSat s sl (F.INJ_COUNT sp)) sl sp (getF s sl (F.INJ_SRC sp))

/-- The quad. -/
def actQuad (s : State) (sl sp e : Nat) (v : Word) : State :=
  if e = 0xF02 ∧ isV v (F.INJ_FIRE sp) then fireInjection s sl sp
  else if e = 0xF03 ∧ isV v (F.F_VALID sp) then clearFirst s sl sp
  else s

/-! ### ENGINE (R37, R38, R40) -/

/-- The ENGINE space: HK_RESTART, and PEND bits cleared, which withdraw what waited for them. -/
def actEngine (s : State) (sl e : Nat) (v : Word) : State :=
  if 0x10 ≤ e ∧ e < 0x18 then if isV v (F.ENGINE.HK_RESTART (e - 0x10)) then hkRestartNow s sl (e - 0x10) else s
  else if 0x800 ≤ e ∧ e < 0xA00 then
    (List.range 4).foldl (fun s j =>
      if isV v (F.ENGINE.PEND (e - 0x800) j) then { s with evPend := tabDel s.evPend (evKey sl (4 * (e - 0x800) + j)) } else s) s
  else s

/-! ### Lookup entries (R238, R239) -/

/-- A lookup entry has changed: TVER advances, and what the lookup used before is kept for the wait of R238. -/
def lookupChanged (old s : State) (sl : Nat) : State :=
  let en := maskOf ((List.range 4).filter fun l => isF old sl (F.FABRIC.EN l))
  bump { s with oldLookup := tabPut s.oldLookup sl (getF old sl F.SWITCH.FLOW_SEED, en) } sl F.SWITCH.TVER

/-- SWB: a barrier for every frame looked up under a TVER below the present one; it starts or extends (R239).
DEDUCED (log entry 84). -/
def startBarrier (s : State) (sl : Nat) : State := { s with barrier := tabPut s.barrier sl (getF s sl F.SWITCH.TVER) }

/-- The SWITCH space. -/
def actSwitch (old s : State) (sl e : Nat) (v : Word) : State :=
  if e = 1 then updatePause (if changed old s sl F.SWITCH.FLOW_SEED then lookupChanged old s sl else s) sl
  else if e = 2 then if isV v F.SWITCH.SWB then startBarrier s sl else s
  else if e = 3 then if isV v F.SWITCH.PEAK_CLR then setF s sl F.SWITCH.PEAK (slateCells s sl) else s
  else if 0x10 ≤ e ∧ e < 0x28 then
    if rawEntry old sl 0x04 e = rawEntry s sl 0x04 e then s
    else updatePause (unstall (lookupChanged old s sl) sl) sl
  else s

/-- The FABRIC space. -/
def actFabric (old s : State) (sl e : Nat) : State :=
  if 1 ≤ e ∧ e < 5 ∧ changed old s sl (F.FABRIC.EN (e - 1)) then lookupChanged old s sl else s

/-! ### PORT (R129, R130) -/

/-- The PORT space: a change of PCFG takes the port down; one of PRIO_SRC or DSCPMAP is a lookup change; a port that is no
longer the time receiver follows no time transmitter. -/
def actPort (old s : State) (sl e : Nat) : State :=
  if e = 0 then
    if changed old s sl F.PORT.BREAKOUT || changed old s sl F.PORT.MTU || changed old s sl F.PORT.ADMIN_UP then portDown s sl
    else s
  else if e = 0x20 then if changed old s sl F.PORT.PRIO_SRC then lookupChanged old s sl else s
  else if 0x30 ≤ e ∧ e < 0x34 then
    if rawEntry old sl 0x03 e = rawEntry s sl 0x03 e then s else lookupChanged old s sl
  else if e = 0x40 then
    if isF old sl F.PORT.PTP_RX && !isF s sl F.PORT.PTP_RX then holdOver s sl else s
  else s

/-! ### XPORT (R111, R114, R115, R131) -/

/-- The staged key entry. -/
def stagedKey (s : State) (sl : Nat) : KeyEntry :=
  let st := tabGetD s.stage sl { check := 0, aes := [] }
  { mode := BitVec.ofNat 2 (getF s sl F.XPORT.MODE), window := isF s sl F.XPORT.KIND, persist := isF s sl F.XPORT.PERSIST
    gen := BitVec.ofNat 8 (getF s sl F.XPORT.GEN), bind := getF s sl F.XPORT.BIND
    rights := BitVec.ofNat 32 (getF s sl F.XPORT.RIGHTS)
    lo := BitVec.ofNat 64 (getF s sl F.XPORT.LO), hi := BitVec.ofNat 64 (getF s sl F.XPORT.HI)
    check := st.check, aes := (List.range 4).map fun i => st.aes.getD i 0
    salt := BitVec.ofNat 32 (getF s sl F.XPORT.SALT) }

/-- Whether a change of a key entry is a change of the unit records: the entry is or was persistent (R115). -/
def keyRecorded (s : State) (sl idx : Nat) (k : Option KeyEntry) : Bool :=
  (match k with | some k => k.persist | none => false) ||
    (match keyOf s sl idx with | some k => k.persist | none => false) || tabHas s.durable.keys idx

/-- K_OP 1 or 3 on K_INDEX: the entry is written or invalidated at once, or, where the journal holds it, when its record is
confirmed (R111, R115). -/
def putKeyOp (s : State) (sl idx : Nat) (k : Option KeyEntry) : State × RecRef :=
  if keyRecorded s sl idx k then
    let (s, q) := addTable s (.key (keyKey sl idx) k)
    (s, some (0, q))
  else (setKey s (keyKey sl idx) k, none)

/-- K_OP 2: the entry goes to staging, its secret fields reading zero. -/
def loadKey (s : State) (sl idx : Nat) : State :=
  let s0 := [0x101, 0x102, 0x103, 0x104, 0x10A].foldl (fun s e => putEntry s sl 0x05 e 0) s
  match keyOf s sl idx with
  | none => s0
  | some k =>
    [(F.XPORT.VALID, 1), (F.XPORT.MODE, k.mode.toNat), (F.XPORT.KIND, k.window.toNat), (F.XPORT.PERSIST, k.persist.toNat),
     (F.XPORT.GEN, k.gen.toNat), (F.XPORT.BIND, k.bind), (F.XPORT.RIGHTS, k.rights.toNat), (F.XPORT.LO, k.lo.toNat),
     (F.XPORT.HI, k.hi.toNat), (F.XPORT.SALT, k.salt.toNat)].foldl (fun s p => setF s sl p.1 p.2) s0

/-- A K_OP; the staged secrets are held until it. -/
def keyOp (s : State) (sl op : Nat) : State × RecRef :=
  let idx := getF s sl F.XPORT.K_INDEX
  let k := stagedKey s sl
  let s := if op = 0 then s else { s with stage := tabDel s.stage sl }
  match op with
  | 1 => putKeyOp s sl idx (some k)
  | 2 => (loadKey s sl idx, none)
  | 3 => putKeyOp s sl idx none
  | _ => (s, none)

/-- Stage a word of key material that no read returns. -/
def stageSecret (s : State) (sl e : Nat) (v : Word) : State :=
  let st := tabGetD s.stage sl { check := 0, aes := [] }
  let st := if e = 0x105 then { st with check := v }
    else { st with aes := (List.range 4).map fun i => if 0x106 + i = e then v else st.aes.getD i 0 }
  { s with stage := tabPut s.stage sl st }

/-! ### SCHED (R250, R253, R254, R257) -/

/-- A change of IDLE_SLOPE, HI_CREDIT or PRIV on one output or sub-port: the credit that CR_FULL chooses, and the tags of a
queue that joins or leaves the ordinary ones (R250). -/
def resetQueueCredit (old s : State) (sl p c sub : Nat) : State :=
  let i := qn p c
  let o := outOf s sl p sub
  let full : Int := if isF s sl (F.SCHED.CR_FULL i) then 64 * 800 * (getF s sl (F.SCHED.HI_CREDIT i) : Int) else 0
  let q := { queueOf o c with credit := full, creditTb := now s sl, slotTb := none }
  let was := isF old sl (F.SCHED.PRIV i)
  let is := isF s sl (F.SCHED.PRIV i)
  let q := if was && !is then { q with headF := none, flast := o.v } else if !was && is then { q with headF := none } else q
  putOut s sl p sub (tagHead s sl p c (putQueue o c q))

/-- A changed QCFG (R250). -/
def queueReconfigured (old s : State) (sl i : Nat) : State :=
  if changed old s sl (F.SCHED.IDLE_SLOPE i) || changed old s sl (F.SCHED.HI_CREDIT i) || changed old s sl (F.SCHED.PRIV i) then
    (List.range (if i / 8 = 0 then 8 else 1)).foldl (fun s sub => resetQueueCredit old s sl (i / 8) (i % 8) sub) s
  else s

/-- A changed POLCFG (R257). -/
def policerReconfigured (old s : State) (sl c : Nat) : State :=
  if changed old s sl (F.SCHED.POL_EN c) || changed old s sl (F.SCHED.RATE c) || changed old s sl (F.SCHED.BURST c) then
    let full := if isF s sl (F.SCHED.POL_FULL c) then getF s sl (F.SCHED.BURST c) * 64 * 800 else 0
    { s with policers := tabPut s.policers (sl * 8 + c) { policerOf s sl c with tokens := full, tLast := now s sl } }
  else s

/-- GL_INSTALL: the staged list is pending until its take-over TB (R254). -/
def installGates (s : State) (sl : Nat) : State :=
  let base := getF s sl F.SCHED.BASE
  let cyc := getF s sl F.SCHED.CYCLE
  let least := now s sl + 2000
  let t := if least ≤ base then base else base + ceilDiv (least - base) cyc * cyc
  let s := setF s sl F.SCHED.GL_START t
  let g := gatesOf s sl
  let s := { s with gates := tabPut s.gates sl { g with pend := some { entries := stagedGates s sl, cycle := cyc, start := t } } }
  if least ≤ base then s else raise s sl Ev.GL_ROLLED

/-- GL_EN 0: every gate is open and both lists are discarded (R254). -/
def dropGates (s : State) (sl : Nat) : State :=
  let s := accrueNet s sl (now s sl)
  { s with gates := tabDel s.gates sl }

/-- The SCHED space. -/
def actSched (old s : State) (sl e : Nat) (v : Word) : State :=
  if 0x100 ≤ e ∧ e < 0x178 then queueReconfigured old s sl (e - 0x100)
  else if e = 0x240 then
    if !isF s sl F.SCHED.GL_EN then dropGates s sl else if isV v F.SCHED.GL_INSTALL then installGates s sl else s
  else if 0x300 ≤ e ∧ e < 0x308 then policerReconfigured old s sl (e - 0x300)
  else s

/-! ### STRIPE, DRIVE (R184, R218, R221) -/

/-- LOST_CLR: the list is emptied and LOST_OVF cleared. -/
def clearLost (s : State) (sl : Nat) : State := setF { s with lostRange := tabDel s.lostRange sl } sl F.STRIPE.LOST_OVF 0

/-- The STRIPE space. -/
def actStripe (s : State) (sl e : Nat) (v : Word) : State :=
  if e = 0x30 ∧ isV v F.STRIPE.QUORUM_FORCE then reachQuorum s
  else if e = 0x41 ∧ isV v F.STRIPE.LOST_CLR then clearLost s sl
  else s

/-- The DRIVE space. -/
def actDrive (old s : State) (sl e : Nat) : State :=
  if 0x10 ≤ e ∧ e < 0x16 ∧ changed old s sl (F.DRIVE.HOLD_OUT (e - 0x10)) then
    holdOutOp s (6 * sl + (e - 0x10)) (isF s sl (F.DRIVE.HOLD_OUT (e - 0x10)))
  else s

/-! ### MEM (R280, R282) -/

/-- Every line of the victim buffer drains. -/
def drainVictim : Nat → State → Nat → State
  | 0, s, _ => s
  | k + 1, s, sl => drainVictim k (victimDrain s sl) sl

/-- Start the drain of the slate cache: DRAINING, and the sweep (R280). -/
def startDrain (s : State) (sl : Nat) : State := scSweep (setF s sl F.MEM.SC_STATE 2) sl

/-- Complete a drain: the victim buffer is empty, and the cache is DISABLED (R280). -/
def endDrain (s : State) (sl : Nat) : State := setF (drainVictim 256 s sl) sl F.MEM.SC_STATE 0

/-- SC_EN as written. `whole` says that the write returns only when a drain it waits for is complete. -/
def cacheEnable (s : State) (sl : Nat) (whole : Bool) : State :=
  let st := scState s sl
  if isF s sl F.MEM.SC_EN then
    if st = 0 then setF s sl F.MEM.SC_STATE 1
    else if st = 2 ∧ whole then setF (endDrain s sl) sl F.MEM.SC_STATE 1
    else s
  else
    let s := if st = 1 then startDrain s sl else s
    if whole && scState s sl == 2 then endDrain s sl else s

/-- WAY_RESTORE: every way of the slate's caches is enabled again, with no history (R282). The masks are unit records. A bypass is
not lifted.
DEDUCED (log entry 91). -/
def restoreWays (s : State) (sl : Nat) : State :=
  let s := setF s sl F.MEM.SC_WAY_DIS 0
  let s := (List.range 48).foldl (fun s e => setF (setF s sl (F.MEM.DC_WAY_DIS e) 0) sl (F.MEM.IC_WAY_DIS e) 0) s
  let s := { s with wayErrs := s.wayErrs.filter fun p => p.1 / 4096 != sl }
  (addTable s (.ways sl (wayMasks s sl))).1

/-- The MEM space. -/
def actMem (old s : State) (sl e : Nat) (v : Word) (whole : Bool) : State :=
  if e = 1 then
    let s := cacheEnable s sl whole
    let s := if isF old sl F.MEM.DC_EN && !isF s sl F.MEM.DC_EN then dcFlush s sl else s
    if isF old sl F.MEM.IC_EN && !isF s sl F.MEM.IC_EN then icFlush s sl else s
  else if e = 2 ∧ isV v F.MEM.WAY_RESTORE then restoreWays s sl
  else s

/-! ### LEASE, UNIT, CHAIN (R288, R292, R304, R309, R313) -/

/-- A change of W_MASK is pending until a round on the new set (R288). -/
def changeWitnesses (s : State) (mask : Nat) : State :=
  if mask = shownWitnesses s then s else modLease s fun l => { l with wPend := some mask }

/-- The LEASE space. -/
def actLease (s : State) (e : Nat) (v : Word) : State :=
  if e = 3 then changeWitnesses s (fv v F.LEASE.W_MASK)
  else if e = 4 ∧ isV v F.LEASE.RELEASE then startRelease s
  else s

/-- A change of the domain is a unit record, and applies when it is confirmed (R313). -/
def changeDomain (s : State) (en : Bool) (pre6 : Word) : State × RecRef :=
  if en = s.durable.domEn ∧ pre6 = s.durable.prefix6 then (s, none)
  else
    let (s, q) := addTable s (.domain en pre6)
    (s, some (0, q))

/-- The UNIT space. -/
def actUnit (s : State) (e : Nat) (v : Word) : State × RecRef :=
  if e = 2 then changeDomain s (isV v F.UNIT.DOM_EN) s.durable.prefix6
  else if e = 3 then changeDomain s s.durable.domEn v
  else (s, none)

/-- The CHAIN space. -/
def actChain (s : State) (v : Word) : State :=
  let s := if isV v F.CHAIN.CHAIN_ASSIGN then chainAssignOp s else s
  if isV v F.CHAIN.ENUM_NOW then startEnum s else s

/-! ### PERF (R329, R330, R333, R335) -/

/-- A changed counter selection, or OVF_CLR. -/
def actCounter (old s : State) (sl k : Nat) (v : Word) : State :=
  let s := if changed old s sl (F.PERF.SRC k) || changed old s sl (F.PERF.MODE k) then putEntry s sl 0x0F (0x20 + k) 0 else s
  if isV v (F.PERF.OVF_CLR k) then setF s sl (F.PERF.OVF k) 0 else s

/-- A ring that has moved is empty; its SEQ starts again where its base has changed.
DEDUCED (log entry 111). -/
def ringMoved (old s : State) (sl : Nat) (r : Ring) : State :=
  if changed old s sl r.base || changed old s sl r.lenF then setF (setF s sl r.wp 0) sl r.rp 0 else s

/-- The PERF space. -/
def actPerf (old s : State) (sl e : Nat) (v : Word) : State :=
  if 0x10 ≤ e ∧ e < 0x20 then actCounter old s sl (e - 0x10) v
  else if e = 0x30 then
    let s := ringMoved old s sl counterRing
    if changed old s sl F.PERF.RBASE then { s with dumpSeq := tabDel s.dumpSeq sl } else s
  else if e = 0x32 then
    let s := ringMoved old s sl sampleRing
    if changed old s sl F.PERF.SBASE then putSampling s sl { samplingOf s sl with seq := 0 } else s
  else s

/-! ### All spaces -/

/-- What a write sets off beyond the stored fields, and the record it waits for. -/
def act (old s : State) (sl sp e : Nat) (v : Word) (whole : Bool) : State × RecRef :=
  if (fieldMap s.n sl sp e).isEmpty then (s, none)
  else if 0xF00 ≤ e then (actQuad s sl sp e v, none)
  else match sp with
    | 0x00 => actUnit s e v
    | 0x01 => (if e = 2 ∧ isV v F.SUPPLY.PEAK_CLR then { s with mod := { s.mod with pinMax := 0 } } else s, none)
    | 0x02 => (actEngine s sl e v, none)
    | 0x03 => (actPort old s sl e, none)
    | 0x04 => (actSwitch old s sl e v, none)
    | 0x05 =>
      if e = 0x100 then keyOp s sl (fv v F.XPORT.K_OP)
      else if 0x105 ≤ e ∧ e < 0x10A ∧ v ≠ 0 then (stageSecret s sl e v, none) else (s, none)
    | 0x06 => if e = 0x100 then queueOp s sl (getF s sl F.HQ.Q_INDEX) (fv v F.HQ.Q_OP) else (s, none)
    | 0x07 => (actSched old s sl e v, none)
    | 0x08 => (if e = 0x100 then winOp s sl (getF s sl F.RMA.W_INDEX) (fv v F.RMA.W_OP) else s, none)
    | 0x09 => (actStripe s sl e v, none)
    | 0x0B => (actDrive old s sl e, none)
    | 0x0C => (actMem old s sl e v whole, none)
    | 0x0D => (actLease s e v, none)
    | 0x0F => (actPerf old s sl e v, none)
    | 0x10 => (if e = 0x12 ∧ fv v F.SECURE.S_OP ≠ 0 then secureStart s (fv v F.SECURE.S_OP) else s, none)
    | 0x11 => (actFabric old s sl e, none)
    | 0x12 => (if e = 0 then actChain s v else s, none)
    | _ => (s, none)

/-- Write an entry (R81): `none` where the value is illegal and nothing changes. -/
def writeEntry (s : State) (sl sp e : Nat) (v : Word) (whole : Bool) : Option (State × RecRef) :=
  if legal s sl sp e v then some (act s (storeFields s sl sp e v) sl sp e v whole) else none

end Sys2Proof.Machine
end

