-- ==== Sys2Proof/Machine/CtlInsns.lean ====
section
/-! DEFINITION. Control-space access: CGET, CSET and CSWAP (R73, R74, R80, R81), and the register operations that stand in the table
under names of their own, each the write of its entry from outside a program. -/

namespace Sys2Proof.Machine

/-! ### The control address word (R73, R74) -/

/-- The entry a control address word names. -/
def ctlEntry (w : Word) : Nat := bits w 0 12
/-- Its space. -/
def ctlSpace (w : Word) : Nat := bits w 12 5
/-- Its slate, from a program on slate `self`. -/
def ctlSlate (w : Word) (self : Nat) : Nat := if w.getLsbD 20 then self else bits w 17 3

/-- The status of a control address that cannot be accessed. -/
def ctlCheck (s : State) (w : Word) (self : Nat) : Option Status :=
  if bits w 21 43 ≠ 0 then some St.illegalField
  else if 0x12 < ctlSpace w || !serving s (ctlSlate w self) then some St.outOfRange
  else none

/-- Read the entry an address names. -/
def ctlRead (s : State) (w : Word) (self : Nat) : Word := readEntry s (ctlSlate w self) (ctlSpace w) (ctlEntry w)

/-- Write the entry an address names; the write returns once it has taken effect (R81 step 5). -/
def ctlWrite (s : State) (w : Word) (self : Nat) (v : Word) : Option (State × RecRef) :=
  writeEntry s (ctlSlate w self) (ctlSpace w) (ctlEntry w) v true

/-- The result of a CGET: status and entry.
DEDUCED (log entry 35). -/
def ctlGetOp (s : State) (w : Word) (self : Nat) : Status × Option Word :=
  match ctlCheck s w self with
  | some st => (st, none)
  | none => (St.ok, some (ctlRead s w self))

/-- A job writes the entry an address names: `none` for a value that is illegal. The write is a commit action (R148); the
answer tells whether it took effect, and the record it waits for. -/
def ctlCommit (s : State) (id : Nat) (w : Word) (self : Nat) (v : Word) : Option (State × Bool × RecRef) :=
  match ctlWrite s w self v with
  | none => none
  | some _ =>
    let (s, ok) := askCommit s id
    if !ok then some (s, false, none)
    else match ctlWrite s w self v with
      | none => none
      | some (s, r) => some (s, true, r)

/-- The result of a CSET: the state, the status, and the record it waits for. -/
def ctlSetOp (s : State) (id : Nat) (w : Word) (self : Nat) (v : Word) : State × Status × RecRef :=
  match ctlCheck s w self with
  | some st => (s, st, none)
  | none => match ctlCommit s id w self v with
    | none => (s, St.illegalField, none)
    | some (s, _, r) => (s, St.ok, r)

/-- The result of a CSWAP: the state, the status, the entry as read, whether it was written, and the record it waits
for (R74). -/
def ctlSwapOp (s : State) (id : Nat) (w : Word) (self : Nat) (expected v : Word) :
    State × Status × Option Word × Bool × RecRef :=
  match ctlCheck s w self with
  | some st => (s, st, none, false, none)
  | none =>
    let e := ctlRead s w self
    if e ≠ expected then (s, St.ok, some e, false, none)
    else match ctlCommit s id w self v with
      | none => (s, St.illegalField, some e, false, none)
      | some (s, hit, r) => (s, St.ok, some e, hit, r)

/-! ### The instructions (R74) -/

/-- A control access moves the pointer of the slate's control-space port (R43), a requester being known by its slate.
DESIGN CHOICE (log entry 129). -/
def ctlGrant (s : State) (w : Word) (self : Nat) : State := granted s (ptrCtl (ctlSlate w self % 8)) self 8

/-- A control write completes: its job, if the write has left it, takes its results, and waits in place while a record is
unconfirmed (R21, R81 step 5). -/
def ctlDone (s : State) (id : Nat) (d : Reg) (f : Job → Job) (r : RecRef) : State :=
  match jobOf s id with
  | none => s
  | some j =>
    if j.ended.isSome then s
    else match r with
      | none => finish s id (f j) 1
      | some (o, q) => finish s id { f j with wait := .record o q, dst := d } 1

/-- CGET. -/
def execCget (o : RForm) (s : State) : Out :=
  onThread o.t s fun s => issue o.t s 1 (o.b == 0 && o.minor == 0 && pairOk o.d) true fun s id j =>
    let w := rd j o.a
    match ctlGetOp s w j.slate with
    | (st, some e) => finish (ctlGrant s w j.slate) id (ret (wr j (pairReg o.d) e) o.d st) 1
    | (st, none) => finish s id (ret j o.d st) 1

/-- CSET. -/
def execCset (o : RForm) (s : State) : Out :=
  onThread o.t s fun s => issue o.t s 1 (o.minor == 0) true fun s id j =>
    let w := rd j o.a
    let (s, st, r) := ctlSetOp (ctlGrant s w j.slate) id w j.slate (rd j o.b)
    ctlDone s id o.d (fun j => ret j o.d st) r

/-- CSWAP: Z says whether it wrote. -/
def execCswap (o : RForm) (s : State) : Out :=
  onThread o.t s fun s => issue o.t s 1 (o.minor == 0 && pairOk o.d) true fun s id j =>
    let w := rd j o.a
    let (s, st, e, hit, r) := ctlSwapOp (ctlGrant s w j.slate) id w j.slate (rd j (pairReg o.d)) (rd j o.b)
    let res := fun (j : Job) =>
      let j := match e with | some e => wr j (pairReg o.d) e | none => j
      { ret j o.d st with z := hit }
    ctlDone s id o.d res r

/-! ### Register operations -/

/-- A write of an entry as an event of its own: an illegal value changes nothing (R81 step 3).
DEDUCED (log entry 39). -/
def regWrite (s : State) (sl sp e : Nat) (v : Word) : State :=
  match writeEntry s sl sp e v false with
  | some (s, _) => s
  | none => s

/-- A value with a field forced. -/
def withF (v : Word) (f : Fld) (x : Nat) : Word := setBits v f.lo f.w x

/-- HK_RESTART (R37). -/
def execHkRestart (slate n : Nat) (v : Word) (s : State) : Out :=
  onSlate slate s fun s =>
    if n < 8 then regWrite s slate 0x02 (0x10 + n) (withF v (F.ENGINE.HK_RESTART n) 1) else s

/-- PORT_RECONFIGURE (R130). -/
def execPortReconfigure (slate : Nat) (v : Word) (s : State) : Out := onSlate slate s fun s => regWrite s slate 0x03 0 v

/-- GL_INSTALL (R253, R254). -/
def execGlInstall (slate : Nat) (v : Word) (s : State) : Out :=
  onSlate slate s fun s => regWrite s slate 0x07 0x240 (withF v F.SCHED.GL_INSTALL 1)

/-- GL_DISABLE (R254): GL_EN is written 0. -/
def execGlDisable (slate : Nat) (v : Word) (s : State) : Out :=
  onSlate slate s fun s => regWrite s slate 0x07 0x240 (withF (withF v F.SCHED.GL_INSTALL 0) F.SCHED.GL_EN 0)

/-- QUEUE_CREDIT_RESET (R250): a write of QCFG. -/
def execQueueCreditReset (slate port cls : Nat) (v : Word) (s : State) : Out :=
  onSlate slate s fun s => if port < 15 ∧ cls < 8 then regWrite s slate 0x07 (0x100 + qn port cls) v else s

/-- POLICER_RESET (R257): a write of POLCFG. -/
def execPolicerReset (slate cls : Nat) (v : Word) (s : State) : Out :=
  onSlate slate s fun s => if cls < 8 then regWrite s slate 0x07 (0x300 + cls) v else s

/-- SWB (R239). -/
def execSwb (slate : Nat) (v : Word) (s : State) : Out :=
  onSlate slate s fun s => regWrite s slate 0x04 2 (withF v F.SWITCH.SWB 1)

/-- HOLD_OUT (R184): a write of the port's DCFG. -/
def execHoldOut (m : Nat) (v : Word) (s : State) : Out :=
  onSlate (m / 6) s fun s => regWrite s (m / 6) 0x0B (0x10 + m % 6) v

/-- QUORUM_FORCE (R218, R221). -/
def execQuorumForce (slate : Nat) (v : Word) (s : State) : Out :=
  onSlate slate s fun s => regWrite s slate 0x09 0x30 (withF v F.STRIPE.QUORUM_FORCE 1)

/-- LOST_CLR (R221). -/
def execLostClr (slate : Nat) (v : Word) (s : State) : Out :=
  onSlate slate s fun s => regWrite s slate 0x09 0x41 (withF v F.STRIPE.LOST_CLR 1)

/-- LEASE_RELEASE (R292). -/
def execLeaseRelease (v : Word) (s : State) : Out := onUnit s fun s => regWrite s 0 0x0D 4 (withF v F.LEASE.RELEASE 1)

/-- WITNESS_CHANGE (R288): a write of LWIT. -/
def execWitnessChange (v : Word) (s : State) : Out := onUnit s fun s => regWrite s 0 0x0D 3 v

/-- CHAIN_ASSIGN (R309). -/
def execChainAssign (v : Word) (s : State) : Out :=
  onUnit s fun s => regWrite s 0 0x12 0 (withF (withF v F.CHAIN.ENUM_NOW 0) F.CHAIN.CHAIN_ASSIGN 1)

/-- ENUM_NOW (R304). -/
def execEnumNow (v : Word) (s : State) : Out :=
  onUnit s fun s => regWrite s 0 0x12 0 (withF (withF v F.CHAIN.CHAIN_ASSIGN 0) F.CHAIN.ENUM_NOW 1)

/-- INJ_FIRE (R84, R326), with a real hit in the same CLK_M cycle where there is one (R327).
DESIGN CHOICE (log entry 134). -/
def execInjFire (slate space : Nat) (inj : Injection) (s : State) : Out :=
  onSlate slate s fun s =>
    if 0x13 ≤ space then s
    else
      let v := withF inj.value (F.INJ_FIRE space) 1
      match inj.real with
      | none => regWrite s slate space 0xF02 v
      | some (src, detail) =>
        let hit := eventNo space src
        if !isDetector space src then regWrite s slate space 0xF02 v
        else if !legal s slate space 0xF02 v then realHit s slate hit detail
        else
          let s := bumpSat (storeFields s slate space 0xF02 v) slate (F.INJ_COUNT space)
          coincide s slate space (getF s slate (F.INJ_SRC space)) src detail

/-- FAULT_HOLD (R323, R328): a write of FCFG. -/
def execFaultHold (v : Word) (s : State) : Out := onUnit s fun s => regWrite s 0 0x0E 0 v

/-- SC_DISABLE (R280): SC_EN is written 0; the drain it starts ends at SC_DRAIN_DONE. -/
def execScDisable (slate : Nat) (v : Word) (s : State) : Out :=
  onSlate slate s fun s => regWrite s slate 0x0C 1 (withF v F.MEM.SC_EN 0)

/-- SC_ENABLE (R280): SC_EN is written 1. -/
def execScEnable (slate : Nat) (v : Word) (s : State) : Out :=
  onSlate slate s fun s => regWrite s slate 0x0C 1 (withF v F.MEM.SC_EN 1)

/-- ENGINE_CACHE_INVALIDATE (R280): a write of MCFG with DC_EN and IC_EN as `v` has them. -/
def execEngineCacheInvalidate (slate : Nat) (v : Word) (s : State) : Out :=
  onSlate slate s fun s => regWrite s slate 0x0C 1 v

/-- WAY_RESTORE (R282). -/
def execWayRestore (slate : Nat) (v : Word) (s : State) : Out :=
  onSlate slate s fun s => regWrite s slate 0x0C 2 (withF v F.MEM.WAY_RESTORE 1)

/-- COUNTER_SELECT (R330): a write of PCTL. -/
def execCounterSelect (slate k : Nat) (v : Word) (s : State) : Out :=
  onSlate slate s fun s => if k < 16 then regWrite s slate 0x0F (0x10 + k) v else s

/-- OVF_CLR (R329). -/
def execOvfClr (slate k : Nat) (v : Word) (s : State) : Out :=
  onSlate slate s fun s =>
    if k < 16 then regWrite s slate 0x0F (0x10 + k) (withF v (F.PERF.OVF_CLR k) 1) else s

/-- RING_CONSUME (R335): a write of RPTR or SPTR. -/
def execRingConsume (slate : Nat) (sample : Bool) (v : Word) (s : State) : Out :=
  onSlate slate s fun s => regWrite s slate 0x0F (if sample then 0x33 else 0x31) v

/-- PEAK_CLR of the switch core (R240). -/
def execSwitchPeakClr (slate : Nat) (v : Word) (s : State) : Out :=
  onSlate slate s fun s => regWrite s slate 0x04 3 (withF v F.SWITCH.PEAK_CLR 1)

/-- PEAK_CLR of the supply (R205). -/
def execSupplyPeakClr (v : Word) (s : State) : Out := onUnit s fun s => regWrite s 0 0x01 2 (withF v F.SUPPLY.PEAK_CLR 1)

/-- K_OP 1 (R131). -/
def execKeyWrite (slate : Nat) (v : Word) (s : State) : Out :=
  onSlate slate s fun s => regWrite s slate 0x05 0x100 (withF v F.XPORT.K_OP 1)

/-- K_OP 2 (R131). -/
def execKeyLoad (slate : Nat) (v : Word) (s : State) : Out :=
  onSlate slate s fun s => regWrite s slate 0x05 0x100 (withF v F.XPORT.K_OP 2)

/-- K_OP 3 (R131). -/
def execKeyInvalidate (slate : Nat) (v : Word) (s : State) : Out :=
  onSlate slate s fun s => regWrite s slate 0x05 0x100 (withF v F.XPORT.K_OP 3)

/-- Q_OP 1 (R133). -/
def execQueueRegister (slate : Nat) (v : Word) (s : State) : Out :=
  onSlate slate s fun s => regWrite s slate 0x06 0x100 (withF v F.HQ.Q_OP 1)

/-- Q_OP 2 (R133). -/
def execQueueDestroy (slate : Nat) (v : Word) (s : State) : Out :=
  onSlate slate s fun s => regWrite s slate 0x06 0x100 (withF v F.HQ.Q_OP 2)

/-- Q_OP 3 (R133). -/
def execQueueReset (slate : Nat) (v : Word) (s : State) : Out :=
  onSlate slate s fun s => regWrite s slate 0x06 0x100 (withF v F.HQ.Q_OP 3)

/-- W_OP 1 (R260). -/
def execWindowDefine (slate : Nat) (v : Word) (s : State) : Out :=
  onSlate slate s fun s => regWrite s slate 0x08 0x100 (withF v F.RMA.W_OP 1)

/-- W_OP 2 (R260). -/
def execWindowReuse (slate : Nat) (v : Word) (s : State) : Out :=
  onSlate slate s fun s => regWrite s slate 0x08 0x100 (withF v F.RMA.W_OP 2)

/-- W_OP 3 (R260). -/
def execWindowDestroy (slate : Nat) (v : Word) (s : State) : Out :=
  onSlate slate s fun s => regWrite s slate 0x08 0x100 (withF v F.RMA.W_OP 3)

/-- S_OP 1 (R349). -/
def execAttest (v : Word) (s : State) : Out := onUnit s fun s => regWrite s 0 0x10 0x12 (withF v F.SECURE.S_OP 1)

/-- S_OP 2 (R350). -/
def execCert (v : Word) (s : State) : Out := onUnit s fun s => regWrite s 0 0x10 0x12 (withF v F.SECURE.S_OP 2)

/-- S_OP 3 (R344). -/
def execEnrol (v : Word) (s : State) : Out := onUnit s fun s => regWrite s 0 0x10 0x12 (withF v F.SECURE.S_OP 3)

/-- S_OP 4 (R351). -/
def execProvision (v : Word) (s : State) : Out := onUnit s fun s => regWrite s 0 0x10 0x12 (withF v F.SECURE.S_OP 4)

/-- S_OP 5 (R356). -/
def execFwStage (v : Word) (s : State) : Out := onUnit s fun s => regWrite s 0 0x10 0x12 (withF v F.SECURE.S_OP 5)

/-- S_OP 6 (R356). -/
def execFwCommit (v : Word) (s : State) : Out := onUnit s fun s => regWrite s 0 0x10 0x12 (withF v F.SECURE.S_OP 6)

end Sys2Proof.Machine
end

