-- ==== Sys2Proof/Machine/Admin.lean ====
section
/-! DEFINITION. Long-running administration: what HK_ADMIN does for SANITIZE and FORMAT, and the layout a unit FORMAT makes (R96, R97,
R163 to R166, R288). -/

namespace Sys2Proof.Machine

/-! ### Appends stopped, and a pool emptied -/

/-- A course whose commit group has not been written. -/
def uncommitted (c : Course) : Bool := inTundish c && c.comSeq.isNone

/-- The jobs with an append that has not reached its commit. -/
def appendJobs (s : State) : List Nat :=
  ((s.leads.flatMap fun p => p.2.waiting.flatMap fun w => w.grains.filterMap (·.job)) ++
    (s.courses.flatMap fun c => if uncommitted c.2 then c.2.grains.filterMap (·.job) else []) ++
    s.jobs.filterMap fun p => match p.2.wait with | .appendPayload _ => some p.1 | _ => none).eraseDups

/-- Give up a course that has not committed. -/
def dropCourse (s : State) (k : Nat) : State :=
  match courseOf s k with
  | none => s
  | some c =>
    let s := c.strips.foldl (fun s p => dropCmds s p.2.member fun x => x.use == .strip k p.1) s
    let s := match c.recSeq with | some q => trimRecs s c.slate fun r => r.seq == q | none => s
    { s with courses := tabDel s.courses k }

/-- A job's append was stopped: it returns NOT_SERVING (R97). -/
def stopAppend (s : State) (id : Nat) : State :=
  modJob s id fun j => { j with
    result := some St.notServing
    wait := match j.wait with | .appendPayload _ => .courses | w => w
    onWake := match j.onWake with | .finish _ _ => .finish St.notServing [] | w => w }

/-- Stop every append that has not reached its commit.
DEDUCED (log entry 63). -/
def stopAppends (s : State) : State :=
  let ids := appendJobs s
  let s := (keysWhere s.courses uncommitted).foldl dropCourse s
  let s := { s with leads := tabMapV s.leads fun _ ld => { ld with ordinal := none, handover := false, waiting := [] } }
  ids.foldl stopAppend s

/-- Whether nothing is left in flight in the pool: no course in a tundish, and every map change past its turn. -/
def poolQuiet (s : State) : Bool := !(s.courses.any fun c => inTundish c.2) && s.ucnDone == s.ucn

/-- An empty map and empty pool metadata (R97): every volume, course, spare placement and map record goes. -/
def emptyPool (s : State) : State :=
  let s := { s with
    map := [], leaves := [], courses := [], repourWait := [], leads := [], flashDir := [], spare := [], spareResv := [], spareWp := []
    spareHeld := [], rebuildQ := [], lostRange := [], copyBack := [], volumes := [], lastOrd := 0, reclaiming := [], reads := []
    pours := 0, poursRecl := 0, durable := { s.durable with roots := [] } }
  updateSpace ((tabKeys s.owners).foldl (fun s o => trimRecs s o fun r => r.confirmed && isMapRec r.body) s)

/-! ### The layout of a unit FORMAT (R163 to R166, R288) -/

/-- The members a unit FORMAT can use: conforming drives present on a port with a path, in the pool or not.
DEDUCED (log entry 65). -/
def formatMembers (s : State) : List Nat :=
  (tabKeys s.members).filter fun m =>
    let x := memberOf s m
    x.conforms && (x.mstate == 2 || x.mstate == 5) && hasPath s m

/-- Whether a row lists D + 2 distinct members, with no more on one slate than rule 4 allows (R163). -/
def rowFits (n d : Nat) (members row : List Nat) : Bool :=
  row.length == d + 2 && row.eraseDups == row && row.all members.contains &&
    (List.range n).all fun sl => decide ((row.filter fun m => memberSlate m == sl).length ≤ ceilDiv (d + 2) n)

/-- In how many rows of a table each of these members holds a position, or any. -/
def rowCounts (members : List Nat) (has : Nat → List Nat → Bool) (rows : List (List Nat)) : List Nat :=
  members.map fun m => (rows.filter (has m)).length

/-- Rules 1 and 2 (R163): every member in A or A + 1 rows, and P and Q each in the floor or ceiling of 4 096 / N of them. -/
def countsEven (d : Nat) (members : List Nat) (rows : List (List Nat)) : Bool :=
  let k := members.length
  let near (lo hi : Nat) (c : Nat) : Bool := decide (lo ≤ c) && decide (c ≤ hi)
  let a := 4096 * (d + 2) / k
  (rowCounts members (fun m r => r.contains m) rows).all (near a (a + 1)) &&
    [d, d + 1].all fun pos => (rowCounts members (fun m r => r[pos]? == some m) rows).all (near (4096 / k) (ceilDiv 4096 k))

/-- Rule 3 (R163): every pair of members of one kind is in a number of rows within 1 of the mean for its kind. -/
def pairsEven (members : List Nat) (rows : List (List Nat)) : Bool :=
  let pairs := members.flatMap fun x => (members.filter fun y => decide (x < y)).map fun y => (x, y)
  let together (p : Nat × Nat) : Nat := (rows.filter fun r => r.contains p.1 && r.contains p.2).length
  [true, false].all fun same =>
    let kind := pairs.filter fun p => (memberSlate p.1 == memberSlate p.2) == same
    let cs := kind.map together
    let total := cs.foldl (· + ·) 0
    cs.all fun c => decide (c * kind.length ≤ total + kind.length) && decide (total ≤ c * kind.length + kind.length)

/-- Whether a layout table meets rules 1 to 4 (R163). -/
def tableMeets (n d : Nat) (members : List Nat) (rows : List (List Nat)) : Bool :=
  rows.length == 4096 && rows.all (rowFits n d members) && countsEven d members rows && pairsEven members rows

/-- The layout table of a unit FORMAT: Damwyn's own construction, which meets rules 1 to 4 (R163). Where the configuration's does
not, which is no SV8's, D + 2 members in turn stand in for each row.
DESIGN CHOICE (log entry 22). -/
def layoutTable (n d : Nat) (members : List Nat) : List (List Nat) :=
  let rows := (List.range 4096).map (Config.layoutRow n d members)
  if tableMeets n d members rows then rows
  else
    let order := (witnessOrder n).filter members.contains
    (List.range 4096).map fun r => (List.range (d + 2)).map fun i => order.getD ((r + i) % order.length) 0

/-- The least of a list of numbers; 0 for none. -/
def least : List Nat → Nat
  | [] => 0
  | x :: r => r.foldl min x

/-- The layout of a pool over these members (R163, R164, R166). -/
def makeLayout (s : State) (members : List Nat) (d sp : Nat) : Layout :=
  let k := members.length
  let rows := layoutTable s.n d members
  let aMax := members.foldl (fun a m => max a (rows.filter fun r => r.contains m).length) 0
  let cap := least (members.map fun m => (memberOf s m).strips)
  let zoned := members.all fun m => (memberOf s m).zoned
  let zs := if zoned then least (members.map fun m => (memberOf s m).zs) else 0
  let runBands := if zoned then 8 * zs / aMax else 0
  let bands := if zoned then cap / zs * (k - sp) / k / 8 * runBands else cap * (k - sp) / (k * aMax)
  { cap := cap, d := d, s := sp, members := members, zoned := zoned, aMax := aMax, zs := zs, bands := bands
    runBands := runBands, rows := rows }

/-- Whether the members' namespaces are all zoned or all conventional, and a zoned pool's members meet R165 (R165). -/
def zonesFit (s : State) (members : List Nat) (l : Layout) : Bool :=
  let z := members.map fun m => memberOf s m
  if z.all fun x => !x.zoned then true
  else (z.all fun x => x.zoned && x.zs != 0 && x.zs == l.zs && decide (8 ≤ x.zoneRes)) && decide (l.aMax ≤ 8 * l.zs)

/-- The five witnesses a unit FORMAT sets (R288). -/
def formatWitnesses (s : State) (members : List Nat) : Nat :=
  maskOf (((witnessOrder s.n).filter members.contains).take 5)

/-- The unit table changes of a unit FORMAT: the volumes go, the members of the new layout are in service and no other is in
the pool. -/
def formatTables (s : State) (members : List Nat) (l : Layout) : List TableItem :=
  (tabKeys s.volumes).map (fun v => .volume v none) ++
    s.members.filterMap (fun p =>
      if members.contains p.1 then some (.member p.1 (.inService p.2.nguid) (now s 0))
      else if p.2.recorded = .notInPool then none else some (.member p.1 .notInPool (now s 0))) ++
    [.layout (some l), .witnesses (formatWitnesses s members)]

/-! ### HK_ADMIN (R96, R97) -/

/-- Change the administrative operation. -/
def modAdmin (s : State) (f : AdminOp → AdminOp) : State := { s with admin := f s.admin }

/-- The administrative operation takes a step, and its progress record is written (R96). -/
def stepAdmin (s : State) (f : AdminOp → AdminOp) : State := recordAdmin (modAdmin s f)

/-- The operation ends: state 2, or 3 with MEMBER_GONE where a member failed (R97). -/
def endAdmin (s : State) : State :=
  stepAdmin s fun a => { a with
    state := if a.failed = 0 then 2 else 3
    final := if a.failed = 0 then St.ok else St.memberGone }

/-- The last records of an operation are written; it ends once they are settled. -/
def awaitTables (s : State) (ts : List TableItem) : State :=
  if ts.isEmpty then endAdmin s
  else
    let (s, q) := addTableGroup s ts
    stepAdmin s fun a => { a with stage := 3, seq := q }

/-- The submission entry of the NVMe Sanitize command, but for what the unit puts in its place. PRESUMED: NVM Express Base
Specification 2.0, CDW10 SANACT [2:0], OWPASS [7:4], CDW11 the overwrite pattern.
PRESUMED (log entry 64). -/
def sanitizeSqe (a : AdminOp) : Block :=
  let act := if a.action = 1 then 4 else a.action
  [0x84] ++ List.replicate 39 0 ++ leBytes 4 (if a.action = 3 then act + a.passes % 16 * 16 else act) ++
    leBytes 4 (if a.action = 3 then a.pattern else 0) ++ List.replicate 16 0

/-- SANITIZE, first: a new data key is drawn, and its wraps are recorded (R353). -/
def sanitizeKey (s : State) : State :=
  let (s, q) := addPlainGroup s (wrapItems s)
  stepAdmin { s with secure := { s.secure with dataKey := s.secure.dataKey + 1 } } fun a => { a with stage := 4, seq := q }

/-- SANITIZE, then: the members that have gone are counted as failed, and the others that have not finished are sent the
command, where they are not at work on it (R97). Once none is left, the map and the pool metadata are emptied. -/
def sanitizeMembers (s : State) : State :=
  let gone := s.admin.todo.filter fun m => (memberOf s m).mstate != 1 && !inService s m
  let s := if gone.isEmpty then s else stepAdmin s fun a => { a with
    todo := a.todo.filter fun m => !gone.contains m
    failed := a.failed + gone.length }
  let s := s.admin.todo.foldl (fun s m =>
    let busy := (memberOf s m).cmds.any fun c => c.2.use == .sanitize
    if inService s m && hasPath s m && !busy then issueCmd s m 0x84 0 .sanitize true (sanitizeSqe s.admin) else s) s
  let s := stopAppends s
  if s.admin.todo.isEmpty && poolQuiet s then
    awaitTables (emptyPool s) ((tabKeys s.volumes).map fun v => .volume v none)
  else s

/-- Whether a job holds an extent of a volume at or above an LBA: a hazard entry, or an append or map write that has not
returned (R95). -/
def holdsExtent (s : State) (v lo id : Nat) (j : Job) : Bool :=
  let inV (g : Grain) : Bool := g.job == some id && g.volume == v && decide (lo ≤ g.lba)
  (s.hazards.any fun h => h.job == some id && h.volume == v && decide (lo < h.lba + h.count)) ||
    (s.leads.any fun p => p.2.waiting.any fun w => w.grains.any inV) ||
    (s.courses.any fun c => inTundish c.2 && c.2.grains.any inV) ||
    match j.wait with
    | .appendPayload a => a.volume == v && decide (lo < a.lba + a.count)
    | .record o q => (ownerOf s o).recs.any fun r => r.seq == q &&
        (match r.body with | .mset lba w _ _ _ => w == v && decide (lo ≤ lba) | _ => false)
    | _ => false

/-- The jobs other than `self` that hold an extent of a volume at or above an LBA. -/
def extentHolders (s : State) (v lo : Nat) (self : Option Nat) : List Nat :=
  (s.jobs.filter fun p => some p.1 != self && holdsExtent s v lo p.1 p.2).map (·.1)

/-- FORMAT of a volume: once no job holds an extent in it, every mapped block is deallocated by a map record (R97). -/
def formatVolume (s : State) : State :=
  let v := s.admin.volume
  if !(extentHolders s v 0 none).isEmpty then s
  else
    let full := (s.map.filter fun p => p.1 / 2 ^ 64 == v && !deallocated p.2).map fun p => p.1 % 2 ^ 64
    if full.isEmpty then endAdmin s
    else
      let (s, q) := full.foldl (fun p lba => addMset (needLeaf p.1 v lba) 0 v lba 0 .dealloc) (s, 0)
      stepAdmin s fun a => { a with stage := 3, seq := q }

/-- FORMAT of the unit: the pool is emptied and laid out afresh (R97). -/
def formatUnit (s : State) : State :=
  let s := stopAppends s
  if !poolQuiet s then s
  else
    let ms := formatMembers s
    let l := makeLayout s ms s.admin.d s.admin.s
    let ts := formatTables s ms l
    awaitTables (emptyPool s) ts

/-- The members of the new layout are in service, and no other. -/
def seatFormatted (s : State) : State :=
  match s.layout with
  | none => s
  | some l => { s with members := tabMapV s.members fun m x =>
      if l.members.contains m then { x with mstate := if x.mstate = 5 then 2 else x.mstate }
      else { x with mstate := if x.mstate = 2 then 5 else x.mstate } }

/-- One piece of HK_ADMIN's work on the operation that runs (R96): `stage` 0 waits for its progress record, 1 begins it, 4 waits
for the wraps of a new data key, 2 for members, and 3 for its last records.
DESIGN CHOICE (log entry 38). -/
def adminStep (s : State) : State :=
  let a := s.admin
  if a.state ≠ 1 || decide (s.recovery < 8) || isF s 0 F.FPIN.C4 || s.lease.role != 1 then s
  else match a.stage, a.op with
    | 0, _ => s
    | 1, 1 => sanitizeKey s
    | 1, 2 => formatVolume s
    | 1, _ => formatUnit s
    | 2, _ => sanitizeMembers s
    | 4, _ => if recSettled s 0 a.seq then stepAdmin (dropDataKey s) fun a => { a with stage := 2 } else s
    | _, op => if recSettled s 0 a.seq then endAdmin (if op = 3 then seatFormatted s else s) else s

end Sys2Proof.Machine
end

