-- ==== Sys2Proof/Machine/Library.lean ====
section
/-! DEFINITION. The programs of the standard library and the moments they set: block input and output, volumes, long-running
administration, power states, the program store and control-space access (R45, R90 to R102, R153). -/

namespace Sys2Proof.Machine

/-! ### The form of a library program -/

/-- Whether a job is on a thread. -/
def onAThread (j : Job) : Bool := match j.phase with | .running _ => true | _ => false

/-- The form of a library program: it acts for a job of its slot that runs on a thread and waits for nothing.
DEDUCED (log entry 57). -/
def onLib (slot job : Nat) (s : State) (f : State → Job → State) : Out :=
  onUnit s fun s => match jobOf s job with
    | some j => if j.slot == slot && canIssue j && onAThread j && serving s j.slate then f s j else s
    | none => s

/-! ### Block input and output (R92 to R94) -/

/-- READ (R92). -/
def execRead (job : Nat) (s : State) : Out :=
  onLib 0x000 job s fun s j =>
    match blockCheck s j 2048 0 1 false with
    | some st => endLib s job st []
    | none => whenMapped s job j .readMapped readMapped

/-- WRITE (R92). -/
def execWrite (job : Nat) (s : State) : Out :=
  onLib 0x001 job s fun s j =>
    match blockCheck s j 2048 1 0 true, blockArgs j with
    | some st, _ => endLib s job st []
    | none, some a => libAppend s job j a 0 false
    | _, _ => s

/-- The blocks one course of the current layout holds (R92). -/
def courseBlocks (s : State) : Nat := match s.layout with | some l => dataGrains l | none => 0

/-- ATOMIC_WRITE (R92, R176). -/
def execAtomicWrite (job : Nat) (s : State) : Out :=
  onLib 0x002 job s fun s j =>
    match blockCheck s j (courseBlocks s) 1 0 true, blockArgs j with
    | some st, _ => endLib s job st []
    | none, some a => libAppend s job j a 0 true
    | _, _ => s

/-- Whether another COMPARE_AND_WRITE stands between its compare and its write on an overlapping extent (R93).
DEDUCED (log entry 59). -/
def comparing (s : State) (id : Nat) (a : BlockArgs) : Bool :=
  s.jobs.any fun p =>
    let j := p.2
    p.1 != id && j.slot == 0x003 && j.ended.isNone &&
      (match j.onWake with
       | .compare _ _ => true
       | .compareMapped _ => true
       | .finish _ _ => j.wait != .none
       | _ => false) &&
      (match blockArgs j with
       | some b => b.volume == a.volume && decide (a.lba < b.lba + b.count) && decide (b.lba < a.lba + a.count)
       | none => false)

/-- COMPARE_AND_WRITE (R92, R93): it waits for its payload and for an overlapping one to end, reads the extent, and goes on
with `compareMapped`. -/
def execCompareAndWrite (job : Nat) (s : State) : Out :=
  onLib 0x003 job s fun s j =>
    match blockCheck s j 256 2 0 true, blockArgs j, tabGet j.h 1 with
    | some st, _, _ => endLib s job st []
    | none, some a, some h =>
      let n := a.count * 4096
      if !arrived s h.buf h.off (h.off + 2 * n) then waitLib s job j (.payload h.buf h.off (h.off + 2 * n)) .resume
      else if comparing s job a then s
      else
        let (s, b) := newBuffer s { slate := j.slate, len := n, data := [], inbound := false, arrived := [] }
        let j := { j with buffers := j.buffers ++ [b] }
        whenMapped (putJob s job j) job j (.compareMapped b) fun s id j => compareMapped s id j b
    | _, _, _ => s

/-- DEALLOCATE (R92). -/
def execDeallocate (job : Nat) (s : State) : Out :=
  onLib 0x004 job s fun s j =>
    match blockCheck s j 2048 0 0 false with
    | some st => endLib s job st []
    | none => whenMapped s job j .deallocMapped deallocMapped

/-- FLUSH (R92, R94). -/
def execFlush (job : Nat) (s : State) : Out :=
  onLib 0x005 job s fun s j =>
    if rd j 1 ≠ 0 ∨ rd j 2 ≠ 0 ∨ rd j 9 ≠ 0 ∨ outLen j ≠ 0 then endLib s job St.illegalField []
    else if s.admin.state = 1 ∧ s.admin.op ≠ 2 then endLib s job St.notServing []
    else endLib s job St.ok []

/-! ### Volumes (R95) -/

/-- Whether a deletion or shrink of a volume is under way: its TB is fixed, or its job has not ended. -/
def cutPending (s : State) (v : Nat) : Bool :=
  match (tabGet s.volumes v).bind (·.cut) with
  | none => false
  | some c => c.tb.isSome || (match jobOf s c.job with | some j => j.ended.isNone | none => false)

/-- The effective TB of a deletion or shrink has come and its change is applied: the range is gone, and its grains are dead. -/
def cutOver (s : State) (v : Nat) : State :=
  match tabGet s.volumes v with
  | none => s
  | some x => match x.cut with
    | none => s
    | some c => match c.tb with
      | none => s
      | some t =>
        if now s 0 < t || x.size != c.size then s
        else cutEntries { s with volumes :=
          if c.size = 0 then tabDel s.volumes v else tabPut s.volumes v { x with cut := none } } v c.size

/-- VOLUME_CUTOVER (R95). -/
def execVolumeCutover (volume : Nat) (s : State) : Out := onUnit s fun s => cutOver s volume

/-- The size the volume-table records not yet applied leave a volume with; `none` where there is no such record. -/
def pendingSize (s : State) (v : Nat) : Option (Option Nat) :=
  let w := ownerOf s 0
  let item (b : RecBody) : Option (Option Nat) := match b with
    | .table (.volume x z) => if x = v then some z else none
    | _ => none
  ((w.recs.filter fun r => !r.trimmed).filterMap (fun r => item r.body) ++ w.waiting.filterMap fun x => item x.body).getLast?

/-- Whether a volume exists for VOLUME_CREATE. -/
def volumeExists (s : State) (sl v : Nat) : Bool :=
  (openSize s sl v).isSome || (match pendingSize s v with | some (some _) => true | _ => false)

/-- VOLUME_CREATE (R95). -/
def execVolumeCreate (job : Nat) (s : State) : Out :=
  onLib 0x010 job s fun s j =>
    let v := (rd j 1).toNat
    let z := (rd j 2).toNat
    if 4095 < v ∨ z = 0 ∨ 2 ^ 40 < z then endLib s job St.outOfRange []
    else if !poolServed s then endLib s job St.notServing []
    else if volumeExists s j.slate v then endLib s job St.illegalField []
    else
      let s := cutOver s v
      if cutPending s v then s
      else commitTables s job j [.volume v (some z)] (.finish St.ok [])

/-- A deletion or shrink begins: it waits for the jobs that hold an extent in the part cut off (R95). -/
def beginCut (s : State) (id : Nat) (j : Job) (v size was : Nat) : State :=
  let c : VolCut := { size := size, was := was, job := id, hold := extentHolders s v size (some id), tb := none }
  let s := { s with volumes := tabMod s.volumes v fun x => { x with cut := some c } }
  waitLib s id j (.volumeJobs v) (.cutVolume v)

/-- VOLUME_DELETE (R95). -/
def execVolumeDelete (job : Nat) (s : State) : Out :=
  onLib 0x011 job s fun s j =>
    let v := (rd j 1).toNat
    match openSize s j.slate v with
    | none => endLib s job (if 4095 < v ∨ poolServed s then St.outOfRange else St.notServing) []
    | some z =>
      let s := cutOver s v
      if !poolServed s then endLib s job St.notServing []
      else if cutPending s v then s
      else beginCut s job j v 0 z

/-- VOLUME_RESIZE (R95): growing takes effect when it returns. -/
def execVolumeResize (job : Nat) (s : State) : Out :=
  onLib 0x012 job s fun s j =>
    let v := (rd j 1).toNat
    let z := (rd j 2).toNat
    match openSize s j.slate v with
    | none => endLib s job (if 4095 < v ∨ poolServed s then St.outOfRange else St.notServing) []
    | some old =>
      let s := cutOver s v
      if z = 0 ∨ 2 ^ 40 < z then endLib s job St.outOfRange []
      else if !poolServed s then endLib s job St.notServing []
      else if cutPending s v then s
      else if z < old then beginCut s job j v z old
      else commitTables s job j [.volume v (some z)] .finishTb

/-- Grains mapped in a volume. -/
def mappedGrains (s : State) (v : Nat) : Nat :=
  (s.map.filter fun p => p.1 / 2 ^ 64 == v && entryPgn p.2 != 0).length

/-- VOLUME_INFO (R95). -/
def execVolumeInfo (job : Nat) (s : State) : Out :=
  onLib 0x013 job s fun s j =>
    let v := (rd j 1).toNat
    if 4095 < v then endLib s job St.outOfRange []
    else match openSize s j.slate v with
      | none => endLib s job St.ok []
      | some z =>
        let fmt := s.admin.state == 1 && s.admin.op == 2 && s.admin.volume == v
        endLib s job St.ok [BitVec.ofNat 64 z, BitVec.ofNat 64 (mappedGrains s v), BitVec.ofNat 64 (1 + fmt.toNat * 2)]

/-! ### Long-running administration (R96, R97) -/

/-- An operation starts: its progress record is its commit point, and the program ends with its identifier once the record
is confirmed (R96). -/
def startAdmin (s : State) (id : Nat) (j : Job) (a : AdminOp) : State :=
  let (s, ok) := askCommit s id
  if !ok then s
  else
    let x := freeVal s
    let a := { a with state := 1, ident := x }
    let (s, q) := addTable (takeFree s) (.progress a)
    waitLib { s with admin := a } id j (.record 0 q) (.finish St.ok [x])

/-- Members in service. -/
def serviceMembers (s : State) : List Nat := (tabKeys s.members).filter (inService s)

/-- SANITIZE (R96, R97), which draws a data key: BUSY_RETRY while the entropy source fails (R339), which `call.rngOk` says.
DESIGN CHOICE (log entry 131). -/
def execSanitize (call : SanitizeCall) (s : State) : Out :=
  onLib 0x020 call.job s fun s j =>
    let job := call.job
    let act := (rd j 1).toNat
    let pat := (rd j 2).toNat
    let n := (rd j 3).toNat
    if act = 0 ∨ 3 < act ∨ (act = 3 ∧ (n = 0 ∨ 16 < n ∨ 2 ^ 32 ≤ pat)) then endLib s job St.illegalField []
    else if (serviceMembers s).any fun m => !bitOf (memberOf s m).sanCap act then endLib s job St.illegalField []
    else if !poolServed s then endLib s job St.notServing []
    else if s.admin.state = 1 ∨ !call.rngOk then endLib s job St.busyRetry []
    else startAdmin s job j { State.adminReset with
      op := 1, action := act, pattern := pat, passes := n, todo := serviceMembers s }

/-- The status a unit FORMAT's arguments get, if they are refused (R97, R165). -/
def formatRefused (s : State) (d sp : Nat) : Option Status :=
  let ms := formatMembers s
  if d < 8 ∨ 22 < d ∨ 4 < sp then some St.illegalField
  else if ms.length < d + 2 + sp then some St.outOfRange
  else if zonesFit s ms (makeLayout s ms d sp) then none
  else some St.illegalField

/-- FORMAT (R96, R97). -/
def execFormat (job : Nat) (s : State) : Out :=
  onLib 0x021 job s fun s j =>
    let v := (rd j 2).toNat
    let sp := (rd j 3).toNat
    let go (a : AdminOp) : State :=
      if s.admin.state = 1 then endLib s job St.busyRetry [] else startAdmin s job j a
    match (rd j 1).toNat with
    | 0 =>
      if (openSize s j.slate v).isNone then endLib s job (if 4095 < v ∨ poolServed s then St.outOfRange else St.notServing) []
      else if !poolServed s then endLib s job St.notServing []
      else go { State.adminReset with op := 2, volume := v }
    | 1 => match formatRefused s v sp with
      | some st => endLib s job st []
      | none =>
        if !poolServed s then endLib s job St.notServing []
        else go { State.adminReset with op := 3, d := v, s := sp }
    | _ => endLib s job St.illegalField []

/-- ADMIN_STATUS (R96): the manual gives the progress of an operation a unit and no measure; it is a free value.
DESIGN CHOICE (log entry 14). -/
def execAdminStatus (job : Nat) (s : State) : Out :=
  onLib 0x022 job s fun s _ =>
    let a := s.admin
    let p := if a.op = 0 then 0 else bits (freeVal s) 0 16
    endLib (if a.op = 0 then s else takeFree s) job St.ok
      [BitVec.ofNat 64 (a.op + a.state * 256), a.ident, BitVec.ofNat 64 p, BitVec.ofNat 64 (a.final.toNat + a.failed * 2 ^ 32)]

/-! ### Power states (R98, R153) -/

/-- POWER_STATE (R98): the job returns when the unit is in the state.
DEDUCED (log entry 56). -/
def execPowerState (job : Nat) (s : State) : Out :=
  onLib 0x028 job s fun s j =>
    let t := (rd j 1).toNat
    if 2 < t then endLib s job St.outOfRange []
    else if s.admin.state = 1 then endLib s job St.busyRetry []
    else if t = s.power.now then endLib s job St.ok [BitVec.ofNat 64 (now s j.slate)]
    else if s.power.target.isSome then endLib s job St.busyRetry []
    else
      let s := if t = 2 then powerMembers s true else s
      waitLib { s with power := { s.power with target := some (t, job) } } job j .powerEntry .resume

/-- Whether every job but one and the housekeeping programs has ended, and no command is held for dispatch (R153). -/
def othersEnded (s : State) (job : Nat) : Bool :=
  (s.jobs.all fun p => p.1 == job || isHk p.2) && s.queues.all fun q => q.2.tags.all fun t => t.2.st != .held

/-- PS_ENTRY_DONE (R98, R153): the members are in their state; entry to PS2 has also waited for every other job. -/
def execPsEntryDone (s : State) : Out :=
  onUnit s fun s => match s.power.target with
    | none => s
    | some (t, job) =>
      if t = 2 && !othersEnded s job || powerBusy s then s
      else
        let s := { s with power := { now := t, target := none, exiting := false } }
        match jobOf s job with
        | some j => endLib s job St.ok [BitVec.ofNat 64 (now s j.slate)]
        | none => s

/-- PS_EXIT_DONE (R153): exit from PS2 completes, and the commands held are dispatched. -/
def execPsExitDone (s : State) : Out :=
  onUnit s fun s =>
    if s.power.now ≠ 2 || !s.power.exiting || powerBusy s then s
    else
      let s := { s with power := { now := 0, target := none, exiting := false } }
      s.queues.foldl (fun s q => q.2.tags.foldl (fun s t => tryDispatch s q.1 t.1) s) s

/-! ### The program store (R45, R49, R99 to R101) -/

/-- The word numbers of the extension words of a program (R49): an X form has major 0x3F. -/
def extWordsFrom : List InsnWord → Nat → List Nat
  | [], _ => []
  | [_], _ => []
  | w :: x :: r, i =>
    if w.toNat / 2 ^ 26 = 0x3F then (i + 1) :: extWordsFrom r (i + 2) else extWordsFrom (x :: r) (i + 1)

/-- The program an image holds (R99). -/
def imageProgram (b : Block) : Program :=
  let n := inField b 12 4
  let ws := (List.range n).map fun i => BitVec.ofNat 32 (inField b (64 + 4 * i) 4)
  { slot := inField b 4 2, keep := inField b 6 1 == 1, key := inField b 7 1, budget := inField b 8 4
    version := inField b 16 2, words := ws, extWords := extWordsFrom ws 0, measure := [] }

/-- Whether an image of `len` bytes keeps the format and the ranges of R99. -/
def imageOk (b : Block) (len : Nat) : Bool :=
  let n := inField b 12 4
  decide (64 ≤ len) && inField b 0 4 == 1 && decide (inField b 4 2 ≤ 0x3FF) && decide (inField b 6 1 ≤ 1) &&
    decide (inField b 7 1 ≤ 4) && decide (inField b 8 4 ≤ 1048576) && decide (1 ≤ n) && decide (n ≤ 1048575) &&
    decide (inField b 16 2 < 4096) && zeroAt b 18 46 && len == 64 + 4 * n + 29792

/-- Whether a version is still in the store: a slot holds it, it is to enter one, or a job runs it (R45). -/
def liveProg (s : State) (v : Nat) : Bool :=
  (tabVals s.slots).contains v || (match s.cutover with | some c => c.prog == some v | none => false) ||
    s.jobs.any fun p => p.2.prog == v

/-- Bytes of instruction words in the program store, old versions still live included (R44, R100 step 6).
DEDUCED (log entry 62). -/
def storeBytes (s : State) : Nat :=
  (s.progs.filter fun p => liveProg s p.1).foldl (fun a p => a + 4 * p.2.words.length) 0

/-- The checks of R100 in order. -/
def installCheck (s : State) (b : Block) (len : Nat) (sigOk : Bool) : Option Status :=
  let p := imageProgram b
  if !imageOk b len then some St.illegalField
  else if (p.key ≠ 0 ∧ ¬ tabHas s.secure.custKeys p.key) ∨ !sigOk then some St.signatureBad
  else if (p.key = 0) ≠ (p.slot < 0x100) then some St.rights
  else if (match slotProg s p.slot with | some (_, old) => decide (p.version < old.version) | none => false) then some St.rights
  else if s.cutover.isSome then some St.busyRetry
  else if 4194304 < storeBytes s + 4 * p.words.length then some St.noSpace
  else none

/-- A change of one slot is recorded; its effective TB is fixed once the record is confirmed (R45, R100, R101). -/
def recordSlot (s : State) (id : Nat) (j : Job) (slot : Nat) (p : Option Nat) : State :=
  let m := match p.bind (tabGet s.progs) with | some x => x.measure | none => []
  let (s, q) := addPlainGroup { s with cutover := some { slot := slot, prog := p, tb := none } } (manifestTables slot p m)
  waitLib s id j (.record 0 q) .cutProgram

/-- PROGRAM_INSTALL (R99, R100, R355). -/
def execProgramInstall (job : Nat) (img : ProgImage) (s : State) : Out :=
  onLib 0x030 job s fun s j =>
    let len := (rd j 9).toNat
    match tabGet j.h 1 with
    | none => endLib s job St.illegalField []
    | some h =>
      if !arrived s h.buf h.off (h.off + len) then waitLib s job j (.payload h.buf h.off (h.off + len)) .resume
      else
        let b := handleRead s h 0 len
        match installCheck s b len img.sigOk with
        | some st => endLib s job st []
        | none =>
          if !img.flashOk then endLib (detect s 0 Ev.FLASH_ERR []) job St.illegalField []
          else
            let (s, ok) := askCommit s job
            if !ok then s
            else
              let v := s.nextProg
              let p := measured (imageProgram b)
              recordSlot { s with progs := tabPut s.progs v p, nextProg := v + 1 } job j p.slot (some v)

/-- Whether any slate's HK_SLOT names a slot. -/
def hkNames (s : State) (slot : Nat) : Bool :=
  (servingSlates s).any fun sl => (List.range 8).any fun n => getF s sl (F.ENGINE.HK_SLOT n) == slot

/-- PROGRAM_REMOVE (R101). -/
def execProgramRemove (job : Nat) (s : State) : Out :=
  onLib 0x031 job s fun s j =>
    let slot := (rd j 1).toNat
    if 0x3FF < slot then endLib s job St.outOfRange []
    else if slot < 0x100 then endLib s job St.rights []
    else if (slotProg s slot).isNone then endLib s job St.noProgram []
    else if hkNames s slot then endLib s job St.illegalField []
    else if s.cutover.isSome then endLib s job St.busyRetry []
    else
      let (s, ok) := askCommit s job
      if !ok then s else recordSlot s job j slot none

/-- PROGRAM_INFO (R101): an empty slot has no measurement, and its words are zero. -/
def execProgramInfo (job : Nat) (s : State) : Out :=
  onLib 0x032 job s fun s j =>
    let slot := (rd j 1).toNat
    if 0x3FF < slot then endLib s job St.outOfRange []
    else
      let m := match slotProg s slot with | some (_, p) => p.measure | none => []
      let w (i : Nat) : Word := BitVec.ofNat 64 (beNat (blockSlice m (8 * i) 8))
      endLib s job St.ok [readEntry s j.slate 0x02 (0x400 + slot), w 0, w 1, w 2]

/-- PROGRAM_CUTOVER (R41, R45): the slot changes on every slate at one TB, and each raises STORE_CHANGE; versions no job runs leave the
store. -/
def execProgramCutover (s : State) : Out :=
  onUnit s fun s => match s.cutover with
    | none => s
    | some c => match c.tb with
      | none => s
      | some t =>
        if now s 0 < t then s
        else
          let s := { s with
            slots := match c.prog with | some v => tabPut s.slots c.slot v | none => tabDel s.slots c.slot
            cutover := none }
          let s := { s with progs := s.progs.filter fun p => liveProg s p.1 }
          forSlates (servingSlates s) (fun s sl => raise s sl Ev.STORE_CHANGE) s

/-! ### Control-space access (R102) -/

/-- A control-space program ends, once the record its write waits for is settled; the write may itself have ended the job. -/
def endCtl (s : State) (id : Nat) (st : Status) (words : List Word) (r : RecRef) : State :=
  match jobOf s id with
  | none => s
  | some j =>
    if j.ended.isSome then s
    else match r with
      | none => endLib s id st words
      | some (o, q) => waitLib s id j (.record o q) (.finish st words)

/-- CTL_GET (R102). -/
def execCtlGet (job : Nat) (s : State) : Out :=
  onLib 0x040 job s fun s j =>
    let (st, e) := ctlGetOp s (rd j 1) j.slate
    endLib (ctlGrant s (rd j 1) j.slate) job st e.toList

/-- CTL_SET (R102). -/
def execCtlSet (job : Nat) (s : State) : Out :=
  onLib 0x041 job s fun s j =>
    let (s, st, r) := ctlSetOp (ctlGrant s (rd j 1) j.slate) job (rd j 1) j.slate (rd j 2)
    endCtl s job st [] r

/-- CTL_SWAP (R102). -/
def execCtlSwap (job : Nat) (s : State) : Out :=
  onLib 0x042 job s fun s j =>
    let (s, st, e, hit, r) := ctlSwapOp (ctlGrant s (rd j 1) j.slate) job (rd j 1) j.slate (rd j 2) (rd j 3)
    endCtl s job st [e.getD 0, BitVec.ofNat 64 hit.toNat] r

end Sys2Proof.Machine
end

