-- ==== Sys2Proof/Machine/MemInsns.lean ====
section
/-! DEFINITION. Scratch, MEM and atomic instructions (R27, R28, R30, R58 to R60). -/

namespace Sys2Proof.Machine

/-! ### Scratch (R58) -/

/-- The SCR address of a load or store: gA + sext(imm16). -/
def scrAddr (j : Job) (a : Reg) (imm : BitVec 16) : Nat := (rd j a + imm.signExtend 64).toNat

/-- The operand checks of R58 in order, or the trap they give. -/
def scrCheck (a size : Nat) : Option Status :=
  if 0x1000 < a + size then some St.outOfRange
  else if a % size ≠ 0 then some St.illegalField
  else none

/-- A scratch load of `size` bytes. -/
def scrLoad (o : IForm) (size : Nat) (s : State) : Out :=
  onThread o.t s fun s => issue o.t s 1 true false fun s id j =>
    let a := scrAddr j o.a o.imm
    match scrCheck a size with
    | some st => trapJob s id st
    | none => finish s id (wr j o.d (BitVec.ofNat 64 (leNat (bytesOf j.scr a size)))) 1

/-- A scratch store of `size` bytes. -/
def scrStore (o : IForm) (size : Nat) (s : State) : Out :=
  onThread o.t s fun s => issue o.t s 1 true false fun s id j =>
    let a := scrAddr j o.a o.imm
    match scrCheck a size with
    | some st => trapJob s id st
    | none => finish s id { j with scr := bytesPut j.scr a (leBytes size (rd j o.d).toNat) } 1

/-- LDB. -/
def execLdb (o : IForm) (s : State) : Out := scrLoad o 1 s
/-- LDH. -/
def execLdh (o : IForm) (s : State) : Out := scrLoad o 2 s
/-- LDW. -/
def execLdw (o : IForm) (s : State) : Out := scrLoad o 4 s
/-- LDD. -/
def execLdd (o : IForm) (s : State) : Out := scrLoad o 8 s
/-- STB. -/
def execStb (o : IForm) (s : State) : Out := scrStore o 1 s
/-- STH. -/
def execSth (o : IForm) (s : State) : Out := scrStore o 2 s
/-- STW. -/
def execStw (o : IForm) (s : State) : Out := scrStore o 4 s
/-- STD. -/
def execStd (o : IForm) (s : State) : Out := scrStore o 8 s

/-! ### MEM (R16, R28, R59) -/

/-- Whether a job may reach a MEM range of its privilege (R28). -/
def regionOk (s : State) (keep : Bool) (a size : Nat) : Bool :=
  let o := memOff a
  if keep then decide (o + size ≤ deviceBase)
  else decide (getF s (memHome a) F.ENGINE.HEAP_BASE * 2 ^ 20 ≤ o) &&
    decide (o + size ≤ getF s (memHome a) F.ENGINE.HEAP_LIMIT * 2 ^ 20)

/-- The operand checks of R59 in order: the address format of R16, the region of R28, alignment. -/
def memCheck (s : State) (keep : Bool) (a size : Nat) : Option Status :=
  if s.n ≤ memHome a ∨ stackBytes ≤ memOff a ∨ 2 ^ 40 ≤ a then some St.outOfRange
  else if !regionOk s keep a size then some St.bounds
  else if a % size ≠ 0 then some St.illegalField
  else none

/-- LDX (R59). -/
def execLdx (o : RForm) (s : State) : Out :=
  onThread o.t s fun s => issue o.t s 1 (o.minor.toNat / 4 == 0) false fun s id j =>
    let size := sizeOf2 o.minor.toNat
    let a := (rd j o.a + rd j o.b).toNat
    match memCheck s j.keep a size with
    | some st => trapJob s id st
    | none =>
      if tabHas s.lost (memHome a) then lostHomeJob s id
      else
        let s := engineRead s j.slate (engineOf j) a
        if poisoned s a size then poisonJob s id a
        else finish s id (wr j o.d (BitVec.ofNat 64 (leNat (hbmRead s a size)))) 1

/-- STX (R59). A store of less than a whole poisoned word consumes it (R283). -/
def execStx (o : RForm) (s : State) : Out :=
  onThread o.t s fun s => issue o.t s 1 (o.minor.toNat / 4 == 0) false fun s id j =>
    let size := sizeOf2 o.minor.toNat
    let a := (rd j o.a + rd j o.b).toNat
    match memCheck s j.keep a size with
    | some st => trapJob s id st
    | none =>
      if tabHas s.lost (memHome a) then lostHomeJob s id
      else
        let s := engineWrite s j.slate (engineOf j) a
        if size < 8 && poisoned s a size then poisonJob s id a
        else finish (hbmWrite s a (leBytes size (rd j o.d).toNat)) id j 1

/-! ### Atomics (R43, R60) -/

/-- The checks an atomic makes and the grant of its home's atomic unit; `body` gets the old value. -/
def atomicInsn (o : R3) (s : State) (body : State → Nat → Job → Nat → Word → State) : Out :=
  onThread o.t s fun s => issue o.t s 1 true false fun s id j =>
    let a := (rd j o.a).toNat
    match memCheck s j.keep a 8 with
    | some st => trapJob s id st
    | none =>
      if tabHas s.lost (memHome a) then lostHomeJob s id
      else
        let s := atomicAccess (granted s (ptrAtomic (memHome a)) j.slate 8) a
        if poisoned s a 8 then poisonJob s id a
        else body s id j a (BitVec.ofNat 64 (leNat (hbmRead s a 8)))

/-- AADD (R60). -/
def execAadd (o : R3) (s : State) : Out :=
  atomicInsn o s fun s id j a old =>
    finish (hbmWrite s a (leBytes 8 (old + rd j o.b).toNat)) id (wr j o.d old) 1

/-- ACAS: Z says whether it wrote; gD gets the word's value (R60). -/
def execAcas (o : R3) (s : State) : Out :=
  atomicInsn o s fun s id j a old =>
    let hit := old == rd j o.d
    let s := if hit then hbmWrite s a (leBytes 8 (rd j o.b).toNat) else s
    finish s id { wr j o.d old with z := hit } 1

end Sys2Proof.Machine
end

