-- ==== Sys2Proof/Machine/PerfCmds.lean ====
section
/-! DEFINITION. The timed commands of the caches, the counters, sampling and the supply measurements (R205, R280, R281, R329, R333
to R337). -/

namespace Sys2Proof.Machine

/-! ### Caches (R280 to R282) -/

/-- SC_DRAIN_DONE (R280, R282): the sweep is complete and the victim buffer empty. A drain for want of ways ends in BYPASSED. -/
def execScDrainDone (slate : Nat) (s : State) : Out :=
  onSlate slate s fun s =>
    if scState s slate ≠ 2 || !(tabGetD s.victim slate []).isEmpty then s
    else if isF s slate F.MEM.SC_EN && decide (waysOn s slate 0 0 < 8) then
      raise (setF s slate F.MEM.SC_STATE 3) slate Ev.SC_BYPASSED
    else setF s slate F.MEM.SC_STATE 0

/-- HBM_SCRUB (R281): the controller scrubs the stack and rewrites each corrected line. A correction is reported by its
detector, and the contents stay as they are, poison included.
DEDUCED (log entry 90). -/
def execHbmScrub (slate : Nat) (s : State) : Out := onSlate slate s fun s => s

/-! ### Counters (R329, R333, R334) -/

/-- COUNTER_WRAP (R329): the count that takes VALUE past 2^48 - 1. -/
def execCounterWrap (slate k : Nat) (s : State) : Out :=
  onSlate slate s fun s =>
    if k < 16 && isF s slate (F.PERF.EN k) && getF s slate (F.PERF.VALUE k) == 2 ^ 48 - 1 then addCounter s slate k 1 else s

/-- A counter record (R334). -/
def counterRecord (s : State) (sl seq : Nat) : Block :=
  leBytes 8 seq ++ leBytes 8 (now s sl) ++
    leBytes 2 (maskOf ((List.range 16).filter fun k => isF s sl (F.PERF.OVF k))) ++ leBytes 1 sl ++ leBytes 45 0 ++
    (List.range 16).flatMap fun k => leBytes 8 (getF s sl (F.PERF.VALUE k))

/-- COUNTER_DUMP (R333, R334): at a TB that is a multiple of DUMP_US, the record is written, or its SEQ is consumed. -/
def execCounterDump (slate : Nat) (s : State) : Out :=
  onSlate slate s fun s =>
    if !isF s slate F.PERF.DUMP_EN || now s slate % (getF s slate F.PERF.DUMP_US * 1000) ≠ 0 then s
    else
      let seq := tabGetD s.dumpSeq slate 0
      let b := counterRecord s slate seq
      let s := { s with dumpSeq := tabPut s.dumpSeq slate (seq + 1) }
      let d : List Word := [BitVec.ofNat 64 seq]
      if ringInHeap s slate counterRing then detect (bump s slate F.PERF.DUMPS_SKIPPED) slate Ev.RING_OVERLAP d
      else if ringFill s slate counterRing = ringLen s slate counterRing then
        detect (bump s slate F.PERF.DUMPS_LOST) slate Ev.DUMP_LOST d
      else ringPut s slate counterRing Ev.RING_HALF b

/-! ### Sampling (R336, R337) -/

/-- The address a sample records (R337): the MEM address of `LDX`, `STX`, `AADD` and `ACAS`, the buffer offset of `BGET`,
`BPUT`, `RECV` and `SEND`. -/
def sampleAddr (j : Job) (w : InsnWord) : Word :=
  let m := w.toNat / 2 ^ 26
  let a : Reg := BitVec.ofNat 5 (w.toNat / 2 ^ 16)
  let b : Reg := BitVec.ofNat 5 (w.toNat / 2 ^ 11)
  let off (n : Nat) : Word := match handleOf j n with
    | some h => BitVec.ofNat 64 h.off
    | none => 0
  if m = 0x1C ∨ m = 0x1D then rd j a + rd j b
  else if m = 0x1E then rd j a
  else if m = 0x20 ∨ m = 0x21 then off (w.toNat / 4 % 8) + rd j a
  else if m = 0x23 ∨ m = 0x24 then off (w.toNat % 8) + rd j a
  else 0

/-- SAMPLE_SELECT (R336): the count has reached its threshold, and the next instruction, `insn` on thread `t`, is tagged. -/
def execSampleSelect (t : Thread) (insn : InsnWord) (s : State) : Out :=
  onThread t s fun s =>
    let sl := t.slate
    let x := samplingOf s sl
    if !isF s sl F.PERF.SAMP_EN || decide (x.count < sampleThreshold s sl) then s
    else match jobOn s t with
      | none => s
      | some id => match jobOf s id with
        | none => s
        | some j =>
          if !canIssue j || (isHk j && !isF s sl F.PERF.SAMP_HK) then s
          else
            let x := { x with count := 0, lfsr := sampleLfsr x.lfsr }
            if x.tags.length = 16 then bump (putSampling s sl x) sl F.PERF.SAMPLES_SKIPPED
            else
              let tag : SampleTag :=
                { thread := t.idx, job := id, word := insn, tb := now s sl, pc := j.pc, addr := sampleAddr j insn, susp := false }
              putSampling s sl { x with tags := x.tags ++ [tag] }

/-! ### The supply (R198, R205) -/

/-- The feed that carries the load, from the two voltages in units of 10 mV (R205). -/
def feedOf (a b : Nat) : Nat := if (a - b) + (b - a) ≤ 30 then 3 else if b < a then 1 else 2

/-- SUPPLY_MEASURE (R205): the measurements in the units of SVIN. -/
def execSupplyMeasure (vinA vinB iin pin : Nat) (s : State) : Out :=
  onUnit s fun s =>
    let f := feedOf vinA vinB
    { s with mod := { s.mod with
        vinA := vinA, vinB := vinB, iin := iin, pin := pin
        pinMax := max s.mod.pinMax (pin % 2 ^ 16)
        feed := f
        feedChg := if f = s.mod.feed then s.mod.feedChg else s.mod.feedChg + 1 } }

end Sys2Proof.Machine
end

