-- ==== Sys2Proof/Machine/Dispatch.lean ====
section
/-! DEFINITION. The meaning of every command, one arm each. -/

namespace Sys2Proof.Machine

/-- The effect of a command on everything but the queue of waiting commands. -/
def exec (i : Instr) (s : State) : Host.Outcome State Fault Refusal :=
  match i with
  | .add o => Sys2Proof.Machine.execAdd o s
  | .sub o => Sys2Proof.Machine.execSub o s
  | .mul o => Sys2Proof.Machine.execMul o s
  | .mulh o => Sys2Proof.Machine.execMulh o s
  | .mulhu o => Sys2Proof.Machine.execMulhu o s
  | .and o => Sys2Proof.Machine.execAnd o s
  | .or o => Sys2Proof.Machine.execOr o s
  | .xor o => Sys2Proof.Machine.execXor o s
  | .shl o => Sys2Proof.Machine.execShl o s
  | .shr o => Sys2Proof.Machine.execShr o s
  | .sar o => Sys2Proof.Machine.execSar o s
  | .cmp o => Sys2Proof.Machine.execCmp o s
  | .b o => Sys2Proof.Machine.execB o s
  | .bcc o => Sys2Proof.Machine.execBcc o s
  | .call o => Sys2Proof.Machine.execCall o s
  | .ret o => Sys2Proof.Machine.execRet o s
  | .ldb o => Sys2Proof.Machine.execLdb o s
  | .ldh o => Sys2Proof.Machine.execLdh o s
  | .ldw o => Sys2Proof.Machine.execLdw o s
  | .ldd o => Sys2Proof.Machine.execLdd o s
  | .stb o => Sys2Proof.Machine.execStb o s
  | .sth o => Sys2Proof.Machine.execSth o s
  | .stw o => Sys2Proof.Machine.execStw o s
  | .std o => Sys2Proof.Machine.execStd o s
  | .ldx o => Sys2Proof.Machine.execLdx o s
  | .stx o => Sys2Proof.Machine.execStx o s
  | .aadd o => Sys2Proof.Machine.execAadd o s
  | .acas o => Sys2Proof.Machine.execAcas o s
  | .bget o => Sys2Proof.Machine.execBget o s
  | .bput o => Sys2Proof.Machine.execBput o s
  | .hsub o => Sys2Proof.Machine.execHsub o s
  | .hlen o => Sys2Proof.Machine.execHlen o s
  | .hnew o => Sys2Proof.Machine.execHnew o s
  | .recv o => Sys2Proof.Machine.execRecv o s
  | .send o => Sys2Proof.Machine.execSend o s
  | .dsub o => Sys2Proof.Machine.execDsub o s
  | .crd o => Sys2Proof.Machine.execCrd o s
  | .dwait o => Sys2Proof.Machine.execDwait o s
  | .capp o => Sys2Proof.Machine.execCapp o s
  | .mget o => Sys2Proof.Machine.execMget o s
  | .mset o => Sys2Proof.Machine.execMset o s
  | .haz o => Sys2Proof.Machine.execHaz o s
  | .hrel o => Sys2Proof.Machine.execHrel o s
  | .shka o => Sys2Proof.Machine.execShka o s
  | .shks o => Sys2Proof.Machine.execShks o s
  | .evw o => Sys2Proof.Machine.execEvw o s
  | .evs o => Sys2Proof.Machine.execEvs o s
  | .cget o => Sys2Proof.Machine.execCget o s
  | .cset o => Sys2Proof.Machine.execCset o s
  | .cswap o => Sys2Proof.Machine.execCswap o s
  | .pmc o => Sys2Proof.Machine.execPmc o s
  | .gets o => Sys2Proof.Machine.execGets o s
  | .yield o => Sys2Proof.Machine.execYield o s
  | .done o => Sys2Proof.Machine.execDone o s
  | .fail o => Sys2Proof.Machine.execFail o s
  | .trap o => Sys2Proof.Machine.execTrap o s
  | .budgetExhausted t => Sys2Proof.Machine.execBudgetExhausted t s
  | .jobResume job => Sys2Proof.Machine.execJobResume job s
  | .threadTakeWork slate => Sys2Proof.Machine.execThreadTakeWork slate s
  | .commandDispatch hq tag => Sys2Proof.Machine.execCommandDispatch hq tag s
  | .jobEnded job => Sys2Proof.Machine.execJobEnded job s
  | .hkTrapRestart slate n => Sys2Proof.Machine.execHkTrapRestart slate n s
  | .hkRestart slate n v => Sys2Proof.Machine.execHkRestart slate n v s
  | .evwEventReturn slate n => Sys2Proof.Machine.execEvwEventReturn slate n s
  | .evwTimeout job => Sys2Proof.Machine.execEvwTimeout job s
  | .eventLaunch slate event => Sys2Proof.Machine.execEventLaunch slate event s
  | .command d => Sys2Proof.Machine.execCommand d s
  | .dataIn d => Sys2Proof.Machine.execDataIn d s
  | .abort d => Sys2Proof.Machine.execAbort d s
  | .queueResetAbort d => Sys2Proof.Machine.execQueueResetAbort d s
  | .contextFetchDone hq => Sys2Proof.Machine.execContextFetchDone hq s
  | .parkPauseRelease slate => Sys2Proof.Machine.execParkPauseRelease slate s
  | .inboundBufferAlloc slate => Sys2Proof.Machine.execInboundBufferAlloc slate s
  | .rmaRead d => Sys2Proof.Machine.execRmaRead d s
  | .rmaWrite d => Sys2Proof.Machine.execRmaWrite d s
  | .rmaAadd d => Sys2Proof.Machine.execRmaAadd d s
  | .rmaAcas d => Sys2Proof.Machine.execRmaAcas d s
  | .rmaAcas128 d => Sys2Proof.Machine.execRmaAcas128 d s
  | .rmaCopy d => Sys2Proof.Machine.execRmaCopy d s
  | .rmaCopyWr d => Sys2Proof.Machine.execRmaCopyWr d s
  | .copyChunkAnswer slate copy chunk status => Sys2Proof.Machine.execCopyChunkAnswer slate copy chunk status s
  | .copyChunkResend slate copy chunk => Sys2Proof.Machine.execCopyChunkResend slate copy chunk s
  | .copyChunkTimeout slate copy chunk => Sys2Proof.Machine.execCopyChunkTimeout slate copy chunk s
  | .readyRepeat => Sys2Proof.Machine.execReadyRepeat s
  | .portTrained slate sub' => Sys2Proof.Machine.execPortTrained slate sub' s
  | .pauseTimeout => Sys2Proof.Machine.execPauseTimeout s
  | .pfcPauseRx slate cls on => Sys2Proof.Machine.execPfcPauseRx slate cls on s
  | .linkDown slate sub' => Sys2Proof.Machine.execLinkDown slate sub' s
  | .portReconfigure slate v => Sys2Proof.Machine.execPortReconfigure slate v s
  | .ptpSync slate sync => Sys2Proof.Machine.execPtpSync slate sync s
  | .ptpLoss => Sys2Proof.Machine.execPtpLoss s
  | .frameArrival f => Sys2Proof.Machine.execFrameArrival f s
  | .outputSelect slate port sub' => Sys2Proof.Machine.execOutputSelect slate port sub' s
  | .wheelSlot slate port sub' => Sys2Proof.Machine.execWheelSlot slate port sub' s
  | .gateTakeover slate => Sys2Proof.Machine.execGateTakeover slate s
  | .glInstall slate v => Sys2Proof.Machine.execGlInstall slate v s
  | .glDisable slate v => Sys2Proof.Machine.execGlDisable slate v s
  | .queueCreditReset slate port cls v => Sys2Proof.Machine.execQueueCreditReset slate port cls v s
  | .policerReset slate cls v => Sys2Proof.Machine.execPolicerReset slate cls v s
  | .peerPauseExpiry slate cls => Sys2Proof.Machine.execPeerPauseExpiry slate cls s
  | .fabricLinkError slate link => Sys2Proof.Machine.execFabricLinkError slate link s
  | .fabricLinkDown slate link => Sys2Proof.Machine.execFabricLinkDown slate link s
  | .multicastDone slate frame => Sys2Proof.Machine.execMulticastDone slate frame s
  | .lookupWaitRelease slate frame => Sys2Proof.Machine.execLookupWaitRelease slate frame s
  | .swb slate v => Sys2Proof.Machine.execSwb slate v s
  | .swbDone slate => Sys2Proof.Machine.execSwbDone slate s
  | .fillWindowExpiry ordinal => Sys2Proof.Machine.execFillWindowExpiry ordinal s
  | .leadHandover kind => Sys2Proof.Machine.execLeadHandover kind s
  | .coursePour ordinal => Sys2Proof.Machine.execCoursePour ordinal s
  | .stripWriteDone ordinal pos => Sys2Proof.Machine.execStripWriteDone ordinal pos s
  | .stripWriteFail ordinal pos => Sys2Proof.Machine.execStripWriteFail ordinal pos s
  | .courseDurable ordinal => Sys2Proof.Machine.execCourseDurable ordinal s
  | .courseRelease ordinal => Sys2Proof.Machine.execCourseRelease ordinal s
  | .holderAck owner holder seq => Sys2Proof.Machine.execHolderAck owner holder seq s
  | .holderTimeout owner holder => Sys2Proof.Machine.execHolderTimeout owner holder s
  | .logLineFree owner => Sys2Proof.Machine.execLogLineFree owner s
  | .leafWriteback volume leaf => Sys2Proof.Machine.execLeafWriteback volume leaf s
  | .resync trusted => Sys2Proof.Machine.execResync trusted s
  | .memberLinkLoss m => Sys2Proof.Machine.execMemberLinkLoss m s
  | .cstsPoll m cfs => Sys2Proof.Machine.execCstsPoll m cfs s
  | .cmdTimeout m cmd => Sys2Proof.Machine.execCmdTimeout m cmd s
  | .abortGraceExpiry m cmd => Sys2Proof.Machine.execAbortGraceExpiry m cmd s
  | .readyMaxExpiry m => Sys2Proof.Machine.execReadyMaxExpiry m s
  | .nvmeCompletion m cmd r => Sys2Proof.Machine.execNvmeCompletion m cmd r s
  | .driveInsert m d => Sys2Proof.Machine.execDriveInsert m d s
  | .holdOut m v => Sys2Proof.Machine.execHoldOut m v s
  | .rebuildStart m => Sys2Proof.Machine.execRebuildStart m s
  | .rebuildCourse slate share ordinal => Sys2Proof.Machine.execRebuildCourse slate share ordinal s
  | .copyBackStrip m => Sys2Proof.Machine.execCopyBackStrip m s
  | .memberQuorum => Sys2Proof.Machine.execMemberQuorum s
  | .quorumWaitExpiry => Sys2Proof.Machine.execQuorumWaitExpiry s
  | .quorumForce slate v => Sys2Proof.Machine.execQuorumForce slate v s
  | .lostClr slate v => Sys2Proof.Machine.execLostClr slate v s
  | .heartbeatSend slate => Sys2Proof.Machine.execHeartbeatSend slate s
  | .heartbeatRx slate h => Sys2Proof.Machine.execHeartbeatRx slate h s
  | .partnerLost => Sys2Proof.Machine.execPartnerLost s
  | .renewalRound => Sys2Proof.Machine.execRenewalRound s
  | .roundComplete answers => Sys2Proof.Machine.execRoundComplete answers s
  | .leaseExpiry => Sys2Proof.Machine.execLeaseExpiry s
  | .witnessPoll views answers => Sys2Proof.Machine.execWitnessPoll views answers s
  | .acquireRetry views answers => Sys2Proof.Machine.execAcquireRetry views answers s
  | .leaseRelease v => Sys2Proof.Machine.execLeaseRelease v s
  | .degRelRelease => Sys2Proof.Machine.execDegRelRelease s
  | .witnessChange v => Sys2Proof.Machine.execWitnessChange v s
  | .exclRound => Sys2Proof.Machine.execExclRound s
  | .helloSend => Sys2Proof.Machine.execHelloSend s
  | .hello up h => Sys2Proof.Machine.execHello up h s
  | .chainPartnerTimeout up => Sys2Proof.Machine.execChainPartnerTimeout up s
  | .change => Sys2Proof.Machine.execChange s
  | .enumStart => Sys2Proof.Machine.execEnumStart s
  | .enumPeriodic => Sys2Proof.Machine.execEnumPeriodic s
  | .census c => Sys2Proof.Machine.execCensus c s
  | .tally c => Sys2Proof.Machine.execTally c s
  | .assign c => Sys2Proof.Machine.execAssign c s
  | .chainAssign v => Sys2Proof.Machine.execChainAssign v s
  | .enumNow v => Sys2Proof.Machine.execEnumNow v s
  | .detectorOccurrence slate space src detail => Sys2Proof.Machine.execDetectorOccurrence slate space src detail s
  | .injFire slate space inj => Sys2Proof.Machine.execInjFire slate space inj s
  | .coreSilent => Sys2Proof.Machine.execCoreSilent s
  | .faultPulseEnd => Sys2Proof.Machine.execFaultPulseEnd s
  | .faultHold v => Sys2Proof.Machine.execFaultHold v s
  | .shadowClose shadow ready => Sys2Proof.Machine.execShadowClose shadow ready s
  | .scDisable slate v => Sys2Proof.Machine.execScDisable slate v s
  | .scDrainDone slate => Sys2Proof.Machine.execScDrainDone slate s
  | .scEnable slate v => Sys2Proof.Machine.execScEnable slate v s
  | .engineCacheInvalidate slate v => Sys2Proof.Machine.execEngineCacheInvalidate slate v s
  | .wayRestore slate v => Sys2Proof.Machine.execWayRestore slate v s
  | .hbmScrub slate => Sys2Proof.Machine.execHbmScrub slate s
  | .counterSelect slate k v => Sys2Proof.Machine.execCounterSelect slate k v s
  | .ovfClr slate k v => Sys2Proof.Machine.execOvfClr slate k v s
  | .counterDump slate => Sys2Proof.Machine.execCounterDump slate s
  | .ringConsume slate sample v => Sys2Proof.Machine.execRingConsume slate sample v s
  | .sampleSelect t insn => Sys2Proof.Machine.execSampleSelect t insn s
  | .switchPeakClr slate v => Sys2Proof.Machine.execSwitchPeakClr slate v s
  | .supplyPeakClr v => Sys2Proof.Machine.execSupplyPeakClr v s
  | .supplyMeasure vinA vinB iin pin => Sys2Proof.Machine.execSupplyMeasure vinA vinB iin pin s
  | .keyWrite slate v => Sys2Proof.Machine.execKeyWrite slate v s
  | .keyLoad slate v => Sys2Proof.Machine.execKeyLoad slate v s
  | .keyInvalidate slate v => Sys2Proof.Machine.execKeyInvalidate slate v s
  | .queueRegister slate v => Sys2Proof.Machine.execQueueRegister slate v s
  | .queueDestroy slate v => Sys2Proof.Machine.execQueueDestroy slate v s
  | .queueReset slate v => Sys2Proof.Machine.execQueueReset slate v s
  | .windowDefine slate v => Sys2Proof.Machine.execWindowDefine slate v s
  | .windowReuse slate v => Sys2Proof.Machine.execWindowReuse slate v s
  | .windowDestroy slate v => Sys2Proof.Machine.execWindowDestroy slate v s
  | .attest v => Sys2Proof.Machine.execAttest v s
  | .cert v => Sys2Proof.Machine.execCert v s
  | .enrol v => Sys2Proof.Machine.execEnrol v s
  | .provision v => Sys2Proof.Machine.execProvision v s
  | .fwStage v => Sys2Proof.Machine.execFwStage v s
  | .fwCommit v => Sys2Proof.Machine.execFwCommit v s
  | .secureOpComplete o => Sys2Proof.Machine.execSecureOpComplete o s
  | .read job => Sys2Proof.Machine.execRead job s
  | .write job => Sys2Proof.Machine.execWrite job s
  | .atomicWrite job => Sys2Proof.Machine.execAtomicWrite job s
  | .compareAndWrite job => Sys2Proof.Machine.execCompareAndWrite job s
  | .deallocate job => Sys2Proof.Machine.execDeallocate job s
  | .flush job => Sys2Proof.Machine.execFlush job s
  | .volumeCreate job => Sys2Proof.Machine.execVolumeCreate job s
  | .volumeDelete job => Sys2Proof.Machine.execVolumeDelete job s
  | .volumeResize job => Sys2Proof.Machine.execVolumeResize job s
  | .volumeInfo job => Sys2Proof.Machine.execVolumeInfo job s
  | .volumeCutover volume => Sys2Proof.Machine.execVolumeCutover volume s
  | .sanitize call => Sys2Proof.Machine.execSanitize call s
  | .format job => Sys2Proof.Machine.execFormat job s
  | .adminStatus job => Sys2Proof.Machine.execAdminStatus job s
  | .powerState job => Sys2Proof.Machine.execPowerState job s
  | .psEntryDone => Sys2Proof.Machine.execPsEntryDone s
  | .programInstall job img => Sys2Proof.Machine.execProgramInstall job img s
  | .programRemove job => Sys2Proof.Machine.execProgramRemove job s
  | .programInfo job => Sys2Proof.Machine.execProgramInfo job s
  | .programCutover => Sys2Proof.Machine.execProgramCutover s
  | .ctlGet job => Sys2Proof.Machine.execCtlGet job s
  | .ctlSet job => Sys2Proof.Machine.execCtlSet job s
  | .ctlSwap job => Sys2Proof.Machine.execCtlSwap job s
  | .powerStart p => Sys2Proof.Machine.execPowerStart p s
  | .resetExit b' => Sys2Proof.Machine.execResetExit b' s
  | .replayDone copies => Sys2Proof.Machine.execReplayDone copies s
  | .perstRelease m => Sys2Proof.Machine.execPerstRelease m s
  | .pcycAssert lowUs => Sys2Proof.Machine.execPcycAssert lowUs s
  | .offTimeExpiry => Sys2Proof.Machine.execOffTimeExpiry s
  | .lastMateBreak => Sys2Proof.Machine.execLastMateBreak s
  | .supplyCollapse feedA feedB => Sys2Proof.Machine.execSupplyCollapse feedA feedB s
  | .thermalPoll diodes => Sys2Proof.Machine.execThermalPoll diodes s
  | .vcoLockLoss => Sys2Proof.Machine.execVcoLockLoss s
  | .vcoLossTimeout => Sys2Proof.Machine.execVcoLossTimeout s
  | .rotHorizonExpiry slate entry => Sys2Proof.Machine.execRotHorizonExpiry slate entry s
  | .windowAvailExpiry slate index => Sys2Proof.Machine.execWindowAvailExpiry slate index s
  | .gateListEntry slate => Sys2Proof.Machine.execGateListEntry slate s
  | .fabricLinkTrained slate link => Sys2Proof.Machine.execFabricLinkTrained slate link s
  | .partnerLaneError slate => Sys2Proof.Machine.execPartnerLaneError slate s
  | .controllerReady m => Sys2Proof.Machine.execControllerReady m s
  | .prsntDeassert m => Sys2Proof.Machine.execPrsntDeassert m s
  | .psExitDone => Sys2Proof.Machine.execPsExitDone s
  | .relDrainExpiry => Sys2Proof.Machine.execRelDrainExpiry s
  | .counterWrap slate k => Sys2Proof.Machine.execCounterWrap slate k s
  | .pauseRefresh slate => Sys2Proof.Machine.execPauseRefresh slate s

end Sys2Proof.Machine
end

