-- ==== Sys2Proof/Machine/Step.lean ====
section
/-! DEFINITION. One step: the command at the front of the queue, or, with none waiting, one nanosecond of the unit's own clock. -/

namespace Sys2Proof.Machine

/-! ### The clock (R14) -/

/-- What TB advances by in this nanosecond, and the correction still to slew: it slews by 1 ns in 10 000, which is the
100 ppm of R14. -/
def slewStep (s : State) : Nat × State :=
  if s.slew = 0 then (1, { s with slewPhase := 0 })
  else if s.slewPhase + 1 < 10000 then (1, { s with slewPhase := s.slewPhase + 1 })
  else if 0 < s.slew then (2, { s with slew := s.slew - 1, slewPhase := 0 })
  else (0, { s with slew := s.slew + 1, slewPhase := 0 })

/-- Every slate's TB advances. -/
def tbTick (s : State) : State :=
  let (d, s) := slewStep s
  { s with tb := (List.range s.n).foldl (fun tb sl => tabPut tb sl (BitVec.ofNat 64 (now s sl + d))) s.tb }

/-! ### State sources of the counters (R329, R331) -/

/-- CLK_S cycles in the nanosecond that ends at this TB: five in four nanoseconds.
DEDUCED (log entry 51). -/
def cyclesIn (t : Nat) : Nat := t * 5 / 4 - (t - 1) * 5 / 4

/-- Whether an append from a slate waits for a lead course (R169). -/
def appendWaits (s : State) (sl : Nat) : Bool :=
  s.leads.any fun p => p.2.waiting.any fun w => w.grains.any fun g => match g.job.bind (jobOf s) with
    | some j => j.slate == sl
    | none => false

/-- Whether a state source's condition holds on a slate (R331). -/
def sourceHolds (s : State) (sl src : Nat) : Bool :=
  match src with
  | 0x00 => true
  | 0x13 => !(tabGetD s.resumeQ sl []).isEmpty
  | 0x14 => decide (4096 ≤ parkUsed s sl)
  | 0x15 => pausing s sl != 0
  | 0x16 => pausedByPeer s sl != 0
  | _ => appendWaits s sl

/-- The state sources. -/
def stateSources : List Nat := [0x00, 0x13, 0x14, 0x15, 0x16, 0x17]

/-- What a state source adds to counter `k` in so many cycles: the cycles in level mode, an episode that begins in edge
mode. -/
def sourceAdds (s : State) (sl k src cycles : Nat) : Nat :=
  if !isF s sl (F.PERF.EN k) || getF s sl (F.PERF.SRC k) != src || !sourceHolds s sl src then 0
  else if !isF s sl (F.PERF.MODE k) then cycles
  else if tabGetD s.lastCount (sl * 32 + src) false then 0
  else 1

/-- The state sources of a slate present their values. -/
def sourceTick (s : State) (sl : Nat) : State :=
  let c := cyclesIn (now s sl)
  let adds := stateSources.flatMap fun src => (List.range 16).map fun k => (k, sourceAdds s sl k src c)
  let last := stateSources.foldl (fun t src => tabSet false t (sl * 32 + src) (sourceHolds s sl src)) s.lastCount
  adds.foldl (fun s x => if x.2 = 0 then s else addCounter s sl x.1 x.2) { s with lastCount := last }

/-! ### Work that goes on by itself -/

/-- What a slate does in a nanosecond whatever is commanded: its state sources count, its victim buffer drains a line, and
its copies issue what they can. -/
def slateTick (s : State) (sl : Nat) : State := copiesIssue (victimDrain (sourceTick s sl) sl) sl

/-- One nanosecond of a unit that runs; nothing moves while the module is off, in reset or without its clock. -/
def tick (s : State) : State :=
  if s.mod.power != .running || s.mod.vcoLost then s
  else
    let s := (servingSlates (tbTick s)).foldl slateTick (tbTick s)
    if serving s 0 then adminStep (reclaimStep s) else s

/-! ### The step -/

/-- Take the command at the front of the queue and run it on the state with the queue's rest; with none waiting, a
nanosecond passes.
DESIGN CHOICE (log entries 3, 4). -/
def step (s : State) : Host.Outcome State Fault Refusal :=
  match s.pending with
  | [] => .next (tick s)
  | c :: r => exec c { s with pending := r }

/-- `s` with the command a word spells at the front of its queue. -/
def State.withFetchWord (s : State) (nbits w : Nat) : State :=
  match Sys2Proof.decodeTableWord nbits w with
  | some c => { s with pending := c :: s.pending }
  | none => s

end Sys2Proof.Machine
end

