-- ==== Sys2Proof/Safety.lean ====
section
/-! DEFINITION. What counts as a safe run, in the terms the claims use: the unit's own invariants, and the conditions under
which an instruction issues and completes. -/

namespace Sys2Proof

open Machine

/-! ### Invariants -/

/-- The variant is one of the three (R2). -/
def Variant (s : State) : Prop := s.n = 2 ∨ s.n = 4 ∨ s.n = 8

/-- The memory's canonical form (R28): bytes in strictly rising address order, none of them zero. -/
abbrev Memory.wf (s : State) : Prop := tabWf 0 s.hbm = true

/-- The map's canonical form (R157): entries in strictly rising order, none of them zero. -/
abbrev MapWf (s : State) : Prop := tabWf 0 s.map = true

/-- Control-space storage is canonical (R6, R79). -/
abbrev CtlRising (s : State) : Prop := tabRising s.ctl = true

/-! ### Commands by where they act -/

/-- Whether a command acts on the supply, the clock or the reset of the whole module; every other one belongs to a slate. -/
def ofSequencer (c : Instr) : Bool :=
  match c with
  | .powerStart _ => true
  | .resetExit _ => true
  | .pcycAssert _ => true
  | .offTimeExpiry => true
  | .lastMateBreak => true
  | .supplyCollapse _ _ => true
  | .thermalPoll _ => true
  | .vcoLockLoss => true
  | .vcoLossTimeout => true
  | _ => false

/-- Whether a command is the arrival of a batten-chain frame, which passes a module whose bypass is closed (R302). -/
def ofChain (c : Instr) : Bool :=
  match c with
  | .hello _ _ => true
  | .change => true
  | .census _ => true
  | .tally _ => true
  | .assign _ => true
  | _ => false

/-- Whether a command may change a byte of device memory: it stores, it can complete a sampled instruction (R336) or dump counters, or it can write a control
register, take a slate out of service or restart the unit. Of every other command memory is no destination. -/
def touchesMemory (c : Instr) : Bool :=
  match c with
  | .stx .. | .aadd .. | .acas .. | .cset .. | .cswap .. | .jobResume .. | .hkRestart .. | .evwEventReturn ..
  | .evwTimeout .. | .command .. | .dataIn .. | .abort .. | .queueResetAbort .. | .contextFetchDone .. | .rmaRead ..
  | .rmaWrite .. | .rmaAadd .. | .rmaAcas .. | .rmaAcas128 .. | .rmaCopy .. | .rmaCopyWr .. | .copyChunkAnswer ..
  | .portReconfigure .. | .glInstall .. | .glDisable .. | .queueCreditReset .. | .policerReset .. | .fabricLinkDown ..
  | .swb .. | .holdOut .. | .quorumForce .. | .lostClr .. | .inboundBufferAlloc .. | .roundComplete .. | .leaseExpiry ..
  | .leaseRelease .. | .witnessChange .. | .chainAssign .. | .enumNow .. | .detectorOccurrence ..
  | .injFire .. | .faultHold .. | .scDisable .. | .scEnable .. | .engineCacheInvalidate .. | .wayRestore ..
  | .counterSelect .. | .ovfClr .. | .counterDump .. | .ringConsume .. | .switchPeakClr .. | .supplyPeakClr ..
  | .keyWrite .. | .keyLoad .. | .keyInvalidate .. | .queueRegister .. | .queueDestroy .. | .queueReset ..
  | .windowDefine .. | .windowReuse .. | .windowDestroy .. | .attest .. | .cert .. | .enrol .. | .provision ..
  | .fwStage .. | .fwCommit .. | .secureOpComplete .. | .sanitize .. | .ctlSet .. | .ctlSwap .. | .replayDone ..
  | .pcycAssert .. | .lastMateBreak .. | .supplyCollapse .. | .thermalPoll .. | .vcoLossTimeout .. | .relDrainExpiry .. => true
  | _ => false

/-! ### Issue (R20, R33, R49, R50) -/

/-- Job `id`, which is `j`, stands on thread `t` of a slate that serves, waits for nothing, has budget, and at its PC its program holds
a defined instruction of `len` words: it may begin that instruction (R20, R33, R50). -/
structure Issues (s : State) (t : Thread) (id : Nat) (j : Job) (len : Nat) : Prop where
  serves : serving s t.slate = true
  onThread : jobOn s t = some id
  job : jobOf s id = some j
  slate : j.slate = t.slate
  phase : j.phase = .running t.idx
  ready : j.ended = none ∧ j.wait = .none
  budget : isHk j = true ∨ j.budget ≠ 0
  pc : pcBad s j len = false
  opcode : opcodeBad s t j = false
  len : len = 1 ∨ len = 2

/-- The job once the instruction has begun: BUDGET has fallen on a job thread and EXECUTED has advanced (R33, R75). -/
def begun (j : Job) : Job := { j with budget := if isHk j then j.budget else j.budget - 1, executed := j.executed + 1 }

/-- No counter of slate `sl` is enabled and none of its instructions is sampled (R327, R336). -/
structure Uncounted (s : State) (sl : Nat) : Prop where
  counters : ∀ k < 16, isF s sl (F.PERF.EN k) = false
  sampling : isF s sl F.PERF.SAMP_EN = false
  tags : (samplingOf s sl).tags = []

/-- Command `c` answers a next state, of which `P` holds. -/
def Answers (c : Instr) (s : State) (P : State → Prop) : Prop := ∃ u, exec c s = .next u ∧ P u

/-- Command `c` answers a next state in which job `id` is `j'`. -/
def Leaves (c : Instr) (s : State) (id : Nat) (j' : Job) : Prop := ∃ t, exec c s = .next t ∧ jobOf t id = some j'

/-- Command `c` answers a next state in which job `id` has trapped with a status and result words of zero (R34). -/
def Traps (c : Instr) (s : State) (id : Nat) (st : Status) : Prop :=
  ∃ t j', exec c s = .next t ∧ jobOf t id = some j' ∧ j'.ended = some { resp := respOf st [0, 0, 0, 0], trap := true }

/-- Command `c` completes for job `id`, which was `j`: register `d` holds `r` (g0 stays zero), every other register is
unchanged, the flags are as given, PC has moved on by `len`, and the instruction has been counted. Nothing else of the job
has changed (R33, R49, R51, R52). -/
def Completes (c : Instr) (s : State) (id : Nat) (j : Job) (len : Nat) (d : Reg) (r : Word) (z n cy v : Bool) : Prop :=
  ∃ t j', exec c s = .next t ∧ jobOf t id = some j' ∧
    (∀ x, rd j' x = if x = 0 then 0 else if x = d then r else rd j x) ∧
    j' = { begun j with g := j'.g, z := z, n := n, c := cy, v := v, pc := j.pc + len }

/-! ### Library programs (R90 to R102) -/

/-- A job runs the library program of a slot on a thread of a slate that serves, and waits for nothing (R90). -/
structure RunsLib (s : State) (slot id : Nat) (j : Job) : Prop where
  unit : serving s 0 = true
  job : jobOf s id = some j
  slot : j.slot = slot
  issue : canIssue j = true
  thread : onAThread j = true
  slate : serving s j.slate = true

/-- Command `c` ends job `id` with a status and these result words, the others zero, and `P` holds (R90). -/
def EndsLib (c : Instr) (s : State) (id : Nat) (st : Status) (words : List Word) (P : State → Prop) : Prop :=
  ∃ u j', exec c s = .next u ∧ jobOf u id = some j' ∧ j'.ended = some { resp := respOf st (words4 words), trap := false } ∧ P u

/-- Command `c` leaves job `id` waiting for `w`, to go on with `k`, and `P` holds. -/
def WaitsLib (c : Instr) (s : State) (id : Nat) (w : Wait) (k : OnWake) (P : State → Prop) : Prop :=
  ∃ u j', exec c s = .next u ∧ jobOf u id = some j' ∧ j'.ended = none ∧ j'.wait = w ∧ j'.onWake = k ∧ P u

/-! ### Events and detectors (R38, R84) -/

/-- An event stands pending on a slate. -/
def Pending (u : State) (sl e : Nat) : Prop := isF u sl (fPend e) = true

/-- The STAT bit of a detector's real occurrences is 1. -/
def Detected (u : State) (sl e : Nat) : Prop := bitOf (getF u sl (F.STAT_REAL (e / 64))) (e % 64) = true

/-- Counter field `f` of slate `sl` has advanced by one, wrapping at its width. -/
def Counted (s u : State) (sl : Nat) (f : Fld) : Prop := getF u sl f = (getF s sl f + 1) % 2 ^ f.w

/-! ### Datagrams (R104 to R124) -/

/-- Slate `sl` can send on class `cls`: it serves, its network port has link, its peer has not paused the class for too long, and
no key of it is near the end of its sequence (R114, R235). -/
structure CanSend (s : State) (sl cls : Nat) : Prop where
  serves : serving s sl = true
  link : ∃ k < 8, bitOf (getF s sl F.PORT.LINK_UP) k = true
  pause : ∀ p, tabGet s.peerPause (sl * 8 + cls) = some p → p.raised = false
  keys : ∀ i, tabGetD s.keySeq (keyKey sl i) 0 + 1 < 2 ^ 48

/-- The first frame that `u` holds beyond those of `s` carries a datagram of which `P` holds. -/
def Sends (s u : State) (P : OutDatagram → Prop) : Prop :=
  ∃ f x, tabGet u.frames s.nextFrame = some f ∧ f.dgram = some x ∧ P x

/-- A datagram is addressed to this unit, at its ingress slate's address and UDP port, and proved under key `k` of that slate
(R104, R108). -/
structure Proved (s : State) (d : Datagram) (k : KeyEntry) : Prop where
  serves : serving s d.port = true
  port : d.udpPort = getF s d.port F.XPORT.UDP_PORT ∧ answersTo s d.port d.ipv4 d.dest = true
  here : s.chain.uaValid = true ∧ d.dstUa = s.chain.ua
  key : keyOf s d.port (keyIndex d.keyId) = some k
  mode : d.flags.getLsbD 0 = keySeals k
  check : k.mode = 0 → d.check = k.check
  sealed : keySeals k = true → authentic k d = true

/-- A datagram of a command class, proved in its key's generation, reaches its own queue `q`, resident at a slate that serves, with no other waiting for it
(R108, R133, R136). -/
structure Reaches (s : State) (d : Datagram) (k : KeyEntry) (q : Queue) : Prop where
  proved : Proved s d k
  gen : d.keyId.toNat / 256 % 256 = k.gen.toNat
  cls : d.cls = 7 ∨ (d.cls = 3 ∧ servesIo s = true)
  bind : k.window = false ∧ k.bind = dgNumber d
  queue : queueAt s (dgNumber d) = some q
  host : q.host = d.host
  home : serving s (hqSlate (dgNumber d)) = true
  resident : q.resident = true
  alone : parkedFor s (dgNumber d) = false ∧ ∀ p ∈ tabGetD s.heldDg (hqSlate (dgNumber d)) [], p.hq ≠ dgNumber d

end Sys2Proof
end

