-- ==== Sys2Proof/WellFormed.lean ====
section
/-! DEFINITION. Which commands are well formed: each operand lies in the range the manual gives it, so that the agent,
port, class, queue or frame it names can exist. -/

namespace Sys2Proof.WellFormed

/-- A slate index (R2). -/
def slate (n : Nat) : Bool := decide (n < 8)

/-- A thread of a slate: 48 engines of 4 threads (R19). -/
def thread (t : Thread) : Bool := slate t.slate && decide (t.idx < 192)

/-- A member number (R15). -/
def member (m : Nat) : Bool := decide (m < 48)

/-- A class (R124, R225). -/
def cls (c : Nat) : Bool := decide (c < 8)

/-- A switch-core port (R223). -/
def port (p : Nat) : Bool := decide (p < 15)

/-- A sub-port of a network port (R9, R130). -/
def subPort (k : Nat) : Bool := decide (k < 8)

/-- A host queue number (R132). -/
def hq (q : Nat) : Bool := decide (q < 2 ^ 20)

/-- A tag of a queue (R132). -/
def tag (t : Nat) : Bool := decide (t < 32)

/-- A housekeeping thread (R19, R37). -/
def hkThread (k : Nat) : Bool := decide (k < 8)

/-- A performance counter (R329). -/
def counter (k : Nat) : Bool := decide (k < 16)

/-- A fabric link (R12). -/
def link (l : Nat) : Bool := decide (l < 4)

/-- An event number (R38). -/
def event (e : Nat) : Bool := decide (e < 2048)

/-- A control space (R79). -/
def space (p : Nat) : Bool := decide (p < 0x13)

/-- A detector of a space (R84). -/
def detector (k : Nat) : Bool := decide (k < 32)

/-- A course ordinal (R155). -/
def ordinal (o : Nat) : Bool := decide (o < 2 ^ 39)

/-- A volume number (R95). -/
def volume (v : Nat) : Bool := decide (v < 4096)

/-- A window index of a slate (R259). -/
def window (w : Nat) : Bool := decide (w < 8192)

/-- One of the three leads (R169): 0 data, 1 reclaim, 2 map. -/
def lead (k : Nat) : Bool := decide (k < 3)

/-- A received datagram of a row's type, or of a type that no sender sends to the unit (R107): its port, class and a payload no
longer than a UDP datagram carries. -/
def datagram (type : BitVec 4) (d : Datagram) : Bool :=
  slate d.port && cls d.cls && (d.type == type || !([1, 2, 4, 5, 6, 8].contains d.type)) &&
    decide (d.payload.length + d.tag.length ≤ 65535)

/-- A frame: its slate, ports, class marking and size (R223, R225). -/
def frame (f : FrameIn) : Bool :=
  slate f.slate && port f.port && subPort f.sub && cls f.pcp && decide (f.dscp < 64) && decide (f.bytes ≤ 9238) &&
    decide (f.kind < 6) && slate f.dst && port f.dstPort && subPort f.dstSub && decide (f.copies < 256) && slate f.home &&
    (10 ≤ f.port && f.port ≤ 13 || f.home == f.slate && f.entry == f.port && f.path.isEmpty) && port f.entry && decide (f.lane < 2)

/-- A heartbeat: a bay, a role and a slate mask (R287). -/
def heartbeat (h : Heartbeat) : Bool := decide (h.bay < 2) && decide (h.role < 4) && decide (h.slates < 256)

/-- A drive: a link it can train and a capacity the field holds (R184). -/
def drive (d : Drive) : Bool := decide (d.strips < 2 ^ 40) && decide (d.speed < 8) && decide (d.width < 5) && decide (d.zs < 2 ^ 40) &&
  decide (d.zoneRes < 2 ^ 32) && decide (d.sanCap < 16)

/-- A HELLO body (R303). -/
def hello (h : HelloBody) : Bool := decide (h.bay < 2) && decide (h.mac < 2 ^ 48)

/-- Pairs of a member and something, each naming a member (R15). -/
def byMember {α : Type} (l : List (Nat × α)) : Bool := l.all fun p => member p.1

/-- A copy read at recovery: an owner, and its holder by its place in the list of R191. -/
def journalCopy (c : JournalCopy) : Bool := slate c.owner && decide (1 ≤ c.holder) && decide (c.holder ≤ 5)

/-- A TALLY or CENSUS shelf count (R303). -/
def shelves (n : Nat) : Bool := decide (n < 128)

end Sys2Proof.WellFormed

namespace Sys2Proof

/-- Whether a command is well formed. -/
def Instr.wellFormed : Instr → Bool
  | .add o => WellFormed.thread o.t
  | .sub o => WellFormed.thread o.t
  | .mul o => WellFormed.thread o.t
  | .mulh o => WellFormed.thread o.t
  | .mulhu o => WellFormed.thread o.t
  | .and o => WellFormed.thread o.t
  | .or o => WellFormed.thread o.t
  | .xor o => WellFormed.thread o.t
  | .shl o => WellFormed.thread o.t
  | .shr o => WellFormed.thread o.t
  | .sar o => WellFormed.thread o.t
  | .cmp o => WellFormed.thread o.t
  | .b o => WellFormed.thread o.t
  | .bcc o => WellFormed.thread o.t
  | .call o => WellFormed.thread o.t
  | .ret o => WellFormed.thread o.t
  | .ldb o => WellFormed.thread o.t
  | .ldh o => WellFormed.thread o.t
  | .ldw o => WellFormed.thread o.t
  | .ldd o => WellFormed.thread o.t
  | .stb o => WellFormed.thread o.t
  | .sth o => WellFormed.thread o.t
  | .stw o => WellFormed.thread o.t
  | .std o => WellFormed.thread o.t
  | .ldx o => WellFormed.thread o.t
  | .stx o => WellFormed.thread o.t
  | .aadd o => WellFormed.thread o.t
  | .acas o => WellFormed.thread o.t
  | .bget o => WellFormed.thread o.t
  | .bput o => WellFormed.thread o.t
  | .hsub o => WellFormed.thread o.t
  | .hlen o => WellFormed.thread o.t
  | .hnew o => WellFormed.thread o.t
  | .recv o => WellFormed.thread o.t
  | .send o => WellFormed.thread o.t
  | .dsub o => WellFormed.thread o.t
  | .crd o => WellFormed.thread o.t
  | .dwait o => WellFormed.thread o.t
  | .capp o => WellFormed.thread o.t
  | .mget o => WellFormed.thread o.t
  | .mset o => WellFormed.thread o.t
  | .haz o => WellFormed.thread o.t
  | .hrel o => WellFormed.thread o.t
  | .shka o => WellFormed.thread o.t
  | .shks o => WellFormed.thread o.t
  | .evw o => WellFormed.thread o.t
  | .evs o => WellFormed.thread o.t
  | .cget o => WellFormed.thread o.t
  | .cset o => WellFormed.thread o.t
  | .cswap o => WellFormed.thread o.t
  | .pmc o => WellFormed.thread o.t
  | .gets o => WellFormed.thread o.t
  | .yield o => WellFormed.thread o.t
  | .done o => WellFormed.thread o.t
  | .fail o => WellFormed.thread o.t
  | .trap o => WellFormed.thread o.t
  | .budgetExhausted t => WellFormed.thread t
  | .jobResume _ => true
  | .threadTakeWork slate => WellFormed.slate slate
  | .commandDispatch hq tag => WellFormed.hq hq && WellFormed.tag tag
  | .jobEnded _ => true
  | .hkTrapRestart slate n => WellFormed.slate slate && WellFormed.hkThread n
  | .hkRestart slate n _ => WellFormed.slate slate && WellFormed.hkThread n
  | .evwEventReturn slate n => WellFormed.slate slate && WellFormed.hkThread n
  | .evwTimeout _ => true
  | .eventLaunch slate event => WellFormed.slate slate && WellFormed.event event
  | .command d => WellFormed.datagram 1 d
  | .dataIn d => WellFormed.datagram 2 d
  | .abort d => WellFormed.datagram 6 d
  | .queueResetAbort d => WellFormed.datagram 6 d
  | .contextFetchDone hq => WellFormed.hq hq
  | .parkPauseRelease slate => WellFormed.slate slate
  | .inboundBufferAlloc slate => WellFormed.slate slate
  | .rmaRead d => WellFormed.datagram 4 d
  | .rmaWrite d => WellFormed.datagram 4 d
  | .rmaAadd d => WellFormed.datagram 4 d
  | .rmaAcas d => WellFormed.datagram 4 d
  | .rmaAcas128 d => WellFormed.datagram 4 d
  | .rmaCopy d => WellFormed.datagram 4 d
  | .rmaCopyWr d => WellFormed.datagram 4 d
  | .copyChunkAnswer slate _ _ _ => WellFormed.slate slate
  | .copyChunkResend slate _ _ => WellFormed.slate slate
  | .copyChunkTimeout slate _ _ => WellFormed.slate slate
  | .readyRepeat => true
  | .portTrained slate sub' => WellFormed.slate slate && WellFormed.subPort sub'
  | .pauseTimeout => true
  | .pfcPauseRx slate cls _ => WellFormed.slate slate && WellFormed.cls cls
  | .linkDown slate sub' => WellFormed.slate slate && WellFormed.subPort sub'
  | .portReconfigure slate _ => WellFormed.slate slate
  | .ptpSync slate sync => WellFormed.slate slate && decide (sync.domain < 256) && decide (sync.transport < 3)
  | .ptpLoss => true
  | .frameArrival f => WellFormed.frame f
  | .outputSelect slate port sub' => WellFormed.slate slate && WellFormed.port port && WellFormed.subPort sub'
  | .wheelSlot slate port sub' => WellFormed.slate slate && WellFormed.port port && WellFormed.subPort sub'
  | .gateTakeover slate => WellFormed.slate slate
  | .glInstall slate _ => WellFormed.slate slate
  | .glDisable slate _ => WellFormed.slate slate
  | .queueCreditReset slate port cls _ => WellFormed.slate slate && WellFormed.port port && WellFormed.cls cls
  | .policerReset slate cls _ => WellFormed.slate slate && WellFormed.cls cls
  | .peerPauseExpiry slate cls => WellFormed.slate slate && WellFormed.cls cls
  | .fabricLinkError slate link => WellFormed.slate slate && WellFormed.link link
  | .fabricLinkDown slate link => WellFormed.slate slate && WellFormed.link link
  | .multicastDone slate _ => WellFormed.slate slate
  | .lookupWaitRelease slate _ => WellFormed.slate slate
  | .swb slate _ => WellFormed.slate slate
  | .swbDone slate => WellFormed.slate slate
  | .fillWindowExpiry ordinal => WellFormed.ordinal ordinal
  | .leadHandover kind => WellFormed.lead kind
  | .coursePour ordinal => WellFormed.ordinal ordinal
  | .stripWriteDone ordinal _ => WellFormed.ordinal ordinal
  | .stripWriteFail ordinal _ => WellFormed.ordinal ordinal
  | .courseDurable ordinal => WellFormed.ordinal ordinal
  | .courseRelease ordinal => WellFormed.ordinal ordinal
  | .holderAck owner _ _ => WellFormed.slate owner
  | .holderTimeout owner _ => WellFormed.slate owner
  | .logLineFree owner => WellFormed.slate owner
  | .leafWriteback volume _ => decide (volume < 0x1004)
  | .resync _ => true
  | .memberLinkLoss m => WellFormed.member m
  | .cstsPoll m _ => WellFormed.member m
  | .cmdTimeout m _ => WellFormed.member m
  | .abortGraceExpiry m _ => WellFormed.member m
  | .readyMaxExpiry m => WellFormed.member m
  | .nvmeCompletion m _ _ => WellFormed.member m
  | .driveInsert m d => WellFormed.member m && WellFormed.drive d
  | .holdOut m _ => WellFormed.member m
  | .rebuildStart m => WellFormed.member m
  | .rebuildCourse slate share ordinal => WellFormed.slate slate && WellFormed.slate share && WellFormed.ordinal ordinal
  | .copyBackStrip m => WellFormed.member m
  | .memberQuorum => true
  | .quorumWaitExpiry => true
  | .quorumForce slate _ => WellFormed.slate slate
  | .lostClr slate _ => WellFormed.slate slate
  | .heartbeatSend slate => WellFormed.slate slate
  | .heartbeatRx slate h => WellFormed.slate slate && WellFormed.heartbeat h
  | .partnerLost => true
  | .renewalRound => true
  | .roundComplete answers => WellFormed.byMember answers
  | .leaseExpiry => true
  | .witnessPoll views answers => (views.all fun x => WellFormed.member x.member) && WellFormed.byMember answers
  | .acquireRetry views answers => (views.all fun x => WellFormed.member x.member) && WellFormed.byMember answers
  | .leaseRelease _ => true
  | .degRelRelease => true
  | .witnessChange _ => true
  | .exclRound => true
  | .helloSend => true
  | .hello _ h => WellFormed.hello h
  | .chainPartnerTimeout _ => true
  | .change => true
  | .enumStart => true
  | .enumPeriodic => true
  | .census c => WellFormed.shelves c.shelves
  | .tally c => WellFormed.shelves c.shelves
  | .assign _ => true
  | .chainAssign _ => true
  | .enumNow _ => true
  | .detectorOccurrence slate space src _ => WellFormed.slate slate && WellFormed.space space && WellFormed.detector src
  | .injFire slate space _ => WellFormed.slate slate && WellFormed.space space
  | .coreSilent => true
  | .faultPulseEnd => true
  | .faultHold _ => true
  | .shadowClose _ _ => true
  | .scDisable slate _ => WellFormed.slate slate
  | .scDrainDone slate => WellFormed.slate slate
  | .scEnable slate _ => WellFormed.slate slate
  | .engineCacheInvalidate slate _ => WellFormed.slate slate
  | .wayRestore slate _ => WellFormed.slate slate
  | .hbmScrub slate => WellFormed.slate slate
  | .counterSelect slate k _ => WellFormed.slate slate && WellFormed.counter k
  | .ovfClr slate k _ => WellFormed.slate slate && WellFormed.counter k
  | .counterDump slate => WellFormed.slate slate
  | .ringConsume slate _ _ => WellFormed.slate slate
  | .sampleSelect t _ => WellFormed.thread t
  | .switchPeakClr slate _ => WellFormed.slate slate
  | .supplyPeakClr _ => true
  | .supplyMeasure _ _ _ _ => true
  | .keyWrite slate _ => WellFormed.slate slate
  | .keyLoad slate _ => WellFormed.slate slate
  | .keyInvalidate slate _ => WellFormed.slate slate
  | .queueRegister slate _ => WellFormed.slate slate
  | .queueDestroy slate _ => WellFormed.slate slate
  | .queueReset slate _ => WellFormed.slate slate
  | .windowDefine slate _ => WellFormed.slate slate
  | .windowReuse slate _ => WellFormed.slate slate
  | .windowDestroy slate _ => WellFormed.slate slate
  | .attest _ => true
  | .cert _ => true
  | .enrol _ => true
  | .provision _ => true
  | .fwStage _ => true
  | .fwCommit _ => true
  | .secureOpComplete _ => true
  | .read _ => true
  | .write _ => true
  | .atomicWrite _ => true
  | .compareAndWrite _ => true
  | .deallocate _ => true
  | .flush _ => true
  | .volumeCreate _ => true
  | .volumeDelete _ => true
  | .volumeResize _ => true
  | .volumeInfo _ => true
  | .volumeCutover volume => WellFormed.volume volume
  | .sanitize _ => true
  | .format _ => true
  | .adminStatus _ => true
  | .powerState _ => true
  | .psEntryDone => true
  | .programInstall _ _ => true
  | .programRemove _ => true
  | .programInfo _ => true
  | .programCutover => true
  | .ctlGet _ => true
  | .ctlSet _ => true
  | .ctlSwap _ => true
  | .powerStart _ => true
  | .resetExit _ => true
  | .replayDone copies => copies.all WellFormed.journalCopy
  | .perstRelease m => WellFormed.member m
  | .pcycAssert _ => true
  | .offTimeExpiry => true
  | .lastMateBreak => true
  | .supplyCollapse _ _ => true
  | .thermalPoll diodes => (diodes.all fun x => WellFormed.slate x.slate)
  | .vcoLockLoss => true
  | .vcoLossTimeout => true
  | .rotHorizonExpiry slate _ => WellFormed.slate slate
  | .windowAvailExpiry slate index => WellFormed.slate slate && WellFormed.window index
  | .gateListEntry slate => WellFormed.slate slate
  | .fabricLinkTrained slate link => WellFormed.slate slate && WellFormed.link link
  | .partnerLaneError slate => WellFormed.slate slate
  | .controllerReady m => WellFormed.member m
  | .prsntDeassert m => WellFormed.member m
  | .psExitDone => true
  | .relDrainExpiry => true
  | .counterWrap slate k => WellFormed.slate slate && WellFormed.counter k
  | .pauseRefresh slate => WellFormed.slate slate

end Sys2Proof
end

