-- ==== Sys2Proof/Certificates/Slice0/Obligations.lean ====
section
/-! DEFINITION. The statements for the provers. -/

open Sys2Proof Sys2Proof.Machine

/-! ### Steps, queue and reset -/

/-- A step takes the command at the front of the queue and runs it with the queue's rest; on an empty queue a nanosecond passes. No word
spells a command, so `withFetchWord` changes nothing. -/
def Obligations.StepRunsFront : Prop :=
  (∀ (c : Instr) (r : List Instr) (s : State), step { s with pending := c :: r } = exec c { s with pending := r }) ∧
  (∀ s : State, s.pending = [] → step s = .next (tick s)) ∧
  (∀ (s : State) (n w : Nat), decodeTableWord n w = none ∧ s.withFetchWord n w = s)

/-- Every command completes, or names a slate the variant does not have (R2); none refuses. It leaves the waiting commands and the variant as they were.
On an SV8-8 a well-formed command completes. -/
def Obligations.EveryCommandAnswers : Prop :=
  ∀ (c : Instr) (s : State),
    (exec c s = .fault .noSuchSlate ∨ ∃ t, exec c s = .next t ∧ t.pending = s.pending ∧ t.n = s.n) ∧
    (s.n = 8 → c.wellFormed = true → ∃ t, exec c s = .next t)

/-- From every state of one of the three variants whose memory is in canonical form, a step gives such a state (R2, R28); the queue has
lost its front and gained nothing. -/
def Obligations.StepKeepsInvariant : Prop :=
  ∀ s t : State, Variant s → Memory.wf s → step s = .next t → Variant t ∧ Memory.wf t ∧ t.n = s.n ∧ t.pending = s.pending.tail

/-- While the module has no power, is in reset, or has lost its clock, nothing moves but its sequencer (R370, R373): every other command, and the passing of
time, leaves the state as it is, but that a closed bypass passes the frames of the batten chain (R302). -/
def Obligations.NothingMovesWithoutPower : Prop :=
  ∀ s : State, s.mod.power ≠ .running ∨ s.mod.vcoLost = true →
    (∀ c : Instr, ofSequencer c = false → ofChain c = false ∨ s.chain.bypass = false → exec c s = .fault .noSuchSlate ∨ exec c s = .next s) ∧ (s.pending = [] → step s = .next s)

/-- After a power cycle no slate runs, no job, queue or frame exists, memory reads zero, the batten chain is bypassed with no number and no address, and
the fields stand at their Reset column (R6, R28, R302). -/
def Obligations.ResetState : Prop :=
  let s := State.reset
  Variant s ∧ Memory.wf s ∧ MapWf s ∧ CtlRising s ∧ s.pending = [] ∧ (∀ sl, serving s sl = false) ∧ s.jobs = [] ∧ s.queues = [] ∧ s.frames = [] ∧
  (∀ a, tabGetD s.hbm a 0 = 0) ∧ (∀ sl, now s sl = 0) ∧
  s.chain.bypass = true ∧ s.chain.chain = 0x3FF ∧ s.chain.pos = none ∧ s.chain.uaValid = false ∧ s.lease.role = 0 ∧
  (∀ sl < 8, (∀ k < 8, getF s sl (F.ENGINE.HK_SLOT k) = 0xF8 + k ∧ getF s sl (F.ENGINE.HK_EN k) = 1) ∧
    getF s sl F.XPORT.PAUSE_MAX = 20 ∧ getF s sl F.XPORT.DUP_HORIZON = 500 ∧ getF s sl F.DRIVE.CMD_TIMEOUT = 500 ∧
    getF s sl F.SWITCH.PEER_PAUSE_MAX = 200 ∧ getF s sl F.MEM.SC_EN = 1) ∧
  getF s 0 F.LEASE.HB_MISS = 5 ∧ getF s 0 F.LEASE.REL_DRAIN = 100

/-- An Ortur instruction's words decode to it, with every operand at every value the encoding admits, and the words an instruction was decoded from are those it
encodes to (R47, R48, R54). -/
def Obligations.OrturDecodeEncode : Prop :=
  (∀ (i : Instr) (t : Thread) (w y : InsnWord) (x : Option InsnWord), encodeInsn i = some (w, x) → insnThread i = some t →
    decodeInsn t w (x.getD y) = some i) ∧
  (∀ (t : Thread) (w x : InsnWord) (i : Instr), decodeInsn t w x = some i →
    encodeInsn i = some (w, if fMajor w = 0x3F then some x else none) ∧ insnThread i = some t)
/-! ### Arithmetic and logic (R55) -/

/-- ADD, SUB and CMP: the result modulo 2^64; Z and N from it; C is the carry out, or no borrow; V says that the signed
result does not fit. In the immediate forms b is sign-extended; CMP writes no register (R55).
MUL, MULH and MULHU: the low half of the product, and the high half of the signed and of the unsigned product. MUL sets
C and V where the unsigned and the signed product do not fit; the others clear them (R55). -/
def Obligations.ArithmeticResult : Prop :=
  (∀ (s : State) (t : Thread) (id : Nat) (j : Job) (d a b : Reg) (src : Src),
     (Issues s t id j (srcLen src) → srcOk src = true →
       let x := rd j a
       let y := match src with | .reg b => rd j b | .imm (.short v) => v.signExtend 64 | .imm (.long _ v) => v.signExtend 64
       Completes (.add { t := t, d := d, a := a, src := src }) s id j (srcLen src) d (x + y) (x + y == 0) (x + y).msb
         (decide (2 ^ 64 ≤ x.toNat + y.toNat)) (decide ((x + y).toInt ≠ x.toInt + y.toInt)) ∧
       Completes (.cmp { t := t, d := 0, a := a, src := src }) s id j (srcLen src) 0 0 (x == y) (x - y).msb
         (decide (y.toNat ≤ x.toNat)) (decide ((x - y).toInt ≠ x.toInt - y.toInt))) ∧
     (Issues s t id j 1 →
       let x := rd j a
       let y := rd j b
       Completes (.sub { t := t, d := d, a := a, b := b }) s id j 1 d (x - y) (x == y) (x - y).msb
         (decide (y.toNat ≤ x.toNat)) (decide ((x - y).toInt ≠ x.toInt - y.toInt)))) ∧
  (∀ (s : State) (t : Thread) (id : Nat) (j : Job) (d a b : Reg), Issues s t id j 1 →
     let x := rd j a
     let y := rd j b
     let lo : Word := BitVec.ofNat 64 (x.toNat * y.toNat)
     let hi : Word := BitVec.ofInt 64 (x.toInt * y.toInt / 2 ^ 64)
     let hiU : Word := BitVec.ofNat 64 (x.toNat * y.toNat / 2 ^ 64)
     Completes (.mul { t := t, d := d, a := a, b := b }) s id j 1 d lo (lo == 0) lo.msb (decide (2 ^ 64 ≤ x.toNat * y.toNat))
       (decide (x.toInt * y.toInt < -(2 ^ 63) ∨ 2 ^ 63 ≤ x.toInt * y.toInt)) ∧
     Completes (.mulh { t := t, d := d, a := a, b := b }) s id j 1 d hi (hi == 0) hi.msb false false ∧
     Completes (.mulhu { t := t, d := d, a := a, b := b }) s id j 1 d hiU (hiU == 0) hiU.msb false false)

/-- AND, OR and XOR: in the immediate forms b is zero-extended; Z and N from the result, C and V cleared (R55).
SHL, SHR and SAR: the count is the low six bits of gB or of the immediate, whose other bits are reserved; C is the last
bit shifted out, and 0 for a count of 0; V is cleared (R55). -/
def Obligations.LogicAndShiftResult : Prop :=
  (∀ (s : State) (t : Thread) (id : Nat) (j : Job) (d a : Reg) (src : Src), Issues s t id j (srcLen src) → srcOk src = true →
     let x := rd j a
     let y := match src with | .reg b => rd j b | .imm (.short v) => v.setWidth 64 | .imm (.long _ v) => v.setWidth 64
     Completes (.and { t := t, d := d, a := a, src := src }) s id j (srcLen src) d (x &&& y) (x &&& y == 0) (x &&& y).msb false false ∧
     Completes (.or { t := t, d := d, a := a, src := src }) s id j (srcLen src) d (x ||| y) (x ||| y == 0) (x ||| y).msb false false ∧
     Completes (.xor { t := t, d := d, a := a, src := src }) s id j (srcLen src) d (x ^^^ y) (x == y) (x ^^^ y).msb false false) ∧
  (∀ (s : State) (t : Thread) (id : Nat) (j : Job) (d a : Reg) (cnt : Count), Issues s t id j 1 →
     (∀ v : BitVec 16, cnt = .imm v → v.toNat < 64) →
     let x := rd j a
     let k := match cnt with | .reg b => (rd j b).toNat % 64 | .imm v => v.toNat
     let l : Word := BitVec.ofNat 64 (x.toNat * 2 ^ k)
     let r : Word := BitVec.ofNat 64 (x.toNat / 2 ^ k)
     let q : Word := BitVec.ofInt 64 (x.toInt / 2 ^ k)
     Completes (.shl { t := t, d := d, a := a, cnt := cnt }) s id j 1 d l (l == 0) l.msb (decide (k ≠ 0) && x.getLsbD (64 - k)) false ∧
     Completes (.shr { t := t, d := d, a := a, cnt := cnt }) s id j 1 d r (r == 0) r.msb (decide (k ≠ 0) && x.getLsbD (k - 1)) false ∧
     Completes (.sar { t := t, d := d, a := a, cnt := cnt }) s id j 1 d q (q == 0) q.msb (decide (k ≠ 0) && x.getLsbD (k - 1)) false)

/-! ### Branches (R56, R57) -/

/-- The fourteen conditions of Bcc are taken as R56's table says, and after a comparison of `x` with `y`, as R55 sets the flags, they mean what it says; every other
code is an illegal field value.
B, Bcc, CALL and RET. Offsets count words from the PC, sign-extended in both forms. A target outside the program or on an
extension word traps with OUT_OF_RANGE, and is looked at only where control transfers; CALL leaves the next instruction's
address in g31; no flag changes (R49, R57). -/
def Obligations.BranchesAndConditions : Prop :=
  ((∀ j : Job, condTaken j 0x00 = j.z ∧ condTaken j 0x01 = !j.z ∧ condTaken j 0x02 = j.c ∧ condTaken j 0x03 = !j.c ∧
     condTaken j 0x04 = j.n ∧ condTaken j 0x05 = !j.n ∧ condTaken j 0x06 = j.v ∧ condTaken j 0x07 = !j.v ∧
     condTaken j 0x08 = (j.c && !j.z) ∧ condTaken j 0x09 = (!j.c || j.z) ∧ condTaken j 0x0A = (j.n == j.v) ∧
     condTaken j 0x0B = (j.n != j.v) ∧ condTaken j 0x0C = (!j.z && j.n == j.v) ∧ condTaken j 0x0D = (j.z || j.n != j.v)) ∧
   ∀ (j : Job) (x y : Word), j.z = (x == y) → j.n = (x - y).msb → j.c = decide (y.toNat ≤ x.toNat) →
     j.v = decide ((x - y).toInt ≠ x.toInt - y.toInt) →
     (condTaken j 0x00 = true ↔ x = y) ∧ (condTaken j 0x01 = true ↔ x ≠ y) ∧
     (condTaken j 0x02 = true ↔ y.toNat ≤ x.toNat) ∧ (condTaken j 0x03 = true ↔ x.toNat < y.toNat) ∧
     (condTaken j 0x08 = true ↔ y.toNat < x.toNat) ∧ (condTaken j 0x09 = true ↔ x.toNat ≤ y.toNat) ∧
     (condTaken j 0x0A = true ↔ y.toInt ≤ x.toInt) ∧ (condTaken j 0x0B = true ↔ x.toInt < y.toInt) ∧
     (condTaken j 0x0C = true ↔ y.toInt < x.toInt) ∧ (condTaken j 0x0D = true ↔ x.toInt ≤ y.toInt)) ∧
  (∀ (s : State) (t : Thread) (id : Nat) (j : Job) (off : Imm), Issues s t id j (immLen off) → immOk off = true →
     let o : Word := match off with | .short v => v.signExtend 64 | .long _ v => v.signExtend 64
     let w := (BitVec.ofNat 64 j.pc + o).toNat
     let len := immLen off
     let good (w : Nat) : Prop := w < progLen s j ∧ isExtWord s j w = false
     let b : Instr := .b { t := t, d := 0, a := 0, off := off }
     let call : Instr := .call { t := t, d := 0, a := 0, off := off }
     (good w → Leaves b s id { begun j with pc := w } ∧
       ∃ j', Leaves call s id j' ∧ j' = { begun j with pc := w, g := j'.g } ∧
         ∀ x, rd j' x = if x = 31 then BitVec.ofNat 64 (j.pc + len) else rd j x) ∧
     (¬ good w → Traps b s id St.outOfRange ∧ Traps call s id St.outOfRange) ∧
     (∀ c : Reg, c.toNat < 14 →
       let bcc : Instr := .bcc { t := t, d := c, a := 0, off := off }
       (condTaken j c = true → good w → Leaves bcc s id { begun j with pc := w }) ∧
       (condTaken j c = true → ¬ good w → Traps bcc s id St.outOfRange) ∧
       (condTaken j c = false → Leaves bcc s id { begun j with pc := j.pc + len })) ∧
     (∀ c : Reg, 14 ≤ c.toNat → Traps (.bcc { t := t, d := c, a := 0, off := off }) s id St.illegalField) ∧
     (len = 1 →
       let ret : Instr := .ret { t := t, d := 0, a := 0, b := 0, minor := 0 }
       let v := (rd j 31).toNat
       (good v → Leaves ret s id { begun j with pc := v }) ∧ (¬ good v → Traps ret s id St.outOfRange)))

/-! ### Scratch (R27, R30, R58) -/

/-- The eight scratch instructions address SCR at gA + sext(imm16). A range beyond 0xFFF traps with OUT_OF_RANGE and then a
misaligned address with ILLEGAL_FIELD; a load zero-extends little-endian bytes; a store writes the low bytes of gD there and
leaves every other byte of SCR as it was (R58). -/
def Obligations.ScratchEffect : Prop :=
  ∀ (s : State) (t : Thread) (id : Nat) (j : Job) (d a : Reg) (imm : BitVec 16), Issues s t id j 1 →
    let x := (rd j a + imm.signExtend 64).toNat
    let o : IForm := { t := t, d := d, a := a, imm := imm }
    ∀ size ∈ [1, 2, 4, 8],
      let load : Instr := if size = 1 then .ldb o else if size = 2 then .ldh o else if size = 4 then .ldw o else .ldd o
      let store : Instr := if size = 1 then .stb o else if size = 2 then .sth o else if size = 4 then .stw o else .std o
      (0x1000 < x + size → Traps load s id St.outOfRange ∧ Traps store s id St.outOfRange) ∧
      (x + size ≤ 0x1000 → x % size ≠ 0 → Traps load s id St.illegalField ∧ Traps store s id St.illegalField) ∧
      (x + size ≤ 0x1000 → x % size = 0 →
        Completes load s id j 1 d (BitVec.ofNat 64 (leNat (bytesOf j.scr x size))) j.z j.n j.c j.v ∧
        ∃ j', Leaves store s id j' ∧ j' = { begun j with pc := j.pc + 1, scr := j'.scr } ∧
          leNat (bytesOf j'.scr x size) = (rd j d).toNat % 256 ^ size ∧
          ∀ y, y < x ∨ x + size ≤ y → tabGetD j'.scr y 0 = tabGetD j.scr y 0)

/-! ### Device memory (R16, R28, R59, R283) -/

/-- LDX and STX at gA + gB, 1, 2, 4 or 8 bytes by minor[1:0]. The checks come in the order of R59: the address format of R16,
which AADD and ACAS keep to as well, the region of the job's privilege (R28), alignment. With no poison there a load brings the little-endian bytes and changes no
byte of memory; a store writes the low bytes of gD there and no other byte. -/
def Obligations.MemoryEffect : Prop :=
  ∀ (s : State) (t : Thread) (id : Nat) (j : Job) (d a b : Reg) (m : BitVec 11), Issues s t id j 1 → Uncounted s t.slate →
    m.toNat < 4 →
    let size := 2 ^ m.toNat
    let x := (rd j a + rd j b).toNat
    let home := x / 2 ^ 37 % 8
    let off := x % 2 ^ 37
    let valid : Prop := home < s.n ∧ off < 24 * 2 ^ 30 ∧ x < 2 ^ 40
    let region : Prop := if j.keep then off + size ≤ 0x5C0000000 else
      getF s home F.ENGINE.HEAP_BASE * 2 ^ 20 ≤ off ∧ off + size ≤ getF s home F.ENGINE.HEAP_LIMIT * 2 ^ 20
    let o : RForm := { t := t, d := d, a := a, b := b, minor := m }
    (¬ valid → Traps (.ldx o) s id St.outOfRange ∧ Traps (.stx o) s id St.outOfRange) ∧
    (s.n * 2 ^ 37 ≤ (rd j a).toNat ∨ 24 * 2 ^ 30 ≤ (rd j a).toNat % 2 ^ 37 →
      Traps (.aadd { t := t, d := d, a := a, b := b }) s id St.outOfRange ∧ Traps (.acas { t := t, d := d, a := a, b := b }) s id St.outOfRange) ∧
    (valid → ¬ region → Traps (.ldx o) s id St.bounds ∧ Traps (.stx o) s id St.bounds) ∧
    (valid → region → x % size ≠ 0 → Traps (.ldx o) s id St.illegalField ∧ Traps (.stx o) s id St.illegalField) ∧
    (valid → region → x % size = 0 → tabHas s.lost home = false → poisoned s x size = false →
      Completes (.ldx o) s id j 1 d (BitVec.ofNat 64 (leNat (hbmRead s x size))) j.z j.n j.c j.v ∧
      Leaves (.stx o) s id { begun j with pc := j.pc + 1 } ∧
      (∀ u, exec (.ldx o) s = .next u → ∀ y, hbmRead u y 1 = hbmRead s y 1) ∧
      (∀ u, exec (.stx o) s = .next u → leNat (hbmRead u x size) = (rd j d).toNat % 256 ^ size ∧
        ∀ y, y < x ∨ x + size ≤ y → hbmRead u y 1 = hbmRead s y 1))

/-- AADD and ACAS on the 8-byte word at gA: gD gets the word's old value; AADD stores old + gB; ACAS stores gB where the old
value equals gD, and Z says whether it did; no other byte changes (R60). -/
def Obligations.AtomicEffect : Prop :=
  ∀ (s : State) (t : Thread) (id : Nat) (j : Job) (d a b : Reg), Issues s t id j 1 → Uncounted s t.slate →
    let x := (rd j a).toNat
    let home := x / 2 ^ 37 % 8
    let off := x % 2 ^ 37
    let region : Prop := if j.keep then off + 8 ≤ 0x5C0000000 else
      getF s home F.ENGINE.HEAP_BASE * 2 ^ 20 ≤ off ∧ off + 8 ≤ getF s home F.ENGINE.HEAP_LIMIT * 2 ^ 20
    let o : R3 := { t := t, d := d, a := a, b := b }
    home < s.n → off < 24 * 2 ^ 30 → x < 2 ^ 40 → region → x % 8 = 0 → tabHas s.lost home = false → poisoned s x 8 = false →
    let old : Word := BitVec.ofNat 64 (leNat (hbmRead s x 8))
    let hit : Bool := old == rd j d
    Completes (.aadd o) s id j 1 d old j.z j.n j.c j.v ∧
    Completes (.acas o) s id j 1 d old hit j.n j.c j.v ∧
    (∀ u, exec (.aadd o) s = .next u → leNat (hbmRead u x 8) = (old + rd j b).toNat ∧
      ∀ y, y < x ∨ x + 8 ≤ y → hbmRead u y 1 = hbmRead s y 1) ∧
    (∀ u, exec (.acas o) s = .next u → leNat (hbmRead u x 8) = (if hit then (rd j b).toNat else old.toNat) ∧
      ∀ y, y < x ∨ x + 8 ≤ y → hbmRead u y 1 = hbmRead s y 1)

/-- Poisoned memory ends the job with MEDIA_UNRECOVERED: a load or an atomic of a poisoned word, and a store of less than
one; a store of the whole word does not consume it and leaves it poisoned no longer (R281, R283). -/
def Obligations.PoisonEffect : Prop :=
  ∀ (s : State) (t : Thread) (id : Nat) (j : Job) (d a b : Reg) (m : BitVec 11), Issues s t id j 1 → Uncounted s t.slate →
    j.keep = true → m.toNat < 4 →
    let size := 2 ^ m.toNat
    let x := (rd j a + rd j b).toNat
    let w := (rd j a).toNat
    let o : RForm := { t := t, d := d, a := a, b := b, minor := m }
    (x / 2 ^ 37 % 8 < s.n → x % 2 ^ 37 + size ≤ 0x5C0000000 → x < 2 ^ 40 → x % size = 0 → tabHas s.lost (x / 2 ^ 37 % 8) = false →
      poisoned s x size = true →
      Traps (.ldx o) s id St.mediaUnrecovered ∧
      (size < 8 → Traps (.stx o) s id St.mediaUnrecovered) ∧
      (size = 8 → (∀ p ∈ s.poison, p % 8 = 0) → ∃ u, exec (.stx o) s = .next u ∧ poisoned u x 8 = false)) ∧
    (w / 2 ^ 37 % 8 < s.n → w % 2 ^ 37 + 8 ≤ 0x5C0000000 → w < 2 ^ 40 → w % 8 = 0 → tabHas s.lost (w / 2 ^ 37 % 8) = false →
      poisoned s w 8 = true →
      Traps (.aadd { t := t, d := d, a := a, b := b }) s id St.mediaUnrecovered ∧
      Traps (.acas { t := t, d := d, a := a, b := b }) s id St.mediaUnrecovered)

/-! ### Buffers and handles (R29, R61, R62) -/

/-- BGET and BPUT through handle minor[4:2]: a null handle traps with ILLEGAL_FIELD, a range beyond the handle with BOUNDS, a
write through a read-only handle with RIGHTS, a misaligned buffer offset with ILLEGAL_FIELD, in that order; a load
zero-extends the buffer's bytes, a store writes them and no other byte of the buffer (R61).
HSUB makes a narrower handle, HLEN gives a handle's length, HNEW a new zeroed buffer or, past 16 MiB for the job, Z = 0 and
a null handle; a null source and a range beyond the handle trap, and so do a length of 0 and one above 8 MiB (R62). -/
def Obligations.BufferAndHandleEffect : Prop :=
  (∀ (s : State) (t : Thread) (id : Nat) (j : Job) (d a : Reg) (m : BitVec 11), Issues s t id j 1 → m.toNat < 32 →
     let size := 2 ^ (m.toNat % 4)
     let n := m.toNat / 4
     let x := (rd j a).toNat
     let o : RForm := { t := t, d := d, a := a, b := 0, minor := m }
     (tabGet j.h n = none → Traps (.bget o) s id St.illegalField ∧ Traps (.bput o) s id St.illegalField) ∧
     (∀ h, tabGet j.h n = some h →
       (h.len < x + size → Traps (.bget o) s id St.bounds ∧ Traps (.bput o) s id St.bounds) ∧
       (x + size ≤ h.len →
         (h.rw = false → Traps (.bput o) s id St.rights) ∧
         ((h.off + x) % size ≠ 0 → Traps (.bget o) s id St.illegalField ∧ (h.rw = true → Traps (.bput o) s id St.illegalField)) ∧
         ((h.off + x) % size = 0 →
           Completes (.bget o) s id j 1 d (BitVec.ofNat 64 (leNat (bufRead s h.buf (h.off + x) size))) j.z j.n j.c j.v ∧
           (h.rw = true → Leaves (.bput o) s id { begun j with pc := j.pc + 1 } ∧
             ∀ u, exec (.bput o) s = .next u → tabHas s.buffers h.buf = true →
               leNat (bufRead u h.buf (h.off + x) size) = (rd j d).toNat % 256 ^ size ∧
               (∀ y, y < h.off + x ∨ h.off + x + size ≤ y → bufRead u h.buf y 1 = bufRead s h.buf y 1) ∧
               ∀ b, b ≠ h.buf → tabGet u.buffers b = tabGet s.buffers b))))) ∧
  (∀ (s : State) (t : Thread) (id : Nat) (j : Job) (d a b : Reg) (low : BitVec 8), Issues s t id j 1 →
     let x := (rd j a).toNat
     let y := (rd j b).toNat
     (low.toNat < 16 → d.toNat < 8 →
       let sub : Instr := .hsub { t := t, d := d, a := a, b := b, low := low }
       (tabGet j.h (low.toNat % 8) = none → Traps sub s id St.illegalField) ∧
       (∀ h, tabGet j.h (low.toNat % 8) = some h →
         (h.len < x + y → Traps sub s id St.bounds) ∧
         (x + y ≤ h.len → Leaves sub s id { begun j with
           pc := j.pc + 1
           h := tabPut j.h d.toNat { h with off := h.off + x, len := y, rw := h.rw && decide (low.toNat < 8) } }))) ∧
     (low.toNat < 8 → Completes (.hlen { t := t, d := d, a := 0, b := 0, low := low }) s id j 1 d
       (BitVec.ofNat 64 (match tabGet j.h low.toNat with | some h => h.len | none => 0)) j.z j.n j.c j.v) ∧
     (d.toNat < 8 →
       let new : Instr := .hnew { t := t, d := d, a := a, b := 0, low := 0 }
       (x = 0 ∨ 8 * 2 ^ 20 < x → Traps new s id St.outOfRange) ∧
       (0 < x → x ≤ 8 * 2 ^ 20 →
         (16 * 2 ^ 20 < j.hnew + x → Leaves new s id { begun j with pc := j.pc + 1, h := tabDel j.h d.toNat, z := false }) ∧
         (j.hnew + x ≤ 16 * 2 ^ 20 →
           Leaves new s id { begun j with pc := j.pc + 1, h := tabDel j.h d.toNat, z := false } ∨
           ∃ u k, exec new s = .next u ∧
             tabGet u.buffers k = some { slate := j.slate, len := x, data := [], inbound := false, arrived := [] } ∧
             jobOf u id = some { begun j with
               pc := j.pc + 1, z := true, hnew := j.hnew + x, buffers := j.buffers ++ [k]
               h := tabPut j.h d.toNat { buf := k, off := 0, len := x, rw := true, origin := .other } }))))

/-! ### Payload (R25, R63) -/

/-- RECV goes on where the bytes have arrived or the handle does not come from h1, and else suspends the job until they have;
SEND of a handle that comes from h2 goes on once the transport has taken the bytes. A null handle, a range beyond the handle,
and for SEND another origin, trap (R63). -/
def Obligations.PayloadEffect : Prop :=
  ∀ (s : State) (t : Thread) (id : Nat) (j : Job) (a b : Reg) (m : BitVec 11), Issues s t id j 1 → m.toNat < 8 →
    let x := (rd j a).toNat
    let y := (rd j b).toNat
    let recv : Instr := .recv { t := t, d := 0, a := a, b := 0, minor := m }
    let send : Instr := .send { t := t, d := 0, a := a, b := b, minor := m }
    (tabGet j.h m.toNat = none → Traps recv s id St.illegalField ∧ Traps send s id St.illegalField) ∧
    (∀ h, tabGet j.h m.toNat = some h →
      (h.len < x → Traps recv s id St.bounds) ∧
      (x ≤ h.len → h.origin ≠ .h1 ∨ arrived s h.buf h.off (h.off + x) = true →
        Leaves recv s id { begun j with pc := j.pc + 1 }) ∧
      (x ≤ h.len → h.origin = .h1 → arrived s h.buf h.off (h.off + x) = false → isHk j = false →
        ∃ u j', exec recv s = .next u ∧ jobOf u id = some j' ∧ jobOn u t = none ∧
          j' = { begun j with
            pc := j.pc + 1, wait := .payload h.buf h.off (h.off + x), dst := 0, phase := .suspended, suspends := j.suspends + 1 }) ∧
      (h.origin ≠ .h2 → Traps send s id St.illegalField) ∧
      (h.origin = .h2 → h.len < x + y → Traps send s id St.bounds) ∧
      (h.origin = .h2 → x + y ≤ h.len → Leaves send s id { begun j with pc := j.pc + 1 }))

/-! ### Hashing (R70) -/

/-- Absorbing is a stream: two absorptions in turn are one of the bytes joined (R70: SHKA continues where the last one
stopped).
SHKA absorbs bytes of scratch or of a handle into the Keccak state at 0xF00, cleared first where CLR is set or the state is
squeezing; SHKS pads the first time, and gives the next 8 bytes, the state permuted where its position reaches 136. Both leave the
state and the control word in scratch, for a stored position below the rate. A scratch
range beyond 0xEFF, a null handle and a range beyond the handle trap (R70). -/
def Obligations.HashEffect : Prop :=
  (∀ (a : List Word) (p : Nat) (x y : List Byte),
     absorb a p (x ++ y) = absorb (absorb a p x).1 (absorb a p x).2 y) ∧
  (∀ (s : State) (t : Thread) (id : Nat) (j : Job) (d a b : Reg) (m : BitVec 11), Issues s t id j 1 →
     let x := (rd j a).toNat
     let y := (rd j b).toNat
     let shka : Instr := .shka { t := t, d := 0, a := a, b := b, minor := m }
     let fresh (scr : Tab Byte) : Tab Byte :=
       if m.toNat / 8 % 2 = 1 ∨ kecSqueezing scr = true then bytesPut scr 0xF00 (List.replicate 208 0) else scr
     let after (bytes : Block) : Job := { begun j with
       pc := j.pc + 1
       scr :=
         let r := absorb (kecLanes (fresh j.scr)) (leNat (bytesOf (fresh j.scr) 0xFC8 1)) bytes
         kecPut (fresh j.scr) r.1 r.2 false }
     (leNat (bytesOf (fresh j.scr) 0xFC8 1) < 136 →
       (m.toNat = 16 ∨ m.toNat = 24 →
         (0xF00 < x + y → Traps shka s id St.outOfRange) ∧ (x + y ≤ 0xF00 → Leaves shka s id (after (bytesOf j.scr x y)))) ∧
       (m.toNat < 16 →
         (tabGet j.h (m.toNat % 8) = none → Traps shka s id St.illegalField) ∧
         ∀ h, tabGet j.h (m.toNat % 8) = some h →
           (h.len < x + y → Traps shka s id St.bounds) ∧
           (x + y ≤ h.len → Leaves shka s id (after (bufRead s h.buf (h.off + x) y))))) ∧
     (leNat (bytesOf j.scr 0xFC8 1) < 136 →
       let p := leNat (bytesOf j.scr 0xFC8 1)
       let r : List Word × Nat := if kecSqueezing j.scr then (kecLanes j.scr, p) else (padShake (kecLanes j.scr) p, 0)
       let q : List Word × Nat := if r.2 + 8 < 136 then (r.1, r.2 + 8) else (keccakF r.1, r.2 + 8 - 136)
       ∃ j', Leaves (.shks { t := t, d := d, a := 0, b := 0, minor := 0 }) s id j' ∧
         (∀ z, rd j' z = if z = 0 then 0 else if z = d then
           BitVec.ofNat 64 (leNat ((List.range 8).map fun i =>
             if r.2 + i < 136 then stateByte r.1 (r.2 + i) else stateByte (keccakF r.1) (r.2 + i - 136))) else rd j z) ∧
         j' = { begun j with pc := j.pc + 1, g := j'.g, scr := kecPut j.scr q.1 q.2 true }))

/-! ### Drive commands, course reads and tickets (R64 to R66) -/

/-- DSUB of a Read at either privilege: with a writable handle of the command's own length, a member that is present and
reachable and a free ticket, it answers OK with the lowest free ticket, and the member has the command. A member number of 6
times the slates and above answers OUT_OF_RANGE, nonzero gB[63:6] ILLEGAL_FIELD, a member that is absent, gone or held out
MEMBER_GONE, and no free ticket BUSY_RETRY (R64).
DSUB at JOB privilege of anything but a Read that moves data, or of an ADMIN command, traps with RIGHTS; an image outside
scratch or misaligned traps with OUT_OF_RANGE; a null handle with ILLEGAL_FIELD (R64). -/
def Obligations.DriveSubmit : Prop :=
  (∀ (s : State) (t : Thread) (id : Nat) (j : Job) (d a b : Reg) (m : BitVec 11) (h : Handle), Issues s t id j 1 → Uncounted s t.slate →
     m.toNat < 8 → tabGet j.h m.toNat = some h → h.rw = true →
     let x := (rd j a).toNat
     let p := (rd j b).toNat
     let image := bytesOf j.scr x 64
     let o : RForm := { t := t, d := d, a := a, b := b, minor := m }
     let answers (st : Status) : Prop := Completes (.dsub o) s id j 1 d (st.setWidth 64) (st == 0) j.n j.c j.v
     x ≤ 0xFC0 → x % 64 = 0 → byteAt image 0 = 2 →
     (64 ≤ p → answers St.illegalField) ∧
     (p < 64 → 6 * s.n ≤ p → answers St.outOfRange) ∧
     (p < 64 → p < 6 * s.n →
       let y := memberOf s p
       let present : Prop := y.mstate ≠ 0 ∧ y.mstate ≠ 3 ∧ y.mstate ≠ 4 ∧ hasPath s p = true
       (¬ present → answers St.memberGone) ∧
       (present →
         ((leNat (blockSlice image 48 2) + 1) * 4096 ≠ h.len → answers St.illegalField) ∧
         ((leNat (blockSlice image 48 2) + 1) * 4096 = h.len →
           (tabFree j.tickets 0 64 = none → answers St.busyRetry) ∧
           (∀ k, tabFree j.tickets 0 64 = some k → isF s 0 F.FPIN.C4 = false →
             ∃ u j' tk, exec (.dsub o) s = .next u ∧ jobOf u id = some j' ∧
               (∀ r, rd j' r = if r = 0 then 0 else if r = d then BitVec.ofNat 64 (k * 65536) else rd j r) ∧
               j' = { begun j with g := j'.g, z := true, pc := j.pc + 1, tickets := tabPut j.tickets k tk } ∧
               tk.member = p ∧ tk.result = none ∧
               ∃ c, tabGet (memberOf u p).cmds s.nextCmd = some c ∧ c.opcode = 2 ∧ c.lba = leNat (blockSlice image 40 8) ∧
                 c.use = .ticket id k))))) ∧
  (∀ (s : State) (t : Thread) (id : Nat) (j : Job) (d a b : Reg) (m : BitVec 11), Issues s t id j 1 → m.toNat < 32 →
     let x := (rd j a).toNat
     let dsub : Instr := .dsub { t := t, d := d, a := a, b := b, minor := m }
     let admin : Prop := 16 ≤ m.toNat
     let nodata : Prop := m.toNat / 8 % 2 = 1
     (admin → j.keep = false → Traps dsub s id St.rights) ∧
     ((admin → j.keep = true) → 0xFC0 < x ∨ x % 64 ≠ 0 → Traps dsub s id St.outOfRange) ∧
     (¬ admin → j.keep = false → x ≤ 0xFC0 → x % 64 = 0 → tabGetD j.scr x 0 ≠ 2 ∨ nodata → Traps dsub s id St.rights) ∧
     ((admin → j.keep = true) → x ≤ 0xFC0 → x % 64 = 0 → (j.keep = false → tabGetD j.scr x 0 = 2) → ¬ nodata →
       tabGet j.h (m.toNat % 8) = none → Traps dsub s id St.illegalField))

/-- CRD answers OK with the lowest free ticket for data grains of one DURABLE course, through a writable handle that can hold
them; its operand checks trap or return as R65 orders them.
DWAIT: a ticket that is not outstanding, or other bits of gA, return ILLEGAL_FIELD; a command that has completed gives its
result word and frees the ticket, and Z says whether its status is OK; an outstanding one suspends the job (R66). -/
def Obligations.CourseReadAndWait : Prop :=
  (∀ (s : State) (t : Thread) (id : Nat) (j : Job) (d a b : Reg) (m : BitVec 11), Issues s t id j 1 → Uncounted s t.slate →
     m.toNat < 8 →
     let first := (rd j a).toNat
     let y := (rd j b).toNat
     let count := y % 1024
     let crd : Instr := .crd { t := t, d := d, a := a, b := b, minor := m }
     let answers (st : Status) : Prop := Completes crd s id j 1 d (st.setWidth 64) (st == 0) j.n j.c j.v
     (tabGet j.h m.toNat = none → Traps crd s id St.illegalField) ∧
     (∀ h, tabGet j.h m.toNat = some h →
       (h.rw = false → Traps crd s id St.rights) ∧
       (h.rw = true → h.len < count * 4096 → Traps crd s id St.bounds) ∧
       (h.rw = true → count * 4096 ≤ h.len →
         (2 ^ 48 ≤ first ∨ 1024 ≤ y → answers St.illegalField) ∧
         (first < 2 ^ 48 → y < 1024 →
           (count = 0 ∨ grainsDurable s first count = false → answers St.outOfRange) ∧
           (count ≠ 0 → grainsDurable s first count = true →
             (tabFree j.tickets 0 64 = none → answers St.busyRetry) ∧
             (∀ k, tabFree j.tickets 0 64 = some k →
               ∃ u j' tk, exec crd s = .next u ∧ jobOf u id = some j' ∧
                 (∀ r, rd j' r = if r = 0 then 0 else if r = d then BitVec.ofNat 64 (k * 65536) else rd j r) ∧
                 j'.z = true ∧ j'.pc = j.pc + 1 ∧ tabGet j'.tickets k = some tk ∧ tk.crd = true ∧ tk.first = first ∧
                 tk.count = count)))))) ∧
  (∀ (s : State) (t : Thread) (id : Nat) (j : Job) (d a : Reg), Issues s t id j 1 →
     let x := (rd j a).toNat
     let k := x / 65536 % 64
     let dwait : Instr := .dwait { t := t, d := d, a := a, b := 0, minor := 0 }
     (tabGet j.tickets k = none ∨ x ≠ k * 65536 →
       Completes dwait s id j 1 d (St.illegalField.setWidth 64) false j.n j.c j.v) ∧
     (∀ tk, tabGet j.tickets k = some tk → x = k * 65536 →
       (∀ w, tk.result = some w → ∃ j', Leaves dwait s id j' ∧
         (∀ r, rd j' r = if r = 0 then 0 else if r = d then w else rd j r) ∧
         j' = { begun j with g := j'.g, z := decide (w.toNat % 65536 = 0), pc := j.pc + 1, tickets := tabDel j.tickets k }) ∧
       (tk.result = none → isHk j = false → ∃ u j', exec dwait s = .next u ∧ jobOf u id = some j' ∧ jobOn u t = none ∧
         j' = { begun j with pc := j.pc + 1, wait := .ticket k, dst := d, phase := .suspended, suspends := j.suspends + 1 })))

/-! ### Appends and the map (R67, R68) -/

/-- CAPP of an extent of a defined volume whose payload has arrived: its grains join a lead course, and the job waits for the
courses that hold them; a payload that has not arrived is waited for first. An operand that breaks the format, an extent outside
the volume, a unit that cannot take appends, and too little free space return their statuses in the order of R67. -/
def Obligations.CourseAppend : Prop :=
  ∀ (s : State) (t : Thread) (id : Nat) (j : Job) (d a b : Reg) (m : BitVec 11), Issues s t id j 1 → Uncounted s t.slate →
    m.toNat < 16 →
    let lba := (rd j a).toNat
    let y := (rd j b).toNat
    let k := y / 65536 % 4096
    let v := y % 4096
    let capp : Instr := .capp { t := t, d := d, a := a, b := b, minor := m }
    let answers (st : Status) : Prop := Completes capp s id j 1 d (st.setWidth 64) false j.n j.c j.v
    (tabGet j.h (m.toNat % 8) = none → Traps capp s id St.illegalField) ∧
    (∀ h, tabGet j.h (m.toNat % 8) = some h →
      (h.len < k * 4096 → Traps capp s id St.bounds) ∧
      (k * 4096 ≤ h.len →
        (y ≠ v + k * 65536 → answers St.illegalField) ∧
        (y = v + k * 65536 →
          (k = 0 ∨ extentDefined s j.slate v lba k = false → answers St.outOfRange) ∧
          (k ≠ 0 → extentDefined s j.slate v lba k = true →
            (8 ≤ m.toNat → fitsCourse s k = false → answers St.outOfRange) ∧
            ((8 ≤ m.toNat → fitsCourse s k = true) →
              (j.keep = false → appendsStopped s = true → answers St.notServing) ∧
              (j.keep = false → appendsStopped s = false → belowReserve s j.slate = true → answers St.noSpace) ∧
              (j.keep = true ∨ (appendsStopped s = false ∧ belowReserve s j.slate = false) → isHk j = false →
                ∃ u j' w, exec capp s = .next u ∧ jobOf u id = some j' ∧ jobOn u t = none ∧
                  j' = { begun j with pc := j.pc + 1, wait := w, dst := d, phase := .suspended, suspends := j.suspends + 1 } ∧
                  (h.origin ≠ .h1 ∨ arrived s h.buf h.off (h.off + k * 4096) = true → w = .courses) ∧
                  (h.origin = .h1 → arrived s h.buf h.off (h.off + k * 4096) = false →
                    w = .appendPayload
                      { volume := v, lba := lba, count := k, buf := h.buf, off := h.off, atomic := decide (8 ≤ m.toNat) })))))))

/-- MGET brings the map entry of a defined LBA; MSET makes a record of it and waits for it. Each waits for a leaf that is not in the map
cache. Reserved bits of gB, an undefined volume or LBA, and at JOB any value but the deallocated one are judged in that order (R68).
HAZ takes an extra modifying entry at the job's own place in the hazard order of its queue, and answers its identifier at
once where no earlier conflicting entry remains, and else suspends the job; HREL drops the entries it names. A launched or
housekeeping job and reserved bits return ILLEGAL_FIELD, a count of 0 or above 2 048 OUT_OF_RANGE, a ninth entry BUSY_RETRY (R69). -/
def Obligations.MapAndHazardEffect : Prop :=
  (∀ (s : State) (t : Thread) (id : Nat) (j : Job) (d a b : Reg), Issues s t id j 1 → Uncounted s t.slate → d.toNat % 2 = 0 →
     let lba := (rd j a).toNat
     let v := (rd j b).toNat
     let e := rd j (d + 1)
     let o : RForm := { t := t, d := d, a := a, b := b, minor := 0 }
     let both (st : Status) : Prop :=
       Completes (.mget o) s id j 1 d (st.setWidth 64) false j.n j.c j.v ∧ Completes (.mset o) s id j 1 d (st.setWidth 64) false j.n j.c j.v
     (4096 ≤ v → both St.illegalField) ∧
     (v < 4096 → extentDefined s j.slate v lba 1 = false → both St.outOfRange) ∧
     (v < 4096 → extentDefined s j.slate v lba 1 = true →
       (j.keep = false → e ≠ 0 → Traps (.mset o) s id St.rights) ∧
       (nodeCached s v 0 (lba / 512) = false → isHk j = false →
         (∃ u j', exec (.mget o) s = .next u ∧ jobOf u id = some j' ∧ jobOn u t = none ∧ j'.wait = .mapGet v lba ∧ j'.pc = j.pc + 1 ∧
           j'.dst = d ∧ j'.g = j.g) ∧
         (j.keep = true ∨ e = 0 → ∃ u j', exec (.mset o) s = .next u ∧ jobOf u id = some j' ∧ jobOn u t = none ∧
           j'.wait = .mapSet v lba e ∧ j'.pc = j.pc + 1 ∧ j'.dst = d ∧ j'.g = j.g)) ∧
       (nodeCached s v 0 (lba / 512) = true →
         (∃ u j', exec (.mget o) s = .next u ∧ jobOf u id = some j' ∧
           (∀ r, rd j' r = if r = 0 then 0 else if r = d then 0 else if r = d + 1 then mapEntry s v lba else rd j r) ∧
           j' = { begun j with g := j'.g, z := true, pc := j.pc + 1 } ∧ u.map = s.map) ∧
         (j.keep = true ∨ e = 0 → (askCommit s id).2 = true → isHk j = false →
           ∃ u j', exec (.mset o) s = .next u ∧ jobOf u id = some j' ∧ jobOn u t = none ∧
             ((ownerOf s j.slate).waiting = [] → lineBusy (ownerOf s j.slate) = false → u.ucn = s.ucn + 1) ∧
             j' = { begun j with
               pc := j.pc + 1, wait := .record j.slate (nextSeq s j.slate), dst := d, phase := .suspended
               suspends := j.suspends + 1 })))) ∧
  (∀ (s : State) (t : Thread) (id : Nat) (j : Job) (d a b : Reg), Issues s t id j 1 → Uncounted s t.slate →
     let y := (rd j b).toNat
     let v := y % 4096
     let k := y / 65536 % 4096
     let haz : Instr := .haz { t := t, d := d, a := a, b := b, minor := 0 }
     let answers (st : Status) : Prop := Completes haz s id j 1 d (st.setWidth 64) false j.n j.c j.v
     (y ≠ v + k * 65536 ∨ isCmd j = false → answers St.illegalField) ∧
     (y = v + k * 65536 → isCmd j = true →
       (k = 0 ∨ 2048 < k → answers St.outOfRange) ∧
       (k ≠ 0 → k ≤ 2048 →
         (freeHazId s id = none → answers St.busyRetry) ∧
         (∀ i, freeHazId s id = some i → ∃ u h, exec haz s = .next u ∧ u.hazards = s.hazards ++ [h] ∧
           h.hq = j.hq ∧ h.tag = j.tag ∧ h.job = some id ∧ h.id = i ∧ h.volume = v ∧ h.lba = (rd j a).toNat ∧ h.count = k ∧
           h.modify = true ∧
           (hazBlocked u h = false → ∃ j', jobOf u id = some j' ∧
             (∀ r, rd j' r = if r = 0 then 0 else if r = d then BitVec.ofNat 64 (i * 65536) else rd j r) ∧
             j' = { begun j with g := j'.g, z := true, pc := j.pc + 1 }) ∧
           (hazBlocked u h = true → jobOn u t = none ∧ jobOf u id = some { begun j with
             pc := j.pc + 1, wait := .hazard i, dst := d, phase := .suspended, suspends := j.suspends + 1 })))) ∧
     (∃ u, exec (.hrel { t := t, d := 0, a := a, b := 0, minor := 0 }) s = .next u ∧
       jobOf u id = some { begun j with pc := j.pc + 1 } ∧
       ∀ h, h ∈ u.hazards ↔ h ∈ s.hazards ∧
         ¬ (h.job = some id ∧ ((rd j a).toNat / 65536 % 256 = 0xFF ∨ h.id = (rd j a).toNat / 65536 % 256))))

/-! ### Hazards (R69) -/

/-! ### Events, counters and state (R39, R41, R71, R72, R75, R76) -/

/-- EVW: on a job thread it waits only for its timeout, and with a timeout of zero gives all ones at once; on a housekeeping
thread it returns the pending event its own pointer chooses, whose PEND clears, and else waits in place. EVS sets the PEND bit of
its source, for sources open to the job's privilege; others trap (R39, R71, R72). -/
def Obligations.EventInstructions : Prop :=
  ∀ (s : State) (t : Thread) (id : Nat) (j : Job) (d a : Reg) (imm : BitVec 16), Variant s → t.idx < 192 → Issues s t id j 1 →
    Uncounted s t.slate →
    let x := (rd j a).toNat
    let evw : Instr := .evw { t := t, d := d, a := a, b := 0, minor := 0 }
    let evs : Instr := .evs { t := t, d := 0, a := 0, imm := imm }
    (j.keep = false → Traps evw s id St.rights) ∧
    (j.keep = true → isHk j = false →
      (x = 0 → Completes evw s id j 1 d (BitVec.allOnes 64) j.z j.n j.c j.v) ∧
      (x ≠ 0 → ∃ u, exec evw s = .next u ∧ jobOn u t = none ∧ jobOf u id = some { begun j with
        pc := j.pc + 1, wait := .event (some (now s j.slate + x)), dst := d, phase := .suspended, suspends := j.suspends + 1 })) ∧
    (∀ n, j.keep = true → j.kind = .housekeeping n →
      (∀ e, evwPick s j.slate n = some e → Completes evw s id j 1 d (BitVec.ofNat 64 e) j.z j.n j.c j.v ∧
        ∀ u, exec evw s = .next u → isF u j.slate (fPend e) = false) ∧
      (evwPick s j.slate n = none → ∃ u, exec evw s = .next u ∧ jobOn u t = some id ∧ jobOf u id = some { begun j with
        pc := j.pc + 1, wait := .event (if x = 0 then none else some (now s j.slate + x)), dst := d })) ∧
    (imm.toNat < 64 →
      (j.keep = true → imm.toNat < 0x20 → Traps evs s id St.illegalField) ∧
      (j.keep = false → imm.toNat < 0x30 → Traps evs s id St.rights) ∧
      ((if j.keep then 0x20 else 0x30) ≤ imm.toNat → Leaves evs s id { begun j with pc := j.pc + 1 } ∧
        (isF s j.slate (fFwd (128 + imm.toNat)) = false →
          ∀ u, exec evs s = .next u → isF u j.slate (fPend (128 + imm.toNat)) = true)))

/-- PMC and GETS read what their selectors name, and change no flag; a slate counter is open to KEEP only, bits of gA above 15
read as zero, and the counts of cycles are free values (R75, R76; log entry 8). -/
def Obligations.CountersAndState : Prop :=
  ∀ (s : State) (t : Thread) (id : Nat) (j : Job) (d a : Reg) (sel : BitVec 16), Issues s t id j 1 → Uncounted s t.slate →
    let x := (rd j a).toNat
    let pmc : Instr := .pmc { t := t, d := d, a := a, b := 0, minor := 0 }
    let gives (c : Instr) (w : Word) : Prop := Completes c s id j 1 d w j.z j.n j.c j.v
    let b := begun j
    let gets : Instr := .gets { t := t, d := d, a := 0, imm := sel }
    (x = 0 → gives pmc (BitVec.ofNat 64 (j.executed + 1))) ∧
    (x = 3 → gives pmc (BitVec.ofNat 64 j.suspends)) ∧
    (x = 1 ∨ x = 2 → ∃ w, gives pmc w) ∧
    (∀ k < 16, x = 0x1000 + k →
      (j.keep = false → Traps pmc s id St.rights) ∧
      (j.keep = true → gives pmc (BitVec.ofNat 64 (getF s j.slate (F.PERF.VALUE k) + getF s j.slate (F.PERF.OVF k) * 2 ^ 48)))) ∧
    (3 < x → x < 0x1000 ∨ 0x100F < x → gives pmc 0) ∧
    (sel = 0 → gives gets j.jid) ∧
    (sel = 1 → gives gets (if isHk j then 0 else BitVec.ofNat 64 b.budget)) ∧
    (sel = 2 → gives gets (BitVec.ofNat 64 (j.z.toNat + 2 * j.n.toNat + 4 * j.c.toNat + 8 * j.v.toNat))) ∧
    (sel = 3 → gives gets (BitVec.ofNat 64 t.slate)) ∧
    (sel = 4 → gives gets (BitVec.ofNat 64 t.idx)) ∧
    (sel = 5 → gives gets (BitVec.ofNat 64 (now s t.slate))) ∧
    (sel = 6 → gives gets (BitVec.ofNat 64 s.n)) ∧
    (6 < sel.toNat → Traps gets s id St.illegalField)

/-! ### Job control (R34 to R36, R77) -/

/-- YIELD sends a job to the tail of its slate's resume queue; DONE and FAIL end it with a status and the result words g1 to
g4, FAIL never with OK; TRAP ends it with its operand as status, 0 giving ILLEGAL_FIELD, and result words of zero. A job that
ends leaves its thread (R35, R36, R77). -/
def Obligations.JobControl : Prop :=
  ∀ (s : State) (t : Thread) (id : Nat) (j : Job) (a : Reg) (imm : BitVec 16), Issues s t id j 1 → isHk j = false →
    let st : Status := (rd j a).setWidth 16
    let words := [rd j 1, rd j 2, rd j 3, rd j 4]
    let ends (c : Instr) (r : Resp) (trap : Bool) : Prop := ∃ u j', exec c s = .next u ∧ jobOf u id = some j' ∧ jobOn u t = none ∧
      j'.ended = some { resp := r, trap := trap } ∧ j'.phase = .ending
    (∃ u j', exec (.yield { t := t, d := 0, a := 0, b := 0, minor := 0 }) s = .next u ∧ jobOf u id = some j' ∧
      jobOn u t = none ∧ (tabGetD u.resumeQ t.slate []).getLast? = some id ∧
      j' = { begun j with
        pc := j.pc + 1, wait := .none, dst := 0, phase := .waitingThread, suspends := j.suspends + 1
        readyTb := now s t.slate }) ∧
    ends (.done { t := t, d := 0, a := a, b := 0, minor := 0 }) { status := st, orig := 0, words := words, aout := false } false ∧
    ends (.fail { t := t, d := 0, a := a, b := 0, minor := 0 })
      { status := if st = 0 then St.illegalField else st, orig := 0, words := words, aout := false } false ∧
    ends (.trap { t := t, d := 0, a := 0, imm := imm })
      { status := if imm = 0 then St.illegalField else imm, orig := 0, words := [0, 0, 0, 0], aout := false } true

/-! ### The checks of issue (R33, R49, R50) -/

/-- An instruction due to issue is checked in the order of R50: a job without budget ends with BUDGET and executes nothing; a PC
at or beyond the program length, and an X form that is the program's last word, trap with OUT_OF_RANGE; a word with an undefined
major, minor or inner major opcode traps with ILLEGAL_OPCODE; a nonzero reserved field with ILLEGAL_FIELD; an instruction of KEEP
privilege at JOB with RIGHTS. -/
def Obligations.IssueChecks : Prop :=
  ∀ (s : State) (t : Thread) (id : Nat) (j : Job) (src : Src) (d a b : Reg) (m : BitVec 11),
    serving s t.slate = true → jobOn s t = some id → jobOf s id = some j → j.ended = none → j.wait = .none →
    let add : Instr := .add { t := t, d := d, a := a, src := src }
    let cset : Instr := .cset { t := t, d := d, a := a, b := b, minor := m }
    (isHk j = false → j.budget = 0 → ∃ u j', exec add s = .next u ∧ jobOf u id = some j' ∧
      j'.ended = some { resp := respOf St.budget [0, 0, 0, 0], trap := true } ∧ j'.g = j.g ∧ j'.executed = j.executed) ∧
    (isHk j = true ∨ j.budget ≠ 0 →
      (progLen s j ≤ j.pc → Traps add s id St.outOfRange ∧ Traps cset s id St.outOfRange) ∧
      (∀ w, progWord s j j.pc = some w →
        let x : Prop := fMajor w = 0x3F
        let bad : Prop := decodeInsn t w ((progWord s j (j.pc + 1)).getD 0) = none
        (j.pc + 1 = progLen s j →
          (x ∨ srcLen src = 2 → Traps add s id St.outOfRange) ∧ (x → Traps cset s id St.outOfRange)) ∧
        (bad → (x ∨ srcLen src = 2 → j.pc + 1 ≠ progLen s j) → Traps add s id St.illegalOpcode) ∧
        (bad → (x → j.pc + 1 ≠ progLen s j) → Traps cset s id St.illegalOpcode) ∧
        (¬ bad → (x ∨ srcLen src = 2 → j.pc + 1 ≠ progLen s j) → srcOk src = false → Traps add s id St.illegalField) ∧
        (¬ bad → (x → j.pc + 1 ≠ progLen s j) →
          (m ≠ 0 → Traps cset s id St.illegalField) ∧ (m = 0 → j.keep = false → Traps cset s id St.rights))))

/-! ### Control space from a program (R73, R74) -/

/-- CGET, CSET and CSWAP at KEEP. A control address with nonzero bits above 20 returns ILLEGAL_FIELD, and a space above 0x12 or a
slate that is not present or is lost OUT_OF_RANGE. CGET gives the entry as read. CSWAP of an entry that is not the expected value
writes nothing and answers OK with Z = 0. CSET and CSWAP of an illegal value answer ILLEGAL_FIELD and write nothing; of a legal
value they answer OK once what the entry's map states has been done: what the control write `writeEntry` does to the state in which
the instruction has begun. Stated for jobs that are not a command's, which need no commit mark, and writes that wait for no
record (R73, R74, R81). -/
def Obligations.ControlInstructions : Prop :=
  ∀ (s : State) (t : Thread) (id : Nat) (j : Job) (d a b : Reg), Issues s t id j 1 → Uncounted s t.slate → j.keep = true →
    d.toNat % 2 = 0 → isCmd j = false →
    let w := rd j a
    let e := w.toNat % 2 ^ 12
    let sp := w.toNat / 2 ^ 12 % 2 ^ 5
    let sl := if w.getLsbD 20 then t.slate else w.toNat / 2 ^ 17 % 2 ^ 3
    let o : RForm := { t := t, d := d, a := a, b := b, minor := 0 }
    let cget : Instr := .cget { o with b := 0 }
    let all (st : Status) : Prop := Completes cget s id j 1 d (st.setWidth 64) false j.n j.c j.v ∧
      Completes (.cset o) s id j 1 d (st.setWidth 64) false j.n j.c j.v ∧
      Completes (.cswap o) s id j 1 d (st.setWidth 64) false j.n j.c j.v
    let b0 := fetchWords (putJob (granted s (ptrIssue t.slate (t.idx / 4)) (t.idx % 4) 4) id (begun j)) t (begun j) 1
    let v := ctlGrant b0 w t.slate
    (2 ^ 21 ≤ w.toNat → all St.illegalField) ∧
    (w.toNat < 2 ^ 21 → 0x12 < sp ∨ serving s sl = false → all St.outOfRange) ∧
    (w.toNat < 2 ^ 21 → sp ≤ 0x12 → serving s sl = true →
      (∃ j', Leaves cget s id j' ∧ j' = { begun j with g := j'.g, z := true, pc := j.pc + 1 } ∧
        ∀ r, rd j' r = if r = 0 then 0 else if r = d then 0 else if r = d + 1 then
          readEntry b0 sl sp e else rd j r) ∧
      (readEntry v sl sp e ≠ rd j (d + 1) → ∃ u j', exec (.cswap o) s = .next u ∧ jobOf u id = some j' ∧ u.ctl = s.ctl ∧
        j' = { begun j with g := j'.g, z := false, pc := j.pc + 1 } ∧
        ∀ r, rd j' r = if r = 0 then 0 else if r = d then 0 else if r = d + 1 then readEntry v sl sp e else rd j r) ∧
      (legal v sl sp e (rd j b) = false →
        (∃ u j', exec (.cset o) s = .next u ∧ jobOf u id = some j' ∧ u.ctl = s.ctl ∧ j'.z = false ∧
          rd j' d = if d = 0 then 0 else St.illegalField.setWidth 64) ∧
        (readEntry v sl sp e = rd j (d + 1) → ∃ u j', exec (.cswap o) s = .next u ∧ jobOf u id = some j' ∧ u.ctl = s.ctl ∧
          j'.z = false ∧ rd j' d = if d = 0 then 0 else St.illegalField.setWidth 64)) ∧
      (∀ u, writeEntry v sl sp e (rd j b) true = some (u, none) → u.jobs = v.jobs → u.sampling = v.sampling →
        (∃ j', exec (.cset o) s = .next (putJob u id j') ∧ j' = { begun j with g := j'.g, z := true, pc := j.pc + 1 } ∧
          ∀ r, rd j' r = if r = 0 then 0 else if r = d then 0 else rd j r) ∧
        (readEntry v sl sp e = rd j (d + 1) →
          ∃ j', exec (.cswap o) s = .next (putJob u id j') ∧ j' = { begun j with g := j'.g, z := true, pc := j.pc + 1 } ∧
            ∀ r, rd j' r = if r = 0 then 0 else if r = d then 0 else if r = d + 1 then readEntry v sl sp e else rd j r)))

/-! ### What the instructions leave unchanged (R52, R55 to R58, R61, R62, R70, R76) -/

/-- An instruction of the register, branch, scratch, handle and hash families, and the reads of a buffer, of a counter and of
state, that does not trap leaves everything as it was but its own job, the issue arbiter's pointer, its engine's instruction cache and the model's counter of free
values: every byte of memory and of every buffer, every control-space entry, every other job, every thread. No command changes a byte of device memory but those that may
store there. -/
def Obligations.RegisterAndMemoryFrames : Prop :=
  (∀ (s u : State) (t : Thread) (id : Nat) (j : Job) (len : Nat) (c : Instr), Issues s t id j len → Uncounted s t.slate →
     insnThread c = some t →
     (match c with
       | .add o | .and o | .or o | .xor o | .cmp o => srcLen o.src = len
       | .b o | .bcc o | .call o => immLen o.off = len
       | .sub _ | .mul _ | .mulh _ | .mulhu _ | .shl _ | .shr _ | .sar _ | .ret _ | .ldb _ | .ldh _ | .ldw _ | .ldd _
       | .stb _ | .sth _ | .stw _ | .std _ | .bget _ | .hsub _ | .hlen _ | .shka _ | .shks _ | .pmc _ | .gets _ => len = 1
       | _ => False) →
     exec c s = .next u → (∀ j', jobOf u id = some j' → j'.ended = none) →
     u = { s with jobs := u.jobs, ptrs := u.ptrs, icLines := u.icLines, icTree := u.icTree, fresh := u.fresh } ∧ ∀ x, x ≠ id → jobOf u x = jobOf s x) ∧
  (∀ (c : Instr) (s u : State), touchesMemory c = false → (∀ t, insnThread c = some t → Uncounted s t.slate) →
    exec c s = .next u → u.hbm = s.hbm)

/-! ### Jobs, threads and events (R22, R25, R26, R33, R35 to R40) -/

/-- JOB_RESUME of a suspended job: if what it waits for has come, its instruction completes, with its result register and Z where
it has them, and the job joins the tail of its slate's resume queue; if not, nothing changes (R25, R26). -/
def Obligations.JobResumes : Prop :=
  ∀ (s : State) (id : Nat) (j : Job), serving s 0 = true → serving s j.slate = true → jobOf s id = some j → j.ended = none →
    j.phase = .suspended → (samplingOf s j.slate).tags = [] →
    let resumes (w : Word) (z : Bool) (tks : Tab Ticket) (r : Option Status) : Prop := Answers (.jobResume id) s fun u =>
      tabGetD u.resumeQ j.slate [] = tabGetD s.resumeQ j.slate [] ++ [id] ∧
      ∃ j', jobOf u id = some j' ∧ (∀ x, rd j' x = if x = 0 then 0 else if x = j.dst then w else rd j x) ∧
        j' = { j with
          g := j'.g, z := z, tickets := tks, result := r, wait := .none, phase := .waitingThread, readyTb := now s j.slate }
    let waits : Prop := exec (.jobResume id) s = .next s
    (∀ b lo hi, j.wait = .payload b lo hi →
      (arrived s b lo hi = true → resumes (rd j j.dst) j.z j.tickets j.result) ∧ (arrived s b lo hi = false → waits)) ∧
    (∀ k, j.wait = .ticket k →
      (∀ w, (tabGet j.tickets k).bind (·.result) = some w →
        resumes w (decide (w.toNat % 65536 = 0)) (tabDel j.tickets k) j.result) ∧
      ((tabGet j.tickets k).bind (·.result) = none → waits)) ∧
    (j.wait = .courses →
      (∀ st, appendsDone s id = true → j.result.getD St.ok = st → resumes (st.setWidth 64) (st == 0) j.tickets none) ∧
      (appendsDone s id = false → waits)) ∧
    (∀ o q, j.wait = .record o q →
      (recSettled s o q = true → resumes 0 true j.tickets j.result) ∧ (recSettled s o q = false → waits)) ∧
    (∀ i, j.wait = .hazard i →
      ((∀ h ∈ s.hazards, h.job = some id → h.id = i → i < 8 → hazBlocked s h = false) →
        resumes (BitVec.ofNat 64 (i * 65536)) true j.tickets j.result) ∧
      (∀ h ∈ s.hazards, h.job = some id → h.id = i → i < 8 → hazBlocked s h = true → waits)) ∧
    (∀ v lba, j.wait = .mapGet v lba → j.dst.toNat % 2 = 0 →
      (∀ st, j.result = some st → resumes (st.setWidth 64) (st == 0) j.tickets none) ∧
      (j.result = none → nodeCached s v 0 (lba / 512) = true → Answers (.jobResume id) s fun u =>
        tabGetD u.resumeQ j.slate [] = tabGetD s.resumeQ j.slate [] ++ [id] ∧
        ∃ j', jobOf u id = some j' ∧
          (∀ x, rd j' x = if x = 0 then 0 else if x = j.dst then 0 else if x = j.dst + 1 then mapEntry s v lba else rd j x) ∧
          j' = { j with g := j'.g, z := true, wait := .none, phase := .waitingThread, readyTb := now s j.slate })) ∧
    (∀ v lba x st, j.wait = .mapSet v lba x → j.result = some st → resumes (st.setWidth 64) (st == 0) j.tickets none)

/-- THREAD_TAKE_WORK: outside PS2, the free job thread at or after the rotating pointer takes the job that stands first in the
slate's resume queue, or, where that is empty, in its dispatch queue, and the pointer moves one past it; with no free thread or
no job that waits, and in PS2, nothing changes (R26, R42). -/
def Obligations.ThreadTakesWork : Prop :=
  ∀ (s : State) (sl : Nat), serving s sl = true →
    let free (i : Nat) : Prop := i < 192 ∧ isHkIdx i = false ∧ jobOn s { slate := sl, idx := i } = none
    let p := tabGetD s.ptrs (ptrThread sl) 0
    let rq := tabGetD s.resumeQ sl []
    let dq := tabGetD s.dispatchQ sl []
    let idle : Prop := exec (.threadTakeWork sl) s = .next s
    (s.power.now = 2 → idle) ∧ (rq = [] → dq = [] → idle) ∧ ((∀ i, ¬ free i) → idle) ∧
    (∀ k, k < 192 → s.power.now ≠ 2 → free ((p + k) % 192) → (∀ k' < k, ¬ free ((p + k') % 192)) →
      ∀ id j, (rq ++ dq).head? = some id → jobOf s id = some j → j.slate = sl → j.onWake = .resume →
        Answers (.threadTakeWork sl) s fun u =>
          jobOn u { slate := sl, idx := (p + k) % 192 } = some id ∧ jobOf u id = some { j with phase := .running ((p + k) % 192) } ∧
          tabGetD u.resumeQ sl [] ++ tabGetD u.dispatchQ sl [] = (rq ++ dq).tail ∧
          tabGetD u.ptrs (ptrThread sl) 0 = ((p + k) % 192 + 1) % 192)

/-- COMMAND_DISPATCH of a HELD command that no earlier conflicting entry blocks and the unit's state does not hold back: an empty
slot ends it with NO_PROGRAM, a housekeeping slot, or a KEEP program without the administrative right, with RIGHTS; otherwise its
job is made with the registers and handles of R23 and joins the dispatch queue, and its tag is ACTIVE (R22, R23, R142, R144). -/
def Obligations.CommandDispatches : Prop :=
  ∀ (s : State) (hq tag : Nat) (q : Queue) (c : Cmd), serving s (hqSlate hq) = true → queueAt s hq = some q →
    (tagAt q tag).st = .held → (tagAt q tag).cmd = some c → hq ≠ bootQueue →
    let sl := hqSlate hq
    let mine (h : Hazard) : Prop := h.hq = hq ∧ h.tag = tag ∧ h.job = none
    let held : Prop := (∃ h ∈ s.hazards, mine h ∧ hazBlocked s h = true) ∨ (s.power.now = 2 ∧ c.cls = 7) ∨
      (unitStopped s = true ∧ c.cls ≠ 7)
    let ends (st : Status) : Prop := Answers (.commandDispatch hq tag) s fun u => u.jobs = s.jobs ∧
      ∃ q', queueAt u hq = some q' ∧ (tagAt q' tag).st = .done ∧ (tagAt q' tag).resp = some (respOf st [0, 0, 0, 0])
    (held → exec (.commandDispatch hq tag) s = .next s) ∧
    (¬ held → slotProg s c.slot = none → ends St.noProgram) ∧
    (¬ held → ∀ v p, slotProg s c.slot = some (v, p) →
      (isHkSlot c.slot = true ∨ (p.keep = true ∧ c.rights.getLsbD 0 = false) → ends St.rights) ∧
      (isHkSlot c.slot = false → (p.keep = true → c.rights.getLsbD 0 = true) →
        Answers (.commandDispatch hq tag) s fun u => ∃ j, jobOf u s.nextJob = some j ∧
          j.kind = .command ∧ j.slate = sl ∧ j.hq = hq ∧ j.tag = tag ∧ j.slot = c.slot ∧ j.prog = v ∧ j.keep = p.keep ∧
          j.pc = 0 ∧ j.scr = [] ∧ j.phase = .waitingThread ∧ j.wait = .none ∧ j.ended = none ∧
          (j.z, j.n, j.c, j.v) = (false, false, false, false) ∧
          j.budget = (if p.budget = 0 then getF s sl F.ENGINE.DEF_BUDGET else p.budget) ∧
          (∀ i < 8, rd j (BitVec.ofNat 5 (i + 1)) = c.args.getD i 0) ∧ rd j 9 = BitVec.ofNat 64 c.inLen ∧ rd j 10 = c.rights ∧
          rd j 11 = c.tb ∧ rd j 12 = BitVec.ofNat 64 c.slot ∧ rd j 13 = (tagAt q tag).last.getD 0 ∧
          rd j 14 = c.srcUa.setWidth 64 ∧ (∀ r : Reg, 15 ≤ r.toNat → rd j r = 0) ∧
          (∃ h, tabGet j.h 0 = some h ∧ h.len = c.capsule.length ∧ h.rw = false) ∧
          (c.outLen = 0 → tabGet j.h 2 = none) ∧
          (c.outLen ≠ 0 → ∃ h, tabGet j.h 2 = some h ∧ h.len = c.outLen ∧ h.rw = true ∧ h.origin = .h2)))

/-- BUDGET_EXHAUSTED and JOB_ENDED: a job due to issue with no budget left traps with BUDGET; once the work of a job that has
ended is done, its frame is freed, its buffers with it, and, for a command, its response stands in its tag, now DONE; a
housekeeping thread that traps with HK_EN 1 restarts 1 ms after its trap (R33, R35 to R37, R147, R150; log entry 117). -/
def Obligations.BudgetAndJobEnd : Prop :=
  (∀ (s : State) (t : Thread) (id : Nat) (j : Job), serving s t.slate = true → jobOn s t = some id → jobOf s id = some j →
    j.ended = none → j.wait = .none →
    (isHk j = false → j.budget = 0 → Traps (.budgetExhausted t) s id St.budget) ∧
    (isHk j = true ∨ j.budget ≠ 0 → exec (.budgetExhausted t) s = .next s)) ∧
  (∀ (s : State) (id : Nat) (j : Job) (e : JobEnd), serving s 0 = true → serving s j.slate = true → jobOf s id = some j →
    j.ended = some e →
    (workDone s id j = false → exec (.jobEnded id) s = .next s) ∧
    (workDone s id j = true →
      (j.kind = .launched ∨ (j.kind = .command ∧ j.detached = true) → Answers (.jobEnded id) s fun u =>
        jobOf u id = none ∧ (∀ b ∈ j.buffers, bufOf u b = none) ∧ u.queues = s.queues) ∧
      (∀ n, j.kind = .housekeeping n → Answers (.jobEnded id) s fun u =>
        jobOf u id = none ∧ jobOn u { slate := j.slate, idx := 163 + 4 * n } = none ∧
        tabGet u.hkRestart (j.slate * 8 + n) = tabGet s.hkRestart (j.slate * 8 + n)) ∧
      (∀ q c, j.kind = .command → j.detached = false → queueAt s j.hq = some q → q.resident = true → j.hq ≠ bootQueue →
        (tagAt q j.tag).cmd = some c → (tagAt q j.tag).job = some id → Answers (.jobEnded id) s fun u =>
          jobOf u id = none ∧ ∃ q', queueAt u j.hq = some q' ∧ (tagAt q' j.tag).st = .done ∧ (tagAt q' j.tag).resp = some e.resp ∧
            (tagAt q' j.tag).job = none))) ∧
  (∀ (s : State) (t : Thread) (id : Nat) (j : Job) (n : Nat) (imm : BitVec 16), Issues s t id j 1 → j.kind = .housekeeping n →
    isF s t.slate (F.ENGINE.HK_EN n) = true → Answers (.trap { t := t, d := 0, a := 0, imm := imm }) s fun u =>
      jobOn u t = some id ∧ tabGet u.hkRestart (t.slate * 8 + n) = some (now s t.slate + 1000000))

/-- HK_TRAP_RESTART and HK_RESTART: the housekeeping program starts afresh at word 0 of its slot's program, in a new job on its
own thread, once its time has come (HK_TRAP_RESTART) or at once where its thread is idle (HK_RESTART, which also clears HK_TRAPS);
with HK_EN 0 the thread stays idle (R37).
EVW_EVENT_RETURN, EVW_TIMEOUT and EVENT_LAUNCH: a pending event routed to a waiting housekeeping program returns its number
and its PEND clears; a deadline that passes with none pending returns all ones; an event that was routed to a launch entry as it
occurred makes a job with the event number in g1 and its TB in g11, clearing PEND, where that entry is enabled and its slot holds a
program (R38 to R40, R46, R71). -/
def Obligations.HousekeepingAndEvents : Prop :=
  (∀ (s : State) (sl n v : Nat) (p : Program), serving s sl = true → n < 8 →
     jobOn s { slate := sl, idx := 163 + 4 * n } = none →
     let starts (c : Instr) (slot : Nat) : Prop := Answers c s fun u => ∃ j,
       jobOn u { slate := sl, idx := 163 + 4 * n } = some s.nextJob ∧ jobOf u s.nextJob = some j ∧ j.kind = .housekeeping n ∧
       j.pc = 0 ∧ j.g = [] ∧ j.scr = [] ∧ j.keep = true ∧ j.slot = slot ∧ j.prog = v ∧ j.phase = .running (163 + 4 * n) ∧
       tabGet u.hkRestart (sl * 8 + n) = none
     (∀ t, tabGet s.hkRestart (sl * 8 + n) = some t →
       (now s sl < t → exec (.hkTrapRestart sl n) s = .next s) ∧
       (t ≤ now s sl → isF s sl (F.ENGINE.HK_EN n) = false → Answers (.hkTrapRestart sl n) s fun u =>
         u.jobs = s.jobs ∧ u.threads = s.threads ∧ tabGet u.hkRestart (sl * 8 + n) = none) ∧
       (t ≤ now s sl → isF s sl (F.ENGINE.HK_EN n) = true → slotProg s (getF s sl (F.ENGINE.HK_SLOT n)) = some (v, p) →
         p.keep = true → starts (.hkTrapRestart sl n) (getF s sl (F.ENGINE.HK_SLOT n)))) ∧
     (∀ w, let x := withF w (F.ENGINE.HK_RESTART n) 1
       (legal s sl 0x02 (0x10 + n) x = false → exec (.hkRestart sl n w) s = .next s) ∧
       (legal s sl 0x02 (0x10 + n) x = true → fv x (F.ENGINE.HK_EN n) = 1 →
         slotProg s (fv x (F.ENGINE.HK_SLOT n)) = some (v, p) → p.keep = true →
         starts (.hkRestart sl n w) (fv x (F.ENGINE.HK_SLOT n))))) ∧
  ((∀ (s : State) (sl n id e : Nat) (j : Job) (d : Option Nat), serving s sl = true → serving s 0 = true →
     jobOn s { slate := sl, idx := 163 + 4 * n } = some id → jobOf s id = some j → j.slate = sl → j.kind = .housekeeping n →
     j.phase = .running (163 + 4 * n) → j.wait = .event d → j.ended = none → (samplingOf s sl).tags = [] → e < 2048 →
     let returns (c : Instr) (w : Word) (P : State → Prop) : Prop := Answers c s fun u => P u ∧
       ∃ j', jobOf u id = some j' ∧ (∀ x, rd j' x = if x = 0 then 0 else if x = j.dst then w else rd j x) ∧
         j' = { j with g := j'.g, wait := .none }
     (evwPick s sl n = some e →
       returns (.evwEventReturn sl n) (BitVec.ofNat 64 e) fun u => isF u sl (fPend e) = false ∧
         tabGetD u.ptrs (ptrEvent sl n) 0 = (e + 1) % 2048) ∧
     (∀ t, d = some t →
       (now s sl < t → exec (.evwTimeout id) s = .next s) ∧
       (t ≤ now s sl → evwPick s sl n = none → returns (.evwTimeout id) (BitVec.allOnes 64) fun u => u.ctl = s.ctl) ∧
       (t ≤ now s sl → evwPick s sl n = some e → returns (.evwTimeout id) (BitVec.ofNat 64 e) fun u =>
         isF u sl (fPend e) = false))) ∧
   (∀ (s : State) (sl e v : Nat) (p : Program) (o : Occurrence), serving s sl = true → e < 2048 → isF s sl (fPend e) = true →
     occOf s sl e = some o → Uncounted s sl →
     let k := o.target % 16
     let slot := o.slot
     (o.mode ≠ 2 → exec (.eventLaunch sl e) s = .next s) ∧
     (o.mode = 2 → 256 ≤ launchBusy s sl → exec (.eventLaunch sl e) s = .next s) ∧
     (o.mode = 2 → launchBusy s sl < 256 → isF s sl (F.ENGINE.L_EN k) = true → isHkSlot slot = false → slotProg s slot = some (v, p) →
       Answers (.eventLaunch sl e) s fun u => isF u sl (fPend e) = false ∧ ∃ j, jobOf u s.nextJob = some j ∧ j.kind = .launched ∧
         j.slate = sl ∧ j.slot = slot ∧ j.prog = v ∧ j.keep = p.keep ∧ j.pc = 0 ∧ rd j 1 = BitVec.ofNat 64 e ∧
         rd j 11 = BitVec.ofNat 64 o.tb ∧ j.phase = .waitingThread) ∧
     (o.mode = 2 → launchBusy s sl < 256 → isF s sl (F.ENGINE.L_EN k) = false ∨ isHkSlot slot = true ∨ slotProg s slot = none →
       Answers (.eventLaunch sl e) s fun u => u.jobs = s.jobs)))

/-! ### Datagrams and host queues (R104 to R154) -/

/-- The checks of R108, in order, that COMMAND, DATA_IN, ABORT and QUEUE_RESET_ABORT meet: a datagram for another address or UDP port
changes nothing, a malformed one, its type among what is checked, is counted in
MALFORMED, one for another unit is dropped in silence, a class that carries no commands is counted in CLASS_DROP, an unknown key
is dropped in silence, a mismatch of sealing is counted in MODE_FAIL, a wrong check value in CHECK_FAIL and a seal that does not
prove in SEAL_FAIL, each of these two with its detector; none of them changes anything else, nor answers.
COMMAND once proved: a stale generation, a key bound elsewhere, a slot outside the key's range, a class the unit does not
serve and an unregistered queue are answered BUSY with KEY_STALE, RIGHTS, BOUNDS, NOT_SERVING and NO_CONTEXT (R108, R133). -/
def Obligations.IngressChecks : Prop :=
  (∀ (s : State) (d : Datagram) (c : Instr) (form : Prop), serving s d.port = true →
     (c, form) ∈ [
       (Instr.command d, headerOk s d tyCommand false true = true ∧ d.offset = 0 ∧ 128 ≤ d.payload.length ∧ d.payload.length ≤ 1152),
       (Instr.dataIn d, headerOk s d tyData false true = true ∧ d.slot = 0),
       (Instr.abort d, headerOk s d tyAbort false true = true ∧ d.slot = 0 ∧ d.offset = 0 ∧ d.payload = []),
       (Instr.queueResetAbort d, headerOk s d tyAbort true true = true ∧ d.flags.getLsbD 2 = true ∧ d.hqTag.toNat % 32 = 0 ∧
         d.slot = 0 ∧ d.offset = 0 ∧ d.payload = [])] →
     let sl := d.port
     let ours : Prop := d.udpPort = getF s sl F.XPORT.UDP_PORT ∧ answersTo s sl d.ipv4 d.dest = true
     (¬ ours → exec c s = .next s) ∧
     (ours → ¬ form → exec c s = .next (bump s sl F.XPORT.MALFORMED)) ∧
     (ours → form →
       (s.chain.uaValid = false ∨ d.dstUa ≠ s.chain.ua → exec c s = .next s) ∧
       (s.chain.uaValid = true → d.dstUa = s.chain.ua →
         (d.cls ≠ 7 → d.cls ≠ 3 → exec c s = .next (bump s sl F.XPORT.CLASS_DROP)) ∧
         (d.cls = 7 ∨ d.cls = 3 →
           (keyOf s sl (keyIndex d.keyId) = none → exec c s = .next s) ∧
           (∀ k, keyOf s sl (keyIndex d.keyId) = some k →
             (d.flags.getLsbD 0 ≠ keySeals k → exec c s = .next (bump s sl F.XPORT.MODE_FAIL)) ∧
             (d.flags.getLsbD 0 = keySeals k → k.mode = 0 → d.check ≠ k.check →
               exec c s = .next (detect (bump s sl F.XPORT.CHECK_FAIL) sl Ev.CHECK_FAIL (keyDetail d))) ∧
             (d.flags.getLsbD 0 = keySeals k → keySeals k = true → authentic k d = false →
               exec c s = .next (detect (bump s sl F.XPORT.SEAL_FAIL) sl Ev.SEAL_FAIL (keyDetail d)))))))) ∧
  (∀ (s : State) (d : Datagram) (k : KeyEntry), Proved s d k →
     headerOk s d tyCommand false true = true → d.offset = 0 → 128 ≤ d.payload.length → d.payload.length ≤ 1152 → d.cls = 7 ∨ d.cls = 3 →
     CanSend s d.port d.cls →
     let busy (st : Status) : Prop := Answers (.command d) s fun u => u.queues = s.queues ∧ u.jobs = s.jobs ∧
       Sends s u fun x => x.type = tyBusy ∧ x.status = st ∧ x.hqTag = d.hqTag ∧ x.nonce = d.nonce ∧ x.slot = d.slot ∧ x.cls = d.cls ∧
         x.dest = d.source ∧ x.dstUa = d.srcUa
     let stale : Prop := d.keyId.toNat / 256 % 256 ≠ k.gen.toNat
     let bound : Prop := k.window = false ∧ k.bind = dgNumber d ∧ ∀ q, queueAt s (dgNumber d) = some q → q.host = d.host
     let ranged : Prop := k.lo.toNat ≤ d.slot.toNat ∧ d.slot.toNat ≤ k.hi.toNat
     (stale → busy St.keyStale) ∧ (¬ stale → ¬ bound → busy St.rights) ∧ (¬ stale → bound → ¬ ranged → busy St.bounds) ∧
     (¬ stale → bound → ranged → d.cls = 3 → servesIo s = false → busy St.notServing) ∧
     (¬ stale → bound → ranged → d.cls = 3 → servesIo s = true → queueAt s (dgNumber d) = none →
       hqSlate (dgNumber d) = d.port → busy St.noContext))

/-- COMMAND at its owning slate (R119, R138 to R145): what an instance barred, older or repeated, a busy tag, and a capsule that
breaks its form leave; and a command admitted, HELD in its tag with its capsule, arguments, rights and TB, its extent entered in
the hazard table. -/
def Obligations.CommandAdmission : Prop :=
  ∀ (s : State) (d : Datagram) (k : KeyEntry) (q : Queue), Reaches s d k q → headerOk s d tyCommand false true = true → d.offset = 0 →
    128 ≤ d.payload.length → d.payload.length ≤ 1152 → k.lo.toNat ≤ d.slot.toNat → d.slot.toNat ≤ k.hi.toNat →
    (d.cls = 7 → s.recovery ≥ 2 ∧ ∀ v p, slotProg s d.slot.toNat = some (v, p) → p.keep = true) →
    s.power.now ≠ 2 → s.power.target = none → inFlight s (hqSlate (dgNumber d)) < 65536 →
    Uncounted s (hqSlate (dgNumber d)) → CanSend s (hqSlate (dgNumber d)) d.cls → dgNumber d ≠ bootQueue →
    let hq := dgNumber d
    let sl := hqSlate hq
    let t := d.hqTag.toNat % 32
    let tg := tagAt q t
    let n := d.nonce.toNat
    let body := (opened k d).payload
    let counts (f : Fld) : Prop := Answers (.command d) s fun u => getF u sl f = (getF s sl f + 1) % 2 ^ f.w ∧
      u.hazards = s.hazards ∧ ∃ q', queueAt u hq = some q' ∧ q'.tags = q.tags
    let barred : Prop := n ≤ q.resetNonce.toNat ∨ (∃ b, tg.bar = some b ∧ n ≤ b.toNat) ∨ (∃ l, tg.last = some l ∧ n < l.toNat)
    (q.armed = false → counts F.HQ.TAG_BUSY) ∧
    (q.armed = true → barred → counts F.XPORT.DUP_DISCARD) ∧
    (q.armed = true → ¬ barred → tg.last = some d.nonce →
      (tagBusy tg = true ∨ tg.resp = none → counts F.XPORT.DUP_DISCARD) ∧
      (∀ r, tagBusy tg = false → tg.resp = some r → Answers (.command d) s fun u =>
        getF u sl F.XPORT.DUP_SERVED = (getF s sl F.XPORT.DUP_SERVED + 1) % 2 ^ F.XPORT.DUP_SERVED.w ∧
        Sends s u fun x => x.type = tyResponse ∧ x.status = St.duplicate ∧ x.nonce = d.nonce ∧ x.hqTag = hqTagOf hq t ∧
          x.payload = respPayload r)) ∧
    (q.armed = true → ¬ barred → tg.last ≠ some d.nonce →
      (tagBusy tg = true → counts F.HQ.TAG_BUSY) ∧
      (tagBusy tg = false → capsuleOk body = false → Answers (.command d) s fun u =>
        getF u sl F.HQ.CAPSULE_BAD = (getF s sl F.HQ.CAPSULE_BAD + 1) % 2 ^ F.HQ.CAPSULE_BAD.w ∧
        ∃ q', queueAt u hq = some q' ∧ (tagAt q' t).st = .done ∧ (tagAt q' t).last = some d.nonce ∧
          (tagAt q' t).resp = some (respOf St.illegalField [0, 0, 0, 0])) ∧
      (tagBusy tg = false → capsuleOk body = true → capIn body = 0 → Answers (.command d) s fun u =>
        (∃ q' c, queueAt u hq = some q' ∧ (tagAt q' t).st = .held ∧ (tagAt q' t).last = some d.nonce ∧
          (tagAt q' t).bar = tg.bar ∧ (tagAt q' t).cmd = some c ∧ c.slot = d.slot.toNat ∧ c.capsule = body ∧
          (∀ i < 8, c.args.getD i 0 = capArg body i) ∧ c.outLen = capOut body ∧ c.rights = keyRights k ∧
          c.tb = BitVec.ofNat 64 (now s d.port) ∧ c.srcUa = d.srcUa ∧ c.cls = d.cls) ∧
        (∀ v lba count m, cmdExtent d.slot.toNat body ((List.range 8).map (capArg body)) = some (v, lba, count, m) →
          ∃ h ∈ u.hazards, h.hq = hq ∧ h.tag = t ∧ h.job = none ∧ h.volume = v ∧ h.lba = lba ∧ h.count = count ∧ h.modify = m)))

/-- DATA_IN for a busy instance of its nonce: a range that is aligned or ends at IN_LEN, and lies inside it and is not wholly there yet, fills the bytes of
the inbound buffer that had not arrived, and leaves those that had; anything else is counted in DUP_DISCARD and dropped (R120). -/
def Obligations.InboundData : Prop :=
  ∀ (s : State) (d : Datagram) (k : KeyEntry) (q : Queue), Reaches s d k q → headerOk s d tyData false true = true → d.slot = 0 →
    let hq := dgNumber d
    let sl := hqSlate hq
    let tg := tagAt q (d.hqTag.toNat % 32)
    let off := d.offset.toNat
    let len := d.payload.length
    let dropped : Prop := Answers (.dataIn d) s fun u => u.buffers = s.buffers ∧
      getF u sl F.XPORT.DUP_DISCARD = (getF s sl F.XPORT.DUP_DISCARD + 1) % 2 ^ F.XPORT.DUP_DISCARD.w
    (tagBusy tg = false ∨ tg.last ≠ some d.nonce → dropped) ∧
    (∀ c b x, tagBusy tg = true → tg.last = some d.nonce → tg.cmd = some c → c.buf = some b → bufOf s b = some x →
      (c.inLen < off + len ∨ ((off % 64 ≠ 0 ∨ len % 64 ≠ 0) ∧ off + len ≠ c.inLen) → dropped) ∧
      (off + len ≤ c.inLen → (off % 64 = 0 ∧ len % 64 = 0) ∨ off + len = c.inLen →
        (covers x.arrived off (off + len) = true → dropped) ∧
        (covers x.arrived off (off + len) = false → Answers (.dataIn d) s fun u => ∃ y, bufOf u b = some y ∧
          y.len = x.len ∧ covers y.arrived off (off + len) = true ∧
          (∀ i < len, covers x.arrived (off + i) (off + i + 1) = false → tabGetD y.data (off + i) 0 = (opened k d).payload.getD i 0) ∧
          (∀ a, a < off ∨ off + len ≤ a ∨ covers x.arrived a (a + 1) = true → tabGetD y.data a 0 = tabGetD x.data a 0) ∧
          (∀ o, o ≠ b → bufOf u o = bufOf s o))))

/-- ABORT of one instance, by what its tag holds (R118, R142): a HELD or ACTIVE instance of that nonce is stopped with no effect
and ABORTED, a COMMITTED one answers ABORT_COMMITTED, a DONE one ABORT_FOUND_COMPLETE with its own status and words; a nonce that
has not been seen is barred; one below both is stale. The outcome is sent with the AOUT flag, as DUPLICATE where it was sent
before. -/
def Obligations.AbortOutcomes : Prop :=
  ∀ (s : State) (d : Datagram) (k : KeyEntry) (q : Queue), Reaches s d k q → headerOk s d tyAbort false true = true → d.slot = 0 →
    d.offset = 0 → d.payload = [] → (∀ i, keyOf s (hqSlate (dgNumber d)) i = none ∨ ∃ x, keyOf s (hqSlate (dgNumber d)) i = some x ∧
      keySeals x = false) → CanSend s (hqSlate (dgNumber d)) d.cls →
    let hq := dgNumber d
    let sl := hqSlate hq
    let t := d.hqTag.toNat % 32
    let tg := tagAt q t
    let sends (u : State) (r : Resp) (dup : Bool) : Prop := Sends s u fun x => x.type = tyResponse ∧
      x.status = (if dup then St.duplicate else r.status) ∧ x.flags = 2 ∧ x.nonce = d.nonce ∧ x.hqTag = hqTagOf hq t ∧
      x.payload = respPayload r
    let aborted : Resp := { status := St.aborted, orig := 0, words := [0, 0, 0, 0], aout := true }
    (tg.last = some d.nonce → tg.outcome = none →
      (tg.st = .held ∨ tg.st = .active → Answers (.abort d) s fun u => sends u aborted false ∧ ∃ q', queueAt u hq = some q' ∧
        (tagAt q' t).st = .done ∧ (tagAt q' t).resp = some aborted ∧
        getF u sl F.HQ.N_ABORTED = (getF s sl F.HQ.N_ABORTED + 1) % 2 ^ F.HQ.N_ABORTED.w) ∧
      (tg.st = .committed → Answers (.abort d) s fun u =>
        sends u { aborted with status := St.abortCommitted } false ∧ ∃ q', queueAt u hq = some q' ∧
        (tagAt q' t).st = .committed ∧ (tagAt q' t).latched = true) ∧
      (∀ r, tg.st = .done → tg.resp = some r → Answers (.abort d) s fun u =>
        sends u { status := St.abortFoundComplete, orig := r.status, words := r.words, aout := true } false ∧
        ∃ q', queueAt u hq = some q' ∧ (tagAt q' t).st = .done ∧ (tagAt q' t).resp = some r)) ∧
    (tg.last ≠ some d.nonce →
      (tg.bar = some d.nonce → Answers (.abort d) s fun u => sends u aborted true ∧
        ∃ q', queueAt u hq = some q' ∧ q'.tags = q.tags) ∧
      ((∀ l, tg.last = some l → l.toNat < d.nonce.toNat) → (∀ b, tg.bar = some b → b.toNat < d.nonce.toNat) →
        Answers (.abort d) s fun u => sends u aborted false ∧ ∃ q', queueAt u hq = some q' ∧
          (tagAt q' t).bar = some d.nonce ∧ (tagAt q' t).last = tg.last ∧ (tagAt q' t).st = tg.st) ∧
      (tg.bar ≠ some d.nonce →
        (∃ l, tg.last = some l ∧ d.nonce.toNat < l.toNat) ∨ (∃ b, tg.bar = some b ∧ d.nonce.toNat < b.toNat) →
        Answers (.abort d) s fun u => u.frames = s.frames ∧ ∃ q', queueAt u hq = some q' ∧ q'.tags = q.tags))

/-- QUEUE_RESET_ABORT above the nonce floor resets the queue: it is armed with the nonce as RESET_NONCE, and every tag that held
an instance is named in the mask, and none is left HELD or ACTIVE; below the floor it is stale and counted in DUP_DISCARD (R133,
R152). CONTEXT_FETCH_DONE makes a fetched context resident, PARK_PAUSE_RELEASE releases the pause once the park queue is below
PARK_LOW with nothing held, and INBOUND_BUFFER_ALLOC takes the first COMMAND that waits for a buffer (R136, R137). -/
def Obligations.QueueResetAndContexts : Prop :=
  (∀ (s : State) (d : Datagram) (k : KeyEntry) (q : Queue), Reaches s d k q → headerOk s d tyAbort true true = true →
    d.flags.getLsbD 2 = true → d.hqTag.toNat % 32 = 0 → d.slot = 0 → d.offset = 0 → d.payload = [] →
    let hq := dgNumber d
    (nonceFloor q < d.nonce.toNat → d.nonce ≠ q.resetNonce → Answers (.queueResetAbort d) s fun u =>
      ∃ q', queueAt u hq = some q' ∧ q'.armed = true ∧ q'.resetNonce = d.nonce ∧
        ∀ t < 32, (bitOf q'.resetMask.toNat t = true ↔ (tagAt q t).st ≠ .empty) ∧
          (tagAt q' t).st ≠ .held ∧ (tagAt q' t).st ≠ .active) ∧
    (d.nonce.toNat ≤ nonceFloor q → d.nonce ≠ q.resetNonce → Answers (.queueResetAbort d) s fun u =>
      u.frames = s.frames ∧ ∃ q', queueAt u hq = some q' ∧ q'.tags = q.tags ∧ q'.resetNonce = q.resetNonce)) ∧
  (∀ (s : State) (hq : Nat) (q : Queue), serving s (hqSlate hq) = true → queueAt s hq = some q →
    (∀ p ∈ tabGetD s.park (hqSlate hq) [], p.hq ≠ hq) → tabGetD s.heldDg (hqSlate hq) [] = [] →
    (residents s (hqSlate hq)).length < 24576 →
    (hq ∉ underWay s (hqSlate hq) → exec (.contextFetchDone hq) s = .next s) ∧
    (hq ∈ underWay s (hqSlate hq) → Answers (.contextFetchDone hq) s fun u => hq ∉ u.fetching ∧ queueAt u hq = some { q with resident := true } ∧
      getF u (hqSlate hq) F.HQ.FETCHES = (getF s (hqSlate hq) F.HQ.FETCHES + 1) % 2 ^ F.HQ.FETCHES.w)) ∧
  (∀ (s : State) (sl : Nat), serving s sl = true →
    let low : Prop := tabGetD s.heldDg sl [] = [] ∧ parkUsed s sl < getF s sl F.HQ.PARK_LOW
    (low → Answers (.parkPauseRelease sl) s fun u => (∀ p < 8, tabGetD u.pausePark (pauseKey sl p) 0 = 0) ∧
      ∀ x p, x ≠ sl → p < 8 → tabGet u.pausePark (pauseKey x p) = tabGet s.pausePark (pauseKey x p)) ∧
    (¬ low → exec (.parkPauseRelease sl) s = .next s) ∧
    (tabGetD s.bufWait sl [] = [] → exec (.inboundBufferAlloc sl) s = .next s) ∧
    (∀ p r q, tabGetD s.bufWait sl [] = p :: r → tabGetD s.heldDg sl [] = [] → queueAt s p.hq = some q → hqSlate p.hq = sl →
      (∀ x ∈ r, x.hq ≠ p.hq) →
      let t := p.dg.hqTag.toNat % 32
      q.armed = true → q.resetNonce.toNat < p.dg.nonce.toNat → tagAt q t = tagEmpty → inFlight s sl < 65536 →
      capsuleOk p.dg.payload = true → capIn p.dg.payload ≠ 0 → s.power.now ≠ 2 → s.power.target = none → Uncounted s sl →
      Answers (.inboundBufferAlloc sl) s fun u => tabGetD u.bufWait sl [] = r ∧
        (∃ x, bufOf u s.nextBuf = some x ∧ x.len = capIn p.dg.payload ∧ x.inbound = true ∧ x.arrived = []) ∧
        ∃ q' c, queueAt u p.hq = some q' ∧ (tagAt q' t).st = .held ∧ (tagAt q' t).cmd = some c ∧ c.buf = some s.nextBuf))

/-! ### Remote memory (R259 to R272) -/

/-- RMA_READ, RMA_WRITE, RMA_AADD, RMA_ACAS, RMA_ACAS128 and RMA_COPY_WR, each with its own OP and the right it needs, inside its
key's bounds and its window, where no word is poisoned and the operation is new: the bytes the home's memory then holds, every
other byte as before, and the RMA_RESP with the old value, or the bytes read, and whether a compare wrote (R261 to R264). -/
def Obligations.RmaOperations : Prop :=
  ∀ (s : State) (d : Datagram) (k : KeyEntry) (x : Window), Proved s d k → d.keyId.toNat / 256 % 256 = k.gen.toNat →
    d.cls = 2 ∨ d.cls = 1 → k.window = true → k.bind = dgNumber d → k.mode ≠ 1 → servesIo s = true →
    headerOk s d tyRmaReq false false = true → d.slot = 0 → k.lo.toNat ≤ d.offset.toNat → d.offset.toNat + rmaLen (opened k d) ≤ k.hi.toNat →
    windowOf s (dgNumber d) = some x → x.gen = k.gen → d.offset.toNat + rmaLen (opened k d) ≤ x.pages * 4096 →
    let home := hqSlate (dgNumber d)
    CanSend s home d.cls → Uncounted s home → rotOf s home = [] → copiesOf s home = [] → s.poison = [] →
    rmaForm s (opened k d) home = true →
    let a := memAddr home (x.base + d.offset.toNat)
    let len := (opened k d).payload.length
    let word (i n : Nat) : Nat := beNat (blockSlice (opened k d).payload i n)
    let result (c : Instr) (op : Nat) (b : Block) (P : State → Prop) : Prop := rmaOp d = op →
      (∃ r, rmaRight op = some r ∧ k.rights.getLsbD r = true) →
      Answers c s fun u => P u ∧ getF u home F.RMA.OPS_DONE = (getF s home F.RMA.OPS_DONE + 1) % 2 ^ F.RMA.OPS_DONE.w ∧
        Sends s u fun y => y.type = tyRmaResp ∧ y.status = St.ok ∧ y.nonce = d.nonce ∧ y.hqTag = d.hqTag ∧ y.offset = d.offset ∧
          y.payload = List.replicate 8 0 ++ b
    let same (u : State) : Prop := u.hbm = s.hbm
    let outside (n : Nat) (u : State) : Prop := ∀ y, y < a ∨ a + n ≤ y → hbmRead u y 1 = hbmRead s y 1
    let cas (n : Nat) (u : State) : Prop :=
      if leNat (hbmRead s a n) = word 0 n then hbmRead u a n = leBytes n (word n n) ∧ outside n u else same u
    let wrote (n : Nat) : Nat := if leNat (hbmRead s a n) = word 0 n then 1 else 0
    result (.rmaRead d) 1 (hbmRead s a (rmaLen (opened k d))) same ∧
    (rmaOnce d = false → result (.rmaWrite d) 2 [] fun u => hbmRead u a len = (opened k d).payload ∧ outside len u) ∧
    result (.rmaAadd d) 3 (beBytes 8 (leNat (hbmRead s a 8))) (fun u =>
      hbmRead u a 8 = leBytes 8 (leNat (hbmRead s a 8) + word 0 8) ∧ outside 8 u) ∧
    result (.rmaAcas d) 4 (beBytes 8 (leNat (hbmRead s a 8)) ++ beBytes 8 (wrote 8)) (cas 8) ∧
    result (.rmaAcas128 d) 5 (beBytes 16 (leNat (hbmRead s a 16)) ++ beBytes 8 (wrote 16)) (cas 16) ∧
    result (.rmaCopyWr d) 7 [] fun u => hbmRead u a len = (opened k d).payload ∧ outside len u

/-- What an RMA_REQ that has passed R108 meets at its home before it executes, in the order of R263: an undefined window is
answered BUSY with NO_CONTEXT, a stale generation BUSY with KEY_STALE; an operation in the recent-operation table is answered
from it as DUPLICATE once it is done, and discarded while it runs; a broken form ends with ILLEGAL_FIELD, a range outside the
window with OUT_OF_RANGE. None of them changes memory. A READ without its right is answered BUSY with RIGHTS, and one outside its key's bounds with
BOUNDS. -/
def Obligations.RmaAdmission : Prop :=
  ∀ (s : State) (d : Datagram) (k : KeyEntry) (c : Instr), Proved s d k → d.keyId.toNat / 256 % 256 = k.gen.toNat →
    d.cls = 2 ∨ d.cls = 1 → k.window = true → k.bind = dgNumber d → headerOk s d tyRmaReq false false = true → d.slot = 0 →
    let home := hqSlate (dgNumber d)
    home = d.port → CanSend s home d.cls → Uncounted s home →
    c ∈ [Instr.rmaRead d, .rmaWrite d, .rmaAadd d, .rmaAcas d, .rmaAcas128 d, .rmaCopy d, .rmaCopyWr d] →
    let busy (st : Status) : Prop := Answers c s fun u => u.hbm = s.hbm ∧ u.copies = s.copies ∧
      Sends s u fun y => y.type = tyBusy ∧ y.status = st ∧ y.nonce = d.nonce ∧ y.hqTag = d.hqTag
    let ends (st : Status) : Prop := Answers c s fun u => u.hbm = s.hbm ∧ u.copies = s.copies ∧
      Sends s u fun y => y.type = tyRmaResp ∧ y.status = st ∧ y.nonce = d.nonce ∧ y.hqTag = d.hqTag ∧ y.offset = d.offset ∧
        y.payload = beBytes 2 st.toNat ++ List.replicate (6 + rmaResultLen (rmaOp d)) 0
    let inBounds : Prop := k.lo.toNat ≤ d.offset.toNat ∧ d.offset.toNat + rmaLen (opened k d) ≤ k.hi.toNat
    let right : Prop := k.mode ≠ 1 ∧ ∀ b, rmaRight (rmaOp d) = some b → k.rights.getLsbD b = true
    (¬ inBounds → busy St.bounds) ∧ (inBounds → ¬ right → busy St.rights) ∧
    (inBounds → right → servesIo s = false → busy St.notServing) ∧
    (inBounds → right → servesIo s = true →
      (windowOf s (dgNumber d) = none → busy St.noContext) ∧
      (∀ x, windowOf s (dgNumber d) = some x →
        (x.gen ≠ k.gen → busy St.keyStale) ∧
        (x.gen = k.gen → (∀ p ∈ rotOf s home, rotDue s home p.2 = false) →
          (∀ i e, rotFind s home d = some (i, e) →
            (e.done = none → Answers c s fun u => u.hbm = s.hbm ∧ u.frames = s.frames) ∧
            (∀ st r, e.done = some (st, r) → Answers c s fun u => u.hbm = s.hbm ∧
              getF u home F.RMA.DUP_RESENT = (getF s home F.RMA.DUP_RESENT + 1) % 2 ^ F.RMA.DUP_RESENT.w ∧
              Sends s u fun y => y.type = tyRmaResp ∧ y.status = St.duplicate ∧ y.nonce = d.nonce ∧
                y.payload = beBytes 2 st.toNat ++ List.replicate 6 0 ++ r)) ∧
          (rotFind s home d = none → (rotOf s home).length < 32768 → copiesOf s home = [] →
            (rmaForm s (opened k d) home = false → ends St.illegalField) ∧
            (rmaForm s (opened k d) home = true → x.pages * 4096 < d.offset.toNat + rmaLen (opened k d) → ends St.outOfRange)))))

/-- Unit-to-unit copy and the expiries of remote memory (R260, R266, R268 to R270, R312): RMA_COPY to another unit starts a copy
whose first chunk is the bytes at the start of its range; an answer that ends it, or 400 ms without one, gives the RMA_RESP with
the status and the bytes acknowledged; NOT_SERVING from the first bay turns the chunk to the other; a chunk is sent again after
1 ms; a done entry of the table and a destroyed window's index are free again after their time. -/
def Obligations.CopiesAndExpiries : Prop :=
  (∀ (s : State) (d : Datagram) (k : KeyEntry) (x : Window), Proved s d k → d.keyId.toNat / 256 % 256 = k.gen.toNat →
    d.cls = 2 ∨ d.cls = 1 → k.window = true → k.bind = dgNumber d → k.mode ≠ 1 → k.rights.getLsbD 3 = true → servesIo s = true →
    headerOk s d tyRmaReq false false = true → d.slot = 0 → k.lo.toNat ≤ d.offset.toNat → d.offset.toNat + rmaLen (opened k d) ≤ k.hi.toNat →
    windowOf s (dgNumber d) = some x → x.gen = k.gen → d.offset.toNat + rmaLen (opened k d) ≤ x.pages * 4096 →
    let home := hqSlate (dgNumber d)
    serving s home = true → rotOf s home = [] → copiesOf s home = [] → s.poison = [] → rmaForm s (opened k d) home = true → rmaOp d = 6 →
    BitVec.ofNat 16 (beNat (blockSlice (opened k d).payload 0 2)) ≠ s.chain.ua →
    Answers (.rmaCopy d) s fun u => u.hbm = s.hbm ∧ ∃ c h, copyOf u home 0 = some c ∧ tabGet c.chunks 0 = some h ∧ c.request = opened k d ∧ c.len = rmaLen (opened k d) ∧
      c.dstWin = beNat (blockSlice (opened k d).payload 4 4) ∧ c.dstOff = beNat (blockSlice (opened k d).payload 16 8) ∧
      h.off = 0 ∧ h.acked = false ∧ h.data = hbmRead s (memAddr home (x.base + d.offset.toNat)) h.data.length) ∧
  (∀ (s : State) (sl id i : Nat) (c : Copy) (h : Chunk) (e : RotEntry), CanSend s sl c.request.cls → copyOf s sl id = some c →
    tabGet c.chunks i = some h → h.acked = false → tabGet (rotOf s sl) c.rotIdx = some e →
    let ends (r : Instr) (st : Status) : Prop := Answers r s fun u => copyOf u sl id = none ∧
      (∃ e', tabGet (rotOf u sl) c.rotIdx = some e' ∧ e'.done = some (st, beBytes 8 (copyDone c))) ∧
      Sends s u fun y => y.type = tyRmaResp ∧ y.status = st ∧ y.nonce = c.request.nonce ∧
        y.payload = beBytes 2 st.toNat ++ List.replicate 6 0 ++ beBytes 8 (copyDone c)
    (∀ st, st ≠ St.ok → st ≠ St.notServing ∨ h.moved = true → ends (.copyChunkAnswer sl id i st) st) ∧
    (h.moved = false → Answers (.copyChunkAnswer sl id i St.notServing) s fun u => ∃ c' h', copyOf u sl id = some c' ∧
      tabGet c'.chunks i = some h' ∧ h'.bay = 1 - h.bay ∧ h'.moved = true ∧ h'.acked = false ∧ h'.data = h.data) ∧
    (h.last + 1000000 ≤ now s sl → now s sl < h.first + 400000000 → Answers (.copyChunkResend sl id i) s fun u => ∃ c' h',
      copyOf u sl id = some c' ∧ tabGet c'.chunks i = some h' ∧ h' = { h with last := now s sl }) ∧
    (now s sl < h.last + 1000000 ∨ h.first + 400000000 ≤ now s sl → exec (.copyChunkResend sl id i) s = .next s) ∧
    (h.first + 400000000 ≤ now s sl → ends (.copyChunkTimeout sl id i) St.notServing) ∧
    (now s sl < h.first + 400000000 → exec (.copyChunkTimeout sl id i) s = .next s)) ∧
  (∀ (s : State) (sl i : Nat) (e : RotEntry), serving s sl = true → tabGet (rotOf s sl) i = some e →
    (e.done ≠ none → e.arrival + e.horizon ≤ now s sl → Answers (.rotHorizonExpiry sl i) s fun u =>
      tabGet (rotOf u sl) i = none ∧ ∀ j, j ≠ i → tabGet (rotOf u sl) j = tabGet (rotOf s sl) j) ∧
    (e.done = none ∨ now s sl < e.arrival + e.horizon → exec (.rotHorizonExpiry sl i) s = .next s)) ∧
  (∀ (s : State) (sl i t : Nat), serving s sl = true → tabGet s.availAt (winNo sl i) = some t →
    (t ≤ now s sl → Answers (.windowAvailExpiry sl i) s fun u => winAvail u sl i = true) ∧
    (now s sl < t → exec (.windowAvailExpiry sl i) s = .next s))

/-! ### Network ports, READY, pause and PTP (R14, R126, R127, R129, R130) -/

/-- READY_REPEAT sends READY again each second while repeats are left; PAUSE_TIMEOUT ends the start-up pause PAUSE_MAX after the first port trained;
PORT_TRAINED brings a sub-port up and, before READY, pauses its classes; LINK_DOWN takes it down; PFC_PAUSE_RX notes and ends a peer's pause of a class the
port carries; PAUSE_REFRESH sends the pause in force again; PORT_RECONFIGURE writes the port's settings, and retrains where they change (R126, R127, R130).
PTP_SYNC at the time receiver, in its domain, by its transport and from the best time transmitter, locks it and gives OFFSET; the first steps every TB forward by as much as the receiver's is
behind, and every later one only sets what TB is to slew by. Elsewhere it does nothing. PTP_LOSS, 3 s after the last Sync, ends
the lock and the slewing (R14, R129). -/
def Obligations.PortsAndPause : Prop :=
  ((∀ s : State, serving s 0 = true →
     let due : Prop := 0 < s.ready.left ∧ s.ready.lastTb + 1000000000 ≤ now s 0
     (due → Answers .readyRepeat s fun u => u.ready.left = s.ready.left - 1 ∧ u.ready.lastTb = now s 0) ∧
     (¬ due → exec .readyRepeat s = .next s)) ∧
   (∀ (s : State) (t : Nat), serving s 0 = true → s.ready.trained = some t → s.pin.shadows = [] →
     let due : Prop := s.ready.sentTb = none ∧ s.ready.timedOut = false ∧ t + getF s 0 F.XPORT.PAUSE_MAX * 100000000 ≤ now s 0
     (due → Answers .pauseTimeout s fun u => u.pauseBoot = [] ∧ u.ready.timedOut = true ∧ Detected u 0 Ev.PAUSE_TIMEOUT) ∧
     (¬ due → exec .pauseTimeout s = .next s)) ∧
   (∀ (s : State) (sl k : Nat), serving s sl = true →
     let up : Prop := bitOf (getF s sl F.PORT.LINK_UP) k = true
     (¬ up → isF s sl F.PORT.ADMIN_UP = true → k < 2 ^ getF s sl F.PORT.BREAKOUT → Answers (.portTrained sl k) s fun u =>
       bitOf (getF u sl F.PORT.LINK_UP) k = true ∧
       (∀ i, i ≠ k → bitOf (getF u sl F.PORT.LINK_UP) i = bitOf (getF s sl F.PORT.LINK_UP) i) ∧
       Pending u sl Ev.LINK_UP ∧ (s.ready.trained = none → u.ready.trained = some (now s 0)) ∧
       (s.ready.sentTb = none → s.ready.timedOut = false → s.chain.chain ≠ 0x3FF → tabGet u.pauseBoot sl = some 0xE) ∧
       (s.ready.sentTb ≠ none ∨ s.ready.timedOut = true ∨ s.chain.chain = 0x3FF → u.pauseBoot = s.pauseBoot)) ∧
     (up ∨ isF s sl F.PORT.ADMIN_UP = false ∨ 2 ^ getF s sl F.PORT.BREAKOUT ≤ k → exec (.portTrained sl k) s = .next s) ∧
     (¬ up → exec (.linkDown sl k) s = .next s) ∧
     (up → s.pin.shadows = [] → Answers (.linkDown sl k) s fun u => bitOf (getF u sl F.PORT.LINK_UP) k = false ∧
       (∀ i, i ≠ k → bitOf (getF u sl F.PORT.LINK_UP) i = bitOf (getF s sl F.PORT.LINK_UP) i) ∧ Detected u sl Ev.LINK_DOWN ∧
       (getF s sl F.PORT.LINK_UP = 2 ^ k → ∀ c < 8, tabGet u.peerPause (sl * 8 + c) = none))) ∧
   (∀ (s : State) (sl c : Nat), serving s sl = true → c < 8 →
     let paused := tabGet s.peerPause (sl * 8 + c)
     (Answers (.pfcPauseRx sl c false) s fun u => tabGet u.peerPause (sl * 8 + c) = none) ∧
     (bitOf (getF s sl F.PORT.PFC_EN) c = true → paused = none → Answers (.pfcPauseRx sl c true) s fun u =>
       tabGet u.peerPause (sl * 8 + c) = some { since := now s sl, raised := false }) ∧
     (bitOf (getF s sl F.PORT.PFC_EN) c = false ∨ paused ≠ none → exec (.pfcPauseRx sl c true) s = .next s) ∧
     (pausing s sl ≠ 0 → Answers (.pauseRefresh sl) s fun u => tabGet u.pauseAt sl = some
       { tb := now s sl, classes := pausing s sl, quanta := getF s sl F.PORT.PAUSE_QUANTA }) ∧
     (pausing s sl = 0 → exec (.pauseRefresh sl) s = .next s)) ∧
   (∀ (s : State) (sl : Nat) (v : Word), serving s sl = true →
     (legal s sl 0x03 0 v = false → exec (.portReconfigure sl v) s = .next s) ∧
     (legal s sl 0x03 0 v = true → Answers (.portReconfigure sl v) s fun u =>
       getF u sl F.PORT.MTU = fv v F.PORT.MTU ∧ getF u sl F.PORT.BREAKOUT = fv v F.PORT.BREAKOUT ∧
       getF u sl F.PORT.ADMIN_UP = fv v F.PORT.ADMIN_UP ∧ getF u sl F.PORT.IPV4_EN = fv v F.PORT.IPV4_EN ∧
       (getF s sl F.PORT.MTU ≠ fv v F.PORT.MTU ∨ getF s sl F.PORT.BREAKOUT ≠ fv v F.PORT.BREAKOUT ∨
         getF s sl F.PORT.ADMIN_UP ≠ fv v F.PORT.ADMIN_UP → getF u sl F.PORT.LINK_UP = 0) ∧
       (getF s sl F.PORT.MTU = fv v F.PORT.MTU → getF s sl F.PORT.BREAKOUT = fv v F.PORT.BREAKOUT →
         getF s sl F.PORT.ADMIN_UP = fv v F.PORT.ADMIN_UP → getF u sl F.PORT.LINK_UP = getF s sl F.PORT.LINK_UP)))) ∧
  ((∀ (s : State) (sl : Nat) (x : PtpMessage), serving s sl = true →
     let follows : Prop := ptpSlate s = some sl ∧ getF s sl F.PORT.PTP_DOMAIN = x.domain ∧ getF s sl F.PORT.PTP_TRANSPORT = x.transport ∧ x.best = true
     let off : Int := (now s sl : Int) - (x.time.toNat : Int)
     (¬ follows → exec (.ptpSync sl x) s = .next s) ∧
     (follows → Answers (.ptpSync sl x) s fun u => getF u sl F.PORT.LOCKED = 1 ∧
       (-(2 ^ 31 : Int) ≤ off → off < 2 ^ 31 → getF u sl F.PORT.OFFSET = (off % 2 ^ 32).toNat) ∧
       (s.tbStepped = true → u.tb = s.tb ∧ u.slew = -off ∧ u.ptpSync = some (now s sl)) ∧
       (s.tbStepped = false → u.tbStepped = true ∧ getF u sl F.PORT.STEPPED = 1 ∧
         ∀ y < s.n, now u y = (now s y + (x.time.toNat - now s sl)) % 2 ^ 64) ∧
       (isF s sl F.PORT.LOCKED = false → Pending u sl Ev.PTP_LOCK))) ∧
   (∀ (s : State) (sl t : Nat), serving s 0 = true → ptpSlate s = some sl → s.ptpSync = some t → s.pin.shadows = [] →
     let due : Prop := isF s sl F.PORT.LOCKED = true ∧ t + 3000000000 ≤ now s sl
     (due → Answers .ptpLoss s fun u => getF u sl F.PORT.LOCKED = 0 ∧ u.slew = 0 ∧ u.tb = s.tb ∧ Detected u sl Ev.PTP_LOSS) ∧
     (¬ due → exec .ptpLoss s = .next s)))

/-! ### The switch core and the scheduler (R124, R125, R223 to R258) -/

/-- FRAME_ARRIVAL at a network port whose link is up: a bad check hits FEC_UNCORR, a class the port does not carry is counted in
CLASS_DROP, exhausted headroom in HDRM_DROPS with HDRM_OVF, and a frame for a slate that can be reached enters the buffer with
its class and path. At a fabric port a bad check is counted in RETRIES, a frame that the lane has no credit for stays with its sender, and
another enters with the path it carries; at an internal port the block keeps the frame while the
port and class have no room for it. A frame that no port takes, or in a class its traffic does not travel in, changes nothing (R125, R224,
R225, R226, R231, R234 to R236; log entry 45). -/
def Obligations.FrameArrival : Prop :=
  ∀ (s : State) (f : FrameIn), serving s f.slate = true → s.pin.shadows = [] → Uncounted s f.slate →
    let sl := f.slate
    let none' : Prop := exec (.frameArrival f) s = .next s
    let up : Prop := bitOf (getF s sl F.PORT.LINK_UP) f.sub = true
    let c := if isF s sl F.PORT.PRIO_SRC = true then getF s sl (F.PORT.CLASS (f.dscp / 16 % 4) (f.dscp % 16)) else f.pcp % 8
    let b := f.pcp % 8
    let sized : Prop := f.bytes ≤ 9238 ∧ f.port ≤ 14 ∧ f.dst < s.n
    let free (c : Nat) : Prop := f.exempt = true ∨ polClass c = false ∨ isF s sl (F.SCHED.POL_EN c) = false
    let holds (u : State) (c : Nat) (p : List (Nat × Nat)) (lane : Nat) : Prop := ∃ x, tabGet u.frames s.nextFrame = some x ∧
      x.slate = sl ∧ x.inPort = f.port ∧ x.cls = c ∧ x.bytes = f.bytes ∧ x.dst = f.dst ∧ x.path = p ∧ x.lane = lane ∧
      x.stalled = false ∧ x.outs = [match p with | (_, l) :: _ => (10 + l, 0) | [] => (f.dstPort, f.dstSub)]
    let enters (c : Nat) : Prop := ∀ p lane,
      pathOf s sl f.dst (flowHash (flowKey c f.home f.dst f.kind f.ident) (getF s sl F.SWITCH.FLOW_SEED)) = some (p, lane) →
      serving s f.dst = true → f.copies = 0 → p ≠ [] ∨ f.dstPort ≠ 0 → Answers (.frameArrival f) s fun u => holds u c p lane
    (¬ sized → none') ∧
    (sized → f.port = 0 →
      (¬ up → none') ∧
      (up → f.checkOk = false → Answers (.frameArrival f) s fun u => Detected u sl Ev.FEC_UNCORR) ∧
      (up → f.checkOk = true → free c →
        (c = 0 ∨ c = 4 ∨ c = 5 ∨ c = 6 → exec (.frameArrival f) s = .next (bump s sl F.XPORT.CLASS_DROP)) ∧
        (c = 1 ∨ c = 2 ∨ c = 3 ∨ c = 7 →
          let full : Prop := 16 * getF s sl F.SWITCH.HDRM < headCells s sl c + (cellsOf f.bytes - cellRoom s sl 0 c)
          (frameFits f c = false → none') ∧
          (frameFits f c = true → full → Answers (.frameArrival f) s fun u => Counted s u sl F.SWITCH.HDRM_DROPS ∧
            Detected u sl Ev.HDRM_OVF) ∧
          (frameFits f c = true → ¬ full → enters c)))) ∧
    (sized → 10 ≤ f.port → f.port ≤ 13 →
      let l := f.port - 10
      (linkUp s sl l = false ∨ frameFits f b = false → none') ∧
      (linkUp s sl l = true → frameFits f b = true →
        (f.checkOk = false → Answers (.frameArrival f) s fun u => Counted s u sl (F.FABRIC.RETRIES l) ∧ Detected u sl Ev.FLINK_RETRY) ∧
        (f.checkOk = true → laneCredit s sl f.port b f.lane (cellsOf f.bytes) = false → none') ∧
        (f.checkOk = true → laneCredit s sl f.port b f.lane (cellsOf f.bytes) = true → f.copies = 0 → serving s f.dst = true →
          (leadsTo s.n sl f.dst f.path = false → none') ∧
          (leadsTo s.n sl f.dst f.path = true → (∀ h ∈ f.path, linkUp s h.1 h.2 = true) → f.path ≠ [] ∨ f.dstPort ≠ 0 →
            Answers (.frameArrival f) s fun u => holds u b f.path f.lane)))) ∧
    (sized → 1 ≤ f.port → f.port ≤ 9 ∨ (f.port = 14 ∧ sl < 2) →
      let behind : Prop := ∃ x ∈ s.frames, x.1 < s.nextFrame ∧ x.2.stalled = true ∧ x.2.slate = sl ∧ x.2.inPort = f.port ∧ x.2.cls = b
      (frameFits f b = false → none') ∧
      (frameFits f b = true → cellsOf f.bytes ≤ cellRoom s sl f.port b → ¬ behind → enters b) ∧
      (frameFits f b = true → cellRoom s sl f.port b < cellsOf f.bytes ∨ behind → Answers (.frameArrival f) s fun u =>
        ∃ x, tabGet u.frames s.nextFrame = some x ∧ x.stalled = true ∧ x.outs = [] ∧ x.slate = sl ∧ x.inPort = f.port ∧ x.cls = b ∧
          x.bytes = f.bytes))

/-- The policer of a class and POLICER_RESET (R256, R257): a frame at an enabled policer passes while its bytes do not exceed the
tokens, which rise by RATE each nanosecond up to BURST until its first byte; else it is dropped and counted; a changed setting sets the tokens as
POL_FULL says. QUEUE_CREDIT_RESET: a changed IDLE_SLOPE, HI_CREDIT or PRIV sets a network queue's credit as CR_FULL says (R250). -/
def Obligations.PolicersAndCredits : Prop :=
  (∀ (s : State) (f : FrameIn), serving s f.slate = true → Uncounted s f.slate → f.port = 0 → f.bytes ≤ 9238 → f.dst < s.n →
    bitOf (getF s f.slate F.PORT.LINK_UP) f.sub = true → f.checkOk = true → f.exempt = false → isF s f.slate F.PORT.PRIO_SRC = false →
    let sl := f.slate
    let c := f.pcp % 8
    let p := policerOf s sl c
    let tokens := min (getF s sl (F.SCHED.BURST c) * 51200) (p.tokens + getF s sl (F.SCHED.RATE c) * (f.sof - p.tLast))
    polClass c = true → isF s sl (F.SCHED.POL_EN c) = true →
    (tokens < f.bytes * 800 → Answers (.frameArrival f) s fun u => Counted s u sl (F.SCHED.POL_DROPS c) ∧
      policerOf u sl c = { tokens := tokens, tLast := f.sof, lastDrop := some f.sof } ∧
      (p.lastDrop = none → s.pin.shadows = [] → Detected u sl Ev.POLICE_DROP)) ∧
    (f.bytes * 800 ≤ tokens → Answers (.frameArrival f) s fun u => Counted s u sl (F.SCHED.POL_PASSED c) ∧
      (policerOf u sl c).tokens = tokens - f.bytes * 800 ∧ (policerOf u sl c).tLast = f.sof)) ∧
  (∀ (s : State) (sl c : Nat) (v : Word), serving s sl = true → c < 8 → polClass c = true →
    (legal s sl 0x07 (0x300 + c) v = false → exec (.policerReset sl c v) s = .next s) ∧
    (legal s sl 0x07 (0x300 + c) v = true → Answers (.policerReset sl c v) s fun u =>
      getF u sl (F.SCHED.RATE c) = fv v (F.SCHED.RATE c) ∧ getF u sl (F.SCHED.BURST c) = fv v (F.SCHED.BURST c) ∧
      (fv v (F.SCHED.RATE c) ≠ getF s sl (F.SCHED.RATE c) → (policerOf u sl c).tLast = now s sl ∧
        (policerOf u sl c).tokens = if fv v (F.SCHED.POL_FULL c) = 1 then fv v (F.SCHED.BURST c) * 51200 else 0))) ∧
  (∀ (s : State) (sl c : Nat) (v : Word), serving s sl = true → c = 1 ∨ c = 2 ∨ c = 3 ∨ c = 7 →
    (legal s sl 0x07 (0x100 + c) v = false → exec (.queueCreditReset sl 0 c v) s = .next s) ∧
    (legal s sl 0x07 (0x100 + c) v = true → fv v (F.SCHED.HI_CREDIT c) ≠ getF s sl (F.SCHED.HI_CREDIT c) →
      Answers (.queueCreditReset sl 0 c v) s fun u => ∀ k < 8, (queueOf (outOf u sl 0 k) c).credit =
        if fv v (F.SCHED.CR_FULL c) = 1 then 51200 * (fv v (F.SCHED.HI_CREDIT c) : Int) else 0))

/-- OUTPUT_SELECT of a network sub-port: while a frame is being sent, or with nothing queued, no frame leaves; where one class
alone, ordinary or privileged with credit, has a frame at its head that may start, that frame leaves and the sub-port is busy for
its transmission time. WHEEL_SLOT tests the queues whose slot has come (R242 to R248). -/
def Obligations.OutputSelection : Prop :=
  (∀ (s : State) (sl k : Nat), serving s sl = true → k < 8 → Uncounted s sl →
    let o := outOf s sl 0 k
    (now s sl * 1000 < o.freeAt → exec (.outputSelect sl 0 k) s = .next s) ∧
    (o.freeAt ≤ now s sl * 1000 → (∀ c, (queueOf o c).frames = []) → Answers (.outputSelect sl 0 k) s fun u =>
      u.frames = s.frames ∧ u.wire = s.wire) ∧
    (∀ c id r f d, o.freeAt ≤ now s sl * 1000 → 1 ≤ c → c ≤ 7 → (queueOf o c).frames = id :: r →
      (∀ c', c' ≠ c → (queueOf o c').frames = []) → tabGet s.frames id = some f → f.outs = [(0, k)] → f.group = none →
      f.dgram = some d → tabGet s.peerPause (sl * 8 + c) = none → gateOpen s sl 0 c (now s sl) (txPs s sl 0 f.bytes) = true →
      (isPriv s sl 0 c = false ∨ ((queueOf o c).slotTb = none ∧ 0 ≤ (queueOf o c).credit ∧ (queueOf o c).creditTb = now s sl)) →
      Answers (.outputSelect sl 0 k) s fun u => u.wire = s.wire ++ [d] ∧ tabGet u.frames id = none ∧
        (outOf u sl 0 k).freeAt = now s sl * 1000 + (f.bytes + 20) * 800000 / rateOf s sl 0)) ∧
  (∀ (s : State) (sl p k c x : Nat), serving s sl = true → c < 8 → (queueOf (outOf s sl p k) c).slotTb = some x →
    (now s sl < x → Answers (.wheelSlot sl p k) s fun u => queueOf (outOf u sl p k) c = queueOf (outOf s sl p k) c) ∧
    (x ≤ now s sl → isPriv s sl p c = true → (queueOf (outOf s sl p k) c).frames ≠ [] → gateAt s sl p c (now s sl) = true →
      let q := queueOf (outOf s sl p k) c
      let credit := max q.credit (min (51200 * (getF s sl (F.SCHED.HI_CREDIT (qn p c)) : Int))
        (q.credit + (getF s sl (F.SCHED.IDLE_SLOPE (qn p c)) : Int) * ((now s sl - q.creditTb : Nat) : Int)))
      Answers (.wheelSlot sl p k) s fun u => (queueOf (outOf u sl p k) c).credit = credit ∧
        (queueOf (outOf u sl p k) c).creditTb = now s sl ∧ (0 ≤ credit → (queueOf (outOf u sl p k) c).slotTb = none)))

/-- GL_INSTALL, GATE_TAKEOVER, GATE_LIST_ENTRY and GL_DISABLE (R251 to R254): a legal install puts the staged list in force at its
BASE, or at the first whole number of cycles after it that is 2 µs away; at that TB it takes over; the entry in force follows TB;
and clearing GL_EN discards every list. PEER_PAUSE_EXPIRY discards a class whose peer has paused it for longer than
PEER_PAUSE_MAX (R235).
FABRIC_LINK_ERROR retrains a link that is up under a shadow of 10 us, and FABRIC_LINK_DOWN, once that is over, declares it down at both ends;
FABRIC_LINK_TRAINED brings it up at both; PARTNER_LANE_ERROR opens a shadow of 20 us (R230, R241, R324). MULTICAST_DONE hands over the result of a multicast with no copy
left; LOOKUP_WAIT_RELEASE queues a frame once no older one of its table version or flow is ahead; SWB notes TVER, and SWB_DONE ends the barrier once no frame of it is
left (R237 to R239). -/
def Obligations.GatesLinksAndBarrier : Prop :=
  ((∀ (s : State) (sl : Nat) (v : Word), serving s sl = true →
     let x := withF v F.SCHED.GL_INSTALL 1
     let y := withF (withF v F.SCHED.GL_INSTALL 0) F.SCHED.GL_EN 0
     (legal s sl 0x07 0x240 x = false → exec (.glInstall sl v) s = .next s) ∧
     (legal s sl 0x07 0x240 x = true → Answers (.glInstall sl v) s fun u => ∃ l,
       (gatesOf u sl).pend = some l ∧ (gatesOf u sl).oper = (gatesOf s sl).oper ∧ l.entries = stagedGates u sl ∧
       l.cycle = getF s sl F.SCHED.CYCLE ∧ (∃ m, l.start = getF s sl F.SCHED.BASE + m * l.cycle ∧ now s sl + 2000 ≤ l.start ∧
         (m = 0 ∨ l.start < now s sl + 2000 + l.cycle))) ∧
     (legal s sl 0x07 0x240 y = true → Answers (.glDisable sl v) s fun u => (gatesOf u sl).oper = none ∧ (gatesOf u sl).pend = none)) ∧
   (∀ (s : State) (sl : Nat) (l : GateList), serving s sl = true →
     ((gatesOf s sl).pend = none → exec (.gateTakeover sl) s = .next s) ∧
     ((gatesOf s sl).pend = some l → (now s sl < l.start → exec (.gateTakeover sl) s = .next s) ∧
       (l.start ≤ now s sl → Answers (.gateTakeover sl) s fun u =>
         gatesOf u sl = { oper := some l, pend := none, entry := 0 } ∧ Pending u sl Ev.GL_TAKEOVER)) ∧
     ((gatesOf s sl).oper = some l → Answers (.gateListEntry sl) s fun u =>
       (gatesOf u sl).entry = (entryAt l.entries 0 ((now s sl - l.start) % l.cycle)).1 ∧ (gatesOf u sl).oper = some l ∧
       (gatesOf u sl).pend = (gatesOf s sl).pend)) ∧
   (∀ (s : State) (sl c : Nat) (p : PeerPause), serving s sl = true → c < 8 → tabGet s.peerPause (sl * 8 + c) = some p →
     s.pin.shadows = [] →
     let limit := getF s sl F.SWITCH.PEER_PAUSE_MAX
     let late : Prop := p.raised = false ∧ limit ≠ 0 ∧ p.since + limit * 1000000 ≤ now s sl
     (late → Answers (.peerPauseExpiry sl c) s fun u => tabGet u.peerPause (sl * 8 + c) = some { p with raised := true } ∧
       Detected u sl Ev.PEER_PAUSE) ∧
     (¬ late → exec (.peerPauseExpiry sl c) s = .next s))) ∧
  ((∀ (s : State) (sl l : Nat), Variant s → serving s sl = true → l < 4 → s.pin.shadows = [] →
     let opens (u : State) (kind : ShadowKind) (ns : Nat) : Prop :=
       u.pin.shadows = [(0, { kind := kind, slate := sl, opened := now s sl, limit := now s sl + ns })]
     let x := linkNeigh s.n sl l
     let pl := peerLink s.n l
     (linkUp s sl l = true → (linkOf s sl l).retrain = none → Answers (.fabricLinkError sl l) s fun u =>
       linkOf u sl l = { up := true, retrain := some (now s sl) } ∧ opens u (.fabric l) 10000) ∧
     (linkUp s sl l = false ∨ (linkOf s sl l).retrain ≠ none → exec (.fabricLinkError sl l) s = .next s) ∧
     (∀ t, linkOf s sl l = { up := true, retrain := some t } → serving s x = true →
       (now s sl < t + 10000 → exec (.fabricLinkDown sl l) s = .next s) ∧
       (t + 10000 ≤ now s sl → (∀ b, b ≠ sl → serving s b = true → pathOf (linkDead s sl l) sl b 0 ≠ none) →
         Answers (.fabricLinkDown sl l) s fun u => (linkOf u sl l).up = false ∧ (linkOf u x pl).up = false ∧ u.lost = s.lost ∧
           Counted s u sl (F.FABRIC.DOWNS l) ∧ Detected u sl Ev.FLINK_DOWN ∧
           Counted s u x (F.FABRIC.DOWNS pl) ∧ Detected u x Ev.FLINK_DOWN)) ∧
     (serving s x = true → Answers (.fabricLinkTrained sl l) s fun u => linkOf u sl l = { up := true, retrain := none } ∧
       linkOf u x pl = { up := true, retrain := none } ∧
       ((linkOf s sl l).up = false → Pending u sl Ev.FLINK_UP ∧ Pending u x Ev.FLINK_UP)) ∧
     (serving s x = false → exec (.fabricLinkTrained sl l) s = .next s) ∧
     (sl ≤ 1 → Answers (.partnerLaneError sl) s fun u => opens u .partner 20000)) ∧
   (∀ (s : State) (sl : Nat), serving s sl = true →
     (1 < sl → exec (.partnerLaneError sl) s = .next s) ∧
     (∀ id m, tabGet s.mcast id = some m →
       (m.slate = sl → m.left = 0 → Answers (.multicastDone sl id) s fun u => tabGet u.mcast id = none ∧
         tabGet u.mcResult id = some m.result) ∧
       (m.slate ≠ sl ∨ m.left ≠ 0 → exec (.multicastDone sl id) s = .next s)) ∧
     (∀ id f, tabGet s.frames id = some f → f.slate = sl → f.waiting = true → f.stalled = false →
       (olderFrames s f.home f.cls f.dst f.tver = true ∨ flowAhead s id f.home f.key f.path = true → exec (.lookupWaitRelease sl id) s = .next s) ∧
       (olderFrames s f.home f.cls f.dst f.tver = false → flowAhead s id f.home f.key f.path = false → (∀ o ∈ f.outs, o.1 ≠ 0) → f.outs ≠ [] →
         Answers (.lookupWaitRelease sl id) s fun u => tabGet u.frames id = some { f with waiting := false } ∧
           ∀ o ∈ f.outs, id ∈ (queueOf (outOf u sl o.1 o.2) f.cls).frames)) ∧
     (∀ v, legal s sl 0x04 2 (withF v F.SWITCH.SWB 1) = true → Answers (.swb sl v) s fun u =>
       tabGet u.barrier sl = some (getF s sl F.SWITCH.TVER)) ∧
     (∀ b, tabGet s.barrier sl = some b →
       (barrierHeld s sl b = true → exec (.swbDone sl) s = .next s) ∧
       (barrierHeld s sl b = false → Answers (.swbDone sl) s fun u => tabGet u.barrier sl = none ∧ Pending u sl Ev.SWB_DONE))))

/-! ### Courses and the journal (R155 to R205) -/

/-- The life of a course (R169 to R175): FILL_WINDOW_EXPIRY seals an open course whose window has passed and pads it; LEAD_HANDOVER
passes a lead to the next slate with room; COURSE_POUR, once the COURSE record is confirmed and its owner has three holders, issues
the strip write to every destination whose zone has its turn; STRIP_WRITE_DONE puts the strip on its member; STRIP_WRITE_FAIL retires the course and fails the member; COURSE_DURABLE
ends the pour in UCN order; COURSE_RELEASE frees a retired course that no job and no rebuild holds. Each does nothing before its time. -/
def Obligations.CourseLife : Prop :=
  ∀ (s : State) (l : Layout) (k : Nat) (c : Course), serving s 0 = true → s.layout = some l → courseOf s k = some c →
    (l.zoned = true → 0 < l.runBands) →
    let due : Prop := c.st = .opened ∧ c.t0 + c.window ≤ now s c.slate
    let free : Prop := c.st = .retired ∧ inRebuild s k c = false ∧ ∀ j ∈ c.holdJobs, jobOf s j = none
    let after (i x : Nat) : Nat := ((leadOf s i).slate + 1 + x) % s.n
    (¬ due → exec (.fillWindowExpiry k) s = .next s) ∧
    (due → Answers (.fillWindowExpiry k) s fun u => ∃ c', courseOf u k = some c' ∧ c'.st = .sealed ∧
      c'.grains = c.grains ++ List.replicate (dataGrains l - c.grains.length) padGrain) ∧
    (∀ i sl, i < 3 → (leadOf s i).handover = true → (leadOf s i).waiting = [] →
      ((∀ x < s.n, hasRoom s l (after i x) = false) → exec (.leadHandover i) s = .next s) ∧
      (∀ x < s.n, after i x = sl → hasRoom s l sl = true → (∀ y < x, hasRoom s l (after i y) = false) →
        Answers (.leadHandover i) s fun u => leadOf u i = { leadOf s i with slate := sl, handover := false } ∧
          ∀ o, o ≠ i → leadOf u o = leadOf s o)) ∧
    (∀ q, c.st = .sealed → c.recSeq = some q →
      (recConfirmed s c.slate q = false → exec (.coursePour k) s = .next s) ∧
      (recConfirmed s c.slate q = true → isF s 0 F.FPIN.C4 = false → ownerShort s c.slate = false → sharePours s c = true →
        (∀ p ∈ c.strips, inService s p.2.member = true ∧ hasPath s p.2.member = true) →
        Answers (.coursePour k) s fun u => (∃ c', courseOf u k = some c' ∧ c'.st = .pouring ∧ c'.swept = true) ∧
          ∀ p ∈ c.strips, p.2.issued = false → zoneReady s l k p.2 = true →
            ∃ id x, tabGet (memberOf u p.2.member).cmds id = some x ∧ x.use = .strip k p.1 ∧
              x.opcode = (if p.2.zeroes then 8 else 1) ∧ x.fua = true ∧ x.lba = slotLba s p.2.member p.2.slot)) ∧
    (∀ pos t, tabGet c.strips pos = some t →
      (c.st ≠ .pouring ∨ t.done = true ∨ t.issued = false → exec (.stripWriteDone k pos) s = .next s ∧ exec (.stripWriteFail k pos) s = .next s) ∧
      (c.st = .pouring → t.done = false → t.issued = true → Answers (.stripWriteDone k pos) s fun u =>
        (∃ c' t', courseOf u k = some c' ∧ tabGet c'.strips pos = some t' ∧ t'.done = true) ∧
        ∀ x < 32, mediaRead u t.member t.slot x = blockTrim ((stripData l c pos).getD x [])) ∧
      (c.st = .pouring → t.done = false → t.issued = true → (memberOf s t.member).mstate = 2 →
        Answers (.stripWriteFail k pos) s fun u => (memberOf u t.member).mstate = 3 ∧
          ∃ c', courseOf u k = some c' ∧ c'.st = .retired)) ∧
    ((durableDue s c = false → exec (.courseDurable k) s = .next s) ∧
      (durableDue s c = true → (∀ p ∈ s.owners, p.2.recs.length < 64 ∧
          ∀ r ∈ p.2.recs, r.confirmed = true → recUcn r.body ≤ c.ucn.getD s.ucnDone) →
        Answers (.courseDurable k) s fun u => u.ucnDone = c.ucn.getD s.ucnDone ∧ ∃ c', courseOf u k = some c' ∧ (c'.st = .durable ∨ c'.st = .retired))) ∧
    (¬ free → exec (.courseRelease k) s = .next s) ∧
    (free → s.repourWait = [] → Answers (.courseRelease k) s fun u =>
      ∀ c', courseOf u k = some c' → l.zoned = true ∧ c'.st = .released)

/-- HOLDER_ACK: the third acknowledgement of a record's holder set confirms it, one before that does not, and none counts out of
SEQ order, twice, or once class 4 has latched; HOLDER_TIMEOUT takes a holder that left a record unacknowledged too long out of the
set, the partner once a round with EXCL has succeeded; LOG_LINE_FREE writes the records that wait as ring lines come free, drawing
their UCN then; LEAF_WRITEBACK writes back a leaf with LEAF_BATCH updates, one LEAF_AGE old, or one in the oldest course of a full
flash log; RESYNC takes a trusted standby as holder of what is recorded and reports one that is not trusted (R191 to R197, R298). -/
def Obligations.JournalCommands : Prop :=
  (∀ (s : State) (o p q : Nat) (r : Rec), serving s o = true → (ownerOf s o).recs.find? (fun x => x.seq == q) = some r →
    let taken : Prop := isF s 0 F.FPIN.C4 = false ∧ p ∈ r.need ∧ p ∉ r.acks ∧ holderOpen s o p = true ∧
      ∀ x ∈ (ownerOf s o).recs, x.seq < q → x.confirmed = false → p ∈ x.need → p ∈ x.acks
    let last : Prop := r.need.length = 3 ∧ ∀ x ∈ r.need, x = p ∨ x ∈ r.acks
    (¬ taken → exec (.holderAck o p q) s = .next s) ∧
    (taken → ¬ last → Answers (.holderAck o p q) s fun u => recConfirmed u o q = decide (q < (ownerOf s o).trim) ∧
      (ownerOf u o).recs = (ownerOf s o).recs.map fun x =>
        if x.seq = q then { r with acks := p :: r.acks, confirmed := false } else x) ∧
    (taken → last → s.courses = [] → (∃ es, r.body = .mapx es) → s.durable.chain = s.chain.chain → s.durable.pos = s.chain.pos →
      (∀ w ∈ s.owners, ∀ x ∈ w.2.recs, x.confirmed = false ∧ x.seq ≤ w.2.seq) →
      (∀ w ∈ s.owners, (w.2.recs.map (·.seq)).Pairwise (· < ·)) →
      Answers (.holderAck o p q) s fun u => recConfirmed u o q = true)) ∧
  (∀ (s : State) (o p : Nat), serving s o = true →
    let late : Prop := p ≠ 1 ∧ p ∈ (ownerOf s o).holders ∧ ∃ r ∈ (ownerOf s o).recs, r.confirmed = false ∧ p ∈ r.need ∧ p ∉ r.acks ∧
      ∃ t, tabGet r.due p = some t ∧ t ≤ now s o
    (¬ late → exec (.holderTimeout o p) s = .next s) ∧
    (late → p = 3 → s.pin.shadows = [] → s.lease.needExcl = [] → Answers (.holderTimeout o p) s fun u =>
      o ∈ u.lease.needExcl ∧ u.lease.resynced = false) ∧
    (late → p ≠ 3 → s.pin.shadows = [] → Answers (.holderTimeout o p) s fun u => p ∉ (ownerOf u o).holders ∧
      Detected u o Ev.HOLDER_LOST ∧ ∀ x ∈ (ownerOf u o).holders, x ≠ p ∧ 1 ≤ x ∧ x ≤ 5)) ∧
  (∀ (s : State) (o : Nat), serving s o = true →
    ((ownerOf s o).waiting = [] ∨ lineBusy (ownerOf s o) = true → exec (.logLineFree o) s = .next s) ∧
    (∀ x, (ownerOf s o).waiting = [x] → lineBusy (ownerOf s o) = false → Answers (.logLineFree o) s fun u =>
      (ownerOf u o).waiting = [] ∧ (ownerOf u o).seq = (ownerOf s o).seq + 1 ∧
      ∃ r, (ownerOf u o).recs = (ownerOf s o).recs ++ [r] ∧ r.seq = (ownerOf s o).seq + 1 ∧ r.grp = x.grp ∧
        r.body = (if x.draws then withUcn (s.ucn + 1) x.body else x.body) ∧
        r.need = (ownerOf s o).holders ∧ r.acks = [1] ∧ r.confirmed = false)) ∧
  (∀ (s : State) (v f : Nat), serving s 0 = true → f < 2 ^ 55 →
    let x := leafOf s v f
    let h := actsFor s (nodeHome s.n v f)
    let due : Prop := newUpdates x ≠ [] ∧ (getF s h F.JOURNAL.LEAF_BATCH ≤ (newUpdates x).length ∨
      x.oldest + getF s h F.JOURNAL.LEAF_AGE * 1000000 ≤ now s h ∨ flogDue s (leafKey v f) = true)
    ((∀ j ≤ rootLevel (mapSize s v), nodeDue s v j (f / 512 ^ j) = false) → ¬ due ∧ exec (.leafWriteback v f) s = .next s) ∧
    (due → Answers (.leafWriteback v f) s fun u =>
      leafOf u v f = { x with writing := some (x.pending.foldl max x.flushed) })) ∧
  (∀ s : State, serving s 0 = true →
    let due : Prop := s.lease.role = 1 ∧ s.lease.up = true ∧ s.lease.pRole = 2 ∧ s.lease.resynced = false
    (∀ b, ¬ due → exec (.resync b) s = .next s) ∧
    (due → s.pin.shadows = [] →
      (Answers (.resync true) s fun u => u.lease.resynced = true ∧ u.lease.needExcl = [] ∧
        ∀ o, ∀ r ∈ (ownerOf s o).recs, ∃ r' ∈ (ownerOf u o).recs, r'.seq = r.seq ∧ 3 ∈ r'.acks) ∧
      (Answers (.resync false) s fun u => u.lease = s.lease ∧ Detected u 0 Ev.PARTNER_UNTRUSTED)))

/-! ### Drive ports and members (R66, R172, R179 to R184, R206 to R220) -/

/-- How a member is lost and how its commands end (R66, R181). MEMBER_LINK_LOSS and a CSTS read with CFS set take a member in service
out of it, latch MEMBER_LOST and leave it no command; CMD_TIMEOUT sends NVMe Abort for a command that has been outstanding too long, unless it is a
Sanitize or has not been submitted; ABORT_GRACE_EXPIRY resets the controller; READY_MAX_EXPIRY gives the member up; CONTROLLER_READY ends the reset, and a ticket
of the member completes with an error; NVME_COMPLETION completes a ticket with status, NVMe status and DW0; PRSNT_DEASSERT takes the
drive off its port. Each does nothing out of its turn. -/
def Obligations.MemberLoss : Prop :=
  ∀ (s : State) (m : Nat), memberSlate m < s.n → serving s 0 = true → hasPath s m = true → s.pin.shadows = [] →
    let x := memberOf s m
    let sl := portSlate s m
    let gone (u : State) : Prop := (memberOf u m).mstate = 3 ∧ (memberOf u m).cmds = [] ∧ (memberOf u m).resetAt = none ∧
      Detected u sl (Ev.MEMBER_LOST (m % 6))
    let quiet : Prop := x.mstate = 2 ∧ x.cmds = []
    ((x.link = false → exec (.memberLinkLoss m) s = .next s) ∧
      (x.link = true → quiet → Answers (.memberLinkLoss m) s fun u => gone u ∧ (memberOf u m).link = false)) ∧
    ((∀ cfs, cfs = false ∨ x.link = false ∨ x.mstate ≠ 2 → exec (.cstsPoll m cfs) s = .next s) ∧
      (x.link = true → quiet → Answers (.cstsPoll m true) s gone)) ∧
    (∀ i c, tabGet x.cmds i = some c →
      let late : Prop := c.use ≠ .sanitize ∧ c.aborted = none ∧ c.queue ≠ none ∧ c.tb + c.timeout ≤ now s sl
      (¬ late → exec (.cmdTimeout m i) s = .next s) ∧
      (late → i ≠ s.nextCmd → Answers (.cmdTimeout m i) s fun u =>
        tabGet (memberOf u m).cmds i = some { c with aborted := some (now s sl) } ∧
        (isF s 0 F.FPIN.C4 = false → ∃ a, tabGet (memberOf u m).cmds s.nextCmd = some a ∧ a.opcode = 8 ∧ a.admin = true ∧ a.queue = some 0) ∧
        Detected u sl Ev.CMD_TIMEOUT ∧ Counted s u sl (F.DRIVE.TIMEOUTS (m % 6))) ∧
      (∀ t, c.aborted = some t → x.resetAt = none →
        exec (.abortGraceExpiry m i) s = .next
          (if now s sl < t + c.grace then s else putMember s m { x with resetAt := some (now s sl) })) ∧
      (c.aborted = none ∨ x.resetAt ≠ none → exec (.abortGraceExpiry m i) s = .next s)) ∧
    (∀ t, x.resetAt = some t →
      (now s sl < t + readyLimit s m → exec (.readyMaxExpiry m) s = .next s) ∧
      (t + readyLimit s m ≤ now s sl → quiet → Answers (.readyMaxExpiry m) s gone)) ∧
    (x.resetAt = none → exec (.readyMaxExpiry m) s = .next s ∧ exec (.controllerReady m) s = .next s) ∧
    (x.resetAt ≠ none → x.cmds = [] → Answers (.controllerReady m) s fun u =>
      memberOf u m = { x with resetAt := none } ∧ Counted s u sl (F.DRIVE.RESETS (m % 6))) ∧
    (∀ i c job t, x.resetAt ≠ none → x.cmds = [(i, c)] → c.use = .ticket job t →
      Answers (.controllerReady m) s fun u => (memberOf u m).cmds = [] ∧
        ∀ j k, jobOf s job = some j → tabGet j.tickets t = some k → ∃ j' k' st, jobOf u job = some j' ∧ tabGet j'.tickets t = some k' ∧
          k'.result = some (ticketWord St.illegalField st 0) ∧ 0 < st ∧ st < 2 ^ 15 ∧ unrecovered st = false) ∧
    (∀ i r, tabGet x.cmds i = none → exec (.nvmeCompletion m i r) s = .next s) ∧
    (∀ i c r, tabGet x.cmds i = some c → c.queue = none → exec (.nvmeCompletion m i r) s = .next s) ∧
    (∀ i c job t j k (r : NvmeResult), tabGet x.cmds i = some c → c.queue ≠ none → c.use = .ticket job t → jobOf s job = some j → tabGet j.tickets t = some k →
      (∀ b ∈ r.data, b ≠ none) →
      Answers (.nvmeCompletion m i r) s fun u => tabGet (memberOf u m).cmds i = none ∧
        ∃ j' k', jobOf u job = some j' ∧ tabGet j'.tickets t = some k' ∧
          k'.result = some (ticketWord (if r.statusField % 2 ^ 15 = 0 then St.ok
            else if unrecovered (r.statusField % 2 ^ 15) then St.mediaUnrecovered else St.illegalField) (r.statusField % 2 ^ 15) r.dw0)) ∧
    ((x.present = false → exec (.prsntDeassert m) s = .next s) ∧
      (x.present = true → quiet → Answers (.prsntDeassert m) s fun u => gone u ∧
        (memberOf u m).present = false ∧ (memberOf u m).perst = true ∧ (memberOf u m).link = false ∧
        (memberOf u m).hostId = none ∧ (memberOf u m).resv = none))

/-- How members come and are rebuilt (R182, R184, R211 to R220). A drive that conforms, and bears the NGUID of a member recorded in service, comes
back into service during recovery and not after it; one put in a failed member's place with fewer strips stays out; one held out
shows MSTATE 4. HOLD_OUT takes a member out, and gives it back. REBUILD_START queues every durable course with a missing
strip; REBUILD_COURSE reads a course whose strips have destinations, and drops one with none missing; COPY_BACK_STRIP reads the
strip of the lowest slot that is placed, writes it to the replacement, and ends once none is left; the recovery quorum is reached with every
recorded member, or after QUORUM_WAIT with at most two missing, or when QUORUM_FORCE is written; LOST_CLR empties the list. -/
def Obligations.MemberPool : Prop :=
  ∀ (s : State) (m : Nat), memberSlate m < s.n → serving s 0 = true → serving s (memberSlate m) = true →
    actsFor s (memberSlate m) = memberSlate m → s.pin.shadows = [] →
    let x := memberOf s m
    let sl := memberSlate m
    (∀ d, x.perst = true ∨ x.link = true → exec (.driveInsert m d) s = .next s) ∧
    (∀ d : Drive, x.perst = false → x.link = false →
      Answers (.driveInsert m d) s fun u =>
        let y := memberOf u m
        (y.link = true ∧ y.present = true ∧ y.speed = d.speed ∧ y.width = d.width ∧ y.nguid = d.nguid) ∧
        (isF s sl (F.DRIVE.HOLD_OUT (m % 6)) = true → y.mstate = 4) ∧
        (isF s sl (F.DRIVE.HOLD_OUT (m % 6)) = false →
          (d.conforms = false → y.mstate = 5) ∧
          (∀ g, d.conforms = true → x.recorded = .inService g →
            y.mstate = if x.goneAt ≠ none then 1 else if g = d.nguid ∧ s.recovery < 8 then 2 else 5) ∧
          (∀ l j, d.conforms = true → s.layout = some l → x.recorded = .failed j → d.strips < l.cap → y.mstate = 5) ∧
          (∀ l j, d.conforms = true → s.layout = some l → x.recorded = .failed (some j) → l.cap ≤ d.strips →
            y.mstate = 2 ∧ tabGet u.copyBack m = some { index := j, busy := none, done := 0 } ∧ ∀ a c, a < 2 ^ 40 → c < 32 → mediaRead u m a c = [])) ∧
        (d.conforms = true → Pending u sl (Ev.MEMBER_ADDED (m % 6)))) ∧
    (∀ v : Word, fv v (F.DRIVE.HOLD_OUT (m % 6)) = 1 → isF s sl (F.DRIVE.HOLD_OUT (m % 6)) = false →
      legal s sl 0x0B (0x10 + m % 6) v = true → x.cmds = [] →
      Answers (.holdOut m v) s fun u => (memberOf u m).mstate = 4 ∧ (x.mstate = 2 → Detected u sl (Ev.MEMBER_LOST (m % 6)))) ∧
    (∀ v : Word, fv v (F.DRIVE.HOLD_OUT (m % 6)) = 0 → isF s sl (F.DRIVE.HOLD_OUT (m % 6)) = true →
      legal s sl 0x0B (0x10 + m % 6) v = true → x.mstate = 4 →
      Answers (.holdOut m v) s fun u => (x.link = false → (memberOf u m).mstate = 0) ∧ (x.link = true → x.conforms = false → (memberOf u m).mstate = 5)) ∧
    (∀ l, s.layout = some l → recordedFailed s m = true → x.recConf = true → Answers (.rebuildStart m) s fun u =>
      ∀ k c, courseOf s k = some c → c.st = .durable → missingOf s l k ≠ [] → k ∈ tabGetD u.rebuildQ (k % s.n) []) ∧
    (recordedFailed s m = false ∨ x.recConf = false → exec (.rebuildStart m) s = .next s) ∧
    (∀ k l c y, s.layout = some l → courseOf s k = some c → k % s.n = y → actsFor s y = sl → isF s sl F.STRIPE.RB_EN = true → isF s 0 F.FPIN.C4 = false →
      let q := tabGetD s.rebuildQ y []
      (∀ z, z ≠ y → exec (.rebuildCourse sl z k) s = .next s) ∧
      (k ∉ q ∨ spareWriting s k = true → exec (.rebuildCourse sl y k) s = .next s) ∧
      (k ∈ q → spareWriting s k = false → c.spareSeq = [] →
        (missingOf s l k = [] → Answers (.rebuildCourse sl y k) s fun u =>
          k ∉ tabGetD u.rebuildQ y [] ∧ (q = [k] → Pending u sl Ev.REBUILD_DONE)) ∧
        (c.st = .durable → missingOf s l k ≠ [] → (∀ p ∈ missingOf s l k, destOf s l k p ≠ none) → rebuildRead s k = none →
          (rebuildOrder s l y).head? = some k → Answers (.rebuildCourse sl y k) s fun u =>
            (∃ c', courseOf u k = some c' ∧ c'.rebuilding = true) ∧
            ∃ r, tabGet u.reads s.nextRead = some r ∧ r.use = .rebuild ∧ r.ordinal = k ∧
              ∀ p ∈ missingOf s l k, ∀ a < 32, 32 * p + a ∈ r.want))) ∧
    (∀ l cb, s.layout = some l → tabGet s.copyBack m = some cb → x.mstate = 2 → isF s sl F.STRIPE.RB_EN = true →
      isF s 0 F.FPIN.C4 = false →
      let ready (slot : Nat) : Bool := match spareOf s cb.index slot with | some e => e.valid && !e.stale | none => false
      let reading (slot : Nat) := s.reads.find? fun r => r.2.use == .copyBack m slot
      (cb.busy = none → spareSlots s cb.index = [] → (∀ p ∈ s.spareResv, p.1 / 2 ^ 40 ≠ cb.index) → stripsAway s l m = false →
        Answers (.copyBackStrip m) s fun u => tabGet u.copyBack m = none ∧ (memberOf u m).recorded = .inService x.nguid ∧
          Pending u sl Ev.COPYBACK_DONE) ∧
      (∀ slot k p a b, cb.busy = none → (spareSlots s cb.index).find? ready = some slot → ordinalAt l m slot = some k →
        posIn l k m = some p → p < l.d + 2 → stripAt s l k p = some (a, b) → hasPath s a = true →
        Answers (.copyBackStrip m) s fun u => tabGet u.copyBack m = some { cb with busy := some slot } ∧
          ∃ y, tabGet (memberOf u a).cmds s.nextCmd = some y ∧ y.opcode = 2 ∧ y.use = .read s.nextRead p 0 32 ∧
            y.lba = slotLba s a b) ∧
      (∀ slot, cb.busy = some slot → reading slot = none → exec (.copyBackStrip m) s = .next s) ∧
      (∀ slot id r p a b, cb.busy = some slot → reading slot = some (id, r) → tabGet s.reads id = some r → r.left = 0 → r.bad = [] →
        r.want = (List.range 32).map (32 * p + ·) → (∀ w ∈ r.want, w ∈ r.got) → posIn l r.ordinal m = some p →
        stripAt s l r.ordinal p = some (a, b) → hasPath s a = true → anyUnserved s l r.ordinal [] = false →
        Answers (.copyBackStrip m) s fun u => (∀ c < 32, mediaRead u m slot c = blockTrim (mediaRead s a b c)) ∧
          ∃ i y, tabGet (memberOf u m).cmds i = some y ∧ y.opcode = 1 ∧ y.use = .copyWrite slot ∧ y.lba = slotLba s m slot)) ∧
    (exec .memberQuorum s = .next (if s.recovery = 2 ∧ s.quorum = false ∧ missingMembers s = [] then { s with quorum := true, qShort := false } else s)) ∧
    (∀ t, s.drvTrain = some t →
      let due : Prop := s.recovery = 2 ∧ s.quorum = false ∧ t + getF s 0 F.STRIPE.QUORUM_WAIT * ms ≤ now s 0
      (¬ due → exec .quorumWaitExpiry s = .next s) ∧
      (due → (missingMembers s).length ≤ 2 → Answers .quorumWaitExpiry s fun u => u.quorum = true ∧
        ∀ i ∈ missingMembers s, (memberOf u i).mstate = if (memberOf s i).mstate = 5 then 5 else 3) ∧
      (due → 2 < (missingMembers s).length → Answers .quorumWaitExpiry s fun u => u.quorum = false ∧ u.qShort = true ∧
        (s.qShort = false → Detected u 0 Ev.QUORUM_SHORT))) ∧
    (∀ v : Word, legal s sl 0x09 0x30 (withF v F.STRIPE.QUORUM_FORCE 1) = true → Answers (.quorumForce sl v) s fun u =>
      u.quorum = true ∧ ∀ i ∈ missingMembers s, (memberOf u i).mstate = if (memberOf s i).mstate = 5 then 5 else 3) ∧
    (∀ v : Word, legal s sl 0x09 0x41 (withF v F.STRIPE.LOST_CLR 1) = true → Answers (.lostClr sl v) s fun u =>
      tabGet u.lostRange sl = none ∧ getF u sl F.STRIPE.LOST_OVF = 0)

/-! ### The partner link and the control lease (R286 to R298) -/

/-- The control lease. Slates 0 and 1 send a heartbeat every millisecond; one received brings the partner up, or, with this
module's own bay, is a clash; HB_MISS of silence loses it. The active starts a round every 50 ms; a round that a majority of
the witnesses grants in time moves the end of the lease to 200 ms after its issue; one that a majority refuses with a conflict, and the end of
the lease itself, make the module restart; any other failed round is reported. A poll that finds the lease free acquires it under the next
epoch, or tries again 10 or 30 ms later by bay; a standby that finds EXCL is excluded; a module that finds another holder becomes standby. A release drains, unregisters and
restarts; W_MASK changes only by a round. -/
def Obligations.LeaseLife : Prop :=
  ∀ s : State, serving s 0 = true → s.pin.shadows = [] →
    let l := s.lease
    let t := now s 0
    let mask := s.durable.wMask
    let stopped (u : State) : Prop := u.lease.role = 0 ∧ u.recovery = 2 ∧ u.lease.round = none
    (∀ sl, sl < s.n → serving s sl = true →
      let due : Prop := sl < 2 ∧ ∀ h, tabGet l.hbOut sl = some h → h.tb.toNat + 1000000 ≤ now s sl
      (¬ due → exec (.heartbeatSend sl) s = .next s) ∧
      (due → Answers (.heartbeatSend sl) s fun u => ∃ h, tabGet u.lease.hbOut sl = some h ∧ h.bay = l.bay ∧ h.role = l.role ∧
        h.epoch = l.epoch ∧ h.slates = (servingSlates s).length ∧ h.bootId = s.ready.bootId ∧ h.tb.toNat = now s sl)) ∧
    (∀ sl (h : Heartbeat), sl < s.n → serving s sl = true →
      (2 ≤ sl ∨ l.clash = true → exec (.heartbeatRx sl h) s = .next s) ∧
      (sl < 2 → l.clash = false → h.bay = l.bay → Answers (.heartbeatRx sl h) s fun u =>
        u.lease = { l with clash := true, up := false } ∧ Pending u 0 Ev.BAY_CLASH) ∧
      (sl < 2 → l.clash = false → h.bay ≠ l.bay → Answers (.heartbeatRx sl h) s fun u =>
        u.lease.up = true ∧ u.lease.lastHb = t ∧ u.lease.pRole = h.role ∧ u.lease.pFlags = h.flags ∧ u.lease.pSlates = h.slates ∧
        u.lease.pEpoch = h.epoch ∧ u.lease.pBoot = h.bootId ∧ (l.up = false → Pending u 0 Ev.PARTNER_UP) ∧
        (l.pBoot ≠ 0 → h.bootId ≠ l.pBoot → l.role = 1 → u.lease.resynced = false))) ∧
    (let lost : Prop := l.up = true ∧ l.lastHb + getF s 0 F.LEASE.HB_MISS * 1000000 ≤ t
     (¬ lost → exec .partnerLost s = .next s) ∧
     (lost → Answers .partnerLost s fun u => u.lease = { l with up := false, degSince := none } ∧ Pending u 0 Ev.PARTNER_LOST)) ∧
    (let due : Prop := l.role = 1 ∧ l.round = none ∧ ∀ r, l.lastRound = some r → r + 50000000 ≤ t
     (¬ due → exec .renewalRound s = .next s) ∧
     (due → Answers .renewalRound s fun u => u.lease.lastRound = some t ∧
       u.lease.round = some { issue := t, excl := l.excl && !partnerHeld s })) ∧
    (let due : Prop := l.role = 1 ∧ l.round = none ∧ l.needExcl ≠ []
     (¬ due → exec .exclRound s = .next s) ∧
     (due → Answers .exclRound s fun u => u.lease = { l with round := some { issue := t, excl := true } })) ∧
    (∀ a, l.round = none → exec (.roundComplete a) s = .next s) ∧
    (∀ a r, l.round = some r → l.wPend = none →
      let won := (witnesses mask).filter fun m => decide (t < r.issue + 50000000) && answerOf a m == some .success
      let conf := (witnesses mask).filter fun m => answerOf a m == some .conflict
      (majority mask won = true → Answers (.roundComplete a) s fun u =>
        u.lease.leaseEnd = r.issue + 200000000 ∧ u.lease.round = none ∧ u.lease.renew = (l.renew + 1) % 8192 ∧ u.lease.excl = r.excl ∧
        ∀ m ∈ won, (memberOf u m).resv = some { epoch := l.epoch, bay := l.bay, lease := true, excl := r.excl, renew := (l.renew + 1) % 8192 }) ∧
      (majority mask won = false → majority mask conf = true → Answers (.roundComplete a) s fun u =>
        stopped u ∧ u.lease.lapsed = true ∧ Counted s u 0 F.LEASE.LAPSES) ∧
      (majority mask won = false → majority mask conf = false → Answers (.roundComplete a) s fun u =>
        u.lease = { l with round := none } ∧ Detected u 0 Ev.ROUND_FAIL ∧ Counted s u 0 F.LEASE.ROUNDS_FAILED)) ∧
    ((l.role ≠ 1 ∨ t < l.leaseEnd → exec .leaseExpiry s = .next s) ∧
      (l.role = 1 → l.leaseEnd ≤ t → Answers .leaseExpiry s fun u => stopped u ∧ u.lease.lapsed = true)) ∧
    (∀ views a, l.role = 0 ∨ l.role = 2 → l.retryAt = none →
      let v := noteViews s views
      let won := (witnesses mask).filter fun m => answerOf a m == some .success
      let clean : Prop := ∀ x ∈ tabVals v.lease.seen, x.excl = false
      let key : ResvKey := { epoch := highEpoch v + 1, bay := l.bay, lease := true, excl := !(l.up && l.resynced), renew := 0 }
      (eligible v = true → clean → majority mask won = true → Answers (.witnessPoll views a) s fun u =>
        u.lease.role = 1 ∧ u.lease.epoch = highEpoch v + 1 ∧ u.lease.leaseEnd = t + 200000000 ∧ u.lease.renew = 0 ∧
        Pending u 0 Ev.TAKEOVER ∧ ∀ m ∈ tabKeys s.members, (memberOf u m).resv = some key) ∧
      (eligible v = true → clean → majority mask won = false → Answers (.witnessPoll views a) s fun u =>
        u.lease.role = l.role ∧ u.lease.retryAt = some (t + (if l.bay = 0 then 10 else 30) * 1000000)) ∧
      (¬ clean → l.role = 2 → l.excluded = false → Answers (.witnessPoll views a) s fun u =>
        u.lease.excluded = true ∧ u.lease.role = 2 ∧ Pending u 0 Ev.EXCLUDED) ∧
      (∀ k, eligible v = false → l.role = 0 → s.quorum = true → s.chain.chain ≠ 0x3FF → holderKey v = some k →
        Answers (.witnessPoll views a) s fun u => u.lease.role = 2 ∧ u.lease.epoch = k.epoch)) ∧
    (∀ views a, (l.role ≠ 0 ∧ l.role ≠ 2) ∨ l.retryAt ≠ none → exec (.witnessPoll views a) s = .next s) ∧
    (∀ views a r, l.retryAt = some r → l.role = 0 ∨ l.role = 2 → exec (.acquireRetry views a) s =
      if r ≤ t then exec (.witnessPoll views a) { s with lease := { l with retryAt := none } } else .next s) ∧
    (∀ views a, l.retryAt = none → exec (.acquireRetry views a) s = .next s) ∧
    (∀ v : Word, legal s 0 0x0D 4 (withF v F.LEASE.RELEASE 1) = true → l.draining = none → Answers (.leaseRelease v) s fun u =>
      u.lease = { l with draining := some { until_ := t + fv v F.LEASE.REL_DRAIN * 1000000 } }) ∧
    (∀ d, l.degSince = some d → l.draining = none →
      let due : Prop := l.role = 1 ∧ isF s 0 F.LEASE.DEG_REL = true ∧ l.up = true ∧ d + 1000000000 ≤ t
      (¬ due → exec .degRelRelease s = .next s) ∧
      (due → Answers .degRelRelease s fun u => u.lease = { l with draining := some { until_ := t + getF s 0 F.LEASE.REL_DRAIN * 1000000 } })) ∧
    (l.degSince = none → exec .degRelRelease s = .next s) ∧
    (∀ d, l.draining = some d →
      let over_ : Prop := d.until_ ≤ t ∨ jobsRunning s = false
      (¬ over_ → exec .relDrainExpiry s = .next s) ∧
      (over_ → Answers .relDrainExpiry s fun u => stopped u ∧ u.lease.released = true ∧ ∀ m, (memberOf u m).resv = none)) ∧
    (l.draining = none → exec .relDrainExpiry s = .next s) ∧
    (∀ v : Word, legal s 0 0x0D 3 v = true → Answers (.witnessChange v) s fun u =>
      u.lease = (if fv v F.LEASE.W_MASK = l.wPend.getD mask then l else { l with wPend := some (fv v F.LEASE.W_MASK) }) ∧ u.durable = s.durable)

/-! ### The batten chain (R302 to R314) -/

/-- The batten chain. With the bypass closed a frame leaves by the other port as it came, and nothing else is sent or heard. HELLO goes out on both ports every millisecond; a partner
gained, changed or lost is counted, and reported towards the head, where an enumeration falls due. The head's enumeration carries a new ENUM
and its own claim; a head that is not at position 0 reports CHAIN_BREAK. A CENSUS of an ENUM that is not new is dropped; another is
claimed in, or, where the position's bit is taken, displaces this module; a module that follows its partner claims nothing; with no
partner downstream the census comes back as TALLY, which is relayed to the head. ASSIGN gives a module that did not claim the lowest free position, or
none, which reports CHAIN_FULL; its result is recorded, and ENUM_DONE is raised. -/
def Obligations.ChainFrames : Prop :=
  (∀ s : State, s.chain.bypass = true →
    let c := s.chain
    let down (f : ChainFrame) : State := { s with chain := { c with sentDn := c.sentDn ++ [f] } }
    let upward (f : ChainFrame) : State := { s with chain := { c with sentUp := c.sentUp ++ [f] } }
    ∀ h b t a, exec (.hello true h) s = .next (down (.hello h)) ∧ exec (.hello false h) s = .next (upward (.hello h)) ∧
      exec .change s = .next (upward .change) ∧ exec (.census b) s = .next (down (.census b)) ∧
      exec (.tally t) s = .next (upward (.tally t)) ∧ exec (.assign a) s = .next (down (.assign a))) ∧
  ∀ s : State, serving s 0 = true → s.pin.shadows = [] →
    let c := s.chain
    let t := now s 0
    let head : Prop := c.bypass = false ∧ c.upMac = none
    let told (u : State) : Prop := if u.chain.upMac = none then u.chain.enumDue = true ∧ u.chain.sentUp = c.sentUp
      else u.chain.sentUp = c.sentUp ++ [.change]
    let fresh (e : BitVec 16) : Prop := c.bypass = false ∧ (e - c.enum).toNat < 2 ^ 15
    let stale (e : BitVec 16) : Prop := c.bypass = false ∧ 2 ^ 15 ≤ (e - c.enum).toNat
    let follow (same : Bool) : Prop := s.lease.bay = 1 ∧ same = true ∧ s.lease.up = true
    let own : Nat := if s.lease.bay = 0 then 1 else 0
    (c.bypass = true → ∀ up, exec .helloSend s = .next s ∧
      exec (.chainPartnerTimeout up) s = .next s ∧ exec .enumStart s = .next s ∧ exec .enumPeriodic s = .next s) ∧
    (c.bypass = false → exec .helloSend s = .next (if ∀ x, c.helloAt = some x → x + 1000000 ≤ t then
      { s with chain := { c with helloAt := some t, sentUp := c.sentUp ++ [.hello (ownHello s)], sentDn := c.sentDn ++ [.hello (ownHello s)] } } else s)) ∧
    (∀ h, c.bypass = false →
      (Answers (.hello true h) s fun u => u.chain.upMac = some h.mac ∧ u.chain.upAt = t ∧ u.chain.enumDue = false ∧
        getF u 0 F.CHAIN.PORT_CHANGES = (getF s 0 F.CHAIN.PORT_CHANGES + (if c.upMac = some h.mac then 0 else if c.upMac = none then 1 else 2)) % 2 ^ F.CHAIN.PORT_CHANGES.w ∧
        u.chain.sentUp = c.sentUp ++ if c.upMac = some h.mac then [] else [.change]) ∧
      (Answers (.hello false h) s fun u => u.chain.dnMac = some h.mac ∧ u.chain.dnAt = t ∧ (c.dnMac ≠ some h.mac → told u) ∧
        u.chain.enum = if 0 < (h.enum - c.enum).toNat ∧ (h.enum - c.enum).toNat < 2 ^ 15 then h.enum else c.enum)) ∧
    (c.bypass = false → ∀ m,
      (c.upMac = some m → t < c.upAt + 5000000 → exec (.chainPartnerTimeout true) s = .next s) ∧
      (c.upMac = some m → c.upAt + 5000000 ≤ t → Answers (.chainPartnerTimeout true) s fun u =>
        u.chain = { c with upMac := none, enumDue := true } ∧ Counted s u 0 F.CHAIN.PORT_CHANGES) ∧
      (c.dnMac = some m → c.dnAt + 5000000 ≤ t → Answers (.chainPartnerTimeout false) s fun u =>
        u.chain.dnMac = none ∧ told u ∧ Counted s u 0 F.CHAIN.PORT_CHANGES)) ∧
    (c.bypass = false → Answers .change s told) ∧
    (¬ (head ∧ c.enumDue = true) → exec .enumStart s = .next s) ∧
    (head → c.enumDue = true → Answers .enumStart s fun u =>
      u.chain.enum = c.enum + 1 ∧ u.chain.lastEnum = t ∧ u.chain.enumDue = false ∧ Counted s u 0 F.CHAIN.ENUMS ∧
      (∀ p, c.pos = some p → p ≠ 0 → Detected u 0 Ev.CHAIN_BREAK) ∧
      (c.dnMac ≠ none → ∃ f, u.chain.sentDn = c.sentDn ++ [.census f] ∧ f.enum = c.enum + 1 ∧ f.shelves = own ∧
        f.prev = BitVec.ofNat 10 (if c.chainNew.isSome then c.chain else c.prev) ∧
        f.claim = (match c.pos with
          | some p => if c.posChain = f.chain.toNat ∨ c.posChain = f.prev.toNat then BitVec.ofNat 64 (2 ^ p) else 0
          | none => 0))) ∧
    (¬ (head ∧ c.lastEnum + 10000000000 ≤ t) → exec .enumPeriodic s = .next s) ∧
    (head → c.lastEnum + 10000000000 ≤ t → exec .enumPeriodic s = exec .enumStart { s with chain := { c with enumDue := true } }) ∧
    (∀ v : Word, legal s 0 0x12 0 (withF (withF v F.CHAIN.CHAIN_ASSIGN 0) F.CHAIN.ENUM_NOW 1) = true → Answers (.enumNow v) s fun u =>
      u.chain.enum = c.enum + 1 ∧ u.chain.lastEnum = t ∧ u.chain.enumDue = false) ∧
    (∀ v : Word, legal s 0 0x12 0 (withF (withF v F.CHAIN.ENUM_NOW 0) F.CHAIN.CHAIN_ASSIGN 1) = true → c.dnMac ≠ none →
      Answers (.chainAssign v) s fun u => u.chain.chainNew = some (fv v F.CHAIN.CHAIN_NEW) ∧
        ∃ f, u.chain.sentDn = c.sentDn ++ [.census f] ∧ f.enum = c.enum + 1 ∧ f.chain.toNat = fv v F.CHAIN.CHAIN_NEW ∧
          f.prev = BitVec.ofNat 10 c.chain) ∧
    (∀ b : CensusBody, stale b.enum → exec (.census b) s = .next s) ∧
    (∀ b : CensusBody, fresh b.enum → ¬ follow b.sameShelf → c.dnMac ≠ none → Answers (.census b) s fun u =>
      u.chain.enum = b.enum ∧ Counted s u 0 F.CHAIN.ENUMS ∧ ∃ f, u.chain.sentDn = c.sentDn ++ [.census f] ∧
        f.enum = b.enum ∧ f.prev = b.prev ∧ f.shelves = b.shelves + own ∧ f.sameShelf = decide (s.lease.bay = 0) ∧
        f.chain = (if b.chain = 0x3FF then BitVec.ofNat 10 c.chain else b.chain) ∧
        (let mine : Prop := c.posChain = f.chain.toNat ∨ c.posChain = b.prev.toNat
         (c.pos = none ∨ ¬ mine → f.claim = b.claim ∧ u.chain.claimed = false) ∧
         ∀ p, c.pos = some p → mine →
          (b.claim.getLsbD p = true → f.claim = b.claim ∧ u.chain.claimed = false ∧ Detected u 0 Ev.POS_CONFLICT) ∧
          (b.claim.getLsbD p = false → f.claim = BitVec.ofNat 64 (b.claim.toNat + 2 ^ p) ∧ u.chain.claimed = true))) ∧
    (∀ b : CensusBody, fresh b.enum → follow b.sameShelf → c.dnMac ≠ none → Answers (.census b) s fun u =>
      u.chain.follows = true ∧ u.chain.claimed = false ∧ u.chain.sentDn = c.sentDn ++ [.census { b with sameShelf := false, shelfPos := noShelfPos }]) ∧
    (∀ b : CensusBody, fresh b.enum → c.dnMac = none → c.upMac ≠ none → Answers (.census b) s fun u =>
      ∃ f : TallyBody, u.chain.sentUp = c.sentUp ++ [.tally f] ∧ f.enum = b.enum) ∧
    (∀ b : TallyBody, stale b.enum → exec (.tally b) s = .next s) ∧
    (∀ b : TallyBody, fresh b.enum → c.upMac ≠ none → Answers (.tally b) s fun u => u.chain.sentUp = c.sentUp ++ [.tally b]) ∧
    (∀ b : TallyBody, fresh b.enum → c.upMac = none → Answers (.tally b) s fun u =>
      getF u 0 F.CHAIN.SHELVES = b.shelves % 2 ^ F.CHAIN.SHELVES.w ∧ getF u 0 F.CHAIN.TAKEN &&& b.claim.toNat = b.claim.toNat ∧
      Pending u 0 Ev.ENUM_DONE) ∧
    (∀ b : AssignBody, stale b.enum → exec (.assign b) s = .next s) ∧
    (∀ b : AssignBody, fresh b.enum → ¬ follow b.sameShelf → s.lease.role = 1 → (ownerOf s 0).waiting = [] → lineBusy (ownerOf s 0) = false →
      let pos := if c.claimed = true ∧ b.enum = c.enum then c.pos else lowestFree b.chain.toNat b.taken
      Answers (.assign b) s fun u => lastAddress u = (b.chain.toNat, pos) ∧ Pending u 0 Ev.ENUM_DONE ∧
        (pos = none → Detected u 0 Ev.CHAIN_FULL ∧ getF u 0 F.CHAIN.TAKEN = b.taken.toNat) ∧
        ∀ p, pos = some p → b.taken.getLsbD p = false → getF u 0 F.CHAIN.TAKEN = (b.taken.toNat + 2 ^ p) % 2 ^ 64)

/-! ### Faults, the fault pin and shadows; caches (R84 to R87, R273 to R284, R315 to R328) -/

/-- Faults. A word that names no detector does nothing; a hit that a shadow holds off is only counted; any other sets its STAT bit, pends its event
unless masked, counts by class and pulses the pin from PULSE_CLASS on. A class 4 hit, and a class 3 one that names slate 0 or a slate without a
substitute, stops the unit and captures the first cause; another class 3 one puts a substitute in the slate's place. INJ_FIRE sets the injected
bit and no other, and with a real hit of its detector in the same cycle both bits. CORE_SILENT latches class 4; FAULT_PULSE_END ends the pulse; FAULT_HOLD holds the pin; SHADOW_CLOSE ends a shadow once it is
ready or its time is over. -/
def Obligations.FaultHandling : Prop :=
  ∀ (s : State) (sl : Nat), Variant s → sl < s.n → serving s sl = true → serving s 0 = true →
    (∀ sp src d,
      let e := eventNo sp src
      let hit : Prop := src < 32 ∧ sp < 19
      let stop (u : State) : Prop := isF u 0 F.FPIN.C4 = true ∧ getF u 0 F.FPIN.C4_EVENT = e ∧ getF u 0 F.FPIN.C4_SLATE = sl ∧
        getF u 0 F.FPIN.C4_INJ = 0 ∧ u.lease.role = 3
      (¬ hit ∨ detClass e = none → exec (.detectorOccurrence sl sp src d) s = .next s) ∧
      (∀ c, hit → detClass e = some c → heldOff s sl e (detArg e d) = true → Answers (.detectorOccurrence sl sp src d) s fun u =>
        Counted s u sl F.FPIN.SHADOWED ∧ u.pin.heldOff = s.pin.heldOff ++ [(sl, e, detArg e d)] ∧
        getF u sl (F.STAT_REAL sp) = getF s sl (F.STAT_REAL sp)) ∧
      (∀ c, hit → detClass e = some c → c ≤ 2 → heldOff s sl e (detArg e d) = false → Answers (.detectorOccurrence sl sp src d) s fun u =>
        Detected u sl e ∧ (masked s sl sp src = false → Pending u sl e ∧
          (1 ≤ c → getF s 0 F.FPIN.PULSE_CLASS ≤ c → (∀ w, react w sl e d = w) →
            u.pin.pulse = some (now s 0 + getF s 0 F.FPIN.PULSE_US * 1000)))) ∧
      (∀ c, hit → detClass e = some c → heldOff s sl e (detArg e d) = false → (∀ w, react w sl e d = w) →
        (c = 1 → Answers (.detectorOccurrence sl sp src d) s fun u => Counted s u sl F.FPIN.C1_COUNT) ∧
        (c = 2 → Answers (.detectorOccurrence sl sp src d) s fun u => Counted s u sl F.FPIN.C2_COUNT)) ∧
      (hit → detClass e = some 4 → s.pin.shadows = [] → isF s 0 F.FPIN.C4 = false → Answers (.detectorOccurrence sl sp src d) s stop) ∧
      (let x := lostBy sl e (d.take (detWords e))
       hit → detClass e = some 3 → s.pin.shadows = [] → isF s 0 F.FPIN.C4 = false → x < s.n → tabHas s.lost x = false →
        (x = 0 ∨ substitute s x = none → Answers (.detectorOccurrence sl sp src d) s stop) ∧
        (∀ y, x ≠ 0 → substitute s x = some y → Answers (.detectorOccurrence sl sp src d) s fun u =>
          tabGet u.lost x = some y ∧ serving u x = false))) ∧
    (∀ sp c (v : Word), sp < 19 → legal s sl sp 0xF02 (withF v (F.INJ_FIRE sp) 1) = true →
      let k := fv v (F.INJ_SRC sp)
      detClass (eventNo sp k) = some c → c ≤ 2 →
        (Answers (.injFire sl sp ⟨v, none⟩) s fun u =>
          bitOf (getF u sl (F.STAT_INJ sp)) k = true ∧ getF u sl (F.STAT_REAL sp) = getF s sl (F.STAT_REAL sp) ∧
          getF u sl (F.INJ_COUNT sp) = min 65535 (getF s sl (F.INJ_COUNT sp) + 1) ∧ u.lost = s.lost) ∧
        ∀ d, heldOff s sl (eventNo sp k) (detArg (eventNo sp k) d) = false → Answers (.injFire sl sp ⟨v, some (k, d)⟩) s fun u =>
          bitOf (getF u sl (F.STAT_INJ sp)) k = true ∧ Detected u sl (eventNo sp k)) ∧
    ((isF s 0 F.FPIN.C4 = true → exec .coreSilent s = .next s) ∧
      (isF s 0 F.FPIN.C4 = false → Answers .coreSilent s fun u => isF u 0 F.FPIN.C4 = true ∧ getF u 0 F.FPIN.C4_EVENT = 0x7FF ∧
        Pending u 0 Ev.C4_LATCHED ∧ u.lease = s.lease)) ∧
    (exec .faultPulseEnd s = .next (if ∃ t, s.pin.pulse = some t ∧ t ≤ now s 0 then { s with pin := { s.pin with pulse := none } } else s)) ∧
    (∀ v : Word, legal s 0 0x0E 0 v = true → Answers (.faultHold v) s fun u =>
      getF u 0 F.FPIN.HOLD = fv v F.FPIN.HOLD ∧ getF u 0 F.FPIN.PULSE_CLASS = fv v F.FPIN.PULSE_CLASS ∧
      (fv v F.FPIN.HOLD = 1 → pinAsserted u = true)) ∧
    (∀ i r, tabGet s.pin.shadows i = none → exec (.shadowClose i r) s = .next s) ∧
    (∀ i r sh, tabGet s.pin.shadows i = some sh →
      (r = false → now s sh.slate < sh.limit → exec (.shadowClose i r) s = .next s) ∧
      (r = true ∨ sh.limit ≤ now s sh.slate → Answers (.shadowClose i r) s fun u => u.pin.shadows = tabDel s.pin.shadows i))

/-- Caches. SC_DISABLE drains the slate cache, and SC_DRAIN_DONE ends the drain once its victim buffer is empty, in DISABLED, or in BYPASSED where
too few ways are left; SC_ENABLE turns a disabled cache on; clearing DC_EN or IC_EN drops every line of the slate's data or
instruction caches;
WAY_RESTORE brings every way back with no history; a scrub changes no contents. No command of these changes a byte of memory. -/
def Obligations.CacheCommands : Prop :=
  ∀ (s : State) (sl : Nat), sl < s.n → serving s sl = true →
    let st := scState s sl
    let still (u : State) : Prop := u.hbm = s.hbm ∧ u.poison = s.poison ∧ u.jobs = s.jobs
    (∀ v : Word, legal s sl 0x0C 1 (withF v F.MEM.SC_EN 0) = true → Answers (.scDisable sl v) s fun u =>
      still u ∧ isF u sl F.MEM.SC_EN = false ∧ scState u sl = (if st = 1 then 2 else st) ∧
      (st = 1 → ∀ p ∈ u.scLines, p.1 / 524288 ≠ sl)) ∧
    ((st ≠ 2 ∨ tabGetD s.victim sl [] ≠ [] → exec (.scDrainDone sl) s = .next s) ∧
      (st = 2 → tabGetD s.victim sl [] = [] → Answers (.scDrainDone sl) s fun u => still u ∧
        scState u sl = if isF s sl F.MEM.SC_EN = true ∧ waysOn s sl 0 0 < 8 then 3 else 0)) ∧
    (∀ v : Word, legal s sl 0x0C 1 (withF v F.MEM.SC_EN 1) = true → Answers (.scEnable sl v) s fun u =>
      still u ∧ isF u sl F.MEM.SC_EN = true ∧ scState u sl = if st = 0 then 1 else st) ∧
    (∀ v : Word, legal s sl 0x0C 1 v = true → Answers (.engineCacheInvalidate sl v) s fun u => still u ∧
      getF u sl F.MEM.DC_EN = fv v F.MEM.DC_EN ∧
      (isF s sl F.MEM.DC_EN = true → fv v F.MEM.DC_EN = 0 → ∀ p ∈ u.dcLines, p.1 / 1024 / 48 ≠ sl) ∧
      (isF s sl F.MEM.IC_EN = true → fv v F.MEM.IC_EN = 0 → ∀ p ∈ u.icLines, p.1 / 512 / 48 ≠ sl)) ∧
    (∀ v : Word, legal s sl 0x0C 2 (withF v F.MEM.WAY_RESTORE 1) = true → Answers (.wayRestore sl v) s fun u => still u ∧
      getF u sl F.MEM.SC_WAY_DIS = 0 ∧ (∀ e < 48, getF u sl (F.MEM.DC_WAY_DIS e) = 0 ∧ getF u sl (F.MEM.IC_WAY_DIS e) = 0) ∧
      (∀ p ∈ u.wayErrs, p.1 / 4096 ≠ sl)) ∧
    exec (.hbmScrub sl) s = .next s

/-! ### Counters, rings, sampling and the supply's measurements (R205, R240, R329 to R337) -/

/-- A changed counter selection clears its VALUE, OVF_CLR its OVF; a counter at its top that counts wraps to 0, sets OVF and raises CNT_WRAP.
A counter dump, when one is due, writes its 192 bytes at WP and advances it, or consumes its SEQ where the ring is full or lies in the heap; RING_CONSUME
moves RP. A selected instruction is tagged, the seventeenth only counted. PEAK_CLR starts the switch core's peak again at its present fill, and the
supply's at 0; SUPPLY_MEASURE notes the feeds. -/
def Obligations.PerfCommands : Prop :=
  ∀ (s : State) (sl : Nat), sl < s.n → serving s sl = true → s.pin.shadows = [] →
    (∀ k (v : Word), k < 16 → legal s sl 0x0F (0x10 + k) v = true → Answers (.counterSelect sl k v) s fun u =>
      getF u sl (F.PERF.SRC k) = fv v (F.PERF.SRC k) ∧ getF u sl (F.PERF.EN k) = fv v (F.PERF.EN k) ∧
      getF u sl (F.PERF.VALUE k) = if getF s sl (F.PERF.SRC k) = fv v (F.PERF.SRC k) ∧ getF s sl (F.PERF.MODE k) = fv v (F.PERF.MODE k)
        then getF s sl (F.PERF.VALUE k) else 0) ∧
    (∀ k v, 16 ≤ k → exec (.counterSelect sl k v) s = .next s ∧ exec (.ovfClr sl k v) s = .next s) ∧
    (∀ k (v : Word), k < 16 → legal s sl 0x0F (0x10 + k) (withF v (F.PERF.OVF_CLR k) 1) = true → Answers (.ovfClr sl k v) s fun u =>
      getF u sl (F.PERF.OVF k) = 0) ∧
    (∀ k,
      let top : Prop := k < 16 ∧ isF s sl (F.PERF.EN k) = true ∧ getF s sl (F.PERF.VALUE k) = 2 ^ 48 - 1
      (¬ top → exec (.counterWrap sl k) s = .next s) ∧
      (top → Answers (.counterWrap sl k) s fun u => getF u sl (F.PERF.VALUE k) = 0 ∧ getF u sl (F.PERF.OVF k) = 1 ∧ Pending u sl Ev.CNT_WRAP)) ∧
    (let due : Prop := isF s sl F.PERF.DUMP_EN = true ∧ now s sl % (getF s sl F.PERF.DUMP_US * 1000) = 0
     let seq := tabGetD s.dumpSeq sl 0
     let full : Prop := ringFill s sl counterRing = ringLen s sl counterRing
     let at_ := memAddr sl (getF s sl F.PERF.RBASE * 4096 + getF s sl F.PERF.WP % ringLen s sl counterRing * 192)
     (¬ due → exec (.counterDump sl) s = .next s) ∧
     (due → ringInHeap s sl counterRing = true → Answers (.counterDump sl) s fun u => tabGetD u.dumpSeq sl 0 = seq + 1 ∧
       u.hbm = s.hbm ∧ getF u sl F.PERF.WP = getF s sl F.PERF.WP ∧ Counted s u sl F.PERF.DUMPS_SKIPPED ∧ Detected u sl Ev.RING_OVERLAP) ∧
     (due → ringInHeap s sl counterRing = false → full → Answers (.counterDump sl) s fun u => tabGetD u.dumpSeq sl 0 = seq + 1 ∧
       u.hbm = s.hbm ∧ getF u sl F.PERF.WP = getF s sl F.PERF.WP ∧ Counted s u sl F.PERF.DUMPS_LOST ∧ Detected u sl Ev.DUMP_LOST) ∧
     (due → ringInHeap s sl counterRing = false → ¬ full → Answers (.counterDump sl) s fun u => tabGetD u.dumpSeq sl 0 = seq + 1 ∧
       Counted s u sl F.PERF.WP ∧ ∀ i < 192, tabGetD u.hbm (at_ + i) 0 = (counterRecord s sl seq).getD i 0)) ∧
    (∀ sample (v : Word), legal s sl 0x0F (if sample then 0x33 else 0x31) v = true → Answers (.ringConsume sl sample v) s fun u =>
      getF u sl (if sample then F.PERF.SRP else F.PERF.RP) = fv v (if sample then F.PERF.SRP else F.PERF.RP)) ∧
    (∀ (t : Thread) (w : InsnWord) id j, t.slate = sl → t.idx < 192 → jobOn s t = some id → jobOf s id = some j →
      let x := samplingOf s sl
      let due : Prop := isF s sl F.PERF.SAMP_EN = true ∧ sampleThreshold s sl ≤ x.count ∧ canIssue j = true ∧
        (isHk j = true → isF s sl F.PERF.SAMP_HK = true)
      (¬ due → exec (.sampleSelect t w) s = .next s) ∧
      (due → Answers (.sampleSelect t w) s fun u => (samplingOf u sl).count = 0 ∧ (samplingOf u sl).lfsr = sampleLfsr x.lfsr ∧
        (x.tags.length = 16 → (samplingOf u sl).tags = x.tags ∧ Counted s u sl F.PERF.SAMPLES_SKIPPED) ∧
        (x.tags.length ≠ 16 → ∃ g, (samplingOf u sl).tags = x.tags ++ [g] ∧ g.thread = t.idx ∧ g.job = id ∧ g.word = w ∧
          g.tb = now s sl ∧ g.pc = j.pc ∧ g.addr = sampleAddr j w ∧ g.susp = false))) ∧
    (∀ v : Word, legal s sl 0x04 3 (withF v F.SWITCH.PEAK_CLR 1) = true → Answers (.switchPeakClr sl v) s fun u =>
      getF u sl F.SWITCH.PEAK = slateCells s sl % 2 ^ F.SWITCH.PEAK.w) ∧
    (∀ v : Word, serving s 0 = true → legal s 0 0x01 2 (withF v F.SUPPLY.PEAK_CLR 1) = true → Answers (.supplyPeakClr v) s fun u =>
      u.mod = { s.mod with pinMax := 0 }) ∧
    (∀ a b i p, serving s 0 = true → Answers (.supplyMeasure a b i p) s fun u =>
      u.mod.vinA = a ∧ u.mod.vinB = b ∧ u.mod.iin = i ∧ u.mod.pin = p ∧ u.mod.pinMax = max s.mod.pinMax (p % 2 ^ 16) ∧
      u.mod.feed = (if a ≤ b + 30 ∧ b ≤ a + 30 then 3 else if b < a then 1 else 2) ∧
      u.mod.feedChg = s.mod.feedChg + if u.mod.feed = s.mod.feed then 0 else 1)

/-! ### Keys, host queues and windows by their control entries (R111 to R115, R131 to R134, R259, R260) -/

/-- K_OP, Q_OP and W_OP. An illegal one changes nothing. K_OP 1 stores the staged entry and clears the staged secrets, K_OP 3 drops the entry, both by a journal
record where the entry is persistent; K_OP 2 shows an entry but its secrets. Q_OP 1 registers a queue, or
writes the record it takes effect with where it is persistent; 2 removes it, with a journal record where it is persistent; 3 resets it under its nonce floor.
W_OP 1 defines a window in the generation staged, 2 gives it the next generation, with the keys bound to it, and drops its recent operations; 3 removes it and its
copies and holds the index back for DUP_HORIZON. -/
def Obligations.KeyQueueWindowOps : Prop :=
  ∀ (s : State) (sl : Nat) (v : Word), sl < s.n → serving s sl = true →
    let idx := fv v F.XPORT.K_INDEX
    let k := stagedKey s sl
    let hq := hqNo sl (fv v F.HQ.Q_INDEX)
    let host : BitVec 32 := BitVec.ofNat 32 (getF s sl F.HQ.Q_HOST)
    let qk := getF s sl F.HQ.Q_KEY
    let pin := isF s sl F.HQ.Q_PIN
    let w := winNo sl (fv v F.RMA.W_INDEX)
    let kop (x : Nat) : Prop := legal s sl 0x05 0x100 (withF v F.XPORT.K_OP x) = true
    let qop (x : Nat) : Prop := legal s sl 0x06 0x100 (withF v F.HQ.Q_OP x) = true
    let wop (x : Nat) : Prop := legal s sl 0x08 0x100 (withF v F.RMA.W_OP x) = true
    let free (o : Nat) : Prop := (ownerOf s o).waiting = [] ∧ lineBusy (ownerOf s o) = false
    let wrote (u : State) (o : Nat) (t : TableItem) : Prop :=
      ∃ r, (ownerOf u o).recs = (ownerOf s o).recs ++ [r] ∧ r.body = .table t ∧ r.confirmed = false
    ((¬ kop 1 → exec (.keyWrite sl v) s = .next s) ∧ (¬ kop 2 → exec (.keyLoad sl v) s = .next s) ∧
      (¬ kop 3 → exec (.keyInvalidate sl v) s = .next s) ∧ (¬ qop 1 → exec (.queueRegister sl v) s = .next s) ∧
      (¬ qop 2 → exec (.queueDestroy sl v) s = .next s) ∧ (¬ qop 3 → exec (.queueReset sl v) s = .next s) ∧
      (¬ wop 1 → exec (.windowDefine sl v) s = .next s) ∧ (¬ wop 2 → exec (.windowReuse sl v) s = .next s) ∧
      (¬ wop 3 → exec (.windowDestroy sl v) s = .next s)) ∧
    (kop 1 → keyRecorded s sl idx (some k) = false → Answers (.keyWrite sl v) s fun u =>
      keyOf u sl idx = some k ∧ tabGet u.stage sl = none ∧ ∀ i, i ≠ keyKey sl idx → tabGet u.keys i = tabGet s.keys i) ∧
    (kop 1 → keyRecorded s sl idx (some k) = true → free 0 → Answers (.keyWrite sl v) s fun u =>
      u.keys = s.keys ∧ tabGet u.stage sl = none ∧ wrote u 0 (.key (keyKey sl idx) (some k))) ∧
    (kop 3 → keyRecorded s sl idx none = false → Answers (.keyInvalidate sl v) s fun u =>
      keyOf u sl idx = none ∧ ∀ i, i ≠ keyKey sl idx → tabGet u.keys i = tabGet s.keys i) ∧
    (kop 3 → keyRecorded s sl idx none = true → free 0 → Answers (.keyInvalidate sl v) s fun u =>
      u.keys = s.keys ∧ wrote u 0 (.key (keyKey sl idx) none)) ∧
    (kop 2 → Answers (.keyLoad sl v) s fun u => u.keys = s.keys ∧ tabGet u.stage sl = none ∧
      (keyOf s sl idx = none → getF u sl F.XPORT.VALID = 0 ∧ getF u sl F.XPORT.RIGHTS = 0 ∧ getF u sl F.XPORT.LO = 0 ∧ getF u sl F.XPORT.HI = 0) ∧
      ∀ e, keyOf s sl idx = some e → getF u sl F.XPORT.VALID = 1 ∧ getF u sl F.XPORT.MODE = e.mode.toNat ∧
        getF u sl F.XPORT.GEN = e.gen.toNat ∧ getF u sl F.XPORT.BIND = e.bind % 2 ^ 20 ∧ getF u sl F.XPORT.RIGHTS = e.rights.toNat ∧
        getF u sl F.XPORT.LO = e.lo.toNat ∧ getF u sl F.XPORT.HI = e.hi.toNat ∧ getF u sl F.XPORT.SALT = e.salt.toNat) ∧
    (qop 1 → isF s sl F.HQ.Q_PERSIST = false → Answers (.queueRegister sl v) s fun u =>
      queueAt u hq = some (newQueue s hq host qk pin false)) ∧
    (qop 1 → isF s sl F.HQ.Q_PERSIST = true → Answers (.queueRegister sl v) s fun u =>
      free sl → u.queues = s.queues ∧ wrote u sl (.queue hq host qk pin true)) ∧
    (∀ q, queueAt s hq = some q →
      (qop 2 → Answers (.queueDestroy sl v) s fun u => queueAt u hq = none ∧
        (q.persist = true → free sl → wrote u sl (.queue hq host qk pin false))) ∧
      (qop 3 → hq ≠ bootQueue → Answers (.queueReset sl v) s fun u => Pending u sl Ev.QUEUE_RESET ∧ Counted s u sl F.HQ.N_RESETS ∧
        ∃ q', queueAt u hq = some q' ∧ q'.armed = true ∧ q'.resetNonce = BitVec.ofNat 64 (nonceFloor q) ∧
          ∀ t < 32, (bitOf q'.resetMask.toNat t = true ↔ (tagAt q t).st ≠ .empty) ∧ (tagAt q' t).st ≠ .held ∧ (tagAt q' t).st ≠ .active)) ∧
    (wop 1 → Answers (.windowDefine sl v) s fun u => tabGet u.availAt w = none ∧
      windowOf u w = some { base := getF s sl F.RMA.W_BASE * 4096, pages := getF s sl F.RMA.W_PAGES,
                            gen := BitVec.ofNat 8 (getF s sl F.RMA.W_GEN0), since := now s sl }) ∧
    (∀ x, windowOf s w = some x →
      (wop 2 → Answers (.windowReuse sl v) s fun u => windowOf u w = some { x with gen := x.gen + 1, since := now s sl } ∧
        Pending u sl Ev.WIN_REUSED ∧ (∀ p ∈ rotOf u sl, p.2.window ≠ w) ∧
        ∀ i e, tabGet s.keys i = some e →
          tabGet u.keys i = some (if e.window = true ∧ e.bind = w then { e with gen := x.gen + 1 } else e)) ∧
      (wop 3 → Answers (.windowDestroy sl v) s fun u => windowOf u w = none ∧ tabGet u.availAt w = some (now s sl + dupHorizon s sl) ∧
        (∀ p ∈ rotOf u sl, p.2.window ≠ w) ∧ ∀ p ∈ copiesOf u sl, p.2.window ≠ w))

/-! ### The secure mailbox (R339 to R357) -/

/-- S_OP 1 to 6 copies its input and sets the block to work; an illegal write starts nothing. SECURE_OP_COMPLETE ends the operation under way, raises
SOP_DONE and leaves its status: the report and the certificate go to the mailbox, or their length is given where they do not fit; ENROL answers with the first
check that fails, or waits for its journal group and ends with it; RELEASE, SCRAP and ADVANCE leave no block readable, and SCRAP stops the unit; PROVISION is refused in
stage TEST; FW_STAGE writes the bank that does not run and prefers it; FW_COMMIT raises the least version, but not from the fallback bank. -/
def Obligations.SecureOps : Prop :=
  ∀ s : State, serving s 0 = true → s.pin.shadows = [] →
    let a := getF s 0 F.SECURE.SBUF_ADDR
    let l := getF s 0 F.SECURE.SBUF_LEN
    let row (k : Nat) (v : Word) : Instr := match k with
      | 1 => .attest v | 2 => .cert v | 3 => .enrol v | 4 => .provision v | 5 => .fwStage v | _ => .fwCommit v
    let ends (u : State) (st : Status) (n : Nat) : Prop := u.secure.op = none ∧ u.secure.status = st ∧ u.secure.len = n ∧ Pending u 0 Ev.SOP_DONE
    let outputs (o : SecureOutcome) (b : Block) : Prop :=
      (l < b.length → Answers (.secureOpComplete o) s fun u => ends u St.outOfRange b.length ∧ u.hbm = s.hbm) ∧
      (b.length ≤ l → Answers (.secureOpComplete o) s fun u => ends u St.ok b.length ∧
        ∀ i < b.length, tabGetD u.hbm (a + i) 0 = b.getD i 0)
    (∀ k (v : Word), 1 ≤ k → k ≤ 6 →
      (legal s 0 0x10 0x12 (withF v F.SECURE.S_OP k) = false → exec (row k v) s = .next s) ∧
      (legal s 0 0x10 0x12 (withF v F.SECURE.S_OP k) = true → Answers (row k v) s fun u => ∃ x, u.secure = { s.secure with op := some x } ∧
        x.op = k ∧ x.wait = none ∧
        (k = 1 → x.input = if l < 32 then [] else hbmRead s a 32) ∧ (k = 4 → x.input = if l < 1600 then [] else hbmRead s a 1600))) ∧
    (s.secure.op = none → ∀ o, exec (.secureOpComplete o) s = .next s) ∧
    (∀ x o, s.secure.op = some x →
      (x.op = 1 → outputs o (attestReport s x.input)) ∧
      (x.op = 2 → outputs o deviceCert) ∧
      (x.op = 3 →
        (∀ st, x.wait = none → authCheck s x.input o = some st → Answers (.secureOpComplete o) s fun u => ends u st 0 ∧
          (st = St.signatureBad → Detected u 0 Ev.SIG_REJECT)) ∧
        (x.wait = none → authCheck s x.input o = none → (ownerOf s 0).waiting = [] → lineBusy (ownerOf s 0) = false →
          Answers (.secureOpComplete o) s fun u => (∃ q, u.secure = { s.secure with op := some { x with wait := some q } }) ∧
            ∃ r rest, (ownerOf u 0).recs = (ownerOf s 0).recs ++ r :: rest ∧
              r.body = .table (.auth (inField x.input 4 1) (inField x.input 5 1) (blockSlice x.input 32 64))) ∧
        (∀ q, x.wait = some q → recConfirmed s 0 q = false → exec (.secureOpComplete o) s = .next s) ∧
        (∀ q, x.wait = some q → recConfirmed s 0 q = true → Answers (.secureOpComplete o) s fun u => ends u St.ok 0 ∧
          (inField x.input 4 1 ≤ 2 → u.media = s.media) ∧
          (3 ≤ inField x.input 4 1 → u.media = tabMapV s.media fun k _ => Config.staleBlock (s.secure.dataKey - 1) k) ∧
          (inField x.input 4 1 = 4 → isF s 0 F.FPIN.C4 = false → isF u 0 F.FPIN.C4 = true ∧ u.lease.role = 3))) ∧
      (x.op = 4 →
        (s.secure.stage = .test → Answers (.secureOpComplete o) s fun u => ends u St.notAttested 0 ∧ u.stage = s.stage) ∧
        (s.secure.stage ≠ .test → x.input = [] → Answers (.secureOpComplete o) s fun u => ends u St.illegalField 0 ∧ u.stage = s.stage) ∧
        (∀ sl, s.secure.stage ≠ .test → x.input ≠ [] → leNat (blockSlice x.input 8 8) = s.ready.bootId.toNat → inField x.input 0 4 = 1 →
          inField x.input 4 2 ≠ 0 → zeroAt x.input 6 2 = true →
          (let key := shake256 (Config.kemDecaps s.ready.bootId (blockSlice x.input 16 1568) ++ blockSlice x.input 8 8 ++ blockSlice x.input 4 2) 52
           blockSlice key 36 16 = blockSlice x.input 1584 16 → serving s sl = true → Answers (.secureOpComplete o) s fun u => ends u St.ok 0 ∧
            getF u sl F.XPORT.K_INDEX = inField x.input 4 2 % 2 ^ 16 ∧ getF u sl F.XPORT.SALT = leNat (blockSlice key 32 4) % 2 ^ 32 ∧
            ∃ g, tabGet u.stage sl = some g ∧ g.aes = (List.range 4).map fun i => BitVec.ofNat 64 (beNat (blockSlice key (8 * i) 8))))) ∧
      (x.op = 5 →
        (x.input = [] ∨ bankChecks s (imageOf x.input o.sigOk) = false → Answers (.secureOpComplete o) s fun u => ends u St.illegalField 0 ∧
          u.secure.flashA = s.secure.flashA ∧ u.secure.flashB = s.secure.flashB) ∧
        (x.input ≠ [] → inField x.input 0 4 = 3 → inField x.input 12 1 ≤ 63 → inField x.input 13 1 ≤ 1 → zeroAt x.input 112 16 = true →
          bankChecks s (imageOf x.input o.sigOk) = true →
          (o.sigOk = false → Answers (.secureOpComplete o) s fun u => ends u St.signatureBad 0 ∧ Detected u 0 Ev.SIG_REJECT) ∧
          (o.sigOk = true → o.flashOk = false → Answers (.secureOpComplete o) s fun u => ends u St.illegalField 0 ∧ Detected u 0 Ev.FLASH_ERR) ∧
          (o.sigOk = true → o.flashOk = true → Answers (.secureOpComplete o) s fun u => ends u St.ok 0 ∧
            u.secure.preferB = some (!s.secure.bankB) ∧
            (if s.secure.bankB then u.secure.flashA else u.secure.flashB) = some (imageOf x.input true)))) ∧
      (x.op = 6 →
        (s.secure.fallback = true → Answers (.secureOpComplete o) s fun u => ends u St.illegalField 0 ∧ u.secure.fwMin = s.secure.fwMin) ∧
        (s.secure.fallback = false → Answers (.secureOpComplete o) s fun u => ends u St.ok 0 ∧
          u.secure.fwMin = max s.secure.fwMin s.secure.fwSec)))

/-! ### The standard library (R90 to R102, R153) -/

/-- A library program acts only for a job of its slot that runs on a thread and waits for nothing; for any other it does nothing (R90). Arguments
that the checks of R92 refuse end a block program with the first status that applies; one whose leaves are being fetched waits for them. READ of deallocated blocks ends with no grain lost, and of lost blocks with
GRAINS_LOST and their number; WRITE and ATOMIC_WRITE wait for their payload, then for their courses; COMPARE_AND_WRITE waits for its payload,
and behind an overlapping one; DEALLOCATE makes a map record for each block and waits for it; FLUSH takes no argument. -/
def Obligations.BlockPrograms : Prop :=
  (∀ (s : State) (id : Nat) (img : ProgImage) (rng : Bool) (p : Nat × Instr), serving s 0 = true →
    p ∈ [(0x000, .read id), (0x001, .write id), (0x002, .atomicWrite id), (0x003, .compareAndWrite id), (0x004, .deallocate id),
      (0x005, .flush id), (0x010, .volumeCreate id), (0x011, .volumeDelete id), (0x012, .volumeResize id), (0x013, .volumeInfo id),
      (0x020, .sanitize ⟨id, rng⟩), (0x021, .format id), (0x022, .adminStatus id), (0x028, .powerState id), (0x030, .programInstall id img),
      (0x031, .programRemove id), (0x032, .programInfo id), (0x040, .ctlGet id), (0x041, .ctlSet id), (0x042, .ctlSwap id)] →
    (∀ j, ¬ RunsLib s p.1 id j) → exec p.2 s = .next s) ∧
  (∀ (s : State) (id : Nat) (j : Job) (st : Status),
    (RunsLib s 0x000 id j → blockCheck s j 2048 0 1 false = some st → EndsLib (.read id) s id st [] fun u => u.map = s.map) ∧
    (RunsLib s 0x001 id j → blockCheck s j 2048 1 0 true = some st → EndsLib (.write id) s id st [] fun u => u.map = s.map) ∧
    (RunsLib s 0x002 id j → blockCheck s j (courseBlocks s) 1 0 true = some st → EndsLib (.atomicWrite id) s id st [] fun u => u.map = s.map) ∧
    (RunsLib s 0x003 id j → blockCheck s j 256 2 0 true = some st → EndsLib (.compareAndWrite id) s id st [] fun u => u.map = s.map) ∧
    (RunsLib s 0x004 id j → blockCheck s j 2048 0 0 false = some st → EndsLib (.deallocate id) s id st [] fun u => u.map = s.map)) ∧
  (∀ (s : State) (id : Nat) (j : Job) (a : BlockArgs), blockArgs j = some a →
    let t := fetchLeaves s a
    let fetching : Prop := leavesFetching t a.volume a.lba a.count = true
    let mapped : Prop := ¬ fetching ∧ ∀ i < a.count, nodeCached s a.volume 0 ((a.lba + i) / 512) = true
    (RunsLib s 0x000 id j → blockCheck s j 2048 0 1 false = none → fetching →
      WaitsLib (.read id) s id (.mapReads a.volume a.lba a.count) .readMapped fun u => u.map = s.map ∧ u.courses = s.courses) ∧
    (RunsLib s 0x004 id j → blockCheck s j 2048 0 0 false = none → fetching →
      WaitsLib (.deallocate id) s id (.mapReads a.volume a.lba a.count) .deallocMapped fun u => u.map = s.map ∧ u.owners = s.owners) ∧
    (∀ h2, RunsLib s 0x000 id j → blockCheck s j 2048 0 1 false = none → tabGet j.h 2 = some h2 → j.tickets = [] → mapped →
      ((∀ i < a.count, deallocated (mapEntry s a.volume (a.lba + i)) = true) →
        EndsLib (.read id) s id St.ok [0] fun u => u.map = s.map ∧ u.courses = s.courses) ∧
      (∀ l, s.layout = some l → (∀ i < a.count, entryLost (mapEntry s a.volume (a.lba + i)) = true) →
        EndsLib (.read id) s id St.grainsLost [BitVec.ofNat 64 a.count] fun u => u.map = s.map ∧ u.courses = s.courses)) ∧
    (∀ h, tabGet j.h 1 = some h →
      let n := a.count * 4096
      let x (atomic : Bool) : AppendArgs := { volume := a.volume, lba := a.lba, count := a.count, buf := h.buf, off := h.off, atomic := atomic }
      (RunsLib s 0x001 id j → blockCheck s j 2048 1 0 true = none →
        (arrived s h.buf h.off (h.off + n) = false → WaitsLib (.write id) s id (.appendPayload (x false)) (.finish St.ok []) fun u => u.courses = s.courses) ∧
        (arrived s h.buf h.off (h.off + n) = true → WaitsLib (.write id) s id .courses (.finish St.ok []) fun _ => True)) ∧
      (RunsLib s 0x002 id j → blockCheck s j (courseBlocks s) 1 0 true = none →
        (arrived s h.buf h.off (h.off + n) = false → WaitsLib (.atomicWrite id) s id (.appendPayload (x true)) (.finish St.ok []) fun u => u.courses = s.courses) ∧
        (arrived s h.buf h.off (h.off + n) = true → WaitsLib (.atomicWrite id) s id .courses (.finish St.ok []) fun _ => True)) ∧
      (RunsLib s 0x003 id j → blockCheck s j 256 2 0 true = none →
        (arrived s h.buf h.off (h.off + 2 * n) = false →
          WaitsLib (.compareAndWrite id) s id (.payload h.buf h.off (h.off + 2 * n)) .resume fun u => u.map = s.map) ∧
        (arrived s h.buf h.off (h.off + 2 * n) = true → comparing s id a = true → exec (.compareAndWrite id) s = .next s) ∧
        (arrived s h.buf h.off (h.off + 2 * n) = true → comparing s id a = false → Answers (.compareAndWrite id) s fun u =>
          ∃ j', jobOf u id = some j' ∧ (j'.wait ≠ .none ∨ j'.ended ≠ none)))) ∧
    (RunsLib s 0x004 id j → blockCheck s j 2048 0 0 false = none → mapped → (askCommit t id).2 = true →
      ∃ q, WaitsLib (.deallocate id) s id (.record j.slate q) (.finish St.ok []) fun u => u.map = s.map ∧ ∀ i < a.count,
        ∃ n, .mset (a.lba + i) a.volume 0 n .dealloc ∈ (ownerOf u j.slate).recs.map (·.body) ++ (ownerOf u j.slate).waiting.map (·.body))) ∧
  (∀ (s : State) (id : Nat) (j : Job), RunsLib s 0x005 id j →
    let bare : Prop := rd j 1 = 0 ∧ rd j 2 = 0 ∧ rd j 9 = 0 ∧ outLen j = 0
    let stopped : Prop := s.admin.state = 1 ∧ s.admin.op ≠ 2
    (¬ bare → EndsLib (.flush id) s id St.illegalField [] fun _ => True) ∧
    (bare → stopped → EndsLib (.flush id) s id St.notServing [] fun _ => True) ∧
    (bare → ¬ stopped → EndsLib (.flush id) s id St.ok [] fun _ => True))

/-- The volume programs (R95). A volume number above 4095, or a size of 0 or above 2^40 blocks, is out of range; a pool that is not served gives NOT_SERVING, but not to VOLUME_INFO.
VOLUME_CREATE of a number in use is refused, and any other waits for its record; VOLUME_DELETE and a shrink wait for the jobs that hold an
extent in what they cut off, under a cut that keeps the size it had; growing waits for its record; VOLUME_INFO gives size, grains mapped
and state. VOLUME_CUTOVER applies a cut once its TB has come and its record has taken effect: the entries cut off are gone. -/
def Obligations.VolumePrograms : Prop :=
  (∀ (s : State) (id : Nat) (j : Job),
    let v := (rd j 1).toNat
    let z := (rd j 2).toNat
    let up := poolServed s
    let wide : Prop := z = 0 ∨ 2 ^ 40 < z
    let wrote (u : State) (t : TableItem) : Prop := .table t ∈ (ownerOf u 0).recs.map (·.body) ++ (ownerOf u 0).waiting.map (·.body)
    let cut (x : Volume) (k : Nat) : Volume :=
      { x with cut := some { size := k, was := x.size, job := id, hold := extentHolders s v k (some id), tb := none } }
    (RunsLib s 0x010 id j →
      (4095 < v ∨ wide → EndsLib (.volumeCreate id) s id St.outOfRange [] fun u => u.volumes = s.volumes) ∧
      (v ≤ 4095 → ¬ wide → up = false → EndsLib (.volumeCreate id) s id St.notServing [] fun u => u.volumes = s.volumes) ∧
      (v ≤ 4095 → ¬ wide → up = true → volumeExists s j.slate v = true →
        EndsLib (.volumeCreate id) s id St.illegalField [] fun u => u.volumes = s.volumes) ∧
      (v ≤ 4095 → ¬ wide → up = true → tabGet s.volumes v = none → pendingSize s v = none → (askCommit s id).2 = true →
        ∃ q, WaitsLib (.volumeCreate id) s id (.record 0 q) (.finish St.ok []) fun u => u.volumes = s.volumes ∧ wrote u (.volume v (some z)))) ∧
    (RunsLib s 0x011 id j →
      (openSize s j.slate v = none →
        EndsLib (.volumeDelete id) s id (if 4095 < v ∨ up = true then St.outOfRange else St.notServing) [] fun u => u.volumes = s.volumes) ∧
      (∀ x, tabGet s.volumes v = some x → x.cut = none →
        (up = false → EndsLib (.volumeDelete id) s id St.notServing [] fun u => u.volumes = s.volumes) ∧
        (up = true → WaitsLib (.volumeDelete id) s id (.volumeJobs v) (.cutVolume v) fun u => tabGet u.volumes v = some (cut x 0)))) ∧
    (RunsLib s 0x012 id j →
      (openSize s j.slate v = none →
        EndsLib (.volumeResize id) s id (if 4095 < v ∨ up = true then St.outOfRange else St.notServing) [] fun u => u.volumes = s.volumes) ∧
      (∀ x, tabGet s.volumes v = some x → x.cut = none →
        (wide → EndsLib (.volumeResize id) s id St.outOfRange [] fun u => u.volumes = s.volumes) ∧
        (¬ wide → up = false → EndsLib (.volumeResize id) s id St.notServing [] fun u => u.volumes = s.volumes) ∧
        (¬ wide → up = true → z < x.size → WaitsLib (.volumeResize id) s id (.volumeJobs v) (.cutVolume v) fun u =>
          tabGet u.volumes v = some (cut x z)) ∧
        (¬ wide → up = true → x.size ≤ z → (askCommit s id).2 = true →
          ∃ q, WaitsLib (.volumeResize id) s id (.record 0 q) .finishTb fun u => u.volumes = s.volumes ∧ wrote u (.volume v (some z))))) ∧
    (RunsLib s 0x013 id j →
      (4095 < v → EndsLib (.volumeInfo id) s id St.outOfRange [] fun _ => True) ∧
      (v ≤ 4095 → openSize s j.slate v = none → EndsLib (.volumeInfo id) s id St.ok [] fun _ => True) ∧
      (∀ k, v ≤ 4095 → openSize s j.slate v = some k → EndsLib (.volumeInfo id) s id St.ok
        [BitVec.ofNat 64 k, BitVec.ofNat 64 (mappedGrains s v),
          if s.admin.state = 1 ∧ s.admin.op = 2 ∧ s.admin.volume = v then 3 else 1] fun _ => True))) ∧
  (∀ (s : State) (v : Nat), serving s 0 = true →
    let due (x : Volume) (c : VolCut) : Prop := x.cut = some c ∧ x.size = c.size ∧ ∃ t, c.tb = some t ∧ t ≤ now s 0
    ((∀ x c, tabGet s.volumes v = some x → ¬ due x c) → exec (.volumeCutover v) s = .next s) ∧
    (∀ x c, tabGet s.volumes v = some x → due x c → Answers (.volumeCutover v) s fun u =>
      u.volumes = (if c.size = 0 then tabDel s.volumes v else tabPut s.volumes v { x with cut := none }) ∧
      ∀ w lba, lba < 2 ^ 64 → mapEntry u w lba = if w = v ∧ c.size ≤ lba then 0 else mapEntry s w lba))

/-- Administration, power states, the program store and control-space access (R45, R96 to R102, R153). SANITIZE and FORMAT refuse bad arguments, a pool not served and an
operation under way, SANITIZE a failed entropy source too, and otherwise start one and wait for its progress record; ADMIN_STATUS shows it. POWER_STATE returns once the unit is in the state, which
PS_ENTRY_DONE makes it once the members are in theirs, for PS2 only with every other job ended; PS_EXIT_DONE ends the exit. PROGRAM_INSTALL and PROGRAM_REMOVE refuse with the first check
that fails, and otherwise record the slot's change, which PROGRAM_CUTOVER makes at its TB; PROGRAM_INFO shows a slot. CTL_GET, CTL_SET and CTL_SWAP end with what
the access to the entry answers. -/
def Obligations.AdminPrograms : Prop :=
  (∀ (s : State) (id : Nat) (j : Job),
    let a1 := (rd j 1).toNat
    let a2 := (rd j 2).toNat
    let a3 := (rd j 3).toNat
    let busy : Prop := s.admin.state = 1
    let up := poolServed s
    let starts (c : Instr) (op : Nat) : Prop := ∃ q w, WaitsLib c s id (.record 0 q) (.finish St.ok [w]) fun u =>
      u.admin.op = op ∧ u.admin.state = 1 ∧ u.admin.stage = 0 ∧ u.admin.ident = w
    (RunsLib s 0x020 id j → ∀ rng,
      let bad : Prop := a1 = 0 ∨ 3 < a1 ∨ (a1 = 3 ∧ (a3 = 0 ∨ 16 < a3 ∨ 2 ^ 32 ≤ a2))
      let able : Prop := ∀ m ∈ serviceMembers s, bitOf (memberOf s m).sanCap a1 = true
      (bad ∨ ¬ able → EndsLib (.sanitize ⟨id, rng⟩) s id St.illegalField [] fun u => u.admin = s.admin) ∧
      (¬ bad → able → up = false → EndsLib (.sanitize ⟨id, rng⟩) s id St.notServing [] fun u => u.admin = s.admin) ∧
      (¬ bad → able → up = true → busy ∨ rng = false → EndsLib (.sanitize ⟨id, rng⟩) s id St.busyRetry [] fun u => u.admin = s.admin) ∧
      (¬ bad → able → up = true → ¬ busy → rng = true → (askCommit s id).2 = true → starts (.sanitize ⟨id, rng⟩) 1)) ∧
    (RunsLib s 0x021 id j →
      (1 < a1 → EndsLib (.format id) s id St.illegalField [] fun u => u.admin = s.admin) ∧
      (a1 = 0 → openSize s j.slate a2 = none →
        EndsLib (.format id) s id (if 4095 < a2 ∨ up = true then St.outOfRange else St.notServing) [] fun u => u.admin = s.admin) ∧
      (∀ z, a1 = 0 → openSize s j.slate a2 = some z →
        (up = false → EndsLib (.format id) s id St.notServing [] fun u => u.admin = s.admin) ∧
        (up = true → busy → EndsLib (.format id) s id St.busyRetry [] fun u => u.admin = s.admin) ∧
        (up = true → ¬ busy → (askCommit s id).2 = true → starts (.format id) 2)) ∧
      (∀ st, a1 = 1 → formatRefused s a2 a3 = some st → EndsLib (.format id) s id st [] fun u => u.admin = s.admin) ∧
      (a1 = 1 → formatRefused s a2 a3 = none →
        (up = false → EndsLib (.format id) s id St.notServing [] fun u => u.admin = s.admin) ∧
        (up = true → busy → EndsLib (.format id) s id St.busyRetry [] fun u => u.admin = s.admin) ∧
        (up = true → ¬ busy → (askCommit s id).2 = true → starts (.format id) 3))) ∧
    (RunsLib s 0x022 id j → ∃ p < 2 ^ 16, (s.admin.op = 0 → p = 0) ∧ EndsLib (.adminStatus id) s id St.ok
      [BitVec.ofNat 64 (s.admin.op + s.admin.state * 256), s.admin.ident, BitVec.ofNat 64 p,
        BitVec.ofNat 64 (s.admin.final.toNat + s.admin.failed * 2 ^ 32)] fun u => u.admin = s.admin) ∧
    (RunsLib s 0x028 id j →
      (2 < a1 → EndsLib (.powerState id) s id St.outOfRange [] fun u => u.power = s.power) ∧
      (a1 ≤ 2 → busy → EndsLib (.powerState id) s id St.busyRetry [] fun u => u.power = s.power) ∧
      (a1 ≤ 2 → ¬ busy → a1 ≠ s.power.now → s.power.target ≠ none → EndsLib (.powerState id) s id St.busyRetry [] fun u => u.power = s.power) ∧
      (a1 ≤ 2 → ¬ busy → a1 = s.power.now →
        EndsLib (.powerState id) s id St.ok [BitVec.ofNat 64 (now s j.slate)] fun u => u.power = s.power) ∧
      (a1 ≤ 2 → ¬ busy → s.power.target = none → a1 ≠ s.power.now →
        WaitsLib (.powerState id) s id .powerEntry .resume fun u => u.power = { s.power with target := some (a1, id) })) ∧
    (∀ img, RunsLib s 0x030 id j →
      (tabGet j.h 1 = none → EndsLib (.programInstall id img) s id St.illegalField [] fun u => u.slots = s.slots) ∧
      (∀ h, tabGet j.h 1 = some h →
        let n := (rd j 9).toNat
        let b := handleRead s h 0 n
        (arrived s h.buf h.off (h.off + n) = false →
          WaitsLib (.programInstall id img) s id (.payload h.buf h.off (h.off + n)) .resume fun u => u.slots = s.slots) ∧
        (arrived s h.buf h.off (h.off + n) = true →
          (∀ st, installCheck s b n img.sigOk = some st → EndsLib (.programInstall id img) s id st [] fun u => u.slots = s.slots ∧ u.cutover = s.cutover) ∧
          (installCheck s b n img.sigOk = none → img.flashOk = false →
            EndsLib (.programInstall id img) s id St.illegalField [] fun u => u.cutover = s.cutover ∧ (s.pin.shadows = [] → Detected u 0 Ev.FLASH_ERR)) ∧
          (installCheck s b n img.sigOk = none → img.flashOk = true → (askCommit s id).2 = true →
            ∃ q, WaitsLib (.programInstall id img) s id (.record 0 q) .cutProgram fun u => u.slots = s.slots ∧
              u.cutover = some { slot := (imageProgram b).slot, prog := some s.nextProg, tb := none } ∧
              tabGet u.progs s.nextProg = some (measured (imageProgram b)))))) ∧
    (RunsLib s 0x031 id j →
      (0x3FF < a1 → EndsLib (.programRemove id) s id St.outOfRange [] fun u => u.slots = s.slots) ∧
      (a1 < 0x100 → EndsLib (.programRemove id) s id St.rights [] fun u => u.slots = s.slots) ∧
      (0x100 ≤ a1 → a1 ≤ 0x3FF → slotProg s a1 = none → EndsLib (.programRemove id) s id St.noProgram [] fun u => u.slots = s.slots) ∧
      (0x100 ≤ a1 → a1 ≤ 0x3FF → slotProg s a1 ≠ none → hkNames s a1 = true → EndsLib (.programRemove id) s id St.illegalField [] fun u => u.slots = s.slots) ∧
      (0x100 ≤ a1 → a1 ≤ 0x3FF → slotProg s a1 ≠ none → hkNames s a1 = false → s.cutover ≠ none →
        EndsLib (.programRemove id) s id St.busyRetry [] fun u => u.slots = s.slots) ∧
      (0x100 ≤ a1 → a1 ≤ 0x3FF → slotProg s a1 ≠ none → hkNames s a1 = false → s.cutover = none → (askCommit s id).2 = true →
        ∃ q, WaitsLib (.programRemove id) s id (.record 0 q) .cutProgram fun u => u.cutover = some { slot := a1, prog := none, tb := none })) ∧
    (RunsLib s 0x032 id j →
      (0x3FF < a1 → EndsLib (.programInfo id) s id St.outOfRange [] fun _ => True) ∧
      (a1 ≤ 0x3FF → ∃ w1 w2 w3, EndsLib (.programInfo id) s id St.ok [readEntry s j.slate 0x02 (0x400 + a1), w1, w2, w3] fun u => u.slots = s.slots)) ∧
    (RunsLib s 0x040 id j → ∀ st e, ctlGetOp s (rd j 1) j.slate = (st, e) → EndsLib (.ctlGet id) s id st e.toList fun u => u.ctl = s.ctl) ∧
    (RunsLib s 0x041 id j →
      let g := ctlGrant s (rd j 1) j.slate
      (∀ st, ctlCheck g (rd j 1) j.slate = some st → EndsLib (.ctlSet id) s id st [] fun u => u.ctl = s.ctl) ∧
      (∀ t j', ctlSetOp g id (rd j 1) j.slate (rd j 2) = (t, St.ok, none) → jobOf t id = some j' → j'.ended = none →
        EndsLib (.ctlSet id) s id St.ok [] fun u => u.ctl = t.ctl)) ∧
    (RunsLib s 0x042 id j →
      let g := ctlGrant s (rd j 1) j.slate
      (∀ st, ctlCheck g (rd j 1) j.slate = some st → EndsLib (.ctlSwap id) s id st [0, 0] fun u => u.ctl = s.ctl) ∧
      (ctlCheck g (rd j 1) j.slate = none → ctlRead g (rd j 1) j.slate ≠ rd j 2 →
        EndsLib (.ctlSwap id) s id St.ok [ctlRead g (rd j 1) j.slate, 0] fun u => u.ctl = s.ctl) ∧
      (∀ t j' e, ctlSwapOp g id (rd j 1) j.slate (rd j 2) (rd j 3) = (t, St.ok, some e, true, none) → jobOf t id = some j' → j'.ended = none →
        e = rd j 2 ∧ EndsLib (.ctlSwap id) s id St.ok [e, 1] fun u => u.ctl = t.ctl))) ∧
  (∀ s : State, serving s 0 = true →
    (s.power.target = none → exec .psEntryDone s = .next s) ∧
    (∀ t id j, s.power.target = some (t, id) → jobOf s id = some j →
      ((t = 2 ∧ othersEnded s id = false) ∨ powerBusy s = true → exec .psEntryDone s = .next s) ∧
      (t ≠ 2 ∨ othersEnded s id = true → powerBusy s = false → EndsLib .psEntryDone s id St.ok [BitVec.ofNat 64 (now s j.slate)] fun u =>
        u.power = { now := t, target := none, exiting := false })) ∧
    (s.power.now ≠ 2 ∨ s.power.exiting = false ∨ powerBusy s = true → exec .psExitDone s = .next s) ∧
    (s.power.now = 2 → s.power.exiting = true → powerBusy s = false → Answers .psExitDone s fun u => u.power = { now := 0, target := none, exiting := false }) ∧
    ((∀ c t, s.cutover = some c → c.tb = some t → now s 0 < t) → exec .programCutover s = .next s) ∧
    (∀ c t, s.cutover = some c → c.tb = some t → t ≤ now s 0 → Answers .programCutover s fun u => u.cutover = none ∧
      (∀ v, c.prog = some v → u.slots = tabPut s.slots c.slot v ∧ tabGet u.progs v = tabGet s.progs v) ∧
      (c.prog = none → u.slots = tabDel s.slots c.slot) ∧ ∀ sl < s.n, serving s sl = true → Pending u sl Ev.STORE_CHANGE))

/-! ### The sequencer, reset and recovery (R199 to R203, R342, R364 to R373) -/

/-- A module without power starts only with LM_N low for 50 ms, a feed above the rising threshold, PCYC_N high, no latched trip and t_OFF
passed. PCYC_N low for t_PCYC, LM_N going high, a carrying feed below the lockout, a diode at its trip threshold and a lock lost for 1 ms each turn every
regulator off: what the flash, the MRAM and the drives hold stays, every job, queue and byte of memory is gone, and t_OFF begins. The three ranges
the spec gives for a threshold are claimed at their ends. RESET_EXIT boots the preferred bank if it is good, else the other with FALLBACK; a
scrapped part, or one with no good bank, stays in its ROM. REPLAY_DONE ends recovery where every journal is proved, and latches class 4
where one is not. A drive port releases PERST_N 100 us after its clock starts. -/
def Obligations.PowerAndRecovery : Prop :=
  ∀ (s : State),
    let cut (u : State) : Prop := u.mod.power = .off ∧ u.mod.offTime = true ∧ u.mod.vcoLost = false ∧ u.recovery = 0 ∧ u.jobs = [] ∧ u.hbm = [] ∧
      u.queues = [] ∧ u.n = s.n ∧ u.durable = s.durable ∧ u.media = s.media ∧ u.layout = s.layout ∧ u.map = s.map ∧ u.pending = s.pending
    let on : Prop := s.mod.power ≠ .off
    (∀ p : StartPins,
      let may : Prop := s.mod.power = .off ∧ 50000000 ≤ p.lmLowNs ∧ p.pcycHigh = true ∧ s.mod.trip = false ∧ s.mod.offTime = false
      (¬ may ∨ max p.feedA p.feedB ≤ 37000 → exec (.powerStart p) s = .next s) ∧
      (may → 39500 < max p.feedA p.feedB → exec (.powerStart p) s = .next { s with mod := { s.mod with power := .inReset } })) ∧
    ((on → Answers .lastMateBreak s cut) ∧ (¬ on → exec .lastMateBreak s = .next s)) ∧
    (∀ low, (low < 180000 → exec (.pcycAssert low) s = .next s) ∧
      (200000 ≤ low → on → Answers (.pcycAssert low) s fun u => cut u ∧ u.mod.trip = false ∧ u.mod.therm = false)) ∧
    (∀ a b, (36000 ≤ max a b → exec (.supplyCollapse a b) s = .next s) ∧
      (max a b < 32000 → on → Answers (.supplyCollapse a b) s fun u => cut u ∧ (a = 0 → b = 0 → u.mod.trip = false))) ∧
    (exec .offTimeExpiry s = .next (if s.mod.power = .off then { s with mod := { s.mod with offTime := false } } else s)) ∧
    (∀ l : List Diode,
      let trip : Prop := ∃ d ∈ l, d.slate < s.n ∧ (if d.hbm then 105 else 115) ≤ d.temp
      let warm : Prop := ∃ d ∈ l, d.slate < s.n ∧ (if d.hbm then 90 else 100) ≤ d.temp
      let cool : Prop := ∀ d ∈ l, d.slate < s.n → d.temp ≤ (if d.hbm then 85 else 95)
      (on → trip → Answers (.thermalPoll l) s fun u => cut u ∧ u.mod.trip = true ∧ u.mod.therm = true) ∧
      (s.mod.power = .running → ¬ trip → warm →
        exec (.thermalPoll l) s = .next { s with mod := { s.mod with therm := true } }) ∧
      (s.mod.power = .running → cool →
        exec (.thermalPoll l) s = .next { s with mod := { s.mod with therm := false } }) ∧
      (s.mod.power = .running → ¬ warm → ¬ cool → exec (.thermalPoll l) s = .next s)) ∧
    ((s.mod.power = .running → Answers .vcoLockLoss s fun u => ∀ sl, serving u sl = false) ∧
      (s.mod.power ≠ .running → exec .vcoLockLoss s = .next s) ∧
      (s.mod.vcoLost = false → exec .vcoLossTimeout s = .next s) ∧
      (s.mod.vcoLost = true → on → Answers .vcoLossTimeout s cut)) ∧
    (∀ b : BootIn,
      let good (i : BankImage) : Prop := i.rootMatches = true ∧ i.stepping = 0x00B0 ∧ s.secure.fwMin ≤ i.secVersion ∧ i.fits = true ∧
        (i.testImage = true → s.secure.stage = .test) ∧ i.sigOk = true
      let prefB := s.secure.preferB.getD b.preferB
      let bank (z : Bool) : BankImage := if z then s.secure.flashB.getD b.bankB else s.secure.flashA.getD b.bankA
      let ready : Prop := s.mod.power = .inReset ∧ s.pin.romHold = false
      let runs (u : State) (z : Bool) : Prop := u.mod.power = .running ∧ u.recovery = 2 ∧ u.lease.bay = b.bayHigh.toNat ∧
        u.secure.bankB = z ∧ u.secure.fwSec = (bank z).secVersion ∧ u.secure.fwMeasure = (bank z).measure
      (¬ ready → exec (.resetExit b) s = .next s) ∧
      (ready → s.secure.stage = .scrapped ∨ (¬ good (bank prefB) ∧ ¬ good (bank !prefB)) →
        exec (.resetExit b) s = .next { s with pin := { s.pin with romHold := true } }) ∧
      (ready → s.secure.stage ≠ .scrapped → good (bank prefB) → Answers (.resetExit b) s fun u => runs u prefB ∧ u.secure.fallback = false) ∧
      (ready → s.secure.stage ≠ .scrapped → ¬ good (bank prefB) → good (bank !prefB) → Answers (.resetExit b) s fun u =>
        runs u (!prefB) ∧ u.secure.fallback = true ∧ Pending u 0 Ev.BOOT_FALLBACK)) ∧
    (∀ cs : List JournalCopy, serving s 0 = true →
      let due : Prop := s.recovery = 2 ∧ s.quorum = true ∧ s.lease.role = 1 ∧ isF s 0 F.FPIN.C4 = false
      let lost : Prop := ∃ o < s.n, ∃ hs, lastHolders s cs o = some hs ∧ hs ≠ [] ∧
        ∀ c ∈ cs, c.owner = o → copyReadable s c = true → liveToEnd s o c.holder = true → c.holder ∉ hs
      (¬ due → exec (.replayDone cs) s = .next s) ∧
      (due → lost → Answers (.replayDone cs) s fun u => isF u 0 F.FPIN.C4 = true ∧ u.recovery = 2) ∧
      (due → ¬ lost → Answers (.replayDone cs) s fun u => u.recovery = 8 ∧ u.lease.lapsed = false ∧ Pending u 0 Ev.REPLAY_DONE ∧
        (s.lease.lapsed = true → Pending u 0 Ev.LAPSED))) ∧
    (∀ m, memberSlate m < s.n → serving s 0 = true → hasPath s m = true →
      let x := memberOf s m
      exec (.perstRelease m) s = .next
        (if x.perst = true ∧ serving s (memberSlate m) = true ∧ s.resetTb + 100000 ≤ now s 0 then putMember s m { x with present := true, perst := false } else s))

/-! ### Drive ports, fabric links and gates: where each command completes -/

/-- The commands of drive ports, gate lists, fabric links, multicasts and the switch barrier each complete with their effect on the conditions stated: a member
whose link goes, whose CSTS shows CFS, which is not ready in time or which leaves its port is gone (R181, R371); a command that times out is aborted, and
its controller is reset once the abort has had its time, and runs again when it is ready (R181); a completion ends its command (R66); a gate list is installed, takes
over, moves on and is disabled (R251 to R254); a peer's pause runs out (R235); a link retrains, goes down and comes back, and so does a partner lane pair (R230, R241, R324); a
multicast ends, a frame held for an older lookup is queued, and a barrier starts and ends (R237 to R239). -/
def Obligations.MemberAndLinkCommandsComplete : Prop :=
  (∀ (s : State) (m : Nat), memberSlate m < s.n → serving s 0 = true → hasPath s m = true →
    let x := memberOf s m
    let sl := portSlate s m
    (x.link = true → x.mstate = 2 → x.cmds = [] →
      (∃ t, exec (.memberLinkLoss m) s = .next t ∧ (memberOf t m).mstate = 3 ∧ (memberOf t m).link = false) ∧
      ∃ t, exec (.cstsPoll m true) s = .next t ∧ (memberOf t m).mstate = 3) ∧
    (∀ i c, tabGet x.cmds i = some c → c.use ≠ .sanitize → c.aborted = none → c.queue ≠ none → c.tb + c.timeout ≤ now s sl → i ≠ s.nextCmd →
      ∃ t, exec (.cmdTimeout m i) s = .next t ∧ ∃ c', tabGet (memberOf t m).cmds i = some c' ∧ c'.aborted = some (now s sl)) ∧
    (∀ i c a, tabGet x.cmds i = some c → c.aborted = some a → x.resetAt = none → a + c.grace ≤ now s sl →
      ∃ t, exec (.abortGraceExpiry m i) s = .next t ∧ (memberOf t m).resetAt = some (now s sl)) ∧
    (∀ a, x.resetAt = some a → a + readyLimit s m ≤ now s sl → x.mstate = 2 → x.cmds = [] →
      ∃ t, exec (.readyMaxExpiry m) s = .next t ∧ (memberOf t m).mstate = 3) ∧
    (x.resetAt ≠ none → x.cmds = [] → ∃ t, exec (.controllerReady m) s = .next t ∧ (memberOf t m).resetAt = none) ∧
    (∀ i c r, tabGet x.cmds i = some c → c.queue ≠ none → c.use = .internal ∨ (∃ j k, c.use = .ticket j k) →
      ∃ t, exec (.nvmeCompletion m i r) s = .next t ∧ tabGet (memberOf t m).cmds i = none) ∧
    (x.present = true → x.mstate = 2 → x.cmds = [] →
      ∃ t, exec (.prsntDeassert m) s = .next t ∧ (memberOf t m).present = false ∧ (memberOf t m).mstate = 3)) ∧
  (∀ (s : State) (sl : Nat), serving s sl = true →
    (∀ v, legal s sl 0x07 0x240 (withF v F.SCHED.GL_INSTALL 1) = true →
      ∃ t l, exec (.glInstall sl v) s = .next t ∧ (gatesOf t sl).pend = some l ∧ l.entries = stagedGates t sl) ∧
    (∀ v, legal s sl 0x07 0x240 (withF (withF v F.SCHED.GL_INSTALL 0) F.SCHED.GL_EN 0) = true →
      ∃ t, exec (.glDisable sl v) s = .next t ∧ (gatesOf t sl).oper = none ∧ (gatesOf t sl).pend = none) ∧
    (∀ l, (gatesOf s sl).pend = some l → l.start ≤ now s sl → ∃ t, exec (.gateTakeover sl) s = .next t ∧ (gatesOf t sl).oper = some l) ∧
    (∀ l, (gatesOf s sl).oper = some l → ∃ t, exec (.gateListEntry sl) s = .next t ∧
      (gatesOf t sl).entry = (entryAt l.entries 0 ((now s sl - l.start) % l.cycle)).1) ∧
    (∀ c p, c < 8 → tabGet s.peerPause (sl * 8 + c) = some p → s.pin.shadows = [] → p.raised = false →
      getF s sl F.SWITCH.PEER_PAUSE_MAX ≠ 0 → p.since + getF s sl F.SWITCH.PEER_PAUSE_MAX * 1000000 ≤ now s sl →
      ∃ t, exec (.peerPauseExpiry sl c) s = .next t ∧ tabGet t.peerPause (sl * 8 + c) = some { p with raised := true }) ∧
    (∀ id m, tabGet s.mcast id = some m → m.slate = sl → m.left = 0 →
      ∃ t, exec (.multicastDone sl id) s = .next t ∧ tabGet t.mcast id = none) ∧
    (∀ id f, tabGet s.frames id = some f → f.slate = sl → f.waiting = true → f.stalled = false →
      olderFrames s f.home f.cls f.dst f.tver = false → flowAhead s id f.home f.key f.path = false → (∀ o ∈ f.outs, o.1 ≠ 0) → f.outs ≠ [] →
      ∃ t, exec (.lookupWaitRelease sl id) s = .next t ∧ tabGet t.frames id = some { f with waiting := false }) ∧
    (∀ v, legal s sl 0x04 2 (withF v F.SWITCH.SWB 1) = true →
      ∃ t, exec (.swb sl v) s = .next t ∧ tabGet t.barrier sl = some (getF s sl F.SWITCH.TVER)) ∧
    (∀ b, tabGet s.barrier sl = some b → barrierHeld s sl b = false → ∃ t, exec (.swbDone sl) s = .next t ∧ tabGet t.barrier sl = none) ∧
    (sl ≤ 1 → s.pin.shadows = [] → ∃ t, exec (.partnerLaneError sl) s = .next t ∧ t.pin.shadows ≠ []) ∧
    (∀ l, Variant s → l < 4 → s.pin.shadows = [] →
      (linkUp s sl l = true → (linkOf s sl l).retrain = none →
        ∃ t, exec (.fabricLinkError sl l) s = .next t ∧ (linkOf t sl l).retrain = some (now s sl)) ∧
      (∀ a, linkOf s sl l = { up := true, retrain := some a } → serving s (linkNeigh s.n sl l) = true → a + 10000 ≤ now s sl →
        (∀ b, b ≠ sl → serving s b = true → pathOf (linkDead s sl l) sl b 0 ≠ none) →
        ∃ t, exec (.fabricLinkDown sl l) s = .next t ∧ (linkOf t sl l).up = false) ∧
      (serving s (linkNeigh s.n sl l) = true →
        ∃ t, exec (.fabricLinkTrained sl l) s = .next t ∧ linkOf t sl l = { up := true, retrain := none })))
end

