-- ==== Sys2Proof/Laws/Keeps.lean ====
section
/-! SUPPORT. What the operations leave alone: no operation changes the variant or the queue of waiting commands, and only those that
write device memory change a byte of it. -/

namespace Sys2Proof.Machine

set_option linter.unusedSimpArgs false

theorem foldl_n {α : Type} (f : State → α → State) (l : List α) (s : State) (h : ∀ s a, (f s a).n = s.n) :
    (l.foldl f s).n = s.n := by
  induction l generalizing s with
  | nil => rfl
  | cons a l ih => simp [ih, h]

theorem foldl_pending {α : Type} (f : State → α → State) (l : List α) (s : State)
    (h : ∀ s a, (f s a).pending = s.pending) : (l.foldl f s).pending = s.pending := by
  induction l generalizing s with
  | nil => rfl
  | cons a l ih => simp [ih, h]

theorem foldl_hbm {α : Type} (f : State → α → State) (l : List α) (s : State) (h : ∀ s a, (f s a).hbm = s.hbm) :
    (l.foldl f s).hbm = s.hbm := by
  induction l generalizing s with
  | nil => rfl
  | cons a l ih => simp [ih, h]

theorem foldlP_n {α β : Type} (f : State × β → α → State × β) (l : List α) (s : State × β)
    (h : ∀ s a, (f s a).1.n = s.1.n) : (l.foldl f s).1.n = s.1.n := by
  induction l generalizing s with
  | nil => rfl
  | cons a l ih => simp [ih, h]

theorem foldlP_pending {α β : Type} (f : State × β → α → State × β) (l : List α) (s : State × β)
    (h : ∀ s a, (f s a).1.pending = s.1.pending) : (l.foldl f s).1.pending = s.1.pending := by
  induction l generalizing s with
  | nil => rfl
  | cons a l ih => simp [ih, h]

theorem foldlP_hbm {α β : Type} (f : State × β → α → State × β) (l : List α) (s : State × β)
    (h : ∀ s a, (f s a).1.hbm = s.1.hbm) : (l.foldl f s).1.hbm = s.1.hbm := by
  induction l generalizing s with
  | nil => rfl
  | cons a l ih => simp [ih, h]

theorem forSlates_n (l : List Nat) (f : State → Nat → State) (s : State) (h : ∀ s a, (f s a).n = s.n) :
    (forSlates l f s).n = s.n := foldl_n f l s h

theorem forSlates_pending (l : List Nat) (f : State → Nat → State) (s : State)
    (h : ∀ s a, (f s a).pending = s.pending) : (forSlates l f s).pending = s.pending := foldl_pending f l s h

theorem forSlates_hbm (l : List Nat) (f : State → Nat → State) (s : State) (h : ∀ s a, (f s a).hbm = s.hbm) :
    (forSlates l f s).hbm = s.hbm := foldl_hbm f l s h

/-- Two states with the same variant and the same waiting commands. -/
def Kept (s t : State) : Prop := t.n = s.n ∧ t.pending = s.pending

theorem foldl_kept {α : Type} (f : State → α → State) (l : List α) (s : State) (h : ∀ s a, Kept s (f s a)) :
    Kept s (l.foldl f s) := by
  induction l generalizing s with
  | nil => exact ⟨rfl, rfl⟩
  | cons a l ih => exact ⟨(ih _).1.trans (h s a).1, (ih _).2.trans (h s a).2⟩

theorem foldlP_kept {α β : Type} (f : State × β → α → State × β) (l : List α) (s : State × β) (h : ∀ s a, Kept s.1 (f s a).1) :
    Kept s.1 (l.foldl f s).1 := by
  induction l generalizing s with
  | nil => exact ⟨rfl, rfl⟩
  | cons a l ih => exact ⟨(ih _).1.trans (h s a).1, (ih _).2.trans (h s a).2⟩

theorem kept_ite {c : Prop} [Decidable c] {s a b : State} (ha : Kept s a) (hb : Kept s b) : Kept s (if c then a else b) := by
  split
  · exact ha
  · exact hb

@[simp] theorem takeFree_keeps (s : State) :
    (takeFree s).n = s.n ∧ (takeFree s).pending = s.pending ∧ (takeFree s).hbm = s.hbm := by
  exact ⟨Eq.trans rfl rfl, Eq.trans rfl rfl, Eq.trans rfl rfl⟩

@[simp] theorem putEntry_keeps (s : State) (sl : Nat) (sp : Nat) (e : Nat) (v : Word) :
    (putEntry s sl sp e v).n = s.n ∧ (putEntry s sl sp e v).pending = s.pending ∧ (putEntry s sl sp e v).hbm = s.hbm := by
  exact ⟨Eq.trans rfl rfl, Eq.trans rfl rfl, Eq.trans rfl rfl⟩

@[simp] theorem setF_keeps (s : State) (sl : Nat) (f : Fld) (v : Nat) :
    (setF s sl f v).n = s.n ∧ (setF s sl f v).pending = s.pending ∧ (setF s sl f v).hbm = s.hbm := by
  exact ⟨Eq.trans rfl rfl, Eq.trans rfl rfl, Eq.trans rfl rfl⟩

@[simp] theorem bump_keeps (s : State) (sl : Nat) (f : Fld) (k : Nat) :
    (bump s sl f k).n = s.n ∧ (bump s sl f k).pending = s.pending ∧ (bump s sl f k).hbm = s.hbm := by
  exact ⟨Eq.trans rfl rfl, Eq.trans rfl rfl, Eq.trans rfl rfl⟩

@[simp] theorem bumpSat_keeps (s : State) (sl : Nat) (f : Fld) (k : Nat) :
    (bumpSat s sl f k).n = s.n ∧ (bumpSat s sl f k).pending = s.pending ∧ (bumpSat s sl f k).hbm = s.hbm := by
  exact ⟨Eq.trans rfl rfl, Eq.trans rfl rfl, Eq.trans rfl rfl⟩

@[simp] theorem hbmWrite_keeps (s : State) (a : Nat) (b : Block) :
    (hbmWrite s a b).n = s.n ∧ (hbmWrite s a b).pending = s.pending := by
  simp only [hbmWrite]
  (repeat' split) <;> simp []

@[simp] theorem updatePause_keeps (s : State) (sl : Nat) :
    (updatePause s sl).n = s.n ∧ (updatePause s sl).pending = s.pending := by
  simp only [updatePause]
  (repeat' split) <;> simp []

@[simp] theorem updatePeak_keeps (s : State) (sl : Nat) :
    (updatePeak s sl).n = s.n ∧ (updatePeak s sl).pending = s.pending := by
  simp only [updatePeak]
  (repeat' split) <;> simp [setF_keeps, updatePause_keeps]

@[simp] theorem putOut_keeps (s : State) (sl : Nat) (p : Nat) (sub : Nat) (o : OutPort) :
    (putOut s sl p sub o).n = s.n ∧ (putOut s sl p sub o).pending = s.pending := by
  simp only [putOut]
  (repeat' split) <;> simp []

@[simp] theorem joinQueue_keeps (s : State) (sl : Nat) (p : Nat) (sub : Nat) (c : Nat) (id : Nat) :
    (joinQueue s sl p sub c id).n = s.n ∧ (joinQueue s sl p sub c id).pending = s.pending := by
  simp only [joinQueue]
  (repeat' split) <;> simp [putOut_keeps]

@[simp] theorem settleCopy_keeps (s : State) (g : Option Nat) (sl : Nat) (ok : Bool) :
    (settleCopy s g sl ok).n = s.n ∧ (settleCopy s g sl ok).pending = s.pending := by
  simp only [settleCopy]
  (repeat' split) <;> simp []

@[simp] theorem queueFrame_keeps (s : State) (id : Nat) :
    (queueFrame s id).n = s.n ∧ (queueFrame s id).pending = s.pending := by
  simp only [queueFrame]
  (repeat' split) <;> simp [bump_keeps, joinQueue_keeps, settleCopy_keeps, foldl_n, foldl_pending, foldl_hbm, foldlP_n, foldlP_pending, foldlP_hbm]

@[simp] theorem addFrame_keeps (s : State) (f : Frame) :
    (addFrame s f).1.n = s.n ∧ (addFrame s f).1.pending = s.pending := by
  simp only [addFrame]
  (repeat' split) <;> simp []

@[simp] theorem bufferFrame_keeps (s : State) (f : Frame) :
    (bufferFrame s f).n = s.n ∧ (bufferFrame s f).pending = s.pending := by
  simp only [bufferFrame]
  (repeat' split) <;> simp [updatePeak_keeps, queueFrame_keeps, addFrame_keeps]

@[simp] theorem mcastAlone_keeps (s : State) (f : Frame) (x : Nat) :
    (mcastAlone s f x).n = s.n ∧ (mcastAlone s f x).pending = s.pending := by
  simp only [mcastAlone]
  (repeat' split) <;> simp [bump_keeps, settleCopy_keeps, bufferFrame_keeps]

@[simp] theorem mcastArrive_keeps (s : State) (f : Frame) :
    (mcastArrive s f).n = s.n ∧ (mcastArrive s f).pending = s.pending := by
  simp only [mcastArrive]
  (repeat' split) <;> simp [bufferFrame_keeps, mcastAlone_keeps, foldl_n, foldl_pending, foldl_hbm, foldlP_n, foldlP_pending, foldlP_hbm]

@[simp] theorem sendMulticast_keeps (s : State) (f : Frame) :
    (sendMulticast s f).n = s.n ∧ (sendMulticast s f).pending = s.pending := by
  simp only [sendMulticast]
  (repeat' split) <;> simp [mcastArrive_keeps]

@[simp] theorem enterFrame_keeps (s : State) (f : Frame) :
    (enterFrame s f).n = s.n ∧ (enterFrame s f).pending = s.pending := by
  simp only [enterFrame]
  (repeat' split) <;> simp [bump_keeps, bufferFrame_keeps, sendMulticast_keeps]

@[simp] theorem admitInternal_keeps (s : State) (f : Frame) :
    (admitInternal s f).n = s.n ∧ (admitInternal s f).pending = s.pending := by
  simp only [admitInternal]
  (repeat' split) <;> simp [addFrame_keeps, enterFrame_keeps]

@[simp] theorem unstall_keeps (s : State) (sl : Nat) :
    (unstall s sl).n = s.n ∧ (unstall s sl).pending = s.pending := by
  simp only [unstall]
  refine ⟨?_, ?_⟩ <;> grind [enterFrame_keeps, foldl_n, foldl_pending, foldl_hbm, foldlP_n, foldlP_pending, foldlP_hbm]

@[simp] theorem freeFrame_keeps (s : State) (id : Nat) :
    (freeFrame s id).n = s.n ∧ (freeFrame s id).pending = s.pending := by
  simp only [freeFrame]
  (repeat' split) <;> simp [updatePause_keeps, unstall_keeps]

@[simp] theorem dropCopy_keeps (s : State) (id : Nat) (o : Nat × Nat) :
    (dropCopy s id o).n = s.n ∧ (dropCopy s id o).pending = s.pending := by
  simp only [dropCopy]
  (repeat' split) <;> simp [freeFrame_keeps]

@[simp] theorem unqueue_keeps (s : State) (sl : Nat) (p : Nat) (sub : Nat) (c : Nat) (id : Nat) :
    (unqueue s sl p sub c id).n = s.n ∧ (unqueue s sl p sub c id).pending = s.pending := by
  simp only [unqueue]
  (repeat' split) <;> simp [putOut_keeps]

@[simp] theorem settleFrame_keeps (s : State) (f : Frame) :
    (settleFrame s f).n = s.n ∧ (settleFrame s f).pending = s.pending := by
  simp only [settleFrame]
  (repeat' split) <;> simp [settleCopy_keeps, foldl_n, foldl_pending, foldl_hbm, foldlP_n, foldlP_pending, foldlP_hbm]

@[simp] theorem discardFrame_keeps (s : State) (id : Nat) :
    (discardFrame s id).n = s.n ∧ (discardFrame s id).pending = s.pending := by
  simp only [discardFrame]
  (repeat' split) <;> simp [freeFrame_keeps, unqueue_keeps, settleFrame_keeps, foldl_n, foldl_pending, foldl_hbm, foldlP_n, foldlP_pending, foldlP_hbm]

@[simp] theorem sendRaw_keeps (s : State) (d : OutDatagram) (job : Option Nat) :
    (sendRaw s d job).1.n = s.n ∧ (sendRaw s d job).1.pending = s.pending := by
  simp only [sendRaw]
  (repeat' split) <;> simp [admitInternal_keeps]

@[simp] theorem offerFirst_keeps (s : State) (sl : Nat) (sp : Nat) (k : Nat) (inj : Bool) (detail : List Word) :
    (offerFirst s sl sp k inj detail).1.n = s.n ∧ (offerFirst s sl sp k inj detail).1.pending = s.pending := by
  simp only [offerFirst]
  (repeat' split) <;> simp [setF_keeps, foldl_n, foldl_pending, foldl_hbm, foldlP_n, foldlP_pending, foldlP_hbm]

@[simp] theorem clearFirst_keeps (s : State) (sl : Nat) (sp : Nat) :
    (clearFirst s sl sp).n = s.n ∧ (clearFirst s sl sp).pending = s.pending := by
  simp only [clearFirst]
  (repeat' split) <;> simp [putEntry_keeps, setF_keeps, foldl_n, foldl_pending, foldl_hbm, foldlP_n, foldlP_pending, foldlP_hbm]

@[simp] theorem pendEvent_keeps (s : State) (sl : Nat) (e : Nat) :
    (pendEvent s sl e).1.n = s.n ∧ (pendEvent s sl e).1.pending = s.pending := by
  simp only [pendEvent]
  (repeat' split) <;> simp [setF_keeps, bump_keeps]

@[simp] theorem forwardOne_keeps (s : State) (sl : Nat) (i : Nat) (payload : Block) :
    (forwardOne s sl i payload).1.n = s.n ∧ (forwardOne s sl i payload).1.pending = s.pending := by
  unfold forwardOne
  refine ⟨?_, ?_⟩ <;> grind [bump_keeps, sendRaw_keeps]

@[simp] theorem forward_keeps (s : State) (sl : Nat) (e : Nat) (inj : Bool) (merged : Bool) (captured : Bool) :
    (forward s sl e inj merged captured).1.n = s.n ∧ (forward s sl e inj merged captured).1.pending = s.pending := by
  simp only [forward]
  (repeat' split) <;> simp [forwardOne_keeps, foldl_n, foldl_pending, foldl_hbm, foldlP_n, foldlP_pending, foldlP_hbm]

@[simp] theorem occur_keeps (s : State) (sl : Nat) (e : Nat) (inj : Bool) (captured : Bool) :
    (occur s sl e inj captured).1.n = s.n ∧ (occur s sl e inj captured).1.pending = s.pending := by
  simp only [occur]
  (repeat' split) <;> simp [pendEvent_keeps, forward_keeps]

@[simp] theorem pinRequest_keeps (s : State) :
    (pinRequest s).n = s.n ∧ (pinRequest s).pending = s.pending := by
  simp only [pinRequest]
  (repeat' split) <;> simp [bump_keeps]

@[simp] theorem recordHit_keeps (s : State) (sl : Nat) (sp : Nat) (k : Nat) (inj : Bool) (detail : List Word) :
    (recordHit s sl sp k inj detail).1.n = s.n ∧ (recordHit s sl sp k inj detail).1.pending = s.pending := by
  unfold recordHit
  refine ⟨?_, ?_⟩ <;> grind [setF_keeps, bump_keeps, offerFirst_keeps, occur_keeps, pinRequest_keeps]

@[simp] theorem reportSpent_keeps (x0 : Nat) (x1 : State) (x2 : List Nat) :
    (reportSpent x0 x1 x2).n = x1.n ∧ (reportSpent x0 x1 x2).pending = x1.pending := by
  induction x0 generalizing x1 x2 with
  | zero => simp [reportSpent]
  | succ k ih =>
    cases x2 with
    | nil => exact ⟨rfl, rfl⟩
    | cons a l =>
      have h := recordHit_keeps x1 a (Ev.KEY_SPENT / 64) (Ev.KEY_SPENT % 64) false []
      unfold reportSpent
      exact ⟨(ih _ _).1.trans h.1, (ih _ _).2.trans h.2⟩

@[simp] theorem raiseWith_keeps (s : State) (sl : Nat) (e : Nat) (inj : Bool) (captured : Bool) :
    (raiseWith s sl e inj captured).n = s.n ∧ (raiseWith s sl e inj captured).pending = s.pending := by
  simp only [raiseWith]
  (repeat' split) <;> simp [occur_keeps, reportSpent_keeps]

@[simp] theorem raise_keeps (s : State) (sl : Nat) (e : Nat) :
    (raise s sl e).n = s.n ∧ (raise s sl e).pending = s.pending := by
  simp only [raise]
  (repeat' split) <;> simp [raiseWith_keeps]

@[simp] theorem openShadow_keeps (s : State) (kind : ShadowKind) (sl : Nat) (limitUs : Nat) :
    (openShadow s kind sl limitUs).n = s.n ∧ (openShadow s kind sl limitUs).pending = s.pending := by
  simp only [openShadow]
  (repeat' split) <;> simp [bump_keeps]

@[simp] theorem recordDet_keeps (s : State) (sl : Nat) (sp : Nat) (k : Nat) (inj : Bool) (detail : List Word) :
    (recordDet s sl sp k inj detail).n = s.n ∧ (recordDet s sl sp k inj detail).pending = s.pending := by
  simp only [recordDet]
  (repeat' split) <;> simp [recordHit_keeps, reportSpent_keeps]

@[simp] theorem detectAt_keeps (s : State) (sl : Nat) (e : Nat) (arg : Nat) (detail : List Word) :
    (detectAt s sl e arg detail).n = s.n ∧ (detectAt s sl e arg detail).pending = s.pending := by
  simp only [detectAt]
  (repeat' split) <;> simp [bump_keeps, recordDet_keeps]

@[simp] theorem detect_keeps (s : State) (sl : Nat) (e : Nat) (detail : List Word) :
    (detect s sl e detail).n = s.n ∧ (detect s sl e detail).pending = s.pending := by
  simp only [detect]
  (repeat' split) <;> simp [detectAt_keeps]

@[simp] theorem addCounter_keeps (s : State) (sl : Nat) (k : Nat) (inc : Nat) :
    (addCounter s sl k inc).n = s.n ∧ (addCounter s sl k inc).pending = s.pending := by
  simp only [addCounter]
  (repeat' split) <;> simp [setF_keeps, raise_keeps]

@[simp] theorem countSrc_keeps (s : State) (sl : Nat) (src : Nat) (v : Nat) :
    (countSrc s sl src v).n = s.n ∧ (countSrc s sl src v).pending = s.pending := by
  simp only [countSrc]
  refine ⟨?_, ?_⟩ <;> grind [addCounter_keeps, foldl_n, foldl_pending, foldl_hbm, foldlP_n, foldlP_pending, foldlP_hbm]

@[simp] theorem send_keeps (s : State) (d : OutDatagram) (job : Option Nat) :
    (send s d job).n = s.n ∧ (send s d job).pending = s.pending := by
  simp only [send]
  (repeat' split) <;> simp [sendRaw_keeps, detect_keeps]

@[simp] theorem dcTouch_keeps (s : State) (sl : Nat) (e : Nat) (set : Nat) (w : Nat) :
    (dcTouch s sl e set w).n = s.n ∧ (dcTouch s sl e set w).pending = s.pending := by
  simp only [dcTouch]
  (repeat' split) <;> simp []

@[simp] theorem snoop_keeps (s : State) (mask : Nat) (line : Nat) (but : Option Nat) :
    (snoop s mask line but).n = s.n ∧ (snoop s mask line but).pending = s.pending := by
  simp only [snoop]
  (repeat' split) <;> simp []

@[simp] theorem victimDrain_keeps (s : State) (sl : Nat) :
    (victimDrain s sl).n = s.n ∧ (victimDrain s sl).pending = s.pending := by
  simp only [victimDrain]
  (repeat' split) <;> simp [countSrc_keeps]

@[simp] theorem toVictim_keeps (s : State) (sl : Nat) (l : Line) :
    (toVictim s sl l).n = s.n ∧ (toVictim s sl l).pending = s.pending := by
  simp only [toVictim]
  (repeat' split) <;> simp [victimDrain_keeps]

@[simp] theorem scEvict_keeps (s : State) (sl : Nat) (set : Nat) (way : Nat) :
    (scEvict s sl set way).n = s.n ∧ (scEvict s sl set way).pending = s.pending := by
  simp only [scEvict]
  (repeat' split) <;> simp [snoop_keeps, toVictim_keeps]

@[simp] theorem scRoom_keeps (s : State) (sl : Nat) (set : Nat) :
    (scRoom s sl set).1.n = s.n ∧ (scRoom s sl set).1.pending = s.pending := by
  simp only [scRoom]
  (repeat' split) <;> simp [scEvict_keeps]

@[simp] theorem homeAccess_keeps (s : State) (sl : Nat) (x : Nat) (write : Bool) (from_ : Option Nat) (but : Option Nat) :
    (homeAccess s sl x write from_ but).n = s.n ∧ (homeAccess s sl x write from_ but).pending = s.pending := by
  simp only [homeAccess]
  (repeat' split) <;> simp [countSrc_keeps, snoop_keeps, scRoom_keeps]

@[simp] theorem engineRead_keeps (s : State) (sl : Nat) (e : Nat) (a : Nat) :
    (engineRead s sl e a).n = s.n ∧ (engineRead s sl e a).pending = s.pending := by
  simp only [engineRead]
  (repeat' split) <;> simp [countSrc_keeps, dcTouch_keeps, homeAccess_keeps]

@[simp] theorem engineWrite_keeps (s : State) (sl : Nat) (e : Nat) (a : Nat) :
    (engineWrite s sl e a).n = s.n ∧ (engineWrite s sl e a).pending = s.pending := by
  simp only [engineWrite]
  (repeat' split) <;> simp [dcTouch_keeps, homeAccess_keeps]

@[simp] theorem atomicAccess_keeps (s : State) (a : Nat) :
    (atomicAccess s a).n = s.n ∧ (atomicAccess s a).pending = s.pending := by
  simp only [atomicAccess]
  (repeat' split) <;> simp [homeAccess_keeps]

@[simp] theorem countIcMiss_keeps (s : State) (sl : Nat) (miss : Bool) :
    (countIcMiss s sl miss).n = s.n ∧ (countIcMiss s sl miss).pending = s.pending := by
  unfold countIcMiss
  refine ⟨?_, ?_⟩ <;> grind [addCounter_keeps, foldl_n, foldl_pending, foldl_hbm, foldlP_n, foldlP_pending, foldlP_hbm]

@[simp] theorem icFetch_keeps (s : State) (sl : Nat) (e : Nat) (prog : Nat) (w : Nat) (look : Bool) :
    (icFetch s sl e prog w look).n = s.n ∧ (icFetch s sl e prog w look).pending = s.pending := by
  simp only [icFetch]
  (repeat' split) <;> simp [countIcMiss_keeps]

@[simp] theorem icFlush_keeps (s : State) (sl : Nat) :
    (icFlush s sl).n = s.n ∧ (icFlush s sl).pending = s.pending := by
  simp only [icFlush]
  (repeat' split) <;> simp []

@[simp] theorem dcFlushEngine_keeps (s : State) (sl : Nat) (e : Nat) :
    (dcFlushEngine s sl e).n = s.n ∧ (dcFlushEngine s sl e).pending = s.pending := by
  simp only [dcFlushEngine]
  (repeat' split) <;> simp []

@[simp] theorem dcFlush_keeps (s : State) (sl : Nat) :
    (dcFlush s sl).n = s.n ∧ (dcFlush s sl).pending = s.pending := by
  simp only [dcFlush]
  (repeat' split) <;> simp []

@[simp] theorem scFlushWay_keeps (s : State) (sl : Nat) (w : Nat) :
    (scFlushWay s sl w).n = s.n ∧ (scFlushWay s sl w).pending = s.pending := by
  simp only [scFlushWay]
  (repeat' split) <;> simp [scEvict_keeps, foldl_n, foldl_pending, foldl_hbm, foldlP_n, foldlP_pending, foldlP_hbm]

@[simp] theorem scSweep_keeps (s : State) (sl : Nat) :
    (scSweep s sl).n = s.n ∧ (scSweep s sl).pending = s.pending := by
  simp only [scSweep]
  (repeat' split) <;> simp [scEvict_keeps, foldl_n, foldl_pending, foldl_hbm, foldlP_n, foldlP_pending, foldlP_hbm]

@[simp] theorem consumePoison_keeps (s : State) (sl : Nat) (a : Nat) (slot : Nat) (thread : Nat) :
    (consumePoison s sl a slot thread).n = s.n ∧ (consumePoison s sl a slot thread).pending = s.pending := by
  simp only [consumePoison]
  (repeat' split) <;> simp [bump_keeps, detect_keeps]

@[simp] theorem homeWrite_keeps (s : State) (a : Nat) (b : Block) :
    (homeWrite s a b).n = s.n ∧ (homeWrite s a b).pending = s.pending := by
  simp only [homeWrite]
  (repeat' split) <;> simp [hbmWrite_keeps, homeAccess_keeps, foldl_n, foldl_pending, foldl_hbm, foldlP_n, foldlP_pending, foldlP_hbm]

@[simp] theorem ringPut_keeps (s : State) (sl : Nat) (r : Ring) (half : Nat) (b : Block) :
    (ringPut s sl r half b).n = s.n ∧ (ringPut s sl r half b).pending = s.pending := by
  simp only [ringPut]
  (repeat' split) <;> simp [bump_keeps, raise_keeps, homeWrite_keeps]

@[simp] theorem putSampling_keeps (s : State) (sl : Nat) (x : Sampling) :
    (putSampling s sl x).n = s.n ∧ (putSampling s sl x).pending = s.pending := by
  simp only [putSampling]
  (repeat' split) <;> simp []

@[simp] theorem countInsn_keeps (s : State) (sl : Nat) (hk : Bool) :
    (countInsn s sl hk).n = s.n ∧ (countInsn s sl hk).pending = s.pending := by
  simp only [countInsn]
  (repeat' split) <;> simp [countSrc_keeps, putSampling_keeps]

@[simp] theorem countStall_keeps (s : State) (sl : Nat) (w : InsnWord) :
    (countStall s sl w).n = s.n ∧ (countStall s sl w).pending = s.pending := by
  simp only [countStall]
  (repeat' split) <;> simp [takeFree_keeps, countSrc_keeps]

@[simp] theorem settleSample_keeps (s : State) (sl : Nat) (job : Nat) (outcome : Nat) (status : Nat) (slot : Nat) (keep : Bool) (hk : Bool) (jid : Word) :
    (settleSample s sl job outcome status slot keep hk jid).n = s.n ∧ (settleSample s sl job outcome status slot keep hk jid).pending = s.pending := by
  simp only [settleSample]
  (repeat' split) <;> simp [takeFree_keeps, bump_keeps, detect_keeps, ringPut_keeps, putSampling_keeps]

@[simp] theorem putJob_keeps (s : State) (id : Nat) (j : Job) :
    (putJob s id j).n = s.n ∧ (putJob s id j).pending = s.pending := by
  simp only [putJob]
  (repeat' split) <;> simp []

@[simp] theorem modJob_keeps (s : State) (id : Nat) (f : Job → Job) :
    (modJob s id f).n = s.n ∧ (modJob s id f).pending = s.pending := by
  simp only [modJob]
  (repeat' split) <;> simp []

@[simp] theorem newBuffer_keeps (s : State) (b : Buffer) :
    (newBuffer s b).1.n = s.n ∧ (newBuffer s b).1.pending = s.pending := by
  simp only [newBuffer]
  (repeat' split) <;> simp []

@[simp] theorem bufWrite_keeps (s : State) (b : Nat) (off : Nat) (d : Block) :
    (bufWrite s b off d).n = s.n ∧ (bufWrite s b off d).pending = s.pending := by
  simp only [bufWrite]
  (repeat' split) <;> simp []

@[simp] theorem endJob_keeps (s : State) (id : Nat) (resp : Resp) (trap : Bool) :
    (endJob s id resp trap).n = s.n ∧ (endJob s id resp trap).pending = s.pending := by
  simp only [endJob]
  (repeat' split) <;> simp [putJob_keeps]

@[simp] theorem hkTrapped_keeps (s : State) (sl : Nat) (n : Nat) :
    (hkTrapped s sl n).n = s.n ∧ (hkTrapped s sl n).pending = s.pending := by
  simp only [hkTrapped]
  (repeat' split) <;> simp []

@[simp] theorem trapJob_keeps (s : State) (id : Nat) (st : Status) :
    (trapJob s id st).n = s.n ∧ (trapJob s id st).pending = s.pending := by
  simp only [trapJob]
  (repeat' split) <;> simp [bumpSat_keeps, detect_keeps, endJob_keeps, hkTrapped_keeps]

@[simp] theorem poisonJob_keeps (s : State) (id : Nat) (a : Nat) :
    (poisonJob s id a).n = s.n ∧ (poisonJob s id a).pending = s.pending := by
  simp only [poisonJob]
  (repeat' split) <;> simp [consumePoison_keeps, trapJob_keeps]

@[simp] theorem lostHomeJob_keeps (s : State) (id : Nat) :
    (lostHomeJob s id).n = s.n ∧ (lostHomeJob s id).pending = s.pending := by
  simp only [lostHomeJob]
  (repeat' split) <;> simp [trapJob_keeps]

@[simp] theorem granted_keeps (s : State) (p : Nat) (w : Nat) (n : Nat) :
    (granted s p w n).n = s.n ∧ (granted s p w n).pending = s.pending := by
  simp only [granted]
  (repeat' split) <;> simp []

@[simp] theorem beginInsn_keeps (s : State) (id : Nat) (j : Job) :
    (beginInsn s id j).n = s.n ∧ (beginInsn s id j).pending = s.pending := by
  simp only [beginInsn]
  (repeat' split) <;> simp [countInsn_keeps, putJob_keeps]

@[simp] theorem sampleAfter_keeps (s : State) (id : Nat) :
    (sampleAfter s id).n = s.n ∧ (sampleAfter s id).pending = s.pending := by
  simp only [sampleAfter]
  (repeat' split) <;> simp [putSampling_keeps, settleSample_keeps]

@[simp] theorem fetchWords_keeps (s : State) (t : Thread) (j : Job) (len : Nat) :
    (fetchWords s t j len).n = s.n ∧ (fetchWords s t j len).pending = s.pending := by
  simp only [fetchWords]
  (repeat' split) <;> simp [icFetch_keeps, countStall_keeps]

@[simp] theorem finish_keeps (s : State) (id : Nat) (j : Job) (len : Nat) :
    (finish s id j len).n = s.n ∧ (finish s id j len).pending = s.pending := by
  simp only [finish]
  (repeat' split) <;> simp [putJob_keeps]

@[simp] theorem suspendJob_keeps (s : State) (id : Nat) (j : Job) (w : Wait) (dst : Reg) :
    (suspendJob s id j w dst).n = s.n ∧ (suspendJob s id j w dst).pending = s.pending := by
  simp only [suspendJob]
  (repeat' split) <;> simp [countSrc_keeps, putJob_keeps]

@[simp] theorem toResume_keeps (s : State) (id : Nat) :
    (toResume s id).n = s.n ∧ (toResume s id).pending = s.pending := by
  simp only [toResume]
  (repeat' split) <;> simp [putJob_keeps]

@[simp] theorem toDispatch_keeps (s : State) (id : Nat) :
    (toDispatch s id).n = s.n ∧ (toDispatch s id).pending = s.pending := by
  simp only [toDispatch]
  (repeat' split) <;> simp [putJob_keeps]

@[simp] theorem addJob_keeps (s : State) (j : Job) :
    (addJob s j).1.n = s.n ∧ (addJob s j).1.pending = s.pending := by
  simp only [addJob]
  (repeat' split) <;> simp []

@[simp] theorem openBypass_keeps (s : State) (sl : Nat) (slot : Nat) :
    (openBypass s sl slot).n = s.n ∧ (openBypass s sl slot).pending = s.pending := by
  simp only [openBypass]
  (repeat' split) <;> simp []

@[simp] theorem hkStart_keeps (s : State) (sl : Nat) (n : Nat) :
    (hkStart s sl n).n = s.n ∧ (hkStart s sl n).pending = s.pending := by
  simp only [hkStart]
  (repeat' split) <;> simp [detect_keeps, addJob_keeps, openBypass_keeps]

@[simp] theorem jumpTo_keeps (s : State) (id : Nat) (j : Job) (w : Nat) :
    (jumpTo s id j w).n = s.n ∧ (jumpTo s id j w).pending = s.pending := by
  simp only [jumpTo]
  (repeat' split) <;> simp [putJob_keeps, trapJob_keeps]

@[simp] theorem putMember_keeps (s : State) (m : Nat) (x : Member) :
    (putMember s m x).n = s.n ∧ (putMember s m x).pending = s.pending := by
  simp only [putMember]
  (repeat' split) <;> simp []

@[simp] theorem modCourse_keeps (s : State) (k : Nat) (f : Course → Course) :
    (modCourse s k f).n = s.n ∧ (modCourse s k f).pending = s.pending := by
  simp only [modCourse]
  (repeat' split) <;> simp []

@[simp] theorem mediaWrite_keeps (s : State) (m : Nat) (slot : Nat) (col : Nat) (b : Block) :
    (mediaWrite s m slot col b).n = s.n ∧ (mediaWrite s m slot col b).pending = s.pending := by
  simp only [mediaWrite]
  (repeat' split) <;> simp []

@[simp] theorem putMap_keeps (s : State) (v : Nat) (lba : Nat) (e : Word) :
    (putMap s v lba e).n = s.n ∧ (putMap s v lba e).pending = s.pending := by
  simp only [putMap]
  (repeat' split) <;> simp []

@[simp] theorem modNode_keeps (s : State) (v : Nat) (j : Nat) (i : Nat) (f : Leaf → Leaf) :
    (modNode s v j i f).n = s.n ∧ (modNode s v j i f).pending = s.pending := by
  simp only [modNode]
  (repeat' split) <;> simp []

@[simp] theorem noteCached_keeps (s : State) (v : Nat) (leaf : Nat) :
    (noteCached s v leaf).n = s.n ∧ (noteCached s v leaf).pending = s.pending := by
  simp only [noteCached]
  (repeat' split) <;> simp [modNode_keeps]

@[simp] theorem pendNode_keeps (s : State) (v : Nat) (j : Nat) (i : Nat) (u : Nat) :
    (pendNode s v j i u).n = s.n ∧ (pendNode s v j i u).pending = s.pending := by
  simp only [pendNode]
  (repeat' split) <;> simp [modNode_keeps]

@[simp] theorem pendLeaf_keeps (s : State) (v : Nat) (lba : Nat) (u : Nat) :
    (pendLeaf s v lba u).n = s.n ∧ (pendLeaf s v lba u).pending = s.pending := by
  simp only [pendLeaf]
  (repeat' split) <;> simp [pendNode_keeps]

@[simp] theorem retireIfDead_keeps (s : State) (k : Nat) :
    (retireIfDead s k).n = s.n ∧ (retireIfDead s k).pending = s.pending := by
  simp only [retireIfDead]
  (repeat' split) <;> simp [modCourse_keeps]

@[simp] theorem grainLive_keeps (s : State) (pgn : Nat) (up : Bool) :
    (grainLive s pgn up).n = s.n ∧ (grainLive s pgn up).pending = s.pending := by
  simp only [grainLive]
  (repeat' split) <;> simp [modCourse_keeps, retireIfDead_keeps]

@[simp] theorem changeEntry_keeps (s : State) (v : Nat) (lba : Nat) (e : Word) (u : Nat) :
    (changeEntry s v lba e u).n = s.n ∧ (changeEntry s v lba e u).pending = s.pending := by
  simp only [changeEntry]
  (repeat' split) <;> simp [putMap_keeps, pendLeaf_keeps, grainLive_keeps]

@[simp] theorem applyHost_keeps (s : State) (v : Nat) (lba : Nat) (pgn : Nat) (u : Nat) :
    (applyHost s v lba pgn u).n = s.n ∧ (applyHost s v lba pgn u).pending = s.pending := by
  simp only [applyHost]
  (repeat' split) <;> simp [changeEntry_keeps]

@[simp] theorem applyReloc_keeps (s : State) (v : Nat) (lba : Nat) (pgn : Nat) (old : Nat) (u : Nat) :
    (applyReloc s v lba pgn old u).n = s.n ∧ (applyReloc s v lba pgn old u).pending = s.pending := by
  simp only [applyReloc]
  (repeat' split) <;> simp [changeEntry_keeps]

@[simp] theorem copiedBack_keeps (s : State) (m : Nat) (slot : Nat) (e : SpareEntry) :
    (copiedBack s m slot e).n = s.n ∧ (copiedBack s m slot e).pending = s.pending := by
  simp only [copiedBack]
  (repeat' split) <;> simp [modCourse_keeps]

@[simp] theorem applySpare_keeps (s : State) (v : Nat) (slot : Nat) (x : Word) (u : Nat) :
    (applySpare s v slot x u).n = s.n ∧ (applySpare s v slot x u).pending = s.pending := by
  simp only [applySpare]
  (repeat' split) <;> simp [pendLeaf_keeps, copiedBack_keeps]

@[simp] theorem applyMset_keeps (s : State) (v : Nat) (lba : Nat) (x : Word) (how : MsetHow) (u : Nat) :
    (applyMset s v lba x how u).n = s.n ∧ (applyMset s v lba x how u).pending = s.pending := by
  simp only [applyMset]
  (repeat' split) <;> simp [changeEntry_keeps, applySpare_keeps]

@[simp] theorem modQueue_keeps (s : State) (q : Nat) (f : Queue → Queue) :
    (modQueue s q f).n = s.n ∧ (modQueue s q f).pending = s.pending := by
  simp only [modQueue]
  (repeat' split) <;> simp []

@[simp] theorem modTag_keeps (s : State) (q : Nat) (t : Nat) (f : Tag → Tag) :
    (modTag s q t f).n = s.n ∧ (modTag s q t f).pending = s.pending := by
  simp only [modTag]
  (repeat' split) <;> simp [modQueue_keeps]

@[simp] theorem sendResp_keeps (s : State) (q : Nat) (t : Nat) (nonce : Word) (r : Resp) (rt : ReplyTo) (dup : Bool) (job : Option Nat) :
    (sendResp s q t nonce r rt dup job).n = s.n ∧ (sendResp s q t nonce r rt dup job).pending = s.pending := by
  simp only [sendResp]
  (repeat' split) <;> simp [send_keeps]

@[simp] theorem sendBusy_keeps (s : State) (sl : Nat) (d : Datagram) (st : Status) (retry : Nat) :
    (sendBusy s sl d st retry).n = s.n ∧ (sendBusy s sl d st retry).pending = s.pending := by
  simp only [sendBusy]
  (repeat' split) <;> simp [send_keeps]

@[simp] theorem startFetch_keeps (s : State) (hq : Nat) (abort : Bool) :
    (startFetch s hq abort).n = s.n ∧ (startFetch s hq abort).pending = s.pending := by
  simp only [startFetch]
  (repeat' split) <;> simp []

@[simp] theorem parkNow_keeps (s : State) (sl : Nat) (p : Parked) :
    (parkNow s sl p).n = s.n ∧ (parkNow s sl p).pending = s.pending := by
  simp only [parkNow]
  (repeat' split) <;> simp [bump_keeps, detect_keeps, startFetch_keeps]

@[simp] theorem parkDatagram_keeps (s : State) (sl : Nat) (p : Parked) :
    (parkDatagram s sl p).n = s.n ∧ (parkDatagram s sl p).pending = s.pending := by
  simp only [parkDatagram]
  (repeat' split) <;> simp [parkNow_keeps]

@[simp] theorem sweepVictim_keeps (sl : Nat) (x0 : Nat) (x1 : State) (x2 : List Nat) :
    (sweepVictim sl x0 x1 x2).1.n = x1.n ∧ (sweepVictim sl x0 x1 x2).1.pending = x1.pending := by
  induction x0 generalizing x1 x2 with
  | zero => simp [sweepVictim]
  | succ k ih =>
    simp only [sweepVictim]
    refine ⟨?_, ?_⟩ <;> grind []

@[simp] theorem makeResidentRoom_keeps (s : State) (sl : Nat) :
    (makeResidentRoom s sl).n = s.n ∧ (makeResidentRoom s sl).pending = s.pending := by
  simp only [makeResidentRoom]
  refine ⟨?_, ?_⟩ <;> grind [bump_keeps, modQueue_keeps, sweepVictim_keeps]

@[simp] theorem addQueue_keeps (s : State) (hq : Nat) (host : BitVec 32) (key : Nat) (pin : Bool) (persist : Bool) :
    (addQueue s hq host key pin persist).n = s.n ∧ (addQueue s hq host key pin persist).pending = s.pending := by
  simp only [addQueue]
  (repeat' split) <;> simp [makeResidentRoom_keeps]

@[simp] theorem removeQueue_keeps (s : State) (hq : Nat) :
    (removeQueue s hq).n = s.n ∧ (removeQueue s hq).pending = s.pending := by
  simp only [removeQueue]
  (repeat' split) <;> simp [sendBusy_keeps, foldl_n, foldl_pending, foldl_hbm, foldlP_n, foldlP_pending, foldlP_hbm]

@[simp] theorem dropHazards_keeps (s : State) (p : Hazard → Bool) :
    (dropHazards s p).n = s.n ∧ (dropHazards s p).pending = s.pending := by
  simp only [dropHazards]
  (repeat' split) <;> simp []

@[simp] theorem releaseTag_keeps (s : State) (q : Nat) (t : Nat) (nonce : Nat) :
    (releaseTag s q t nonce).n = s.n ∧ (releaseTag s q t nonce).pending = s.pending := by
  simp only [releaseTag]
  (repeat' split) <;> simp [dropHazards_keeps]

@[simp] theorem releaseJob_keeps (s : State) (id : Nat) :
    (releaseJob s id).n = s.n ∧ (releaseJob s id).pending = s.pending := by
  simp only [releaseJob]
  (repeat' split) <;> simp [dropHazards_keeps]

@[simp] theorem askCommit_keeps (s : State) (id : Nat) :
    (askCommit s id).1.n = s.n ∧ (askCommit s id).1.pending = s.pending := by
  simp only [askCommit]
  (repeat' split) <;> simp [modTag_keeps]

@[simp] theorem dropBootstrap_keeps (s : State) :
    (dropBootstrap s).n = s.n ∧ (dropBootstrap s).pending = s.pending := by
  simp only [dropBootstrap]
  (repeat' split) <;> simp [removeQueue_keeps]

@[simp] theorem recordResp_keeps (s : State) (q : Nat) (t : Nat) (nonce : Word) (r : Resp) (c : Cmd) (job : Option Nat) :
    (recordResp s q t nonce r c job).n = s.n ∧ (recordResp s q t nonce r c job).pending = s.pending := by
  simp only [recordResp]
  (repeat' split) <;> simp [countSrc_keeps, modTag_keeps, sendResp_keeps, dropBootstrap_keeps]

@[simp] theorem dropData_keeps (s : State) (id : Nat) :
    (dropData s id).n = s.n ∧ (dropData s id).pending = s.pending := by
  simp only [dropData]
  (repeat' split) <;> simp [discardFrame_keeps, foldl_n, foldl_pending, foldl_hbm, foldlP_n, foldlP_pending, foldlP_hbm]

@[simp] theorem stopJob_keeps (s : State) (id : Nat) :
    (stopJob s id).n = s.n ∧ (stopJob s id).pending = s.pending := by
  simp only [stopJob]
  (repeat' split) <;> simp [settleSample_keeps, modJob_keeps, endJob_keeps, releaseJob_keeps, dropData_keeps]

@[simp] theorem freeBufs_keeps (s : State) (l : List Nat) :
    (freeBufs s l).n = s.n ∧ (freeBufs s l).pending = s.pending := by
  simp only [freeBufs]
  (repeat' split) <;> simp [foldl_n, foldl_pending, foldl_hbm, foldlP_n, foldlP_pending, foldlP_hbm]

@[simp] theorem abortTag_keeps (s : State) (q : Nat) (t : Nat) (tg : Tag) :
    (abortTag s q t tg).1.n = s.n ∧ (abortTag s q t tg).1.pending = s.pending := by
  simp only [abortTag]
  (repeat' split) <;> simp [bump_keeps, modTag_keeps, releaseTag_keeps, stopJob_keeps, freeBufs_keeps]

@[simp] theorem resetTags_keeps (s : State) (hq : Nat) (rt : Option ReplyTo) :
    (resetTags s hq rt).1.n = s.n ∧ (resetTags s hq rt).1.pending = s.pending := by
  simp only [resetTags]
  refine ⟨?_, ?_⟩ <;> grind [sendResp_keeps, abortTag_keeps, foldl_n, foldl_pending, foldl_hbm, foldlP_n, foldlP_pending, foldlP_hbm]

@[simp] theorem resetQueue_keeps (s : State) (hq : Nat) (nonce : Word) (rt : Option ReplyTo) :
    (resetQueue s hq nonce rt).n = s.n ∧ (resetQueue s hq nonce rt).pending = s.pending := by
  simp only [resetQueue]
  (repeat' split) <;> simp [bump_keeps, raise_keeps, modQueue_keeps, sendResp_keeps, resetTags_keeps]

@[simp] theorem outBuffer_keeps (s : State) (sl : Nat) (len : Nat) :
    (outBuffer s sl len).1.n = s.n ∧ (outBuffer s sl len).1.pending = s.pending := by
  simp only [outBuffer]
  (repeat' split) <;> simp [newBuffer_keeps]

@[simp] theorem dispatchJob_keeps (s : State) (hq : Nat) (tag : Nat) (nonce : Word) (c : Cmd) (v : Nat) (p : Program) :
    (dispatchJob s hq tag nonce c v p).1.n = s.n ∧ (dispatchJob s hq tag nonce c v p).1.pending = s.pending := by
  simp only [dispatchJob]
  (repeat' split) <;> simp [countSrc_keeps, newBuffer_keeps, toDispatch_keeps, addJob_keeps, modTag_keeps, outBuffer_keeps, foldl_n, foldl_pending, foldl_hbm, foldlP_n, foldlP_pending, foldlP_hbm]

@[simp] theorem tryDispatch_keeps (s : State) (hq : Nat) (tag : Nat) :
    (tryDispatch s hq tag).n = s.n ∧ (tryDispatch s hq tag).pending = s.pending := by
  simp only [tryDispatch]
  (repeat' split) <;> simp [releaseTag_keeps, recordResp_keeps, freeBufs_keeps, dispatchJob_keeps]

@[simp] theorem putOwner_keeps (s : State) (o : Nat) (w : Owner) :
    (putOwner s o w).n = s.n ∧ (putOwner s o w).pending = s.pending := by
  simp only [putOwner]
  (repeat' split) <;> simp []

@[simp] theorem takeArea_keeps (s : State) (o : Nat) (x : Nat) :
    (takeArea s o x).n = s.n ∧ (takeArea s o x).pending = s.pending := by
  simp only [takeArea]
  (repeat' split) <;> simp []

@[simp] theorem takeAreas_keeps (s : State) (o : Nat) (hs : List Nat) :
    (takeAreas s o hs).n = s.n ∧ (takeAreas s o hs).pending = s.pending := by
  simp only [takeAreas]
  (repeat' split) <;> simp [takeArea_keeps, foldl_n, foldl_pending, foldl_hbm, foldlP_n, foldlP_pending, foldlP_hbm]

@[simp] theorem drawUcn_keeps (s : State) :
    (drawUcn s).1.n = s.n ∧ (drawUcn s).1.pending = s.pending := by
  simp only [drawUcn]
  (repeat' split) <;> simp []

@[simp] theorem noteUcn_keeps (s : State) (u : Nat) (x0 : RecBody) :
    (noteUcn s u x0).n = s.n ∧ (noteUcn s u x0).pending = s.pending := by
  simp only [noteUcn]
  (repeat' split) <;> simp [modCourse_keeps]

@[simp] theorem putRec_keeps (s : State) (o : Nat) (x : RecReq) :
    (putRec s o x).n = s.n ∧ (putRec s o x).pending = s.pending := by
  simp only [putRec]
  (repeat' split) <;> simp [bump_keeps, putOwner_keeps, drawUcn_keeps, noteUcn_keeps]

@[simp] theorem addReq_keeps (s : State) (o : Nat) (x : RecReq) :
    (addReq s o x).n = s.n ∧ (addReq s o x).pending = s.pending := by
  simp only [addReq]
  (repeat' split) <;> simp [bump_keeps, detect_keeps, putOwner_keeps, putRec_keeps]

@[simp] theorem addRec_keeps (s : State) (o : Nat) (b : RecBody) :
    (addRec s o b).n = s.n ∧ (addRec s o b).pending = s.pending := by
  simp only [addRec]
  (repeat' split) <;> simp [addReq_keeps]

@[simp] theorem addGroup_keeps (s : State) (o : Nat) (k : Nat) (bs : List RecBody) (draws : Bool) :
    (addGroup s o k bs draws).1.n = s.n ∧ (addGroup s o k bs draws).1.pending = s.pending := by
  simp only [addGroup]
  (repeat' split) <;> simp [addReq_keeps, foldl_n, foldl_pending, foldl_hbm, foldlP_n, foldlP_pending, foldlP_hbm]

@[simp] theorem addTableAt_keeps (s : State) (o : Nat) (t : TableItem) :
    (addTableAt s o t).1.n = s.n ∧ (addTableAt s o t).1.pending = s.pending := by
  simp only [addTableAt]
  (repeat' split) <;> simp [addRec_keeps]

@[simp] theorem addTable_keeps (s : State) (t : TableItem) :
    (addTable s t).1.n = s.n ∧ (addTable s t).1.pending = s.pending := by
  simp only [addTable]
  (repeat' split) <;> simp [addTableAt_keeps]

@[simp] theorem addTableGroup_keeps (s : State) (ts : List TableItem) :
    (addTableGroup s ts).1.n = s.n ∧ (addTableGroup s ts).1.pending = s.pending := by
  simp only [addTableGroup]
  (repeat' split) <;> simp [addGroup_keeps]

@[simp] theorem addPlainGroup_keeps (s : State) (ts : List TableItem) :
    (addPlainGroup s ts).1.n = s.n ∧ (addPlainGroup s ts).1.pending = s.pending := by
  simp only [addPlainGroup]
  (repeat' split) <;> simp [addGroup_keeps]

@[simp] theorem addMset_keeps (s : State) (o : Nat) (v : Nat) (lba : Nat) (x : Word) (how : MsetHow) :
    (addMset s o v lba x how).1.n = s.n ∧ (addMset s o v lba x how).1.pending = s.pending := by
  simp only [addMset]
  (repeat' split) <;> simp [addReq_keeps]

@[simp] theorem retrim_keeps (s : State) (o : Nat) :
    (retrim s o).n = s.n ∧ (retrim s o).pending = s.pending := by
  simp only [retrim]
  (repeat' split) <;> simp [putOwner_keeps]

@[simp] theorem trimRecs_keeps (s : State) (o : Nat) (p : Rec → Bool) :
    (trimRecs s o p).n = s.n ∧ (trimRecs s o p).pending = s.pending := by
  simp only [trimRecs]
  (repeat' split) <;> simp [putOwner_keeps, retrim_keeps]

@[simp] theorem cutEntries_keeps (s : State) (v : Nat) (size : Nat) :
    (cutEntries s v size).n = s.n ∧ (cutEntries s v size).pending = s.pending := by
  simp only [cutEntries]
  (repeat' split) <;> simp [grainLive_keeps, foldl_n, foldl_pending, foldl_hbm, foldlP_n, foldlP_pending, foldlP_hbm]

@[simp] theorem raiseRoot_keeps (s : State) (v : Nat) (old : Nat) (new : Nat) (u : Nat) :
    (raiseRoot s v old new u).n = s.n ∧ (raiseRoot s v old new u).pending = s.pending := by
  simp only [raiseRoot]
  (repeat' split) <;> simp [pendNode_keeps, foldl_n, foldl_pending, foldl_hbm, foldlP_n, foldlP_pending, foldlP_hbm]

@[simp] theorem applyVolume_keeps (s : State) (v : Nat) (size : Option Nat) (u : Nat) :
    (applyVolume s v size u).n = s.n ∧ (applyVolume s v size u).pending = s.pending := by
  simp only [applyVolume]
  (repeat' split) <;> simp [cutEntries_keeps, raiseRoot_keeps]

@[simp] theorem applyHolders_keeps (s : State) (o : Nat) (hs : List Nat) :
    (applyHolders s o hs).n = s.n ∧ (applyHolders s o hs).pending = s.pending := by
  simp only [applyHolders]
  (repeat' split) <;> simp [putOwner_keeps]

@[simp] theorem setKey_keeps (s : State) (i : Nat) (k : Option KeyEntry) :
    (setKey s i k).n = s.n ∧ (setKey s i k).pending = s.pending := by
  simp only [setKey]
  (repeat' split) <;> simp [dropBootstrap_keeps]

@[simp] theorem applyKey_keeps (s : State) (i : Nat) (k : Option KeyEntry) :
    (applyKey s i k).n = s.n ∧ (applyKey s i k).pending = s.pending := by
  simp only [applyKey]
  (repeat' split) <;> simp [setKey_keeps]

@[simp] theorem applyAuth_keeps (s : State) (op : Nat) (keyNo : Nat) (pub : Block) :
    (applyAuth s op keyNo pub).n = s.n ∧ (applyAuth s op keyNo pub).pending = s.pending := by
  simp only [applyAuth]
  (repeat' split) <;> simp [raise_keeps]

@[simp] theorem applyQueue_keeps (s : State) (hq : Nat) (host : BitVec 32) (key : Nat) (pin : Bool) (present : Bool) :
    (applyQueue s hq host key pin present).n = s.n ∧ (applyQueue s hq host key pin present).pending = s.pending := by
  simp only [applyQueue]
  (repeat' split) <;> simp [addQueue_keeps]

@[simp] theorem applyManifest_keeps (s : State) (slot : Nat) (p : Option Nat) :
    (applyManifest s slot p).n = s.n ∧ (applyManifest s slot p).pending = s.pending := by
  simp only [applyManifest]
  (repeat' split) <;> simp []

@[simp] theorem applyProgress_keeps (s : State) (a : AdminOp) :
    (applyProgress s a).n = s.n ∧ (applyProgress s a).pending = s.pending := by
  simp only [applyProgress]
  (repeat' split) <;> simp []

@[simp] theorem applyTable_keeps (s : State) (t : TableItem) (u : Nat) :
    (applyTable s t u).n = s.n ∧ (applyTable s t u).pending = s.pending := by
  simp only [applyTable]
  (repeat' split) <;> simp [putMember_keeps, applyVolume_keeps, applyHolders_keeps, applyKey_keeps, applyAuth_keeps, applyQueue_keeps, applyManifest_keeps, applyProgress_keeps, foldl_n, foldl_pending, foldl_hbm, foldlP_n, foldlP_pending, foldlP_hbm]

@[simp] theorem writeTable_keeps (s : State) (seq : Nat) (t : TableItem) (u : Nat) :
    (writeTable s seq t u).n = s.n ∧ (writeTable s seq t u).pending = s.pending := by
  simp only [writeTable]
  (repeat' split) <;> simp [applyTable_keeps]

@[simp] theorem applyGroup_keeps (s : State) (first : Nat) (count : Nat) (u : Nat) :
    (applyGroup s first count u).n = s.n ∧ (applyGroup s first count u).pending = s.pending := by
  simp only [applyGroup]
  (repeat' split) <;> simp [trimRecs_keeps, writeTable_keeps, foldl_n, foldl_pending, foldl_hbm, foldlP_n, foldlP_pending, foldlP_hbm]

@[simp] theorem applyTables_keeps (s : State) (o : Nat) :
    (applyTables s o).n = s.n ∧ (applyTables s o).pending = s.pending := by
  simp only [applyTables]
  refine ⟨?_, ?_⟩ <;> grind [trimRecs_keeps, writeTable_keeps, applyGroup_keeps, foldl_n, foldl_pending, foldl_hbm, foldlP_n, foldlP_pending, foldlP_hbm]

@[simp] theorem drainUcn_keeps (x0 : Nat) (x1 : State) :
    (drainUcn x0 x1).n = x1.n ∧ (drainUcn x0 x1).pending = x1.pending := by
  induction x0 generalizing x1 with
  | zero => simp [drainUcn]
  | succ k ih =>
    simp only [drainUcn]
    refine ⟨?_, ?_⟩ <;> grind [applyMset_keeps, applyGroup_keeps]

@[simp] theorem confirmRec_keeps (s : State) (o : Nat) (r : Rec) :
    (confirmRec s o r).n = s.n ∧ (confirmRec s o r).pending = s.pending := by
  simp only [confirmRec]
  (repeat' split) <;> simp [trimRecs_keeps, writeTable_keeps, applyGroup_keeps, drainUcn_keeps]

@[simp] theorem installHolders_keeps (s : State) (o : Nat) (hs : List Nat) :
    (installHolders s o hs).n = s.n ∧ (installHolders s o hs).pending = s.pending := by
  simp only [installHolders]
  (repeat' split) <;> simp [bump_keeps, detect_keeps, putOwner_keeps, takeAreas_keeps, addTable_keeps]

@[simp] theorem refreshHolders_keeps (s : State) (o : Nat) :
    (refreshHolders s o).n = s.n ∧ (refreshHolders s o).pending = s.pending := by
  simp only [refreshHolders]
  (repeat' split) <;> simp [installHolders_keeps]

@[simp] theorem holderLost_keeps (s : State) (o : Nat) (p : Nat) :
    (holderLost s o p).n = s.n ∧ (holderLost s o p).pending = s.pending := by
  simp only [holderLost]
  (repeat' split) <;> simp [detect_keeps]

@[simp] theorem partnerLeaves_keeps (s : State) :
    (partnerLeaves s).n = s.n ∧ (partnerLeaves s).pending = s.pending := by
  simp only [partnerLeaves]
  (repeat' split) <;> simp [holderLost_keeps, foldl_n, foldl_pending, foldl_hbm, foldlP_n, foldlP_pending, foldlP_hbm]

@[simp] theorem issueCmd_keeps (s : State) (m : Nat) (opcode : Nat) (lba : Nat) (use : DrvUse) (admin : Bool) (sqe : Block) (fua : Bool) :
    (issueCmd s m opcode lba use admin sqe fua).n = s.n ∧ (issueCmd s m opcode lba use admin sqe fua).pending = s.pending := by
  simp only [issueCmd]
  (repeat' split) <;> simp [countSrc_keeps, putMember_keeps]

@[simp] theorem refillQueues_keeps (s : State) (m : Nat) :
    (refillQueues s m).n = s.n ∧ (refillQueues s m).pending = s.pending := by
  unfold refillQueues
  refine ⟨?_, ?_⟩ <;> grind [putMember_keeps, foldl_n, foldl_pending, foldl_hbm, foldlP_n, foldlP_pending, foldlP_hbm]

@[simp] theorem dropCmds_keeps (s : State) (m : Nat) (p : DrvCmd → Bool) :
    (dropCmds s m p).n = s.n ∧ (dropCmds s m p).pending = s.pending := by
  simp only [dropCmds]
  (repeat' split) <;> simp [putMember_keeps, refillQueues_keeps]

@[simp] theorem endCmd_keeps (s : State) (m : Nat) (cmd : Nat) :
    (endCmd s m cmd).n = s.n ∧ (endCmd s m cmd).pending = s.pending := by
  simp only [endCmd]
  (repeat' split) <;> simp [putMember_keeps, refillQueues_keeps]

@[simp] theorem zoneSend_keeps (s : State) (m : Nat) (zone : Nat) (act : Nat) :
    (zoneSend s m zone act).n = s.n ∧ (zoneSend s m zone act).pending = s.pending := by
  simp only [zoneSend]
  (repeat' split) <;> simp [issueCmd_keeps]

@[simp] theorem powerMembers_keeps (s : State) (deep : Bool) :
    (powerMembers s deep).n = s.n ∧ (powerMembers s deep).pending = s.pending := by
  simp only [powerMembers]
  (repeat' split) <;> simp [issueCmd_keeps, foldl_n, foldl_pending, foldl_hbm, foldlP_n, foldlP_pending, foldlP_hbm]

@[simp] theorem modTicket_keeps (s : State) (job : Nat) (t : Nat) (f : Ticket → Ticket) :
    (modTicket s job t f).n = s.n ∧ (modTicket s job t f).pending = s.pending := by
  simp only [modTicket]
  (repeat' split) <;> simp [modJob_keeps]

@[simp] theorem finishCrd_keeps (s : State) (r : GrainRead) (job : Nat) (t : Nat) :
    (finishCrd s r job t).n = s.n ∧ (finishCrd s r job t).pending = s.pending := by
  simp only [finishCrd]
  (repeat' split) <;> simp [bufWrite_keeps, modTicket_keeps, foldl_n, foldl_pending, foldl_hbm, foldlP_n, foldlP_pending, foldlP_hbm]

@[simp] theorem modRead_keeps (s : State) (id : Nat) (f : GrainRead → GrainRead) :
    (modRead s id f).n = s.n ∧ (modRead s id f).pending = s.pending := by
  simp only [modRead]
  (repeat' split) <;> simp []

@[simp] theorem issueReads_keeps (s : State) (id : Nat) :
    (issueReads s id).n = s.n ∧ (issueReads s id).pending = s.pending := by
  unfold issueReads
  refine ⟨?_, ?_⟩ <;> grind [issueCmd_keeps, modRead_keeps, foldl_n, foldl_pending, foldl_hbm, foldlP_n, foldlP_pending, foldlP_hbm]

@[simp] theorem failWaits_keeps (s : State) (v : Nat) (leaf : Nat) (st : Status) :
    (failWaits s v leaf st).n = s.n ∧ (failWaits s v leaf st).pending = s.pending := by
  simp only [failWaits]
  (repeat' split) <;> simp []

@[simp] theorem finishNode_keeps (s : State) (r : GrainRead) (v : Nat) (j : Nat) (i : Nat) :
    (finishNode s r v j i).n = s.n ∧ (finishNode s r v j i).pending = s.pending := by
  simp only [finishNode]
  (repeat' split) <;> simp [modNode_keeps, failWaits_keeps]

@[simp] theorem advanceRead_keeps (s : State) (id : Nat) :
    (advanceRead s id).n = s.n ∧ (advanceRead s id).pending = s.pending := by
  simp only [advanceRead]
  (repeat' split) <;> simp [finishCrd_keeps, issueReads_keeps, finishNode_keeps]

@[simp] theorem startRead_keeps (s : State) (sl : Nat) (k : Nat) (want : List Nat) (use : ReadUse) :
    (startRead s sl k want use).n = s.n ∧ (startRead s sl k want use).pending = s.pending := by
  simp only [startRead]
  (repeat' split) <;> simp [advanceRead_keeps]

@[simp] theorem readReturn_keeps (s : State) (id : Nat) (pos : Nat) (col : Nat) (count : Nat) (bad : List Nat) (sector : Bool) :
    (readReturn s id pos col count bad sector).n = s.n ∧ (readReturn s id pos col count bad sector).pending = s.pending := by
  simp only [readReturn]
  (repeat' split) <;> simp [modCourse_keeps, modRead_keeps, advanceRead_keeps]

@[simp] theorem needLeaf_keeps (s : State) (v : Nat) (lba : Nat) :
    (needLeaf s v lba).n = s.n ∧ (needLeaf s v lba).pending = s.pending := by
  simp only [needLeaf]
  (repeat' split) <;> simp [noteCached_keeps, startRead_keeps]

@[simp] theorem putLead_keeps (s : State) (i : Nat) (x : Lead) :
    (putLead s i x).n = s.n ∧ (putLead s i x).pending = s.pending := by
  simp only [putLead]
  (repeat' split) <;> simp []

@[simp] theorem updateSpace_keeps (s : State) :
    (updateSpace s).n = s.n ∧ (updateSpace s).pending = s.pending := by
  simp only [updateSpace]
  (repeat' split) <;> simp [detect_keeps, foldl_n, foldl_pending, foldl_hbm, foldlP_n, foldlP_pending, foldlP_hbm]

@[simp] theorem eraseSlots_keeps (s : State) (p : Nat → Nat → Bool) :
    (eraseSlots s p).n = s.n ∧ (eraseSlots s p).pending = s.pending := by
  simp only [eraseSlots]
  (repeat' split) <;> simp []

@[simp] theorem resetRun_keeps (s : State) (l : Layout) (r : Nat) :
    (resetRun s l r).n = s.n ∧ (resetRun s l r).pending = s.pending := by
  simp only [resetRun]
  (repeat' split) <;> simp [zoneSend_keeps, eraseSlots_keeps, foldl_n, foldl_pending, foldl_hbm, foldlP_n, foldlP_pending, foldlP_hbm]

@[simp] theorem closeRun_keeps (s : State) (l : Layout) (run : Nat) :
    (closeRun s l run).n = s.n ∧ (closeRun s l run).pending = s.pending := by
  simp only [closeRun]
  (repeat' split) <;> simp [raise_keeps, zoneSend_keeps, foldl_n, foldl_pending, foldl_hbm, foldlP_n, foldlP_pending, foldlP_hbm]

@[simp] theorem closeRuns_keeps (s : State) (l : Layout) (ks : List Nat) :
    (closeRuns s l ks).n = s.n ∧ (closeRuns s l ks).pending = s.pending := by
  simp only [closeRuns]
  (repeat' split) <;> simp [closeRun_keeps, foldl_n, foldl_pending, foldl_hbm, foldlP_n, foldlP_pending, foldlP_hbm]

@[simp] theorem resetRuns_keeps (s : State) (l : Layout) :
    (resetRuns s l).n = s.n ∧ (resetRuns s l).pending = s.pending := by
  simp only [resetRuns]
  (repeat' split) <;> simp [resetRun_keeps, foldl_n, foldl_pending, foldl_hbm, foldlP_n, foldlP_pending, foldlP_hbm]

@[simp] theorem placeCourse_keeps (s : State) (l : Layout) (c : Course) (u) (h : placeCourse s l c = some u) :
    u.1.n = s.n ∧ u.1.pending = s.pending := by
  unfold placeCourse at h
  cases hn : nextOrdinal s l with
  | none => simp [hn] at h
  | some k =>
    simp only [hn, Option.map_some, Option.some.injEq] at h
    subst h
    exact ⟨(updateSpace_keeps _).1.trans (resetRuns_keeps _ _).1, (updateSpace_keeps _).2.trans (resetRuns_keeps _ _).2⟩

@[simp] theorem ensureCourse_keeps (s : State) (l : Layout) (i : Nat) (u) (h : ensureCourse s l i = some u) :
    u.1.n = s.n ∧ u.1.pending = s.pending := by
  unfold ensureCourse at h
  dsimp only at h
  split at h
  · simp only [Option.some.injEq] at h
    subst h
    exact ⟨rfl, rfl⟩
  · split at h
    · cases h
    · obtain ⟨x, hx, rfl⟩ := Option.map_eq_some_iff.1 h
      simp [placeCourse_keeps _ _ _ _ hx]

@[simp] theorem takeSpare_keeps (s : State) (l : Layout) (m : Nat) (slot : Nat) :
    (takeSpare s l m slot).n = s.n ∧ (takeSpare s l m slot).pending = s.pending := by
  simp only [takeSpare]
  (repeat' split) <;> simp []

@[simp] theorem resetSpareZones_keeps (s : State) (l : Layout) (m : Nat) :
    (resetSpareZones s l m).n = s.n ∧ (resetSpareZones s l m).pending = s.pending := by
  simp only [resetSpareZones]
  (repeat' split) <;> simp [zoneSend_keeps, foldl_n, foldl_pending, foldl_hbm, foldlP_n, foldlP_pending, foldlP_hbm]

@[simp] theorem chooseSpare_keeps (s : State) (l : Layout) (k : Nat) :
    (chooseSpare s l k).1.n = s.n ∧ (chooseSpare s l k).1.pending = s.pending := by
  simp only [chooseSpare]
  (repeat' split) <;> simp [granted_keeps, resetSpareZones_keeps, foldl_n, foldl_pending, foldl_hbm, foldlP_n, foldlP_pending, foldlP_hbm]

@[simp] theorem allocSpare_keeps (s : State) (l : Layout) (sl : Nat) (k : Nat) (pos : Nat) :
    (allocSpare s l sl k pos).1.n = s.n ∧ (allocSpare s l sl k pos).1.pending = s.pending := by
  simp only [allocSpare]
  refine ⟨?_, ?_⟩ <;> grind [addMset_keeps, takeSpare_keeps, chooseSpare_keeps]

@[simp] theorem placeAll_keeps (s : State) (l : Layout) (sl : Nat) (k : Nat) :
    (placeAll s l sl k).1.n = s.n ∧ (placeAll s l sl k).1.pending = s.pending := by
  simp only [placeAll]
  refine ⟨?_, ?_⟩ <;> grind [allocSpare_keeps, foldl_n, foldl_pending, foldl_hbm, foldlP_n, foldlP_pending, foldlP_hbm]

@[simp] theorem writeStrip_keeps (s : State) (m : Nat) (slot : Nat) (cols : List Block) :
    (writeStrip s m slot cols).n = s.n ∧ (writeStrip s m slot cols).pending = s.pending := by
  simp only [writeStrip]
  (repeat' split) <;> simp [mediaWrite_keeps, foldl_n, foldl_pending, foldl_hbm, foldlP_n, foldlP_pending, foldlP_hbm]

@[simp] theorem advanceSeal_keeps (s : State) (k : Nat) :
    (advanceSeal s k).n = s.n ∧ (advanceSeal s k).pending = s.pending := by
  simp only [advanceSeal]
  (repeat' split) <;> simp [detect_keeps, modCourse_keeps, addRec_keeps, placeAll_keeps]

@[simp] theorem sealCourse_keeps (s : State) (k : Nat) :
    (sealCourse s k).n = s.n ∧ (sealCourse s k).pending = s.pending := by
  simp only [sealCourse]
  (repeat' split) <;> simp [bump_keeps, modCourse_keeps, advanceSeal_keeps]

@[simp] theorem addGrain_keeps (s : State) (k : Nat) (g : Grain) :
    (addGrain s k g).n = s.n ∧ (addGrain s k g).pending = s.pending := by
  simp only [addGrain]
  (repeat' split) <;> simp [bump_keeps, modCourse_keeps, needLeaf_keeps]

@[simp] theorem feedLead_keeps (x0 : Nat) (x1 : State) (x2 : Layout) (x3 : Nat) :
    (feedLead x0 x1 x2 x3).n = x1.n ∧ (feedLead x0 x1 x2 x3).pending = x1.pending := by
  induction x0 generalizing x1 x2 x3 with
  | zero => simp only [feedLead, and_self]
  | succ k ih =>
    simp only [feedLead]
    split
    · exact ⟨rfl, rfl⟩
    · split
      · exact ⟨rfl, rfl⟩
      · rename_i t j ht
        have hk := ensureCourse_keeps _ _ _ _ ht
        simp only at hk
        refine ⟨?_, ?_⟩ <;> (repeat' split) <;> simp [ih, hk, foldl_n, foldl_pending]

@[simp] theorem appendTo_keeps (s : State) (i : Nat) (sl : Nat) (grains : List Grain) (atomic : Bool) :
    (appendTo s i sl grains atomic).n = s.n ∧ (appendTo s i sl grains atomic).pending = s.pending := by
  simp only [appendTo]
  (repeat' split) <;> simp [putLead_keeps, feedLead_keeps]

@[simp] theorem passLead_keeps (s : State) (i : Nat) :
    (passLead s i).n = s.n ∧ (passLead s i).pending = s.pending := by
  simp only [passLead]
  (repeat' split) <;> simp [putLead_keeps, feedLead_keeps]

@[simp] theorem sweepCourse_keeps (s : State) (k : Nat) :
    (sweepCourse s k).n = s.n ∧ (sweepCourse s k).pending = s.pending := by
  simp only [sweepCourse]
  (repeat' split) <;> simp [modCourse_keeps, askCommit_keeps, foldl_n, foldl_pending, foldl_hbm, foldlP_n, foldlP_pending, foldlP_hbm]

theorem stripIssued_kept (t : State) (k sl : Nat) (a : Nat × Strip) (f : Course → Course) :
    Kept t (countSrc (issueCmd (modCourse t k f) a.2.member (if a.2.zeroes then 8 else 1)
      (slotLba (modCourse t k f) a.2.member a.2.slot) (.strip k a.1) false [] true) sl srcStrips 1) :=
  ⟨(countSrc_keeps _ _ _ _).1.trans ((issueCmd_keeps _ _ _ _ _ _ _ _).1.trans (modCourse_keeps _ _ _).1),
    (countSrc_keeps _ _ _ _).2.trans ((issueCmd_keeps _ _ _ _ _ _ _ _).2.trans (modCourse_keeps _ _ _).2)⟩

@[simp] theorem issueStrips_keeps (s : State) (k : Nat) :
    (issueStrips s k).n = s.n ∧ (issueStrips s k).pending = s.pending := by
  unfold issueStrips
  split
  · split
    · exact ⟨rfl, rfl⟩
    · exact foldl_kept _ _ _ fun t a => stripIssued_kept t k _ a _
  · exact ⟨rfl, rfl⟩

@[simp] theorem countPour_keeps (s : State) (c : Course) :
    (countPour s c).n = s.n ∧ (countPour s c).pending = s.pending := by
  simp only [countPour]
  (repeat' split) <;> simp []

@[simp] theorem pourCourse_keeps (s : State) (k : Nat) :
    (pourCourse s k).n = s.n ∧ (pourCourse s k).pending = s.pending := by
  simp only [pourCourse]
  (repeat' split) <;> simp [bump_keeps, modCourse_keeps, trimRecs_keeps, advanceSeal_keeps, appendTo_keeps, sweepCourse_keeps, issueStrips_keeps, countPour_keeps]

@[simp] theorem commitCourse_keeps (s : State) (k : Nat) :
    (commitCourse s k).n = s.n ∧ (commitCourse s k).pending = s.pending := by
  simp only [commitCourse]
  (repeat' split) <;> simp [modCourse_keeps, addGroup_keeps]

@[simp] theorem advancePour_keeps (s : State) (k : Nat) :
    (advancePour s k).n = s.n ∧ (advancePour s k).pending = s.pending := by
  simp only [advancePour]
  (repeat' split) <;> simp [commitCourse_keeps]

@[simp] theorem validSpare_keeps (s : State) (l : Layout) (sl : Nat) (k : Nat) (pos : Nat) :
    (validSpare s l sl k pos).1.n = s.n ∧ (validSpare s l sl k pos).1.pending = s.pending := by
  simp only [validSpare]
  (repeat' split) <;> simp [addMset_keeps]

@[simp] theorem stripDone_keeps (s : State) (k : Nat) (pos : Nat) :
    (stripDone s k pos).n = s.n ∧ (stripDone s k pos).pending = s.pending := by
  simp only [stripDone]
  (repeat' split) <;> simp [modCourse_keeps, dropCmds_keeps, writeStrip_keeps, issueStrips_keeps, advancePour_keeps, validSpare_keeps, foldl_n, foldl_pending, foldl_hbm, foldlP_n, foldlP_pending, foldlP_hbm]

@[simp] theorem repourWaiting_keeps (s : State) :
    (repourWaiting s).n = s.n ∧ (repourWaiting s).pending = s.pending := by
  unfold repourWaiting
  split
  · exact ⟨rfl, rfl⟩
  · refine foldl_kept _ _ _ fun t c => ?_
    split
    · exact ⟨rfl, rfl⟩
    · next h =>
      obtain ⟨a, b⟩ := placeCourse_keeps _ _ _ _ h
      exact ⟨(advanceSeal_keeps _ _).1.trans a, (advanceSeal_keeps _ _).2.trans b⟩

@[simp] theorem repour_keeps (s : State) (k : Nat) :
    (repour s k).n = s.n ∧ (repour s k).pending = s.pending := by
  unfold repour
  split
  · next c l _ _ =>
    split
    · exact ⟨rfl, rfl⟩
    · extract_lets s1 s2 s3 s4 c'
      have h1 : Kept s s1 := foldl_kept _ _ _ fun t a => by simp [Kept]
      have h2 : Kept s s2 := by simpa [Kept, s2] using h1
      have h3 : Kept s s3 := by
        show Kept s (match c.recSeq with | some q => trimRecs s2 c.slate fun r => r.seq == q | none => s2)
        split <;> simpa [Kept] using h2
      have h4 : Kept s s4 := by simpa [Kept, s4] using h3
      clear_value s1 s2 s3 s4
      split
      · exact h4
      · next h =>
        obtain ⟨a, b⟩ := placeCourse_keeps _ _ _ _ h
        exact ⟨(advanceSeal_keeps _ _).1.trans (a.trans h4.1), (advanceSeal_keeps _ _).2.trans (b.trans h4.2)⟩
  · exact ⟨rfl, rfl⟩

@[simp] theorem goneCmd_keeps (s : State) (c : DrvCmd) :
    (goneCmd s c).n = s.n ∧ (goneCmd s c).pending = s.pending := by
  simp only [goneCmd]
  (repeat' split) <;> simp [takeFree_keeps, modTicket_keeps, readReturn_keeps, repour_keeps]

@[simp] theorem loseStrips_keeps (s : State) (l : Layout) (m : Nat) :
    (loseStrips s l m).n = s.n ∧ (loseStrips s l m).pending = s.pending := by
  simp only [loseStrips]
  (repeat' split) <;> simp []

@[simp] theorem memberLost_keeps (s : State) (m : Nat) :
    (memberLost s m).n = s.n ∧ (memberLost s m).pending = s.pending := by
  simp only [memberLost]
  (repeat' split) <;> simp [repour_keeps, loseStrips_keeps, foldl_n, foldl_pending, foldl_hbm, foldlP_n, foldlP_pending, foldlP_hbm]

@[simp] theorem writeFailure_keeps (s : State) (m : Nat) (tb : Nat) :
    (writeFailure s m tb).n = s.n ∧ (writeFailure s m tb).pending = s.pending := by
  simp only [writeFailure]
  (repeat' split) <;> simp [putMember_keeps, addTableGroup_keeps]

@[simp] theorem recordFailure_keeps (s : State) (m : Nat) :
    (recordFailure s m).n = s.n ∧ (recordFailure s m).pending = s.pending := by
  simp only [recordFailure]
  (repeat' split) <;> simp [putMember_keeps, writeFailure_keeps]

@[simp] theorem declareGone_keeps (s : State) (m : Nat) (state : Nat) (status : Nat) (opcode : Nat) (lba : Nat) :
    (declareGone s m state status opcode lba).n = s.n ∧ (declareGone s m state status opcode lba).pending = s.pending := by
  simp only [declareGone]
  (repeat' split) <;> simp [detect_keeps, putMember_keeps, goneCmd_keeps, memberLost_keeps, recordFailure_keeps, foldl_n, foldl_pending, foldl_hbm, foldlP_n, foldlP_pending, foldlP_hbm]

@[simp] theorem noteSource_keeps (s : State) (d : Datagram) :
    (noteSource s d).n = s.n ∧ (noteSource s d).pending = s.pending := by
  simp only [noteSource]
  (repeat' split) <;> simp []

@[simp] theorem beginTag_keeps (s : State) (hq : Nat) (t : Nat) (nonce : Word) (st : TagState) (c : Cmd) :
    (beginTag s hq t nonce st c).n = s.n ∧ (beginTag s hq t nonce st c).pending = s.pending := by
  simp only [beginTag]
  (repeat' split) <;> simp [modTag_keeps]

@[simp] theorem addHazard_keeps (s : State) (hq : Nat) (t : Nat) (nonce : Word) (c : Cmd) :
    (addHazard s hq t nonce c).n = s.n ∧ (addHazard s hq t nonce c).pending = s.pending := by
  simp only [addHazard]
  (repeat' split) <;> simp [bump_keeps, detect_keeps, foldl_n, foldl_pending, foldl_hbm, foldlP_n, foldlP_pending, foldlP_hbm]

@[simp] theorem holdCommand_keeps (s : State) (hq : Nat) (t : Nat) (nonce : Word) (c : Cmd) :
    (holdCommand s hq t nonce c).n = s.n ∧ (holdCommand s hq t nonce c).pending = s.pending := by
  simp only [holdCommand]
  (repeat' split) <;> simp [countSrc_keeps, newBuffer_keeps, powerMembers_keeps, beginTag_keeps, addHazard_keeps]

@[simp] theorem admitCommand_keeps (s : State) (p : Parked) (supplied : Bool) :
    (admitCommand s p supplied).n = s.n ∧ (admitCommand s p supplied).pending = s.pending := by
  have h : Kept s (admitCommand s p supplied) := by
    unfold admitCommand
    dsimp only
    split
    · exact ⟨rfl, rfl⟩
    · have hk : Kept s (bump s (hqSlate p.hq) F.XPORT.DUP_DISCARD) := by simp [Kept]
      refine kept_ite (by simp [Kept]) (kept_ite hk (kept_ite hk (kept_ite hk (kept_ite ?_ (kept_ite (by simp [Kept])
        (kept_ite (by simp [Kept]) (kept_ite (by simp [Kept]) (kept_ite (by simp [Kept]) (kept_ite ?_ (by simp [Kept]))))))))))
      · split <;> simp [Kept]
      · unfold Kept
        split <;> simp
  exact h

@[simp] theorem fillBuffer_keeps (s : State) (b : Nat) (off : Nat) (d : Block) :
    (fillBuffer s b off d).n = s.n ∧ (fillBuffer s b off d).pending = s.pending := by
  simp only [fillBuffer]
  (repeat' split) <;> simp [foldl_n, foldl_pending, foldl_hbm, foldlP_n, foldlP_pending, foldlP_hbm]

@[simp] theorem acceptData_keeps (s : State) (hq : Nat) (d : Datagram) :
    (acceptData s hq d).n = s.n ∧ (acceptData s hq d).pending = s.pending := by
  simp only [acceptData]
  (repeat' split) <;> simp [bump_keeps, fillBuffer_keeps]

@[simp] theorem abortOne_keeps (s : State) (hq : Nat) (d : Datagram) :
    (abortOne s hq d).n = s.n ∧ (abortOne s hq d).pending = s.pending := by
  simp only [abortOne]
  (repeat' split) <;> simp [bump_keeps, modTag_keeps, sendResp_keeps, abortTag_keeps]

@[simp] theorem repeatReset_keeps (s : State) (hq : Nat) (q : Queue) (rt : ReplyTo) :
    (repeatReset s hq q rt).n = s.n ∧ (repeatReset s hq q rt).pending = s.pending := by
  simp only [repeatReset]
  refine ⟨?_, ?_⟩ <;> grind [sendResp_keeps, foldl_n, foldl_pending, foldl_hbm, foldlP_n, foldlP_pending, foldlP_hbm]

@[simp] theorem abortQueue_keeps (s : State) (hq : Nat) (d : Datagram) :
    (abortQueue s hq d).n = s.n ∧ (abortQueue s hq d).pending = s.pending := by
  simp only [abortQueue]
  (repeat' split) <;> simp [bump_keeps, resetQueue_keeps, repeatReset_keeps]

@[simp] theorem processDg_keeps (s : State) (p : Parked) :
    (processDg s p).n = s.n ∧ (processDg s p).pending = s.pending := by
  simp only [processDg]
  (repeat' split) <;> simp [modQueue_keeps, admitCommand_keeps, acceptData_keeps, abortOne_keeps, abortQueue_keeps]

@[simp] theorem processAll_keeps (s : State) (sl : Nat) (l : List Parked) :
    (processAll s sl l).n = s.n ∧ (processAll s sl l).pending = s.pending := by
  unfold processAll
  refine ⟨?_, ?_⟩ <;> grind [parkDatagram_keeps, processDg_keeps, foldl_n, foldl_pending, foldl_hbm, foldlP_n, foldlP_pending, foldlP_hbm]

@[simp] theorem refillPark_keeps (x0 : Nat) (x1 : State) (x2 : Nat) :
    (refillPark x0 x1 x2).n = x1.n ∧ (refillPark x0 x1 x2).pending = x1.pending := by
  induction x0 generalizing x1 x2 with
  | zero => simp [refillPark]
  | succ k ih =>
    simp only [refillPark]
    refine ⟨?_, ?_⟩ <;> grind [processAll_keeps]

@[simp] theorem refill_keeps (s : State) (sl : Nat) :
    (refill s sl).n = s.n ∧ (refill s sl).pending = s.pending := by
  simp only [refill]
  (repeat' split) <;> simp [refillPark_keeps]

@[simp] theorem handOver_keeps (s : State) (kind : DgKind) (d : Datagram) (k : KeyEntry) :
    (handOver s kind d k).n = s.n ∧ (handOver s kind d k).pending = s.pending := by
  simp only [handOver]
  (repeat' split) <;> simp [modQueue_keeps, sendBusy_keeps, parkDatagram_keeps, noteSource_keeps, processDg_keeps]

@[simp] theorem putRot_keeps (s : State) (sl : Nat) (t : Tab RotEntry) :
    (putRot s sl t).n = s.n ∧ (putRot s sl t).pending = s.pending := by
  simp only [putRot]
  (repeat' split) <;> simp []

@[simp] theorem rotDropWindow_keeps (s : State) (w : Nat) :
    (rotDropWindow s w).n = s.n ∧ (rotDropWindow s w).pending = s.pending := by
  simp only [rotDropWindow]
  (repeat' split) <;> simp [putRot_keeps]

@[simp] theorem rotTrim_keeps (s : State) (sl : Nat) :
    (rotTrim s sl).n = s.n ∧ (rotTrim s sl).pending = s.pending := by
  simp only [rotTrim]
  (repeat' split) <;> simp [putRot_keeps]

@[simp] theorem rmaRespond_keeps (s : State) (home : Nat) (d : Datagram) (st : Status) (result : Block) (dup : Bool) :
    (rmaRespond s home d st result dup).n = s.n ∧ (rmaRespond s home d st result dup).pending = s.pending := by
  simp only [rmaRespond]
  (repeat' split) <;> simp [send_keeps]

@[simp] theorem rmaEnd_keeps (s : State) (home : Nat) (d : Datagram) (ent : Option Nat) (st : Status) (result : Block) :
    (rmaEnd s home d ent st result).n = s.n ∧ (rmaEnd s home d ent st result).pending = s.pending := by
  simp only [rmaEnd]
  (repeat' split) <;> simp [putRot_keeps, rmaRespond_keeps]

@[simp] theorem rmaFail_keeps (s : State) (home : Nat) (d : Datagram) (ent : Option Nat) (st : Status) :
    (rmaFail s home d ent st).n = s.n ∧ (rmaFail s home d ent st).pending = s.pending := by
  simp only [rmaFail]
  (repeat' split) <;> simp [rmaEnd_keeps]

@[simp] theorem rmaPoison_keeps (s : State) (home : Nat) (d : Datagram) (a : Nat) :
    (rmaPoison s home d a).n = s.n ∧ (rmaPoison s home d a).pending = s.pending := by
  simp only [rmaPoison]
  (repeat' split) <;> simp [detect_keeps, consumePoison_keeps]

@[simp] theorem homeRead_keeps (s : State) (a : Nat) (len : Nat) :
    (homeRead s a len).n = s.n ∧ (homeRead s a len).pending = s.pending := by
  simp only [homeRead]
  (repeat' split) <;> simp [homeAccess_keeps, foldl_n, foldl_pending, foldl_hbm, foldlP_n, foldlP_pending, foldlP_hbm]

@[simp] theorem putCopy_keeps (s : State) (sl : Nat) (id : Nat) (c : Copy) :
    (putCopy s sl id c).n = s.n ∧ (putCopy s sl id c).pending = s.pending := by
  simp only [putCopy]
  (repeat' split) <;> simp []

@[simp] theorem copyEnd_keeps (s : State) (sl : Nat) (id : Nat) (c : Copy) (st : Status) :
    (copyEnd s sl id c st).n = s.n ∧ (copyEnd s sl id c st).pending = s.pending := by
  simp only [copyEnd]
  (repeat' split) <;> simp [bump_keeps, detect_keeps, rmaEnd_keeps]

@[simp] theorem chunkSend_keeps (s : State) (sl : Nat) (c : Copy) (k : Chunk) :
    (chunkSend s sl c k).n = s.n ∧ (chunkSend s sl c k).pending = s.pending := by
  simp only [chunkSend]
  (repeat' split) <;> simp [admitInternal_keeps]

@[simp] theorem localChunk_keeps (s : State) (sl : Nat) (c : Copy) (k : Chunk) :
    (localChunk s sl c k).1.n = s.n ∧ (localChunk s sl c k).1.pending = s.pending := by
  simp only [localChunk]
  (repeat' split) <;> simp [detect_keeps, consumePoison_keeps, homeWrite_keeps]

@[simp] theorem copyIssue_keeps (x0 : Nat) (x1 : State) (x2 : Nat) (x3 : Nat) :
    (copyIssue x0 x1 x2 x3).n = x1.n ∧ (copyIssue x0 x1 x2 x3).pending = x1.pending := by
  induction x0 generalizing x1 x2 x3 with
  | zero => simp [copyIssue]
  | succ k ih =>
    simp only [copyIssue]
    refine ⟨?_, ?_⟩ <;> grind [rmaPoison_keeps, homeRead_keeps, putCopy_keeps, copyEnd_keeps, chunkSend_keeps, localChunk_keeps]

@[simp] theorem copiesIssue_keeps (s : State) (sl : Nat) :
    (copiesIssue s sl).n = s.n ∧ (copiesIssue s sl).pending = s.pending := by
  simp only [copiesIssue]
  (repeat' split) <;> simp [copyIssue_keeps, foldl_n, foldl_pending, foldl_hbm, foldlP_n, foldlP_pending, foldlP_hbm]

@[simp] theorem copyStart_keeps (s : State) (home : Nat) (d : Datagram) (ent : Nat) :
    (copyStart s home d ent).n = s.n ∧ (copyStart s home d ent).pending = s.pending := by
  simp only [copyStart]
  (repeat' split) <;> simp [putCopy_keeps, copyIssue_keeps]

@[simp] theorem stopCopies_keeps (s : State) (w : Nat) :
    (stopCopies s w).n = s.n ∧ (stopCopies s w).pending = s.pending := by
  simp only [stopCopies]
  refine ⟨?_, ?_⟩ <;> grind [copyEnd_keeps, foldl_n, foldl_pending, foldl_hbm, foldlP_n, foldlP_pending, foldlP_hbm]

@[simp] theorem reuseWindow_keeps (s : State) (w : Nat) :
    (reuseWindow s w).n = s.n ∧ (reuseWindow s w).pending = s.pending := by
  simp only [reuseWindow]
  (repeat' split) <;> simp [raise_keeps, rotDropWindow_keeps, stopCopies_keeps]

@[simp] theorem winOp_keeps (s : State) (sl : Nat) (i : Nat) (op : Nat) :
    (winOp s sl i op).n = s.n ∧ (winOp s sl i op).pending = s.pending := by
  simp only [winOp]
  (repeat' split) <;> simp [rotDropWindow_keeps, stopCopies_keeps, reuseWindow_keeps]

@[simp] theorem rmaWriteAt_keeps (s : State) (home : Nat) (d : Datagram) (ent : Option Nat) (a : Nat) :
    (rmaWriteAt s home d ent a).n = s.n ∧ (rmaWriteAt s home d ent a).pending = s.pending := by
  simp only [rmaWriteAt]
  (repeat' split) <;> simp [homeWrite_keeps, rmaEnd_keeps, rmaFail_keeps, rmaPoison_keeps]

@[simp] theorem rmaAtomic_keeps (s : State) (home : Nat) (d : Datagram) (ent : Option Nat) (a : Nat) (n : Nat) (cas : Bool) (f : Nat → Option Nat) :
    (rmaAtomic s home d ent a n cas f).n = s.n ∧ (rmaAtomic s home d ent a n cas f).pending = s.pending := by
  simp only [rmaAtomic]
  (repeat' split) <;> simp [hbmWrite_keeps, atomicAccess_keeps, granted_keeps, rmaEnd_keeps, rmaFail_keeps, rmaPoison_keeps]

@[simp] theorem rmaRun_keeps (s : State) (home : Nat) (d : Datagram) (ent : Option Nat) (w : Window) :
    (rmaRun s home d ent w).n = s.n ∧ (rmaRun s home d ent w).pending = s.pending := by
  simp only [rmaRun]
  (repeat' split) <;> simp [bump_keeps, rmaEnd_keeps, rmaFail_keeps, rmaPoison_keeps, homeRead_keeps, copyStart_keeps, rmaWriteAt_keeps, rmaAtomic_keeps]

@[simp] theorem rmaAdmitted_keeps (s : State) (home : Nat) (d : Datagram) (w : Window) :
    (rmaAdmitted s home d w).n = s.n ∧ (rmaAdmitted s home d w).pending = s.pending := by
  simp only [rmaAdmitted]
  (repeat' split) <;> simp [bump_keeps, detect_keeps, sendBusy_keeps, putRot_keeps, rotTrim_keeps, rmaRespond_keeps, rmaFail_keeps, rmaRun_keeps]

@[simp] theorem rmaHome_keeps (s : State) (d : Datagram) :
    (rmaHome s d).n = s.n ∧ (rmaHome s d).pending = s.pending := by
  simp only [rmaHome]
  (repeat' split) <;> simp [bump_keeps, sendBusy_keeps, rmaAdmitted_keeps]

theorem ingressGranted_keeps (s : State) (d : Datagram) (c : Check) (k : KeyEntry) (pass : State → State)
    (h : ∀ s, (pass s).n = s.n ∧ (pass s).pending = s.pending) :
    (ingressGranted s d c k pass).n = s.n ∧ (ingressGranted s d c k pass).pending = s.pending := by
  simp only [ingressGranted]
  refine ⟨?_, ?_⟩ <;> (repeat' split) <;> simp only [sendBusy_keeps, h]

theorem ingress_keeps (s : State) (d : Datagram) (c : Check) (pass : State → Datagram → KeyEntry → State)
    (h : ∀ s d k, (pass s d k).n = s.n ∧ (pass s d k).pending = s.pending) :
    (ingress s d c pass).n = s.n ∧ (ingress s d c pass).pending = s.pending := by
  simp only [ingress]
  (repeat' split) <;> simp [h, ingressGranted_keeps]

@[simp] theorem rmaRequest_keeps (d : Datagram) (s : State) :
    (rmaRequest d s).n = s.n ∧ (rmaRequest d s).pending = s.pending := by
  unfold rmaRequest
  exact ingress_keeps _ _ _ _ fun s d _ => rmaHome_keeps s d

@[simp] theorem advanceAll_keeps (s : State) (o : Nat) :
    (advanceAll s o).n = s.n ∧ (advanceAll s o).pending = s.pending := by
  simp only [advanceAll]
  (repeat' split) <;> simp [advanceSeal_keeps, advancePour_keeps, foldl_n, foldl_pending, foldl_hbm, foldlP_n, foldlP_pending, foldlP_hbm]

@[simp] theorem packRecs_keeps (s : State) (o : Nat) (l : List Rec) :
    (packRecs s o l).n = s.n ∧ (packRecs s o l).pending = s.pending := by
  simp only [packRecs]
  (repeat' split) <;> simp [putOwner_keeps, appendTo_keeps]

@[simp] theorem packLog_keeps (s : State) (o : Nat) :
    (packLog s o).n = s.n ∧ (packLog s o).pending = s.pending := by
  simp only [packLog]
  (repeat' split) <;> simp [packRecs_keeps]

@[simp] theorem afterConfirm_keeps (s : State) (o : Nat) :
    (afterConfirm s o).n = s.n ∧ (afterConfirm s o).pending = s.pending := by
  simp only [afterConfirm]
  (repeat' split) <;> simp [advanceAll_keeps, packLog_keeps]

@[simp] theorem logDurable_keeps (s : State) (k : Nat) (o : Nat) (seqs : List Nat) :
    (logDurable s k o seqs).n = s.n ∧ (logDurable s k o seqs).pending = s.pending := by
  simp only [logDurable]
  (repeat' split) <;> simp [modCourse_keeps, addTable_keeps, trimRecs_keeps, foldl_n, foldl_pending, foldl_hbm, foldlP_n, foldlP_pending, foldlP_hbm]

@[simp] theorem pruneDir_keeps (s : State) :
    (pruneDir s).n = s.n ∧ (pruneDir s).pending = s.pending := by
  simp only [pruneDir]
  (repeat' split) <;> simp [modCourse_keeps, retireIfDead_keeps, addTable_keeps, foldl_n, foldl_pending, foldl_hbm, foldlP_n, foldlP_pending, foldlP_hbm]

@[simp] theorem pointTo_keeps (s : State) (v : Nat) (j : Nat) (i : Nat) (u : Nat) :
    (pointTo s v j i u).n = s.n ∧ (pointTo s v j i u).pending = s.pending := by
  simp only [pointTo]
  (repeat' split) <;> simp [pendNode_keeps, addTableGroup_keeps]

@[simp] theorem nodeDurable_keeps (s : State) (v : Nat) (j : Nat) (i : Nat) (pgn : Nat) (mark : Nat) (u : Nat) :
    (nodeDurable s v j i pgn mark u).n = s.n ∧ (nodeDurable s v j i pgn mark u).pending = s.pending := by
  simp only [nodeDurable]
  (repeat' split) <;> simp [modNode_keeps, grainLive_keeps, pruneDir_keeps, pointTo_keeps]

@[simp] theorem grainDurable_keeps (s : State) (l : Layout) (k : Nat) (i : Nat) (u : Nat) (g : Grain) :
    (grainDurable s l k i u g).n = s.n ∧ (grainDurable s l k i u g).pending = s.pending := by
  simp only [grainDurable]
  (repeat' split) <;> simp [bump_keeps, modCourse_keeps, applyHost_keeps, applyReloc_keeps, logDurable_keeps, nodeDurable_keeps]

@[simp] theorem queueCourse_keeps (s : State) (l : Layout) (k : Nat) :
    (queueCourse s l k).n = s.n ∧ (queueCourse s l k).pending = s.pending := by
  simp only [queueCourse]
  (repeat' split) <;> simp []

@[simp] theorem makeDurable_keeps (s : State) (k : Nat) :
    (makeDurable s k).n = s.n ∧ (makeDurable s k).pending = s.pending := by
  simp only [makeDurable]
  (repeat' split) <;> simp [modCourse_keeps, retireIfDead_keeps, trimRecs_keeps, drainUcn_keeps, pruneDir_keeps, grainDurable_keeps, queueCourse_keeps, foldl_n, foldl_pending, foldl_hbm, foldlP_n, foldlP_pending, foldlP_hbm]

@[simp] theorem fillHolders_keeps (s : State) :
    (fillHolders s).n = s.n ∧ (fillHolders s).pending = s.pending := by
  simp only [fillHolders]
  (repeat' split) <;> simp [refreshHolders_keeps, foldl_n, foldl_pending, foldl_hbm, foldlP_n, foldlP_pending, foldlP_hbm]

@[simp] theorem writeFailed_keeps (s : State) (m : Nat) (status : Nat) (opcode : Nat) (lba : Nat) :
    (writeFailed s m status opcode lba).n = s.n ∧ (writeFailed s m status opcode lba).pending = s.pending := by
  simp only [writeFailed]
  (repeat' split) <;> simp [bump_keeps, declareGone_keeps]

@[simp] theorem stripFail_keeps (s : State) (k : Nat) (pos : Nat) (status : Nat) :
    (stripFail s k pos status).n = s.n ∧ (stripFail s k pos status).pending = s.pending := by
  simp only [stripFail]
  (repeat' split) <;> simp [repour_keeps, writeFailed_keeps]

@[simp] theorem dropSummaries_keeps (s : State) (k : Nat) :
    (dropSummaries s k).n = s.n ∧ (dropSummaries s k).pending = s.pending := by
  simp only [dropSummaries]
  (repeat' split) <;> simp [modCourse_keeps, retireIfDead_keeps, foldl_n, foldl_pending, foldl_hbm, foldlP_n, foldlP_pending, foldlP_hbm]

@[simp] theorem freeSpares_keeps (s : State) (l : Layout) (sl : Nat) (k : Nat) :
    (freeSpares s l sl k).n = s.n ∧ (freeSpares s l sl k).pending = s.pending := by
  simp only [freeSpares]
  refine ⟨?_, ?_⟩ <;> grind [addMset_keeps, foldl_n, foldl_pending, foldl_hbm, foldlP_n, foldlP_pending, foldlP_hbm]

@[simp] theorem releaseCourse_keeps (s : State) (k : Nat) :
    (releaseCourse s k).n = s.n ∧ (releaseCourse s k).pending = s.pending := by
  simp only [releaseCourse]
  refine ⟨?_, ?_⟩ <;> grind [modCourse_keeps, addRec_keeps, issueCmd_keeps, updateSpace_keeps, eraseSlots_keeps, resetRuns_keeps, repourWaiting_keeps, dropSummaries_keeps, freeSpares_keeps, foldl_n, foldl_pending, foldl_hbm, foldlP_n, foldlP_pending, foldlP_hbm]

@[simp] theorem writeWaiting_keeps (x0 : Nat) (x1 : State) (x2 : Nat) :
    (writeWaiting x0 x1 x2).n = x1.n ∧ (writeWaiting x0 x1 x2).pending = x1.pending := by
  induction x0 generalizing x1 x2 with
  | zero => simp [writeWaiting]
  | succ k ih =>
    simp only [writeWaiting]
    refine ⟨?_, ?_⟩ <;> grind [putOwner_keeps, putRec_keeps]

@[simp] theorem writeBack_keeps (s : State) (v : Nat) (j : Nat) (i : Nat) :
    (writeBack s v j i).n = s.n ∧ (writeBack s v j i).pending = s.pending := by
  simp only [writeBack]
  (repeat' split) <;> simp [modNode_keeps, appendTo_keeps, foldl_n, foldl_pending, foldl_hbm, foldlP_n, foldlP_pending, foldlP_hbm]

@[simp] theorem keepStat_keeps (old : State) (s : State) (sl : Nat) :
    (keepStat old s sl).n = s.n ∧ (keepStat old s sl).pending = s.pending := by
  simp only [keepStat]
  refine ⟨?_, ?_⟩ <;> grind [setF_keeps, foldl_n, foldl_pending, foldl_hbm, foldlP_n, foldlP_pending, foldlP_hbm]

@[simp] theorem applyWays_keeps (s : State) (sl : Nat) :
    (applyWays s sl).n = s.n ∧ (applyWays s sl).pending = s.pending := by
  simp only [applyWays]
  refine ⟨?_, ?_⟩ <;> grind [setF_keeps, foldl_n, foldl_pending, foldl_hbm, foldlP_n, foldlP_pending, foldlP_hbm]

@[simp] theorem afterReset_keeps (s : State) (power : Bool) :
    (afterReset s power).n = s.n ∧ (afterReset s power).pending = s.pending := by
  simp only [afterReset]
  refine ⟨?_, ?_⟩ <;> grind []

@[simp] theorem hkBoot_keeps (s : State) :
    (hkBoot s).n = s.n ∧ (hkBoot s).pending = s.pending := by
  simp only [hkBoot]
  refine ⟨?_, ?_⟩ <;> grind [hkStart_keeps, foldl_n, foldl_pending, foldl_hbm, foldlP_n, foldlP_pending, foldlP_hbm, forSlates_n, forSlates_pending, forSlates_hbm]

@[simp] theorem modChain_keeps (s : State) (f : Chain → Chain) :
    (modChain s f).n = s.n ∧ (modChain s f).pending = s.pending := by
  simp only [modChain]
  (repeat' split) <;> simp []

@[simp] theorem applyAddress_keeps (s : State) :
    (applyAddress s).n = s.n ∧ (applyAddress s).pending = s.pending := by
  simp only [applyAddress]
  (repeat' split) <;> simp [modChain_keeps]

@[simp] theorem firstHolders_keeps (s : State) (o : Nat) :
    (firstHolders s o).n = s.n ∧ (firstHolders s o).pending = s.pending := by
  simp only [firstHolders]
  (repeat' split) <;> simp [detect_keeps, putOwner_keeps, takeAreas_keeps]

@[simp] theorem makeBootstrap_keeps (s : State) :
    (makeBootstrap s).n = s.n ∧ (makeBootstrap s).pending = s.pending := by
  simp only [makeBootstrap]
  (repeat' split) <;> simp [addQueue_keeps, foldl_n, foldl_pending, foldl_hbm, foldlP_n, foldlP_pending, foldlP_hbm]

@[simp] theorem restoreTables_keeps (s : State) :
    (restoreTables s).n = s.n ∧ (restoreTables s).pending = s.pending := by
  simp only [restoreTables]
  (repeat' split) <;> simp [applyTables_keeps, foldl_n, foldl_pending, foldl_hbm, foldlP_n, foldlP_pending, foldlP_hbm]

@[simp] theorem recoverStep2_keeps (s : State) :
    (recoverStep2 s).n = s.n ∧ (recoverStep2 s).pending = s.pending := by
  simp only [recoverStep2]
  refine ⟨?_, ?_⟩ <;> grind [applyWays_keeps, hkBoot_keeps, applyAddress_keeps, firstHolders_keeps, makeBootstrap_keeps, forSlates_n, forSlates_pending, forSlates_hbm]

@[simp] theorem unitRestart_keeps (s : State) :
    (unitRestart s).n = s.n ∧ (unitRestart s).pending = s.pending := by
  simp only [unitRestart]
  refine ⟨?_, ?_⟩ <;> grind [keepStat_keeps, afterReset_keeps, restoreTables_keeps, recoverStep2_keeps, forSlates_n, forSlates_pending, forSlates_hbm]

@[simp] theorem readyFrom_keeps (s : State) (sl : Nat) :
    (readyFrom s sl).n = s.n ∧ (readyFrom s sl).pending = s.pending := by
  unfold readyFrom
  split
  · exact ⟨rfl, rfl⟩
  · extract_lets base0 base mc s1 s2 s3
    have h1 : s1.n = s.n ∧ s1.pending = s.pending := by simp only [s1]; split <;> simp
    clear_value s1
    have h2 : s2.n = s.n ∧ s2.pending = s.pending := by simp only [s2]; split <;> simp [h1]
    clear_value s2
    have h3 : s3.n = s.n ∧ s3.pending = s.pending := by simp [s3, h2, foldl_n, foldl_pending]
    clear_value s3
    rw [foldl_n, foldl_pending]
    · exact h3
    all_goals intro t a; (repeat' split) <;> simp

@[simp] theorem readyAll_keeps (s : State) :
    (readyAll s).n = s.n ∧ (readyAll s).pending = s.pending := by
  simp only [readyAll]
  refine ⟨?_, ?_⟩ <;> grind [readyFrom_keeps, forSlates_n, forSlates_pending, forSlates_hbm]

@[simp] theorem startReady_keeps (s : State) :
    (startReady s).n = s.n ∧ (startReady s).pending = s.pending := by
  simp only [startReady]
  (repeat' split) <;> simp [readyAll_keeps]

@[simp] theorem tryReady_keeps (s : State) :
    (tryReady s).n = s.n ∧ (tryReady s).pending = s.pending := by
  simp only [tryReady]
  (repeat' split) <;> simp [startReady_keeps]

@[simp] theorem sendPause_keeps (s : State) (sl : Nat) :
    (sendPause s sl).n = s.n ∧ (sendPause s sl).pending = s.pending := by
  simp only [sendPause]
  (repeat' split) <;> simp []

@[simp] theorem flushNet_keeps (s : State) (sl : Nat) (sub : Nat) (cnt : Fld) (p : Frame → Bool) :
    (flushNet s sl sub cnt p).n = s.n ∧ (flushNet s sl sub cnt p).pending = s.pending := by
  simp only [flushNet]
  refine ⟨?_, ?_⟩ <;> grind [bump_keeps, settleCopy_keeps, dropCopy_keeps, unqueue_keeps, foldl_n, foldl_pending, foldl_hbm, foldlP_n, foldlP_pending, foldlP_hbm]

@[simp] theorem subDown_keeps (s : State) (sl : Nat) (sub : Nat) :
    (subDown s sl sub).n = s.n ∧ (subDown s sl sub).pending = s.pending := by
  simp only [subDown]
  (repeat' split) <;> simp [setF_keeps, openShadow_keeps, detect_keeps, flushNet_keeps]

@[simp] theorem portDown_keeps (s : State) (sl : Nat) :
    (portDown s sl).n = s.n ∧ (portDown s sl).pending = s.pending := by
  simp only [portDown]
  (repeat' split) <;> simp [subDown_keeps, foldl_n, foldl_pending, foldl_hbm, foldlP_n, foldlP_pending, foldlP_hbm]

@[simp] theorem holdOver_keeps (s : State) (sl : Nat) :
    (holdOver s sl).n = s.n ∧ (holdOver s sl).pending = s.pending := by
  simp only [holdOver]
  (repeat' split) <;> simp [setF_keeps]

@[simp] theorem sendUp_keeps (s : State) (f : ChainFrame) :
    (sendUp s f).n = s.n ∧ (sendUp s f).pending = s.pending := by
  simp only [sendUp]
  (repeat' split) <;> simp [modChain_keeps]

@[simp] theorem sendDn_keeps (s : State) (f : ChainFrame) :
    (sendDn s f).n = s.n ∧ (sendDn s f).pending = s.pending := by
  simp only [sendDn]
  (repeat' split) <;> simp [modChain_keeps]

@[simp] theorem chainChange_keeps (s : State) :
    (chainChange s).n = s.n ∧ (chainChange s).pending = s.pending := by
  simp only [chainChange]
  (repeat' split) <;> simp [modChain_keeps, sendUp_keeps]

@[simp] theorem changeAddress_keeps (s : State) :
    (changeAddress s).n = s.n ∧ (changeAddress s).pending = s.pending := by
  simp only [changeAddress]
  (repeat' split) <;> simp [raise_keeps, applyAddress_keeps, startReady_keeps]

@[simp] theorem modLease_keeps (s : State) (f : Lease → Lease) :
    (modLease s f).n = s.n ∧ (modLease s f).pending = s.pending := by
  simp only [modLease]
  (repeat' split) <;> simp []

@[simp] theorem registerOn_keeps (s : State) (ms : List Nat) (k : Option ResvKey) :
    (registerOn s ms k).n = s.n ∧ (registerOn s ms k).pending = s.pending := by
  simp only [registerOn]
  (repeat' split) <;> simp [putMember_keeps, foldl_n, foldl_pending, foldl_hbm, foldlP_n, foldlP_pending, foldlP_hbm]

@[simp] theorem witnessAuto_keeps (s : State) :
    (witnessAuto s).n = s.n ∧ (witnessAuto s).pending = s.pending := by
  simp only [witnessAuto]
  (repeat' split) <;> simp [modLease_keeps]

@[simp] theorem lapse_keeps (s : State) :
    (lapse s).n = s.n ∧ (lapse s).pending = s.pending := by
  simp only [lapse]
  (repeat' split) <;> simp [bump_keeps, unitRestart_keeps, modLease_keeps]

@[simp] theorem unregister_keeps (s : State) :
    (unregister s).n = s.n ∧ (unregister s).pending = s.pending := by
  simp only [unregister]
  (repeat' split) <;> simp [bump_keeps, raise_keeps, modLease_keeps, registerOn_keeps]

@[simp] theorem finishRelease_keeps (s : State) :
    (finishRelease s).n = s.n ∧ (finishRelease s).pending = s.pending := by
  simp only [finishRelease]
  (repeat' split) <;> simp [unitRestart_keeps, unregister_keeps]

@[simp] theorem startRelease_keeps (s : State) :
    (startRelease s).n = s.n ∧ (startRelease s).pending = s.pending := by
  simp only [startRelease]
  (repeat' split) <;> simp [modLease_keeps]

@[simp] theorem excludePartner_keeps (s : State) :
    (excludePartner s).n = s.n ∧ (excludePartner s).pending = s.pending := by
  simp only [excludePartner]
  (repeat' split) <;> simp [installHolders_keeps, modLease_keeps, foldl_n, foldl_pending, foldl_hbm, foldlP_n, foldlP_pending, foldlP_hbm]

@[simp] theorem roundWon_keeps (s : State) (r : Round) (won : List Nat) :
    (roundWon s r won).n = s.n ∧ (roundWon s r won).pending = s.pending := by
  simp only [roundWon]
  (repeat' split) <;> simp [setF_keeps, bump_keeps, addTable_keeps, modLease_keeps, registerOn_keeps, excludePartner_keeps]

@[simp] theorem noteViews_keeps (s : State) (views : List WitnessView) :
    (noteViews s views).n = s.n ∧ (noteViews s views).pending = s.pending := by
  simp only [noteViews]
  (repeat' split) <;> simp [modLease_keeps, foldl_n, foldl_pending, foldl_hbm, foldlP_n, foldlP_pending, foldlP_hbm]

@[simp] theorem checkExcluded_keeps (s : State) :
    (checkExcluded s).n = s.n ∧ (checkExcluded s).pending = s.pending := by
  simp only [checkExcluded]
  (repeat' split) <;> simp [raise_keeps, modLease_keeps]

@[simp] theorem acquire_keeps (s : State) (answers : List (Nat × WitnessAnswer)) :
    (acquire s answers).n = s.n ∧ (acquire s answers).pending = s.pending := by
  simp only [acquire]
  (repeat' split) <;> simp [bump_keeps, raise_keeps, tryReady_keeps, modLease_keeps, registerOn_keeps]

@[simp] theorem standBy_keeps (s : State) (k : ResvKey) :
    (standBy s k).n = s.n ∧ (standBy s k).pending = s.pending := by
  simp only [standBy]
  (repeat' split) <;> simp [modLease_keeps, registerOn_keeps]

@[simp] theorem pollWitnesses_keeps (s : State) (views : List WitnessView) (answers : List (Nat × WitnessAnswer)) :
    (pollWitnesses s views answers).n = s.n ∧ (pollWitnesses s views answers).pending = s.pending := by
  simp only [pollWitnesses]
  (repeat' split) <;> simp [noteViews_keeps, checkExcluded_keeps, acquire_keeps, standBy_keeps]

@[simp] theorem takeAddress_keeps (s : State) (chain : Nat) (pos : Option Nat) :
    (takeAddress s chain pos).n = s.n ∧ (takeAddress s chain pos).pending = s.pending := by
  simp only [takeAddress]
  (repeat' split) <;> simp [addTable_keeps, changeAddress_keeps]

@[simp] theorem noteEnum_keeps (s : State) (e : BitVec 16) :
    (noteEnum s e).n = s.n ∧ (noteEnum s e).pending = s.pending := by
  simp only [noteEnum]
  (repeat' split) <;> simp [modChain_keeps]

@[simp] theorem censusClaim_keeps (s : State) (c : CensusBody) :
    (censusClaim s c).1.n = s.n ∧ (censusClaim s c).1.pending = s.pending := by
  simp only [censusClaim]
  (repeat' split) <;> simp [detect_keeps, modChain_keeps]

@[simp] theorem assignSelf_keeps (s : State) (a : AssignBody) :
    (assignSelf s a).1.n = s.n ∧ (assignSelf s a).1.pending = s.pending := by
  simp only [assignSelf]
  (repeat' split) <;> simp [detect_keeps, takeAddress_keeps]

@[simp] theorem assignDone_keeps (s : State) (a : AssignBody) :
    (assignDone s a).n = s.n ∧ (assignDone s a).pending = s.pending := by
  simp only [assignDone]
  (repeat' split) <;> simp [setF_keeps, raise_keeps, sendDn_keeps]

@[simp] theorem headTally_keeps (s : State) (t : TallyBody) :
    (headTally s t).n = s.n ∧ (headTally s t).pending = s.pending := by
  simp only [headTally]
  (repeat' split) <;> simp [setF_keeps, assignSelf_keeps, assignDone_keeps]

@[simp] theorem censusOn_keeps (s : State) (c : CensusBody) :
    (censusOn s c).n = s.n ∧ (censusOn s c).pending = s.pending := by
  simp only [censusOn]
  (repeat' split) <;> simp [bump_keeps, sendUp_keeps, sendDn_keeps, headTally_keeps]

@[simp] theorem startEnum_keeps (s : State) :
    (startEnum s).n = s.n ∧ (startEnum s).pending = s.pending := by
  simp only [startEnum]
  (repeat' split) <;> simp [detect_keeps, modChain_keeps, noteEnum_keeps, censusClaim_keeps, censusOn_keeps]

@[simp] theorem chainAssignOp_keeps (s : State) :
    (chainAssignOp s).n = s.n ∧ (chainAssignOp s).pending = s.pending := by
  simp only [chainAssignOp]
  (repeat' split) <;> simp [modChain_keeps, startEnum_keeps]

@[simp] theorem repathFrame_keeps (s : State) (id : Nat) :
    (repathFrame s id).n = s.n ∧ (repathFrame s id).pending = s.pending := by
  simp only [repathFrame]
  (repeat' split) <;> simp [bump_keeps, queueFrame_keeps, unqueue_keeps, discardFrame_keeps, foldl_n, foldl_pending, foldl_hbm, foldlP_n, foldlP_pending, foldlP_hbm]

@[simp] theorem repathMcast_keeps (s : State) (id : Nat) :
    (repathMcast s id).n = s.n ∧ (repathMcast s id).pending = s.pending := by
  unfold repathMcast
  refine ⟨?_, ?_⟩ <;> grind [joinQueue_keeps, mcastAlone_keeps, dropCopy_keeps, unqueue_keeps, foldl_n, foldl_pending, foldl_hbm, foldlP_n, foldlP_pending, foldlP_hbm]

@[simp] theorem repathAll_keeps (s : State) :
    (repathAll s).n = s.n ∧ (repathAll s).pending = s.pending := by
  simp only [repathAll]
  refine ⟨?_, ?_⟩ <;> grind [repathFrame_keeps, repathMcast_keeps, foldl_n, foldl_pending, foldl_hbm, foldlP_n, foldlP_pending, foldlP_hbm]

@[simp] theorem linkDead_keeps (s : State) (sl : Nat) (l : Nat) :
    (linkDead s sl l).n = s.n ∧ (linkDead s sl l).pending = s.pending := by
  simp only [linkDead]
  (repeat' split) <;> simp []

@[simp] theorem linkDown_keeps (s : State) (sl : Nat) (l : Nat) :
    (linkDown s sl l).n = s.n ∧ (linkDown s sl l).pending = s.pending := by
  simp only [linkDown]
  (repeat' split) <;> simp [bump_keeps, detect_keeps, linkDead_keeps]

@[simp] theorem latchC4_keeps (s : State) (sl : Nat) (e : Nat) (inj : Bool) :
    (latchC4 s sl e inj).n = s.n ∧ (latchC4 s sl e inj).pending = s.pending := by
  simp only [latchC4]
  (repeat' split) <;> simp [setF_keeps, raise_keeps]

@[simp] theorem unitStop_keeps (s : State) (sl : Nat) (e : Nat) (inj : Bool) :
    (unitStop s sl e inj).n = s.n ∧ (unitStop s sl e inj).pending = s.pending := by
  unfold unitStop
  split
  · exact ⟨rfl, rfl⟩
  · extract_lets t u
    have hu : u.n = s.n ∧ u.pending = s.pending := by
      have ht : t.n = s.n ∧ t.pending = s.pending := by simp only [t, latchC4_keeps, and_self]
      simp only [u]
      split
      · simp only [unregister_keeps, ht, and_self]
      · exact ht
    clear_value u
    exact hu

@[simp] theorem dropSlate_keeps (s : State) (x : Nat) :
    (dropSlate s x).n = s.n ∧ (dropSlate s x).pending = s.pending := by
  simp only [dropSlate]
  refine ⟨?_, ?_⟩ <;> grind [bump_keeps, settleFrame_keeps, discardFrame_keeps, foldl_n, foldl_pending, foldl_hbm, foldlP_n, foldlP_pending, foldlP_hbm]

@[simp] theorem lostOwner_keeps (s : State) (x : Nat) :
    (lostOwner s x).n = s.n ∧ (lostOwner s x).pending = s.pending := by
  simp only [lostOwner]
  (repeat' split) <;> simp [putOwner_keeps, trimRecs_keeps, confirmRec_keeps, foldl_n, foldl_pending, foldl_hbm, foldlP_n, foldlP_pending, foldlP_hbm]

@[simp] theorem reappend_keeps (s : State) (y : Nat) (c : Course) :
    (reappend s y c).n = s.n ∧ (reappend s y c).pending = s.pending := by
  unfold reappend
  refine ⟨?_, ?_⟩ <;> grind [appendTo_keeps, foldl_n, foldl_pending, foldl_hbm, foldlP_n, foldlP_pending, foldlP_hbm]

@[simp] theorem resolveLost_keeps (s : State) (x : Nat) (y : Nat) (k : Nat) :
    (resolveLost s x y k).n = s.n ∧ (resolveLost s x y k).pending = s.pending := by
  simp only [resolveLost]
  (repeat' split) <;> simp [modCourse_keeps, trimRecs_keeps, dropCmds_keeps, reappend_keeps, foldl_n, foldl_pending, foldl_hbm, foldlP_n, foldlP_pending, foldlP_hbm]

@[simp] theorem resolveTundish_keeps (s : State) (x : Nat) (y : Nat) :
    (resolveTundish s x y).n = s.n ∧ (resolveTundish s x y).pending = s.pending := by
  simp only [resolveTundish]
  (repeat' split) <;> simp [closeRuns_keeps, reappend_keeps, resolveLost_keeps, foldl_n, foldl_pending, foldl_hbm, foldlP_n, foldlP_pending, foldlP_hbm]

@[simp] theorem skipUcn_keeps (s : State) (x : Nat) (drawn : List Nat) :
    (skipUcn s x drawn).n = s.n ∧ (skipUcn s x drawn).pending = s.pending := by
  simp only [skipUcn]
  refine ⟨?_, ?_⟩ <;> grind [drainUcn_keeps, foldl_n, foldl_pending, foldl_hbm, foldlP_n, foldlP_pending, foldlP_hbm]

@[simp] theorem packLost_keeps (x0 : Nat) (x1 : State) (x2 : Nat) :
    (packLost x0 x1 x2).n = x1.n ∧ (packLost x0 x1 x2).pending = x1.pending := by
  induction x0 generalizing x1 x2 with
  | zero => simp [packLost]
  | succ k ih =>
    simp only [packLost]
    refine ⟨?_, ?_⟩ <;> grind [packRecs_keeps]

@[simp] theorem takeNodes_keeps (s : State) (x : Nat) (y : Nat) :
    (takeNodes s x y).n = s.n ∧ (takeNodes s x y).pending = s.pending := by
  simp only [takeNodes]
  (repeat' split) <;> simp [startRead_keeps, foldl_n, foldl_pending, foldl_hbm, foldlP_n, foldlP_pending, foldlP_hbm]

@[simp] theorem loseSlate_keeps (s : State) (x : Nat) (y : Nat) :
    (loseSlate s x y).n = s.n ∧ (loseSlate s x y).pending = s.pending := by
  simp only [loseSlate]
  (repeat' split) <;> simp [raise_keeps, detect_keeps, refreshHolders_keeps, holderLost_keeps, portDown_keeps, holdOver_keeps, repathAll_keeps, linkDown_keeps, dropSlate_keeps, lostOwner_keeps, resolveTundish_keeps, skipUcn_keeps, packLost_keeps, takeNodes_keeps, foldl_n, foldl_pending, foldl_hbm, foldlP_n, foldlP_pending, foldlP_hbm, forSlates_n, forSlates_pending, forSlates_hbm]

@[simp] theorem loseSlates_keeps (x0 : Nat) (x1 : State) (x2 : Nat) (x3 : Nat) :
    (loseSlates x0 x1 x2 x3).n = x1.n ∧ (loseSlates x0 x1 x2 x3).pending = x1.pending := by
  induction x0 generalizing x1 x2 x3 with
  | zero => simp [loseSlates]
  | succ k ih =>
    simp only [loseSlates]
    refine ⟨?_, ?_⟩ <;> grind [detect_keeps, unitStop_keeps, loseSlate_keeps]

@[simp] theorem slateLost_keeps (s : State) (x : Nat) (sl : Nat) (e : Nat) (inj : Bool) :
    (slateLost s x sl e inj).n = s.n ∧ (slateLost s x sl e inj).pending = s.pending := by
  simp only [slateLost]
  (repeat' split) <;> simp [unitStop_keeps, loseSlates_keeps]

@[simp] theorem detectFull_keeps (s : State) (sl : Nat) (e : Nat) (arg : Nat) (detail : List Word) :
    (detectFull s sl e arg detail).n = s.n ∧ (detectFull s sl e arg detail).pending = s.pending := by
  simp only [detectFull]
  (repeat' split) <;> simp [detectAt_keeps, unitStop_keeps, slateLost_keeps]

@[simp] theorem checkReach_keeps (s : State) (sl : Nat) :
    (checkReach s sl).n = s.n ∧ (checkReach s sl).pending = s.pending := by
  simp only [checkReach]
  refine ⟨?_, ?_⟩ <;> grind [detectFull_keeps, foldl_n, foldl_pending, foldl_hbm, foldlP_n, foldlP_pending, foldlP_hbm]

@[simp] theorem zeroHeaps_keeps (s : State) :
    (zeroHeaps s).n = s.n ∧ (zeroHeaps s).pending = s.pending := by
  simp only [zeroHeaps]
  (repeat' split) <;> simp []

@[simp] theorem dropDataKey_keeps (s : State) :
    (dropDataKey s).n = s.n ∧ (dropDataKey s).pending = s.pending := by
  simp only [dropDataKey]
  (repeat' split) <;> simp [zeroHeaps_keeps]

@[simp] theorem secureStart_keeps (s : State) (op : Nat) :
    (secureStart s op).n = s.n ∧ (secureStart s op).pending = s.pending := by
  simp only [secureStart]
  (repeat' split) <;> simp []

@[simp] theorem secureEnd_keeps (s : State) (st : Status) (len : Nat) :
    (secureEnd s st len).n = s.n ∧ (secureEnd s st len).pending = s.pending := by
  simp only [secureEnd]
  (repeat' split) <;> simp [raise_keeps]

@[simp] theorem secureOutput_keeps (s : State) (b : Block) :
    (secureOutput s b).n = s.n ∧ (secureOutput s b).pending = s.pending := by
  simp only [secureOutput]
  (repeat' split) <;> simp [homeWrite_keeps, secureEnd_keeps]

@[simp] theorem sigReject_keeps (s : State) (op : Nat) (auth : Nat) :
    (sigReject s op auth).n = s.n ∧ (sigReject s op auth).pending = s.pending := by
  simp only [sigReject]
  (repeat' split) <;> simp [detect_keeps]

@[simp] theorem secureEnrol_keeps (s : State) (x : SecureOp) (o : SecureOutcome) :
    (secureEnrol s x o).n = s.n ∧ (secureEnrol s x o).pending = s.pending := by
  simp only [secureEnrol]
  (repeat' split) <;> simp [addPlainGroup_keeps, unitStop_keeps, dropDataKey_keeps, secureEnd_keeps, sigReject_keeps]

@[simp] theorem secureProvision_keeps (s : State) (b : Block) :
    (secureProvision s b).n = s.n ∧ (secureProvision s b).pending = s.pending := by
  simp only [secureProvision]
  refine ⟨?_, ?_⟩ <;> grind [setF_keeps, secureEnd_keeps, forSlates_n, forSlates_pending, forSlates_hbm]

@[simp] theorem secureStage_keeps (s : State) (b : Block) (o : SecureOutcome) :
    (secureStage s b o).n = s.n ∧ (secureStage s b o).pending = s.pending := by
  simp only [secureStage]
  (repeat' split) <;> simp [detect_keeps, secureEnd_keeps, sigReject_keeps]

@[simp] theorem secureCommit_keeps (s : State) :
    (secureCommit s).n = s.n ∧ (secureCommit s).pending = s.pending := by
  simp only [secureCommit]
  (repeat' split) <;> simp [secureEnd_keeps]

@[simp] theorem emptySlot_keeps (s : State) (slot : Nat) :
    (emptySlot s slot).n = s.n ∧ (emptySlot s slot).pending = s.pending := by
  simp only [emptySlot]
  (repeat' split) <;> simp [detect_keeps, addPlainGroup_keeps]

@[simp] theorem putProgram_keeps (s : State) (slot : Nat) (p : Program) :
    (putProgram s slot p).n = s.n ∧ (putProgram s slot p).pending = s.pending := by
  simp only [putProgram]
  (repeat' split) <;> simp [addPlainGroup_keeps]

@[simp] theorem loadLibrary_keeps (s : State) (skip : List Nat) :
    (loadLibrary s skip).n = s.n ∧ (loadLibrary s skip).pending = s.pending := by
  simp only [loadLibrary]
  refine ⟨?_, ?_⟩ <;> grind [putProgram_keeps, foldl_n, foldl_pending, foldl_hbm, foldlP_n, foldlP_pending, foldlP_hbm]

@[simp] theorem loadStore_keeps (s : State) (bad : List Nat) :
    (loadStore s bad).n = s.n ∧ (loadStore s bad).pending = s.pending := by
  simp only [loadStore]
  (repeat' split) <;> simp [emptySlot_keeps, loadLibrary_keeps, foldl_n, foldl_pending, foldl_hbm, foldlP_n, foldlP_pending, foldlP_hbm]

@[simp] theorem bootUp_keeps (s : State) (b : BootIn) :
    (bootUp s b).n = s.n ∧ (bootUp s b).pending = s.pending := by
  simp only [bootUp]
  refine ⟨?_, ?_⟩ <;> grind [takeFree_keeps, raise_keeps, firstHolders_keeps, restoreTables_keeps, recoverStep2_keeps, loadStore_keeps, forSlates_n, forSlates_pending, forSlates_hbm]

@[simp] theorem powerOff_keeps (s : State) :
    (powerOff s).n = s.n ∧ (powerOff s).pending = s.pending := by
  simp only [powerOff]
  (repeat' split) <;> simp [afterReset_keeps]

@[simp] theorem police_keeps (s : State) (sl : Nat) (c : Nat) (bytes : Nat) (t : Nat) :
    (police s sl c bytes t).1.n = s.n ∧ (police s sl c bytes t).1.pending = s.pending := by
  simp only [police]
  (repeat' split) <;> simp [bump_keeps, detect_keeps]

@[simp] theorem netArrival_keeps (s : State) (f : FrameIn) :
    (netArrival s f).n = s.n ∧ (netArrival s f).pending = s.pending := by
  simp only [netArrival]
  (repeat' split) <;> simp [bump_keeps, enterFrame_keeps, detectAt_keeps, countSrc_keeps, police_keeps]

@[simp] theorem fabricArrival_keeps (s : State) (f : FrameIn) :
    (fabricArrival s f).n = s.n ∧ (fabricArrival s f).pending = s.pending := by
  simp only [fabricArrival]
  (repeat' split) <;> simp [bump_keeps, bufferFrame_keeps, mcastArrive_keeps, detectAt_keeps, repathFrame_keeps]

@[simp] theorem startFrame_keeps (s : State) (sl : Nat) (p : Nat) (sub : Nat) (c : Nat) (t : Nat) (priv : Bool) (f : Frame) :
    (startFrame s sl p sub c t priv f).n = s.n ∧ (startFrame s sl p sub c t priv f).pending = s.pending := by
  simp only [startFrame]
  (repeat' split) <;> simp [putOut_keeps]

@[simp] theorem crossLink_keeps (s : State) (id : Nat) (l : Nat) (f : Frame) :
    (crossLink s id l f).n = s.n ∧ (crossLink s id l f).pending = s.pending := by
  simp only [crossLink]
  (repeat' split) <;> simp [updatePause_keeps, updatePeak_keeps, queueFrame_keeps, unstall_keeps]

@[simp] theorem leaveBy_keeps (s : State) (sl : Nat) (p : Nat) (sub : Nat) (id : Nat) (f : Frame) :
    (leaveBy s sl p sub id f).n = s.n ∧ (leaveBy s sl p sub id f).pending = s.pending := by
  simp only [leaveBy]
  (repeat' split) <;> simp [settleCopy_keeps, mcastArrive_keeps, dropCopy_keeps, countSrc_keeps, crossLink_keeps]

@[simp] theorem accrueNet_keeps (s : State) (sl : Nat) (t : Nat) :
    (accrueNet s sl t).n = s.n ∧ (accrueNet s sl t).pending = s.pending := by
  simp only [accrueNet]
  refine ⟨?_, ?_⟩ <;> grind [putOut_keeps, foldl_n, foldl_pending, foldl_hbm, foldlP_n, foldlP_pending, foldlP_hbm]

@[simp] theorem peerPauseOver_keeps (s : State) (sl : Nat) (c : Nat) :
    (peerPauseOver s sl c).n = s.n ∧ (peerPauseOver s sl c).pending = s.pending := by
  simp only [peerPauseOver]
  (repeat' split) <;> simp [detectAt_keeps, flushNet_keeps, foldl_n, foldl_pending, foldl_hbm, foldlP_n, foldlP_pending, foldlP_hbm]

@[simp] theorem linkFails_keeps (s : State) (sl : Nat) (l : Nat) :
    (linkFails s sl l).n = s.n ∧ (linkFails s sl l).pending = s.pending := by
  simp only [linkFails]
  (repeat' split) <;> simp [repathAll_keeps, linkDown_keeps, checkReach_keeps]

@[simp] theorem queueOp_keeps (s : State) (sl : Nat) (i : Nat) (op : Nat) :
    (queueOp s sl i op).1.n = s.n ∧ (queueOp s sl i op).1.pending = s.pending := by
  simp only [queueOp]
  (repeat' split) <;> simp [addQueue_keeps, removeQueue_keeps, dropBootstrap_keeps, resetQueue_keeps, addTableAt_keeps, refill_keeps]

@[simp] theorem dropTag_keeps (s : State) (hq : Nat) (t : Nat) (tg : Tag) :
    (dropTag s hq t tg).n = s.n ∧ (dropTag s hq t tg).pending = s.pending := by
  simp only [dropTag]
  (repeat' split) <;> simp [releaseTag_keeps, stopJob_keeps, freeBufs_keeps]

@[simp] theorem loseContext_keeps (s : State) (hq : Nat) :
    (loseContext s hq).n = s.n ∧ (loseContext s hq).pending = s.pending := by
  simp only [loseContext]
  (repeat' split) <;> simp [removeQueue_keeps, addTableAt_keeps, refill_keeps, dropTag_keeps, foldl_n, foldl_pending, foldl_hbm, foldlP_n, foldlP_pending, foldlP_hbm]

@[simp] theorem evictWay_keeps (s : State) (sl : Nat) (cache : Nat) (eng : Nat) (way : Nat) :
    (evictWay s sl cache eng way).n = s.n ∧ (evictWay s sl cache eng way).pending = s.pending := by
  simp only [evictWay]
  (repeat' split) <;> simp [scFlushWay_keeps]

@[simp] theorem bypassCache_keeps (s : State) (sl : Nat) (cache : Nat) (eng : Nat) :
    (bypassCache s sl cache eng).n = s.n ∧ (bypassCache s sl cache eng).pending = s.pending := by
  simp only [bypassCache]
  (repeat' split) <;> simp [setF_keeps, dcFlushEngine_keeps, scSweep_keeps]

@[simp] theorem disableWay_keeps (s : State) (sl : Nat) (cache : Nat) (eng : Nat) (way : Nat) :
    (disableWay s sl cache eng way).n = s.n ∧ (disableWay s sl cache eng way).pending = s.pending := by
  simp only [disableWay]
  (repeat' split) <;> simp [setF_keeps, detect_keeps, addTable_keeps, evictWay_keeps, bypassCache_keeps]

@[simp] theorem wayError_keeps (s : State) (sl : Nat) (cache : Nat) (eng : Nat) (way : Nat) (tag : Bool) :
    (wayError s sl cache eng way tag).n = s.n ∧ (wayError s sl cache eng way tag).pending = s.pending := by
  simp only [wayError]
  (repeat' split) <;> simp [disableWay_keeps]

@[simp] theorem cellUncorr_keeps (s : State) (sl : Nat) (id : Nat) :
    (cellUncorr s sl id).n = s.n ∧ (cellUncorr s sl id).pending = s.pending := by
  simp only [cellUncorr]
  (repeat' split) <;> simp [bump_keeps, mcastArrive_keeps, admitInternal_keeps, freeFrame_keeps, unqueue_keeps, discardFrame_keeps, foldl_n, foldl_pending, foldl_hbm, foldlP_n, foldlP_pending, foldlP_hbm]

@[simp] theorem stateErr_keeps (s : State) (sl : Nat) (p : Nat) (sub : Nat) :
    (stateErr s sl p sub).n = s.n ∧ (stateErr s sl p sub).pending = s.pending := by
  simp only [stateErr]
  (repeat' split) <;> simp [putOut_keeps, foldl_n, foldl_pending, foldl_hbm, foldlP_n, foldlP_pending, foldlP_hbm]

@[simp] theorem poisonWords_keeps (s : State) (sl : Nat) (a : Nat) (n : Nat) :
    (poisonWords s sl a n).n = s.n ∧ (poisonWords s sl a n).pending = s.pending := by
  simp only [poisonWords]
  (repeat' split) <;> simp [bump_keeps]

@[simp] theorem react_keeps (s : State) (sl : Nat) (e : Nat) (d : List Word) :
    (react s sl e d).n = s.n ∧ (react s sl e d).pending = s.pending := by
  unfold react
  extract_lets x extra
  split
  · split
    · split <;> simp
    · exact ⟨rfl, rfl⟩
  · (repeat' split) <;> simp

@[simp] theorem realHit_keeps (s : State) (sl : Nat) (e : Nat) (detail : List Word) :
    (realHit s sl e detail).n = s.n ∧ (realHit s sl e detail).pending = s.pending := by
  simp only [realHit]
  (repeat' split) <;> simp [detectAt_keeps, detectFull_keeps, react_keeps]

@[simp] theorem injectDet_keeps (s : State) (sl : Nat) (sp : Nat) (k : Nat) :
    (injectDet s sl sp k).n = s.n ∧ (injectDet s sl sp k).pending = s.pending := by
  simp only [injectDet]
  (repeat' split) <;> simp [recordDet_keeps, unitStop_keeps, slateLost_keeps]

@[simp] theorem coincide_keeps (s : State) (sl : Nat) (sp : Nat) (k : Nat) (src : Nat) (detail : List Word) :
    (coincide s sl sp k src detail).n = s.n ∧ (coincide s sl sp k src detail).pending = s.pending := by
  simp only [coincide]
  (repeat' split) <;> simp [setF_keeps, realHit_keeps, injectDet_keeps]

@[simp] theorem reEvaluate_keeps (s : State) (sh : Shadow) :
    (reEvaluate s sh).n = s.n ∧ (reEvaluate s sh).pending = s.pending := by
  simp only [reEvaluate]
  refine ⟨?_, ?_⟩ <;> grind [peerPauseOver_keeps, foldl_n, foldl_pending, foldl_hbm, foldlP_n, foldlP_pending, foldlP_hbm]

@[simp] theorem queueRebuild_keeps (s : State) (l : Layout) :
    (queueRebuild s l).n = s.n ∧ (queueRebuild s l).pending = s.pending := by
  simp only [queueRebuild]
  refine ⟨?_, ?_⟩ <;> grind [queueCourse_keeps, foldl_n, foldl_pending, foldl_hbm, foldlP_n, foldlP_pending, foldlP_hbm]

@[simp] theorem listLost_keeps (s : State) (r : LostRange) :
    (listLost s r).n = s.n ∧ (listLost s r).pending = s.pending := by
  simp only [listLost]
  (repeat' split) <;> simp [setF_keeps, detect_keeps]

@[simp] theorem markLost_keeps (s : State) (v : Nat) (lba : Nat) (pgn : Nat) :
    (markLost s v lba pgn).1.n = s.n ∧ (markLost s v lba pgn).1.pending = s.pending := by
  simp only [markLost]
  (repeat' split) <;> simp [addMset_keeps]

@[simp] theorem loseLeaf_keeps (s : State) (v : Nat) (leaf : Nat) :
    (loseLeaf s v leaf).1.n = s.n ∧ (loseLeaf s v leaf).1.pending = s.pending := by
  simp only [loseLeaf]
  refine ⟨?_, ?_⟩ <;> grind [noteCached_keeps, changeEntry_keeps, foldl_n, foldl_pending, foldl_hbm, foldlP_n, foldlP_pending, foldlP_hbm]

@[simp] theorem writeBackAll_keeps (s : State) :
    (writeBackAll s).n = s.n ∧ (writeBackAll s).pending = s.pending := by
  simp only [writeBackAll]
  (repeat' split) <;> simp [writeBack_keeps, foldl_n, foldl_pending, foldl_hbm, foldlP_n, foldlP_pending, foldlP_hbm]

@[simp] theorem moveSummary_keeps (s : State) (l : Layout) (k : Nat) (i : Nat) (o : Nat) (second : Nat) :
    (moveSummary s l k i o second).n = s.n ∧ (moveSummary s l k i o second).pending = s.pending := by
  simp only [moveSummary]
  (repeat' split) <;> simp [modCourse_keeps, retireIfDead_keeps, appendTo_keeps]

@[simp] theorem loseGrain_keeps (s : State) (l : Layout) (k : Nat) (i : Nat) (g : Grain) :
    (loseGrain s l k i g).1.n = s.n ∧ (loseGrain s l k i g).1.pending = s.pending := by
  simp only [loseGrain]
  (repeat' split) <;> simp [writeBack_keeps, markLost_keeps, loseLeaf_keeps, writeBackAll_keeps, moveSummary_keeps]

@[simp] theorem loseColumns_keeps (s : State) (l : Layout) (k : Nat) (cols : List (Nat × List Nat)) :
    (loseColumns s l k cols).n = s.n ∧ (loseColumns s l k cols).pending = s.pending := by
  simp only [loseColumns]
  (repeat' split) <;> simp [listLost_keeps, loseGrain_keeps, foldl_n, foldl_pending, foldl_hbm, foldlP_n, foldlP_pending, foldlP_hbm]

@[simp] theorem backInService_keeps (s : State) (m : Nat) :
    (backInService s m).n = s.n ∧ (backInService s m).pending = s.pending := by
  simp only [backInService]
  (repeat' split) <;> simp [putMember_keeps, addTableGroup_keeps]

@[simp] theorem settleReplaced_keeps (s : State) (l : Layout) :
    (settleReplaced s l).n = s.n ∧ (settleReplaced s l).pending = s.pending := by
  simp only [settleReplaced]
  refine ⟨?_, ?_⟩ <;> grind [backInService_keeps, foldl_n, foldl_pending, foldl_hbm, foldlP_n, foldlP_pending, foldlP_hbm]

@[simp] theorem leaveRebuild_keeps (s : State) (l : Layout) (sl : Nat) (k : Nat) :
    (leaveRebuild s l sl k).n = s.n ∧ (leaveRebuild s l sl k).pending = s.pending := by
  simp only [leaveRebuild]
  (repeat' split) <;> simp [raise_keeps, modCourse_keeps, settleReplaced_keeps]

@[simp] theorem allocMissing_keeps (s : State) (l : Layout) (sl : Nat) (k : Nat) :
    (allocMissing s l sl k).n = s.n ∧ (allocMissing s l sl k).pending = s.pending := by
  unfold allocMissing
  refine foldl_kept _ _ _ fun t p => ?_
  unfold Kept
  grind [allocSpare_keeps, modCourse_keeps, detect_keeps]

@[simp] theorem writeMissing_keeps (s : State) (l : Layout) (sl : Nat) (k : Nat) (bad : List (Nat × Nat)) :
    (writeMissing s l sl k bad).n = s.n ∧ (writeMissing s l sl k bad).pending = s.pending := by
  simp only [writeMissing]
  refine ⟨?_, ?_⟩ <;> grind [bump_keeps, modCourse_keeps, issueCmd_keeps, writeStrip_keeps, loseColumns_keeps, foldl_n, foldl_pending, foldl_hbm, foldlP_n, foldlP_pending, foldlP_hbm]

@[simp] theorem stepRebuild_keeps (s : State) (l : Layout) (id : Nat) :
    (stepRebuild s l id).n = s.n ∧ (stepRebuild s l id).pending = s.pending := by
  simp only [stepRebuild]
  (repeat' split) <;> simp [modCourse_keeps, advanceRead_keeps, writeMissing_keeps]

@[simp] theorem spareWritten_keeps (s : State) (m : Nat) (k : Nat) (pos : Nat) :
    (spareWritten s m k pos).n = s.n ∧ (spareWritten s m k pos).pending = s.pending := by
  simp only [spareWritten]
  (repeat' split) <;> simp [bump_keeps, modCourse_keeps, validSpare_keeps]

@[simp] theorem startCopyBack_keeps (s : State) (m : Nat) (j : Nat) :
    (startCopyBack s m j).n = s.n ∧ (startCopyBack s m j).pending = s.pending := by
  simp only [startCopyBack]
  (repeat' split) <;> simp [issueCmd_keeps]

@[simp] theorem finishCopyBack_keeps (s : State) (l : Layout) (m : Nat) (cb : CopyBack) :
    (finishCopyBack s l m cb).n = s.n ∧ (finishCopyBack s l m cb).pending = s.pending := by
  simp only [finishCopyBack]
  (repeat' split) <;> simp [raise_keeps, backInService_keeps]

@[simp] theorem skipSlots_keeps (s : State) (l : Layout) (m : Nat) (slot : Nat) (done : Nat) :
    (skipSlots s l m slot done).n = s.n ∧ (skipSlots s l m slot done).pending = s.pending := by
  simp only [skipSlots]
  (repeat' split) <;> simp [issueCmd_keeps, foldl_n, foldl_pending, foldl_hbm, foldlP_n, foldlP_pending, foldlP_hbm]

@[simp] theorem writeCopy_keeps (s : State) (l : Layout) (m : Nat) (slot : Nat) (k : Nat) (pos : Nat) (bad : List (Nat × Nat)) :
    (writeCopy s l m slot k pos bad).n = s.n ∧ (writeCopy s l m slot k pos bad).pending = s.pending := by
  simp only [writeCopy]
  (repeat' split) <;> simp [issueCmd_keeps, writeStrip_keeps, loseColumns_keeps, skipSlots_keeps]

@[simp] theorem stepCopyBack_keeps (s : State) (l : Layout) (id : Nat) (m : Nat) (slot : Nat) :
    (stepCopyBack s l id m slot).n = s.n ∧ (stepCopyBack s l id m slot).pending = s.pending := by
  simp only [stepCopyBack]
  (repeat' split) <;> simp [advanceRead_keeps, writeCopy_keeps]

@[simp] theorem copyWritten_keeps (s : State) (m : Nat) (slot : Nat) :
    (copyWritten s m slot).n = s.n ∧ (copyWritten s m slot).pending = s.pending := by
  simp only [copyWritten]
  (repeat' split) <;> simp [bump_keeps, addMset_keeps]

@[simp] theorem relocateGrain_keeps (s : State) (l : Layout) (sl : Nat) (k : Nat) (i : Nat) (g : Grain) (bad : List Nat) :
    (relocateGrain s l sl k i g bad).1.n = s.n ∧ (relocateGrain s l sl k i g bad).1.pending = s.pending := by
  simp only [relocateGrain]
  (repeat' split) <;> simp [noteCached_keeps, appendTo_keeps, writeBack_keeps, writeBackAll_keeps, moveSummary_keeps, loseGrain_keeps]

@[simp] theorem relocate_keeps (s : State) (l : Layout) (sl : Nat) (k : Nat) (bad : List Nat) :
    (relocate s l sl k bad).n = s.n ∧ (relocate s l sl k bad).pending = s.pending := by
  unfold relocate
  refine ⟨?_, ?_⟩ <;> grind [modCourse_keeps, listLost_keeps, relocateGrain_keeps, foldl_n, foldl_pending, foldl_hbm, foldlP_n, foldlP_pending, foldlP_hbm]

@[simp] theorem startReclaim_keeps (s : State) (l : Layout) (sl : Nat) (k : Nat) :
    (startReclaim s l sl k).n = s.n ∧ (startReclaim s l sl k).pending = s.pending := by
  simp only [startReclaim]
  (repeat' split) <;> simp [startRead_keeps, relocate_keeps]

@[simp] theorem stepReclaim_keeps (s : State) (l : Layout) (id : Nat) :
    (stepReclaim s l id).n = s.n ∧ (stepReclaim s l id).pending = s.pending := by
  simp only [stepReclaim]
  (repeat' split) <;> simp [advanceRead_keeps, relocate_keeps]

@[simp] theorem reclaimSlateStep_keeps (s : State) (l : Layout) (x : Nat) :
    (reclaimSlateStep s l x).n = s.n ∧ (reclaimSlateStep s l x).pending = s.pending := by
  simp only [reclaimSlateStep]
  (repeat' split) <;> simp [startReclaim_keeps, stepReclaim_keeps]

@[simp] theorem reclaimStep_keeps (s : State) :
    (reclaimStep s).n = s.n ∧ (reclaimStep s).pending = s.pending := by
  simp only [reclaimStep]
  (repeat' split) <;> simp [reclaimSlateStep_keeps, foldl_n, foldl_pending, foldl_hbm, foldlP_n, foldlP_pending, foldlP_hbm]

@[simp] theorem mediaError_keeps (s : State) (m : Nat) (status : Nat) (opcode : Nat) (lba : Nat) :
    (mediaError s m status opcode lba).n = s.n ∧ (mediaError s m status opcode lba).pending = s.pending := by
  simp only [mediaError]
  (repeat' split) <;> simp [bump_keeps, detect_keeps]

@[simp] theorem lbaWrite_keeps (s : State) (m : Nat) (lba : Nat) (b : Block) :
    (lbaWrite s m lba b).n = s.n ∧ (lbaWrite s m lba b).pending = s.pending := by
  simp only [lbaWrite]
  (repeat' split) <;> simp [mediaWrite_keeps]

@[simp] theorem moveData_keeps (s : State) (m : Nat) (c : DrvCmd) (h : Option Handle) (r : NvmeResult) :
    (moveData s m c h r).n = s.n ∧ (moveData s m c h r).pending = s.pending := by
  simp only [moveData]
  (repeat' split) <;> simp [bufWrite_keeps, lbaWrite_keeps, foldl_n, foldl_pending, foldl_hbm, foldlP_n, foldlP_pending, foldlP_hbm]

@[simp] theorem ticketDone_keeps (s : State) (m : Nat) (c : DrvCmd) (job : Nat) (t : Nat) (r : NvmeResult) :
    (ticketDone s m c job t r).n = s.n ∧ (ticketDone s m c job t r).pending = s.pending := by
  simp only [ticketDone]
  (repeat' split) <;> simp [modTicket_keeps, mediaError_keeps, moveData_keeps]

@[simp] theorem continueRead_keeps (s : State) (id : Nat) :
    (continueRead s id).n = s.n ∧ (continueRead s id).pending = s.pending := by
  simp only [continueRead]
  (repeat' split) <;> simp [stepRebuild_keeps, stepCopyBack_keeps, stepReclaim_keeps]

@[simp] theorem columnsDone_keeps (s : State) (m : Nat) (c : DrvCmd) (id : Nat) (pos : Nat) (col : Nat) (count : Nat) (r : NvmeResult) :
    (columnsDone s m c id pos col count r).n = s.n ∧ (columnsDone s m c id pos col count r).pending = s.pending := by
  simp only [columnsDone]
  (repeat' split) <;> simp [bump_keeps, readReturn_keeps, mediaError_keeps, continueRead_keeps]

@[simp] theorem recordAdmin_keeps (s : State) :
    (recordAdmin s).n = s.n ∧ (recordAdmin s).pending = s.pending := by
  simp only [recordAdmin]
  (repeat' split) <;> simp [addTable_keeps]

@[simp] theorem sanitizeDone_keeps (s : State) (m : Nat) (ok : Bool) :
    (sanitizeDone s m ok).n = s.n ∧ (sanitizeDone s m ok).pending = s.pending := by
  simp only [sanitizeDone]
  (repeat' split) <;> simp [declareGone_keeps, recordAdmin_keeps]

@[simp] theorem resetCmd_keeps (s : State) (m : Nat) (c : DrvCmd) :
    (resetCmd s m c).n = s.n ∧ (resetCmd s m c).pending = s.pending := by
  simp only [resetCmd]
  (repeat' split) <;> simp [takeFree_keeps, modTicket_keeps, readReturn_keeps, writeFailed_keeps, stripFail_keeps, continueRead_keeps]

@[simp] theorem seatReplacement_keeps (s : State) (m : Nat) :
    (seatReplacement s m).n = s.n ∧ (seatReplacement s m).pending = s.pending := by
  simp only [seatReplacement]
  (repeat' split) <;> simp [putMember_keeps, loseStrips_keeps]

@[simp] theorem seatMember_keeps (s : State) (m : Nat) :
    (seatMember s m).n = s.n ∧ (seatMember s m).pending = s.pending := by
  simp only [seatMember]
  (repeat' split) <;> simp [putMember_keeps, queueRebuild_keeps, settleReplaced_keeps, startCopyBack_keeps, seatReplacement_keeps]

@[simp] theorem registerMember_keeps (s : State) (m : Nat) :
    (registerMember s m).n = s.n ∧ (registerMember s m).pending = s.pending := by
  simp only [registerMember]
  (repeat' split) <;> simp [putMember_keeps]

@[simp] theorem holdOutOp_keeps (s : State) (m : Nat) (on : Bool) :
    (holdOutOp s m on).n = s.n ∧ (holdOutOp s m on).pending = s.pending := by
  simp only [holdOutOp]
  (repeat' split) <;> simp [raise_keeps, putMember_keeps, declareGone_keeps, seatMember_keeps]

@[simp] theorem reachQuorum_keeps (s : State) :
    (reachQuorum s).n = s.n ∧ (reachQuorum s).pending = s.pending := by
  unfold reachQuorum
  refine ⟨?_, ?_⟩ <;> grind [detect_keeps, putMember_keeps, loseStrips_keeps, recordFailure_keeps, foldl_n, foldl_pending, foldl_hbm, foldlP_n, foldlP_pending, foldlP_hbm]

@[simp] theorem reportTorn_keeps (s : State) (p : List Rec) (cs : List JournalCopy) :
    (reportTorn s p cs).n = s.n ∧ (reportTorn s p cs).pending = s.pending := by
  simp only [reportTorn]
  (repeat' split) <;> simp [detect_keeps, foldl_n, foldl_pending, foldl_hbm, foldlP_n, foldlP_pending, foldlP_hbm]

@[simp] theorem mergeOwner_keeps (s : State) (copies : List JournalCopy) (o : Nat) :
    (mergeOwner s copies o).n = s.n ∧ (mergeOwner s copies o).pending = s.pending := by
  simp only [mergeOwner]
  (repeat' split) <;> simp [setF_keeps, putOwner_keeps, retrim_keeps, reportTorn_keeps, foldl_n, foldl_pending, foldl_hbm, foldlP_n, foldlP_pending, foldlP_hbm]

@[simp] theorem discardCourse_keeps (s : State) (k : Nat) (c : Course) :
    (discardCourse s k c).n = s.n ∧ (discardCourse s k c).pending = s.pending := by
  simp only [discardCourse]
  (repeat' split) <;> simp [bumpSat_keeps, modCourse_keeps, trimRecs_keeps]

@[simp] theorem resolveCourses_keeps (s : State) :
    (resolveCourses s).n = s.n ∧ (resolveCourses s).pending = s.pending := by
  simp only [resolveCourses]
  refine ⟨?_, ?_⟩ <;> grind [modCourse_keeps, closeRuns_keeps, makeDurable_keeps, discardCourse_keeps, foldl_n, foldl_pending, foldl_hbm, foldlP_n, foldlP_pending, foldlP_hbm]

@[simp] theorem dropOpenGroups_keeps (s : State) (o : Nat) :
    (dropOpenGroups s o).n = s.n ∧ (dropOpenGroups s o).pending = s.pending := by
  simp only [dropOpenGroups]
  (repeat' split) <;> simp [trimRecs_keeps]

@[simp] theorem applyUcn_keeps (s : State) (x : Nat × RecBody) :
    (applyUcn s x).n = s.n ∧ (applyUcn s x).pending = s.pending := by
  simp only [applyUcn]
  (repeat' split) <;> simp [applyMset_keeps, applyGroup_keeps, makeDurable_keeps]

@[simp] theorem applyRecords_keeps (s : State) :
    (applyRecords s).n = s.n ∧ (applyRecords s).pending = s.pending := by
  simp only [applyRecords]
  (repeat' split) <;> simp [applyUcn_keeps, foldl_n, foldl_pending, foldl_hbm, foldlP_n, foldlP_pending, foldlP_hbm]

@[simp] theorem indexUpdates_keeps (s : State) :
    (indexUpdates s).n = s.n ∧ (indexUpdates s).pending = s.pending := by
  simp only [indexUpdates]
  (repeat' split) <;> simp [pendNode_keeps, foldl_n, foldl_pending, foldl_hbm, foldlP_n, foldlP_pending, foldlP_hbm]

@[simp] theorem settleCuts_keeps (s : State) :
    (settleCuts s).n = s.n ∧ (settleCuts s).pending = s.pending := by
  unfold settleCuts
  refine ⟨?_, ?_⟩ <;> grind [cutEntries_keeps, foldl_n, foldl_pending, foldl_hbm, foldlP_n, foldlP_pending, foldlP_hbm]

@[simp] theorem revertMember_keeps (s : State) (m : Nat) :
    (revertMember s m).n = s.n ∧ (revertMember s m).pending = s.pending := by
  simp only [revertMember]
  (repeat' split) <;> simp [putMember_keeps]

@[simp] theorem restoreKeys_keeps (s : State) (copies : List JournalCopy) :
    (restoreKeys s copies).n = s.n ∧ (restoreKeys s copies).pending = s.pending := by
  simp only [restoreKeys]
  (repeat' split) <;> simp [addQueue_keeps, setKey_keeps, foldl_n, foldl_pending, foldl_hbm, foldlP_n, foldlP_pending, foldlP_hbm]

@[simp] theorem recordFailures_keeps (s : State) :
    (recordFailures s).n = s.n ∧ (recordFailures s).pending = s.pending := by
  unfold recordFailures
  refine ⟨?_, ?_⟩ <;> grind [writeFailure_keeps, seatMember_keeps, foldl_n, foldl_pending, foldl_hbm, foldlP_n, foldlP_pending, foldlP_hbm]

@[simp] theorem settleAreas_keeps (s : State) :
    (settleAreas s).n = s.n ∧ (settleAreas s).pending = s.pending := by
  simp only [settleAreas]
  (repeat' split) <;> simp []

@[simp] theorem mergeJournal_keeps (s : State) (copies : List JournalCopy) :
    (mergeJournal s copies).n = s.n ∧ (mergeJournal s copies).pending = s.pending := by
  simp only [mergeJournal]
  (repeat' split) <;> simp [applyTables_keeps, changeAddress_keeps, mergeOwner_keeps, resolveCourses_keeps, dropOpenGroups_keeps, applyRecords_keeps, indexUpdates_keeps, settleCuts_keeps, revertMember_keeps, restoreKeys_keeps, foldl_n, foldl_pending, foldl_hbm, foldlP_n, foldlP_pending, foldlP_hbm]

@[simp] theorem replay_keeps (s : State) (copies : List JournalCopy) :
    (replay s copies).n = s.n ∧ (replay s copies).pending = s.pending := by
  simp only [replay]
  (repeat' split) <;> simp [setF_keeps, raise_keeps, addTable_keeps, refreshHolders_keeps, updateSpace_keeps, tryReady_keeps, packLost_keeps, queueRebuild_keeps, recordFailures_keeps, settleAreas_keeps, mergeJournal_keeps, foldl_n, foldl_pending, foldl_hbm, foldlP_n, foldlP_pending, foldlP_hbm, forSlates_n, forSlates_pending, forSlates_hbm]

@[simp] theorem sendData_keeps (x0 : Nat) (x1 : State) (x2 : Nat) (x3 : Job) (x4 : Cmd) (x5 : Nat) (x6 : Block) :
    (sendData x0 x1 x2 x3 x4 x5 x6).n = x1.n ∧ (sendData x0 x1 x2 x3 x4 x5 x6).pending = x1.pending := by
  induction x0 generalizing x1 x2 x3 x4 x5 x6 with
  | zero => simp [sendData]
  | succ k ih =>
    simp only [sendData]
    refine ⟨?_, ?_⟩ <;> grind [send_keeps]

@[simp] theorem crdReads_keeps (s : State) (l : Layout) (sl : Nat) (id : Nat) (t : Nat) (first : Nat) (count : Nat) :
    (crdReads s l sl id t first count).n = s.n ∧ (crdReads s l sl id t first count).pending = s.pending := by
  simp only [crdReads]
  refine ⟨?_, ?_⟩ <;> grind [startRead_keeps]

@[simp] theorem doAppend_keeps (s : State) (id : Nat) (sl : Nat) (a : AppendArgs) :
    (doAppend s id sl a).n = s.n ∧ (doAppend s id sl a).pending = s.pending := by
  simp only [doAppend]
  (repeat' split) <;> simp [countSrc_keeps, appendTo_keeps]

@[simp] theorem msetNow_keeps (s : State) (id : Nat) (v : Nat) (lba : Nat) (x : Word) :
    (msetNow s id v lba x).n = s.n ∧ (msetNow s id v lba x).pending = s.pending := by
  simp only [msetNow]
  (repeat' split) <;> simp [modJob_keeps, noteCached_keeps, askCommit_keeps, addMset_keeps]

@[simp] theorem endLib_keeps (s : State) (id : Nat) (st : Status) (words : List Word) :
    (endLib s id st words).n = s.n ∧ (endLib s id st words).pending = s.pending := by
  simp only [endLib]
  (repeat' split) <;> simp [endJob_keeps]

@[simp] theorem waitLib_keeps (s : State) (id : Nat) (j : Job) (wait : Wait) (w : OnWake) :
    (waitLib s id j wait w).n = s.n ∧ (waitLib s id j wait w).pending = s.pending := by
  simp only [waitLib]
  (repeat' split) <;> simp [suspendJob_keeps]

@[simp] theorem commitTables_keeps (s : State) (id : Nat) (j : Job) (ts : List TableItem) (w : OnWake) :
    (commitTables s id j ts w).n = s.n ∧ (commitTables s id j ts w).pending = s.pending := by
  simp only [commitTables]
  (repeat' split) <;> simp [askCommit_keeps, addTableGroup_keeps, waitLib_keeps]

@[simp] theorem effectiveTb_keeps (s : State) (sl : Nat) :
    (effectiveTb s sl).1.n = s.n ∧ (effectiveTb s sl).1.pending = s.pending := by
  simp only [effectiveTb]
  (repeat' split) <;> simp [takeFree_keeps]

@[simp] theorem readRun_keeps (s : State) (l : Layout) (sl : Nat) (id : Nat) (h : Handle) (t : Nat) (r : GrainRun) :
    (readRun s l sl id h t r).n = s.n ∧ (readRun s l sl id h t r).pending = s.pending := by
  unfold readRun
  simp [modJob_keeps, crdReads_keeps]

@[simp] theorem fetchLeaves_keeps (s : State) (a : BlockArgs) :
    (fetchLeaves s a).n = s.n ∧ (fetchLeaves s a).pending = s.pending := by
  simp only [fetchLeaves]
  (repeat' split) <;> simp [needLeaf_keeps, foldl_n, foldl_pending, foldl_hbm, foldlP_n, foldlP_pending, foldlP_hbm]

@[simp] theorem readExtent_keeps (s : State) (sl : Nat) (id : Nat) (a : BlockArgs) (h : Handle) :
    (readExtent s sl id a h).1.n = s.n ∧ (readExtent s sl id a h).1.pending = s.pending := by
  simp only [readExtent]
  (repeat' split) <;> simp [readRun_keeps, foldl_n, foldl_pending, foldl_hbm, foldlP_n, foldlP_pending, foldlP_hbm]

@[simp] theorem libAppend_keeps (s : State) (id : Nat) (j : Job) (a : BlockArgs) (skip : Nat) (atomic : Bool) :
    (libAppend s id j a skip atomic).n = s.n ∧ (libAppend s id j a skip atomic).pending = s.pending := by
  simp only [libAppend]
  (repeat' split) <;> simp [finish_keeps, doAppend_keeps, waitLib_keeps]

@[simp] theorem sendBlocks_keeps (s : State) (id : Nat) (j : Job) (lost : Nat) :
    (sendBlocks s id j lost).n = s.n ∧ (sendBlocks s id j lost).pending = s.pending := by
  simp only [sendBlocks]
  (repeat' split) <;> simp [sendData_keeps, endLib_keeps]

@[simp] theorem compareBlocks_keeps (s : State) (id : Nat) (j : Job) (buf : Nat) (lost : Nat) :
    (compareBlocks s id j buf lost).n = s.n ∧ (compareBlocks s id j buf lost).pending = s.pending := by
  simp only [compareBlocks]
  (repeat' split) <;> simp [endLib_keeps, libAppend_keeps]

@[simp] theorem readMapped_keeps (s : State) (id : Nat) (j : Job) :
    (readMapped s id j).n = s.n ∧ (readMapped s id j).pending = s.pending := by
  simp only [readMapped]
  (repeat' split) <;> simp [endLib_keeps, waitLib_keeps, readExtent_keeps, sendBlocks_keeps]

@[simp] theorem compareMapped_keeps (s : State) (id : Nat) (j : Job) (b : Nat) :
    (compareMapped s id j b).n = s.n ∧ (compareMapped s id j b).pending = s.pending := by
  simp only [compareMapped]
  (repeat' split) <;> simp [endLib_keeps, waitLib_keeps, readExtent_keeps, compareBlocks_keeps]

@[simp] theorem deallocMapped_keeps (s : State) (id : Nat) (j : Job) :
    (deallocMapped s id j).n = s.n ∧ (deallocMapped s id j).pending = s.pending := by
  simp only [deallocMapped]
  (repeat' split) <;> simp [finish_keeps, askCommit_keeps, addMset_keeps, endLib_keeps, waitLib_keeps, foldl_n, foldl_pending, foldl_hbm, foldlP_n, foldlP_pending, foldlP_hbm]

theorem whenMapped_keeps (s : State) (id : Nat) (j : Job) (w : OnWake) (go : State → Nat → Job → State)
    (h : ∀ s, (go s id j).n = s.n ∧ (go s id j).pending = s.pending) :
    (whenMapped s id j w go).n = s.n ∧ (whenMapped s id j w go).pending = s.pending := by
  unfold whenMapped
  split
  · exact ⟨rfl, rfl⟩
  · dsimp only
    split <;> simp [h]

@[simp] theorem fixCut_keeps (s : State) (id : Nat) (j : Job) (v : Nat) :
    (fixCut s id j v).n = s.n ∧ (fixCut s id j v).pending = s.pending := by
  simp only [fixCut]
  (repeat' split) <;> simp [finish_keeps, askCommit_keeps, addTableGroup_keeps, waitLib_keeps, effectiveTb_keeps]

@[simp] theorem fixCutover_keeps (s : State) (id : Nat) (j : Job) :
    (fixCutover s id j).n = s.n ∧ (fixCutover s id j).pending = s.pending := by
  simp only [fixCutover]
  (repeat' split) <;> simp [endLib_keeps, effectiveTb_keeps]

@[simp] theorem goOn_keeps (s : State) (id : Nat) :
    (goOn s id).n = s.n ∧ (goOn s id).pending = s.pending := by
  simp only [goOn]
  (repeat' split) <;> simp [putJob_keeps, finish_keeps, endLib_keeps, sendBlocks_keeps, compareBlocks_keeps, readMapped_keeps, compareMapped_keeps, deallocMapped_keeps, fixCut_keeps, fixCutover_keeps]

@[simp] theorem releaseHold_keeps (s : State) (id : Nat) :
    (releaseHold s id).n = s.n ∧ (releaseHold s id).pending = s.pending := by
  simp only [releaseHold]
  (repeat' split) <;> simp []

@[simp] theorem evwReturn_keeps (s : State) (sl : Nat) (n : Nat) (e : Nat) (id : Nat) :
    (evwReturn s sl n e id).n = s.n ∧ (evwReturn s sl n e id).pending = s.pending := by
  simp only [evwReturn]
  (repeat' split) <;> simp [setF_keeps, granted_keeps, releaseHold_keeps]

@[simp] theorem wake_keeps (s : State) (id : Nat) (j : Job) :
    (wake s id j).n = s.n ∧ (wake s id j).pending = s.pending := by
  simp only [wake]
  (repeat' split) <;> simp [putJob_keeps, sampleAfter_keeps, toResume_keeps]

@[simp] theorem resumeJob_keeps (s : State) (id : Nat) (j : Job) :
    (resumeJob s id j).n = s.n ∧ (resumeJob s id j).pending = s.pending := by
  simp only [resumeJob]
  (repeat' split) <;> simp [putJob_keeps, needLeaf_keeps, doAppend_keeps, msetNow_keeps, wake_keeps]

@[simp] theorem placeJob_keeps (s : State) (id : Nat) (j : Job) (t : Nat) :
    (placeJob s id j t).n = s.n ∧ (placeJob s id j t).pending = s.pending := by
  simp only [placeJob]
  (repeat' split) <;> simp [putJob_keeps, goOn_keeps]

@[simp] theorem freeJob_keeps (s : State) (id : Nat) (j : Job) :
    (freeJob s id j).n = s.n ∧ (freeJob s id j).pending = s.pending := by
  simp only [freeJob]
  (repeat' split) <;> simp [releaseJob_keeps, freeBufs_keeps]

@[simp] theorem hkEnded_keeps (s : State) (j : Job) (n : Nat) :
    (hkEnded s j n).n = s.n ∧ (hkEnded s j n).pending = s.pending := by
  simp only [hkEnded]
  (repeat' split) <;> simp []

@[simp] theorem jobEnded_keeps (s : State) (id : Nat) (j : Job) (e : JobEnd) :
    (jobEnded s id j e).n = s.n ∧ (jobEnded s id j e).pending = s.pending := by
  simp only [jobEnded]
  (repeat' split) <;> simp [startFetch_keeps, recordResp_keeps, freeJob_keeps, hkEnded_keeps]

@[simp] theorem hkRestartNow_keeps (s : State) (sl : Nat) (n : Nat) :
    (hkRestartNow s sl n).n = s.n ∧ (hkRestartNow s sl n).pending = s.pending := by
  simp only [hkRestartNow]
  (repeat' split) <;> simp [setF_keeps, settleSample_keeps, endJob_keeps, hkStart_keeps, freeJob_keeps]

@[simp] theorem launch_keeps (s : State) (slate : Nat) (event : Nat) (o : Occurrence) :
    (launch s slate event o).n = s.n ∧ (launch s slate event o).pending = s.pending := by
  simp only [launch]
  (repeat' split) <;> simp [setF_keeps, detect_keeps, countSrc_keeps, toDispatch_keeps, addJob_keeps]

@[simp] theorem storeFields_keeps (s : State) (sl : Nat) (sp : Nat) (e : Nat) (v : Word) :
    (storeFields s sl sp e v).n = s.n ∧ (storeFields s sl sp e v).pending = s.pending := by
  simp only [storeFields]
  refine ⟨?_, ?_⟩ <;> grind [setF_keeps, foldl_n, foldl_pending, foldl_hbm, foldlP_n, foldlP_pending, foldlP_hbm]

@[simp] theorem fireInjection_keeps (s : State) (sl : Nat) (sp : Nat) :
    (fireInjection s sl sp).n = s.n ∧ (fireInjection s sl sp).pending = s.pending := by
  simp only [fireInjection]
  (repeat' split) <;> simp [bumpSat_keeps, injectDet_keeps]

@[simp] theorem actQuad_keeps (s : State) (sl : Nat) (sp : Nat) (e : Nat) (v : Word) :
    (actQuad s sl sp e v).n = s.n ∧ (actQuad s sl sp e v).pending = s.pending := by
  simp only [actQuad]
  (repeat' split) <;> simp [clearFirst_keeps, fireInjection_keeps]

@[simp] theorem actEngine_keeps (s : State) (sl : Nat) (e : Nat) (v : Word) :
    (actEngine s sl e v).n = s.n ∧ (actEngine s sl e v).pending = s.pending := by
  simp only [actEngine]
  refine ⟨?_, ?_⟩ <;> grind [hkRestartNow_keeps, foldl_n, foldl_pending, foldl_hbm, foldlP_n, foldlP_pending, foldlP_hbm]

@[simp] theorem lookupChanged_keeps (old : State) (s : State) (sl : Nat) :
    (lookupChanged old s sl).n = s.n ∧ (lookupChanged old s sl).pending = s.pending := by
  simp only [lookupChanged]
  refine ⟨?_, ?_⟩ <;> grind [bump_keeps]

@[simp] theorem startBarrier_keeps (s : State) (sl : Nat) :
    (startBarrier s sl).n = s.n ∧ (startBarrier s sl).pending = s.pending := by
  simp only [startBarrier]
  (repeat' split) <;> simp []

@[simp] theorem actSwitch_keeps (old : State) (s : State) (sl : Nat) (e : Nat) (v : Word) :
    (actSwitch old s sl e v).n = s.n ∧ (actSwitch old s sl e v).pending = s.pending := by
  simp only [actSwitch]
  refine ⟨?_, ?_⟩ <;> grind [setF_keeps, updatePause_keeps, unstall_keeps, lookupChanged_keeps, startBarrier_keeps]

@[simp] theorem actFabric_keeps (old : State) (s : State) (sl : Nat) (e : Nat) :
    (actFabric old s sl e).n = s.n ∧ (actFabric old s sl e).pending = s.pending := by
  simp only [actFabric]
  refine ⟨?_, ?_⟩ <;> grind [lookupChanged_keeps]

@[simp] theorem actPort_keeps (old : State) (s : State) (sl : Nat) (e : Nat) :
    (actPort old s sl e).n = s.n ∧ (actPort old s sl e).pending = s.pending := by
  simp only [actPort]
  refine ⟨?_, ?_⟩ <;> grind [portDown_keeps, holdOver_keeps, lookupChanged_keeps]

@[simp] theorem putKeyOp_keeps (s : State) (sl : Nat) (idx : Nat) (k : Option KeyEntry) :
    (putKeyOp s sl idx k).1.n = s.n ∧ (putKeyOp s sl idx k).1.pending = s.pending := by
  simp only [putKeyOp]
  (repeat' split) <;> simp [addTable_keeps, setKey_keeps]

@[simp] theorem loadKey_keeps (s : State) (sl : Nat) (idx : Nat) :
    (loadKey s sl idx).n = s.n ∧ (loadKey s sl idx).pending = s.pending := by
  simp only [loadKey]
  (repeat' split) <;> simp [putEntry_keeps, setF_keeps, foldl_n, foldl_pending, foldl_hbm, foldlP_n, foldlP_pending, foldlP_hbm]

@[simp] theorem keyOp_keeps (s : State) (sl : Nat) (op : Nat) :
    (keyOp s sl op).1.n = s.n ∧ (keyOp s sl op).1.pending = s.pending := by
  simp only [keyOp]
  (repeat' split) <;> simp [putKeyOp_keeps, loadKey_keeps]

@[simp] theorem stageSecret_keeps (s : State) (sl : Nat) (e : Nat) (v : Word) :
    (stageSecret s sl e v).n = s.n ∧ (stageSecret s sl e v).pending = s.pending := by
  simp only [stageSecret]
  (repeat' split) <;> simp []

@[simp] theorem resetQueueCredit_keeps (old : State) (s : State) (sl : Nat) (p : Nat) (c : Nat) (sub : Nat) :
    (resetQueueCredit old s sl p c sub).n = s.n ∧ (resetQueueCredit old s sl p c sub).pending = s.pending := by
  simp only [resetQueueCredit]
  refine ⟨?_, ?_⟩ <;> grind [putOut_keeps]

@[simp] theorem queueReconfigured_keeps (old : State) (s : State) (sl : Nat) (i : Nat) :
    (queueReconfigured old s sl i).n = s.n ∧ (queueReconfigured old s sl i).pending = s.pending := by
  simp only [queueReconfigured]
  refine ⟨?_, ?_⟩ <;> grind [resetQueueCredit_keeps, foldl_n, foldl_pending, foldl_hbm, foldlP_n, foldlP_pending, foldlP_hbm]

@[simp] theorem policerReconfigured_keeps (old : State) (s : State) (sl : Nat) (c : Nat) :
    (policerReconfigured old s sl c).n = s.n ∧ (policerReconfigured old s sl c).pending = s.pending := by
  simp only [policerReconfigured]
  refine ⟨?_, ?_⟩ <;> grind []

@[simp] theorem installGates_keeps (s : State) (sl : Nat) :
    (installGates s sl).n = s.n ∧ (installGates s sl).pending = s.pending := by
  simp only [installGates]
  (repeat' split) <;> simp [setF_keeps, raise_keeps]

@[simp] theorem dropGates_keeps (s : State) (sl : Nat) :
    (dropGates s sl).n = s.n ∧ (dropGates s sl).pending = s.pending := by
  simp only [dropGates]
  (repeat' split) <;> simp [accrueNet_keeps]

@[simp] theorem actSched_keeps (old : State) (s : State) (sl : Nat) (e : Nat) (v : Word) :
    (actSched old s sl e v).n = s.n ∧ (actSched old s sl e v).pending = s.pending := by
  simp only [actSched]
  refine ⟨?_, ?_⟩ <;> grind [queueReconfigured_keeps, policerReconfigured_keeps, installGates_keeps, dropGates_keeps]

@[simp] theorem clearLost_keeps (s : State) (sl : Nat) :
    (clearLost s sl).n = s.n ∧ (clearLost s sl).pending = s.pending := by
  simp only [clearLost]
  (repeat' split) <;> simp [setF_keeps]

@[simp] theorem actStripe_keeps (s : State) (sl : Nat) (e : Nat) (v : Word) :
    (actStripe s sl e v).n = s.n ∧ (actStripe s sl e v).pending = s.pending := by
  simp only [actStripe]
  (repeat' split) <;> simp [reachQuorum_keeps, clearLost_keeps]

@[simp] theorem actDrive_keeps (old : State) (s : State) (sl : Nat) (e : Nat) :
    (actDrive old s sl e).n = s.n ∧ (actDrive old s sl e).pending = s.pending := by
  simp only [actDrive]
  refine ⟨?_, ?_⟩ <;> grind [holdOutOp_keeps]

@[simp] theorem drainVictim_keeps (x0 : Nat) (x1 : State) (x2 : Nat) :
    (drainVictim x0 x1 x2).n = x1.n ∧ (drainVictim x0 x1 x2).pending = x1.pending := by
  induction x0 generalizing x1 x2 with
  | zero => simp [drainVictim]
  | succ k ih =>
    simp only [drainVictim]
    refine ⟨?_, ?_⟩ <;> grind [victimDrain_keeps]

@[simp] theorem startDrain_keeps (s : State) (sl : Nat) :
    (startDrain s sl).n = s.n ∧ (startDrain s sl).pending = s.pending := by
  simp only [startDrain]
  (repeat' split) <;> simp [setF_keeps, scSweep_keeps]

@[simp] theorem endDrain_keeps (s : State) (sl : Nat) :
    (endDrain s sl).n = s.n ∧ (endDrain s sl).pending = s.pending := by
  simp only [endDrain]
  (repeat' split) <;> simp [setF_keeps, drainVictim_keeps]

@[simp] theorem cacheEnable_keeps (s : State) (sl : Nat) (whole : Bool) :
    (cacheEnable s sl whole).n = s.n ∧ (cacheEnable s sl whole).pending = s.pending := by
  simp only [cacheEnable]
  (repeat' split) <;> simp [setF_keeps, startDrain_keeps, endDrain_keeps]

@[simp] theorem restoreWays_keeps (s : State) (sl : Nat) :
    (restoreWays s sl).n = s.n ∧ (restoreWays s sl).pending = s.pending := by
  simp only [restoreWays]
  (repeat' split) <;> simp [setF_keeps, addTable_keeps, foldl_n, foldl_pending, foldl_hbm, foldlP_n, foldlP_pending, foldlP_hbm]

@[simp] theorem actMem_keeps (old : State) (s : State) (sl : Nat) (e : Nat) (v : Word) (whole : Bool) :
    (actMem old s sl e v whole).n = s.n ∧ (actMem old s sl e v whole).pending = s.pending := by
  simp only [actMem]
  refine ⟨?_, ?_⟩ <;> grind [icFlush_keeps, dcFlush_keeps, cacheEnable_keeps, restoreWays_keeps]

@[simp] theorem changeWitnesses_keeps (s : State) (mask : Nat) :
    (changeWitnesses s mask).n = s.n ∧ (changeWitnesses s mask).pending = s.pending := by
  simp only [changeWitnesses]
  (repeat' split) <;> simp [modLease_keeps]

@[simp] theorem actLease_keeps (s : State) (e : Nat) (v : Word) :
    (actLease s e v).n = s.n ∧ (actLease s e v).pending = s.pending := by
  simp only [actLease]
  (repeat' split) <;> simp [startRelease_keeps, changeWitnesses_keeps]

@[simp] theorem changeDomain_keeps (s : State) (en : Bool) (pre6 : Word) :
    (changeDomain s en pre6).1.n = s.n ∧ (changeDomain s en pre6).1.pending = s.pending := by
  simp only [changeDomain]
  (repeat' split) <;> simp [addTable_keeps]

@[simp] theorem actUnit_keeps (s : State) (e : Nat) (v : Word) :
    (actUnit s e v).1.n = s.n ∧ (actUnit s e v).1.pending = s.pending := by
  simp only [actUnit]
  (repeat' split) <;> simp [changeDomain_keeps]

@[simp] theorem actChain_keeps (s : State) (v : Word) :
    (actChain s v).n = s.n ∧ (actChain s v).pending = s.pending := by
  simp only [actChain]
  (repeat' split) <;> simp [startEnum_keeps, chainAssignOp_keeps]

@[simp] theorem actCounter_keeps (old : State) (s : State) (sl : Nat) (k : Nat) (v : Word) :
    (actCounter old s sl k v).n = s.n ∧ (actCounter old s sl k v).pending = s.pending := by
  simp only [actCounter]
  refine ⟨?_, ?_⟩ <;> grind [putEntry_keeps, setF_keeps]

@[simp] theorem ringMoved_keeps (old : State) (s : State) (sl : Nat) (r : Ring) :
    (ringMoved old s sl r).n = s.n ∧ (ringMoved old s sl r).pending = s.pending := by
  simp only [ringMoved]
  refine ⟨?_, ?_⟩ <;> grind [setF_keeps]

@[simp] theorem actPerf_keeps (old : State) (s : State) (sl : Nat) (e : Nat) (v : Word) :
    (actPerf old s sl e v).n = s.n ∧ (actPerf old s sl e v).pending = s.pending := by
  simp only [actPerf]
  (repeat' split) <;> simp [putSampling_keeps, actCounter_keeps, ringMoved_keeps]

@[simp] theorem act_keeps (old : State) (s : State) (sl : Nat) (sp : Nat) (e : Nat) (v : Word) (whole : Bool) :
    (act old s sl sp e v whole).1.n = s.n ∧ (act old s sl sp e v whole).1.pending = s.pending := by
  simp only [act]
  (repeat' split) <;> simp [winOp_keeps, secureStart_keeps, queueOp_keeps, actQuad_keeps, actEngine_keeps, actSwitch_keeps, actFabric_keeps, actPort_keeps, keyOp_keeps, stageSecret_keeps, actSched_keeps, actStripe_keeps, actDrive_keeps, actMem_keeps, actLease_keeps, actUnit_keeps, actChain_keeps, actPerf_keeps]

@[simp] theorem writeEntry_keeps (s : State) (sl : Nat) (sp : Nat) (e : Nat) (v : Word) (whole : Bool) (u) (h : writeEntry s sl sp e v whole = some u) : u.1.n = s.n ∧ u.1.pending = s.pending := by
  simp only [writeEntry] at h
  grind [storeFields_keeps, act_keeps]

@[simp] theorem ctlWrite_keeps (s : State) (w : Word) (self : Nat) (v : Word) (u) (h : ctlWrite s w self v = some u) : u.1.n = s.n ∧ u.1.pending = s.pending := by
  simp only [ctlWrite] at h
  grind [writeEntry_keeps]

theorem ctlCommit_keeps (s : State) (id : Nat) (w : Word) (self : Nat) (v : Word) (u) (h : ctlCommit s id w self v = some u) : u.1.n = s.n ∧ u.1.pending = s.pending := by
  simp only [ctlCommit] at h
  split at h
  · cases h
  · split at h
    · cases h; simp
    · split at h
      · cases h
      · rename_i hw
        cases h
        have := ctlWrite_keeps _ _ _ _ _ hw
        simpa using this

@[simp] theorem ctlSetOp_keeps (s : State) (id : Nat) (w : Word) (self : Nat) (v : Word) :
    (ctlSetOp s id w self v).1.n = s.n ∧ (ctlSetOp s id w self v).1.pending = s.pending := by
  simp only [ctlSetOp]
  split
  · exact ⟨rfl, rfl⟩
  · split
    · exact ⟨rfl, rfl⟩
    · rename_i h; exact ctlCommit_keeps _ _ _ _ _ _ h

@[simp] theorem ctlSwapOp_keeps (s : State) (id : Nat) (w : Word) (self : Nat) (expected : Word) (v : Word) :
    (ctlSwapOp s id w self expected v).1.n = s.n ∧ (ctlSwapOp s id w self expected v).1.pending = s.pending := by
  simp only [ctlSwapOp]
  split
  · exact ⟨rfl, rfl⟩
  · split
    · exact ⟨rfl, rfl⟩
    · split
      · exact ⟨rfl, rfl⟩
      · rename_i h; exact ctlCommit_keeps _ _ _ _ _ _ h

@[simp] theorem ctlGrant_keeps (s : State) (w : Word) (self : Nat) :
    (ctlGrant s w self).n = s.n ∧ (ctlGrant s w self).pending = s.pending := by
  simp only [ctlGrant]
  (repeat' split) <;> simp [granted_keeps]

@[simp] theorem ctlDone_keeps (s : State) (id : Nat) (d : Reg) (f : Job → Job) (r : RecRef) :
    (ctlDone s id d f r).n = s.n ∧ (ctlDone s id d f r).pending = s.pending := by
  simp only [ctlDone]
  (repeat' split) <;> simp [finish_keeps]

@[simp] theorem regWrite_keeps (s : State) (sl : Nat) (sp : Nat) (e : Nat) (v : Word) :
    (regWrite s sl sp e v).n = s.n ∧ (regWrite s sl sp e v).pending = s.pending := by
  simp only [regWrite]
  split
  · rename_i h; simpa using writeEntry_keeps _ _ _ _ _ _ _ h
  · exact ⟨rfl, rfl⟩

@[simp] theorem dropCourse_keeps (s : State) (k : Nat) :
    (dropCourse s k).n = s.n ∧ (dropCourse s k).pending = s.pending := by
  simp only [dropCourse]
  (repeat' split) <;> simp [trimRecs_keeps, dropCmds_keeps, foldl_n, foldl_pending, foldl_hbm, foldlP_n, foldlP_pending, foldlP_hbm]

@[simp] theorem stopAppend_keeps (s : State) (id : Nat) :
    (stopAppend s id).n = s.n ∧ (stopAppend s id).pending = s.pending := by
  simp only [stopAppend]
  (repeat' split) <;> simp [modJob_keeps, finish_keeps]

@[simp] theorem stopAppends_keeps (s : State) :
    (stopAppends s).n = s.n ∧ (stopAppends s).pending = s.pending := by
  simp only [stopAppends]
  (repeat' split) <;> simp [dropCourse_keeps, stopAppend_keeps, foldl_n, foldl_pending, foldl_hbm, foldlP_n, foldlP_pending, foldlP_hbm]

@[simp] theorem emptyPool_keeps (s : State) :
    (emptyPool s).n = s.n ∧ (emptyPool s).pending = s.pending := by
  simp only [emptyPool]
  (repeat' split) <;> simp [trimRecs_keeps, updateSpace_keeps, foldl_n, foldl_pending, foldl_hbm, foldlP_n, foldlP_pending, foldlP_hbm]

@[simp] theorem modAdmin_keeps (s : State) (f : AdminOp → AdminOp) :
    (modAdmin s f).n = s.n ∧ (modAdmin s f).pending = s.pending := by
  simp only [modAdmin]
  (repeat' split) <;> simp []

@[simp] theorem stepAdmin_keeps (s : State) (f : AdminOp → AdminOp) :
    (stepAdmin s f).n = s.n ∧ (stepAdmin s f).pending = s.pending := by
  simp only [stepAdmin]
  (repeat' split) <;> simp [recordAdmin_keeps, modAdmin_keeps]

@[simp] theorem endAdmin_keeps (s : State) :
    (endAdmin s).n = s.n ∧ (endAdmin s).pending = s.pending := by
  simp only [endAdmin]
  (repeat' split) <;> simp [stepAdmin_keeps]

@[simp] theorem awaitTables_keeps (s : State) (ts : List TableItem) :
    (awaitTables s ts).n = s.n ∧ (awaitTables s ts).pending = s.pending := by
  simp only [awaitTables]
  (repeat' split) <;> simp [addTableGroup_keeps, stepAdmin_keeps, endAdmin_keeps]

@[simp] theorem sanitizeKey_keeps (s : State) :
    (sanitizeKey s).n = s.n ∧ (sanitizeKey s).pending = s.pending := by
  simp only [sanitizeKey]
  (repeat' split) <;> simp [addPlainGroup_keeps, stepAdmin_keeps]

@[simp] theorem sanitizeMembers_keeps (s : State) :
    (sanitizeMembers s).n = s.n ∧ (sanitizeMembers s).pending = s.pending := by
  unfold sanitizeMembers
  refine ⟨?_, ?_⟩ <;> grind [issueCmd_keeps, stopAppends_keeps, emptyPool_keeps, stepAdmin_keeps, awaitTables_keeps, foldl_n, foldl_pending, foldl_hbm, foldlP_n, foldlP_pending, foldlP_hbm]

@[simp] theorem formatVolume_keeps (s : State) :
    (formatVolume s).n = s.n ∧ (formatVolume s).pending = s.pending := by
  simp only [formatVolume]
  (repeat' split) <;> simp [addMset_keeps, needLeaf_keeps, stepAdmin_keeps, endAdmin_keeps, foldl_n, foldl_pending, foldl_hbm, foldlP_n, foldlP_pending, foldlP_hbm]

@[simp] theorem formatUnit_keeps (s : State) :
    (formatUnit s).n = s.n ∧ (formatUnit s).pending = s.pending := by
  simp only [formatUnit]
  (repeat' split) <;> simp [stopAppends_keeps, emptyPool_keeps, awaitTables_keeps]

@[simp] theorem seatFormatted_keeps (s : State) :
    (seatFormatted s).n = s.n ∧ (seatFormatted s).pending = s.pending := by
  simp only [seatFormatted]
  (repeat' split) <;> simp []

@[simp] theorem adminStep_keeps (s : State) :
    (adminStep s).n = s.n ∧ (adminStep s).pending = s.pending := by
  simp only [adminStep]
  (repeat' split) <;> simp [dropDataKey_keeps, stepAdmin_keeps, endAdmin_keeps, sanitizeKey_keeps, sanitizeMembers_keeps, formatVolume_keeps, formatUnit_keeps, seatFormatted_keeps]

@[simp] theorem cutOver_keeps (s : State) (v : Nat) :
    (cutOver s v).n = s.n ∧ (cutOver s v).pending = s.pending := by
  simp only [cutOver]
  (repeat' split) <;> simp [cutEntries_keeps]

@[simp] theorem beginCut_keeps (s : State) (id : Nat) (j : Job) (v : Nat) (size : Nat) (was : Nat) :
    (beginCut s id j v size was).n = s.n ∧ (beginCut s id j v size was).pending = s.pending := by
  simp only [beginCut]
  (repeat' split) <;> simp [waitLib_keeps]

@[simp] theorem startAdmin_keeps (s : State) (id : Nat) (j : Job) (a : AdminOp) :
    (startAdmin s id j a).n = s.n ∧ (startAdmin s id j a).pending = s.pending := by
  simp only [startAdmin]
  (repeat' split) <;> simp [takeFree_keeps, finish_keeps, askCommit_keeps, addTable_keeps, waitLib_keeps]

@[simp] theorem recordSlot_keeps (s : State) (id : Nat) (j : Job) (slot : Nat) (p : Option Nat) :
    (recordSlot s id j slot p).n = s.n ∧ (recordSlot s id j slot p).pending = s.pending := by
  simp only [recordSlot]
  (repeat' split) <;> simp [addPlainGroup_keeps, waitLib_keeps]

@[simp] theorem endCtl_keeps (s : State) (id : Nat) (st : Status) (words : List Word) (r : RecRef) :
    (endCtl s id st words r).n = s.n ∧ (endCtl s id st words r).pending = s.pending := by
  simp only [endCtl]
  (repeat' split) <;> simp [finish_keeps, endLib_keeps, waitLib_keeps]

@[simp] theorem slewStep_keeps (s : State) :
    (slewStep s).2.n = s.n ∧ (slewStep s).2.pending = s.pending := by
  simp only [slewStep]
  (repeat' split) <;> simp []

@[simp] theorem tbTick_keeps (s : State) :
    (tbTick s).n = s.n ∧ (tbTick s).pending = s.pending := by
  simp only [tbTick]
  (repeat' split) <;> simp [slewStep_keeps, foldl_n, foldl_pending, foldl_hbm, foldlP_n, foldlP_pending, foldlP_hbm]

@[simp] theorem sourceTick_keeps (s : State) (sl : Nat) :
    (sourceTick s sl).n = s.n ∧ (sourceTick s sl).pending = s.pending := by
  unfold sourceTick
  extract_lets c adds last
  clear_value adds last
  rw [foldl_n, foldl_pending]
  · exact ⟨rfl, rfl⟩
  all_goals intro t a; split <;> simp

@[simp] theorem slateTick_keeps (s : State) (sl : Nat) :
    (slateTick s sl).n = s.n ∧ (slateTick s sl).pending = s.pending := by
  simp only [slateTick]
  (repeat' split) <;> simp [victimDrain_keeps, copiesIssue_keeps, sourceTick_keeps]

@[simp] theorem tick_keeps (s : State) :
    (tick s).n = s.n ∧ (tick s).pending = s.pending := by
  simp only [tick]
  (repeat' split) <;> simp [reclaimStep_keeps, adminStep_keeps, tbTick_keeps, slateTick_keeps, foldl_n, foldl_pending, foldl_hbm, foldlP_n, foldlP_pending, foldlP_hbm]

@[simp] theorem State.withFetchWord_n (s : State) (nbits : Nat) (w : Nat) : (State.withFetchWord s nbits w).n = s.n := by
  unfold State.withFetchWord
  split <;> rfl

end Sys2Proof.Machine
end

