-- ==== Sys2Proof/Laws/Frames.lean ====
section
/-! SUPPORT. What events, datagrams, frames, caches, counters and samples leave alone: jobs, threads, buffers, programs,
members, queues, courses, the module, the lost slates and device memory. -/

namespace Sys2Proof.Machine

set_option linter.unusedSimpArgs false

theorem foldl_jobs {α : Type} (f : State → α → State) (l : List α) (s : State) (h : ∀ s a, (f s a).jobs = s.jobs) :
    (l.foldl f s).jobs = s.jobs := by
  induction l generalizing s with
  | nil => rfl
  | cons a l ih => simp [ih, h]

theorem foldl_threads {α : Type} (f : State → α → State) (l : List α) (s : State) (h : ∀ s a, (f s a).threads = s.threads) :
    (l.foldl f s).threads = s.threads := by
  induction l generalizing s with
  | nil => rfl
  | cons a l ih => simp [ih, h]

theorem foldl_buffers {α : Type} (f : State → α → State) (l : List α) (s : State) (h : ∀ s a, (f s a).buffers = s.buffers) :
    (l.foldl f s).buffers = s.buffers := by
  induction l generalizing s with
  | nil => rfl
  | cons a l ih => simp [ih, h]

theorem foldl_progs {α : Type} (f : State → α → State) (l : List α) (s : State) (h : ∀ s a, (f s a).progs = s.progs) :
    (l.foldl f s).progs = s.progs := by
  induction l generalizing s with
  | nil => rfl
  | cons a l ih => simp [ih, h]

theorem foldl_mod {α : Type} (f : State → α → State) (l : List α) (s : State) (h : ∀ s a, (f s a).mod = s.mod) :
    (l.foldl f s).mod = s.mod := by
  induction l generalizing s with
  | nil => rfl
  | cons a l ih => simp [ih, h]

theorem foldl_lost {α : Type} (f : State → α → State) (l : List α) (s : State) (h : ∀ s a, (f s a).lost = s.lost) :
    (l.foldl f s).lost = s.lost := by
  induction l generalizing s with
  | nil => rfl
  | cons a l ih => simp [ih, h]

theorem foldl_poison {α : Type} (f : State → α → State) (l : List α) (s : State) (h : ∀ s a, (f s a).poison = s.poison) :
    (l.foldl f s).poison = s.poison := by
  induction l generalizing s with
  | nil => rfl
  | cons a l ih => simp [ih, h]

theorem foldl_sampling {α : Type} (f : State → α → State) (l : List α) (s : State) (h : ∀ s a, (f s a).sampling = s.sampling) :
    (l.foldl f s).sampling = s.sampling := by
  induction l generalizing s with
  | nil => rfl
  | cons a l ih => simp [ih, h]

theorem foldl_members {α : Type} (f : State → α → State) (l : List α) (s : State) (h : ∀ s a, (f s a).members = s.members) :
    (l.foldl f s).members = s.members := by
  induction l generalizing s with
  | nil => rfl
  | cons a l ih => simp [ih, h]

theorem foldl_queues {α : Type} (f : State → α → State) (l : List α) (s : State) (h : ∀ s a, (f s a).queues = s.queues) :
    (l.foldl f s).queues = s.queues := by
  induction l generalizing s with
  | nil => rfl
  | cons a l ih => simp [ih, h]

theorem foldl_courses {α : Type} (f : State → α → State) (l : List α) (s : State) (h : ∀ s a, (f s a).courses = s.courses) :
    (l.foldl f s).courses = s.courses := by
  induction l generalizing s with
  | nil => rfl
  | cons a l ih => simp [ih, h]

@[simp] theorem takeFree_frame (s : State) :
    (takeFree s).jobs = s.jobs ∧ (takeFree s).threads = s.threads ∧ (takeFree s).buffers = s.buffers ∧ (takeFree s).progs = s.progs ∧ (takeFree s).mod = s.mod ∧ (takeFree s).lost = s.lost ∧ (takeFree s).hbm = s.hbm ∧ (takeFree s).poison = s.poison ∧ (takeFree s).sampling = s.sampling ∧ (takeFree s).members = s.members ∧ (takeFree s).queues = s.queues ∧ (takeFree s).courses = s.courses := by
  exact ⟨Eq.trans rfl rfl, Eq.trans rfl rfl, Eq.trans rfl rfl, Eq.trans rfl rfl, Eq.trans rfl rfl, Eq.trans rfl rfl, Eq.trans rfl rfl, Eq.trans rfl rfl, Eq.trans rfl rfl, Eq.trans rfl rfl, Eq.trans rfl rfl, Eq.trans rfl rfl⟩

@[simp] theorem putEntry_frame (s : State) (sl : Nat) (sp : Nat) (e : Nat) (v : Word) :
    (putEntry s sl sp e v).jobs = s.jobs ∧ (putEntry s sl sp e v).threads = s.threads ∧ (putEntry s sl sp e v).buffers = s.buffers ∧ (putEntry s sl sp e v).progs = s.progs ∧ (putEntry s sl sp e v).mod = s.mod ∧ (putEntry s sl sp e v).lost = s.lost ∧ (putEntry s sl sp e v).hbm = s.hbm ∧ (putEntry s sl sp e v).poison = s.poison ∧ (putEntry s sl sp e v).sampling = s.sampling ∧ (putEntry s sl sp e v).members = s.members ∧ (putEntry s sl sp e v).queues = s.queues ∧ (putEntry s sl sp e v).courses = s.courses := by
  exact ⟨Eq.trans rfl rfl, Eq.trans rfl rfl, Eq.trans rfl rfl, Eq.trans rfl rfl, Eq.trans rfl rfl, Eq.trans rfl rfl, Eq.trans rfl rfl, Eq.trans rfl rfl, Eq.trans rfl rfl, Eq.trans rfl rfl, Eq.trans rfl rfl, Eq.trans rfl rfl⟩

@[simp] theorem setF_frame (s : State) (sl : Nat) (f : Fld) (v : Nat) :
    (setF s sl f v).jobs = s.jobs ∧ (setF s sl f v).threads = s.threads ∧ (setF s sl f v).buffers = s.buffers ∧ (setF s sl f v).progs = s.progs ∧ (setF s sl f v).mod = s.mod ∧ (setF s sl f v).lost = s.lost ∧ (setF s sl f v).hbm = s.hbm ∧ (setF s sl f v).poison = s.poison ∧ (setF s sl f v).sampling = s.sampling ∧ (setF s sl f v).members = s.members ∧ (setF s sl f v).queues = s.queues ∧ (setF s sl f v).courses = s.courses := by
  exact ⟨Eq.trans rfl rfl, Eq.trans rfl rfl, Eq.trans rfl rfl, Eq.trans rfl rfl, Eq.trans rfl rfl, Eq.trans rfl rfl, Eq.trans rfl rfl, Eq.trans rfl rfl, Eq.trans rfl rfl, Eq.trans rfl rfl, Eq.trans rfl rfl, Eq.trans rfl rfl⟩

@[simp] theorem bump_frame (s : State) (sl : Nat) (f : Fld) (k : Nat) :
    (bump s sl f k).jobs = s.jobs ∧ (bump s sl f k).threads = s.threads ∧ (bump s sl f k).buffers = s.buffers ∧ (bump s sl f k).progs = s.progs ∧ (bump s sl f k).mod = s.mod ∧ (bump s sl f k).lost = s.lost ∧ (bump s sl f k).hbm = s.hbm ∧ (bump s sl f k).poison = s.poison ∧ (bump s sl f k).sampling = s.sampling ∧ (bump s sl f k).members = s.members ∧ (bump s sl f k).queues = s.queues ∧ (bump s sl f k).courses = s.courses := by
  exact ⟨Eq.trans rfl rfl, Eq.trans rfl rfl, Eq.trans rfl rfl, Eq.trans rfl rfl, Eq.trans rfl rfl, Eq.trans rfl rfl, Eq.trans rfl rfl, Eq.trans rfl rfl, Eq.trans rfl rfl, Eq.trans rfl rfl, Eq.trans rfl rfl, Eq.trans rfl rfl⟩

@[simp] theorem bumpSat_frame (s : State) (sl : Nat) (f : Fld) (k : Nat) :
    (bumpSat s sl f k).jobs = s.jobs ∧ (bumpSat s sl f k).threads = s.threads ∧ (bumpSat s sl f k).buffers = s.buffers ∧ (bumpSat s sl f k).progs = s.progs ∧ (bumpSat s sl f k).mod = s.mod ∧ (bumpSat s sl f k).lost = s.lost ∧ (bumpSat s sl f k).hbm = s.hbm ∧ (bumpSat s sl f k).poison = s.poison ∧ (bumpSat s sl f k).sampling = s.sampling ∧ (bumpSat s sl f k).members = s.members ∧ (bumpSat s sl f k).queues = s.queues ∧ (bumpSat s sl f k).courses = s.courses := by
  exact ⟨Eq.trans rfl rfl, Eq.trans rfl rfl, Eq.trans rfl rfl, Eq.trans rfl rfl, Eq.trans rfl rfl, Eq.trans rfl rfl, Eq.trans rfl rfl, Eq.trans rfl rfl, Eq.trans rfl rfl, Eq.trans rfl rfl, Eq.trans rfl rfl, Eq.trans rfl rfl⟩

@[simp] theorem hbmWrite_frame (s : State) (a : Nat) (b : Block) :
    (hbmWrite s a b).jobs = s.jobs ∧ (hbmWrite s a b).threads = s.threads ∧ (hbmWrite s a b).buffers = s.buffers ∧ (hbmWrite s a b).progs = s.progs ∧ (hbmWrite s a b).mod = s.mod ∧ (hbmWrite s a b).lost = s.lost ∧ (hbmWrite s a b).sampling = s.sampling ∧ (hbmWrite s a b).members = s.members ∧ (hbmWrite s a b).queues = s.queues ∧ (hbmWrite s a b).courses = s.courses := by
  simp only [hbmWrite]
  (repeat' split) <;> simp [foldl_jobs, foldl_threads, foldl_buffers, foldl_progs, foldl_mod, foldl_lost, foldl_sampling, foldl_members, foldl_queues, foldl_courses]

@[simp] theorem updatePause_frame (s : State) (sl : Nat) :
    (updatePause s sl).jobs = s.jobs ∧ (updatePause s sl).threads = s.threads ∧ (updatePause s sl).buffers = s.buffers ∧ (updatePause s sl).progs = s.progs ∧ (updatePause s sl).mod = s.mod ∧ (updatePause s sl).lost = s.lost ∧ (updatePause s sl).hbm = s.hbm ∧ (updatePause s sl).poison = s.poison ∧ (updatePause s sl).sampling = s.sampling ∧ (updatePause s sl).members = s.members ∧ (updatePause s sl).queues = s.queues ∧ (updatePause s sl).courses = s.courses := by
  simp only [updatePause]
  (repeat' split) <;> simp [foldl_jobs, foldl_threads, foldl_buffers, foldl_progs, foldl_mod, foldl_lost, foldl_hbm, foldl_poison, foldl_sampling, foldl_members, foldl_queues, foldl_courses]

@[simp] theorem updatePeak_frame (s : State) (sl : Nat) :
    (updatePeak s sl).jobs = s.jobs ∧ (updatePeak s sl).threads = s.threads ∧ (updatePeak s sl).buffers = s.buffers ∧ (updatePeak s sl).progs = s.progs ∧ (updatePeak s sl).mod = s.mod ∧ (updatePeak s sl).lost = s.lost ∧ (updatePeak s sl).hbm = s.hbm ∧ (updatePeak s sl).poison = s.poison ∧ (updatePeak s sl).sampling = s.sampling ∧ (updatePeak s sl).members = s.members ∧ (updatePeak s sl).queues = s.queues ∧ (updatePeak s sl).courses = s.courses := by
  simp only [updatePeak]
  (repeat' split) <;> simp [setF_frame, updatePause_frame, foldl_jobs, foldl_threads, foldl_buffers, foldl_progs, foldl_mod, foldl_lost, foldl_hbm, foldl_poison, foldl_sampling, foldl_members, foldl_queues, foldl_courses]

@[simp] theorem putOut_frame (s : State) (sl : Nat) (p : Nat) (sub : Nat) (o : OutPort) :
    (putOut s sl p sub o).jobs = s.jobs ∧ (putOut s sl p sub o).threads = s.threads ∧ (putOut s sl p sub o).buffers = s.buffers ∧ (putOut s sl p sub o).progs = s.progs ∧ (putOut s sl p sub o).mod = s.mod ∧ (putOut s sl p sub o).lost = s.lost ∧ (putOut s sl p sub o).hbm = s.hbm ∧ (putOut s sl p sub o).poison = s.poison ∧ (putOut s sl p sub o).sampling = s.sampling ∧ (putOut s sl p sub o).members = s.members ∧ (putOut s sl p sub o).queues = s.queues ∧ (putOut s sl p sub o).courses = s.courses := by
  simp only [putOut]
  (repeat' split) <;> simp [foldl_jobs, foldl_threads, foldl_buffers, foldl_progs, foldl_mod, foldl_lost, foldl_hbm, foldl_poison, foldl_sampling, foldl_members, foldl_queues, foldl_courses]

@[simp] theorem joinQueue_frame (s : State) (sl : Nat) (p : Nat) (sub : Nat) (c : Nat) (id : Nat) :
    (joinQueue s sl p sub c id).jobs = s.jobs ∧ (joinQueue s sl p sub c id).threads = s.threads ∧ (joinQueue s sl p sub c id).buffers = s.buffers ∧ (joinQueue s sl p sub c id).progs = s.progs ∧ (joinQueue s sl p sub c id).mod = s.mod ∧ (joinQueue s sl p sub c id).lost = s.lost ∧ (joinQueue s sl p sub c id).hbm = s.hbm ∧ (joinQueue s sl p sub c id).poison = s.poison ∧ (joinQueue s sl p sub c id).sampling = s.sampling ∧ (joinQueue s sl p sub c id).members = s.members ∧ (joinQueue s sl p sub c id).queues = s.queues ∧ (joinQueue s sl p sub c id).courses = s.courses := by
  simp only [joinQueue]
  (repeat' split) <;> simp [putOut_frame, foldl_jobs, foldl_threads, foldl_buffers, foldl_progs, foldl_mod, foldl_lost, foldl_hbm, foldl_poison, foldl_sampling, foldl_members, foldl_queues, foldl_courses]

@[simp] theorem settleCopy_frame (s : State) (g : Option Nat) (sl : Nat) (ok : Bool) :
    (settleCopy s g sl ok).jobs = s.jobs ∧ (settleCopy s g sl ok).threads = s.threads ∧ (settleCopy s g sl ok).buffers = s.buffers ∧ (settleCopy s g sl ok).progs = s.progs ∧ (settleCopy s g sl ok).mod = s.mod ∧ (settleCopy s g sl ok).lost = s.lost ∧ (settleCopy s g sl ok).hbm = s.hbm ∧ (settleCopy s g sl ok).poison = s.poison ∧ (settleCopy s g sl ok).sampling = s.sampling ∧ (settleCopy s g sl ok).members = s.members ∧ (settleCopy s g sl ok).queues = s.queues ∧ (settleCopy s g sl ok).courses = s.courses := by
  simp only [settleCopy]
  (repeat' split) <;> simp [foldl_jobs, foldl_threads, foldl_buffers, foldl_progs, foldl_mod, foldl_lost, foldl_hbm, foldl_poison, foldl_sampling, foldl_members, foldl_queues, foldl_courses]

@[simp] theorem queueFrame_frame (s : State) (id : Nat) :
    (queueFrame s id).jobs = s.jobs ∧ (queueFrame s id).threads = s.threads ∧ (queueFrame s id).buffers = s.buffers ∧ (queueFrame s id).progs = s.progs ∧ (queueFrame s id).mod = s.mod ∧ (queueFrame s id).lost = s.lost ∧ (queueFrame s id).hbm = s.hbm ∧ (queueFrame s id).poison = s.poison ∧ (queueFrame s id).sampling = s.sampling ∧ (queueFrame s id).members = s.members ∧ (queueFrame s id).queues = s.queues ∧ (queueFrame s id).courses = s.courses := by
  simp only [queueFrame]
  (repeat' split) <;> simp [bump_frame, joinQueue_frame, settleCopy_frame, foldl_jobs, foldl_threads, foldl_buffers, foldl_progs, foldl_mod, foldl_lost, foldl_hbm, foldl_poison, foldl_sampling, foldl_members, foldl_queues, foldl_courses]

@[simp] theorem addFrame_frame (s : State) (f : Frame) :
    (addFrame s f).1.jobs = s.jobs ∧ (addFrame s f).1.threads = s.threads ∧ (addFrame s f).1.buffers = s.buffers ∧ (addFrame s f).1.progs = s.progs ∧ (addFrame s f).1.mod = s.mod ∧ (addFrame s f).1.lost = s.lost ∧ (addFrame s f).1.hbm = s.hbm ∧ (addFrame s f).1.poison = s.poison ∧ (addFrame s f).1.sampling = s.sampling ∧ (addFrame s f).1.members = s.members ∧ (addFrame s f).1.queues = s.queues ∧ (addFrame s f).1.courses = s.courses := by
  simp only [addFrame]
  (repeat' split) <;> simp [foldl_jobs, foldl_threads, foldl_buffers, foldl_progs, foldl_mod, foldl_lost, foldl_hbm, foldl_poison, foldl_sampling, foldl_members, foldl_queues, foldl_courses]

@[simp] theorem bufferFrame_frame (s : State) (f : Frame) :
    (bufferFrame s f).jobs = s.jobs ∧ (bufferFrame s f).threads = s.threads ∧ (bufferFrame s f).buffers = s.buffers ∧ (bufferFrame s f).progs = s.progs ∧ (bufferFrame s f).mod = s.mod ∧ (bufferFrame s f).lost = s.lost ∧ (bufferFrame s f).hbm = s.hbm ∧ (bufferFrame s f).poison = s.poison ∧ (bufferFrame s f).sampling = s.sampling ∧ (bufferFrame s f).members = s.members ∧ (bufferFrame s f).queues = s.queues ∧ (bufferFrame s f).courses = s.courses := by
  simp only [bufferFrame]
  (repeat' split) <;> simp [updatePeak_frame, queueFrame_frame, addFrame_frame, foldl_jobs, foldl_threads, foldl_buffers, foldl_progs, foldl_mod, foldl_lost, foldl_hbm, foldl_poison, foldl_sampling, foldl_members, foldl_queues, foldl_courses]

@[simp] theorem mcastAlone_frame (s : State) (f : Frame) (x : Nat) :
    (mcastAlone s f x).jobs = s.jobs ∧ (mcastAlone s f x).threads = s.threads ∧ (mcastAlone s f x).buffers = s.buffers ∧ (mcastAlone s f x).progs = s.progs ∧ (mcastAlone s f x).mod = s.mod ∧ (mcastAlone s f x).lost = s.lost ∧ (mcastAlone s f x).hbm = s.hbm ∧ (mcastAlone s f x).poison = s.poison ∧ (mcastAlone s f x).sampling = s.sampling ∧ (mcastAlone s f x).members = s.members ∧ (mcastAlone s f x).queues = s.queues ∧ (mcastAlone s f x).courses = s.courses := by
  simp only [mcastAlone]
  (repeat' split) <;> simp [bump_frame, settleCopy_frame, bufferFrame_frame, foldl_jobs, foldl_threads, foldl_buffers, foldl_progs, foldl_mod, foldl_lost, foldl_hbm, foldl_poison, foldl_sampling, foldl_members, foldl_queues, foldl_courses]

@[simp] theorem mcastArrive_frame (s : State) (f : Frame) :
    (mcastArrive s f).jobs = s.jobs ∧ (mcastArrive s f).threads = s.threads ∧ (mcastArrive s f).buffers = s.buffers ∧ (mcastArrive s f).progs = s.progs ∧ (mcastArrive s f).mod = s.mod ∧ (mcastArrive s f).lost = s.lost ∧ (mcastArrive s f).hbm = s.hbm ∧ (mcastArrive s f).poison = s.poison ∧ (mcastArrive s f).sampling = s.sampling ∧ (mcastArrive s f).members = s.members ∧ (mcastArrive s f).queues = s.queues ∧ (mcastArrive s f).courses = s.courses := by
  simp only [mcastArrive]
  (repeat' split) <;> simp [bufferFrame_frame, mcastAlone_frame, foldl_jobs, foldl_threads, foldl_buffers, foldl_progs, foldl_mod, foldl_lost, foldl_hbm, foldl_poison, foldl_sampling, foldl_members, foldl_queues, foldl_courses]

@[simp] theorem sendMulticast_frame (s : State) (f : Frame) :
    (sendMulticast s f).jobs = s.jobs ∧ (sendMulticast s f).threads = s.threads ∧ (sendMulticast s f).buffers = s.buffers ∧ (sendMulticast s f).progs = s.progs ∧ (sendMulticast s f).mod = s.mod ∧ (sendMulticast s f).lost = s.lost ∧ (sendMulticast s f).hbm = s.hbm ∧ (sendMulticast s f).poison = s.poison ∧ (sendMulticast s f).sampling = s.sampling ∧ (sendMulticast s f).members = s.members ∧ (sendMulticast s f).queues = s.queues ∧ (sendMulticast s f).courses = s.courses := by
  simp only [sendMulticast]
  (repeat' split) <;> simp [mcastArrive_frame, foldl_jobs, foldl_threads, foldl_buffers, foldl_progs, foldl_mod, foldl_lost, foldl_hbm, foldl_poison, foldl_sampling, foldl_members, foldl_queues, foldl_courses]

@[simp] theorem enterFrame_frame (s : State) (f : Frame) :
    (enterFrame s f).jobs = s.jobs ∧ (enterFrame s f).threads = s.threads ∧ (enterFrame s f).buffers = s.buffers ∧ (enterFrame s f).progs = s.progs ∧ (enterFrame s f).mod = s.mod ∧ (enterFrame s f).lost = s.lost ∧ (enterFrame s f).hbm = s.hbm ∧ (enterFrame s f).poison = s.poison ∧ (enterFrame s f).sampling = s.sampling ∧ (enterFrame s f).members = s.members ∧ (enterFrame s f).queues = s.queues ∧ (enterFrame s f).courses = s.courses := by
  simp only [enterFrame]
  (repeat' split) <;> simp [bump_frame, bufferFrame_frame, sendMulticast_frame, foldl_jobs, foldl_threads, foldl_buffers, foldl_progs, foldl_mod, foldl_lost, foldl_hbm, foldl_poison, foldl_sampling, foldl_members, foldl_queues, foldl_courses]

@[simp] theorem admitInternal_frame (s : State) (f : Frame) :
    (admitInternal s f).jobs = s.jobs ∧ (admitInternal s f).threads = s.threads ∧ (admitInternal s f).buffers = s.buffers ∧ (admitInternal s f).progs = s.progs ∧ (admitInternal s f).mod = s.mod ∧ (admitInternal s f).lost = s.lost ∧ (admitInternal s f).hbm = s.hbm ∧ (admitInternal s f).poison = s.poison ∧ (admitInternal s f).sampling = s.sampling ∧ (admitInternal s f).members = s.members ∧ (admitInternal s f).queues = s.queues ∧ (admitInternal s f).courses = s.courses := by
  simp only [admitInternal]
  (repeat' split) <;> simp [addFrame_frame, enterFrame_frame, foldl_jobs, foldl_threads, foldl_buffers, foldl_progs, foldl_mod, foldl_lost, foldl_hbm, foldl_poison, foldl_sampling, foldl_members, foldl_queues, foldl_courses]

@[simp] theorem unstall_frame (s : State) (sl : Nat) :
    (unstall s sl).jobs = s.jobs ∧ (unstall s sl).threads = s.threads ∧ (unstall s sl).buffers = s.buffers ∧ (unstall s sl).progs = s.progs ∧ (unstall s sl).mod = s.mod ∧ (unstall s sl).lost = s.lost ∧ (unstall s sl).hbm = s.hbm ∧ (unstall s sl).poison = s.poison ∧ (unstall s sl).sampling = s.sampling ∧ (unstall s sl).members = s.members ∧ (unstall s sl).queues = s.queues ∧ (unstall s sl).courses = s.courses := by
  simp only [unstall]
  refine ⟨?_, ?_, ?_, ?_, ?_, ?_, ?_, ?_, ?_, ?_, ?_, ?_⟩
  · rw [foldl_jobs]; intro t a; (repeat' split) <;> simp
  · rw [foldl_threads]; intro t a; (repeat' split) <;> simp
  · rw [foldl_buffers]; intro t a; (repeat' split) <;> simp
  · rw [foldl_progs]; intro t a; (repeat' split) <;> simp
  · rw [foldl_mod]; intro t a; (repeat' split) <;> simp
  · rw [foldl_lost]; intro t a; (repeat' split) <;> simp
  · rw [foldl_hbm]; intro t a; (repeat' split) <;> simp
  · rw [foldl_poison]; intro t a; (repeat' split) <;> simp
  · rw [foldl_sampling]; intro t a; (repeat' split) <;> simp
  · rw [foldl_members]; intro t a; (repeat' split) <;> simp
  · rw [foldl_queues]; intro t a; (repeat' split) <;> simp
  · rw [foldl_courses]; intro t a; (repeat' split) <;> simp

@[simp] theorem freeFrame_frame (s : State) (id : Nat) :
    (freeFrame s id).jobs = s.jobs ∧ (freeFrame s id).threads = s.threads ∧ (freeFrame s id).buffers = s.buffers ∧ (freeFrame s id).progs = s.progs ∧ (freeFrame s id).mod = s.mod ∧ (freeFrame s id).lost = s.lost ∧ (freeFrame s id).hbm = s.hbm ∧ (freeFrame s id).poison = s.poison ∧ (freeFrame s id).sampling = s.sampling ∧ (freeFrame s id).members = s.members ∧ (freeFrame s id).queues = s.queues ∧ (freeFrame s id).courses = s.courses := by
  simp only [freeFrame]
  (repeat' split) <;> simp [updatePause_frame, unstall_frame, foldl_jobs, foldl_threads, foldl_buffers, foldl_progs, foldl_mod, foldl_lost, foldl_hbm, foldl_poison, foldl_sampling, foldl_members, foldl_queues, foldl_courses]

@[simp] theorem dropCopy_frame (s : State) (id : Nat) (o : Nat × Nat) :
    (dropCopy s id o).jobs = s.jobs ∧ (dropCopy s id o).threads = s.threads ∧ (dropCopy s id o).buffers = s.buffers ∧ (dropCopy s id o).progs = s.progs ∧ (dropCopy s id o).mod = s.mod ∧ (dropCopy s id o).lost = s.lost ∧ (dropCopy s id o).hbm = s.hbm ∧ (dropCopy s id o).poison = s.poison ∧ (dropCopy s id o).sampling = s.sampling ∧ (dropCopy s id o).members = s.members ∧ (dropCopy s id o).queues = s.queues ∧ (dropCopy s id o).courses = s.courses := by
  simp only [dropCopy]
  (repeat' split) <;> simp [freeFrame_frame, foldl_jobs, foldl_threads, foldl_buffers, foldl_progs, foldl_mod, foldl_lost, foldl_hbm, foldl_poison, foldl_sampling, foldl_members, foldl_queues, foldl_courses]

@[simp] theorem unqueue_frame (s : State) (sl : Nat) (p : Nat) (sub : Nat) (c : Nat) (id : Nat) :
    (unqueue s sl p sub c id).jobs = s.jobs ∧ (unqueue s sl p sub c id).threads = s.threads ∧ (unqueue s sl p sub c id).buffers = s.buffers ∧ (unqueue s sl p sub c id).progs = s.progs ∧ (unqueue s sl p sub c id).mod = s.mod ∧ (unqueue s sl p sub c id).lost = s.lost ∧ (unqueue s sl p sub c id).hbm = s.hbm ∧ (unqueue s sl p sub c id).poison = s.poison ∧ (unqueue s sl p sub c id).sampling = s.sampling ∧ (unqueue s sl p sub c id).members = s.members ∧ (unqueue s sl p sub c id).queues = s.queues ∧ (unqueue s sl p sub c id).courses = s.courses := by
  simp only [unqueue]
  (repeat' split) <;> simp [putOut_frame, foldl_jobs, foldl_threads, foldl_buffers, foldl_progs, foldl_mod, foldl_lost, foldl_hbm, foldl_poison, foldl_sampling, foldl_members, foldl_queues, foldl_courses]

@[simp] theorem settleFrame_frame (s : State) (f : Frame) :
    (settleFrame s f).jobs = s.jobs ∧ (settleFrame s f).threads = s.threads ∧ (settleFrame s f).buffers = s.buffers ∧ (settleFrame s f).progs = s.progs ∧ (settleFrame s f).mod = s.mod ∧ (settleFrame s f).lost = s.lost ∧ (settleFrame s f).hbm = s.hbm ∧ (settleFrame s f).poison = s.poison ∧ (settleFrame s f).sampling = s.sampling ∧ (settleFrame s f).members = s.members ∧ (settleFrame s f).queues = s.queues ∧ (settleFrame s f).courses = s.courses := by
  simp only [settleFrame]
  (repeat' split) <;> simp [settleCopy_frame, foldl_jobs, foldl_threads, foldl_buffers, foldl_progs, foldl_mod, foldl_lost, foldl_hbm, foldl_poison, foldl_sampling, foldl_members, foldl_queues, foldl_courses]

@[simp] theorem discardFrame_frame (s : State) (id : Nat) :
    (discardFrame s id).jobs = s.jobs ∧ (discardFrame s id).threads = s.threads ∧ (discardFrame s id).buffers = s.buffers ∧ (discardFrame s id).progs = s.progs ∧ (discardFrame s id).mod = s.mod ∧ (discardFrame s id).lost = s.lost ∧ (discardFrame s id).hbm = s.hbm ∧ (discardFrame s id).poison = s.poison ∧ (discardFrame s id).sampling = s.sampling ∧ (discardFrame s id).members = s.members ∧ (discardFrame s id).queues = s.queues ∧ (discardFrame s id).courses = s.courses := by
  simp only [discardFrame]
  (repeat' split) <;> simp [freeFrame_frame, unqueue_frame, settleFrame_frame, foldl_jobs, foldl_threads, foldl_buffers, foldl_progs, foldl_mod, foldl_lost, foldl_hbm, foldl_poison, foldl_sampling, foldl_members, foldl_queues, foldl_courses]

@[simp] theorem sendRaw_frame (s : State) (d : OutDatagram) (job : Option Nat) :
    (sendRaw s d job).1.jobs = s.jobs ∧ (sendRaw s d job).1.threads = s.threads ∧ (sendRaw s d job).1.buffers = s.buffers ∧ (sendRaw s d job).1.progs = s.progs ∧ (sendRaw s d job).1.mod = s.mod ∧ (sendRaw s d job).1.lost = s.lost ∧ (sendRaw s d job).1.hbm = s.hbm ∧ (sendRaw s d job).1.poison = s.poison ∧ (sendRaw s d job).1.sampling = s.sampling ∧ (sendRaw s d job).1.members = s.members ∧ (sendRaw s d job).1.queues = s.queues ∧ (sendRaw s d job).1.courses = s.courses := by
  simp only [sendRaw]
  (repeat' split) <;> simp [admitInternal_frame, foldl_jobs, foldl_threads, foldl_buffers, foldl_progs, foldl_mod, foldl_lost, foldl_hbm, foldl_poison, foldl_sampling, foldl_members, foldl_queues, foldl_courses]

@[simp] theorem offerFirst_frame (s : State) (sl : Nat) (sp : Nat) (k : Nat) (inj : Bool) (detail : List Word) :
    (offerFirst s sl sp k inj detail).1.jobs = s.jobs ∧ (offerFirst s sl sp k inj detail).1.threads = s.threads ∧ (offerFirst s sl sp k inj detail).1.buffers = s.buffers ∧ (offerFirst s sl sp k inj detail).1.progs = s.progs ∧ (offerFirst s sl sp k inj detail).1.mod = s.mod ∧ (offerFirst s sl sp k inj detail).1.lost = s.lost ∧ (offerFirst s sl sp k inj detail).1.hbm = s.hbm ∧ (offerFirst s sl sp k inj detail).1.poison = s.poison ∧ (offerFirst s sl sp k inj detail).1.sampling = s.sampling ∧ (offerFirst s sl sp k inj detail).1.members = s.members ∧ (offerFirst s sl sp k inj detail).1.queues = s.queues ∧ (offerFirst s sl sp k inj detail).1.courses = s.courses := by
  simp only [offerFirst]
  (repeat' split) <;> simp [setF_frame, foldl_jobs, foldl_threads, foldl_buffers, foldl_progs, foldl_mod, foldl_lost, foldl_hbm, foldl_poison, foldl_sampling, foldl_members, foldl_queues, foldl_courses]

@[simp] theorem clearFirst_frame (s : State) (sl : Nat) (sp : Nat) :
    (clearFirst s sl sp).jobs = s.jobs ∧ (clearFirst s sl sp).threads = s.threads ∧ (clearFirst s sl sp).buffers = s.buffers ∧ (clearFirst s sl sp).progs = s.progs ∧ (clearFirst s sl sp).mod = s.mod ∧ (clearFirst s sl sp).lost = s.lost ∧ (clearFirst s sl sp).hbm = s.hbm ∧ (clearFirst s sl sp).poison = s.poison ∧ (clearFirst s sl sp).sampling = s.sampling ∧ (clearFirst s sl sp).members = s.members ∧ (clearFirst s sl sp).queues = s.queues ∧ (clearFirst s sl sp).courses = s.courses := by
  simp only [clearFirst]
  (repeat' split) <;> simp [putEntry_frame, setF_frame, foldl_jobs, foldl_threads, foldl_buffers, foldl_progs, foldl_mod, foldl_lost, foldl_hbm, foldl_poison, foldl_sampling, foldl_members, foldl_queues, foldl_courses]

@[simp] theorem pendEvent_frame (s : State) (sl : Nat) (e : Nat) :
    (pendEvent s sl e).1.jobs = s.jobs ∧ (pendEvent s sl e).1.threads = s.threads ∧ (pendEvent s sl e).1.buffers = s.buffers ∧ (pendEvent s sl e).1.progs = s.progs ∧ (pendEvent s sl e).1.mod = s.mod ∧ (pendEvent s sl e).1.lost = s.lost ∧ (pendEvent s sl e).1.hbm = s.hbm ∧ (pendEvent s sl e).1.poison = s.poison ∧ (pendEvent s sl e).1.sampling = s.sampling ∧ (pendEvent s sl e).1.members = s.members ∧ (pendEvent s sl e).1.queues = s.queues ∧ (pendEvent s sl e).1.courses = s.courses := by
  simp only [pendEvent]
  (repeat' split) <;> simp [setF_frame, bump_frame, foldl_jobs, foldl_threads, foldl_buffers, foldl_progs, foldl_mod, foldl_lost, foldl_hbm, foldl_poison, foldl_sampling, foldl_members, foldl_queues, foldl_courses]

@[simp] theorem forwardOne_frame (s : State) (sl : Nat) (i : Nat) (payload : Block) :
    (forwardOne s sl i payload).1.jobs = s.jobs ∧ (forwardOne s sl i payload).1.threads = s.threads ∧ (forwardOne s sl i payload).1.buffers = s.buffers ∧ (forwardOne s sl i payload).1.progs = s.progs ∧ (forwardOne s sl i payload).1.mod = s.mod ∧ (forwardOne s sl i payload).1.lost = s.lost ∧ (forwardOne s sl i payload).1.hbm = s.hbm ∧ (forwardOne s sl i payload).1.poison = s.poison ∧ (forwardOne s sl i payload).1.sampling = s.sampling ∧ (forwardOne s sl i payload).1.members = s.members ∧ (forwardOne s sl i payload).1.queues = s.queues ∧ (forwardOne s sl i payload).1.courses = s.courses := by
  simp only [forwardOne]
  refine ⟨?_, ?_, ?_, ?_, ?_, ?_, ?_, ?_, ?_, ?_, ?_, ?_⟩ <;> grind [bump_frame, sendRaw_frame]

theorem foldlP_field {α β γ : Type} (g : State → γ) (f : State × β → α → State × β) (l : List α) (s : State × β)
    (h : ∀ s a, g (f s a).1 = g s.1) : g (l.foldl f s).1 = g s.1 := by
  induction l generalizing s with
  | nil => rfl
  | cons a l ih => exact (ih _).trans (h _ _)

@[simp] theorem forward_frame (s : State) (sl : Nat) (e : Nat) (inj : Bool) (merged : Bool) (captured : Bool) :
    (forward s sl e inj merged captured).1.jobs = s.jobs ∧ (forward s sl e inj merged captured).1.threads = s.threads ∧ (forward s sl e inj merged captured).1.buffers = s.buffers ∧ (forward s sl e inj merged captured).1.progs = s.progs ∧ (forward s sl e inj merged captured).1.mod = s.mod ∧ (forward s sl e inj merged captured).1.lost = s.lost ∧ (forward s sl e inj merged captured).1.hbm = s.hbm ∧ (forward s sl e inj merged captured).1.poison = s.poison ∧ (forward s sl e inj merged captured).1.sampling = s.sampling ∧ (forward s sl e inj merged captured).1.members = s.members ∧ (forward s sl e inj merged captured).1.queues = s.queues ∧ (forward s sl e inj merged captured).1.courses = s.courses := by
  unfold forward
  refine ⟨?_, ?_, ?_, ?_, ?_, ?_, ?_, ?_, ?_, ?_, ?_, ?_⟩
  · exact foldlP_field State.jobs _ _ _ fun p i => by simp
  · exact foldlP_field State.threads _ _ _ fun p i => by simp
  · exact foldlP_field State.buffers _ _ _ fun p i => by simp
  · exact foldlP_field State.progs _ _ _ fun p i => by simp
  · exact foldlP_field State.mod _ _ _ fun p i => by simp
  · exact foldlP_field State.lost _ _ _ fun p i => by simp
  · exact foldlP_field State.hbm _ _ _ fun p i => by simp
  · exact foldlP_field State.poison _ _ _ fun p i => by simp
  · exact foldlP_field State.sampling _ _ _ fun p i => by simp
  · exact foldlP_field State.members _ _ _ fun p i => by simp
  · exact foldlP_field State.queues _ _ _ fun p i => by simp
  · exact foldlP_field State.courses _ _ _ fun p i => by simp

@[simp] theorem occur_frame (s : State) (sl : Nat) (e : Nat) (inj : Bool) (captured : Bool) :
    (occur s sl e inj captured).1.jobs = s.jobs ∧ (occur s sl e inj captured).1.threads = s.threads ∧ (occur s sl e inj captured).1.buffers = s.buffers ∧ (occur s sl e inj captured).1.progs = s.progs ∧ (occur s sl e inj captured).1.mod = s.mod ∧ (occur s sl e inj captured).1.lost = s.lost ∧ (occur s sl e inj captured).1.hbm = s.hbm ∧ (occur s sl e inj captured).1.poison = s.poison ∧ (occur s sl e inj captured).1.sampling = s.sampling ∧ (occur s sl e inj captured).1.members = s.members ∧ (occur s sl e inj captured).1.queues = s.queues ∧ (occur s sl e inj captured).1.courses = s.courses := by
  simp only [occur]
  (repeat' split) <;> simp [pendEvent_frame, forward_frame, foldl_jobs, foldl_threads, foldl_buffers, foldl_progs, foldl_mod, foldl_lost, foldl_hbm, foldl_poison, foldl_sampling, foldl_members, foldl_queues, foldl_courses]

@[simp] theorem pinRequest_frame (s : State) :
    (pinRequest s).jobs = s.jobs ∧ (pinRequest s).threads = s.threads ∧ (pinRequest s).buffers = s.buffers ∧ (pinRequest s).progs = s.progs ∧ (pinRequest s).mod = s.mod ∧ (pinRequest s).lost = s.lost ∧ (pinRequest s).hbm = s.hbm ∧ (pinRequest s).poison = s.poison ∧ (pinRequest s).sampling = s.sampling ∧ (pinRequest s).members = s.members ∧ (pinRequest s).queues = s.queues ∧ (pinRequest s).courses = s.courses := by
  simp only [pinRequest]
  (repeat' split) <;> simp [bump_frame, foldl_jobs, foldl_threads, foldl_buffers, foldl_progs, foldl_mod, foldl_lost, foldl_hbm, foldl_poison, foldl_sampling, foldl_members, foldl_queues, foldl_courses]

@[simp] theorem recordHit_frame (s : State) (sl : Nat) (sp : Nat) (k : Nat) (inj : Bool) (detail : List Word) :
    (recordHit s sl sp k inj detail).1.jobs = s.jobs ∧ (recordHit s sl sp k inj detail).1.threads = s.threads ∧ (recordHit s sl sp k inj detail).1.buffers = s.buffers ∧ (recordHit s sl sp k inj detail).1.progs = s.progs ∧ (recordHit s sl sp k inj detail).1.mod = s.mod ∧ (recordHit s sl sp k inj detail).1.lost = s.lost ∧ (recordHit s sl sp k inj detail).1.hbm = s.hbm ∧ (recordHit s sl sp k inj detail).1.poison = s.poison ∧ (recordHit s sl sp k inj detail).1.sampling = s.sampling ∧ (recordHit s sl sp k inj detail).1.members = s.members ∧ (recordHit s sl sp k inj detail).1.queues = s.queues ∧ (recordHit s sl sp k inj detail).1.courses = s.courses := by
  simp only [recordHit]
  refine ⟨?_, ?_, ?_, ?_, ?_, ?_, ?_, ?_, ?_, ?_, ?_, ?_⟩ <;> grind [setF_frame, bump_frame, offerFirst_frame, occur_frame, pinRequest_frame]

@[simp] theorem reportSpent_frame (x0 : Nat) (x1 : State) (x2 : List Nat) :
    (reportSpent x0 x1 x2).jobs = x1.jobs ∧ (reportSpent x0 x1 x2).threads = x1.threads ∧ (reportSpent x0 x1 x2).buffers = x1.buffers ∧ (reportSpent x0 x1 x2).progs = x1.progs ∧ (reportSpent x0 x1 x2).mod = x1.mod ∧ (reportSpent x0 x1 x2).lost = x1.lost ∧ (reportSpent x0 x1 x2).hbm = x1.hbm ∧ (reportSpent x0 x1 x2).poison = x1.poison ∧ (reportSpent x0 x1 x2).sampling = x1.sampling ∧ (reportSpent x0 x1 x2).members = x1.members ∧ (reportSpent x0 x1 x2).queues = x1.queues ∧ (reportSpent x0 x1 x2).courses = x1.courses := by
  induction x0 generalizing x1 x2 with
  | zero => simp [reportSpent]
  | succ k ih =>
    cases x2 with
    | nil => simp [reportSpent]
    | cons a l =>
      unfold reportSpent
      simpa using ih (recordHit x1 a (Ev.KEY_SPENT / 64) (Ev.KEY_SPENT % 64) false []).1 _

@[simp] theorem raiseWith_frame (s : State) (sl : Nat) (e : Nat) (inj : Bool) (captured : Bool) :
    (raiseWith s sl e inj captured).jobs = s.jobs ∧ (raiseWith s sl e inj captured).threads = s.threads ∧ (raiseWith s sl e inj captured).buffers = s.buffers ∧ (raiseWith s sl e inj captured).progs = s.progs ∧ (raiseWith s sl e inj captured).mod = s.mod ∧ (raiseWith s sl e inj captured).lost = s.lost ∧ (raiseWith s sl e inj captured).hbm = s.hbm ∧ (raiseWith s sl e inj captured).poison = s.poison ∧ (raiseWith s sl e inj captured).sampling = s.sampling ∧ (raiseWith s sl e inj captured).members = s.members ∧ (raiseWith s sl e inj captured).queues = s.queues ∧ (raiseWith s sl e inj captured).courses = s.courses := by
  simp only [raiseWith]
  (repeat' split) <;> simp [occur_frame, reportSpent_frame, foldl_jobs, foldl_threads, foldl_buffers, foldl_progs, foldl_mod, foldl_lost, foldl_hbm, foldl_poison, foldl_sampling, foldl_members, foldl_queues, foldl_courses]

@[simp] theorem raise_frame (s : State) (sl : Nat) (e : Nat) :
    (raise s sl e).jobs = s.jobs ∧ (raise s sl e).threads = s.threads ∧ (raise s sl e).buffers = s.buffers ∧ (raise s sl e).progs = s.progs ∧ (raise s sl e).mod = s.mod ∧ (raise s sl e).lost = s.lost ∧ (raise s sl e).hbm = s.hbm ∧ (raise s sl e).poison = s.poison ∧ (raise s sl e).sampling = s.sampling ∧ (raise s sl e).members = s.members ∧ (raise s sl e).queues = s.queues ∧ (raise s sl e).courses = s.courses := by
  simp only [raise]
  (repeat' split) <;> simp [raiseWith_frame, foldl_jobs, foldl_threads, foldl_buffers, foldl_progs, foldl_mod, foldl_lost, foldl_hbm, foldl_poison, foldl_sampling, foldl_members, foldl_queues, foldl_courses]

@[simp] theorem openShadow_frame (s : State) (kind : ShadowKind) (sl : Nat) (limitUs : Nat) :
    (openShadow s kind sl limitUs).jobs = s.jobs ∧ (openShadow s kind sl limitUs).threads = s.threads ∧ (openShadow s kind sl limitUs).buffers = s.buffers ∧ (openShadow s kind sl limitUs).progs = s.progs ∧ (openShadow s kind sl limitUs).mod = s.mod ∧ (openShadow s kind sl limitUs).lost = s.lost ∧ (openShadow s kind sl limitUs).hbm = s.hbm ∧ (openShadow s kind sl limitUs).poison = s.poison ∧ (openShadow s kind sl limitUs).sampling = s.sampling ∧ (openShadow s kind sl limitUs).members = s.members ∧ (openShadow s kind sl limitUs).queues = s.queues ∧ (openShadow s kind sl limitUs).courses = s.courses := by
  simp only [openShadow]
  (repeat' split) <;> simp [bump_frame, foldl_jobs, foldl_threads, foldl_buffers, foldl_progs, foldl_mod, foldl_lost, foldl_hbm, foldl_poison, foldl_sampling, foldl_members, foldl_queues, foldl_courses]

@[simp] theorem recordDet_frame (s : State) (sl : Nat) (sp : Nat) (k : Nat) (inj : Bool) (detail : List Word) :
    (recordDet s sl sp k inj detail).jobs = s.jobs ∧ (recordDet s sl sp k inj detail).threads = s.threads ∧ (recordDet s sl sp k inj detail).buffers = s.buffers ∧ (recordDet s sl sp k inj detail).progs = s.progs ∧ (recordDet s sl sp k inj detail).mod = s.mod ∧ (recordDet s sl sp k inj detail).lost = s.lost ∧ (recordDet s sl sp k inj detail).hbm = s.hbm ∧ (recordDet s sl sp k inj detail).poison = s.poison ∧ (recordDet s sl sp k inj detail).sampling = s.sampling ∧ (recordDet s sl sp k inj detail).members = s.members ∧ (recordDet s sl sp k inj detail).queues = s.queues ∧ (recordDet s sl sp k inj detail).courses = s.courses := by
  simp only [recordDet]
  (repeat' split) <;> simp [recordHit_frame, reportSpent_frame, foldl_jobs, foldl_threads, foldl_buffers, foldl_progs, foldl_mod, foldl_lost, foldl_hbm, foldl_poison, foldl_sampling, foldl_members, foldl_queues, foldl_courses]

@[simp] theorem detectAt_frame (s : State) (sl : Nat) (e : Nat) (arg : Nat) (detail : List Word) :
    (detectAt s sl e arg detail).jobs = s.jobs ∧ (detectAt s sl e arg detail).threads = s.threads ∧ (detectAt s sl e arg detail).buffers = s.buffers ∧ (detectAt s sl e arg detail).progs = s.progs ∧ (detectAt s sl e arg detail).mod = s.mod ∧ (detectAt s sl e arg detail).lost = s.lost ∧ (detectAt s sl e arg detail).hbm = s.hbm ∧ (detectAt s sl e arg detail).poison = s.poison ∧ (detectAt s sl e arg detail).sampling = s.sampling ∧ (detectAt s sl e arg detail).members = s.members ∧ (detectAt s sl e arg detail).queues = s.queues ∧ (detectAt s sl e arg detail).courses = s.courses := by
  simp only [detectAt]
  (repeat' split) <;> simp [bump_frame, recordDet_frame, foldl_jobs, foldl_threads, foldl_buffers, foldl_progs, foldl_mod, foldl_lost, foldl_hbm, foldl_poison, foldl_sampling, foldl_members, foldl_queues, foldl_courses]

@[simp] theorem detect_frame (s : State) (sl : Nat) (e : Nat) (detail : List Word) :
    (detect s sl e detail).jobs = s.jobs ∧ (detect s sl e detail).threads = s.threads ∧ (detect s sl e detail).buffers = s.buffers ∧ (detect s sl e detail).progs = s.progs ∧ (detect s sl e detail).mod = s.mod ∧ (detect s sl e detail).lost = s.lost ∧ (detect s sl e detail).hbm = s.hbm ∧ (detect s sl e detail).poison = s.poison ∧ (detect s sl e detail).sampling = s.sampling ∧ (detect s sl e detail).members = s.members ∧ (detect s sl e detail).queues = s.queues ∧ (detect s sl e detail).courses = s.courses := by
  simp only [detect]
  (repeat' split) <;> simp [detectAt_frame, foldl_jobs, foldl_threads, foldl_buffers, foldl_progs, foldl_mod, foldl_lost, foldl_hbm, foldl_poison, foldl_sampling, foldl_members, foldl_queues, foldl_courses]

@[simp] theorem addCounter_frame (s : State) (sl : Nat) (k : Nat) (inc : Nat) :
    (addCounter s sl k inc).jobs = s.jobs ∧ (addCounter s sl k inc).threads = s.threads ∧ (addCounter s sl k inc).buffers = s.buffers ∧ (addCounter s sl k inc).progs = s.progs ∧ (addCounter s sl k inc).mod = s.mod ∧ (addCounter s sl k inc).lost = s.lost ∧ (addCounter s sl k inc).hbm = s.hbm ∧ (addCounter s sl k inc).poison = s.poison ∧ (addCounter s sl k inc).sampling = s.sampling ∧ (addCounter s sl k inc).members = s.members ∧ (addCounter s sl k inc).queues = s.queues ∧ (addCounter s sl k inc).courses = s.courses := by
  simp only [addCounter]
  (repeat' split) <;> simp [setF_frame, raise_frame, foldl_jobs, foldl_threads, foldl_buffers, foldl_progs, foldl_mod, foldl_lost, foldl_hbm, foldl_poison, foldl_sampling, foldl_members, foldl_queues, foldl_courses]

@[simp] theorem countSrc_frame (s : State) (sl : Nat) (src : Nat) (v : Nat) :
    (countSrc s sl src v).jobs = s.jobs ∧ (countSrc s sl src v).threads = s.threads ∧ (countSrc s sl src v).buffers = s.buffers ∧ (countSrc s sl src v).progs = s.progs ∧ (countSrc s sl src v).mod = s.mod ∧ (countSrc s sl src v).lost = s.lost ∧ (countSrc s sl src v).hbm = s.hbm ∧ (countSrc s sl src v).poison = s.poison ∧ (countSrc s sl src v).sampling = s.sampling ∧ (countSrc s sl src v).members = s.members ∧ (countSrc s sl src v).queues = s.queues ∧ (countSrc s sl src v).courses = s.courses := by
  simp only [countSrc]
  split
  · exact ⟨rfl, rfl, rfl, rfl, rfl, rfl, rfl, rfl, rfl, rfl, rfl, rfl⟩
  refine ⟨?_, ?_, ?_, ?_, ?_, ?_, ?_, ?_, ?_, ?_, ?_, ?_⟩
  · rw [foldl_jobs]; intro t a; (repeat' split) <;> simp
  · rw [foldl_threads]; intro t a; (repeat' split) <;> simp
  · rw [foldl_buffers]; intro t a; (repeat' split) <;> simp
  · rw [foldl_progs]; intro t a; (repeat' split) <;> simp
  · rw [foldl_mod]; intro t a; (repeat' split) <;> simp
  · rw [foldl_lost]; intro t a; (repeat' split) <;> simp
  · rw [foldl_hbm]; intro t a; (repeat' split) <;> simp
  · rw [foldl_poison]; intro t a; (repeat' split) <;> simp
  · rw [foldl_sampling]; intro t a; (repeat' split) <;> simp
  · rw [foldl_members]; intro t a; (repeat' split) <;> simp
  · rw [foldl_queues]; intro t a; (repeat' split) <;> simp
  · rw [foldl_courses]; intro t a; (repeat' split) <;> simp

@[simp] theorem send_frame (s : State) (d : OutDatagram) (job : Option Nat) :
    (send s d job).jobs = s.jobs ∧ (send s d job).threads = s.threads ∧ (send s d job).buffers = s.buffers ∧ (send s d job).progs = s.progs ∧ (send s d job).mod = s.mod ∧ (send s d job).lost = s.lost ∧ (send s d job).hbm = s.hbm ∧ (send s d job).poison = s.poison ∧ (send s d job).sampling = s.sampling ∧ (send s d job).members = s.members ∧ (send s d job).queues = s.queues ∧ (send s d job).courses = s.courses := by
  simp only [send]
  (repeat' split) <;> simp [sendRaw_frame, detect_frame, foldl_jobs, foldl_threads, foldl_buffers, foldl_progs, foldl_mod, foldl_lost, foldl_hbm, foldl_poison, foldl_sampling, foldl_members, foldl_queues, foldl_courses]

@[simp] theorem dcTouch_frame (s : State) (sl : Nat) (e : Nat) (set : Nat) (w : Nat) :
    (dcTouch s sl e set w).jobs = s.jobs ∧ (dcTouch s sl e set w).threads = s.threads ∧ (dcTouch s sl e set w).buffers = s.buffers ∧ (dcTouch s sl e set w).progs = s.progs ∧ (dcTouch s sl e set w).mod = s.mod ∧ (dcTouch s sl e set w).lost = s.lost ∧ (dcTouch s sl e set w).hbm = s.hbm ∧ (dcTouch s sl e set w).poison = s.poison ∧ (dcTouch s sl e set w).sampling = s.sampling ∧ (dcTouch s sl e set w).members = s.members ∧ (dcTouch s sl e set w).queues = s.queues ∧ (dcTouch s sl e set w).courses = s.courses := by
  simp only [dcTouch]
  (repeat' split) <;> simp [foldl_jobs, foldl_threads, foldl_buffers, foldl_progs, foldl_mod, foldl_lost, foldl_hbm, foldl_poison, foldl_sampling, foldl_members, foldl_queues, foldl_courses]

@[simp] theorem snoop_frame (s : State) (mask : Nat) (line : Nat) (but : Option Nat) :
    (snoop s mask line but).jobs = s.jobs ∧ (snoop s mask line but).threads = s.threads ∧ (snoop s mask line but).buffers = s.buffers ∧ (snoop s mask line but).progs = s.progs ∧ (snoop s mask line but).mod = s.mod ∧ (snoop s mask line but).lost = s.lost ∧ (snoop s mask line but).hbm = s.hbm ∧ (snoop s mask line but).poison = s.poison ∧ (snoop s mask line but).sampling = s.sampling ∧ (snoop s mask line but).members = s.members ∧ (snoop s mask line but).queues = s.queues ∧ (snoop s mask line but).courses = s.courses := by
  simp only [snoop]
  (repeat' split) <;> simp [foldl_jobs, foldl_threads, foldl_buffers, foldl_progs, foldl_mod, foldl_lost, foldl_hbm, foldl_poison, foldl_sampling, foldl_members, foldl_queues, foldl_courses]

@[simp] theorem victimDrain_frame (s : State) (sl : Nat) :
    (victimDrain s sl).jobs = s.jobs ∧ (victimDrain s sl).threads = s.threads ∧ (victimDrain s sl).buffers = s.buffers ∧ (victimDrain s sl).progs = s.progs ∧ (victimDrain s sl).mod = s.mod ∧ (victimDrain s sl).lost = s.lost ∧ (victimDrain s sl).hbm = s.hbm ∧ (victimDrain s sl).poison = s.poison ∧ (victimDrain s sl).sampling = s.sampling ∧ (victimDrain s sl).members = s.members ∧ (victimDrain s sl).queues = s.queues ∧ (victimDrain s sl).courses = s.courses := by
  simp only [victimDrain]
  (repeat' split) <;> simp [countSrc_frame, foldl_jobs, foldl_threads, foldl_buffers, foldl_progs, foldl_mod, foldl_lost, foldl_hbm, foldl_poison, foldl_sampling, foldl_members, foldl_queues, foldl_courses]

@[simp] theorem toVictim_frame (s : State) (sl : Nat) (l : Line) :
    (toVictim s sl l).jobs = s.jobs ∧ (toVictim s sl l).threads = s.threads ∧ (toVictim s sl l).buffers = s.buffers ∧ (toVictim s sl l).progs = s.progs ∧ (toVictim s sl l).mod = s.mod ∧ (toVictim s sl l).lost = s.lost ∧ (toVictim s sl l).hbm = s.hbm ∧ (toVictim s sl l).poison = s.poison ∧ (toVictim s sl l).sampling = s.sampling ∧ (toVictim s sl l).members = s.members ∧ (toVictim s sl l).queues = s.queues ∧ (toVictim s sl l).courses = s.courses := by
  simp only [toVictim]
  (repeat' split) <;> simp [victimDrain_frame, foldl_jobs, foldl_threads, foldl_buffers, foldl_progs, foldl_mod, foldl_lost, foldl_hbm, foldl_poison, foldl_sampling, foldl_members, foldl_queues, foldl_courses]

@[simp] theorem scEvict_frame (s : State) (sl : Nat) (set : Nat) (way : Nat) :
    (scEvict s sl set way).jobs = s.jobs ∧ (scEvict s sl set way).threads = s.threads ∧ (scEvict s sl set way).buffers = s.buffers ∧ (scEvict s sl set way).progs = s.progs ∧ (scEvict s sl set way).mod = s.mod ∧ (scEvict s sl set way).lost = s.lost ∧ (scEvict s sl set way).hbm = s.hbm ∧ (scEvict s sl set way).poison = s.poison ∧ (scEvict s sl set way).sampling = s.sampling ∧ (scEvict s sl set way).members = s.members ∧ (scEvict s sl set way).queues = s.queues ∧ (scEvict s sl set way).courses = s.courses := by
  simp only [scEvict]
  (repeat' split) <;> simp [snoop_frame, toVictim_frame, foldl_jobs, foldl_threads, foldl_buffers, foldl_progs, foldl_mod, foldl_lost, foldl_hbm, foldl_poison, foldl_sampling, foldl_members, foldl_queues, foldl_courses]

@[simp] theorem scRoom_frame (s : State) (sl : Nat) (set : Nat) :
    (scRoom s sl set).1.jobs = s.jobs ∧ (scRoom s sl set).1.threads = s.threads ∧ (scRoom s sl set).1.buffers = s.buffers ∧ (scRoom s sl set).1.progs = s.progs ∧ (scRoom s sl set).1.mod = s.mod ∧ (scRoom s sl set).1.lost = s.lost ∧ (scRoom s sl set).1.hbm = s.hbm ∧ (scRoom s sl set).1.poison = s.poison ∧ (scRoom s sl set).1.sampling = s.sampling ∧ (scRoom s sl set).1.members = s.members ∧ (scRoom s sl set).1.queues = s.queues ∧ (scRoom s sl set).1.courses = s.courses := by
  simp only [scRoom]
  (repeat' split) <;> simp [scEvict_frame, foldl_jobs, foldl_threads, foldl_buffers, foldl_progs, foldl_mod, foldl_lost, foldl_hbm, foldl_poison, foldl_sampling, foldl_members, foldl_queues, foldl_courses]

@[simp] theorem homeAccess_frame (s : State) (sl : Nat) (x : Nat) (write : Bool) (from_ : Option Nat) (but : Option Nat) :
    (homeAccess s sl x write from_ but).jobs = s.jobs ∧ (homeAccess s sl x write from_ but).threads = s.threads ∧ (homeAccess s sl x write from_ but).buffers = s.buffers ∧ (homeAccess s sl x write from_ but).progs = s.progs ∧ (homeAccess s sl x write from_ but).mod = s.mod ∧ (homeAccess s sl x write from_ but).lost = s.lost ∧ (homeAccess s sl x write from_ but).hbm = s.hbm ∧ (homeAccess s sl x write from_ but).poison = s.poison ∧ (homeAccess s sl x write from_ but).sampling = s.sampling ∧ (homeAccess s sl x write from_ but).members = s.members ∧ (homeAccess s sl x write from_ but).queues = s.queues ∧ (homeAccess s sl x write from_ but).courses = s.courses := by
  simp only [homeAccess]
  (repeat' split) <;> simp [countSrc_frame, snoop_frame, scRoom_frame, foldl_jobs, foldl_threads, foldl_buffers, foldl_progs, foldl_mod, foldl_lost, foldl_hbm, foldl_poison, foldl_sampling, foldl_members, foldl_queues, foldl_courses]

@[simp] theorem engineRead_frame (s : State) (sl : Nat) (e : Nat) (a : Nat) :
    (engineRead s sl e a).jobs = s.jobs ∧ (engineRead s sl e a).threads = s.threads ∧ (engineRead s sl e a).buffers = s.buffers ∧ (engineRead s sl e a).progs = s.progs ∧ (engineRead s sl e a).mod = s.mod ∧ (engineRead s sl e a).lost = s.lost ∧ (engineRead s sl e a).hbm = s.hbm ∧ (engineRead s sl e a).poison = s.poison ∧ (engineRead s sl e a).sampling = s.sampling ∧ (engineRead s sl e a).members = s.members ∧ (engineRead s sl e a).queues = s.queues ∧ (engineRead s sl e a).courses = s.courses := by
  simp only [engineRead]
  (repeat' split) <;> simp [countSrc_frame, dcTouch_frame, homeAccess_frame, foldl_jobs, foldl_threads, foldl_buffers, foldl_progs, foldl_mod, foldl_lost, foldl_hbm, foldl_poison, foldl_sampling, foldl_members, foldl_queues, foldl_courses]

@[simp] theorem engineWrite_frame (s : State) (sl : Nat) (e : Nat) (a : Nat) :
    (engineWrite s sl e a).jobs = s.jobs ∧ (engineWrite s sl e a).threads = s.threads ∧ (engineWrite s sl e a).buffers = s.buffers ∧ (engineWrite s sl e a).progs = s.progs ∧ (engineWrite s sl e a).mod = s.mod ∧ (engineWrite s sl e a).lost = s.lost ∧ (engineWrite s sl e a).hbm = s.hbm ∧ (engineWrite s sl e a).poison = s.poison ∧ (engineWrite s sl e a).sampling = s.sampling ∧ (engineWrite s sl e a).members = s.members ∧ (engineWrite s sl e a).queues = s.queues ∧ (engineWrite s sl e a).courses = s.courses := by
  simp only [engineWrite]
  (repeat' split) <;> simp [dcTouch_frame, homeAccess_frame, foldl_jobs, foldl_threads, foldl_buffers, foldl_progs, foldl_mod, foldl_lost, foldl_hbm, foldl_poison, foldl_sampling, foldl_members, foldl_queues, foldl_courses]

@[simp] theorem atomicAccess_frame (s : State) (a : Nat) :
    (atomicAccess s a).jobs = s.jobs ∧ (atomicAccess s a).threads = s.threads ∧ (atomicAccess s a).buffers = s.buffers ∧ (atomicAccess s a).progs = s.progs ∧ (atomicAccess s a).mod = s.mod ∧ (atomicAccess s a).lost = s.lost ∧ (atomicAccess s a).hbm = s.hbm ∧ (atomicAccess s a).poison = s.poison ∧ (atomicAccess s a).sampling = s.sampling ∧ (atomicAccess s a).members = s.members ∧ (atomicAccess s a).queues = s.queues ∧ (atomicAccess s a).courses = s.courses := by
  simp only [atomicAccess]
  (repeat' split) <;> simp [homeAccess_frame, foldl_jobs, foldl_threads, foldl_buffers, foldl_progs, foldl_mod, foldl_lost, foldl_hbm, foldl_poison, foldl_sampling, foldl_members, foldl_queues, foldl_courses]

@[simp] theorem countIcMiss_frame (s : State) (sl : Nat) (miss : Bool) :
    (countIcMiss s sl miss).jobs = s.jobs ∧ (countIcMiss s sl miss).threads = s.threads ∧ (countIcMiss s sl miss).buffers = s.buffers ∧ (countIcMiss s sl miss).progs = s.progs ∧ (countIcMiss s sl miss).mod = s.mod ∧ (countIcMiss s sl miss).lost = s.lost ∧ (countIcMiss s sl miss).hbm = s.hbm ∧ (countIcMiss s sl miss).poison = s.poison ∧ (countIcMiss s sl miss).sampling = s.sampling ∧ (countIcMiss s sl miss).members = s.members ∧ (countIcMiss s sl miss).queues = s.queues ∧ (countIcMiss s sl miss).courses = s.courses := by
  unfold countIcMiss
  refine ⟨?_, ?_, ?_, ?_, ?_, ?_, ?_, ?_, ?_, ?_, ?_, ?_⟩
  · rw [foldl_jobs]; intro t a; (repeat' split) <;> simp
  · rw [foldl_threads]; intro t a; (repeat' split) <;> simp
  · rw [foldl_buffers]; intro t a; (repeat' split) <;> simp
  · rw [foldl_progs]; intro t a; (repeat' split) <;> simp
  · rw [foldl_mod]; intro t a; (repeat' split) <;> simp
  · rw [foldl_lost]; intro t a; (repeat' split) <;> simp
  · rw [foldl_hbm]; intro t a; (repeat' split) <;> simp
  · rw [foldl_poison]; intro t a; (repeat' split) <;> simp
  · rw [foldl_sampling]; intro t a; (repeat' split) <;> simp
  · rw [foldl_members]; intro t a; (repeat' split) <;> simp
  · rw [foldl_queues]; intro t a; (repeat' split) <;> simp
  · rw [foldl_courses]; intro t a; (repeat' split) <;> simp

@[simp] theorem icFetch_frame (s : State) (sl : Nat) (e : Nat) (prog : Nat) (w : Nat) (look : Bool) :
    (icFetch s sl e prog w look).jobs = s.jobs ∧ (icFetch s sl e prog w look).threads = s.threads ∧ (icFetch s sl e prog w look).buffers = s.buffers ∧ (icFetch s sl e prog w look).progs = s.progs ∧ (icFetch s sl e prog w look).mod = s.mod ∧ (icFetch s sl e prog w look).lost = s.lost ∧ (icFetch s sl e prog w look).hbm = s.hbm ∧ (icFetch s sl e prog w look).poison = s.poison ∧ (icFetch s sl e prog w look).sampling = s.sampling ∧ (icFetch s sl e prog w look).members = s.members ∧ (icFetch s sl e prog w look).queues = s.queues ∧ (icFetch s sl e prog w look).courses = s.courses := by
  simp only [icFetch]
  (repeat' split) <;> simp [countIcMiss_frame, foldl_jobs, foldl_threads, foldl_buffers, foldl_progs, foldl_mod, foldl_lost, foldl_hbm, foldl_poison, foldl_sampling, foldl_members, foldl_queues, foldl_courses]

@[simp] theorem icFlush_frame (s : State) (sl : Nat) :
    (icFlush s sl).jobs = s.jobs ∧ (icFlush s sl).threads = s.threads ∧ (icFlush s sl).buffers = s.buffers ∧ (icFlush s sl).progs = s.progs ∧ (icFlush s sl).mod = s.mod ∧ (icFlush s sl).lost = s.lost ∧ (icFlush s sl).hbm = s.hbm ∧ (icFlush s sl).poison = s.poison ∧ (icFlush s sl).sampling = s.sampling ∧ (icFlush s sl).members = s.members ∧ (icFlush s sl).queues = s.queues ∧ (icFlush s sl).courses = s.courses := by
  simp only [icFlush]
  (repeat' split) <;> simp [foldl_jobs, foldl_threads, foldl_buffers, foldl_progs, foldl_mod, foldl_lost, foldl_hbm, foldl_poison, foldl_sampling, foldl_members, foldl_queues, foldl_courses]

@[simp] theorem dcFlushEngine_frame (s : State) (sl : Nat) (e : Nat) :
    (dcFlushEngine s sl e).jobs = s.jobs ∧ (dcFlushEngine s sl e).threads = s.threads ∧ (dcFlushEngine s sl e).buffers = s.buffers ∧ (dcFlushEngine s sl e).progs = s.progs ∧ (dcFlushEngine s sl e).mod = s.mod ∧ (dcFlushEngine s sl e).lost = s.lost ∧ (dcFlushEngine s sl e).hbm = s.hbm ∧ (dcFlushEngine s sl e).poison = s.poison ∧ (dcFlushEngine s sl e).sampling = s.sampling ∧ (dcFlushEngine s sl e).members = s.members ∧ (dcFlushEngine s sl e).queues = s.queues ∧ (dcFlushEngine s sl e).courses = s.courses := by
  simp only [dcFlushEngine]
  (repeat' split) <;> simp [foldl_jobs, foldl_threads, foldl_buffers, foldl_progs, foldl_mod, foldl_lost, foldl_hbm, foldl_poison, foldl_sampling, foldl_members, foldl_queues, foldl_courses]

@[simp] theorem dcFlush_frame (s : State) (sl : Nat) :
    (dcFlush s sl).jobs = s.jobs ∧ (dcFlush s sl).threads = s.threads ∧ (dcFlush s sl).buffers = s.buffers ∧ (dcFlush s sl).progs = s.progs ∧ (dcFlush s sl).mod = s.mod ∧ (dcFlush s sl).lost = s.lost ∧ (dcFlush s sl).hbm = s.hbm ∧ (dcFlush s sl).poison = s.poison ∧ (dcFlush s sl).sampling = s.sampling ∧ (dcFlush s sl).members = s.members ∧ (dcFlush s sl).queues = s.queues ∧ (dcFlush s sl).courses = s.courses := by
  simp only [dcFlush]
  (repeat' split) <;> simp [foldl_jobs, foldl_threads, foldl_buffers, foldl_progs, foldl_mod, foldl_lost, foldl_hbm, foldl_poison, foldl_sampling, foldl_members, foldl_queues, foldl_courses]

@[simp] theorem scFlushWay_frame (s : State) (sl : Nat) (w : Nat) :
    (scFlushWay s sl w).jobs = s.jobs ∧ (scFlushWay s sl w).threads = s.threads ∧ (scFlushWay s sl w).buffers = s.buffers ∧ (scFlushWay s sl w).progs = s.progs ∧ (scFlushWay s sl w).mod = s.mod ∧ (scFlushWay s sl w).lost = s.lost ∧ (scFlushWay s sl w).hbm = s.hbm ∧ (scFlushWay s sl w).poison = s.poison ∧ (scFlushWay s sl w).sampling = s.sampling ∧ (scFlushWay s sl w).members = s.members ∧ (scFlushWay s sl w).queues = s.queues ∧ (scFlushWay s sl w).courses = s.courses := by
  simp only [scFlushWay]
  (repeat' split) <;> simp [scEvict_frame, foldl_jobs, foldl_threads, foldl_buffers, foldl_progs, foldl_mod, foldl_lost, foldl_hbm, foldl_poison, foldl_sampling, foldl_members, foldl_queues, foldl_courses]

@[simp] theorem scSweep_frame (s : State) (sl : Nat) :
    (scSweep s sl).jobs = s.jobs ∧ (scSweep s sl).threads = s.threads ∧ (scSweep s sl).buffers = s.buffers ∧ (scSweep s sl).progs = s.progs ∧ (scSweep s sl).mod = s.mod ∧ (scSweep s sl).lost = s.lost ∧ (scSweep s sl).hbm = s.hbm ∧ (scSweep s sl).poison = s.poison ∧ (scSweep s sl).sampling = s.sampling ∧ (scSweep s sl).members = s.members ∧ (scSweep s sl).queues = s.queues ∧ (scSweep s sl).courses = s.courses := by
  simp only [scSweep]
  (repeat' split) <;> simp [scEvict_frame, foldl_jobs, foldl_threads, foldl_buffers, foldl_progs, foldl_mod, foldl_lost, foldl_hbm, foldl_poison, foldl_sampling, foldl_members, foldl_queues, foldl_courses]

@[simp] theorem consumePoison_frame (s : State) (sl : Nat) (a : Nat) (slot : Nat) (thread : Nat) :
    (consumePoison s sl a slot thread).jobs = s.jobs ∧ (consumePoison s sl a slot thread).threads = s.threads ∧ (consumePoison s sl a slot thread).buffers = s.buffers ∧ (consumePoison s sl a slot thread).progs = s.progs ∧ (consumePoison s sl a slot thread).mod = s.mod ∧ (consumePoison s sl a slot thread).lost = s.lost ∧ (consumePoison s sl a slot thread).hbm = s.hbm ∧ (consumePoison s sl a slot thread).poison = s.poison ∧ (consumePoison s sl a slot thread).sampling = s.sampling ∧ (consumePoison s sl a slot thread).members = s.members ∧ (consumePoison s sl a slot thread).queues = s.queues ∧ (consumePoison s sl a slot thread).courses = s.courses := by
  simp only [consumePoison]
  (repeat' split) <;> simp [bump_frame, detect_frame, foldl_jobs, foldl_threads, foldl_buffers, foldl_progs, foldl_mod, foldl_lost, foldl_hbm, foldl_poison, foldl_sampling, foldl_members, foldl_queues, foldl_courses]

@[simp] theorem homeWrite_frame (s : State) (a : Nat) (b : Block) :
    (homeWrite s a b).jobs = s.jobs ∧ (homeWrite s a b).threads = s.threads ∧ (homeWrite s a b).buffers = s.buffers ∧ (homeWrite s a b).progs = s.progs ∧ (homeWrite s a b).mod = s.mod ∧ (homeWrite s a b).lost = s.lost ∧ (homeWrite s a b).sampling = s.sampling ∧ (homeWrite s a b).members = s.members ∧ (homeWrite s a b).queues = s.queues ∧ (homeWrite s a b).courses = s.courses := by
  simp only [homeWrite]
  (repeat' split) <;> simp [hbmWrite_frame, homeAccess_frame, foldl_jobs, foldl_threads, foldl_buffers, foldl_progs, foldl_mod, foldl_lost, foldl_sampling, foldl_members, foldl_queues, foldl_courses]

@[simp] theorem ringPut_frame (s : State) (sl : Nat) (r : Ring) (half : Nat) (b : Block) :
    (ringPut s sl r half b).jobs = s.jobs ∧ (ringPut s sl r half b).threads = s.threads ∧ (ringPut s sl r half b).buffers = s.buffers ∧ (ringPut s sl r half b).progs = s.progs ∧ (ringPut s sl r half b).mod = s.mod ∧ (ringPut s sl r half b).lost = s.lost ∧ (ringPut s sl r half b).sampling = s.sampling ∧ (ringPut s sl r half b).members = s.members ∧ (ringPut s sl r half b).queues = s.queues ∧ (ringPut s sl r half b).courses = s.courses := by
  simp only [ringPut]
  (repeat' split) <;> simp [bump_frame, raise_frame, homeWrite_frame, foldl_jobs, foldl_threads, foldl_buffers, foldl_progs, foldl_mod, foldl_lost, foldl_sampling, foldl_members, foldl_queues, foldl_courses]

@[simp] theorem putSampling_frame (s : State) (sl : Nat) (x : Sampling) :
    (putSampling s sl x).jobs = s.jobs ∧ (putSampling s sl x).threads = s.threads ∧ (putSampling s sl x).buffers = s.buffers ∧ (putSampling s sl x).progs = s.progs ∧ (putSampling s sl x).mod = s.mod ∧ (putSampling s sl x).lost = s.lost ∧ (putSampling s sl x).hbm = s.hbm ∧ (putSampling s sl x).poison = s.poison ∧ (putSampling s sl x).members = s.members ∧ (putSampling s sl x).queues = s.queues ∧ (putSampling s sl x).courses = s.courses := by
  simp only [putSampling]
  (repeat' split) <;> simp [foldl_jobs, foldl_threads, foldl_buffers, foldl_progs, foldl_mod, foldl_lost, foldl_hbm, foldl_poison, foldl_members, foldl_queues, foldl_courses]

@[simp] theorem countInsn_frame (s : State) (sl : Nat) (hk : Bool) :
    (countInsn s sl hk).jobs = s.jobs ∧ (countInsn s sl hk).threads = s.threads ∧ (countInsn s sl hk).buffers = s.buffers ∧ (countInsn s sl hk).progs = s.progs ∧ (countInsn s sl hk).mod = s.mod ∧ (countInsn s sl hk).lost = s.lost ∧ (countInsn s sl hk).hbm = s.hbm ∧ (countInsn s sl hk).poison = s.poison ∧ (countInsn s sl hk).members = s.members ∧ (countInsn s sl hk).queues = s.queues ∧ (countInsn s sl hk).courses = s.courses := by
  simp only [countInsn]
  (repeat' split) <;> simp [countSrc_frame, putSampling_frame, foldl_jobs, foldl_threads, foldl_buffers, foldl_progs, foldl_mod, foldl_lost, foldl_hbm, foldl_poison, foldl_members, foldl_queues, foldl_courses]

@[simp] theorem countStall_frame (s : State) (sl : Nat) (w : InsnWord) :
    (countStall s sl w).jobs = s.jobs ∧ (countStall s sl w).threads = s.threads ∧ (countStall s sl w).buffers = s.buffers ∧ (countStall s sl w).progs = s.progs ∧ (countStall s sl w).mod = s.mod ∧ (countStall s sl w).lost = s.lost ∧ (countStall s sl w).hbm = s.hbm ∧ (countStall s sl w).poison = s.poison ∧ (countStall s sl w).sampling = s.sampling ∧ (countStall s sl w).members = s.members ∧ (countStall s sl w).queues = s.queues ∧ (countStall s sl w).courses = s.courses := by
  simp only [countStall]
  (repeat' split) <;> simp [takeFree_frame, countSrc_frame, foldl_jobs, foldl_threads, foldl_buffers, foldl_progs, foldl_mod, foldl_lost, foldl_hbm, foldl_poison, foldl_sampling, foldl_members, foldl_queues, foldl_courses]

@[simp] theorem settleSample_frame (s : State) (sl : Nat) (job : Nat) (outcome : Nat) (status : Nat) (slot : Nat) (keep : Bool) (hk : Bool) (jid : Word) :
    (settleSample s sl job outcome status slot keep hk jid).jobs = s.jobs ∧ (settleSample s sl job outcome status slot keep hk jid).threads = s.threads ∧ (settleSample s sl job outcome status slot keep hk jid).buffers = s.buffers ∧ (settleSample s sl job outcome status slot keep hk jid).progs = s.progs ∧ (settleSample s sl job outcome status slot keep hk jid).mod = s.mod ∧ (settleSample s sl job outcome status slot keep hk jid).lost = s.lost ∧ (settleSample s sl job outcome status slot keep hk jid).members = s.members ∧ (settleSample s sl job outcome status slot keep hk jid).queues = s.queues ∧ (settleSample s sl job outcome status slot keep hk jid).courses = s.courses := by
  simp only [settleSample]
  (repeat' split) <;> simp [takeFree_frame, bump_frame, detect_frame, ringPut_frame, putSampling_frame, foldl_jobs, foldl_threads, foldl_buffers, foldl_progs, foldl_mod, foldl_lost, foldl_members, foldl_queues, foldl_courses]

end Sys2Proof.Machine
end

