-- ==== Sys2Proof/Laws/State.lean ====
section
/-! SUPPORT. The state after each named update, field by field, so that no proof unfolds one. -/

namespace Sys2Proof.Machine

/-! ### `setF` -/

@[simp] theorem setF_n (s : State) (sl : Nat) (f : Fld) (v : Nat) : (setF s sl f v).n = s.n := Eq.trans rfl rfl
@[simp] theorem setF_tb (s : State) (sl : Nat) (f : Fld) (v : Nat) : (setF s sl f v).tb = s.tb := Eq.trans rfl rfl
@[simp] theorem setF_lost (s : State) (sl : Nat) (f : Fld) (v : Nat) : (setF s sl f v).lost = s.lost := Eq.trans rfl rfl
@[simp] theorem setF_lastLost (s : State) (sl : Nat) (f : Fld) (v : Nat) : (setF s sl f v).lastLost = s.lastLost := Eq.trans rfl rfl
@[simp] theorem setF_ptrs (s : State) (sl : Nat) (f : Fld) (v : Nat) : (setF s sl f v).ptrs = s.ptrs := Eq.trans rfl rfl
@[simp] theorem setF_jobs (s : State) (sl : Nat) (f : Fld) (v : Nat) : (setF s sl f v).jobs = s.jobs := Eq.trans rfl rfl
@[simp] theorem setF_nextJob (s : State) (sl : Nat) (f : Fld) (v : Nat) : (setF s sl f v).nextJob = s.nextJob := Eq.trans rfl rfl
@[simp] theorem setF_buffers (s : State) (sl : Nat) (f : Fld) (v : Nat) : (setF s sl f v).buffers = s.buffers := Eq.trans rfl rfl
@[simp] theorem setF_nextBuf (s : State) (sl : Nat) (f : Fld) (v : Nat) : (setF s sl f v).nextBuf = s.nextBuf := Eq.trans rfl rfl
@[simp] theorem setF_threads (s : State) (sl : Nat) (f : Fld) (v : Nat) : (setF s sl f v).threads = s.threads := Eq.trans rfl rfl
@[simp] theorem setF_hkRestart (s : State) (sl : Nat) (f : Fld) (v : Nat) : (setF s sl f v).hkRestart = s.hkRestart := Eq.trans rfl rfl
@[simp] theorem setF_dispatchQ (s : State) (sl : Nat) (f : Fld) (v : Nat) : (setF s sl f v).dispatchQ = s.dispatchQ := Eq.trans rfl rfl
@[simp] theorem setF_resumeQ (s : State) (sl : Nat) (f : Fld) (v : Nat) : (setF s sl f v).resumeQ = s.resumeQ := Eq.trans rfl rfl
@[simp] theorem setF_progs (s : State) (sl : Nat) (f : Fld) (v : Nat) : (setF s sl f v).progs = s.progs := Eq.trans rfl rfl
@[simp] theorem setF_nextProg (s : State) (sl : Nat) (f : Fld) (v : Nat) : (setF s sl f v).nextProg = s.nextProg := Eq.trans rfl rfl
@[simp] theorem setF_slots (s : State) (sl : Nat) (f : Fld) (v : Nat) : (setF s sl f v).slots = s.slots := Eq.trans rfl rfl
@[simp] theorem setF_cutover (s : State) (sl : Nat) (f : Fld) (v : Nat) : (setF s sl f v).cutover = s.cutover := Eq.trans rfl rfl
@[simp] theorem setF_evPend (s : State) (sl : Nat) (f : Fld) (v : Nat) : (setF s sl f v).evPend = s.evPend := Eq.trans rfl rfl
@[simp] theorem setF_hbm (s : State) (sl : Nat) (f : Fld) (v : Nat) : (setF s sl f v).hbm = s.hbm := Eq.trans rfl rfl
@[simp] theorem setF_poison (s : State) (sl : Nat) (f : Fld) (v : Nat) : (setF s sl f v).poison = s.poison := Eq.trans rfl rfl
@[simp] theorem setF_keys (s : State) (sl : Nat) (f : Fld) (v : Nat) : (setF s sl f v).keys = s.keys := Eq.trans rfl rfl
@[simp] theorem setF_keySeq (s : State) (sl : Nat) (f : Fld) (v : Nat) : (setF s sl f v).keySeq = s.keySeq := Eq.trans rfl rfl
@[simp] theorem setF_stage (s : State) (sl : Nat) (f : Fld) (v : Nat) : (setF s sl f v).stage = s.stage := Eq.trans rfl rfl
@[simp] theorem setF_queues (s : State) (sl : Nat) (f : Fld) (v : Nat) : (setF s sl f v).queues = s.queues := Eq.trans rfl rfl
@[simp] theorem setF_hazards (s : State) (sl : Nat) (f : Fld) (v : Nat) : (setF s sl f v).hazards = s.hazards := Eq.trans rfl rfl
@[simp] theorem setF_hazPast (s : State) (sl : Nat) (f : Fld) (v : Nat) : (setF s sl f v).hazPast = s.hazPast := Eq.trans rfl rfl
@[simp] theorem setF_hazSeq (s : State) (sl : Nat) (f : Fld) (v : Nat) : (setF s sl f v).hazSeq = s.hazSeq := Eq.trans rfl rfl
@[simp] theorem setF_ctxRef (s : State) (sl : Nat) (f : Fld) (v : Nat) : (setF s sl f v).ctxRef = s.ctxRef := Eq.trans rfl rfl
@[simp] theorem setF_park (s : State) (sl : Nat) (f : Fld) (v : Nat) : (setF s sl f v).park = s.park := Eq.trans rfl rfl
@[simp] theorem setF_heldDg (s : State) (sl : Nat) (f : Fld) (v : Nat) : (setF s sl f v).heldDg = s.heldDg := Eq.trans rfl rfl
@[simp] theorem setF_bufWait (s : State) (sl : Nat) (f : Fld) (v : Nat) : (setF s sl f v).bufWait = s.bufWait := Eq.trans rfl rfl
@[simp] theorem setF_fetching (s : State) (sl : Nat) (f : Fld) (v : Nat) : (setF s sl f v).fetching = s.fetching := Eq.trans rfl rfl
@[simp] theorem setF_evFwd (s : State) (sl : Nat) (f : Fld) (v : Nat) : (setF s sl f v).evFwd = s.evFwd := Eq.trans rfl rfl
@[simp] theorem setF_ready (s : State) (sl : Nat) (f : Fld) (v : Nat) : (setF s sl f v).ready = s.ready := Eq.trans rfl rfl
@[simp] theorem setF_pauseBoot (s : State) (sl : Nat) (f : Fld) (v : Nat) : (setF s sl f v).pauseBoot = s.pauseBoot := Eq.trans rfl rfl
@[simp] theorem setF_pausePark (s : State) (sl : Nat) (f : Fld) (v : Nat) : (setF s sl f v).pausePark = s.pausePark := Eq.trans rfl rfl
@[simp] theorem setF_pauseBuf (s : State) (sl : Nat) (f : Fld) (v : Nat) : (setF s sl f v).pauseBuf = s.pauseBuf := Eq.trans rfl rfl
@[simp] theorem setF_pauseAt (s : State) (sl : Nat) (f : Fld) (v : Nat) : (setF s sl f v).pauseAt = s.pauseAt := Eq.trans rfl rfl
@[simp] theorem setF_peerPause (s : State) (sl : Nat) (f : Fld) (v : Nat) : (setF s sl f v).peerPause = s.peerPause := Eq.trans rfl rfl
@[simp] theorem setF_ptpSync (s : State) (sl : Nat) (f : Fld) (v : Nat) : (setF s sl f v).ptpSync = s.ptpSync := Eq.trans rfl rfl
@[simp] theorem setF_slew (s : State) (sl : Nat) (f : Fld) (v : Nat) : (setF s sl f v).slew = s.slew := Eq.trans rfl rfl
@[simp] theorem setF_slewPhase (s : State) (sl : Nat) (f : Fld) (v : Nat) : (setF s sl f v).slewPhase = s.slewPhase := Eq.trans rfl rfl
@[simp] theorem setF_tbStepped (s : State) (sl : Nat) (f : Fld) (v : Nat) : (setF s sl f v).tbStepped = s.tbStepped := Eq.trans rfl rfl
@[simp] theorem setF_wire (s : State) (sl : Nat) (f : Fld) (v : Nat) : (setF s sl f v).wire = s.wire := Eq.trans rfl rfl
@[simp] theorem setF_layout (s : State) (sl : Nat) (f : Fld) (v : Nat) : (setF s sl f v).layout = s.layout := Eq.trans rfl rfl
@[simp] theorem setF_volumes (s : State) (sl : Nat) (f : Fld) (v : Nat) : (setF s sl f v).volumes = s.volumes := Eq.trans rfl rfl
@[simp] theorem setF_map (s : State) (sl : Nat) (f : Fld) (v : Nat) : (setF s sl f v).map = s.map := Eq.trans rfl rfl
@[simp] theorem setF_leaves (s : State) (sl : Nat) (f : Fld) (v : Nat) : (setF s sl f v).leaves = s.leaves := Eq.trans rfl rfl
@[simp] theorem setF_courses (s : State) (sl : Nat) (f : Fld) (v : Nat) : (setF s sl f v).courses = s.courses := Eq.trans rfl rfl
@[simp] theorem setF_repourWait (s : State) (sl : Nat) (f : Fld) (v : Nat) : (setF s sl f v).repourWait = s.repourWait := Eq.trans rfl rfl
@[simp] theorem setF_leads (s : State) (sl : Nat) (f : Fld) (v : Nat) : (setF s sl f v).leads = s.leads := Eq.trans rfl rfl
@[simp] theorem setF_lastOrd (s : State) (sl : Nat) (f : Fld) (v : Nat) : (setF s sl f v).lastOrd = s.lastOrd := Eq.trans rfl rfl
@[simp] theorem setF_reclaiming (s : State) (sl : Nat) (f : Fld) (v : Nat) : (setF s sl f v).reclaiming = s.reclaiming := Eq.trans rfl rfl
@[simp] theorem setF_pours (s : State) (sl : Nat) (f : Fld) (v : Nat) : (setF s sl f v).pours = s.pours := Eq.trans rfl rfl
@[simp] theorem setF_poursRecl (s : State) (sl : Nat) (f : Fld) (v : Nat) : (setF s sl f v).poursRecl = s.poursRecl := Eq.trans rfl rfl
@[simp] theorem setF_spaceLow (s : State) (sl : Nat) (f : Fld) (v : Nat) : (setF s sl f v).spaceLow = s.spaceLow := Eq.trans rfl rfl
@[simp] theorem setF_flashDir (s : State) (sl : Nat) (f : Fld) (v : Nat) : (setF s sl f v).flashDir = s.flashDir := Eq.trans rfl rfl
@[simp] theorem setF_media (s : State) (sl : Nat) (f : Fld) (v : Nat) : (setF s sl f v).media = s.media := Eq.trans rfl rfl
@[simp] theorem setF_owners (s : State) (sl : Nat) (f : Fld) (v : Nat) : (setF s sl f v).owners = s.owners := Eq.trans rfl rfl
@[simp] theorem setF_standin (s : State) (sl : Nat) (f : Fld) (v : Nat) : (setF s sl f v).standin = s.standin := Eq.trans rfl rfl
@[simp] theorem setF_standin2 (s : State) (sl : Nat) (f : Fld) (v : Nat) : (setF s sl f v).standin2 = s.standin2 := Eq.trans rfl rfl
@[simp] theorem setF_qtabGone (s : State) (sl : Nat) (f : Fld) (v : Nat) : (setF s sl f v).qtabGone = s.qtabGone := Eq.trans rfl rfl
@[simp] theorem setF_ucn (s : State) (sl : Nat) (f : Fld) (v : Nat) : (setF s sl f v).ucn = s.ucn := Eq.trans rfl rfl
@[simp] theorem setF_ucnDone (s : State) (sl : Nat) (f : Fld) (v : Nat) : (setF s sl f v).ucnDone = s.ucnDone := Eq.trans rfl rfl
@[simp] theorem setF_durable (s : State) (sl : Nat) (f : Fld) (v : Nat) : (setF s sl f v).durable = s.durable := Eq.trans rfl rfl
@[simp] theorem setF_members (s : State) (sl : Nat) (f : Fld) (v : Nat) : (setF s sl f v).members = s.members := Eq.trans rfl rfl
@[simp] theorem setF_nextCmd (s : State) (sl : Nat) (f : Fld) (v : Nat) : (setF s sl f v).nextCmd = s.nextCmd := Eq.trans rfl rfl
@[simp] theorem setF_reads (s : State) (sl : Nat) (f : Fld) (v : Nat) : (setF s sl f v).reads = s.reads := Eq.trans rfl rfl
@[simp] theorem setF_nextRead (s : State) (sl : Nat) (f : Fld) (v : Nat) : (setF s sl f v).nextRead = s.nextRead := Eq.trans rfl rfl
@[simp] theorem setF_spare (s : State) (sl : Nat) (f : Fld) (v : Nat) : (setF s sl f v).spare = s.spare := Eq.trans rfl rfl
@[simp] theorem setF_spareResv (s : State) (sl : Nat) (f : Fld) (v : Nat) : (setF s sl f v).spareResv = s.spareResv := Eq.trans rfl rfl
@[simp] theorem setF_spareWp (s : State) (sl : Nat) (f : Fld) (v : Nat) : (setF s sl f v).spareWp = s.spareWp := Eq.trans rfl rfl
@[simp] theorem setF_spareHeld (s : State) (sl : Nat) (f : Fld) (v : Nat) : (setF s sl f v).spareHeld = s.spareHeld := Eq.trans rfl rfl
@[simp] theorem setF_rebuildQ (s : State) (sl : Nat) (f : Fld) (v : Nat) : (setF s sl f v).rebuildQ = s.rebuildQ := Eq.trans rfl rfl
@[simp] theorem setF_lostRange (s : State) (sl : Nat) (f : Fld) (v : Nat) : (setF s sl f v).lostRange = s.lostRange := Eq.trans rfl rfl
@[simp] theorem setF_copyBack (s : State) (sl : Nat) (f : Fld) (v : Nat) : (setF s sl f v).copyBack = s.copyBack := Eq.trans rfl rfl
@[simp] theorem setF_quorum (s : State) (sl : Nat) (f : Fld) (v : Nat) : (setF s sl f v).quorum = s.quorum := Eq.trans rfl rfl
@[simp] theorem setF_qShort (s : State) (sl : Nat) (f : Fld) (v : Nat) : (setF s sl f v).qShort = s.qShort := Eq.trans rfl rfl
@[simp] theorem setF_drvTrain (s : State) (sl : Nat) (f : Fld) (v : Nat) : (setF s sl f v).drvTrain = s.drvTrain := Eq.trans rfl rfl
@[simp] theorem setF_recovery (s : State) (sl : Nat) (f : Fld) (v : Nat) : (setF s sl f v).recovery = s.recovery := Eq.trans rfl rfl
@[simp] theorem setF_resetTb (s : State) (sl : Nat) (f : Fld) (v : Nat) : (setF s sl f v).resetTb = s.resetTb := Eq.trans rfl rfl
@[simp] theorem setF_frames (s : State) (sl : Nat) (f : Fld) (v : Nat) : (setF s sl f v).frames = s.frames := Eq.trans rfl rfl
@[simp] theorem setF_mcast (s : State) (sl : Nat) (f : Fld) (v : Nat) : (setF s sl f v).mcast = s.mcast := Eq.trans rfl rfl
@[simp] theorem setF_mcResult (s : State) (sl : Nat) (f : Fld) (v : Nat) : (setF s sl f v).mcResult = s.mcResult := Eq.trans rfl rfl
@[simp] theorem setF_oldLookup (s : State) (sl : Nat) (f : Fld) (v : Nat) : (setF s sl f v).oldLookup = s.oldLookup := Eq.trans rfl rfl
@[simp] theorem setF_nextFrame (s : State) (sl : Nat) (f : Fld) (v : Nat) : (setF s sl f v).nextFrame = s.nextFrame := Eq.trans rfl rfl
@[simp] theorem setF_outs (s : State) (sl : Nat) (f : Fld) (v : Nat) : (setF s sl f v).outs = s.outs := Eq.trans rfl rfl
@[simp] theorem setF_gates (s : State) (sl : Nat) (f : Fld) (v : Nat) : (setF s sl f v).gates = s.gates := Eq.trans rfl rfl
@[simp] theorem setF_policers (s : State) (sl : Nat) (f : Fld) (v : Nat) : (setF s sl f v).policers = s.policers := Eq.trans rfl rfl
@[simp] theorem setF_links (s : State) (sl : Nat) (f : Fld) (v : Nat) : (setF s sl f v).links = s.links := Eq.trans rfl rfl
@[simp] theorem setF_barrier (s : State) (sl : Nat) (f : Fld) (v : Nat) : (setF s sl f v).barrier = s.barrier := Eq.trans rfl rfl
@[simp] theorem setF_windows (s : State) (sl : Nat) (f : Fld) (v : Nat) : (setF s sl f v).windows = s.windows := Eq.trans rfl rfl
@[simp] theorem setF_availAt (s : State) (sl : Nat) (f : Fld) (v : Nat) : (setF s sl f v).availAt = s.availAt := Eq.trans rfl rfl
@[simp] theorem setF_rot (s : State) (sl : Nat) (f : Fld) (v : Nat) : (setF s sl f v).rot = s.rot := Eq.trans rfl rfl
@[simp] theorem setF_copies (s : State) (sl : Nat) (f : Fld) (v : Nat) : (setF s sl f v).copies = s.copies := Eq.trans rfl rfl
@[simp] theorem setF_scLines (s : State) (sl : Nat) (f : Fld) (v : Nat) : (setF s sl f v).scLines = s.scLines := Eq.trans rfl rfl
@[simp] theorem setF_victim (s : State) (sl : Nat) (f : Fld) (v : Nat) : (setF s sl f v).victim = s.victim := Eq.trans rfl rfl
@[simp] theorem setF_scLfsr (s : State) (sl : Nat) (f : Fld) (v : Nat) : (setF s sl f v).scLfsr = s.scLfsr := Eq.trans rfl rfl
@[simp] theorem setF_dcLines (s : State) (sl : Nat) (f : Fld) (v : Nat) : (setF s sl f v).dcLines = s.dcLines := Eq.trans rfl rfl
@[simp] theorem setF_dcTree (s : State) (sl : Nat) (f : Fld) (v : Nat) : (setF s sl f v).dcTree = s.dcTree := Eq.trans rfl rfl
@[simp] theorem setF_icLines (s : State) (sl : Nat) (f : Fld) (v : Nat) : (setF s sl f v).icLines = s.icLines := Eq.trans rfl rfl
@[simp] theorem setF_icTree (s : State) (sl : Nat) (f : Fld) (v : Nat) : (setF s sl f v).icTree = s.icTree := Eq.trans rfl rfl
@[simp] theorem setF_wayErrs (s : State) (sl : Nat) (f : Fld) (v : Nat) : (setF s sl f v).wayErrs = s.wayErrs := Eq.trans rfl rfl
@[simp] theorem setF_lease (s : State) (sl : Nat) (f : Fld) (v : Nat) : (setF s sl f v).lease = s.lease := Eq.trans rfl rfl
@[simp] theorem setF_chain (s : State) (sl : Nat) (f : Fld) (v : Nat) : (setF s sl f v).chain = s.chain := Eq.trans rfl rfl
@[simp] theorem setF_pin (s : State) (sl : Nat) (f : Fld) (v : Nat) : (setF s sl f v).pin = s.pin := Eq.trans rfl rfl
@[simp] theorem setF_lastCount (s : State) (sl : Nat) (f : Fld) (v : Nat) : (setF s sl f v).lastCount = s.lastCount := Eq.trans rfl rfl
@[simp] theorem setF_sampling (s : State) (sl : Nat) (f : Fld) (v : Nat) : (setF s sl f v).sampling = s.sampling := Eq.trans rfl rfl
@[simp] theorem setF_dumpSeq (s : State) (sl : Nat) (f : Fld) (v : Nat) : (setF s sl f v).dumpSeq = s.dumpSeq := Eq.trans rfl rfl
@[simp] theorem setF_secure (s : State) (sl : Nat) (f : Fld) (v : Nat) : (setF s sl f v).secure = s.secure := Eq.trans rfl rfl
@[simp] theorem setF_admin (s : State) (sl : Nat) (f : Fld) (v : Nat) : (setF s sl f v).admin = s.admin := Eq.trans rfl rfl
@[simp] theorem setF_power (s : State) (sl : Nat) (f : Fld) (v : Nat) : (setF s sl f v).power = s.power := Eq.trans rfl rfl
@[simp] theorem setF_mod (s : State) (sl : Nat) (f : Fld) (v : Nat) : (setF s sl f v).mod = s.mod := Eq.trans rfl rfl
@[simp] theorem setF_fresh (s : State) (sl : Nat) (f : Fld) (v : Nat) : (setF s sl f v).fresh = s.fresh := Eq.trans rfl rfl
@[simp] theorem setF_pending (s : State) (sl : Nat) (f : Fld) (v : Nat) : (setF s sl f v).pending = s.pending := Eq.trans rfl rfl

/-! ### `bump` -/

@[simp] theorem bump_n (s : State) (sl : Nat) (f : Fld) (k : Nat) : (bump s sl f k).n = s.n := Eq.trans rfl rfl
@[simp] theorem bump_tb (s : State) (sl : Nat) (f : Fld) (k : Nat) : (bump s sl f k).tb = s.tb := Eq.trans rfl rfl
@[simp] theorem bump_lost (s : State) (sl : Nat) (f : Fld) (k : Nat) : (bump s sl f k).lost = s.lost := Eq.trans rfl rfl
@[simp] theorem bump_lastLost (s : State) (sl : Nat) (f : Fld) (k : Nat) : (bump s sl f k).lastLost = s.lastLost := Eq.trans rfl rfl
@[simp] theorem bump_ptrs (s : State) (sl : Nat) (f : Fld) (k : Nat) : (bump s sl f k).ptrs = s.ptrs := Eq.trans rfl rfl
@[simp] theorem bump_jobs (s : State) (sl : Nat) (f : Fld) (k : Nat) : (bump s sl f k).jobs = s.jobs := Eq.trans rfl rfl
@[simp] theorem bump_nextJob (s : State) (sl : Nat) (f : Fld) (k : Nat) : (bump s sl f k).nextJob = s.nextJob := Eq.trans rfl rfl
@[simp] theorem bump_buffers (s : State) (sl : Nat) (f : Fld) (k : Nat) : (bump s sl f k).buffers = s.buffers := Eq.trans rfl rfl
@[simp] theorem bump_nextBuf (s : State) (sl : Nat) (f : Fld) (k : Nat) : (bump s sl f k).nextBuf = s.nextBuf := Eq.trans rfl rfl
@[simp] theorem bump_threads (s : State) (sl : Nat) (f : Fld) (k : Nat) : (bump s sl f k).threads = s.threads := Eq.trans rfl rfl
@[simp] theorem bump_hkRestart (s : State) (sl : Nat) (f : Fld) (k : Nat) : (bump s sl f k).hkRestart = s.hkRestart := Eq.trans rfl rfl
@[simp] theorem bump_dispatchQ (s : State) (sl : Nat) (f : Fld) (k : Nat) : (bump s sl f k).dispatchQ = s.dispatchQ := Eq.trans rfl rfl
@[simp] theorem bump_resumeQ (s : State) (sl : Nat) (f : Fld) (k : Nat) : (bump s sl f k).resumeQ = s.resumeQ := Eq.trans rfl rfl
@[simp] theorem bump_progs (s : State) (sl : Nat) (f : Fld) (k : Nat) : (bump s sl f k).progs = s.progs := Eq.trans rfl rfl
@[simp] theorem bump_nextProg (s : State) (sl : Nat) (f : Fld) (k : Nat) : (bump s sl f k).nextProg = s.nextProg := Eq.trans rfl rfl
@[simp] theorem bump_slots (s : State) (sl : Nat) (f : Fld) (k : Nat) : (bump s sl f k).slots = s.slots := Eq.trans rfl rfl
@[simp] theorem bump_cutover (s : State) (sl : Nat) (f : Fld) (k : Nat) : (bump s sl f k).cutover = s.cutover := Eq.trans rfl rfl
@[simp] theorem bump_evPend (s : State) (sl : Nat) (f : Fld) (k : Nat) : (bump s sl f k).evPend = s.evPend := Eq.trans rfl rfl
@[simp] theorem bump_hbm (s : State) (sl : Nat) (f : Fld) (k : Nat) : (bump s sl f k).hbm = s.hbm := Eq.trans rfl rfl
@[simp] theorem bump_poison (s : State) (sl : Nat) (f : Fld) (k : Nat) : (bump s sl f k).poison = s.poison := Eq.trans rfl rfl
@[simp] theorem bump_keys (s : State) (sl : Nat) (f : Fld) (k : Nat) : (bump s sl f k).keys = s.keys := Eq.trans rfl rfl
@[simp] theorem bump_keySeq (s : State) (sl : Nat) (f : Fld) (k : Nat) : (bump s sl f k).keySeq = s.keySeq := Eq.trans rfl rfl
@[simp] theorem bump_stage (s : State) (sl : Nat) (f : Fld) (k : Nat) : (bump s sl f k).stage = s.stage := Eq.trans rfl rfl
@[simp] theorem bump_queues (s : State) (sl : Nat) (f : Fld) (k : Nat) : (bump s sl f k).queues = s.queues := Eq.trans rfl rfl
@[simp] theorem bump_hazards (s : State) (sl : Nat) (f : Fld) (k : Nat) : (bump s sl f k).hazards = s.hazards := Eq.trans rfl rfl
@[simp] theorem bump_hazPast (s : State) (sl : Nat) (f : Fld) (k : Nat) : (bump s sl f k).hazPast = s.hazPast := Eq.trans rfl rfl
@[simp] theorem bump_hazSeq (s : State) (sl : Nat) (f : Fld) (k : Nat) : (bump s sl f k).hazSeq = s.hazSeq := Eq.trans rfl rfl
@[simp] theorem bump_ctxRef (s : State) (sl : Nat) (f : Fld) (k : Nat) : (bump s sl f k).ctxRef = s.ctxRef := Eq.trans rfl rfl
@[simp] theorem bump_park (s : State) (sl : Nat) (f : Fld) (k : Nat) : (bump s sl f k).park = s.park := Eq.trans rfl rfl
@[simp] theorem bump_heldDg (s : State) (sl : Nat) (f : Fld) (k : Nat) : (bump s sl f k).heldDg = s.heldDg := Eq.trans rfl rfl
@[simp] theorem bump_bufWait (s : State) (sl : Nat) (f : Fld) (k : Nat) : (bump s sl f k).bufWait = s.bufWait := Eq.trans rfl rfl
@[simp] theorem bump_fetching (s : State) (sl : Nat) (f : Fld) (k : Nat) : (bump s sl f k).fetching = s.fetching := Eq.trans rfl rfl
@[simp] theorem bump_evFwd (s : State) (sl : Nat) (f : Fld) (k : Nat) : (bump s sl f k).evFwd = s.evFwd := Eq.trans rfl rfl
@[simp] theorem bump_ready (s : State) (sl : Nat) (f : Fld) (k : Nat) : (bump s sl f k).ready = s.ready := Eq.trans rfl rfl
@[simp] theorem bump_pauseBoot (s : State) (sl : Nat) (f : Fld) (k : Nat) : (bump s sl f k).pauseBoot = s.pauseBoot := Eq.trans rfl rfl
@[simp] theorem bump_pausePark (s : State) (sl : Nat) (f : Fld) (k : Nat) : (bump s sl f k).pausePark = s.pausePark := Eq.trans rfl rfl
@[simp] theorem bump_pauseBuf (s : State) (sl : Nat) (f : Fld) (k : Nat) : (bump s sl f k).pauseBuf = s.pauseBuf := Eq.trans rfl rfl
@[simp] theorem bump_pauseAt (s : State) (sl : Nat) (f : Fld) (k : Nat) : (bump s sl f k).pauseAt = s.pauseAt := Eq.trans rfl rfl
@[simp] theorem bump_peerPause (s : State) (sl : Nat) (f : Fld) (k : Nat) : (bump s sl f k).peerPause = s.peerPause := Eq.trans rfl rfl
@[simp] theorem bump_ptpSync (s : State) (sl : Nat) (f : Fld) (k : Nat) : (bump s sl f k).ptpSync = s.ptpSync := Eq.trans rfl rfl
@[simp] theorem bump_slew (s : State) (sl : Nat) (f : Fld) (k : Nat) : (bump s sl f k).slew = s.slew := Eq.trans rfl rfl
@[simp] theorem bump_slewPhase (s : State) (sl : Nat) (f : Fld) (k : Nat) : (bump s sl f k).slewPhase = s.slewPhase := Eq.trans rfl rfl
@[simp] theorem bump_tbStepped (s : State) (sl : Nat) (f : Fld) (k : Nat) : (bump s sl f k).tbStepped = s.tbStepped := Eq.trans rfl rfl
@[simp] theorem bump_wire (s : State) (sl : Nat) (f : Fld) (k : Nat) : (bump s sl f k).wire = s.wire := Eq.trans rfl rfl
@[simp] theorem bump_layout (s : State) (sl : Nat) (f : Fld) (k : Nat) : (bump s sl f k).layout = s.layout := Eq.trans rfl rfl
@[simp] theorem bump_volumes (s : State) (sl : Nat) (f : Fld) (k : Nat) : (bump s sl f k).volumes = s.volumes := Eq.trans rfl rfl
@[simp] theorem bump_map (s : State) (sl : Nat) (f : Fld) (k : Nat) : (bump s sl f k).map = s.map := Eq.trans rfl rfl
@[simp] theorem bump_leaves (s : State) (sl : Nat) (f : Fld) (k : Nat) : (bump s sl f k).leaves = s.leaves := Eq.trans rfl rfl
@[simp] theorem bump_courses (s : State) (sl : Nat) (f : Fld) (k : Nat) : (bump s sl f k).courses = s.courses := Eq.trans rfl rfl
@[simp] theorem bump_repourWait (s : State) (sl : Nat) (f : Fld) (k : Nat) : (bump s sl f k).repourWait = s.repourWait := Eq.trans rfl rfl
@[simp] theorem bump_leads (s : State) (sl : Nat) (f : Fld) (k : Nat) : (bump s sl f k).leads = s.leads := Eq.trans rfl rfl
@[simp] theorem bump_lastOrd (s : State) (sl : Nat) (f : Fld) (k : Nat) : (bump s sl f k).lastOrd = s.lastOrd := Eq.trans rfl rfl
@[simp] theorem bump_reclaiming (s : State) (sl : Nat) (f : Fld) (k : Nat) : (bump s sl f k).reclaiming = s.reclaiming := Eq.trans rfl rfl
@[simp] theorem bump_pours (s : State) (sl : Nat) (f : Fld) (k : Nat) : (bump s sl f k).pours = s.pours := Eq.trans rfl rfl
@[simp] theorem bump_poursRecl (s : State) (sl : Nat) (f : Fld) (k : Nat) : (bump s sl f k).poursRecl = s.poursRecl := Eq.trans rfl rfl
@[simp] theorem bump_spaceLow (s : State) (sl : Nat) (f : Fld) (k : Nat) : (bump s sl f k).spaceLow = s.spaceLow := Eq.trans rfl rfl
@[simp] theorem bump_flashDir (s : State) (sl : Nat) (f : Fld) (k : Nat) : (bump s sl f k).flashDir = s.flashDir := Eq.trans rfl rfl
@[simp] theorem bump_media (s : State) (sl : Nat) (f : Fld) (k : Nat) : (bump s sl f k).media = s.media := Eq.trans rfl rfl
@[simp] theorem bump_owners (s : State) (sl : Nat) (f : Fld) (k : Nat) : (bump s sl f k).owners = s.owners := Eq.trans rfl rfl
@[simp] theorem bump_standin (s : State) (sl : Nat) (f : Fld) (k : Nat) : (bump s sl f k).standin = s.standin := Eq.trans rfl rfl
@[simp] theorem bump_standin2 (s : State) (sl : Nat) (f : Fld) (k : Nat) : (bump s sl f k).standin2 = s.standin2 := Eq.trans rfl rfl
@[simp] theorem bump_qtabGone (s : State) (sl : Nat) (f : Fld) (k : Nat) : (bump s sl f k).qtabGone = s.qtabGone := Eq.trans rfl rfl
@[simp] theorem bump_ucn (s : State) (sl : Nat) (f : Fld) (k : Nat) : (bump s sl f k).ucn = s.ucn := Eq.trans rfl rfl
@[simp] theorem bump_ucnDone (s : State) (sl : Nat) (f : Fld) (k : Nat) : (bump s sl f k).ucnDone = s.ucnDone := Eq.trans rfl rfl
@[simp] theorem bump_durable (s : State) (sl : Nat) (f : Fld) (k : Nat) : (bump s sl f k).durable = s.durable := Eq.trans rfl rfl
@[simp] theorem bump_members (s : State) (sl : Nat) (f : Fld) (k : Nat) : (bump s sl f k).members = s.members := Eq.trans rfl rfl
@[simp] theorem bump_nextCmd (s : State) (sl : Nat) (f : Fld) (k : Nat) : (bump s sl f k).nextCmd = s.nextCmd := Eq.trans rfl rfl
@[simp] theorem bump_reads (s : State) (sl : Nat) (f : Fld) (k : Nat) : (bump s sl f k).reads = s.reads := Eq.trans rfl rfl
@[simp] theorem bump_nextRead (s : State) (sl : Nat) (f : Fld) (k : Nat) : (bump s sl f k).nextRead = s.nextRead := Eq.trans rfl rfl
@[simp] theorem bump_spare (s : State) (sl : Nat) (f : Fld) (k : Nat) : (bump s sl f k).spare = s.spare := Eq.trans rfl rfl
@[simp] theorem bump_spareResv (s : State) (sl : Nat) (f : Fld) (k : Nat) : (bump s sl f k).spareResv = s.spareResv := Eq.trans rfl rfl
@[simp] theorem bump_spareWp (s : State) (sl : Nat) (f : Fld) (k : Nat) : (bump s sl f k).spareWp = s.spareWp := Eq.trans rfl rfl
@[simp] theorem bump_spareHeld (s : State) (sl : Nat) (f : Fld) (k : Nat) : (bump s sl f k).spareHeld = s.spareHeld := Eq.trans rfl rfl
@[simp] theorem bump_rebuildQ (s : State) (sl : Nat) (f : Fld) (k : Nat) : (bump s sl f k).rebuildQ = s.rebuildQ := Eq.trans rfl rfl
@[simp] theorem bump_lostRange (s : State) (sl : Nat) (f : Fld) (k : Nat) : (bump s sl f k).lostRange = s.lostRange := Eq.trans rfl rfl
@[simp] theorem bump_copyBack (s : State) (sl : Nat) (f : Fld) (k : Nat) : (bump s sl f k).copyBack = s.copyBack := Eq.trans rfl rfl
@[simp] theorem bump_quorum (s : State) (sl : Nat) (f : Fld) (k : Nat) : (bump s sl f k).quorum = s.quorum := Eq.trans rfl rfl
@[simp] theorem bump_qShort (s : State) (sl : Nat) (f : Fld) (k : Nat) : (bump s sl f k).qShort = s.qShort := Eq.trans rfl rfl
@[simp] theorem bump_drvTrain (s : State) (sl : Nat) (f : Fld) (k : Nat) : (bump s sl f k).drvTrain = s.drvTrain := Eq.trans rfl rfl
@[simp] theorem bump_recovery (s : State) (sl : Nat) (f : Fld) (k : Nat) : (bump s sl f k).recovery = s.recovery := Eq.trans rfl rfl
@[simp] theorem bump_resetTb (s : State) (sl : Nat) (f : Fld) (k : Nat) : (bump s sl f k).resetTb = s.resetTb := Eq.trans rfl rfl
@[simp] theorem bump_frames (s : State) (sl : Nat) (f : Fld) (k : Nat) : (bump s sl f k).frames = s.frames := Eq.trans rfl rfl
@[simp] theorem bump_mcast (s : State) (sl : Nat) (f : Fld) (k : Nat) : (bump s sl f k).mcast = s.mcast := Eq.trans rfl rfl
@[simp] theorem bump_mcResult (s : State) (sl : Nat) (f : Fld) (k : Nat) : (bump s sl f k).mcResult = s.mcResult := Eq.trans rfl rfl
@[simp] theorem bump_oldLookup (s : State) (sl : Nat) (f : Fld) (k : Nat) : (bump s sl f k).oldLookup = s.oldLookup := Eq.trans rfl rfl
@[simp] theorem bump_nextFrame (s : State) (sl : Nat) (f : Fld) (k : Nat) : (bump s sl f k).nextFrame = s.nextFrame := Eq.trans rfl rfl
@[simp] theorem bump_outs (s : State) (sl : Nat) (f : Fld) (k : Nat) : (bump s sl f k).outs = s.outs := Eq.trans rfl rfl
@[simp] theorem bump_gates (s : State) (sl : Nat) (f : Fld) (k : Nat) : (bump s sl f k).gates = s.gates := Eq.trans rfl rfl
@[simp] theorem bump_policers (s : State) (sl : Nat) (f : Fld) (k : Nat) : (bump s sl f k).policers = s.policers := Eq.trans rfl rfl
@[simp] theorem bump_links (s : State) (sl : Nat) (f : Fld) (k : Nat) : (bump s sl f k).links = s.links := Eq.trans rfl rfl
@[simp] theorem bump_barrier (s : State) (sl : Nat) (f : Fld) (k : Nat) : (bump s sl f k).barrier = s.barrier := Eq.trans rfl rfl
@[simp] theorem bump_windows (s : State) (sl : Nat) (f : Fld) (k : Nat) : (bump s sl f k).windows = s.windows := Eq.trans rfl rfl
@[simp] theorem bump_availAt (s : State) (sl : Nat) (f : Fld) (k : Nat) : (bump s sl f k).availAt = s.availAt := Eq.trans rfl rfl
@[simp] theorem bump_rot (s : State) (sl : Nat) (f : Fld) (k : Nat) : (bump s sl f k).rot = s.rot := Eq.trans rfl rfl
@[simp] theorem bump_copies (s : State) (sl : Nat) (f : Fld) (k : Nat) : (bump s sl f k).copies = s.copies := Eq.trans rfl rfl
@[simp] theorem bump_scLines (s : State) (sl : Nat) (f : Fld) (k : Nat) : (bump s sl f k).scLines = s.scLines := Eq.trans rfl rfl
@[simp] theorem bump_victim (s : State) (sl : Nat) (f : Fld) (k : Nat) : (bump s sl f k).victim = s.victim := Eq.trans rfl rfl
@[simp] theorem bump_scLfsr (s : State) (sl : Nat) (f : Fld) (k : Nat) : (bump s sl f k).scLfsr = s.scLfsr := Eq.trans rfl rfl
@[simp] theorem bump_dcLines (s : State) (sl : Nat) (f : Fld) (k : Nat) : (bump s sl f k).dcLines = s.dcLines := Eq.trans rfl rfl
@[simp] theorem bump_dcTree (s : State) (sl : Nat) (f : Fld) (k : Nat) : (bump s sl f k).dcTree = s.dcTree := Eq.trans rfl rfl
@[simp] theorem bump_icLines (s : State) (sl : Nat) (f : Fld) (k : Nat) : (bump s sl f k).icLines = s.icLines := Eq.trans rfl rfl
@[simp] theorem bump_icTree (s : State) (sl : Nat) (f : Fld) (k : Nat) : (bump s sl f k).icTree = s.icTree := Eq.trans rfl rfl
@[simp] theorem bump_wayErrs (s : State) (sl : Nat) (f : Fld) (k : Nat) : (bump s sl f k).wayErrs = s.wayErrs := Eq.trans rfl rfl
@[simp] theorem bump_lease (s : State) (sl : Nat) (f : Fld) (k : Nat) : (bump s sl f k).lease = s.lease := Eq.trans rfl rfl
@[simp] theorem bump_chain (s : State) (sl : Nat) (f : Fld) (k : Nat) : (bump s sl f k).chain = s.chain := Eq.trans rfl rfl
@[simp] theorem bump_pin (s : State) (sl : Nat) (f : Fld) (k : Nat) : (bump s sl f k).pin = s.pin := Eq.trans rfl rfl
@[simp] theorem bump_lastCount (s : State) (sl : Nat) (f : Fld) (k : Nat) : (bump s sl f k).lastCount = s.lastCount := Eq.trans rfl rfl
@[simp] theorem bump_sampling (s : State) (sl : Nat) (f : Fld) (k : Nat) : (bump s sl f k).sampling = s.sampling := Eq.trans rfl rfl
@[simp] theorem bump_dumpSeq (s : State) (sl : Nat) (f : Fld) (k : Nat) : (bump s sl f k).dumpSeq = s.dumpSeq := Eq.trans rfl rfl
@[simp] theorem bump_secure (s : State) (sl : Nat) (f : Fld) (k : Nat) : (bump s sl f k).secure = s.secure := Eq.trans rfl rfl
@[simp] theorem bump_admin (s : State) (sl : Nat) (f : Fld) (k : Nat) : (bump s sl f k).admin = s.admin := Eq.trans rfl rfl
@[simp] theorem bump_power (s : State) (sl : Nat) (f : Fld) (k : Nat) : (bump s sl f k).power = s.power := Eq.trans rfl rfl
@[simp] theorem bump_mod (s : State) (sl : Nat) (f : Fld) (k : Nat) : (bump s sl f k).mod = s.mod := Eq.trans rfl rfl
@[simp] theorem bump_fresh (s : State) (sl : Nat) (f : Fld) (k : Nat) : (bump s sl f k).fresh = s.fresh := Eq.trans rfl rfl
@[simp] theorem bump_pending (s : State) (sl : Nat) (f : Fld) (k : Nat) : (bump s sl f k).pending = s.pending := Eq.trans rfl rfl

/-! ### `takeFree` -/

@[simp] theorem takeFree_n (s : State) : (takeFree s).n = s.n := rfl
@[simp] theorem takeFree_tb (s : State) : (takeFree s).tb = s.tb := rfl
@[simp] theorem takeFree_ctl (s : State) : (takeFree s).ctl = s.ctl := rfl
@[simp] theorem takeFree_lost (s : State) : (takeFree s).lost = s.lost := rfl
@[simp] theorem takeFree_lastLost (s : State) : (takeFree s).lastLost = s.lastLost := rfl
@[simp] theorem takeFree_ptrs (s : State) : (takeFree s).ptrs = s.ptrs := rfl
@[simp] theorem takeFree_jobs (s : State) : (takeFree s).jobs = s.jobs := rfl
@[simp] theorem takeFree_nextJob (s : State) : (takeFree s).nextJob = s.nextJob := rfl
@[simp] theorem takeFree_buffers (s : State) : (takeFree s).buffers = s.buffers := rfl
@[simp] theorem takeFree_nextBuf (s : State) : (takeFree s).nextBuf = s.nextBuf := rfl
@[simp] theorem takeFree_threads (s : State) : (takeFree s).threads = s.threads := rfl
@[simp] theorem takeFree_hkRestart (s : State) : (takeFree s).hkRestart = s.hkRestart := rfl
@[simp] theorem takeFree_dispatchQ (s : State) : (takeFree s).dispatchQ = s.dispatchQ := rfl
@[simp] theorem takeFree_resumeQ (s : State) : (takeFree s).resumeQ = s.resumeQ := rfl
@[simp] theorem takeFree_progs (s : State) : (takeFree s).progs = s.progs := rfl
@[simp] theorem takeFree_nextProg (s : State) : (takeFree s).nextProg = s.nextProg := rfl
@[simp] theorem takeFree_slots (s : State) : (takeFree s).slots = s.slots := rfl
@[simp] theorem takeFree_cutover (s : State) : (takeFree s).cutover = s.cutover := rfl
@[simp] theorem takeFree_evPend (s : State) : (takeFree s).evPend = s.evPend := rfl
@[simp] theorem takeFree_hbm (s : State) : (takeFree s).hbm = s.hbm := rfl
@[simp] theorem takeFree_poison (s : State) : (takeFree s).poison = s.poison := rfl
@[simp] theorem takeFree_keys (s : State) : (takeFree s).keys = s.keys := rfl
@[simp] theorem takeFree_keySeq (s : State) : (takeFree s).keySeq = s.keySeq := rfl
@[simp] theorem takeFree_stage (s : State) : (takeFree s).stage = s.stage := rfl
@[simp] theorem takeFree_queues (s : State) : (takeFree s).queues = s.queues := rfl
@[simp] theorem takeFree_hazards (s : State) : (takeFree s).hazards = s.hazards := rfl
@[simp] theorem takeFree_hazPast (s : State) : (takeFree s).hazPast = s.hazPast := rfl
@[simp] theorem takeFree_hazSeq (s : State) : (takeFree s).hazSeq = s.hazSeq := rfl
@[simp] theorem takeFree_ctxRef (s : State) : (takeFree s).ctxRef = s.ctxRef := rfl
@[simp] theorem takeFree_park (s : State) : (takeFree s).park = s.park := rfl
@[simp] theorem takeFree_heldDg (s : State) : (takeFree s).heldDg = s.heldDg := rfl
@[simp] theorem takeFree_bufWait (s : State) : (takeFree s).bufWait = s.bufWait := rfl
@[simp] theorem takeFree_fetching (s : State) : (takeFree s).fetching = s.fetching := rfl
@[simp] theorem takeFree_evFwd (s : State) : (takeFree s).evFwd = s.evFwd := rfl
@[simp] theorem takeFree_ready (s : State) : (takeFree s).ready = s.ready := rfl
@[simp] theorem takeFree_pauseBoot (s : State) : (takeFree s).pauseBoot = s.pauseBoot := rfl
@[simp] theorem takeFree_pausePark (s : State) : (takeFree s).pausePark = s.pausePark := rfl
@[simp] theorem takeFree_pauseBuf (s : State) : (takeFree s).pauseBuf = s.pauseBuf := rfl
@[simp] theorem takeFree_pauseAt (s : State) : (takeFree s).pauseAt = s.pauseAt := rfl
@[simp] theorem takeFree_peerPause (s : State) : (takeFree s).peerPause = s.peerPause := rfl
@[simp] theorem takeFree_ptpSync (s : State) : (takeFree s).ptpSync = s.ptpSync := rfl
@[simp] theorem takeFree_slew (s : State) : (takeFree s).slew = s.slew := rfl
@[simp] theorem takeFree_slewPhase (s : State) : (takeFree s).slewPhase = s.slewPhase := rfl
@[simp] theorem takeFree_tbStepped (s : State) : (takeFree s).tbStepped = s.tbStepped := rfl
@[simp] theorem takeFree_wire (s : State) : (takeFree s).wire = s.wire := rfl
@[simp] theorem takeFree_layout (s : State) : (takeFree s).layout = s.layout := rfl
@[simp] theorem takeFree_volumes (s : State) : (takeFree s).volumes = s.volumes := rfl
@[simp] theorem takeFree_map (s : State) : (takeFree s).map = s.map := rfl
@[simp] theorem takeFree_leaves (s : State) : (takeFree s).leaves = s.leaves := rfl
@[simp] theorem takeFree_courses (s : State) : (takeFree s).courses = s.courses := rfl
@[simp] theorem takeFree_repourWait (s : State) : (takeFree s).repourWait = s.repourWait := rfl
@[simp] theorem takeFree_leads (s : State) : (takeFree s).leads = s.leads := rfl
@[simp] theorem takeFree_lastOrd (s : State) : (takeFree s).lastOrd = s.lastOrd := rfl
@[simp] theorem takeFree_reclaiming (s : State) : (takeFree s).reclaiming = s.reclaiming := rfl
@[simp] theorem takeFree_pours (s : State) : (takeFree s).pours = s.pours := rfl
@[simp] theorem takeFree_poursRecl (s : State) : (takeFree s).poursRecl = s.poursRecl := rfl
@[simp] theorem takeFree_spaceLow (s : State) : (takeFree s).spaceLow = s.spaceLow := rfl
@[simp] theorem takeFree_flashDir (s : State) : (takeFree s).flashDir = s.flashDir := rfl
@[simp] theorem takeFree_media (s : State) : (takeFree s).media = s.media := rfl
@[simp] theorem takeFree_owners (s : State) : (takeFree s).owners = s.owners := rfl
@[simp] theorem takeFree_standin (s : State) : (takeFree s).standin = s.standin := rfl
@[simp] theorem takeFree_standin2 (s : State) : (takeFree s).standin2 = s.standin2 := rfl
@[simp] theorem takeFree_qtabGone (s : State) : (takeFree s).qtabGone = s.qtabGone := rfl
@[simp] theorem takeFree_ucn (s : State) : (takeFree s).ucn = s.ucn := rfl
@[simp] theorem takeFree_ucnDone (s : State) : (takeFree s).ucnDone = s.ucnDone := rfl
@[simp] theorem takeFree_durable (s : State) : (takeFree s).durable = s.durable := rfl
@[simp] theorem takeFree_members (s : State) : (takeFree s).members = s.members := rfl
@[simp] theorem takeFree_nextCmd (s : State) : (takeFree s).nextCmd = s.nextCmd := rfl
@[simp] theorem takeFree_reads (s : State) : (takeFree s).reads = s.reads := rfl
@[simp] theorem takeFree_nextRead (s : State) : (takeFree s).nextRead = s.nextRead := rfl
@[simp] theorem takeFree_spare (s : State) : (takeFree s).spare = s.spare := rfl
@[simp] theorem takeFree_spareResv (s : State) : (takeFree s).spareResv = s.spareResv := rfl
@[simp] theorem takeFree_spareWp (s : State) : (takeFree s).spareWp = s.spareWp := rfl
@[simp] theorem takeFree_spareHeld (s : State) : (takeFree s).spareHeld = s.spareHeld := rfl
@[simp] theorem takeFree_rebuildQ (s : State) : (takeFree s).rebuildQ = s.rebuildQ := rfl
@[simp] theorem takeFree_lostRange (s : State) : (takeFree s).lostRange = s.lostRange := rfl
@[simp] theorem takeFree_copyBack (s : State) : (takeFree s).copyBack = s.copyBack := rfl
@[simp] theorem takeFree_quorum (s : State) : (takeFree s).quorum = s.quorum := rfl
@[simp] theorem takeFree_qShort (s : State) : (takeFree s).qShort = s.qShort := rfl
@[simp] theorem takeFree_drvTrain (s : State) : (takeFree s).drvTrain = s.drvTrain := rfl
@[simp] theorem takeFree_recovery (s : State) : (takeFree s).recovery = s.recovery := rfl
@[simp] theorem takeFree_resetTb (s : State) : (takeFree s).resetTb = s.resetTb := rfl
@[simp] theorem takeFree_frames (s : State) : (takeFree s).frames = s.frames := rfl
@[simp] theorem takeFree_mcast (s : State) : (takeFree s).mcast = s.mcast := rfl
@[simp] theorem takeFree_mcResult (s : State) : (takeFree s).mcResult = s.mcResult := rfl
@[simp] theorem takeFree_oldLookup (s : State) : (takeFree s).oldLookup = s.oldLookup := rfl
@[simp] theorem takeFree_nextFrame (s : State) : (takeFree s).nextFrame = s.nextFrame := rfl
@[simp] theorem takeFree_outs (s : State) : (takeFree s).outs = s.outs := rfl
@[simp] theorem takeFree_gates (s : State) : (takeFree s).gates = s.gates := rfl
@[simp] theorem takeFree_policers (s : State) : (takeFree s).policers = s.policers := rfl
@[simp] theorem takeFree_links (s : State) : (takeFree s).links = s.links := rfl
@[simp] theorem takeFree_barrier (s : State) : (takeFree s).barrier = s.barrier := rfl
@[simp] theorem takeFree_windows (s : State) : (takeFree s).windows = s.windows := rfl
@[simp] theorem takeFree_availAt (s : State) : (takeFree s).availAt = s.availAt := rfl
@[simp] theorem takeFree_rot (s : State) : (takeFree s).rot = s.rot := rfl
@[simp] theorem takeFree_copies (s : State) : (takeFree s).copies = s.copies := rfl
@[simp] theorem takeFree_scLines (s : State) : (takeFree s).scLines = s.scLines := rfl
@[simp] theorem takeFree_victim (s : State) : (takeFree s).victim = s.victim := rfl
@[simp] theorem takeFree_scLfsr (s : State) : (takeFree s).scLfsr = s.scLfsr := rfl
@[simp] theorem takeFree_dcLines (s : State) : (takeFree s).dcLines = s.dcLines := rfl
@[simp] theorem takeFree_dcTree (s : State) : (takeFree s).dcTree = s.dcTree := rfl
@[simp] theorem takeFree_icLines (s : State) : (takeFree s).icLines = s.icLines := rfl
@[simp] theorem takeFree_icTree (s : State) : (takeFree s).icTree = s.icTree := rfl
@[simp] theorem takeFree_wayErrs (s : State) : (takeFree s).wayErrs = s.wayErrs := rfl
@[simp] theorem takeFree_lease (s : State) : (takeFree s).lease = s.lease := rfl
@[simp] theorem takeFree_chain (s : State) : (takeFree s).chain = s.chain := rfl
@[simp] theorem takeFree_pin (s : State) : (takeFree s).pin = s.pin := rfl
@[simp] theorem takeFree_lastCount (s : State) : (takeFree s).lastCount = s.lastCount := rfl
@[simp] theorem takeFree_sampling (s : State) : (takeFree s).sampling = s.sampling := rfl
@[simp] theorem takeFree_dumpSeq (s : State) : (takeFree s).dumpSeq = s.dumpSeq := rfl
@[simp] theorem takeFree_secure (s : State) : (takeFree s).secure = s.secure := rfl
@[simp] theorem takeFree_admin (s : State) : (takeFree s).admin = s.admin := rfl
@[simp] theorem takeFree_power (s : State) : (takeFree s).power = s.power := rfl
@[simp] theorem takeFree_mod (s : State) : (takeFree s).mod = s.mod := rfl
@[simp] theorem takeFree_pending (s : State) : (takeFree s).pending = s.pending := rfl

/-! ### `hbmWrite` -/

@[simp] theorem hbmWrite_n (s : State) (a : Nat) (b : Block) : (hbmWrite s a b).n = s.n := rfl
@[simp] theorem hbmWrite_tb (s : State) (a : Nat) (b : Block) : (hbmWrite s a b).tb = s.tb := rfl
@[simp] theorem hbmWrite_ctl (s : State) (a : Nat) (b : Block) : (hbmWrite s a b).ctl = s.ctl := rfl
@[simp] theorem hbmWrite_lost (s : State) (a : Nat) (b : Block) : (hbmWrite s a b).lost = s.lost := rfl
@[simp] theorem hbmWrite_lastLost (s : State) (a : Nat) (b : Block) : (hbmWrite s a b).lastLost = s.lastLost := rfl
@[simp] theorem hbmWrite_ptrs (s : State) (a : Nat) (b : Block) : (hbmWrite s a b).ptrs = s.ptrs := rfl
@[simp] theorem hbmWrite_jobs (s : State) (a : Nat) (b : Block) : (hbmWrite s a b).jobs = s.jobs := rfl
@[simp] theorem hbmWrite_nextJob (s : State) (a : Nat) (b : Block) : (hbmWrite s a b).nextJob = s.nextJob := rfl
@[simp] theorem hbmWrite_buffers (s : State) (a : Nat) (b : Block) : (hbmWrite s a b).buffers = s.buffers := rfl
@[simp] theorem hbmWrite_nextBuf (s : State) (a : Nat) (b : Block) : (hbmWrite s a b).nextBuf = s.nextBuf := rfl
@[simp] theorem hbmWrite_threads (s : State) (a : Nat) (b : Block) : (hbmWrite s a b).threads = s.threads := rfl
@[simp] theorem hbmWrite_hkRestart (s : State) (a : Nat) (b : Block) : (hbmWrite s a b).hkRestart = s.hkRestart := rfl
@[simp] theorem hbmWrite_dispatchQ (s : State) (a : Nat) (b : Block) : (hbmWrite s a b).dispatchQ = s.dispatchQ := rfl
@[simp] theorem hbmWrite_resumeQ (s : State) (a : Nat) (b : Block) : (hbmWrite s a b).resumeQ = s.resumeQ := rfl
@[simp] theorem hbmWrite_progs (s : State) (a : Nat) (b : Block) : (hbmWrite s a b).progs = s.progs := rfl
@[simp] theorem hbmWrite_nextProg (s : State) (a : Nat) (b : Block) : (hbmWrite s a b).nextProg = s.nextProg := rfl
@[simp] theorem hbmWrite_slots (s : State) (a : Nat) (b : Block) : (hbmWrite s a b).slots = s.slots := rfl
@[simp] theorem hbmWrite_cutover (s : State) (a : Nat) (b : Block) : (hbmWrite s a b).cutover = s.cutover := rfl
@[simp] theorem hbmWrite_evPend (s : State) (a : Nat) (b : Block) : (hbmWrite s a b).evPend = s.evPend := rfl
@[simp] theorem hbmWrite_keys (s : State) (a : Nat) (b : Block) : (hbmWrite s a b).keys = s.keys := rfl
@[simp] theorem hbmWrite_keySeq (s : State) (a : Nat) (b : Block) : (hbmWrite s a b).keySeq = s.keySeq := rfl
@[simp] theorem hbmWrite_stage (s : State) (a : Nat) (b : Block) : (hbmWrite s a b).stage = s.stage := rfl
@[simp] theorem hbmWrite_queues (s : State) (a : Nat) (b : Block) : (hbmWrite s a b).queues = s.queues := rfl
@[simp] theorem hbmWrite_hazards (s : State) (a : Nat) (b : Block) : (hbmWrite s a b).hazards = s.hazards := rfl
@[simp] theorem hbmWrite_hazPast (s : State) (a : Nat) (b : Block) : (hbmWrite s a b).hazPast = s.hazPast := rfl
@[simp] theorem hbmWrite_hazSeq (s : State) (a : Nat) (b : Block) : (hbmWrite s a b).hazSeq = s.hazSeq := rfl
@[simp] theorem hbmWrite_ctxRef (s : State) (a : Nat) (b : Block) : (hbmWrite s a b).ctxRef = s.ctxRef := rfl
@[simp] theorem hbmWrite_park (s : State) (a : Nat) (b : Block) : (hbmWrite s a b).park = s.park := rfl
@[simp] theorem hbmWrite_heldDg (s : State) (a : Nat) (b : Block) : (hbmWrite s a b).heldDg = s.heldDg := rfl
@[simp] theorem hbmWrite_bufWait (s : State) (a : Nat) (b : Block) : (hbmWrite s a b).bufWait = s.bufWait := rfl
@[simp] theorem hbmWrite_fetching (s : State) (a : Nat) (b : Block) : (hbmWrite s a b).fetching = s.fetching := rfl
@[simp] theorem hbmWrite_evFwd (s : State) (a : Nat) (b : Block) : (hbmWrite s a b).evFwd = s.evFwd := rfl
@[simp] theorem hbmWrite_ready (s : State) (a : Nat) (b : Block) : (hbmWrite s a b).ready = s.ready := rfl
@[simp] theorem hbmWrite_pauseBoot (s : State) (a : Nat) (b : Block) : (hbmWrite s a b).pauseBoot = s.pauseBoot := rfl
@[simp] theorem hbmWrite_pausePark (s : State) (a : Nat) (b : Block) : (hbmWrite s a b).pausePark = s.pausePark := rfl
@[simp] theorem hbmWrite_pauseBuf (s : State) (a : Nat) (b : Block) : (hbmWrite s a b).pauseBuf = s.pauseBuf := rfl
@[simp] theorem hbmWrite_pauseAt (s : State) (a : Nat) (b : Block) : (hbmWrite s a b).pauseAt = s.pauseAt := rfl
@[simp] theorem hbmWrite_peerPause (s : State) (a : Nat) (b : Block) : (hbmWrite s a b).peerPause = s.peerPause := rfl
@[simp] theorem hbmWrite_ptpSync (s : State) (a : Nat) (b : Block) : (hbmWrite s a b).ptpSync = s.ptpSync := rfl
@[simp] theorem hbmWrite_slew (s : State) (a : Nat) (b : Block) : (hbmWrite s a b).slew = s.slew := rfl
@[simp] theorem hbmWrite_slewPhase (s : State) (a : Nat) (b : Block) : (hbmWrite s a b).slewPhase = s.slewPhase := rfl
@[simp] theorem hbmWrite_tbStepped (s : State) (a : Nat) (b : Block) : (hbmWrite s a b).tbStepped = s.tbStepped := rfl
@[simp] theorem hbmWrite_wire (s : State) (a : Nat) (b : Block) : (hbmWrite s a b).wire = s.wire := rfl
@[simp] theorem hbmWrite_layout (s : State) (a : Nat) (b : Block) : (hbmWrite s a b).layout = s.layout := rfl
@[simp] theorem hbmWrite_volumes (s : State) (a : Nat) (b : Block) : (hbmWrite s a b).volumes = s.volumes := rfl
@[simp] theorem hbmWrite_map (s : State) (a : Nat) (b : Block) : (hbmWrite s a b).map = s.map := rfl
@[simp] theorem hbmWrite_leaves (s : State) (a : Nat) (b : Block) : (hbmWrite s a b).leaves = s.leaves := rfl
@[simp] theorem hbmWrite_courses (s : State) (a : Nat) (b : Block) : (hbmWrite s a b).courses = s.courses := rfl
@[simp] theorem hbmWrite_repourWait (s : State) (a : Nat) (b : Block) : (hbmWrite s a b).repourWait = s.repourWait := rfl
@[simp] theorem hbmWrite_leads (s : State) (a : Nat) (b : Block) : (hbmWrite s a b).leads = s.leads := rfl
@[simp] theorem hbmWrite_lastOrd (s : State) (a : Nat) (b : Block) : (hbmWrite s a b).lastOrd = s.lastOrd := rfl
@[simp] theorem hbmWrite_reclaiming (s : State) (a : Nat) (b : Block) : (hbmWrite s a b).reclaiming = s.reclaiming := rfl
@[simp] theorem hbmWrite_pours (s : State) (a : Nat) (b : Block) : (hbmWrite s a b).pours = s.pours := rfl
@[simp] theorem hbmWrite_poursRecl (s : State) (a : Nat) (b : Block) : (hbmWrite s a b).poursRecl = s.poursRecl := rfl
@[simp] theorem hbmWrite_spaceLow (s : State) (a : Nat) (b : Block) : (hbmWrite s a b).spaceLow = s.spaceLow := rfl
@[simp] theorem hbmWrite_flashDir (s : State) (a : Nat) (b : Block) : (hbmWrite s a b).flashDir = s.flashDir := rfl
@[simp] theorem hbmWrite_media (s : State) (a : Nat) (b : Block) : (hbmWrite s a b).media = s.media := rfl
@[simp] theorem hbmWrite_owners (s : State) (a : Nat) (b : Block) : (hbmWrite s a b).owners = s.owners := rfl
@[simp] theorem hbmWrite_standin (s : State) (a : Nat) (b : Block) : (hbmWrite s a b).standin = s.standin := rfl
@[simp] theorem hbmWrite_standin2 (s : State) (a : Nat) (b : Block) : (hbmWrite s a b).standin2 = s.standin2 := rfl
@[simp] theorem hbmWrite_qtabGone (s : State) (a : Nat) (b : Block) : (hbmWrite s a b).qtabGone = s.qtabGone := rfl
@[simp] theorem hbmWrite_ucn (s : State) (a : Nat) (b : Block) : (hbmWrite s a b).ucn = s.ucn := rfl
@[simp] theorem hbmWrite_ucnDone (s : State) (a : Nat) (b : Block) : (hbmWrite s a b).ucnDone = s.ucnDone := rfl
@[simp] theorem hbmWrite_durable (s : State) (a : Nat) (b : Block) : (hbmWrite s a b).durable = s.durable := rfl
@[simp] theorem hbmWrite_members (s : State) (a : Nat) (b : Block) : (hbmWrite s a b).members = s.members := rfl
@[simp] theorem hbmWrite_nextCmd (s : State) (a : Nat) (b : Block) : (hbmWrite s a b).nextCmd = s.nextCmd := rfl
@[simp] theorem hbmWrite_reads (s : State) (a : Nat) (b : Block) : (hbmWrite s a b).reads = s.reads := rfl
@[simp] theorem hbmWrite_nextRead (s : State) (a : Nat) (b : Block) : (hbmWrite s a b).nextRead = s.nextRead := rfl
@[simp] theorem hbmWrite_spare (s : State) (a : Nat) (b : Block) : (hbmWrite s a b).spare = s.spare := rfl
@[simp] theorem hbmWrite_spareResv (s : State) (a : Nat) (b : Block) : (hbmWrite s a b).spareResv = s.spareResv := rfl
@[simp] theorem hbmWrite_spareWp (s : State) (a : Nat) (b : Block) : (hbmWrite s a b).spareWp = s.spareWp := rfl
@[simp] theorem hbmWrite_spareHeld (s : State) (a : Nat) (b : Block) : (hbmWrite s a b).spareHeld = s.spareHeld := rfl
@[simp] theorem hbmWrite_rebuildQ (s : State) (a : Nat) (b : Block) : (hbmWrite s a b).rebuildQ = s.rebuildQ := rfl
@[simp] theorem hbmWrite_lostRange (s : State) (a : Nat) (b : Block) : (hbmWrite s a b).lostRange = s.lostRange := rfl
@[simp] theorem hbmWrite_copyBack (s : State) (a : Nat) (b : Block) : (hbmWrite s a b).copyBack = s.copyBack := rfl
@[simp] theorem hbmWrite_quorum (s : State) (a : Nat) (b : Block) : (hbmWrite s a b).quorum = s.quorum := rfl
@[simp] theorem hbmWrite_qShort (s : State) (a : Nat) (b : Block) : (hbmWrite s a b).qShort = s.qShort := rfl
@[simp] theorem hbmWrite_drvTrain (s : State) (a : Nat) (b : Block) : (hbmWrite s a b).drvTrain = s.drvTrain := rfl
@[simp] theorem hbmWrite_recovery (s : State) (a : Nat) (b : Block) : (hbmWrite s a b).recovery = s.recovery := rfl
@[simp] theorem hbmWrite_resetTb (s : State) (a : Nat) (b : Block) : (hbmWrite s a b).resetTb = s.resetTb := rfl
@[simp] theorem hbmWrite_frames (s : State) (a : Nat) (b : Block) : (hbmWrite s a b).frames = s.frames := rfl
@[simp] theorem hbmWrite_mcast (s : State) (a : Nat) (b : Block) : (hbmWrite s a b).mcast = s.mcast := rfl
@[simp] theorem hbmWrite_mcResult (s : State) (a : Nat) (b : Block) : (hbmWrite s a b).mcResult = s.mcResult := rfl
@[simp] theorem hbmWrite_oldLookup (s : State) (a : Nat) (b : Block) : (hbmWrite s a b).oldLookup = s.oldLookup := rfl
@[simp] theorem hbmWrite_nextFrame (s : State) (a : Nat) (b : Block) : (hbmWrite s a b).nextFrame = s.nextFrame := rfl
@[simp] theorem hbmWrite_outs (s : State) (a : Nat) (b : Block) : (hbmWrite s a b).outs = s.outs := rfl
@[simp] theorem hbmWrite_gates (s : State) (a : Nat) (b : Block) : (hbmWrite s a b).gates = s.gates := rfl
@[simp] theorem hbmWrite_policers (s : State) (a : Nat) (b : Block) : (hbmWrite s a b).policers = s.policers := rfl
@[simp] theorem hbmWrite_links (s : State) (a : Nat) (b : Block) : (hbmWrite s a b).links = s.links := rfl
@[simp] theorem hbmWrite_barrier (s : State) (a : Nat) (b : Block) : (hbmWrite s a b).barrier = s.barrier := rfl
@[simp] theorem hbmWrite_windows (s : State) (a : Nat) (b : Block) : (hbmWrite s a b).windows = s.windows := rfl
@[simp] theorem hbmWrite_availAt (s : State) (a : Nat) (b : Block) : (hbmWrite s a b).availAt = s.availAt := rfl
@[simp] theorem hbmWrite_rot (s : State) (a : Nat) (b : Block) : (hbmWrite s a b).rot = s.rot := rfl
@[simp] theorem hbmWrite_copies (s : State) (a : Nat) (b : Block) : (hbmWrite s a b).copies = s.copies := rfl
@[simp] theorem hbmWrite_scLines (s : State) (a : Nat) (b : Block) : (hbmWrite s a b).scLines = s.scLines := rfl
@[simp] theorem hbmWrite_victim (s : State) (a : Nat) (b : Block) : (hbmWrite s a b).victim = s.victim := rfl
@[simp] theorem hbmWrite_scLfsr (s : State) (a : Nat) (b : Block) : (hbmWrite s a b).scLfsr = s.scLfsr := rfl
@[simp] theorem hbmWrite_dcLines (s : State) (a : Nat) (b : Block) : (hbmWrite s a b).dcLines = s.dcLines := rfl
@[simp] theorem hbmWrite_dcTree (s : State) (a : Nat) (b : Block) : (hbmWrite s a b).dcTree = s.dcTree := rfl
@[simp] theorem hbmWrite_icLines (s : State) (a : Nat) (b : Block) : (hbmWrite s a b).icLines = s.icLines := rfl
@[simp] theorem hbmWrite_icTree (s : State) (a : Nat) (b : Block) : (hbmWrite s a b).icTree = s.icTree := rfl
@[simp] theorem hbmWrite_wayErrs (s : State) (a : Nat) (b : Block) : (hbmWrite s a b).wayErrs = s.wayErrs := rfl
@[simp] theorem hbmWrite_lease (s : State) (a : Nat) (b : Block) : (hbmWrite s a b).lease = s.lease := rfl
@[simp] theorem hbmWrite_chain (s : State) (a : Nat) (b : Block) : (hbmWrite s a b).chain = s.chain := rfl
@[simp] theorem hbmWrite_pin (s : State) (a : Nat) (b : Block) : (hbmWrite s a b).pin = s.pin := rfl
@[simp] theorem hbmWrite_lastCount (s : State) (a : Nat) (b : Block) : (hbmWrite s a b).lastCount = s.lastCount := rfl
@[simp] theorem hbmWrite_sampling (s : State) (a : Nat) (b : Block) : (hbmWrite s a b).sampling = s.sampling := rfl
@[simp] theorem hbmWrite_dumpSeq (s : State) (a : Nat) (b : Block) : (hbmWrite s a b).dumpSeq = s.dumpSeq := rfl
@[simp] theorem hbmWrite_secure (s : State) (a : Nat) (b : Block) : (hbmWrite s a b).secure = s.secure := rfl
@[simp] theorem hbmWrite_admin (s : State) (a : Nat) (b : Block) : (hbmWrite s a b).admin = s.admin := rfl
@[simp] theorem hbmWrite_power (s : State) (a : Nat) (b : Block) : (hbmWrite s a b).power = s.power := rfl
@[simp] theorem hbmWrite_mod (s : State) (a : Nat) (b : Block) : (hbmWrite s a b).mod = s.mod := rfl
@[simp] theorem hbmWrite_fresh (s : State) (a : Nat) (b : Block) : (hbmWrite s a b).fresh = s.fresh := rfl
@[simp] theorem hbmWrite_pending (s : State) (a : Nat) (b : Block) : (hbmWrite s a b).pending = s.pending := rfl

/-! ### `putJob` -/

@[simp] theorem putJob_n (s : State) (id : Nat) (j : Job) : (putJob s id j).n = s.n := rfl
@[simp] theorem putJob_tb (s : State) (id : Nat) (j : Job) : (putJob s id j).tb = s.tb := rfl
@[simp] theorem putJob_ctl (s : State) (id : Nat) (j : Job) : (putJob s id j).ctl = s.ctl := rfl
@[simp] theorem putJob_lost (s : State) (id : Nat) (j : Job) : (putJob s id j).lost = s.lost := rfl
@[simp] theorem putJob_lastLost (s : State) (id : Nat) (j : Job) : (putJob s id j).lastLost = s.lastLost := rfl
@[simp] theorem putJob_ptrs (s : State) (id : Nat) (j : Job) : (putJob s id j).ptrs = s.ptrs := rfl
@[simp] theorem putJob_nextJob (s : State) (id : Nat) (j : Job) : (putJob s id j).nextJob = s.nextJob := rfl
@[simp] theorem putJob_buffers (s : State) (id : Nat) (j : Job) : (putJob s id j).buffers = s.buffers := rfl
@[simp] theorem putJob_nextBuf (s : State) (id : Nat) (j : Job) : (putJob s id j).nextBuf = s.nextBuf := rfl
@[simp] theorem putJob_threads (s : State) (id : Nat) (j : Job) : (putJob s id j).threads = s.threads := rfl
@[simp] theorem putJob_hkRestart (s : State) (id : Nat) (j : Job) : (putJob s id j).hkRestart = s.hkRestart := rfl
@[simp] theorem putJob_dispatchQ (s : State) (id : Nat) (j : Job) : (putJob s id j).dispatchQ = s.dispatchQ := rfl
@[simp] theorem putJob_resumeQ (s : State) (id : Nat) (j : Job) : (putJob s id j).resumeQ = s.resumeQ := rfl
@[simp] theorem putJob_progs (s : State) (id : Nat) (j : Job) : (putJob s id j).progs = s.progs := rfl
@[simp] theorem putJob_nextProg (s : State) (id : Nat) (j : Job) : (putJob s id j).nextProg = s.nextProg := rfl
@[simp] theorem putJob_slots (s : State) (id : Nat) (j : Job) : (putJob s id j).slots = s.slots := rfl
@[simp] theorem putJob_cutover (s : State) (id : Nat) (j : Job) : (putJob s id j).cutover = s.cutover := rfl
@[simp] theorem putJob_evPend (s : State) (id : Nat) (j : Job) : (putJob s id j).evPend = s.evPend := rfl
@[simp] theorem putJob_hbm (s : State) (id : Nat) (j : Job) : (putJob s id j).hbm = s.hbm := rfl
@[simp] theorem putJob_poison (s : State) (id : Nat) (j : Job) : (putJob s id j).poison = s.poison := rfl
@[simp] theorem putJob_keys (s : State) (id : Nat) (j : Job) : (putJob s id j).keys = s.keys := rfl
@[simp] theorem putJob_keySeq (s : State) (id : Nat) (j : Job) : (putJob s id j).keySeq = s.keySeq := rfl
@[simp] theorem putJob_stage (s : State) (id : Nat) (j : Job) : (putJob s id j).stage = s.stage := rfl
@[simp] theorem putJob_queues (s : State) (id : Nat) (j : Job) : (putJob s id j).queues = s.queues := rfl
@[simp] theorem putJob_hazards (s : State) (id : Nat) (j : Job) : (putJob s id j).hazards = s.hazards := rfl
@[simp] theorem putJob_hazPast (s : State) (id : Nat) (j : Job) : (putJob s id j).hazPast = s.hazPast := rfl
@[simp] theorem putJob_hazSeq (s : State) (id : Nat) (j : Job) : (putJob s id j).hazSeq = s.hazSeq := rfl
@[simp] theorem putJob_ctxRef (s : State) (id : Nat) (j : Job) : (putJob s id j).ctxRef = s.ctxRef := rfl
@[simp] theorem putJob_park (s : State) (id : Nat) (j : Job) : (putJob s id j).park = s.park := rfl
@[simp] theorem putJob_heldDg (s : State) (id : Nat) (j : Job) : (putJob s id j).heldDg = s.heldDg := rfl
@[simp] theorem putJob_bufWait (s : State) (id : Nat) (j : Job) : (putJob s id j).bufWait = s.bufWait := rfl
@[simp] theorem putJob_fetching (s : State) (id : Nat) (j : Job) : (putJob s id j).fetching = s.fetching := rfl
@[simp] theorem putJob_evFwd (s : State) (id : Nat) (j : Job) : (putJob s id j).evFwd = s.evFwd := rfl
@[simp] theorem putJob_ready (s : State) (id : Nat) (j : Job) : (putJob s id j).ready = s.ready := rfl
@[simp] theorem putJob_pauseBoot (s : State) (id : Nat) (j : Job) : (putJob s id j).pauseBoot = s.pauseBoot := rfl
@[simp] theorem putJob_pausePark (s : State) (id : Nat) (j : Job) : (putJob s id j).pausePark = s.pausePark := rfl
@[simp] theorem putJob_pauseBuf (s : State) (id : Nat) (j : Job) : (putJob s id j).pauseBuf = s.pauseBuf := rfl
@[simp] theorem putJob_pauseAt (s : State) (id : Nat) (j : Job) : (putJob s id j).pauseAt = s.pauseAt := rfl
@[simp] theorem putJob_peerPause (s : State) (id : Nat) (j : Job) : (putJob s id j).peerPause = s.peerPause := rfl
@[simp] theorem putJob_ptpSync (s : State) (id : Nat) (j : Job) : (putJob s id j).ptpSync = s.ptpSync := rfl
@[simp] theorem putJob_slew (s : State) (id : Nat) (j : Job) : (putJob s id j).slew = s.slew := rfl
@[simp] theorem putJob_slewPhase (s : State) (id : Nat) (j : Job) : (putJob s id j).slewPhase = s.slewPhase := rfl
@[simp] theorem putJob_tbStepped (s : State) (id : Nat) (j : Job) : (putJob s id j).tbStepped = s.tbStepped := rfl
@[simp] theorem putJob_wire (s : State) (id : Nat) (j : Job) : (putJob s id j).wire = s.wire := rfl
@[simp] theorem putJob_layout (s : State) (id : Nat) (j : Job) : (putJob s id j).layout = s.layout := rfl
@[simp] theorem putJob_volumes (s : State) (id : Nat) (j : Job) : (putJob s id j).volumes = s.volumes := rfl
@[simp] theorem putJob_map (s : State) (id : Nat) (j : Job) : (putJob s id j).map = s.map := rfl
@[simp] theorem putJob_leaves (s : State) (id : Nat) (j : Job) : (putJob s id j).leaves = s.leaves := rfl
@[simp] theorem putJob_courses (s : State) (id : Nat) (j : Job) : (putJob s id j).courses = s.courses := rfl
@[simp] theorem putJob_repourWait (s : State) (id : Nat) (j : Job) : (putJob s id j).repourWait = s.repourWait := rfl
@[simp] theorem putJob_leads (s : State) (id : Nat) (j : Job) : (putJob s id j).leads = s.leads := rfl
@[simp] theorem putJob_lastOrd (s : State) (id : Nat) (j : Job) : (putJob s id j).lastOrd = s.lastOrd := rfl
@[simp] theorem putJob_reclaiming (s : State) (id : Nat) (j : Job) : (putJob s id j).reclaiming = s.reclaiming := rfl
@[simp] theorem putJob_pours (s : State) (id : Nat) (j : Job) : (putJob s id j).pours = s.pours := rfl
@[simp] theorem putJob_poursRecl (s : State) (id : Nat) (j : Job) : (putJob s id j).poursRecl = s.poursRecl := rfl
@[simp] theorem putJob_spaceLow (s : State) (id : Nat) (j : Job) : (putJob s id j).spaceLow = s.spaceLow := rfl
@[simp] theorem putJob_flashDir (s : State) (id : Nat) (j : Job) : (putJob s id j).flashDir = s.flashDir := rfl
@[simp] theorem putJob_media (s : State) (id : Nat) (j : Job) : (putJob s id j).media = s.media := rfl
@[simp] theorem putJob_owners (s : State) (id : Nat) (j : Job) : (putJob s id j).owners = s.owners := rfl
@[simp] theorem putJob_standin (s : State) (id : Nat) (j : Job) : (putJob s id j).standin = s.standin := rfl
@[simp] theorem putJob_standin2 (s : State) (id : Nat) (j : Job) : (putJob s id j).standin2 = s.standin2 := rfl
@[simp] theorem putJob_qtabGone (s : State) (id : Nat) (j : Job) : (putJob s id j).qtabGone = s.qtabGone := rfl
@[simp] theorem putJob_ucn (s : State) (id : Nat) (j : Job) : (putJob s id j).ucn = s.ucn := rfl
@[simp] theorem putJob_ucnDone (s : State) (id : Nat) (j : Job) : (putJob s id j).ucnDone = s.ucnDone := rfl
@[simp] theorem putJob_durable (s : State) (id : Nat) (j : Job) : (putJob s id j).durable = s.durable := rfl
@[simp] theorem putJob_members (s : State) (id : Nat) (j : Job) : (putJob s id j).members = s.members := rfl
@[simp] theorem putJob_nextCmd (s : State) (id : Nat) (j : Job) : (putJob s id j).nextCmd = s.nextCmd := rfl
@[simp] theorem putJob_reads (s : State) (id : Nat) (j : Job) : (putJob s id j).reads = s.reads := rfl
@[simp] theorem putJob_nextRead (s : State) (id : Nat) (j : Job) : (putJob s id j).nextRead = s.nextRead := rfl
@[simp] theorem putJob_spare (s : State) (id : Nat) (j : Job) : (putJob s id j).spare = s.spare := rfl
@[simp] theorem putJob_spareResv (s : State) (id : Nat) (j : Job) : (putJob s id j).spareResv = s.spareResv := rfl
@[simp] theorem putJob_spareWp (s : State) (id : Nat) (j : Job) : (putJob s id j).spareWp = s.spareWp := rfl
@[simp] theorem putJob_spareHeld (s : State) (id : Nat) (j : Job) : (putJob s id j).spareHeld = s.spareHeld := rfl
@[simp] theorem putJob_rebuildQ (s : State) (id : Nat) (j : Job) : (putJob s id j).rebuildQ = s.rebuildQ := rfl
@[simp] theorem putJob_lostRange (s : State) (id : Nat) (j : Job) : (putJob s id j).lostRange = s.lostRange := rfl
@[simp] theorem putJob_copyBack (s : State) (id : Nat) (j : Job) : (putJob s id j).copyBack = s.copyBack := rfl
@[simp] theorem putJob_quorum (s : State) (id : Nat) (j : Job) : (putJob s id j).quorum = s.quorum := rfl
@[simp] theorem putJob_qShort (s : State) (id : Nat) (j : Job) : (putJob s id j).qShort = s.qShort := rfl
@[simp] theorem putJob_drvTrain (s : State) (id : Nat) (j : Job) : (putJob s id j).drvTrain = s.drvTrain := rfl
@[simp] theorem putJob_recovery (s : State) (id : Nat) (j : Job) : (putJob s id j).recovery = s.recovery := rfl
@[simp] theorem putJob_resetTb (s : State) (id : Nat) (j : Job) : (putJob s id j).resetTb = s.resetTb := rfl
@[simp] theorem putJob_frames (s : State) (id : Nat) (j : Job) : (putJob s id j).frames = s.frames := rfl
@[simp] theorem putJob_mcast (s : State) (id : Nat) (j : Job) : (putJob s id j).mcast = s.mcast := rfl
@[simp] theorem putJob_mcResult (s : State) (id : Nat) (j : Job) : (putJob s id j).mcResult = s.mcResult := rfl
@[simp] theorem putJob_oldLookup (s : State) (id : Nat) (j : Job) : (putJob s id j).oldLookup = s.oldLookup := rfl
@[simp] theorem putJob_nextFrame (s : State) (id : Nat) (j : Job) : (putJob s id j).nextFrame = s.nextFrame := rfl
@[simp] theorem putJob_outs (s : State) (id : Nat) (j : Job) : (putJob s id j).outs = s.outs := rfl
@[simp] theorem putJob_gates (s : State) (id : Nat) (j : Job) : (putJob s id j).gates = s.gates := rfl
@[simp] theorem putJob_policers (s : State) (id : Nat) (j : Job) : (putJob s id j).policers = s.policers := rfl
@[simp] theorem putJob_links (s : State) (id : Nat) (j : Job) : (putJob s id j).links = s.links := rfl
@[simp] theorem putJob_barrier (s : State) (id : Nat) (j : Job) : (putJob s id j).barrier = s.barrier := rfl
@[simp] theorem putJob_windows (s : State) (id : Nat) (j : Job) : (putJob s id j).windows = s.windows := rfl
@[simp] theorem putJob_availAt (s : State) (id : Nat) (j : Job) : (putJob s id j).availAt = s.availAt := rfl
@[simp] theorem putJob_rot (s : State) (id : Nat) (j : Job) : (putJob s id j).rot = s.rot := rfl
@[simp] theorem putJob_copies (s : State) (id : Nat) (j : Job) : (putJob s id j).copies = s.copies := rfl
@[simp] theorem putJob_scLines (s : State) (id : Nat) (j : Job) : (putJob s id j).scLines = s.scLines := rfl
@[simp] theorem putJob_victim (s : State) (id : Nat) (j : Job) : (putJob s id j).victim = s.victim := rfl
@[simp] theorem putJob_scLfsr (s : State) (id : Nat) (j : Job) : (putJob s id j).scLfsr = s.scLfsr := rfl
@[simp] theorem putJob_dcLines (s : State) (id : Nat) (j : Job) : (putJob s id j).dcLines = s.dcLines := rfl
@[simp] theorem putJob_dcTree (s : State) (id : Nat) (j : Job) : (putJob s id j).dcTree = s.dcTree := rfl
@[simp] theorem putJob_icLines (s : State) (id : Nat) (j : Job) : (putJob s id j).icLines = s.icLines := rfl
@[simp] theorem putJob_icTree (s : State) (id : Nat) (j : Job) : (putJob s id j).icTree = s.icTree := rfl
@[simp] theorem putJob_wayErrs (s : State) (id : Nat) (j : Job) : (putJob s id j).wayErrs = s.wayErrs := rfl
@[simp] theorem putJob_lease (s : State) (id : Nat) (j : Job) : (putJob s id j).lease = s.lease := rfl
@[simp] theorem putJob_chain (s : State) (id : Nat) (j : Job) : (putJob s id j).chain = s.chain := rfl
@[simp] theorem putJob_pin (s : State) (id : Nat) (j : Job) : (putJob s id j).pin = s.pin := rfl
@[simp] theorem putJob_lastCount (s : State) (id : Nat) (j : Job) : (putJob s id j).lastCount = s.lastCount := rfl
@[simp] theorem putJob_sampling (s : State) (id : Nat) (j : Job) : (putJob s id j).sampling = s.sampling := rfl
@[simp] theorem putJob_dumpSeq (s : State) (id : Nat) (j : Job) : (putJob s id j).dumpSeq = s.dumpSeq := rfl
@[simp] theorem putJob_secure (s : State) (id : Nat) (j : Job) : (putJob s id j).secure = s.secure := rfl
@[simp] theorem putJob_admin (s : State) (id : Nat) (j : Job) : (putJob s id j).admin = s.admin := rfl
@[simp] theorem putJob_power (s : State) (id : Nat) (j : Job) : (putJob s id j).power = s.power := rfl
@[simp] theorem putJob_mod (s : State) (id : Nat) (j : Job) : (putJob s id j).mod = s.mod := rfl
@[simp] theorem putJob_fresh (s : State) (id : Nat) (j : Job) : (putJob s id j).fresh = s.fresh := rfl
@[simp] theorem putJob_pending (s : State) (id : Nat) (j : Job) : (putJob s id j).pending = s.pending := rfl

/-! ### `putMember` -/

@[simp] theorem putMember_n (s : State) (m : Nat) (x : Member) : (putMember s m x).n = s.n := rfl
@[simp] theorem putMember_tb (s : State) (m : Nat) (x : Member) : (putMember s m x).tb = s.tb := rfl
@[simp] theorem putMember_ctl (s : State) (m : Nat) (x : Member) : (putMember s m x).ctl = s.ctl := rfl
@[simp] theorem putMember_lost (s : State) (m : Nat) (x : Member) : (putMember s m x).lost = s.lost := rfl
@[simp] theorem putMember_lastLost (s : State) (m : Nat) (x : Member) : (putMember s m x).lastLost = s.lastLost := rfl
@[simp] theorem putMember_ptrs (s : State) (m : Nat) (x : Member) : (putMember s m x).ptrs = s.ptrs := rfl
@[simp] theorem putMember_jobs (s : State) (m : Nat) (x : Member) : (putMember s m x).jobs = s.jobs := rfl
@[simp] theorem putMember_nextJob (s : State) (m : Nat) (x : Member) : (putMember s m x).nextJob = s.nextJob := rfl
@[simp] theorem putMember_buffers (s : State) (m : Nat) (x : Member) : (putMember s m x).buffers = s.buffers := rfl
@[simp] theorem putMember_nextBuf (s : State) (m : Nat) (x : Member) : (putMember s m x).nextBuf = s.nextBuf := rfl
@[simp] theorem putMember_threads (s : State) (m : Nat) (x : Member) : (putMember s m x).threads = s.threads := rfl
@[simp] theorem putMember_hkRestart (s : State) (m : Nat) (x : Member) : (putMember s m x).hkRestart = s.hkRestart := rfl
@[simp] theorem putMember_dispatchQ (s : State) (m : Nat) (x : Member) : (putMember s m x).dispatchQ = s.dispatchQ := rfl
@[simp] theorem putMember_resumeQ (s : State) (m : Nat) (x : Member) : (putMember s m x).resumeQ = s.resumeQ := rfl
@[simp] theorem putMember_progs (s : State) (m : Nat) (x : Member) : (putMember s m x).progs = s.progs := rfl
@[simp] theorem putMember_nextProg (s : State) (m : Nat) (x : Member) : (putMember s m x).nextProg = s.nextProg := rfl
@[simp] theorem putMember_slots (s : State) (m : Nat) (x : Member) : (putMember s m x).slots = s.slots := rfl
@[simp] theorem putMember_cutover (s : State) (m : Nat) (x : Member) : (putMember s m x).cutover = s.cutover := rfl
@[simp] theorem putMember_evPend (s : State) (m : Nat) (x : Member) : (putMember s m x).evPend = s.evPend := rfl
@[simp] theorem putMember_hbm (s : State) (m : Nat) (x : Member) : (putMember s m x).hbm = s.hbm := rfl
@[simp] theorem putMember_poison (s : State) (m : Nat) (x : Member) : (putMember s m x).poison = s.poison := rfl
@[simp] theorem putMember_keys (s : State) (m : Nat) (x : Member) : (putMember s m x).keys = s.keys := rfl
@[simp] theorem putMember_keySeq (s : State) (m : Nat) (x : Member) : (putMember s m x).keySeq = s.keySeq := rfl
@[simp] theorem putMember_stage (s : State) (m : Nat) (x : Member) : (putMember s m x).stage = s.stage := rfl
@[simp] theorem putMember_queues (s : State) (m : Nat) (x : Member) : (putMember s m x).queues = s.queues := rfl
@[simp] theorem putMember_hazards (s : State) (m : Nat) (x : Member) : (putMember s m x).hazards = s.hazards := rfl
@[simp] theorem putMember_hazPast (s : State) (m : Nat) (x : Member) : (putMember s m x).hazPast = s.hazPast := rfl
@[simp] theorem putMember_hazSeq (s : State) (m : Nat) (x : Member) : (putMember s m x).hazSeq = s.hazSeq := rfl
@[simp] theorem putMember_ctxRef (s : State) (m : Nat) (x : Member) : (putMember s m x).ctxRef = s.ctxRef := rfl
@[simp] theorem putMember_park (s : State) (m : Nat) (x : Member) : (putMember s m x).park = s.park := rfl
@[simp] theorem putMember_heldDg (s : State) (m : Nat) (x : Member) : (putMember s m x).heldDg = s.heldDg := rfl
@[simp] theorem putMember_bufWait (s : State) (m : Nat) (x : Member) : (putMember s m x).bufWait = s.bufWait := rfl
@[simp] theorem putMember_fetching (s : State) (m : Nat) (x : Member) : (putMember s m x).fetching = s.fetching := rfl
@[simp] theorem putMember_evFwd (s : State) (m : Nat) (x : Member) : (putMember s m x).evFwd = s.evFwd := rfl
@[simp] theorem putMember_ready (s : State) (m : Nat) (x : Member) : (putMember s m x).ready = s.ready := rfl
@[simp] theorem putMember_pauseBoot (s : State) (m : Nat) (x : Member) : (putMember s m x).pauseBoot = s.pauseBoot := rfl
@[simp] theorem putMember_pausePark (s : State) (m : Nat) (x : Member) : (putMember s m x).pausePark = s.pausePark := rfl
@[simp] theorem putMember_pauseBuf (s : State) (m : Nat) (x : Member) : (putMember s m x).pauseBuf = s.pauseBuf := rfl
@[simp] theorem putMember_pauseAt (s : State) (m : Nat) (x : Member) : (putMember s m x).pauseAt = s.pauseAt := rfl
@[simp] theorem putMember_peerPause (s : State) (m : Nat) (x : Member) : (putMember s m x).peerPause = s.peerPause := rfl
@[simp] theorem putMember_ptpSync (s : State) (m : Nat) (x : Member) : (putMember s m x).ptpSync = s.ptpSync := rfl
@[simp] theorem putMember_slew (s : State) (m : Nat) (x : Member) : (putMember s m x).slew = s.slew := rfl
@[simp] theorem putMember_slewPhase (s : State) (m : Nat) (x : Member) : (putMember s m x).slewPhase = s.slewPhase := rfl
@[simp] theorem putMember_tbStepped (s : State) (m : Nat) (x : Member) : (putMember s m x).tbStepped = s.tbStepped := rfl
@[simp] theorem putMember_wire (s : State) (m : Nat) (x : Member) : (putMember s m x).wire = s.wire := rfl
@[simp] theorem putMember_layout (s : State) (m : Nat) (x : Member) : (putMember s m x).layout = s.layout := rfl
@[simp] theorem putMember_volumes (s : State) (m : Nat) (x : Member) : (putMember s m x).volumes = s.volumes := rfl
@[simp] theorem putMember_map (s : State) (m : Nat) (x : Member) : (putMember s m x).map = s.map := rfl
@[simp] theorem putMember_leaves (s : State) (m : Nat) (x : Member) : (putMember s m x).leaves = s.leaves := rfl
@[simp] theorem putMember_courses (s : State) (m : Nat) (x : Member) : (putMember s m x).courses = s.courses := rfl
@[simp] theorem putMember_repourWait (s : State) (m : Nat) (x : Member) : (putMember s m x).repourWait = s.repourWait := rfl
@[simp] theorem putMember_leads (s : State) (m : Nat) (x : Member) : (putMember s m x).leads = s.leads := rfl
@[simp] theorem putMember_lastOrd (s : State) (m : Nat) (x : Member) : (putMember s m x).lastOrd = s.lastOrd := rfl
@[simp] theorem putMember_reclaiming (s : State) (m : Nat) (x : Member) : (putMember s m x).reclaiming = s.reclaiming := rfl
@[simp] theorem putMember_pours (s : State) (m : Nat) (x : Member) : (putMember s m x).pours = s.pours := rfl
@[simp] theorem putMember_poursRecl (s : State) (m : Nat) (x : Member) : (putMember s m x).poursRecl = s.poursRecl := rfl
@[simp] theorem putMember_spaceLow (s : State) (m : Nat) (x : Member) : (putMember s m x).spaceLow = s.spaceLow := rfl
@[simp] theorem putMember_flashDir (s : State) (m : Nat) (x : Member) : (putMember s m x).flashDir = s.flashDir := rfl
@[simp] theorem putMember_media (s : State) (m : Nat) (x : Member) : (putMember s m x).media = s.media := rfl
@[simp] theorem putMember_owners (s : State) (m : Nat) (x : Member) : (putMember s m x).owners = s.owners := rfl
@[simp] theorem putMember_standin (s : State) (m : Nat) (x : Member) : (putMember s m x).standin = s.standin := rfl
@[simp] theorem putMember_standin2 (s : State) (m : Nat) (x : Member) : (putMember s m x).standin2 = s.standin2 := rfl
@[simp] theorem putMember_qtabGone (s : State) (m : Nat) (x : Member) : (putMember s m x).qtabGone = s.qtabGone := rfl
@[simp] theorem putMember_ucn (s : State) (m : Nat) (x : Member) : (putMember s m x).ucn = s.ucn := rfl
@[simp] theorem putMember_ucnDone (s : State) (m : Nat) (x : Member) : (putMember s m x).ucnDone = s.ucnDone := rfl
@[simp] theorem putMember_durable (s : State) (m : Nat) (x : Member) : (putMember s m x).durable = s.durable := rfl
@[simp] theorem putMember_nextCmd (s : State) (m : Nat) (x : Member) : (putMember s m x).nextCmd = s.nextCmd := rfl
@[simp] theorem putMember_reads (s : State) (m : Nat) (x : Member) : (putMember s m x).reads = s.reads := rfl
@[simp] theorem putMember_nextRead (s : State) (m : Nat) (x : Member) : (putMember s m x).nextRead = s.nextRead := rfl
@[simp] theorem putMember_spare (s : State) (m : Nat) (x : Member) : (putMember s m x).spare = s.spare := rfl
@[simp] theorem putMember_spareResv (s : State) (m : Nat) (x : Member) : (putMember s m x).spareResv = s.spareResv := rfl
@[simp] theorem putMember_spareWp (s : State) (m : Nat) (x : Member) : (putMember s m x).spareWp = s.spareWp := rfl
@[simp] theorem putMember_spareHeld (s : State) (m : Nat) (x : Member) : (putMember s m x).spareHeld = s.spareHeld := rfl
@[simp] theorem putMember_rebuildQ (s : State) (m : Nat) (x : Member) : (putMember s m x).rebuildQ = s.rebuildQ := rfl
@[simp] theorem putMember_lostRange (s : State) (m : Nat) (x : Member) : (putMember s m x).lostRange = s.lostRange := rfl
@[simp] theorem putMember_copyBack (s : State) (m : Nat) (x : Member) : (putMember s m x).copyBack = s.copyBack := rfl
@[simp] theorem putMember_quorum (s : State) (m : Nat) (x : Member) : (putMember s m x).quorum = s.quorum := rfl
@[simp] theorem putMember_qShort (s : State) (m : Nat) (x : Member) : (putMember s m x).qShort = s.qShort := rfl
@[simp] theorem putMember_drvTrain (s : State) (m : Nat) (x : Member) : (putMember s m x).drvTrain = s.drvTrain := rfl
@[simp] theorem putMember_recovery (s : State) (m : Nat) (x : Member) : (putMember s m x).recovery = s.recovery := rfl
@[simp] theorem putMember_resetTb (s : State) (m : Nat) (x : Member) : (putMember s m x).resetTb = s.resetTb := rfl
@[simp] theorem putMember_frames (s : State) (m : Nat) (x : Member) : (putMember s m x).frames = s.frames := rfl
@[simp] theorem putMember_mcast (s : State) (m : Nat) (x : Member) : (putMember s m x).mcast = s.mcast := rfl
@[simp] theorem putMember_mcResult (s : State) (m : Nat) (x : Member) : (putMember s m x).mcResult = s.mcResult := rfl
@[simp] theorem putMember_oldLookup (s : State) (m : Nat) (x : Member) : (putMember s m x).oldLookup = s.oldLookup := rfl
@[simp] theorem putMember_nextFrame (s : State) (m : Nat) (x : Member) : (putMember s m x).nextFrame = s.nextFrame := rfl
@[simp] theorem putMember_outs (s : State) (m : Nat) (x : Member) : (putMember s m x).outs = s.outs := rfl
@[simp] theorem putMember_gates (s : State) (m : Nat) (x : Member) : (putMember s m x).gates = s.gates := rfl
@[simp] theorem putMember_policers (s : State) (m : Nat) (x : Member) : (putMember s m x).policers = s.policers := rfl
@[simp] theorem putMember_links (s : State) (m : Nat) (x : Member) : (putMember s m x).links = s.links := rfl
@[simp] theorem putMember_barrier (s : State) (m : Nat) (x : Member) : (putMember s m x).barrier = s.barrier := rfl
@[simp] theorem putMember_windows (s : State) (m : Nat) (x : Member) : (putMember s m x).windows = s.windows := rfl
@[simp] theorem putMember_availAt (s : State) (m : Nat) (x : Member) : (putMember s m x).availAt = s.availAt := rfl
@[simp] theorem putMember_rot (s : State) (m : Nat) (x : Member) : (putMember s m x).rot = s.rot := rfl
@[simp] theorem putMember_copies (s : State) (m : Nat) (x : Member) : (putMember s m x).copies = s.copies := rfl
@[simp] theorem putMember_scLines (s : State) (m : Nat) (x : Member) : (putMember s m x).scLines = s.scLines := rfl
@[simp] theorem putMember_victim (s : State) (m : Nat) (x : Member) : (putMember s m x).victim = s.victim := rfl
@[simp] theorem putMember_scLfsr (s : State) (m : Nat) (x : Member) : (putMember s m x).scLfsr = s.scLfsr := rfl
@[simp] theorem putMember_dcLines (s : State) (m : Nat) (x : Member) : (putMember s m x).dcLines = s.dcLines := rfl
@[simp] theorem putMember_dcTree (s : State) (m : Nat) (x : Member) : (putMember s m x).dcTree = s.dcTree := rfl
@[simp] theorem putMember_icLines (s : State) (m : Nat) (x : Member) : (putMember s m x).icLines = s.icLines := rfl
@[simp] theorem putMember_icTree (s : State) (m : Nat) (x : Member) : (putMember s m x).icTree = s.icTree := rfl
@[simp] theorem putMember_wayErrs (s : State) (m : Nat) (x : Member) : (putMember s m x).wayErrs = s.wayErrs := rfl
@[simp] theorem putMember_lease (s : State) (m : Nat) (x : Member) : (putMember s m x).lease = s.lease := rfl
@[simp] theorem putMember_chain (s : State) (m : Nat) (x : Member) : (putMember s m x).chain = s.chain := rfl
@[simp] theorem putMember_pin (s : State) (m : Nat) (x : Member) : (putMember s m x).pin = s.pin := rfl
@[simp] theorem putMember_lastCount (s : State) (m : Nat) (x : Member) : (putMember s m x).lastCount = s.lastCount := rfl
@[simp] theorem putMember_sampling (s : State) (m : Nat) (x : Member) : (putMember s m x).sampling = s.sampling := rfl
@[simp] theorem putMember_dumpSeq (s : State) (m : Nat) (x : Member) : (putMember s m x).dumpSeq = s.dumpSeq := rfl
@[simp] theorem putMember_secure (s : State) (m : Nat) (x : Member) : (putMember s m x).secure = s.secure := rfl
@[simp] theorem putMember_admin (s : State) (m : Nat) (x : Member) : (putMember s m x).admin = s.admin := rfl
@[simp] theorem putMember_power (s : State) (m : Nat) (x : Member) : (putMember s m x).power = s.power := rfl
@[simp] theorem putMember_mod (s : State) (m : Nat) (x : Member) : (putMember s m x).mod = s.mod := rfl
@[simp] theorem putMember_fresh (s : State) (m : Nat) (x : Member) : (putMember s m x).fresh = s.fresh := rfl
@[simp] theorem putMember_pending (s : State) (m : Nat) (x : Member) : (putMember s m x).pending = s.pending := rfl

/-! ### `modQueue` -/

@[simp] theorem modQueue_n (s : State) (q : Nat) (g : Queue → Queue) : (modQueue s q g).n = s.n := rfl
@[simp] theorem modQueue_tb (s : State) (q : Nat) (g : Queue → Queue) : (modQueue s q g).tb = s.tb := rfl
@[simp] theorem modQueue_ctl (s : State) (q : Nat) (g : Queue → Queue) : (modQueue s q g).ctl = s.ctl := rfl
@[simp] theorem modQueue_lost (s : State) (q : Nat) (g : Queue → Queue) : (modQueue s q g).lost = s.lost := rfl
@[simp] theorem modQueue_lastLost (s : State) (q : Nat) (g : Queue → Queue) : (modQueue s q g).lastLost = s.lastLost := rfl
@[simp] theorem modQueue_ptrs (s : State) (q : Nat) (g : Queue → Queue) : (modQueue s q g).ptrs = s.ptrs := rfl
@[simp] theorem modQueue_jobs (s : State) (q : Nat) (g : Queue → Queue) : (modQueue s q g).jobs = s.jobs := rfl
@[simp] theorem modQueue_nextJob (s : State) (q : Nat) (g : Queue → Queue) : (modQueue s q g).nextJob = s.nextJob := rfl
@[simp] theorem modQueue_buffers (s : State) (q : Nat) (g : Queue → Queue) : (modQueue s q g).buffers = s.buffers := rfl
@[simp] theorem modQueue_nextBuf (s : State) (q : Nat) (g : Queue → Queue) : (modQueue s q g).nextBuf = s.nextBuf := rfl
@[simp] theorem modQueue_threads (s : State) (q : Nat) (g : Queue → Queue) : (modQueue s q g).threads = s.threads := rfl
@[simp] theorem modQueue_hkRestart (s : State) (q : Nat) (g : Queue → Queue) : (modQueue s q g).hkRestart = s.hkRestart := rfl
@[simp] theorem modQueue_dispatchQ (s : State) (q : Nat) (g : Queue → Queue) : (modQueue s q g).dispatchQ = s.dispatchQ := rfl
@[simp] theorem modQueue_resumeQ (s : State) (q : Nat) (g : Queue → Queue) : (modQueue s q g).resumeQ = s.resumeQ := rfl
@[simp] theorem modQueue_progs (s : State) (q : Nat) (g : Queue → Queue) : (modQueue s q g).progs = s.progs := rfl
@[simp] theorem modQueue_nextProg (s : State) (q : Nat) (g : Queue → Queue) : (modQueue s q g).nextProg = s.nextProg := rfl
@[simp] theorem modQueue_slots (s : State) (q : Nat) (g : Queue → Queue) : (modQueue s q g).slots = s.slots := rfl
@[simp] theorem modQueue_cutover (s : State) (q : Nat) (g : Queue → Queue) : (modQueue s q g).cutover = s.cutover := rfl
@[simp] theorem modQueue_evPend (s : State) (q : Nat) (g : Queue → Queue) : (modQueue s q g).evPend = s.evPend := rfl
@[simp] theorem modQueue_hbm (s : State) (q : Nat) (g : Queue → Queue) : (modQueue s q g).hbm = s.hbm := rfl
@[simp] theorem modQueue_poison (s : State) (q : Nat) (g : Queue → Queue) : (modQueue s q g).poison = s.poison := rfl
@[simp] theorem modQueue_keys (s : State) (q : Nat) (g : Queue → Queue) : (modQueue s q g).keys = s.keys := rfl
@[simp] theorem modQueue_keySeq (s : State) (q : Nat) (g : Queue → Queue) : (modQueue s q g).keySeq = s.keySeq := rfl
@[simp] theorem modQueue_stage (s : State) (q : Nat) (g : Queue → Queue) : (modQueue s q g).stage = s.stage := rfl
@[simp] theorem modQueue_hazards (s : State) (q : Nat) (g : Queue → Queue) : (modQueue s q g).hazards = s.hazards := rfl
@[simp] theorem modQueue_hazPast (s : State) (q : Nat) (g : Queue → Queue) : (modQueue s q g).hazPast = s.hazPast := rfl
@[simp] theorem modQueue_hazSeq (s : State) (q : Nat) (g : Queue → Queue) : (modQueue s q g).hazSeq = s.hazSeq := rfl
@[simp] theorem modQueue_ctxRef (s : State) (q : Nat) (g : Queue → Queue) : (modQueue s q g).ctxRef = s.ctxRef := rfl
@[simp] theorem modQueue_park (s : State) (q : Nat) (g : Queue → Queue) : (modQueue s q g).park = s.park := rfl
@[simp] theorem modQueue_heldDg (s : State) (q : Nat) (g : Queue → Queue) : (modQueue s q g).heldDg = s.heldDg := rfl
@[simp] theorem modQueue_bufWait (s : State) (q : Nat) (g : Queue → Queue) : (modQueue s q g).bufWait = s.bufWait := rfl
@[simp] theorem modQueue_fetching (s : State) (q : Nat) (g : Queue → Queue) : (modQueue s q g).fetching = s.fetching := rfl
@[simp] theorem modQueue_evFwd (s : State) (q : Nat) (g : Queue → Queue) : (modQueue s q g).evFwd = s.evFwd := rfl
@[simp] theorem modQueue_ready (s : State) (q : Nat) (g : Queue → Queue) : (modQueue s q g).ready = s.ready := rfl
@[simp] theorem modQueue_pauseBoot (s : State) (q : Nat) (g : Queue → Queue) : (modQueue s q g).pauseBoot = s.pauseBoot := rfl
@[simp] theorem modQueue_pausePark (s : State) (q : Nat) (g : Queue → Queue) : (modQueue s q g).pausePark = s.pausePark := rfl
@[simp] theorem modQueue_pauseBuf (s : State) (q : Nat) (g : Queue → Queue) : (modQueue s q g).pauseBuf = s.pauseBuf := rfl
@[simp] theorem modQueue_pauseAt (s : State) (q : Nat) (g : Queue → Queue) : (modQueue s q g).pauseAt = s.pauseAt := rfl
@[simp] theorem modQueue_peerPause (s : State) (q : Nat) (g : Queue → Queue) : (modQueue s q g).peerPause = s.peerPause := rfl
@[simp] theorem modQueue_ptpSync (s : State) (q : Nat) (g : Queue → Queue) : (modQueue s q g).ptpSync = s.ptpSync := rfl
@[simp] theorem modQueue_slew (s : State) (q : Nat) (g : Queue → Queue) : (modQueue s q g).slew = s.slew := rfl
@[simp] theorem modQueue_slewPhase (s : State) (q : Nat) (g : Queue → Queue) : (modQueue s q g).slewPhase = s.slewPhase := rfl
@[simp] theorem modQueue_tbStepped (s : State) (q : Nat) (g : Queue → Queue) : (modQueue s q g).tbStepped = s.tbStepped := rfl
@[simp] theorem modQueue_wire (s : State) (q : Nat) (g : Queue → Queue) : (modQueue s q g).wire = s.wire := rfl
@[simp] theorem modQueue_layout (s : State) (q : Nat) (g : Queue → Queue) : (modQueue s q g).layout = s.layout := rfl
@[simp] theorem modQueue_volumes (s : State) (q : Nat) (g : Queue → Queue) : (modQueue s q g).volumes = s.volumes := rfl
@[simp] theorem modQueue_map (s : State) (q : Nat) (g : Queue → Queue) : (modQueue s q g).map = s.map := rfl
@[simp] theorem modQueue_leaves (s : State) (q : Nat) (g : Queue → Queue) : (modQueue s q g).leaves = s.leaves := rfl
@[simp] theorem modQueue_courses (s : State) (q : Nat) (g : Queue → Queue) : (modQueue s q g).courses = s.courses := rfl
@[simp] theorem modQueue_repourWait (s : State) (q : Nat) (g : Queue → Queue) : (modQueue s q g).repourWait = s.repourWait := rfl
@[simp] theorem modQueue_leads (s : State) (q : Nat) (g : Queue → Queue) : (modQueue s q g).leads = s.leads := rfl
@[simp] theorem modQueue_lastOrd (s : State) (q : Nat) (g : Queue → Queue) : (modQueue s q g).lastOrd = s.lastOrd := rfl
@[simp] theorem modQueue_reclaiming (s : State) (q : Nat) (g : Queue → Queue) : (modQueue s q g).reclaiming = s.reclaiming := rfl
@[simp] theorem modQueue_pours (s : State) (q : Nat) (g : Queue → Queue) : (modQueue s q g).pours = s.pours := rfl
@[simp] theorem modQueue_poursRecl (s : State) (q : Nat) (g : Queue → Queue) : (modQueue s q g).poursRecl = s.poursRecl := rfl
@[simp] theorem modQueue_spaceLow (s : State) (q : Nat) (g : Queue → Queue) : (modQueue s q g).spaceLow = s.spaceLow := rfl
@[simp] theorem modQueue_flashDir (s : State) (q : Nat) (g : Queue → Queue) : (modQueue s q g).flashDir = s.flashDir := rfl
@[simp] theorem modQueue_media (s : State) (q : Nat) (g : Queue → Queue) : (modQueue s q g).media = s.media := rfl
@[simp] theorem modQueue_owners (s : State) (q : Nat) (g : Queue → Queue) : (modQueue s q g).owners = s.owners := rfl
@[simp] theorem modQueue_standin (s : State) (q : Nat) (g : Queue → Queue) : (modQueue s q g).standin = s.standin := rfl
@[simp] theorem modQueue_standin2 (s : State) (q : Nat) (g : Queue → Queue) : (modQueue s q g).standin2 = s.standin2 := rfl
@[simp] theorem modQueue_qtabGone (s : State) (q : Nat) (g : Queue → Queue) : (modQueue s q g).qtabGone = s.qtabGone := rfl
@[simp] theorem modQueue_ucn (s : State) (q : Nat) (g : Queue → Queue) : (modQueue s q g).ucn = s.ucn := rfl
@[simp] theorem modQueue_ucnDone (s : State) (q : Nat) (g : Queue → Queue) : (modQueue s q g).ucnDone = s.ucnDone := rfl
@[simp] theorem modQueue_durable (s : State) (q : Nat) (g : Queue → Queue) : (modQueue s q g).durable = s.durable := rfl
@[simp] theorem modQueue_members (s : State) (q : Nat) (g : Queue → Queue) : (modQueue s q g).members = s.members := rfl
@[simp] theorem modQueue_nextCmd (s : State) (q : Nat) (g : Queue → Queue) : (modQueue s q g).nextCmd = s.nextCmd := rfl
@[simp] theorem modQueue_reads (s : State) (q : Nat) (g : Queue → Queue) : (modQueue s q g).reads = s.reads := rfl
@[simp] theorem modQueue_nextRead (s : State) (q : Nat) (g : Queue → Queue) : (modQueue s q g).nextRead = s.nextRead := rfl
@[simp] theorem modQueue_spare (s : State) (q : Nat) (g : Queue → Queue) : (modQueue s q g).spare = s.spare := rfl
@[simp] theorem modQueue_spareResv (s : State) (q : Nat) (g : Queue → Queue) : (modQueue s q g).spareResv = s.spareResv := rfl
@[simp] theorem modQueue_spareWp (s : State) (q : Nat) (g : Queue → Queue) : (modQueue s q g).spareWp = s.spareWp := rfl
@[simp] theorem modQueue_spareHeld (s : State) (q : Nat) (g : Queue → Queue) : (modQueue s q g).spareHeld = s.spareHeld := rfl
@[simp] theorem modQueue_rebuildQ (s : State) (q : Nat) (g : Queue → Queue) : (modQueue s q g).rebuildQ = s.rebuildQ := rfl
@[simp] theorem modQueue_lostRange (s : State) (q : Nat) (g : Queue → Queue) : (modQueue s q g).lostRange = s.lostRange := rfl
@[simp] theorem modQueue_copyBack (s : State) (q : Nat) (g : Queue → Queue) : (modQueue s q g).copyBack = s.copyBack := rfl
@[simp] theorem modQueue_quorum (s : State) (q : Nat) (g : Queue → Queue) : (modQueue s q g).quorum = s.quorum := rfl
@[simp] theorem modQueue_qShort (s : State) (q : Nat) (g : Queue → Queue) : (modQueue s q g).qShort = s.qShort := rfl
@[simp] theorem modQueue_drvTrain (s : State) (q : Nat) (g : Queue → Queue) : (modQueue s q g).drvTrain = s.drvTrain := rfl
@[simp] theorem modQueue_recovery (s : State) (q : Nat) (g : Queue → Queue) : (modQueue s q g).recovery = s.recovery := rfl
@[simp] theorem modQueue_resetTb (s : State) (q : Nat) (g : Queue → Queue) : (modQueue s q g).resetTb = s.resetTb := rfl
@[simp] theorem modQueue_frames (s : State) (q : Nat) (g : Queue → Queue) : (modQueue s q g).frames = s.frames := rfl
@[simp] theorem modQueue_mcast (s : State) (q : Nat) (g : Queue → Queue) : (modQueue s q g).mcast = s.mcast := rfl
@[simp] theorem modQueue_mcResult (s : State) (q : Nat) (g : Queue → Queue) : (modQueue s q g).mcResult = s.mcResult := rfl
@[simp] theorem modQueue_oldLookup (s : State) (q : Nat) (g : Queue → Queue) : (modQueue s q g).oldLookup = s.oldLookup := rfl
@[simp] theorem modQueue_nextFrame (s : State) (q : Nat) (g : Queue → Queue) : (modQueue s q g).nextFrame = s.nextFrame := rfl
@[simp] theorem modQueue_outs (s : State) (q : Nat) (g : Queue → Queue) : (modQueue s q g).outs = s.outs := rfl
@[simp] theorem modQueue_gates (s : State) (q : Nat) (g : Queue → Queue) : (modQueue s q g).gates = s.gates := rfl
@[simp] theorem modQueue_policers (s : State) (q : Nat) (g : Queue → Queue) : (modQueue s q g).policers = s.policers := rfl
@[simp] theorem modQueue_links (s : State) (q : Nat) (g : Queue → Queue) : (modQueue s q g).links = s.links := rfl
@[simp] theorem modQueue_barrier (s : State) (q : Nat) (g : Queue → Queue) : (modQueue s q g).barrier = s.barrier := rfl
@[simp] theorem modQueue_windows (s : State) (q : Nat) (g : Queue → Queue) : (modQueue s q g).windows = s.windows := rfl
@[simp] theorem modQueue_availAt (s : State) (q : Nat) (g : Queue → Queue) : (modQueue s q g).availAt = s.availAt := rfl
@[simp] theorem modQueue_rot (s : State) (q : Nat) (g : Queue → Queue) : (modQueue s q g).rot = s.rot := rfl
@[simp] theorem modQueue_copies (s : State) (q : Nat) (g : Queue → Queue) : (modQueue s q g).copies = s.copies := rfl
@[simp] theorem modQueue_scLines (s : State) (q : Nat) (g : Queue → Queue) : (modQueue s q g).scLines = s.scLines := rfl
@[simp] theorem modQueue_victim (s : State) (q : Nat) (g : Queue → Queue) : (modQueue s q g).victim = s.victim := rfl
@[simp] theorem modQueue_scLfsr (s : State) (q : Nat) (g : Queue → Queue) : (modQueue s q g).scLfsr = s.scLfsr := rfl
@[simp] theorem modQueue_dcLines (s : State) (q : Nat) (g : Queue → Queue) : (modQueue s q g).dcLines = s.dcLines := rfl
@[simp] theorem modQueue_dcTree (s : State) (q : Nat) (g : Queue → Queue) : (modQueue s q g).dcTree = s.dcTree := rfl
@[simp] theorem modQueue_icLines (s : State) (q : Nat) (g : Queue → Queue) : (modQueue s q g).icLines = s.icLines := rfl
@[simp] theorem modQueue_icTree (s : State) (q : Nat) (g : Queue → Queue) : (modQueue s q g).icTree = s.icTree := rfl
@[simp] theorem modQueue_wayErrs (s : State) (q : Nat) (g : Queue → Queue) : (modQueue s q g).wayErrs = s.wayErrs := rfl
@[simp] theorem modQueue_lease (s : State) (q : Nat) (g : Queue → Queue) : (modQueue s q g).lease = s.lease := rfl
@[simp] theorem modQueue_chain (s : State) (q : Nat) (g : Queue → Queue) : (modQueue s q g).chain = s.chain := rfl
@[simp] theorem modQueue_pin (s : State) (q : Nat) (g : Queue → Queue) : (modQueue s q g).pin = s.pin := rfl
@[simp] theorem modQueue_lastCount (s : State) (q : Nat) (g : Queue → Queue) : (modQueue s q g).lastCount = s.lastCount := rfl
@[simp] theorem modQueue_sampling (s : State) (q : Nat) (g : Queue → Queue) : (modQueue s q g).sampling = s.sampling := rfl
@[simp] theorem modQueue_dumpSeq (s : State) (q : Nat) (g : Queue → Queue) : (modQueue s q g).dumpSeq = s.dumpSeq := rfl
@[simp] theorem modQueue_secure (s : State) (q : Nat) (g : Queue → Queue) : (modQueue s q g).secure = s.secure := rfl
@[simp] theorem modQueue_admin (s : State) (q : Nat) (g : Queue → Queue) : (modQueue s q g).admin = s.admin := rfl
@[simp] theorem modQueue_power (s : State) (q : Nat) (g : Queue → Queue) : (modQueue s q g).power = s.power := rfl
@[simp] theorem modQueue_mod (s : State) (q : Nat) (g : Queue → Queue) : (modQueue s q g).mod = s.mod := rfl
@[simp] theorem modQueue_fresh (s : State) (q : Nat) (g : Queue → Queue) : (modQueue s q g).fresh = s.fresh := rfl
@[simp] theorem modQueue_pending (s : State) (q : Nat) (g : Queue → Queue) : (modQueue s q g).pending = s.pending := rfl

/-! ### `modCourse` -/

@[simp] theorem modCourse_n (s : State) (k : Nat) (g : Course → Course) : (modCourse s k g).n = s.n := rfl
@[simp] theorem modCourse_tb (s : State) (k : Nat) (g : Course → Course) : (modCourse s k g).tb = s.tb := rfl
@[simp] theorem modCourse_ctl (s : State) (k : Nat) (g : Course → Course) : (modCourse s k g).ctl = s.ctl := rfl
@[simp] theorem modCourse_lost (s : State) (k : Nat) (g : Course → Course) : (modCourse s k g).lost = s.lost := rfl
@[simp] theorem modCourse_lastLost (s : State) (k : Nat) (g : Course → Course) : (modCourse s k g).lastLost = s.lastLost := rfl
@[simp] theorem modCourse_ptrs (s : State) (k : Nat) (g : Course → Course) : (modCourse s k g).ptrs = s.ptrs := rfl
@[simp] theorem modCourse_jobs (s : State) (k : Nat) (g : Course → Course) : (modCourse s k g).jobs = s.jobs := rfl
@[simp] theorem modCourse_nextJob (s : State) (k : Nat) (g : Course → Course) : (modCourse s k g).nextJob = s.nextJob := rfl
@[simp] theorem modCourse_buffers (s : State) (k : Nat) (g : Course → Course) : (modCourse s k g).buffers = s.buffers := rfl
@[simp] theorem modCourse_nextBuf (s : State) (k : Nat) (g : Course → Course) : (modCourse s k g).nextBuf = s.nextBuf := rfl
@[simp] theorem modCourse_threads (s : State) (k : Nat) (g : Course → Course) : (modCourse s k g).threads = s.threads := rfl
@[simp] theorem modCourse_hkRestart (s : State) (k : Nat) (g : Course → Course) : (modCourse s k g).hkRestart = s.hkRestart := rfl
@[simp] theorem modCourse_dispatchQ (s : State) (k : Nat) (g : Course → Course) : (modCourse s k g).dispatchQ = s.dispatchQ := rfl
@[simp] theorem modCourse_resumeQ (s : State) (k : Nat) (g : Course → Course) : (modCourse s k g).resumeQ = s.resumeQ := rfl
@[simp] theorem modCourse_progs (s : State) (k : Nat) (g : Course → Course) : (modCourse s k g).progs = s.progs := rfl
@[simp] theorem modCourse_nextProg (s : State) (k : Nat) (g : Course → Course) : (modCourse s k g).nextProg = s.nextProg := rfl
@[simp] theorem modCourse_slots (s : State) (k : Nat) (g : Course → Course) : (modCourse s k g).slots = s.slots := rfl
@[simp] theorem modCourse_cutover (s : State) (k : Nat) (g : Course → Course) : (modCourse s k g).cutover = s.cutover := rfl
@[simp] theorem modCourse_evPend (s : State) (k : Nat) (g : Course → Course) : (modCourse s k g).evPend = s.evPend := rfl
@[simp] theorem modCourse_hbm (s : State) (k : Nat) (g : Course → Course) : (modCourse s k g).hbm = s.hbm := rfl
@[simp] theorem modCourse_poison (s : State) (k : Nat) (g : Course → Course) : (modCourse s k g).poison = s.poison := rfl
@[simp] theorem modCourse_keys (s : State) (k : Nat) (g : Course → Course) : (modCourse s k g).keys = s.keys := rfl
@[simp] theorem modCourse_keySeq (s : State) (k : Nat) (g : Course → Course) : (modCourse s k g).keySeq = s.keySeq := rfl
@[simp] theorem modCourse_stage (s : State) (k : Nat) (g : Course → Course) : (modCourse s k g).stage = s.stage := rfl
@[simp] theorem modCourse_queues (s : State) (k : Nat) (g : Course → Course) : (modCourse s k g).queues = s.queues := rfl
@[simp] theorem modCourse_hazards (s : State) (k : Nat) (g : Course → Course) : (modCourse s k g).hazards = s.hazards := rfl
@[simp] theorem modCourse_hazPast (s : State) (k : Nat) (g : Course → Course) : (modCourse s k g).hazPast = s.hazPast := rfl
@[simp] theorem modCourse_hazSeq (s : State) (k : Nat) (g : Course → Course) : (modCourse s k g).hazSeq = s.hazSeq := rfl
@[simp] theorem modCourse_ctxRef (s : State) (k : Nat) (g : Course → Course) : (modCourse s k g).ctxRef = s.ctxRef := rfl
@[simp] theorem modCourse_park (s : State) (k : Nat) (g : Course → Course) : (modCourse s k g).park = s.park := rfl
@[simp] theorem modCourse_heldDg (s : State) (k : Nat) (g : Course → Course) : (modCourse s k g).heldDg = s.heldDg := rfl
@[simp] theorem modCourse_bufWait (s : State) (k : Nat) (g : Course → Course) : (modCourse s k g).bufWait = s.bufWait := rfl
@[simp] theorem modCourse_fetching (s : State) (k : Nat) (g : Course → Course) : (modCourse s k g).fetching = s.fetching := rfl
@[simp] theorem modCourse_evFwd (s : State) (k : Nat) (g : Course → Course) : (modCourse s k g).evFwd = s.evFwd := rfl
@[simp] theorem modCourse_ready (s : State) (k : Nat) (g : Course → Course) : (modCourse s k g).ready = s.ready := rfl
@[simp] theorem modCourse_pauseBoot (s : State) (k : Nat) (g : Course → Course) : (modCourse s k g).pauseBoot = s.pauseBoot := rfl
@[simp] theorem modCourse_pausePark (s : State) (k : Nat) (g : Course → Course) : (modCourse s k g).pausePark = s.pausePark := rfl
@[simp] theorem modCourse_pauseBuf (s : State) (k : Nat) (g : Course → Course) : (modCourse s k g).pauseBuf = s.pauseBuf := rfl
@[simp] theorem modCourse_pauseAt (s : State) (k : Nat) (g : Course → Course) : (modCourse s k g).pauseAt = s.pauseAt := rfl
@[simp] theorem modCourse_peerPause (s : State) (k : Nat) (g : Course → Course) : (modCourse s k g).peerPause = s.peerPause := rfl
@[simp] theorem modCourse_ptpSync (s : State) (k : Nat) (g : Course → Course) : (modCourse s k g).ptpSync = s.ptpSync := rfl
@[simp] theorem modCourse_slew (s : State) (k : Nat) (g : Course → Course) : (modCourse s k g).slew = s.slew := rfl
@[simp] theorem modCourse_slewPhase (s : State) (k : Nat) (g : Course → Course) : (modCourse s k g).slewPhase = s.slewPhase := rfl
@[simp] theorem modCourse_tbStepped (s : State) (k : Nat) (g : Course → Course) : (modCourse s k g).tbStepped = s.tbStepped := rfl
@[simp] theorem modCourse_wire (s : State) (k : Nat) (g : Course → Course) : (modCourse s k g).wire = s.wire := rfl
@[simp] theorem modCourse_layout (s : State) (k : Nat) (g : Course → Course) : (modCourse s k g).layout = s.layout := rfl
@[simp] theorem modCourse_volumes (s : State) (k : Nat) (g : Course → Course) : (modCourse s k g).volumes = s.volumes := rfl
@[simp] theorem modCourse_map (s : State) (k : Nat) (g : Course → Course) : (modCourse s k g).map = s.map := rfl
@[simp] theorem modCourse_leaves (s : State) (k : Nat) (g : Course → Course) : (modCourse s k g).leaves = s.leaves := rfl
@[simp] theorem modCourse_repourWait (s : State) (k : Nat) (g : Course → Course) : (modCourse s k g).repourWait = s.repourWait := rfl
@[simp] theorem modCourse_leads (s : State) (k : Nat) (g : Course → Course) : (modCourse s k g).leads = s.leads := rfl
@[simp] theorem modCourse_lastOrd (s : State) (k : Nat) (g : Course → Course) : (modCourse s k g).lastOrd = s.lastOrd := rfl
@[simp] theorem modCourse_reclaiming (s : State) (k : Nat) (g : Course → Course) : (modCourse s k g).reclaiming = s.reclaiming := rfl
@[simp] theorem modCourse_pours (s : State) (k : Nat) (g : Course → Course) : (modCourse s k g).pours = s.pours := rfl
@[simp] theorem modCourse_poursRecl (s : State) (k : Nat) (g : Course → Course) : (modCourse s k g).poursRecl = s.poursRecl := rfl
@[simp] theorem modCourse_spaceLow (s : State) (k : Nat) (g : Course → Course) : (modCourse s k g).spaceLow = s.spaceLow := rfl
@[simp] theorem modCourse_flashDir (s : State) (k : Nat) (g : Course → Course) : (modCourse s k g).flashDir = s.flashDir := rfl
@[simp] theorem modCourse_media (s : State) (k : Nat) (g : Course → Course) : (modCourse s k g).media = s.media := rfl
@[simp] theorem modCourse_owners (s : State) (k : Nat) (g : Course → Course) : (modCourse s k g).owners = s.owners := rfl
@[simp] theorem modCourse_standin (s : State) (k : Nat) (g : Course → Course) : (modCourse s k g).standin = s.standin := rfl
@[simp] theorem modCourse_standin2 (s : State) (k : Nat) (g : Course → Course) : (modCourse s k g).standin2 = s.standin2 := rfl
@[simp] theorem modCourse_qtabGone (s : State) (k : Nat) (g : Course → Course) : (modCourse s k g).qtabGone = s.qtabGone := rfl
@[simp] theorem modCourse_ucn (s : State) (k : Nat) (g : Course → Course) : (modCourse s k g).ucn = s.ucn := rfl
@[simp] theorem modCourse_ucnDone (s : State) (k : Nat) (g : Course → Course) : (modCourse s k g).ucnDone = s.ucnDone := rfl
@[simp] theorem modCourse_durable (s : State) (k : Nat) (g : Course → Course) : (modCourse s k g).durable = s.durable := rfl
@[simp] theorem modCourse_members (s : State) (k : Nat) (g : Course → Course) : (modCourse s k g).members = s.members := rfl
@[simp] theorem modCourse_nextCmd (s : State) (k : Nat) (g : Course → Course) : (modCourse s k g).nextCmd = s.nextCmd := rfl
@[simp] theorem modCourse_reads (s : State) (k : Nat) (g : Course → Course) : (modCourse s k g).reads = s.reads := rfl
@[simp] theorem modCourse_nextRead (s : State) (k : Nat) (g : Course → Course) : (modCourse s k g).nextRead = s.nextRead := rfl
@[simp] theorem modCourse_spare (s : State) (k : Nat) (g : Course → Course) : (modCourse s k g).spare = s.spare := rfl
@[simp] theorem modCourse_spareResv (s : State) (k : Nat) (g : Course → Course) : (modCourse s k g).spareResv = s.spareResv := rfl
@[simp] theorem modCourse_spareWp (s : State) (k : Nat) (g : Course → Course) : (modCourse s k g).spareWp = s.spareWp := rfl
@[simp] theorem modCourse_spareHeld (s : State) (k : Nat) (g : Course → Course) : (modCourse s k g).spareHeld = s.spareHeld := rfl
@[simp] theorem modCourse_rebuildQ (s : State) (k : Nat) (g : Course → Course) : (modCourse s k g).rebuildQ = s.rebuildQ := rfl
@[simp] theorem modCourse_lostRange (s : State) (k : Nat) (g : Course → Course) : (modCourse s k g).lostRange = s.lostRange := rfl
@[simp] theorem modCourse_copyBack (s : State) (k : Nat) (g : Course → Course) : (modCourse s k g).copyBack = s.copyBack := rfl
@[simp] theorem modCourse_quorum (s : State) (k : Nat) (g : Course → Course) : (modCourse s k g).quorum = s.quorum := rfl
@[simp] theorem modCourse_qShort (s : State) (k : Nat) (g : Course → Course) : (modCourse s k g).qShort = s.qShort := rfl
@[simp] theorem modCourse_drvTrain (s : State) (k : Nat) (g : Course → Course) : (modCourse s k g).drvTrain = s.drvTrain := rfl
@[simp] theorem modCourse_recovery (s : State) (k : Nat) (g : Course → Course) : (modCourse s k g).recovery = s.recovery := rfl
@[simp] theorem modCourse_resetTb (s : State) (k : Nat) (g : Course → Course) : (modCourse s k g).resetTb = s.resetTb := rfl
@[simp] theorem modCourse_frames (s : State) (k : Nat) (g : Course → Course) : (modCourse s k g).frames = s.frames := rfl
@[simp] theorem modCourse_mcast (s : State) (k : Nat) (g : Course → Course) : (modCourse s k g).mcast = s.mcast := rfl
@[simp] theorem modCourse_mcResult (s : State) (k : Nat) (g : Course → Course) : (modCourse s k g).mcResult = s.mcResult := rfl
@[simp] theorem modCourse_oldLookup (s : State) (k : Nat) (g : Course → Course) : (modCourse s k g).oldLookup = s.oldLookup := rfl
@[simp] theorem modCourse_nextFrame (s : State) (k : Nat) (g : Course → Course) : (modCourse s k g).nextFrame = s.nextFrame := rfl
@[simp] theorem modCourse_outs (s : State) (k : Nat) (g : Course → Course) : (modCourse s k g).outs = s.outs := rfl
@[simp] theorem modCourse_gates (s : State) (k : Nat) (g : Course → Course) : (modCourse s k g).gates = s.gates := rfl
@[simp] theorem modCourse_policers (s : State) (k : Nat) (g : Course → Course) : (modCourse s k g).policers = s.policers := rfl
@[simp] theorem modCourse_links (s : State) (k : Nat) (g : Course → Course) : (modCourse s k g).links = s.links := rfl
@[simp] theorem modCourse_barrier (s : State) (k : Nat) (g : Course → Course) : (modCourse s k g).barrier = s.barrier := rfl
@[simp] theorem modCourse_windows (s : State) (k : Nat) (g : Course → Course) : (modCourse s k g).windows = s.windows := rfl
@[simp] theorem modCourse_availAt (s : State) (k : Nat) (g : Course → Course) : (modCourse s k g).availAt = s.availAt := rfl
@[simp] theorem modCourse_rot (s : State) (k : Nat) (g : Course → Course) : (modCourse s k g).rot = s.rot := rfl
@[simp] theorem modCourse_copies (s : State) (k : Nat) (g : Course → Course) : (modCourse s k g).copies = s.copies := rfl
@[simp] theorem modCourse_scLines (s : State) (k : Nat) (g : Course → Course) : (modCourse s k g).scLines = s.scLines := rfl
@[simp] theorem modCourse_victim (s : State) (k : Nat) (g : Course → Course) : (modCourse s k g).victim = s.victim := rfl
@[simp] theorem modCourse_scLfsr (s : State) (k : Nat) (g : Course → Course) : (modCourse s k g).scLfsr = s.scLfsr := rfl
@[simp] theorem modCourse_dcLines (s : State) (k : Nat) (g : Course → Course) : (modCourse s k g).dcLines = s.dcLines := rfl
@[simp] theorem modCourse_dcTree (s : State) (k : Nat) (g : Course → Course) : (modCourse s k g).dcTree = s.dcTree := rfl
@[simp] theorem modCourse_icLines (s : State) (k : Nat) (g : Course → Course) : (modCourse s k g).icLines = s.icLines := rfl
@[simp] theorem modCourse_icTree (s : State) (k : Nat) (g : Course → Course) : (modCourse s k g).icTree = s.icTree := rfl
@[simp] theorem modCourse_wayErrs (s : State) (k : Nat) (g : Course → Course) : (modCourse s k g).wayErrs = s.wayErrs := rfl
@[simp] theorem modCourse_lease (s : State) (k : Nat) (g : Course → Course) : (modCourse s k g).lease = s.lease := rfl
@[simp] theorem modCourse_chain (s : State) (k : Nat) (g : Course → Course) : (modCourse s k g).chain = s.chain := rfl
@[simp] theorem modCourse_pin (s : State) (k : Nat) (g : Course → Course) : (modCourse s k g).pin = s.pin := rfl
@[simp] theorem modCourse_lastCount (s : State) (k : Nat) (g : Course → Course) : (modCourse s k g).lastCount = s.lastCount := rfl
@[simp] theorem modCourse_sampling (s : State) (k : Nat) (g : Course → Course) : (modCourse s k g).sampling = s.sampling := rfl
@[simp] theorem modCourse_dumpSeq (s : State) (k : Nat) (g : Course → Course) : (modCourse s k g).dumpSeq = s.dumpSeq := rfl
@[simp] theorem modCourse_secure (s : State) (k : Nat) (g : Course → Course) : (modCourse s k g).secure = s.secure := rfl
@[simp] theorem modCourse_admin (s : State) (k : Nat) (g : Course → Course) : (modCourse s k g).admin = s.admin := rfl
@[simp] theorem modCourse_power (s : State) (k : Nat) (g : Course → Course) : (modCourse s k g).power = s.power := rfl
@[simp] theorem modCourse_mod (s : State) (k : Nat) (g : Course → Course) : (modCourse s k g).mod = s.mod := rfl
@[simp] theorem modCourse_fresh (s : State) (k : Nat) (g : Course → Course) : (modCourse s k g).fresh = s.fresh := rfl
@[simp] theorem modCourse_pending (s : State) (k : Nat) (g : Course → Course) : (modCourse s k g).pending = s.pending := rfl

/-! ### `putOwner` -/

@[simp] theorem putOwner_n (s : State) (o : Nat) (w : Owner) : (putOwner s o w).n = s.n := rfl
@[simp] theorem putOwner_tb (s : State) (o : Nat) (w : Owner) : (putOwner s o w).tb = s.tb := rfl
@[simp] theorem putOwner_ctl (s : State) (o : Nat) (w : Owner) : (putOwner s o w).ctl = s.ctl := rfl
@[simp] theorem putOwner_lost (s : State) (o : Nat) (w : Owner) : (putOwner s o w).lost = s.lost := rfl
@[simp] theorem putOwner_lastLost (s : State) (o : Nat) (w : Owner) : (putOwner s o w).lastLost = s.lastLost := rfl
@[simp] theorem putOwner_ptrs (s : State) (o : Nat) (w : Owner) : (putOwner s o w).ptrs = s.ptrs := rfl
@[simp] theorem putOwner_jobs (s : State) (o : Nat) (w : Owner) : (putOwner s o w).jobs = s.jobs := rfl
@[simp] theorem putOwner_nextJob (s : State) (o : Nat) (w : Owner) : (putOwner s o w).nextJob = s.nextJob := rfl
@[simp] theorem putOwner_buffers (s : State) (o : Nat) (w : Owner) : (putOwner s o w).buffers = s.buffers := rfl
@[simp] theorem putOwner_nextBuf (s : State) (o : Nat) (w : Owner) : (putOwner s o w).nextBuf = s.nextBuf := rfl
@[simp] theorem putOwner_threads (s : State) (o : Nat) (w : Owner) : (putOwner s o w).threads = s.threads := rfl
@[simp] theorem putOwner_hkRestart (s : State) (o : Nat) (w : Owner) : (putOwner s o w).hkRestart = s.hkRestart := rfl
@[simp] theorem putOwner_dispatchQ (s : State) (o : Nat) (w : Owner) : (putOwner s o w).dispatchQ = s.dispatchQ := rfl
@[simp] theorem putOwner_resumeQ (s : State) (o : Nat) (w : Owner) : (putOwner s o w).resumeQ = s.resumeQ := rfl
@[simp] theorem putOwner_progs (s : State) (o : Nat) (w : Owner) : (putOwner s o w).progs = s.progs := rfl
@[simp] theorem putOwner_nextProg (s : State) (o : Nat) (w : Owner) : (putOwner s o w).nextProg = s.nextProg := rfl
@[simp] theorem putOwner_slots (s : State) (o : Nat) (w : Owner) : (putOwner s o w).slots = s.slots := rfl
@[simp] theorem putOwner_cutover (s : State) (o : Nat) (w : Owner) : (putOwner s o w).cutover = s.cutover := rfl
@[simp] theorem putOwner_evPend (s : State) (o : Nat) (w : Owner) : (putOwner s o w).evPend = s.evPend := rfl
@[simp] theorem putOwner_hbm (s : State) (o : Nat) (w : Owner) : (putOwner s o w).hbm = s.hbm := rfl
@[simp] theorem putOwner_poison (s : State) (o : Nat) (w : Owner) : (putOwner s o w).poison = s.poison := rfl
@[simp] theorem putOwner_keys (s : State) (o : Nat) (w : Owner) : (putOwner s o w).keys = s.keys := rfl
@[simp] theorem putOwner_keySeq (s : State) (o : Nat) (w : Owner) : (putOwner s o w).keySeq = s.keySeq := rfl
@[simp] theorem putOwner_stage (s : State) (o : Nat) (w : Owner) : (putOwner s o w).stage = s.stage := rfl
@[simp] theorem putOwner_queues (s : State) (o : Nat) (w : Owner) : (putOwner s o w).queues = s.queues := rfl
@[simp] theorem putOwner_hazards (s : State) (o : Nat) (w : Owner) : (putOwner s o w).hazards = s.hazards := rfl
@[simp] theorem putOwner_hazPast (s : State) (o : Nat) (w : Owner) : (putOwner s o w).hazPast = s.hazPast := rfl
@[simp] theorem putOwner_hazSeq (s : State) (o : Nat) (w : Owner) : (putOwner s o w).hazSeq = s.hazSeq := rfl
@[simp] theorem putOwner_ctxRef (s : State) (o : Nat) (w : Owner) : (putOwner s o w).ctxRef = s.ctxRef := rfl
@[simp] theorem putOwner_park (s : State) (o : Nat) (w : Owner) : (putOwner s o w).park = s.park := rfl
@[simp] theorem putOwner_heldDg (s : State) (o : Nat) (w : Owner) : (putOwner s o w).heldDg = s.heldDg := rfl
@[simp] theorem putOwner_bufWait (s : State) (o : Nat) (w : Owner) : (putOwner s o w).bufWait = s.bufWait := rfl
@[simp] theorem putOwner_fetching (s : State) (o : Nat) (w : Owner) : (putOwner s o w).fetching = s.fetching := rfl
@[simp] theorem putOwner_evFwd (s : State) (o : Nat) (w : Owner) : (putOwner s o w).evFwd = s.evFwd := rfl
@[simp] theorem putOwner_ready (s : State) (o : Nat) (w : Owner) : (putOwner s o w).ready = s.ready := rfl
@[simp] theorem putOwner_pauseBoot (s : State) (o : Nat) (w : Owner) : (putOwner s o w).pauseBoot = s.pauseBoot := rfl
@[simp] theorem putOwner_pausePark (s : State) (o : Nat) (w : Owner) : (putOwner s o w).pausePark = s.pausePark := rfl
@[simp] theorem putOwner_pauseBuf (s : State) (o : Nat) (w : Owner) : (putOwner s o w).pauseBuf = s.pauseBuf := rfl
@[simp] theorem putOwner_pauseAt (s : State) (o : Nat) (w : Owner) : (putOwner s o w).pauseAt = s.pauseAt := rfl
@[simp] theorem putOwner_peerPause (s : State) (o : Nat) (w : Owner) : (putOwner s o w).peerPause = s.peerPause := rfl
@[simp] theorem putOwner_ptpSync (s : State) (o : Nat) (w : Owner) : (putOwner s o w).ptpSync = s.ptpSync := rfl
@[simp] theorem putOwner_slew (s : State) (o : Nat) (w : Owner) : (putOwner s o w).slew = s.slew := rfl
@[simp] theorem putOwner_slewPhase (s : State) (o : Nat) (w : Owner) : (putOwner s o w).slewPhase = s.slewPhase := rfl
@[simp] theorem putOwner_tbStepped (s : State) (o : Nat) (w : Owner) : (putOwner s o w).tbStepped = s.tbStepped := rfl
@[simp] theorem putOwner_wire (s : State) (o : Nat) (w : Owner) : (putOwner s o w).wire = s.wire := rfl
@[simp] theorem putOwner_layout (s : State) (o : Nat) (w : Owner) : (putOwner s o w).layout = s.layout := rfl
@[simp] theorem putOwner_volumes (s : State) (o : Nat) (w : Owner) : (putOwner s o w).volumes = s.volumes := rfl
@[simp] theorem putOwner_map (s : State) (o : Nat) (w : Owner) : (putOwner s o w).map = s.map := rfl
@[simp] theorem putOwner_leaves (s : State) (o : Nat) (w : Owner) : (putOwner s o w).leaves = s.leaves := rfl
@[simp] theorem putOwner_courses (s : State) (o : Nat) (w : Owner) : (putOwner s o w).courses = s.courses := rfl
@[simp] theorem putOwner_repourWait (s : State) (o : Nat) (w : Owner) : (putOwner s o w).repourWait = s.repourWait := rfl
@[simp] theorem putOwner_leads (s : State) (o : Nat) (w : Owner) : (putOwner s o w).leads = s.leads := rfl
@[simp] theorem putOwner_lastOrd (s : State) (o : Nat) (w : Owner) : (putOwner s o w).lastOrd = s.lastOrd := rfl
@[simp] theorem putOwner_reclaiming (s : State) (o : Nat) (w : Owner) : (putOwner s o w).reclaiming = s.reclaiming := rfl
@[simp] theorem putOwner_pours (s : State) (o : Nat) (w : Owner) : (putOwner s o w).pours = s.pours := rfl
@[simp] theorem putOwner_poursRecl (s : State) (o : Nat) (w : Owner) : (putOwner s o w).poursRecl = s.poursRecl := rfl
@[simp] theorem putOwner_spaceLow (s : State) (o : Nat) (w : Owner) : (putOwner s o w).spaceLow = s.spaceLow := rfl
@[simp] theorem putOwner_flashDir (s : State) (o : Nat) (w : Owner) : (putOwner s o w).flashDir = s.flashDir := rfl
@[simp] theorem putOwner_media (s : State) (o : Nat) (w : Owner) : (putOwner s o w).media = s.media := rfl
@[simp] theorem putOwner_standin (s : State) (o : Nat) (w : Owner) : (putOwner s o w).standin = s.standin := rfl
@[simp] theorem putOwner_standin2 (s : State) (o : Nat) (w : Owner) : (putOwner s o w).standin2 = s.standin2 := rfl
@[simp] theorem putOwner_qtabGone (s : State) (o : Nat) (w : Owner) : (putOwner s o w).qtabGone = s.qtabGone := rfl
@[simp] theorem putOwner_ucn (s : State) (o : Nat) (w : Owner) : (putOwner s o w).ucn = s.ucn := rfl
@[simp] theorem putOwner_ucnDone (s : State) (o : Nat) (w : Owner) : (putOwner s o w).ucnDone = s.ucnDone := rfl
@[simp] theorem putOwner_durable (s : State) (o : Nat) (w : Owner) : (putOwner s o w).durable = s.durable := rfl
@[simp] theorem putOwner_members (s : State) (o : Nat) (w : Owner) : (putOwner s o w).members = s.members := rfl
@[simp] theorem putOwner_nextCmd (s : State) (o : Nat) (w : Owner) : (putOwner s o w).nextCmd = s.nextCmd := rfl
@[simp] theorem putOwner_reads (s : State) (o : Nat) (w : Owner) : (putOwner s o w).reads = s.reads := rfl
@[simp] theorem putOwner_nextRead (s : State) (o : Nat) (w : Owner) : (putOwner s o w).nextRead = s.nextRead := rfl
@[simp] theorem putOwner_spare (s : State) (o : Nat) (w : Owner) : (putOwner s o w).spare = s.spare := rfl
@[simp] theorem putOwner_spareResv (s : State) (o : Nat) (w : Owner) : (putOwner s o w).spareResv = s.spareResv := rfl
@[simp] theorem putOwner_spareWp (s : State) (o : Nat) (w : Owner) : (putOwner s o w).spareWp = s.spareWp := rfl
@[simp] theorem putOwner_spareHeld (s : State) (o : Nat) (w : Owner) : (putOwner s o w).spareHeld = s.spareHeld := rfl
@[simp] theorem putOwner_rebuildQ (s : State) (o : Nat) (w : Owner) : (putOwner s o w).rebuildQ = s.rebuildQ := rfl
@[simp] theorem putOwner_lostRange (s : State) (o : Nat) (w : Owner) : (putOwner s o w).lostRange = s.lostRange := rfl
@[simp] theorem putOwner_copyBack (s : State) (o : Nat) (w : Owner) : (putOwner s o w).copyBack = s.copyBack := rfl
@[simp] theorem putOwner_quorum (s : State) (o : Nat) (w : Owner) : (putOwner s o w).quorum = s.quorum := rfl
@[simp] theorem putOwner_qShort (s : State) (o : Nat) (w : Owner) : (putOwner s o w).qShort = s.qShort := rfl
@[simp] theorem putOwner_drvTrain (s : State) (o : Nat) (w : Owner) : (putOwner s o w).drvTrain = s.drvTrain := rfl
@[simp] theorem putOwner_recovery (s : State) (o : Nat) (w : Owner) : (putOwner s o w).recovery = s.recovery := rfl
@[simp] theorem putOwner_resetTb (s : State) (o : Nat) (w : Owner) : (putOwner s o w).resetTb = s.resetTb := rfl
@[simp] theorem putOwner_frames (s : State) (o : Nat) (w : Owner) : (putOwner s o w).frames = s.frames := rfl
@[simp] theorem putOwner_mcast (s : State) (o : Nat) (w : Owner) : (putOwner s o w).mcast = s.mcast := rfl
@[simp] theorem putOwner_mcResult (s : State) (o : Nat) (w : Owner) : (putOwner s o w).mcResult = s.mcResult := rfl
@[simp] theorem putOwner_oldLookup (s : State) (o : Nat) (w : Owner) : (putOwner s o w).oldLookup = s.oldLookup := rfl
@[simp] theorem putOwner_nextFrame (s : State) (o : Nat) (w : Owner) : (putOwner s o w).nextFrame = s.nextFrame := rfl
@[simp] theorem putOwner_outs (s : State) (o : Nat) (w : Owner) : (putOwner s o w).outs = s.outs := rfl
@[simp] theorem putOwner_gates (s : State) (o : Nat) (w : Owner) : (putOwner s o w).gates = s.gates := rfl
@[simp] theorem putOwner_policers (s : State) (o : Nat) (w : Owner) : (putOwner s o w).policers = s.policers := rfl
@[simp] theorem putOwner_links (s : State) (o : Nat) (w : Owner) : (putOwner s o w).links = s.links := rfl
@[simp] theorem putOwner_barrier (s : State) (o : Nat) (w : Owner) : (putOwner s o w).barrier = s.barrier := rfl
@[simp] theorem putOwner_windows (s : State) (o : Nat) (w : Owner) : (putOwner s o w).windows = s.windows := rfl
@[simp] theorem putOwner_availAt (s : State) (o : Nat) (w : Owner) : (putOwner s o w).availAt = s.availAt := rfl
@[simp] theorem putOwner_rot (s : State) (o : Nat) (w : Owner) : (putOwner s o w).rot = s.rot := rfl
@[simp] theorem putOwner_copies (s : State) (o : Nat) (w : Owner) : (putOwner s o w).copies = s.copies := rfl
@[simp] theorem putOwner_scLines (s : State) (o : Nat) (w : Owner) : (putOwner s o w).scLines = s.scLines := rfl
@[simp] theorem putOwner_victim (s : State) (o : Nat) (w : Owner) : (putOwner s o w).victim = s.victim := rfl
@[simp] theorem putOwner_scLfsr (s : State) (o : Nat) (w : Owner) : (putOwner s o w).scLfsr = s.scLfsr := rfl
@[simp] theorem putOwner_dcLines (s : State) (o : Nat) (w : Owner) : (putOwner s o w).dcLines = s.dcLines := rfl
@[simp] theorem putOwner_dcTree (s : State) (o : Nat) (w : Owner) : (putOwner s o w).dcTree = s.dcTree := rfl
@[simp] theorem putOwner_icLines (s : State) (o : Nat) (w : Owner) : (putOwner s o w).icLines = s.icLines := rfl
@[simp] theorem putOwner_icTree (s : State) (o : Nat) (w : Owner) : (putOwner s o w).icTree = s.icTree := rfl
@[simp] theorem putOwner_wayErrs (s : State) (o : Nat) (w : Owner) : (putOwner s o w).wayErrs = s.wayErrs := rfl
@[simp] theorem putOwner_lease (s : State) (o : Nat) (w : Owner) : (putOwner s o w).lease = s.lease := rfl
@[simp] theorem putOwner_chain (s : State) (o : Nat) (w : Owner) : (putOwner s o w).chain = s.chain := rfl
@[simp] theorem putOwner_pin (s : State) (o : Nat) (w : Owner) : (putOwner s o w).pin = s.pin := rfl
@[simp] theorem putOwner_lastCount (s : State) (o : Nat) (w : Owner) : (putOwner s o w).lastCount = s.lastCount := rfl
@[simp] theorem putOwner_sampling (s : State) (o : Nat) (w : Owner) : (putOwner s o w).sampling = s.sampling := rfl
@[simp] theorem putOwner_dumpSeq (s : State) (o : Nat) (w : Owner) : (putOwner s o w).dumpSeq = s.dumpSeq := rfl
@[simp] theorem putOwner_secure (s : State) (o : Nat) (w : Owner) : (putOwner s o w).secure = s.secure := rfl
@[simp] theorem putOwner_admin (s : State) (o : Nat) (w : Owner) : (putOwner s o w).admin = s.admin := rfl
@[simp] theorem putOwner_power (s : State) (o : Nat) (w : Owner) : (putOwner s o w).power = s.power := rfl
@[simp] theorem putOwner_mod (s : State) (o : Nat) (w : Owner) : (putOwner s o w).mod = s.mod := rfl
@[simp] theorem putOwner_fresh (s : State) (o : Nat) (w : Owner) : (putOwner s o w).fresh = s.fresh := rfl
@[simp] theorem putOwner_pending (s : State) (o : Nat) (w : Owner) : (putOwner s o w).pending = s.pending := rfl

/-! ### `putOut` -/

@[simp] theorem putOut_n (s : State) (sl p c : Nat) (o : OutPort) : (putOut s sl p c o).n = s.n := rfl
@[simp] theorem putOut_tb (s : State) (sl p c : Nat) (o : OutPort) : (putOut s sl p c o).tb = s.tb := rfl
@[simp] theorem putOut_ctl (s : State) (sl p c : Nat) (o : OutPort) : (putOut s sl p c o).ctl = s.ctl := rfl
@[simp] theorem putOut_lost (s : State) (sl p c : Nat) (o : OutPort) : (putOut s sl p c o).lost = s.lost := rfl
@[simp] theorem putOut_lastLost (s : State) (sl p c : Nat) (o : OutPort) : (putOut s sl p c o).lastLost = s.lastLost := rfl
@[simp] theorem putOut_ptrs (s : State) (sl p c : Nat) (o : OutPort) : (putOut s sl p c o).ptrs = s.ptrs := rfl
@[simp] theorem putOut_jobs (s : State) (sl p c : Nat) (o : OutPort) : (putOut s sl p c o).jobs = s.jobs := rfl
@[simp] theorem putOut_nextJob (s : State) (sl p c : Nat) (o : OutPort) : (putOut s sl p c o).nextJob = s.nextJob := rfl
@[simp] theorem putOut_buffers (s : State) (sl p c : Nat) (o : OutPort) : (putOut s sl p c o).buffers = s.buffers := rfl
@[simp] theorem putOut_nextBuf (s : State) (sl p c : Nat) (o : OutPort) : (putOut s sl p c o).nextBuf = s.nextBuf := rfl
@[simp] theorem putOut_threads (s : State) (sl p c : Nat) (o : OutPort) : (putOut s sl p c o).threads = s.threads := rfl
@[simp] theorem putOut_hkRestart (s : State) (sl p c : Nat) (o : OutPort) : (putOut s sl p c o).hkRestart = s.hkRestart := rfl
@[simp] theorem putOut_dispatchQ (s : State) (sl p c : Nat) (o : OutPort) : (putOut s sl p c o).dispatchQ = s.dispatchQ := rfl
@[simp] theorem putOut_resumeQ (s : State) (sl p c : Nat) (o : OutPort) : (putOut s sl p c o).resumeQ = s.resumeQ := rfl
@[simp] theorem putOut_progs (s : State) (sl p c : Nat) (o : OutPort) : (putOut s sl p c o).progs = s.progs := rfl
@[simp] theorem putOut_nextProg (s : State) (sl p c : Nat) (o : OutPort) : (putOut s sl p c o).nextProg = s.nextProg := rfl
@[simp] theorem putOut_slots (s : State) (sl p c : Nat) (o : OutPort) : (putOut s sl p c o).slots = s.slots := rfl
@[simp] theorem putOut_cutover (s : State) (sl p c : Nat) (o : OutPort) : (putOut s sl p c o).cutover = s.cutover := rfl
@[simp] theorem putOut_evPend (s : State) (sl p c : Nat) (o : OutPort) : (putOut s sl p c o).evPend = s.evPend := rfl
@[simp] theorem putOut_hbm (s : State) (sl p c : Nat) (o : OutPort) : (putOut s sl p c o).hbm = s.hbm := rfl
@[simp] theorem putOut_poison (s : State) (sl p c : Nat) (o : OutPort) : (putOut s sl p c o).poison = s.poison := rfl
@[simp] theorem putOut_keys (s : State) (sl p c : Nat) (o : OutPort) : (putOut s sl p c o).keys = s.keys := rfl
@[simp] theorem putOut_keySeq (s : State) (sl p c : Nat) (o : OutPort) : (putOut s sl p c o).keySeq = s.keySeq := rfl
@[simp] theorem putOut_stage (s : State) (sl p c : Nat) (o : OutPort) : (putOut s sl p c o).stage = s.stage := rfl
@[simp] theorem putOut_queues (s : State) (sl p c : Nat) (o : OutPort) : (putOut s sl p c o).queues = s.queues := rfl
@[simp] theorem putOut_hazards (s : State) (sl p c : Nat) (o : OutPort) : (putOut s sl p c o).hazards = s.hazards := rfl
@[simp] theorem putOut_hazPast (s : State) (sl p c : Nat) (o : OutPort) : (putOut s sl p c o).hazPast = s.hazPast := rfl
@[simp] theorem putOut_hazSeq (s : State) (sl p c : Nat) (o : OutPort) : (putOut s sl p c o).hazSeq = s.hazSeq := rfl
@[simp] theorem putOut_ctxRef (s : State) (sl p c : Nat) (o : OutPort) : (putOut s sl p c o).ctxRef = s.ctxRef := rfl
@[simp] theorem putOut_park (s : State) (sl p c : Nat) (o : OutPort) : (putOut s sl p c o).park = s.park := rfl
@[simp] theorem putOut_heldDg (s : State) (sl p c : Nat) (o : OutPort) : (putOut s sl p c o).heldDg = s.heldDg := rfl
@[simp] theorem putOut_bufWait (s : State) (sl p c : Nat) (o : OutPort) : (putOut s sl p c o).bufWait = s.bufWait := rfl
@[simp] theorem putOut_fetching (s : State) (sl p c : Nat) (o : OutPort) : (putOut s sl p c o).fetching = s.fetching := rfl
@[simp] theorem putOut_evFwd (s : State) (sl p c : Nat) (o : OutPort) : (putOut s sl p c o).evFwd = s.evFwd := rfl
@[simp] theorem putOut_ready (s : State) (sl p c : Nat) (o : OutPort) : (putOut s sl p c o).ready = s.ready := rfl
@[simp] theorem putOut_pauseBoot (s : State) (sl p c : Nat) (o : OutPort) : (putOut s sl p c o).pauseBoot = s.pauseBoot := rfl
@[simp] theorem putOut_pausePark (s : State) (sl p c : Nat) (o : OutPort) : (putOut s sl p c o).pausePark = s.pausePark := rfl
@[simp] theorem putOut_pauseBuf (s : State) (sl p c : Nat) (o : OutPort) : (putOut s sl p c o).pauseBuf = s.pauseBuf := rfl
@[simp] theorem putOut_pauseAt (s : State) (sl p c : Nat) (o : OutPort) : (putOut s sl p c o).pauseAt = s.pauseAt := rfl
@[simp] theorem putOut_peerPause (s : State) (sl p c : Nat) (o : OutPort) : (putOut s sl p c o).peerPause = s.peerPause := rfl
@[simp] theorem putOut_ptpSync (s : State) (sl p c : Nat) (o : OutPort) : (putOut s sl p c o).ptpSync = s.ptpSync := rfl
@[simp] theorem putOut_slew (s : State) (sl p c : Nat) (o : OutPort) : (putOut s sl p c o).slew = s.slew := rfl
@[simp] theorem putOut_slewPhase (s : State) (sl p c : Nat) (o : OutPort) : (putOut s sl p c o).slewPhase = s.slewPhase := rfl
@[simp] theorem putOut_tbStepped (s : State) (sl p c : Nat) (o : OutPort) : (putOut s sl p c o).tbStepped = s.tbStepped := rfl
@[simp] theorem putOut_wire (s : State) (sl p c : Nat) (o : OutPort) : (putOut s sl p c o).wire = s.wire := rfl
@[simp] theorem putOut_layout (s : State) (sl p c : Nat) (o : OutPort) : (putOut s sl p c o).layout = s.layout := rfl
@[simp] theorem putOut_volumes (s : State) (sl p c : Nat) (o : OutPort) : (putOut s sl p c o).volumes = s.volumes := rfl
@[simp] theorem putOut_map (s : State) (sl p c : Nat) (o : OutPort) : (putOut s sl p c o).map = s.map := rfl
@[simp] theorem putOut_leaves (s : State) (sl p c : Nat) (o : OutPort) : (putOut s sl p c o).leaves = s.leaves := rfl
@[simp] theorem putOut_courses (s : State) (sl p c : Nat) (o : OutPort) : (putOut s sl p c o).courses = s.courses := rfl
@[simp] theorem putOut_repourWait (s : State) (sl p c : Nat) (o : OutPort) : (putOut s sl p c o).repourWait = s.repourWait := rfl
@[simp] theorem putOut_leads (s : State) (sl p c : Nat) (o : OutPort) : (putOut s sl p c o).leads = s.leads := rfl
@[simp] theorem putOut_lastOrd (s : State) (sl p c : Nat) (o : OutPort) : (putOut s sl p c o).lastOrd = s.lastOrd := rfl
@[simp] theorem putOut_reclaiming (s : State) (sl p c : Nat) (o : OutPort) : (putOut s sl p c o).reclaiming = s.reclaiming := rfl
@[simp] theorem putOut_pours (s : State) (sl p c : Nat) (o : OutPort) : (putOut s sl p c o).pours = s.pours := rfl
@[simp] theorem putOut_poursRecl (s : State) (sl p c : Nat) (o : OutPort) : (putOut s sl p c o).poursRecl = s.poursRecl := rfl
@[simp] theorem putOut_spaceLow (s : State) (sl p c : Nat) (o : OutPort) : (putOut s sl p c o).spaceLow = s.spaceLow := rfl
@[simp] theorem putOut_flashDir (s : State) (sl p c : Nat) (o : OutPort) : (putOut s sl p c o).flashDir = s.flashDir := rfl
@[simp] theorem putOut_media (s : State) (sl p c : Nat) (o : OutPort) : (putOut s sl p c o).media = s.media := rfl
@[simp] theorem putOut_owners (s : State) (sl p c : Nat) (o : OutPort) : (putOut s sl p c o).owners = s.owners := rfl
@[simp] theorem putOut_standin (s : State) (sl p c : Nat) (o : OutPort) : (putOut s sl p c o).standin = s.standin := rfl
@[simp] theorem putOut_standin2 (s : State) (sl p c : Nat) (o : OutPort) : (putOut s sl p c o).standin2 = s.standin2 := rfl
@[simp] theorem putOut_qtabGone (s : State) (sl p c : Nat) (o : OutPort) : (putOut s sl p c o).qtabGone = s.qtabGone := rfl
@[simp] theorem putOut_ucn (s : State) (sl p c : Nat) (o : OutPort) : (putOut s sl p c o).ucn = s.ucn := rfl
@[simp] theorem putOut_ucnDone (s : State) (sl p c : Nat) (o : OutPort) : (putOut s sl p c o).ucnDone = s.ucnDone := rfl
@[simp] theorem putOut_durable (s : State) (sl p c : Nat) (o : OutPort) : (putOut s sl p c o).durable = s.durable := rfl
@[simp] theorem putOut_members (s : State) (sl p c : Nat) (o : OutPort) : (putOut s sl p c o).members = s.members := rfl
@[simp] theorem putOut_nextCmd (s : State) (sl p c : Nat) (o : OutPort) : (putOut s sl p c o).nextCmd = s.nextCmd := rfl
@[simp] theorem putOut_reads (s : State) (sl p c : Nat) (o : OutPort) : (putOut s sl p c o).reads = s.reads := rfl
@[simp] theorem putOut_nextRead (s : State) (sl p c : Nat) (o : OutPort) : (putOut s sl p c o).nextRead = s.nextRead := rfl
@[simp] theorem putOut_spare (s : State) (sl p c : Nat) (o : OutPort) : (putOut s sl p c o).spare = s.spare := rfl
@[simp] theorem putOut_spareResv (s : State) (sl p c : Nat) (o : OutPort) : (putOut s sl p c o).spareResv = s.spareResv := rfl
@[simp] theorem putOut_spareWp (s : State) (sl p c : Nat) (o : OutPort) : (putOut s sl p c o).spareWp = s.spareWp := rfl
@[simp] theorem putOut_spareHeld (s : State) (sl p c : Nat) (o : OutPort) : (putOut s sl p c o).spareHeld = s.spareHeld := rfl
@[simp] theorem putOut_rebuildQ (s : State) (sl p c : Nat) (o : OutPort) : (putOut s sl p c o).rebuildQ = s.rebuildQ := rfl
@[simp] theorem putOut_lostRange (s : State) (sl p c : Nat) (o : OutPort) : (putOut s sl p c o).lostRange = s.lostRange := rfl
@[simp] theorem putOut_copyBack (s : State) (sl p c : Nat) (o : OutPort) : (putOut s sl p c o).copyBack = s.copyBack := rfl
@[simp] theorem putOut_quorum (s : State) (sl p c : Nat) (o : OutPort) : (putOut s sl p c o).quorum = s.quorum := rfl
@[simp] theorem putOut_qShort (s : State) (sl p c : Nat) (o : OutPort) : (putOut s sl p c o).qShort = s.qShort := rfl
@[simp] theorem putOut_drvTrain (s : State) (sl p c : Nat) (o : OutPort) : (putOut s sl p c o).drvTrain = s.drvTrain := rfl
@[simp] theorem putOut_recovery (s : State) (sl p c : Nat) (o : OutPort) : (putOut s sl p c o).recovery = s.recovery := rfl
@[simp] theorem putOut_resetTb (s : State) (sl p c : Nat) (o : OutPort) : (putOut s sl p c o).resetTb = s.resetTb := rfl
@[simp] theorem putOut_frames (s : State) (sl p c : Nat) (o : OutPort) : (putOut s sl p c o).frames = s.frames := rfl
@[simp] theorem putOut_mcast (s : State) (sl p c : Nat) (o : OutPort) : (putOut s sl p c o).mcast = s.mcast := rfl
@[simp] theorem putOut_mcResult (s : State) (sl p c : Nat) (o : OutPort) : (putOut s sl p c o).mcResult = s.mcResult := rfl
@[simp] theorem putOut_oldLookup (s : State) (sl p c : Nat) (o : OutPort) : (putOut s sl p c o).oldLookup = s.oldLookup := rfl
@[simp] theorem putOut_nextFrame (s : State) (sl p c : Nat) (o : OutPort) : (putOut s sl p c o).nextFrame = s.nextFrame := rfl
@[simp] theorem putOut_gates (s : State) (sl p c : Nat) (o : OutPort) : (putOut s sl p c o).gates = s.gates := rfl
@[simp] theorem putOut_policers (s : State) (sl p c : Nat) (o : OutPort) : (putOut s sl p c o).policers = s.policers := rfl
@[simp] theorem putOut_links (s : State) (sl p c : Nat) (o : OutPort) : (putOut s sl p c o).links = s.links := rfl
@[simp] theorem putOut_barrier (s : State) (sl p c : Nat) (o : OutPort) : (putOut s sl p c o).barrier = s.barrier := rfl
@[simp] theorem putOut_windows (s : State) (sl p c : Nat) (o : OutPort) : (putOut s sl p c o).windows = s.windows := rfl
@[simp] theorem putOut_availAt (s : State) (sl p c : Nat) (o : OutPort) : (putOut s sl p c o).availAt = s.availAt := rfl
@[simp] theorem putOut_rot (s : State) (sl p c : Nat) (o : OutPort) : (putOut s sl p c o).rot = s.rot := rfl
@[simp] theorem putOut_copies (s : State) (sl p c : Nat) (o : OutPort) : (putOut s sl p c o).copies = s.copies := rfl
@[simp] theorem putOut_scLines (s : State) (sl p c : Nat) (o : OutPort) : (putOut s sl p c o).scLines = s.scLines := rfl
@[simp] theorem putOut_victim (s : State) (sl p c : Nat) (o : OutPort) : (putOut s sl p c o).victim = s.victim := rfl
@[simp] theorem putOut_scLfsr (s : State) (sl p c : Nat) (o : OutPort) : (putOut s sl p c o).scLfsr = s.scLfsr := rfl
@[simp] theorem putOut_dcLines (s : State) (sl p c : Nat) (o : OutPort) : (putOut s sl p c o).dcLines = s.dcLines := rfl
@[simp] theorem putOut_dcTree (s : State) (sl p c : Nat) (o : OutPort) : (putOut s sl p c o).dcTree = s.dcTree := rfl
@[simp] theorem putOut_icLines (s : State) (sl p c : Nat) (o : OutPort) : (putOut s sl p c o).icLines = s.icLines := rfl
@[simp] theorem putOut_icTree (s : State) (sl p c : Nat) (o : OutPort) : (putOut s sl p c o).icTree = s.icTree := rfl
@[simp] theorem putOut_wayErrs (s : State) (sl p c : Nat) (o : OutPort) : (putOut s sl p c o).wayErrs = s.wayErrs := rfl
@[simp] theorem putOut_lease (s : State) (sl p c : Nat) (o : OutPort) : (putOut s sl p c o).lease = s.lease := rfl
@[simp] theorem putOut_chain (s : State) (sl p c : Nat) (o : OutPort) : (putOut s sl p c o).chain = s.chain := rfl
@[simp] theorem putOut_pin (s : State) (sl p c : Nat) (o : OutPort) : (putOut s sl p c o).pin = s.pin := rfl
@[simp] theorem putOut_lastCount (s : State) (sl p c : Nat) (o : OutPort) : (putOut s sl p c o).lastCount = s.lastCount := rfl
@[simp] theorem putOut_sampling (s : State) (sl p c : Nat) (o : OutPort) : (putOut s sl p c o).sampling = s.sampling := rfl
@[simp] theorem putOut_dumpSeq (s : State) (sl p c : Nat) (o : OutPort) : (putOut s sl p c o).dumpSeq = s.dumpSeq := rfl
@[simp] theorem putOut_secure (s : State) (sl p c : Nat) (o : OutPort) : (putOut s sl p c o).secure = s.secure := rfl
@[simp] theorem putOut_admin (s : State) (sl p c : Nat) (o : OutPort) : (putOut s sl p c o).admin = s.admin := rfl
@[simp] theorem putOut_power (s : State) (sl p c : Nat) (o : OutPort) : (putOut s sl p c o).power = s.power := rfl
@[simp] theorem putOut_mod (s : State) (sl p c : Nat) (o : OutPort) : (putOut s sl p c o).mod = s.mod := rfl
@[simp] theorem putOut_fresh (s : State) (sl p c : Nat) (o : OutPort) : (putOut s sl p c o).fresh = s.fresh := rfl
@[simp] theorem putOut_pending (s : State) (sl p c : Nat) (o : OutPort) : (putOut s sl p c o).pending = s.pending := rfl

/-! ### `putRot` -/

@[simp] theorem putRot_n (s : State) (sl : Nat) (r : Tab RotEntry) : (putRot s sl r).n = s.n := rfl
@[simp] theorem putRot_tb (s : State) (sl : Nat) (r : Tab RotEntry) : (putRot s sl r).tb = s.tb := rfl
@[simp] theorem putRot_ctl (s : State) (sl : Nat) (r : Tab RotEntry) : (putRot s sl r).ctl = s.ctl := rfl
@[simp] theorem putRot_lost (s : State) (sl : Nat) (r : Tab RotEntry) : (putRot s sl r).lost = s.lost := rfl
@[simp] theorem putRot_lastLost (s : State) (sl : Nat) (r : Tab RotEntry) : (putRot s sl r).lastLost = s.lastLost := rfl
@[simp] theorem putRot_ptrs (s : State) (sl : Nat) (r : Tab RotEntry) : (putRot s sl r).ptrs = s.ptrs := rfl
@[simp] theorem putRot_jobs (s : State) (sl : Nat) (r : Tab RotEntry) : (putRot s sl r).jobs = s.jobs := rfl
@[simp] theorem putRot_nextJob (s : State) (sl : Nat) (r : Tab RotEntry) : (putRot s sl r).nextJob = s.nextJob := rfl
@[simp] theorem putRot_buffers (s : State) (sl : Nat) (r : Tab RotEntry) : (putRot s sl r).buffers = s.buffers := rfl
@[simp] theorem putRot_nextBuf (s : State) (sl : Nat) (r : Tab RotEntry) : (putRot s sl r).nextBuf = s.nextBuf := rfl
@[simp] theorem putRot_threads (s : State) (sl : Nat) (r : Tab RotEntry) : (putRot s sl r).threads = s.threads := rfl
@[simp] theorem putRot_hkRestart (s : State) (sl : Nat) (r : Tab RotEntry) : (putRot s sl r).hkRestart = s.hkRestart := rfl
@[simp] theorem putRot_dispatchQ (s : State) (sl : Nat) (r : Tab RotEntry) : (putRot s sl r).dispatchQ = s.dispatchQ := rfl
@[simp] theorem putRot_resumeQ (s : State) (sl : Nat) (r : Tab RotEntry) : (putRot s sl r).resumeQ = s.resumeQ := rfl
@[simp] theorem putRot_progs (s : State) (sl : Nat) (r : Tab RotEntry) : (putRot s sl r).progs = s.progs := rfl
@[simp] theorem putRot_nextProg (s : State) (sl : Nat) (r : Tab RotEntry) : (putRot s sl r).nextProg = s.nextProg := rfl
@[simp] theorem putRot_slots (s : State) (sl : Nat) (r : Tab RotEntry) : (putRot s sl r).slots = s.slots := rfl
@[simp] theorem putRot_cutover (s : State) (sl : Nat) (r : Tab RotEntry) : (putRot s sl r).cutover = s.cutover := rfl
@[simp] theorem putRot_evPend (s : State) (sl : Nat) (r : Tab RotEntry) : (putRot s sl r).evPend = s.evPend := rfl
@[simp] theorem putRot_hbm (s : State) (sl : Nat) (r : Tab RotEntry) : (putRot s sl r).hbm = s.hbm := rfl
@[simp] theorem putRot_poison (s : State) (sl : Nat) (r : Tab RotEntry) : (putRot s sl r).poison = s.poison := rfl
@[simp] theorem putRot_keys (s : State) (sl : Nat) (r : Tab RotEntry) : (putRot s sl r).keys = s.keys := rfl
@[simp] theorem putRot_keySeq (s : State) (sl : Nat) (r : Tab RotEntry) : (putRot s sl r).keySeq = s.keySeq := rfl
@[simp] theorem putRot_stage (s : State) (sl : Nat) (r : Tab RotEntry) : (putRot s sl r).stage = s.stage := rfl
@[simp] theorem putRot_queues (s : State) (sl : Nat) (r : Tab RotEntry) : (putRot s sl r).queues = s.queues := rfl
@[simp] theorem putRot_hazards (s : State) (sl : Nat) (r : Tab RotEntry) : (putRot s sl r).hazards = s.hazards := rfl
@[simp] theorem putRot_hazPast (s : State) (sl : Nat) (r : Tab RotEntry) : (putRot s sl r).hazPast = s.hazPast := rfl
@[simp] theorem putRot_hazSeq (s : State) (sl : Nat) (r : Tab RotEntry) : (putRot s sl r).hazSeq = s.hazSeq := rfl
@[simp] theorem putRot_ctxRef (s : State) (sl : Nat) (r : Tab RotEntry) : (putRot s sl r).ctxRef = s.ctxRef := rfl
@[simp] theorem putRot_park (s : State) (sl : Nat) (r : Tab RotEntry) : (putRot s sl r).park = s.park := rfl
@[simp] theorem putRot_heldDg (s : State) (sl : Nat) (r : Tab RotEntry) : (putRot s sl r).heldDg = s.heldDg := rfl
@[simp] theorem putRot_bufWait (s : State) (sl : Nat) (r : Tab RotEntry) : (putRot s sl r).bufWait = s.bufWait := rfl
@[simp] theorem putRot_fetching (s : State) (sl : Nat) (r : Tab RotEntry) : (putRot s sl r).fetching = s.fetching := rfl
@[simp] theorem putRot_evFwd (s : State) (sl : Nat) (r : Tab RotEntry) : (putRot s sl r).evFwd = s.evFwd := rfl
@[simp] theorem putRot_ready (s : State) (sl : Nat) (r : Tab RotEntry) : (putRot s sl r).ready = s.ready := rfl
@[simp] theorem putRot_pauseBoot (s : State) (sl : Nat) (r : Tab RotEntry) : (putRot s sl r).pauseBoot = s.pauseBoot := rfl
@[simp] theorem putRot_pausePark (s : State) (sl : Nat) (r : Tab RotEntry) : (putRot s sl r).pausePark = s.pausePark := rfl
@[simp] theorem putRot_pauseBuf (s : State) (sl : Nat) (r : Tab RotEntry) : (putRot s sl r).pauseBuf = s.pauseBuf := rfl
@[simp] theorem putRot_pauseAt (s : State) (sl : Nat) (r : Tab RotEntry) : (putRot s sl r).pauseAt = s.pauseAt := rfl
@[simp] theorem putRot_peerPause (s : State) (sl : Nat) (r : Tab RotEntry) : (putRot s sl r).peerPause = s.peerPause := rfl
@[simp] theorem putRot_ptpSync (s : State) (sl : Nat) (r : Tab RotEntry) : (putRot s sl r).ptpSync = s.ptpSync := rfl
@[simp] theorem putRot_slew (s : State) (sl : Nat) (r : Tab RotEntry) : (putRot s sl r).slew = s.slew := rfl
@[simp] theorem putRot_slewPhase (s : State) (sl : Nat) (r : Tab RotEntry) : (putRot s sl r).slewPhase = s.slewPhase := rfl
@[simp] theorem putRot_tbStepped (s : State) (sl : Nat) (r : Tab RotEntry) : (putRot s sl r).tbStepped = s.tbStepped := rfl
@[simp] theorem putRot_wire (s : State) (sl : Nat) (r : Tab RotEntry) : (putRot s sl r).wire = s.wire := rfl
@[simp] theorem putRot_layout (s : State) (sl : Nat) (r : Tab RotEntry) : (putRot s sl r).layout = s.layout := rfl
@[simp] theorem putRot_volumes (s : State) (sl : Nat) (r : Tab RotEntry) : (putRot s sl r).volumes = s.volumes := rfl
@[simp] theorem putRot_map (s : State) (sl : Nat) (r : Tab RotEntry) : (putRot s sl r).map = s.map := rfl
@[simp] theorem putRot_leaves (s : State) (sl : Nat) (r : Tab RotEntry) : (putRot s sl r).leaves = s.leaves := rfl
@[simp] theorem putRot_courses (s : State) (sl : Nat) (r : Tab RotEntry) : (putRot s sl r).courses = s.courses := rfl
@[simp] theorem putRot_repourWait (s : State) (sl : Nat) (r : Tab RotEntry) : (putRot s sl r).repourWait = s.repourWait := rfl
@[simp] theorem putRot_leads (s : State) (sl : Nat) (r : Tab RotEntry) : (putRot s sl r).leads = s.leads := rfl
@[simp] theorem putRot_lastOrd (s : State) (sl : Nat) (r : Tab RotEntry) : (putRot s sl r).lastOrd = s.lastOrd := rfl
@[simp] theorem putRot_reclaiming (s : State) (sl : Nat) (r : Tab RotEntry) : (putRot s sl r).reclaiming = s.reclaiming := rfl
@[simp] theorem putRot_pours (s : State) (sl : Nat) (r : Tab RotEntry) : (putRot s sl r).pours = s.pours := rfl
@[simp] theorem putRot_poursRecl (s : State) (sl : Nat) (r : Tab RotEntry) : (putRot s sl r).poursRecl = s.poursRecl := rfl
@[simp] theorem putRot_spaceLow (s : State) (sl : Nat) (r : Tab RotEntry) : (putRot s sl r).spaceLow = s.spaceLow := rfl
@[simp] theorem putRot_flashDir (s : State) (sl : Nat) (r : Tab RotEntry) : (putRot s sl r).flashDir = s.flashDir := rfl
@[simp] theorem putRot_media (s : State) (sl : Nat) (r : Tab RotEntry) : (putRot s sl r).media = s.media := rfl
@[simp] theorem putRot_owners (s : State) (sl : Nat) (r : Tab RotEntry) : (putRot s sl r).owners = s.owners := rfl
@[simp] theorem putRot_standin (s : State) (sl : Nat) (r : Tab RotEntry) : (putRot s sl r).standin = s.standin := rfl
@[simp] theorem putRot_standin2 (s : State) (sl : Nat) (r : Tab RotEntry) : (putRot s sl r).standin2 = s.standin2 := rfl
@[simp] theorem putRot_qtabGone (s : State) (sl : Nat) (r : Tab RotEntry) : (putRot s sl r).qtabGone = s.qtabGone := rfl
@[simp] theorem putRot_ucn (s : State) (sl : Nat) (r : Tab RotEntry) : (putRot s sl r).ucn = s.ucn := rfl
@[simp] theorem putRot_ucnDone (s : State) (sl : Nat) (r : Tab RotEntry) : (putRot s sl r).ucnDone = s.ucnDone := rfl
@[simp] theorem putRot_durable (s : State) (sl : Nat) (r : Tab RotEntry) : (putRot s sl r).durable = s.durable := rfl
@[simp] theorem putRot_members (s : State) (sl : Nat) (r : Tab RotEntry) : (putRot s sl r).members = s.members := rfl
@[simp] theorem putRot_nextCmd (s : State) (sl : Nat) (r : Tab RotEntry) : (putRot s sl r).nextCmd = s.nextCmd := rfl
@[simp] theorem putRot_reads (s : State) (sl : Nat) (r : Tab RotEntry) : (putRot s sl r).reads = s.reads := rfl
@[simp] theorem putRot_nextRead (s : State) (sl : Nat) (r : Tab RotEntry) : (putRot s sl r).nextRead = s.nextRead := rfl
@[simp] theorem putRot_spare (s : State) (sl : Nat) (r : Tab RotEntry) : (putRot s sl r).spare = s.spare := rfl
@[simp] theorem putRot_spareResv (s : State) (sl : Nat) (r : Tab RotEntry) : (putRot s sl r).spareResv = s.spareResv := rfl
@[simp] theorem putRot_spareWp (s : State) (sl : Nat) (r : Tab RotEntry) : (putRot s sl r).spareWp = s.spareWp := rfl
@[simp] theorem putRot_spareHeld (s : State) (sl : Nat) (r : Tab RotEntry) : (putRot s sl r).spareHeld = s.spareHeld := rfl
@[simp] theorem putRot_rebuildQ (s : State) (sl : Nat) (r : Tab RotEntry) : (putRot s sl r).rebuildQ = s.rebuildQ := rfl
@[simp] theorem putRot_lostRange (s : State) (sl : Nat) (r : Tab RotEntry) : (putRot s sl r).lostRange = s.lostRange := rfl
@[simp] theorem putRot_copyBack (s : State) (sl : Nat) (r : Tab RotEntry) : (putRot s sl r).copyBack = s.copyBack := rfl
@[simp] theorem putRot_quorum (s : State) (sl : Nat) (r : Tab RotEntry) : (putRot s sl r).quorum = s.quorum := rfl
@[simp] theorem putRot_qShort (s : State) (sl : Nat) (r : Tab RotEntry) : (putRot s sl r).qShort = s.qShort := rfl
@[simp] theorem putRot_drvTrain (s : State) (sl : Nat) (r : Tab RotEntry) : (putRot s sl r).drvTrain = s.drvTrain := rfl
@[simp] theorem putRot_recovery (s : State) (sl : Nat) (r : Tab RotEntry) : (putRot s sl r).recovery = s.recovery := rfl
@[simp] theorem putRot_resetTb (s : State) (sl : Nat) (r : Tab RotEntry) : (putRot s sl r).resetTb = s.resetTb := rfl
@[simp] theorem putRot_frames (s : State) (sl : Nat) (r : Tab RotEntry) : (putRot s sl r).frames = s.frames := rfl
@[simp] theorem putRot_mcast (s : State) (sl : Nat) (r : Tab RotEntry) : (putRot s sl r).mcast = s.mcast := rfl
@[simp] theorem putRot_mcResult (s : State) (sl : Nat) (r : Tab RotEntry) : (putRot s sl r).mcResult = s.mcResult := rfl
@[simp] theorem putRot_oldLookup (s : State) (sl : Nat) (r : Tab RotEntry) : (putRot s sl r).oldLookup = s.oldLookup := rfl
@[simp] theorem putRot_nextFrame (s : State) (sl : Nat) (r : Tab RotEntry) : (putRot s sl r).nextFrame = s.nextFrame := rfl
@[simp] theorem putRot_outs (s : State) (sl : Nat) (r : Tab RotEntry) : (putRot s sl r).outs = s.outs := rfl
@[simp] theorem putRot_gates (s : State) (sl : Nat) (r : Tab RotEntry) : (putRot s sl r).gates = s.gates := rfl
@[simp] theorem putRot_policers (s : State) (sl : Nat) (r : Tab RotEntry) : (putRot s sl r).policers = s.policers := rfl
@[simp] theorem putRot_links (s : State) (sl : Nat) (r : Tab RotEntry) : (putRot s sl r).links = s.links := rfl
@[simp] theorem putRot_barrier (s : State) (sl : Nat) (r : Tab RotEntry) : (putRot s sl r).barrier = s.barrier := rfl
@[simp] theorem putRot_windows (s : State) (sl : Nat) (r : Tab RotEntry) : (putRot s sl r).windows = s.windows := rfl
@[simp] theorem putRot_availAt (s : State) (sl : Nat) (r : Tab RotEntry) : (putRot s sl r).availAt = s.availAt := rfl
@[simp] theorem putRot_copies (s : State) (sl : Nat) (r : Tab RotEntry) : (putRot s sl r).copies = s.copies := rfl
@[simp] theorem putRot_scLines (s : State) (sl : Nat) (r : Tab RotEntry) : (putRot s sl r).scLines = s.scLines := rfl
@[simp] theorem putRot_victim (s : State) (sl : Nat) (r : Tab RotEntry) : (putRot s sl r).victim = s.victim := rfl
@[simp] theorem putRot_scLfsr (s : State) (sl : Nat) (r : Tab RotEntry) : (putRot s sl r).scLfsr = s.scLfsr := rfl
@[simp] theorem putRot_dcLines (s : State) (sl : Nat) (r : Tab RotEntry) : (putRot s sl r).dcLines = s.dcLines := rfl
@[simp] theorem putRot_dcTree (s : State) (sl : Nat) (r : Tab RotEntry) : (putRot s sl r).dcTree = s.dcTree := rfl
@[simp] theorem putRot_icLines (s : State) (sl : Nat) (r : Tab RotEntry) : (putRot s sl r).icLines = s.icLines := rfl
@[simp] theorem putRot_icTree (s : State) (sl : Nat) (r : Tab RotEntry) : (putRot s sl r).icTree = s.icTree := rfl
@[simp] theorem putRot_wayErrs (s : State) (sl : Nat) (r : Tab RotEntry) : (putRot s sl r).wayErrs = s.wayErrs := rfl
@[simp] theorem putRot_lease (s : State) (sl : Nat) (r : Tab RotEntry) : (putRot s sl r).lease = s.lease := rfl
@[simp] theorem putRot_chain (s : State) (sl : Nat) (r : Tab RotEntry) : (putRot s sl r).chain = s.chain := rfl
@[simp] theorem putRot_pin (s : State) (sl : Nat) (r : Tab RotEntry) : (putRot s sl r).pin = s.pin := rfl
@[simp] theorem putRot_lastCount (s : State) (sl : Nat) (r : Tab RotEntry) : (putRot s sl r).lastCount = s.lastCount := rfl
@[simp] theorem putRot_sampling (s : State) (sl : Nat) (r : Tab RotEntry) : (putRot s sl r).sampling = s.sampling := rfl
@[simp] theorem putRot_dumpSeq (s : State) (sl : Nat) (r : Tab RotEntry) : (putRot s sl r).dumpSeq = s.dumpSeq := rfl
@[simp] theorem putRot_secure (s : State) (sl : Nat) (r : Tab RotEntry) : (putRot s sl r).secure = s.secure := rfl
@[simp] theorem putRot_admin (s : State) (sl : Nat) (r : Tab RotEntry) : (putRot s sl r).admin = s.admin := rfl
@[simp] theorem putRot_power (s : State) (sl : Nat) (r : Tab RotEntry) : (putRot s sl r).power = s.power := rfl
@[simp] theorem putRot_mod (s : State) (sl : Nat) (r : Tab RotEntry) : (putRot s sl r).mod = s.mod := rfl
@[simp] theorem putRot_fresh (s : State) (sl : Nat) (r : Tab RotEntry) : (putRot s sl r).fresh = s.fresh := rfl
@[simp] theorem putRot_pending (s : State) (sl : Nat) (r : Tab RotEntry) : (putRot s sl r).pending = s.pending := rfl

/-! ### `putCopy` -/

@[simp] theorem putCopy_n (s : State) (sl id : Nat) (c : Copy) : (putCopy s sl id c).n = s.n := rfl
@[simp] theorem putCopy_tb (s : State) (sl id : Nat) (c : Copy) : (putCopy s sl id c).tb = s.tb := rfl
@[simp] theorem putCopy_ctl (s : State) (sl id : Nat) (c : Copy) : (putCopy s sl id c).ctl = s.ctl := rfl
@[simp] theorem putCopy_lost (s : State) (sl id : Nat) (c : Copy) : (putCopy s sl id c).lost = s.lost := rfl
@[simp] theorem putCopy_lastLost (s : State) (sl id : Nat) (c : Copy) : (putCopy s sl id c).lastLost = s.lastLost := rfl
@[simp] theorem putCopy_ptrs (s : State) (sl id : Nat) (c : Copy) : (putCopy s sl id c).ptrs = s.ptrs := rfl
@[simp] theorem putCopy_jobs (s : State) (sl id : Nat) (c : Copy) : (putCopy s sl id c).jobs = s.jobs := rfl
@[simp] theorem putCopy_nextJob (s : State) (sl id : Nat) (c : Copy) : (putCopy s sl id c).nextJob = s.nextJob := rfl
@[simp] theorem putCopy_buffers (s : State) (sl id : Nat) (c : Copy) : (putCopy s sl id c).buffers = s.buffers := rfl
@[simp] theorem putCopy_nextBuf (s : State) (sl id : Nat) (c : Copy) : (putCopy s sl id c).nextBuf = s.nextBuf := rfl
@[simp] theorem putCopy_threads (s : State) (sl id : Nat) (c : Copy) : (putCopy s sl id c).threads = s.threads := rfl
@[simp] theorem putCopy_hkRestart (s : State) (sl id : Nat) (c : Copy) : (putCopy s sl id c).hkRestart = s.hkRestart := rfl
@[simp] theorem putCopy_dispatchQ (s : State) (sl id : Nat) (c : Copy) : (putCopy s sl id c).dispatchQ = s.dispatchQ := rfl
@[simp] theorem putCopy_resumeQ (s : State) (sl id : Nat) (c : Copy) : (putCopy s sl id c).resumeQ = s.resumeQ := rfl
@[simp] theorem putCopy_progs (s : State) (sl id : Nat) (c : Copy) : (putCopy s sl id c).progs = s.progs := rfl
@[simp] theorem putCopy_nextProg (s : State) (sl id : Nat) (c : Copy) : (putCopy s sl id c).nextProg = s.nextProg := rfl
@[simp] theorem putCopy_slots (s : State) (sl id : Nat) (c : Copy) : (putCopy s sl id c).slots = s.slots := rfl
@[simp] theorem putCopy_cutover (s : State) (sl id : Nat) (c : Copy) : (putCopy s sl id c).cutover = s.cutover := rfl
@[simp] theorem putCopy_evPend (s : State) (sl id : Nat) (c : Copy) : (putCopy s sl id c).evPend = s.evPend := rfl
@[simp] theorem putCopy_hbm (s : State) (sl id : Nat) (c : Copy) : (putCopy s sl id c).hbm = s.hbm := rfl
@[simp] theorem putCopy_poison (s : State) (sl id : Nat) (c : Copy) : (putCopy s sl id c).poison = s.poison := rfl
@[simp] theorem putCopy_keys (s : State) (sl id : Nat) (c : Copy) : (putCopy s sl id c).keys = s.keys := rfl
@[simp] theorem putCopy_keySeq (s : State) (sl id : Nat) (c : Copy) : (putCopy s sl id c).keySeq = s.keySeq := rfl
@[simp] theorem putCopy_stage (s : State) (sl id : Nat) (c : Copy) : (putCopy s sl id c).stage = s.stage := rfl
@[simp] theorem putCopy_queues (s : State) (sl id : Nat) (c : Copy) : (putCopy s sl id c).queues = s.queues := rfl
@[simp] theorem putCopy_hazards (s : State) (sl id : Nat) (c : Copy) : (putCopy s sl id c).hazards = s.hazards := rfl
@[simp] theorem putCopy_hazPast (s : State) (sl id : Nat) (c : Copy) : (putCopy s sl id c).hazPast = s.hazPast := rfl
@[simp] theorem putCopy_hazSeq (s : State) (sl id : Nat) (c : Copy) : (putCopy s sl id c).hazSeq = s.hazSeq := rfl
@[simp] theorem putCopy_ctxRef (s : State) (sl id : Nat) (c : Copy) : (putCopy s sl id c).ctxRef = s.ctxRef := rfl
@[simp] theorem putCopy_park (s : State) (sl id : Nat) (c : Copy) : (putCopy s sl id c).park = s.park := rfl
@[simp] theorem putCopy_heldDg (s : State) (sl id : Nat) (c : Copy) : (putCopy s sl id c).heldDg = s.heldDg := rfl
@[simp] theorem putCopy_bufWait (s : State) (sl id : Nat) (c : Copy) : (putCopy s sl id c).bufWait = s.bufWait := rfl
@[simp] theorem putCopy_fetching (s : State) (sl id : Nat) (c : Copy) : (putCopy s sl id c).fetching = s.fetching := rfl
@[simp] theorem putCopy_evFwd (s : State) (sl id : Nat) (c : Copy) : (putCopy s sl id c).evFwd = s.evFwd := rfl
@[simp] theorem putCopy_ready (s : State) (sl id : Nat) (c : Copy) : (putCopy s sl id c).ready = s.ready := rfl
@[simp] theorem putCopy_pauseBoot (s : State) (sl id : Nat) (c : Copy) : (putCopy s sl id c).pauseBoot = s.pauseBoot := rfl
@[simp] theorem putCopy_pausePark (s : State) (sl id : Nat) (c : Copy) : (putCopy s sl id c).pausePark = s.pausePark := rfl
@[simp] theorem putCopy_pauseBuf (s : State) (sl id : Nat) (c : Copy) : (putCopy s sl id c).pauseBuf = s.pauseBuf := rfl
@[simp] theorem putCopy_pauseAt (s : State) (sl id : Nat) (c : Copy) : (putCopy s sl id c).pauseAt = s.pauseAt := rfl
@[simp] theorem putCopy_peerPause (s : State) (sl id : Nat) (c : Copy) : (putCopy s sl id c).peerPause = s.peerPause := rfl
@[simp] theorem putCopy_ptpSync (s : State) (sl id : Nat) (c : Copy) : (putCopy s sl id c).ptpSync = s.ptpSync := rfl
@[simp] theorem putCopy_slew (s : State) (sl id : Nat) (c : Copy) : (putCopy s sl id c).slew = s.slew := rfl
@[simp] theorem putCopy_slewPhase (s : State) (sl id : Nat) (c : Copy) : (putCopy s sl id c).slewPhase = s.slewPhase := rfl
@[simp] theorem putCopy_tbStepped (s : State) (sl id : Nat) (c : Copy) : (putCopy s sl id c).tbStepped = s.tbStepped := rfl
@[simp] theorem putCopy_wire (s : State) (sl id : Nat) (c : Copy) : (putCopy s sl id c).wire = s.wire := rfl
@[simp] theorem putCopy_layout (s : State) (sl id : Nat) (c : Copy) : (putCopy s sl id c).layout = s.layout := rfl
@[simp] theorem putCopy_volumes (s : State) (sl id : Nat) (c : Copy) : (putCopy s sl id c).volumes = s.volumes := rfl
@[simp] theorem putCopy_map (s : State) (sl id : Nat) (c : Copy) : (putCopy s sl id c).map = s.map := rfl
@[simp] theorem putCopy_leaves (s : State) (sl id : Nat) (c : Copy) : (putCopy s sl id c).leaves = s.leaves := rfl
@[simp] theorem putCopy_courses (s : State) (sl id : Nat) (c : Copy) : (putCopy s sl id c).courses = s.courses := rfl
@[simp] theorem putCopy_repourWait (s : State) (sl id : Nat) (c : Copy) : (putCopy s sl id c).repourWait = s.repourWait := rfl
@[simp] theorem putCopy_leads (s : State) (sl id : Nat) (c : Copy) : (putCopy s sl id c).leads = s.leads := rfl
@[simp] theorem putCopy_lastOrd (s : State) (sl id : Nat) (c : Copy) : (putCopy s sl id c).lastOrd = s.lastOrd := rfl
@[simp] theorem putCopy_reclaiming (s : State) (sl id : Nat) (c : Copy) : (putCopy s sl id c).reclaiming = s.reclaiming := rfl
@[simp] theorem putCopy_pours (s : State) (sl id : Nat) (c : Copy) : (putCopy s sl id c).pours = s.pours := rfl
@[simp] theorem putCopy_poursRecl (s : State) (sl id : Nat) (c : Copy) : (putCopy s sl id c).poursRecl = s.poursRecl := rfl
@[simp] theorem putCopy_spaceLow (s : State) (sl id : Nat) (c : Copy) : (putCopy s sl id c).spaceLow = s.spaceLow := rfl
@[simp] theorem putCopy_flashDir (s : State) (sl id : Nat) (c : Copy) : (putCopy s sl id c).flashDir = s.flashDir := rfl
@[simp] theorem putCopy_media (s : State) (sl id : Nat) (c : Copy) : (putCopy s sl id c).media = s.media := rfl
@[simp] theorem putCopy_owners (s : State) (sl id : Nat) (c : Copy) : (putCopy s sl id c).owners = s.owners := rfl
@[simp] theorem putCopy_standin (s : State) (sl id : Nat) (c : Copy) : (putCopy s sl id c).standin = s.standin := rfl
@[simp] theorem putCopy_standin2 (s : State) (sl id : Nat) (c : Copy) : (putCopy s sl id c).standin2 = s.standin2 := rfl
@[simp] theorem putCopy_qtabGone (s : State) (sl id : Nat) (c : Copy) : (putCopy s sl id c).qtabGone = s.qtabGone := rfl
@[simp] theorem putCopy_ucn (s : State) (sl id : Nat) (c : Copy) : (putCopy s sl id c).ucn = s.ucn := rfl
@[simp] theorem putCopy_ucnDone (s : State) (sl id : Nat) (c : Copy) : (putCopy s sl id c).ucnDone = s.ucnDone := rfl
@[simp] theorem putCopy_durable (s : State) (sl id : Nat) (c : Copy) : (putCopy s sl id c).durable = s.durable := rfl
@[simp] theorem putCopy_members (s : State) (sl id : Nat) (c : Copy) : (putCopy s sl id c).members = s.members := rfl
@[simp] theorem putCopy_nextCmd (s : State) (sl id : Nat) (c : Copy) : (putCopy s sl id c).nextCmd = s.nextCmd := rfl
@[simp] theorem putCopy_reads (s : State) (sl id : Nat) (c : Copy) : (putCopy s sl id c).reads = s.reads := rfl
@[simp] theorem putCopy_nextRead (s : State) (sl id : Nat) (c : Copy) : (putCopy s sl id c).nextRead = s.nextRead := rfl
@[simp] theorem putCopy_spare (s : State) (sl id : Nat) (c : Copy) : (putCopy s sl id c).spare = s.spare := rfl
@[simp] theorem putCopy_spareResv (s : State) (sl id : Nat) (c : Copy) : (putCopy s sl id c).spareResv = s.spareResv := rfl
@[simp] theorem putCopy_spareWp (s : State) (sl id : Nat) (c : Copy) : (putCopy s sl id c).spareWp = s.spareWp := rfl
@[simp] theorem putCopy_spareHeld (s : State) (sl id : Nat) (c : Copy) : (putCopy s sl id c).spareHeld = s.spareHeld := rfl
@[simp] theorem putCopy_rebuildQ (s : State) (sl id : Nat) (c : Copy) : (putCopy s sl id c).rebuildQ = s.rebuildQ := rfl
@[simp] theorem putCopy_lostRange (s : State) (sl id : Nat) (c : Copy) : (putCopy s sl id c).lostRange = s.lostRange := rfl
@[simp] theorem putCopy_copyBack (s : State) (sl id : Nat) (c : Copy) : (putCopy s sl id c).copyBack = s.copyBack := rfl
@[simp] theorem putCopy_quorum (s : State) (sl id : Nat) (c : Copy) : (putCopy s sl id c).quorum = s.quorum := rfl
@[simp] theorem putCopy_qShort (s : State) (sl id : Nat) (c : Copy) : (putCopy s sl id c).qShort = s.qShort := rfl
@[simp] theorem putCopy_drvTrain (s : State) (sl id : Nat) (c : Copy) : (putCopy s sl id c).drvTrain = s.drvTrain := rfl
@[simp] theorem putCopy_recovery (s : State) (sl id : Nat) (c : Copy) : (putCopy s sl id c).recovery = s.recovery := rfl
@[simp] theorem putCopy_resetTb (s : State) (sl id : Nat) (c : Copy) : (putCopy s sl id c).resetTb = s.resetTb := rfl
@[simp] theorem putCopy_frames (s : State) (sl id : Nat) (c : Copy) : (putCopy s sl id c).frames = s.frames := rfl
@[simp] theorem putCopy_mcast (s : State) (sl id : Nat) (c : Copy) : (putCopy s sl id c).mcast = s.mcast := rfl
@[simp] theorem putCopy_mcResult (s : State) (sl id : Nat) (c : Copy) : (putCopy s sl id c).mcResult = s.mcResult := rfl
@[simp] theorem putCopy_oldLookup (s : State) (sl id : Nat) (c : Copy) : (putCopy s sl id c).oldLookup = s.oldLookup := rfl
@[simp] theorem putCopy_nextFrame (s : State) (sl id : Nat) (c : Copy) : (putCopy s sl id c).nextFrame = s.nextFrame := rfl
@[simp] theorem putCopy_outs (s : State) (sl id : Nat) (c : Copy) : (putCopy s sl id c).outs = s.outs := rfl
@[simp] theorem putCopy_gates (s : State) (sl id : Nat) (c : Copy) : (putCopy s sl id c).gates = s.gates := rfl
@[simp] theorem putCopy_policers (s : State) (sl id : Nat) (c : Copy) : (putCopy s sl id c).policers = s.policers := rfl
@[simp] theorem putCopy_links (s : State) (sl id : Nat) (c : Copy) : (putCopy s sl id c).links = s.links := rfl
@[simp] theorem putCopy_barrier (s : State) (sl id : Nat) (c : Copy) : (putCopy s sl id c).barrier = s.barrier := rfl
@[simp] theorem putCopy_windows (s : State) (sl id : Nat) (c : Copy) : (putCopy s sl id c).windows = s.windows := rfl
@[simp] theorem putCopy_availAt (s : State) (sl id : Nat) (c : Copy) : (putCopy s sl id c).availAt = s.availAt := rfl
@[simp] theorem putCopy_rot (s : State) (sl id : Nat) (c : Copy) : (putCopy s sl id c).rot = s.rot := rfl
@[simp] theorem putCopy_scLines (s : State) (sl id : Nat) (c : Copy) : (putCopy s sl id c).scLines = s.scLines := rfl
@[simp] theorem putCopy_victim (s : State) (sl id : Nat) (c : Copy) : (putCopy s sl id c).victim = s.victim := rfl
@[simp] theorem putCopy_scLfsr (s : State) (sl id : Nat) (c : Copy) : (putCopy s sl id c).scLfsr = s.scLfsr := rfl
@[simp] theorem putCopy_dcLines (s : State) (sl id : Nat) (c : Copy) : (putCopy s sl id c).dcLines = s.dcLines := rfl
@[simp] theorem putCopy_dcTree (s : State) (sl id : Nat) (c : Copy) : (putCopy s sl id c).dcTree = s.dcTree := rfl
@[simp] theorem putCopy_icLines (s : State) (sl id : Nat) (c : Copy) : (putCopy s sl id c).icLines = s.icLines := rfl
@[simp] theorem putCopy_icTree (s : State) (sl id : Nat) (c : Copy) : (putCopy s sl id c).icTree = s.icTree := rfl
@[simp] theorem putCopy_wayErrs (s : State) (sl id : Nat) (c : Copy) : (putCopy s sl id c).wayErrs = s.wayErrs := rfl
@[simp] theorem putCopy_lease (s : State) (sl id : Nat) (c : Copy) : (putCopy s sl id c).lease = s.lease := rfl
@[simp] theorem putCopy_chain (s : State) (sl id : Nat) (c : Copy) : (putCopy s sl id c).chain = s.chain := rfl
@[simp] theorem putCopy_pin (s : State) (sl id : Nat) (c : Copy) : (putCopy s sl id c).pin = s.pin := rfl
@[simp] theorem putCopy_lastCount (s : State) (sl id : Nat) (c : Copy) : (putCopy s sl id c).lastCount = s.lastCount := rfl
@[simp] theorem putCopy_sampling (s : State) (sl id : Nat) (c : Copy) : (putCopy s sl id c).sampling = s.sampling := rfl
@[simp] theorem putCopy_dumpSeq (s : State) (sl id : Nat) (c : Copy) : (putCopy s sl id c).dumpSeq = s.dumpSeq := rfl
@[simp] theorem putCopy_secure (s : State) (sl id : Nat) (c : Copy) : (putCopy s sl id c).secure = s.secure := rfl
@[simp] theorem putCopy_admin (s : State) (sl id : Nat) (c : Copy) : (putCopy s sl id c).admin = s.admin := rfl
@[simp] theorem putCopy_power (s : State) (sl id : Nat) (c : Copy) : (putCopy s sl id c).power = s.power := rfl
@[simp] theorem putCopy_mod (s : State) (sl id : Nat) (c : Copy) : (putCopy s sl id c).mod = s.mod := rfl
@[simp] theorem putCopy_fresh (s : State) (sl id : Nat) (c : Copy) : (putCopy s sl id c).fresh = s.fresh := rfl
@[simp] theorem putCopy_pending (s : State) (sl id : Nat) (c : Copy) : (putCopy s sl id c).pending = s.pending := rfl

/-! ### `modLease` -/

@[simp] theorem modLease_n (s : State) (g : Lease → Lease) : (modLease s g).n = s.n := rfl
@[simp] theorem modLease_tb (s : State) (g : Lease → Lease) : (modLease s g).tb = s.tb := rfl
@[simp] theorem modLease_ctl (s : State) (g : Lease → Lease) : (modLease s g).ctl = s.ctl := rfl
@[simp] theorem modLease_lost (s : State) (g : Lease → Lease) : (modLease s g).lost = s.lost := rfl
@[simp] theorem modLease_lastLost (s : State) (g : Lease → Lease) : (modLease s g).lastLost = s.lastLost := rfl
@[simp] theorem modLease_ptrs (s : State) (g : Lease → Lease) : (modLease s g).ptrs = s.ptrs := rfl
@[simp] theorem modLease_jobs (s : State) (g : Lease → Lease) : (modLease s g).jobs = s.jobs := rfl
@[simp] theorem modLease_nextJob (s : State) (g : Lease → Lease) : (modLease s g).nextJob = s.nextJob := rfl
@[simp] theorem modLease_buffers (s : State) (g : Lease → Lease) : (modLease s g).buffers = s.buffers := rfl
@[simp] theorem modLease_nextBuf (s : State) (g : Lease → Lease) : (modLease s g).nextBuf = s.nextBuf := rfl
@[simp] theorem modLease_threads (s : State) (g : Lease → Lease) : (modLease s g).threads = s.threads := rfl
@[simp] theorem modLease_hkRestart (s : State) (g : Lease → Lease) : (modLease s g).hkRestart = s.hkRestart := rfl
@[simp] theorem modLease_dispatchQ (s : State) (g : Lease → Lease) : (modLease s g).dispatchQ = s.dispatchQ := rfl
@[simp] theorem modLease_resumeQ (s : State) (g : Lease → Lease) : (modLease s g).resumeQ = s.resumeQ := rfl
@[simp] theorem modLease_progs (s : State) (g : Lease → Lease) : (modLease s g).progs = s.progs := rfl
@[simp] theorem modLease_nextProg (s : State) (g : Lease → Lease) : (modLease s g).nextProg = s.nextProg := rfl
@[simp] theorem modLease_slots (s : State) (g : Lease → Lease) : (modLease s g).slots = s.slots := rfl
@[simp] theorem modLease_cutover (s : State) (g : Lease → Lease) : (modLease s g).cutover = s.cutover := rfl
@[simp] theorem modLease_evPend (s : State) (g : Lease → Lease) : (modLease s g).evPend = s.evPend := rfl
@[simp] theorem modLease_hbm (s : State) (g : Lease → Lease) : (modLease s g).hbm = s.hbm := rfl
@[simp] theorem modLease_poison (s : State) (g : Lease → Lease) : (modLease s g).poison = s.poison := rfl
@[simp] theorem modLease_keys (s : State) (g : Lease → Lease) : (modLease s g).keys = s.keys := rfl
@[simp] theorem modLease_keySeq (s : State) (g : Lease → Lease) : (modLease s g).keySeq = s.keySeq := rfl
@[simp] theorem modLease_stage (s : State) (g : Lease → Lease) : (modLease s g).stage = s.stage := rfl
@[simp] theorem modLease_queues (s : State) (g : Lease → Lease) : (modLease s g).queues = s.queues := rfl
@[simp] theorem modLease_hazards (s : State) (g : Lease → Lease) : (modLease s g).hazards = s.hazards := rfl
@[simp] theorem modLease_hazPast (s : State) (g : Lease → Lease) : (modLease s g).hazPast = s.hazPast := rfl
@[simp] theorem modLease_hazSeq (s : State) (g : Lease → Lease) : (modLease s g).hazSeq = s.hazSeq := rfl
@[simp] theorem modLease_ctxRef (s : State) (g : Lease → Lease) : (modLease s g).ctxRef = s.ctxRef := rfl
@[simp] theorem modLease_park (s : State) (g : Lease → Lease) : (modLease s g).park = s.park := rfl
@[simp] theorem modLease_heldDg (s : State) (g : Lease → Lease) : (modLease s g).heldDg = s.heldDg := rfl
@[simp] theorem modLease_bufWait (s : State) (g : Lease → Lease) : (modLease s g).bufWait = s.bufWait := rfl
@[simp] theorem modLease_fetching (s : State) (g : Lease → Lease) : (modLease s g).fetching = s.fetching := rfl
@[simp] theorem modLease_evFwd (s : State) (g : Lease → Lease) : (modLease s g).evFwd = s.evFwd := rfl
@[simp] theorem modLease_ready (s : State) (g : Lease → Lease) : (modLease s g).ready = s.ready := rfl
@[simp] theorem modLease_pauseBoot (s : State) (g : Lease → Lease) : (modLease s g).pauseBoot = s.pauseBoot := rfl
@[simp] theorem modLease_pausePark (s : State) (g : Lease → Lease) : (modLease s g).pausePark = s.pausePark := rfl
@[simp] theorem modLease_pauseBuf (s : State) (g : Lease → Lease) : (modLease s g).pauseBuf = s.pauseBuf := rfl
@[simp] theorem modLease_pauseAt (s : State) (g : Lease → Lease) : (modLease s g).pauseAt = s.pauseAt := rfl
@[simp] theorem modLease_peerPause (s : State) (g : Lease → Lease) : (modLease s g).peerPause = s.peerPause := rfl
@[simp] theorem modLease_ptpSync (s : State) (g : Lease → Lease) : (modLease s g).ptpSync = s.ptpSync := rfl
@[simp] theorem modLease_slew (s : State) (g : Lease → Lease) : (modLease s g).slew = s.slew := rfl
@[simp] theorem modLease_slewPhase (s : State) (g : Lease → Lease) : (modLease s g).slewPhase = s.slewPhase := rfl
@[simp] theorem modLease_tbStepped (s : State) (g : Lease → Lease) : (modLease s g).tbStepped = s.tbStepped := rfl
@[simp] theorem modLease_wire (s : State) (g : Lease → Lease) : (modLease s g).wire = s.wire := rfl
@[simp] theorem modLease_layout (s : State) (g : Lease → Lease) : (modLease s g).layout = s.layout := rfl
@[simp] theorem modLease_volumes (s : State) (g : Lease → Lease) : (modLease s g).volumes = s.volumes := rfl
@[simp] theorem modLease_map (s : State) (g : Lease → Lease) : (modLease s g).map = s.map := rfl
@[simp] theorem modLease_leaves (s : State) (g : Lease → Lease) : (modLease s g).leaves = s.leaves := rfl
@[simp] theorem modLease_courses (s : State) (g : Lease → Lease) : (modLease s g).courses = s.courses := rfl
@[simp] theorem modLease_repourWait (s : State) (g : Lease → Lease) : (modLease s g).repourWait = s.repourWait := rfl
@[simp] theorem modLease_leads (s : State) (g : Lease → Lease) : (modLease s g).leads = s.leads := rfl
@[simp] theorem modLease_lastOrd (s : State) (g : Lease → Lease) : (modLease s g).lastOrd = s.lastOrd := rfl
@[simp] theorem modLease_reclaiming (s : State) (g : Lease → Lease) : (modLease s g).reclaiming = s.reclaiming := rfl
@[simp] theorem modLease_pours (s : State) (g : Lease → Lease) : (modLease s g).pours = s.pours := rfl
@[simp] theorem modLease_poursRecl (s : State) (g : Lease → Lease) : (modLease s g).poursRecl = s.poursRecl := rfl
@[simp] theorem modLease_spaceLow (s : State) (g : Lease → Lease) : (modLease s g).spaceLow = s.spaceLow := rfl
@[simp] theorem modLease_flashDir (s : State) (g : Lease → Lease) : (modLease s g).flashDir = s.flashDir := rfl
@[simp] theorem modLease_media (s : State) (g : Lease → Lease) : (modLease s g).media = s.media := rfl
@[simp] theorem modLease_owners (s : State) (g : Lease → Lease) : (modLease s g).owners = s.owners := rfl
@[simp] theorem modLease_standin (s : State) (g : Lease → Lease) : (modLease s g).standin = s.standin := rfl
@[simp] theorem modLease_standin2 (s : State) (g : Lease → Lease) : (modLease s g).standin2 = s.standin2 := rfl
@[simp] theorem modLease_qtabGone (s : State) (g : Lease → Lease) : (modLease s g).qtabGone = s.qtabGone := rfl
@[simp] theorem modLease_ucn (s : State) (g : Lease → Lease) : (modLease s g).ucn = s.ucn := rfl
@[simp] theorem modLease_ucnDone (s : State) (g : Lease → Lease) : (modLease s g).ucnDone = s.ucnDone := rfl
@[simp] theorem modLease_durable (s : State) (g : Lease → Lease) : (modLease s g).durable = s.durable := rfl
@[simp] theorem modLease_members (s : State) (g : Lease → Lease) : (modLease s g).members = s.members := rfl
@[simp] theorem modLease_nextCmd (s : State) (g : Lease → Lease) : (modLease s g).nextCmd = s.nextCmd := rfl
@[simp] theorem modLease_reads (s : State) (g : Lease → Lease) : (modLease s g).reads = s.reads := rfl
@[simp] theorem modLease_nextRead (s : State) (g : Lease → Lease) : (modLease s g).nextRead = s.nextRead := rfl
@[simp] theorem modLease_spare (s : State) (g : Lease → Lease) : (modLease s g).spare = s.spare := rfl
@[simp] theorem modLease_spareResv (s : State) (g : Lease → Lease) : (modLease s g).spareResv = s.spareResv := rfl
@[simp] theorem modLease_spareWp (s : State) (g : Lease → Lease) : (modLease s g).spareWp = s.spareWp := rfl
@[simp] theorem modLease_spareHeld (s : State) (g : Lease → Lease) : (modLease s g).spareHeld = s.spareHeld := rfl
@[simp] theorem modLease_rebuildQ (s : State) (g : Lease → Lease) : (modLease s g).rebuildQ = s.rebuildQ := rfl
@[simp] theorem modLease_lostRange (s : State) (g : Lease → Lease) : (modLease s g).lostRange = s.lostRange := rfl
@[simp] theorem modLease_copyBack (s : State) (g : Lease → Lease) : (modLease s g).copyBack = s.copyBack := rfl
@[simp] theorem modLease_quorum (s : State) (g : Lease → Lease) : (modLease s g).quorum = s.quorum := rfl
@[simp] theorem modLease_qShort (s : State) (g : Lease → Lease) : (modLease s g).qShort = s.qShort := rfl
@[simp] theorem modLease_drvTrain (s : State) (g : Lease → Lease) : (modLease s g).drvTrain = s.drvTrain := rfl
@[simp] theorem modLease_recovery (s : State) (g : Lease → Lease) : (modLease s g).recovery = s.recovery := rfl
@[simp] theorem modLease_resetTb (s : State) (g : Lease → Lease) : (modLease s g).resetTb = s.resetTb := rfl
@[simp] theorem modLease_frames (s : State) (g : Lease → Lease) : (modLease s g).frames = s.frames := rfl
@[simp] theorem modLease_mcast (s : State) (g : Lease → Lease) : (modLease s g).mcast = s.mcast := rfl
@[simp] theorem modLease_mcResult (s : State) (g : Lease → Lease) : (modLease s g).mcResult = s.mcResult := rfl
@[simp] theorem modLease_oldLookup (s : State) (g : Lease → Lease) : (modLease s g).oldLookup = s.oldLookup := rfl
@[simp] theorem modLease_nextFrame (s : State) (g : Lease → Lease) : (modLease s g).nextFrame = s.nextFrame := rfl
@[simp] theorem modLease_outs (s : State) (g : Lease → Lease) : (modLease s g).outs = s.outs := rfl
@[simp] theorem modLease_gates (s : State) (g : Lease → Lease) : (modLease s g).gates = s.gates := rfl
@[simp] theorem modLease_policers (s : State) (g : Lease → Lease) : (modLease s g).policers = s.policers := rfl
@[simp] theorem modLease_links (s : State) (g : Lease → Lease) : (modLease s g).links = s.links := rfl
@[simp] theorem modLease_barrier (s : State) (g : Lease → Lease) : (modLease s g).barrier = s.barrier := rfl
@[simp] theorem modLease_windows (s : State) (g : Lease → Lease) : (modLease s g).windows = s.windows := rfl
@[simp] theorem modLease_availAt (s : State) (g : Lease → Lease) : (modLease s g).availAt = s.availAt := rfl
@[simp] theorem modLease_rot (s : State) (g : Lease → Lease) : (modLease s g).rot = s.rot := rfl
@[simp] theorem modLease_copies (s : State) (g : Lease → Lease) : (modLease s g).copies = s.copies := rfl
@[simp] theorem modLease_scLines (s : State) (g : Lease → Lease) : (modLease s g).scLines = s.scLines := rfl
@[simp] theorem modLease_victim (s : State) (g : Lease → Lease) : (modLease s g).victim = s.victim := rfl
@[simp] theorem modLease_scLfsr (s : State) (g : Lease → Lease) : (modLease s g).scLfsr = s.scLfsr := rfl
@[simp] theorem modLease_dcLines (s : State) (g : Lease → Lease) : (modLease s g).dcLines = s.dcLines := rfl
@[simp] theorem modLease_dcTree (s : State) (g : Lease → Lease) : (modLease s g).dcTree = s.dcTree := rfl
@[simp] theorem modLease_icLines (s : State) (g : Lease → Lease) : (modLease s g).icLines = s.icLines := rfl
@[simp] theorem modLease_icTree (s : State) (g : Lease → Lease) : (modLease s g).icTree = s.icTree := rfl
@[simp] theorem modLease_wayErrs (s : State) (g : Lease → Lease) : (modLease s g).wayErrs = s.wayErrs := rfl
@[simp] theorem modLease_chain (s : State) (g : Lease → Lease) : (modLease s g).chain = s.chain := rfl
@[simp] theorem modLease_pin (s : State) (g : Lease → Lease) : (modLease s g).pin = s.pin := rfl
@[simp] theorem modLease_lastCount (s : State) (g : Lease → Lease) : (modLease s g).lastCount = s.lastCount := rfl
@[simp] theorem modLease_sampling (s : State) (g : Lease → Lease) : (modLease s g).sampling = s.sampling := rfl
@[simp] theorem modLease_dumpSeq (s : State) (g : Lease → Lease) : (modLease s g).dumpSeq = s.dumpSeq := rfl
@[simp] theorem modLease_secure (s : State) (g : Lease → Lease) : (modLease s g).secure = s.secure := rfl
@[simp] theorem modLease_admin (s : State) (g : Lease → Lease) : (modLease s g).admin = s.admin := rfl
@[simp] theorem modLease_power (s : State) (g : Lease → Lease) : (modLease s g).power = s.power := rfl
@[simp] theorem modLease_mod (s : State) (g : Lease → Lease) : (modLease s g).mod = s.mod := rfl
@[simp] theorem modLease_fresh (s : State) (g : Lease → Lease) : (modLease s g).fresh = s.fresh := rfl
@[simp] theorem modLease_pending (s : State) (g : Lease → Lease) : (modLease s g).pending = s.pending := rfl

/-! ### `modChain` -/

@[simp] theorem modChain_n (s : State) (g : Chain → Chain) : (modChain s g).n = s.n := rfl
@[simp] theorem modChain_tb (s : State) (g : Chain → Chain) : (modChain s g).tb = s.tb := rfl
@[simp] theorem modChain_ctl (s : State) (g : Chain → Chain) : (modChain s g).ctl = s.ctl := rfl
@[simp] theorem modChain_lost (s : State) (g : Chain → Chain) : (modChain s g).lost = s.lost := rfl
@[simp] theorem modChain_lastLost (s : State) (g : Chain → Chain) : (modChain s g).lastLost = s.lastLost := rfl
@[simp] theorem modChain_ptrs (s : State) (g : Chain → Chain) : (modChain s g).ptrs = s.ptrs := rfl
@[simp] theorem modChain_jobs (s : State) (g : Chain → Chain) : (modChain s g).jobs = s.jobs := rfl
@[simp] theorem modChain_nextJob (s : State) (g : Chain → Chain) : (modChain s g).nextJob = s.nextJob := rfl
@[simp] theorem modChain_buffers (s : State) (g : Chain → Chain) : (modChain s g).buffers = s.buffers := rfl
@[simp] theorem modChain_nextBuf (s : State) (g : Chain → Chain) : (modChain s g).nextBuf = s.nextBuf := rfl
@[simp] theorem modChain_threads (s : State) (g : Chain → Chain) : (modChain s g).threads = s.threads := rfl
@[simp] theorem modChain_hkRestart (s : State) (g : Chain → Chain) : (modChain s g).hkRestart = s.hkRestart := rfl
@[simp] theorem modChain_dispatchQ (s : State) (g : Chain → Chain) : (modChain s g).dispatchQ = s.dispatchQ := rfl
@[simp] theorem modChain_resumeQ (s : State) (g : Chain → Chain) : (modChain s g).resumeQ = s.resumeQ := rfl
@[simp] theorem modChain_progs (s : State) (g : Chain → Chain) : (modChain s g).progs = s.progs := rfl
@[simp] theorem modChain_nextProg (s : State) (g : Chain → Chain) : (modChain s g).nextProg = s.nextProg := rfl
@[simp] theorem modChain_slots (s : State) (g : Chain → Chain) : (modChain s g).slots = s.slots := rfl
@[simp] theorem modChain_cutover (s : State) (g : Chain → Chain) : (modChain s g).cutover = s.cutover := rfl
@[simp] theorem modChain_evPend (s : State) (g : Chain → Chain) : (modChain s g).evPend = s.evPend := rfl
@[simp] theorem modChain_hbm (s : State) (g : Chain → Chain) : (modChain s g).hbm = s.hbm := rfl
@[simp] theorem modChain_poison (s : State) (g : Chain → Chain) : (modChain s g).poison = s.poison := rfl
@[simp] theorem modChain_keys (s : State) (g : Chain → Chain) : (modChain s g).keys = s.keys := rfl
@[simp] theorem modChain_keySeq (s : State) (g : Chain → Chain) : (modChain s g).keySeq = s.keySeq := rfl
@[simp] theorem modChain_stage (s : State) (g : Chain → Chain) : (modChain s g).stage = s.stage := rfl
@[simp] theorem modChain_queues (s : State) (g : Chain → Chain) : (modChain s g).queues = s.queues := rfl
@[simp] theorem modChain_hazards (s : State) (g : Chain → Chain) : (modChain s g).hazards = s.hazards := rfl
@[simp] theorem modChain_hazPast (s : State) (g : Chain → Chain) : (modChain s g).hazPast = s.hazPast := rfl
@[simp] theorem modChain_hazSeq (s : State) (g : Chain → Chain) : (modChain s g).hazSeq = s.hazSeq := rfl
@[simp] theorem modChain_ctxRef (s : State) (g : Chain → Chain) : (modChain s g).ctxRef = s.ctxRef := rfl
@[simp] theorem modChain_park (s : State) (g : Chain → Chain) : (modChain s g).park = s.park := rfl
@[simp] theorem modChain_heldDg (s : State) (g : Chain → Chain) : (modChain s g).heldDg = s.heldDg := rfl
@[simp] theorem modChain_bufWait (s : State) (g : Chain → Chain) : (modChain s g).bufWait = s.bufWait := rfl
@[simp] theorem modChain_fetching (s : State) (g : Chain → Chain) : (modChain s g).fetching = s.fetching := rfl
@[simp] theorem modChain_evFwd (s : State) (g : Chain → Chain) : (modChain s g).evFwd = s.evFwd := rfl
@[simp] theorem modChain_ready (s : State) (g : Chain → Chain) : (modChain s g).ready = s.ready := rfl
@[simp] theorem modChain_pauseBoot (s : State) (g : Chain → Chain) : (modChain s g).pauseBoot = s.pauseBoot := rfl
@[simp] theorem modChain_pausePark (s : State) (g : Chain → Chain) : (modChain s g).pausePark = s.pausePark := rfl
@[simp] theorem modChain_pauseBuf (s : State) (g : Chain → Chain) : (modChain s g).pauseBuf = s.pauseBuf := rfl
@[simp] theorem modChain_pauseAt (s : State) (g : Chain → Chain) : (modChain s g).pauseAt = s.pauseAt := rfl
@[simp] theorem modChain_peerPause (s : State) (g : Chain → Chain) : (modChain s g).peerPause = s.peerPause := rfl
@[simp] theorem modChain_ptpSync (s : State) (g : Chain → Chain) : (modChain s g).ptpSync = s.ptpSync := rfl
@[simp] theorem modChain_slew (s : State) (g : Chain → Chain) : (modChain s g).slew = s.slew := rfl
@[simp] theorem modChain_slewPhase (s : State) (g : Chain → Chain) : (modChain s g).slewPhase = s.slewPhase := rfl
@[simp] theorem modChain_tbStepped (s : State) (g : Chain → Chain) : (modChain s g).tbStepped = s.tbStepped := rfl
@[simp] theorem modChain_wire (s : State) (g : Chain → Chain) : (modChain s g).wire = s.wire := rfl
@[simp] theorem modChain_layout (s : State) (g : Chain → Chain) : (modChain s g).layout = s.layout := rfl
@[simp] theorem modChain_volumes (s : State) (g : Chain → Chain) : (modChain s g).volumes = s.volumes := rfl
@[simp] theorem modChain_map (s : State) (g : Chain → Chain) : (modChain s g).map = s.map := rfl
@[simp] theorem modChain_leaves (s : State) (g : Chain → Chain) : (modChain s g).leaves = s.leaves := rfl
@[simp] theorem modChain_courses (s : State) (g : Chain → Chain) : (modChain s g).courses = s.courses := rfl
@[simp] theorem modChain_repourWait (s : State) (g : Chain → Chain) : (modChain s g).repourWait = s.repourWait := rfl
@[simp] theorem modChain_leads (s : State) (g : Chain → Chain) : (modChain s g).leads = s.leads := rfl
@[simp] theorem modChain_lastOrd (s : State) (g : Chain → Chain) : (modChain s g).lastOrd = s.lastOrd := rfl
@[simp] theorem modChain_reclaiming (s : State) (g : Chain → Chain) : (modChain s g).reclaiming = s.reclaiming := rfl
@[simp] theorem modChain_pours (s : State) (g : Chain → Chain) : (modChain s g).pours = s.pours := rfl
@[simp] theorem modChain_poursRecl (s : State) (g : Chain → Chain) : (modChain s g).poursRecl = s.poursRecl := rfl
@[simp] theorem modChain_spaceLow (s : State) (g : Chain → Chain) : (modChain s g).spaceLow = s.spaceLow := rfl
@[simp] theorem modChain_flashDir (s : State) (g : Chain → Chain) : (modChain s g).flashDir = s.flashDir := rfl
@[simp] theorem modChain_media (s : State) (g : Chain → Chain) : (modChain s g).media = s.media := rfl
@[simp] theorem modChain_owners (s : State) (g : Chain → Chain) : (modChain s g).owners = s.owners := rfl
@[simp] theorem modChain_standin (s : State) (g : Chain → Chain) : (modChain s g).standin = s.standin := rfl
@[simp] theorem modChain_standin2 (s : State) (g : Chain → Chain) : (modChain s g).standin2 = s.standin2 := rfl
@[simp] theorem modChain_qtabGone (s : State) (g : Chain → Chain) : (modChain s g).qtabGone = s.qtabGone := rfl
@[simp] theorem modChain_ucn (s : State) (g : Chain → Chain) : (modChain s g).ucn = s.ucn := rfl
@[simp] theorem modChain_ucnDone (s : State) (g : Chain → Chain) : (modChain s g).ucnDone = s.ucnDone := rfl
@[simp] theorem modChain_durable (s : State) (g : Chain → Chain) : (modChain s g).durable = s.durable := rfl
@[simp] theorem modChain_members (s : State) (g : Chain → Chain) : (modChain s g).members = s.members := rfl
@[simp] theorem modChain_nextCmd (s : State) (g : Chain → Chain) : (modChain s g).nextCmd = s.nextCmd := rfl
@[simp] theorem modChain_reads (s : State) (g : Chain → Chain) : (modChain s g).reads = s.reads := rfl
@[simp] theorem modChain_nextRead (s : State) (g : Chain → Chain) : (modChain s g).nextRead = s.nextRead := rfl
@[simp] theorem modChain_spare (s : State) (g : Chain → Chain) : (modChain s g).spare = s.spare := rfl
@[simp] theorem modChain_spareResv (s : State) (g : Chain → Chain) : (modChain s g).spareResv = s.spareResv := rfl
@[simp] theorem modChain_spareWp (s : State) (g : Chain → Chain) : (modChain s g).spareWp = s.spareWp := rfl
@[simp] theorem modChain_spareHeld (s : State) (g : Chain → Chain) : (modChain s g).spareHeld = s.spareHeld := rfl
@[simp] theorem modChain_rebuildQ (s : State) (g : Chain → Chain) : (modChain s g).rebuildQ = s.rebuildQ := rfl
@[simp] theorem modChain_lostRange (s : State) (g : Chain → Chain) : (modChain s g).lostRange = s.lostRange := rfl
@[simp] theorem modChain_copyBack (s : State) (g : Chain → Chain) : (modChain s g).copyBack = s.copyBack := rfl
@[simp] theorem modChain_quorum (s : State) (g : Chain → Chain) : (modChain s g).quorum = s.quorum := rfl
@[simp] theorem modChain_qShort (s : State) (g : Chain → Chain) : (modChain s g).qShort = s.qShort := rfl
@[simp] theorem modChain_drvTrain (s : State) (g : Chain → Chain) : (modChain s g).drvTrain = s.drvTrain := rfl
@[simp] theorem modChain_recovery (s : State) (g : Chain → Chain) : (modChain s g).recovery = s.recovery := rfl
@[simp] theorem modChain_resetTb (s : State) (g : Chain → Chain) : (modChain s g).resetTb = s.resetTb := rfl
@[simp] theorem modChain_frames (s : State) (g : Chain → Chain) : (modChain s g).frames = s.frames := rfl
@[simp] theorem modChain_mcast (s : State) (g : Chain → Chain) : (modChain s g).mcast = s.mcast := rfl
@[simp] theorem modChain_mcResult (s : State) (g : Chain → Chain) : (modChain s g).mcResult = s.mcResult := rfl
@[simp] theorem modChain_oldLookup (s : State) (g : Chain → Chain) : (modChain s g).oldLookup = s.oldLookup := rfl
@[simp] theorem modChain_nextFrame (s : State) (g : Chain → Chain) : (modChain s g).nextFrame = s.nextFrame := rfl
@[simp] theorem modChain_outs (s : State) (g : Chain → Chain) : (modChain s g).outs = s.outs := rfl
@[simp] theorem modChain_gates (s : State) (g : Chain → Chain) : (modChain s g).gates = s.gates := rfl
@[simp] theorem modChain_policers (s : State) (g : Chain → Chain) : (modChain s g).policers = s.policers := rfl
@[simp] theorem modChain_links (s : State) (g : Chain → Chain) : (modChain s g).links = s.links := rfl
@[simp] theorem modChain_barrier (s : State) (g : Chain → Chain) : (modChain s g).barrier = s.barrier := rfl
@[simp] theorem modChain_windows (s : State) (g : Chain → Chain) : (modChain s g).windows = s.windows := rfl
@[simp] theorem modChain_availAt (s : State) (g : Chain → Chain) : (modChain s g).availAt = s.availAt := rfl
@[simp] theorem modChain_rot (s : State) (g : Chain → Chain) : (modChain s g).rot = s.rot := rfl
@[simp] theorem modChain_copies (s : State) (g : Chain → Chain) : (modChain s g).copies = s.copies := rfl
@[simp] theorem modChain_scLines (s : State) (g : Chain → Chain) : (modChain s g).scLines = s.scLines := rfl
@[simp] theorem modChain_victim (s : State) (g : Chain → Chain) : (modChain s g).victim = s.victim := rfl
@[simp] theorem modChain_scLfsr (s : State) (g : Chain → Chain) : (modChain s g).scLfsr = s.scLfsr := rfl
@[simp] theorem modChain_dcLines (s : State) (g : Chain → Chain) : (modChain s g).dcLines = s.dcLines := rfl
@[simp] theorem modChain_dcTree (s : State) (g : Chain → Chain) : (modChain s g).dcTree = s.dcTree := rfl
@[simp] theorem modChain_icLines (s : State) (g : Chain → Chain) : (modChain s g).icLines = s.icLines := rfl
@[simp] theorem modChain_icTree (s : State) (g : Chain → Chain) : (modChain s g).icTree = s.icTree := rfl
@[simp] theorem modChain_wayErrs (s : State) (g : Chain → Chain) : (modChain s g).wayErrs = s.wayErrs := rfl
@[simp] theorem modChain_lease (s : State) (g : Chain → Chain) : (modChain s g).lease = s.lease := rfl
@[simp] theorem modChain_pin (s : State) (g : Chain → Chain) : (modChain s g).pin = s.pin := rfl
@[simp] theorem modChain_lastCount (s : State) (g : Chain → Chain) : (modChain s g).lastCount = s.lastCount := rfl
@[simp] theorem modChain_sampling (s : State) (g : Chain → Chain) : (modChain s g).sampling = s.sampling := rfl
@[simp] theorem modChain_dumpSeq (s : State) (g : Chain → Chain) : (modChain s g).dumpSeq = s.dumpSeq := rfl
@[simp] theorem modChain_secure (s : State) (g : Chain → Chain) : (modChain s g).secure = s.secure := rfl
@[simp] theorem modChain_admin (s : State) (g : Chain → Chain) : (modChain s g).admin = s.admin := rfl
@[simp] theorem modChain_power (s : State) (g : Chain → Chain) : (modChain s g).power = s.power := rfl
@[simp] theorem modChain_mod (s : State) (g : Chain → Chain) : (modChain s g).mod = s.mod := rfl
@[simp] theorem modChain_fresh (s : State) (g : Chain → Chain) : (modChain s g).fresh = s.fresh := rfl
@[simp] theorem modChain_pending (s : State) (g : Chain → Chain) : (modChain s g).pending = s.pending := rfl

@[simp] theorem takeFree_fresh (s : State) : (takeFree s).fresh = s.fresh + 1 := rfl
@[simp] theorem hbmWrite_hbm (s : State) (a : Nat) (b : Block) : (hbmWrite s a b).hbm = bytesPut s.hbm a b := rfl
@[simp] theorem putJob_jobs (s : State) (id : Nat) (j : Job) : (putJob s id j).jobs = tabPut s.jobs id j := rfl
@[simp] theorem putMember_members (s : State) (m : Nat) (x : Member) : (putMember s m x).members = tabPut s.members m x := rfl
@[simp] theorem modQueue_queues (s : State) (q : Nat) (g : Queue → Queue) : (modQueue s q g).queues = tabMod s.queues q g := rfl
@[simp] theorem modCourse_courses (s : State) (k : Nat) (g : Course → Course) : (modCourse s k g).courses = tabMod s.courses k g := rfl
@[simp] theorem putOwner_owners (s : State) (k : Nat) (w : Owner) : (putOwner s k w).owners = tabPut s.owners k w := rfl
@[simp] theorem putOut_outs (s : State) (sl p c : Nat) (o : OutPort) : (putOut s sl p c o).outs = tabPut s.outs (outKey sl p c) o := rfl
@[simp] theorem modLease_lease (s : State) (g : Lease → Lease) : (modLease s g).lease = g s.lease := rfl
@[simp] theorem modChain_chain (s : State) (g : Chain → Chain) : (modChain s g).chain = g s.chain := rfl

end Sys2Proof.Machine
end

