-- ==== Sys2Proof/Laws/Tab.lean ====
section
/-! SUPPORT. Sparse tables: what a lookup finds after each operation, and that every operation keeps the canonical form. -/

namespace Sys2Proof.Machine

variable {α : Type}

@[simp] theorem tabGet_nil (x : Nat) : tabGet ([] : Tab α) x = none := rfl
@[simp] theorem tabGetD_nil (x : Nat) (d : α) : tabGetD ([] : Tab α) x d = d := rfl
@[simp] theorem tabHas_nil (x : Nat) : tabHas ([] : Tab α) x = false := rfl

@[simp] theorem tabGet_tabPut_self (t : Tab α) (x : Nat) (a : α) : tabGet (tabPut t x a) x = some a := by
  induction t with
  | nil => simp [tabPut, tabGet]
  | cons p r ih => obtain ⟨k, v⟩ := p; simp only [tabPut]; split <;> [skip; split] <;> simp_all [tabGet]

theorem tabGet_tabPut_ne (t : Tab α) {x y : Nat} (a : α) (h : y ≠ x) : tabGet (tabPut t x a) y = tabGet t y := by
  induction t with
  | nil => simp [tabPut, tabGet, h]
  | cons p r ih =>
    obtain ⟨k, v⟩ := p
    simp only [tabPut]
    split <;> [skip; split]
    · simp [tabGet, h]
    · subst_vars; simp [tabGet, h]
    · simp [tabGet, ih]

theorem tabGet_tabPut (t : Tab α) (x y : Nat) (a : α) :
    tabGet (tabPut t x a) y = if y = x then some a else tabGet t y := by
  split
  · subst_vars; simp
  · exact tabGet_tabPut_ne t a ‹_›

@[simp] theorem tabGetD_tabPut_self (t : Tab α) (x : Nat) (a d : α) : tabGetD (tabPut t x a) x d = a := by simp [tabGetD]

theorem tabGetD_tabPut_ne (t : Tab α) {x y : Nat} (a d : α) (h : y ≠ x) : tabGetD (tabPut t x a) y d = tabGetD t y d := by
  simp [tabGetD, tabGet_tabPut_ne t a h]

@[simp] theorem tabHas_tabPut_self (t : Tab α) (x : Nat) (a : α) : tabHas (tabPut t x a) x = true := by simp [tabHas]

theorem tabHas_tabPut_ne (t : Tab α) {x y : Nat} (a : α) (h : y ≠ x) : tabHas (tabPut t x a) y = tabHas t y := by
  simp [tabHas, tabGet_tabPut_ne t a h]

@[simp] theorem tabGet_tabDel_self (t : Tab α) (x : Nat) : tabGet (tabDel t x) x = none := by
  induction t with
  | nil => rfl
  | cons p r ih =>
    obtain ⟨k, v⟩ := p
    by_cases h : k = x
    · simpa [tabDel, h] using ih
    · simp only [tabDel, List.filter_cons, h, beq_iff_eq] at ih ⊢
      simp [tabGet, h, Ne.symm h, ih]

theorem tabGet_tabDel_ne (t : Tab α) {x y : Nat} (h : y ≠ x) : tabGet (tabDel t x) y = tabGet t y := by
  induction t with
  | nil => rfl
  | cons p r ih =>
    obtain ⟨k, v⟩ := p
    by_cases hk : k = x
    · subst hk; simpa [tabDel, tabGet, h] using ih
    · simp only [tabDel, List.filter_cons, hk, beq_iff_eq] at ih ⊢
      simp [tabGet, hk, ih]

@[simp] theorem tabHas_tabDel_self (t : Tab α) (x : Nat) : tabHas (tabDel t x) x = false := by simp [tabHas]

@[simp] theorem tabGetD_tabSet_self [DecidableEq α] (d : α) (t : Tab α) (x : Nat) (a : α) :
    tabGetD (tabSet d t x a) x d = a := by
  unfold tabSet
  split <;> simp_all [tabGetD]

theorem tabGetD_tabSet_ne [DecidableEq α] (d e : α) (t : Tab α) {x y : Nat} (a : α) (h : y ≠ x) :
    tabGetD (tabSet d t x a) y e = tabGetD t y e := by
  unfold tabSet
  split <;> simp [tabGetD, tabGet_tabPut_ne, tabGet_tabDel_ne, h]

theorem tabGetD_tabSet [DecidableEq α] (d : α) (t : Tab α) (x y : Nat) (a : α) :
    tabGetD (tabSet d t x a) y d = if y = x then a else tabGetD t y d := by
  split
  · subst_vars; simp
  · exact tabGetD_tabSet_ne d d t a ‹_›

@[simp] theorem tabGet_tabMod_self (t : Tab α) (x : Nat) (f : α → α) : tabGet (tabMod t x f) x = (tabGet t x).map f := by
  unfold tabMod
  split <;> simp_all

theorem tabGet_tabMod_ne (t : Tab α) {x y : Nat} (f : α → α) (h : y ≠ x) : tabGet (tabMod t x f) y = tabGet t y := by
  unfold tabMod
  split <;> simp [tabGet_tabPut_ne, h]

@[simp] theorem tabGet_tabModD_self (t : Tab α) (x : Nat) (d : α) (f : α → α) :
    tabGet (tabModD t x d f) x = some (f (tabGetD t x d)) := by simp [tabModD]

/-! ### The canonical form -/

/-- Every key of a table is at least a bound. -/
theorem tabRising_cons {k : Nat} {v : α} {r : Tab α} :
    tabRising ((k, v) :: r) = true ↔ (∀ p ∈ r, k < p.1) ∧ tabRising r = true := by
  induction r generalizing k v with
  | nil => simp [tabRising]
  | cons p r ih =>
    obtain ⟨k', v'⟩ := p
    simp only [tabRising, Bool.and_eq_true, decide_eq_true_eq, List.mem_cons, forall_eq_or_imp]
    constructor
    · rintro ⟨h, hr⟩
      exact ⟨⟨h, fun p hp => Nat.lt_trans h ((ih.1 hr).1 p hp)⟩, hr⟩
    · rintro ⟨⟨h, -⟩, hr⟩
      exact ⟨h, hr⟩

theorem mem_tabPut {t : Tab α} {x : Nat} {a : α} {p : Nat × α} (h : p ∈ tabPut t x a) : p = (x, a) ∨ p ∈ t := by
  induction t with
  | nil => simpa [tabPut] using h
  | cons q r ih =>
    obtain ⟨k, v⟩ := q
    simp only [tabPut] at h
    split at h <;> [skip; split at h] <;> simp only [List.mem_cons] at h ⊢
    · tauto
    · tauto
    · rcases h with h | h
      · tauto
      · rcases ih h with h | h <;> tauto

theorem tabRising_tabPut {t : Tab α} (x : Nat) (a : α) (h : tabRising t = true) : tabRising (tabPut t x a) = true := by
  induction t with
  | nil => rfl
  | cons q r ih =>
    obtain ⟨k, v⟩ := q
    have h' := tabRising_cons.1 h
    simp only [tabPut]
    split <;> [skip; split]
    · rw [tabRising_cons]
      refine ⟨?_, h⟩
      intro p hp
      rcases List.mem_cons.1 hp with rfl | hp
      · assumption
      · exact Nat.lt_trans ‹_› (h'.1 p hp)
    · subst_vars; exact tabRising_cons.2 h'
    · rw [tabRising_cons]
      refine ⟨fun p hp => ?_, ih h'.2⟩
      rcases mem_tabPut hp with rfl | hp
      · simp only; omega
      · exact h'.1 p hp

theorem tabRising_filter {t : Tab α} (f : Nat × α → Bool) (h : tabRising t = true) : tabRising (t.filter f) = true := by
  induction t with
  | nil => rfl
  | cons q r ih =>
    obtain ⟨k, v⟩ := q
    have h' := tabRising_cons.1 h
    rw [List.filter_cons]
    split
    · rw [tabRising_cons]
      exact ⟨fun p hp => h'.1 p (List.mem_of_mem_filter hp), ih h'.2⟩
    · exact ih h'.2

theorem tabRising_tabDel {t : Tab α} (x : Nat) (h : tabRising t = true) : tabRising (tabDel t x) = true :=
  tabRising_filter _ h

theorem tabRising_tabSet [DecidableEq α] {t : Tab α} (d : α) (x : Nat) (a : α) (h : tabRising t = true) :
    tabRising (tabSet d t x a) = true := by
  unfold tabSet
  split
  · exact tabRising_tabDel x h
  · exact tabRising_tabPut x a h

/-- Storing keeps the canonical form: storing what an unlisted key reads as removes the entry. -/
theorem tabWf_tabSet [DecidableEq α] {t : Tab α} (d : α) (x : Nat) (a : α) (h : tabWf d t = true) :
    tabWf d (tabSet d t x a) = true := by
  simp only [tabWf, Bool.and_eq_true, List.all_eq_true, Bool.not_eq_true', decide_eq_false_iff_not] at h ⊢
  refine ⟨tabRising_tabSet d x a h.1, fun p hp => ?_⟩
  unfold tabSet at hp
  split at hp
  · exact h.2 p (List.mem_of_mem_filter hp)
  · rcases mem_tabPut hp with rfl | hp
    · assumption
    · exact h.2 p hp

end Sys2Proof.Machine
end

