-- ==== Sys2Proof/Laws/Ops.lean ====
section
/-! SUPPORT. What the shared operations do: the form of a meaning, control-space fields, device memory, time. -/

namespace Sys2Proof.Machine

/-! ### The form of a meaning -/

theorem onSlate_fault {sl : Nat} {s : State} (f : State → State) (h : s.n ≤ sl) :
    onSlate sl s f = .fault .noSuchSlate := by simp [onSlate, h]

/-- A slate that serves does what its meaning says. -/
theorem onSlate_serving {sl : Nat} {s : State} (f : State → State) (h : serving s sl = true) :
    onSlate sl s f = .next (f s) := by
  have : sl < s.n := by simp [serving] at h; exact h.1.2
  simp [onSlate, h, Nat.not_le.2 this]

theorem onSlate_off {sl : Nat} {s : State} (f : State → State) (hn : sl < s.n) (h : serving s sl = false) :
    onSlate sl s f = .next s := by simp [onSlate, h, Nat.not_le.2 hn]

/-- Everything the form of a meaning can do. -/
theorem onSlate_cases {sl : Nat} {s : State} {f : State → State} {o : Out} (h : onSlate sl s f = o) :
    (s.n ≤ sl ∧ o = .fault .noSuchSlate) ∨ (sl < s.n ∧ serving s sl = true ∧ o = .next (f s)) ∨
      (sl < s.n ∧ serving s sl = false ∧ o = .next s) := by
  unfold onSlate at h
  split at h
  · exact .inl ⟨‹_›, h.symm⟩
  · split at h
    · exact .inr (.inl ⟨by omega, ‹_›, h.symm⟩)
    · exact .inr (.inr ⟨by omega, by simpa using ‹¬ serving s sl = true›, h.symm⟩)

theorem onUnit_serving {s : State} (f : State → State) (h : serving s 0 = true) : onUnit s f = .next (f s) :=
  onSlate_serving f h

theorem onThread_serving {t : Thread} {s : State} (f : State → State) (h : serving s t.slate = true) :
    onThread t s f = .next (f s) := onSlate_serving f h

/-- A slate's service rests on the module, the variant and the lost slates alone. -/
theorem serving_congr {s t : State} (hm : t.mod = s.mod) (hn : t.n = s.n) (hl : t.lost = s.lost) (sl : Nat) :
    serving t sl = serving s sl := by simp [serving, hm, hn, hl]

@[simp] theorem serving_setF (s : State) (a : Nat) (f : Fld) (v sl : Nat) : serving (setF s a f v) sl = serving s sl :=
  serving_congr (by simp) (by simp) (by simp) sl
@[simp] theorem serving_bump (s : State) (a : Nat) (f : Fld) (k sl : Nat) : serving (bump s a f k) sl = serving s sl :=
  serving_congr (by simp) (by simp) (by simp) sl
@[simp] theorem serving_putJob (s : State) (id : Nat) (j : Job) (sl : Nat) : serving (putJob s id j) sl = serving s sl :=
  serving_congr (by simp) (by simp) (by simp) sl
@[simp] theorem serving_putMember (s : State) (m : Nat) (x : Member) (sl : Nat) : serving (putMember s m x) sl = serving s sl :=
  serving_congr (by simp) (by simp) (by simp) sl

/-! ### Bit fields -/

theorem bits_lt (x : Word) (lo w : Nat) : bits x lo w < 2 ^ w := Nat.mod_lt _ (Nat.two_pow_pos w)

theorem setBits_toNat (x : Word) (lo w v : Nat) (h : lo + w ≤ 64) :
    (setBits x lo w v).toNat = x.toNat % 2 ^ lo + v % 2 ^ w * 2 ^ lo + x.toNat / 2 ^ (lo + w) * 2 ^ (lo + w) := by
  unfold setBits
  rw [BitVec.toNat_ofNat]
  apply Nat.mod_eq_of_lt
  have h1 : x.toNat % 2 ^ lo < 2 ^ lo := Nat.mod_lt _ (Nat.two_pow_pos lo)
  have h2 : v % 2 ^ w < 2 ^ w := Nat.mod_lt _ (Nat.two_pow_pos w)
  have h3 : x.toNat / 2 ^ (lo + w) < 2 ^ (64 - (lo + w)) := by
    rw [Nat.div_lt_iff_lt_mul (Nat.two_pow_pos _), ← Nat.pow_add]
    have : 64 - (lo + w) + (lo + w) = 64 := by omega
    rw [this]; exact x.isLt
  have h4 : (2 : Nat) ^ (lo + w) = 2 ^ lo * 2 ^ w := Nat.pow_add 2 lo w
  have h5 : (2 : Nat) ^ 64 = 2 ^ (64 - (lo + w)) * 2 ^ (lo + w) := by rw [← Nat.pow_add]; congr 1; omega
  rw [h5]
  have h6 : x.toNat % 2 ^ lo + v % 2 ^ w * 2 ^ lo < 2 ^ (lo + w) := by
    rw [h4]
    have : v % 2 ^ w * 2 ^ lo + 2 ^ lo ≤ 2 ^ lo * 2 ^ w := by
      rw [Nat.mul_comm (2 ^ lo)]
      calc v % 2 ^ w * 2 ^ lo + 2 ^ lo = (v % 2 ^ w + 1) * 2 ^ lo := by ring
        _ ≤ 2 ^ w * 2 ^ lo := Nat.mul_le_mul_right _ h2
    omega
  calc x.toNat % 2 ^ lo + v % 2 ^ w * 2 ^ lo + x.toNat / 2 ^ (lo + w) * 2 ^ (lo + w)
      < 2 ^ (lo + w) + x.toNat / 2 ^ (lo + w) * 2 ^ (lo + w) := by omega
    _ = (x.toNat / 2 ^ (lo + w) + 1) * 2 ^ (lo + w) := by ring
    _ ≤ 2 ^ (64 - (lo + w)) * 2 ^ (lo + w) := Nat.mul_le_mul_right _ h3

/-- A field reads back what was put in it. -/
theorem bits_setBits_self (x : Word) (lo w v : Nat) (h : lo + w ≤ 64) : bits (setBits x lo w v) lo w = v % 2 ^ w := by
  unfold bits
  rw [setBits_toNat x lo w v h]
  have h1 : x.toNat % 2 ^ lo < 2 ^ lo := Nat.mod_lt _ (Nat.two_pow_pos lo)
  have e : x.toNat % 2 ^ lo + v % 2 ^ w * 2 ^ lo + x.toNat / 2 ^ (lo + w) * 2 ^ (lo + w) =
      x.toNat % 2 ^ lo + 2 ^ lo * (v % 2 ^ w + x.toNat / 2 ^ (lo + w) * 2 ^ w) := by rw [Nat.pow_add]; ring
  rw [e, Nat.add_mul_div_left _ _ (Nat.two_pow_pos lo), Nat.div_eq_of_lt h1, Nat.zero_add, Nat.add_mul_mod_self_right,
    Nat.mod_mod]

/-- A field below another is untouched by it. -/
theorem bits_setBits_below (x : Word) (lo w v lo' w' : Nat) (h : lo + w ≤ 64) (hd : lo' + w' ≤ lo) :
    bits (setBits x lo w v) lo' w' = bits x lo' w' := by
  unfold bits
  rw [setBits_toNat x lo w v h]
  have key : (x.toNat % 2 ^ lo + v % 2 ^ w * 2 ^ lo + x.toNat / 2 ^ (lo + w) * 2 ^ (lo + w)) % 2 ^ lo = x.toNat % 2 ^ lo := by
    rw [show x.toNat % 2 ^ lo + v % 2 ^ w * 2 ^ lo + x.toNat / 2 ^ (lo + w) * 2 ^ (lo + w) =
      x.toNat % 2 ^ lo + 2 ^ lo * (v % 2 ^ w + x.toNat / 2 ^ (lo + w) * 2 ^ w) by rw [Nat.pow_add]; ring,
      Nat.add_mul_mod_self_left, Nat.mod_mod]
  have low : ∀ y : Nat, y / 2 ^ lo' % 2 ^ w' = y % 2 ^ lo / 2 ^ lo' % 2 ^ w' := by
    intro y
    obtain ⟨k, rfl⟩ := Nat.exists_eq_add_of_le hd
    rw [show (2 : Nat) ^ (lo' + w' + k) = 2 ^ lo' * (2 ^ w' * 2 ^ k) by rw [Nat.pow_add, Nat.pow_add, Nat.mul_assoc],
      Nat.mod_mul_right_div_self, Nat.mod_mul_right_mod]
  rw [low, key, ← low]

/-- A field above another is untouched by it. -/
theorem bits_setBits_above (x : Word) (lo w v lo' w' : Nat) (h : lo + w ≤ 64) (hd : lo + w ≤ lo') :
    bits (setBits x lo w v) lo' w' = bits x lo' w' := by
  unfold bits
  rw [setBits_toNat x lo w v h]
  congr 1
  obtain ⟨k, rfl⟩ := Nat.exists_eq_add_of_le hd
  rw [Nat.pow_add 2 (lo + w) k, ← Nat.div_div_eq_div_mul, ← Nat.div_div_eq_div_mul]
  congr 1
  have h1 : x.toNat % 2 ^ lo < 2 ^ lo := Nat.mod_lt _ (Nat.two_pow_pos lo)
  have h2 : v % 2 ^ w < 2 ^ w := Nat.mod_lt _ (Nat.two_pow_pos w)
  have h6 : x.toNat % 2 ^ lo + v % 2 ^ w * 2 ^ lo < 2 ^ (lo + w) := by
    rw [Nat.pow_add]
    have : v % 2 ^ w * 2 ^ lo + 2 ^ lo ≤ 2 ^ lo * 2 ^ w := by
      rw [Nat.mul_comm (2 ^ lo)]
      calc v % 2 ^ w * 2 ^ lo + 2 ^ lo = (v % 2 ^ w + 1) * 2 ^ lo := by ring
        _ ≤ 2 ^ w * 2 ^ lo := Nat.mul_le_mul_right _ h2
    omega
  rw [Nat.mul_comm (x.toNat / 2 ^ (lo + w)), Nat.add_mul_div_left _ _ (Nat.two_pow_pos _), Nat.div_eq_of_lt h6, Nat.zero_add]

/-! ### Control-space fields -/

theorem rawEntry_putEntry_self (s : State) (sl sp e : Nat) (v : Word) : rawEntry (putEntry s sl sp e v) sl sp e = v := by
  simp [rawEntry, putEntry]

theorem rawEntry_putEntry_ne (s : State) {sl sp e sl' sp' e' : Nat} (v : Word) (h : ctlKey sl' sp' e' ≠ ctlKey sl sp e) :
    rawEntry (putEntry s sl sp e v) sl' sp' e' = rawEntry s sl' sp' e' := by
  simp only [rawEntry, putEntry]
  exact tabGetD_tabSet_ne _ _ _ _ h

/-- A field reads back what was written, cut to its width. -/
theorem getF_setF_self (s : State) (sl : Nat) (f : Fld) (v : Nat) (h : f.lo + f.w ≤ 64) :
    getF (setF s sl f v) sl f = v % 2 ^ f.w := by
  simp [getF, setF, rawEntry_putEntry_self, bits_setBits_self _ _ _ _ h]

/-- A field of another entry is untouched. -/
theorem getF_setF_entry (s : State) (sl sl' : Nat) (f g : Fld) (v : Nat) (h : ctlKey sl' g.sp g.e ≠ ctlKey sl f.sp f.e) :
    getF (setF s sl f v) sl' g = getF s sl' g := by
  simp [getF, setF, rawEntry_putEntry_ne _ _ h]

/-- Another field of the same entry is untouched. -/
theorem getF_setF_field (s : State) (sl : Nat) (f g : Fld) (v : Nat) (hs : g.sp = f.sp) (he : g.e = f.e) (h : f.lo + f.w ≤ 64)
    (hd : g.lo + g.w ≤ f.lo ∨ f.lo + f.w ≤ g.lo) : getF (setF s sl f v) sl g = getF s sl g := by
  rcases hd with hd | hd
  · simp [getF, setF, hs, he, rawEntry_putEntry_self, bits_setBits_below _ _ _ _ _ _ h hd]
  · simp [getF, setF, hs, he, rawEntry_putEntry_self, bits_setBits_above _ _ _ _ _ _ h hd]

/-- A wrapping counter advances by its step, modulo its width. -/
theorem getF_bump_self (s : State) (sl : Nat) (f : Fld) (k : Nat) (h : f.lo + f.w ≤ 64) :
    getF (bump s sl f k) sl f = (getF s sl f + k) % 2 ^ f.w := getF_setF_self s sl f _ h

theorem getF_congr {s t : State} (hc : t.ctl = s.ctl) (hn : t.n = s.n) (sl : Nat) (f : Fld) : getF t sl f = getF s sl f := by
  simp [getF, rawEntry, hc, hn]

theorem isF_congr {s t : State} (hc : t.ctl = s.ctl) (hn : t.n = s.n) (sl : Nat) (f : Fld) : isF t sl f = isF s sl f := by
  simp [isF, getF_congr hc hn]

@[simp] theorem getF_putJob (s : State) (id : Nat) (j : Job) (sl : Nat) (f : Fld) : getF (putJob s id j) sl f = getF s sl f :=
  getF_congr rfl rfl sl f
@[simp] theorem getF_putMember (s : State) (m : Nat) (x : Member) (sl : Nat) (f : Fld) : getF (putMember s m x) sl f = getF s sl f :=
  getF_congr rfl rfl sl f

/-! ### Device memory -/

/-- A byte after a write of consecutive bytes. -/
theorem tabGetD_bytesPut (b : Block) (t : Tab Byte) (off y : Nat) :
    tabGetD (bytesPut t off b) y 0 = if off ≤ y ∧ y < off + b.length then b.getD (y - off) 0 else tabGetD t y 0 := by
  induction b generalizing t off with
  | nil => simp [bytesPut]
  | cons x r ih =>
    simp only [bytesPut, ih, tabGetD_tabSet, List.length_cons]
    by_cases h : y = off
    · subst h; simp
    · by_cases h2 : off + 1 ≤ y ∧ y < off + 1 + r.length
      · rw [if_pos h2, if_pos (by omega)]
        obtain ⟨k, rfl⟩ := Nat.exists_eq_add_of_le h2.1
        rw [show off + 1 + k - (off + 1) = k by omega, show off + 1 + k - off = k + 1 by omega]
        rfl
      · rw [if_neg h2, if_neg h, if_neg (by omega)]

/-- Writing bytes keeps the canonical form. -/
theorem tabWf_bytesPut (b : Block) (t : Tab Byte) (off : Nat) (h : tabWf 0 t = true) : tabWf 0 (bytesPut t off b) = true := by
  induction b generalizing t off with
  | nil => exact h
  | cons x r ih => exact ih _ _ (tabWf_tabSet 0 off x h)

/-- A write of device memory keeps its canonical form. -/
theorem memory_wf_hbmWrite (s : State) (a : Nat) (b : Block) (h : Memory.wf s) : Memory.wf (hbmWrite s a b) :=
  tabWf_bytesPut b s.hbm a h

/-- Reading back what was written. -/
theorem hbmRead_hbmWrite_self (s : State) (a : Nat) (b : Block) : hbmRead (hbmWrite s a b) a b.length = b := by
  apply List.ext_getElem
  · simp [hbmRead, bytesOf]
  · intro i h1 h2
    have e : tabGetD (bytesPut s.hbm a b) (a + i) 0 = b[i] := by
      rw [tabGetD_bytesPut, if_pos (by omega), Nat.add_sub_cancel_left, List.getD_eq_getElem _ _ h2]
    simpa [hbmRead, bytesOf] using e

/-- Bytes outside what a write stores read as before. -/
theorem hbmRead_hbmWrite_outside (s : State) (a : Nat) (b : Block) (y : Nat) (h : y < a ∨ a + b.length ≤ y) :
    hbmRead (hbmWrite s a b) y 1 = hbmRead s y 1 := by
  have e : tabGetD (bytesPut s.hbm a b) y 0 = tabGetD s.hbm y 0 := by rw [tabGetD_bytesPut, if_neg (by omega)]
  simpa [hbmRead, bytesOf] using e

/-! ### Time -/

@[simp] theorem now_setF (s : State) (sl : Nat) (f : Fld) (v x : Nat) : now (setF s sl f v) x = now s x := by simp [now]
@[simp] theorem now_bump (s : State) (sl : Nat) (f : Fld) (k x : Nat) : now (bump s sl f k) x = now s x := by simp [now]
@[simp] theorem now_putJob (s : State) (id : Nat) (j : Job) (x : Nat) : now (putJob s id j) x = now s x := rfl
@[simp] theorem now_putMember (s : State) (m : Nat) (y : Member) (x : Nat) : now (putMember s m y) x = now s x := rfl

end Sys2Proof.Machine
end

