-- ==== Sys2Proof/Laws/Jobs.lean ====
section
/-! SUPPORT. Jobs and the issue of an instruction: what the checks let through, and what a completed instruction leaves. -/

namespace Sys2Proof.Machine

/-! ### Registers -/

theorem rd_zero (j : Job) : rd j 0 = 0 := by simp [rd]

theorem rd_wr (j : Job) (d x : Reg) (v : Word) :
    rd (wr j d v) x = if x = 0 then 0 else if x = d then v else rd j x := by
  unfold rd wr
  by_cases hx : x = 0
  · rw [if_pos hx, if_pos hx]
  · rw [if_neg hx, if_neg hx, if_neg hx]
    by_cases hd : d = 0
    · rw [if_pos hd, if_neg (fun e => hx (e.trans hd))]
    · rw [if_neg hd]
      by_cases h : x = d
      · rw [if_pos h, h]; exact tabGetD_tabSet_self ..
      · rw [if_neg h]; exact tabGetD_tabSet_ne _ _ _ _ fun e => h (BitVec.eq_of_toNat_eq e)

/-- A register write changes the registers and nothing else. -/
theorem wr_eq (j : Job) (d : Reg) (v : Word) : wr j d v = { j with g := (wr j d v).g } := by
  unfold wr; split <;> rfl

/-! ### Job records -/

@[simp] theorem jobOf_putJob_self (s : State) (id : Nat) (j : Job) : jobOf (putJob s id j) id = some j := by
  simp [jobOf]

theorem jobOf_putJob_ne (s : State) {id x : Nat} (j : Job) (h : x ≠ id) : jobOf (putJob s id j) x = jobOf s x := by
  simp [jobOf, tabGet_tabPut_ne _ _ h]

theorem jobOf_congr {s t : State} (h : t.jobs = s.jobs) (x : Nat) : jobOf t x = jobOf s x := by simp [jobOf, h]

theorem tabPut_tabPut {α : Type} (t : Tab α) (x : Nat) (a b : α) : tabPut (tabPut t x a) x b = tabPut t x b := by
  induction t with
  | nil => simp [tabPut]
  | cons p r ih =>
    obtain ⟨k, v⟩ := p
    by_cases h1 : x < k
    · simp [tabPut, h1]
    · by_cases h2 : x = k
      · subst h2; simp [tabPut]
      · simp [tabPut, h1, h2, ih]

@[simp] theorem putJob_putJob (s : State) (id : Nat) (a b : Job) : putJob (putJob s id a) id b = putJob s id b := by
  simp [putJob, tabPut_tabPut]

@[simp] theorem granted_jobs (s : State) (p w n : Nat) : (granted s p w n).jobs = s.jobs := rfl
@[simp] theorem granted_threads (s : State) (p w n : Nat) : (granted s p w n).threads = s.threads := rfl
@[simp] theorem granted_hbm_eq (s : State) (p w n : Nat) : (granted s p w n).hbm = s.hbm := rfl
@[simp] theorem granted_buffers (s : State) (p w n : Nat) : (granted s p w n).buffers = s.buffers := rfl
@[simp] theorem granted_progs (s : State) (p w n : Nat) : (granted s p w n).progs = s.progs := rfl
@[simp] theorem granted_ctl (s : State) (p w n : Nat) : (granted s p w n).ctl = s.ctl := rfl
@[simp] theorem granted_lost (s : State) (p w n : Nat) : (granted s p w n).lost = s.lost := rfl
@[simp] theorem granted_poison (s : State) (p w n : Nat) : (granted s p w n).poison = s.poison := rfl

/-! ### Sample records -/

/-- A sample record touches no job. -/
theorem settleSample_jobs (s : State) (sl job outcome status slot : Nat) (keep hk : Bool) (jid : Word) :
    (settleSample s sl job outcome status slot keep hk jid).jobs = s.jobs := by simp

@[simp] theorem sampleAfter_jobs (s : State) (id : Nat) : (sampleAfter s id).jobs = s.jobs := by
  unfold sampleAfter
  split
  · rfl
  · extract_lets x
    split
    · rfl
    · split
      · exact settleSample_jobs ..
      · split
        · exact settleSample_jobs ..
        · rfl

/-- With no tag in the slate of its job an instruction leaves no sample. -/
theorem sampleAfter_untagged {s : State} {id : Nat} {j : Job} (hj : jobOf s id = some j) (h : (samplingOf s j.slate).tags = []) :
    sampleAfter s id = s := by
  simp [sampleAfter, hj, h]

/-! ### The beginning of an instruction -/

/-- The state in which an instruction has begun: the issue arbiter has moved on, and the instruction is counted. -/
def issued (s : State) (t : Thread) (id : Nat) (j : Job) : State :=
  beginInsn (granted s (ptrIssue t.slate (t.idx / 4)) (t.idx % 4) 4) id j

@[simp] theorem jobOf_issued (s : State) (t : Thread) (id : Nat) (j : Job) : jobOf (issued s t id j) id = some (begun j) := by
  unfold issued beginInsn
  rw [jobOf_congr (countInsn_frame _ _ _).1]
  simp [begun]

theorem issued_jobs (s : State) (t : Thread) (id : Nat) (j : Job) : (issued s t id j).jobs = tabPut s.jobs id (begun j) := by
  simp [issued, beginInsn, begun]

@[simp] theorem issued_hbm (s : State) (t : Thread) (id : Nat) (j : Job) : (issued s t id j).hbm = s.hbm := by
  simp [issued, beginInsn]
@[simp] theorem issued_buffers (s : State) (t : Thread) (id : Nat) (j : Job) : (issued s t id j).buffers = s.buffers := by
  simp [issued, beginInsn]
@[simp] theorem issued_progs (s : State) (t : Thread) (id : Nat) (j : Job) : (issued s t id j).progs = s.progs := by
  simp [issued, beginInsn]
@[simp] theorem issued_lost (s : State) (t : Thread) (id : Nat) (j : Job) : (issued s t id j).lost = s.lost := by
  simp [issued, beginInsn]
@[simp] theorem issued_threads (s : State) (t : Thread) (id : Nat) (j : Job) : (issued s t id j).threads = s.threads := by
  simp [issued, beginInsn]
@[simp] theorem issued_n (s : State) (t : Thread) (id : Nat) (j : Job) : (issued s t id j).n = s.n := by
  simp [issued, beginInsn, granted]
@[simp] theorem issued_queues (s : State) (t : Thread) (id : Nat) (j : Job) : (issued s t id j).queues = s.queues := by
  simp [issued, beginInsn, granted]
@[simp] theorem issued_members (s : State) (t : Thread) (id : Nat) (j : Job) : (issued s t id j).members = s.members := by
  simp [issued, beginInsn, granted]

theorem progLen_congr {s s' : State} {j j' : Job} (hp : s'.progs = s.progs) (hj : j'.prog = j.prog) : progLen s' j' = progLen s j := by
  simp [progLen, hp, hj]

theorem progWord_congr {s s' : State} {j j' : Job} (hp : s'.progs = s.progs) (hj : j'.prog = j.prog) (w : Nat) :
    progWord s' j' w = progWord s j w := by
  simp [progWord, hp, hj]

theorem pcBad_congr {s s' : State} {j j' : Job} (hp : s'.progs = s.progs) (hj : j'.prog = j.prog) (hc : j'.pc = j.pc) (len : Nat) :
    pcBad s' j' len = pcBad s j len := by
  simp [pcBad, progWord_congr hp hj, progLen_congr hp hj, hc]

theorem opcodeBad_congr {s s' : State} {j j' : Job} (hp : s'.progs = s.progs) (hj : j'.prog = j.prog) (hc : j'.pc = j.pc) (t : Thread) :
    opcodeBad s' t j' = opcodeBad s t j := by
  simp [opcodeBad, progWord_congr hp hj, hc]

/-! ### The fetch of an instruction's words -/

/-- What the fetch of an instruction's words leaves alone. -/
theorem fetchWords_frame (s : State) (t : Thread) (j : Job) (len : Nat) :
    (fetchWords s t j len).jobs = s.jobs ∧ (fetchWords s t j len).threads = s.threads ∧
      (fetchWords s t j len).buffers = s.buffers ∧ (fetchWords s t j len).progs = s.progs ∧
      (fetchWords s t j len).lost = s.lost ∧ (fetchWords s t j len).hbm = s.hbm ∧ (fetchWords s t j len).poison = s.poison ∧
      (fetchWords s t j len).sampling = s.sampling ∧ (fetchWords s t j len).members = s.members ∧
      (fetchWords s t j len).queues = s.queues ∧ (fetchWords s t j len).courses = s.courses := by
  simp only [fetchWords]
  (repeat' split) <;> simp

/-- The state an instruction's body runs in: it has begun, and its words are fetched. -/
def fetched (s : State) (t : Thread) (id : Nat) (j : Job) (len : Nat) : State := fetchWords (issued s t id j) t (begun j) len

theorem fetched_jobs (s : State) (t : Thread) (id : Nat) (j : Job) (len : Nat) :
    (fetched s t id j len).jobs = tabPut s.jobs id (begun j) := (fetchWords_frame _ _ _ _).1.trans (issued_jobs _ _ _ _)

@[simp] theorem jobOf_fetched (s : State) (t : Thread) (id : Nat) (j : Job) (len : Nat) :
    jobOf (fetched s t id j len) id = some (begun j) :=
  (jobOf_congr (fetchWords_frame _ _ _ _).1 id).trans (jobOf_issued _ _ _ _)

@[simp] theorem fetched_progs (s : State) (t : Thread) (id : Nat) (j : Job) (len : Nat) : (fetched s t id j len).progs = s.progs :=
  (fetchWords_frame _ _ _ _).2.2.2.1.trans (issued_progs _ _ _ _)

/-- With no counter enabled and no sampling, an instruction's beginning changes only its job and the arbiter. -/
theorem countInsn_uncounted {s : State} {sl : Nat} (h : Uncounted s sl) (hk : Bool) : countInsn s sl hk = s := by
  have hc : ∀ src v, countSrc s sl src v = s := by
    intro src v
    unfold countSrc
    split
    · rfl
    · have : ∀ l : List Nat, (∀ k ∈ l, k < 16) → l.foldl (fun s k =>
          if isF s sl (F.PERF.EN k) && getF s sl (F.PERF.SRC k) == src then
            addCounter s sl k (if isF s sl (F.PERF.MODE k) then 1 else v) else s) s = s := by
        intro l hl
        induction l with
        | nil => rfl
        | cons a l ih =>
          rw [List.foldl_cons, h.counters a (hl a (by simp))]
          simpa using ih fun k hk => hl k (by simp [hk])
      exact this _ fun k hk => List.mem_range.1 hk
  simp [countInsn, hc, h.sampling]

theorem uncounted_congr {s s' : State} {sl : Nat} (hc : s'.ctl = s.ctl) (hn : s'.n = s.n) (hs : s'.sampling = s.sampling)
    (h : Uncounted s sl) : Uncounted s' sl :=
  ⟨fun k hk => by rw [isF_congr hc hn]; exact h.counters k hk, by rw [isF_congr hc hn]; exact h.sampling,
   by simpa [samplingOf, hs] using h.tags⟩

theorem issued_uncounted {s : State} {t : Thread} {id : Nat} {j : Job} (hj : j.slate = t.slate) (h : Uncounted s t.slate) :
    issued s t id j = putJob (granted s (ptrIssue t.slate (t.idx / 4)) (t.idx % 4) 4) id (begun j) := by
  unfold issued beginInsn
  rw [countInsn_uncounted]
  · rfl
  · rw [hj]; exact uncounted_congr (s := s) rfl rfl rfl h

/-! ### Issue -/

/-- An instruction that may issue, whose fields are legal and whose privilege its job has, is its body on the state in which
it has begun, and its sample record. -/
theorem issue_begins {s : State} {t : Thread} {id : Nat} {j : Job} {len : Nat} (h : Issues s t id j len) {legal keepOnly : Bool}
    (hl : legal = true) (hk : keepOnly = true → j.keep = true) (body : State → Nat → Job → State) :
    issue t s len legal keepOnly body = sampleAfter (body (fetched s t id j len) id (begun j)) id := by
  have hc : canIssue j = true := by simp [canIssue, h.ready]
  have hb : (!isHk j && j.budget == 0) = false := by rcases h.budget with hb | hb <;> simp [hb]
  have hp : pcBad (issued s t id j) (begun j) len = false := (pcBad_congr (by simp) rfl rfl len).trans h.pc
  have ho : opcodeBad (fetched s t id j len) t (begun j) = false := (opcodeBad_congr (by simp) rfl rfl t).trans h.opcode
  have hkk : (keepOnly && !(begun j).keep) = false := by
    cases keepOnly with
    | false => rfl
    | true => simp [begun, hk rfl]
  simp only [issue, h.onThread, h.job, hc, hb, Bool.not_true, Bool.false_eq_true, if_false]
  rw [show beginInsn (granted s (ptrIssue t.slate (t.idx / 4)) (t.idx % 4) 4) id j = issued s t id j from rfl, jobOf_issued]
  simp only [hp, Bool.false_eq_true, if_false]
  rw [show fetchWords (issued s t id j) t (begun j) len = fetched s t id j len from rfl]
  simp only [ho, hl, hkk, Bool.not_true, Bool.false_eq_true, if_false]

theorem issue_illegal {s : State} {t : Thread} {id : Nat} {j : Job} {len : Nat} (h : Issues s t id j len) (keepOnly : Bool)
    (body : State → Nat → Job → State) :
    issue t s len false keepOnly body = sampleAfter (trapJob (fetched s t id j len) id St.illegalField) id := by
  have hc : canIssue j = true := by simp [canIssue, h.ready]
  have hb : (!isHk j && j.budget == 0) = false := by rcases h.budget with hb | hb <;> simp [hb]
  have hp : pcBad (issued s t id j) (begun j) len = false := (pcBad_congr (by simp) rfl rfl len).trans h.pc
  have ho : opcodeBad (fetched s t id j len) t (begun j) = false := (opcodeBad_congr (by simp) rfl rfl t).trans h.opcode
  simp only [issue, h.onThread, h.job, hc, hb, Bool.not_true, Bool.false_eq_true, if_false]
  rw [show beginInsn (granted s (ptrIssue t.slate (t.idx / 4)) (t.idx % 4) 4) id j = issued s t id j from rfl, jobOf_issued]
  simp only [hp, Bool.false_eq_true, if_false]
  rw [show fetchWords (issued s t id j) t (begun j) len = fetched s t id j len from rfl]
  simp only [ho, Bool.not_false, Bool.false_eq_true, if_false, if_true]

/-- What an instruction's job is after it: what its body leaves. -/
theorem jobOf_issue {s : State} {t : Thread} {id : Nat} {j : Job} {len : Nat} (h : Issues s t id j len) {legal keepOnly : Bool}
    (hl : legal = true) (hk : keepOnly = true → j.keep = true) (body : State → Nat → Job → State) :
    jobOf (issue t s len legal keepOnly body) id = jobOf (body (fetched s t id j len) id (begun j)) id := by
  rw [issue_begins h hl hk, jobOf_congr (sampleAfter_jobs _ _)]

@[simp] theorem jobOf_finish (s : State) (id : Nat) (j : Job) (len : Nat) :
    jobOf (finish s id j len) id = some { j with pc := j.pc + len } := by simp [finish]

/-! ### The end of a job -/

/-- A job that ends has its response recorded. -/
theorem jobOf_endJob {s : State} {id : Nat} {j : Job} (hj : jobOf s id = some j) (r : Resp) (trap : Bool) :
    ∃ j', jobOf (endJob s id r trap) id = some j' ∧ j'.ended = some { resp := r, trap := trap } ∧
      j' = { j with phase := j'.phase, wait := .none, ended := some { resp := r, trap := trap } } := by
  unfold endJob
  rw [hj]
  exact ⟨_, tabGet_tabPut_self _ _ _, rfl, rfl⟩

@[simp] theorem hkTrapped_jobs (s : State) (sl n : Nat) : (hkTrapped s sl n).jobs = s.jobs := by
  unfold hkTrapped
  split <;> rfl

/-- A trap records its status and result words of zero (R34). -/
theorem jobOf_trapJob {s : State} {id : Nat} {j : Job} (hj : jobOf s id = some j) (st : Status) :
    ∃ j', jobOf (trapJob s id st) id = some j' ∧ j'.ended = some { resp := respOf st [0, 0, 0, 0], trap := true } := by
  unfold trapJob
  rw [hj]
  simp only
  split
  · obtain ⟨j', h, he, -⟩ := jobOf_endJob ((jobOf_congr (hkTrapped_jobs _ _ _) id).trans ((jobOf_congr (detect_frame _ _ _ _).1 id).trans
      ((jobOf_congr (bumpSat_frame _ _ _ _).1 id).trans hj))) (respOf st [0, 0, 0, 0]) true
    exact ⟨j', h, he⟩
  · obtain ⟨j', h, he, -⟩ := jobOf_endJob ((jobOf_congr (detect_frame _ _ _ _).1 id).trans hj) (respOf st [0, 0, 0, 0]) true
    exact ⟨j', h, he⟩

theorem traps_of_trapJob {c : Instr} {s t : State} {id : Nat} {j : Job} {st : Status} (hj : jobOf s id = some j)
    (he : exec c t = .next (sampleAfter (trapJob s id st) id)) : Traps c t id st := by
  obtain ⟨j', h, e⟩ := jobOf_trapJob hj st
  exact ⟨_, j', he, by rw [jobOf_congr (sampleAfter_jobs _ _)]; exact h, e⟩

end Sys2Proof.Machine
end

