-- ==== Sys2Proof/Laws/Mem.lean ====
section
/-! SUPPORT. Device memory keeps its canonical form: every operation either leaves it alone or writes it in that form. -/

namespace Sys2Proof.Machine

set_option linter.unusedSimpArgs false

/-- The canonical form of device memory (R28): bytes in strictly rising address order, none of them zero. -/
def BytesOk (t : Tab Byte) : Prop := tabWf 0 t = true

theorem tabWf_filter {α : Type} [DecidableEq α] {t : Tab α} (d : α) (f : Nat × α → Bool) (h : tabWf d t = true) :
    tabWf d (t.filter f) = true := by
  simp only [tabWf, Bool.and_eq_true, List.all_eq_true] at h ⊢
  exact ⟨tabRising_filter f h.1, fun p hp => h.2 p (List.mem_of_mem_filter hp)⟩

@[simp] theorem bytesPut_memwf (t : Tab Byte) (off : Nat) (b : Block) (h : BytesOk t) : BytesOk (bytesPut t off b) :=
  tabWf_bytesPut b t off h

theorem foldl_memwf {α : Type} (f : State → α → State) (l : List α) (s : State) (hw : BytesOk s.hbm)
    (h : ∀ s a, BytesOk s.hbm → BytesOk (f s a).hbm) : BytesOk (l.foldl f s).hbm := by
  induction l generalizing s with
  | nil => exact hw
  | cons a l ih => exact ih _ (h s a hw)

theorem foldlP_memwf {α β : Type} (f : State × β → α → State × β) (l : List α) (s : State × β) (hw : BytesOk s.1.hbm)
    (h : ∀ s a, BytesOk s.1.hbm → BytesOk (f s a).1.hbm) : BytesOk (l.foldl f s).1.hbm := by
  induction l generalizing s with
  | nil => exact hw
  | cons a l ih => exact ih _ (h s a hw)

theorem forSlates_memwf (l : List Nat) (f : State → Nat → State) (s : State) (hw : BytesOk s.hbm)
    (h : ∀ s a, BytesOk s.hbm → BytesOk (f s a).hbm) : BytesOk (forSlates l f s).hbm :=
  foldl_memwf f l s hw h

theorem ite_hbm {c : Prop} [Decidable c] {a b : State} {m : Tab Byte} (ha : a.hbm = m) (hb : b.hbm = m) :
    (if c then a else b).hbm = m := by split <;> assumption

theorem ite_memwf {c : Prop} [Decidable c] {a b : State} (ha : BytesOk a.hbm) (hb : BytesOk b.hbm) :
    BytesOk (if c then a else b).hbm := by split <;> assumption

@[simp] theorem putEntry_hbm (s : State) (sl : Nat) (sp : Nat) (e : Nat) (v : Word) :
    (putEntry s sl sp e v).hbm = s.hbm := rfl

@[simp] theorem bumpSat_hbm (s : State) (sl : Nat) (f : Fld) (k : Nat) :
    (bumpSat s sl f k).hbm = s.hbm := rfl

@[simp] theorem hbmWrite_memwf (s : State) (a : Nat) (b : Block) (hw : BytesOk s.hbm) :
    BytesOk (hbmWrite s a b).hbm := by
  exact memory_wf_hbmWrite s a b hw

@[simp] theorem updatePause_hbm (s : State) (sl : Nat) :
    (updatePause s sl).hbm = s.hbm := rfl

@[simp] theorem updatePeak_hbm (s : State) (sl : Nat) :
    (updatePeak s sl).hbm = s.hbm := by
  simp only [updatePeak]
  grind [setF_hbm, updatePause_hbm,foldl_hbm, foldlP_hbm, forSlates_hbm, foldl_memwf, foldlP_memwf, forSlates_memwf]

@[simp] theorem joinQueue_hbm (s : State) (sl : Nat) (p : Nat) (sub : Nat) (c : Nat) (id : Nat) :
    (joinQueue s sl p sub c id).hbm = s.hbm := by
  simp only [joinQueue]
  (repeat' split) <;> simp [putOut_hbm]

@[simp] theorem settleCopy_hbm (s : State) (g : Option Nat) (sl : Nat) (ok : Bool) :
    (settleCopy s g sl ok).hbm = s.hbm := by
  simp only [settleCopy]
  (repeat' split) <;> simp []

@[simp] theorem queueFrame_hbm (s : State) (id : Nat) :
    (queueFrame s id).hbm = s.hbm := by
  simp only [queueFrame]
  (repeat' split) <;> simp [bump_hbm, joinQueue_hbm, settleCopy_hbm, foldl_hbm, foldlP_hbm, forSlates_hbm, foldl_memwf, foldlP_memwf, forSlates_memwf]

@[simp] theorem addFrame_hbm (s : State) (f : Frame) :
    (addFrame s f).1.hbm = s.hbm := rfl

@[simp] theorem bufferFrame_hbm (s : State) (f : Frame) :
    (bufferFrame s f).hbm = s.hbm := by
  simp only [bufferFrame]
  (repeat' split) <;> simp [updatePeak_hbm, queueFrame_hbm, addFrame_hbm]

@[simp] theorem mcastAlone_hbm (s : State) (f : Frame) (x : Nat) :
    (mcastAlone s f x).hbm = s.hbm := by
  simp only [mcastAlone]
  (repeat' split) <;> simp [bump_hbm, settleCopy_hbm, bufferFrame_hbm]

@[simp] theorem mcastArrive_hbm (s : State) (f : Frame) :
    (mcastArrive s f).hbm = s.hbm := by
  simp only [mcastArrive]
  (repeat' split) <;> simp [bufferFrame_hbm, mcastAlone_hbm, foldl_hbm, foldlP_hbm, forSlates_hbm, foldl_memwf, foldlP_memwf, forSlates_memwf]

@[simp] theorem sendMulticast_hbm (s : State) (f : Frame) :
    (sendMulticast s f).hbm = s.hbm := by
  simp only [sendMulticast]
  (repeat' split) <;> simp [mcastArrive_hbm]

@[simp] theorem enterFrame_hbm (s : State) (f : Frame) :
    (enterFrame s f).hbm = s.hbm := by
  simp only [enterFrame]
  (repeat' split) <;> simp [bump_hbm, bufferFrame_hbm, sendMulticast_hbm]

@[simp] theorem admitInternal_hbm (s : State) (f : Frame) :
    (admitInternal s f).hbm = s.hbm := by
  simp only [admitInternal]
  (repeat' split) <;> simp [addFrame_hbm, enterFrame_hbm]

@[simp] theorem unstall_hbm (s : State) (sl : Nat) :
    (unstall s sl).hbm = s.hbm := by
  simp only [unstall]
  grind [enterFrame_hbm, foldl_hbm, foldlP_hbm, forSlates_hbm, foldl_memwf, foldlP_memwf, forSlates_memwf]

@[simp] theorem freeFrame_hbm (s : State) (id : Nat) :
    (freeFrame s id).hbm = s.hbm := by
  simp only [freeFrame]
  (repeat' split) <;> simp [updatePause_hbm, unstall_hbm]

@[simp] theorem dropCopy_hbm (s : State) (id : Nat) (o : Nat × Nat) :
    (dropCopy s id o).hbm = s.hbm := by
  simp only [dropCopy]
  (repeat' split) <;> simp [freeFrame_hbm]

@[simp] theorem unqueue_hbm (s : State) (sl : Nat) (p : Nat) (sub : Nat) (c : Nat) (id : Nat) :
    (unqueue s sl p sub c id).hbm = s.hbm := by
  simp only [unqueue]
  (repeat' split) <;> simp [putOut_hbm]

@[simp] theorem settleFrame_hbm (s : State) (f : Frame) :
    (settleFrame s f).hbm = s.hbm := by
  simp only [settleFrame]
  (repeat' split) <;> simp [settleCopy_hbm, foldl_hbm, foldlP_hbm, forSlates_hbm, foldl_memwf, foldlP_memwf, forSlates_memwf]

@[simp] theorem discardFrame_hbm (s : State) (id : Nat) :
    (discardFrame s id).hbm = s.hbm := by
  simp only [discardFrame]
  (repeat' split) <;> simp [freeFrame_hbm, unqueue_hbm, settleFrame_hbm, foldl_hbm, foldlP_hbm, forSlates_hbm, foldl_memwf, foldlP_memwf, forSlates_memwf]

@[simp] theorem sendRaw_hbm (s : State) (d : OutDatagram) (job : Option Nat) :
    (sendRaw s d job).1.hbm = s.hbm := by
  simp only [sendRaw]
  (repeat' split) <;> simp [admitInternal_hbm]

@[simp] theorem offerFirst_hbm (s : State) (sl : Nat) (sp : Nat) (k : Nat) (inj : Bool) (detail : List Word) :
    (offerFirst s sl sp k inj detail).1.hbm = s.hbm := by
  simp only [offerFirst]
  (repeat' split) <;> simp [setF_hbm, foldl_hbm, foldlP_hbm, forSlates_hbm, foldl_memwf, foldlP_memwf, forSlates_memwf]

@[simp] theorem clearFirst_hbm (s : State) (sl : Nat) (sp : Nat) :
    (clearFirst s sl sp).hbm = s.hbm := by
  simp only [clearFirst]
  (repeat' split) <;> simp [putEntry_hbm, setF_hbm, foldl_hbm, foldlP_hbm, forSlates_hbm, foldl_memwf, foldlP_memwf, forSlates_memwf]

@[simp] theorem pendEvent_hbm (s : State) (sl : Nat) (e : Nat) :
    (pendEvent s sl e).1.hbm = s.hbm := by
  simp only [pendEvent]
  (repeat' split) <;> simp [setF_hbm, bump_hbm]

@[simp] theorem forwardOne_hbm (s : State) (sl : Nat) (i : Nat) (payload : Block) :
    (forwardOne s sl i payload).1.hbm = s.hbm := by
  simp only [forwardOne]
  grind [bump_hbm, sendRaw_hbm,foldl_hbm, foldlP_hbm, forSlates_hbm, foldl_memwf, foldlP_memwf, forSlates_memwf]

@[simp] theorem forward_hbm (s : State) (sl : Nat) (e : Nat) (inj : Bool) (merged : Bool) (captured : Bool) :
    (forward s sl e inj merged captured).1.hbm = s.hbm := by
  simp only [forward]
  (repeat' split) <;> simp [forwardOne_hbm, foldl_hbm, foldlP_hbm, forSlates_hbm, foldl_memwf, foldlP_memwf, forSlates_memwf]

@[simp] theorem occur_hbm (s : State) (sl : Nat) (e : Nat) (inj : Bool) (captured : Bool) :
    (occur s sl e inj captured).1.hbm = s.hbm := by
  simp only [occur]
  (repeat' split) <;> simp [pendEvent_hbm, forward_hbm]

@[simp] theorem pinRequest_hbm (s : State) :
    (pinRequest s).hbm = s.hbm := by
  simp only [pinRequest]
  (repeat' split) <;> simp [bump_hbm]

@[simp] theorem recordHit_hbm (s : State) (sl : Nat) (sp : Nat) (k : Nat) (inj : Bool) (detail : List Word) :
    (recordHit s sl sp k inj detail).1.hbm = s.hbm := by
  simp only [recordHit]
  grind [setF_hbm, bump_hbm, offerFirst_hbm, occur_hbm, pinRequest_hbm,foldl_hbm, foldlP_hbm, forSlates_hbm, foldl_memwf, foldlP_memwf, forSlates_memwf]

@[simp] theorem reportSpent_hbm (x0 : Nat) (x1 : State) (x2 : List Nat) :
    (reportSpent x0 x1 x2).hbm = x1.hbm := by
  induction x0 generalizing x1 x2 with
  | zero => rfl
  | succ k ih =>
    cases x2 with
    | nil => rfl
    | cons a l =>
      unfold reportSpent
      exact (ih _ _).trans (recordHit_hbm _ _ _ _ _ _)

@[simp] theorem raiseWith_hbm (s : State) (sl : Nat) (e : Nat) (inj : Bool) (captured : Bool) :
    (raiseWith s sl e inj captured).hbm = s.hbm := by
  simp only [raiseWith]
  (repeat' split) <;> simp [occur_hbm, reportSpent_hbm]

@[simp] theorem raise_hbm (s : State) (sl : Nat) (e : Nat) :
    (raise s sl e).hbm = s.hbm := by
  simp only [raise]
  (repeat' split) <;> simp [raiseWith_hbm]

@[simp] theorem openShadow_hbm (s : State) (kind : ShadowKind) (sl : Nat) (limitUs : Nat) :
    (openShadow s kind sl limitUs).hbm = s.hbm := by
  simp only [openShadow]
  (repeat' split) <;> simp [bump_hbm]

@[simp] theorem recordDet_hbm (s : State) (sl : Nat) (sp : Nat) (k : Nat) (inj : Bool) (detail : List Word) :
    (recordDet s sl sp k inj detail).hbm = s.hbm := by
  simp only [recordDet]
  (repeat' split) <;> simp [recordHit_hbm, reportSpent_hbm]

@[simp] theorem detectAt_hbm (s : State) (sl : Nat) (e : Nat) (arg : Nat) (detail : List Word) :
    (detectAt s sl e arg detail).hbm = s.hbm := by
  simp only [detectAt]
  (repeat' split) <;> simp [bump_hbm, recordDet_hbm]

@[simp] theorem detect_hbm (s : State) (sl : Nat) (e : Nat) (detail : List Word) :
    (detect s sl e detail).hbm = s.hbm := by
  simp only [detect]
  (repeat' split) <;> simp [detectAt_hbm]

@[simp] theorem addCounter_hbm (s : State) (sl : Nat) (k : Nat) (inc : Nat) :
    (addCounter s sl k inc).hbm = s.hbm := by
  simp only [addCounter]
  (repeat' split) <;> simp [setF_hbm, raise_hbm]

@[simp] theorem countSrc_hbm (s : State) (sl : Nat) (src : Nat) (v : Nat) :
    (countSrc s sl src v).hbm = s.hbm := by
  simp only [countSrc]
  grind [addCounter_hbm, foldl_hbm, foldlP_hbm, forSlates_hbm, foldl_memwf, foldlP_memwf, forSlates_memwf]

@[simp] theorem send_hbm (s : State) (d : OutDatagram) (job : Option Nat) :
    (send s d job).hbm = s.hbm := by
  simp only [send]
  (repeat' split) <;> simp [sendRaw_hbm, detect_hbm]

@[simp] theorem dcTouch_hbm (s : State) (sl : Nat) (e : Nat) (set : Nat) (w : Nat) :
    (dcTouch s sl e set w).hbm = s.hbm := rfl

@[simp] theorem snoop_hbm (s : State) (mask : Nat) (line : Nat) (but : Option Nat) :
    (snoop s mask line but).hbm = s.hbm := rfl

@[simp] theorem victimDrain_hbm (s : State) (sl : Nat) :
    (victimDrain s sl).hbm = s.hbm := by
  simp only [victimDrain]
  (repeat' split) <;> simp [countSrc_hbm]

@[simp] theorem toVictim_hbm (s : State) (sl : Nat) (l : Line) :
    (toVictim s sl l).hbm = s.hbm := by
  simp only [toVictim]
  (repeat' split) <;> simp [victimDrain_hbm, foldl_hbm, foldlP_hbm, forSlates_hbm, foldl_memwf, foldlP_memwf, forSlates_memwf]

@[simp] theorem scEvict_hbm (s : State) (sl : Nat) (set : Nat) (way : Nat) :
    (scEvict s sl set way).hbm = s.hbm := by
  simp only [scEvict]
  (repeat' split) <;> simp [snoop_hbm, toVictim_hbm]

@[simp] theorem scRoom_hbm (s : State) (sl : Nat) (set : Nat) :
    (scRoom s sl set).1.hbm = s.hbm := by
  simp only [scRoom]
  (repeat' split) <;> simp [scEvict_hbm]

@[simp] theorem homeAccess_hbm (s : State) (sl : Nat) (x : Nat) (write : Bool) (from_ : Option Nat) (but : Option Nat) :
    (homeAccess s sl x write from_ but).hbm = s.hbm := by
  simp only [homeAccess]
  (repeat' split) <;> simp [countSrc_hbm, snoop_hbm, scRoom_hbm]

@[simp] theorem engineRead_hbm (s : State) (sl : Nat) (e : Nat) (a : Nat) :
    (engineRead s sl e a).hbm = s.hbm := by
  simp only [engineRead]
  (repeat' split) <;> simp [countSrc_hbm, dcTouch_hbm, homeAccess_hbm]

@[simp] theorem engineWrite_hbm (s : State) (sl : Nat) (e : Nat) (a : Nat) :
    (engineWrite s sl e a).hbm = s.hbm := by
  simp only [engineWrite]
  (repeat' split) <;> simp [dcTouch_hbm, homeAccess_hbm]

@[simp] theorem atomicAccess_hbm (s : State) (a : Nat) :
    (atomicAccess s a).hbm = s.hbm := by
  simp only [atomicAccess]
  (repeat' split) <;> simp [homeAccess_hbm]

@[simp] theorem countIcMiss_hbm (s : State) (sl : Nat) (miss : Bool) :
    (countIcMiss s sl miss).hbm = s.hbm := by
  unfold countIcMiss
  rw [foldl_hbm]
  intro t a
  (repeat' split) <;> simp

@[simp] theorem icFetch_hbm (s : State) (sl : Nat) (e : Nat) (prog : Nat) (w : Nat) (look : Bool) :
    (icFetch s sl e prog w look).hbm = s.hbm := by
  simp only [icFetch]
  (repeat' split) <;> simp [countIcMiss_hbm]

@[simp] theorem icFlush_hbm (s : State) (sl : Nat) :
    (icFlush s sl).hbm = s.hbm := by
  rfl

@[simp] theorem dcFlushEngine_hbm (s : State) (sl : Nat) (e : Nat) :
    (dcFlushEngine s sl e).hbm = s.hbm := rfl

@[simp] theorem dcFlush_hbm (s : State) (sl : Nat) :
    (dcFlush s sl).hbm = s.hbm := rfl

@[simp] theorem scFlushWay_hbm (s : State) (sl : Nat) (w : Nat) :
    (scFlushWay s sl w).hbm = s.hbm := by
  simp only [scFlushWay]
  (repeat' split) <;> simp [scEvict_hbm, foldl_hbm, foldlP_hbm, forSlates_hbm, foldl_memwf, foldlP_memwf, forSlates_memwf]

@[simp] theorem scSweep_hbm (s : State) (sl : Nat) :
    (scSweep s sl).hbm = s.hbm := by
  simp only [scSweep]
  (repeat' split) <;> simp [scEvict_hbm, foldl_hbm, foldlP_hbm, forSlates_hbm, foldl_memwf, foldlP_memwf, forSlates_memwf]

@[simp] theorem consumePoison_hbm (s : State) (sl : Nat) (a : Nat) (slot : Nat) (thread : Nat) :
    (consumePoison s sl a slot thread).hbm = s.hbm := by
  simp only [consumePoison]
  (repeat' split) <;> simp [bump_hbm, detect_hbm]

@[simp] theorem homeWrite_memwf (s : State) (a : Nat) (b : Block) (hw : BytesOk s.hbm) :
    BytesOk (homeWrite s a b).hbm := by
  unfold homeWrite
  extract_lets first lines
  rw [foldl_hbm]
  · simp [hw]
  intro t a; simp

@[simp] theorem ringPut_memwf (s : State) (sl : Nat) (r : Ring) (half : Nat) (b : Block) (hw : BytesOk s.hbm) :
    BytesOk (ringPut s sl r half b).hbm := by
  simp only [ringPut]
  (repeat' split) <;> simp [hw, bump_hbm, raise_hbm, homeWrite_memwf]

@[simp] theorem putSampling_hbm (s : State) (sl : Nat) (x : Sampling) :
    (putSampling s sl x).hbm = s.hbm := rfl

@[simp] theorem countInsn_hbm (s : State) (sl : Nat) (hk : Bool) :
    (countInsn s sl hk).hbm = s.hbm := by
  simp only [countInsn]
  (repeat' split) <;> simp [countSrc_hbm, putSampling_hbm]

@[simp] theorem countStall_hbm (s : State) (sl : Nat) (w : InsnWord) :
    (countStall s sl w).hbm = s.hbm := by
  simp only [countStall]
  (repeat' split) <;> simp [takeFree_hbm, countSrc_hbm]

@[simp] theorem settleSample_memwf (s : State) (sl : Nat) (job : Nat) (outcome : Nat) (status : Nat) (slot : Nat) (keep : Bool) (hk : Bool) (jid : Word) (hw : BytesOk s.hbm) :
    BytesOk (settleSample s sl job outcome status slot keep hk jid).hbm := by
  simp only [settleSample]
  (repeat' split) <;> simp [hw, takeFree_hbm, bump_hbm, detect_hbm, ringPut_memwf, putSampling_hbm]

@[simp] theorem modJob_hbm (s : State) (id : Nat) (f : Job → Job) :
    (modJob s id f).hbm = s.hbm := rfl

@[simp] theorem newBuffer_hbm (s : State) (b : Buffer) :
    (newBuffer s b).1.hbm = s.hbm := rfl

@[simp] theorem bufWrite_hbm (s : State) (b : Nat) (off : Nat) (d : Block) :
    (bufWrite s b off d).hbm = s.hbm := rfl

@[simp] theorem endJob_hbm (s : State) (id : Nat) (resp : Resp) (trap : Bool) :
    (endJob s id resp trap).hbm = s.hbm := by
  simp only [endJob]
  (repeat' split) <;> simp [putJob_hbm]

@[simp] theorem hkTrapped_hbm (s : State) (sl : Nat) (n : Nat) :
    (hkTrapped s sl n).hbm = s.hbm := by
  simp only [hkTrapped]
  (repeat' split) <;> simp []

@[simp] theorem trapJob_hbm (s : State) (id : Nat) (st : Status) :
    (trapJob s id st).hbm = s.hbm := by
  simp only [trapJob]
  (repeat' split) <;> simp [bumpSat_hbm, detect_hbm, endJob_hbm, hkTrapped_hbm]

@[simp] theorem poisonJob_hbm (s : State) (id : Nat) (a : Nat) :
    (poisonJob s id a).hbm = s.hbm := by
  simp only [poisonJob]
  (repeat' split) <;> simp [consumePoison_hbm, trapJob_hbm]

@[simp] theorem lostHomeJob_hbm (s : State) (id : Nat) :
    (lostHomeJob s id).hbm = s.hbm := by
  simp only [lostHomeJob]
  (repeat' split) <;> simp [trapJob_hbm]

@[simp] theorem granted_hbm (s : State) (p : Nat) (w : Nat) (n : Nat) :
    (granted s p w n).hbm = s.hbm := rfl

@[simp] theorem beginInsn_hbm (s : State) (id : Nat) (j : Job) :
    (beginInsn s id j).hbm = s.hbm := by
  simp only [beginInsn]
  (repeat' split) <;> simp [countInsn_hbm, putJob_hbm]

@[simp] theorem sampleAfter_memwf (s : State) (id : Nat) (hw : BytesOk s.hbm) :
    BytesOk (sampleAfter s id).hbm := by
  simp only [sampleAfter]
  (repeat' split) <;> simp [hw, putSampling_hbm, settleSample_memwf]

@[simp] theorem fetchWords_hbm (s : State) (t : Thread) (j : Job) (len : Nat) :
    (fetchWords s t j len).hbm = s.hbm := by
  simp only [fetchWords]
  (repeat' split) <;> simp [icFetch_hbm, countStall_hbm]

@[simp] theorem finish_hbm (s : State) (id : Nat) (j : Job) (len : Nat) :
    (finish s id j len).hbm = s.hbm := by
  simp only [finish]
  (repeat' split) <;> simp [putJob_hbm]

@[simp] theorem suspendJob_hbm (s : State) (id : Nat) (j : Job) (w : Wait) (dst : Reg) :
    (suspendJob s id j w dst).hbm = s.hbm := by
  simp only [suspendJob]
  (repeat' split) <;> simp [countSrc_hbm, putJob_hbm]

@[simp] theorem toResume_hbm (s : State) (id : Nat) :
    (toResume s id).hbm = s.hbm := by
  simp only [toResume]
  (repeat' split) <;> simp [putJob_hbm]

@[simp] theorem toDispatch_hbm (s : State) (id : Nat) :
    (toDispatch s id).hbm = s.hbm := by
  simp only [toDispatch]
  (repeat' split) <;> simp [putJob_hbm]

@[simp] theorem addJob_hbm (s : State) (j : Job) :
    (addJob s j).1.hbm = s.hbm := rfl

@[simp] theorem openBypass_hbm (s : State) (sl : Nat) (slot : Nat) :
    (openBypass s sl slot).hbm = s.hbm := by
  simp only [openBypass]
  (repeat' split) <;> simp []

@[simp] theorem hkStart_hbm (s : State) (sl : Nat) (n : Nat) :
    (hkStart s sl n).hbm = s.hbm := by
  simp only [hkStart]
  (repeat' split) <;> simp [detect_hbm, addJob_hbm, openBypass_hbm]

@[simp] theorem jumpTo_hbm (s : State) (id : Nat) (j : Job) (w : Nat) :
    (jumpTo s id j w).hbm = s.hbm := by
  simp only [jumpTo]
  (repeat' split) <;> simp [putJob_hbm, trapJob_hbm]

@[simp] theorem mediaWrite_hbm (s : State) (m : Nat) (slot : Nat) (col : Nat) (b : Block) :
    (mediaWrite s m slot col b).hbm = s.hbm := rfl

@[simp] theorem putMap_hbm (s : State) (v : Nat) (lba : Nat) (e : Word) :
    (putMap s v lba e).hbm = s.hbm := rfl

@[simp] theorem modNode_hbm (s : State) (v : Nat) (j : Nat) (i : Nat) (f : Leaf → Leaf) :
    (modNode s v j i f).hbm = s.hbm := by
  rfl

@[simp] theorem noteCached_hbm (s : State) (v : Nat) (leaf : Nat) :
    (noteCached s v leaf).hbm = s.hbm := by
  simp only [noteCached]
  (repeat' split) <;> simp [modNode_hbm]

@[simp] theorem pendNode_hbm (s : State) (v : Nat) (j : Nat) (i : Nat) (u : Nat) :
    (pendNode s v j i u).hbm = s.hbm := by
  simp only [pendNode]
  (repeat' split) <;> simp [modNode_hbm]

@[simp] theorem pendLeaf_hbm (s : State) (v : Nat) (lba : Nat) (u : Nat) :
    (pendLeaf s v lba u).hbm = s.hbm := rfl

@[simp] theorem retireIfDead_hbm (s : State) (k : Nat) :
    (retireIfDead s k).hbm = s.hbm := by
  simp only [retireIfDead]
  (repeat' split) <;> simp [modCourse_hbm]

@[simp] theorem grainLive_hbm (s : State) (pgn : Nat) (up : Bool) :
    (grainLive s pgn up).hbm = s.hbm := by
  simp only [grainLive]
  (repeat' split) <;> simp [modCourse_hbm, retireIfDead_hbm]

@[simp] theorem changeEntry_hbm (s : State) (v : Nat) (lba : Nat) (e : Word) (u : Nat) :
    (changeEntry s v lba e u).hbm = s.hbm := by
  simp only [changeEntry]
  (repeat' split) <;> simp [putMap_hbm, pendLeaf_hbm, grainLive_hbm]

@[simp] theorem applyHost_hbm (s : State) (v : Nat) (lba : Nat) (pgn : Nat) (u : Nat) :
    (applyHost s v lba pgn u).hbm = s.hbm := by
  simp only [applyHost]
  (repeat' split) <;> simp [changeEntry_hbm]

@[simp] theorem applyReloc_hbm (s : State) (v : Nat) (lba : Nat) (pgn : Nat) (old : Nat) (u : Nat) :
    (applyReloc s v lba pgn old u).hbm = s.hbm := by
  simp only [applyReloc]
  (repeat' split) <;> simp [changeEntry_hbm]

@[simp] theorem copiedBack_hbm (s : State) (m : Nat) (slot : Nat) (e : SpareEntry) :
    (copiedBack s m slot e).hbm = s.hbm := by
  simp only [copiedBack]
  (repeat' split) <;> simp [modCourse_hbm]

@[simp] theorem applySpare_hbm (s : State) (v : Nat) (slot : Nat) (x : Word) (u : Nat) :
    (applySpare s v slot x u).hbm = s.hbm := by
  simp only [applySpare]
  (repeat' split) <;> simp [pendLeaf_hbm, copiedBack_hbm]

@[simp] theorem applyMset_hbm (s : State) (v : Nat) (lba : Nat) (x : Word) (how : MsetHow) (u : Nat) :
    (applyMset s v lba x how u).hbm = s.hbm := by
  simp only [applyMset]
  (repeat' split) <;> simp [changeEntry_hbm, applySpare_hbm]

@[simp] theorem modTag_hbm (s : State) (q : Nat) (t : Nat) (f : Tag → Tag) :
    (modTag s q t f).hbm = s.hbm := by
  simp only [modTag]
  (repeat' split) <;> simp [modQueue_hbm]

@[simp] theorem sendResp_hbm (s : State) (q : Nat) (t : Nat) (nonce : Word) (r : Resp) (rt : ReplyTo) (dup : Bool) (job : Option Nat) :
    (sendResp s q t nonce r rt dup job).hbm = s.hbm := by
  simp only [sendResp]
  (repeat' split) <;> simp [send_hbm]

@[simp] theorem sendBusy_hbm (s : State) (sl : Nat) (d : Datagram) (st : Status) (retry : Nat) :
    (sendBusy s sl d st retry).hbm = s.hbm := by
  simp only [sendBusy]
  (repeat' split) <;> simp [send_hbm]

@[simp] theorem startFetch_hbm (s : State) (hq : Nat) (abort : Bool) :
    (startFetch s hq abort).hbm = s.hbm := by
  simp only [startFetch]
  (repeat' split) <;> simp []

@[simp] theorem parkNow_hbm (s : State) (sl : Nat) (p : Parked) :
    (parkNow s sl p).hbm = s.hbm := by
  simp only [parkNow]
  (repeat' split) <;> simp [bump_hbm, detect_hbm, startFetch_hbm]

@[simp] theorem parkDatagram_hbm (s : State) (sl : Nat) (p : Parked) :
    (parkDatagram s sl p).hbm = s.hbm := by
  simp only [parkDatagram]
  (repeat' split) <;> simp [parkNow_hbm]

@[simp] theorem sweepVictim_hbm (sl : Nat) (x0 : Nat) (x1 : State) (x2 : List Nat) :
    (sweepVictim sl x0 x1 x2).1.hbm = x1.hbm := by
  induction x0 generalizing x1 x2 with
  | zero => simp [sweepVictim]
  | succ k ih =>
    simp only [sweepVictim]
    grind []

@[simp] theorem makeResidentRoom_hbm (s : State) (sl : Nat) :
    (makeResidentRoom s sl).hbm = s.hbm := by
  simp only [makeResidentRoom]
  grind [bump_hbm, modQueue_hbm, sweepVictim_hbm]

@[simp] theorem addQueue_hbm (s : State) (hq : Nat) (host : BitVec 32) (key : Nat) (pin : Bool) (persist : Bool) :
    (addQueue s hq host key pin persist).hbm = s.hbm := by
  simp only [addQueue]
  (repeat' split) <;> simp [makeResidentRoom_hbm]

@[simp] theorem removeQueue_hbm (s : State) (hq : Nat) :
    (removeQueue s hq).hbm = s.hbm := by
  simp only [removeQueue]
  (repeat' split) <;> simp [sendBusy_hbm, foldl_hbm, foldlP_hbm, forSlates_hbm, foldl_memwf, foldlP_memwf, forSlates_memwf]

@[simp] theorem dropHazards_hbm (s : State) (p : Hazard → Bool) :
    (dropHazards s p).hbm = s.hbm := rfl

@[simp] theorem releaseTag_hbm (s : State) (q : Nat) (t : Nat) (nonce : Nat) :
    (releaseTag s q t nonce).hbm = s.hbm := by
  simp only [releaseTag]
  (repeat' split) <;> simp [dropHazards_hbm]

@[simp] theorem releaseJob_hbm (s : State) (id : Nat) :
    (releaseJob s id).hbm = s.hbm := by
  simp only [releaseJob]
  (repeat' split) <;> simp [dropHazards_hbm]

@[simp] theorem askCommit_hbm (s : State) (id : Nat) :
    (askCommit s id).1.hbm = s.hbm := by
  simp only [askCommit]
  (repeat' split) <;> simp [modTag_hbm]

@[simp] theorem dropBootstrap_hbm (s : State) :
    (dropBootstrap s).hbm = s.hbm := by
  simp only [dropBootstrap]
  (repeat' split) <;> simp [removeQueue_hbm]

@[simp] theorem recordResp_hbm (s : State) (q : Nat) (t : Nat) (nonce : Word) (r : Resp) (c : Cmd) (job : Option Nat) :
    (recordResp s q t nonce r c job).hbm = s.hbm := by
  simp only [recordResp]
  (repeat' split) <;> simp [countSrc_hbm, modTag_hbm, sendResp_hbm, dropBootstrap_hbm]

@[simp] theorem dropData_hbm (s : State) (id : Nat) :
    (dropData s id).hbm = s.hbm := by
  simp only [dropData]
  (repeat' split) <;> simp [discardFrame_hbm, foldl_hbm, foldlP_hbm, forSlates_hbm, foldl_memwf, foldlP_memwf, forSlates_memwf]

@[simp] theorem stopJob_memwf (s : State) (id : Nat) (hw : BytesOk s.hbm) :
    BytesOk (stopJob s id).hbm := by
  simp only [stopJob]
  (repeat' split) <;> simp [hw, settleSample_memwf, modJob_hbm, endJob_hbm, releaseJob_hbm, dropData_hbm]

@[simp] theorem freeBufs_hbm (s : State) (l : List Nat) :
    (freeBufs s l).hbm = s.hbm := rfl

@[simp] theorem abortTag_memwf (s : State) (q : Nat) (t : Nat) (tg : Tag) (hw : BytesOk s.hbm) :
    BytesOk (abortTag s q t tg).1.hbm := by
  simp only [abortTag]
  (repeat' split) <;> simp [hw, bump_hbm, modTag_hbm, releaseTag_hbm, stopJob_memwf, freeBufs_hbm]

@[simp] theorem resetTags_memwf (s : State) (hq : Nat) (rt : Option ReplyTo) (hw : BytesOk s.hbm) :
    BytesOk (resetTags s hq rt).1.hbm := by
  simp only [resetTags]
  grind [sendResp_hbm, abortTag_memwf, foldl_hbm, foldlP_hbm, forSlates_hbm, foldl_memwf, foldlP_memwf, forSlates_memwf]

@[simp] theorem resetQueue_memwf (s : State) (hq : Nat) (nonce : Word) (rt : Option ReplyTo) (hw : BytesOk s.hbm) :
    BytesOk (resetQueue s hq nonce rt).hbm := by
  simp only [resetQueue]
  (repeat' split) <;> simp [hw, bump_hbm, raise_hbm, modQueue_hbm, sendResp_hbm, resetTags_memwf]

@[simp] theorem outBuffer_hbm (s : State) (sl : Nat) (len : Nat) :
    (outBuffer s sl len).1.hbm = s.hbm := by
  simp only [outBuffer]
  (repeat' split) <;> simp [newBuffer_hbm]

@[simp] theorem dispatchJob_hbm (s : State) (hq : Nat) (tag : Nat) (nonce : Word) (c : Cmd) (v : Nat) (p : Program) :
    (dispatchJob s hq tag nonce c v p).1.hbm = s.hbm := by
  simp only [dispatchJob]
  (repeat' split) <;> simp [countSrc_hbm, newBuffer_hbm, toDispatch_hbm, addJob_hbm, modTag_hbm, outBuffer_hbm, foldl_hbm, foldlP_hbm, forSlates_hbm, foldl_memwf, foldlP_memwf, forSlates_memwf]

@[simp] theorem tryDispatch_hbm (s : State) (hq : Nat) (tag : Nat) :
    (tryDispatch s hq tag).hbm = s.hbm := by
  simp only [tryDispatch]
  (repeat' split) <;> simp [releaseTag_hbm, recordResp_hbm, freeBufs_hbm, dispatchJob_hbm]

@[simp] theorem takeArea_hbm (s : State) (o : Nat) (x : Nat) :
    (takeArea s o x).hbm = s.hbm := by
  simp only [takeArea]
  (repeat' split) <;> simp []

@[simp] theorem takeAreas_hbm (s : State) (o : Nat) (hs : List Nat) :
    (takeAreas s o hs).hbm = s.hbm := by
  simp only [takeAreas]
  (repeat' split) <;> simp [takeArea_hbm, foldl_hbm, foldlP_hbm, forSlates_hbm, foldl_memwf, foldlP_memwf, forSlates_memwf]

@[simp] theorem drawUcn_hbm (s : State) :
    (drawUcn s).1.hbm = s.hbm := rfl

@[simp] theorem noteUcn_hbm (s : State) (u : Nat) (x0 : RecBody) :
    (noteUcn s u x0).hbm = s.hbm := by
  simp only [noteUcn]
  (repeat' split) <;> simp [modCourse_hbm]

@[simp] theorem putRec_hbm (s : State) (o : Nat) (x : RecReq) :
    (putRec s o x).hbm = s.hbm := by
  simp only [putRec]
  (repeat' split) <;> simp [bump_hbm, putOwner_hbm, drawUcn_hbm, noteUcn_hbm]

@[simp] theorem addReq_hbm (s : State) (o : Nat) (x : RecReq) :
    (addReq s o x).hbm = s.hbm := by
  simp only [addReq]
  (repeat' split) <;> simp [bump_hbm, detect_hbm, putOwner_hbm, putRec_hbm]

@[simp] theorem addRec_hbm (s : State) (o : Nat) (b : RecBody) :
    (addRec s o b).hbm = s.hbm := by
  simp only [addRec]
  (repeat' split) <;> simp [addReq_hbm]

@[simp] theorem addGroup_hbm (s : State) (o : Nat) (k : Nat) (bs : List RecBody) (draws : Bool) :
    (addGroup s o k bs draws).1.hbm = s.hbm := by
  simp only [addGroup]
  (repeat' split) <;> simp [addReq_hbm, foldl_hbm, foldlP_hbm, forSlates_hbm, foldl_memwf, foldlP_memwf, forSlates_memwf]

@[simp] theorem addTableAt_hbm (s : State) (o : Nat) (t : TableItem) :
    (addTableAt s o t).1.hbm = s.hbm := by
  simp only [addTableAt]
  (repeat' split) <;> simp [addRec_hbm]

@[simp] theorem addTable_hbm (s : State) (t : TableItem) :
    (addTable s t).1.hbm = s.hbm := by
  simp only [addTable]
  (repeat' split) <;> simp [addTableAt_hbm]

@[simp] theorem addTableGroup_hbm (s : State) (ts : List TableItem) :
    (addTableGroup s ts).1.hbm = s.hbm := by
  simp only [addTableGroup]
  (repeat' split) <;> simp [addGroup_hbm]

@[simp] theorem addPlainGroup_hbm (s : State) (ts : List TableItem) :
    (addPlainGroup s ts).1.hbm = s.hbm := by
  simp only [addPlainGroup]
  (repeat' split) <;> simp [addGroup_hbm]

@[simp] theorem addMset_hbm (s : State) (o : Nat) (v : Nat) (lba : Nat) (x : Word) (how : MsetHow) :
    (addMset s o v lba x how).1.hbm = s.hbm := by
  simp only [addMset]
  (repeat' split) <;> simp [addReq_hbm]

@[simp] theorem retrim_hbm (s : State) (o : Nat) :
    (retrim s o).hbm = s.hbm := by
  simp only [retrim]
  (repeat' split) <;> simp [putOwner_hbm]

@[simp] theorem trimRecs_hbm (s : State) (o : Nat) (p : Rec → Bool) :
    (trimRecs s o p).hbm = s.hbm := by
  simp only [trimRecs]
  (repeat' split) <;> simp [putOwner_hbm, retrim_hbm]

@[simp] theorem cutEntries_hbm (s : State) (v : Nat) (size : Nat) :
    (cutEntries s v size).hbm = s.hbm := by
  simp only [cutEntries]
  (repeat' split) <;> simp [grainLive_hbm, foldl_hbm, foldlP_hbm, forSlates_hbm, foldl_memwf, foldlP_memwf, forSlates_memwf]

@[simp] theorem raiseRoot_hbm (s : State) (v : Nat) (old : Nat) (new : Nat) (u : Nat) :
    (raiseRoot s v old new u).hbm = s.hbm := by
  simp only [raiseRoot]
  (repeat' split) <;> simp [pendNode_hbm, foldl_hbm, foldlP_hbm, forSlates_hbm, foldl_memwf, foldlP_memwf, forSlates_memwf]

@[simp] theorem applyVolume_hbm (s : State) (v : Nat) (size : Option Nat) (u : Nat) :
    (applyVolume s v size u).hbm = s.hbm := by
  simp only [applyVolume]
  (repeat' split) <;> simp [cutEntries_hbm, raiseRoot_hbm]

@[simp] theorem applyHolders_hbm (s : State) (o : Nat) (hs : List Nat) :
    (applyHolders s o hs).hbm = s.hbm := by
  simp only [applyHolders]
  (repeat' split) <;> simp [putOwner_hbm]

@[simp] theorem setKey_hbm (s : State) (i : Nat) (k : Option KeyEntry) :
    (setKey s i k).hbm = s.hbm := by
  simp only [setKey]
  (repeat' split) <;> simp [dropBootstrap_hbm]

@[simp] theorem applyKey_hbm (s : State) (i : Nat) (k : Option KeyEntry) :
    (applyKey s i k).hbm = s.hbm := by
  simp only [applyKey]
  (repeat' split) <;> simp [setKey_hbm]

@[simp] theorem applyAuth_hbm (s : State) (op : Nat) (keyNo : Nat) (pub : Block) :
    (applyAuth s op keyNo pub).hbm = s.hbm := by
  simp only [applyAuth]
  (repeat' split) <;> simp [raise_hbm]

@[simp] theorem applyQueue_hbm (s : State) (hq : Nat) (host : BitVec 32) (key : Nat) (pin : Bool) (present : Bool) :
    (applyQueue s hq host key pin present).hbm = s.hbm := by
  simp only [applyQueue]
  (repeat' split) <;> simp [addQueue_hbm]

@[simp] theorem applyManifest_hbm (s : State) (slot : Nat) (p : Option Nat) :
    (applyManifest s slot p).hbm = s.hbm := by
  rfl

@[simp] theorem applyProgress_hbm (s : State) (a : AdminOp) :
    (applyProgress s a).hbm = s.hbm := by
  rfl

@[simp] theorem applyTable_hbm (s : State) (t : TableItem) (u : Nat) :
    (applyTable s t u).hbm = s.hbm := by
  simp only [applyTable]
  (repeat' split) <;> simp [putMember_hbm, applyVolume_hbm, applyHolders_hbm, applyKey_hbm, applyAuth_hbm, applyQueue_hbm, applyManifest_hbm, applyProgress_hbm, foldl_hbm, foldlP_hbm, forSlates_hbm, foldl_memwf, foldlP_memwf, forSlates_memwf]

@[simp] theorem writeTable_hbm (s : State) (seq : Nat) (t : TableItem) (u : Nat) :
    (writeTable s seq t u).hbm = s.hbm := by
  simp only [writeTable]
  (repeat' split) <;> simp [applyTable_hbm]

@[simp] theorem applyGroup_hbm (s : State) (first : Nat) (count : Nat) (u : Nat) :
    (applyGroup s first count u).hbm = s.hbm := by
  simp only [applyGroup]
  (repeat' split) <;> simp [trimRecs_hbm, writeTable_hbm, foldl_hbm, foldlP_hbm, forSlates_hbm, foldl_memwf, foldlP_memwf, forSlates_memwf]

@[simp] theorem applyTables_hbm (s : State) (o : Nat) :
    (applyTables s o).hbm = s.hbm := by
  simp only [applyTables]
  grind [trimRecs_hbm, writeTable_hbm, applyGroup_hbm, foldl_hbm, foldlP_hbm, forSlates_hbm, foldl_memwf, foldlP_memwf, forSlates_memwf]

@[simp] theorem drainUcn_hbm (x0 : Nat) (x1 : State) :
    (drainUcn x0 x1).hbm = x1.hbm := by
  induction x0 generalizing x1 with
  | zero => simp [drainUcn]
  | succ k ih =>
    simp only [drainUcn]
    grind [applyMset_hbm, applyGroup_hbm]

@[simp] theorem confirmRec_hbm (s : State) (o : Nat) (r : Rec) :
    (confirmRec s o r).hbm = s.hbm := by
  simp only [confirmRec]
  (repeat' split) <;> simp [trimRecs_hbm, writeTable_hbm, applyGroup_hbm, drainUcn_hbm]

@[simp] theorem installHolders_hbm (s : State) (o : Nat) (hs : List Nat) :
    (installHolders s o hs).hbm = s.hbm := by
  simp only [installHolders]
  (repeat' split) <;> simp [bump_hbm, detect_hbm, putOwner_hbm, takeAreas_hbm, addTable_hbm]

@[simp] theorem refreshHolders_hbm (s : State) (o : Nat) :
    (refreshHolders s o).hbm = s.hbm := by
  simp only [refreshHolders]
  (repeat' split) <;> simp [installHolders_hbm]

@[simp] theorem holderLost_hbm (s : State) (o : Nat) (p : Nat) :
    (holderLost s o p).hbm = s.hbm := by
  simp only [holderLost]
  (repeat' split) <;> simp [detect_hbm]

@[simp] theorem partnerLeaves_hbm (s : State) :
    (partnerLeaves s).hbm = s.hbm := by
  simp only [partnerLeaves]
  (repeat' split) <;> simp [holderLost_hbm, foldl_hbm, foldlP_hbm, forSlates_hbm, foldl_memwf, foldlP_memwf, forSlates_memwf]

@[simp] theorem issueCmd_hbm (s : State) (m : Nat) (opcode : Nat) (lba : Nat) (use : DrvUse) (admin : Bool) (sqe : Block) (fua : Bool) :
    (issueCmd s m opcode lba use admin sqe fua).hbm = s.hbm := by
  simp only [issueCmd]
  (repeat' split) <;> simp [countSrc_hbm, putMember_hbm]

@[simp] theorem refillQueues_hbm (s : State) (m : Nat) :
    (refillQueues s m).hbm = s.hbm := by
  simp only [refillQueues]
  grind [putMember_hbm,foldl_hbm, foldlP_hbm, forSlates_hbm, foldl_memwf, foldlP_memwf, forSlates_memwf]

@[simp] theorem dropCmds_hbm (s : State) (m : Nat) (p : DrvCmd → Bool) :
    (dropCmds s m p).hbm = s.hbm := by
  simp only [dropCmds]
  (repeat' split) <;> simp [putMember_hbm, refillQueues_hbm]

@[simp] theorem endCmd_hbm (s : State) (m : Nat) (cmd : Nat) :
    (endCmd s m cmd).hbm = s.hbm := by
  simp only [endCmd]
  (repeat' split) <;> simp [putMember_hbm, refillQueues_hbm]

@[simp] theorem zoneSend_hbm (s : State) (m : Nat) (zone : Nat) (act : Nat) :
    (zoneSend s m zone act).hbm = s.hbm := by
  simp only [zoneSend]
  (repeat' split) <;> simp [issueCmd_hbm]

@[simp] theorem powerMembers_hbm (s : State) (deep : Bool) :
    (powerMembers s deep).hbm = s.hbm := by
  simp only [powerMembers]
  (repeat' split) <;> simp [issueCmd_hbm, foldl_hbm, foldlP_hbm, forSlates_hbm, foldl_memwf, foldlP_memwf, forSlates_memwf]

@[simp] theorem modTicket_hbm (s : State) (job : Nat) (t : Nat) (f : Ticket → Ticket) :
    (modTicket s job t f).hbm = s.hbm := by
  simp only [modTicket]
  (repeat' split) <;> simp [modJob_hbm]

@[simp] theorem finishCrd_hbm (s : State) (r : GrainRead) (job : Nat) (t : Nat) :
    (finishCrd s r job t).hbm = s.hbm := by
  simp only [finishCrd]
  grind [bufWrite_hbm, modTicket_hbm,foldl_hbm, foldlP_hbm, forSlates_hbm, foldl_memwf, foldlP_memwf, forSlates_memwf]

@[simp] theorem modRead_hbm (s : State) (id : Nat) (f : GrainRead → GrainRead) :
    (modRead s id f).hbm = s.hbm := by
  rfl

@[simp] theorem issueReads_hbm (s : State) (id : Nat) :
    (issueReads s id).hbm = s.hbm := by
  simp only [issueReads]
  grind [issueCmd_hbm, modRead_hbm,foldl_hbm, foldlP_hbm, forSlates_hbm, foldl_memwf, foldlP_memwf, forSlates_memwf]

@[simp] theorem failWaits_hbm (s : State) (v : Nat) (leaf : Nat) (st : Status) :
    (failWaits s v leaf st).hbm = s.hbm := by
  rfl

@[simp] theorem finishNode_hbm (s : State) (r : GrainRead) (v : Nat) (j : Nat) (i : Nat) :
    (finishNode s r v j i).hbm = s.hbm := by
  simp only [finishNode]
  (repeat' split) <;> simp [modNode_hbm, failWaits_hbm]

@[simp] theorem advanceRead_hbm (s : State) (id : Nat) :
    (advanceRead s id).hbm = s.hbm := by
  simp only [advanceRead]
  (repeat' split) <;> simp [finishCrd_hbm, issueReads_hbm, finishNode_hbm]

@[simp] theorem startRead_hbm (s : State) (sl : Nat) (k : Nat) (want : List Nat) (use : ReadUse) :
    (startRead s sl k want use).hbm = s.hbm := by
  simp only [startRead]
  (repeat' split) <;> simp [advanceRead_hbm]

@[simp] theorem readReturn_hbm (s : State) (id : Nat) (pos : Nat) (col : Nat) (count : Nat) (bad : List Nat) (sector : Bool) :
    (readReturn s id pos col count bad sector).hbm = s.hbm := by
  simp only [readReturn]
  (repeat' split) <;> simp [modCourse_hbm, modRead_hbm, advanceRead_hbm]

@[simp] theorem needLeaf_hbm (s : State) (v : Nat) (lba : Nat) :
    (needLeaf s v lba).hbm = s.hbm := by
  simp only [needLeaf]
  (repeat' split) <;> simp [noteCached_hbm, startRead_hbm]

@[simp] theorem putLead_hbm (s : State) (i : Nat) (x : Lead) :
    (putLead s i x).hbm = s.hbm := rfl

@[simp] theorem updateSpace_hbm (s : State) :
    (updateSpace s).hbm = s.hbm := by
  simp only [updateSpace]
  (repeat' split) <;> simp [detect_hbm, foldl_hbm, foldlP_hbm, forSlates_hbm, foldl_memwf, foldlP_memwf, forSlates_memwf]

@[simp] theorem eraseSlots_hbm (s : State) (p : Nat → Nat → Bool) :
    (eraseSlots s p).hbm = s.hbm := by
  rfl

@[simp] theorem resetRun_hbm (s : State) (l : Layout) (r : Nat) :
    (resetRun s l r).hbm = s.hbm := by
  simp only [resetRun]
  (repeat' split) <;> simp [zoneSend_hbm, eraseSlots_hbm, foldl_hbm, foldlP_hbm, forSlates_hbm, foldl_memwf, foldlP_memwf, forSlates_memwf]

@[simp] theorem closeRun_hbm (s : State) (l : Layout) (run : Nat) :
    (closeRun s l run).hbm = s.hbm := by
  simp only [closeRun]
  (repeat' split) <;> simp [raise_hbm, zoneSend_hbm, foldl_hbm, foldlP_hbm, forSlates_hbm, foldl_memwf, foldlP_memwf, forSlates_memwf]

@[simp] theorem closeRuns_hbm (s : State) (l : Layout) (ks : List Nat) :
    (closeRuns s l ks).hbm = s.hbm := by
  simp only [closeRuns]
  (repeat' split) <;> simp [closeRun_hbm, foldl_hbm, foldlP_hbm, forSlates_hbm, foldl_memwf, foldlP_memwf, forSlates_memwf]

@[simp] theorem resetRuns_hbm (s : State) (l : Layout) :
    (resetRuns s l).hbm = s.hbm := by
  simp only [resetRuns]
  (repeat' split) <;> simp [resetRun_hbm, foldl_hbm, foldlP_hbm, forSlates_hbm, foldl_memwf, foldlP_memwf, forSlates_memwf]

@[simp] theorem placeCourse_hbm (s : State) (l : Layout) (c : Course) (u) (h : placeCourse s l c = some u) :
    u.1.hbm = s.hbm := by
  unfold placeCourse at h
  obtain ⟨k, -, rfl⟩ := Option.map_eq_some_iff.1 h
  exact (updateSpace_hbm _).trans (resetRuns_hbm _ _)

@[simp] theorem ensureCourse_hbm (s : State) (l : Layout) (i : Nat) (u) (h : ensureCourse s l i = some u) :
    u.1.hbm = s.hbm := by
  unfold ensureCourse at h
  dsimp only at h
  split at h
  · simp only [Option.some.injEq] at h
    subst h
    rfl
  · split at h
    · cases h
    · obtain ⟨x, hx, rfl⟩ := Option.map_eq_some_iff.1 h
      exact (putLead_hbm _ _ _).trans (placeCourse_hbm _ _ _ _ hx)

@[simp] theorem takeSpare_hbm (s : State) (l : Layout) (m : Nat) (slot : Nat) :
    (takeSpare s l m slot).hbm = s.hbm := by
  simp only [takeSpare]
  (repeat' split) <;> simp []

@[simp] theorem resetSpareZones_hbm (s : State) (l : Layout) (m : Nat) :
    (resetSpareZones s l m).hbm = s.hbm := by
  simp only [resetSpareZones]
  (repeat' split) <;> simp [zoneSend_hbm, foldl_hbm, foldlP_hbm, forSlates_hbm, foldl_memwf, foldlP_memwf, forSlates_memwf]

@[simp] theorem chooseSpare_hbm (s : State) (l : Layout) (k : Nat) :
    (chooseSpare s l k).1.hbm = s.hbm := by
  simp only [chooseSpare]
  (repeat' split) <;> simp [granted_hbm, resetSpareZones_hbm, foldl_hbm, foldlP_hbm, forSlates_hbm, foldl_memwf, foldlP_memwf, forSlates_memwf]

@[simp] theorem allocSpare_hbm (s : State) (l : Layout) (sl : Nat) (k : Nat) (pos : Nat) :
    (allocSpare s l sl k pos).1.hbm = s.hbm := by
  simp only [allocSpare]
  grind [addMset_hbm, takeSpare_hbm, chooseSpare_hbm]

@[simp] theorem placeAll_hbm (s : State) (l : Layout) (sl : Nat) (k : Nat) :
    (placeAll s l sl k).1.hbm = s.hbm := by
  simp only [placeAll]
  grind [allocSpare_hbm, foldl_hbm, foldlP_hbm, forSlates_hbm, foldl_memwf, foldlP_memwf, forSlates_memwf]

@[simp] theorem writeStrip_hbm (s : State) (m : Nat) (slot : Nat) (cols : List Block) :
    (writeStrip s m slot cols).hbm = s.hbm := by
  unfold writeStrip
  rw [foldl_hbm]
  intro t a; rfl

@[simp] theorem advanceSeal_hbm (s : State) (k : Nat) :
    (advanceSeal s k).hbm = s.hbm := by
  simp only [advanceSeal]
  (repeat' split) <;> simp [detect_hbm, modCourse_hbm, addRec_hbm, placeAll_hbm]

@[simp] theorem sealCourse_hbm (s : State) (k : Nat) :
    (sealCourse s k).hbm = s.hbm := by
  simp only [sealCourse]
  (repeat' split) <;> simp [bump_hbm, modCourse_hbm, advanceSeal_hbm]

@[simp] theorem addGrain_hbm (s : State) (k : Nat) (g : Grain) :
    (addGrain s k g).hbm = s.hbm := by
  simp only [addGrain]
  (repeat' split) <;> simp [bump_hbm, modCourse_hbm, needLeaf_hbm]

@[simp] theorem feedLead_hbm (x0 : Nat) (x1 : State) (x2 : Layout) (x3 : Nat) :
    (feedLead x0 x1 x2 x3).hbm = x1.hbm := by
  induction x0 generalizing x1 x2 x3 with
  | zero => simp only [feedLead]
  | succ k ih =>
    simp only [feedLead]
    split
    · rfl
    · split
      · rfl
      · rename_i t j ht
        have hk := ensureCourse_hbm _ _ _ _ ht
        simp only at hk
        (repeat' split) <;> simp [ih, hk, foldl_hbm]

@[simp] theorem appendTo_hbm (s : State) (i : Nat) (sl : Nat) (grains : List Grain) (atomic : Bool) :
    (appendTo s i sl grains atomic).hbm = s.hbm := by
  simp only [appendTo]
  (repeat' split) <;> simp [putLead_hbm, feedLead_hbm]

@[simp] theorem passLead_hbm (s : State) (i : Nat) :
    (passLead s i).hbm = s.hbm := by
  simp only [passLead]
  (repeat' split) <;> simp [putLead_hbm, feedLead_hbm]

@[simp] theorem sweepCourse_hbm (s : State) (k : Nat) :
    (sweepCourse s k).hbm = s.hbm := by
  simp only [sweepCourse]
  (repeat' split) <;> simp [modCourse_hbm, askCommit_hbm, foldl_hbm, foldlP_hbm, forSlates_hbm, foldl_memwf, foldlP_memwf, forSlates_memwf]

/-- Memory is as it was. -/
def SameMem (s t : State) : Prop := t.hbm = s.hbm

theorem foldl_same {α : Type} (f : State → α → State) (l : List α) (s : State) (h : ∀ s a, SameMem s (f s a)) :
    SameMem s (l.foldl f s) := foldl_hbm f l s h

theorem stripIssued_same (t : State) (k sl : Nat) (a : Nat × Strip) (f : Course → Course) :
    SameMem t (countSrc (issueCmd (modCourse t k f) a.2.member (if a.2.zeroes then 8 else 1)
      (slotLba (modCourse t k f) a.2.member a.2.slot) (.strip k a.1) false [] true) sl srcStrips 1) :=
  (countSrc_hbm _ _ _ _).trans ((issueCmd_hbm _ _ _ _ _ _ _ _).trans (modCourse_hbm _ _ _))

@[simp] theorem issueStrips_hbm (s : State) (k : Nat) : (issueStrips s k).hbm = s.hbm := by
  unfold issueStrips
  split
  · split
    · rfl
    · exact foldl_same _ _ _ fun t a => stripIssued_same t k _ a _
  · rfl

@[simp] theorem countPour_hbm (s : State) (c : Course) :
    (countPour s c).hbm = s.hbm := by
  simp only [countPour]
  (repeat' split) <;> simp []

@[simp] theorem pourCourse_hbm (s : State) (k : Nat) :
    (pourCourse s k).hbm = s.hbm := by
  simp only [pourCourse]
  (repeat' split) <;> simp [bump_hbm, modCourse_hbm, trimRecs_hbm, advanceSeal_hbm, appendTo_hbm, sweepCourse_hbm, issueStrips_hbm, countPour_hbm, foldl_hbm, foldlP_hbm, forSlates_hbm, foldl_memwf, foldlP_memwf, forSlates_memwf]

@[simp] theorem commitCourse_hbm (s : State) (k : Nat) :
    (commitCourse s k).hbm = s.hbm := by
  simp only [commitCourse]
  (repeat' split) <;> simp [modCourse_hbm, addGroup_hbm]

@[simp] theorem advancePour_hbm (s : State) (k : Nat) :
    (advancePour s k).hbm = s.hbm := by
  simp only [advancePour]
  (repeat' split) <;> simp [commitCourse_hbm]

@[simp] theorem validSpare_hbm (s : State) (l : Layout) (sl : Nat) (k : Nat) (pos : Nat) :
    (validSpare s l sl k pos).1.hbm = s.hbm := by
  simp only [validSpare]
  (repeat' split) <;> simp [addMset_hbm]

@[simp] theorem stripDone_hbm (s : State) (k : Nat) (pos : Nat) :
    (stripDone s k pos).hbm = s.hbm := by
  simp only [stripDone]
  (repeat' split) <;> simp [modCourse_hbm, dropCmds_hbm, writeStrip_hbm, issueStrips_hbm, advancePour_hbm, validSpare_hbm, foldl_hbm, foldlP_hbm, forSlates_hbm, foldl_memwf, foldlP_memwf, forSlates_memwf]

@[simp] theorem repourWaiting_hbm (s : State) : (repourWaiting s).hbm = s.hbm := by
  unfold repourWaiting
  split
  · rfl
  · refine foldl_same _ _ _ fun t c => ?_
    split
    · rfl
    · next h => exact (advanceSeal_hbm _ _).trans (placeCourse_hbm _ _ _ _ h)

@[simp] theorem repour_hbm (s : State) (k : Nat) : (repour s k).hbm = s.hbm := by
  unfold repour
  split
  · next c l _ _ =>
    split
    · rfl
    · extract_lets s1 s2 s3 s4 c'
      have h1 : SameMem s s1 := foldl_same _ _ _ fun t a => dropCmds_hbm _ _ _
      have h2 : SameMem s s2 := (modCourse_hbm _ _ _).trans h1
      have h3 : SameMem s s3 := by
        show SameMem s (match c.recSeq with | some q => trimRecs s2 c.slate fun r => r.seq == q | none => s2)
        split
        · exact (trimRecs_hbm _ _ _).trans h2
        · exact h2
      have h4 : SameMem s s4 := (detect_hbm _ _ _ _).trans ((bump_hbm _ _ _ _).trans h3)
      clear_value s1 s2 s3 s4
      split
      · exact h4
      · next h => exact (advanceSeal_hbm _ _).trans ((placeCourse_hbm _ _ _ _ h).trans h4)
  · rfl

@[simp] theorem goneCmd_hbm (s : State) (c : DrvCmd) :
    (goneCmd s c).hbm = s.hbm := by
  simp only [goneCmd]
  (repeat' split) <;> simp [takeFree_hbm, modTicket_hbm, readReturn_hbm, repour_hbm]

@[simp] theorem loseStrips_hbm (s : State) (l : Layout) (m : Nat) :
    (loseStrips s l m).hbm = s.hbm := by
  rfl

@[simp] theorem memberLost_hbm (s : State) (m : Nat) :
    (memberLost s m).hbm = s.hbm := by
  simp only [memberLost]
  (repeat' split) <;> simp [repour_hbm, loseStrips_hbm, foldl_hbm, foldlP_hbm, forSlates_hbm, foldl_memwf, foldlP_memwf, forSlates_memwf]

@[simp] theorem writeFailure_hbm (s : State) (m : Nat) (tb : Nat) :
    (writeFailure s m tb).hbm = s.hbm := by
  simp only [writeFailure]
  (repeat' split) <;> simp [putMember_hbm, addTableGroup_hbm]

@[simp] theorem recordFailure_hbm (s : State) (m : Nat) :
    (recordFailure s m).hbm = s.hbm := by
  simp only [recordFailure]
  (repeat' split) <;> simp [putMember_hbm, writeFailure_hbm]

@[simp] theorem declareGone_hbm (s : State) (m : Nat) (state : Nat) (status : Nat) (opcode : Nat) (lba : Nat) :
    (declareGone s m state status opcode lba).hbm = s.hbm := by
  simp only [declareGone]
  (repeat' split) <;> simp [detect_hbm, putMember_hbm, goneCmd_hbm, memberLost_hbm, recordFailure_hbm, foldl_hbm, foldlP_hbm, forSlates_hbm, foldl_memwf, foldlP_memwf, forSlates_memwf]

@[simp] theorem noteSource_hbm (s : State) (d : Datagram) :
    (noteSource s d).hbm = s.hbm := by
  simp only [noteSource]
  (repeat' split) <;> simp []

@[simp] theorem beginTag_hbm (s : State) (hq : Nat) (t : Nat) (nonce : Word) (st : TagState) (c : Cmd) :
    (beginTag s hq t nonce st c).hbm = s.hbm := by
  simp only [beginTag]
  (repeat' split) <;> simp [modTag_hbm]

@[simp] theorem addHazard_hbm (s : State) (hq : Nat) (t : Nat) (nonce : Word) (c : Cmd) :
    (addHazard s hq t nonce c).hbm = s.hbm := by
  simp only [addHazard]
  (repeat' split) <;> simp [bump_hbm, detect_hbm, foldl_hbm, foldlP_hbm, forSlates_hbm, foldl_memwf, foldlP_memwf, forSlates_memwf]

@[simp] theorem holdCommand_hbm (s : State) (hq : Nat) (t : Nat) (nonce : Word) (c : Cmd) :
    (holdCommand s hq t nonce c).hbm = s.hbm := by
  simp only [holdCommand]
  (repeat' split) <;> simp [countSrc_hbm, newBuffer_hbm, powerMembers_hbm, beginTag_hbm, addHazard_hbm]

@[simp] theorem admitCommand_hbm (s : State) (p : Parked) (supplied : Bool) :
    (admitCommand s p supplied).hbm = s.hbm := by
  unfold admitCommand
  dsimp only
  split
  · rfl
  · have hk : (bump s (hqSlate p.hq) F.XPORT.DUP_DISCARD).hbm = s.hbm := by simp
    refine ite_hbm (by simp) (ite_hbm hk (ite_hbm hk (ite_hbm hk (ite_hbm ?_ (ite_hbm (by simp)
      (ite_hbm (by simp) (ite_hbm (by simp) (ite_hbm (by simp) (ite_hbm ?_ (by simp))))))))))
    · split <;> simp
    · split <;> simp

@[simp] theorem fillBuffer_hbm (s : State) (b : Nat) (off : Nat) (d : Block) :
    (fillBuffer s b off d).hbm = s.hbm := by
  simp only [fillBuffer]
  (repeat' split) <;> simp [foldl_hbm, foldlP_hbm, forSlates_hbm, foldl_memwf, foldlP_memwf, forSlates_memwf]

@[simp] theorem acceptData_hbm (s : State) (hq : Nat) (d : Datagram) :
    (acceptData s hq d).hbm = s.hbm := by
  simp only [acceptData]
  (repeat' split) <;> simp [bump_hbm, fillBuffer_hbm]

@[simp] theorem abortOne_memwf (s : State) (hq : Nat) (d : Datagram) (hw : BytesOk s.hbm) :
    BytesOk (abortOne s hq d).hbm := by
  simp only [abortOne]
  (repeat' split) <;> simp [hw, bump_hbm, modTag_hbm, sendResp_hbm, abortTag_memwf]

@[simp] theorem repeatReset_hbm (s : State) (hq : Nat) (q : Queue) (rt : ReplyTo) :
    (repeatReset s hq q rt).hbm = s.hbm := by
  simp only [repeatReset]
  grind [sendResp_hbm, foldl_hbm, foldlP_hbm, forSlates_hbm, foldl_memwf, foldlP_memwf, forSlates_memwf]

@[simp] theorem abortQueue_memwf (s : State) (hq : Nat) (d : Datagram) (hw : BytesOk s.hbm) :
    BytesOk (abortQueue s hq d).hbm := by
  simp only [abortQueue]
  (repeat' split) <;> simp [hw, bump_hbm, resetQueue_memwf, repeatReset_hbm]

@[simp] theorem processDg_memwf (s : State) (p : Parked) (hw : BytesOk s.hbm) :
    BytesOk (processDg s p).hbm := by
  unfold processDg
  extract_lets s1 s2
  have h1 : BytesOk s1.hbm := by simp only [s1]; split <;> exact hw
  have h2 : BytesOk s2.hbm := h1
  clear_value s2
  split <;> simp [h2]

@[simp] theorem processAll_memwf (s : State) (sl : Nat) (l : List Parked) (hw : BytesOk s.hbm) :
    BytesOk (processAll s sl l).hbm := by
  simp only [processAll]
  grind [parkDatagram_hbm, processDg_memwf,foldl_hbm, foldlP_hbm, forSlates_hbm, foldl_memwf, foldlP_memwf, forSlates_memwf]

@[simp] theorem refillPark_memwf (x0 : Nat) (x1 : State) (x2 : Nat) (hw : BytesOk x1.hbm) :
    BytesOk (refillPark x0 x1 x2).hbm := by
  induction x0 generalizing x1 x2 with
  | zero => simpa [refillPark] using hw
  | succ k ih =>
    simp only [refillPark]
    grind [processAll_memwf,foldl_hbm, foldlP_hbm, forSlates_hbm, foldl_memwf, foldlP_memwf, forSlates_memwf]

@[simp] theorem refill_memwf (s : State) (sl : Nat) (hw : BytesOk s.hbm) :
    BytesOk (refill s sl).hbm := by
  simp only [refill]
  (repeat' split) <;> simp [hw, refillPark_memwf]

@[simp] theorem handOver_memwf (s : State) (kind : DgKind) (d : Datagram) (k : KeyEntry) (hw : BytesOk s.hbm) :
    BytesOk (handOver s kind d k).hbm := by
  simp only [handOver]
  (repeat' split) <;> simp [hw, modQueue_hbm, sendBusy_hbm, parkDatagram_hbm, noteSource_hbm, processDg_memwf]

@[simp] theorem rotDropWindow_hbm (s : State) (w : Nat) :
    (rotDropWindow s w).hbm = s.hbm := by
  simp only [rotDropWindow]
  (repeat' split) <;> simp [putRot_hbm]

@[simp] theorem rotTrim_hbm (s : State) (sl : Nat) :
    (rotTrim s sl).hbm = s.hbm := by
  simp only [rotTrim]
  (repeat' split) <;> simp [putRot_hbm]

@[simp] theorem rmaRespond_hbm (s : State) (home : Nat) (d : Datagram) (st : Status) (result : Block) (dup : Bool) :
    (rmaRespond s home d st result dup).hbm = s.hbm := by
  simp only [rmaRespond]
  (repeat' split) <;> simp [send_hbm]

@[simp] theorem rmaEnd_hbm (s : State) (home : Nat) (d : Datagram) (ent : Option Nat) (st : Status) (result : Block) :
    (rmaEnd s home d ent st result).hbm = s.hbm := by
  simp only [rmaEnd]
  (repeat' split) <;> simp [putRot_hbm, rmaRespond_hbm]

@[simp] theorem rmaFail_hbm (s : State) (home : Nat) (d : Datagram) (ent : Option Nat) (st : Status) :
    (rmaFail s home d ent st).hbm = s.hbm := by
  simp only [rmaFail]
  (repeat' split) <;> simp [rmaEnd_hbm]

@[simp] theorem rmaPoison_hbm (s : State) (home : Nat) (d : Datagram) (a : Nat) :
    (rmaPoison s home d a).hbm = s.hbm := by
  simp only [rmaPoison]
  (repeat' split) <;> simp [detect_hbm, consumePoison_hbm]

@[simp] theorem homeRead_hbm (s : State) (a : Nat) (len : Nat) :
    (homeRead s a len).hbm = s.hbm := by
  simp only [homeRead]
  (repeat' split) <;> simp [homeAccess_hbm, foldl_hbm, foldlP_hbm, forSlates_hbm, foldl_memwf, foldlP_memwf, forSlates_memwf]

@[simp] theorem copyEnd_hbm (s : State) (sl : Nat) (id : Nat) (c : Copy) (st : Status) :
    (copyEnd s sl id c st).hbm = s.hbm := by
  simp only [copyEnd]
  (repeat' split) <;> simp [bump_hbm, detect_hbm, rmaEnd_hbm]

@[simp] theorem chunkSend_hbm (s : State) (sl : Nat) (c : Copy) (k : Chunk) :
    (chunkSend s sl c k).hbm = s.hbm := by
  simp only [chunkSend]
  (repeat' split) <;> simp [admitInternal_hbm]

@[simp] theorem localChunk_memwf (s : State) (sl : Nat) (c : Copy) (k : Chunk) (hw : BytesOk s.hbm) :
    BytesOk (localChunk s sl c k).1.hbm := by
  simp only [localChunk]
  (repeat' split) <;> simp [hw, detect_hbm, consumePoison_hbm, homeWrite_memwf]

@[simp] theorem copyIssue_memwf (x0 : Nat) (x1 : State) (x2 : Nat) (x3 : Nat) (hw : BytesOk x1.hbm) :
    BytesOk (copyIssue x0 x1 x2 x3).hbm := by
  induction x0 generalizing x1 x2 x3 with
  | zero => simpa only [copyIssue] using hw
  | succ k ih =>
    unfold copyIssue
    cases copyOf x1 x2 x3 with
    | none => exact hw
    | some c =>
      refine ite_memwf (ite_memwf (by simp [hw]) hw) ?_
      extract_lets own q
      refine ite_memwf hw ?_
      clear_value own q
      cases windowOf x1 c.window with
      | none => simp [hw]
      | some w =>
        simp only
        refine ite_memwf (by simp [hw]) ?_
        refine ite_memwf ?_ (ih _ _ _ (by simp [hw]))
        generalize hl : localChunk _ _ _ _ = p
        have hp : BytesOk p.1.hbm := by rw [← hl]; exact localChunk_memwf _ _ _ _ (by simp [hw])
        obtain ⟨u, st⟩ := p
        simp only at hp ⊢
        exact ite_memwf (ih _ _ _ (by simp [hp])) (by simp [hp])

@[simp] theorem copiesIssue_memwf (s : State) (sl : Nat) (hw : BytesOk s.hbm) :
    BytesOk (copiesIssue s sl).hbm := by
  exact foldl_memwf _ _ _ hw fun s a h => copyIssue_memwf _ _ _ _ h

@[simp] theorem copyStart_memwf (s : State) (home : Nat) (d : Datagram) (ent : Nat) (hw : BytesOk s.hbm) :
    BytesOk (copyStart s home d ent).hbm := by
  unfold copyStart
  extract_lets b c
  clear_value c
  split
  · exact hw
  · exact copyIssue_memwf _ _ _ _ hw

@[simp] theorem stopCopies_hbm (s : State) (w : Nat) :
    (stopCopies s w).hbm = s.hbm := by
  simp only [stopCopies]
  grind [copyEnd_hbm, foldl_hbm, foldlP_hbm, forSlates_hbm, foldl_memwf, foldlP_memwf, forSlates_memwf]

@[simp] theorem reuseWindow_hbm (s : State) (w : Nat) :
    (reuseWindow s w).hbm = s.hbm := by
  simp only [reuseWindow]
  (repeat' split) <;> simp [raise_hbm, rotDropWindow_hbm, stopCopies_hbm]

@[simp] theorem winOp_hbm (s : State) (sl : Nat) (i : Nat) (op : Nat) :
    (winOp s sl i op).hbm = s.hbm := by
  simp only [winOp]
  (repeat' split) <;> simp [rotDropWindow_hbm, stopCopies_hbm, reuseWindow_hbm]

@[simp] theorem rmaWriteAt_memwf (s : State) (home : Nat) (d : Datagram) (ent : Option Nat) (a : Nat) (hw : BytesOk s.hbm) :
    BytesOk (rmaWriteAt s home d ent a).hbm := by
  simp only [rmaWriteAt]
  (repeat' split) <;> simp [hw, homeWrite_memwf, rmaEnd_hbm, rmaFail_hbm, rmaPoison_hbm]

@[simp] theorem rmaAtomic_memwf (s : State) (home : Nat) (d : Datagram) (ent : Option Nat) (a : Nat) (n : Nat) (cas : Bool) (f : Nat → Option Nat) (hw : BytesOk s.hbm) :
    BytesOk (rmaAtomic s home d ent a n cas f).hbm := by
  unfold rmaAtomic
  extract_lets u
  have hu : BytesOk u.hbm := by simp [u, hw]
  clear_value u
  split
  · simp [hu]
  · cases f (leNat (hbmRead u a n)) <;> simp [hu]

@[simp] theorem rmaRun_memwf (s : State) (home : Nat) (d : Datagram) (ent : Option Nat) (w : Window) (hw : BytesOk s.hbm) :
    BytesOk (rmaRun s home d ent w).hbm := by
  simp only [rmaRun]
  (repeat' split) <;> simp [hw, bump_hbm, rmaEnd_hbm, rmaFail_hbm, rmaPoison_hbm, homeRead_hbm, copyStart_memwf, rmaWriteAt_memwf, rmaAtomic_memwf]

@[simp] theorem rmaAdmitted_memwf (s : State) (home : Nat) (d : Datagram) (w : Window) (hw : BytesOk s.hbm) :
    BytesOk (rmaAdmitted s home d w).hbm := by
  simp only [rmaAdmitted]
  (repeat' split) <;> simp [hw, bump_hbm, detect_hbm, sendBusy_hbm, putRot_hbm, rotTrim_hbm, rmaRespond_hbm, rmaFail_hbm, rmaRun_memwf]

@[simp] theorem rmaHome_memwf (s : State) (d : Datagram) (hw : BytesOk s.hbm) :
    BytesOk (rmaHome s d).hbm := by
  simp only [rmaHome]
  (repeat' split) <;> simp [hw, bump_hbm, sendBusy_hbm, rmaAdmitted_memwf]

theorem ingressGranted_memwf (s : State) (d : Datagram) (c : Check) (k : KeyEntry) (pass : State → State)
    (hw : BytesOk s.hbm) (h : ∀ s, BytesOk s.hbm → BytesOk (pass s).hbm) :
    BytesOk (ingressGranted s d c k pass).hbm := by
  have hb (st : Status) : BytesOk (sendBusy s d.port d st 0).hbm := (sendBusy_hbm s d.port d st 0).symm ▸ hw
  exact ite_memwf (hb _) (ite_memwf (hb _) (ite_memwf (hb _) (ite_memwf (hb _) (ite_memwf (ite_memwf (hb _) hw) (h _ hw)))))

theorem ingress_memwf (s : State) (d : Datagram) (c : Check) (pass : State → Datagram → KeyEntry → State)
    (hw : BytesOk s.hbm) (h : ∀ s d k, BytesOk s.hbm → BytesOk (pass s d k).hbm) :
    BytesOk (ingress s d c pass).hbm := by
  refine ite_memwf hw (ite_memwf ((bump_hbm _ _ _ _).symm ▸ hw) (ite_memwf hw (ite_memwf ((bump_hbm _ _ _ _).symm ▸ hw) ?_)))
  cases keyOf s d.port (keyIndex d.keyId) with
  | none => exact hw
  | some k =>
    exact ite_memwf ((bump_hbm _ _ _ _).symm ▸ hw) (ite_memwf (by rw [detect_hbm, bump_hbm]; exact hw)
      (ite_memwf (by rw [detect_hbm, bump_hbm]; exact hw) (ingressGranted_memwf _ _ _ _ _ hw fun s hs => h s _ k hs)))

@[simp] theorem rmaRequest_memwf (d : Datagram) (s : State) (hw : BytesOk s.hbm) : BytesOk (rmaRequest d s).hbm := by
  unfold rmaRequest
  exact ingress_memwf _ _ _ _ hw fun s d _ h => rmaHome_memwf s d h

@[simp] theorem advanceAll_hbm (s : State) (o : Nat) :
    (advanceAll s o).hbm = s.hbm := by
  simp only [advanceAll]
  (repeat' split) <;> simp [advanceSeal_hbm, advancePour_hbm, foldl_hbm, foldlP_hbm, forSlates_hbm, foldl_memwf, foldlP_memwf, forSlates_memwf]

@[simp] theorem packRecs_hbm (s : State) (o : Nat) (l : List Rec) :
    (packRecs s o l).hbm = s.hbm := by
  simp only [packRecs]
  (repeat' split) <;> simp [putOwner_hbm, appendTo_hbm]

@[simp] theorem packLog_hbm (s : State) (o : Nat) :
    (packLog s o).hbm = s.hbm := by
  simp only [packLog]
  (repeat' split) <;> simp [packRecs_hbm]

@[simp] theorem afterConfirm_hbm (s : State) (o : Nat) :
    (afterConfirm s o).hbm = s.hbm := by
  simp only [afterConfirm]
  (repeat' split) <;> simp [advanceAll_hbm, packLog_hbm]

@[simp] theorem logDurable_hbm (s : State) (k : Nat) (o : Nat) (seqs : List Nat) :
    (logDurable s k o seqs).hbm = s.hbm := by
  simp only [logDurable]
  (repeat' split) <;> simp [modCourse_hbm, addTable_hbm, trimRecs_hbm, foldl_hbm, foldlP_hbm, forSlates_hbm, foldl_memwf, foldlP_memwf, forSlates_memwf]

@[simp] theorem pruneDir_hbm (s : State) :
    (pruneDir s).hbm = s.hbm := by
  simp only [pruneDir]
  (repeat' split) <;> simp [modCourse_hbm, retireIfDead_hbm, addTable_hbm, foldl_hbm, foldlP_hbm, forSlates_hbm, foldl_memwf, foldlP_memwf, forSlates_memwf]

@[simp] theorem pointTo_hbm (s : State) (v : Nat) (j : Nat) (i : Nat) (u : Nat) :
    (pointTo s v j i u).hbm = s.hbm := by
  simp only [pointTo]
  (repeat' split) <;> simp [pendNode_hbm, addTableGroup_hbm]

@[simp] theorem nodeDurable_hbm (s : State) (v : Nat) (j : Nat) (i : Nat) (pgn : Nat) (mark : Nat) (u : Nat) :
    (nodeDurable s v j i pgn mark u).hbm = s.hbm := by
  simp only [nodeDurable]
  (repeat' split) <;> simp [modNode_hbm, grainLive_hbm, pruneDir_hbm, pointTo_hbm]

@[simp] theorem grainDurable_hbm (s : State) (l : Layout) (k : Nat) (i : Nat) (u : Nat) (g : Grain) :
    (grainDurable s l k i u g).hbm = s.hbm := by
  simp only [grainDurable]
  (repeat' split) <;> simp [bump_hbm, modCourse_hbm, applyHost_hbm, applyReloc_hbm, logDurable_hbm, nodeDurable_hbm]

@[simp] theorem queueCourse_hbm (s : State) (l : Layout) (k : Nat) :
    (queueCourse s l k).hbm = s.hbm := by
  simp only [queueCourse]
  (repeat' split) <;> simp []

@[simp] theorem makeDurable_hbm (s : State) (k : Nat) :
    (makeDurable s k).hbm = s.hbm := by
  simp only [makeDurable]
  (repeat' split) <;> simp [modCourse_hbm, retireIfDead_hbm, trimRecs_hbm, drainUcn_hbm, pruneDir_hbm, grainDurable_hbm, queueCourse_hbm, foldl_hbm, foldlP_hbm, forSlates_hbm, foldl_memwf, foldlP_memwf, forSlates_memwf]

@[simp] theorem fillHolders_hbm (s : State) :
    (fillHolders s).hbm = s.hbm := by
  simp only [fillHolders]
  (repeat' split) <;> simp [refreshHolders_hbm, foldl_hbm, foldlP_hbm, forSlates_hbm, foldl_memwf, foldlP_memwf, forSlates_memwf]

@[simp] theorem writeFailed_hbm (s : State) (m : Nat) (status : Nat) (opcode : Nat) (lba : Nat) :
    (writeFailed s m status opcode lba).hbm = s.hbm := by
  simp only [writeFailed]
  (repeat' split) <;> simp [bump_hbm, declareGone_hbm]

@[simp] theorem stripFail_hbm (s : State) (k : Nat) (pos : Nat) (status : Nat) :
    (stripFail s k pos status).hbm = s.hbm := by
  simp only [stripFail]
  (repeat' split) <;> simp [repour_hbm, writeFailed_hbm]

@[simp] theorem dropSummaries_hbm (s : State) (k : Nat) :
    (dropSummaries s k).hbm = s.hbm := by
  simp only [dropSummaries]
  (repeat' split) <;> simp [modCourse_hbm, retireIfDead_hbm, foldl_hbm, foldlP_hbm, forSlates_hbm, foldl_memwf, foldlP_memwf, forSlates_memwf]

@[simp] theorem freeSpares_hbm (s : State) (l : Layout) (sl : Nat) (k : Nat) :
    (freeSpares s l sl k).hbm = s.hbm := by
  simp only [freeSpares]
  grind [addMset_hbm, foldl_hbm, foldlP_hbm, forSlates_hbm, foldl_memwf, foldlP_memwf, forSlates_memwf]

@[simp] theorem releaseCourse_hbm (s : State) (k : Nat) :
    (releaseCourse s k).hbm = s.hbm := by
  simp only [releaseCourse]
  grind [modCourse_hbm, addRec_hbm, issueCmd_hbm, updateSpace_hbm, eraseSlots_hbm, resetRuns_hbm, repourWaiting_hbm, dropSummaries_hbm, freeSpares_hbm, foldl_hbm, foldlP_hbm, forSlates_hbm, foldl_memwf, foldlP_memwf, forSlates_memwf]

@[simp] theorem writeWaiting_hbm (x0 : Nat) (x1 : State) (x2 : Nat) :
    (writeWaiting x0 x1 x2).hbm = x1.hbm := by
  induction x0 generalizing x1 x2 with
  | zero => simp [writeWaiting]
  | succ k ih =>
    simp only [writeWaiting]
    grind [putOwner_hbm, putRec_hbm]

@[simp] theorem writeBack_hbm (s : State) (v : Nat) (j : Nat) (i : Nat) :
    (writeBack s v j i).hbm = s.hbm := by
  simp only [writeBack]
  (repeat' split) <;> simp [modNode_hbm, appendTo_hbm, foldl_hbm, foldlP_hbm, forSlates_hbm, foldl_memwf, foldlP_memwf, forSlates_memwf]

@[simp] theorem keepStat_hbm (old : State) (s : State) (sl : Nat) :
    (keepStat old s sl).hbm = s.hbm := by
  simp only [keepStat]
  grind [setF_hbm, foldl_hbm, foldlP_hbm, forSlates_hbm, foldl_memwf, foldlP_memwf, forSlates_memwf]

@[simp] theorem applyWays_hbm (s : State) (sl : Nat) :
    (applyWays s sl).hbm = s.hbm := by
  simp only [applyWays]
  grind [setF_hbm, foldl_hbm, foldlP_hbm, forSlates_hbm, foldl_memwf, foldlP_memwf, forSlates_memwf]

@[simp] theorem afterReset_memwf (s : State) (power : Bool) (hw : BytesOk s.hbm) :
    BytesOk (afterReset s power).hbm := by
  have e : (afterReset s power).hbm = [] := rfl
  rw [e]
  exact rfl

@[simp] theorem hkBoot_hbm (s : State) :
    (hkBoot s).hbm = s.hbm := by
  simp only [hkBoot]
  grind [hkStart_hbm, foldl_hbm, foldlP_hbm, forSlates_hbm, foldl_memwf, foldlP_memwf, forSlates_memwf]

@[simp] theorem applyAddress_hbm (s : State) :
    (applyAddress s).hbm = s.hbm := by
  simp only [applyAddress]
  (repeat' split) <;> simp [modChain_hbm]

@[simp] theorem firstHolders_hbm (s : State) (o : Nat) :
    (firstHolders s o).hbm = s.hbm := by
  simp only [firstHolders]
  (repeat' split) <;> simp [detect_hbm, putOwner_hbm, takeAreas_hbm]

@[simp] theorem makeBootstrap_hbm (s : State) :
    (makeBootstrap s).hbm = s.hbm := by
  simp only [makeBootstrap]
  (repeat' split) <;> simp [addQueue_hbm, foldl_hbm, foldlP_hbm, forSlates_hbm, foldl_memwf, foldlP_memwf, forSlates_memwf]

@[simp] theorem restoreTables_hbm (s : State) :
    (restoreTables s).hbm = s.hbm := by
  simp only [restoreTables]
  (repeat' split) <;> simp [applyTables_hbm, foldl_hbm, foldlP_hbm, forSlates_hbm, foldl_memwf, foldlP_memwf, forSlates_memwf]

@[simp] theorem recoverStep2_hbm (s : State) :
    (recoverStep2 s).hbm = s.hbm := by
  simp only [recoverStep2]
  grind [applyWays_hbm, hkBoot_hbm, applyAddress_hbm, firstHolders_hbm, makeBootstrap_hbm, foldl_hbm, foldlP_hbm, forSlates_hbm, foldl_memwf, foldlP_memwf, forSlates_memwf]

@[simp] theorem unitRestart_memwf (s : State) (hw : BytesOk s.hbm) :
    BytesOk (unitRestart s).hbm := by
  simp only [unitRestart]
  grind [keepStat_hbm, afterReset_memwf, restoreTables_hbm, recoverStep2_hbm, foldl_hbm, foldlP_hbm, forSlates_hbm, foldl_memwf, foldlP_memwf, forSlates_memwf]

@[simp] theorem readyFrom_hbm (s : State) (sl : Nat) :
    (readyFrom s sl).hbm = s.hbm := by
  unfold readyFrom
  split
  · rfl
  · extract_lets base0 base mc s1 s2 s3
    have h1 : s1.hbm = s.hbm := by simp only [s1]; split <;> simp
    clear_value s1
    have h2 : s2.hbm = s.hbm := by simp only [s2]; split <;> simp [h1]
    clear_value s2
    have h3 : s3.hbm = s.hbm := by simp [s3, h2, foldl_hbm]
    clear_value s3
    rw [foldl_hbm]
    · exact h3
    intro t a; (repeat' split) <;> simp

@[simp] theorem readyAll_hbm (s : State) :
    (readyAll s).hbm = s.hbm := by
  simp only [readyAll]
  grind [readyFrom_hbm, foldl_hbm, foldlP_hbm, forSlates_hbm, foldl_memwf, foldlP_memwf, forSlates_memwf]

@[simp] theorem startReady_hbm (s : State) :
    (startReady s).hbm = s.hbm := by
  simp only [startReady]
  (repeat' split) <;> simp [readyAll_hbm]

@[simp] theorem tryReady_hbm (s : State) :
    (tryReady s).hbm = s.hbm := by
  simp only [tryReady]
  (repeat' split) <;> simp [startReady_hbm]

@[simp] theorem sendPause_hbm (s : State) (sl : Nat) :
    (sendPause s sl).hbm = s.hbm := by
  rfl

@[simp] theorem flushNet_hbm (s : State) (sl : Nat) (sub : Nat) (cnt : Fld) (p : Frame → Bool) :
    (flushNet s sl sub cnt p).hbm = s.hbm := by
  simp only [flushNet]
  grind [bump_hbm, settleCopy_hbm, dropCopy_hbm, unqueue_hbm, foldl_hbm, foldlP_hbm, forSlates_hbm, foldl_memwf, foldlP_memwf, forSlates_memwf]

@[simp] theorem subDown_hbm (s : State) (sl : Nat) (sub : Nat) :
    (subDown s sl sub).hbm = s.hbm := by
  simp only [subDown]
  (repeat' split) <;> simp [setF_hbm, openShadow_hbm, detect_hbm, flushNet_hbm]

@[simp] theorem portDown_hbm (s : State) (sl : Nat) :
    (portDown s sl).hbm = s.hbm := by
  simp only [portDown]
  (repeat' split) <;> simp [subDown_hbm, foldl_hbm, foldlP_hbm, forSlates_hbm, foldl_memwf, foldlP_memwf, forSlates_memwf]

@[simp] theorem holdOver_hbm (s : State) (sl : Nat) :
    (holdOver s sl).hbm = s.hbm := by
  simp only [holdOver]
  (repeat' split) <;> simp [setF_hbm]

@[simp] theorem sendUp_hbm (s : State) (f : ChainFrame) :
    (sendUp s f).hbm = s.hbm := by
  simp only [sendUp]
  (repeat' split) <;> simp [modChain_hbm]

@[simp] theorem sendDn_hbm (s : State) (f : ChainFrame) :
    (sendDn s f).hbm = s.hbm := by
  simp only [sendDn]
  (repeat' split) <;> simp [modChain_hbm]

@[simp] theorem chainChange_hbm (s : State) :
    (chainChange s).hbm = s.hbm := by
  simp only [chainChange]
  (repeat' split) <;> simp [modChain_hbm, sendUp_hbm]

@[simp] theorem changeAddress_hbm (s : State) :
    (changeAddress s).hbm = s.hbm := by
  simp only [changeAddress]
  (repeat' split) <;> simp [raise_hbm, applyAddress_hbm, startReady_hbm]

@[simp] theorem registerOn_hbm (s : State) (ms : List Nat) (k : Option ResvKey) :
    (registerOn s ms k).hbm = s.hbm := by
  unfold registerOn
  rw [foldl_hbm]
  intro t a; rfl

@[simp] theorem witnessAuto_hbm (s : State) :
    (witnessAuto s).hbm = s.hbm := by
  simp only [witnessAuto]
  (repeat' split) <;> simp [modLease_hbm]

@[simp] theorem lapse_memwf (s : State) (hw : BytesOk s.hbm) :
    BytesOk (lapse s).hbm := by
  unfold lapse
  extract_lets u
  have hu : BytesOk u.hbm := by simp only [u, bump_hbm]; exact hw
  clear_value u
  exact unitRestart_memwf _ ((modLease_hbm u _).symm ▸ hu)

@[simp] theorem unregister_hbm (s : State) :
    (unregister s).hbm = s.hbm := by
  simp only [unregister]
  (repeat' split) <;> simp [bump_hbm, raise_hbm, modLease_hbm, registerOn_hbm]

@[simp] theorem finishRelease_memwf (s : State) (hw : BytesOk s.hbm) :
    BytesOk (finishRelease s).hbm := by
  simp only [finishRelease]
  (repeat' split) <;> simp [hw, unitRestart_memwf, unregister_hbm]

@[simp] theorem startRelease_hbm (s : State) :
    (startRelease s).hbm = s.hbm := by
  simp only [startRelease]
  (repeat' split) <;> simp [modLease_hbm]

@[simp] theorem excludePartner_hbm (s : State) :
    (excludePartner s).hbm = s.hbm := by
  simp only [excludePartner]
  (repeat' split) <;> simp [installHolders_hbm, modLease_hbm, foldl_hbm, foldlP_hbm, forSlates_hbm, foldl_memwf, foldlP_memwf, forSlates_memwf]

@[simp] theorem roundWon_hbm (s : State) (r : Round) (won : List Nat) :
    (roundWon s r won).hbm = s.hbm := by
  simp only [roundWon]
  (repeat' split) <;> simp [setF_hbm, bump_hbm, addTable_hbm, modLease_hbm, registerOn_hbm, excludePartner_hbm]

@[simp] theorem noteViews_hbm (s : State) (views : List WitnessView) :
    (noteViews s views).hbm = s.hbm := by
  unfold noteViews
  extract_lets w
  rw [foldl_hbm]
  intro t a; rfl

@[simp] theorem checkExcluded_hbm (s : State) :
    (checkExcluded s).hbm = s.hbm := by
  simp only [checkExcluded]
  (repeat' split) <;> simp [raise_hbm, modLease_hbm]

@[simp] theorem acquire_hbm (s : State) (answers : List (Nat × WitnessAnswer)) :
    (acquire s answers).hbm = s.hbm := by
  simp only [acquire]
  (repeat' split) <;> simp [bump_hbm, raise_hbm, tryReady_hbm, modLease_hbm, registerOn_hbm]

@[simp] theorem standBy_hbm (s : State) (k : ResvKey) :
    (standBy s k).hbm = s.hbm := by
  simp only [standBy]
  (repeat' split) <;> simp [modLease_hbm, registerOn_hbm]

@[simp] theorem pollWitnesses_hbm (s : State) (views : List WitnessView) (answers : List (Nat × WitnessAnswer)) :
    (pollWitnesses s views answers).hbm = s.hbm := by
  simp only [pollWitnesses]
  (repeat' split) <;> simp [noteViews_hbm, checkExcluded_hbm, acquire_hbm, standBy_hbm]

@[simp] theorem takeAddress_hbm (s : State) (chain : Nat) (pos : Option Nat) :
    (takeAddress s chain pos).hbm = s.hbm := by
  simp only [takeAddress]
  (repeat' split) <;> simp [addTable_hbm, changeAddress_hbm]

@[simp] theorem noteEnum_hbm (s : State) (e : BitVec 16) :
    (noteEnum s e).hbm = s.hbm := by
  simp only [noteEnum]
  (repeat' split) <;> simp [modChain_hbm]

@[simp] theorem censusClaim_hbm (s : State) (c : CensusBody) :
    (censusClaim s c).1.hbm = s.hbm := by
  simp only [censusClaim]
  (repeat' split) <;> simp [detect_hbm, modChain_hbm]

@[simp] theorem assignSelf_hbm (s : State) (a : AssignBody) :
    (assignSelf s a).1.hbm = s.hbm := by
  simp only [assignSelf]
  (repeat' split) <;> simp [detect_hbm, takeAddress_hbm]

@[simp] theorem assignDone_hbm (s : State) (a : AssignBody) :
    (assignDone s a).hbm = s.hbm := by
  simp only [assignDone]
  (repeat' split) <;> simp [setF_hbm, raise_hbm, sendDn_hbm]

@[simp] theorem headTally_hbm (s : State) (t : TallyBody) :
    (headTally s t).hbm = s.hbm := by
  simp only [headTally]
  (repeat' split) <;> simp [setF_hbm, assignSelf_hbm, assignDone_hbm]

@[simp] theorem censusOn_hbm (s : State) (c : CensusBody) :
    (censusOn s c).hbm = s.hbm := by
  simp only [censusOn]
  (repeat' split) <;> simp [bump_hbm, sendUp_hbm, sendDn_hbm, headTally_hbm]

@[simp] theorem startEnum_hbm (s : State) :
    (startEnum s).hbm = s.hbm := by
  simp only [startEnum]
  (repeat' split) <;> simp [detect_hbm, modChain_hbm, noteEnum_hbm, censusClaim_hbm, censusOn_hbm]

@[simp] theorem chainAssignOp_hbm (s : State) :
    (chainAssignOp s).hbm = s.hbm := by
  simp only [chainAssignOp]
  (repeat' split) <;> simp [modChain_hbm, startEnum_hbm]

@[simp] theorem repathFrame_hbm (s : State) (id : Nat) :
    (repathFrame s id).hbm = s.hbm := by
  simp only [repathFrame]
  (repeat' split) <;> simp [bump_hbm, queueFrame_hbm, unqueue_hbm, discardFrame_hbm, foldl_hbm, foldlP_hbm, forSlates_hbm, foldl_memwf, foldlP_memwf, forSlates_memwf]

@[simp] theorem repathMcast_hbm (s : State) (id : Nat) :
    (repathMcast s id).hbm = s.hbm := by
  simp only [repathMcast]
  grind [joinQueue_hbm, mcastAlone_hbm, dropCopy_hbm, unqueue_hbm,foldl_hbm, foldlP_hbm, forSlates_hbm, foldl_memwf, foldlP_memwf, forSlates_memwf]

@[simp] theorem repathAll_hbm (s : State) :
    (repathAll s).hbm = s.hbm := by
  simp only [repathAll]
  grind [repathFrame_hbm, repathMcast_hbm, foldl_hbm, foldlP_hbm, forSlates_hbm, foldl_memwf, foldlP_memwf, forSlates_memwf]

@[simp] theorem linkDead_hbm (s : State) (sl : Nat) (l : Nat) :
    (linkDead s sl l).hbm = s.hbm := rfl

@[simp] theorem linkDown_hbm (s : State) (sl : Nat) (l : Nat) :
    (linkDown s sl l).hbm = s.hbm := by
  simp only [linkDown]
  (repeat' split) <;> simp [bump_hbm, detect_hbm, linkDead_hbm]

@[simp] theorem latchC4_hbm (s : State) (sl : Nat) (e : Nat) (inj : Bool) :
    (latchC4 s sl e inj).hbm = s.hbm := by
  simp only [latchC4]
  (repeat' split) <;> simp [setF_hbm, raise_hbm]

@[simp] theorem unitStop_hbm (s : State) (sl : Nat) (e : Nat) (inj : Bool) :
    (unitStop s sl e inj).hbm = s.hbm := by
  unfold unitStop
  split
  · rfl
  · extract_lets t u
    have hu : u.hbm = s.hbm := by
      simp only [u]
      split
      · rw [unregister_hbm]; simp only [t, latchC4_hbm]
      · simp only [t, latchC4_hbm]
    clear_value u
    exact hu

@[simp] theorem dropSlate_memwf (s : State) (x : Nat) (hw : BytesOk s.hbm) :
    BytesOk (dropSlate s x).hbm := by
  unfold dropSlate
  extract_lets mine s1 gone s2
  have h1 : s1.hbm = s.hbm := by
    simp only [s1]
    rw [foldl_hbm]
    intro t a; split <;> simp
  clear_value s1
  have h2 : s2.hbm = s.hbm := by
    simp only [s2]
    rw [foldl_hbm]
    · exact h1
    intro t a; split <;> simp
  clear_value s2
  exact tabWf_filter 0 _ (h2 ▸ hw)

@[simp] theorem lostOwner_hbm (s : State) (x : Nat) :
    (lostOwner s x).hbm = s.hbm := by
  simp only [lostOwner]
  (repeat' split) <;> simp [putOwner_hbm, trimRecs_hbm, confirmRec_hbm, foldl_hbm, foldlP_hbm, forSlates_hbm, foldl_memwf, foldlP_memwf, forSlates_memwf]

@[simp] theorem reappend_hbm (s : State) (y : Nat) (c : Course) :
    (reappend s y c).hbm = s.hbm := by
  simp only [reappend]
  grind [appendTo_hbm,foldl_hbm, foldlP_hbm, forSlates_hbm, foldl_memwf, foldlP_memwf, forSlates_memwf]

@[simp] theorem resolveLost_hbm (s : State) (x : Nat) (y : Nat) (k : Nat) :
    (resolveLost s x y k).hbm = s.hbm := by
  simp only [resolveLost]
  (repeat' split) <;> simp [modCourse_hbm, trimRecs_hbm, dropCmds_hbm, reappend_hbm, foldl_hbm, foldlP_hbm, forSlates_hbm, foldl_memwf, foldlP_memwf, forSlates_memwf]

@[simp] theorem resolveTundish_hbm (s : State) (x : Nat) (y : Nat) :
    (resolveTundish s x y).hbm = s.hbm := by
  simp only [resolveTundish]
  (repeat' split) <;> simp [closeRuns_hbm, reappend_hbm, resolveLost_hbm, foldl_hbm, foldlP_hbm, forSlates_hbm, foldl_memwf, foldlP_memwf, forSlates_memwf]

@[simp] theorem skipUcn_hbm (s : State) (x : Nat) (drawn : List Nat) :
    (skipUcn s x drawn).hbm = s.hbm := by
  simp only [skipUcn]
  grind [drainUcn_hbm, foldl_hbm, foldlP_hbm, forSlates_hbm, foldl_memwf, foldlP_memwf, forSlates_memwf]

@[simp] theorem packLost_hbm (x0 : Nat) (x1 : State) (x2 : Nat) :
    (packLost x0 x1 x2).hbm = x1.hbm := by
  induction x0 generalizing x1 x2 with
  | zero => simp [packLost]
  | succ k ih =>
    simp only [packLost]
    grind [packRecs_hbm]

@[simp] theorem takeNodes_hbm (s : State) (x : Nat) (y : Nat) :
    (takeNodes s x y).hbm = s.hbm := by
  simp only [takeNodes]
  (repeat' split) <;> simp [startRead_hbm, foldl_hbm, foldlP_hbm, forSlates_hbm, foldl_memwf, foldlP_memwf, forSlates_memwf]

@[simp] theorem loseSlate_memwf (s : State) (x : Nat) (y : Nat) (hw : BytesOk s.hbm) :
    BytesOk (loseSlate s x y).hbm := by
  simp only [loseSlate]
  grind [raise_hbm, detect_hbm, refreshHolders_hbm, holderLost_hbm, portDown_hbm, holdOver_hbm, repathAll_hbm, linkDown_hbm, dropSlate_memwf, lostOwner_hbm, resolveTundish_hbm, skipUcn_hbm, packLost_hbm, takeNodes_hbm, foldl_hbm, foldlP_hbm, forSlates_hbm, foldl_memwf, foldlP_memwf, forSlates_memwf]

@[simp] theorem loseSlates_memwf (x0 : Nat) (x1 : State) (x2 : Nat) (x3 : Nat) (hw : BytesOk x1.hbm) :
    BytesOk (loseSlates x0 x1 x2 x3).hbm := by
  induction x0 generalizing x1 x2 x3 with
  | zero => simpa [loseSlates] using hw
  | succ k ih =>
    simp only [loseSlates]
    grind [detect_hbm, unitStop_hbm, loseSlate_memwf,foldl_hbm, foldlP_hbm, forSlates_hbm, foldl_memwf, foldlP_memwf, forSlates_memwf]

@[simp] theorem slateLost_memwf (s : State) (x : Nat) (sl : Nat) (e : Nat) (inj : Bool) (hw : BytesOk s.hbm) :
    BytesOk (slateLost s x sl e inj).hbm := by
  simp only [slateLost]
  (repeat' split) <;> simp [hw, unitStop_hbm, loseSlates_memwf]

@[simp] theorem detectFull_memwf (s : State) (sl : Nat) (e : Nat) (arg : Nat) (detail : List Word) (hw : BytesOk s.hbm) :
    BytesOk (detectFull s sl e arg detail).hbm := by
  simp only [detectFull]
  (repeat' split) <;> simp [hw, detectAt_hbm, unitStop_hbm, slateLost_memwf]

@[simp] theorem checkReach_memwf (s : State) (sl : Nat) (hw : BytesOk s.hbm) :
    BytesOk (checkReach s sl).hbm := by
  simp only [checkReach]
  grind [detectFull_memwf, foldl_hbm, foldlP_hbm, forSlates_hbm, foldl_memwf, foldlP_memwf, forSlates_memwf]

@[simp] theorem zeroHeaps_memwf (s : State) (hw : BytesOk s.hbm) :
    BytesOk (zeroHeaps s).hbm := by
  exact tabWf_filter 0 _ hw

@[simp] theorem dropDataKey_memwf (s : State) (hw : BytesOk s.hbm) :
    BytesOk (dropDataKey s).hbm := by
  simp only [dropDataKey]
  (repeat' split) <;> simp [hw, zeroHeaps_memwf]

@[simp] theorem secureStart_hbm (s : State) (op : Nat) :
    (secureStart s op).hbm = s.hbm := rfl

@[simp] theorem secureEnd_hbm (s : State) (st : Status) (len : Nat) :
    (secureEnd s st len).hbm = s.hbm := by
  simp only [secureEnd]
  (repeat' split) <;> simp [raise_hbm]

@[simp] theorem secureOutput_memwf (s : State) (b : Block) (hw : BytesOk s.hbm) :
    BytesOk (secureOutput s b).hbm := by
  simp only [secureOutput]
  (repeat' split) <;> simp [hw, homeWrite_memwf, secureEnd_hbm]

@[simp] theorem sigReject_hbm (s : State) (op : Nat) (auth : Nat) :
    (sigReject s op auth).hbm = s.hbm := by
  simp only [sigReject]
  (repeat' split) <;> simp [detect_hbm]

@[simp] theorem secureEnrol_memwf (s : State) (x : SecureOp) (o : SecureOutcome) (hw : BytesOk s.hbm) :
    BytesOk (secureEnrol s x o).hbm := by
  simp only [secureEnrol]
  (repeat' split) <;> simp [hw, addPlainGroup_hbm, unitStop_hbm, dropDataKey_memwf, secureEnd_hbm, sigReject_hbm]

@[simp] theorem secureProvision_hbm (s : State) (b : Block) :
    (secureProvision s b).hbm = s.hbm := by
  simp only [secureProvision]
  grind [setF_hbm, secureEnd_hbm, foldl_hbm, foldlP_hbm, forSlates_hbm, foldl_memwf, foldlP_memwf, forSlates_memwf]

@[simp] theorem secureStage_hbm (s : State) (b : Block) (o : SecureOutcome) :
    (secureStage s b o).hbm = s.hbm := by
  simp only [secureStage]
  (repeat' split) <;> simp [detect_hbm, secureEnd_hbm, sigReject_hbm]

@[simp] theorem secureCommit_hbm (s : State) :
    (secureCommit s).hbm = s.hbm := by
  simp only [secureCommit]
  (repeat' split) <;> simp [secureEnd_hbm]

@[simp] theorem emptySlot_hbm (s : State) (slot : Nat) :
    (emptySlot s slot).hbm = s.hbm := by
  simp only [emptySlot]
  (repeat' split) <;> simp [detect_hbm, addPlainGroup_hbm]

@[simp] theorem putProgram_hbm (s : State) (slot : Nat) (p : Program) :
    (putProgram s slot p).hbm = s.hbm := by
  simp only [putProgram]
  (repeat' split) <;> simp [addPlainGroup_hbm]

@[simp] theorem loadLibrary_hbm (s : State) (skip : List Nat) :
    (loadLibrary s skip).hbm = s.hbm := by
  simp only [loadLibrary]
  grind [putProgram_hbm, foldl_hbm, foldlP_hbm, forSlates_hbm, foldl_memwf, foldlP_memwf, forSlates_memwf]

@[simp] theorem loadStore_hbm (s : State) (bad : List Nat) :
    (loadStore s bad).hbm = s.hbm := by
  simp only [loadStore]
  (repeat' split) <;> simp [emptySlot_hbm, loadLibrary_hbm, foldl_hbm, foldlP_hbm, forSlates_hbm, foldl_memwf, foldlP_memwf, forSlates_memwf]

@[simp] theorem bootUp_hbm (s : State) (b : BootIn) :
    (bootUp s b).hbm = s.hbm := by
  simp only [bootUp]
  grind [takeFree_hbm, raise_hbm, firstHolders_hbm, restoreTables_hbm, recoverStep2_hbm, loadStore_hbm, foldl_hbm, foldlP_hbm, forSlates_hbm, foldl_memwf, foldlP_memwf, forSlates_memwf]

@[simp] theorem powerOff_memwf (s : State) (hw : BytesOk s.hbm) :
    BytesOk (powerOff s).hbm := by
  simp only [powerOff]
  (repeat' split) <;> simp [hw, afterReset_memwf]

@[simp] theorem police_hbm (s : State) (sl : Nat) (c : Nat) (bytes : Nat) (t : Nat) :
    (police s sl c bytes t).1.hbm = s.hbm := by
  simp only [police]
  (repeat' split) <;> simp [bump_hbm, detect_hbm]

@[simp] theorem netArrival_hbm (s : State) (f : FrameIn) :
    (netArrival s f).hbm = s.hbm := by
  simp only [netArrival]
  (repeat' split) <;> simp [bump_hbm, enterFrame_hbm, detectAt_hbm, countSrc_hbm, police_hbm]

@[simp] theorem fabricArrival_hbm (s : State) (f : FrameIn) :
    (fabricArrival s f).hbm = s.hbm := by
  simp only [fabricArrival]
  (repeat' split) <;> simp [bump_hbm, bufferFrame_hbm, mcastArrive_hbm, detectAt_hbm, repathFrame_hbm]

@[simp] theorem startFrame_hbm (s : State) (sl : Nat) (p : Nat) (sub : Nat) (c : Nat) (t : Nat) (priv : Bool) (f : Frame) :
    (startFrame s sl p sub c t priv f).hbm = s.hbm := by
  simp only [startFrame]
  (repeat' split) <;> simp [putOut_hbm]

@[simp] theorem crossLink_hbm (s : State) (id : Nat) (l : Nat) (f : Frame) :
    (crossLink s id l f).hbm = s.hbm := by
  simp only [crossLink]
  (repeat' split) <;> simp [updatePause_hbm, updatePeak_hbm, queueFrame_hbm, unstall_hbm]

@[simp] theorem leaveBy_hbm (s : State) (sl : Nat) (p : Nat) (sub : Nat) (id : Nat) (f : Frame) :
    (leaveBy s sl p sub id f).hbm = s.hbm := by
  simp only [leaveBy]
  (repeat' split) <;> simp [settleCopy_hbm, mcastArrive_hbm, dropCopy_hbm, countSrc_hbm, crossLink_hbm]

@[simp] theorem accrueNet_hbm (s : State) (sl : Nat) (t : Nat) :
    (accrueNet s sl t).hbm = s.hbm := by
  simp only [accrueNet]
  grind [putOut_hbm, foldl_hbm, foldlP_hbm, forSlates_hbm, foldl_memwf, foldlP_memwf, forSlates_memwf]

@[simp] theorem peerPauseOver_hbm (s : State) (sl : Nat) (c : Nat) :
    (peerPauseOver s sl c).hbm = s.hbm := by
  simp only [peerPauseOver]
  (repeat' split) <;> simp [detectAt_hbm, flushNet_hbm, foldl_hbm, foldlP_hbm, forSlates_hbm, foldl_memwf, foldlP_memwf, forSlates_memwf]

@[simp] theorem linkFails_memwf (s : State) (sl : Nat) (l : Nat) (hw : BytesOk s.hbm) :
    BytesOk (linkFails s sl l).hbm := by
  simp only [linkFails]
  (repeat' split) <;> simp [hw, repathAll_hbm, linkDown_hbm, checkReach_memwf]

@[simp] theorem queueOp_memwf (s : State) (sl : Nat) (i : Nat) (op : Nat) (hw : BytesOk s.hbm) :
    BytesOk (queueOp s sl i op).1.hbm := by
  simp only [queueOp]
  (repeat' split) <;> simp [hw, addQueue_hbm, removeQueue_hbm, dropBootstrap_hbm, resetQueue_memwf, addTableAt_hbm, refill_memwf]

@[simp] theorem dropTag_memwf (s : State) (hq : Nat) (t : Nat) (tg : Tag) (hw : BytesOk s.hbm) :
    BytesOk (dropTag s hq t tg).hbm := by
  simp only [dropTag]
  (repeat' split) <;> simp [hw, releaseTag_hbm, stopJob_memwf, freeBufs_hbm]

@[simp] theorem loseContext_memwf (s : State) (hq : Nat) (hw : BytesOk s.hbm) :
    BytesOk (loseContext s hq).hbm := by
  simp only [loseContext]
  grind [removeQueue_hbm, addTableAt_hbm, refill_memwf, dropTag_memwf,foldl_hbm, foldlP_hbm, forSlates_hbm, foldl_memwf, foldlP_memwf, forSlates_memwf]

@[simp] theorem evictWay_hbm (s : State) (sl : Nat) (cache : Nat) (eng : Nat) (way : Nat) :
    (evictWay s sl cache eng way).hbm = s.hbm := by
  simp only [evictWay]
  (repeat' split) <;> simp [scFlushWay_hbm]

@[simp] theorem bypassCache_hbm (s : State) (sl : Nat) (cache : Nat) (eng : Nat) :
    (bypassCache s sl cache eng).hbm = s.hbm := by
  simp only [bypassCache]
  (repeat' split) <;> simp [setF_hbm, dcFlushEngine_hbm, scSweep_hbm]

@[simp] theorem disableWay_hbm (s : State) (sl : Nat) (cache : Nat) (eng : Nat) (way : Nat) :
    (disableWay s sl cache eng way).hbm = s.hbm := by
  simp only [disableWay]
  (repeat' split) <;> simp [setF_hbm, detect_hbm, addTable_hbm, evictWay_hbm, bypassCache_hbm]

@[simp] theorem wayError_hbm (s : State) (sl : Nat) (cache : Nat) (eng : Nat) (way : Nat) (tag : Bool) :
    (wayError s sl cache eng way tag).hbm = s.hbm := by
  simp only [wayError]
  (repeat' split) <;> simp [disableWay_hbm]

@[simp] theorem cellUncorr_hbm (s : State) (sl : Nat) (id : Nat) :
    (cellUncorr s sl id).hbm = s.hbm := by
  simp only [cellUncorr]
  (repeat' split) <;> simp [bump_hbm, mcastArrive_hbm, admitInternal_hbm, freeFrame_hbm, unqueue_hbm, discardFrame_hbm, foldl_hbm, foldlP_hbm, forSlates_hbm, foldl_memwf, foldlP_memwf, forSlates_memwf]

@[simp] theorem stateErr_memwf (s : State) (sl : Nat) (p : Nat) (sub : Nat) (hw : BytesOk s.hbm) :
    BytesOk (stateErr s sl p sub).hbm := by
  simp only [stateErr]
  (repeat' split) <;> simp [hw, putOut_hbm, foldl_hbm, foldlP_hbm, forSlates_hbm, foldl_memwf, foldlP_memwf, forSlates_memwf]

@[simp] theorem poisonWords_hbm (s : State) (sl : Nat) (a : Nat) (n : Nat) :
    (poisonWords s sl a n).hbm = s.hbm := by
  simp only [poisonWords]
  (repeat' split) <;> simp [bump_hbm]

@[simp] theorem react_memwf (s : State) (sl : Nat) (e : Nat) (d : List Word) (hw : BytesOk s.hbm) :
    BytesOk (react s sl e d).hbm := by
  unfold react
  extract_lets x extra
  split
  · split
    · split <;> simp [hw]
    · exact hw
  · (repeat' split) <;> simp [hw]

@[simp] theorem realHit_memwf (s : State) (sl : Nat) (e : Nat) (detail : List Word) (hw : BytesOk s.hbm) :
    BytesOk (realHit s sl e detail).hbm := by
  simp only [realHit]
  (repeat' split) <;> simp [hw, detectAt_hbm, detectFull_memwf, react_memwf]

@[simp] theorem injectDet_memwf (s : State) (sl : Nat) (sp : Nat) (k : Nat) (hw : BytesOk s.hbm) :
    BytesOk (injectDet s sl sp k).hbm := by
  simp only [injectDet]
  (repeat' split) <;> simp [hw, recordDet_hbm, unitStop_hbm, slateLost_memwf]

@[simp] theorem coincide_memwf (s : State) (sl : Nat) (sp : Nat) (k : Nat) (src : Nat) (detail : List Word) (hw : BytesOk s.hbm) :
    BytesOk (coincide s sl sp k src detail).hbm := by
  simp only [coincide]
  (repeat' split) <;> simp [hw, setF_hbm, realHit_memwf, injectDet_memwf]

@[simp] theorem reEvaluate_hbm (s : State) (sh : Shadow) :
    (reEvaluate s sh).hbm = s.hbm := by
  simp only [reEvaluate]
  grind [peerPauseOver_hbm, foldl_hbm, foldlP_hbm, forSlates_hbm, foldl_memwf, foldlP_memwf, forSlates_memwf]

@[simp] theorem queueRebuild_hbm (s : State) (l : Layout) :
    (queueRebuild s l).hbm = s.hbm := by
  simp only [queueRebuild]
  grind [queueCourse_hbm, foldl_hbm, foldlP_hbm, forSlates_hbm, foldl_memwf, foldlP_memwf, forSlates_memwf]

@[simp] theorem listLost_hbm (s : State) (r : LostRange) :
    (listLost s r).hbm = s.hbm := by
  simp only [listLost]
  (repeat' split) <;> simp [setF_hbm, detect_hbm]

@[simp] theorem markLost_hbm (s : State) (v : Nat) (lba : Nat) (pgn : Nat) :
    (markLost s v lba pgn).1.hbm = s.hbm := by
  simp only [markLost]
  (repeat' split) <;> simp [addMset_hbm]

@[simp] theorem loseLeaf_hbm (s : State) (v : Nat) (leaf : Nat) :
    (loseLeaf s v leaf).1.hbm = s.hbm := by
  simp only [loseLeaf]
  grind [noteCached_hbm, changeEntry_hbm, foldl_hbm, foldlP_hbm, forSlates_hbm, foldl_memwf, foldlP_memwf, forSlates_memwf]

@[simp] theorem writeBackAll_hbm (s : State) :
    (writeBackAll s).hbm = s.hbm := by
  simp only [writeBackAll]
  (repeat' split) <;> simp [writeBack_hbm, foldl_hbm, foldlP_hbm, forSlates_hbm, foldl_memwf, foldlP_memwf, forSlates_memwf]

@[simp] theorem moveSummary_hbm (s : State) (l : Layout) (k : Nat) (i : Nat) (o : Nat) (second : Nat) :
    (moveSummary s l k i o second).hbm = s.hbm := by
  simp only [moveSummary]
  (repeat' split) <;> simp [modCourse_hbm, retireIfDead_hbm, appendTo_hbm]

@[simp] theorem loseGrain_hbm (s : State) (l : Layout) (k : Nat) (i : Nat) (g : Grain) :
    (loseGrain s l k i g).1.hbm = s.hbm := by
  simp only [loseGrain]
  (repeat' split) <;> simp [writeBack_hbm, markLost_hbm, loseLeaf_hbm, writeBackAll_hbm, moveSummary_hbm, foldl_hbm, foldlP_hbm, forSlates_hbm, foldl_memwf, foldlP_memwf, forSlates_memwf]

@[simp] theorem loseColumns_hbm (s : State) (l : Layout) (k : Nat) (cols : List (Nat × List Nat)) :
    (loseColumns s l k cols).hbm = s.hbm := by
  simp only [loseColumns]
  (repeat' split) <;> simp [listLost_hbm, loseGrain_hbm, foldl_hbm, foldlP_hbm, forSlates_hbm, foldl_memwf, foldlP_memwf, forSlates_memwf]

@[simp] theorem backInService_hbm (s : State) (m : Nat) :
    (backInService s m).hbm = s.hbm := by
  simp only [backInService]
  (repeat' split) <;> simp [putMember_hbm, addTableGroup_hbm]

@[simp] theorem settleReplaced_hbm (s : State) (l : Layout) :
    (settleReplaced s l).hbm = s.hbm := by
  simp only [settleReplaced]
  grind [backInService_hbm, foldl_hbm, foldlP_hbm, forSlates_hbm, foldl_memwf, foldlP_memwf, forSlates_memwf]

@[simp] theorem leaveRebuild_hbm (s : State) (l : Layout) (sl : Nat) (k : Nat) :
    (leaveRebuild s l sl k).hbm = s.hbm := by
  simp only [leaveRebuild]
  (repeat' split) <;> simp [raise_hbm, modCourse_hbm, settleReplaced_hbm]

@[simp] theorem allocMissing_hbm (s : State) (l : Layout) (sl : Nat) (k : Nat) :
    (allocMissing s l sl k).hbm = s.hbm := by
  simp only [allocMissing]
  grind [detect_hbm, modCourse_hbm, allocSpare_hbm, foldl_hbm, foldlP_hbm, forSlates_hbm, foldl_memwf, foldlP_memwf, forSlates_memwf]

@[simp] theorem writeMissing_hbm (s : State) (l : Layout) (sl : Nat) (k : Nat) (bad : List (Nat × Nat)) :
    (writeMissing s l sl k bad).hbm = s.hbm := by
  simp only [writeMissing]
  grind [bump_hbm, modCourse_hbm, issueCmd_hbm, writeStrip_hbm, loseColumns_hbm, foldl_hbm, foldlP_hbm, forSlates_hbm, foldl_memwf, foldlP_memwf, forSlates_memwf]

@[simp] theorem stepRebuild_hbm (s : State) (l : Layout) (id : Nat) :
    (stepRebuild s l id).hbm = s.hbm := by
  simp only [stepRebuild]
  (repeat' split) <;> simp [modCourse_hbm, advanceRead_hbm, writeMissing_hbm]

@[simp] theorem spareWritten_hbm (s : State) (m : Nat) (k : Nat) (pos : Nat) :
    (spareWritten s m k pos).hbm = s.hbm := by
  simp only [spareWritten]
  grind [bump_hbm, modCourse_hbm, validSpare_hbm,foldl_hbm, foldlP_hbm, forSlates_hbm, foldl_memwf, foldlP_memwf, forSlates_memwf]

@[simp] theorem startCopyBack_hbm (s : State) (m : Nat) (j : Nat) :
    (startCopyBack s m j).hbm = s.hbm := by
  simp only [startCopyBack]
  (repeat' split) <;> simp [issueCmd_hbm, foldl_hbm, foldlP_hbm, forSlates_hbm, foldl_memwf, foldlP_memwf, forSlates_memwf]

@[simp] theorem finishCopyBack_hbm (s : State) (l : Layout) (m : Nat) (cb : CopyBack) :
    (finishCopyBack s l m cb).hbm = s.hbm := by
  simp only [finishCopyBack]
  (repeat' split) <;> simp [raise_hbm, backInService_hbm]

@[simp] theorem skipSlots_hbm (s : State) (l : Layout) (m : Nat) (slot : Nat) (done : Nat) :
    (skipSlots s l m slot done).hbm = s.hbm := by
  simp only [skipSlots]
  (repeat' split) <;> simp [issueCmd_hbm, foldl_hbm, foldlP_hbm, forSlates_hbm, foldl_memwf, foldlP_memwf, forSlates_memwf]

@[simp] theorem writeCopy_hbm (s : State) (l : Layout) (m : Nat) (slot : Nat) (k : Nat) (pos : Nat) (bad : List (Nat × Nat)) :
    (writeCopy s l m slot k pos bad).hbm = s.hbm := by
  simp only [writeCopy]
  (repeat' split) <;> simp [issueCmd_hbm, writeStrip_hbm, loseColumns_hbm, skipSlots_hbm]

@[simp] theorem stepCopyBack_hbm (s : State) (l : Layout) (id : Nat) (m : Nat) (slot : Nat) :
    (stepCopyBack s l id m slot).hbm = s.hbm := by
  simp only [stepCopyBack]
  (repeat' split) <;> simp [advanceRead_hbm, writeCopy_hbm]

@[simp] theorem copyWritten_hbm (s : State) (m : Nat) (slot : Nat) :
    (copyWritten s m slot).hbm = s.hbm := by
  simp only [copyWritten]
  (repeat' split) <;> simp [bump_hbm, addMset_hbm]

@[simp] theorem relocateGrain_hbm (s : State) (l : Layout) (sl : Nat) (k : Nat) (i : Nat) (g : Grain) (bad : List Nat) :
    (relocateGrain s l sl k i g bad).1.hbm = s.hbm := by
  simp only [relocateGrain]
  (repeat' split) <;> simp [noteCached_hbm, appendTo_hbm, writeBack_hbm, writeBackAll_hbm, moveSummary_hbm, loseGrain_hbm, foldl_hbm, foldlP_hbm, forSlates_hbm, foldl_memwf, foldlP_memwf, forSlates_memwf]

@[simp] theorem relocate_hbm (s : State) (l : Layout) (sl : Nat) (k : Nat) (bad : List Nat) :
    (relocate s l sl k bad).hbm = s.hbm := by
  simp only [relocate]
  grind [modCourse_hbm, listLost_hbm, relocateGrain_hbm,foldl_hbm, foldlP_hbm, forSlates_hbm, foldl_memwf, foldlP_memwf, forSlates_memwf]

@[simp] theorem startReclaim_hbm (s : State) (l : Layout) (sl : Nat) (k : Nat) :
    (startReclaim s l sl k).hbm = s.hbm := by
  simp only [startReclaim]
  (repeat' split) <;> simp [startRead_hbm, relocate_hbm]

@[simp] theorem stepReclaim_hbm (s : State) (l : Layout) (id : Nat) :
    (stepReclaim s l id).hbm = s.hbm := by
  simp only [stepReclaim]
  (repeat' split) <;> simp [advanceRead_hbm, relocate_hbm]

@[simp] theorem reclaimSlateStep_hbm (s : State) (l : Layout) (x : Nat) :
    (reclaimSlateStep s l x).hbm = s.hbm := by
  simp only [reclaimSlateStep]
  (repeat' split) <;> simp [startReclaim_hbm, stepReclaim_hbm]

@[simp] theorem reclaimStep_hbm (s : State) :
    (reclaimStep s).hbm = s.hbm := by
  simp only [reclaimStep]
  (repeat' split) <;> simp [reclaimSlateStep_hbm, foldl_hbm, foldlP_hbm, forSlates_hbm, foldl_memwf, foldlP_memwf, forSlates_memwf]

@[simp] theorem mediaError_hbm (s : State) (m : Nat) (status : Nat) (opcode : Nat) (lba : Nat) :
    (mediaError s m status opcode lba).hbm = s.hbm := by
  simp only [mediaError]
  (repeat' split) <;> simp [bump_hbm, detect_hbm]

@[simp] theorem lbaWrite_hbm (s : State) (m : Nat) (lba : Nat) (b : Block) :
    (lbaWrite s m lba b).hbm = s.hbm := by
  simp only [lbaWrite]
  (repeat' split) <;> simp [mediaWrite_hbm]

@[simp] theorem moveData_hbm (s : State) (m : Nat) (c : DrvCmd) (h : Option Handle) (r : NvmeResult) :
    (moveData s m c h r).hbm = s.hbm := by
  simp only [moveData]
  grind [bufWrite_hbm, lbaWrite_hbm,foldl_hbm, foldlP_hbm, forSlates_hbm, foldl_memwf, foldlP_memwf, forSlates_memwf]

@[simp] theorem ticketDone_hbm (s : State) (m : Nat) (c : DrvCmd) (job : Nat) (t : Nat) (r : NvmeResult) :
    (ticketDone s m c job t r).hbm = s.hbm := by
  simp only [ticketDone]
  (repeat' split) <;> simp [modTicket_hbm, mediaError_hbm, moveData_hbm]

@[simp] theorem continueRead_hbm (s : State) (id : Nat) :
    (continueRead s id).hbm = s.hbm := by
  simp only [continueRead]
  (repeat' split) <;> simp [stepRebuild_hbm, stepCopyBack_hbm, stepReclaim_hbm]

@[simp] theorem columnsDone_hbm (s : State) (m : Nat) (c : DrvCmd) (id : Nat) (pos : Nat) (col : Nat) (count : Nat) (r : NvmeResult) :
    (columnsDone s m c id pos col count r).hbm = s.hbm := by
  simp only [columnsDone]
  (repeat' split) <;> simp [bump_hbm, readReturn_hbm, mediaError_hbm, continueRead_hbm]

@[simp] theorem recordAdmin_hbm (s : State) :
    (recordAdmin s).hbm = s.hbm := by
  simp only [recordAdmin]
  (repeat' split) <;> simp [addTable_hbm]

@[simp] theorem sanitizeDone_hbm (s : State) (m : Nat) (ok : Bool) :
    (sanitizeDone s m ok).hbm = s.hbm := by
  simp only [sanitizeDone]
  (repeat' split) <;> simp [declareGone_hbm, recordAdmin_hbm]

@[simp] theorem resetCmd_hbm (s : State) (m : Nat) (c : DrvCmd) :
    (resetCmd s m c).hbm = s.hbm := by
  simp only [resetCmd]
  (repeat' split) <;> simp [takeFree_hbm, modTicket_hbm, readReturn_hbm, writeFailed_hbm, stripFail_hbm, continueRead_hbm]

@[simp] theorem seatReplacement_hbm (s : State) (m : Nat) :
    (seatReplacement s m).hbm = s.hbm := by
  simp only [seatReplacement]
  (repeat' split) <;> simp [putMember_hbm, loseStrips_hbm]

@[simp] theorem seatMember_hbm (s : State) (m : Nat) :
    (seatMember s m).hbm = s.hbm := by
  simp only [seatMember]
  (repeat' split) <;> simp [putMember_hbm, queueRebuild_hbm, settleReplaced_hbm, startCopyBack_hbm, seatReplacement_hbm]

@[simp] theorem registerMember_hbm (s : State) (m : Nat) :
    (registerMember s m).hbm = s.hbm := by
  simp only [registerMember]
  (repeat' split) <;> simp [putMember_hbm]

@[simp] theorem holdOutOp_hbm (s : State) (m : Nat) (on : Bool) :
    (holdOutOp s m on).hbm = s.hbm := by
  simp only [holdOutOp]
  (repeat' split) <;> simp [raise_hbm, putMember_hbm, declareGone_hbm, seatMember_hbm]

@[simp] theorem reachQuorum_hbm (s : State) :
    (reachQuorum s).hbm = s.hbm := by
  simp only [reachQuorum]
  grind [detect_hbm, putMember_hbm, loseStrips_hbm, recordFailure_hbm,foldl_hbm, foldlP_hbm, forSlates_hbm, foldl_memwf, foldlP_memwf, forSlates_memwf]

@[simp] theorem reportTorn_hbm (s : State) (p : List Rec) (cs : List JournalCopy) :
    (reportTorn s p cs).hbm = s.hbm := by
  simp only [reportTorn]
  (repeat' split) <;> simp [detect_hbm, foldl_hbm, foldlP_hbm, forSlates_hbm, foldl_memwf, foldlP_memwf, forSlates_memwf]

@[simp] theorem mergeOwner_hbm (s : State) (copies : List JournalCopy) (o : Nat) :
    (mergeOwner s copies o).hbm = s.hbm := by
  simp only [mergeOwner]
  grind [setF_hbm, putOwner_hbm, retrim_hbm, reportTorn_hbm,foldl_hbm, foldlP_hbm, forSlates_hbm, foldl_memwf, foldlP_memwf, forSlates_memwf]

@[simp] theorem discardCourse_hbm (s : State) (k : Nat) (c : Course) :
    (discardCourse s k c).hbm = s.hbm := by
  simp only [discardCourse]
  (repeat' split) <;> simp [bumpSat_hbm, modCourse_hbm, trimRecs_hbm]

@[simp] theorem resolveCourses_hbm (s : State) :
    (resolveCourses s).hbm = s.hbm := by
  simp only [resolveCourses]
  grind [modCourse_hbm, closeRuns_hbm, makeDurable_hbm, discardCourse_hbm, foldl_hbm, foldlP_hbm, forSlates_hbm, foldl_memwf, foldlP_memwf, forSlates_memwf]

@[simp] theorem dropOpenGroups_hbm (s : State) (o : Nat) :
    (dropOpenGroups s o).hbm = s.hbm := by
  simp only [dropOpenGroups]
  (repeat' split) <;> simp [trimRecs_hbm]

@[simp] theorem applyUcn_hbm (s : State) (x : Nat × RecBody) :
    (applyUcn s x).hbm = s.hbm := by
  simp only [applyUcn]
  (repeat' split) <;> simp [applyMset_hbm, applyGroup_hbm, makeDurable_hbm]

@[simp] theorem applyRecords_hbm (s : State) :
    (applyRecords s).hbm = s.hbm := by
  simp only [applyRecords]
  (repeat' split) <;> simp [applyUcn_hbm, foldl_hbm, foldlP_hbm, forSlates_hbm, foldl_memwf, foldlP_memwf, forSlates_memwf]

@[simp] theorem indexUpdates_hbm (s : State) :
    (indexUpdates s).hbm = s.hbm := by
  simp only [indexUpdates]
  (repeat' split) <;> simp [pendNode_hbm, foldl_hbm, foldlP_hbm, forSlates_hbm, foldl_memwf, foldlP_memwf, forSlates_memwf]

@[simp] theorem settleCuts_hbm (s : State) :
    (settleCuts s).hbm = s.hbm := by
  unfold settleCuts
  rw [foldl_hbm]
  intro t a
  (repeat' split) <;> simp

@[simp] theorem revertMember_hbm (s : State) (m : Nat) :
    (revertMember s m).hbm = s.hbm := by
  simp only [revertMember]
  (repeat' split) <;> simp [putMember_hbm]

@[simp] theorem restoreKeys_hbm (s : State) (copies : List JournalCopy) :
    (restoreKeys s copies).hbm = s.hbm := by
  simp only [restoreKeys]
  (repeat' split) <;> simp [addQueue_hbm, setKey_hbm, foldl_hbm, foldlP_hbm, forSlates_hbm, foldl_memwf, foldlP_memwf, forSlates_memwf]

@[simp] theorem recordFailures_hbm (s : State) :
    (recordFailures s).hbm = s.hbm := by
  simp only [recordFailures]
  grind [writeFailure_hbm, seatMember_hbm,foldl_hbm, foldlP_hbm, forSlates_hbm, foldl_memwf, foldlP_memwf, forSlates_memwf]

@[simp] theorem settleAreas_hbm (s : State) :
    (settleAreas s).hbm = s.hbm := by
  rfl

@[simp] theorem mergeJournal_hbm (s : State) (copies : List JournalCopy) :
    (mergeJournal s copies).hbm = s.hbm := by
  simp only [mergeJournal]
  (repeat' split) <;> simp [applyTables_hbm, changeAddress_hbm, mergeOwner_hbm, resolveCourses_hbm, dropOpenGroups_hbm, applyRecords_hbm, indexUpdates_hbm, settleCuts_hbm, revertMember_hbm, restoreKeys_hbm, foldl_hbm, foldlP_hbm, forSlates_hbm, foldl_memwf, foldlP_memwf, forSlates_memwf]

@[simp] theorem replay_hbm (s : State) (copies : List JournalCopy) :
    (replay s copies).hbm = s.hbm := by
  simp only [replay]
  (repeat' split) <;> simp [setF_hbm, raise_hbm, addTable_hbm, refreshHolders_hbm, updateSpace_hbm, tryReady_hbm, packLost_hbm, queueRebuild_hbm, recordFailures_hbm, settleAreas_hbm, mergeJournal_hbm, foldl_hbm, foldlP_hbm, forSlates_hbm, foldl_memwf, foldlP_memwf, forSlates_memwf]

@[simp] theorem sendData_hbm (x0 : Nat) (x1 : State) (x2 : Nat) (x3 : Job) (x4 : Cmd) (x5 : Nat) (x6 : Block) :
    (sendData x0 x1 x2 x3 x4 x5 x6).hbm = x1.hbm := by
  induction x0 generalizing x1 x2 x3 x4 x5 x6 with
  | zero => simp [sendData]
  | succ k ih =>
    simp only [sendData]
    grind [send_hbm]

@[simp] theorem crdReads_hbm (s : State) (l : Layout) (sl : Nat) (id : Nat) (t : Nat) (first : Nat) (count : Nat) :
    (crdReads s l sl id t first count).hbm = s.hbm := by
  simp only [crdReads]
  grind [startRead_hbm]

@[simp] theorem doAppend_hbm (s : State) (id : Nat) (sl : Nat) (a : AppendArgs) :
    (doAppend s id sl a).hbm = s.hbm := by
  simp only [doAppend]
  (repeat' split) <;> simp [countSrc_hbm, appendTo_hbm]

@[simp] theorem msetNow_hbm (s : State) (id : Nat) (v : Nat) (lba : Nat) (x : Word) :
    (msetNow s id v lba x).hbm = s.hbm := by
  simp only [msetNow]
  (repeat' split) <;> simp [modJob_hbm, noteCached_hbm, askCommit_hbm, addMset_hbm]

@[simp] theorem endLib_hbm (s : State) (id : Nat) (st : Status) (words : List Word) :
    (endLib s id st words).hbm = s.hbm := by
  simp only [endLib]
  (repeat' split) <;> simp [endJob_hbm]

@[simp] theorem waitLib_hbm (s : State) (id : Nat) (j : Job) (wait : Wait) (w : OnWake) :
    (waitLib s id j wait w).hbm = s.hbm := by
  simp only [waitLib]
  (repeat' split) <;> simp [suspendJob_hbm]

@[simp] theorem commitTables_hbm (s : State) (id : Nat) (j : Job) (ts : List TableItem) (w : OnWake) :
    (commitTables s id j ts w).hbm = s.hbm := by
  simp only [commitTables]
  (repeat' split) <;> simp [askCommit_hbm, addTableGroup_hbm, waitLib_hbm]

@[simp] theorem effectiveTb_hbm (s : State) (sl : Nat) :
    (effectiveTb s sl).1.hbm = s.hbm := by
  simp only [effectiveTb]
  (repeat' split) <;> simp [takeFree_hbm]

@[simp] theorem readRun_hbm (s : State) (l : Layout) (sl : Nat) (id : Nat) (h : Handle) (t : Nat) (r : GrainRun) :
    (readRun s l sl id h t r).hbm = s.hbm := by
  unfold readRun
  simp [modJob_hbm, crdReads_hbm, foldl_hbm, foldlP_hbm, forSlates_hbm, foldl_memwf, foldlP_memwf, forSlates_memwf]

@[simp] theorem fetchLeaves_hbm (s : State) (a : BlockArgs) :
    (fetchLeaves s a).hbm = s.hbm := by
  simp only [fetchLeaves]
  (repeat' split) <;> simp [needLeaf_hbm, foldl_hbm, foldlP_hbm, forSlates_hbm, foldl_memwf, foldlP_memwf, forSlates_memwf]

@[simp] theorem readExtent_hbm (s : State) (sl : Nat) (id : Nat) (a : BlockArgs) (h : Handle) :
    (readExtent s sl id a h).1.hbm = s.hbm := by
  simp only [readExtent]
  (repeat' split) <;> simp [readRun_hbm, foldl_hbm, foldlP_hbm, forSlates_hbm, foldl_memwf, foldlP_memwf, forSlates_memwf]

@[simp] theorem libAppend_hbm (s : State) (id : Nat) (j : Job) (a : BlockArgs) (skip : Nat) (atomic : Bool) :
    (libAppend s id j a skip atomic).hbm = s.hbm := by
  simp only [libAppend]
  (repeat' split) <;> simp [finish_hbm, doAppend_hbm, waitLib_hbm]

@[simp] theorem sendBlocks_hbm (s : State) (id : Nat) (j : Job) (lost : Nat) :
    (sendBlocks s id j lost).hbm = s.hbm := by
  simp only [sendBlocks]
  (repeat' split) <;> simp [sendData_hbm, endLib_hbm]

@[simp] theorem compareBlocks_hbm (s : State) (id : Nat) (j : Job) (buf : Nat) (lost : Nat) :
    (compareBlocks s id j buf lost).hbm = s.hbm := by
  simp only [compareBlocks]
  (repeat' split) <;> simp [endLib_hbm, libAppend_hbm]

@[simp] theorem readMapped_hbm (s : State) (id : Nat) (j : Job) :
    (readMapped s id j).hbm = s.hbm := by
  simp only [readMapped]
  (repeat' split) <;> simp [endLib_hbm, waitLib_hbm, readExtent_hbm, sendBlocks_hbm]

@[simp] theorem compareMapped_hbm (s : State) (id : Nat) (j : Job) (b : Nat) :
    (compareMapped s id j b).hbm = s.hbm := by
  simp only [compareMapped]
  (repeat' split) <;> simp [endLib_hbm, waitLib_hbm, readExtent_hbm, compareBlocks_hbm]

@[simp] theorem deallocMapped_hbm (s : State) (id : Nat) (j : Job) :
    (deallocMapped s id j).hbm = s.hbm := by
  simp only [deallocMapped]
  (repeat' split) <;> simp [finish_hbm, askCommit_hbm, addMset_hbm, endLib_hbm, waitLib_hbm, foldl_hbm, foldlP_hbm, forSlates_hbm, foldl_memwf, foldlP_memwf, forSlates_memwf]

theorem whenMapped_hbm (s : State) (id : Nat) (j : Job) (w : OnWake) (go : State → Nat → Job → State)
    (h : ∀ s, (go s id j).hbm = s.hbm) : (whenMapped s id j w go).hbm = s.hbm := by
  unfold whenMapped
  split
  · rfl
  · dsimp only
    split <;> simp [h]

@[simp] theorem fixCut_hbm (s : State) (id : Nat) (j : Job) (v : Nat) :
    (fixCut s id j v).hbm = s.hbm := by
  simp only [fixCut]
  (repeat' split) <;> simp [finish_hbm, askCommit_hbm, addTableGroup_hbm, waitLib_hbm, effectiveTb_hbm]

@[simp] theorem fixCutover_hbm (s : State) (id : Nat) (j : Job) :
    (fixCutover s id j).hbm = s.hbm := by
  simp only [fixCutover]
  (repeat' split) <;> simp [endLib_hbm, effectiveTb_hbm]

@[simp] theorem goOn_hbm (s : State) (id : Nat) :
    (goOn s id).hbm = s.hbm := by
  simp only [goOn]
  (repeat' split) <;> simp [putJob_hbm, finish_hbm, endLib_hbm, sendBlocks_hbm, compareBlocks_hbm, readMapped_hbm, compareMapped_hbm, deallocMapped_hbm, fixCut_hbm, fixCutover_hbm]

@[simp] theorem releaseHold_hbm (s : State) (id : Nat) :
    (releaseHold s id).hbm = s.hbm := by
  rfl

@[simp] theorem evwReturn_hbm (s : State) (sl : Nat) (n : Nat) (e : Nat) (id : Nat) :
    (evwReturn s sl n e id).hbm = s.hbm := by
  simp only [evwReturn]
  (repeat' split) <;> simp [setF_hbm, granted_hbm, releaseHold_hbm]

@[simp] theorem wake_memwf (s : State) (id : Nat) (j : Job) (hw : BytesOk s.hbm) :
    BytesOk (wake s id j).hbm := by
  unfold wake
  extract_lets u
  have hu : BytesOk u.hbm := sampleAfter_memwf _ _ hw
  clear_value u
  split <;> simp [hu]

@[simp] theorem resumeJob_memwf (s : State) (id : Nat) (j : Job) (hw : BytesOk s.hbm) :
    BytesOk (resumeJob s id j).hbm := by
  simp only [resumeJob]
  (repeat' split) <;> simp [hw, putJob_hbm, needLeaf_hbm, doAppend_hbm, msetNow_hbm, wake_memwf]

@[simp] theorem placeJob_hbm (s : State) (id : Nat) (j : Job) (t : Nat) :
    (placeJob s id j t).hbm = s.hbm := by
  simp only [placeJob]
  (repeat' split) <;> simp [putJob_hbm, goOn_hbm]

@[simp] theorem freeJob_hbm (s : State) (id : Nat) (j : Job) :
    (freeJob s id j).hbm = s.hbm := by
  simp only [freeJob]
  (repeat' split) <;> simp [releaseJob_hbm, freeBufs_hbm]

@[simp] theorem hkEnded_hbm (s : State) (j : Job) (n : Nat) :
    (hkEnded s j n).hbm = s.hbm := by
  rfl

@[simp] theorem jobEnded_hbm (s : State) (id : Nat) (j : Job) (e : JobEnd) :
    (jobEnded s id j e).hbm = s.hbm := by
  simp only [jobEnded]
  (repeat' split) <;> simp [startFetch_hbm, recordResp_hbm, freeJob_hbm, hkEnded_hbm]

@[simp] theorem hkRestartNow_memwf (s : State) (sl : Nat) (n : Nat) (hw : BytesOk s.hbm) :
    BytesOk (hkRestartNow s sl n).hbm := by
  simp only [hkRestartNow]
  (repeat' split) <;> simp [hw, setF_hbm, settleSample_memwf, endJob_hbm, hkStart_hbm, freeJob_hbm]

@[simp] theorem launch_hbm (s : State) (slate : Nat) (event : Nat) (o : Occurrence) :
    (launch s slate event o).hbm = s.hbm := by
  simp only [launch]
  (repeat' split) <;> simp [setF_hbm, detect_hbm, countSrc_hbm, toDispatch_hbm, addJob_hbm]

@[simp] theorem storeFields_hbm (s : State) (sl : Nat) (sp : Nat) (e : Nat) (v : Word) :
    (storeFields s sl sp e v).hbm = s.hbm := by
  simp only [storeFields]
  grind [setF_hbm, foldl_hbm, foldlP_hbm, forSlates_hbm, foldl_memwf, foldlP_memwf, forSlates_memwf]

@[simp] theorem fireInjection_memwf (s : State) (sl : Nat) (sp : Nat) (hw : BytesOk s.hbm) :
    BytesOk (fireInjection s sl sp).hbm := by
  simp only [fireInjection]
  (repeat' split) <;> simp [hw, bumpSat_hbm, injectDet_memwf]

@[simp] theorem actQuad_memwf (s : State) (sl : Nat) (sp : Nat) (e : Nat) (v : Word) (hw : BytesOk s.hbm) :
    BytesOk (actQuad s sl sp e v).hbm := by
  simp only [actQuad]
  (repeat' split) <;> simp [hw, clearFirst_hbm, fireInjection_memwf]

@[simp] theorem actEngine_memwf (s : State) (sl : Nat) (e : Nat) (v : Word) (hw : BytesOk s.hbm) :
    BytesOk (actEngine s sl e v).hbm := by
  simp only [actEngine]
  grind [hkRestartNow_memwf, foldl_hbm, foldlP_hbm, forSlates_hbm, foldl_memwf, foldlP_memwf, forSlates_memwf]

@[simp] theorem lookupChanged_hbm (old : State) (s : State) (sl : Nat) :
    (lookupChanged old s sl).hbm = s.hbm := by
  simp only [lookupChanged]
  grind [bump_hbm]

@[simp] theorem startBarrier_hbm (s : State) (sl : Nat) :
    (startBarrier s sl).hbm = s.hbm := rfl

@[simp] theorem actSwitch_hbm (old : State) (s : State) (sl : Nat) (e : Nat) (v : Word) :
    (actSwitch old s sl e v).hbm = s.hbm := by
  simp only [actSwitch]
  grind [setF_hbm, updatePause_hbm, unstall_hbm, lookupChanged_hbm, startBarrier_hbm]

@[simp] theorem actFabric_hbm (old : State) (s : State) (sl : Nat) (e : Nat) :
    (actFabric old s sl e).hbm = s.hbm := by
  simp only [actFabric]
  grind [lookupChanged_hbm]

@[simp] theorem actPort_hbm (old : State) (s : State) (sl : Nat) (e : Nat) :
    (actPort old s sl e).hbm = s.hbm := by
  simp only [actPort]
  grind [portDown_hbm, holdOver_hbm, lookupChanged_hbm]

@[simp] theorem putKeyOp_hbm (s : State) (sl : Nat) (idx : Nat) (k : Option KeyEntry) :
    (putKeyOp s sl idx k).1.hbm = s.hbm := by
  simp only [putKeyOp]
  (repeat' split) <;> simp [addTable_hbm, setKey_hbm]

@[simp] theorem loadKey_hbm (s : State) (sl : Nat) (idx : Nat) :
    (loadKey s sl idx).hbm = s.hbm := by
  simp only [loadKey]
  (repeat' split) <;> simp [putEntry_hbm, setF_hbm, foldl_hbm, foldlP_hbm, forSlates_hbm, foldl_memwf, foldlP_memwf, forSlates_memwf]

@[simp] theorem keyOp_hbm (s : State) (sl : Nat) (op : Nat) :
    (keyOp s sl op).1.hbm = s.hbm := by
  simp only [keyOp]
  (repeat' split) <;> simp [putKeyOp_hbm, loadKey_hbm]

@[simp] theorem stageSecret_hbm (s : State) (sl : Nat) (e : Nat) (v : Word) :
    (stageSecret s sl e v).hbm = s.hbm := rfl

@[simp] theorem resetQueueCredit_hbm (old : State) (s : State) (sl : Nat) (p : Nat) (c : Nat) (sub : Nat) :
    (resetQueueCredit old s sl p c sub).hbm = s.hbm := by
  simp only [resetQueueCredit]
  grind [putOut_hbm]

@[simp] theorem queueReconfigured_hbm (old : State) (s : State) (sl : Nat) (i : Nat) :
    (queueReconfigured old s sl i).hbm = s.hbm := by
  simp only [queueReconfigured]
  grind [resetQueueCredit_hbm, foldl_hbm, foldlP_hbm, forSlates_hbm, foldl_memwf, foldlP_memwf, forSlates_memwf]

@[simp] theorem policerReconfigured_hbm (old : State) (s : State) (sl : Nat) (c : Nat) :
    (policerReconfigured old s sl c).hbm = s.hbm := by
  simp only [policerReconfigured]
  grind []

@[simp] theorem installGates_hbm (s : State) (sl : Nat) :
    (installGates s sl).hbm = s.hbm := by
  simp only [installGates]
  (repeat' split) <;> simp [setF_hbm, raise_hbm]

@[simp] theorem dropGates_hbm (s : State) (sl : Nat) :
    (dropGates s sl).hbm = s.hbm := by
  simp only [dropGates]
  (repeat' split) <;> simp [accrueNet_hbm]

@[simp] theorem actSched_hbm (old : State) (s : State) (sl : Nat) (e : Nat) (v : Word) :
    (actSched old s sl e v).hbm = s.hbm := by
  simp only [actSched]
  grind [queueReconfigured_hbm, policerReconfigured_hbm, installGates_hbm, dropGates_hbm]

@[simp] theorem clearLost_hbm (s : State) (sl : Nat) :
    (clearLost s sl).hbm = s.hbm := by
  simp only [clearLost]
  (repeat' split) <;> simp [setF_hbm]

@[simp] theorem actStripe_hbm (s : State) (sl : Nat) (e : Nat) (v : Word) :
    (actStripe s sl e v).hbm = s.hbm := by
  simp only [actStripe]
  (repeat' split) <;> simp [reachQuorum_hbm, clearLost_hbm]

@[simp] theorem actDrive_hbm (old : State) (s : State) (sl : Nat) (e : Nat) :
    (actDrive old s sl e).hbm = s.hbm := by
  simp only [actDrive]
  grind [holdOutOp_hbm]

@[simp] theorem drainVictim_hbm (x0 : Nat) (x1 : State) (x2 : Nat) :
    (drainVictim x0 x1 x2).hbm = x1.hbm := by
  induction x0 generalizing x1 x2 with
  | zero => simp [drainVictim]
  | succ k ih =>
    simp only [drainVictim]
    grind [victimDrain_hbm]

@[simp] theorem startDrain_hbm (s : State) (sl : Nat) :
    (startDrain s sl).hbm = s.hbm := by
  simp only [startDrain]
  (repeat' split) <;> simp [setF_hbm, scSweep_hbm]

@[simp] theorem endDrain_hbm (s : State) (sl : Nat) :
    (endDrain s sl).hbm = s.hbm := by
  simp only [endDrain]
  (repeat' split) <;> simp [setF_hbm, drainVictim_hbm]

@[simp] theorem cacheEnable_hbm (s : State) (sl : Nat) (whole : Bool) :
    (cacheEnable s sl whole).hbm = s.hbm := by
  simp only [cacheEnable]
  (repeat' split) <;> simp [setF_hbm, startDrain_hbm, endDrain_hbm]

@[simp] theorem restoreWays_hbm (s : State) (sl : Nat) :
    (restoreWays s sl).hbm = s.hbm := by
  simp only [restoreWays]
  (repeat' split) <;> simp [setF_hbm, addTable_hbm, foldl_hbm, foldlP_hbm, forSlates_hbm, foldl_memwf, foldlP_memwf, forSlates_memwf]

@[simp] theorem actMem_hbm (old : State) (s : State) (sl : Nat) (e : Nat) (v : Word) (whole : Bool) :
    (actMem old s sl e v whole).hbm = s.hbm := by
  simp only [actMem]
  grind [icFlush_hbm, dcFlush_hbm, cacheEnable_hbm, restoreWays_hbm]

@[simp] theorem changeWitnesses_hbm (s : State) (mask : Nat) :
    (changeWitnesses s mask).hbm = s.hbm := by
  simp only [changeWitnesses]
  (repeat' split) <;> simp [modLease_hbm]

@[simp] theorem actLease_hbm (s : State) (e : Nat) (v : Word) :
    (actLease s e v).hbm = s.hbm := by
  simp only [actLease]
  (repeat' split) <;> simp [startRelease_hbm, changeWitnesses_hbm]

@[simp] theorem changeDomain_hbm (s : State) (en : Bool) (pre6 : Word) :
    (changeDomain s en pre6).1.hbm = s.hbm := by
  simp only [changeDomain]
  (repeat' split) <;> simp [addTable_hbm]

@[simp] theorem actUnit_hbm (s : State) (e : Nat) (v : Word) :
    (actUnit s e v).1.hbm = s.hbm := by
  simp only [actUnit]
  (repeat' split) <;> simp [changeDomain_hbm]

@[simp] theorem actChain_hbm (s : State) (v : Word) :
    (actChain s v).hbm = s.hbm := by
  simp only [actChain]
  (repeat' split) <;> simp [startEnum_hbm, chainAssignOp_hbm]

@[simp] theorem actCounter_hbm (old : State) (s : State) (sl : Nat) (k : Nat) (v : Word) :
    (actCounter old s sl k v).hbm = s.hbm := by
  simp only [actCounter]
  grind [putEntry_hbm, setF_hbm]

@[simp] theorem ringMoved_hbm (old : State) (s : State) (sl : Nat) (r : Ring) :
    (ringMoved old s sl r).hbm = s.hbm := by
  simp only [ringMoved]
  grind [setF_hbm]

@[simp] theorem actPerf_hbm (old : State) (s : State) (sl : Nat) (e : Nat) (v : Word) :
    (actPerf old s sl e v).hbm = s.hbm := by
  simp only [actPerf]
  (repeat' split) <;> simp [putSampling_hbm, actCounter_hbm, ringMoved_hbm]

@[simp] theorem act_memwf (old : State) (s : State) (sl : Nat) (sp : Nat) (e : Nat) (v : Word) (whole : Bool) (hw : BytesOk s.hbm) :
    BytesOk (act old s sl sp e v whole).1.hbm := by
  simp only [act]
  (repeat' split) <;> simp [hw, winOp_hbm, secureStart_hbm, queueOp_memwf, actQuad_memwf, actEngine_memwf, actSwitch_hbm, actFabric_hbm, actPort_hbm, keyOp_hbm, stageSecret_hbm, actSched_hbm, actStripe_hbm, actDrive_hbm, actMem_hbm, actLease_hbm, actUnit_hbm, actChain_hbm, actPerf_hbm]

@[simp] theorem writeEntry_memwf (s : State) (sl : Nat) (sp : Nat) (e : Nat) (v : Word) (whole : Bool) (u) (h : writeEntry s sl sp e v whole = some u) (hw : BytesOk s.hbm) :
    BytesOk u.1.hbm := by
  simp only [writeEntry] at h
  grind [storeFields_hbm, act_memwf]

@[simp] theorem ctlWrite_memwf (s : State) (w : Word) (self : Nat) (v : Word) (u) (h : ctlWrite s w self v = some u) (hw : BytesOk s.hbm) :
    BytesOk u.1.hbm := by
  simp only [ctlWrite] at h
  grind [writeEntry_memwf]

@[simp] theorem ctlCommit_memwf (s : State) (id : Nat) (w : Word) (self : Nat) (v : Word) (u) (h : ctlCommit s id w self v = some u) (hw : BytesOk s.hbm) :
    BytesOk u.1.hbm := by
  simp only [ctlCommit] at h
  split at h
  · cases h
  · split at h
    · cases h; simp [hw]
    · split at h
      · cases h
      · rename_i h2
        cases h
        exact ctlWrite_memwf _ _ _ _ _ h2 (by simp [hw])

@[simp] theorem ctlSetOp_memwf (s : State) (id : Nat) (w : Word) (self : Nat) (v : Word) (hw : BytesOk s.hbm) :
    BytesOk (ctlSetOp s id w self v).1.hbm := by
  simp only [ctlSetOp]
  split
  · exact hw
  · split
    · exact hw
    · rename_i h; exact ctlCommit_memwf _ _ _ _ _ _ h hw

@[simp] theorem ctlSwapOp_memwf (s : State) (id : Nat) (w : Word) (self : Nat) (expected : Word) (v : Word) (hw : BytesOk s.hbm) :
    BytesOk (ctlSwapOp s id w self expected v).1.hbm := by
  simp only [ctlSwapOp]
  split
  · exact hw
  · split
    · exact hw
    · split
      · exact hw
      · rename_i h; exact ctlCommit_memwf _ _ _ _ _ _ h hw

@[simp] theorem ctlGrant_hbm (s : State) (w : Word) (self : Nat) :
    (ctlGrant s w self).hbm = s.hbm := by
  simp only [ctlGrant]
  (repeat' split) <;> simp [granted_hbm]

@[simp] theorem ctlDone_hbm (s : State) (id : Nat) (d : Reg) (f : Job → Job) (r : RecRef) :
    (ctlDone s id d f r).hbm = s.hbm := by
  simp only [ctlDone]
  (repeat' split) <;> simp [finish_hbm]

@[simp] theorem regWrite_memwf (s : State) (sl : Nat) (sp : Nat) (e : Nat) (v : Word) (hw : BytesOk s.hbm) :
    BytesOk (regWrite s sl sp e v).hbm := by
  simp only [regWrite]
  split
  · rename_i h; exact writeEntry_memwf _ _ _ _ _ _ _ h hw
  · exact hw

@[simp] theorem dropCourse_hbm (s : State) (k : Nat) :
    (dropCourse s k).hbm = s.hbm := by
  simp only [dropCourse]
  (repeat' split) <;> simp [trimRecs_hbm, dropCmds_hbm, foldl_hbm, foldlP_hbm, forSlates_hbm, foldl_memwf, foldlP_memwf, forSlates_memwf]

@[simp] theorem stopAppend_hbm (s : State) (id : Nat) :
    (stopAppend s id).hbm = s.hbm := by
  simp only [stopAppend]
  (repeat' split) <;> simp [modJob_hbm, finish_hbm]

@[simp] theorem stopAppends_hbm (s : State) :
    (stopAppends s).hbm = s.hbm := by
  simp only [stopAppends]
  (repeat' split) <;> simp [dropCourse_hbm, stopAppend_hbm, foldl_hbm, foldlP_hbm, forSlates_hbm, foldl_memwf, foldlP_memwf, forSlates_memwf]

@[simp] theorem emptyPool_hbm (s : State) :
    (emptyPool s).hbm = s.hbm := by
  simp only [emptyPool]
  (repeat' split) <;> simp [trimRecs_hbm, updateSpace_hbm, foldl_hbm, foldlP_hbm, forSlates_hbm, foldl_memwf, foldlP_memwf, forSlates_memwf]

@[simp] theorem modAdmin_hbm (s : State) (f : AdminOp → AdminOp) :
    (modAdmin s f).hbm = s.hbm := rfl

@[simp] theorem stepAdmin_hbm (s : State) (f : AdminOp → AdminOp) :
    (stepAdmin s f).hbm = s.hbm := by
  simp only [stepAdmin]
  (repeat' split) <;> simp [recordAdmin_hbm, modAdmin_hbm]

@[simp] theorem endAdmin_hbm (s : State) :
    (endAdmin s).hbm = s.hbm := by
  simp only [endAdmin]
  (repeat' split) <;> simp [stepAdmin_hbm]

@[simp] theorem awaitTables_hbm (s : State) (ts : List TableItem) :
    (awaitTables s ts).hbm = s.hbm := by
  simp only [awaitTables]
  (repeat' split) <;> simp [addTableGroup_hbm, stepAdmin_hbm, endAdmin_hbm]

@[simp] theorem sanitizeKey_hbm (s : State) :
    (sanitizeKey s).hbm = s.hbm := by
  simp only [sanitizeKey]
  (repeat' split) <;> simp [addPlainGroup_hbm, stepAdmin_hbm]

@[simp] theorem sanitizeMembers_hbm (s : State) :
    (sanitizeMembers s).hbm = s.hbm := by
  simp only [sanitizeMembers]
  grind [issueCmd_hbm, stopAppends_hbm, emptyPool_hbm, stepAdmin_hbm, awaitTables_hbm,foldl_hbm, foldlP_hbm, forSlates_hbm, foldl_memwf, foldlP_memwf, forSlates_memwf]

@[simp] theorem formatVolume_hbm (s : State) :
    (formatVolume s).hbm = s.hbm := by
  simp only [formatVolume]
  (repeat' split) <;> simp [addMset_hbm, needLeaf_hbm, stepAdmin_hbm, endAdmin_hbm, foldl_hbm, foldlP_hbm, forSlates_hbm, foldl_memwf, foldlP_memwf, forSlates_memwf]

@[simp] theorem formatUnit_hbm (s : State) :
    (formatUnit s).hbm = s.hbm := by
  simp only [formatUnit]
  (repeat' split) <;> simp [stopAppends_hbm, emptyPool_hbm, awaitTables_hbm]

@[simp] theorem seatFormatted_hbm (s : State) :
    (seatFormatted s).hbm = s.hbm := by
  simp only [seatFormatted]
  (repeat' split) <;> simp []

@[simp] theorem adminStep_memwf (s : State) (hw : BytesOk s.hbm) :
    BytesOk (adminStep s).hbm := by
  simp only [adminStep]
  (repeat' split) <;> simp [hw, dropDataKey_memwf, stepAdmin_hbm, endAdmin_hbm, sanitizeKey_hbm, sanitizeMembers_hbm, formatVolume_hbm, formatUnit_hbm, seatFormatted_hbm]

@[simp] theorem cutOver_hbm (s : State) (v : Nat) :
    (cutOver s v).hbm = s.hbm := by
  simp only [cutOver]
  (repeat' split) <;> simp [cutEntries_hbm]

@[simp] theorem beginCut_hbm (s : State) (id : Nat) (j : Job) (v : Nat) (size : Nat) (was : Nat) :
    (beginCut s id j v size was).hbm = s.hbm := by
  simp only [beginCut]
  (repeat' split) <;> simp [waitLib_hbm]

@[simp] theorem startAdmin_hbm (s : State) (id : Nat) (j : Job) (a : AdminOp) :
    (startAdmin s id j a).hbm = s.hbm := by
  simp only [startAdmin]
  (repeat' split) <;> simp [takeFree_hbm, finish_hbm, askCommit_hbm, addTable_hbm, waitLib_hbm]

@[simp] theorem recordSlot_hbm (s : State) (id : Nat) (j : Job) (slot : Nat) (p : Option Nat) :
    (recordSlot s id j slot p).hbm = s.hbm := by
  simp only [recordSlot]
  (repeat' split) <;> simp [addPlainGroup_hbm, waitLib_hbm]

@[simp] theorem endCtl_hbm (s : State) (id : Nat) (st : Status) (words : List Word) (r : RecRef) :
    (endCtl s id st words r).hbm = s.hbm := by
  simp only [endCtl]
  (repeat' split) <;> simp [finish_hbm, endLib_hbm, waitLib_hbm]

@[simp] theorem slewStep_hbm (s : State) :
    (slewStep s).2.hbm = s.hbm := by
  simp only [slewStep]
  (repeat' split) <;> simp []

@[simp] theorem tbTick_hbm (s : State) :
    (tbTick s).hbm = s.hbm := by
  simp only [tbTick]
  (repeat' split) <;> simp [slewStep_hbm, foldl_hbm, foldlP_hbm, forSlates_hbm, foldl_memwf, foldlP_memwf, forSlates_memwf]

@[simp] theorem sourceTick_hbm (s : State) (sl : Nat) :
    (sourceTick s sl).hbm = s.hbm := by
  unfold sourceTick
  extract_lets c adds last
  clear_value adds last
  rw [foldl_hbm]
  intro t a; split <;> simp

@[simp] theorem slateTick_memwf (s : State) (sl : Nat) (hw : BytesOk s.hbm) :
    BytesOk (slateTick s sl).hbm := by
  simp only [slateTick]
  (repeat' split) <;> simp [hw, victimDrain_hbm, copiesIssue_memwf, sourceTick_hbm]

@[simp] theorem tick_memwf (s : State) (hw : BytesOk s.hbm) :
    BytesOk (tick s).hbm := by
  unfold tick
  split
  · exact hw
  · extract_lets u
    have hu : BytesOk u.hbm := by
      refine foldl_memwf _ _ _ (by simp [hw]) fun s a h => slateTick_memwf _ _ h
    clear_value u
    split <;> simp [hu]

@[simp] theorem State.withFetchWord_hbm (s : State) (nbits : Nat) (w : Nat) :
    (State.withFetchWord s nbits w).hbm = s.hbm := by
  simp only [State.withFetchWord]
  (repeat' split) <;> simp []

end Sys2Proof.Machine
end

