-- ==== Sys2Proof/Tests/Slice0.lean ====
section
/-! SUPPORT. The model's own tests: well-formedness, words and examples of the manual, and for every obligation a witness that each of
its hypotheses is met. -/

namespace Sys2Proof.Tests

set_option maxRecDepth 20000
set_option Elab.async false

open Machine

/-! ### How a state is shown to meet the shared hypotheses -/

theorem runsLib_of {s : State} {slot id : Nat} {j : Job} (h : serving s 0 = true ∧ jobOf s id = some j ∧ j.slot = slot ∧
    canIssue j = true ∧ onAThread j = true ∧ serving s j.slate = true) : RunsLib s slot id j :=
  let ⟨a, b, c, d, e, f⟩ := h; ⟨a, b, c, d, e, f⟩

theorem issues_of {s : State} {t : Thread} {id : Nat} {j : Job} {len : Nat} (h : serving s t.slate = true ∧ jobOn s t = some id ∧
    jobOf s id = some j ∧ j.slate = t.slate ∧ j.phase = .running t.idx ∧ (j.ended = none ∧ j.wait = .none) ∧
    (isHk j = true ∨ j.budget ≠ 0) ∧ pcBad s j len = false ∧ opcodeBad s t j = false ∧ (len = 1 ∨ len = 2)) : Issues s t id j len :=
  let ⟨a, b, c, d, e, f, g, i, o, k⟩ := h; ⟨a, b, c, d, e, f, g, i, o, k⟩

theorem uncounted_of {s : State} {sl : Nat} (h : (∀ k < 16, isF s sl (F.PERF.EN k) = false) ∧ isF s sl F.PERF.SAMP_EN = false ∧
    (samplingOf s sl).tags = []) : Uncounted s sl := ⟨h.1, h.2.1, h.2.2⟩

theorem proved_of {s : State} {d : Datagram} {k : KeyEntry} (h : serving s d.port = true ∧
    (d.udpPort = getF s d.port F.XPORT.UDP_PORT ∧ answersTo s d.port d.ipv4 d.dest = true) ∧
    (s.chain.uaValid = true ∧ d.dstUa = s.chain.ua) ∧ keyOf s d.port (keyIndex d.keyId) = some k ∧ d.flags.getLsbD 0 = keySeals k ∧
    (k.mode = 0 → d.check = k.check) ∧ (keySeals k = true → authentic k d = true)) :
    Proved s d k :=
  let ⟨a, b, c, e, f, g, i⟩ := h; ⟨a, b, c, e, f, g, i⟩

theorem reaches_of {s : State} {d : Datagram} {k : KeyEntry} {q : Queue} (h : (serving s d.port = true ∧
    (d.udpPort = getF s d.port F.XPORT.UDP_PORT ∧ answersTo s d.port d.ipv4 d.dest = true) ∧
    (s.chain.uaValid = true ∧ d.dstUa = s.chain.ua) ∧ keyOf s d.port (keyIndex d.keyId) = some k ∧ d.flags.getLsbD 0 = keySeals k ∧
    (k.mode = 0 → d.check = k.check) ∧ (keySeals k = true → authentic k d = true)) ∧
    d.keyId.toNat / 256 % 256 = k.gen.toNat ∧ (d.cls = 7 ∨ (d.cls = 3 ∧ servesIo s = true)) ∧ (k.window = false ∧ k.bind = dgNumber d) ∧
    queueAt s (dgNumber d) = some q ∧ q.host = d.host ∧ serving s (hqSlate (dgNumber d)) = true ∧ q.resident = true ∧
    (parkedFor s (dgNumber d) = false ∧ ∀ p ∈ tabGetD s.heldDg (hqSlate (dgNumber d)) [], p.hq ≠ dgNumber d)) : Reaches s d k q :=
  let ⟨a, b, c, e, f, g, i, l, m⟩ := h; ⟨proved_of a, b, c, e, f, g, i, l, m⟩

theorem canSend_of {s : State} {sl cls : Nat} (h : serving s sl = true ∧ (∃ k < 8, bitOf (getF s sl F.PORT.LINK_UP) k = true) ∧
    tabGet s.peerPause (sl * 8 + cls) = none ∧ s.keySeq = []) : CanSend s sl cls :=
  ⟨h.1, h.2.1, (by rw [h.2.2.1]; intro p e; cases e), (by rw [h.2.2.2]; intro i; show 0 + 1 < 2 ^ 48; decide)⟩

/-- No event is picked where none is pending. -/
theorem evwPick_quiet {s : State} {sl n : Nat} (h : s.evPend = []) : evwPick s sl n = none := by
  unfold evwPick rotPick
  exact List.find?_eq_none.2 fun e _ => by simp [occOf, h]

theorem variant_of {s : State} (h : s.n = 2 ∨ s.n = 4 ∨ s.n = 8) : Variant s := h

theorem allServing {s : State} {sl : Nat} {p : Nat → Prop} (h : ∀ b < s.n, b ≠ sl → serving s b = true → p b) :
    ∀ b, b ≠ sl → serving s b = true → p b :=
  fun b n k => h b (by simp [serving] at k; exact k.1.2) n k

theorem got {α : Type} {o : Option α} (h : o.isSome = true) : o = some (o.get h) := (Option.some_get h).symm

theorem elim_some {α β : Type} {o : Option (α × Option β)} {a : α} (h : (o.map (·.2)) = some none) :
    o = some (o.elim a (·.1), none) := by
  obtain ⟨x, e, g⟩ := Option.map_eq_some_iff.1 h
  subst e
  obtain ⟨x, y⟩ := x
  cases g
  rfl

theorem gotp {α β : Type} {o : Option (α × β)} (h : o.isSome = true) : o = some ((o.get h).1, (o.get h).2) :=
  (Option.some_get h).symm

theorem unbarred {t : Tag} {n r : Nat} (a : ¬ n ≤ r) (b : t.bar = none) (c : (t.last.all fun l => decide (l.toNat ≤ n)) = true) :
    ¬ (n ≤ r ∨ (∃ b, t.bar = some b ∧ n ≤ b.toNat) ∨ ∃ l, t.last = some l ∧ n < l.toNat) := by
  rintro (h | ⟨x, h, -⟩ | ⟨l, h, g⟩)
  · exact a h
  · rw [b] at h; cases h
  · rw [h] at c
    exact absurd (of_decide_eq_true c) (by omega)

theorem tabGet_of {α : Type} {p : α → Prop} : ∀ {t : Tab α}, (∀ x ∈ t, p x.2) → ∀ k, tabGet t k = none ∨ ∃ a, tabGet t k = some a ∧ p a
  | [], _, _ => .inl rfl
  | x :: r, h, k => by
    unfold tabGet
    split
    · exact .inr ⟨_, rfl, h x (.head _)⟩
    · exact tabGet_of (fun y m => h y (.tail _ m)) k

theorem unsealed {s : State} {sl : Nat} (h : ∀ x ∈ s.keys, keySeals x.2 = false) (i : Nat) :
    keyOf s sl i = none ∨ ∃ x, keyOf s sl i = some x ∧ keySeals x = false := by
  unfold keyOf
  split
  · exact .inl rfl
  · exact tabGet_of h _

theorem optAll {α : Type} {o : Option α} {p : α → Prop} [DecidablePred p] (h : (o.all fun l => decide (p l)) = true) (l : α)
    (e : o = some l) : p l := by
  rw [e] at h
  exact of_decide_eq_true h

/-! ### Small states -/

/-- A running unit of n slates that serves, each at the IPv6 address 1. -/
def unit (n : Nat) : State :=
  let s := { State.reset with
    n := n
    mod := { State.reset.mod with power := .running }
    recovery := 8
    quorum := true
    lease := { State.reset.lease with role := 1 }
    ready := { State.reset.ready with sentTb := some 0 }
    chain := { State.reset.chain with bypass := false, chain := 5, pos := some 2, ua := 0x142, uaValid := true } }
  (List.range n).foldl (fun s sl => setF s sl F.PORT.IP6_LO 1) s
def at_ (s : State) (t : Nat) : State := { s with tb := (List.range s.n).map fun sl => (sl, BitVec.ofNat 64 t) }
def F1 (s : State) (sl : Nat) (f : Fld) (v : Nat) : State := setF s sl f v
def prog (slot : Nat) (keep : Bool) : Program :=
  { slot := slot, keep := keep, key := 0, budget := 100, version := 1, words := List.replicate 8 0, extWords := [], measure := [] }
def jobA : Job := { freshJob .command 0 0x300 0 false 100 with hq := 5, tag := 1, nonce := 7, cls := 3, phase := .running 4 }
def thr : Thread := { slate := 0, idx := 4 }
/-- Put job j at id 9 on thread 4 of slate 0, its program version 0 in its slot. -/
def withJob (s : State) (j : Job) : State :=
  { s with
    jobs := [(9, j)], nextJob := 10
    threads := match j.phase with | .running k => [(j.slate * 192 + k, 9)] | _ => []
    progs := [(0, prog j.slot j.keep)], slots := [(j.slot, 0)], nextProg := 1 }
def kA : KeyEntry := { mode := 0, window := false, persist := false, gen := 3, bind := 5, rights := 0, lo := 0, hi := 0x3FF, check := 77, aes := [], salt := 0 }
def qA : Queue := { host := 11, key := 6, pin := false, persist := false, armed := true, resetNonce := 1, resetMask := 0, resetTb := 0, resetOut := [],
                    resident := true, lastTb := 0, ret := some { source := 99, ipv4 := false, port := 0 }, tags := [] }
/-- Key 6 of slate 0 (and all) bound to queue 5. -/
def withQueue (s : State) (k : KeyEntry) (q : Queue) : State :=
  { s with keys := (List.range s.n).map fun sl => (sl * 65536 + 6, k), queues := [(5, q)] }
def dg : Datagram :=
  { port := 0, cls := 3, ipv4 := false, mac := 0x1234, source := 99, dest := 1, udpPort := 6910, fragment := false, sum := some true, ver := 1, type := 0,
    flags := 0, length := 64, dstUa := 0x142, srcUa := 0x200, host := 11, hqTag := BitVec.ofNat 32 (5 * 4096 + 1), nonce := 8,
    keyId := BitVec.ofNat 32 (6 * 65536 + 3 * 256), slot := 0x300, status := 0, offset := 0, check := 77, payload := [], tag := [] }
/-- A datagram with the type, the length and the length of tag that its payload and flags ask for. -/
def fit (t : BitVec 4) (d : Datagram) : Datagram :=
  { d with type := t, length := BitVec.ofNat 16 d.payload.length, tag := if d.flags.getLsbD 0 then List.replicate 16 0 else [] }
def memb : Member :=
  { State.noMember with present := true, conforms := true, link := true, speed := 4, width := 4, mstate := 2, strips := 1000, nguid := 55, recorded := .inService 55, perst := false }
def withMember (s : State) (m : Nat) (x : Member) : State := { s with members := tabPut s.members m x }
/-- A layout of twelve bands, one row each, over members 0 to 11. -/
def layA : Layout :=
  { cap := 1000, d := 8, s := 1, members := List.range 12, zoned := false, aMax := 1, zs := 0, bands := 12, runBands := 0
    rows := (List.range 12).map fun i => (List.range 10).map fun k => (i + k) / 2 % 6 + (i + k) % 2 * 6 }
def pool (n : Nat) : State :=
  let s := { unit n with members := (List.range (6 * n)).map fun m => (m, memb) }
  { s with owners := (List.range n).map fun o => (o, { seq := 0, trim := 1, holders := [1,2,3], recs := [], waiting := [] }), layout := some layA, volumes := [(3, { size := 1000, cut := none })] }
def libJob (slot : Nat) (g : List (Nat × Nat)) : Job :=
  { jobA with slot := slot, g := (g.filter fun p => p.2 != 0).map fun p => (p.1, BitVec.ofNat 64 p.2) }

/-! ### Well-formedness -/

/-- A well-formed frame. -/
def frame0 : FrameIn :=
  { slate := 0, sof := 0, home := 0, entry := 1, path := [], lane := 0, port := 1, sub := 0, pcp := 3, dscp := 0, bytes := 100, checkOk := true, exempt := false, kind := 0, ident := 0
    dst := 0, dstPort := 1, dstSub := 0, copies := 0 }

/-- A drive that conforms. -/
def drive0 : Drive :=
  { conforms := true, zoned := false, nguid := 1, strips := 1000, speed := 6, width := 4, zs := 0, zoneLbas := 0
    zoneRes := 0, sanCap := 0, lowPs := 0 }

/-- One ill-formed command for each check of WellFormed, which it refuses. -/
def illFormed : List Instr :=
  [.hbmScrub 8, .budgetExhausted { slate := 0, idx := 192 }, .rebuildStart 48, .pfcPauseRx 0 8 true, .wheelSlot 0 15 0,
   .linkDown 0 8, .contextFetchDone (2 ^ 20), .commandDispatch 0 32, .evwEventReturn 0 8, .counterWrap 0 16,
   .fabricLinkTrained 0 4, .eventLaunch 0 2048, .injFire 0 0x13 ⟨0, none⟩, .detectorOccurrence 0 0 32 [], .coursePour (2 ^ 39),
   .leafWriteback 0x1004 0, .windowAvailExpiry 0 8192, .leadHandover 3, .command { dg with type := 2 },
   .frameArrival { frame0 with bytes := 9239 }, .driveInsert 0 { drive0 with strips := 2 ^ 40 },
   .heartbeatRx 0 { bay := 2, role := 0, flags := 0, slates := 1, bootId := 0, epoch := 0, tb := 0 },
   .hello true { enum := 0, bay := 0, hasPos := false, head := false, ua := 0, mac := 2 ^ 48 },
   .roundComplete [(48, .success)], .replayDone [{ owner := 0, holder := 6, upTo := 0, torn := [] }],
   .tally { enum := 0, chain := 0, claim := 0, shelves := 128 }]

theorem test_illFormed_refused : illFormed.all (fun c => !c.wellFormed) = true := by decide +kernel

theorem test_wellFormed_accepted : ([.hbmScrub 7, .rebuildStart 47, .commandDispatch 0 31, .leadHandover 2, .frameArrival frame0,
    .driveInsert 0 drive0, .command dg] : List Instr).all Instr.wellFormed = true := by decide +kernel

/-! ### The program of the example in the Ortur instruction reference -/

/-- The thread that stands in the decoded commands. -/
def t0 : Thread := { slate := 0, idx := 0 }

theorem test_decode_add : decodeInsn t0 0x04A00044 0 = some (.add { t := t0, d := 5, a := 0, src := .imm (.short 0x44) }) := by decide

theorem test_decode_shl : decodeInsn t0 0x18A50020 0 = some (.shl { t := t0, d := 5, a := 5, cnt := .imm 32 }) := by decide

theorem test_decode_or : decodeInsn t0 0x0CA51000 0 = some (.or { t := t0, d := 5, a := 5, src := .imm (.short 0x1000) }) := by decide

theorem test_decode_aadd : decodeInsn t0 0x78C50800 0 = some (.aadd { t := t0, d := 6, a := 5, b := 1 }) := by decide

theorem test_decode_cmp_long : decodeInsn t0 0xFC061400 0x00100000 =
    some (.cmp { t := t0, d := 0, a := 6, src := .imm (.long 0 0x00100000) }) := by decide

theorem test_decode_bhs : decodeInsn t0 0x44400003 0 = some (.bcc { t := t0, d := 2, a := 0, off := .short 3 }) := by decide

theorem test_decode_add_reg : decodeInsn t0 0x00260000 0 = some (.add { t := t0, d := 1, a := 6, src := .reg 0 }) := by decide

theorem test_decode_done : decodeInsn t0 0xDC000000 0 = some (.done { t := t0, d := 0, a := 0, b := 0, minor := 0 }) := by decide

theorem test_decode_fail : decodeInsn t0 0xE0020000 0 = some (.fail { t := t0, d := 0, a := 2, b := 0, minor := 0 }) := by decide

/-- The counter of the example at MEM 0x44_0000_1000 holds 0x0F_FFFF; AADD of 5 leaves 0x10_0004 and returns the old value. -/
def counterState : State :=
  { withJob (unit 8) { jobA with g := [(1, 5), (5, 0x4400001000)] } with hbm := [(0x4400001000, 0xFF), (0x4400001001, 0xFF), (0x4400001002, 0x0F)] }

theorem test_aadd_counter : (match exec (.aadd { t := thr, d := 6, a := 5, b := 1 }) counterState with
    | .next u => leNat (hbmRead u 0x4400001000 8) == 0x100004 && (jobOf u 9).map (fun j => tabGetD j.g 6 0) == some 0xFFFFF
    | _ => false) = true := by decide +kernel

/-! ### Other worked examples of the manual -/

/-- The control address word of the launch entry of the example in Control spaces. -/
theorem test_control_address :
    (ctlEntry 0x000A2033, ctlSpace 0x000A2033, ctlSlate 0x000A2033 2) = (0x033, 0x02, 5) := by decide

/-- The header of the resent RESPONSE in BIRL transport. -/
theorem test_response_header : headerBytes { slate := 2, cls := 3, dscp := 0, ipv4 := false, srcMac := 0, mac := none, gateway := 0
                                             source := 0, dest := 0, type := 3, flags := 0, dstUa := 0xFFFF
                                             srcUa := 0x0485, host := 0x2A17, hqTag := 0x4001300B, nonce := 0x53C11
                                             keyId := 0x01230000, slot := 1, status := St.duplicate, offset := 0, check := 0
                                             payload := List.replicate 40 0, sealed := [] } =
    [0x13, 0, 0, 0x28, 0xFF, 0xFF, 0x04, 0x85, 0, 0, 0x2A, 0x17, 0x40, 0x01, 0x30, 0x0B, 0, 0, 0, 0, 0, 0x05, 0x3C, 0x11,
     0x01, 0x23, 0, 0, 0x00, 0x01, 0x02, 0x01, 0, 0, 0, 0, 0, 0, 0, 0, 0, 0, 0, 0, 0, 0, 0, 0] := by decide +kernel

/-- The scan of the atomic unit in Ortur engines and jobs: from pointer 4, slate 6 comes before slate 1. -/
theorem test_atomic_scan : rotPick 4 8 [1, 6].contains = some 6 := by decide +kernel

/-- The home of the leaf in the read example of The block map. -/
theorem test_map_home : mapHome 8 7 0x520010 0 = 6 := by decide +kernel

/-- One byte column of the 16+2 course in Courses and the block map. -/
def column : List Block :=
  (List.range 16).map fun i => if i = 0 then [0x11] else if i = 3 then [0x5A] else if i = 9 then [0xC4] else if i = 14 then [0x09] else []

theorem test_parity : (parityP column, parityQ column) = ([0x86], [0xF2]) := by decide +kernel

theorem test_rebuild_two : (rebuildColumn 16 ((((column.map some).set 3 none).set 9 none) ++ [some [0x86], some [0xF2]])).map
    (fun l => (l.getD 3 [], l.getD 9 [])) = some ([0x5A], [0xC4]) := by decide +kernel

/-- The two paths from slate 0 to slate 2 on an SV8-8 in The switch core: the flow key, the hash, and the hops under either
seed. -/
theorem test_flow_paths :
    flowKey 3 0 2 0 0x40013 = 0x40013083 ∧ flowHash 0x40013083 0 = 0x7082 ∧ flowHash 0x40013083 1 = 0x7083 ∧
    (pathFor 8 0 2 0x7082 (fun _ _ => true)).map (fun p => p.1.map fun h => linkNeigh 8 h.1 h.2) = some [1, 2] ∧
    (pathFor 8 0 2 0x7083 (fun _ _ => true)).map (fun p => p.1.map fun h => linkNeigh 8 h.1 h.2) = some [3, 2] := by decide +kernel

/-- Sizes and times of Scheduling's mixed-load example: 66 cells and 34, 83.30 ns at 800 Gbit/s. -/
theorem test_frame_sizes : cellsOf 8310 = 66 ∧ cellsOf 4214 = 34 ∧ txPs (unit 8) 2 0 8310 = 83300 ∧ txPs (unit 8) 2 0 4214 = 42340 := by
  decide +kernel

/-- The gate list installed after its base has passed, in Scheduling: a class 2 frame that takes 169.36 ns is not started at
5 000 809 900, and is at 5 000 900 000. -/
def exampleList : GateList := { entries := [(0x84, 10000), (0x8A, 90000)], cycle := 100000, start := 5000800000 }

def gateState : State := { unit 8 with gates := [(0, { oper := some exampleList, pend := none, entry := 0 })] }

theorem test_gate_window : gateOpen gateState 0 0 2 5000809900 169360 = false ∧ gateOpen gateState 0 0 2 5000900000 169360 = true := by
  decide +kernel

theorem test_gate_start : (gatesOf (installGates (F1 (F1 (at_ (unit 8) 5000731450) 0 F.SCHED.BASE 5000000000) 0 F.SCHED.CYCLE 100000) 0) 0).pend.map
    (·.start) = some 5000800000 := by decide +kernel

/-- The first record of the counter ring of Performance counters lies at 0x65_BFF0_0000. -/
theorem test_ring_address : memAddr 3 0x5BFF00000 = 0x65BFF00000 ∧ memHome 0x65BFF00000 = 3 := by decide +kernel

/-! ### A test vector of SP 800-38D -/

/-- AES-256-GCM with a key and an IV of zeros over nothing gives this tag. -/
theorem test_gcm : gcmSeal [0, 0, 0, 0] (List.replicate 12 0) [] [] =
    [0x53, 0x0F, 0x8A, 0xFB, 0xC7, 0x45, 0x36, 0xB9, 0xA9, 0x63, 0xB4, 0xF1, 0xC4, 0xCB, 0x73, 0x8B] := by decide +kernel

/-- AES-256 of FIPS 197: the example block under the example key. -/
theorem test_aes : aesBlock (aesKeys ((List.range 32).map fun i => BitVec.ofNat 8 i)) ((List.range 16).map fun i => BitVec.ofNat 8 (i * 17)) =
    [0x8E, 0xA2, 0xB7, 0xCA, 0x51, 0x67, 0x45, 0xBF, 0xEA, 0xFC, 0x49, 0x90, 0x4B, 0x49, 0x60, 0x89] := by decide +kernel

/-! ### Witnesses -/

/-- Each hypothesis of StepRunsFront is met. -/
theorem witness_StepRunsFront : ∃ s : State, s.pending = [] := ⟨State.reset, rfl⟩

/-- Each hypothesis of EveryCommandAnswers is met. -/
theorem witness_EveryCommandAnswers : ∃ (c : Instr) (s : State), s.n = 8 ∧ c.wellFormed = true :=
  ⟨.glDisable 0 0, unit 8, by decide +kernel, by decide +kernel⟩

/-- Each hypothesis of StepKeepsInvariant is met, memory not empty. -/
theorem witness_StepKeepsInvariant : ∃ s t : State, Variant s ∧ Memory.wf s ∧ s.hbm ≠ [] ∧ step s = .next t :=
  ⟨{ unit 2 with hbm := [(4, 1), (9, 2)], pending := [.hbmScrub 0] }, _, .inl (by decide +kernel), by decide +kernel,
    by decide +kernel, rfl⟩

/-- Each hypothesis of NothingMovesWithoutPower is met. -/
theorem witness_NothingMovesWithoutPower : (∃ s : State, (s.mod.power ≠ .running ∨ s.mod.vcoLost = true) ∧
    (∃ c, ofSequencer c = false) ∧ s.pending = []) ∧ ∃ s : State, s.mod.power = .running ∧ s.mod.vcoLost = true :=
  ⟨⟨State.reset, by decide +kernel, ⟨.glDisable 0 0, by decide +kernel⟩, by decide +kernel⟩,
   { unit 2 with mod := { (unit 2).mod with vcoLost := true } }, by decide +kernel, by decide +kernel⟩

/-- Each hypothesis of OrturDecodeEncode is met. -/
theorem witness_OrturDecodeEncode :
    (∃ (i : Instr) (t : Thread) (w : InsnWord) (x : Option InsnWord), encodeInsn i = some (w, x) ∧ insnThread i = some t) ∧
    (∃ (t : Thread) (w x : InsnWord) (i : Instr), decodeInsn t w x = some i) :=
  ⟨⟨.done { t := thr, d := 0, a := 0, b := 0, minor := 0 }, thr, _, _, rfl, rfl⟩, ⟨thr, 0x04A00044, 0, _, rfl⟩⟩

/-- Each hypothesis of RegisterAndMemoryFrames is met. -/
theorem witness_RegisterAndMemoryFrames :
    (∃ (s u : State) (id : Nat) (j : Job) (o : R3), Issues s o.t id j 1 ∧ Uncounted s o.t.slate ∧
      exec (.sub o) s = .next u ∧ ∃ j', jobOf u id = some j' ∧ j'.ended = none) ∧
    (∃ (c : Instr) (s u : State), touchesMemory c = false ∧ (∀ t, insnThread c = some t → Uncounted s t.slate) ∧
      exec c s = .next u ∧ s.hbm ≠ []) :=
  ⟨⟨withJob (unit 2) jobA, _, 9, jobA, { t := thr, d := 5, a := 1, b := 2 }, issues_of (by decide +kernel),
      uncounted_of (by decide +kernel), rfl, _, got (by decide +kernel), by decide +kernel⟩,
   ⟨.hbmScrub 0, { unit 2 with hbm := [(4, 1)] }, _, by decide +kernel, (fun _ h => nomatch h), rfl, by decide +kernel⟩⟩

namespace ArithmeticResult

def R (g : List (Nat × Nat)) : Tab Word := (g.filter fun p => p.2 != 0).map fun p => (p.1, BitVec.ofNat 64 p.2)

def jr (g : List (Nat × Nat)) : Job := { jobA with g := R g }

def st (j : Job) : State := at_ (withJob (unit 2) j) 700

/-- Each hypothesis of ArithmeticResult is met. -/
theorem witness_ArithmeticResult :
    (∃ (s : State) (t : Thread) (id : Nat) (j : Job) (src : Src), Issues s t id j (srcLen src) ∧ srcOk src = true) ∧
    (∃ (s : State) (t : Thread) (id : Nat) (j : Job), Issues s t id j 1) ∧
    (∃ (s : State) (t : Thread) (id : Nat) (j : Job), Issues s t id j 1) :=
  ⟨⟨st (jr [(1,3),(5,2^64-1),(31,7)]), thr, 9, (jobOf (st (jr [(1,3),(5,2^64-1),(31,7)])) 9).getD jobA, .reg 5,
     issues_of (by decide +kernel), by decide +kernel⟩,
   ⟨st (jr [(1,3),(5,2^64-1),(31,7)]), thr, 9, (jobOf (st (jr [(1,3),(5,2^64-1),(31,7)])) 9).getD jobA, issues_of (by decide +kernel)⟩,
   ⟨st (jr [(1,3),(5,2^64-1),(31,7)]), thr, 9, (jobOf (st (jr [(1,3),(5,2^64-1),(31,7)])) 9).getD jobA, issues_of (by decide +kernel)⟩⟩

end ArithmeticResult

namespace LogicAndShiftResult

def R (g : List (Nat × Nat)) : Tab Word := (g.filter fun p => p.2 != 0).map fun p => (p.1, BitVec.ofNat 64 p.2)

def jr (g : List (Nat × Nat)) : Job := { jobA with g := R g }

def st (j : Job) : State := at_ (withJob (unit 2) j) 700

/-- Each hypothesis of LogicAndShiftResult is met. -/
theorem witness_LogicAndShiftResult :
    (∃ (s : State) (t : Thread) (id : Nat) (j : Job) (src : Src), Issues s t id j (srcLen src) ∧ srcOk src = true) ∧
    (∃ (s : State) (t : Thread) (id : Nat) (j : Job) (cnt : Count), Issues s t id j 1 ∧ (∀ v : BitVec 16, cnt = .imm v → v.toNat < 64)) :=
  ⟨⟨st (jr [(1,3),(5,2^64-1),(31,7)]), thr, 9, (jobOf (st (jr [(1,3),(5,2^64-1),(31,7)])) 9).getD jobA, .reg 5,
     issues_of (by decide +kernel), by decide +kernel⟩,
   ⟨st (jr [(1,3),(5,2^64-1),(31,7)]), thr, 9, (jobOf (st (jr [(1,3),(5,2^64-1),(31,7)])) 9).getD jobA, .reg 5,
     issues_of (by decide +kernel), (fun v h => nomatch h)⟩⟩

end LogicAndShiftResult

namespace BranchesAndConditions

def R (g : List (Nat × Nat)) : Tab Word := (g.filter fun p => p.2 != 0).map fun p => (p.1, BitVec.ofNat 64 p.2)

def jr (g : List (Nat × Nat)) : Job := { jobA with g := R g }

def st (j : Job) : State := at_ (withJob (unit 2) j) 700

/-- Each hypothesis of BranchesAndConditions is met. -/
theorem witness_BranchesAndConditions :
    (∃ (s : State) (t : Thread) (id : Nat) (j : Job) (off : Imm), Issues s t id j (immLen off) ∧ immOk off = true ∧
      let o : Word := match off with | .short v => v.signExtend 64 | .long _ v => v.signExtend 64
      let w := (BitVec.ofNat 64 j.pc + o).toNat
      let good (w : Nat) : Prop := w < progLen s j ∧ isExtWord s j w = false
      good w) ∧
    (∃ (s : State) (t : Thread) (id : Nat) (j : Job) (off : Imm), Issues s t id j (immLen off) ∧ immOk off = true ∧
      let o : Word := match off with | .short v => v.signExtend 64 | .long _ v => v.signExtend 64
      let w := (BitVec.ofNat 64 j.pc + o).toNat
      let good (w : Nat) : Prop := w < progLen s j ∧ isExtWord s j w = false
      ¬ good w) ∧
    (∃ (s : State) (t : Thread) (id : Nat) (j : Job) (off : Imm), Issues s t id j (immLen off) ∧ immOk off = true ∧
      let o : Word := match off with | .short v => v.signExtend 64 | .long _ v => v.signExtend 64
      let w := (BitVec.ofNat 64 j.pc + o).toNat
      let good (w : Nat) : Prop := w < progLen s j ∧ isExtWord s j w = false
      ∃ (c : Reg), c.toNat < 14 ∧ condTaken j c = true ∧ good w) ∧
    (∃ (s : State) (t : Thread) (id : Nat) (j : Job) (off : Imm), Issues s t id j (immLen off) ∧ immOk off = true ∧
      let o : Word := match off with | .short v => v.signExtend 64 | .long _ v => v.signExtend 64
      let w := (BitVec.ofNat 64 j.pc + o).toNat
      let good (w : Nat) : Prop := w < progLen s j ∧ isExtWord s j w = false
      ∃ (c : Reg), c.toNat < 14 ∧ condTaken j c = true ∧ ¬ good w) ∧
    (∃ (s : State) (t : Thread) (id : Nat) (j : Job) (off : Imm), Issues s t id j (immLen off) ∧ immOk off = true ∧ ∃ (c : Reg), c.toNat
      < 14 ∧ condTaken j c = false) ∧
    (∃ (s : State) (t : Thread) (id : Nat) (j : Job) (off : Imm), Issues s t id j (immLen off) ∧ immOk off = true ∧ ∃ (c : Reg), 14 ≤
      c.toNat) ∧
    (∃ (s : State) (t : Thread) (id : Nat) (j : Job) (off : Imm), Issues s t id j (immLen off) ∧ immOk off = true ∧
      let o : Word := match off with | .short v => v.signExtend 64 | .long _ v => v.signExtend 64
      let w := (BitVec.ofNat 64 j.pc + o).toNat
      let len := immLen off
      let good (w : Nat) : Prop := w < progLen s j ∧ isExtWord s j w = false
      len = 1 ∧
      let v := (rd j 31).toNat
      good v) ∧
    (∃ (s : State) (t : Thread) (id : Nat) (j : Job) (off : Imm), Issues s t id j (immLen off) ∧ immOk off = true ∧
      let o : Word := match off with | .short v => v.signExtend 64 | .long _ v => v.signExtend 64
      let w := (BitVec.ofNat 64 j.pc + o).toNat
      let len := immLen off
      let good (w : Nat) : Prop := w < progLen s j ∧ isExtWord s j w = false
      len = 1 ∧
      let v := (rd j 31).toNat
      ¬ good v) :=
  ⟨⟨st (jr [(31,7)]), thr, 9, (jobOf (st (jr [(31,7)])) 9).getD jobA, .short 3, issues_of (by decide +kernel), by decide +kernel,
     by dsimp only; decide +kernel⟩,
   ⟨st (jr [(31,7)]), thr, 9, (jobOf (st (jr [(31,7)])) 9).getD jobA, .short 0xFFFF, issues_of (by decide +kernel), by decide +kernel,
     by dsimp only; decide +kernel⟩,
   ⟨st (jr [(31,7)]), thr, 9, (jobOf (st (jr [(31,7)])) 9).getD jobA, .short 3, issues_of (by decide +kernel), by decide +kernel, 1,
     by decide +kernel, by decide +kernel, by decide +kernel⟩,
   ⟨st (jr [(31,7)]), thr, 9, (jobOf (st (jr [(31,7)])) 9).getD jobA, .short 0xFFFF, issues_of (by decide +kernel), by decide +kernel,
     1, by decide +kernel, by decide +kernel, by decide +kernel⟩,
   ⟨st (jr [(31,7)]), thr, 9, (jobOf (st (jr [(31,7)])) 9).getD jobA, .short 3, issues_of (by decide +kernel), by decide +kernel, 0,
     by decide +kernel, by decide +kernel⟩,
   ⟨st (jr [(31,7)]), thr, 9, (jobOf (st (jr [(31,7)])) 9).getD jobA, .short 3, issues_of (by decide +kernel), by decide +kernel, 14,
     by decide +kernel⟩,
   ⟨st (jr [(31,7)]), thr, 9, (jobOf (st (jr [(31,7)])) 9).getD jobA, .short 3, issues_of (by decide +kernel), by decide +kernel,
     by decide +kernel, by dsimp only; decide +kernel⟩,
   ⟨st (jr [(31,8)]), thr, 9, (jobOf (st (jr [(31,8)])) 9).getD jobA, .short 3, issues_of (by decide +kernel), by decide +kernel,
     by decide +kernel, by dsimp only; decide +kernel⟩⟩

/-- The hypotheses of BranchesAndConditions' first half: the flags after comparing equal operands. -/
theorem witness_BranchesAndConditions_flags : ∃ (j : Job) (x y : Word), j.z = (x == y) ∧ j.n = (x - y).msb ∧
    j.c = decide (y.toNat ≤ x.toNat) ∧ j.v = decide ((x - y).toInt ≠ x.toInt - y.toInt) :=
  ⟨{ jobA with z := true, c := true }, 0, 0, by decide +kernel, by decide +kernel, (by decide +kernel), by decide +kernel⟩

end BranchesAndConditions

namespace ScratchEffect

def R (g : List (Nat × Nat)) : Tab Word := (g.filter fun p => p.2 != 0).map fun p => (p.1, BitVec.ofNat 64 p.2)

def jr (g : List (Nat × Nat)) : Job := { jobA with g := R g }

def st (j : Job) : State := at_ (withJob (unit 2) j) 700

/-- Each hypothesis of ScratchEffect is met. -/
theorem witness_ScratchEffect :
    (∃ (s : State) (t : Thread) (id : Nat) (j : Job) (a : Reg) (imm : BitVec 16), Issues s t id j 1 ∧
      let x := (rd j a + imm.signExtend 64).toNat
      ∃ size ∈ [1, 2, 4, 8], 0x1000 < x + size) ∧
    (∃ (s : State) (t : Thread) (id : Nat) (j : Job) (a : Reg) (imm : BitVec 16), Issues s t id j 1 ∧
      let x := (rd j a + imm.signExtend 64).toNat
      ∃ size ∈ [1, 2, 4, 8], x + size ≤ 0x1000 ∧ x % size ≠ 0) ∧
    (∃ (s : State) (t : Thread) (id : Nat) (j : Job) (a : Reg) (imm : BitVec 16), Issues s t id j 1 ∧
      let x := (rd j a + imm.signExtend 64).toNat
      ∃ size ∈ [1, 2, 4, 8], x + size ≤ 0x1000 ∧ x % size = 0) :=
  ⟨⟨st (jr [(1,0x0FF8),(5,0x1234)]), thr, 9, (jobOf (st (jr [(1,0x0FF8),(5,0x1234)])) 9).getD jobA, 0, 0xFFF8,
     issues_of (by decide +kernel), _, .head _, by decide +kernel⟩,
   ⟨st (jr [(1,0x0FF8),(5,0x1234)]), thr, 9, (jobOf (st (jr [(1,0x0FF8),(5,0x1234)])) 9).getD jobA, 0, 1, issues_of (by decide +kernel),
     _, .tail _ (.head _), by decide +kernel, by decide +kernel⟩,
   ⟨st (jr [(1,0x0FF8),(5,0x1234)]), thr, 9, (jobOf (st (jr [(1,0x0FF8),(5,0x1234)])) 9).getD jobA, 0, 0, issues_of (by decide +kernel),
     _, .head _, by decide +kernel, by decide +kernel⟩⟩

end ScratchEffect

namespace MemoryEffect

def R (g : List (Nat × Nat)) : Tab Word := (g.filter fun p => p.2 != 0).map fun p => (p.1, BitVec.ofNat 64 p.2)

def jr (g : List (Nat × Nat)) : Job := { jobA with g := R g }

def st (j : Job) : State := at_ (withJob (unit 2) j) 700

def hp (j : Job) : State := F1 (F1 (F1 (F1 (st j) 0 F.ENGINE.HEAP_BASE 1) 0 F.ENGINE.HEAP_LIMIT 2) 1 F.ENGINE.HEAP_BASE 0) 1 F.ENGINE.HEAP_LIMIT 1

def mm (s : State) : State := { s with hbm := [(0x100000, 5), (0x100003, 9), (0x1FFFFF, 3), (2^37, 7)] }

def kp (j : Job) : Job := { j with keep := true }

/-- Each hypothesis of MemoryEffect is met. -/
theorem witness_MemoryEffect :
    (∃ (s : State) (t : Thread) (id : Nat) (j : Job) (a : Reg) (b : Reg) (m : BitVec 11), Issues s t id j 1 ∧ Uncounted s t.slate ∧
      m.toNat < 4 ∧
      let x := (rd j a + rd j b).toNat
      let home := x / 2 ^ 37 % 8
      let off := x % 2 ^ 37
      let valid : Prop := home < s.n ∧ off < 24 * 2 ^ 30 ∧ x < 2 ^ 40
      ¬ valid) ∧
    (∃ (s : State) (t : Thread) (id : Nat) (j : Job) (a : Reg) (m : BitVec 11), Issues s t id j 1 ∧ Uncounted s t.slate ∧ m.toNat < 4 ∧
      (s.n * 2 ^ 37 ≤ (rd j a).toNat ∨ 24 * 2 ^ 30 ≤ (rd j a).toNat % 2 ^ 37)) ∧
    (∃ (s : State) (t : Thread) (id : Nat) (j : Job) (a : Reg) (b : Reg) (m : BitVec 11), Issues s t id j 1 ∧ Uncounted s t.slate ∧
      m.toNat < 4 ∧
      let size := 2 ^ m.toNat
      let x := (rd j a + rd j b).toNat
      let home := x / 2 ^ 37 % 8
      let off := x % 2 ^ 37
      let valid : Prop := home < s.n ∧ off < 24 * 2 ^ 30 ∧ x < 2 ^ 40
      let region : Prop := if j.keep then off + size ≤ 0x5C0000000 else getF s home F.ENGINE.HEAP_BASE * 2 ^ 20 ≤ off ∧ off + size ≤
        getF s home F.ENGINE.HEAP_LIMIT * 2 ^ 20
      valid ∧ ¬ region) ∧
    (∃ (s : State) (t : Thread) (id : Nat) (j : Job) (a : Reg) (b : Reg) (m : BitVec 11), Issues s t id j 1 ∧ Uncounted s t.slate ∧
      m.toNat < 4 ∧
      let size := 2 ^ m.toNat
      let x := (rd j a + rd j b).toNat
      let home := x / 2 ^ 37 % 8
      let off := x % 2 ^ 37
      let valid : Prop := home < s.n ∧ off < 24 * 2 ^ 30 ∧ x < 2 ^ 40
      let region : Prop := if j.keep then off + size ≤ 0x5C0000000 else getF s home F.ENGINE.HEAP_BASE * 2 ^ 20 ≤ off ∧ off + size ≤
        getF s home F.ENGINE.HEAP_LIMIT * 2 ^ 20
      valid ∧ region ∧ x % size ≠ 0) ∧
    (∃ (s : State) (t : Thread) (id : Nat) (j : Job) (d : Reg) (a : Reg) (b : Reg) (m : BitVec 11), Issues s t id j 1 ∧ Uncounted s
      t.slate ∧ m.toNat < 4 ∧
      let size := 2 ^ m.toNat
      let x := (rd j a + rd j b).toNat
      let home := x / 2 ^ 37 % 8
      let off := x % 2 ^ 37
      let valid : Prop := home < s.n ∧ off < 24 * 2 ^ 30 ∧ x < 2 ^ 40
      let region : Prop := if j.keep then off + size ≤ 0x5C0000000 else getF s home F.ENGINE.HEAP_BASE * 2 ^ 20 ≤ off ∧ off + size ≤
        getF s home F.ENGINE.HEAP_LIMIT * 2 ^ 20
      let o : RForm := { t := t, d := d, a := a, b := b, minor := m }
      valid ∧ region ∧ x % size = 0 ∧ tabHas s.lost home = false ∧ poisoned s x size = false ∧ ∃ u, exec (.ldx o) s = .next u) ∧
    (∃ (s : State) (t : Thread) (id : Nat) (j : Job) (d : Reg) (a : Reg) (b : Reg) (m : BitVec 11), Issues s t id j 1 ∧ Uncounted s
      t.slate ∧ m.toNat < 4 ∧
      let size := 2 ^ m.toNat
      let x := (rd j a + rd j b).toNat
      let home := x / 2 ^ 37 % 8
      let off := x % 2 ^ 37
      let valid : Prop := home < s.n ∧ off < 24 * 2 ^ 30 ∧ x < 2 ^ 40
      let region : Prop := if j.keep then off + size ≤ 0x5C0000000 else getF s home F.ENGINE.HEAP_BASE * 2 ^ 20 ≤ off ∧ off + size ≤
        getF s home F.ENGINE.HEAP_LIMIT * 2 ^ 20
      let o : RForm := { t := t, d := d, a := a, b := b, minor := m }
      valid ∧ region ∧ x % size = 0 ∧ tabHas s.lost home = false ∧ poisoned s x size = false ∧ ∃ u, exec (.stx o) s = .next u ∧ ∃ y, (y
        < x ∨ x + size ≤ y)) :=
  ⟨⟨hp (jr [(1,2^37),(5,0xFFFF8)]), thr, 9, (jobOf (hp (jr [(1,2^37),(5,0xFFFF8)])) 9).getD jobA, 1, 1, 0,
     issues_of (by decide +kernel), uncounted_of (by decide +kernel), by decide +kernel, by dsimp only; decide +kernel⟩,
   ⟨hp (kp (jr [(1,2^38)])), thr, 9, (jobOf (hp (kp (jr [(1,2^38)]))) 9).getD jobA, 1, 0, issues_of (by decide +kernel),
     uncounted_of (by decide +kernel), by decide +kernel, by decide +kernel⟩,
   ⟨mm (hp (jr [(1,0x100000),(5,0)])), thr, 9, (jobOf (mm (hp (jr [(1,0x100000),(5,0)]))) 9).getD jobA, 0, 0, 0,
     issues_of (by decide +kernel), uncounted_of (by decide +kernel), by decide +kernel, by decide +kernel, by decide +kernel⟩,
   ⟨mm (hp (jr [(1,0x100000),(5,3)])), thr, 9, (jobOf (mm (hp (jr [(1,0x100000),(5,3)]))) 9).getD jobA, 1, 5, 1,
     issues_of (by decide +kernel), uncounted_of (by decide +kernel), by decide +kernel, by decide +kernel, (by decide +kernel),
     by decide +kernel⟩,
   ⟨mm (hp (jr [(1,0x100000),(5,0)])), thr, 9, (jobOf (mm (hp (jr [(1,0x100000),(5,0)]))) 9).getD jobA, 0, 0, 1, 0,
     issues_of (by decide +kernel), uncounted_of (by decide +kernel), by decide +kernel, by decide +kernel, (by decide +kernel),
     by decide +kernel, by decide +kernel, (by decide +kernel), _, rfl⟩,
   ⟨mm (hp (jr [(1,0x100000),(5,0)])), thr, 9, (jobOf (mm (hp (jr [(1,0x100000),(5,0)]))) 9).getD jobA, 0, 0, 1, 0,
     issues_of (by decide +kernel), uncounted_of (by decide +kernel), by decide +kernel, by decide +kernel, (by decide +kernel),
     by decide +kernel, by decide +kernel, (by decide +kernel), _, rfl, 9, by decide +kernel⟩⟩

end MemoryEffect

namespace AtomicEffect

def R (g : List (Nat × Nat)) : Tab Word := (g.filter fun p => p.2 != 0).map fun p => (p.1, BitVec.ofNat 64 p.2)

def jr (g : List (Nat × Nat)) : Job := { jobA with g := R g }

def st (j : Job) : State := at_ (withJob (unit 2) j) 700

def hp (j : Job) : State := F1 (F1 (F1 (F1 (st j) 0 F.ENGINE.HEAP_BASE 1) 0 F.ENGINE.HEAP_LIMIT 2) 1 F.ENGINE.HEAP_BASE 0) 1 F.ENGINE.HEAP_LIMIT 1

def mm (s : State) : State := { s with hbm := [(0x100000, 5), (0x100003, 9), (0x1FFFFF, 3), (2^37, 7)] }

/-- Each hypothesis of AtomicEffect is met. -/
theorem witness_AtomicEffect :
    (∃ (s : State) (t : Thread) (id : Nat) (j : Job) (d : Reg) (a : Reg) (b : Reg), Issues s t id j 1 ∧ Uncounted s t.slate ∧
      let x := (rd j a).toNat
      let home := x / 2 ^ 37 % 8
      let off := x % 2 ^ 37
      let region : Prop := if j.keep then off + 8 ≤ 0x5C0000000 else getF s home F.ENGINE.HEAP_BASE * 2 ^ 20 ≤ off ∧ off + 8 ≤ getF s
        home F.ENGINE.HEAP_LIMIT * 2 ^ 20
      let o : R3 := { t := t, d := d, a := a, b := b }
      home < s.n ∧ off < 24 * 2 ^ 30 ∧ x < 2 ^ 40 ∧ region ∧ x % 8 = 0 ∧ tabHas s.lost home = false ∧ poisoned s x 8 = false ∧ ∃ u, exec
        (.aadd o) s = .next u ∧ ∃ y, (y < x ∨ x + 8 ≤ y)) ∧
    (∃ (s : State) (t : Thread) (id : Nat) (j : Job) (d : Reg) (a : Reg) (b : Reg), Issues s t id j 1 ∧ Uncounted s t.slate ∧
      let x := (rd j a).toNat
      let home := x / 2 ^ 37 % 8
      let off := x % 2 ^ 37
      let region : Prop := if j.keep then off + 8 ≤ 0x5C0000000 else getF s home F.ENGINE.HEAP_BASE * 2 ^ 20 ≤ off ∧ off + 8 ≤ getF s
        home F.ENGINE.HEAP_LIMIT * 2 ^ 20
      let o : R3 := { t := t, d := d, a := a, b := b }
      home < s.n ∧ off < 24 * 2 ^ 30 ∧ x < 2 ^ 40 ∧ region ∧ x % 8 = 0 ∧ tabHas s.lost home = false ∧ poisoned s x 8 = false ∧ ∃ u, exec
        (.acas o) s = .next u ∧ ∃ y, (y < x ∨ x + 8 ≤ y)) :=
  ⟨⟨mm (hp (jr [(1,0x100000),(5,0)])), thr, 9, (jobOf (mm (hp (jr [(1,0x100000),(5,0)]))) 9).getD jobA, 0, 1, 0,
     issues_of (by decide +kernel), uncounted_of (by decide +kernel), by decide +kernel, by decide +kernel, (by decide +kernel),
     by decide +kernel, by decide +kernel, (by decide +kernel), by decide +kernel, _, rfl, 9, by decide +kernel⟩,
   ⟨mm (hp (jr [(1,0x100000),(5,0)])), thr, 9, (jobOf (mm (hp (jr [(1,0x100000),(5,0)]))) 9).getD jobA, 0, 1, 0,
     issues_of (by decide +kernel), uncounted_of (by decide +kernel), by decide +kernel, by decide +kernel, (by decide +kernel),
     by decide +kernel, by decide +kernel, (by decide +kernel), by decide +kernel, _, rfl, 9, by decide +kernel⟩⟩

end AtomicEffect

namespace PoisonEffect

def R (g : List (Nat × Nat)) : Tab Word := (g.filter fun p => p.2 != 0).map fun p => (p.1, BitVec.ofNat 64 p.2)

def jr (g : List (Nat × Nat)) : Job := { jobA with g := R g }

def st (j : Job) : State := at_ (withJob (unit 2) j) 700

def hp (j : Job) : State := F1 (F1 (F1 (F1 (st j) 0 F.ENGINE.HEAP_BASE 1) 0 F.ENGINE.HEAP_LIMIT 2) 1 F.ENGINE.HEAP_BASE 0) 1 F.ENGINE.HEAP_LIMIT 1

def mm (s : State) : State := { s with hbm := [(0x100000, 5), (0x100003, 9), (0x1FFFFF, 3), (2^37, 7)] }

def kp (j : Job) : Job := { j with keep := true }

def ps (j : Job) : State := { mm (hp j) with poison := [0x100000] }

/-- Each hypothesis of PoisonEffect is met. -/
theorem witness_PoisonEffect :
    (∃ (s : State) (t : Thread) (id : Nat) (j : Job) (a : Reg) (b : Reg) (m : BitVec 11), Issues s t id j 1 ∧ Uncounted s t.slate ∧
      j.keep = true ∧ m.toNat < 4 ∧
      let size := 2 ^ m.toNat
      let x := (rd j a + rd j b).toNat
      x / 2 ^ 37 % 8 < s.n ∧ x % 2 ^ 37 + size ≤ 0x5C0000000 ∧ x < 2 ^ 40 ∧ x % size = 0 ∧ tabHas s.lost (x / 2 ^ 37 % 8) = false ∧
        poisoned s x size = true ∧ size < 8) ∧
    (∃ (s : State) (t : Thread) (id : Nat) (j : Job) (a : Reg) (b : Reg) (m : BitVec 11), Issues s t id j 1 ∧ Uncounted s t.slate ∧
      j.keep = true ∧ m.toNat < 4 ∧
      let size := 2 ^ m.toNat
      let x := (rd j a + rd j b).toNat
      x / 2 ^ 37 % 8 < s.n ∧ x % 2 ^ 37 + size ≤ 0x5C0000000 ∧ x < 2 ^ 40 ∧ x % size = 0 ∧ tabHas s.lost (x / 2 ^ 37 % 8) = false ∧
        poisoned s x size = true ∧ size = 8 ∧ (∀ p ∈ s.poison, p % 8 = 0)) ∧
    (∃ (s : State) (t : Thread) (id : Nat) (j : Job) (a : Reg) (m : BitVec 11), Issues s t id j 1 ∧ Uncounted s t.slate ∧ j.keep = true
      ∧ m.toNat < 4 ∧
      let w := (rd j a).toNat
      w / 2 ^ 37 % 8 < s.n ∧ w % 2 ^ 37 + 8 ≤ 0x5C0000000 ∧ w < 2 ^ 40 ∧ w % 8 = 0 ∧ tabHas s.lost (w / 2 ^ 37 % 8) = false ∧ poisoned s
        w 8 = true) :=
  ⟨⟨ps (kp (jr [(1,0x100000),(5,0)])), thr, 9, (jobOf (ps (kp (jr [(1,0x100000),(5,0)]))) 9).getD jobA, 0, 1, 0,
     issues_of (by decide +kernel), uncounted_of (by decide +kernel), by decide +kernel, by decide +kernel, (by decide +kernel),
     by decide +kernel, by decide +kernel, (by decide +kernel), by decide +kernel, by decide +kernel, by decide +kernel⟩,
   ⟨ps (kp (jr [(1,0x100000),(5,0)])), thr, 9, (jobOf (ps (kp (jr [(1,0x100000),(5,0)]))) 9).getD jobA, 0, 1, 3,
     issues_of (by decide +kernel), uncounted_of (by decide +kernel), by decide +kernel, by decide +kernel, (by decide +kernel),
     by decide +kernel, by decide +kernel, (by decide +kernel), by decide +kernel, by decide +kernel, (by decide +kernel),
     by decide +kernel⟩,
   ⟨ps (kp (jr [(1,0x100000),(5,0)])), thr, 9, (jobOf (ps (kp (jr [(1,0x100000),(5,0)]))) 9).getD jobA, 1, 0,
     issues_of (by decide +kernel), uncounted_of (by decide +kernel), by decide +kernel, by decide +kernel, (by decide +kernel),
     by decide +kernel, by decide +kernel, (by decide +kernel), by decide +kernel, by decide +kernel⟩⟩

end PoisonEffect

namespace BufferAndHandleEffect

def R (g : List (Nat × Nat)) : Tab Word := (g.filter fun p => p.2 != 0).map fun p => (p.1, BitVec.ofNat 64 p.2)

def jr (g : List (Nat × Nat)) : Job := { jobA with g := R g }

def st (j : Job) : State := at_ (withJob (unit 2) j) 700

def hd (b off len : Nat) (rw : Bool) (o : Origin) : Handle := { buf := b, off := off, len := len, rw := rw, origin := o }

def hs : Tab Handle := [(0, hd 0 4 64 true .h1), (1, hd 1 0 4096 false .other), (2, hd 1 8 4096 true .h2)]

def jb (g : List (Nat × Nat)) : Job := { jr g with h := hs }

def sb (j : Job) : State := { st j with buffers := [(0, { slate := 0, len := 8192, data := [(4, 1), (9, 2)], inbound := true, arrived := [(0, 40)] }), (1, { slate := 0, len := 8192, data := [(9, 7)], inbound := false, arrived := [] })], nextBuf := 2 }

/-- Each hypothesis of BufferAndHandleEffect (its clauses 1 to 7) is met. -/
theorem witness_BufferAndHandleEffect_1 :
    (∃ (s : State) (t : Thread) (id : Nat) (j : Job) (m : BitVec 11), Issues s t id j 1 ∧ m.toNat < 32 ∧
      let n := m.toNat / 4
      tabGet j.h n = none) ∧
    (∃ (s : State) (t : Thread) (id : Nat) (j : Job) (a : Reg) (m : BitVec 11), Issues s t id j 1 ∧ m.toNat < 32 ∧
      let size := 2 ^ (m.toNat % 4)
      let n := m.toNat / 4
      let x := (rd j a).toNat
      ∃ h, tabGet j.h n = some h ∧ h.len < x + size) ∧
    (∃ (s : State) (t : Thread) (id : Nat) (j : Job) (a : Reg) (m : BitVec 11), Issues s t id j 1 ∧ m.toNat < 32 ∧
      let size := 2 ^ (m.toNat % 4)
      let n := m.toNat / 4
      let x := (rd j a).toNat
      ∃ h, tabGet j.h n = some h ∧ x + size ≤ h.len ∧ h.rw = false) ∧
    (∃ (s : State) (t : Thread) (id : Nat) (j : Job) (a : Reg) (m : BitVec 11), Issues s t id j 1 ∧ m.toNat < 32 ∧
      let size := 2 ^ (m.toNat % 4)
      let n := m.toNat / 4
      let x := (rd j a).toNat
      ∃ h, tabGet j.h n = some h ∧ x + size ≤ h.len ∧ (h.off + x) % size ≠ 0 ∧ h.rw = true) ∧
    (∃ (s : State) (t : Thread) (id : Nat) (j : Job) (d : Reg) (a : Reg) (m : BitVec 11), Issues s t id j 1 ∧ m.toNat < 32 ∧
      let size := 2 ^ (m.toNat % 4)
      let n := m.toNat / 4
      let x := (rd j a).toNat
      let o : RForm := { t := t, d := d, a := a, b := 0, minor := m }
      ∃ h, tabGet j.h n = some h ∧ x + size ≤ h.len ∧ (h.off + x) % size = 0 ∧ h.rw = true ∧ ∃ u, exec (.bput o) s = .next u ∧ tabHas
        s.buffers h.buf = true ∧ ∃ y, (y < h.off + x ∨ h.off + x + size ≤ y)) ∧
    (∃ (s : State) (t : Thread) (id : Nat) (j : Job) (d : Reg) (a : Reg) (m : BitVec 11), Issues s t id j 1 ∧ m.toNat < 32 ∧
      let size := 2 ^ (m.toNat % 4)
      let n := m.toNat / 4
      let x := (rd j a).toNat
      let o : RForm := { t := t, d := d, a := a, b := 0, minor := m }
      ∃ h, tabGet j.h n = some h ∧ x + size ≤ h.len ∧ (h.off + x) % size = 0 ∧ h.rw = true ∧ ∃ u, exec (.bput o) s = .next u ∧ tabHas
        s.buffers h.buf = true ∧ ∃ b, b ≠ h.buf) ∧
    (∃ (s : State) (t : Thread) (id : Nat) (j : Job) (d : Reg) (low : BitVec 8), Issues s t id j 1 ∧ low.toNat < 16 ∧ d.toNat < 8 ∧
      tabGet j.h (low.toNat % 8) = none) :=
  ⟨⟨sb (jb [(1,4),(5,8)]), thr, 9, (jobOf (sb (jb [(1,4),(5,8)])) 9).getD jobA, 30, issues_of (by decide +kernel), by decide +kernel,
     by dsimp only; decide +kernel⟩,
   ⟨sb (jb [(1,60),(5,8)]), thr, 9, (jobOf (sb (jb [(1,60),(5,8)])) 9).getD jobA, 1, 3, issues_of (by decide +kernel),
     by decide +kernel, _, got (by decide +kernel), by decide +kernel⟩,
   ⟨sb (jb [(1,4),(5,8)]), thr, 9, (jobOf (sb (jb [(1,4),(5,8)])) 9).getD jobA, 0, 5, issues_of (by decide +kernel), by decide +kernel,
     _, got (by decide +kernel), by decide +kernel, by decide +kernel⟩,
   ⟨sb (jb [(1,4),(5,8)]), thr, 9, (jobOf (sb (jb [(1,4),(5,8)])) 9).getD jobA, 0, 3, issues_of (by decide +kernel), by decide +kernel,
     _, got (by decide +kernel), by decide +kernel, by decide +kernel, by decide +kernel⟩,
   ⟨sb (jb [(1,4),(5,8)]), thr, 9, (jobOf (sb (jb [(1,4),(5,8)])) 9).getD jobA, 0, 0, 0, issues_of (by decide +kernel),
     by decide +kernel, _, got (by decide +kernel), by decide +kernel, by decide +kernel, (by decide +kernel), _, rfl, by decide +kernel,
     9, by decide +kernel⟩,
   ⟨sb (jb [(1,4),(5,8)]), thr, 9, (jobOf (sb (jb [(1,4),(5,8)])) 9).getD jobA, 0, 0, 0, issues_of (by decide +kernel),
     by decide +kernel, _, got (by decide +kernel), by decide +kernel, by decide +kernel, (by decide +kernel), _, rfl, by decide +kernel,
     9, by decide +kernel⟩,
   ⟨sb (jb [(1,4),(5,8)]), thr, 9, (jobOf (sb (jb [(1,4),(5,8)])) 9).getD jobA, 0, 7, issues_of (by decide +kernel), by decide +kernel,
     by decide +kernel, by decide +kernel⟩⟩

/-- Each hypothesis of BufferAndHandleEffect (its clauses 8 to 13) is met. -/
theorem witness_BufferAndHandleEffect_2 :
    (∃ (s : State) (t : Thread) (id : Nat) (j : Job) (d : Reg) (a : Reg) (b : Reg) (low : BitVec 8), Issues s t id j 1 ∧
      let x := (rd j a).toNat
      let y := (rd j b).toNat
      low.toNat < 16 ∧ d.toNat < 8 ∧ ∃ h, tabGet j.h (low.toNat % 8) = some h ∧ h.len < x + y) ∧
    (∃ (s : State) (t : Thread) (id : Nat) (j : Job) (d : Reg) (a : Reg) (b : Reg) (low : BitVec 8), Issues s t id j 1 ∧
      let x := (rd j a).toNat
      let y := (rd j b).toNat
      low.toNat < 16 ∧ d.toNat < 8 ∧ ∃ h, tabGet j.h (low.toNat % 8) = some h ∧ x + y ≤ h.len) ∧
    (∃ (s : State) (t : Thread) (id : Nat) (j : Job) (low : BitVec 8), Issues s t id j 1 ∧ low.toNat < 8) ∧
    (∃ (s : State) (t : Thread) (id : Nat) (j : Job) (d : Reg) (a : Reg), Issues s t id j 1 ∧
      let x := (rd j a).toNat
      d.toNat < 8 ∧ (x = 0 ∨ 8 * 2 ^ 20 < x)) ∧
    (∃ (s : State) (t : Thread) (id : Nat) (j : Job) (d : Reg) (a : Reg), Issues s t id j 1 ∧
      let x := (rd j a).toNat
      d.toNat < 8 ∧ 0 < x ∧ x ≤ 8 * 2 ^ 20 ∧ 16 * 2 ^ 20 < j.hnew + x) ∧
    (∃ (s : State) (t : Thread) (id : Nat) (j : Job) (d : Reg) (a : Reg), Issues s t id j 1 ∧
      let x := (rd j a).toNat
      d.toNat < 8 ∧ 0 < x ∧ x ≤ 8 * 2 ^ 20 ∧ j.hnew + x ≤ 16 * 2 ^ 20) :=
  ⟨⟨sb (jb [(1,60),(5,8)]), thr, 9, (jobOf (sb (jb [(1,60),(5,8)])) 9).getD jobA, 0, 1, 1, 0, issues_of (by decide +kernel),
     by decide +kernel, by decide +kernel, _, got (by decide +kernel), by decide +kernel⟩,
   ⟨sb (jb [(1,4),(5,8)]), thr, 9, (jobOf (sb (jb [(1,4),(5,8)])) 9).getD jobA, 0, 0, 0, 0, issues_of (by decide +kernel),
     by decide +kernel, by decide +kernel, _, got (by decide +kernel), by decide +kernel⟩,
   ⟨sb (jb [(1,4),(5,8)]), thr, 9, (jobOf (sb (jb [(1,4),(5,8)])) 9).getD jobA, 0, issues_of (by decide +kernel), by decide +kernel⟩,
   ⟨sb (jb [(1,4),(5,8)]), thr, 9, (jobOf (sb (jb [(1,4),(5,8)])) 9).getD jobA, 0, 0, issues_of (by decide +kernel), by decide +kernel,
     by decide +kernel⟩,
   ⟨sb { jb [(1,100),(5,1)] with hnew := 16*2^20 }, thr, 9, (jobOf (sb { jb [(1,100),(5,1)] with hnew := 16*2^20 }) 9).getD jobA, 0, 1,
     issues_of (by decide +kernel), by decide +kernel, by decide +kernel, (by decide +kernel), by decide +kernel⟩,
   ⟨sb (jb [(1,4),(5,8)]), thr, 9, (jobOf (sb (jb [(1,4),(5,8)])) 9).getD jobA, 0, 1, issues_of (by decide +kernel), by decide +kernel,
     by decide +kernel, (by decide +kernel), by decide +kernel⟩⟩

end BufferAndHandleEffect

namespace PayloadEffect

def R (g : List (Nat × Nat)) : Tab Word := (g.filter fun p => p.2 != 0).map fun p => (p.1, BitVec.ofNat 64 p.2)

def jr (g : List (Nat × Nat)) : Job := { jobA with g := R g }

def st (j : Job) : State := at_ (withJob (unit 2) j) 700

def hd (b off len : Nat) (rw : Bool) (o : Origin) : Handle := { buf := b, off := off, len := len, rw := rw, origin := o }

def hs : Tab Handle := [(0, hd 0 4 64 true .h1), (1, hd 1 0 4096 false .other), (2, hd 1 8 4096 true .h2)]

def jb (g : List (Nat × Nat)) : Job := { jr g with h := hs }

def sb (j : Job) : State := { st j with buffers := [(0, { slate := 0, len := 8192, data := [(4, 1), (9, 2)], inbound := true, arrived := [(0, 40)] }), (1, { slate := 0, len := 8192, data := [(9, 7)], inbound := false, arrived := [] })], nextBuf := 2 }

/-- Each hypothesis of PayloadEffect is met. -/
theorem witness_PayloadEffect :
    (∃ (s : State) (t : Thread) (id : Nat) (j : Job) (m : BitVec 11), Issues s t id j 1 ∧ m.toNat < 8 ∧ tabGet j.h m.toNat = none) ∧
    (∃ (s : State) (t : Thread) (id : Nat) (j : Job) (a : Reg) (m : BitVec 11), Issues s t id j 1 ∧ m.toNat < 8 ∧
      let x := (rd j a).toNat
      ∃ h, tabGet j.h m.toNat = some h ∧ h.len < x) ∧
    (∃ (s : State) (t : Thread) (id : Nat) (j : Job) (a : Reg) (m : BitVec 11), Issues s t id j 1 ∧ m.toNat < 8 ∧
      let x := (rd j a).toNat
      ∃ h, tabGet j.h m.toNat = some h ∧ x ≤ h.len ∧ (h.origin ≠ .h1 ∨ arrived s h.buf h.off (h.off + x) = true)) ∧
    (∃ (s : State) (t : Thread) (id : Nat) (j : Job) (a : Reg) (m : BitVec 11), Issues s t id j 1 ∧ m.toNat < 8 ∧
      let x := (rd j a).toNat
      ∃ h, tabGet j.h m.toNat = some h ∧ x ≤ h.len ∧ h.origin = .h1 ∧ arrived s h.buf h.off (h.off + x) = false ∧ isHk j = false) ∧
    (∃ (s : State) (t : Thread) (id : Nat) (j : Job) (m : BitVec 11), Issues s t id j 1 ∧ m.toNat < 8 ∧ ∃ h, tabGet j.h m.toNat = some h
      ∧ h.origin ≠ .h2) ∧
    (∃ (s : State) (t : Thread) (id : Nat) (j : Job) (a : Reg) (b : Reg) (m : BitVec 11), Issues s t id j 1 ∧ m.toNat < 8 ∧
      let x := (rd j a).toNat
      let y := (rd j b).toNat
      ∃ h, tabGet j.h m.toNat = some h ∧ h.origin = .h2 ∧ h.len < x + y) ∧
    (∃ (s : State) (t : Thread) (id : Nat) (j : Job) (a : Reg) (b : Reg) (m : BitVec 11), Issues s t id j 1 ∧ m.toNat < 8 ∧
      let x := (rd j a).toNat
      let y := (rd j b).toNat
      ∃ h, tabGet j.h m.toNat = some h ∧ h.origin = .h2 ∧ x + y ≤ h.len) :=
  ⟨⟨sb (jb [(1,4),(5,8)]), thr, 9, (jobOf (sb (jb [(1,4),(5,8)])) 9).getD jobA, 5, issues_of (by decide +kernel), by decide +kernel,
     by decide +kernel⟩,
   ⟨sb (jb [(1,65),(5,4096)]), thr, 9, (jobOf (sb (jb [(1,65),(5,4096)])) 9).getD jobA, 1, 0, issues_of (by decide +kernel),
     by decide +kernel, _, got (by decide +kernel), by decide +kernel⟩,
   ⟨sb (jb [(1,4),(5,8)]), thr, 9, (jobOf (sb (jb [(1,4),(5,8)])) 9).getD jobA, 0, 0, issues_of (by decide +kernel), by decide +kernel,
     _, got (by decide +kernel), by decide +kernel, by decide +kernel⟩,
   ⟨sb (jb [(1,64),(5,8)]), thr, 9, (jobOf (sb (jb [(1,64),(5,8)])) 9).getD jobA, 1, 0, issues_of (by decide +kernel),
     by decide +kernel, _, got (by decide +kernel), by decide +kernel, by decide +kernel, (by decide +kernel), by decide +kernel⟩,
   ⟨sb (jb [(1,4),(5,8)]), thr, 9, (jobOf (sb (jb [(1,4),(5,8)])) 9).getD jobA, 0, issues_of (by decide +kernel), by decide +kernel, _,
     got (by decide +kernel), by decide +kernel⟩,
   ⟨sb (jb [(1,65),(5,4096)]), thr, 9, (jobOf (sb (jb [(1,65),(5,4096)])) 9).getD jobA, 1, 5, 2, issues_of (by decide +kernel),
     by decide +kernel, _, got (by decide +kernel), by decide +kernel, by decide +kernel⟩,
   ⟨sb (jb [(1,4),(5,8)]), thr, 9, (jobOf (sb (jb [(1,4),(5,8)])) 9).getD jobA, 0, 0, 2, issues_of (by decide +kernel),
     by decide +kernel, _, got (by decide +kernel), by decide +kernel, by decide +kernel⟩⟩

end PayloadEffect

namespace HashEffect

def R (g : List (Nat × Nat)) : Tab Word := (g.filter fun p => p.2 != 0).map fun p => (p.1, BitVec.ofNat 64 p.2)

def jr (g : List (Nat × Nat)) : Job := { jobA with g := R g }

def st (j : Job) : State := at_ (withJob (unit 2) j) 700

def hd (b off len : Nat) (rw : Bool) (o : Origin) : Handle := { buf := b, off := off, len := len, rw := rw, origin := o }

def hs : Tab Handle := [(0, hd 0 4 64 true .h1), (1, hd 1 0 4096 false .other), (2, hd 1 8 4096 true .h2)]

def jb (g : List (Nat × Nat)) : Job := { jr g with h := hs }

def sb (j : Job) : State := { st j with buffers := [(0, { slate := 0, len := 8192, data := [(4, 1), (9, 2)], inbound := true, arrived := [(0, 40)] }), (1, { slate := 0, len := 8192, data := [(9, 7)], inbound := false, arrived := [] })], nextBuf := 2 }

/-- Each hypothesis of HashEffect is met. -/
theorem witness_HashEffect :
    (∃ (s : State) (t : Thread) (id : Nat) (j : Job) (a : Reg) (b : Reg) (m : BitVec 11), Issues s t id j 1 ∧
      let x := (rd j a).toNat
      let y := (rd j b).toNat
      let fresh (scr : Tab Byte) : Tab Byte := if m.toNat / 8 % 2 = 1 ∨ kecSqueezing scr = true then bytesPut scr 0xF00 (List.replicate
        208 0) else scr
      leNat (bytesOf (fresh j.scr) 0xFC8 1) < 136 ∧ (m.toNat = 16 ∨ m.toNat = 24) ∧ 0xF00 < x + y) ∧
    (∃ (s : State) (t : Thread) (id : Nat) (j : Job) (a : Reg) (b : Reg) (m : BitVec 11), Issues s t id j 1 ∧
      let x := (rd j a).toNat
      let y := (rd j b).toNat
      let fresh (scr : Tab Byte) : Tab Byte := if m.toNat / 8 % 2 = 1 ∨ kecSqueezing scr = true then bytesPut scr 0xF00 (List.replicate
        208 0) else scr
      leNat (bytesOf (fresh j.scr) 0xFC8 1) < 136 ∧ (m.toNat = 16 ∨ m.toNat = 24) ∧ x + y ≤ 0xF00) ∧
    (∃ (s : State) (t : Thread) (id : Nat) (j : Job) (m : BitVec 11), Issues s t id j 1 ∧
      let fresh (scr : Tab Byte) : Tab Byte := if m.toNat / 8 % 2 = 1 ∨ kecSqueezing scr = true then bytesPut scr 0xF00 (List.replicate
        208 0) else scr
      leNat (bytesOf (fresh j.scr) 0xFC8 1) < 136 ∧ m.toNat < 16 ∧ tabGet j.h (m.toNat % 8) = none) ∧
    (∃ (s : State) (t : Thread) (id : Nat) (j : Job) (a : Reg) (b : Reg) (m : BitVec 11), Issues s t id j 1 ∧
      let x := (rd j a).toNat
      let y := (rd j b).toNat
      let fresh (scr : Tab Byte) : Tab Byte := if m.toNat / 8 % 2 = 1 ∨ kecSqueezing scr = true then bytesPut scr 0xF00 (List.replicate
        208 0) else scr
      leNat (bytesOf (fresh j.scr) 0xFC8 1) < 136 ∧ m.toNat < 16 ∧ ∃ h, tabGet j.h (m.toNat % 8) = some h ∧ h.len < x + y) ∧
    (∃ (s : State) (t : Thread) (id : Nat) (j : Job) (a : Reg) (b : Reg) (m : BitVec 11), Issues s t id j 1 ∧
      let x := (rd j a).toNat
      let y := (rd j b).toNat
      let fresh (scr : Tab Byte) : Tab Byte := if m.toNat / 8 % 2 = 1 ∨ kecSqueezing scr = true then bytesPut scr 0xF00 (List.replicate
        208 0) else scr
      leNat (bytesOf (fresh j.scr) 0xFC8 1) < 136 ∧ m.toNat < 16 ∧ ∃ h, tabGet j.h (m.toNat % 8) = some h ∧ x + y ≤ h.len) ∧
    (∃ (s : State) (t : Thread) (id : Nat) (j : Job), Issues s t id j 1 ∧ leNat (bytesOf j.scr 0xFC8 1) < 136) :=
  ⟨⟨sb (jb [(1,0xF00),(5,1)]), thr, 9, (jobOf (sb (jb [(1,0xF00),(5,1)])) 9).getD jobA, 1, 1, 16, issues_of (by decide +kernel),
     by decide +kernel, by decide +kernel, by decide +kernel⟩,
   ⟨sb (jb [(1,4),(5,8)]), thr, 9, (jobOf (sb (jb [(1,4),(5,8)])) 9).getD jobA, 0, 0, 16, issues_of (by decide +kernel),
     by decide +kernel, by decide +kernel, by decide +kernel⟩,
   ⟨sb (jb [(1,4),(5,8)]), thr, 9, (jobOf (sb (jb [(1,4),(5,8)])) 9).getD jobA, 5, issues_of (by decide +kernel), by decide +kernel,
     by decide +kernel, by decide +kernel⟩,
   ⟨sb (jb [(1,0xF00),(5,1)]), thr, 9, (jobOf (sb (jb [(1,0xF00),(5,1)])) 9).getD jobA, 0, 1, 0, issues_of (by decide +kernel),
     by decide +kernel, by decide +kernel, _, got (by decide +kernel), by decide +kernel⟩,
   ⟨sb (jb [(1,4),(5,8)]), thr, 9, (jobOf (sb (jb [(1,4),(5,8)])) 9).getD jobA, 0, 0, 0, issues_of (by decide +kernel),
     by decide +kernel, by decide +kernel, _, got (by decide +kernel), by decide +kernel⟩,
   ⟨sb (jb [(1,4),(5,8)]), thr, 9, (jobOf (sb (jb [(1,4),(5,8)])) 9).getD jobA, issues_of (by decide +kernel), by decide +kernel⟩⟩

end HashEffect

namespace DriveSubmit

def R (g : List (Nat × Nat)) : Tab Word := (g.filter fun p => p.2 != 0).map fun p => (p.1, BitVec.ofNat 64 p.2)

def jr (g : List (Nat × Nat)) : Job := { jobA with g := R g }

def hd (b off len : Nat) (rw : Bool) (o : Origin) : Handle := { buf := b, off := off, len := len, rw := rw, origin := o }

def hb : Tab Handle := [(0, hd 0 4 64 true .h1), (1, hd 1 0 4096 true .other), (2, hd 1 0 4096 false .h2)]

def scr0 (op nlb : Nat) : Tab Byte := [(0, BitVec.ofNat 8 op), (41, 3), (48, BitVec.ofNat 8 nlb)].filter fun p => p.2 != 0

def jp (g : List (Nat × Nat)) : Job := { jr g with h := hb, scr := scr0 2 0 }

def bufs (s : State) : State := { s with buffers := [(0, { slate := 0, len := 8192, data := [], inbound := true, arrived := [(0, 40)] }), (1, { slate := 0, len := 8192, data := [(9, 7)], inbound := true, arrived := [(0, 4096)] })], nextBuf := 2 }

def sp (j : Job) : State := bufs (at_ (withJob (pool 2) j) 700)

def tkD (r : Option Word) : Ticket := { crd := false, member := 0, opcode := 2, buf := none, first := 0, count := 1, result := r }

def full (j : Job) : Job := { j with tickets := (List.range 64).map fun k => (k, tkD none) }

/-- Each hypothesis of DriveSubmit (its clauses 1 to 5) is met. -/
theorem witness_DriveSubmit_1 :
    (∃ (s : State) (t : Thread) (id : Nat) (j : Job) (a : Reg) (b : Reg) (m : BitVec 11) (h : Handle), tabGet j.h m.toNat = some h ∧
      Issues s t id j 1 ∧ Uncounted s t.slate ∧ m.toNat < 8 ∧ h.rw = true ∧
      let x := (rd j a).toNat
      let p := (rd j b).toNat
      let image := bytesOf j.scr x 64
      x ≤ 0xFC0 ∧ x % 64 = 0 ∧ byteAt image 0 = 2 ∧ 64 ≤ p) ∧
    (∃ (s : State) (t : Thread) (id : Nat) (j : Job) (a : Reg) (b : Reg) (m : BitVec 11) (h : Handle), tabGet j.h m.toNat = some h ∧
      Issues s t id j 1 ∧ Uncounted s t.slate ∧ m.toNat < 8 ∧ h.rw = true ∧
      let x := (rd j a).toNat
      let p := (rd j b).toNat
      let image := bytesOf j.scr x 64
      x ≤ 0xFC0 ∧ x % 64 = 0 ∧ byteAt image 0 = 2 ∧ p < 64 ∧ 6 * s.n ≤ p) ∧
    (∃ (s : State) (t : Thread) (id : Nat) (j : Job) (a : Reg) (b : Reg) (m : BitVec 11) (h : Handle), tabGet j.h m.toNat = some h ∧
      Issues s t id j 1 ∧ Uncounted s t.slate ∧ m.toNat < 8 ∧ h.rw = true ∧
      let x := (rd j a).toNat
      let p := (rd j b).toNat
      let image := bytesOf j.scr x 64
      x ≤ 0xFC0 ∧ x % 64 = 0 ∧ byteAt image 0 = 2 ∧ p < 64 ∧ p < 6 * s.n ∧
      let y := memberOf s p
      let present : Prop := y.mstate ≠ 0 ∧ y.mstate ≠ 3 ∧ y.mstate ≠ 4 ∧ hasPath s p = true
      ¬ present) ∧
    (∃ (s : State) (t : Thread) (id : Nat) (j : Job) (a : Reg) (b : Reg) (m : BitVec 11) (h : Handle), tabGet j.h m.toNat = some h ∧
      Issues s t id j 1 ∧ Uncounted s t.slate ∧ m.toNat < 8 ∧ h.rw = true ∧
      let x := (rd j a).toNat
      let p := (rd j b).toNat
      let image := bytesOf j.scr x 64
      x ≤ 0xFC0 ∧ x % 64 = 0 ∧ byteAt image 0 = 2 ∧ p < 64 ∧ p < 6 * s.n ∧
      let y := memberOf s p
      let present : Prop := y.mstate ≠ 0 ∧ y.mstate ≠ 3 ∧ y.mstate ≠ 4 ∧ hasPath s p = true
      present ∧ (leNat (blockSlice image 48 2) + 1) * 4096 ≠ h.len) ∧
    (∃ (s : State) (t : Thread) (id : Nat) (j : Job) (a : Reg) (b : Reg) (m : BitVec 11) (h : Handle), tabGet j.h m.toNat = some h ∧
      Issues s t id j 1 ∧ Uncounted s t.slate ∧ m.toNat < 8 ∧ h.rw = true ∧
      let x := (rd j a).toNat
      let p := (rd j b).toNat
      let image := bytesOf j.scr x 64
      x ≤ 0xFC0 ∧ x % 64 = 0 ∧ byteAt image 0 = 2 ∧ p < 64 ∧ p < 6 * s.n ∧
      let y := memberOf s p
      let present : Prop := y.mstate ≠ 0 ∧ y.mstate ≠ 3 ∧ y.mstate ≠ 4 ∧ hasPath s p = true
      present ∧ (leNat (blockSlice image 48 2) + 1) * 4096 = h.len ∧ tabFree j.tickets 0 64 = none) :=
  ⟨⟨sp (jp [(5,64)]), thr, 9, (jobOf (sp (jp [(5,64)])) 9).getD jobA, 0, 5, 0, _, got (by decide +kernel),
     issues_of (by decide +kernel), uncounted_of (by decide +kernel), by decide +kernel, by decide +kernel, (by decide +kernel),
     by decide +kernel, by decide +kernel, by decide +kernel⟩,
   ⟨sp (jp [(5,12)]), thr, 9, (jobOf (sp (jp [(5,12)])) 9).getD jobA, 0, 5, 0, _, got (by decide +kernel),
     issues_of (by decide +kernel), uncounted_of (by decide +kernel), by decide +kernel, by decide +kernel, (by decide +kernel),
     by decide +kernel, by decide +kernel, (by decide +kernel), by decide +kernel⟩,
   ⟨withMember (sp (jp [(5,3)])) 3 State.noMember, thr, 9, (jobOf (withMember (sp (jp [(5,3)])) 3 State.noMember) 9).getD jobA, 0, 5, 0,
     _, got (by decide +kernel), issues_of (by decide +kernel), uncounted_of (by decide +kernel), by decide +kernel, by decide +kernel,
     (by decide +kernel), by decide +kernel, by decide +kernel, (by decide +kernel), by decide +kernel, by dsimp only; decide +kernel⟩,
   ⟨sp (jp [(5,3)]), thr, 9, (jobOf (sp (jp [(5,3)])) 9).getD jobA, 0, 0, 0, _, got (by decide +kernel), issues_of (by decide +kernel),
     uncounted_of (by decide +kernel), by decide +kernel, by decide +kernel, (by decide +kernel), by decide +kernel, by decide +kernel,
     (by decide +kernel), by decide +kernel, by decide +kernel, by decide +kernel⟩,
   ⟨sp (full (jp [(5,3)])), thr, 9, (jobOf (sp (full (jp [(5,3)]))) 9).getD jobA, 0, 0, 1, _, got (by decide +kernel),
     issues_of (by decide +kernel), uncounted_of (by decide +kernel), by decide +kernel, by decide +kernel, (by decide +kernel),
     by decide +kernel, by decide +kernel, (by decide +kernel), by decide +kernel, by decide +kernel, (by decide +kernel),
     by decide +kernel⟩⟩

/-- Each hypothesis of DriveSubmit (its clauses 6 to 10) is met. -/
theorem witness_DriveSubmit_2 :
    (∃ (s : State) (t : Thread) (id : Nat) (j : Job) (a : Reg) (b : Reg) (m : BitVec 11) (h : Handle), tabGet j.h m.toNat = some h ∧
      Issues s t id j 1 ∧ Uncounted s t.slate ∧ m.toNat < 8 ∧ h.rw = true ∧
      let x := (rd j a).toNat
      let p := (rd j b).toNat
      let image := bytesOf j.scr x 64
      x ≤ 0xFC0 ∧ x % 64 = 0 ∧ byteAt image 0 = 2 ∧ p < 64 ∧ p < 6 * s.n ∧
      let y := memberOf s p
      let present : Prop := y.mstate ≠ 0 ∧ y.mstate ≠ 3 ∧ y.mstate ≠ 4 ∧ hasPath s p = true
      present ∧ (leNat (blockSlice image 48 2) + 1) * 4096 = h.len ∧ ∃ k, tabFree j.tickets 0 64 = some k ∧ isF s 0 F.FPIN.C4 = false) ∧
    (∃ (s : State) (t : Thread) (id : Nat) (j : Job) (m : BitVec 11), Issues s t id j 1 ∧ m.toNat < 32 ∧
      let admin : Prop := 16 ≤ m.toNat
      admin ∧ j.keep = false) ∧
    (∃ (s : State) (t : Thread) (id : Nat) (j : Job) (a : Reg) (m : BitVec 11), Issues s t id j 1 ∧ m.toNat < 32 ∧
      let x := (rd j a).toNat
      let admin : Prop := 16 ≤ m.toNat
      (admin → j.keep = true) ∧ (0xFC0 < x ∨ x % 64 ≠ 0)) ∧
    (∃ (s : State) (t : Thread) (id : Nat) (j : Job) (a : Reg) (m : BitVec 11), Issues s t id j 1 ∧ m.toNat < 32 ∧
      let x := (rd j a).toNat
      let admin : Prop := 16 ≤ m.toNat
      let nodata : Prop := m.toNat / 8 % 2 = 1
      ¬ admin ∧ j.keep = false ∧ x ≤ 0xFC0 ∧ x % 64 = 0 ∧ (tabGetD j.scr x 0 ≠ 2 ∨ nodata)) ∧
    (∃ (s : State) (t : Thread) (id : Nat) (j : Job) (a : Reg) (m : BitVec 11), Issues s t id j 1 ∧ m.toNat < 32 ∧
      let x := (rd j a).toNat
      let admin : Prop := 16 ≤ m.toNat
      let nodata : Prop := m.toNat / 8 % 2 = 1
      (admin → j.keep = true) ∧ x ≤ 0xFC0 ∧ x % 64 = 0 ∧ (j.keep = false → tabGetD j.scr x 0 = 2) ∧ ¬ nodata ∧ tabGet j.h (m.toNat % 8)
        = none) :=
  ⟨⟨sp (jp [(5,3)]), thr, 9, (jobOf (sp (jp [(5,3)])) 9).getD jobA, 0, 0, 1, _, got (by decide +kernel), issues_of (by decide +kernel),
     uncounted_of (by decide +kernel), by decide +kernel, by decide +kernel, (by decide +kernel), by decide +kernel, by decide +kernel,
     (by decide +kernel), by decide +kernel, by decide +kernel, (by decide +kernel), _, got (by decide +kernel), by decide +kernel⟩,
   ⟨sp (jp [(5,3)]), thr, 9, (jobOf (sp (jp [(5,3)])) 9).getD jobA, 17, issues_of (by decide +kernel), by decide +kernel,
     by decide +kernel, by decide +kernel⟩,
   ⟨sp (jp [(5,3)]), thr, 9, (jobOf (sp (jp [(5,3)])) 9).getD jobA, 5, 0, issues_of (by decide +kernel), by decide +kernel,
     by decide +kernel, by decide +kernel⟩,
   ⟨sp (jp [(5,3)]), thr, 9, (jobOf (sp (jp [(5,3)])) 9).getD jobA, 0, 9, issues_of (by decide +kernel), by decide +kernel,
     by decide +kernel, (by decide +kernel), by decide +kernel, by decide +kernel, by decide +kernel⟩,
   ⟨sp (jp [(5,3)]), thr, 9, (jobOf (sp (jp [(5,3)])) 9).getD jobA, 0, 5, issues_of (by decide +kernel), by decide +kernel,
     by decide +kernel, (by decide +kernel), by decide +kernel, by decide +kernel, (by decide +kernel), by decide +kernel⟩⟩

end DriveSubmit

namespace CourseReadAndWait

def R (g : List (Nat × Nat)) : Tab Word := (g.filter fun p => p.2 != 0).map fun p => (p.1, BitVec.ofNat 64 p.2)

def jr (g : List (Nat × Nat)) : Job := { jobA with g := R g }

def st (j : Job) : State := at_ (withJob (unit 2) j) 700

def hd (b off len : Nat) (rw : Bool) (o : Origin) : Handle := { buf := b, off := off, len := len, rw := rw, origin := o }

def hb : Tab Handle := [(0, hd 0 4 64 true .h1), (1, hd 1 0 4096 true .other), (2, hd 1 0 4096 false .h2)]

def scr0 (op nlb : Nat) : Tab Byte := [(0, BitVec.ofNat 8 op), (41, 3), (48, BitVec.ofNat 8 nlb)].filter fun p => p.2 != 0

def jp (g : List (Nat × Nat)) : Job := { jr g with h := hb, scr := scr0 2 0 }

def bufs (s : State) : State := { s with buffers := [(0, { slate := 0, len := 8192, data := [], inbound := true, arrived := [(0, 40)] }), (1, { slate := 0, len := 8192, data := [(9, 7)], inbound := true, arrived := [(0, 4096)] })], nextBuf := 2 }

def sp (j : Job) : State := bufs (at_ (withJob (pool 2) j) 700)

def tkD (r : Option Word) : Ticket := { crd := false, member := 0, opcode := 2, buf := none, first := 0, count := 1, result := r }

def full (j : Job) : Job := { j with tickets := (List.range 64).map fun k => (k, tkD none) }

def strip0 : Tab Strip := (List.range 10).map fun k => (k, { member := k, slot := 5, issued := true, done := true, zeroes := false })

def crs (st : CourseState) : Course := { kind := .data, slate := 0, st := st, t0 := 0, window := 0, grains := [], recSeq := none, swept := false, strips := strip0, comSeq := none, ucn := none, live := 1, holdJobs := [], stalled := false, reclaim := false, spareSeq := [], sealTb := 0, lostPos := [], rebuilding := false, moved := false }

def sc (j : Job) : State := { sp j with courses := [(1, crs .durable), (2, crs .pouring)] }

/-- Each hypothesis of CourseReadAndWait (its clauses 1 to 5) is met. -/
theorem witness_CourseReadAndWait_1 :
    (∃ (s : State) (t : Thread) (id : Nat) (j : Job) (m : BitVec 11), Issues s t id j 1 ∧ Uncounted s t.slate ∧ m.toNat < 8 ∧ tabGet j.h
      m.toNat = none) ∧
    (∃ (s : State) (t : Thread) (id : Nat) (j : Job) (m : BitVec 11), Issues s t id j 1 ∧ Uncounted s t.slate ∧ m.toNat < 8 ∧ ∃ h,
      tabGet j.h m.toNat = some h ∧ h.rw = false) ∧
    (∃ (s : State) (t : Thread) (id : Nat) (j : Job) (b : Reg) (m : BitVec 11), Issues s t id j 1 ∧ Uncounted s t.slate ∧ m.toNat < 8 ∧
      let y := (rd j b).toNat
      let count := y % 1024
      ∃ h, tabGet j.h m.toNat = some h ∧ h.rw = true ∧ h.len < count * 4096) ∧
    (∃ (s : State) (t : Thread) (id : Nat) (j : Job) (a : Reg) (b : Reg) (m : BitVec 11), Issues s t id j 1 ∧ Uncounted s t.slate ∧
      m.toNat < 8 ∧
      let first := (rd j a).toNat
      let y := (rd j b).toNat
      let count := y % 1024
      ∃ h, tabGet j.h m.toNat = some h ∧ h.rw = true ∧ count * 4096 ≤ h.len ∧ (2 ^ 48 ≤ first ∨ 1024 ≤ y)) ∧
    (∃ (s : State) (t : Thread) (id : Nat) (j : Job) (a : Reg) (b : Reg) (m : BitVec 11), Issues s t id j 1 ∧ Uncounted s t.slate ∧
      m.toNat < 8 ∧
      let first := (rd j a).toNat
      let y := (rd j b).toNat
      let count := y % 1024
      ∃ h, tabGet j.h m.toNat = some h ∧ h.rw = true ∧ count * 4096 ≤ h.len ∧ first < 2 ^ 48 ∧ y < 1024 ∧ (count = 0 ∨ grainsDurable s
        first count = false)) :=
  ⟨⟨sc (jp [(1,512),(5,1)]), thr, 9, (jobOf (sc (jp [(1,512),(5,1)])) 9).getD jobA, 5, issues_of (by decide +kernel),
     uncounted_of (by decide +kernel), by decide +kernel, by decide +kernel⟩,
   ⟨sc (jp [(1,512),(5,1)]), thr, 9, (jobOf (sc (jp [(1,512),(5,1)])) 9).getD jobA, 2, issues_of (by decide +kernel),
     uncounted_of (by decide +kernel), by decide +kernel, _, got (by decide +kernel), by decide +kernel⟩,
   ⟨sc (jp [(1,512),(5,1)]), thr, 9, (jobOf (sc (jp [(1,512),(5,1)])) 9).getD jobA, 1, 0, issues_of (by decide +kernel),
     uncounted_of (by decide +kernel), by decide +kernel, _, got (by decide +kernel), by decide +kernel, by decide +kernel⟩,
   ⟨sc (jp [(1,2*512),(5,1)]), thr, 9, (jobOf (sc (jp [(1,2*512),(5,1)])) 9).getD jobA, 0, 1, 0, issues_of (by decide +kernel),
     uncounted_of (by decide +kernel), by decide +kernel, _, got (by decide +kernel), by decide +kernel, by decide +kernel,
     by decide +kernel⟩,
   ⟨sc (jp [(1,512),(5,1)]), thr, 9, (jobOf (sc (jp [(1,512),(5,1)])) 9).getD jobA, 0, 0, 0, issues_of (by decide +kernel),
     uncounted_of (by decide +kernel), by decide +kernel, _, got (by decide +kernel), by decide +kernel, by decide +kernel,
     (by decide +kernel), by decide +kernel, by decide +kernel⟩⟩

/-- Each hypothesis of CourseReadAndWait (its clauses 6 to 10) is met. -/
theorem witness_CourseReadAndWait_2 :
    (∃ (s : State) (t : Thread) (id : Nat) (j : Job) (a : Reg) (b : Reg) (m : BitVec 11), Issues s t id j 1 ∧ Uncounted s t.slate ∧
      m.toNat < 8 ∧
      let first := (rd j a).toNat
      let y := (rd j b).toNat
      let count := y % 1024
      ∃ h, tabGet j.h m.toNat = some h ∧ h.rw = true ∧ count * 4096 ≤ h.len ∧ first < 2 ^ 48 ∧ y < 1024 ∧ count ≠ 0 ∧ grainsDurable s
        first count = true ∧ tabFree j.tickets 0 64 = none) ∧
    (∃ (s : State) (t : Thread) (id : Nat) (j : Job) (a : Reg) (b : Reg) (m : BitVec 11), Issues s t id j 1 ∧ Uncounted s t.slate ∧
      m.toNat < 8 ∧
      let first := (rd j a).toNat
      let y := (rd j b).toNat
      let count := y % 1024
      ∃ h, tabGet j.h m.toNat = some h ∧ h.rw = true ∧ count * 4096 ≤ h.len ∧ first < 2 ^ 48 ∧ y < 1024 ∧ count ≠ 0 ∧ grainsDurable s
        first count = true ∧ ∃ k, tabFree j.tickets 0 64 = some k) ∧
    (∃ (s : State) (t : Thread) (id : Nat) (j : Job) (a : Reg), Issues s t id j 1 ∧
      let x := (rd j a).toNat
      let k := x / 65536 % 64
      (tabGet j.tickets k = none ∨ x ≠ k * 65536)) ∧
    (∃ (s : State) (t : Thread) (id : Nat) (j : Job) (a : Reg), Issues s t id j 1 ∧
      let x := (rd j a).toNat
      let k := x / 65536 % 64
      ∃ tk, tabGet j.tickets k = some tk ∧ x = k * 65536 ∧ ∃ w, tk.result = some w) ∧
    (∃ (s : State) (t : Thread) (id : Nat) (j : Job) (a : Reg), Issues s t id j 1 ∧
      let x := (rd j a).toNat
      let k := x / 65536 % 64
      ∃ tk, tabGet j.tickets k = some tk ∧ x = k * 65536 ∧ tk.result = none ∧ isHk j = false) :=
  ⟨⟨sc (full (jp [(1,512),(5,1)])), thr, 9, (jobOf (sc (full (jp [(1,512),(5,1)]))) 9).getD jobA, 1, 5, 1,
     issues_of (by decide +kernel), uncounted_of (by decide +kernel), by decide +kernel, _, got (by decide +kernel), by decide +kernel,
     by decide +kernel, (by decide +kernel), by decide +kernel, by decide +kernel, (by decide +kernel), by decide +kernel⟩,
   ⟨sc (jp [(1,512),(5,1)]), thr, 9, (jobOf (sc (jp [(1,512),(5,1)])) 9).getD jobA, 1, 5, 1, issues_of (by decide +kernel),
     uncounted_of (by decide +kernel), by decide +kernel, _, got (by decide +kernel), by decide +kernel, by decide +kernel,
     (by decide +kernel), by decide +kernel, by decide +kernel, (by decide +kernel), _, got (by decide +kernel)⟩,
   ⟨sc (jp [(1,512),(5,1)]), thr, 9, (jobOf (sc (jp [(1,512),(5,1)])) 9).getD jobA, 0, issues_of (by decide +kernel),
     by dsimp only; decide +kernel⟩,
   ⟨sc { jp [(1,2^16*63)] with tickets := [(63, tkD (some 0))] }, thr, 9,
     (jobOf (sc { jp [(1,2^16*63)] with tickets := [(63, tkD (some 0))] }) 9).getD jobA, 1, issues_of (by decide +kernel), _,
     got (by decide +kernel), by decide +kernel, _, got (by decide +kernel)⟩,
   ⟨sc (full (jp [(1,512),(5,1)])), thr, 9, (jobOf (sc (full (jp [(1,512),(5,1)]))) 9).getD jobA, 0, issues_of (by decide +kernel), _,
     got (by decide +kernel), by decide +kernel, by decide +kernel, by decide +kernel⟩⟩

end CourseReadAndWait

namespace CourseAppend

def R (g : List (Nat × Nat)) : Tab Word := (g.filter fun p => p.2 != 0).map fun p => (p.1, BitVec.ofNat 64 p.2)

def jr (g : List (Nat × Nat)) : Job := { jobA with g := R g }

def st (j : Job) : State := at_ (withJob (unit 2) j) 700

def hd (b off len : Nat) (rw : Bool) (o : Origin) : Handle := { buf := b, off := off, len := len, rw := rw, origin := o }

def hb : Tab Handle := [(0, hd 0 4 64 true .h1), (1, hd 1 0 4096 true .other), (2, hd 1 0 4096 false .h2)]

def scr0 (op nlb : Nat) : Tab Byte := [(0, BitVec.ofNat 8 op), (41, 3), (48, BitVec.ofNat 8 nlb)].filter fun p => p.2 != 0

def jp (g : List (Nat × Nat)) : Job := { jr g with h := hb, scr := scr0 2 0 }

def bufs (s : State) : State := { s with buffers := [(0, { slate := 0, len := 8192, data := [], inbound := true, arrived := [(0, 40)] }), (1, { slate := 0, len := 8192, data := [(9, 7)], inbound := true, arrived := [(0, 4096)] })], nextBuf := 2 }

def sp (j : Job) : State := bufs (at_ (withJob (pool 2) j) 700)

def strip0 : Tab Strip := (List.range 10).map fun k => (k, { member := k, slot := 5, issued := true, done := true, zeroes := false })

def crs (st : CourseState) : Course := { kind := .data, slate := 0, st := st, t0 := 0, window := 0, grains := [], recSeq := none, swept := false, strips := strip0, comSeq := none, ucn := none, live := 1, holdJobs := [], stalled := false, reclaim := false, spareSeq := [], sealTb := 0, lostPos := [], rebuilding := false, moved := false }

def stl (s : State) : State := { s with courses := [(1, { crs .sealed with stalled := true })] }

def jq (g : List (Nat × Nat)) : Job := { jp g with h := [(0, hd 0 0 4096 true .h1), (1, hd 1 0 4096 true .h1), (2, hd 1 0 4096 true .other), (3, hd 1 0 (5000 * 4096) true .other)] }

def few (s : State) : State := { s with courses := (List.range 3052).map fun k => (k + 1, crs .durable), layout := some { layA with bands := 1 } }

def nr (s : State) : State := F1 s 0 F.STRIPE.WRITE_RESERVE 0

/-- Each hypothesis of CourseAppend is met. -/
theorem witness_CourseAppend :
    (∃ (s : State) (t : Thread) (id : Nat) (j : Job) (m : BitVec 11), Issues s t id j 1 ∧ Uncounted s t.slate ∧ m.toNat < 16 ∧ tabGet
      j.h (m.toNat % 8) = none) ∧
    (∃ (s : State) (t : Thread) (id : Nat) (j : Job) (b : Reg) (m : BitVec 11), Issues s t id j 1 ∧ Uncounted s t.slate ∧ m.toNat < 16 ∧
      let y := (rd j b).toNat
      let k := y / 65536 % 4096
      ∃ h, tabGet j.h (m.toNat % 8) = some h ∧ h.len < k * 4096) ∧
    (∃ (s : State) (t : Thread) (id : Nat) (j : Job) (b : Reg) (m : BitVec 11), Issues s t id j 1 ∧ Uncounted s t.slate ∧ m.toNat < 16 ∧
      let y := (rd j b).toNat
      let k := y / 65536 % 4096
      let v := y % 4096
      ∃ h, tabGet j.h (m.toNat % 8) = some h ∧ k * 4096 ≤ h.len ∧ y ≠ v + k * 65536) ∧
    (∃ (s : State) (t : Thread) (id : Nat) (j : Job) (a : Reg) (b : Reg) (m : BitVec 11), Issues s t id j 1 ∧ Uncounted s t.slate ∧
      m.toNat < 16 ∧
      let lba := (rd j a).toNat
      let y := (rd j b).toNat
      let k := y / 65536 % 4096
      let v := y % 4096
      ∃ h, tabGet j.h (m.toNat % 8) = some h ∧ k * 4096 ≤ h.len ∧ y = v + k * 65536 ∧ (k = 0 ∨ extentDefined s j.slate v lba k = false)) ∧
    (∃ (s : State) (t : Thread) (id : Nat) (j : Job) (a : Reg) (b : Reg) (m : BitVec 11), Issues s t id j 1 ∧ Uncounted s t.slate ∧
      m.toNat < 16 ∧
      let lba := (rd j a).toNat
      let y := (rd j b).toNat
      let k := y / 65536 % 4096
      let v := y % 4096
      ∃ h, tabGet j.h (m.toNat % 8) = some h ∧ k * 4096 ≤ h.len ∧ y = v + k * 65536 ∧ k ≠ 0 ∧ extentDefined s j.slate v lba k = true ∧ 8
        ≤ m.toNat ∧ fitsCourse s k = false) ∧
    (∃ (s : State) (t : Thread) (id : Nat) (j : Job) (a : Reg) (b : Reg) (m : BitVec 11), Issues s t id j 1 ∧ Uncounted s t.slate ∧
      m.toNat < 16 ∧
      let lba := (rd j a).toNat
      let y := (rd j b).toNat
      let k := y / 65536 % 4096
      let v := y % 4096
      ∃ h, tabGet j.h (m.toNat % 8) = some h ∧ k * 4096 ≤ h.len ∧ y = v + k * 65536 ∧ k ≠ 0 ∧ extentDefined s j.slate v lba k = true ∧
        (8 ≤ m.toNat → fitsCourse s k = true) ∧ j.keep = false ∧ appendsStopped s = true) ∧
    (∃ (s : State) (t : Thread) (id : Nat) (j : Job) (a : Reg) (b : Reg) (m : BitVec 11), Issues s t id j 1 ∧ Uncounted s t.slate ∧
      m.toNat < 16 ∧
      let lba := (rd j a).toNat
      let y := (rd j b).toNat
      let k := y / 65536 % 4096
      let v := y % 4096
      ∃ h, tabGet j.h (m.toNat % 8) = some h ∧ k * 4096 ≤ h.len ∧ y = v + k * 65536 ∧ k ≠ 0 ∧ extentDefined s j.slate v lba k = true ∧
        (8 ≤ m.toNat → fitsCourse s k = true) ∧ j.keep = false ∧ appendsStopped s = false ∧ belowReserve s j.slate = true) ∧
    (∃ (s : State) (t : Thread) (id : Nat) (j : Job) (a : Reg) (b : Reg) (m : BitVec 11), Issues s t id j 1 ∧ Uncounted s t.slate ∧
      m.toNat < 16 ∧
      let lba := (rd j a).toNat
      let y := (rd j b).toNat
      let k := y / 65536 % 4096
      let v := y % 4096
      ∃ h, tabGet j.h (m.toNat % 8) = some h ∧ k * 4096 ≤ h.len ∧ y = v + k * 65536 ∧ k ≠ 0 ∧ extentDefined s j.slate v lba k = true ∧
        (8 ≤ m.toNat → fitsCourse s k = true) ∧ (j.keep = true ∨ (appendsStopped s = false ∧ belowReserve s j.slate = false)) ∧ isHk j =
        false) :=
  ⟨⟨nr (sp (jq [(1,5),(5,3+65536)])), thr, 9, (jobOf (nr (sp (jq [(1,5),(5,3+65536)]))) 9).getD jobA, 5, issues_of (by decide +kernel),
     uncounted_of (by decide +kernel), by decide +kernel, by decide +kernel⟩,
   ⟨nr (sp (jq [(1,5),(5,3+2*65536)])), thr, 9, (jobOf (nr (sp (jq [(1,5),(5,3+2*65536)]))) 9).getD jobA, 5, 0,
     issues_of (by decide +kernel), uncounted_of (by decide +kernel), by decide +kernel, _, got (by decide +kernel), by decide +kernel⟩,
   ⟨nr (sp (jq [(1,5),(5,3+2^30)])), thr, 9, (jobOf (nr (sp (jq [(1,5),(5,3+2^30)]))) 9).getD jobA, 5, 0, issues_of (by decide +kernel),
     uncounted_of (by decide +kernel), by decide +kernel, _, got (by decide +kernel), by decide +kernel, by decide +kernel⟩,
   ⟨nr (sp (jq [(1,5),(5,3+65536)])), thr, 9, (jobOf (nr (sp (jq [(1,5),(5,3+65536)]))) 9).getD jobA, 0, 0, 0,
     issues_of (by decide +kernel), uncounted_of (by decide +kernel), by decide +kernel, _, got (by decide +kernel), by decide +kernel,
     by decide +kernel, by decide +kernel⟩,
   ⟨nr { sp (jq [(1,5),(5,3+4090*65536)]) with volumes := [(3, { size := 5000, cut := none })] }, thr, 9,
     (jobOf (nr { sp (jq [(1,5),(5,3+4090*65536)]) with volumes := [(3, { size := 5000, cut := none })] }) 9).getD jobA, 0, 5, 11,
     issues_of (by decide +kernel), uncounted_of (by decide +kernel), by decide +kernel, _, got (by decide +kernel), by decide +kernel,
     by decide +kernel, (by decide +kernel), by decide +kernel, by decide +kernel, by decide +kernel⟩,
   ⟨stl (sp (jq [(1,5),(5,3+65536)])), thr, 9, (jobOf (stl (sp (jq [(1,5),(5,3+65536)]))) 9).getD jobA, 0, 5, 0,
     issues_of (by decide +kernel), uncounted_of (by decide +kernel), by decide +kernel, _, got (by decide +kernel), by decide +kernel,
     by decide +kernel, (by decide +kernel), by decide +kernel, by decide +kernel, (by decide +kernel), by decide +kernel⟩,
   ⟨few (F1 (sp (jq [(1,5),(5,3+65536)])) 0 F.STRIPE.WRITE_RESERVE 255), thr, 9,
     (jobOf (few (F1 (sp (jq [(1,5),(5,3+65536)])) 0 F.STRIPE.WRITE_RESERVE 255)) 9).getD jobA, 0, 5, 0, issues_of (by decide +kernel),
     uncounted_of (by decide +kernel), by decide +kernel, _, got (by decide +kernel), by decide +kernel, by decide +kernel,
     (by decide +kernel), by decide +kernel, by decide +kernel, (by decide +kernel), by decide +kernel, by decide +kernel⟩,
   ⟨nr (sp (jq [(1,5),(5,3+65536)])), thr, 9, (jobOf (nr (sp (jq [(1,5),(5,3+65536)]))) 9).getD jobA, 0, 5, 0,
     issues_of (by decide +kernel), uncounted_of (by decide +kernel), by decide +kernel, _, got (by decide +kernel), by decide +kernel,
     by decide +kernel, (by decide +kernel), by decide +kernel, by decide +kernel, (by decide +kernel), by decide +kernel⟩⟩

end CourseAppend

namespace MapAndHazardEffect

def R (g : List (Nat × Nat)) : Tab Word := (g.filter fun p => p.2 != 0).map fun p => (p.1, BitVec.ofNat 64 p.2)

def jr (g : List (Nat × Nat)) : Job := { jobA with g := R g }

def sp (j : Job) : State := at_ (withQueue (withJob (pool 2) j) kA qA) 700

def hz (i : Nat) (mo : Bool) (tag seq : Nat) (job : Option Nat) : Hazard := { hq := 5, tag := tag, job := job, id := i, pos := 0, seq := seq, volume := 3, lba := 5, count := 1, modify := mo }

def hzs (l : List Hazard) (s : State) : State := { s with hazards := l, hazSeq := 100 }

def unread (s : State) : State := { s with leaves := [(3 * 2^60, { cached := false, pending := [], oldest := 0, writing := none, flushed := 0, ptr := 0x201 })], members := (List.range 12).map fun m => (m, { memb with mstate := 3 }) }

/-- Each hypothesis of MapAndHazardEffect (its clauses 1 to 5) is met. -/
theorem witness_MapAndHazardEffect_1 :
    (∃ (s : State) (t : Thread) (id : Nat) (j : Job) (d : Reg) (b : Reg), Issues s t id j 1 ∧ Uncounted s t.slate ∧ d.toNat % 2 = 0 ∧
      let v := (rd j b).toNat
      4096 ≤ v) ∧
    (∃ (s : State) (t : Thread) (id : Nat) (j : Job) (d : Reg) (a : Reg) (b : Reg), Issues s t id j 1 ∧ Uncounted s t.slate ∧ d.toNat %
      2 = 0 ∧
      let lba := (rd j a).toNat
      let v := (rd j b).toNat
      v < 4096 ∧ extentDefined s j.slate v lba 1 = false) ∧
    (∃ (s : State) (t : Thread) (id : Nat) (j : Job) (d : Reg) (a : Reg) (b : Reg), Issues s t id j 1 ∧ Uncounted s t.slate ∧ d.toNat %
      2 = 0 ∧
      let lba := (rd j a).toNat
      let v := (rd j b).toNat
      let e := rd j (d + 1)
      v < 4096 ∧ extentDefined s j.slate v lba 1 = true ∧ j.keep = false ∧ e ≠ 0) ∧
    (∃ (s : State) (t : Thread) (id : Nat) (j : Job) (d : Reg) (a : Reg) (b : Reg), Issues s t id j 1 ∧ Uncounted s t.slate ∧ d.toNat %
      2 = 0 ∧
      let lba := (rd j a).toNat
      let v := (rd j b).toNat
      let e := rd j (d + 1)
      v < 4096 ∧ extentDefined s j.slate v lba 1 = true ∧ nodeCached s v 0 (lba / 512) = false ∧ isHk j = false ∧ (j.keep = true ∨ e =
        0)) ∧
    (∃ (s : State) (t : Thread) (id : Nat) (j : Job) (d : Reg) (a : Reg) (b : Reg), Issues s t id j 1 ∧ Uncounted s t.slate ∧ d.toNat %
      2 = 0 ∧
      let lba := (rd j a).toNat
      let v := (rd j b).toNat
      let e := rd j (d + 1)
      v < 4096 ∧ extentDefined s j.slate v lba 1 = true ∧ nodeCached s v 0 (lba / 512) = true ∧ (j.keep = true ∨ e = 0) ∧ (askCommit s
        id).2 = true ∧ isHk j = false) :=
  ⟨⟨sp (jr [(1,5),(5,4096)]), thr, 9, (jobOf (sp (jr [(1,5),(5,4096)])) 9).getD jobA, 0, 5, issues_of (by decide +kernel),
     uncounted_of (by decide +kernel), by decide +kernel, by dsimp only; decide +kernel⟩,
   ⟨sp (jr [(1,5),(5,3)]), thr, 9, (jobOf (sp (jr [(1,5),(5,3)])) 9).getD jobA, 0, 0, 0, issues_of (by decide +kernel),
     uncounted_of (by decide +kernel), by decide +kernel, by decide +kernel, by decide +kernel⟩,
   ⟨sp (jr [(1,5),(5,3)]), thr, 9, (jobOf (sp (jr [(1,5),(5,3)])) 9).getD jobA, 0, 0, 5, issues_of (by decide +kernel),
     uncounted_of (by decide +kernel), by decide +kernel, by decide +kernel, (by decide +kernel), by decide +kernel, by decide +kernel⟩,
   ⟨unread (sp (jr [(1,7),(31,3)])), thr, 9, (jobOf (unread (sp (jr [(1,7),(31,3)]))) 9).getD jobA, 2, 0, 31,
     issues_of (by decide +kernel), uncounted_of (by decide +kernel), by decide +kernel, by decide +kernel, (by decide +kernel),
     by decide +kernel, by decide +kernel, by decide +kernel⟩,
   ⟨sp (jr [(1,5),(5,3)]), thr, 9, (jobOf (sp (jr [(1,5),(5,3)])) 9).getD jobA, 2, 0, 5, issues_of (by decide +kernel),
     uncounted_of (by decide +kernel), by decide +kernel, by decide +kernel, (by decide +kernel), by decide +kernel, by decide +kernel,
     (by decide +kernel), by decide +kernel⟩⟩

/-- Each hypothesis of MapAndHazardEffect (its clauses 6 to 9) is met. -/
theorem witness_MapAndHazardEffect_2 :
    (∃ (s : State) (t : Thread) (id : Nat) (j : Job) (b : Reg), Issues s t id j 1 ∧ Uncounted s t.slate ∧
      let y := (rd j b).toNat
      let v := y % 4096
      let k := y / 65536 % 4096
      (y ≠ v + k * 65536 ∨ isCmd j = false)) ∧
    (∃ (s : State) (t : Thread) (id : Nat) (j : Job) (b : Reg), Issues s t id j 1 ∧ Uncounted s t.slate ∧
      let y := (rd j b).toNat
      let v := y % 4096
      let k := y / 65536 % 4096
      y = v + k * 65536 ∧ isCmd j = true ∧ (k = 0 ∨ 2048 < k)) ∧
    (∃ (s : State) (t : Thread) (id : Nat) (j : Job) (b : Reg), Issues s t id j 1 ∧ Uncounted s t.slate ∧
      let y := (rd j b).toNat
      let v := y % 4096
      let k := y / 65536 % 4096
      y = v + k * 65536 ∧ isCmd j = true ∧ k ≠ 0 ∧ k ≤ 2048 ∧ freeHazId s id = none) ∧
    (∃ (s : State) (t : Thread) (id : Nat) (j : Job) (b : Reg), Issues s t id j 1 ∧ Uncounted s t.slate ∧
      let y := (rd j b).toNat
      let v := y % 4096
      let k := y / 65536 % 4096
      y = v + k * 65536 ∧ isCmd j = true ∧ k ≠ 0 ∧ k ≤ 2048 ∧ ∃ i, freeHazId s id = some i) :=
  ⟨⟨sp (jr [(1,5),(5,4096)]), thr, 9, (jobOf (sp (jr [(1,5),(5,4096)])) 9).getD jobA, 5, issues_of (by decide +kernel),
     uncounted_of (by decide +kernel), by dsimp only; decide +kernel⟩,
   ⟨sp (jr [(1,5),(5,3)]), thr, 9, (jobOf (sp (jr [(1,5),(5,3)])) 9).getD jobA, 0, issues_of (by decide +kernel),
     uncounted_of (by decide +kernel), by decide +kernel, by decide +kernel, by decide +kernel⟩,
   ⟨hzs ((List.range 8).map fun i => hz i true 1 i (some 9)) (sp (jr [(1,7),(5,3+2048*65536)])), thr, 9,
     (jobOf (hzs ((List.range 8).map fun i => hz i true 1 i (some 9)) (sp (jr [(1,7),(5,3+2048*65536)]))) 9).getD jobA, 5,
     issues_of (by decide +kernel), uncounted_of (by decide +kernel), by decide +kernel, by decide +kernel, (by decide +kernel),
     by decide +kernel, by decide +kernel⟩,
   ⟨sp (jr [(1,7),(5,3+65536)]), thr, 9, (jobOf (sp (jr [(1,7),(5,3+65536)])) 9).getD jobA, 5, issues_of (by decide +kernel),
     uncounted_of (by decide +kernel), by decide +kernel, by decide +kernel, (by decide +kernel), by decide +kernel, _,
     got (by decide +kernel)⟩⟩

end MapAndHazardEffect

namespace EventInstructions

def R (g : List (Nat × Nat)) : Tab Word := (g.filter fun p => p.2 != 0).map fun p => (p.1, BitVec.ofNat 64 p.2)

def jr (g : List (Nat × Nat)) : Job := { jobA with g := R g }

def st (j : Job) : State := at_ (withJob (unit 2) j) 700

def kp (j : Job) : Job := { j with keep := true }

def hk (n : Nat) (g : List (Nat × Nat)) : Job := { jr g with kind := .housekeeping n, keep := true, budget := 0, phase := .running (163 + 4 * n) }

def pend (e tgt : Nat) (s : State) : State :=
  { F1 s 0 (fPend e) 1 with ptrs := [(ptrEvent 0 tgt, e)], evPend := [(evKey 0 e, { tb := 55, mode := 1, target := tgt, slot := 0 })] }

/-- Each hypothesis of EventInstructions is met. -/
theorem witness_EventInstructions :
    (∃ (s : State) (t : Thread) (id : Nat) (j : Job), Variant s ∧ t.idx < 192 ∧ Issues s t id j 1 ∧ Uncounted s t.slate ∧ j.keep =
      false) ∧
    (∃ (s : State) (t : Thread) (id : Nat) (j : Job) (a : Reg), Variant s ∧ t.idx < 192 ∧ Issues s t id j 1 ∧ Uncounted s t.slate ∧
      let x := (rd j a).toNat
      j.keep = true ∧ isHk j = false ∧ x = 0) ∧
    (∃ (s : State) (t : Thread) (id : Nat) (j : Job) (a : Reg), Variant s ∧ t.idx < 192 ∧ Issues s t id j 1 ∧ Uncounted s t.slate ∧
      let x := (rd j a).toNat
      j.keep = true ∧ isHk j = false ∧ x ≠ 0) ∧
    (∃ (s : State) (t : Thread) (id : Nat) (j : Job) (d : Reg) (a : Reg), Variant s ∧ t.idx < 192 ∧ Issues s t id j 1 ∧ Uncounted s
      t.slate ∧
      let evw : Instr := .evw { t := t, d := d, a := a, b := 0, minor := 0 }
      ∃ n, j.keep = true ∧ j.kind = .housekeeping n ∧ ∃ e, evwPick s j.slate n = some e ∧ ∃ u, exec evw s = .next u) ∧
    (∃ (s : State) (t : Thread) (id : Nat) (j : Job), Variant s ∧ t.idx < 192 ∧ Issues s t id j 1 ∧ Uncounted s t.slate ∧ ∃ n, j.keep =
      true ∧ j.kind = .housekeeping n ∧ evwPick s j.slate n = none) ∧
    (∃ (s : State) (t : Thread) (id : Nat) (j : Job) (imm : BitVec 16), Variant s ∧ t.idx < 192 ∧ Issues s t id j 1 ∧ Uncounted s
      t.slate ∧ imm.toNat < 64 ∧ j.keep = true ∧ imm.toNat < 0x20) ∧
    (∃ (s : State) (t : Thread) (id : Nat) (j : Job) (imm : BitVec 16), Variant s ∧ t.idx < 192 ∧ Issues s t id j 1 ∧ Uncounted s
      t.slate ∧ imm.toNat < 64 ∧ j.keep = false ∧ imm.toNat < 0x30) ∧
    (∃ (s : State) (t : Thread) (id : Nat) (j : Job) (d : Reg) (a : Reg) (imm : BitVec 16), Variant s ∧ t.idx < 192 ∧ Issues s t id j 1
      ∧ Uncounted s t.slate ∧
      let evs : Instr := .evs { t := t, d := 0, a := 0, imm := imm }
      imm.toNat < 64 ∧ (if j.keep then 0x20 else 0x30) ≤ imm.toNat ∧ isF s j.slate (fFwd (128 + imm.toNat)) = false ∧ ∃ u, exec evs s =
        .next u) :=
  ⟨⟨st (jr [(1,5)]), thr, 9, (jobOf (st (jr [(1,5)])) 9).getD jobA, variant_of (by decide +kernel), by decide +kernel,
     issues_of (by decide +kernel), uncounted_of (by decide +kernel), by decide +kernel⟩,
   ⟨st (kp (jr [(5,9)])), thr, 9, (jobOf (st (kp (jr [(5,9)]))) 9).getD jobA, 0, variant_of (by decide +kernel), by decide +kernel,
     issues_of (by decide +kernel), uncounted_of (by decide +kernel), by decide +kernel, by decide +kernel, by decide +kernel⟩,
   ⟨st (kp (jr [(5,9)])), thr, 9, (jobOf (st (kp (jr [(5,9)]))) 9).getD jobA, 5, variant_of (by decide +kernel), by decide +kernel,
     issues_of (by decide +kernel), uncounted_of (by decide +kernel), by decide +kernel, by decide +kernel, by decide +kernel⟩,
   ⟨pend 200 0 (st (hk 0 [(1,7)])), { slate := 0, idx := 163 }, 9, (jobOf (pend 200 0 (st (hk 0 [(1,7)]))) 9).getD jobA, 0, 0,
     variant_of (by decide +kernel), by decide +kernel, issues_of (by decide +kernel), uncounted_of (by decide +kernel), 0,
     by decide +kernel, by decide +kernel, _, got (by decide +kernel), _, rfl⟩,
   ⟨st (hk 0 [(1,7)]), { slate := 0, idx := 163 }, 9, (jobOf (st (hk 0 [(1,7)])) 9).getD jobA, variant_of (by decide +kernel),
     by decide +kernel, issues_of (by decide +kernel), uncounted_of (by decide +kernel), 0, by decide +kernel, by decide +kernel,
     evwPick_quiet (by decide +kernel)⟩,
   ⟨st (kp (jr [(5,9)])), thr, 9, (jobOf (st (kp (jr [(5,9)]))) 9).getD jobA, 0, variant_of (by decide +kernel), by decide +kernel,
     issues_of (by decide +kernel), uncounted_of (by decide +kernel), by decide +kernel, by decide +kernel, by decide +kernel⟩,
   ⟨st (jr [(1,5)]), thr, 9, (jobOf (st (jr [(1,5)])) 9).getD jobA, 0, variant_of (by decide +kernel), by decide +kernel,
     issues_of (by decide +kernel), uncounted_of (by decide +kernel), by decide +kernel, by decide +kernel, by decide +kernel⟩,
   ⟨st (jr [(1,5)]), thr, 9, (jobOf (st (jr [(1,5)])) 9).getD jobA, 0, 0, 0x30, variant_of (by decide +kernel), by decide +kernel,
     issues_of (by decide +kernel), uncounted_of (by decide +kernel), by decide +kernel, by decide +kernel, (by decide +kernel), _, rfl⟩⟩

end EventInstructions

namespace CountersAndState

def R (g : List (Nat × Nat)) : Tab Word := (g.filter fun p => p.2 != 0).map fun p => (p.1, BitVec.ofNat 64 p.2)

def jr (g : List (Nat × Nat)) : Job := { jobA with g := R g }

def st (j : Job) : State := at_ (withJob (unit 2) j) 700

def kp (j : Job) : Job := { j with keep := true }

/-- Each hypothesis of CountersAndState (its clauses 1 to 7) is met. -/
theorem witness_CountersAndState_1 :
    (∃ (s : State) (t : Thread) (id : Nat) (j : Job) (a : Reg), Issues s t id j 1 ∧ Uncounted s t.slate ∧
      let x := (rd j a).toNat
      x = 0) ∧
    (∃ (s : State) (t : Thread) (id : Nat) (j : Job) (a : Reg), Issues s t id j 1 ∧ Uncounted s t.slate ∧
      let x := (rd j a).toNat
      x = 3) ∧
    (∃ (s : State) (t : Thread) (id : Nat) (j : Job) (a : Reg), Issues s t id j 1 ∧ Uncounted s t.slate ∧
      let x := (rd j a).toNat
      (x = 1 ∨ x = 2)) ∧
    (∃ (s : State) (t : Thread) (id : Nat) (j : Job) (a : Reg), Issues s t id j 1 ∧ Uncounted s t.slate ∧
      let x := (rd j a).toNat
      ∃ k < 16, x = 0x1000 + k ∧ j.keep = false) ∧
    (∃ (s : State) (t : Thread) (id : Nat) (j : Job) (a : Reg), Issues s t id j 1 ∧ Uncounted s t.slate ∧
      let x := (rd j a).toNat
      ∃ k < 16, x = 0x1000 + k ∧ j.keep = true) ∧
    (∃ (s : State) (t : Thread) (id : Nat) (j : Job) (a : Reg), Issues s t id j 1 ∧ Uncounted s t.slate ∧
      let x := (rd j a).toNat
      3 < x ∧ (x < 0x1000 ∨ 0x100F < x)) ∧
    (∃ (s : State) (t : Thread) (id : Nat) (j : Job) (sel : BitVec 16), Issues s t id j 1 ∧ Uncounted s t.slate ∧ sel = 0) :=
  ⟨⟨F1 (st (jr [(1,0),(5,1)])) 0 (F.PERF.VALUE 15) 77, thr, 9, (jobOf (F1 (st (jr [(1,0),(5,1)])) 0 (F.PERF.VALUE 15) 77) 9).getD jobA,
     0, issues_of (by decide +kernel), uncounted_of (by decide +kernel), by dsimp only; decide +kernel⟩,
   ⟨F1 (st (jr [(1,3),(5,1)])) 0 (F.PERF.VALUE 15) 77, thr, 9, (jobOf (F1 (st (jr [(1,3),(5,1)])) 0 (F.PERF.VALUE 15) 77) 9).getD jobA,
     1, issues_of (by decide +kernel), uncounted_of (by decide +kernel), by dsimp only; decide +kernel⟩,
   ⟨F1 (st (jr [(1,0),(5,1)])) 0 (F.PERF.VALUE 15) 77, thr, 9, (jobOf (F1 (st (jr [(1,0),(5,1)])) 0 (F.PERF.VALUE 15) 77) 9).getD jobA,
     5, issues_of (by decide +kernel), uncounted_of (by decide +kernel), by dsimp only; decide +kernel⟩,
   ⟨F1 (st (jr [(1,4096),(5,1)])) 0 (F.PERF.VALUE 15) 77, thr, 9,
     (jobOf (F1 (st (jr [(1,4096),(5,1)])) 0 (F.PERF.VALUE 15) 77) 9).getD jobA, 1, issues_of (by decide +kernel),
     uncounted_of (by decide +kernel), 0, by decide +kernel, by decide +kernel, by decide +kernel⟩,
   ⟨F1 (st (kp { jr [(1,0x100F)] with executed := 5, suspends := 9, z := true, c := true, jid := 44 })) 0 (F.PERF.VALUE 15) 77, thr, 9,
     (jobOf (F1 (st (kp { jr [(1,0x100F)] with executed := 5, suspends := 9, z := true, c := true, jid := 44 })) 0 (F.PERF.VALUE 15) 77) 9).getD jobA,
     1, issues_of (by decide +kernel), uncounted_of (by decide +kernel), 15, by decide +kernel, by decide +kernel, by decide +kernel⟩,
   ⟨F1 (st (jr [(1,4),(5,1)])) 0 (F.PERF.VALUE 15) 77, thr, 9, (jobOf (F1 (st (jr [(1,4),(5,1)])) 0 (F.PERF.VALUE 15) 77) 9).getD jobA,
     1, issues_of (by decide +kernel), uncounted_of (by decide +kernel), by decide +kernel, by decide +kernel⟩,
   ⟨F1 (st (jr [(1,0),(5,1)])) 0 (F.PERF.VALUE 15) 77, thr, 9, (jobOf (F1 (st (jr [(1,0),(5,1)])) 0 (F.PERF.VALUE 15) 77) 9).getD jobA,
     0, issues_of (by decide +kernel), uncounted_of (by decide +kernel), by decide +kernel⟩⟩

/-- Each hypothesis of CountersAndState (its clauses 8 to 14) is met. -/
theorem witness_CountersAndState_2 :
    (∃ (s : State) (t : Thread) (id : Nat) (j : Job) (sel : BitVec 16), Issues s t id j 1 ∧ Uncounted s t.slate ∧ sel = 1) ∧
    (∃ (s : State) (t : Thread) (id : Nat) (j : Job) (sel : BitVec 16), Issues s t id j 1 ∧ Uncounted s t.slate ∧ sel = 2) ∧
    (∃ (s : State) (t : Thread) (id : Nat) (j : Job) (sel : BitVec 16), Issues s t id j 1 ∧ Uncounted s t.slate ∧ sel = 3) ∧
    (∃ (s : State) (t : Thread) (id : Nat) (j : Job) (sel : BitVec 16), Issues s t id j 1 ∧ Uncounted s t.slate ∧ sel = 4) ∧
    (∃ (s : State) (t : Thread) (id : Nat) (j : Job) (sel : BitVec 16), Issues s t id j 1 ∧ Uncounted s t.slate ∧ sel = 5) ∧
    (∃ (s : State) (t : Thread) (id : Nat) (j : Job) (sel : BitVec 16), Issues s t id j 1 ∧ Uncounted s t.slate ∧ sel = 6) ∧
    (∃ (s : State) (t : Thread) (id : Nat) (j : Job) (sel : BitVec 16), Issues s t id j 1 ∧ Uncounted s t.slate ∧ 6 < sel.toNat) :=
  ⟨⟨F1 (st (jr [(1,0),(5,1)])) 0 (F.PERF.VALUE 15) 77, thr, 9, (jobOf (F1 (st (jr [(1,0),(5,1)])) 0 (F.PERF.VALUE 15) 77) 9).getD jobA,
     1, issues_of (by decide +kernel), uncounted_of (by decide +kernel), by decide +kernel⟩,
   ⟨F1 (st (jr [(1,0),(5,1)])) 0 (F.PERF.VALUE 15) 77, thr, 9, (jobOf (F1 (st (jr [(1,0),(5,1)])) 0 (F.PERF.VALUE 15) 77) 9).getD jobA,
     2, issues_of (by decide +kernel), uncounted_of (by decide +kernel), by decide +kernel⟩,
   ⟨F1 (st (jr [(1,0),(5,1)])) 0 (F.PERF.VALUE 15) 77, thr, 9, (jobOf (F1 (st (jr [(1,0),(5,1)])) 0 (F.PERF.VALUE 15) 77) 9).getD jobA,
     3, issues_of (by decide +kernel), uncounted_of (by decide +kernel), by decide +kernel⟩,
   ⟨F1 (st (jr [(1,0),(5,1)])) 0 (F.PERF.VALUE 15) 77, thr, 9, (jobOf (F1 (st (jr [(1,0),(5,1)])) 0 (F.PERF.VALUE 15) 77) 9).getD jobA,
     4, issues_of (by decide +kernel), uncounted_of (by decide +kernel), by decide +kernel⟩,
   ⟨F1 (st (jr [(1,0),(5,1)])) 0 (F.PERF.VALUE 15) 77, thr, 9, (jobOf (F1 (st (jr [(1,0),(5,1)])) 0 (F.PERF.VALUE 15) 77) 9).getD jobA,
     5, issues_of (by decide +kernel), uncounted_of (by decide +kernel), by decide +kernel⟩,
   ⟨F1 (st (jr [(1,0),(5,1)])) 0 (F.PERF.VALUE 15) 77, thr, 9, (jobOf (F1 (st (jr [(1,0),(5,1)])) 0 (F.PERF.VALUE 15) 77) 9).getD jobA,
     6, issues_of (by decide +kernel), uncounted_of (by decide +kernel), by decide +kernel⟩,
   ⟨F1 (st (jr [(1,0),(5,1)])) 0 (F.PERF.VALUE 15) 77, thr, 9, (jobOf (F1 (st (jr [(1,0),(5,1)])) 0 (F.PERF.VALUE 15) 77) 9).getD jobA,
     7, issues_of (by decide +kernel), uncounted_of (by decide +kernel), by decide +kernel⟩⟩

end CountersAndState

namespace JobControl

def R (g : List (Nat × Nat)) : Tab Word := (g.filter fun p => p.2 != 0).map fun p => (p.1, BitVec.ofNat 64 p.2)

def jr (g : List (Nat × Nat)) : Job := { jobA with g := R g }

def st (j : Job) : State := at_ (withJob (unit 2) j) 700

/-- Each hypothesis of JobControl is met. -/
theorem witness_JobControl :
    ∃ (s : State) (t : Thread) (id : Nat) (j : Job), Issues s t id j 1 ∧ isHk j = false :=
  ⟨st (jr [(1,5),(2,6),(3,7),(4,8),(5,0xF0007)]), thr, 9, (jobOf (st (jr [(1,5),(2,6),(3,7),(4,8),(5,0xF0007)])) 9).getD jobA,
    issues_of (by decide +kernel), by decide +kernel⟩

end JobControl

namespace IssueChecks

def R (g : List (Nat × Nat)) : Tab Word := (g.filter fun p => p.2 != 0).map fun p => (p.1, BitVec.ofNat 64 p.2)

def jr (g : List (Nat × Nat)) : Job := { jobA with g := R g }

def st (j : Job) : State := at_ (withJob (unit 2) j) 700

def pw (k : Nat) (w : InsnWord) (s : State) : State :=
  { s with progs := s.progs.map fun p => (p.1, { p.2 with words := p.2.words.set k w }) }

/-- Each hypothesis of IssueChecks (its clauses 1 to 5) is met. -/
theorem witness_IssueChecks_1 :
    (∃ (s : State) (t : Thread) (id : Nat), jobOn s t = some id ∧ ∃ (j : Job), jobOf s id = some j ∧ serving s t.slate = true ∧ j.ended
      = none ∧ j.wait = .none ∧ isHk j = false ∧ j.budget = 0) ∧
    (∃ (s : State) (t : Thread) (id : Nat), jobOn s t = some id ∧ ∃ (j : Job), jobOf s id = some j ∧ serving s t.slate = true ∧ j.ended
      = none ∧ j.wait = .none ∧ (isHk j = true ∨ j.budget ≠ 0) ∧ progLen s j ≤ j.pc) ∧
    (∃ (s : State) (t : Thread) (id : Nat), jobOn s t = some id ∧ ∃ (j : Job), jobOf s id = some j ∧ ∃ (src : Src), serving s t.slate =
      true ∧ j.ended = none ∧ j.wait = .none ∧ (isHk j = true ∨ j.budget ≠ 0) ∧ ∃ w, progWord s j j.pc = some w ∧
      let x : Prop := fMajor w = 0x3F
      j.pc + 1 = progLen s j ∧ (x ∨ srcLen src = 2)) ∧
    (∃ (s : State) (t : Thread) (id : Nat), jobOn s t = some id ∧ ∃ (j : Job), jobOf s id = some j ∧ serving s t.slate = true ∧ j.ended
      = none ∧ j.wait = .none ∧ (isHk j = true ∨ j.budget ≠ 0) ∧ ∃ w, progWord s j j.pc = some w ∧
      let x : Prop := fMajor w = 0x3F
      j.pc + 1 = progLen s j ∧ x) ∧
    (∃ (s : State) (t : Thread) (id : Nat), jobOn s t = some id ∧ ∃ (j : Job), jobOf s id = some j ∧ ∃ (src : Src), serving s t.slate =
      true ∧ j.ended = none ∧ j.wait = .none ∧ (isHk j = true ∨ j.budget ≠ 0) ∧ ∃ w, progWord s j j.pc = some w ∧
      let x : Prop := fMajor w = 0x3F
      let bad : Prop := decodeInsn t w ((progWord s j (j.pc + 1)).getD 0) = none
      bad ∧ (x ∨ srcLen src = 2 → j.pc + 1 ≠ progLen s j)) :=
  ⟨⟨st { jr [] with budget := 0 }, thr, _, got (by decide +kernel), _, got (by decide +kernel), by decide +kernel, by decide +kernel,
     (by decide +kernel), by decide +kernel, by decide +kernel⟩,
   ⟨st { jr [] with pc := 8 }, thr, _, got (by decide +kernel), _, got (by decide +kernel), by decide +kernel, by decide +kernel,
     (by decide +kernel), by decide +kernel, by decide +kernel⟩,
   ⟨st { jr [] with pc := 7 }, thr, _, got (by decide +kernel), _, got (by decide +kernel), .imm (.long 0 0x80000000),
     by decide +kernel, by decide +kernel, (by decide +kernel), by decide +kernel, _, got (by decide +kernel), by decide +kernel,
     by decide +kernel⟩,
   ⟨pw 7 0xFC000000 (st { jr [] with pc := 7 }), thr, _, got (by decide +kernel), _, got (by decide +kernel), by decide +kernel,
     by decide +kernel, (by decide +kernel), by decide +kernel, _, got (by decide +kernel), by decide +kernel, by decide +kernel⟩,
   ⟨pw 0 0xF8000000 (st (jr [])), thr, _, got (by decide +kernel), _, got (by decide +kernel), .reg 5, by decide +kernel,
     by decide +kernel, (by decide +kernel), by decide +kernel, _, got (by decide +kernel), by decide +kernel, by decide +kernel⟩⟩

/-- Each hypothesis of IssueChecks (its clauses 6 to 9) is met. -/
theorem witness_IssueChecks_2 :
    (∃ (s : State) (t : Thread) (id : Nat), jobOn s t = some id ∧ ∃ (j : Job), jobOf s id = some j ∧ serving s t.slate = true ∧ j.ended
      = none ∧ j.wait = .none ∧ (isHk j = true ∨ j.budget ≠ 0) ∧ ∃ w, progWord s j j.pc = some w ∧
      let x : Prop := fMajor w = 0x3F
      let bad : Prop := decodeInsn t w ((progWord s j (j.pc + 1)).getD 0) = none
      bad ∧ (x → j.pc + 1 ≠ progLen s j)) ∧
    (∃ (s : State) (t : Thread) (id : Nat), jobOn s t = some id ∧ ∃ (j : Job), jobOf s id = some j ∧ ∃ (src : Src), serving s t.slate =
      true ∧ j.ended = none ∧ j.wait = .none ∧ (isHk j = true ∨ j.budget ≠ 0) ∧ ∃ w, progWord s j j.pc = some w ∧
      let x : Prop := fMajor w = 0x3F
      let bad : Prop := decodeInsn t w ((progWord s j (j.pc + 1)).getD 0) = none
      ¬ bad ∧ (x ∨ srcLen src = 2 → j.pc + 1 ≠ progLen s j) ∧ srcOk src = false) ∧
    (∃ (s : State) (t : Thread) (id : Nat), jobOn s t = some id ∧ ∃ (j : Job), jobOf s id = some j ∧ ∃ (m : BitVec 11), serving s
      t.slate = true ∧ j.ended = none ∧ j.wait = .none ∧ (isHk j = true ∨ j.budget ≠ 0) ∧ ∃ w, progWord s j j.pc = some w ∧
      let x : Prop := fMajor w = 0x3F
      let bad : Prop := decodeInsn t w ((progWord s j (j.pc + 1)).getD 0) = none
      ¬ bad ∧ (x → j.pc + 1 ≠ progLen s j) ∧ m ≠ 0) ∧
    (∃ (s : State) (t : Thread) (id : Nat), jobOn s t = some id ∧ ∃ (j : Job), jobOf s id = some j ∧ ∃ (m : BitVec 11), serving s
      t.slate = true ∧ j.ended = none ∧ j.wait = .none ∧ (isHk j = true ∨ j.budget ≠ 0) ∧ ∃ w, progWord s j j.pc = some w ∧
      let x : Prop := fMajor w = 0x3F
      let bad : Prop := decodeInsn t w ((progWord s j (j.pc + 1)).getD 0) = none
      ¬ bad ∧ (x → j.pc + 1 ≠ progLen s j) ∧ m = 0 ∧ j.keep = false) :=
  ⟨⟨pw 0 0xF8000000 (st (jr [])), thr, _, got (by decide +kernel), _, got (by decide +kernel), by decide +kernel, by decide +kernel,
     (by decide +kernel), by decide +kernel, _, got (by decide +kernel), by decide +kernel, by decide +kernel⟩,
   ⟨st (jr [(1,5)]), thr, _, got (by decide +kernel), _, got (by decide +kernel), .imm (.long 1 5), by decide +kernel,
     by decide +kernel, (by decide +kernel), by decide +kernel, _, got (by decide +kernel), by decide +kernel, by decide +kernel,
     by decide +kernel⟩,
   ⟨st (jr [(1,5)]), thr, _, got (by decide +kernel), _, got (by decide +kernel), 1, by decide +kernel, by decide +kernel,
     (by decide +kernel), by decide +kernel, _, got (by decide +kernel), by decide +kernel, by decide +kernel, by decide +kernel⟩,
   ⟨st (jr [(1,5)]), thr, _, got (by decide +kernel), _, got (by decide +kernel), 0, by decide +kernel, by decide +kernel,
     (by decide +kernel), by decide +kernel, _, got (by decide +kernel), by decide +kernel, by decide +kernel, (by decide +kernel),
     by decide +kernel⟩⟩

end IssueChecks

namespace ControlInstructions

def R (g : List (Nat × Nat)) : Tab Word := (g.filter fun p => p.2 != 0).map fun p => (p.1, BitVec.ofNat 64 p.2)

def jr (g : List (Nat × Nat)) : Job := { jobA with g := R g }

def st (j : Job) : State := at_ (withJob (unit 2) j) 700

def A (sp e : Nat) : Nat := e + sp * 4096

def lk (j : Job) : Job := { j with keep := true, kind := .launched }

/-- Each hypothesis of ControlInstructions is met. -/
theorem witness_ControlInstructions :
    (∃ (s : State) (t : Thread) (id : Nat) (j : Job) (d : Reg) (a : Reg), Issues s t id j 1 ∧ Uncounted s t.slate ∧ j.keep = true ∧
      d.toNat % 2 = 0 ∧ isCmd j = false ∧
      let w := rd j a
      2 ^ 21 ≤ w.toNat) ∧
    (∃ (s : State) (t : Thread) (id : Nat) (j : Job) (d : Reg) (a : Reg), Issues s t id j 1 ∧ Uncounted s t.slate ∧ j.keep = true ∧
      d.toNat % 2 = 0 ∧ isCmd j = false ∧
      let w := rd j a
      let sp := w.toNat / 2 ^ 12 % 2 ^ 5
      let sl := if w.getLsbD 20 then t.slate else w.toNat / 2 ^ 17 % 2 ^ 3
      w.toNat < 2 ^ 21 ∧ (0x12 < sp ∨ serving s sl = false)) ∧
    (∃ (s : State) (t : Thread) (id : Nat) (j : Job) (d : Reg) (a : Reg), Issues s t id j 1 ∧ Uncounted s t.slate ∧ j.keep = true ∧
      d.toNat % 2 = 0 ∧ isCmd j = false ∧
      let w := rd j a
      let e := w.toNat % 2 ^ 12
      let sp := w.toNat / 2 ^ 12 % 2 ^ 5
      let sl := if w.getLsbD 20 then t.slate else w.toNat / 2 ^ 17 % 2 ^ 3
      let b0 := fetchWords (putJob (granted s (ptrIssue t.slate (t.idx / 4)) (t.idx % 4) 4) id (begun j)) t (begun j) 1
      let v := ctlGrant b0 w t.slate
      w.toNat < 2 ^ 21 ∧ sp ≤ 0x12 ∧ serving s sl = true ∧ readEntry v sl sp e ≠ rd j (d + 1)) ∧
    (∃ (s : State) (t : Thread) (id : Nat) (j : Job) (d : Reg) (a : Reg) (b : Reg), Issues s t id j 1 ∧ Uncounted s t.slate ∧ j.keep =
      true ∧ d.toNat % 2 = 0 ∧ isCmd j = false ∧
      let w := rd j a
      let e := w.toNat % 2 ^ 12
      let sp := w.toNat / 2 ^ 12 % 2 ^ 5
      let sl := if w.getLsbD 20 then t.slate else w.toNat / 2 ^ 17 % 2 ^ 3
      let b0 := fetchWords (putJob (granted s (ptrIssue t.slate (t.idx / 4)) (t.idx % 4) 4) id (begun j)) t (begun j) 1
      let v := ctlGrant b0 w t.slate
      w.toNat < 2 ^ 21 ∧ sp ≤ 0x12 ∧ serving s sl = true ∧ legal v sl sp e (rd j b) = false ∧ readEntry v sl sp e = rd j (d + 1)) ∧
    (∃ (s : State) (t : Thread) (id : Nat) (j : Job) (d : Reg) (a : Reg) (b : Reg), Issues s t id j 1 ∧ Uncounted s t.slate ∧ j.keep =
      true ∧ d.toNat % 2 = 0 ∧ isCmd j = false ∧
      let w := rd j a
      let e := w.toNat % 2 ^ 12
      let sp := w.toNat / 2 ^ 12 % 2 ^ 5
      let sl := if w.getLsbD 20 then t.slate else w.toNat / 2 ^ 17 % 2 ^ 3
      let b0 := fetchWords (putJob (granted s (ptrIssue t.slate (t.idx / 4)) (t.idx % 4) 4) id (begun j)) t (begun j) 1
      let v := ctlGrant b0 w t.slate
      w.toNat < 2 ^ 21 ∧ sp ≤ 0x12 ∧ serving s sl = true ∧
      let u := (writeEntry v sl sp e (rd j b) true).elim s (·.1)
      writeEntry v sl sp e (rd j b) true = some (u, none) ∧ u.jobs = v.jobs ∧ u.sampling = v.sampling ∧ readEntry v sl sp e = rd j (d +
        1)) :=
  ⟨⟨st (lk (jr [(1,2^21),(5,1),(31,2)])), thr, 9, (jobOf (st (lk (jr [(1,2^21),(5,1),(31,2)]))) 9).getD jobA, 4, 1,
     issues_of (by decide +kernel), uncounted_of (by decide +kernel), by decide +kernel, by decide +kernel, (by decide +kernel),
     by dsimp only; decide +kernel⟩,
   ⟨st (lk (jr [(1,0x13000),(5,1),(31,2)])), thr, 9, (jobOf (st (lk (jr [(1,0x13000),(5,1),(31,2)]))) 9).getD jobA, 4, 1,
     issues_of (by decide +kernel), uncounted_of (by decide +kernel), by decide +kernel, by decide +kernel, (by decide +kernel),
     by decide +kernel, by decide +kernel⟩,
   ⟨st (lk (jr [(1,2^21),(5,1),(31,2)])), thr, 9, (jobOf (st (lk (jr [(1,2^21),(5,1),(31,2)]))) 9).getD jobA, 4, 4,
     issues_of (by decide +kernel), uncounted_of (by decide +kernel), by decide +kernel, by decide +kernel, (by decide +kernel),
     by decide +kernel, by decide +kernel, (by decide +kernel), by decide +kernel⟩,
   ⟨st (lk (jr [(1,A 5 0x10),(5,500),(31,600)])), thr, 9, (jobOf (st (lk (jr [(1,A 5 0x10),(5,500),(31,600)]))) 9).getD jobA, 4, 1, 1,
     issues_of (by decide +kernel), uncounted_of (by decide +kernel), by decide +kernel, by decide +kernel, (by decide +kernel),
     by decide +kernel, by decide +kernel, (by decide +kernel), by decide +kernel, by decide +kernel⟩,
   ⟨st (lk (jr [(1,A 5 0x10),(5,500),(31,600)])), thr, 9, (jobOf (st (lk (jr [(1,A 5 0x10),(5,500),(31,600)]))) 9).getD jobA, 4, 1, 5,
     issues_of (by decide +kernel), uncounted_of (by decide +kernel), by decide +kernel, by decide +kernel, (by decide +kernel),
     by decide +kernel, by decide +kernel, (by decide +kernel), elim_some (by decide +kernel), by decide +kernel, by decide +kernel,
     by decide +kernel⟩⟩

end ControlInstructions

namespace JobResumes

def R (g : List (Nat × Nat)) : Tab Word := (g.filter fun p => p.2 != 0).map fun p => (p.1, BitVec.ofNat 64 p.2)

def jr (g : List (Nat × Nat)) : Job := { jobA with g := R g }

def st (j : Job) : State := at_ (withJob (unit 2) j) 700

def tkD (r : Option Word) : Ticket := { crd := false, member := 0, opcode := 2, buf := none, first := 0, count := 1, result := r }

def sus (w : Wait) : Job := { jr [(5, 77)] with phase := .suspended, wait := w, dst := 5, tickets := [(1, tkD (some 0x10000)), (5, tkD none)] }

def sj (j : Job) : State := at_ (withQueue { withJob (pool 2) j with buffers := [(0, { slate := 0, len := 8192, data := [], inbound := true, arrived := [(0, 40)] })], nextBuf := 2 } kA qA) 700

def gr : Grain := { kind := .host, volume := 3, lba := 5, data := [], job := some 9, dead := false, seqs := [] }

def lead0 : Lead := { slate := 0, ordinal := none, handover := false, waiting := [{ slate := 0, tb := 0, started := false, grains := [gr], atomic := false }] }

def rc (q : Nat) (c : Bool) : Rec := { seq := q, body := .release 1 1, grp := false, need := [1,2,3], acks := [], due := [], confirmed := c, packed := false, trimmed := false }

def own (c : Bool) (s : State) : State := { s with owners := [(0, { seq := 9, trim := 1, holders := [1,2,3], recs := [rc 5 c], waiting := [] })] }

def hz (i : Nat) (tag seq : Nat) (job : Option Nat) : Hazard := { hq := 5, tag := tag, job := job, id := i, pos := 0, seq := seq, volume := 3, lba := 5, count := 1, modify := true }

/-- Each hypothesis of JobResumes (its clauses 1 to 7) is met. -/
theorem witness_JobResumes_1 :
    (∃ (s : State) (id : Nat) (j : Job), jobOf s id = some j ∧ serving s 0 = true ∧ serving s j.slate = true ∧ j.ended = none ∧ j.phase
      = .suspended ∧ (samplingOf s j.slate).tags = [] ∧ ∃ b, ∃ lo, ∃ hi, j.wait = .payload b lo hi ∧ arrived s b lo hi = true) ∧
    (∃ (s : State) (id : Nat) (j : Job), jobOf s id = some j ∧ serving s 0 = true ∧ serving s j.slate = true ∧ j.ended = none ∧ j.phase
      = .suspended ∧ (samplingOf s j.slate).tags = [] ∧ ∃ b, ∃ lo, ∃ hi, j.wait = .payload b lo hi ∧ arrived s b lo hi = false) ∧
    (∃ (s : State) (id : Nat) (j : Job), jobOf s id = some j ∧ serving s 0 = true ∧ serving s j.slate = true ∧ j.ended = none ∧ j.phase
      = .suspended ∧ (samplingOf s j.slate).tags = [] ∧ ∃ k, j.wait = .ticket k ∧ ∃ w, (tabGet j.tickets k).bind (·.result) = some w) ∧
    (∃ (s : State) (id : Nat) (j : Job), jobOf s id = some j ∧ serving s 0 = true ∧ serving s j.slate = true ∧ j.ended = none ∧ j.phase
      = .suspended ∧ (samplingOf s j.slate).tags = [] ∧ ∃ k, j.wait = .ticket k ∧ (tabGet j.tickets k).bind (·.result) = none) ∧
    (∃ (s : State) (id : Nat) (j : Job), jobOf s id = some j ∧ serving s 0 = true ∧ serving s j.slate = true ∧ j.ended = none ∧ j.phase
      = .suspended ∧ (samplingOf s j.slate).tags = [] ∧ j.wait = .courses ∧ ∃ (st : BitVec 16), appendsDone s id = true ∧ j.result.getD
      St.ok = st) ∧
    (∃ (s : State) (id : Nat) (j : Job), jobOf s id = some j ∧ serving s 0 = true ∧ serving s j.slate = true ∧ j.ended = none ∧ j.phase
      = .suspended ∧ (samplingOf s j.slate).tags = [] ∧ j.wait = .courses ∧ appendsDone s id = false) ∧
    (∃ (s : State) (id : Nat) (j : Job), jobOf s id = some j ∧ serving s 0 = true ∧ serving s j.slate = true ∧ j.ended = none ∧ j.phase
      = .suspended ∧ (samplingOf s j.slate).tags = [] ∧ ∃ o, ∃ q, j.wait = .record o q ∧ recSettled s o q = true) :=
  ⟨⟨sj (sus (.payload 0 0 40)), 9, _, got (by decide +kernel), by decide +kernel, by decide +kernel, (by decide +kernel),
     by decide +kernel, by decide +kernel, 0, 0, 40, by decide +kernel, by decide +kernel⟩,
   ⟨sj (sus (.payload 0 40 41)), 9, _, got (by decide +kernel), by decide +kernel, by decide +kernel, (by decide +kernel),
     by decide +kernel, by decide +kernel, 0, 40, 41, by decide +kernel, by decide +kernel⟩,
   ⟨sj (sus (.ticket 1)), 9, _, got (by decide +kernel), by decide +kernel, by decide +kernel, (by decide +kernel), by decide +kernel,
     by decide +kernel, 1, by decide +kernel, _, got (by decide +kernel)⟩,
   ⟨sj (sus (.ticket 5)), 9, _, got (by decide +kernel), by decide +kernel, by decide +kernel, (by decide +kernel), by decide +kernel,
     by decide +kernel, 5, by decide +kernel, by decide +kernel⟩,
   ⟨sj (sus .courses), 9, _, got (by decide +kernel), by decide +kernel, by decide +kernel, (by decide +kernel), by decide +kernel,
     by decide +kernel, (by decide +kernel), 0, by decide +kernel, by decide +kernel⟩,
   ⟨{ sj (sus .courses) with leads := [(0, lead0)] }, 9, _, got (by decide +kernel), by decide +kernel, by decide +kernel,
     (by decide +kernel), by decide +kernel, by decide +kernel, (by decide +kernel), by decide +kernel⟩,
   ⟨own true (sj (sus (.record 0 5))), 9, _, got (by decide +kernel), by decide +kernel, by decide +kernel, (by decide +kernel),
     by decide +kernel, by decide +kernel, 0, 5, by decide +kernel, by decide +kernel⟩⟩

/-- Each hypothesis of JobResumes (its clauses 8 to 13) is met. -/
theorem witness_JobResumes_2 :
    (∃ (s : State) (id : Nat) (j : Job), jobOf s id = some j ∧ serving s 0 = true ∧ serving s j.slate = true ∧ j.ended = none ∧ j.phase
      = .suspended ∧ (samplingOf s j.slate).tags = [] ∧ ∃ o, ∃ q, j.wait = .record o q ∧ recSettled s o q = false) ∧
    (∃ (s : State) (id : Nat) (j : Job), jobOf s id = some j ∧ serving s 0 = true ∧ serving s j.slate = true ∧ j.ended = none ∧ j.phase
      = .suspended ∧ (samplingOf s j.slate).tags = [] ∧ ∃ i, j.wait = .hazard i ∧ (∀ h ∈ s.hazards, h.job = some id → h.id = i → i < 8 →
      hazBlocked s h = false)) ∧
    (∃ (s : State) (id : Nat) (j : Job), jobOf s id = some j ∧ serving s 0 = true ∧ serving s j.slate = true ∧ j.ended = none ∧ j.phase
      = .suspended ∧ (samplingOf s j.slate).tags = [] ∧ ∃ i, j.wait = .hazard i ∧ ∃ h ∈ s.hazards, h.job = some id ∧ h.id = i ∧ i < 8 ∧
      hazBlocked s h = true) ∧
    (∃ (s : State) (id : Nat) (j : Job), jobOf s id = some j ∧ serving s 0 = true ∧ serving s j.slate = true ∧ j.ended = none ∧ j.phase
      = .suspended ∧ (samplingOf s j.slate).tags = [] ∧ ∃ v, ∃ lba, j.wait = .mapGet v lba ∧ j.dst.toNat % 2 = 0 ∧ ∃ (st : BitVec 16),
      j.result = some st) ∧
    (∃ (s : State) (id : Nat) (j : Job), jobOf s id = some j ∧ serving s 0 = true ∧ serving s j.slate = true ∧ j.ended = none ∧ j.phase
      = .suspended ∧ (samplingOf s j.slate).tags = [] ∧ ∃ v, ∃ lba, j.wait = .mapGet v lba ∧ j.dst.toNat % 2 = 0 ∧ j.result = none ∧
      nodeCached s v 0 (lba / 512) = true) ∧
    (∃ (s : State) (id : Nat) (j : Job), jobOf s id = some j ∧ serving s 0 = true ∧ serving s j.slate = true ∧ j.ended = none ∧ j.phase
      = .suspended ∧ (samplingOf s j.slate).tags = [] ∧ ∃ v, ∃ lba, ∃ (x : Word) (st : BitVec 16), j.result = some st ∧ j.wait = .mapSet
      v lba x) :=
  ⟨⟨own false (sj (sus (.record 0 5))), 9, _, got (by decide +kernel), by decide +kernel, by decide +kernel, (by decide +kernel),
     by decide +kernel, by decide +kernel, 0, 5, by decide +kernel, by decide +kernel⟩,
   ⟨sj (sus (.hazard 1)), 9, _, got (by decide +kernel), by decide +kernel, by decide +kernel, (by decide +kernel), by decide +kernel,
     by decide +kernel, 1, by decide +kernel, by decide +kernel⟩,
   ⟨{ sj (sus (.hazard 1)) with hazards := [hz 1 1 5 (some 9), hz 0 2 3 none] }, 9, _, got (by decide +kernel), by decide +kernel,
     by decide +kernel, (by decide +kernel), by decide +kernel, by decide +kernel, 1, by decide +kernel, _,
     List.getElem_mem (n := 0) (by decide +kernel), by decide +kernel, by decide +kernel, (by decide +kernel), by decide +kernel⟩,
   ⟨sj { sus (.mapGet 3 5) with dst := 30, result := some 0 }, 9, _, got (by decide +kernel), by decide +kernel, by decide +kernel,
     (by decide +kernel), by decide +kernel, by decide +kernel, 3, 5, by decide +kernel, by decide +kernel, _, got (by decide +kernel)⟩,
   ⟨sj { sus (.mapGet 3 5) with dst := 4 }, 9, _, got (by decide +kernel), by decide +kernel, by decide +kernel, (by decide +kernel),
     by decide +kernel, by decide +kernel, 3, 5, by decide +kernel, by decide +kernel, (by decide +kernel), by decide +kernel⟩,
   ⟨sj { sus (.mapSet 3 5 1) with result := some 0 }, 9, _, got (by decide +kernel), by decide +kernel, by decide +kernel,
     (by decide +kernel), by decide +kernel, by decide +kernel, 3, 5, 1, _, got (by decide +kernel), by decide +kernel⟩⟩

end JobResumes

namespace ThreadTakesWork

def R (g : List (Nat × Nat)) : Tab Word := (g.filter fun p => p.2 != 0).map fun p => (p.1, BitVec.ofNat 64 p.2)

def jr (g : List (Nat × Nat)) : Job := { jobA with g := R g }

def sj (j : Job) : State := at_ (withQueue { withJob (pool 2) j with buffers := [(0, { slate := 0, len := 8192, data := [], inbound := true, arrived := [(0, 40)] })], nextBuf := 2 } kA qA) 700

def allBusy : State := { sj { jr [] with phase := .waitingThread } with resumeQ := [(0, [9])], threads := (List.range 192).map fun i => (i, 77) }

/-- Each hypothesis of ThreadTakesWork is met. -/
theorem witness_ThreadTakesWork :
    (∃ (s : State) (sl : Nat), serving s sl = true ∧ s.power.now = 2) ∧
    (∃ (s : State) (sl : Nat), serving s sl = true ∧
      let rq := tabGetD s.resumeQ sl []
      let dq := tabGetD s.dispatchQ sl []
      rq = [] ∧ dq = []) ∧
    (∃ (s : State) (sl : Nat), serving s sl = true ∧
      let free (i : Nat) : Prop := i < 192 ∧ isHkIdx i = false ∧ jobOn s { slate := sl, idx := i } = none
      (∀ i, ¬ free i)) ∧
    (∃ (s : State) (sl : Nat), serving s sl = true ∧
      let free (i : Nat) : Prop := i < 192 ∧ isHkIdx i = false ∧ jobOn s { slate := sl, idx := i } = none
      let p := tabGetD s.ptrs (ptrThread sl) 0
      let rq := tabGetD s.resumeQ sl []
      let dq := tabGetD s.dispatchQ sl []
      ∃ k, k < 192 ∧ s.power.now ≠ 2 ∧ free ((p + k) % 192) ∧ (∀ k' < k, ¬ free ((p + k') % 192)) ∧ ∃ id, (rq ++ dq).head? = some id ∧ ∃
        j, jobOf s id = some j ∧ j.slate = sl ∧ j.onWake = .resume) :=
  ⟨⟨{ sj { jr [] with phase := .waitingThread } with dispatchQ := [(0, [9])], power := { now := 2, target := none, exiting := false } },
     0, by decide +kernel, by decide +kernel⟩,
   ⟨{ sj { jr [] with phase := .waitingThread } with resumeQ := [(0, [9, 10])] }, 1, by decide +kernel, by decide +kernel,
     by decide +kernel⟩,
   ⟨allBusy, 0, by decide +kernel,
     (fun i h => (by decide +kernel : ∀ i < 192, ¬ jobOn (allBusy) { slate := 0, idx := i } = none) i h.1 h.2.2)⟩,
   ⟨{ sj { jr [] with phase := .waitingThread } with resumeQ := [(0, [9, 10])] }, 0, by decide +kernel, 0, by decide +kernel,
     by decide +kernel, (by decide +kernel), by decide +kernel, _, got (by decide +kernel), _, got (by decide +kernel), by decide +kernel,
     by decide +kernel⟩⟩

end ThreadTakesWork

namespace CommandDispatches

def R (g : List (Nat × Nat)) : Tab Word := (g.filter fun p => p.2 != 0).map fun p => (p.1, BitVec.ofNat 64 p.2)

def jr (g : List (Nat × Nat)) : Job := { jobA with g := R g }

def st (j : Job) : State := at_ (withJob (unit 2) j) 700

def sj (j : Job) : State := at_ (withQueue { withJob (pool 2) j with buffers := [(0, { slate := 0, len := 8192, data := [], inbound := true, arrived := [(0, 40)] })], nextBuf := 2 } kA qA) 700

def hz (i : Nat) (tag seq : Nat) (job : Option Nat) : Hazard := { hq := 5, tag := tag, job := job, id := i, pos := 0, seq := seq, volume := 3, lba := 5, count := 1, modify := true }

def cm (slot : Nat) (rights : Word) (out : Nat) : Cmd := { slot := slot, capsule := List.replicate 128 7, args := [1,2,3,4,5,6,7,8], inLen := 5, outLen := out, rights := rights, srcUa := 0x200, host := 11, keyId := 0x60300, cls := 3, ipv4 := false, mac := 0x1234, source := 99, tb := 55, buf := none }

def qd (c : Cmd) (st : TagState) : State := let s := sj (jr []); { s with queues := [(5, { qA with tags := [(1, { tagEmpty with st := st, last := some 7, cmd := some c })] })], progs := [(0, prog 0x300 false), (1, { prog 0x301 true with budget := 0 }), (2, prog 0xF8 true)], slots := [(0xF8, 2), (0x300, 0), (0x301, 1)], nextProg := 3 }

def hzd (s : State) : State := { s with hazards := [hz 0 2 3 none, hz 0 1 5 none] }

/-- Each hypothesis of CommandDispatches is met. -/
theorem witness_CommandDispatches :
    (∃ (s : State) (hq : Nat) (tag : Nat) (q : Queue), queueAt s hq = some q ∧ ∃ (c : Cmd), (tagAt q tag).cmd = some c ∧ serving s
      (hqSlate hq) = true ∧ (tagAt q tag).st = .held ∧ hq ≠ bootQueue ∧
      let mine (h : Hazard) : Prop := h.hq = hq ∧ h.tag = tag ∧ h.job = none
      let held : Prop := (∃ h ∈ s.hazards, mine h ∧ hazBlocked s h = true) ∨ (s.power.now = 2 ∧ c.cls = 7) ∨ (unitStopped s = true ∧
        c.cls ≠ 7)
      held) ∧
    (∃ (s : State) (hq : Nat) (tag : Nat) (q : Queue), queueAt s hq = some q ∧ ∃ (c : Cmd), (tagAt q tag).cmd = some c ∧ serving s
      (hqSlate hq) = true ∧ (tagAt q tag).st = .held ∧ hq ≠ bootQueue ∧
      let mine (h : Hazard) : Prop := h.hq = hq ∧ h.tag = tag ∧ h.job = none
      let held : Prop := (∃ h ∈ s.hazards, mine h ∧ hazBlocked s h = true) ∨ (s.power.now = 2 ∧ c.cls = 7) ∨ (unitStopped s = true ∧
        c.cls ≠ 7)
      ¬ held ∧ slotProg s c.slot = none) ∧
    (∃ (s : State) (hq : Nat) (tag : Nat) (q : Queue), queueAt s hq = some q ∧ ∃ (c : Cmd), (tagAt q tag).cmd = some c ∧ serving s
      (hqSlate hq) = true ∧ (tagAt q tag).st = .held ∧ hq ≠ bootQueue ∧
      let mine (h : Hazard) : Prop := h.hq = hq ∧ h.tag = tag ∧ h.job = none
      let held : Prop := (∃ h ∈ s.hazards, mine h ∧ hazBlocked s h = true) ∨ (s.power.now = 2 ∧ c.cls = 7) ∨ (unitStopped s = true ∧
        c.cls ≠ 7)
      ¬ held ∧ ∃ v p, slotProg s c.slot = some (v, p) ∧ (isHkSlot c.slot = true ∨ (p.keep = true ∧ c.rights.getLsbD 0 = false))) ∧
    (∃ (s : State) (hq : Nat) (tag : Nat) (q : Queue), queueAt s hq = some q ∧ ∃ (c : Cmd), (tagAt q tag).cmd = some c ∧ serving s
      (hqSlate hq) = true ∧ (tagAt q tag).st = .held ∧ hq ≠ bootQueue ∧
      let mine (h : Hazard) : Prop := h.hq = hq ∧ h.tag = tag ∧ h.job = none
      let held : Prop := (∃ h ∈ s.hazards, mine h ∧ hazBlocked s h = true) ∨ (s.power.now = 2 ∧ c.cls = 7) ∨ (unitStopped s = true ∧
        c.cls ≠ 7)
      ¬ held ∧ ∃ v p, slotProg s c.slot = some (v, p) ∧ isHkSlot c.slot = false ∧ (p.keep = true → c.rights.getLsbD 0 = true)) :=
  ⟨⟨hzd (qd (cm 0x300 0 0) .held), 5, 1, _, got (by decide +kernel), _, got (by decide +kernel), by decide +kernel, by decide +kernel,
     (by decide +kernel), by dsimp only; decide +kernel⟩,
   ⟨qd (cm 0x302 1 0) .held, 5, 1, _, got (by decide +kernel), _, got (by decide +kernel), by decide +kernel, by decide +kernel,
     (by decide +kernel), by decide +kernel, by decide +kernel⟩,
   ⟨qd (cm 0x301 0 0) .held, 5, 1, _, got (by decide +kernel), _, got (by decide +kernel), by decide +kernel, by decide +kernel,
     (by decide +kernel), by decide +kernel, _, _, gotp (by decide +kernel), by decide +kernel⟩,
   ⟨qd (cm 0x300 0 0) .held, 5, 1, _, got (by decide +kernel), _, got (by decide +kernel), by decide +kernel, by decide +kernel,
     (by decide +kernel), by decide +kernel, _, _, gotp (by decide +kernel), by decide +kernel, by decide +kernel⟩⟩

end CommandDispatches

namespace BudgetAndJobEnd

def R (g : List (Nat × Nat)) : Tab Word := (g.filter fun p => p.2 != 0).map fun p => (p.1, BitVec.ofNat 64 p.2)

def jr (g : List (Nat × Nat)) : Job := { jobA with g := R g }

def st (j : Job) : State := at_ (withJob (unit 2) j) 700

def sj (j : Job) : State := at_ (withQueue { withJob (pool 2) j with buffers := [(0, { slate := 0, len := 8192, data := [], inbound := true, arrived := [(0, 40)] })], nextBuf := 2 } kA qA) 700

def gr : Grain := { kind := .host, volume := 3, lba := 5, data := [], job := some 9, dead := false, seqs := [] }

def lead0 : Lead := { slate := 0, ordinal := none, handover := false, waiting := [{ slate := 0, tb := 0, started := false, grains := [gr], atomic := false }] }

def en : JobEnd := { resp := respOf St.ok [1,2,3,4], trap := false }

def ended (j : Job) (trap : Bool) : Job := { j with ended := some { en with trap := trap }, phase := .ending, buffers := [0] }

def qe (j : Job) (st : TagState) : State := { sj j with queues := [(5, { qA with tags := [(1, { tagEmpty with st := st, last := some 7, job := some 9, cmd := some { slot := 0x300, capsule := [], args := [], inLen := 0, outLen := 0, rights := 0, srcUa := 0x200, host := 11, keyId := 0x60300, cls := 3, ipv4 := false, mac := 0x1234, source := 99, tb := 55, buf := some 1 } })] })] }

/-- Each hypothesis of BudgetAndJobEnd is met. -/
theorem witness_BudgetAndJobEnd :
    (∃ (s : State) (t : Thread) (id : Nat), jobOn s t = some id ∧ ∃ (j : Job), jobOf s id = some j ∧ serving s t.slate = true ∧ j.ended
      = none ∧ j.wait = .none ∧ isHk j = false ∧ j.budget = 0) ∧
    (∃ (s : State) (t : Thread) (id : Nat), jobOn s t = some id ∧ ∃ (j : Job), jobOf s id = some j ∧ serving s t.slate = true ∧ j.ended
      = none ∧ j.wait = .none ∧ (isHk j = true ∨ j.budget ≠ 0)) ∧
    (∃ (s : State) (id : Nat) (j : Job), jobOf s id = some j ∧ ∃ (e : JobEnd), j.ended = some e ∧ serving s 0 = true ∧ serving s j.slate
      = true ∧ workDone s id j = false) ∧
    (∃ (s : State) (id : Nat) (j : Job), jobOf s id = some j ∧ ∃ (e : JobEnd), j.ended = some e ∧ serving s 0 = true ∧ serving s j.slate
      = true ∧ workDone s id j = true ∧ (j.kind = .launched ∨ (j.kind = .command ∧ j.detached = true))) ∧
    (∃ (s : State) (id : Nat) (j : Job), jobOf s id = some j ∧ ∃ (e : JobEnd), j.ended = some e ∧ serving s 0 = true ∧ serving s j.slate
      = true ∧ workDone s id j = true ∧ ∃ n, j.kind = .housekeeping n) ∧
    (∃ (s : State) (id : Nat) (j : Job), jobOf s id = some j ∧ ∃ (e : JobEnd), j.ended = some e ∧ serving s 0 = true ∧ serving s j.slate
      = true ∧ workDone s id j = true ∧ ∃ q, queueAt s j.hq = some q ∧ ∃ c, (tagAt q j.tag).cmd = some c ∧ j.kind = .command ∧
      j.detached = false ∧ q.resident = true ∧ j.hq ≠ bootQueue ∧ (tagAt q j.tag).job = some id) ∧
    (∃ (s : State) (t : Thread) (id : Nat) (j : Job) (n : Nat), Issues s t id j 1 ∧ j.kind = .housekeeping n ∧ isF s t.slate
      (F.ENGINE.HK_EN n) = true) :=
  ⟨⟨sj { jr [] with budget := 0 }, thr, _, got (by decide +kernel), _, got (by decide +kernel), by decide +kernel, by decide +kernel,
     (by decide +kernel), by decide +kernel, by decide +kernel⟩,
   ⟨sj (jr []), thr, _, got (by decide +kernel), _, got (by decide +kernel), by decide +kernel, by decide +kernel, (by decide +kernel),
     by decide +kernel⟩,
   ⟨{ qe (ended (jr []) false) .active with leads := [(0, lead0)] }, 9, _, got (by decide +kernel), _, got (by decide +kernel),
     by decide +kernel, by decide +kernel, by decide +kernel⟩,
   ⟨qe { ended (jr []) true with kind := .launched } .active, 9, _, got (by decide +kernel), _, got (by decide +kernel),
     by decide +kernel, by decide +kernel, (by decide +kernel), by decide +kernel⟩,
   ⟨F1 (sj { ended (jr []) true with kind := .housekeeping 3, phase := .running 175 }) 0 (F.ENGINE.HK_EN 3) 1, 9, _,
     got (by decide +kernel), _, got (by decide +kernel), by decide +kernel, by decide +kernel, (by decide +kernel), 3, by decide +kernel⟩,
   ⟨qe (ended (jr []) false) .active, 9, _, got (by decide +kernel), _, got (by decide +kernel), by decide +kernel, by decide +kernel,
     (by decide +kernel), _, got (by decide +kernel), _, got (by decide +kernel), by decide +kernel, by decide +kernel, (by decide +kernel),
     by decide +kernel, by decide +kernel⟩,
   ⟨sj { jr [] with budget := 0, kind := .housekeeping 0, phase := .running 163 }, { slate := 0, idx := 163 }, 9,
     (jobOf (sj { jr [] with budget := 0, kind := .housekeeping 0, phase := .running 163 }) 9).getD jobA, 0,
     issues_of (by decide +kernel), by decide +kernel, by decide +kernel⟩⟩

end BudgetAndJobEnd

namespace HousekeepingAndEvents

def R (g : List (Nat × Nat)) : Tab Word := (g.filter fun p => p.2 != 0).map fun p => (p.1, BitVec.ofNat 64 p.2)

def jr (g : List (Nat × Nat)) : Job := { jobA with g := R g }

def hk (n : Nat) (g : List (Nat × Nat)) : Job := { jr g with kind := .housekeeping n, keep := true, budget := 0, phase := .running (163 + 4 * n), wait := .event (some 700), dst := 5 }

def sk (j : Job) : State := at_ { withJob (unit 2) j with progs := [(0, prog 0xFB true), (3, prog 0x300 false)], slots := [(0xFB, 0), (0x300, 3)], nextProg := 4 } 700

def en (n v : Nat) (s : State) : State := F1 s 0 (F.ENGINE.HK_EN n) v

def rst (n t : Nat) (s : State) : State := { s with hkRestart := [(n, t)] }

def pend (e tgt mode slot : Nat) (s : State) : State :=
  { F1 s 0 (fPend e) 1 with ptrs := [(ptrEvent 0 tgt, e)], evPend := [(evKey 0 e, { tb := 55, mode := mode, target := tgt, slot := slot })] }

def lau (k en : Nat) (s : State) : State := F1 s 0 (F.ENGINE.L_EN k) en

def lots (s : State) : State := { s with jobs := (List.range 256).map fun i => (i + 20, { jobA with kind := .launched }) }

/-- Each hypothesis of HousekeepingAndEvents (its clauses 1 to 7) is met. -/
theorem witness_HousekeepingAndEvents_1 :
    (∃ (s : State) (sl : Nat) (n : Nat), serving s sl = true ∧ n < 8 ∧ jobOn s { slate := sl, idx := 163 + 4 * n } = none ∧ ∃ t, tabGet
      s.hkRestart (sl * 8 + n) = some t ∧ now s sl < t) ∧
    (∃ (s : State) (sl : Nat) (n : Nat), serving s sl = true ∧ n < 8 ∧ jobOn s { slate := sl, idx := 163 + 4 * n } = none ∧ ∃ t, tabGet
      s.hkRestart (sl * 8 + n) = some t ∧ t ≤ now s sl ∧ isF s sl (F.ENGINE.HK_EN n) = false) ∧
    (∃ (s : State) (sl : Nat) (n : Nat) (v : Nat) (p : Program), serving s sl = true ∧ n < 8 ∧ jobOn s { slate := sl, idx := 163 + 4 * n
      } = none ∧ ∃ t, tabGet s.hkRestart (sl * 8 + n) = some t ∧ t ≤ now s sl ∧ isF s sl (F.ENGINE.HK_EN n) = true ∧ slotProg s (getF s
      sl (F.ENGINE.HK_SLOT n)) = some (v, p) ∧ p.keep = true) ∧
    (∃ (s : State) (sl : Nat) (n : Nat), serving s sl = true ∧ n < 8 ∧ jobOn s { slate := sl, idx := 163 + 4 * n } = none ∧ ∃ (w :
      Word),
      let x := withF w (F.ENGINE.HK_RESTART n) 1
      legal s sl 0x02 (0x10 + n) x = false) ∧
    (∃ (s : State) (sl : Nat) (n : Nat) (v : Nat) (p : Program), serving s sl = true ∧ n < 8 ∧ jobOn s { slate := sl, idx := 163 + 4 * n
      } = none ∧ ∃ (w : Word),
      let x := withF w (F.ENGINE.HK_RESTART n) 1
      legal s sl 0x02 (0x10 + n) x = true ∧ fv x (F.ENGINE.HK_EN n) = 1 ∧ slotProg s (fv x (F.ENGINE.HK_SLOT n)) = some (v, p) ∧ p.keep
        = true) ∧
    (∃ (s : State) (sl : Nat) (n : Nat) (id : Nat), jobOn s { slate := sl, idx := 163 + 4 * n } = some id ∧ ∃ (e : Nat), evwPick s sl n
      = some e ∧ ∃ (j : Job), jobOf s id = some j ∧ ∃ (d : Option Nat), serving s sl = true ∧ serving s 0 = true ∧ j.slate = sl ∧ j.kind
      = .housekeeping n ∧ j.phase = .running (163 + 4 * n) ∧ j.wait = .event d ∧ j.ended = none ∧ (samplingOf s sl).tags = [] ∧ e <
      2048) ∧
    (∃ (s : State) (sl : Nat) (n : Nat) (id : Nat), jobOn s { slate := sl, idx := 163 + 4 * n } = some id ∧ ∃ (e : Nat) (j : Job), jobOf
      s id = some j ∧ ∃ (d : Option Nat), serving s sl = true ∧ serving s 0 = true ∧ j.slate = sl ∧ j.kind = .housekeeping n ∧ j.phase =
      .running (163 + 4 * n) ∧ j.wait = .event d ∧ j.ended = none ∧ (samplingOf s sl).tags = [] ∧ e < 2048 ∧ ∃ t, d = some t ∧ now s sl
      < t) :=
  ⟨⟨rst 3 701 (sk (jr [])), 0, 3, by decide +kernel, by decide +kernel, (by decide +kernel), _, got (by decide +kernel),
     by decide +kernel⟩,
   ⟨rst 3 700 (en 3 0 (sk (jr []))), 0, 3, by decide +kernel, by decide +kernel, (by decide +kernel), _, got (by decide +kernel),
     by decide +kernel, by decide +kernel⟩,
   ⟨rst 3 700 (en 3 1 (sk (jr []))), 0, 3, 0, prog 0xFB true, by decide +kernel, by decide +kernel, (by decide +kernel), _,
     got (by decide +kernel), by decide +kernel, by decide +kernel, (by decide +kernel), by decide +kernel⟩,
   ⟨rst 3 701 (sk (jr [])), 0, 0, by decide +kernel, by decide +kernel, (by decide +kernel), 0xFFFFFFFFFFFFFFFF,
     by dsimp only; decide +kernel⟩,
   ⟨rst 3 701 (sk (jr [])), 0, 0, 0, prog 0xFB true, by decide +kernel, by decide +kernel, (by decide +kernel), 0x100FB,
     by decide +kernel, by decide +kernel, (by decide +kernel), by decide +kernel⟩,
   ⟨pend 200 3 1 0 (sk (hk 3 [])), 0, 3, _, got (by decide +kernel), _, got (by decide +kernel), _, got (by decide +kernel), some 700,
     by decide +kernel, by decide +kernel, (by decide +kernel), by decide +kernel, by decide +kernel, (by decide +kernel),
     by decide +kernel, by decide +kernel, by decide +kernel⟩,
   ⟨sk { hk 3 [] with wait := .event (some 701) }, 0, 3, _, got (by decide +kernel), 0, _, got (by decide +kernel), some 701,
     by decide +kernel, by decide +kernel, (by decide +kernel), by decide +kernel, by decide +kernel, (by decide +kernel),
     by decide +kernel, by decide +kernel, (by decide +kernel), _, got (by decide +kernel), by decide +kernel⟩⟩

/-- Each hypothesis of HousekeepingAndEvents (its clauses 8 to 13) is met. -/
theorem witness_HousekeepingAndEvents_2 :
    (∃ (s : State) (sl : Nat) (n : Nat) (id : Nat), jobOn s { slate := sl, idx := 163 + 4 * n } = some id ∧ ∃ (e : Nat) (j : Job), jobOf
      s id = some j ∧ ∃ (d : Option Nat), serving s sl = true ∧ serving s 0 = true ∧ j.slate = sl ∧ j.kind = .housekeeping n ∧ j.phase =
      .running (163 + 4 * n) ∧ j.wait = .event d ∧ j.ended = none ∧ (samplingOf s sl).tags = [] ∧ e < 2048 ∧ ∃ t, d = some t ∧ t ≤ now s
      sl ∧ evwPick s sl n = none) ∧
    (∃ (s : State) (sl : Nat) (n : Nat) (id : Nat), jobOn s { slate := sl, idx := 163 + 4 * n } = some id ∧ ∃ (e : Nat), evwPick s sl n
      = some e ∧ ∃ (j : Job), jobOf s id = some j ∧ ∃ (d : Option Nat), serving s sl = true ∧ serving s 0 = true ∧ j.slate = sl ∧ j.kind
      = .housekeeping n ∧ j.phase = .running (163 + 4 * n) ∧ j.wait = .event d ∧ j.ended = none ∧ (samplingOf s sl).tags = [] ∧ e < 2048
      ∧ ∃ t, d = some t ∧ t ≤ now s sl) ∧
    (∃ (s : State) (sl : Nat) (e : Nat) (o : Occurrence), occOf s sl e = some o ∧ serving s sl = true ∧ e < 2048 ∧ isF s sl (fPend e) =
      true ∧ Uncounted s sl ∧ o.mode ≠ 2) ∧
    (∃ (s : State) (sl : Nat) (e : Nat) (o : Occurrence), occOf s sl e = some o ∧ serving s sl = true ∧ e < 2048 ∧ isF s sl (fPend e) =
      true ∧ Uncounted s sl ∧ o.mode = 2 ∧ 256 ≤ launchBusy s sl) ∧
    (∃ (s : State) (sl : Nat) (e : Nat) (v : Nat) (p : Program) (o : Occurrence), occOf s sl e = some o ∧ serving s sl = true ∧ e < 2048
      ∧ isF s sl (fPend e) = true ∧ Uncounted s sl ∧
      let k := o.target % 16
      let slot := o.slot
      o.mode = 2 ∧ launchBusy s sl < 256 ∧ isF s sl (F.ENGINE.L_EN k) = true ∧ isHkSlot slot = false ∧ slotProg s slot = some (v, p)) ∧
    (∃ (s : State) (sl : Nat) (e : Nat) (o : Occurrence), occOf s sl e = some o ∧ serving s sl = true ∧ e < 2048 ∧ isF s sl (fPend e) =
      true ∧ Uncounted s sl ∧
      let k := o.target % 16
      let slot := o.slot
      o.mode = 2 ∧ launchBusy s sl < 256 ∧ (isF s sl (F.ENGINE.L_EN k) = false ∨ isHkSlot slot = true ∨ slotProg s slot = none)) :=
  ⟨⟨sk (hk 3 []), 0, 3, _, got (by decide +kernel), 0, _, got (by decide +kernel), some 700, by decide +kernel, by decide +kernel,
     (by decide +kernel), by decide +kernel, by decide +kernel, (by decide +kernel), by decide +kernel, by decide +kernel,
     (by decide +kernel), _, got (by decide +kernel), by decide +kernel, evwPick_quiet (by decide +kernel)⟩,
   ⟨pend 200 3 1 0 (sk (hk 3 [])), 0, 3, _, got (by decide +kernel), _, got (by decide +kernel), _, got (by decide +kernel), some 700,
     by decide +kernel, by decide +kernel, (by decide +kernel), by decide +kernel, by decide +kernel, (by decide +kernel),
     by decide +kernel, by decide +kernel, (by decide +kernel), _, got (by decide +kernel), by decide +kernel⟩,
   ⟨pend 200 3 1 0 (sk (hk 3 [])), 0, 200, _, got (by decide +kernel), by decide +kernel, by decide +kernel, (by decide +kernel),
     uncounted_of (by decide +kernel), by decide +kernel⟩,
   ⟨lots (lau 5 1 (pend 200 5 2 0x300 (sk (jr [])))), 0, 200, _, got (by decide +kernel), by decide +kernel, by decide +kernel,
     (by decide +kernel), uncounted_of (by decide +kernel), by decide +kernel, by decide +kernel⟩,
   ⟨lau 5 1 (pend 200 5 2 0x300 (sk (jr []))), 0, 200, 3, prog 0x300 false, _, got (by decide +kernel), by decide +kernel,
     by decide +kernel, (by decide +kernel), uncounted_of (by decide +kernel), by decide +kernel, by decide +kernel, (by decide +kernel),
     by decide +kernel, by decide +kernel⟩,
   ⟨lau 5 0 (pend 200 5 2 0x300 (sk (jr []))), 0, 200, _, got (by decide +kernel), by decide +kernel, by decide +kernel,
     (by decide +kernel), uncounted_of (by decide +kernel), by decide +kernel, by decide +kernel, by decide +kernel⟩⟩

end HousekeepingAndEvents

namespace IngressChecks

def link (s : State) : State := F1 s 0 F.PORT.LINK_UP 1

def cap0 : Block := [1] ++ List.replicate 127 0

def d0 : Datagram := fit tyCommand { dg with payload := cap0 }

def kS : KeyEntry := { kA with mode := 2, persist := true }

def ingressRows (s : State) (d : Datagram) : List (Instr × Prop) :=
  [(.command d, headerOk s d tyCommand false true = true ∧ d.offset = 0 ∧ 128 ≤ d.payload.length ∧ d.payload.length ≤ 1152),
   (.dataIn d, headerOk s d tyData false true = true ∧ d.slot = 0),
   (.abort d, headerOk s d tyAbort false true = true ∧ d.slot = 0 ∧ d.offset = 0 ∧ d.payload = []),
   (.queueResetAbort d, headerOk s d tyAbort true true = true ∧ d.flags.getLsbD 2 = true ∧ d.hqTag.toNat % 32 = 0 ∧
     d.slot = 0 ∧ d.offset = 0 ∧ d.payload = [])]

abbrev ours (s : State) (d : Datagram) : Prop := d.udpPort = getF s d.port F.XPORT.UDP_PORT ∧ answersTo s d.port d.ipv4 d.dest = true

def kk (k : KeyEntry) : State := link (at_ (withQueue (unit 2) k qA) 700)

def noUa (s : State) : State := { s with chain := { s.chain with uaValid := false } }

def noIo (s : State) : State := { s with ready := State.reset.ready }

/-- Each hypothesis of IngressChecks is met. -/
theorem witness_IngressChecks :
    (∃ (s : State) (d : Datagram) (k : KeyEntry), Proved s d k ∧ headerOk s d tyCommand false true = true ∧ d.offset = 0 ∧ 128 ≤
      d.payload.length ∧ d.payload.length ≤ 1152 ∧ (d.cls = 7 ∨ d.cls = 3) ∧ CanSend s d.port d.cls ∧
      let stale : Prop := d.keyId.toNat / 256 % 256 ≠ k.gen.toNat
      stale) ∧
    (∃ (s : State) (d : Datagram) (k : KeyEntry), Proved s d k ∧ headerOk s d tyCommand false true = true ∧ d.offset = 0 ∧ 128 ≤
      d.payload.length ∧ d.payload.length ≤ 1152 ∧ (d.cls = 7 ∨ d.cls = 3) ∧ CanSend s d.port d.cls ∧
      let stale : Prop := d.keyId.toNat / 256 % 256 ≠ k.gen.toNat
      let bound : Prop := k.window = false ∧ k.bind = dgNumber d ∧ ∀ q, queueAt s (dgNumber d) = some q → q.host = d.host
      ¬ stale ∧ ¬ bound) ∧
    (∃ (s : State) (d : Datagram) (k : KeyEntry), Proved s d k ∧ headerOk s d tyCommand false true = true ∧ d.offset = 0 ∧ 128 ≤
      d.payload.length ∧ d.payload.length ≤ 1152 ∧ (d.cls = 7 ∨ d.cls = 3) ∧ CanSend s d.port d.cls ∧
      let stale : Prop := d.keyId.toNat / 256 % 256 ≠ k.gen.toNat
      let bound : Prop := k.window = false ∧ k.bind = dgNumber d ∧ ∀ q, queueAt s (dgNumber d) = some q → q.host = d.host
      let ranged : Prop := k.lo.toNat ≤ d.slot.toNat ∧ d.slot.toNat ≤ k.hi.toNat
      ¬ stale ∧ bound ∧ ¬ ranged) ∧
    (∃ (s : State) (d : Datagram) (k : KeyEntry), Proved s d k ∧ headerOk s d tyCommand false true = true ∧ d.offset = 0 ∧ 128 ≤
      d.payload.length ∧ d.payload.length ≤ 1152 ∧ (d.cls = 7 ∨ d.cls = 3) ∧ CanSend s d.port d.cls ∧
      let stale : Prop := d.keyId.toNat / 256 % 256 ≠ k.gen.toNat
      let bound : Prop := k.window = false ∧ k.bind = dgNumber d ∧ ∀ q, queueAt s (dgNumber d) = some q → q.host = d.host
      let ranged : Prop := k.lo.toNat ≤ d.slot.toNat ∧ d.slot.toNat ≤ k.hi.toNat
      ¬ stale ∧ bound ∧ ranged ∧ d.cls = 3 ∧ servesIo s = false) ∧
    (∃ (s : State) (d : Datagram) (k : KeyEntry), Proved s d k ∧ headerOk s d tyCommand false true = true ∧ d.offset = 0 ∧ 128 ≤
      d.payload.length ∧ d.payload.length ≤ 1152 ∧ (d.cls = 7 ∨ d.cls = 3) ∧ CanSend s d.port d.cls ∧
      let stale : Prop := d.keyId.toNat / 256 % 256 ≠ k.gen.toNat
      let bound : Prop := k.window = false ∧ k.bind = dgNumber d ∧ ∀ q, queueAt s (dgNumber d) = some q → q.host = d.host
      let ranged : Prop := k.lo.toNat ≤ d.slot.toNat ∧ d.slot.toNat ≤ k.hi.toNat
      ¬ stale ∧ bound ∧ ranged ∧ d.cls = 3 ∧ servesIo s = true ∧ queueAt s (dgNumber d) = none ∧ hqSlate (dgNumber d) = d.port) :=
  ⟨⟨kk ({ kA with gen := 4 }), d0, { kA with gen := 4 }, proved_of (by decide +kernel), by decide +kernel, by decide +kernel,
     (by decide +kernel), by decide +kernel, by decide +kernel, canSend_of (by decide +kernel), by dsimp only; decide +kernel⟩,
   ⟨kk ({ kA with bind := 6 }), d0, { kA with bind := 6 }, proved_of (by decide +kernel), by decide +kernel, by decide +kernel,
     (by decide +kernel), by decide +kernel, by decide +kernel, canSend_of (by decide +kernel), by decide +kernel, by decide +kernel⟩,
   ⟨kk ({ kA with lo := 0x301 }), d0, { kA with lo := 0x301 }, proved_of (by decide +kernel), by decide +kernel, by decide +kernel,
     (by decide +kernel), by decide +kernel, by decide +kernel, canSend_of (by decide +kernel), by decide +kernel, by decide +kernel,
     by decide +kernel⟩,
   ⟨noIo (kk kA), d0, kA, proved_of (by decide +kernel), by decide +kernel, by decide +kernel, (by decide +kernel), by decide +kernel,
     by decide +kernel, canSend_of (by decide +kernel), by decide +kernel, by decide +kernel, (by decide +kernel), by decide +kernel,
     by decide +kernel⟩,
   ⟨{ kk kA with queues := [] }, d0, kA, proved_of (by decide +kernel), by decide +kernel, by decide +kernel, (by decide +kernel),
     by decide +kernel, by decide +kernel, canSend_of (by decide +kernel), by decide +kernel, by decide +kernel, (by decide +kernel),
     by decide +kernel, by decide +kernel, (by decide +kernel), by decide +kernel⟩⟩

/-- The hypotheses of IngressChecks' first half, each at one of its four rows, are met. -/
theorem witness_IngressChecks_checks :
    (∃ s d c form, serving s d.port = true ∧ (c, form) ∈ ingressRows s d ∧ ¬ ours s d) ∧
    (∃ s d c form, serving s d.port = true ∧ (c, form) ∈ ingressRows s d ∧ ours s d ∧ ¬ form) ∧
    (∃ s d c form, serving s d.port = true ∧ (c, form) ∈ ingressRows s d ∧ ours s d ∧ form ∧ s.chain.uaValid = false) ∧
    (∃ s d c form, serving s d.port = true ∧ (c, form) ∈ ingressRows s d ∧ ours s d ∧ form ∧ s.chain.uaValid = true ∧
      d.dstUa = s.chain.ua ∧ d.cls ≠ 7 ∧ d.cls ≠ 3) ∧
    (∃ s d c form, serving s d.port = true ∧ (c, form) ∈ ingressRows s d ∧ ours s d ∧ form ∧ s.chain.uaValid = true ∧
      d.dstUa = s.chain.ua ∧ d.cls = 3 ∧ keyOf s d.port (keyIndex d.keyId) = none) ∧
    (∃ s d c form k, serving s d.port = true ∧ (c, form) ∈ ingressRows s d ∧ ours s d ∧ form ∧ s.chain.uaValid = true ∧
      d.dstUa = s.chain.ua ∧ d.cls = 3 ∧ keyOf s d.port (keyIndex d.keyId) = some k ∧ d.flags.getLsbD 0 ≠ keySeals k) ∧
    (∃ s d c form k, serving s d.port = true ∧ (c, form) ∈ ingressRows s d ∧ ours s d ∧ form ∧ s.chain.uaValid = true ∧
      d.dstUa = s.chain.ua ∧ d.cls = 3 ∧ keyOf s d.port (keyIndex d.keyId) = some k ∧ d.flags.getLsbD 0 = keySeals k ∧ k.mode = 0 ∧
      d.check ≠ k.check) ∧
    (∃ s d c form k, serving s d.port = true ∧ (c, form) ∈ ingressRows s d ∧ ours s d ∧ form ∧ s.chain.uaValid = true ∧
      d.dstUa = s.chain.ua ∧ d.cls = 3 ∧ keyOf s d.port (keyIndex d.keyId) = some k ∧ d.flags.getLsbD 0 = keySeals k ∧
      keySeals k = true ∧ authentic k d = false) :=
  ⟨⟨kk kA, { d0 with udpPort := 6911 }, _, _, by decide +kernel, .head _, by decide +kernel⟩,
   ⟨kk kA, fit tyCommand { d0 with payload := List.replicate 127 1 }, _, _, by decide +kernel, .head _, by decide +kernel, by decide +kernel⟩,
   ⟨noUa (kk kA), fit tyData { dg with slot := 0 }, _, _, by decide +kernel, .tail _ (.head _), by decide +kernel, by decide +kernel, rfl⟩,
   ⟨kk kA, fit tyAbort { dg with slot := 0, cls := 2 }, _, _, by decide +kernel, .tail _ (.tail _ (.head _)), by decide +kernel, by decide +kernel⟩,
   ⟨{ kk kA with keys := [] }, fit tyAbort { dg with slot := 0, flags := 4, hqTag := 0x5000 }, _, _, by decide +kernel,
     .tail _ (.tail _ (.tail _ (.head _))), by decide +kernel, by decide +kernel⟩,
   ⟨kk kA, fit tyCommand { d0 with flags := 1 }, _, _, kA, by decide +kernel, .head _, by decide +kernel, by decide +kernel⟩,
   ⟨kk kA, fit tyData { dg with slot := 0, check := 78 }, _, _, kA, by decide +kernel, .tail _ (.head _), by decide +kernel, by decide +kernel⟩,
   ⟨kk kS, fit tyCommand { d0 with flags := 1, check := 0x1000000000000 }, _, _, kS, by decide +kernel, .head _, by decide +kernel,
     by decide +kernel⟩⟩

end IngressChecks

namespace CommandAdmission

def link (s : State) : State := F1 s 0 F.PORT.LINK_UP 1

def cap0 : Block := [1] ++ List.replicate 127 0

def d0 : Datagram := fit tyCommand { dg with payload := cap0 }

def cm0 : Cmd := { slot := 0x300, capsule := cap0, args := [0,0,0,0,0,0,0,0], inLen := 100, outLen := 0, rights := 0, srcUa := 0x200, host := 11, keyId := 0x60300, cls := 3, ipv4 := false, mac := 0x1234, source := 99, tb := 55, buf := some 0 }

def tg0 : Tag := { tagEmpty with st := .held, last := some 8, cmd := some cm0 }

def qT (t : Tag) : Queue := { qA with tags := [(1, t)] }

def sT (q : Queue) (k : KeyEntry := kA) : State := { link (at_ (withQueue (unit 2) k q) 700) with buffers := [(0, { slate := 0, len := 100, data := [(0, 1), (70, 9)], inbound := true, arrived := [(0, 64)] })], nextBuf := 1 }

/-- Each hypothesis of CommandAdmission is met. -/
theorem witness_CommandAdmission :
    (∃ (s : State) (d : Datagram) (k : KeyEntry) (q : Queue), Reaches s d k q ∧ headerOk s d tyCommand false true = true ∧ d.offset = 0
      ∧ 128 ≤ d.payload.length ∧ d.payload.length ≤ 1152 ∧ k.lo.toNat ≤ d.slot.toNat ∧ d.slot.toNat ≤ k.hi.toNat ∧ (d.cls = 7 →
      s.recovery ≥ 2 ∧ ∀ v p, slotProg s d.slot.toNat = some (v, p) → p.keep = true) ∧ s.power.now ≠ 2 ∧ s.power.target = none ∧
      inFlight s (hqSlate (dgNumber d)) < 65536 ∧ Uncounted s (hqSlate (dgNumber d)) ∧ CanSend s (hqSlate (dgNumber d)) d.cls ∧ dgNumber
      d ≠ bootQueue ∧ q.armed = false) ∧
    (∃ (s : State) (d : Datagram) (k : KeyEntry) (q : Queue), Reaches s d k q ∧ headerOk s d tyCommand false true = true ∧ d.offset = 0
      ∧ 128 ≤ d.payload.length ∧ d.payload.length ≤ 1152 ∧ k.lo.toNat ≤ d.slot.toNat ∧ d.slot.toNat ≤ k.hi.toNat ∧ (d.cls = 7 →
      s.recovery ≥ 2 ∧ ∀ v p, slotProg s d.slot.toNat = some (v, p) → p.keep = true) ∧ s.power.now ≠ 2 ∧ s.power.target = none ∧
      inFlight s (hqSlate (dgNumber d)) < 65536 ∧ Uncounted s (hqSlate (dgNumber d)) ∧ CanSend s (hqSlate (dgNumber d)) d.cls ∧ dgNumber
      d ≠ bootQueue ∧
      let t := d.hqTag.toNat % 32
      let tg := tagAt q t
      let n := d.nonce.toNat
      let barred : Prop := n ≤ q.resetNonce.toNat ∨ (∃ b, tg.bar = some b ∧ n ≤ b.toNat) ∨ (∃ l, tg.last = some l ∧ n < l.toNat)
      q.armed = true ∧ barred) ∧
    (∃ (s : State) (d : Datagram) (k : KeyEntry) (q : Queue), Reaches s d k q ∧ headerOk s d tyCommand false true = true ∧ d.offset = 0
      ∧ 128 ≤ d.payload.length ∧ d.payload.length ≤ 1152 ∧ k.lo.toNat ≤ d.slot.toNat ∧ d.slot.toNat ≤ k.hi.toNat ∧ (d.cls = 7 →
      s.recovery ≥ 2 ∧ ∀ v p, slotProg s d.slot.toNat = some (v, p) → p.keep = true) ∧ s.power.now ≠ 2 ∧ s.power.target = none ∧
      inFlight s (hqSlate (dgNumber d)) < 65536 ∧ Uncounted s (hqSlate (dgNumber d)) ∧ CanSend s (hqSlate (dgNumber d)) d.cls ∧ dgNumber
      d ≠ bootQueue ∧
      let t := d.hqTag.toNat % 32
      let tg := tagAt q t
      let n := d.nonce.toNat
      let barred : Prop := n ≤ q.resetNonce.toNat ∨ (∃ b, tg.bar = some b ∧ n ≤ b.toNat) ∨ (∃ l, tg.last = some l ∧ n < l.toNat)
      q.armed = true ∧ ¬ barred ∧ tg.last = some d.nonce ∧ (tagBusy tg = true ∨ tg.resp = none)) ∧
    (∃ (s : State) (d : Datagram) (k : KeyEntry) (q : Queue), Reaches s d k q ∧ headerOk s d tyCommand false true = true ∧ d.offset = 0
      ∧ 128 ≤ d.payload.length ∧ d.payload.length ≤ 1152 ∧ k.lo.toNat ≤ d.slot.toNat ∧ d.slot.toNat ≤ k.hi.toNat ∧ (d.cls = 7 →
      s.recovery ≥ 2 ∧ ∀ v p, slotProg s d.slot.toNat = some (v, p) → p.keep = true) ∧ s.power.now ≠ 2 ∧ s.power.target = none ∧
      inFlight s (hqSlate (dgNumber d)) < 65536 ∧ Uncounted s (hqSlate (dgNumber d)) ∧ CanSend s (hqSlate (dgNumber d)) d.cls ∧ dgNumber
      d ≠ bootQueue ∧
      let t := d.hqTag.toNat % 32
      let tg := tagAt q t
      let n := d.nonce.toNat
      let barred : Prop := n ≤ q.resetNonce.toNat ∨ (∃ b, tg.bar = some b ∧ n ≤ b.toNat) ∨ (∃ l, tg.last = some l ∧ n < l.toNat)
      q.armed = true ∧ ¬ barred ∧ tg.last = some d.nonce ∧ ∃ r, tg.resp = some r ∧ tagBusy tg = false) ∧
    (∃ (s : State) (d : Datagram) (k : KeyEntry) (q : Queue), Reaches s d k q ∧ headerOk s d tyCommand false true = true ∧ d.offset = 0
      ∧ 128 ≤ d.payload.length ∧ d.payload.length ≤ 1152 ∧ k.lo.toNat ≤ d.slot.toNat ∧ d.slot.toNat ≤ k.hi.toNat ∧ (d.cls = 7 →
      s.recovery ≥ 2 ∧ ∀ v p, slotProg s d.slot.toNat = some (v, p) → p.keep = true) ∧ s.power.now ≠ 2 ∧ s.power.target = none ∧
      inFlight s (hqSlate (dgNumber d)) < 65536 ∧ Uncounted s (hqSlate (dgNumber d)) ∧ CanSend s (hqSlate (dgNumber d)) d.cls ∧ dgNumber
      d ≠ bootQueue ∧
      let t := d.hqTag.toNat % 32
      let tg := tagAt q t
      let n := d.nonce.toNat
      let barred : Prop := n ≤ q.resetNonce.toNat ∨ (∃ b, tg.bar = some b ∧ n ≤ b.toNat) ∨ (∃ l, tg.last = some l ∧ n < l.toNat)
      q.armed = true ∧ ¬ barred ∧ tg.last ≠ some d.nonce ∧ tagBusy tg = true) ∧
    (∃ (s : State) (d : Datagram) (k : KeyEntry) (q : Queue), Reaches s d k q ∧ headerOk s d tyCommand false true = true ∧ d.offset = 0
      ∧ 128 ≤ d.payload.length ∧ d.payload.length ≤ 1152 ∧ k.lo.toNat ≤ d.slot.toNat ∧ d.slot.toNat ≤ k.hi.toNat ∧ (d.cls = 7 →
      s.recovery ≥ 2 ∧ ∀ v p, slotProg s d.slot.toNat = some (v, p) → p.keep = true) ∧ s.power.now ≠ 2 ∧ s.power.target = none ∧
      inFlight s (hqSlate (dgNumber d)) < 65536 ∧ Uncounted s (hqSlate (dgNumber d)) ∧ CanSend s (hqSlate (dgNumber d)) d.cls ∧ dgNumber
      d ≠ bootQueue ∧
      let t := d.hqTag.toNat % 32
      let tg := tagAt q t
      let n := d.nonce.toNat
      let body := (opened k d).payload
      let barred : Prop := n ≤ q.resetNonce.toNat ∨ (∃ b, tg.bar = some b ∧ n ≤ b.toNat) ∨ (∃ l, tg.last = some l ∧ n < l.toNat)
      q.armed = true ∧ ¬ barred ∧ tg.last ≠ some d.nonce ∧ tagBusy tg = false ∧ capsuleOk body = false) ∧
    (∃ (s : State) (d : Datagram) (k : KeyEntry) (q : Queue), Reaches s d k q ∧ headerOk s d tyCommand false true = true ∧ d.offset = 0
      ∧ 128 ≤ d.payload.length ∧ d.payload.length ≤ 1152 ∧ k.lo.toNat ≤ d.slot.toNat ∧ d.slot.toNat ≤ k.hi.toNat ∧ (d.cls = 7 →
      s.recovery ≥ 2 ∧ ∀ v p, slotProg s d.slot.toNat = some (v, p) → p.keep = true) ∧ s.power.now ≠ 2 ∧ s.power.target = none ∧
      inFlight s (hqSlate (dgNumber d)) < 65536 ∧ Uncounted s (hqSlate (dgNumber d)) ∧ CanSend s (hqSlate (dgNumber d)) d.cls ∧ dgNumber
      d ≠ bootQueue ∧
      let t := d.hqTag.toNat % 32
      let tg := tagAt q t
      let n := d.nonce.toNat
      let body := (opened k d).payload
      let barred : Prop := n ≤ q.resetNonce.toNat ∨ (∃ b, tg.bar = some b ∧ n ≤ b.toNat) ∨ (∃ l, tg.last = some l ∧ n < l.toNat)
      q.armed = true ∧ ¬ barred ∧ tg.last ≠ some d.nonce ∧ tagBusy tg = false ∧ capsuleOk body = true ∧ capIn body = 0) :=
  ⟨⟨sT ({ qA with armed := false }), d0, kA, (queueAt (sT ({ qA with armed := false })) 5).getD qA, reaches_of (by decide +kernel),
     by decide +kernel, by decide +kernel, (by decide +kernel), by decide +kernel, by decide +kernel, (by decide +kernel),
     (fun h => absurd h (by decide +kernel)), by decide +kernel, by decide +kernel, (by decide +kernel), uncounted_of (by decide +kernel),
     canSend_of (by decide +kernel), by decide +kernel, by decide +kernel⟩,
   ⟨sT ({ qA with resetNonce := 8 }), d0, kA, (queueAt (sT ({ qA with resetNonce := 8 })) 5).getD qA, reaches_of (by decide +kernel),
     by decide +kernel, by decide +kernel, (by decide +kernel), by decide +kernel, by decide +kernel, (by decide +kernel),
     (fun h => absurd h (by decide +kernel)), by decide +kernel, by decide +kernel, (by decide +kernel), uncounted_of (by decide +kernel),
     canSend_of (by decide +kernel), by decide +kernel, by decide +kernel, .inl (by decide +kernel)⟩,
   ⟨sT (qT { tg0 with st := .held }), d0, kA, (queueAt (sT (qT { tg0 with st := .held })) 5).getD qA, reaches_of (by decide +kernel),
     by decide +kernel, by decide +kernel, (by decide +kernel), by decide +kernel, by decide +kernel, (by decide +kernel),
     (fun h => absurd h (by decide +kernel)), by decide +kernel, by decide +kernel, (by decide +kernel), uncounted_of (by decide +kernel),
     canSend_of (by decide +kernel), by decide +kernel, by decide +kernel,
     unbarred (by decide +kernel) (by decide +kernel) (by decide +kernel), by decide +kernel, by decide +kernel⟩,
   ⟨sT (qT { tg0 with st := .done, resp := some (respOf St.ok [1,2,3,4]) }), d0, kA,
     (queueAt (sT (qT { tg0 with st := .done, resp := some (respOf St.ok [1,2,3,4]) })) 5).getD qA, reaches_of (by decide +kernel),
     by decide +kernel, by decide +kernel, (by decide +kernel), by decide +kernel, by decide +kernel, (by decide +kernel),
     (fun h => absurd h (by decide +kernel)), by decide +kernel, by decide +kernel, (by decide +kernel), uncounted_of (by decide +kernel),
     canSend_of (by decide +kernel), by decide +kernel, by decide +kernel,
     unbarred (by decide +kernel) (by decide +kernel) (by decide +kernel), by decide +kernel, _, got (by decide +kernel),
     by decide +kernel⟩,
   ⟨sT (qT { tg0 with last := some 7 }), d0, kA, (queueAt (sT (qT { tg0 with last := some 7 })) 5).getD qA,
     reaches_of (by decide +kernel), by decide +kernel, by decide +kernel, (by decide +kernel), by decide +kernel, by decide +kernel,
     (by decide +kernel), (fun h => absurd h (by decide +kernel)), by decide +kernel, by decide +kernel, (by decide +kernel),
     uncounted_of (by decide +kernel), canSend_of (by decide +kernel), by decide +kernel, by decide +kernel,
     unbarred (by decide +kernel) (by decide +kernel) (by decide +kernel), by decide +kernel, by decide +kernel⟩,
   ⟨sT (qA), fit tyCommand { d0 with payload := [2] ++ List.replicate 127 0 }, kA, (queueAt (sT (qA)) 5).getD qA,
     reaches_of (by decide +kernel), by decide +kernel, by decide +kernel, (by decide +kernel), by decide +kernel, by decide +kernel,
     (by decide +kernel), (fun h => absurd h (by decide +kernel)), by decide +kernel, by decide +kernel, (by decide +kernel),
     uncounted_of (by decide +kernel), canSend_of (by decide +kernel), by decide +kernel, by decide +kernel,
     unbarred (by decide +kernel) (by decide +kernel) (by decide +kernel), by decide +kernel, by decide +kernel, by decide +kernel⟩,
   ⟨sT (qA), d0, kA, (queueAt (sT (qA)) 5).getD qA, reaches_of (by decide +kernel), by decide +kernel, by decide +kernel,
     (by decide +kernel), by decide +kernel, by decide +kernel, (by decide +kernel), (fun h => absurd h (by decide +kernel)),
     by decide +kernel, by decide +kernel, (by decide +kernel), uncounted_of (by decide +kernel), canSend_of (by decide +kernel),
     by decide +kernel, by decide +kernel, unbarred (by decide +kernel) (by decide +kernel) (by decide +kernel), by decide +kernel,
     by decide +kernel, (by decide +kernel), by decide +kernel⟩⟩

end CommandAdmission

namespace InboundData

def link (s : State) : State := F1 s 0 F.PORT.LINK_UP 1

def cap0 : Block := [1] ++ List.replicate 127 0

def cm0 : Cmd := { slot := 0x300, capsule := cap0, args := [0,0,0,0,0,0,0,0], inLen := 100, outLen := 0, rights := 0, srcUa := 0x200, host := 11, keyId := 0x60300, cls := 3, ipv4 := false, mac := 0x1234, source := 99, tb := 55, buf := some 0 }

def tg0 : Tag := { tagEmpty with st := .held, last := some 8, cmd := some cm0 }

def qT (t : Tag) : Queue := { qA with tags := [(1, t)] }

def sT (q : Queue) (k : KeyEntry := kA) : State := { link (at_ (withQueue (unit 2) k q) 700) with buffers := [(0, { slate := 0, len := 100, data := [(0, 1), (70, 9)], inbound := true, arrived := [(0, 64)] })], nextBuf := 1 }

/-- Each hypothesis of InboundData is met. -/
theorem witness_InboundData :
    (∃ (s : State) (d : Datagram) (k : KeyEntry) (q : Queue), Reaches s d k q ∧ headerOk s d tyData false true = true ∧ d.slot = 0 ∧
      let tg := tagAt q (d.hqTag.toNat % 32)
      (tagBusy tg = false ∨ tg.last ≠ some d.nonce)) ∧
    (∃ (s : State) (d : Datagram) (k : KeyEntry) (q : Queue), Reaches s d k q ∧ headerOk s d tyData false true = true ∧ d.slot = 0 ∧
      let tg := tagAt q (d.hqTag.toNat % 32)
      let off := d.offset.toNat
      let len := d.payload.length
      ∃ c, tg.cmd = some c ∧ ∃ b, c.buf = some b ∧ ∃ x, bufOf s b = some x ∧ tagBusy tg = true ∧ tg.last = some d.nonce ∧ (c.inLen < off
        + len ∨ ((off % 64 ≠ 0 ∨ len % 64 ≠ 0) ∧ off + len ≠ c.inLen))) ∧
    (∃ (s : State) (d : Datagram) (k : KeyEntry) (q : Queue), Reaches s d k q ∧ headerOk s d tyData false true = true ∧ d.slot = 0 ∧
      let tg := tagAt q (d.hqTag.toNat % 32)
      let off := d.offset.toNat
      let len := d.payload.length
      ∃ c, tg.cmd = some c ∧ ∃ b, c.buf = some b ∧ ∃ x, bufOf s b = some x ∧ tagBusy tg = true ∧ tg.last = some d.nonce ∧ off + len ≤
        c.inLen ∧ ((off % 64 = 0 ∧ len % 64 = 0) ∨ off + len = c.inLen) ∧ covers x.arrived off (off + len) = true) ∧
    (∃ (s : State) (d : Datagram) (k : KeyEntry) (q : Queue), Reaches s d k q ∧ headerOk s d tyData false true = true ∧ d.slot = 0 ∧
      let tg := tagAt q (d.hqTag.toNat % 32)
      let off := d.offset.toNat
      let len := d.payload.length
      ∃ c, tg.cmd = some c ∧ ∃ b, c.buf = some b ∧ ∃ x, bufOf s b = some x ∧ tagBusy tg = true ∧ tg.last = some d.nonce ∧ off + len ≤
        c.inLen ∧ ((off % 64 = 0 ∧ len % 64 = 0) ∨ off + len = c.inLen) ∧ covers x.arrived off (off + len) = false) :=
  ⟨⟨sT (qT { tg0 with last := some 7 }), fit tyData { dg with slot := 0, offset := 64, payload := List.replicate 36 5 }, kA,
     (queueAt (sT (qT { tg0 with last := some 7 })) 5).getD qA, reaches_of (by decide +kernel), by decide +kernel, by decide +kernel,
     by dsimp only; decide +kernel⟩,
   ⟨sT (qT { tg0 with last := some 8 }), fit tyData { dg with slot := 0, offset := 64, payload := List.replicate 35 5 }, kA,
     (queueAt (sT (qT { tg0 with last := some 8 })) 5).getD qA, reaches_of (by decide +kernel), by decide +kernel, by decide +kernel, _,
     got (by decide +kernel), _, got (by decide +kernel), _, got (by decide +kernel), by decide +kernel, by decide +kernel,
     by decide +kernel⟩,
   ⟨sT (qT { tg0 with last := some 8 }), fit tyData { dg with slot := 0, offset := 0, payload := List.replicate 64 5 }, kA,
     (queueAt (sT (qT { tg0 with last := some 8 })) 5).getD qA, reaches_of (by decide +kernel), by decide +kernel, by decide +kernel, _,
     got (by decide +kernel), _, got (by decide +kernel), _, got (by decide +kernel), by decide +kernel, by decide +kernel,
     (by decide +kernel), by decide +kernel, by decide +kernel⟩,
   ⟨sT (qT { tg0 with last := some 8 }), fit tyData { dg with slot := 0, offset := 64, payload := List.replicate 36 5 }, kA,
     (queueAt (sT (qT { tg0 with last := some 8 })) 5).getD qA, reaches_of (by decide +kernel), by decide +kernel, by decide +kernel, _,
     got (by decide +kernel), _, got (by decide +kernel), _, got (by decide +kernel), by decide +kernel, by decide +kernel,
     (by decide +kernel), by decide +kernel, by decide +kernel⟩⟩

end InboundData

namespace AbortOutcomes

def link (s : State) : State := F1 s 0 F.PORT.LINK_UP 1

def cap0 : Block := [1] ++ List.replicate 127 0

def cm0 : Cmd := { slot := 0x300, capsule := cap0, args := [0,0,0,0,0,0,0,0], inLen := 100, outLen := 0, rights := 0, srcUa := 0x200, host := 11, keyId := 0x60300, cls := 3, ipv4 := false, mac := 0x1234, source := 99, tb := 55, buf := some 0 }

def tg0 : Tag := { tagEmpty with st := .held, last := some 8, cmd := some cm0 }

def qT (t : Tag) : Queue := { qA with tags := [(1, t)] }

def sT (q : Queue) (k : KeyEntry := kA) : State := { link (at_ (withQueue (unit 2) k q) 700) with buffers := [(0, { slate := 0, len := 100, data := [(0, 1), (70, 9)], inbound := true, arrived := [(0, 64)] })], nextBuf := 1 }

/-- Each hypothesis of AbortOutcomes is met. -/
theorem witness_AbortOutcomes :
    (∃ (s : State) (d : Datagram) (k : KeyEntry) (q : Queue), Reaches s d k q ∧ headerOk s d tyAbort false true = true ∧ d.slot = 0 ∧
      d.offset = 0 ∧ d.payload = [] ∧ (∀ i, keyOf s (hqSlate (dgNumber d)) i = none ∨ ∃ x, keyOf s (hqSlate (dgNumber d)) i = some x ∧
      keySeals x = false) ∧ CanSend s (hqSlate (dgNumber d)) d.cls ∧
      let t := d.hqTag.toNat % 32
      let tg := tagAt q t
      tg.last = some d.nonce ∧ tg.outcome = none ∧ (tg.st = .held ∨ tg.st = .active)) ∧
    (∃ (s : State) (d : Datagram) (k : KeyEntry) (q : Queue), Reaches s d k q ∧ headerOk s d tyAbort false true = true ∧ d.slot = 0 ∧
      d.offset = 0 ∧ d.payload = [] ∧ (∀ i, keyOf s (hqSlate (dgNumber d)) i = none ∨ ∃ x, keyOf s (hqSlate (dgNumber d)) i = some x ∧
      keySeals x = false) ∧ CanSend s (hqSlate (dgNumber d)) d.cls ∧
      let t := d.hqTag.toNat % 32
      let tg := tagAt q t
      tg.last = some d.nonce ∧ tg.outcome = none ∧ tg.st = .committed) ∧
    (∃ (s : State) (d : Datagram) (k : KeyEntry) (q : Queue), Reaches s d k q ∧ headerOk s d tyAbort false true = true ∧ d.slot = 0 ∧
      d.offset = 0 ∧ d.payload = [] ∧ (∀ i, keyOf s (hqSlate (dgNumber d)) i = none ∨ ∃ x, keyOf s (hqSlate (dgNumber d)) i = some x ∧
      keySeals x = false) ∧ CanSend s (hqSlate (dgNumber d)) d.cls ∧
      let t := d.hqTag.toNat % 32
      let tg := tagAt q t
      tg.last = some d.nonce ∧ tg.outcome = none ∧ ∃ r, tg.resp = some r ∧ tg.st = .done) ∧
    (∃ (s : State) (d : Datagram) (k : KeyEntry) (q : Queue), Reaches s d k q ∧ headerOk s d tyAbort false true = true ∧ d.slot = 0 ∧
      d.offset = 0 ∧ d.payload = [] ∧ (∀ i, keyOf s (hqSlate (dgNumber d)) i = none ∨ ∃ x, keyOf s (hqSlate (dgNumber d)) i = some x ∧
      keySeals x = false) ∧ CanSend s (hqSlate (dgNumber d)) d.cls ∧
      let t := d.hqTag.toNat % 32
      let tg := tagAt q t
      tg.last ≠ some d.nonce ∧ tg.bar = some d.nonce) ∧
    (∃ (s : State) (d : Datagram) (k : KeyEntry) (q : Queue), Reaches s d k q ∧ headerOk s d tyAbort false true = true ∧ d.slot = 0 ∧
      d.offset = 0 ∧ d.payload = [] ∧ (∀ i, keyOf s (hqSlate (dgNumber d)) i = none ∨ ∃ x, keyOf s (hqSlate (dgNumber d)) i = some x ∧
      keySeals x = false) ∧ CanSend s (hqSlate (dgNumber d)) d.cls ∧
      let t := d.hqTag.toNat % 32
      let tg := tagAt q t
      tg.last ≠ some d.nonce ∧ (∀ l, tg.last = some l → l.toNat < d.nonce.toNat) ∧ (∀ b, tg.bar = some b → b.toNat < d.nonce.toNat)) ∧
    (∃ (s : State) (d : Datagram) (k : KeyEntry) (q : Queue), Reaches s d k q ∧ headerOk s d tyAbort false true = true ∧ d.slot = 0 ∧
      d.offset = 0 ∧ d.payload = [] ∧ (∀ i, keyOf s (hqSlate (dgNumber d)) i = none ∨ ∃ x, keyOf s (hqSlate (dgNumber d)) i = some x ∧
      keySeals x = false) ∧ CanSend s (hqSlate (dgNumber d)) d.cls ∧
      let t := d.hqTag.toNat % 32
      let tg := tagAt q t
      tg.last ≠ some d.nonce ∧ tg.bar ≠ some d.nonce ∧ ((∃ l, tg.last = some l ∧ d.nonce.toNat < l.toNat) ∨ (∃ b, tg.bar = some b ∧
        d.nonce.toNat < b.toNat))) :=
  ⟨⟨sT (qT { tg0 with st := .held }), fit tyAbort { dg with slot := 0 }, kA, (queueAt (sT (qT { tg0 with st := .held })) 5).getD qA,
     reaches_of (by decide +kernel), by decide +kernel, by decide +kernel, (by decide +kernel), by decide +kernel,
     unsealed (by decide +kernel), canSend_of (by decide +kernel), by decide +kernel, by decide +kernel, by decide +kernel⟩,
   ⟨sT (qT { tg0 with st := .committed }), fit tyAbort { dg with slot := 0 }, kA,
     (queueAt (sT (qT { tg0 with st := .committed })) 5).getD qA, reaches_of (by decide +kernel), by decide +kernel, by decide +kernel,
     (by decide +kernel), by decide +kernel, unsealed (by decide +kernel), canSend_of (by decide +kernel), by decide +kernel,
     by decide +kernel, by decide +kernel⟩,
   ⟨sT (qT { tg0 with st := .done, resp := some (respOf St.ok [1,2,3,4]) }), fit tyAbort { dg with slot := 0 }, kA,
     (queueAt (sT (qT { tg0 with st := .done, resp := some (respOf St.ok [1,2,3,4]) })) 5).getD qA, reaches_of (by decide +kernel),
     by decide +kernel, by decide +kernel, (by decide +kernel), by decide +kernel, unsealed (by decide +kernel),
     canSend_of (by decide +kernel), by decide +kernel, by decide +kernel, _, got (by decide +kernel), by decide +kernel⟩,
   ⟨sT (qT { tagEmpty with bar := some 8 }), fit tyAbort { dg with slot := 0 }, kA,
     (queueAt (sT (qT { tagEmpty with bar := some 8 })) 5).getD qA, reaches_of (by decide +kernel), by decide +kernel,
     by decide +kernel, (by decide +kernel), by decide +kernel, unsealed (by decide +kernel), canSend_of (by decide +kernel),
     by decide +kernel, by decide +kernel⟩,
   ⟨sT (qT { tg0 with last := some 7 }), fit tyAbort { dg with slot := 0 }, kA,
     (queueAt (sT (qT { tg0 with last := some 7 })) 5).getD qA, reaches_of (by decide +kernel), by decide +kernel, by decide +kernel,
     (by decide +kernel), by decide +kernel, unsealed (by decide +kernel), canSend_of (by decide +kernel), by decide +kernel,
     optAll (by decide +kernel), optAll (by decide +kernel)⟩,
   ⟨sT (qT { tagEmpty with bar := some 9 }), fit tyAbort { dg with slot := 0 }, kA,
     (queueAt (sT (qT { tagEmpty with bar := some 9 })) 5).getD qA, reaches_of (by decide +kernel), by decide +kernel,
     by decide +kernel, (by decide +kernel), by decide +kernel, unsealed (by decide +kernel), canSend_of (by decide +kernel),
     by decide +kernel, by decide +kernel, .inr ⟨_, got (by decide +kernel), by decide +kernel⟩⟩⟩

end AbortOutcomes

namespace QueueResetAndContexts

def link (s : State) : State := F1 s 0 F.PORT.LINK_UP 1

def cap0 : Block := [1] ++ List.replicate 127 0

def capIn64 (n : Nat) : Block := [1, 0, 0, 0, 0, 0, BitVec.ofNat 8 (n / 256), BitVec.ofNat 8 n] ++ List.replicate 120 0

def cm0 : Cmd := { slot := 0x300, capsule := cap0, args := [0,0,0,0,0,0,0,0], inLen := 100, outLen := 0, rights := 0, srcUa := 0x200, host := 11, keyId := 0x60300, cls := 3, ipv4 := false, mac := 0x1234, source := 99, tb := 55, buf := some 0 }

def tg0 : Tag := { tagEmpty with st := .held, last := some 8, cmd := some cm0 }

def qT (t : Tag) : Queue := { qA with tags := [(1, t)] }

def sT (q : Queue) (k : KeyEntry := kA) : State := { link (at_ (withQueue (unit 2) k q) 700) with buffers := [(0, { slate := 0, len := 100, data := [(0, 1), (70, 9)], inbound := true, arrived := [(0, 64)] })], nextBuf := 1 }

def q2 : Queue := { qT { tg0 with st := .held } with tags := [(1, { tg0 with st := .held }), (31, { tg0 with st := .done })] }

def pk0 : Parked := { hq := 5, dg := { dg with payload := capIn64 5 }, kind := .command, rights := 0, tb := 9 }

/-- Each hypothesis of QueueResetAndContexts is met. -/
theorem witness_QueueResetAndContexts :
    (∃ (s : State) (d : Datagram) (k : KeyEntry) (q : Queue), Reaches s d k q ∧ headerOk s d tyAbort true true = true ∧ d.flags.getLsbD
      2 = true ∧ d.hqTag.toNat % 32 = 0 ∧ d.slot = 0 ∧ d.offset = 0 ∧ d.payload = [] ∧ nonceFloor q < d.nonce.toNat ∧ d.nonce ≠
      q.resetNonce) ∧
    (∃ (s : State) (d : Datagram) (k : KeyEntry) (q : Queue), Reaches s d k q ∧ headerOk s d tyAbort true true = true ∧ d.flags.getLsbD
      2 = true ∧ d.hqTag.toNat % 32 = 0 ∧ d.slot = 0 ∧ d.offset = 0 ∧ d.payload = [] ∧ d.nonce.toNat ≤ nonceFloor q ∧ d.nonce ≠
      q.resetNonce) ∧
    (∃ (s : State) (hq : Nat) (q : Queue), queueAt s hq = some q ∧ serving s (hqSlate hq) = true ∧ (∀ p ∈ tabGetD s.park (hqSlate hq)
      [], p.hq ≠ hq) ∧ tabGetD s.heldDg (hqSlate hq) [] = [] ∧ (residents s (hqSlate hq)).length < 24576 ∧ hq ∉ underWay s (hqSlate hq)) ∧
    (∃ (s : State) (hq : Nat) (q : Queue), queueAt s hq = some q ∧ serving s (hqSlate hq) = true ∧ (∀ p ∈ tabGetD s.park (hqSlate hq)
      [], p.hq ≠ hq) ∧ tabGetD s.heldDg (hqSlate hq) [] = [] ∧ (residents s (hqSlate hq)).length < 24576 ∧ hq ∈ underWay s (hqSlate hq)) ∧
    (∃ (s : State) (sl : Nat), serving s sl = true ∧
      let low : Prop := tabGetD s.heldDg sl [] = [] ∧ parkUsed s sl < getF s sl F.HQ.PARK_LOW
      low) ∧
    (∃ (s : State) (sl : Nat), serving s sl = true ∧
      let low : Prop := tabGetD s.heldDg sl [] = [] ∧ parkUsed s sl < getF s sl F.HQ.PARK_LOW
      ¬ low) ∧
    (∃ (s : State) (sl : Nat), serving s sl = true ∧ tabGetD s.bufWait sl [] = []) ∧
    (∃ (s : State) (sl : Nat), serving s sl = true ∧ ∃ (p : Parked) (r : List Parked), ∃ q, queueAt s p.hq = some q ∧ tabGetD s.bufWait
      sl [] = p :: r ∧ tabGetD s.heldDg sl [] = [] ∧ hqSlate p.hq = sl ∧ (∀ x ∈ r, x.hq ≠ p.hq) ∧
      let t := p.dg.hqTag.toNat % 32
      q.armed = true ∧ q.resetNonce.toNat < p.dg.nonce.toNat ∧ tagAt q t = tagEmpty ∧ inFlight s sl < 65536 ∧ capsuleOk p.dg.payload =
        true ∧ capIn p.dg.payload ≠ 0 ∧ s.power.now ≠ 2 ∧ s.power.target = none ∧ Uncounted s sl) :=
  ⟨⟨sT qA, fit tyAbort { dg with slot := 0, flags := 4, hqTag := 0x5000 }, kA, (queueAt (sT qA) 5).getD qA,
     reaches_of (by decide +kernel), by decide +kernel, by decide +kernel, (by decide +kernel), by decide +kernel, by decide +kernel,
     (by decide +kernel), by decide +kernel, by decide +kernel⟩,
   ⟨sT q2, fit tyAbort { dg with slot := 0, flags := 4, hqTag := 0x5000 }, kA, (queueAt (sT q2) 5).getD qA,
     reaches_of (by decide +kernel), by decide +kernel, by decide +kernel, (by decide +kernel), by decide +kernel, by decide +kernel,
     (by decide +kernel), by decide +kernel, by decide +kernel⟩,
   ⟨sT qA, 5, _, got (by decide +kernel), by decide +kernel, by decide +kernel, (by decide +kernel), by decide +kernel, by decide +kernel⟩,
   ⟨{ sT { qA with resident := false } with fetching := [5] }, 5, _, got (by decide +kernel), by decide +kernel, by decide +kernel,
     (by decide +kernel), by decide +kernel, by decide +kernel⟩,
   ⟨sT qA, 0, by decide +kernel, by dsimp only; decide +kernel⟩,
   ⟨F1 (sT qA) 0 F.HQ.PARK_LOW 0, 0, by decide +kernel, by dsimp only; decide +kernel⟩,
   ⟨sT qA, 0, by decide +kernel, by decide +kernel⟩,
   ⟨{ sT qA with bufWait := [(0, [pk0, { pk0 with hq := 6 }])] }, 0, by decide +kernel, pk0, [{ pk0 with hq := 6 }], _,
     got (by decide +kernel), by decide +kernel, by decide +kernel, (by decide +kernel), by decide +kernel, by decide +kernel,
     (by decide +kernel), by decide +kernel, by decide +kernel, (by decide +kernel), by decide +kernel, by decide +kernel,
     (by decide +kernel), uncounted_of (by decide +kernel)⟩⟩

end QueueResetAndContexts

namespace RmaOperations

def link (s : State) : State := F1 s 0 F.PORT.LINK_UP 1

def kR : KeyEntry := { kA with window := true, bind := 5, rights := 0x1F, lo := 0, hi := 0x1000 }

def sR (k : KeyEntry) : State := { link (at_ (withQueue (unit 2) k qA) 700) with queues := [], windows := [(5, { base := 0x100000, pages := 1, gen := 3, since := 0 })], hbm := [(0x100000, 9), (0x100008, 1), (0x100010, 2), (0x100011, 3)], availAt := [(1, 500), (2, 700), (5, 701)] }

def dR (op off : Nat) (b : Block) : Datagram := fit tyRmaReq { dg with cls := 2, slot := 0, hqTag := BitVec.ofNat 32 (5 * 4096 + op * 256), offset := BitVec.ofNat 64 off, payload := b }

def rdB (n : Nat) : Block := [0, 0, BitVec.ofNat 8 (n / 256), BitVec.ofNat 8 n, 0, 0, 0, 0]

/-- Each hypothesis of RmaOperations is met. -/
theorem witness_RmaOperations :
    ∃ (s : State) (d : Datagram) (k : KeyEntry) (x : Window), windowOf s (dgNumber d) = some x ∧ Proved s d k ∧ d.keyId.toNat / 256 %
      256 = k.gen.toNat ∧ (d.cls = 2 ∨ d.cls = 1) ∧ k.window = true ∧ k.bind = dgNumber d ∧ k.mode ≠ 1 ∧ servesIo s = true ∧ headerOk s
      d tyRmaReq false false = true ∧ d.slot = 0 ∧ k.lo.toNat ≤ d.offset.toNat ∧ d.offset.toNat + rmaLen (opened k d) ≤ k.hi.toNat ∧
      x.gen = k.gen ∧ d.offset.toNat + rmaLen (opened k d) ≤ x.pages * 4096 ∧
      let home := hqSlate (dgNumber d)
      CanSend s home d.cls ∧ Uncounted s home ∧ rotOf s home = [] ∧ copiesOf s home = [] ∧ s.poison = [] ∧ rmaForm s (opened k d) home =
        true ∧ rmaOnce d = false :=
  ⟨sR kR, dR 1 0 (rdB 20), kR, _, got (by decide +kernel), proved_of (by decide +kernel), by decide +kernel, by decide +kernel,
    (by decide +kernel), by decide +kernel, by decide +kernel, (by decide +kernel), by decide +kernel, by decide +kernel, (by decide +kernel),
    by decide +kernel, by decide +kernel, (by decide +kernel), canSend_of (by decide +kernel), uncounted_of (by decide +kernel),
    by decide +kernel, by decide +kernel, (by decide +kernel), by decide +kernel, by decide +kernel⟩

end RmaOperations

namespace RmaAdmission

def link (s : State) : State := F1 s 0 F.PORT.LINK_UP 1

def kR : KeyEntry := { kA with window := true, bind := 5, rights := 0x1F, lo := 0, hi := 0x1000 }

def sR (k : KeyEntry) : State := { link (at_ (withQueue (unit 2) k qA) 700) with queues := [], windows := [(5, { base := 0x100000, pages := 1, gen := 3, since := 0 })], hbm := [(0x100000, 9), (0x100008, 1), (0x100010, 2), (0x100011, 3)], availAt := [(1, 500), (2, 700), (5, 701)] }

def dR (op off : Nat) (b : Block) : Datagram := fit tyRmaReq { dg with cls := 2, slot := 0, hqTag := BitVec.ofNat 32 (5 * 4096 + op * 256), offset := BitVec.ofNat 64 off, payload := b }

def rdB (n : Nat) : Block := [0, 0, BitVec.ofNat 8 (n / 256), BitVec.ofNat 8 n, 0, 0, 0, 0]

def rot0 (done : Option (Status × Block)) (d : Datagram) : RotEntry := { srcUa := d.srcUa, host := d.host, window := 5, nonce := d.nonce, gen := 3, done := done, arrival := 600, horizon := 1000 }

/-- Each hypothesis of RmaAdmission (its clauses 1 to 5) is met. -/
theorem witness_RmaAdmission_1 :
    (∃ (s : State) (d : Datagram) (k : KeyEntry), ∃ c ∈ ([Instr.rmaRead d, .rmaWrite d, .rmaAadd d, .rmaAcas d, .rmaAcas128 d, .rmaCopy
      d, .rmaCopyWr d] : List (Instr)), Proved s d k ∧ d.keyId.toNat / 256 % 256 = k.gen.toNat ∧ (d.cls = 2 ∨ d.cls = 1) ∧ k.window =
      true ∧ k.bind = dgNumber d ∧ headerOk s d tyRmaReq false false = true ∧ d.slot = 0 ∧
      let home := hqSlate (dgNumber d)
      home = d.port ∧ CanSend s home d.cls ∧ Uncounted s home ∧
      let inBounds : Prop := k.lo.toNat ≤ d.offset.toNat ∧ d.offset.toNat + rmaLen (opened k d) ≤ k.hi.toNat
      ¬ inBounds) ∧
    (∃ (s : State) (d : Datagram) (k : KeyEntry), ∃ c ∈ ([Instr.rmaRead d, .rmaWrite d, .rmaAadd d, .rmaAcas d, .rmaAcas128 d, .rmaCopy
      d, .rmaCopyWr d] : List (Instr)), Proved s d k ∧ d.keyId.toNat / 256 % 256 = k.gen.toNat ∧ (d.cls = 2 ∨ d.cls = 1) ∧ k.window =
      true ∧ k.bind = dgNumber d ∧ headerOk s d tyRmaReq false false = true ∧ d.slot = 0 ∧
      let home := hqSlate (dgNumber d)
      home = d.port ∧ CanSend s home d.cls ∧ Uncounted s home ∧
      let inBounds : Prop := k.lo.toNat ≤ d.offset.toNat ∧ d.offset.toNat + rmaLen (opened k d) ≤ k.hi.toNat
      let right : Prop := k.mode ≠ 1 ∧ ∀ b, rmaRight (rmaOp d) = some b → k.rights.getLsbD b = true
      inBounds ∧ ¬ right) ∧
    (∃ (s : State) (d : Datagram) (k : KeyEntry), ∃ c ∈ ([Instr.rmaRead d, .rmaWrite d, .rmaAadd d, .rmaAcas d, .rmaAcas128 d, .rmaCopy
      d, .rmaCopyWr d] : List (Instr)), Proved s d k ∧ d.keyId.toNat / 256 % 256 = k.gen.toNat ∧ (d.cls = 2 ∨ d.cls = 1) ∧ k.window =
      true ∧ k.bind = dgNumber d ∧ headerOk s d tyRmaReq false false = true ∧ d.slot = 0 ∧
      let home := hqSlate (dgNumber d)
      home = d.port ∧ CanSend s home d.cls ∧ Uncounted s home ∧
      let inBounds : Prop := k.lo.toNat ≤ d.offset.toNat ∧ d.offset.toNat + rmaLen (opened k d) ≤ k.hi.toNat
      let right : Prop := k.mode ≠ 1 ∧ ∀ b, rmaRight (rmaOp d) = some b → k.rights.getLsbD b = true
      inBounds ∧ right ∧ servesIo s = false) ∧
    (∃ (s : State) (d : Datagram) (k : KeyEntry), ∃ c ∈ ([Instr.rmaRead d, .rmaWrite d, .rmaAadd d, .rmaAcas d, .rmaAcas128 d, .rmaCopy
      d, .rmaCopyWr d] : List (Instr)), Proved s d k ∧ d.keyId.toNat / 256 % 256 = k.gen.toNat ∧ (d.cls = 2 ∨ d.cls = 1) ∧ k.window =
      true ∧ k.bind = dgNumber d ∧ headerOk s d tyRmaReq false false = true ∧ d.slot = 0 ∧
      let home := hqSlate (dgNumber d)
      home = d.port ∧ CanSend s home d.cls ∧ Uncounted s home ∧
      let inBounds : Prop := k.lo.toNat ≤ d.offset.toNat ∧ d.offset.toNat + rmaLen (opened k d) ≤ k.hi.toNat
      let right : Prop := k.mode ≠ 1 ∧ ∀ b, rmaRight (rmaOp d) = some b → k.rights.getLsbD b = true
      inBounds ∧ right ∧ servesIo s = true ∧ windowOf s (dgNumber d) = none) ∧
    (∃ (s : State) (d : Datagram) (k : KeyEntry), ∃ c ∈ ([Instr.rmaRead d, .rmaWrite d, .rmaAadd d, .rmaAcas d, .rmaAcas128 d, .rmaCopy
      d, .rmaCopyWr d] : List (Instr)), Proved s d k ∧ d.keyId.toNat / 256 % 256 = k.gen.toNat ∧ (d.cls = 2 ∨ d.cls = 1) ∧ k.window =
      true ∧ k.bind = dgNumber d ∧ headerOk s d tyRmaReq false false = true ∧ d.slot = 0 ∧
      let home := hqSlate (dgNumber d)
      home = d.port ∧ CanSend s home d.cls ∧ Uncounted s home ∧
      let inBounds : Prop := k.lo.toNat ≤ d.offset.toNat ∧ d.offset.toNat + rmaLen (opened k d) ≤ k.hi.toNat
      let right : Prop := k.mode ≠ 1 ∧ ∀ b, rmaRight (rmaOp d) = some b → k.rights.getLsbD b = true
      inBounds ∧ right ∧ servesIo s = true ∧ ∃ x, windowOf s (dgNumber d) = some x ∧ x.gen ≠ k.gen) :=
  ⟨⟨sR kR, dR 2 0x1000 [7], kR, _, .head _, proved_of (by decide +kernel), by decide +kernel, by decide +kernel, (by decide +kernel),
     by decide +kernel, by decide +kernel, (by decide +kernel), by decide +kernel, canSend_of (by decide +kernel),
     uncounted_of (by decide +kernel), by dsimp only; decide +kernel⟩,
   ⟨sR { kR with rights := 1 }, dR 2 5 [7, 7, 7], { kR with rights := 1 }, _, .head _, proved_of (by decide +kernel), by decide +kernel,
     by decide +kernel, (by decide +kernel), by decide +kernel, by decide +kernel, (by decide +kernel), by decide +kernel,
     canSend_of (by decide +kernel), uncounted_of (by decide +kernel), by decide +kernel, by decide +kernel⟩,
   ⟨{ sR kR with ready := State.reset.ready }, dR 1 0 (rdB 20), kR, _, .head _, proved_of (by decide +kernel), by decide +kernel,
     by decide +kernel, (by decide +kernel), by decide +kernel, by decide +kernel, (by decide +kernel), by decide +kernel,
     canSend_of (by decide +kernel), uncounted_of (by decide +kernel), by decide +kernel, by decide +kernel, by decide +kernel⟩,
   ⟨{ sR kR with windows := [] }, dR 1 0 (rdB 20), kR, _, .head _, proved_of (by decide +kernel), by decide +kernel, by decide +kernel,
     (by decide +kernel), by decide +kernel, by decide +kernel, (by decide +kernel), by decide +kernel, canSend_of (by decide +kernel),
     uncounted_of (by decide +kernel), by decide +kernel, by decide +kernel, (by decide +kernel), by decide +kernel⟩,
   ⟨{ sR kR with windows := [(5, { base := 0x100000, pages := 1, gen := 4, since := 0 })] }, dR 1 0 (rdB 20), kR, _, .head _,
     proved_of (by decide +kernel), by decide +kernel, by decide +kernel, (by decide +kernel), by decide +kernel, by decide +kernel,
     (by decide +kernel), by decide +kernel, canSend_of (by decide +kernel), uncounted_of (by decide +kernel), by decide +kernel,
     by decide +kernel, (by decide +kernel), _, got (by decide +kernel), by decide +kernel⟩⟩

/-- Each hypothesis of RmaAdmission (its clauses 6 to 9) is met. -/
theorem witness_RmaAdmission_2 :
    (∃ (s : State) (d : Datagram) (k : KeyEntry), ∃ c ∈ ([Instr.rmaRead d, .rmaWrite d, .rmaAadd d, .rmaAcas d, .rmaAcas128 d, .rmaCopy
      d, .rmaCopyWr d] : List (Instr)), Proved s d k ∧ d.keyId.toNat / 256 % 256 = k.gen.toNat ∧ (d.cls = 2 ∨ d.cls = 1) ∧ k.window =
      true ∧ k.bind = dgNumber d ∧ headerOk s d tyRmaReq false false = true ∧ d.slot = 0 ∧
      let home := hqSlate (dgNumber d)
      home = d.port ∧ CanSend s home d.cls ∧ Uncounted s home ∧
      let inBounds : Prop := k.lo.toNat ≤ d.offset.toNat ∧ d.offset.toNat + rmaLen (opened k d) ≤ k.hi.toNat
      let right : Prop := k.mode ≠ 1 ∧ ∀ b, rmaRight (rmaOp d) = some b → k.rights.getLsbD b = true
      inBounds ∧ right ∧ servesIo s = true ∧ ∃ x, windowOf s (dgNumber d) = some x ∧ x.gen = k.gen ∧ (∀ p ∈ rotOf s home, rotDue s home
        p.2 = false) ∧ ∃ i e, rotFind s home d = some (i, e) ∧ e.done = none) ∧
    (∃ (s : State) (d : Datagram) (k : KeyEntry), ∃ c ∈ ([Instr.rmaRead d, .rmaWrite d, .rmaAadd d, .rmaAcas d, .rmaAcas128 d, .rmaCopy
      d, .rmaCopyWr d] : List (Instr)), Proved s d k ∧ d.keyId.toNat / 256 % 256 = k.gen.toNat ∧ (d.cls = 2 ∨ d.cls = 1) ∧ k.window =
      true ∧ k.bind = dgNumber d ∧ headerOk s d tyRmaReq false false = true ∧ d.slot = 0 ∧
      let home := hqSlate (dgNumber d)
      home = d.port ∧ CanSend s home d.cls ∧ Uncounted s home ∧
      let inBounds : Prop := k.lo.toNat ≤ d.offset.toNat ∧ d.offset.toNat + rmaLen (opened k d) ≤ k.hi.toNat
      let right : Prop := k.mode ≠ 1 ∧ ∀ b, rmaRight (rmaOp d) = some b → k.rights.getLsbD b = true
      inBounds ∧ right ∧ servesIo s = true ∧ ∃ x, windowOf s (dgNumber d) = some x ∧ x.gen = k.gen ∧ (∀ p ∈ rotOf s home, rotDue s home
        p.2 = false) ∧ ∃ i e, rotFind s home d = some (i, e) ∧ ∃ st r, e.done = some (st, r)) ∧
    (∃ (s : State) (d : Datagram) (k : KeyEntry), ∃ c ∈ ([Instr.rmaRead d, .rmaWrite d, .rmaAadd d, .rmaAcas d, .rmaAcas128 d, .rmaCopy
      d, .rmaCopyWr d] : List (Instr)), Proved s d k ∧ d.keyId.toNat / 256 % 256 = k.gen.toNat ∧ (d.cls = 2 ∨ d.cls = 1) ∧ k.window =
      true ∧ k.bind = dgNumber d ∧ headerOk s d tyRmaReq false false = true ∧ d.slot = 0 ∧
      let home := hqSlate (dgNumber d)
      home = d.port ∧ CanSend s home d.cls ∧ Uncounted s home ∧
      let inBounds : Prop := k.lo.toNat ≤ d.offset.toNat ∧ d.offset.toNat + rmaLen (opened k d) ≤ k.hi.toNat
      let right : Prop := k.mode ≠ 1 ∧ ∀ b, rmaRight (rmaOp d) = some b → k.rights.getLsbD b = true
      inBounds ∧ right ∧ servesIo s = true ∧ ∃ x, windowOf s (dgNumber d) = some x ∧ x.gen = k.gen ∧ (∀ p ∈ rotOf s home, rotDue s home
        p.2 = false) ∧ rotFind s home d = none ∧ (rotOf s home).length < 32768 ∧ copiesOf s home = [] ∧ rmaForm s (opened k d) home =
        false) ∧
    (∃ (s : State) (d : Datagram) (k : KeyEntry), ∃ c ∈ ([Instr.rmaRead d, .rmaWrite d, .rmaAadd d, .rmaAcas d, .rmaAcas128 d, .rmaCopy
      d, .rmaCopyWr d] : List (Instr)), Proved s d k ∧ d.keyId.toNat / 256 % 256 = k.gen.toNat ∧ (d.cls = 2 ∨ d.cls = 1) ∧ k.window =
      true ∧ k.bind = dgNumber d ∧ headerOk s d tyRmaReq false false = true ∧ d.slot = 0 ∧
      let home := hqSlate (dgNumber d)
      home = d.port ∧ CanSend s home d.cls ∧ Uncounted s home ∧
      let inBounds : Prop := k.lo.toNat ≤ d.offset.toNat ∧ d.offset.toNat + rmaLen (opened k d) ≤ k.hi.toNat
      let right : Prop := k.mode ≠ 1 ∧ ∀ b, rmaRight (rmaOp d) = some b → k.rights.getLsbD b = true
      inBounds ∧ right ∧ servesIo s = true ∧ ∃ x, windowOf s (dgNumber d) = some x ∧ x.gen = k.gen ∧ (∀ p ∈ rotOf s home, rotDue s home
        p.2 = false) ∧ rotFind s home d = none ∧ (rotOf s home).length < 32768 ∧ copiesOf s home = [] ∧ rmaForm s (opened k d) home =
        true ∧ x.pages * 4096 < d.offset.toNat + rmaLen (opened k d)) :=
  ⟨⟨{ sR kR with rot := [(0, [(3, rot0 none (dR 3 0x10 []))])] }, dR 1 0 (rdB 20), kR, _, .head _, proved_of (by decide +kernel),
     by decide +kernel, by decide +kernel, (by decide +kernel), by decide +kernel, by decide +kernel, (by decide +kernel),
     by decide +kernel, canSend_of (by decide +kernel), uncounted_of (by decide +kernel), by decide +kernel, by decide +kernel,
     (by decide +kernel), _, got (by decide +kernel), by decide +kernel, by decide +kernel, _, _, gotp (by decide +kernel),
     by decide +kernel⟩,
   ⟨{ sR kR with rot := [(0, [(3, rot0 (some (St.ok, [1,2,3,4,5,6,7,8])) (dR 3 0x10 []))])] }, dR 1 0 (rdB 20), kR, _, .head _,
     proved_of (by decide +kernel), by decide +kernel, by decide +kernel, (by decide +kernel), by decide +kernel, by decide +kernel,
     (by decide +kernel), by decide +kernel, canSend_of (by decide +kernel), uncounted_of (by decide +kernel), by decide +kernel,
     by decide +kernel, (by decide +kernel), _, got (by decide +kernel), by decide +kernel, by decide +kernel, _, _,
     gotp (by decide +kernel), _, _, gotp (by decide +kernel)⟩,
   ⟨sR kR, dR 1 0 [0,0,0,1], kR, _, .head _, proved_of (by decide +kernel), by decide +kernel, by decide +kernel, (by decide +kernel),
     by decide +kernel, by decide +kernel, (by decide +kernel), by decide +kernel, canSend_of (by decide +kernel),
     uncounted_of (by decide +kernel), by decide +kernel, by decide +kernel, (by decide +kernel), _, got (by decide +kernel),
     by decide +kernel, by decide +kernel, (by decide +kernel), by decide +kernel, by decide +kernel, by decide +kernel⟩,
   ⟨sR { kR with hi := 0x2000 }, dR 2 0x1000 [7], { kR with hi := 0x2000 }, _, .head _, proved_of (by decide +kernel),
     by decide +kernel, by decide +kernel, (by decide +kernel), by decide +kernel, by decide +kernel, (by decide +kernel),
     by decide +kernel, canSend_of (by decide +kernel), uncounted_of (by decide +kernel), by decide +kernel, by decide +kernel,
     (by decide +kernel), _, got (by decide +kernel), by decide +kernel, by decide +kernel, (by decide +kernel), by decide +kernel,
     by decide +kernel, (by decide +kernel), by decide +kernel⟩⟩

end RmaAdmission

namespace CopiesAndExpiries

def link (s : State) : State := F1 s 0 F.PORT.LINK_UP 1

def kR : KeyEntry := { kA with window := true, bind := 5, rights := 0x1F, lo := 0, hi := 0x1000 }

def sR (k : KeyEntry) : State := { link (at_ (withQueue (unit 2) k qA) 700) with queues := [], windows := [(5, { base := 0x100000, pages := 1, gen := 3, since := 0 })], hbm := [(0x100000, 9), (0x100008, 1), (0x100010, 2), (0x100011, 3)], availAt := [(1, 500), (2, 700), (5, 701)] }

def dR (op off : Nat) (b : Block) : Datagram := fit tyRmaReq { dg with cls := 2, slot := 0, hqTag := BitVec.ofNat 32 (5 * 4096 + op * 256), offset := BitVec.ofNat 64 off, payload := b }

def cpB (ua n : Nat) : Block := [BitVec.ofNat 8 (ua / 256), BitVec.ofNat 8 ua, 0, 0, 0, 0, 0, 7, 0, 0, 0, 0] ++ [0, 0, BitVec.ofNat 8 (n / 256), BitVec.ofNat 8 n] ++ List.replicate 8 0 ++ List.replicate 8 4

def rot0 (done : Option (Status × Block)) (d : Datagram) : RotEntry := { srcUa := d.srcUa, host := d.host, window := 5, nonce := d.nonce, gen := 3, done := done, arrival := 600, horizon := 1000 }

def dC : Datagram := dR 6 0 (cpB 0x143 100)

def ch (off last first bay : Nat) (moved acked : Bool) : Chunk := { off := off, data := List.replicate 40 7, nonce := 4, first := first, last := last, bay := bay, moved := moved, acked := acked }

def cpy (l : Tab Chunk) : Copy := { request := dC, window := 5, rotIdx := 3, srcOff := 0, len := 100, dstUa := 0x143, dstWin := 7, dstKey := 0, dstOff := 0, check := 4, next := 80, chunks := l }

def sC (t : Nat) (l : Tab Chunk) : State := { at_ (sR kR) t with copies := [(0, [(1, cpy l)])], rot := [(0, [(3, rot0 none dC)])], nextFrame := 0 }

def sE (t : Nat) : State := { at_ (sR kR) t with rot := [(0, [(3, rot0 none dC), (5, rot0 (some (St.ok, [1])) dC)])], availAt := [(1, 500), (2, 700), (5, 701), (16, 5000)] }

/-- Each hypothesis of CopiesAndExpiries (its clauses 1 to 6) is met. -/
theorem witness_CopiesAndExpiries_1 :
    (∃ (s : State) (d : Datagram) (k : KeyEntry) (x : Window), windowOf s (dgNumber d) = some x ∧ Proved s d k ∧ d.keyId.toNat / 256 %
      256 = k.gen.toNat ∧ (d.cls = 2 ∨ d.cls = 1) ∧ k.window = true ∧ k.bind = dgNumber d ∧ k.mode ≠ 1 ∧ k.rights.getLsbD 3 = true ∧
      servesIo s = true ∧ headerOk s d tyRmaReq false false = true ∧ d.slot = 0 ∧ k.lo.toNat ≤ d.offset.toNat ∧ d.offset.toNat + rmaLen
      (opened k d) ≤ k.hi.toNat ∧ x.gen = k.gen ∧ d.offset.toNat + rmaLen (opened k d) ≤ x.pages * 4096 ∧
      let home := hqSlate (dgNumber d)
      serving s home = true ∧ rotOf s home = [] ∧ copiesOf s home = [] ∧ s.poison = [] ∧ rmaForm s (opened k d) home = true ∧ rmaOp d =
        6 ∧ BitVec.ofNat 16 (beNat (blockSlice (opened k d).payload 0 2)) ≠ s.chain.ua) ∧
    (∃ (s : State) (sl : Nat) (id : Nat) (i : Nat) (c : Copy), copyOf s sl id = some c ∧ ∃ (h : Chunk), tabGet c.chunks i = some h ∧ ∃
      (e : RotEntry), tabGet (rotOf s sl) c.rotIdx = some e ∧ CanSend s sl c.request.cls ∧ h.acked = false ∧ ∃ st, st ≠ St.ok ∧ (st ≠
      St.notServing ∨ h.moved = true)) ∧
    (∃ (s : State) (sl : Nat) (id : Nat) (i : Nat) (c : Copy), copyOf s sl id = some c ∧ ∃ (h : Chunk), tabGet c.chunks i = some h ∧ ∃
      (e : RotEntry), tabGet (rotOf s sl) c.rotIdx = some e ∧ CanSend s sl c.request.cls ∧ h.acked = false ∧ h.moved = false) ∧
    (∃ (s : State) (sl : Nat) (id : Nat) (i : Nat) (c : Copy), copyOf s sl id = some c ∧ ∃ (h : Chunk), tabGet c.chunks i = some h ∧ ∃
      (e : RotEntry), tabGet (rotOf s sl) c.rotIdx = some e ∧ CanSend s sl c.request.cls ∧ h.acked = false ∧ h.last + 1000000 ≤ now s sl
      ∧ now s sl < h.first + 400000000) ∧
    (∃ (s : State) (sl : Nat) (id : Nat) (i : Nat) (c : Copy), copyOf s sl id = some c ∧ ∃ (h : Chunk), tabGet c.chunks i = some h ∧ ∃
      (e : RotEntry), tabGet (rotOf s sl) c.rotIdx = some e ∧ CanSend s sl c.request.cls ∧ h.acked = false ∧ (now s sl < h.last +
      1000000 ∨ h.first + 400000000 ≤ now s sl)) ∧
    (∃ (s : State) (sl : Nat) (id : Nat) (i : Nat) (c : Copy), copyOf s sl id = some c ∧ ∃ (h : Chunk), tabGet c.chunks i = some h ∧ ∃
      (e : RotEntry), tabGet (rotOf s sl) c.rotIdx = some e ∧ CanSend s sl c.request.cls ∧ h.acked = false ∧ h.first + 400000000 ≤ now s
      sl) :=
  ⟨⟨sR kR, dC, kR, _, got (by decide +kernel), proved_of (by decide +kernel), by decide +kernel, by decide +kernel, (by decide +kernel),
     by decide +kernel, by decide +kernel, (by decide +kernel), by decide +kernel, by decide +kernel, (by decide +kernel),
     by decide +kernel, by decide +kernel, (by decide +kernel), by decide +kernel, by decide +kernel, (by decide +kernel),
     by decide +kernel, by decide +kernel, (by decide +kernel), by decide +kernel, by decide +kernel⟩,
   ⟨sC 1000100 [(0, ch 0 100 100 0 false false), (1, ch 40 100 100 0 true false)], 0, 1, 0, _, got (by decide +kernel), _,
     got (by decide +kernel), _, got (by decide +kernel), canSend_of (by decide +kernel), by decide +kernel, 1, by decide +kernel,
     by decide +kernel⟩,
   ⟨sC 1000100 [(0, ch 0 100 100 0 false false), (1, ch 40 100 100 0 true false)], 0, 1, 0, _, got (by decide +kernel), _,
     got (by decide +kernel), _, got (by decide +kernel), canSend_of (by decide +kernel), by decide +kernel, by decide +kernel⟩,
   ⟨sC 1000100 [(0, ch 0 100 100 0 false false), (1, ch 40 100 100 0 true false)], 0, 1, 0, _, got (by decide +kernel), _,
     got (by decide +kernel), _, got (by decide +kernel), canSend_of (by decide +kernel), by decide +kernel, by decide +kernel,
     by decide +kernel⟩,
   ⟨sC 700 [(0, ch 0 100 100 0 true false)], 0, 1, 0, _, got (by decide +kernel), _, got (by decide +kernel), _,
     got (by decide +kernel), canSend_of (by decide +kernel), by decide +kernel, by decide +kernel⟩,
   ⟨sC 400000100 [(0, ch 0 100 100 0 false true), (1, ch 40 399000100 100 0 false false)], 0, 1, 1, _, got (by decide +kernel), _,
     got (by decide +kernel), _, got (by decide +kernel), canSend_of (by decide +kernel), by decide +kernel, by decide +kernel⟩⟩

/-- Each hypothesis of CopiesAndExpiries (its clauses 7 to 11) is met. -/
theorem witness_CopiesAndExpiries_2 :
    (∃ (s : State) (sl : Nat) (id : Nat) (i : Nat) (c : Copy), copyOf s sl id = some c ∧ ∃ (h : Chunk), tabGet c.chunks i = some h ∧ ∃
      (e : RotEntry), tabGet (rotOf s sl) c.rotIdx = some e ∧ CanSend s sl c.request.cls ∧ h.acked = false ∧ now s sl < h.first +
      400000000) ∧
    (∃ (s : State) (sl : Nat) (i : Nat) (e : RotEntry), tabGet (rotOf s sl) i = some e ∧ serving s sl = true ∧ e.done ≠ none ∧ e.arrival
      + e.horizon ≤ now s sl) ∧
    (∃ (s : State) (sl : Nat) (i : Nat) (e : RotEntry), tabGet (rotOf s sl) i = some e ∧ serving s sl = true ∧ (e.done = none ∨ now s sl
      < e.arrival + e.horizon)) ∧
    (∃ (s : State) (sl : Nat) (i : Nat) (t : Nat), tabGet s.availAt (winNo sl i) = some t ∧ serving s sl = true ∧ t ≤ now s sl) ∧
    (∃ (s : State) (sl : Nat) (i : Nat) (t : Nat), tabGet s.availAt (winNo sl i) = some t ∧ serving s sl = true ∧ now s sl < t) :=
  ⟨⟨sC 1000100 [(0, ch 0 100 100 0 false false), (1, ch 40 100 100 0 true false)], 0, 1, 0, _, got (by decide +kernel), _,
     got (by decide +kernel), _, got (by decide +kernel), canSend_of (by decide +kernel), by decide +kernel, by decide +kernel⟩,
   ⟨sE 1600, 0, 5, _, got (by decide +kernel), by decide +kernel, by decide +kernel, by decide +kernel⟩,
   ⟨sC 1000100 [(0, ch 0 100 100 0 false false), (1, ch 40 100 100 0 true false)], 0, 3, _, got (by decide +kernel), by decide +kernel,
     by decide +kernel⟩,
   ⟨sR kR, 0, 1, _, got (by decide +kernel), by decide +kernel, by decide +kernel⟩,
   ⟨sR kR, 0, 5, _, got (by decide +kernel), by decide +kernel, by decide +kernel⟩⟩

end CopiesAndExpiries

namespace PortsAndPause

def l0 (s : State) : State := F1 (at_ s 5000000000) 0 F.PORT.LINK_UP 1

def p0 : State := F1 (F1 (F1 (at_ (unit 2) 5000000000) 0 F.PORT.ADMIN_UP 1) 0 F.PORT.BREAKOUT 1) 0 F.PORT.PFC_EN 0xE

def rdy (s : State) (left t : Nat) (tr : Option Nat) (sent : Option (BitVec 64)) (tmo : Bool) : State := { s with ready := { s.ready with left := left, lastTb := t, trained := tr, sentTb := sent, timedOut := tmo } }

def pp (s : State) : State := { F1 s 0 F.PORT.LINK_UP 2 with peerPause := [(1, { since := 3, raised := false }), (9, { since := 4, raised := true })], pauseBoot := [(0, 0xE), (1, 0xE)] }

def q0 : State := F1 (at_ (unit 2) 5000000000) 0 F.PORT.PTP_RX 1

def pst (s : State) (l : Nat) (stp : Bool) (sy : Option Nat) : State := { F1 s 0 F.PORT.LOCKED l with tbStepped := stp, ptpSync := sy, slew := 5 }

def pv (b m i a : Nat) : Word := BitVec.ofNat 64 (b + m * 4 + i * 65536 + a * 131072)

/-- Each hypothesis of PortsAndPause (its clauses 1 to 6) is met. -/
theorem witness_PortsAndPause_1 :
    (∃ (s : State), serving s 0 = true ∧
      let due : Prop := 0 < s.ready.left ∧ s.ready.lastTb + 1000000000 ≤ now s 0
      due) ∧
    (∃ (s : State), serving s 0 = true ∧
      let due : Prop := 0 < s.ready.left ∧ s.ready.lastTb + 1000000000 ≤ now s 0
      ¬ due) ∧
    (∃ (s : State) (t : Nat), s.ready.trained = some t ∧ serving s 0 = true ∧ s.pin.shadows = [] ∧
      let due : Prop := s.ready.sentTb = none ∧ s.ready.timedOut = false ∧ t + getF s 0 F.XPORT.PAUSE_MAX * 100000000 ≤ now s 0
      due) ∧
    (∃ (s : State) (t : Nat), s.ready.trained = some t ∧ serving s 0 = true ∧ s.pin.shadows = [] ∧
      let due : Prop := s.ready.sentTb = none ∧ s.ready.timedOut = false ∧ t + getF s 0 F.XPORT.PAUSE_MAX * 100000000 ≤ now s 0
      ¬ due) ∧
    (∃ (s : State) (sl : Nat) (k : Nat), serving s sl = true ∧
      let up : Prop := bitOf (getF s sl F.PORT.LINK_UP) k = true
      ¬ up ∧ isF s sl F.PORT.ADMIN_UP = true ∧ k < 2 ^ getF s sl F.PORT.BREAKOUT) ∧
    (∃ (s : State) (sl : Nat) (k : Nat), serving s sl = true ∧
      let up : Prop := bitOf (getF s sl F.PORT.LINK_UP) k = true
      (up ∨ isF s sl F.PORT.ADMIN_UP = false ∨ 2 ^ getF s sl F.PORT.BREAKOUT ≤ k)) :=
  ⟨⟨rdy (l0 (unit 2)) 2 4000000000 none none false, by decide +kernel, by dsimp only; decide +kernel⟩,
   ⟨q0, by decide +kernel, by dsimp only; decide +kernel⟩,
   ⟨rdy (F1 p0 0 F.XPORT.PAUSE_MAX 10) 0 0 (some 4000000000) none false, _, got (by decide +kernel), by decide +kernel,
     by decide +kernel, by dsimp only; decide +kernel⟩,
   ⟨rdy (F1 p0 0 F.XPORT.PAUSE_MAX 10) 0 0 (some 4000000001) none false, _, got (by decide +kernel), by decide +kernel,
     by decide +kernel, by dsimp only; decide +kernel⟩,
   ⟨q0, 0, 0, by decide +kernel, by decide +kernel, (by decide +kernel), by decide +kernel⟩,
   ⟨q0, 0, 1, by decide +kernel, by dsimp only; decide +kernel⟩⟩

/-- Each hypothesis of PortsAndPause (its clauses 7 to 12) is met. -/
theorem witness_PortsAndPause_2 :
    (∃ (s : State) (sl : Nat) (k : Nat), serving s sl = true ∧
      let up : Prop := bitOf (getF s sl F.PORT.LINK_UP) k = true
      up ∧ s.pin.shadows = []) ∧
    (∃ (s : State) (sl : Nat) (c : Nat), serving s sl = true ∧ c < 8 ∧
      let paused := tabGet s.peerPause (sl * 8 + c)
      bitOf (getF s sl F.PORT.PFC_EN) c = true ∧ paused = none) ∧
    (∃ (s : State) (sl : Nat) (c : Nat), serving s sl = true ∧ c < 8 ∧
      let paused := tabGet s.peerPause (sl * 8 + c)
      (bitOf (getF s sl F.PORT.PFC_EN) c = false ∨ paused ≠ none)) ∧
    (∃ (s : State) (sl : Nat) (c : Nat), serving s sl = true ∧ c < 8 ∧ pausing s sl ≠ 0) ∧
    (∃ (s : State) (sl : Nat) (c : Nat), serving s sl = true ∧ c < 8 ∧ pausing s sl = 0) ∧
    (∃ (s : State) (sl : Nat) (v : Word), serving s sl = true ∧ legal s sl 0x03 0 v = false) :=
  ⟨⟨rdy (l0 (unit 2)) 2 4000000000 none none false, 0, 0, by decide +kernel, by decide +kernel, by decide +kernel⟩,
   ⟨q0, 0, 1, by decide +kernel, by decide +kernel, (by decide +kernel), by decide +kernel⟩,
   ⟨q0, 0, 0, by decide +kernel, by decide +kernel, by dsimp only; decide +kernel⟩,
   ⟨pp p0, 0, 0, by decide +kernel, by decide +kernel, by decide +kernel⟩,
   ⟨q0, 0, 0, by decide +kernel, by decide +kernel, by decide +kernel⟩,
   ⟨q0, 0, pv 1 0 0 1, by decide +kernel, by decide +kernel⟩⟩

/-- Each hypothesis of PortsAndPause (its clauses 13 to 17) is met. -/
theorem witness_PortsAndPause_3 :
    (∃ (s : State) (sl : Nat) (v : Word), serving s sl = true ∧ legal s sl 0x03 0 v = true) ∧
    (∃ (s : State) (sl : Nat) (x : PtpMessage), serving s sl = true ∧
      let follows : Prop := ptpSlate s = some sl ∧ getF s sl F.PORT.PTP_DOMAIN = x.domain ∧ getF s sl F.PORT.PTP_TRANSPORT = x.transport
        ∧ x.best = true
      ¬ follows) ∧
    (∃ (s : State) (sl : Nat) (x : PtpMessage), serving s sl = true ∧
      let follows : Prop := ptpSlate s = some sl ∧ getF s sl F.PORT.PTP_DOMAIN = x.domain ∧ getF s sl F.PORT.PTP_TRANSPORT = x.transport
        ∧ x.best = true
      follows) ∧
    (∃ (s : State) (sl : Nat), ptpSlate s = some sl ∧ ∃ (t : Nat), s.ptpSync = some t ∧ serving s 0 = true ∧ s.pin.shadows = [] ∧
      let due : Prop := isF s sl F.PORT.LOCKED = true ∧ t + 3000000000 ≤ now s sl
      due) ∧
    (∃ (s : State) (sl : Nat), ptpSlate s = some sl ∧ ∃ (t : Nat), s.ptpSync = some t ∧ serving s 0 = true ∧ s.pin.shadows = [] ∧
      let due : Prop := isF s sl F.PORT.LOCKED = true ∧ t + 3000000000 ≤ now s sl
      ¬ due) :=
  ⟨⟨q0, 0, pv 1 1500 0 1, by decide +kernel, by decide +kernel⟩,
   ⟨q0, 0, ⟨1, 0, true, 0⟩, by decide +kernel, by dsimp only; decide +kernel⟩,
   ⟨q0, 0, ⟨0, 0, true, 0⟩, by decide +kernel, by dsimp only; decide +kernel⟩,
   ⟨pst q0 1 true (some 2000000000), _, got (by decide +kernel), _, got (by decide +kernel), by decide +kernel, by decide +kernel,
     by dsimp only; decide +kernel⟩,
   ⟨pst q0 1 true (some 2000000001), _, got (by decide +kernel), _, got (by decide +kernel), by decide +kernel, by decide +kernel,
     by dsimp only; decide +kernel⟩⟩

end PortsAndPause

namespace FrameArrival

def lk (n : Nat) (s : State) : State := { s with links := (List.range (4 * n)).filterMap fun k => if linkNeigh n (k / 4) (k % 4) = k / 4 then none else some (k, ({ up := true, retrain := none } : LinkState)) }

def en (n : Nat) (s : State) : State := (List.range (4 * n)).foldl (fun s k => F1 s (k / 4) (F.FABRIC.EN (k % 4)) 1) s

def sw (n : Nat) : State := F1 (en n (lk n (at_ (unit n) 1000000))) 0 F.PORT.LINK_UP 1

def fr (port pcp bytes dst dp ds : Nat) : FrameIn := { slate := 0, sof := 1000000, home := 0, entry := port, path := [], lane := 0, port := port, sub := 0, pcp := pcp, dscp := 0x13, bytes := bytes, checkOk := true, exempt := false, kind := 0, ident := 5, dst := dst, dstPort := dp, dstSub := ds, copies := 0 }

def fq (id slate port cls bytes : Nat) (outs : List (Nat × Nat)) : Nat × Frame := (id, { slate := slate, inPort := port, cls := cls, bytes := bytes, outs := outs, path := [], lane := 0, key := 0, dst := slate, dstPort := 0, dstSub := 0, home := slate, tver := 0, entry := port, head := 0, waiting := false, stalled := false, mask := 0, group := none, dgram := none, job := none })

def K (k : Nat) (f : FrameIn) : FrameIn := { f with kind := k }

def fullF : State := { F1 (sw 8) 0 (F.SWITCH.LIM_FAB 4) 1 with frames := (List.range 4).map fun i => fq i 0 10 4 9000 [], nextFrame := 40 }

def fullS : State := { F1 (sw 2) 0 F.SWITCH.HDRM 0 with frames := (List.range 40).map fun i => fq i 0 0 3 9000 [], nextFrame := 40 }

def fullI : State := { F1 (F1 (F1 (F1 (sw 8) 0 F.SWITCH.MODE 0) 0 (F.SWITCH.ALPHA 5) 0) 0 (F.SWITCH.MIN 5) 1) 0 (F.SWITCH.LIM_INT 5) 1 with frames := (List.range 40).map fun i => fq i 0 1 5 9000 [], nextFrame := 40 }

/-- Each hypothesis of FrameArrival (its clauses 1 to 8) is met. -/
theorem witness_FrameArrival_1 :
    (∃ (s : State) (f : FrameIn), serving s f.slate = true ∧ s.pin.shadows = [] ∧ Uncounted s f.slate ∧
      let sized : Prop := f.bytes ≤ 9238 ∧ f.port ≤ 14 ∧ f.dst < s.n
      ¬ sized) ∧
    (∃ (s : State) (f : FrameIn), serving s f.slate = true ∧ s.pin.shadows = [] ∧ Uncounted s f.slate ∧
      let sl := f.slate
      let up : Prop := bitOf (getF s sl F.PORT.LINK_UP) f.sub = true
      let sized : Prop := f.bytes ≤ 9238 ∧ f.port ≤ 14 ∧ f.dst < s.n
      sized ∧ f.port = 0 ∧ ¬ up) ∧
    (∃ (s : State) (f : FrameIn), serving s f.slate = true ∧ s.pin.shadows = [] ∧ Uncounted s f.slate ∧
      let sl := f.slate
      let up : Prop := bitOf (getF s sl F.PORT.LINK_UP) f.sub = true
      let sized : Prop := f.bytes ≤ 9238 ∧ f.port ≤ 14 ∧ f.dst < s.n
      sized ∧ f.port = 0 ∧ up ∧ f.checkOk = false) ∧
    (∃ (s : State) (f : FrameIn), serving s f.slate = true ∧ s.pin.shadows = [] ∧ Uncounted s f.slate ∧
      let sl := f.slate
      let up : Prop := bitOf (getF s sl F.PORT.LINK_UP) f.sub = true
      let c := if isF s sl F.PORT.PRIO_SRC = true then getF s sl (F.PORT.CLASS (f.dscp / 16 % 4) (f.dscp % 16)) else f.pcp % 8
      let sized : Prop := f.bytes ≤ 9238 ∧ f.port ≤ 14 ∧ f.dst < s.n
      let free (c : Nat) : Prop := f.exempt = true ∨ polClass c = false ∨ isF s sl (F.SCHED.POL_EN c) = false
      sized ∧ f.port = 0 ∧ up ∧ f.checkOk = true ∧ free c ∧ (c = 0 ∨ c = 4 ∨ c = 5 ∨ c = 6)) ∧
    (∃ (s : State) (f : FrameIn), serving s f.slate = true ∧ s.pin.shadows = [] ∧ Uncounted s f.slate ∧
      let sl := f.slate
      let up : Prop := bitOf (getF s sl F.PORT.LINK_UP) f.sub = true
      let c := if isF s sl F.PORT.PRIO_SRC = true then getF s sl (F.PORT.CLASS (f.dscp / 16 % 4) (f.dscp % 16)) else f.pcp % 8
      let sized : Prop := f.bytes ≤ 9238 ∧ f.port ≤ 14 ∧ f.dst < s.n
      let free (c : Nat) : Prop := f.exempt = true ∨ polClass c = false ∨ isF s sl (F.SCHED.POL_EN c) = false
      sized ∧ f.port = 0 ∧ up ∧ f.checkOk = true ∧ free c ∧ (c = 1 ∨ c = 2 ∨ c = 3 ∨ c = 7) ∧ frameFits f c = false) ∧
    (∃ (s : State) (f : FrameIn), serving s f.slate = true ∧ s.pin.shadows = [] ∧ Uncounted s f.slate ∧
      let sl := f.slate
      let up : Prop := bitOf (getF s sl F.PORT.LINK_UP) f.sub = true
      let c := if isF s sl F.PORT.PRIO_SRC = true then getF s sl (F.PORT.CLASS (f.dscp / 16 % 4) (f.dscp % 16)) else f.pcp % 8
      let sized : Prop := f.bytes ≤ 9238 ∧ f.port ≤ 14 ∧ f.dst < s.n
      let free (c : Nat) : Prop := f.exempt = true ∨ polClass c = false ∨ isF s sl (F.SCHED.POL_EN c) = false
      sized ∧ f.port = 0 ∧ up ∧ f.checkOk = true ∧ free c ∧ (c = 1 ∨ c = 2 ∨ c = 3 ∨ c = 7) ∧
      let full : Prop := 16 * getF s sl F.SWITCH.HDRM < headCells s sl c + (cellsOf f.bytes - cellRoom s sl 0 c)
      frameFits f c = true ∧ full) ∧
    (∃ (s : State) (f : FrameIn), serving s f.slate = true ∧ s.pin.shadows = [] ∧ Uncounted s f.slate ∧
      let sl := f.slate
      let up : Prop := bitOf (getF s sl F.PORT.LINK_UP) f.sub = true
      let c := if isF s sl F.PORT.PRIO_SRC = true then getF s sl (F.PORT.CLASS (f.dscp / 16 % 4) (f.dscp % 16)) else f.pcp % 8
      let sized : Prop := f.bytes ≤ 9238 ∧ f.port ≤ 14 ∧ f.dst < s.n
      let free (c : Nat) : Prop := f.exempt = true ∨ polClass c = false ∨ isF s sl (F.SCHED.POL_EN c) = false
      sized ∧ f.port = 0 ∧ up ∧ f.checkOk = true ∧ free c ∧ (c = 1 ∨ c = 2 ∨ c = 3 ∨ c = 7) ∧
      let full : Prop := 16 * getF s sl F.SWITCH.HDRM < headCells s sl c + (cellsOf f.bytes - cellRoom s sl 0 c)
      frameFits f c = true ∧ ¬ full) ∧
    (∃ (s : State) (f : FrameIn), serving s f.slate = true ∧ s.pin.shadows = [] ∧ Uncounted s f.slate ∧
      let sl := f.slate
      let b := f.pcp % 8
      let sized : Prop := f.bytes ≤ 9238 ∧ f.port ≤ 14 ∧ f.dst < s.n
      sized ∧ 10 ≤ f.port ∧ f.port ≤ 13 ∧
      let l := f.port - 10
      (linkUp s sl l = false ∨ frameFits f b = false)) :=
  ⟨⟨sw 1, fr 0 3 100 1 0 0, by decide +kernel, by decide +kernel, uncounted_of (by decide +kernel), by dsimp only; decide +kernel⟩,
   ⟨at_ (unit 2) 5, fr 0 3 100 1 0 0, by decide +kernel, by decide +kernel, uncounted_of (by decide +kernel), by decide +kernel,
     by decide +kernel, by decide +kernel⟩,
   ⟨sw 2, { fr 0 3 100 1 0 0 with checkOk := false }, by decide +kernel, by decide +kernel, uncounted_of (by decide +kernel),
     by decide +kernel, by decide +kernel, (by decide +kernel), by decide +kernel⟩,
   ⟨sw 1, fr 0 4 100 0 2 0, by decide +kernel, by decide +kernel, uncounted_of (by decide +kernel), by decide +kernel,
     by decide +kernel, (by decide +kernel), by decide +kernel, by decide +kernel, by decide +kernel⟩,
   ⟨sw 2, { fr 0 3 100 1 0 0 with kind := 1 }, by decide +kernel, by decide +kernel, uncounted_of (by decide +kernel),
     by decide +kernel, by decide +kernel, (by decide +kernel), by decide +kernel, by decide +kernel, (by decide +kernel),
     by decide +kernel⟩,
   ⟨F1 (F1 (F1 (F1 fullS 0 F.SWITCH.MODE 0) 0 (F.SWITCH.ALPHA 3) 0) 0 (F.SWITCH.MIN 3) 1) 0 (F.SWITCH.LIM_NET 3) 1, fr 0 3 100 1 0 0,
     by decide +kernel, by decide +kernel, uncounted_of (by decide +kernel), by decide +kernel, by decide +kernel, (by decide +kernel),
     by decide +kernel, by decide +kernel, (by decide +kernel), by decide +kernel, by decide +kernel⟩,
   ⟨sw 1, fr 0 1 9238 0 2 1, by decide +kernel, by decide +kernel, uncounted_of (by decide +kernel), by decide +kernel,
     by decide +kernel, (by decide +kernel), by decide +kernel, by decide +kernel, (by decide +kernel), by decide +kernel,
     by decide +kernel⟩,
   ⟨sw 1, K 4 { fr 10 4 100 0 3 0 with home := 1 }, by decide +kernel, by decide +kernel, uncounted_of (by decide +kernel),
     by decide +kernel, by decide +kernel, (by decide +kernel), by dsimp only; decide +kernel⟩⟩

/-- Each hypothesis of FrameArrival (its clauses 9 to 15) is met. -/
theorem witness_FrameArrival_2 :
    (∃ (s : State) (f : FrameIn), serving s f.slate = true ∧ s.pin.shadows = [] ∧ Uncounted s f.slate ∧
      let sl := f.slate
      let b := f.pcp % 8
      let sized : Prop := f.bytes ≤ 9238 ∧ f.port ≤ 14 ∧ f.dst < s.n
      sized ∧ 10 ≤ f.port ∧ f.port ≤ 13 ∧
      let l := f.port - 10
      linkUp s sl l = true ∧ frameFits f b = true ∧ f.checkOk = false) ∧
    (∃ (s : State) (f : FrameIn), serving s f.slate = true ∧ s.pin.shadows = [] ∧ Uncounted s f.slate ∧
      let sl := f.slate
      let b := f.pcp % 8
      let sized : Prop := f.bytes ≤ 9238 ∧ f.port ≤ 14 ∧ f.dst < s.n
      sized ∧ 10 ≤ f.port ∧ f.port ≤ 13 ∧
      let l := f.port - 10
      linkUp s sl l = true ∧ frameFits f b = true ∧ f.checkOk = true ∧ laneCredit s sl f.port b f.lane (cellsOf f.bytes) = false) ∧
    (∃ (s : State) (f : FrameIn), serving s f.slate = true ∧ s.pin.shadows = [] ∧ Uncounted s f.slate ∧
      let sl := f.slate
      let b := f.pcp % 8
      let sized : Prop := f.bytes ≤ 9238 ∧ f.port ≤ 14 ∧ f.dst < s.n
      sized ∧ 10 ≤ f.port ∧ f.port ≤ 13 ∧
      let l := f.port - 10
      linkUp s sl l = true ∧ frameFits f b = true ∧ f.checkOk = true ∧ laneCredit s sl f.port b f.lane (cellsOf f.bytes) = true ∧
        f.copies = 0 ∧ serving s f.dst = true ∧ leadsTo s.n sl f.dst f.path = false) ∧
    (∃ (s : State) (f : FrameIn), serving s f.slate = true ∧ s.pin.shadows = [] ∧ Uncounted s f.slate ∧
      let sl := f.slate
      let b := f.pcp % 8
      let sized : Prop := f.bytes ≤ 9238 ∧ f.port ≤ 14 ∧ f.dst < s.n
      sized ∧ 10 ≤ f.port ∧ f.port ≤ 13 ∧
      let l := f.port - 10
      linkUp s sl l = true ∧ frameFits f b = true ∧ f.checkOk = true ∧ laneCredit s sl f.port b f.lane (cellsOf f.bytes) = true ∧
        f.copies = 0 ∧ serving s f.dst = true ∧ leadsTo s.n sl f.dst f.path = true ∧ (∀ h ∈ f.path, linkUp s h.1 h.2 = true) ∧ (f.path ≠
        [] ∨ f.dstPort ≠ 0)) ∧
    (∃ (s : State) (f : FrameIn), serving s f.slate = true ∧ s.pin.shadows = [] ∧ Uncounted s f.slate ∧
      let sl := f.slate
      let b := f.pcp % 8
      let sized : Prop := f.bytes ≤ 9238 ∧ f.port ≤ 14 ∧ f.dst < s.n
      sized ∧ 1 ≤ f.port ∧ (f.port ≤ 9 ∨ (f.port = 14 ∧ sl < 2)) ∧ frameFits f b = false) ∧
    (∃ (s : State) (f : FrameIn), serving s f.slate = true ∧ s.pin.shadows = [] ∧ Uncounted s f.slate ∧
      let sl := f.slate
      let b := f.pcp % 8
      let sized : Prop := f.bytes ≤ 9238 ∧ f.port ≤ 14 ∧ f.dst < s.n
      sized ∧ 1 ≤ f.port ∧ (f.port ≤ 9 ∨ (f.port = 14 ∧ sl < 2)) ∧
      let behind : Prop := ∃ x ∈ s.frames, x.1 < s.nextFrame ∧ x.2.stalled = true ∧ x.2.slate = sl ∧ x.2.inPort = f.port ∧ x.2.cls = b
      frameFits f b = true ∧ cellsOf f.bytes ≤ cellRoom s sl f.port b ∧ ¬ behind) ∧
    (∃ (s : State) (f : FrameIn), serving s f.slate = true ∧ s.pin.shadows = [] ∧ Uncounted s f.slate ∧
      let sl := f.slate
      let b := f.pcp % 8
      let sized : Prop := f.bytes ≤ 9238 ∧ f.port ≤ 14 ∧ f.dst < s.n
      sized ∧ 1 ≤ f.port ∧ (f.port ≤ 9 ∨ (f.port = 14 ∧ sl < 2)) ∧
      let behind : Prop := ∃ x ∈ s.frames, x.1 < s.nextFrame ∧ x.2.stalled = true ∧ x.2.slate = sl ∧ x.2.inPort = f.port ∧ x.2.cls = b
      frameFits f b = true ∧ (cellRoom s sl f.port b < cellsOf f.bytes ∨ behind)) :=
  ⟨⟨sw 2, { K 4 (fr 10 4 100 1 3 0) with checkOk := false }, by decide +kernel, by decide +kernel, uncounted_of (by decide +kernel),
     by decide +kernel, by decide +kernel, (by decide +kernel), by decide +kernel, by decide +kernel, by decide +kernel⟩,
   ⟨fullF, K 4 (fr 10 4 100 1 3 0), by decide +kernel, by decide +kernel, uncounted_of (by decide +kernel), by decide +kernel,
     by decide +kernel, (by decide +kernel), by decide +kernel, by decide +kernel, (by decide +kernel), by decide +kernel⟩,
   ⟨sw 2, K 4 (fr 10 4 100 1 3 0), by decide +kernel, by decide +kernel, uncounted_of (by decide +kernel), by decide +kernel,
     by decide +kernel, (by decide +kernel), by decide +kernel, by decide +kernel, (by decide +kernel), by decide +kernel,
     by decide +kernel, (by decide +kernel), by decide +kernel⟩,
   ⟨sw 2, K 4 { fr 10 4 100 0 3 0 with home := 1 }, by decide +kernel, by decide +kernel, uncounted_of (by decide +kernel),
     by decide +kernel, by decide +kernel, (by decide +kernel), by decide +kernel, by decide +kernel, (by decide +kernel),
     by decide +kernel, by decide +kernel, (by decide +kernel), by decide +kernel, by decide +kernel, by decide +kernel⟩,
   ⟨sw 8, fr 8 6 9000 3 4 1, by decide +kernel, by decide +kernel, uncounted_of (by decide +kernel), by decide +kernel,
     by decide +kernel, (by decide +kernel), by decide +kernel⟩,
   ⟨sw 1, K 1 (fr 1 5 100 0 1 0), by decide +kernel, by decide +kernel, uncounted_of (by decide +kernel), by decide +kernel,
     by decide +kernel, (by decide +kernel), by decide +kernel, by decide +kernel, by decide +kernel⟩,
   ⟨F1 (F1 (F1 (F1 fullS 0 F.SWITCH.MODE 0) 0 (F.SWITCH.ALPHA 3) 0) 0 (F.SWITCH.MIN 3) 1) 0 (F.SWITCH.LIM_NET 3) 1,
     K 4 (fr 9 3 9000 1 1 0), by decide +kernel, by decide +kernel, uncounted_of (by decide +kernel), by decide +kernel,
     by decide +kernel, (by decide +kernel), by decide +kernel, by decide +kernel⟩⟩

/-- The hypotheses under which an arriving frame enters are met: for a frame to another slate, for one to a port of its own
slate, and for one whose port stands at its limit. -/
theorem witness_FrameArrival_enters :
    (∃ (s : State) (f : FrameIn) (c : Nat) (p : List (Nat × Nat)) (lane : Nat),
      pathOf s f.slate f.dst (flowHash (flowKey c f.home f.dst f.kind f.ident) (getF s f.slate F.SWITCH.FLOW_SEED)) = some (p, lane) ∧
      serving s f.slate = true ∧ serving s f.dst = true ∧ f.copies = 0 ∧ c = f.pcp % 8 ∧ c ≠ 0 ∧ 1 ≤ f.port ∧ f.port ≤ 9 ∧ p ≠ []) ∧
    (∃ (s : State) (f : FrameIn) (c : Nat) (p : List (Nat × Nat)) (lane : Nat),
      pathOf s f.slate f.dst (flowHash (flowKey c f.home f.dst f.kind f.ident) (getF s f.slate F.SWITCH.FLOW_SEED)) = some (p, lane) ∧
      serving s f.slate = true ∧ serving s f.dst = true ∧ f.copies = 0 ∧ c = f.pcp % 8 ∧ c ≠ 0 ∧ f.port = 0 ∧ f.dstPort ≠ 0) ∧
    (∃ (s : State) (f : FrameIn), serving s f.slate = true ∧ f.port = 1 ∧ frameFits f (f.pcp % 8) = true ∧ cellRoom s 0 f.port (f.pcp % 8) < cellsOf f.bytes) :=
  ⟨⟨sw 2, K 4 (fr 9 3 9000 1 1 0), 3, _, _, gotp (by decide +kernel), by decide +kernel, by decide +kernel, rfl, rfl, by decide, by decide,
     by decide, by decide +kernel⟩,
   ⟨sw 2, fr 0 1 9238 0 2 1, 1, _, _, gotp (by decide +kernel), by decide +kernel, by decide +kernel, rfl, rfl, by decide, rfl, by decide⟩,
   ⟨fullI, K 1 (fr 1 5 100 0 1 0), by decide +kernel, rfl, by decide, by decide +kernel⟩⟩

end FrameArrival

namespace PolicersAndCredits

def lk (n : Nat) (s : State) : State := { s with links := (List.range (4 * n)).filterMap fun k => if linkNeigh n (k / 4) (k % 4) = k / 4 then none else some (k, ({ up := true, retrain := none } : LinkState)) }

def en (n : Nat) (s : State) : State := (List.range (4 * n)).foldl (fun s k => F1 s (k / 4) (F.FABRIC.EN (k % 4)) 1) s

def sw (n : Nat) : State := F1 (en n (lk n (at_ (unit n) 1000000))) 0 F.PORT.LINK_UP 1

def fr (port pcp bytes dst dp ds : Nat) : FrameIn := { slate := 0, sof := 1000000, home := 0, entry := port, path := [], lane := 0, port := port, sub := 0, pcp := pcp, dscp := 0x13, bytes := bytes, checkOk := true, exempt := false, kind := 1, ident := 5, dst := dst, dstPort := dp, dstSub := ds, copies := 0 }

def pol (s : State) (tk l : Nat) (ld : Option Nat) : State := { F1 (F1 (F1 (F1 s 0 (F.SCHED.POL_EN 3) 1) 0 (F.SCHED.RATE 3) 10) 0 (F.SCHED.BURST 3) 150) 0 (F.SCHED.POL_EN 1) 1 with policers := [(3, { tokens := tk, tLast := l, lastDrop := ld })] }

def plv (e f r b : Nat) : Word := BitVec.ofNat 64 (e + f * 2 + r * 4 + b * 2 ^ 22)

/-- Each hypothesis of PolicersAndCredits is met. -/
theorem witness_PolicersAndCredits :
    (∃ (s : State) (f : FrameIn), serving s f.slate = true ∧ Uncounted s f.slate ∧ f.port = 0 ∧ f.bytes ≤ 9238 ∧ f.dst < s.n ∧ bitOf
      (getF s f.slate F.PORT.LINK_UP) f.sub = true ∧ f.checkOk = true ∧ f.exempt = false ∧ isF s f.slate F.PORT.PRIO_SRC = false ∧
      let sl := f.slate
      let c := f.pcp % 8
      let p := policerOf s sl c
      let tokens := min (getF s sl (F.SCHED.BURST c) * 51200) (p.tokens + getF s sl (F.SCHED.RATE c) * (f.sof - p.tLast))
      polClass c = true ∧ isF s sl (F.SCHED.POL_EN c) = true ∧ tokens < f.bytes * 800) ∧
    (∃ (s : State) (f : FrameIn), serving s f.slate = true ∧ Uncounted s f.slate ∧ f.port = 0 ∧ f.bytes ≤ 9238 ∧ f.dst < s.n ∧ bitOf
      (getF s f.slate F.PORT.LINK_UP) f.sub = true ∧ f.checkOk = true ∧ f.exempt = false ∧ isF s f.slate F.PORT.PRIO_SRC = false ∧
      let sl := f.slate
      let c := f.pcp % 8
      let p := policerOf s sl c
      let tokens := min (getF s sl (F.SCHED.BURST c) * 51200) (p.tokens + getF s sl (F.SCHED.RATE c) * (f.sof - p.tLast))
      polClass c = true ∧ isF s sl (F.SCHED.POL_EN c) = true ∧ f.bytes * 800 ≤ tokens) ∧
    (∃ (s : State) (sl : Nat) (c : Nat) (v : Word), serving s sl = true ∧ c < 8 ∧ polClass c = true ∧ legal s sl 0x07 (0x300 + c) v =
      false) ∧
    (∃ (s : State) (sl : Nat) (c : Nat) (v : Word), serving s sl = true ∧ c < 8 ∧ polClass c = true ∧ legal s sl 0x07 (0x300 + c) v =
      true) ∧
    (∃ (s : State) (sl : Nat) (c : Nat) (v : Word), serving s sl = true ∧ (c = 1 ∨ c = 2 ∨ c = 3 ∨ c = 7) ∧ legal s sl 0x07 (0x100 + c)
      v = false) ∧
    (∃ (s : State) (sl : Nat) (c : Nat) (v : Word), serving s sl = true ∧ (c = 1 ∨ c = 2 ∨ c = 3 ∨ c = 7) ∧ legal s sl 0x07 (0x100 + c)
      v = true ∧ fv v (F.SCHED.HI_CREDIT c) ≠ getF s sl (F.SCHED.HI_CREDIT c)) :=
  ⟨⟨pol (sw 2) 79999 1000000 none, fr 0 3 100 1 0 0, by decide +kernel, uncounted_of (by decide +kernel), by decide +kernel,
     by decide +kernel, (by decide +kernel), by decide +kernel, by decide +kernel, (by decide +kernel), by decide +kernel,
     by decide +kernel, (by decide +kernel), by decide +kernel⟩,
   ⟨pol (sw 2) 79999 1000000 none, fr 0 1 9238 0 2 1, by decide +kernel, uncounted_of (by decide +kernel), by decide +kernel,
     by decide +kernel, (by decide +kernel), by decide +kernel, by decide +kernel, (by decide +kernel), by decide +kernel,
     by decide +kernel, (by decide +kernel), by decide +kernel⟩,
   ⟨pol (sw 2) 79999 1000000 none, 0, 1, plv 1 1 0 150, by decide +kernel, by decide +kernel, (by decide +kernel), by decide +kernel⟩,
   ⟨pol (sw 2) 79999 1000000 none, 0, 1, plv 1 0 10 150, by decide +kernel, by decide +kernel, (by decide +kernel), by decide +kernel⟩,
   ⟨pol (sw 2) 79999 1000000 none, 0, 1, plv 1 0 10 150, by decide +kernel, by decide +kernel, by decide +kernel⟩,
   ⟨pol (sw 2) 79999 1000000 none, 0, 1, BitVec.ofNat 64 (1 + 2 + 5 * 4 + 100 * 1024 + 7 * 2 ^ 30), by decide +kernel,
     by decide +kernel, (by decide +kernel), by decide +kernel⟩⟩

end PolicersAndCredits

namespace OutputSelection

def lk (n : Nat) (s : State) : State := { s with links := (List.range (4 * n)).filterMap fun k => if linkNeigh n (k / 4) (k % 4) = k / 4 then none else some (k, ({ up := true, retrain := none } : LinkState)) }

def en (n : Nat) (s : State) : State := (List.range (4 * n)).foldl (fun s k => F1 s (k / 4) (F.FABRIC.EN (k % 4)) 1) s

def sw (n : Nat) : State := F1 (en n (lk n (at_ (unit n) 1000000))) 0 F.PORT.LINK_UP 1

def fr (port pcp bytes dst dp ds : Nat) : FrameIn := { slate := 0, sof := 1000000, home := 0, entry := port, path := [], lane := 0, port := port, sub := 0, pcp := pcp, dscp := 0x13, bytes := bytes, checkOk := true, exempt := false, kind := 1, ident := 5, dst := dst, dstPort := dp, dstSub := ds, copies := 0 }

def fq (id slate port cls bytes : Nat) (outs : List (Nat × Nat)) : Nat × Frame := (id, { slate := slate, inPort := port, cls := cls, bytes := bytes, outs := outs, path := [], lane := 0, key := 0, dst := slate, dstPort := 0, dstSub := 0, home := slate, tver := 0, entry := port, head := 0, waiting := false, stalled := false, mask := 0, group := none, dgram := none, job := none })

theorem queueOf_other {v fr c c' : Nat} {q : OutQueue} (h : c' ≠ c) :
    (queueOf { v := v, freeAt := fr, cur := none, queues := [(c, q)] } c').frames = [] := by
  simp [queueOf, tabGetD, tabGet, h, queueIdle]

def d0 : OutDatagram := { blankDgram 0 7 tyReady with payload := [1, 2] }

def oq (fr : List Nat) (cr : Int) (ct : Nat) (sl : Option Nat) : OutQueue := { frames := fr, headF := none, flast := 0, credit := cr, creditTb := ct, slotTb := sl }

def op (free : Nat) (qs : Tab OutQueue) (c : Nat) (grp : Option Nat := none) : State := { sw 2 with outs := [(0, { v := 0, freeAt := free, cur := none, queues := qs })], frames := [(4, { (fq 4 0 1 c 100 [(0, 0)]).2 with dgram := some d0, group := grp })], nextFrame := 5 }

def pr (s : State) : State := F1 (F1 (F1 s 0 (F.SCHED.PRIV 3) 1) 0 (F.SCHED.IDLE_SLOPE 3) 100) 0 (F.SCHED.HI_CREDIT 3) 2

/-- Each hypothesis of OutputSelection is met. -/
theorem witness_OutputSelection :
    (∃ (s : State) (sl : Nat) (k : Nat), serving s sl = true ∧ k < 8 ∧ Uncounted s sl ∧
      let o := outOf s sl 0 k
      now s sl * 1000 < o.freeAt) ∧
    (∃ (s : State) (sl : Nat) (k : Nat), serving s sl = true ∧ k < 8 ∧ Uncounted s sl ∧
      let o := outOf s sl 0 k
      o.freeAt ≤ now s sl * 1000 ∧ (∀ c, (queueOf o c).frames = [])) ∧
    (∃ (s : State) (sl : Nat) (k : Nat), serving s sl = true ∧ k < 8 ∧ Uncounted s sl ∧
      let o := outOf s sl 0 k
      ∃ (c : Nat) (id : Nat), ∃ r, ∃ f, tabGet s.frames id = some f ∧ ∃ d, f.dgram = some d ∧ o.freeAt ≤ now s sl * 1000 ∧ 1 ≤ c ∧ c ≤ 7
        ∧ (queueOf o c).frames = id :: r ∧ (∀ c', c' ≠ c → (queueOf o c').frames = []) ∧ f.outs = [(0, k)] ∧ f.group = none ∧ tabGet
        s.peerPause (sl * 8 + c) = none ∧ gateOpen s sl 0 c (now s sl) (txPs s sl 0 f.bytes) = true ∧ (isPriv s sl 0 c = false ∨
        ((queueOf o c).slotTb = none ∧ 0 ≤ (queueOf o c).credit ∧ (queueOf o c).creditTb = now s sl))) ∧
    (∃ (s : State) (sl : Nat) (p : Nat) (k : Nat) (c : Nat) (x : Nat), (queueOf (outOf s sl p k) c).slotTb = some x ∧ serving s sl =
      true ∧ c < 8 ∧ now s sl < x) ∧
    (∃ (s : State) (sl : Nat) (p : Nat) (k : Nat) (c : Nat) (x : Nat), (queueOf (outOf s sl p k) c).slotTb = some x ∧ serving s sl =
      true ∧ c < 8 ∧ x ≤ now s sl ∧ isPriv s sl p c = true ∧ (queueOf (outOf s sl p k) c).frames ≠ [] ∧ gateAt s sl p c (now s sl) =
      true) :=
  ⟨⟨op 1000000001 [(3, oq [4] 0 3 none)] 3, 0, 0, by decide +kernel, by decide +kernel, uncounted_of (by decide +kernel),
     by dsimp only; decide +kernel⟩,
   ⟨op 1000000000 [(3, oq [4] 0 3 none)] 3, 0, 3, by decide +kernel, by decide +kernel, uncounted_of (by decide +kernel),
     by decide +kernel, fun _ => rfl⟩,
   ⟨op 1000000000 [(3, oq [4] 0 3 none)] 3, 0, 0, by decide +kernel, by decide +kernel, uncounted_of (by decide +kernel), 3, 4, [], _,
     got (by decide +kernel), _, got (by decide +kernel), by decide +kernel, by decide +kernel, (by decide +kernel), by decide +kernel,
     fun _ h => queueOf_other h, by decide +kernel, by decide +kernel, (by decide +kernel), by decide +kernel, by decide +kernel⟩,
   ⟨pr (op 0 [(3, oq [4] (-10) 999999 (some 1000001))] 3), 0, 0, 0, 3, _, got (by decide +kernel), by decide +kernel, by decide +kernel,
     by decide +kernel⟩,
   ⟨pr (op 0 [(3, oq [4] (-100) 999999 (some 1000000))] 3), 0, 0, 0, 3, _, got (by decide +kernel), by decide +kernel,
     by decide +kernel, (by decide +kernel), by decide +kernel, by decide +kernel, by decide +kernel⟩⟩

end OutputSelection

namespace GatesLinksAndBarrier

def lk (n : Nat) (s : State) : State := { s with links := (List.range (4 * n)).filterMap fun k => if linkNeigh n (k / 4) (k % 4) = k / 4 then none else some (k, ({ up := true, retrain := none } : LinkState)) }

def en (n : Nat) (s : State) : State := (List.range (4 * n)).foldl (fun s k => F1 s (k / 4) (F.FABRIC.EN (k % 4)) 1) s

def sw (n : Nat) : State := F1 (en n (lk n (at_ (unit n) 1000000))) 0 F.PORT.LINK_UP 1

def fq (id slate port cls bytes : Nat) (outs : List (Nat × Nat)) : Nat × Frame := (id, { slate := slate, inPort := port, cls := cls, bytes := bytes, outs := outs, path := [], lane := 0, key := 0, dst := slate, dstPort := 0, dstSub := 0, home := slate, tver := 0, entry := port, head := 0, waiting := false, stalled := false, mask := 0, group := none, dgram := none, job := none })

def gl (s : State) (len cyc base : Nat) (es : List (Nat × Nat)) : State := (List.range 8).foldl (fun s i => match es[i]? with | some (m, d) => F1 (F1 s 0 (F.SCHED.OPEN i) m) 0 (F.SCHED.DURATION i) d | none => s) (F1 (F1 (F1 s 0 F.SCHED.GL_LEN len) 0 F.SCHED.CYCLE cyc) 0 F.SCHED.BASE base)

def gsl (st : Nat) : GateList := { entries := [(0xFF, 3000), (0x80, 5000)], cycle := 8000, start := st }

def gs (o p : Option GateList) : State := { sw 2 with gates := [(0, { oper := o, pend := p, entry := 0 })] }

def pk (m since : Nat) (r : Bool) : State := { F1 (sw 2) 0 F.SWITCH.PEER_PAUSE_MAX m with peerPause := [(3, { since := since, raised := r })] }

def rt (n l t : Nat) : State := { sw n with links := tabPut (sw n).links l { up := true, retrain := some t } }

def mc : State := { sw 2 with mcast := [(4, { slate := 0, left := 0, result := 3 }), (5, { slate := 0, left := 1, result := 3 }), (7, { slate := 1, left := 0, result := 3 })] }

def wf (id tv : Nat) (wt : Bool) (outs : List (Nat × Nat)) : Nat × Frame := (id, { (fq id 0 1 3 100 outs).2 with tver := tv, waiting := wt })

def lw (tv : Nat) : State := { sw 2 with frames := [wf 4 tv false [(2, 0)], wf 5 6 true [(2, 0), (3, 1)], wf 7 6 true [(0, 0)]], nextFrame := 8 }

def sb (b tv : Nat) : State := { lw tv with barrier := [(0, b)] }

def glv (len en : Nat) : Word := BitVec.ofNat 64 (len + en * 128)

/-- Each hypothesis of GatesLinksAndBarrier (its clauses 1 to 8) is met. -/
theorem witness_GatesLinksAndBarrier_1 :
    (∃ (s : State) (sl : Nat) (v : Word), serving s sl = true ∧
      let x := withF v F.SCHED.GL_INSTALL 1
      legal s sl 0x07 0x240 x = false) ∧
    (∃ (s : State) (sl : Nat) (v : Word), serving s sl = true ∧
      let x := withF v F.SCHED.GL_INSTALL 1
      legal s sl 0x07 0x240 x = true) ∧
    (∃ (s : State) (sl : Nat) (v : Word), serving s sl = true ∧
      let y := withF (withF v F.SCHED.GL_INSTALL 0) F.SCHED.GL_EN 0
      legal s sl 0x07 0x240 y = true) ∧
    (∃ (s : State) (sl : Nat), serving s sl = true ∧ (gatesOf s sl).pend = none) ∧
    (∃ (s : State) (sl : Nat) (l : GateList), (gatesOf s sl).pend = some l ∧ serving s sl = true ∧ now s sl < l.start) ∧
    (∃ (s : State) (sl : Nat) (l : GateList), (gatesOf s sl).pend = some l ∧ serving s sl = true ∧ l.start ≤ now s sl) ∧
    (∃ (s : State) (sl : Nat) (l : GateList), (gatesOf s sl).oper = some l ∧ serving s sl = true) ∧
    (∃ (s : State) (sl : Nat) (c : Nat) (p : PeerPause), tabGet s.peerPause (sl * 8 + c) = some p ∧ serving s sl = true ∧ c < 8 ∧
      s.pin.shadows = [] ∧
      let limit := getF s sl F.SWITCH.PEER_PAUSE_MAX
      let late : Prop := p.raised = false ∧ limit ≠ 0 ∧ p.since + limit * 1000000 ≤ now s sl
      late) :=
  ⟨⟨sw 2, 0, glv 2 1, by decide +kernel, by dsimp only; decide +kernel⟩,
   ⟨gl (sw 2) 2 8000 7 [(0xFF, 3000), (0x80, 5000)], 0, glv 2 1, by decide +kernel, by dsimp only; decide +kernel⟩,
   ⟨sw 2, 0, glv 2 1, by decide +kernel, by dsimp only; decide +kernel⟩,
   ⟨sw 2, 0, by decide +kernel, by decide +kernel⟩,
   ⟨gs (some (gsl 5)) (some (gsl 1000001)), 0, _, got (by decide +kernel), by decide +kernel, by decide +kernel⟩,
   ⟨gs none (some (gsl 1000000)), 0, _, got (by decide +kernel), by decide +kernel, by decide +kernel⟩,
   ⟨gs (some (gsl 5)) (some (gsl 1000001)), 0, _, got (by decide +kernel), by decide +kernel⟩,
   ⟨pk 1 0 false, 0, 3, _, got (by decide +kernel), by decide +kernel, by decide +kernel, (by decide +kernel),
     by dsimp only; decide +kernel⟩⟩

/-- Each hypothesis of GatesLinksAndBarrier (its clauses 9 to 16) is met. -/
theorem witness_GatesLinksAndBarrier_2 :
    (∃ (s : State) (sl : Nat) (c : Nat) (p : PeerPause), tabGet s.peerPause (sl * 8 + c) = some p ∧ serving s sl = true ∧ c < 8 ∧
      s.pin.shadows = [] ∧
      let limit := getF s sl F.SWITCH.PEER_PAUSE_MAX
      let late : Prop := p.raised = false ∧ limit ≠ 0 ∧ p.since + limit * 1000000 ≤ now s sl
      ¬ late) ∧
    (∃ (s : State) (sl : Nat) (l : Nat), Variant s ∧ serving s sl = true ∧ l < 4 ∧ s.pin.shadows = [] ∧ linkUp s sl l = true ∧ (linkOf s
      sl l).retrain = none) ∧
    (∃ (s : State) (sl : Nat) (l : Nat), Variant s ∧ serving s sl = true ∧ l < 4 ∧ s.pin.shadows = [] ∧ (linkUp s sl l = false ∨ (linkOf
      s sl l).retrain ≠ none)) ∧
    (∃ (s : State) (sl : Nat) (l : Nat), Variant s ∧ serving s sl = true ∧ l < 4 ∧ s.pin.shadows = [] ∧
      let x := linkNeigh s.n sl l
      ∃ (t : Nat), linkOf s sl l = { up := true, retrain := some t } ∧ serving s x = true ∧ now s sl < t + 10000) ∧
    (∃ (s : State) (sl : Nat) (l : Nat), Variant s ∧ serving s sl = true ∧ l < 4 ∧ s.pin.shadows = [] ∧
      let x := linkNeigh s.n sl l
      ∃ (t : Nat), linkOf s sl l = { up := true, retrain := some t } ∧ serving s x = true ∧ t + 10000 ≤ now s sl ∧ (∀ b, b ≠ sl →
        serving s b = true → pathOf (linkDead s sl l) sl b 0 ≠ none)) ∧
    (∃ (s : State) (sl : Nat) (l : Nat), Variant s ∧ serving s sl = true ∧ l < 4 ∧ s.pin.shadows = [] ∧
      let x := linkNeigh s.n sl l
      serving s x = true) ∧
    (∃ (s : State) (sl : Nat) (l : Nat), Variant s ∧ serving s sl = true ∧ l < 4 ∧ s.pin.shadows = [] ∧
      let x := linkNeigh s.n sl l
      serving s x = false) ∧
    (∃ (s : State) (sl : Nat) (l : Nat), Variant s ∧ serving s sl = true ∧ l < 4 ∧ s.pin.shadows = [] ∧ sl ≤ 1) :=
  ⟨⟨pk 0 0 false, 0, 3, _, got (by decide +kernel), by decide +kernel, by decide +kernel, (by decide +kernel),
     by dsimp only; decide +kernel⟩,
   ⟨sw 2, 0, 0, variant_of (by decide +kernel), by decide +kernel, by decide +kernel, (by decide +kernel), by decide +kernel,
     by decide +kernel⟩,
   ⟨rt 4 0 990000, 0, 0, variant_of (by decide +kernel), by decide +kernel, by decide +kernel, (by decide +kernel), by decide +kernel⟩,
   ⟨at_ (rt 4 0 5) 10004, 0, 0, variant_of (by decide +kernel), by decide +kernel, by decide +kernel, (by decide +kernel), 5,
     by decide +kernel, by decide +kernel, by decide +kernel⟩,
   ⟨rt 8 3 5, 0, 3, variant_of (by decide +kernel), by decide +kernel, by decide +kernel, (by decide +kernel), 5, by decide +kernel,
     by decide +kernel, (by decide +kernel), allServing (by decide +kernel)⟩,
   ⟨sw 2, 0, 0, variant_of (by decide +kernel), by decide +kernel, by decide +kernel, (by decide +kernel), by dsimp only; decide +kernel⟩,
   ⟨{ sw 2 with lost := [(1, 0)] }, 0, 0, variant_of (by decide +kernel), by decide +kernel, by decide +kernel, (by decide +kernel),
     by dsimp only; decide +kernel⟩,
   ⟨sw 2, 0, 0, variant_of (by decide +kernel), by decide +kernel, by decide +kernel, (by decide +kernel), by decide +kernel⟩⟩

/-- Each hypothesis of GatesLinksAndBarrier (its clauses 17 to 24) is met. -/
theorem witness_GatesLinksAndBarrier_3 :
    (∃ (s : State) (sl : Nat), serving s sl = true ∧ 1 < sl) ∧
    (∃ (s : State) (sl : Nat), serving s sl = true ∧ ∃ (id : Nat), ∃ m, tabGet s.mcast id = some m ∧ m.slate = sl ∧ m.left = 0) ∧
    (∃ (s : State) (sl : Nat), serving s sl = true ∧ ∃ (id : Nat), ∃ m, tabGet s.mcast id = some m ∧ (m.slate ≠ sl ∨ m.left ≠ 0)) ∧
    (∃ (s : State) (sl : Nat), serving s sl = true ∧ ∃ (id : Nat), ∃ f, tabGet s.frames id = some f ∧ f.slate = sl ∧ f.waiting = true ∧
      f.stalled = false ∧ (olderFrames s f.home f.cls f.dst f.tver = true ∨ flowAhead s id f.home f.key f.path = true)) ∧
    (∃ (s : State) (sl : Nat), serving s sl = true ∧ ∃ (id : Nat), ∃ f, tabGet s.frames id = some f ∧ f.slate = sl ∧ f.waiting = true ∧
      f.stalled = false ∧ olderFrames s f.home f.cls f.dst f.tver = false ∧ flowAhead s id f.home f.key f.path = false ∧ (∀ o ∈ f.outs,
      o.1 ≠ 0) ∧ f.outs ≠ []) ∧
    (∃ (s : State) (sl : Nat), serving s sl = true ∧ ∃ v, legal s sl 0x04 2 (withF v F.SWITCH.SWB 1) = true) ∧
    (∃ (s : State) (sl : Nat), serving s sl = true ∧ ∃ b, tabGet s.barrier sl = some b ∧ barrierHeld s sl b = true) ∧
    (∃ (s : State) (sl : Nat), serving s sl = true ∧ ∃ b, tabGet s.barrier sl = some b ∧ barrierHeld s sl b = false) :=
  ⟨⟨rt 4 0 990000, 3, by decide +kernel, by decide +kernel⟩,
   ⟨mc, 0, by decide +kernel, 4, _, got (by decide +kernel), by decide +kernel, by decide +kernel⟩,
   ⟨mc, 0, by decide +kernel, 5, _, got (by decide +kernel), by decide +kernel⟩,
   ⟨lw 5, 0, by decide +kernel, 5, _, got (by decide +kernel), by decide +kernel, by decide +kernel, (by decide +kernel),
     by decide +kernel⟩,
   ⟨lw 6, 0, by decide +kernel, 5, _, got (by decide +kernel), by decide +kernel, by decide +kernel, (by decide +kernel),
     by decide +kernel, by decide +kernel, (by decide +kernel), by decide +kernel⟩,
   ⟨sw 2, 0, by decide +kernel, 1, by decide +kernel⟩,
   ⟨sb 6 5, 0, by decide +kernel, _, got (by decide +kernel), by decide +kernel⟩,
   ⟨sb 6 6, 0, by decide +kernel, _, got (by decide +kernel), by decide +kernel⟩⟩

end GatesLinksAndBarrier

namespace CourseLife

def strips (d : Bool) : Tab Strip := (List.range 10).map fun k => (k, { member := k, slot := 5, issued := true, done := d || k != 2, zeroes := k == 3 })

def gr (i : Nat) : Grain := { kind := .host, volume := 3, lba := i, data := [BitVec.ofNat 8 i, 7], job := none, dead := false, seqs := [] }

def crs (st : CourseState) (d : Bool) : Course := { kind := .data, slate := 0, st := st, t0 := 0, window := 700, grains := (List.range 3).map gr, recSeq := some 4, swept := false, strips := strips d, comSeq := none, ucn := none, live := 1, holdJobs := [], stalled := false, reclaim := false, spareSeq := [], sealTb := 0, lostPos := [], rebuilding := false, moved := false }

def sp : State := at_ (pool 2) 700

def cs (c : Course) (s : State := sp) : State := { s with courses := [(1, c)], lastOrd := 1 }

def ow (q tr : Nat) (rs : List Rec) (s : State) : State := { s with owners := [(0, { seq := q, trim := tr, holders := [1, 2, 3], recs := rs, waiting := [] })] }

def rc (q : Nat) (b : RecBody) (cf : Bool) (acks : List Nat := [1]) : Rec := { seq := q, body := b, grp := false, need := [1, 2, 3], acks := acks, due := [(2, 10100), (3, 10100), (4, 10100), (5, 20099)], confirmed := cf, packed := false, trimmed := false }

def ld (s : State) : State := { s with leads := [(0, { slate := 0, ordinal := none, handover := true, waiting := [] })] }

def busy (n0 n1 : Nat) : State := { sp with courses := (1, crs .sealed true) :: (List.range (n0 + n1)).map fun i => (i + 2, { crs .opened true with slate := if i < n0 then 0 else 1 }), lastOrd := 100 }

/-- Each hypothesis of CourseLife (its clauses 1 to 6) is met. -/
theorem witness_CourseLife_1 :
    (∃ (s : State) (l : Layout), s.layout = some l ∧ ∃ (k : Nat) (c : Course), courseOf s k = some c ∧ serving s 0 = true ∧ (l.zoned =
      true → 0 < l.runBands) ∧
      let due : Prop := c.st = .opened ∧ c.t0 + c.window ≤ now s c.slate
      ¬ due) ∧
    (∃ (s : State) (l : Layout), s.layout = some l ∧ ∃ (k : Nat) (c : Course), courseOf s k = some c ∧ serving s 0 = true ∧ (l.zoned =
      true → 0 < l.runBands) ∧
      let due : Prop := c.st = .opened ∧ c.t0 + c.window ≤ now s c.slate
      due) ∧
    (∃ (s : State) (l : Layout), s.layout = some l ∧ ∃ (k : Nat) (c : Course), courseOf s k = some c ∧ serving s 0 = true ∧ (l.zoned =
      true → 0 < l.runBands) ∧
      let after (i x : Nat) : Nat := ((leadOf s i).slate + 1 + x) % s.n
      ∃ (i : Nat), i < 3 ∧ (leadOf s i).handover = true ∧ (leadOf s i).waiting = [] ∧ (∀ x < s.n, hasRoom s l (after i x) = false)) ∧
    (∃ (s : State) (l : Layout), s.layout = some l ∧ ∃ (k : Nat) (c : Course), courseOf s k = some c ∧ serving s 0 = true ∧ (l.zoned =
      true → 0 < l.runBands) ∧
      let after (i x : Nat) : Nat := ((leadOf s i).slate + 1 + x) % s.n
      ∃ (i : Nat) (sl : Nat), i < 3 ∧ (leadOf s i).handover = true ∧ (leadOf s i).waiting = [] ∧ ∃ x < s.n, after i x = sl ∧ hasRoom s l
        sl = true ∧ (∀ y < x, hasRoom s l (after i y) = false)) ∧
    (∃ (s : State) (l : Layout), s.layout = some l ∧ ∃ (k : Nat) (c : Course), courseOf s k = some c ∧ serving s 0 = true ∧ (l.zoned =
      true → 0 < l.runBands) ∧ ∃ (q : Nat), c.recSeq = some q ∧ c.st = .sealed ∧ recConfirmed s c.slate q = false) ∧
    (∃ (s : State) (l : Layout), s.layout = some l ∧ ∃ (k : Nat) (c : Course), courseOf s k = some c ∧ serving s 0 = true ∧ (l.zoned =
      true → 0 < l.runBands) ∧ ∃ (q : Nat), c.recSeq = some q ∧ c.st = .sealed ∧ recConfirmed s c.slate q = true ∧ isF s 0 F.FPIN.C4 =
      false ∧ ownerShort s c.slate = false ∧ sharePours s c = true ∧ (∀ p ∈ c.strips, inService s p.2.member = true ∧ hasPath s
      p.2.member = true)) :=
  ⟨⟨cs { crs .opened true with recSeq := none, t0 := 1 }, _, got (by decide +kernel), 1, _, got (by decide +kernel), by decide +kernel,
     by decide +kernel, by dsimp only; decide +kernel⟩,
   ⟨cs { crs .opened true with recSeq := none }, _, got (by decide +kernel), 1, _, got (by decide +kernel), by decide +kernel,
     by decide +kernel, by dsimp only; decide +kernel⟩,
   ⟨ld (busy 37 38), _, got (by decide +kernel), 1, _, got (by decide +kernel), by decide +kernel, by decide +kernel, 0,
     by decide +kernel, by decide +kernel, (by decide +kernel), by decide +kernel⟩,
   ⟨ld (cs (crs .retired true)), _, got (by decide +kernel), 1, _, got (by decide +kernel), by decide +kernel, by decide +kernel, 0, 1,
     by decide +kernel, by decide +kernel, (by decide +kernel), 0, by decide +kernel, by decide +kernel, (by decide +kernel),
     by decide +kernel⟩,
   ⟨ld (busy 37 3), _, got (by decide +kernel), 1, _, got (by decide +kernel), by decide +kernel, by decide +kernel, _,
     got (by decide +kernel), by decide +kernel, by decide +kernel⟩,
   ⟨ow 5 4 [rc 4 (.course 1 .data [] 0) true] (cs (crs .sealed true)), _, got (by decide +kernel), 1, _, got (by decide +kernel),
     by decide +kernel, by decide +kernel, _, got (by decide +kernel), by decide +kernel, by decide +kernel, (by decide +kernel),
     by decide +kernel, by decide +kernel, by decide +kernel⟩⟩

/-- Each hypothesis of CourseLife (its clauses 7 to 12) is met. -/
theorem witness_CourseLife_2 :
    (∃ (s : State) (l : Layout), s.layout = some l ∧ ∃ (k : Nat) (c : Course), courseOf s k = some c ∧ serving s 0 = true ∧ (l.zoned =
      true → 0 < l.runBands) ∧ ∃ (pos : Nat), ∃ t, tabGet c.strips pos = some t ∧ (c.st ≠ .pouring ∨ t.done = true ∨ t.issued = false)) ∧
    (∃ (s : State) (l : Layout), s.layout = some l ∧ ∃ (k : Nat) (c : Course), courseOf s k = some c ∧ serving s 0 = true ∧ (l.zoned =
      true → 0 < l.runBands) ∧ ∃ (pos : Nat), ∃ t, tabGet c.strips pos = some t ∧ c.st = .pouring ∧ t.done = false ∧ t.issued = true ∧
      (memberOf s t.member).mstate = 2) ∧
    (∃ (s : State) (l : Layout), s.layout = some l ∧ ∃ (k : Nat) (c : Course), courseOf s k = some c ∧ serving s 0 = true ∧ (l.zoned =
      true → 0 < l.runBands) ∧ durableDue s c = false) ∧
    (∃ (s : State) (l : Layout), s.layout = some l ∧ ∃ (k : Nat) (c : Course), courseOf s k = some c ∧ serving s 0 = true ∧ (l.zoned =
      true → 0 < l.runBands) ∧ durableDue s c = true ∧ (∀ p ∈ s.owners, p.2.recs.length < 64 ∧ ∀ r ∈ p.2.recs, r.confirmed = true →
      recUcn r.body ≤ c.ucn.getD s.ucnDone)) ∧
    (∃ (s : State) (l : Layout), s.layout = some l ∧ ∃ (k : Nat) (c : Course), courseOf s k = some c ∧ serving s 0 = true ∧ (l.zoned =
      true → 0 < l.runBands) ∧
      let free : Prop := c.st = .retired ∧ inRebuild s k c = false ∧ ∀ j ∈ c.holdJobs, jobOf s j = none
      ¬ free) ∧
    (∃ (s : State) (l : Layout), s.layout = some l ∧ ∃ (k : Nat) (c : Course), courseOf s k = some c ∧ serving s 0 = true ∧ (l.zoned =
      true → 0 < l.runBands) ∧
      let free : Prop := c.st = .retired ∧ inRebuild s k c = false ∧ ∀ j ∈ c.holdJobs, jobOf s j = none
      free ∧ s.repourWait = []) :=
  ⟨⟨cs { crs .opened true with recSeq := none }, _, got (by decide +kernel), 1, _, got (by decide +kernel), by decide +kernel,
     by decide +kernel, 0, _, got (by decide +kernel), by decide +kernel⟩,
   ⟨cs (crs .pouring false), _, got (by decide +kernel), 1, _, got (by decide +kernel), by decide +kernel, by decide +kernel, 2, _,
     got (by decide +kernel), by decide +kernel, by decide +kernel, (by decide +kernel), by decide +kernel⟩,
   ⟨cs { crs .opened true with recSeq := none }, _, got (by decide +kernel), 1, _, got (by decide +kernel), by decide +kernel,
     by decide +kernel, by decide +kernel⟩,
   ⟨ow 5 4 [rc 4 (.course 1 .data [] 0) true, rc 5 (.commit 1 2 2 1 0) true] (cs { crs .pouring true with comSeq := some 5, ucn := some 1 }),
     _, got (by decide +kernel), 1, _, got (by decide +kernel), by decide +kernel, by decide +kernel, (by decide +kernel),
     by decide +kernel⟩,
   ⟨cs { crs .opened true with recSeq := none }, _, got (by decide +kernel), 1, _, got (by decide +kernel), by decide +kernel,
     by decide +kernel, by dsimp only; decide +kernel⟩,
   ⟨ld (cs (crs .retired true)), _, got (by decide +kernel), 1, _, got (by decide +kernel), by decide +kernel, by decide +kernel,
     (by decide +kernel), by decide +kernel⟩⟩

end CourseLife

namespace JournalCommands

def sp : State := at_ (pool 2) 700

def ow (q tr : Nat) (rs : List Rec) (s : State) : State := { s with owners := [(0, { seq := q, trim := tr, holders := [1, 2, 3], recs := rs, waiting := [] })] }

def rc (q : Nat) (b : RecBody) (cf : Bool) (acks : List Nat := [1]) : Rec := { seq := q, body := b, grp := false, need := [1, 2, 3], acks := acks, due := [(2, 10100), (3, 10100), (4, 10100), (5, 20099)], confirmed := cf, packed := false, trimmed := false }

def dcp (s : State) : State := { s with durable := { s.durable with chain := 5, pos := some 2 } }

def ack3 (s : State) : State := ow 5 4 [rc 4 (.mapx []) false [1, 2], rc 5 (.mapx []) false [1]] s

def hl (hs : List Nat) (s : State) : State := { s with owners := [(0, { seq := 5, trim := 4, holders := hs, recs := [{ rc 4 (.mapx []) false [1] with need := hs }], waiting := [] })] }

def wt (tr n : Nat) : State := { sp with owners := [(0, { seq := 32767 + 5, trim := tr, holders := [1, 2, 3], recs := [], waiting := (List.range n).map fun i => { body := .mapx [{ lba := i, volume := 3, grain := 0, count := 1 }], grp := i == 0, draws := true } })] }

def lf (pend old : Nat) (s : State) : State := { s with leaves := [(3 * 2 ^ 60 + 1, { cached := true, pending := List.replicate pend 5, writing := none, flushed := 0, oldest := old, ptr := 9 })] }

def stb (s : State) : State := { s with lease := { s.lease with role := 1, up := true, pRole := 2, resynced := false, needExcl := [1] } }

/-- Each hypothesis of JournalCommands (its clauses 1 to 6) is met. -/
theorem witness_JournalCommands_1 :
    (∃ (s : State) (o : Nat) (p : Nat) (q : Nat) (r : Rec), (ownerOf s o).recs.find? (fun x => x.seq == q) = some r ∧ serving s o = true
      ∧
      let taken : Prop := isF s 0 F.FPIN.C4 = false ∧ p ∈ r.need ∧ p ∉ r.acks ∧ holderOpen s o p = true ∧ ∀ x ∈ (ownerOf s o).recs,
        x.seq < q → x.confirmed = false → p ∈ x.need → p ∈ x.acks
      ¬ taken) ∧
    (∃ (s : State) (o : Nat) (p : Nat) (q : Nat) (r : Rec), (ownerOf s o).recs.find? (fun x => x.seq == q) = some r ∧ serving s o = true
      ∧
      let taken : Prop := isF s 0 F.FPIN.C4 = false ∧ p ∈ r.need ∧ p ∉ r.acks ∧ holderOpen s o p = true ∧ ∀ x ∈ (ownerOf s o).recs,
        x.seq < q → x.confirmed = false → p ∈ x.need → p ∈ x.acks
      let last : Prop := r.need.length = 3 ∧ ∀ x ∈ r.need, x = p ∨ x ∈ r.acks
      taken ∧ ¬ last) ∧
    (∃ (s : State) (o : Nat) (p : Nat) (q : Nat) (r : Rec), (ownerOf s o).recs.find? (fun x => x.seq == q) = some r ∧ serving s o = true
      ∧
      let taken : Prop := isF s 0 F.FPIN.C4 = false ∧ p ∈ r.need ∧ p ∉ r.acks ∧ holderOpen s o p = true ∧ ∀ x ∈ (ownerOf s o).recs,
        x.seq < q → x.confirmed = false → p ∈ x.need → p ∈ x.acks
      let last : Prop := r.need.length = 3 ∧ ∀ x ∈ r.need, x = p ∨ x ∈ r.acks
      taken ∧ last ∧ s.courses = [] ∧ (∃ es, r.body = .mapx es) ∧ s.durable.chain = s.chain.chain ∧ s.durable.pos = s.chain.pos ∧ (∀ w ∈
        s.owners, ∀ x ∈ w.2.recs, x.confirmed = false ∧ x.seq ≤ w.2.seq) ∧ (∀ w ∈ s.owners, (w.2.recs.map (·.seq)).Pairwise (· < ·))) ∧
    (∃ (s : State) (o : Nat) (p : Nat), serving s o = true ∧
      let late : Prop := p ≠ 1 ∧ p ∈ (ownerOf s o).holders ∧ ∃ r ∈ (ownerOf s o).recs, r.confirmed = false ∧ p ∈ r.need ∧ p ∉ r.acks ∧ ∃
        t, tabGet r.due p = some t ∧ t ≤ now s o
      ¬ late) ∧
    (∃ (s : State) (o : Nat) (p : Nat), serving s o = true ∧
      let late : Prop := p ≠ 1 ∧ p ∈ (ownerOf s o).holders ∧ ∃ r ∈ (ownerOf s o).recs, r.confirmed = false ∧ p ∈ r.need ∧ p ∉ r.acks ∧ ∃
        t, tabGet r.due p = some t ∧ t ≤ now s o
      late ∧ p = 3 ∧ s.pin.shadows = [] ∧ s.lease.needExcl = []) ∧
    (∃ (s : State) (o : Nat) (p : Nat), serving s o = true ∧
      let late : Prop := p ≠ 1 ∧ p ∈ (ownerOf s o).holders ∧ ∃ r ∈ (ownerOf s o).recs, r.confirmed = false ∧ p ∈ r.need ∧ p ∉ r.acks ∧ ∃
        t, tabGet r.due p = some t ∧ t ≤ now s o
      late ∧ p ≠ 3 ∧ s.pin.shadows = []) :=
  ⟨⟨ack3 sp, 0, 0, 4, _, got (by decide +kernel), by decide +kernel, by dsimp only; decide +kernel⟩,
   ⟨ack3 sp, 0, 2, 5, _, got (by decide +kernel), by decide +kernel, by decide +kernel, by decide +kernel⟩,
   ⟨dcp (ack3 sp), 0, 3, 4, _, got (by decide +kernel), by decide +kernel, by decide +kernel, (by decide +kernel), by decide +kernel,
     ⟨[], rfl⟩, by decide +kernel, by decide +kernel, (by decide +kernel), by decide +kernel⟩,
   ⟨ack3 sp, 0, 0, by decide +kernel, by dsimp only; decide +kernel⟩,
   ⟨at_ (hl [1, 2, 3] sp) 100100, 0, 3, by decide +kernel, by decide +kernel, (by decide +kernel), by decide +kernel, by decide +kernel⟩,
   ⟨at_ (hl [1, 2, 3] sp) 100100, 0, 2, by decide +kernel, by decide +kernel, (by decide +kernel), by decide +kernel⟩⟩

/-- Each hypothesis of JournalCommands (its clauses 7 to 12) is met. -/
theorem witness_JournalCommands_2 :
    (∃ (s : State) (o : Nat), serving s o = true ∧ ((ownerOf s o).waiting = [] ∨ lineBusy (ownerOf s o) = true)) ∧
    (∃ (s : State) (o : Nat), serving s o = true ∧ ∃ (x : RecReq), (ownerOf s o).waiting = [x] ∧ lineBusy (ownerOf s o) = false) ∧
    (∃ (s : State) (v : Nat) (f : Nat), serving s 0 = true ∧ f < 2 ^ 55 ∧ (∀ j ≤ rootLevel (mapSize s v), nodeDue s v j (f / 512 ^ j) =
      false)) ∧
    (∃ (s : State) (v : Nat) (f : Nat), serving s 0 = true ∧ f < 2 ^ 55 ∧
      let x := leafOf s v f
      let h := actsFor s (nodeHome s.n v f)
      let due : Prop := newUpdates x ≠ [] ∧ (getF s h F.JOURNAL.LEAF_BATCH ≤ (newUpdates x).length ∨ x.oldest + getF s h
        F.JOURNAL.LEAF_AGE * 1000000 ≤ now s h ∨ flogDue s (leafKey v f) = true)
      due) ∧
    (∃ (s : State), serving s 0 = true ∧
      let due : Prop := s.lease.role = 1 ∧ s.lease.up = true ∧ s.lease.pRole = 2 ∧ s.lease.resynced = false
      ¬ due) ∧
    (∃ (s : State), serving s 0 = true ∧
      let due : Prop := s.lease.role = 1 ∧ s.lease.up = true ∧ s.lease.pRole = 2 ∧ s.lease.resynced = false
      due ∧ s.pin.shadows = []) :=
  ⟨⟨ack3 sp, 0, by decide +kernel, by decide +kernel⟩,
   ⟨wt 6 1, 0, by decide +kernel, { body := .mapx [{ lba := 0, volume := 3, grain := 0, count := 1 }], grp := true, draws := true },
     by decide +kernel, by decide +kernel⟩,
   ⟨ack3 sp, 0, 0, by decide +kernel, by decide +kernel, by decide +kernel⟩,
   ⟨at_ (lf 3 0 sp) 2000000000, 3, 1, by decide +kernel, by decide +kernel, by dsimp only; decide +kernel⟩,
   ⟨ack3 sp, by decide +kernel, by dsimp only; decide +kernel⟩,
   ⟨stb sp, by decide +kernel, by decide +kernel, by decide +kernel⟩⟩

end JournalCommands

namespace MemberLoss

def cm (u : DrvUse) (ab : Option Nat) : DrvCmd := { opcode := 2, admin := false, fua := false, queue := some 1, sqe := List.replicate 64 0, lba := 5 * 32, use := u, tb := 100, timeout := 500, grace := 50, readyMx := 60, aborted := ab }

def tk (b : Option Handle) : Ticket := { crd := false, member := 3, opcode := 2, buf := b, first := 0, count := 1, result := none }

def jT : Job := { jobA with tickets := [(1, tk none)] }

def sM (t : Nat) (x : Member) : State := withMember (at_ (withJob (pool 2) jT) t) 3 x

/-- Each hypothesis of MemberLoss (its clauses 1 to 6) is met. -/
theorem witness_MemberLoss_1 :
    (∃ (s : State) (m : Nat), memberSlate m < s.n ∧ serving s 0 = true ∧ hasPath s m = true ∧ s.pin.shadows = [] ∧
      let x := memberOf s m
      x.link = false) ∧
    (∃ (s : State) (m : Nat), memberSlate m < s.n ∧ serving s 0 = true ∧ hasPath s m = true ∧ s.pin.shadows = [] ∧
      let x := memberOf s m
      let quiet : Prop := x.mstate = 2 ∧ x.cmds = []
      x.link = true ∧ quiet) ∧
    (∃ (s : State) (m : Nat), memberSlate m < s.n ∧ serving s 0 = true ∧ hasPath s m = true ∧ s.pin.shadows = [] ∧
      let x := memberOf s m
      ∃ (cfs : Bool), (cfs = false ∨ x.link = false ∨ x.mstate ≠ 2)) ∧
    (∃ (s : State) (m : Nat), memberSlate m < s.n ∧ serving s 0 = true ∧ hasPath s m = true ∧ s.pin.shadows = [] ∧
      let x := memberOf s m
      let sl := portSlate s m
      ∃ (i : Nat), ∃ c, tabGet x.cmds i = some c ∧
      let late : Prop := c.use ≠ .sanitize ∧ c.aborted = none ∧ c.queue ≠ none ∧ c.tb + c.timeout ≤ now s sl
      ¬ late) ∧
    (∃ (s : State) (m : Nat), memberSlate m < s.n ∧ serving s 0 = true ∧ hasPath s m = true ∧ s.pin.shadows = [] ∧
      let x := memberOf s m
      let sl := portSlate s m
      ∃ (i : Nat), ∃ c, tabGet x.cmds i = some c ∧
      let late : Prop := c.use ≠ .sanitize ∧ c.aborted = none ∧ c.queue ≠ none ∧ c.tb + c.timeout ≤ now s sl
      late ∧ i ≠ s.nextCmd) ∧
    (∃ (s : State) (m : Nat), memberSlate m < s.n ∧ serving s 0 = true ∧ hasPath s m = true ∧ s.pin.shadows = [] ∧
      let x := memberOf s m
      ∃ (i : Nat), ∃ c, tabGet x.cmds i = some c ∧ ∃ (t : Nat), c.aborted = some t ∧ x.resetAt = none) :=
  ⟨⟨sM 700 ({ memb with link := false }), 3, by decide +kernel, by decide +kernel, (by decide +kernel), by decide +kernel,
     by dsimp only; decide +kernel⟩,
   ⟨sM 700 memb, 3, by decide +kernel, by decide +kernel, (by decide +kernel), by decide +kernel, by decide +kernel, by decide +kernel⟩,
   ⟨sM 700 memb, 3, by decide +kernel, by decide +kernel, (by decide +kernel), by decide +kernel, false, by decide +kernel⟩,
   ⟨sM 700 ({ memb with cmds := [(7, cm (.ticket 9 1) (some 620))] }), 3, by decide +kernel, by decide +kernel, (by decide +kernel),
     by decide +kernel, 7, _, got (by decide +kernel), by dsimp only; decide +kernel⟩,
   ⟨sM 700 ({ memb with cmds := [(7, cm (.ticket 9 1) none)] }), 3, by decide +kernel, by decide +kernel, (by decide +kernel),
     by decide +kernel, 7, _, got (by decide +kernel), by decide +kernel, by decide +kernel⟩,
   ⟨sM 700 ({ memb with cmds := [(7, cm (.ticket 9 1) (some 620))] }), 3, by decide +kernel, by decide +kernel, (by decide +kernel),
     by decide +kernel, 7, _, got (by decide +kernel), _, got (by decide +kernel), by decide +kernel⟩⟩

/-- Each hypothesis of MemberLoss (its clauses 7 to 12) is met. -/
theorem witness_MemberLoss_2 :
    (∃ (s : State) (m : Nat), memberSlate m < s.n ∧ serving s 0 = true ∧ hasPath s m = true ∧ s.pin.shadows = [] ∧
      let x := memberOf s m
      ∃ (i : Nat), ∃ c, tabGet x.cmds i = some c ∧ (c.aborted = none ∨ x.resetAt ≠ none)) ∧
    (∃ (s : State) (m : Nat), memberSlate m < s.n ∧ serving s 0 = true ∧ hasPath s m = true ∧ s.pin.shadows = [] ∧
      let x := memberOf s m
      let sl := portSlate s m
      ∃ (t : Nat), x.resetAt = some t ∧ now s sl < t + readyLimit s m) ∧
    (∃ (s : State) (m : Nat), memberSlate m < s.n ∧ serving s 0 = true ∧ hasPath s m = true ∧ s.pin.shadows = [] ∧
      let x := memberOf s m
      let sl := portSlate s m
      let quiet : Prop := x.mstate = 2 ∧ x.cmds = []
      ∃ (t : Nat), x.resetAt = some t ∧ t + readyLimit s m ≤ now s sl ∧ quiet) ∧
    (∃ (s : State) (m : Nat), memberSlate m < s.n ∧ serving s 0 = true ∧ hasPath s m = true ∧ s.pin.shadows = [] ∧
      let x := memberOf s m
      x.resetAt = none) ∧
    (∃ (s : State) (m : Nat), memberSlate m < s.n ∧ serving s 0 = true ∧ hasPath s m = true ∧ s.pin.shadows = [] ∧
      let x := memberOf s m
      x.resetAt ≠ none ∧ x.cmds = []) ∧
    (∃ (s : State) (m : Nat), memberSlate m < s.n ∧ serving s 0 = true ∧ hasPath s m = true ∧ s.pin.shadows = [] ∧
      let x := memberOf s m
      ∃ (i : Nat) (c : DrvCmd) (job : Nat) (t : Nat), x.resetAt ≠ none ∧ x.cmds = [(i, c)] ∧ c.use = .ticket job t) :=
  ⟨⟨sM 700 ({ memb with cmds := [(7, cm (.ticket 9 1) none)] }), 3, by decide +kernel, by decide +kernel, (by decide +kernel),
     by decide +kernel, 7, _, got (by decide +kernel), by decide +kernel⟩,
   ⟨sM 700 ({ memb with resetAt := some 700 }), 3, by decide +kernel, by decide +kernel, (by decide +kernel), by decide +kernel, _,
     got (by decide +kernel), by decide +kernel⟩,
   ⟨F1 (sM 700 { memb with resetAt := some 700 }) 0 F.DRIVE.READY_MAX 0, 3, by decide +kernel, by decide +kernel, (by decide +kernel),
     by decide +kernel, _, got (by decide +kernel), by decide +kernel, by decide +kernel⟩,
   ⟨sM 700 memb, 3, by decide +kernel, by decide +kernel, (by decide +kernel), by decide +kernel, by dsimp only; decide +kernel⟩,
   ⟨sM 700 ({ memb with resetAt := some 700 }), 3, by decide +kernel, by decide +kernel, (by decide +kernel), by decide +kernel,
     by decide +kernel, by decide +kernel⟩,
   ⟨sM 700 ({ memb with resetAt := some 600, cmds := [(7, cm (.ticket 9 1) (some 660))] }), 3, by decide +kernel, by decide +kernel,
     (by decide +kernel), by decide +kernel, 7, cm (.ticket 9 1) (some 660), 9, 1, by decide +kernel, by decide +kernel,
     by decide +kernel⟩⟩

/-- Each hypothesis of MemberLoss (its clauses 13 to 17) is met. -/
theorem witness_MemberLoss_3 :
    (∃ (s : State) (m : Nat), memberSlate m < s.n ∧ serving s 0 = true ∧ hasPath s m = true ∧ s.pin.shadows = [] ∧
      let x := memberOf s m
      ∃ (i : Nat), tabGet x.cmds i = none) ∧
    (∃ (s : State) (m : Nat), memberSlate m < s.n ∧ serving s 0 = true ∧ hasPath s m = true ∧ s.pin.shadows = [] ∧
      let x := memberOf s m
      ∃ (i : Nat), ∃ c, tabGet x.cmds i = some c ∧ c.queue = none) ∧
    (∃ (s : State) (m : Nat), memberSlate m < s.n ∧ serving s 0 = true ∧ hasPath s m = true ∧ s.pin.shadows = [] ∧
      let x := memberOf s m
      ∃ (i : Nat), ∃ c, tabGet x.cmds i = some c ∧ ∃ (job : Nat) (t : Nat), ∃ j, jobOf s job = some j ∧ ∃ k, tabGet j.tickets t = some k
        ∧ ∃ (r : NvmeResult), c.queue ≠ none ∧ c.use = .ticket job t ∧ (∀ b ∈ r.data, b ≠ none)) ∧
    (∃ (s : State) (m : Nat), memberSlate m < s.n ∧ serving s 0 = true ∧ hasPath s m = true ∧ s.pin.shadows = [] ∧
      let x := memberOf s m
      x.present = false) ∧
    (∃ (s : State) (m : Nat), memberSlate m < s.n ∧ serving s 0 = true ∧ hasPath s m = true ∧ s.pin.shadows = [] ∧
      let x := memberOf s m
      let quiet : Prop := x.mstate = 2 ∧ x.cmds = []
      x.present = true ∧ quiet) :=
  ⟨⟨sM 700 memb, 3, by decide +kernel, by decide +kernel, (by decide +kernel), by decide +kernel, 3, by decide +kernel⟩,
   ⟨sM 700 ({ memb with cmds := [(7, { cm (.ticket 9 1) none with queue := none })] }), 3, by decide +kernel, by decide +kernel,
     (by decide +kernel), by decide +kernel, 7, _, got (by decide +kernel), by decide +kernel⟩,
   ⟨sM 700 ({ memb with cmds := [(7, cm (.ticket 9 1) none)] }), 3, by decide +kernel, by decide +kernel, (by decide +kernel),
     by decide +kernel, 7, _, got (by decide +kernel), 9, 1, _, got (by decide +kernel), _, got (by decide +kernel),
     { statusField := 0, dw0 := 5, data := [some [1]] }, by decide +kernel, by decide +kernel, by decide +kernel⟩,
   ⟨sM 700 State.noMember, 3, by decide +kernel, by decide +kernel, (by decide +kernel), by decide +kernel, by dsimp only; decide +kernel⟩,
   ⟨sM 700 memb, 3, by decide +kernel, by decide +kernel, (by decide +kernel), by decide +kernel, by decide +kernel, by decide +kernel⟩⟩

end MemberLoss

namespace MemberPool

def tk (b : Option Handle) : Ticket := { crd := false, member := 3, opcode := 2, buf := b, first := 0, count := 1, result := none }

def jT : Job := { jobA with tickets := [(1, tk none)] }

def sM (t : Nat) (x : Member) : State := withMember (at_ (withJob (pool 2) jT) t) 3 x

def ho (s : State) : State := F1 s 0 (F.DRIVE.HOLD_OUT 3) 1

def rb (s : State) : State := F1 s 0 F.STRIPE.RB_EN 1

def cr : Course := { kind := .data, slate := 0, st := .durable, t0 := 0, window := 0, grains := [], recSeq := none, swept := false, strips := [], comSeq := none, ucn := none, live := 1, holdJobs := [], stalled := false, reclaim := false, spareSeq := [], sealTb := 0, lostPos := [], rebuilding := false, moved := false }

def spe : Nat × SpareEntry := (2 * 2 ^ 40 + 5, { member := 7, slot := 9, valid := true, stale := false })

def cbs (sp : Tab SpareEntry) (b : Option Nat) : State := rb { sM 700 { memb with recorded := .failed (some 2), recConf := true } with spare := sp, copyBack := [(3, { index := 2, busy := b, done := 0 })], media := [((7 * 2 ^ 40 + 9) * 32 + 4, [1, 2])] }

def rd20 : GrainRead := { slate := 0, ordinal := 20480, want := (List.range 32).map (32 * 6 + ·), got := (List.range 32).map (32 * 6 + ·), bad := [], left := 0, use := .copyBack 3 5 }

def qm (k : Nat) (s : State) : State := { F1 s 0 F.STRIPE.QUORUM_WAIT 100 with recovery := 2, quorum := false, drvTrain := some 600000000, members := (List.range 12).map fun m => (m, if m < k then { memb with mstate := 1 } else memb) }

/-- Each hypothesis of MemberPool (its clauses 1 to 7) is met. -/
theorem witness_MemberPool_1 :
    (∃ (s : State) (m : Nat), memberSlate m < s.n ∧ serving s 0 = true ∧ serving s (memberSlate m) = true ∧ actsFor s (memberSlate m) =
      memberSlate m ∧ s.pin.shadows = [] ∧
      let x := memberOf s m
      (x.perst = true ∨ x.link = true)) ∧
    (∃ (s : State) (m : Nat), memberSlate m < s.n ∧ serving s 0 = true ∧ serving s (memberSlate m) = true ∧ actsFor s (memberSlate m) =
      memberSlate m ∧ s.pin.shadows = [] ∧
      let x := memberOf s m
      x.perst = false ∧ x.link = false) ∧
    (∃ (s : State) (m : Nat), memberSlate m < s.n ∧ serving s 0 = true ∧ serving s (memberSlate m) = true ∧ actsFor s (memberSlate m) =
      memberSlate m ∧ s.pin.shadows = [] ∧
      let x := memberOf s m
      let sl := memberSlate m
      ∃ (v : Word), fv v (F.DRIVE.HOLD_OUT (m % 6)) = 1 ∧ isF s sl (F.DRIVE.HOLD_OUT (m % 6)) = false ∧ legal s sl 0x0B (0x10 + m % 6) v
        = true ∧ x.cmds = []) ∧
    (∃ (s : State) (m : Nat), memberSlate m < s.n ∧ serving s 0 = true ∧ serving s (memberSlate m) = true ∧ actsFor s (memberSlate m) =
      memberSlate m ∧ s.pin.shadows = [] ∧
      let x := memberOf s m
      let sl := memberSlate m
      ∃ (v : Word), fv v (F.DRIVE.HOLD_OUT (m % 6)) = 0 ∧ isF s sl (F.DRIVE.HOLD_OUT (m % 6)) = true ∧ legal s sl 0x0B (0x10 + m % 6) v
        = true ∧ x.mstate = 4) ∧
    (∃ (s : State) (m : Nat), memberSlate m < s.n ∧ serving s 0 = true ∧ serving s (memberSlate m) = true ∧ actsFor s (memberSlate m) =
      memberSlate m ∧ s.pin.shadows = [] ∧
      let x := memberOf s m
      ∃ l, s.layout = some l ∧ recordedFailed s m = true ∧ x.recConf = true) ∧
    (∃ (s : State) (m : Nat), memberSlate m < s.n ∧ serving s 0 = true ∧ serving s (memberSlate m) = true ∧ actsFor s (memberSlate m) =
      memberSlate m ∧ s.pin.shadows = [] ∧
      let x := memberOf s m
      (recordedFailed s m = false ∨ x.recConf = false)) ∧
    (∃ (s : State) (m : Nat), memberSlate m < s.n ∧ serving s 0 = true ∧ serving s (memberSlate m) = true ∧ actsFor s (memberSlate m) =
      memberSlate m ∧ s.pin.shadows = [] ∧
      let sl := memberSlate m
      ∃ (k : Nat), ∃ l, s.layout = some l ∧ ∃ c, courseOf s k = some c ∧ ∃ y, k % s.n = y ∧ actsFor s y = sl ∧ isF s sl F.STRIPE.RB_EN =
        true ∧ isF s 0 F.FPIN.C4 = false ∧ ∃ z, z ≠ y) :=
  ⟨⟨sM 700 ({ State.noMember with perst := false }), 0, by decide +kernel, by decide +kernel, (by decide +kernel), by decide +kernel,
     by decide +kernel, by dsimp only; decide +kernel⟩,
   ⟨sM 700 ({ State.noMember with perst := false }), 3, by decide +kernel, by decide +kernel, (by decide +kernel), by decide +kernel,
     by decide +kernel, (by decide +kernel), by decide +kernel⟩,
   ⟨sM 700 ({ State.noMember with perst := false }), 3, by decide +kernel, by decide +kernel, (by decide +kernel), by decide +kernel,
     by decide +kernel, 1, by decide +kernel, by decide +kernel, (by decide +kernel), by decide +kernel⟩,
   ⟨ho (sM 700 { memb with mstate := 4 }), 3, by decide +kernel, by decide +kernel, (by decide +kernel), by decide +kernel,
     by decide +kernel, 0, by decide +kernel, by decide +kernel, (by decide +kernel), by decide +kernel⟩,
   ⟨sM 700 ({ State.noMember with perst := false, recorded := .failed none }), 3, by decide +kernel, by decide +kernel,
     (by decide +kernel), by decide +kernel, by decide +kernel, _, got (by decide +kernel), by decide +kernel, by decide +kernel⟩,
   ⟨sM 700 ({ State.noMember with perst := false }), 3, by decide +kernel, by decide +kernel, (by decide +kernel), by decide +kernel,
     by decide +kernel, by dsimp only; decide +kernel⟩,
   ⟨rb { sM 700 { memb with mstate := 3, recorded := .failed (some 2), recConf := true } with courses := [(1, cr), (2, cr), (4, { cr with st := .pouring })] },
     3, by decide +kernel, by decide +kernel, (by decide +kernel), by decide +kernel, by decide +kernel, 2, _, got (by decide +kernel), _,
     got (by decide +kernel), 0, by decide +kernel, by decide +kernel, (by decide +kernel), by decide +kernel, 3, by decide +kernel⟩⟩

/-- Each hypothesis of MemberPool (its clauses 8 to 14) is met. -/
theorem witness_MemberPool_2 :
    (∃ (s : State) (m : Nat), memberSlate m < s.n ∧ serving s 0 = true ∧ serving s (memberSlate m) = true ∧ actsFor s (memberSlate m) =
      memberSlate m ∧ s.pin.shadows = [] ∧
      let sl := memberSlate m
      ∃ (k : Nat), ∃ l, s.layout = some l ∧ ∃ c, courseOf s k = some c ∧ ∃ y, k % s.n = y ∧ actsFor s y = sl ∧ isF s sl F.STRIPE.RB_EN =
        true ∧ isF s 0 F.FPIN.C4 = false ∧
      let q := tabGetD s.rebuildQ y []
      (k ∉ q ∨ spareWriting s k = true)) ∧
    (∃ (s : State) (m : Nat), memberSlate m < s.n ∧ serving s 0 = true ∧ serving s (memberSlate m) = true ∧ actsFor s (memberSlate m) =
      memberSlate m ∧ s.pin.shadows = [] ∧
      let sl := memberSlate m
      ∃ (k : Nat), ∃ l, s.layout = some l ∧ ∃ c, courseOf s k = some c ∧ ∃ y, k % s.n = y ∧ actsFor s y = sl ∧ isF s sl F.STRIPE.RB_EN =
        true ∧ isF s 0 F.FPIN.C4 = false ∧
      let q := tabGetD s.rebuildQ y []
      k ∈ q ∧ spareWriting s k = false ∧ c.spareSeq = [] ∧ missingOf s l k = []) ∧
    (∃ (s : State) (m : Nat), memberSlate m < s.n ∧ serving s 0 = true ∧ serving s (memberSlate m) = true ∧ actsFor s (memberSlate m) =
      memberSlate m ∧ s.pin.shadows = [] ∧
      let sl := memberSlate m
      ∃ (k : Nat), ∃ l, s.layout = some l ∧ ∃ c, courseOf s k = some c ∧ ∃ y, k % s.n = y ∧ actsFor s y = sl ∧ isF s sl F.STRIPE.RB_EN =
        true ∧ isF s 0 F.FPIN.C4 = false ∧
      let q := tabGetD s.rebuildQ y []
      k ∈ q ∧ spareWriting s k = false ∧ c.spareSeq = [] ∧ c.st = .durable ∧ missingOf s l k ≠ [] ∧ (∀ p ∈ missingOf s l k, destOf s l k
        p ≠ none) ∧ rebuildRead s k = none ∧ (rebuildOrder s l y).head? = some k) ∧
    (∃ (s : State) (m : Nat), memberSlate m < s.n ∧ serving s 0 = true ∧ serving s (memberSlate m) = true ∧ actsFor s (memberSlate m) =
      memberSlate m ∧ s.pin.shadows = [] ∧
      let x := memberOf s m
      let sl := memberSlate m
      ∃ l, s.layout = some l ∧ ∃ cb, tabGet s.copyBack m = some cb ∧ x.mstate = 2 ∧ isF s sl F.STRIPE.RB_EN = true ∧ isF s 0 F.FPIN.C4 =
        false ∧ cb.busy = none ∧ spareSlots s cb.index = [] ∧ (∀ p ∈ s.spareResv, p.1 / 2 ^ 40 ≠ cb.index) ∧ stripsAway s l m = false) ∧
    (∃ (s : State) (m : Nat), memberSlate m < s.n ∧ serving s 0 = true ∧ serving s (memberSlate m) = true ∧ actsFor s (memberSlate m) =
      memberSlate m ∧ s.pin.shadows = [] ∧
      let x := memberOf s m
      let sl := memberSlate m
      ∃ l, s.layout = some l ∧ ∃ cb, tabGet s.copyBack m = some cb ∧ x.mstate = 2 ∧ isF s sl F.STRIPE.RB_EN = true ∧ isF s 0 F.FPIN.C4 =
        false ∧
      let ready (slot : Nat) : Bool := match spareOf s cb.index slot with | some e => e.valid && !e.stale | none => false
      ∃ slot, (spareSlots s cb.index).find? ready = some slot ∧ ∃ (k : Nat), ordinalAt l m slot = some k ∧ ∃ p, posIn l k m = some p ∧ ∃
        a b, stripAt s l k p = some (a, b) ∧ cb.busy = none ∧ p < l.d + 2 ∧ hasPath s a = true) ∧
    (∃ (s : State) (m : Nat), memberSlate m < s.n ∧ serving s 0 = true ∧ serving s (memberSlate m) = true ∧ actsFor s (memberSlate m) =
      memberSlate m ∧ s.pin.shadows = [] ∧
      let x := memberOf s m
      let sl := memberSlate m
      ∃ l, s.layout = some l ∧ ∃ cb, tabGet s.copyBack m = some cb ∧ x.mstate = 2 ∧ isF s sl F.STRIPE.RB_EN = true ∧ isF s 0 F.FPIN.C4 =
        false ∧
      let reading (slot : Nat) := s.reads.find? fun r => r.2.use == .copyBack m slot
      ∃ slot, cb.busy = some slot ∧ reading slot = none) ∧
    (∃ (s : State) (m : Nat), memberSlate m < s.n ∧ serving s 0 = true ∧ serving s (memberSlate m) = true ∧ actsFor s (memberSlate m) =
      memberSlate m ∧ s.pin.shadows = [] ∧
      let x := memberOf s m
      let sl := memberSlate m
      ∃ l, s.layout = some l ∧ ∃ cb, tabGet s.copyBack m = some cb ∧ x.mstate = 2 ∧ isF s sl F.STRIPE.RB_EN = true ∧ isF s 0 F.FPIN.C4 =
        false ∧
      let reading (slot : Nat) := s.reads.find? fun r => r.2.use == .copyBack m slot
      ∃ slot, cb.busy = some slot ∧ ∃ id r, reading slot = some (id, r) ∧ ∃ p, posIn l r.ordinal m = some p ∧ ∃ a b, stripAt s l
        r.ordinal p = some (a, b) ∧ tabGet s.reads id = some r ∧ r.left = 0 ∧ r.bad = [] ∧ r.want = (List.range 32).map (32 * p + ·) ∧
        (∀ w ∈ r.want, w ∈ r.got) ∧ hasPath s a = true ∧ anyUnserved s l r.ordinal [] = false) :=
  ⟨⟨rb { sM 700 { memb with mstate := 3, recorded := .failed (some 2), recConf := true } with courses := [(1, cr), (2, cr), (4, { cr with st := .pouring })] },
     3, by decide +kernel, by decide +kernel, (by decide +kernel), by decide +kernel, by decide +kernel, 2, _, got (by decide +kernel), _,
     got (by decide +kernel), 0, by decide +kernel, by decide +kernel, (by decide +kernel), by decide +kernel,
     by dsimp only; decide +kernel⟩,
   ⟨rb { sM 700 memb with courses := [(2, cr), (4, cr)], rebuildQ := [(0, [2])] }, 3, by decide +kernel, by decide +kernel,
     (by decide +kernel), by decide +kernel, by decide +kernel, 2, _, got (by decide +kernel), _, got (by decide +kernel), 0,
     by decide +kernel, by decide +kernel, (by decide +kernel), by decide +kernel, by decide +kernel, (by decide +kernel),
     by decide +kernel, by decide +kernel⟩,
   ⟨rb { sM 700 { memb with recorded := .failed none, recConf := true } with courses := [(2, { cr with lostPos := [4] }), (4, cr)], rebuildQ := [(0, [2])] },
     3, by decide +kernel, by decide +kernel, (by decide +kernel), by decide +kernel, by decide +kernel, 2, _, got (by decide +kernel), _,
     got (by decide +kernel), 0, by decide +kernel, by decide +kernel, (by decide +kernel), by decide +kernel, by decide +kernel,
     (by decide +kernel), by decide +kernel, by decide +kernel, (by decide +kernel), by decide +kernel, by decide +kernel,
     by decide +kernel⟩,
   ⟨cbs [] none, 3, by decide +kernel, by decide +kernel, (by decide +kernel), by decide +kernel, by decide +kernel, _,
     got (by decide +kernel), _, got (by decide +kernel), by decide +kernel, by decide +kernel, (by decide +kernel), by decide +kernel,
     by decide +kernel, (by decide +kernel), by decide +kernel⟩,
   ⟨cbs [spe] none, 3, by decide +kernel, by decide +kernel, (by decide +kernel), by decide +kernel, by decide +kernel, _,
     got (by decide +kernel), _, got (by decide +kernel), by decide +kernel, by decide +kernel, (by decide +kernel), _,
     got (by decide +kernel), _, got (by decide +kernel), _, got (by decide +kernel), _, _, gotp (by decide +kernel), by decide +kernel,
     by decide +kernel, by decide +kernel⟩,
   ⟨{ cbs [spe] (some 5) with courses := [(20480, { cr with lostPos := [6] })] }, 3, by decide +kernel, by decide +kernel,
     (by decide +kernel), by decide +kernel, by decide +kernel, _, got (by decide +kernel), _, got (by decide +kernel), by decide +kernel,
     by decide +kernel, (by decide +kernel), _, got (by decide +kernel), by decide +kernel⟩,
   ⟨{ cbs [spe] (some 5) with courses := [(20480, { cr with lostPos := [6] })], reads := [(0, rd20)], nextRead := 1 }, 3,
     by decide +kernel, by decide +kernel, (by decide +kernel), by decide +kernel, by decide +kernel, _, got (by decide +kernel), _,
     got (by decide +kernel), by decide +kernel, by decide +kernel, (by decide +kernel), _, got (by decide +kernel), _, _,
     gotp (by decide +kernel), _, got (by decide +kernel), _, _, gotp (by decide +kernel), by decide +kernel, by decide +kernel,
     (by decide +kernel), by decide +kernel, by decide +kernel, (by decide +kernel), by decide +kernel⟩⟩

/-- Each hypothesis of MemberPool (its clauses 15 to 19) is met. -/
theorem witness_MemberPool_3 :
    (∃ (s : State) (m : Nat), memberSlate m < s.n ∧ serving s 0 = true ∧ serving s (memberSlate m) = true ∧ actsFor s (memberSlate m) =
      memberSlate m ∧ s.pin.shadows = [] ∧ ∃ t, s.drvTrain = some t ∧
      let due : Prop := s.recovery = 2 ∧ s.quorum = false ∧ t + getF s 0 F.STRIPE.QUORUM_WAIT * ms ≤ now s 0
      ¬ due) ∧
    (∃ (s : State) (m : Nat), memberSlate m < s.n ∧ serving s 0 = true ∧ serving s (memberSlate m) = true ∧ actsFor s (memberSlate m) =
      memberSlate m ∧ s.pin.shadows = [] ∧ ∃ t, s.drvTrain = some t ∧
      let due : Prop := s.recovery = 2 ∧ s.quorum = false ∧ t + getF s 0 F.STRIPE.QUORUM_WAIT * ms ≤ now s 0
      due ∧ (missingMembers s).length ≤ 2) ∧
    (∃ (s : State) (m : Nat), memberSlate m < s.n ∧ serving s 0 = true ∧ serving s (memberSlate m) = true ∧ actsFor s (memberSlate m) =
      memberSlate m ∧ s.pin.shadows = [] ∧ ∃ t, s.drvTrain = some t ∧
      let due : Prop := s.recovery = 2 ∧ s.quorum = false ∧ t + getF s 0 F.STRIPE.QUORUM_WAIT * ms ≤ now s 0
      due ∧ 2 < (missingMembers s).length) ∧
    (∃ (s : State) (m : Nat), memberSlate m < s.n ∧ serving s 0 = true ∧ serving s (memberSlate m) = true ∧ actsFor s (memberSlate m) =
      memberSlate m ∧ s.pin.shadows = [] ∧
      let sl := memberSlate m
      ∃ (v : Word), legal s sl 0x09 0x30 (withF v F.STRIPE.QUORUM_FORCE 1) = true) ∧
    (∃ (s : State) (m : Nat), memberSlate m < s.n ∧ serving s 0 = true ∧ serving s (memberSlate m) = true ∧ actsFor s (memberSlate m) =
      memberSlate m ∧ s.pin.shadows = [] ∧
      let sl := memberSlate m
      ∃ (v : Word), legal s sl 0x09 0x41 (withF v F.STRIPE.LOST_CLR 1) = true) :=
  ⟨⟨qm 0 (sM 700 memb), 3, by decide +kernel, by decide +kernel, (by decide +kernel), by decide +kernel, by decide +kernel, _,
     got (by decide +kernel), by dsimp only; decide +kernel⟩,
   ⟨qm 2 (sM 700000000 memb), 3, by decide +kernel, by decide +kernel, (by decide +kernel), by decide +kernel, by decide +kernel, _,
     got (by decide +kernel), by decide +kernel, by decide +kernel⟩,
   ⟨{ qm 3 (sM 700000000 memb) with qShort := true }, 3, by decide +kernel, by decide +kernel, (by decide +kernel), by decide +kernel,
     by decide +kernel, _, got (by decide +kernel), by decide +kernel, by decide +kernel⟩,
   ⟨{ qm 3 (sM 700000000 memb) with qShort := true }, 3, by decide +kernel, by decide +kernel, (by decide +kernel), by decide +kernel,
     by decide +kernel, withF (withF (withF 0 F.STRIPE.RB_SHARE 10) F.STRIPE.RB_SHARE2 20) F.STRIPE.QUORUM_WAIT 100, by decide +kernel⟩,
   ⟨sM 700 ({ State.noMember with perst := false }), 3, by decide +kernel, by decide +kernel, (by decide +kernel), by decide +kernel,
     by decide +kernel, 0, by decide +kernel⟩⟩

end MemberPool

namespace LeaseLife

abbrev AL := List (Nat × WitnessAnswer)

abbrev VL := List WitnessView

def lb : State := F1 (F1 { at_ (pool 2) 1000000000 with durable := { (pool 2).durable with wMask := 7 } } 0 F.LEASE.HB_MISS 3) 0 F.LEASE.REL_DRAIN 100

def lz (f : Lease → Lease) (s : State := lb) : State := { s with lease := f s.lease }

def hbt (bay role fl sls : Nat) (bid : Word) (t : Nat) : Heartbeat := { bay := bay, role := role, flags := BitVec.ofNat 8 fl, slates := sls, bootId := bid, epoch := 4, tb := BitVec.ofNat 64 t }

def rk (e bay : Nat) (l x : Bool) : ResvKey := { epoch := e, bay := bay, lease := l, excl := x, renew := 3 }

def sn (k : Option ResvKey) (t : Nat) (x : Bool) : WitnessSeen := { key := k, tSeen := t, excl := x }

def vw (k : Option ResvKey) : List WitnessView := (List.range 3).map fun m => { member := m, key := k }

/-- Each hypothesis of LeaseLife (its clauses 1 to 8) is met. -/
theorem witness_LeaseLife_1 :
    (∃ (s : State), serving s 0 = true ∧ s.pin.shadows = [] ∧
      let l := s.lease
      ∃ (sl : Nat), sl < s.n ∧ serving s sl = true ∧
      let due : Prop := sl < 2 ∧ ∀ h, tabGet l.hbOut sl = some h → h.tb.toNat + 1000000 ≤ now s sl
      ¬ due) ∧
    (∃ (s : State), serving s 0 = true ∧ s.pin.shadows = [] ∧
      let l := s.lease
      ∃ (sl : Nat), sl < s.n ∧ serving s sl = true ∧
      let due : Prop := sl < 2 ∧ ∀ h, tabGet l.hbOut sl = some h → h.tb.toNat + 1000000 ≤ now s sl
      due) ∧
    (∃ (s : State), serving s 0 = true ∧ s.pin.shadows = [] ∧
      let l := s.lease
      ∃ (sl : Nat), sl < s.n ∧ serving s sl = true ∧ (2 ≤ sl ∨ l.clash = true)) ∧
    (∃ (s : State), serving s 0 = true ∧ s.pin.shadows = [] ∧
      let l := s.lease
      ∃ (sl : Nat) (h : Heartbeat), sl < s.n ∧ serving s sl = true ∧ sl < 2 ∧ l.clash = false ∧ h.bay = l.bay) ∧
    (∃ (s : State), serving s 0 = true ∧ s.pin.shadows = [] ∧
      let l := s.lease
      ∃ (sl : Nat) (h : Heartbeat), sl < s.n ∧ serving s sl = true ∧ sl < 2 ∧ l.clash = false ∧ h.bay ≠ l.bay) ∧
    (∃ (s : State), serving s 0 = true ∧ s.pin.shadows = [] ∧
      let l := s.lease
      let t := now s 0
      let lost : Prop := l.up = true ∧ l.lastHb + getF s 0 F.LEASE.HB_MISS * 1000000 ≤ t
      ¬ lost) ∧
    (∃ (s : State), serving s 0 = true ∧ s.pin.shadows = [] ∧
      let l := s.lease
      let t := now s 0
      let lost : Prop := l.up = true ∧ l.lastHb + getF s 0 F.LEASE.HB_MISS * 1000000 ≤ t
      lost) ∧
    (∃ (s : State), serving s 0 = true ∧ s.pin.shadows = [] ∧
      let l := s.lease
      let t := now s 0
      let due : Prop := l.role = 1 ∧ l.round = none ∧ ∀ r, l.lastRound = some r → r + 50000000 ≤ t
      ¬ due) :=
  ⟨⟨lz (fun l => { l with hbOut := [(0, hbt 0 1 0 2 0 999000001), (1, hbt 0 1 0 2 0 5)] }), by decide +kernel, by decide +kernel, 0,
     by decide +kernel, by decide +kernel, by dsimp only; decide +kernel⟩,
   ⟨lb, by decide +kernel, by decide +kernel, 0, by decide +kernel, by decide +kernel, by dsimp only; decide +kernel⟩,
   ⟨lz (fun l => { l with clash := true }), by decide +kernel, by decide +kernel, 0, by decide +kernel, by decide +kernel,
     by decide +kernel⟩,
   ⟨lb, by decide +kernel, by decide +kernel, 0, hbt 0 2 0 2 8 5, by decide +kernel, by decide +kernel, (by decide +kernel),
     by decide +kernel, by decide +kernel⟩,
   ⟨lb, by decide +kernel, by decide +kernel, 0, hbt 1 2 4 3 8 5, by decide +kernel, by decide +kernel, (by decide +kernel),
     by decide +kernel, by decide +kernel⟩,
   ⟨lb, by decide +kernel, by decide +kernel, by dsimp only; decide +kernel⟩,
   ⟨lz (fun l => { l with up := true, lastHb := 997000000, pBoot := 8, resynced := true, pRole := 2 }), by decide +kernel,
     by decide +kernel, by dsimp only; decide +kernel⟩,
   ⟨lz (fun l => { l with lastRound := some 950000001, leaseEnd := 1000000000 }), by decide +kernel, by decide +kernel,
     by dsimp only; decide +kernel⟩⟩

/-- Each hypothesis of LeaseLife (its clauses 9 to 16) is met. -/
theorem witness_LeaseLife_2 :
    (∃ (s : State), serving s 0 = true ∧ s.pin.shadows = [] ∧
      let l := s.lease
      let t := now s 0
      let due : Prop := l.role = 1 ∧ l.round = none ∧ ∀ r, l.lastRound = some r → r + 50000000 ≤ t
      due) ∧
    (∃ (s : State), serving s 0 = true ∧ s.pin.shadows = [] ∧
      let l := s.lease
      let due : Prop := l.role = 1 ∧ l.round = none ∧ l.needExcl ≠ []
      ¬ due) ∧
    (∃ (s : State), serving s 0 = true ∧ s.pin.shadows = [] ∧
      let l := s.lease
      let due : Prop := l.role = 1 ∧ l.round = none ∧ l.needExcl ≠ []
      due) ∧
    (∃ (s : State), serving s 0 = true ∧ s.pin.shadows = [] ∧
      let l := s.lease
      l.round = none) ∧
    (∃ (s : State), serving s 0 = true ∧ s.pin.shadows = [] ∧
      let l := s.lease
      let t := now s 0
      let mask := s.durable.wMask
      ∃ (a : AL), ∃ r, l.round = some r ∧ l.wPend = none ∧
      let won := (witnesses mask).filter fun m => decide (t < r.issue + 50000000) && answerOf a m == some .success
      majority mask won = true) ∧
    (∃ (s : State), serving s 0 = true ∧ s.pin.shadows = [] ∧
      let l := s.lease
      let t := now s 0
      let mask := s.durable.wMask
      ∃ (a : AL), ∃ r, l.round = some r ∧ l.wPend = none ∧
      let won := (witnesses mask).filter fun m => decide (t < r.issue + 50000000) && answerOf a m == some .success
      let conf := (witnesses mask).filter fun m => answerOf a m == some .conflict
      majority mask won = false ∧ majority mask conf = true) ∧
    (∃ (s : State), serving s 0 = true ∧ s.pin.shadows = [] ∧
      let l := s.lease
      let t := now s 0
      let mask := s.durable.wMask
      ∃ (a : AL), ∃ r, l.round = some r ∧ l.wPend = none ∧
      let won := (witnesses mask).filter fun m => decide (t < r.issue + 50000000) && answerOf a m == some .success
      let conf := (witnesses mask).filter fun m => answerOf a m == some .conflict
      majority mask won = false ∧ majority mask conf = false) ∧
    (∃ (s : State), serving s 0 = true ∧ s.pin.shadows = [] ∧
      let l := s.lease
      let t := now s 0
      (l.role ≠ 1 ∨ t < l.leaseEnd)) :=
  ⟨⟨lb, by decide +kernel, by decide +kernel, by dsimp only; decide +kernel⟩,
   ⟨lb, by decide +kernel, by decide +kernel, by dsimp only; decide +kernel⟩,
   ⟨lz (fun l => { l with needExcl := [0] }), by decide +kernel, by decide +kernel, by dsimp only; decide +kernel⟩,
   ⟨lb, by decide +kernel, by decide +kernel, by dsimp only; decide +kernel⟩,
   ⟨lz (fun l => { l with round := some { issue := 950000001, excl := true }, renew := 8191, needExcl := [0, 1] }), by decide +kernel,
     by decide +kernel, [(0, .success), (1, .success)], _, got (by decide +kernel), by decide +kernel, by dsimp only; decide +kernel⟩,
   ⟨lz (fun l => { l with round := some { issue := 950000001, excl := true }, renew := 8191, needExcl := [0, 1] }), by decide +kernel,
     by decide +kernel, [(0, .success), (1, .conflict), (2, .conflict)], _, got (by decide +kernel), by decide +kernel,
     by decide +kernel, by decide +kernel⟩,
   ⟨lz (fun l => { l with round := some { issue := 950000001, excl := true }, renew := 8191, needExcl := [0, 1] }), by decide +kernel,
     by decide +kernel, [], _, got (by decide +kernel), by decide +kernel, by decide +kernel, by decide +kernel⟩,
   ⟨lz (fun l => { l with lastRound := some 950000000, excl := true, leaseEnd := 1000000001 }), by decide +kernel, by decide +kernel,
     by dsimp only; decide +kernel⟩⟩

/-- Each hypothesis of LeaseLife (its clauses 17 to 24) is met. -/
theorem witness_LeaseLife_3 :
    (∃ (s : State), serving s 0 = true ∧ s.pin.shadows = [] ∧
      let l := s.lease
      let t := now s 0
      l.role = 1 ∧ l.leaseEnd ≤ t) ∧
    (∃ (s : State), serving s 0 = true ∧ s.pin.shadows = [] ∧
      let l := s.lease
      let mask := s.durable.wMask
      ∃ (views : VL) (a : AL), (l.role = 0 ∨ l.role = 2) ∧ l.retryAt = none ∧
      let v := noteViews s views
      let won := (witnesses mask).filter fun m => answerOf a m == some .success
      let clean : Prop := ∀ x ∈ tabVals v.lease.seen, x.excl = false
      eligible v = true ∧ clean ∧ majority mask won = true) ∧
    (∃ (s : State), serving s 0 = true ∧ s.pin.shadows = [] ∧
      let l := s.lease
      let mask := s.durable.wMask
      ∃ (views : VL) (a : AL), (l.role = 0 ∨ l.role = 2) ∧ l.retryAt = none ∧
      let v := noteViews s views
      let won := (witnesses mask).filter fun m => answerOf a m == some .success
      let clean : Prop := ∀ x ∈ tabVals v.lease.seen, x.excl = false
      eligible v = true ∧ clean ∧ majority mask won = false) ∧
    (∃ (s : State), serving s 0 = true ∧ s.pin.shadows = [] ∧
      let l := s.lease
      ∃ (views : VL), (l.role = 0 ∨ l.role = 2) ∧ l.retryAt = none ∧
      let v := noteViews s views
      let clean : Prop := ∀ x ∈ tabVals v.lease.seen, x.excl = false
      ¬ clean ∧ l.role = 2 ∧ l.excluded = false) ∧
    (∃ (s : State), serving s 0 = true ∧ s.pin.shadows = [] ∧
      let l := s.lease
      ∃ (views : VL), (l.role = 0 ∨ l.role = 2) ∧ l.retryAt = none ∧
      let v := noteViews s views
      ∃ k, holderKey v = some k ∧ eligible v = false ∧ l.role = 0 ∧ s.quorum = true ∧ s.chain.chain ≠ 0x3FF) ∧
    (∃ (s : State), serving s 0 = true ∧ s.pin.shadows = [] ∧
      let l := s.lease
      ((l.role ≠ 0 ∧ l.role ≠ 2) ∨ l.retryAt ≠ none)) ∧
    (∃ (s : State), serving s 0 = true ∧ s.pin.shadows = [] ∧
      let l := s.lease
      ∃ r, l.retryAt = some r ∧ (l.role = 0 ∨ l.role = 2)) ∧
    (∃ (s : State), serving s 0 = true ∧ s.pin.shadows = [] ∧
      let l := s.lease
      l.retryAt = none) :=
  ⟨⟨lb, by decide +kernel, by decide +kernel, (by decide +kernel), by decide +kernel⟩,
   ⟨lz (fun l => { l with role := 2, seen := [(0, sn none 5 false), (1, sn none 5 false)] }), by decide +kernel, by decide +kernel, [],
     [(0, .success), (1, .success)], by decide +kernel, by decide +kernel, (by decide +kernel), by decide +kernel, by decide +kernel⟩,
   ⟨lz (fun l => { l with role := 2, seen := [(0, sn none 5 false), (1, sn none 5 false)] }), by decide +kernel, by decide +kernel, [],
     [], by decide +kernel, by decide +kernel, (by decide +kernel), by decide +kernel, by decide +kernel⟩,
   ⟨lz (fun l => { l with role := 2, seen := [(0, sn none 5 false), (1, sn none 5 false)] }), by decide +kernel, by decide +kernel,
     vw (some (rk 7 1 true true)), by decide +kernel, by decide +kernel, (by decide +kernel), by decide +kernel, by decide +kernel⟩,
   ⟨lz (fun l => { l with role := 0 }), by decide +kernel, by decide +kernel, vw (some (rk 7 1 true true)), by decide +kernel,
     by decide +kernel, _, got (by decide +kernel), by decide +kernel, by decide +kernel, (by decide +kernel), by decide +kernel⟩,
   ⟨lb, by decide +kernel, by decide +kernel, by dsimp only; decide +kernel⟩,
   ⟨lz (fun l => { l with role := 2, retryAt := some 1000000000 }), by decide +kernel, by decide +kernel, _, got (by decide +kernel),
     by decide +kernel⟩,
   ⟨lb, by decide +kernel, by decide +kernel, by dsimp only; decide +kernel⟩⟩

/-- Each hypothesis of LeaseLife (its clauses 25 to 32) is met. -/
theorem witness_LeaseLife_4 :
    (∃ (s : State), serving s 0 = true ∧ s.pin.shadows = [] ∧
      let l := s.lease
      ∃ (v : Word), legal s 0 0x0D 4 (withF v F.LEASE.RELEASE 1) = true ∧ l.draining = none) ∧
    (∃ (s : State), serving s 0 = true ∧ s.pin.shadows = [] ∧
      let l := s.lease
      let t := now s 0
      ∃ d, l.degSince = some d ∧ l.draining = none ∧
      let due : Prop := l.role = 1 ∧ isF s 0 F.LEASE.DEG_REL = true ∧ l.up = true ∧ d + 1000000000 ≤ t
      ¬ due) ∧
    (∃ (s : State), serving s 0 = true ∧ s.pin.shadows = [] ∧
      let l := s.lease
      let t := now s 0
      ∃ d, l.degSince = some d ∧ l.draining = none ∧
      let due : Prop := l.role = 1 ∧ isF s 0 F.LEASE.DEG_REL = true ∧ l.up = true ∧ d + 1000000000 ≤ t
      due) ∧
    (∃ (s : State), serving s 0 = true ∧ s.pin.shadows = [] ∧
      let l := s.lease
      l.degSince = none) ∧
    (∃ (s : State), serving s 0 = true ∧ s.pin.shadows = [] ∧
      let l := s.lease
      let t := now s 0
      ∃ d, l.draining = some d ∧
      let over_ : Prop := d.until_ ≤ t ∨ jobsRunning s = false
      ¬ over_) ∧
    (∃ (s : State), serving s 0 = true ∧ s.pin.shadows = [] ∧
      let l := s.lease
      let t := now s 0
      ∃ d, l.draining = some d ∧
      let over_ : Prop := d.until_ ≤ t ∨ jobsRunning s = false
      over_) ∧
    (∃ (s : State), serving s 0 = true ∧ s.pin.shadows = [] ∧
      let l := s.lease
      l.draining = none) ∧
    (∃ (s : State), serving s 0 = true ∧ s.pin.shadows = [] ∧ ∃ (v : Word), legal s 0 0x0D 3 v = true) :=
  ⟨⟨lz (fun l => { l with up := true, lastHb := 997000000, pBoot := 8, resynced := true, pRole := 2 }), by decide +kernel,
     by decide +kernel, 7, by decide +kernel, by decide +kernel⟩,
   ⟨lz (fun l => { l with degSince := some 0, up := true }), by decide +kernel, by decide +kernel, _, got (by decide +kernel),
     by decide +kernel, by dsimp only; decide +kernel⟩,
   ⟨F1 (lz (fun l => { l with degSince := some 0, up := true })) 0 F.LEASE.DEG_REL 1, by decide +kernel, by decide +kernel, _,
     got (by decide +kernel), by decide +kernel, by dsimp only; decide +kernel⟩,
   ⟨lb, by decide +kernel, by decide +kernel, by dsimp only; decide +kernel⟩,
   ⟨lz (fun l => { l with draining := some { until_ := 1000000001 } }) (withJob lb jobA), by decide +kernel, by decide +kernel, _,
     got (by decide +kernel), by dsimp only; decide +kernel⟩,
   ⟨lz (fun l => { l with draining := some { until_ := 1000000000 } }), by decide +kernel, by decide +kernel, _,
     got (by decide +kernel), by dsimp only; decide +kernel⟩,
   ⟨lb, by decide +kernel, by decide +kernel, by dsimp only; decide +kernel⟩,
   ⟨lb, by decide +kernel, by decide +kernel, 7, by decide +kernel⟩⟩

end LeaseLife

namespace ChainFrames

def cb0 : State := { at_ (pool 2) 10000000000 with chain := { (pool 2).chain with posChain := 5, prev := 4, enum := 7, lastEnum := 1, upMac := some 9, dnMac := some 3, dnAt := 1, upAt := 6000000000, sentUp := [.change] }, durable := { (pool 2).durable with chain := 5, pos := some 2 } }

def cz (f : Chain → Chain) (s : State := cb0) : State := { s with chain := f s.chain }

def hd (s : State) : State := cz (fun c => { c with upMac := none }) s

def cen (e ch pr : Nat) (cl : Word) (same : Bool) : CensusBody := { enum := BitVec.ofNat 16 e, chain := BitVec.ofNat 10 ch, prev := BitVec.ofNat 10 pr, claim := cl, shelves := 3, sameShelf := same, shelfPos := { pos := 0, valid := false } }

def tal (e : Nat) : TallyBody := { enum := BitVec.ofNat 16 e, chain := 5, claim := 6, shelves := 3 }

def asg (e ch : Nat) (tk : Word) (same : Bool) : AssignBody := { enum := BitVec.ofNat 16 e, chain := BitVec.ofNat 10 ch, taken := tk, sameShelf := same, shelfPos := { pos := 3, valid := true } }

def bay1 (up : Bool) (s : State) : State := { s with lease := { s.lease with bay := 1, up := up } }

/-- Each hypothesis of ChainFrames (its clauses 1 to 7) is met. -/
theorem witness_ChainFrames_1 :
    (∃ (s : State), s.chain.bypass = true) ∧
    (∃ (s : State), serving s 0 = true ∧ s.pin.shadows = [] ∧
      let c := s.chain
      c.bypass = true) ∧
    (∃ (s : State), serving s 0 = true ∧ s.pin.shadows = [] ∧
      let c := s.chain
      c.bypass = false) ∧
    (∃ (s : State), serving s 0 = true ∧ s.pin.shadows = [] ∧
      let c := s.chain
      let t := now s 0
      c.bypass = false ∧ ∃ (m : Nat), c.upMac = some m ∧ t < c.upAt + 5000000) ∧
    (∃ (s : State), serving s 0 = true ∧ s.pin.shadows = [] ∧
      let c := s.chain
      let t := now s 0
      c.bypass = false ∧ ∃ (m : Nat), c.upMac = some m ∧ c.upAt + 5000000 ≤ t) ∧
    (∃ (s : State), serving s 0 = true ∧ s.pin.shadows = [] ∧
      let c := s.chain
      let t := now s 0
      c.bypass = false ∧ ∃ (m : Nat), c.dnMac = some m ∧ c.dnAt + 5000000 ≤ t) ∧
    (∃ (s : State), serving s 0 = true ∧ s.pin.shadows = [] ∧
      let c := s.chain
      let head : Prop := c.bypass = false ∧ c.upMac = none
      ¬ (head ∧ c.enumDue = true)) :=
  ⟨⟨cz (fun c => { c with bypass := true }), by decide +kernel⟩,
   ⟨cz (fun c => { c with bypass := true }), by decide +kernel, by decide +kernel, by dsimp only; decide +kernel⟩,
   ⟨cb0, by decide +kernel, by decide +kernel, by dsimp only; decide +kernel⟩,
   ⟨cz (fun c => { c with helloAt := some 9999000001, upAt := 9995000001 }), by decide +kernel, by decide +kernel, (by decide +kernel), _,
     got (by decide +kernel), by decide +kernel⟩,
   ⟨cb0, by decide +kernel, by decide +kernel, (by decide +kernel), _, got (by decide +kernel), by decide +kernel⟩,
   ⟨cb0, by decide +kernel, by decide +kernel, (by decide +kernel), _, got (by decide +kernel), by decide +kernel⟩,
   ⟨cb0, by decide +kernel, by decide +kernel, by dsimp only; decide +kernel⟩⟩

/-- Each hypothesis of ChainFrames (its clauses 8 to 14) is met. -/
theorem witness_ChainFrames_2 :
    (∃ (s : State), serving s 0 = true ∧ s.pin.shadows = [] ∧
      let c := s.chain
      let head : Prop := c.bypass = false ∧ c.upMac = none
      head ∧ c.enumDue = true) ∧
    (∃ (s : State), serving s 0 = true ∧ s.pin.shadows = [] ∧
      let c := s.chain
      let t := now s 0
      let head : Prop := c.bypass = false ∧ c.upMac = none
      ¬ (head ∧ c.lastEnum + 10000000000 ≤ t)) ∧
    (∃ (s : State), serving s 0 = true ∧ s.pin.shadows = [] ∧
      let c := s.chain
      let t := now s 0
      let head : Prop := c.bypass = false ∧ c.upMac = none
      head ∧ c.lastEnum + 10000000000 ≤ t) ∧
    (∃ (s : State), serving s 0 = true ∧ s.pin.shadows = [] ∧ ∃ (v : Word), legal s 0 0x12 0 (withF (withF v F.CHAIN.CHAIN_ASSIGN 0)
      F.CHAIN.ENUM_NOW 1) = true) ∧
    (∃ (s : State), serving s 0 = true ∧ s.pin.shadows = [] ∧
      let c := s.chain
      ∃ (v : Word), legal s 0 0x12 0 (withF (withF v F.CHAIN.ENUM_NOW 0) F.CHAIN.CHAIN_ASSIGN 1) = true ∧ c.dnMac ≠ none) ∧
    (∃ (s : State), serving s 0 = true ∧ s.pin.shadows = [] ∧
      let c := s.chain
      let stale (e : BitVec 16) : Prop := c.bypass = false ∧ 2 ^ 15 ≤ (e - c.enum).toNat
      ∃ (b : CensusBody), stale b.enum) ∧
    (∃ (s : State), serving s 0 = true ∧ s.pin.shadows = [] ∧
      let c := s.chain
      let fresh (e : BitVec 16) : Prop := c.bypass = false ∧ (e - c.enum).toNat < 2 ^ 15
      let follow (same : Bool) : Prop := s.lease.bay = 1 ∧ same = true ∧ s.lease.up = true
      ∃ (b : CensusBody), fresh b.enum ∧ ¬ follow b.sameShelf ∧ c.dnMac ≠ none) :=
  ⟨⟨hd (cz (fun c => { c with dnMac := none, enumDue := true })), by decide +kernel, by decide +kernel, (by decide +kernel),
     by decide +kernel⟩,
   ⟨cb0, by decide +kernel, by decide +kernel, by dsimp only; decide +kernel⟩,
   ⟨hd (cz (fun c => { c with lastEnum := 0, helloAt := some 9999000000 })), by decide +kernel, by decide +kernel, (by decide +kernel),
     by decide +kernel⟩,
   ⟨hd cb0, by decide +kernel, by decide +kernel, 0, by decide +kernel⟩,
   ⟨hd cb0, by decide +kernel, by decide +kernel, 0, by decide +kernel, by decide +kernel⟩,
   ⟨cb0, by decide +kernel, by decide +kernel, cen 6 5 4 0 false, by decide +kernel⟩,
   ⟨cb0, by decide +kernel, by decide +kernel, cen 7 5 4 0 false, by decide +kernel, by decide +kernel, by decide +kernel⟩⟩

/-- Each hypothesis of ChainFrames (its clauses 15 to 21) is met. -/
theorem witness_ChainFrames_3 :
    (∃ (s : State), serving s 0 = true ∧ s.pin.shadows = [] ∧
      let c := s.chain
      let fresh (e : BitVec 16) : Prop := c.bypass = false ∧ (e - c.enum).toNat < 2 ^ 15
      let follow (same : Bool) : Prop := s.lease.bay = 1 ∧ same = true ∧ s.lease.up = true
      ∃ (b : CensusBody), fresh b.enum ∧ follow b.sameShelf ∧ c.dnMac ≠ none) ∧
    (∃ (s : State), serving s 0 = true ∧ s.pin.shadows = [] ∧
      let c := s.chain
      let fresh (e : BitVec 16) : Prop := c.bypass = false ∧ (e - c.enum).toNat < 2 ^ 15
      ∃ (b : CensusBody), fresh b.enum ∧ c.dnMac = none ∧ c.upMac ≠ none) ∧
    (∃ (s : State), serving s 0 = true ∧ s.pin.shadows = [] ∧
      let c := s.chain
      let stale (e : BitVec 16) : Prop := c.bypass = false ∧ 2 ^ 15 ≤ (e - c.enum).toNat
      ∃ (b : TallyBody), stale b.enum) ∧
    (∃ (s : State), serving s 0 = true ∧ s.pin.shadows = [] ∧
      let c := s.chain
      let fresh (e : BitVec 16) : Prop := c.bypass = false ∧ (e - c.enum).toNat < 2 ^ 15
      ∃ (b : TallyBody), fresh b.enum ∧ c.upMac ≠ none) ∧
    (∃ (s : State), serving s 0 = true ∧ s.pin.shadows = [] ∧
      let c := s.chain
      let fresh (e : BitVec 16) : Prop := c.bypass = false ∧ (e - c.enum).toNat < 2 ^ 15
      ∃ (b : TallyBody), fresh b.enum ∧ c.upMac = none) ∧
    (∃ (s : State), serving s 0 = true ∧ s.pin.shadows = [] ∧
      let c := s.chain
      let stale (e : BitVec 16) : Prop := c.bypass = false ∧ 2 ^ 15 ≤ (e - c.enum).toNat
      ∃ (b : AssignBody), stale b.enum) ∧
    (∃ (s : State), serving s 0 = true ∧ s.pin.shadows = [] ∧
      let c := s.chain
      let fresh (e : BitVec 16) : Prop := c.bypass = false ∧ (e - c.enum).toNat < 2 ^ 15
      let follow (same : Bool) : Prop := s.lease.bay = 1 ∧ same = true ∧ s.lease.up = true
      ∃ (b : AssignBody), fresh b.enum ∧ ¬ follow b.sameShelf ∧ s.lease.role = 1 ∧ (ownerOf s 0).waiting = [] ∧ lineBusy (ownerOf s 0) =
        false) :=
  ⟨⟨bay1 true cb0, by decide +kernel, by decide +kernel, cen 8 0x3FF 5 0 true, by decide +kernel, by decide +kernel, by decide +kernel⟩,
   ⟨cz (fun c => { c with dnMac := none }), by decide +kernel, by decide +kernel, cen 7 5 4 0 false, by decide +kernel,
     by decide +kernel, by decide +kernel⟩,
   ⟨cb0, by decide +kernel, by decide +kernel, tal 6, by decide +kernel⟩,
   ⟨cb0, by decide +kernel, by decide +kernel, tal 7, by decide +kernel, by decide +kernel⟩,
   ⟨hd cb0, by decide +kernel, by decide +kernel, tal 7, by decide +kernel, by decide +kernel⟩,
   ⟨cb0, by decide +kernel, by decide +kernel, asg 6 5 3 false, by decide +kernel⟩,
   ⟨cb0, by decide +kernel, by decide +kernel, asg 7 5 3 false, by decide +kernel, by decide +kernel, (by decide +kernel),
     by decide +kernel, by decide +kernel⟩⟩

end ChainFrames

namespace FaultHandling

def pz (s : State) : State := F1 (F1 (at_ s 1000000) 0 F.FPIN.PULSE_CLASS 2) 0 F.FPIN.PULSE_US 100

def fb : State := pz (withJob (unit 2) jobA)

def shd (k : ShadowKind) (sl : Nat) : Shadow := { kind := k, slate := sl, opened := 990000, limit := 1000000 }

def shs (l : List (Nat × Shadow)) (s : State) : State := { s with pin := { s.pin with shadows := l } }

/-- Each hypothesis of FaultHandling (its clauses 1 to 8) is met. -/
theorem witness_FaultHandling_1 :
    (∃ (s : State) (sl : Nat), Variant s ∧ sl < s.n ∧ serving s sl = true ∧ serving s 0 = true ∧ ∃ (sp : Nat) (src : Nat),
      let e := eventNo sp src
      let hit : Prop := src < 32 ∧ sp < 19
      (¬ hit ∨ detClass e = none)) ∧
    (∃ (s : State) (sl : Nat), Variant s ∧ sl < s.n ∧ serving s sl = true ∧ serving s 0 = true ∧ ∃ (sp : Nat) (src : Nat) (d : List
      Word),
      let e := eventNo sp src
      let hit : Prop := src < 32 ∧ sp < 19
      ∃ (c : Nat), detClass e = some c ∧ hit ∧ heldOff s sl e (detArg e d) = true) ∧
    (∃ (s : State) (sl : Nat), Variant s ∧ sl < s.n ∧ serving s sl = true ∧ serving s 0 = true ∧ ∃ (sp : Nat) (src : Nat) (d : List
      Word),
      let e := eventNo sp src
      let hit : Prop := src < 32 ∧ sp < 19
      ∃ (c : Nat), detClass e = some c ∧ hit ∧ c ≤ 2 ∧ heldOff s sl e (detArg e d) = false) ∧
    (∃ (s : State) (sl : Nat), Variant s ∧ sl < s.n ∧ serving s sl = true ∧ serving s 0 = true ∧ ∃ (sp : Nat) (src : Nat) (d : List
      Word),
      let e := eventNo sp src
      let hit : Prop := src < 32 ∧ sp < 19
      ∃ (c : Nat), detClass e = some c ∧ hit ∧ heldOff s sl e (detArg e d) = false ∧ (∀ w, react w sl e d = w) ∧ c = 1) ∧
    (∃ (s : State) (sl : Nat), Variant s ∧ sl < s.n ∧ serving s sl = true ∧ serving s 0 = true ∧ ∃ (sp : Nat) (src : Nat) (d : List
      Word),
      let e := eventNo sp src
      let hit : Prop := src < 32 ∧ sp < 19
      ∃ (c : Nat), detClass e = some c ∧ hit ∧ heldOff s sl e (detArg e d) = false ∧ (∀ w, react w sl e d = w) ∧ c = 2) ∧
    (∃ (s : State) (sl : Nat), Variant s ∧ sl < s.n ∧ serving s sl = true ∧ serving s 0 = true ∧ ∃ (sp : Nat) (src : Nat),
      let e := eventNo sp src
      let hit : Prop := src < 32 ∧ sp < 19
      hit ∧ detClass e = some 4 ∧ s.pin.shadows = [] ∧ isF s 0 F.FPIN.C4 = false) ∧
    (∃ (s : State) (sl : Nat), Variant s ∧ sl < s.n ∧ serving s sl = true ∧ serving s 0 = true ∧ ∃ (sp : Nat) (src : Nat) (d : List
      Word),
      let e := eventNo sp src
      let hit : Prop := src < 32 ∧ sp < 19
      let x := lostBy sl e (d.take (detWords e))
      hit ∧ detClass e = some 3 ∧ s.pin.shadows = [] ∧ isF s 0 F.FPIN.C4 = false ∧ x < s.n ∧ tabHas s.lost x = false ∧ (x = 0 ∨
        substitute s x = none)) ∧
    (∃ (s : State) (sl : Nat), Variant s ∧ sl < s.n ∧ serving s sl = true ∧ serving s 0 = true ∧ ∃ (sp : Nat) (src : Nat) (d : List
      Word),
      let e := eventNo sp src
      let hit : Prop := src < 32 ∧ sp < 19
      let x := lostBy sl e (d.take (detWords e))
      hit ∧ detClass e = some 3 ∧ s.pin.shadows = [] ∧ isF s 0 F.FPIN.C4 = false ∧ x < s.n ∧ tabHas s.lost x = false ∧ ∃ (y : Nat),
        substitute s x = some y ∧ x ≠ 0) :=
  ⟨⟨fb, 0, variant_of (by decide +kernel), by decide +kernel, by decide +kernel, (by decide +kernel), 0, 0, by dsimp only; decide +kernel⟩,
   ⟨shs [(0, shd (.fabric 0) 0)] fb, 0, variant_of (by decide +kernel), by decide +kernel, by decide +kernel, (by decide +kernel), 4, 1,
     [10], _, got (by decide +kernel), by decide +kernel, by decide +kernel⟩,
   ⟨fb, 0, variant_of (by decide +kernel), by decide +kernel, by decide +kernel, (by decide +kernel), 2, 0, [], _,
     got (by decide +kernel), by decide +kernel, by decide +kernel, by decide +kernel⟩,
   ⟨fb, 0, variant_of (by decide +kernel), by decide +kernel, by decide +kernel, (by decide +kernel), 2, 4, [], _,
     got (by decide +kernel), by decide +kernel, by decide +kernel, fun _ => rfl, by decide +kernel⟩,
   ⟨fb, 0, variant_of (by decide +kernel), by decide +kernel, by decide +kernel, (by decide +kernel), 2, 0, [], _,
     got (by decide +kernel), by decide +kernel, by decide +kernel, fun _ => rfl, by decide +kernel⟩,
   ⟨fb, 0, variant_of (by decide +kernel), by decide +kernel, by decide +kernel, (by decide +kernel), 9, 1, by decide +kernel,
     by decide +kernel, (by decide +kernel), by decide +kernel⟩,
   ⟨fb, 0, variant_of (by decide +kernel), by decide +kernel, by decide +kernel, (by decide +kernel), 12, 5, [], by decide +kernel,
     by decide +kernel, (by decide +kernel), by decide +kernel, by decide +kernel, (by decide +kernel), by decide +kernel⟩,
   ⟨fb, 0, variant_of (by decide +kernel), by decide +kernel, by decide +kernel, (by decide +kernel), 17, 2, [1, 2, 3, 4, 5],
     by decide +kernel, by decide +kernel, (by decide +kernel), by decide +kernel, by decide +kernel, (by decide +kernel), _,
     got (by decide +kernel), by decide +kernel⟩⟩

/-- Each hypothesis of FaultHandling (its clauses 9 to 15) is met. -/
theorem witness_FaultHandling_2 :
    (∃ (s : State) (sl : Nat), Variant s ∧ sl < s.n ∧ serving s sl = true ∧ serving s 0 = true ∧ ∃ (sp : Nat) (c : Nat) (v : Word), sp <
      19 ∧ legal s sl sp 0xF02 (withF v (F.INJ_FIRE sp) 1) = true ∧
      let k := fv v (F.INJ_SRC sp)
      detClass (eventNo sp k) = some c ∧ c ≤ 2 ∧ ∃ (d : List Word), heldOff s sl (eventNo sp k) (detArg (eventNo sp k) d) = false) ∧
    (∃ (s : State) (sl : Nat), Variant s ∧ sl < s.n ∧ serving s sl = true ∧ serving s 0 = true ∧ isF s 0 F.FPIN.C4 = true) ∧
    (∃ (s : State) (sl : Nat), Variant s ∧ sl < s.n ∧ serving s sl = true ∧ serving s 0 = true ∧ isF s 0 F.FPIN.C4 = false) ∧
    (∃ (s : State) (sl : Nat), Variant s ∧ sl < s.n ∧ serving s sl = true ∧ serving s 0 = true ∧ ∃ (v : Word), legal s 0 0x0E 0 v =
      true) ∧
    (∃ (s : State) (sl : Nat), Variant s ∧ sl < s.n ∧ serving s sl = true ∧ serving s 0 = true ∧ ∃ (i : Nat), tabGet s.pin.shadows i =
      none) ∧
    (∃ (s : State) (sl : Nat), Variant s ∧ sl < s.n ∧ serving s sl = true ∧ serving s 0 = true ∧ ∃ (i : Nat) (r : Bool), ∃ sh, tabGet
      s.pin.shadows i = some sh ∧ r = false ∧ now s sh.slate < sh.limit) ∧
    (∃ (s : State) (sl : Nat), Variant s ∧ sl < s.n ∧ serving s sl = true ∧ serving s 0 = true ∧ ∃ (i : Nat) (r : Bool), ∃ sh, tabGet
      s.pin.shadows i = some sh ∧ (r = true ∨ sh.limit ≤ now s sh.slate)) :=
  ⟨⟨fb, 0, variant_of (by decide +kernel), by decide +kernel, by decide +kernel, (by decide +kernel), 2, 0, 32 + 2, by decide +kernel,
     by decide +kernel, (by decide +kernel), by decide +kernel, [], by decide +kernel⟩,
   ⟨F1 fb 0 F.FPIN.C4 1, 0, variant_of (by decide +kernel), by decide +kernel, by decide +kernel, (by decide +kernel), by decide +kernel⟩,
   ⟨fb, 0, variant_of (by decide +kernel), by decide +kernel, by decide +kernel, (by decide +kernel), by decide +kernel⟩,
   ⟨fb, 0, variant_of (by decide +kernel), by decide +kernel, by decide +kernel, (by decide +kernel),
     withF (withF 0 F.FPIN.PULSE_CLASS 2) F.FPIN.PULSE_US 10, by decide +kernel⟩,
   ⟨fb, 0, variant_of (by decide +kernel), by decide +kernel, by decide +kernel, (by decide +kernel), 0, by decide +kernel⟩,
   ⟨shs [(0, shd .partner 0), (5, { shd (.network 2) 0 with limit := 1000001 })] fb, 0, variant_of (by decide +kernel),
     by decide +kernel, by decide +kernel, (by decide +kernel), 5, false, _, got (by decide +kernel), by decide +kernel,
     by decide +kernel⟩,
   ⟨shs [(0, shd (.fabric 0) 0)] fb, 0, variant_of (by decide +kernel), by decide +kernel, by decide +kernel, (by decide +kernel), 0,
     true, _, got (by decide +kernel), by decide +kernel⟩⟩

end FaultHandling

namespace CacheCommands

def fb : State := at_ (withJob (unit 2) jobA) 1000000

def ln : Line := { line := 5, dirty := true, presence := 3 }

def sc (st en : Nat) (s : State) : State := { F1 (F1 s 0 F.MEM.SC_STATE st) 0 F.MEM.SC_EN en with hbm := [(320, 7)], scLines := [(3, ln), (524288 + 3, ln)], dcLines := [(2, 5), (1024 * 48 + 2, 5)], poison := [64], wayErrs := [(3, 2), (4096 + 3, 2)] }

/-- Each hypothesis of CacheCommands is met. -/
theorem witness_CacheCommands :
    (∃ (s : State) (sl : Nat), sl < s.n ∧ serving s sl = true ∧ ∃ (v : Word), legal s sl 0x0C 1 (withF v F.MEM.SC_EN 0) = true) ∧
    (∃ (s : State) (sl : Nat), sl < s.n ∧ serving s sl = true ∧
      let st := scState s sl
      (st ≠ 2 ∨ tabGetD s.victim sl [] ≠ [])) ∧
    (∃ (s : State) (sl : Nat), sl < s.n ∧ serving s sl = true ∧
      let st := scState s sl
      st = 2 ∧ tabGetD s.victim sl [] = []) ∧
    (∃ (s : State) (sl : Nat), sl < s.n ∧ serving s sl = true ∧ ∃ (v : Word), legal s sl 0x0C 1 (withF v F.MEM.SC_EN 1) = true) ∧
    (∃ (s : State) (sl : Nat), sl < s.n ∧ serving s sl = true ∧ ∃ (v : Word), legal s sl 0x0C 1 v = true) ∧
    (∃ (s : State) (sl : Nat), sl < s.n ∧ serving s sl = true ∧ ∃ (v : Word), legal s sl 0x0C 2 (withF v F.MEM.WAY_RESTORE 1) = true) :=
  ⟨⟨sc 0 0 fb, 0, by decide +kernel, by decide +kernel, withF (withF 0 F.MEM.WAY_THRESH 8) F.MEM.SCRUB_HOURS 24, by decide +kernel⟩,
   ⟨sc 0 0 fb, 0, by decide +kernel, by decide +kernel, by dsimp only; decide +kernel⟩,
   ⟨sc 2 0 fb, 0, by decide +kernel, by decide +kernel, (by decide +kernel), by decide +kernel⟩,
   ⟨sc 0 0 fb, 0, by decide +kernel, by decide +kernel, withF (withF 0 F.MEM.WAY_THRESH 8) F.MEM.SCRUB_HOURS 24, by decide +kernel⟩,
   ⟨sc 0 0 fb, 0, by decide +kernel, by decide +kernel, withF (withF 0 F.MEM.WAY_THRESH 8) F.MEM.SCRUB_HOURS 24, by decide +kernel⟩,
   ⟨sc 0 0 fb, 0, by decide +kernel, by decide +kernel, 0, by decide +kernel⟩⟩

end CacheCommands

namespace PerfCommands

def s0 : State := withJob (unit 2) jobA

def s1 : State := F1 (F1 s0 0 (F.PERF.EN 0) 1) 0 (F.PERF.VALUE 0) (2^48-1)

def s2 : State := F1 (F1 (F1 s1 0 F.PERF.DUMP_EN 1) 0 F.PERF.RBASE 0x100000) 0 F.PERF.RLEN_LOG2 4

def s3 : State := F1 (F1 s2 0 F.PERF.WP 16) 0 F.PERF.RP 0

def s4 : State := F1 s2 0 F.PERF.RBASE (getF s2 0 F.ENGINE.HEAP_BASE * 256)

def s5 : State := F1 (F1 s2 0 F.PERF.SAMP_EN 1) 0 F.PERF.WP 5

def smp (k : Nat) : State := { s5 with sampling := [(0, { samplingOf s5 0 with count := 100000000, tags := List.replicate k { thread := 1, job := 1, word := 0, tb := 0, pc := 0, addr := 0, susp := false } })] }

/-- Each hypothesis of PerfCommands (its clauses 1 to 8) is met. -/
theorem witness_PerfCommands_1 :
    (∃ (s : State) (sl : Nat), sl < s.n ∧ serving s sl = true ∧ s.pin.shadows = [] ∧ ∃ k, ∃ (v : Word), k < 16 ∧ legal s sl 0x0F (0x10 +
      k) v = true) ∧
    (∃ (s : State) (sl : Nat), sl < s.n ∧ serving s sl = true ∧ s.pin.shadows = [] ∧ ∃ k, 16 ≤ k) ∧
    (∃ (s : State) (sl : Nat), sl < s.n ∧ serving s sl = true ∧ s.pin.shadows = [] ∧ ∃ k, ∃ (v : Word), k < 16 ∧ legal s sl 0x0F (0x10 +
      k) (withF v (F.PERF.OVF_CLR k) 1) = true) ∧
    (∃ (s : State) (sl : Nat), sl < s.n ∧ serving s sl = true ∧ s.pin.shadows = [] ∧ ∃ k,
      let top : Prop := k < 16 ∧ isF s sl (F.PERF.EN k) = true ∧ getF s sl (F.PERF.VALUE k) = 2 ^ 48 - 1
      ¬ top) ∧
    (∃ (s : State) (sl : Nat), sl < s.n ∧ serving s sl = true ∧ s.pin.shadows = [] ∧ ∃ k,
      let top : Prop := k < 16 ∧ isF s sl (F.PERF.EN k) = true ∧ getF s sl (F.PERF.VALUE k) = 2 ^ 48 - 1
      top) ∧
    (∃ (s : State) (sl : Nat), sl < s.n ∧ serving s sl = true ∧ s.pin.shadows = [] ∧
      let due : Prop := isF s sl F.PERF.DUMP_EN = true ∧ now s sl % (getF s sl F.PERF.DUMP_US * 1000) = 0
      ¬ due) ∧
    (∃ (s : State) (sl : Nat), sl < s.n ∧ serving s sl = true ∧ s.pin.shadows = [] ∧
      let due : Prop := isF s sl F.PERF.DUMP_EN = true ∧ now s sl % (getF s sl F.PERF.DUMP_US * 1000) = 0
      due ∧ ringInHeap s sl counterRing = true) ∧
    (∃ (s : State) (sl : Nat), sl < s.n ∧ serving s sl = true ∧ s.pin.shadows = [] ∧
      let due : Prop := isF s sl F.PERF.DUMP_EN = true ∧ now s sl % (getF s sl F.PERF.DUMP_US * 1000) = 0
      let full : Prop := ringFill s sl counterRing = ringLen s sl counterRing
      due ∧ ringInHeap s sl counterRing = false ∧ full) :=
  ⟨⟨s0, 0, by decide +kernel, by decide +kernel, (by decide +kernel), 0, 0, by decide +kernel, by decide +kernel⟩,
   ⟨s0, 0, by decide +kernel, by decide +kernel, (by decide +kernel), 16, by decide +kernel⟩,
   ⟨s0, 0, by decide +kernel, by decide +kernel, (by decide +kernel), 0, 0, by decide +kernel, by decide +kernel⟩,
   ⟨s0, 0, by decide +kernel, by decide +kernel, (by decide +kernel), 0, by dsimp only; decide +kernel⟩,
   ⟨s1, 0, by decide +kernel, by decide +kernel, (by decide +kernel), 0, by dsimp only; decide +kernel⟩,
   ⟨s0, 0, by decide +kernel, by decide +kernel, (by decide +kernel), by dsimp only; decide +kernel⟩,
   ⟨s4, 0, by decide +kernel, by decide +kernel, (by decide +kernel), by decide +kernel, by decide +kernel⟩,
   ⟨s3, 0, by decide +kernel, by decide +kernel, (by decide +kernel), by decide +kernel, by decide +kernel, by decide +kernel⟩⟩

/-- Each hypothesis of PerfCommands (its clauses 9 to 15) is met. -/
theorem witness_PerfCommands_2 :
    (∃ (s : State) (sl : Nat), sl < s.n ∧ serving s sl = true ∧ s.pin.shadows = [] ∧
      let due : Prop := isF s sl F.PERF.DUMP_EN = true ∧ now s sl % (getF s sl F.PERF.DUMP_US * 1000) = 0
      let full : Prop := ringFill s sl counterRing = ringLen s sl counterRing
      due ∧ ringInHeap s sl counterRing = false ∧ ¬ full) ∧
    (∃ (s : State) (sl : Nat), sl < s.n ∧ serving s sl = true ∧ s.pin.shadows = [] ∧ ∃ (sample : Bool) (v : Word), legal s sl 0x0F (if
      sample then 0x33 else 0x31) v = true) ∧
    (∃ (s : State) (sl : Nat), sl < s.n ∧ serving s sl = true ∧ s.pin.shadows = [] ∧ ∃ (t : Thread), ∃ id, jobOn s t = some id ∧ ∃ j,
      jobOf s id = some j ∧ t.slate = sl ∧ t.idx < 192 ∧
      let x := samplingOf s sl
      let due : Prop := isF s sl F.PERF.SAMP_EN = true ∧ sampleThreshold s sl ≤ x.count ∧ canIssue j = true ∧ (isHk j = true → isF s sl
        F.PERF.SAMP_HK = true)
      ¬ due) ∧
    (∃ (s : State) (sl : Nat), sl < s.n ∧ serving s sl = true ∧ s.pin.shadows = [] ∧ ∃ (t : Thread), ∃ id, jobOn s t = some id ∧ ∃ j,
      jobOf s id = some j ∧ t.slate = sl ∧ t.idx < 192 ∧
      let x := samplingOf s sl
      let due : Prop := isF s sl F.PERF.SAMP_EN = true ∧ sampleThreshold s sl ≤ x.count ∧ canIssue j = true ∧ (isHk j = true → isF s sl
        F.PERF.SAMP_HK = true)
      due) ∧
    (∃ (s : State) (sl : Nat), sl < s.n ∧ serving s sl = true ∧ s.pin.shadows = [] ∧ ∃ (v : Word), legal s sl 0x04 3 (withF v
      F.SWITCH.PEAK_CLR 1) = true) ∧
    (∃ (s : State) (sl : Nat), sl < s.n ∧ serving s sl = true ∧ s.pin.shadows = [] ∧ ∃ (v : Word), serving s 0 = true ∧ legal s 0 0x01 2
      (withF v F.SUPPLY.PEAK_CLR 1) = true) ∧
    (∃ (s : State) (sl : Nat), sl < s.n ∧ serving s sl = true ∧ s.pin.shadows = [] ∧ serving s 0 = true) :=
  ⟨⟨s2, 0, by decide +kernel, by decide +kernel, (by decide +kernel), by decide +kernel, by decide +kernel, by decide +kernel⟩,
   ⟨s0, 0, by decide +kernel, by decide +kernel, (by decide +kernel), true, 0, by decide +kernel⟩,
   ⟨s0, 0, by decide +kernel, by decide +kernel, (by decide +kernel), thr, _, got (by decide +kernel), _, got (by decide +kernel),
     by decide +kernel, by decide +kernel, by dsimp only; decide +kernel⟩,
   ⟨smp 2, 0, by decide +kernel, by decide +kernel, (by decide +kernel), thr, _, got (by decide +kernel), _, got (by decide +kernel),
     by decide +kernel, by decide +kernel, by dsimp only; decide +kernel⟩,
   ⟨s0, 0, by decide +kernel, by decide +kernel, (by decide +kernel), 0, by decide +kernel⟩,
   ⟨s0, 0, by decide +kernel, by decide +kernel, (by decide +kernel), 0, by decide +kernel, by decide +kernel⟩,
   ⟨s0, 0, by decide +kernel, by decide +kernel, (by decide +kernel), by decide +kernel⟩⟩

end PerfCommands

namespace KeyQueueWindowOps

def s0 : State := at_ (withQueue (withJob (unit 2) jobA) kA qA) 700000000

def sK : State := F1 (F1 (F1 (F1 s0 0 F.XPORT.VALID 1) 0 F.XPORT.BIND 5) 0 F.XPORT.HI 0x3FF) 0 F.XPORT.GEN 9

def sKp : State := F1 sK 0 F.XPORT.PERSIST 1

def sKd : State := { s0 with keys := s0.keys.map fun p => (p.1, { p.2 with persist := true }), durable := { s0.durable with keys := [(6, kA)] } }

def sQ : State := F1 (F1 { s0 with queues := [] } 0 F.HQ.Q_KEY 6) 0 F.HQ.Q_HOST 11

def sQp : State := F1 { sQ with keys := sQ.keys.map fun p => (p.1, { p.2 with persist := true }) } 0 F.HQ.Q_PERSIST 1

def sW : State := F1 (F1 s0 0 F.RMA.W_BASE 0x400000) 0 F.RMA.W_PAGES 0x10

def sW2 : State := { s0 with windows := [(5, { base := 0x100000000, pages := 4, gen := 3, since := 0 })], keys := [(6, { kA with window := true, bind := 5 }), (7, { kA with bind := 5 })], rot := [(0, [(0, { srcUa := 1, host := 1, window := 5, nonce := 1, gen := 3, done := none, arrival := 0, horizon := 5 }), (1, { srcUa := 1, host := 1, window := 6, nonce := 1, gen := 3, done := none, arrival := 0, horizon := 5 })])], copies := [(0, [(0, { request := dg, window := 5, rotIdx := 0, srcOff := 0, len := 100, dstUa := 9, dstWin := 1, dstKey := 1, dstOff := 0, check := 0, next := 0, chunks := [] })])] }

/-- Each hypothesis of KeyQueueWindowOps (its clauses 1 to 7) is met. -/
theorem witness_KeyQueueWindowOps_1 :
    (∃ (s : State) (sl : Nat) (v : Word), sl < s.n ∧ serving s sl = true ∧
      let kop (x : Nat) : Prop := legal s sl 0x05 0x100 (withF v F.XPORT.K_OP x) = true
      ¬ kop 1) ∧
    (∃ (s : State) (sl : Nat) (v : Word), sl < s.n ∧ serving s sl = true ∧
      let kop (x : Nat) : Prop := legal s sl 0x05 0x100 (withF v F.XPORT.K_OP x) = true
      ¬ kop 2) ∧
    (∃ (s : State) (sl : Nat) (v : Word), sl < s.n ∧ serving s sl = true ∧
      let kop (x : Nat) : Prop := legal s sl 0x05 0x100 (withF v F.XPORT.K_OP x) = true
      ¬ kop 3) ∧
    (∃ (s : State) (sl : Nat) (v : Word), sl < s.n ∧ serving s sl = true ∧
      let qop (x : Nat) : Prop := legal s sl 0x06 0x100 (withF v F.HQ.Q_OP x) = true
      ¬ qop 1) ∧
    (∃ (s : State) (sl : Nat) (v : Word), sl < s.n ∧ serving s sl = true ∧
      let qop (x : Nat) : Prop := legal s sl 0x06 0x100 (withF v F.HQ.Q_OP x) = true
      ¬ qop 2) ∧
    (∃ (s : State) (sl : Nat) (v : Word), sl < s.n ∧ serving s sl = true ∧
      let qop (x : Nat) : Prop := legal s sl 0x06 0x100 (withF v F.HQ.Q_OP x) = true
      ¬ qop 3) ∧
    (∃ (s : State) (sl : Nat) (v : Word), sl < s.n ∧ serving s sl = true ∧
      let wop (x : Nat) : Prop := legal s sl 0x08 0x100 (withF v F.RMA.W_OP x) = true
      ¬ wop 1) :=
  ⟨⟨s0, 0, 6, by decide +kernel, by decide +kernel, by dsimp only; decide +kernel⟩,
   ⟨s0, 0, 0, by decide +kernel, by decide +kernel, by dsimp only; decide +kernel⟩,
   ⟨s0, 0, 0, by decide +kernel, by decide +kernel, by dsimp only; decide +kernel⟩,
   ⟨s0, 0, 6, by decide +kernel, by decide +kernel, by dsimp only; decide +kernel⟩,
   ⟨s0, 0, 6, by decide +kernel, by decide +kernel, by dsimp only; decide +kernel⟩,
   ⟨s0, 0, 6, by decide +kernel, by decide +kernel, by dsimp only; decide +kernel⟩,
   ⟨s0, 0, 6, by decide +kernel, by decide +kernel, by dsimp only; decide +kernel⟩⟩

/-- Each hypothesis of KeyQueueWindowOps (its clauses 8 to 14) is met. -/
theorem witness_KeyQueueWindowOps_2 :
    (∃ (s : State) (sl : Nat) (v : Word), sl < s.n ∧ serving s sl = true ∧
      let wop (x : Nat) : Prop := legal s sl 0x08 0x100 (withF v F.RMA.W_OP x) = true
      ¬ wop 2) ∧
    (∃ (s : State) (sl : Nat) (v : Word), sl < s.n ∧ serving s sl = true ∧
      let wop (x : Nat) : Prop := legal s sl 0x08 0x100 (withF v F.RMA.W_OP x) = true
      ¬ wop 3) ∧
    (∃ (s : State) (sl : Nat) (v : Word), sl < s.n ∧ serving s sl = true ∧
      let idx := fv v F.XPORT.K_INDEX
      let k := stagedKey s sl
      let kop (x : Nat) : Prop := legal s sl 0x05 0x100 (withF v F.XPORT.K_OP x) = true
      kop 1 ∧ keyRecorded s sl idx (some k) = false) ∧
    (∃ (s : State) (sl : Nat) (v : Word), sl < s.n ∧ serving s sl = true ∧
      let idx := fv v F.XPORT.K_INDEX
      let k := stagedKey s sl
      let kop (x : Nat) : Prop := legal s sl 0x05 0x100 (withF v F.XPORT.K_OP x) = true
      let free (o : Nat) : Prop := (ownerOf s o).waiting = [] ∧ lineBusy (ownerOf s o) = false
      kop 1 ∧ keyRecorded s sl idx (some k) = true ∧ free 0) ∧
    (∃ (s : State) (sl : Nat) (v : Word), sl < s.n ∧ serving s sl = true ∧
      let idx := fv v F.XPORT.K_INDEX
      let kop (x : Nat) : Prop := legal s sl 0x05 0x100 (withF v F.XPORT.K_OP x) = true
      kop 3 ∧ keyRecorded s sl idx none = false) ∧
    (∃ (s : State) (sl : Nat) (v : Word), sl < s.n ∧ serving s sl = true ∧
      let idx := fv v F.XPORT.K_INDEX
      let kop (x : Nat) : Prop := legal s sl 0x05 0x100 (withF v F.XPORT.K_OP x) = true
      let free (o : Nat) : Prop := (ownerOf s o).waiting = [] ∧ lineBusy (ownerOf s o) = false
      kop 3 ∧ keyRecorded s sl idx none = true ∧ free 0) ∧
    (∃ (s : State) (sl : Nat) (v : Word), sl < s.n ∧ serving s sl = true ∧
      let kop (x : Nat) : Prop := legal s sl 0x05 0x100 (withF v F.XPORT.K_OP x) = true
      kop 2) :=
  ⟨⟨s0, 0, 6, by decide +kernel, by decide +kernel, by dsimp only; decide +kernel⟩,
   ⟨s0, 0, 6, by decide +kernel, by decide +kernel, by dsimp only; decide +kernel⟩,
   ⟨sK, 0, 6, by decide +kernel, by decide +kernel, (by decide +kernel), by decide +kernel⟩,
   ⟨sKp, 0, 6, by decide +kernel, by decide +kernel, (by decide +kernel), by decide +kernel, by decide +kernel⟩,
   ⟨s0, 0, 6, by decide +kernel, by decide +kernel, (by decide +kernel), by decide +kernel⟩,
   ⟨sKd, 0, 6, by decide +kernel, by decide +kernel, (by decide +kernel), by decide +kernel, by decide +kernel⟩,
   ⟨s0, 0, 6, by decide +kernel, by decide +kernel, by dsimp only; decide +kernel⟩⟩

/-- Each hypothesis of KeyQueueWindowOps (its clauses 15 to 21) is met. -/
theorem witness_KeyQueueWindowOps_3 :
    (∃ (s : State) (sl : Nat) (v : Word), sl < s.n ∧ serving s sl = true ∧
      let qop (x : Nat) : Prop := legal s sl 0x06 0x100 (withF v F.HQ.Q_OP x) = true
      qop 1 ∧ isF s sl F.HQ.Q_PERSIST = false) ∧
    (∃ (s : State) (sl : Nat) (v : Word), sl < s.n ∧ serving s sl = true ∧
      let qop (x : Nat) : Prop := legal s sl 0x06 0x100 (withF v F.HQ.Q_OP x) = true
      qop 1 ∧ isF s sl F.HQ.Q_PERSIST = true) ∧
    (∃ (s : State) (sl : Nat) (v : Word), sl < s.n ∧ serving s sl = true ∧
      let hq := hqNo sl (fv v F.HQ.Q_INDEX)
      let qop (x : Nat) : Prop := legal s sl 0x06 0x100 (withF v F.HQ.Q_OP x) = true
      ∃ q, queueAt s hq = some q ∧ qop 2) ∧
    (∃ (s : State) (sl : Nat) (v : Word), sl < s.n ∧ serving s sl = true ∧
      let hq := hqNo sl (fv v F.HQ.Q_INDEX)
      let qop (x : Nat) : Prop := legal s sl 0x06 0x100 (withF v F.HQ.Q_OP x) = true
      ∃ q, queueAt s hq = some q ∧ qop 3 ∧ hq ≠ bootQueue) ∧
    (∃ (s : State) (sl : Nat) (v : Word), sl < s.n ∧ serving s sl = true ∧
      let wop (x : Nat) : Prop := legal s sl 0x08 0x100 (withF v F.RMA.W_OP x) = true
      wop 1) ∧
    (∃ (s : State) (sl : Nat) (v : Word), sl < s.n ∧ serving s sl = true ∧
      let w := winNo sl (fv v F.RMA.W_INDEX)
      let wop (x : Nat) : Prop := legal s sl 0x08 0x100 (withF v F.RMA.W_OP x) = true
      ∃ x, windowOf s w = some x ∧ wop 2) ∧
    (∃ (s : State) (sl : Nat) (v : Word), sl < s.n ∧ serving s sl = true ∧
      let w := winNo sl (fv v F.RMA.W_INDEX)
      let wop (x : Nat) : Prop := legal s sl 0x08 0x100 (withF v F.RMA.W_OP x) = true
      ∃ x, windowOf s w = some x ∧ wop 3) :=
  ⟨⟨sQ, 0, 5, by decide +kernel, by decide +kernel, (by decide +kernel), by decide +kernel⟩,
   ⟨sQp, 0, 5, by decide +kernel, by decide +kernel, (by decide +kernel), by decide +kernel⟩,
   ⟨s0, 0, 5, by decide +kernel, by decide +kernel, _, got (by decide +kernel), by decide +kernel⟩,
   ⟨s0, 0, 5, by decide +kernel, by decide +kernel, _, got (by decide +kernel), by decide +kernel, by decide +kernel⟩,
   ⟨sW, 0, 6, by decide +kernel, by decide +kernel, by dsimp only; decide +kernel⟩,
   ⟨sW2, 0, 5, by decide +kernel, by decide +kernel, _, got (by decide +kernel), by decide +kernel⟩,
   ⟨sW2, 0, 5, by decide +kernel, by decide +kernel, _, got (by decide +kernel), by decide +kernel⟩⟩

end KeyQueueWindowOps

namespace SecureOps

def s0 : State := at_ (withQueue (withJob (unit 2) jobA) kA qA) 700000000

def sB (len : Nat) : State := F1 (F1 s0 0 F.SECURE.SBUF_ADDR 0x1000) 0 F.SECURE.SBUF_LEN len

def op (k : Nat) (i : Block) (s : State) : State := { s with secure := { s.secure with op := some { op := k, input := i, wait := none } } }

def prod (s : State) : State := { s with secure := { s.secure with stage := .production } }

def rec0 : Rec := { seq := 5, body := .table (.auth 3 0 []), grp := false, need := [], acks := [], due := [], confirmed := true, packed := false, trimmed := false }

def auth (op : Nat) : Block := (List.replicate 4 0) ++ [BitVec.ofNat 8 op] ++ List.replicate 91 0

def sWait (a : Nat) (c : Bool) : State := { sB 200 with secure := { s0.secure with op := some { op := 3, input := auth a, wait := some 5 } }, owners := [(0, { seq := 6, trim := 1, holders := [], recs := [{ rec0 with confirmed := c }], waiting := [] })], media := [(3, [1])] }

def pv : Block := [1,0,0,0, 7,0, 0,0] ++ List.replicate 8 0 ++ List.replicate 1568 0 

def pvKey : Block := shake256 (Config.kemDecaps (sB 9).ready.bootId (blockSlice pv 16 1568) ++ blockSlice pv 8 8 ++ blockSlice pv 4 2) 52

/-- Each hypothesis of SecureOps (its clauses 1 to 7) is met. -/
theorem witness_SecureOps_1 :
    (∃ (s : State), serving s 0 = true ∧ s.pin.shadows = [] ∧ ∃ k, ∃ (v : Word), 1 ≤ k ∧ k ≤ 6 ∧ legal s 0 0x10 0x12 (withF v
      F.SECURE.S_OP k) = false) ∧
    (∃ (s : State), serving s 0 = true ∧ s.pin.shadows = [] ∧ ∃ k, ∃ (v : Word), 1 ≤ k ∧ k ≤ 6 ∧ legal s 0 0x10 0x12 (withF v
      F.SECURE.S_OP k) = true) ∧
    (∃ (s : State), serving s 0 = true ∧ s.pin.shadows = [] ∧ s.secure.op = none) ∧
    (∃ (s : State), serving s 0 = true ∧ s.pin.shadows = [] ∧ ∃ x, s.secure.op = some x ∧ x.op = 1) ∧
    (∃ (s : State), serving s 0 = true ∧ s.pin.shadows = [] ∧ ∃ x, s.secure.op = some x ∧ x.op = 2) ∧
    (∃ (s : State), serving s 0 = true ∧ s.pin.shadows = [] ∧ ∃ x, s.secure.op = some x ∧ ∃ (o : SecureOutcome), x.op = 3 ∧ ∃ st,
      authCheck s x.input o = some st ∧ x.wait = none) ∧
    (∃ (s : State), serving s 0 = true ∧ s.pin.shadows = [] ∧ ∃ x, s.secure.op = some x ∧ x.op = 3 ∧ ∃ q, x.wait = some q ∧ recConfirmed
      s 0 q = false) :=
  ⟨⟨s0, by decide +kernel, by decide +kernel, 1, 0, by decide +kernel, by decide +kernel, by decide +kernel⟩,
   ⟨sB 2000, by decide +kernel, by decide +kernel, 1, 0, by decide +kernel, by decide +kernel, by decide +kernel⟩,
   ⟨s0, by decide +kernel, by decide +kernel, by decide +kernel⟩,
   ⟨op 1 (List.replicate 32 7) (sB 2000), by decide +kernel, by decide +kernel, _, got (by decide +kernel), by decide +kernel⟩,
   ⟨op 2 [] (sB 4000000), by decide +kernel, by decide +kernel, _, got (by decide +kernel), by decide +kernel⟩,
   ⟨op 3 (auth 9) (sB 200), by decide +kernel, by decide +kernel, _, got (by decide +kernel),
     { sigOk := true, rngOk := true, flashOk := true }, by decide +kernel, _, got (by decide +kernel), by decide +kernel⟩,
   ⟨sWait 3 false, by decide +kernel, by decide +kernel, _, got (by decide +kernel), by decide +kernel, _, got (by decide +kernel),
     by decide +kernel⟩⟩

/-- Each hypothesis of SecureOps (its clauses 8 to 13) is met. -/
theorem witness_SecureOps_2 :
    (∃ (s : State), serving s 0 = true ∧ s.pin.shadows = [] ∧ ∃ x, s.secure.op = some x ∧ x.op = 3 ∧ ∃ q, x.wait = some q ∧ recConfirmed
      s 0 q = true) ∧
    (∃ (s : State), serving s 0 = true ∧ s.pin.shadows = [] ∧ ∃ x, s.secure.op = some x ∧ x.op = 4 ∧ s.secure.stage = .test) ∧
    (∃ (s : State), serving s 0 = true ∧ s.pin.shadows = [] ∧ ∃ x, s.secure.op = some x ∧ x.op = 4 ∧ s.secure.stage ≠ .test ∧ x.input =
      []) ∧
    (∃ (s : State), serving s 0 = true ∧ s.pin.shadows = [] ∧ ∃ x, s.secure.op = some x ∧ ∃ (o : SecureOutcome), x.op = 5 ∧ (x.input =
      [] ∨ bankChecks s (imageOf x.input o.sigOk) = false)) ∧
    (∃ (s : State), serving s 0 = true ∧ s.pin.shadows = [] ∧ ∃ x, s.secure.op = some x ∧ x.op = 6 ∧ s.secure.fallback = true) ∧
    (∃ (s : State), serving s 0 = true ∧ s.pin.shadows = [] ∧ ∃ x, s.secure.op = some x ∧ x.op = 6 ∧ s.secure.fallback = false) :=
  ⟨⟨sWait 3 true, by decide +kernel, by decide +kernel, _, got (by decide +kernel), by decide +kernel, _, got (by decide +kernel),
     by decide +kernel⟩,
   ⟨op 4 [] (sB 0), by decide +kernel, by decide +kernel, _, got (by decide +kernel), by decide +kernel, by decide +kernel⟩,
   ⟨op 4 [] (prod (sB 0)), by decide +kernel, by decide +kernel, _, got (by decide +kernel), by decide +kernel, by decide +kernel,
     by decide +kernel⟩,
   ⟨op 5 [] s0, by decide +kernel, by decide +kernel, _, got (by decide +kernel), { sigOk := true, rngOk := true, flashOk := true },
     by decide +kernel, by decide +kernel⟩,
   ⟨op 6 [] { s0 with secure := { s0.secure with fallback := true, fwSec := 4 } }, by decide +kernel, by decide +kernel, _,
     got (by decide +kernel), by decide +kernel, by decide +kernel⟩,
   ⟨op 6 [] s0, by decide +kernel, by decide +kernel, _, got (by decide +kernel), by decide +kernel, by decide +kernel⟩⟩

def fwOk : Block := [3, 0, 0, 0] ++ List.replicate 10 0 ++ [0xB0, 0] ++ List.replicate 112 0

def sFw : State := op 5 fwOk (sB 200)

def sEnrol : State := op 3 ([2, 0, 0, 0, 4, 0, 0, 0] ++ List.replicate 88 0) (prod (sB 200))

/-- The hypotheses of SecureOps' clause on an ENROL that is accepted, in a unit whose device identifier, which the model leaves open,
is 0. -/
theorem witness_SecureOps_enrol (dev : Config.deviceId = 0) :
    ∃ x, sEnrol.secure.op = some x ∧ x.op = 3 ∧ serving sEnrol 0 = true ∧ sEnrol.pin.shadows = [] ∧ x.wait = none ∧
      authCheck sEnrol x.input { sigOk := true, rngOk := true, flashOk := true } = none ∧
      (ownerOf sEnrol 0).waiting = [] ∧ lineBusy (ownerOf sEnrol 0) = false := by
  refine ⟨_, rfl, rfl, by decide +kernel, by decide +kernel, (by decide +kernel), ?_, by decide +kernel, by decide +kernel⟩
  simp only [authCheck, dev]
  decide +kernel

def sPv : State := op 4 (pv ++ blockSlice pvKey 36 16) (prod (sB 1600))

/-- The hypotheses of SecureOps' clause on PROVISION of a sealed key: the mailbox holds the tag that the key's own stream gives. -/
theorem witness_SecureOps_provision :
    ∃ x, sPv.secure.op = some x ∧ x.op = 4 ∧ serving sPv 0 = true ∧ sPv.pin.shadows = [] ∧ sPv.secure.stage ≠ .test ∧ x.input ≠ [] ∧
      leNat (blockSlice x.input 8 8) = sPv.ready.bootId.toNat ∧ inField x.input 0 4 = 1 ∧ inField x.input 4 2 ≠ 0 ∧
      zeroAt x.input 6 2 = true ∧
      (let key := shake256 (Config.kemDecaps sPv.ready.bootId (blockSlice x.input 16 1568) ++ blockSlice x.input 8 8 ++
        blockSlice x.input 4 2) 52
       blockSlice key 36 16 = blockSlice x.input 1584 16) := by
  have a : ∀ o n t, o + n ≤ 1584 → blockSlice (pv ++ t) o n = blockSlice pv o n := by
    intro o n t h
    refine List.map_congr_left fun i m => ?_
    have l : pv.length = 1584 := by decide +kernel
    have := List.mem_range.1 m
    simp only [byteAt, List.getD_eq_getElem?_getD]
    rw [List.getElem?_append_left (by omega)]
  refine ⟨_, rfl, rfl, by decide +kernel, by decide +kernel, (by decide +kernel), by decide +kernel, by decide +kernel, (by decide +kernel),
    by decide +kernel, by decide +kernel, ?_⟩
  show blockSlice (shake256 (Config.kemDecaps (sB 9).ready.bootId (blockSlice (pv ++ blockSlice pvKey 36 16) 16 1568) ++
    blockSlice (pv ++ blockSlice pvKey 36 16) 8 8 ++ blockSlice (pv ++ blockSlice pvKey 36 16) 4 2) 52) 36 16 =
    blockSlice (pv ++ blockSlice pvKey 36 16) 1584 16
  rw [a _ _ _ (by decide), a _ _ _ (by decide), a _ _ _ (by decide)]
  have e : blockSlice (pv ++ blockSlice pvKey 36 16) 1584 16 = blockSlice pvKey 36 16 := by
    refine List.map_congr_left fun i m => ?_
    have l : pv.length = 1584 := by decide +kernel
    have := List.mem_range.1 m
    simp only [byteAt, List.getD_eq_getElem?_getD]
    rw [List.getElem?_append_right (by omega), l, show 1584 + i - 1584 = i by omega]
    simp [blockSlice, List.getElem?_map, List.getElem?_range this, byteAt]
  rw [e]
  rfl

/-- The hypotheses of SecureOps' clauses on FW_STAGE of an image that passes R342's checks, in a unit whose root digest, which the
model leaves open, is that of an all-zero key. -/
theorem witness_SecureOps_firmware
    (root : shake256 (List.replicate 64 0) 32 = (List.range 4).flatMap fun i => beBytes 8 (Config.rootDigest i).toNat) :
    ∃ x, sFw.secure.op = some x ∧ x.op = 5 ∧ serving sFw 0 = true ∧ sFw.pin.shadows = [] ∧ x.input ≠ [] ∧ inField x.input 0 4 = 3 ∧
      inField x.input 12 1 ≤ 63 ∧ inField x.input 13 1 ≤ 1 ∧ zeroAt x.input 112 16 = true ∧
      ∀ b, bankChecks sFw (imageOf x.input b) = true := by
  refine ⟨_, rfl, by decide +kernel, by decide +kernel, (by decide +kernel), by decide +kernel, by decide +kernel, (by decide +kernel),
    by decide +kernel, by decide +kernel, fun b => ?_⟩
  have k : blockSlice fwOk 16 64 = List.replicate 64 0 := by decide +kernel
  have m : (imageOf fwOk b).rootMatches = true := by simp only [imageOf, k, root, beq_self_eq_true]
  show ((imageOf fwOk b).rootMatches && _ && _ && _ && _) = true
  rw [m]
  cases b <;> decide +kernel

end SecureOps

namespace BlockPrograms

def K (a : Nat) : Nat := 3 + a * 65536

def lib (slot : Nat) (g : List (Nat × Nat)) (out : Nat := 0) : State :=
  { withJob (pool 2) { libJob slot g with h := [(1, { buf := 0, off := 0, len := 100000, rw := false, origin := .h1 }), (2, { buf := 1, off := 0, len := out, rw := true, origin := .h2 })], outBuf := some 1 } with buffers := [(0, { slate := 0, len := 100000, data := [], inbound := true, arrived := [(0, 8192)] }), (1, { slate := 0, len := out, data := [], inbound := false, arrived := [] })], nextBuf := 2 }

def noArr (s : State) : State := { s with buffers := [(0, { slate := 0, len := 100000, data := [], inbound := true, arrived := [] })] }

def lostMap (s : State) : State := { s with map := [10, 11].map fun l => (3 * 2^64 + l, 0x100000000000000) }

def cmp2 (s : State) : State := { s with jobs := s.jobs ++ [(10, { libJob 3 [(1,10),(2,K 1),(9,8192)] with phase := .suspended, onWake := .compare 4 0 })] }

def miss (s : State) : State := { s with leaves := [(3 * 2 ^ 60, { cached := false, pending := [], oldest := 0, writing := none, flushed := 0, ptr := 0x201 })] }

/-- Each hypothesis of BlockPrograms (its clauses 1 to 7) is met. -/
theorem witness_BlockPrograms_1 :
    (∃ (s : State) (id : Nat) (img : ProgImage) (rng : Bool), ∃ p ∈ ([(0x000, .read id), (0x001, .write id), (0x002, .atomicWrite id),
      (0x003, .compareAndWrite id), (0x004, .deallocate id),       (0x005, .flush id), (0x010, .volumeCreate id), (0x011, .volumeDelete
      id), (0x012, .volumeResize id), (0x013, .volumeInfo id),       (0x020, .sanitize ⟨id, rng⟩), (0x021, .format id), (0x022,
      .adminStatus id), (0x028, .powerState id), (0x030, .programInstall id img),       (0x031, .programRemove id), (0x032, .programInfo
      id), (0x040, .ctlGet id), (0x041, .ctlSet id), (0x042, .ctlSwap id)] : List (Nat × Instr)), serving s 0 = true ∧ (∀ j, ¬ RunsLib s
      p.1 id j)) ∧
    (∃ (s : State) (id : Nat) (j : Job) (st : Status), blockCheck s j 2048 0 1 false = some st ∧ RunsLib s 0x000 id j) ∧
    (∃ (s : State) (id : Nat) (j : Job) (st : Status), blockCheck s j 2048 1 0 true = some st ∧ RunsLib s 0x001 id j) ∧
    (∃ (s : State) (id : Nat) (j : Job) (st : Status), blockCheck s j (courseBlocks s) 1 0 true = some st ∧ RunsLib s 0x002 id j) ∧
    (∃ (s : State) (id : Nat) (j : Job) (st : Status), blockCheck s j 256 2 0 true = some st ∧ RunsLib s 0x003 id j) ∧
    (∃ (s : State) (id : Nat) (j : Job) (st : Status), blockCheck s j 2048 0 0 false = some st ∧ RunsLib s 0x004 id j) ∧
    (∃ (s : State) (id : Nat) (j : Job) (a : BlockArgs), blockArgs j = some a ∧
      let t := fetchLeaves s a
      let fetching : Prop := leavesFetching t a.volume a.lba a.count = true
      RunsLib s 0x000 id j ∧ blockCheck s j 2048 0 1 false = none ∧ fetching) :=
  ⟨⟨lib 0 [(1,10),(2,K 2),(9,0)] 8192, 8, { sigOk := true, flashOk := true }, true, _, .head _, by decide +kernel,
     (fun _ h => nomatch h.job)⟩,
   ⟨lib 0 [(1,10),(2,K 2),(9,4096)] 8192, 9, (jobOf (lib 0 [(1,10),(2,K 2),(9,4096)] 8192) 9).getD jobA, _, got (by decide +kernel),
     runsLib_of (by decide +kernel)⟩,
   ⟨lib 1 [(1,10),(2,K 0),(9,8192)], 9, (jobOf (lib 1 [(1,10),(2,K 0),(9,8192)]) 9).getD jobA, _, got (by decide +kernel),
     runsLib_of (by decide +kernel)⟩,
   ⟨lib 2 [(1,10),(2,K 2),(9,4096)], 9, (jobOf (lib 2 [(1,10),(2,K 2),(9,4096)]) 9).getD jobA, _, got (by decide +kernel),
     runsLib_of (by decide +kernel)⟩,
   ⟨lib 3 [(1,10),(2,K 1),(9,4096)], 9, (jobOf (lib 3 [(1,10),(2,K 1),(9,4096)]) 9).getD jobA, _, got (by decide +kernel),
     runsLib_of (by decide +kernel)⟩,
   ⟨lib 4 [(1,10),(2,K 2),(9,1)], 9, (jobOf (lib 4 [(1,10),(2,K 2),(9,1)]) 9).getD jobA, _, got (by decide +kernel),
     runsLib_of (by decide +kernel)⟩,
   ⟨miss (lib 0 [(1,10),(2,K 2),(9,0)] 8192), 9, (jobOf (miss (lib 0 [(1,10),(2,K 2),(9,0)] 8192)) 9).getD jobA, _,
     got (by decide +kernel), runsLib_of (by decide +kernel), by decide +kernel, by decide +kernel⟩⟩

/-- Each hypothesis of BlockPrograms (its clauses 8 to 14) is met. -/
theorem witness_BlockPrograms_2 :
    (∃ (s : State) (id : Nat) (j : Job) (a : BlockArgs), blockArgs j = some a ∧
      let t := fetchLeaves s a
      let fetching : Prop := leavesFetching t a.volume a.lba a.count = true
      RunsLib s 0x004 id j ∧ blockCheck s j 2048 0 0 false = none ∧ fetching) ∧
    (∃ (s : State) (id : Nat) (j : Job) (a : BlockArgs), blockArgs j = some a ∧
      let t := fetchLeaves s a
      let fetching : Prop := leavesFetching t a.volume a.lba a.count = true
      let mapped : Prop := ¬ fetching ∧ ∀ i < a.count, nodeCached s a.volume 0 ((a.lba + i) / 512) = true
      ∃ h2, tabGet j.h 2 = some h2 ∧ RunsLib s 0x000 id j ∧ blockCheck s j 2048 0 1 false = none ∧ j.tickets = [] ∧ mapped ∧ (∀ i <
        a.count, deallocated (mapEntry s a.volume (a.lba + i)) = true)) ∧
    (∃ (s : State) (id : Nat) (j : Job) (a : BlockArgs), blockArgs j = some a ∧
      let t := fetchLeaves s a
      let fetching : Prop := leavesFetching t a.volume a.lba a.count = true
      let mapped : Prop := ¬ fetching ∧ ∀ i < a.count, nodeCached s a.volume 0 ((a.lba + i) / 512) = true
      ∃ h2, tabGet j.h 2 = some h2 ∧ RunsLib s 0x000 id j ∧ blockCheck s j 2048 0 1 false = none ∧ j.tickets = [] ∧ mapped ∧ ∃ l,
        s.layout = some l ∧ (∀ i < a.count, entryLost (mapEntry s a.volume (a.lba + i)) = true)) ∧
    (∃ (s : State) (id : Nat) (j : Job) (a : BlockArgs), blockArgs j = some a ∧ ∃ h, tabGet j.h 1 = some h ∧
      let n := a.count * 4096
      RunsLib s 0x001 id j ∧ blockCheck s j 2048 1 0 true = none ∧ arrived s h.buf h.off (h.off + n) = false) ∧
    (∃ (s : State) (id : Nat) (j : Job) (a : BlockArgs), blockArgs j = some a ∧ ∃ h, tabGet j.h 1 = some h ∧
      let n := a.count * 4096
      RunsLib s 0x001 id j ∧ blockCheck s j 2048 1 0 true = none ∧ arrived s h.buf h.off (h.off + n) = true) ∧
    (∃ (s : State) (id : Nat) (j : Job) (a : BlockArgs), blockArgs j = some a ∧ ∃ h, tabGet j.h 1 = some h ∧
      let n := a.count * 4096
      RunsLib s 0x002 id j ∧ blockCheck s j (courseBlocks s) 1 0 true = none ∧ arrived s h.buf h.off (h.off + n) = false) ∧
    (∃ (s : State) (id : Nat) (j : Job) (a : BlockArgs), blockArgs j = some a ∧ ∃ h, tabGet j.h 1 = some h ∧
      let n := a.count * 4096
      RunsLib s 0x002 id j ∧ blockCheck s j (courseBlocks s) 1 0 true = none ∧ arrived s h.buf h.off (h.off + n) = true) :=
  ⟨⟨miss (lib 4 [(1,10),(2,K 2)]), 9, (jobOf (miss (lib 4 [(1,10),(2,K 2)])) 9).getD jobA, _, got (by decide +kernel),
     runsLib_of (by decide +kernel), by decide +kernel, by decide +kernel⟩,
   ⟨lib 0 [(1,10),(2,K 2),(9,0)] 8192, 9, (jobOf (lib 0 [(1,10),(2,K 2),(9,0)] 8192) 9).getD jobA, _, got (by decide +kernel), _,
     got (by decide +kernel), runsLib_of (by decide +kernel), by decide +kernel, by decide +kernel, (by decide +kernel),
     by decide +kernel⟩,
   ⟨lostMap (lib 0 [(1,10),(2,K 2),(9,0)] 8192), 9, (jobOf (lostMap (lib 0 [(1,10),(2,K 2),(9,0)] 8192)) 9).getD jobA, _,
     got (by decide +kernel), _, got (by decide +kernel), runsLib_of (by decide +kernel), by decide +kernel, by decide +kernel,
     (by decide +kernel), _, got (by decide +kernel), by decide +kernel⟩,
   ⟨noArr (lib 1 [(1,10),(2,K 2),(9,8192)]), 9, (jobOf (noArr (lib 1 [(1,10),(2,K 2),(9,8192)])) 9).getD jobA, _,
     got (by decide +kernel), _, got (by decide +kernel), runsLib_of (by decide +kernel), by decide +kernel, by decide +kernel⟩,
   ⟨lib 1 [(1,10),(2,K 2),(9,8192)], 9, (jobOf (lib 1 [(1,10),(2,K 2),(9,8192)]) 9).getD jobA, _, got (by decide +kernel), _,
     got (by decide +kernel), runsLib_of (by decide +kernel), by decide +kernel, by decide +kernel⟩,
   ⟨noArr (lib 2 [(1,10),(2,K 2),(9,8192)]), 9, (jobOf (noArr (lib 2 [(1,10),(2,K 2),(9,8192)])) 9).getD jobA, _,
     got (by decide +kernel), _, got (by decide +kernel), runsLib_of (by decide +kernel), by decide +kernel, by decide +kernel⟩,
   ⟨lib 2 [(1,10),(2,K 2),(9,8192)], 9, (jobOf (lib 2 [(1,10),(2,K 2),(9,8192)]) 9).getD jobA, _, got (by decide +kernel), _,
     got (by decide +kernel), runsLib_of (by decide +kernel), by decide +kernel, by decide +kernel⟩⟩

/-- Each hypothesis of BlockPrograms (its clauses 15 to 21) is met. -/
theorem witness_BlockPrograms_3 :
    (∃ (s : State) (id : Nat) (j : Job) (a : BlockArgs), blockArgs j = some a ∧ ∃ h, tabGet j.h 1 = some h ∧
      let n := a.count * 4096
      RunsLib s 0x003 id j ∧ blockCheck s j 256 2 0 true = none ∧ arrived s h.buf h.off (h.off + 2 * n) = false) ∧
    (∃ (s : State) (id : Nat) (j : Job) (a : BlockArgs), blockArgs j = some a ∧ ∃ h, tabGet j.h 1 = some h ∧
      let n := a.count * 4096
      RunsLib s 0x003 id j ∧ blockCheck s j 256 2 0 true = none ∧ arrived s h.buf h.off (h.off + 2 * n) = true ∧ comparing s id a =
        true) ∧
    (∃ (s : State) (id : Nat) (j : Job) (a : BlockArgs), blockArgs j = some a ∧ ∃ h, tabGet j.h 1 = some h ∧
      let n := a.count * 4096
      RunsLib s 0x003 id j ∧ blockCheck s j 256 2 0 true = none ∧ arrived s h.buf h.off (h.off + 2 * n) = true ∧ comparing s id a =
        false) ∧
    (∃ (s : State) (id : Nat) (j : Job) (a : BlockArgs), blockArgs j = some a ∧
      let t := fetchLeaves s a
      let fetching : Prop := leavesFetching t a.volume a.lba a.count = true
      let mapped : Prop := ¬ fetching ∧ ∀ i < a.count, nodeCached s a.volume 0 ((a.lba + i) / 512) = true
      RunsLib s 0x004 id j ∧ blockCheck s j 2048 0 0 false = none ∧ mapped ∧ (askCommit t id).2 = true) ∧
    (∃ (s : State) (id : Nat) (j : Job), RunsLib s 0x005 id j ∧
      let bare : Prop := rd j 1 = 0 ∧ rd j 2 = 0 ∧ rd j 9 = 0 ∧ outLen j = 0
      ¬ bare) ∧
    (∃ (s : State) (id : Nat) (j : Job), RunsLib s 0x005 id j ∧
      let bare : Prop := rd j 1 = 0 ∧ rd j 2 = 0 ∧ rd j 9 = 0 ∧ outLen j = 0
      let stopped : Prop := s.admin.state = 1 ∧ s.admin.op ≠ 2
      bare ∧ stopped) ∧
    (∃ (s : State) (id : Nat) (j : Job), RunsLib s 0x005 id j ∧
      let bare : Prop := rd j 1 = 0 ∧ rd j 2 = 0 ∧ rd j 9 = 0 ∧ outLen j = 0
      let stopped : Prop := s.admin.state = 1 ∧ s.admin.op ≠ 2
      bare ∧ ¬ stopped) :=
  ⟨⟨noArr (lib 3 [(1,10),(2,K 1),(9,8192)]), 9, (jobOf (noArr (lib 3 [(1,10),(2,K 1),(9,8192)])) 9).getD jobA, _,
     got (by decide +kernel), _, got (by decide +kernel), runsLib_of (by decide +kernel), by decide +kernel, by decide +kernel⟩,
   ⟨cmp2 (lib 3 [(1,10),(2,K 1),(9,8192)]), 9, (jobOf (cmp2 (lib 3 [(1,10),(2,K 1),(9,8192)])) 9).getD jobA, _, got (by decide +kernel),
     _, got (by decide +kernel), runsLib_of (by decide +kernel), by decide +kernel, by decide +kernel, by decide +kernel⟩,
   ⟨lib 3 [(1,10),(2,K 1),(9,8192)], 9, (jobOf (lib 3 [(1,10),(2,K 1),(9,8192)]) 9).getD jobA, _, got (by decide +kernel), _,
     got (by decide +kernel), runsLib_of (by decide +kernel), by decide +kernel, by decide +kernel, by decide +kernel⟩,
   ⟨lib 4 [(1,10),(2,K 2)], 9, (jobOf (lib 4 [(1,10),(2,K 2)]) 9).getD jobA, _, got (by decide +kernel), runsLib_of (by decide +kernel),
     by decide +kernel, by decide +kernel, by decide +kernel⟩,
   ⟨lib 5 [(2,1)], 9, (jobOf (lib 5 [(2,1)]) 9).getD jobA, runsLib_of (by decide +kernel), by dsimp only; decide +kernel⟩,
   ⟨{ lib 5 [] with admin := { State.adminReset with state := 1, op := 1 } }, 9,
     (jobOf ({ lib 5 [] with admin := { State.adminReset with state := 1, op := 1 } }) 9).getD jobA, runsLib_of (by decide +kernel),
     by decide +kernel, by decide +kernel⟩,
   ⟨lib 5 [], 9, (jobOf (lib 5 []) 9).getD jobA, runsLib_of (by decide +kernel), by decide +kernel, by decide +kernel⟩⟩

end BlockPrograms

namespace VolumePrograms

def lib (slot : Nat) (g : List (Nat × Nat)) (out : Nat := 0) : State :=
  { withJob (pool 2) { libJob slot g with h := [(1, { buf := 0, off := 0, len := 100000, rw := false, origin := .h1 }), (2, { buf := 1, off := 0, len := out, rw := true, origin := .h2 })], outBuf := some 1 } with buffers := [(0, { slate := 0, len := 100000, data := [], inbound := true, arrived := [(0, 8192)] }), (1, { slate := 0, len := out, data := [], inbound := false, arrived := [] })], nextBuf := 2 }

def down (s : State) : State := { s with ready := State.reset.ready }

def cutV (c : VolCut) (size : Nat) (s : State) : State := { s with volumes := [(3, { size := size, cut := some c })] }

/-- Each hypothesis of VolumePrograms (its clauses 1 to 6) is met. -/
theorem witness_VolumePrograms_1 :
    (∃ (s : State) (id : Nat) (j : Job),
      let v := (rd j 1).toNat
      let z := (rd j 2).toNat
      let wide : Prop := z = 0 ∨ 2 ^ 40 < z
      RunsLib s 0x010 id j ∧ (4095 < v ∨ wide)) ∧
    (∃ (s : State) (id : Nat) (j : Job),
      let v := (rd j 1).toNat
      let z := (rd j 2).toNat
      let up := poolServed s
      let wide : Prop := z = 0 ∨ 2 ^ 40 < z
      RunsLib s 0x010 id j ∧ v ≤ 4095 ∧ ¬ wide ∧ up = false) ∧
    (∃ (s : State) (id : Nat) (j : Job),
      let v := (rd j 1).toNat
      let z := (rd j 2).toNat
      let up := poolServed s
      let wide : Prop := z = 0 ∨ 2 ^ 40 < z
      RunsLib s 0x010 id j ∧ v ≤ 4095 ∧ ¬ wide ∧ up = true ∧ volumeExists s j.slate v = true) ∧
    (∃ (s : State) (id : Nat) (j : Job),
      let v := (rd j 1).toNat
      let z := (rd j 2).toNat
      let up := poolServed s
      let wide : Prop := z = 0 ∨ 2 ^ 40 < z
      RunsLib s 0x010 id j ∧ v ≤ 4095 ∧ ¬ wide ∧ up = true ∧ tabGet s.volumes v = none ∧ pendingSize s v = none ∧ (askCommit s id).2 =
        true) ∧
    (∃ (s : State) (id : Nat) (j : Job),
      let v := (rd j 1).toNat
      RunsLib s 0x011 id j ∧ openSize s j.slate v = none) ∧
    (∃ (s : State) (id : Nat) (j : Job),
      let v := (rd j 1).toNat
      let up := poolServed s
      RunsLib s 0x011 id j ∧ ∃ x, tabGet s.volumes v = some x ∧ x.cut = none ∧ up = false) :=
  ⟨⟨lib 0x10 [(1,4096),(2,50)], 9, (jobOf (lib 0x10 [(1,4096),(2,50)]) 9).getD jobA, runsLib_of (by decide +kernel), by decide +kernel⟩,
   ⟨down (lib 0x10 [(1,4),(2,50)]), 9, (jobOf (down (lib 0x10 [(1,4),(2,50)])) 9).getD jobA, runsLib_of (by decide +kernel),
     by decide +kernel, by decide +kernel, by decide +kernel⟩,
   ⟨lib 0x10 [(1,3),(2,50)], 9, (jobOf (lib 0x10 [(1,3),(2,50)]) 9).getD jobA, runsLib_of (by decide +kernel), by decide +kernel,
     by decide +kernel, (by decide +kernel), by decide +kernel⟩,
   ⟨lib 0x10 [(1,4),(2,50)], 9, (jobOf (lib 0x10 [(1,4),(2,50)]) 9).getD jobA, runsLib_of (by decide +kernel), by decide +kernel,
     by decide +kernel, (by decide +kernel), by decide +kernel, by decide +kernel, by decide +kernel⟩,
   ⟨lib 0x11 [(1,4)], 9, (jobOf (lib 0x11 [(1,4)]) 9).getD jobA, runsLib_of (by decide +kernel), by decide +kernel⟩,
   ⟨down (lib 0x11 [(1,3)]), 9, (jobOf (down (lib 0x11 [(1,3)])) 9).getD jobA, runsLib_of (by decide +kernel), _,
     got (by decide +kernel), by decide +kernel, by decide +kernel⟩⟩

/-- Each hypothesis of VolumePrograms (its clauses 7 to 12) is met. -/
theorem witness_VolumePrograms_2 :
    (∃ (s : State) (id : Nat) (j : Job),
      let v := (rd j 1).toNat
      let up := poolServed s
      RunsLib s 0x011 id j ∧ ∃ x, tabGet s.volumes v = some x ∧ x.cut = none ∧ up = true) ∧
    (∃ (s : State) (id : Nat) (j : Job),
      let v := (rd j 1).toNat
      RunsLib s 0x012 id j ∧ openSize s j.slate v = none) ∧
    (∃ (s : State) (id : Nat) (j : Job),
      let v := (rd j 1).toNat
      let z := (rd j 2).toNat
      let wide : Prop := z = 0 ∨ 2 ^ 40 < z
      RunsLib s 0x012 id j ∧ ∃ x, tabGet s.volumes v = some x ∧ x.cut = none ∧ wide) ∧
    (∃ (s : State) (id : Nat) (j : Job),
      let v := (rd j 1).toNat
      let z := (rd j 2).toNat
      let up := poolServed s
      let wide : Prop := z = 0 ∨ 2 ^ 40 < z
      RunsLib s 0x012 id j ∧ ∃ x, tabGet s.volumes v = some x ∧ x.cut = none ∧ ¬ wide ∧ up = false) ∧
    (∃ (s : State) (id : Nat) (j : Job),
      let v := (rd j 1).toNat
      let z := (rd j 2).toNat
      let up := poolServed s
      let wide : Prop := z = 0 ∨ 2 ^ 40 < z
      RunsLib s 0x012 id j ∧ ∃ x, tabGet s.volumes v = some x ∧ x.cut = none ∧ ¬ wide ∧ up = true ∧ z < x.size) ∧
    (∃ (s : State) (id : Nat) (j : Job),
      let v := (rd j 1).toNat
      let z := (rd j 2).toNat
      let up := poolServed s
      let wide : Prop := z = 0 ∨ 2 ^ 40 < z
      RunsLib s 0x012 id j ∧ ∃ x, tabGet s.volumes v = some x ∧ x.cut = none ∧ ¬ wide ∧ up = true ∧ x.size ≤ z ∧ (askCommit s id).2 =
        true) :=
  ⟨⟨lib 0x11 [(1,3)], 9, (jobOf (lib 0x11 [(1,3)]) 9).getD jobA, runsLib_of (by decide +kernel), _, got (by decide +kernel),
     by decide +kernel, by decide +kernel⟩,
   ⟨lib 0x12 [(1,4),(2,50)], 9, (jobOf (lib 0x12 [(1,4),(2,50)]) 9).getD jobA, runsLib_of (by decide +kernel), by decide +kernel⟩,
   ⟨lib 0x12 [(1,3),(2,0)], 9, (jobOf (lib 0x12 [(1,3),(2,0)]) 9).getD jobA, runsLib_of (by decide +kernel), _, got (by decide +kernel),
     by decide +kernel, by decide +kernel⟩,
   ⟨down (lib 0x12 [(1,3),(2,50)]), 9, (jobOf (down (lib 0x12 [(1,3),(2,50)])) 9).getD jobA, runsLib_of (by decide +kernel), _,
     got (by decide +kernel), by decide +kernel, by decide +kernel, by decide +kernel⟩,
   ⟨lib 0x12 [(1,3),(2,50)], 9, (jobOf (lib 0x12 [(1,3),(2,50)]) 9).getD jobA, runsLib_of (by decide +kernel), _,
     got (by decide +kernel), by decide +kernel, by decide +kernel, (by decide +kernel), by decide +kernel⟩,
   ⟨lib 0x12 [(1,3),(2,2000)], 9, (jobOf (lib 0x12 [(1,3),(2,2000)]) 9).getD jobA, runsLib_of (by decide +kernel), _,
     got (by decide +kernel), by decide +kernel, by decide +kernel, (by decide +kernel), by decide +kernel, by decide +kernel⟩⟩

/-- Each hypothesis of VolumePrograms (its clauses 13 to 17) is met. -/
theorem witness_VolumePrograms_3 :
    (∃ (s : State) (id : Nat) (j : Job),
      let v := (rd j 1).toNat
      RunsLib s 0x013 id j ∧ 4095 < v) ∧
    (∃ (s : State) (id : Nat) (j : Job),
      let v := (rd j 1).toNat
      RunsLib s 0x013 id j ∧ v ≤ 4095 ∧ openSize s j.slate v = none) ∧
    (∃ (s : State) (id : Nat) (j : Job),
      let v := (rd j 1).toNat
      RunsLib s 0x013 id j ∧ ∃ k, openSize s j.slate v = some k ∧ v ≤ 4095) ∧
    (∃ (s : State) (v : Nat), serving s 0 = true ∧
      let due (x : Volume) (c : VolCut) : Prop := x.cut = some c ∧ x.size = c.size ∧ ∃ t, c.tb = some t ∧ t ≤ now s 0
      (∀ x c, tabGet s.volumes v = some x → ¬ due x c)) ∧
    (∃ (s : State) (v : Nat), serving s 0 = true ∧
      let due (x : Volume) (c : VolCut) : Prop := x.cut = some c ∧ x.size = c.size ∧ ∃ t, c.tb = some t ∧ t ≤ now s 0
      ∃ x, tabGet s.volumes v = some x ∧ ∃ (c : VolCut), due x c) :=
  ⟨⟨lib 0x13 [(1,4096)], 9, (jobOf (lib 0x13 [(1,4096)]) 9).getD jobA, runsLib_of (by decide +kernel), by decide +kernel⟩,
   ⟨lib 0x13 [(1,4)], 9, (jobOf (lib 0x13 [(1,4)]) 9).getD jobA, runsLib_of (by decide +kernel), by decide +kernel, by decide +kernel⟩,
   ⟨lib 0x13 [(1,3)], 9, (jobOf (lib 0x13 [(1,3)]) 9).getD jobA, runsLib_of (by decide +kernel), _, got (by decide +kernel),
     by decide +kernel⟩,
   ⟨lib 0x10 [(1,4),(2,50)], 9, by decide +kernel, (fun _ _ h => nomatch h)⟩,
   ⟨cutV { size := 0, was := 9, job := 9, hold := [], tb := some 0 } 0 (lib 0 []), 3, by decide +kernel, _, got (by decide +kernel),
     { size := 0, was := 9, job := 9, hold := [], tb := some 0 },
     ⟨by decide +kernel, by decide +kernel, 0, by decide +kernel, by decide +kernel⟩⟩⟩

end VolumePrograms

namespace AdminPrograms

def lib (slot : Nat) (g : List (Nat × Nat)) (out : Nat := 0) : State :=
  { withJob (pool 2) { libJob slot g with h := [(1, { buf := 0, off := 0, len := 100000, rw := false, origin := .h1 }), (2, { buf := 1, off := 0, len := out, rw := true, origin := .h2 })], outBuf := some 1 } with buffers := [(0, { slate := 0, len := 100000, data := [], inbound := true, arrived := [(0, 8192)] }), (1, { slate := 0, len := out, data := [], inbound := false, arrived := [] })], nextBuf := 2 }

def down (s : State) : State := { s with ready := State.reset.ready }

def adm (o : Nat) (s : State) : State := { s with admin := { State.adminReset with state := 1, op := o, volume := 3 } }

def san (c : Nat) (s : State) : State := { s with members := s.members.map fun p => (p.1, { p.2 with sanCap := c }) }

def img (slot keep key ver : Nat) : Block := [1,0,0,0, BitVec.ofNat 8 slot, BitVec.ofNat 8 (slot / 256), BitVec.ofNat 8 keep, BitVec.ofNat 8 key, 100,0,0,0, 1,0,0,0, BitVec.ofNat 8 ver, 0] ++ List.replicate 46 0 ++ [0,0,0,0xDC]

def inst (slot keep key ver : Nat) : State := let s := lib 0x30 [(9, 64 + 4 + 29792)]; { s with buffers := [(0, { slate := 0, len := 100000, data := bytesPut [] 0 (img slot keep key ver), inbound := true, arrived := [(0, 30000)] })] }

def noArr (s : State) : State := { s with buffers := [(0, { slate := 0, len := 100000, data := [], inbound := true, arrived := [] })] }

def withSlot (k : Nat) (s : State) : State := { s with slots := tabPut s.slots k 0 }

def cut (c : Cutover) (s : State) : State := { s with cutover := some c }

def pw (p : PowerSt) (s : State) : State := { s with power := p }

def other (s : State) : State := { s with jobs := s.jobs ++ [(10, { jobA with phase := .suspended })] }

def A (sp e : Nat) : Nat := e + sp * 4096

/-- Each hypothesis of AdminPrograms (its clauses 1 to 8) is met. -/
theorem witness_AdminPrograms_1 :
    (∃ (s : State) (id : Nat) (j : Job),
      let a1 := (rd j 1).toNat
      let a2 := (rd j 2).toNat
      let a3 := (rd j 3).toNat
      RunsLib s 0x020 id j ∧
      let bad : Prop := a1 = 0 ∨ 3 < a1 ∨ (a1 = 3 ∧ (a3 = 0 ∨ 16 < a3 ∨ 2 ^ 32 ≤ a2))
      let able : Prop := ∀ m ∈ serviceMembers s, bitOf (memberOf s m).sanCap a1 = true
      (bad ∨ ¬ able)) ∧
    (∃ (s : State) (id : Nat) (j : Job),
      let a1 := (rd j 1).toNat
      let a2 := (rd j 2).toNat
      let a3 := (rd j 3).toNat
      let up := poolServed s
      RunsLib s 0x020 id j ∧
      let bad : Prop := a1 = 0 ∨ 3 < a1 ∨ (a1 = 3 ∧ (a3 = 0 ∨ 16 < a3 ∨ 2 ^ 32 ≤ a2))
      let able : Prop := ∀ m ∈ serviceMembers s, bitOf (memberOf s m).sanCap a1 = true
      ¬ bad ∧ able ∧ up = false) ∧
    (∃ (s : State) (id : Nat) (j : Job),
      let a1 := (rd j 1).toNat
      let a2 := (rd j 2).toNat
      let a3 := (rd j 3).toNat
      let busy : Prop := s.admin.state = 1
      let up := poolServed s
      RunsLib s 0x020 id j ∧ ∃ (rng : Bool),
      let bad : Prop := a1 = 0 ∨ 3 < a1 ∨ (a1 = 3 ∧ (a3 = 0 ∨ 16 < a3 ∨ 2 ^ 32 ≤ a2))
      let able : Prop := ∀ m ∈ serviceMembers s, bitOf (memberOf s m).sanCap a1 = true
      ¬ bad ∧ able ∧ up = true ∧ (busy ∨ rng = false)) ∧
    (∃ (s : State) (id : Nat) (j : Job),
      let a1 := (rd j 1).toNat
      let a2 := (rd j 2).toNat
      let a3 := (rd j 3).toNat
      let busy : Prop := s.admin.state = 1
      let up := poolServed s
      RunsLib s 0x020 id j ∧ ∃ (rng : Bool),
      let bad : Prop := a1 = 0 ∨ 3 < a1 ∨ (a1 = 3 ∧ (a3 = 0 ∨ 16 < a3 ∨ 2 ^ 32 ≤ a2))
      let able : Prop := ∀ m ∈ serviceMembers s, bitOf (memberOf s m).sanCap a1 = true
      ¬ bad ∧ able ∧ up = true ∧ ¬ busy ∧ rng = true ∧ (askCommit s id).2 = true) ∧
    (∃ (s : State) (id : Nat) (j : Job),
      let a1 := (rd j 1).toNat
      RunsLib s 0x021 id j ∧ 1 < a1) ∧
    (∃ (s : State) (id : Nat) (j : Job),
      let a1 := (rd j 1).toNat
      let a2 := (rd j 2).toNat
      RunsLib s 0x021 id j ∧ a1 = 0 ∧ openSize s j.slate a2 = none) ∧
    (∃ (s : State) (id : Nat) (j : Job),
      let a1 := (rd j 1).toNat
      let a2 := (rd j 2).toNat
      let up := poolServed s
      RunsLib s 0x021 id j ∧ ∃ z, openSize s j.slate a2 = some z ∧ a1 = 0 ∧ up = false) ∧
    (∃ (s : State) (id : Nat) (j : Job),
      let a1 := (rd j 1).toNat
      let a2 := (rd j 2).toNat
      let busy : Prop := s.admin.state = 1
      let up := poolServed s
      RunsLib s 0x021 id j ∧ ∃ z, openSize s j.slate a2 = some z ∧ a1 = 0 ∧ up = true ∧ busy) :=
  ⟨⟨lib 0x20 [(1,1)], 9, (jobOf (lib 0x20 [(1,1)]) 9).getD jobA, runsLib_of (by decide +kernel), by dsimp only; decide +kernel⟩,
   ⟨down (san 2 (lib 0x20 [(1,1)])), 9, (jobOf (down (san 2 (lib 0x20 [(1,1)]))) 9).getD jobA, runsLib_of (by decide +kernel),
     by decide +kernel, by decide +kernel, by decide +kernel⟩,
   ⟨san 2 (lib 0x20 [(1,1)]), 9, (jobOf (san 2 (lib 0x20 [(1,1)])) 9).getD jobA, runsLib_of (by decide +kernel), false,
     by decide +kernel, by decide +kernel, (by decide +kernel), by decide +kernel⟩,
   ⟨san 2 (lib 0x20 [(1,1)]), 9, (jobOf (san 2 (lib 0x20 [(1,1)])) 9).getD jobA, runsLib_of (by decide +kernel), true,
     by decide +kernel, by decide +kernel, (by decide +kernel), by decide +kernel, by decide +kernel, by decide +kernel⟩,
   ⟨lib 0x21 [(1,2)], 9, (jobOf (lib 0x21 [(1,2)]) 9).getD jobA, runsLib_of (by decide +kernel), by decide +kernel⟩,
   ⟨lib 0x21 [(1,0),(2,4)], 9, (jobOf (lib 0x21 [(1,0),(2,4)]) 9).getD jobA, runsLib_of (by decide +kernel), by decide +kernel,
     by decide +kernel⟩,
   ⟨down (lib 0x21 [(1,0),(2,3)]), 9, (jobOf (down (lib 0x21 [(1,0),(2,3)])) 9).getD jobA, runsLib_of (by decide +kernel), _,
     got (by decide +kernel), by decide +kernel, by decide +kernel⟩,
   ⟨adm 1 (lib 0x21 [(1,0),(2,3)]), 9, (jobOf (adm 1 (lib 0x21 [(1,0),(2,3)])) 9).getD jobA, runsLib_of (by decide +kernel), _,
     got (by decide +kernel), by decide +kernel, by decide +kernel, by decide +kernel⟩⟩

/-- Each hypothesis of AdminPrograms (its clauses 9 to 16) is met. -/
theorem witness_AdminPrograms_2 :
    (∃ (s : State) (id : Nat) (j : Job),
      let a1 := (rd j 1).toNat
      let a2 := (rd j 2).toNat
      let busy : Prop := s.admin.state = 1
      let up := poolServed s
      RunsLib s 0x021 id j ∧ ∃ z, openSize s j.slate a2 = some z ∧ a1 = 0 ∧ up = true ∧ ¬ busy ∧ (askCommit s id).2 = true) ∧
    (∃ (s : State) (id : Nat) (j : Job),
      let a1 := (rd j 1).toNat
      let a2 := (rd j 2).toNat
      let a3 := (rd j 3).toNat
      RunsLib s 0x021 id j ∧ ∃ st, formatRefused s a2 a3 = some st ∧ a1 = 1) ∧
    (∃ (s : State) (id : Nat) (j : Job),
      let a1 := (rd j 1).toNat
      let a2 := (rd j 2).toNat
      let a3 := (rd j 3).toNat
      let up := poolServed s
      RunsLib s 0x021 id j ∧ a1 = 1 ∧ formatRefused s a2 a3 = none ∧ up = false) ∧
    (∃ (s : State) (id : Nat) (j : Job),
      let a1 := (rd j 1).toNat
      let a2 := (rd j 2).toNat
      let a3 := (rd j 3).toNat
      let busy : Prop := s.admin.state = 1
      let up := poolServed s
      RunsLib s 0x021 id j ∧ a1 = 1 ∧ formatRefused s a2 a3 = none ∧ up = true ∧ busy) ∧
    (∃ (s : State) (id : Nat) (j : Job),
      let a1 := (rd j 1).toNat
      let a2 := (rd j 2).toNat
      let a3 := (rd j 3).toNat
      let busy : Prop := s.admin.state = 1
      let up := poolServed s
      RunsLib s 0x021 id j ∧ a1 = 1 ∧ formatRefused s a2 a3 = none ∧ up = true ∧ ¬ busy ∧ (askCommit s id).2 = true) ∧
    (∃ (s : State) (id : Nat) (j : Job), RunsLib s 0x022 id j) ∧
    (∃ (s : State) (id : Nat) (j : Job),
      let a1 := (rd j 1).toNat
      RunsLib s 0x028 id j ∧ 2 < a1) ∧
    (∃ (s : State) (id : Nat) (j : Job),
      let a1 := (rd j 1).toNat
      let busy : Prop := s.admin.state = 1
      RunsLib s 0x028 id j ∧ a1 ≤ 2 ∧ busy) :=
  ⟨⟨lib 0x21 [(1,0),(2,3)], 9, (jobOf (lib 0x21 [(1,0),(2,3)]) 9).getD jobA, runsLib_of (by decide +kernel), _, got (by decide +kernel),
     by decide +kernel, by decide +kernel, (by decide +kernel), by decide +kernel⟩,
   ⟨lib 0x21 [(1,1),(2,7),(3,1)], 9, (jobOf (lib 0x21 [(1,1),(2,7),(3,1)]) 9).getD jobA, runsLib_of (by decide +kernel), _,
     got (by decide +kernel), by decide +kernel⟩,
   ⟨down (lib 0x21 [(1,1),(2,8),(3,1)]), 9, (jobOf (down (lib 0x21 [(1,1),(2,8),(3,1)])) 9).getD jobA, runsLib_of (by decide +kernel),
     by decide +kernel, by decide +kernel, by decide +kernel⟩,
   ⟨adm 1 (lib 0x21 [(1,1),(2,8),(3,1)]), 9, (jobOf (adm 1 (lib 0x21 [(1,1),(2,8),(3,1)])) 9).getD jobA, runsLib_of (by decide +kernel),
     by decide +kernel, by decide +kernel, (by decide +kernel), by decide +kernel⟩,
   ⟨lib 0x21 [(1,1),(2,8),(3,1)], 9, (jobOf (lib 0x21 [(1,1),(2,8),(3,1)]) 9).getD jobA, runsLib_of (by decide +kernel),
     by decide +kernel, by decide +kernel, (by decide +kernel), by decide +kernel, by decide +kernel⟩,
   ⟨lib 0x22 [], 9, (jobOf (lib 0x22 []) 9).getD jobA, runsLib_of (by decide +kernel)⟩,
   ⟨lib 0x28 [(1,3)], 9, (jobOf (lib 0x28 [(1,3)]) 9).getD jobA, runsLib_of (by decide +kernel), by decide +kernel⟩,
   ⟨adm 1 (lib 0x28 [(1,2)]), 9, (jobOf (adm 1 (lib 0x28 [(1,2)])) 9).getD jobA, runsLib_of (by decide +kernel), by decide +kernel,
     by decide +kernel⟩⟩

/-- Each hypothesis of AdminPrograms (its clauses 17 to 24) is met. -/
theorem witness_AdminPrograms_3 :
    (∃ (s : State) (id : Nat) (j : Job),
      let a1 := (rd j 1).toNat
      let busy : Prop := s.admin.state = 1
      RunsLib s 0x028 id j ∧ a1 ≤ 2 ∧ ¬ busy ∧ a1 ≠ s.power.now ∧ s.power.target ≠ none) ∧
    (∃ (s : State) (id : Nat) (j : Job),
      let a1 := (rd j 1).toNat
      let busy : Prop := s.admin.state = 1
      RunsLib s 0x028 id j ∧ a1 ≤ 2 ∧ ¬ busy ∧ a1 = s.power.now) ∧
    (∃ (s : State) (id : Nat) (j : Job),
      let a1 := (rd j 1).toNat
      let busy : Prop := s.admin.state = 1
      RunsLib s 0x028 id j ∧ a1 ≤ 2 ∧ ¬ busy ∧ s.power.target = none ∧ a1 ≠ s.power.now) ∧
    (∃ (s : State) (id : Nat) (j : Job), RunsLib s 0x030 id j ∧ tabGet j.h 1 = none) ∧
    (∃ (s : State) (id : Nat) (j : Job), RunsLib s 0x030 id j ∧ ∃ h, tabGet j.h 1 = some h ∧
      let n := (rd j 9).toNat
      arrived s h.buf h.off (h.off + n) = false) ∧
    (∃ (s : State) (id : Nat) (j : Job) (img : ProgImage), RunsLib s 0x030 id j ∧ ∃ h, tabGet j.h 1 = some h ∧
      let n := (rd j 9).toNat
      let b := handleRead s h 0 n
      arrived s h.buf h.off (h.off + n) = true ∧ ∃ st, installCheck s b n img.sigOk = some st) ∧
    (∃ (s : State) (id : Nat) (j : Job) (img : ProgImage), RunsLib s 0x030 id j ∧ ∃ h, tabGet j.h 1 = some h ∧
      let n := (rd j 9).toNat
      let b := handleRead s h 0 n
      arrived s h.buf h.off (h.off + n) = true ∧ installCheck s b n img.sigOk = none ∧ img.flashOk = false) ∧
    (∃ (s : State) (id : Nat) (j : Job) (img : ProgImage), RunsLib s 0x030 id j ∧ ∃ h, tabGet j.h 1 = some h ∧
      let n := (rd j 9).toNat
      let b := handleRead s h 0 n
      arrived s h.buf h.off (h.off + n) = true ∧ installCheck s b n img.sigOk = none ∧ img.flashOk = true ∧ (askCommit s id).2 = true) :=
  ⟨⟨pw { now := 0, target := some (1, 9), exiting := false } (lib 0x28 [(1,2)]), 9,
     (jobOf (pw { now := 0, target := some (1, 9), exiting := false } (lib 0x28 [(1,2)])) 9).getD jobA, runsLib_of (by decide +kernel),
     by decide +kernel, by decide +kernel, (by decide +kernel), by decide +kernel⟩,
   ⟨lib 0x28 [(1,0)], 9, (jobOf (lib 0x28 [(1,0)]) 9).getD jobA, runsLib_of (by decide +kernel), by decide +kernel, by decide +kernel,
     by decide +kernel⟩,
   ⟨lib 0x28 [(1,2)], 9, (jobOf (lib 0x28 [(1,2)]) 9).getD jobA, runsLib_of (by decide +kernel), by decide +kernel, by decide +kernel,
     (by decide +kernel), by decide +kernel⟩,
   ⟨{ lib 0x30 [] with jobs := [(9, { libJob 0x30 [] with phase := .running 4 })] }, 9,
     (jobOf ({ lib 0x30 [] with jobs := [(9, { libJob 0x30 [] with phase := .running 4 })] }) 9).getD jobA,
     runsLib_of (by decide +kernel), by decide +kernel⟩,
   ⟨noArr (inst 0x100 0 1 3), 9, (jobOf (noArr (inst 0x100 0 1 3)) 9).getD jobA, runsLib_of (by decide +kernel), _,
     got (by decide +kernel), by dsimp only; decide +kernel⟩,
   ⟨inst 0x100 0 1 3, 9, (jobOf (inst 0x100 0 1 3) 9).getD jobA, { sigOk := true, flashOk := true }, runsLib_of (by decide +kernel), _,
     got (by decide +kernel), by decide +kernel, _, got (by decide +kernel)⟩,
   ⟨inst 0x0AB 0 0 3, 9, (jobOf (inst 0x0AB 0 0 3) 9).getD jobA, { sigOk := true, flashOk := false }, runsLib_of (by decide +kernel), _,
     got (by decide +kernel), by decide +kernel, by decide +kernel, by decide +kernel⟩,
   ⟨inst 0x0AB 0 0 3, 9, (jobOf (inst 0x0AB 0 0 3) 9).getD jobA, { sigOk := true, flashOk := true }, runsLib_of (by decide +kernel), _,
     got (by decide +kernel), by decide +kernel, by decide +kernel, (by decide +kernel), by decide +kernel⟩⟩

/-- Each hypothesis of AdminPrograms (its clauses 25 to 32) is met. -/
theorem witness_AdminPrograms_4 :
    (∃ (s : State) (id : Nat) (j : Job),
      let a1 := (rd j 1).toNat
      RunsLib s 0x031 id j ∧ 0x3FF < a1) ∧
    (∃ (s : State) (id : Nat) (j : Job),
      let a1 := (rd j 1).toNat
      RunsLib s 0x031 id j ∧ a1 < 0x100) ∧
    (∃ (s : State) (id : Nat) (j : Job),
      let a1 := (rd j 1).toNat
      RunsLib s 0x031 id j ∧ 0x100 ≤ a1 ∧ a1 ≤ 0x3FF ∧ slotProg s a1 = none) ∧
    (∃ (s : State) (id : Nat) (j : Job),
      let a1 := (rd j 1).toNat
      RunsLib s 0x031 id j ∧ 0x100 ≤ a1 ∧ a1 ≤ 0x3FF ∧ slotProg s a1 ≠ none ∧ hkNames s a1 = true) ∧
    (∃ (s : State) (id : Nat) (j : Job),
      let a1 := (rd j 1).toNat
      RunsLib s 0x031 id j ∧ 0x100 ≤ a1 ∧ a1 ≤ 0x3FF ∧ slotProg s a1 ≠ none ∧ hkNames s a1 = false ∧ s.cutover ≠ none) ∧
    (∃ (s : State) (id : Nat) (j : Job),
      let a1 := (rd j 1).toNat
      RunsLib s 0x031 id j ∧ 0x100 ≤ a1 ∧ a1 ≤ 0x3FF ∧ slotProg s a1 ≠ none ∧ hkNames s a1 = false ∧ s.cutover = none ∧ (askCommit s
        id).2 = true) ∧
    (∃ (s : State) (id : Nat) (j : Job),
      let a1 := (rd j 1).toNat
      RunsLib s 0x032 id j ∧ 0x3FF < a1) ∧
    (∃ (s : State) (id : Nat) (j : Job),
      let a1 := (rd j 1).toNat
      RunsLib s 0x032 id j ∧ a1 ≤ 0x3FF) :=
  ⟨⟨lib 0x31 [(1,0x400)], 9, (jobOf (lib 0x31 [(1,0x400)]) 9).getD jobA, runsLib_of (by decide +kernel), by decide +kernel⟩,
   ⟨lib 0x31 [(1,0xFF)], 9, (jobOf (lib 0x31 [(1,0xFF)]) 9).getD jobA, runsLib_of (by decide +kernel), by decide +kernel⟩,
   ⟨lib 0x31 [(1,0x100)], 9, (jobOf (lib 0x31 [(1,0x100)]) 9).getD jobA, runsLib_of (by decide +kernel), by decide +kernel,
     by decide +kernel, by decide +kernel⟩,
   ⟨F1 (withSlot 0x100 (lib 0x31 [(1,0x100)])) 0 (F.ENGINE.HK_SLOT 1) 0x100, 9,
     (jobOf (F1 (withSlot 0x100 (lib 0x31 [(1,0x100)])) 0 (F.ENGINE.HK_SLOT 1) 0x100) 9).getD jobA, runsLib_of (by decide +kernel),
     by decide +kernel, by decide +kernel, (by decide +kernel), by decide +kernel⟩,
   ⟨cut { slot := 3, prog := none, tb := none } (withSlot 0x100 (lib 0x31 [(1,0x100)])), 9,
     (jobOf (cut { slot := 3, prog := none, tb := none } (withSlot 0x100 (lib 0x31 [(1,0x100)]))) 9).getD jobA,
     runsLib_of (by decide +kernel), by decide +kernel, by decide +kernel, (by decide +kernel), by decide +kernel, by decide +kernel⟩,
   ⟨withSlot 0x100 (lib 0x31 [(1,0x100)]), 9, (jobOf (withSlot 0x100 (lib 0x31 [(1,0x100)])) 9).getD jobA,
     runsLib_of (by decide +kernel), by decide +kernel, by decide +kernel, (by decide +kernel), by decide +kernel, by decide +kernel,
     by decide +kernel⟩,
   ⟨lib 0x32 [(1,0x400)], 9, (jobOf (lib 0x32 [(1,0x400)]) 9).getD jobA, runsLib_of (by decide +kernel), by decide +kernel⟩,
   ⟨lib 0x32 [(1,0x32)], 9, (jobOf (lib 0x32 [(1,0x32)]) 9).getD jobA, runsLib_of (by decide +kernel), by decide +kernel⟩⟩

/-- Each hypothesis of AdminPrograms (its clauses 33 to 40) is met. -/
theorem witness_AdminPrograms_5 :
    (∃ (s : State) (id : Nat) (j : Job), RunsLib s 0x040 id j ∧
      let st := (ctlGetOp s (rd j 1) j.slate).1
      let e := (ctlGetOp s (rd j 1) j.slate).2
      ctlGetOp s (rd j 1) j.slate = (st, e)) ∧
    (∃ (s : State) (id : Nat) (j : Job), RunsLib s 0x041 id j ∧
      let g := ctlGrant s (rd j 1) j.slate
      ∃ st, ctlCheck g (rd j 1) j.slate = some st) ∧
    (∃ (s : State) (id : Nat) (j : Job), RunsLib s 0x041 id j ∧
      let g := ctlGrant s (rd j 1) j.slate
      let t := (ctlSetOp g id (rd j 1) j.slate (rd j 2)).1
      ∃ j', jobOf t id = some j' ∧ ctlSetOp g id (rd j 1) j.slate (rd j 2) = (t, St.ok, none) ∧ j'.ended = none) ∧
    (∃ (s : State) (id : Nat) (j : Job), RunsLib s 0x042 id j ∧
      let g := ctlGrant s (rd j 1) j.slate
      ∃ st, ctlCheck g (rd j 1) j.slate = some st) ∧
    (∃ (s : State) (id : Nat) (j : Job), RunsLib s 0x042 id j ∧
      let g := ctlGrant s (rd j 1) j.slate
      ctlCheck g (rd j 1) j.slate = none ∧ ctlRead g (rd j 1) j.slate ≠ rd j 2) ∧
    (∃ (s : State) (id : Nat) (j : Job), RunsLib s 0x042 id j ∧
      let g := ctlGrant s (rd j 1) j.slate
      let t := (ctlSwapOp g id (rd j 1) j.slate (rd j 2) (rd j 3)).1
      ∃ j', jobOf t id = some j' ∧
      let e := (ctlSwapOp g id (rd j 1) j.slate (rd j 2) (rd j 3)).2.2.1.getD 0
      ctlSwapOp g id (rd j 1) j.slate (rd j 2) (rd j 3) = (t, St.ok, some e, true, none) ∧ j'.ended = none) ∧
    (∃ (s : State), serving s 0 = true ∧ s.power.target = none) ∧
    (∃ (s : State), serving s 0 = true ∧
      let t := (s.power.target.getD (9,9)).1
      let id := (s.power.target.getD (9,9)).2
      ∃ j, jobOf s id = some j ∧ s.power.target = some (t, id) ∧ ((t = 2 ∧ othersEnded s id = false) ∨ powerBusy s = true)) :=
  ⟨⟨lib 0x40 [(1, A 5 0)], 9, (jobOf (lib 0x40 [(1, A 5 0)]) 9).getD jobA, runsLib_of (by decide +kernel), by dsimp only⟩,
   ⟨lib 0x41 [(1, A 0x13 0x10), (2, 600)], 9, (jobOf (lib 0x41 [(1, A 0x13 0x10), (2, 600)]) 9).getD jobA,
     runsLib_of (by decide +kernel), _, got (by decide +kernel)⟩,
   ⟨lib 0x41 [(1, A 5 0x10), (2, 600)], 9, (jobOf (lib 0x41 [(1, A 5 0x10), (2, 600)]) 9).getD jobA, runsLib_of (by decide +kernel), _,
     got (by decide +kernel), by decide +kernel, by decide +kernel⟩,
   ⟨lib 0x42 [(1, A 0x13 0x10), (2, 501), (3, 600)], 9, (jobOf (lib 0x42 [(1, A 0x13 0x10), (2, 501), (3, 600)]) 9).getD jobA,
     runsLib_of (by decide +kernel), _, got (by decide +kernel)⟩,
   ⟨lib 0x42 [(1, A 5 0x10), (2, 501), (3, 600)], 9, (jobOf (lib 0x42 [(1, A 5 0x10), (2, 501), (3, 600)]) 9).getD jobA,
     runsLib_of (by decide +kernel), by decide +kernel, by decide +kernel⟩,
   ⟨lib 0x42 [(1, A 5 0x10), (2, 500), (3, 600)], 9, (jobOf (lib 0x42 [(1, A 5 0x10), (2, 500), (3, 600)]) 9).getD jobA,
     runsLib_of (by decide +kernel), _, got (by decide +kernel), by decide +kernel, by decide +kernel⟩,
   ⟨san 2 (lib 0x20 [(1,1)]), by decide +kernel, by decide +kernel⟩,
   ⟨pw { now := 0, target := some (2, 9), exiting := false } (other (lib 0x28 [])), by decide +kernel, _, got (by decide +kernel),
     by decide +kernel, by decide +kernel⟩⟩

/-- Each hypothesis of AdminPrograms (its clauses 41 to 45) is met. -/
theorem witness_AdminPrograms_6 :
    (∃ (s : State), serving s 0 = true ∧
      let t := (s.power.target.getD (9,9)).1
      let id := (s.power.target.getD (9,9)).2
      ∃ j, jobOf s id = some j ∧ s.power.target = some (t, id) ∧ (t ≠ 2 ∨ othersEnded s id = true) ∧ powerBusy s = false) ∧
    (∃ (s : State), serving s 0 = true ∧ (s.power.now ≠ 2 ∨ s.power.exiting = false ∨ powerBusy s = true)) ∧
    (∃ (s : State), serving s 0 = true ∧ s.power.now = 2 ∧ s.power.exiting = true ∧ powerBusy s = false) ∧
    (∃ (s : State), serving s 0 = true ∧ (∀ c t, s.cutover = some c → c.tb = some t → now s 0 < t)) ∧
    (∃ (s : State), serving s 0 = true ∧ ∃ c, s.cutover = some c ∧ ∃ t, c.tb = some t ∧ t ≤ now s 0) :=
  ⟨⟨pw { now := 0, target := some (1, 9), exiting := false } (lib 0x28 [(1,2)]), by decide +kernel, _, got (by decide +kernel),
     by decide +kernel, by decide +kernel, by decide +kernel⟩,
   ⟨san 2 (lib 0x20 [(1,1)]), by decide +kernel, by decide +kernel⟩,
   ⟨pw { now := 2, target := none, exiting := true } (lib 0x28 []), by decide +kernel, by decide +kernel, (by decide +kernel),
     by decide +kernel⟩,
   ⟨san 2 (lib 0x20 [(1,1)]), by decide +kernel, by intro c t h; cases h⟩,
   ⟨cut { slot := 3, prog := none, tb := some 0 } (lib 0 []), by decide +kernel, _, got (by decide +kernel), _, got (by decide +kernel),
     by decide +kernel⟩⟩

end AdminPrograms

namespace PowerAndRecovery

def s0 : State := withJob (unit 2) jobA

def sOff : State := { unit 2 with mod := { State.reset.mod with power := .off } }

def sRst : State := { State.reset with n := 4 }

def sVco : State := { s0 with mod := { s0.mod with vcoLost := true } }

def sRec : State := { withMember s0 3 memb with recovery := 2, durable := { s0.durable with holders := [(0, [1,3])] }, lease := { s0.lease with lapsed := true, epoch := 4 } }

def im (ok : Bool) : BankImage := { rootMatches := true, stepping := 0xB0, secVersion := 3, fits := true, testImage := false, sigOk := ok, release := 1, measure := [1] }

/-- Each hypothesis of PowerAndRecovery (its clauses 1 to 8) is met. -/
theorem witness_PowerAndRecovery_1 :
    (∃ (s : State) (p : StartPins),
      let may : Prop := s.mod.power = .off ∧ 50000000 ≤ p.lmLowNs ∧ p.pcycHigh = true ∧ s.mod.trip = false ∧ s.mod.offTime = false
      (¬ may ∨ max p.feedA p.feedB ≤ 37000)) ∧
    (∃ (s : State) (p : StartPins),
      let may : Prop := s.mod.power = .off ∧ 50000000 ≤ p.lmLowNs ∧ p.pcycHigh = true ∧ s.mod.trip = false ∧ s.mod.offTime = false
      may ∧ 39500 < max p.feedA p.feedB) ∧
    (∃ (s : State),
      let on : Prop := s.mod.power ≠ .off
      on) ∧
    (∃ (s : State),
      let on : Prop := s.mod.power ≠ .off
      ¬ on) ∧
    (∃ (s : State) (low : Nat), low < 180000) ∧
    (∃ (s : State),
      let on : Prop := s.mod.power ≠ .off
      ∃ (low : Nat), 200000 ≤ low ∧ on) ∧
    (∃ (s : State) (a : Nat) (b : Nat), 36000 ≤ max a b) ∧
    (∃ (s : State),
      let on : Prop := s.mod.power ≠ .off
      ∃ (a : Nat) (b : Nat), max a b < 32000 ∧ on) :=
  ⟨⟨s0, { feedA := 48000, feedB := 0, lmLowNs := 50000000, pcycHigh := true }, by dsimp only; decide +kernel⟩,
   ⟨sOff, { feedA := 48000, feedB := 0, lmLowNs := 50000000, pcycHigh := true }, by decide +kernel, by decide +kernel⟩,
   ⟨s0, by dsimp only; decide +kernel⟩,
   ⟨sOff, by dsimp only; decide +kernel⟩,
   ⟨s0, 0, by decide +kernel⟩,
   ⟨s0, 200000, by decide +kernel, by decide +kernel⟩,
   ⟨s0, 0, 179999, by decide +kernel⟩,
   ⟨s0, 0, 0, by decide +kernel, by decide +kernel⟩⟩

/-- Each hypothesis of PowerAndRecovery (its clauses 9 to 16) is met. -/
theorem witness_PowerAndRecovery_2 :
    (∃ (s : State),
      let on : Prop := s.mod.power ≠ .off
      ∃ (l : List Diode),
      let trip : Prop := ∃ d ∈ l, d.slate < s.n ∧ (if d.hbm then 105 else 115) ≤ d.temp
      on ∧ trip) ∧
    (∃ (s : State) (l : List Diode),
      let trip : Prop := ∃ d ∈ l, d.slate < s.n ∧ (if d.hbm then 105 else 115) ≤ d.temp
      let warm : Prop := ∃ d ∈ l, d.slate < s.n ∧ (if d.hbm then 90 else 100) ≤ d.temp
      s.mod.power = .running ∧ ¬ trip ∧ warm) ∧
    (∃ (s : State) (l : List Diode),
      let cool : Prop := ∀ d ∈ l, d.slate < s.n → d.temp ≤ (if d.hbm then 85 else 95)
      s.mod.power = .running ∧ cool) ∧
    (∃ (s : State) (l : List Diode),
      let warm : Prop := ∃ d ∈ l, d.slate < s.n ∧ (if d.hbm then 90 else 100) ≤ d.temp
      let cool : Prop := ∀ d ∈ l, d.slate < s.n → d.temp ≤ (if d.hbm then 85 else 95)
      s.mod.power = .running ∧ ¬ warm ∧ ¬ cool) ∧
    (∃ (s : State), s.mod.power = .running) ∧
    (∃ (s : State), s.mod.power ≠ .running) ∧
    (∃ (s : State), s.mod.vcoLost = false) ∧
    (∃ (s : State),
      let on : Prop := s.mod.power ≠ .off
      s.mod.vcoLost = true ∧ on) :=
  ⟨⟨s0, [{ slate := 0, hbm := true, temp := 105 }], by decide +kernel, by decide +kernel⟩,
   ⟨s0, [{ slate := 0, hbm := true, temp := 104 }], by decide +kernel, by decide +kernel, by decide +kernel⟩,
   ⟨s0, [], by decide +kernel, by decide +kernel⟩,
   ⟨s0, [{ slate := 1, hbm := false, temp := 96 }], by decide +kernel, by decide +kernel, by decide +kernel⟩,
   ⟨s0, by decide +kernel⟩,
   ⟨sOff, by decide +kernel⟩,
   ⟨s0, by decide +kernel⟩,
   ⟨sVco, by decide +kernel, by decide +kernel⟩⟩

/-- Each hypothesis of PowerAndRecovery (its clauses 17 to 24) is met. -/
theorem witness_PowerAndRecovery_3 :
    (∃ (s : State),
      let ready : Prop := s.mod.power = .inReset ∧ s.pin.romHold = false
      ¬ ready) ∧
    (∃ (s : State) (b : BootIn),
      let good (i : BankImage) : Prop := i.rootMatches = true ∧ i.stepping = 0x00B0 ∧ s.secure.fwMin ≤ i.secVersion ∧ i.fits = true ∧
        (i.testImage = true → s.secure.stage = .test) ∧ i.sigOk = true
      let prefB := s.secure.preferB.getD b.preferB
      let bank (z : Bool) : BankImage := if z then s.secure.flashB.getD b.bankB else s.secure.flashA.getD b.bankA
      let ready : Prop := s.mod.power = .inReset ∧ s.pin.romHold = false
      ready ∧ (s.secure.stage = .scrapped ∨ (¬ good (bank prefB) ∧ ¬ good (bank !prefB)))) ∧
    (∃ (s : State) (b : BootIn),
      let good (i : BankImage) : Prop := i.rootMatches = true ∧ i.stepping = 0x00B0 ∧ s.secure.fwMin ≤ i.secVersion ∧ i.fits = true ∧
        (i.testImage = true → s.secure.stage = .test) ∧ i.sigOk = true
      let prefB := s.secure.preferB.getD b.preferB
      let bank (z : Bool) : BankImage := if z then s.secure.flashB.getD b.bankB else s.secure.flashA.getD b.bankA
      let ready : Prop := s.mod.power = .inReset ∧ s.pin.romHold = false
      ready ∧ s.secure.stage ≠ .scrapped ∧ good (bank prefB)) ∧
    (∃ (s : State) (b : BootIn),
      let good (i : BankImage) : Prop := i.rootMatches = true ∧ i.stepping = 0x00B0 ∧ s.secure.fwMin ≤ i.secVersion ∧ i.fits = true ∧
        (i.testImage = true → s.secure.stage = .test) ∧ i.sigOk = true
      let prefB := s.secure.preferB.getD b.preferB
      let bank (z : Bool) : BankImage := if z then s.secure.flashB.getD b.bankB else s.secure.flashA.getD b.bankA
      let ready : Prop := s.mod.power = .inReset ∧ s.pin.romHold = false
      ready ∧ s.secure.stage ≠ .scrapped ∧ ¬ good (bank prefB) ∧ good (bank !prefB)) ∧
    (∃ (s : State), serving s 0 = true ∧
      let due : Prop := s.recovery = 2 ∧ s.quorum = true ∧ s.lease.role = 1 ∧ isF s 0 F.FPIN.C4 = false
      ¬ due) ∧
    (∃ (s : State) (cs : List JournalCopy), serving s 0 = true ∧
      let due : Prop := s.recovery = 2 ∧ s.quorum = true ∧ s.lease.role = 1 ∧ isF s 0 F.FPIN.C4 = false
      let lost : Prop := ∃ o < s.n, ∃ hs, lastHolders s cs o = some hs ∧ hs ≠ [] ∧ ∀ c ∈ cs, c.owner = o → copyReadable s c = true →
        liveToEnd s o c.holder = true → c.holder ∉ hs
      due ∧ lost) ∧
    (∃ (s : State) (cs : List JournalCopy), serving s 0 = true ∧
      let due : Prop := s.recovery = 2 ∧ s.quorum = true ∧ s.lease.role = 1 ∧ isF s 0 F.FPIN.C4 = false
      let lost : Prop := ∃ o < s.n, ∃ hs, lastHolders s cs o = some hs ∧ hs ≠ [] ∧ ∀ c ∈ cs, c.owner = o → copyReadable s c = true →
        liveToEnd s o c.holder = true → c.holder ∉ hs
      due ∧ ¬ lost) ∧
    (∃ (s : State) (m : Nat), memberSlate m < s.n ∧ serving s 0 = true ∧ hasPath s m = true) :=
  ⟨⟨s0, by dsimp only; decide +kernel⟩,
   ⟨sRst, { bankA := im false, bankB := im false, preferB := true, badSlots := [], bayHigh := false }, by decide +kernel,
     by decide +kernel⟩,
   ⟨sRst, { bankA := im true, bankB := im false, preferB := false, badSlots := [], bayHigh := true }, by decide +kernel,
     by decide +kernel, by decide +kernel⟩,
   ⟨sRst, { bankA := im true, bankB := im false, preferB := true, badSlots := [0], bayHigh := false }, by decide +kernel,
     by decide +kernel, (by decide +kernel), by decide +kernel⟩,
   ⟨s0, by decide +kernel, by dsimp only; decide +kernel⟩,
   ⟨sRec, [], by decide +kernel, by decide +kernel, by decide +kernel⟩,
   ⟨sRec, [{ owner := 0, holder := 1, upTo := 3, torn := [] }], by decide +kernel, by decide +kernel, by decide +kernel⟩,
   ⟨s0, 0, by decide +kernel, by decide +kernel, by decide +kernel⟩⟩

end PowerAndRecovery

namespace MemberAndLinkCommandsComplete

def cm (u : DrvUse) (ab : Option Nat) : DrvCmd := { opcode := 2, admin := false, fua := false, queue := some 1, sqe := List.replicate 64 0, lba := 5 * 32, use := u, tb := 100, timeout := 500, grace := 50, readyMx := 60, aborted := ab }

def tk (b : Option Handle) : Ticket := { crd := false, member := 3, opcode := 2, buf := b, first := 0, count := 1, result := none }

def jT : Job := { jobA with tickets := [(1, tk none)] }

def sM (t : Nat) (x : Member) : State := withMember (at_ (withJob (pool 2) jT) t) 3 x

def lk (n : Nat) (s : State) : State := { s with links := (List.range (4 * n)).filterMap fun k => if linkNeigh n (k / 4) (k % 4) = k / 4 then none else some (k, ({ up := true, retrain := none } : LinkState)) }

def en (n : Nat) (s : State) : State := (List.range (4 * n)).foldl (fun s k => F1 s (k / 4) (F.FABRIC.EN (k % 4)) 1) s

def sw (n : Nat) : State := F1 (en n (lk n (at_ (unit n) 1000000))) 0 F.PORT.LINK_UP 1

def fq (id slate port cls bytes : Nat) (outs : List (Nat × Nat)) : Nat × Frame := (id, { slate := slate, inPort := port, cls := cls, bytes := bytes, outs := outs, path := [], lane := 0, key := 0, dst := slate, dstPort := 0, dstSub := 0, home := slate, tver := 0, entry := port, head := 0, waiting := false, stalled := false, mask := 0, group := none, dgram := none, job := none })

def gl (s : State) (len cyc base : Nat) (es : List (Nat × Nat)) : State := (List.range 8).foldl (fun s i => match es[i]? with | some (m, d) => F1 (F1 s 0 (F.SCHED.OPEN i) m) 0 (F.SCHED.DURATION i) d | none => s) (F1 (F1 (F1 s 0 F.SCHED.GL_LEN len) 0 F.SCHED.CYCLE cyc) 0 F.SCHED.BASE base)

def gsl (st : Nat) : GateList := { entries := [(0xFF, 3000), (0x80, 5000)], cycle := 8000, start := st }

def gs (o p : Option GateList) : State := { sw 2 with gates := [(0, { oper := o, pend := p, entry := 0 })] }

def pk (m since : Nat) (r : Bool) : State := { F1 (sw 2) 0 F.SWITCH.PEER_PAUSE_MAX m with peerPause := [(3, { since := since, raised := r })] }

def rt (n l t : Nat) : State := { sw n with links := tabPut (sw n).links l { up := true, retrain := some t } }

def mc : State := { sw 2 with mcast := [(4, { slate := 0, left := 0, result := 3 }), (5, { slate := 0, left := 1, result := 3 }), (7, { slate := 1, left := 0, result := 3 })] }

def wf (id tv : Nat) (wt : Bool) (outs : List (Nat × Nat)) : Nat × Frame := (id, { (fq id 0 1 3 100 outs).2 with tver := tv, waiting := wt })

def lw (tv : Nat) : State := { sw 2 with frames := [wf 4 tv false [(2, 0)], wf 5 6 true [(2, 0), (3, 1)], wf 7 6 true [(0, 0)]], nextFrame := 8 }

def sb (b tv : Nat) : State := { lw tv with barrier := [(0, b)] }

def glv (len en : Nat) : Word := BitVec.ofNat 64 (len + en * 128)

/-- Each hypothesis of MemberAndLinkCommandsComplete (its clauses 1 to 7) is met. -/
theorem witness_MemberAndLinkCommandsComplete_1 :
    (∃ (s : State) (m : Nat), memberSlate m < s.n ∧ serving s 0 = true ∧ hasPath s m = true ∧
      let x := memberOf s m
      x.link = true ∧ x.mstate = 2 ∧ x.cmds = []) ∧
    (∃ (s : State) (m : Nat), memberSlate m < s.n ∧ serving s 0 = true ∧ hasPath s m = true ∧
      let x := memberOf s m
      let sl := portSlate s m
      ∃ (i : Nat), ∃ c, tabGet x.cmds i = some c ∧ c.use ≠ .sanitize ∧ c.aborted = none ∧ c.queue ≠ none ∧ c.tb + c.timeout ≤ now s sl ∧
        i ≠ s.nextCmd) ∧
    (∃ (s : State) (m : Nat), memberSlate m < s.n ∧ serving s 0 = true ∧ hasPath s m = true ∧
      let x := memberOf s m
      let sl := portSlate s m
      ∃ (i : Nat), ∃ c, tabGet x.cmds i = some c ∧ ∃ a, c.aborted = some a ∧ x.resetAt = none ∧ a + c.grace ≤ now s sl) ∧
    (∃ (s : State) (m : Nat), memberSlate m < s.n ∧ serving s 0 = true ∧ hasPath s m = true ∧
      let x := memberOf s m
      let sl := portSlate s m
      ∃ a, x.resetAt = some a ∧ a + readyLimit s m ≤ now s sl ∧ x.mstate = 2 ∧ x.cmds = []) ∧
    (∃ (s : State) (m : Nat), memberSlate m < s.n ∧ serving s 0 = true ∧ hasPath s m = true ∧
      let x := memberOf s m
      x.resetAt ≠ none ∧ x.cmds = []) ∧
    (∃ (s : State) (m : Nat), memberSlate m < s.n ∧ serving s 0 = true ∧ hasPath s m = true ∧
      let x := memberOf s m
      ∃ (i : Nat), ∃ c, tabGet x.cmds i = some c ∧ c.queue ≠ none ∧ (c.use = .internal ∨ (∃ j k, c.use = .ticket j k))) ∧
    (∃ (s : State) (m : Nat), memberSlate m < s.n ∧ serving s 0 = true ∧ hasPath s m = true ∧
      let x := memberOf s m
      x.present = true ∧ x.mstate = 2 ∧ x.cmds = []) :=
  ⟨⟨sM 700 memb, 3, by decide +kernel, by decide +kernel, (by decide +kernel), by decide +kernel, by decide +kernel, by decide +kernel⟩,
   ⟨sM 700 ({ memb with cmds := [(7, cm (.ticket 9 1) none)] }), 3, by decide +kernel, by decide +kernel, (by decide +kernel), 7, _,
     got (by decide +kernel), by decide +kernel, by decide +kernel, (by decide +kernel), by decide +kernel, by decide +kernel⟩,
   ⟨sM 700 ({ memb with cmds := [(7, cm (.ticket 9 1) (some 620))] }), 3, by decide +kernel, by decide +kernel, (by decide +kernel), 7, _,
     got (by decide +kernel), _, got (by decide +kernel), by decide +kernel, by decide +kernel⟩,
   ⟨F1 (sM 700 { memb with resetAt := some 700 }) 0 F.DRIVE.READY_MAX 0, 3, by decide +kernel, by decide +kernel, (by decide +kernel), _,
     got (by decide +kernel), by decide +kernel, by decide +kernel, by decide +kernel⟩,
   ⟨sM 700 ({ memb with resetAt := some 700 }), 3, by decide +kernel, by decide +kernel, (by decide +kernel), by decide +kernel,
     by decide +kernel⟩,
   ⟨sM 700 ({ memb with cmds := [(7, cm (.ticket 9 1) none)] }), 3, by decide +kernel, by decide +kernel, (by decide +kernel), 7, _,
     got (by decide +kernel), by decide +kernel, .inr ⟨_, _, rfl⟩⟩,
   ⟨sM 700 memb, 3, by decide +kernel, by decide +kernel, (by decide +kernel), by decide +kernel, by decide +kernel, by decide +kernel⟩⟩

/-- Each hypothesis of MemberAndLinkCommandsComplete (its clauses 8 to 14) is met. -/
theorem witness_MemberAndLinkCommandsComplete_2 :
    (∃ (s : State) (sl : Nat), serving s sl = true ∧ ∃ (v : Word), legal s sl 0x07 0x240 (withF v F.SCHED.GL_INSTALL 1) = true) ∧
    (∃ (s : State) (sl : Nat), serving s sl = true ∧ ∃ (v : Word), legal s sl 0x07 0x240 (withF (withF v F.SCHED.GL_INSTALL 0)
      F.SCHED.GL_EN 0) = true) ∧
    (∃ (s : State) (sl : Nat), serving s sl = true ∧ ∃ l, (gatesOf s sl).pend = some l ∧ l.start ≤ now s sl) ∧
    (∃ (s : State) (sl : Nat), serving s sl = true ∧ ∃ l, (gatesOf s sl).oper = some l) ∧
    (∃ (s : State) (sl : Nat), serving s sl = true ∧ ∃ (c : Nat), ∃ p, tabGet s.peerPause (sl * 8 + c) = some p ∧ c < 8 ∧ s.pin.shadows
      = [] ∧ p.raised = false ∧ getF s sl F.SWITCH.PEER_PAUSE_MAX ≠ 0 ∧ p.since + getF s sl F.SWITCH.PEER_PAUSE_MAX * 1000000 ≤ now s
      sl) ∧
    (∃ (s : State) (sl : Nat), serving s sl = true ∧ ∃ (id : Nat), ∃ m, tabGet s.mcast id = some m ∧ m.slate = sl ∧ m.left = 0) ∧
    (∃ (s : State) (sl : Nat), serving s sl = true ∧ ∃ (id : Nat), ∃ f, tabGet s.frames id = some f ∧ f.slate = sl ∧ f.waiting = true ∧
      f.stalled = false ∧ olderFrames s f.home f.cls f.dst f.tver = false ∧ flowAhead s id f.home f.key f.path = false ∧ (∀ o ∈ f.outs,
      o.1 ≠ 0) ∧ f.outs ≠ []) :=
  ⟨⟨gl (sw 2) 2 8000 7 [(0xFF, 3000), (0x80, 5000)], 0, by decide +kernel, glv 2 1, by decide +kernel⟩,
   ⟨sM 700 memb, 0, by decide +kernel, glv 2 1, by decide +kernel⟩,
   ⟨gs none (some (gsl 1000000)), 0, by decide +kernel, _, got (by decide +kernel), by decide +kernel⟩,
   ⟨gs (some (gsl 5)) (some (gsl 1000001)), 0, by decide +kernel, _, got (by decide +kernel)⟩,
   ⟨pk 1 0 false, 0, by decide +kernel, 3, _, got (by decide +kernel), by decide +kernel, by decide +kernel, (by decide +kernel),
     by decide +kernel, by decide +kernel⟩,
   ⟨mc, 0, by decide +kernel, 4, _, got (by decide +kernel), by decide +kernel, by decide +kernel⟩,
   ⟨lw 6, 0, by decide +kernel, 5, _, got (by decide +kernel), by decide +kernel, by decide +kernel, (by decide +kernel),
     by decide +kernel, by decide +kernel, (by decide +kernel), by decide +kernel⟩⟩

/-- Each hypothesis of MemberAndLinkCommandsComplete (its clauses 15 to 20) is met. -/
theorem witness_MemberAndLinkCommandsComplete_3 :
    (∃ (s : State) (sl : Nat), serving s sl = true ∧ ∃ (v : Word), legal s sl 0x04 2 (withF v F.SWITCH.SWB 1) = true) ∧
    (∃ (s : State) (sl : Nat), serving s sl = true ∧ ∃ (b : Nat), tabGet s.barrier sl = some b ∧ barrierHeld s sl b = false) ∧
    (∃ (s : State) (sl : Nat), serving s sl = true ∧ sl ≤ 1 ∧ s.pin.shadows = []) ∧
    (∃ (s : State) (sl : Nat), serving s sl = true ∧ ∃ (l : Nat), Variant s ∧ l < 4 ∧ s.pin.shadows = [] ∧ linkUp s sl l = true ∧
      (linkOf s sl l).retrain = none) ∧
    (∃ (s : State) (sl : Nat), serving s sl = true ∧ ∃ (l : Nat), Variant s ∧ l < 4 ∧ s.pin.shadows = [] ∧ ∃ (a : Nat), linkOf s sl l =
      { up := true, retrain := some a } ∧ serving s (linkNeigh s.n sl l) = true ∧ a + 10000 ≤ now s sl ∧ (∀ b, b ≠ sl → serving s b =
      true → pathOf (linkDead s sl l) sl b 0 ≠ none)) ∧
    (∃ (s : State) (sl : Nat), serving s sl = true ∧ ∃ (l : Nat), Variant s ∧ l < 4 ∧ s.pin.shadows = [] ∧ serving s (linkNeigh s.n sl
      l) = true) :=
  ⟨⟨sM 700 memb, 0, by decide +kernel, glv 2 0, by decide +kernel⟩,
   ⟨sb 6 6, 0, by decide +kernel, _, got (by decide +kernel), by decide +kernel⟩,
   ⟨sM 700 memb, 0, by decide +kernel, by decide +kernel, by decide +kernel⟩,
   ⟨sw 2, 0, by decide +kernel, 3, variant_of (by decide +kernel), by decide +kernel, by decide +kernel, (by decide +kernel),
     by decide +kernel⟩,
   ⟨rt 8 3 5, 0, by decide +kernel, 3, variant_of (by decide +kernel), by decide +kernel, by decide +kernel, 5, by decide +kernel,
     by decide +kernel, (by decide +kernel), allServing (by decide +kernel)⟩,
   ⟨sM 700 memb, 0, by decide +kernel, 3, variant_of (by decide +kernel), by decide +kernel, by decide +kernel, by decide +kernel⟩⟩

end MemberAndLinkCommandsComplete

end Sys2Proof.Tests
end

section
/-! The scope of the model: every command completes or names a slate the variant has not, and every step keeps the variant, the queue
and the canonical form of memory.

`Preserves` is what no command and no nanosecond may break. The laws of `Laws/Keeps` and `Laws/Mem` say it of each operation;
here it is carried through the forms of a meaning (`onSlate`, `issue`, `onLib`, …) and then to each command: a command's proof
splits along the branches of its meaning, and on each branch `simp` composes the laws of the operations the branch runs. -/

namespace Sys2Proof.Scope

open Sys2Proof Sys2Proof.Machine

/-! ### What every operation preserves -/

/-- The variant and the waiting commands stay, and memory in canonical form stays so (R2, R28). -/
structure Preserves (s t : State) : Prop where
  kept : Kept s t
  mem : BytesOk s.hbm → BytesOk t.hbm

theorem preserves_iff {s t : State} :
    Preserves s t ↔ t.n = s.n ∧ t.pending = s.pending ∧ (BytesOk s.hbm → BytesOk t.hbm) :=
  ⟨fun ⟨⟨hn, hp⟩, hm⟩ => ⟨hn, hp, hm⟩, fun ⟨hn, hp, hm⟩ => ⟨⟨hn, hp⟩, hm⟩⟩

namespace Preserves

theorem refl (s : State) : Preserves s s := ⟨⟨rfl, rfl⟩, id⟩

theorem trans {s t u : State} (h : Preserves s t) (h' : Preserves t u) : Preserves s u :=
  ⟨⟨h'.kept.1.trans h.kept.1, h'.kept.2.trans h.kept.2⟩, h'.mem ∘ h.mem⟩

theorem of_hbm {s t : State} (hk : Kept s t) (hm : t.hbm = s.hbm) : Preserves s t := ⟨hk, fun h => hm ▸ h⟩

theorem ite {c : Prop} [Decidable c] {s a b : State} (ha : Preserves s a) (hb : Preserves s b) :
    Preserves s (if c then a else b) := by
  split
  · exact ha
  · exact hb

end Preserves

theorem foldl_preserves {α : Type} {f : State → α → State} (l : List α) (s : State) (h : ∀ s a, Preserves s (f s a)) :
    Preserves s (l.foldl f s) := by
  induction l generalizing s with
  | nil => exact .refl s
  | cons a l ih => exact (h s a).trans (ih _)

theorem finish_preserves (s : State) (id : Nat) (j : Job) (len : Nat) : Preserves s (finish s id j len) :=
  .of_hbm (finish_keeps s id j len) (finish_hbm s id j len)

theorem trapJob_preserves (s : State) (id : Nat) (st : Status) : Preserves s (trapJob s id st) :=
  .of_hbm (trapJob_keeps s id st) (trapJob_hbm s id st)

theorem endLib_preserves (s : State) (id : Nat) (st : Status) (words : List Word) : Preserves s (endLib s id st words) :=
  .of_hbm (endLib_keeps s id st words) (endLib_hbm s id st words)

theorem sampleAfter_preserves (s : State) (id : Nat) : Preserves s (sampleAfter s id) :=
  ⟨sampleAfter_keeps s id, sampleAfter_memwf s id⟩

theorem hbmWrite_preserves (s : State) (a : Nat) (b : Block) : Preserves s (hbmWrite s a b) :=
  ⟨hbmWrite_keeps s a b, hbmWrite_memwf s a b⟩

theorem regWrite_preserves (s : State) (sl sp e : Nat) (v : Word) : Preserves s (regWrite s sl sp e v) :=
  ⟨regWrite_keeps s sl sp e v, regWrite_memwf s sl sp e v⟩

theorem handOver_preserves (s : State) (kind : DgKind) (d : Datagram) (k : KeyEntry) : Preserves s (handOver s kind d k) :=
  ⟨handOver_keeps s kind d k, handOver_memwf s kind d k⟩

theorem ingress_preserves (s : State) (d : Datagram) (c : Check) {pass : State → Datagram → KeyEntry → State}
    (h : ∀ s d k, Preserves s (pass s d k)) : Preserves s (ingress s d c pass) :=
  ⟨ingress_keeps _ _ _ _ fun s d k => (h s d k).kept, fun hm => ingress_memwf _ _ _ _ hm fun s d k => (h s d k).mem⟩

theorem rmaRequest_preserves (d : Datagram) (s : State) : Preserves s (rmaRequest d s) :=
  ⟨rmaRequest_keeps d s, rmaRequest_memwf d s⟩

theorem whenMapped_preserves {s : State} {id : Nat} {j : Job} {w : OnWake} {go : State → Nat → Job → State}
    (hk : ∀ s, Kept s (go s id j)) (hm : ∀ s, (go s id j).hbm = s.hbm) : Preserves s (whenMapped s id j w go) :=
  .of_hbm (whenMapped_keeps s id j w go hk) (whenMapped_hbm s id j w go hm)

theorem tick_preserves (s : State) : Preserves s (tick s) := ⟨tick_keeps s, tick_memwf s⟩

theorem withChunk_preserves {s : State} {sl copy chunk : Nat} {f : Copy → Chunk → State} (h : ∀ c k, Preserves s (f c k)) :
    Preserves s (withChunk s sl copy chunk f) := by
  unfold withChunk
  split
  · exact .refl s
  split
  · exact .refl s
  · exact .ite (.refl s) (h _ _)

/-- An instruction's checks (R50) trap or change nothing, so it preserves what its body preserves. -/
theorem issue_preserves (t : Thread) (s : State) (len : Nat) (legal keepOnly : Bool)
    {body : State → Nat → Job → State} (h : ∀ s id j, Preserves s (body s id j)) :
    Preserves s (issue t s len legal keepOnly body) := by
  have trap (s : State) (id : Nat) (st : Status) : Preserves s (sampleAfter (trapJob s id st) id) :=
    (trapJob_preserves s id st).trans (sampleAfter_preserves _ id)
  unfold issue
  split
  · exact .refl s
  split
  · exact .refl s
  refine .ite (.refl s) ?_
  extract_lets u v
  have hu : Preserves s u := .of_hbm (granted_keeps _ _ _ _) (granted_hbm _ _ _ _)
  have hv : Preserves u v := .of_hbm (beginInsn_keeps _ _ _) (beginInsn_hbm _ _ _)
  clear_value u v
  refine hu.trans (.ite (trapJob_preserves _ _ _) (hv.trans ?_))
  split
  · exact .refl v
  refine .ite (trap _ _ _) ?_
  extract_lets w
  have hw : Preserves v w := .of_hbm (fetchWords_keeps _ _ _ _) (fetchWords_hbm _ _ _ _)
  exact hw.trans (.ite (trap _ _ _) (.ite (trap _ _ _) (.ite (trap _ _ _) ((h _ _ _).trans (sampleAfter_preserves _ _)))))

/-! ### What a command may answer, by the form of its meaning -/

/-- A command, well formed where `wf` is true, answers a next state that the command preserves, or names a slate the variant has
not; on an SV8-8 no well-formed command does. -/
def SoundAnswer (wf : Bool) (s : State) (o : Out) : Prop :=
  (o = .fault .noSuchSlate ∧ (s.n = 8 → wf = false)) ∨ ∃ t, o = .next t ∧ Preserves s t

theorem next_sound {wf : Bool} {s t : State} (h : Preserves s t) : SoundAnswer wf s (.next t) := .inr ⟨t, rfl, h⟩

theorem missing_sound {wf : Bool} {sl : Nat} {s : State} (hw : wf = true → sl < 8) (hn : s.n ≤ sl) :
    SoundAnswer wf s (.fault .noSuchSlate) := by
  refine .inl ⟨rfl, fun h8 => Bool.eq_false_iff.2 fun hwf => ?_⟩
  have := hw hwf
  omega

theorem onSlate_sound {wf : Bool} {sl : Nat} {s : State} {f : State → State} (hw : wf = true → sl < 8)
    (h : Preserves s (f s)) : SoundAnswer wf s (onSlate sl s f) := by
  obtain ⟨hn, ho⟩ | ⟨-, -, ho⟩ | ⟨-, -, ho⟩ := onSlate_cases (s := s) (f := f) (sl := sl) rfl
  · exact ho ▸ missing_sound hw hn
  · exact .inr ⟨_, ho, h⟩
  · exact .inr ⟨_, ho, .refl s⟩

theorem onUnit_sound {wf : Bool} {s : State} {f : State → State} (h : Preserves s (f s)) : SoundAnswer wf s (onUnit s f) :=
  onSlate_sound (fun _ => by omega) h

theorem onMember_sound {wf : Bool} {m : Nat} {s : State} {f : State → State} (hw : wf = true → memberSlate m < 8)
    (h : Preserves s (f s)) : SoundAnswer wf s (onMember m s f) := by
  unfold onMember
  split
  · exact missing_sound hw ‹_›
  · exact onUnit_sound (.ite h (.refl s))

theorem onChain_sound {wf : Bool} {up : Bool} {f : ChainFrame} {s : State} {act : State → State}
    (h : Preserves s (act s)) : SoundAnswer wf s (onChain up f s act) := by
  unfold onChain
  split
  · exact next_sound (.of_hbm (modChain_keeps _ _) (modChain_hbm _ _))
  · exact onUnit_sound h

theorem onLib_sound {wf : Bool} {slot job : Nat} {s : State} {f : State → Job → State}
    (h : ∀ j, Preserves s (f s j)) : SoundAnswer wf s (onLib slot job s f) := by
  refine onUnit_sound ?_
  split
  · exact .ite (h _) (.refl s)
  · exact .refl s

/-! ### The slates of well-formed operands -/

theorem slate_lt {n : Nat} (h : WellFormed.slate n = true) : n < 8 := of_decide_eq_true h

theorem slate_lt_and {n : Nat} {b : Bool} (h : (WellFormed.slate n && b) = true) : n < 8 := slate_lt (Bool.and_elim_left h)

theorem slate_lt_and_and {n : Nat} {b c : Bool} (h : (WellFormed.slate n && b && c) = true) : n < 8 :=
  slate_lt_and (Bool.and_elim_left h)

theorem thread_lt {t : Thread} (h : WellFormed.thread t = true) : t.slate < 8 := slate_lt_and h

theorem member_lt {m : Nat} (h : WellFormed.member m = true) : memberSlate m < 8 := by
  have : m < 48 := of_decide_eq_true h
  unfold memberSlate
  omega

theorem hqSlate_lt (q : Nat) : hqSlate q < 8 := Nat.mod_lt _ (by decide)

theorem datagram_lt {type : BitVec 4} {d : Datagram} (h : WellFormed.datagram type d = true) : d.port < 8 :=
  slate_lt_and_and (Bool.and_elim_left h)

theorem frame_lt {f : FrameIn} (h : WellFormed.frame f = true) : f.slate < 8 := by
  unfold WellFormed.frame at h
  simp only [Bool.and_eq_true, and_assoc] at h
  exact slate_lt h.1

/-! ### Families of commands -/

theorem onThread_sound {t : Thread} {s : State} {f : State → State} (h : Preserves s (f s)) :
    SoundAnswer (WellFormed.thread t) s (onThread t s f) :=
  onSlate_sound thread_lt h

theorem insn_sound {t : Thread} {s : State} {len : Nat} {legal keepOnly : Bool} {body : State → Nat → Job → State}
    (h : ∀ s id j, Preserves s (body s id j)) :
    SoundAnswer (WellFormed.thread t) s (onThread t s fun s => issue t s len legal keepOnly body) :=
  onThread_sound (issue_preserves _ _ _ _ _ h)

theorem alu_sound {t : Thread} {len : Nat} {legal : Bool} {op : Job → Job} (s : State) :
    SoundAnswer (WellFormed.thread t) s (aluInsn t len legal op s) :=
  insn_sound fun s id j => finish_preserves s id (op j) len

theorem scrLoad_sound (o : IForm) (size : Nat) (s : State) : SoundAnswer (WellFormed.thread o.t) s (scrLoad o size s) := by
  refine insn_sound fun s id j => ?_
  dsimp only
  split
  · exact trapJob_preserves s id _
  · exact finish_preserves s id _ 1

theorem scrStore_sound (o : IForm) (size : Nat) (s : State) : SoundAnswer (WellFormed.thread o.t) s (scrStore o size s) := by
  refine insn_sound fun s id j => ?_
  dsimp only
  split
  · exact trapJob_preserves s id _
  · exact finish_preserves s id _ 1

theorem atomic_sound {o : R3} {s : State} {body : State → Nat → Job → Nat → Word → State}
    (h : ∀ s id j a old, Preserves s (body s id j a old)) :
    SoundAnswer (WellFormed.thread o.t) s (atomicInsn o s body) := by
  refine insn_sound fun s id j => ?_
  dsimp only
  split
  · exact trapJob_preserves s id _
  · refine .ite (.of_hbm (lostHomeJob_keeps s id) (lostHomeJob_hbm s id)) ?_
    refine .trans ?_ (.ite (.of_hbm (poisonJob_keeps _ id _) (poisonJob_hbm _ id _)) (h _ _ _ _ _))
    simp [preserves_iff]

theorem regOp_sound {wf : Bool} {sl sp e : Nat} {v : Word} (hw : wf = true → sl < 8) (s : State) :
    SoundAnswer wf s (onSlate sl s fun s => regWrite s sl sp e v) :=
  onSlate_sound hw (regWrite_preserves s sl sp e v)

theorem guardedRegOp_sound {wf : Bool} {sl sp e : Nat} {v : Word} {c : Prop} [Decidable c] (hw : wf = true → sl < 8)
    (s : State) : SoundAnswer wf s (onSlate sl s fun s => if c then regWrite s sl sp e v else s) :=
  onSlate_sound hw (.ite (regWrite_preserves s sl sp e v) (.refl s))

theorem unitRegOp_sound {wf : Bool} {sp e : Nat} {v : Word} (s : State) :
    SoundAnswer wf s (onUnit s fun s => regWrite s 0 sp e v) :=
  onUnit_sound (regWrite_preserves s 0 sp e v)

theorem rma_sound {d : Datagram} (s : State) :
    SoundAnswer (WellFormed.datagram 4 d) s (onSlate d.port s (rmaRequest d)) :=
  onSlate_sound datagram_lt (rmaRequest_preserves d s)

/-! ### Branches, buffers and hashing (R56, R57, R61, R62, R70) -/

theorem execB_sound (o : BranchForm) (s : State) : SoundAnswer (WellFormed.thread o.t) s (execB o s) :=
  insn_sound fun s id j => by simp [preserves_iff]

theorem execBcc_sound (o : BranchForm) (s : State) : SoundAnswer (WellFormed.thread o.t) s (execBcc o s) :=
  insn_sound fun s id j => by split <;> simp [preserves_iff]

theorem execCall_sound (o : BranchForm) (s : State) : SoundAnswer (WellFormed.thread o.t) s (execCall o s) := by
  refine insn_sound fun s id j => ?_
  dsimp only
  split <;> simp [preserves_iff]

theorem execRet_sound (o : RForm) (s : State) : SoundAnswer (WellFormed.thread o.t) s (execRet o s) :=
  insn_sound fun s id j => by simp [preserves_iff]

theorem execBget_sound (o : RForm) (s : State) : SoundAnswer (WellFormed.thread o.t) s (execBget o s) := by
  refine insn_sound fun s id j => ?_
  dsimp only
  split <;> simp [preserves_iff]

theorem execBput_sound (o : RForm) (s : State) : SoundAnswer (WellFormed.thread o.t) s (execBput o s) := by
  refine insn_sound fun s id j => ?_
  dsimp only
  split <;> simp [preserves_iff]

theorem execHsub_sound (o : HForm) (s : State) : SoundAnswer (WellFormed.thread o.t) s (execHsub o s) := by
  refine insn_sound fun s id j => ?_
  dsimp only
  repeat' split
  all_goals simp [preserves_iff]

theorem execHlen_sound (o : HForm) (s : State) : SoundAnswer (WellFormed.thread o.t) s (execHlen o s) :=
  insn_sound fun s id j => by simp [preserves_iff]

theorem execHnew_sound (o : HForm) (s : State) : SoundAnswer (WellFormed.thread o.t) s (execHnew o s) := by
  refine insn_sound fun s id j => ?_
  dsimp only
  repeat' split
  all_goals simp [preserves_iff]

theorem execRecv_sound (o : RForm) (s : State) : SoundAnswer (WellFormed.thread o.t) s (execRecv o s) := by
  refine insn_sound fun s id j => ?_
  dsimp only
  repeat' split
  all_goals simp [preserves_iff]

theorem execShka_sound (o : RForm) (s : State) : SoundAnswer (WellFormed.thread o.t) s (execShka o s) := by
  refine insn_sound fun s id j => ?_
  dsimp only
  repeat' split
  all_goals simp [preserves_iff]

theorem execShks_sound (o : RForm) (s : State) : SoundAnswer (WellFormed.thread o.t) s (execShks o s) :=
  insn_sound fun s id j => by simp [preserves_iff]

/-! ### Scratch and memory (R58 to R60) -/

theorem execLdx_sound (o : RForm) (s : State) : SoundAnswer (WellFormed.thread o.t) s (execLdx o s) := by
  refine insn_sound fun s id j => ?_
  dsimp only
  repeat' split
  all_goals simp [preserves_iff]

theorem execStx_sound (o : RForm) (s : State) : SoundAnswer (WellFormed.thread o.t) s (execStx o s) := by
  refine insn_sound fun s id j => ?_
  dsimp only
  repeat' split
  all_goals simp +contextual [preserves_iff]

theorem execAadd_sound (o : R3) (s : State) : SoundAnswer (WellFormed.thread o.t) s (execAadd o s) :=
  atomic_sound fun s _ _ a _ => .trans (hbmWrite_preserves s a _) (finish_preserves _ _ _ _)

theorem execAcas_sound (o : R3) (s : State) : SoundAnswer (WellFormed.thread o.t) s (execAcas o s) :=
  atomic_sound fun s _ _ a _ => .trans (.ite (hbmWrite_preserves s a _) (.refl s))
    (finish_preserves _ _ _ _)

/-! ### Drives, courses, the map, events and control (R63 to R69, R71 to R77) -/

theorem execSend_sound (o : RForm) (s : State) : SoundAnswer (WellFormed.thread o.t) s (execSend o s) := by
  refine insn_sound fun s id j => ?_
  dsimp only
  repeat' split
  all_goals simp [preserves_iff]

theorem execDsub_sound (o : RForm) (s : State) : SoundAnswer (WellFormed.thread o.t) s (execDsub o s) := by
  refine insn_sound fun s id j => ?_
  have trap (st : Status) : Preserves s (trapJob s id st) := trapJob_preserves s id st
  have refuse (st : Status) : Preserves s (finish s id (ret j o.d st) 1) := finish_preserves s id _ 1
  refine .ite (trap _) (.ite (trap _) (.ite (trap _) (.ite (trap _) (.ite (trap _)
    (.ite (refuse _) (.ite (refuse _) (.ite (refuse _) (.ite (refuse _) ?_))))))))
  have asked (c : Prop) [Decidable c] : Preserves s (if c then (s, true) else askCommit s id).1 := by
    split
    · exact .refl s
    · exact .of_hbm (askCommit_keeps s id) (askCommit_hbm s id)
  split
  · exact refuse _
  · refine (asked _).trans (.ite (.refl _) ?_)
    exact .trans (.of_hbm (issueCmd_keeps _ _ _ _ _ _ _ _) (issueCmd_hbm _ _ _ _ _ _ _ _))
      (finish_preserves _ _ _ _)

theorem execCrd_sound (o : RForm) (s : State) : SoundAnswer (WellFormed.thread o.t) s (execCrd o s) := by
  refine insn_sound fun s id j => ?_
  dsimp only
  repeat' split
  all_goals simp [preserves_iff]

theorem execDwait_sound (o : RForm) (s : State) : SoundAnswer (WellFormed.thread o.t) s (execDwait o s) := by
  refine insn_sound fun s id j => ?_
  dsimp only
  repeat' split
  all_goals simp [preserves_iff]

theorem execCapp_sound (o : RForm) (s : State) : SoundAnswer (WellFormed.thread o.t) s (execCapp o s) := by
  refine insn_sound fun s id j => ?_
  dsimp only
  repeat' split
  all_goals simp [preserves_iff]

theorem execMget_sound (o : RForm) (s : State) : SoundAnswer (WellFormed.thread o.t) s (execMget o s) := by
  refine insn_sound fun s id j => ?_
  dsimp only
  repeat' split
  all_goals simp [preserves_iff]

theorem execMset_sound (o : RForm) (s : State) : SoundAnswer (WellFormed.thread o.t) s (execMset o s) := by
  refine insn_sound fun s id j => ?_
  dsimp only
  repeat' split
  all_goals simp [preserves_iff]

theorem execHaz_sound (o : RForm) (s : State) : SoundAnswer (WellFormed.thread o.t) s (execHaz o s) := by
  refine insn_sound fun s id j => ?_
  dsimp only
  repeat' split
  all_goals simp [preserves_iff]

theorem execHrel_sound (o : RForm) (s : State) : SoundAnswer (WellFormed.thread o.t) s (execHrel o s) :=
  insn_sound fun s id j => by simp [preserves_iff]

theorem execEvw_sound (o : RForm) (s : State) : SoundAnswer (WellFormed.thread o.t) s (execEvw o s) := by
  refine insn_sound fun s id j => ?_
  dsimp only
  repeat' split
  all_goals simp [preserves_iff]

theorem execEvs_sound (o : IForm) (s : State) : SoundAnswer (WellFormed.thread o.t) s (execEvs o s) := by
  refine insn_sound fun s id j => ?_
  repeat' split
  all_goals simp [preserves_iff]

theorem execPmc_sound (o : RForm) (s : State) : SoundAnswer (WellFormed.thread o.t) s (execPmc o s) := by
  refine insn_sound fun s id j => ?_
  dsimp only
  repeat' split
  all_goals simp [preserves_iff]

theorem execGets_sound (o : IForm) (s : State) : SoundAnswer (WellFormed.thread o.t) s (execGets o s) :=
  insn_sound fun s id j => by simp [preserves_iff]

theorem execYield_sound (o : RForm) (s : State) : SoundAnswer (WellFormed.thread o.t) s (execYield o s) :=
  insn_sound fun s id j => by split <;> simp [preserves_iff]

theorem execDone_sound (o : RForm) (s : State) : SoundAnswer (WellFormed.thread o.t) s (execDone o s) :=
  insn_sound fun s id j => by simp [preserves_iff]

theorem execFail_sound (o : RForm) (s : State) : SoundAnswer (WellFormed.thread o.t) s (execFail o s) :=
  insn_sound fun s id j => by simp [preserves_iff]

theorem execTrap_sound (o : IForm) (s : State) : SoundAnswer (WellFormed.thread o.t) s (execTrap o s) :=
  insn_sound fun s id j => by simp [preserves_iff]

theorem execCget_sound (o : RForm) (s : State) : SoundAnswer (WellFormed.thread o.t) s (execCget o s) := by
  refine insn_sound fun s id j => ?_
  dsimp only
  split <;> simp [preserves_iff]

theorem execCset_sound (o : RForm) (s : State) : SoundAnswer (WellFormed.thread o.t) s (execCset o s) :=
  insn_sound fun s id j => by simp +contextual [preserves_iff]

theorem execCswap_sound (o : RForm) (s : State) : SoundAnswer (WellFormed.thread o.t) s (execCswap o s) :=
  insn_sound fun s id j => by simp +contextual [preserves_iff]

theorem execInjFire_sound (slate space : Nat) (inj : Injection) (s : State) :
    SoundAnswer (WellFormed.slate slate && WellFormed.space space) s (execInjFire slate space inj s) := by
  refine onSlate_sound slate_lt_and ?_
  dsimp only
  repeat' split
  all_goals simp +contextual [preserves_iff]

/-! ### Jobs, power and secure operations -/

theorem execJobResume_sound (job : Nat) (s : State) : SoundAnswer true s (execJobResume job s) := by
  refine onUnit_sound ?_
  repeat' split
  all_goals simp +contextual [preserves_iff]

theorem execThreadTakeWork_sound (slate : Nat) (s : State) :
    SoundAnswer (WellFormed.slate slate) s (execThreadTakeWork slate s) := by
  refine onSlate_sound slate_lt ?_
  dsimp only
  repeat' split
  all_goals simp [preserves_iff]

theorem execCommandDispatch_sound (hq tag : Nat) (s : State) :
    SoundAnswer (WellFormed.hq hq && WellFormed.tag tag) s (execCommandDispatch hq tag s) :=
  onSlate_sound (fun _ => hqSlate_lt _) (by simp [preserves_iff])

theorem execBudgetExhausted_sound (t : Thread) (s : State) :
    SoundAnswer (WellFormed.thread t) s (execBudgetExhausted t s) := by
  refine onThread_sound ?_
  repeat' split
  all_goals simp [preserves_iff]

theorem execJobEnded_sound (job : Nat) (s : State) : SoundAnswer true s (execJobEnded job s) := by
  refine onUnit_sound ?_
  repeat' split
  all_goals simp [preserves_iff]

theorem execHkTrapRestart_sound (slate n : Nat) (s : State) :
    SoundAnswer (WellFormed.slate slate && WellFormed.hkThread n) s (execHkTrapRestart slate n s) := by
  refine onSlate_sound slate_lt_and ?_
  repeat' split
  all_goals simp [preserves_iff]

theorem execEvwEventReturn_sound (slate n : Nat) (s : State) :
    SoundAnswer (WellFormed.slate slate && WellFormed.hkThread n) s (execEvwEventReturn slate n s) := by
  refine onSlate_sound slate_lt_and ?_
  repeat' split
  all_goals simp +contextual [preserves_iff]

theorem execEvwTimeout_sound (job : Nat) (s : State) : SoundAnswer true s (execEvwTimeout job s) := by
  refine onUnit_sound ?_
  repeat' split
  all_goals simp +contextual [preserves_iff]

theorem execEventLaunch_sound (slate event : Nat) (s : State) :
    SoundAnswer (WellFormed.slate slate && WellFormed.event event) s (execEventLaunch slate event s) := by
  refine onSlate_sound slate_lt_and ?_
  repeat' split
  all_goals simp [preserves_iff]

theorem execSecureOpComplete_sound (o : SecureOutcome) (s : State) : SoundAnswer true s (execSecureOpComplete o s) := by
  refine onUnit_sound ?_
  repeat' split
  all_goals simp +contextual [preserves_iff]

theorem execResetExit_sound (b : BootIn) (s : State) : SoundAnswer true s (execResetExit b s) :=
  next_sound (by split <;> simp [preserves_iff])

theorem execPowerStart_sound (p : StartPins) (s : State) : SoundAnswer true s (execPowerStart p s) :=
  next_sound (by split <;> simp [preserves_iff])

theorem execPcycAssert_sound (lowUs : Nat) (s : State) : SoundAnswer true s (execPcycAssert lowUs s) :=
  next_sound (by split <;> simp +contextual [preserves_iff])

theorem execOffTimeExpiry_sound (s : State) : SoundAnswer true s (execOffTimeExpiry s) :=
  next_sound (by split <;> simp [preserves_iff])

theorem execLastMateBreak_sound (s : State) : SoundAnswer true s (execLastMateBreak s) :=
  next_sound (by simp +contextual [preserves_iff])

theorem execSupplyCollapse_sound (feedA feedB : Nat) (s : State) : SoundAnswer true s (execSupplyCollapse feedA feedB s) := by
  refine next_sound ?_
  repeat' split
  all_goals simp +contextual [preserves_iff]

theorem execThermalPoll_sound (diodes : List Diode) (s : State) :
    SoundAnswer (diodes.all fun x => WellFormed.slate x.slate) s (execThermalPoll diodes s) := by
  refine next_sound ?_
  dsimp only
  repeat' split
  all_goals simp +contextual [preserves_iff]

theorem execVcoLockLoss_sound (s : State) : SoundAnswer true s (execVcoLockLoss s) :=
  next_sound (by split <;> simp [preserves_iff])

theorem execVcoLossTimeout_sound (s : State) : SoundAnswer true s (execVcoLossTimeout s) :=
  next_sound (by split <;> simp +contextual [preserves_iff])

/-! ### Courses, the journal and the members -/

theorem execCourseDurable_sound (ordinal : Nat) (s : State) :
    SoundAnswer (WellFormed.ordinal ordinal) s (execCourseDurable ordinal s) := by
  refine onUnit_sound ?_
  split
  · refine .ite ?_ (.refl s)
    have hm : Preserves s (makeDurable s ordinal) := .of_hbm (makeDurable_keeps s ordinal) (makeDurable_hbm s ordinal)
    have hp : Preserves (makeDurable s ordinal) ((servingSlates s).foldl packLog (makeDurable s ordinal)) :=
      foldl_preserves _ _ fun s sl => .of_hbm (packLog_keeps s sl) (packLog_hbm s sl)
    exact hm.trans (hp.trans (.of_hbm (fillHolders_keeps _) (fillHolders_hbm _)))
  · exact .refl s

theorem execFillWindowExpiry_sound (ordinal : Nat) (s : State) :
    SoundAnswer (WellFormed.ordinal ordinal) s (execFillWindowExpiry ordinal s) := by
  refine onUnit_sound ?_
  repeat' split
  all_goals simp [preserves_iff]

theorem execLeadHandover_sound (kind : Nat) (s : State) : SoundAnswer (WellFormed.lead kind) s (execLeadHandover kind s) :=
  onUnit_sound (by split <;> simp [preserves_iff])

theorem execCoursePour_sound (ordinal : Nat) (s : State) :
    SoundAnswer (WellFormed.ordinal ordinal) s (execCoursePour ordinal s) :=
  onUnit_sound (by simp [preserves_iff])

theorem execStripWriteDone_sound (ordinal pos : Nat) (s : State) :
    SoundAnswer (WellFormed.ordinal ordinal) s (execStripWriteDone ordinal pos s) :=
  onUnit_sound (by simp [preserves_iff])

theorem execStripWriteFail_sound (ordinal pos : Nat) (s : State) :
    SoundAnswer (WellFormed.ordinal ordinal) s (execStripWriteFail ordinal pos s) :=
  onUnit_sound (by simp [preserves_iff])

theorem execCourseRelease_sound (ordinal : Nat) (s : State) :
    SoundAnswer (WellFormed.ordinal ordinal) s (execCourseRelease ordinal s) := by
  refine onUnit_sound ?_
  repeat' split
  all_goals simp [preserves_iff]

theorem execHolderTimeout_sound (owner holder : Nat) (s : State) :
    SoundAnswer (WellFormed.slate owner) s (execHolderTimeout owner holder s) := by
  refine onSlate_sound slate_lt ?_
  dsimp only
  repeat' split
  all_goals simp [preserves_iff]

theorem execLogLineFree_sound (owner : Nat) (s : State) : SoundAnswer (WellFormed.slate owner) s (execLogLineFree owner s) :=
  onSlate_sound slate_lt (by simp [preserves_iff])

theorem execLeafWriteback_sound (volume leaf : Nat) (s : State) :
    SoundAnswer (decide (volume < 0x1004)) s (execLeafWriteback volume leaf s) :=
  onUnit_sound (foldl_preserves _ _ fun s _ => .ite (.of_hbm (writeBack_keeps s _ _ _) (writeBack_hbm s _ _ _)) (.refl s))

theorem execResync_sound (trusted : Bool) (s : State) : SoundAnswer true s (execResync trusted s) := by
  refine onUnit_sound (.ite (.ite ?_ ?_) (.refl s))
  · simp [preserves_iff]
  · refine .trans ?_ (foldl_preserves _ _ fun s sl => .of_hbm (refreshHolders_keeps s sl) (refreshHolders_hbm s sl))
    simp [preserves_iff]

theorem execRebuildStart_sound (m : Nat) (s : State) : SoundAnswer (WellFormed.member m) s (execRebuildStart m s) := by
  refine onSlate_sound member_lt ?_
  repeat' split
  all_goals simp [preserves_iff]

theorem execRebuildCourse_sound (slate share ordinal : Nat) (s : State) :
    SoundAnswer (WellFormed.slate slate && WellFormed.slate share && WellFormed.ordinal ordinal) s
      (execRebuildCourse slate share ordinal s) := by
  refine onSlate_sound slate_lt_and_and ?_
  dsimp only
  repeat' split
  all_goals simp [preserves_iff]

theorem execCopyBackStrip_sound (m : Nat) (s : State) : SoundAnswer (WellFormed.member m) s (execCopyBackStrip m s) := by
  refine onSlate_sound member_lt ?_
  dsimp only
  repeat' split
  all_goals simp [preserves_iff]

theorem execMemberLinkLoss_sound (m : Nat) (s : State) : SoundAnswer (WellFormed.member m) s (execMemberLinkLoss m s) := by
  refine onMember_sound member_lt ?_
  dsimp only
  split <;> simp [preserves_iff]

theorem execCstsPoll_sound (m : Nat) (cfs : Bool) (s : State) : SoundAnswer (WellFormed.member m) s (execCstsPoll m cfs s) :=
  onMember_sound member_lt (by split <;> simp [preserves_iff])

theorem execCmdTimeout_sound (m cmd : Nat) (s : State) : SoundAnswer (WellFormed.member m) s (execCmdTimeout m cmd s) := by
  refine onMember_sound member_lt ?_
  dsimp only
  repeat' split
  all_goals simp [preserves_iff]

theorem execAbortGraceExpiry_sound (m cmd : Nat) (s : State) :
    SoundAnswer (WellFormed.member m) s (execAbortGraceExpiry m cmd s) := by
  refine onMember_sound member_lt ?_
  dsimp only
  repeat' split
  all_goals simp [preserves_iff]

theorem execReadyMaxExpiry_sound (m : Nat) (s : State) : SoundAnswer (WellFormed.member m) s (execReadyMaxExpiry m s) := by
  refine onMember_sound member_lt ?_
  repeat' split
  all_goals simp [preserves_iff]

theorem execNvmeCompletion_sound (m cmd : Nat) (r : NvmeResult) (s : State) :
    SoundAnswer (WellFormed.member m) s (execNvmeCompletion m cmd r s) := by
  refine onMember_sound member_lt ?_
  dsimp only
  repeat' split
  all_goals simp [preserves_iff]

theorem execControllerReady_sound (m : Nat) (s : State) :
    SoundAnswer (WellFormed.member m) s (execControllerReady m s) := by
  refine onMember_sound member_lt (.ite (.refl s) ?_)
  refine .trans ?_ (foldl_preserves _ _ fun s c => .of_hbm (resetCmd_keeps s m c) (resetCmd_hbm s m c))
  simp [preserves_iff]

theorem execDriveInsert_sound (m : Nat) (d : Drive) (s : State) :
    SoundAnswer (WellFormed.member m && WellFormed.drive d) s (execDriveInsert m d s) := by
  refine onMember_sound (fun h => member_lt (Bool.and_elim_left h)) ?_
  dsimp only
  repeat' split
  all_goals simp [preserves_iff]

theorem execPerstRelease_sound (m : Nat) (s : State) : SoundAnswer (WellFormed.member m) s (execPerstRelease m s) := by
  refine onMember_sound member_lt ?_
  dsimp only
  split <;> simp [preserves_iff]

theorem execPrsntDeassert_sound (m : Nat) (s : State) : SoundAnswer (WellFormed.member m) s (execPrsntDeassert m s) := by
  refine onMember_sound member_lt ?_
  dsimp only
  split <;> simp [preserves_iff]

theorem execMemberQuorum_sound (s : State) : SoundAnswer true s (execMemberQuorum s) :=
  onUnit_sound (by split <;> simp [preserves_iff])

theorem execQuorumWaitExpiry_sound (s : State) : SoundAnswer true s (execQuorumWaitExpiry s) := by
  refine onUnit_sound ?_
  dsimp only
  repeat' split
  all_goals simp [preserves_iff]

theorem execReplayDone_sound (copies : List JournalCopy) (s : State) :
    SoundAnswer (copies.all WellFormed.journalCopy) s (execReplayDone copies s) := by
  refine onUnit_sound ?_
  repeat' split
  all_goals simp +contextual [preserves_iff]

/-! ### Datagrams, remote memory, ports and the switch core -/

theorem execCommand_sound (d : Datagram) (s : State) : SoundAnswer (WellFormed.datagram 1 d) s (execCommand d s) :=
  onSlate_sound datagram_lt (ingress_preserves _ _ _ fun s d k =>
    .ite (.refl s) (.ite (by simp [preserves_iff]) (handOver_preserves s _ d k)))

theorem execDataIn_sound (d : Datagram) (s : State) : SoundAnswer (WellFormed.datagram 2 d) s (execDataIn d s) :=
  onSlate_sound datagram_lt (ingress_preserves _ _ _ fun s d k => handOver_preserves s _ d k)

theorem execAbort_sound (d : Datagram) (s : State) : SoundAnswer (WellFormed.datagram 6 d) s (execAbort d s) :=
  onSlate_sound datagram_lt (ingress_preserves _ _ _ fun s d k => handOver_preserves s _ d k)

theorem execQueueResetAbort_sound (d : Datagram) (s : State) :
    SoundAnswer (WellFormed.datagram 6 d) s (execQueueResetAbort d s) :=
  onSlate_sound datagram_lt (ingress_preserves _ _ _ fun s d k => handOver_preserves s _ d k)

theorem execContextFetchDone_sound (hq : Nat) (s : State) : SoundAnswer (WellFormed.hq hq) s (execContextFetchDone hq s) := by
  refine onSlate_sound (fun _ => hqSlate_lt _) ?_
  dsimp only
  split <;> simp +contextual [preserves_iff]

theorem execParkPauseRelease_sound (slate : Nat) (s : State) :
    SoundAnswer (WellFormed.slate slate) s (execParkPauseRelease slate s) :=
  onSlate_sound slate_lt (by split <;> simp [preserves_iff])

theorem execInboundBufferAlloc_sound (slate : Nat) (s : State) :
    SoundAnswer (WellFormed.slate slate) s (execInboundBufferAlloc slate s) :=
  onSlate_sound slate_lt (by split <;> simp +contextual [preserves_iff])

theorem execCopyChunkAnswer_sound (slate copy chunk : Nat) (status : Status) (s : State) :
    SoundAnswer (WellFormed.slate slate) s (execCopyChunkAnswer slate copy chunk status s) := by
  refine onSlate_sound slate_lt (withChunk_preserves fun c k => .ite ?_ (.ite ?_ ?_))
  · exact .trans (.of_hbm (putCopy_keeps s _ _ _) (putCopy_hbm s _ _ _)) ⟨copyIssue_keeps _ _ _ _, copyIssue_memwf _ _ _ _⟩
  · simp [preserves_iff]
  · simp [preserves_iff]

theorem execCopyChunkResend_sound (slate copy chunk : Nat) (s : State) :
    SoundAnswer (WellFormed.slate slate) s (execCopyChunkResend slate copy chunk s) :=
  onSlate_sound slate_lt (withChunk_preserves fun c k => .ite (by simp [preserves_iff]) (.refl s))

theorem execCopyChunkTimeout_sound (slate copy chunk : Nat) (s : State) :
    SoundAnswer (WellFormed.slate slate) s (execCopyChunkTimeout slate copy chunk s) :=
  onSlate_sound slate_lt (withChunk_preserves fun c k => .ite (by simp [preserves_iff]) (.refl s))

theorem execRotHorizonExpiry_sound (slate entry : Nat) (s : State) :
    SoundAnswer (WellFormed.slate slate) s (execRotHorizonExpiry slate entry s) := by
  refine onSlate_sound slate_lt ?_
  repeat' split
  all_goals simp [preserves_iff]

theorem execWindowAvailExpiry_sound (slate index : Nat) (s : State) :
    SoundAnswer (WellFormed.slate slate && WellFormed.window index) s (execWindowAvailExpiry slate index s) := by
  refine onSlate_sound slate_lt_and ?_
  repeat' split
  all_goals simp [preserves_iff]

theorem execReadyRepeat_sound (s : State) : SoundAnswer true s (execReadyRepeat s) :=
  onUnit_sound (by split <;> simp [preserves_iff])

theorem execPortTrained_sound (slate sub : Nat) (s : State) :
    SoundAnswer (WellFormed.slate slate && WellFormed.subPort sub) s (execPortTrained slate sub s) := by
  refine onSlate_sound slate_lt_and ?_
  dsimp only
  repeat' split
  all_goals simp [preserves_iff]

theorem execPauseTimeout_sound (s : State) : SoundAnswer true s (execPauseTimeout s) := by
  refine onUnit_sound ?_
  repeat' split
  all_goals simp [preserves_iff]

theorem execPauseRefresh_sound (slate : Nat) (s : State) : SoundAnswer (WellFormed.slate slate) s (execPauseRefresh slate s) :=
  onSlate_sound slate_lt (by split <;> simp [preserves_iff])

theorem execPfcPauseRx_sound (slate cls : Nat) (on : Bool) (s : State) :
    SoundAnswer (WellFormed.slate slate && WellFormed.cls cls) s (execPfcPauseRx slate cls on s) := by
  refine onSlate_sound slate_lt_and ?_
  dsimp only
  repeat' split
  all_goals simp [preserves_iff]

theorem execLinkDown_sound (slate sub : Nat) (s : State) :
    SoundAnswer (WellFormed.slate slate && WellFormed.subPort sub) s (execLinkDown slate sub s) :=
  onSlate_sound slate_lt_and (by simp [preserves_iff])

theorem execPtpSync_sound (slate : Nat) (sync : PtpMessage) (s : State) :
    SoundAnswer (WellFormed.slate slate && decide (sync.domain < 256) && decide (sync.transport < 3)) s
      (execPtpSync slate sync s) := by
  refine onSlate_sound slate_lt_and_and ?_
  dsimp only
  repeat' split
  all_goals simp [preserves_iff]

theorem execPtpLoss_sound (s : State) : SoundAnswer true s (execPtpLoss s) := by
  refine onUnit_sound ?_
  repeat' split
  all_goals simp [preserves_iff]

theorem execFrameArrival_sound (f : FrameIn) (s : State) : SoundAnswer (WellFormed.frame f) s (execFrameArrival f s) := by
  refine onSlate_sound frame_lt ?_
  repeat' split
  all_goals simp [preserves_iff]

theorem execOutputSelect_sound (slate port sub : Nat) (s : State) :
    SoundAnswer (WellFormed.slate slate && WellFormed.port port && WellFormed.subPort sub) s
      (execOutputSelect slate port sub s) := by
  refine onSlate_sound slate_lt_and_and ?_
  dsimp only
  repeat' split
  all_goals simp [preserves_iff]

theorem execWheelSlot_sound (slate port sub : Nat) (s : State) :
    SoundAnswer (WellFormed.slate slate && WellFormed.port port && WellFormed.subPort sub) s (execWheelSlot slate port sub s) :=
  onSlate_sound slate_lt_and_and (by simp [preserves_iff])

theorem execGateTakeover_sound (slate : Nat) (s : State) : SoundAnswer (WellFormed.slate slate) s (execGateTakeover slate s) := by
  refine onSlate_sound slate_lt ?_
  dsimp only
  repeat' split
  all_goals simp [preserves_iff]

theorem execGateListEntry_sound (slate : Nat) (s : State) :
    SoundAnswer (WellFormed.slate slate) s (execGateListEntry slate s) := by
  refine onSlate_sound slate_lt ?_
  dsimp only
  repeat' split
  all_goals simp [preserves_iff]

theorem execPeerPauseExpiry_sound (slate cls : Nat) (s : State) :
    SoundAnswer (WellFormed.slate slate && WellFormed.cls cls) s (execPeerPauseExpiry slate cls s) :=
  onSlate_sound slate_lt_and (by simp [preserves_iff])

theorem execMulticastDone_sound (slate frame : Nat) (s : State) :
    SoundAnswer (WellFormed.slate slate) s (execMulticastDone slate frame s) := by
  refine onSlate_sound slate_lt ?_
  repeat' split
  all_goals simp [preserves_iff]

theorem execLookupWaitRelease_sound (slate frame : Nat) (s : State) :
    SoundAnswer (WellFormed.slate slate) s (execLookupWaitRelease slate frame s) := by
  refine onSlate_sound slate_lt ?_
  repeat' split
  all_goals simp [preserves_iff]

theorem execSwbDone_sound (slate : Nat) (s : State) : SoundAnswer (WellFormed.slate slate) s (execSwbDone slate s) := by
  refine onSlate_sound slate_lt ?_
  repeat' split
  all_goals simp [preserves_iff]

theorem execFabricLinkError_sound (slate link : Nat) (s : State) :
    SoundAnswer (WellFormed.slate slate && WellFormed.link link) s (execFabricLinkError slate link s) :=
  onSlate_sound slate_lt_and (by split <;> simp [preserves_iff])

theorem execFabricLinkDown_sound (slate link : Nat) (s : State) :
    SoundAnswer (WellFormed.slate slate && WellFormed.link link) s (execFabricLinkDown slate link s) := by
  refine onSlate_sound slate_lt_and ?_
  dsimp only
  repeat' split
  all_goals simp +contextual [preserves_iff]

theorem execFabricLinkTrained_sound (slate link : Nat) (s : State) :
    SoundAnswer (WellFormed.slate slate && WellFormed.link link) s (execFabricLinkTrained slate link s) := by
  refine onSlate_sound slate_lt_and ?_
  dsimp only
  repeat' split
  all_goals simp [preserves_iff]

theorem execPartnerLaneError_sound (slate : Nat) (s : State) :
    SoundAnswer (WellFormed.slate slate) s (execPartnerLaneError slate s) :=
  onSlate_sound slate_lt (by split <;> simp [preserves_iff])

/-! ### Lease and batten chain -/

theorem execHeartbeatSend_sound (slate : Nat) (s : State) :
    SoundAnswer (WellFormed.slate slate) s (execHeartbeatSend slate s) := by
  refine onSlate_sound slate_lt ?_
  dsimp only
  repeat' split
  all_goals simp [preserves_iff]

theorem execHeartbeatRx_sound (slate : Nat) (h : Heartbeat) (s : State) :
    SoundAnswer (WellFormed.slate slate && WellFormed.heartbeat h) s (execHeartbeatRx slate h s) := by
  refine onSlate_sound slate_lt_and ?_
  dsimp only
  repeat' split
  all_goals simp [preserves_iff]

theorem execPartnerLost_sound (s : State) : SoundAnswer true s (execPartnerLost s) :=
  onUnit_sound (by split <;> simp [preserves_iff])

theorem execRenewalRound_sound (s : State) : SoundAnswer true s (execRenewalRound s) := by
  refine onUnit_sound ?_
  dsimp only
  repeat' split
  all_goals simp [preserves_iff]

theorem execExclRound_sound (s : State) : SoundAnswer true s (execExclRound s) :=
  onUnit_sound (by split <;> simp [preserves_iff])

theorem execRoundComplete_sound (answers : List (Nat × WitnessAnswer)) (s : State) :
    SoundAnswer (WellFormed.byMember answers) s (execRoundComplete answers s) := by
  refine onUnit_sound ?_
  split
  · exact .refl s
  · extract_lets _ _ _ _ won _ u v
    have hu : Preserves s u := foldl_preserves _ _ fun s m => .of_hbm (detect_keeps s _ _ _) (detect_hbm s _ _ _)
    have hv : Preserves u v := by simp [v, preserves_iff]
    exact hu.trans (.ite (by simp +contextual [preserves_iff]) (hv.trans (.ite ⟨lapse_keeps v, lapse_memwf v⟩ (.refl v))))

theorem execLeaseExpiry_sound (s : State) : SoundAnswer true s (execLeaseExpiry s) :=
  onUnit_sound (by split <;> simp +contextual [preserves_iff])

theorem execDegRelRelease_sound (s : State) : SoundAnswer true s (execDegRelRelease s) := by
  refine onUnit_sound ?_
  repeat' split
  all_goals simp [preserves_iff]

theorem execRelDrainExpiry_sound (s : State) : SoundAnswer true s (execRelDrainExpiry s) := by
  refine onUnit_sound ?_
  repeat' split
  all_goals simp +contextual [preserves_iff]

theorem execWitnessPoll_sound (views : List WitnessView) (answers : List (Nat × WitnessAnswer)) (s : State) :
    SoundAnswer ((views.all fun x => WellFormed.member x.member) && WellFormed.byMember answers) s
      (execWitnessPoll views answers s) :=
  onUnit_sound (by split <;> simp [preserves_iff])

theorem execAcquireRetry_sound (views : List WitnessView) (answers : List (Nat × WitnessAnswer)) (s : State) :
    SoundAnswer ((views.all fun x => WellFormed.member x.member) && WellFormed.byMember answers) s
      (execAcquireRetry views answers s) := by
  refine onUnit_sound ?_
  repeat' split
  all_goals simp [preserves_iff]

theorem execHolderAck_sound (owner holder seq : Nat) (s : State) :
    SoundAnswer (WellFormed.slate owner) s (execHolderAck owner holder seq s) := by
  refine onSlate_sound slate_lt ?_
  dsimp only
  repeat' split
  all_goals simp [preserves_iff]

theorem execHelloSend_sound (s : State) : SoundAnswer true s (execHelloSend s) := by
  refine onUnit_sound ?_
  dsimp only
  repeat' split
  all_goals simp [preserves_iff]

theorem execHello_sound (up : Bool) (h : HelloBody) (s : State) : SoundAnswer (WellFormed.hello h) s (execHello up h s) := by
  refine onChain_sound ?_
  dsimp only
  repeat' split
  all_goals simp [preserves_iff]

theorem execChainPartnerTimeout_sound (up : Bool) (s : State) : SoundAnswer true s (execChainPartnerTimeout up s) := by
  refine onUnit_sound ?_
  dsimp only
  repeat' split
  all_goals simp [preserves_iff]

theorem execChange_sound (s : State) : SoundAnswer true s (execChange s) :=
  onChain_sound (by simp [preserves_iff])

theorem execEnumStart_sound (s : State) : SoundAnswer true s (execEnumStart s) :=
  onUnit_sound (by split <;> simp [preserves_iff])

theorem execEnumPeriodic_sound (s : State) : SoundAnswer true s (execEnumPeriodic s) :=
  onUnit_sound (by split <;> simp [preserves_iff])

theorem execCensus_sound (c : CensusBody) (s : State) : SoundAnswer (WellFormed.shelves c.shelves) s (execCensus c s) := by
  refine onChain_sound ?_
  dsimp only
  repeat' split
  all_goals simp [preserves_iff]

theorem execTally_sound (c : TallyBody) (s : State) : SoundAnswer (WellFormed.shelves c.shelves) s (execTally c s) := by
  refine onChain_sound ?_
  dsimp only
  repeat' split
  all_goals simp [preserves_iff]

theorem execAssign_sound (c : AssignBody) (s : State) : SoundAnswer true s (execAssign c s) := by
  refine onChain_sound ?_
  dsimp only
  repeat' split
  all_goals simp [preserves_iff]

/-! ### Faults, caches and counters -/

theorem execDetectorOccurrence_sound (slate space src : Nat) (detail : List Word) (s : State) :
    SoundAnswer (WellFormed.slate slate && WellFormed.space space && WellFormed.detector src) s
      (execDetectorOccurrence slate space src detail s) :=
  onSlate_sound slate_lt_and_and (by split <;> simp +contextual [preserves_iff])

theorem execCoreSilent_sound (s : State) : SoundAnswer true s (execCoreSilent s) :=
  onUnit_sound (by simp [preserves_iff])

theorem execFaultPulseEnd_sound (s : State) : SoundAnswer true s (execFaultPulseEnd s) := by
  refine onUnit_sound ?_
  repeat' split
  all_goals simp [preserves_iff]

theorem execShadowClose_sound (shadow : Nat) (ready : Bool) (s : State) :
    SoundAnswer true s (execShadowClose shadow ready s) := by
  refine onUnit_sound ?_
  repeat' split
  all_goals simp [preserves_iff]

theorem execScDrainDone_sound (slate : Nat) (s : State) : SoundAnswer (WellFormed.slate slate) s (execScDrainDone slate s) := by
  refine onSlate_sound slate_lt ?_
  repeat' split
  all_goals simp [preserves_iff]

theorem execHbmScrub_sound (slate : Nat) (s : State) : SoundAnswer (WellFormed.slate slate) s (execHbmScrub slate s) :=
  onSlate_sound slate_lt (by simp [preserves_iff])

theorem execCounterWrap_sound (slate k : Nat) (s : State) :
    SoundAnswer (WellFormed.slate slate && WellFormed.counter k) s (execCounterWrap slate k s) :=
  onSlate_sound slate_lt_and (by split <;> simp [preserves_iff])

theorem execCounterDump_sound (slate : Nat) (s : State) : SoundAnswer (WellFormed.slate slate) s (execCounterDump slate s) := by
  refine onSlate_sound slate_lt ?_
  dsimp only
  repeat' split
  all_goals simp +contextual [preserves_iff]

theorem execSampleSelect_sound (t : Thread) (insn : InsnWord) (s : State) :
    SoundAnswer (WellFormed.thread t) s (execSampleSelect t insn s) := by
  refine onThread_sound ?_
  dsimp only
  repeat' split
  all_goals simp [preserves_iff]

theorem execSupplyMeasure_sound (vinA vinB iin pin : Nat) (s : State) :
    SoundAnswer true s (execSupplyMeasure vinA vinB iin pin s) :=
  onUnit_sound (by simp [preserves_iff])

/-! ### Library programs -/

theorem execRead_sound (job : Nat) (s : State) : SoundAnswer true s (execRead job s) := by
  refine onLib_sound fun j => ?_
  split
  · exact endLib_preserves s job _ _
  · exact whenMapped_preserves (fun s => readMapped_keeps s job j) fun s => readMapped_hbm s job j

theorem execWrite_sound (job : Nat) (s : State) : SoundAnswer true s (execWrite job s) := by
  refine onLib_sound fun j => ?_
  generalize blockCheck s j 2048 1 0 true = st, blockArgs j = a
  cases st <;> cases a <;> simp [preserves_iff]

theorem execAtomicWrite_sound (job : Nat) (s : State) : SoundAnswer true s (execAtomicWrite job s) := by
  refine onLib_sound fun j => ?_
  generalize blockCheck s j (courseBlocks s) 1 0 true = st, blockArgs j = a
  cases st <;> cases a <;> simp [preserves_iff]

theorem execCompareAndWrite_sound (job : Nat) (s : State) : SoundAnswer true s (execCompareAndWrite job s) := by
  refine onLib_sound fun j => ?_
  generalize blockCheck s j 256 2 0 true = st, blockArgs j = a, tabGet j.h 1 = h
  match st, a, h with
  | some st, _, _ => exact endLib_preserves s job _ _
  | none, none, _ => exact .refl s
  | none, some a, none => exact .refl s
  | none, some a, some h =>
    refine .ite (.of_hbm (waitLib_keeps s job j _ _) (waitLib_hbm s job j _ _)) (.ite (.refl s) ?_)
    refine .trans ?_ (whenMapped_preserves (fun s => compareMapped_keeps s job _ _) fun s => compareMapped_hbm s job _ _)
    simp [preserves_iff]

theorem execDeallocate_sound (job : Nat) (s : State) : SoundAnswer true s (execDeallocate job s) := by
  refine onLib_sound fun j => ?_
  split
  · exact endLib_preserves s job _ _
  · exact whenMapped_preserves (fun s => deallocMapped_keeps s job j) fun s => deallocMapped_hbm s job j

theorem execFlush_sound (job : Nat) (s : State) : SoundAnswer true s (execFlush job s) := by
  refine onLib_sound fun j => ?_
  repeat' split
  all_goals simp [preserves_iff]

theorem execVolumeCutover_sound (volume : Nat) (s : State) :
    SoundAnswer (WellFormed.volume volume) s (execVolumeCutover volume s) :=
  onUnit_sound (by simp [preserves_iff])

theorem execVolumeCreate_sound (job : Nat) (s : State) : SoundAnswer true s (execVolumeCreate job s) := by
  refine onLib_sound fun j => ?_
  dsimp only
  repeat' split
  all_goals simp [preserves_iff]

theorem execVolumeDelete_sound (job : Nat) (s : State) : SoundAnswer true s (execVolumeDelete job s) := by
  refine onLib_sound fun j => ?_
  dsimp only
  repeat' split
  all_goals simp [preserves_iff]

theorem execVolumeResize_sound (job : Nat) (s : State) : SoundAnswer true s (execVolumeResize job s) := by
  refine onLib_sound fun j => ?_
  dsimp only
  repeat' split
  all_goals simp [preserves_iff]

theorem execVolumeInfo_sound (job : Nat) (s : State) : SoundAnswer true s (execVolumeInfo job s) := by
  refine onLib_sound fun j => ?_
  dsimp only
  repeat' split
  all_goals simp [preserves_iff]

theorem execSanitize_sound (call : SanitizeCall) (s : State) : SoundAnswer true s (execSanitize call s) := by
  refine onLib_sound fun j => ?_
  dsimp only
  repeat' split
  all_goals simp [preserves_iff]

theorem execFormat_sound (job : Nat) (s : State) : SoundAnswer true s (execFormat job s) := by
  refine onLib_sound fun j => ?_
  dsimp only
  repeat' split
  all_goals simp [preserves_iff]

theorem execAdminStatus_sound (job : Nat) (s : State) : SoundAnswer true s (execAdminStatus job s) := by
  refine onLib_sound fun j => ?_
  dsimp only
  split <;> simp [preserves_iff]

theorem execPowerState_sound (job : Nat) (s : State) : SoundAnswer true s (execPowerState job s) := by
  refine onLib_sound fun j => ?_
  dsimp only
  repeat' split
  all_goals simp [preserves_iff]

theorem execPsEntryDone_sound (s : State) : SoundAnswer true s (execPsEntryDone s) := by
  refine onUnit_sound ?_
  dsimp only
  repeat' split
  all_goals simp [preserves_iff]

theorem execPsExitDone_sound (s : State) : SoundAnswer true s (execPsExitDone s) := by
  refine onUnit_sound (.ite (.refl s) ?_)
  refine .trans ?_ (foldl_preserves _ _ fun s q => foldl_preserves _ _ fun s t =>
    .of_hbm (tryDispatch_keeps s q.1 t.1) (tryDispatch_hbm s q.1 t.1))
  simp [preserves_iff]

theorem execProgramInstall_sound (job : Nat) (img : ProgImage) (s : State) :
    SoundAnswer true s (execProgramInstall job img s) := by
  refine onLib_sound fun j => ?_
  dsimp only
  repeat' split
  all_goals simp [preserves_iff]

theorem execProgramRemove_sound (job : Nat) (s : State) : SoundAnswer true s (execProgramRemove job s) := by
  refine onLib_sound fun j => ?_
  dsimp only
  repeat' split
  all_goals simp [preserves_iff]

theorem execProgramInfo_sound (job : Nat) (s : State) : SoundAnswer true s (execProgramInfo job s) := by
  refine onLib_sound fun j => ?_
  dsimp only
  split <;> simp [preserves_iff]

theorem execProgramCutover_sound (s : State) : SoundAnswer true s (execProgramCutover s) := by
  refine onUnit_sound ?_
  split
  · exact .refl s
  split
  · exact .refl s
  refine .ite (.refl s) ?_
  refine .trans ?_ (foldl_preserves _ _ fun s sl => .of_hbm (raise_keeps s sl _) (raise_hbm s sl _))
  simp [preserves_iff]

theorem execCtlGet_sound (job : Nat) (s : State) : SoundAnswer true s (execCtlGet job s) :=
  onLib_sound fun j => by simp [preserves_iff]

theorem execCtlSet_sound (job : Nat) (s : State) : SoundAnswer true s (execCtlSet job s) :=
  onLib_sound fun j => by simp +contextual [preserves_iff]

theorem execCtlSwap_sound (job : Nat) (s : State) : SoundAnswer true s (execCtlSwap job s) :=
  onLib_sound fun j => by simp +contextual [preserves_iff]

/-! ### Every command -/

/-- Every command, by its meaning's form: what it answers is sound. -/
theorem exec_sound (c : Instr) (s : State) : SoundAnswer c.wellFormed s (exec c s) := by
  cases c with
  | add o => exact alu_sound s
  | sub o => exact alu_sound s
  | mul o => exact alu_sound s
  | mulh o => exact alu_sound s
  | mulhu o => exact alu_sound s
  | and o => exact alu_sound s
  | or o => exact alu_sound s
  | xor o => exact alu_sound s
  | shl o => exact alu_sound s
  | shr o => exact alu_sound s
  | sar o => exact alu_sound s
  | cmp o => exact alu_sound s
  | b o => exact execB_sound o s
  | bcc o => exact execBcc_sound o s
  | call o => exact execCall_sound o s
  | ret o => exact execRet_sound o s
  | ldb o => exact scrLoad_sound o _ s
  | ldh o => exact scrLoad_sound o _ s
  | ldw o => exact scrLoad_sound o _ s
  | ldd o => exact scrLoad_sound o _ s
  | stb o => exact scrStore_sound o _ s
  | sth o => exact scrStore_sound o _ s
  | stw o => exact scrStore_sound o _ s
  | std o => exact scrStore_sound o _ s
  | ldx o => exact execLdx_sound o s
  | stx o => exact execStx_sound o s
  | aadd o => exact execAadd_sound o s
  | acas o => exact execAcas_sound o s
  | bget o => exact execBget_sound o s
  | bput o => exact execBput_sound o s
  | hsub o => exact execHsub_sound o s
  | hlen o => exact execHlen_sound o s
  | hnew o => exact execHnew_sound o s
  | recv o => exact execRecv_sound o s
  | send o => exact execSend_sound o s
  | dsub o => exact execDsub_sound o s
  | crd o => exact execCrd_sound o s
  | dwait o => exact execDwait_sound o s
  | capp o => exact execCapp_sound o s
  | mget o => exact execMget_sound o s
  | mset o => exact execMset_sound o s
  | haz o => exact execHaz_sound o s
  | hrel o => exact execHrel_sound o s
  | shka o => exact execShka_sound o s
  | shks o => exact execShks_sound o s
  | evw o => exact execEvw_sound o s
  | evs o => exact execEvs_sound o s
  | cget o => exact execCget_sound o s
  | cset o => exact execCset_sound o s
  | cswap o => exact execCswap_sound o s
  | pmc o => exact execPmc_sound o s
  | gets o => exact execGets_sound o s
  | yield o => exact execYield_sound o s
  | done o => exact execDone_sound o s
  | fail o => exact execFail_sound o s
  | trap o => exact execTrap_sound o s
  | budgetExhausted t => exact execBudgetExhausted_sound t s
  | jobResume job => exact execJobResume_sound job s
  | threadTakeWork slate => exact execThreadTakeWork_sound slate s
  | commandDispatch hq tag => exact execCommandDispatch_sound hq tag s
  | jobEnded job => exact execJobEnded_sound job s
  | hkTrapRestart slate n => exact execHkTrapRestart_sound slate n s
  | hkRestart slate n v => exact guardedRegOp_sound slate_lt_and s
  | evwEventReturn slate n => exact execEvwEventReturn_sound slate n s
  | evwTimeout job => exact execEvwTimeout_sound job s
  | eventLaunch slate event => exact execEventLaunch_sound slate event s
  | command d => exact execCommand_sound d s
  | dataIn d => exact execDataIn_sound d s
  | abort d => exact execAbort_sound d s
  | queueResetAbort d => exact execQueueResetAbort_sound d s
  | contextFetchDone hq => exact execContextFetchDone_sound hq s
  | parkPauseRelease slate => exact execParkPauseRelease_sound slate s
  | inboundBufferAlloc slate => exact execInboundBufferAlloc_sound slate s
  | rmaRead d => exact rma_sound s
  | rmaWrite d => exact rma_sound s
  | rmaAadd d => exact rma_sound s
  | rmaAcas d => exact rma_sound s
  | rmaAcas128 d => exact rma_sound s
  | rmaCopy d => exact rma_sound s
  | rmaCopyWr d => exact rma_sound s
  | copyChunkAnswer slate copy chunk status => exact execCopyChunkAnswer_sound slate copy chunk status s
  | copyChunkResend slate copy chunk => exact execCopyChunkResend_sound slate copy chunk s
  | copyChunkTimeout slate copy chunk => exact execCopyChunkTimeout_sound slate copy chunk s
  | readyRepeat => exact execReadyRepeat_sound s
  | portTrained slate sub' => exact execPortTrained_sound slate sub' s
  | pauseTimeout => exact execPauseTimeout_sound s
  | pfcPauseRx slate cls on => exact execPfcPauseRx_sound slate cls on s
  | linkDown slate sub' => exact execLinkDown_sound slate sub' s
  | portReconfigure slate v => exact regOp_sound slate_lt s
  | ptpSync slate sync => exact execPtpSync_sound slate sync s
  | ptpLoss => exact execPtpLoss_sound s
  | frameArrival f => exact execFrameArrival_sound f s
  | outputSelect slate port sub' => exact execOutputSelect_sound slate port sub' s
  | wheelSlot slate port sub' => exact execWheelSlot_sound slate port sub' s
  | gateTakeover slate => exact execGateTakeover_sound slate s
  | glInstall slate v => exact regOp_sound slate_lt s
  | glDisable slate v => exact regOp_sound slate_lt s
  | queueCreditReset slate port cls v => exact guardedRegOp_sound slate_lt_and_and s
  | policerReset slate cls v => exact guardedRegOp_sound slate_lt_and s
  | peerPauseExpiry slate cls => exact execPeerPauseExpiry_sound slate cls s
  | fabricLinkError slate link => exact execFabricLinkError_sound slate link s
  | fabricLinkDown slate link => exact execFabricLinkDown_sound slate link s
  | multicastDone slate frame => exact execMulticastDone_sound slate frame s
  | lookupWaitRelease slate frame => exact execLookupWaitRelease_sound slate frame s
  | swb slate v => exact regOp_sound slate_lt s
  | swbDone slate => exact execSwbDone_sound slate s
  | fillWindowExpiry ordinal => exact execFillWindowExpiry_sound ordinal s
  | leadHandover kind => exact execLeadHandover_sound kind s
  | coursePour ordinal => exact execCoursePour_sound ordinal s
  | stripWriteDone ordinal pos => exact execStripWriteDone_sound ordinal pos s
  | stripWriteFail ordinal pos => exact execStripWriteFail_sound ordinal pos s
  | courseDurable ordinal => exact execCourseDurable_sound ordinal s
  | courseRelease ordinal => exact execCourseRelease_sound ordinal s
  | holderAck owner holder seq => exact execHolderAck_sound owner holder seq s
  | holderTimeout owner holder => exact execHolderTimeout_sound owner holder s
  | logLineFree owner => exact execLogLineFree_sound owner s
  | leafWriteback volume leaf => exact execLeafWriteback_sound volume leaf s
  | resync trusted => exact execResync_sound trusted s
  | memberLinkLoss m => exact execMemberLinkLoss_sound m s
  | cstsPoll m cfs => exact execCstsPoll_sound m cfs s
  | cmdTimeout m cmd => exact execCmdTimeout_sound m cmd s
  | abortGraceExpiry m cmd => exact execAbortGraceExpiry_sound m cmd s
  | readyMaxExpiry m => exact execReadyMaxExpiry_sound m s
  | nvmeCompletion m cmd r => exact execNvmeCompletion_sound m cmd r s
  | driveInsert m d => exact execDriveInsert_sound m d s
  | holdOut m v => exact regOp_sound member_lt s
  | rebuildStart m => exact execRebuildStart_sound m s
  | rebuildCourse slate share ordinal => exact execRebuildCourse_sound slate share ordinal s
  | copyBackStrip m => exact execCopyBackStrip_sound m s
  | memberQuorum => exact execMemberQuorum_sound s
  | quorumWaitExpiry => exact execQuorumWaitExpiry_sound s
  | quorumForce slate v => exact regOp_sound slate_lt s
  | lostClr slate v => exact regOp_sound slate_lt s
  | heartbeatSend slate => exact execHeartbeatSend_sound slate s
  | heartbeatRx slate h => exact execHeartbeatRx_sound slate h s
  | partnerLost => exact execPartnerLost_sound s
  | renewalRound => exact execRenewalRound_sound s
  | roundComplete answers => exact execRoundComplete_sound answers s
  | leaseExpiry => exact execLeaseExpiry_sound s
  | witnessPoll views answers => exact execWitnessPoll_sound views answers s
  | acquireRetry views answers => exact execAcquireRetry_sound views answers s
  | leaseRelease v => exact unitRegOp_sound s
  | degRelRelease => exact execDegRelRelease_sound s
  | witnessChange v => exact unitRegOp_sound s
  | exclRound => exact execExclRound_sound s
  | helloSend => exact execHelloSend_sound s
  | hello up h => exact execHello_sound up h s
  | chainPartnerTimeout up => exact execChainPartnerTimeout_sound up s
  | change => exact execChange_sound s
  | enumStart => exact execEnumStart_sound s
  | enumPeriodic => exact execEnumPeriodic_sound s
  | census c => exact execCensus_sound c s
  | tally c => exact execTally_sound c s
  | assign c => exact execAssign_sound c s
  | chainAssign v => exact unitRegOp_sound s
  | enumNow v => exact unitRegOp_sound s
  | detectorOccurrence slate space src detail => exact execDetectorOccurrence_sound slate space src detail s
  | injFire slate space inj => exact execInjFire_sound slate space inj s
  | coreSilent => exact execCoreSilent_sound s
  | faultPulseEnd => exact execFaultPulseEnd_sound s
  | faultHold v => exact unitRegOp_sound s
  | shadowClose shadow ready => exact execShadowClose_sound shadow ready s
  | scDisable slate v => exact regOp_sound slate_lt s
  | scDrainDone slate => exact execScDrainDone_sound slate s
  | scEnable slate v => exact regOp_sound slate_lt s
  | engineCacheInvalidate slate v => exact regOp_sound slate_lt s
  | wayRestore slate v => exact regOp_sound slate_lt s
  | hbmScrub slate => exact execHbmScrub_sound slate s
  | counterSelect slate k v => exact guardedRegOp_sound slate_lt_and s
  | ovfClr slate k v => exact guardedRegOp_sound slate_lt_and s
  | counterDump slate => exact execCounterDump_sound slate s
  | ringConsume slate sample v => exact regOp_sound slate_lt s
  | sampleSelect t insn => exact execSampleSelect_sound t insn s
  | switchPeakClr slate v => exact regOp_sound slate_lt s
  | supplyPeakClr v => exact unitRegOp_sound s
  | supplyMeasure vinA vinB iin pin => exact execSupplyMeasure_sound vinA vinB iin pin s
  | keyWrite slate v => exact regOp_sound slate_lt s
  | keyLoad slate v => exact regOp_sound slate_lt s
  | keyInvalidate slate v => exact regOp_sound slate_lt s
  | queueRegister slate v => exact regOp_sound slate_lt s
  | queueDestroy slate v => exact regOp_sound slate_lt s
  | queueReset slate v => exact regOp_sound slate_lt s
  | windowDefine slate v => exact regOp_sound slate_lt s
  | windowReuse slate v => exact regOp_sound slate_lt s
  | windowDestroy slate v => exact regOp_sound slate_lt s
  | attest v => exact unitRegOp_sound s
  | cert v => exact unitRegOp_sound s
  | enrol v => exact unitRegOp_sound s
  | provision v => exact unitRegOp_sound s
  | fwStage v => exact unitRegOp_sound s
  | fwCommit v => exact unitRegOp_sound s
  | secureOpComplete o => exact execSecureOpComplete_sound o s
  | read job => exact execRead_sound job s
  | write job => exact execWrite_sound job s
  | atomicWrite job => exact execAtomicWrite_sound job s
  | compareAndWrite job => exact execCompareAndWrite_sound job s
  | deallocate job => exact execDeallocate_sound job s
  | flush job => exact execFlush_sound job s
  | volumeCreate job => exact execVolumeCreate_sound job s
  | volumeDelete job => exact execVolumeDelete_sound job s
  | volumeResize job => exact execVolumeResize_sound job s
  | volumeInfo job => exact execVolumeInfo_sound job s
  | volumeCutover volume => exact execVolumeCutover_sound volume s
  | sanitize call => exact execSanitize_sound call s
  | format job => exact execFormat_sound job s
  | adminStatus job => exact execAdminStatus_sound job s
  | powerState job => exact execPowerState_sound job s
  | psEntryDone => exact execPsEntryDone_sound s
  | programInstall job img => exact execProgramInstall_sound job img s
  | programRemove job => exact execProgramRemove_sound job s
  | programInfo job => exact execProgramInfo_sound job s
  | programCutover => exact execProgramCutover_sound s
  | ctlGet job => exact execCtlGet_sound job s
  | ctlSet job => exact execCtlSet_sound job s
  | ctlSwap job => exact execCtlSwap_sound job s
  | powerStart p => exact execPowerStart_sound p s
  | resetExit b' => exact execResetExit_sound b' s
  | replayDone copies => exact execReplayDone_sound copies s
  | perstRelease m => exact execPerstRelease_sound m s
  | pcycAssert lowUs => exact execPcycAssert_sound lowUs s
  | offTimeExpiry => exact execOffTimeExpiry_sound s
  | lastMateBreak => exact execLastMateBreak_sound s
  | supplyCollapse feedA feedB => exact execSupplyCollapse_sound feedA feedB s
  | thermalPoll diodes => exact execThermalPoll_sound diodes s
  | vcoLockLoss => exact execVcoLockLoss_sound s
  | vcoLossTimeout => exact execVcoLossTimeout_sound s
  | rotHorizonExpiry slate entry => exact execRotHorizonExpiry_sound slate entry s
  | windowAvailExpiry slate index => exact execWindowAvailExpiry_sound slate index s
  | gateListEntry slate => exact execGateListEntry_sound slate s
  | fabricLinkTrained slate link => exact execFabricLinkTrained_sound slate link s
  | partnerLaneError slate => exact execPartnerLaneError_sound slate s
  | controllerReady m => exact execControllerReady_sound m s
  | prsntDeassert m => exact execPrsntDeassert_sound m s
  | psExitDone => exact execPsExitDone_sound s
  | relDrainExpiry => exact execRelDrainExpiry_sound s
  | counterWrap slate k => exact execCounterWrap_sound slate k s
  | pauseRefresh slate => exact execPauseRefresh_sound slate s

/-! ### The statements -/

/-- Settles O2: every arm of `exec` has one of the forms above, and each form's answer is sound. -/
theorem everyCommandAnswers : Obligations.EveryCommandAnswers := by
  unfold Obligations.EveryCommandAnswers
  intro c s
  obtain ⟨ho, hw⟩ | ⟨t, ho, ⟨hn, hp⟩, -⟩ := exec_sound c s
  · refine ⟨.inl ho, fun h8 hwf => ?_⟩
    rw [hw h8] at hwf
    cases hwf
  · exact ⟨.inr ⟨t, ho, hp, hn⟩, fun _ _ => ⟨t, ho⟩⟩

theorem step_preserves {s t : State} (h : step s = .next t) :
    t.n = s.n ∧ t.pending = s.pending.tail ∧ (BytesOk s.hbm → BytesOk t.hbm) := by
  unfold step at h
  split at h
  next hq =>
    cases h
    obtain ⟨⟨hn, hp⟩, hm⟩ := tick_preserves s
    exact ⟨hn, by rw [hp, hq]; rfl, hm⟩
  next c r hq =>
    obtain ⟨ho, -⟩ | ⟨u, ho, ⟨hn, hp⟩, hm⟩ := exec_sound c { s with pending := r } <;> rw [ho] at h <;> cases h
    exact ⟨hn, by rw [hp, hq]; rfl, hm⟩

/-- Settles O3: a nanosecond and every command preserve the invariant, and the command that runs is the one taken from the queue. -/
theorem stepKeepsInvariant : Obligations.StepKeepsInvariant := by
  unfold Obligations.StepKeepsInvariant
  intro s t hv hm hs
  obtain ⟨hn, hp, hb⟩ := step_preserves hs
  refine ⟨?_, hb hm, hn, hp⟩
  unfold Variant
  rw [hn]
  exact hv

theorem reset_not_serving (sl : Nat) : serving State.reset sl = false := rfl

theorem reset_hbm_zero (a : Nat) : tabGetD State.reset.hbm a 0 = 0 := rfl

theorem reset_now (sl : Nat) : now State.reset sl = 0 := rfl

theorem reset_ctlRising : CtlRising State.reset := by decide

theorem reset_housekeeping : ∀ sl < 8, ∀ k < 8,
    getF State.reset sl (F.ENGINE.HK_SLOT k) = 0xF8 + k ∧ getF State.reset sl (F.ENGINE.HK_EN k) = 1 := by decide

theorem reset_slateFields : ∀ sl < 8,
    getF State.reset sl F.XPORT.PAUSE_MAX = 20 ∧ getF State.reset sl F.XPORT.DUP_HORIZON = 500 ∧
    getF State.reset sl F.DRIVE.CMD_TIMEOUT = 500 ∧ getF State.reset sl F.SWITCH.PEER_PAUSE_MAX = 200 ∧
    getF State.reset sl F.MEM.SC_EN = 1 := by decide

theorem reset_leaseFields : getF State.reset 0 F.LEASE.HB_MISS = 5 ∧ getF State.reset 0 F.LEASE.REL_DRAIN = 100 := by decide

/-- Settles O5: the tables of the reset state are empty, and its control-space entries, of which there are finitely many, stand at
their Reset column. -/
theorem resetState : Obligations.ResetState := by
  unfold Obligations.ResetState
  exact ⟨.inr (.inr rfl), rfl, rfl, reset_ctlRising, rfl, reset_not_serving, rfl, rfl, rfl, reset_hbm_zero, reset_now,
    rfl, rfl, rfl, rfl, rfl, fun sl h => ⟨reset_housekeeping sl h, reset_slateFields sl h⟩, reset_leaseFields⟩

end Sys2Proof.Scope
end

section
/-! What a step runs: the front of the queue, and no word of the opcode table in its place (R9; log entries 2 and 3). -/

namespace Sys2Proof.Steps

open Sys2Proof Sys2Proof.Machine

theorem step_of_pending {s : State} {c : Instr} {r : List Instr} (h : s.pending = c :: r) :
    step s = exec c { s with pending := r } := by
  unfold step
  rw [h]

theorem step_of_idle {s : State} (h : s.pending = []) : step s = .next (tick s) := by
  unfold step
  rw [h]

theorem decodeTableWord_none (nbits w : Nat) : decodeTableWord nbits w = none := rfl

theorem withFetchWord_id (s : State) (nbits w : Nat) : s.withFetchWord nbits w = s := by
  unfold State.withFetchWord
  rw [decodeTableWord_none]

/-- Settles O1: a step is the meaning of the queue's front, and the opcode table gives no word a command. -/
theorem stepRunsFront : Obligations.StepRunsFront := by
  unfold Obligations.StepRunsFront
  exact ⟨fun _ _ _ => step_of_pending rfl, fun _ => step_of_idle, fun s n w => ⟨decodeTableWord_none n w, withFetchWord_id s n w⟩⟩

end Sys2Proof.Steps
end

section
/-! The device-memory instructions of a job: LDX, STX and the addresses of the atomics (R16, R28, R59).

LDX, STX, AADD and ACAS share one shape, `memBody`: the checks of R59, the home that may be lost, and the access itself. It is
settled once, in the state the instruction runs in, and the checks are carried from there to the state before it. -/

namespace Sys2Proof.Access

open Sys2Proof Sys2Proof.Machine

/-! ### Bytes -/

@[simp] theorem length_leBytes (k x : Nat) : (leBytes k x).length = k := by
  induction k generalizing x with
  | zero => rfl
  | succ k ih => exact congrArg (· + 1) (ih _)

theorem leNat_leBytes (k x : Nat) : leNat (leBytes k x) = x % 256 ^ k := by
  induction k generalizing x with
  | zero => simp [leBytes, leNat, Nat.mod_one]
  | succ k ih =>
    calc leNat (leBytes (k + 1) x) = x % 256 + 256 * (x / 256 % 256 ^ k) := by
          rw [← ih]
          simp [leBytes, leNat]
      _ = x % 256 ^ (k + 1) := by rw [Nat.pow_succ', Nat.mod_mul]

theorem hbmRead_congr {s t : State} (h : t.hbm = s.hbm) (a len : Nat) : hbmRead t a len = hbmRead s a len := by
  simp [hbmRead, h]

theorem poisoned_congr {s t : State} (h : t.poison = s.poison) (a len : Nat) : poisoned t a len = poisoned s a len := by
  simp [poisoned, h]

/-! ### The state an uncounted instruction runs in -/

theorem uncounted_enabled {s : State} {sl : Nat} (h : Uncounted s sl) (p : Nat → Bool) :
    (List.range 16).any (fun k => isF s sl (F.PERF.EN k) && p k) = false := by
  simp only [List.any_eq_false, List.mem_range]
  intro k hk
  simp [h.counters k hk]

theorem countIcMiss_uncounted {s : State} {sl : Nat} (h : Uncounted s sl) (miss : Bool) : countIcMiss s sl miss = s := by
  have skip (l : List Nat) (hl : ∀ k ∈ l, k < 16) : l.foldl (fun s k =>
      if isF s sl (F.PERF.EN k) && getF s sl (F.PERF.SRC k) == srcIcMiss && miss then addCounter s sl k 1 else s) s = s := by
    induction l with
    | nil => rfl
    | cons k l ih =>
      rw [List.foldl_cons, h.counters k (hl k (by simp))]
      simpa using ih fun i hi => hl i (by simp [hi])
  exact skip _ fun k => List.mem_range.1

theorem countStall_uncounted {s : State} {sl : Nat} (h : Uncounted s sl) (w : InsnWord) : countStall s sl w = s := by
  unfold countStall
  rw [uncounted_enabled h fun k => getF s sl (F.PERF.SRC k) == srcStallM]
  simp

/-- The fetch of an uncounted instruction moves its instruction cache and no control-space entry. -/
theorem icFetch_uncounted {s : State} {sl : Nat} (h : Uncounted s sl) (e prog w : Nat) (look : Bool) :
    (icFetch s sl e prog w look).ctl = s.ctl ∧ (icFetch s sl e prog w look).n = s.n ∧ Uncounted (icFetch s sl e prog w look) sl := by
  have hc : (icFetch s sl e prog w look).ctl = s.ctl := by
    simp only [icFetch, countIcMiss_uncounted h]
    split <;> rfl
  have hn : (icFetch s sl e prog w look).n = s.n := (icFetch_keeps s sl e prog w look).1
  refine ⟨hc, hn, uncounted_congr hc hn ?_ h⟩
  simp

theorem fetchWords_ctl {s : State} {t : Thread} (h : Uncounted s t.slate) (j : Job) (len : Nat) :
    (fetchWords s t j len).ctl = s.ctl := by
  obtain ⟨hc, -, h1⟩ := icFetch_uncounted h (t.idx / 4) j.prog j.pc true
  obtain ⟨hc', -, h2⟩ := icFetch_uncounted h1 (t.idx / 4) j.prog (j.pc + 1) (icLine j.prog (j.pc + 1) != icLine j.prog j.pc)
  unfold fetchWords
  extract_lets e u v
  have hv : v.ctl = s.ctl ∧ Uncounted v t.slate := by
    by_cases hl : len = 1
    · simp only [v, if_pos hl]
      exact ⟨hc, h1⟩
    · simp only [v, if_neg hl]
      exact ⟨hc'.trans hc, h2⟩
  split
  · rw [countStall_uncounted hv.2, hv.1]
  · exact hv.1

section Fetched

variable {s : State} {t : Thread} {id : Nat} {j : Job} {len : Nat}

theorem fetched_ctl (hj : j.slate = t.slate) (hu : Uncounted s t.slate) : (fetched s t id j len).ctl = s.ctl := by
  unfold fetched
  have hi : (issued s t id j).ctl = s.ctl ∧ Uncounted (issued s t id j) t.slate := by
    rw [issued_uncounted hj hu]
    exact ⟨rfl, uncounted_congr (s := s) rfl rfl rfl hu⟩
  exact (fetchWords_ctl hi.2 _ _).trans hi.1

theorem fetched_n (s : State) (t : Thread) (id : Nat) (j : Job) (len : Nat) : (fetched s t id j len).n = s.n :=
  (fetchWords_keeps _ _ _ _).1.trans (issued_n s t id j)

theorem fetched_hbm (s : State) (t : Thread) (id : Nat) (j : Job) (len : Nat) : (fetched s t id j len).hbm = s.hbm := by
  obtain ⟨-, -, -, -, -, hh, -⟩ := fetchWords_frame (issued s t id j) t (begun j) len
  exact hh.trans (issued_hbm s t id j)

theorem fetched_lost (s : State) (t : Thread) (id : Nat) (j : Job) (len : Nat) : (fetched s t id j len).lost = s.lost := by
  obtain ⟨-, -, -, -, hl, -⟩ := fetchWords_frame (issued s t id j) t (begun j) len
  exact hl.trans (issued_lost s t id j)

theorem fetched_poison (s : State) (t : Thread) (id : Nat) (j : Job) (len : Nat) : (fetched s t id j len).poison = s.poison := by
  obtain ⟨-, -, -, -, -, -, hp, -⟩ := fetchWords_frame (issued s t id j) t (begun j) len
  exact hp.trans (by simp [issued, beginInsn])

theorem fetched_sampling (hj : j.slate = t.slate) (hu : Uncounted s t.slate) :
    (fetched s t id j len).sampling = s.sampling := by
  obtain ⟨-, -, -, -, -, -, -, hs, -⟩ := fetchWords_frame (issued s t id j) t (begun j) len
  refine hs.trans ?_
  rw [issued_uncounted hj hu]
  rfl

/-! ### The checks of R59 -/

/-- A MEM address is valid (R16). -/
def Valid (s : State) (a : Nat) : Prop := memHome a < s.n ∧ memOff a < stackBytes ∧ a < 2 ^ 40

theorem memCheck_congr {s t : State} (hc : t.ctl = s.ctl) (hn : t.n = s.n) (keep : Bool) (a size : Nat) :
    memCheck t keep a size = memCheck s keep a size := by
  simp [memCheck, regionOk, hn, getF_congr hc hn]

theorem regionOk_iff (s : State) (keep : Bool) (a size : Nat) : regionOk s keep a size = true ↔
    if keep then memOff a + size ≤ deviceBase
    else getF s (memHome a) F.ENGINE.HEAP_BASE * 2 ^ 20 ≤ memOff a ∧ memOff a + size ≤ getF s (memHome a) F.ENGINE.HEAP_LIMIT * 2 ^ 20 := by
  cases keep <;> simp [regionOk]

theorem memCheck_invalid {a : Nat} (h : ¬ Valid s a) (keep : Bool) (size : Nat) : memCheck s keep a size = some St.outOfRange := by
  have : s.n ≤ memHome a ∨ stackBytes ≤ memOff a ∨ 2 ^ 40 ≤ a := by
    unfold Valid at h
    omega
  simp only [memCheck, if_pos this]

theorem memCheck_valid {a : Nat} (h : Valid s a) (keep : Bool) (size : Nat) : memCheck s keep a size =
    if !regionOk s keep a size then some St.bounds else if a % size ≠ 0 then some St.illegalField else none := by
  have : ¬ (s.n ≤ memHome a ∨ stackBytes ≤ memOff a ∨ 2 ^ 40 ≤ a) := by
    unfold Valid at h
    omega
  simp only [memCheck, if_neg this]

theorem memCheck_outside {a : Nat} {keep : Bool} {size : Nat} (h : Valid s a) (hr : ¬ regionOk s keep a size = true) :
    memCheck s keep a size = some St.bounds := by
  rw [memCheck_valid h, Bool.eq_false_of_not_eq_true hr]
  rfl

theorem memCheck_unaligned {a : Nat} {keep : Bool} {size : Nat} (h : Valid s a) (hr : regionOk s keep a size = true)
    (ha : a % size ≠ 0) : memCheck s keep a size = some St.illegalField := by
  rw [memCheck_valid h, hr, if_neg (by simp), if_pos ha]

theorem memCheck_passes {a : Nat} {keep : Bool} {size : Nat} (h : Valid s a) (hr : regionOk s keep a size = true)
    (ha : a % size = 0) : memCheck s keep a size = none := by
  rw [memCheck_valid h, hr, if_neg (by simp), if_neg (by simp [ha])]

/-- At or above the last slate's stack, or above 24 GiB of one, no address is valid. -/
theorem not_valid_of_beyond {a : Nat} (h : s.n * 2 ^ 37 ≤ a ∨ stackBytes ≤ memOff a) : ¬ Valid s a := by
  unfold Valid memHome
  omega

/-! ### The shared body -/

/-- What LDX, STX, AADD and ACAS do at the address `addr` gives: the checks of R59, then the access `go` unless the home is lost. -/
def memBody (addr : Job → Nat) (size : Nat) (go : State → Nat → Job → State) (s : State) (id : Nat) (j : Job) : State :=
  match memCheck s j.keep (addr j) size with
  | some st => trapJob s id st
  | none => if tabHas s.lost (memHome (addr j)) then lostHomeJob s id else go s id j

/-- The access of LDX. -/
def ldxAccess (o : RForm) (s : State) (id : Nat) (j : Job) : State :=
  let size := sizeOf2 o.minor.toNat
  let a := (rd j o.a + rd j o.b).toNat
  let s := engineRead s j.slate (engineOf j) a
  if poisoned s a size then poisonJob s id a
  else finish s id (wr j o.d (BitVec.ofNat 64 (leNat (hbmRead s a size)))) 1

/-- The access of STX. -/
def stxAccess (o : RForm) (s : State) (id : Nat) (j : Job) : State :=
  let size := sizeOf2 o.minor.toNat
  let a := (rd j o.a + rd j o.b).toNat
  let s := engineWrite s j.slate (engineOf j) a
  if size < 8 && poisoned s a size then poisonJob s id a
  else finish (hbmWrite s a (leBytes size (rd j o.d).toNat)) id j 1

/-- The access of an atomic, whose effect is `body`. -/
def atomicGo (o : R3) (body : State → Nat → Job → Nat → Word → State) (s : State) (id : Nat) (j : Job) : State :=
  let a := (rd j o.a).toNat
  let s := atomicAccess (granted s (ptrAtomic (memHome a)) j.slate 8) a
  if poisoned s a 8 then poisonJob s id a else body s id j a (BitVec.ofNat 64 (leNat (hbmRead s a 8)))

theorem exec_ldx {o : RForm} (h : serving s o.t.slate = true) : exec (.ldx o) s = .next (issue o.t s 1 (o.minor.toNat / 4 == 0) false
    (memBody (fun j => (rd j o.a + rd j o.b).toNat) (sizeOf2 o.minor.toNat) (ldxAccess o))) := by
  have arm : exec (.ldx o) s = execLdx o s := rfl
  rw [arm]
  exact onThread_serving (fun s => issue o.t s 1 _ _ (memBody _ _ (ldxAccess o))) h

theorem exec_stx {o : RForm} (h : serving s o.t.slate = true) : exec (.stx o) s = .next (issue o.t s 1 (o.minor.toNat / 4 == 0) false
    (memBody (fun j => (rd j o.a + rd j o.b).toNat) (sizeOf2 o.minor.toNat) (stxAccess o))) := by
  have arm : exec (.stx o) s = execStx o s := rfl
  rw [arm]
  exact onThread_serving (fun s => issue o.t s 1 _ _ (memBody _ _ (stxAccess o))) h

theorem atomicInsn_memBody {o : R3} (h : serving s o.t.slate = true) (body : State → Nat → Job → Nat → Word → State) :
    atomicInsn o s body = .next (issue o.t s 1 true false (memBody (fun j => (rd j o.a).toNat) 8 (atomicGo o body))) :=
  onThread_serving (fun s => issue o.t s 1 true false (memBody _ 8 (atomicGo o body))) h

theorem exec_aadd {o : R3} (h : serving s o.t.slate = true) : exec (.aadd o) s = .next (issue o.t s 1 true false
    (memBody (fun j => (rd j o.a).toNat) 8 (atomicGo o fun s id j a old =>
      finish (hbmWrite s a (leBytes 8 (old + rd j o.b).toNat)) id (wr j o.d old) 1))) := by
  have arm : exec (.aadd o) s = execAadd o s := rfl
  rw [arm]
  exact atomicInsn_memBody h _

theorem exec_acas {o : R3} (h : serving s o.t.slate = true) : exec (.acas o) s = .next (issue o.t s 1 true false
    (memBody (fun j => (rd j o.a).toNat) 8 (atomicGo o fun s id j a old =>
      finish (if old == rd j o.d then hbmWrite s a (leBytes 8 (rd j o.b).toNat) else s) id
        { wr j o.d old with z := old == rd j o.d } 1))) := by
  have arm : exec (.acas o) s = execAcas o s := rfl
  rw [arm]
  exact atomicInsn_memBody h _

section Body

variable {c : Instr} {legal : Bool} {addr : Job → Nat} {size : Nat} {go : State → Nat → Job → State} {st : Status}

/-- A check of R59 that fails traps the job. -/
theorem traps_of_memCheck (h : Issues s t id j len) (hu : Uncounted s t.slate)
    (he : exec c s = .next (issue t s len legal false (memBody addr size go))) (hl : legal = true) (ha : addr (begun j) = addr j)
    (hc : memCheck s j.keep (addr j) size = some st) : Traps c s id st := by
  refine traps_of_trapJob (jobOf_fetched s t id j len) ?_
  rw [he, issue_begins h hl (by simp)]
  have hc' : memCheck (fetched s t id j len) (begun j).keep (addr (begun j)) size = some st := by
    rw [ha]
    exact (memCheck_congr (fetched_ctl h.slate hu) (fetched_n ..) ..).trans hc
  simp only [memBody, hc']

/-- An access that passes the checks of R59, to a home that is not lost, is made. -/
theorem next_of_memCheck (h : Issues s t id j len) (hu : Uncounted s t.slate)
    (he : exec c s = .next (issue t s len legal false (memBody addr size go))) (hl : legal = true) (ha : addr (begun j) = addr j)
    (hc : memCheck s j.keep (addr j) size = none) (hh : tabHas s.lost (memHome (addr j)) = false) :
    exec c s = .next (sampleAfter (go (fetched s t id j len) id (begun j)) id) := by
  have hc' : memCheck (fetched s t id j len) (begun j).keep (addr (begun j)) size = none := by
    rw [ha]
    exact (memCheck_congr (fetched_ctl h.slate hu) (fetched_n ..) ..).trans hc
  have hh' : tabHas (fetched s t id j len).lost (memHome (addr (begun j))) = false := by rw [ha, fetched_lost, hh]
  rw [he, issue_begins h hl (by simp)]
  simp only [memBody, hc', hh']
  rfl

end Body

/-! ### The end of an access -/

/-- An instruction that finishes leaves its job with the PC moved on. -/
theorem leaves_of_finish {c : Instr} {u : State} {j' : Job} (h : exec c s = .next (sampleAfter (finish u id j' len) id)) :
    Leaves c s id { j' with pc := j'.pc + len } :=
  ⟨_, h, by rw [jobOf_congr (sampleAfter_jobs _ _), jobOf_finish]⟩

/-- An instruction that finishes with a result completes. -/
theorem completes_of_finish {c : Instr} {u : State} {d : Reg} {r : Word}
    (h : exec c s = .next (sampleAfter (finish u id (wr (begun j) d r) len) id)) : Completes c s id j len d r j.z j.n j.c j.v := by
  obtain ⟨t, ht, hj⟩ := leaves_of_finish h
  refine ⟨t, _, ht, hj, fun x => rd_wr (begun j) d x r, ?_⟩
  rw [wr_eq]
  rfl

/-- Where its slate samples nothing, a finished instruction leaves memory as it had it. -/
theorem hbm_sampleAfter_finish {u v : State} {j' : Job} (hv : v = sampleAfter (finish u id j' len) id)
    (ht : (samplingOf u j'.slate).tags = []) : v.hbm = u.hbm := by
  rw [hv, sampleAfter_untagged (jobOf_finish u id j' len) (by simpa [samplingOf, finish, putJob] using ht), finish_hbm]

end Fetched

/-! ### LDX and STX -/

section Access

variable {s : State} {id : Nat} {j : Job} {o : RForm}

/-- The address LDX and STX name. -/
def memArg (o : RForm) (j : Job) : Nat := (rd j o.a + rd j o.b).toNat

theorem ldxAccess_unpoisoned {u : State} (hp : poisoned u (memArg o j) (sizeOf2 o.minor.toNat) = false) :
    ldxAccess o u id j = finish (engineRead u j.slate (engineOf j) (memArg o j)) id
      (wr j o.d (BitVec.ofNat 64 (leNat (hbmRead u (memArg o j) (sizeOf2 o.minor.toNat))))) 1 := by
  have hp' := (poisoned_congr (s := u) (t := engineRead u j.slate (engineOf j) (memArg o j)) (by simp) _ _).trans hp
  have hm := hbmRead_congr (s := u) (t := engineRead u j.slate (engineOf j) (memArg o j)) (by simp)
  unfold memArg at hp' hm ⊢
  simp only [ldxAccess, hp', hm, Bool.false_eq_true, if_false]

theorem stxAccess_unpoisoned {u : State} (hp : poisoned u (memArg o j) (sizeOf2 o.minor.toNat) = false) :
    stxAccess o u id j = finish (hbmWrite (engineWrite u j.slate (engineOf j) (memArg o j)) (memArg o j)
      (leBytes (sizeOf2 o.minor.toNat) (rd j o.d).toNat)) id j 1 := by
  have hp' := (poisoned_congr (s := u) (t := engineWrite u j.slate (engineOf j) (memArg o j)) (by simp) _ _).trans hp
  unfold memArg at hp' ⊢
  simp only [stxAccess, hp', Bool.and_false, Bool.false_eq_true, if_false]

variable (h : Issues s o.t id j 1) (hu : Uncounted s o.t.slate) (hm : o.minor.toNat < 4)

theorem sizeOf2_minor {m : Nat} (hm : m < 4) : sizeOf2 m = 2 ^ m := by rw [sizeOf2, Nat.mod_eq_of_lt hm]

include h hu hm

/-- LDX and STX trap where a check of R59 fails. -/
theorem ldx_stx_trap {st : Status} (hc : memCheck s j.keep (memArg o j) (2 ^ o.minor.toNat) = some st) :
    Traps (.ldx o) s id st ∧ Traps (.stx o) s id st := by
  have hl : (o.minor.toNat / 4 == 0) = true := by simp [Nat.div_eq_of_lt hm]
  rw [← sizeOf2_minor hm] at hc
  exact ⟨traps_of_memCheck h hu (exec_ldx h.serves) hl rfl hc, traps_of_memCheck h hu (exec_stx h.serves) hl rfl hc⟩

section Granted

variable (hc : memCheck s j.keep (memArg o j) (2 ^ o.minor.toNat) = none) (hh : tabHas s.lost (memHome (memArg o j)) = false)
  (hp : poisoned s (memArg o j) (2 ^ o.minor.toNat) = false)

include hc hh hp

theorem ldx_finishes : ∃ u, exec (.ldx o) s = .next (sampleAfter (finish u id
      (wr (begun j) o.d (BitVec.ofNat 64 (leNat (hbmRead s (memArg o j) (2 ^ o.minor.toNat))))) 1) id) ∧
    u.hbm = s.hbm ∧ u.sampling = s.sampling := by
  rw [← sizeOf2_minor hm] at hc hp ⊢
  have hp' := (poisoned_congr (fetched_poison s o.t id j 1) _ _).trans hp
  have he := next_of_memCheck h hu (exec_ldx h.serves) (by simp [Nat.div_eq_of_lt hm]) rfl hc hh
  rw [ldxAccess_unpoisoned (j := begun j) hp', hbmRead_congr (fetched_hbm s o.t id j 1)] at he
  exact ⟨_, he, by simp [fetched_hbm], by simp [fetched_sampling h.slate hu]⟩

theorem stx_finishes : ∃ v, exec (.stx o) s = .next (sampleAfter (finish (hbmWrite v (memArg o j)
      (leBytes (2 ^ o.minor.toNat) (rd j o.d).toNat)) id (begun j) 1) id) ∧ v.hbm = s.hbm ∧ v.sampling = s.sampling := by
  rw [← sizeOf2_minor hm] at hc hp ⊢
  have hp' := (poisoned_congr (fetched_poison s o.t id j 1) _ _).trans hp
  have he := next_of_memCheck h hu (exec_stx h.serves) (by simp [Nat.div_eq_of_lt hm]) rfl hc hh
  rw [stxAccess_unpoisoned (j := begun j) hp'] at he
  exact ⟨_, he, by simp [fetched_hbm], by simp [fetched_sampling h.slate hu]⟩

theorem ldx_completes : Completes (.ldx o) s id j 1 o.d
    (BitVec.ofNat 64 (leNat (hbmRead s (memArg o j) (2 ^ o.minor.toNat)))) j.z j.n j.c j.v := by
  obtain ⟨u, he, -, -⟩ := ldx_finishes h hu hm hc hh hp
  exact completes_of_finish he

theorem ldx_hbm {u : State} (he : exec (.ldx o) s = .next u) : u.hbm = s.hbm := by
  obtain ⟨v, hv, hm', hs⟩ := ldx_finishes h hu hm hc hh hp
  cases he.symm.trans hv
  have ht := hu.tags
  rw [← h.slate] at ht
  refine (hbm_sampleAfter_finish rfl ?_).trans hm'
  rw [wr_eq]
  simpa [samplingOf, hs, begun] using ht

theorem stx_leaves : Leaves (.stx o) s id { begun j with pc := j.pc + 1 } := by
  obtain ⟨v, he, -, -⟩ := stx_finishes h hu hm hc hh hp
  exact leaves_of_finish he

theorem stx_stores {u : State} (he : exec (.stx o) s = .next u) :
    leNat (hbmRead u (memArg o j) (2 ^ o.minor.toNat)) = (rd j o.d).toNat % 256 ^ 2 ^ o.minor.toNat ∧
      ∀ y, y < memArg o j ∨ memArg o j + 2 ^ o.minor.toNat ≤ y → hbmRead u y 1 = hbmRead s y 1 := by
  obtain ⟨v, hv, hm', hs⟩ := stx_finishes h hu hm hc hh hp
  cases he.symm.trans hv
  have ht := hu.tags
  rw [← h.slate] at ht
  have hb := hbm_sampleAfter_finish (id := id) (len := 1) (j' := begun j) rfl
    (show (samplingOf (hbmWrite v (memArg o j) (leBytes (2 ^ o.minor.toNat) (rd j o.d).toNat)) (begun j).slate).tags = [] by
      simpa [samplingOf, hs, begun] using ht)
  constructor
  · have hr := hbmRead_hbmWrite_self v (memArg o j) (leBytes (2 ^ o.minor.toNat) (rd j o.d).toNat)
    rw [length_leBytes] at hr
    rw [hbmRead_congr hb, hr, leNat_leBytes]
  · intro y hy
    rw [hbmRead_congr hb, hbmRead_hbmWrite_outside _ _ _ _ (by simpa using hy), hbmRead_congr hm']

end Granted

end Access

theorem aadd_acas_trap {s : State} {id : Nat} {j : Job} {o : R3} {st : Status} (h : Issues s o.t id j 1)
    (hu : Uncounted s o.t.slate) (hc : memCheck s j.keep (rd j o.a).toNat 8 = some st) :
    Traps (.aadd o) s id st ∧ Traps (.acas o) s id st :=
  ⟨traps_of_memCheck h hu (exec_aadd h.serves) rfl rfl hc, traps_of_memCheck h hu (exec_acas h.serves) rfl rfl hc⟩

/-- Settles O11: the first check of R59 that fails decides the trap; with none the access is made, and its slate samples nothing
that could write memory after it. -/
theorem memoryEffect : Obligations.MemoryEffect := by
  unfold Obligations.MemoryEffect
  intro s t id j d a b m h hu hm size x home off valid region o
  have hv : valid ↔ Valid s x := Iff.rfl
  have hr : region ↔ regionOk s j.keep x size = true := (regionOk_iff s j.keep x size).symm
  rw [hv, hr]
  refine ⟨fun nv => ?_, fun nv => ?_, fun v nr => ?_, fun v r al => ?_, fun v r al hh hp => ?_⟩
  · exact ldx_stx_trap (o := o) h hu hm (memCheck_invalid nv _ _)
  · exact aadd_acas_trap (o := { t := t, d := d, a := a, b := b }) h hu (memCheck_invalid (not_valid_of_beyond nv) _ _)
  · exact ldx_stx_trap (o := o) h hu hm (memCheck_outside v nr)
  · exact ldx_stx_trap (o := o) h hu hm (memCheck_unaligned v r al)
  · have hc : memCheck s j.keep x size = none := memCheck_passes v r al
    refine ⟨ldx_completes (o := o) h hu hm hc hh hp, stx_leaves (o := o) h hu hm hc hh hp, fun u hu' y => ?_, fun u hu' => ?_⟩
    · exact hbmRead_congr (ldx_hbm (o := o) h hu hm hc hh hp hu') y 1
    · exact stx_stores (o := o) h hu hm hc hh hp hu'

end Sys2Proof.Access
end

section
/-! What a report leaves alone. Frames that enter the switch core, datagrams, events and detector hits move frames, queues, key
sequences, counters, captures and the pin's pulse, and nothing else (R38, R84, R107, R128, R231, R316).

`Reports s t` says so once, of each operation in the order of the definitions: `steady` is the state without the parts a report may
move; of control space every entry outside `noted` stays, and a PEND or STAT bit that is 1 stays 1. -/

namespace Sys2Proof.Reporting

open Sys2Proof Sys2Proof.Machine

/-- The state without the parts that a report may move. -/
def steady (s : State) : State :=
  { s with ctl := [], keySeq := [], evFwd := [], evPend := [], pauseBuf := [], frames := [], nextFrame := 0, outs := [], mcast := []
           pin := { s.pin with pulse := none, heldOff := [] } }

/-- The entries that a report may move: the fault quads (R84), PEND and EV_MERGED (R46), the switch core's peak and discard counters
(R240), EV_DROPPED (R131) and the counters of the fault pin (R328). -/
def noted (sp e : Nat) : Bool :=
  decide (0xF00 ≤ e) || (sp == 0x02 && (e == 0x21 || decide (0x800 ≤ e ∧ e < 0xA00))) || (sp == 0x04 && decide (3 ≤ e ∧ e ≤ 6)) ||
    (sp == 0x05 && e == 0x21) || (sp == 0x0E && decide (2 ≤ e ∧ e ≤ 3))

/-- Whether a noted entry holds neither PEND bits nor STAT: a report may give it any value. -/
def tally (sp e : Nat) : Bool := noted sp e && e != 0xF00 && !(sp == 0x02 && decide (0x800 ≤ e ∧ e < 0xA00))

structure Reports (s t : State) : Prop where
  steady : steady t = steady s
  entry : ∀ sl sp e, sp < 32 → e < 4096 → noted sp e = false → rawEntry t sl sp e = rawEntry s sl sp e
  pend : ∀ sl e, e < 2048 → Pending s sl e → Pending t sl e
  stat : ∀ sl e, e < 2048 → Detected s sl e → Detected t sl e

/-! ### Control-space entries -/

theorem ctlKey_inj {sl sp e sl' sp' e' : Nat} (hs : sp < 32) (he : e < 4096) (hs' : sp' < 32) (he' : e' < 4096)
    (h : ctlKey sl sp e = ctlKey sl' sp' e') : sl = sl' ∧ sp = sp' ∧ e = e' := by
  unfold ctlKey at h
  omega

section Fields

variable {s t : State} {sl sl' sp e : Nat} {f g : Fld}

theorem getF_of_rawEntry (h : rawEntry t sl f.sp f.e = rawEntry s sl f.sp f.e) : getF t sl f = getF s sl f := by
  simp only [getF, h]

/-- A field write leaves every other entry of every slate. -/
theorem rawEntry_setF_ne (hf : f.sp < 32 ∧ f.e < 4096) (v : Nat) (hs : sp < 32) (he : e < 4096)
    (hne : sl' = sl → sp = f.sp → e ≠ f.e) : rawEntry (setF s sl f v) sl' sp e = rawEntry s sl' sp e :=
  rawEntry_putEntry_ne s _ fun h => by
    obtain ⟨h1, h2, h3⟩ := ctlKey_inj hs he hf.1 hf.2 h
    exact hne h1 h2 h3

theorem getF_setF_ne (hf : f.sp < 32 ∧ f.e < 4096) (v : Nat) (hg : g.sp < 32 ∧ g.e < 4096)
    (hne : sl' = sl → g.sp = f.sp → g.e ≠ f.e) : getF (setF s sl f v) sl' g = getF s sl' g :=
  getF_of_rawEntry (rawEntry_setF_ne hf v hg.1 hg.2 hne)

/-- A field write leaves a field that stands beside it or in another entry. -/
theorem getF_setF_apart (hf : f.sp < 32 ∧ f.e < 4096) (hg : g.sp < 32 ∧ g.e < 4096) (hw : f.lo + f.w ≤ 64) (v : Nat)
    (hd : g.lo + g.w ≤ f.lo ∨ f.lo + f.w ≤ g.lo) : getF (setF s sl f v) sl' g = getF s sl' g := by
  by_cases h : sl' = sl ∧ g.sp = f.sp ∧ g.e = f.e
  · obtain ⟨rfl, hs, he⟩ := h
    exact getF_setF_field s sl' f g v hs he hw hd
  · exact getF_setF_ne hf v hg fun h1 h2 h3 => h ⟨h1, h2, h3⟩

theorem bitOf_eq_testBit (x k : Nat) : bitOf x k = x.testBit k := by
  rw [Nat.testBit_eq_decide_div_mod_eq]
  rfl

theorem getF_lt (s : State) (sl : Nat) (f : Fld) : getF s sl f < 2 ^ f.w := bits_lt ..

end Fields

namespace Reports

theorem refl (s : State) : Reports s s := ⟨rfl, fun _ _ _ _ _ _ => rfl, fun _ _ _ h => h, fun _ _ _ h => h⟩

theorem trans {s t u : State} (h : Reports s t) (h' : Reports t u) : Reports s u where
  steady := h'.steady.trans h.steady
  entry sl sp e hs he hn := (h'.entry sl sp e hs he hn).trans (h.entry sl sp e hs he hn)
  pend sl e he hp := h'.pend sl e he (h.pend sl e he hp)
  stat sl e he hp := h'.stat sl e he (h.stat sl e he hp)

theorem ite {c : Prop} [Decidable c] {s a b : State} (ha : Reports s a) (hb : Reports s b) : Reports s (if c then a else b) := by
  split
  · exact ha
  · exact hb

/-- A change outside control space and `steady` is a report. -/
theorem of_same {s t : State} (h : Reporting.steady t = Reporting.steady s) (hc : t.ctl = s.ctl) : Reports s t := by
  have hn : t.n = s.n := (congrArg State.n h :)
  have hr (sl sp e : Nat) : rawEntry t sl sp e = rawEntry s sl sp e := by simp only [rawEntry, hc, hn]
  refine ⟨h, fun sl sp e _ _ _ => hr sl sp e, fun sl e _ hp => ?_, fun sl e _ hp => ?_⟩
  · unfold Pending at hp ⊢
    rwa [isF_congr hc hn]
  · unfold Detected at hp ⊢
    rwa [getF_congr hc hn]

/-- A report after such a change. -/
theorem after {s t u : State} (h : Reports t u) (hs : Reporting.steady t = Reporting.steady s) (hc : t.ctl = s.ctl) : Reports s u :=
  (of_same hs hc).trans h

theorem fold {α β : Type} {p : β → State} {f : β → α → β} (l : List α) (b : β) (h : ∀ b, ∀ a ∈ l, Reports (p b) (p (f b a))) :
    Reports (p b) (p (l.foldl f b)) := by
  induction l generalizing b with
  | nil => exact .refl _
  | cons a l ih => exact (h b a (by simp)).trans (ih _ fun b a ha => h b a (by simp [ha]))

theorem foldl {α : Type} {f : State → α → State} (l : List α) (s : State) (h : ∀ s a, Reports s (f s a)) :
    Reports s (l.foldl f s) := fold (p := id) l s fun s a _ => h s a

section Fields

variable {s t : State} (h : Reports s t)

include h

theorem getF {f : Fld} (hf : f.sp < 32 ∧ f.e < 4096 ∧ noted f.sp f.e = false) (sl : Nat) : getF t sl f = getF s sl f :=
  getF_of_rawEntry (h.entry sl f.sp f.e hf.1 hf.2.1 hf.2.2)

theorem n : t.n = s.n := (congrArg State.n h.steady :)
theorem tb : t.tb = s.tb := (congrArg State.tb h.steady :)
theorem ready : t.ready = s.ready := (congrArg State.ready h.steady :)
theorem pauseBoot : t.pauseBoot = s.pauseBoot := (congrArg State.pauseBoot h.steady :)
theorem pauseAt : t.pauseAt = s.pauseAt := (congrArg State.pauseAt h.steady :)
theorem peerPause : t.peerPause = s.peerPause := (congrArg State.peerPause h.steady :)
theorem ptpSync : t.ptpSync = s.ptpSync := (congrArg State.ptpSync h.steady :)
theorem slew : t.slew = s.slew := (congrArg State.slew h.steady :)
theorem tbStepped : t.tbStepped = s.tbStepped := (congrArg State.tbStepped h.steady :)
theorem shadows : t.pin.shadows = s.pin.shadows := (congrArg (fun u => u.pin.shadows) h.steady :)

theorem now (sl : Nat) : now t sl = now s sl := by simp only [Machine.now, h.tb]

end Fields

end Reports

theorem steady_setF (s : State) (sl : Nat) (f : Fld) (v : Nat) : steady (setF s sl f v) = steady s := rfl

/-- A write to a noted entry other than PEND and STAT is a report. -/
theorem setF_reports {f : Fld} (hf : f.sp < 32 ∧ f.e < 4096 ∧ tally f.sp f.e = true) (s : State) (sl v : Nat) :
    Reports s (setF s sl f v) := by
  obtain ⟨hs, he, ht⟩ := hf
  simp only [tally, Bool.and_eq_true, bne_iff_ne, Bool.not_eq_true', Bool.and_eq_false_iff, beq_eq_false_iff_ne,
    decide_eq_false_iff_not] at ht
  refine ⟨rfl, fun sl' sp' e' h1 h2 hn => rawEntry_setF_ne ⟨hs, he⟩ v h1 h2 fun _ h3 h4 => ?_, fun sl' e' h1 hp => ?_, fun sl' e' h1 hp => ?_⟩
  · rw [h3, h4, ht.1.1] at hn
    cases hn
  · unfold Pending isF at hp ⊢
    rwa [getF_setF_ne ⟨hs, he⟩ v ⟨by simp [fPend, F.ENGINE.PEND], by simp [fPend, F.ENGINE.PEND]; omega⟩]
    simp [fPend, F.ENGINE.PEND]
    omega
  · unfold Detected at hp ⊢
    rwa [getF_setF_ne ⟨hs, he⟩ v ⟨by simp [F.STAT_REAL]; omega, by simp [F.STAT_REAL]⟩]
    simp [F.STAT_REAL]
    omega

theorem bump_reports {f : Fld} (hf : f.sp < 32 ∧ f.e < 4096 ∧ tally f.sp f.e = true) (s : State) (sl k : Nat) :
    Reports s (bump s sl f k) := setF_reports hf s sl _

theorem fPend_inSpace {e : Nat} (he : e < 2048) : (fPend e).sp < 32 ∧ (fPend e).e < 4096 ∧ (fPend e).lo + (fPend e).w ≤ 64 := by
  simp only [fPend, F.ENGINE.PEND]
  omega

/-- Two PEND bits are the same, or stand apart in one entry, or in different entries. -/
theorem pending_setF_pend {s : State} {sl sl' e e' : Nat} (he : e < 2048) (he' : e' < 2048) (h : Pending s sl' e' ∨ (sl' = sl ∧ e' = e)) :
    Pending (setF s sl (fPend e) 1) sl' e' := by
  obtain ⟨hs, hx, hw⟩ := fPend_inSpace he
  obtain ⟨hs', hx', -⟩ := fPend_inSpace he'
  unfold Pending isF at h ⊢
  by_cases hk : sl' = sl ∧ e' = e
  · rw [hk.1, hk.2, getF_setF_self _ _ _ _ hw]
    rfl
  · have hp := h.resolve_right hk
    by_cases hk' : e' / 4 = e / 4 ∧ e' ≠ e
    · rwa [getF_setF_apart ⟨hs, hx⟩ ⟨hs', hx'⟩ hw]
      simp only [fPend, F.ENGINE.PEND]
      omega
    · rwa [getF_setF_ne ⟨hs, hx⟩ 1 ⟨hs', hx'⟩]
      simp only [fPend, F.ENGINE.PEND]
      omega

/-- Setting a PEND bit is a report (R38). -/
theorem setF_pend_reports (s : State) (sl : Nat) {e : Nat} (he : e < 2048) : Reports s (setF s sl (fPend e) 1) where
  steady := steady_setF ..
  entry sl' sp' e' h1 h2 hn := by
    obtain ⟨hs, hx, -⟩ := fPend_inSpace he
    refine rawEntry_setF_ne ⟨hs, hx⟩ 1 h1 h2 fun _ h3 h4 => ?_
    simp only [fPend, F.ENGINE.PEND] at h3 h4
    simp [noted, h3, h4] at hn
    omega
  pend sl' e' he' hp := pending_setF_pend he he' (.inl hp)
  stat sl' e' he' hp := by
    obtain ⟨hs, hx, -⟩ := fPend_inSpace he
    unfold Detected at hp ⊢
    rwa [getF_setF_ne ⟨hs, hx⟩ 1 ⟨by simp only [F.STAT_REAL]; omega, by simp only [F.STAT_REAL]; omega⟩]
    simp only [fPend, F.ENGINE.PEND, F.STAT_REAL]
    omega

/-- The STAT field of a space for injected or for real occurrences (R84). -/
def statOf (inj : Bool) (sp : Nat) : Fld := if inj then F.STAT_INJ sp else F.STAT_REAL sp

theorem statOf_inSpace (inj : Bool) {sp : Nat} (h : sp < 32) :
    ((statOf inj sp).sp < 32 ∧ (statOf inj sp).e < 4096) ∧ (statOf inj sp).lo + (statOf inj sp).w ≤ 64 := by
  cases inj <;> simp [statOf, F.STAT_INJ, F.STAT_REAL, h]

/-- A bit set in a field is set, and every bit that was 1 is still 1. -/
theorem testBit_getF_setF_or (s : State) (sl : Nat) (f : Fld) (k i : Nat) (hw : f.lo + f.w ≤ 64) :
    (getF (setF s sl f (getF s sl f ||| 2 ^ k)) sl f).testBit i = (decide (i < f.w) && ((getF s sl f).testBit i || decide (k = i))) := by
  rw [getF_setF_self _ _ _ _ hw, Nat.testBit_mod_two_pow, Nat.testBit_or, Nat.testBit_two_pow]

/-- Setting a STAT bit is a report (R84). -/
theorem setF_stat_reports (s : State) (sl : Nat) (inj : Bool) {sp : Nat} (h : sp < 32) (k : Nat) :
    Reports s (setF s sl (statOf inj sp) (getF s sl (statOf inj sp) ||| 2 ^ k)) := by
  obtain ⟨hf, hw⟩ := statOf_inSpace inj h
  have hx : (statOf inj sp).e = 0xF00 ∧ (statOf inj sp).sp = sp := by cases inj <;> exact ⟨rfl, rfl⟩
  refine ⟨rfl, fun sl' sp' e' h1 h2 hn => rawEntry_setF_ne hf _ h1 h2 fun _ h3 h4 => ?_, fun sl' e' he' hp => ?_,
    fun sl' e' he' hp => ?_⟩
  · simp [noted, h4, hx] at hn
  · unfold Pending isF at hp ⊢
    obtain ⟨hs', hx', -⟩ := fPend_inSpace he'
    rwa [getF_setF_ne hf _ ⟨hs', hx'⟩]
    rw [hx.1]
    simp only [fPend, F.ENGINE.PEND]
    omega
  · unfold Detected at hp ⊢
    have hs : (F.STAT_REAL (e' / 64)).sp < 32 ∧ (F.STAT_REAL (e' / 64)).e < 4096 := by
      simp only [F.STAT_REAL]
      omega
    by_cases hk : sl' = sl ∧ e' / 64 = sp
    · obtain ⟨rfl, rfl⟩ := hk
      cases inj
      · have hlt : e' % 64 < 32 := by
          by_contra hge
          rw [bitOf_eq_testBit, Nat.testBit_lt_two_pow ((getF_lt ..).trans_le (Nat.pow_le_pow_right (by decide) (Nat.le_of_not_lt hge)))] at hp
          cases hp
        rw [bitOf_eq_testBit] at hp ⊢
        have := testBit_getF_setF_or s sl' (F.STAT_REAL (e' / 64)) k (e' % 64) (by simp [F.STAT_REAL])
        simp only [statOf, Bool.false_eq_true, if_false] at this ⊢
        rw [this, hp]
        simp [F.STAT_REAL, hlt]
      · rwa [getF_setF_apart hf hs hw _ (.inl (by simp [statOf, F.STAT_INJ, F.STAT_REAL]))]
    · rwa [getF_setF_ne hf _ hs]
      rw [hx.2]
      simp only [F.STAT_REAL]
      tauto

theorem evPend_reports (s : State) (x : Tab Occurrence) : Reports s { s with evPend := x } := .of_same rfl rfl

theorem evFwd_reports (s : State) (x : Tab EvFwd) : Reports s { s with evFwd := x } := .of_same rfl rfl

theorem heldOff_reports (s : State) (x : List (Nat × Nat × Nat)) : Reports s { s with pin := { s.pin with heldOff := x } } :=
  .of_same rfl rfl

/-! ### The switch core -/

open Reports (of_same)

theorem updatePause_reports (s : State) (sl : Nat) : Reports s (updatePause s sl) := of_same rfl rfl

theorem updatePeak_reports (s : State) (sl : Nat) : Reports s (updatePeak s sl) :=
  (setF_reports (by decide) s sl _).trans (updatePause_reports _ sl)

theorem joinQueue_reports (s : State) (sl p sub c id : Nat) : Reports s (joinQueue s sl p sub c id) := of_same rfl rfl

theorem unqueue_reports (s : State) (sl p sub c id : Nat) : Reports s (unqueue s sl p sub c id) := of_same rfl rfl

theorem settleCopy_reports (s : State) (g : Option Nat) (sl : Nat) (ok : Bool) : Reports s (settleCopy s g sl ok) := by
  unfold settleCopy
  split
  · exact .refl s
  · split
    · exact .refl s
    · exact of_same rfl rfl

/-- The fields that count a discarded copy (R235, R237). -/
theorem discardCount_tally {s : State} {sl c : Nat} {o : Nat × Nat} {m : Nat} :
    let f := if m ≠ 0 then F.SWITCH.MC_DISCARDS else (netBlocked s sl o c).getD F.SWITCH.LINKDOWN_DROPS
    f.sp < 32 ∧ f.e < 4096 ∧ tally f.sp f.e = true := by
  unfold netBlocked
  dsimp only
  repeat' split
  all_goals decide

theorem queueFrame_reports (s : State) (id : Nat) : Reports s (queueFrame s id) := by
  unfold queueFrame
  split
  · exact .refl s
  refine .ite (.refl s) ?_
  extract_lets bad good u v
  have hu : Reports s u := .foldl bad s fun s o => (bump_reports discardCount_tally ..).trans (settleCopy_reports ..)
  have hv : Reports u v := of_same rfl rfl
  clear_value u v
  exact hu.trans (.ite (of_same rfl rfl) (hv.trans (.foldl good v fun s o => joinQueue_reports ..)))

theorem bufferFrame_reports (s : State) (f : Frame) : Reports s (bufferFrame s f) :=
  ((queueFrame_reports (addFrame s f).1 _).trans (updatePeak_reports ..)).after rfl rfl

theorem mcastAlone_reports (s : State) (f : Frame) (x : Nat) : Reports s (mcastAlone s f x) := by
  unfold mcastAlone
  split
  · exact (bump_reports (by decide) ..).trans (settleCopy_reports ..)
  · exact bufferFrame_reports ..

theorem mcastArrive_reports (s : State) (f : Frame) : Reports s (mcastArrive s f) := by
  unfold mcastArrive
  extract_lets hops outs cut loc u
  have hu : Reports s u := .ite (.refl s) (bufferFrame_reports ..)
  exact hu.trans (.foldl cut u fun s p => .foldl _ s fun s x => mcastAlone_reports ..)

theorem sendMulticast_reports (s : State) (f : Frame) : Reports s (sendMulticast s f) :=
  (mcastArrive_reports ..).after rfl rfl

theorem enterFrame_reports (s : State) (f : Frame) : Reports s (enterFrame s f) := by
  unfold enterFrame
  refine .ite (sendMulticast_reports s f) (.ite (bump_reports (by decide) ..) ?_)
  split
  · exact bump_reports (by decide) ..
  · exact bufferFrame_reports ..

theorem admitInternal_reports (s : State) (f : Frame) : Reports s (admitInternal s f) :=
  .ite (of_same rfl rfl) (enterFrame_reports s f)

theorem unstall_reports (s : State) (sl : Nat) : Reports s (unstall s sl) := by
  unfold unstall
  refine .foldl _ s fun s id => ?_
  split
  · exact .refl s
  · exact .ite (.refl s) ((enterFrame_reports ..).after rfl rfl)

theorem freeFrame_reports (s : State) (id : Nat) : Reports s (freeFrame s id) := by
  unfold freeFrame
  split
  · exact .refl s
  · exact ((unstall_reports ..).trans (updatePause_reports ..)).after rfl rfl

theorem dropCopy_reports (s : State) (id : Nat) (o : Nat × Nat) : Reports s (dropCopy s id o) := by
  unfold dropCopy
  split
  · exact .refl s
  · split
    · exact freeFrame_reports s id
    · exact of_same rfl rfl

/-! ### Datagrams -/

theorem sendRaw_reports (s : State) (d : OutDatagram) (job : Option Nat) : Reports s (sendRaw s d job).1 := by
  unfold sendRaw
  extract_lets d'
  split
  · exact admitInternal_reports ..
  split
  · dsimp only
    split
    · exact .refl s
    · exact (admitInternal_reports ..).after rfl rfl
  · exact admitInternal_reports ..

/-! ### Events and detectors -/

theorem quad_tally {sp e : Nat} (hs : sp < 32) (he : 0xF00 < e) (he' : e < 4096) :
    sp < 32 ∧ e < 4096 ∧ tally sp e = true := by
  refine ⟨hs, he', ?_⟩
  have h1 : 0xF00 ≤ e := he.le
  have h2 : ¬ (0x800 ≤ e ∧ e < 0xA00) := by omega
  have h3 : e ≠ 0xF00 := he.ne'
  simp only [tally, noted, h1, h2, h3, decide_true, decide_false, Bool.true_or, Bool.and_false, bne_iff_ne.2, ne_eq, not_false_eq_true,
    Bool.not_false, Bool.and_true]

theorem offerFirst_reports (s : State) (sl k : Nat) {sp : Nat} (h : sp < 32) (inj : Bool) (detail : List Word) :
    Reports s (offerFirst s sl sp k inj detail).1 := by
  have capture (f : Fld) (hf : f.sp = sp ∧ f.e = 0xF03) (s : State) (v : Nat) : Reports s (setF s sl f v) :=
    setF_reports (quad_tally (hf.1 ▸ h) (by omega) (by omega)) s sl v
  unfold offerFirst
  extract_lets held take s1 s2 s3 s4 s5
  split
  · have h5 : Reports s s5 :=
      ((((capture _ ⟨rfl, rfl⟩ s _).trans (capture _ ⟨rfl, rfl⟩ s1 _)).trans (capture _ ⟨rfl, rfl⟩ s2 _)).trans
        (capture _ ⟨rfl, rfl⟩ s3 _)).trans (capture _ ⟨rfl, rfl⟩ s4 _)
    refine h5.trans (.fold (p := id) _ s5 fun s i hi => setF_reports (quad_tally h ?_ ?_) s sl _)
    all_goals
      have := List.mem_range.1 hi
      simp only [F.DETAIL]
      omega
  · exact capture _ ⟨rfl, rfl⟩ s 1

theorem pendEvent_reports (s : State) (sl : Nat) {e : Nat} (h : e < 2048) : Reports s (pendEvent s sl e).1 := by
  unfold pendEvent
  split <;> dsimp only
  · exact bump_reports (by decide) ..
  · exact (setF_pend_reports s sl h).trans (evPend_reports _ _)

theorem pendEvent_pending (s : State) (sl : Nat) {e : Nat} (h : e < 2048) : Pending (pendEvent s sl e).1 sl e := by
  unfold pendEvent
  split <;> dsimp only
  · exact (bump_reports (by decide) s sl 1).pend sl e h ‹_›
  · exact (evPend_reports _ _).pend sl e h (pending_setF_pend (s := s) h h (.inr ⟨rfl, rfl⟩))

theorem forwardOne_reports (s : State) (sl i : Nat) (payload : Block) : Reports s (forwardOne s sl i payload).1 := by
  unfold forwardOne
  split
  · exact .refl s
  extract_lets r t hq gap near src drop
  have hd : Reports s drop := (bump_reports (by decide) s sl 1).trans (evFwd_reports src _)
  clear_value drop
  split
  · exact hd
  split
  · exact hd
  split
  · exact hd
  · exact (evFwd_reports s _).trans (sendRaw_reports ..)

theorem forward_reports (s : State) (sl e : Nat) (inj merged captured : Bool) : Reports s (forward s sl e inj merged captured).1 :=
  .fold (p := Prod.fst) (List.range 16) (s, []) fun p i _ => forwardOne_reports p.1 sl i _

/-- What follows the subscription group's part of an occurrence is a report. -/
theorem occur_after_pend (s : State) (sl e : Nat) (inj captured : Bool) :
    Reports (pendEvent s sl e).1 (occur s sl e inj captured).1 := by
  unfold occur
  dsimp only
  split
  · exact forward_reports ..
  · exact .refl _

theorem occur_reports (s : State) (sl : Nat) {e : Nat} (h : e < 2048) (inj captured : Bool) : Reports s (occur s sl e inj captured).1 :=
  (pendEvent_reports s sl h).trans (occur_after_pend ..)

theorem occur_pending (s : State) (sl : Nat) {e : Nat} (h : e < 2048) (inj captured : Bool) :
    Pending (occur s sl e inj captured).1 sl e :=
  (occur_after_pend ..).pend sl e h (pendEvent_pending s sl h)

theorem pinRequest_reports (s : State) : Reports s (pinRequest s) := (bump_reports (by decide) ..).after rfl rfl

/-- What a recorded hit does to STAT is a report; the rest of it follows. -/
theorem recordHit_after_stat (s : State) (sl : Nat) {sp k : Nat} (hs : sp < 32) (he : eventNo sp k < 2048) (inj : Bool)
    (detail : List Word) :
    Reports (setF s sl (statOf inj sp) (getF s sl (statOf inj sp) ||| 2 ^ k)) (recordHit s sl sp k inj detail).1 := by
  unfold recordHit
  extract_lets e c f s1 s2
  have h2 : Reports s1 s2 := .ite (.refl _) (.ite (bump_reports (by decide) ..) (.ite (bump_reports (by decide) ..)
    (.ite (bump_reports (by decide) ..) (.refl _))))
  change Reports s1 _
  clear_value s1 s2
  refine h2.trans ?_
  split
  · exact .refl s2
  · dsimp only
    refine (offerFirst_reports s2 sl k hs inj detail).trans ?_
    exact (occur_reports _ sl he inj _).trans (.ite (pinRequest_reports _) (.refl _))

theorem recordHit_reports (s : State) (sl : Nat) {sp k : Nat} (hs : sp < 32) (he : eventNo sp k < 2048) (inj : Bool)
    (detail : List Word) : Reports s (recordHit s sl sp k inj detail).1 :=
  (setF_stat_reports s sl inj hs k).trans (recordHit_after_stat s sl hs he inj detail)

theorem reportSpent_reports (n : Nat) (s : State) (l : List Nat) : Reports s (reportSpent n s l) := by
  induction n generalizing s l with
  | zero => exact .refl s
  | succ n ih =>
    cases l with
    | nil => exact .refl s
    | cons sl r => exact (recordHit_reports s sl (by decide) (by decide) false []).trans (ih _ _)

theorem raise_reports (s : State) (sl : Nat) {e : Nat} (h : e < 2048) : Reports s (raise s sl e) :=
  (occur_reports s sl h false false).trans (reportSpent_reports ..)

/-- An event that occurs is pending (R38). -/
theorem raise_pending (s : State) (sl : Nat) {e : Nat} (h : e < 2048) : Pending (raise s sl e) sl e :=
  (reportSpent_reports ..).pend sl e h (occur_pending s sl h false false)

theorem eventNo_div_mod (e : Nat) : eventNo (e / 64) (e % 64) = e := by
  unfold eventNo
  omega

theorem recordDet_reports (s : State) (sl : Nat) {e : Nat} (h : e < 2048) (inj : Bool) (detail : List Word) :
    Reports s (recordDet s sl (e / 64) (e % 64) inj detail) :=
  (recordHit_reports s sl (by omega) (by rwa [eventNo_div_mod]) inj detail).trans (reportSpent_reports ..)

theorem detectAt_reports (s : State) (sl : Nat) {e : Nat} (h : e < 2048) (arg : Nat) (detail : List Word) :
    Reports s (detectAt s sl e arg detail) := by
  unfold detectAt
  split
  · exact (bump_reports (by decide) s sl 1).trans (heldOff_reports _ _)
  · exact recordDet_reports s sl h false detail

theorem detect_reports (s : State) (sl : Nat) {e : Nat} (h : e < 2048) (detail : List Word) : Reports s (detect s sl e detail) := by
  unfold detect
  exact detectAt_reports s sl h _ detail

/-- The detectors a reset shadow can hold off (R325). -/
def shadowed (e : Nat) : Bool :=
  e == Ev.CELL_UNCORR || e == Ev.FLINK_RETRY || e == Ev.HDRM_OVF || e == Ev.PEER_PAUSE || e == Ev.FEC_UNCORR

theorem shadowCovers_of_not_shadowed {e : Nat} (h : shadowed e = false) (n : Nat) (sh : Shadow) (sl arg : Nat) :
    shadowCovers n sh sl e arg = false := by
  simp only [shadowed, Bool.or_eq_false_iff] at h
  obtain ⟨⟨⟨⟨h1, h2⟩, h3⟩, h4⟩, h5⟩ := h
  unfold shadowCovers
  split <;> simp [h1, h2, h3, h4, h5]

theorem heldOff_of_not_shadowed {e : Nat} (h : shadowed e = false) (s : State) (sl arg : Nat) : heldOff s sl e arg = false := by
  simp [heldOff, shadowCovers_of_not_shadowed h]

theorem detected_setF_stat (s : State) (sl : Nat) {e : Nat} (h : e < 2048) (hk : e % 64 < 32) :
    Detected (setF s sl (statOf false (e / 64)) (getF s sl (statOf false (e / 64)) ||| 2 ^ (e % 64))) sl e := by
  unfold Detected
  rw [bitOf_eq_testBit, show F.STAT_REAL (e / 64) = statOf false (e / 64) from rfl,
    testBit_getF_setF_or _ _ _ _ _ (statOf_inSpace false (by omega)).2]
  simpa [statOf, F.STAT_REAL] using hk

/-- A detector that no shadow can hold off has its real STAT bit set by a hit (R84, R325). -/
theorem detect_detected (s : State) (sl : Nat) {e : Nat} (h : e < 2048 ∧ e % 64 < 32 ∧ shadowed e = false) (detail : List Word) :
    Detected (detect s sl e detail) sl e := by
  obtain ⟨he, hk, hs⟩ := h
  have hd : detect s sl e detail = recordDet s sl (e / 64) (e % 64) false detail := by
    unfold detect detectAt
    rw [heldOff_of_not_shadowed hs]
    rfl
  have hr := (recordHit_after_stat s sl (sp := e / 64) (k := e % 64) (by omega) (by rwa [eventNo_div_mod]) false detail).trans
    (reportSpent_reports (recordHit s sl (e / 64) (e % 64) false detail).1.keys.length _ (recordHit s sl (e / 64) (e % 64) false detail).2)
  rw [hd]
  exact hr.stat sl e he (detected_setF_stat s sl he hk)

theorem send_reports (s : State) (d : OutDatagram) (job : Option Nat) : Reports s (send s d job) := by
  unfold send
  refine (sendRaw_reports s d job).trans ?_
  exact .ite (detect_reports _ _ (by decide) _) (.refl _)

end Sys2Proof.Reporting
end

section
/-! The network ports: READY's repeats, the start-up pause, sub-port links, a peer's pause and PTP (R14, R126, R127, R129, R130).

Each command changes a few fields and then reports: what its changes say is read off the state before the report, and
`Reports` carries it over. -/

namespace Sys2Proof.Ports

open Sys2Proof Sys2Proof.Machine Sys2Proof.Reporting

/-! ### Bits of LINK_UP -/

theorem bitOf_add_two_pow {x k : Nat} (h : bitOf x k = false) (i : Nat) : bitOf (x + 2 ^ k) i = (decide (i = k) || bitOf x i) := by
  have hk : x / 2 ^ k % 2 = 0 := by
    simp only [bitOf, beq_eq_false_iff_ne] at h
    omega
  simp only [bitOf_eq_testBit]
  rcases Nat.lt_trichotomy i k with hi | rfl | hi
  · rw [Nat.add_comm, Nat.testBit_two_pow_add_gt hi, decide_eq_false hi.ne, Bool.false_or]
  · rw [Nat.add_comm, Nat.testBit_two_pow_add_eq, ← bitOf_eq_testBit, h, decide_eq_true rfl]
    rfl
  · obtain ⟨m, rfl⟩ : ∃ m, i = m + 1 + k := ⟨i - k - 1, by omega⟩
    have hd : (x + 2 ^ k) / 2 ^ k / 2 = x / 2 ^ k / 2 := by
      rw [Nat.add_div_right _ (Nat.two_pow_pos k)]
      omega
    rw [Nat.testBit_add _ (m + 1), Nat.testBit_add _ (m + 1), Nat.testBit_add_one, Nat.testBit_add_one, hd, decide_eq_false (by omega),
      Bool.false_or]

theorem bitOf_sub_two_pow {x k : Nat} (h : bitOf x k = true) (i : Nat) : bitOf (x - 2 ^ k) i = (!decide (i = k) && bitOf x i) := by
  have hle : 2 ^ k ≤ x := by
    by_contra hlt
    rw [bitOf_eq_testBit, Nat.testBit_lt_two_pow (Nat.lt_of_not_le hlt)] at h
    cases h
  obtain ⟨y, rfl⟩ := Nat.exists_eq_add_of_le' hle
  have hy : bitOf y k = false := by
    rw [bitOf_eq_testBit, Nat.add_comm, Nat.testBit_two_pow_add_eq, ← bitOf_eq_testBit] at h
    simpa using h
  rw [Nat.add_sub_cancel, bitOf_add_two_pow hy]
  by_cases hi : i = k
  · simp [hi, hy]
  · simp [hi]

theorem lt_two_pow_of_bits {x w : Nat} (h : ∀ i, w ≤ i → bitOf x i = false) : x < 2 ^ w :=
  Nat.lt_pow_two_of_testBit x fun i hi => by rw [← bitOf_eq_testBit, h i hi]

theorem bitOf_of_lt {x w i : Nat} (h : x < 2 ^ w) (hi : w ≤ i) : bitOf x i = false := by
  rw [bitOf_eq_testBit]
  exact Nat.testBit_lt_two_pow (h.trans_le (Nat.pow_le_pow_right (by decide) hi))

theorem zero_of_bits {x w : Nat} (hx : x < 2 ^ w) (h : ∀ i < w, bitOf x i = false) : x = 0 := by
  refine Nat.eq_of_testBit_eq fun i => ?_
  rw [Nat.zero_testBit, ← bitOf_eq_testBit]
  by_cases hi : i < w
  · exact h i hi
  · exact bitOf_of_lt hx (Nat.le_of_not_lt hi)

/-- An exact value that fits its field is read back (R5). -/
theorem getF_setF_fits {s : State} {sl : Nat} {f : Fld} {v : Nat} (hw : f.lo + f.w ≤ 64) (hv : v < 2 ^ f.w) :
    getF (setF s sl f v) sl f = v := by
  rw [getF_setF_self _ _ _ _ hw, Nat.mod_eq_of_lt hv]

/-! ### Commands under a condition -/

theorem answers_of_if {c : Instr} {s a b : State} {C : Prop} [Decidable C] {P : State → Prop}
    (h : exec c s = .next (if C then a else b)) (hc : C) (hp : P a) : Answers c s P := ⟨a, by rw [h, if_pos hc], hp⟩

theorem answers_of_else {c : Instr} {s a b : State} {C : Prop} [Decidable C] {P : State → Prop}
    (h : exec c s = .next (if C then a else b)) (hc : ¬ C) (hp : P b) : Answers c s P := ⟨b, by rw [h, if_neg hc], hp⟩

/-! ### READY (R127) -/

theorem readyFrom_reports (s : State) (sl : Nat) : Reports s (readyFrom s sl) := by
  unfold readyFrom
  refine .ite (.refl s) ?_
  extract_lets src base mc s1 s2 s3
  have h1 : Reports s s1 := .ite (send_reports ..) (.refl s)
  have h2 : Reports s1 s2 := .ite (send_reports ..) (.refl s1)
  have h3 : Reports s2 s3 := .foldl _ s2 fun s x => send_reports ..
  clear_value s1 s2 s3
  refine h1.trans (h2.trans (h3.trans (.foldl _ s3 fun s i => ?_)))
  refine .ite (.refl s) ?_
  split
  · exact .refl s
  · split
    · exact .refl s
    · exact send_reports ..

theorem readyAll_reports (s : State) : Reports s (readyAll s) := .foldl _ s readyFrom_reports

theorem exec_readyRepeat {s : State} (h : serving s 0 = true) : exec .readyRepeat s = .next
    (if 0 < s.ready.left ∧ s.ready.lastTb + 1000000000 ≤ now s 0 then
      readyAll { s with ready := { s.ready with left := s.ready.left - 1, lastTb := now s 0 } } else s) := by
  have arm : exec .readyRepeat s = execReadyRepeat s := rfl
  rw [arm]
  exact onUnit_serving _ h

theorem readyRepeat_due {s : State} (h : serving s 0 = true) (hd : 0 < s.ready.left ∧ s.ready.lastTb + 1000000000 ≤ now s 0) :
    Answers .readyRepeat s fun u => u.ready.left = s.ready.left - 1 ∧ u.ready.lastTb = now s 0 := by
  refine answers_of_if (exec_readyRepeat h) hd ?_
  rw [(readyAll_reports _).ready]
  exact ⟨rfl, rfl⟩

theorem readyRepeat_idle {s : State} (h : serving s 0 = true) (hd : ¬ (0 < s.ready.left ∧ s.ready.lastTb + 1000000000 ≤ now s 0)) :
    exec .readyRepeat s = .next s := by rw [exec_readyRepeat h, if_neg hd]

/-! ### The start-up pause (R126) -/

theorem exec_pauseTimeout {s : State} {t : Nat} (h : serving s 0 = true) (ht : s.ready.trained = some t) : exec .pauseTimeout s = .next
    (if s.ready.sentTb = none ∧ s.ready.timedOut = false ∧ t + getF s 0 F.XPORT.PAUSE_MAX * 100000000 ≤ now s 0 then
      detect { s with pauseBoot := [], ready := { s.ready with timedOut := true } } 0 Ev.PAUSE_TIMEOUT [] else s) := by
  have arm : exec .pauseTimeout s = execPauseTimeout s := rfl
  rw [arm]
  refine (onUnit_serving _ h).trans ?_
  simp [ht, ms, Nat.mul_assoc, and_assoc]

theorem pauseTimeout_due {s : State} {t : Nat} (h : serving s 0 = true) (ht : s.ready.trained = some t)
    (hd : s.ready.sentTb = none ∧ s.ready.timedOut = false ∧ t + getF s 0 F.XPORT.PAUSE_MAX * 100000000 ≤ now s 0) :
    Answers .pauseTimeout s fun u => u.pauseBoot = [] ∧ u.ready.timedOut = true ∧ Detected u 0 Ev.PAUSE_TIMEOUT := by
  refine answers_of_if (exec_pauseTimeout h ht) hd ?_
  have hr := detect_reports { s with pauseBoot := [], ready := { s.ready with timedOut := true } } 0 (e := Ev.PAUSE_TIMEOUT) (by decide) []
  exact ⟨hr.pauseBoot, by rw [hr.ready], detect_detected _ 0 (by decide) []⟩

theorem pauseTimeout_idle {s : State} {t : Nat} (h : serving s 0 = true) (ht : s.ready.trained = some t)
    (hd : ¬ (s.ready.sentTb = none ∧ s.ready.timedOut = false ∧ t + getF s 0 F.XPORT.PAUSE_MAX * 100000000 ≤ now s 0)) :
    exec .pauseTimeout s = .next s := by rw [exec_pauseTimeout h ht, if_neg hd]

/-! ### A sub-port gains link (R126, R130) -/

/-- LINK_UP with the sub-port that has trained. -/
def linked (s : State) (sl k : Nat) : State := setF s sl F.PORT.LINK_UP (getF s sl F.PORT.LINK_UP + 2 ^ k)

/-- The TB of the first port that trained is kept. -/
def firstTrained (s : State) : State :=
  match s.ready.trained with
  | some _ => s
  | none => { s with ready := { s.ready with trained := some (now s 0) } }

/-- Before READY, and while the unit has a chain number, the port pauses. -/
def bootPaused (s : State) (sl : Nat) : State :=
  if s.ready.sentTb.isNone && !s.ready.timedOut && s.chain.chain != 0x3FF then
    sendPause { s with pauseBoot := tabPut s.pauseBoot sl bootClasses } sl
  else s

theorem exec_portTrained {s : State} {sl : Nat} (h : serving s sl = true) (k : Nat) : exec (.portTrained sl k) s = .next
    (if !isF s sl F.PORT.ADMIN_UP || decide (2 ^ getF s sl F.PORT.BREAKOUT ≤ k) || bitOf (getF s sl F.PORT.LINK_UP) k then s
      else raise (bootPaused (firstTrained (linked s sl k)) sl) sl Ev.LINK_UP) := by
  have arm : exec (.portTrained sl k) s = execPortTrained sl k s := rfl
  rw [arm]
  exact onSlate_serving (fun s => ite (_ = true) s (raise (bootPaused (firstTrained (linked s sl k)) sl) sl Ev.LINK_UP)) h

theorem linked_bit {s : State} {sl k : Nat} (hu : bitOf (getF s sl F.PORT.LINK_UP) k = false)
    (hk : k < 2 ^ getF s sl F.PORT.BREAKOUT) (i : Nat) :
    bitOf (getF (linked s sl k) sl F.PORT.LINK_UP) i = (decide (i = k) || bitOf (getF s sl F.PORT.LINK_UP) i) := by
  have hb : getF s sl F.PORT.BREAKOUT ≤ 3 := Nat.le_of_lt_succ (getF_lt s sl F.PORT.BREAKOUT)
  have hk8 : k < 8 := hk.trans_le (Nat.pow_le_pow_right (by decide) hb)
  have hx : getF s sl F.PORT.LINK_UP + 2 ^ k < 2 ^ 8 := lt_two_pow_of_bits fun i hi => by
    rw [bitOf_add_two_pow hu, decide_eq_false (by omega), bitOf_of_lt (getF_lt s sl F.PORT.LINK_UP) hi]
    rfl
  rw [linked, getF_setF_fits (by decide) hx, bitOf_add_two_pow hu]

theorem firstTrained_getF (s : State) (sl : Nat) (f : Fld) : getF (firstTrained s) sl f = getF s sl f := by
  unfold firstTrained
  split
  · rfl
  · exact getF_congr rfl rfl sl f

theorem firstTrained_ready {s : State} (h : s.ready.trained = none) : (firstTrained s).ready.trained = some (now s 0) := by
  unfold firstTrained
  rw [h]

theorem firstTrained_rest (s : State) : (firstTrained s).ready.sentTb = s.ready.sentTb ∧
    (firstTrained s).ready.timedOut = s.ready.timedOut ∧ (firstTrained s).chain = s.chain ∧ (firstTrained s).pauseBoot = s.pauseBoot := by
  unfold firstTrained
  split <;> exact ⟨rfl, rfl, rfl, rfl⟩

theorem bootPaused_getF (s : State) (sl' sl : Nat) (f : Fld) : getF (bootPaused s sl') sl f = getF s sl f := by
  unfold bootPaused
  split
  · exact getF_congr rfl rfl sl f
  · rfl

theorem bootPaused_ready (s : State) (sl : Nat) : (bootPaused s sl).ready = s.ready := by
  unfold bootPaused
  split <;> rfl

theorem bootPaused_pauses {s : State} (sl : Nat) (h : s.ready.sentTb = none) (ht : s.ready.timedOut = false) (hc : s.chain.chain ≠ 0x3FF) :
    tabGet (bootPaused s sl).pauseBoot sl = some 0xE := by
  have : bootPaused s sl = sendPause { s with pauseBoot := tabPut s.pauseBoot sl bootClasses } sl := by
    simp [bootPaused, h, ht, hc]
  rw [this]
  exact tabGet_tabPut_self ..

theorem bootPaused_silent {s : State} (sl : Nat) (h : s.ready.sentTb ≠ none ∨ s.ready.timedOut = true ∨ s.chain.chain = 0x3FF) :
    bootPaused s sl = s := by
  refine if_neg fun hc => ?_
  simp only [Bool.and_eq_true, Option.isNone_iff_eq_none, Bool.not_eq_true', bne_iff_ne] at hc
  obtain ⟨⟨h1, h2⟩, h3⟩ := hc
  simp [h1, h2, h3] at h

theorem portTrained_trains {s : State} {sl k : Nat} (h : serving s sl = true) (hu : ¬ bitOf (getF s sl F.PORT.LINK_UP) k = true)
    (ha : isF s sl F.PORT.ADMIN_UP = true) (hk : k < 2 ^ getF s sl F.PORT.BREAKOUT) : Answers (.portTrained sl k) s fun u =>
      bitOf (getF u sl F.PORT.LINK_UP) k = true ∧
      (∀ i, i ≠ k → bitOf (getF u sl F.PORT.LINK_UP) i = bitOf (getF s sl F.PORT.LINK_UP) i) ∧
      Pending u sl Ev.LINK_UP ∧ (s.ready.trained = none → u.ready.trained = some (now s 0)) ∧
      (s.ready.sentTb = none → s.ready.timedOut = false → s.chain.chain ≠ 0x3FF → tabGet u.pauseBoot sl = some 0xE) ∧
      (s.ready.sentTb ≠ none ∨ s.ready.timedOut = true ∨ s.chain.chain = 0x3FF → u.pauseBoot = s.pauseBoot) := by
  have hu' := Bool.eq_false_of_not_eq_true hu
  refine answers_of_else (exec_portTrained h k) (by simp [ha, hu', hk]) ?_
  have hr := raise_reports (bootPaused (firstTrained (linked s sl k)) sl) sl (e := Ev.LINK_UP) (by decide)
  have hl : getF (raise (bootPaused (firstTrained (linked s sl k)) sl) sl Ev.LINK_UP) sl F.PORT.LINK_UP =
      getF (linked s sl k) sl F.PORT.LINK_UP := by
    rw [hr.getF (by decide), bootPaused_getF, firstTrained_getF]
  obtain ⟨hs, ht, hc, hp⟩ := firstTrained_rest (linked s sl k)
  have hready : (linked s sl k).ready = s.ready := setF_ready ..
  have hchain : (linked s sl k).chain = s.chain := setF_chain ..
  refine ⟨?_, fun i hi => ?_, raise_pending _ sl (by decide), fun hn => ?_, fun h1 h2 h3 => ?_, fun hq => ?_⟩
  · rw [hl, linked_bit hu' hk]
    simp
  · rw [hl, linked_bit hu' hk, decide_eq_false hi, Bool.false_or]
  · rw [hr.ready, bootPaused_ready, firstTrained_ready (hready ▸ hn)]
    simp [linked]
  · rw [hr.pauseBoot]
    exact bootPaused_pauses sl (by rw [hs, hready, h1]) (by rw [ht, hready, h2]) (by rw [hc, hchain]; exact h3)
  · rw [hr.pauseBoot, bootPaused_silent sl (by rw [hs, ht, hc, hready, hchain]; exact hq), hp]
    exact setF_pauseBoot ..

theorem portTrained_idle {s : State} {sl k : Nat} (h : serving s sl = true) (hd : bitOf (getF s sl F.PORT.LINK_UP) k = true ∨
    isF s sl F.PORT.ADMIN_UP = false ∨ 2 ^ getF s sl F.PORT.BREAKOUT ≤ k) : exec (.portTrained sl k) s = .next s := by
  rw [exec_portTrained h, if_pos]
  simp only [Bool.or_eq_true, Bool.not_eq_true', decide_eq_true_eq]
  tauto

/-! ### A sub-port loses link (R130, R235, R324) -/

theorem flushNet_reports {cnt : Fld} (hc : cnt.sp < 32 ∧ cnt.e < 4096 ∧ tally cnt.sp cnt.e = true) (s : State) (sl sub : Nat)
    (p : Frame → Bool) : Reports s (flushNet s sl sub cnt p) := by
  refine .foldl _ s fun s id => ?_
  split
  · exact .refl s
  · rename_i f hf
    extract_lets u v
    have hu : Reports s u := unqueue_reports ..
    have hv : Reports u v := bump_reports (by split; exacts [by decide, hc]) ..
    exact hu.trans (hv.trans ((settleCopy_reports ..).trans (dropCopy_reports ..)))

/-- No pause of a slate's peer is in force. -/
def unpausedBy (s : State) (sl : Nat) : State := { s with peerPause := s.peerPause.filter fun p => p.1 / 8 != sl }

/-- The state in which a sub-port has lost link, before its frames are flushed and LINK_DOWN is hit. -/
def lowered (s : State) (sl k : Nat) : State :=
  let up := getF s sl F.PORT.LINK_UP
  let s := openShadow (setF s sl F.PORT.LINK_UP (up - 2 ^ k)) (.network k) sl 20
  if up = 2 ^ k then unpausedBy s sl else s

theorem subDown_idle {s : State} {sl k : Nat} (h : bitOf (getF s sl F.PORT.LINK_UP) k = false) : subDown s sl k = s :=
  if_pos (by simp [h])

theorem subDown_loses {s : State} {sl k : Nat} (h : bitOf (getF s sl F.PORT.LINK_UP) k = true) :
    subDown s sl k = detect (flushNet (lowered s sl k) sl k F.SWITCH.LINKDOWN_DROPS fun _ => true) sl Ev.LINK_DOWN [] :=
  if_neg (by simp [h])

theorem lowered_reports {s : State} {sl k : Nat} (h : bitOf (getF s sl F.PORT.LINK_UP) k = true) :
    Reports (lowered s sl k) (subDown s sl k) := by
  rw [subDown_loses h]
  exact (flushNet_reports (by decide) ..).trans (detect_reports _ sl (by decide) [])

theorem openShadow_getF (s : State) (kind : ShadowKind) (sl limit sl' : Nat) {f : Fld} (hf : f.sp < 32 ∧ f.e < 4096)
    (hp : f.sp ≠ 0x0E) : getF (openShadow s kind sl limit) sl' f = getF s sl' f := by
  unfold openShadow bump
  rw [getF_setF_ne (by decide) _ hf (fun _ h => absurd h hp)]
  exact getF_congr rfl rfl sl' f

theorem unpausedBy_getF (s : State) (sl sl' : Nat) (f : Fld) : getF (unpausedBy s sl) sl' f = getF s sl' f :=
  getF_congr rfl rfl sl' f

theorem lowered_getF (s : State) (sl k sl' : Nat) {f : Fld} (hf : f.sp < 32 ∧ f.e < 4096) (hp : f.sp ≠ 0x0E) :
    getF (lowered s sl k) sl' f = getF (setF s sl F.PORT.LINK_UP (getF s sl F.PORT.LINK_UP - 2 ^ k)) sl' f := by
  unfold lowered
  dsimp only
  split
  · rw [unpausedBy_getF, openShadow_getF _ _ _ _ _ hf hp]
  · rw [openShadow_getF _ _ _ _ _ hf hp]

/-- LINK_UP after a sub-port has been taken down, whether it had link or not. -/
theorem subDown_bit (s : State) (sl k i : Nat) :
    bitOf (getF (subDown s sl k) sl F.PORT.LINK_UP) i = (!decide (i = k) && bitOf (getF s sl F.PORT.LINK_UP) i) := by
  cases h : bitOf (getF s sl F.PORT.LINK_UP) k with
  | false =>
    rw [subDown_idle h]
    by_cases hi : i = k
    · simp [hi, h]
    · simp [hi]
  | true =>
    have hx : getF s sl F.PORT.LINK_UP - 2 ^ k < 2 ^ 8 := (Nat.sub_le ..).trans_lt (getF_lt s sl F.PORT.LINK_UP)
    rw [(lowered_reports h).getF (by decide), lowered_getF _ _ _ _ (by decide) (by decide), getF_setF_fits (by decide) hx,
      bitOf_sub_two_pow h]

/-- Taking a sub-port down leaves every other entry that no report moves. -/
theorem subDown_getF (s : State) (sl k sl' : Nat) {f : Fld} (hf : f.sp < 32 ∧ f.e < 4096 ∧ noted f.sp f.e = false)
    (hp : f.sp ≠ 0x0E) (hl : f.sp = 0x03 → f.e ≠ 1) : getF (subDown s sl k) sl' f = getF s sl' f := by
  cases h : bitOf (getF s sl F.PORT.LINK_UP) k with
  | false => rw [subDown_idle h]
  | true =>
    rw [(lowered_reports h).getF hf, lowered_getF _ _ _ _ ⟨hf.1, hf.2.1⟩ hp]
    exact getF_setF_ne (by decide) _ ⟨hf.1, hf.2.1⟩ fun _ => hl

theorem tabGet_filter_none {α : Type} {p : Nat × α → Bool} {x : Nat} (t : Tab α) (h : ∀ v, p (x, v) = false) :
    tabGet (t.filter p) x = none := by
  induction t with
  | nil => rfl
  | cons q r ih =>
    obtain ⟨k, v⟩ := q
    by_cases hk : p (k, v) = true
    · have hne : x ≠ k := fun e => by simp [← e, h v] at hk
      rw [List.filter_cons_of_pos hk, tabGet, if_neg hne, ih]
    · rw [List.filter_cons_of_neg hk, ih]

theorem lowered_peerPause {s : State} {sl k : Nat} (h : getF s sl F.PORT.LINK_UP = 2 ^ k) {c : Nat} (hc : c < 8) :
    tabGet (lowered s sl k).peerPause (sl * 8 + c) = none := by
  have he : (sl * 8 + c) / 8 = sl := by omega
  simp only [lowered, if_pos h]
  exact tabGet_filter_none _ fun v => by simp [he]

theorem exec_linkDown {s : State} {sl : Nat} (h : serving s sl = true) (k : Nat) :
    exec (.linkDown sl k) s = .next (subDown s sl k) := by
  have arm : exec (.linkDown sl k) s = execLinkDown sl k s := rfl
  rw [arm]
  exact onSlate_serving (fun s => subDown s sl k) h

theorem linkDown_idle {s : State} {sl k : Nat} (h : serving s sl = true) (hu : ¬ bitOf (getF s sl F.PORT.LINK_UP) k = true) :
    exec (.linkDown sl k) s = .next s := by rw [exec_linkDown h, subDown_idle (Bool.eq_false_of_not_eq_true hu)]

theorem linkDown_lowers {s : State} {sl k : Nat} (h : serving s sl = true) (hu : bitOf (getF s sl F.PORT.LINK_UP) k = true) :
    Answers (.linkDown sl k) s fun u => bitOf (getF u sl F.PORT.LINK_UP) k = false ∧
      (∀ i, i ≠ k → bitOf (getF u sl F.PORT.LINK_UP) i = bitOf (getF s sl F.PORT.LINK_UP) i) ∧ Detected u sl Ev.LINK_DOWN ∧
      (getF s sl F.PORT.LINK_UP = 2 ^ k → ∀ c < 8, tabGet u.peerPause (sl * 8 + c) = none) := by
  refine ⟨_, exec_linkDown h k, ?_, fun i hi => ?_, ?_, fun hl c hc => ?_⟩
  · rw [subDown_bit]
    simp
  · rw [subDown_bit, decide_eq_false hi]
    rfl
  · rw [subDown_loses hu]
    exact detect_detected _ sl (by decide) []
  · rw [(lowered_reports hu).peerPause, lowered_peerPause hl hc]

/-! ### Pause frames (R126) -/

theorem exec_pfcPauseRx {s : State} {sl : Nat} (h : serving s sl = true) (c : Nat) (on : Bool) : exec (.pfcPauseRx sl c on) s = .next
    (if !on then { s with peerPause := tabDel s.peerPause (sl * 8 + c) }
      else if !bitOf (getF s sl F.PORT.PFC_EN) c || tabHas s.peerPause (sl * 8 + c) then s
      else { s with peerPause := tabPut s.peerPause (sl * 8 + c) { since := now s sl, raised := false } }) := by
  have arm : exec (.pfcPauseRx sl c on) s = execPfcPauseRx sl c on s := rfl
  rw [arm]
  exact onSlate_serving _ h

theorem pfcPauseRx_ends {s : State} {sl : Nat} (h : serving s sl = true) (c : Nat) :
    Answers (.pfcPauseRx sl c false) s fun u => tabGet u.peerPause (sl * 8 + c) = none :=
  ⟨_, exec_pfcPauseRx h c false, tabGet_tabDel_self ..⟩

theorem pfcPauseRx_begins {s : State} {sl c : Nat} (h : serving s sl = true) (he : bitOf (getF s sl F.PORT.PFC_EN) c = true)
    (hn : tabGet s.peerPause (sl * 8 + c) = none) :
    Answers (.pfcPauseRx sl c true) s fun u => tabGet u.peerPause (sl * 8 + c) = some { since := now s sl, raised := false } := by
  refine answers_of_else (exec_pfcPauseRx h c true) (by simp) ?_
  rw [if_neg (by simp [he, tabHas, hn])]
  exact tabGet_tabPut_self ..

theorem pfcPauseRx_idle {s : State} {sl c : Nat} (h : serving s sl = true)
    (hi : bitOf (getF s sl F.PORT.PFC_EN) c = false ∨ tabGet s.peerPause (sl * 8 + c) ≠ none) :
    exec (.pfcPauseRx sl c true) s = .next s := by
  rw [exec_pfcPauseRx h, if_neg (by simp), if_pos]
  simpa [tabHas, Option.isSome_iff_ne_none] using hi

theorem exec_pauseRefresh {s : State} {sl : Nat} (h : serving s sl = true) : exec (.pauseRefresh sl) s = .next
    (if pausing s sl = 0 then s else sendPause s sl) := by
  have arm : exec (.pauseRefresh sl) s = execPauseRefresh sl s := rfl
  rw [arm]
  exact onSlate_serving _ h

theorem pauseRefresh_sends {s : State} {sl : Nat} (h : serving s sl = true) (hp : pausing s sl ≠ 0) :
    Answers (.pauseRefresh sl) s fun u => tabGet u.pauseAt sl = some
      { tb := now s sl, classes := pausing s sl, quanta := getF s sl F.PORT.PAUSE_QUANTA } :=
  answers_of_else (exec_pauseRefresh h) hp (tabGet_tabPut_self ..)

theorem pauseRefresh_idle {s : State} {sl : Nat} (h : serving s sl = true) (hp : pausing s sl = 0) :
    exec (.pauseRefresh sl) s = .next s := by rw [exec_pauseRefresh h, if_pos hp]

/-! ### The port's settings (R130) -/

theorem fv_lt (v : Word) (f : Fld) : fv v f < 2 ^ f.w := bits_lt ..

theorem regWrite_illegal {s : State} {sl sp e : Nat} {v : Word} (h : legal s sl sp e v = false) : regWrite s sl sp e v = s := by
  simp [regWrite, writeEntry, h]

theorem regWrite_legal {s : State} {sl sp e : Nat} {v : Word} (h : legal s sl sp e v = true) :
    regWrite s sl sp e v = (act s (storeFields s sl sp e v) sl sp e v false).1 := by
  simp [regWrite, writeEntry, h]

theorem fieldMap_pcfg (n sl : Nat) : fieldMap n sl 0x03 0 =
    [⟨F.PORT.BREAKOUT, .rw, 0⟩, ⟨F.PORT.MTU, .rw, 9216⟩, ⟨F.PORT.IPV4_EN, .rw, 0⟩, ⟨F.PORT.ADMIN_UP, .rw, 1⟩] := by
  simp [fieldMap, slate0Only, fieldsPort]

/-- PCFG as written. -/
def configured (s : State) (sl : Nat) (v : Word) : State :=
  setF (setF (setF (setF s sl F.PORT.BREAKOUT (fv v F.PORT.BREAKOUT)) sl F.PORT.MTU (fv v F.PORT.MTU))
    sl F.PORT.IPV4_EN (fv v F.PORT.IPV4_EN)) sl F.PORT.ADMIN_UP (fv v F.PORT.ADMIN_UP)

theorem storeFields_pcfg (s : State) (sl : Nat) (v : Word) : storeFields s sl 0x03 0 v = configured s sl v := by
  rw [storeFields, fieldMap_pcfg]
  rfl

theorem act_pcfg (old s : State) (sl : Nat) (v : Word) : (act old s sl 0x03 0 v false).1 =
    if changed old s sl F.PORT.BREAKOUT || changed old s sl F.PORT.MTU || changed old s sl F.PORT.ADMIN_UP then portDown s sl else s := by
  rw [act, fieldMap_pcfg]
  rfl

theorem configured_fields (s : State) (sl : Nat) (v : Word) :
    getF (configured s sl v) sl F.PORT.BREAKOUT = fv v F.PORT.BREAKOUT ∧ getF (configured s sl v) sl F.PORT.MTU = fv v F.PORT.MTU ∧
      getF (configured s sl v) sl F.PORT.IPV4_EN = fv v F.PORT.IPV4_EN ∧
      getF (configured s sl v) sl F.PORT.ADMIN_UP = fv v F.PORT.ADMIN_UP := by
  have apart (u : State) (f g : Fld) (x : Nat) (hf : f.sp = 3 ∧ f.e = 0 ∧ f.lo + f.w ≤ 64) (hg : g.sp = 3 ∧ g.e = 0)
      (hd : g.lo + g.w ≤ f.lo) : getF (setF u sl f x) sl g = getF u sl g :=
    getF_setF_field u sl f g x (hg.1.trans hf.1.symm) (hg.2.trans hf.2.1.symm) hf.2.2 (.inl hd)
  have fits (u : State) (f : Fld) (hw : f.lo + f.w ≤ 64) : getF (setF u sl f (fv v f)) sl f = fv v f := getF_setF_fits hw (fv_lt v f)
  unfold configured
  refine ⟨?_, ?_, ?_, fits _ _ (by decide)⟩
  · rw [apart _ F.PORT.ADMIN_UP _ _ (by decide) (by decide) (by decide), apart _ F.PORT.IPV4_EN _ _ (by decide) (by decide) (by decide),
      apart _ F.PORT.MTU _ _ (by decide) (by decide) (by decide), fits _ _ (by decide)]
  · rw [apart _ F.PORT.ADMIN_UP _ _ (by decide) (by decide) (by decide), apart _ F.PORT.IPV4_EN _ _ (by decide) (by decide) (by decide),
      fits _ _ (by decide)]
  · rw [apart _ F.PORT.ADMIN_UP _ _ (by decide) (by decide) (by decide), fits _ _ (by decide)]

theorem configured_linkUp (s : State) (sl : Nat) (v : Word) :
    getF (configured s sl v) sl F.PORT.LINK_UP = getF s sl F.PORT.LINK_UP := by
  have other (u : State) (f : Fld) (x : Nat) (hf : f.sp = 3 ∧ f.e = 0) :
      getF (setF u sl f x) sl F.PORT.LINK_UP = getF u sl F.PORT.LINK_UP :=
    getF_setF_ne (by omega) x (by decide) fun _ _ => by
      rw [hf.2]
      decide
  unfold configured
  rw [other _ F.PORT.ADMIN_UP _ (by decide), other _ F.PORT.IPV4_EN _ (by decide), other _ F.PORT.MTU _ (by decide),
    other _ F.PORT.BREAKOUT _ (by decide)]

theorem foldl_subDown_bit (l : List Nat) (s : State) (sl i : Nat) :
    bitOf (getF (l.foldl (fun s k => subDown s sl k) s) sl F.PORT.LINK_UP) i =
      (!decide (i ∈ l) && bitOf (getF s sl F.PORT.LINK_UP) i) := by
  induction l generalizing s with
  | nil => simp
  | cons k l ih =>
    rw [List.foldl_cons, ih, subDown_bit]
    by_cases hk : i = k <;> simp [hk]

/-- A port taken down has no link on any sub-port. -/
theorem portDown_linkUp (s : State) (sl : Nat) : getF (portDown s sl) sl F.PORT.LINK_UP = 0 := by
  refine zero_of_bits (getF_lt (portDown s sl) sl F.PORT.LINK_UP) fun i hi => ?_
  have hm : i ∈ List.range 8 := List.mem_range.2 hi
  rw [portDown, foldl_subDown_bit, decide_eq_true hm]
  rfl

theorem portDown_getF (s : State) (sl : Nat) {f : Fld} (hf : f.sp < 32 ∧ f.e < 4096 ∧ noted f.sp f.e = false)
    (hp : f.sp ≠ 0x0E) (hl : f.sp = 0x03 → f.e ≠ 1) : getF (portDown s sl) sl f = getF s sl f := by
  unfold portDown
  generalize List.range 8 = l
  induction l generalizing s with
  | nil => rfl
  | cons k l ih => rw [List.foldl_cons, ih, subDown_getF s sl k sl hf hp hl]

/-- PCFG as written, and the port taken down where its breakout, its MTU or ADMIN_UP has changed. -/
def reconfigured (s : State) (sl : Nat) (v : Word) : State :=
  if getF s sl F.PORT.MTU ≠ fv v F.PORT.MTU ∨ getF s sl F.PORT.BREAKOUT ≠ fv v F.PORT.BREAKOUT ∨
      getF s sl F.PORT.ADMIN_UP ≠ fv v F.PORT.ADMIN_UP then portDown (configured s sl v) sl
  else configured s sl v

theorem exec_portReconfigure {s : State} {sl : Nat} {v : Word} (h : serving s sl = true) :
    exec (.portReconfigure sl v) s = .next (if legal s sl 0x03 0 v then reconfigured s sl v else s) := by
  have arm : exec (.portReconfigure sl v) s = execPortReconfigure sl v s := rfl
  rw [arm]
  refine (onSlate_serving (fun s => regWrite s sl 0x03 0 v) h).trans ?_
  cases hl : legal s sl 0x03 0 v with
  | false => rw [regWrite_illegal hl]; rfl
  | true =>
    obtain ⟨hb, hm, -, ha⟩ := configured_fields s sl v
    rw [regWrite_legal hl, storeFields_pcfg, act_pcfg]
    have hc : (changed s (configured s sl v) sl F.PORT.BREAKOUT || changed s (configured s sl v) sl F.PORT.MTU ||
        changed s (configured s sl v) sl F.PORT.ADMIN_UP) = true ↔
        (getF s sl F.PORT.MTU ≠ fv v F.PORT.MTU ∨ getF s sl F.PORT.BREAKOUT ≠ fv v F.PORT.BREAKOUT ∨
          getF s sl F.PORT.ADMIN_UP ≠ fv v F.PORT.ADMIN_UP) := by
      rw [Bool.or_eq_true, Bool.or_eq_true, changed, changed, changed, bne_iff_ne, bne_iff_ne, bne_iff_ne, hb, hm, ha,
        or_comm (a := getF s sl F.PORT.BREAKOUT ≠ _), or_assoc]
    rw [if_pos rfl, reconfigured, ite_cond_congr (propext hc)]

theorem portReconfigure_idle {s : State} {sl : Nat} {v : Word} (h : serving s sl = true) (hl : legal s sl 0x03 0 v = false) :
    exec (.portReconfigure sl v) s = .next s := by rw [exec_portReconfigure h, hl, if_neg (by decide)]

theorem reconfigured_field (s : State) (sl : Nat) (v : Word) {f : Fld} (hf : f.sp < 32 ∧ f.e < 4096 ∧ noted f.sp f.e = false)
    (hp : f.sp ≠ 0x0E) (hl : f.sp = 0x03 → f.e ≠ 1) : getF (reconfigured s sl v) sl f = getF (configured s sl v) sl f := by
  unfold reconfigured
  split
  · exact portDown_getF _ sl hf hp hl
  · rfl

theorem portReconfigure_writes {s : State} {sl : Nat} {v : Word} (h : serving s sl = true) (hl : legal s sl 0x03 0 v = true) :
    Answers (.portReconfigure sl v) s fun u =>
      getF u sl F.PORT.MTU = fv v F.PORT.MTU ∧ getF u sl F.PORT.BREAKOUT = fv v F.PORT.BREAKOUT ∧
      getF u sl F.PORT.ADMIN_UP = fv v F.PORT.ADMIN_UP ∧ getF u sl F.PORT.IPV4_EN = fv v F.PORT.IPV4_EN ∧
      (getF s sl F.PORT.MTU ≠ fv v F.PORT.MTU ∨ getF s sl F.PORT.BREAKOUT ≠ fv v F.PORT.BREAKOUT ∨
        getF s sl F.PORT.ADMIN_UP ≠ fv v F.PORT.ADMIN_UP → getF u sl F.PORT.LINK_UP = 0) ∧
      (getF s sl F.PORT.MTU = fv v F.PORT.MTU → getF s sl F.PORT.BREAKOUT = fv v F.PORT.BREAKOUT →
        getF s sl F.PORT.ADMIN_UP = fv v F.PORT.ADMIN_UP → getF u sl F.PORT.LINK_UP = getF s sl F.PORT.LINK_UP) := by
  obtain ⟨hb, hm, hi, ha⟩ := configured_fields s sl v
  refine answers_of_if (exec_portReconfigure h) hl ⟨?_, ?_, ?_, ?_, fun hc => ?_, fun h1 h2 h3 => ?_⟩
  · exact (reconfigured_field s sl v (by decide) (by decide) (by decide)).trans hm
  · exact (reconfigured_field s sl v (by decide) (by decide) (by decide)).trans hb
  · exact (reconfigured_field s sl v (by decide) (by decide) (by decide)).trans ha
  · exact (reconfigured_field s sl v (by decide) (by decide) (by decide)).trans hi
  · rw [reconfigured, if_pos hc, portDown_linkUp]
  · rw [reconfigured, if_neg (by simp [h1, h2, h3]), configured_linkUp]

/-! ### A Sync (R14, R129) -/

/-- PTPSTAT with the offset a Sync gives, and locked. -/
def measured (s : State) (sl : Nat) (off : Int) : State := setF (setF s sl F.PORT.OFFSET (sat32 off)) sl F.PORT.LOCKED 1

/-- Every slate's TB stepped forward by `d`. -/
def steppedTb (s : State) (d : Nat) : Tab Word :=
  (List.range s.n).foldl (fun tb x => tabPut tb x (BitVec.ofNat 64 (now s x + d))) s.tb

/-- The first lock: TB is stepped, and slews only where it is ahead. -/
def stepped (s : State) (sl : Nat) (off : Int) (d : Nat) : State :=
  setF { s with tbStepped := true, slew := if off < 0 then 0 else -off, tb := steppedTb s d } sl F.PORT.STEPPED 1

/-- What TB is to slew by. -/
def slewed (s : State) (off : Int) : State := { s with slew := -off }

/-- Every later Sync: what TB is to slew by, and the event where the offset exceeds OFFSET_LIMIT. -/
def slewing (s : State) (sl : Nat) (off : Int) : State :=
  if getF (slewed s off) sl F.PORT.OFFSET_LIMIT < off.natAbs then detect (slewed s off) sl Ev.PTP_OFFSET [] else slewed s off

/-- The instant of the last Sync. -/
def synced (s : State) (sl : Nat) : State := { s with ptpSync := some (now s sl) }

/-- PTP_LOCK, unless the receiver was locked. -/
def lockReported (locked : Bool) (s : State) (sl : Nat) : State := if locked then s else raise s sl Ev.PTP_LOCK

/-- A followed Sync, up to its report. -/
def disciplined (s : State) (sl : Nat) (off : Int) (d : Nat) : State :=
  synced (if !(measured s sl off).tbStepped then stepped (measured s sl off) sl off d else slewing (measured s sl off) sl off) sl

/-- The receiver's offset from the PTP time of a Sync (R129). -/
def offsetOf (s : State) (sl : Nat) (x : PtpMessage) : Int := (now s sl : Int) - (x.time.toNat : Int)

theorem exec_ptpSync {s : State} {sl : Nat} (h : serving s sl = true) (x : PtpMessage) : exec (.ptpSync sl x) s = .next
    (if ptpFollows s sl x = false then s else
      lockReported (isF s sl F.PORT.LOCKED) (disciplined s sl (offsetOf s sl x) (x.time.toNat - now s sl)) sl) := by
  have arm : exec (.ptpSync sl x) s = execPtpSync sl x s := rfl
  rw [arm]
  exact onSlate_serving _ h

theorem ptpSync_idle {s : State} {sl : Nat} {x : PtpMessage} (h : serving s sl = true) (hf : ¬ ptpFollows s sl x = true) :
    exec (.ptpSync sl x) s = .next s := by rw [exec_ptpSync h, if_pos (Bool.eq_false_of_not_eq_true hf)]

theorem ptpFollows_iff (s : State) (sl : Nat) (x : PtpMessage) : ptpFollows s sl x = true ↔
    ptpSlate s = some sl ∧ getF s sl F.PORT.PTP_DOMAIN = x.domain ∧ getF s sl F.PORT.PTP_TRANSPORT = x.transport ∧ x.best = true := by
  simp [ptpFollows, and_assoc]

theorem sat32_of_fits {x : Int} (h : -(2 ^ 31 : Int) ≤ x) (h' : x < 2 ^ 31) : sat32 x = (x % 2 ^ 32).toNat := by
  rw [sat32, min_eq_right (by omega), max_eq_right h]

theorem sat32_lt (x : Int) : sat32 x < 2 ^ 32 := by
  unfold sat32
  omega

theorem measured_locked (s : State) (sl : Nat) (off : Int) : getF (measured s sl off) sl F.PORT.LOCKED = 1 :=
  getF_setF_fits (by decide) (by decide)

theorem measured_offset (s : State) (sl : Nat) (off : Int) : getF (measured s sl off) sl F.PORT.OFFSET = sat32 off := by
  rw [measured, getF_setF_field _ _ F.PORT.LOCKED F.PORT.OFFSET _ rfl rfl (by decide) (.inr (by decide)),
    getF_setF_fits (by decide) (sat32_lt off)]

theorem measured_rest (s : State) (sl : Nat) (off : Int) :
    (measured s sl off).tbStepped = s.tbStepped ∧ (measured s sl off).tb = s.tb ∧ (measured s sl off).n = s.n := by
  simp [measured]

theorem measured_now (s : State) (sl : Nat) (off : Int) (y : Nat) : now (measured s sl off) y = now s y := by
  rw [now, (measured_rest s sl off).2.1, now]

theorem stepped_ptpstat (s : State) (sl : Nat) (off : Int) (d : Nat) :
    getF (stepped s sl off d) sl F.PORT.LOCKED = getF s sl F.PORT.LOCKED ∧
      getF (stepped s sl off d) sl F.PORT.OFFSET = getF s sl F.PORT.OFFSET ∧ getF (stepped s sl off d) sl F.PORT.STEPPED = 1 :=
  ⟨getF_setF_field _ _ F.PORT.STEPPED F.PORT.LOCKED _ rfl rfl (by decide) (.inl (by decide)),
    getF_setF_field _ _ F.PORT.STEPPED F.PORT.OFFSET _ rfl rfl (by decide) (.inr (by decide)),
    getF_setF_fits (by decide) (by decide)⟩

theorem synced_getF (s : State) (sl sl' : Nat) (f : Fld) : getF (synced s sl) sl' f = getF s sl' f :=
  getF_of_rawEntry rfl

theorem slewed_getF (s : State) (off : Int) (sl : Nat) (f : Fld) : getF (slewed s off) sl f = getF s sl f :=
  getF_of_rawEntry rfl

theorem disciplined_of_unstepped {s : State} (h : s.tbStepped = false) (sl : Nat) (off : Int) (d : Nat) :
    disciplined s sl off d = synced (stepped (measured s sl off) sl off d) sl := by
  rw [disciplined, (measured_rest s sl off).1, h, if_pos (by decide)]

theorem disciplined_of_stepped {s : State} (h : s.tbStepped = true) (sl : Nat) (off : Int) (d : Nat) :
    disciplined s sl off d = synced (slewing (measured s sl off) sl off) sl := by
  rw [disciplined, (measured_rest s sl off).1, h, if_neg (by decide)]

theorem slewing_reports (s : State) (sl : Nat) (off : Int) : Reports (slewed s off) (slewing s sl off) :=
  .ite (detect_reports _ sl (by decide) []) (.refl _)

theorem lockReported_reports (locked : Bool) (s : State) (sl : Nat) : Reports s (lockReported locked s sl) :=
  .ite (.refl s) (raise_reports s sl (by decide))

theorem lockReported_pending (s : State) (sl : Nat) : Pending (lockReported false s sl) sl Ev.PTP_LOCK :=
  raise_pending s sl (by decide)

/-- Whether TB is stepped or slews, the offset and the lock stay as measured. -/
theorem disciplined_measured (s : State) (sl : Nat) (off : Int) (d : Nat) :
    getF (disciplined s sl off d) sl F.PORT.LOCKED = 1 ∧ getF (disciplined s sl off d) sl F.PORT.OFFSET = sat32 off := by
  cases hs : s.tbStepped with
  | false =>
    obtain ⟨hl, ho, -⟩ := stepped_ptpstat (measured s sl off) sl off d
    rw [disciplined_of_unstepped hs, synced_getF, synced_getF, hl, ho, measured_locked, measured_offset]
    exact ⟨rfl, rfl⟩
  | true =>
    have hr := slewing_reports (measured s sl off) sl off
    rw [disciplined_of_stepped hs, synced_getF, synced_getF, hr.getF (by decide), hr.getF (by decide), slewed_getF, slewed_getF,
      measured_locked, measured_offset]
    exact ⟨rfl, rfl⟩

theorem synced_slewing (s : State) (sl : Nat) (off : Int) :
    (synced (slewing s sl off) sl).tb = s.tb ∧ (synced (slewing s sl off) sl).slew = -off ∧
      (synced (slewing s sl off) sl).ptpSync = some (now s sl) :=
  have hr := slewing_reports s sl off
  ⟨hr.tb, hr.slew, congrArg some (hr.now sl)⟩

theorem disciplined_slews {s : State} (h : s.tbStepped = true) (sl : Nat) (off : Int) (d : Nat) :
    (disciplined s sl off d).tb = s.tb ∧ (disciplined s sl off d).slew = -off ∧
      (disciplined s sl off d).ptpSync = some (now s sl) := by
  obtain ⟨-, htb, -⟩ := measured_rest s sl off
  obtain ⟨ht, hw, hp⟩ := synced_slewing (measured s sl off) sl off
  rw [disciplined_of_stepped h, ht, hw, hp, htb, measured_now]
  exact ⟨rfl, rfl, rfl⟩

theorem tabGet_foldl_tabPut {α : Type} (f : Nat → α) (l : List Nat) (t : Tab α) {y : Nat} (hy : y ∈ l ∨ tabGet t y = some (f y)) :
    tabGet (l.foldl (fun t x => tabPut t x (f x)) t) y = some (f y) := by
  induction l generalizing t with
  | nil => simpa using hy
  | cons x l ih =>
    refine ih _ ?_
    by_cases hx : y = x
    · subst hx
      exact .inr (tabGet_tabPut_self ..)
    · rw [tabGet_tabPut_ne _ _ hx]
      simpa [hx] using hy

theorem tabGet_steppedTb (s : State) (d : Nat) {y : Nat} (h : y < s.n) :
    tabGet (steppedTb s d) y = some (BitVec.ofNat 64 (now s y + d)) :=
  tabGet_foldl_tabPut (fun x => BitVec.ofNat 64 (now s x + d)) _ s.tb (.inl (List.mem_range.2 h))

theorem disciplined_steps {s : State} (h : s.tbStepped = false) (sl : Nat) (off : Int) (d : Nat) :
    (disciplined s sl off d).tbStepped = true ∧ getF (disciplined s sl off d) sl F.PORT.STEPPED = 1 ∧
      ∀ y < s.n, now (disciplined s sl off d) y = (now s y + d) % 2 ^ 64 := by
  obtain ⟨-, -, hst⟩ := stepped_ptpstat (measured s sl off) sl off d
  rw [disciplined_of_unstepped h, synced_getF]
  refine ⟨by simp only [synced, stepped, setF_tbStepped], hst, fun y hy => ?_⟩
  have ht : tabGet (steppedTb (measured s sl off) d) y = some (BitVec.ofNat 64 (now s y + d)) := by
    rw [tabGet_steppedTb _ d (by rwa [(measured_rest s sl off).2.2]), measured_now]
  have hn : now (synced (stepped (measured s sl off) sl off d) sl) y = (tabGetD (steppedTb (measured s sl off) d) y 0).toNat := by
    rw [synced, stepped]
    simp only [now, setF_tb]
  rw [hn, tabGetD, ht, Option.getD_some, BitVec.toNat_ofNat]

theorem ptpSync_follows {s : State} {sl : Nat} {x : PtpMessage} (h : serving s sl = true) (hf : ptpFollows s sl x = true) :
    Answers (.ptpSync sl x) s fun u => getF u sl F.PORT.LOCKED = 1 ∧
      (-(2 ^ 31 : Int) ≤ offsetOf s sl x → offsetOf s sl x < 2 ^ 31 → getF u sl F.PORT.OFFSET = (offsetOf s sl x % 2 ^ 32).toNat) ∧
      (s.tbStepped = true → u.tb = s.tb ∧ u.slew = -offsetOf s sl x ∧ u.ptpSync = some (now s sl)) ∧
      (s.tbStepped = false → u.tbStepped = true ∧ getF u sl F.PORT.STEPPED = 1 ∧
        ∀ y < s.n, now u y = (now s y + (x.time.toNat - now s sl)) % 2 ^ 64) ∧
      (isF s sl F.PORT.LOCKED = false → Pending u sl Ev.PTP_LOCK) := by
  generalize ho : offsetOf s sl x = off
  generalize hd : x.time.toNat - now s sl = d
  have hr := lockReported_reports (isF s sl F.PORT.LOCKED) (disciplined s sl off d) sl
  obtain ⟨hl, hoff⟩ := disciplined_measured s sl off d
  refine answers_of_else (exec_ptpSync h x) (by simp [hf]) ?_
  rw [ho, hd]
  refine ⟨(hr.getF (by decide) sl).trans hl, fun h1 h2 => ?_, fun hs => ?_, fun hs => ?_, fun hn => ?_⟩
  · rw [hr.getF (by decide) sl, hoff, sat32_of_fits h1 h2]
  · rw [hr.tb, hr.slew, hr.ptpSync]
    exact disciplined_slews hs sl off d
  · rw [hr.tbStepped, hr.getF (by decide) sl]
    obtain ⟨h1, h2, h3⟩ := disciplined_steps hs sl off d
    exact ⟨h1, h2, fun y hy => (hr.now y).trans (h3 y hy)⟩
  · rw [hn]
    exact lockReported_pending ..

/-! ### The Sync lost (R129) -/

theorem exec_ptpLoss {s : State} {sl t : Nat} (h : serving s 0 = true) (hp : ptpSlate s = some sl) (ht : s.ptpSync = some t) :
    exec .ptpLoss s = .next (if isF s sl F.PORT.LOCKED = true ∧ t + 3000000000 ≤ now s sl then
      detect (holdOver s sl) sl Ev.PTP_LOSS [] else s) := by
  have arm : exec .ptpLoss s = execPtpLoss s := rfl
  rw [arm]
  refine (onUnit_serving _ h).trans ?_
  simp only [hp, ht, Bool.and_eq_true, decide_eq_true_eq]
  rfl

theorem ptpLoss_due {s : State} {sl t : Nat} (h : serving s 0 = true) (hp : ptpSlate s = some sl) (ht : s.ptpSync = some t)
    (hd : isF s sl F.PORT.LOCKED = true ∧ t + 3000000000 ≤ now s sl) :
    Answers .ptpLoss s fun u => getF u sl F.PORT.LOCKED = 0 ∧ u.slew = 0 ∧ u.tb = s.tb ∧ Detected u sl Ev.PTP_LOSS := by
  refine answers_of_if (exec_ptpLoss h hp ht) hd ?_
  have hr := detect_reports (holdOver s sl) sl (e := Ev.PTP_LOSS) (by decide) []
  have hl : getF (holdOver s sl) sl F.PORT.LOCKED = 0 := getF_setF_fits (by decide) (by decide)
  exact ⟨(hr.getF (by decide) sl).trans hl, hr.slew, hr.tb, detect_detected _ sl (by decide) []⟩

theorem ptpLoss_idle {s : State} {sl t : Nat} (h : serving s 0 = true) (hp : ptpSlate s = some sl) (ht : s.ptpSync = some t)
    (hd : ¬ (isF s sl F.PORT.LOCKED = true ∧ t + 3000000000 ≤ now s sl)) : exec .ptpLoss s = .next s := by
  rw [exec_ptpLoss h hp ht, if_neg hd]

/-- Settles O40, command by command. -/
theorem portsAndPause : Obligations.PortsAndPause := by
  unfold Obligations.PortsAndPause
  refine ⟨⟨fun s h => ?ready, fun s t h ht _ => ?timeout, fun s sl k h => ?link, fun s sl c h _ => ?pause, fun s sl v h => ?settings⟩,
    fun s sl x h => ?sync, fun s sl t h hp ht _ => ?loss⟩
  case ready => exact ⟨readyRepeat_due h, readyRepeat_idle h⟩
  case timeout => exact ⟨pauseTimeout_due h ht, pauseTimeout_idle h ht⟩
  case link => exact ⟨portTrained_trains h, portTrained_idle h, linkDown_idle h, fun hu _ => linkDown_lowers h hu⟩
  case pause =>
    exact ⟨pfcPauseRx_ends h c, pfcPauseRx_begins h, pfcPauseRx_idle h, pauseRefresh_sends h, pauseRefresh_idle h⟩
  case settings => exact ⟨portReconfigure_idle h, portReconfigure_writes h⟩
  case sync =>
    have hiff := ptpFollows_iff s sl x
    exact ⟨fun hn => ptpSync_idle h fun hf => hn (hiff.1 hf), fun hf => ptpSync_follows h (hiff.2 hf)⟩
  case loss => exact ⟨ptpLoss_due h hp ht, ptpLoss_idle h hp ht⟩

end Sys2Proof.Ports
end

section
/-! The rules of an instruction that issues: the checks of R50 in their order, and what an instruction's body decides of its job once they
have passed: that it traps, goes on or completes (R33, R34, R49 to R52). -/

namespace Sys2Proof.Issuing

open Sys2Proof Sys2Proof.Machine

/-! ### The checks of issue (R50) -/

/-- The state after a grant of the issue arbiter. -/
abbrev chosen (s : State) (t : Thread) : State := granted s (ptrIssue t.slate (t.idx / 4)) (t.idx % 4) 4

section Checks

variable {c : Instr} {s : State} {t : Thread} {id : Nat} {j : Job} {len : Nat} {legal keepOnly : Bool}
  {body : State → Nat → Job → State}

/-- What a job due to issue meets, in order: its budget, its PC, the opcode, the reserved fields, its privilege, and the instruction. -/
theorem issue_due (ht : jobOn s t = some id) (hj : jobOf s id = some j) (he : j.ended = none) (hw : j.wait = .none) :
    issue t s len legal keepOnly body =
      if (!isHk j && j.budget == 0) = true then trapJob (chosen s t) id St.budget
      else sampleAfter (if pcBad s j len then trapJob (issued s t id j) id St.outOfRange
        else if opcodeBad s t j then trapJob (fetched s t id j len) id St.illegalOpcode
        else if !legal then trapJob (fetched s t id j len) id St.illegalField
        else if keepOnly && !j.keep then trapJob (fetched s t id j len) id St.rights
        else body (fetched s t id j len) id (begun j)) id := by
  have hc : canIssue j = true := by simp [canIssue, he, hw]
  have hp : pcBad (issued s t id j) (begun j) len = pcBad s j len := pcBad_congr (by simp) rfl rfl len
  have ho : opcodeBad (fetched s t id j len) t (begun j) = opcodeBad s t j := opcodeBad_congr (by simp) rfl rfl t
  simp only [issue, ht, hj, hc, Bool.not_true, Bool.false_eq_true, if_false]
  rw [show beginInsn (granted s (ptrIssue t.slate (t.idx / 4)) (t.idx % 4) 4) id j = issued s t id j from rfl, jobOf_issued]
  simp only [hp]
  rw [show fetchWords (issued s t id j) t (begun j) len = fetched s t id j len from rfl]
  simp only [ho, show (begun j).keep = j.keep from rfl]
  repeat' split
  all_goals rfl

/-- The state an instruction's body leaves, before its sample. -/
theorem next_of_issue (h : Issues s t id j len) (arm : exec c s = onThread t s fun s => issue t s len legal keepOnly body)
    (hl : legal = true) (hk : keepOnly = true → j.keep = true) :
    exec c s = .next (sampleAfter (body (fetched s t id j len) id (begun j)) id) := by
  rw [arm, onThread_serving _ h.serves, issue_begins h hl hk]

/-- Without the privilege an instruction needs its job traps with RIGHTS (R50 step 5). -/
theorem traps_of_privilege (h : Issues s t id j len) (arm : exec c s = onThread t s fun s => issue t s len legal true body)
    (hl : legal = true) (hk : j.keep = false) : Traps c s id St.rights := by
  have hb : (!isHk j && j.budget == 0) = false := by rcases h.budget with hb | hb <;> simp [hb]
  obtain ⟨he, hw⟩ := h.ready
  refine traps_of_trapJob (jobOf_fetched s t id j len) ?_
  rw [arm, onThread_serving _ h.serves, issue_due h.onThread h.job he hw]
  simp [hb, h.pc, h.opcode, hl, hk]

/-- An illegal field value traps with ILLEGAL_FIELD (R50 step 4). -/
theorem traps_of_illegal (h : Issues s t id j len) (arm : exec c s = onThread t s fun s => issue t s len legal keepOnly body)
    (hl : legal = false) : Traps c s id St.illegalField := by
  subst hl
  exact traps_of_trapJob (jobOf_fetched s t id j len) (arm.trans ((onThread_serving _ h.serves).trans (by rw [issue_illegal h])))

end Checks

/-! ### What the body decides -/

@[simp] theorem rd_begun (j : Job) (r : Reg) : rd (begun j) r = rd j r := rfl

section Body

variable {c : Instr} {s : State} {t : Thread} {id : Nat} {j : Job} {len : Nat} {legal keepOnly : Bool}
  {body : State → Nat → Job → State} (h : Issues s t id j len)
  (arm : exec c s = onThread t s fun s => issue t s len legal keepOnly body) (hl : legal = true)
  (hk : keepOnly = true → j.keep = true)

include h arm hl hk

theorem traps_of_body {st : Status} (hb : body (fetched s t id j len) id (begun j) = trapJob (fetched s t id j len) id st) :
    Traps c s id st :=
  traps_of_trapJob (jobOf_fetched s t id j len) ((next_of_issue h arm hl hk).trans (by rw [hb]))

theorem leaves_of_body {u : State} {j' : Job} {k : Nat} (hb : body (fetched s t id j len) id (begun j) = finish u id j' k) :
    Leaves c s id { j' with pc := j'.pc + k } :=
  Access.leaves_of_finish ((next_of_issue h arm hl hk).trans (by rw [hb]))

theorem completes_of_body {u : State} {d : Reg} {r : Word}
    (hb : body (fetched s t id j len) id (begun j) = finish u id (wr (begun j) d r) len) :
    Completes c s id j len d r j.z j.n j.c j.v :=
  Access.completes_of_finish ((next_of_issue h arm hl hk).trans (by rw [hb]))

end Body

end Sys2Proof.Issuing
end

section
/-! The scratch loads and stores (R27, R30, R58). -/

namespace Sys2Proof.Scratch

open Sys2Proof Sys2Proof.Machine Sys2Proof.Issuing

/-! ### Bytes of a table -/

/-- Bytes written to a table read back. -/
theorem bytesOf_bytesPut_self (t : Tab Byte) (off : Nat) (b : Block) : bytesOf (bytesPut t off b) off b.length = b := by
  refine List.ext_getElem (by simp [bytesOf]) fun i _ hi => ?_
  have hin : off ≤ off + i ∧ off + i < off + b.length := by omega
  simp only [bytesOf, List.getElem_map, List.getElem_range, tabGetD_bytesPut, if_pos hin, Nat.add_sub_cancel_left]
  exact List.getD_eq_getElem _ _ hi

/-- A little-endian number written to a table reads back, cut to its bytes. -/
theorem leNat_bytesOf_bytesPut (t : Tab Byte) (off size v : Nat) :
    leNat (bytesOf (bytesPut t off (leBytes size v)) off size) = v % 256 ^ size := by
  have hb := bytesOf_bytesPut_self t off (leBytes size v)
  rw [Access.length_leBytes] at hb
  rw [hb, Access.leNat_leBytes]

/-- Bytes outside what a write stores stay. -/
theorem tabGetD_bytesPut_outside (t : Tab Byte) {off size y : Nat} (v : Nat) (h : y < off ∨ off + size ≤ y) :
    tabGetD (bytesPut t off (leBytes size v)) y 0 = tabGetD t y 0 := by
  rw [tabGetD_bytesPut, Access.length_leBytes, if_neg (by omega)]

/-! ### The checks of R58 -/

theorem scrCheck_beyond {a size : Nat} (h : 0x1000 < a + size) : scrCheck a size = some St.outOfRange := if_pos h

theorem scrCheck_unaligned {a size : Nat} (h : a + size ≤ 0x1000) (ha : a % size ≠ 0) : scrCheck a size = some St.illegalField :=
  (if_neg (Nat.not_lt.2 h)).trans (if_pos ha)

theorem scrCheck_passes {a size : Nat} (h : a + size ≤ 0x1000) (ha : a % size = 0) : scrCheck a size = none :=
  (if_neg (Nat.not_lt.2 h)).trans (if_neg (not_not.2 ha))

/-! ### Loads and stores of one size -/

section Access

variable {load store : Instr} {o : IForm} {size : Nat} {s : State} {id : Nat} {j : Job}

theorem traps_of_scrCheck (h : Issues s o.t id j 1) (hld : exec load s = scrLoad o size s) (hst : exec store s = scrStore o size s)
    {st : Status} (hc : scrCheck (scrAddr j o.a o.imm) size = some st) : Traps load s id st ∧ Traps store s id st := by
  have hc' : scrCheck (scrAddr (begun j) o.a o.imm) size = some st := hc
  exact ⟨traps_of_body h hld rfl (by simp) (by simp only [hc']), traps_of_body h hst rfl (by simp) (by simp only [hc'])⟩

theorem scrLoad_completes (h : Issues s o.t id j 1) (hld : exec load s = scrLoad o size s)
    (hc : scrCheck (scrAddr j o.a o.imm) size = none) :
    Completes load s id j 1 o.d (BitVec.ofNat 64 (leNat (bytesOf j.scr (scrAddr j o.a o.imm) size))) j.z j.n j.c j.v := by
  have hc' : scrCheck (scrAddr (begun j) o.a o.imm) size = none := hc
  exact completes_of_body h hld rfl (by simp) (by simp only [hc']; rfl)

theorem scrStore_leaves (h : Issues s o.t id j 1) (hst : exec store s = scrStore o size s)
    (hc : scrCheck (scrAddr j o.a o.imm) size = none) :
    Leaves store s id { begun j with
      pc := j.pc + 1, scr := bytesPut j.scr (scrAddr j o.a o.imm) (leBytes size (rd j o.d).toNat) } := by
  have hc' : scrCheck (scrAddr (begun j) o.a o.imm) size = none := hc
  exact leaves_of_body h hst rfl (by simp) (by simp only [hc']; rfl)

end Access

/-- Settles O10: the eight instructions are a load and a store of four sizes. -/
theorem scratchEffect : Obligations.ScratchEffect := by
  unfold Obligations.ScratchEffect
  intro s t id j d a imm h x o size hs load store
  have arms : exec load s = scrLoad o size s ∧ exec store s = scrStore o size s := by
    simp only [List.mem_cons, List.not_mem_nil, or_false] at hs
    rcases hs with rfl | rfl | rfl | rfl <;> exact ⟨rfl, rfl⟩
  obtain ⟨hld, hst⟩ := arms
  refine ⟨fun hx => ?_, fun hx ha => ?_, fun hx ha => ?_⟩
  · exact traps_of_scrCheck (o := o) h hld hst (scrCheck_beyond hx)
  · exact traps_of_scrCheck (o := o) h hld hst (scrCheck_unaligned hx ha)
  · have hc : scrCheck (scrAddr j o.a o.imm) size = none := scrCheck_passes hx ha
    exact ⟨scrLoad_completes h hld hc, _, scrStore_leaves h hst hc, rfl, leNat_bytesOf_bytesPut .., fun y =>
      tabGetD_bytesPut_outside _ _⟩

end Sys2Proof.Scratch
end

section
/-! The atomics AADD and ACAS: the old value, the flag, and the one word that changes (R43, R60). -/

namespace Sys2Proof.Atomics

open Sys2Proof Sys2Proof.Machine Sys2Proof.Access Sys2Proof.Issuing

/-- The state in which an atomic has the grant of its home's atomic unit. -/
def atomicGranted (s : State) (sl a : Nat) : State := atomicAccess (granted s (ptrAtomic (memHome a)) sl 8) a

@[simp] theorem atomicGranted_hbm (s : State) (sl a : Nat) : (atomicGranted s sl a).hbm = s.hbm := by simp [atomicGranted]

@[simp] theorem atomicGranted_sampling (s : State) (sl a : Nat) : (atomicGranted s sl a).sampling = s.sampling := by
  simp [atomicGranted, granted]

theorem poisoned_atomicGranted (s : State) (sl a x len : Nat) : poisoned (atomicGranted s sl a) x len = poisoned s x len :=
  poisoned_congr (by simp [atomicGranted]) x len

/-- What the word at an atomic's address held. -/
def oldWord (s : State) (a : Nat) : Word := BitVec.ofNat 64 (leNat (hbmRead s a 8))

theorem oldWord_congr {s t : State} (h : t.hbm = s.hbm) (a : Nat) : oldWord t a = oldWord s a := by
  unfold oldWord
  rw [hbmRead_congr h]

theorem leNat_lt (l : List Byte) : leNat l < 256 ^ l.length := by
  induction l with
  | nil => simp [leNat]
  | cons b r ih =>
    have hb := b.isLt
    rw [List.length_cons, Nat.pow_succ]
    simp only [leNat]
    omega

theorem oldWord_toNat (s : State) (a : Nat) : (oldWord s a).toNat = leNat (hbmRead s a 8) := by
  have hl := leNat_lt (hbmRead s a 8)
  rw [show (hbmRead s a 8).length = 8 by simp [hbmRead, bytesOf]] at hl
  rw [oldWord, BitVec.toNat_ofNat]
  exact Nat.mod_eq_of_lt hl

theorem atomicGo_unpoisoned {o : R3} {s : State} {id : Nat} {j : Job} (body : State → Nat → Job → Nat → Word → State)
    (hp : poisoned s (rd j o.a).toNat 8 = false) :
    atomicGo o body s id j = body (atomicGranted s j.slate (rd j o.a).toNat) id j (rd j o.a).toNat (oldWord s (rd j o.a).toNat) := by
  have hp' := (poisoned_atomicGranted s j.slate (rd j o.a).toNat (rd j o.a).toNat 8).trans hp
  have ho := oldWord_congr (atomicGranted_hbm s j.slate (rd j o.a).toNat) (rd j o.a).toNat
  unfold atomicGranted at hp' ho ⊢
  unfold oldWord at ho ⊢
  simp only [atomicGo, hp', ho, Bool.false_eq_true, if_false]

section Granted

variable {s : State} {id : Nat} {j : Job} {o : R3} (h : Issues s o.t id j 1) (hu : Uncounted s o.t.slate)
  (hc : memCheck s j.keep (rd j o.a).toNat 8 = none) (hh : tabHas s.lost (memHome (rd j o.a).toNat) = false)
  (hp : poisoned s (rd j o.a).toNat 8 = false)

include h hu hc hh hp

/-- An atomic that passes the checks of R59 runs its body, with the word's old value, on a state with the memory it found. -/
theorem atomic_runs {c : Instr} {body : State → Nat → Job → Nat → Word → State}
    (arm : exec c s = .next (issue o.t s 1 true false (memBody (fun j => (rd j o.a).toNat) 8 (atomicGo o body)))) :
    ∃ v, exec c s = .next (sampleAfter (body v id (begun j) (rd j o.a).toNat (oldWord s (rd j o.a).toNat)) id) ∧
      v.hbm = s.hbm ∧ v.sampling = s.sampling := by
  have hp' := (poisoned_congr (fetched_poison s o.t id j 1) (rd j o.a).toNat 8).trans hp
  have he := next_of_memCheck h hu arm rfl rfl hc hh
  rw [atomicGo_unpoisoned (j := begun j) body hp', show rd (begun j) o.a = rd j o.a from rfl,
    oldWord_congr (fetched_hbm s o.t id j 1)] at he
  exact ⟨_, he, by simp [fetched_hbm], by simp [fetched_sampling h.slate hu]⟩

theorem aadd_finishes : ∃ v, exec (.aadd o) s = .next (sampleAfter (finish (hbmWrite v (rd j o.a).toNat
      (leBytes 8 (oldWord s (rd j o.a).toNat + rd j o.b).toNat)) id (wr (begun j) o.d (oldWord s (rd j o.a).toNat)) 1) id) ∧
    v.hbm = s.hbm ∧ v.sampling = s.sampling :=
  atomic_runs h hu hc hh hp (exec_aadd h.serves)

theorem acas_finishes : ∃ v, exec (.acas o) s = .next (sampleAfter (finish
      (if oldWord s (rd j o.a).toNat == rd j o.d then hbmWrite v (rd j o.a).toNat (leBytes 8 (rd j o.b).toNat) else v) id
      { wr (begun j) o.d (oldWord s (rd j o.a).toNat) with z := oldWord s (rd j o.a).toNat == rd j o.d } 1) id) ∧
    v.hbm = s.hbm ∧ v.sampling = s.sampling := by
  obtain ⟨v, he, hv⟩ := atomic_runs h hu hc hh hp (exec_acas h.serves)
  simp only [rd_begun] at he
  exact ⟨v, he, hv⟩

end Granted

/-- The memory a finished atomic leaves is that of its last write: its slate samples nothing. -/
theorem hbm_of_finish {s u v : State} {t : Thread} {id : Nat} {j j' : Job} (h : Issues s t id j 1) (hu : Uncounted s t.slate)
    (hs : v.sampling = s.sampling) (hj : j'.slate = j.slate) (he : u = sampleAfter (finish v id j' 1) id) : u.hbm = v.hbm := by
  have ht := hu.tags
  rw [← h.slate] at ht
  exact hbm_sampleAfter_finish he (by simpa [samplingOf, hs, hj] using ht)

/-- A word written to device memory reads back, and no other byte changes. -/
theorem stores_word {s u v : State} {a : Nat} {w : Word} (hv : v.hbm = s.hbm) (hm : u.hbm = (hbmWrite v a (leBytes 8 w.toNat)).hbm) :
    leNat (hbmRead u a 8) = w.toNat ∧ ∀ y, y < a ∨ a + 8 ≤ y → hbmRead u y 1 = hbmRead s y 1 := by
  constructor
  · have hr := hbmRead_hbmWrite_self v a (leBytes 8 w.toNat)
    rw [length_leBytes] at hr
    rw [hbmRead_congr hm, hr, leNat_leBytes]
    exact Nat.mod_eq_of_lt w.isLt
  · intro y hy
    rw [hbmRead_congr hm, hbmRead_hbmWrite_outside _ _ _ _ (by simpa using hy), hbmRead_congr hv]

/-- A completed read with a flag: `wr` writes `d`, and Z says what `z` says. -/
theorem completes_of_finish_z {c : Instr} {s u : State} {id len : Nat} {j : Job} {d : Reg} {r : Word} {z : Bool}
    (h : exec c s = .next (sampleAfter (finish u id { wr (begun j) d r with z := z } len) id)) :
    Completes c s id j len d r z j.n j.c j.v := by
  obtain ⟨t, ht, hj⟩ := leaves_of_finish h
  refine ⟨t, _, ht, hj, fun x => rd_wr (begun j) d x r, ?_⟩
  rw [wr_eq]
  rfl

/-- Settles O12: both run on the word's old value; ACAS writes where the register held it. -/
theorem atomicEffect : Obligations.AtomicEffect := by
  unfold Obligations.AtomicEffect
  intro s t id j d a b h hu x home off region o hn hoff hx hr hal hh hp old hit
  have hc : memCheck s j.keep x 8 = none := memCheck_passes ⟨hn, hoff, hx⟩ ((regionOk_iff s j.keep x 8).2 hr) hal
  obtain ⟨v, hadd, hv, hvs⟩ := aadd_finishes (o := o) h hu hc hh hp
  obtain ⟨w, hcas, hw, hws⟩ := acas_finishes (o := o) h hu hc hh hp
  refine ⟨completes_of_finish hadd, completes_of_finish_z hcas, fun u he => ?_, fun u he => ?_⟩
  · have hm := hbm_of_finish h hu (by simpa using hvs) (by rw [wr_eq]; rfl) (Host.Outcome.next.inj (he.symm.trans hadd))
    exact stores_word hv hm
  · have hm : u.hbm = (if hit then hbmWrite w x (leBytes 8 (rd j b).toNat) else w).hbm :=
      hbm_of_finish h hu (by split <;> simpa using hws) (by rw [wr_eq]; rfl) (Host.Outcome.next.inj (he.symm.trans hcas))
    by_cases hhit : hit = true
    · rw [if_pos hhit] at hm ⊢
      exact stores_word hw hm
    · rw [if_neg hhit] at hm ⊢
      have hsame := hm.trans hw
      exact ⟨(congrArg leNat (hbmRead_congr hsame x 8)).trans (oldWord_toNat s x).symm,
        fun y _ => hbmRead_congr hsame y 1⟩

end Sys2Proof.Atomics
end

section
/-! What an instruction's beginning and its sample leave alone, and a job that suspends (R25, R26, R337). -/

namespace Sys2Proof.Issuing

open Sys2Proof Sys2Proof.Machine

/-! ### The sample of an instruction -/

theorem sampleAfter_frame (s : State) (id : Nat) :
    (sampleAfter s id).jobs = s.jobs ∧ (sampleAfter s id).threads = s.threads ∧ (sampleAfter s id).buffers = s.buffers := by
  unfold sampleAfter
  split
  · exact ⟨rfl, rfl, rfl⟩
  extract_lets x
  split
  · exact ⟨rfl, rfl, rfl⟩
  split
  · simp
  split
  · simp
  · exact ⟨rfl, rfl, rfl⟩

@[simp] theorem sampleAfter_threads (s : State) (id : Nat) : (sampleAfter s id).threads = s.threads := (sampleAfter_frame s id).2.1

@[simp] theorem sampleAfter_buffers (s : State) (id : Nat) : (sampleAfter s id).buffers = s.buffers := (sampleAfter_frame s id).2.2

theorem jobOn_congr {s u : State} (h : u.threads = s.threads) (t : Thread) : jobOn u t = jobOn s t := by simp [jobOn, h]

@[simp] theorem jobOf_sampleAfter (s : State) (id x : Nat) : jobOf (sampleAfter s id) x = jobOf s x :=
  jobOf_congr (sampleAfter_jobs s id) x

@[simp] theorem jobOn_sampleAfter (s : State) (id : Nat) (t : Thread) : jobOn (sampleAfter s id) t = jobOn s t :=
  jobOn_congr (sampleAfter_threads s id) t

/-! ### The beginning of an instruction -/

@[simp] theorem fetched_threads (s : State) (t : Thread) (id : Nat) (j : Job) (len : Nat) : (fetched s t id j len).threads = s.threads := by
  obtain ⟨-, ht, -⟩ := fetchWords_frame (issued s t id j) t (begun j) len
  exact ht.trans (issued_threads s t id j)

@[simp] theorem fetched_buffers (s : State) (t : Thread) (id : Nat) (j : Job) (len : Nat) : (fetched s t id j len).buffers = s.buffers := by
  obtain ⟨-, -, hb, -⟩ := fetchWords_frame (issued s t id j) t (begun j) len
  exact hb.trans (issued_buffers s t id j)

@[simp] theorem isHk_begun (j : Job) : isHk (begun j) = isHk j := rfl

/-! ### Suspension -/

section Suspend

variable {s : State} {t : Thread} {id : Nat} {j : Job}

/-- A job as it suspends for `w`, to give register `d` its result. -/
def suspended (j : Job) (w : Wait) (d : Reg) : Job :=
  { begun j with pc := j.pc + 1, wait := w, dst := d, phase := .suspended, suspends := j.suspends + 1 }

theorem jobOf_suspendJob (u : State) (hk : isHk j = false) (w : Wait) (d : Reg) :
    jobOf (suspendJob u id (begun j) w d) id = some (suspended j w d) := by
  have hk' : isHk { begun j with pc := (begun j).pc + 1, wait := w, dst := d } = false := hk
  simp only [suspendJob, hk', Bool.false_eq_true, if_false]
  rw [jobOf_congr (countSrc_frame _ _ _ _).1, jobOf_putJob_self]
  rfl

theorem jobOn_suspendJob {u : State} (h : Issues s t id j 1) (hk : isHk j = false) (w : Wait) (d : Reg) :
    jobOn (suspendJob u id (begun j) w d) t = none := by
  have hk' : isHk { begun j with pc := (begun j).pc + 1, wait := w, dst := d } = false := hk
  have hp : threadOf { begun j with pc := (begun j).pc + 1, wait := w, dst := d } = t.idx := by
    simp only [threadOf, show (begun j).phase = j.phase from rfl, h.phase]
  simp only [suspendJob, hk', Bool.false_eq_true, if_false, hp]
  obtain ⟨-, ht, -⟩ := countSrc_frame (putJob { u with threads := tabDel u.threads ((begun j).slate * 192 + t.idx) } id
    (suspended j w d)) j.slate srcSuspend 1
  refine (jobOn_congr ht t).trans ?_
  rw [jobOn, threadKey, ← h.slate]
  exact tabGet_tabDel_self ..

/-- An instruction whose condition is unmet suspends its job, which leaves its thread (R25). -/
theorem suspends_of_body {c : Instr} {legal keepOnly : Bool} {body : State → Nat → Job → State} (h : Issues s t id j 1)
    (arm : exec c s = onThread t s fun s => issue t s 1 legal keepOnly body) (hl : legal = true)
    (hk : keepOnly = true → j.keep = true) (hj : isHk j = false) {u : State} {w : Wait} {d : Reg}
    (hb : body (fetched s t id j 1) id (begun j) = suspendJob u id (begun j) w d) :
    ∃ v, exec c s = .next v ∧ jobOn v t = none ∧ jobOf v id = some (suspended j w d) := by
  have he := next_of_issue h arm hl hk
  rw [hb] at he
  exact ⟨_, he, by rw [jobOn_sampleAfter, jobOn_suspendJob h hj], by rw [jobOf_sampleAfter, jobOf_suspendJob _ hj]⟩

end Suspend

end Sys2Proof.Issuing
end

section
/-! Buffers, handles and payload: BGET, BPUT, HSUB, HLEN, HNEW, RECV and SEND (R29, R61 to R63). -/

namespace Sys2Proof.Payload

open Sys2Proof Sys2Proof.Machine Sys2Proof.Issuing

theorem handleOf_begun (j : Job) (n : Nat) : handleOf (begun j) n = handleOf j n := rfl

theorem handleOf_lt {n : Nat} (h : n < 8) (j : Job) : handleOf j n = tabGet j.h n := by rw [handleOf, Nat.mod_eq_of_lt h]

theorem bufRead_congr {s t : State} (h : t.buffers = s.buffers) (b off len : Nat) : bufRead t b off len = bufRead s b off len := by
  simp only [bufRead, bufOf, h]

theorem arrived_congr {s t : State} (h : t.buffers = s.buffers) (b lo hi : Nat) : arrived t b lo hi = arrived s b lo hi := by
  simp only [arrived, bufOf, h]

/-! ### BGET and BPUT (R61) -/

section Checks

variable {h : Handle} {a size : Nat} {write : Bool}

theorem bufCheck_null : bufCheck none a size write = some St.illegalField := rfl

theorem bufCheck_beyond (hb : h.len < a + size) : bufCheck (some h) a size write = some St.bounds := if_pos hb

theorem bufCheck_within (hb : a + size ≤ h.len) : bufCheck (some h) a size write =
    if write && !h.rw then some St.rights else if (h.off + a) % size ≠ 0 then some St.illegalField else none :=
  if_neg (Nat.not_lt.2 hb)

end Checks

section Access

variable {s : State} {id : Nat} {j : Job} {o : RForm} (h : Issues s o.t id j 1) (hl : bufLegal o = true)

include h hl

theorem bget_traps {k : Option Handle} {st : Status} (hk : handleOf j (bufHandleNo o.minor) = k)
    (hc : bufCheck k (rd j o.a).toNat (sizeOf2 o.minor.toNat) false = some st) : Traps (.bget o) s id st := by
  have arm : exec (.bget o) s = execBget o s := rfl
  exact traps_of_body h arm hl (by simp) (by simp only [rd_begun, handleOf_begun, hk, hc])

theorem bput_traps {k : Option Handle} {st : Status} (hk : handleOf j (bufHandleNo o.minor) = k)
    (hc : bufCheck k (rd j o.a).toNat (sizeOf2 o.minor.toNat) true = some st) : Traps (.bput o) s id st := by
  have arm : exec (.bput o) s = execBput o s := rfl
  exact traps_of_body h arm hl (by simp) (by simp only [rd_begun, handleOf_begun, hk, hc])

variable {x : Handle} (hx : handleOf j (bufHandleNo o.minor) = some x)

include hx

theorem bget_completes (hc : bufCheck (some x) (rd j o.a).toNat (sizeOf2 o.minor.toNat) false = none) :
    Completes (.bget o) s id j 1 o.d
      (BitVec.ofNat 64 (leNat (bufRead s x.buf (x.off + (rd j o.a).toNat) (sizeOf2 o.minor.toNat)))) j.z j.n j.c j.v := by
  have arm : exec (.bget o) s = execBget o s := rfl
  have hr := bufRead_congr (fetched_buffers s o.t id j 1)
  exact completes_of_body h arm hl (by simp) (by simp only [rd_begun, handleOf_begun, hx, hc, handleRead, hr]; rfl)

theorem bput_finishes (hc : bufCheck (some x) (rd j o.a).toNat (sizeOf2 o.minor.toNat) true = none) :
    exec (.bput o) s = .next (sampleAfter (finish (bufWrite (fetched s o.t id j 1) x.buf (x.off + (rd j o.a).toNat)
      (leBytes (sizeOf2 o.minor.toNat) (rd j o.d).toNat)) id (begun j) 1) id) := by
  have arm : exec (.bput o) s = execBput o s := rfl
  rw [next_of_issue h arm hl (by simp)]
  simp only [rd_begun, handleOf_begun, hx, hc]

end Access

/-- A little-endian number written to a buffer reads back there; no other byte of it and no other buffer changes. -/
theorem bufWrite_writes {s u v : State} {b off size w : Nat} (hv : v.buffers = s.buffers)
    (hu : u.buffers = (bufWrite v b off (leBytes size w)).buffers) (hb : tabHas s.buffers b = true) :
    leNat (bufRead u b off size) = w % 256 ^ size ∧ (∀ y, y < off ∨ off + size ≤ y → bufRead u b y 1 = bufRead s b y 1) ∧
      ∀ x, x ≠ b → tabGet u.buffers x = tabGet s.buffers x := by
  obtain ⟨x, hx⟩ := Option.isSome_iff_exists.1 hb
  have hu' : u.buffers = tabMod s.buffers b fun x => { x with data := bytesPut x.data off (leBytes size w) } := by
    rw [hu, bufWrite, hv]
  have hself : bufOf u b = some { x with data := bytesPut x.data off (leBytes size w) } := by
    rw [bufOf, hu', tabGet_tabMod_self, hx]
    rfl
  have hx' : bufOf s b = some x := hx
  refine ⟨?_, fun y hy => ?_, fun y hy => ?_⟩
  · simp only [bufRead, hself]
    exact Scratch.leNat_bytesOf_bytesPut ..
  · simp only [bufRead, hself, hx', bytesOf, List.range_one, List.map_cons, List.map_nil, Nat.add_zero]
    rw [Scratch.tabGetD_bytesPut_outside _ _ hy]
  · rw [hu', tabGet_tabMod_ne _ _ hy]

/-! ### Handles (R62) -/

section Handles

variable {s : State} {id : Nat} {j : Job} {o : HForm} (h : Issues s o.t id j 1)

include h

theorem hsub_null (hd : o.d.toNat < 8) (hlow : o.low.toNat < 16) (hx : handleOf j o.low.toNat = none) :
    Traps (.hsub o) s id St.illegalField := by
  have arm : exec (.hsub o) s = execHsub o s := rfl
  exact traps_of_body h arm (by simp [Nat.div_eq_of_lt hd, Nat.div_eq_of_lt hlow]) (by simp) (by simp only [handleOf_begun, hx])

theorem hsub_beyond (hd : o.d.toNat < 8) (hlow : o.low.toNat < 16) {x : Handle} (hx : handleOf j o.low.toNat = some x)
    (hb : x.len < (rd j o.a).toNat + (rd j o.b).toNat) : Traps (.hsub o) s id St.bounds := by
  have arm : exec (.hsub o) s = execHsub o s := rfl
  exact traps_of_body h arm (by simp [Nat.div_eq_of_lt hd, Nat.div_eq_of_lt hlow]) (by simp)
    (by simp only [rd_begun, handleOf_begun, hx, hb, if_true])

theorem hsub_narrows (hd : o.d.toNat < 8) (hlow : o.low.toNat < 16) {x : Handle} (hx : handleOf j o.low.toNat = some x)
    (hb : (rd j o.a).toNat + (rd j o.b).toNat ≤ x.len) : Leaves (.hsub o) s id { begun j with
      pc := j.pc + 1
      h := tabPut j.h o.d.toNat { x with off := x.off + (rd j o.a).toNat, len := (rd j o.b).toNat, rw := x.rw && !bitOf o.low.toNat 3 } } := by
  have arm : exec (.hsub o) s = execHsub o s := rfl
  have hl := leaves_of_body h arm (by simp [Nat.div_eq_of_lt hd, Nat.div_eq_of_lt hlow]) (by simp)
    (by simp only [rd_begun, handleOf_begun, hx, Nat.not_lt.2 hb, if_false]; rfl)
  simp only [setHandle, Nat.mod_eq_of_lt hd] at hl
  exact hl

theorem hlen_completes (ha : o.a = 0) (hb : o.b = 0) (hlow : o.low.toNat < 8) : Completes (.hlen o) s id j 1 o.d
    (BitVec.ofNat 64 (match handleOf j o.low.toNat with | some h => h.len | none => 0)) j.z j.n j.c j.v := by
  have arm : exec (.hlen o) s = execHlen o s := rfl
  exact completes_of_body h arm (by simp [ha, hb, Nat.div_eq_of_lt hlow]) (by simp) rfl

variable (hd : o.d.toNat < 8) (hb : o.b = 0) (hlow : o.low = 0)

include hd hb hlow

theorem hnew_traps (ha : (rd j o.a).toNat = 0 ∨ 8 * 2 ^ 20 < (rd j o.a).toNat) : Traps (.hnew o) s id St.outOfRange := by
  have arm : exec (.hnew o) s = execHnew o s := rfl
  exact traps_of_body h arm (by simp [hb, hlow, Nat.div_eq_of_lt hd]) (by simp) (by simp only [rd_begun]; exact if_pos ha)

variable (ha : 0 < (rd j o.a).toNat) (ha' : (rd j o.a).toNat ≤ 8 * 2 ^ 20)

include ha ha'

theorem hnew_refused (hn : 16 * 2 ^ 20 < j.hnew + (rd j o.a).toNat) :
    Leaves (.hnew o) s id { begun j with pc := j.pc + 1, h := tabDel j.h o.d.toNat, z := false } := by
  have arm : exec (.hnew o) s = execHnew o s := rfl
  have hok : ¬ ((rd j o.a).toNat = 0 ∨ 8388608 < (rd j o.a).toNat) := by omega
  have hl := leaves_of_body h arm (by simp [hb, hlow, Nat.div_eq_of_lt hd]) (by simp)
    (by simp only [rd_begun, hok, if_false]; exact if_pos hn)
  simp only [setHandle, Nat.mod_eq_of_lt hd] at hl
  exact hl

/-- Within 16 MiB the pool supplies a new zeroed buffer, or it does not (log entry 10). -/
theorem hnew_supplied (hn : j.hnew + (rd j o.a).toNat ≤ 16 * 2 ^ 20) :
    Leaves (.hnew o) s id { begun j with pc := j.pc + 1, h := tabDel j.h o.d.toNat, z := false } ∨
    ∃ u k, exec (.hnew o) s = .next u ∧
      tabGet u.buffers k = some { slate := j.slate, len := (rd j o.a).toNat, data := [], inbound := false, arrived := [] } ∧
      jobOf u id = some { begun j with
        pc := j.pc + 1, z := true, hnew := j.hnew + (rd j o.a).toNat, buffers := j.buffers ++ [k]
        h := tabPut j.h o.d.toNat { buf := k, off := 0, len := (rd j o.a).toNat, rw := true, origin := .other } } := by
  have arm : exec (.hnew o) s = execHnew o s := rfl
  have hl : (o.d.toNat / 8 == 0 && o.b == 0 && o.low == 0) = true := by simp [hb, hlow, Nat.div_eq_of_lt hd]
  have hok : ¬ ((rd j o.a).toNat = 0 ∨ 8388608 < (rd j o.a).toNat) := by omega
  have hfit : ¬ 16777216 < (begun j).hnew + (rd j o.a).toNat := Nat.not_lt.2 hn
  by_cases hp : poolSupplies (fetched s o.t id j 1) = true
  · have he := next_of_issue h arm hl (by simp)
    simp only [rd_begun, hok, if_false, hfit, if_false, hp, Bool.not_true, Bool.false_eq_true, if_false, setHandle, Nat.mod_eq_of_lt hd] at he
    refine .inr ⟨_, (fetched s o.t id j 1).nextBuf, he, ?_, ?_⟩
    · rw [sampleAfter_buffers]
      exact tabGet_tabPut_self ..
    · rw [jobOf_sampleAfter, jobOf_finish]
      rfl
  · have hle := leaves_of_body h arm hl (by simp)
      (by simp only [rd_begun, hok, if_false, hfit, if_false]; exact if_pos (by simp [hp]))
    simp only [setHandle, Nat.mod_eq_of_lt hd] at hle
    exact .inl hle

end Handles

/-- Bit 3 of a handle operand, the read-only bit, is clear below 8. -/
theorem not_bitOf_three {n : Nat} (h : n < 16) : (!bitOf n 3) = decide (n < 8) := by
  unfold bitOf
  rcases Nat.lt_or_ge n 8 with h8 | h8
  · simp [h8, Nat.div_eq_of_lt h8]
  · have : n / 8 = 1 := by omega
    simp [this, Nat.not_lt.2 h8]

/-- Settles O14: the buffer accesses by the first check of R61 that fails, the handle instructions one by one. -/
theorem bufferAndHandleEffect : Obligations.BufferAndHandleEffect := by
  unfold Obligations.BufferAndHandleEffect
  constructor
  case left =>
    intro s t id j d a m h hm size n x o
    have hl : bufLegal o = true := by simp [bufLegal, o, Nat.div_eq_of_lt hm]
    have hn : n < 8 := by omega
    have hno : bufHandleNo o.minor = n := Nat.mod_eq_of_lt hn
    have hg : handleOf j (bufHandleNo o.minor) = tabGet j.h n := by rw [hno, handleOf_lt hn]
    refine ⟨fun hx => ?_, fun k hx => ⟨fun hb => ?_, fun hb => ⟨fun hr => ?_, fun ha => ?_, fun ha => ?_⟩⟩⟩
    · rw [hx] at hg
      exact ⟨bget_traps (o := o) h hl hg bufCheck_null, bput_traps (o := o) h hl hg bufCheck_null⟩
    all_goals rw [hx] at hg
    · exact ⟨bget_traps (o := o) h hl hg (bufCheck_beyond hb), bput_traps (o := o) h hl hg (bufCheck_beyond hb)⟩
    · exact bput_traps (o := o) h hl hg ((bufCheck_within hb).trans (if_pos (by simp [hr])))
    · exact ⟨bget_traps (o := o) h hl hg ((bufCheck_within hb).trans (if_pos ha)),
        fun hr => bput_traps (o := o) h hl hg ((bufCheck_within hb).trans ((if_neg (by simp [hr])).trans (if_pos ha)))⟩
    · have hc (write : Bool) (hr : (write && !k.rw) = false) : bufCheck (some k) x size write = none :=
        (bufCheck_within hb).trans ((if_neg (by simp [hr])).trans (if_neg (not_not.2 ha)))
      refine ⟨bget_completes (o := o) h hl hg (hc false rfl), fun hr => ?_⟩
      · have hc := hc true (by simp [hr])
        have he := bput_finishes (o := o) h hl hg hc
        refine ⟨Access.leaves_of_finish he, fun u hu => bufWrite_writes (fetched_buffers s t id j 1) ?_⟩
        rw [Host.Outcome.next.inj (hu.symm.trans he), sampleAfter_buffers]
        rfl
  case right =>
    intro s t id j d a b low h x y
    refine ⟨fun hlow hd => ?hsub, fun hlow => ?hlen, fun hd => ?hnew⟩
    case hsub =>
      have hg : handleOf j low.toNat = tabGet j.h (low.toNat % 8) := rfl
      let o : HForm := { t := t, d := d, a := a, b := b, low := low }
      refine ⟨fun hx => hsub_null (o := o) h hd hlow (hg.trans hx), fun k hx =>
        ⟨hsub_beyond (o := o) h hd hlow (hg.trans hx), fun hb => ?_⟩⟩
      have hle := hsub_narrows (o := o) h hd hlow (hg.trans hx) hb
      rw [not_bitOf_three hlow] at hle
      exact hle
    case hlen =>
      have hle := hlen_completes (o := { t := t, d := d, a := 0, b := 0, low := low }) h rfl rfl hlow
      rw [handleOf_lt hlow] at hle
      exact hle
    case hnew =>
      let o : HForm := { t := t, d := d, a := a, b := 0, low := 0 }
      exact ⟨hnew_traps (o := o) h hd rfl rfl, fun ha ha' => ⟨hnew_refused (o := o) h hd rfl rfl ha ha',
        hnew_supplied (o := o) h hd rfl rfl ha ha'⟩⟩

/-! ### RECV and SEND (R63) -/

section Transfer

variable {s : State} {id : Nat} {j : Job} {o : RForm} (h : Issues s o.t id j 1) (hd : o.d = 0) (hm : o.minor.toNat < 8)

theorem recv_arm (o : RForm) (s : State) : exec (.recv o) s = execRecv o s := rfl

theorem send_arm (o : RForm) (s : State) : exec (.send o) s = execSend o s := rfl

include h hd hm

theorem send_null (hx : handleOf j o.minor.toNat = none) : Traps (.send o) s id St.illegalField :=
  traps_of_body h (send_arm o s) (by simp [hd, Nat.div_eq_of_lt hm]) (by simp) (by simp only [handleOf_begun, hx])

section Held

variable {x : Handle} (hx : handleOf j o.minor.toNat = some x)

include hx

theorem send_origin (ho : x.origin ≠ .h2) : Traps (.send o) s id St.illegalField :=
  traps_of_body h (send_arm o s) (by simp [hd, Nat.div_eq_of_lt hm]) (by simp) (by simp only [handleOf_begun, hx]; exact if_pos ho)

variable (ho : x.origin = .h2)

include ho

theorem send_beyond (hb : x.len < (rd j o.a).toNat + (rd j o.b).toNat) : Traps (.send o) s id St.bounds :=
  traps_of_body h (send_arm o s) (by simp [hd, Nat.div_eq_of_lt hm]) (by simp)
    (by simp only [rd_begun, handleOf_begun, hx, not_not.2 ho, if_false, hb, if_true])

theorem send_goesOn (hb : (rd j o.a).toNat + (rd j o.b).toNat ≤ x.len) :
    Leaves (.send o) s id { begun j with pc := j.pc + 1 } :=
  leaves_of_body h (send_arm o s) (by simp [hd, Nat.div_eq_of_lt hm]) (by simp)
    (by simp only [rd_begun, handleOf_begun, hx, not_not.2 ho, if_false, Nat.not_lt.2 hb, if_false]; rfl)

end Held

variable (hb : o.b = 0)

include hb

omit h in
theorem recv_legal : (o.d == 0 && o.b == 0 && o.minor.toNat / 8 == 0) = true := by simp [hd, hb, Nat.div_eq_of_lt hm]

theorem recv_null (hx : handleOf j o.minor.toNat = none) : Traps (.recv o) s id St.illegalField :=
  traps_of_body h (recv_arm o s) (recv_legal hd hm hb) (by simp) (by simp only [handleOf_begun, hx])

variable {x : Handle} (hx : handleOf j o.minor.toNat = some x)

include hx

theorem recv_beyond (hr : x.len < (rd j o.a).toNat) : Traps (.recv o) s id St.bounds :=
  traps_of_body h (recv_arm o s) (recv_legal hd hm hb) (by simp) (by simp only [rd_begun, handleOf_begun, hx, hr, if_true])

variable (hr : (rd j o.a).toNat ≤ x.len)

include hr

theorem recv_goesOn (hg : x.origin ≠ .h1 ∨ arrived s x.buf x.off (x.off + (rd j o.a).toNat) = true) :
    Leaves (.recv o) s id { begun j with pc := j.pc + 1 } := by
  have ha := arrived_congr (fetched_buffers s o.t id j 1) x.buf x.off (x.off + (rd j o.a).toNat)
  exact leaves_of_body h (recv_arm o s) (recv_legal hd hm hb) (by simp)
    (by simp only [rd_begun, handleOf_begun, hx, Nat.not_lt.2 hr, if_false, ha, hg, if_true]; rfl)

theorem recv_suspends (hk : isHk j = false) (ho : x.origin = .h1) (hw : arrived s x.buf x.off (x.off + (rd j o.a).toNat) = false) :
    ∃ u, exec (.recv o) s = .next u ∧ jobOn u o.t = none ∧
      jobOf u id = some (suspended j (.payload x.buf x.off (x.off + (rd j o.a).toNat)) 0) := by
  have ha := arrived_congr (fetched_buffers s o.t id j 1) x.buf x.off (x.off + (rd j o.a).toNat)
  have hg : ¬ (x.origin ≠ .h1 ∨ arrived s x.buf x.off (x.off + (rd j o.a).toNat) = true) := by simp [ho, hw]
  exact suspends_of_body h (recv_arm o s) (recv_legal hd hm hb) (by simp) hk
    (by simp only [rd_begun, handleOf_begun, hx, Nat.not_lt.2 hr, ha, hg, if_false]; rfl)

end Transfer

/-- Settles O15, by the handle and its origin. -/
theorem payloadEffect : Obligations.PayloadEffect := by
  unfold Obligations.PayloadEffect
  intro s t id j a b m h hm x y recv send
  have hg := handleOf_lt hm j
  let o : RForm := { t := t, d := 0, a := a, b := 0, minor := m }
  let o' : RForm := { t := t, d := 0, a := a, b := b, minor := m }
  refine ⟨fun hx => ?_, fun k hx => ⟨?_, ?_, ?_, ?_, ?_, ?_⟩⟩
  all_goals rw [hx] at hg
  · exact ⟨recv_null (o := o) h rfl hm rfl hg, send_null (o := o') h rfl hm hg⟩
  · exact recv_beyond (o := o) h rfl hm rfl hg
  · exact recv_goesOn (o := o) h rfl hm rfl hg
  · intro hr ho hw hk
    obtain ⟨u, he, hf, hj⟩ := recv_suspends (o := o) h rfl hm rfl hg hr hk ho hw
    exact ⟨u, _, he, hj, hf, rfl⟩
  · exact send_origin (o := o') h rfl hm hg
  · exact send_beyond (o := o') h rfl hm hg
  · exact send_goesOn (o := o') h rfl hm hg

end Sys2Proof.Payload
end

section
/-! What counting, caching, sampling and reporting leave alone (R84, R273 to R282, R329 to R337).

`still s` is the state without the parts those may move; each operation of theirs keeps it, and with it every queue, table of jobs,
time and program. -/

namespace Sys2Proof.Stillness

open Sys2Proof Sys2Proof.Machine Sys2Proof.Reporting

/-- The state without control space, device memory, caches, samples, free values, and what a report moves. -/
def still (s : State) : State :=
  { steady s with
    hbm := [], poison := [], sampling := [], fresh := 0, scLines := [], victim := [], scLfsr := [], dcLines := [], dcTree := []
    icLines := [], icTree := [] }

/-! ### Parts that are kept -/

section Parts

variable {s t : State} (h : still t = still s)

include h

theorem tb_of_still : t.tb = s.tb := (congrArg State.tb h :)
theorem n_of_still : t.n = s.n := (congrArg State.n h :)
theorem lost_of_still : t.lost = s.lost := (congrArg State.lost h :)
theorem mod_of_still : t.mod = s.mod := (congrArg State.mod h :)
theorem ptrs_of_still : t.ptrs = s.ptrs := (congrArg State.ptrs h :)
theorem jobs_of_still : t.jobs = s.jobs := (congrArg State.jobs h :)
theorem nextJob_of_still : t.nextJob = s.nextJob := (congrArg State.nextJob h :)
theorem threads_of_still : t.threads = s.threads := (congrArg State.threads h :)
theorem resumeQ_of_still : t.resumeQ = s.resumeQ := (congrArg State.resumeQ h :)
theorem dispatchQ_of_still : t.dispatchQ = s.dispatchQ := (congrArg State.dispatchQ h :)
theorem hkRestart_of_still : t.hkRestart = s.hkRestart := (congrArg State.hkRestart h :)
theorem queues_of_still : t.queues = s.queues := (congrArg State.queues h :)
theorem slots_of_still : t.slots = s.slots := (congrArg State.slots h :)
theorem progs_of_still : t.progs = s.progs := (congrArg State.progs h :)
theorem power_of_still : t.power = s.power := (congrArg State.power h :)

theorem now_of_still (sl : Nat) : now t sl = now s sl := by simp only [now, tb_of_still h]

theorem serving_of_still (sl : Nat) : serving t sl = serving s sl :=
  serving_congr (mod_of_still h) (n_of_still h) (lost_of_still h) sl

end Parts

/-! ### Folds and reports -/

theorem still_of_reports {s t : State} (h : Reports s t) : still t = still s :=
  congrArg (fun u : State => { u with
    hbm := [], poison := [], sampling := [], fresh := 0, scLines := [], victim := [], scLfsr := [], dcLines := [], dcTree := []
    icLines := [], icTree := [] }) h.steady

theorem still_foldl {α : Type} {f : State → α → State} (l : List α) (s : State) (h : ∀ s a, still (f s a) = still s) :
    still (l.foldl f s) = still s := by
  induction l generalizing s with
  | nil => rfl
  | cons a l ih => exact (ih _).trans (h s a)

theorem still_ite {c : Prop} [Decidable c] {s a b : State} (ha : still a = still s) (hb : still b = still s) :
    still (if c then a else b) = still s := by
  split
  · exact ha
  · exact hb

/-! ### Updates of one part -/

@[simp] theorem still_setF (s : State) (sl : Nat) (f : Fld) (v : Nat) : still (setF s sl f v) = still s := rfl
@[simp] theorem still_bump (s : State) (sl : Nat) (f : Fld) (k : Nat) : still (bump s sl f k) = still s := rfl
@[simp] theorem still_bumpSat (s : State) (sl : Nat) (f : Fld) (k : Nat) : still (bumpSat s sl f k) = still s := rfl
@[simp] theorem still_takeFree (s : State) : still (takeFree s) = still s := rfl
@[simp] theorem still_hbmWrite (s : State) (a : Nat) (b : Block) : still (hbmWrite s a b) = still s := rfl
@[simp] theorem still_putSampling (s : State) (sl : Nat) (x : Sampling) : still (putSampling s sl x) = still s := rfl
@[simp] theorem still_snoop (s : State) (mask line : Nat) (but : Option Nat) : still (snoop s mask line but) = still s := rfl

/-! ### Events and counters -/

@[simp] theorem still_raise (s : State) (sl : Nat) {e : Nat} (h : e < 2048) : still (raise s sl e) = still s :=
  still_of_reports (raise_reports s sl h)

@[simp] theorem still_detect (s : State) (sl : Nat) {e : Nat} (h : e < 2048) (d : List Word) : still (detect s sl e d) = still s :=
  still_of_reports (detect_reports s sl h d)

@[simp] theorem still_addCounter (s : State) (sl k inc : Nat) : still (addCounter s sl k inc) = still s := by
  unfold addCounter
  extract_lets v u
  have hu : still u = still s := still_setF ..
  clear_value u
  split
  · exact (still_raise _ sl (by decide)).trans ((still_setF ..).trans hu)
  · exact hu

@[simp] theorem still_countSrc (s : State) (sl src v : Nat) : still (countSrc s sl src v) = still s :=
  still_ite rfl (still_foldl _ s fun _ _ => still_ite (still_addCounter ..) rfl)

@[simp] theorem still_countIcMiss (s : State) (sl : Nat) (miss : Bool) : still (countIcMiss s sl miss) = still s :=
  still_foldl _ s fun _ _ => still_ite (still_addCounter ..) rfl

@[simp] theorem still_countStall (s : State) (sl : Nat) (w : InsnWord) : still (countStall s sl w) = still s :=
  still_ite (still_countSrc ..) rfl

@[simp] theorem still_countInsn (s : State) (sl : Nat) (hk : Bool) : still (countInsn s sl hk) = still s :=
  still_ite (still_countSrc ..) (still_countSrc ..)

/-! ### Caches -/

@[simp] theorem still_victimDrain (s : State) (sl : Nat) : still (victimDrain s sl) = still s := by
  unfold victimDrain
  split
  · rfl
  · exact still_countSrc s sl srcHbmLines 1

@[simp] theorem still_toVictim (s : State) (sl : Nat) (l : Line) : still (toVictim s sl l) = still s := by
  unfold toVictim
  extract_lets u
  exact show still u = still s from still_ite (still_victimDrain s sl) rfl

theorem still_scLines (s : State) (x : Tab Line) : still { s with scLines := x } = still s := rfl

@[simp] theorem still_scEvict (s : State) (sl set way : Nat) : still (scEvict s sl set way) = still s := by
  unfold scEvict
  split
  · rfl
  · dsimp only
    split
    · rw [still_toVictim, still_scLines, still_snoop]
    · rw [still_scLines, still_snoop]

@[simp] theorem still_scRoom (s : State) (sl set : Nat) : still (scRoom s sl set).1 = still s := by
  unfold scRoom
  split
  · rfl
  · exact still_scEvict ..

@[simp] theorem still_homeAccess (s : State) (sl x : Nat) (write : Bool) (src but : Option Nat) :
    still (homeAccess s sl x write src but) = still s := by
  simp only [homeAccess]
  repeat' split
  all_goals simp only [still_scLines, still_countSrc, still_snoop, still_scRoom]

@[simp] theorem still_dcTouch (s : State) (sl e set w : Nat) : still (dcTouch s sl e set w) = still s := rfl

@[simp] theorem still_engineRead (s : State) (sl e a : Nat) : still (engineRead s sl e a) = still s := by
  have fill (t : State) (x : Tab Nat) : still { t with dcLines := x } = still t := rfl
  simp only [engineRead]
  repeat' split
  all_goals simp only [fill, still_dcTouch, still_homeAccess, still_countSrc]

@[simp] theorem still_engineWrite (s : State) (sl e a : Nat) : still (engineWrite s sl e a) = still s := by
  simp only [engineWrite]
  split
  all_goals simp only [still_dcTouch, still_homeAccess]

@[simp] theorem still_icFetch (s : State) (sl e prog w : Nat) (look : Bool) : still (icFetch s sl e prog w look) = still s := by
  unfold icFetch
  split
  · rfl
  · exact still_countIcMiss s sl _

@[simp] theorem still_homeWrite (s : State) (a : Nat) (b : Block) : still (homeWrite s a b) = still s :=
  (still_foldl _ _ fun _ _ => still_homeAccess ..).trans (still_hbmWrite s a b)

/-! ### Samples and the beginning of an instruction -/

@[simp] theorem still_ringPut (s : State) (sl : Nat) (r : Ring) {half : Nat} (h : half < 2048) (b : Block) :
    still (ringPut s sl r half b) = still s := by
  unfold ringPut
  extract_lets a u
  have hu : still u = still s := (still_bump ..).trans (still_homeWrite ..)
  clear_value u
  exact still_ite ((still_raise _ sl h).trans hu) hu

@[simp] theorem still_settleSample (s : State) (sl job outcome status slot : Nat) (keep hk : Bool) (jid : Word) :
    still (settleSample s sl job outcome status slot keep hk jid) = still s := by
  unfold settleSample
  extract_lets x
  split
  · rfl
  extract_lets b u
  have hu : still u = still s := (still_putSampling ..).trans (still_takeFree s)
  clear_value b u
  split
  · exact (still_detect _ sl (by decide) _).trans hu
  split
  · exact (still_detect _ sl (by decide) _).trans ((still_bump ..).trans hu)
  · exact (still_ringPut _ sl _ (by decide) _).trans hu

@[simp] theorem still_sampleAfter (s : State) (id : Nat) : still (sampleAfter s id) = still s := by
  unfold sampleAfter
  split
  · rfl
  extract_lets x
  split
  · rfl
  split
  · exact still_settleSample ..
  · exact still_ite (still_settleSample ..) rfl

@[simp] theorem still_fetchWords (s : State) (t : Thread) (j : Job) (len : Nat) : still (fetchWords s t j len) = still s := by
  unfold fetchWords
  extract_lets e u v
  have hu : still u = still s := still_icFetch ..
  have hv : still v = still s := still_ite hu ((still_icFetch ..).trans hu)
  clear_value u v
  split
  · exact (still_countStall ..).trans hv
  · exact hv

/-- An instruction's beginning moves its job and the issue arbiter, beside what is not still. -/
theorem still_fetched (s : State) (t : Thread) (id : Nat) (j : Job) (len : Nat) :
    still (fetched s t id j len) = still (putJob (Issuing.chosen s t) id (begun j)) :=
  (still_fetchWords ..).trans (still_countInsn ..)

@[simp] theorem now_fetched (s : State) (t : Thread) (id : Nat) (j : Job) (len sl : Nat) : now (fetched s t id j len) sl = now s sl :=
  now_of_still (still_fetched s t id j len) sl

end Sys2Proof.Stillness
end

section
/-! What an instruction's beginning moves on a slate that counts and samples nothing: its job, the issue arbiter and its engine's
instruction cache (R42, R273, R327, R336). -/

namespace Sys2Proof.Issuing

open Sys2Proof Sys2Proof.Machine Sys2Proof.Access

/-- `u` is `s` but for the instruction caches. -/
def CacheOnly (s u : State) : Prop := u = { s with icLines := u.icLines, icTree := u.icTree }

theorem CacheOnly.refl (s : State) : CacheOnly s s := rfl

theorem CacheOnly.trans {s u v : State} (h : CacheOnly s u) (h' : CacheOnly u v) : CacheOnly s v := by
  unfold CacheOnly at h h' ⊢
  rw [h] at h'
  exact h'

theorem CacheOnly.ptrs {s u : State} (h : CacheOnly s u) : u.ptrs = s.ptrs := (congrArg State.ptrs h :)

theorem CacheOnly.evPend {s u : State} (h : CacheOnly s u) : u.evPend = s.evPend := (congrArg State.evPend h :)

theorem icFetch_cacheOnly {s : State} {sl : Nat} (h : Uncounted s sl) (e prog w : Nat) (look : Bool) :
    CacheOnly s (icFetch s sl e prog w look) := by
  unfold CacheOnly
  simp only [icFetch, countIcMiss_uncounted h]
  split <;> rfl

theorem fetchWords_cacheOnly {s : State} {t : Thread} (h : Uncounted s t.slate) (j : Job) (len : Nat) :
    CacheOnly s (fetchWords s t j len) := by
  obtain ⟨-, -, h1⟩ := icFetch_uncounted h (t.idx / 4) j.prog j.pc true
  have c1 := icFetch_cacheOnly h (t.idx / 4) j.prog j.pc true
  obtain ⟨-, -, h2⟩ := icFetch_uncounted h1 (t.idx / 4) j.prog (j.pc + 1) (icLine j.prog (j.pc + 1) != icLine j.prog j.pc)
  have c2 := icFetch_cacheOnly h1 (t.idx / 4) j.prog (j.pc + 1) (icLine j.prog (j.pc + 1) != icLine j.prog j.pc)
  unfold fetchWords
  extract_lets e u v
  have hv : CacheOnly s v ∧ Uncounted v t.slate := by
    by_cases hl : len = 1
    · simp only [v, if_pos hl]
      exact ⟨c1, h1⟩
    · simp only [v, if_neg hl]
      exact ⟨c1.trans c2, h2⟩
  split
  · rw [countStall_uncounted hv.2]
    exact hv.1
  · exact hv.1

section Fetched

variable {s : State} {t : Thread} {id : Nat} {j : Job} {len : Nat} (hj : j.slate = t.slate) (hu : Uncounted s t.slate)

include hj hu

theorem fetched_cacheOnly : CacheOnly (putJob (chosen s t) id (begun j)) (fetched s t id j len) := by
  unfold fetched
  rw [issued_uncounted hj hu]
  have hp : Uncounted (putJob (chosen s t) id (begun j)) t.slate := uncounted_congr (s := s) (by simp) (by simp [granted]) (by simp [granted]) hu
  exact fetchWords_cacheOnly hp (begun j) len

theorem fetched_ptrs : (fetched s t id j len).ptrs = (chosen s t).ptrs := (fetched_cacheOnly hj hu).ptrs

theorem fetched_evPend : (fetched s t id j len).evPend = s.evPend := (fetched_cacheOnly hj hu).evPend

theorem getF_fetched (sl : Nat) (f : Fld) : getF (fetched s t id j len) sl f = getF s sl f :=
  getF_congr (fetched_ctl hj hu) (fetched_n s t id j len) sl f

end Fetched

/-- An instruction on a slate that samples nothing leaves no sample. -/
theorem sampleAfter_uncounted {s u : State} {sl id : Nat} {j : Job} (hu : Uncounted s sl) (hs : u.sampling = s.sampling)
    (hj : jobOf u id = some j) (hsl : j.slate = sl) : sampleAfter u id = u := by
  refine sampleAfter_untagged hj ?_
  have ht := hu.tags
  simpa [samplingOf, hs, hsl] using ht

theorem sampleAfter_finish_uncounted {s u : State} {sl id len : Nat} {j : Job} (hu : Uncounted s sl) (hs : u.sampling = s.sampling)
    (hsl : j.slate = sl) : sampleAfter (finish u id j len) id = finish u id j len :=
  sampleAfter_uncounted hu hs (jobOf_finish u id j len) hsl

end Sys2Proof.Issuing
end

section
/-! Events, counters and state as instructions read and raise them: EVW, EVS, PMC and GETS (R39, R71, R72, R75, R76). -/

namespace Sys2Proof.Selectors

open Sys2Proof Sys2Proof.Machine Sys2Proof.Access Sys2Proof.Issuing Sys2Proof.Stillness Sys2Proof.Reporting

/-! ### The event a housekeeping thread's pointer chooses (R39) -/

theorem evwPick_congr {s u : State} {sl n : Nat} (hp : tabGetD u.ptrs (ptrEvent sl n) 0 = tabGetD s.ptrs (ptrEvent sl n) 0)
    (hc : u.ctl = s.ctl) (hn : u.n = s.n) (he : u.evPend = s.evPend) : evwPick u sl n = evwPick s sl n := by
  simp only [evwPick, occOf, hp, he, isF_congr hc hn]

theorem variant_le {s : State} (h : Variant s) : s.n ≤ 8 := by
  unfold Variant at h
  omega

theorem slate_lt_of_serving {s : State} {sl : Nat} (h : serving s sl = true) : sl < s.n := by
  simp [serving] at h
  exact h.1.2

/-- The issue arbiters stand below the event arbiters (R42). -/
theorem ptrIssue_ne_ptrEvent {sl sl' i n : Nat} (hsl : sl < 8) (hi : i < 192) : ptrEvent sl' n ≠ ptrIssue sl (i / 4) := by
  unfold ptrEvent ptrIssue
  omega

theorem evwPick_fetched {s : State} {t : Thread} {id : Nat} {j : Job} (hv : Variant s) (ht : t.idx < 192) (h : Issues s t id j 1)
    (hu : Uncounted s t.slate) (sl n : Nat) : evwPick (fetched s t id j 1) sl n = evwPick s sl n := by
  refine evwPick_congr ?_ (fetched_ctl h.slate hu) (fetched_n s t id j 1) (fetched_evPend h.slate hu)
  rw [fetched_ptrs h.slate hu]
  exact tabGetD_tabSet_ne _ _ _ _ (ptrIssue_ne_ptrEvent ((slate_lt_of_serving h.serves).trans_le (variant_le hv)) ht)

theorem evwPick_lt {s : State} {sl n e : Nat} (h : evwPick s sl n = some e) : e < 2048 := by
  have hm := List.mem_of_find?_eq_some h
  simp only [List.mem_map, List.mem_range] at hm
  obtain ⟨i, -, rfl⟩ := hm
  exact Nat.mod_lt _ (by decide)

theorem evwReturn_ctl (s : State) (sl n e id : Nat) : (evwReturn s sl n e id).ctl = (setF (granted s (ptrEvent sl n) e 2048) sl (fPend e) 0).ctl ∧
    (evwReturn s sl n e id).n = (setF (granted s (ptrEvent sl n) e 2048) sl (fPend e) 0).n := by
  unfold evwReturn releaseHold
  constructor <;> dsimp only

theorem evwReturn_sampling (s : State) (sl n e id : Nat) : (evwReturn s sl n e id).sampling = s.sampling := by
  unfold evwReturn releaseHold granted
  dsimp only
  exact setF_sampling ..

/-- The event a thread returns is pending no longer. -/
theorem evwReturn_clears (s : State) (sl n id : Nat) {e : Nat} (he : e < 2048) : isF (evwReturn s sl n e id) sl (fPend e) = false := by
  obtain ⟨-, -, hw⟩ := fPend_inSpace he
  obtain ⟨hc, hn⟩ := evwReturn_ctl s sl n e id
  rw [isF, getF_congr hc hn, getF_setF_self _ _ _ _ hw]
  simp

/-! ### EVW (R71) -/

section Evw

variable {s : State} {id : Nat} {j : Job} {o : RForm} (h : Issues s o.t id j 1) (hl : (o.b == 0 && o.minor == 0) = true)

theorem evw_arm (o : RForm) (s : State) : exec (.evw o) s = execEvw o s := rfl

include h hl

theorem evw_rights (hk : j.keep = false) : Traps (.evw o) s id St.rights := traps_of_privilege h (evw_arm o s) hl hk

variable (hk : j.keep = true)

include hk

/-- What EVW runs on a job thread. -/
theorem evw_onJob (hj : isHk j = false) : exec (.evw o) s = .next (sampleAfter
    (if (rd j o.a).toNat = 0 then finish (fetched s o.t id j 1) id (wr (begun j) o.d evwExpired) 1
      else suspendJob (fetched s o.t id j 1) id (begun j)
        (.event (if (rd j o.a).toNat = 0 then none else some (now s j.slate + (rd j o.a).toNat))) o.d) id) := by
  rw [next_of_issue h (evw_arm o s) hl fun _ => hk]
  simp only [rd_begun, now_fetched, show (begun j).slate = j.slate from rfl, show (begun j).kind = j.kind from rfl]
  split
  next n hn => simp [isHk, hn] at hj
  next => rfl

theorem evw_expires (hj : isHk j = false) (hx : (rd j o.a).toNat = 0) :
    Completes (.evw o) s id j 1 o.d (BitVec.allOnes 64) j.z j.n j.c j.v := by
  have he := evw_onJob h hl hk hj
  rw [if_pos hx] at he
  exact completes_of_finish he

theorem evw_waits (hj : isHk j = false) (hx : (rd j o.a).toNat ≠ 0) : ∃ u, exec (.evw o) s = .next u ∧ jobOn u o.t = none ∧
    jobOf u id = some (suspended j (.event (some (now s j.slate + (rd j o.a).toNat))) o.d) := by
  have he := evw_onJob h hl hk hj
  rw [if_neg hx, if_neg hx] at he
  exact ⟨_, he, by rw [jobOn_sampleAfter, jobOn_suspendJob h hj], by rw [jobOf_sampleAfter, jobOf_suspendJob _ hj]⟩

variable {n : Nat} (hn : j.kind = .housekeeping n) (hv : Variant s) (ht : o.t.idx < 192) (hu : Uncounted s o.t.slate)

include hn hv ht hu

theorem evw_returns {e : Nat} (he : evwPick s j.slate n = some e) : exec (.evw o) s = .next
    (finish (evwReturn (fetched s o.t id j 1) j.slate n e id) id (wr (begun j) o.d (BitVec.ofNat 64 e)) 1) := by
  have hp := (evwPick_fetched hv ht h hu j.slate n).trans he
  rw [next_of_issue h (evw_arm o s) hl fun _ => hk]
  simp only [show (begun j).kind = j.kind from rfl, hn, show (begun j).slate = j.slate from rfl, hp]
  have hs := (evwReturn_sampling (fetched s o.t id j 1) j.slate n e id).trans (fetched_sampling h.slate hu)
  have hw : (wr (begun j) o.d (BitVec.ofNat 64 e)).slate = o.t.slate := by
    rw [wr_eq]
    exact h.slate
  rw [sampleAfter_finish_uncounted hu hs hw]

theorem evw_staysWaiting (he : evwPick s j.slate n = none) : ∃ u, exec (.evw o) s = .next u ∧ jobOn u o.t = some id ∧
    jobOf u id = some { begun j with
      pc := j.pc + 1, dst := o.d
      wait := .event (if (rd j o.a).toNat = 0 then none else some (now s j.slate + (rd j o.a).toNat)) } := by
  have hp := (evwPick_fetched hv ht h hu j.slate n).trans he
  have hx := next_of_issue h (evw_arm o s) hl fun _ => hk
  simp only [show (begun j).kind = j.kind from rfl, hn, show (begun j).slate = j.slate from rfl, hp, rd_begun, now_fetched] at hx
  have hhk (w : Wait) : isHk { begun j with pc := (begun j).pc + 1, wait := w, dst := o.d } = true := by
    simp [isHk, show (begun j).kind = j.kind from rfl, hn]
  refine ⟨_, hx, ?_, ?_⟩
  · rw [jobOn_sampleAfter, suspendJob, if_pos (hhk _)]
    exact (jobOn_congr (fetched_threads s o.t id j 1) o.t).trans h.onThread
  · rw [jobOf_sampleAfter, suspendJob, if_pos (hhk _), jobOf_putJob_self]
    rfl

end Evw

/-! ### EVS (R41, R72) -/

section Evs

variable {s : State} {id : Nat} {j : Job} {o : IForm} (h : Issues s o.t id j 1)
  (hl : (o.d == 0 && o.a == 0 && o.imm.toNat / 64 == 0) = true)

theorem evs_arm (o : IForm) (s : State) : exec (.evs o) s = execEvs o s := rfl

include h hl

theorem evs_illegal (hk : j.keep = true) (hs : o.imm.toNat % 64 < 0x20) : Traps (.evs o) s id St.illegalField :=
  traps_of_body h (evs_arm o s) hl (by simp) (if_pos (by simp [begun, hk, hs]))

theorem evs_rights (hk : j.keep = false) (hs : o.imm.toNat % 64 < 0x30) : Traps (.evs o) s id St.rights :=
  traps_of_body h (evs_arm o s) hl (by simp) ((if_neg (by simp [begun, hk])).trans (if_pos (by simp [begun, hk, hs])))

theorem evs_raises (hs : (if j.keep then 0x20 else 0x30) ≤ o.imm.toNat % 64) : exec (.evs o) s = .next (sampleAfter
    (finish (raise (fetched s o.t id j 1) j.slate (eventNo 2 (o.imm.toNat % 64))) id (begun j) 1) id) := by
  have hk : ¬ (j.keep && decide (o.imm.toNat % 64 < 0x20)) = true ∧ ¬ (!j.keep && decide (o.imm.toNat % 64 < 0x30)) = true := by
    cases hk : j.keep <;> simp [hk] at hs ⊢ <;> omega
  rw [next_of_issue h (evs_arm o s) hl (by simp)]
  simp only [show (begun j).keep = j.keep from rfl, if_neg hk.1, if_neg hk.2]
  rfl

/-- EVS sets the PEND bit of its source. -/
theorem evs_pending (hu : Uncounted s o.t.slate) (hs : (if j.keep then 0x20 else 0x30) ≤ o.imm.toNat % 64) {u : State}
    (he : exec (.evs o) s = .next u) : Pending u j.slate (eventNo 2 (o.imm.toNat % 64)) := by
  have hlt : eventNo 2 (o.imm.toNat % 64) < 2048 := by
    have := Nat.mod_lt o.imm.toNat (show 0 < 64 by decide)
    unfold eventNo
    omega
  have hr := raise_reports (fetched s o.t id j 1) j.slate hlt
  have hsamp : (raise (fetched s o.t id j 1) j.slate (eventNo 2 (o.imm.toNat % 64))).sampling = s.sampling :=
    (congrArg State.sampling hr.steady :).trans (fetched_sampling h.slate hu)
  have hx := evs_raises h hl hs
  rw [sampleAfter_finish_uncounted (j := begun j) hu hsamp h.slate] at hx
  rw [Host.Outcome.next.inj (he.symm.trans hx)]
  have hp := raise_pending (fetched s o.t id j 1) j.slate hlt
  unfold Pending at hp ⊢
  rwa [finish, isF, getF_putJob]

end Evs

/-- Settles O21: EVW by its thread and its pointer's choice, EVS by its job's privilege. -/
theorem eventInstructions : Obligations.EventInstructions := by
  unfold Obligations.EventInstructions
  intro s t id j d a imm hv ht h hu x evw evs
  let o : RForm := { t := t, d := d, a := a, b := 0, minor := 0 }
  let i : IForm := { t := t, d := 0, a := 0, imm := imm }
  refine ⟨evw_rights (o := o) h rfl, fun hk hj => ⟨fun hx => ?_, fun hx => ?_⟩, fun n hk hn => ⟨fun e he => ⟨?_, fun u hx => ?_⟩, fun he => ?_⟩,
    fun hi => ?_⟩
  · exact evw_expires (o := o) h rfl hk hj hx
  · obtain ⟨u, he, hon, hof⟩ := evw_waits (o := o) h rfl hk hj hx
    exact ⟨u, he, hon, hof⟩
  · obtain he' := evw_returns (o := o) h rfl hk hn hv ht hu he
    refine ⟨_, _, he', jobOf_finish .., fun x => rd_wr (begun j) d x _, ?_⟩
    rw [wr_eq]
    rfl
  · rw [Host.Outcome.next.inj (hx.symm.trans (evw_returns (o := o) h rfl hk hn hv ht hu he)), isF, finish, getF_putJob]
    exact evwReturn_clears _ _ _ _ (evwPick_lt he)
  · exact evw_staysWaiting (o := o) h rfl hk hn hv ht hu he
  · have hl : (i.d == 0 && i.a == 0 && i.imm.toNat / 64 == 0) = true := by simp [i, Nat.div_eq_of_lt hi]
    have hmod : i.imm.toNat % 64 = imm.toNat := Nat.mod_eq_of_lt hi
    refine ⟨fun hk hs => evs_illegal h hl hk (hmod.trans_lt hs), fun hk hs => evs_rights h hl hk (hmod.trans_lt hs), fun hs => ⟨?_, fun _ u hx => ?_⟩⟩
    · exact leaves_of_finish (evs_raises h hl (hs.trans_eq hmod.symm))
    · have hp := evs_pending h hl hu (hs.trans_eq hmod.symm) hx
      rw [hmod, show eventNo 2 imm.toNat = 128 + imm.toNat from rfl] at hp
      exact hp

/-! ### PMC (R75) -/

section Pmc

variable {s : State} {id : Nat} {j : Job} {o : RForm} (h : Issues s o.t id j 1) (hl : (o.b == 0 && o.minor == 0) = true)

theorem pmc_arm (o : RForm) (s : State) : exec (.pmc o) s = execPmc o s := rfl

include h hl

/-- What PMC runs. -/
theorem pmc_runs : exec (.pmc o) s = .next (sampleAfter
    (if 65536 ≤ (rd j o.a).toNat then finish (fetched s o.t id j 1) id (wr (begun j) o.d 0) 1
      else if (rd j o.a).toNat = 0 then finish (fetched s o.t id j 1) id (wr (begun j) o.d (BitVec.ofNat 64 (j.executed + 1))) 1
      else if (rd j o.a).toNat = 1 ∨ (rd j o.a).toNat = 2 then
        finish (takeFree (fetched s o.t id j 1)) id (wr (begun j) o.d (freeVal (fetched s o.t id j 1))) 1
      else if (rd j o.a).toNat = 3 then finish (fetched s o.t id j 1) id (wr (begun j) o.d (BitVec.ofNat 64 j.suspends)) 1
      else if 0x1000 ≤ (rd j o.a).toNat ∧ (rd j o.a).toNat ≤ 0x100F then
        if j.keep then
          finish (fetched s o.t id j 1) id (wr (begun j) o.d (pmcCounter (fetched s o.t id j 1) j.slate ((rd j o.a).toNat - 0x1000))) 1
        else trapJob (fetched s o.t id j 1) id St.rights
      else finish (fetched s o.t id j 1) id (wr (begun j) o.d 0) 1) id) :=
  next_of_issue h (pmc_arm o s) hl (by simp)

theorem pmc_executed (hx : (rd j o.a).toNat = 0) :
    Completes (.pmc o) s id j 1 o.d (BitVec.ofNat 64 (j.executed + 1)) j.z j.n j.c j.v := by
  have he := pmc_runs h hl
  simp only [hx] at he
  exact completes_of_finish he

theorem pmc_suspends (hx : (rd j o.a).toNat = 3) : Completes (.pmc o) s id j 1 o.d (BitVec.ofNat 64 j.suspends) j.z j.n j.c j.v := by
  have he := pmc_runs h hl
  simp only [hx] at he
  exact completes_of_finish he

/-- The counts of cycles are free values (log entry 8). -/
theorem pmc_cycles (hx : (rd j o.a).toNat = 1 ∨ (rd j o.a).toNat = 2) :
    Completes (.pmc o) s id j 1 o.d (freeVal (fetched s o.t id j 1)) j.z j.n j.c j.v := by
  have he := pmc_runs h hl
  rw [if_neg (by omega), if_neg (by omega), if_pos hx] at he
  exact completes_of_finish he

theorem pmc_elsewhere (hx : 3 < (rd j o.a).toNat) (hy : (rd j o.a).toNat < 0x1000 ∨ 0x100F < (rd j o.a).toNat) :
    Completes (.pmc o) s id j 1 o.d 0 j.z j.n j.c j.v := by
  have he := pmc_runs h hl
  rw [if_neg (c := _ = 0) (by omega), if_neg (c := _ = 1 ∨ _) (by omega), if_neg (c := _ = 3) (by omega),
    if_neg (c := _ ∧ _) (by omega), ite_self] at he
  exact completes_of_finish he

section Counter

variable {k : Nat} (hk : k < 16) (hx : (rd j o.a).toNat = 0x1000 + k)

include hk hx

theorem pmc_runs_counter : exec (.pmc o) s = .next (sampleAfter
    (if j.keep then finish (fetched s o.t id j 1) id (wr (begun j) o.d (pmcCounter (fetched s o.t id j 1) j.slate k)) 1
      else trapJob (fetched s o.t id j 1) id St.rights) id) := by
  have he := pmc_runs h hl
  rw [if_neg (by omega), if_neg (by omega), if_neg (by omega), if_neg (by omega), if_pos (by omega), hx, Nat.add_sub_cancel_left] at he
  exact he

theorem pmc_counter_rights (hp : j.keep = false) : Traps (.pmc o) s id St.rights := by
  have he := pmc_runs_counter h hl hk hx
  rw [if_neg (by simp [hp])] at he
  exact traps_of_trapJob (jobOf_fetched s o.t id j 1) he

theorem pmc_counter (hp : j.keep = true) (hu : Uncounted s o.t.slate) :
    Completes (.pmc o) s id j 1 o.d (pmcCounter s j.slate k) j.z j.n j.c j.v := by
  have he := pmc_runs_counter h hl hk hx
  rw [if_pos hp, show pmcCounter (fetched s o.t id j 1) j.slate k = pmcCounter s j.slate k by
    simp only [pmcCounter, getF_fetched h.slate hu]] at he
  exact completes_of_finish he

end Counter

end Pmc

/-! ### GETS (R76) -/

section Gets

variable {s : State} {id : Nat} {j : Job} {o : IForm} (h : Issues s o.t id j 1)

theorem gets_arm (o : IForm) (s : State) : exec (.gets o) s = execGets o s := rfl

include h

theorem gets_gives (ha : o.a = 0) (hs : o.imm.toNat ≤ 6) :
    Completes (.gets o) s id j 1 o.d (getsValue (fetched s o.t id j 1) (begun j) o.imm.toNat) j.z j.n j.c j.v :=
  completes_of_body h (gets_arm o s) (by simp [ha, hs]) (by simp) rfl

theorem gets_illegal (hs : 6 < o.imm.toNat) : Traps (.gets o) s id St.illegalField :=
  traps_of_illegal h (gets_arm o s) (by simp [hs])

end Gets

/-- Settles O22, selector by selector. -/
theorem countersAndState : Obligations.CountersAndState := by
  unfold Obligations.CountersAndState
  intro s t id j d a sel h hu x pmc gives b gets
  let o : RForm := { t := t, d := d, a := a, b := 0, minor := 0 }
  have read (v : BitVec 16) (w : Word) (hv : v.toNat ≤ 6) (hw : getsValue (fetched s t id j 1) (begun j) v.toNat = w) (hs : sel = v) :
      gives gets w := by
    subst hs hw
    exact gets_gives (o := { t := t, d := d, a := 0, imm := sel }) h rfl hv
  have hthread : threadOf (begun j) = t.idx := by simp only [threadOf, show (begun j).phase = j.phase from rfl, h.phase]
  refine ⟨pmc_executed (o := o) h rfl, pmc_suspends (o := o) h rfl, fun hx => ⟨_, pmc_cycles (o := o) h rfl hx⟩,
    fun k hk hx => ⟨pmc_counter_rights (o := o) h rfl hk hx, fun hp => pmc_counter (o := o) h rfl hk hx hp hu⟩,
    pmc_elsewhere (o := o) h rfl, read 0 _ (by decide) rfl, read 1 _ (by decide) rfl, read 2 _ (by decide) ?_, read 3 _ (by decide) ?_,
    read 4 _ (by decide) ?_, read 5 _ (by decide) ?_, read 6 _ (by decide) ?_,
    gets_illegal (o := { t := t, d := d, a := 0, imm := sel }) h⟩
  · exact congrArg (BitVec.ofNat 64) (by simp [begun])
  · exact congrArg (BitVec.ofNat 64) h.slate
  · exact congrArg (BitVec.ofNat 64) hthread
  · exact congrArg (BitVec.ofNat 64) ((now_fetched ..).trans (congrArg (now s) h.slate))
  · exact congrArg (BitVec.ofNat 64) (fetched_n s t id j 1)

end Sys2Proof.Selectors
end

section
/-! The end of a job and its way to a queue: what a trap, an end and a yield leave of the job and its thread (R26, R34 to R36, R77). -/

namespace Sys2Proof.Ending

open Sys2Proof Sys2Proof.Machine Sys2Proof.Issuing Sys2Proof.Stillness

/-- A job as it ends. -/
def ended (j : Job) (r : Resp) (trap : Bool) : Job :=
  { j with phase := if isHk j then j.phase else .ending, wait := .none, ended := some { resp := r, trap := trap } }

section End

variable {s : State} {id : Nat} {j : Job} (hj : jobOf s id = some j)

include hj

theorem jobOf_endJob_eq (r : Resp) (trap : Bool) : jobOf (endJob s id r trap) id = some (ended j r trap) := by
  unfold endJob
  rw [hj]
  exact tabGet_tabPut_self ..

/-- A job that ends leaves its thread (R35). -/
theorem jobOn_endJob (hk : isHk j = false) {t : Thread} (hs : j.slate = t.slate) (hp : j.phase = .running t.idx) (r : Resp)
    (trap : Bool) : jobOn (endJob s id r trap) t = none := by
  have ht : (endJob s id r trap).threads = tabDel s.threads (j.slate * 192 + t.idx) := by
    unfold endJob
    rw [hj]
    simp [hp, hk]
  rw [jobOn, ht, threadKey, ← hs]
  exact tabGet_tabDel_self ..

/-- A housekeeping thread waits in place for the work of its program to be done (R37). -/
theorem threads_endJob_hk (hk : isHk j = true) (r : Resp) (trap : Bool) : (endJob s id r trap).threads = s.threads := by
  unfold endJob
  rw [hj]
  dsimp only
  split <;> simp [hk]

/-- What a trap reports before its job ends: a job's, with JOB_TRAP (R34). -/
def jobTrapped (s : State) (j : Job) (st : Status) : State :=
  detect s j.slate Ev.JOB_TRAP (trapDetail j.slot (threadOf j) j.pc st (now s j.slate))

omit hj in
theorem jobOf_jobTrapped (s : State) (j : Job) (st : Status) (id : Nat) : jobOf (jobTrapped s j st) id = jobOf s id :=
  jobOf_congr (jobs_of_still (still_detect s j.slate (by decide) _)) id

theorem trapJob_job (hk : isHk j = false) (st : Status) :
    trapJob s id st = endJob (jobTrapped s j st) id (respOf st [0, 0, 0, 0]) true := by
  unfold trapJob
  rw [hj]
  dsimp only
  split
  next n hn => simp [isHk, hn] at hk
  next => rfl

/-- A trap ends its job, whose registers and counts stay (R34). -/
theorem jobOf_trapJob_job (hk : isHk j = false) (st : Status) :
    jobOf (trapJob s id st) id = some (ended j (respOf st [0, 0, 0, 0]) true) := by
  rw [trapJob_job hj hk]
  exact jobOf_endJob_eq ((jobOf_jobTrapped ..).trans hj) _ _

theorem jobOn_trapJob (hk : isHk j = false) {t : Thread} (hs : j.slate = t.slate) (hp : j.phase = .running t.idx) (st : Status) :
    jobOn (trapJob s id st) t = none := by
  rw [trapJob_job hj hk]
  exact jobOn_endJob ((jobOf_jobTrapped ..).trans hj) hk hs hp _ _

/-! ### The resume queue (R26) -/

theorem toResume_eq : toResume s id = putJob { s with resumeQ := tabModD s.resumeQ j.slate [] (· ++ [id]) } id
    { j with phase := .waitingThread, readyTb := now s j.slate } := by
  unfold toResume
  rw [hj]
  rfl

theorem jobOf_toResume : jobOf (toResume s id) id = some { j with phase := .waitingThread, readyTb := now s j.slate } := by
  rw [toResume_eq hj, jobOf_putJob_self]

theorem resumeQ_toResume : tabGetD (toResume s id).resumeQ j.slate [] = tabGetD s.resumeQ j.slate [] ++ [id] := by
  rw [toResume_eq hj, tabGetD, show (putJob _ id _).resumeQ = tabModD s.resumeQ j.slate [] (· ++ [id]) from rfl, tabGet_tabModD_self]
  rfl

theorem threads_toResume : (toResume s id).threads = s.threads := by
  rw [toResume_eq hj]
  rfl

end End

theorem still_suspendJob (s : State) (id : Nat) (j : Job) (w : Wait) (d : Reg) (hk : isHk j = false) :
    still (suspendJob s id j w d) = still (putJob { s with threads := tabDel s.threads (j.slate * 192 + threadOf j) } id
      { j with pc := j.pc + 1, wait := w, dst := d, phase := .suspended, suspends := j.suspends + 1 }) := by
  have hk' : isHk { j with pc := j.pc + 1, wait := w, dst := d } = false := hk
  simp only [suspendJob, hk', Bool.false_eq_true, if_false]
  exact still_countSrc ..

/-! ### YIELD, DONE, FAIL and TRAP (R77) -/

section Control

variable {s : State} {t : Thread} {id : Nat} {j : Job} (h : Issues s t id j 1) (hk : isHk j = false)

include h hk

/-- A job that yields leaves its thread and joins the tail of its slate's resume queue. -/
theorem yield_joins {o : RForm} (ht : o.t = t) (hl : (o.d == 0 && o.a == 0 && o.b == 0 && o.minor == 0) = true) :
    ∃ u, exec (.yield o) s = .next u ∧
      jobOf u id = some { suspended j .none 0 with phase := .waitingThread, readyTb := now s t.slate } ∧
      jobOn u t = none ∧ (tabGetD u.resumeQ t.slate []).getLast? = some id := by
  subst ht
  have arm : exec (.yield o) s = execYield o s := rfl
  have he := next_of_issue h arm hl (by simp)
  rw [if_neg (show ¬ isHk (begun j) = true by simp [hk])] at he
  have hj := jobOf_suspendJob (id := id) (fetched s o.t id j 1) hk .none 0
  have hs : (suspended j .none 0).slate = o.t.slate := h.slate
  have hn : now (suspendJob (fetched s o.t id j 1) id (begun j) .none 0) (suspended j .none 0).slate = now s o.t.slate :=
    (now_of_still (still_suspendJob _ id (begun j) .none 0 hk) _).trans ((now_fetched ..).trans (congrArg (now s) hs))
  refine ⟨_, he, ?_, ?_, ?_⟩
  · rw [jobOf_sampleAfter, jobOf_toResume hj, hn]
  · rw [jobOn_sampleAfter, jobOn_congr (threads_toResume hj), jobOn_suspendJob h hk]
  · rw [resumeQ_of_still (still_sampleAfter _ id), ← hs, resumeQ_toResume hj, List.getLast?_concat]

/-- An instruction whose body ends the job leaves it ended and its thread free. -/
theorem ends_of_body {c : Instr} {legal keepOnly : Bool} {body : State → Nat → Job → State}
    (arm : exec c s = onThread t s fun s => issue t s 1 legal keepOnly body) (hl : legal = true) (hko : keepOnly = true → j.keep = true)
    {r : Resp} (hb : body (fetched s t id j 1) id (begun j) = endJob (fetched s t id j 1) id r false) :
    ∃ u, exec c s = .next u ∧ jobOf u id = some (ended (begun j) r false) ∧ jobOn u t = none := by
  have he := next_of_issue h arm hl hko
  rw [hb] at he
  have hj := jobOf_fetched s t id j 1
  exact ⟨_, he, by rw [jobOf_sampleAfter, jobOf_endJob_eq hj], by rw [jobOn_sampleAfter, jobOn_endJob hj hk h.slate h.phase]⟩

/-- An instruction whose body traps the job leaves it ended and its thread free. -/
theorem trapped_of_body {c : Instr} {legal keepOnly : Bool} {body : State → Nat → Job → State}
    (arm : exec c s = onThread t s fun s => issue t s 1 legal keepOnly body) (hl : legal = true) (hko : keepOnly = true → j.keep = true)
    {st : Status} (hb : body (fetched s t id j 1) id (begun j) = trapJob (fetched s t id j 1) id st) :
    ∃ u, exec c s = .next u ∧ jobOf u id = some (ended (begun j) (respOf st [0, 0, 0, 0]) true) ∧ jobOn u t = none := by
  have he := next_of_issue h arm hl hko
  rw [hb] at he
  have hj := jobOf_fetched s t id j 1
  exact ⟨_, he, by rw [jobOf_sampleAfter, jobOf_trapJob_job hj hk], by rw [jobOn_sampleAfter, jobOn_trapJob hj hk h.slate h.phase]⟩

end Control

theorem phase_ended {j : Job} (hk : isHk j = false) (r : Resp) (trap : Bool) : (ended j r trap).phase = .ending := by
  simp [ended, hk]

/-- Settles O23: the four instructions' bodies suspend, end or trap their job. -/
theorem jobControl : Obligations.JobControl := by
  unfold Obligations.JobControl
  intro s t id j a imm h hk st words ends
  have of_ended {c : Instr} {r : Resp} {trap : Bool}
      (hx : ∃ u, exec c s = .next u ∧ jobOf u id = some (ended (begun j) r trap) ∧ jobOn u t = none) : ends c r trap := by
    obtain ⟨u, he, hj, ho⟩ := hx
    exact ⟨u, _, he, hj, ho, rfl, phase_ended hk r trap⟩
  have done : exec (.done { t := t, d := 0, a := a, b := 0, minor := 0 }) s = execDone { t := t, d := 0, a := a, b := 0, minor := 0 } s := rfl
  have fail : exec (.fail { t := t, d := 0, a := a, b := 0, minor := 0 }) s = execFail { t := t, d := 0, a := a, b := 0, minor := 0 } s := rfl
  have trap : exec (.trap { t := t, d := 0, a := 0, imm := imm }) s = execTrap { t := t, d := 0, a := 0, imm := imm } s := rfl
  refine ⟨?_, of_ended (ends_of_body h hk done rfl (by simp) rfl), of_ended (ends_of_body h hk fail rfl (by simp) rfl),
    of_ended (trapped_of_body h hk trap rfl (by simp) rfl)⟩
  obtain ⟨u, he, hj, ho, hq⟩ := yield_joins (o := { t := t, d := 0, a := 0, b := 0, minor := 0 }) h hk rfl rfl
  exact ⟨u, _, he, hj, ho, hq, rfl⟩

/-! ### The checks of issue (R50) -/

section Checks

variable {c : Instr} {s : State} {t : Thread} {id : Nat} {j : Job} {len : Nat} {legal keepOnly : Bool}
  {body : State → Nat → Job → State} (hs : serving s t.slate = true) (ht : jobOn s t = some id) (hj : jobOf s id = some j)
  (he : j.ended = none) (hw : j.wait = .none) (arm : exec c s = onThread t s fun s => issue t s len legal keepOnly body)

include hs ht hj he hw arm

theorem budget_ends (hb : isHk j = false ∧ j.budget = 0) :
    ∃ u, exec c s = .next u ∧ jobOf u id = some (ended j (respOf St.budget [0, 0, 0, 0]) true) := by
  refine ⟨_, arm.trans (onThread_serving _ hs), ?_⟩
  rw [issue_due ht hj he hw, if_pos (by simp [hb])]
  exact jobOf_trapJob_job (s := chosen s t) hj hb.1 _

variable (hb : isHk j = true ∨ j.budget ≠ 0)

include hb

/-- What a job with budget meets. -/
theorem next_of_budget : exec c s = .next (sampleAfter (if pcBad s j len then trapJob (issued s t id j) id St.outOfRange
    else if opcodeBad s t j then trapJob (fetched s t id j len) id St.illegalOpcode
    else if !legal then trapJob (fetched s t id j len) id St.illegalField
    else if keepOnly && !j.keep then trapJob (fetched s t id j len) id St.rights
    else body (fetched s t id j len) id (begun j)) id) := by
  have hb' : ¬ (!isHk j && j.budget == 0) = true := by rcases hb with hb | hb <;> simp [hb]
  rw [arm, onThread_serving _ hs, issue_due ht hj he hw, if_neg hb']

theorem traps_of_pcBad (hp : pcBad s j len = true) : Traps c s id St.outOfRange := by
  have hx := next_of_budget hs ht hj he hw arm hb
  rw [if_pos hp] at hx
  exact traps_of_trapJob (jobOf_issued s t id j) hx

variable (hp : pcBad s j len = false)

include hp

theorem traps_of_opcodeBad (ho : opcodeBad s t j = true) : Traps c s id St.illegalOpcode := by
  have hx := next_of_budget hs ht hj he hw arm hb
  rw [if_neg (by simp [hp]), if_pos ho] at hx
  exact traps_of_trapJob (jobOf_fetched s t id j len) hx

variable (ho : opcodeBad s t j = false)

include ho

theorem traps_of_reserved (hl : legal = false) : Traps c s id St.illegalField := by
  have hx := next_of_budget hs ht hj he hw arm hb
  rw [if_neg (by simp [hp]), if_neg (by simp [ho]), if_pos (by simp [hl])] at hx
  exact traps_of_trapJob (jobOf_fetched s t id j len) hx

theorem traps_of_keepOnly (hl : legal = true) (hko : keepOnly = true) (hk : j.keep = false) : Traps c s id St.rights := by
  have hx := next_of_budget hs ht hj he hw arm hb
  rw [if_neg (by simp [hp]), if_neg (by simp [ho]), if_neg (by simp [hl]), if_pos (by simp [hko, hk])] at hx
  exact traps_of_trapJob (jobOf_fetched s t id j len) hx

end Checks

theorem progLen_lt {s : State} {j : Job} {w : InsnWord} (hw : progWord s j j.pc = some w) : j.pc < progLen s j := by
  unfold progWord at hw
  unfold progLen
  obtain ⟨p, hp, hx⟩ := Option.bind_eq_some_iff.1 hw
  rw [hp]
  exact (List.getElem?_eq_some_iff.1 hx).1

theorem pcBad_beyond {s : State} {j : Job} (h : progLen s j ≤ j.pc) (len : Nat) : pcBad s j len = true := by simp [pcBad, h]

/-- At a word of the program the PC is bad where an X form, by the instruction or by the word, is the last word. -/
theorem pcBad_at {s : State} {j : Job} {w : InsnWord} (hw : progWord s j j.pc = some w) (len : Nat) :
    pcBad s j len = true ↔ (fMajor w = 0x3F ∨ len = 2) ∧ j.pc + 1 = progLen s j := by
  have := progLen_lt hw
  simp only [pcBad, hw, Nat.not_le.2 this, decide_false, Bool.false_or, Bool.and_eq_true, Bool.or_eq_true, beq_iff_eq, decide_eq_true_eq]
  tauto

theorem opcodeBad_at {s : State} {t : Thread} {j : Job} {w : InsnWord} (hw : progWord s j j.pc = some w) :
    opcodeBad s t j = true ↔ decodeInsn t w ((progWord s j (j.pc + 1)).getD 0) = none := by
  simp [opcodeBad, hw, Option.isNone_iff_eq_none]

/-- Settles O24: `issue` makes the checks in their order; ADD stands for the instructions of either length, CSET for those of KEEP. -/
theorem issueChecks : Obligations.IssueChecks := by
  unfold Obligations.IssueChecks
  intro s t id j src d a b m hs ht hj he hw add cset
  have arm : exec add s = execAdd { t := t, d := d, a := a, src := src } s := rfl
  have arm' : exec cset s = execCset { t := t, d := d, a := a, b := b, minor := m } s := rfl
  refine ⟨fun hk hb => ?_, fun hb => ⟨fun hp => ?_, fun w hpw => ?_⟩⟩
  · obtain ⟨u, hu, hju⟩ := budget_ends hs ht hj he hw arm ⟨hk, hb⟩
    exact ⟨u, _, hu, hju, rfl, rfl, rfl⟩
  · exact ⟨traps_of_pcBad hs ht hj he hw arm hb (pcBad_beyond hp _), traps_of_pcBad hs ht hj he hw arm' hb (pcBad_beyond hp _)⟩
  intro x bad
  have hpc (len : Nat) : pcBad s j len = false ↔ (x ∨ len = 2 → j.pc + 1 ≠ progLen s j) := by
    rw [← Bool.not_eq_true, pcBad_at hpw]
    tauto
  have hpc1 : pcBad s j 1 = false ↔ (x → j.pc + 1 ≠ progLen s j) := by
    rw [hpc]
    simp
  have hop : opcodeBad s t j = false ↔ ¬ bad := by rw [← Bool.not_eq_true, opcodeBad_at hpw]
  refine ⟨fun hl => ⟨fun hx => ?_, fun hx => ?_⟩, fun hbad hp => ?_, fun hbad hp => ?_, fun hbad hp hsrc => ?_, fun hbad hp => ⟨fun hm => ?_,
    fun hm hk => ?_⟩⟩
  · exact traps_of_pcBad hs ht hj he hw arm hb ((pcBad_at hpw _).2 ⟨hx, hl⟩)
  · exact traps_of_pcBad hs ht hj he hw arm' hb ((pcBad_at hpw _).2 ⟨.inl hx, hl⟩)
  · exact traps_of_opcodeBad hs ht hj he hw arm hb ((hpc _).2 hp) ((opcodeBad_at hpw).2 hbad)
  · exact traps_of_opcodeBad hs ht hj he hw arm' hb (hpc1.2 hp) ((opcodeBad_at hpw).2 hbad)
  · exact traps_of_reserved hs ht hj he hw arm hb ((hpc _).2 hp) (hop.2 hbad) hsrc
  · exact traps_of_reserved hs ht hj he hw arm' hb (hpc1.2 hp) (hop.2 hbad) (by simpa using hm)
  · exact traps_of_keepOnly hs ht hj he hw arm' hb (hpc1.2 hp) (hop.2 hbad) (by simp [hm]) rfl hk

end Sys2Proof.Ending
end

section
/-! Control space from a program: CGET, CSET and CSWAP (R73, R74, R81). -/

namespace Sys2Proof.Control

open Sys2Proof Sys2Proof.Machine Sys2Proof.Access Sys2Proof.Issuing Sys2Proof.Stillness

/-! ### Returned statuses (R53) -/

theorem statusWord (st : Status) : BitVec.ofNat 64 (st.toNat + 0 * 65536) = st.setWidth 64 := by
  apply BitVec.eq_of_toNat_eq
  simp

theorem ret_eq (j : Job) (d : Reg) (st : Status) : ret j d st = { wr j d (st.setWidth 64) with z := st == 0 } := by
  rw [ret, retWith, statusWord]

/-- A register pair as an instruction returns it: the status OK below, `e` above, and Z. -/
def pairResult (j : Job) (d : Reg) (e : Word) (z : Bool) : Job := { ret (wr j (pairReg d) e) d St.ok with z := z }

theorem rd_pairResult (j : Job) (d : Reg) (e : Word) (z : Bool) (r : Reg) : rd (pairResult j d e z) r =
    if r = 0 then 0 else if r = d then 0 else if r = d + 1 then e else rd j r := by
  have hr : rd (pairResult j d e z) r = rd (wr (wr j (pairReg d) e) d 0) r := by
    rw [pairResult, ret_eq]
    rfl
  rw [hr, rd_wr, rd_wr]
  by_cases h0 : r = 0
  · rw [if_pos h0, if_pos h0]
  · rw [if_neg h0, if_neg h0, if_neg h0]
    rfl

theorem pairResult_eq (j : Job) (d : Reg) (e : Word) (z : Bool) : pairResult j d e z = { j with g := (pairResult j d e z).g, z := z } := by
  rw [pairResult, ret_eq, wr_eq (wr j (pairReg d) e), wr_eq j]

/-! ### The control address (R73, R74) -/

theorem ctlSlate_eq (w : Word) (self : Nat) : ctlSlate w self = if w.getLsbD 20 then self else w.toNat / 2 ^ 17 % 2 ^ 3 := rfl

theorem bits_high {w : Word} : bits w 21 43 = 0 ↔ w.toNat < 2 ^ 21 := by
  have := w.isLt
  unfold bits
  omega

section Check

variable {s : State} {w : Word} {self : Nat}

theorem ctlCheck_illegal (h : 2 ^ 21 ≤ w.toNat) : ctlCheck s w self = some St.illegalField :=
  if_pos fun h0 => absurd (bits_high.1 h0) (Nat.not_lt.2 h)

variable (h : w.toNat < 2 ^ 21)

include h

theorem ctlCheck_outside (hs : 0x12 < ctlSpace w ∨ serving s (ctlSlate w self) = false) : ctlCheck s w self = some St.outOfRange :=
  (if_neg (not_not.2 (bits_high.2 h))).trans (if_pos (by rcases hs with hs | hs <;> simp [hs]))

theorem ctlCheck_passes (hs : ctlSpace w ≤ 0x12) (hv : serving s (ctlSlate w self) = true) : ctlCheck s w self = none :=
  (if_neg (not_not.2 (bits_high.2 h))).trans (if_neg (by simp [hv, Nat.not_lt.2 hs]))

end Check

theorem ctlCheck_congr {s t : State} (h : still t = still s) (w : Word) (self : Nat) : ctlCheck t w self = ctlCheck s w self := by
  simp only [ctlCheck, serving_of_still h]

/-! ### What an access answers (R74, R81) -/

/-- A job that is no command's needs no commit mark (R148). -/
theorem askCommit_unmarked {s : State} {id : Nat} {j : Job} (hj : jobOf s id = some j) (hc : isCmd j = false) :
    askCommit s id = (s, true) := by
  unfold askCommit
  rw [hj]
  exact if_pos (by simp [hc])

section Access

variable {s : State} {id : Nat} {w v : Word} {self : Nat}

theorem ctlWrite_illegal (hl : legal s (ctlSlate w self) (ctlSpace w) (ctlEntry w) v = false) : ctlWrite s w self v = none :=
  if_neg (by simp [hl])

theorem ctlCommit_illegal (hw : ctlWrite s w self v = none) : ctlCommit s id w self v = none := by
  unfold ctlCommit
  rw [hw]

theorem ctlCommit_writes {j : Job} (hj : jobOf s id = some j) (hc : isCmd j = false) {u : State} {r : RecRef}
    (hw : ctlWrite s w self v = some (u, r)) : ctlCommit s id w self v = some (u, true, r) := by
  simp [ctlCommit, hw, askCommit_unmarked hj hc]

theorem ctlSetOp_refused {st : Status} (hc : ctlCheck s w self = some st) : ctlSetOp s id w self v = (s, st, none) := by
  unfold ctlSetOp
  rw [hc]

theorem ctlSwapOp_refused {st : Status} (e : Word) (hc : ctlCheck s w self = some st) :
    ctlSwapOp s id w self e v = (s, st, none, false, none) := by
  unfold ctlSwapOp
  rw [hc]

variable (hp : ctlCheck s w self = none)

include hp

theorem ctlSetOp_illegal (hw : ctlWrite s w self v = none) : ctlSetOp s id w self v = (s, St.illegalField, none) := by
  unfold ctlSetOp
  rw [hp, ctlCommit_illegal hw]

theorem ctlSetOp_writes {j : Job} (hj : jobOf s id = some j) (hc : isCmd j = false) {u : State} {r : RecRef}
    (hw : ctlWrite s w self v = some (u, r)) : ctlSetOp s id w self v = (u, St.ok, r) := by
  unfold ctlSetOp
  rw [hp, ctlCommit_writes hj hc hw]

theorem ctlSwapOp_differs {e : Word} (he : ctlRead s w self ≠ e) :
    ctlSwapOp s id w self e v = (s, St.ok, some (ctlRead s w self), false, none) := by
  unfold ctlSwapOp
  rw [hp]
  exact if_pos he

theorem ctlSwapOp_illegal {e : Word} (he : ctlRead s w self = e) (hw : ctlWrite s w self v = none) :
    ctlSwapOp s id w self e v = (s, St.illegalField, some (ctlRead s w self), false, none) := by
  unfold ctlSwapOp
  rw [hp]
  refine (if_neg (not_not.2 he)).trans ?_
  rw [ctlCommit_illegal hw]

theorem ctlSwapOp_writes {e : Word} (he : ctlRead s w self = e) {j : Job} (hj : jobOf s id = some j) (hc : isCmd j = false) {u : State}
    {r : RecRef} (hw : ctlWrite s w self v = some (u, r)) :
    ctlSwapOp s id w self e v = (u, St.ok, some (ctlRead s w self), true, r) := by
  unfold ctlSwapOp
  rw [hp]
  refine (if_neg (not_not.2 he)).trans ?_
  rw [ctlCommit_writes hj hc hw]

end Access

theorem ctlDone_finishes {s : State} {id : Nat} {j : Job} (hj : jobOf s id = some j) (he : j.ended = none) (d : Reg) (f : Job → Job) :
    ctlDone s id d f none = finish s id (f j) 1 := by
  unfold ctlDone
  rw [hj]
  exact if_neg (by simp [he])

/-! ### CGET, CSET and CSWAP -/

section Issued

variable {s : State} {id : Nat} {j : Job} {o : RForm} (h : Issues s o.t id j 1) (hk : j.keep = true) (hm : o.minor = 0)

/-- The state in which a control access runs: the instruction has begun, and the control-space port is granted. -/
abbrev ctlRuns (s : State) (t : Thread) (id : Nat) (j : Job) (w : Word) : State := ctlGrant (fetched s t id j 1) w j.slate

theorem jobOf_ctlRuns (s : State) (t : Thread) (id : Nat) (j : Job) (w : Word) : jobOf (ctlRuns s t id j w) id = some (begun j) :=
  jobOf_fetched s t id j 1

theorem still_ctlRuns (s : State) (t : Thread) (id : Nat) (j : Job) (w : Word) (sl : Nat) : serving (ctlRuns s t id j w) sl = serving s sl :=
  serving_of_still (still_fetched s t id j 1) sl

theorem ctlCheck_ctlRuns (s : State) (t : Thread) (id : Nat) (j : Job) (w : Word) (self : Nat) :
    ctlCheck (ctlRuns s t id j w) w self = ctlCheck s w self := by
  simp only [ctlCheck, still_ctlRuns]

theorem ctlCheck_fetched (s : State) (t : Thread) (id : Nat) (j : Job) (w : Word) (self : Nat) :
    ctlCheck (fetched s t id j 1) w self = ctlCheck s w self := ctlCheck_ctlRuns s t id j w self

include h hk hm

theorem cset_runs {u : State} {st : Status} {r : RecRef}
    (he : ctlSetOp (ctlRuns s o.t id j (rd j o.a)) id (rd j o.a) j.slate (rd j o.b) = (u, st, r)) :
    exec (.cset o) s = .next (sampleAfter (ctlDone u id o.d (fun j => ret j o.d st) r) id) := by
  have arm : exec (.cset o) s = execCset o s := rfl
  have hx := next_of_issue h arm (by simp [hm]) fun _ => hk
  simp only [rd_begun, show (begun j).slate = j.slate from rfl, he] at hx
  exact hx

/-- What CSWAP makes of its job: the entry as read, where it was, the status, and whether it wrote. -/
def swapResult (d : Reg) (e : Option Word) (st : Status) (hit : Bool) (j : Job) : Job :=
  { ret (match e with | some e => wr j (pairReg d) e | none => j) d st with z := hit }

theorem cswap_runs (hd : pairOk o.d = true) {u : State} {st : Status} {e : Option Word} {hit : Bool} {r : RecRef}
    (he : ctlSwapOp (ctlRuns s o.t id j (rd j o.a)) id (rd j o.a) j.slate (rd j (pairReg o.d)) (rd j o.b) = (u, st, e, hit, r)) :
    exec (.cswap o) s = .next (sampleAfter (ctlDone u id o.d (swapResult o.d e st hit) r) id) := by
  have arm : exec (.cswap o) s = execCswap o s := rfl
  have hx := next_of_issue h arm (by simp [hm, hd]) fun _ => hk
  simp only [rd_begun, show (begun j).slate = j.slate from rfl, he] at hx
  exact hx

section Results

variable {u : State} {j' : Job} (hj : jobOf u id = some (begun j))

include hj

theorem cset_finishes {st : Status}
    (he : ctlSetOp (ctlRuns s o.t id j (rd j o.a)) id (rd j o.a) j.slate (rd j o.b) = (u, st, none)) :
    exec (.cset o) s = .next (sampleAfter (finish u id (ret (begun j) o.d st) 1) id) := by
  rw [cset_runs h hk hm he, ctlDone_finishes hj h.ready.1]

theorem cswap_finishes (hd : pairOk o.d = true) {st : Status} {e : Option Word} {hit : Bool}
    (he : ctlSwapOp (ctlRuns s o.t id j (rd j o.a)) id (rd j o.a) j.slate (rd j (pairReg o.d)) (rd j o.b) = (u, st, e, hit, none)) :
    exec (.cswap o) s = .next (sampleAfter (finish u id (swapResult o.d e st hit (begun j)) 1) id) := by
  rw [cswap_runs h hk hm hd he, ctlDone_finishes hj h.ready.1]

end Results

theorem cget_refused (hb : o.b = 0) (hd : pairOk o.d = true) {st : Status} (hz : (st == 0) = false)
    (hc : ctlCheck s (rd j o.a) j.slate = some st) : Completes (.cget o) s id j 1 o.d (st.setWidth 64) false j.n j.c j.v := by
  have arm : exec (.cget o) s = execCget o s := rfl
  have hg : ctlGetOp (fetched s o.t id j 1) (rd j o.a) j.slate = (st, none) := by
    unfold ctlGetOp
    rw [ctlCheck_fetched, hc]
  have hx := next_of_issue h arm (by simp [hm, hb, hd]) fun _ => hk
  simp only [rd_begun, show (begun j).slate = j.slate from rfl, hg, ret_eq, hz] at hx
  exact Atomics.completes_of_finish_z hx

theorem cget_reads (hb : o.b = 0) (hd : pairOk o.d = true) (hc : ctlCheck s (rd j o.a) j.slate = none) :
    Leaves (.cget o) s id { pairResult (begun j) o.d (ctlRead (fetched s o.t id j 1) (rd j o.a) j.slate) true with pc := j.pc + 1 } := by
  have arm : exec (.cget o) s = execCget o s := rfl
  have hg : ctlGetOp (fetched s o.t id j 1) (rd j o.a) j.slate = (St.ok, some (ctlRead (fetched s o.t id j 1) (rd j o.a) j.slate)) := by
    unfold ctlGetOp
    rw [ctlCheck_fetched, hc]
  have hx := next_of_issue h arm (by simp [hm, hb, hd]) fun _ => hk
  simp only [rd_begun, show (begun j).slate = j.slate from rfl, hg] at hx
  have hl := leaves_of_finish hx
  rw [show ret (wr (begun j) (pairReg o.d) (ctlRead (fetched s o.t id j 1) (rd j o.a) j.slate)) o.d St.ok =
    pairResult (begun j) o.d (ctlRead (fetched s o.t id j 1) (rd j o.a) j.slate) true by rw [pairResult, ret_eq]; rfl, pairResult_eq] at hl
  rw [pairResult_eq]
  exact hl

end Issued

/-! ### The statement -/

theorem rd_ret (j : Job) (d r : Reg) (st : Status) : rd (ret j d st) r = if r = 0 then 0 else if r = d then st.setWidth 64 else rd j r := by
  have hr : rd (ret j d st) r = rd (wr j d (st.setWidth 64)) r := by
    rw [ret_eq]
    rfl
  rw [hr, rd_wr]

/-- The job a control write completes: the status OK in `d`, and Z. -/
theorem ret_ok_eq (j : Job) (d : Reg) (pc : Nat) :
    { ret (begun j) d St.ok with pc := pc } = { begun j with g := (ret (begun j) d St.ok).g, z := true, pc := pc } := by
  rw [ret_eq, wr_eq (begun j)]
  rfl

theorem rd_pc (j : Job) (pc : Nat) (r : Reg) : rd { j with pc := pc } r = rd j r := rfl

theorem rd_swapResult_d (d : Reg) (e : Option Word) (st : Status) (hit : Bool) (j : Job) :
    rd (swapResult d e st hit j) d = if d = 0 then 0 else st.setWidth 64 := by
  refine (rd_ret _ d d st).trans ?_
  rw [if_pos rfl]

theorem swapResult_some (d : Reg) (e : Word) (hit : Bool) (j : Job) : swapResult d (some e) St.ok hit j = pairResult j d e hit := rfl

theorem pairResult_pc_eq (j : Job) (d : Reg) (e : Word) (z : Bool) (pc : Nat) :
    { pairResult (begun j) d e z with pc := pc } = { begun j with g := (pairResult (begun j) d e z).g, z := z, pc := pc } := by
  rw [pairResult_eq]

theorem rd_pairResult_of_eq {e e' : Word} (he : e = e') (j : Job) (d : Reg) (z : Bool) (pc : Nat) (r : Reg) :
    rd { pairResult (begun j) d e z with pc := pc } r = if r = 0 then 0 else if r = d then 0 else if r = d + 1 then e' else rd j r := by
  subst he
  exact rd_pairResult (begun j) d e z r

section Effects

variable {s : State} {id : Nat} {j : Job} {o : RForm} (h : Issues s o.t id j 1) (hu : Uncounted s o.t.slate) (hk : j.keep = true)
  (hm : o.minor = 0)

include h hk hm

theorem cset_refused {st : Status} (hz : (st == 0) = false) (hc : ctlCheck s (rd j o.a) j.slate = some st) :
    Completes (.cset o) s id j 1 o.d (st.setWidth 64) false j.n j.c j.v := by
  have he := cset_finishes h hk hm (jobOf_ctlRuns ..) (ctlSetOp_refused ((ctlCheck_ctlRuns ..).trans hc))
  rw [ret_eq, hz] at he
  exact Atomics.completes_of_finish_z he

theorem cswap_refused (hd : pairOk o.d = true) {st : Status} (hc : ctlCheck s (rd j o.a) j.slate = some st) :
    Completes (.cswap o) s id j 1 o.d (st.setWidth 64) false j.n j.c j.v := by
  have he := cswap_finishes h hk hm (jobOf_ctlRuns ..) hd (ctlSwapOp_refused _ ((ctlCheck_ctlRuns ..).trans hc))
  simp only [swapResult, ret_eq] at he
  exact Atomics.completes_of_finish_z he

include hu

omit hk hm in
/-- A control access that finishes on the state it runs in leaves control space as it was. -/
theorem unwritten {c : Instr} {j' : Job} (hs : j'.slate = j.slate)
    (he : exec c s = .next (sampleAfter (finish (ctlRuns s o.t id j (rd j o.a)) id j' 1) id)) :
    ∃ u, exec c s = .next u ∧ jobOf u id = some { j' with pc := j'.pc + 1 } ∧ u.ctl = s.ctl := by
  have hsamp : (ctlRuns s o.t id j (rd j o.a)).sampling = s.sampling := fetched_sampling h.slate hu
  have hctl : (ctlRuns s o.t id j (rd j o.a)).ctl = s.ctl := fetched_ctl h.slate hu
  rw [sampleAfter_finish_uncounted hu hsamp (hs.trans h.slate)] at he
  exact ⟨_, he, jobOf_finish .., hctl⟩

theorem cset_illegal (hp : ctlCheck s (rd j o.a) j.slate = none)
    (hw : ctlWrite (ctlRuns s o.t id j (rd j o.a)) (rd j o.a) j.slate (rd j o.b) = none) :
    ∃ u j', exec (.cset o) s = .next u ∧ jobOf u id = some j' ∧ u.ctl = s.ctl ∧ j'.z = false ∧
      rd j' o.d = if o.d = 0 then 0 else St.illegalField.setWidth 64 := by
  have he := cset_finishes h hk hm (jobOf_ctlRuns ..) (ctlSetOp_illegal ((ctlCheck_ctlRuns ..).trans hp) hw)
  obtain ⟨u, hx, hj, hc⟩ := unwritten h hu (by rw [ret_eq, wr_eq]; rfl) he
  refine ⟨u, _, hx, hj, hc, by rw [ret_eq]; rfl, (rd_ret (begun j) o.d o.d St.illegalField).trans ?_⟩
  rw [if_pos rfl]

theorem cset_writes (hp : ctlCheck s (rd j o.a) j.slate = none) (hc : isCmd j = false) {u : State}
    (hw : ctlWrite (ctlRuns s o.t id j (rd j o.a)) (rd j o.a) j.slate (rd j o.b) = some (u, none))
    (hj : u.jobs = (ctlRuns s o.t id j (rd j o.a)).jobs) (hs : u.sampling = (ctlRuns s o.t id j (rd j o.a)).sampling) :
    exec (.cset o) s = .next (putJob u id { ret (begun j) o.d St.ok with pc := j.pc + 1 }) := by
  have hju : jobOf u id = some (begun j) := (jobOf_congr hj id).trans (jobOf_ctlRuns ..)
  have he := cset_finishes h hk hm hju (ctlSetOp_writes ((ctlCheck_ctlRuns ..).trans hp) (jobOf_ctlRuns ..) hc hw)
  rw [sampleAfter_finish_uncounted hu (hs.trans (fetched_sampling h.slate hu)) (by rw [ret_eq, wr_eq]; exact h.slate)] at he
  rw [he, finish, ret_eq, wr_eq]
  rfl

variable (hd : pairOk o.d = true) (hp : ctlCheck s (rd j o.a) j.slate = none)

include hd hp

theorem cswap_differs (he : ctlRead (ctlRuns s o.t id j (rd j o.a)) (rd j o.a) j.slate ≠ rd j (pairReg o.d)) :
    ∃ u, exec (.cswap o) s = .next u ∧ u.ctl = s.ctl ∧ jobOf u id = some
      { pairResult (begun j) o.d (ctlRead (ctlRuns s o.t id j (rd j o.a)) (rd j o.a) j.slate) false with pc := j.pc + 1 } := by
  have hx := cswap_finishes h hk hm (jobOf_ctlRuns ..) hd (ctlSwapOp_differs ((ctlCheck_ctlRuns ..).trans hp) he)
  rw [swapResult_some, pairResult_eq] at hx
  obtain ⟨u, hx, hj, hc⟩ := unwritten h hu (by rfl) hx
  rw [pairResult_eq]
  exact ⟨u, hx, hc, hj⟩

theorem cswap_illegal (he : ctlRead (ctlRuns s o.t id j (rd j o.a)) (rd j o.a) j.slate = rd j (pairReg o.d))
    (hw : ctlWrite (ctlRuns s o.t id j (rd j o.a)) (rd j o.a) j.slate (rd j o.b) = none) :
    ∃ u j', exec (.cswap o) s = .next u ∧ jobOf u id = some j' ∧ u.ctl = s.ctl ∧ j'.z = false ∧
      rd j' o.d = if o.d = 0 then 0 else St.illegalField.setWidth 64 := by
  have hx := cswap_finishes h hk hm (jobOf_ctlRuns ..) hd (ctlSwapOp_illegal ((ctlCheck_ctlRuns ..).trans hp) he hw)
  have hs : (swapResult o.d (some (ctlRead (ctlRuns s o.t id j (rd j o.a)) (rd j o.a) j.slate)) St.illegalField false (begun j)).slate = j.slate := by
    simp only [swapResult, ret_eq]
    rw [wr_eq (wr (begun j) _ _), wr_eq (begun j)]
    rfl
  obtain ⟨u, hx, hj, hc⟩ := unwritten h hu hs hx
  exact ⟨u, _, hx, hj, hc, rfl, (rd_pc ..).trans (rd_swapResult_d ..)⟩

theorem cswap_writes (he : ctlRead (ctlRuns s o.t id j (rd j o.a)) (rd j o.a) j.slate = rd j (pairReg o.d)) (hc : isCmd j = false)
    {u : State} (hw : ctlWrite (ctlRuns s o.t id j (rd j o.a)) (rd j o.a) j.slate (rd j o.b) = some (u, none))
    (hj : u.jobs = (ctlRuns s o.t id j (rd j o.a)).jobs) (hs : u.sampling = (ctlRuns s o.t id j (rd j o.a)).sampling) :
    exec (.cswap o) s = .next (putJob u id
      { pairResult (begun j) o.d (ctlRead (ctlRuns s o.t id j (rd j o.a)) (rd j o.a) j.slate) true with pc := j.pc + 1 }) := by
  have hju : jobOf u id = some (begun j) := (jobOf_congr hj id).trans (jobOf_ctlRuns ..)
  have hx := cswap_finishes h hk hm hju hd (ctlSwapOp_writes ((ctlCheck_ctlRuns ..).trans hp) he (jobOf_ctlRuns ..) hc hw)
  have hsl : (pairResult (begun j) o.d (ctlRead (ctlRuns s o.t id j (rd j o.a)) (rd j o.a) j.slate) true).slate = o.t.slate := by
    rw [pairResult_eq]
    exact h.slate
  rw [swapResult_some, sampleAfter_finish_uncounted hu (hs.trans (fetched_sampling h.slate hu)) hsl] at hx
  rw [hx, finish, pairResult_eq]
  rfl

end Effects

/-- Settles O25: the address, the expected value and the value are checked in turn, each on the state in which the access runs. -/
theorem controlInstructions : Obligations.ControlInstructions := by
  unfold Obligations.ControlInstructions
  intro s t id j d a b h hu hk hd hc w e sp sl o cget all b0 v
  have hpair : pairOk o.d = true := by simpa [pairOk] using hd
  have hb0 : fetched s t id j 1 = b0 := by
    unfold fetched
    rw [issued_uncounted h.slate hu]
  have hv : ctlRuns s t id j w = v := by rw [ctlRuns, hb0, h.slate]
  have hsl : ctlSlate w j.slate = sl := by rw [ctlSlate_eq, h.slate]
  have hen : ctlEntry w = e := by simp [ctlEntry, bits, e]
  have refuse {st : Status} (hz : (st == 0) = false) (hx : ctlCheck s w j.slate = some st) : all st :=
    ⟨cget_refused (o := { o with b := 0 }) h hk rfl rfl hpair hz hx, cset_refused (o := o) h hk rfl hz hx,
      cswap_refused (o := o) h hk rfl hpair hx⟩
  have hserv : serving s (ctlSlate w j.slate) = serving s sl := congrArg (serving s) hsl
  refine ⟨fun hw => refuse (by decide) (ctlCheck_illegal hw), fun hw hs => refuse (by decide) (ctlCheck_outside hw ?_), fun hw hs hx => ?_⟩
  · rw [hserv]
    exact hs
  have hp : ctlCheck s w j.slate = none := ctlCheck_passes hw hs (hserv.trans hx)
  have hread : ctlRead (ctlRuns s t id j w) w j.slate = readEntry v sl sp e := by
    rw [ctlRead, hv, hsl, hen]
    rfl
  have hwrite (x : Word) : ctlWrite (ctlRuns s t id j w) w j.slate x = writeEntry v sl sp e x true := by
    rw [ctlWrite, hv, hsl, hen]
    rfl
  refine ⟨?_, fun he => ?_, fun hl => ?_, fun u hx hj hs' => ?_⟩
  · have hr : ctlRead (fetched s t id j 1) w j.slate = readEntry b0 sl sp e := by
      rw [ctlRead, hb0, hsl, hen]
      rfl
    have hg := cget_reads (o := { o with b := 0 }) h hk rfl rfl hpair hp
    exact ⟨_, hg, pairResult_pc_eq .., rd_pairResult_of_eq hr j d true _⟩
  · obtain ⟨u, hx, hctl, hj⟩ := cswap_differs (o := o) h hu hk rfl hpair hp (by rw [hread]; exact he)
    exact ⟨u, _, hx, hj, hctl, pairResult_pc_eq .., rd_pairResult_of_eq hread j d false _⟩
  · have hw0 : ctlWrite (ctlRuns s t id j w) w j.slate (rd j b) = none := (hwrite _).trans (if_neg (by simp [hl]))
    exact ⟨cset_illegal (o := o) h hu hk rfl hp hw0, fun he => cswap_illegal (o := o) h hu hk rfl hpair hp (hread.trans he) hw0⟩
  · rw [← hv] at hj hs'
    have hw0 := (hwrite (rd j b)).trans hx
    refine ⟨⟨_, cset_writes (o := o) h hu hk rfl hp hc hw0 hj hs', ret_ok_eq .., fun r => rd_ret ..⟩, fun he =>
      ⟨_, cswap_writes (o := o) h hu hk rfl hpair hp (hread.trans he) hc hw0 hj hs', pairResult_pc_eq ..,
        rd_pairResult_of_eq hread j d true _⟩⟩

end Sys2Proof.Control
end

section
/-! A suspended job resumes once what it waits for has come (R25, R26). -/

namespace Sys2Proof.Resumption

open Sys2Proof Sys2Proof.Machine Sys2Proof.Ending Sys2Proof.Control

section Wake

variable {s : State} {id : Nat} {j : Job}

theorem jobResume_arm (id : Nat) (s : State) : exec (.jobResume id) s = execJobResume id s := rfl

theorem exec_jobResume (h0 : serving s 0 = true) (hs : serving s j.slate = true) (hj : jobOf s id = some j) (he : j.ended = none) :
    exec (.jobResume id) s = .next (resumeJob s id j) := by
  rw [jobResume_arm]
  refine (onUnit_serving _ h0).trans ?_
  simp [hj, he, hs]

/-- A job as its instruction, which leaves `j`, resumes it at TB `tb`. -/
def resumed (j : Job) (tb : Nat) : Job := { j with wait := .none, phase := .waitingThread, readyTb := tb }

/-- A wait that is over sends a suspended job to the tail of its slate's resume queue. -/
theorem wake_suspended (hp : j.phase = .suspended) (ht : (samplingOf s j.slate).tags = []) :
    jobOf (wake s id j) id = some (resumed j (now s j.slate)) ∧
      tabGetD (wake s id j).resumeQ j.slate [] = tabGetD s.resumeQ j.slate [] ++ [id] := by
  have hs : sampleAfter (putJob s id { j with wait := .none }) id = putJob s id { j with wait := .none } :=
    sampleAfter_untagged (jobOf_putJob_self ..) ht
  have hw : wake s id j = toResume (putJob s id { j with wait := .none }) id := by
    unfold wake
    rw [hs, hp]
  have hj : jobOf (putJob s id { j with wait := .none }) id = some { j with wait := .none } := jobOf_putJob_self ..
  rw [hw]
  exact ⟨jobOf_toResume hj, resumeQ_toResume (j := { j with wait := .none }) hj⟩

end Wake

/-- The instruction of job `id`, which was `j`, completes: it leaves `j'`, which joins the tail of its slate's resume queue. -/
def Resumes (s : State) (id : Nat) (j j' : Job) : Prop := Answers (.jobResume id) s fun u =>
  tabGetD u.resumeQ j.slate [] = tabGetD s.resumeQ j.slate [] ++ [id] ∧ jobOf u id = some (resumed j' (now s j.slate))

section Cases

variable {s : State} {id : Nat} {j : Job} (h0 : serving s 0 = true) (hs : serving s j.slate = true) (hj : jobOf s id = some j)
  (he : j.ended = none)

include h0 hs hj he

theorem waits_of_resumeJob (h : resumeJob s id j = s) : exec (.jobResume id) s = .next s := by rw [exec_jobResume h0 hs hj he, h]

variable (hp : j.phase = .suspended) (ht : (samplingOf s j.slate).tags = [])

include hp ht

theorem resumes_of_resumeJob {j' : Job} (hsl : j'.slate = j.slate) (hph : j'.phase = j.phase) (h : resumeJob s id j = wake s id j') :
    Resumes s id j j' := by
  obtain ⟨ho, hq⟩ := wake_suspended (s := s) (id := id) (hph.trans hp) (hsl ▸ ht)
  rw [hsl] at ho hq
  exact ⟨_, (exec_jobResume h0 hs hj he).trans (congrArg _ h), hq, ho⟩

end Cases

/-- What a wait for a hazard entry looks at: the entries of the job with that identifier. -/
theorem extraHaz_blocked {s : State} {id i : Nat} :
    ((extraHaz s id).any fun h => h.id == i && hazBlocked s h) = true ↔
      ∃ h ∈ s.hazards, h.job = some id ∧ h.id = i ∧ i < 8 ∧ hazBlocked s h = true := by
  simp only [extraHaz, List.any_eq_true, List.mem_filter, Bool.and_eq_true, beq_iff_eq, decide_eq_true_eq]
  constructor
  · rintro ⟨h, ⟨hm, hj, hlt⟩, rfl, hb⟩
    exact ⟨h, hm, hj, rfl, hlt, hb⟩
  · rintro ⟨h, hm, hj, rfl, hlt, hb⟩
    exact ⟨h, ⟨hm, hj, hlt⟩, rfl, hb⟩

/-! ### What each instruction gives its job -/

/-- The job an instruction completes with `w` in its result register. -/
def withResult (j : Job) (w : Word) (z : Bool) (tks : Tab Ticket) (r : Option Status) : Job :=
  { wr j j.dst w with z := z, tickets := tks, result := r }

theorem rd_withResult (j : Job) (w : Word) (z : Bool) (tks : Tab Ticket) (r : Option Status) (x : Reg) :
    rd (withResult j w z tks r) x = if x = 0 then 0 else if x = j.dst then w else rd j x := rd_wr j j.dst x w

theorem withResult_eq (j : Job) (w : Word) (z : Bool) (tks : Tab Ticket) (r : Option Status) :
    withResult j w z tks r = { j with g := (withResult j w z tks r).g, z := z, tickets := tks, result := r } := by
  rw [withResult, wr_eq]

theorem rd_resumed (j : Job) (tb : Nat) (x : Reg) : rd (resumed j tb) x = rd j x := rfl

theorem ret_result (j : Job) (st : Status) : { ret j j.dst st with result := none } = withResult j (st.setWidth 64) (st == 0) j.tickets none := by
  rw [ret_eq, withResult, wr_eq]

theorem ret_ok_result (j : Job) : ret j j.dst St.ok = withResult j 0 true j.tickets j.result := by
  rw [ret_eq, show (St.ok.setWidth 64 : Word) = 0 by decide, show (St.ok == 0) = true by decide]
  unfold withResult wr
  split <;> rfl

theorem retWith_ok_result (j : Job) (i : Nat) :
    retWith j j.dst St.ok i = withResult j (BitVec.ofNat 64 (i * 65536)) true j.tickets j.result := by
  rw [retWith, show St.ok.toNat + i * 65536 = i * 65536 by simp [St.ok], show (St.ok == 0) = true by decide]
  unfold withResult wr
  split <;> rfl

theorem collect_result (j : Job) (k : Nat) (w : Word) :
    collect j j.dst k w = withResult j w (decide (w.toNat % 65536 = 0)) (tabDel j.tickets k) j.result := by
  unfold collect withResult wr
  split <;> rfl

theorem mgetNow_result (s : State) (j : Job) (v lba : Nat) : mgetNow s j j.dst v lba = pairResult j j.dst (mapEntry s v lba) true := by
  rw [mgetNow, pairResult, ret_eq]
  rfl

/-! ### The completion each wait is for (R25) -/

section Waits

variable {s : State} {id : Nat} {j : Job}

theorem resumeJob_payload {b lo hi : Nat} (hw : j.wait = .payload b lo hi) :
    resumeJob s id j = if arrived s b lo hi then wake s id j else s := by
  unfold resumeJob
  rw [hw]

theorem resumeJob_ticket {k : Nat} (hw : j.wait = .ticket k) {w : Word} (hr : (tabGet j.tickets k).bind (·.result) = some w) :
    resumeJob s id j = wake s id (withResult j w (decide (w.toNat % 65536 = 0)) (tabDel j.tickets k) j.result) := by
  unfold resumeJob
  rw [hw]
  simp only [hr, collect_result]

theorem resumeJob_ticket_open {k : Nat} (hw : j.wait = .ticket k) (hr : (tabGet j.tickets k).bind (·.result) = none) :
    resumeJob s id j = s := by
  unfold resumeJob
  rw [hw]
  simp only [hr]

theorem resumeJob_courses (hw : j.wait = .courses) : resumeJob s id j = if appendsDone s id then
    wake s id (withResult j ((j.result.getD St.ok).setWidth 64) (j.result.getD St.ok == 0) j.tickets none) else s := by
  unfold resumeJob
  rw [hw, ← ret_result]

theorem resumeJob_record {o q : Nat} (hw : j.wait = .record o q) (hp : j.phase = .suspended) :
    resumeJob s id j = if recSettled s o q then wake s id (withResult j 0 true j.tickets j.result) else s := by
  unfold resumeJob
  rw [hw, ← ret_ok_result]
  simp only [hp, true_or, if_true]

theorem resumeJob_hazard {i : Nat} (hw : j.wait = .hazard i) :
    resumeJob s id j = if (extraHaz s id).any fun h => h.id == i && hazBlocked s h then s
      else wake s id (withResult j (BitVec.ofNat 64 (i * 65536)) true j.tickets j.result) := by
  unfold resumeJob
  rw [hw, ← retWith_ok_result]

theorem resumeJob_mapGet_result {v lba : Nat} (hw : j.wait = .mapGet v lba) {st : Status} (hr : j.result = some st) :
    resumeJob s id j = wake s id (withResult j (st.setWidth 64) (st == 0) j.tickets none) := by
  unfold resumeJob
  rw [hw, ← ret_result]
  simp only [hr]

theorem resumeJob_mapGet_cached {v lba : Nat} (hw : j.wait = .mapGet v lba) (hr : j.result = none)
    (hc : nodeCached s v 0 (lba / 512) = true) : resumeJob s id j = wake s id (pairResult j j.dst (mapEntry s v lba) true) := by
  unfold resumeJob
  rw [hw, ← mgetNow_result]
  simp only [hr, hc, if_true]

theorem resumeJob_mapSet_result {v lba : Nat} {x : Word} (hw : j.wait = .mapSet v lba x) {st : Status} (hr : j.result = some st) :
    resumeJob s id j = wake s id (withResult j (st.setWidth 64) (st == 0) j.tickets none) := by
  unfold resumeJob
  rw [hw, ← ret_result]
  simp only [hr]

end Waits

/-- Settles O27, by what the job waits for. -/
theorem jobResumes : Obligations.JobResumes := by
  unfold Obligations.JobResumes
  intro s id j h0 hs hj he hp ht resumes waits
  have go {w : Word} {z : Bool} {tks : Tab Ticket} {r : Option Status} (h : resumeJob s id j = wake s id (withResult j w z tks r)) :
      resumes w z tks r := by
    obtain ⟨u, hu, hq, ho⟩ := resumes_of_resumeJob h0 hs hj he hp ht (by rw [withResult_eq]) (by rw [withResult_eq]) h
    exact ⟨u, hu, hq, _, ho, fun x => (rd_resumed ..).trans (rd_withResult ..), by rw [resumed, withResult_eq]⟩
  have stay (h : resumeJob s id j = s) : waits := waits_of_resumeJob h0 hs hj he h
  refine ⟨fun b lo hi hw => ⟨fun ha => ?payload, fun ha => stay ?_⟩,
    fun k hw => ⟨fun w hr => go (resumeJob_ticket hw hr), fun hr => stay (resumeJob_ticket_open hw hr)⟩,
    fun hw => ⟨fun st ha hst => go ?_, fun ha => stay ?_⟩, fun o q hw => ⟨fun hr => go ?_, fun hr => stay ?_⟩,
    fun i hw => ⟨fun hb => go ?_, fun h hm hjob hid hi hb => stay ?_⟩,
    fun v lba hw hd => ⟨fun st hr => go (resumeJob_mapGet_result hw hr), fun hr hc => ?mapGet⟩,
    fun v lba x st hw hr => go (resumeJob_mapSet_result hw hr)⟩
  case payload =>
    obtain ⟨u, hu, hq, ho⟩ := resumes_of_resumeJob h0 hs hj he hp ht rfl rfl ((resumeJob_payload hw).trans (if_pos ha))
    refine ⟨u, hu, hq, _, ho, fun x => ?_, rfl⟩
    rw [rd_resumed]
    split
    next h => rw [h, rd_zero]
    next =>
      split
      next h => rw [h]
      next => rfl
  case mapGet =>
    obtain ⟨u, hu, hq, ho⟩ := resumes_of_resumeJob h0 hs hj he hp ht (by rw [pairResult_eq]) (by rw [pairResult_eq])
      (resumeJob_mapGet_cached hw hr hc)
    exact ⟨u, hu, hq, _, ho, fun x => (rd_resumed ..).trans (rd_pairResult ..), by rw [resumed, pairResult_eq]⟩
  · rw [resumeJob_payload hw, if_neg (by simp [ha])]
  · rw [resumeJob_courses hw, if_pos ha, hst]
  · rw [resumeJob_courses hw, if_neg (by simp [ha])]
  · rw [resumeJob_record hw hp, if_pos hr]
  · rw [resumeJob_record hw hp, if_neg (by simp [hr])]
  · refine (resumeJob_hazard hw).trans (if_neg fun hx => ?_)
    obtain ⟨h, hm, hjob, hid, hi, hx⟩ := extraHaz_blocked.1 hx
    rw [hb h hm hjob hid hi] at hx
    cases hx
  · exact (resumeJob_hazard hw).trans (if_pos (extraHaz_blocked.2 ⟨h, hm, hjob, hid, hi, hb⟩))

end Sys2Proof.Resumption
end

section
/-! A free thread takes a resumed job before a new one (R26, R42). -/

namespace Sys2Proof.Threads

open Sys2Proof Sys2Proof.Machine

/-! ### The rotating pointer (R42) -/

theorem rotPick_first {p n k : Nat} {req : Nat → Bool} (hk : k < n) (hr : req ((p + k) % n) = true)
    (hf : ∀ i < k, req ((p + i) % n) = false) : rotPick p n req = some ((p + k) % n) := by
  have hfind : (List.range n).find? (req ∘ fun i => (p + i) % n) = some k :=
    List.find?_range_eq_some.2 ⟨hr, List.mem_range.2 hk, fun i hi => by simp [hf i hi]⟩
  rw [rotPick, List.find?_map, hfind]
  rfl

theorem rotPick_none {p n : Nat} {req : Nat → Bool} (h : ∀ i < n, req i = false) : rotPick p n req = none := by
  rw [rotPick, List.find?_eq_none]
  intro x hx
  obtain ⟨i, hi, rfl⟩ := List.mem_map.1 hx
  simp [h _ (Nat.mod_lt _ (Nat.zero_lt_of_lt (List.mem_range.1 hi)))]

theorem threadFree_iff (s : State) (sl i : Nat) :
    threadFree s sl i = true ↔ isHkIdx i = false ∧ jobOn s { slate := sl, idx := i } = none := by
  simp [threadFree, tabHas, jobOn, threadKey]

/-! ### What a thread that takes work does (R26) -/

section Take

variable {s : State} {sl : Nat} (hs : serving s sl = true)

theorem takeWork_arm (sl : Nat) (s : State) : exec (.threadTakeWork sl) s = execThreadTakeWork sl s := rfl

/-- The thread the rotating pointer of a slate chooses. -/
abbrev freeThread (s : State) (sl : Nat) : Option Nat := rotPick (tabGetD s.ptrs (ptrThread sl) 0) 192 (threadFree s sl)

include hs

theorem takeWork_stopped (hp : s.power.now = 2) : exec (.threadTakeWork sl) s = .next s := by
  refine (takeWork_arm sl s).trans ((onSlate_serving _ hs).trans ?_)
  simp only [hp, if_true]

theorem takeWork_full (hf : freeThread s sl = none) : exec (.threadTakeWork sl) s = .next s := by
  refine (takeWork_arm sl s).trans ((onSlate_serving _ hs).trans ?_)
  simp only [hf, ite_self]

theorem takeWork_empty (hr : tabGetD s.resumeQ sl [] = []) (hd : tabGetD s.dispatchQ sl [] = []) :
    exec (.threadTakeWork sl) s = .next s := by
  refine (takeWork_arm sl s).trans ((onSlate_serving _ hs).trans ?_)
  cases hx : freeThread s sl <;> simp only [hx, hr, hd, ite_self]

variable (hp : s.power.now ≠ 2) {t id : Nat} {j : Job} (hf : freeThread s sl = some t) (hj : jobOf s id = some j) {r : List Nat}

include hp hf hj

theorem takeWork_resumed (hr : tabGetD s.resumeQ sl [] = id :: r) : exec (.threadTakeWork sl) s =
    .next (placeJob (granted { s with resumeQ := tabPut s.resumeQ sl r } (ptrThread sl) t 192) id j t) := by
  refine (takeWork_arm sl s).trans ((onSlate_serving _ hs).trans ?_)
  have hj' : jobOf (granted { s with resumeQ := tabPut s.resumeQ sl r } (ptrThread sl) t 192) id = some j := hj
  simp only [if_neg hp, hf, hr, hj']

theorem takeWork_dispatched (hr : tabGetD s.resumeQ sl [] = []) (hd : tabGetD s.dispatchQ sl [] = id :: r) :
    exec (.threadTakeWork sl) s =
      .next (placeJob (granted { s with dispatchQ := tabPut s.dispatchQ sl r } (ptrThread sl) t 192) id j t) := by
  refine (takeWork_arm sl s).trans ((onSlate_serving _ hs).trans ?_)
  have hj' : jobOf (granted { s with dispatchQ := tabPut s.dispatchQ sl r } (ptrThread sl) t 192) id = some j := hj
  simp only [if_neg hp, hf, hr, hd, hj']

end Take

/-- A job that goes on with its instructions stands on its thread, and nothing else has changed. -/
theorem placeJob_resumes {s : State} {id t : Nat} {j : Job} (hw : j.onWake = .resume) :
    placeJob s id j t = putJob { s with threads := tabPut s.threads (j.slate * 192 + t) id } id { j with phase := .running t } := by
  have hj : { j with phase := .running t, onWake := .resume } = { j with phase := .running t } := by rw [← hw]
  simp only [placeJob, goOn, jobOf_putJob_self, hw, putJob_putJob, hj]

/-- The thread and the job of a placement. -/
theorem placeJob_places {s : State} {id t sl : Nat} {j : Job} (hw : j.onWake = .resume) (hsl : j.slate = sl) :
    jobOn (placeJob s id j t) { slate := sl, idx := t } = some id ∧
      jobOf (placeJob s id j t) id = some { j with phase := .running t } := by
  subst hsl
  rw [placeJob_resumes hw]
  exact ⟨tabGet_tabPut_self .., jobOf_putJob_self ..⟩

/-- Settles O28: the first free thread from the pointer on takes the head of the queues. -/
theorem threadTakesWork : Obligations.ThreadTakesWork := by
  unfold Obligations.ThreadTakesWork
  intro s sl hs free p rq dq idle
  refine ⟨takeWork_stopped hs, takeWork_empty hs, fun h => takeWork_full hs (rotPick_none fun i hi => ?_),
    fun k hk hp hfree hlow id j hq hj hsl hw => ?_⟩
  · rw [← Bool.not_eq_true, threadFree_iff]
    exact fun hf => h i ⟨hi, hf⟩
  have hmod (i : Nat) : (p + i) % 192 < 192 := Nat.mod_lt _ (by decide)
  have hf : freeThread s sl = some ((p + k) % 192) := by
    refine rotPick_first hk ((threadFree_iff ..).2 hfree.2) fun i hi => ?_
    rw [← Bool.not_eq_true, threadFree_iff]
    exact fun hx => hlow i hi ⟨hmod i, hx⟩
  cases hr : rq with
  | cons x r =>
    rw [hr] at hq
    cases hq
    obtain ⟨hon, hof⟩ := placeJob_places (s := granted { s with resumeQ := tabPut s.resumeQ sl r } (ptrThread sl) ((p + k) % 192) 192)
      (id := id) (t := (p + k) % 192) hw hsl
    refine ⟨_, takeWork_resumed hs hp hf hj hr, hon, hof, ?_, ?_⟩
    all_goals rw [placeJob_resumes hw]
    · exact congrArg (· ++ dq) (tabGetD_tabPut_self ..)
    · exact tabGetD_tabSet_self ..
  | nil =>
    rw [hr] at hq
    cases hd : dq with
    | nil =>
      rw [hd] at hq
      cases hq
    | cons x r =>
      rw [hd] at hq
      cases hq
      obtain ⟨hon, hof⟩ := placeJob_places (s := granted { s with dispatchQ := tabPut s.dispatchQ sl r } (ptrThread sl) ((p + k) % 192) 192)
        (id := id) (t := (p + k) % 192) hw hsl
      refine ⟨_, takeWork_dispatched hs hp hf hj hr hd, hon, hof, ?_, ?_⟩
      all_goals rw [placeJob_resumes hw]
      · exact congrArg₂ (· ++ ·) hr (tabGetD_tabPut_self ..)
      · exact tabGetD_tabSet_self ..

end Sys2Proof.Threads
end

section
/-! Answers recorded in tags, and what they leave of jobs, buffers and queues (R36, R142, R147, R354). -/

namespace Sys2Proof.Answering

open Sys2Proof Sys2Proof.Machine Sys2Proof.Stillness

/-- The state without queues and what waits for one, beside what is not still. -/
def unqueued (s : State) : State :=
  { still s with queues := [], park := [], bufWait := [], heldDg := [], fetching := [], ctxRef := [], hazPast := [] }

section Parts

variable {s t : State} (h : unqueued t = unqueued s)

include h

theorem jobs_of_unqueued : t.jobs = s.jobs := (congrArg State.jobs h :)
theorem threads_of_unqueued : t.threads = s.threads := (congrArg State.threads h :)
theorem buffers_of_unqueued : t.buffers = s.buffers := (congrArg State.buffers h :)
theorem hkRestart_of_unqueued : t.hkRestart = s.hkRestart := (congrArg State.hkRestart h :)

end Parts

theorem unqueued_of_still {s t : State} (h : still t = still s) : unqueued t = unqueued s :=
  congrArg (fun u : State =>
    { u with queues := [], park := [], bufWait := [], heldDg := [], fetching := [], ctxRef := [], hazPast := [] }) h

theorem queueAt_of_still {s t : State} (h : still t = still s) (hq : Nat) : queueAt t hq = queueAt s hq :=
  congrArg (tabGet · hq) (queues_of_still h)

@[simp] theorem still_send (s : State) (d : OutDatagram) (job : Option Nat) : still (send s d job) = still s :=
  still_of_reports (Reporting.send_reports s d job)

@[simp] theorem unqueued_modTag (s : State) (q t : Nat) (f : Tag → Tag) : unqueued (modTag s q t f) = unqueued s := rfl

/-! ### The bootstrap queue (R354) -/

theorem unqueued_removeQueue (s : State) (hq : Nat) : unqueued (removeQueue s hq) = unqueued s :=
  (unqueued_of_still (still_foldl _ _ fun s _ => still_send s _ none)).trans rfl

theorem queueAt_removeQueue {s : State} {hq x : Nat} (h : x ≠ hq) : queueAt (removeQueue s hq) x = queueAt s x :=
  (queueAt_of_still (still_foldl _ _ fun s _ => still_send s _ none) x).trans (tabGet_tabDel_ne _ h)

theorem unqueued_dropBootstrap (s : State) : unqueued (dropBootstrap s) = unqueued s := by
  unfold dropBootstrap
  split
  · split
    · exact unqueued_removeQueue s bootQueue
    · rfl
  · rfl

theorem queueAt_dropBootstrap {s : State} {x : Nat} (h : x ≠ bootQueue) : queueAt (dropBootstrap s) x = queueAt s x := by
  unfold dropBootstrap
  split
  · split
    · exact queueAt_removeQueue h
    · rfl
  · rfl

/-! ### Tags -/

theorem queueAt_modTag {s : State} {hq : Nat} {q : Queue} (h : queueAt s hq = some q) (t : Nat) (f : Tag → Tag) :
    queueAt (modTag s hq t f) hq = some { q with tags := tabModD q.tags t tagEmpty f } :=
  (tabGet_tabMod_self ..).trans (congrArg _ h)

theorem tagAt_modTag (q : Queue) (t : Nat) (f : Tag → Tag) :
    tagAt { q with tags := tabModD q.tags t tagEmpty f } t = f (tagAt q t) := by
  simp only [tagAt, tabModD, tabGetD_tabPut_self]

/-! ### A recorded answer (R36) -/

/-- A tag whose command's answer is recorded. -/
def answered (r : Resp) (t : Tag) : Tag := { t with st := .done, resp := some r, job := none }

section Record

variable (s : State) (hq t : Nat) (nonce : Word) (r : Resp) (c : Cmd) (job : Option Nat)

theorem unqueued_recordResp : unqueued (recordResp s hq t nonce r c job) = unqueued s :=
  (unqueued_dropBootstrap _).trans ((unqueued_of_still ((still_countSrc ..).trans (still_send ..))).trans (unqueued_modTag ..))

/-- The answer stands in the tag. -/
theorem queueAt_recordResp {q : Queue} (h : queueAt s hq = some q) (hb : hq ≠ bootQueue) :
    ∃ q', queueAt (recordResp s hq t nonce r c job) hq = some q' ∧ tagAt q' t = answered r (tagAt q t) :=
  ⟨_, (queueAt_dropBootstrap hb).trans ((queueAt_of_still ((still_countSrc ..).trans (still_send ..)) hq).trans
    (queueAt_modTag h t (answered r))), tagAt_modTag ..⟩

end Record

end Sys2Proof.Answering
end

section
/-! Dispatch of a held command: what ends it, and the job that is made of it (R22, R23, R142, R144). -/

namespace Sys2Proof.Dispatch

open Sys2Proof Sys2Proof.Machine Sys2Proof.Answering Sys2Proof.Stillness

/-! ### Registers filled from a list (R23) -/

section Registers

/-- The general registers filled from a list of numbers and values. -/
def filled (g : Tab Word) (r : List (Nat × Word)) : Tab Word := r.foldl (fun g r => tabSet 0 g r.1 r.2) g

theorem filled_absent {k : Nat} (r : List (Nat × Word)) (g : Tab Word) (h : k ∉ r.map Prod.fst) :
    tabGetD (filled g r) k 0 = tabGetD g k 0 := by
  induction r generalizing g with
  | nil => rfl
  | cons x r ih =>
    rw [List.map_cons, List.mem_cons, not_or] at h
    exact (ih _ h.2).trans (tabGetD_tabSet_ne _ _ _ _ h.1)

theorem filled_present {k : Nat} {w : Word} (r : List (Nat × Word)) (g : Tab Word) (hn : (r.map Prod.fst).Nodup) (h : (k, w) ∈ r) :
    tabGetD (filled g r) k 0 = w := by
  induction r generalizing g with
  | nil => cases h
  | cons x r ih =>
    rw [List.map_cons, List.nodup_cons] at hn
    rcases List.mem_cons.1 h with rfl | hr
    · exact (filled_absent r _ hn.1).trans (tabGetD_tabSet_self ..)
    · exact ih _ hn.2 hr

end Registers

/-! ### The job of a command (R23) -/

/-- The registers a command's job starts with. -/
def commandRegs (c : Cmd) (nonce : Word) : List (Nat × Word) :=
  (List.range 8).map (fun i => (i + 1, c.args.getD i 0)) ++
    [(9, BitVec.ofNat 64 c.inLen), (10, c.rights), (11, c.tb), (12, BitVec.ofNat 64 c.slot), (13, nonce), (14, c.srcUa.setWidth 64)]

theorem commandRegs_keys (c : Cmd) (nonce : Word) :
    (commandRegs c nonce).map Prod.fst = [1, 2, 3, 4, 5, 6, 7, 8, 9, 10, 11, 12, 13, 14] := rfl

/-- The handles of its capsule and of its payloads. -/
def commandHandles (c : Cmd) (hcap : Nat) (out : Option Nat) : Tab Handle :=
  (0, { buf := hcap, off := 0, len := c.capsule.length, rw := false, origin := .other }) ::
    ((match c.buf with
      | some b => if c.inLen = 0 then [] else [(1, { buf := b, off := 0, len := c.inLen, rw := false, origin := .h1 })]
      | none => []) ++
    match out with
      | some b => [(2, { buf := b, off := 0, len := c.outLen, rw := true, origin := .h2 })]
      | none => [])

/-- The job of a command. -/
def commandJob (hq tag : Nat) (nonce : Word) (c : Cmd) (v budget : Nat) (p : Program) (hcap : Nat) (out : Option Nat) : Job :=
  { freshJob .command (hqSlate hq) c.slot v p.keep budget with
    hq := hq, tag := tag, nonce := nonce, cls := c.cls, g := filled [] (commandRegs c nonce), h := commandHandles c hcap out, outBuf := out
    jid := jidOf .command hq tag p.keep c.host.toNat, buffers := hcap :: (c.buf.toList ++ out.toList) }

/-- A new job that joins the dispatch queue. -/
theorem jobOf_toDispatch {s : State} {l : Tab Job} {id : Nat} {j : Job} (h : s.jobs = tabPut l id j) :
    jobOf (toDispatch s id) id = some { j with phase := .waitingThread, readyTb := now s j.slate } := by
  have hj : jobOf s id = some j := (congrArg (tabGet · id) h).trans (tabGet_tabPut_self ..)
  unfold toDispatch
  rw [hj]
  exact jobOf_putJob_self ..

/-- A dispatch adds the command's job, with an outbound buffer where the command expects a payload. -/
theorem jobOf_dispatchJob (s : State) (hq tag : Nat) (nonce : Word) (c : Cmd) (v : Nat) (p : Program) :
    ∃ hcap out, (c.outLen = 0 → out = none) ∧ (c.outLen ≠ 0 → ∃ b, out = some b) ∧
      jobOf (dispatchJob s hq tag nonce c v p).1 s.nextJob =
        some { commandJob hq tag nonce c v (startBudget s (hqSlate hq) p) p hcap out with readyTb := now s (hqSlate hq) } := by
  by_cases ho : c.outLen = 0
  · refine ⟨s.nextBuf, none, fun _ => rfl, fun h => (h ho).elim, ?_⟩
    simp only [dispatchJob, outBuffer, ho, if_true]
    refine (jobOf_congr (jobs_of_still (still_countSrc ..)) _).trans ((jobOf_toDispatch rfl).trans ?_)
    rfl
  · refine ⟨s.nextBuf, some (s.nextBuf + 1), fun h => (ho h).elim, fun _ => ⟨_, rfl⟩, ?_⟩
    simp only [dispatchJob, outBuffer, ho, if_false]
    refine (jobOf_congr (jobs_of_still (still_countSrc ..)) _).trans ((jobOf_toDispatch rfl).trans ?_)
    rfl

/-! ### COMMAND_DISPATCH (R142, R144) -/

/-- What holds a HELD command back: an earlier conflicting entry, PS2 on class 7, a stopped unit on every other class. -/
def stalled (s : State) (hq tag : Nat) (c : Cmd) : Bool :=
  (s.hazards.filter fun h => h.hq == hq && h.tag == tag && h.job.isNone).any (hazBlocked s) || psHolds s c ||
    (unitStopped s && c.cls != 7)

theorem stalled_iff (s : State) (hq tag : Nat) (c : Cmd) :
    stalled s hq tag c = true ↔
      (∃ h ∈ s.hazards, (h.hq = hq ∧ h.tag = tag ∧ h.job = none) ∧ hazBlocked s h = true) ∨ (s.power.now = 2 ∧ c.cls = 7) ∨
        (unitStopped s = true ∧ c.cls ≠ 7) := by
  simp only [stalled, psHolds, Bool.or_eq_true, List.any_filter, List.any_eq_true, Bool.and_eq_true, beq_iff_eq, bne_iff_ne, or_assoc,
    Option.isNone_iff_eq_none, and_assoc]

section Command

variable {s : State} {hq tag : Nat} {q : Queue} {c : Cmd} (hq' : queueAt s hq = some q) (hst : (tagAt q tag).st = .held)
  (hc : (tagAt q tag).cmd = some c)

include hq' hst hc

theorem tryDispatch_stalled (hh : stalled s hq tag c = true) : tryDispatch s hq tag = s := by
  unfold tryDispatch
  simp only [hq', hst, hc]
  exact if_pos hh

variable (hh : stalled s hq tag c = false)

include hh

theorem tryDispatch_refused {st : Status} (hd : dispatchCheck s c = some st) :
    tryDispatch s hq tag = freeBufs (recordResp (releaseTag s hq tag ((tagAt q tag).last.getD 0).toNat) hq tag
      ((tagAt q tag).last.getD 0) (respOf st [0, 0, 0, 0]) c none) c.buf.toList := by
  unfold tryDispatch
  simp only [hq', hst, hc, hd]
  exact if_neg (Bool.eq_false_iff.1 hh)

theorem tryDispatch_dispatched {v : Nat} {p : Program} (hd : dispatchCheck s c = none) (hp : slotProg s c.slot = some (v, p)) :
    tryDispatch s hq tag = (dispatchJob s hq tag ((tagAt q tag).last.getD 0) c v p).1 := by
  unfold tryDispatch
  simp only [hq', hst, hc, hd, hp]
  exact if_neg (Bool.eq_false_iff.1 hh)

end Command

/-! ### The registers and handles of the job (R23) -/

section Registers

variable {j : Job} {c : Cmd} {nonce : Word} (hg : j.g = filled [] (commandRegs c nonce))

include hg

theorem rd_filled {k : Nat} {w : Word} (h : (k, w) ∈ commandRegs c nonce) {r : Reg} (hr : r.toNat = k) (h0 : k ≠ 0) : rd j r = w := by
  subst hr
  rw [rd, if_neg fun h => h0 (congrArg BitVec.toNat h), hg]
  exact filled_present _ _ (by rw [commandRegs_keys]; decide) h

theorem rd_filled_arg {i : Nat} (hi : i < 8) : rd j (BitVec.ofNat 5 (i + 1)) = c.args.getD i 0 :=
  rd_filled hg (List.mem_append_left _ (List.mem_map.2 ⟨i, List.mem_range.2 hi, rfl⟩)) (by rw [BitVec.toNat_ofNat]; omega) (by omega)

theorem rd_filled_rest {r : Reg} (hr : 15 ≤ r.toNat) : rd j r = 0 := by
  have hk : r.toNat ∉ (commandRegs c nonce).map Prod.fst := by
    rw [commandRegs_keys]
    simp only [List.mem_cons, List.not_mem_nil, or_false]
    omega
  unfold rd
  split
  · rfl
  · rw [hg]
    exact filled_absent _ _ hk

end Registers

theorem commandHandles_two (c : Cmd) (hcap : Nat) (out : Option Nat) : tabGet (commandHandles c hcap out) 2 =
    out.map fun b => { buf := b, off := 0, len := c.outLen, rw := true, origin := .h2 } := by
  unfold commandHandles
  cases c.buf <;> cases out <;> simp [tabGet] <;> split <;> rfl

/-- A command that fails a check of R22 ends with its status. -/
theorem dispatch_ends {s : State} {hq tag : Nat} {q : Queue} {c : Cmd} (hs : serving s (hqSlate hq) = true) (hq' : queueAt s hq = some q)
    (hst : (tagAt q tag).st = .held) (hc : (tagAt q tag).cmd = some c) (hb : hq ≠ bootQueue) (hh : stalled s hq tag c = false)
    {st : Status} (hd : dispatchCheck s c = some st) : Answers (.commandDispatch hq tag) s fun u => u.jobs = s.jobs ∧
      ∃ q', queueAt u hq = some q' ∧ (tagAt q' tag).st = .done ∧ (tagAt q' tag).resp = some (respOf st [0, 0, 0, 0]) := by
  refine ⟨_, onSlate_serving (fun s => tryDispatch s hq tag) hs, ?_⟩
  rw [tryDispatch_refused hq' hst hc hh hd]
  obtain ⟨q', hq1, hq2⟩ := queueAt_recordResp (releaseTag s hq tag ((tagAt q tag).last.getD 0).toNat) hq tag
    ((tagAt q tag).last.getD 0) (respOf st [0, 0, 0, 0]) c none hq' hb
  have hj := jobs_of_unqueued (unqueued_recordResp (releaseTag s hq tag ((tagAt q tag).last.getD 0).toNat) hq tag
    ((tagAt q tag).last.getD 0) (respOf st [0, 0, 0, 0]) c none)
  exact ⟨hj, q', hq1, congrArg Tag.st hq2, congrArg Tag.resp hq2⟩

/-- Settles O29: a held command waits, ends at a check of R22, or becomes the job of R23. -/
theorem commandDispatches : Obligations.CommandDispatches := by
  unfold Obligations.CommandDispatches
  intro s hq tag q c hs hq' hst hc hb sl mine held ends
  have hiff : stalled s hq tag c = true ↔ held := stalled_iff s hq tag c
  have free (h : ¬ held) : stalled s hq tag c = false := Bool.eq_false_iff.2 fun hx => h (hiff.1 hx)
  have refused (h : ¬ held) {st : Status} (hd : dispatchCheck s c = some st) : ends st := dispatch_ends hs hq' hst hc hb (free h) hd
  refine ⟨fun h => (onSlate_serving (fun s => tryDispatch s hq tag) hs).trans (congrArg _ (tryDispatch_stalled hq' hst hc (hiff.2 h))),
    fun h hp => refused h (by simp only [dispatchCheck, hp]), fun h v p hp => ⟨fun hr => refused h ?_, fun hk ha => ?_⟩⟩
  · rcases hr with hr | ⟨hr, hx⟩
    · simp only [dispatchCheck, hp, hr, if_true]
    · simp only [dispatchCheck, hp, hr, adminRight, hx]
      simp
  have hd : dispatchCheck s c = none := by
    have hka : (p.keep && !adminRight c.rights) = false := by
      cases hkp : p.keep
      · rfl
      · simp [adminRight, ha hkp]
    simp only [dispatchCheck, hp, hk, hka, Bool.false_eq_true, if_false]
  obtain ⟨hcap, out, ho, ho', hj⟩ := jobOf_dispatchJob s hq tag ((tagAt q tag).last.getD 0) c v p
  refine ⟨_, onSlate_serving (fun s => tryDispatch s hq tag) hs, ?_⟩
  rw [tryDispatch_dispatched hq' hst hc (free h) hd hp]
  refine ⟨_, hj, rfl, rfl, rfl, rfl, rfl, rfl, rfl, rfl, rfl, rfl, rfl, rfl, rfl, rfl, fun i hi => rd_filled_arg rfl hi,
    ?_, ?_, ?_, ?_, ?_, ?_, fun r hr => rd_filled_rest rfl hr, ⟨_, rfl, rfl, rfl⟩, fun hx => ?_, fun hx => ?_⟩
  iterate 6 · exact rd_filled rfl (List.mem_append_right _ (by simp)) rfl (by decide)
  · exact (commandHandles_two ..).trans (by rw [ho hx]; rfl)
  · obtain ⟨b, rfl⟩ := ho' hx
    exact ⟨_, commandHandles_two c hcap (some b), rfl, rfl, rfl⟩

end Sys2Proof.Dispatch
end

section
/-! A housekeeping trap whose restart is lost (R37).

The statement of O30 leaves the number of the housekeeping thread free. HK_EN 17 would be bit 16 of entry 0x21 of the ENGINE space,
which holds EV_MERGED: the trap's own HK_TRAP, merged with a pending one, carries into that bit before it is judged. -/

namespace Sys2Proof.MergedTrap

open Sys2Proof Sys2Proof.Machine

/-- A program of one word and its last. -/
def shortProgram : Program :=
  { slot := 0xF8, keep := true, key := 0, budget := 0, version := 1, words := [0, 0], extWords := [], measure := [] }

/-- A job of a housekeeping thread that does not exist, on housekeeping thread 0. -/
def strayJob : Job := { freshJob (.housekeeping 17) 0 0xF8 0 true 0 with phase := .running 163 }

/-- The thread the job is on. -/
def strayThread : Thread := { slate := 0, idx := 163 }

/-- A unit of two slates that runs the job and nothing else. -/
def runsStray : State :=
  { State.reset with
    n := 2, mod := { State.reset.mod with power := .running }, jobs := [(0, strayJob)], nextJob := 1, threads := [(163, 0)]
    progs := [(0, shortProgram)], slots := [(0xF8, 0)] }

/-- HK_TRAP is pending, and one more merged event carries into bit 16 of EV_MERGED. -/
def aboutToCarry : State := setF (setF runsStray 0 F.ENGINE.EV_MERGED 0x1FFFF) 0 (fPend Ev.HK_TRAP) 1

theorem stray_issues : Issues aboutToCarry strayThread 0 strayJob 1 where
  serves := by decide +kernel
  onThread := rfl
  job := rfl
  slate := rfl
  phase := rfl
  ready := ⟨rfl, rfl⟩
  budget := .inl rfl
  pc := by decide +kernel
  opcode := by decide +kernel
  len := .inl rfl

/-- The restart an outcome holds under a key. -/
def restartOf (o : Out) (k : Nat) : Option Nat :=
  match o with
  | .next u => tabGet u.hkRestart k
  | _ => none

/-- The trap of the job. -/
def strayTrap : Instr := .trap { t := strayThread, d := 0, a := 0, imm := 0 }

theorem stray_unrestarted : restartOf (exec strayTrap aboutToCarry) 17 = none := by decide +kernel

/-- Refutes O30: in `aboutToCarry`, where HK_EN 17 reads 1, the trap of housekeeping thread 17 carries EV_MERGED into that bit, and no
restart is timed. -/
theorem not_budgetAndJobEnd : ¬ Obligations.BudgetAndJobEnd := by
  unfold Obligations.BudgetAndJobEnd
  rintro ⟨-, -, h⟩
  have hen : isF aboutToCarry strayThread.slate (F.ENGINE.HK_EN 17) = true := by decide +kernel
  obtain ⟨u, he, -, hr⟩ := h aboutToCarry strayThread 0 strayJob 17 0 stray_issues rfl hen
  have hn : tabGet u.hkRestart 17 = none := (congrArg (restartOf · 17) he).symm.trans stray_unrestarted
  exact absurd (hn.symm.trans hr) nofun

end Sys2Proof.MergedTrap
end

section
/-! Housekeeping programs start afresh, event waits end, and launches take their frames (R37 to R40, R46, R71). -/

namespace Sys2Proof.Housekeeping

open Sys2Proof Sys2Proof.Machine Sys2Proof.Reporting Sys2Proof.Ports Sys2Proof.Selectors Sys2Proof.Stillness Sys2Proof.Dispatch

/-! ### A housekeeping program starts (R37) -/

/-- The job a housekeeping program starts with. -/
def programJob (sl n slot v : Nat) : Job := { freshJob (.housekeeping n) sl slot v true 0 with phase := .running (163 + 4 * n) }

theorem openBypass_eq (s : State) (sl slot : Nat) : ∃ c, openBypass s sl slot = { s with chain := c } := by
  unfold openBypass
  split
  · exact ⟨_, rfl⟩
  · exact ⟨s.chain, rfl⟩

/-- A housekeeping thread with a KEEP program in its slot runs a fresh job, and no restart is due. -/
theorem hkStart_starts {s : State} {sl n slot v : Nat} {p : Program} (hs : getF s sl (F.ENGINE.HK_SLOT n) = slot)
    (hp : slotProg s slot = some (v, p)) (hk : p.keep = true) :
    jobOn (hkStart s sl n) (hkThread sl n) = some s.nextJob ∧ jobOf (hkStart s sl n) s.nextJob = some (programJob sl n slot v) ∧
      tabGet (hkStart s sl n).hkRestart (sl * 8 + n) = none := by
  have hp' : slotProg { s with hkRestart := tabDel s.hkRestart (sl * 8 + n) } slot = some (v, p) := hp
  simp only [hkStart, hs, hp', hk, if_true, addJob]
  obtain ⟨c, hc⟩ := openBypass_eq { s with
    hkRestart := tabDel s.hkRestart (sl * 8 + n), jobs := tabPut s.jobs s.nextJob (programJob sl n slot v), nextJob := s.nextJob + 1
    threads := tabPut s.threads (threadKey (hkThread sl n)) s.nextJob } sl slot
  exact hc ▸ ⟨tabGet_tabPut_self .., tabGet_tabPut_self .., tabGet_tabDel_self ..⟩

/-! ### HK_TRAP_RESTART (R37) -/

section TrapRestart

variable {s : State} {sl n tb : Nat} (hs : serving s sl = true) (ht : jobOn s (hkThread sl n) = none)
  (hr : tabGet s.hkRestart (sl * 8 + n) = some tb)

include hs hr

theorem hkTrapRestart_early (hn : now s sl < tb) : exec (.hkTrapRestart sl n) s = .next s := by
  have arm : exec (.hkTrapRestart sl n) s = execHkTrapRestart sl n s := rfl
  rw [arm]
  refine (onSlate_serving _ hs).trans ?_
  simp [hr, hn]

include ht

theorem hkTrapRestart_due (hn : tb ≤ now s sl) : exec (.hkTrapRestart sl n) s = .next
    (if isF s sl (F.ENGINE.HK_EN n) then hkStart s sl n else { s with hkRestart := tabDel s.hkRestart (sl * 8 + n) }) := by
  have arm : exec (.hkTrapRestart sl n) s = execHkTrapRestart sl n s := rfl
  have hth : tabHas s.threads (threadKey (hkThread sl n)) = false := by simpa [tabHas, jobOn] using ht
  rw [arm]
  refine (onSlate_serving _ hs).trans ?_
  simp [hr, hth, Nat.not_lt.2 hn]

end TrapRestart

/-! ### HK_RESTART (R37, R46) -/

theorem fieldMap_housekeeping (m sl : Nat) {n : Nat} (hn : n < 8) : fieldMap m sl 0x02 (0x10 + n) =
    [⟨F.ENGINE.HK_SLOT n, .rw, 0xF8 + n⟩, ⟨F.ENGINE.HK_EN n, .rw, 1⟩, ⟨F.ENGINE.HK_RESTART n, .wo, 0⟩, ⟨F.ENGINE.HK_STATE n, .r, 0⟩,
      ⟨F.ENGINE.HK_TRAPS n, .rs, 0⟩] := by
  have h0 : ¬ 0xF00 ≤ 0x10 + n := by omega
  have h1 : 0x10 ≤ 0x10 + n ∧ 0x10 + n < 0x18 := by omega
  have h2 : 0x10 + n ≠ 0 ∧ 0x10 + n ≠ 1 ∧ 0x10 + n ≠ 2 := by omega
  have h3 : slate0Only 0x02 (0x10 + n) = false := by simp [slate0Only]
  simp only [fieldMap, h0, h3, if_false, Bool.false_and, Bool.false_eq_true, fieldsEngine, h1, h2, and_self, if_true,
    Nat.add_sub_cancel_left]

/-- A housekeeping entry as written. -/
def setUp (s : State) (sl n : Nat) (x : Word) : State :=
  setF (setF s sl (F.ENGINE.HK_SLOT n) (fv x (F.ENGINE.HK_SLOT n))) sl (F.ENGINE.HK_EN n) (fv x (F.ENGINE.HK_EN n))

theorem storeFields_housekeeping (s : State) (sl : Nat) {n : Nat} (hn : n < 8) (x : Word) :
    storeFields s sl 0x02 (0x10 + n) x = setUp s sl n x := by
  rw [storeFields, fieldMap_housekeeping _ _ hn]
  rfl

theorem act_housekeeping (old s : State) (sl : Nat) {n : Nat} (hn : n < 8) {x : Word} (hx : isV x (F.ENGINE.HK_RESTART n) = true) :
    (act old s sl 0x02 (0x10 + n) x false).1 = hkRestartNow s sl n := by
  have h0 : ¬ 0xF00 ≤ 0x10 + n := by omega
  have h1 : 0x10 ≤ 0x10 + n ∧ 0x10 + n < 0x18 := by omega
  rw [act, fieldMap_housekeeping _ _ hn]
  simp only [List.isEmpty_cons, Bool.false_eq_true, if_false, h0, actEngine, h1, and_self, if_true, Nat.add_sub_cancel_left, hx]

theorem getF_setUp_slot (s : State) (sl n : Nat) (x : Word) : getF (setUp s sl n x) sl (F.ENGINE.HK_SLOT n) = fv x (F.ENGINE.HK_SLOT n) := by
  rw [setUp, getF_setF_field _ sl (F.ENGINE.HK_EN n) (F.ENGINE.HK_SLOT n) _ rfl rfl (by simp [F.ENGINE.HK_EN])
    (.inl (by simp [F.ENGINE.HK_EN, F.ENGINE.HK_SLOT])), getF_setF_fits (by simp [F.ENGINE.HK_SLOT]) (fv_lt ..)]

theorem getF_setUp_en (s : State) (sl n : Nat) (x : Word) : getF (setUp s sl n x) sl (F.ENGINE.HK_EN n) = fv x (F.ENGINE.HK_EN n) := by
  rw [setUp, getF_setF_fits (by simp [F.ENGINE.HK_EN]) (fv_lt ..)]

/-- The state with no restart of a housekeeping thread due. -/
def undue (s : State) (sl n : Nat) : State := { s with hkRestart := tabDel s.hkRestart (sl * 8 + n) }

theorem getF_undue (s : State) (sl n : Nat) (f : Fld) : getF (undue s sl n) sl f = getF s sl f := getF_congr rfl rfl sl f

/-- A housekeeping thread whose traps are forgotten and that no restart is due for. -/
def cleared (s : State) (sl n : Nat) : State := undue (setF s sl (F.ENGINE.HK_TRAPS n) 0) sl n

theorem getF_cleared (s : State) (sl n : Nat) {f : Fld} (hs : f.sp = 2) (he : f.e = 0x10 + n) (hd : f.lo + f.w ≤ 32) :
    getF (cleared s sl n) sl f = getF s sl f :=
  (getF_undue ..).trans (getF_setF_field s sl (F.ENGINE.HK_TRAPS n) f 0 hs he (by simp [F.ENGINE.HK_TRAPS]) (.inl hd))

theorem hkRestartNow_idle {s : State} {sl n : Nat} (ht : jobOn s (hkThread sl n) = none) (he : getF s sl (F.ENGINE.HK_EN n) = 1) :
    hkRestartNow s sl n = hkStart (cleared s sl n) sl n := by
  have ht' : tabGet (setF s sl (F.ENGINE.HK_TRAPS n) 0).threads (threadKey (hkThread sl n)) = none := by
    rw [setF_threads]
    exact ht
  have hen : isF (cleared s sl n) sl (F.ENGINE.HK_EN n) = true := by
    rw [isF, getF_cleared _ _ _ rfl rfl (by simp [F.ENGINE.HK_EN]), he]
    rfl
  unfold hkRestartNow
  simp only [ht']
  exact if_pos hen

/-! The parts of the state in which a restarted program starts. -/

section Restarted

variable (s : State) (sl n : Nat) (x : Word)

theorem undue_frame : (undue s sl n).nextJob = s.nextJob ∧ (undue s sl n).slots = s.slots ∧ (undue s sl n).progs = s.progs :=
  ⟨rfl, rfl, rfl⟩

theorem restarted_frame : (cleared (setUp s sl n x) sl n).nextJob = s.nextJob ∧ (cleared (setUp s sl n x) sl n).slots = s.slots ∧
    (cleared (setUp s sl n x) sl n).progs = s.progs := by
  obtain ⟨hj, hs, hp⟩ := undue_frame (setF (setUp s sl n x) sl (F.ENGINE.HK_TRAPS n) 0) sl n
  rw [cleared, hj, hs, hp, setUp]
  simp only [setF_nextJob, setF_slots, setF_progs, and_self]

theorem nextJob_restarted : (cleared (setUp s sl n x) sl n).nextJob = s.nextJob := (restarted_frame s sl n x).1

theorem slotProg_restarted (slot : Nat) : slotProg (cleared (setUp s sl n x) sl n) slot = slotProg s slot := by
  obtain ⟨-, hs, hp⟩ := restarted_frame s sl n x
  rw [slotProg, hs, hp, slotProg]

theorem getF_restarted_slot : getF (cleared (setUp s sl n x) sl n) sl (F.ENGINE.HK_SLOT n) = fv x (F.ENGINE.HK_SLOT n) :=
  (getF_cleared _ sl n rfl rfl (by simp [F.ENGINE.HK_SLOT])).trans (getF_setUp_slot ..)

end Restarted

section Restart

variable {s : State} {sl n : Nat} {w : Word} (hs : serving s sl = true) (hn : n < 8)

include hs hn

theorem exec_hkRestart : exec (.hkRestart sl n w) s = .next (regWrite s sl 0x02 (0x10 + n) (withF w (F.ENGINE.HK_RESTART n) 1)) := by
  have arm : exec (.hkRestart sl n w) s = execHkRestart sl n w s := rfl
  rw [arm]
  exact (onSlate_serving _ hs).trans (congrArg _ (if_pos hn))

/-- An idle thread that is restarted with HK_EN 1 starts its program. -/
theorem hkRestart_starts (ht : jobOn s (hkThread sl n) = none) {x : Word} (hx : withF w (F.ENGINE.HK_RESTART n) 1 = x)
    (hl : legal s sl 0x02 (0x10 + n) x = true) (he : fv x (F.ENGINE.HK_EN n) = 1) :
    exec (.hkRestart sl n w) s = .next (hkStart (cleared (setUp s sl n x) sl n) sl n) := by
  have hr : isV x (F.ENGINE.HK_RESTART n) = true := by
    rw [← hx, isV, fv, withF, bits_setBits_self _ _ _ _ (by simp [F.ENGINE.HK_RESTART])]
    rfl
  have hth : jobOn (setUp s sl n x) (hkThread sl n) = none := by
    rw [jobOn, setUp, setF_threads, setF_threads]
    exact ht
  rw [exec_hkRestart hs hn, hx, regWrite_legal hl, storeFields_housekeeping _ _ hn, act_housekeeping _ _ _ hn hr,
    hkRestartNow_idle hth ((getF_setUp_en ..).trans he)]

end Restart

/-! ### Event waits end (R39, R71) -/

/-- The job whose wait for an event ends with `w`. -/
def woken (j : Job) (w : Word) : Job := { wr j j.dst w with wait := .none }

theorem woken_eq (j : Job) (w : Word) : woken j w = { j with g := (woken j w).g, wait := .none } := by
  unfold woken
  rw [wr_eq]

theorem rd_woken (j : Job) (w : Word) (x : Reg) : rd (woken j w) x = if x = 0 then 0 else if x = j.dst then w else rd j x :=
  rd_wr j j.dst x w

section Waits

variable {u : State} {id i : Nat} {j : Job}

/-- A housekeeping program, which keeps its thread, goes on in place. -/
theorem wake_running (hp : j.phase = .running i) (ht : (samplingOf u j.slate).tags = []) (w : Word) :
    wake u id (wr j j.dst w) = putJob u id (woken j w) := by
  have hs : sampleAfter (putJob u id (woken j w)) id = putJob u id (woken j w) :=
    sampleAfter_untagged (jobOf_putJob_self ..) (by rw [woken_eq]; exact ht)
  have hph : (wr j j.dst w).phase = .running i := by rw [wr_eq]; exact hp
  unfold wake
  rw [show ({ wr j j.dst w with wait := .none } : Job) = woken j w from rfl, hs]
  simp only [hph]

/-- A command that wakes a housekeeping program gives its job the result, and what was done to the state before stays. -/
theorem returns_of_wake {c : Instr} {s : State} {w : Word} (hp : j.phase = .running i) (ht : (samplingOf u j.slate).tags = [])
    (he : exec c s = .next (wake u id (wr j j.dst w))) {P : State → Prop} (hP : P (putJob u id (woken j w))) :
    Answers c s fun u => P u ∧ ∃ j', jobOf u id = some j' ∧ (∀ x, rd j' x = if x = 0 then 0 else if x = j.dst then w else rd j x) ∧
      j' = { j with g := j'.g, wait := .none } :=
  ⟨_, he.trans (congrArg _ (wake_running hp ht w)), hP, _, jobOf_putJob_self .., rd_woken j w, woken_eq j w⟩

end Waits

/-- The pointer of a thread that returns an event moves one past it (R39, R42). -/
theorem evwReturn_pointer (s : State) (sl n e id : Nat) : tabGetD (evwReturn s sl n e id).ptrs (ptrEvent sl n) 0 = (e + 1) % 2048 := by
  have hp : (evwReturn s sl n e id).ptrs = (setF (granted s (ptrEvent sl n) e 2048) sl (fPend e) 0).ptrs := by
    unfold evwReturn releaseHold
    dsimp only
  rw [hp, setF_ptrs]
  exact tabGetD_tabSet_self ..

section Return

variable {s : State} {sl n id : Nat} {j : Job} {d : Option Nat} (hs : serving s sl = true) (hj : jobOf s id = some j)
  (hk : j.kind = .housekeeping n) (hw : j.wait = .event d) (he : j.ended = none)

include hj hw he

include hs in
theorem exec_evwEventReturn (ho : jobOn s (hkThread sl n) = some id) {e : Nat} (hp : evwPick s sl n = some e) :
    exec (.evwEventReturn sl n) s = .next (wake (evwReturn s sl n e id) id (wr j j.dst (BitVec.ofNat 64 e))) := by
  have arm : exec (.evwEventReturn sl n) s = execEvwEventReturn sl n s := rfl
  rw [arm]
  refine (onSlate_serving _ hs).trans ?_
  simp only [ho, hj, hw, hp, he, Option.isSome_none, Bool.false_eq_true, if_false]

variable (h0 : serving s 0 = true)

include h0

omit he in
theorem evwTimeout_early {t : Nat} (hd : d = some t) (ht : now s j.slate < t) : exec (.evwTimeout id) s = .next s := by
  have arm : exec (.evwTimeout id) s = execEvwTimeout id s := rfl
  rw [arm]
  refine (onUnit_serving _ h0).trans ?_
  simp only [hj, hw, hd, ht, decide_true, Bool.or_true, Bool.true_or, if_true]

include hs hk

/-- An event that is pending as the deadline passes is returned. -/
theorem evwTimeout_returns (hsl : j.slate = sl) {t : Nat} (hd : d = some t) (ht : t ≤ now s sl) {e : Nat} (hp : evwPick s sl n = some e) :
    exec (.evwTimeout id) s = .next (wake (evwReturn s sl n e id) id (wr j j.dst (BitVec.ofNat 64 e))) := by
  have arm : exec (.evwTimeout id) s = execEvwTimeout id s := rfl
  rw [arm]
  refine (onUnit_serving _ h0).trans ?_
  simp only [hj, hw, hd, he, hsl, hs, hk, Nat.not_lt.2 ht, decide_false, Option.isSome_none, Bool.not_true, Bool.or_false,
    Bool.false_eq_true, if_false, hp]

theorem evwTimeout_expires (hsl : j.slate = sl) {t : Nat} (hd : d = some t) (ht : t ≤ now s sl) (hp : evwPick s sl n = none) :
    exec (.evwTimeout id) s = .next (wake (releaseHold s id) id (wr j j.dst evwExpired)) := by
  have arm : exec (.evwTimeout id) s = execEvwTimeout id s := rfl
  rw [arm]
  refine (onUnit_serving _ h0).trans ?_
  simp only [hj, hw, hd, he, hsl, hs, hk, Nat.not_lt.2 ht, decide_false, Option.isSome_none, Bool.not_true, Bool.or_false,
    Bool.false_eq_true, if_false, hp]

end Return

/-! ### Launches (R40) -/

/-- With no counter of a slate enabled nothing is counted (R330). -/
theorem countSrc_uncounted {s : State} {sl : Nat} (h : Uncounted s sl) (src v : Nat) : countSrc s sl src v = s := by
  unfold countSrc
  split
  · rfl
  · refine List.foldlRecOn (motive := (· = s)) _ _ rfl fun u hu k hk => ?_
    rw [hu, h.counters k (List.mem_range.1 hk)]
    rfl

/-- The state without the occurrence of an event. -/
def withdrawn (s : State) (sl e : Nat) : State := { s with evPend := tabDel s.evPend (evKey sl e) }

theorem getF_withdrawn (s : State) (sl e x : Nat) (f : Fld) : getF (withdrawn s sl e) x f = getF s x f := getF_congr rfl rfl x f

theorem withdrawn_uncounted {s : State} {sl : Nat} (h : Uncounted s sl) (e : Nat) : Uncounted (withdrawn s sl e) sl :=
  uncounted_congr (s := s) rfl rfl rfl h

theorem slotProg_withdrawn (s : State) (sl e slot : Nat) : slotProg (withdrawn s sl e) slot = slotProg s slot := rfl

theorem still_withdrawn (s : State) (sl e : Nat) : still (withdrawn s sl e) = still s := rfl

theorem slotProg_setF (s : State) (sl : Nat) (f : Fld) (v slot : Nat) : slotProg (setF s sl f v) slot = slotProg s slot := by
  rw [slotProg, setF_slots, setF_progs, slotProg]

/-- The state with an event no longer pending. -/
def unpended (s : State) (sl e : Nat) : State := withdrawn (setF s sl (fPend e) 0) sl e

theorem unpended_clears (s : State) (sl : Nat) {e : Nat} (he : e < 2048) : isF (unpended s sl e) sl (fPend e) = false := by
  obtain ⟨-, -, hw⟩ := fPend_inSpace he
  rw [isF, unpended, getF_withdrawn, getF_setF_self _ _ _ _ hw]
  simp

theorem unpended_uncounted {s : State} {sl e : Nat} (he : e < 2048) (h : Uncounted s sl) : Uncounted (unpended s sl e) sl := by
  obtain ⟨hs, hx, -⟩ := fPend_inSpace he
  have other {f : Fld} (hf : f.sp = 0x0F) (hf' : f.e < 4096) : isF (setF s sl (fPend e) 0) sl f = isF s sl f := by
    rw [isF, isF, getF_setF_ne ⟨hs, hx⟩ 0 ⟨by omega, hf'⟩ fun _ hsp => ?_]
    rw [hf] at hsp
    exact absurd hsp (by simp [fPend, F.ENGINE.PEND])
  have ht : (samplingOf (setF s sl (fPend e) 0) sl).tags = [] := by
    rw [samplingOf, setF_sampling]
    exact h.tags
  exact withdrawn_uncounted ⟨fun k hk => (other rfl (by simp [F.PERF.EN]; omega)).trans (h.counters k hk),
    (other rfl (by decide)).trans h.sampling, ht⟩ e

/-- The job a launch makes. -/
def launchedJob (sl e v budget : Nat) (o : Occurrence) (p : Program) : Job :=
  { freshJob .launched sl o.slot v p.keep budget with g := tabSet 0 (tabSet 0 [] 1 (BitVec.ofNat 64 e)) 11 (BitVec.ofNat 64 o.tb) }

theorem rd_launchedJob (sl e v budget : Nat) (o : Occurrence) (p : Program) :
    rd (launchedJob sl e v budget o p) 1 = BitVec.ofNat 64 e ∧ rd (launchedJob sl e v budget o p) 11 = BitVec.ofNat 64 o.tb := by
  constructor
  · exact (tabGetD_tabSet_ne _ _ _ _ (by decide)).trans (tabGetD_tabSet_self ..)
  · exact tabGetD_tabSet_self ..

/-- A new job joins the dispatch queue and is counted. -/
def launchJob (s : State) (sl : Nat) (j : Job) : State := countSrc (toDispatch (addJob s j).1 (addJob s j).2) sl srcDispatch 1

theorem toDispatch_frame (s : State) (id : Nat) :
    (toDispatch s id).ctl = s.ctl ∧ (toDispatch s id).n = s.n ∧ (toDispatch s id).sampling = s.sampling := by
  unfold toDispatch
  split <;> exact ⟨rfl, rfl, rfl⟩

theorem addJob_frame (s : State) (j : Job) :
    (addJob s j).1.ctl = s.ctl ∧ (addJob s j).1.n = s.n ∧ (addJob s j).1.sampling = s.sampling := ⟨rfl, rfl, rfl⟩

theorem addJob_jobs (s : State) (j : Job) : (addJob s j).1.jobs = tabPut s.jobs (addJob s j).2 j := rfl

/-- The job of a launch waits for a thread. -/
theorem jobOf_launchJob (s : State) (sl : Nat) (j : Job) :
    jobOf (launchJob s sl j) s.nextJob = some { j with phase := .waitingThread, readyTb := now (addJob s j).1 j.slate } :=
  (jobOf_congr (jobs_of_still (still_countSrc ..)) _).trans (jobOf_toDispatch (addJob_jobs s j))

theorem isF_launchJob {s : State} {sl : Nat} (h : Uncounted s sl) (j : Job) (f : Fld) : isF (launchJob s sl j) sl f = isF s sl f := by
  obtain ⟨hc, hn, hp⟩ := toDispatch_frame (addJob s j).1 (addJob s j).2
  obtain ⟨hc', hn', hp'⟩ := addJob_frame s j
  rw [launchJob, countSrc_uncounted (uncounted_congr (hc.trans hc') (hn.trans hn') (hp.trans hp') h)]
  exact isF_congr (hc.trans hc') (hn.trans hn') sl f

section Launch

variable {s : State} {sl e : Nat} {o : Occurrence} (hs : serving s sl = true) (hp : isF s sl (fPend e) = true)
  (ho : occOf s sl e = some o)

include hs ho in
theorem eventLaunch_idle (h : o.mode ≠ 2 ∨ 256 ≤ launchBusy s sl) : exec (.eventLaunch sl e) s = .next s := by
  have arm : exec (.eventLaunch sl e) s = execEventLaunch sl e s := rfl
  rw [arm]
  refine (onSlate_serving _ hs).trans ?_
  have hx : (!launchDue s sl e || decide (256 ≤ launchBusy s sl)) = true := by
    rcases h with h | h
    · simp [launchDue, ho, h]
    · simp [h]
  simp only [ho, hx, if_true]

include hs hp ho in
theorem exec_eventLaunch (hm : o.mode = 2) (hb : launchBusy s sl < 256) : exec (.eventLaunch sl e) s = .next (launch s sl e o) := by
  have arm : exec (.eventLaunch sl e) s = execEventLaunch sl e s := rfl
  rw [arm]
  refine (onSlate_serving _ hs).trans ?_
  have hx : (!launchDue s sl e || decide (256 ≤ launchBusy s sl)) = false := by
    simp [launchDue, ho, hp, hm, hb]
  simp only [ho, hx, Bool.false_eq_true, if_false]

theorem slotProg_unpended (s : State) (sl e slot : Nat) : slotProg (unpended s sl e) slot = slotProg s slot := by
  rw [unpended, slotProg_withdrawn, slotProg_setF]

theorem still_unpended (s : State) (sl e : Nat) : still (unpended s sl e) = still s := by rw [unpended, still_withdrawn, still_setF]

/-- What an abandoned launch leaves. -/
def abandoned (s : State) (sl e : Nat) : State :=
  if e = Ev.LAUNCH_FAIL then unpended s sl e else detect (unpended s sl e) sl Ev.LAUNCH_FAIL []

theorem still_abandoned (s : State) (sl e : Nat) : still (abandoned s sl e) = still s :=
  still_ite (still_unpended ..) ((still_detect _ sl (by decide) _).trans (still_unpended ..))

/-- What the launch of an occurrence depends on: its entry, its slot and the program there. -/
theorem launch_eq (s : State) (sl e : Nat) (o : Occurrence) : launch s sl e o =
    if !isF s sl (F.ENGINE.L_EN (o.target % 16)) || isHkSlot o.slot then abandoned s sl e
    else (slotProg (unpended s sl e) o.slot).elim (abandoned s sl e) fun x =>
      launchJob (unpended s sl e) sl (launchedJob sl e x.1 (startBudget (unpended s sl e) sl x.2) o x.2) := by
  unfold launch
  extract_lets en s1 s2 fail
  have hs : s2 = unpended s sl e := rfl
  have hf : fail = abandoned s sl e := rfl
  clear_value s1 s2 fail
  subst hs hf
  generalize unpended s sl e = u
  refine ite_congr rfl (fun _ => rfl) fun _ => ?_
  cases slotProg u o.slot with
  | none => rfl
  | some x =>
    obtain ⟨v, p⟩ := x
    rw [Option.elim_some]
    rfl

/-- A launch whose entry is disabled, or whose slot holds no program for it, makes no job. -/
theorem jobs_launch_abandoned (h : isF s sl (F.ENGINE.L_EN (o.target % 16)) = false ∨ isHkSlot o.slot = true ∨ slotProg s o.slot = none) :
    (launch s sl e o).jobs = s.jobs := by
  have ha : (abandoned s sl e).jobs = s.jobs := jobs_of_still (still_abandoned ..)
  rw [launch_eq]
  split
  · exact ha
  · next hc =>
    simp only [Bool.or_eq_true, Bool.not_eq_true', not_or, Bool.not_eq_false, Bool.not_eq_true] at hc
    rw [slotProg_unpended, (h.resolve_left (by simp [hc.1])).resolve_left (by simp [hc.2])]
    exact ha

theorem launch_makes (hl : isF s sl (F.ENGINE.L_EN (o.target % 16)) = true) (hk : isHkSlot o.slot = false) {v : Nat} {p : Program}
    (hv : slotProg s o.slot = some (v, p)) : launch s sl e o =
      launchJob (unpended s sl e) sl (launchedJob sl e v (startBudget (unpended s sl e) sl p) o p) := by
  rw [launch_eq, if_neg (by simp [hl, hk]), slotProg_unpended, hv, Option.elim_some]

end Launch

/-- Settles O31: restarts are `hkStart` on an idle thread, waits end by `wake`, and a launch is abandoned or adds its job. -/
theorem housekeepingAndEvents : Obligations.HousekeepingAndEvents := by
  unfold Obligations.HousekeepingAndEvents
  refine ⟨?_, ?_, ?_⟩
  · intro s sl n v p hs hn ht starts
    have of_hkStart {c : Instr} {u : State} {slot : Nat} (hx : exec c s = .next (hkStart u sl n)) (hu : u.nextJob = s.nextJob)
        (hsl : getF u sl (F.ENGINE.HK_SLOT n) = slot) (hp : slotProg u slot = some (v, p)) (hk : p.keep = true) : starts c slot := by
      obtain ⟨ho, hj, hr⟩ := hkStart_starts hsl hp hk
      rw [hu] at ho hj
      exact ⟨_, hx, _, ho, hj, rfl, rfl, rfl, rfl, rfl, rfl, rfl, rfl, hr⟩
    refine ⟨fun t hr => ⟨hkTrapRestart_early hs hr, fun hd he => ?_, fun hd he hp hk => ?_⟩, ?_⟩
    · exact ⟨_, (hkTrapRestart_due hs ht hr hd).trans (congrArg _ (if_neg (by simp [he]))), rfl, rfl, tabGet_tabDel_self ..⟩
    · exact of_hkStart ((hkTrapRestart_due hs ht hr hd).trans (congrArg _ (if_pos he))) rfl rfl hp hk
    · intro w x
      refine ⟨fun hl => (exec_hkRestart hs hn).trans (congrArg _ (regWrite_illegal hl)), fun hl he hp hk => ?_⟩
      exact of_hkStart (hkRestart_starts hs hn ht rfl hl he) (nextJob_restarted ..) (getF_restarted_slot ..)
        ((slotProg_restarted ..).trans hp) hk
  · intro s sl n id e j d hs h0 ho hj hsl hk hph hw he ht h2 returns
    have ht' : (samplingOf s j.slate).tags = [] := hsl ▸ ht
    have of_pick {c : Instr} (hx : exec c s = .next (wake (evwReturn s sl n e id) id (wr j j.dst (BitVec.ofNat 64 e)))) {P : State → Prop}
        (hP : P (putJob (evwReturn s sl n e id) id (woken j (BitVec.ofNat 64 e)))) : returns c (BitVec.ofNat 64 e) P :=
      returns_of_wake hph (by rw [samplingOf, evwReturn_sampling]; exact ht') hx hP
    have cleared : isF (putJob (evwReturn s sl n e id) id (woken j (BitVec.ofNat 64 e))) sl (fPend e) = false :=
      (congrArg (· == 1) (getF_putJob ..)).trans (evwReturn_clears s sl n id h2)
    refine ⟨fun hp => of_pick (exec_evwEventReturn hs hj hw he ho hp) ⟨cleared, evwReturn_pointer s sl n e id⟩, fun t hd =>
      ⟨fun hx => evwTimeout_early hj hw h0 hd (hsl ▸ hx), fun hx hp => ?_, fun hx hp => ?_⟩⟩
    · exact returns_of_wake (u := releaseHold s id) hph ht' (evwTimeout_expires hs hj hk hw he h0 hsl hd hx hp) rfl
    · exact of_pick (evwTimeout_returns hs hj hk hw he h0 hsl hd hx hp) cleared
  · intro s sl e v p o hs he hp ho hu k slot
    refine ⟨fun hm => eventLaunch_idle hs ho (.inl hm), fun _ hb => eventLaunch_idle hs ho (.inr hb), fun hm hb hl hk hv => ?_,
      fun hm hb h => ⟨_, exec_eventLaunch hs hp ho hm hb, jobs_launch_abandoned h⟩⟩
    have hi := (isF_launchJob (unpended_uncounted he hu) (launchedJob sl e v (startBudget (unpended s sl e) sl p) o p) (fPend e)).trans
      (unpended_clears s sl he)
    have hj := jobOf_launchJob (unpended s sl e) sl (launchedJob sl e v (startBudget (unpended s sl e) sl p) o p)
    obtain ⟨h1, h11⟩ := rd_launchedJob sl e v (startBudget (unpended s sl e) sl p) o p
    rw [nextJob_of_still (still_unpended ..)] at hj
    exact ⟨_, (exec_eventLaunch hs hp ho hm hb).trans (congrArg _ (launch_makes hl hk hv)), hi, _, hj, rfl, rfl, rfl, rfl, rfl, rfl, h1,
      h11, rfl⟩

end Sys2Proof.Housekeeping
end

section
/-! A command that stores no data and still writes device memory (R336, R337).

The second part of O26 asks that the thread's own slate counts and samples nothing. A job's sample goes to the job's slate, and nothing
in the statement makes that the thread's. -/

namespace Sys2Proof.StraySample

open Sys2Proof Sys2Proof.Machine

/-- A program of one word and its last. -/
def shortProgram : Program :=
  { slot := 0x300, keep := false, key := 0, budget := 0, version := 1, words := [0, 0], extWords := [], measure := [] }

/-- A job of slate 1. -/
def awayJob : Job := { freshJob .command 1 0x300 0 false 5 with phase := .running 4 }

/-- A thread of slate 0. -/
def homeThread : Thread := { slate := 0, idx := 4 }

/-- The job's instruction is sampled on slate 1. -/
def awayTag : SampleTag := { thread := 4, job := 0, word := 0, tb := 0, pc := 0, addr := 0, susp := false }

/-- A unit of two slates that runs the job of slate 1 on the thread of slate 0. -/
def runsAway : State :=
  { State.reset with
    n := 2, mod := { State.reset.mod with power := .running }, jobs := [(0, awayJob)], nextJob := 1, threads := [(4, 0)]
    progs := [(0, shortProgram)], slots := [(0x300, 0)], sampling := [(1, { lfsr := 0, count := 0, tags := [awayTag], seq := 0 })] }

/-- SUB on that thread. -/
def awaySub : Instr := .sub { t := homeThread, d := 0, a := 0, b := 0 }

theorem runsAway_uncounted : Uncounted runsAway homeThread.slate where
  counters k hk := by
    interval_cases k <;> decide +kernel
  sampling := by decide +kernel
  tags := by decide +kernel

/-- The device memory of an outcome, empty where there is no next state. -/
def memoryOf (o : Out) : Tab Byte :=
  match o with
  | .next u => u.hbm
  | _ => []

theorem awaySub_writes : memoryOf (exec awaySub runsAway) ≠ [] := by decide +kernel

/-- An outcome whose memory is not empty is a next state. -/
theorem next_of_memoryOf {o : Out} (h : memoryOf o ≠ []) : ∃ u, o = .next u ∧ u.hbm ≠ [] := by
  cases o with
  | next u => exact ⟨u, rfl, h⟩
  | _ => exact (h rfl).elim

/-- Refutes O26: SUB on a thread of slate 0, whose job is slate 1's and sampled there, writes the sample record to slate 1's memory. -/
theorem not_registerAndMemoryFrames : ¬ Obligations.RegisterAndMemoryFrames := by
  unfold Obligations.RegisterAndMemoryFrames
  rintro ⟨-, h⟩
  obtain ⟨u, he, hu⟩ := next_of_memoryOf awaySub_writes
  refine hu (h awaySub runsAway u rfl (fun t ht => ?_) he)
  cases ht
  exact runsAway_uncounted

end Sys2Proof.StraySample
end

section
/-! The form of a library program: it ends or waits, and what that and its records leave alone (R90, R148, R189, R192). -/

namespace Sys2Proof.LibraryForm

open Sys2Proof Sys2Proof.Machine Sys2Proof.Stillness Sys2Proof.Answering

/-! ### What records, commit points and drive commands leave alone -/

/-- The state without queues, journals and drives, beside what is not still. -/
def lasting (s : State) : State := { unqueued s with owners := [], ucn := 0, courses := [], members := [], nextCmd := 0 }

section Parts

variable {s t : State} (h : lasting t = lasting s)

include h

theorem admin_of_lasting : t.admin = s.admin := (congrArg State.admin h :)
theorem power_of_lasting : t.power = s.power := (congrArg State.power h :)
theorem slots_of_lasting : t.slots = s.slots := (congrArg State.slots h :)
theorem progs_of_lasting : t.progs = s.progs := (congrArg State.progs h :)
theorem cutover_of_lasting : t.cutover = s.cutover := (congrArg State.cutover h :)
theorem nextProg_of_lasting : t.nextProg = s.nextProg := (congrArg State.nextProg h :)

end Parts

theorem lasting_of_unqueued {s t : State} (h : unqueued t = unqueued s) : lasting t = lasting s :=
  congrArg (fun u : State => { u with owners := [], ucn := 0, courses := [], members := [], nextCmd := 0 }) h

theorem lasting_of_still {s t : State} (h : still t = still s) : lasting t = lasting s := lasting_of_unqueued (unqueued_of_still h)

theorem lasting_foldl {α : Type} {f : State → α → State} (l : List α) (s : State) (h : ∀ s a, lasting (f s a) = lasting s) :
    lasting (l.foldl f s) = lasting s :=
  List.foldlRecOn (motive := fun t => lasting t = lasting s) l f rfl fun t ht a _ => (h t a).trans ht

@[simp] theorem lasting_askCommit (s : State) (id : Nat) : lasting (askCommit s id).1 = lasting s := by
  unfold askCommit
  dsimp only
  repeat' split
  all_goals rfl

theorem lasting_putOwner (s : State) (o : Nat) (w : Owner) : lasting (putOwner s o w) = lasting s := rfl

theorem lasting_drawUcn (s : State) : lasting (drawUcn s).1 = lasting s := rfl

theorem lasting_noteUcn (s : State) (u : Nat) (b : RecBody) : lasting (noteUcn s u b) = lasting s := by
  unfold noteUcn
  split
  · split <;> rfl
  · rfl

theorem lasting_bump (s : State) (sl : Nat) (f : Fld) (k : Nat) : lasting (bump s sl f k) = lasting s :=
  lasting_of_still (still_bump ..)

theorem lasting_putRec (s : State) (o : Nat) (x : RecReq) : lasting (putRec s o x) = lasting s := by
  cases hd : x.draws with
  | true =>
    simp only [putRec, hd, if_true]
    exact (lasting_bump ..).trans ((lasting_putOwner ..).trans ((lasting_noteUcn ..).trans (lasting_drawUcn s)))
  | false =>
    simp only [putRec, hd, Bool.false_eq_true, if_false]
    exact (lasting_bump ..).trans (lasting_putOwner ..)

@[simp] theorem lasting_addReq (s : State) (o : Nat) (x : RecReq) : lasting (addReq s o x) = lasting s := by
  unfold addReq
  extract_lets w
  split
  · exact lasting_putRec ..
  · exact (lasting_of_still (still_detect _ o (by decide) _)).trans ((lasting_bump ..).trans (lasting_putOwner ..))

@[simp] theorem lasting_addPlainGroup (s : State) (ts : List TableItem) : lasting (addPlainGroup s ts).1 = lasting s :=
  (lasting_addReq ..).trans (lasting_foldl _ s fun _ _ => lasting_addReq ..)

theorem lasting_issueCmd (s : State) (m opcode lba : Nat) (use : DrvUse) (admin : Bool) (sqe : Block) (fua : Bool) :
    lasting (issueCmd s m opcode lba use admin sqe fua) = lasting s := by
  unfold issueCmd
  dsimp only
  split
  · rfl
  · exact (lasting_of_still (still_countSrc ..)).trans rfl

@[simp] theorem lasting_powerMembers (s : State) (deep : Bool) : lasting (powerMembers s deep) = lasting s :=
  lasting_foldl _ s fun _ _ => lasting_issueCmd ..

/-! ### The end and the wait of a library program (R90) -/

/-- The end of a job moves only its record, its thread and the queues it waits in. -/
theorem endLib_frame (s : State) (id : Nat) (st : Status) (words : List Word) :
    (endLib s id st words).admin = s.admin ∧ (endLib s id st words).power = s.power ∧ (endLib s id st words).slots = s.slots ∧
      (endLib s id st words).cutover = s.cutover ∧ (endLib s id st words).ctl = s.ctl ∧ (endLib s id st words).n = s.n := by
  unfold endLib endJob
  split <;> exact ⟨rfl, rfl, rfl, rfl, rfl, rfl⟩

theorem still_waitLib (s : State) (id : Nat) (j : Job) (w : Wait) (k : OnWake) :
    ∃ th j', still (waitLib s id j w k) = still (putJob { s with threads := th } id j') ∧
      j'.ended = j.ended ∧ j'.wait = w ∧ j'.onWake = k := by
  unfold waitLib suspendJob
  dsimp only
  split
  · exact ⟨s.threads, _, rfl, rfl, rfl, rfl⟩
  · exact ⟨_, _, still_countSrc .., rfl, rfl, rfl⟩

theorem waitLib_frame (s : State) (id : Nat) (j : Job) (w : Wait) (k : OnWake) :
    (waitLib s id j w k).admin = s.admin ∧ (waitLib s id j w k).power = s.power ∧ (waitLib s id j w k).slots = s.slots ∧
      (waitLib s id j w k).cutover = s.cutover ∧ (waitLib s id j w k).progs = s.progs := by
  obtain ⟨th, j', h, -⟩ := still_waitLib s id j w k
  exact ⟨(congrArg State.admin h :), (congrArg State.power h :), (congrArg State.slots h :), (congrArg State.cutover h :),
    (congrArg State.progs h :)⟩

section Runs

variable {c : Instr} {s : State} {slot id : Nat} {j : Job} {f : State → Job → State} (h : RunsLib s slot id j)

theorem not_ended (h : RunsLib s slot id j) : j.ended = none := by
  have := h.issue
  simp only [canIssue, Bool.and_eq_true, Option.isNone_iff_eq_none] at this
  exact this.1

include h

/-- A library program does its part. -/
theorem next_of_runs (arm : exec c s = onLib slot id s f) : exec c s = .next (f s j) := by
  rw [arm]
  refine (onUnit_serving _ h.unit).trans ?_
  simp [h.job, h.slot, h.issue, h.thread, h.slate]

variable (arm : exec c s = onLib slot id s f)

include arm

omit h arm in
theorem endsLib_of {u : State} {st : Status} {words : List Word} {P : State → Prop} (hx : exec c s = .next (endLib u id st words))
    (hu : jobOf u id = some j) (hP : P (endLib u id st words)) : EndsLib c s id st words P :=
  ⟨_, _, hx, Ending.jobOf_endJob_eq hu _ _, rfl, hP⟩

theorem ends_in {u : State} {st : Status} {words : List Word} {P : State → Prop} (hf : f s j = endLib u id st words)
    (hu : jobOf u id = some j) (hP : P (endLib u id st words)) : EndsLib c s id st words P :=
  endsLib_of ((next_of_runs h arm).trans (congrArg _ hf)) hu hP

/-- A program that ends at once. -/
theorem ends_here {st : Status} {words : List Word} {P : State → Prop} (hf : f s j = endLib s id st words)
    (hP : P (endLib s id st words)) : EndsLib c s id st words P := ends_in h arm hf h.job hP

theorem waits_in {u : State} {w : Wait} {k : OnWake} {P : State → Prop} (hf : f s j = waitLib u id j w k)
    (hP : P (waitLib u id j w k)) : WaitsLib c s id w k P := by
  obtain ⟨th, j', hs, he, hw, hk⟩ := still_waitLib u id j w k
  exact ⟨_, j', (next_of_runs h arm).trans (congrArg _ hf), (jobOf_congr (jobs_of_still hs) id).trans (jobOf_putJob_self ..),
    he.trans (not_ended h), hw, hk, hP⟩

end Runs

end Sys2Proof.LibraryForm
end

section
/-! Long-running administration and power states by command (R96 to R98, R153). -/

namespace Sys2Proof.Administration

open Sys2Proof Sys2Proof.Machine Sys2Proof.LibraryForm Sys2Proof.Stillness Sys2Proof.Answering

/-! ### An operation starts (R96) -/

/-- An operation as it starts. -/
def running (a : AdminOp) (ident : Word) : AdminOp := { a with state := 1, ident := ident }

/-- A job that may commit starts the operation and waits for its progress record. -/
theorem startAdmin_waits {s : State} {id : Nat} (hc : (askCommit s id).2 = true) (j : Job) (a : AdminOp) :
    ∃ u q x, startAdmin s id j a = waitLib u id j (.record 0 q) (.finish St.ok [x]) ∧ u.admin = running a x := by
  unfold startAdmin
  rw [show askCommit s id = ((askCommit s id).1, true) from Prod.ext rfl hc]
  exact ⟨_, _, _, rfl, rfl⟩

/-- Command `c` starts operation `op` for job `id`: its progress record is what the job waits for. -/
def Starts (c : Instr) (s : State) (id op : Nat) : Prop :=
  ∃ q w, WaitsLib c s id (.record 0 q) (.finish St.ok [w]) fun u =>
    u.admin.op = op ∧ u.admin.state = 1 ∧ u.admin.stage = 0 ∧ u.admin.ident = w

section Runs

variable {c : Instr} {s : State} {slot id : Nat} {j : Job} {f : State → Job → State} (h : RunsLib s slot id j)
  (arm : exec c s = onLib slot id s f)

include h arm

theorem starts_of (hc : (askCommit s id).2 = true) {a : AdminOp} (hf : f s j = startAdmin s id j a) (hst : a.stage = 0) :
    Starts c s id a.op := by
  obtain ⟨u, q, x, hx, ha⟩ := startAdmin_waits hc j a
  refine ⟨q, x, waits_in h arm (hf.trans hx) ?_⟩
  obtain ⟨hw, -⟩ := waitLib_frame u id j (.record 0 q) (.finish St.ok [x])
  rw [hw, ha]
  exact ⟨rfl, rfl, hst, rfl⟩

/-- A program that ends at once leaves the operation as it is. -/
theorem ends_idle {st : Status} {words : List Word} (hf : f s j = endLib s id st words) :
    EndsLib c s id st words fun u => u.admin = s.admin :=
  ends_here h arm hf (endLib_frame ..).1

/-- A program that ends at once leaves the power state as it is. -/
theorem ends_powered {st : Status} {words : List Word} (hf : f s j = endLib s id st words) :
    EndsLib c s id st words fun u => u.power = s.power :=
  ends_here h arm hf (endLib_frame ..).2.1

end Runs

/-! ### SANITIZE (R97) -/

section Sanitize

variable {s : State} {id : Nat} {j : Job} {rng : Bool} (h : RunsLib s 0x020 id j)

/-- The arguments of a SANITIZE are bad. -/
abbrev badSanitize (j : Job) : Prop :=
  (rd j 1).toNat = 0 ∨ 3 < (rd j 1).toNat ∨ ((rd j 1).toNat = 3 ∧ ((rd j 3).toNat = 0 ∨ 16 < (rd j 3).toNat ∨ 2 ^ 32 ≤ (rd j 2).toNat))

theorem sanitize_arm (s : State) (id : Nat) (rng : Bool) : exec (.sanitize ⟨id, rng⟩) s = execSanitize ⟨id, rng⟩ s := rfl

theorem unable_iff (s : State) (a : Nat) : ((serviceMembers s).any fun m => !bitOf (memberOf s m).sanCap a) = true ↔
    ¬ ∀ m ∈ serviceMembers s, bitOf (memberOf s m).sanCap a = true := by
  simp [List.any_eq_true]

include h

theorem sanitize_illegal (hb : badSanitize j ∨ ¬ ∀ m ∈ serviceMembers s, bitOf (memberOf s m).sanCap (rd j 1).toNat = true) :
    EndsLib (.sanitize ⟨id, rng⟩) s id St.illegalField [] fun u => u.admin = s.admin := by
  refine ends_idle h (sanitize_arm s id rng) ?_
  dsimp only
  split
  · rfl
  · next hn => exact if_pos ((unable_iff ..).2 (hb.resolve_left hn))

variable (hb : ¬ badSanitize j) (ha : ∀ m ∈ serviceMembers s, bitOf (memberOf s m).sanCap (rd j 1).toNat = true)

include hb ha

theorem sanitize_unserved (hu : poolServed s = false) :
    EndsLib (.sanitize ⟨id, rng⟩) s id St.notServing [] fun u => u.admin = s.admin := by
  refine ends_idle h (sanitize_arm s id rng) ?_
  dsimp only
  rw [if_neg hb, if_neg (mt (unable_iff ..).1 (not_not.2 ha)), if_pos (by simp [hu])]

variable (hu : poolServed s = true)

include hu

theorem sanitize_busy (hx : s.admin.state = 1 ∨ rng = false) :
    EndsLib (.sanitize ⟨id, rng⟩) s id St.busyRetry [] fun u => u.admin = s.admin := by
  refine ends_idle h (sanitize_arm s id rng) ?_
  dsimp only
  rw [if_neg hb, if_neg (mt (unable_iff ..).1 (not_not.2 ha)), if_neg (by simp [hu]), if_pos (by simpa using hx)]

theorem sanitize_starts (hx : ¬ s.admin.state = 1) (hr : rng = true) (hc : (askCommit s id).2 = true) :
    Starts (.sanitize ⟨id, rng⟩) s id 1 := by
  refine starts_of h (sanitize_arm s id rng) hc (a := { State.adminReset with
    op := 1, action := (rd j 1).toNat, pattern := (rd j 2).toNat, passes := (rd j 3).toNat, todo := serviceMembers s }) ?_ rfl
  dsimp only
  rw [if_neg hb, if_neg (mt (unable_iff ..).1 (not_not.2 ha)), if_neg (by simp [hu]), if_neg (by simp [hx, hr])]

end Sanitize

/-! ### FORMAT (R97) -/

section Format

variable {s : State} {id : Nat} {j : Job} (h : RunsLib s 0x021 id j)

theorem format_arm (s : State) (id : Nat) : exec (.format id) s = execFormat id s := rfl

include h

theorem format_illegal (ha : 1 < (rd j 1).toNat) : EndsLib (.format id) s id St.illegalField [] fun u => u.admin = s.admin := by
  refine ends_idle h (format_arm s id) ?_
  dsimp only
  split
  · omega
  · omega
  · rfl

section Volume

variable (ha : (rd j 1).toNat = 0)

include ha

theorem format_noVolume (hz : openSize s j.slate (rd j 2).toNat = none) : EndsLib (.format id) s id
    (if 4095 < (rd j 2).toNat ∨ poolServed s = true then St.outOfRange else St.notServing) [] fun u => u.admin = s.admin := by
  refine ends_idle h (format_arm s id) ?_
  simp only [ha, hz, Option.isNone_none, if_true]

variable {z : Nat} (hz : openSize s j.slate (rd j 2).toNat = some z)

include hz

theorem format_unserved (hu : poolServed s = false) : EndsLib (.format id) s id St.notServing [] fun u => u.admin = s.admin := by
  refine ends_idle h (format_arm s id) ?_
  simp only [ha, hz, hu, Option.isNone_some, Bool.false_eq_true, if_false, Bool.not_false, if_true]

variable (hu : poolServed s = true)

include hu

theorem format_busy (hb : s.admin.state = 1) : EndsLib (.format id) s id St.busyRetry [] fun u => u.admin = s.admin := by
  refine ends_idle h (format_arm s id) ?_
  simp only [ha, hz, hu, hb, Option.isNone_some, Bool.false_eq_true, if_false, Bool.not_true, if_true]

theorem format_starts (hb : ¬ s.admin.state = 1) (hc : (askCommit s id).2 = true) : Starts (.format id) s id 2 := by
  refine starts_of h (format_arm s id) hc (a := { State.adminReset with op := 2, volume := (rd j 2).toNat }) ?_ rfl
  simp only [ha, hz, hu, hb, Option.isNone_some, Bool.false_eq_true, if_false, Bool.not_true]

end Volume

section Unit

variable (ha : (rd j 1).toNat = 1)

include ha

theorem formatUnit_refused {st : Status} (hr : formatRefused s (rd j 2).toNat (rd j 3).toNat = some st) :
    EndsLib (.format id) s id st [] fun u => u.admin = s.admin := by
  refine ends_idle h (format_arm s id) ?_
  simp only [ha, hr]

variable (hr : formatRefused s (rd j 2).toNat (rd j 3).toNat = none)

include hr

theorem formatUnit_unserved (hu : poolServed s = false) : EndsLib (.format id) s id St.notServing [] fun u => u.admin = s.admin := by
  refine ends_idle h (format_arm s id) ?_
  simp only [ha, hr, hu, Bool.not_false, if_true]

variable (hu : poolServed s = true)

include hu

theorem formatUnit_busy (hb : s.admin.state = 1) : EndsLib (.format id) s id St.busyRetry [] fun u => u.admin = s.admin := by
  refine ends_idle h (format_arm s id) ?_
  simp only [ha, hr, hu, hb, Bool.not_true, Bool.false_eq_true, if_false, if_true]

theorem formatUnit_starts (hb : ¬ s.admin.state = 1) (hc : (askCommit s id).2 = true) : Starts (.format id) s id 3 := by
  refine starts_of h (format_arm s id) hc
    (a := { State.adminReset with op := 3, d := (rd j 2).toNat, s := (rd j 3).toNat }) ?_ rfl
  simp only [ha, hr, hu, hb, Bool.not_true, Bool.false_eq_true, if_false]

end Unit

end Format

/-! ### ADMIN_STATUS (R96) -/

theorem adminStatus_shows {s : State} {id : Nat} {j : Job} (h : RunsLib s 0x022 id j) : ∃ p < 2 ^ 16, (s.admin.op = 0 → p = 0) ∧
    EndsLib (.adminStatus id) s id St.ok [BitVec.ofNat 64 (s.admin.op + s.admin.state * 256), s.admin.ident, BitVec.ofNat 64 p,
      BitVec.ofNat 64 (s.admin.final.toNat + s.admin.failed * 2 ^ 32)] fun u => u.admin = s.admin := by
  have arm : exec (.adminStatus id) s = execAdminStatus id s := rfl
  by_cases ho : s.admin.op = 0
  · refine ⟨0, by decide, fun _ => rfl, ends_idle h arm ?_⟩
    simp only [ho, if_true]
  · refine ⟨bits (freeVal s) 0 16, bits_lt .., fun hx => (ho hx).elim, ends_in h arm (u := takeFree s) ?_ h.job (endLib_frame ..).1⟩
    simp only [ho, if_false]

/-! ### POWER_STATE (R98) -/

section Power

variable {s : State} {id : Nat} {j : Job} (h : RunsLib s 0x028 id j)

theorem powerState_arm (s : State) (id : Nat) : exec (.powerState id) s = execPowerState id s := rfl

include h

theorem powerState_beyond (ha : 2 < (rd j 1).toNat) : EndsLib (.powerState id) s id St.outOfRange [] fun u => u.power = s.power :=
  ends_powered h (powerState_arm s id) (if_pos ha)

variable (ha : (rd j 1).toNat ≤ 2)

include ha

theorem powerState_busy (hb : s.admin.state = 1) : EndsLib (.powerState id) s id St.busyRetry [] fun u => u.power = s.power := by
  refine ends_powered h (powerState_arm s id) ?_
  dsimp only
  rw [if_neg (Nat.not_lt.2 ha), if_pos hb]

variable (hb : ¬ s.admin.state = 1)

include hb

theorem powerState_entering (hn : (rd j 1).toNat ≠ s.power.now) (ht : s.power.target ≠ none) :
    EndsLib (.powerState id) s id St.busyRetry [] fun u => u.power = s.power := by
  refine ends_powered h (powerState_arm s id) ?_
  dsimp only
  rw [if_neg (Nat.not_lt.2 ha), if_neg hb, if_neg hn, if_pos (Option.isSome_iff_ne_none.2 ht)]

theorem powerState_there (hn : (rd j 1).toNat = s.power.now) :
    EndsLib (.powerState id) s id St.ok [BitVec.ofNat 64 (now s j.slate)] fun u => u.power = s.power := by
  refine ends_powered h (powerState_arm s id) ?_
  dsimp only
  rw [if_neg (Nat.not_lt.2 ha), if_neg hb, if_pos hn]

theorem powerState_waits (ht : s.power.target = none) (hn : (rd j 1).toNat ≠ s.power.now) :
    WaitsLib (.powerState id) s id .powerEntry .resume fun u => u.power = { s.power with target := some ((rd j 1).toNat, id) } := by
  have hp : (if (rd j 1).toNat = 2 then powerMembers s true else s).power = s.power := by
    split
    · exact power_of_lasting (lasting_powerMembers s true)
    · rfl
  refine waits_in h (powerState_arm s id) (by
    dsimp only
    rw [if_neg (Nat.not_lt.2 ha), if_neg hb, if_neg hn, if_neg (by simp [ht])]) ?_
  obtain ⟨-, hw, -⟩ := waitLib_frame { (if (rd j 1).toNat = 2 then powerMembers s true else s) with
    power := { (if (rd j 1).toNat = 2 then powerMembers s true else s).power with target := some ((rd j 1).toNat, id) } } id j .powerEntry .resume
  rw [hw, hp]

end Power

end Sys2Proof.Administration
end

section
/-! The program store and control-space access by command (R45, R99 to R102). -/

namespace Sys2Proof.ProgramStore

open Sys2Proof Sys2Proof.Machine Sys2Proof.LibraryForm Sys2Proof.Stillness Sys2Proof.Reporting

/-! ### A slot's change is recorded (R45) -/

/-- The state in which a slot is to change. -/
def cutting (s : State) (slot : Nat) (p : Option Nat) : State := { s with cutover := some { slot := slot, prog := p, tb := none } }

/-- The tables a slot's change is recorded in. -/
def slotTables (s : State) (slot : Nat) (p : Option Nat) : List TableItem :=
  manifestTables slot p (((p.bind (tabGet s.progs)).map (·.measure)).getD [])

theorem recordSlot_eq (s : State) (id : Nat) (j : Job) (slot : Nat) (p : Option Nat) : recordSlot s id j slot p =
    waitLib (addPlainGroup (cutting s slot p) (slotTables s slot p)).1 id j
      (.record 0 (addPlainGroup (cutting s slot p) (slotTables s slot p)).2) .cutProgram := by
  unfold recordSlot slotTables
  cases p.bind (tabGet s.progs) <;> rfl

theorem recordSlot_waits (s : State) (id : Nat) (j : Job) (slot : Nat) (p : Option Nat) :
    ∃ u q, recordSlot s id j slot p = waitLib u id j (.record 0 q) .cutProgram ∧ u.slots = s.slots ∧ u.progs = s.progs ∧
      u.cutover = some { slot := slot, prog := p, tb := none } := by
  have hl := lasting_addPlainGroup (cutting s slot p) (slotTables s slot p)
  exact ⟨_, _, recordSlot_eq .., (slots_of_lasting hl).trans rfl, (progs_of_lasting hl).trans rfl, cutover_of_lasting hl⟩

section Runs

variable {c : Instr} {s : State} {slot id : Nat} {j : Job} {f : State → Job → State} (h : RunsLib s slot id j)
  (arm : exec c s = onLib slot id s f)

include h arm

/-- A program that ends at once leaves the slots as they are. -/
theorem ends_stored {st : Status} {words : List Word} (hf : f s j = endLib s id st words) :
    EndsLib c s id st words fun u => u.slots = s.slots :=
  ends_here h arm hf (endLib_frame ..).2.2.1

theorem ends_uncut {st : Status} {words : List Word} (hf : f s j = endLib s id st words) :
    EndsLib c s id st words fun u => u.slots = s.slots ∧ u.cutover = s.cutover := by
  obtain ⟨-, -, hs, hc, -⟩ := endLib_frame s id st words
  exact ends_here h arm hf ⟨hs, hc⟩

/-- A program whose change of a slot is recorded waits for the record. -/
theorem waits_recorded {u : State} {x : Nat} {p : Option Nat} (hf : f s j = recordSlot u id j x p) :
    ∃ q, WaitsLib c s id (.record 0 q) .cutProgram fun v => v.slots = u.slots ∧ v.progs = u.progs ∧
      v.cutover = some { slot := x, prog := p, tb := none } := by
  obtain ⟨v, q, hv, hs, hp, hc⟩ := recordSlot_waits u id j x p
  obtain ⟨-, -, hs', hc', hp'⟩ := waitLib_frame v id j (.record 0 q) .cutProgram
  exact ⟨q, waits_in h arm (hf.trans hv) ⟨hs'.trans hs, hp'.trans hp, hc'.trans hc⟩⟩

end Runs

/-! ### PROGRAM_INSTALL (R99, R100) -/

section Install

variable {s : State} {id : Nat} {img : ProgImage} {j : Job} (h : RunsLib s 0x030 id j)

theorem install_arm (s : State) (id : Nat) (img : ProgImage) : exec (.programInstall id img) s = execProgramInstall id img s := rfl

include h

theorem install_bare (hh : tabGet j.h 1 = none) : EndsLib (.programInstall id img) s id St.illegalField [] fun u => u.slots = s.slots := by
  refine ends_stored h (install_arm s id img) ?_
  simp only [hh]

variable {x : Handle} (hh : tabGet j.h 1 = some x)

include hh

theorem install_waits (ha : arrived s x.buf x.off (x.off + (rd j 9).toNat) = false) : WaitsLib (.programInstall id img) s id
    (.payload x.buf x.off (x.off + (rd j 9).toNat)) .resume fun u => u.slots = s.slots := by
  refine waits_in h (install_arm s id img) (u := s) ?_ (waitLib_frame ..).2.2.1
  simp only [hh, ha, Bool.not_false, if_true]

variable (ha : arrived s x.buf x.off (x.off + (rd j 9).toNat) = true)

include ha

theorem install_refused {st : Status} (hc : installCheck s (handleRead s x 0 (rd j 9).toNat) (rd j 9).toNat img.sigOk = some st) :
    EndsLib (.programInstall id img) s id st [] fun u => u.slots = s.slots ∧ u.cutover = s.cutover := by
  refine ends_uncut h (install_arm s id img) ?_
  simp only [hh, ha, hc, Bool.not_true, Bool.false_eq_true, if_false]

variable (hc : installCheck s (handleRead s x 0 (rd j 9).toNat) (rd j 9).toNat img.sigOk = none)

include hc

theorem install_unwritten (hf : img.flashOk = false) : EndsLib (.programInstall id img) s id St.illegalField [] fun u =>
    u.cutover = s.cutover ∧ Detected u 0 Ev.FLASH_ERR := by
  obtain ⟨-, -, -, hcut, hctl, hn⟩ := endLib_frame (detect s 0 Ev.FLASH_ERR []) id St.illegalField []
  have hs : still (detect s 0 Ev.FLASH_ERR []) = still s := still_detect s 0 (by decide) []
  have hd := detect_detected s 0 (e := Ev.FLASH_ERR) (by decide) []
  refine ends_in h (install_arm s id img) (u := detect s 0 Ev.FLASH_ERR []) ?_ ((jobOf_congr (jobs_of_still hs) id).trans h.job)
    ⟨hcut.trans (congrArg State.cutover hs :), ?_⟩
  · simp only [hh, ha, hc, hf, Bool.not_true, Bool.not_false, Bool.false_eq_true, if_false, if_true]
  · unfold Detected at hd ⊢
    rwa [getF_congr hctl hn]

/-- The state with one more program version in the store. -/
def stored (s : State) (p : Program) : State := { s with progs := tabPut s.progs s.nextProg p, nextProg := s.nextProg + 1 }

theorem install_recorded (hf : img.flashOk = true) (hk : (askCommit s id).2 = true) :
    ∃ q, WaitsLib (.programInstall id img) s id (.record 0 q) .cutProgram fun u => u.slots = s.slots ∧
      u.cutover = some { slot := (imageProgram (handleRead s x 0 (rd j 9).toNat)).slot, prog := some s.nextProg, tb := none } ∧
      tabGet u.progs s.nextProg = some (measured (imageProgram (handleRead s x 0 (rd j 9).toNat))) := by
  have hl := lasting_askCommit s id
  obtain ⟨q, u, j', he, hj, hen, hw, ho, hs, hp, hcut⟩ := waits_recorded h (install_arm s id img)
    (u := stored (askCommit s id).1 (measured (imageProgram (handleRead s x 0 (rd j 9).toNat))))
    (x := (imageProgram (handleRead s x 0 (rd j 9).toNat)).slot) (p := some (askCommit s id).1.nextProg) (by
      simp only [hh, ha, hc, hf, hk, Bool.not_true, Bool.false_eq_true, if_false]
      rfl)
  have hs' : (stored (askCommit s id).1 (measured (imageProgram (handleRead s x 0 (rd j 9).toNat)))).slots = (askCommit s id).1.slots := rfl
  rw [nextProg_of_lasting hl] at hcut
  refine ⟨q, u, j', he, hj, hen, hw, ho, hs.trans (hs'.trans (slots_of_lasting hl)), hcut, ?_⟩
  rw [hp, stored, nextProg_of_lasting hl]
  exact tabGet_tabPut_self ..

end Install

/-! ### PROGRAM_REMOVE and PROGRAM_INFO (R101) -/

section Remove

variable {s : State} {id : Nat} {j : Job} (h : RunsLib s 0x031 id j)

theorem remove_arm (s : State) (id : Nat) : exec (.programRemove id) s = execProgramRemove id s := rfl

include h

theorem remove_beyond (ha : 0x3FF < (rd j 1).toNat) : EndsLib (.programRemove id) s id St.outOfRange [] fun u => u.slots = s.slots :=
  ends_stored h (remove_arm s id) (if_pos ha)

theorem remove_library (ha : (rd j 1).toNat < 0x100) : EndsLib (.programRemove id) s id St.rights [] fun u => u.slots = s.slots := by
  refine ends_stored h (remove_arm s id) ?_
  dsimp only
  rw [if_neg (by omega), if_pos ha]

variable (hl : 0x100 ≤ (rd j 1).toNat) (ha : (rd j 1).toNat ≤ 0x3FF)

include hl ha

theorem remove_empty (hp : slotProg s (rd j 1).toNat = none) :
    EndsLib (.programRemove id) s id St.noProgram [] fun u => u.slots = s.slots := by
  refine ends_stored h (remove_arm s id) ?_
  dsimp only
  rw [if_neg (by omega), if_neg (by omega), if_pos (by rw [hp]; rfl)]

variable (hp : slotProg s (rd j 1).toNat ≠ none)

include hp

theorem remove_named (hn : hkNames s (rd j 1).toNat = true) :
    EndsLib (.programRemove id) s id St.illegalField [] fun u => u.slots = s.slots := by
  refine ends_stored h (remove_arm s id) ?_
  dsimp only
  rw [if_neg (by omega), if_neg (by omega), if_neg (by simpa using hp), if_pos hn]

variable (hn : hkNames s (rd j 1).toNat = false)

include hn

theorem remove_pending (hc : s.cutover ≠ none) : EndsLib (.programRemove id) s id St.busyRetry [] fun u => u.slots = s.slots := by
  refine ends_stored h (remove_arm s id) ?_
  dsimp only
  rw [if_neg (by omega), if_neg (by omega), if_neg (by simpa using hp), if_neg (Bool.eq_false_iff.1 hn), if_pos (Option.isSome_iff_ne_none.2 hc)]

theorem remove_recorded (hc : s.cutover = none) (hk : (askCommit s id).2 = true) :
    ∃ q, WaitsLib (.programRemove id) s id (.record 0 q) .cutProgram fun u =>
      u.cutover = some { slot := (rd j 1).toNat, prog := none, tb := none } := by
  obtain ⟨q, u, j', he, hj, hen, hw, ho, -, -, hcut⟩ := waits_recorded h (remove_arm s id) (u := (askCommit s id).1)
    (x := (rd j 1).toNat) (p := none) (by
      dsimp only
      rw [if_neg (by omega), if_neg (by omega), if_neg (by simpa using hp), if_neg (Bool.eq_false_iff.1 hn), if_neg (by simp [hc]),
        if_neg (by simp [hk])])
  exact ⟨q, u, j', he, hj, hen, hw, ho, hcut⟩

end Remove

section Info

variable {s : State} {id : Nat} {j : Job} (h : RunsLib s 0x032 id j)

theorem info_arm (s : State) (id : Nat) : exec (.programInfo id) s = execProgramInfo id s := rfl

include h

theorem info_beyond (ha : 0x3FF < (rd j 1).toNat) : EndsLib (.programInfo id) s id St.outOfRange [] fun _ => True :=
  ends_here h (info_arm s id) (if_pos ha) trivial

theorem info_shows (ha : (rd j 1).toNat ≤ 0x3FF) : ∃ w1 w2 w3, EndsLib (.programInfo id) s id St.ok
    [readEntry s j.slate 0x02 (0x400 + (rd j 1).toNat), w1, w2, w3] fun u => u.slots = s.slots :=
  ⟨_, _, _, ends_stored h (info_arm s id) (if_neg (Nat.not_lt.2 ha))⟩

end Info

/-! ### CTL_GET, CTL_SET and CTL_SWAP (R102) -/

theorem endCtl_ends {s : State} {id : Nat} {j : Job} (hj : jobOf s id = some j) (he : j.ended = none) (st : Status) (words : List Word) :
    endCtl s id st words none = endLib s id st words := by
  unfold endCtl
  rw [hj]
  exact if_neg (by simp [he])

section Control

variable {c : Instr} {s : State} {slot id : Nat} {j : Job} {f : State → Job → State} (h : RunsLib s slot id j)
  (arm : exec c s = onLib slot id s f)

include h arm

/-- A program whose access answers in state `t` ends there. -/
theorem endsCtl {t : State} {j' : Job} {st : Status} {words : List Word} (hf : f s j = endCtl t id st words none)
    (hj : jobOf t id = some j') (he : j'.ended = none) : EndsLib c s id st words fun u => u.ctl = t.ctl := by
  obtain ⟨-, -, -, -, hc, -⟩ := endLib_frame t id st words
  exact ⟨_, _, (next_of_runs h arm).trans (congrArg _ (hf.trans (endCtl_ends hj he st words))), Ending.jobOf_endJob_eq hj _ _, rfl, hc⟩

end Control

theorem ctlGet_ends {s : State} {id : Nat} {j : Job} (h : RunsLib s 0x040 id j) {st : Status} {e : Option Word}
    (hx : ctlGetOp s (rd j 1) j.slate = (st, e)) : EndsLib (.ctlGet id) s id st e.toList fun u => u.ctl = s.ctl := by
  have arm : exec (.ctlGet id) s = execCtlGet id s := rfl
  obtain ⟨-, -, -, -, hc, -⟩ := endLib_frame (ctlGrant s (rd j 1) j.slate) id st e.toList
  refine ends_in h arm (u := ctlGrant s (rd j 1) j.slate) ?_ h.job hc
  simp only [hx]

theorem ctlSet_ends {s : State} {id : Nat} {j : Job} (h : RunsLib s 0x041 id j) {t : State} {st : Status} {j' : Job}
    (hx : ctlSetOp (ctlGrant s (rd j 1) j.slate) id (rd j 1) j.slate (rd j 2) = (t, st, none)) (hj : jobOf t id = some j')
    (he : j'.ended = none) : EndsLib (.ctlSet id) s id st [] fun u => u.ctl = t.ctl := by
  have arm : exec (.ctlSet id) s = execCtlSet id s := rfl
  exact endsCtl h arm (by simp only [hx]) hj he

theorem ctlSwap_ends {s : State} {id : Nat} {j : Job} (h : RunsLib s 0x042 id j) {t : State} {st : Status} {e : Option Word} {hit : Bool}
    {j' : Job} (hx : ctlSwapOp (ctlGrant s (rd j 1) j.slate) id (rd j 1) j.slate (rd j 2) (rd j 3) = (t, st, e, hit, none))
    (hj : jobOf t id = some j') (he : j'.ended = none) :
    EndsLib (.ctlSwap id) s id st [e.getD 0, BitVec.ofNat 64 hit.toNat] fun u => u.ctl = t.ctl := by
  have arm : exec (.ctlSwap id) s = execCtlSwap id s := rfl
  exact endsCtl h arm (by simp only [hx]) hj he

/-- A swap that has written found what it expected. -/
theorem expected_of_hit {s t : State} {id self : Nat} {w x v e : Word} {r : RecRef}
    (hx : ctlSwapOp s id w self x v = (t, St.ok, some e, true, r)) : e = x := by
  unfold ctlSwapOp at hx
  split at hx
  · simp at hx
  · dsimp only at hx
    split at hx
    · simp at hx
    · next hr =>
      split at hx
      · simp at hx
      · simp only [Prod.mk.injEq, Option.some.injEq, true_and] at hx
        exact hx.2.1.symm.trans (not_not.1 hr)

end Sys2Proof.ProgramStore
end

section
/-! The moments the library programs wait for: a power state entered or left, and a slot changed (R45, R98, R153). -/

namespace Sys2Proof.Moments

open Sys2Proof Sys2Proof.Machine Sys2Proof.LibraryForm Sys2Proof.Stillness Sys2Proof.Reporting Sys2Proof.Answering

/-! ### PS_ENTRY_DONE and PS_EXIT_DONE (R98, R153) -/

/-- The state in another power state, with no entry or exit under way. -/
def poweredAt (s : State) (t : Nat) : State := { s with power := { now := t, target := none, exiting := false } }

section Entry

variable {s : State} (h0 : serving s 0 = true)

theorem psEntryDone_arm (s : State) : exec .psEntryDone s = execPsEntryDone s := rfl

include h0

theorem psEntryDone_idle (ht : s.power.target = none) : exec .psEntryDone s = .next s := by
  rw [psEntryDone_arm]
  refine (onUnit_serving _ h0).trans ?_
  simp only [ht]

variable {t id : Nat} (ht : s.power.target = some (t, id))

include ht

theorem psEntryDone_waits (hb : (t = 2 ∧ othersEnded s id = false) ∨ powerBusy s = true) : exec .psEntryDone s = .next s := by
  rw [psEntryDone_arm]
  refine (onUnit_serving _ h0).trans ?_
  have hc : (decide (t = 2) && !othersEnded s id || powerBusy s) = true := by
    rcases hb with ⟨h2, ho⟩ | hb
    · simp [h2, ho]
    · simp [hb]
  simp only [ht, hc, if_true]

theorem psEntryDone_ends {j : Job} (hj : jobOf s id = some j) (ho : t ≠ 2 ∨ othersEnded s id = true) (hb : powerBusy s = false) :
    EndsLib .psEntryDone s id St.ok [BitVec.ofNat 64 (now s j.slate)] fun u => u.power = { now := t, target := none, exiting := false } := by
  have hc : (decide (t = 2) && !othersEnded s id || powerBusy s) = false := by
    rcases ho with ho | ho <;> simp [ho, hb]
  have hj' : jobOf (poweredAt s t) id = some j := hj
  have hx : exec .psEntryDone s = .next (endLib (poweredAt s t) id St.ok [BitVec.ofNat 64 (now s j.slate)]) := by
    rw [psEntryDone_arm]
    refine (onUnit_serving _ h0).trans ?_
    simp only [ht, hc, Bool.false_eq_true, if_false]
    rw [show jobOf { s with power := { now := t, target := none, exiting := false } } id = some j from hj]
    rfl
  exact endsLib_of hx hj' (endLib_frame ..).2.1

end Entry

theorem power_dispatchJob (s : State) (hq tag : Nat) (nonce : Word) (c : Cmd) (v : Nat) (p : Program) :
    (dispatchJob s hq tag nonce c v p).1.power = s.power := by
  have hd (u : State) (id : Nat) : (toDispatch u id).power = u.power := by
    unfold toDispatch
    split <;> rfl
  by_cases ho : c.outLen = 0
  · simp only [dispatchJob, outBuffer, ho, if_true]
    exact (power_of_still (still_countSrc ..)).trans (hd ..)
  · simp only [dispatchJob, outBuffer, ho, if_false]
    exact (power_of_still (still_countSrc ..)).trans (hd ..)

/-- A dispatch leaves the power state as it is. -/
theorem power_tryDispatch (s : State) (hq tag : Nat) : (tryDispatch s hq tag).power = s.power := by
  cases hq' : queueAt s hq with
  | none => simp only [tryDispatch, hq']
  | some q =>
    by_cases hst : (tagAt q tag).st = .held
    · cases hc : (tagAt q tag).cmd with
      | none => simp only [tryDispatch, hq', hst, hc]
      | some c =>
        cases hh : Dispatch.stalled s hq tag c with
        | true => rw [Dispatch.tryDispatch_stalled hq' hst hc hh]
        | false =>
          cases hd : dispatchCheck s c with
          | some st =>
            rw [Dispatch.tryDispatch_refused hq' hst hc hh hd]
            exact (congrArg State.power (unqueued_recordResp (releaseTag s hq tag ((tagAt q tag).last.getD 0).toNat) hq tag
              ((tagAt q tag).last.getD 0) (respOf st [0, 0, 0, 0]) c none) :)
          | none =>
            cases hp : slotProg s c.slot with
            | none => simp [dispatchCheck, hp] at hd
            | some x => rw [Dispatch.tryDispatch_dispatched hq' hst hc hh hd hp, power_dispatchJob]
    · unfold tryDispatch
      simp only [hq']
      split
      · next h _ => exact (hst h).elim
      · rfl

theorem power_foldl {α : Type} {f : State → α → State} (l : List α) (s : State) (h : ∀ s a, (f s a).power = s.power) :
    (l.foldl f s).power = s.power :=
  List.foldlRecOn (motive := fun t : State => t.power = s.power) l f rfl fun t ht a _ => (h t a).trans ht

section Exit

variable {s : State} (h0 : serving s 0 = true)

theorem psExitDone_arm (s : State) : exec .psExitDone s = execPsExitDone s := rfl

include h0

theorem psExitDone_idle (h : s.power.now ≠ 2 ∨ s.power.exiting = false ∨ powerBusy s = true) : exec .psExitDone s = .next s := by
  rw [psExitDone_arm]
  refine (onUnit_serving _ h0).trans (congrArg _ (if_pos ?_))
  simpa [or_assoc] using h

theorem psExitDone_ends (hn : s.power.now = 2) (he : s.power.exiting = true) (hb : powerBusy s = false) :
    Answers .psExitDone s fun u => u.power = { now := 0, target := none, exiting := false } := by
  have hc : ¬ (decide (s.power.now ≠ 2) || !s.power.exiting || powerBusy s) = true := by simp [hn, he, hb]
  refine ⟨_, (psExitDone_arm s).trans ((onUnit_serving _ h0).trans (congrArg _ (if_neg hc))), ?_⟩
  exact power_foldl _ _ fun s q => power_foldl _ s fun s x => power_tryDispatch s q.1 x.1

end Exit

/-! ### PROGRAM_CUTOVER (R41, R45) -/

theorem tabGet_filter_key {α : Type} {f : Nat → Bool} {k : Nat} (hk : f k = true) (t : Tab α) :
    tabGet (t.filter fun p => f p.1) k = tabGet t k := by
  induction t with
  | nil => rfl
  | cons x r ih =>
    obtain ⟨i, a⟩ := x
    by_cases hi : f i = true
    · rw [List.filter_cons_of_pos (p := fun p : Nat × α => f p.1) hi, tabGet, tabGet, ih]
    · have hne : k ≠ i := fun e => hi (e ▸ hk)
      rw [List.filter_cons_of_neg (p := fun p : Nat × α => f p.1) hi, ih, tabGet, if_neg hne]

/-- The slots once a change is made. -/
def slotsAfter (s : State) (c : Cutover) : Tab Nat :=
  match c.prog with
  | some v => tabPut s.slots c.slot v
  | none => tabDel s.slots c.slot

/-- The state with the slot changed. -/
def changedSlot (s : State) (c : Cutover) : State := { s with slots := slotsAfter s c, cutover := none }

/-- The state without the versions no job runs and no slot holds. -/
def pruned (s : State) : State := { s with progs := s.progs.filter fun p => liveProg s p.1 }

theorem mem_tabVals_of_tabGet {α : Type} {t : Tab α} {x : Nat} {a : α} (h : tabGet t x = some a) : a ∈ tabVals t := by
  induction t with
  | nil => cases h
  | cons p r ih =>
    obtain ⟨k, v⟩ := p
    rw [tabGet] at h
    split at h
    · cases h
      exact .head _
    · exact .tail _ (ih h)

theorem tabVals_tabPut_contains (t : Tab Nat) (x a : Nat) : (tabVals (tabPut t x a)).contains a = true :=
  List.contains_iff_mem.2 (mem_tabVals_of_tabGet (tabGet_tabPut_self t x a))

/-- A version that enters a slot stays in the store. -/
theorem progs_pruned {s : State} {c : Cutover} {v : Nat} (hv : c.prog = some v) :
    tabGet (pruned (changedSlot s c)).progs v = tabGet s.progs v := by
  have hl : liveProg (changedSlot s c) v = true := by
    have hs : (changedSlot s c).slots = tabPut s.slots c.slot v := by simp only [changedSlot, slotsAfter, hv]
    rw [liveProg, hs, tabVals_tabPut_contains]
    rfl
  exact tabGet_filter_key (f := liveProg (changedSlot s c)) hl s.progs

/-- An event raised on slates in turn is pending on each, and nothing that is still has moved. -/
theorem raised_on (l : List Nat) {e : Nat} (he : e < 2048) (s : State) :
    still (l.foldl (fun s sl => raise s sl e) s) = still s ∧ ∀ sl ∈ l, Pending (l.foldl (fun s sl => raise s sl e) s) sl e := by
  refine ⟨still_foldl l s fun s a => still_raise s a he, ?_⟩
  induction l generalizing s with
  | nil => simp
  | cons a l ih =>
    intro sl hm
    rcases List.mem_cons.1 hm with rfl | hm
    · exact (Reports.foldl l (raise s sl e) fun s b => raise_reports s b he).pend sl e he (raise_pending s sl he)
    · exact ih (raise s a e) sl hm

section Cutover

variable {s : State} (h0 : serving s 0 = true)

theorem programCutover_arm (s : State) : exec .programCutover s = execProgramCutover s := rfl

include h0

theorem programCutover_early (h : ∀ c t, s.cutover = some c → c.tb = some t → now s 0 < t) : exec .programCutover s = .next s := by
  rw [programCutover_arm]
  refine (onUnit_serving _ h0).trans (congrArg _ ?_)
  cases hc : s.cutover with
  | none => rfl
  | some c =>
    cases ht : c.tb with
    | none => simp only [ht]
    | some t => simp only [ht, h c t hc ht, if_true]

theorem programCutover_due {c : Cutover} {t : Nat} (hc : s.cutover = some c) (ht : c.tb = some t) (hn : t ≤ now s 0) :
    exec .programCutover s = .next ((servingSlates s).foldl (fun s sl => raise s sl Ev.STORE_CHANGE) (pruned (changedSlot s c))) := by
  rw [programCutover_arm]
  refine (onUnit_serving _ h0).trans (congrArg _ ?_)
  simp only [hc, ht, Nat.not_lt.2 hn, if_false]
  rfl

end Cutover

end Sys2Proof.Moments
end

section
/-! Administration, power states, the program store and control-space access by command (R45, R96 to R102, R153). -/

namespace Sys2Proof.AdminCommands

open Sys2Proof Sys2Proof.Machine Sys2Proof.LibraryForm Sys2Proof.Stillness Sys2Proof.Administration Sys2Proof.ProgramStore
  Sys2Proof.Moments Sys2Proof.Control

section Swap

variable {s : State} {id : Nat} {j : Job}

theorem jobOf_ctlGrant (h : jobOf s id = some j) (w : Word) (self : Nat) : jobOf (ctlGrant s w self) id = some j := h

theorem ctlGrant_ctl (s : State) (w : Word) (self : Nat) : (ctlGrant s w self).ctl = s.ctl := rfl

/-- A CTL_SET that writes nothing leaves every entry, its pointers granted or not (R74). -/
theorem ctlSet_unwritten (h : RunsLib s 0x041 id j) {st : Status}
    (hx : ctlSetOp (ctlGrant s (rd j 1) j.slate) id (rd j 1) j.slate (rd j 2) = (ctlGrant s (rd j 1) j.slate, st, none)) :
    EndsLib (.ctlSet id) s id st [] fun u => u.ctl = s.ctl := by
  have he := ctlSet_ends h hx (jobOf_ctlGrant h.job _ _) (not_ended h)
  rwa [ctlGrant_ctl] at he

theorem ctlSwap_unwritten (h : RunsLib s 0x042 id j) {st : Status} {e : Option Word} {hit : Bool}
    (hx : ctlSwapOp (ctlGrant s (rd j 1) j.slate) id (rd j 1) j.slate (rd j 2) (rd j 3) =
      (ctlGrant s (rd j 1) j.slate, st, e, hit, none)) :
    EndsLib (.ctlSwap id) s id st [e.getD 0, BitVec.ofNat 64 hit.toNat] fun u => u.ctl = s.ctl := by
  have he := ctlSwap_ends h hx (jobOf_ctlGrant h.job _ _) (not_ended h)
  rwa [ctlGrant_ctl] at he

end Swap

/-- A slot's change is made, on every slate that serves, and STORE_CHANGE is pending there (R41, R45). -/
theorem programCutover_changes {s : State} (h0 : serving s 0 = true) {c : Cutover} {t : Nat} (hc : s.cutover = some c)
    (ht : c.tb = some t) (hn : t ≤ now s 0) : Answers .programCutover s fun u => u.cutover = none ∧
      (∀ v, c.prog = some v → u.slots = tabPut s.slots c.slot v ∧ tabGet u.progs v = tabGet s.progs v) ∧
      (c.prog = none → u.slots = tabDel s.slots c.slot) ∧ ∀ sl < s.n, serving s sl = true → Pending u sl Ev.STORE_CHANGE := by
  obtain ⟨hs, hp⟩ := raised_on (servingSlates s) (e := Ev.STORE_CHANGE) (by decide) (pruned (changedSlot s c))
  have hslots := (slots_of_still hs).trans (show _ = slotsAfter s c from rfl)
  refine ⟨_, programCutover_due h0 hc ht hn, (congrArg State.cutover hs :), fun v hv => ⟨?_, ?_⟩, fun hv => ?_, fun sl hl hsl =>
    hp sl (List.mem_filter.2 ⟨List.mem_range.2 hl, hsl⟩)⟩
  · rw [hslots, slotsAfter, hv]
  · rw [progs_of_still hs, progs_pruned hv]
  · rw [hslots, slotsAfter, hv]

/-- Settles O58: each program is its checks in order, then an end or a wait; the moments they wait for change what they name. -/
theorem adminPrograms : Obligations.AdminPrograms := by
  unfold Obligations.AdminPrograms
  refine ⟨?_, ?_⟩
  · intro s id j a1 a2 a3 busy up starts
    refine ⟨?_, ?_, adminStatus_shows, ?_, ?_, ?_, ?_, ctlGet_ends, ?_, ?_⟩
    · intro h rng bad able
      exact ⟨sanitize_illegal h, sanitize_unserved h, sanitize_busy h, sanitize_starts h⟩
    · intro h
      exact ⟨format_illegal h, format_noVolume h, fun z ha hz => ⟨format_unserved h ha hz, format_busy h ha hz, format_starts h ha hz⟩,
        fun st ha hr => formatUnit_refused h ha hr,
        fun ha hr => ⟨formatUnit_unserved h ha hr, formatUnit_busy h ha hr, formatUnit_starts h ha hr⟩⟩
    · intro h
      exact ⟨powerState_beyond h, powerState_busy h, powerState_entering h, powerState_there h, powerState_waits h⟩
    · intro img h
      refine ⟨install_bare h, ?_⟩
      intro x hx n b
      refine ⟨install_waits h hx, fun ha => ⟨fun st hc => install_refused h hx ha hc, fun hc hf => ?_, install_recorded h hx ha⟩⟩
      obtain ⟨u, j', he, hj, hen, hcut, hd⟩ := install_unwritten h hx ha hc hf
      exact ⟨u, j', he, hj, hen, hcut, fun _ => hd⟩
    · intro h
      exact ⟨remove_beyond h, remove_library h, remove_empty h, remove_named h, remove_pending h, remove_recorded h⟩
    · intro h
      exact ⟨info_beyond h, info_shows h⟩
    · intro h g
      refine ⟨fun st hc => ?_, fun t j' hx hj he => ctlSet_ends h hx hj he⟩
      exact ctlSet_unwritten h (ctlSetOp_refused hc)
    · intro h g
      refine ⟨fun st hc => ?_, fun hc hr => ?_, fun t j' e hx hj he => ⟨expected_of_hit hx, ctlSwap_ends h hx hj he⟩⟩
      · exact ctlSwap_unwritten h (ctlSwapOp_refused _ hc)
      · exact ctlSwap_unwritten h (ctlSwapOp_differs hc hr)
  · intro s h0
    exact ⟨psEntryDone_idle h0, fun t id j ht hj => ⟨psEntryDone_waits h0 ht, psEntryDone_ends h0 ht hj⟩, psExitDone_idle h0,
      psExitDone_ends h0, programCutover_early h0, fun c t hc ht hn => programCutover_changes h0 hc ht hn⟩

end Sys2Proof.AdminCommands
end

section
/-! Encoding and decoding of Ortur instruction words (R47, R48, R54): the fields of a word, the word of the fields, and the round trip of
each form. -/

namespace Sys2Proof.Encoding

open Sys2Proof

/-! ### The fields of a word that is built, and the word that its fields build (R47) -/

section Fields

variable (m : BitVec 6) (d a b : Reg) (n : BitVec 11) (v : BitVec 16) (z : BitVec 10) (w : InsnWord)

@[simp] theorem fMajor_wordR : fMajor (wordR m d a b n) = m := by
  ext i hi
  simp only [fMajor, wordR, BitVec.getElem_extractLsb']
  grind
@[simp] theorem fD_wordR : fD (wordR m d a b n) = d := by
  ext i hi
  simp only [fD, wordR, BitVec.getElem_extractLsb']
  grind
@[simp] theorem fA_wordR : fA (wordR m d a b n) = a := by
  ext i hi
  simp only [fA, wordR, BitVec.getElem_extractLsb']
  grind
@[simp] theorem fB_wordR : fB (wordR m d a b n) = b := by
  ext i hi
  simp only [fB, wordR, BitVec.getElem_extractLsb']
  grind
@[simp] theorem fMinor_wordR : fMinor (wordR m d a b n) = n := by
  ext i hi
  simp only [fMinor, wordR, BitVec.getElem_extractLsb']
  grind

theorem wordR_fields : wordR (fMajor w) (fD w) (fA w) (fB w) (fMinor w) = w := by
  ext i hi
  simp only [fMajor, fD, fA, fB, fMinor, wordR]
  grind

/-- The low byte of the minor field, below the operation code of the handle group (R62). -/
@[simp] theorem low_wordR (k : BitVec 3) (l : BitVec 8) : (wordR m d a b (k ++ l)).extractLsb' 0 8 = l := by
  ext i hi
  simp only [wordR, BitVec.getElem_extractLsb']
  grind

theorem minor_handle (k : BitVec 3) (l : BitVec 8) : (k ++ l : BitVec 11).toNat / 256 = k.toNat := by
  have hl := l.isLt
  rw [BitVec.toNat_append, ← Nat.shiftLeft_add_eq_or_of_lt hl, Nat.shiftLeft_eq]
  omega

theorem fMinor_low {k : BitVec 3} (h : (fMinor w).toNat / 256 = k.toNat) : k ++ w.extractLsb' 0 8 = fMinor w := by
  have hw : (fMinor w).extractLsb' 8 3 ++ w.extractLsb' 0 8 = fMinor w := by
    ext i hi
    simp only [fMinor]
    grind
  have hk : (fMinor w).extractLsb' 8 3 = k := by
    apply BitVec.eq_of_toNat_eq
    rw [← h, BitVec.extractLsb'_toNat, Nat.shiftRight_eq_div_pow]
    have := (fMinor w).isLt
    omega
  rw [← hk, hw]

/-- An I-form word is the R-form word of the same major opcode and registers, its immediate in place of b and minor. -/
theorem wordI_eq : wordI m d a v = wordR m d a (v.extractLsb' 11 5) (v.extractLsb' 0 11) := by
  ext i hi
  simp only [wordI, wordR]
  grind

theorem wordX_eq : wordX m d a z = wordI 0x3F d a (m ++ z) := by
  ext i hi
  simp only [wordI, wordX]
  grind

@[simp] theorem fMajor_wordI : fMajor (wordI m d a v) = m := by rw [wordI_eq, fMajor_wordR]
@[simp] theorem fD_wordI : fD (wordI m d a v) = d := by rw [wordI_eq, fD_wordR]
@[simp] theorem fA_wordI : fA (wordI m d a v) = a := by rw [wordI_eq, fA_wordR]
@[simp] theorem fImm_wordI : fImm (wordI m d a v) = v := by
  ext i hi
  simp only [fImm, wordI, BitVec.getElem_extractLsb']
  grind

theorem wordI_fields : wordI (fMajor w) (fD w) (fA w) (fImm w) = w := by
  ext i hi
  simp only [fMajor, fD, fA, fImm, wordI]
  grind

@[simp] theorem fMajor_wordX : fMajor (wordX m d a z) = 0x3F := by rw [wordX_eq, fMajor_wordI]
@[simp] theorem fD_wordX : fD (wordX m d a z) = d := by rw [wordX_eq, fD_wordI]
@[simp] theorem fA_wordX : fA (wordX m d a z) = a := by rw [wordX_eq, fA_wordI]
@[simp] theorem fInner_wordX : fInner (wordX m d a z) = m := by
  ext i hi
  simp only [fInner, wordX, BitVec.getElem_extractLsb']
  grind
@[simp] theorem fZero_wordX : fZero (wordX m d a z) = z := by
  ext i hi
  simp only [fZero, wordX, BitVec.getElem_extractLsb']
  grind

theorem wordX_fields (h : fMajor w = 0x3F) : wordX (fInner w) (fD w) (fA w) (fZero w) = w := by
  have hf : fInner w ++ fZero w = fImm w := by
    ext i hi
    simp only [fInner, fZero, fImm]
    grind
  rw [wordX_eq, hf, ← h, wordI_fields]

end Fields

/-! ### The forms of a word, and the words of a form -/

section Forms

variable {t : Thread} {w : InsnWord}

/-- A word without an extension word decodes by its major opcode: one of an immediate form first. -/
theorem decodeInsn_short (h : fMajor w ≠ 0x3F) (t : Thread) (y : InsnWord) : decodeInsn t w y =
    (decodeImm t (fMajor w).toNat w (.short (fImm w))).or (decodeMajor t (fMajor w).toNat w) := by
  have hm : (fMajor w).toNat ≠ 0x3F := fun e => h (BitVec.eq_of_toNat_eq e)
  rw [decodeInsn, if_neg hm]
  cases decodeImm t (fMajor w).toNat w (.short (fImm w)) <;> rfl

theorem decodeInsn_long (h : fMajor w = 0x3F) (t : Thread) (x : InsnWord) : decodeInsn t w x =
    decodeImm t (fInner w).toNat w (.long (fZero w) x) := by
  rw [decodeInsn, if_pos (by rw [h]; rfl)]

theorem decodeInsn_wordR {m : BitVec 6} (h : m ≠ 0x3F) (t : Thread) (d a b : Reg) (n : BitVec 11) (y : InsnWord) :
    decodeInsn t (wordR m d a b n) y = (decodeImm t m.toNat (wordR m d a b n) (.short (fImm (wordR m d a b n)))).or
      (decodeMajor t m.toNat (wordR m d a b n)) := by
  rw [decodeInsn_short (by rwa [fMajor_wordR]), fMajor_wordR]

theorem decodeInsn_wordI {m : BitVec 6} (h : m ≠ 0x3F) (t : Thread) (d a : Reg) (v : BitVec 16) (y : InsnWord) :
    decodeInsn t (wordI m d a v) y = (decodeImm t m.toNat (wordI m d a v) (.short v)).or
      (decodeMajor t m.toNat (wordI m d a v)) := by
  rw [decodeInsn_short (by rwa [fMajor_wordI]), fMajor_wordI, fImm_wordI]

theorem decodeInsn_wordX (m : BitVec 6) (t : Thread) (d a : Reg) (z : BitVec 10) (x : InsnWord) :
    decodeInsn t (wordX m d a z) x = decodeImm t m.toNat (wordX m d a z) (.long z x) := by
  rw [decodeInsn_long (fMajor_wordX ..), fInner_wordX, fZero_wordX]

end Forms

/-- The words of an instruction decode to it, form by form (R48, R54, R55, R60, R62). -/
theorem decodeInsn_encodeInsn {i : Instr} {t : Thread} {w y : InsnWord} {x : Option InsnWord} (he : encodeInsn i = some (w, x))
    (ht : insnThread i = some t) : decodeInsn t w (x.getD y) = some i := by
  cases i
  case add o | and o | or o | xor o | cmp o =>
    obtain ⟨t, d, a, src⟩ := o
    cases ht
    rcases src with b | (v | ⟨z, v⟩)
    all_goals cases he
    · simp [decodeInsn_wordR, decodeImm, decodeMajor, decodeAlu, aluR]
    · simp [decodeInsn_wordI, decodeImm, aluI]
    · simp [decodeInsn_wordX, decodeImm, aluI]
  case b o | bcc o | call o =>
    obtain ⟨t, d, a, off⟩ := o
    cases ht
    rcases off with v | ⟨z, v⟩
    all_goals cases he
    · simp [decodeInsn_wordI, decodeImm, branchForm]
    · simp [decodeInsn_wordX, decodeImm, branchForm]
  case shl o | shr o | sar o =>
    obtain ⟨t, d, a, cnt⟩ := o
    cases ht
    rcases cnt with b | v
    all_goals cases he
    · simp [decodeInsn_wordR, decodeImm, decodeMajor, decodeAlu, shiftR]
    · simp [decodeInsn_wordI, decodeImm, decodeMajor, shiftI]
  case sub o | mul o | mulh o | mulhu o | aadd o | acas o =>
    cases ht
    cases he
    simp [decodeInsn_wordR, decodeImm, decodeMajor, decodeAlu, decodeAtomic, r3Form]
  case hsub o | hlen o | hnew o =>
    cases ht
    cases he
    simp [decodeInsn_wordR, decodeImm, decodeMajor, decodeHandle, minor_handle, hForm]
  case ldb o | ldh o | ldw o | ldd o | stb o | sth o | stw o | std o | evs o | gets o | trap o =>
    cases ht
    cases he
    simp [decodeInsn_wordI, decodeImm, decodeMajor, iForm]
  case ret o | ldx o | stx o | bget o | bput o | recv o | send o | dsub o | dwait o | crd o | capp o | mget o | mset o | haz o |
      hrel o | shka o | shks o | evw o | cget o | cset o | cswap o | pmc o | yield o | done o | fail o =>
    cases ht
    cases he
    simp [decodeInsn_wordR, decodeImm, decodeMajor, rForm]
  all_goals cases he

section Words

variable {t : Thread} {w : InsnWord}

theorem eq_ofNat_of_toNat {n k : Nat} {x : BitVec n} (h : x.toNat = k) : x = BitVec.ofNat n k := by
  rw [← h, BitVec.ofNat_toNat, BitVec.setWidth_eq]

theorem encR_rForm {m : BitVec 6} (h : fMajor w = m) : encR m (rForm t w) = (w, none) := by
  rw [encR, rForm, ← h, wordR_fields]

theorem encI_iForm {m : BitVec 6} (h : fMajor w = m) : encI m (iForm t w) = (w, none) := by
  rw [encI, iForm, ← h, wordI_fields]

theorem encR3_r3Form {m : BitVec 6} {n : BitVec 11} (h : fMajor w = m) (hn : fMinor w = n) : encR3 m n (r3Form t w) = (w, none) := by
  rw [encR3, r3Form, ← h, ← hn, wordR_fields]

theorem encH_hForm {k : BitVec 3} (h : fMajor w = 0x22) (hk : (fMinor w).toNat / 256 = k.toNat) : encH k (hForm t w) = (w, none) := by
  rw [encH, hForm, fMinor_low w hk, ← h, wordR_fields]

theorem encAlu_aluR {m : BitVec 6} {n : BitVec 11} (h : fMajor w = 0) (hn : fMinor w = n) : encAlu m n (aluR t w) = (w, none) := by
  simp only [encAlu, aluR, ← h, ← hn, wordR_fields]

theorem encShift_shiftR {m : BitVec 6} {n : BitVec 11} (h : fMajor w = 0) (hn : fMinor w = n) :
    encShift m n (shiftR t w) = (w, none) := by
  simp only [encShift, shiftR, ← h, ← hn, wordR_fields]

theorem encShift_shiftI {m : BitVec 6} {n : BitVec 11} (h : fMajor w = m) : encShift m n (shiftI t w) = (w, none) := by
  simp only [encShift, shiftI, ← h, wordI_fields]

theorem encImm_short {m : BitVec 6} (h : fMajor w = m) : encImm m (fD w) (fA w) (.short (fImm w)) = (w, none) := by
  rw [encImm, ← h, wordI_fields]

theorem encImm_long {m : BitVec 6} (h : fMajor w = 0x3F) (hm : fInner w = m) (x : InsnWord) :
    encImm m (fD w) (fA w) (.long (fZero w) x) = (w, some x) := by
  rw [encImm, ← hm, wordX_fields w h]

end Words

/-- An instruction's words and its thread. -/
def Spells (i : Instr) (t : Thread) (w : InsnWord) (x : Option InsnWord) : Prop := encodeInsn i = some (w, x) ∧ insnThread i = some t

/-- The opcode of an immediate form decides its encoding, whichever form the immediate has. -/
theorem spells_of_decodeImm {t : Thread} {m : BitVec 6} {w : InsnWord} {x : Option InsnWord} {v : Imm} {i : Instr}
    (he : encImm m (fD w) (fA w) v = (w, x)) (h : decodeImm t m.toNat w v = some i) : Spells i t w x := by
  unfold decodeImm at h
  split at h
  case h_9 => cases h
  all_goals
    cases h
    rename_i hm
    obtain rfl := eq_ofNat_of_toNat hm
    exact ⟨congrArg some he, rfl⟩

theorem spells_of_decodeAlu {t : Thread} {w : InsnWord} {i : Instr} (h0 : fMajor w = 0) (h : decodeAlu t w = some i) :
    Spells i t w none := by
  unfold decodeAlu at h
  split at h
  all_goals cases h
  case h_1 hn | h_6 hn | h_7 hn | h_8 hn | h_12 hn => exact ⟨congrArg some (encAlu_aluR h0 (eq_ofNat_of_toNat hn)), rfl⟩
  case h_2 hn | h_3 hn | h_4 hn | h_5 hn => exact ⟨congrArg some (encR3_r3Form h0 (eq_ofNat_of_toNat hn)), rfl⟩
  case h_9 hn | h_10 hn | h_11 hn => exact ⟨congrArg some (encShift_shiftR h0 (eq_ofNat_of_toNat hn)), rfl⟩

theorem spells_of_decodeAtomic {t : Thread} {w : InsnWord} {i : Instr} (h0 : fMajor w = 0x1E) (h : decodeAtomic t w = some i) :
    Spells i t w none := by
  unfold decodeAtomic at h
  split at h
  case h_3 => cases h
  all_goals
    cases h
    rename_i hn
    have hn := eq_ofNat_of_toNat hn
    exact ⟨congrArg some (encR3_r3Form h0 hn), rfl⟩

theorem spells_of_decodeHandle {t : Thread} {w : InsnWord} {i : Instr} (h0 : fMajor w = 0x22) (h : decodeHandle t w = some i) :
    Spells i t w none := by
  unfold decodeHandle at h
  split at h
  case h_4 => cases h
  all_goals
    cases h
    rename_i hk
    exact ⟨congrArg some (encH_hForm h0 hk), rfl⟩

theorem spells_of_decodeMajor {t : Thread} {w : InsnWord} {i : Instr} (h : decodeMajor t (fMajor w).toNat w = some i) :
    Spells i t w none := by
  unfold decodeMajor at h
  split at h
  case h_1 hm => exact spells_of_decodeAlu (eq_ofNat_of_toNat hm) h
  case h_16 hm => exact spells_of_decodeAtomic (eq_ofNat_of_toNat hm) h
  case h_19 hm => exact spells_of_decodeHandle (eq_ofNat_of_toNat hm) h
  all_goals cases h
  case h_2 hm | h_3 hm | h_4 hm => exact ⟨congrArg some (encShift_shiftI (eq_ofNat_of_toNat hm)), rfl⟩
  case h_6 hm | h_7 hm | h_8 hm | h_9 hm | h_10 hm | h_11 hm | h_12 hm | h_13 hm | h_33 hm | h_38 hm | h_42 hm =>
    exact ⟨congrArg some (encI_iForm (eq_ofNat_of_toNat hm)), rfl⟩
  all_goals
    rename_i hm
    exact ⟨congrArg some (encR_rForm (eq_ofNat_of_toNat hm)), rfl⟩

/-- The words that decode to an instruction are those it encodes to. -/
theorem spells_of_decodeInsn {t : Thread} {w x : InsnWord} {i : Instr} (h : decodeInsn t w x = some i) :
    Spells i t w (if fMajor w = 0x3F then some x else none) := by
  by_cases hm : fMajor w = 0x3F
  · rw [decodeInsn_long hm] at h
    rw [if_pos hm]
    exact spells_of_decodeImm (encImm_long hm rfl x) h
  · rw [decodeInsn_short hm, Option.or_eq_some_iff] at h
    rw [if_neg hm]
    obtain h | ⟨-, h⟩ := h
    · exact spells_of_decodeImm (encImm_short rfl) h
    · exact spells_of_decodeMajor h

/-- Settles O6: the fields of a word and the word of its fields determine each other, and each opcode decides its instruction's form. -/
theorem orturDecodeEncode : Obligations.OrturDecodeEncode := by
  unfold Obligations.OrturDecodeEncode
  exact ⟨fun i t w y x he ht => decodeInsn_encodeInsn he ht, fun t w x i h => spells_of_decodeInsn h⟩

end Sys2Proof.Encoding
end

section
/-! Arithmetic, logic and shifts: the flags in arithmetic terms, and what an ALU instruction leaves (R52, R55). -/

namespace Sys2Proof.Arithmetic

open Sys2Proof Sys2Proof.Machine Sys2Proof.Issuing

/-! ### Flags (R55) -/

theorem topBit_eq (x : Word) : topBit x = decide (x.toInt < 0) := BitVec.msb_eq_toInt

theorem toInt_bounds (x : Word) : -2 ^ 63 ≤ x.toInt ∧ x.toInt < 2 ^ 63 := ⟨BitVec.le_toInt x, BitVec.toInt_lt⟩

/-- The sum overflows where its signed value is not the sum of the signed values: the operands' signs agree and its own differs. -/
theorem addV_eq (x y : Word) : addV x y = decide ((x + y).toInt ≠ x.toInt + y.toInt) := by
  have hx := toInt_bounds x
  have hy := toInt_bounds y
  have hs := BitVec.toInt_add x y
  rw [addV, topBit_eq, topBit_eq, topBit_eq, Bool.eq_iff_iff]
  simp only [Int.bmod] at hs
  simp only [Bool.and_eq_true, beq_iff_eq, bne_iff_ne, ne_eq, decide_eq_decide, decide_eq_true_eq]
  generalize (x + y).toInt = r at *
  omega

theorem subV_eq (x y : Word) : subV x y = decide ((x - y).toInt ≠ x.toInt - y.toInt) := by
  have hx := toInt_bounds x
  have hy := toInt_bounds y
  have hs := BitVec.toInt_sub (x := x) (y := y)
  rw [subV, topBit_eq, topBit_eq, topBit_eq, Bool.eq_iff_iff]
  simp only [Int.bmod] at hs
  simp only [Bool.and_eq_true, bne_iff_ne, ne_eq, decide_eq_decide, decide_eq_true_eq]
  generalize (x - y).toInt = r at *
  omega

theorem mulV_eq (x y : Word) : mulV x y = decide (x.toInt * y.toInt < -(2 ^ 63) ∨ 2 ^ 63 ≤ x.toInt * y.toInt) :=
  (Bool.decide_or ..).symm

theorem sub_beq_zero (x y : Word) : (x - y == 0) = (x == y) := by
  rw [Bool.eq_iff_iff, beq_iff_eq, beq_iff_eq, sub_eq_zero]

theorem xor_beq_zero (x y : Word) : (x ^^^ y == 0) = (x == y) := by
  rw [Bool.eq_iff_iff, beq_iff_eq, beq_iff_eq]
  exact BitVec.xor_eq_zero_iff

/-! ### Products and shifts as arithmetic -/

theorem mul_eq_ofNat (x y : Word) : x * y = BitVec.ofNat 64 (x.toNat * y.toNat) := rfl

theorem shl_eq_ofNat (x : Word) (k : Nat) : x <<< k = BitVec.ofNat 64 (x.toNat * 2 ^ k) := by
  rw [← Nat.shiftLeft_eq]
  rfl

theorem shr_eq_ofNat (x : Word) (k : Nat) : x >>> k = BitVec.ofNat 64 (x.toNat / 2 ^ k) := by
  apply BitVec.eq_of_toNat_eq
  rw [BitVec.toNat_ushiftRight, BitVec.toNat_ofNat, Nat.shiftRight_eq_div_pow, Nat.mod_eq_of_lt]
  exact (Nat.div_le_self ..).trans_lt x.isLt

theorem sar_eq_ofInt (x : Word) (k : Nat) : x.sshiftRight k = BitVec.ofInt 64 (x.toInt / 2 ^ k) := by
  rw [BitVec.sshiftRight, Int.shiftRight_eq_div_pow]
  norm_cast

/-! ### What an ALU instruction leaves -/

section Alu

variable {c : Instr} {s : State} {t : Thread} {id : Nat} {j : Job} {len : Nat} {legal : Bool} {op : Job → Job} {r : Word} {cy v : Bool}
  (h : Issues s t id j len) (arm : exec c s = aluInsn t len legal op s) (hl : legal = true)

include h arm hl

theorem alu_completes {d : Reg} (hop : op (begun j) = wr (setFlags (begun j) r cy v) d r) :
    Completes c s id j len d r (r == 0) r.msb cy v := by
  obtain ⟨u, he, hj⟩ := leaves_of_body h arm hl (by simp) (show finish _ id (op (begun j)) len = finish _ id _ len by rw [hop])
  refine ⟨u, _, he, hj, fun x => rd_wr (setFlags (begun j) r cy v) d x r, ?_⟩
  rw [wr_eq]
  rfl

/-- CMP sets the flags and writes no register. -/
theorem flags_complete (hop : op (begun j) = setFlags (begun j) r cy v) : Completes c s id j len 0 0 (r == 0) r.msb cy v := by
  obtain ⟨u, he, hj⟩ := leaves_of_body h arm hl (by simp) (show finish _ id (op (begun j)) len = finish _ id _ len by rw [hop])
  refine ⟨u, _, he, hj, fun x => ?_, rfl⟩
  split
  · exact (congrArg _ ‹x = 0›).trans (rd_zero _)
  · rfl

end Alu

/-- A shift's count is at most 63. -/
theorem countOk_of_lt {cnt : Count} (h : ∀ v : BitVec 16, cnt = .imm v → v.toNat < 64) : countOk cnt = true := by
  cases cnt with
  | reg b => rfl
  | imm v => exact beq_iff_eq.2 (Nat.div_eq_of_lt (h v rfl))

theorem countVal_eq {cnt : Count} (h : ∀ v : BitVec 16, cnt = .imm v → v.toNat < 64) (j : Job) :
    countVal j cnt = match (generalizing := false) cnt with | .reg b => (rd j b).toNat % 64 | .imm v => v.toNat := by
  cases cnt with
  | reg b => rfl
  | imm v => exact Nat.mod_eq_of_lt (h v rfl)

theorem srcSext_eq (j : Job) (src : Src) : srcSext j src =
    match src with | .reg b => rd j b | .imm (.short v) => v.signExtend 64 | .imm (.long _ v) => v.signExtend 64 := by
  rcases src with b | (v | ⟨z, v⟩) <;> rfl

theorem srcZext_eq (j : Job) (src : Src) : srcZext j src =
    match src with | .reg b => rd j b | .imm (.short v) => v.setWidth 64 | .imm (.long _ v) => v.setWidth 64 := by
  rcases src with b | (v | ⟨z, v⟩) <;> rfl

/-- Settles O7: each instruction sets the flags that its result has in arithmetic terms. -/
theorem arithmeticResult : Obligations.ArithmeticResult := by
  unfold Obligations.ArithmeticResult
  constructor
  case left =>
    intro s t id j d a b src
    constructor
    · intro h hs x y
      have hy : srcSext j src = y := srcSext_eq j src
      clear_value y
      subst hy
      rw [← addV_eq, ← subV_eq, ← sub_beq_zero x]
      exact ⟨alu_completes h (show exec (.add _) s = execAdd _ s from rfl) hs rfl,
        flags_complete h (show exec (.cmp _) s = execCmp _ s from rfl) (by simp [hs]) rfl⟩
    · intro h x y
      rw [← subV_eq, ← sub_beq_zero x y]
      exact alu_completes h (show exec (.sub _) s = execSub _ s from rfl) rfl rfl
  case right =>
    intro s t id j d a b h x y lo hi hiU
    rw [← mulV_eq]
    exact ⟨alu_completes h (show exec (.mul _) s = execMul _ s from rfl) rfl rfl,
      alu_completes h (show exec (.mulh _) s = execMulh _ s from rfl) rfl rfl,
      alu_completes h (show exec (.mulhu _) s = execMulhu _ s from rfl) rfl rfl⟩

/-- Settles O8: a logic instruction or a shift clears V; its result and C are those of R55. -/
theorem logicAndShiftResult : Obligations.LogicAndShiftResult := by
  unfold Obligations.LogicAndShiftResult
  constructor
  case left =>
    intro s t id j d a src h hs x y
    have hy : srcZext j src = y := srcZext_eq j src
    clear_value y
    subst hy
    rw [← xor_beq_zero x]
    exact ⟨alu_completes h (show exec (.and _) s = execAnd _ s from rfl) hs rfl,
      alu_completes h (show exec (.or _) s = execOr _ s from rfl) hs rfl,
      alu_completes h (show exec (.xor _) s = execXor _ s from rfl) hs rfl⟩
  case right =>
    intro s t id j d a cnt h hc x k l r q
    have hk : countVal j cnt = k := countVal_eq hc j
    have hl : l = x <<< k := (shl_eq_ofNat x k).symm
    have hr : r = x >>> k := (shr_eq_ofNat x k).symm
    have hq : q = x.sshiftRight k := (sar_eq_ofInt x k).symm
    clear_value k l r q
    subst hk hl hr hq
    have ok := countOk_of_lt hc
    have carry (n : Nat) : decide (n ≠ 0) = (n != 0) := by cases n <;> rfl
    rw [carry]
    exact ⟨alu_completes h (show exec (.shl _) s = execShl _ s from rfl) ok rfl,
      alu_completes h (show exec (.shr _) s = execShr _ s from rfl) ok rfl,
      alu_completes h (show exec (.sar _) s = execSar _ s from rfl) ok rfl⟩

end Sys2Proof.Arithmetic
end

section
/-! Branches: the conditions after a comparison, and where control goes (R49, R56, R57). -/

namespace Sys2Proof.Branches

open Sys2Proof Sys2Proof.Machine Sys2Proof.Issuing

/-! ### Conditions (R56) -/

/-- Negative differs from overflow exactly where the signed difference is below zero. -/
theorem n_ne_v_iff (x y : Word) :
    ((x - y).msb != decide ((x - y).toInt ≠ x.toInt - y.toInt)) = decide (x.toInt < y.toInt) := by
  have hx := Arithmetic.toInt_bounds x
  have hy := Arithmetic.toInt_bounds y
  have hs := BitVec.toInt_sub (x := x) (y := y)
  rw [BitVec.msb_eq_toInt, Bool.eq_iff_iff]
  simp only [Int.bmod] at hs
  simp only [bne_iff_ne, ne_eq, decide_eq_decide, decide_eq_true_eq]
  generalize (x - y).toInt = r at *
  omega

/-- What the flags of a comparison say of its operands. -/
theorem conditions_compare {j : Job} {x y : Word} (hz : j.z = (x == y)) (hn : j.n = (x - y).msb) (hc : j.c = decide (y.toNat ≤ x.toNat))
    (hv : j.v = decide ((x - y).toInt ≠ x.toInt - y.toInt)) :
    (condTaken j 0x00 = true ↔ x = y) ∧ (condTaken j 0x01 = true ↔ x ≠ y) ∧
    (condTaken j 0x02 = true ↔ y.toNat ≤ x.toNat) ∧ (condTaken j 0x03 = true ↔ x.toNat < y.toNat) ∧
    (condTaken j 0x08 = true ↔ y.toNat < x.toNat) ∧ (condTaken j 0x09 = true ↔ x.toNat ≤ y.toNat) ∧
    (condTaken j 0x0A = true ↔ y.toInt ≤ x.toInt) ∧ (condTaken j 0x0B = true ↔ x.toInt < y.toInt) ∧
    (condTaken j 0x0C = true ↔ y.toInt < x.toInt) ∧ (condTaken j 0x0D = true ↔ x.toInt ≤ y.toInt) := by
  have hlt : (j.n != j.v) = decide (x.toInt < y.toInt) := by rw [hn, hv, n_ne_v_iff]
  have hge : (j.n == j.v) = decide (y.toInt ≤ x.toInt) := by
    rw [← Bool.not_inj_iff, ← bne, hlt, ← decide_not, decide_eq_decide, not_le]
  have heq : x = y ↔ x.toNat = y.toNat := BitVec.toNat_inj.symm
  have hint : x.toInt = y.toInt ↔ x.toNat = y.toNat := BitVec.toInt_inj.trans heq
  simp only [condTaken, BitVec.reduceToNat, hlt, hge, hz, hc, Bool.and_eq_true, Bool.or_eq_true, Bool.not_eq_true', decide_eq_true_eq,
    decide_eq_false_iff_not, beq_iff_eq, beq_eq_false_iff_ne, ne_eq, heq]
  refine ⟨trivial, trivial, trivial, ?_, ?_, ?_, trivial, trivial, ?_, ?_⟩ <;> omega

/-! ### Targets (R49, R57) -/

theorem targetOk_iff (s : State) (j : Job) (w : Nat) : targetOk s j w = true ↔ w < progLen s j ∧ isExtWord s j w = false := by
  simp [targetOk]

theorem targetOk_congr {s u : State} {j j' : Job} (hs : u.progs = s.progs) (hj : j'.prog = j.prog) (w : Nat) :
    targetOk u j' w = targetOk s j w := by
  unfold targetOk isExtWord
  rw [progLen_congr hs hj, hs, hj]

theorem targetOk_fetched (s : State) (t : Thread) (id : Nat) (j : Job) (len w : Nat) :
    targetOk (fetched s t id j len) (begun j) w = targetOk s j w := targetOk_congr (fetched_progs s t id j len) rfl w

section Jump

variable {c : Instr} {s : State} {t : Thread} {id : Nat} {j : Job} {len : Nat} {legal keepOnly : Bool}
  {body : State → Nat → Job → State} (h : Issues s t id j len)
  (arm : exec c s = onThread t s fun s => issue t s len legal keepOnly body) (hl : legal = true)
  (hk : keepOnly = true → j.keep = true)

include h arm hl hk

theorem leaves_of_putJob {u : State} {j' : Job} (hb : body (fetched s t id j len) id (begun j) = putJob u id j') : Leaves c s id j' :=
  ⟨_, (next_of_issue h arm hl hk).trans (by rw [hb]), by rw [jobOf_sampleAfter, jobOf_putJob_self]⟩

variable {w : Nat}

theorem jump_leaves (hb : body (fetched s t id j len) id (begun j) = jumpTo (fetched s t id j len) id (begun j) w)
    (hg : targetOk s j w = true) : Leaves c s id { begun j with pc := w } :=
  leaves_of_putJob h arm hl hk (hb.trans (if_pos ((targetOk_fetched ..).trans hg)))

theorem jump_traps (hb : body (fetched s t id j len) id (begun j) = jumpTo (fetched s t id j len) id (begun j) w)
    (hg : targetOk s j w = false) : Traps c s id St.outOfRange :=
  traps_of_body h arm hl hk (hb.trans (if_neg (by rw [targetOk_fetched, hg]; exact Bool.false_ne_true)))

end Jump

/-! ### The four instructions (R57) -/

section Offset

variable {s : State} {id : Nat} {j : Job} {o : BranchForm} (h : Issues s o.t id j (immLen o.off)) (ho : immOk o.off = true) (ha : o.a = 0)

include h ho ha

theorem b_arms (hd : o.d = 0) :
    (targetOk s j (branchTarget j o.off) = true → Leaves (.b o) s id { begun j with pc := branchTarget j o.off }) ∧
    (targetOk s j (branchTarget j o.off) = false → Traps (.b o) s id St.outOfRange) := by
  have arm : exec (.b o) s = execB o s := rfl
  have hl : (immOk o.off && o.d == 0 && o.a == 0) = true := by simp [ho, hd, ha]
  exact ⟨jump_leaves h arm hl (by simp) rfl, jump_traps h arm hl (by simp) rfl⟩

theorem call_leaves (hd : o.d = 0) (hg : targetOk s j (branchTarget j o.off) = true) :
    Leaves (.call o) s id { wr (begun j) 31 (BitVec.ofNat 64 (j.pc + immLen o.off)) with pc := branchTarget j o.off } := by
  have arm : exec (.call o) s = execCall o s := rfl
  exact leaves_of_putJob h arm (by simp [ho, hd, ha]) (by simp) (if_pos ((targetOk_fetched ..).trans hg))

theorem call_traps (hd : o.d = 0) (hg : targetOk s j (branchTarget j o.off) = false) : Traps (.call o) s id St.outOfRange := by
  have arm : exec (.call o) s = execCall o s := rfl
  exact traps_of_body h arm (by simp [ho, hd, ha]) (by simp)
    (if_neg (by rw [show branchTarget (begun j) o.off = branchTarget j o.off from rfl, targetOk_fetched, hg]; exact Bool.false_ne_true))

section Condition

variable (hc : condOk o.d = true)

include hc

theorem bcc_taken (ht : condTaken j o.d = true) :
    (targetOk s j (branchTarget j o.off) = true → Leaves (.bcc o) s id { begun j with pc := branchTarget j o.off }) ∧
    (targetOk s j (branchTarget j o.off) = false → Traps (.bcc o) s id St.outOfRange) := by
  have arm : exec (.bcc o) s = execBcc o s := rfl
  have hl : (immOk o.off && o.a == 0 && condOk o.d) = true := by simp [ho, ha, hc]
  exact ⟨jump_leaves h arm hl (by simp) (if_pos ht), jump_traps h arm hl (by simp) (if_pos ht)⟩

theorem bcc_falls (ht : condTaken j o.d = false) : Leaves (.bcc o) s id { begun j with pc := j.pc + immLen o.off } := by
  have arm : exec (.bcc o) s = execBcc o s := rfl
  exact leaves_of_body h arm (by simp [ho, ha, hc]) (by simp) (if_neg (by rw [show condTaken (begun j) o.d = condTaken j o.d from rfl, ht]; exact Bool.false_ne_true))

end Condition

omit ho ha in
theorem bcc_illegal (hc : condOk o.d = false) : Traps (.bcc o) s id St.illegalField := by
  have arm : exec (.bcc o) s = execBcc o s := rfl
  exact traps_of_illegal h arm (by simp [hc])

end Offset

theorem ret_arms {s : State} {id : Nat} {j : Job} {t : Thread} (h : Issues s t id j 1) :
    let ret : Instr := .ret { t := t, d := 0, a := 0, b := 0, minor := 0 }
    (targetOk s j (rd j 31).toNat = true → Leaves ret s id { begun j with pc := (rd j 31).toNat }) ∧
    (targetOk s j (rd j 31).toNat = false → Traps ret s id St.outOfRange) := by
  have arm : exec (.ret { t := t, d := 0, a := 0, b := 0, minor := 0 }) s = execRet { t := t, d := 0, a := 0, b := 0, minor := 0 } s := rfl
  exact ⟨jump_leaves h arm rfl (by simp) rfl, jump_traps h arm rfl (by simp) rfl⟩

/-- Settles O9: a comparison's flags decide each condition, and a transfer of control looks at its target. -/
theorem branchesAndConditions : Obligations.BranchesAndConditions := by
  unfold Obligations.BranchesAndConditions
  refine ⟨⟨fun j => ⟨rfl, rfl, rfl, rfl, rfl, rfl, rfl, rfl, rfl, rfl, rfl, rfl, rfl, rfl⟩, fun j x y => conditions_compare⟩, ?_⟩
  intro s t id j off h ho o w len good b call
  let o' : BranchForm := { t := t, d := 0, a := 0, off := off }
  have hw : branchTarget j off = w := by rcases off with v | ⟨z, v⟩ <;> rfl
  have hgood (v : Nat) : good v ↔ targetOk s j v = true := (targetOk_iff s j v).symm
  have hbad (v : Nat) : ¬ good v ↔ targetOk s j v = false := by rw [hgood, Bool.not_eq_true]
  clear_value w good
  subst hw
  refine ⟨fun hg => ⟨?_, ?_⟩, fun hg => ⟨?_, ?_⟩, fun c hc => ⟨fun ht hg => ?_, fun ht hg => ?_, fun ht => ?_⟩, fun c hc => ?_, fun hlen => ?_⟩
  · exact (b_arms (o := o') h ho rfl rfl).1 ((hgood _).1 hg)
  · refine ⟨_, call_leaves (o := o') h ho rfl rfl ((hgood _).1 hg), ?_, fun x => ?_⟩
    · rw [wr_eq]
    · refine (rd_wr (begun j) 31 x _).trans ?_
      by_cases h0 : x = 0
      · rw [if_pos h0, h0]
        exact (rd_zero j).symm
      · exact if_neg h0
  · exact (b_arms (o := o') h ho rfl rfl).2 ((hbad _).1 hg)
  · exact call_traps (o := o') h ho rfl rfl ((hbad _).1 hg)
  · exact (bcc_taken (o := { t := t, d := c, a := 0, off := off }) h ho rfl (decide_eq_true hc) ht).1 ((hgood _).1 hg)
  · exact (bcc_taken (o := { t := t, d := c, a := 0, off := off }) h ho rfl (decide_eq_true hc) ht).2 ((hbad _).1 hg)
  · exact bcc_falls (o := { t := t, d := c, a := 0, off := off }) h ho rfl (decide_eq_true hc) ht
  · exact bcc_illegal (o := { t := t, d := c, a := 0, off := off }) h (decide_eq_false (Nat.not_lt.2 hc))
  · have h1 : Issues s t id j 1 := hlen ▸ h
    exact ⟨fun hg => (ret_arms h1).1 ((hgood _).1 hg), fun hg => (ret_arms h1).2 ((hbad _).1 hg)⟩

end Sys2Proof.Branches
end

section
/-! Hashing: absorption and squeezing run on across instructions (R70). -/

namespace Sys2Proof.Hashing

open Sys2Proof Sys2Proof.Machine Sys2Proof.Issuing

/-! ### Absorbing and squeezing -/

theorem absorb_append (a : List Word) (p : Nat) (x y : List Byte) :
    absorb a p (x ++ y) = absorb (absorb a p x).1 (absorb a p x).2 y := by
  induction x generalizing a p with
  | nil => rfl
  | cons b x ih =>
    simp only [List.cons_append, absorb]
    split
    · exact ih ..
    · exact ih ..

/-- Output bytes short of the rate are those of the state as it stands. -/
theorem squeeze_within (a : List Word) {pos n : Nat} (h : pos + n < 136) :
    squeeze a pos n = ((List.range n).map fun i => stateByte a (pos + i), a, pos + n) := by
  induction n generalizing pos with
  | zero => rfl
  | succ n ih =>
    have hs : squeezed a pos = (a, pos + 1) := if_neg (by simp only [shakeRate]; omega)
    rw [squeeze, hs, ih (by omega), List.range_succ_eq_map]
    simp [Function.comp_def, Nat.add_assoc, Nat.add_comm 1]

/-- Output bytes that reach the rate go on from the start of the permuted state. -/
theorem squeeze_reaching (a : List Word) {pos n : Nat} (hp : pos < 136) (h : 136 ≤ pos + n) (hn : n ≤ 136) :
    squeeze a pos n = ((List.range n).map fun i =>
      if pos + i < 136 then stateByte a (pos + i) else stateByte (keccakF a) (pos + i - 136), keccakF a, pos + n - 136) := by
  induction n generalizing pos with
  | zero => omega
  | succ n ih =>
    rw [squeeze, List.range_succ_eq_map]
    by_cases hr : pos + 1 = 136
    · have hs : squeezed a pos = (keccakF a, 0) := if_pos hr
      have hi (i : Nat) : pos + (i + 1) - 136 = i := by omega
      have hlt (i : Nat) : ¬ pos + (i + 1) < 136 := by omega
      rw [hs, squeeze_within _ (by omega)]
      simp [Function.comp_def, hp, hi, hlt]
    · have hs : squeezed a pos = (a, pos + 1) := if_neg hr
      rw [hs, ih (by omega) (by omega) (by omega)]
      simp [Function.comp_def, hp, Nat.add_assoc, Nat.add_comm 1]

/-- The output of SHKS and the state and position it leaves. -/
theorem squeeze_eight (a : List Word) {pos : Nat} (hp : pos < 136) :
    squeeze a pos 8 = ((List.range 8).map fun i =>
      if pos + i < 136 then stateByte a (pos + i) else stateByte (keccakF a) (pos + i - 136),
      if pos + 8 < 136 then (a, pos + 8) else (keccakF a, pos + 8 - 136)) := by
  by_cases h : pos + 8 < 136
  · rw [squeeze_within a h, if_pos h]
    congr 1
    exact List.map_congr_left fun i hi => (if_pos (by have := List.mem_range.1 hi; omega)).symm
  · rw [squeeze_reaching a hp (by omega) (by omega), if_neg h]

theorem kecPos_stored (s : State) {scr : Tab Byte} (h : leNat (bytesOf scr 0xFC8 1) < 136) :
    kecPos s scr = leNat (bytesOf scr 0xFC8 1) := if_pos h

/-! ### SHKA -/

/-- Scratch as SHKA takes it: cleared where CLR is set or the state is squeezing. -/
def cleared (m : BitVec 11) (scr : Tab Byte) : Tab Byte :=
  if bitOf m.toNat 3 || kecSqueezing scr then bytesPut scr 0xF00 (List.replicate 208 0) else scr

/-- The job after SHKA has absorbed bytes. -/
def absorbed (j : Job) (m : BitVec 11) (d : Block) : Job :=
  let scr := cleared m j.scr
  let r := absorb (kecLanes scr) (leNat (bytesOf scr 0xFC8 1)) d
  { begun j with pc := j.pc + 1, scr := kecPut scr r.1 r.2 false }

/-- A stored position below the rate is the one absorbed from. -/
theorem absorbs_stored {j : Job} {m : BitVec 11} (u : State) (id : Nat) (d : Block)
    (hp : leNat (bytesOf (cleared m j.scr) 0xFC8 1) < 136) :
    finish (takeFree u) id { begun j with
      scr := kecPut (cleared m j.scr) (absorb (kecLanes (cleared m j.scr)) (kecPos u (cleared m j.scr)) d).1
        (absorb (kecLanes (cleared m j.scr)) (kecPos u (cleared m j.scr)) d).2 false } 1 =
    finish (takeFree u) id { absorbed j m d with pc := j.pc } 1 := by
  rw [kecPos_stored u hp]
  rfl

section Shka

variable {s : State} {id : Nat} {j : Job} {o : RForm} (h : Issues s o.t id j 1) (hd : o.d = 0)

theorem shka_arm (o : RForm) (s : State) : exec (.shka o) s = execShka o s := rfl

include h hd

section Scratch

variable (hm : o.minor.toNat = 16 ∨ o.minor.toNat = 24)

include hm

omit h in
theorem shka_legal_scratch : bitOf o.minor.toNat 4 = true ∧
    (o.d == 0 && o.minor.toNat / 32 == 0 && (!bitOf o.minor.toNat 4 || o.minor.toNat % 8 == 0)) = true := by
  obtain hm | hm := hm <;> simp [hm, hd, bitOf]

theorem shka_beyond_scratch (hr : 0xF00 < (rd j o.a).toNat + (rd j o.b).toNat) : Traps (.shka o) s id St.outOfRange := by
  obtain ⟨hs, hl⟩ := shka_legal_scratch hd hm
  exact traps_of_body h (shka_arm o s) hl (by simp) ((if_pos hs).trans (if_pos hr))

theorem shka_absorbs_scratch (hp : leNat (bytesOf (cleared o.minor j.scr) 0xFC8 1) < 136)
    (hr : (rd j o.a).toNat + (rd j o.b).toNat ≤ 0xF00) :
    Leaves (.shka o) s id (absorbed j o.minor (bytesOf j.scr (rd j o.a).toNat (rd j o.b).toNat)) := by
  obtain ⟨hs, hl⟩ := shka_legal_scratch hd hm
  exact leaves_of_body h (shka_arm o s) hl (by simp) ((if_pos hs).trans ((if_neg (Nat.not_lt.2 hr)).trans (absorbs_stored _ id _ hp)))

end Scratch

section Handle

variable (hm : o.minor.toNat < 16)

include hm

omit h in
theorem shka_legal_handle : ¬ bitOf o.minor.toNat 4 = true ∧
    (o.d == 0 && o.minor.toNat / 32 == 0 && (!bitOf o.minor.toNat 4 || o.minor.toNat % 8 == 0)) = true := by
  have h32 : o.minor.toNat / 32 = 0 := Nat.div_eq_of_lt (by omega)
  simp [hd, bitOf, Nat.div_eq_of_lt hm, h32]

theorem shka_null (hx : handleOf j o.minor.toNat = none) : Traps (.shka o) s id St.illegalField := by
  obtain ⟨hs, hl⟩ := shka_legal_handle hd hm
  exact traps_of_body h (shka_arm o s) hl (by simp) ((if_neg hs).trans (by simp only [Payload.handleOf_begun, hx]))

variable {x : Handle} (hx : handleOf j o.minor.toNat = some x)

include hx

theorem shka_beyond_handle (hr : x.len < (rd j o.a).toNat + (rd j o.b).toNat) : Traps (.shka o) s id St.bounds := by
  obtain ⟨hs, hl⟩ := shka_legal_handle hd hm
  exact traps_of_body h (shka_arm o s) hl (by simp)
    ((if_neg hs).trans (by simp only [Payload.handleOf_begun, hx]; exact if_pos hr))

theorem shka_absorbs_handle (hp : leNat (bytesOf (cleared o.minor j.scr) 0xFC8 1) < 136)
    (hr : (rd j o.a).toNat + (rd j o.b).toNat ≤ x.len) :
    Leaves (.shka o) s id (absorbed j o.minor (bufRead s x.buf (x.off + (rd j o.a).toNat) (rd j o.b).toNat)) := by
  obtain ⟨hs, hl⟩ := shka_legal_handle hd hm
  have hb : handleRead (fetched s o.t id j 1) x (rd j o.a).toNat (rd j o.b).toNat =
      bufRead s x.buf (x.off + (rd j o.a).toNat) (rd j o.b).toNat := Payload.bufRead_congr (fetched_buffers s o.t id j 1) ..
  rw [← hb]
  exact leaves_of_body h (shka_arm o s) hl (by simp) ((if_neg hs).trans (by
    simp only [Payload.handleOf_begun, hx]
    exact (if_neg (Nat.not_lt.2 hr)).trans (absorbs_stored _ id _ hp)))

end Handle
end Shka

/-! ### SHKS -/

/-- The state and position SHKS squeezes from, `p` being the stored position: the first time after an absorption, padded and at 0. -/
def squeezeFrom (scr : Tab Byte) (p : Nat) : List Word × Nat :=
  if kecSqueezing scr then (kecLanes scr, p) else (padShake (kecLanes scr) p, 0)

theorem squeezeFrom_lt {p : Nat} (h : p < 136) (scr : Tab Byte) : (squeezeFrom scr p).2 < 136 := by
  unfold squeezeFrom
  split
  · exact h
  · exact Nat.zero_lt_succ _

/-- The job as SHKS has squeezed the bytes `r.1`, and left the state `r.2`. -/
def squeezedOnce (j : Job) (d : Reg) (r : List Byte × List Word × Nat) : Job :=
  { begun j with g := (wr (begun j) d (BitVec.ofNat 64 (leNat r.1))).g, scr := kecPut j.scr r.2.1 r.2.2 true }

theorem squeezedOnce_eq (j : Job) (d : Reg) (r : List Byte × List Word × Nat) :
    { wr (begun j) d (BitVec.ofNat 64 (leNat r.1)) with scr := kecPut j.scr r.2.1 r.2.2 true } = squeezedOnce j d r := by
  rw [wr_eq]
  rfl

theorem shks_leaves {s : State} {id : Nat} {j : Job} {o : RForm} (h : Issues s o.t id j 1) (ha : o.a = 0) (hb : o.b = 0)
    (hm : o.minor = 0) {p : Nat} (hp : leNat (bytesOf j.scr 0xFC8 1) = p) (hlt : p < 136) :
    Leaves (.shks o) s id
      { squeezedOnce j o.d (squeeze (squeezeFrom j.scr p).1 (squeezeFrom j.scr p).2 8) with pc := j.pc + 1 } := by
  have arm : exec (.shks o) s = execShks o s := rfl
  have hpos : kecPos (fetched s o.t id j 1) j.scr = p := (kecPos_stored _ (hp ▸ hlt)).trans hp
  rw [← hpos]
  refine leaves_of_body (u := takeFree (fetched s o.t id j 1)) (j' := squeezedOnce j o.d _) (k := 1) h arm (by simp [ha, hb, hm]) (by simp) ?_
  rw [← squeezedOnce_eq]
  rfl

/-- Settles O16: absorption is a fold over the bytes, and SHKS's eight bytes cross the rate at most once. -/
theorem hashEffect : Obligations.HashEffect := by
  unfold Obligations.HashEffect
  refine ⟨absorb_append, ?_⟩
  intro s t id j d a b m h x y shka fresh after
  have hf : fresh = cleared m := by
    funext scr
    simp [fresh, cleared, bitOf]
  have hafter : after = absorbed j m := by
    funext bytes
    simp only [after, hf]
    rfl
  clear_value after
  subst hafter
  clear_value fresh
  subst hf
  let o : RForm := { t := t, d := 0, a := a, b := b, minor := m }
  refine ⟨fun hp => ⟨fun hm => ⟨?_, ?_⟩, fun hm => ⟨?_, fun k hk => ⟨?_, ?_⟩⟩⟩, fun hp => ?_⟩
  · exact shka_beyond_scratch (o := o) h rfl hm
  · exact shka_absorbs_scratch (o := o) h rfl hm hp
  · exact shka_null (o := o) h rfl hm
  · exact shka_beyond_handle (o := o) h rfl hm hk
  · exact shka_absorbs_handle (o := o) h rfl hm hk hp
  · intro p r q
    have hle := shks_leaves (o := { t := t, d := d, a := 0, b := 0, minor := 0 }) h rfl rfl rfl rfl hp
    rw [squeeze_eight _ (squeezeFrom_lt hp j.scr)] at hle
    exact ⟨_, hle, fun z => rd_wr (begun j) d z _, rfl⟩

end Sys2Proof.Hashing
end

section
/-! Drive commands submitted by a program: DSUB (R53, R64). -/

namespace Sys2Proof.DriveSubmission

open Sys2Proof Sys2Proof.Machine Sys2Proof.Issuing Sys2Proof.Stillness

/-! ### Returned statuses (R53) -/

/-- An instruction that returns a status completes with it, and Z says whether it is OK. -/
theorem returns_of_finish {c : Instr} {s u : State} {id len : Nat} {j : Job} {d : Reg} {st : Status}
    (h : exec c s = .next (sampleAfter (finish u id (ret (begun j) d st) len) id)) :
    Completes c s id j len d (st.setWidth 64) (st == 0) j.n j.c j.v := by
  rw [Control.ret_eq] at h
  exact Atomics.completes_of_finish_z h

/-- The job as an instruction returns OK with a number above the status. -/
theorem retWith_ok (j : Job) (d : Reg) (k : Nat) :
    retWith j d St.ok k = { j with g := (wr j d (BitVec.ofNat 64 (k * 65536))).g, z := true } := by
  rw [retWith, show St.ok.toNat + k * 65536 = k * 65536 by simp [St.ok], wr_eq]
  rfl

@[simp] theorem retWith_keep (j : Job) (d : Reg) (st : Status) (k : Nat) : (retWith j d st k).keep = j.keep := by rw [retWith, wr_eq]

/-! ### Members and their commands (R64, R180) -/

section Members

variable {s u : State} (h : still u = still s)

include h

theorem members_of_still : u.members = s.members := (congrArg State.members h :)

theorem nextCmd_of_still : u.nextCmd = s.nextCmd := (congrArg State.nextCmd h :)

theorem memberOf_of_still (m : Nat) : memberOf u m = memberOf s m := by rw [memberOf, members_of_still h, memberOf]

theorem hasPath_of_still (m : Nat) : hasPath u m = hasPath s m := by
  have hl : u.lease = s.lease := (congrArg State.lease h :)
  simp only [hasPath, standbyServes, serving_of_still h, lost_of_still h, hl]

theorem memberGone_of_still (m : Nat) : memberGone u m = memberGone s m := by
  simp only [memberGone, memberOf_of_still h, hasPath_of_still h]

end Members

theorem memberGone_fetched (s : State) (t : Thread) (id : Nat) (j : Job) (len m : Nat) :
    memberGone (fetched s t id j len) m = memberGone s m := memberGone_of_still (still_fetched s t id j len) m

/-- A member that DSUB reaches (R64). -/
theorem memberGone_eq_false {s : State} {m : Nat} : memberGone s m = false ↔
    (memberOf s m).mstate ≠ 0 ∧ (memberOf s m).mstate ≠ 3 ∧ (memberOf s m).mstate ≠ 4 ∧ hasPath s m = true := by
  simp [memberGone, and_assoc]

/-- The member of a command that is issued has it, under the next command number (R180). -/
theorem issueCmd_has {s : State} (h4 : isF s 0 F.FPIN.C4 = false) (m opcode lba : Nat) (use : DrvUse) (admin : Bool) (sqe : Block)
    (fua : Bool) : ∃ c, tabGet (memberOf (issueCmd s m opcode lba use admin sqe fua) m).cmds s.nextCmd = some c ∧
      c.opcode = opcode ∧ c.lba = lba ∧ c.use = use ∧ c.admin = admin ∧ (admin = true → c.queue = some 0) := by
  unfold issueCmd
  extract_lets sl x c
  rw [if_neg (by simp [h4])]
  refine ⟨c, ?_, rfl, rfl, rfl, rfl, fun ha => if_pos ha⟩
  rw [memberOf_of_still (still_countSrc ..)]
  show tabGet (tabGetD (tabPut s.members m { x with cmds := tabPut x.cmds s.nextCmd c }) m State.noMember).cmds s.nextCmd = some c
  rw [tabGetD_tabPut_self, tabGet_tabPut_self]

theorem jobs_issueCmd (s : State) (m opcode lba : Nat) (use : DrvUse) (admin : Bool) (sqe : Block) (fua : Bool) :
    (issueCmd s m opcode lba use admin sqe fua).jobs = s.jobs :=
  (congrArg State.jobs (LibraryForm.lasting_issueCmd s m opcode lba use admin sqe fua) :)

/-! ### DSUB -/

theorem dsub_arm (o : RForm) (s : State) : exec (.dsub o) s = execDsub o s := rfl

/-- A Read that may be submitted takes the lowest free ticket, and its member gets it (R64). -/
def takeTicket (o : RForm) (k : Handle) (s : State) (id : Nat) (j : Job) (b : Nat) (image : Block) : State :=
  match tabFree j.tickets 0 64 with
  | none => finish s id (ret j o.d St.busyRetry) 1
  | some t => finish (issueCmd s b 2 (leNat (blockSlice image 40 8)) (.ticket id t) false (sqeImage image j.keep) false) id
      (retWith { j with tickets := tabPut j.tickets t (newTicket false b 2 (some k) 0 0) } o.d St.ok t) 1

/-- What DSUB of a Read does once its image and its handle `k` have been checked (R64). -/
def readSubmit (o : RForm) (k : Handle) (s : State) (id : Nat) (j : Job) (b : Nat) (image : Block) : State :=
  if 64 ≤ b then finish s id (ret j o.d St.illegalField) 1
  else if 6 * s.n ≤ b then finish s id (ret j o.d St.outOfRange) 1
  else if memberGone s b then finish s id (ret j o.d St.memberGone) 1
  else if decide ((leNat (blockSlice image 48 2) + 1) * 4096 ≠ k.len) then finish s id (ret j o.d St.illegalField) 1
  else takeTicket o k s id j b image

section Read

variable {s : State} {id : Nat} {j : Job} {o : RForm} {k : Handle} (h : Issues s o.t id j 1)
  (hm : o.minor.toNat < 8) (hk : handleOf j o.minor.toNat = some k) (hw : k.rw = true) (hx : (rd j o.a).toNat ≤ 0xFC0)
  (ha : (rd j o.a).toNat % 64 = 0) (hop : byteAt (bytesOf j.scr (rd j o.a).toNat 64) 0 = 2)

include h hm hk hw hx ha hop

theorem dsub_read : exec (.dsub o) s = .next (sampleAfter (readSubmit o k (fetched s o.t id j 1) id (begun j) (rd j o.b).toNat
    (bytesOf j.scr (rd j o.a).toNat 64)) id) := by
  have hb (n : Nat) (hn : 8 ≤ 2 ^ n) : bitOf o.minor.toNat n = false := by simp [bitOf, Nat.div_eq_of_lt (hm.trans_le hn)]
  have h3 := hb 3 (by decide)
  have h4 := hb 4 (by decide)
  rw [next_of_issue h (dsub_arm o s) (by simp [Nat.div_eq_of_lt (show o.minor.toNat < 32 by omega)]) (by simp)]
  simp only [rd_begun, Payload.handleOf_begun, hk, show (begun j).scr = j.scr from rfl, h3, h4, hop, hw]
  rw [if_neg (by simp), if_neg (by omega), if_neg (by simp), if_neg (by simp), if_neg (by simp [nvmeDir])]
  simp only [retWith_keep]
  rfl

variable (hb : (rd j o.b).toNat < 64)

theorem dsub_reserved (hb : 64 ≤ (rd j o.b).toNat) : Completes (.dsub o) s id j 1 o.d (St.illegalField.setWidth 64) false j.n j.c j.v :=
  returns_of_finish ((dsub_read h hm hk hw hx ha hop).trans (by rw [readSubmit, if_pos hb]))

include hb

theorem dsub_beyond (hn : 6 * s.n ≤ (rd j o.b).toNat) :
    Completes (.dsub o) s id j 1 o.d (St.outOfRange.setWidth 64) false j.n j.c j.v :=
  returns_of_finish ((dsub_read h hm hk hw hx ha hop).trans
    (by rw [readSubmit, if_neg (Nat.not_le.2 hb), Access.fetched_n, if_pos hn]))

variable (hn : (rd j o.b).toNat < 6 * s.n)

include hn

theorem dsub_gone (hg : memberGone s (rd j o.b).toNat = true) :
    Completes (.dsub o) s id j 1 o.d (St.memberGone.setWidth 64) false j.n j.c j.v :=
  returns_of_finish ((dsub_read h hm hk hw hx ha hop).trans
    (by rw [readSubmit, if_neg (Nat.not_le.2 hb), Access.fetched_n, if_neg (Nat.not_le.2 hn), memberGone_fetched, hg, if_pos rfl]))

variable (hg : memberGone s (rd j o.b).toNat = false)

include hg

theorem dsub_length (hl : (leNat (blockSlice (bytesOf j.scr (rd j o.a).toNat 64) 48 2) + 1) * 4096 ≠ k.len) :
    Completes (.dsub o) s id j 1 o.d (St.illegalField.setWidth 64) false j.n j.c j.v :=
  returns_of_finish ((dsub_read h hm hk hw hx ha hop).trans
    (by rw [readSubmit, if_neg (Nat.not_le.2 hb), Access.fetched_n, if_neg (Nat.not_le.2 hn), memberGone_fetched, hg,
      if_neg Bool.false_ne_true, if_pos (decide_eq_true hl)]))

variable (hl : (leNat (blockSlice (bytesOf j.scr (rd j o.a).toNat 64) 48 2) + 1) * 4096 = k.len)

include hl

theorem dsub_ready : exec (.dsub o) s = .next (sampleAfter (takeTicket o k (fetched s o.t id j 1) id (begun j) (rd j o.b).toNat
    (bytesOf j.scr (rd j o.a).toNat 64)) id) :=
  (dsub_read h hm hk hw hx ha hop).trans (by rw [readSubmit, if_neg (Nat.not_le.2 hb), Access.fetched_n, if_neg (Nat.not_le.2 hn),
    memberGone_fetched, hg, if_neg Bool.false_ne_true, if_neg (by simp [hl])])

theorem dsub_busy (ht : tabFree j.tickets 0 64 = none) :
    Completes (.dsub o) s id j 1 o.d (St.busyRetry.setWidth 64) false j.n j.c j.v :=
  returns_of_finish ((dsub_ready h hm hk hw hx ha hop hb hn hg hl).trans
    (by rw [takeTicket, show (begun j).tickets = j.tickets from rfl, ht]))

/-- DSUB answers OK with its ticket, and the member has the command (R64, R180). -/
theorem dsub_submits (hu : Uncounted s o.t.slate) (h4 : isF s 0 F.FPIN.C4 = false) {t : Nat} (ht : tabFree j.tickets 0 64 = some t) :
    ∃ u j', exec (.dsub o) s = .next u ∧ jobOf u id = some j' ∧
      (∀ r, rd j' r = if r = 0 then 0 else if r = o.d then BitVec.ofNat 64 (t * 65536) else rd j r) ∧
      j' = { begun j with
        g := j'.g, z := true, pc := j.pc + 1, tickets := tabPut j.tickets t (newTicket false (rd j o.b).toNat 2 (some k) 0 0) } ∧
      ∃ c, tabGet (memberOf u (rd j o.b).toNat).cmds s.nextCmd = some c ∧ c.opcode = 2 ∧
        c.lba = leNat (blockSlice (bytesOf j.scr (rd j o.a).toNat 64) 40 8) ∧ c.use = .ticket id t := by
  have he := (dsub_ready h hm hk hw hx ha hop hb hn hg hl)
  rw [takeTicket, show (begun j).tickets = j.tickets from rfl, ht] at he
  have h4' : isF (fetched s o.t id j 1) 0 F.FPIN.C4 = false := (isF_congr (Access.fetched_ctl h.slate hu) (Access.fetched_n ..) ..).trans h4
  obtain ⟨c, hc, hop', hlba, huse, -⟩ := issueCmd_has h4' (rd j o.b).toNat 2
    (leNat (blockSlice (bytesOf j.scr (rd j o.a).toNat 64) 40 8)) (.ticket id t) false (sqeImage (bytesOf j.scr (rd j o.a).toNat 64) (begun j).keep) false
  rw [nextCmd_of_still (still_fetched s o.t id j 1)] at hc
  refine ⟨_, _, he, by rw [jobOf_sampleAfter, jobOf_finish, retWith_ok], fun r => ?_, rfl, c, ?_, hop', hlba, huse⟩
  · exact rd_wr { begun j with tickets := tabPut j.tickets t (newTicket false (rd j o.b).toNat 2 (some k) 0 0) } o.d r _
  · rw [memberOf_of_still (still_sampleAfter _ id)]
    exact hc

end Read

/-! ### The checks before (R64) -/

section Checks

variable {s : State} {id : Nat} {j : Job} {o : RForm} (h : Issues s o.t id j 1) (hm : o.minor.toNat < 32)

theorem byteAt_bytesOf_zero (t : Tab Byte) (a n : Nat) : byteAt (bytesOf t a (n + 1)) 0 = tabGetD t a 0 := by
  simp [byteAt, bytesOf]

include h hm

theorem dsub_admin_rights (ha : bitOf o.minor.toNat 4 = true) (hk : j.keep = false) : Traps (.dsub o) s id St.rights :=
  traps_of_body h (dsub_arm o s) (by simp [Nat.div_eq_of_lt hm]) (by simp) (if_pos (by simp [ha, begun, hk]))

variable (ha : bitOf o.minor.toNat 4 = true → j.keep = true)

include ha

omit h hm in
theorem admin_allowed : ¬ (bitOf o.minor.toNat 4 && !(begun j).keep) = true := by
  simpa [begun] using ha

theorem dsub_image (hx : 0xFC0 < (rd j o.a).toNat ∨ (rd j o.a).toNat % 64 ≠ 0) : Traps (.dsub o) s id St.outOfRange :=
  traps_of_body h (dsub_arm o s) (by simp [Nat.div_eq_of_lt hm]) (by simp) ((if_neg (admin_allowed ha)).trans (if_pos hx))

variable (hx : ¬ (0xFC0 < (rd j o.a).toNat ∨ (rd j o.a).toNat % 64 ≠ 0))

include hx

/-- Whether a JOB may not submit the command: it is no Read, or moves no data. -/
def jobBarred (o : RForm) (j : Job) : Bool :=
  (byteAt (bytesOf j.scr (rd j o.a).toNat 64) 0).toNat != 2 || bitOf o.minor.toNat 3

omit h hm ha hx in
theorem jobBarred_iff : jobBarred o j = true ↔ tabGetD j.scr (rd j o.a).toNat 0 ≠ 2 ∨ bitOf o.minor.toNat 3 = true := by
  rw [jobBarred, byteAt_bytesOf_zero, Bool.or_eq_true, bne_iff_ne]
  exact or_congr_left (not_congr (BitVec.toNat_inj (y := 2)))

theorem dsub_job_rights (hk : j.keep = false) (hb : jobBarred o j = true) : Traps (.dsub o) s id St.rights :=
  traps_of_body h (dsub_arm o s) (by simp [Nat.div_eq_of_lt hm]) (by simp)
    ((if_neg (admin_allowed ha)).trans ((if_neg hx).trans (if_pos (Bool.and_eq_true_iff.2 ⟨by simp [begun, hk], hb⟩))))

theorem dsub_null (hb : j.keep = false → jobBarred o j = false) (hn : bitOf o.minor.toNat 3 = false)
    (hx' : handleOf j o.minor.toNat = none) : Traps (.dsub o) s id St.illegalField := by
  have hjob : ¬ (!(begun j).keep && jobBarred o j) = true := by
    simp only [Bool.and_eq_true, Bool.not_eq_true', not_and, Bool.not_eq_true]
    exact hb
  exact traps_of_body h (dsub_arm o s) (by simp [Nat.div_eq_of_lt hm]) (by simp)
    ((if_neg (admin_allowed ha)).trans ((if_neg hx).trans ((if_neg hjob).trans (if_pos (by simp [hn, Payload.handleOf_begun, hx'])))))

end Checks

/-- Settles O17: the checks of R64 in their order, then the lowest free ticket. -/
theorem driveSubmit : Obligations.DriveSubmit := by
  unfold Obligations.DriveSubmit
  constructor
  case left =>
    intro s t id j d a b m k h hu hm hk hw x p image o answers hx ha hop
    have hk' : handleOf j o.minor.toNat = some k := (Payload.handleOf_lt hm j).trans hk
    refine ⟨dsub_reserved (o := o) h hm hk' hw hx ha hop, dsub_beyond (o := o) h hm hk' hw hx ha hop, fun hp hn => ?_⟩
    intro y present
    have hpres : present ↔ memberGone s p = false := memberGone_eq_false.symm
    clear_value present
    refine ⟨fun hg => dsub_gone (o := o) h hm hk' hw hx ha hop hp hn (by simpa [hpres] using hg), fun hg => ?_⟩
    rw [hpres] at hg
    refine ⟨dsub_length (o := o) h hm hk' hw hx ha hop hp hn hg, fun hl => ⟨dsub_busy (o := o) h hm hk' hw hx ha hop hp hn hg hl, ?_⟩⟩
    intro t ht h4
    obtain ⟨u, j', he, hj, hr, hj', hc⟩ := dsub_submits (o := o) h hm hk' hw hx ha hop hp hn hg hl hu h4 ht
    exact ⟨u, j', _, he, hj, hr, hj', rfl, rfl, hc⟩
  case right =>
    intro s t id j d a b m h hm x dsub admin nodata
    let o : RForm := { t := t, d := d, a := a, b := b, minor := m }
    have hadm : admin ↔ bitOf m.toNat 4 = true := by
      simp only [admin, bitOf, beq_iff_eq]
      omega
    have hnod : nodata ↔ bitOf m.toNat 3 = true := by simp [nodata, bitOf]
    clear_value admin nodata
    have image (hx : x ≤ 0xFC0) (ha : x % 64 = 0) : ¬ (0xFC0 < x ∨ x % 64 ≠ 0) := by omega
    rw [hadm, hnod]
    refine ⟨dsub_admin_rights (o := o) h hm, dsub_image (o := o) h hm, fun ha hk hx hx' hb => ?_, fun ha hx hx' hb hn hh => ?_⟩
    · exact dsub_job_rights (o := o) h hm (fun h' => absurd h' ha) (image hx hx') hk (jobBarred_iff.2 hb)
    · refine dsub_null (o := o) h hm ha (image hx hx') (fun hk => ?_) (by simpa using hn) hh
      rw [← Bool.not_eq_true, jobBarred_iff, not_or, not_not]
      exact ⟨hb hk, hn⟩

end Sys2Proof.DriveSubmission
end

section
/-! Reads of grains: what a read that starts leaves alone (R65, R162, R210). -/

namespace Sys2Proof.GrainReads

open Sys2Proof Sys2Proof.Machine Sys2Proof.Stillness Sys2Proof.LibraryForm

/-- The state without reads of grains, beside what drive commands and counts move. -/
def unread (s : State) : State := { lasting s with reads := [], nextRead := 0 }

section Parts

variable {s t : State} (h : unread t = unread s)

include h

theorem jobs_of_unread : t.jobs = s.jobs := (congrArg State.jobs h :)
theorem threads_of_unread : t.threads = s.threads := (congrArg State.threads h :)

end Parts

theorem unread_of_lasting {s t : State} (h : lasting t = lasting s) : unread t = unread s :=
  congrArg (fun u : State => { u with reads := [], nextRead := 0 }) h

theorem unread_foldl {α : Type} {f : State → α → State} (l : List α) (s : State) (h : ∀ s a, unread (f s a) = unread s) :
    unread (l.foldl f s) = unread s :=
  List.foldlRecOn (motive := fun t => unread t = unread s) l f rfl fun t ht a _ => (h t a).trans ht

theorem unread_issueReads (s : State) (id : Nat) : unread (issueReads s id) = unread s := by
  unfold issueReads
  split
  · extract_lets needs
    refine unread_foldl _ _ fun s p => unread_foldl _ _ fun s x => ?_
    split
    · exact (unread_of_lasting (lasting_issueCmd ..) :)
    · rfl
  · rfl

/-- A read that starts waits for its member reads; with none to wait for, a `CRD` or the fetch of a map grain ends. -/
theorem startRead_cases {P : State → Prop} {s : State} {sl k : Nat} {want : List Nat} {use : ReadUse}
    (hu : ∀ u, unread u = unread s → P u)
    (hc : ∀ job t, use = .crd job t → ∀ u r, unread u = unread s → P (finishCrd u r job t))
    (hn : ∀ v j i, use = .node v j i → ∀ u r, unread u = unread s → P (finishNode u r v j i)) :
    P (startRead s sl k want use) := by
  unfold startRead advanceRead
  extract_lets r u
  simp only [tabGet_tabPut_self]
  rw [if_neg (by simp [r])]
  have hi : unread u = unread s := (unread_issueReads ..).trans rfl
  clear_value u
  refine iteInduction (motive := P) (fun _ => hu u hi) fun _ => ?_
  split
  next job t h => exact hc job t h _ r hi
  next v j i h => exact hn v j i h _ r hi
  next => exact hu u hi

theorem modTicket_jobs {s u : State} (h : u.jobs = s.jobs) (job t : Nat) (f : Ticket → Ticket) :
    (modTicket u job t f).jobs = (modTicket s job t f).jobs := by
  simp only [modTicket, modJob, h]

/-- The end of a `CRD` gives its ticket a result, and changes no job otherwise. -/
theorem finishCrd_jobs (s : State) (r : GrainRead) (job t : Nat) : (finishCrd s r job t).jobs = s.jobs ∨
    ∃ w, (finishCrd s r job t).jobs = (modTicket s job t fun x => { x with result := some w }).jobs := by
  unfold finishCrd
  split
  · split
    · exact .inl rfl
    · refine .inr ⟨_, modTicket_jobs ?_ ..⟩
      split
      · exact List.foldlRecOn (motive := fun u : State => u.jobs = s.jobs) _ _ rfl fun u hu _ _ => hu
      · rfl
  · exact .inl rfl

end Sys2Proof.GrainReads
end

section
/-! CRD and DWAIT: grains read under a ticket, and a ticket collected (R53, R65, R66). -/

namespace Sys2Proof.Tickets

open Sys2Proof Sys2Proof.Machine Sys2Proof.Issuing Sys2Proof.Stillness Sys2Proof.DriveSubmission Sys2Proof.GrainReads

theorem grainsDurable_of_still {s u : State} (h : still u = still s) (first count : Nat) :
    grainsDurable u first count = grainsDurable s first count := by
  have hl : u.layout = s.layout := (congrArg State.layout h :)
  have hc : u.courses = s.courses := (congrArg State.courses h :)
  simp only [grainsDurable, courseOf, hl, hc]

theorem grainsDurable_fetched (s : State) (t : Thread) (id : Nat) (j : Job) (len first count : Nat) :
    grainsDurable (fetched s t id j len) first count = grainsDurable s first count :=
  grainsDurable_of_still (still_fetched s t id j len) first count

/-! ### CRD (R65) -/

/-- A CRD's reads change no job, but that they may already give its ticket a result. -/
theorem crdReads_ticket {s : State} {l : Layout} {sl id t first count : Nat} {j : Job} {tk : Ticket} (hj : jobOf s id = some j)
    (ht : tabGet j.tickets t = some tk) : ∃ tks tk', jobOf (crdReads s l sl id t first count) id = some { j with tickets := tks } ∧
      tabGet tks t = some tk' ∧ tk' = { tk with result := tk'.result } := by
  refine startRead_cases (P := fun u => ∃ tks tk', jobOf u id = some { j with tickets := tks } ∧
    tabGet tks t = some tk' ∧ tk' = { tk with result := tk'.result }) (fun u hu => ?_) (fun job t' huse u r hu => ?_) (fun v k i huse => ?_)
  · exact ⟨j.tickets, tk, (jobOf_congr (jobs_of_unread hu) id).trans hj, ht, rfl⟩
  · cases huse
    have hju := (jobOf_congr (jobs_of_unread hu) id).trans hj
    obtain hf | ⟨w, hf⟩ := finishCrd_jobs u r id t
    · exact ⟨j.tickets, tk, (jobOf_congr hf id).trans hju, ht, rfl⟩
    · refine ⟨tabMod j.tickets t fun x => { x with result := some w }, { tk with result := some w }, (jobOf_congr hf id).trans ?_, ?_, rfl⟩
      · rw [jobOf, modTicket, modJob, tabGet_tabMod_self, show tabGet u.jobs id = some j from hju]
        rfl
      · rw [tabGet_tabMod_self, ht]
        rfl
  · cases huse

/-- A job whose CRD took ticket `t` (R65). -/
def ticketed (j : Job) (d : Reg) (t : Nat) (tk : Ticket) : Job :=
  { j with tickets := tabPut j.tickets t tk, g := (wr { j with tickets := tabPut j.tickets t tk } d (BitVec.ofNat 64 (t * 65536))).g, z := true }

theorem retWith_ticketed (j : Job) (d : Reg) (t : Nat) (tk : Ticket) :
    retWith { j with tickets := tabPut j.tickets t tk } d St.ok t = ticketed j d t tk := retWith_ok ..

section Crd

variable {s : State} {id : Nat} {j : Job} {o : RForm} (h : Issues s o.t id j 1) (hm : o.minor.toNat < 8)

theorem crd_arm (o : RForm) (s : State) : exec (.crd o) s = execCrd o s := rfl

include h hm

theorem crd_null (hx : handleOf j o.minor.toNat = none) : Traps (.crd o) s id St.illegalField :=
  traps_of_body h (crd_arm o s) (by simp [Nat.div_eq_of_lt hm]) (by simp) (by simp only [Payload.handleOf_begun, hx])

/-- A CRD whose operands pass takes the lowest free ticket and starts its reads (R65). -/
def takeReads (o : RForm) (k : Handle) (s : State) (id : Nat) (j : Job) (first count : Nat) : State :=
  match tabFree j.tickets 0 64, s.layout with
  | some t, some l => crdReads (finish s id
      (retWith { j with tickets := tabPut j.tickets t (newTicket true 0 2 (some k) first count) } o.d St.ok t) 1) l j.slate id t first count
  | _, _ => finish s id (ret j o.d St.busyRetry) 1

omit h hm in
theorem takeReads_free {k : Handle} {u : State} {l : Layout} {i : Job} {t first count : Nat} (ht : tabFree i.tickets 0 64 = some t)
    (hl : u.layout = some l) : takeReads o k u id i first count =
      crdReads (finish u id (ticketed i o.d t (newTicket true 0 2 (some k) first count)) 1) l i.slate id t first count := by
  simp only [takeReads, ht, hl, retWith_ticketed]

variable {k : Handle} (hk : handleOf j o.minor.toNat = some k)

include hk

/-- CRD's checks in order (R65). -/
theorem crd_runs : exec (.crd o) s = .next (sampleAfter
    (if !k.rw then trapJob (fetched s o.t id j 1) id St.rights
      else if k.len < (rd j o.b).toNat % 1024 * 4096 then trapJob (fetched s o.t id j 1) id St.bounds
      else if 2 ^ 48 ≤ (rd j o.a).toNat ∨ 1024 ≤ (rd j o.b).toNat then
        finish (fetched s o.t id j 1) id (ret (begun j) o.d St.illegalField) 1
      else if (decide ((rd j o.b).toNat % 1024 = 0) || !grainsDurable s (rd j o.a).toNat ((rd j o.b).toNat % 1024)) = true then
        finish (fetched s o.t id j 1) id (ret (begun j) o.d St.outOfRange) 1
      else takeReads o k (fetched s o.t id j 1) id (begun j) (rd j o.a).toNat ((rd j o.b).toNat % 1024)) id) := by
  rw [next_of_issue h (crd_arm o s) (by simp [Nat.div_eq_of_lt hm]) (by simp)]
  rw [← grainsDurable_fetched s o.t id j 1]
  have hk' : handleOf (begun j) o.minor.toNat = some k := hk
  simp only [hk']
  rfl

theorem crd_rights (hw : k.rw = false) : Traps (.crd o) s id St.rights :=
  traps_of_trapJob (jobOf_fetched s o.t id j 1) ((crd_runs h hm hk).trans (by rw [if_pos (by simp [hw])]))

variable (hw : k.rw = true)

include hw

theorem crd_bounds (hl : k.len < (rd j o.b).toNat % 1024 * 4096) : Traps (.crd o) s id St.bounds :=
  traps_of_trapJob (jobOf_fetched s o.t id j 1) ((crd_runs h hm hk).trans (by rw [if_neg (by simp [hw]), if_pos hl]))

variable (hl : (rd j o.b).toNat % 1024 * 4096 ≤ k.len)

include hl

theorem crd_illegal (hx : 2 ^ 48 ≤ (rd j o.a).toNat ∨ 1024 ≤ (rd j o.b).toNat) :
    Completes (.crd o) s id j 1 o.d (St.illegalField.setWidth 64) false j.n j.c j.v :=
  returns_of_finish ((crd_runs h hm hk).trans (by rw [if_neg (by simp [hw]), if_neg (Nat.not_lt.2 hl), if_pos hx]))

variable (hx : ¬ (2 ^ 48 ≤ (rd j o.a).toNat ∨ 1024 ≤ (rd j o.b).toNat))

include hx

theorem crd_range (hg : (rd j o.b).toNat % 1024 = 0 ∨ grainsDurable s (rd j o.a).toNat ((rd j o.b).toNat % 1024) = false) :
    Completes (.crd o) s id j 1 o.d (St.outOfRange.setWidth 64) false j.n j.c j.v :=
  returns_of_finish ((crd_runs h hm hk).trans
    (by rw [if_neg (by simp [hw]), if_neg (Nat.not_lt.2 hl), if_neg hx, if_pos (by simpa using hg)]))

variable (hc : (rd j o.b).toNat % 1024 ≠ 0) (hg : grainsDurable s (rd j o.a).toNat ((rd j o.b).toNat % 1024) = true)

include hc hg

theorem crd_ready : exec (.crd o) s = .next (sampleAfter
    (takeReads o k (fetched s o.t id j 1) id (begun j) (rd j o.a).toNat ((rd j o.b).toNat % 1024)) id) :=
  (crd_runs h hm hk).trans (by rw [if_neg (by simp [hw]), if_neg (Nat.not_lt.2 hl), if_neg hx, if_neg (by simp [hc, hg])])

theorem crd_busy (ht : tabFree j.tickets 0 64 = none) : Completes (.crd o) s id j 1 o.d (St.busyRetry.setWidth 64) false j.n j.c j.v :=
  returns_of_finish ((crd_ready h hm hk hw hl hx hc hg).trans (by
    rw [takeReads, show (begun j).tickets = j.tickets from rfl, ht]))

omit h hm hk hw hl hx hc in
theorem layout_of_grainsDurable : ∃ l, s.layout = some l := by
  unfold grainsDurable at hg
  split at hg
  · cases hg
  · exact ⟨_, ‹_›⟩

/-- CRD answers OK with its ticket, whether or not its reads have ended (R65). -/
theorem crd_takes {t : Nat} (ht : tabFree j.tickets 0 64 = some t) :
    ∃ u j' tk, exec (.crd o) s = .next u ∧ jobOf u id = some j' ∧
      (∀ r, rd j' r = if r = 0 then 0 else if r = o.d then BitVec.ofNat 64 (t * 65536) else rd j r) ∧
      j'.z = true ∧ j'.pc = j.pc + 1 ∧ tabGet j'.tickets t = some tk ∧ tk.crd = true ∧ tk.first = (rd j o.a).toNat ∧
      tk.count = (rd j o.b).toNat % 1024 := by
  obtain ⟨l, hlay⟩ := layout_of_grainsDurable hg
  have hlay' : (fetched s o.t id j 1).layout = some l := (congrArg State.layout (still_fetched s o.t id j 1) :).trans hlay
  have he := crd_ready h hm hk hw hl hx hc hg
  rw [takeReads_free (i := begun j) ht hlay'] at he
  obtain ⟨tks, tk, hj, htk, hsame⟩ := crdReads_ticket (l := l) (sl := (begun j).slate) (first := (rd j o.a).toNat)
    (count := (rd j o.b).toNat % 1024) (jobOf_finish (fetched s o.t id j 1) id (ticketed (begun j) o.d t
      (newTicket true 0 2 (some k) (rd j o.a).toNat ((rd j o.b).toNat % 1024))) 1) (tabGet_tabPut_self j.tickets t _)
  refine ⟨_, _, tk, he, (jobOf_sampleAfter ..).trans hj, fun r => ?_, rfl, rfl, htk, ?_⟩
  · exact rd_wr { begun j with
      tickets := tabPut j.tickets t (newTicket true 0 2 (some k) (rd j o.a).toNat ((rd j o.b).toNat % 1024)) } o.d r _
  · rw [hsame]
    exact ⟨rfl, rfl, rfl⟩

end Crd

/-! ### DWAIT (R66) -/

section Dwait

variable {s : State} {id : Nat} {j : Job} {o : RForm} (h : Issues s o.t id j 1) (hl : (o.b == 0 && o.minor == 0) = true)

theorem dwait_arm (o : RForm) (s : State) : exec (.dwait o) s = execDwait o s := rfl

include h hl

theorem dwait_illegal (hx : tabGet j.tickets ((rd j o.a).toNat / 65536 % 64) = none ∨
    (rd j o.a).toNat ≠ (rd j o.a).toNat / 65536 % 64 * 65536) :
    Completes (.dwait o) s id j 1 o.d (St.illegalField.setWidth 64) false j.n j.c j.v := by
  cases ht : tabGet (begun j).tickets ((rd (begun j) o.a).toNat / 65536 % 64) with
  | none =>
    have he := next_of_issue h (dwait_arm o s) hl (by simp)
    simp only [ht] at he
    exact returns_of_finish he
  | some tk =>
    have hne := hx.resolve_left fun hn => Option.some_ne_none tk (ht.symm.trans hn)
    refine returns_of_finish (u := fetched s o.t id j 1) ((next_of_issue h (dwait_arm o s) hl (by simp)).trans (congrArg (fun u => Host.Outcome.next (sampleAfter u id)) ?_))
    simp only [ht]
    exact if_pos hne

variable {tk : Ticket} (ht : tabGet j.tickets ((rd j o.a).toNat / 65536 % 64) = some tk)
  (hx : (rd j o.a).toNat = (rd j o.a).toNat / 65536 % 64 * 65536)

include ht hx

theorem dwait_collects {w : Word} (hr : tk.result = some w) : ∃ j', Leaves (.dwait o) s id j' ∧
    (∀ r, rd j' r = if r = 0 then 0 else if r = o.d then w else rd j r) ∧
    j' = { begun j with
      g := j'.g, z := decide (w.toNat % 65536 = 0), pc := j.pc + 1, tickets := tabDel j.tickets ((rd j o.a).toNat / 65536 % 64) } := by
  have ht' : tabGet (begun j).tickets ((rd (begun j) o.a).toNat / 65536 % 64) = some tk := ht
  refine ⟨_, leaves_of_body (u := fetched s o.t id j 1) (j' := collect (begun j) o.d ((rd j o.a).toNat / 65536 % 64) w) (k := 1) h
    (dwait_arm o s) hl (by simp) ?_, fun r => ?_, ?_⟩
  · simp only [ht', hr]
    exact if_neg (not_not.2 hx)
  · exact rd_wr { begun j with tickets := tabDel j.tickets ((rd j o.a).toNat / 65536 % 64) } o.d r w
  · rw [collect, wr_eq]
    rfl

theorem dwait_suspends (hr : tk.result = none) (hj : isHk j = false) : ∃ u, exec (.dwait o) s = .next u ∧ jobOn u o.t = none ∧
    jobOf u id = some (suspended j (.ticket ((rd j o.a).toNat / 65536 % 64)) o.d) := by
  refine suspends_of_body (u := fetched s o.t id j 1) h (dwait_arm o s) hl (by simp) hj ?_
  have ht' : tabGet (begun j).tickets ((rd (begun j) o.a).toNat / 65536 % 64) = some tk := ht
  simp only [ht', hr]
  exact if_neg (not_not.2 hx)

end Dwait

/-- Settles O18: CRD's checks in the order of R65, then a ticket; DWAIT by its ticket. -/
theorem courseReadAndWait : Obligations.CourseReadAndWait := by
  unfold Obligations.CourseReadAndWait
  constructor
  case left =>
    intro s t id j d a b m h hu hm first y count crd answers
    let o : RForm := { t := t, d := d, a := a, b := b, minor := m }
    have hh := Payload.handleOf_lt hm j
    refine ⟨fun hx => crd_null (o := o) h hm (hh.trans hx), fun k hk => ?_⟩
    have hk' := hh.trans hk
    refine ⟨crd_rights (o := o) h hm hk', crd_bounds (o := o) h hm hk', fun hw hl => ⟨crd_illegal (o := o) h hm hk' hw hl, fun hf hy => ?_⟩⟩
    have hx : ¬ (2 ^ 48 ≤ first ∨ 1024 ≤ y) := by omega
    exact ⟨crd_range (o := o) h hm hk' hw hl hx, fun hc hg => ⟨crd_busy (o := o) h hm hk' hw hl hx hc hg,
      fun k ht => crd_takes (o := o) h hm hk' hw hl hx hc hg ht⟩⟩
  case right =>
    intro s t id j d a h x k dwait
    let o : RForm := { t := t, d := d, a := a, b := 0, minor := 0 }
    refine ⟨dwait_illegal (o := o) h rfl, fun tk ht hx => ⟨fun w => dwait_collects (o := o) h rfl ht hx, fun hr hj => ?_⟩⟩
    obtain ⟨u, he, hon, hof⟩ := dwait_suspends (o := o) h rfl ht hx hr hj
    exact ⟨u, _, he, hof, hon, rfl⟩

end Sys2Proof.Tickets
end

section
/-! Map entries read and set, and hazard entries taken and dropped: MGET, MSET, HAZ and HREL (R53, R68, R69, R144). -/

namespace Sys2Proof.MapOps

open Sys2Proof Sys2Proof.Machine Sys2Proof.Issuing Sys2Proof.Stillness Sys2Proof.LibraryForm Sys2Proof.DriveSubmission
  Sys2Proof.GrainReads

/-! ### What the map looks at -/

section Map

variable {s u : State} (h : still u = still s)

include h

theorem extentDefined_of_still (sl v lba k : Nat) : extentDefined u sl v lba k = extentDefined s sl v lba k := by
  have hv : u.volumes = s.volumes := (congrArg State.volumes h :)
  simp only [extentDefined, openSize, hv, now_of_still h]

theorem nodeCached_of_still (v j i : Nat) : nodeCached u v j i = nodeCached s v j i := by
  have hl : u.leaves = s.leaves := (congrArg State.leaves h :)
  simp only [nodeCached, nodeOf, hl]

theorem mapEntry_of_still (v lba : Nat) : mapEntry u v lba = mapEntry s v lba := by
  have hm : u.map = s.map := (congrArg State.map h :)
  simp only [mapEntry, hm]

end Map

theorem extentDefined_fetched (s : State) (t : Thread) (id : Nat) (j : Job) (len sl v lba k : Nat) :
    extentDefined (fetched s t id j len) sl v lba k = extentDefined s sl v lba k := extentDefined_of_still (still_fetched ..) sl v lba k

theorem nodeCached_fetched (s : State) (t : Thread) (id : Nat) (j : Job) (len v i k : Nat) :
    nodeCached (fetched s t id j len) v i k = nodeCached s v i k := nodeCached_of_still (still_fetched ..) v i k

theorem mapEntry_fetched (s : State) (t : Thread) (id : Nat) (j : Job) (len v lba : Nat) :
    mapEntry (fetched s t id j len) v lba = mapEntry s v lba := mapEntry_of_still (still_fetched ..) v lba

/-! ### A leaf that is fetched (R68, R162) -/

theorem tabGet_tabMapV {α : Type} (t : Tab α) (f : Nat → α → α) (x : Nat) : tabGet (tabMapV t f) x = (tabGet t x).map (f x) := by
  induction t with
  | nil => rfl
  | cons p t ih =>
    obtain ⟨k, a⟩ := p
    show tabGet ((k, f k a) :: tabMapV t f) x = _
    by_cases hx : x = k
    · subst hx
      simp [tabGet]
    · simpa [tabGet, hx] using ih

/-- `u` has the threads and jobs of `s`, but that jobs may have been given a result. -/
def OnlyResults (s u : State) : Prop :=
  u.threads = s.threads ∧ ∀ id j, jobOf s id = some j → ∃ r, jobOf u id = some { j with result := r }

theorem onlyResults_of_eq {s u : State} (ht : u.threads = s.threads) (hj : u.jobs = s.jobs) : OnlyResults s u :=
  ⟨ht, fun id j h => ⟨j.result, (jobOf_congr hj id).trans h⟩⟩

theorem onlyResults_failWaits (s : State) (v leaf : Nat) (st : Status) : OnlyResults s (failWaits s v leaf st) := by
  refine ⟨rfl, fun id j h => ?_⟩
  rw [jobOf, failWaits, tabGet_tabMapV, show tabGet s.jobs id = some j from h]
  exact iteInduction (motive := fun k : Job => ∃ r, some k = some { j with result := r }) (fun _ => ⟨_, rfl⟩) fun _ => ⟨j.result, rfl⟩

theorem onlyResults_finishNode (s : State) (r : GrainRead) (v j i : Nat) : OnlyResults s (finishNode s r v j i) := by
  have same : OnlyResults s s := onlyResults_of_eq rfl rfl
  unfold finishNode
  split
  · split
    · exact onlyResults_of_eq rfl rfl
    · split
      · exact onlyResults_failWaits ..
      · exact same
    · split
      · exact onlyResults_failWaits ..
      · exact same
  · exact same

/-- Bringing in a leaf gives waiting jobs their result at most. -/
theorem onlyResults_needLeaf (s : State) (v lba : Nat) : OnlyResults s (needLeaf s v lba) := by
  unfold needLeaf
  extract_lets i
  split
  · exact onlyResults_of_eq rfl rfl
  split
  · exact onlyResults_of_eq rfl rfl
  split
  · exact onlyResults_of_eq rfl rfl
  · refine startRead_cases (P := OnlyResults s) (fun u hu => ?_) (fun _ _ huse => ?_) (fun _ _ _ _ u r hu => ?_)
    · exact onlyResults_of_eq (threads_of_unread hu) (jobs_of_unread hu)
    · cases huse
    · obtain ⟨ht, hj⟩ := onlyResults_finishNode u r _ _ _
      exact ⟨ht.trans (threads_of_unread hu), fun id j h => hj id j ((jobOf_congr (jobs_of_unread hu) id).trans h)⟩

/-! ### Commit actions and records (R148, R192, R195) -/

theorem askCommit_owners (s : State) (id : Nat) : (askCommit s id).1.owners = s.owners ∧ (askCommit s id).1.ucn = s.ucn := by
  unfold askCommit
  dsimp only
  repeat' split
  all_goals exact ⟨rfl, rfl⟩

/-- What a job's tag word answers to its commit action (R148). -/
def mayCommit (qs : Tab Queue) (id : Nat) (j : Job) : Bool :=
  if !isCmd j then true
  else if j.detached then false
  else match tabGet qs j.hq with
    | none => true
    | some q => decide ((tagAt q j.tag).st = .committed ∨ (tagAt q j.tag).job ≠ some id) || !(tagAt q j.tag).latched

theorem askCommit_answer {s : State} {id : Nat} {j : Job} (hj : jobOf s id = some j) : (askCommit s id).2 = mayCommit s.queues id j := by
  simp only [askCommit, hj, mayCommit, queueAt]
  repeat' split
  all_goals simp_all

/-- A job that suspends is answered as before when it asks to commit. -/
theorem askCommit_suspended {s u : State} {id : Nat} {j : Job} {w : Wait} {d : Reg} (hj : jobOf s id = some j)
    (hu : jobOf u id = some (suspended j w d)) (hq : u.queues = s.queues) : (askCommit u id).2 = (askCommit s id).2 := by
  rw [askCommit_answer hu, askCommit_answer hj, hq]
  rfl

/-- A record that finds its ring line free draws the next UCN (R195, R196). -/
theorem ucn_addReq {s : State} {o : Nat} {x : RecReq} (hd : x.draws = true) (hw : (ownerOf s o).waiting = [])
    (hb : lineBusy (ownerOf s o) = false) : (addReq s o x).ucn = s.ucn + 1 := by
  simp only [addReq, hw, hb, List.isEmpty_nil, Bool.not_false, Bool.and_self, if_true, putRec, hd]
  unfold noteUcn
  split
  · split <;> rfl
  · rfl

/-- An MSET whose job may commit makes its record and waits for it (R68). -/
theorem msetNow_records {s : State} {id : Nat} {j : Job} (hj : jobOf s id = some j) (hc : (askCommit s id).2 = true) (v lba : Nat)
    (x : Word) : (msetNow s id v lba x).threads = s.threads ∧
      jobOf (msetNow s id v lba x) id = some { j with wait := .record j.slate (nextSeq s j.slate) } ∧
      ((ownerOf s j.slate).waiting = [] → lineBusy (ownerOf s j.slate) = false → (msetNow s id v lba x).ucn = s.ucn + 1) := by
  have hk : askCommit s id = ((askCommit s id).1, true) := Prod.ext rfl hc
  obtain ⟨ho, hu⟩ := askCommit_owners s id
  have hl := lasting_askCommit s id
  unfold msetNow
  rw [hj]
  dsimp only
  rw [hk]
  simp only [Bool.not_true, Bool.false_eq_true, if_false]
  generalize (askCommit s id).1 = a at ho hu hl ⊢
  have hr := (lasting_addReq (noteCached a v (lba / 512)) j.slate { body := .mset lba v x 0 (msetHow j), grp := false, draws := true })
  have hown : ownerOf (noteCached a v (lba / 512)) j.slate = ownerOf s j.slate := congrArg (fun t => tabGetD t j.slate ownerNew) ho
  refine ⟨(congrArg State.threads hr :).trans (congrArg State.threads hl :), ?_, fun hw hb => ?_⟩
  · have hj' : tabGet (addReq (noteCached a v (lba / 512)) j.slate
        { body := .mset lba v x 0 (msetHow j), grp := false, draws := true }).jobs id = some j :=
      (jobOf_congr ((congrArg State.jobs hr :).trans (congrArg State.jobs hl :)) id).trans hj
    rw [jobOf]
    simp only [addMset, modJob, tabGet_tabMod_self, hj', Option.map_some, nextSeq, hown]
  · refine (ucn_addReq (s := noteCached a v (lba / 512)) rfl ?_ ?_).trans (congrArg (· + 1) hu)
    · rw [hown, hw]
    · rw [hown, hb]

/-! ### MGET and MSET (R68) -/

theorem pairResult_next (j : Job) (d : Reg) (e : Word) (z : Bool) :
    { Control.pairResult j d e z with pc := (Control.pairResult j d e z).pc + 1 } =
      { j with g := (Control.pairResult j d e z).g, z := z, pc := j.pc + 1 } := by
  have h := Control.pairResult_eq j d e z
  generalize Control.pairResult j d e z = k at h ⊢
  have hpc : k.pc = j.pc := by rw [h]
  rw [hpc]
  exact (congrArg (fun x : Job => { x with pc := j.pc + 1 }) h :)

theorem mgetNow_eq (s : State) (j : Job) (d : Reg) (v lba : Nat) : mgetNow s j d v lba = Control.pairResult j d (mapEntry s v lba) true := by
  rw [mgetNow, Control.pairResult, Control.ret_eq]
  rfl

section MapAccess

theorem mget_arm (o : RForm) (s : State) : exec (.mget o) s = execMget o s := rfl

theorem mset_arm (o : RForm) (s : State) : exec (.mset o) s = execMset o s := rfl

variable {s : State} {id : Nat} {j : Job} {o : RForm} (h : Issues s o.t id j 1) (hl : (o.minor == 0 && pairOk o.d) = true)

include h hl

/-- MGET's checks in order (R68). -/
theorem mget_runs : exec (.mget o) s = .next (sampleAfter
    (if 4096 ≤ (rd j o.b).toNat then finish (fetched s o.t id j 1) id (ret (begun j) o.d St.illegalField) 1
      else if (!extentDefined s j.slate (rd j o.b).toNat (rd j o.a).toNat 1) = true then
        finish (fetched s o.t id j 1) id (ret (begun j) o.d St.outOfRange) 1
      else if nodeCached s (rd j o.b).toNat 0 ((rd j o.a).toNat / 512) = true then
        finish (noteCached (fetched s o.t id j 1) (rd j o.b).toNat ((rd j o.a).toNat / 512)) id
          (mgetNow (fetched s o.t id j 1) (begun j) o.d (rd j o.b).toNat (rd j o.a).toNat) 1
      else needLeaf (suspendJob (fetched s o.t id j 1) id (begun j) (.mapGet (rd j o.b).toNat (rd j o.a).toNat) o.d)
        (rd j o.b).toNat (rd j o.a).toNat) id) := by
  rw [next_of_issue h (mget_arm o s) hl (by simp), ← extentDefined_fetched s o.t id j 1, ← nodeCached_fetched s o.t id j 1]
  rfl

/-- MSET's checks in order (R68). -/
theorem mset_runs : exec (.mset o) s = .next (sampleAfter
    (if 4096 ≤ (rd j o.b).toNat then finish (fetched s o.t id j 1) id (ret (begun j) o.d St.illegalField) 1
      else if (!extentDefined s j.slate (rd j o.b).toNat (rd j o.a).toNat 1) = true then
        finish (fetched s o.t id j 1) id (ret (begun j) o.d St.outOfRange) 1
      else if (!j.keep && decide (rd j (o.d + 1) ≠ 0)) = true then trapJob (fetched s o.t id j 1) id St.rights
      else if nodeCached s (rd j o.b).toNat 0 ((rd j o.a).toNat / 512) = true then
        msetNow (suspendJob (fetched s o.t id j 1) id (begun j) (.mapSet (rd j o.b).toNat (rd j o.a).toNat (rd j (o.d + 1))) o.d) id
          (rd j o.b).toNat (rd j o.a).toNat (rd j (o.d + 1))
      else needLeaf (suspendJob (fetched s o.t id j 1) id (begun j)
          (.mapSet (rd j o.b).toNat (rd j o.a).toNat (rd j (o.d + 1))) o.d) (rd j o.b).toNat (rd j o.a).toNat) id) := by
  rw [next_of_issue h (mset_arm o s) hl (by simp), ← extentDefined_fetched s o.t id j 1, ← nodeCached_fetched s o.t id j 1]
  rfl

/-- The checks MGET and MSET share end both alike. -/
theorem map_illegal (hv : 4096 ≤ (rd j o.b).toNat) :
    Completes (.mget o) s id j 1 o.d (St.illegalField.setWidth 64) false j.n j.c j.v ∧
      Completes (.mset o) s id j 1 o.d (St.illegalField.setWidth 64) false j.n j.c j.v :=
  ⟨returns_of_finish ((mget_runs h hl).trans (by rw [if_pos hv])), returns_of_finish ((mset_runs h hl).trans (by rw [if_pos hv]))⟩

variable (hv : (rd j o.b).toNat < 4096)

include hv

theorem map_range (hx : extentDefined s j.slate (rd j o.b).toNat (rd j o.a).toNat 1 = false) :
    Completes (.mget o) s id j 1 o.d (St.outOfRange.setWidth 64) false j.n j.c j.v ∧
      Completes (.mset o) s id j 1 o.d (St.outOfRange.setWidth 64) false j.n j.c j.v :=
  have hv' := Nat.not_le.2 hv
  have hx' : (!extentDefined s j.slate (rd j o.b).toNat (rd j o.a).toNat 1) = true := by simp [hx]
  ⟨returns_of_finish ((mget_runs h hl).trans (by rw [if_neg hv', if_pos hx'])),
    returns_of_finish ((mset_runs h hl).trans (by rw [if_neg hv', if_pos hx']))⟩

variable (hx : extentDefined s j.slate (rd j o.b).toNat (rd j o.a).toNat 1 = true)

include hx

theorem mset_rights (hk : j.keep = false) (he : rd j (o.d + 1) ≠ 0) : Traps (.mset o) s id St.rights :=
  traps_of_trapJob (jobOf_fetched s o.t id j 1)
    ((mset_runs h hl).trans (by rw [if_neg (Nat.not_le.2 hv), if_neg (by simp [hx]), if_pos (Bool.and_eq_true_iff.2 ⟨by simp [hk], decide_eq_true he⟩)]))

omit h hl hv hx in
theorem mset_permitted (hk : j.keep = true ∨ rd j (o.d + 1) = 0) : ¬ (!j.keep && decide (rd j (o.d + 1) ≠ 0)) = true := by
  rw [Bool.and_eq_true, decide_eq_true_eq]
  rintro ⟨hk', he⟩
  exact hk.elim (fun hk => by simp [hk] at hk') he

omit hl hv hx in
/-- A job that waits for its leaf has left its thread. -/
theorem waits_for_leaf {u : State} (hj : isHk j = false) {w : Wait} {v lba : Nat} {c : Instr}
    (he : exec c s = .next (sampleAfter (needLeaf (suspendJob u id (begun j) w o.d) v lba) id)) :
    ∃ u' j', exec c s = .next u' ∧ jobOf u' id = some j' ∧ jobOn u' o.t = none ∧ j'.wait = w ∧ j'.pc = j.pc + 1 ∧ j'.dst = o.d ∧
      j'.g = j.g := by
  obtain ⟨ht, hr⟩ := onlyResults_needLeaf (suspendJob u id (begun j) w o.d) v lba
  obtain ⟨r, hr⟩ := hr id _ (jobOf_suspendJob u hj w o.d)
  refine ⟨_, _, he, (jobOf_sampleAfter ..).trans hr, ?_, rfl, rfl, rfl, rfl⟩
  rw [jobOn_sampleAfter, jobOn_congr ht, jobOn_suspendJob h hj]

theorem mget_waits (hj : isHk j = false) (hc : nodeCached s (rd j o.b).toNat 0 ((rd j o.a).toNat / 512) = false) :
    ∃ u j', exec (.mget o) s = .next u ∧ jobOf u id = some j' ∧ jobOn u o.t = none ∧
      j'.wait = .mapGet (rd j o.b).toNat (rd j o.a).toNat ∧ j'.pc = j.pc + 1 ∧ j'.dst = o.d ∧ j'.g = j.g :=
  waits_for_leaf h hj ((mget_runs h hl).trans (by rw [if_neg (Nat.not_le.2 hv), if_neg (by simp [hx]), if_neg (by simp [hc])]))

variable (hk : j.keep = true ∨ rd j (o.d + 1) = 0)

include hk

theorem mset_waits (hj : isHk j = false) (hc : nodeCached s (rd j o.b).toNat 0 ((rd j o.a).toNat / 512) = false) :
    ∃ u j', exec (.mset o) s = .next u ∧ jobOf u id = some j' ∧ jobOn u o.t = none ∧
      j'.wait = .mapSet (rd j o.b).toNat (rd j o.a).toNat (rd j (o.d + 1)) ∧ j'.pc = j.pc + 1 ∧ j'.dst = o.d ∧ j'.g = j.g :=
  waits_for_leaf h hj ((mset_runs h hl).trans (by
    rw [if_neg (Nat.not_le.2 hv), if_neg (by simp [hx]), if_neg (mset_permitted hk), if_neg (by simp [hc])]))

variable (hc : nodeCached s (rd j o.b).toNat 0 ((rd j o.a).toNat / 512) = true)

include hc

omit hk in
theorem mget_returns : ∃ u j', exec (.mget o) s = .next u ∧ jobOf u id = some j' ∧
    (∀ r, rd j' r = if r = 0 then 0 else if r = o.d then 0 else if r = o.d + 1 then mapEntry s (rd j o.b).toNat (rd j o.a).toNat else rd j r) ∧
    j' = { begun j with g := j'.g, z := true, pc := j.pc + 1 } ∧ u.map = s.map := by
  have he := (mget_runs h hl).trans (by rw [if_neg (Nat.not_le.2 hv), if_neg (by simp [hx]), if_pos hc])
  have hm : mgetNow (fetched s o.t id j 1) (begun j) o.d (rd j o.b).toNat (rd j o.a).toNat =
      Control.pairResult (begun j) o.d (mapEntry s (rd j o.b).toNat (rd j o.a).toNat) true := by
    rw [mgetNow_eq, mapEntry_fetched]
  have hr := Control.rd_pairResult (begun j) o.d (mapEntry s (rd j o.b).toNat (rd j o.a).toNat) true
  have hn := pairResult_next (begun j) o.d (mapEntry s (rd j o.b).toNat (rd j o.a).toNat) true
  rw [hm] at he
  generalize Control.pairResult (begun j) o.d (mapEntry s (rd j o.b).toNat (rd j o.a).toNat) true = k at he hr hn
  refine ⟨_, _, he, (jobOf_sampleAfter ..).trans (jobOf_finish ..), hr, hn, ?_⟩
  exact (congrArg State.map (still_sampleAfter ..) :).trans (congrArg State.map (still_fetched s o.t id j 1) :)

theorem mset_records (hj : isHk j = false) (ha : (askCommit s id).2 = true) :
    ∃ u j', exec (.mset o) s = .next u ∧ jobOf u id = some j' ∧ jobOn u o.t = none ∧
      ((ownerOf s j.slate).waiting = [] → lineBusy (ownerOf s j.slate) = false → u.ucn = s.ucn + 1) ∧
      j' = suspended j (.record j.slate (nextSeq s j.slate)) o.d := by
  have he := (mset_runs h hl).trans (by
    rw [if_neg (Nat.not_le.2 hv), if_neg (by simp [hx]), if_neg (mset_permitted hk), if_pos hc])
  have hs := (Ending.still_suspendJob (fetched s o.t id j 1) id (begun j)
    (.mapSet (rd j o.b).toNat (rd j o.a).toNat (rd j (o.d + 1))) o.d hj)
  have hf := still_fetched s o.t id j 1
  have hj' := jobOf_suspendJob (id := id) (fetched s o.t id j 1) hj (.mapSet (rd j o.b).toNat (rd j o.a).toNat (rd j (o.d + 1))) o.d
  have hon := jobOn_suspendJob (u := fetched s o.t id j 1) h hj (.mapSet (rd j o.b).toNat (rd j o.a).toNat (rd j (o.d + 1))) o.d
  generalize suspendJob (fetched s o.t id j 1) id (begun j) (.mapSet (rd j o.b).toNat (rd j o.a).toNat (rd j (o.d + 1))) o.d = u
    at he hs hj' hon
  have hq : u.queues = s.queues := (congrArg State.queues hs :).trans (congrArg State.queues hf :)
  have ho : u.owners = s.owners := (congrArg State.owners hs :).trans (congrArg State.owners hf :)
  have hn : u.ucn = s.ucn := (congrArg State.ucn hs :).trans (congrArg State.ucn hf :)
  obtain ⟨hth, hjob, hucn⟩ := msetNow_records hj' ((askCommit_suspended h.job hj' hq).trans ha) (rd j o.b).toNat (rd j o.a).toNat
    (rd j (o.d + 1))
  have hown : ownerOf u j.slate = ownerOf s j.slate := congrArg (fun t => tabGetD t j.slate ownerNew) ho
  refine ⟨_, _, he, (jobOf_sampleAfter ..).trans hjob, ?_, fun hw hb => ?_, ?_⟩
  · rw [jobOn_sampleAfter, jobOn_congr hth, hon]
  · refine (congrArg State.ucn (still_sampleAfter ..) :).trans ((hucn ?_ ?_).trans (congrArg (· + 1) hn))
    · exact (congrArg Owner.waiting hown).trans hw
    · exact (congrArg lineBusy hown).trans hb
  · rw [nextSeq, show ownerOf u (suspended j _ o.d).slate = ownerOf s j.slate from hown]
    rfl

end MapAccess

/-! ### HAZ and HREL (R69, R144) -/

/-- The entry HAZ takes for identifier `i`: at the place of the job's extent of dispatch, where it has one. -/
def extraEntry (s : State) (id : Nat) (j : Job) (i v lba k : Nat) : Hazard :=
  let base := s.hazards.find? fun h => h.job == some id && h.id == 0xFE
  { hq := j.hq, tag := j.tag, job := some id, id := i, pos := (match base with | some x => x.pos | none => j.nonce.toNat)
    seq := (match base with | some x => x.seq | none => 0), volume := v, lba := lba, count := k, modify := true }

/-- The state with one more hazard entry. -/
def withHazard (s : State) (h : Hazard) : State := { s with hazards := s.hazards ++ [h], hazPast := s.hazPast ++ [h] }

theorem hazards_of_still {s u : State} (h : still u = still s) : u.hazards = s.hazards := (congrArg State.hazards h :)

theorem hazBlocked_congr {s u : State} (h : u.hazards = s.hazards) (x : Hazard) : hazBlocked u x = hazBlocked s x := by
  simp only [hazBlocked, h]

theorem freeHazId_fetched (s : State) (t : Thread) (id : Nat) (j : Job) (len : Nat) :
    freeHazId (fetched s t id j len) id = freeHazId s id := by
  simp only [freeHazId, extraHaz, hazards_of_still (still_fetched ..)]
  rfl

section Hazards

theorem haz_arm (o : RForm) (s : State) : exec (.haz o) s = execHaz o s := rfl

theorem hrel_arm (o : RForm) (s : State) : exec (.hrel o) s = execHrel o s := rfl

variable {s : State} {id : Nat} {j : Job} {o : RForm} (h : Issues s o.t id j 1) (hl : (o.minor == 0) = true)

/-- HAZ with a free identifier: the job waits where an earlier conflicting entry remains (R144). -/
def takeHazard (o : RForm) (s : State) (id : Nat) (j : Job) (i v k : Nat) : State :=
  let x := extraEntry s id j i v (rd j o.a).toNat k
  if hazBlocked (withHazard s x) x then suspendJob (withHazard s x) id j (.hazard i) o.d
  else finish (withHazard s x) id (retWith j o.d St.ok i) 1

omit h hl in
theorem hazards_takeHazard (s : State) (id : Nat) (j : Job) (i v k : Nat) :
    (takeHazard o s id j i v k).hazards = s.hazards ++ [extraEntry s id j i v (rd j o.a).toNat k] := by
  unfold takeHazard suspendJob
  dsimp only
  split
  · split
    · rfl
    · exact hazards_of_still (still_countSrc ..)
  · rfl

omit h hl in
/-- Whether the new entry has to wait shows in the state that HAZ leaves. -/
theorem takeHazard_eq (s : State) (id : Nat) (j : Job) (i v k : Nat) : takeHazard o s id j i v k =
    if hazBlocked (takeHazard o s id j i v k) (extraEntry s id j i v (rd j o.a).toNat k) then
      suspendJob (withHazard s (extraEntry s id j i v (rd j o.a).toNat k)) id j (.hazard i) o.d
    else finish (withHazard s (extraEntry s id j i v (rd j o.a).toNat k)) id (retWith j o.d St.ok i) 1 := by
  rw [hazBlocked_congr (s := withHazard s (extraEntry s id j i v (rd j o.a).toNat k)) (hazards_takeHazard ..)]
  rfl

include h hl

/-- HAZ's checks in order (R69). -/
theorem haz_runs : exec (.haz o) s = .next (sampleAfter
    (if (rd j o.b).toNat ≠ (rd j o.b).toNat % 4096 + (rd j o.b).toNat / 65536 % 4096 * 65536 ∨ (!isCmd j) = true then
        finish (fetched s o.t id j 1) id (ret (begun j) o.d St.illegalField) 1
      else if (rd j o.b).toNat / 65536 % 4096 = 0 ∨ 2048 < (rd j o.b).toNat / 65536 % 4096 then
        finish (fetched s o.t id j 1) id (ret (begun j) o.d St.outOfRange) 1
      else match freeHazId s id with
        | none => finish (fetched s o.t id j 1) id (ret (begun j) o.d St.busyRetry) 1
        | some i => takeHazard o (fetched s o.t id j 1) id (begun j) i ((rd j o.b).toNat % 4096) ((rd j o.b).toNat / 65536 % 4096)) id) := by
  rw [next_of_issue h (haz_arm o s) hl (by simp), ← freeHazId_fetched s o.t id j 1]
  rfl

theorem haz_illegal (hx : (rd j o.b).toNat ≠ (rd j o.b).toNat % 4096 + (rd j o.b).toNat / 65536 % 4096 * 65536 ∨ isCmd j = false) :
    Completes (.haz o) s id j 1 o.d (St.illegalField.setWidth 64) false j.n j.c j.v :=
  returns_of_finish ((haz_runs h hl).trans (by rw [if_pos (by simpa using hx)]))

omit hl in
/-- HREL drops the entries it names (R69). -/
theorem hrel_drops (hl : (o.d == 0 && o.b == 0 && o.minor == 0) = true) : ∃ u, exec (.hrel o) s = .next u ∧
    jobOf u id = some { begun j with pc := j.pc + 1 } ∧
    ∀ x, x ∈ u.hazards ↔ x ∈ s.hazards ∧
      ¬ (x.job = some id ∧ ((rd j o.a).toNat / 65536 % 256 = 0xFF ∨ x.id = (rd j o.a).toNat / 65536 % 256)) := by
  refine ⟨_, next_of_issue h (hrel_arm o s) hl (by simp), (jobOf_sampleAfter ..).trans (jobOf_finish ..), fun x => ?_⟩
  have hf : (fetched s o.t id j 1).hazards = s.hazards := (hazards_of_still (still_fetched s o.t id j 1)).trans rfl
  rw [hazards_of_still (still_sampleAfter ..)]
  show x ∈ (dropHazards _ _).hazards ↔ _
  simp only [dropHazards, hf, List.mem_filter, rd_begun, Bool.not_eq_true', Bool.and_eq_false_iff, Bool.or_eq_false_iff, beq_eq_false_iff_ne]
  tauto

omit h hl in
theorem haz_fields (hy : (rd j o.b).toNat = (rd j o.b).toNat % 4096 + (rd j o.b).toNat / 65536 % 4096 * 65536) (hc : isCmd j = true) :
    ¬ ((rd j o.b).toNat ≠ (rd j o.b).toNat % 4096 + (rd j o.b).toNat / 65536 % 4096 * 65536 ∨ (!isCmd j) = true) :=
  fun hx => hx.elim (fun hx => hx hy) fun hx => by simp [hc] at hx

omit h hl in
theorem isHk_of_isCmd (hc : isCmd j = true) : isHk j = false := by
  unfold isCmd at hc
  split at hc
  · simp only [isHk, *]
  · cases hc

variable (hy : (rd j o.b).toNat = (rd j o.b).toNat % 4096 + (rd j o.b).toNat / 65536 % 4096 * 65536) (hc : isCmd j = true)

include hy hc

theorem haz_range (hx : (rd j o.b).toNat / 65536 % 4096 = 0 ∨ 2048 < (rd j o.b).toNat / 65536 % 4096) :
    Completes (.haz o) s id j 1 o.d (St.outOfRange.setWidth 64) false j.n j.c j.v :=
  returns_of_finish ((haz_runs h hl).trans (by rw [if_neg (haz_fields hy hc), if_pos hx]))

variable (h0 : (rd j o.b).toNat / 65536 % 4096 ≠ 0) (h1 : (rd j o.b).toNat / 65536 % 4096 ≤ 2048)

include h0 h1

theorem haz_busy (hi : freeHazId s id = none) : Completes (.haz o) s id j 1 o.d (St.busyRetry.setWidth 64) false j.n j.c j.v :=
  returns_of_finish ((haz_runs h hl).trans (by rw [if_neg (haz_fields hy hc), if_neg (by omega), hi]))

/-- HAZ takes its entry, and answers or waits by what is before it. -/
theorem haz_takes {i : Nat} (hi : freeHazId s id = some i) : ∃ u x, exec (.haz o) s = .next u ∧ u.hazards = s.hazards ++ [x] ∧
    x.hq = j.hq ∧ x.tag = j.tag ∧ x.job = some id ∧ x.id = i ∧ x.volume = (rd j o.b).toNat % 4096 ∧ x.lba = (rd j o.a).toNat ∧
    x.count = (rd j o.b).toNat / 65536 % 4096 ∧ x.modify = true ∧
    (hazBlocked u x = false → ∃ j', jobOf u id = some j' ∧
      (∀ r, rd j' r = if r = 0 then 0 else if r = o.d then BitVec.ofNat 64 (i * 65536) else rd j r) ∧
      j' = { begun j with g := j'.g, z := true, pc := j.pc + 1 }) ∧
    (hazBlocked u x = true → jobOn u o.t = none ∧ jobOf u id = some (suspended j (.hazard i) o.d)) := by
  have he := (haz_runs h hl).trans (by rw [if_neg (haz_fields hy hc), if_neg (by omega), hi])
  have hj : isHk j = false := isHk_of_isCmd hc
  have hz := hazards_takeHazard (o := o) (fetched s o.t id j 1) id (begun j) i ((rd j o.b).toNat % 4096) ((rd j o.b).toNat / 65536 % 4096)
  have ht := takeHazard_eq (o := o) (fetched s o.t id j 1) id (begun j) i ((rd j o.b).toNat % 4096) ((rd j o.b).toNat / 65536 % 4096)
  dsimp only at he
  generalize takeHazard o (fetched s o.t id j 1) id (begun j) i ((rd j o.b).toNat % 4096) ((rd j o.b).toNat / 65536 % 4096) = u at he hz ht
  have hf : (fetched s o.t id j 1).hazards = s.hazards := (hazards_of_still (still_fetched s o.t id j 1)).trans rfl
  have hs : (sampleAfter u id).hazards = u.hazards := hazards_of_still (still_sampleAfter ..)
  refine ⟨_, _, he, (hs.trans hz).trans (congrArg (· ++ _) hf), rfl, rfl, rfl, rfl, rfl, rfl,
    rfl, rfl, fun hb => ?_, fun hb => ?_⟩
  · rw [hazBlocked_congr hs] at hb
    rw [if_neg (Bool.eq_false_iff.1 hb), retWith_ok] at ht
    rw [jobOf_sampleAfter, ht]
    exact ⟨_, jobOf_finish .., fun r => rd_wr (begun j) o.d r _, rfl⟩
  · rw [hazBlocked_congr hs] at hb
    rw [if_pos hb] at ht
    rw [jobOn_sampleAfter, jobOf_sampleAfter, ht]
    exact ⟨jobOn_suspendJob h hj _ _, jobOf_suspendJob _ hj _ _⟩

end Hazards

/-- Settles O20: the checks of MGET, MSET and HAZ in the order of R68 and R69, and what each takes, makes or waits for. -/
theorem mapAndHazardEffect : Obligations.MapAndHazardEffect := by
  unfold Obligations.MapAndHazardEffect
  constructor
  case left =>
    intro s t id j d a b h hu hd lba v e o both
    have hl : (o.minor == 0 && pairOk o.d) = true := by simp [o, pairOk, hd]
    refine ⟨map_illegal (o := o) h hl, map_range (o := o) h hl, fun hv hx => ⟨mset_rights (o := o) h hl hv hx, fun hc hj => ?_, fun hc => ?_⟩⟩
    · exact ⟨mget_waits (o := o) h hl hv hx hj hc, fun hk => mset_waits (o := o) h hl hv hx hk hj hc⟩
    · exact ⟨mget_returns (o := o) h hl hv hx hc, fun hk ha hj => mset_records (o := o) h hl hv hx hk hc hj ha⟩
  case right =>
    intro s t id j d a b h hu y v k haz answers
    let o : RForm := { t := t, d := d, a := a, b := b, minor := 0 }
    refine ⟨haz_illegal (o := o) h rfl, fun hy hc => ⟨haz_range (o := o) h rfl hy hc, fun h0 h1 =>
      ⟨haz_busy (o := o) h rfl hy hc h0 h1, fun i => haz_takes (o := o) h rfl hy hc h0 h1⟩⟩, ?_⟩
    exact hrel_drops (o := { t := t, d := 0, a := a, b := 0, minor := 0 }) h rfl

end Sys2Proof.MapOps
end

section
/-! What courses, records and counts leave alone of members and of latched detectors (R84, R173, R192, R207 to R209). -/

namespace Sys2Proof.MemberFrame

open Sys2Proof Sys2Proof.Machine Sys2Proof.Reporting Sys2Proof.Stillness Sys2Proof.DriveSubmission

/-! ### Changes that move no member -/

/-- `u` has the members of `s`, and what `s` had latched. -/
structure Keeps (s u : State) : Prop where
  members : u.members = s.members
  latched : ∀ sl e, e < 2048 → Detected s sl e → Detected u sl e

namespace Keeps

theorem refl (s : State) : Keeps s s := ⟨rfl, fun _ _ _ h => h⟩

theorem trans {s t u : State} (h : Keeps s t) (h' : Keeps t u) : Keeps s u :=
  ⟨h'.members.trans h.members, fun sl e he hd => h'.latched sl e he (h.latched sl e he hd)⟩

theorem ite {c : Prop} [Decidable c] {s a b : State} (ha : Keeps s a) (hb : Keeps s b) : Keeps s (if c then a else b) := by
  split
  · exact ha
  · exact hb

theorem foldl {α : Type} {f : State → α → State} (l : List α) (s : State) (h : ∀ s a, Keeps s (f s a)) : Keeps s (l.foldl f s) :=
  List.foldlRecOn (motive := Keeps s) l f (refl s) fun _ ht a _ => ht.trans (h _ a)

theorem of_reports {s u : State} (h : Reports s u) : Keeps s u := ⟨members_of_still (still_of_reports h), h.stat⟩

theorem of_same {s u : State} (hm : u.members = s.members) (hc : u.ctl = s.ctl) (hn : u.n = s.n) : Keeps s u := by
  refine ⟨hm, fun sl e _ hd => ?_⟩
  unfold Detected at hd ⊢
  rwa [getF_congr hc hn]

/-- After a change outside members and control space. -/
theorem after {s t u : State} (h : Keeps t u) (hm : t.members = s.members) (hc : t.ctl = s.ctl) (hn : t.n = s.n) : Keeps s u :=
  (of_same hm hc hn).trans h

theorem setF (s : State) (sl : Nat) {f : Fld} (hf : f.sp < 32 ∧ f.e < 0xF00) (v : Nat) : Keeps s (setF s sl f v) := by
  refine ⟨rfl, fun sl' e he hd => ?_⟩
  unfold Detected at hd ⊢
  rwa [getF_setF_ne (by omega) v (by simp only [F.STAT_REAL]; omega)]
  simp only [F.STAT_REAL]
  omega

theorem bump (s : State) (sl : Nat) {f : Fld} (hf : f.sp < 32 ∧ f.e < 0xF00) (k : Nat) : Keeps s (bump s sl f k) := setF s sl hf _

theorem detect (s : State) (sl : Nat) {e : Nat} (h : e < 2048) (d : List Word) : Keeps s (detect s sl e d) :=
  of_reports (detect_reports s sl h d)

end Keeps

theorem keeps_addCounter (s : State) (sl inc : Nat) {k : Nat} (hk : k < 16) : Keeps s (addCounter s sl k inc) := by
  have hv : (F.PERF.VALUE k).sp < 32 ∧ (F.PERF.VALUE k).e < 0xF00 := by simp only [F.PERF.VALUE]; omega
  have ho : (F.PERF.OVF k).sp < 32 ∧ (F.PERF.OVF k).e < 0xF00 := by simp only [F.PERF.OVF]; omega
  unfold addCounter
  extract_lets v u
  have hu : Keeps s u := .setF s sl hv v
  clear_value u
  exact .ite (hu.trans ((Keeps.setF u sl ho 1).trans (.of_reports (raise_reports _ sl (by decide))))) hu

theorem keeps_countSrc (s : State) (sl src v : Nat) : Keeps s (countSrc s sl src v) :=
  .ite (.refl s) (List.foldlRecOn (motive := Keeps s) _ _ (.refl s) fun t ht _ hk =>
    ht.trans (.ite (keeps_addCounter t sl _ (List.mem_range.1 hk)) (.refl t)))

/-- A field outside PERF that no report notes is as it was. -/
theorem getF_countSrc {f : Fld} (hf : f.sp < 32 ∧ f.e < 4096 ∧ noted f.sp f.e = false) (hp : f.sp ≠ 0x0F) (s : State)
    (sl src v sl' : Nat) : getF (countSrc s sl src v) sl' f = getF s sl' f := by
  have set (s : State) {g : Fld} (hg : g.sp = 0x0F) (he : g.e < 4096) (x : Nat) : getF (setF s sl g x) sl' f = getF s sl' f :=
    getF_setF_ne ⟨by omega, he⟩ x ⟨hf.1, hf.2.1⟩ fun _ h => absurd (h.trans hg) hp
  refine iteInduction (motive := fun u => getF u sl' f = getF s sl' f) (fun _ => rfl) fun _ => ?_
  refine List.foldlRecOn (motive := fun u => getF u sl' f = getF s sl' f) _ _ rfl fun t ht k hk => ?_
  have hk := List.mem_range.1 hk
  refine (iteInduction (motive := fun u => getF u sl' f = getF t sl' f) (fun _ => ?_) fun _ => rfl).trans ht
  unfold addCounter
  extract_lets y u
  have hu : getF u sl' f = getF t sl' f := set t rfl (show 0x20 + k < 4096 by omega) y
  clear_value u
  refine iteInduction (motive := fun u => getF u sl' f = getF t sl' f) (fun _ => ?_) fun _ => hu
  exact ((raise_reports _ sl (by decide)).getF hf sl').trans ((set u rfl (show 0x20 + k < 4096 by omega) 1).trans hu)

theorem keeps_noteUcn (s : State) (u : Nat) (b : RecBody) : Keeps s (noteUcn s u b) := by
  unfold noteUcn
  split
  · exact .ite (.refl s) (.of_same rfl rfl rfl)
  · exact .refl s

theorem keeps_putOwner (s : State) (o : Nat) (w : Owner) : Keeps s (putOwner s o w) := .of_same rfl rfl rfl

theorem keeps_drawUcn (s : State) : Keeps s (drawUcn s).1 := .of_same rfl rfl rfl

theorem keeps_putRec (s : State) (o : Nat) (x : RecReq) : Keeps s (putRec s o x) := by
  have written (s : State) (w : Owner) : Keeps s (bump (putOwner s o w) o F.JOURNAL.RECORDS) :=
    (keeps_putOwner s o w).trans (.bump _ o (by decide) 1)
  unfold putRec
  cases x.draws with
  | true => exact ((keeps_drawUcn s).trans (keeps_noteUcn _ _ _)).trans (written _ _)
  | false => exact written _ _

theorem keeps_addReq (s : State) (o : Nat) (x : RecReq) : Keeps s (addReq s o x) := by
  have stalled (w : Owner) : Keeps s (detect (bump (putOwner s o w) o F.JOURNAL.LOG_STALLS) o Ev.LOG_FULL []) :=
    ((keeps_putOwner s o w).trans (.bump _ o (by decide) 1)).trans (.detect _ o (by decide) [])
  exact .ite (keeps_putRec s o x) (stalled _)

theorem keeps_addTableGroup (s : State) (ts : List TableItem) : Keeps s (addTableGroup s ts).1 :=
  (Keeps.foldl _ s fun _ _ => keeps_addReq ..).trans (keeps_addReq ..)

theorem keeps_trimRecs (s : State) (o : Nat) (p : Rec → Bool) : Keeps s (trimRecs s o p) := .of_same rfl rfl rfl

theorem keeps_updateSpace (s : State) : Keeps s (updateSpace s) := by
  unfold updateSpace
  split
  · exact .refl s
  · refine (Keeps.foldl _ _ fun s sl => ?_).after rfl rfl rfl
    exact .detect s sl (by decide) _

/-! ### A member that is out of service and has no command -/

/-- Member `m` is as `x`, out of service and without commands, and detector `e` of slate `sl` has latched. -/
structure Off (m sl e : Nat) (x : Member) (u : State) : Prop where
  member : memberOf u m = x
  out : x.mstate ≠ 2
  idle : x.cmds = []
  event : e < 2048
  latched : Detected u sl e

section Off

variable {m sl e : Nat} {x : Member} {s : State} (h : Off m sl e x s)

include h

theorem Off.keeps {u : State} (hk : Keeps s u) : Off m sl e x u :=
  ⟨by rw [← h.member, memberOf, hk.members, memberOf], h.out, h.idle, h.event, hk.latched sl e h.event h.latched⟩

theorem Off.foldl {α : Type} {f : State → α → State} (l : List α) (hf : ∀ s a, Off m sl e x s → Off m sl e x (f s a)) :
    Off m sl e x (l.foldl f s) :=
  List.foldlRecOn (motive := Off m sl e x) l f h fun t ht a _ => hf t a ht

omit h in
theorem Off.ite {c : Prop} [Decidable c] {a b : State} (ha : Off m sl e x a) (hb : Off m sl e x b) : Off m sl e x (if c then a else b) := by
  split
  · exact ha
  · exact hb

/-- A change to another member. -/
theorem Off.putMember_ne {m' : Nat} (hm : m' ≠ m) (y : Member) : Off m sl e x (putMember s m' y) :=
  have hk : Detected (putMember s m' y) sl e :=
    (Keeps.of_same (s := { s with members := tabPut s.members m' y }) (u := putMember s m' y) rfl rfl rfl).latched sl e h.event h.latched
  ⟨by rw [← h.member, memberOf, putMember_members, tabGetD_tabPut_ne _ _ _ hm.symm, memberOf], h.out, h.idle, h.event, hk⟩

theorem Off.putMember_self : Off m sl e x (putMember s m x) :=
  ⟨by rw [memberOf, putMember_members, tabGetD_tabPut_self], h.out, h.idle, h.event, h.latched⟩

theorem Off.issueCmd {m' : Nat} (hm : m' ≠ m) (opcode lba : Nat) (use : DrvUse) (admin : Bool) (sqe : Block) (fua : Bool) :
    Off m sl e x (issueCmd s m' opcode lba use admin sqe fua) := by
  unfold Machine.issueCmd
  extract_lets sl' y c
  refine .ite h (Off.keeps (s := putMember s m' { y with cmds := tabPut y.cmds s.nextCmd c }) (h.putMember_ne hm _) ?_)
  exact (keeps_countSrc ..).after rfl rfl rfl

theorem Off.zoneSend (m' zone act : Nat) : Off m sl e x (zoneSend s m' zone act) := by
  unfold Machine.zoneSend
  split
  next hs =>
    refine h.issueCmd (fun hm => h.out ?_) ..
    rw [Bool.and_eq_true] at hs
    subst hm
    rw [← h.member]
    simpa [inService] using hs.1
  next => exact h

theorem Off.refillQueues (m' : Nat) : Off m sl e x (refillQueues s m') := by
  unfold Machine.refillQueues
  by_cases hm : m' = m
  · subst hm
    rw [h.member, h.idle]
    exact h
  · refine h.foldl _ fun t id ht => ?_
    dsimp only
    split
    · exact ht
    · exact ht.putMember_ne hm _

theorem Off.dropCmds (m' : Nat) (p : DrvCmd → Bool) : Off m sl e x (dropCmds s m' p) := by
  unfold Machine.dropCmds
  by_cases hm : m' = m
  · subst hm
    have hx : ({ x with cmds := x.cmds.filter fun c => !p c.2 } : Member) = x := by
      have hi := h.idle
      cases x
      cases hi
      rfl
    show Off m' sl e x (Machine.refillQueues (putMember s m' { memberOf s m' with cmds := (memberOf s m').cmds.filter fun c => !p c.2 }) m')
    rw [h.member, hx]
    exact h.putMember_self.refillQueues _
  · exact (h.putMember_ne hm _).refillQueues _

/-! ### Courses and spare placements (R167, R173, R175, R207, R208) -/

theorem Off.resetRuns (l : Layout) : Off m sl e x (resetRuns s l) := by
  unfold Machine.resetRuns
  refine Off.ite h (h.foldl _ fun t r ht => ?_)
  unfold resetRun
  extract_lets u v
  have hu : Off m sl e x u := ht.foldl _ fun t m' ht => ht.foldl _ fun t z ht => ht.zoneSend ..
  have hv : Off m sl e x v := hu.keeps (.of_same rfl rfl rfl)
  exact hv.keeps (.of_same rfl rfl rfl)

theorem Off.placeCourse {l : Layout} {c : Course} {p : State × Nat} (hp : placeCourse s l c = some p) : Off m sl e x p.1 := by
  unfold Machine.placeCourse at hp
  obtain ⟨k, -, rfl⟩ := Option.map_eq_some_iff.1 hp
  have hs : Off m sl e x { s with courses := tabPut s.courses k c, lastOrd := k } := h.keeps (.of_same rfl rfl rfl)
  exact (hs.resetRuns l).keeps (keeps_updateSpace _)

theorem Off.resetSpareZones (l : Layout) (m' : Nat) : Off m sl e x (resetSpareZones s l m') := by
  unfold Machine.resetSpareZones
  refine Off.ite h (h.foldl _ fun t z ht => ?_)
  have hw : Off m sl e x { t with spareWp := tabDel t.spareWp (wpKey m' z) } := ht.keeps (.of_same rfl rfl rfl)
  exact hw.zoneSend m' z 4

theorem Off.chooseSpare (l : Layout) (k : Nat) : Off m sl e x (chooseSpare s l k).1 := by
  unfold Machine.chooseSpare
  extract_lets row dests lim u
  have hu : Off m sl e x u := h.foldl _ fun t m' ht => ht.resetSpareZones l m'
  clear_value u
  split
  · exact hu
  · exact hu.keeps (.of_same rfl rfl rfl)

theorem Off.takeSpare (l : Layout) (m' slot : Nat) : Off m sl e x (takeSpare s l m' slot) :=
  .ite (h.keeps (.of_same rfl rfl rfl)) h

theorem Off.allocSpare (l : Layout) (o k pos : Nat) : Off m sl e x (allocSpare s l o k pos).1 := by
  unfold Machine.allocSpare
  have hc := h.chooseSpare l k
  dsimp only
  split
  · exact h
  split
  · exact h
  generalize Machine.chooseSpare s l k = c at hc ⊢
  split
  · exact hc
  split
  · exact hc
  refine (Off.takeSpare (hc.keeps ?_) l _ _).keeps (keeps_addReq ..)
  exact .of_same rfl rfl rfl

theorem Off.placeAll (l : Layout) (o k : Nat) : Off m sl e x (placeAll s l o k).1 := by
  unfold Machine.placeAll
  refine List.foldlRecOn (motive := fun p : State × List Nat × Bool => Off m sl e x p.1) _ _ h fun p hp pos _ => ?_
  dsimp only
  split
  · exact hp
  · have ha := hp.allocSpare l o k pos
    split <;> simpa [*] using ha

theorem Off.advanceSeal (k : Nat) : Off m sl e x (advanceSeal s k) := by
  have mod {s : State} (h : Off m sl e x s) (f : Course → Course) : Off m sl e x (modCourse s k f) := h.keeps (.of_same rfl rfl rfl)
  unfold Machine.advanceSeal
  split
  next c l _ _ =>
    split
    · exact h
    have hp := h.placeAll l c.slate k
    generalize Machine.placeAll s l c.slate k = p at hp ⊢
    dsimp only
    split
    · split
      · exact mod hp _
      · refine Off.keeps (Off.ite ?_ ?_) (.detect _ _ (by decide) _)
        · exact (mod (mod hp _) _).keeps (.detect _ _ (by decide) _)
        · exact mod (mod hp _) _
    · split
      · exact (mod (mod hp _) _).keeps (keeps_addReq ..)
      · exact mod hp _
  next => exact h

theorem Off.repour (k : Nat) : Off m sl e x (repour s k) := by
  unfold Machine.repour
  split
  next c l _ _ =>
    split
    · exact h
    extract_lets u v w z c'
    have hu : Off m sl e x u := h.foldl _ fun t p ht => ht.dropCmds _ _
    have hv : Off m sl e x v := hu.keeps (.of_same rfl rfl rfl)
    clear_value u v
    have hw : Off m sl e x w := by
      dsimp only [w]
      split
      · exact hv.keeps (keeps_trimRecs ..)
      · exact hv
    clear_value w
    have hz : Off m sl e x z := (hw.keeps (.bump w c.slate (by decide) 1)).keeps (.detect _ _ (by decide) _)
    clear_value z
    split
    · exact hz.keeps (.of_same rfl rfl rfl)
    next hp => exact (hz.placeCourse hp).advanceSeal _
  next => exact h

/-- What becomes of a lost member's strips leaves it as it is (R173, R211). -/
theorem Off.memberLost (m' : Nat) : Off m sl e x (memberLost s m') := by
  unfold Machine.memberLost
  split
  · exact h
  next l _ =>
    have hl : Off m sl e x (loseStrips s l m') := h.keeps (.of_same rfl rfl rfl)
    exact .ite hl (hl.foldl _ fun t k ht => ht.repour k)

end Off

end Sys2Proof.MemberFrame
end

section
/-! How a member is lost, and how its commands end (R64, R66, R180, R181, R371). -/

namespace Sys2Proof.MemberLosses

open Sys2Proof Sys2Proof.Machine Sys2Proof.Reporting Sys2Proof.Stillness Sys2Proof.LibraryForm Sys2Proof.DriveSubmission
  Sys2Proof.MemberFrame Sys2Proof.Ports

/-! ### A member declared gone (R181, R206) -/

theorem memberOf_putMember_self (s : State) (m : Nat) (x : Member) : memberOf (putMember s m x) m = x := by
  rw [memberOf, putMember_members, tabGetD_tabPut_self]

/-- A member that is gone and has no command: what its recording may have changed is left open. -/
def goneAs (x : Member) (r : Recorded) (k : Bool) (g : Option Nat) : Member :=
  { x with mstate := 3, cmds := [], resetAt := none, lowPower := false, recorded := r, recConf := k, goneAt := g }

theorem lasting_putMember (s : State) (m : Nat) (x : Member) : lasting (putMember s m x) = lasting s := rfl

theorem lasting_recordFailure (s : State) (m : Nat) : lasting (recordFailure s m) = lasting s := by
  unfold recordFailure writeFailure
  split
  · rfl
  · exact (lasting_addReq ..).trans ((lasting_foldl _ _ fun _ _ => lasting_addReq ..).trans (lasting_putMember ..))

theorem portSlate_of_lasting {s u : State} (h : lasting u = lasting s) (m : Nat) : portSlate u m = portSlate s m := by
  have hs := serving_congr (s := s) (t := u) (congrArg State.mod h :) (congrArg State.n h :) (congrArg State.lost h :) (memberSlate m)
  simp only [portSlate, hs]

/-- What is recorded of a member that is gone leaves the rest of it. -/
theorem memberOf_recordFailure {s : State} {m : Nat} {x : Member} {r : Recorded} {k : Bool} {g : Option Nat}
    (h : memberOf s m = goneAs x r k g) : ∃ r k g, memberOf (recordFailure s m) m = goneAs x r k g := by
  unfold recordFailure writeFailure
  split
  · exact ⟨r, k, some (now s 0), by rw [memberOf_putMember_self, h]; rfl⟩
  · refine ⟨.failed (freeFailIndex s), false, none, ?_⟩
    rw [memberOf, (keeps_addTableGroup _ _).members, ← memberOf, memberOf_putMember_self, h]
    rfl

/-- A member in service without commands that is declared gone is out of service, and MEMBER_LOST has latched. -/
theorem declareGone_lost {s : State} {m : Nat} {x : Member} (hx : memberOf s m = x) (h2 : x.mstate = 2) (hc : x.cmds = [])
    (status opcode lba : Nat) : (∃ r k g, memberOf (declareGone s m 3 status opcode lba) m = goneAs x r k g) ∧
      Detected (declareGone s m 3 status opcode lba) (portSlate s m) (Ev.MEMBER_LOST (m % 6)) := by
  subst hx
  unfold declareGone
  extract_lets x shows u w v
  have hs : shows = 3 := if_pos (.inl h2)
  have hu : memberOf u m = goneAs x x.recorded x.recConf x.goneAt := by
    simp only [u, hs, memberOf_putMember_self]
    rfl
  have hlu : lasting u = lasting s := rfl
  clear_value u
  have hv : (∃ r k g, memberOf v m = goneAs x r k g) ∧ Detected v (portSlate s m) (Ev.MEMBER_LOST (m % 6)) := by
    rw [show v = memberLost (detect w (portSlate w m) (Ev.MEMBER_LOST (m % 6)) (driveDetail m status opcode lba)) m from
      if_neg (not_not.2 h2)]
    have hw : (∃ r k g, memberOf w m = goneAs x r k g) ∧ lasting w = lasting s := by
      simp only [w]
      split
      · exact ⟨memberOf_recordFailure hu, (lasting_recordFailure ..).trans hlu⟩
      · exact ⟨⟨_, _, _, hu⟩, hlu⟩
    obtain ⟨⟨r, k, g, hm⟩, hl⟩ := hw
    clear_value w
    have he : Ev.MEMBER_LOST (m % 6) < 2048 ∧ Ev.MEMBER_LOST (m % 6) % 64 < 32 ∧ shadowed (Ev.MEMBER_LOST (m % 6)) = false := by
      have hi : m % 6 < 6 := Nat.mod_lt _ (by decide)
      generalize m % 6 = i at hi
      interval_cases i <;> decide
    rw [portSlate_of_lasting hl]
    have hoff : Off m (portSlate s m) (Ev.MEMBER_LOST (m % 6)) (goneAs x r k g)
        (detect w (portSlate s m) (Ev.MEMBER_LOST (m % 6)) (driveDetail m status opcode lba)) :=
      ⟨(memberOf_of_still (still_detect _ _ he.1 _) m).trans hm, by simp [goneAs], rfl, he.1, detect_detected _ _ he _⟩
    have hlost := hoff.memberLost m
    exact ⟨⟨r, k, g, hlost.member⟩, hlost.latched⟩
  clear_value v
  rw [show x.cmds = [] from hc]
  exact hv

/-! ### A command that is aborted (R181) -/

theorem cmds_issueCmd_ne (s : State) (m opcode lba : Nat) (use : DrvUse) (admin : Bool) (sqe : Block) (fua : Bool) {i : Nat}
    (hi : i ≠ s.nextCmd) : tabGet (memberOf (issueCmd s m opcode lba use admin sqe fua) m).cmds i = tabGet (memberOf s m).cmds i := by
  unfold issueCmd
  extract_lets sl x c
  refine iteInduction (motive := fun u => tabGet (memberOf u m).cmds i = tabGet (memberOf s m).cmds i) (fun _ => rfl) fun _ => ?_
  rw [memberOf_of_still (still_countSrc ..)]
  show tabGet (memberOf (putMember s m { x with cmds := tabPut x.cmds s.nextCmd c }) m).cmds i = _
  rw [memberOf_putMember_self, tabGet_tabPut_ne _ _ hi]

/-- The command is marked as aborted now. -/
def marked (s : State) (m i : Nat) (c : DrvCmd) : State :=
  putMember s m { memberOf s m with cmds := tabPut (memberOf s m).cmds i { c with aborted := some (now s (portSlate s m)) } }

/-- The state with NVMe Abort issued for the marked command. -/
def abortSent (s : State) (m i : Nat) (c : DrvCmd) : State :=
  issueCmd (marked s m i c) m 8 0 .internal true (abortSqe (c.queue.getD 0) i)

/-- The command is aborted: it is marked, NVMe Abort is issued, and the timeout is counted and reported. -/
def abortCmd (s : State) (m i : Nat) (c : DrvCmd) : State :=
  detect (bump (abortSent s m i c) (portSlate s m) (F.DRIVE.TIMEOUTS (m % 6))) (portSlate s m) Ev.CMD_TIMEOUT
    (driveDetail m 0 c.opcode c.lba)

section Abort

variable {s : State} {m i : Nat} {c : DrvCmd}

theorem memberOf_abortCmd (s : State) (m i : Nat) (c : DrvCmd) : memberOf (abortCmd s m i c) m = memberOf (abortSent s m i c) m :=
  memberOf_of_still ((still_detect _ _ (by decide) _).trans (still_bump ..)) m

theorem abortCmd_marks (hi : i ≠ s.nextCmd) :
    tabGet (memberOf (abortCmd s m i c) m).cmds i = some { c with aborted := some (now s (portSlate s m)) } := by
  rw [memberOf_abortCmd, abortSent, cmds_issueCmd_ne (marked s m i c) _ _ _ _ _ _ _ hi, marked, memberOf_putMember_self, tabGet_tabPut_self]

theorem abortCmd_sends (h4 : isF s 0 F.FPIN.C4 = false) : ∃ a, tabGet (memberOf (abortCmd s m i c) m).cmds s.nextCmd = some a ∧
    a.opcode = 8 ∧ a.admin = true ∧ a.queue = some 0 := by
  rw [memberOf_abortCmd]
  obtain ⟨a, ha, hop, -, -, had, hq⟩ := issueCmd_has (s := marked s m i c) h4 m 8 0 .internal true (abortSqe (c.queue.getD 0) i) false
  exact ⟨a, ha, hop, had, hq rfl⟩

theorem abortCmd_reports : Detected (abortCmd s m i c) (portSlate s m) Ev.CMD_TIMEOUT ∧
    Counted s (abortCmd s m i c) (portSlate s m) (F.DRIVE.TIMEOUTS (m % 6)) := by
  have hm : m % 6 < 6 := Nat.mod_lt _ (by decide)
  have hf : (F.DRIVE.TIMEOUTS (m % 6)).sp < 32 ∧ (F.DRIVE.TIMEOUTS (m % 6)).e < 4096 ∧
      noted (F.DRIVE.TIMEOUTS (m % 6)).sp (F.DRIVE.TIMEOUTS (m % 6)).e = false := by
    generalize m % 6 = k at hm
    interval_cases k <;> decide
  refine ⟨detect_detected _ _ (by decide) _, ?_⟩
  unfold Counted abortCmd
  rw [(detect_reports _ _ (by decide) _).getF hf, bump, getF_setF_self _ _ _ _ (show 16 + 16 ≤ 64 by decide)]
  have hc : getF (abortSent s m i c) (portSlate s m) (F.DRIVE.TIMEOUTS (m % 6)) = getF s (portSlate s m) (F.DRIVE.TIMEOUTS (m % 6)) := by
    unfold abortSent issueCmd
    extract_lets sl x d
    refine iteInduction (motive := fun u => getF u (portSlate s m) (F.DRIVE.TIMEOUTS (m % 6)) = getF s (portSlate s m) _)
      (fun _ => rfl) fun _ => ?_
    exact (getF_countSrc hf (show (0x0B : Nat) ≠ 0x0F by decide) ..).trans rfl
  rw [hc]

end Abort

/-! ### Commands of a member's port (R182) -/

theorem onMember_serving {s : State} {m : Nat} (hn : memberSlate m < s.n) (h0 : serving s 0 = true) (hp : hasPath s m = true)
    (f : State → State) : onMember m s f = .next (f s) := by
  rw [onMember, if_neg (Nat.not_le.2 hn), onUnit_serving _ h0, if_pos hp]

section Port

variable {s : State} {m : Nat} (hn : memberSlate m < s.n) (h0 : serving s 0 = true) (hp : hasPath s m = true)

/-- Member `m` of `u` is gone, has no command, and its loss has latched. -/
def Gone (s : State) (m : Nat) (u : State) : Prop := (memberOf u m).mstate = 3 ∧ (memberOf u m).cmds = [] ∧
  (memberOf u m).resetAt = none ∧ Detected u (portSlate s m) (Ev.MEMBER_LOST (m % 6))

theorem gone_of_declareGone (h2 : (memberOf s m).mstate = 2) (hc : (memberOf s m).cmds = []) (status opcode lba : Nat) :
    Gone s m (declareGone s m 3 status opcode lba) := by
  obtain ⟨⟨r, k, g, hm⟩, hd⟩ := declareGone_lost rfl h2 hc status opcode lba
  exact ⟨by rw [hm]; rfl, by rw [hm]; rfl, by rw [hm]; rfl, hd⟩

include hn h0 hp

theorem exec_memberLinkLoss : exec (.memberLinkLoss m) s = .next (if !(memberOf s m).link then s
    else declareGone (putMember s m { memberOf s m with link := false, speed := 0, width := 0 }) m 3 0 0 0) :=
  (rfl : _ = execMemberLinkLoss m s).trans (onMember_serving hn h0 hp _)

theorem exec_cstsPoll (cfs : Bool) : exec (.cstsPoll m cfs) s = .next
    (if cfs && (memberOf s m).link && inService s m then declareGone s m 3 0 0 0 else s) :=
  (rfl : _ = execCstsPoll m cfs s).trans (onMember_serving hn h0 hp _)

theorem memberLinkLoss_loses (hl : (memberOf s m).link = true) (h2 : (memberOf s m).mstate = 2) (hc : (memberOf s m).cmds = []) :
    Answers (.memberLinkLoss m) s fun u => Gone s m u ∧ (memberOf u m).link = false := by
  refine answers_of_else (exec_memberLinkLoss hn h0 hp) (by simp [hl]) ?_
  obtain ⟨⟨r, k, g, hm⟩, hd⟩ := declareGone_lost (memberOf_putMember_self s m { memberOf s m with link := false, speed := 0, width := 0 })
    h2 hc 0 0 0
  exact ⟨⟨by rw [hm]; rfl, by rw [hm]; rfl, by rw [hm]; rfl, hd⟩, by rw [hm]; rfl⟩

theorem memberLinkLoss_idle (hl : (memberOf s m).link = false) : exec (.memberLinkLoss m) s = .next s := by
  rw [exec_memberLinkLoss hn h0 hp, hl]
  rfl

theorem cstsPoll_loses (hl : (memberOf s m).link = true) (h2 : (memberOf s m).mstate = 2) (hc : (memberOf s m).cmds = []) :
    Answers (.cstsPoll m true) s (Gone s m) :=
  answers_of_if (exec_cstsPoll hn h0 hp true) (by simp [hl, inService, h2]) (gone_of_declareGone h2 hc 0 0 0)

theorem cstsPoll_idle {cfs : Bool} (h : cfs = false ∨ (memberOf s m).link = false ∨ (memberOf s m).mstate ≠ 2) :
    exec (.cstsPoll m cfs) s = .next s := by
  rw [exec_cstsPoll hn h0 hp, if_neg]
  rcases h with h | h | h <;> simp [h, inService]

/-! ### A drive leaves its port (R371) -/

theorem exec_prsntDeassert : exec (.prsntDeassert m) s = .next (if !(memberOf s m).present then s
    else
      let u := declareGone (putMember s m { memberOf s m with link := false, speed := 0, width := 0 }) m 3 0 0 0
      putMember u m { memberOf u m with present := false, conforms := false, perst := true, hostId := none, resv := none }) :=
  (rfl : _ = execPrsntDeassert m s).trans (onMember_serving hn h0 hp _)

theorem prsntDeassert_idle (h : (memberOf s m).present = false) : exec (.prsntDeassert m) s = .next s := by
  rw [exec_prsntDeassert hn h0 hp, h]
  rfl

theorem prsntDeassert_loses (hpr : (memberOf s m).present = true) (h2 : (memberOf s m).mstate = 2) (hc : (memberOf s m).cmds = []) :
    Answers (.prsntDeassert m) s fun u => Gone s m u ∧ (memberOf u m).present = false ∧ (memberOf u m).perst = true ∧
      (memberOf u m).link = false ∧ (memberOf u m).hostId = none ∧ (memberOf u m).resv = none := by
  refine answers_of_else (exec_prsntDeassert hn h0 hp) (by simp [hpr]) ?_
  obtain ⟨⟨r, k, g, hm⟩, hd⟩ := declareGone_lost (memberOf_putMember_self s m { memberOf s m with link := false, speed := 0, width := 0 })
    h2 hc 0 0 0
  dsimp only [Gone]
  rw [memberOf_putMember_self, hm]
  exact ⟨⟨rfl, rfl, rfl, hd⟩, rfl, rfl, rfl, rfl, rfl⟩

/-! ### Timeouts (R181) -/

section Timeout

variable {i : Nat} {c : DrvCmd} (hc : tabGet (memberOf s m).cmds i = some c)

include hc

theorem cmdTimeout_runs : exec (.cmdTimeout m i) s = .next
    (if c.use == .sanitize || c.aborted.isSome || c.queue.isNone || decide (now s (portSlate s m) < c.tb + c.timeout) then s
      else abortCmd s m i c) := by
  refine (rfl : _ = execCmdTimeout m i s).trans ((onMember_serving hn h0 hp _).trans ?_)
  simp only [cmdAt, hc]
  rfl

/-- A command that CMD_TIMEOUT aborts. -/
def Late (s : State) (m : Nat) (c : DrvCmd) : Prop :=
  c.use ≠ .sanitize ∧ c.aborted = none ∧ c.queue ≠ none ∧ c.tb + c.timeout ≤ now s (portSlate s m)

theorem cmdTimeout_idle (hl : ¬ Late s m c) : exec (.cmdTimeout m i) s = .next s := by
  rw [cmdTimeout_runs hn h0 hp hc, if_pos]
  by_contra hx
  simp only [Bool.or_eq_true, beq_iff_eq, decide_eq_true_eq, not_or, Nat.not_lt] at hx
  obtain ⟨⟨⟨hu, ha⟩, hq⟩, ht⟩ := hx
  exact hl ⟨hu, by simpa using ha, by simpa [Option.isNone_iff_eq_none] using hq, ht⟩

theorem cmdTimeout_aborts (hl : Late s m c) : exec (.cmdTimeout m i) s = .next (abortCmd s m i c) := by
  obtain ⟨hu, ha, hq, ht⟩ := hl
  rw [cmdTimeout_runs hn h0 hp hc, if_neg]
  simp [hu, ha, hq, Nat.not_lt.2 ht]

theorem abortGraceExpiry_runs {t : Nat} (ha : c.aborted = some t) (hr : (memberOf s m).resetAt = none) :
    exec (.abortGraceExpiry m i) s = .next (if now s (portSlate s m) < t + c.grace then s
      else putMember s m { memberOf s m with resetAt := some (now s (portSlate s m)) }) := by
  refine (rfl : _ = execAbortGraceExpiry m i s).trans ((onMember_serving hn h0 hp _).trans ?_)
  simp only [cmdAt, hc, ha, hr, Option.isSome_none, Bool.false_or, decide_eq_true_eq]

theorem abortGraceExpiry_idle (hx : c.aborted = none ∨ (memberOf s m).resetAt ≠ none) :
    exec (.abortGraceExpiry m i) s = .next s := by
  refine (rfl : _ = execAbortGraceExpiry m i s).trans ((onMember_serving hn h0 hp _).trans ?_)
  simp only [cmdAt, hc]
  split
  · rfl
  · have hr : (memberOf s m).resetAt.isSome = true := Option.isSome_iff_ne_none.2 (hx.resolve_left (by simp [*]))
    simp only [hr, Bool.true_or, if_true]

end Timeout

/-! ### The controller reset (R181) -/

theorem readyMaxExpiry_runs {t : Nat} (hr : (memberOf s m).resetAt = some t) : exec (.readyMaxExpiry m) s = .next
    (if t + readyLimit s m ≤ now s (portSlate s m) then declareGone s m 3 0 0 0 else s) := by
  refine (rfl : _ = execReadyMaxExpiry m s).trans ((onMember_serving hn h0 hp _).trans ?_)
  simp only [hr]

theorem readyMaxExpiry_loses {t : Nat} (hr : (memberOf s m).resetAt = some t) (ht : t + readyLimit s m ≤ now s (portSlate s m))
    (h2 : (memberOf s m).mstate = 2) (hc : (memberOf s m).cmds = []) : Answers (.readyMaxExpiry m) s (Gone s m) :=
  answers_of_if (readyMaxExpiry_runs hn h0 hp hr) ht (gone_of_declareGone h2 hc 0 0 0)

theorem reset_idle (hr : (memberOf s m).resetAt = none) :
    exec (.readyMaxExpiry m) s = .next s ∧ exec (.controllerReady m) s = .next s := by
  constructor
  · refine (rfl : _ = execReadyMaxExpiry m s).trans ((onMember_serving hn h0 hp _).trans ?_)
    simp only [hr]
  · refine (rfl : _ = execControllerReady m s).trans ((onMember_serving hn h0 hp _).trans ?_)
    simp only [hr, Option.isNone_none, if_true]

/-- The controller runs again: no command is outstanding, and the reset is counted. -/
def controllerBack (s : State) (m : Nat) : State :=
  bump (putMember s m { memberOf s m with resetAt := none, cmds := [] }) (portSlate s m) (F.DRIVE.RESETS (m % 6))

theorem controllerReady_runs (hr : (memberOf s m).resetAt ≠ none) : exec (.controllerReady m) s = .next
    ((tabVals (memberOf s m).cmds).foldl (fun u c => resetCmd u m c) (controllerBack s m)) := by
  refine (rfl : _ = execControllerReady m s).trans ((onMember_serving hn h0 hp _).trans ?_)
  have hs : (memberOf s m).resetAt.isNone = false := by rwa [← Bool.not_eq_true, Option.isNone_iff_eq_none]
  simp only [hs, Bool.false_eq_true, if_false]
  rfl

omit hn h0 hp in
theorem memberOf_controllerBack : memberOf (controllerBack s m) m = { memberOf s m with resetAt := none, cmds := [] } := by
  rw [controllerBack, memberOf_of_still (still_bump ..), memberOf_putMember_self]

omit hn h0 hp in
theorem jobs_controllerBack : (controllerBack s m).jobs = s.jobs := by
  rw [controllerBack, jobs_of_still (still_bump ..)]
  rfl

theorem controllerReady_quiet (hr : (memberOf s m).resetAt ≠ none) (hc : (memberOf s m).cmds = []) :
    Answers (.controllerReady m) s fun u => memberOf u m = { memberOf s m with resetAt := none } ∧
      Counted s u (portSlate s m) (F.DRIVE.RESETS (m % 6)) := by
  have he := controllerReady_runs hn h0 hp hr
  rw [hc] at he
  refine ⟨_, he, ?_, ?_⟩
  · refine memberOf_controllerBack.trans ?_
    rw [← hc]
  · exact getF_setF_self _ _ _ _ (show 32 + 16 ≤ 64 by decide)

end Port

/-! ### A ticket of a job (R66) -/

/-- The result of a ticket a job has is found again. -/
theorem modTicket_has {s : State} {job t : Nat} {j : Job} {k : Ticket} (hj : jobOf s job = some j) (hk : tabGet j.tickets t = some k)
    (f : Ticket → Ticket) : ∃ j', jobOf (modTicket s job t f) job = some j' ∧ tabGet j'.tickets t = some (f k) := by
  refine ⟨{ j with tickets := tabMod j.tickets t f }, ?_, ?_⟩
  · rw [jobOf, modTicket, modJob, tabGet_tabMod_self, show tabGet s.jobs job = some j from hj]
    rfl
  · rw [tabGet_tabMod_self, hk]
    rfl

/-- The error status a reset leaves a command is one, and no Unrecovered Read Error (R181). -/
theorem errorStatus_error (s : State) : 0 < errorStatus s ∧ errorStatus s < 2 ^ 15 ∧ unrecovered (errorStatus s) = false := by
  unfold errorStatus
  extract_lets x
  have hx : 0 < x ∧ x < 2 ^ 15 := by simp only [x]; omega
  clear_value x
  unfold unrecovered
  split
  next hu =>
    simp only [beq_iff_eq] at hu
    refine ⟨by omega, by omega, ?_⟩
    rw [beq_eq_false_iff_ne]
    omega
  next hu => exact ⟨hx.1, hx.2, by simpa using hu⟩

/-! ### A command completes (R64, R66) -/

/-- The data of a completion, and a report of it, leave members and jobs as they are. -/
theorem moveData_frame (s : State) (m : Nat) (c : DrvCmd) (h : Option Handle) (r : NvmeResult) :
    (moveData s m c h r).members = s.members ∧ (moveData s m c h r).jobs = s.jobs := by
  have fold (l : List Nat) (f : State → Nat → State) (hf : ∀ u i, (f u i).members = u.members ∧ (f u i).jobs = u.jobs) :
      (l.foldl f s).members = s.members ∧ (l.foldl f s).jobs = s.jobs :=
    List.foldlRecOn (motive := fun u : State => u.members = s.members ∧ u.jobs = s.jobs) l f ⟨rfl, rfl⟩
      fun u hu i _ => ⟨(hf u i).1.trans hu.1, (hf u i).2.trans hu.2⟩
  have write (u : State) (lba : Nat) (b : Block) : (lbaWrite u m lba b).members = u.members ∧ (lbaWrite u m lba b).jobs = u.jobs := by
    unfold lbaWrite
    split <;> exact ⟨rfl, rfl⟩
  unfold moveData
  dsimp only
  split
  · split
    · split <;> exact ⟨rfl, rfl⟩
    · exact ⟨rfl, rfl⟩
  split
  · split
    · exact ⟨rfl, rfl⟩
    · exact fold _ _ fun _ _ => ⟨rfl, rfl⟩
  split
  · split
    · exact ⟨rfl, rfl⟩
    · exact fold _ _ fun _ _ => write ..
  split
  · exact fold _ _ fun _ _ => write ..
  · exact ⟨rfl, rfl⟩

theorem mediaError_still (s : State) (m status opcode lba : Nat) : still (mediaError s m status opcode lba) = still s :=
  (still_detect _ _ (by decide) _).trans (still_bump ..)

/-- The NVMe status a ticket takes: a read whose blocks were not all returned is an Unrecovered Read Error. -/
def ticketStatus (c : DrvCmd) (r : NvmeResult) : Nat :=
  if r.statusField % 2 ^ 15 == 0 && c.opcode == 2 && !c.admin && r.data.any Option.isNone then 0x281 else r.statusField % 2 ^ 15

/-- The result word of a ticket whose command has completed (R66). -/
def ticketResult (c : DrvCmd) (r : NvmeResult) : Word :=
  ticketWord (if ticketStatus c r = 0 then St.ok else if unrecovered (ticketStatus c r) then St.mediaUnrecovered else St.illegalField)
    (ticketStatus c r) r.dw0

theorem ticketDone_eq (s : State) (m : Nat) (c : DrvCmd) (job t : Nat) (r : NvmeResult) : ∃ v : State, v.members = s.members ∧
    v.jobs = s.jobs ∧ ticketDone s m c job t r = modTicket v job t fun x => { x with result := some (ticketResult c r) } := by
  unfold ticketDone
  extract_lets st lost st' h u v
  refine ⟨v, ?_, ?_, rfl⟩
  all_goals
    have hu : u.members = s.members ∧ u.jobs = s.jobs :=
      iteInduction (motive := fun w : State => w.members = s.members ∧ w.jobs = s.jobs) (fun _ => moveData_frame ..) fun _ => ⟨rfl, rfl⟩
    have hv : still v = still u := still_ite (mediaError_still ..) rfl
  · exact (members_of_still hv).trans hu.1
  · exact (jobs_of_still hv).trans hu.2

theorem ticketStatus_of_all {c : DrvCmd} {r : NvmeResult} (hd : ∀ b ∈ r.data, b ≠ none) : ticketStatus c r = r.statusField % 2 ^ 15 := by
  have ha : r.data.any Option.isNone = false := by
    simpa [Option.isNone_iff_eq_none] using hd
  simp [ticketStatus, ha]

theorem ticketResult_of_all {c : DrvCmd} {r : NvmeResult} (hd : ∀ b ∈ r.data, b ≠ none) : ticketResult c r =
    ticketWord (if r.statusField % 2 ^ 15 = 0 then St.ok
      else if unrecovered (r.statusField % 2 ^ 15) then St.mediaUnrecovered else St.illegalField) (r.statusField % 2 ^ 15) r.dw0 := by
  rw [ticketResult, ticketStatus_of_all hd]

theorem tabGet_tabMod_absent {α : Type} {t : Tab α} {i : Nat} (h : tabGet t i = none) (k : Nat) (f : α → α) : tabGet (tabMod t k f) i = none := by
  by_cases hk : i = k
  · rw [hk, tabGet_tabMod_self, ← hk, h]
    rfl
  · rw [tabGet_tabMod_ne _ _ hk, h]

/-- The room that is refilled takes commands that wait, and brings back none; jobs are as they were (R180). -/
theorem refillQueues_absent {s : State} {m i : Nat} (h : tabGet (memberOf s m).cmds i = none) :
    tabGet (memberOf (refillQueues s m) m).cmds i = none ∧ (refillQueues s m).jobs = s.jobs := by
  unfold refillQueues
  refine List.foldlRecOn (motive := fun u : State => tabGet (memberOf u m).cmds i = none ∧ u.jobs = s.jobs) _ _ ⟨h, rfl⟩ fun u hu k _ => ?_
  dsimp only
  split
  · exact hu
  · refine ⟨?_, hu.2⟩
    rw [memberOf_putMember_self]
    exact tabGet_tabMod_absent hu.1 ..

theorem endCmd_absent (s : State) (m i : Nat) : tabGet (memberOf (endCmd s m i) m).cmds i = none ∧ (endCmd s m i).jobs = s.jobs := by
  unfold endCmd
  refine (refillQueues_absent (i := i) ?_).imp id fun hj => hj.trans rfl
  rw [memberOf_putMember_self]
  exact tabGet_tabDel_self ..

section Complete

variable {s : State} {m : Nat} (hn : memberSlate m < s.n) (h0 : serving s 0 = true) (hp : hasPath s m = true) {i : Nat}

include hn h0 hp

theorem nvmeCompletion_none (hc : tabGet (memberOf s m).cmds i = none) (r : NvmeResult) : exec (.nvmeCompletion m i r) s = .next s := by
  refine (rfl : _ = execNvmeCompletion m i r s).trans ((onMember_serving hn h0 hp _).trans ?_)
  simp only [cmdAt, hc]

variable {c : DrvCmd} (hc : tabGet (memberOf s m).cmds i = some c)

include hc

theorem nvmeCompletion_waiting (hq : c.queue = none) (r : NvmeResult) : exec (.nvmeCompletion m i r) s = .next s := by
  refine (rfl : _ = execNvmeCompletion m i r s).trans ((onMember_serving hn h0 hp _).trans ?_)
  simp only [cmdAt, hc, hq, Option.isNone_none, if_true]

variable (hq : c.queue ≠ none)

include hq

theorem nvmeCompletion_internal (hu : c.use = .internal) (r : NvmeResult) : exec (.nvmeCompletion m i r) s = .next (endCmd s m i) := by
  refine (rfl : _ = execNvmeCompletion m i r s).trans ((onMember_serving hn h0 hp _).trans ?_)
  have hs : c.queue.isNone = false := by rwa [← Bool.not_eq_true, Option.isNone_iff_eq_none]
  simp only [cmdAt, hc, hs, hu, Bool.false_eq_true, if_false]

theorem nvmeCompletion_ticket {job t : Nat} (hu : c.use = .ticket job t) (r : NvmeResult) :
    exec (.nvmeCompletion m i r) s = .next (ticketDone (endCmd s m i) m c job t r) := by
  refine (rfl : _ = execNvmeCompletion m i r s).trans ((onMember_serving hn h0 hp _).trans ?_)
  have hs : c.queue.isNone = false := by rwa [← Bool.not_eq_true, Option.isNone_iff_eq_none]
  simp only [cmdAt, hc, hs, hu, Bool.false_eq_true, if_false]

/-- A ticket's command that completes is outstanding no longer, and its ticket has the result (R66). -/
theorem nvmeCompletion_ends {job t : Nat} (hu : c.use = .ticket job t) (r : NvmeResult) : ∃ u, exec (.nvmeCompletion m i r) s = .next u ∧
    tabGet (memberOf u m).cmds i = none ∧ ∀ j k, jobOf s job = some j → tabGet j.tickets t = some k →
      ∃ j', jobOf u job = some j' ∧ tabGet j'.tickets t = some { k with result := some (ticketResult c r) } := by
  obtain ⟨ha, hj⟩ := endCmd_absent s m i
  obtain ⟨v, hvm, hvj, hv⟩ := ticketDone_eq (endCmd s m i) m c job t r
  refine ⟨_, nvmeCompletion_ticket hn h0 hp hc hq hu r, ?_, fun j k hjo hk => ?_⟩
  · rw [hv, memberOf, show (modTicket v job t _).members = v.members from rfl, hvm]
    exact ha
  · rw [hv]
    exact modTicket_has ((jobOf_congr (hvj.trans hj) job).trans hjo) hk _

end Complete

/-- A ticket's command that a controller reset ends completes with an error, and no member changes (R181). -/
theorem resetCmd_ticket (b : State) (m : Nat) {c : DrvCmd} {job t : Nat} (hu : c.use = .ticket job t) :
    resetCmd b m c = modTicket (takeFree b) job t fun x => { x with result := some (ticketWord St.illegalField (errorStatus b) 0) } := by
  simp only [resetCmd, hu]

theorem resetCmd_members (b : State) (m : Nat) {c : DrvCmd} {job t : Nat} (hu : c.use = .ticket job t) :
    (resetCmd b m c).members = b.members := by
  rw [resetCmd_ticket b m hu]
  rfl

theorem resetCmd_ends {s b : State} (hb : b.jobs = s.jobs) (m : Nat) {c : DrvCmd} {job t : Nat} (hu : c.use = .ticket job t) {j : Job} {k : Ticket}
    (hj : jobOf s job = some j) (hk : tabGet j.tickets t = some k) : ∃ j' k' st, jobOf (resetCmd b m c) job = some j' ∧
      tabGet j'.tickets t = some k' ∧ k'.result = some (ticketWord St.illegalField st 0) ∧ 0 < st ∧ st < 2 ^ 15 ∧ unrecovered st = false := by
  rw [resetCmd_ticket b m hu]
  obtain ⟨j', hj', hk'⟩ := modTicket_has (s := takeFree b) ((jobOf_congr hb job).trans hj) hk
    fun x => { x with result := some (ticketWord St.illegalField (errorStatus b) 0) }
  exact ⟨j', _, errorStatus b, hj', hk', rfl, errorStatus_error b⟩

theorem controllerReady_ticket {s : State} {m : Nat} (hn : memberSlate m < s.n) (h0 : serving s 0 = true) (hp : hasPath s m = true)
    {i : Nat} {c : DrvCmd} {job t : Nat} (hr : (memberOf s m).resetAt ≠ none) (hc : (memberOf s m).cmds = [(i, c)]) (hu : c.use = .ticket job t) :
    Answers (.controllerReady m) s fun u => (memberOf u m).cmds = [] ∧
      ∀ j k, jobOf s job = some j → tabGet j.tickets t = some k → ∃ j' k' st, jobOf u job = some j' ∧ tabGet j'.tickets t = some k' ∧
        k'.result = some (ticketWord St.illegalField st 0) ∧ 0 < st ∧ st < 2 ^ 15 ∧ unrecovered st = false := by
  have he := controllerReady_runs hn h0 hp hr
  rw [hc, tabVals, List.map_cons, List.map_nil, List.foldl_cons, List.foldl_nil] at he
  refine ⟨_, he, ?_, fun j k => resetCmd_ends jobs_controllerBack m hu⟩
  rw [memberOf, resetCmd_members _ m hu, ← memberOf, memberOf_controllerBack]

/-- Settles O47: each command of a member's port by its turn; what its loss starts leaves the member and the latch alone. -/
theorem memberLoss : Obligations.MemberLoss := by
  unfold Obligations.MemberLoss
  intro s m hn h0 hp _ x sl gone quiet
  refine ⟨⟨memberLinkLoss_idle hn h0 hp, fun hl hq => memberLinkLoss_loses hn h0 hp hl hq.1 hq.2⟩,
    ⟨fun _ => cstsPoll_idle hn h0 hp, fun hl hq => cstsPoll_loses hn h0 hp hl hq.1 hq.2⟩, fun i c hc => ⟨cmdTimeout_idle hn h0 hp hc,
      fun hl hi => ?_, fun t => abortGraceExpiry_runs hn h0 hp hc, abortGraceExpiry_idle hn h0 hp hc⟩, fun t hr => ⟨fun ht => ?_,
      fun ht hq => readyMaxExpiry_loses hn h0 hp hr ht hq.1 hq.2⟩, reset_idle hn h0 hp, controllerReady_quiet hn h0 hp,
    fun i c job t => controllerReady_ticket hn h0 hp, fun i r hc => nvmeCompletion_none hn h0 hp hc r,
    fun i c r hc hq => nvmeCompletion_waiting hn h0 hp hc hq r, fun i c job t j k r hc hq hu hj hk hd => ?_,
    ⟨prsntDeassert_idle hn h0 hp, fun hpr hq => prsntDeassert_loses hn h0 hp hpr hq.1 hq.2⟩⟩
  · exact ⟨_, cmdTimeout_aborts hn h0 hp hc hl, abortCmd_marks hi, abortCmd_sends, abortCmd_reports⟩
  · rw [readyMaxExpiry_runs hn h0 hp hr, if_neg (Nat.not_le.2 ht)]
  · obtain ⟨u, he, ha, hres⟩ := nvmeCompletion_ends hn h0 hp hc hq hu r
    obtain ⟨j', hj', hk'⟩ := hres j k hj hk
    exact ⟨u, he, ha, j', _, hj', hk', congrArg some (ticketResult_of_all hd)⟩

end Sys2Proof.MemberLosses
end

section
/-! What frames around a down link leave alone (R230, R231, R235, R237). -/

namespace Sys2Proof.FabricFrame

open Sys2Proof Sys2Proof.Machine Sys2Proof.Reporting Sys2Proof.Ports

theorem settleFrame_reports (s : State) (f : Frame) : Reports s (settleFrame s f) :=
  .ite (.foldl _ s fun _ _ => .foldl _ _ fun _ _ => settleCopy_reports ..) (settleCopy_reports ..)

theorem unqueueAll_reports (s : State) (f : Frame) (id : Nat) :
    Reports s (f.outs.foldl (fun s o => unqueue s f.slate o.1 o.2 f.cls id) s) := .foldl _ s fun _ _ => unqueue_reports ..

theorem discardFrame_reports (s : State) (id : Nat) : Reports s (discardFrame s id) := by
  unfold discardFrame
  split
  · exact .refl s
  · exact (unqueueAll_reports s _ id).trans ((settleFrame_reports ..).trans (freeFrame_reports ..))

theorem repathFrame_reports (s : State) (id : Nat) : Reports s (repathFrame s id) := by
  unfold repathFrame
  split
  · exact .refl s
  extract_lets up pre a u
  have hu : Reports s u := unqueueAll_reports ..
  clear_value u
  refine .ite (.refl s) ?_
  split
  · exact (bump_reports (by split <;> decide) ..).trans (discardFrame_reports ..)
  · exact .ite (.of_same rfl rfl) (hu.trans ((queueFrame_reports ..).after rfl rfl))

theorem repathMcast_reports (s : State) (id : Nat) : Reports s (repathMcast s id) := by
  unfold repathMcast
  split
  · exact .refl s
  refine .foldl _ s fun s o => ?_
  extract_lets b m u
  have hu : Reports s u := unqueue_reports ..
  clear_value u
  refine hu.trans ?_
  split
  · exact (joinQueue_reports ..).after rfl rfl
  · exact (Reports.foldl _ u fun s x => mcastAlone_reports ..).trans (dropCopy_reports ..)

theorem repathAll_reports (s : State) : Reports s (repathAll s) := by
  refine .foldl _ s fun s id => ?_
  split
  · exact .refl s
  · exact .ite (repathMcast_reports ..) (repathFrame_reports ..)

end Sys2Proof.FabricFrame
end

section
/-! Gate lists, fabric links, partner lanes, multicasts and the switch barrier: where each command completes (R230, R235 to R241,
R251 to R254, R324). -/

namespace Sys2Proof.SwitchCompletion

open Sys2Proof Sys2Proof.Machine Sys2Proof.Reporting Sys2Proof.Ports Sys2Proof.FabricFrame

/-! ### Links at both their ends -/

/-- A link with the same training state at both its ends (R230, R241). -/
def bothEnds (s : State) (sl l : Nat) (x : LinkState) : State :=
  { s with links := tabPut (tabPut s.links (linkKey sl l) x) (linkKey (linkNeigh s.n sl l) (peerLink s.n l)) x }

theorem linkOf_bothEnds (s : State) (sl l : Nat) (x : LinkState) : linkOf (bothEnds s sl l x) sl l = x := by
  simp only [linkOf, bothEnds, tabGetD, tabGet_tabPut]
  split
  · rfl
  · rw [if_pos trivial]
    rfl

/-- What the choice of a path reads is as it was: slates, links and their EN (R226, R230). -/
structure SameFabric (s t : State) : Prop where
  n : t.n = s.n
  mod : t.mod = s.mod
  lost : t.lost = s.lost
  links : t.links = s.links
  en : ∀ a l, l < 4 → isF t a (F.FABRIC.EN l) = isF s a (F.FABRIC.EN l)

namespace SameFabric

theorem trans {s t u : State} (h : SameFabric s t) (h' : SameFabric t u) : SameFabric s u where
  n := h'.n.trans h.n
  mod := h'.mod.trans h.mod
  lost := h'.lost.trans h.lost
  links := h'.links.trans h.links
  en a l hl := (h'.en a l hl).trans (h.en a l hl)

theorem refl (s : State) : SameFabric s s := ⟨rfl, rfl, rfl, rfl, fun _ _ _ => rfl⟩

theorem of_reports {s t : State} (h : Reports s t) : SameFabric s t where
  n := h.n
  mod := (congrArg State.mod h.steady :)
  lost := (congrArg State.lost h.steady :)
  links := (congrArg State.links h.steady :)
  en a l hl := by
    have hn : noted 0x11 (1 + l) = false := by
      simp only [noted, Bool.or_eq_false_iff, Bool.and_eq_false_iff, decide_eq_false_iff_not, beq_eq_false_iff_ne]
      omega
    rw [isF, h.getF (f := F.FABRIC.EN l) ⟨show (0x11 : Nat) < 32 by decide, show 1 + l < 4096 by omega, hn⟩, isF]

theorem setF_beside (s : State) (sl : Nat) {f : Fld} (hf : f.sp < 32 ∧ f.e < 4096) (hw : f.lo + f.w ≤ 64) (hl : 2 ≤ f.lo) (v : Nat) :
    SameFabric s (setF s sl f v) where
  n := rfl
  mod := rfl
  lost := rfl
  links := rfl
  en a l hl' := by
    have hx : (F.FABRIC.EN l).sp < 32 ∧ (F.FABRIC.EN l).e < 4096 := ⟨show (0x11 : Nat) < 32 by decide, show 1 + l < 4096 by omega⟩
    rw [isF, getF_setF_apart hf hx hw v (.inl hl), isF]

/-- DOWNS stands beside EN (R241). -/
theorem bump_downs (s : State) (sl : Nat) {k : Nat} (hk : k < 4) : SameFabric s (bump s sl (F.FABRIC.DOWNS k)) :=
  setF_beside s sl ⟨show (0x11 : Nat) < 32 by decide, show 1 + k < 4096 by omega⟩ (show 24 + 16 ≤ 64 by decide)
    (show 2 ≤ 24 by decide) _

theorem linkOf {s t : State} (h : SameFabric s t) (a l : Nat) : linkOf t a l = linkOf s a l := by rw [Machine.linkOf, h.links, Machine.linkOf]

theorem linkUsable {s t : State} (h : SameFabric s t) (a : Nat) {l : Nat} (hl : l < 4) : linkUsable t a l = linkUsable s a l := by
  simp only [Machine.linkUsable, linkUp, h.linkOf, serving_congr h.mod h.n h.lost, h.n, h.en a l hl]

end SameFabric

/-! ### Paths read four links of a slate -/

section Paths

variable {n : Nat} {ok ok' : Nat → Nat → Bool} (hok : ∀ a l, l < 4 → ok a l = ok' a l)

include hok

theorem hopLinks_congr (a b : Nat) : hopLinks n a b ok = hopLinks n a b ok' :=
  List.filter_congr fun l hl => by rw [hok a l (List.mem_range.1 hl)]

theorem linksFor_congr (h a : Nat) (hops : List Nat) : linksFor n h ok a hops = linksFor n h ok' a hops := by
  induction hops generalizing a with
  | nil => rfl
  | cons b r ih => simp only [linksFor, hopLinks_congr hok, ih]

theorem tieOrder_congr (a h : Nat) : tieOrder n a h ok = tieOrder n a h ok' := by
  simp only [tieOrder, hopLinks_congr hok]

theorem shortestHops_congr (b h k a : Nat) : shortestHops n b h ok k a = shortestHops n b h ok' k a := by
  induction k generalizing a with
  | zero => rfl
  | succ k ih => simp only [shortestHops, tieOrder_congr hok, ih]

theorem pathFor_congr (a b h : Nat) : pathFor n a b h ok = pathFor n a b h ok' := by
  simp only [pathFor, linksFor_congr hok, shortestHops_congr hok]

end Paths

theorem SameFabric.pathOf {s t : State} (h : SameFabric s t) (a b x : Nat) : pathOf t a b x = pathOf s a b x := by
  rw [Machine.pathOf, h.n, pathFor_congr (fun a l hl => h.linkUsable a hl), Machine.pathOf]

/-- A slate that still reaches every other reports nothing (R230). -/
theorem checkReach_all {s : State} {sl : Nat} (h : ∀ b, b ≠ sl → serving s b = true → pathOf s sl b 0 ≠ none) : checkReach s sl = s := by
  have he : ((servingSlates s).filter fun b => b != sl && (pathOf s sl b 0).isNone) = [] := List.filter_eq_nil_iff.2 fun b hb => by
    have hs : serving s b = true := (List.mem_filter.1 hb).2
    simp only [Bool.and_eq_true, bne_iff_ne, Option.isNone_iff_eq_none, not_and]
    exact fun hne => h b hne hs
  rw [checkReach, he, List.foldl_nil]

/-- One end of a link that goes down: counted and reported (R241). -/
theorem linkDown_end (s : State) (a : Nat) {k : Nat} (hk : k < 4) : SameFabric s
    (if serving s a then detect (bump s a (F.FABRIC.DOWNS k)) a Ev.FLINK_DOWN (linkDetail s a k) else s) := by
  split
  · exact (SameFabric.bump_downs s a hk).trans (.of_reports (detect_reports _ a (by decide) _))
  · exact .refl s

theorem peerLink_lt (n : Nat) {l : Nat} (hl : l < 4) : peerLink n l < 4 := by
  unfold peerLink
  split
  · split
    · decide
    · split
      · decide
      · exact hl
  · exact hl

theorem linkDown_dead {s : State} {sl l : Nat} (hl : l < 4) (hu : (linkOf s sl l).up = true) :
    SameFabric (linkDead s sl l) (linkDown s sl l) := by
  rw [linkDown]
  simp only [hu, Bool.not_true, Bool.false_eq_true, if_false]
  exact (linkDown_end _ sl hl).trans (linkDown_end _ _ (peerLink_lt _ hl))

section Slate

variable {s : State} {sl : Nat} (h : serving s sl = true)

include h

/-! ### Gate lists (R251 to R254) -/

omit h in
theorem fieldMap_gates (n sl : Nat) : fieldMap n sl 0x07 0x240 =
    [⟨F.SCHED.GL_LEN, .rw, 1⟩, ⟨F.SCHED.GL_EN, .rw, 0⟩, ⟨F.SCHED.GL_INSTALL, .wo, 0⟩, ⟨F.SCHED.GL_PEND, .r, 0⟩,
      ⟨F.SCHED.GL_ACTIVE, .r, 0⟩] := by
  simp [fieldMap, slate0Only, fieldsSched]

/-- The gate list's settings as written. -/
def gatesSet (s : State) (sl : Nat) (v : Word) : State :=
  setF (setF s sl F.SCHED.GL_LEN (fv v F.SCHED.GL_LEN)) sl F.SCHED.GL_EN (fv v F.SCHED.GL_EN)

omit h in
theorem storeFields_gates (s : State) (sl : Nat) (v : Word) : storeFields s sl 0x07 0x240 v = gatesSet s sl v := by
  rw [storeFields, fieldMap_gates]
  rfl

omit h in
theorem act_gates (old u : State) (sl : Nat) (v : Word) : (act old u sl 0x07 0x240 v false).1 =
    if !isF u sl F.SCHED.GL_EN then dropGates u sl else if isV v F.SCHED.GL_INSTALL then installGates u sl else u := by
  rw [act, fieldMap_gates]
  simp only [List.isEmpty_cons, Bool.false_eq_true, if_false, actSched, Nat.reduceLeDiff, Nat.reduceLT, and_false, if_true]

omit h in
theorem isF_gatesSet (s : State) (sl : Nat) (v : Word) : isF (gatesSet s sl v) sl F.SCHED.GL_EN = isV v F.SCHED.GL_EN := by
  rw [isF, gatesSet, getF_setF_fits (by decide) (fv_lt ..), isV]

omit h in
theorem regWrite_gates {v : Word} (hl : legal s sl 0x07 0x240 v = true) : regWrite s sl 0x07 0x240 v =
    if !isV v F.SCHED.GL_EN then dropGates (gatesSet s sl v) sl
    else if isV v F.SCHED.GL_INSTALL then installGates (gatesSet s sl v) sl else gatesSet s sl v := by
  rw [regWrite_legal hl, storeFields_gates, act_gates, isF_gatesSet]

omit h in
/-- A list that is legal to install has the gates enabled (R253). -/
theorem enabled_of_install {v : Word} (hl : legal s sl 0x07 0x240 v = true) (hi : isV v F.SCHED.GL_INSTALL = true) :
    isV v F.SCHED.GL_EN = true := by
  have hg : gatesLegal (putEntry s sl 0x07 0x240 v) sl = true := by
    rw [legal, fieldMap_gates] at hl
    simp only [List.isEmpty_cons, Bool.false_eq_true, if_false, Bool.and_eq_true, Nat.reduceLeDiff, legalSched, Nat.reduceLT, and_false,
      false_and, if_true, hi, Bool.not_true, Bool.false_or] at hl
    exact hl.2.2
  simp only [gatesLegal, Bool.and_eq_true] at hg
  obtain ⟨⟨⟨⟨⟨he, -⟩, -⟩, -⟩, -⟩, -⟩ := hg
  rwa [isF, getF, show F.SCHED.GL_EN.sp = 0x07 from rfl, show F.SCHED.GL_EN.e = 0x240 from rfl, rawEntry_putEntry_self] at he

omit h in
theorem isV_withF (v : Word) (f : Fld) (hf : f.lo + f.w ≤ 64) (h1 : 1 ≤ f.w) : isV (withF v f 1) f = true := by
  rw [isV, fv, withF, bits_setBits_self _ _ _ _ hf, Nat.mod_eq_of_lt (Nat.one_lt_two_pow (by omega))]
  rfl

theorem exec_glInstall (v : Word) : exec (.glInstall sl v) s = .next (regWrite s sl 0x07 0x240 (withF v F.SCHED.GL_INSTALL 1)) :=
  (rfl : _ = execGlInstall sl v s).trans (onSlate_serving (fun s => regWrite s sl 0x07 0x240 (withF v F.SCHED.GL_INSTALL 1)) h)

theorem exec_glDisable (v : Word) : exec (.glDisable sl v) s =
    .next (regWrite s sl 0x07 0x240 (withF (withF v F.SCHED.GL_INSTALL 0) F.SCHED.GL_EN 0)) :=
  (rfl : _ = execGlDisable sl v s).trans
    (onSlate_serving (fun s => regWrite s sl 0x07 0x240 (withF (withF v F.SCHED.GL_INSTALL 0) F.SCHED.GL_EN 0)) h)

omit h in
/-- A report leaves the staged list as it is. -/
theorem stagedGates_of_reports {s t : State} (h : Reports s t) (sl : Nat) : stagedGates t sl = stagedGates s sl := by
  unfold stagedGates
  have hl : getF t sl F.SCHED.GL_LEN = getF s sl F.SCHED.GL_LEN := h.getF (by decide) sl
  rw [hl]
  refine List.map_congr_left fun i hi => ?_
  have hi : i < 128 := (List.mem_range.1 hi).trans (getF_lt s sl F.SCHED.GL_LEN)
  have hn : noted 0x07 (0x200 + i) = false := by
    simp only [noted, Bool.or_eq_false_iff, Bool.and_eq_false_iff, decide_eq_false_iff_not, beq_eq_false_iff_ne]
    omega
  rw [h.getF (f := F.SCHED.OPEN i) ⟨show (0x07 : Nat) < 32 by decide, by simp only [F.SCHED.OPEN]; omega, hn⟩,
    h.getF (f := F.SCHED.DURATION i) ⟨show (0x07 : Nat) < 32 by decide, by simp only [F.SCHED.DURATION]; omega, hn⟩]

omit h in
theorem gatesOf_of_reports {s t : State} (h : Reports s t) (sl : Nat) : gatesOf t sl = gatesOf s sl := by
  rw [gatesOf, show t.gates = s.gates from (congrArg State.gates h.steady :), gatesOf]

/-- A state in which a gate list is pending (R252). -/
def withPending (u : State) (sl : Nat) (l : GateList) : State :=
  { u with gates := tabPut u.gates sl { gatesOf u sl with pend := some l } }

omit h in
theorem stagedGates_congr {s t : State} (hc : t.ctl = s.ctl) (hn : t.n = s.n) (sl : Nat) : stagedGates t sl = stagedGates s sl := by
  simp only [stagedGates, getF_congr hc hn]

omit h in
theorem withPending_pends (u : State) (sl : Nat) {l : GateList} (hl : l.entries = stagedGates u sl) {w : State}
    (hr : Reports (withPending u sl l) w) : (gatesOf w sl).pend = some l ∧ l.entries = stagedGates w sl := by
  rw [gatesOf_of_reports hr, stagedGates_of_reports hr, stagedGates_congr (s := u) (t := withPending u sl l) rfl rfl sl, gatesOf,
    withPending, tabGetD_tabPut_self]
  exact ⟨rfl, hl⟩

omit h in
theorem installGates_pends (s : State) (sl : Nat) :
    ∃ l, (gatesOf (installGates s sl) sl).pend = some l ∧ l.entries = stagedGates (installGates s sl) sl := by
  unfold installGates
  extract_lets base cyc least t u g w
  exact ⟨{ entries := stagedGates u sl, cycle := cyc, start := t }, withPending_pends u sl rfl
    (.ite (.refl w) (raise_reports w sl (show Ev.GL_ROLLED < 2048 by decide)))⟩

theorem glInstall_installs {v : Word} (hl : legal s sl 0x07 0x240 (withF v F.SCHED.GL_INSTALL 1) = true) :
    ∃ t l, exec (.glInstall sl v) s = .next t ∧ (gatesOf t sl).pend = some l ∧ l.entries = stagedGates t sl := by
  have hi := isV_withF v F.SCHED.GL_INSTALL (by decide) (by decide)
  obtain ⟨l, hp, hs⟩ := installGates_pends (gatesSet s sl (withF v F.SCHED.GL_INSTALL 1)) sl
  refine ⟨_, l, exec_glInstall h v, ?_⟩
  simp only [regWrite_gates hl, enabled_of_install hl hi, hi, Bool.not_true, Bool.false_eq_true, if_false, if_true]
  exact ⟨hp, hs⟩

theorem glDisable_opens {v : Word} (hl : legal s sl 0x07 0x240 (withF (withF v F.SCHED.GL_INSTALL 0) F.SCHED.GL_EN 0) = true) :
    ∃ t, exec (.glDisable sl v) s = .next t ∧ (gatesOf t sl).oper = none ∧ (gatesOf t sl).pend = none := by
  have he : isV (withF (withF v F.SCHED.GL_INSTALL 0) F.SCHED.GL_EN 0) F.SCHED.GL_EN = false := by
    rw [isV, fv, withF, bits_setBits_self _ _ _ _ (by decide)]
    rfl
  refine ⟨_, exec_glDisable h v, ?_⟩
  simp only [regWrite_gates hl, he, Bool.not_false, if_true]
  have hg (u : State) : gatesOf (dropGates u sl) sl = { oper := none, pend := none, entry := 0 } := by
    rw [gatesOf, tabGetD, show (dropGates u sl).gates = tabDel (accrueNet u sl (now u sl)).gates sl from rfl, tabGet_tabDel_self]
    rfl
  rw [hg]
  exact ⟨rfl, rfl⟩

theorem gateTakeover_begins {l : GateList} (hp : (gatesOf s sl).pend = some l) (ht : l.start ≤ now s sl) :
    ∃ t, exec (.gateTakeover sl) s = .next t ∧ (gatesOf t sl).oper = some l := by
  refine ⟨_, (rfl : _ = execGateTakeover sl s).trans (onSlate_serving _ h), ?_⟩
  simp only [hp, if_neg (Nat.not_lt.2 ht)]
  rw [gatesOf_of_reports (raise_reports _ sl (by decide)), gatesOf, tabGetD_tabPut_self]

theorem gateListEntry_follows {l : GateList} (ho : (gatesOf s sl).oper = some l) : ∃ t, exec (.gateListEntry sl) s = .next t ∧
    (gatesOf t sl).entry = (entryAt l.entries 0 ((now s sl - l.start) % l.cycle)).1 := by
  refine ⟨_, (rfl : _ = execGateListEntry sl s).trans (onSlate_serving _ h), ?_⟩
  simp only [ho]
  split
  next he => exact he.symm
  next => rw [gatesOf, tabGetD_tabPut_self]

/-! ### Peer pause (R235) -/

theorem peerPauseExpiry_raises {c : Nat} {p : PeerPause} (hp : tabGet s.peerPause (sl * 8 + c) = some p) (hs : s.pin.shadows = [])
    (hr : p.raised = false) (hm : getF s sl F.SWITCH.PEER_PAUSE_MAX ≠ 0)
    (ht : p.since + getF s sl F.SWITCH.PEER_PAUSE_MAX * 1000000 ≤ now s sl) :
    ∃ t, exec (.peerPauseExpiry sl c) s = .next t ∧ tabGet t.peerPause (sl * 8 + c) = some { p with raised := true } := by
  refine ⟨_, (rfl : _ = execPeerPauseExpiry sl c s).trans (onSlate_serving _ h), ?_⟩
  have hh : heldOff s sl Ev.PEER_PAUSE 0 = false := by rw [heldOff, hs, List.any_nil]
  have hn : ¬ (p.raised || decide (getF s sl F.SWITCH.PEER_PAUSE_MAX = 0) ||
      decide (now s sl < p.since + getF s sl F.SWITCH.PEER_PAUSE_MAX * ms)) = true := by
    simp only [hr, hm, decide_false, Bool.false_or, decide_eq_true_eq]
    exact Nat.not_lt.2 ht
  simp only [peerPauseOver, hp, if_neg hn, hh, Bool.false_eq_true, if_false]
  rw [((Reports.foldl _ _ fun s k => flushNet_reports (by decide) ..).trans (detectAt_reports _ sl (by decide) ..)).peerPause]
  exact tabGet_tabPut_self ..

/-! ### Multicasts, lookup changes and the barrier (R237 to R239) -/

theorem multicastDone_ends {id : Nat} {m : Mcast} (hm : tabGet s.mcast id = some m) (hs : m.slate = sl) (hl : m.left = 0) :
    ∃ t, exec (.multicastDone sl id) s = .next t ∧ tabGet t.mcast id = none := by
  refine ⟨_, (rfl : _ = execMulticastDone sl id s).trans (onSlate_serving _ h), ?_⟩
  simp only [hm, hs, hl, ne_eq, not_true_eq_false, decide_false, Bool.or_self, Bool.false_eq_true, if_false]
  exact tabGet_tabDel_self ..

omit h in
/-- Outputs other than the network port never refuse a frame (R235). -/
theorem netBlocked_inner (s : State) (sl : Nat) {o : Nat × Nat} (ho : o.1 ≠ 0) (c : Nat) : netBlocked s sl o c = none := by
  rw [netBlocked, if_pos ho]

omit h in
theorem frames_joinAll (s : State) (l : List (Nat × Nat)) (sl c id : Nat) :
    (l.foldl (fun s o => joinQueue s sl o.1 o.2 c id) s).frames = s.frames := by
  induction l generalizing s with
  | nil => rfl
  | cons o l ih => exact (ih _).trans rfl

omit h in
/-- A frame whose outputs are all inside the package is queued at each of them and stays as it is (R242). -/
theorem queueFrame_inner {s : State} {id : Nat} {f : Frame} (hf : tabGet s.frames id = some f) (hw : f.waiting = false)
    (hst : f.stalled = false) (ho : ∀ o ∈ f.outs, o.1 ≠ 0) (hne : f.outs ≠ []) : tabGet (queueFrame s id).frames id = some f := by
  have hb : (f.outs.filter fun o => (netBlocked s f.slate o f.cls).isSome) = [] :=
    List.filter_eq_nil_iff.2 fun o hm => by simp [netBlocked_inner s f.slate (ho o hm)]
  have hg : (f.outs.filter fun o => (netBlocked s f.slate o f.cls).isNone) = f.outs :=
    List.filter_eq_self.2 fun o hm => by simp [netBlocked_inner s f.slate (ho o hm)]
  have he : ¬ f.outs.isEmpty = true := by simpa using hne
  rw [queueFrame, hf]
  dsimp only
  rw [if_neg (by rw [hw, hst]; decide), hb, hg, List.foldl_nil, if_neg he, frames_joinAll]
  exact tabGet_tabPut_self s.frames id f

theorem lookupWaitRelease_queues {id : Nat} {f : Frame} (hf : tabGet s.frames id = some f) (hs : f.slate = sl) (hw : f.waiting = true)
    (hst : f.stalled = false) (ho : olderFrames s f.home f.cls f.dst f.tver = false) (ha : flowAhead s id f.home f.key f.path = false)
    (hi : ∀ o ∈ f.outs, o.1 ≠ 0) (hne : f.outs ≠ []) :
    ∃ t, exec (.lookupWaitRelease sl id) s = .next t ∧ tabGet t.frames id = some { f with waiting := false } := by
  refine ⟨_, (rfl : _ = execLookupWaitRelease sl id s).trans (onSlate_serving _ h), ?_⟩
  simp only [hf, hs, hw, ho, ha, ne_eq, not_true_eq_false, decide_false, Bool.not_true, Bool.or_self, Bool.false_eq_true, if_false]
  exact queueFrame_inner (tabGet_tabPut_self ..) rfl hst hi hne

omit h in
theorem fieldMap_swb (n sl : Nat) : fieldMap n sl 0x04 2 =
    [⟨F.SWITCH.SWB, .wo, 0⟩, ⟨F.SWITCH.SWB_PEND, .r, 0⟩, ⟨F.SWITCH.TVER, .r, 0⟩] := by
  simp [fieldMap, slate0Only, fieldsSwitch]

omit h in
theorem regWrite_swb {v : Word} (hl : legal s sl 0x04 2 v = true) (hv : isV v F.SWITCH.SWB = true) :
    regWrite s sl 0x04 2 v = startBarrier s sl := by
  rw [regWrite_legal hl, storeFields, fieldMap_swb]
  simp only [List.foldl_cons, List.foldl_nil]
  rw [act, fieldMap_swb]
  simp only [List.isEmpty_cons, Bool.false_eq_true, if_false, actSwitch, Nat.reduceLeDiff, OfNat.ofNat_ne_one, if_true, hv]

theorem swb_starts {v : Word} (hl : legal s sl 0x04 2 (withF v F.SWITCH.SWB 1) = true) :
    ∃ t, exec (.swb sl v) s = .next t ∧ tabGet t.barrier sl = some (getF s sl F.SWITCH.TVER) := by
  refine ⟨_, (rfl : _ = execSwb sl v s).trans (onSlate_serving (fun s => regWrite s sl 0x04 2 (withF v F.SWITCH.SWB 1)) h), ?_⟩
  rw [regWrite_swb hl (isV_withF v F.SWITCH.SWB (by decide) (by decide)), startBarrier]
  exact tabGet_tabPut_self ..

omit h in
theorem barrier_of_reports {s t : State} (h : Reports s t) : t.barrier = s.barrier := (congrArg State.barrier h.steady :)

theorem swbDone_ends {b : Nat} (hb : tabGet s.barrier sl = some b) (hh : barrierHeld s sl b = false) :
    ∃ t, exec (.swbDone sl) s = .next t ∧ tabGet t.barrier sl = none := by
  refine ⟨_, (rfl : _ = execSwbDone sl s).trans (onSlate_serving _ h), ?_⟩
  simp only [hb, hh, Bool.false_eq_true, if_false]
  rw [barrier_of_reports (raise_reports _ sl (show Ev.SWB_DONE < 2048 by decide))]
  exact tabGet_tabDel_self ..

/-! ### Partner lanes and link errors (R230, R324) -/

omit h in
theorem tabPut_ne_nil {α : Type} (t : Tab α) (x : Nat) (a : α) : tabPut t x a ≠ [] := fun he => by
  have hg := tabGet_tabPut_self t x a
  rw [he] at hg
  cases hg

omit h in
theorem openShadow_opens (s : State) (k : ShadowKind) (sl limit : Nat) : (openShadow s k sl limit).pin.shadows ≠ [] :=
  tabPut_ne_nil s.pin.shadows _ _

omit h in
theorem links_openShadow (s : State) (k : ShadowKind) (sl limit : Nat) : (openShadow s k sl limit).links = s.links := by
  rw [openShadow, bump_links]

theorem partnerLaneError_opens (hs : sl ≤ 1) : ∃ t, exec (.partnerLaneError sl) s = .next t ∧ t.pin.shadows ≠ [] := by
  refine ⟨_, (rfl : _ = execPartnerLaneError sl s).trans (onSlate_serving _ h), ?_⟩
  rw [if_neg (Nat.not_lt.2 hs)]
  exact openShadow_opens s .partner sl 20

variable {l : Nat}

theorem fabricLinkError_retrains (hl : l < 4) (hu : linkUp s sl l = true) (hr : (linkOf s sl l).retrain = none) :
    ∃ t, exec (.fabricLinkError sl l) s = .next t ∧ (linkOf t sl l).retrain = some (now s sl) := by
  refine ⟨_, (rfl : _ = execFabricLinkError sl l s).trans (onSlate_serving _ h), ?_⟩
  have hn : ¬ 3 < l := by omega
  simp only [hn, hu, hr, decide_false, Bool.not_true, Option.isSome_none, Bool.or_self, Bool.false_eq_true, if_false]
  rw [linkOf, links_openShadow, tabGetD_tabPut_self]

/-- A link that has not retrained in 10 µs goes down; while every slate can still be reached, nothing else follows (R230). -/
theorem fabricLinkDown_falls (hl : l < 4) {a : Nat} (hx : linkOf s sl l = { up := true, retrain := some a }) (ht : a + 10000 ≤ now s sl)
    (hp : ∀ b, b ≠ sl → serving s b = true → pathOf (linkDead s sl l) sl b 0 ≠ none) :
    ∃ t, exec (.fabricLinkDown sl l) s = .next t ∧ (linkOf t sl l).up = false := by
  have hu : (linkOf s sl l).up = true := by rw [hx]
  have hf : SameFabric (linkDead s sl l) (repathAll (linkDown s sl l)) :=
    (linkDown_dead hl hu).trans (.of_reports (repathAll_reports _))
  have hc : linkFails s sl l = repathAll (linkDown s sl l) := checkReach_all fun b hb hs => by
    rw [hf.pathOf]
    exact hp b hb ((serving_congr hf.mod hf.n hf.lost b).symm.trans hs)
  refine ⟨_, (rfl : _ = execFabricLinkDown sl l s).trans (onSlate_serving _ h), ?_⟩
  have hd : a + 10 * us ≤ now s sl := ht
  have hn : ¬ 3 < l := by omega
  simp only [hn, hx, hd, decide_true, Bool.true_or, Bool.and_self, if_true, if_false, hc]
  rw [hf.linkOf]
  exact congrArg LinkState.up (linkOf_bothEnds s sl l { up := false, retrain := none })

theorem fabricLinkTrained_trains (hl : l < 4) (hx : serving s (linkNeigh s.n sl l) = true) :
    ∃ t, exec (.fabricLinkTrained sl l) s = .next t ∧ linkOf t sl l = { up := true, retrain := none } := by
  refine ⟨_, (rfl : _ = execFabricLinkTrained sl l s).trans (onSlate_serving _ h), ?_⟩
  have hn : ¬ 3 < l := by omega
  simp only [hn, hx, decide_false, Bool.not_true, Bool.or_self, Bool.false_eq_true, if_false]
  have hr := Reports.ite (c := (linkOf s sl l).up = true) (.refl (bothEnds s sl l { up := true, retrain := none }))
    ((raise_reports _ sl (show Ev.FLINK_UP < 2048 by decide)).trans
      (raise_reports _ (linkNeigh s.n sl l) (show Ev.FLINK_UP < 2048 by decide)))
  exact ((SameFabric.of_reports hr).linkOf sl l).trans (linkOf_bothEnds ..)

end Slate

end Sys2Proof.SwitchCompletion
end

section
/-! The commands of drive ports, gates, fabric links, multicasts and the switch barrier complete (R66, R181, R230, R235 to R241, R251 to R254,
R324, R371). -/

namespace Sys2Proof.MemberLinkCompletion

open Sys2Proof Sys2Proof.Machine Sys2Proof.Reporting Sys2Proof.Ports Sys2Proof.MemberLosses Sys2Proof.SwitchCompletion

/-- Settles O60: the members' part from the lemmas on member loss, the slates' part from the lemmas on the switch. -/
theorem memberAndLinkCommandsComplete : Obligations.MemberAndLinkCommandsComplete := by
  unfold Obligations.MemberAndLinkCommandsComplete
  refine ⟨fun s m hn h0 hp => ⟨fun hl h2 hc => ?_, fun i c hc hu ha hq ht hi => ?_, fun i c a hc ha hr ht => ?_, fun a hr ht h2 hc => ?_,
    fun hr hc => ?_, fun i c r hc hq hu => ?_, fun hpr h2 hc => ?_⟩,
    fun s sl h => ⟨fun v hl => glInstall_installs h hl, fun v hl => glDisable_opens h hl, fun l => gateTakeover_begins h,
      fun l => gateListEntry_follows h, fun c p _ => peerPauseExpiry_raises h, fun id m => multicastDone_ends h,
      fun id f => lookupWaitRelease_queues h, fun v => swb_starts h, fun b => swbDone_ends h, fun hs _ => partnerLaneError_opens h hs,
      fun l _ hl _ => ⟨fabricLinkError_retrains h hl, fun a hx _ => fabricLinkDown_falls h hl hx, fabricLinkTrained_trains h hl⟩⟩⟩
  · obtain ⟨t, ht, ⟨h3, -⟩, hk⟩ := memberLinkLoss_loses hn h0 hp hl h2 hc
    obtain ⟨u, hu, h3', -⟩ := cstsPoll_loses hn h0 hp hl h2 hc
    exact ⟨⟨t, ht, h3, hk⟩, u, hu, h3'⟩
  · exact ⟨_, cmdTimeout_aborts hn h0 hp hc ⟨hu, ha, hq, ht⟩, _, abortCmd_marks hi, rfl⟩
  · refine ⟨_, abortGraceExpiry_runs hn h0 hp hc ha hr, ?_⟩
    rw [if_neg (Nat.not_lt.2 ht), memberOf_putMember_self]
  · obtain ⟨t, ht, h3, -⟩ := readyMaxExpiry_loses hn h0 hp hr ht h2 hc
    exact ⟨t, ht, h3⟩
  · obtain ⟨t, ht, hm, -⟩ := controllerReady_quiet hn h0 hp hr hc
    exact ⟨t, ht, by rw [hm]⟩
  · rcases hu with hu | ⟨j, k, hu⟩
    · obtain ⟨ha, -⟩ := endCmd_absent s m i
      exact ⟨_, nvmeCompletion_internal hn h0 hp hc hq hu r, ha⟩
    · obtain ⟨t, ht, ha, -⟩ := nvmeCompletion_ends hn h0 hp hc hq hu r
      exact ⟨t, ht, ha⟩
  · obtain ⟨t, ht, ⟨h3, -⟩, hq, -⟩ := prsntDeassert_loses hn h0 hp hpr h2 hc
    exact ⟨t, ht, hq, h3⟩

end Sys2Proof.MemberLinkCompletion
end

section
/-! An injection whose EVENT spends a key (R84, R114, R128, R326).

The injected detector stands in the transport's space, as KEY_SPENT does. Its event is forwarded to a host under a key with one sequence
left, and the EVENT that takes it is a real hit of KEY_SPENT in that space. -/

namespace Sys2Proof.SpentByInjection

open Sys2Proof Sys2Proof.Machine

/-- A sealing key of slate 0. -/
def lastKey : KeyEntry :=
  { mode := 1, window := false, persist := false, gen := 0, bind := 0, rights := 0, lo := 0, hi := 0, check := 0, aes := [], salt := 0 }

/-- A queue under that key whose host has an address. -/
def eventQueue : Queue :=
  { host := 0, key := 1, pin := false, persist := false, armed := false, resetNonce := 0, resetMask := 0, resetTb := 0, resetOut := []
    resident := true, lastTb := 0, ret := some { source := 1, ipv4 := true, port := 0 }, tags := [] }

/-- A running unit of two slates that holds one key, with one sequence left, and one queue under it. -/
def lastSequence : State :=
  { State.reset with
    n := 2, mod := { State.reset.mod with power := .running }
    keys := [(1, lastKey)], keySeq := [(1, 2 ^ 48 - 1)], queues := [(1, eventQueue)] }

/-- It forwards CHECK_FAIL of slate 0 to that queue (R128). -/
def forwarding : State :=
  setF (setF (setF lastSequence 0 (fFwd Ev.CHECK_FAIL) 1) 0 (F.XPORT.EV_EN 0) 1) 0 (F.XPORT.EV_HQ 0) 1

/-- CHECK_FAIL is injected, and nothing is hit beside it. -/
def injectCheckFail : Instr := .injFire 0 5 ⟨0, none⟩

/-- The real STAT bits of slate 0's transport in an outcome, 0 where there is no next state. -/
def statOfOut (o : Out) : Nat :=
  match o with
  | .next u => getF u 0 (F.STAT_REAL 5)
  | _ => 0

/-- The injection leaves KEY_SPENT, source 4 of the space, hit. -/
theorem injection_hits_keySpent : statOfOut (exec injectCheckFail forwarding) = 2 ^ 4 := by decide +kernel

theorem unhit : getF forwarding 0 (F.STAT_REAL 5) = 0 := by decide +kernel

/-- Refutes O51: a forwarded injection that spends a key sets the real STAT bit of KEY_SPENT, which the statement says it leaves. -/
theorem not_faultHandling : ¬ Obligations.FaultHandling := by
  unfold Obligations.FaultHandling
  intro h
  obtain ⟨-, hinj, -⟩ := h forwarding 0 (.inl rfl) (by decide +kernel) (by decide +kernel) (by decide +kernel)
  obtain ⟨⟨u, hu, -, hr, -⟩, -⟩ := hinj 5 0 0 (by decide) (by decide +kernel) (by decide +kernel) (by decide)
  have hs := injection_hits_keySpent
  rw [injectCheckFail, hu] at hs
  exact absurd (hs.symm.trans (hr.trans unhit)) (by decide)

end Sys2Proof.SpentByInjection
end

section
/-! Records that library programs make, and what the end and the wait of one leave of volumes, map, courses and journals (R90, R95, R148,
R192, R196). -/

namespace Sys2Proof.LibraryRecords

open Sys2Proof Sys2Proof.Machine Sys2Proof.LibraryForm Sys2Proof.Stillness

/-! ### The records an owner has made (R192, R196) -/

/-- What an owner's journal says: the records written, then those that wait for their ring line. -/
def bodies (s : State) (o : Nat) : List RecBody := (ownerOf s o).recs.map (·.body) ++ (ownerOf s o).waiting.map (·.body)

theorem bodies_congr {s t : State} (h : t.owners = s.owners) (o : Nat) : bodies t o = bodies s o := by
  simp only [bodies, ownerOf, h]

@[simp] theorem ownerOf_putOwner_self (s : State) (o : Nat) (w : Owner) : ownerOf (putOwner s o w) o = w := tabGetD_tabPut_self ..

@[simp] theorem sendRec_body (s : State) (o : Nat) (hs : List Nat) (r : Rec) : (sendRec s o hs r).body = r.body := by
  unfold sendRec
  split <;> rfl

theorem owners_noteUcn (s : State) (u : Nat) (b : RecBody) : (noteUcn s u b).owners = s.owners := by
  unfold noteUcn
  split
  · split <;> rfl
  · rfl

theorem owners_of_still {s t : State} (h : still t = still s) : t.owners = s.owners := (congrArg State.owners h :)

/-- A record is added at the end, its UCN drawn where it draws one. -/
theorem bodies_addReq (s : State) (o : Nat) (x : RecReq) : ∃ b, bodies (addReq s o x) o = bodies s o ++ [b] ∧
    (b = x.body ∨ x.draws = true ∧ ∃ u, b = withUcn u x.body) := by
  unfold addReq
  extract_lets w
  split
  next hw =>
    have hn : (ownerOf s o).waiting = [] := by simpa using (Bool.and_eq_true_iff.1 hw).1
    cases hd : x.draws with
    | true =>
      have ho : ownerOf (noteUcn (drawUcn s).1 (drawUcn s).2 x.body) o = ownerOf s o :=
        congrArg (tabGetD · o ownerNew) (owners_noteUcn ..)
      refine ⟨withUcn (drawUcn s).2 x.body, ?_, .inr ⟨rfl, _, rfl⟩⟩
      simp only [putRec, hd, if_true, ho]
      rw [bodies_congr (owners_of_still (still_bump ..))]
      simp [bodies, hn]
    | false =>
      refine ⟨x.body, ?_, .inl rfl⟩
      simp only [putRec, hd, Bool.false_eq_true, if_false]
      rw [bodies_congr (owners_of_still (still_bump ..))]
      simp [bodies, hn]
  next =>
    refine ⟨x.body, ?_, .inl rfl⟩
    rw [bodies_congr (owners_of_still ((still_detect _ o (by decide) []).trans (still_bump ..)))]
    simp [bodies, w]

theorem mem_bodies_addReq {s : State} {o : Nat} {x : RecReq} {b : RecBody} (h : b ∈ bodies s o) : b ∈ bodies (addReq s o x) o := by
  obtain ⟨_, hb, -⟩ := bodies_addReq s o x
  rw [hb]
  exact List.mem_append_left _ h

/-- Every record of a group is made. -/
theorem mem_bodies_addReqs {o : Nat} {f : RecBody → RecReq} (hf : ∀ b, (f b).body = b ∧ (f b).draws = false) {l : List RecBody} {s : State}
    {b : RecBody} (h : b ∈ bodies s o ∨ b ∈ l) : b ∈ bodies (l.foldl (fun s b => addReq s o (f b)) s) o := by
  induction l generalizing s with
  | nil => simpa using h
  | cons a l ih =>
    refine ih ?_
    rcases h with h | h
    · exact .inl (mem_bodies_addReq h)
    · rcases List.mem_cons.1 h with rfl | h
      · obtain ⟨hx, hd⟩ := hf b
        obtain ⟨c, hc, rfl | ⟨hc', -⟩⟩ := bodies_addReq s o (f b)
        · rw [hc, hx]
          exact .inl (by simp)
        · rw [hd] at hc'
          cases hc'
      · exact .inr h

theorem lasting_addGroup (s : State) (o k : Nat) (bs : List RecBody) (draws : Bool) : lasting (addGroup s o k bs draws).1 = lasting s :=
  (lasting_addReq ..).trans (lasting_foldl _ s fun _ _ => lasting_addReq ..)

/-- A group of TABLE records leaves volumes alone, and every one of them is made. -/
theorem addTableGroup_records (s : State) (ts : List TableItem) : (addTableGroup s ts).1.volumes = s.volumes ∧
    ∀ t ∈ ts, .table t ∈ bodies (addTableGroup s ts).1 0 :=
  ⟨(congrArg State.volumes (lasting_addGroup s 0 0 (ts.map .table) true) :), fun _ ht =>
    mem_bodies_addReq (mem_bodies_addReqs (fun _ => ⟨rfl, rfl⟩) (.inr (List.mem_map_of_mem ht)))⟩

/-! ### What the end and the wait of a program leave of volumes and records -/

theorem endLib_storage (s : State) (id : Nat) (st : Status) (words : List Word) : (endLib s id st words).volumes = s.volumes ∧
    (endLib s id st words).map = s.map ∧ (endLib s id st words).courses = s.courses := by
  unfold endLib endJob
  split <;> exact ⟨rfl, rfl, rfl⟩

section Wait

variable (s : State) (id : Nat) (j : Job) (w : Wait) (k : OnWake)

theorem waitLib_storage : (waitLib s id j w k).volumes = s.volumes ∧ (waitLib s id j w k).map = s.map ∧
    (waitLib s id j w k).courses = s.courses ∧ (waitLib s id j w k).owners = s.owners := by
  obtain ⟨_, _, h, -⟩ := still_waitLib s id j w k
  exact ⟨(congrArg State.volumes h :), (congrArg State.map h :), (congrArg State.courses h :), (congrArg State.owners h :)⟩

end Wait

end Sys2Proof.LibraryRecords
end

section
/-! The volume programs and their cut-over (R95, R190): what a program records, when a cut stands in its way, and what a cut takes off
the map. -/

namespace Sys2Proof.VolumeLife

open Sys2Proof Sys2Proof.Machine Sys2Proof.LibraryForm Sys2Proof.LibraryRecords

/-! ### A change of the volume table and a cut (R95) -/

/-- A program that may commit records its change and waits for it (R95, R148). -/
theorem commitTables_waits {s : State} {id : Nat} (hc : (askCommit s id).2 = true) (j : Job) (ts : List TableItem) (w : OnWake) :
    ∃ u q, commitTables s id j ts w = waitLib u id j (.record 0 q) w ∧ u.volumes = s.volumes ∧ ∀ t ∈ ts, .table t ∈ bodies u 0 := by
  obtain ⟨hv, hb⟩ := addTableGroup_records (askCommit s id).1 ts
  refine ⟨_, (addTableGroup (askCommit s id).1 ts).2, ?_, hv.trans (congrArg State.volumes (lasting_askCommit s id) :), hb⟩
  unfold commitTables
  rw [show askCommit s id = ((askCommit s id).1, true) from Prod.ext rfl hc]
  rfl

section Runs

variable {c : Instr} {s : State} {slot id : Nat} {j : Job} {f : State → Job → State} (h : RunsLib s slot id j)
  (arm : exec c s = onLib slot id s f)

include h arm

/-- A program that ends at once leaves the volumes as they are. -/
theorem ends_volumes {st : Status} {words : List Word} (hf : f s j = endLib s id st words) :
    EndsLib c s id st words fun u => u.volumes = s.volumes :=
  ends_here h arm hf (endLib_storage ..).1

/-- A program that records a volume's size waits for the record. -/
theorem waits_volume (hc : (askCommit s id).2 = true) {v : Nat} {z : Option Nat} {k : OnWake}
    (hf : f s j = commitTables s id j [.volume v z] k) :
    ∃ q, WaitsLib c s id (.record 0 q) k fun u => u.volumes = s.volumes ∧ .table (.volume v z) ∈ bodies u 0 := by
  obtain ⟨u, q, hu, hv, hb⟩ := commitTables_waits hc j [.volume v z] k
  obtain ⟨hv', -, -, ho⟩ := waitLib_storage u id j (.record 0 q) k
  refine ⟨q, waits_in h arm (hf.trans hu) ⟨hv'.trans hv, ?_⟩⟩
  rw [bodies_congr ho]
  exact hb _ (List.mem_singleton_self _)

/-- A volume under a cut to `k` blocks by job `id`: the size it had, and the jobs that hold an extent in what is cut off (R95). -/
def cutTo (s : State) (id v k : Nat) (x : Volume) : Volume :=
  { x with cut := some { size := k, was := x.size, job := id, hold := extentHolders s v k (some id), tb := none } }

/-- A program that begins a cut waits for those jobs. -/
theorem waits_cut {v k : Nat} {x : Volume} (hx : tabGet s.volumes v = some x) (hf : f s j = beginCut s id j v k x.size) :
    WaitsLib c s id (.volumeJobs v) (.cutVolume v) fun u => tabGet u.volumes v = some (cutTo s id v k x) := by
  refine waits_in h arm hf ?_
  rw [(waitLib_storage ..).1, tabGet_tabMod_self, hx]
  rfl

end Runs

/-! ### A volume without a cut -/

section Uncut

variable {s : State} {v : Nat} (h : ∀ x, tabGet s.volumes v = some x → x.cut = none)

include h

theorem cutOver_uncut : cutOver s v = s := by
  unfold cutOver
  cases hx : tabGet s.volumes v with
  | none => rfl
  | some x => simp [h x hx]

theorem cutPending_uncut : cutPending s v = false := by
  unfold cutPending
  cases hx : tabGet s.volumes v with
  | none => rfl
  | some x => simp [h x hx]

end Uncut

theorem openSize_uncut {s : State} {v : Nat} {x : Volume} (hx : tabGet s.volumes v = some x) (hc : x.cut = none) (sl : Nat) :
    openSize s sl v = some x.size := by
  simp [openSize, hx, hc]

theorem volumeExists_new {s : State} {v : Nat} (hn : tabGet s.volumes v = none) (hp : pendingSize s v = none) (sl : Nat) :
    volumeExists s sl v = false := by
  simp [volumeExists, openSize, hn, hp]

theorem uncut_of_get {s : State} {v : Nat} {x : Volume} (hx : tabGet s.volumes v = some x) (hc : x.cut = none) :
    ∀ y, tabGet s.volumes v = some y → y.cut = none := fun y hy => by
  rw [← Option.some.inj (hx.symm.trans hy), hc]

/-! ### VOLUME_CREATE (R95) -/

/-- A size that no volume may have. -/
abbrev Wide (z : Nat) : Prop := z = 0 ∨ 2 ^ 40 < z

section Create

variable {s : State} {id : Nat} {j : Job} (h : RunsLib s 0x010 id j)

theorem volumeCreate_arm (s : State) (id : Nat) : exec (.volumeCreate id) s = execVolumeCreate id s := rfl

include h

theorem volumeCreate_range (hx : 4095 < (rd j 1).toNat ∨ Wide (rd j 2).toNat) :
    EndsLib (.volumeCreate id) s id St.outOfRange [] fun u => u.volumes = s.volumes :=
  ends_volumes h (volumeCreate_arm s id) (if_pos hx)

variable (hx : ¬ (4095 < (rd j 1).toNat ∨ Wide (rd j 2).toNat))

include hx

theorem volumeCreate_unserved (hu : poolServed s = false) :
    EndsLib (.volumeCreate id) s id St.notServing [] fun u => u.volumes = s.volumes := by
  refine ends_volumes h (volumeCreate_arm s id) ?_
  dsimp only
  rw [if_neg hx, if_pos (by simp [hu])]

variable (hu : poolServed s = true)

include hu

theorem volumeCreate_exists (he : volumeExists s j.slate (rd j 1).toNat = true) :
    EndsLib (.volumeCreate id) s id St.illegalField [] fun u => u.volumes = s.volumes := by
  refine ends_volumes h (volumeCreate_arm s id) ?_
  dsimp only
  rw [if_neg hx, if_neg (by simp [hu]), if_pos he]

theorem volumeCreate_records (hn : tabGet s.volumes (rd j 1).toNat = none) (hp : pendingSize s (rd j 1).toNat = none)
    (hc : (askCommit s id).2 = true) : ∃ q, WaitsLib (.volumeCreate id) s id (.record 0 q) (.finish St.ok []) fun u =>
      u.volumes = s.volumes ∧ .table (.volume (rd j 1).toNat (some (rd j 2).toNat)) ∈ bodies u 0 := by
  have hcut : ∀ x, tabGet s.volumes (rd j 1).toNat = some x → x.cut = none := fun x hx => nomatch hn.symm.trans hx
  refine waits_volume h (volumeCreate_arm s id) hc ?_
  dsimp only
  rw [if_neg hx, if_neg (by simp [hu]), if_neg (by rw [volumeExists_new hn hp]; decide), cutOver_uncut hcut, cutPending_uncut hcut,
    if_neg Bool.false_ne_true]

end Create

/-! ### VOLUME_DELETE (R95) -/

section Delete

variable {s : State} {id : Nat} {j : Job} (h : RunsLib s 0x011 id j)

theorem volumeDelete_arm (s : State) (id : Nat) : exec (.volumeDelete id) s = execVolumeDelete id s := rfl

include h

theorem volumeDelete_undefined (hz : openSize s j.slate (rd j 1).toNat = none) : EndsLib (.volumeDelete id) s id
    (if 4095 < (rd j 1).toNat ∨ poolServed s = true then St.outOfRange else St.notServing) [] fun u => u.volumes = s.volumes := by
  refine ends_volumes h (volumeDelete_arm s id) ?_
  simp only [hz]

variable {x : Volume} (hx : tabGet s.volumes (rd j 1).toNat = some x) (hn : x.cut = none)

include hx hn

theorem volumeDelete_unserved (hu : poolServed s = false) :
    EndsLib (.volumeDelete id) s id St.notServing [] fun u => u.volumes = s.volumes := by
  refine ends_volumes h (volumeDelete_arm s id) ?_
  simp only [openSize_uncut hx hn, cutOver_uncut (uncut_of_get hx hn), hu, Bool.not_false, if_true]

theorem volumeDelete_cuts (hu : poolServed s = true) : WaitsLib (.volumeDelete id) s id (.volumeJobs (rd j 1).toNat)
    (.cutVolume (rd j 1).toNat) fun u => tabGet u.volumes (rd j 1).toNat = some (cutTo s id (rd j 1).toNat 0 x) := by
  refine waits_cut h (volumeDelete_arm s id) hx ?_
  simp only [openSize_uncut hx hn, cutOver_uncut (uncut_of_get hx hn), cutPending_uncut (uncut_of_get hx hn), hu, Bool.not_true,
    Bool.false_eq_true, if_false]

end Delete

/-! ### VOLUME_RESIZE (R95) -/

section Resize

variable {s : State} {id : Nat} {j : Job} (h : RunsLib s 0x012 id j)

theorem volumeResize_arm (s : State) (id : Nat) : exec (.volumeResize id) s = execVolumeResize id s := rfl

include h

theorem volumeResize_undefined (hz : openSize s j.slate (rd j 1).toNat = none) : EndsLib (.volumeResize id) s id
    (if 4095 < (rd j 1).toNat ∨ poolServed s = true then St.outOfRange else St.notServing) [] fun u => u.volumes = s.volumes := by
  refine ends_volumes h (volumeResize_arm s id) ?_
  simp only [hz]

variable {x : Volume} (hx : tabGet s.volumes (rd j 1).toNat = some x) (hn : x.cut = none)

include hx hn

theorem volumeResize_range (hw : Wide (rd j 2).toNat) :
    EndsLib (.volumeResize id) s id St.outOfRange [] fun u => u.volumes = s.volumes := by
  refine ends_volumes h (volumeResize_arm s id) ?_
  simp only [openSize_uncut hx hn, cutOver_uncut (uncut_of_get hx hn)]
  exact if_pos hw

variable (hw : ¬ Wide (rd j 2).toNat)

include hw

theorem volumeResize_unserved (hu : poolServed s = false) :
    EndsLib (.volumeResize id) s id St.notServing [] fun u => u.volumes = s.volumes := by
  refine ends_volumes h (volumeResize_arm s id) ?_
  simp only [openSize_uncut hx hn, cutOver_uncut (uncut_of_get hx hn), hu, Bool.not_false, if_true]
  exact if_neg hw

variable (hu : poolServed s = true)

include hu

theorem volumeResize_cuts (hz : (rd j 2).toNat < x.size) : WaitsLib (.volumeResize id) s id (.volumeJobs (rd j 1).toNat)
    (.cutVolume (rd j 1).toNat) fun u => tabGet u.volumes (rd j 1).toNat = some (cutTo s id (rd j 1).toNat (rd j 2).toNat x) := by
  refine waits_cut h (volumeResize_arm s id) hx ?_
  simp only [openSize_uncut hx hn, cutOver_uncut (uncut_of_get hx hn), cutPending_uncut (uncut_of_get hx hn), hu, hz, Bool.not_true,
    Bool.false_eq_true, if_false, if_true]
  exact if_neg hw

theorem volumeResize_grows (hz : x.size ≤ (rd j 2).toNat) (hc : (askCommit s id).2 = true) :
    ∃ q, WaitsLib (.volumeResize id) s id (.record 0 q) .finishTb fun u =>
      u.volumes = s.volumes ∧ .table (.volume (rd j 1).toNat (some (rd j 2).toNat)) ∈ bodies u 0 := by
  refine waits_volume h (volumeResize_arm s id) hc ?_
  simp only [openSize_uncut hx hn, cutOver_uncut (uncut_of_get hx hn), cutPending_uncut (uncut_of_get hx hn), hu, Nat.not_lt.2 hz,
    Bool.not_true, Bool.false_eq_true, if_false]
  exact if_neg hw

end Resize

/-! ### VOLUME_INFO (R95) -/

/-- The state word of a volume: 3 while a FORMAT of it runs, else 1. -/
theorem formatState_word (a : AdminOp) (v : Nat) : BitVec.ofNat 64 (1 + (a.state == 1 && a.op == 2 && a.volume == v).toNat * 2) =
    if a.state = 1 ∧ a.op = 2 ∧ a.volume = v then 3 else 1 := by
  by_cases hf : a.state = 1 ∧ a.op = 2 ∧ a.volume = v
  · rw [if_pos hf, show (a.state == 1 && a.op == 2 && a.volume == v) = true by simpa [and_assoc] using hf]
    rfl
  · rw [if_neg hf, show (a.state == 1 && a.op == 2 && a.volume == v) = false by simpa [and_assoc] using hf]
    rfl

section Info

variable {s : State} {id : Nat} {j : Job} (h : RunsLib s 0x013 id j)

theorem volumeInfo_arm (s : State) (id : Nat) : exec (.volumeInfo id) s = execVolumeInfo id s := rfl

include h

theorem volumeInfo_range (hv : 4095 < (rd j 1).toNat) : EndsLib (.volumeInfo id) s id St.outOfRange [] fun _ => True :=
  ends_here h (volumeInfo_arm s id) (if_pos hv) trivial

variable (hv : (rd j 1).toNat ≤ 4095)

include hv

theorem volumeInfo_undefined (hz : openSize s j.slate (rd j 1).toNat = none) : EndsLib (.volumeInfo id) s id St.ok [] fun _ => True := by
  refine ends_here h (volumeInfo_arm s id) ?_ trivial
  simp only [hz, Nat.not_lt.2 hv, if_false]

theorem volumeInfo_shows {k : Nat} (hz : openSize s j.slate (rd j 1).toNat = some k) : EndsLib (.volumeInfo id) s id St.ok
    [BitVec.ofNat 64 k, BitVec.ofNat 64 (mappedGrains s (rd j 1).toNat),
      if s.admin.state = 1 ∧ s.admin.op = 2 ∧ s.admin.volume = (rd j 1).toNat then 3 else 1] fun _ => True := by
  refine ends_here h (volumeInfo_arm s id) ?_ trivial
  simp only [hz, Nat.not_lt.2 hv, if_false]
  rw [formatState_word]

end Info

/-! ### VOLUME_CUTOVER (R95, R190) -/

/-- A cut whose TB has come and whose record has taken effect. -/
def Due (s : State) (x : Volume) (c : VolCut) : Prop := x.cut = some c ∧ x.size = c.size ∧ ∃ t, c.tb = some t ∧ t ≤ now s 0

/-- The volumes once a cut is applied. -/
def cutVolumes (s : State) (v : Nat) (x : Volume) (c : VolCut) : Tab Volume :=
  if c.size = 0 then tabDel s.volumes v else tabPut s.volumes v { x with cut := none }

theorem cutOver_notDue {s : State} {v : Nat} (h : ∀ x c, tabGet s.volumes v = some x → ¬ Due s x c) : cutOver s v = s := by
  unfold cutOver
  split
  · rfl
  next x hx =>
    split
    · rfl
    next c hc =>
      split
      · rfl
      next t ht =>
        refine if_pos ?_
        by_contra hd
        simp only [Bool.or_eq_true, decide_eq_true_eq, bne_iff_ne, not_or, Nat.not_lt, not_not] at hd
        exact h x c hx ⟨hc, hd.2, t, ht, hd.1⟩

theorem cutOver_due {s : State} {v : Nat} {x : Volume} {c : VolCut} (hx : tabGet s.volumes v = some x) (hd : Due s x c) :
    cutOver s v = cutEntries { s with volumes := cutVolumes s v x c } v c.size := by
  obtain ⟨hc, hz, t, ht, hle⟩ := hd
  simp only [cutOver, hx, hc, ht]
  exact if_neg (by simp [hz, hle])

theorem lasting_grainLive (s : State) (pgn : Nat) (up : Bool) : lasting (grainLive s pgn up) = lasting s := by
  have retire (s : State) (k : Nat) : lasting (retireIfDead s k) = lasting s := by
    unfold retireIfDead
    split
    · split <;> rfl
    · rfl
  unfold grainLive
  split
  · rfl
  · split
    · rfl
    · exact (retire ..).trans rfl

/-- A cut takes from the map the entries of its volume at and above its size, and leaves the volumes alone. -/
theorem cutEntries_cuts (s : State) (v k : Nat) : (cutEntries s v k).volumes = s.volumes ∧
    (cutEntries s v k).map = s.map.filter fun p => !(p.1 / 2 ^ 64 == v && decide (k ≤ p.1 % 2 ^ 64)) := by
  unfold cutEntries
  extract_lets out gone dead u w
  have hl : lasting (dead.foldl (fun s p => grainLive s (entryPgn p.2.ptr) false) w) = lasting u :=
    (lasting_foldl _ _ fun _ _ => lasting_grainLive ..).trans (lasting_foldl _ _ fun _ _ => lasting_grainLive ..)
  exact ⟨(congrArg State.volumes hl :), (congrArg State.map hl :)⟩

theorem mapEntry_cutEntries (s : State) (v k w : Nat) {lba : Nat} (hl : lba < 2 ^ 64) :
    mapEntry (cutEntries s v k) w lba = if w = v ∧ k ≤ lba then 0 else mapEntry s w lba := by
  have hq : mapKey w lba / 2 ^ 64 = w ∧ mapKey w lba % 2 ^ 64 = lba := by
    unfold mapKey
    omega
  have hcut : (mapKey w lba / 2 ^ 64 == v && decide (k ≤ mapKey w lba % 2 ^ 64)) = decide (w = v ∧ k ≤ lba) := by
    rw [hq.1, hq.2, Bool.decide_and]
    rfl
  rw [mapEntry, (cutEntries_cuts s v k).2, tabGetD]
  split
  next hc => rw [Ports.tabGet_filter_none s.map fun _ => by rw [hcut, decide_eq_true hc, Bool.not_true], Option.getD_none]
  next hc =>
    rw [Moments.tabGet_filter_key (f := fun x => !(x / 2 ^ 64 == v && decide (k ≤ x % 2 ^ 64)))
      (by rw [hcut, decide_eq_false hc, Bool.not_false]) s.map]
    rfl

theorem volumeCutover_runs {s : State} (h : serving s 0 = true) (v : Nat) : exec (.volumeCutover v) s = .next (cutOver s v) :=
  onUnit_serving (fun s => cutOver s v) h

theorem volumeCutover_cuts {s : State} (h : serving s 0 = true) {v : Nat} {x : Volume} {c : VolCut} (hx : tabGet s.volumes v = some x)
    (hd : Due s x c) : Answers (.volumeCutover v) s fun u => u.volumes = cutVolumes s v x c ∧
      ∀ w lba, lba < 2 ^ 64 → mapEntry u w lba = if w = v ∧ c.size ≤ lba then 0 else mapEntry s w lba := by
  refine ⟨_, volumeCutover_runs h v, ?_⟩
  rw [cutOver_due hx hd]
  exact ⟨(cutEntries_cuts ..).1, fun w lba hl => mapEntry_cutEntries _ v c.size w hl⟩

/-- Settles O57: each program's checks in their order, and the cut-over by the table a cut leaves. -/
theorem volumePrograms : Obligations.VolumePrograms := by
  unfold Obligations.VolumePrograms
  refine ⟨?jobs, ?cutover⟩
  case cutover =>
    intro s v h due
    exact ⟨fun hd => (volumeCutover_runs h v).trans (congrArg _ (cutOver_notDue hd)), fun x c hx hd => volumeCutover_cuts h hx hd⟩
  intro s id j v z up w wrote cut
  refine ⟨fun h => ?create, fun h => ?delete, fun h => ?resize, fun h => ?info⟩
  case create =>
    refine ⟨volumeCreate_range h, fun hv hw => volumeCreate_unserved h (not_or.2 ⟨Nat.not_lt.2 hv, hw⟩),
      fun hv hw => volumeCreate_exists h (not_or.2 ⟨Nat.not_lt.2 hv, hw⟩),
      fun hv hw => volumeCreate_records h (not_or.2 ⟨Nat.not_lt.2 hv, hw⟩)⟩
  case delete =>
    exact ⟨volumeDelete_undefined h, fun x hx hn => ⟨volumeDelete_unserved h hx hn, volumeDelete_cuts h hx hn⟩⟩
  case resize =>
    exact ⟨volumeResize_undefined h, fun x hx hn => ⟨volumeResize_range h hx hn, fun hw => volumeResize_unserved h hx hn hw,
      fun hw hu => volumeResize_cuts h hx hn hw hu, fun hw hu => volumeResize_grows h hx hn hw hu⟩⟩
  case info =>
    exact ⟨volumeInfo_range h, volumeInfo_undefined h, fun k hv => volumeInfo_shows h hv⟩

end Sys2Proof.VolumeLife
end

section
/-! The leaves of an extent and its grains, as the block programs bring them in and read them (R92, R162, R210). -/

namespace Sys2Proof.Extents

open Sys2Proof Sys2Proof.Machine Sys2Proof.LibraryForm Sys2Proof.LibraryRecords Sys2Proof.Stillness Sys2Proof.GrainReads Sys2Proof.MapOps

/-! ### What the fetch of a leaf leaves alone (R162) -/

/-- The map, the courses and the journals. -/
def stores (s : State) : Tab Word × Tab Course × Tab Owner := (s.map, s.courses, s.owners)

theorem stores_of_still {s t : State} (h : still t = still s) : stores t = stores s := (congrArg stores h :)

theorem stores_foldl {α : Type} {f : State → α → State} (l : List α) (s : State) (h : ∀ s a, stores (f s a) = stores s) :
    stores (l.foldl f s) = stores s :=
  List.foldlRecOn (motive := fun t => stores t = stores s) l f rfl fun t ht a _ => (h t a).trans ht

theorem stores_issueCmd (s : State) (m opcode lba : Nat) (use : DrvUse) (admin : Bool) (sqe : Block) (fua : Bool) :
    stores (issueCmd s m opcode lba use admin sqe fua) = stores s := by
  unfold issueCmd
  dsimp only
  split
  · rfl
  · exact (stores_of_still (still_countSrc ..)).trans rfl

theorem stores_issueReads (s : State) (id : Nat) : stores (issueReads s id) = stores s := by
  unfold issueReads
  split
  · extract_lets needs
    refine stores_foldl _ _ fun s p => stores_foldl _ _ fun s x => ?_
    split
    · exact (stores_issueCmd s ..)
    · rfl
  · rfl

theorem stores_finishNode (s : State) (r : GrainRead) (v j i : Nat) : stores (finishNode s r v j i) = stores s := by
  unfold finishNode
  split
  · split
    · rfl
    · split <;> rfl
    · split <;> rfl
  · rfl

/-- The fetch of a map grain, whether it ends at once or not. -/
theorem stores_startNode (s : State) (sl k : Nat) (want : List Nat) (v j i : Nat) :
    stores (startRead s sl k want (.node v j i)) = stores s := by
  unfold startRead advanceRead
  extract_lets r u
  simp only [tabGet_tabPut_self]
  rw [if_neg (by simp [r])]
  have hu : stores u = stores s := (stores_issueReads ..).trans rfl
  clear_value u
  exact iteInduction (motive := fun t => stores t = stores s) (fun _ => hu) fun _ => (stores_finishNode ..).trans hu

theorem stores_needLeaf (s : State) (v lba : Nat) : stores (needLeaf s v lba) = stores s := by
  unfold needLeaf
  extract_lets i
  split
  · rfl
  split
  · rfl
  split
  · rfl
  · exact stores_startNode ..

theorem stores_fetchLeaves (s : State) (a : BlockArgs) : stores (fetchLeaves s a) = stores s :=
  stores_foldl _ s fun _ _ => stores_needLeaf ..

theorem onlyResults_trans {s t u : State} (h : OnlyResults s t) (h' : OnlyResults t u) : OnlyResults s u :=
  ⟨h'.1.trans h.1, fun id j hj => by
    obtain ⟨r, hr⟩ := h.2 id j hj
    obtain ⟨r', hr'⟩ := h'.2 id _ hr
    exact ⟨r', hr'⟩⟩

theorem onlyResults_fetchLeaves (s : State) (a : BlockArgs) : OnlyResults s (fetchLeaves s a) :=
  List.foldlRecOn (motive := OnlyResults s) _ _ (onlyResults_of_eq rfl rfl) fun _ ht _ _ => onlyResults_trans ht (onlyResults_needLeaf ..)

/-! ### An extent whose leaves are in the map cache -/

/-- The state without the map cache. -/
def uncached (s : State) : State := { s with leaves := [] }

/-- `t` is `s` but for its map cache, in which no leaf is missing that `s` had. -/
structure MoreCached (s t : State) : Prop where
  rest : uncached t = uncached s
  leaf : ∀ v i, nodeCached s v 0 i = true → nodeCached t v 0 i = true

theorem moreCached_noteCached (s : State) (v i : Nat) : MoreCached s (noteCached s v i) := by
  refine ⟨rfl, fun w k h => ?_⟩
  simp only [nodeCached, noteCached, modNode, nodeOf, tabModD] at h ⊢
  by_cases hk : nodeKey w 0 k = nodeKey v 0 i
  · simp [hk]
  · rwa [tabGetD_tabPut_ne _ _ _ hk]

/-- Every block of an extent has its leaf in the map cache. -/
def Mapped (s : State) (a : BlockArgs) : Prop := ∀ i < a.count, nodeCached s a.volume 0 ((a.lba + i) / 512) = true

/-- A leaf of an extent is the leaf of one of its blocks. -/
theorem block_of_extentLeaf {lba count x : Nat} (hc : 0 < count) (h : x ∈ extentLeaves lba count) : ∃ i < count, x / 512 = (lba + i) / 512 := by
  obtain ⟨k, hk, rfl⟩ := List.mem_map.1 h
  have hk := List.mem_range.1 hk
  by_cases h0 : k = 0
  · exact ⟨0, hc, by omega⟩
  · exact ⟨(lba / 512 + k) * 512 - lba, by omega, by omega⟩

section Mapped

variable {s : State} {a : BlockArgs} (hc : 0 < a.count) (hm : Mapped s a)

include hc hm

/-- To bring in leaves that are there is to note that they are. -/
theorem moreCached_fetchLeaves : MoreCached s (fetchLeaves s a) := by
  refine List.foldlRecOn (motive := MoreCached s) _ _ ⟨rfl, fun _ _ h => h⟩ fun t ht x hx => ?_
  obtain ⟨i, hi, he⟩ := block_of_extentLeaf hc hx
  have hn : nodeCached t a.volume 0 (x / 512) = true := ht.leaf _ _ (he ▸ hm i hi)
  have hl : needLeaf t a.volume x = noteCached t a.volume (x / 512) := if_pos hn
  have ht' := moreCached_noteCached t a.volume (x / 512)
  rw [hl]
  exact ⟨ht'.rest.trans ht.rest, fun v k h => ht'.leaf v k (ht.leaf v k h)⟩

theorem leavesUnserved_mapped : leavesUnserved s a = false := by
  refine List.any_eq_false.2 fun x hx => ?_
  obtain ⟨i, hi, he⟩ := block_of_extentLeaf hc hx
  have hs : leafServed s a.volume x = .ok := if_pos (he ▸ hm i hi)
  rw [hs]
  decide

end Mapped

/-- Deallocated blocks have no grain. -/
theorem extentRuns_deallocated {s : State} {v lba count : Nat} (l : Layout)
    (hn : ∀ i < count, nodeCached s v 0 ((lba + i) / 512) = true) (hd : ∀ i < count, deallocated (mapEntry s v (lba + i)) = true) :
    extentRuns s l v lba count = ([], 0) := by
  unfold extentRuns
  refine List.foldlRecOn (motive := fun p : List GrainRun × Nat => p = ([], 0)) _ _ rfl fun p hp i hi => ?_
  have hi := List.mem_range.1 hi
  have hlost : entryLost (mapEntry s v (lba + i)) = false := by
    have h := hd i hi
    simp only [deallocated, Bool.and_eq_true, Bool.not_eq_true'] at h
    exact h.2
  simp only [hn i hi, hlost, hd i hi, Bool.not_true, Bool.or_self, Bool.false_eq_true, if_false, if_true, hp]

/-- Lost blocks are counted, and have no grain to be read. -/
theorem extentRuns_lost {s : State} {v lba count : Nat} (l : Layout) (hl : ∀ i < count, entryLost (mapEntry s v (lba + i)) = true) :
    extentRuns s l v lba count = ([], count) := by
  have count_lost (is : List Nat) (hi : ∀ i ∈ is, i < count) (n : Nat) : is.foldl (fun (p : List GrainRun × Nat) i =>
      let e := mapEntry s v (lba + i)
      if !nodeCached s v 0 ((lba + i) / 512) || entryLost e then (p.1, p.2 + 1)
      else if deallocated e then p
      else (addRun l p.1 i (entryPgn e), p.2)) ([], n) = ([], n + is.length) := by
    induction is generalizing n with
    | nil => rfl
    | cons i is ih =>
      rw [List.foldl_cons]
      simp only [hl i (hi i (by simp)), Bool.or_true, if_true]
      rw [ih (fun k hk => hi k (by simp [hk]))]
      simp only [List.length_cons, Nat.add_comm, Nat.add_left_comm]
  have h := count_lost (List.range count) (fun i hi => List.mem_range.1 hi) 0
  rwa [List.length_range, Nat.zero_add] at h

/-! ### The jobs of programs that read -/

/-- A job that reads a run under a ticket. -/
def withTicket (h : Handle) (t : Nat) (r : GrainRun) (j : Job) : Job :=
  let h := { h with off := h.off + r.at_ * 4096, len := r.count * 4096 }
  { j with tickets := tabPut j.tickets t (newTicket true 0 2 (some h) r.first r.count) }

theorem readRun_job {s : State} {l : Layout} {sl id t : Nat} {h : Handle} {r : GrainRun} {j : Job} (hj : jobOf s id = some j) :
    ∃ tks, jobOf (readRun s l sl id h t r) id = some { j with tickets := tks } := by
  have ht : jobOf (modJob s id (withTicket h t r)) id = some (withTicket h t r j) :=
    (tabGet_tabMod_self s.jobs id _).trans (congrArg (Option.map (withTicket h t r)) hj)
  obtain ⟨tks, -, hu, -⟩ := Tickets.crdReads_ticket (l := l) (sl := sl) (first := r.first) (count := r.count) ht (tabGet_tabPut_self ..)
  exact ⟨tks, hu⟩

/-- A job that reads an extent changes in its tickets alone. -/
theorem readExtent_job {s : State} {sl id : Nat} {a : BlockArgs} {h : Handle} {j : Job} (hj : jobOf s id = some j) :
    ∃ tks, jobOf (readExtent s sl id a h).1 id = some { j with tickets := tks } := by
  unfold readExtent
  split
  · exact ⟨j.tickets, hj⟩
  next l hl =>
    refine List.foldlRecOn (motive := fun t => ∃ tks, jobOf t id = some { j with tickets := tks }) _ _ ⟨j.tickets, hj⟩ ?_
    rintro t ⟨tks, ht⟩ p -
    obtain ⟨tks', ht'⟩ := readRun_job (l := ‹Layout›) ht
    exact ⟨tks', ht'⟩

end Sys2Proof.Extents
end

section
/-! The block programs (R90 to R94): the checks they share, what each ends with and what it waits for. -/

namespace Sys2Proof.BlockIo

open Sys2Proof Sys2Proof.Machine Sys2Proof.LibraryForm Sys2Proof.LibraryRecords Sys2Proof.Stillness Sys2Proof.Extents

/-! ### The form of a library program (R90) -/

/-- A library program does nothing for a job that does not run it. -/
theorem idle_of_not_runs {c : Instr} {s : State} {slot id : Nat} {f : State → Job → State} (arm : exec c s = onLib slot id s f)
    (hu : serving s 0 = true) (hn : ∀ j, ¬ RunsLib s slot id j) : exec c s = .next s := by
  rw [arm]
  refine (onUnit_serving _ hu).trans (congrArg _ ?_)
  cases hj : jobOf s id with
  | none => rfl
  | some j =>
    refine if_neg fun hr => ?_
    simp only [Bool.and_eq_true, beq_iff_eq] at hr
    obtain ⟨⟨⟨hs, hi⟩, ht⟩, hsl⟩ := hr
    exact hn j ⟨hu, hj, hs, hi, ht, hsl⟩

section Arms

variable (s : State) (id : Nat)

theorem read_arm : exec (.read id) s = execRead id s := rfl
theorem write_arm : exec (.write id) s = execWrite id s := rfl
theorem atomicWrite_arm : exec (.atomicWrite id) s = execAtomicWrite id s := rfl
theorem compareAndWrite_arm : exec (.compareAndWrite id) s = execCompareAndWrite id s := rfl
theorem deallocate_arm : exec (.deallocate id) s = execDeallocate id s := rfl
theorem flush_arm : exec (.flush id) s = execFlush id s := rfl
theorem adminStatus_arm : exec (.adminStatus id) s = execAdminStatus id s := rfl
theorem ctlGet_arm : exec (.ctlGet id) s = execCtlGet id s := rfl
theorem ctlSet_arm : exec (.ctlSet id) s = execCtlSet id s := rfl
theorem ctlSwap_arm : exec (.ctlSwap id) s = execCtlSwap id s := rfl

/-- The programs of the library, by slot. -/
theorem library_arm {img : ProgImage} {rng : Bool} {p : Nat × Instr}
    (hp : p ∈ [(0x000, .read id), (0x001, .write id), (0x002, .atomicWrite id), (0x003, .compareAndWrite id), (0x004, .deallocate id),
      (0x005, .flush id), (0x010, .volumeCreate id), (0x011, .volumeDelete id), (0x012, .volumeResize id), (0x013, .volumeInfo id),
      (0x020, .sanitize ⟨id, rng⟩), (0x021, .format id), (0x022, .adminStatus id), (0x028, .powerState id), (0x030, .programInstall id img),
      (0x031, .programRemove id), (0x032, .programInfo id), (0x040, .ctlGet id), (0x041, .ctlSet id), (0x042, .ctlSwap id)]) :
    ∃ f, exec p.2 s = onLib p.1 id s f := by
  simp only [List.mem_cons, List.not_mem_nil, or_false] at hp
  obtain rfl | rfl | rfl | rfl | rfl | rfl | rfl | rfl | rfl | rfl | rfl | rfl | rfl | rfl | rfl | rfl | rfl | rfl | rfl | rfl := hp
  exacts [⟨_, read_arm s id⟩, ⟨_, write_arm s id⟩, ⟨_, atomicWrite_arm s id⟩, ⟨_, compareAndWrite_arm s id⟩, ⟨_, deallocate_arm s id⟩,
    ⟨_, flush_arm s id⟩, ⟨_, VolumeLife.volumeCreate_arm s id⟩, ⟨_, VolumeLife.volumeDelete_arm s id⟩, ⟨_, VolumeLife.volumeResize_arm s id⟩,
    ⟨_, VolumeLife.volumeInfo_arm s id⟩, ⟨_, Administration.sanitize_arm s id rng⟩, ⟨_, Administration.format_arm s id⟩,
    ⟨_, adminStatus_arm s id⟩, ⟨_, Administration.powerState_arm s id⟩, ⟨_, ProgramStore.install_arm s id img⟩,
    ⟨_, ProgramStore.remove_arm s id⟩, ⟨_, ProgramStore.info_arm s id⟩, ⟨_, ctlGet_arm s id⟩, ⟨_, ctlSet_arm s id⟩, ⟨_, ctlSwap_arm s id⟩]

end Arms

/-! ### The checks (R91, R92) -/

section Checked

variable {c : Instr} {s : State} {slot id : Nat} {j : Job} {f : State → Job → State} (h : RunsLib s slot id j)
  (arm : exec c s = onLib slot id s f)

include h arm

/-- A program that ends at once leaves the map as it is. -/
theorem ends_mapped {st : Status} {words : List Word} (hf : f s j = endLib s id st words) :
    EndsLib c s id st words fun u => u.map = s.map :=
  ends_here h arm hf (endLib_storage ..).2.1

end Checked

/-- An extent that passes the checks has a block. -/
theorem count_of_blockCheck {s : State} {j : Job} {limit inb outb : Nat} {appends : Bool} {a : BlockArgs} (ha : blockArgs j = some a)
    (h : blockCheck s j limit inb outb appends = none) : 0 < a.count := by
  by_contra hc
  simp [blockCheck, ha, Nat.eq_zero_of_not_pos hc] at h

section Refused

variable {s : State} {id : Nat} {j : Job} {st : Status}

theorem read_refused (h : RunsLib s 0x000 id j) (hc : blockCheck s j 2048 0 1 false = some st) :
    EndsLib (.read id) s id st [] fun u => u.map = s.map := by
  refine ends_mapped h (read_arm s id) ?_
  simp only [hc]

theorem write_refused (h : RunsLib s 0x001 id j) (hc : blockCheck s j 2048 1 0 true = some st) :
    EndsLib (.write id) s id st [] fun u => u.map = s.map := by
  refine ends_mapped h (write_arm s id) ?_
  simp only [hc]

theorem atomicWrite_refused (h : RunsLib s 0x002 id j) (hc : blockCheck s j (courseBlocks s) 1 0 true = some st) :
    EndsLib (.atomicWrite id) s id st [] fun u => u.map = s.map := by
  refine ends_mapped h (atomicWrite_arm s id) ?_
  simp only [hc]

theorem compareAndWrite_refused (h : RunsLib s 0x003 id j) (hc : blockCheck s j 256 2 0 true = some st) :
    EndsLib (.compareAndWrite id) s id st [] fun u => u.map = s.map := by
  refine ends_mapped h (compareAndWrite_arm s id) ?_
  simp only [hc]

theorem deallocate_refused (h : RunsLib s 0x004 id j) (hc : blockCheck s j 2048 0 0 false = some st) :
    EndsLib (.deallocate id) s id st [] fun u => u.map = s.map := by
  refine ends_mapped h (deallocate_arm s id) ?_
  simp only [hc]

end Refused

/-! ### Leaves that are fetched (R92, R162) -/

section WhenMapped

variable {s : State} {id : Nat} {j : Job} {a : BlockArgs} (ha : blockArgs j = some a) (w : OnWake) (go : State → Nat → Job → State)

include ha

theorem whenMapped_fetching (hf : leavesFetching (fetchLeaves s a) a.volume a.lba a.count = true) :
    whenMapped s id j w go = waitLib (fetchLeaves s a) id j (.mapReads a.volume a.lba a.count) w := by
  simp only [whenMapped, ha, hf, if_true]

theorem whenMapped_mapped (hf : ¬ leavesFetching (fetchLeaves s a) a.volume a.lba a.count = true) :
    whenMapped s id j w go = go (fetchLeaves s a) id j := by
  simp only [whenMapped, ha, hf, if_false, Bool.false_eq_true]

end WhenMapped

/-- A program that waits for leaves leaves map, courses and journals alone. -/
theorem waits_fetching {c : Instr} {s : State} {slot id : Nat} {j : Job} {f : State → Job → State} (h : RunsLib s slot id j)
    (arm : exec c s = onLib slot id s f) {a : BlockArgs} {w : Wait} {k : OnWake} (hf : f s j = waitLib (fetchLeaves s a) id j w k) :
    WaitsLib c s id w k fun u => u.map = s.map ∧ u.courses = s.courses ∧ u.owners = s.owners := by
  obtain ⟨-, hm, hc, ho⟩ := waitLib_storage (fetchLeaves s a) id j w k
  have hs := stores_fetchLeaves s a
  simp only [stores, Prod.mk.injEq] at hs
  exact waits_in h arm hf ⟨hm.trans hs.1, hc.trans hs.2.1, ho.trans hs.2.2⟩

theorem waitsLib_imp {c : Instr} {s : State} {id : Nat} {w : Wait} {k : OnWake} {P Q : State → Prop} (h : WaitsLib c s id w k P)
    (hi : ∀ u, P u → Q u) : WaitsLib c s id w k Q := by
  obtain ⟨u, j, hx, hj, he, hw, hk, hp⟩ := h
  exact ⟨u, j, hx, hj, he, hw, hk, hi u hp⟩

/-! ### READ (R92) -/

theorem still_sendData (n : Nat) (s : State) (id : Nat) (j : Job) (c : Cmd) (off : Nat) (b : Block) :
    still (sendData n s id j c off b) = still s := by
  induction n generalizing s off b with
  | zero => rfl
  | succ n ih =>
    unfold sendData
    split
    · rfl
    · exact (ih ..).trans (Answering.still_send ..)

/-- READ without reads outstanding sends what there is, and ends with the blocks that were lost already. -/
theorem sendBlocks_eq {s : State} {id : Nat} {j : Job} (ht : j.tickets = []) (lost : Nat) :
    ∃ u, still u = still s ∧ sendBlocks s id j lost =
      endLib u id (if lost = 0 then St.ok else St.grainsLost) [BitVec.ofNat 64 lost] := by
  have hr : readsResult j = (0, false) := by
    rw [readsResult, ht]
    rfl
  unfold sendBlocks
  rw [hr]
  refine ⟨_, ?_, rfl⟩
  split
  · exact still_sendData ..
  · rfl

section Read

variable {s : State} {id : Nat} {j : Job} {a : BlockArgs} (h : RunsLib s 0x000 id j) (ha : blockArgs j = some a)
  (hc : blockCheck s j 2048 0 1 false = none)

include h ha hc

theorem read_fetching (hf : leavesFetching (fetchLeaves s a) a.volume a.lba a.count = true) :
    WaitsLib (.read id) s id (.mapReads a.volume a.lba a.count) .readMapped fun u => u.map = s.map ∧ u.courses = s.courses := by
  refine waitsLib_imp (waits_fetching h (read_arm s id) (a := a) ?_) fun _ hu => ⟨hu.1, hu.2.1⟩
  simp only [hc]
  exact whenMapped_fetching ha _ _ hf

variable {h2 : Handle} (hh : tabGet j.h 2 = some h2) (ht : j.tickets = [])
  (hf : ¬ leavesFetching (fetchLeaves s a) a.volume a.lba a.count = true) (hm : Mapped s a)

include hh ht hf hm

/-- READ of an extent that has no grain to be read ends with the number of its lost blocks. -/
theorem read_ends {lost : Nat} (hr : readExtent (fetchLeaves s a) j.slate id a h2 = (fetchLeaves s a, lost)) :
    EndsLib (.read id) s id (if lost = 0 then St.ok else St.grainsLost) [BitVec.ofNat 64 lost] fun u =>
      u.map = s.map ∧ u.courses = s.courses := by
  have hcount := count_of_blockCheck ha hc
  have hmore := moreCached_fetchLeaves hcount hm
  have hj : jobOf (fetchLeaves s a) id = some j := (jobOf_congr (congrArg State.jobs hmore.rest :) id).trans h.job
  have hun : leavesUnserved (fetchLeaves s a) a = false := leavesUnserved_mapped hcount fun i hi => hmore.leaf _ _ (hm i hi)
  obtain ⟨u, hu, he⟩ := sendBlocks_eq (s := fetchLeaves s a) (id := id) ht lost
  obtain ⟨-, hmap, hcrs⟩ := endLib_storage u id (if lost = 0 then St.ok else St.grainsLost) [BitVec.ofNat 64 lost]
  refine ends_in h (read_arm s id) (u := u) ?_ ((jobOf_congr (jobs_of_still hu) id).trans hj)
    ⟨hmap.trans ((congrArg State.map hu :).trans (congrArg State.map hmore.rest :)),
      hcrs.trans ((congrArg State.courses hu :).trans (congrArg State.courses hmore.rest :))⟩
  simp only [hc]
  rw [whenMapped_mapped ha _ _ hf]
  simp only [readMapped, ha, hh, hun, hr, hj, readsDone, ht, List.all_nil, Bool.false_eq_true, if_false, if_true]
  exact he

theorem read_deallocated (hd : ∀ i < a.count, deallocated (mapEntry s a.volume (a.lba + i)) = true) :
    EndsLib (.read id) s id St.ok [0] fun u => u.map = s.map ∧ u.courses = s.courses := by
  have hmore := moreCached_fetchLeaves (count_of_blockCheck ha hc) hm
  have hmap : (fetchLeaves s a).map = s.map := (congrArg State.map hmore.rest :)
  refine read_ends h ha hc hh ht hf hm (lost := 0) ?_
  unfold readExtent
  split
  · rfl
  next l _ =>
    rw [extentRuns_deallocated l (fun i hi => hmore.leaf _ _ (hm i hi)) fun i hi => by
      rw [mapEntry, hmap]
      exact hd i hi]
    rfl

theorem read_lost {l : Layout} (hl : s.layout = some l) (hd : ∀ i < a.count, entryLost (mapEntry s a.volume (a.lba + i)) = true) :
    EndsLib (.read id) s id St.grainsLost [BitVec.ofNat 64 a.count] fun u => u.map = s.map ∧ u.courses = s.courses := by
  have hcount := count_of_blockCheck ha hc
  have hmore := moreCached_fetchLeaves hcount hm
  have hmap : (fetchLeaves s a).map = s.map := (congrArg State.map hmore.rest :)
  have hlay : (fetchLeaves s a).layout = some l := (congrArg State.layout hmore.rest :).trans hl
  have he := read_ends h ha hc hh ht hf hm (lost := a.count) (by
    unfold readExtent
    simp only [hlay]
    rw [extentRuns_lost l fun i hi => by
      rw [mapEntry, hmap]
      exact hd i hi]
    rfl)
  rwa [if_neg (Nat.ne_of_gt hcount)] at he

end Read

/-! ### WRITE and ATOMIC_WRITE (R92, R176) -/

/-- What an append of an extent from the payload that handle `k` names asks for. -/
def appendOf (a : BlockArgs) (k : Handle) (atomic : Bool) : AppendArgs :=
  { volume := a.volume, lba := a.lba, count := a.count, buf := k.buf, off := k.off, atomic := atomic }

section Append

variable {c : Instr} {s : State} {slot id : Nat} {j : Job} {f : State → Job → State} {a : BlockArgs} {k : Handle} {atomic : Bool}
  (h : RunsLib s slot id j) (arm : exec c s = onLib slot id s f) (hk : tabGet j.h 1 = some k) (hf : f s j = libAppend s id j a 0 atomic)

include h arm hk hf

theorem append_waits_payload (hr : arrived s k.buf k.off (k.off + a.count * 4096) = false) :
    WaitsLib c s id (.appendPayload (appendOf a k atomic)) (.finish St.ok []) fun u => u.courses = s.courses := by
  refine waits_in h arm (u := s) (hf.trans ?_) (waitLib_storage ..).2.2.1
  simp only [libAppend, hk, Nat.add_zero, hr, Bool.false_eq_true, if_false]
  rfl

theorem append_waits_courses (hr : arrived s k.buf k.off (k.off + a.count * 4096) = true) :
    WaitsLib c s id .courses (.finish St.ok []) fun _ => True := by
  refine waits_in h arm (u := doAppend s id j.slate (appendOf a k atomic)) (hf.trans ?_) trivial
  simp only [libAppend, hk, Nat.add_zero, hr, if_true]
  rfl

end Append

/-! ### COMPARE_AND_WRITE (R92, R93) -/

/-- Job `id` has ended or waits. -/
def Rests (u : State) (id : Nat) : Prop := ∃ j, jobOf u id = some j ∧ (j.wait ≠ .none ∨ j.ended ≠ none)

theorem rests_endLib {s : State} {id : Nat} {j : Job} (hj : jobOf s id = some j) (st : Status) (words : List Word) :
    Rests (endLib s id st words) id := ⟨_, Ending.jobOf_endJob_eq hj _ _, .inr (Option.some_ne_none _)⟩

theorem rests_waitLib (s : State) (id : Nat) (j : Job) {w : Wait} (hw : w ≠ .none) (k : OnWake) : Rests (waitLib s id j w k) id := by
  obtain ⟨th, j', hs, -, hw', -⟩ := still_waitLib s id j w k
  exact ⟨j', (jobOf_congr (jobs_of_still hs) id).trans (jobOf_putJob_self ..), .inl (hw'.symm ▸ hw)⟩

theorem rests_libAppend {s : State} {id : Nat} {j : Job} {k : Handle} (hk : tabGet j.h 1 = some k) (a : BlockArgs) (skip : Nat)
    (atomic : Bool) : Rests (libAppend s id j a skip atomic) id := by
  simp only [libAppend, hk]
  exact iteInduction (motive := fun u => Rests u id) (fun _ => rests_waitLib _ id j (by simp) _) fun _ => rests_waitLib _ id j (by simp) _

section Compare

variable {s : State} {id : Nat} {j : Job} {a : BlockArgs} {k : Handle} (hj : jobOf s id = some j) (ha : blockArgs j = some a)
  (hk : tabGet j.h 1 = some k)

include hj ha hk

/-- The compare of an extent that has been read ends its job, or makes it wait for its courses. -/
theorem rests_compareBlocks (buf lost : Nat) : Rests (compareBlocks s id j buf lost) id := by
  have ended (st : Status) (words : List Word) := rests_endLib hj st words
  simp only [compareBlocks, ha, hk]
  refine iteInduction (motive := fun u => Rests u id) (fun _ => ended ..) fun _ => ?_
  refine iteInduction (motive := fun u => Rests u id) (fun _ => ended ..) fun _ => ?_
  split
  · exact ended ..
  refine iteInduction (motive := fun u => Rests u id) (fun _ => ended ..) fun _ => ?_
  refine iteInduction (motive := fun u => Rests u id) (fun _ => ended ..) fun _ => ?_
  exact rests_libAppend (j := { j with tickets := [] }) hk ..

/-- A job whose extent has its leaves reads it, and compares at once or waits for its reads. -/
theorem rests_compareMapped {i : Job} (hi : blockArgs i = some a) (b : Nat) : Rests (compareMapped s id i b) id := by
  simp only [compareMapped, hi]
  refine iteInduction (motive := fun u => Rests u id) (fun _ => rests_endLib hj ..) fun _ => ?_
  obtain ⟨tks, ht⟩ := readExtent_job (sl := i.slate) (a := a)
    (h := { buf := b, off := 0, len := a.count * 4096, rw := true, origin := .other }) hj
  simp only [ht]
  exact iteInduction (motive := fun u => Rests u id) (fun _ => rests_compareBlocks ht ha hk ..) fun _ => rests_waitLib _ id _ (by simp) _

end Compare

section CompareAndWrite

variable {s : State} {id : Nat} {j : Job} {a : BlockArgs} {k : Handle} (h : RunsLib s 0x003 id j) (ha : blockArgs j = some a)
  (hc : blockCheck s j 256 2 0 true = none) (hk : tabGet j.h 1 = some k)

include h ha hc hk

theorem compareAndWrite_waits_payload (hr : arrived s k.buf k.off (k.off + 2 * (a.count * 4096)) = false) :
    WaitsLib (.compareAndWrite id) s id (.payload k.buf k.off (k.off + 2 * (a.count * 4096))) .resume fun u => u.map = s.map := by
  refine waits_in h (compareAndWrite_arm s id) (u := s) ?_ (waitLib_storage ..).2.1
  simp only [hc, ha, hk, hr, Bool.not_false, if_true]

variable (hr : arrived s k.buf k.off (k.off + 2 * (a.count * 4096)) = true)

include hr

theorem compareAndWrite_behind (hb : comparing s id a = true) : exec (.compareAndWrite id) s = .next s := by
  refine (next_of_runs h (compareAndWrite_arm s id)).trans (congrArg _ ?_)
  simp only [hc, ha, hk, hr, hb, Bool.not_true, Bool.false_eq_true, if_false, if_true]

theorem compareAndWrite_rests (hb : comparing s id a = false) : Answers (.compareAndWrite id) s fun u => Rests u id := by
  refine ⟨_, next_of_runs h (compareAndWrite_arm s id), ?_⟩
  simp only [hc, ha, hk, hr, hb, Bool.not_true, Bool.false_eq_true, if_false]
  generalize newBuffer s { slate := j.slate, len := a.count * 4096, data := [], inbound := false, arrived := [] } = nb
  let j' : Job := { j with buffers := j.buffers ++ [nb.2] }
  have ha' : blockArgs j' = some a := ha
  by_cases hf : leavesFetching (fetchLeaves (putJob nb.1 id j') a) a.volume a.lba a.count = true
  · rw [whenMapped_fetching ha' _ _ hf]
    exact rests_waitLib _ id _ (by simp) _
  · rw [whenMapped_mapped ha' _ _ hf]
    obtain ⟨r, hj⟩ := (onlyResults_fetchLeaves (putJob nb.1 id j') a).2 id j' (jobOf_putJob_self ..)
    exact rests_compareMapped hj ha' hk ha' nb.2

end CompareAndWrite

/-! ### DEALLOCATE (R92, R148) -/

/-- The records that deallocate blocks of a volume: what `deallocMapped` makes of a list of blocks. -/
def deallocRecords (o v lba : Nat) (p : State × Nat) (l : List Nat) : State × Nat :=
  l.foldl (fun p i => addMset p.1 o v (lba + i) 0 .dealloc) p

theorem lasting_deallocRecords (o v lba : Nat) (p : State × Nat) (l : List Nat) : lasting (deallocRecords o v lba p l).1 = lasting p.1 :=
  List.foldlRecOn (motive := fun q : State × Nat => lasting q.1 = lasting p.1) l _ rfl fun _ hq _ _ => (lasting_addReq ..).trans hq

/-- Every block has its record. -/
theorem mem_bodies_deallocRecords {o v lba i : Nat} {l : List Nat} (p : State × Nat)
    (h : (∃ n, .mset (lba + i) v 0 n .dealloc ∈ bodies p.1 o) ∨ i ∈ l) :
    ∃ n, .mset (lba + i) v 0 n .dealloc ∈ bodies (deallocRecords o v lba p l).1 o := by
  induction l generalizing p with
  | nil => exact h.resolve_right List.not_mem_nil
  | cons k l ih =>
    refine ih _ ?_
    rcases h with ⟨n, h⟩ | h
    · exact .inl ⟨n, mem_bodies_addReq h⟩
    · rcases List.mem_cons.1 h with rfl | h
      · obtain ⟨b, hb, hx⟩ := bodies_addReq p.1 o { body := .mset (lba + i) v 0 0 .dealloc, grp := false, draws := true }
        have hmem : b ∈ bodies (addMset p.1 o v (lba + i) 0 .dealloc).1 o := by
          simp only [addMset, hb, List.mem_append, List.mem_singleton, or_true]
        rcases hx with rfl | ⟨-, u, rfl⟩
        · exact .inl ⟨0, hmem⟩
        · exact .inl ⟨u, hmem⟩
      · exact .inr h

section Deallocate

variable {s : State} {id : Nat} {j : Job} {a : BlockArgs} (h : RunsLib s 0x004 id j) (ha : blockArgs j = some a)
  (hc : blockCheck s j 2048 0 0 false = none)

include h ha hc

theorem deallocate_fetching (hf : leavesFetching (fetchLeaves s a) a.volume a.lba a.count = true) :
    WaitsLib (.deallocate id) s id (.mapReads a.volume a.lba a.count) .deallocMapped fun u => u.map = s.map ∧ u.owners = s.owners := by
  refine waitsLib_imp (waits_fetching h (deallocate_arm s id) (a := a) ?_) fun _ hu => ⟨hu.1, hu.2.2⟩
  simp only [hc]
  exact whenMapped_fetching ha _ _ hf

theorem deallocate_records (hf : ¬ leavesFetching (fetchLeaves s a) a.volume a.lba a.count = true) (hm : Mapped s a)
    (hk : (askCommit (fetchLeaves s a) id).2 = true) :
    ∃ q, WaitsLib (.deallocate id) s id (.record j.slate q) (.finish St.ok []) fun u => u.map = s.map ∧ ∀ i < a.count,
      ∃ n, .mset (a.lba + i) a.volume 0 n .dealloc ∈ bodies u j.slate := by
  have hcount := count_of_blockCheck ha hc
  have hmore := moreCached_fetchLeaves hcount hm
  have hun : leavesUnserved (fetchLeaves s a) a = false := leavesUnserved_mapped hcount fun i hi => hmore.leaf _ _ (hm i hi)
  let p := deallocRecords j.slate a.volume a.lba ((askCommit (fetchLeaves s a) id).1, 0) (List.range a.count)
  have hmap : p.1.map = s.map := (congrArg State.map (lasting_deallocRecords ..) :).trans
    ((congrArg State.map (lasting_askCommit (fetchLeaves s a) id) :).trans (congrArg State.map hmore.rest :))
  obtain ⟨-, hmap', -, hown⟩ := waitLib_storage p.1 id j (.record j.slate p.2) (.finish St.ok [])
  refine ⟨p.2, waits_in h (deallocate_arm s id) (u := p.1) ?_ ⟨hmap'.trans hmap, fun i hi => ?_⟩⟩
  · simp only [hc]
    rw [whenMapped_mapped ha _ _ hf]
    simp only [deallocMapped, ha, hun, Bool.false_eq_true, if_false]
    rw [show askCommit (fetchLeaves s a) id = ((askCommit (fetchLeaves s a) id).1, true) from Prod.ext rfl hk]
    rfl
  · rw [bodies_congr hown]
    exact mem_bodies_deallocRecords _ (.inr (List.mem_range.2 hi))

end Deallocate

/-! ### FLUSH (R92, R94) -/

section Flush

variable {s : State} {id : Nat} {j : Job} (h : RunsLib s 0x005 id j)

/-- A FLUSH has no argument and no payload. -/
abbrev Bare (j : Job) : Prop := rd j 1 = 0 ∧ rd j 2 = 0 ∧ rd j 9 = 0 ∧ outLen j = 0

include h

theorem flush_illegal (hb : ¬ Bare j) : EndsLib (.flush id) s id St.illegalField [] fun _ => True :=
  ends_here h (flush_arm s id) (if_pos (by tauto)) trivial

variable (hb : Bare j)

include hb

theorem flush_unserved (hs : s.admin.state = 1 ∧ s.admin.op ≠ 2) : EndsLib (.flush id) s id St.notServing [] fun _ => True :=
  ends_here h (flush_arm s id) ((if_neg (by tauto)).trans (if_pos hs)) trivial

theorem flush_ends (hs : ¬ (s.admin.state = 1 ∧ s.admin.op ≠ 2)) : EndsLib (.flush id) s id St.ok [] fun _ => True :=
  ends_here h (flush_arm s id) ((if_neg (by tauto)).trans (if_neg hs)) trivial

end Flush

/-- Settles O56: the form of a library program, the checks, and each program's part once they pass. -/
theorem blockPrograms : Obligations.BlockPrograms := by
  unfold Obligations.BlockPrograms
  refine ⟨fun s id img rng p hu hp hn => ?idle, fun s id j st => ⟨read_refused, write_refused, atomicWrite_refused, compareAndWrite_refused,
    deallocate_refused⟩, ?passed, ?flush⟩
  case idle =>
    obtain ⟨f, arm⟩ := library_arm s id hp
    exact idle_of_not_runs arm hu hn
  case passed =>
    intro s id j a ha t fetching mapped
    refine ⟨fun h hc => read_fetching h ha hc, fun h hc => deallocate_fetching h ha hc,
      fun h2 h hc hh ht hm => ⟨read_deallocated h ha hc hh ht hm.1 hm.2, fun l hl => read_lost h ha hc hh ht hm.1 hm.2 hl⟩, ?appends,
      fun h hc hm => deallocate_records h ha hc hm.1 hm.2⟩
    intro k hk n x
    refine ⟨fun h hc => ?_, fun h hc => ?_, fun h hc => ?_⟩
    · exact ⟨append_waits_payload h (write_arm s id) hk (a := a) (atomic := false) (by simp only [hc, ha]),
        append_waits_courses h (write_arm s id) hk (a := a) (atomic := false) (by simp only [hc, ha])⟩
    · exact ⟨append_waits_payload h (atomicWrite_arm s id) hk (a := a) (atomic := true) (by simp only [hc, ha]),
        append_waits_courses h (atomicWrite_arm s id) hk (a := a) (atomic := true) (by simp only [hc, ha])⟩
    · exact ⟨compareAndWrite_waits_payload h ha hc hk, compareAndWrite_behind h ha hc hk, compareAndWrite_rests h ha hc hk⟩
  case flush =>
    intro s id j h bare stopped
    exact ⟨flush_illegal h, flush_unserved h, flush_ends h⟩

end Sys2Proof.BlockIo
end

section
/-! A datagram that leaves: under `CanSend` the frame that carries it stands in the buffer under the next number, whatever the
switch core then makes of it (R107, R113, R226, R231, R235, R242). -/

namespace Sys2Proof.Sending

open Sys2Proof Sys2Proof.Machine Sys2Proof.Reporting Sys2Proof.SwitchCompletion

/-! ### Frames that enter the buffer (R226, R231, R242) -/

section Frames

variable {s : State} {f : Frame}

/-- A frame that none of its outputs discards keeps its record when it is queued, or waits with it (R235, R242). -/
theorem queueFrame_holds {id : Nat} (hf : tabGet s.frames id = some f) (hn : f.outs ≠ [])
    (ho : ∀ o ∈ f.outs, netBlocked s f.slate o f.cls = none) : tabGet (queueFrame s id).frames id = some f := by
  have bad : f.outs.filter (fun o => (netBlocked s f.slate o f.cls).isSome) = [] :=
    List.filter_eq_nil_iff.2 fun o h => by simp [ho o h]
  have good : f.outs.filter (fun o => (netBlocked s f.slate o f.cls).isNone) = f.outs :=
    List.filter_eq_self.2 fun o h => by simp [ho o h]
  unfold queueFrame
  simp only [hf]
  split
  · exact hf
  · rw [bad, good, List.foldl_nil, if_neg (by simpa using hn), frames_joinAll]
    exact tabGet_tabPut_self ..

theorem frames_updatePeak (s : State) (sl : Nat) : (updatePeak s sl).frames = s.frames := by
  simp only [updatePeak, updatePause, setF_frames]

theorem netBlocked_addFrame (s : State) (f : Frame) (sl : Nat) (o : Nat × Nat) (c : Nat) :
    netBlocked (addFrame s f).1 sl o c = netBlocked s sl o c := rfl

theorem bufferFrame_holds (hn : f.outs ≠ []) (ho : ∀ o ∈ f.outs, netBlocked s f.slate o f.cls = none) :
    tabGet (bufferFrame s f).frames s.nextFrame = some f := by
  have hf : tabGet (addFrame s f).1.frames s.nextFrame = some f := tabGet_tabPut_self ..
  have := queueFrame_holds hf hn fun o h => (netBlocked_addFrame s f f.slate o f.cls).trans (ho o h)
  rwa [bufferFrame, frames_updatePeak]

/-- A unicast frame whose path is found enters the buffer with it (R226). -/
theorem enterFrame_unicast {g : Frame} (hm : f.mask = 0) (hl : tabHas s.lost f.dst = false) (hk : lookup s f = some g) :
    enterFrame s f = bufferFrame s g := by
  simp only [enterFrame, hm, hl, hk, ne_eq, not_true_eq_false, if_false, Bool.false_eq_true]

/-- The frame as its lookup leaves it: on a path, from the slate it is at (R226, R238). -/
def routed (s : State) (f : Frame) (p : List (Nat × Nat)) (lane : Nat) (waits : Bool) : Frame :=
  let g := { f with path := p, lane := lane, home := f.slate, tver := getF s f.slate F.SWITCH.TVER }
  { g with outs := [nextOut g], waiting := waits }

theorem lookup_of_path {p : List (Nat × Nat)} {lane : Nat}
    (h : pathOf s f.slate f.dst (flowHash f.key (getF s f.slate F.SWITCH.FLOW_SEED)) = some (p, lane)) :
    ∃ w, lookup s f = some (routed s f p lane w) := by
  simp only [lookup, h]
  exact ⟨_, rfl⟩

theorem lost_of_serving {sl : Nat} (h : serving s sl = true) : tabHas s.lost sl = false := by
  simp only [serving, Bool.and_eq_true, Bool.not_eq_true'] at h
  exact h.2

/-- A slate is its own path's end (R226). -/
theorem pathOf_self (s : State) (a h : Nat) : pathOf s a a h = some ([], 0) := by
  simp only [pathOf, pathFor, regularHops, if_true, linksFor]

end Frames

/-! ### Datagrams (R107, R113) -/

/-- What an answer's frame carries of the datagram it was sent as: the encapsulation and the seal are the sender's (R104, R113). -/
structure Carries (d x : OutDatagram) : Prop where
  type : x.type = d.type
  status : x.status = d.status
  hqTag : x.hqTag = d.hqTag
  nonce : x.nonce = d.nonce
  slot : x.slot = d.slot
  cls : x.cls = d.cls
  dest : x.dest = d.dest
  dstUa : x.dstUa = d.dstUa
  offset : x.offset = d.offset
  payload : x.payload = d.payload

theorem canSend_congr {s t : State} {sl c : Nat} (h : CanSend s sl c) (hs : serving t sl = serving s sl)
    (hl : getF t sl F.PORT.LINK_UP = getF s sl F.PORT.LINK_UP) (hp : t.peerPause = s.peerPause) (hk : t.keySeq = s.keySeq) :
    CanSend t sl c :=
  ⟨hs ▸ h.serves, hl ▸ h.link, hp ▸ h.pause, hk ▸ h.keys⟩

/-- A count outside the port's space leaves what sending asks. -/
theorem canSend_bump {s : State} {sl c : Nat} (h : CanSend s sl c) (sl' : Nat) {f : Fld} (hf : f.sp < 32 ∧ f.e < 4096 ∧ f.sp ≠ 3) (k : Nat) :
    CanSend (bump s sl' f k) sl c :=
  canSend_congr h (serving_bump ..) (getF_setF_ne ⟨hf.1, hf.2.1⟩ _ (by decide) fun _ h _ => hf.2.2 h.symm) rfl rfl

theorem linkUp_sendSub {s : State} {sl c : Nat} (h : CanSend s sl c) : bitOf (getF s sl F.PORT.LINK_UP) (sendSub s sl) = true := by
  obtain ⟨k, hk, hb⟩ := h.link
  unfold sendSub
  cases hf : (List.range 8).find? (bitOf (getF s sl F.PORT.LINK_UP)) with
  | none => exact absurd hb (by simpa using List.find?_eq_none.1 hf k (List.mem_range.2 hk))
  | some j => exact List.find?_some hf

theorem netBlocked_sendSub {s : State} {sl c : Nat} (h : CanSend s sl c) : netBlocked s sl (0, sendSub s sl) c = none := by
  simp only [netBlocked, ne_eq, not_true_eq_false, if_false, linkUp_sendSub h, Bool.not_true, Bool.false_eq_true]
  split
  · next p hp => simp [h.pause p hp]
  · rfl

/-- The transport's frame stands under the next number, admitted or still with its block (R231). -/
theorem admitInternal_holds {s : State} {d : OutDatagram} (hs : serving s d.slate = true)
    (hb : netBlocked s d.slate (0, sendSub s d.slate) d.cls = none) (job : Option Nat) :
    ∃ f, tabGet (admitInternal s (dgramFrame s d job)).frames s.nextFrame = some f ∧ f.dgram = some d := by
  unfold admitInternal
  split
  · exact ⟨_, tabGet_tabPut_self .., rfl⟩
  · obtain ⟨w, hw⟩ := lookup_of_path (f := dgramFrame s d job) (pathOf_self s d.slate _)
    rw [enterFrame_unicast rfl (lost_of_serving hs) hw]
    refine ⟨_, bufferFrame_holds (by simp [routed]) fun o ho => ?_, rfl⟩
    rw [List.mem_singleton.1 ho]
    exact hb

/-- A datagram whose key is not near its end enters the switch core, and the sending does not spend the key (R114). -/
theorem sendRaw_admits {s : State} {d : OutDatagram} (hk : tabGetD s.keySeq (keyKey d.slate (keyIndex d.keyId)) 0 + 1 < 2 ^ 48)
    (job : Option Nat) : ∃ x ks, Carries d x ∧ x.slate = d.slate ∧
      sendRaw s d job = (admitInternal { s with keySeq := ks } (dgramFrame { s with keySeq := ks } x job), false) := by
  have carries (fl : BitVec 8) (ck : Word) (sd : Block) :
      Carries d { encapsulate s d with flags := fl, check := ck, sealed := sd } := ⟨rfl, rfl, rfl, rfl, rfl, rfl, rfl, rfl, rfl, rfl⟩
  have hkey : keyOf s (encapsulate s d).slate (keyIndex (encapsulate s d).keyId) = keyOf s d.slate (keyIndex d.keyId) := rfl
  unfold sendRaw
  dsimp only
  rw [hkey]
  split
  · exact ⟨_, s.keySeq, carries d.flags d.check d.sealed, rfl, rfl⟩
  split
  · have hlt : ¬ 2 ^ 48 ≤ tabGetD s.keySeq (keyKey d.slate (keyIndex d.keyId)) 0 := by omega
    have hne : (tabGetD s.keySeq (keyKey d.slate (keyIndex d.keyId)) 0 + 1 == 2 ^ 48) = false := beq_false_of_ne hk.ne
    exact ⟨_, _, carries _ _ _, rfl, (if_neg hlt).trans (congrArg _ hne)⟩
  · exact ⟨_, s.keySeq, carries d.flags d.check d.sealed, rfl, rfl⟩

/-- A datagram that can be sent stands in a frame under the next number (R107). -/
theorem send_sends {s : State} {d : OutDatagram} (h : CanSend s d.slate d.cls) (job : Option Nat) : Sends s (send s d job) (Carries d) := by
  obtain ⟨x, ks, hx, hsl, hr⟩ := sendRaw_admits (h.keys (keyIndex d.keyId)) job
  have hb : netBlocked { s with keySeq := ks } x.slate (0, sendSub { s with keySeq := ks } x.slate) x.cls = none := by
    rw [hsl, hx.cls]
    exact (netBlocked_sendSub h :)
  obtain ⟨f, hf, hd⟩ := admitInternal_holds (s := { s with keySeq := ks }) (hsl ▸ h.serves) hb job
  refine ⟨f, x, ?_, hd, hx⟩
  simpa only [send, hr, Bool.false_eq_true, if_false] using hf

/-- What the first new frame carries, seen from a state with the same next number. -/
theorem sends_of {s t u : State} {P Q : OutDatagram → Prop} (hn : t.nextFrame = s.nextFrame) (h : Sends t u P) (hq : ∀ x, P x → Q x) :
    Sends s u Q := by
  obtain ⟨f, x, hf, hd, hx⟩ := h
  exact ⟨f, x, hn ▸ hf, hd, hq x hx⟩

end Sys2Proof.Sending
end

section
/-! The checks of an arriving datagram (R108) in their order: what each leaves, and what a proved datagram meets next. -/

namespace Sys2Proof.IngressOrder

open Sys2Proof Sys2Proof.Machine Sys2Proof.Reporting Sys2Proof.Sending

/-! ### The datagram decrypted (R113) -/

section Opened

variable (k : KeyEntry) (d : Datagram)

/-- Decryption changes the payload and nothing else. -/
theorem opened_eq : opened k d = { d with payload := (opened k d).payload } := by
  unfold opened
  split <;> rfl

@[simp] theorem opened_port : (opened k d).port = d.port := by rw [opened_eq]
@[simp] theorem opened_cls : (opened k d).cls = d.cls := by rw [opened_eq]
@[simp] theorem opened_keyId : (opened k d).keyId = d.keyId := by rw [opened_eq]
@[simp] theorem opened_hqTag : (opened k d).hqTag = d.hqTag := by rw [opened_eq]
@[simp] theorem opened_nonce : (opened k d).nonce = d.nonce := by rw [opened_eq]
@[simp] theorem opened_slot : (opened k d).slot = d.slot := by rw [opened_eq]
@[simp] theorem opened_offset : (opened k d).offset = d.offset := by rw [opened_eq]
@[simp] theorem opened_host : (opened k d).host = d.host := by rw [opened_eq]
@[simp] theorem opened_srcUa : (opened k d).srcUa = d.srcUa := by rw [opened_eq]
@[simp] theorem opened_source : (opened k d).source = d.source := by rw [opened_eq]
@[simp] theorem opened_ipv4 : (opened k d).ipv4 = d.ipv4 := by rw [opened_eq]
@[simp] theorem dgNumber_opened : dgNumber (opened k d) = dgNumber d := by simp only [dgNumber, opened_hqTag]

theorem length_xorBytes (a b : Block) : (xorBytes a b).length = a.length := by
  induction a generalizing b with
  | nil => rfl
  | cons x a ih =>
    cases b with
    | nil => rfl
    | cons y b => simp only [xorBytes, List.length_cons, ih]

/-- A plaintext is as long as its ciphertext. -/
@[simp] theorem length_opened : (opened k d).payload.length = d.payload.length := by
  unfold opened
  split
  · exact length_xorBytes ..
  · rfl

end Opened

/-! ### R108, step by step -/

/-- The datagram is for the port's address and UDP port (R104, R130). -/
abbrev Ours (s : State) (d : Datagram) : Prop := d.udpPort = getF s d.port F.XPORT.UDP_PORT ∧ answersTo s d.port d.ipv4 d.dest = true

/-- Whether a class carries datagrams of a type (R124). -/
def travels (c : Check) (cls : Nat) : Bool := if c.window then rmaClass cls else cmdClass cls

section Steps

variable {s : State} {d : Datagram} {c : Check} {pass : State → Datagram → KeyEntry → State}

theorem ingress_elsewhere (h : ¬ Ours s d) : ingress s d c pass = s := by
  unfold ingress
  exact if_pos (by simpa only [not_and_or, Bool.not_eq_true] using h)

variable (ours : Ours s d)

include ours

theorem ingress_ours : ingress s d c pass =
    if !c.form then bump s d.port F.XPORT.MALFORMED
    else if !s.chain.uaValid || d.dstUa != s.chain.ua then s
    else if !travels c d.cls then bump s d.port F.XPORT.CLASS_DROP
    else match keyOf s d.port (keyIndex d.keyId) with
      | none => s
      | some k =>
        if d.flags.getLsbD 0 != keySeals k then bump s d.port F.XPORT.MODE_FAIL
        else if k.mode = 0 ∧ d.check ≠ k.check then
          detect (bump s d.port F.XPORT.CHECK_FAIL) d.port Ev.CHECK_FAIL (keyDetail d)
        else if keySeals k && !authentic k d then
          detect (bump s d.port F.XPORT.SEAL_FAIL) d.port Ev.SEAL_FAIL (keyDetail d)
        else ingressGranted s (opened k d) c k fun s => pass s (opened k d) k := by
  unfold ingress
  rw [if_neg (by simp [ours.1, ours.2])]
  rfl

theorem ingress_malformed (form : c.form = false) : ingress s d c pass = bump s d.port F.XPORT.MALFORMED := by
  rw [ingress_ours ours, form]
  rfl

variable (form : c.form = true)

include form

theorem ingress_otherUnit (h : s.chain.uaValid = false ∨ d.dstUa ≠ s.chain.ua) : ingress s d c pass = s := by
  rw [ingress_ours ours, if_neg (by simp [form]), if_pos (by simpa using h)]

variable (here : s.chain.uaValid = true ∧ d.dstUa = s.chain.ua)

include here

theorem ingress_wrongClass (h : travels c d.cls = false) : ingress s d c pass = bump s d.port F.XPORT.CLASS_DROP := by
  rw [ingress_ours ours, if_neg (by simp [form]), if_neg (by simp [here]), if_pos (by simp [h])]

variable (cls : travels c d.cls = true)

include cls

theorem ingress_unknownKey (h : keyOf s d.port (keyIndex d.keyId) = none) : ingress s d c pass = s := by
  rw [ingress_ours ours, if_neg (by simp [form]), if_neg (by simp [here]), if_neg (by simp [cls]), h]

variable {k : KeyEntry} (key : keyOf s d.port (keyIndex d.keyId) = some k)

include key

theorem ingress_keyed : ingress s d c pass =
    if d.flags.getLsbD 0 != keySeals k then bump s d.port F.XPORT.MODE_FAIL
    else if k.mode = 0 ∧ d.check ≠ k.check then detect (bump s d.port F.XPORT.CHECK_FAIL) d.port Ev.CHECK_FAIL (keyDetail d)
    else if keySeals k && !authentic k d then detect (bump s d.port F.XPORT.SEAL_FAIL) d.port Ev.SEAL_FAIL (keyDetail d)
    else ingressGranted s (opened k d) c k fun s => pass s (opened k d) k := by
  rw [ingress_ours ours, if_neg (by simp [form]), if_neg (by simp [here]), if_neg (by simp [cls]), key]

theorem ingress_modeFail (h : d.flags.getLsbD 0 ≠ keySeals k) : ingress s d c pass = bump s d.port F.XPORT.MODE_FAIL := by
  rw [ingress_keyed ours form here cls key, if_pos (bne_iff_ne.2 h)]

variable (mode : d.flags.getLsbD 0 = keySeals k)

include mode

theorem ingress_checkFail (h : k.mode = 0 ∧ d.check ≠ k.check) :
    ingress s d c pass = detect (bump s d.port F.XPORT.CHECK_FAIL) d.port Ev.CHECK_FAIL (keyDetail d) := by
  rw [ingress_keyed ours form here cls key, if_neg (by rw [mode]; simp), if_pos h]

theorem ingress_sealFail (hs : keySeals k = true) (h : authentic k d = false) :
    ingress s d c pass = detect (bump s d.port F.XPORT.SEAL_FAIL) d.port Ev.SEAL_FAIL (keyDetail d) := by
  rw [ingress_keyed ours form here cls key, if_neg (by rw [mode]; simp), if_neg (by rintro ⟨h0, -⟩; simp [keySeals, h0] at hs),
    if_pos (by simp [hs, h])]

end Steps

/-- A proved datagram goes on to what its key grants (R108 step 8). -/
theorem ingress_proved {s : State} {d : Datagram} {c : Check} {pass : State → Datagram → KeyEntry → State} {k : KeyEntry}
    (h : Proved s d k) (form : c.form = true) (cls : travels c d.cls = true) :
    ingress s d c pass = ingressGranted s (opened k d) c k fun s => pass s (opened k d) k := by
  rw [ingress_keyed h.port form h.here cls h.key, if_neg (by rw [h.mode]; simp), if_neg (fun hc => hc.2 (h.check hc.1)),
    if_neg (by simpa using fun hs => h.sealed hs)]

/-! ### What the key grants (R108 steps 8 to 12) -/

/-- The key is of the kind of the datagram, and bound to its number and, where it is registered, its host (R108 step 9). -/
abbrev Bound (c : Check) (d : Datagram) (k : KeyEntry) : Prop :=
  k.window = c.window ∧ k.bind = dgNumber d ∧ ∀ h, c.host = some h → h = d.host

section Granted

variable {s : State} {d : Datagram} {c : Check} {k : KeyEntry} {pass : State → State}

theorem granted_stale (h : d.keyId.toNat / 256 % 256 ≠ k.gen.toNat) : ingressGranted s d c k pass = sendBusy s d.port d St.keyStale 0 := by
  unfold ingressGranted
  exact if_pos h

variable (gen : d.keyId.toNat / 256 % 256 = k.gen.toNat)

include gen

theorem granted_current : ingressGranted s d c k pass =
    if k.window != c.window || k.bind != dgNumber d || (match c.host with | some h => h != d.host | none => false) then
      sendBusy s d.port d St.rights 0
    else if !c.bound d k then sendBusy s d.port d St.bounds 0
    else if !c.right d k then sendBusy s d.port d St.rights 0
    else if d.cls ≠ 7 && !c.always && !servesIo s then (if c.busy then sendBusy s d.port d St.notServing 0 else s)
    else pass s := by
  unfold ingressGranted
  exact if_neg (not_not.2 gen)

omit gen in
theorem bound_iff : Bound c d k ↔
    ¬ (k.window != c.window || k.bind != dgNumber d || (match c.host with | some h => h != d.host | none => false)) = true := by
  cases hc : c.host <;> simp [Bound, hc, not_or, and_assoc]

theorem granted_unbound (h : ¬ Bound c d k) : ingressGranted s d c k pass = sendBusy s d.port d St.rights 0 := by
  rw [granted_current gen, if_pos (not_not.1 (mt bound_iff.2 h))]

variable (bound : Bound c d k)

include bound

theorem granted_beyond (h : c.bound d k = false) : ingressGranted s d c k pass = sendBusy s d.port d St.bounds 0 := by
  rw [granted_current gen, if_neg (bound_iff.1 bound), if_pos (by simp [h])]

variable (within : c.bound d k = true)

include within

theorem granted_unentitled (h : c.right d k = false) : ingressGranted s d c k pass = sendBusy s d.port d St.rights 0 := by
  rw [granted_current gen, if_neg (bound_iff.1 bound), if_neg (by simp [within]), if_pos (by simp [h])]

variable (right : c.right d k = true)

include right

theorem granted_unserved (hc : d.cls ≠ 7) (ha : c.always = false) (hb : c.busy = true) (h : servesIo s = false) :
    ingressGranted s d c k pass = sendBusy s d.port d St.notServing 0 := by
  rw [granted_current gen, if_neg (bound_iff.1 bound), if_neg (by simp [within]), if_neg (by simp [right]),
    if_pos (by simp [hc, ha, h]), if_pos hb]

theorem granted_passes (h : d.cls = 7 ∨ servesIo s = true) : ingressGranted s d c k pass = pass s := by
  rw [granted_current gen, if_neg (bound_iff.1 bound), if_neg (by simp [within]), if_neg (by simp [right]),
    if_neg (by rcases h with h | h <;> simp [h])]

end Granted

/-! ### The four rows of a queue's datagrams -/

/-- What the type of each row asks of the checks. -/
def rowCheck (s : State) (d : Datagram) (form : Bool) (busy : Bool) (bound : Datagram → KeyEntry → Bool) : Check :=
  { form := form, window := false, host := queueHost s d, bound := bound, right := fun _ _ => true, always := false, busy := busy }

/-- The form of a COMMAND (R107, R138). -/
def commandForm (s : State) (d : Datagram) : Bool :=
  headerOk s d tyCommand false true && d.offset == 0 && decide (128 ≤ d.payload.length) && decide (d.payload.length ≤ 1152)

/-- The slot of a COMMAND lies in its key's range (R112). -/
def slotRanged (d : Datagram) (_ : Datagram) (k : KeyEntry) : Bool :=
  decide (k.lo.toNat ≤ d.slot.toNat) && decide (d.slot.toNat ≤ k.hi.toNat)

/-- A COMMAND that its key grants: class 7 takes KEEP programs only, and none before the manifests are restored (R108). -/
def passCommand (s : State) (d : Datagram) (k : KeyEntry) : State :=
  let job := match slotProg s d.slot.toNat with | some (_, p) => !p.keep | none => false
  if d.cls = 7 && decide (s.recovery < 2) then s
  else if d.cls = 7 && job then sendBusy s d.port d St.rights 0
  else handOver s .command d k

section Rows

variable {s : State} {d : Datagram} (h : serving s d.port = true)

include h

theorem exec_command : exec (.command d) s = .next (ingress s d (rowCheck s d (commandForm s d) true (slotRanged d)) passCommand) :=
  (rfl : _ = execCommand d s).trans (onSlate_serving _ h)

theorem exec_dataIn : exec (.dataIn d) s = .next (ingress s d
    (rowCheck s d (headerOk s d tyData false true && d.slot == 0) false fun _ _ => true) fun s d k => handOver s .data d k) :=
  (rfl : _ = execDataIn d s).trans (onSlate_serving _ h)

theorem exec_abort : exec (.abort d) s = .next (ingress s d
    (rowCheck s d (headerOk s d tyAbort false true && d.slot == 0 && d.offset == 0 && d.payload.isEmpty) false fun _ _ => true)
    fun s d k => handOver s .abort d k) :=
  (rfl : _ = execAbort d s).trans (onSlate_serving _ h)

theorem exec_queueResetAbort : exec (.queueResetAbort d) s = .next (ingress s d
    (rowCheck s d (headerOk s d tyAbort true true && d.flags.getLsbD 2 && d.hqTag.toNat % 32 == 0 && d.slot == 0 && d.offset == 0 &&
      d.payload.isEmpty) false fun _ _ => true)
    fun s d k => handOver s .queueReset d k) :=
  (rfl : _ = execQueueResetAbort d s).trans (onSlate_serving _ h)

/-- Each row of a queue's datagrams meets the checks of R108 with the form that the spec gives its type. -/
theorem exec_row {c : Instr} {form : Prop} (hc : (c, form) ∈ [
      (Instr.command d, headerOk s d tyCommand false true = true ∧ d.offset = 0 ∧ 128 ≤ d.payload.length ∧ d.payload.length ≤ 1152),
      (Instr.dataIn d, headerOk s d tyData false true = true ∧ d.slot = 0),
      (Instr.abort d, headerOk s d tyAbort false true = true ∧ d.slot = 0 ∧ d.offset = 0 ∧ d.payload = []),
      (Instr.queueResetAbort d, headerOk s d tyAbort true true = true ∧ d.flags.getLsbD 2 = true ∧ d.hqTag.toNat % 32 = 0 ∧
        d.slot = 0 ∧ d.offset = 0 ∧ d.payload = [])]) :
    ∃ chk pass, exec c s = .next (ingress s d chk pass) ∧ chk.window = false ∧ (chk.form = true ↔ form) := by
  simp only [List.mem_cons, Prod.mk.injEq, List.not_mem_nil, or_false] at hc
  obtain ⟨rfl, rfl⟩ | ⟨rfl, rfl⟩ | ⟨rfl, rfl⟩ | ⟨rfl, rfl⟩ := hc
  · exact ⟨_, _, exec_command h, rfl, by simp [rowCheck, commandForm, and_assoc]⟩
  · exact ⟨_, _, exec_dataIn h, rfl, by simp [rowCheck]⟩
  · exact ⟨_, _, exec_abort h, rfl, by simp [rowCheck, and_assoc]⟩
  · exact ⟨_, _, exec_queueResetAbort h, rfl, by simp [rowCheck, and_assoc]⟩

end Rows

theorem cmdClass_iff (c : Nat) : cmdClass c = true ↔ c = 7 ∨ c = 3 := by simp [cmdClass]

theorem travels_rowCheck {s : State} {d : Datagram} {form busy : Bool} {bound : Datagram → KeyEntry → Bool} {cls : Nat}
    (h : cls = 7 ∨ cls = 3) : travels (rowCheck s d form busy bound) cls = true := (cmdClass_iff cls).2 h

end Sys2Proof.IngressOrder
end

section
/-! An arriving datagram meets the checks of R108 in their order, and a COMMAND that its key does not grant is answered BUSY (R108, R109,
R110, R133). -/

namespace Sys2Proof.IngressAnswers

open Sys2Proof Sys2Proof.Machine Sys2Proof.Reporting Sys2Proof.Stillness Sys2Proof.Sending Sys2Proof.IngressOrder

/-- A BUSY that can be sent tells the sender what it answers (R110). -/
theorem sendBusy_sends {s : State} {sl : Nat} {d : Datagram} (h : CanSend s sl d.cls) (st : Status) (retry : Nat) :
    Sends s (sendBusy s sl d st retry) fun x => x.type = tyBusy ∧ x.status = st ∧ x.hqTag = d.hqTag ∧ x.nonce = d.nonce ∧
      x.slot = d.slot ∧ x.cls = d.cls ∧ x.dest = d.source ∧ x.dstUa = d.srcUa :=
  sends_of rfl (send_sends h none) fun _ hx =>
    ⟨hx.type, hx.status, hx.hqTag, hx.nonce, hx.slot, hx.cls, hx.dest, hx.dstUa⟩

theorem sendBusy_reports (s : State) (sl : Nat) (d : Datagram) (st : Status) (retry : Nat) : Reports s (sendBusy s sl d st retry) :=
  send_reports ..

/-- What a BUSY to the COMMAND `d` shows (R110). -/
def Busy (s : State) (d : Datagram) (st : Status) (u : State) : Prop :=
  u.queues = s.queues ∧ u.jobs = s.jobs ∧ Sends s u fun x => x.type = tyBusy ∧ x.status = st ∧ x.hqTag = d.hqTag ∧
    x.nonce = d.nonce ∧ x.slot = d.slot ∧ x.cls = d.cls ∧ x.dest = d.source ∧ x.dstUa = d.srcUa

theorem busy_of_sendBusy {s : State} {d : Datagram} (h : CanSend s d.port d.cls) (k : KeyEntry) (st : Status) :
    Busy s d st (sendBusy s d.port (opened k d) st 0) := by
  have hs := still_of_reports (sendBusy_reports s d.port (opened k d) st 0)
  refine ⟨queues_of_still hs, jobs_of_still hs, sends_of rfl (sendBusy_sends (by simpa using h) st 0) fun x hx => ?_⟩
  simpa using hx

section Command

variable {s : State} {d : Datagram} {k : KeyEntry} (h : Proved s d k) (form : commandForm s d = true) (cls : d.cls = 7 ∨ d.cls = 3)
  (can : CanSend s d.port d.cls)

include h form cls

theorem exec_command_proved : exec (.command d) s = .next (ingressGranted s (opened k d)
    (rowCheck s d (commandForm s d) true (slotRanged d)) k fun s => passCommand s (opened k d) k) :=
  (exec_command h.serves).trans (congrArg _ (ingress_proved h form (travels_rowCheck cls)))

include can

theorem command_stale (hg : d.keyId.toNat / 256 % 256 ≠ k.gen.toNat) : Answers (.command d) s (Busy s d St.keyStale) := by
  refine ⟨_, exec_command_proved h form cls, ?_⟩
  rw [granted_stale (by simpa using hg), opened_port]
  exact busy_of_sendBusy can k _

variable (gen : d.keyId.toNat / 256 % 256 = k.gen.toNat)

include gen

theorem command_unbound (hb : ¬ Bound (rowCheck s d (commandForm s d) true (slotRanged d)) (opened k d) k) :
    Answers (.command d) s (Busy s d St.rights) := by
  refine ⟨_, exec_command_proved h form cls, ?_⟩
  rw [granted_unbound (by simpa using gen) hb, opened_port]
  exact busy_of_sendBusy can k _

variable (bound : Bound (rowCheck s d (commandForm s d) true (slotRanged d)) (opened k d) k)

include bound

theorem command_beyond (hr : ¬ (k.lo.toNat ≤ d.slot.toNat ∧ d.slot.toNat ≤ k.hi.toNat)) :
    Answers (.command d) s (Busy s d St.bounds) := by
  refine ⟨_, exec_command_proved h form cls, ?_⟩
  rw [granted_beyond (by simpa using gen) bound (by simpa [rowCheck, slotRanged] using hr), opened_port]
  exact busy_of_sendBusy can k _

variable (within : k.lo.toNat ≤ d.slot.toNat ∧ d.slot.toNat ≤ k.hi.toNat) (cls3 : d.cls = 3)

include within cls3

theorem command_unserved (hs : servesIo s = false) : Answers (.command d) s (Busy s d St.notServing) := by
  refine ⟨_, exec_command_proved h form cls, ?_⟩
  rw [granted_unserved (by simpa using gen) bound (by simpa [rowCheck, slotRanged] using within) rfl (by simp [cls3]) rfl rfl hs, opened_port]
  exact busy_of_sendBusy can k _

/-- A COMMAND for a queue that is not registered at its own slate (R133). -/
theorem command_unregistered (hs : servesIo s = true) (hq : queueAt s (dgNumber d) = none) (hh : hqSlate (dgNumber d) = d.port) :
    Answers (.command d) s (Busy s d St.noContext) := by
  refine ⟨_, exec_command_proved h form cls, ?_⟩
  have hn : noteSource s (opened k d) = s := by simp [noteSource, cls3]
  rw [granted_passes (by simpa using gen) bound (by simpa [rowCheck, slotRanged] using within) rfl (.inr hs)]
  simp only [passCommand, opened_cls, cls3, handOver, hn, dgNumber_opened, hh, h.serves, hq, Nat.reduceEqDiff, decide_false,
    Bool.false_and, Bool.false_eq_true, if_false, Bool.not_true]
  exact busy_of_sendBusy can k _

end Command

theorem bound_rowCheck {s : State} {d : Datagram} {k : KeyEntry} {form busy : Bool} {bound : Datagram → KeyEntry → Bool} :
    Bound (rowCheck s d form busy bound) (opened k d) k ↔
      k.window = false ∧ k.bind = dgNumber d ∧ ∀ q, queueAt s (dgNumber d) = some q → q.host = d.host := by
  simp [Bound, rowCheck, queueHost]

/-- Settles O32: the checks of R108 one by one, then the answers to a COMMAND that its key does not grant. -/
theorem ingressChecks : Obligations.IngressChecks := by
  unfold Obligations.IngressChecks
  refine ⟨fun s d c form hs hc => ?checks, fun s d k h hd ho hl hu cls can => ?answers⟩
  case checks =>
    obtain ⟨chk, pass, hx, hw, hf⟩ := exec_row hs hc
    have travels_iff : travels chk d.cls = true ↔ d.cls = 7 ∨ d.cls = 3 := by rw [travels, hw, ← cmdClass_iff]; rfl
    rw [hx]
    refine ⟨fun ho => congrArg _ (ingress_elsewhere ho), fun ho hn => congrArg _ (ingress_malformed ho (Bool.eq_false_iff.2 (mt hf.1 hn))),
      fun ours hform => ?_⟩
    have form := hf.2 hform
    refine ⟨fun hu => congrArg _ (ingress_otherUnit ours form hu), fun hv ha => ⟨fun h7 h3 => ?_, fun hcls => ?_⟩⟩
    · exact congrArg _ (ingress_wrongClass ours form ⟨hv, ha⟩ (Bool.eq_false_iff.2 fun h => (travels_iff.1 h).elim h7 h3))
    have cls := travels_iff.2 hcls
    refine ⟨fun hk => congrArg _ (ingress_unknownKey ours form ⟨hv, ha⟩ cls hk), fun k hk => ⟨fun hm => ?_, fun hm h0 hn => ?_, fun hm h1 hn => ?_⟩⟩
    · exact congrArg _ (ingress_modeFail ours form ⟨hv, ha⟩ cls hk hm)
    · exact congrArg _ (ingress_checkFail ours form ⟨hv, ha⟩ cls hk hm ⟨h0, hn⟩)
    · exact congrArg _ (ingress_sealFail ours form ⟨hv, ha⟩ cls hk hm h1 hn)
  case answers =>
    have form : commandForm s d = true := by simp [commandForm, hd, ho, hl, hu]
    intro busy stale bound ranged
    refine ⟨command_stale h form cls can, fun hg hb => ?_, fun hg hb => ?_, fun hg hb => ?_, fun hg hb => ?_⟩
    · exact command_unbound h form cls can (not_not.1 hg) (mt bound_rowCheck.1 hb)
    · exact command_beyond h form cls can (not_not.1 hg) (bound_rowCheck.2 hb)
    · exact command_unserved h form cls can (not_not.1 hg) (bound_rowCheck.2 hb)
    · exact command_unregistered h form cls can (not_not.1 hg) (bound_rowCheck.2 hb)

end Sys2Proof.IngressAnswers
end

section
/-! A datagram of a queue that reaches its context (R133, R136), and the DATA of a command that waits for its payload (R120). -/

namespace Sys2Proof.InboundBytes

open Sys2Proof Sys2Proof.Machine Sys2Proof.IngressOrder

/-! ### The owning slate (R11, R133, R136) -/

theorem queueAt_modQueue {s : State} {hq : Nat} {q : Queue} (h : queueAt s hq = some q) (f : Queue → Queue) :
    queueAt (modQueue s hq f) hq = some (f q) := (tabGet_tabMod_self ..).trans (congrArg _ h)

/-- A context's reference bit is set. -/
def referenced (s : State) (hq : Nat) : State := if s.ctxRef.contains hq then s else { s with ctxRef := hq :: s.ctxRef }

/-- The state in which a datagram that reaches its queue is judged: its sender is noted, and the context has the return address, the
reference bit and the time of its last use. -/
def judged (s : State) (d : Datagram) (k : KeyEntry) : State :=
  let t := referenced (modQueue (noteSource s (opened k d)) (dgNumber d) fun q =>
    { q with ret := some { source := d.source, ipv4 := d.ipv4, port := d.port } }) (dgNumber d)
  modQueue t (dgNumber d) fun q => { q with lastTb := now t (hqSlate (dgNumber d)) }

/-- A datagram as its owning slate takes it up. -/
def parcel (s : State) (kind : DgKind) (d : Datagram) (k : KeyEntry) : Parked :=
  { hq := dgNumber d, kind := kind, dg := opened k d, rights := keyRights k, tb := BitVec.ofNat 64 (now s d.port) }

theorem noteSource_eq (s : State) (d : Datagram) : ∃ r, noteSource s d = { s with ready := r } := by
  unfold noteSource
  dsimp only
  split
  · exact ⟨_, rfl⟩
  · exact ⟨s.ready, rfl⟩

theorem referenced_eq (s : State) (hq : Nat) : ∃ c, referenced s hq = { s with ctxRef := c } := by
  unfold referenced
  split
  · exact ⟨s.ctxRef, rfl⟩
  · exact ⟨_, rfl⟩

theorem queueAt_noteSource (s : State) (d : Datagram) (hq : Nat) : queueAt (noteSource s d) hq = queueAt s hq := by
  obtain ⟨r, hr⟩ := noteSource_eq s d
  rw [hr]
  rfl

theorem queueAt_referenced (s : State) (x hq : Nat) : queueAt (referenced s x) hq = queueAt s hq := by
  obtain ⟨c, hc⟩ := referenced_eq s x
  rw [hc]
  rfl

/-- Nothing but the sources of READY, the contexts and their reference bits has changed. -/
theorem judged_eq (s : State) (d : Datagram) (k : KeyEntry) : ∃ r q c, judged s d k = { s with ready := r, queues := q, ctxRef := c } := by
  obtain ⟨r, hr⟩ := noteSource_eq s (opened k d)
  unfold judged
  rw [hr]
  obtain ⟨c, hc⟩ := referenced_eq (modQueue { s with ready := r } (dgNumber d) fun q =>
    { q with ret := some { source := d.source, ipv4 := d.ipv4, port := d.port } }) (dgNumber d)
  rw [hc]
  exact ⟨_, _, _, rfl⟩

section Reached

variable {s : State} {d : Datagram} {k : KeyEntry} {q : Queue}

/-- The context keeps its tags, its reset and its arming. -/
theorem queueAt_judged (h : queueAt s (dgNumber d) = some q) : ∃ r t, queueAt (judged s d k) (dgNumber d) =
    some { q with ret := r, lastTb := t } := by
  have h1 : queueAt (noteSource s (opened k d)) (dgNumber d) = some q := (queueAt_noteSource ..).trans h
  exact ⟨_, _, queueAt_modQueue ((queueAt_referenced ..).trans (queueAt_modQueue h1 _)) _⟩

variable (h : Reaches s d k q)

include h

/-- A datagram that reaches its queue is processed at once (R136, R137). -/
theorem handOver_reaches (kind : DgKind) : handOver s kind (opened k d) k = match kind with
    | .command => admitCommand (judged s d k) (parcel s kind d k) false
    | .data => acceptData (judged s d k) (dgNumber d) (opened k d)
    | .abort => abortOne (judged s d k) (dgNumber d) (opened k d)
    | .queueReset => abortQueue (judged s d k) (dgNumber d) (opened k d) := by
  obtain ⟨hpark, hheld⟩ := h.alone
  obtain ⟨r, hr⟩ := noteSource_eq s (opened k d)
  have hq : queueAt (noteSource s (opened k d)) (dgNumber d) = some q := (queueAt_noteSource ..).trans h.queue
  have home : serving (noteSource s (opened k d)) (hqSlate (dgNumber d)) = true := by rw [hr]; exact h.home
  have time (f : Queue → Queue) : now (modQueue (noteSource s (opened k d)) (dgNumber d) f) d.port = now s d.port := by rw [hr]; rfl
  have goes (f : Queue → Queue) (hf : (f q).resident = true) (p : Parked) (hp : p.hq = dgNumber d) :
      goesOn (modQueue (noteSource s (opened k d)) (dgNumber d) f) p = true := by
    have hpk : parkedFor (modQueue (noteSource s (opened k d)) (dgNumber d) f) (dgNumber d) = false := by rw [hr]; exact hpark
    simp only [goesOn, hp, isResident, queueAt_modQueue hq, hf, hpk, Bool.not_false, Bool.or_true, Bool.and_self]
  have behind (f : Queue → Queue) : ((tabGetD (modQueue (noteSource s (opened k d)) (dgNumber d) f).heldDg (hqSlate (dgNumber d)) []).any
      fun x => x.hq == dgNumber d) = false := by
    rw [hr, List.any_eq_false]
    exact fun x hx => by simpa using hheld x hx
  simp only [handOver, dgNumber_opened, opened_port, opened_source, opened_ipv4, home, hq, time, Bool.not_true, Bool.false_eq_true, if_false]
  rw [if_pos (by rw [goes _ h.resident _ rfl, behind]; rfl)]
  cases kind <;> rfl

theorem cls_of_reaches : d.cls = 7 ∨ d.cls = 3 := h.cls.imp_right And.left

theorem bound_of_reaches {form busy : Bool} {bound : Datagram → KeyEntry → Bool} : Bound (rowCheck s d form busy bound) (opened k d) k := by
  obtain ⟨hw, hb⟩ := h.bind
  refine ⟨hw, hb.trans (dgNumber_opened k d).symm, fun x hx => ?_⟩
  obtain ⟨q', hq', rfl⟩ := Option.map_eq_some_iff.1 (hx : (queueAt s (dgNumber d)).map (·.host) = some x)
  rw [h.queue] at hq'
  cases hq'
  rw [h.host, opened_host]

/-- A datagram that reaches its queue passes the checks of its row. -/
theorem ingress_reaches {form busy : Bool} {bound : Datagram → KeyEntry → Bool} {pass : State → Datagram → KeyEntry → State}
    (hf : form = true) (hb : bound (opened k d) k = true) : ingress s d (rowCheck s d form busy bound) pass = pass s (opened k d) k := by
  have served : d.cls = 7 ∨ servesIo s = true := h.cls.imp_right And.right
  rw [ingress_proved h.proved hf (travels_rowCheck (cls_of_reaches h)),
    granted_passes (by simpa using h.gen) (bound_of_reaches h) hb rfl (by simpa using served)]

theorem exec_dataIn_reaches (hf : headerOk s d tyData false true = true) (hs : d.slot = 0) :
    exec (.dataIn d) s = .next (acceptData (judged s d k) (dgNumber d) (opened k d)) := by
  rw [exec_dataIn h.proved.serves, ingress_reaches h (by simp [hf, hs]) rfl, handOver_reaches h]

end Reached

/-! ### Ranges of bytes -/

/-- A range that is added is covered. -/
theorem addRange_covers (l : List (Nat × Nat)) (lo hi : Nat) : ∃ r ∈ addRange l lo hi, r.1 ≤ lo ∧ hi ≤ r.2 := by
  induction l generalizing lo hi with
  | nil => exact ⟨(lo, hi), .head _, le_rfl, le_rfl⟩
  | cons x l ih =>
    obtain ⟨a, b⟩ := x
    unfold addRange
    split
    · obtain ⟨r, hr, h⟩ := ih lo hi
      exact ⟨r, .tail _ hr, h⟩
    split
    · exact ⟨(lo, hi), .head _, le_rfl, le_rfl⟩
    · obtain ⟨r, hr, h1, h2⟩ := ih (min a lo) (max b hi)
      exact ⟨r, hr, by omega, by omega⟩

theorem covers_addRange (l : List (Nat × Nat)) (lo hi : Nat) : covers (addRange l lo hi) lo hi = true := by
  obtain ⟨r, hr, h⟩ := addRange_covers l lo hi
  simp only [covers, Bool.or_eq_true, List.any_eq_true, Bool.and_eq_true, decide_eq_true_eq]
  exact .inr ⟨r, hr, h⟩

/-- Bytes put at distinct places: what is read at one of them, and elsewhere. -/
theorem tabGetD_foldl_tabSet (l : List (Nat × Byte)) (t : Tab Byte) (off a : Nat) {v : Byte} (h : ∀ p ∈ l, off + p.1 = a → p.2 = v) :
    tabGetD (l.foldl (fun t p => tabSet 0 t (off + p.1) p.2) t) a 0 = if ∃ p ∈ l, off + p.1 = a then v else tabGetD t a 0 := by
  induction l generalizing t with
  | nil => simp
  | cons p l ih =>
    rw [List.foldl_cons, ih _ fun q hq => h q (.tail _ hq), tabGetD_tabSet]
    by_cases hp : off + p.1 = a
    · simp [hp, h p (.head _) hp]
    · simp only [List.mem_cons, exists_eq_or_imp, hp, Ne.symm hp, false_or, if_false]

/-- The bytes of a block that have not arrived, each with its place (R120). -/
def fresh (arrived : List (Nat × Nat)) (off : Nat) (d : Block) : List (Nat × Byte) :=
  ((List.range d.length).zip d).filter fun p => !covers arrived (off + p.1) (off + p.1 + 1)

theorem mem_fresh {arrived : List (Nat × Nat)} {off : Nat} {d : Block} {p : Nat × Byte} :
    p ∈ fresh arrived off d ↔ d[p.1]? = some p.2 ∧ covers arrived (off + p.1) (off + p.1 + 1) = false := by
  have hz : p ∈ (List.range d.length).zip d ↔ d[p.1]? = some p.2 := by
    rw [List.mem_iff_getElem?]
    constructor
    · rintro ⟨i, hi⟩
      rw [List.getElem?_zip_eq_some] at hi
      obtain ⟨h1, h2⟩ := hi
      rw [List.getElem?_eq_some_iff] at h1
      obtain ⟨hl, h1⟩ := h1
      rwa [← h1, List.getElem_range]
    · intro h
      obtain ⟨hl, -⟩ := List.getElem?_eq_some_iff.1 h
      exact ⟨p.1, List.getElem?_zip_eq_some.2 ⟨by simp [hl], h⟩⟩
  simp only [fresh, List.mem_filter, hz, Bool.not_eq_true']

/-- The buffer that DATA fills. -/
def filled (x : Buffer) (off : Nat) (d : Block) : Buffer :=
  { x with data := (fresh x.arrived off d).foldl (fun t p => tabSet 0 t (off + p.1) p.2) x.data
           arrived := addRange x.arrived off (off + d.length) }

theorem fillBuffer_eq {s : State} {b : Nat} {x : Buffer} (h : bufOf s b = some x) (off : Nat) (d : Block) :
    fillBuffer s b off d = { s with buffers := tabPut s.buffers b (filled x off d) } := by
  unfold fillBuffer
  rw [h]
  rfl

section Filled

variable (x : Buffer) (off : Nat) (d : Block)

/-- What a byte of the buffer reads once the DATA is in. -/
theorem filled_reads (a : Nat) : tabGetD (filled x off d).data a 0 =
    if off ≤ a ∧ a < off + d.length ∧ covers x.arrived a (a + 1) = false then d.getD (a - off) 0 else tabGetD x.data a 0 := by
  have value : ∀ p ∈ fresh x.arrived off d, off + p.1 = a → p.2 = d.getD (a - off) 0 := by
    rintro p hp rfl
    simp [List.getD_eq_getElem?_getD, (mem_fresh.1 hp).1]
  rw [filled, tabGetD_foldl_tabSet _ _ _ _ value]
  congr 1
  refine propext ⟨?_, fun ⟨h1, h2, h3⟩ => ⟨(a - off, d.getD (a - off) 0), mem_fresh.2 ⟨?_, ?_⟩, ?_⟩⟩
  · rintro ⟨p, hp, rfl⟩
    obtain ⟨hd, hc⟩ := mem_fresh.1 hp
    obtain ⟨hl, -⟩ := List.getElem?_eq_some_iff.1 hd
    exact ⟨by omega, by omega, hc⟩
  · simp [List.getD_eq_getElem?_getD, List.getElem?_eq_getElem (show a - off < d.length by omega)]
  · rwa [show off + (a - off) = a by omega]
  · dsimp only
    omega

end Filled

/-! ### DATA_IN (R120) -/

section Data

variable {s : State} {d : Datagram} {k : KeyEntry} {q : Queue} (h : Reaches s d k q) (form : headerOk s d tyData false true = true)
  (slot : d.slot = 0)

/-- The tag a datagram names. -/
abbrev tagOf (q : Queue) (d : Datagram) : Tag := tagAt q (d.hqTag.toNat % 32)

/-- A DATA that is counted and dropped. -/
def Dropped (s : State) (d : Datagram) (u : State) : Prop :=
  let sl := hqSlate (dgNumber d)
  u.buffers = s.buffers ∧ getF u sl F.XPORT.DUP_DISCARD = (getF s sl F.XPORT.DUP_DISCARD + 1) % 2 ^ F.XPORT.DUP_DISCARD.w

include h form slot

theorem dataIn_dropped (hd : acceptData (judged s d k) (dgNumber d) (opened k d) =
    bump (judged s d k) (hqSlate (dgNumber d)) F.XPORT.DUP_DISCARD) : Answers (.dataIn d) s (Dropped s d) := by
  obtain ⟨r, qs, c, hj⟩ := judged_eq s d k
  refine ⟨_, (exec_dataIn_reaches h form slot).trans (congrArg _ hd), ?_, ?_⟩
  · rw [bump_buffers, hj]
  · rw [getF_bump_self _ _ _ _ (by decide), hj]
    rfl

/-- DATA of a command that the tag does not run (R120). -/
theorem dataIn_unwanted (ht : tagBusy (tagOf q d) = false ∨ (tagOf q d).last ≠ some d.nonce) : Answers (.dataIn d) s (Dropped s d) := by
  refine dataIn_dropped h form slot ?_
  obtain ⟨r, t, hq⟩ := queueAt_judged (k := k) h.queue
  have hw : (tagBusy (tagAt q (d.hqTag.toNat % 32)) && (tagAt q (d.hqTag.toNat % 32)).last == some d.nonce) = false := by
    rcases ht with ht | ht <;> simp [ht]
  unfold acceptData
  rw [hq]
  simp only [opened_hqTag, opened_nonce, tagAt] at hw ⊢
  rw [hw]

variable {c : Cmd} {b : Nat} {x : Buffer} (busy : tagBusy (tagOf q d) = true) (last : (tagOf q d).last = some d.nonce)
  (cmd : (tagOf q d).cmd = some c) (buf : c.buf = some b) (held : bufOf s b = some x)

omit form slot in
include busy last cmd buf held in
/-- DATA of the command that the tag runs, by its range (R120). -/
theorem acceptData_wanted : acceptData (judged s d k) (dgNumber d) (opened k d) =
    if c.inLen < d.offset.toNat + d.payload.length ∨ ((d.offset.toNat % 64 ≠ 0 ∨ d.payload.length % 64 ≠ 0) ∧
        d.offset.toNat + d.payload.length ≠ c.inLen) then bump (judged s d k) (hqSlate (dgNumber d)) F.XPORT.DUP_DISCARD
    else if covers x.arrived d.offset.toNat (d.offset.toNat + d.payload.length) then
      bump (judged s d k) (hqSlate (dgNumber d)) F.XPORT.DUP_DISCARD
    else fillBuffer (judged s d k) b d.offset.toNat (opened k d).payload := by
  obtain ⟨r, t, hq⟩ := queueAt_judged (k := k) h.queue
  have hb : bufOf (judged s d k) b = some x := by
    obtain ⟨r, qs, c', hj⟩ := judged_eq s d k
    rw [hj]
    exact held
  unfold acceptData
  rw [hq]
  simp only [tagAt] at busy last cmd
  simp only [opened_hqTag, opened_nonce, opened_offset, length_opened, tagAt, busy, last, cmd, buf, hb, beq_self_eq_true, Bool.and_self]

include busy last cmd buf held

theorem dataIn_misplaced (hr : c.inLen < d.offset.toNat + d.payload.length ∨ ((d.offset.toNat % 64 ≠ 0 ∨ d.payload.length % 64 ≠ 0) ∧
    d.offset.toNat + d.payload.length ≠ c.inLen)) : Answers (.dataIn d) s (Dropped s d) :=
  dataIn_dropped h form slot ((acceptData_wanted h busy last cmd buf held).trans (if_pos hr))

variable (fits : ¬ (c.inLen < d.offset.toNat + d.payload.length ∨ ((d.offset.toNat % 64 ≠ 0 ∨ d.payload.length % 64 ≠ 0) ∧
    d.offset.toNat + d.payload.length ≠ c.inLen)))

include fits

theorem dataIn_repeated (hc : covers x.arrived d.offset.toNat (d.offset.toNat + d.payload.length) = true) :
    Answers (.dataIn d) s (Dropped s d) :=
  dataIn_dropped h form slot ((acceptData_wanted h busy last cmd buf held).trans ((if_neg fits).trans (if_pos hc)))

theorem dataIn_fills (hc : covers x.arrived d.offset.toNat (d.offset.toNat + d.payload.length) = false) :
    Answers (.dataIn d) s fun u => bufOf u b = some (filled x d.offset.toNat (opened k d).payload) ∧ ∀ o, o ≠ b → bufOf u o = bufOf s o := by
  obtain ⟨r, qs, c', hj⟩ := judged_eq s d k
  have hb : bufOf (judged s d k) b = some x := by rw [hj]; exact held
  refine ⟨_, (exec_dataIn_reaches h form slot).trans (congrArg _
    ((acceptData_wanted h busy last cmd buf held).trans ((if_neg fits).trans (if_neg (by simp [hc]))))), ?_⟩
  rw [fillBuffer_eq hb, hj]
  exact ⟨tabGet_tabPut_self .., fun o ho => tabGet_tabPut_ne _ _ ho⟩

end Data

/-- Settles O34: what is counted and dropped, and the bytes of the buffer once a range is in. -/
theorem inboundData : Obligations.InboundData := by
  unfold Obligations.InboundData
  intro s d k q h form slot hq sl tg off len dropped
  refine ⟨dataIn_unwanted h form slot, fun c b x busy last cmd buf held => ⟨dataIn_misplaced h form slot busy last cmd buf held, fun hin hal => ?_⟩⟩
  have fits : ¬ (c.inLen < off + len ∨ ((off % 64 ≠ 0 ∨ len % 64 ≠ 0) ∧ off + len ≠ c.inLen)) := by
    rintro (hlt | ⟨h1, h2⟩)
    · omega
    · rcases hal with ⟨h3, h4⟩ | h3
      · exact h1.elim (· h3) (· h4)
      · exact h2 h3
  refine ⟨dataIn_repeated h form slot busy last cmd buf held fits, fun hc => ?_⟩
  obtain ⟨u, hu, hy, ho⟩ := dataIn_fills h form slot busy last cmd buf held fits hc
  have hlen : (opened k d).payload.length = len := length_opened k d
  refine ⟨u, hu, _, hy, rfl, ?_, fun i hi hn => ?_, fun a ha => ?_, ho⟩
  · exact hlen ▸ covers_addRange x.arrived off (off + (opened k d).payload.length)
  · rw [filled_reads, if_pos ⟨by omega, by omega, hn⟩, Nat.add_sub_cancel_left]
  · rw [filled_reads, if_neg]
    rintro ⟨h1, h2, h3⟩
    rcases ha with ha | ha | ha
    · omega
    · omega
    · exact absurd (h3.symm.trans ha) (by decide)

end Sys2Proof.InboundBytes
end

section
/-! An RMA_REQ from R108 to the check of its form and range: what its home answers before it executes (R261 to R263, R265, R266). -/

namespace Sys2Proof.RmaRequests

open Sys2Proof Sys2Proof.Machine Sys2Proof.Reporting Sys2Proof.Sending Sys2Proof.IngressOrder Sys2Proof.IngressAnswers

theorem hbm_of_reports {s t : State} (h : Reports s t) : t.hbm = s.hbm := (congrArg State.hbm h.steady :)

theorem copies_of_reports {s t : State} (h : Reports s t) : t.copies = s.copies := (congrArg State.copies h.steady :)

/-! ### R108 for remote memory -/

/-- The range of an RMA_REQ lies in its key's bounds (R112). -/
def rangeBound (d : Datagram) (k : KeyEntry) : Bool :=
  decide (k.lo.toNat ≤ d.offset.toNat) && decide (d.offset.toNat + rmaLen d ≤ k.hi.toNat)

/-- The key grants the right that the operation needs, and authenticates (R112, R261). -/
def opRight (d : Datagram) (k : KeyEntry) : Bool :=
  k.mode != 1 && match rmaRight (rmaOp d) with | some b => k.rights.getLsbD b | none => true

/-- What an RMA_REQ asks of the checks of R108. -/
def rmaCheck (s : State) (d : Datagram) : Check :=
  { form := headerOk s d tyRmaReq false false && d.slot == 0, window := true, host := none, bound := rangeBound, right := opRight
    always := false, busy := true }

theorem rmaRequest_eq (s : State) (d : Datagram) : rmaRequest d s = ingress s d (rmaCheck s d) fun s d _ => rmaHome s d := rfl

theorem exec_rma {s : State} {d : Datagram} (h : serving s d.port = true) {c : Instr}
    (hc : c ∈ [Instr.rmaRead d, .rmaWrite d, .rmaAadd d, .rmaAcas d, .rmaAcas128 d, .rmaCopy d, .rmaCopyWr d]) :
    exec c s = .next (rmaRequest d s) := by
  simp only [List.mem_cons, List.not_mem_nil, or_false] at hc
  have arm : exec c s = onSlate d.port s (rmaRequest d) := by
    rcases hc with rfl | rfl | rfl | rfl | rfl | rfl | rfl <;> rfl
  exact arm.trans (onSlate_serving _ h)

section Opened

variable (k : KeyEntry) (d : Datagram)

@[simp] theorem rmaOp_opened : rmaOp (opened k d) = rmaOp d := by simp only [rmaOp, opened_hqTag]

@[simp] theorem rotFind_opened (s : State) (home : Nat) : rotFind s home (opened k d) = rotFind s home d := by
  simp only [rotFind, opened_srcUa, opened_host, dgNumber_opened, opened_nonce, opened_keyId]

end Opened

/-- `s` with the recent-operation tables `r`. -/
def retabled (s : State) (r : Tab (Tab RotEntry)) : State := { s with rot := r }

section Retabled

variable (s : State) (r : Tab (Tab RotEntry))

@[simp] theorem retabled_self : retabled s s.rot = s := rfl

@[simp] theorem retabled_retabled (q : Tab (Tab RotEntry)) : retabled (retabled s r) q = retabled s q := rfl

@[simp] theorem hbm_retabled : (retabled s r).hbm = s.hbm := rfl

@[simp] theorem copies_retabled : (retabled s r).copies = s.copies := rfl

@[simp] theorem frames_retabled : (retabled s r).frames = s.frames := rfl

@[simp] theorem getF_retabled (sl : Nat) (f : Fld) : getF (retabled s r) sl f = getF s sl f := rfl

theorem canSend_retabled {s : State} {sl c : Nat} (h : CanSend s sl c) : CanSend (retabled s r) sl c :=
  canSend_congr h rfl rfl rfl rfl

end Retabled

/-! ### Answers (R110, R262) -/

/-- What a BUSY to the request `d` shows. -/
def RmaBusy (s : State) (d : Datagram) (st : Status) (u : State) : Prop :=
  u.hbm = s.hbm ∧ u.copies = s.copies ∧ Sends s u fun y => y.type = tyBusy ∧ y.status = st ∧ y.nonce = d.nonce ∧ y.hqTag = d.hqTag

/-- What the RMA_RESP of a request that fails shows: its status, and zeros as long as its result. -/
def RmaEnds (s : State) (d : Datagram) (st : Status) (u : State) : Prop :=
  u.hbm = s.hbm ∧ u.copies = s.copies ∧ Sends s u fun y => y.type = tyRmaResp ∧ y.status = st ∧ y.nonce = d.nonce ∧ y.hqTag = d.hqTag ∧
    y.offset = d.offset ∧ y.payload = beBytes 2 st.toNat ++ List.replicate (6 + rmaResultLen (rmaOp d)) 0

section Answers

variable {s : State} {home : Nat} {d : Datagram}

theorem sendBusy_busy (h : CanSend s home d.cls) (k : KeyEntry) (st : Status) : RmaBusy s d st (sendBusy s home (opened k d) st 0) := by
  have hr := sendBusy_reports s home (opened k d) st 0
  refine ⟨hbm_of_reports hr, copies_of_reports hr, sends_of rfl (sendBusy_sends (by simpa using h) st 0) ?_⟩
  rintro x ⟨h1, h2, h3, h4, -⟩
  exact ⟨h1, h2, by simpa using h4, by simpa using h3⟩

/-- A count of the home does not stand in the way of a BUSY. -/
theorem bumped_busy (h : CanSend s home d.cls) (k : KeyEntry) (st : Status) {f : Fld} (hf : f.sp < 32 ∧ f.e < 4096 ∧ f.sp ≠ 3) :
    RmaBusy s d st (sendBusy (bump s home f) home (opened k d) st 0) := by
  obtain ⟨h1, h2, h3⟩ := sendBusy_busy (canSend_bump h home hf 1) k st
  exact ⟨h1, h2, h3⟩

theorem rmaRespond_reports (s : State) (home : Nat) (d : Datagram) (st : Status) (b : Block) (dup : Bool) :
    Reports s (rmaRespond s home d st b dup) := send_reports ..

theorem rmaRespond_sends (h : CanSend s home d.cls) (st : Status) (b : Block) (dup : Bool) :
    Sends s (rmaRespond s home d st b dup) fun y => y.type = tyRmaResp ∧ y.status = (if dup then St.duplicate else st) ∧
      y.nonce = d.nonce ∧ y.hqTag = d.hqTag ∧ y.offset = d.offset ∧ y.payload = beBytes 2 st.toNat ++ List.replicate 6 0 ++ b :=
  sends_of rfl (send_sends h none) fun _ hx => ⟨hx.type, hx.status, hx.nonce, hx.hqTag, hx.offset, hx.payload⟩

/-- What a second request for a finished operation shows, counted in `f` (R265). -/
def RmaAgain (s : State) (home : Nat) (f : Fld) (d : Datagram) (st : Status) (b : Block) (u : State) : Prop :=
  u.hbm = s.hbm ∧ getF u home f = (getF s home f + 1) % 2 ^ f.w ∧
  Sends s u fun y => y.type = tyRmaResp ∧ y.status = St.duplicate ∧ y.nonce = d.nonce ∧
    y.payload = beBytes 2 st.toNat ++ List.replicate 6 0 ++ b

theorem rmaRespond_again (h : CanSend s home d.cls) (k : KeyEntry) {f : Fld} (hf : f.sp < 32 ∧ f.e < 4096 ∧ f.sp ≠ 3)
    (hn : noted f.sp f.e = false) (hw : f.lo + f.w ≤ 64) (st : Status) (b : Block) :
    RmaAgain s home f d st b (rmaRespond (bump s home f) home (opened k d) st b true) := by
  have hs := canSend_bump h home hf 1
  rw [← opened_cls k d] at hs
  have ha := rmaRespond_reports (bump s home f) home (opened k d) st b true
  refine ⟨(hbm_of_reports ha :), ?_, sends_of rfl (rmaRespond_sends hs st b true) ?_⟩
  · rw [ha.getF ⟨hf.1, hf.2.1, hn⟩, getF_bump_self _ _ _ _ hw]
  · rintro y ⟨h1, h2, h3, -, -, h6⟩
    exact ⟨h1, h2, by simpa using h3, h6⟩

/-- The end of an operation is its answer, the table's entry beside it. -/
theorem rmaEnd_eq (s : State) (home : Nat) (d : Datagram) (ent : Option Nat) (st : Status) (b : Block) :
    ∃ r, rmaEnd s home d ent st b = rmaRespond (retabled s r) home d st b false := by
  cases ent with
  | none => exact ⟨s.rot, rfl⟩
  | some i => exact ⟨_, rfl⟩

/-- A request that fails is answered, whatever the table has become. -/
theorem rmaFail_ends (h : CanSend s home d.cls) (k : KeyEntry) (x : Tab (Tab RotEntry)) (ent : Option Nat) (st : Status) :
    RmaEnds s d st (rmaFail (retabled s x) home (opened k d) ent st) := by
  obtain ⟨r, hr⟩ := rmaEnd_eq (retabled s x) home (opened k d) ent st (List.replicate (rmaResultLen (rmaOp (opened k d))) 0)
  have hs : CanSend (retabled s r) home (opened k d).cls := by rw [opened_cls]; exact canSend_retabled r h
  have ha := rmaRespond_reports (retabled s r) home (opened k d) st (List.replicate (rmaResultLen (rmaOp (opened k d))) 0) false
  unfold rmaFail
  rw [hr, retabled_retabled]
  refine ⟨(hbm_of_reports ha).trans (hbm_retabled ..), (copies_of_reports ha).trans (copies_retabled ..),
    sends_of rfl (rmaRespond_sends hs st _ false) ?_⟩
  rintro y ⟨h1, h2, h3, h4, h5, h6⟩
  refine ⟨h1, h2, by simpa using h3, by simpa using h4, by simpa using h5, h6.trans ?_⟩
  rw [List.append_assoc, List.replicate_append_replicate, rmaOp_opened]

end Answers

/-! ### At the home slate (R263) -/

section Home

variable {s : State} {d : Datagram} {x : Window}

theorem rmaHome_defined (hs : serving s (hqSlate (dgNumber d)) = true) (hw : windowOf s (dgNumber d) = some x)
    (hg : d.keyId.toNat / 256 % 256 = x.gen.toNat) : rmaHome s d = rmaAdmitted s (hqSlate (dgNumber d)) d x := by
  simp only [rmaHome, hs, hw, hg, Bool.not_true, Bool.false_eq_true, if_false, ne_eq, not_true_eq_false]

variable {home : Nat} (due : ∀ p ∈ rotOf s home, rotDue s home p.2 = false)

include due

/-- With no entry due, trimming leaves the table's contents (R266). -/
theorem rotTrim_idle : ∃ r, rotTrim s home = retabled s r ∧ rotOf (retabled s r) home = rotOf s home := by
  have hf : (rotOf s home).filter (fun p => !rotDue s home p.2) = rotOf s home := List.filter_eq_self.2 fun p hp => by simp [due p hp]
  exact ⟨_, rfl, by rw [hf]; exact tabGetD_tabPut_self ..⟩

omit due in
theorem rotFind_congr {r : Tab (Tab RotEntry)} (h : rotOf (retabled s r) home = rotOf s home) (d : Datagram) :
    rotFind (retabled s r) home d = rotFind s home d := by simp only [rotFind, h]

/-- An operation of the table that runs is discarded (R265). -/
theorem rmaAdmitted_running {i : Nat} {e : RotEntry} (hf : rotFind s home d = some (i, e)) (hd : e.done = none) :
    ∃ r, rmaAdmitted s home d x = retabled s r := by
  obtain ⟨r, ht, hr⟩ := rotTrim_idle due
  refine ⟨r, ?_⟩
  unfold rmaAdmitted
  rw [ht]
  dsimp only
  rw [rotFind_congr hr, hf]
  dsimp only
  rw [hd]

/-- An operation of the table that is done is answered from it (R265). -/
theorem rmaAdmitted_done {i : Nat} {e : RotEntry} {st : Status} {b : Block} (hf : rotFind s home d = some (i, e)) (hd : e.done = some (st, b)) :
    ∃ r, rmaAdmitted s home d x = rmaRespond (bump (retabled s r) home F.RMA.DUP_RESENT) home d st b true := by
  obtain ⟨r, ht, hr⟩ := rotTrim_idle due
  refine ⟨r, ?_⟩
  unfold rmaAdmitted
  rw [ht]
  dsimp only
  rw [rotFind_congr hr, hf]
  dsimp only
  rw [hd]

/-- A new operation that the home can take: its form, then its range (R263 steps 6 and 7). -/
theorem rmaAdmitted_new (hf : rotFind s home d = none) (room : (rotOf s home).length < 32768) (idle : copiesOf s home = []) :
    ∃ r ent, rmaAdmitted s home d x =
      if !rmaForm s d home then rmaFail (retabled s r) home d ent St.illegalField
      else if x.pages * 4096 < d.offset.toNat + rmaLen d then rmaFail (retabled s r) home d ent St.outOfRange
      else rmaRun (retabled s r) home d ent x := by
  obtain ⟨r, ht, hr⟩ := rotTrim_idle due
  have form (r : Tab (Tab RotEntry)) : rmaForm (retabled s r) d home = rmaForm s d home := rfl
  have used : opsUsed (retabled s r) home = 0 := congrArg List.length idle
  have copies : copiesOf (retabled s r) home = [] := idle
  unfold rmaAdmitted
  rw [ht]
  dsimp only
  rw [rotFind_congr hr, hf]
  simp only [used, hr, copies, List.length_nil, Nat.not_le.2 room, decide_false, Bool.and_false, Bool.false_eq_true, if_false,
    show ¬ 32768 ≤ 0 by decide, show ¬ 256 ≤ 0 by decide]
  cases he : rmaEnters d
  · exact ⟨r, none, by simp only [Bool.false_eq_true, if_false, form]⟩
  · exact ⟨_, some _, by simp only [if_true]; rfl⟩

end Home

/-! ### The statement -/

section Request

variable {s : State} {d : Datagram} {k : KeyEntry} {c : Instr} (h : Proved s d k) (gen : d.keyId.toNat / 256 % 256 = k.gen.toNat)
  (cls : d.cls = 2 ∨ d.cls = 1) (window : k.window = true) (bind : k.bind = dgNumber d)
  (form : headerOk s d tyRmaReq false false = true) (slot : d.slot = 0) (can : CanSend s d.port d.cls)
  (row : c ∈ [Instr.rmaRead d, .rmaWrite d, .rmaAadd d, .rmaAcas d, .rmaAcas128 d, .rmaCopy d, .rmaCopyWr d])

include window bind

omit gen in
theorem bound_rma : Bound (rmaCheck s d) (opened k d) k := ⟨window, bind.trans (dgNumber_opened k d).symm, fun _ hx => nomatch hx⟩

omit window bind

theorem cls_ne_seven (cls : d.cls = 2 ∨ d.cls = 1) : (opened k d).cls ≠ 7 := by
  rw [opened_cls]
  rcases cls with h | h <;> simp [h]

include h cls form slot row

theorem exec_rma_proved : exec c s = .next (ingressGranted s (opened k d) (rmaCheck s d) k fun s => rmaHome s (opened k d)) := by
  have travels : travels (rmaCheck s d) d.cls = true := by rcases cls with h | h <;> rw [h] <;> rfl
  rw [exec_rma h.serves row, rmaRequest_eq, ingress_proved h (by simp [rmaCheck, form, slot]) travels]

include gen window bind

section Refused

include can

theorem rma_beyond (hb : rangeBound (opened k d) k = false) : Answers c s (RmaBusy s d St.bounds) := by
  refine ⟨_, exec_rma_proved h cls form slot row, ?_⟩
  rw [granted_beyond (by simpa using gen) (bound_rma window bind) hb, opened_port]
  exact sendBusy_busy can k _

variable (within : rangeBound (opened k d) k = true)

include within

theorem rma_unentitled (hr : opRight (opened k d) k = false) : Answers c s (RmaBusy s d St.rights) := by
  refine ⟨_, exec_rma_proved h cls form slot row, ?_⟩
  rw [granted_unentitled (by simpa using gen) (bound_rma window bind) within hr, opened_port]
  exact sendBusy_busy can k _

theorem rma_unserved (right : opRight (opened k d) k = true) (hs : servesIo s = false) : Answers c s (RmaBusy s d St.notServing) := by
  refine ⟨_, exec_rma_proved h cls form slot row, ?_⟩
  rw [granted_unserved (by simpa using gen) (bound_rma window bind) within right (cls_ne_seven cls) rfl rfl hs, opened_port]
  exact sendBusy_busy can k _

end Refused

variable (within : rangeBound (opened k d) k = true) (right : opRight (opened k d) k = true) (serves : servesIo s = true)

include within right serves

theorem exec_rma_home : exec c s = .next (rmaHome s (opened k d)) := by
  rw [exec_rma_proved h cls form slot row, granted_passes (by simpa using gen) (bound_rma window bind) within right (.inr serves)]

variable (here : hqSlate (dgNumber d) = d.port)

include here

section AtHome

include can

theorem rma_undefined (hw : windowOf s (dgNumber d) = none) : Answers c s (RmaBusy s d St.noContext) := by
  refine ⟨_, exec_rma_home h gen cls window bind form slot row within right serves, ?_⟩
  simp only [rmaHome, dgNumber_opened, here, h.serves, hw, Bool.not_true, Bool.false_eq_true, if_false]
  exact bumped_busy can k _ (by decide)

theorem rma_staleWindow {x : Window} (hw : windowOf s (dgNumber d) = some x) (hg : x.gen ≠ k.gen) :
    Answers c s (RmaBusy s d St.keyStale) := by
  refine ⟨_, exec_rma_home h gen cls window bind form slot row within right serves, ?_⟩
  have hne : d.keyId.toNat / 256 % 256 ≠ x.gen.toNat := fun he => hg (BitVec.eq_of_toNat_eq (he.symm.trans gen))
  simp only [rmaHome, dgNumber_opened, opened_keyId, here, h.serves, hw, hne, ne_eq, not_false_eq_true, if_true, Bool.not_true,
    Bool.false_eq_true, if_false]
  exact bumped_busy can k _ (by decide)

end AtHome

variable {x : Window} (defined : windowOf s (dgNumber d) = some x) (current : x.gen = k.gen)

include defined current

theorem exec_rma_admitted : exec c s = .next (rmaAdmitted s d.port (opened k d) x) := by
  rw [exec_rma_home h gen cls window bind form slot row within right serves,
    rmaHome_defined (by simpa [here] using h.serves) (by simpa using defined) (by simpa [current] using gen), dgNumber_opened, here]

variable (due : ∀ p ∈ rotOf s d.port, rotDue s d.port p.2 = false)

include due

theorem rma_running {i : Nat} {e : RotEntry} (hf : rotFind s d.port d = some (i, e)) (hd : e.done = none) :
    Answers c s fun u => u.hbm = s.hbm ∧ u.frames = s.frames := by
  obtain ⟨r, hr⟩ := rmaAdmitted_running (x := x) due ((rotFind_opened k d s d.port).trans hf) hd
  refine ⟨_, exec_rma_admitted h gen cls window bind form slot row within right serves here defined current, ?_⟩
  rw [hr]
  exact ⟨rfl, rfl⟩

include can

theorem rma_answeredAgain {i : Nat} {e : RotEntry} (hf : rotFind s d.port d = some (i, e)) {st : Status} {b : Block} (hd : e.done = some (st, b)) :
    Answers c s (RmaAgain s d.port F.RMA.DUP_RESENT d st b) := by
  obtain ⟨r, hr⟩ := rmaAdmitted_done (x := x) due ((rotFind_opened k d s d.port).trans hf) hd
  refine ⟨_, exec_rma_admitted h gen cls window bind form slot row within right serves here defined current, ?_⟩
  rw [hr]
  exact rmaRespond_again (canSend_retabled r can) k (by decide) (by decide) (by decide) st b

variable (new : rotFind s d.port d = none) (room : (rotOf s d.port).length < 32768) (idle : copiesOf s d.port = [])

include new room idle

theorem rma_illFormed (hf : rmaForm s (opened k d) d.port = false) : Answers c s (RmaEnds s d St.illegalField) := by
  obtain ⟨r, ent, hr⟩ := rmaAdmitted_new (x := x) due ((rotFind_opened k d s d.port).trans new) room idle
  refine ⟨_, exec_rma_admitted h gen cls window bind form slot row within right serves here defined current, ?_⟩
  rw [hr, if_pos (by simp [hf])]
  exact rmaFail_ends can k r ent _

theorem rma_outOfRange (hf : rmaForm s (opened k d) d.port = true) (hx : x.pages * 4096 < d.offset.toNat + rmaLen (opened k d)) :
    Answers c s (RmaEnds s d St.outOfRange) := by
  obtain ⟨r, ent, hr⟩ := rmaAdmitted_new (x := x) due ((rotFind_opened k d s d.port).trans new) room idle
  refine ⟨_, exec_rma_admitted h gen cls window bind form slot row within right serves here defined current, ?_⟩
  rw [hr, if_neg (by simp [hf]), if_pos (by simpa using hx)]
  exact rmaFail_ends can k r ent _

end Request

theorem rangeBound_iff (k : KeyEntry) (d : Datagram) : rangeBound (opened k d) k = true ↔
    k.lo.toNat ≤ d.offset.toNat ∧ d.offset.toNat + rmaLen (opened k d) ≤ k.hi.toNat := by simp [rangeBound]

theorem opRight_iff (k : KeyEntry) (d : Datagram) : opRight (opened k d) k = true ↔
    k.mode ≠ 1 ∧ ∀ b, rmaRight (rmaOp d) = some b → k.rights.getLsbD b = true := by
  cases hr : rmaRight (rmaOp d) <;> simp [opRight, hr]

/-- Settles O38: the refusals of R108, the window, the table, then form and range. -/
theorem rmaAdmission : Obligations.RmaAdmission := by
  unfold Obligations.RmaAdmission
  intro s d k c h gen cls window bind form slot
  generalize here' : hqSlate (dgNumber d) = port
  intro home here can _ row busy ends inBounds right
  obtain rfl : port = d.port := here
  have within := rangeBound_iff k d
  have entitled := opRight_iff k d
  refine ⟨fun hb => ?_, fun hb hr => ?_, fun hb hr hs => ?_, fun hb hr hs => ⟨fun hw => ?_, fun x hw => ⟨fun hg => ?_, fun hg due =>
    ⟨fun i e hf => ⟨fun hd => ?_, fun st r hd => ?_⟩, fun new room idle => ⟨fun hf => ?_, fun hf hx => ?_⟩⟩⟩⟩⟩
  · exact rma_beyond h gen cls window bind form slot can row (Bool.eq_false_iff.2 (mt within.1 hb))
  · exact rma_unentitled h gen cls window bind form slot can row (within.2 hb) (Bool.eq_false_iff.2 (mt entitled.1 hr))
  · exact rma_unserved h gen cls window bind form slot can row (within.2 hb) (entitled.2 hr) hs
  · exact rma_undefined h gen cls window bind form slot can row (within.2 hb) (entitled.2 hr) hs here' hw
  · exact rma_staleWindow h gen cls window bind form slot can row (within.2 hb) (entitled.2 hr) hs here' hw hg
  · exact rma_running h gen cls window bind form slot row (within.2 hb) (entitled.2 hr) hs here' hw hg due hf hd
  · exact rma_answeredAgain h gen cls window bind form slot can row (within.2 hb) (entitled.2 hr) hs here' hw hg due hf hd
  · exact rma_illFormed h gen cls window bind form slot can row (within.2 hb) (entitled.2 hr) hs here' hw hg due new room idle hf
  · exact rma_outOfRange h gen cls window bind form slot can row (within.2 hb) (entitled.2 hr) hs here' hw hg due new room idle hf hx

end Sys2Proof.RmaRequests
end

section
/-! An ABORT that stops an ACTIVE command frees the buffer of the DATA it discards, and a frame that its block held back takes the
next number before the RESPONSE does (R142, R150, R231). -/

namespace Sys2Proof.AbortOfActive

open Sys2Proof Sys2Proof.Machine Sys2Proof.Tests

/-- Bytes that leave class 3 no room; one frame stands for the DATA that hold them (R231). -/
def crowd : Nat := 2 ^ 24

/-- A datagram of slate 0 in class 3, bare of what the ABORT does not look at. -/
def outbound (type : BitVec 4) : OutDatagram :=
  { slate := 0, cls := 3, dscp := 0, ipv4 := false, srcMac := 0, mac := none, gateway := 0, source := 1, dest := 99, type := type
    flags := 0, dstUa := 0x200, srcUa := 0x142, host := 11, hqTag := BitVec.ofNat 32 (5 * 4096 + 1), nonce := 8
    keyId := BitVec.ofNat 32 (6 * 65536 + 3 * 256), slot := 0, status := 0, offset := 0, check := 0, payload := [], sealed := [] }

/-- The ACTIVE tag of job 9. -/
def queue : Queue := AbortOutcomes.qT { AbortOutcomes.tg0 with st := .active, job := some 9 }

/-- Job 9 runs. -/
def running : State := withJob (AbortOutcomes.sT queue) { jobA with nonce := 8 }

/-- Frame 0 is DATA of job 9 on its way to the port; frame 1, an EVENT, stays in its block for want of room. -/
def crowded : State :=
  { running with
    frames := [(0, { dgramFrame running (outbound tyData) (some 9) with bytes := crowd, outs := [(0, 0)] }),
      (1, { dgramFrame running (outbound tyEvent) none with stalled := true })]
    nextFrame := 2 }

/-- ABORT of the command. -/
def abort : Datagram := fit tyAbort { dg with slot := 0 }

theorem event_waits : fits crowded 0 2 3 (cellsOf (frameBytes (outbound tyEvent))) = false := by decide +kernel

/-- The type of the datagram in a frame of the state that the ABORT leaves. -/
def typeAfter (id : Nat) : Option (BitVec 4) :=
  match exec (.abort abort) crowded with
  | .next u => (tabGet u.frames id).bind fun f => f.dgram.map (·.type)
  | _ => none

/-- The first new frame carries the EVENT, the second the RESPONSE. -/
theorem abort_releases_event : [crowded.nextFrame, crowded.nextFrame + 1].map typeAfter = [some tyEvent, some tyResponse] := by
  decide +kernel

theorem abort_sends_no_response (u : State) (h : exec (.abort abort) crowded = .next u) (P : OutDatagram → Prop)
    (hP : ∀ x, P x → x.type = tyResponse) : ¬ Sends crowded u P := by
  rintro ⟨f, x, hf, hx, hp⟩
  have ht : typeAfter crowded.nextFrame = some tyEvent := (List.cons.inj abort_releases_event).1
  simp only [typeAfter, h, hf, hx, Option.bind_some, Option.map_some, Option.some.injEq] at ht
  exact absurd (ht.symm.trans (hP x hp)) (by decide)

/-- Refutes O35: the outcome of an ACTIVE command is sent, but not as the first new frame. The room that the discarded DATA of its
job gives up goes to an EVENT that its block held back, and the RESPONSE is the frame after it. -/
theorem not_abortOutcomes : ¬ Obligations.AbortOutcomes := by
  unfold Obligations.AbortOutcomes
  intro h
  obtain ⟨latest, -⟩ := h crowded abort kA ((queueAt crowded 5).getD qA) (reaches_of (by decide +kernel)) (by decide +kernel)
    (by decide +kernel) (by decide +kernel) (by decide +kernel) (unsealed (by decide +kernel)) (canSend_of (by decide +kernel))
  obtain ⟨stopped, -⟩ := latest (by decide +kernel) (by decide +kernel)
  obtain ⟨u, hu, hsends, -⟩ := stopped (.inr (by decide +kernel))
  exact abort_sends_no_response u hu _ (fun x hx => hx.1) hsends

end Sys2Proof.AbortOfActive
end

section
/-! A window number names its slate in three bits, so a ninth slate's recent-operation table is not the one a W_OP trims (R260, R265). -/

namespace Sys2Proof.NinthSlate

open Sys2Proof Sys2Proof.Machine Sys2Proof.Tests

/-- The first window of a ninth slate. -/
def window : Nat := winNo 8 0

/-- The table entry of an operation on that window. -/
def recent : RotEntry := { srcUa := 1, host := 1, window := window, nonce := 1, gen := 3, done := none, arrival := 0, horizon := 5 }

/-- Nine slates, of which the ninth defines the window and has run an operation on it. -/
def nine : State :=
  { unit 9 with windows := [(window, { base := 0x400000000, pages := 4, gen := 3, since := 0 })], rot := [(8, [(0, recent)])] }

/-- W_OP 3 of the window trims the table of slate 0, which is what the window's number says. -/
theorem destroy_keeps_recent :
    (match exec (.windowDestroy 8 0) nine with
      | .next u => rotOf u 8
      | _ => []) = [(0, recent)] := by decide +kernel

/-- Refutes O54: nothing in it says that the unit has at most eight slates. W_OP 3 on a ninth one leaves the window's recent
operation in that slate's table; with two, four or eight slates the number names the slate that holds the table. -/
theorem not_keyQueueWindowOps : ¬ Obligations.KeyQueueWindowOps := by
  unfold Obligations.KeyQueueWindowOps
  intro h
  obtain ⟨-, -, -, -, -, -, -, -, -, -, windows⟩ := h nine 8 0 (by decide +kernel) (by decide +kernel)
  obtain ⟨-, destroy⟩ := windows ((windowOf nine window).get (by decide +kernel)) (by decide +kernel)
  obtain ⟨u, hu, -, -, dropped, -⟩ := destroy (by decide +kernel)
  have kept := destroy_keeps_recent
  rw [hu] at kept
  exact dropped (0, recent) (by rw [show rotOf u 8 = _ from kept]; exact List.mem_singleton_self _) (by decide)

end Sys2Proof.NinthSlate
end

section
/-! A table of queues out of order gains a second entry for a queue whose context is used, and the commands of that queue then count
twice against the limit of R141. -/

namespace Sys2Proof.DisorderedQueues

open Sys2Proof Sys2Proof.Machine Sys2Proof.Tests Sys2Proof.Reporting Sys2Proof.Stillness Sys2Proof.IngressOrder Sys2Proof.InboundBytes
open Sys2Proof.IngressAnswers

/-! ### The commands in flight -/

/-- A queue of which every tag is HELD, `n` of them. -/
def crowd (n : Nat) : Queue := { qA with tags := List.replicate n (0, CommandAdmission.tg0) }

/-- The queue of the COMMAND: its tag 2 is HELD, its tag 1 empty. -/
def queue : Queue := { qA with tags := [(2, CommandAdmission.tg0)] }

/-- Queue 7 stands before queue 5. -/
def disordered : State := { CommandAdmission.sT queue with queues := [(7, crowd 65534), (5, queue)] }

theorem tabCount_crowd (n : Nat) : tabCount (crowd n).tags tagBusy = n := by
  simp only [tabCount, crowd]
  rw [List.filter_replicate, if_pos (by decide), List.length_replicate]

theorem inFlight_disordered : inFlight disordered 0 = 65535 := by
  have h5 : tabCount queue.tags tagBusy = 1 := by decide
  simp only [inFlight, disordered, List.foldl_cons, List.foldl_nil, tabCount_crowd, h5, show hqSlate 7 = 0 from rfl,
    show hqSlate 5 = 0 from rfl, if_true]

/-! ### The COMMAND -/

/-- A COMMAND for tag 1 of queue 5. -/
def command : Datagram := CommandAdmission.d0

theorem reaches : Reaches disordered command kA queue := reaches_of (by decide +kernel)

/-- Its context is used through a second entry, before the first. -/
theorem queues_judged : ∃ r t, (judged disordered command kA).queues =
    [(5, { queue with ret := r, lastTb := t }), (7, crowd 65534), (5, queue)] := by
  obtain ⟨a, ha⟩ := noteSource_eq disordered (opened kA command)
  unfold judged
  rw [ha]
  obtain ⟨c, hc⟩ := referenced_eq (modQueue { disordered with ready := a } (dgNumber command) fun q =>
    { q with ret := some { source := command.source, ipv4 := command.ipv4, port := command.port } }) (dgNumber command)
  rw [hc]
  exact ⟨_, _, rfl⟩

theorem inFlight_judged : inFlight (judged disordered command kA) 0 = 65536 := by
  obtain ⟨r, t, hq⟩ := queues_judged
  have h5 : tabCount queue.tags tagBusy = 1 := by decide
  simp only [inFlight, hq, List.foldl_cons, List.foldl_nil, tabCount_crowd, h5, show hqSlate 7 = 0 from rfl,
    show hqSlate 5 = 0 from rfl, if_true]

/-- A COMMAND for an empty tag, where the slate has no room for one more (R141 step 4). -/
theorem admitCommand_crowded {s : State} {p : Parked} {q : Queue} {t : Tag} (h : queueAt s p.hq = some q) (armed : q.armed = true)
    (new : q.resetNonce.toNat < p.dg.nonce.toNat) (tag : tagAt q (p.dg.hqTag.toNat % 32) = t) (last : t.last = none) (bar : t.bar = none)
    (idle : tagBusy t = false) (full : 65536 ≤ inFlight s (hqSlate p.hq)) (supplied : Bool) :
    admitCommand s p supplied = sendBusy s p.dg.port p.dg St.busyRetry 10 := by
  unfold admitCommand
  dsimp only
  rw [h]
  simp only [armed, tag, last, bar, idle, Nat.not_le.2 new, full, if_true, if_false, Bool.not_true, Bool.false_eq_true, reduceCtorEq]

theorem passCommand_ordinary {d : Datagram} (h : d.cls ≠ 7) (s : State) (k : KeyEntry) : passCommand s d k = handOver s .command d k := by
  simp [passCommand, h]

theorem exec_command_busy : exec (.command command) disordered =
    .next (sendBusy (judged disordered command kA) 0 (opened kA command) St.busyRetry 10) := by
  obtain ⟨r, t, hq⟩ := queueAt_judged (k := kA) reaches.queue
  rw [exec_command reaches.proved.serves, ingress_reaches reaches (by decide +kernel) (by decide +kernel),
    passCommand_ordinary (by decide), handOver_reaches reaches]
  exact congrArg _ (admitCommand_crowded (p := parcel disordered .command command kA) hq rfl
    (show queue.resetNonce.toNat < (opened kA command).nonce.toNat by decide) (show _ = tagEmpty from rfl) rfl rfl rfl inFlight_judged.ge false)

/-- Refutes O33: it does not ask that the table of queues is in order. Where it is not, 65535 commands in flight become 65536 when the
context of the COMMAND's queue is used, and the COMMAND is answered BUSY_RETRY instead of HELD; with the table in order they
stay 65535. -/
theorem not_commandAdmission : ¬ Obligations.CommandAdmission := by
  unfold Obligations.CommandAdmission
  intro h
  obtain ⟨-, -, -, first⟩ := h disordered command kA queue reaches (by decide +kernel) (by decide +kernel) (by decide +kernel)
    (by decide +kernel) (by decide +kernel) (by decide +kernel) (fun h => absurd h (by decide +kernel)) (by decide +kernel)
    (by decide +kernel) (inFlight_disordered.trans_lt (by decide)) (uncounted_of (by decide +kernel)) (canSend_of (by decide +kernel))
    (by decide +kernel)
  obtain ⟨-, -, held⟩ := first (by decide +kernel) (unbarred (by decide +kernel) (by decide +kernel) (by decide +kernel))
    (by decide +kernel)
  obtain ⟨u, hu, ⟨q', c, hq', st, -⟩, -⟩ := held (by decide +kernel) (by decide +kernel) (by decide +kernel)
  obtain ⟨r, t, hq⟩ := queueAt_judged (k := kA) reaches.queue
  have sent := Host.Outcome.next.inj (exec_command_busy.symm.trans hu)
  have still := still_of_reports (sendBusy_reports (judged disordered command kA) 0 (opened kA command) St.busyRetry 10)
  rw [sent] at still
  have same := Option.some.inj (hq'.symm.trans ((congrArg (tabGet · (dgNumber command)) (queues_of_still still)).trans hq))
  rw [same] at st
  exact absurd st (show tagEmpty.st ≠ .held by decide)

end Sys2Proof.DisorderedQueues
end

section
/-! HDRM_DROPS stands in one entry with the counters of other discards (R235, R240). What follows a discarded frame, the hit of HDRM_OVF
with its EVENTs among it, counts in those, and leaves HDRM_DROPS. -/

namespace Sys2Proof.HeadroomDrops

open Sys2Proof Sys2Proof.Machine Sys2Proof.Reporting

/-- HDRM_DROPS of every slate reads in `t` as in `s`. -/
structure Spares (s t : State) : Prop where
  reads : ∀ sl, getF t sl F.SWITCH.HDRM_DROPS = getF s sl F.SWITCH.HDRM_DROPS

/-- A field that stands apart from HDRM_DROPS. -/
abbrev Apart (f : Fld) : Prop := f.sp < 32 ∧ f.e < 4096 ∧ f.lo + f.w ≤ 64 ∧ (f.sp ≠ 4 ∨ f.e ≠ 5 ∨ 16 ≤ f.lo)

namespace Spares

theorem refl (s : State) : Spares s s := ⟨fun _ => rfl⟩

theorem trans {s t u : State} (h : Spares s t) (h' : Spares t u) : Spares s u := ⟨fun sl => (h'.reads sl).trans (h.reads sl)⟩

theorem of_ctl {s t : State} (hc : t.ctl = s.ctl) (hn : t.n = s.n) : Spares s t := ⟨fun _ => getF_congr hc hn _ _⟩

/-- A change outside control space goes before. -/
theorem after {s t u : State} (h : Spares t u) (hc : t.ctl = s.ctl) (hn : t.n = s.n) : Spares s u := (of_ctl hc hn).trans h

theorem ite {c : Prop} [Decidable c] {s a b : State} (ha : Spares s a) (hb : Spares s b) : Spares s (if c then a else b) := by
  split
  · exact ha
  · exact hb

theorem fold {α β : Type} {p : β → State} {f : β → α → β} (l : List α) (b : β) (h : ∀ b, ∀ a ∈ l, Spares (p b) (p (f b a))) :
    Spares (p b) (p (l.foldl f b)) := by
  induction l generalizing b with
  | nil => exact .refl _
  | cons a l ih => exact (h b a (.head _)).trans (ih _ fun b a ha => h b a (.tail _ ha))

theorem foldl {α : Type} {f : State → α → State} (l : List α) (s : State) (h : ∀ s a, Spares s (f s a)) : Spares s (l.foldl f s) :=
  fold (p := id) l s fun s a _ => h s a

end Spares

open Spares (of_ctl)

theorem setF_spares {f : Fld} (h : Apart f) (s : State) (sl v : Nat) : Spares s (setF s sl f v) := by
  obtain ⟨hs, he, hw, hd⟩ := h
  refine ⟨fun sl' => ?_⟩
  by_cases hk : f.sp = 4 ∧ f.e = 5
  · have hlo : 16 ≤ f.lo := by tauto
    exact getF_setF_apart ⟨hs, he⟩ (by decide) hw v (.inl hlo)
  · exact getF_setF_ne ⟨hs, he⟩ v (by decide) fun _ h4 h5 => hk ⟨h4.symm, h5.symm⟩

theorem bump_spares {f : Fld} (h : Apart f) (s : State) (sl k : Nat) : Spares s (bump s sl f k) := setF_spares h s sl _

/-! ### The switch core -/

theorem updatePause_spares (s : State) (sl : Nat) : Spares s (updatePause s sl) := of_ctl rfl rfl

theorem updatePeak_spares (s : State) (sl : Nat) : Spares s (updatePeak s sl) :=
  (setF_spares (by decide) s sl _).trans (updatePause_spares _ sl)

theorem settleCopy_spares (s : State) (g : Option Nat) (sl : Nat) (ok : Bool) : Spares s (settleCopy s g sl ok) := by
  unfold settleCopy
  split
  · exact .refl s
  · split
    · exact .refl s
    · exact of_ctl rfl rfl

/-- The counters of a copy that is not queued (R235, R237). -/
theorem discardCount_apart (s : State) (sl c m : Nat) (o : Nat × Nat) :
    Apart (if m ≠ 0 then F.SWITCH.MC_DISCARDS else (netBlocked s sl o c).getD F.SWITCH.LINKDOWN_DROPS) := by
  unfold netBlocked
  repeat' split
  all_goals decide

theorem joinQueue_spares (s : State) (sl p sub c id : Nat) : Spares s (joinQueue s sl p sub c id) := of_ctl rfl rfl

theorem queueFrame_spares (s : State) (id : Nat) : Spares s (queueFrame s id) := by
  unfold queueFrame
  split
  · exact .refl s
  refine .ite (.refl s) ?_
  extract_lets bad good u v
  have hu : Spares s u := .foldl bad s fun s o => (bump_spares (discardCount_apart ..) ..).trans (settleCopy_spares ..)
  have hv : Spares u v := of_ctl rfl rfl
  clear_value u v
  exact hu.trans (.ite (of_ctl rfl rfl) (hv.trans (.foldl good v fun s o => joinQueue_spares ..)))

theorem bufferFrame_spares (s : State) (f : Frame) : Spares s (bufferFrame s f) :=
  ((queueFrame_spares (addFrame s f).1 _).trans (updatePeak_spares ..)).after rfl rfl

theorem mcastAlone_spares (s : State) (f : Frame) (x : Nat) : Spares s (mcastAlone s f x) := by
  unfold mcastAlone
  split
  · exact (bump_spares (by decide) ..).trans (settleCopy_spares ..)
  · exact bufferFrame_spares ..

theorem mcastArrive_spares (s : State) (f : Frame) : Spares s (mcastArrive s f) := by
  unfold mcastArrive
  extract_lets hops outs cut loc u
  have hu : Spares s u := .ite (.refl s) (bufferFrame_spares ..)
  exact hu.trans (.foldl cut u fun s p => .foldl _ s fun s x => mcastAlone_spares ..)

theorem enterFrame_spares (s : State) (f : Frame) : Spares s (enterFrame s f) := by
  have multicast : Spares s (sendMulticast s f) := (mcastArrive_spares ..).after rfl rfl
  unfold enterFrame
  refine .ite multicast (.ite (bump_spares (by decide) ..) ?_)
  split
  · exact bump_spares (by decide) ..
  · exact bufferFrame_spares ..

theorem admitInternal_spares (s : State) (f : Frame) : Spares s (admitInternal s f) :=
  .ite (of_ctl rfl rfl) (enterFrame_spares s f)

/-! ### Events and detectors -/

theorem sendRaw_spares (s : State) (d : OutDatagram) (job : Option Nat) : Spares s (sendRaw s d job).1 := by
  unfold sendRaw
  extract_lets d'
  split
  · exact admitInternal_spares ..
  split
  · dsimp only
    split
    · exact .refl s
    · exact (admitInternal_spares ..).after rfl rfl
  · exact admitInternal_spares ..

theorem offerFirst_spares (s : State) (sl k : Nat) {sp : Nat} (h : sp < 32) (inj : Bool) (detail : List Word) :
    Spares s (offerFirst s sl sp k inj detail).1 := by
  have capture (f : Fld) (hf : f.sp = sp ∧ f.e = 0xF03 ∧ f.lo + f.w ≤ 64) (s : State) (v : Nat) : Spares s (setF s sl f v) :=
    setF_spares ⟨by omega, by omega, hf.2.2, .inr (.inl (by omega))⟩ s sl v
  unfold offerFirst
  extract_lets held take s1 s2 s3 s4 s5
  split
  · have h5 : Spares s s5 :=
      ((((capture _ ⟨rfl, rfl, Nat.le_of_ble_eq_true rfl⟩ s _).trans (capture _ ⟨rfl, rfl, Nat.le_of_ble_eq_true rfl⟩ s1 _)).trans
        (capture _ ⟨rfl, rfl, Nat.le_of_ble_eq_true rfl⟩ s2 _)).trans (capture _ ⟨rfl, rfl, Nat.le_of_ble_eq_true rfl⟩ s3 _)).trans
        (capture _ ⟨rfl, rfl, Nat.le_of_ble_eq_true rfl⟩ s4 _)
    refine h5.trans (.fold (p := id) _ s5 fun s i hi => setF_spares ⟨h, ?_, Nat.le_of_ble_eq_true rfl, .inr (.inl ?_)⟩ s sl _)
    all_goals
      have := List.mem_range.1 hi
      simp only [F.DETAIL]
      omega
  · exact capture _ ⟨rfl, rfl, Nat.le_of_ble_eq_true rfl⟩ s 1

theorem evPend_spares (s : State) (x : Tab Occurrence) : Spares s { s with evPend := x } := of_ctl rfl rfl

theorem evFwd_spares (s : State) (x : Tab EvFwd) : Spares s { s with evFwd := x } := of_ctl rfl rfl

theorem pendEvent_spares (s : State) (sl : Nat) {e : Nat} (h : e < 2048) : Spares s (pendEvent s sl e).1 := by
  obtain ⟨hs, he, hw⟩ := fPend_inSpace h
  have pend : Spares s (setF s sl (fPend e) 1) := setF_spares ⟨hs, he, hw, .inl (by simp [fPend, F.ENGINE.PEND])⟩ s sl 1
  unfold pendEvent
  split <;> dsimp only
  · exact bump_spares (by decide) ..
  · exact pend.trans (evPend_spares _ _)

theorem forwardOne_spares (s : State) (sl i : Nat) (payload : Block) : Spares s (forwardOne s sl i payload).1 := by
  unfold forwardOne
  split
  · exact .refl s
  extract_lets r t hq gap near src drop
  have hd : Spares s drop := (bump_spares (by decide) s sl 1).trans (evFwd_spares src _)
  clear_value drop
  split
  · exact hd
  split
  · exact hd
  split
  · exact hd
  · exact (evFwd_spares s _).trans (sendRaw_spares ..)

theorem occur_spares (s : State) (sl : Nat) {e : Nat} (h : e < 2048) (inj captured : Bool) : Spares s (occur s sl e inj captured).1 := by
  have hp := pendEvent_spares s sl h
  unfold occur
  dsimp only
  split
  · exact hp.trans (.fold (p := Prod.fst) (List.range 16) ((pendEvent s sl e).1, []) fun p i _ => forwardOne_spares p.1 sl i _)
  · exact hp

theorem recordHit_spares (s : State) (sl : Nat) {sp k : Nat} (hs : sp < 32) (he : eventNo sp k < 2048) (inj : Bool) (detail : List Word) :
    Spares s (recordHit s sl sp k inj detail).1 := by
  obtain ⟨⟨h1, h2⟩, h3⟩ := statOf_inSpace inj hs
  have h4 : (statOf inj sp).e ≠ 5 := by cases inj <;> simp [statOf, F.STAT_INJ, F.STAT_REAL]
  unfold recordHit
  extract_lets e c f s1 s2
  have hs1 : Spares s s1 := setF_spares (f := statOf inj sp) ⟨h1, h2, h3, .inr (.inl h4)⟩ s sl _
  have hs2 : Spares s1 s2 := .ite (.refl _) (.ite (bump_spares (by decide) ..) (.ite (bump_spares (by decide) ..)
    (.ite (bump_spares (by decide) ..) (.refl _))))
  clear_value s1 s2
  refine (hs1.trans hs2).trans ?_
  split
  · exact .refl s2
  · dsimp only
    refine (offerFirst_spares s2 sl k hs inj detail).trans ((occur_spares _ sl he inj _).trans (.ite ?_ (.refl _)))
    exact (bump_spares (by decide) ..).after rfl rfl

theorem reportSpent_spares (n : Nat) (s : State) (l : List Nat) : Spares s (reportSpent n s l) := by
  induction n generalizing s l with
  | zero => exact .refl s
  | succ n ih =>
    cases l with
    | nil => exact .refl s
    | cons sl r => exact (recordHit_spares s sl (by decide) (by decide) false []).trans (ih _ _)

theorem recordDet_spares (s : State) (sl : Nat) {e : Nat} (h : e < 2048) (inj : Bool) (detail : List Word) :
    Spares s (recordDet s sl (e / 64) (e % 64) inj detail) :=
  (recordHit_spares s sl (by omega) (by rwa [eventNo_div_mod]) inj detail).trans (reportSpent_spares ..)

end Sys2Proof.HeadroomDrops
end

section
/-! A frame that completes at an ingress port of a switch core: the checks of R224, R225 and R234 to R236, and what enters the buffer (R226, R231). -/

namespace Sys2Proof.Arrivals

open Sys2Proof Sys2Proof.Machine Sys2Proof.Reporting Sys2Proof.SwitchCompletion Sys2Proof.Sending Sys2Proof.HeadroomDrops

/-! ### Detectors with no shadow open (R325) -/

section Quiet

variable {s : State} (quiet : s.pin.shadows = [])

include quiet

theorem detectAt_quiet (sl e arg : Nat) (detail : List Word) : detectAt s sl e arg detail = recordDet s sl (e / 64) (e % 64) false detail := by
  simp [detectAt, heldOff, quiet]

theorem detectAt_detected (sl : Nat) {e : Nat} (h : e < 2048 ∧ e % 64 < 32) (arg : Nat) (detail : List Word) :
    Detected (detectAt s sl e arg detail) sl e := by
  obtain ⟨he, hk⟩ := h
  have after := (recordHit_after_stat s sl (sp := e / 64) (k := e % 64) (by omega) (by rwa [eventNo_div_mod]) false detail).trans
    (reportSpent_reports (recordHit s sl (e / 64) (e % 64) false detail).1.keys.length _ (recordHit s sl (e / 64) (e % 64) false detail).2)
  rw [detectAt_quiet quiet]
  exact after.stat sl e he (detected_setF_stat s sl he hk)

end Quiet

/-! ### The ports (R224) -/

section Ports

variable {s : State} {f : FrameIn} (serves : serving s f.slate = true)

/-- A frame as long as R224 allows, from a port that is, for a slate that is. -/
def Sized (s : State) (f : FrameIn) : Prop := f.bytes ≤ 9238 ∧ f.port ≤ 14 ∧ f.dst < s.n

/-- The sub-port on which a network frame arrives has its link up. -/
def Linked (s : State) (f : FrameIn) : Prop := bitOf (getF s f.slate F.PORT.LINK_UP) f.sub = true

include serves

theorem exec_unsized (h : ¬ Sized s f) : exec (.frameArrival f) s = .next s := by
  have bad : (decide (9238 < f.bytes) || decide (14 < f.port) || decide (s.n ≤ f.dst)) = true := by
    simp only [Sized] at h
    simp only [Bool.or_eq_true, decide_eq_true_eq]
    omega
  refine (rfl : _ = execFrameArrival f s).trans ((onSlate_serving _ serves).trans ?_)
  simp only [bad, if_true]

variable (sized : Sized s f)

include sized

/-- The port decides who takes the frame. -/
theorem exec_sized : exec (.frameArrival f) s = .next (if f.port = 0 then (if bitOf (getF s f.slate F.PORT.LINK_UP) f.sub then netArrival s f else s)
    else if portKind f.port = 3 then fabricArrival s f
    else if !frameFits f (f.pcp % 8) || (f.port = 14 && 2 ≤ f.slate) then s
    else admitInternal s (arrivedFrame s f (f.pcp % 8))) := by
  have good : (decide (9238 < f.bytes) || decide (14 < f.port) || decide (s.n ≤ f.dst)) = false := by
    obtain ⟨h1, h2, h3⟩ := sized
    simp only [Bool.or_eq_false_iff, decide_eq_false_iff_not]
    omega
  refine (rfl : _ = execFrameArrival f s).trans ((onSlate_serving _ serves).trans ?_)
  simp only [good, Bool.false_eq_true, if_false]

theorem exec_net (port : f.port = 0) (up : Linked s f) : exec (.frameArrival f) s = .next (netArrival s f) := by
  exact (exec_sized serves sized).trans (congrArg _ ((if_pos port).trans (if_pos up)))

theorem exec_unlinked (port : f.port = 0) (down : ¬ Linked s f) : exec (.frameArrival f) s = .next s := by
  exact (exec_sized serves sized).trans (congrArg _ ((if_pos port).trans (if_neg down)))

theorem exec_fabric (port : 10 ≤ f.port ∧ f.port ≤ 13) : exec (.frameArrival f) s = .next (fabricArrival s f) := by
  have kind : portKind f.port = 3 := by
    simp only [portKind]
    split_ifs <;> omega
  rw [exec_sized serves sized, if_neg (by omega), if_pos kind]

variable (port : 1 ≤ f.port ∧ (f.port ≤ 9 ∨ (f.port = 14 ∧ f.slate < 2)))

include port

theorem exec_inner : exec (.frameArrival f) s = .next (if frameFits f (f.pcp % 8) then admitInternal s (arrivedFrame s f (f.pcp % 8)) else s) := by
  have kind : portKind f.port ≠ 3 := by
    simp only [portKind]
    split_ifs <;> omega
  have there : (decide (f.port = 14) && decide (2 ≤ f.slate)) = false := by
    simp only [Bool.and_eq_false_iff, decide_eq_false_iff_not]
    omega
  rw [exec_sized serves sized, if_neg (by omega), if_neg kind, there, Bool.or_false]
  cases frameFits f (f.pcp % 8) <;> rfl

end Ports

/-! ### What the buffer holds (R226) -/

/-- The buffer of the slate holds the frame under the next number, on a path and in the queue that the path begins with. -/
def Holds (s : State) (f : FrameIn) (c : Nat) (p : List (Nat × Nat)) (lane : Nat) (u : State) : Prop :=
  ∃ x, tabGet u.frames s.nextFrame = some x ∧ x.slate = f.slate ∧ x.inPort = f.port ∧ x.cls = c ∧ x.bytes = f.bytes ∧ x.dst = f.dst ∧
    x.path = p ∧ x.lane = lane ∧ x.stalled = false ∧ x.outs = [match p with | (_, l) :: _ => (10 + l, 0) | [] => (f.dstPort, f.dstSub)]

/-- A frame that leaves no slate by its network port leaves by an output that never refuses one (R235). -/
theorem nextOut_inner {x : Frame} (h : x.path ≠ [] ∨ x.dstPort ≠ 0) : (nextOut x).1 ≠ 0 := by
  unfold nextOut
  cases hp : x.path with
  | nil => exact h.resolve_left (by simp [hp])
  | cons a r => exact Nat.ne_of_gt (by dsimp only; omega)

theorem nextOut_eq (x : Frame) : nextOut x = match x.path with | (_, l) :: _ => (10 + l, 0) | [] => (x.dstPort, x.dstSub) := by
  unfold nextOut
  cases x.path <;> rfl

theorem bufferFrame_inner {s : State} {x : Frame} (ho : x.outs = [nextOut x]) (h : x.path ≠ [] ∨ x.dstPort ≠ 0) :
    tabGet (bufferFrame s x).frames s.nextFrame = some x := by
  refine bufferFrame_holds (by simp [ho]) fun o hm => ?_
  rw [ho, List.mem_singleton] at hm
  exact netBlocked_inner _ _ (hm ▸ nextOut_inner h) _

section Enter

variable {s : State} {f : FrameIn} {c : Nat} {p : List (Nat × Nat)} {lane : Nat} (copies : f.copies = 0)

include copies

/-- A frame for one slate that can be reached enters on its path (R226). -/
theorem enterFrame_arrived (reach : serving s f.dst = true) (hp : pathOf s f.slate f.dst (flowHash (flowKey c f.home f.dst f.kind f.ident)
      (getF s f.slate F.SWITCH.FLOW_SEED)) = some (p, lane)) (inner : p ≠ [] ∨ f.dstPort ≠ 0) (head : Nat) :
    Holds s f c p lane (enterFrame s { arrivedFrame s f c with head := head }) := by
  obtain ⟨w, hl⟩ := lookup_of_path (f := { arrivedFrame s f c with head := head }) hp
  rw [enterFrame_unicast (f := { arrivedFrame s f c with head := head }) copies (lost_of_serving reach) hl]
  refine ⟨_, bufferFrame_inner rfl inner, rfl, rfl, rfl, rfl, rfl, rfl, rfl, rfl, ?_⟩
  cases p <;> rfl

end Enter

/-! ### The network port (R125, R234, R236) -/

section Net

variable {s : State} {f : FrameIn} (uncounted : Uncounted s f.slate)

include uncounted

theorem netArrival_corrupt (h : f.checkOk = false) : netArrival s f = detectAt s f.slate Ev.FEC_UNCORR f.sub [] := by
  unfold netArrival
  dsimp only
  rw [Housekeeping.countSrc_uncounted uncounted, h]
  simp only [Bool.not_false, if_true]

/-- No policer of the class judges the frame (R256). -/
def Unpoliced (s : State) (f : FrameIn) (c : Nat) : Prop := f.exempt = true ∨ polClass c = false ∨ isF s f.slate (F.SCHED.POL_EN c) = false

/-- The headroom has no room for the part of the frame above its limit (R234). -/
def HeadroomFull (s : State) (f : FrameIn) (c : Nat) : Prop :=
  16 * getF s f.slate F.SWITCH.HDRM < headCells s f.slate c + (cellsOf f.bytes - cellRoom s f.slate 0 c)

variable (intact : f.checkOk = true) (free : Unpoliced s f (netClass s f))

include intact free

theorem netArrival_judged : netArrival s f =
    if !lossless (netClass s f) then bump s f.slate F.XPORT.CLASS_DROP
    else if !frameFits f (netClass s f) then s
    else if 16 * getF s f.slate F.SWITCH.HDRM < headCells s f.slate (netClass s f) + (cellsOf f.bytes - cellRoom s f.slate 0 (netClass s f)) then
      detectAt (bump s f.slate F.SWITCH.HDRM_DROPS) f.slate Ev.HDRM_OVF 0 (portClass 0 (netClass s f))
    else enterFrame s { arrivedFrame s f (netClass s f) with head := cellsOf f.bytes - cellRoom s f.slate 0 (netClass s f) } := by
  have pass : (if f.exempt then (s, true) else police s f.slate (netClass s f) f.bytes f.sof) = (s, true) := by
    rcases free with h | h | h <;> simp [police, h]
  unfold netArrival
  dsimp only
  rw [Housekeeping.countSrc_uncounted uncounted, intact, pass]
  simp only [Bool.not_true, Bool.false_eq_true, if_false]


theorem netArrival_dropped (h : lossless (netClass s f) = false) : netArrival s f = bump s f.slate F.XPORT.CLASS_DROP := by
  rw [netArrival_judged uncounted intact free, h]
  exact if_pos rfl

theorem netArrival_misfit (carried : lossless (netClass s f) = true) (h : frameFits f (netClass s f) = false) : netArrival s f = s := by
  rw [netArrival_judged uncounted intact free, carried, h]
  exact (if_neg (by decide)).trans (if_pos rfl)

section Lossless

variable (carried : lossless (netClass s f) = true) (fits : frameFits f (netClass s f) = true)

include carried fits

theorem netArrival_full (full : HeadroomFull s f (netClass s f)) :
    netArrival s f = detectAt (bump s f.slate F.SWITCH.HDRM_DROPS) f.slate Ev.HDRM_OVF 0 (portClass 0 (netClass s f)) := by
  rw [netArrival_judged uncounted intact free, carried, fits]
  exact if_pos full

theorem netArrival_enters (room : ¬ HeadroomFull s f (netClass s f)) : netArrival s f =
    enterFrame s { arrivedFrame s f (netClass s f) with head := cellsOf f.bytes - cellRoom s f.slate 0 (netClass s f) } := by
  rw [netArrival_judged uncounted intact free, carried, fits]
  exact if_neg room

end Lossless

end Net

/-- A discard for want of headroom is counted once, whatever its EVENTs count (R235, R240). -/
theorem headroom_counted {s : State} (quiet : s.pin.shadows = []) (sl : Nat) (detail : List Word) :
    let u := detectAt (bump s sl F.SWITCH.HDRM_DROPS) sl Ev.HDRM_OVF 0 detail
    Counted s u sl F.SWITCH.HDRM_DROPS ∧ Detected u sl Ev.HDRM_OVF := by
  have quiet' : (bump s sl F.SWITCH.HDRM_DROPS).pin.shadows = [] := by rw [bump_pin]; exact quiet
  refine ⟨?_, detectAt_detected quiet' sl (by decide) 0 detail⟩
  have spared := recordDet_spares (bump s sl F.SWITCH.HDRM_DROPS) sl (e := Ev.HDRM_OVF) (by decide) false detail
  unfold Counted
  rw [detectAt_quiet quiet', spared.reads, getF_bump_self _ _ _ _ (by decide)]

/-! ### A fabric port (R226, R230) -/

theorem linkUp_of_reports {s t : State} (h : Reports s t) (sl l : Nat) : linkUp t sl l = linkUp s sl l := by
  have links : t.links = s.links := (congrArg State.links h.steady :)
  have lost : t.lost = s.lost := (congrArg State.lost h.steady :)
  have mod : t.mod = s.mod := (congrArg State.mod h.steady :)
  simp only [linkUp, linkOf, serving, links, lost, mod, h.n]

/-- A frame all of whose links are up keeps its path (R230). -/
theorem repathFrame_up {t : State} {id : Nat} {x : Frame} (hx : tabGet t.frames id = some x) (h : ∀ a ∈ x.path, linkUp t a.1 a.2 = true) :
    repathFrame t id = t := by
  have up : (x.path.all fun a => linkUp t a.1 a.2) = true := List.all_eq_true.2 h
  unfold repathFrame
  rw [hx]
  exact if_pos up

/-- A check that fails is a retry of the link (R224). -/
theorem retry_counted {s : State} (quiet : s.pin.shadows = []) (sl l arg : Nat) (hl : l < 4) (detail : List Word) :
    let u := detectAt (bump s sl (F.FABRIC.RETRIES l)) sl Ev.FLINK_RETRY arg detail
    Counted s u sl (F.FABRIC.RETRIES l) ∧ Detected u sl Ev.FLINK_RETRY := by
  have quiet' : (bump s sl (F.FABRIC.RETRIES l)).pin.shadows = [] := by rw [bump_pin]; exact quiet
  refine ⟨?_, detectAt_detected quiet' sl (by decide) arg detail⟩
  have reports := detectAt_reports (bump s sl (F.FABRIC.RETRIES l)) sl (e := Ev.FLINK_RETRY) (by decide) arg detail
  have apart : (F.FABRIC.RETRIES l).sp < 32 ∧ (F.FABRIC.RETRIES l).e < 4096 ∧ noted (F.FABRIC.RETRIES l).sp (F.FABRIC.RETRIES l).e = false ∧
      (F.FABRIC.RETRIES l).lo + (F.FABRIC.RETRIES l).w ≤ 64 := by interval_cases l <;> decide
  obtain ⟨h1, h2, h3, h4⟩ := apart
  unfold Counted
  rw [reports.getF ⟨h1, h2, h3⟩, getF_bump_self _ _ _ _ h4]

section Fabric

variable {s : State} {f : FrameIn} (link : linkUp s f.slate (f.port - 10) = true) (fits : frameFits f (f.pcp % 8) = true)

theorem fabricArrival_barred (h : linkUp s f.slate (f.port - 10) = false ∨ frameFits f (f.pcp % 8) = false) : fabricArrival s f = s := by
  have barred : (!linkUp s f.slate (f.port - 10) || !frameFits f (f.pcp % 8)) = true := by rcases h with h | h <;> simp [h]
  exact if_pos barred

include link fits

theorem fabricArrival_judged : fabricArrival s f =
    if !f.checkOk then detectAt (bump s f.slate (F.FABRIC.RETRIES (f.port - 10))) f.slate Ev.FLINK_RETRY (f.port - 10) []
    else if !laneCredit s f.slate f.port (f.pcp % 8) f.lane (cellsOf f.bytes) then s
    else if f.copies ≠ 0 then mcastArrive s (arrivedFrame s f (f.pcp % 8))
    else if tabHas s.lost f.dst then bump s f.slate F.SWITCH.LOST_DEST_DROPS
    else if !leadsTo s.n f.slate f.dst f.path then s
    else
      let x := { arrivedFrame s f (f.pcp % 8) with path := f.path, lane := f.lane }
      repathFrame (bufferFrame s { x with outs := [nextOut x] }) s.nextFrame := by
  have taken : ¬ (!linkUp s f.slate (f.port - 10) || !frameFits f (f.pcp % 8)) = true := by simp [link, fits]
  exact if_neg taken


theorem fabricArrival_corrupt (h : f.checkOk = false) : fabricArrival s f =
    detectAt (bump s f.slate (F.FABRIC.RETRIES (f.port - 10))) f.slate Ev.FLINK_RETRY (f.port - 10) [] := by
  rw [fabricArrival_judged link fits, h]
  exact if_pos rfl

section Credit

variable (intact : f.checkOk = true)

include intact

theorem fabricArrival_withheld (h : laneCredit s f.slate f.port (f.pcp % 8) f.lane (cellsOf f.bytes) = false) : fabricArrival s f = s := by
  rw [fabricArrival_judged link fits, intact, h]
  rfl

variable (credit : laneCredit s f.slate f.port (f.pcp % 8) f.lane (cellsOf f.bytes) = true) (copies : f.copies = 0)
  (reach : serving s f.dst = true)

include credit copies reach

theorem fabricArrival_pathless (h : leadsTo s.n f.slate f.dst f.path = false) : fabricArrival s f = s := by
  rw [fabricArrival_judged link fits, intact, credit, copies, lost_of_serving reach, h]
  rfl

/-- A frame with a path whose links are up enters with it (R226). -/
theorem fabricArrival_holds (leads : leadsTo s.n f.slate f.dst f.path = true) (up : ∀ h ∈ f.path, linkUp s h.1 h.2 = true)
    (inner : f.path ≠ [] ∨ f.dstPort ≠ 0) : Holds s f (f.pcp % 8) f.path f.lane (fabricArrival s f) := by
  let x : Frame := { arrivedFrame s f (f.pcp % 8) with path := f.path, lane := f.lane }
  have held := bufferFrame_inner (s := s) (x := { x with outs := [nextOut x] }) rfl inner
  have kept := repathFrame_up held fun a ha => (linkUp_of_reports (bufferFrame_reports ..) a.1 a.2).trans (up a ha)
  rw [fabricArrival_judged link fits, intact, credit, copies, lost_of_serving reach, leads]
  refine ⟨_, (congrArg (fun t : State => tabGet t.frames s.nextFrame) kept).trans held, rfl, rfl, rfl, rfl, rfl, rfl, rfl, rfl,
    congrArg (fun o => [o]) (nextOut_eq x)⟩

end Credit

end Fabric

/-! ### An internal port (R231) -/

section Inner

variable {s : State} {f : FrameIn} {c : Nat}

/-- An earlier frame of the port and class stays in its block. -/
def Behind (s : State) (f : FrameIn) (c : Nat) : Prop :=
  ∃ x ∈ s.frames, x.1 < s.nextFrame ∧ x.2.stalled = true ∧ x.2.slate = f.slate ∧ x.2.inPort = f.port ∧ x.2.cls = c

theorem mustStall_arrived : mustStall s s.nextFrame (arrivedFrame s f c) = true ↔
    cellRoom s f.slate f.port c < cellsOf f.bytes ∨ Behind s f c := by
  have room : (!Machine.fits s f.slate f.port c (cellsOf f.bytes)) = true ↔ cellRoom s f.slate f.port c < cellsOf f.bytes := by
    rw [Machine.fits, Bool.not_eq_true', decide_eq_false_iff_not, Nat.not_le]
  refine Bool.or_eq_true_iff.trans (or_congr room ?_)
  simp [arrivedFrame, Behind, and_assoc]

theorem admitInternal_enters (h : ¬ (cellRoom s f.slate f.port c < cellsOf f.bytes ∨ Behind s f c)) :
    admitInternal s (arrivedFrame s f c) = enterFrame s (arrivedFrame s f c) := if_neg (mt mustStall_arrived.1 h)

/-- A frame that its block keeps. -/
def Stays (s : State) (f : FrameIn) (c : Nat) (u : State) : Prop :=
  ∃ x, tabGet u.frames s.nextFrame = some x ∧ x.stalled = true ∧ x.outs = [] ∧ x.slate = f.slate ∧ x.inPort = f.port ∧ x.cls = c ∧
    x.bytes = f.bytes

theorem admitInternal_stays (h : cellRoom s f.slate f.port c < cellsOf f.bytes ∨ Behind s f c) :
    Stays s f c (admitInternal s (arrivedFrame s f c)) := by
  rw [admitInternal, if_pos (mustStall_arrived.2 h)]
  exact ⟨_, tabGet_tabPut_self .., rfl, rfl, rfl, rfl, rfl, rfl⟩

end Inner

/-! ### The statement -/

theorem lossless_iff (c : Nat) : lossless c = true ↔ c = 1 ∨ c = 2 ∨ c = 3 ∨ c = 7 := by
  simp only [lossless, Bool.or_eq_true, beq_iff_eq]
  tauto

/-- Settles O41: the network port, a fabric port and an internal one. -/
theorem frameArrival : Obligations.FrameArrival := by
  unfold Obligations.FrameArrival
  intro s f serves quiet uncounted sl none' up c b sized free holds enters
  refine ⟨exec_unsized serves, fun sized port => ⟨exec_unlinked serves sized port, fun up corrupt => ?_, fun up intact free => ⟨fun hc => ?_, fun hc => ?_⟩⟩,
    fun sized lo hi => ⟨fun barred => ?_, fun link fits => ⟨fun corrupt => ?_, fun intact credit => ?_, fun intact credit copies reach =>
      ⟨fun leads => ?_, fun leads up inner => ?_⟩⟩⟩,
    fun sized lo hi => ⟨fun misfit => ?_, fun fits room alone p lane hp reach copies inner => ?_, fun fits stays => ?_⟩⟩
  · refine ⟨_, exec_net serves sized port up, ?_⟩
    rw [netArrival_corrupt uncounted corrupt]
    exact detectAt_detected quiet sl (by decide) _ _
  · have other : lossless (netClass s f) = false := Bool.eq_false_iff.2 fun h => by
      have := (lossless_iff c).1 h
      omega
    exact (exec_net serves sized port up).trans (congrArg _ (netArrival_dropped uncounted intact free other))
  · have carried : lossless (netClass s f) = true := (lossless_iff c).2 hc
    refine ⟨fun misfit => ?_, fun fits full => ?_, fun fits room p lane hp reach copies inner => ?_⟩
    · exact (exec_net serves sized port up).trans (congrArg _ (netArrival_misfit uncounted intact free carried misfit))
    · refine ⟨_, exec_net serves sized port up, ?_⟩
      rw [netArrival_full uncounted intact free carried fits full]
      exact headroom_counted quiet sl _
    · refine ⟨_, exec_net serves sized port up, ?_⟩
      rw [netArrival_enters uncounted intact free carried fits room]
      exact enterFrame_arrived copies reach hp inner _
  · exact (exec_fabric serves sized ⟨lo, hi⟩).trans (congrArg _ (fabricArrival_barred barred))
  · refine ⟨_, exec_fabric serves sized ⟨lo, hi⟩, ?_⟩
    rw [fabricArrival_corrupt link fits corrupt]
    exact retry_counted quiet sl (f.port - 10) _ (by omega) _
  · exact (exec_fabric serves sized ⟨lo, hi⟩).trans (congrArg _ (fabricArrival_withheld link fits intact credit))
  · exact (exec_fabric serves sized ⟨lo, hi⟩).trans (congrArg _ (fabricArrival_pathless link fits intact credit copies reach leads))
  · exact ⟨_, exec_fabric serves sized ⟨lo, hi⟩, fabricArrival_holds link fits intact credit copies reach leads up inner⟩
  · exact (exec_inner serves sized ⟨lo, hi⟩).trans (congrArg _ (if_neg (Bool.eq_false_iff.1 misfit)))
  · refine ⟨_, (exec_inner serves sized ⟨lo, hi⟩).trans (congrArg _ (if_pos fits)), ?_⟩
    rw [admitInternal_enters (not_or.2 ⟨Nat.not_lt.2 room, alone⟩)]
    exact enterFrame_arrived copies reach hp inner 0
  · refine ⟨_, (exec_inner serves sized ⟨lo, hi⟩).trans (congrArg _ (if_pos fits)), ?_⟩
    exact admitInternal_stays stays

end Sys2Proof.Arrivals
end

section
/-! A queue reset by ABORT: what the outcomes leave of each tag, and the mask of those that have one (R142, R150, R152). -/

namespace Sys2Proof.QueueResets

open Sys2Proof Sys2Proof.Machine Sys2Proof.Reporting Sys2Proof.Stillness Sys2Proof.Answering Sys2Proof.IngressOrder Sys2Proof.InboundBytes
open Sys2Proof.FabricFrame (discardFrame_reports)

/-! ### A tag that is aborted (R142, R150) -/

/-- A tag whose command nothing can stop any more: neither HELD nor ACTIVE. -/
def Settled (t : Tag) : Prop := t.st ≠ .held ∧ t.st ≠ .active

theorem queueAt_endJob (s : State) (id : Nat) (r : Resp) (trap : Bool) (hq : Nat) : queueAt (endJob s id r trap) hq = queueAt s hq := by
  unfold endJob
  split <;> rfl

theorem still_dropData (s : State) (id : Nat) : still (dropData s id) = still s :=
  still_foldl _ s fun s id => still_of_reports (discardFrame_reports s id)

/-- To stop a job moves no queue (R150). -/
theorem queueAt_stopJob (s : State) (id hq : Nat) : queueAt (stopJob s id) hq = queueAt s hq := by
  unfold stopJob
  split
  · rfl
  next j _ =>
    refine (queueAt_of_still (still_dropData _ id) hq).trans (.trans ?_
      (queueAt_of_still (still_settleSample s j.slate id 2 0 j.slot j.keep (isHk j) j.jid) hq))
    split
    · rfl
    · exact queueAt_endJob ..

theorem tagAt_modTag_ne (q : Queue) {t o : Nat} (h : o ≠ t) (f : Tag → Tag) :
    tagAt { q with tags := tabModD q.tags t tagEmpty f } o = tagAt q o := by
  simp only [tagAt, tabModD, tabGetD_tabPut_ne _ _ _ h]

section Aborted

variable {s : State} {hq : Nat} {q : Queue}

/-- Tag `t` of queue `q` has settled in `u`, and no other tag of it has changed. -/
def SettledIn (u : State) (hq : Nat) (q : Queue) (t : Nat) : Prop :=
  ∃ q', queueAt u hq = some q' ∧ Settled (tagAt q' t) ∧ ∀ o, o ≠ t → tagAt q' o = tagAt q o

theorem settledIn_modTag (h : queueAt s hq = some q) {t : Nat} {f : Tag → Tag} (hf : Settled (f (tagAt q t))) :
    SettledIn (modTag s hq t f) hq q t :=
  ⟨_, queueAt_modTag h t f, by rwa [tagAt_modTag], fun _ ho => tagAt_modTag_ne q ho f⟩

/-- An abort settles its tag, whatever the tag holds (R142). -/
theorem settledIn_abortTag (h : queueAt s hq = some q) (t : Nat) : SettledIn (abortTag s hq t (tagAt q t)).1 hq q t := by
  have done {t : Tag} (ht : t.st = .done) : Settled t := by simp [Settled, ht]
  have counted (b : Bool) (f : Fld) : queueAt (if b then s else bump s (hqSlate hq) f) hq = some q := by cases b <;> exact h
  unfold abortTag
  cases hst : (tagAt q t).st with
  | held => exact settledIn_modTag (s := freeBufs (releaseTag s hq t _) _) h (done rfl)
  | active =>
    refine settledIn_modTag (s := match (tagAt q t).job with | some id => stopJob s id | none => s) ?_ (done rfl)
    split
    · exact (queueAt_stopJob ..).trans h
    · exact h
  | committed => exact settledIn_modTag (counted _ _) (by simp [Settled, hst])
  | done => exact settledIn_modTag (counted _ _) (done hst)
  | empty => exact settledIn_modTag (counted _ _) (by simp [Settled, hst])

end Aborted

/-! ### The mask of a reset (R152) -/

/-- The sum of the bits that stand for the keys of a table. -/
def keySum (l : Tab (Word × Resp)) : Nat := l.foldl (fun a p => a + 2 ^ p.1) 0

theorem resetMaskOf_eq (l : Tab (Word × Resp)) : resetMaskOf l = BitVec.ofNat 64 (keySum l) := rfl

theorem tabPut_above {α : Type} {t : Tab α} {x : Nat} (h : ∀ p ∈ t, p.1 < x) (a : α) : tabPut t x a = t ++ [(x, a)] := by
  induction t with
  | nil => rfl
  | cons p t ih =>
    obtain ⟨k, v⟩ := p
    have hk : k < x := h (k, v) (.head _)
    rw [tabPut, if_neg (by omega), if_neg (by omega), ih fun p hp => h p (.tail _ hp)]
    rfl

/-- A key above the others adds its own bit. -/
theorem testBit_keySum_tabPut {l : Tab (Word × Resp)} {n : Nat} (h : ∀ p ∈ l, p.1 < n) (hs : keySum l < 2 ^ n) (a : Word × Resp)
    (t : Nat) : (keySum (tabPut l n a)).testBit t = true ↔ t = n ∨ (keySum l).testBit t = true := by
  have sum : keySum (tabPut l n a) = 2 ^ n + keySum l := by
    rw [tabPut_above h, keySum, List.foldl_append]
    exact Nat.add_comm ..
  rw [sum]
  rcases lt_trichotomy t n with ht | rfl | ht
  · simp [Nat.testBit_two_pow_add_gt ht, ht.ne]
  · simp [Nat.testBit_two_pow_add_eq, Nat.testBit_lt_two_pow hs]
  · have high : 2 ^ n + keySum l < 2 ^ t := calc
      _ < 2 ^ n + 2 ^ n := by omega
      _ = 2 ^ (n + 1) := by ring
      _ ≤ 2 ^ t := Nat.pow_le_pow_right (by decide) ht
    simp [Nat.testBit_lt_two_pow high, Nat.testBit_lt_two_pow (show keySum l < 2 ^ t by omega), ht.ne']

/-! ### The outcomes of a reset (R152) -/

theorem foldl_range_induction {β : Type} {f : β → Nat → β} {P : Nat → β → Prop} {b : β} (h0 : P 0 b)
    (hs : ∀ n b, P n b → P (n + 1) (f b n)) (k : Nat) : P k ((List.range k).foldl f b) := by
  induction k with
  | zero => exact h0
  | succ k ih =>
    rw [List.range_succ, List.foldl_append]
    exact hs k _ ih

/-- A reset of queue `q` has come as far as tag `n`: the tags below it have settled, those from it on are as they were, and the
outcomes name those below it that were not EMPTY. -/
structure ResetBelow (hq : Nat) (q : Queue) (n : Nat) (p : State × Tab (Word × Resp)) : Prop where
  queue : ∃ q', queueAt p.1 hq = some q' ∧ (∀ t < n, Settled (tagAt q' t)) ∧ ∀ t, n ≤ t → tagAt q' t = tagAt q t
  keys : ∀ x ∈ p.2, x.1 < n
  mask : ∀ t, (keySum p.2).testBit t = true ↔ t < n ∧ (tagAt q t).st ≠ .empty

namespace ResetBelow

variable {hq n : Nat} {q : Queue} {s : State} {l : Tab (Word × Resp)}

theorem zero (h : queueAt s hq = some q) : ResetBelow hq q 0 (s, []) where
  queue := ⟨q, h, fun _ ht => absurd ht (Nat.not_lt_zero _), fun _ _ => rfl⟩
  keys := by simp
  mask := by simp [keySum]

theorem keySum_lt (h : ResetBelow hq q n (s, l)) : keySum l < 2 ^ n :=
  Nat.lt_pow_two_of_testBit _ fun t ht => Bool.eq_false_iff.2 fun hb => absurd ((h.mask t).1 hb).1 (Nat.not_lt.2 ht)

/-- An EMPTY tag is passed over. -/
theorem skip (h : ResetBelow hq q n (s, l)) (he : (tagAt q n).st = .empty) : ResetBelow hq q (n + 1) (s, l) where
  queue := by
    obtain ⟨q', hq', below, above⟩ := h.queue
    refine ⟨q', hq', fun t ht => ?_, fun t ht => above t (by omega)⟩
    rcases Nat.lt_succ_iff_lt_or_eq.1 ht with ht | rfl
    · exact below t ht
    · simp [Settled, above t le_rfl, he]
  keys x hx := Nat.lt_succ_of_lt (h.keys x hx)
  mask t := (h.mask t).trans ⟨fun ⟨ht, hs⟩ => ⟨Nat.lt_succ_of_lt ht, hs⟩, fun ⟨ht, hs⟩ =>
    ⟨lt_of_le_of_ne (Nat.lt_succ_iff.1 ht) (by rintro rfl; exact hs he), hs⟩⟩

/-- Any other tag settles and is named. -/
theorem settle (h : ResetBelow hq q n (s, l)) (he : (tagAt q n).st ≠ .empty) {u : State}
    (hu : ∀ q', queueAt s hq = some q' → SettledIn u hq q' n) (r : Word × Resp) : ResetBelow hq q (n + 1) (u, tabPut l n r) where
  queue := by
    obtain ⟨q', hq', below, above⟩ := h.queue
    obtain ⟨x, hx, here, others⟩ := hu q' hq'
    refine ⟨x, hx, fun t ht => ?_, fun t ht => (others t (by omega)).trans (above t (by omega))⟩
    rcases Nat.lt_succ_iff_lt_or_eq.1 ht with ht | rfl
    · rw [others t ht.ne]
      exact below t ht
    · exact here
  keys x hx := by
    rcases mem_tabPut hx with rfl | hx
    · exact Nat.lt_succ_self n
    · exact Nat.lt_succ_of_lt (h.keys x hx)
  mask t := by
    rw [testBit_keySum_tabPut h.keys h.keySum_lt, h.mask t]
    constructor
    · rintro (rfl | ⟨ht, hs⟩)
      · exact ⟨Nat.lt_succ_self t, he⟩
      · exact ⟨Nat.lt_succ_of_lt ht, hs⟩
    · rintro ⟨ht, hs⟩
      exact (Nat.lt_succ_iff_lt_or_eq.1 ht).symm.imp_right fun ht => ⟨ht, hs⟩

end ResetBelow

theorem still_sendResp (s : State) (q t : Nat) (nonce : Word) (r : Resp) (rt : ReplyTo) (dup : Bool) (job : Option Nat) :
    still (sendResp s q t nonce r rt dup job) = still s := still_send ..

/-- A reset comes past every tag, in ascending order. -/
theorem resetBelow_resetTags {s : State} {hq : Nat} {q : Queue} (h : queueAt s hq = some q) (rt : Option ReplyTo) :
    ResetBelow hq q 32 (resetTags s hq rt) := by
  unfold resetTags
  refine foldl_range_induction (.zero h) (fun n p hp => ?_) 32
  obtain ⟨s, l⟩ := p
  obtain ⟨q', hq', -, above⟩ := hp.queue
  have same : tagAt q' n = tagAt q n := above n le_rfl
  dsimp only
  rw [hq']
  dsimp only
  split
  next he => exact hp.skip (same ▸ he)
  next he =>
    refine hp.settle (same ▸ he) (fun x hx => ?_) _
    obtain rfl : q' = x := Option.some.inj (hq'.symm.trans hx)
    obtain ⟨y, hy, settled⟩ := settledIn_abortTag hx n
    refine ⟨y, Eq.trans ?_ hy, settled⟩
    split
    · exact queueAt_of_still (still_sendResp ..) hq
    · rfl

/-! ### QUEUE_RESET_ABORT (R152) -/

/-- What a reset leaves of its queue. -/
def ResetTo (q : Queue) (nonce : Word) (q' : Queue) : Prop :=
  q'.armed = true ∧ q'.resetNonce = nonce ∧
    ∀ t < 32, (bitOf q'.resetMask.toNat t = true ↔ (tagAt q t).st ≠ .empty) ∧ Settled (tagAt q' t)

/-- A queue with the nonce and the outcomes of a reset at time `t`. -/
def armedBy (nonce : Word) (l : Tab (Word × Resp)) (t : Nat) (q : Queue) : Queue :=
  { q with resetNonce := nonce, armed := true, resetMask := resetMaskOf l, resetTb := BitVec.ofNat 64 t, resetOut := l }

/-- A reset arms its queue, takes its nonce and names the tags that were not EMPTY (R152). -/
theorem queueAt_resetQueue {s : State} {hq : Nat} {q : Queue} (h : queueAt s hq = some q) (nonce : Word) (rt : Option ReplyTo) :
    ∃ q', queueAt (resetQueue s hq nonce rt) hq = some q' ∧ ResetTo q nonce q' := by
  have hr := resetBelow_resetTags h rt
  unfold resetQueue
  generalize resetTags s hq rt = p at hr
  obtain ⟨u, l⟩ := p
  obtain ⟨x, hx, settled, -⟩ := hr.queue
  have small : keySum l < 2 ^ 64 := hr.keySum_lt.trans (by decide)
  have named (t : Nat) (ht : t < 32) : bitOf (resetMaskOf l).toNat t = true ↔ (tagAt q t).st ≠ .empty := by
    rw [resetMaskOf_eq, BitVec.toNat_ofNat, Nat.mod_eq_of_lt small, bitOf_eq_testBit, hr.mask t]
    exact and_iff_right ht
  have armed := queueAt_modQueue hx (armedBy nonce l (now s (hqSlate hq)))
  have counted := (queueAt_of_still (still_bump _ (hqSlate hq) F.HQ.N_RESETS 1) hq).trans armed
  dsimp only
  refine ⟨armedBy nonce l (now s (hqSlate hq)) x, (queueAt_of_still (still_raise _ _ (by decide)) hq).trans ?_,
    rfl, rfl, fun t ht => ⟨named t ht, settled t ht⟩⟩
  cases rt with
  | none => exact counted
  | some rt => exact (queueAt_of_still (still_sendResp ..) hq).trans counted

theorem abortQueue_eq {s : State} {hq : Nat} {q : Queue} (h : queueAt s hq = some q) (d : Datagram) : abortQueue s hq d =
    if d.nonce = q.resetNonce then repeatReset s hq q (replyTo d)
    else if nonceFloor q < d.nonce.toNat then resetQueue s hq d.nonce (some (replyTo d))
    else bump s (hqSlate hq) F.XPORT.DUP_DISCARD := by
  unfold abortQueue
  rw [h]

/-- The use of a context does not move its nonce floor. -/
theorem nonceFloor_used (q : Queue) (r : Option RetAddr) (t : Nat) : nonceFloor { q with ret := r, lastTb := t } = nonceFloor q := rfl

section Reset

variable {s : State} {d : Datagram} {k : KeyEntry} {q : Queue} (h : Reaches s d k q) (form : headerOk s d tyAbort true true = true)
  (queued : d.flags.getLsbD 2 = true) (whole : d.hqTag.toNat % 32 = 0) (slot : d.slot = 0) (offset : d.offset = 0)
  (empty : d.payload = []) (fresh : d.nonce ≠ q.resetNonce)

include h form queued whole slot offset empty

theorem exec_queueResetAbort_reaches :
    exec (.queueResetAbort d) s = .next (abortQueue (judged s d k) (dgNumber d) (opened k d)) := by
  rw [exec_queueResetAbort h.proved.serves, ingress_reaches h (by simp [form, queued, whole, slot, offset, empty]) rfl, handOver_reaches h]

include fresh

theorem queueReset_above (floor : nonceFloor q < d.nonce.toNat) : Answers (.queueResetAbort d) s fun u =>
    ∃ q', queueAt u (dgNumber d) = some q' ∧ ResetTo q d.nonce q' := by
  obtain ⟨r, t, hq⟩ := queueAt_judged (k := k) h.queue
  refine ⟨_, exec_queueResetAbort_reaches h form queued whole slot offset empty, ?_⟩
  rw [abortQueue_eq hq, opened_nonce, if_neg fresh, nonceFloor_used, if_pos floor]
  exact queueAt_resetQueue hq _ _

theorem queueReset_stale (floor : d.nonce.toNat ≤ nonceFloor q) : Answers (.queueResetAbort d) s fun u =>
    u.frames = s.frames ∧ ∃ q', queueAt u (dgNumber d) = some q' ∧ q'.tags = q.tags ∧ q'.resetNonce = q.resetNonce := by
  obtain ⟨r, t, hq⟩ := queueAt_judged (k := k) h.queue
  refine ⟨_, exec_queueResetAbort_reaches h form queued whole slot offset empty, ?_⟩
  rw [abortQueue_eq hq, opened_nonce, if_neg fresh, nonceFloor_used, if_neg (Nat.not_lt.2 floor)]
  obtain ⟨r', qs, c, hj⟩ := judged_eq s d k
  refine ⟨?_, _, (queueAt_of_still (still_bump ..) _).trans hq, rfl, rfl⟩
  rw [bump_frames, hj]

end Reset

end Sys2Proof.QueueResets
end

section
/-! Contexts that have been fetched, the pause of the park queue, and buffers that come free (R136, R137, R141). -/

namespace Sys2Proof.ContextMoments

open Sys2Proof Sys2Proof.Machine Sys2Proof.Stillness Sys2Proof.Answering Sys2Proof.InboundBytes Sys2Proof.QueueResets
open Sys2Proof.Ports (answers_of_if tabGet_filter_none)
open Sys2Proof.Moments (tabGet_filter_key)

/-! ### CONTEXT_FETCH_DONE (R136) -/

theorem refill_none {s : State} {sl : Nat} (h : tabGetD s.heldDg sl [] = []) : refill s sl = s := by
  unfold refill
  rw [h]
  rfl

/-- A state in which the fetch of a context has ended and is counted. -/
def fetchEnded (s : State) (hq : Nat) : State :=
  bump { s with fetching := s.fetching.filter (· != hq) } (hqSlate hq) F.HQ.FETCHES

/-- The datagrams of a queue that wait for its context. -/
def waiting (s : State) (hq : Nat) : List Parked := (tabGetD s.park (hqSlate hq) []).filter fun p => p.hq == hq

/-- A state in which a context is resident and the datagrams that waited for it have left the park queue. -/
def unparked (s : State) (hq : Nat) : State :=
  { modQueue s hq fun q => { q with resident := true } with
    park := tabPut s.park (hqSlate hq) ((tabGetD s.park (hqSlate hq) []).filter fun p => p.hq != hq) }

theorem park_fetchEnded (s : State) (hq : Nat) : (fetchEnded s hq).park = s.park := bump_park ..

theorem heldDg_fetchEnded (s : State) (hq : Nat) : (fetchEnded s hq).heldDg = s.heldDg := bump_heldDg ..

theorem heldDg_unparked (s : State) (hq : Nat) : (unparked s hq).heldDg = s.heldDg := rfl

theorem processAll_nil (s : State) (sl : Nat) : processAll s sl [] = s := rfl

/-- A store with room evicts no context. -/
theorem makeResidentRoom_of_room {s : State} {sl : Nat} (room : (residents s sl).length < 24576) : makeResidentRoom s sl = s := by
  unfold makeResidentRoom
  exact if_pos room

section Fetched

variable {s : State} {hq : Nat} (h : serving s (hqSlate hq) = true)

include h

theorem exec_contextFetchDone : exec (.contextFetchDone hq) s = .next
    (if !(underWay s (hqSlate hq)).contains hq then s
    else
      let t := fetchEnded (makeResidentRoom s (hqSlate hq)) hq
      refill (processAll (unparked t hq) (hqSlate hq) (waiting t hq)) (hqSlate hq)) :=
  (rfl : _ = execContextFetchDone hq s).trans (onSlate_serving _ h)

theorem contextFetchDone_idle (away : hq ∉ underWay s (hqSlate hq)) : exec (.contextFetchDone hq) s = .next s := by
  rw [exec_contextFetchDone h, if_pos (by simp [away])]

variable {q : Queue} (registered : queueAt s hq = some q) (alone : ∀ p ∈ tabGetD s.park (hqSlate hq) [], p.hq ≠ hq)
  (free : tabGetD s.heldDg (hqSlate hq) [] = []) (room : (residents s (hqSlate hq)).length < 24576)
  (fetch : hq ∈ underWay s (hqSlate hq))

include alone free room fetch

/-- With room for the context and no datagram that waits, the fetch ends and nothing else follows. -/
theorem exec_contextFetchDone_alone : exec (.contextFetchDone hq) s = .next (unparked (fetchEnded s hq) hq) := by
  have nobody : waiting (fetchEnded s hq) hq = [] := by
    rw [waiting, park_fetchEnded, List.filter_eq_nil_iff]
    exact fun p hp => by simpa using alone p hp
  have held : tabGetD (unparked (fetchEnded s hq) hq).heldDg (hqSlate hq) [] = [] := by
    rwa [heldDg_unparked, heldDg_fetchEnded]
  rw [exec_contextFetchDone h, if_neg (by simp [fetch]), makeResidentRoom_of_room room]
  dsimp only
  rw [nobody, processAll_nil, refill_none held]

include registered

theorem contextFetchDone_resident : Answers (.contextFetchDone hq) s fun u => hq ∉ u.fetching ∧
    queueAt u hq = some { q with resident := true } ∧
    getF u (hqSlate hq) F.HQ.FETCHES = (getF s (hqSlate hq) F.HQ.FETCHES + 1) % 2 ^ F.HQ.FETCHES.w := by
  have kept : queueAt (fetchEnded s hq) hq = some q := (queueAt_of_still (still_bump ..) hq).trans registered
  have counted := getF_bump_self { s with fetching := s.fetching.filter (· != hq) } (hqSlate hq) F.HQ.FETCHES 1 (by decide)
  refine ⟨_, exec_contextFetchDone_alone h alone free room fetch, fun hm => ?_, queueAt_modQueue kept _,
    (getF_congr (s := fetchEnded s hq) rfl rfl _ _).trans counted⟩
  have hm' : hq ∈ (fetchEnded s hq).fetching := hm
  rw [fetchEnded, bump_fetching] at hm'
  simpa using (List.mem_filter.1 hm').2

end Fetched

/-! ### PARK_PAUSE_RELEASE (R137) -/

section Pause

variable {s : State} {sl : Nat} (h : serving s sl = true)

/-- The park queue is below PARK_LOW and no datagram is held at its port. -/
def Low (s : State) (sl : Nat) : Prop := tabGetD s.heldDg sl [] = [] ∧ parkUsed s sl < getF s sl F.HQ.PARK_LOW

theorem pauseKey_div (x : Nat) {p : Nat} (hp : p < 8) : pauseKey x p / 8 = x := by
  unfold pauseKey
  omega

include h

theorem exec_parkPauseRelease : exec (.parkPauseRelease sl) s = .next
    (if (tabGetD s.heldDg sl []).isEmpty && decide (parkUsed s sl < getF s sl F.HQ.PARK_LOW) then
      { s with pausePark := s.pausePark.filter fun p => p.1 / 8 != sl } else s) :=
  (rfl : _ = execParkPauseRelease sl s).trans (onSlate_serving _ h)

theorem parkPauseRelease_low (low : Low s sl) : Answers (.parkPauseRelease sl) s fun u =>
    (∀ p < 8, tabGetD u.pausePark (pauseKey sl p) 0 = 0) ∧
    ∀ x p, x ≠ sl → p < 8 → tabGet u.pausePark (pauseKey x p) = tabGet s.pausePark (pauseKey x p) := by
  obtain ⟨held, below⟩ := low
  refine answers_of_if (exec_parkPauseRelease h) (by simp [held, below]) ⟨fun p hp => ?_, fun x p hx hp => ?_⟩
  · rw [tabGetD, tabGet_filter_none _ fun _ => by simp [pauseKey_div sl hp], Option.getD_none]
  · exact tabGet_filter_key (f := fun k => k / 8 != sl) (by simp [pauseKey_div x hp, hx]) _

theorem parkPauseRelease_idle (high : ¬ Low s sl) : exec (.parkPauseRelease sl) s = .next s := by
  rw [exec_parkPauseRelease h, if_neg (by simpa [Low] using high)]

end Pause

/-! ### A COMMAND that gets its buffer (R141) -/

/-- The command of a COMMAND, with the inbound buffer it gets. -/
def cmdOf (s : State) (p : Parked) : Cmd := { cmdFrom p.dg p.rights p.tb with buf := some s.nextBuf }

/-- A state in which the tag of a COMMAND is HELD and its inbound buffer waits for DATA. -/
def heldWith (s : State) (p : Parked) : State :=
  beginTag (newBuffer s { slate := hqSlate p.hq, len := capIn p.dg.payload, data := [], inbound := true, arrived := [] }).1
    p.hq (p.dg.hqTag.toNat % 32) p.dg.nonce .held (cmdOf s p)

/-- The entry of a command in the hazard table moves nothing beside that table. -/
theorem still_addHazard (s : State) (hq t : Nat) (nonce : Word) (c : Cmd) :
    ∃ hz n, still (addHazard s hq t nonce c) = still { s with hazards := hz, hazSeq := n } := by
  unfold addHazard
  split
  · exact ⟨s.hazards, s.hazSeq, rfl⟩
  extract_lets
  split
  · exact ⟨_, s.hazSeq, rfl⟩
  · exact ⟨_, _, (still_detect _ _ (by decide) _).trans (still_bump ..)⟩

/-- A COMMAND enters HELD with its buffer, and beside the hazard table nothing else moves (R141 step 7). -/
theorem still_holdCommand {s : State} {p : Parked} (inbound : capIn p.dg.payload ≠ 0) (awake : s.power.now ≠ 2) :
    ∃ hz n, still (holdCommand s p.hq (p.dg.hqTag.toNat % 32) p.dg.nonce (cmdFrom p.dg p.rights p.tb)) =
      still { heldWith s p with hazards := hz, hazSeq := n } := by
  obtain ⟨hz, n, entered⟩ := still_addHazard (heldWith s p) p.hq (p.dg.hqTag.toNat % 32) p.dg.nonce (cmdOf s p)
  have counted := (still_countSrc _ (hqSlate p.hq) srcCmdAdmit 1).trans entered
  have power := power_of_still counted
  refine ⟨hz, n, Eq.trans (congrArg still ?_) counted⟩
  have wide : (cmdFrom p.dg p.rights p.tb).inLen ≠ 0 := inbound
  unfold holdCommand
  simp only [wide, if_false]
  exact if_neg fun e => awake ((congrArg PowerSt.now power).symm.trans e.1)

/-- A COMMAND for a tag that was never used, once the pool supplies its buffer, enters HELD (R119, R141). -/
theorem admitCommand_supplied {s : State} {p : Parked} {q : Queue} (h : queueAt s p.hq = some q) (armed : q.armed = true)
    (new : q.resetNonce.toNat < p.dg.nonce.toNat) (tag : tagAt q (p.dg.hqTag.toNat % 32) = tagEmpty)
    (room : inFlight s (hqSlate p.hq) < 65536) (form : capsuleOk p.dg.payload = true) (awake : s.power.now ≠ 2)
    (steady : s.power.target = none) :
    admitCommand s p true = holdCommand s p.hq (p.dg.hqTag.toNat % 32) p.dg.nonce (cmdFrom p.dg p.rights p.tb) := by
  have idle : tagBusy tagEmpty = false := rfl
  have unused : tagEmpty.last = none ∧ tagEmpty.bar = none := ⟨rfl, rfl⟩
  have served : psRefuses s (cmdFrom p.dg p.rights p.tb) = false := by simp [psRefuses, awake, steady]
  unfold admitCommand
  dsimp only
  rw [h]
  simp only [armed, tag, idle, form, served, Nat.not_le.2 new, Nat.not_le.2 room, unused, Bool.not_true, Bool.false_eq_true, if_false,
    reduceCtorEq, Bool.true_or, if_true]

section Supplied

variable {s : State} {sl : Nat} (h : serving s sl = true)

include h

theorem inboundBufferAlloc_idle (nobody : tabGetD s.bufWait sl [] = []) : exec (.inboundBufferAlloc sl) s = .next s := by
  refine (rfl : _ = execInboundBufferAlloc sl s).trans ((onSlate_serving _ h).trans ?_)
  rw [nobody]

variable {p : Parked} {r : List Parked} (first : tabGetD s.bufWait sl [] = p :: r) (alone : ∀ x ∈ r, x.hq ≠ p.hq)

include first alone

/-- The first COMMAND is judged again; none of its queue waits behind it. -/
theorem exec_inboundBufferAlloc_alone : exec (.inboundBufferAlloc sl) s = .next
    (refill (admitCommand { s with bufWait := tabPut s.bufWait sl r } p true) sl) := by
  have parts : r.partition (fun x => x.hq == p.hq) = ([], r) := by
    rw [List.partition_eq_filter_filter, List.filter_eq_nil_iff.2 fun x hx => by simpa using alone x hx,
      List.filter_eq_self.2 fun x hx => by simpa using alone x hx]
  refine (rfl : _ = execInboundBufferAlloc sl s).trans ((onSlate_serving _ h).trans ?_)
  rw [first]
  dsimp only
  rw [parts]
  rfl

variable {q : Queue} (free : tabGetD s.heldDg sl [] = []) (registered : queueAt s p.hq = some q) (owner : hqSlate p.hq = sl)
  (armed : q.armed = true) (new : q.resetNonce.toNat < p.dg.nonce.toNat) (tag : tagAt q (p.dg.hqTag.toNat % 32) = tagEmpty)
  (room : inFlight s sl < 65536) (form : capsuleOk p.dg.payload = true) (inbound : capIn p.dg.payload ≠ 0)
  (awake : s.power.now ≠ 2) (steady : s.power.target = none)

include free registered owner armed new tag room form inbound awake steady

theorem inboundBufferAlloc_held : Answers (.inboundBufferAlloc sl) s fun u => tabGetD u.bufWait sl [] = r ∧
    (∃ x, bufOf u s.nextBuf = some x ∧ x.len = capIn p.dg.payload ∧ x.inbound = true ∧ x.arrived = []) ∧
    ∃ q' c, queueAt u p.hq = some q' ∧ (tagAt q' (p.dg.hqTag.toNat % 32)).st = .held ∧
      (tagAt q' (p.dg.hqTag.toNat % 32)).cmd = some c ∧ c.buf = some s.nextBuf := by
  subst owner
  let t : State := { s with bufWait := tabPut s.bufWait (hqSlate p.hq) r }
  have judged := admitCommand_supplied (s := t) registered armed new tag room form awake steady
  obtain ⟨hz, n, same⟩ := still_holdCommand (s := t) inbound awake
  rw [← judged] at same
  have held : (admitCommand t p true).heldDg = s.heldDg := (congrArg State.heldDg same :)
  have wait : (admitCommand t p true).bufWait = t.bufWait := (congrArg State.bufWait same :)
  have buffers : (admitCommand t p true).buffers = (heldWith t p).buffers := (congrArg State.buffers same :)
  have queue : queueAt (admitCommand t p true) p.hq = queueAt (heldWith t p) p.hq := queueAt_of_still same p.hq
  have done := exec_inboundBufferAlloc_alone h first alone
  rw [refill_none (by rwa [held])] at done
  refine ⟨_, done, ?_, ⟨_, (congrArg (tabGet · s.nextBuf) buffers).trans (tabGet_tabPut_self ..), rfl, rfl, rfl⟩,
    _, cmdOf t p, queue.trans (queueAt_modTag (s := (newBuffer t _).1) registered _ _), ?_, ?_, rfl⟩
  · rw [wait]
    exact tabGetD_tabPut_self ..
  · rw [tagAt_modTag]
  · rw [tagAt_modTag]

end Supplied

/-- Settles O36: a reset by its nonce, a fetch by whether it is under way, the pause by the park queue, a buffer by who waits for one. -/
theorem queueResetAndContexts : Obligations.QueueResetAndContexts := by
  unfold Obligations.QueueResetAndContexts
  refine ⟨fun s d k q reaches form queued whole slot offset empty => ?_, fun s hq q serves registered alone free room => ?_,
    fun s sl serves => ?_⟩
  · exact ⟨fun floor fresh => queueReset_above reaches form queued whole slot offset empty fresh floor,
      fun floor fresh => queueReset_stale reaches form queued whole slot offset empty fresh floor⟩
  · exact ⟨contextFetchDone_idle serves, contextFetchDone_resident serves registered alone free room⟩
  · refine ⟨parkPauseRelease_low serves, parkPauseRelease_idle serves, inboundBufferAlloc_idle serves, ?_⟩
    intro p r q first free registered owner alone t armed new tag room form inbound awake steady _
    exact inboundBufferAlloc_held serves first alone free registered owner armed new tag room form inbound awake steady

end Sys2Proof.ContextMoments
end
